-- ==== Sys2Proof/Word.lean ====
section
/-! DEFINITION. The bit-vector types of the model: a byte and a 32-bit word. -/
namespace Sys2Proof

/-- One byte of a byte string, a memory line or a register of the sequencers. -/
abbrev Byte := BitVec 8

/-- One 32-bit register word. -/
abbrev Word := BitVec 32

end Sys2Proof
end

