-- ==== Sys2Proof/Machine/Sparse.lean ====
section
/-! DEFINITION. Sparse stores: lists of key and value pairs in one canonical form, with a stated default. -/
namespace Sys2Proof.Machine

/-- A store by key. Canonical: keys strictly rising, no entry equal to the default of its key. -/
abbrev Sparse (α : Type) := List (Nat × α)

/-- The value at key `k`; `d` where nothing is listed. -/
def Sparse.get {α : Type} (d : α) : Sparse α → Nat → α
  | [], _ => d
  | (j, v) :: m, k => if j = k then v else Sparse.get d m k

/-- The store with `v` listed at `k`, in key order. -/
def Sparse.insert {α : Type} : Sparse α → Nat → α → Sparse α
  | [], k, v => [(k, v)]
  | (j, w) :: m, k, v =>
    if k < j then (k, v) :: (j, w) :: m
    else if j = k then (k, v) :: m
    else (j, w) :: Sparse.insert m k v

/-- The store with nothing listed at `k`. -/
def Sparse.erase {α : Type} : Sparse α → Nat → Sparse α
  | [], _ => []
  | (j, w) :: m, k => if j = k then Sparse.erase m k else (j, w) :: Sparse.erase m k

/-- A write at `k`: the default's entry is removed, so that equal stores are equal lists. -/
def Sparse.set {α : Type} [DecidableEq α] (d : α) (m : Sparse α) (k : Nat) (v : α) : Sparse α :=
  if v = d then Sparse.erase m k else Sparse.insert m k v

/-- The value at `k` changed by `f`. -/
def Sparse.upd {α : Type} [DecidableEq α] (d : α) (m : Sparse α) (k : Nat) (f : α → α) : Sparse α :=
  Sparse.set d m k (f (Sparse.get d m k))

/-- Every listed value changed by `f`; entries that become the default are removed. -/
def Sparse.mapVals {α : Type} [DecidableEq α] (d : α) (f : Nat → α → α) : Sparse α → Sparse α
  | [] => []
  | (j, v) :: m => if f j v = d then Sparse.erase (Sparse.mapVals d f m) j else (j, f j v) :: Sparse.mapVals d f m

/-- Is `k` below every listed key? -/
def Sparse.below {α : Type} (k : Nat) : Sparse α → Bool
  | [] => true
  | (j, _) :: _ => k < j

/-- The canonical form: keys strictly rising, no entry equal to `d k`, the default of its key. -/
def Sparse.wf {α : Type} [DecidableEq α] (d : Nat → α) : Sparse α → Bool
  | [] => true
  | (j, v) :: m => Sparse.below j m && decide (v ≠ d j) && Sparse.wf d m

end Sys2Proof.Machine
end

