-- ==== Sys2Proof/Operand.lean ====
section
/-! DEFINITION. The types of the commands' operands: functions, contexts, instruction fields, and what a peer module sends (keys, table lines, roots, deltas). -/
namespace Sys2Proof

/-- A PCIe function: the PF of a port, or a VF of it (R32). -/
inductive Func
  | pf (port : Fin 2)
  | vf (port : Fin 2) (n : Fin 512)
deriving DecidableEq, Repr

/-- The registers of a function's configuration space that the standards of Table 0.4 give a meaning here (R5, R29): the message control of MSI-X,
the SR-IOV control of a PF, Device Control (Max_Payload_Size, Max_Read_Request_Size), and the AER uncorrectable error status. -/
inductive ConfigReg
  | msixControl
  | sriovControl
  | deviceControl
  | aerStatus
deriving DecidableEq, Repr

/-- Where a register write lands: the function's BAR0, its MSI-X table (16 bytes for each vector), or its configuration space. -/
inductive RegSpace
  | bar0
  | msixTable
  | config (r : ConfigReg)
deriving DecidableEq, Repr

/-- How a read of host memory fails (R39, R48). -/
inductive ReadError
  | unsupported
  | completerAbort
  | poisoned
  | timeout
deriving DecidableEq, Repr

/-- What a read of host memory answers: its bytes, or an error. -/
inductive HostRead
  | data (bytes : List Byte)
  | failed (e : ReadError)
deriving DecidableEq, Repr

/-- The registers whose read latches their high half (R409): Quartz time, domain time and the journal count. -/
inductive LatchReg
  | nowLo
  | dtLo
  | jcountLo
deriving DecidableEq, Repr

/-- What a function level reset covers: one function, or every VF of a port's PF when host software clears VF Enable (R57). -/
inductive FlrTarget
  | function (f : Func)
  | vfEnable (port : Fin 2)
deriving DecidableEq, Repr

/-- A context: its cipher cluster and its number in that cluster's sequencer (R62). -/
structure Ctx where
  cc : Fin 16
  ix : Fin 64
deriving DecidableEq, Repr

/-- The command a data DMA error ends: the staged command whose input is being read, a running context's input or output transfer
(R48), or a command on its way to or back from a peer (R376): the staged one whose input is being read to be forwarded, or the one whose output,
come back over a link under a tag, is being written. -/
inductive DmaVictim
  | staged (e : ReadError)
  | input (c : Ctx) (e : ReadError)
  | output (c : Ctx)
  | forwardInput (e : ReadError)
  | forwardOutput (link : Fin 8) (tag : Nat)
deriving DecidableEq, Repr

/-- The operand fields of an instruction word (Table 3.2); CLASS and OP are the command's. -/
structure Insn where
  d : Fin 16 := 0
  a : Fin 16 := 0
  b : Fin 16 := 0
  ka : Fin 4 := 0
  kd : Fin 4 := 0
  modi : BitVec 8 := 0
  imm : BitVec 32 := 0
deriving DecidableEq, Repr

/-- Who makes an HBM access (Tables 9.2, 9.5): a fill or operation of the table engine for a context, a program-cache fill, a copy of the
format, derivation or curve table, a partition-table read, the host queue engine for a staged command or a context, firmware,
replication, the scrubber or repair, the sweeper, or the card and SD DMA. -/
inductive HbmUse
  | geode (c : Ctx)
  | program (c : Ctx)
  | tableCopy
  | partTable
  | hqeStaged
  | hqe (c : Ctx)
  | core
  | replication
  | scrubber
  | sweeper
  | cardDma
deriving DecidableEq, Repr

/-- What a controller finds in a line it reads (R241, R242, R246). -/
inductive LineCheck
  | clean
  | corrected
  | uncorrectable
  | macFail
deriving DecidableEq, Repr

/-- The kind of a bus master's access (R267): a read, a write, or a control core's instruction fetch. -/
inductive AccessKind
  | read
  | write
  | fetch
deriving DecidableEq, Repr

/-- A peer's handshake as this end judges it (R358): its serial and MEMBER_NO, whether both signatures of its transcript verify, whether it proves
the domain master secret, and the shared secrets of the two exchanges. -/
structure Hello where
  peer : BitVec 64
  member : Fin 4096
  sigsOk : Bool
  proofOk : Bool
  shared : List Byte
deriving DecidableEq, Repr

/-- What the core of a DRBG instance shows as it is instantiated: do its known-answer tests pass, and do its twins agree (R224, R227)? -/
structure CoreTest where
  katOk : Bool
  twinOk : Bool
deriving DecidableEq, Repr

/-- How a peer's answer says a forwarded command ended (Table 2.7, R376). -/
structure PeerEnd where
  status : Fin 256
  detail : BitVec 16
  resultLen : Fin 17
  result : List Byte
  cluster : Fin 32
  serviceNs : Nat
  linkNs : Nat
deriving DecidableEq, Repr

/-- What the environment decides of a shipped program's run: whether its completion is written; the unit whose first operation for the program
gives differing twin results (lane 0-3, hash unit 4, format unit 5), and which of its operations on the public-key clusters does, counted from 0 (R98,
R216); the key field whose fill finds a bad line MAC, with the record's place in the chain (R208); the 64-byte random blocks an RSA key pair
requests (R161). -/
structure ProgramRun where
  wrOk : Bool := true
  twin : Option (Fin 6) := none
  pkTwin : Option (Fin 2) := none
  macBad : Option (Fin 3 × Nat) := none
  iters : Nat := 1
deriving DecidableEq, Repr

/-- What a sponsor sends a joiner (R361): the domain master secret, DOMAIN_ID, domain time, and of each partition its open epoch, its schedule
sequence and the pending schedule's Ts and Tov in ns. -/
structure Sponsorship where
  secret : List Byte
  id : BitVec 64
  time : Nat
  epochs : List (Fin 1024 × Nat × Nat × Option (Nat × Nat))
deriving DecidableEq, Repr

/-- What a card answers (R416, R419): its answer to reset, which may forbid the class, allow clock stop, choose T=1 and offer as its highest pair up to 20 MHz
this Fi/Di and this clock in MHz; its answer to the request for that pair; or the status word and the data of a response. -/
inductive CardAnswer
  | atr (allows clockStop t1 : Bool) (mhz : Fin 32) (fidi : BitVec 8)
  | pps (accepted : Bool)
  | response (status : BitVec 16) (data : List Byte)
deriving DecidableEq, Repr

/-- An SD or eMMC medium as the host meets it (R423, R427, R428): whether it offers 1.8 V signalling; the modes of Table 18.2 it supports, those it
reports when they are requested and those whose tuning passes, a bit each; the bus width an eMMC device takes; the block record C + 1 goes to; and
of an eMMC device whether its RPMB key is the module's (none: unprogrammed) and its write counter. -/
structure Medium where
  emmc : Bool
  s18a : Bool
  supports : BitVec 8
  reports : BitVec 8
  tunes : BitVec 8
  width : Fin 3
  block : List Byte
  rpmbKey : Option Bool
  rpmb : Nat
deriving DecidableEq, Repr

/-- One sample of an Obsidian monitor input (R285): the input, whether its condition is present in the world outside, and the cause it would log
(Table 11.3: the trace of a mesh fault, the island of a clock fault). Of MESH_PATTERN `present` says whether the continuity is intact, and `returned` is the
pattern that came back (R286); the temperature inputs show their conditions in the readings. -/
structure MonitorSample where
  input : Fin 32
  present : Bool
  cause : BitVec 8
  returned : BitVec 64 := 0
deriving DecidableEq, Repr

end Sys2Proof

namespace Sys2Proof.Machine

/-- Key types (Table 7.3, TYPE). -/
inductive KType
  | secret | priv | pub
deriving DecidableEq, Repr

/-- The TYPE coding of Table 7.3. -/
def KType.code : KType → Nat
  | .secret => 1 | .priv => 2 | .pub => 3

/-- A key: its material and the attributes its record's header carries (Table 7.3). -/
structure Key where
  ktype : KType := .secret
  cls : Nat := 0
  sel : Nat := 0
  level : Nat := 6
  usage : Nat := 0
  attr : Nat := 0
  epoch : Nat := 0
  created : Nat := 0
  kcv : List Byte := [0, 0, 0]
  material : List Byte := []
deriving DecidableEq, Repr

/-- A key record: its key, its parent and the version of it, the partition that owns it and the table epoch it was wrapped under
(Table 7.3). -/
structure KeyRecord where
  key : Key := {}
  parent : Nat := 0xFFFFFFFF
  parentGen : Nat := 0
  owner : Nat := 0
  tepoch : Nat := 1
deriving DecidableEq, Repr

/-- One line of the key table (R199): virgin (GEN 0 and nothing), the base line of a live record, a tombstone (the header of what it was,
not live), or an extension line of a base. -/
structure KeyLine where
  gen : Nat := 0
  record : Option KeyRecord := none
  live : Bool := false
  extOf : Option Nat := none
deriving DecidableEq, Repr

/-- A root of Table 7.1 level 2: its generation and its key; the key is absent when the root does not exist or was destroyed. -/
structure Root where
  gen : Nat := 0
  key : Option (List Byte) := none
deriving DecidableEq, Repr

/-- Partition states (Table 10.1). -/
inductive PState
  | active | frozen | draining | off
deriving DecidableEq, Repr

/-- The PSTATE coding of Table 2.13. -/
def PState.code : PState → Nat
  | .active => 0 | .frozen => 1 | .draining => 2 | .off => 3

/-- An officer record (Table 10.3). -/
structure Officer where
  oid : Nat := 0
  role : Nat := 0
  ktype : Nat := 0
  keyfp : List Byte := []
  lastSeq : Nat := 0
  name : List Byte := []
deriving DecidableEq, Repr

/-- The tables whose images the staging programs stage (class 4 of Table 10.6), and the service applets (R402). -/
inductive ImageTable
  | program | format | derivation | curve | applet
deriving DecidableEq, Repr

/-- One entry of a change set (R272, R273): a register word with the selector it stands under, a table image (empty: the entry is
emptied), a VF of a partition, the creation or deletion of a partition, an officer record, a new partition root, a life-cycle command
with its token (R311), or the re-provisioning, from the pair partner or from no source (R395). -/
inductive Change
  | word (addr select value : Nat)
  | image (table : ImageTable) (index : Nat) (bytes : List Byte)
  | vf (part index : Nat) (f : Option Func)
  | create (part : Nat)
  | delete (part : Nat)
  | officer (part index : Nat) (o : Officer)
  | newRoot (part : Nat)
  | lifeCycle (target : Nat) (token : List Byte)
  | reProvision (fromPartner : Bool)
deriving DecidableEq, Repr

/-- An instruction with its class and operation (Table 3.2). -/
structure Code where
  cls : Nat
  op : Nat
  w : Insn
deriving DecidableEq, Repr

/-- A program image (Table 3.8), read; `code` is empty for a shipped program whose instructions the spec does not list. -/
structure Image where
  modes : Nat := 0
  pver : Nat := 0
  consts : List (List Byte) := []
  lenM1 : Nat := 0
  code : List Code := []
  usesPkx : Bool := false
deriving DecidableEq, Repr

/-- A slot of the program table: the image it holds, read, the number of commits made to it (R90), and the bytes an integrator's image was read
from (R86). -/
structure ProgSlot where
  image : Option Image := none
  commits : Nat := 0
  bytes : List Byte := []
deriving DecidableEq, Repr

/-- A partition: its committed table entry (Table 10.2), its state, its registers of Table 2.13 and its run-time counts;
`freezing` while a freeze is not complete (R260). -/
structure Part where
  created : Bool := false
  domain : Bool := false
  pstate : PState := .off
  freezing : Bool := false
  fwdEn : Bool := false
  fwdThresh : Nat := 0x40
  gateFroze : Bool := false
  weight : Nat := 1
  retry : Bool := true
  quota : Nat := 64
  xbarWeight : Nat := 1
  ephQuota : Nat := 256
  quotaPart : Nat := 0
  quotaDom : Nat := 0
  quotaMod : Nat := 0
  cres : Nat := 0
  wbase : Nat := 0
  wsize : Nat := 0
  prevOk : Bool := false
  rollBusy : Bool := false
  tepoch : Nat := 1
  vfs : List (Option Func) := []
  proot : Root := {}
  droot : Root := {}
  mroot : Root := {}
  epoch : Nat := 1
  epTs : Nat := 0
  epTov : Nat := 0
  epPending : Option (Nat × Nat) := none
  overlap : Bool := false
  epSeq : Nat := 0
  epCancelled : Bool := false
  replLog : List (Nat × Nat) := []
  replLost : Bool := false
  pen : Nat := 0
  officers : List Officer := []
  busyCnt : Nat := 0
  fetchCnt : Nat := 0
  pevt : Nat := 0
  pevtEn : Nat := 0
  pevtVec : Nat := 3
  abortTag : Nat := 0
  abortQueue : Nat := 0
  abortBusy : Bool := false
  abortResult : Nat := 0
  abortCount : Nat := 0
  winDone : Nat := 0
  lastWinDone : Nat := 0
  busyInWin : Bool := false
  quietWin : Bool := false
  lastQp : Nat := 63
  loadRefused : Nat := 0
deriving DecidableEq, Repr

/-- The committed state as a copy of the configuration flash holds it (R263, R276): guarded registers, partition entries, images, the tamper
response table, the firmware's module-scope key records (R197), and the sequences of the last seal and the last change included. `key` is the MMK under
whose key the region was encrypted and authenticated (R13). -/
structure Flash where
  key : List Byte := []
  regs : Sparse Nat := []
  parts : Sparse Part := []
  progs : Sparse ProgSlot := []
  fmt : Sparse (List Byte) := []
  der : Sparse (List Byte) := []
  curves : Sparse (List Byte) := []
  applets : Sparse (List Byte) := []
  resp : Sparse Nat := []
  filtN : Sparse Nat := []
  filtM : Sparse Nat := []
  moduleKeys : Sparse KeyLine := []
  seq : Nat := 0
  done : Nat := 0
deriving DecidableEq, Repr

/-- What a delta to the standby carries (R343). -/
inductive Delta
  /-- A key-table line as written. -/
  | line (key : Nat) (l : KeyLine)
  /-- A partition state change. -/
  | pstate (part : Nat) (st : PState)
  /-- TEPOCH and PREV_OK of a partition. -/
  | roll (part tepoch : Nat) (prevOk : Bool)
  /-- The roots of a partition. -/
  | roots (part : Nat) (p d m : Root)
  /-- A gate apply: the changes of the set, each as its target and its bytes. -/
  | apply (seq : Nat) (changes : List Change)
  /-- The committed state a resynchronisation starts with (R348). -/
  | committed (flash : Flash)
  /-- How many lines a resynchronisation sends (Table 14.5, RESYNC_LEFT). -/
  | resync (lines : Nat)
deriving DecidableEq, Repr

end Sys2Proof.Machine

namespace Sys2Proof

/-- What a message of a peer says that no row of its own brings (log 232): the session is closed (Table 15.5, DOWN_CAUSE 3); the highest sequences the
neighbour holds, of each origin and of each partition's schedules, as a tree re-forms (R368, R372); it asks for the full catch-up, or for the enrolment of a joiner,
of the partitions it has (R361); a scope 1 record of a catch-up; a command it forwarded is aborted (R377); a standby asks for a
resynchronisation (R348). -/
inductive PeerMessage
  | closes
  | holds (origins : List (Fin 4096 × Nat)) (schedules : List (Fin 1024 × Nat))
  | asksCatchup (parts : List (Fin 1024))
  | joins (parts : List (Fin 1024))
  | record (part : Fin 1024) (handle : Word) (line : Machine.KeyLine)
  | aborts (tag : Nat)
  | asksResync
deriving DecidableEq, Repr

/-- A flit as it arrives: its 256 bytes (Table 15.2), the codewords the FEC corrected, whether the FEC gave them good, the flits the peer asks to
have resent, the staging capacity its message advertises, and what the message says that it completes (R355, R356, R376). -/
structure Flit where
  bytes : List Byte
  corrected : Nat
  fecOk : Bool
  resend : Nat
  capacity : Option Nat
  brings : Option PeerMessage := none
deriving DecidableEq, Repr

end Sys2Proof
end

