-- ==== Sys2Proof/Syntax.lean ====
section
/-! DEFINITION. The commands the module takes: one constructor per row of the table of operations and events, with the operands that say which unit the command concerns and what the world outside the module supplies. -/
namespace Sys2Proof

/-- The commands of the module: one constructor for each row of the table of operations and events, in the table's order. Every
docstring names the row and the rule the table gives it. -/
inductive Instr
  /-- REGISTER_WRITE (R8). A write to a register field that has no behaviour of its own sets, clears or ignores it according to its access code. -/
  | registerWrite (fn : Func) (space : RegSpace) (word : Fin 0x1000000) (value : Word)
  /-- INT_FORCE (R462). A write to INT_FORCE sets the matching INT_RAW bits of a page. -/
  | intForce (fn : Func) (page : Fin 0x4000) (value : Word)
  /-- PORT_TRAIN (R30). A PCIe port trains to the highest generation and width that both ends and the caps allow, retrying narrower widths. -/
  | portTrain (port : Fin 2) (peerGen : Nat) (peerWidth : Nat) (trains : Option Nat)
  /-- LINK_DOWN (R57). A port's link goes down, and the queue pairs of its functions enter LINK_LOST with their commands discarded. -/
  | linkDown (port : Fin 2)
  /-- FLR (R57). A Function Level Reset, or clearing VF Enable, puts the queue pairs of the affected functions in LINK_LOST. -/
  | flr (target : FlrTarget)
  /-- QP_ENABLE (R36). Writing ENABLE = 1 makes a DISABLED queue pair ACTIVE, or HALTED when its configuration is invalid. -/
  | qpEnable (fn : Func) (q : Fin 64)
  /-- QP_DISABLE (R36). Writing ENABLE = 0 stops fetch and moves the queue pair to DRAINING, then to DISABLED. -/
  | qpDisable (fn : Func) (q : Fin 64)
  /-- SQ_TAIL_DOORBELL (R38). A write of a new SQ tail is recorded, halts the pair when out of range, or makes the queue eligible for fetch. -/
  | sqTailDoorbell (fn : Func) (q : Fin 64) (size : Nat) (value : Word)
  /-- CQ_HEAD_DOORBELL (R38). A write of a new CQ head releases completion entries, or halts the pair when it releases an unwritten entry. -/
  | cqHeadDoorbell (fn : Func) (q : Fin 64) (size : Nat) (value : Word)
  /-- DESCRIPTOR_FETCH (R50). A queue-fetch grant issues a descriptor read burst within CQ room and the quota rules. -/
  | descriptorFetch (port : Fin 2)
  /-- DESCRIPTOR_RECEIVE (R43). A fetched descriptor is checked in order and is staged, or completed with a refusal status, or halts the pair on a failed read. -/
  | descriptorReceive (part : Fin 1024) (q : Fin 64) (data : HostRead) (wrOk : Bool)
  /-- DISPATCH (R21). A staged command is sent to the cluster chosen by key-cache hit and free contexts, and takes the lowest free context. -/
  | dispatch (input : List Byte)
  /-- INPUT_CHUNK_READ (R64). An on-demand 4 KiB input chunk beyond byte 4,095 arrives for a running context. -/
  | inputChunkRead (c : Ctx) (data : List Byte)
  /-- DATA_DMA_ERROR (R48). A data DMA error on an input read or an output write ends the command with ABORTED, DETAIL 2 or 3. -/
  | dataDmaError (victim : DmaVictim)
  /-- COAL_TIME_EXPIRY (R59). COAL_TIME elapses after the first unsignalled completion, and the queue pair signals. -/
  | coalTimeExpiry (part : Fin 1024) (q : Fin 64)
  /-- ABORT_GO (R56). Writing ABORT_GO or PABORT GO aborts the fetched, uncompleted commands of a queue pair that carry the tag. -/
  | abortGo (fn : Func) (q : Fin 64)
  /-- LDIN (R68). Loads n input-buffer bytes into a V register. -/
  | ldin (c : Ctx) (w : Insn)
  /-- LDSC (R68). Loads n input bytes, zero-extended, into an S register. -/
  | ldsc (c : Ctx) (w : Insn)
  /-- LDDESC (R68). Loads a descriptor field into an S or V register. -/
  | lddesc (c : Ctx) (w : Insn)
  /-- LDCONST (R68). Loads a program constant into a V register. -/
  | ldconst (c : Ctx) (w : Insn)
  /-- LDI (R68). Loads an immediate into an S register. -/
  | ldi (c : Ctx) (w : Insn)
  /-- SADD (R68). Adds an immediate to an S register modulo 2^32. -/
  | sadd (c : Ctx) (w : Insn)
  /-- MOVB (R68). Moves bytes between V registers. -/
  | movb (c : Ctx) (w : Insn)
  /-- VXOR (R68). XORs two V registers. -/
  | vxor (c : Ctx) (w : Insn)
  /-- VAND (R68). ANDs two V registers. -/
  | vand (c : Ctx) (w : Insn)
  /-- VCLR (R68). Clears a V register. -/
  | vclr (c : Ctx) (w : Insn)
  /-- SETIP (R69). Sets the input stream pointer, or ends the command when the offset is no longer held. -/
  | setip (c : Ctx) (w : Insn)
  /-- MOVS (R68). Places an S register into four bytes of a V register. -/
  | movs (c : Ctx) (w : Insn)
  /-- STRES (R68). Stores V register bytes into RESULT. -/
  | stres (c : Ctx) (w : Insn)
  /-- STOUT (R65). Stores V register bytes to the output area as posted writes. -/
  | stout (c : Ctx) (w : Insn)
  /-- FETCH (R70). Loads a key slot from a descriptor handle after the ordered checks, or misses and starts a fill. -/
  | fetch (c : Ctx) (w : Insn)
  /-- RELEASE (R70). Empties a key slot. -/
  | release (c : Ctx) (w : Insn)
  /-- KCV (R70). Writes the check value of a key slot to a V register. -/
  | kcv (c : Ctx) (w : Insn)
  /-- GENERATE (R203). Creates an ephemeral key of class 1-3 from the random queue. -/
  | generate (c : Ctx) (w : Insn)
  /-- MAKE (R203). Writes V register bytes into a key being built, and at FINAL checks the material and computes the KCV. -/
  | make (c : Ctx) (w : Insn)
  /-- WRITEREC (R203). Writes a key record at a handle under a parent and returns its lines. -/
  | writerec (c : Ctx) (w : Insn)
  /-- DESTROY (R211). Releases the context's slots and raises a destruction fence on the named record. -/
  | destroy (c : Ctx) (w : Insn)
  /-- LOADREC (R201). Places a record's lines from the input when they verify and win against the line in place, reporting a code. -/
  | loadrec (c : Ctx) (w : Insn)
  /-- READREC (R203). Writes a record's current lines or its tombstone to the output. -/
  | readrec (c : Ctx) (w : Insn)
  /-- ATTEST (R215). Builds the attestation statement of a generated, non-exportable key and hands off its two signatures. -/
  | attest (c : Ctx) (w : Insn)
  /-- KEY_EXTRACT (R203). Copies clear material bytes of an exportable key into V registers. -/
  | keyExtract (c : Ctx) (w : Insn)
  /-- CIPH_BLOCK (R72). Issues one lane operation on one block. -/
  | ciphBlock (c : Ctx) (w : Insn)
  /-- CIPH_STREAM (R134). Checks and issues a stream lane operation over input bytes at IP, split into lane operations. -/
  | ciphStream (c : Ctx) (w : Insn)
  /-- HASH_STREAM (R73). Hashes a byte count of input at IP in the hash unit. -/
  | hashStream (c : Ctx) (w : Insn)
  /-- HASH_REGISTERS (R73). Hashes bytes taken from V registers in the hash unit. -/
  | hashRegisters (c : Ctx) (w : Insn)
  /-- FMT_CHECK (R110). Checks a block against a format entry's layout. -/
  | fmtCheck (c : Ctx) (w : Insn) (twinOk : Bool)
  /-- FMT_EXTRACT (R110). Extracts the canonical PIN and its length from a clear PIN block. -/
  | fmtExtract (c : Ctx) (w : Insn) (twinOk : Bool)
  /-- BUILD_PIN (R110). Builds a format entry's PIN field. -/
  | buildPin (c : Ctx) (w : Insn) (twinOk : Bool)
  /-- BUILD_PAN (R110). Builds a format entry's PAN field. -/
  | buildPan (c : Ctx) (w : Insn) (twinOk : Bool)
  /-- BUILD_BLOCK (R110). Builds a 64-bit PIN block as the PIN field xor the PAN field. -/
  | buildBlock (c : Ctx) (w : Insn) (twinOk : Bool)
  /-- DECIMALISE (R110). Decimalises a value under a KIND 2 entry. -/
  | decimalise (c : Ctx) (w : Insn) (twinOk : Bool)
  /-- DERIVE_KEY (R75). Applies a derivation entry and places the derived key in a slot as an ephemeral entry. -/
  | deriveKey (c : Ctx) (w : Insn) (twin : Option (Fin 6))
  /-- DERIVE_DATA (R75). Applies a KIND 7 derivation entry and writes the derived value to a V register. -/
  | deriveData (c : Ctx) (w : Insn) (twin : Option (Fin 6))
  /-- CMP_BYTES (R76). Compares bytes of two V registers in constant time and sets Z. -/
  | cmpBytes (c : Ctx) (w : Insn)
  /-- CMP_SREG (R76). Compares two S registers and sets Z and LT. -/
  | cmpSreg (c : Ctx) (w : Insn)
  /-- CMP_IMM (R76). Compares an S register with an immediate and sets Z and LT. -/
  | cmpImm (c : Ctx) (w : Insn)
  /-- BR_ALWAYS (R76). Branches unconditionally. -/
  | brAlways (c : Ctx) (w : Insn)
  /-- BR_Z (R76). Branches when Z = 1. -/
  | brZ (c : Ctx) (w : Insn)
  /-- BR_NZ (R76). Branches when Z = 0. -/
  | brNz (c : Ctx) (w : Insn)
  /-- BR_LT (R76). Branches when LT = 1. -/
  | brLt (c : Ctx) (w : Insn)
  /-- BR_NLT (R76). Branches when LT = 0. -/
  | brNlt (c : Ctx) (w : Insn)
  /-- BR_FE (R76). Branches when FE = 1. -/
  | brFe (c : Ctx) (w : Insn)
  /-- BR_NFE (R76). Branches when FE = 0. -/
  | brNfe (c : Ctx) (w : Insn)
  /-- LOOP (R76). Decrements an S register and branches while it is not zero. -/
  | loop (c : Ctx) (w : Insn)
  /-- RAND (R78). Takes random bytes from the cluster's random queue, waiting when the queue is empty. -/
  | rand (c : Ctx) (w : Insn)
  /-- DONE (R79). Ends the program and hands the completion to the dispatch network after the output writes. -/
  | done (c : Ctx) (w : Insn) (wrOk : Bool)
  /-- EC_KEYGEN (R161). PKX generates an elliptic-curve key pair. -/
  | ecKeygen (c : Ctx) (w : Insn)
  /-- ECDSA_SIGN (R161). PKX signs a digest with ECDSA. -/
  | ecdsaSign (c : Ctx) (w : Insn)
  /-- ECDSA_VERIFY (R161). PKX verifies an ECDSA signature and returns a verdict. -/
  | ecdsaVerify (c : Ctx) (w : Insn)
  /-- ECDH (R161). PKX computes an ECDH shared secret into a key slot. -/
  | ecdh (c : Ctx) (w : Insn)
  /-- EDDSA_SIGN (R161). PKX signs a message with Ed25519. -/
  | eddsaSign (c : Ctx) (w : Insn)
  /-- EDDSA_VERIFY (R161). PKX verifies an Ed25519 signature. -/
  | eddsaVerify (c : Ctx) (w : Insn)
  /-- RSA_SIGN_PSS (R161). PKX makes an RSASSA-PSS signature. -/
  | rsaSignPss (c : Ctx) (w : Insn)
  /-- RSA_SIGN_V15 (R161). PKX makes an RSASSA-PKCS1-v1_5 signature. -/
  | rsaSignV15 (c : Ctx) (w : Insn)
  /-- RSA_VERIFY_PSS (R161). PKX verifies an RSASSA-PSS signature. -/
  | rsaVerifyPss (c : Ctx) (w : Insn)
  /-- RSA_VERIFY_V15 (R161). PKX verifies an RSASSA-PKCS1-v1_5 signature. -/
  | rsaVerifyV15 (c : Ctx) (w : Insn)
  /-- RSA_OAEP_DECRYPT (R161). PKX decrypts an RSAES-OAEP ciphertext. -/
  | rsaOaepDecrypt (c : Ctx) (w : Insn)
  /-- RSA_OAEP_ENCRYPT (R161). PKX encrypts a message with RSAES-OAEP. -/
  | rsaOaepEncrypt (c : Ctx) (w : Insn)
  /-- RSA_KEYGEN (R161). PKX generates an RSA key pair, drawing random blocks on demand. -/
  | rsaKeygen (c : Ctx) (w : Insn)
  /-- MLKEM_KEYGEN (R161). PKX generates an ML-KEM key pair. -/
  | mlkemKeygen (c : Ctx) (w : Insn)
  /-- MLKEM_ENCAPS (R161). PKX encapsulates an ML-KEM shared secret. -/
  | mlkemEncaps (c : Ctx) (w : Insn)
  /-- MLKEM_DECAPS (R161). PKX decapsulates an ML-KEM ciphertext into a key slot. -/
  | mlkemDecaps (c : Ctx) (w : Insn)
  /-- MLDSA_KEYGEN (R161). PKX generates an ML-DSA key pair. -/
  | mldsaKeygen (c : Ctx) (w : Insn)
  /-- MLDSA_SIGN (R175). PKX signs a message with ML-DSA. -/
  | mldsaSign (c : Ctx) (w : Insn)
  /-- MLDSA_VERIFY (R161). PKX verifies an ML-DSA signature. -/
  | mldsaVerify (c : Ctx) (w : Insn)
  /-- SEQ_BUDGET_EXCEEDED (R80). A command's retired-instruction count reaches SEQ_BUDGET and the command ends with ABORTED, DETAIL 4. -/
  | seqBudgetExceeded (c : Ctx)
  /-- PROGRAM_CACHE_FILL (R88). A program-cache fill completes, or fails its line MAC and ends the command. -/
  | programCacheFill (c : Ctx) (macOk : Bool)
  /-- FENCE_HOLDER_TIMEOUT (R102). A context that holds a fenced key has not reached DONE 3 µs after the fence and ends with KEY_ORPHANED. -/
  | fenceHolderTimeout (c : Ctx)
  /-- SEQ_FREEZE (R104). BLK_CTRL.FREEZE of a SEQ page removes the cluster from dispatch and lets its contexts finish. -/
  | seqFreeze (n : Fin 16) (on : Bool)
  /-- SEQ_PIN_WRITE (R89). A write of SEQ_PIN changes the programs held resident in every cluster. -/
  | seqPinWrite (j : Fin 8) (value : Word)
  /-- LANE_OP_COMPLETE (R140). A lane operation ends, its twin results are compared and released, or a mismatch or tag failure ends the command. -/
  | laneOpComplete (n : Fin 16) (lane : Fin 4) (twinOk : Bool)
  /-- HASH_OP_COMPLETE (R153). A hash-unit operation ends and its compared digest is written, or a mismatch ends the command. -/
  | hashOpComplete (n : Fin 16) (twinOk : Bool)
  /-- KAT_COMPLETE (R147). A lane, hash-unit or format-unit KAT ends, returning the unit to service or removing it and moving its waiting work. -/
  | katComplete (n : Fin 16) (unit : Fin 6) (pass : Bool) (twinOk : Bool)
  /-- KAT_GO_LANE (R155). Writing KAT_GO_LANE requests a lane KAT once its operations finish. -/
  | katGoLane (n : Fin 16) (lanes : BitVec 4)
  /-- KAT_GO_HASH (R155). Writing KAT_GO_HASH requests the hash unit's KAT once its queue empties. -/
  | katGoHash (n : Fin 16)
  /-- KAT_GO_FMT (R155). Writing KAT_GO_FMT requests the format unit's KAT between FMT instructions. -/
  | katGoFmt (n : Fin 16)
  /-- LANE_RESEED (R138). A lane generator's reseed falls due after 4,096 blocks or 10 µs, and it takes a seed or continues and may stall. -/
  | laneReseed (n : Fin 16) (lane : Fin 4)
  /-- CC_RESET (R151). RST CC_RESET or CC SOFT_RESET resets a drained cipher cluster's lanes and hash unit, or is ignored. -/
  | ccReset (n : Fin 16) (viaRst : Bool)
  /-- PK_HANDOFF (R159). A PKX hand-off leaves the cluster queue oldest-first for an engine or the lattice unit when one is free. -/
  | pkHandoff (p : Fin 8) (lattice : Bool)
  /-- PK_OP_COMPLETE (R165). An engine or lattice operation ends its occupancy and returns its compared result or a refusal status. -/
  | pkOpComplete (p : Fin 8) (unit : Fin 9) (slot : Fin 2) (twinOk : Bool) (iters : Nat)
  /-- PK_OP_ABORT (R182). An engine or lattice operation is aborted at its next multiplication boundary and its RAM is zeroed. -/
  | pkOpAbort (p : Fin 8) (unit : Fin 9) (slot : Fin 2)
  /-- PK_KAT_COMPLETE (R183). An engine or lattice-unit KAT ends, returning the unit or removing it and moving queued hand-offs. -/
  | pkKatComplete (p : Fin 8) (unit : Fin 9) (pass twinOk : Bool)
  /-- KAT_GO_ENG (R185). Writing KAT_GO_ENG requests an engine KAT once its operations finish. -/
  | katGoEng (p : Fin 8) (engines : BitVec 8)
  /-- KAT_GO_LU (R185). Writing KAT_GO_LU requests the lattice unit's KAT once it is empty. -/
  | katGoLu (p : Fin 8)
  /-- PK_FREEZE (R184). BLK_CTRL.FREEZE of a PK page removes the cluster from PKX selection and lets its operations drain. -/
  | pkFreeze (p : Fin 8) (on : Bool)
  /-- PK_RESET (R184). RST PK_RESET or PK SOFT_RESET zeroes a drained public-key cluster and reruns its KATs, or is ignored. -/
  | pkReset (p : Fin 8) (viaRst : Bool)
  /-- KEY_FILL (R208). A key-cache fill walk completes, filling the record and its ancestors or ending the use with a refusal. -/
  | keyFill (c : Ctx) (macBad : Option Nat)
  /-- FENCE_RAISE (R211). A destruction fence is raised when fewer than sixteen are active, and the slices mark the fenced entries. -/
  | fenceRaise (c : Ctx)
  /-- FENCE_COMPLETE (R212). No context holds a fenced entry, and the table engine writes the tombstone, frees the lines and lifts the fence. -/
  | fenceComplete (fence : Fin 16)
  /-- FENCE_OVERTIME (R212). A fence exceeds 4 µs and sets GEO INT_RAW bit 0. -/
  | fenceOvertime (fence : Fin 16)
  /-- SWEEPER_STEP (R214). The sweeper reaches its next line at its rate and reclaims an orphaned live record. -/
  | sweeperStep
  /-- REMASK_PERIOD (R210). A slice re-masks every entry once per REMASK_MS with a fresh mask seed. -/
  | remaskPeriod (n : Fin 16) (seeded : Bool)
  /-- MMK_REMASK (R284). Obsidian re-masks the MMK every 10 ms on main power and every 1 s on backup power. -/
  | mmkRemask
  /-- APT_WINDOW_CLOSE (R223). A cell's 1,024-bit adaptive-proportion window closes and its bits are released or discarded as a failure. -/
  | aptWindowClose (cell : Fin 8) (count : Nat)
  /-- REPETITION_COUNT_FAIL (R222). A cell outputs 46 identical bits in a row and fails its repetition-count test. -/
  | repetitionCountFail (cell : Fin 8)
  /-- CELL_RESTART_TEST (R232). A restarting cell ends its trim and start-up test, rejoining the rotation or being turned off. -/
  | cellRestartTest (cell : Fin 8) (count : Nat) (repeated : Bool)
  /-- DRBG_INSTANTIATE (R224). A DRBG instance is instantiated or reseeded 160 cycles after its seed is collected. -/
  | drbgInstantiate (n : Fin 16) (core : CoreTest)
  /-- DRBG_RESEED (R226). A DRBG instance reaches RESEED_MS or 2^20 requests and collects a reseed. -/
  | drbgReseed (n : Fin 16)
  /-- DRBG_GENERATE (R225). A 4 KiB generate request completes into the random queue and serves waiting draws. -/
  | drbgGenerate (n : Fin 16) (twinOk : Bool)
  /-- RNG_NOT_READY_TIMEOUT (R230). A draw waits 10 ms on an uninstantiated instance and its command ends with RNG_NOT_READY. -/
  | rngNotReadyTimeout (c : Ctx)
  /-- OBS_SEED_REFRESH (R227). Obsidian takes a fresh 32-byte mesh seed from Flint every second. -/
  | obsSeedRefresh
  /-- HBM_INIT (R250). An HBM controller trains its PHY and initialises its stack after a reset or wake. -/
  | hbmInit (stack : Fin 2)
  /-- HBM_KEY_DRAW (R250). Once Flint is ready, a controller draws its HBM keys and starts zeroing the protected regions. -/
  | hbmKeyDraw (stack : Fin 2)
  /-- PROT_READY (R250). Zeroing of the protected regions and carve-out ends and PROT_READY is set. -/
  | protReady (stack : Fin 2)
  /-- WORK_READY (R250). Zeroing of the work region ends and WORK_READY is set. -/
  | workReady (stack : Fin 2)
  /-- HBM_READ_COMPLETE (R244). An HBM read returns data after ECC, decryption and MAC checks, or an integrity error with its consequences. -/
  | hbmReadComplete (a : Fin 0xBA0000000) (use : HbmUse) (bank row : Nat) (found : LineCheck) (twins victim : Nat)
  /-- HBM_WRITE (R242). An HBM write is encrypted, its MAC replaced, and accepted. -/
  | hbmWrite (a : Fin 0xBA0000000) (use : HbmUse) (data : List Byte) (twins : Nat)
  /-- SCRUB_STEP (R247). The scrubber reads its next line, corrects it and checks its MAC. -/
  | scrubStep (stack : Fin 2) (bank row : Nat) (found : LineCheck) (twins : Nat)
  /-- HBM_TEMP_HIGH (R245). A stack rises above 85 °C and its refresh rate doubles. -/
  | hbmTempHigh (stack : Fin 2) (temp : BitVec 8)
  /-- PPR_GO (R249). Writing PPR_GO starts a repair of the named row with MIGRATE_OUT, or is ignored. -/
  | pprGo (stack : Fin 2) (target : BitVec 28)
  /-- MIGRATE_OUT (R249). The copy into the repair reserve ends, accesses are redirected and PROGRAM starts. -/
  | migrateOut (stack : Fin 2) (poisoned : Option Nat)
  /-- PPR_PROGRAM (R249). The JEDEC repair sequence ends or fails. -/
  | pprProgram (stack : Fin 2) (ok : Bool)
  /-- PPR_VERIFY (R249). The repaired row's pattern test ends, leading to MIGRATE_BACK or FAILED. -/
  | pprVerify (stack : Fin 2) (ok : Bool)
  /-- MIGRATE_BACK (R249). The copy back ends, accesses return to the pseudo-channel and the repair is DONE. -/
  | migrateBack (stack : Fin 2)
  /-- ARB_GRANT (R251). An arbiter grants the pending requester with the highest positive credit, replenishing at once when none holds credit. -/
  | arbGrant (unit : Nat) (requests : List Nat) (beats : Nat)
  /-- ARB_WINDOW_BOUNDARY (R251). An arbiter's window boundary replenishes every credit counter. -/
  | arbWindowBoundary (unit : Nat)
  /-- ARB_TRANSFER_END (R252). A granted transfer ends, possibly draining a frozen arbiter. -/
  | arbTransferEnd (unit : Nat)
  /-- ARB_FREEZE (R253). A FREEZE bit stops new grants of its arbiter. -/
  | arbFreeze (reg : Fin 3) (value : Word)
  /-- STARVE (R254). A requester's wait passes its threshold and STARVE is captured and counted. -/
  | starve (unit requester : Nat)
  /-- PART_CMD_FREEZE (R261). PART_CMD FREEZE freezes the selected tenant partition. -/
  | partCmdFreeze (part : Fin 1024)
  /-- PART_CMD_THAW (R261). PART_CMD THAW returns a FROZEN partition to ACTIVE. -/
  | partCmdThaw (part : Fin 1024)
  /-- PART_CMD_DRAIN (R261). PART_CMD DRAIN moves the selected partition to DRAINING. -/
  | partCmdDrain (part : Fin 1024)
  /-- FREEZE_COMPLETE (R260). A frozen partition holds no staged command, context or PKX operation, and CMD_BUSY clears. -/
  | freezeComplete (part : Fin 1024)
  /-- DRAIN_COMPLETE (R259). A DRAINING partition's backlog reaches 0 and it becomes FROZEN. -/
  | drainComplete (part : Fin 1024)
  /-- MPU_ACCESS (R268). A bus master's access is split into 64-byte pieces, each permitted or silently denied and noted. -/
  | mpuAccess (m : Fin 16) (kind : AccessKind) (addr : Fin 0x10000000000) (len : Nat) (tag : Fin 1024) (data : List Byte)
  /-- MPU_COMMIT_DRAIN (R271). The last old-epoch access after an MPU cut-over is accepted and COMMIT_BUSY clears. -/
  | mpuCommitDrain (m : Fin 16)
  /-- MPU_DRAIN_OVERTIME (R271). An MPU commit drain exceeds 2 µs and INT_RAW bit 4 is set. -/
  | mpuDrainOvertime (m : Fin 16)
  /-- STAGING_WRITE (R273). A write to an RWG field stages a change, opens the gate, voids a seal, or is refused. -/
  | stagingWrite (fn : Func) (change : Sys2Proof.Machine.Change)
  /-- GATE_SEAL (R273). SEAL builds the change record and digest and starts the approval window, or is refused. -/
  | gateSeal
  /-- GATE_ABANDON (R277). ABANDON discards the change set and returns the gate to IDLE. -/
  | gateAbandon
  /-- APPROVAL_VERIFIED (R275). An approval's signature verification ends and the gate counts or refuses it in one step. -/
  | approvalVerified (index : Nat) (wrOk : Bool)
  /-- GATE_APPLY (R276). After the freezes complete, the gate writes the change set and shadows in one step and thaws partitions. -/
  | gateApply
  /-- GATE_COMPLETE (R276). The class completion rules and the flash write are met and the gate returns to IDLE. -/
  | gateComplete
  /-- GATE_WINDOW_EXPIRE (R277). The approval window expires, voiding the seal and its approvals. -/
  | gateWindowExpire
  /-- MONITOR_SAMPLE (R285). An Obsidian monitor input samples its condition and fires when N of its last M samples find it present. -/
  | monitorSample (tempA tempB : BitVec 8) (samples : List MonitorSample)
  /-- SHADOW_SCAN (R289). The 100 µs background scan compares every guarded register with its shadow and raises LOGIC on mismatch. -/
  | shadowScan (mismatch : Bool)
  /-- OBS_ACK (R294). Writing OBS_ACK releases a latched T1 when no T1-class input is asserted. -/
  | obsAck
  /-- MAIN_POWER_LOSS (R282). The sentinel charge path fails and Obsidian switches to backup power, the module entering VIGIL. -/
  | mainPowerLoss (held : Bool)
  /-- POWER_ON (R392). Main power is restored and the module boots cold, acting on pending backup responses. -/
  | powerOn
  /-- LCS_GO (R311). Writing LCS_GO with a target starts a direct life-cycle transition or is refused with a CMD_RESULT. -/
  | lcsGo (target testIdx : Fin 16)
  /-- TEST_OPEN_ENTRY (R315). LCS_GO with TARGET 0x3 checks a test token, burns it, runs the work wipe and sets the TEST_OPEN flag. -/
  | testOpenEntry (testIdx : Fin 16)
  /-- LCS_TRANSITION_COMPLETE (R312). A transition's fuse programming ends, the word is read back and the core die resets. -/
  | lcsTransitionComplete
  /-- DBG_NONCE_EXPIRE (R317). The debug nonce lifetime ends and the held nonce is lost. -/
  | dbgNonceExpire
  /-- DEBUG_OPEN (R319). Obsidian reports zeroisation complete after an accepted debug response and the granted paths open. -/
  | debugOpen
  /-- PL_CAP_WRITE (R321). A write of PL_CAP changes the effective level and may start a level change. -/
  | plCapWrite (cap : Fin 4)
  /-- LEVEL_CHANGE_START (R322). A new effective level starts the raise or lower sequence once no change is running. -/
  | levelChangeStart
  /-- AVS_ACK (R322). The regulator acknowledges a requested voltage and the change moves to its next step. -/
  | avsAck (status : BitVec 16) (atTarget : Bool)
  /-- RELOCK_DONE (R322). The cipher and public-key islands relock to the new frequency. -/
  | relockDone
  /-- AVS_TIMEOUT (R323). No acknowledgement arrives within 500 µs and the change is abandoned with PL_FAIL. -/
  | avsTimeout
  /-- AVS_RETRY (R323). An unacknowledged restore request is repeated every 10 ms. -/
  | avsRetry
  /-- PL_FAIL_CLEAR (R323). Clearing PL_FAIL allows a new attempt at the failed target. -/
  | plFailClear
  /-- THERMAL_SAMPLE (R325). Junction temperatures are read every 100 µs and a reading at 105 °C forces PL0. -/
  | thermalSample (readings : List (BitVec 8)) (vddMv : Nat)
  /-- THERMAL_CAP_FALL (R325). TJ stays at or above THERM_HI for 1 ms or a further 10 ms and the cap falls one level. -/
  | thermalCapFall
  /-- THERMAL_CAP_RISE (R325). TJ stays below THERM_HI minus THERM_HYS for 100 ms and the cap rises one level. -/
  | thermalCapRise
  /-- IDLE_GATE (R327). An island idle for IDLE_GATE cycles gates its clock. -/
  | idleGate (island : Fin 31)
  /-- ISLAND_UNGATE (R19). A crossing into a clock-gated island ungates it. -/
  | islandUngate (island : Fin 31)
  /-- CLUSTER_POWER_OFF (R328). Setting a CC_OFF or PK_OFF bit powers off a drained, out-of-service cluster, or is ignored. -/
  | clusterPowerOff (cluster : Fin 24)
  /-- CLUSTER_POWER_ON (R328). Clearing a CC_OFF or PK_OFF bit powers the cluster on and repeats its start-up. -/
  | clusterPowerOn (cluster : Fin 24)
  /-- SLEEP_ENTRY (R330). After the Enter sleep completion, fetch stops, PL0 is set and the domains turn off. -/
  | sleepEntry
  /-- WAKE_TLP (R332). A TLP received on a port wakes the module from S2. -/
  | wakeTlp (port : Fin 2)
  /-- WAKE_PATTERN (R378). Eight matching repetitions of the Flaiviran wake pattern wake the module from S2 or S3. -/
  | wakePattern (k : Fin 8)
  /-- WAKE_SMBUS (R332). An SMBus address match wakes the module from S3. -/
  | wakeSmbus
  /-- REL_SD (R333). Writing REL_SD releases the held card and SD pads. -/
  | relSd
  /-- REL_CARD (R333). Writing REL_CARD releases the held smart-card pads. -/
  | relCard
  /-- CLAIM_TIE (R338). The 2 µs tie period ends and the module becomes active or withdraws by mark. -/
  | claimTie
  /-- STUCK_CLAIM (R338). A mark A module sees the partner's claim held for 100 µs after the tie and sets STUCK_CLAIM. -/
  | stuckClaim
  /-- CLAIM_CONFLICT (R339). An active module sees PAIR_CLAIM_IN asserted for 2 µs and keeps or gives up its role by mark. -/
  | claimConflict
  /-- DEMOTE (R340). An active module that loses fitness deasserts its outputs, ends its commands and enters SHADOW. -/
  | demote
  /-- HOSTLOSS (R340). Both PCIe ports stay down for 1 ms with HOSTLOSS_EN set and health drops. -/
  | hostloss
  /-- HEALTH_REPORT_SEND (R341). Each module sends its health report every 1 ms. -/
  | healthReportSend
  /-- HEALTH_REPORT_RECEIVE (R341). A partner health report arrives and is kept or discarded by serial. -/
  | healthReportReceive (report : List Byte)
  /-- REPORT_LOST (R341). No valid report arrives for 3 ms and REPORT_LOST is set. -/
  | reportLost
  /-- SELF_TEST_STEP (R342). In SHADOW, every ST_PERIOD_US one unit's KAT runs. -/
  | selfTestStep (result : Fin 4)
  /-- DELTA_APPLY (R343). The standby receives a delta and applies it in DSEQ order. -/
  | deltaApply (dseq : Nat) (delta : Sys2Proof.Machine.Delta)
  /-- DELTA_ACK (R344). The standby's acknowledgement releases waiting completions, and lag reaching 0 makes SYNC SYNCED. -/
  | deltaAck (dseq : Nat)
  /-- SYNC_TIMEOUT (R344). No delta acknowledgement arrives within 50 µs and SYNC becomes OUT_OF_SYNC. -/
  | syncTimeout
  /-- TAKEOVER (R346). The takeover conditions hold for 200 µs and the standby claims, applies deltas and begins serving. -/
  | takeover
  /-- TAKE (R346). Writing TAKE starts the takeover steps at once. -/
  | take
  /-- RELINQUISH (R347). Writing RELINQUISH stops fetch on the active for a lossless handover, or is refused. -/
  | relinquish
  /-- RELINQUISH_DRAINED (R347). The relinquishing active's backlog reaches 0 and it sends the handover message and drops its claim. -/
  | relinquishDrained
  /-- HANDOVER (R347). The standby receives the handover message and starts the takeover without waiting. -/
  | handover
  /-- RESYNC (R348). Writing RESYNC, or a restart into SHADOW, starts sending committed state, lines and deltas to the standby. -/
  | resync
  /-- LINK_TRAINED (R354). A Flaiviran link completes electrical training and FEC lock and begins its handshake. -/
  | linkTrained (k : Fin 8)
  /-- HANDSHAKE (R358). A link's handshake message is received and the session opens or is refused. -/
  | handshake (k : Fin 8) (h : Hello)
  /-- FLIT_RECEIVE (R356). A flit is received, checked for FEC and tag, replayed on failure and delivered in order per VC. -/
  | flitReceive (k : Fin 8) (f : Flit)
  /-- IDLE_FLIT_SEND (R356). A transmitter with nothing to send sends an idle flit at least once per microsecond. -/
  | idleFlitSend (k : Fin 8)
  /-- LINK_SILENCE (R356). No valid flit arrives for 10 µs and the link is declared down. -/
  | linkSilence (k : Fin 8)
  /-- KEY_RATCHET (R357). A direction reaches 2^36 flits and both ends ratchet its key and restart its counter. -/
  | keyRatchet (k : Fin 8) (sends : Bool)
  /-- LINK_RETRY (R379). Writing LINK_RETRY leaves FAILED and retrains the link. -/
  | linkRetry (k : Fin 8)
  /-- WAKE_SEND (R378). Writing WAKE_SEND sends the wake ordered set once on a DOWN link. -/
  | wakeSend (k : Fin 8)
  /-- FVL_SOFT_RESET (R379). SOFT_RESET of an FVL page takes the link DOWN and retrains it. -/
  | fvlSoftReset (k : Fin 8)
  /-- ENROLMENT_CATCHUP_DONE (R361). The background transfer of scope 1 records at Join ends. -/
  | enrolmentCatchupDone
  /-- DELAY_EXCHANGE (R363). A time-tree link measures its one-way delay every 100 µs and the member disciplines its domain time. -/
  | delayExchange (k : Fin 8) (delay : BitVec 24) (members : List (Fin 4096 × Bool)) (parentTime : Option Nat) (depth : BitVec 8)
  /-- PPS_EDGE (R364). A PPS_IN rising edge aligns the grandmaster's time or is rejected as bad. -/
  | ppsEdge
  /-- DT_STALE (R365). In holdover DT_ERR passes 1 µs and DT_STALE is set. -/
  | dtStale
  /-- REPL_MESSAGE (R366). A replication message arrives, is rewrapped and applied, and is forwarded along the tree. -/
  | replMessage (k : Fin 8) (origin : Fin 4096) (seq : Nat) (part : Fin 1024) (handle : Word) (line : Sys2Proof.Machine.KeyLine)
  /-- SCHEDULE_RECEIVE (R371). A member receives an epoch schedule and acknowledges or applies it. -/
  | scheduleReceive (part : Fin 1024) (seq : Nat) (epoch : Nat) (ts : Nat) (tov : Nat)
  /-- CANCEL_RECEIVE (R372). A member receives a schedule cancellation and removes the schedule, or keeps a late opened epoch. -/
  | cancelReceive (part : Fin 1024) (seq : Nat)
  /-- EPOCH_BOUNDARY (R370). Domain time reaches Ts or Ts + Tov on the EPOCH compare unit. -/
  | epochBoundary (part : Fin 1024)
  /-- FORWARD_SEND (R376). An eligible staged command of a forwarding partition is sent to a peer on a forwarding link. -/
  | forwardSend (input : List Byte)
  /-- FORWARD_REQUEST (R376). A peer receives a forwarded command and serves it in the same partition. -/
  | forwardRequest (k : Fin 8) (tag : Nat) (part : Fin 1024) (desc : List Byte)
  /-- FORWARD_RESPONSE (R377). A forwarded command's response arrives and is written to the host or rerun locally. -/
  | forwardResponse (k : Fin 8) (tag : Nat) (answer : PeerEnd) (output : List Byte) (wrOk : Bool)
  /-- PERST_ASSERT (R392). PERST_N asserted resets the module. -/
  | perstAssert
  /-- PERST_RELEASE (R381). PERST_N release starts the boot timeline. -/
  | perstRelease
  /-- BOOT_END (R386). BOOT ends and the module takes its mode. -/
  | bootEnd
  /-- MOD_RESET (R394). A write of MOD_RESET_GO with the key resets the module. -/
  | modReset (value : Word)
  /-- WATCHDOG_EXPIRE (R393). A watchdog period passes without a kick and the module resets with cause 6. -/
  | watchdogExpire
  /-- WDOG_KICK (R393). Writing WDOG_KICK restarts the watchdog period. -/
  | wdogKick
  /-- SMBUS_RECEIVE_BYTE (R390). An SMBus Receive Byte returns the status byte. -/
  | smbusReceiveByte
  /-- SMBUS_TRANSACTION (R390). Any other SMBus transaction is answered, with a NACK in BOOT. -/
  | smbusTransaction
  /-- CREATE (R404). Scheduler operation CREATE sets up a FREE slot as BLOCKED from SLOT_CFG. -/
  | create (slot : Fin 512)
  /-- READY (R405). Scheduler operation READY places a slot on a core's ready list and may preempt. -/
  | ready (slot : Fin 512)
  /-- DELAY (R407). Scheduler operation DELAY places a slot on its core's delay list. -/
  | delay (slot : Fin 512) (ticks : Fin 1048576)
  /-- BLOCK (R404). Scheduler operation BLOCK makes a slot BLOCKED. -/
  | block (slot : Fin 512)
  /-- FREE (R404). Scheduler operation FREE frees a slot. -/
  | free (slot : Fin 512)
  /-- SETPRIO (R404). Scheduler operation SETPRIO changes a slot's priority. -/
  | setprio (slot : Fin 512) (prio : Fin 32)
  /-- NEXT_READ (R406). A core reading NEXT takes the head of its highest-priority ready list and marks it RUNNING. -/
  | nextRead (core : Fin 8)
  /-- SCHED_TICK (R407). A scheduler tick moves every slot whose wake tick has been reached to READY. -/
  | schedTick
  /-- HOLD (R413). Writing HOLD stops placement on a core and moves its READY slots. -/
  | hold (value : BitVec 8)
  /-- CORE_RESET (R413). Writing CORE_RESET restarts a held, idle core from the FW_SEL slot. -/
  | coreReset (cores : BitVec 8)
  /-- COMPARE_FIRE (R410). A compare unit's time reaches its value and it signals its owner once or periodically. -/
  | compareFire (unit : Fin 16)
  /-- FEATURE_CLAIM (R411). A write of a feature's EN or UNIT claims a compare unit and resolves any conflict by class. -/
  | featureClaim (feature : Fin 16) (value : Word)
  /-- CARD_PRESENCE_CHANGE (R418). A debounced card presence change activates or deactivates a card port. -/
  | cardPresenceChange (port : Fin 2) (present : Bool)
  /-- ATR_TIMEOUT (R416). No ATR arrives within 40,000 clocks and the port moves to the next class or gives up. -/
  | atrTimeout (port : Fin 2)
  /-- CARD_CLOCK_STOP (R417). 1,860 clocks after a command the card clock stops where the ATR allows it. -/
  | cardClockStop (port : Fin 2)
  /-- APPROVE_GO (R420). Writing APPROVE_GO starts a card approval on the selected port. -/
  | approveGo
  /-- CARD_RESPONSE (R419). A card's response arrives and advances or ends the approval, a SIGN response being judged by the gate. -/
  | cardResponse (port : Fin 2) (answer : CardAnswer)
  /-- KEYPAD_PIN_ENTRY (R420). PIN entry on the keypad ends and VERIFY is sent. -/
  | keypadPinEntry (pin : List (Fin 10))
  /-- APPROVE_TIMEOUT (R421). APPROVE_TIMEOUT_S passes during PIN entry and the approval ends with RESULT 6. -/
  | approveTimeout
  /-- SD_INSERT (R423). An SD or eMMC medium is detected, brought up to speed and its journal block checked. -/
  | sdInsert (m : Medium)
  /-- SD_REMOVE (R426). The medium is removed and any append fails. -/
  | sdRemove
  /-- SD_BUSY_END (R426). Busy on DAT0 ends, the block is read back and C advances. -/
  | sdBusyEnd (block : List Byte) (wrOk : Bool)
  /-- SD_BUSY_TIMEOUT (R424). Busy lasts more than 250 ms and the write fails. -/
  | sdBusyTimeout
  /-- PIN_CLAIM (R430). A write of a service-pin feature's EN or PIN claims a pin and resolves any conflict by class. -/
  | pinClaim (feature : Fin 13) (value : Word)
  /-- AGATE_WINDOW_CLOSE (R437). An Agate window ends, the sets are published and a record is written to the ring. -/
  | agateWindowClose
  /-- WINDOW_OVERDUE (R438). A window is 10 times WIN_MS overdue and INT_RAW bit 3 is set. -/
  | windowOverdue
  /-- HCLR (R436). Writing HCLR clears the live sets and extremes. -/
  | hclr
  /-- TAP_INSTRUCTION_LOAD (R461). Loading a TAP instruction selects its register and enters or releases the EXTEST hold. -/
  | tapInstructionLoad (opcode : BitVec 8)
  /-- TAP_RESET (R461). Test-Logic-Reset or TRST_N releases an EXTEST hold and the module boots. -/
  | tapReset
  /-- STAGE_PROGRAM_IMAGE (R125). Program 0x010 checks and stages a program image or empties a slot. -/
  | stageProgramImage (c : Ctx) (run : ProgramRun)
  /-- STAGE_FORMAT_ENTRY (R125). Program 0x011 checks and stages a format entry. -/
  | stageFormatEntry (c : Ctx) (run : ProgramRun)
  /-- STAGE_DERIVATION_ENTRY (R125). Program 0x012 checks and stages a derivation entry. -/
  | stageDerivationEntry (c : Ctx) (run : ProgramRun)
  /-- STAGE_CURVE_ENTRY (R180). Program 0x013 checks a curve entry and stages it. -/
  | stageCurveEntry (c : Ctx) (run : ProgramRun)
  /-- APPROVE_CHANGE (R275). Program 0x014 checks an approval message and key and starts verifying its signature. -/
  | approveChange (c : Ctx) (run : ProgramRun)
  /-- READ_CHANGE_RECORD (R274). Program 0x015 returns the sealed change record. -/
  | readChangeRecord (c : Ctx) (run : ProgramRun)
  /-- STAGE_LIFE_CYCLE_COMMAND (R311). Program 0x016 checks a life-cycle command and stages it as a class 7 change. -/
  | stageLifeCycleCommand (c : Ctx) (run : ProgramRun)
  /-- DEBUG_CHALLENGE (R317). Program 0x017 draws a nonce and returns the debug challenge. -/
  | debugChallenge (c : Ctx) (run : ProgramRun)
  /-- DEBUG_RESPONSE (R318). Program 0x018 checks a debug response and, on acceptance, raises DEBUG_OPEN. -/
  | debugResponse (c : Ctx) (run : ProgramRun)
  /-- ENTER_SLEEP_S2 (R329). Program 0x019 with PARAM 2 checks the conditions and completes so that S2 entry begins. -/
  | enterSleepS2 (c : Ctx) (run : ProgramRun)
  /-- ENTER_SLEEP_S3 (R329). Program 0x019 with PARAM 3 checks the conditions and completes so that S3 entry begins. -/
  | enterSleepS3 (c : Ctx) (run : ProgramRun)
  /-- DOMAIN_CREATE (R360). Program 0x01A Create draws a domain master secret and starts domain time. -/
  | domainCreate (c : Ctx) (run : ProgramRun)
  /-- DOMAIN_JOIN (R361). Program 0x01A Join runs the enrolment exchange with the sponsor. -/
  | domainJoin (c : Ctx) (run : ProgramRun) (sponsor : Option Sponsorship)
  /-- DOMAIN_LEAVE (R360). Program 0x01A Leave zeroes the domain secret, empties scope 1 and redraws domain roots. -/
  | domainLeave (c : Ctx) (run : ProgramRun)
  /-- SCHEDULE_EPOCH (R371). Program 0x01B broadcasts an epoch schedule and completes on acknowledgement. -/
  | scheduleEpoch (c : Ctx) (run : ProgramRun)
  /-- CANCEL_EPOCH (R372). Program 0x01B with PARAM[31] broadcasts the cancellation of a pending schedule. -/
  | cancelEpoch (c : Ctx) (run : ProgramRun) (late : Bool)
  /-- RE_PROVISION (R395). Program 0x01C stages the class 7 re-provisioning change after a T3 latch. -/
  | reProvision (c : Ctx) (run : ProgramRun)
  /-- RESTORE_FIRMWARE_CHUNK (R396). Program 0x01D writes a firmware chunk to slot B and, at the final chunk, re-initialises or restores firmware. -/
  | restoreFirmwareChunk (c : Ctx) (run : ProgramRun)
  /-- STAGE_SERVICE_APPLET (R402). Program 0x01E checks an applet image and stages it as a class 4 change. -/
  | stageServiceApplet (c : Ctx) (run : ProgramRun)
  /-- JOURNAL_APPEND (R429). Program 0x01F appends a TYPE 3 journal record. -/
  | journalAppend (c : Ctx) (run : ProgramRun)
  /-- JOURNAL_READ (R429). Program 0x01F reads a journal record by number. -/
  | journalRead (c : Ctx) (run : ProgramRun) (block : List Byte)
  /-- GENERATE_KEY (R205). Program 0x100 generates a key and writes its record. -/
  | generateKey (c : Ctx) (run : ProgramRun)
  /-- DESTROY_KEY (R205). Program 0x101 destroys a key and returns its tombstone. -/
  | destroyKey (c : Ctx) (run : ProgramRun)
  /-- LOAD_RECORDS (R205). Program 0x102 loads a sequence of records and returns one code per entry. -/
  | loadRecords (c : Ctx) (run : ProgramRun)
  /-- READ_RECORD (R205). Program 0x103 returns a record's lines or tombstone. -/
  | readRecord (c : Ctx) (run : ProgramRun)
  /-- KEY_BLOCK_IMPORT (R123). Program 0x104 checks and imports a key block as a new record. -/
  | keyBlockImport (c : Ctx) (run : ProgramRun)
  /-- KEY_BLOCK_EXPORT (R124). Program 0x105 exports a key as a key block. -/
  | keyBlockExport (c : Ctx) (run : ProgramRun)
  /-- KEY_BLOCK_TRANSLATE (R124). Program 0x106 translates a key block from one KBPK to another. -/
  | keyBlockTranslate (c : Ctx) (run : ProgramRun)
  /-- ATTEST_KEY (R205). Program 0x107 returns the attestation statement of a key. -/
  | attestKey (c : Ctx) (run : ProgramRun)
  /-- CHECK_VALUE (R119). Program 0x108 returns a key's 3-byte check value. -/
  | checkValue (c : Ctx) (run : ProgramRun)
  /-- TABLE_ROLL_BEGIN (R202). Program 0x10A phase 0 begins a table roll. -/
  | tableRollBegin (c : Ctx) (run : ProgramRun)
  /-- TABLE_ROLL_REWRAP (R202). Program 0x10A phase 1 rewraps a range of lines under T + 1. -/
  | tableRollRewrap (c : Ctx) (run : ProgramRun)
  /-- TABLE_ROLL_FINISH (R202). Program 0x10A phase 2 sets T to T + 1 and PREV_OK to 1. -/
  | tableRollFinish (c : Ctx) (run : ProgramRun)
  /-- TABLE_ROLL_CONFIRM (R202). Program 0x10A phase 3 sets PREV_OK to 0. -/
  | tableRollConfirm (c : Ctx) (run : ProgramRun)
  /-- READ_REPLICATION_LOG (R369). Program 0x10B returns and removes replication log entries. -/
  | readReplicationLog (c : Ctx) (run : ProgramRun)
  /-- PIN_TRANSLATE_F0_F4 (R119). Program 0x140 translates an ISO format 0 PIN block to format 4. -/
  | pinTranslateF0F4 (c : Ctx) (run : ProgramRun)
  /-- PIN_TRANSLATE (R120). Program 0x141 translates a PIN block between any format entries. -/
  | pinTranslate (c : Ctx) (run : ProgramRun)
  /-- PIN_VERIFY_OFFSET (R119). Program 0x148 verifies a PIN by the offset method. -/
  | pinVerifyOffset (c : Ctx) (run : ProgramRun)
  /-- PIN_VERIFY_PVV (R119). Program 0x149 verifies a PIN by the PVV method. -/
  | pinVerifyPvv (c : Ctx) (run : ProgramRun)
  /-- PVV_GENERATE (R119). Program 0x14A generates a PVV. -/
  | pvvGenerate (c : Ctx) (run : ProgramRun)
  /-- PIN_TRANSLATE_FROM_DUKPT (R120). Program 0x150 translates a DUKPT-encrypted PIN block. -/
  | pinTranslateFromDukpt (c : Ctx) (run : ProgramRun)
  /-- CVV_VERIFY (R119). Program 0x180 verifies a card verification value. -/
  | cvvVerify (c : Ctx) (run : ProgramRun)
  /-- CVV_GENERATE (R119). Program 0x181 generates a card verification value. -/
  | cvvGenerate (c : Ctx) (run : ProgramRun)
  /-- ARQC_VERIFY (R119). Program 0x1A0 verifies an ARQC. -/
  | arqcVerify (c : Ctx) (run : ProgramRun)
  /-- ARQC_VERIFY_ARPC1_TDES (R119). Program 0x1A1 verifies a TDES ARQC and returns an ARPC by method 1. -/
  | arqcVerifyArpc1Tdes (c : Ctx) (run : ProgramRun)
  /-- ARQC_VERIFY_ARPC1_AES (R119). Program 0x1A2 verifies an AES ARQC and returns an ARPC by method 1. -/
  | arqcVerifyArpc1Aes (c : Ctx) (run : ProgramRun)
  /-- ARQC_VERIFY_ARPC2 (R119). Program 0x1A3 verifies an ARQC and returns an ARPC by method 2. -/
  | arqcVerifyArpc2 (c : Ctx) (run : ProgramRun)
  /-- DUKPT_INITIAL_KEY_EXPORT (R119). Program 0x1C0 exports a DUKPT initial key as a key block. -/
  | dukptInitialKeyExport (c : Ctx) (run : ProgramRun)
  /-- DUKPT_DATA_DECRYPT (R119). Program 0x1C1 decrypts data under a DUKPT key. -/
  | dukptDataDecrypt (c : Ctx) (run : ProgramRun)
  /-- DUKPT_MAC_VERIFY (R119). Program 0x1C2 verifies a MAC under a DUKPT key. -/
  | dukptMacVerify (c : Ctx) (run : ProgramRun)
  /-- FF1_TOKENISE (R121). Program 0x1E0 tokenises a numeral string with FF1. -/
  | ff1Tokenise (c : Ctx) (run : ProgramRun)
  /-- FF1_DETOKENISE (R121). Program 0x1E1 detokenises a numeral string with FF1. -/
  | ff1Detokenise (c : Ctx) (run : ProgramRun)
  /-- CMAC_GENERATE (R119). Program 0x200 generates a CMAC. -/
  | cmacGenerate (c : Ctx) (run : ProgramRun)
  /-- CMAC_VERIFY (R119). Program 0x201 verifies a CMAC. -/
  | cmacVerify (c : Ctx) (run : ProgramRun)
  /-- HMAC_GENERATE (R119). Program 0x202 generates an HMAC. -/
  | hmacGenerate (c : Ctx) (run : ProgramRun)
  /-- HMAC_VERIFY (R119). Program 0x203 verifies an HMAC. -/
  | hmacVerify (c : Ctx) (run : ProgramRun)
  /-- RETAIL_MAC_GENERATE (R119). Program 0x204 generates a retail MAC. -/
  | retailMacGenerate (c : Ctx) (run : ProgramRun)
  /-- RETAIL_MAC_VERIFY (R119). Program 0x205 verifies a retail MAC. -/
  | retailMacVerify (c : Ctx) (run : ProgramRun)
  /-- ECDSA_SIGN_WRAPPER (R164). Program 0x240 signs with ECDSA. -/
  | ecdsaSignWrapper (c : Ctx) (run : ProgramRun)
  /-- ECDSA_VERIFY_WRAPPER (R164). Program 0x241 verifies an ECDSA signature. -/
  | ecdsaVerifyWrapper (c : Ctx) (run : ProgramRun)
  /-- EDDSA_SIGN_WRAPPER (R164). Program 0x242 signs with EdDSA. -/
  | eddsaSignWrapper (c : Ctx) (run : ProgramRun)
  /-- EDDSA_VERIFY_WRAPPER (R164). Program 0x243 verifies an EdDSA signature. -/
  | eddsaVerifyWrapper (c : Ctx) (run : ProgramRun)
  /-- RSA_SIGN_WRAPPER (R164). Program 0x244 signs with RSA. -/
  | rsaSignWrapper (c : Ctx) (run : ProgramRun)
  /-- RSA_VERIFY_WRAPPER (R164). Program 0x245 verifies an RSA signature. -/
  | rsaVerifyWrapper (c : Ctx) (run : ProgramRun)
  /-- RSA_OAEP_DECRYPT_WRAPPER (R164). Program 0x246 decrypts an RSA OAEP ciphertext. -/
  | rsaOaepDecryptWrapper (c : Ctx) (run : ProgramRun)
  /-- ECDH_WRAPPER (R164). Program 0x247 runs ECDH and writes the shared secret's key record. -/
  | ecdhWrapper (c : Ctx) (run : ProgramRun)
  /-- MLKEM_ENCAPSULATE_WRAPPER (R164). Program 0x248 encapsulates with ML-KEM and writes the shared secret's key record. -/
  | mlkemEncapsulateWrapper (c : Ctx) (run : ProgramRun)
  /-- MLKEM_DECAPSULATE_WRAPPER (R164). Program 0x249 decapsulates with ML-KEM and writes the shared secret's key record. -/
  | mlkemDecapsulateWrapper (c : Ctx) (run : ProgramRun)
  /-- MLDSA_SIGN_WRAPPER (R164). Program 0x24A signs with ML-DSA. -/
  | mldsaSignWrapper (c : Ctx) (run : ProgramRun)
  /-- MLDSA_VERIFY_WRAPPER (R164). Program 0x24B verifies an ML-DSA signature. -/
  | mldsaVerifyWrapper (c : Ctx) (run : ProgramRun)
  /-- BLOCK_READY (R384). A block finishes its start-up after a reset or wake and sets its bit in RST BLK_READY, so its page responds and its monitor inputs begin sampling. -/
  | blockReady (block : Fin 20)
  /-- INTERLOCK_INPUT_CHANGE (R345). PAIR_CLAIM_IN or PAIR_HEALTH_IN changes level, which starts or restarts the 200 µs takeover count or lets a waiting mark A module become active. -/
  | interlockInputChange (claimIn healthIn : Bool)
  /-- BACKUP_SOURCE_CHANGE (R12). P3V3_AUX, VBAT_EXT or the internal cell appears, disappears or crosses its threshold, changing BKP_SRC, NO_BACKUP or CELL_LOW. -/
  | backupSourceChange (aux vbat cell cellLow held : Bool)
  /-- VDD_CORE_LOSS (R452). VDD_CORE falls below its range while P12V is present, and the core die is held in reset. -/
  | vddCoreLoss
  /-- LATCHING_READ (R409). A read of NOW_LO, DT_LO or JCOUNT_LO latches the matching high half for a later read. -/
  | latchingRead (fn : Func) (r : LatchReg)
deriving DecidableEq, Repr

end Sys2Proof
end

