-- ==== Sys2Proof/Decode.lean ====
section
/-! DEFINITION. The words of the table: the spec gives the commands no bits, so no word spells one. -/
namespace Sys2Proof

/-- The command a word of `nbits` bits spells by the table's bits: the table of operations and events gives none of its rows bits. -/
def decodeTableWord (_nbits _w : Nat) : Option Instr := none

end Sys2Proof
end

