-- ==== Sys2Proof/Config.lean ====
section
/-! DEFINITION. What an implementation fixes (fuses, straps, keys made at manufacture) and the free values: constants with no body, so that no proof can see what they are. -/
namespace Sys2Proof.Config

/-- Core die revision, GBL SILICON_REV (Table 1.10, fused). -/
opaque siliconRev : BitVec 8

/-- Lid variant, GBL LID (Table 1.10, from the identity region). -/
opaque lid : BitVec 4

/-- Free value: what LID reads once the identity region is erased (Table 1.2), which the spec does not state. -/
opaque lidErased : BitVec 4

/-- Free value: mesh pattern `n` of Obsidian's keystream generator under its seed (R284, R286). -/
opaque meshPattern : (seed : List Byte) → (n : Nat) → BitVec 64

/-- Module serial number, GBL SERIAL (Table 1.10, fused). -/
opaque serial : BitVec 64

/-- The strap PAIR_SEL: high is mark B (R337). -/
opaque markB : Bool

/-- Block revision of each page, BLK_REV (Table 21.1, fused). -/
opaque blkRev : Nat → BitVec 16

/-- Free value: the n-th byte the module draws from its random sources (R78, R138, R193, R225, R243). -/
opaque randByte : Nat → Byte

/-- Debiased bit `i` of noise cell `cell` (R221): free, numbered from the first the cell gave. Log 187. -/
opaque cellBit : (cell i : Nat) → Bool

/-- Free value: the n-th draw of the lane generators (R135-R138). -/
opaque laneDraw : Nat → Nat

/-- Free value: the bytes a root that does not exist would have (R189 gives a partition its roots; what wraps a record without one is not
stated). -/
opaque absentRoot : Nat → Byte

/-- Free value: key 0 (encryption) or 1 (CMAC) derived from the MMK and RWGEN that wraps the roots (R283, Table 10.2): the spec names no derivation. -/
opaque wrapKey : (mmk : List Byte) → (rwgen which : Nat) → List Byte

/-- Free value: the initial counter block under which root `which` of a partition is wrapped (Table 10.2), which the spec does not give. -/
opaque wrapCounter : (part which gen : Nat) → List Byte

/-- Free value: nibble `j` of a 64-bit PIN field beyond FIELD_END, and from 32 on the digits of a PAN fold field whose PAN is too short for twelve:
R110 states neither. -/
opaque openNibble : Nat → Nat

/-- Free value: the EdDSA nonce of a private scalar and a message. Table 6.3 gives EDDSA_SIGN no random bytes but those of its runs' blinding, and a record
holds no prefix to derive one from (Table 7.4). Log 131. -/
opaque eddsaNonce : Nat → List Byte → Nat

/-- Free value: prime 0 or 1 of an RSA key pair of `bits` bits and exponent `e`, found from the operation's random bytes (R161). -/
opaque rsaPrime : Nat → Nat → Nat → List Byte → Nat

/-- The module's device attestation keys of generation `g`, made in MAKER and at re-initialisation (R215, R396): the P-384 scalar. -/
opaque deviceScalar : Nat → Nat

/-- The seed of the ML-DSA-65 key pair of the same generation: its first 32 bytes. -/
opaque deviceSeed : Nat → List Byte

/-- Free value: what the KDF of a handshake takes from the two shared secrets and the domain master secret: the spec names the function and not how they are
joined (R358). -/
opaque linkSeed : (shared secret : List Byte) → List Byte

/-- Free value: the KDF's label of a handshake's four results (R358), which the spec does not name. -/
opaque linkLabel : (what : Nat) → List Byte

/-- Free value: the transcript of a handshake, by this end's nonce and what the peer sent: the spec says what is signed and not how it is laid out (R358). -/
opaque linkTranscript : (link : Nat) → (nonce peer : List Byte) → List Byte

/-- Free value: this end's ML-KEM-768 encapsulation in a handshake: the spec does not say whose key it is made for (R358). -/
opaque linkEncaps : (link : Nat) → (nonce : List Byte) → List Byte

/-- Free value: the payload of an idle or NOT_READY flit on a link, flit `n` of its session: Table 15.2 gives its place and the spec no content. -/
opaque idlePayload : (link n : Nat) → List Byte

/-- Free value: the bytes of a message sent over a link when flit `n` of its session is next, where the spec gives its layout nowhere (Table 15.2). -/
opaque messageBytes : (link n : Nat) → List Byte

/-- Free value: the number of instructions of Kolulen program `slot`, minus 1 (Table 3.8), which the spec does not list. -/
opaque programLength : (slot : Nat) → BitVec 8

/-- Free value: work of the shipped programs whose instructions the spec does not list: 0 issue slots, 1 instructions retired, 2 the PC and 3 the
class of the instruction at which a command ended (Table 3.11). -/
opaque programWork : (what slot n : Nat) → Nat

/-- Free value: the algorithm letters of X9.143 that stand for ML-KEM (6) and ML-DSA (7) keys, which the spec does not give (R123, R124). -/
opaque latticeLetter : (cls : Nat) → BitVec 8

/-- Free value: the curve entry or parameter set that a key block's header and optional blocks name for a key of class 4 to 7 (R123). -/
opaque blockSel : (cls : Nat) → (header : List Byte) → BitVec 6

/-- Free value: the table number of an image's TARGET in a change record (Table 10.8), which the spec gives for the applets alone: 0 program, 1 format,
2 derivation, 3 curve. -/
opaque tableNumber : (table : Nat) → BitVec 15

/-- Free value: what Table 10.8 leaves open of a change-record entry for a change it gives no TARGET: 0 a VF, 1 a creation, 2 a deletion, 3 an officer
record, 4 a new root; with its partition, its index and what it writes. A byte that chooses between the two TYPEs, then TARGET, SELECT and VALUE. -/
opaque entryRecord : (what part index : Nat) → (content : List Byte) → List Byte

/-- Free value: what the firmware's journal record of the change of GATE_SEQ `seq` carries (R425), at most 216 bytes of it. -/
opaque journalPayload : (seq : Nat) → List Byte

/-- Free value: what the SMBus target answers to a transaction other than Receive Byte once BOOT has ended, which R390 leaves open. -/
opaque smbusAnswer : Nat → Nat

/-- Kolulen's JEDEC manufacturer identity, IDCODE bits [11:1] (R459). -/
opaque jedecId : BitVec 11

/-- Free value: did the first copy's commit marker of a flash write stand before the reset that met it (R276)? -/
opaque flashWritten : Nat → Bool

/-- Free value: how far the fuse programming of a life-cycle transition had got when a reset or power loss met it (R308, R312). -/
opaque fusesDone : Nat → Nat

/-- Free value: how far Obsidian's oscillator departs from its nominal rate in a tick, in percent above the lowest rate it may have; its accuracy is
2 % (Table 11.3). -/
opaque oscDrift : Nat → Nat

/-- Free value: what a word of Obsidian's SRAM holds after every power source was lost (R302 says only that the log is lost). -/
opaque sramLost : Nat → Nat

/-- The digest of the token of
life-cycle state `t`, fused in MAKER; none where it never was (R310). -/
opaque tokenDigest : (t : Nat) → Option (List Byte)

/-- The digest of test token `i`; none where it was never fused (R315). -/
opaque testDigest : (i : Nat) → Option (List Byte)

/-- The ANALYSIS_ELIGIBLE fuse (R310). -/
opaque analysisEligible : Bool

/-- What a firmware image authenticates as under the dual signature of R383, whose keys are Kolulen's: its version, or none. -/
opaque firmware : (image : List Byte) → Option Nat

/-- The digests of the debug service's ECDSA P-384 (0) and ML-DSA-65 (1) public keys, fused in MAKER (R316). -/
opaque serviceDigest : Nat → List Byte

/-- Free value: the NAME of shipped curve entry `sel` (Table 6.10, bytes 8-15), which Table 6.11 does not list. -/
opaque shippedName : (sel : Nat) → BitVec 64

/-- Free value: LOAD of a core, its busy share over the last millisecond (Table 17.3), at a Quartz time: core time is left out. -/
opaque coreShare : (core quartz : Nat) → BitVec 11

/-- Free value: does the host take completion write `n` (R39)? Of the writes whose command does not say how they go; log 227. -/
opaque hostTakes : (n : Nat) → Bool

/-- Free value: the bit of the AER uncorrectable error status that a failed posted write sets (R39, R48): the spec says that it is reported and not
how. -/
opaque aerWriteBit : BitVec 5

/-- The Vendor ID the PCI-SIG assigned to Kolulen (R30). -/
opaque vendorId : BitVec 16

/-- Free value: the DETAIL of a CIPH in lane mode `mode` whose stream passes a limit of Table 5.1, which Table 5.5 does not list. -/
opaque limitDetail : (mode : Nat) → BitVec 16

/-- Free value: how many blocks of a lane's operation had begun when SCA_CTRL changed (R139). -/
opaque blocksBegun : Nat → Nat

/-- Free value: how many sets of vectors a lane's known-answer test runs beside one (R150), which the spec does not list. -/
opaque katBlocks : Nat → Nat

/-- Free value: byte `j` of vector `i` of the known-answer tests (R150). -/
opaque katByte : (i j : Nat) → Byte

/-- Free value: byte `i` of draw `n` of a slice's mask generator under a seed (R206, R210). -/
opaque maskByte : (seed : List Byte) → (n i : Nat) → Byte

/-- Free value: the bank and the row of line `l` in its pseudo-channel (Table 9.7): the spec does not say how lines map to rows. -/
opaque hbmBank : (l : Nat) → BitVec 6
opaque hbmRow : (l : Nat) → BitVec 17

/-- Free value: the bytes of the image of shipped program `slot` (Table 3.8), which the spec does not list. -/
opaque shippedImage : (slot : Nat) → List Byte

/-- Free value: the bytes of a shipped entry of the format (0), derivation (1) or curve (2) table as its region holds it (Table 9.1). -/
opaque shippedEntry : (table i : Nat) → List Byte

/-- Free value: byte `addr` of the configuration flash at bus read `n` (Table 10.5): most of it is encrypted, and the spec does not give its layout. -/
opaque flashByte : (n addr : Nat) → Byte

/-- Free value: does a guarded register differ from its inverted shadow at write `n` of one (R289)? -/
opaque shadowDiffers : (n : Nat) → Bool

/-- Free value: the clock in MHz of a card's activation on a port (R416 gives its range alone, log 255). -/
opaque cardClock : (port : Nat) → BitVec 5

end Sys2Proof.Config
end

