-- ==== Sys2Proof/Machine/Bits.lean ====
section
/-! DEFINITION. Byte-string helpers: little-endian numbers (R7), byte strings of the cryptographic standards, padding and slices. -/
namespace Sys2Proof.Machine

/-- The number a little-endian byte string spells (R7: byte 0 at the lowest address is the least significant). -/
def leNat : List Byte → Nat
  | [] => 0
  | b :: bs => b.toNat + 256 * leNat bs

/-- The first `n` bytes of a number, little-endian (R7). -/
def leBytes : Nat → Nat → List Byte
  | 0, _ => []
  | n + 1, v => BitVec.ofNat 8 v :: leBytes n (v / 256)

/-- The number a byte string of a cryptographic standard spells, first byte most significant. -/
def beNat (bs : List Byte) : Nat := leNat bs.reverse

/-- `n` bytes of a number, most significant first. -/
def beBytes (n v : Nat) : List Byte := (leBytes n v).reverse

/-- `n` zero bytes. -/
def zeros (n : Nat) : List Byte := List.replicate n 0#8

/-- Exactly `n` bytes: the first `n`, filled with zeros at the end. -/
def fitBytes (n : Nat) (bs : List Byte) : List Byte := (bs ++ zeros n).take n

/-- Bytes `off` to `off + n - 1`, zeros past the end. -/
def slice (off n : Nat) (bs : List Byte) : List Byte := fitBytes n (bs.drop off)

/-- `bs` with the bytes `vs` written at `off`; what lies past the end is dropped. -/
def overlay (off : Nat) (vs bs : List Byte) : List Byte :=
  bs.take off ++ (vs ++ bs.drop (off + vs.length)).take (bs.length - off)

/-- Bytewise exclusive or, to the shorter length. -/
def xorBytes (a b : List Byte) : List Byte := List.zipWith (· ^^^ ·) a b

/-- Bytewise and, to the shorter length. -/
def andBytes (a b : List Byte) : List Byte := List.zipWith (· &&& ·) a b

/-- The high four bits of a byte. -/
def hiNib (b : Byte) : Nat := b.toNat / 16

/-- The low four bits of a byte. -/
def loNib (b : Byte) : Nat := b.toNat % 16

/-- The nibbles of a byte string, the high one of each byte first. -/
def nibbles : List Byte → List Nat
  | [] => []
  | b :: bs => hiNib b :: loNib b :: nibbles bs

/-- Nibbles packed into bytes, the first of each pair high; an odd last nibble is followed by 0. -/
def packNibbles : List Nat → List Byte
  | [] => []
  | [a] => [BitVec.ofNat 8 (16 * a)]
  | a :: b :: ns => BitVec.ofNat 8 (16 * a + b) :: packNibbles ns

/-- Bits `lsb` to `lsb + w - 1` of a number. -/
def bitsOf (v lsb w : Nat) : Nat := v / 2 ^ lsb % 2 ^ w

/-- Bit `i` of a number, as a truth value. -/
def bitOf (v i : Nat) : Bool := v / 2 ^ i % 2 == 1

/-- A truth value as a number. -/
def b2n (b : Bool) : Nat := if b then 1 else 0

/-- The number `v` with bit `i` set or cleared. -/
def putBit (v i : Nat) (b : Bool) : Nat :=
  if bitOf v i then (if b then v else v - 2 ^ i) else (if b then v + 2 ^ i else v)

/-- The bitwise complement of `v` in `w` bits. -/
def compl (w v : Nat) : Nat := 2 ^ w - 1 - v % 2 ^ w

/-- A sum held at the largest value of `w` bits ("saturating" of the register tables). -/
def satAdd (w v d : Nat) : Nat := min (v + d) (2 ^ w - 1)

/-- A byte of an entry, as a number. -/
def byteAt (bs : List Byte) (i : Nat) : Nat := (bs.getD i 0).toNat

/-- A number of `n` little-endian bytes at `off`. -/
def numAt (bs : List Byte) (off n : Nat) : Nat := leNat (slice off n bs)

end Sys2Proof.Machine
end

