-- ==== Sys2Proof/Machine/Aes.lean ====
section
/-! DEFINITION. AES (FIPS 197), named by Table 0.4: the block cipher of the lanes with 128, 192 and 256-bit keys. PRESUMED from the standard. -/
namespace Sys2Proof.Machine

/-- The S-box. -/
def aesSbox : List Nat :=
  [99, 124, 119, 123, 242, 107, 111, 197, 48, 1, 103, 43, 254, 215, 171, 118, 202, 130, 201, 125, 250, 89, 71, 240, 173, 212, 162, 175, 156, 164, 114, 192] ++
  [183, 253, 147, 38, 54, 63, 247, 204, 52, 165, 229, 241, 113, 216, 49, 21, 4, 199, 35, 195, 24, 150, 5, 154, 7, 18, 128, 226, 235, 39, 178, 117] ++
  [9, 131, 44, 26, 27, 110, 90, 160, 82, 59, 214, 179, 41, 227, 47, 132, 83, 209, 0, 237, 32, 252, 177, 91, 106, 203, 190, 57, 74, 76, 88, 207] ++
  [208, 239, 170, 251, 67, 77, 51, 133, 69, 249, 2, 127, 80, 60, 159, 168, 81, 163, 64, 143, 146, 157, 56, 245, 188, 182, 218, 33, 16, 255, 243, 210] ++
  [205, 12, 19, 236, 95, 151, 68, 23, 196, 167, 126, 61, 100, 93, 25, 115, 96, 129, 79, 220, 34, 42, 144, 136, 70, 238, 184, 20, 222, 94, 11, 219] ++
  [224, 50, 58, 10, 73, 6, 36, 92, 194, 211, 172, 98, 145, 149, 228, 121, 231, 200, 55, 109, 141, 213, 78, 169, 108, 86, 244, 234, 101, 122, 174, 8] ++
  [186, 120, 37, 46, 28, 166, 180, 198, 232, 221, 116, 31, 75, 189, 139, 138, 112, 62, 181, 102, 72, 3, 246, 14, 97, 53, 87, 185, 134, 193, 29, 158] ++
  [225, 248, 152, 17, 105, 217, 142, 148, 155, 30, 135, 233, 206, 85, 40, 223, 140, 161, 137, 13, 191, 230, 66, 104, 65, 153, 45, 15, 176, 84, 187, 22]

/-- The inverse S-box. -/
def aesInvSbox : List Nat :=
  [82, 9, 106, 213, 48, 54, 165, 56, 191, 64, 163, 158, 129, 243, 215, 251, 124, 227, 57, 130, 155, 47, 255, 135, 52, 142, 67, 68, 196, 222, 233, 203] ++
  [84, 123, 148, 50, 166, 194, 35, 61, 238, 76, 149, 11, 66, 250, 195, 78, 8, 46, 161, 102, 40, 217, 36, 178, 118, 91, 162, 73, 109, 139, 209, 37] ++
  [114, 248, 246, 100, 134, 104, 152, 22, 212, 164, 92, 204, 93, 101, 182, 146, 108, 112, 72, 80, 253, 237, 185, 218, 94, 21, 70, 87, 167, 141, 157, 132] ++
  [144, 216, 171, 0, 140, 188, 211, 10, 247, 228, 88, 5, 184, 179, 69, 6, 208, 44, 30, 143, 202, 63, 15, 2, 193, 175, 189, 3, 1, 19, 138, 107] ++
  [58, 145, 17, 65, 79, 103, 220, 234, 151, 242, 207, 206, 240, 180, 230, 115, 150, 172, 116, 34, 231, 173, 53, 133, 226, 249, 55, 232, 28, 117, 223, 110] ++
  [71, 241, 26, 113, 29, 41, 197, 137, 111, 183, 98, 14, 170, 24, 190, 27, 252, 86, 62, 75, 198, 210, 121, 32, 154, 219, 192, 254, 120, 205, 90, 244] ++
  [31, 221, 168, 51, 136, 7, 199, 49, 177, 18, 16, 89, 39, 128, 236, 95, 96, 81, 127, 169, 25, 181, 74, 13, 45, 229, 122, 159, 147, 201, 156, 239] ++
  [160, 224, 59, 77, 174, 42, 245, 176, 200, 235, 187, 60, 131, 83, 153, 97, 23, 43, 4, 126, 186, 119, 214, 38, 225, 105, 20, 99, 85, 33, 12, 125]

/-- SubBytes of one byte. -/
def aesSub (b : Byte) : Byte := BitVec.ofNat 8 (aesSbox.getD b.toNat 0)

/-- The inverse of SubBytes of one byte. -/
def aesInvSub (b : Byte) : Byte := BitVec.ofNat 8 (aesInvSbox.getD b.toNat 0)

/-- Multiplication by x in the field of AES. -/
def aesXtime (b : Byte) : Byte := (b <<< 1) ^^^ (if b.msb then 0x1B#8 else 0#8)

/-- Multiplication by a small constant in the field of AES. -/
def aesMul (c : Nat) (b : Byte) : Byte :=
  let b2 := aesXtime b
  let b4 := aesXtime b2
  let b8 := aesXtime b4
  (if c % 2 = 1 then b else 0) ^^^ (if c / 2 % 2 = 1 then b2 else 0) ^^^ (if c / 4 % 2 = 1 then b4 else 0) ^^^
    (if c / 8 % 2 = 1 then b8 else 0)

/-- ShiftRows, as the source index of each byte of the column-major state. -/
def aesShift : List Nat := [0, 5, 10, 15, 4, 9, 14, 3, 8, 13, 2, 7, 12, 1, 6, 11]

/-- The inverse of ShiftRows. -/
def aesInvShift : List Nat := [0, 13, 10, 7, 4, 1, 14, 11, 8, 5, 2, 15, 12, 9, 6, 3]

/-- Bytes picked by index. -/
def pick (ix : List Nat) (s : List Byte) : List Byte := ix.map fun i => s.getD i 0

/-- A circulant of four constants applied to each column. -/
def aesMix (m : List Nat) : List Byte → List Byte
  | a :: b :: c :: d :: rest =>
    let col := [a, b, c, d]
    let at' := fun r => (List.range 4).foldl (fun acc j => acc ^^^ aesMul (m.getD ((j + 4 - r) % 4) 0) (col.getD j 0)) (0 : Byte)
    at' 0 :: at' 1 :: at' 2 :: at' 3 :: aesMix m rest
  | _ => []

/-- The words of the key schedule, newest first; `i` counts them and `n` remain. -/
def aesExpand (nk : Nat) : Nat → Nat → Byte → List (List Byte) → List (List Byte)
  | 0, _, _, ws => ws
  | n + 1, i, rcon, ws =>
    let prev := ws.getD 0 []
    let back := ws.getD (nk - 1) []
    let rot := prev.drop 1 ++ prev.take 1
    let t :=
      if i % nk = 0 then xorBytes (rot.map aesSub) [rcon, 0, 0, 0]
      else if nk > 6 ∧ i % nk = 4 then prev.map aesSub
      else prev
    aesExpand nk n (i + 1) (if i % nk = 0 then aesXtime rcon else rcon) (xorBytes back t :: ws)

/-- Pieces of four bytes. -/
def words4 (bs : List Byte) : List (List Byte) := (List.range (bs.length / 4)).map fun i => slice (4 * i) 4 bs

/-- The round keys of a 16, 24 or 32-byte key. -/
def aesKeys (key : List Byte) : List (List Byte) :=
  let nk := key.length / 4
  let total := 4 * (nk + 7)
  let ws := (aesExpand nk (total - nk) nk 1 (words4 key).reverse).reverse
  (List.range (nk + 7)).map fun i => ((ws.drop (4 * i)).take 4).flatten

/-- One block encrypted. -/
def aesEncrypt (key block : List Byte) : List Byte :=
  let ks := aesKeys key
  let s := xorBytes (fitBytes 16 block) (ks.headD [])
  let mid := (ks.drop 1).dropLast
  let s := mid.foldl (fun s k => xorBytes (aesMix [2, 3, 1, 1] (pick aesShift (s.map aesSub))) k) s
  xorBytes (pick aesShift (s.map aesSub)) (ks.getLastD [])

/-- One block decrypted. -/
def aesDecrypt (key block : List Byte) : List Byte :=
  let ks := aesKeys key
  let s := xorBytes (fitBytes 16 block) (ks.getLastD [])
  let s := (pick aesInvShift s).map aesInvSub
  let mid := ((ks.drop 1).dropLast).reverse
  let s := mid.foldl (fun s k => (pick aesInvShift (aesMix [14, 11, 13, 9] (xorBytes s k))).map aesInvSub) s
  xorBytes s (ks.headD [])

end Sys2Proof.Machine
end

