-- ==== Sys2Proof/Machine/Datapath.lean ====
section
/-! DEFINITION. The two datapaths of a cipher lane: a block runs in round slots, real and dummy, with its S-box positions routed through drawn permutations; the checker computes on complemented values (R126, R127, R135-R137). -/
namespace Sys2Proof.Machine

/-- A round slot of a block: the rotation and the mask that route its S-box positions (R137), and for a dummy round its state and its round key
(R136). -/
structure RoundSlot where
  r : Nat := 0
  x : Nat := 0
  dummy : Option (List Byte × List Byte) := none
deriving DecidableEq, Repr

/-- The bitwise complement of a byte string. -/
def complement (bs : List Byte) : List Byte := bs.map (~~~ ·)

/-- A value as a datapath holds it: complemented in the checker. -/
def pathForm (chk : Bool) (bs : List Byte) : List Byte := if chk then complement bs else bs

/-- A round key mixed in: by XOR, in the checker by XNOR. -/
def mixKey (chk : Bool) (s k : List Byte) : List Byte := pathForm chk (xorBytes s k)

/-- The positions 0 to n - 1 of a round evaluated by `n` units: unit j evaluates position ((j xor x) + r) mod n, and its result returns there
(R137). -/
def routed {α : Type} (n r x : Nat) (f : Nat → α) (at0 : List α) : List α :=
  (List.range n).foldl (fun out j => out.set (((j ^^^ x) + r) % n) (f (((j ^^^ x) + r) % n))) at0

/-! ## AES -/

/-- An S-box table as a datapath has it: S'(y) = ~S(~y) in the checker. -/
def pathSub (chk : Bool) (sub : Byte → Byte) (b : Byte) : Byte := if chk then ~~~ sub (~~~ b) else sub b

/-- One AES round of a datapath in a slot; the last round mixes no columns. -/
def aesRound (chk dec : Bool) (t : RoundSlot) (last : Bool) (s k : List Byte) : List Byte :=
  let s := pick (if dec then aesInvShift else aesShift) s
  let s := routed 16 t.r t.x (fun i => pathSub chk (if dec then aesInvSub else aesSub) (s.getD i 0)) (zeros 16)
  if dec then (if last then mixKey chk s k else aesMix [14, 11, 13, 9] (mixKey chk s k))
  else mixKey chk (if last then s else aesMix [2, 3, 1, 1] s) k

/-- An AES block under way: the round keys to come, its state, and what the last dummy round left in the dummy state. -/
structure AesRun where
  keys : List (List Byte)
  st : List Byte
  dummy : List Byte := []

/-- A slot run: a dummy round on its own state and key, or the next real round. -/
def AesRun.slot (chk dec : Bool) (a : AesRun) (t : RoundSlot) : AesRun :=
  match t.dummy, a.keys with
  | some d, _ => { a with dummy := aesRound chk dec t false (pathForm chk d.1) (pathForm chk d.2) }
  | none, k :: ks => { a with keys := ks, st := aesRound chk dec t ks.isEmpty a.st k }
  | none, [] => a

/-- One AES block in a datapath, in the form that datapath holds it. -/
def aesPath (chk dec : Bool) (slots : List RoundSlot) (key block : List Byte) : List Byte :=
  let ks := (aesKeys key).map (pathForm chk)
  let ks := if dec then ks.reverse else ks
  (slots.foldl (AesRun.slot chk dec)
    { keys := ks.drop 1, st := mixKey chk (pathForm chk (fitBytes 16 block)) (ks.headD []) }).st

/-! ## DES and TDES -/

/-- A number of `w` bits as a datapath holds it. -/
def pathNum (chk : Bool) (w v : Nat) : Nat := if chk then compl w v else v

/-- The round function of DES in a datapath, its eight S-box positions routed. -/
def desPathF (chk : Bool) (t : RoundSlot) (r k : Nat) : Nat :=
  let y := pathNum chk 48 (permute desE 32 r ^^^ k)
  let box := fun i => pathNum chk 4 (desBox (desS.getD i []) (pathNum chk 6 (y / 2 ^ (42 - 6 * i) % 64)))
  permute desP 32 ((routed 8 t.r t.x box (List.replicate 8 0)).foldl (fun n v => 16 * n + v) 0)

/-- DES rounds under way: the round keys to come, the halves, the real rounds done, and the halves of the dummy state. -/
structure DesRun where
  keys : List Nat
  l : Nat
  r : Nat
  done : Nat := 0
  dummy : Nat × Nat := (0, 0)

/-- One DES round of a datapath on two halves. -/
def desRound (chk : Bool) (t : RoundSlot) (l r k : Nat) : Nat × Nat := (r, pathNum chk 32 (l ^^^ desPathF chk t r k))

/-- A slot run; after each sixteenth real round the halves are exchanged, where one DES of TDES ends. -/
def DesRun.slot (chk : Bool) (a : DesRun) (t : RoundSlot) : DesRun :=
  match t.dummy, a.keys with
  | some d, _ =>
    { a with dummy := desRound chk t (pathNum chk 32 (beNat (d.1.take 4))) (pathNum chk 32 (beNat (slice 4 4 d.1)))
                        (pathNum chk 48 (beNat (d.2.take 6))) }
  | none, k :: ks =>
    let n := desRound chk t a.l a.r k
    let n := if (a.done + 1) % 16 = 0 then (n.2, n.1) else n
    { a with keys := ks, l := n.1, r := n.2, done := a.done + 1 }
  | none, [] => a

/-- A block through DES rounds in a datapath, in the form that datapath holds it. -/
def desPath (chk : Bool) (slots : List RoundSlot) (ks : List Nat) (block : List Byte) : List Byte :=
  let b := pathNum chk 64 (permute desIP 64 (beNat (fitBytes 8 block)))
  let z := slots.foldl (DesRun.slot chk) { keys := ks.map (pathNum chk 48), l := b / 2 ^ 32, r := b % 2 ^ 32 }
  beBytes 8 (permute desFP 64 (z.l * 2 ^ 32 + z.r))

/-- The round keys of TDES in the order its rounds use them. -/
def tdesKeys (dec : Bool) (key : List Byte) : List Nat :=
  let k := fun i => desKeys (tdesPart key i)
  if dec then (k 2).reverse ++ k 1 ++ (k 0).reverse else k 0 ++ (k 1).reverse ++ k 2

/-! ## A datapath of a lane -/

/-- A datapath: the primary or the checker, and the slots of each block by its number in the operation and its rounds. -/
structure Path where
  chk : Bool := false
  slots : Nat → Nat → List RoundSlot

/-- The rounds of a block (R136). -/
def blockRounds (cipher : Nat) (key : List Byte) : Nat := if cipher = 1 then 48 else key.length / 4 + 6

/-- Block `i` of an operation through CIPHER 0 (AES) or 1 (TDES); the checker's result is complemented back. -/
def Path.cipher (p : Path) (cipher : Nat) (dec : Bool) (key : List Byte) (i : Nat) (b : List Byte) : List Byte :=
  let ts := p.slots i (blockRounds cipher key)
  pathForm p.chk (if cipher = 1 then desPath p.chk ts (tdesKeys dec key) b else aesPath p.chk dec ts key b)

/-- Block `i` of an operation through single DES, as RMAC uses it. -/
def Path.des (p : Path) (key : List Byte) (i : Nat) (b : List Byte) : List Byte :=
  pathForm p.chk (desPath p.chk (p.slots i 16) (desKeys key) b)

/-- The primary datapath with no dummy round and nothing shuffled. -/
def plainPath : Path := { slots := fun _ n => List.replicate n {} }

/-! ## The slots of a block (R135-R137) -/

/-- The dummy rounds of a block whose draws begin at draw `i`, at the mean `m4` quarters (R135): at most 7. -/
def dummyRounds (m4 i : Nat) : Nat :=
  if m4 < 4 then (if Config.laneDraw i % 4 < m4 then 1 else 0)
  else 1 + ((List.range 6).filter fun j => Config.laneDraw (i + j) % 24 < m4 - 4).length

/-- The slots of `m` rounds of which `d` are dummies, chosen uniformly; each slot draws its permutation where shuffling is on, a dummy its state and
its round key. -/
def drawSlots (shuffle : Bool) (units : Nat) : (m d i : Nat) → List RoundSlot
  | 0, _, _ => []
  | m + 1, d, i =>
    let isDummy := decide (Config.laneDraw i % (m + 1) < d)
    { r := if shuffle then Config.laneDraw (i + 1) % units else 0
      x := if shuffle then Config.laneDraw (i + 2) % units else 0
      dummy := if isDummy then some (leBytes 16 (Config.laneDraw (i + 3)), leBytes 16 (Config.laneDraw (i + 4))) else none } ::
      drawSlots shuffle units m (if isDummy then d - 1 else d) (i + 5)

/-- The draws set aside for a block: its count, and five for each of at most 55 slots. -/
def blockDraws : Nat := 300

/-- The slots of a block of `n` rounds whose draws begin at `i`. -/
def blockSlots (shuffle : Bool) (m4 i n : Nat) : List RoundSlot :=
  let d := dummyRounds m4 i
  drawSlots shuffle (if n = 48 ∨ n = 16 then 8 else 16) (n + d) d (i + 6)

end Sys2Proof.Machine
end

