-- ==== Sys2Proof/Machine/Modes.lean ====
section
/-! DEFINITION. The modes of the cipher lanes over AES and TDES (Table 5.1): ECB, CBC, CTR, GCM, CMAC, XTS, RMAC and CBCMAC, with the padding methods of ISO/IEC 9797-1. PRESUMED from the standards Table 0.4 names. -/
namespace Sys2Proof.Machine

/-- The block length in bytes of CIPHER 0 (AES) or 1 (TDES). -/
def blkLen (cipher : Nat) : Nat := if cipher = 1 then 8 else 16

/-- One block encrypted under CIPHER. -/
def blkEnc (cipher : Nat) (key b : List Byte) : List Byte := if cipher = 1 then tdesEncrypt key b else aesEncrypt key b

/-- One block decrypted under CIPHER. -/
def blkDec (cipher : Nat) (key b : List Byte) : List Byte := if cipher = 1 then tdesDecrypt key b else aesDecrypt key b

/-- A byte string in blocks of `n`, the last one possibly short. -/
def chunks (n : Nat) (bs : List Byte) : List (List Byte) :=
  (List.range ((bs.length + n - 1) / n)).map fun i => (bs.drop (n * i)).take n

/-- A block function of an operation, which may treat each of its blocks by its number. -/
abbrev BlockFn := Nat → List Byte → List Byte

/-- ECB over whole blocks of `n` bytes. -/
def ecb (f : BlockFn) (n : Nat) (bs : List Byte) : List Byte := ((chunks n bs).mapIdx f).flatten

/-- CBC encryption under a block function: the ciphertext and the last ciphertext block. -/
def cbcEncBy (f : BlockFn) (n : Nat) (iv bs : List Byte) : List Byte × List Byte :=
  ((chunks n bs).zipIdx).foldl (fun acc b =>
    let c := f b.2 (xorBytes acc.2 b.1)
    (acc.1 ++ c, c)) ([], iv)

/-- CBC encryption: the ciphertext and the last ciphertext block. -/
def cbcEnc (cipher : Nat) (key iv bs : List Byte) : List Byte × List Byte :=
  cbcEncBy (fun _ => blkEnc cipher key) (blkLen cipher) iv bs

/-- CBC decryption under a block function: the plaintext and the last ciphertext block. -/
def cbcDecBy (f : BlockFn) (n : Nat) (iv bs : List Byte) : List Byte × List Byte :=
  ((chunks n bs).zipIdx).foldl (fun acc c => (acc.1 ++ xorBytes acc.2 (f c.2 c.1), c.1)) ([], iv)

/-- CBC decryption: the plaintext and the last ciphertext block. -/
def cbcDec (cipher : Nat) (key iv bs : List Byte) : List Byte × List Byte :=
  cbcDecBy (fun _ => blkDec cipher key) (blkLen cipher) iv bs

/-- A counter block moved on by `n` in its rightmost `w` bytes, big-endian, modulo its width (Table 5.2, CTRW). -/
def ctrAdd (w n : Nat) (b : List Byte) : List Byte :=
  b.take (16 - w) ++ beBytes w ((beNat (b.drop (16 - w)) + n) % 2 ^ (8 * w))

/-- Counter mode under a block function from a counter block. -/
def ctrModeBy (f : BlockFn) (ctr : List Byte) (w : Nat) (bs : List Byte) : List Byte :=
  ((chunks 16 bs).mapIdx fun i b => xorBytes b (f i (ctrAdd w i ctr))).flatten

/-- Counter mode over AES from a counter block. -/
def ctrMode (key ctr : List Byte) (w : Nat) (bs : List Byte) : List Byte := ctrModeBy (fun _ => aesEncrypt key) ctr w bs

/-- Multiplication in the field of GHASH, 128 steps. -/
def ghashMul (x y : Nat) : Nat :=
  ((List.range 128).foldl (fun (zv : Nat × Nat) i =>
    (if bitOf x (127 - i) then zv.1 ^^^ zv.2 else zv.1,
     if zv.2 % 2 = 1 then (zv.2 / 2) ^^^ (0xE1 * 2 ^ 120) else zv.2 / 2)) (0, y)).1

/-- GHASH of a byte string, its last block filled with zeros, from an accumulator. -/
def ghash (h : List Byte) (acc bs : List Byte) : List Byte :=
  (chunks 16 bs).foldl (fun a b => beBytes 16 (ghashMul (beNat (xorBytes a (fitBytes 16 b))) (beNat h))) acc

/-- Doubling in the field of CMAC. -/
def cmacDouble (b : List Byte) : List Byte :=
  let n := b.length
  let v := beNat b
  beBytes n (((2 * v) % 2 ^ (8 * n)) ^^^ (if v ≥ 2 ^ (8 * n - 1) then (if n = 8 then 0x1B else 0x87) else 0))

/-- The last block of a CMAC of blocks of `n`, from the encrypted zero block: a whole block under the first subkey, a short or empty one padded under
the second. -/
def cmacLast (n : Nat) (l b : List Byte) : List Byte :=
  let k1 := cmacDouble l
  if b.length = n then xorBytes b k1 else xorBytes (fitBytes n (b ++ [0x80#8])) (cmacDouble k1)

/-- CMAC of a byte string under a block function for blocks of `n`: its data blocks, its last block, then the subkeys' block. -/
def cmacBy (f : BlockFn) (n : Nat) (bs : List Byte) : List Byte :=
  let q := (bs.length - 1) / n
  let acc := (cbcEncBy f n (zeros n) (bs.take (n * q))).2
  f q (xorBytes acc (cmacLast n (f (q + 1) (zeros n)) (bs.drop (n * q))))

/-- CMAC of a byte string. -/
def cmac (cipher : Nat) (key bs : List Byte) : List Byte := cmacBy (fun _ => blkEnc cipher key) (blkLen cipher) bs

/-- The XTS tweak of block `i`: the encrypted tweak times alpha to the i. -/
def xtsTweak : Nat → List Byte → List Byte
  | 0, t => t
  | n + 1, t =>
    let v := leNat t
    xtsTweak n (leBytes 16 (((2 * v) % 2 ^ 128) ^^^ (if v ≥ 2 ^ 127 then 0x87 else 0)))

/-- One XTS block under a tweak. -/
def xtsBlock (f : List Byte → List Byte) (t b : List Byte) : List Byte := xorBytes t (f (xorBytes t b))

/-- An XTS part from block position `pos` under a block function; a partial last block steals from the full block before it. -/
def xtsRun (f : BlockFn) (dec : Bool) (t0 : List Byte) (pos : Nat) (bs : List Byte) : List Byte :=
  let q := bs.length / 16
  let r := bs.length % 16
  let full := if r = 0 then q else q - 1
  let head := (List.range full).flatMap fun i => xtsBlock (f i) (xtsTweak (pos + i) t0) (slice (16 * i) 16 bs)
  if r = 0 then head
  else
    let ta := xtsTweak (pos + full) t0
    let tb := xtsTweak (pos + full + 1) t0
    let x := xtsBlock (f full) (if dec then tb else ta) (slice (16 * full) 16 bs)
    let y := xtsBlock (f (full + 1)) (if dec then ta else tb) ((bs.drop (16 * (full + 1))) ++ x.drop r)
    head ++ y ++ x.take r

/-- The retail MAC's inner chain under a block function: single DES under the first key over whole blocks (ISO/IEC 9797-1 algorithm 3). -/
def rmacChainBy (f : BlockFn) (acc bs : List Byte) : List Byte :=
  ((chunks 8 bs).zipIdx).foldl (fun a b => f b.2 (xorBytes a b.1)) acc

/-- The retail MAC of whole blocks under DES and TDES: the chain, then its last block through TDES. -/
def rmacBy (des tdes : BlockFn) (bs : List Byte) : List Byte :=
  let q := bs.length / 8 - 1
  tdes q (xorBytes (rmacChainBy des (zeros 8) (bs.take (8 * q))) (bs.drop (8 * q)))

/-- The retail MAC of whole blocks. -/
def rmac (key bs : List Byte) : List Byte := rmacBy (fun _ => desEncrypt (tdesPart key 0)) (fun _ => tdesEncrypt key) bs

/-- Padding methods 0 (none), 1 and 2 of ISO/IEC 9797-1 to blocks of `n`; an empty string takes one zero block under method 1 when `mac`. -/
def isoPad (method n : Nat) (mac : Bool) (bs : List Byte) : List Byte :=
  match method with
  | 1 => if bs.isEmpty then (if mac then zeros n else []) else bs ++ zeros ((n - bs.length % n) % n)
  | 2 => let x := bs ++ [0x80#8]; x ++ zeros ((n - x.length % n) % n)
  | _ => bs

end Sys2Proof.Machine
end

