-- ==== Sys2Proof/Machine/Fields.lean ====
section
/-! DEFINITION. The register fields of the module: every field of the register tables that holds a value of its own (Tables 1.10, 2.11, 3.11, 3.12, 5.10, 5.11, 6.13, 6.14, 7.15, 7.16, 8.4, 9.7-9.9, 10.11, 10.12, 11.5, 12.7, 13.8, 14.5, 15.5, 15.6, 16.9, 17.3, 17.4, 18.6-18.8, 19.5, 21.1), with its place, width, access code and reset value, and the page map of Table 21.2. -/
namespace Sys2Proof.Machine

/-- The access codes of Table 0.5 (R8); a reserved field (RSV) has no `Field`. -/
inductive Access
  | ro | rw | wo | w1c | w1s | rwl | rwg
deriving DecidableEq, Repr

/-- One register field: its byte address in BAR0, its lowest bit, its width in bits, its access code and its reset value. -/
structure Field where
  addr : Nat
  lsb : Nat
  width : Nat
  access : Access
  reset : Nat
deriving DecidableEq, Repr

/-- The key of a field in the register store: no two fields share an address and a lowest bit. -/
def Field.key (f : Field) : Nat := 32 * f.addr + f.lsb

/-- The kinds of block page (Table 21.2). -/
inductive PageKind
  | gbl | pwr | qtz | rst | pad | cc | pk | geo | kcs | hbm | arb | mpu | flt | obs | lcs | gate | pair | fvl | sched | agt | card | sd | hqe | seq
deriving DecidableEq, Repr

/-- A page of BAR0: its kind and the instance n, p, m, k or s. -/
structure Page where
  kind : PageKind
  inst : Nat
deriving DecidableEq, Repr

/-- The page base of kind `k`, instance 0 (Table 21.2). -/
def PageKind.base : PageKind → Nat
  | .gbl => 0x0
  | .pwr => 0x1000
  | .qtz => 0x2000
  | .rst => 0x3000
  | .pad => 0x4000
  | .cc => 0x10000
  | .pk => 0x20000
  | .geo => 0x30000
  | .kcs => 0x31000
  | .hbm => 0x41000
  | .arb => 0x43000
  | .mpu => 0x50000
  | .flt => 0x60000
  | .obs => 0x61000
  | .lcs => 0x62000
  | .gate => 0x63000
  | .pair => 0x70000
  | .fvl => 0x71000
  | .sched => 0x80000
  | .agt => 0x81000
  | .card => 0x90000
  | .sd => 0x91000
  | .hqe => 0xA0000
  | .seq => 0xA1000

/-- The number of instances of a kind of page (Table 21.2). -/
def PageKind.count : PageKind → Nat
  | .gbl => 1
  | .pwr => 1
  | .qtz => 1
  | .rst => 1
  | .pad => 1
  | .cc => 16
  | .pk => 8
  | .geo => 1
  | .kcs => 16
  | .hbm => 2
  | .arb => 1
  | .mpu => 16
  | .flt => 1
  | .obs => 1
  | .lcs => 1
  | .gate => 1
  | .pair => 1
  | .fvl => 8
  | .sched => 1
  | .agt => 1
  | .card => 1
  | .sd => 1
  | .hqe => 1
  | .seq => 16

/-- The block type code of a kind of page (Table 21.2). -/
def PageKind.typeCode : PageKind → Nat
  | .gbl => 0x1
  | .pwr => 0x2
  | .qtz => 0x3
  | .rst => 0x4
  | .pad => 0x5
  | .cc => 0x10
  | .pk => 0x11
  | .geo => 0x20
  | .kcs => 0x21
  | .hbm => 0x30
  | .arb => 0x31
  | .mpu => 0x40
  | .flt => 0x50
  | .obs => 0x51
  | .lcs => 0x52
  | .gate => 0x53
  | .pair => 0x60
  | .fvl => 0x61
  | .sched => 0x70
  | .agt => 0x71
  | .card => 0x80
  | .sd => 0x81
  | .hqe => 0x90
  | .seq => 0x91

/-- Every kind of page, in the order of Table 21.2. -/
def PageKind.all : List PageKind := [.gbl, .pwr, .qtz, .rst, .pad, .cc, .pk, .geo, .kcs, .hbm, .arb, .mpu, .flt, .obs, .lcs, .gate, .pair, .fvl, .sched, .agt, .card, .sd, .hqe, .seq]

/-- The base address of a page. -/
def Page.base (p : Page) : Nat := p.kind.base + 0x1000 * p.inst

/-- The number of a page: its base over 0x1000. -/
def Page.num (p : Page) : Nat := p.base / 0x1000

/-- Does the page hold RWG fields and inverted shadows (Table 21.2)? -/
def Page.guarded (p : Page) : Bool :=
  match p.kind with
  | .pwr | .geo | .arb | .mpu | .flt | .obs | .gate | .pair | .hqe => true
  | .cc | .hbm | .fvl | .seq => p.inst == 0
  | .gbl | .qtz | .rst | .pad | .pk | .kcs | .lcs | .sched | .agt | .card | .sd => false

/-- The page that holds a BAR0 address, if any (R465). -/
def Page.find (ks : List PageKind) (addr : Nat) : Option Page :=
  match ks with
  | [] => none
  | k :: ks =>
    if k.base ≤ addr ∧ addr < k.base + 0x1000 * k.count then some ⟨k, (addr - k.base) / 0x1000⟩
    else Page.find ks addr

/-- The page that holds a BAR0 address, if any (R465). -/
def Page.ofAddr (addr : Nat) : Option Page := Page.find PageKind.all addr

/-- The reset response class of each Obsidian input (Table 11.1). -/
def obsRespReset (i : Nat) : Nat := [4, 4, 4, 4, 4, 3, 3, 2, 2, 2, 2, 4, 4, 4, 2, 1, 0, 0, 3, 4, 4, 3].getD i 0

/-- The reset N of each Obsidian input's N-of-M filter (Table 11.1). -/
def obsFiltNReset (i : Nat) : Nat := [2, 2, 2, 6, 6, 6, 6, 8, 1, 1, 2, 2, 2, 2, 1, 1, 4, 4, 1, 1, 2, 2].getD i 1

/-- The reset M of each Obsidian input's N-of-M filter (Table 11.1). -/
def obsFiltMReset (i : Nat) : Nat := [4, 4, 4, 8, 8, 8, 8, 8, 1, 1, 4, 4, 4, 4, 1, 1, 4, 4, 1, 1, 4, 4].getD i 1

/-! The fields. A field's name is its page's name and its own; `n` is the page's instance, `i` the index in an array, `p` the page number. -/


/-! Table 1.10. -/
def R.GBL_PART_CODE : Field := ⟨0x100, 16, 16, .ro, 0x940⟩
def R.GBL_CC_COUNT : Field := ⟨0x110, 0, 8, .ro, 0x10⟩
def R.GBL_PK_COUNT : Field := ⟨0x110, 8, 8, .ro, 0x8⟩
def R.GBL_LANES_PER_CC : Field := ⟨0x110, 16, 4, .ro, 0x4⟩
def R.GBL_ENGINES_PER_PK : Field := ⟨0x110, 20, 4, .ro, 0x8⟩
def R.GBL_FVL_COUNT : Field := ⟨0x110, 24, 4, .ro, 0x8⟩
def R.GBL_HBM_STACKS : Field := ⟨0x110, 28, 4, .ro, 0x2⟩
def R.GBL_CC_INSERVICE : Field := ⟨0x114, 0, 16, .ro, 0x0⟩
def R.GBL_PK_INSERVICE : Field := ⟨0x118, 0, 8, .ro, 0x0⟩
def R.GBL_ISLAND_LOCK : Field := ⟨0x120, 0, 31, .ro, 0x0⟩

/-! Table 2.11. -/
def R.HQE_PSEL : Field := ⟨0xA0100, 0, 10, .rw, 0x0⟩
def R.HQE_DISCARD_CNT : Field := ⟨0xA0204, 0, 32, .ro, 0x0⟩
def R.HQE_P0_LINKUP : Field := ⟨0xA0208, 0, 1, .ro, 0x0⟩
def R.HQE_P0_GEN : Field := ⟨0xA0208, 1, 3, .ro, 0x0⟩
def R.HQE_P0_WIDTH : Field := ⟨0xA0208, 4, 2, .ro, 0x0⟩
def R.HQE_P1_LINKUP : Field := ⟨0xA0208, 8, 1, .ro, 0⟩
def R.HQE_P1_GEN : Field := ⟨0xA0208, 9, 3, .ro, 0⟩
def R.HQE_P1_WIDTH : Field := ⟨0xA0208, 12, 2, .ro, 0⟩
def R.HQE_P0_MAXGEN : Field := ⟨0xA020C, 0, 3, .rwl, 0x6⟩
def R.HQE_P0_MAXWIDTH : Field := ⟨0xA020C, 4, 2, .rwl, 0x3⟩
def R.HQE_P1_MAXGEN : Field := ⟨0xA020C, 8, 3, .rwl, 0x6⟩
def R.HQE_P1_MAXWIDTH : Field := ⟨0xA020C, 12, 2, .rwl, 0x3⟩
def R.HQE_LOCK : Field := ⟨0xA0210, 0, 1, .w1s, 0x0⟩
def R.HQE_ABORT_GO : Field := ⟨0xA0224, 31, 1, .wo, 0x0⟩

/-! Table 2.12. -/
def R.HQE_QSEL : Field := ⟨0xA0300, 0, 6, .rw, 0x0⟩

/-! Table 3.11. -/
def R.SEQ_ISSUE_CNT (n : Nat) : Field := ⟨0xA110C + 0x1000 * n, 0, 32, .ro, 0x0⟩
def R.SEQ_RETIRE_CNT (n : Nat) : Field := ⟨0xA1110 + 0x1000 * n, 0, 32, .ro, 0x0⟩
def R.SEQ_DONE_CNT (n : Nat) : Field := ⟨0xA1114 + 0x1000 * n, 0, 32, .ro, 0x0⟩
def R.SEQ_MABORT_CNT (n : Nat) : Field := ⟨0xA1118 + 0x1000 * n, 0, 16, .ro, 0x0⟩
def R.SEQ_FAULT_CNT (n : Nat) : Field := ⟨0xA1118 + 0x1000 * n, 16, 16, .ro, 0x0⟩
def R.SEQ_PC_HIT (n : Nat) : Field := ⟨0xA1120 + 0x1000 * n, 0, 32, .ro, 0x0⟩
def R.SEQ_PC_MISS (n : Nat) : Field := ⟨0xA1124 + 0x1000 * n, 0, 32, .ro, 0x0⟩
def R.SEQ_LAST_PC (n : Nat) : Field := ⟨0xA1128 + 0x1000 * n, 0, 8, .ro, 0x0⟩
def R.SEQ_LAST_CLASS (n : Nat) : Field := ⟨0xA1128 + 0x1000 * n, 8, 4, .ro, 0x0⟩
def R.SEQ_LAST_STATUS (n : Nat) : Field := ⟨0xA1128 + 0x1000 * n, 16, 8, .ro, 0x0⟩
def R.SEQ_LAST_CTX (n : Nat) : Field := ⟨0xA1128 + 0x1000 * n, 24, 6, .ro, 0x0⟩
def R.SEQ_LAST_PROGRAM (n : Nat) : Field := ⟨0xA112C + 0x1000 * n, 0, 12, .ro, 0x0⟩

/-! Table 3.12. -/
def R.SEQ0_BUDGET : Field := ⟨0xA1200, 0, 21, .rw, 0x10000⟩
def R.SEQ0_PGM_SEL : Field := ⟨0xA1204, 0, 12, .rw, 0x0⟩
def R.SEQ0_PEN_PART : Field := ⟨0xA1210, 0, 10, .rw, 0x0⟩
def R.SEQ0_PEN_WORD : Field := ⟨0xA1210, 16, 7, .rw, 0x0⟩
def R.SEQ0_PIN_SLOT (i : Nat) : Field := ⟨0xA1220 + 4 * i, 0, 12, .rw, 0x0⟩
def R.SEQ0_PIN_VALID (i : Nat) : Field := ⟨0xA1220 + 4 * i, 31, 1, .rw, 0x0⟩
def R.SEQ0_PIN_OVER : Field := ⟨0xA1240, 9, 1, .ro, 0x0⟩
def R.SEQ0_STALE_SLOT : Field := ⟨0xA1244, 0, 12, .ro, 0x0⟩
def R.SEQ0_STALE_BUSY : Field := ⟨0xA1244, 31, 1, .ro, 0x0⟩

/-! Table 5.10. -/
def R.CC_LANE_HOLD (n : Nat) : Field := ⟨0x10100 + 0x1000 * n, 4, 4, .rw, 0x0⟩
def R.CC_LANE_BLOCKS (n : Nat) (i : Nat) : Field := ⟨0x10110 + 0x1000 * n + 4 * i, 0, 32, .ro, 0x0⟩
def R.CC_DUMMY_CNT (n : Nat) : Field := ⟨0x10120 + 0x1000 * n, 0, 32, .ro, 0x0⟩
def R.CC_FAULT_LANE (n : Nat) : Field := ⟨0x10124 + 0x1000 * n, 0, 32, .ro, 0x0⟩
def R.CC_FAULT_HASH (n : Nat) : Field := ⟨0x10128 + 0x1000 * n, 0, 8, .ro, 0x0⟩
def R.CC_FAULT_FMT (n : Nat) : Field := ⟨0x10128 + 0x1000 * n, 8, 8, .ro, 0x0⟩
def R.CC_RESEED_CNT (n : Nat) : Field := ⟨0x1012C + 0x1000 * n, 0, 16, .ro, 0x0⟩
def R.CC_RESEED_STALL (n : Nat) : Field := ⟨0x1012C + 0x1000 * n, 16, 16, .ro, 0x0⟩
def R.CC_HASH_BLOCKS (n : Nat) : Field := ⟨0x10134 + 0x1000 * n, 0, 32, .ro, 0x0⟩
def R.CC_LAST_FAULT_UNIT (n : Nat) : Field := ⟨0x10140 + 0x1000 * n, 0, 3, .ro, 0x0⟩
def R.CC_LAST_FAULT_KAT (n : Nat) : Field := ⟨0x10140 + 0x1000 * n, 3, 1, .ro, 0x0⟩
def R.CC_LAST_FAULT_CTX (n : Nat) : Field := ⟨0x10140 + 0x1000 * n, 8, 6, .ro, 0x0⟩

/-! Table 5.11. -/
def R.CC0_DMEAN : Field := ⟨0x10200, 0, 5, .rwg, 0x8⟩
def R.CC0_SHUF_EN : Field := ⟨0x10200, 8, 1, .rwg, 0x1⟩
def R.CC0_FAULT_LIMIT : Field := ⟨0x10204, 0, 8, .rwg, 0x4⟩
def R.CC0_FAULT_WINDOW : Field := ⟨0x10204, 8, 16, .rwg, 0x3E8⟩
def R.CC0_FAULT_TOTAL : Field := ⟨0x1020C, 0, 32, .ro, 0x0⟩
def R.CC0_LOGIC_RAISED : Field := ⟨0x10210, 0, 32, .ro, 0x0⟩

/-! Table 6.13. -/
def R.PK_ENG_HOLD (n : Nat) : Field := ⟨0x20100 + 0x1000 * n, 16, 8, .rw, 0x0⟩
def R.PK_LU_HOLD (n : Nat) : Field := ⟨0x20100 + 0x1000 * n, 24, 1, .rw, 0x0⟩
def R.PK_ENG_OPS (n : Nat) (i : Nat) : Field := ⟨0x20110 + 0x1000 * n + 4 * i, 0, 32, .ro, 0x0⟩
def R.PK_LU_OPS (n : Nat) : Field := ⟨0x20130 + 0x1000 * n, 0, 32, .ro, 0x0⟩
def R.PK_REFUSED_CNT (n : Nat) : Field := ⟨0x20134 + 0x1000 * n, 0, 32, .ro, 0x0⟩
def R.PK_FAULT_ENG_LO (n : Nat) : Field := ⟨0x20138 + 0x1000 * n, 0, 32, .ro, 0x0⟩
def R.PK_FAULT_ENG_HI (n : Nat) : Field := ⟨0x2013C + 0x1000 * n, 0, 32, .ro, 0x0⟩
def R.PK_FAULT_LU (n : Nat) : Field := ⟨0x20140 + 0x1000 * n, 0, 8, .ro, 0x0⟩
def R.PK_LAST_FAULT_UNIT (n : Nat) : Field := ⟨0x20144 + 0x1000 * n, 0, 4, .ro, 0x0⟩
def R.PK_LAST_FAULT_KAT (n : Nat) : Field := ⟨0x20144 + 0x1000 * n, 4, 1, .ro, 0x0⟩
def R.PK_ABORT_CNT (n : Nat) : Field := ⟨0x20148 + 0x1000 * n, 0, 16, .ro, 0x0⟩
def R.PK_ITER_LAST (n : Nat) : Field := ⟨0x2014C + 0x1000 * n, 0, 10, .ro, 0x0⟩
def R.PK_ITER_MAX (n : Nat) : Field := ⟨0x2014C + 0x1000 * n, 16, 10, .ro, 0x0⟩

/-! Table 6.14. -/
def R.PK0_CURVE_SEL : Field := ⟨0x20200, 0, 6, .rw, 0x0⟩
def R.PK0_STALE_BUSY : Field := ⟨0x20210, 0, 1, .ro, 0x0⟩
def R.PK0_STALE_ENTRY : Field := ⟨0x20210, 1, 6, .ro, 0x0⟩

/-! Table 7.15. -/
def R.GEO_PSEL : Field := ⟨0x30100, 0, 10, .rw, 0x0⟩
def R.GEO_REMASK_MS : Field := ⟨0x30200, 0, 7, .rwg, 0x4⟩
def R.GEO_FENCE_PEAK : Field := ⟨0x30204, 8, 5, .ro, 0x0⟩
def R.GEO_FENCE_LAST_NS : Field := ⟨0x30208, 0, 16, .ro, 0x0⟩
def R.GEO_FENCE_MAX_NS : Field := ⟨0x30208, 16, 16, .ro, 0x0⟩
def R.GEO_FENCE_CNT : Field := ⟨0x3020C, 0, 32, .ro, 0x0⟩
def R.GEO_SWEEP_EN : Field := ⟨0x30210, 0, 1, .rw, 0x1⟩
def R.GEO_SWEEP_RATE : Field := ⟨0x30210, 4, 8, .rw, 0x10⟩
def R.GEO_SWEEP_LINE : Field := ⟨0x30214, 0, 29, .ro, 0x0⟩
def R.GEO_SWEEP_RECLAIM : Field := ⟨0x30218, 0, 32, .ro, 0x0⟩
def R.GEO_SWEEP_PASS : Field := ⟨0x3021C, 0, 32, .ro, 0x0⟩
def R.GEO_LINES_TOTAL : Field := ⟨0x30220, 0, 29, .ro, 0x10000000⟩

/-! Table 7.16. -/
def R.KCS_HIT (n : Nat) : Field := ⟨0x31108 + 0x1000 * n, 0, 32, .ro, 0x0⟩
def R.KCS_MISS (n : Nat) : Field := ⟨0x3110C + 0x1000 * n, 0, 32, .ro, 0x0⟩
def R.KCS_EVICT (n : Nat) : Field := ⟨0x31110 + 0x1000 * n, 0, 32, .ro, 0x0⟩
def R.KCS_FILL_WAIT (n : Nat) : Field := ⟨0x31114 + 0x1000 * n, 0, 32, .ro, 0x0⟩
def R.KCS_REMASK_PASS (n : Nat) : Field := ⟨0x31118 + 0x1000 * n, 0, 32, .ro, 0x0⟩
def R.KCS_INVAL (n : Nat) : Field := ⟨0x3111C + 0x1000 * n, 0, 32, .ro, 0x0⟩
def R.KCS_FILL_MAX_NS (n : Nat) : Field := ⟨0x31120 + 0x1000 * n, 0, 16, .ro, 0x0⟩

/-! Table 8.4. -/
def R.FLT_READY : Field := ⟨0x60100, 24, 1, .ro, 0x0⟩
def R.FLT_RCT_CUTOFF : Field := ⟨0x60108, 0, 8, .ro, 0x2E⟩
def R.FLT_APT_CUTOFF : Field := ⟨0x60108, 16, 10, .ro, 0x298⟩
def R.FLT_RESEED_MS : Field := ⟨0x6010C, 0, 10, .rwg, 0x3E8⟩
def R.FLT_ENV_RNG_CNT : Field := ⟨0x60110, 8, 16, .ro, 0x0⟩
def R.FLT_DISCARD_CNT : Field := ⟨0x60114, 0, 32, .ro, 0x0⟩
def R.FLT_FAILED_CNT : Field := ⟨0x60118, 0, 32, .ro, 0x0⟩
def R.FLT_NOTREADY_CNT : Field := ⟨0x6011C, 0, 32, .ro, 0x0⟩
def R.FLT_RCT_FAIL (i : Nat) : Field := ⟨0x60120 + 4 * i, 0, 16, .ro, 0x0⟩
def R.FLT_APT_FAIL (i : Nat) : Field := ⟨0x60120 + 4 * i, 16, 16, .ro, 0x0⟩
def R.FLT_READY_US : Field := ⟨0x60180, 0, 16, .ro, 0x0⟩
def R.FLT_LAST_CELL : Field := ⟨0x60184, 0, 3, .ro, 0x0⟩
def R.FLT_LAST_TEST : Field := ⟨0x60184, 3, 1, .ro, 0x0⟩
def R.FLT_LAST_START : Field := ⟨0x60184, 4, 1, .ro, 0x0⟩
def R.FLT_LAST_CORE : Field := ⟨0x60184, 5, 1, .ro, 0x0⟩
def R.FLT_LAST_INST : Field := ⟨0x60184, 8, 4, .ro, 0x0⟩

/-! Table 9.7. -/
def R.HBM_PHY_READY (n : Nat) : Field := ⟨0x41100 + 0x1000 * n, 0, 1, .ro, 0x0⟩
def R.HBM_PROT_READY (n : Nat) : Field := ⟨0x41100 + 0x1000 * n, 1, 1, .ro, 0x0⟩
def R.HBM_WORK_READY (n : Nat) : Field := ⟨0x41100 + 0x1000 * n, 2, 1, .ro, 0x0⟩
def R.HBM_SELF_REFRESH (n : Nat) : Field := ⟨0x41100 + 0x1000 * n, 3, 1, .ro, 0x0⟩
def R.HBM_TEMP (n : Nat) : Field := ⟨0x41100 + 0x1000 * n, 8, 8, .ro, 0x0⟩
def R.HBM_CE_CNT (n : Nat) : Field := ⟨0x41104 + 0x1000 * n, 0, 32, .ro, 0x0⟩
def R.HBM_UE_CNT (n : Nat) : Field := ⟨0x41108 + 0x1000 * n, 0, 32, .ro, 0x0⟩
def R.HBM_MAC_FAIL_CNT (n : Nat) : Field := ⟨0x4110C + 0x1000 * n, 0, 16, .ro, 0x0⟩
def R.HBM_XTS_FAULT_CNT (n : Nat) : Field := ⟨0x4110C + 0x1000 * n, 16, 16, .ro, 0x0⟩
def R.HBM_LAST_ERR_LINE (n : Nat) : Field := ⟨0x41110 + 0x1000 * n, 0, 29, .ro, 0x0⟩
def R.HBM_LAST_ERR_TYPE (n : Nat) : Field := ⟨0x41110 + 0x1000 * n, 29, 2, .ro, 0x0⟩
def R.HBM_SCRUB_EN (n : Nat) : Field := ⟨0x41120 + 0x1000 * n, 0, 1, .rw, 0x1⟩
def R.HBM_SCRUB_RATE (n : Nat) : Field := ⟨0x41120 + 0x1000 * n, 4, 8, .rw, 0x10⟩
def R.HBM_SCRUB_LINE (n : Nat) : Field := ⟨0x41124 + 0x1000 * n, 0, 29, .ro, 0x0⟩
def R.HBM_SCRUB_PASS (n : Nat) : Field := ⟨0x41128 + 0x1000 * n, 0, 32, .ro, 0x0⟩
def R.HBM_ROW_CE_LIMIT (n : Nat) : Field := ⟨0x41130 + 0x1000 * n, 0, 8, .rw, 0x10⟩
def R.HBM_CAND_PC (n : Nat) : Field := ⟨0x41134 + 0x1000 * n, 0, 5, .ro, 0x0⟩
def R.HBM_CAND_BANK (n : Nat) : Field := ⟨0x41134 + 0x1000 * n, 5, 6, .ro, 0x0⟩
def R.HBM_CAND_ROW (n : Nat) : Field := ⟨0x41134 + 0x1000 * n, 11, 17, .ro, 0x0⟩
def R.HBM_PPR_TARGET (n : Nat) : Field := ⟨0x41140 + 0x1000 * n, 0, 28, .rw, 0x0⟩
def R.HBM_PPR_GO (n : Nat) : Field := ⟨0x41140 + 0x1000 * n, 31, 1, .wo, 0x0⟩
def R.HBM_PPR_RATE (n : Nat) : Field := ⟨0x41144 + 0x1000 * n, 0, 7, .rw, 0x40⟩
def R.HBM_PPR_STATE (n : Nat) : Field := ⟨0x41144 + 0x1000 * n, 8, 3, .ro, 0x0⟩
def R.HBM_MACC_HIT (n : Nat) : Field := ⟨0x41150 + 0x1000 * n, 0, 32, .ro, 0x0⟩
def R.HBM_MACC_MISS (n : Nat) : Field := ⟨0x41154 + 0x1000 * n, 0, 32, .ro, 0x0⟩

/-! Table 9.8. -/
def R.HBM0_WPSEL : Field := ⟨0x41200, 0, 10, .rw, 0x0⟩

/-! Table 9.9. -/
def R.ARB_XPSEL : Field := ⟨0x43100, 0, 10, .rw, 0x0⟩
def R.ARB_HBM_WEIGHT (i : Nat) : Field := ⟨0x43110 + 4 * i, 0, 8, .rw, [32, 16, 16, 16, 8, 8, 1, 2, 4, 8].getD i 0⟩
def R.ARB_WIN_LOW : Field := ⟨0x43140, 0, 13, .rw, 0x400⟩
def R.ARB_STARVE_FETCH : Field := ⟨0x43144, 0, 32, .rw, 0x10000⟩
def R.ARB_STARVE_LOW : Field := ⟨0x43148, 0, 32, .rw, 0x4000⟩
def R.ARB_FREEZE_FETCH : Field := ⟨0x43200, 0, 2, .rw, 0x0⟩
def R.ARB_FREEZE_XBAR : Field := ⟨0x43200, 16, 16, .rw, 0x0⟩
def R.ARB_FREEZE_HBM0 : Field := ⟨0x43204, 0, 32, .rw, 0x0⟩
def R.ARB_FREEZE_HBM1 : Field := ⟨0x43208, 0, 32, .rw, 0x0⟩
def R.ARB_CAPT_PLACE : Field := ⟨0x43220, 0, 2, .ro, 0x0⟩
def R.ARB_CAPT_UNIT : Field := ⟨0x43220, 2, 6, .ro, 0x0⟩
def R.ARB_CAPT_REQ : Field := ⟨0x43220, 8, 10, .ro, 0x0⟩
def R.ARB_STARVE_CNT : Field := ⟨0x43224, 0, 32, .ro, 0x0⟩
def R.ARB_WSEL_PLACE : Field := ⟨0x43228, 0, 2, .rw, 0x0⟩
def R.ARB_WSEL_UNIT : Field := ⟨0x43228, 2, 6, .rw, 0x0⟩
def R.ARB_WSEL_REQ : Field := ⟨0x43228, 8, 10, .rw, 0x0⟩

/-! Table 10.11. -/
def R.GATE_STATE : Field := ⟨0x63100, 0, 3, .ro, 0x0⟩
def R.GATE_CLASS : Field := ⟨0x63100, 4, 4, .ro, 0x0⟩
def R.GATE_SCOPE_PART : Field := ⟨0x63100, 16, 10, .ro, 0x0⟩
def R.GATE_SCOPE_MOD : Field := ⟨0x63100, 26, 1, .ro, 0x0⟩
def R.GATE_GATE_SEQ_LO : Field := ⟨0x63104, 0, 32, .ro, 0x0⟩
def R.GATE_GATE_SEQ_HI : Field := ⟨0x63108, 0, 32, .ro, 0x0⟩
def R.GATE_ENTRIES : Field := ⟨0x6310C, 0, 13, .ro, 0x0⟩
def R.GATE_DIGEST (i : Nat) : Field := ⟨0x63110 + 4 * i, 0, 32, .ro, 0x0⟩
def R.GATE_SEAL : Field := ⟨0x63130, 0, 1, .wo, 0x0⟩
def R.GATE_ABANDON : Field := ⟨0x63130, 1, 1, .wo, 0x0⟩
def R.GATE_WINDOW_S : Field := ⟨0x63134, 0, 12, .rwg, 0x12C⟩
def R.GATE_APPR1_OID : Field := ⟨0x6313C, 0, 16, .ro, 0x0⟩
def R.GATE_APPR1_ROLE : Field := ⟨0x6313C, 16, 3, .ro, 0x0⟩
def R.GATE_LAST_REFUSE : Field := ⟨0x63140, 0, 16, .ro, 0x0⟩
def R.GATE_REFUSED_CNT : Field := ⟨0x63140, 16, 16, .ro, 0x0⟩
def R.GATE_EXPIRED_CNT : Field := ⟨0x63144, 0, 16, .ro, 0x0⟩
def R.GATE_VOIDED_CNT : Field := ⟨0x63144, 16, 16, .ro, 0x0⟩
def R.GATE_STAGE_REJECT : Field := ⟨0x63148, 0, 32, .ro, 0x0⟩
def R.GATE_LAST_DONE_SEQ : Field := ⟨0x6314C, 0, 32, .ro, 0x0⟩
def R.GATE_PART_SEL : Field := ⟨0x63150, 0, 10, .rw, 0x0⟩
def R.GATE_PART_CMD : Field := ⟨0x63150, 16, 2, .wo, 0x0⟩
def R.GATE_CMD_BUSY : Field := ⟨0x63154, 2, 1, .ro, 0x0⟩
def R.GATE_CMD_RESULT : Field := ⟨0x63154, 4, 2, .ro, 0x0⟩

/-! Table 10.12. -/
def R.MPU_EPOCH (n : Nat) : Field := ⟨0x50100 + 0x1000 * n, 0, 16, .ro, 0x0⟩
def R.MPU_COMMIT_BUSY (n : Nat) : Field := ⟨0x50100 + 0x1000 * n, 16, 1, .ro, 0x0⟩
def R.MPU_VIOL_RD_CNT (n : Nat) : Field := ⟨0x50104 + 0x1000 * n, 0, 32, .ro, 0x0⟩
def R.MPU_VIOL_WR_CNT (n : Nat) : Field := ⟨0x50108 + 0x1000 * n, 0, 32, .ro, 0x0⟩
def R.MPU_VIOL_X_CNT (n : Nat) : Field := ⟨0x5010C + 0x1000 * n, 0, 32, .ro, 0x0⟩
def R.MPU_LAST_RD_ADDR_LO (n : Nat) : Field := ⟨0x50110 + 0x1000 * n, 0, 32, .ro, 0x0⟩
def R.MPU_LAST_RD_ADDR_HI (n : Nat) : Field := ⟨0x50114 + 0x1000 * n, 0, 8, .ro, 0x0⟩
def R.MPU_LAST_RD_TAG (n : Nat) : Field := ⟨0x50114 + 0x1000 * n, 16, 10, .ro, 0x0⟩
def R.MPU_LAST_WR_ADDR_LO (n : Nat) : Field := ⟨0x50118 + 0x1000 * n, 0, 32, .ro, 0x0⟩
def R.MPU_LAST_WR_ADDR_HI (n : Nat) : Field := ⟨0x5011C + 0x1000 * n, 0, 8, .ro, 0x0⟩
def R.MPU_DRAIN_MAX_NS (n : Nat) : Field := ⟨0x50120 + 0x1000 * n, 0, 16, .ro, 0x0⟩
def R.MPU_BASE_LO (n : Nat) (i : Nat) : Field := ⟨0x50200 + 0x1000 * n + 16 * i, 6, 26, .rwg, 0x0⟩
def R.MPU_BASE_HI (n : Nat) (i : Nat) : Field := ⟨0x50204 + 0x1000 * n + 16 * i, 0, 8, .rwg, 0x0⟩
def R.MPU_EN (n : Nat) (i : Nat) : Field := ⟨0x50204 + 0x1000 * n + 16 * i, 8, 1, .rwg, 0x0⟩
def R.MPU_R (n : Nat) (i : Nat) : Field := ⟨0x50204 + 0x1000 * n + 16 * i, 9, 1, .rwg, 0x0⟩
def R.MPU_W (n : Nat) (i : Nat) : Field := ⟨0x50204 + 0x1000 * n + 16 * i, 10, 1, .rwg, 0x0⟩
def R.MPU_X (n : Nat) (i : Nat) : Field := ⟨0x50204 + 0x1000 * n + 16 * i, 11, 1, .rwg, 0x0⟩
def R.MPU_ANY (n : Nat) (i : Nat) : Field := ⟨0x50204 + 0x1000 * n + 16 * i, 12, 1, .rwg, 0x0⟩
def R.MPU_TAG (n : Nat) (i : Nat) : Field := ⟨0x50204 + 0x1000 * n + 16 * i, 16, 10, .rwg, 0x0⟩
def R.MPU_LIMIT_LO (n : Nat) (i : Nat) : Field := ⟨0x50208 + 0x1000 * n + 16 * i, 6, 26, .rwg, 0x0⟩
def R.MPU_LIMIT_HI (n : Nat) (i : Nat) : Field := ⟨0x5020C + 0x1000 * n + 16 * i, 0, 8, .rwg, 0x0⟩

/-! Table 11.5. -/
def R.OBS_INPUT_SEEN : Field := ⟨0x6110C, 0, 32, .w1c, 0x0⟩
def R.OBS_ACK : Field := ⟨0x61110, 0, 1, .wo, 0x0⟩
def R.OBS_LOG_SEL : Field := ⟨0x61120, 0, 6, .rw, 0x0⟩

/-! Table 12.7. -/
def R.LCS_DBG_OPEN : Field := ⟨0x62100, 17, 1, .ro, 0x0⟩
def R.LCS_DBG_GRANT : Field := ⟨0x62100, 18, 2, .ro, 0x0⟩
def R.LCS_BUSY : Field := ⟨0x62100, 20, 1, .ro, 0x0⟩
def R.LCS_TARGET : Field := ⟨0x62110, 0, 4, .rw, 0x0⟩
def R.LCS_TEST_IDX : Field := ⟨0x62110, 8, 4, .rw, 0x0⟩
def R.LCS_GO : Field := ⟨0x62110, 31, 1, .wo, 0x0⟩
def R.LCS_CMD_RESULT : Field := ⟨0x62114, 0, 3, .ro, 0x0⟩
def R.LCS_TOKEN (i : Nat) : Field := ⟨0x62120 + 4 * i, 0, 32, .wo, 0x0⟩
def R.LCS_CHAL_WINDOW : Field := ⟨0x62140, 0, 12, .rw, 0x258⟩
def R.LCS_DBG_REFUSED : Field := ⟨0x62148, 0, 16, .ro, 0x0⟩
def R.LCS_DBG_LAST_REFUSE : Field := ⟨0x62148, 16, 16, .ro, 0x0⟩

/-! Table 13.8. -/
def R.PWR_CUR_PL : Field := ⟨0x1100, 0, 2, .ro, 0x3⟩
def R.PWR_EFF_PL : Field := ⟨0x1100, 2, 2, .ro, 0x3⟩
def R.PWR_VREQ_PL : Field := ⟨0x1100, 4, 2, .ro, 0x3⟩
def R.PWR_STEP : Field := ⟨0x1100, 6, 3, .ro, 0x0⟩
def R.PWR_PL_FAIL : Field := ⟨0x1100, 9, 1, .w1c, 0x0⟩
def R.PWR_THERM_CAP : Field := ⟨0x1100, 10, 2, .ro, 0x3⟩
def R.PWR_T1_CAP : Field := ⟨0x1100, 12, 1, .ro, 0x0⟩
def R.PWR_PL_TARGET : Field := ⟨0x1104, 0, 2, .rwg, 0x3⟩
def R.PWR_THERM_HI : Field := ⟨0x1104, 8, 8, .rwg, 0x64⟩
def R.PWR_THERM_HYS : Field := ⟨0x1104, 16, 4, .rwg, 0x5⟩
def R.PWR_PL_CAP : Field := ⟨0x1108, 0, 2, .rw, 0x3⟩
def R.PWR_AVS_RAIL : Field := ⟨0x110C, 0, 4, .rwl, 0x0⟩
def R.PWR_LOCK : Field := ⟨0x1110, 0, 1, .w1s, 0x0⟩
def R.PWR_CHANGES : Field := ⟨0x1114, 0, 16, .ro, 0x0⟩
def R.PWR_FAILS : Field := ⟨0x1114, 16, 16, .ro, 0x0⟩
def R.PWR_AVS_LAST : Field := ⟨0x1118, 0, 16, .ro, 0x0⟩
def R.PWR_TJ : Field := ⟨0x111C, 0, 8, .ro, 0x0⟩
def R.PWR_TJ_PEAK : Field := ⟨0x111C, 8, 8, .ro, 0x0⟩
def R.PWR_CHG_LAST_US : Field := ⟨0x1120, 0, 16, .ro, 0x0⟩
def R.PWR_CHG_MAX_US : Field := ⟨0x1120, 16, 16, .ro, 0x0⟩
def R.PWR_SLEEP : Field := ⟨0x1130, 0, 3, .ro, 0x0⟩
def R.PWR_LAST_WAKE : Field := ⟨0x1130, 4, 3, .ro, 0x0⟩
def R.PWR_WAKE_LINK : Field := ⟨0x1130, 8, 3, .ro, 0x0⟩
def R.PWR_FROM_S3 : Field := ⟨0x1130, 11, 1, .ro, 0x0⟩
def R.PWR_S2_CNT : Field := ⟨0x1134, 0, 16, .ro, 0x0⟩
def R.PWR_S3_CNT : Field := ⟨0x1134, 16, 16, .ro, 0x0⟩
def R.PWR_ABORT_CNT : Field := ⟨0x1138, 0, 16, .ro, 0x0⟩
def R.PWR_WAKE_LAST_US : Field := ⟨0x1138, 16, 16, .ro, 0x0⟩
def R.PWR_IDLE_GATE : Field := ⟨0x1140, 0, 10, .rw, 0x40⟩
def R.PWR_CC_OFF : Field := ⟨0x1144, 0, 16, .rw, 0x0⟩
def R.PWR_PK_OFF : Field := ⟨0x1144, 16, 8, .rw, 0x0⟩
def R.PWR_DOMAIN_ON_LO : Field := ⟨0x1148, 0, 32, .ro, 0xFFFFFFFF⟩
def R.PWR_DOMAIN_ON_HI : Field := ⟨0x114C, 0, 18, .ro, 0x3EFFF⟩
def R.PWR_REL_SD : Field := ⟨0x1154, 0, 1, .wo, 0x0⟩
def R.PWR_REL_CARD : Field := ⟨0x1154, 1, 1, .wo, 0x0⟩

/-! Table 14.5. -/
def R.PAIR_ROLE : Field := ⟨0x70100, 0, 2, .ro, 0x0⟩
def R.PAIR_SYNC : Field := ⟨0x70100, 3, 2, .ro, 0x0⟩
def R.PAIR_REPORT_LOST : Field := ⟨0x70100, 9, 1, .ro, 0x0⟩
def R.PAIR_STUCK_CLAIM : Field := ⟨0x70100, 10, 1, .ro, 0x0⟩
def R.PAIR_CLAIM_CONFLICT : Field := ⟨0x70100, 11, 1, .ro, 0x0⟩
def R.PAIR_SEL_CONFLICT : Field := ⟨0x70100, 12, 1, .ro, 0x0⟩
def R.PAIR_PAIR_EN : Field := ⟨0x70104, 0, 1, .rwg, 0x0⟩
def R.PAIR_TAKE_UNSYNCED : Field := ⟨0x70104, 1, 1, .rwg, 0x0⟩
def R.PAIR_HOSTLOSS_EN : Field := ⟨0x70104, 2, 1, .rwg, 0x0⟩
def R.PAIR_MIN_CC : Field := ⟨0x70104, 4, 5, .rwg, 0x1⟩
def R.PAIR_MIN_PK : Field := ⟨0x70104, 9, 4, .rwg, 0x1⟩
def R.PAIR_PARTNER_SN_LO : Field := ⟨0x70108, 0, 32, .rwg, 0x0⟩
def R.PAIR_PARTNER_SN_HI : Field := ⟨0x7010C, 0, 32, .rwg, 0x0⟩
def R.PAIR_RELINQUISH : Field := ⟨0x70110, 0, 1, .wo, 0x0⟩
def R.PAIR_TAKE : Field := ⟨0x70110, 1, 1, .wo, 0x0⟩
def R.PAIR_RESYNC : Field := ⟨0x70110, 2, 1, .wo, 0x0⟩
def R.PAIR_CMD_RESULT : Field := ⟨0x70114, 0, 2, .ro, 0x0⟩
def R.PAIR_DSEQ_LO : Field := ⟨0x70118, 0, 32, .ro, 0x0⟩
def R.PAIR_DSEQ_HI : Field := ⟨0x7011C, 0, 32, .ro, 0x0⟩
def R.PAIR_LAG : Field := ⟨0x70120, 0, 16, .ro, 0x0⟩
def R.PAIR_TAKEOVER_US : Field := ⟨0x70120, 16, 16, .ro, 0x0⟩
def R.PAIR_TAKEOVER_CNT : Field := ⟨0x70124, 0, 16, .ro, 0x0⟩
def R.PAIR_DEMOTE_CNT : Field := ⟨0x70124, 16, 16, .ro, 0x0⟩
def R.PAIR_ST_PERIOD_US : Field := ⟨0x70128, 0, 10, .rw, 0x64⟩
def R.PAIR_ST_FAIL_CNT : Field := ⟨0x70128, 16, 16, .ro, 0x0⟩
def R.PAIR_RESYNC_LEFT : Field := ⟨0x7012C, 0, 29, .ro, 0x0⟩
def R.PAIR_PARTNER_RPT : Field := ⟨0x70130, 0, 32, .ro, 0x0⟩

/-! Table 15.5. -/
def R.FVL_STATE (n : Nat) : Field := ⟨0x71100 + 0x1000 * n, 0, 3, .ro, 0x0⟩
def R.FVL_PEER_READY (n : Nat) : Field := ⟨0x71100 + 0x1000 * n, 3, 1, .ro, 0x0⟩
def R.FVL_WRAPPED (n : Nat) : Field := ⟨0x71100 + 0x1000 * n, 4, 1, .ro, 0x0⟩
def R.FVL_DOWN_CAUSE (n : Nat) : Field := ⟨0x71100 + 0x1000 * n, 5, 3, .ro, 0x0⟩
def R.FVL_PEER_SN_LO (n : Nat) : Field := ⟨0x71104 + 0x1000 * n, 0, 32, .ro, 0x0⟩
def R.FVL_PEER_SN_HI (n : Nat) : Field := ⟨0x71108 + 0x1000 * n, 0, 32, .ro, 0x0⟩
def R.FVL_PEER_MEMBER (n : Nat) : Field := ⟨0x7110C + 0x1000 * n, 0, 12, .ro, 0x0⟩
def R.FVL_FEC_CORR (n : Nat) : Field := ⟨0x71110 + 0x1000 * n, 0, 32, .ro, 0x0⟩
def R.FVL_REPLAYS (n : Nat) : Field := ⟨0x71114 + 0x1000 * n, 0, 32, .ro, 0x0⟩
def R.FVL_TAG_FAIL (n : Nat) : Field := ⟨0x71118 + 0x1000 * n, 0, 16, .ro, 0x0⟩
def R.FVL_RETRAINS (n : Nat) : Field := ⟨0x71118 + 0x1000 * n, 16, 16, .ro, 0x0⟩
def R.FVL_TX_FLITS (n : Nat) : Field := ⟨0x7111C + 0x1000 * n, 0, 32, .ro, 0x0⟩
def R.FVL_RX_FLITS (n : Nat) : Field := ⟨0x71120 + 0x1000 * n, 0, 32, .ro, 0x0⟩
def R.FVL_DELAY (n : Nat) : Field := ⟨0x71124 + 0x1000 * n, 0, 24, .ro, 0x0⟩
def R.FVL_WAKE_SEND (n : Nat) : Field := ⟨0x71128 + 0x1000 * n, 0, 1, .wo, 0x0⟩
def R.FVL_LINK_RETRY (n : Nat) : Field := ⟨0x71128 + 0x1000 * n, 1, 1, .wo, 0x0⟩

/-! Table 15.6. -/
def R.FVL0_ENROLLED : Field := ⟨0x71200, 0, 1, .ro, 0x0⟩
def R.FVL0_GM : Field := ⟨0x71200, 1, 1, .ro, 0x0⟩
def R.FVL0_DT_LOCKED : Field := ⟨0x71200, 2, 1, .ro, 0x0⟩
def R.FVL0_PPS_LOCKED : Field := ⟨0x71200, 3, 1, .ro, 0x0⟩
def R.FVL0_PPS_BAD : Field := ⟨0x71200, 4, 1, .ro, 0x0⟩
def R.FVL0_DT_STALE : Field := ⟨0x71200, 5, 1, .ro, 0x0⟩
def R.FVL0_REPL_GAP : Field := ⟨0x71200, 6, 1, .ro, 0x0⟩
def R.FVL0_MEMBER_NO : Field := ⟨0x71204, 0, 12, .rwg, 0x0⟩
def R.FVL0_DT_ERR_NS : Field := ⟨0x71210, 0, 16, .ro, 0x0⟩
def R.FVL0_DT_DEPTH : Field := ⟨0x71210, 16, 8, .ro, 0x0⟩
def R.FVL0_PPS_OFFSET : Field := ⟨0x71214, 0, 30, .rwg, 0x0⟩
def R.FVL0_JOIN_SN_LO : Field := ⟨0x71218, 0, 32, .rwg, 0x0⟩
def R.FVL0_JOIN_SN_HI : Field := ⟨0x7121C, 0, 32, .rwg, 0x0⟩
def R.FVL0_SPONSOR_SN_LO : Field := ⟨0x71220, 0, 32, .rwg, 0x0⟩
def R.FVL0_SPONSOR_SN_HI : Field := ⟨0x71224, 0, 32, .rwg, 0x0⟩
def R.FVL0_DOMAIN_ID_LO : Field := ⟨0x71228, 0, 32, .ro, 0x0⟩
def R.FVL0_DOMAIN_ID_HI : Field := ⟨0x7122C, 0, 32, .ro, 0x0⟩
def R.FVL0_EPSEL : Field := ⟨0x71230, 0, 10, .rw, 0x0⟩
def R.FVL0_REPL_TX : Field := ⟨0x71244, 0, 32, .ro, 0x0⟩
def R.FVL0_REPL_RX : Field := ⟨0x71248, 0, 32, .ro, 0x0⟩
def R.FVL0_REPL_DISCARD : Field := ⟨0x7124C, 0, 32, .ro, 0x0⟩
def R.FVL0_FWD_OUT : Field := ⟨0x71258, 0, 32, .ro, 0x0⟩
def R.FVL0_FWD_IN : Field := ⟨0x7125C, 0, 32, .ro, 0x0⟩
def R.FVL0_FWD_RERUN : Field := ⟨0x71260, 0, 32, .ro, 0x0⟩

/-! Table 16.9. -/
def R.RST_BOOT_STAGE : Field := ⟨0x3100, 4, 4, .ro, 0x0⟩
def R.RST_FW_SLOT : Field := ⟨0x3100, 8, 1, .ro, 0x0⟩
def R.RST_BOOT_ERR : Field := ⟨0x3100, 9, 2, .ro, 0x0⟩
def R.RST_BLK_READY : Field := ⟨0x3104, 0, 20, .ro, 0x1⟩
def R.RST_BOOT_US : Field := ⟨0x3110, 0, 20, .ro, 0x0⟩
def R.RST_MOD_RESET_GO : Field := ⟨0x3114, 0, 1, .wo, 0x0⟩
def R.RST_MOD_RESET_KEY : Field := ⟨0x3114, 16, 16, .wo, 0x0⟩
def R.RST_CC_RESET : Field := ⟨0x3118, 0, 16, .wo, 0x0⟩
def R.RST_PK_RESET : Field := ⟨0x3118, 16, 8, .wo, 0x0⟩
def R.RST_WDOG_MS : Field := ⟨0x311C, 0, 12, .rwl, 0x3E8⟩
def R.RST_LOCK : Field := ⟨0x3120, 0, 1, .w1s, 0x0⟩
def R.RST_WDOG_KICK : Field := ⟨0x3124, 0, 1, .wo, 0x0⟩

/-! Table 17.3. -/
def R.SCHED_TICK_US : Field := ⟨0x80100, 0, 10, .rw, 0xA⟩
def R.SCHED_HOLD : Field := ⟨0x80104, 0, 8, .rw, 0x0⟩
def R.SCHED_CORE_UP : Field := ⟨0x80104, 16, 8, .ro, 0x0⟩
def R.SCHED_CORE_FW : Field := ⟨0x80104, 24, 8, .ro, 0x0⟩
def R.SCHED_CORE_RESET : Field := ⟨0x80108, 0, 8, .wo, 0x0⟩
def R.SCHED_FW_SEL : Field := ⟨0x80108, 8, 1, .rw, 0x0⟩
def R.SCHED_OP_REFUSED : Field := ⟨0x8010C, 0, 16, .ro, 0x0⟩
def R.SCHED_OP_SLOT : Field := ⟨0x80200, 0, 9, .wo, 0x0⟩
def R.SCHED_OP : Field := ⟨0x80200, 9, 3, .wo, 0x0⟩
def R.SCHED_OP_ARG : Field := ⟨0x80200, 12, 20, .wo, 0x0⟩
def R.SCHED_CFG_PRIO : Field := ⟨0x80204, 0, 5, .rw, 0x0⟩
def R.SCHED_CFG_AFF : Field := ⟨0x80204, 8, 8, .rw, 0xFF⟩
def R.SCHED_CFG_TAG : Field := ⟨0x80204, 16, 10, .rw, 0x0⟩
def R.SCHED_INSP_SLOT : Field := ⟨0x80240, 0, 9, .rw, 0x0⟩
def R.SCHED_APPLET_LOADED : Field := ⟨0x80248, 0, 8, .ro, 0x0⟩

/-! Table 17.4. -/
def R.QTZ_UNIT (i : Nat) : Field := ⟨0x2110 + 4 * i, 0, 4, .rw, i⟩
def R.QTZ_EN (i : Nat) : Field := ⟨0x2110 + 4 * i, 4, 1, .rw, if i < 6 then 1 else 0⟩
def R.QTZ_HT_TB (i : Nat) : Field := ⟨0x2110 + 4 * i, 5, 1, .rw, 0x0⟩
def R.QTZ_LOSER : Field := ⟨0x2150, 0, 4, .ro, 0x0⟩
def R.QTZ_WINNER : Field := ⟨0x2150, 4, 4, .ro, 0x0⟩
def R.QTZ_CMP_LO (i : Nat) : Field := ⟨0x2200 + 16 * i, 0, 32, .rw, 0x0⟩
def R.QTZ_CMP_HI (i : Nat) : Field := ⟨0x2204 + 16 * i, 0, 32, .rw, 0x0⟩
def R.QTZ_PERIOD (i : Nat) : Field := ⟨0x2208 + 16 * i, 0, 32, .rw, 0x0⟩
def R.QTZ_OWNER (i : Nat) : Field := ⟨0x220C + 16 * i, 0, 4, .ro, i⟩
def R.QTZ_HELD (i : Nat) : Field := ⟨0x220C + 16 * i, 4, 1, .ro, if i < 6 then 1 else 0⟩
def R.QTZ_FIRED (i : Nat) : Field := ⟨0x220C + 16 * i, 5, 1, .w1c, 0x0⟩

/-! Table 18.6. -/
def R.CARD_PRESENT (i : Nat) : Field := ⟨0x90100 + 64 * i, 0, 1, .ro, 0x0⟩
def R.CARD_CLASS (i : Nat) : Field := ⟨0x90100 + 64 * i, 1, 2, .ro, 0x0⟩
def R.CARD_PROTO_T1 (i : Nat) : Field := ⟨0x90100 + 64 * i, 3, 1, .ro, 0x0⟩
def R.CARD_CLK_STOPPED (i : Nat) : Field := ⟨0x90100 + 64 * i, 4, 1, .ro, 0x0⟩
def R.CARD_CLK_MHZ (i : Nat) : Field := ⟨0x90100 + 64 * i, 5, 5, .ro, 0x0⟩
def R.CARD_APPROVE_PORT : Field := ⟨0x90180, 0, 1, .rw, 0x0⟩
def R.CARD_APPROVE_GO : Field := ⟨0x90180, 1, 1, .wo, 0x0⟩
def R.CARD_APPROVE_RESULT : Field := ⟨0x90180, 4, 3, .ro, 0x0⟩
def R.CARD_APPROVE_BUSY : Field := ⟨0x90180, 7, 1, .ro, 0x0⟩
def R.CARD_CARD_OID : Field := ⟨0x90184, 0, 16, .ro, 0x0⟩
def R.CARD_CARD_ROLE : Field := ⟨0x90184, 16, 3, .ro, 0x0⟩
def R.CARD_APPROVE_TIMEOUT_S : Field := ⟨0x90188, 0, 8, .rw, 0x3C⟩

/-! Table 18.7. -/
def R.SD_PRESENT : Field := ⟨0x91100, 0, 1, .ro, 0x0⟩
def R.SD_EMMC : Field := ⟨0x91100, 1, 1, .ro, 0x0⟩
def R.SD_MODE : Field := ⟨0x91100, 2, 3, .ro, 0x0⟩
def R.SD_WIDTH : Field := ⟨0x91100, 5, 2, .ro, 0x0⟩
def R.SD_JSTATE : Field := ⟨0x91100, 7, 2, .ro, 0x0⟩
def R.SD_MAXMODE : Field := ⟨0x91104, 0, 3, .rwl, 0x7⟩
def R.SD_JBASE : Field := ⟨0x91108, 0, 32, .rwl, 0x8000⟩
def R.SD_JBLOCKS : Field := ⟨0x9110C, 0, 21, .rwl, 0x4000⟩
def R.SD_LOCK : Field := ⟨0x91110, 0, 1, .w1s, 0x0⟩
def R.SD_ROLLFWD_CNT : Field := ⟨0x9111C, 0, 16, .ro, 0x0⟩
def R.SD_REPLAY_CNT : Field := ⟨0x9111C, 16, 16, .ro, 0x0⟩
def R.SD_TORN_CNT : Field := ⟨0x91120, 0, 16, .ro, 0x0⟩
def R.SD_TUNE_FAIL_CNT : Field := ⟨0x91120, 16, 16, .ro, 0x0⟩

/-! Table 18.8. -/
def R.PAD_PIN (i : Nat) : Field := ⟨0x4100 + 4 * i, 0, 4, .rw, i⟩
def R.PAD_EN (i : Nat) : Field := ⟨0x4100 + 4 * i, 4, 1, .rw, 0x0⟩
def R.PAD_LOSER : Field := ⟨0x4140, 0, 4, .ro, 0x0⟩
def R.PAD_WINNER : Field := ⟨0x4140, 4, 4, .ro, 0x0⟩
def R.PAD_PIN_LEVEL : Field := ⟨0x4144, 0, 16, .ro, 0x0⟩

/-! Table 19.5. -/
def R.AGT_WIN_MS : Field := ⟨0x81100, 0, 16, .rw, 0x3E8⟩
def R.AGT_SEV_INT : Field := ⟨0x81104, 0, 3, .rw, 0x3⟩
def R.AGT_LAT_NOTICE_BIN : Field := ⟨0x81104, 8, 5, .rw, 0x10⟩
def R.AGT_HCLR : Field := ⟨0x81108, 0, 1, .wo, 0x0⟩
def R.AGT_COUNT : Field := ⟨0x8110C, 0, 13, .ro, 0x0⟩
def R.AGT_NEWEST_SLOT : Field := ⟨0x8110C, 16, 12, .ro, 0x0⟩
def R.AGT_DROPPED : Field := ⟨0x81110, 0, 32, .ro, 0x0⟩
def R.AGT_LAST_RNUM : Field := ⟨0x81114, 0, 32, .ro, 0x0⟩
def R.AGT_OPEN_SEV : Field := ⟨0x81118, 0, 3, .ro, 0x0⟩
def R.AGT_REC_SEL : Field := ⟨0x81120, 0, 12, .rw, 0x0⟩
def R.AGT_KIND : Field := ⟨0x81180, 0, 2, .rw, 0x0⟩
def R.AGT_INDEX : Field := ⟨0x81180, 4, 10, .rw, 0x0⟩

/-! Table 21.1. -/
def R.BLK_ENABLE (p : Nat) : Field := ⟨0x1000 * p + 0x8, 0, 1, .rw, 1⟩
def R.BLK_FREEZE (p : Nat) : Field := ⟨0x1000 * p + 0x8, 2, 1, .rw, 0x0⟩
def R.BLK_INT_RAW (p : Nat) : Field := ⟨0x1000 * p + 0x10, 0, 32, .w1c, 0x0⟩
def R.BLK_INT_EN (p : Nat) : Field := ⟨0x1000 * p + 0x14, 0, 32, .rw, 0x0⟩
def R.BLK_SEQ (p : Nat) : Field := ⟨0x1000 * p + 0x2C, 0, 32, .ro, 0x0⟩

/-! The fields of each page, for a register write, a register read and a reset of the page. The common registers of Table 21.1 come first. -/

/-- The common fields of a page that hold a value (Table 21.1). -/
def pageFields_common (p : Nat) : List Field :=
  [R.BLK_ENABLE p, R.BLK_FREEZE p, R.BLK_INT_RAW p, R.BLK_INT_EN p, R.BLK_SEQ p]

def pageFields_gbl : List Field :=
  [R.GBL_PART_CODE, R.GBL_CC_COUNT, R.GBL_PK_COUNT, R.GBL_LANES_PER_CC, R.GBL_ENGINES_PER_PK, R.GBL_FVL_COUNT, R.GBL_HBM_STACKS, R.GBL_CC_INSERVICE] ++
  [R.GBL_PK_INSERVICE, R.GBL_ISLAND_LOCK]

def pageFields_pwr : List Field :=
  [R.PWR_CUR_PL, R.PWR_EFF_PL, R.PWR_VREQ_PL, R.PWR_STEP, R.PWR_PL_FAIL, R.PWR_THERM_CAP, R.PWR_T1_CAP, R.PWR_PL_TARGET] ++
  [R.PWR_THERM_HI, R.PWR_THERM_HYS, R.PWR_PL_CAP, R.PWR_AVS_RAIL, R.PWR_LOCK, R.PWR_CHANGES, R.PWR_FAILS, R.PWR_AVS_LAST] ++
  [R.PWR_TJ, R.PWR_TJ_PEAK, R.PWR_CHG_LAST_US, R.PWR_CHG_MAX_US, R.PWR_SLEEP, R.PWR_LAST_WAKE, R.PWR_WAKE_LINK, R.PWR_FROM_S3] ++
  [R.PWR_S2_CNT, R.PWR_S3_CNT, R.PWR_ABORT_CNT, R.PWR_WAKE_LAST_US, R.PWR_IDLE_GATE, R.PWR_CC_OFF, R.PWR_PK_OFF, R.PWR_DOMAIN_ON_LO] ++
  [R.PWR_DOMAIN_ON_HI]

def pageFields_qtz : List Field :=
  [R.QTZ_LOSER, R.QTZ_WINNER] ++
  (List.range 16).map (fun i => R.QTZ_UNIT i) ++
  (List.range 16).map (fun i => R.QTZ_EN i) ++
  (List.range 16).map (fun i => R.QTZ_HT_TB i) ++
  (List.range 16).map (fun i => R.QTZ_CMP_LO i) ++
  (List.range 16).map (fun i => R.QTZ_CMP_HI i) ++
  (List.range 16).map (fun i => R.QTZ_PERIOD i) ++
  (List.range 16).map (fun i => R.QTZ_OWNER i) ++
  (List.range 16).map (fun i => R.QTZ_HELD i) ++
  (List.range 16).map (fun i => R.QTZ_FIRED i)

def pageFields_rst : List Field :=
  [R.RST_BOOT_STAGE, R.RST_FW_SLOT, R.RST_BOOT_ERR, R.RST_BLK_READY, R.RST_BOOT_US, R.RST_WDOG_MS, R.RST_LOCK]

def pageFields_pad : List Field :=
  [R.PAD_LOSER, R.PAD_WINNER, R.PAD_PIN_LEVEL] ++
  (List.range 13).map (fun i => R.PAD_PIN i) ++
  (List.range 13).map (fun i => R.PAD_EN i)

def pageFields_cc (n : Nat) : List Field :=
  [R.CC_LANE_HOLD n, R.CC_DUMMY_CNT n, R.CC_FAULT_LANE n, R.CC_FAULT_HASH n, R.CC_FAULT_FMT n, R.CC_RESEED_CNT n, R.CC_RESEED_STALL n, R.CC_HASH_BLOCKS n] ++
  [R.CC_LAST_FAULT_UNIT n, R.CC_LAST_FAULT_KAT n, R.CC_LAST_FAULT_CTX n] ++
  (List.range 4).map (fun i => R.CC_LANE_BLOCKS n i)

def pageFields_cc0 : List Field :=
  [R.CC0_DMEAN, R.CC0_SHUF_EN, R.CC0_FAULT_LIMIT, R.CC0_FAULT_WINDOW, R.CC0_FAULT_TOTAL, R.CC0_LOGIC_RAISED]

def pageFields_pk (n : Nat) : List Field :=
  [R.PK_ENG_HOLD n, R.PK_LU_HOLD n, R.PK_LU_OPS n, R.PK_REFUSED_CNT n, R.PK_FAULT_ENG_LO n, R.PK_FAULT_ENG_HI n, R.PK_FAULT_LU n, R.PK_LAST_FAULT_UNIT n] ++
  [R.PK_LAST_FAULT_KAT n, R.PK_ABORT_CNT n, R.PK_ITER_LAST n, R.PK_ITER_MAX n] ++
  (List.range 8).map (fun i => R.PK_ENG_OPS n i)

def pageFields_pk0 : List Field :=
  [R.PK0_CURVE_SEL, R.PK0_STALE_BUSY, R.PK0_STALE_ENTRY]

def pageFields_geo : List Field :=
  [R.GEO_PSEL, R.GEO_REMASK_MS, R.GEO_FENCE_PEAK, R.GEO_FENCE_LAST_NS, R.GEO_FENCE_MAX_NS, R.GEO_FENCE_CNT, R.GEO_SWEEP_EN, R.GEO_SWEEP_RATE] ++
  [R.GEO_SWEEP_LINE, R.GEO_SWEEP_RECLAIM, R.GEO_SWEEP_PASS, R.GEO_LINES_TOTAL]

def pageFields_kcs (n : Nat) : List Field :=
  [R.KCS_HIT n, R.KCS_MISS n, R.KCS_EVICT n, R.KCS_FILL_WAIT n, R.KCS_REMASK_PASS n, R.KCS_INVAL n, R.KCS_FILL_MAX_NS n]

def pageFields_hbm (n : Nat) : List Field :=
  [R.HBM_PHY_READY n, R.HBM_PROT_READY n, R.HBM_WORK_READY n, R.HBM_SELF_REFRESH n, R.HBM_TEMP n, R.HBM_CE_CNT n, R.HBM_UE_CNT n, R.HBM_MAC_FAIL_CNT n] ++
  [R.HBM_XTS_FAULT_CNT n, R.HBM_LAST_ERR_LINE n, R.HBM_LAST_ERR_TYPE n, R.HBM_SCRUB_EN n, R.HBM_SCRUB_RATE n, R.HBM_SCRUB_LINE n, R.HBM_SCRUB_PASS n, R.HBM_ROW_CE_LIMIT n] ++
  [R.HBM_CAND_PC n, R.HBM_CAND_BANK n, R.HBM_CAND_ROW n, R.HBM_PPR_TARGET n, R.HBM_PPR_RATE n, R.HBM_PPR_STATE n, R.HBM_MACC_HIT n, R.HBM_MACC_MISS n]

def pageFields_hbm0 : List Field :=
  [R.HBM0_WPSEL]

def pageFields_arb : List Field :=
  [R.ARB_XPSEL, R.ARB_WIN_LOW, R.ARB_STARVE_FETCH, R.ARB_STARVE_LOW, R.ARB_FREEZE_FETCH, R.ARB_FREEZE_XBAR, R.ARB_FREEZE_HBM0, R.ARB_FREEZE_HBM1] ++
  [R.ARB_CAPT_PLACE, R.ARB_CAPT_UNIT, R.ARB_CAPT_REQ, R.ARB_STARVE_CNT, R.ARB_WSEL_PLACE, R.ARB_WSEL_UNIT, R.ARB_WSEL_REQ] ++
  (List.range 10).map (fun i => R.ARB_HBM_WEIGHT i)

def pageFields_mpu (n : Nat) : List Field :=
  [R.MPU_EPOCH n, R.MPU_COMMIT_BUSY n, R.MPU_VIOL_RD_CNT n, R.MPU_VIOL_WR_CNT n, R.MPU_VIOL_X_CNT n, R.MPU_LAST_RD_ADDR_LO n, R.MPU_LAST_RD_ADDR_HI n, R.MPU_LAST_RD_TAG n] ++
  [R.MPU_LAST_WR_ADDR_LO n, R.MPU_LAST_WR_ADDR_HI n, R.MPU_DRAIN_MAX_NS n] ++
  (List.range 32).map (fun i => R.MPU_BASE_LO n i) ++
  (List.range 32).map (fun i => R.MPU_BASE_HI n i) ++
  (List.range 32).map (fun i => R.MPU_EN n i) ++
  (List.range 32).map (fun i => R.MPU_R n i) ++
  (List.range 32).map (fun i => R.MPU_W n i) ++
  (List.range 32).map (fun i => R.MPU_X n i) ++
  (List.range 32).map (fun i => R.MPU_ANY n i) ++
  (List.range 32).map (fun i => R.MPU_TAG n i) ++
  (List.range 32).map (fun i => R.MPU_LIMIT_LO n i) ++
  (List.range 32).map (fun i => R.MPU_LIMIT_HI n i)

def pageFields_flt : List Field :=
  [R.FLT_READY, R.FLT_RCT_CUTOFF, R.FLT_APT_CUTOFF, R.FLT_RESEED_MS, R.FLT_ENV_RNG_CNT, R.FLT_DISCARD_CNT, R.FLT_FAILED_CNT, R.FLT_NOTREADY_CNT] ++
  [R.FLT_READY_US, R.FLT_LAST_CELL, R.FLT_LAST_TEST, R.FLT_LAST_START, R.FLT_LAST_CORE, R.FLT_LAST_INST] ++
  (List.range 8).map (fun i => R.FLT_RCT_FAIL i) ++
  (List.range 8).map (fun i => R.FLT_APT_FAIL i)

def pageFields_obs : List Field :=
  [R.OBS_INPUT_SEEN, R.OBS_LOG_SEL]

def pageFields_lcs : List Field :=
  [R.LCS_DBG_OPEN, R.LCS_DBG_GRANT, R.LCS_BUSY, R.LCS_TARGET, R.LCS_TEST_IDX, R.LCS_CMD_RESULT, R.LCS_CHAL_WINDOW, R.LCS_DBG_REFUSED] ++
  [R.LCS_DBG_LAST_REFUSE]

def pageFields_gate : List Field :=
  [R.GATE_STATE, R.GATE_CLASS, R.GATE_SCOPE_PART, R.GATE_SCOPE_MOD, R.GATE_GATE_SEQ_LO, R.GATE_GATE_SEQ_HI, R.GATE_ENTRIES, R.GATE_WINDOW_S] ++
  [R.GATE_APPR1_OID, R.GATE_APPR1_ROLE, R.GATE_LAST_REFUSE, R.GATE_REFUSED_CNT, R.GATE_EXPIRED_CNT, R.GATE_VOIDED_CNT, R.GATE_STAGE_REJECT, R.GATE_LAST_DONE_SEQ] ++
  [R.GATE_PART_SEL, R.GATE_CMD_BUSY, R.GATE_CMD_RESULT] ++
  (List.range 8).map (fun i => R.GATE_DIGEST i)

def pageFields_pair : List Field :=
  [R.PAIR_ROLE, R.PAIR_SYNC, R.PAIR_REPORT_LOST, R.PAIR_STUCK_CLAIM, R.PAIR_CLAIM_CONFLICT, R.PAIR_SEL_CONFLICT, R.PAIR_PAIR_EN, R.PAIR_TAKE_UNSYNCED] ++
  [R.PAIR_HOSTLOSS_EN, R.PAIR_MIN_CC, R.PAIR_MIN_PK, R.PAIR_PARTNER_SN_LO, R.PAIR_PARTNER_SN_HI, R.PAIR_CMD_RESULT, R.PAIR_DSEQ_LO, R.PAIR_DSEQ_HI] ++
  [R.PAIR_LAG, R.PAIR_TAKEOVER_US, R.PAIR_TAKEOVER_CNT, R.PAIR_DEMOTE_CNT, R.PAIR_ST_PERIOD_US, R.PAIR_ST_FAIL_CNT, R.PAIR_RESYNC_LEFT, R.PAIR_PARTNER_RPT]

def pageFields_fvl (n : Nat) : List Field :=
  [R.FVL_STATE n, R.FVL_PEER_READY n, R.FVL_WRAPPED n, R.FVL_DOWN_CAUSE n, R.FVL_PEER_SN_LO n, R.FVL_PEER_SN_HI n, R.FVL_PEER_MEMBER n, R.FVL_FEC_CORR n] ++
  [R.FVL_REPLAYS n, R.FVL_TAG_FAIL n, R.FVL_RETRAINS n, R.FVL_TX_FLITS n, R.FVL_RX_FLITS n, R.FVL_DELAY n]

def pageFields_fvl0 : List Field :=
  [R.FVL0_ENROLLED, R.FVL0_GM, R.FVL0_DT_LOCKED, R.FVL0_PPS_LOCKED, R.FVL0_PPS_BAD, R.FVL0_DT_STALE, R.FVL0_REPL_GAP, R.FVL0_MEMBER_NO] ++
  [R.FVL0_DT_ERR_NS, R.FVL0_DT_DEPTH, R.FVL0_PPS_OFFSET, R.FVL0_JOIN_SN_LO, R.FVL0_JOIN_SN_HI, R.FVL0_SPONSOR_SN_LO, R.FVL0_SPONSOR_SN_HI, R.FVL0_DOMAIN_ID_LO] ++
  [R.FVL0_DOMAIN_ID_HI, R.FVL0_EPSEL, R.FVL0_REPL_TX, R.FVL0_REPL_RX, R.FVL0_REPL_DISCARD, R.FVL0_FWD_OUT, R.FVL0_FWD_IN, R.FVL0_FWD_RERUN]

def pageFields_sched : List Field :=
  [R.SCHED_TICK_US, R.SCHED_HOLD, R.SCHED_CORE_UP, R.SCHED_CORE_FW, R.SCHED_FW_SEL, R.SCHED_OP_REFUSED, R.SCHED_CFG_PRIO, R.SCHED_CFG_AFF] ++
  [R.SCHED_CFG_TAG, R.SCHED_INSP_SLOT, R.SCHED_APPLET_LOADED]

def pageFields_agt : List Field :=
  [R.AGT_WIN_MS, R.AGT_SEV_INT, R.AGT_LAT_NOTICE_BIN, R.AGT_COUNT, R.AGT_NEWEST_SLOT, R.AGT_DROPPED, R.AGT_LAST_RNUM, R.AGT_OPEN_SEV] ++
  [R.AGT_REC_SEL, R.AGT_KIND, R.AGT_INDEX]

def pageFields_card : List Field :=
  [R.CARD_APPROVE_PORT, R.CARD_APPROVE_RESULT, R.CARD_APPROVE_BUSY, R.CARD_CARD_OID, R.CARD_CARD_ROLE, R.CARD_APPROVE_TIMEOUT_S] ++
  (List.range 2).map (fun i => R.CARD_PRESENT i) ++
  (List.range 2).map (fun i => R.CARD_CLASS i) ++
  (List.range 2).map (fun i => R.CARD_PROTO_T1 i) ++
  (List.range 2).map (fun i => R.CARD_CLK_STOPPED i) ++
  (List.range 2).map (fun i => R.CARD_CLK_MHZ i)

def pageFields_sd : List Field :=
  [R.SD_PRESENT, R.SD_EMMC, R.SD_MODE, R.SD_WIDTH, R.SD_JSTATE, R.SD_MAXMODE, R.SD_JBASE, R.SD_JBLOCKS] ++
  [R.SD_LOCK, R.SD_ROLLFWD_CNT, R.SD_REPLAY_CNT, R.SD_TORN_CNT, R.SD_TUNE_FAIL_CNT]

def pageFields_hqe : List Field :=
  [R.HQE_PSEL, R.HQE_DISCARD_CNT, R.HQE_P0_LINKUP, R.HQE_P0_GEN, R.HQE_P0_WIDTH, R.HQE_P1_LINKUP, R.HQE_P1_GEN, R.HQE_P1_WIDTH] ++
  [R.HQE_P0_MAXGEN, R.HQE_P0_MAXWIDTH, R.HQE_P1_MAXGEN, R.HQE_P1_MAXWIDTH, R.HQE_LOCK, R.HQE_QSEL]

def pageFields_seq (n : Nat) : List Field :=
  [R.SEQ_ISSUE_CNT n, R.SEQ_RETIRE_CNT n, R.SEQ_DONE_CNT n, R.SEQ_MABORT_CNT n, R.SEQ_FAULT_CNT n, R.SEQ_PC_HIT n, R.SEQ_PC_MISS n, R.SEQ_LAST_PC n] ++
  [R.SEQ_LAST_CLASS n, R.SEQ_LAST_STATUS n, R.SEQ_LAST_CTX n, R.SEQ_LAST_PROGRAM n]

def pageFields_seq0 : List Field :=
  [R.SEQ0_BUDGET, R.SEQ0_PGM_SEL, R.SEQ0_PEN_PART, R.SEQ0_PEN_WORD, R.SEQ0_PIN_OVER, R.SEQ0_STALE_SLOT, R.SEQ0_STALE_BUSY] ++
  (List.range 8).map (fun i => R.SEQ0_PIN_SLOT i) ++
  (List.range 8).map (fun i => R.SEQ0_PIN_VALID i)

/-- The block-specific fields of a page. -/
def Page.fields (p : Page) : List Field :=
  match p.kind with
  | .gbl => pageFields_gbl
  | .pwr => pageFields_pwr
  | .qtz => pageFields_qtz
  | .rst => pageFields_rst
  | .pad => pageFields_pad
  | .cc => pageFields_cc p.inst ++ (if p.inst = 0 then pageFields_cc0 else [])
  | .pk => pageFields_pk p.inst ++ (if p.inst = 0 then pageFields_pk0 else [])
  | .geo => pageFields_geo
  | .kcs => pageFields_kcs p.inst
  | .hbm => pageFields_hbm p.inst ++ (if p.inst = 0 then pageFields_hbm0 else [])
  | .arb => pageFields_arb
  | .mpu => pageFields_mpu p.inst
  | .flt => pageFields_flt
  | .obs => pageFields_obs
  | .lcs => pageFields_lcs
  | .gate => pageFields_gate
  | .pair => pageFields_pair
  | .fvl => pageFields_fvl p.inst ++ (if p.inst = 0 then pageFields_fvl0 else [])
  | .sched => pageFields_sched
  | .agt => pageFields_agt
  | .card => pageFields_card
  | .sd => pageFields_sd
  | .hqe => pageFields_hqe
  | .seq => pageFields_seq p.inst ++ (if p.inst = 0 then pageFields_seq0 else [])

end Sys2Proof.Machine
end

