-- ==== Sys2Proof/Machine/StateTypes.lean ====
section
/-! DEFINITION. The plain data the state is made of, block by block: queue pairs, descriptors, contexts, keys, lanes, arbiters, links and the rest. -/
namespace Sys2Proof.Machine

/-! ## Host queues (chapter "Host ports, partitions and command queues") -/

/-- Queue-pair states (Table 2.3, QSTATE). -/
inductive QState
  | disabled | active | draining | halted | linkLost | frozen
deriving DecidableEq, Repr

/-- The QSTATE coding of Table 2.3. -/
def QState.code : QState → Nat
  | .disabled => 0 | .active => 1 | .draining => 2 | .halted => 3 | .linkLost => 4 | .frozen => 5

/-- Does ENABLE read 1? -/
def QState.enabled : QState → Bool
  | .active | .halted | .linkLost | .frozen => true
  | .disabled | .draining => false

/-- One queue pair: the configuration of Table 2.3 and the ring positions of R36-R40. `fn` is the owning function as it stood at ENABLE; `cqDoor`
the CQ head recorded in BOOT or FROZEN and not served yet (R38); `failed` a descriptor read that failed meanwhile (R39). -/
structure QueuePair where
  sqBase : Nat := 0
  cqBase : Nat := 0
  sqSize : Nat := 0
  cqSize : Nat := 0
  compat : Bool := false
  intEn : Bool := false
  vfSel : Nat := 0
  vector : Nat := 0
  coalCnt : Nat := 0
  coalTime : Nat := 0
  qstate : QState := .disabled
  qerr : Nat := 0
  sqHead : Nat := 0
  sqTail : Nat := 0
  cqHead : Nat := 0
  cqTail : Nat := 0
  phase : Bool := false
  unsignalled : Nat := 0
  coalDue : Option Nat := none
  reading : Nat := 0
  fn : Option Func := none
  cqDoor : Option Nat := none
  failed : Bool := false
deriving DecidableEq, Repr

/-- A command descriptor, version 2 or the version-2 equivalent of a version-1 one (Tables 2.5, 2.6, 2.9). `body` is bytes 32-55. -/
structure Descriptor where
  v1 : Bool := false
  inInline : Bool := false
  outInline : Bool := false
  noInt : Bool := false
  barrier : Bool := false
  program : Nat := 0
  hostTag : Nat := 0
  key0 : Nat := 0xFFFFFFFF
  key1 : Nat := 0xFFFFFFFF
  key2 : Nat := 0xFFFFFFFF
  inLen : Nat := 0
  outLen : Nat := 0
  param : Nat := 0
  body : List Byte := []
  outAddr : Nat := 0
deriving DecidableEq, Repr

/-- A command of a partition's queue pair; `marked` once an abort has matched it (R56); `peer` names the request it serves when it
was forwarded to this module by a peer (R376); `fetched` when its descriptor was received, for commands whose latency Agate samples (R434);
`rerun` once a peer ran nothing of it (R377). -/
structure Cmd where
  rerun : Bool := false
  fetched : Option Nat := none
  part : Nat := 0
  qp : Nat := 0
  desc : Descriptor := {}
  marked : Bool := false
  peer : Option (Nat × Nat) := none
deriving DecidableEq, Repr

/-- What a completion says of how its command ended (Table 2.7). SERVICE_NS runs from `since` to the completion write (R24); where that is none,
it is `serviceNs`. -/
structure Ending where
  status : Nat := 0
  detail : Nat := 0
  resultLen : Nat := 0
  result : List Byte := []
  cluster : Nat := 0x1F
  serviceNs : Nat := 0
  since : Option Nat := none
deriving DecidableEq, Repr

/-- A staged command sent to a peer over forwarding link `link` (R376), with the tag its answer carries. -/
structure FwdCmd where
  cmd : Cmd
  link : Nat
  tag : Nat
deriving DecidableEq, Repr

/-- A completion that waits for the standby's acknowledgement of a delta (R344); `ok` is what is known of how its write will go (R39). -/
structure Held where
  cmd : Cmd
  ending : Ending
  dseq : Nat
  ok : Option Bool := none
deriving DecidableEq, Repr

/-! ## Programs and contexts (chapter "Transaction sequencers and programs") -/

/-- A program resident in a cluster's program cache (R88); `used` is the number of its last dispatch. -/
structure Resident where
  slot : Nat
  commits : Nat
  lines : Nat
  used : Nat := 0
deriving DecidableEq, Repr

/-- The record ancestors of a key, nearest first: the line each one stands at. A record's own line comes first. -/
abbrev Stamp := List Nat

/-- A value and its mask, on separate wires (R128, R206): what is masked is their exclusive or. -/
structure Masked where
  value : List Byte := []
  mask : List Byte := []
deriving DecidableEq, Repr

/-- A loaded key slot of a context: the key, the usage mask and descriptor field of its FETCH (R70, R71, R102; 3 where no FETCH loaded it: DESIGN
CHOICE, log 178), the record line it is (none: ephemeral, R207), its ancestry stamp, and whether a MAKE is still building it. `held` is an ephemeral
key's material as its entries hold it (R206, R207); a record's stands in the slice, and `key` says what the pair of wires stands for. -/
structure KeySlot where
  key : Key := {}
  held : Masked := {}
  mask : Nat := 0
  field : Nat := 3
  line : Option Nat := none
  stamp : Stamp := []
  building : Bool := false
  fenced : Bool := false
deriving DecidableEq, Repr

/-- What a context waits for (R91). -/
inductive Wait
  | none
  | chunk
  | cacheFill
  | keyFill
  | cacheEntry
  | pkx
  | random
  | fence
  | journal
deriving DecidableEq, Repr

/-- The open-stream record of a context (R133). `acc` is the chaining value or counter; `ghash` the GHASH accumulator. `opened` is set once an operation
has run, and `sub` and `mask` then hold what its extra blocks gave (Table 5.7): the subkey block of CMAC, H of GCM or the encrypted tweak of XTS, and
E_K(J0) of GCM. `tail` is the MAC input that waits for the blocks after it. -/
structure Stream where
  slot : Nat := 0
  cipher : Nat := 0
  mode : Nat := 0
  dir : Nat := 0
  ctrw : Nat := 0
  first : List Byte := []
  acc : List Byte := []
  ghash : List Byte := []
  tail : List Byte := []
  aadLen : Nat := 0
  dataLen : Nat := 0
  opened : Bool := false
  sub : List Byte := []
  mask : List Byte := []
  aadClosed : Bool := false
deriving DecidableEq, Repr

/-- What an operation of a context does when its unit has finished and its compared result is released, or a STORE when its turn among the writes of
output has come: register values, output bytes, RESULT bytes. `pc` and `num` are the place of its instruction and its number in the context. -/
structure Effect where
  regs : List (Nat × List Byte) := []
  output : List (Nat × List Byte) := []
  result : List (Nat × List Byte) := []
  authFail : Bool := false
  pc : Nat := 0
  num : Nat := 0
deriving DecidableEq, Repr

/-- A lane operation word (Table 5.2). -/
structure LaneWord where
  cipher : Nat
  mode : Nat
  dir : Nat
  final : Bool
  pad : Nat
  taglen : Nat
  ctrw : Nat
deriving DecidableEq, Repr

/-- What a lane operation computes: one block of the block form, or at most sixteen blocks of a stream whose record is `record` when they begin.
`expected` is D before the instruction, `dest` the register D, `off` the place of the first output byte and `last` marks the operation that ends
its instruction. -/
structure LaneJob where
  word : LaneWord
  block : Bool := false
  aad : Bool := false
  noOut : Bool := false
  record : Stream := {}
  bytes : List Byte := []
  expected : List Byte := []
  dest : Nat := 0
  off : Nat := 0
  last : Bool := true
deriving DecidableEq, Repr

/-- A hash operation word (R152). -/
structure HashWord where
  func : Nat
  outLen : Nat
  custLen : Nat
deriving DecidableEq, Repr

/-- What a hash operation computes: its function over a message, with a customisation string, to `dest` and the registers after it. -/
structure HashJob where
  word : HashWord
  cust : List Byte := []
  bytes : List Byte := []
  dest : Nat := 0
deriving DecidableEq, Repr

/-- The work of a unit's operation. -/
inductive Job
  | lane (j : LaneJob)
  | hash (j : HashJob)
deriving DecidableEq, Repr

/-- A lane or hash operation in a unit: the context it serves (none once the command ended, R149), the PC and the number of its instruction, its key as it
arrives with the slot it came from, what it computes and in how many blocks. `chained` marks an operation of a stream that stays on one lane, and
`place` is its place among the context's stream operations that release in order (R93). -/
structure UnitOp where
  owner : Option Nat := none
  pc : Nat := 0
  num : Nat := 0
  slot : Nat := 0
  key : Masked := {}
  job : Job
  blocks : Nat := 0
  chained : Bool := false
  place : Option Nat := none
deriving DecidableEq, Repr

/-- A stream instruction that has issued and whose operations have not all reached a lane (R93): its word and flags, its key slot, the input bytes
left, its register D with the value it held, its PC and number, and the stream record its next operation begins with. -/
structure StreamRun where
  word : LaneWord
  aad : Bool := false
  noOut : Bool := false
  slot : Nat := 0
  key : Masked := {}
  left : Nat := 0
  dest : Nat := 0
  expected : List Byte := []
  pc : Nat := 0
  num : Nat := 0
  record : Stream := {}
deriving DecidableEq, Repr

/-- A context of a sequencer (Table 3.1): the command it serves (none while it is free), its image and the table versions as they stood
at its dispatch (R90, R108), the number of its dispatch (R91), what it waits for and since when, the stream instruction under way with the lane its
chained stream stays on (R93), how many stream operations it has issued and how many have released, with the results that finished before an earlier
one and the STOREs that wait for one (R65), for each V register the number of the last instruction that writes it (R91), the input received and the part of it an instruction has taken before all of it was there, whether it has written to its output area (R99), and
the last delta its writes produced (R344). `filled` tells a FETCH whose miss was just filled from a hit; `sigs`
holds the signatures of an ATTEST that have returned (R216). -/
structure Context where
  cmd : Option Cmd := none
  v : List (List Byte) := List.replicate 16 (zeros 16)
  sreg : List Word := List.replicate 8 0
  keys : List (Option KeySlot) := List.replicate 4 none
  z : Bool := false
  lt : Bool := false
  fe : Bool := false
  pc : Nat := 0
  input : List Byte := []
  ip : Nat := 0
  op : Nat := 0
  result : List Byte := zeros 16
  retired : Nat := 0
  image : Image := {}
  imageCommits : Nat := 0
  fmtCommits : Nat := 0
  derCommits : Nat := 0
  stream : Option Stream := none
  wait : Wait := .none
  run : Option StreamRun := none
  home : Option Nat := none
  issued : Nat := 0
  released : Nat := 0
  finished : List (Nat × Effect) := []
  writes : Sparse Nat := []
  gathered : List Byte := []
  wrote : Bool := false
  order : Nat := 0
  started : Nat := 0
  delta : Option Nat := none
  since : Nat := 0
  filled : Bool := false
  sigs : List (Nat × List Byte) := []
deriving DecidableEq, Repr

/-! ## Cipher lanes and hash units (chapter "Cipher lanes and hash units") -/

/-- The service and known-answer-test state of a unit: in service, its last test passed, test requested, test running, last test failed. -/
structure Service where
  inService : Bool := false
  passed : Bool := false
  katWanted : Bool := false
  katBusy : Bool := false
  katFail : Bool := false
deriving DecidableEq, Repr

/-- A cipher lane: its service state, the operation in execution and the one waiting (R92), each with its round-key buffer (R126, R128), blocks since
the last reseed of its lane generator and its seed, since when the lane has been busy and the busy time before that (R138), and for each block of the
executing operation that had begun when SCA_CTRL last changed, where its draws begin, its mean and whether it shuffles (R139). -/
structure Lane where
  svc : Service := {}
  exec : Option UnitOp := none
  wait : Option UnitOp := none
  bufExec : Option Masked := none
  bufWait : Option Masked := none
  sinceReseed : Nat := 0
  seeded : Bool := false
  stalled : Bool := false
  seed : List Byte := []
  busyFrom : Option Nat := none
  busyNs : Nat := 0
  begun : List (Nat × Nat × Bool) := []
deriving DecidableEq, Repr

/-- The hash unit and the format unit of a cluster: the hash queue in issue order, the first executing (R153). -/
structure HashUnit where
  svc : Service := {}
  queue : List UnitOp := []
deriving DecidableEq, Repr

/-! ## Public-key clusters (chapter "Basalt public-key engines") -/

/-- A PKX operation word (Table 6.2), its DYN bits taken in. -/
structure PkWord where
  oper : Nat
  sel : Nat := 0
  pform : Bool := false
  extpub : Bool := false
deriving DecidableEq, Repr

/-- A number under an arithmetic blinding (R170): `bytes` long, its value plus its mask modulo 256 to that power beside the mask. -/
structure Share where
  bytes : Nat
  value : Nat
  mask : Nat
deriving DecidableEq, Repr

/-- A hand-off: the context that waits for it (none once its command ended, R182), the operation, the attributes of its stored key, the key's material as
value and mask while it is in a queue and as blinded components once in operand RAM (R170), its source and random bytes, the curve entry as it stood at the hand-off with the number of curve commits made by then (R180), and which signature of an
ATTEST it is (0: a PKX, 1: ECDSA P-384, 2: ML-DSA-65); `part` is its partition, and `starved` since when it waits in its unit for further random
bytes (R161, R166). -/
structure PkOp where
  owner : Option Nat := none
  part : Nat := 0
  word : PkWord
  key : Option Key := none
  wires : Masked := {}
  ram : List Share := []
  source : List Byte := []
  rand : List Byte := []
  entry : List Byte := []
  crvCommits : Nat := 0
  attest : Nat := 0
  starved : Option Nat := none
deriving DecidableEq, Repr

/-- A Basalt engine or lattice unit: its service state and the operations it executes: two of class E1 on an engine, one otherwise. -/
structure PkUnit where
  svc : Service := {}
  ops : List PkOp := []
deriving DecidableEq, Repr

/-! ## Geode key store (chapter "Geode key store") -/

/-- A resident record of a key-cache slice (R206): its line, its GEN, the entries it takes, its attributes, its material masked, its ancestry stamp (the
line of its nearest record ancestor and that ancestor's GEN), and whether a fence marks it. -/
structure CacheEntry where
  line : Nat
  gen : Nat
  entries : Nat
  key : Key := {}
  material : Masked := {}
  stamp : Option (Nat × Nat) := none
  fenced : Bool := false
deriving DecidableEq, Repr

/-- A destruction fence (R211): the fenced line, the context whose DESTROY raised it while its command runs, and when; `gen` is
the GEN of a replicated tombstone that raised it (R366). -/
structure Fence where
  line : Nat
  ctx : Option Nat
  raised : Nat
  late : Bool := false
  gen : Option Nat := none
deriving DecidableEq, Repr

/-! ## Flint (chapter "Flint random numbers") -/

/-- A noise cell: counted healthy, in trim or a start-up or restart test, turned off; whether its first start-up test is still to come,
the restart tests it has failed in a row, and when its trim and test end. Its debiased bits are numbered as they come: `window` is the number of the
window they stand in, and `next` to `limit - 1` are those released and not taken (R223). -/
structure Cell where
  ok : Bool := false
  start : Bool := false
  off : Bool := false
  fresh : Bool := true
  restarts : Nat := 0
  due : Nat := 0
  window : Nat := 0
  next : Nat := 0
  limit : Nat := 0
deriving DecidableEq, Repr

/-- The internal state of a CTR_DRBG: Key and V (R224). -/
structure DrbgState where
  key : List Byte := zeros 32
  v : List Byte := zeros 16
deriving DecidableEq, Repr

/-- A DRBG instance: instantiated, its known-answer tests passed or failed, the cells its seed took bits from, a reseed being collected,
the generate requests since its seed, the time of its next reseed, and its internal state. -/
structure Drbg where
  ready : Bool := false
  katOk : Bool := false
  katFail : Bool := false
  cells : Nat := 0
  reseeding : Bool := false
  requests : Nat := 0
  nextReseed : Nat := 0
  core : DrbgState := {}
deriving DecidableEq, Repr

/-! ## Obsidian (chapter "Obsidian tamper and environment monitors") -/

/-- A monitor input: its samples, newest first (the last sixteen), and whether it is asserted (R285). -/
structure Monitor where
  samples : List Bool := []
  asserted : Bool := false
deriving DecidableEq, Repr

/-! ## Credit arbiters (chapter "HBM, inline protection and the credit arbiters") -/

/-- A requester that waits at an arbiter: since when, and whether its wait has raised STARVE. -/
structure Waiting where
  req : Nat
  since : Nat
  starved : Bool := false
deriving DecidableEq, Repr

/-- One credit arbiter (R251): the requester whose transfer is in progress, whether the transfer has been used, the units it was granted, the credits,
who waits, the longest wait of each requester, the requester granted last, and when the next window boundary is due. -/
structure Arbiter where
  owner : Option Nat := none
  spent : Bool := false
  burst : Nat := 0
  credits : Sparse Int := []
  waiting : List Waiting := []
  waitMax : Sparse Nat := []
  last : Option Nat := none
  nextWin : Nat := 0
deriving DecidableEq, Repr

/-! ## Custodian gate (chapter "Partitions, access checks and two-person commit") -/

/-- An approval whose signature is being verified for program 0x014 (R275): the context it runs in, the message, the key and the signature. -/
structure Approval where
  ctx : Nat
  msg : List Byte
  key : List Byte
  sig : List Byte
deriving DecidableEq, Repr

/-! ## Control cores and scheduling (chapter "Control cores and hardware scheduling") -/

/-- Thread states (R404). -/
inductive TState
  | free | ready | running | delayed | blocked
deriving DecidableEq, Repr

/-- The INSP_STATE coding of Table 17.3. -/
def TState.code : TState → Nat
  | .free => 0 | .ready => 1 | .running => 2 | .delayed => 3 | .blocked => 4

/-- A thread slot (R404): state, priority, affinity, tag, core of last run, the core whose ready lists
it was last put on (R405), wake tick, since when READY, and the applet it belongs to. -/
structure Thread where
  st : TState := .free
  prio : Nat := 0
  aff : Nat := 0
  tag : Nat := 0
  core : Nat := 0
  list : Nat := 0
  wake : Nat := 0
  readyAt : Nat := 0
  applet : Option Nat := none
deriving DecidableEq, Repr

/-- The scheduler's view of a running applet (R401): tag, PRIO_MIN, AFFINITY. -/
structure Applet where
  tag : Nat
  prioMin : Nat
  affinity : Nat
deriving DecidableEq, Repr

/-! ## Agate (chapter "Agate event recorder") -/

/-- A histogram set (R434): its bins, extremes and sample count; a set without samples has extremes 0. -/
structure Hist where
  bins : Sparse Nat := []
  lo : Int := 0
  hi : Int := 0
  count : Nat := 0
deriving DecidableEq, Repr

/-! ## Sleep (chapter "Power, performance levels and sleep") -/

/-- Where the module stands in its sleep states (R329-R332): S0 or S1, entry begun and not past the point of no return, asleep, or waking. -/
inductive SleepPhase
  | awake | entering | asleep | waking
deriving DecidableEq, Repr

/-! ## Flaiviran links (chapter "Flaiviran links and the key domain") -/

/-- A link's session (R356-R358): the keys and salts of its two directions and their flit counters, the last 64 flits sent, when a valid flit last arrived and one was last sent,
the tag failures of the last millisecond, the refusals of the last ten seconds, and the staging capacity the peer advertises (R376); of each VC the payload of
the message that is arriving, and the last message that arrived whole; the ephemeral scalar and the nonce this end drew for the handshake (R358). -/
structure Link where
  txKey : List Byte := []
  rxKey : List Byte := []
  txSalt : List Byte := []
  rxSalt : List Byte := []
  replay : List (List Byte) := []
  txCount : Nat := 0
  rxCount : Nat := 0
  lastFlit : Nat := 0
  lastSent : Nat := 0
  tagFails : List Nat := []
  refusals : List Nat := []
  capacity : Nat := 0
  parts : Sparse (List Byte) := []
  messages : Sparse (List Byte) := []
  ephemeral : List Byte := []
  nonce : List Byte := []
deriving DecidableEq, Repr

/-! ## Card ports and the journal (chapter "Custodian card ports and SD host") -/

/-- Where an approval by card stands (R420): none, waiting for the answer to reset, for that to the PPS request, for SELECT, for GET INFO, for the keypad, for VERIFY, for SIGN. -/
inductive CardStep
  | idle | reset | pps | select | info | keypad | verify | sign
deriving DecidableEq, Repr

/-- A journal append in dispatch order (R426): the context of program 0x01F that waits for it (none: the firmware's own, or a command that has
ended), the record's TYPE and its payload. -/
structure Append where
  owner : Option Nat := none
  type : Nat
  payload : List Byte
deriving DecidableEq, Repr

end Sys2Proof.Machine
end

