-- ==== Sys2Proof/Machine/State.lean ====
section
/-! DEFINITION. The state of the module: every register, buffer, queue, counter, mode and pin of the spec as plain data, the queue of waiting commands, and the state right after reset. -/
namespace Sys2Proof.Machine

/-- Operating modes (Table 2.13, MODE). -/
inductive Mode
  | boot | bare | service | maintenance | shadow | responded
deriving DecidableEq, Repr

/-- The MODE coding of Table 2.13. -/
def Mode.code : Mode → Nat
  | .boot => 0 | .bare => 1 | .service => 2 | .maintenance => 3 | .shadow => 4 | .responded => 5

/-- What the module sends to the world outside, in the order it sends it. -/
inductive Output
  /-- A completion entry written at a host address by a function (R40, R45). -/
  | completion (fn : Func) (addr : Nat) (entry : List Byte)
  /-- A posted write of a command's output bytes (R65, R42). -/
  | hostWrite (fn : Func) (addr : Nat) (data : List Byte)
  /-- A write of zeros over a command's output area (R47, R99). -/
  | hostZero (fn : Func) (addr : Nat) (bytes : Nat)
  /-- The answer to a command a peer forwarded: its link, its tag and how it ended (R376, R377). -/
  | peerAnswer (link tag : Nat) (ending : Ending)
  /-- A delta sent to the standby (R343): its link, its DSEQ and what it carries, a key-table line or a committed change. -/
  | delta (link dseq : Nat) (what : Delta)
  /-- A replication message of a scope 1 record's line on a tree link, under the member's origin sequence (R366). -/
  | replication (link seq : Nat) (key : Nat) (l : KeyLine)
  /-- Output bytes of a command a peer forwarded: its link, its tag, the offset in the output area (R376). -/
  | peerOutput (link tag off : Nat) (data : List Byte)
  /-- A descriptor read burst (R39, R50). -/
  | descriptorRead (fn : Func) (addr : Nat) (bytes : Nat)
  /-- A flit, sent or sent again: its link and its 256 bytes (Table 15.2). A message leaves as its flits and, after them, as what it says. -/
  | flit (link : Nat) (bytes : List Byte)
  /-- The wake ordered set (R378): the pattern that is sent and how often. -/
  | wakePattern (link pattern times : Nat)
  /-- A replication message passed on along the time tree (R366). -/
  | forwardRepl (link origin seq key : Nat) (l : KeyLine)
  /-- An epoch schedule or its cancellation broadcast along the time tree, and the acknowledgement of one, on one of its links (R371, R372). -/
  | schedule (link part seq epoch ts tov : Nat)
  | cancel (link part seq : Nat)
  | scheduleAck (link part seq : Nat) (late : Bool)
  /-- The highest sequences held of each origin and of each partition's schedules, told to a neighbour as the tree re-forms (R368, R372). -/
  | holds (link : Nat) (origins schedules : List (Nat × Nat))
  /-- A joiner's request, and what its sponsor sends (R361): the secret, DOMAIN_ID, domain time, and each partition's open epoch, schedule sequence and pending
  schedule. -/
  | joinRequest (link : Nat) (parts : List Nat)
  | sponsor (link : Nat) (secret : List Byte) (id time : Nat) (epochs : List (Nat × Nat × Nat × Option (Nat × Nat)))
  /-- A request for the full catch-up, a scope 1 record of one, and its end (R361, R368). -/
  | catchupRequest (link : Nat) (parts : List Nat)
  | catchupRecord (link key : Nat) (l : KeyLine)
  | catchupDone (link : Nat)
  /-- A command sent to a peer: its link, tag, partition, descriptor and input (R376). -/
  | forward (link tag part : Nat) (desc : Descriptor) (input : List Byte)
  /-- A host abort passed on to the peer that serves a command (R377). -/
  | forwardAbort (link tag : Nat)
  /-- A health report on the link that carries the pair's traffic (Table 14.2). -/
  | healthReport (link : Nat) (report : List Byte)
  /-- The handover message of a relinquishing active (R347). -/
  | handover (link : Nat)
  /-- A standby's request for a resynchronisation, and its acknowledgement of the deltas up to a DSEQ (R344, R348). -/
  | resyncRequest (link : Nat)
  | deltaAck (link dseq : Nat)
  /-- This end's part of a handshake (R358): its ephemeral P-384 public key, its ML-KEM-768 encapsulation, its serial, its MEMBER_NO and its nonce. -/
  | hello (link : Nat) (point encaps : List Byte) (serial member : Nat) (nonce : List Byte)
  /-- What this end proves in a handshake: its two signatures of the transcript, and the CMAC under the domain master secret where the link asks for one. -/
  | proof (link : Nat) (ecdsa mldsa mac : List Byte)
  /-- An AVSBus write that requests the voltage of a level from the rail of AVS_RAIL (R322). -/
  | avsRequest (rail level : Nat)
  /-- A PPS request for a Fi/Di pair and a clock in MHz (R416). -/
  | cardPps (port fidi mhz : Nat)
  /-- A command to a card (Table 18.1): its port, its header and its data. -/
  | cardCommand (port : Nat) (header data : List Byte)
  /-- A journal record written to the medium (R426, R428): the block or frame it goes to. -/
  | journalWrite (block : Nat) (record : List Byte)
  | rpmbKey (key : List Byte)
  /-- An SMBus answer: the status byte of a Receive Byte, or a NACK (R390). -/
  | smbusByte (status : Nat)
  | smbusNack
  /-- The device identification a TAP that selects IDCODE shifts out (R459). -/
  | idcode (value : Nat)
  /-- A scheduler's preemption interrupt to a core (R405). -/
  | preempt (core : Nat)
  /-- What a core's NEXT read returns: a slot, or none (R406). -/
  | next (core : Nat) (slot : Option Nat)
  /-- What a read that latches a high half returns (R409): the low half's address and value. -/
  | latched (addr value : Nat)
  /-- Bytes of a bus master's read: each piece's, zeros where it is denied, none where its target returns an integrity error (R244, R268). -/
  | busRead (mpu addr : Nat) (pieces : List (Option (List Byte)))
  /-- An MSI-X message (R58). -/
  | msix (fn : Func) (vector : Nat)
deriving DecidableEq, Repr

/-- The host queue engine: queue pairs by partition and number, the staging buffer oldest first (R50), and the functions' MSI-X tables
with their pending bits (R58); the commands sent to peers (R376) and the completions that wait for the standby (R344). Of the configuration
spaces: each function's MSI-X message control, its Device Control and its AER uncorrectable error status, and the ports whose VF Enable is set
(Tables 0.4, 2.1). -/
structure Hqe where
  qps : Sparse QueuePair := []
  staged : List Cmd := []
  fwdOut : List FwdCmd := []
  held : List Held := []
  msix : Sparse Nat := []
  msixPend : List (Nat × Nat) := []
  msixCtl : Sparse Nat := []
  devCtl : Sparse Nat := []
  aer : Sparse Nat := []
  vfOn : List (Fin 2) := []
deriving DecidableEq, Repr

/-- The sequencers: contexts by cluster and number, the program table, the program caches in order of last dispatch, the number of
dispatches made, the slots whose replacement waits for contexts of the old image (R90), and the format
and derivation tables with the entries a pending commit replaced (R82, R88, R106, R108). -/
structure Seqs where
  ctxs : Sparse Context := []
  progs : Sparse ProgSlot := []
  cache : Sparse (List Resident) := []
  dispatched : Nat := 0
  stale : List Nat := []
  fmtTab : Sparse (List Byte) := []
  derTab : Sparse (List Byte) := []
  fmtCommits : Nat := 0
  derCommits : Nat := 0
  fmtPrev : Sparse (Option (List Byte)) := []
  derPrev : Sparse (Option (List Byte)) := []
deriving DecidableEq, Repr

/-- The cipher clusters' units: lanes, hash units, format units, the operations of each cluster that wait for a lane's waiting position (R147), the
times of the mismatches of the longest fault window (R148), the unit of each cluster that left service last (R147), and how many draws the lane
generators have made (R135). -/
structure Ciphers where
  lanes : Sparse Lane := []
  hash : Sparse HashUnit := []
  fmt : Sparse Service := []
  moved : Sparse (List UnitOp) := []
  faults : List Nat := []
  lastOut : Sparse Nat := []
  rounds : Nat := 0
deriving DecidableEq, Repr

/-- The key store: the key table's lines, the key-cache slices with the least recently used record first, the active fences, the
mask draws made so far, and whether the table engine has restored the module table (R218). -/
structure Geode where
  lines : Sparse KeyLine := []
  slices : Sparse (List CacheEntry) := []
  fences : List Fence := []
  masks : Nat := 0
  maskSeeds : Sparse (List Byte) := []
  maskTimes : Sparse Nat := []
  swept : Nat := 0
  ready : Bool := false
deriving DecidableEq, Repr

/-- The public-key clusters: engines and lattice units (nine to a cluster, the lattice unit last), their queues (an engine and a lattice
queue to a cluster, oldest first), the DETAIL of the unit that left service last (R183); the curve table's integrator entries (R177), the
check that last refused or emptied each entry, the number of commits made to the table, and the entries whose earlier version is still held, with the
number of their commit (R180). -/
structure Pks where
  units : Sparse PkUnit := []
  queues : Sparse (List PkOp) := []
  lastOut : Option Nat := none
  lastCheck : Sparse Nat := []
  curves : Sparse (List Byte) := []
  crvCommits : Nat := 0
  stale : List (Nat × Nat) := []
deriving DecidableEq, Repr

/-- Flint: each cluster's random queue, the noise cells, the DRBG instances; the seed being collected with the instance it is for, the cells its bits came
from and the cell whose turn it is (R224); the times of the health failures of the last second, and when core power became good (R221-R236). -/
structure Flint where
  queues : Sparse (List Byte) := []
  seed : List Bool := []
  seedFor : Option Nat := none
  seedFrom : Nat := 0
  turn : Nat := 0
  cells : Sparse Cell := []
  drbgs : Sparse Drbg := []
  failures : List Nat := []
  powered : Nat := 0
  everReady : Bool := false
deriving DecidableEq, Repr

/-- The sentinel die (R282-R304). `conds` are the event conditions raised since the input's last sample; `resp`, `filtN` and `filtM` the
committed response table and filters where they differ from Table 11.1; `log` the tamper log by index. The backup sources are present at
2.5 V or above; `source` is the last one in use. `pendT1` and `pendT2` are responses pending since VIGIL, `didT1` and `didT2` those acted on at this
power-up (R299). `wires` holds the MMK as value and mask (R284), and `mmk` says what they stand for; `patterns` counts the mesh patterns the keystream has given
(R286). `osc` is Obsidian's own time in units of 50 ps. -/
structure Obsidian where
  latch : Nat := 0
  pendT1 : Bool := false
  pendT2 : Bool := false
  mmk : Option (List Byte) := none
  wires : Masked := {}
  rwgen : Nat := 0
  monitors : Sparse Monitor := []
  conds : Nat := 0
  resp : Sparse Nat := []
  filtN : Sparse Nat := []
  filtM : Sparse Nat := []
  tempA : Nat := 0
  tempB : Nat := 0
  log : Sparse (List Byte) := []
  logSeq : Nat := 0
  logNewest : Nat := 0
  logDropped : Nat := 0
  alarms : Nat := 0
  onMain : Bool := true
  aux : Bool := false
  vbat : Bool := false
  cell : Bool := false
  cellLow : Bool := false
  source : Nat := 0
  didT1 : Bool := false
  didT2 : Bool := false
  journal : Nat := 0
  seed : List Byte := []
  seedTime : Nat := 0
  seeded : Bool := false
  masks : Nat := 0
  maskTime : Nat := 0
  patterns : Nat := 0
  osc : Nat := 0
deriving DecidableEq, Repr

/-- The power controller (R321-R334): the sleep phase and whether it is S3; the level change in progress (its target, the level it left,
when it began and when its last AVSBus write went out, whether an abandoned lowering must relock, whether that relock runs); the target that
failed; how long TJ has been hot (with the falls since) or cool, and the next sample; the clock-gated islands, when something last crossed into each
island or worked in it (R327), and the writes that wait for an island's lock (R19); held pads; the wake's start. -/
structure Power where
  phase : SleepPhase := .awake
  s3 : Bool := false
  target : Nat := 3
  old : Nat := 3
  began : Nat := 0
  sent : Nat := 0
  undoRelock : Bool := false
  relocking : Bool := false
  failed : Option Nat := none
  hot : Option (Nat × Nat) := none
  cool : Option Nat := none
  nextSample : Nat := 0
  gated : List Nat := []
  activeAt : Sparse Nat := []
  crossings : List Instr := []
  heldSd : Bool := false
  heldCard : Bool := false
  wokeAt : Nat := 0
deriving DecidableEq, Repr

/-- The pair (R336-R348): the interlock levels, HEALTH_OUT as sleep keeps it; the claim in progress (when it was asserted, whether mark A waits after the tie,
whether the partner's claim has been found stuck, whether it is a takeover and since when that runs, and whether that is a handover); since when a second claim
or the takeover conditions stand, and whether the second claim has been reported; a handover in progress; health held low after one or after a conflict;
since when both ports are down; the deltas sent and not acknowledged with their times; the deltas between which a resynchronisation's lines stand; reports and
self-tests. -/
structure Pair where
  claimOut : Bool := false
  claimIn : Bool := false
  healthIn : Bool := false
  kept : Option Bool := none
  claimAt : Nat := 0
  waiting : Bool := false
  stuck : Bool := false
  handed : Bool := false
  taking : Option Nat := none
  conflictAt : Option Nat := none
  told : Bool := false
  takeAt : Option Nat := none
  heldSync : Bool := false
  relinquishing : Bool := false
  healthLow : Bool := false
  hostDown : Option Nat := none
  hostLost : Bool := false
  unacked : List (Nat × Nat) := []
  resyncFrom : Nat := 0
  resyncTo : Nat := 0
  nextReport : Nat := 0
  lastReport : Nat := 0
  partner : List Byte := []
  nextTest : Nat := 0
  testUnit : Nat := 0
  lastTest : Nat := 0
deriving DecidableEq, Repr

/-- The life cycle (R305-R319): the fused state word (Table 12.3), the TEST_OPEN flag, the burned test tokens, the target of a transition in
progress, the debug nonce with its end, the accepted GRANT whose zeroisation is awaited, and the generation of the device attestation keys. -/
structure LifeCycle where
  word : Nat := 0
  testOpen : Bool := false
  burned : Nat := 0
  target : Option Nat := none
  nonce : List Byte := []
  nonceDue : Nat := 0
  opening : Option Nat := none
  devKeys : Nat := 0
deriving DecidableEq, Repr

/-- The key domain: domain time less Quartz time, and the replication messages this member originated, oldest first (R366, R368); the domain
master secret with the RWGEN it is wrapped under and DOMAIN_ID (R360); the highest sequence seen of each origin; a catch-up in progress (R361), and whether the records were lost with HBM (R368); the
PPS edges missed in a row (R364); the last discipline, the link to the parent of the time tree, and when the path to the grandmaster was lost (R363, R365); the
next tag of a forwarded command. -/
structure Domain where
  offset : Int := 0
  originSeq : Nat := 0
  originated : List (Nat × Nat × KeyLine) := []
  secret : List Byte := []
  wrapGen : Nat := 0
  id : Nat := 0
  seen : Sparse Nat := []
  catchup : Bool := false
  lost : Bool := false
  ppsMissed : Nat := 0
  disciplined : Nat := 0
  parent : Option Nat := none
  lostAt : Option Nat := none
  nextTag : Nat := 0
deriving DecidableEq, Repr

/-- Start-up and reset (R381-R398): PERST_N asserted, VDD_CORE below its range, VIGIL; a T2 response in force, in the reset it caused and the boot that follows (R297); when PERST_N was released, and whether a tamper latch was found then (R391); the two firmware slots (what each
authenticates as: a version, or none) and the version of the image in use; the watchdog's deadline; what the always-on block keeps; whether the trim and
identity region is there (Table 1.2); the image a firmware transfer has reached; an EXTEST hold and the TAP instruction. -/
structure Boot where
  perst : Bool := true
  vddLow : Bool := false
  vigil : Bool := false
  t2 : Bool := false
  released : Nat := 0
  latched : Bool := false
  slotA : Option Nat := some 0
  slotB : Option Nat := none
  fwVersion : Nat := 0
  wdogDue : Option Nat := none
  cause : Nat := 1
  resetCnt : Nat := 0
  wdogCnt : Nat := 0
  identity : Bool := true
  transfer : Option Nat := none
  chunks : List Byte := []
  smbReg : List Byte := []
  tap : Nat := 1
  extest : Bool := false
deriving DecidableEq, Repr

/-- The HBM stacks: the bytes of the work region and of the firmware's area, the poisoned lines, the HBM keys drawn (the XTS pair of each controller, then the MAC key), the
corrected errors of each row with the rows whose count has made them candidates, the pseudo-channels redirected to the repair reserve and the one under
repair; each controller's MAC cache, its carve-out lines; and what the last read returned to its requester, nothing for an integrity error (R238-R250). -/
structure Hbm where
  mem : List Host.Cell := []
  poison : List Nat := []
  keys : Sparse (List Byte) := []
  rowErrors : Sparse Nat := []
  rowsMet : List Nat := []
  redirect : List Nat := []
  repair : Option Nat := none
  macs : Sparse (List Nat) := []
  answer : Option (List Byte) := none
deriving DecidableEq, Repr

/-- The custodian gate and the MPUs (R265-R281): the change set in staging order, the approvals being verified, the counted ones (OID and
role, then OID), when the seal was made; the partitions the apply froze; the partition of the PART_CMD in progress; the drains of MPU
commits by MPU (when each began); whether the MPUs run on the committed rules; the delta of the apply in progress (R344); whether a life-cycle wipe has
erased the user region since the last reset (R310); the flash copy of the committed state. -/
structure Gate where
  set : List Change := []
  verifying : List Approval := []
  appr1 : Option (Nat × Nat) := none
  appr2 : Option Nat := none
  sealedAt : Nat := 0
  froze : List Nat := []
  cmdPart : Option Nat := none
  mpuCut : Sparse Nat := []
  mpuOver : List Nat := []
  mpuLoaded : Bool := false
  delta : Option Nat := none
  wiped : Bool := false
  flash : Flash := {}
deriving DecidableEq, Repr

/-- The control-core complex and its scheduler (R399-R408): shared SRAM, thread slots, the ready lists by core and priority and the delay
lists by core, the tag of the thread each core was last given, the tick count and when the next tick is due, the running applets. -/
structure Sched where
  sram : List Host.Cell := []
  threads : Sparse Thread := []
  ready : Sparse (List Nat) := []
  delayed : Sparse (List Nat) := []
  tags : Sparse Nat := []
  ticks : Nat := 0
  tickDue : Nat := 0
  applets : List (Nat × Applet) := []
  images : Sparse (List Byte) := []
deriving DecidableEq, Repr

/-- Quartz (R409-R412): the latched high half of NOW, the compare units whose compare is pending, until when a unit that has fired does not fire
again, and the latched high halves of DT and JCOUNT. -/
structure Quartz where
  nowHi : Nat := 0
  armed : List Nat := []
  rest : Sparse Nat := []
  dtHi : Nat := 0
  jcountHi : Nat := 0
deriving DecidableEq, Repr

/-- Agate (R434-R442): the accumulating, window and published sets by kind and index, the open window (since when, its close, its severity,
events, BUSY_RETRYs and flags), the last residency update, and the ring by slot. -/
structure Agate where
  live : Sparse Hist := []
  win : Sparse Hist := []
  pub : Sparse Hist := []
  open_ : Bool := false
  start : Nat := 0
  due : Nat := 0
  events : Nat := 0
  busy : Nat := 0
  partialWin : Bool := false
  satWin : Bool := false
  longWin : Bool := false
  overdue : Bool := false
  residency : Nat := 0
  ring : Sparse (List Byte) := []
deriving DecidableEq, Repr

/-- The Flaiviran links by number (R352-R359). -/
structure Links where
  link : Sparse Link := []
deriving DecidableEq, Repr

/-- The approval by card (R420): its step, its port, the card's answer to GET INFO, when the PIN entry times out; the ports whose card allows clock
stop (R417); the Fi/Di pair in use, and the pair and the clock a PPS request asks for (R416). -/
structure Cards where
  step : CardStep := .idle
  port : Nat := 0
  info : List Byte := []
  due : Nat := 0
  stops : List Nat := []
  fidi : Nat := 0x11
  offer : Nat × Nat := (0, 0)
deriving DecidableEq, Repr

/-- The journal (R425-R428): the appends in order, the first being written while one is listed; the record being written and since when; an eMMC
device's RPMB write counter; the block read at an insertion during BOOT, checked at its end (R427). -/
structure Journal where
  queue : List Append := []
  record : List Byte := []
  since : Nat := 0
  rpmb : Nat := 0
  found : Option (List Byte) := none
deriving DecidableEq, Repr


/-- The state of the module. -/
structure State where
  regs : Sparse Nat
  mode : Mode
  parts : Sparse Part
  hq : Hqe
  sq : Seqs
  ci : Ciphers
  ge : Geode
  arbs : Sparse Arbiter
  pk : Pks
  fl : Flint
  ob : Obsidian
  pw : Power
  pr : Pair
  lc : LifeCycle
  dm : Domain
  bt : Boot
  hb : Hbm
  gt : Gate
  sc : Sched
  qz : Quartz
  ag : Agate
  ln : Links
  cd : Cards
  jr : Journal
  quartz : Nat
  randoms : Nat
  frees : Nat
  out : List Output
  pending : List Instr
deriving DecidableEq, Repr

/-- The module raises no fault: the spec stops it nowhere. -/
inductive Fault
deriving DecidableEq, Repr

/-- Why a step is refused. -/
inductive Refusal
  /-- No meaning for the command yet. Raised by the dispatch alone. Safe: the machine stops where the hardware goes on. -/
  | notModelled (mnemonic : String)
  /-- An instruction word that the load checks of R83, R131 and R160 call a reserved or undefined encoding, which no program the gate
  has loaded can hold. Raised by the sequencers' meanings. Safe: the spec gives such a word no effect. -/
  | reservedEncoding
deriving DecidableEq, Repr

/-- The module right after reset. -/
def State.reset : State where
  regs := []
  mode := .boot
  parts := []
  hq := {}
  sq := {}
  ci := {}
  ge := {}
  arbs := []
  pk := {}
  fl := {}
  ob := {}
  pw := {}
  pr := { hostDown := some 0 }
  lc := {}
  dm := {}
  bt := {}
  hb := {}
  gt := {}
  sc := {}
  qz := {}
  ag := {}
  ln := {}
  cd := {}
  jr := {}
  quartz := 0
  randoms := 0
  frees := 0
  out := []
  pending := []

end Sys2Proof.Machine
end

