-- ==== Sys2Proof/Machine/Ops.lean ====
section
/-! DEFINITION. The named operations every family shares: register fields, partitions, queue pairs, contexts, interrupts, random bytes and outputs. -/
namespace Sys2Proof.Machine

/-- The answer of a meaning: the next state. -/
abbrev Result := Host.Outcome State Fault Refusal

/-! ## Register fields -/

/-- The value a register field holds: a number of its width. -/
def State.get (s : State) (f : Field) : Nat := Sparse.get f.reset s.regs f.key % 2 ^ f.width

/-- The state with a field set; the value is cut to the field's width. -/
def State.set (s : State) (f : Field) (v : Nat) : State :=
  { s with regs := Sparse.set f.reset s.regs f.key (v % 2 ^ f.width) }

/-- A field that counts and wraps. -/
def State.count (s : State) (f : Field) (d : Nat := 1) : State := s.set f (s.get f + d)

/-- A field that counts and saturates. -/
def State.countSat (s : State) (f : Field) (d : Nat := 1) : State := s.set f (satAdd f.width (s.get f) d)

/-- A field that keeps the largest value seen, saturating. -/
def State.keepMax (s : State) (f : Field) (v : Nat) : State := s.set f (max (s.get f) (min v (2 ^ f.width - 1)))

/-- One bit of a field set or cleared. -/
def State.setBit (s : State) (f : Field) (i : Nat) (b : Bool) : State := s.set f (putBit (s.get f) i b)

/-- One bit of a field. -/
def State.bit (s : State) (f : Field) (i : Nat) : Bool := bitOf (s.get f) i

/-- Does a register key belong to the page with this number? -/
def inPage (p k : Nat) : Bool := k / 32 / 0x1000 == p

/-- Every field of a page back at its reset value. -/
def State.resetPage (s : State) (p : Nat) : State := { s with regs := s.regs.filter fun e => !inPage p e.1 }

/-! ## Partitions, queue pairs and contexts -/

/-- The partition with this number. -/
def State.part (s : State) (p : Nat) : Part := Sparse.get {} s.parts p

/-- The state with a partition changed. -/
def State.updPart (s : State) (p : Nat) (f : Part → Part) : State := { s with parts := Sparse.upd {} s.parts p f }

/-- The key of queue pair `q` of partition `p`. -/
def qpKey (p q : Nat) : Nat := 64 * p + q

/-- A queue pair. -/
def State.qp (s : State) (p q : Nat) : QueuePair := Sparse.get {} s.hq.qps (qpKey p q)

/-- The state with a queue pair changed. -/
def State.updQp (s : State) (p q : Nat) (f : QueuePair → QueuePair) : State :=
  { s with hq.qps := Sparse.upd {} s.hq.qps (qpKey p q) f }

/-- The key of a context: its cluster and number. -/
def ctxKey (c : Ctx) : Nat := 64 * c.cc.val + c.ix.val

/-- The cluster of a context key. -/
def clusterOf (k : Nat) : Nat := k / 64

/-- The context with this key. -/
def State.ctx (s : State) (k : Nat) : Context := Sparse.get {} s.sq.ctxs k

/-- The state with a context replaced. -/
def State.setCtx (s : State) (k : Nat) (c : Context) : State := { s with sq.ctxs := Sparse.set {} s.sq.ctxs k c }

/-- The state with a context changed. -/
def State.updCtx (s : State) (k : Nat) (f : Context → Context) : State := s.setCtx k (f (s.ctx k))

/-- The contexts in use, by key. -/
def State.running (s : State) : List (Nat × Context) := s.sq.ctxs.filter fun e => e.2.cmd.isSome

/-- The contexts of a cluster in use. -/
def State.busyIn (s : State) (n : Nat) : List (Nat × Context) := s.running.filter fun e => clusterOf e.1 == n

/-- Is this the command of partition `p`? -/
def Cmd.ofPart (p : Nat) (c : Cmd) : Bool := c.part == p && c.peer.isNone

/-- Is this the command of queue pair `q` of partition `p`? -/
def Cmd.ofQp (p q : Nat) (c : Cmd) : Bool := c.ofPart p && c.qp == q

/-! ## Functions and interrupts (R32, R58) -/

/-- A function's number: the PFs first, then the VFs of P0 and of P1. -/
def funcCode : Func → Nat
  | .pf p => p.val
  | .vf p n => 2 + 512 * p.val + n.val

/-- The port of a function. -/
def funcPort : Func → Nat
  | .pf p => p.val
  | .vf p _ => p.val

/-- The partition that owns a VF, with the VF's index in it (R32). -/
def State.vfOwner (s : State) (f : Func) : Option (Nat × Nat) :=
  s.parts.findSome? fun e => (e.2.vfs.findIdx? (· == some f)).map fun i => (e.1, i)

/-- Does a function exist on its port: a PF, or a VF that host software has enabled (R384)? -/
def State.enabledFunc (s : State) (f : Func) : Bool :=
  match f with
  | .pf _ => true
  | .vf p _ => s.hq.vfOn.contains p

/-- The partition a function reaches: partition 0 through a PF, the owner of an enabled VF otherwise (R32, R384). -/
def State.partOf (s : State) (f : Func) : Option Nat :=
  match f with
  | .pf _ => some 0
  | .vf _ _ => if s.enabledFunc f then (s.vfOwner f).map (·.1) else none

/-- The function a queue pair's VF_SEL names: for partition 0 the PF that its bit 3 selects, else the VF of that index (Table 2.3). -/
def State.namedFunc (s : State) (p q : Nat) : Option Func :=
  let v := (s.qp p q).vfSel
  if p = 0 then some (.pf (if v % 2 = 0 then 0 else 1))
  else ((s.part p).vfs.getD v none)

/-- The function that owns a queue pair: as VF_SEL named it when the pair was enabled, and as it names it while the pair is DISABLED. -/
def State.qpFunc (s : State) (p q : Nat) : Option Func :=
  match (s.qp p q).fn with
  | some f => some f
  | none => s.namedFunc p q

/-- The user region as it is read: one that the MMK in place does not authenticate is treated as empty (R13). -/
def State.userRegion (s : State) : Flash := if s.ob.mmk = some s.gt.flash.key then s.gt.flash else {}

/-- The state with something sent to the outside. -/
def State.emit (s : State) (o : Output) : State := { s with out := s.out ++ [o] }

/-- The key of a word of a function's MSI-X table. -/
def msixKey (fn vector word : Nat) : Nat := 4 * (2048 * fn + vector) + word

/-- A word of a function's MSI-X table. Word 3 is the vector control, whose mask bit stands at reset (PRESUMED, PCI Express). -/
def State.msixWord (s : State) (fn vector word : Nat) : Nat :=
  Sparse.get (if word = 3 then 1 else 0) s.hq.msix (msixKey fn vector word)

/-- The MSI-X message control of a function: bit 15 enables its messages, bit 14 masks them all; both are 0 at reset (PRESUMED, PCI Express). -/
def State.msixControl (s : State) (fn : Nat) : Nat := Sparse.get 0 s.hq.msixCtl fn

/-- Is a vector of a function masked: by its own mask, by the function mask, or because the function's MSI-X is not enabled (PRESUMED, PCI Express)? -/
def State.msixMasked (s : State) (fn vector : Nat) : Bool :=
  bitOf (s.msixWord fn vector 3) 0 || bitOf (s.msixControl fn) 14 || !bitOf (s.msixControl fn) 15

/-- An MSI-X message: sent where the vector is unmasked, else pending (R58). -/
def State.msixSend (s : State) (f : Func) (vector : Nat) : State :=
  if s.msixMasked (funcCode f) vector then
    if s.hq.msixPend.contains ((funcCode f), vector) then s
    else { s with hq.msixPend := s.hq.msixPend ++ [((funcCode f), vector)] }
  else s.emit (.msix f vector)

/-- INT_RAW of a page with bit `i` set; where it newly pends, the page's vector is signalled on each PF (R58, R464). -/
def State.raise (s : State) (p i : Nat) : State :=
  let was := s.bit (R.BLK_INT_RAW p) i
  let s := s.setBit (R.BLK_INT_RAW p) i true
  if !was && s.bit (R.BLK_INT_EN p) i then
    (s.msixSend (.pf 0) (1088 + p)).msixSend (.pf 1) (1088 + p)
  else s

/-- The page numbers of the blocks (Table 21.2). -/
def pgPWR : Nat := 0x01
def pgQTZ : Nat := 0x02
def pgRST : Nat := 0x03
def pgPAD : Nat := 0x04
def pgCC (n : Nat) : Nat := 0x10 + n
def pgPK (n : Nat) : Nat := 0x20 + n
def pgGEO : Nat := 0x30
def pgKCS (n : Nat) : Nat := 0x31 + n
def pgHBM (n : Nat) : Nat := 0x41 + n
def pgARB : Nat := 0x43
def pgMPU (n : Nat) : Nat := 0x50 + n
def pgFLT : Nat := 0x60
def pgOBS : Nat := 0x61
def pgLCS : Nat := 0x62
def pgGATE : Nat := 0x63
def pgPAIR : Nat := 0x70
def pgFVL (n : Nat) : Nat := 0x71 + n
def pgSCHED : Nat := 0x80
def pgAGT : Nat := 0x81
def pgCARD : Nat := 0x90
def pgSD : Nat := 0x91
def pgHQE : Nat := 0xA0
def pgSEQ (n : Nat) : Nat := 0xA1 + n

/-- A partition event: its flag stands; each PF signals it on vector 64 + p, whose own mask alone gates it (DEDUCED: PEVT_EN is a register of the
VFs' BARs, and partition 0 has none), and where PEVT_EN enables it every VF of the partition signals it (R58, Table 2.13). -/
def State.partEvent (s : State) (p i : Nat) : State :=
  let s := s.updPart p fun x => { x with pevt := putBit x.pevt i true }
  let x := s.part p
  let s := if bitOf x.pevtEn i then x.vfs.foldl (fun s v => match v with | some f => s.msixSend f x.pevtVec | none => s) s else s
  (s.msixSend (.pf 0) (64 + p)).msixSend (.pf 1) (64 + p)

/-- Is fetching stopped for every partition: a T1 latch in force (R55, R290), a handover running (R347), sleep being entered or left? -/
def State.fetchStopped (s : State) : Bool := s.ob.latch == 1 || s.pr.relinquishing || s.pw.phase != .awake

/-- Is the core die held in reset: PERST_N, VDD_CORE below its range, VIGIL, or an EXTEST hold (R392, R452, R461)? -/
def State.inReset (s : State) : Bool := s.bt.perst || s.bt.vddLow || s.bt.vigil || s.bt.extest

/-- The bit of RST BLK_READY that a page's block has (Table 16.9); none outside the pages of Table 21.2. -/
def readyBit (p : Nat) : Option Nat :=
  if p = 0 ∨ p = 3 ∨ p = 0x62 then some 0
  else if p = 1 ∨ p = 2 then some p
  else if p = 4 then some 3
  else if p < 0x10 then none
  else if p < 0x20 then some 4
  else if p < 0x28 then some 5
  else if p < 0x30 then none
  else if p ≤ 0x40 then some 6
  else if p ≤ 0x42 then some 7
  else if p = 0x43 then some 8
  else if p < 0x50 then none
  else if p < 0x60 then some 9
  else if p = 0x60 then some 10
  else if p = 0x61 then some 11
  else if p = 0x63 then some 12
  else if p = 0x70 then some 13
  else if 0x71 ≤ p ∧ p ≤ 0x78 then some 14
  else if p = 0x80 then some 15
  else if p = 0x81 then some 16
  else if p = 0x90 ∨ p = 0x91 then some 17
  else if p = 0xA0 then some 18
  else if 0xA1 ≤ p ∧ p ≤ 0xB0 then some 19
  else none

/-- The island (Table 1.4) of a page's block: a cipher cluster's holds its sequencer and its key-cache slice. -/
def islandOf (p : Nat) : Nat :=
  if 0x10 ≤ p ∧ p < 0x28 then p - 0x10
  else if 0x31 ≤ p ∧ p ≤ 0x40 then p - 0x31
  else if 0xA1 ≤ p ∧ p ≤ 0xB0 then p - 0xA1
  else if p = 0x41 ∨ p = 0x42 then p - 0x41 + 24
  else if p = 0xA0 then 26
  else if 0x71 ≤ p ∧ p ≤ 0x78 then 28
  else if p = 0x30 ∨ p = 0x80 then 29
  else 30

/-- Is the island of a page's block powered: a cluster may be gated off (R20)? The key cache has a domain of its own (Table 13.4). -/
def State.islandOn (s : State) (p : Nat) : Bool :=
  let i := islandOf p
  if i < 24 ∧ ¬ (0x31 ≤ p ∧ p ≤ 0x40) then s.bit R.PWR_DOMAIN_ON_LO i else true

/-! ## Life-cycle states (R305, R308) -/

/-- The codeword of a life-cycle state (Table 12.3). -/
def lcCodeword : Nat → Nat
  | 2 => 2 ^ 12 - 1
  | 4 => 2 ^ 24 - 1
  | 5 => 2 ^ 36 - 1
  | 6 => 2 ^ 48 - 1
  | 7 => 2 ^ 64 - 1
  | _ => 0

/-- The fused state a word decodes to: a codeword's state, else INVALID (R308). -/
def lcDecode (w : Nat) : Nat := ([1, 2, 4, 5, 6, 7].find? fun c => lcCodeword c == w).getD 0xF

/-- PENDING: the state of the highest group with any fuse set, of a word that is no codeword (R308). -/
def lcPending (w : Nat) : Nat :=
  if lcDecode w ≠ 0xF then 0
  else if 2 ^ 48 ≤ w then 7 else if 2 ^ 36 ≤ w then 6 else if 2 ^ 24 ≤ w then 5 else if 2 ^ 12 ≤ w then 4 else 2

/-- The native life-cycle state: TEST_OPEN is TEST_LOCKED with the flag set (R305). -/
def State.lcState (s : State) : Nat :=
  if lcDecode s.lc.word = 2 ∧ s.lc.testOpen then 3 else lcDecode s.lc.word

/-- Does a register page respond: the die is out of reset, the block's bit of RST BLK_READY is set (R384) and its island is powered (R20)? In INVALID only
GBL, RST and LCS do (R309). -/
def State.responds (s : State) (p : Nat) : Bool :=
  !s.inReset && (match readyBit p with | none => false | some b => s.bit R.RST_BLK_READY b && (b == 0 || s.lcState != 0xF)) && s.islandOn p

/-! ## Fitness for the pair role (R340, R345) -/

/-- The bits set in the low `n` bits of a number. -/
def bitCount (n v : Nat) : Nat := ((List.range n).filter fun i => bitOf v i).length

/-- Are at least MIN_CC cipher and MIN_PK public-key clusters in service? -/
def State.enoughClusters (s : State) : Bool :=
  max 1 (s.get R.PAIR_MIN_CC) ≤ bitCount 16 (s.get R.GBL_CC_INSERVICE) &&
  max 1 (s.get R.PAIR_MIN_PK) ≤ bitCount 8 (s.get R.GBL_PK_INSERVICE)

/-- Has BOOT not ended? A paired module that claims after it keeps the mode BOOT until its role is settled (R338). -/
def State.booting (s : State) : Bool := s.mode == .boot && s.get R.RST_BOOT_STAGE != 6

/-- Is the module fit for its role (R340)? -/
def State.fit (s : State) : Bool :=
  !s.booting && s.mode != .responded && s.ob.latch != 1 && s.enoughClusters &&
  !(s.get R.PAIR_HOSTLOSS_EN == 1 && s.pr.hostLost)

/-- PAIR_HEALTH_OUT (R338, R340); in S2 and S3 it keeps its level (R336). -/
def State.healthOut (s : State) : Bool := s.get R.PAIR_PAIR_EN == 1 && s.pr.kept.getD (s.fit && !s.pr.healthLow)

/-- The takeover conditions of R345 other than SYNC. -/
def State.mayTake (s : State) : Bool :=
  s.get R.PAIR_PAIR_EN == 1 && !s.pr.healthIn && !s.pr.claimIn && s.mode == .shadow && s.healthOut

/-- SYNC allows a takeover (R345). -/
def State.syncAllows (s : State) : Bool := s.get R.PAIR_SYNC == 2 || s.get R.PAIR_TAKE_UNSYNCED == 1

/-- The start of the 200 µs count: kept while the conditions hold, restarted when any lapsed (R345). -/
def State.settleTake (s : State) : State :=
  if s.mayTake then { s with pr.takeAt := some (s.pr.takeAt.getD s.quartz) }
  else { s with pr.takeAt := none, pr.heldSync := false }

/-- SYNC or TAKE_UNSYNCED has changed: the count starts again where what they allow has changed with them (R345). -/
def State.resettleTake (s : State) (was : Bool) : State := (if s.syncAllows = was then s else { s with pr.takeAt := none }).settleTake

/-! ## The effective level (R321) -/

/-- The lowest of the policy target, PL_CAP, the thermal cap and PL0 under a T1 latch or in sleep entry. -/
def State.levelInForce (s : State) : Nat :=
  if s.ob.latch = 1 ∨ s.pw.phase = .entering ∨ s.pw.phase = .asleep then 0
  else min (s.get R.PWR_PL_TARGET) (min (s.get R.PWR_PL_CAP) (s.get R.PWR_THERM_CAP))

/-- The effective level brought up to date; a change of it allows a new attempt at a failed target (R323). -/
def State.settleLevel (s : State) : State :=
  let e := s.levelInForce
  if s.get R.PWR_EFF_PL = e then s else { s.set R.PWR_EFF_PL e with pw.failed := none }


/-! ## Arbiters (R251) -/

/-- An arbiter. -/
def State.arb (s : State) (u : Nat) : Arbiter := Sparse.get {} s.arbs u

/-- The state with an arbiter changed. -/
def State.updArb (s : State) (u : Nat) (f : Arbiter → Arbiter) : State := { s with arbs := Sparse.upd {} s.arbs u f }

/-- The requester whose grant at an arbiter has not been used yet. -/
def State.grantOf (s : State) (unit : Nat) : Option Nat :=
  if (s.arb unit).spent then none else (s.arb unit).owner

/-- The grant of an arbiter used. -/
def State.spend (s : State) (unit : Nat) : State :=
  s.updArb unit fun a => { a with spent := true }

/-! ## Islands (R19) -/

/-- Something happens in an island: its idle time starts anew (R327). -/
def State.touch (s : State) (i : Nat) : State := { s with pw.activeAt := Sparse.set 0 s.pw.activeAt i s.quartz }

/-- A crossing into an island that is gated ungates it (R19). -/
def State.cross (s : State) (i : Nat) : State := { s with pw.gated := s.pw.gated.filter (· ≠ i) }.touch i

/-- Something crosses into the island of a function's port (R19): a doorbell that arrives, a read or a write that leaves through it. -/
def State.crossPort (s : State) (f : Func) : State := s.cross (26 + funcPort f)

/-- Is an island relocking its PLL: a crossing into it waits (R19), and what runs in it pauses (R151, R184)? -/
def State.relocks (s : State) (i : Nat) : Bool := s.pw.relocking && i < 24 && !s.bit R.GBL_ISLAND_LOCK i

/-- A write crosses into the island of its page: it ungates it and acts, or waits while the island relocks, behind the writes that wait (R18, R19). -/
def State.crossing (s : State) (page : Nat) (c : Instr) (act : State → State) : Result :=
  let i := islandOf page
  if s.relocks i then .next { s with pw.crossings := s.pw.crossings ++ [c] } else .next (act (s.cross i))

/-! ## Errors of host memory (R39, R48) -/

/-- The bit of the AER uncorrectable error status that an error of a host read sets (PCI Express Base). -/
def aerBit : ReadError → Nat
  | .poisoned => 12
  | .timeout => 14
  | .completerAbort => 15
  | .unsupported => 20

/-- An error reported through AER by a function. -/
def State.reportAer (s : State) (f : Option Func) (bit : Nat) : State :=
  match f with
  | some f => { s with hq.aer := Sparse.upd 0 s.hq.aer (funcCode f) fun w => putBit w bit true }
  | none => s

/-- A host read's error reported. -/
def State.reportRead (s : State) (f : Option Func) (e : ReadError) : State := s.reportAer f (aerBit e)

/-- A host write's error reported: which bit says so is free, a posted write being answered by none. -/
def State.reportWrite (s : State) (f : Option Func) : State := s.reportAer f (Config.aerWriteBit.toNat)

/-! ## Random bytes -/

/-- `n` random bytes drawn, and the state that has drawn them: free values (`Config.randByte`). -/
def State.draw (s : State) (n : Nat) : List Byte × State :=
  ((List.range n).map fun i => Config.randByte (s.randoms + i), { s with randoms := s.randoms + n })

end Sys2Proof.Machine
end

