-- ==== Sys2Proof/Machine/Flits.lean ====
section
/-! DEFINITION. The flits of the Flaiviran links and the messages they carry: roles, encryption, the replay buffer, the key ratchet, and which link a message takes (R352, R355-R357). -/
namespace Sys2Proof.Machine

/-- A link's session. -/
def State.link (s : State) (k : Nat) : Link := Sparse.get {} s.ln.link k

/-- The state with a link's session changed. -/
def State.updLink (s : State) (k : Nat) (f : Link → Link) : State := { s with ln.link := Sparse.upd {} s.ln.link k f }

/-- The roles of Table 15.1: partner, ring, trunk, forwarding. -/
def isPartnerLink (k : Nat) : Bool := k < 2
def isRingLink (k : Nat) : Bool := k == 2 || k == 3
def isTreeLink (k : Nat) : Bool := k < 6
def isForwardLink (k : Nat) : Bool := k == 6 || k == 7

/-- ROLE of Table 15.5. -/
def linkRole (k : Nat) : Nat := if k < 2 then 0 else if k = 2 then 1 else if k = 3 then 2 else if k < 6 then 3 else 4

/-- Is a link's session open: NOT_READY or UP? -/
def State.linkOpen (s : State) (k : Nat) : Bool := s.get (R.FVL_STATE k) == 3 || s.get (R.FVL_STATE k) == 4

/-- Is a link UP? -/
def State.linkUp (s : State) (k : Nat) : Bool := s.get (R.FVL_STATE k) == 4

/-! ## Flits (R355-R357) -/

/-- HDR of a flit (Table 15.2): TYPE, VC and END, two bytes little-endian. -/
def flitHdr (type vc : Nat) (last : Bool) : List Byte := leBytes 2 (type % 16 + 16 * (vc % 4) + 64 * b2n last)

/-- The first counter block of a flit: the session salt and the flit counter, then GCM's 32-bit count (R357). -/
def flitBlock (salt : List Byte) (n : Nat) : List Byte := fitBytes 4 salt ++ leBytes 8 n ++ beBytes 4 1

/-- TAG of a flit: 96 bits of the GCM tag over HDR as additional data and the encrypted PAYLOAD (Table 15.2). -/
def flitTag (key salt : List Byte) (n : Nat) (hdr payload : List Byte) : List Byte :=
  let lengths := beBytes 8 (8 * hdr.length) ++ beBytes 8 (8 * payload.length)
  let acc := ghash (aesEncrypt key (zeros 16)) (zeros 16) (fitBytes 16 hdr ++ fitBytes 256 payload ++ lengths)
  (xorBytes acc (aesEncrypt key (flitBlock salt n))).take 12

/-- PAYLOAD encrypted, and decrypted, under a direction's key (R357). -/
def flitCrypt (key salt : List Byte) (n : Nat) (payload : List Byte) : List Byte :=
  ctrMode key (ctrAdd 4 1 (flitBlock salt n)) 4 (fitBytes 242 payload)

/-- A flit sealed for a direction (Table 15.2): 256 bytes. -/
def sealFlit (key salt : List Byte) (n : Nat) (hdr payload : List Byte) : List Byte :=
  let c := flitCrypt key salt n payload
  hdr ++ c ++ flitTag key salt n hdr c

/-- Does a flit carry the tag of its direction's key, salt and counter? -/
def flitOk (key salt : List Byte) (n : Nat) (bs : List Byte) : Bool :=
  slice 244 12 bs == flitTag key salt n (bs.take 2) (slice 2 242 bs)

/-- TYPE of a flit. -/
def flitType (bs : List Byte) : Nat := numAt bs 0 2 % 16

/-- VC and END of a flit (Table 15.2). -/
def flitVc (bs : List Byte) : Nat := bitsOf (numAt bs 0 2) 4 2
def flitEnd (bs : List Byte) : Bool := bitOf (numAt bs 0 2) 6

/-- The SP 800-108 counter KDF over CMAC-AES-256, 256-bit output, as derivation entry 0x3C lays it out (R192, DEDUCED). -/
def kdfCmac (key label ctx : List Byte) : List Byte :=
  cmac 0 key ([1] ++ label ++ [0] ++ ctx ++ [1, 0]) ++ cmac 0 key ([2] ++ label ++ [0] ++ ctx ++ [1, 0])

/-- A direction's next key: KDF(key, "FRK") (R357). -/
def ratchet (key : List Byte) : List Byte := kdfCmac key [0x46, 0x52, 0x4B] []

/-- A direction that has carried 2^36 flits takes its next key and counts from 0 again (R357): the one that sends, and the one that receives. -/
def Link.ratchetTx (l : Link) : Link := if 2 ^ 36 ≤ l.txCount then { l with txKey := ratchet l.txKey, txCount := 0 } else l
def Link.ratchetRx (l : Link) : Link := if 2 ^ 36 ≤ l.rxCount then { l with rxKey := ratchet l.rxKey, rxCount := 0 } else l

/-- A flit sent on a link: its 256 bytes leave and enter the replay buffer of 64 (R356). No counter repeats: the key is ratcheted first where the count is used
up, so no flit is lost (R357). -/
def State.sendFlit (s : State) (k type vc : Nat) (last : Bool) (payload : List Byte) : State :=
  let l := (s.link k).ratchetTx
  let bs := sealFlit l.txKey l.txSalt l.txCount (flitHdr type vc last) payload
  let replay := l.replay ++ [bs]
  let s := s.updLink k fun _ => { l with txCount := l.txCount + 1, lastSent := s.quartz, replay := replay.drop (replay.length - 64) }
  (if type = 0 then s else s.count (R.FVL_TX_FLITS k)).emit (.flit k bs)

/-! ## Messages -/

/-- TYPE and VC of the flits that carry a message (Table 15.2). Schedules and cancellations go as control (DESIGN CHOICE, log 232: the spec gives them no TYPE). -/
def messageKind : Output → Nat × Nat
  | .healthReport .. | .delta .. | .handover _ | .resyncRequest _ => (6, 1)
  | .deltaAck .. => (7, 1)
  | .replication .. | .forwardRepl .. | .catchupRecord .. | .catchupDone _ => (3, 2)
  | .forward .. | .forwardAbort .. => (4, 3)
  | .peerAnswer .. | .peerOutput .. => (5, 3)
  | .scheduleAck .. => (7, 0)
  | _ => (2, 0)

/-- The bytes of a message: those of a health report stand in Table 14.2; how the others are laid out the spec does not say, so they are free. -/
def messageBytes (o : Output) (k n : Nat) : List Byte :=
  match o with
  | .healthReport _ r => r
  | _ => Config.messageBytes k n

/-- A message sent on a link: its flits, 242 bytes to a flit and the last marked END, and what they say. A link that is not UP carries control messages alone, and
none without a session (Table 15.3). -/
def State.sendOn (s : State) (k : Nat) (o : Output) : State :=
  let kind := messageKind o
  if s.linkUp k || (s.linkOpen k && kind.1 == 2) then
    let pieces := chunks 242 (messageBytes o k (s.link k).txCount)
    let pieces := if pieces.isEmpty then [[]] else pieces
    let s := pieces.zipIdx.foldl (fun s p => s.sendFlit k kind.1 kind.2 (p.2 + 1 == pieces.length) p.1) (s.cross 28)
    s.emit o
  else s

/-- The link that carries the pair link's traffic: FVL0, or FVL1 while FVL0 is down; and the one that carries the second partner link's: FVL1, or FVL0 while
FVL1 is down (R352). None while neither is UP. -/
def State.pairLink (s : State) : Option Nat := [0, 1].find? fun k => s.linkUp k
def State.secondLink (s : State) : Option Nat := [1, 0].find? fun k => s.linkUp k

/-- A message to the partner on one of the partner links; without one it goes nowhere. -/
def State.tellOn (s : State) (link : Option Nat) (o : Nat → Output) : State :=
  match link with
  | some k => s.sendOn k (o k)
  | none => s

/-- A message of the pair link's traffic. -/
def State.tellPartner (s : State) (o : Nat → Output) : State := s.tellOn s.pairLink o

/-- The links of the time tree a message floods: UP partner, ring and trunk links, of the partner's two the one that carries replication (R352, R363, R366). -/
def State.treeLinks (s : State) : List Nat := (List.range 6).filter fun k => s.linkUp k && (k != 0 || !s.linkUp 1)

/-- A message along the time tree. -/
def State.tellTree (s : State) (o : Nat → Output) : State := s.treeLinks.foldl (fun s k => s.sendOn k (o k)) s

end Sys2Proof.Machine
end

