-- ==== Sys2Proof/Machine/StreamOps.lean ====
section
/-! DEFINITION. The stream form of CIPH: the lane operation word (Table 5.2), which words are valid (Table 5.3), which keys fit, the checks of Table 5.5 and what a part of a stream computes (R130-R134, Table 5.4). -/
namespace Sys2Proof.Machine

/-- The fields of a lane operation word. -/
def laneWord (v : Nat) : LaneWord :=
  { cipher := bitsOf v 0 2, mode := bitsOf v 2 4, dir := bitsOf v 6 1, final := bitOf v 7, pad := bitsOf v 8 2,
    taglen := bitsOf v 10 4, ctrw := bitsOf v 14 2 }

def mECB : Nat := 0
def mCBC : Nat := 1
def mCTR : Nat := 2
def mGCM : Nat := 3
def mCMAC : Nat := 4
def mXTS : Nat := 5
def mRMAC : Nat := 6
def mCBCMAC : Nat := 7

/-- Does a mode produce data output? -/
def LaneWord.hasOutput (l : LaneWord) : Bool := l.mode ≤ 3 || l.mode == mXTS

/-- Is this a valid combination of Table 5.3 for the stream form (`block` false) or the block form? -/
def LaneWord.valid (l : LaneWord) (block aadOnly noOut : Bool) : Bool :=
  let padOk := if l.dir = 0 then l.pad ≤ 2 else l.pad == 0
  let noTag := l.taglen == 0
  let verify := l.dir == 1
  (!aadOnly || l.mode == mGCM) && (!noOut || l.hasOutput) &&
  (if block then l.mode == mECB && l.cipher ≤ 1 && !l.final && padOk && noTag && l.ctrw == 0 && !aadOnly && !noOut
   else match l.mode with
    | 0 => l.cipher ≤ 1 && padOk && noTag && l.ctrw == 0
    | 1 => l.cipher ≤ 1 && padOk && noTag && l.ctrw == 0
    | 2 => l.cipher == 0 && l.pad == 0 && noTag && l.ctrw ≤ 2
    | 3 => l.cipher == 0 && l.pad == 0 && l.ctrw == 0 && (if verify then l.taglen == 3 || l.taglen == 7 || 11 ≤ l.taglen else noTag)
    | 4 => l.cipher ≤ 1 && l.pad == 0 && l.ctrw == 0 &&
        (if verify then 3 ≤ l.taglen && (l.cipher == 0 || l.taglen ≤ 7) else noTag)
    | 5 => l.cipher == 0 && l.pad == 0 && noTag && l.ctrw == 0
    | 6 => l.cipher == 1 && l.pad ≤ 2 && l.ctrw == 0 && (if verify then 3 ≤ l.taglen && l.taglen ≤ 7 else noTag)
    | 7 => l.cipher ≤ 1 && l.dir == 0 && l.pad == 0 && noTag && l.ctrw == 0
    | _ => false)

/-- Does a key fit the operation (R71, R131)? -/
def LaneWord.fits (l : LaneWord) (k : Key) : Bool :=
  if l.cipher = 1 then k.cls == 1 && (l.mode != mRMAC || k.material.length == 16)
  else k.cls == 2 && (if l.mode = mXTS then k.sel == 1 else k.sel == 0)

/-- Does a mode keep all of one stream's operations on one lane (R93)? -/
def LaneWord.chained (l : LaneWord) : Bool :=
  (l.mode == mCBC && l.dir == 0) || l.mode == mCMAC || l.mode == mRMAC || l.mode == mCBCMAC || l.mode == mGCM

/-- The open-stream rules of R133 an instruction breaks. -/
def Stream.breaks (r : Stream) (l : LaneWord) (slot : Nat) (aadOnly : Bool) (n : Nat) : Bool :=
  r.slot != slot || r.cipher != l.cipher || r.mode != l.mode || r.dir != l.dir ||
  (l.mode == mGCM && aadOnly && (n != 0 || l.final) && (r.aadClosed || r.dataLen != 0))

/-- Does a part take its stream past the 16,777,215 bytes of Table 5.1: GCM's AAD or data, or an XTS data unit? -/
def Stream.passesLimit (r : Stream) (l : LaneWord) (aadOnly : Bool) (n : Nat) : Bool :=
  (l.mode == mGCM && 2 ^ 24 ≤ (if aadOnly then r.aadLen else r.dataLen) + n) || (l.mode == mXTS && 2 ^ 24 ≤ r.dataLen + n)

/-- The counter width of CTR in bytes. -/
def ctrBytes (ctrw : Nat) : Nat := if ctrw = 0 then 4 else if ctrw = 1 then 8 else 16

/-- The DETAIL of the first check of Table 5.5 that fails, if any. Where several fail the first in the table's order counts, and a part of no bytes and FINAL 0
that breaks an open-stream rule fails, though R134 accepts such parts in every mode (DESIGN CHOICE, log 246: the spec gives neither an order nor a precedence). `r` is the open record, or a fresh one. A part that takes its stream past a limit of
Table 5.1 fails too, after those checks; Table 5.5 gives it no DETAIL, which is free (DESIGN CHOICE, log 174). -/
def streamCheck (l : LaneWord) (opened : Bool) (r : Stream) (slot : Nat) (aadOnly : Bool) (ip n : Nat) : Option Nat :=
  let b := blkLen l.cipher
  let total := r.dataLen + n
  let whole := n % b == 0
  if n = 0 ∧ ¬ l.final then (if opened ∧ r.breaks l slot aadOnly n then some 0xD004 else none)
  else if (!l.final && !whole && !aadOnly) ||
      (l.final && !aadOnly && !whole && l.pad == 0 && (l.mode == mECB || l.mode == mCBC || l.mode == mRMAC || l.mode == mCBCMAC)) ||
      (l.final && total == 0 && (l.mode == mCBCMAC || (l.mode == mRMAC && l.pad == 0))) then some 0xD001
  else if l.mode = mXTS ∧ l.final ∧ (total < 16 ∨ (n % 16 ≠ 0 ∧ n < 17)) then some 0xD002
  else if l.mode = mCTR ∧
      beNat (r.first.drop (16 - ctrBytes l.ctrw)) + (total + 15) / 16 > 2 ^ (8 * ctrBytes l.ctrw) then some 0xD003
  else if opened ∧ r.breaks l slot aadOnly n then some 0xD004
  else if ip + n > 2 ^ 24 then some 0xD005
  else if r.passesLimit l aadOnly n then some (Config.limitDetail l.mode).toNat
  else none

/-- What an operation on a part of a stream yields: the record after it, data output, the value for D, a failed comparison, the MAC or tag computed, the blocks it computes and
how many of them the cipher's rounds compute. -/
structure PartOut where
  record : Stream
  out : List Byte := []
  d : Option (List Byte) := none
  authFail : Bool := false
  mac : List Byte := []
  blocks : Nat := 0
  ciphered : Nat := 0

/-- Everything a datapath computed that the comparison of R127 sees: the blocks of output, the MAC or tag, the chaining value or counter. -/
def PartOut.results (p : PartOut) : List Byte := p.out ++ p.mac ++ p.d.getD [] ++ p.record.acc ++ p.record.ghash ++ p.record.sub ++ p.record.mask

/-- A fresh stream record; `b` is V register B (Table 5.4). -/
def Stream.fresh (l : LaneWord) (slot : Nat) (b : List Byte) : Stream :=
  { slot, cipher := l.cipher, mode := l.mode, dir := l.dir, ctrw := l.ctrw, first := b,
    acc := match l.mode with
      | 1 => b.take (blkLen l.cipher)
      | 2 => b
      | _ => zeros (blkLen l.cipher),
    ghash := zeros 16 }

/-- A computed MAC or tag: written to D when generating, compared in its first TAGLEN_M1 + 1 bytes when verifying (R143). -/
def LaneWord.deliver (l : LaneWord) (p : PartOut) (mac expected : List Byte) : PartOut :=
  if l.dir = 0 then { p with mac, d := some (fitBytes 16 mac) }
  else { p with mac, authFail := mac.take (l.taglen + 1) != expected.take (l.taglen + 1) }

/-- The record with the results of a stream's extra blocks (Table 5.7): `sub` and `mask` are computed by the first operation. -/
def Stream.opening (r : Stream) (sub mask : List Byte) : Stream := if r.opened then r else { r with opened := true, sub, mask }

/-- One operation on a part of a stream in a datapath (Tables 5.3, 5.4, 5.7); `expected` is D before the instruction. Blocks are numbered data first, then
the last block of a MAC, then the extra blocks of the stream's first operation. -/
def streamPart (p : Path) (l : LaneWord) (key : List Byte) (r : Stream) (aadOnly : Bool) (bs expected : List Byte) : PartOut :=
  let b := blkLen l.cipher
  let nb := (bs.length + b - 1) / b
  let r' := { r with dataLen := r.dataLen + bs.length }
  let extra := fun n => if r.opened then 0 else n
  match l.mode with
  | 0 =>
    let x := if l.final then isoPad l.pad b false bs else bs
    let n := x.length / b
    { record := r', out := ecb (p.cipher l.cipher (l.dir == 1) key) b x, blocks := n, ciphered := n }
  | 1 =>
    let x := if l.final then isoPad l.pad b false bs else bs
    let n := x.length / b
    let y := if l.dir = 0 then cbcEncBy (p.cipher l.cipher false key) b r.acc x else cbcDecBy (p.cipher l.cipher true key) b r.acc x
    { record := { r' with acc := y.2 }, out := y.1, d := some (fitBytes 16 y.2), blocks := n, ciphered := n }
  | 2 =>
    let next := ctrAdd (ctrBytes l.ctrw) nb r.acc
    { record := { r' with acc := next }, out := ctrModeBy (p.cipher 0 false key) r.acc (ctrBytes l.ctrw) bs, d := some next, blocks := nb,
      ciphered := nb }
  | 3 =>
    let j0 := r.first.take 12 ++ [0, 0, 0, 1]
    let data := if aadOnly then 0 else nb
    let r := r.opening (p.cipher 0 false key data (zeros 16)) (p.cipher 0 false key (data + 1) j0)
    let finish := fun (q : PartOut) =>
      if l.final then
        l.deliver q (xorBytes q.record.mask (ghash q.record.sub q.record.ghash (beBytes 8 (8 * q.record.aadLen) ++ beBytes 8 (8 * q.record.dataLen))))
          expected
      else q
    if aadOnly then
      finish { record := { r with ghash := ghash r.sub r.ghash bs, aadLen := r.aadLen + bs.length,
                                  aadClosed := r.aadClosed || bs.length % 16 != 0 },
               blocks := nb + extra 2, ciphered := extra 2 }
    else
      let y := ctrModeBy (p.cipher 0 false key) (ctrAdd 4 (1 + r.dataLen / 16) j0) 4 bs
      finish { record := { r with dataLen := r.dataLen + bs.length, ghash := ghash r.sub r.ghash (if l.dir = 0 then y else bs) }, out := y,
               blocks := nb + extra 2, ciphered := nb + extra 2 }
  | 4 =>
    let x := r.tail ++ bs
    let q := (x.length - 1) / b
    let last := if l.final then 1 else 0
    let acc := (cbcEncBy (p.cipher l.cipher false key) b r.acc (x.take (b * q))).2
    let r' := { r'.opening (p.cipher l.cipher false key (q + last) (zeros b)) [] with acc, tail := if l.final then [] else x.drop (b * q) }
    let n := q + last + extra 1
    if l.final then
      l.deliver { record := r', blocks := n, ciphered := n } (p.cipher l.cipher false key q (xorBytes acc (cmacLast b r'.sub (x.drop (b * q))))) expected
    else { record := r', blocks := n, ciphered := n }
  | 5 =>
    let half := key.length / 2
    let r' := r'.opening (p.cipher 0 false (key.drop half) nb r.first) []
    { record := r', out := xtsRun (p.cipher 0 (l.dir == 1) (key.take half)) (l.dir == 1) r'.sub (r.dataLen / 16) bs, blocks := nb + extra 1,
      ciphered := nb + extra 1 }
  | 6 =>
    let x := r.tail ++ bs
    let x := if l.final then isoPad l.pad 8 true x else x
    let q := (x.length - 1) / 8
    let acc := rmacChainBy (p.des (tdesPart key 0)) r.acc (x.take (8 * q))
    if l.final then
      l.deliver { record := { r' with acc, tail := [] }, blocks := q + 1, ciphered := q + 1 } (p.cipher 1 false key q (xorBytes acc (x.drop (8 * q))))
        expected
    else { record := { r' with acc, tail := x.drop (8 * q) }, blocks := q, ciphered := q }
  | _ =>
    let y := cbcEncBy (p.cipher l.cipher false key) b r.acc bs
    { record := { r' with acc := y.2 }, d := if l.final then some (fitBytes 16 y.2) else none, blocks := nb, ciphered := nb }

/-! ## A lane operation -/

/-- A key as its two wires give it. -/
def Masked.clear (m : Masked) : List Byte := xorBytes m.value m.mask

/-- A lane operation in a datapath. -/
def LaneJob.part (j : LaneJob) (p : Path) (key : List Byte) : PartOut :=
  if j.block then
    { record := j.record, d := some (fitBytes 16 (p.cipher j.word.cipher (j.word.dir == 1) key 0 j.bytes)), blocks := 1, ciphered := 1 }
  else streamPart p j.word key j.record j.aad j.bytes j.expected

/-- What the released result of a lane operation does: its output, and D once the instruction ends (R132). -/
def LaneJob.effect (j : LaneJob) (q : PartOut) : Effect :=
  { output := if j.noOut || q.out.isEmpty then [] else [(j.off, q.out)]
    regs := if j.last then (q.d.map fun v => (j.dest, v)).toList else []
    authFail := j.last && q.authFail }

/-- Does a lane operation write D (Table 5.4)? -/
def LaneJob.writesD (j : LaneJob) : Bool :=
  j.last && (j.block || j.word.mode == mCBC || j.word.mode == mCTR ||
    (j.word.final && j.word.dir == 0 && (j.word.mode == mGCM || j.word.mode == mCMAC || j.word.mode == mRMAC || j.word.mode == mCBCMAC)))

/-- The V registers an operation will write. -/
def UnitOp.dests (o : UnitOp) : List Nat :=
  match o.job with
  | .lane j => if j.writesD then [j.dest] else []
  | .hash j => (List.range ((j.word.outLen + 15) / 16)).map (j.dest + ·)

end Sys2Proof.Machine
end

