-- ==== Sys2Proof/Machine/LaneUnits.lean ====
section
/-! DEFINITION. The units of a cipher cluster: its lanes, hash unit and format unit, which lane takes an operation, and how an operation is seated in it (R92, R128, R147). -/
namespace Sys2Proof.Machine

/-! ## Units -/

/-- The key of lane `l` of cluster `n`. -/
def laneKey (n l : Nat) : Nat := 4 * n + l

/-- A lane. -/
def State.lane (s : State) (n l : Nat) : Lane := Sparse.get {} s.ci.lanes (laneKey n l)

/-- The state with a lane changed. -/
def State.updLane (s : State) (n l : Nat) (f : Lane → Lane) : State :=
  { s with ci.lanes := Sparse.upd {} s.ci.lanes (laneKey n l) f }

/-- The hash unit of a cluster. -/
def State.hashUnit (s : State) (n : Nat) : HashUnit := Sparse.get {} s.ci.hash n

/-- The state with a hash unit changed. -/
def State.updHash (s : State) (n : Nat) (f : HashUnit → HashUnit) : State := { s with ci.hash := Sparse.upd {} s.ci.hash n f }

/-- The format unit of a cluster. -/
def State.fmtUnit (s : State) (n : Nat) : Service := Sparse.get {} s.ci.fmt n

/-- The state with a format unit changed. -/
def State.updFmt (s : State) (n : Nat) (f : Service → Service) : State := { s with ci.fmt := Sparse.upd {} s.ci.fmt n f }

/-- The operations of a cluster that wait for the waiting position of a lane (R147). -/
def State.movedOps (s : State) (n : Nat) : List UnitOp := Sparse.get [] s.ci.moved n

/-- The state with the waiting moved operations of a cluster replaced. -/
def State.setMoved (s : State) (n : Nat) (os : List UnitOp) : State := { s with ci.moved := Sparse.set [] s.ci.moved n os }

/-- The service state of unit 0-3 (lane), 4 (hash unit) or 5 (format unit) of a cluster. -/
def State.unitSvc (s : State) (n u : Nat) : Service :=
  if u < 4 then (s.lane n u).svc else if u = 4 then (s.hashUnit n).svc else s.fmtUnit n

/-- The state with a unit's service state changed. -/
def State.updSvc (s : State) (n u : Nat) (f : Service → Service) : State :=
  if u < 4 then s.updLane n u fun l => { l with svc := f l.svc }
  else if u = 4 then s.updHash n fun h => { h with svc := f h.svc }
  else s.updFmt n f

/-- The DETAIL that names a unit of a cluster (R98). -/
def unitDetail (n u : Nat) : Nat := if u < 4 then 4 * n + u else if u = 4 then 0x80 + n else 0x90 + n

/-- The lanes of a cluster in service. -/
def State.lanesUp (s : State) (n : Nat) : List Nat := (List.range 4).filter fun l => (s.lane n l).svc.inService

/-- May a lane take another operation: in service, not held, no test wanted or running, a waiting position free and no moved operation waiting for one
(R92, R147, Table 5.10)? -/
def State.laneOpen (s : State) (n l : Nat) : Bool :=
  let x := s.lane n l
  x.svc.inService && !x.svc.katWanted && !x.svc.katBusy && !s.bit (R.CC_LANE_HOLD n) l && x.wait.isNone && (s.movedOps n).isEmpty

/-- The work a lane still has, in blocks: AES and TDES alike, and an executing operation whole (DESIGN CHOICE, log 175: R92 gives no unit). -/
def Lane.work (x : Lane) : Nat := ((x.exec.toList ++ x.wait.toList).map (·.blocks)).sum

/-- Of the lanes a cluster may use, the one with the least work, ties to the lowest (R92). -/
def State.leastWork (s : State) (n : Nat) (ok : Nat → Bool) : Option Nat :=
  (List.range 4).foldl (fun best l =>
    if ok l then
      match best with
      | none => some l
      | some b => if (s.lane n l).work < (s.lane n b).work then some l else best
    else best) none

/-- The lane an operation goes to: the one its chained stream stays on (R93), or the open one with the least work. -/
def State.pickLane (s : State) (n : Nat) (chained : Option Nat) : Option Nat :=
  match chained with
  | some l => if s.laneOpen n l then some l else none
  | none => s.leastWork n (s.laneOpen n)

/-- The lane that takes work which runs whole within one instruction: the open one with the least work, none that stalls (R92, R138). -/
def State.freeLane (s : State) (n : Nat) : Option Nat := s.leastWork n fun l => s.laneOpen n l && !(s.lane n l).stalled

/-! ## Seats -/

/-- Does an operation need the round keys another one has loaded: same context, same key slot, still with that key (R128)? -/
def UnitOp.sameKey (a b : UnitOp) : Bool := a.owner == b.owner && a.slot == b.slot && a.key.clear == b.key.clear

/-- An operation in a lane that was idle: its round-key buffer is loaded, its busy time begins. -/
def Lane.begin (x : Lane) (o : UnitOp) (now : Nat) : Lane :=
  { x with exec := some o, bufExec := some o.key, busyFrom := some (x.busyFrom.getD now), begun := [] }

/-- An operation in the waiting position of a lane, its own buffer loaded unless the executing operation's serves it too (R128). -/
def Lane.queue (x : Lane) (o : UnitOp) : Lane :=
  { x with wait := some o, bufWait := if x.exec.any (·.sameKey o) then none else some o.key }

/-- An operation placed in a lane: in execution where the lane is idle, else waiting. -/
def State.place (s : State) (n l : Nat) (o : UnitOp) : State :=
  s.updLane n l fun x => if x.exec.isNone then x.begin o s.quartz else x.queue o

/-- Waiting positions that are free take the moved operations of the cluster, in order (R147). -/
def State.seatMoved (s : State) (n : Nat) : Nat → State
  | 0 => s
  | fuel + 1 =>
    match s.movedOps n with
    | [] => s
    | o :: os =>
      let open' := fun l =>
        let x := s.lane n l
        x.svc.inService && !x.svc.katWanted && !x.svc.katBusy && !s.bit (R.CC_LANE_HOLD n) l && x.wait.isNone
      match s.leastWork n open' with
      | none => s
      | some l =>
        let t := ((s.setMoved n os).place n l o)
        let t := match o.owner with
          | some k => if o.chained then t.updCtx k fun x => { x with home := some l } else t
          | none => t
        State.seatMoved t n fuel

end Sys2Proof.Machine
end

