-- ==== Sys2Proof/Machine/HbmMem.lean ====
section
/-! DEFINITION. The HBM address map and the places of its lines in the stacks, the bytes of the work region and of the firmware's area, poisoned lines, and the partitions' work windows (R238-R240, R246, R249). -/
namespace Sys2Proof.Machine

/-! ## The address map (R238, R239) -/

/-- The base of the work region (Table 9.1). -/
def workBase : Nat := 0x902400000

/-- The end of the module HBM address space (R239). -/
def hbmEnd : Nat := 0xBA0000000

/-- The regions of the address map (Table 9.1). -/
inductive HbmRegion
  | keyTables | programs | tables | partitions | firmware | carveOut | work
deriving DecidableEq, Repr

/-- The region of an address. -/
def hbmRegion (a : Nat) : HbmRegion :=
  if a < 0x800000000 then .keyTables else if a < 0x801000000 then .programs else if a < 0x801100000 then .tables
  else if a < 0x801300000 then .partitions else if a < 0x802000000 then .firmware else if a < workBase then .carveOut else .work

/-- Does an address lie in a protected region (Table 9.1)? -/
def hbmProtected (a : Nat) : Bool := a < 0x802000000

/-- The pseudo-channel of an address, 0-63: stack 0 holds the first 32 (R239). -/
def hbmChannel (a : Nat) : Nat := a / 256 % 64

/-- The stack of an address. -/
def hbmStack (a : Nat) : Nat := hbmChannel a / 32

/-- The line of an address as an index within its stack (Table 9.7). -/
def hbmStackLine (a : Nat) : Nat := (a / 256 / 64 * 32 + hbmChannel a % 32) * 4 + a / 64 % 4

/-- The places of an entry of the format, derivation and curve tables in their region, packed in the order the region is named in (DESIGN CHOICE, log 239:
the spec gives the region and not the places in it). -/
def tableBase : Nat := 0x801000000
def formatPlace (i : Nat) : Nat := tableBase + 64 * i
def derivationPlace (i : Nat) : Nat := tableBase + 0x1000 + 128 * i
def curvePlace (i : Nat) : Nat := tableBase + 0x5000 + 512 * i

/-! ## Where the lines stand (R238, R239, R249) -/

/-- The bytes of a stack (R238), its share of the address space, and the repair reserve above that share (R239). -/
def stackBytes : Nat := 24 * 2 ^ 30
def stackShare : Nat := hbmEnd / 2
def stackReserve : Nat := 768 * 2 ^ 20

/-- The place of a line: a stack and a line of its physical space. -/
structure Place where
  stack : Nat
  line : Nat
deriving DecidableEq, Repr

/-- The pseudo-channel of a place: consecutive blocks of 256 bytes go to the 32 of a stack in turn. -/
def Place.channel (x : Place) : Nat := 32 * x.stack + x.line / 4 % 32

/-- The place of an address in its own stack. -/
def homePlace (a : Nat) : Place := ⟨hbmStack a, hbmStackLine a⟩

/-- The place of an address in the repair reserve of the other stack: the blocks of the pseudo-channel one after another (DESIGN CHOICE, log 236: R249 says
no more than that the reserve takes every line of it). -/
def reservePlace (a : Nat) : Place := ⟨1 - hbmStack a, stackShare / 64 + a / 256 / 64 * 4 + a / 64 % 4⟩

/-- The place that serves an address: the reserve's while its pseudo-channel is redirected. -/
def State.holder (s : State) (a : Nat) : Place := if s.hb.redirect.contains (hbmChannel a) then reservePlace a else homePlace a

/-- Is the copy of an address's pseudo-channel under way, out to the reserve or back? -/
def State.copying (s : State) (a : Nat) : Bool :=
  s.hb.repair == some (hbmChannel a) && [1, 4].contains (s.get (R.HBM_PPR_STATE (hbmStack a)))

/-- The places a write of an address goes to: both during a copy (R249). -/
def State.places (s : State) (a : Nat) : List Place := if s.copying a then [homePlace a, reservePlace a] else [s.holder a]

/-! ## Arbitration of the channels (R253) -/

/-- Is a pseudo-channel's arbiter under FREEZE? -/
def State.channelFrozen (s : State) (pc : Nat) : Bool :=
  s.bit (if pc < 32 then R.ARB_FREEZE_HBM0 else R.ARB_FREEZE_HBM1) (pc % 32)

/-- Does an access to an address wait for its channel: FREEZE stops new grants, and the transfer in progress completes (R253)? -/
def State.channelHeld (s : State) (a : Nat) : Bool :=
  s.channelFrozen (s.holder a).channel && (s.arb (256 + (s.holder a).channel)).owner.isNone

/-- An access to an address crosses into the island of the stack that serves it (R19). -/
def State.crossHbm (s : State) (a : Nat) : State := s.cross (24 + (s.holder a).stack)

/-- Is the region of an address initialised, its stack's PHY trained (R250)? -/
def State.regionReady (s : State) (a : Nat) : Bool :=
  s.get (R.HBM_PHY_READY (hbmStack a)) == 1 &&
  s.get (if a < workBase then R.HBM_PROT_READY (hbmStack a) else R.HBM_WORK_READY (hbmStack a)) == 1

/-! ## Bytes and poison (R244, R246) -/

/-- A byte of the work region or of the firmware's area. Initialisation writes zero lines (R250). -/
def State.memByte (s : State) (a : Nat) : Byte := Sparse.get 0 s.hb.mem a

/-- The canonical form of a list of bytes by address: addresses strictly rising, no byte that an unlisted address reads as. -/
def Memory.wf (m : List Host.Cell) : Bool := Sparse.wf (fun _ => 0) m

/-- Bytes of the work region. -/
def State.readMem (s : State) (a n : Nat) : List Byte := (List.range n).map fun i => s.memByte (a + i)

/-- The lines that `n` bytes from `a` touch. -/
def linesOf (a n : Nat) : List Nat :=
  if n = 0 then [] else (List.range ((a + n - 1) / 64 - a / 64 + 1)).map (a / 64 + ·)

/-- Does an access to these bytes wait for a channel? -/
def State.hbmHeld (s : State) (a n : Nat) : Bool := (linesOf a n).any fun l => s.channelHeld (64 * l)

/-- The HBM keys of the controller that serves an address: its XTS pair, nothing once they are gone. -/
def State.keysOf (s : State) (a : Nat) : List Byte := Sparse.get [] s.hb.keys (s.holder a).stack

/-- Would a read of these bytes return the integrity error: a poisoned line, or no HBM keys (R244, R250)? -/
def State.readFails (s : State) (a n : Nat) : Bool :=
  (linesOf a n).any fun l => s.hb.poison.contains l || (s.keysOf (64 * l)).isEmpty

/-- Does a write cover only part of a poisoned line (R246)? -/
def State.writeFails (s : State) (a n : Nat) : Bool :=
  (linesOf a n).any fun l => s.hb.poison.contains l && !(a ≤ 64 * l && 64 * l + 64 ≤ a + n)

/-- Lines that a write of `n` bytes from `a` covers whole are poisoned no more (R246). -/
def State.wholeLines (s : State) (a n : Nat) : State :=
  { s with hb.poison := s.hb.poison.filter fun l => !decide (a ≤ 64 * l ∧ 64 * l + 64 ≤ a + n) }

/-- The bytes stored, except in poisoned lines that the write covers only in part; a poisoned line written whole is poisoned no more. -/
def State.writeMem (s : State) (a : Nat) (bs : List Byte) : State :=
  let whole := fun l => decide (a ≤ 64 * l ∧ 64 * l + 64 ≤ a + bs.length)
  let blocked := fun (i : Nat) => s.hb.poison.contains ((a + i) / 64) && !whole ((a + i) / 64)
  let m := (bs.zipIdx).foldl (fun m e => if blocked e.2 then m else Sparse.set 0 m (a + e.2) e.1) s.hb.mem
  { s with hb.mem := m, hb.poison := s.hb.poison.filter fun l => !(whole l) }

/-! ## Work windows (R240) -/

/-- Does a command address name its partition's work window: bits [63:40] equal 0xFF_FFFE? -/
def isWindow (a : Nat) : Bool := a / 2 ^ 40 == 0xFFFFFE

/-- The HBM address of a window address. -/
def State.windowAddr (s : State) (p a : Nat) : Nat := workBase + (s.part p).wbase * 2 ^ 20 + a % 2 ^ 40

/-- Does a range stay within the window? -/
def State.windowFits (s : State) (p a n : Nat) : Bool := a % 2 ^ 40 + n ≤ (s.part p).wsize * 2 ^ 20

/-- Is the work region ready in both stacks, so that accesses to it do not wait (R250)? -/
def State.workReady (s : State) : Bool := [0, 1].all fun k => s.get (R.HBM_PHY_READY k) == 1 && s.get (R.HBM_WORK_READY k) == 1

end Sys2Proof.Machine
end

