-- ==== Sys2Proof/Machine/MpuCheck.lean ====
section
/-! DEFINITION. What a memory protection unit checks: region matches, the pieces of an access, violations, and the checked accesses of the host queue engine's DMA to the work region (R240, R265-R269). -/
namespace Sys2Proof.Machine

/-- BASE of a region. -/
def State.mpuBase (s : State) (m r : Nat) : Nat := 64 * s.get (R.MPU_BASE_LO m r) + 2 ^ 32 * s.get (R.MPU_BASE_HI m r)

/-- LIMIT of a region. -/
def State.mpuLimit (s : State) (m r : Nat) : Nat := 64 * s.get (R.MPU_LIMIT_LO m r) + 2 ^ 32 * s.get (R.MPU_LIMIT_HI m r)

/-- Does a region match a piece that starts at `a` with a tag (R267)? -/
def State.regionMatches (s : State) (m r a tag : Nat) : Bool :=
  s.get (R.MPU_EN m r) == 1 && s.mpuBase m r ≤ s.mpuLimit m r && s.mpuBase m r ≤ a && a ≤ s.mpuLimit m r + 63 &&
  (s.get (R.MPU_ANY m r) == 1 || s.get (R.MPU_TAG m r) == tag)

/-- The permission a kind of access needs in a region. -/
def State.regionGrants (s : State) (m r : Nat) (kind : AccessKind) : Bool :=
  match kind with
  | .read => s.get (R.MPU_R m r) == 1
  | .write => s.get (R.MPU_W m r) == 1
  | .fetch => s.get (R.MPU_X m r) == 1

/-- Does an address lie in a row of Table 10.5? -/
def internalTarget (a : Nat) : Bool :=
  a < 0xBA0000000 || (0x1000000000 ≤ a && a < 0x1000400000) || (0x2000000000 ≤ a && a < 0x2004000000) ||
  (0x3000000000 ≤ a && a < 0x3008000000)

/-- Is the address in the shared SRAM? -/
def inSram (a : Nat) : Bool := 0x1000000000 ≤ a && a < 0x1000400000

/-- Is a piece permitted? Boot rules until the committed rules are loaded (R270); an address outside every row is not (R266). -/
def State.piecePermitted (s : State) (m : Nat) (kind : AccessKind) (a tag : Nat) : Bool :=
  internalTarget a &&
  (if s.gt.mpuLoaded then (List.range 32).any fun r => s.regionMatches m r a tag && s.regionGrants m r kind
   else m < 8)

/-- The pieces of an access: each one's address and length (R268). -/
def pieces (a n : Nat) : List (Nat × Nat) :=
  (List.range ((a % 64 + n + 63) / 64)).map fun i =>
    let start := if i = 0 then a else (a / 64 + i) * 64
    (start, min ((a / 64 + i + 1) * 64) (a + n) - start)

/-- The notices of a denied piece (R269). -/
def State.violation (s : State) (m : Nat) (kind : AccessKind) (a tag : Nat) : State :=
  match kind with
  | .write =>
    let s := s.countSat (R.MPU_VIOL_WR_CNT m)
    ((s.set (R.MPU_LAST_WR_ADDR_LO m) a).set (R.MPU_LAST_WR_ADDR_HI m) (a / 2 ^ 32)).raise (pgMPU m) 1
  | .read | .fetch =>
    let s := s.countSat (R.MPU_VIOL_RD_CNT m)
    let s := (s.set (R.MPU_LAST_RD_ADDR_LO m) a).set (R.MPU_LAST_RD_ADDR_HI m) (a / 2 ^ 32)
    let s := s.set (R.MPU_LAST_RD_TAG m) tag
    match kind with
    | .fetch => (s.countSat (R.MPU_VIOL_X_CNT m)).raise (pgMPU m) 2
    | .read | .write => s.raise (pgMPU m) 0

/-- A check of an access by a master that the module makes by itself: is every piece permitted, and the state with the denied ones noted (R265-R269)? -/
def State.mpuCheck (s : State) (m : Nat) (kind : AccessKind) (a n tag : Nat) : Bool × State :=
  ((pieces a n).all fun p => s.piecePermitted m kind p.1 tag,
   (pieces a n).foldl (fun s' p => if s.piecePermitted m kind p.1 tag then s' else s'.violation m kind p.1 tag) s)

/-! ## The host queue engine's DMA and the work region (R240, R266) -/

/-- The MPU of the host queue engine DMA that serves a command: that of its queue pair's port (Table 10.4). -/
def State.dmaMpu (s : State) (c : Cmd) : Nat :=
  8 + match s.qpFunc c.part c.qp with
  | some f => funcPort f
  | none => 0

/-- Does a read of these work-region bytes under a tag return the integrity error? A denied piece is not read. -/
def State.dmaReadFails (s : State) (m tag a n : Nat) : Bool :=
  (pieces a n).any fun p => s.piecePermitted m .read p.1 tag && s.readFails p.1 p.2

/-- A read of work-region bytes by a DMA master: a denied piece reads zeros and is noted (R268, R269). -/
def State.dmaRead (s : State) (m tag a n : Nat) : List Byte × State :=
  ((pieces a n).flatMap fun p => if s.piecePermitted m .read p.1 tag then s.readMem p.1 p.2 else zeros p.2,
   (pieces a n).foldl (fun s' p => if s.piecePermitted m .read p.1 tag then s'.crossHbm p.1 else s'.violation m .read p.1 tag) s)

/-- A write of work-region bytes by a DMA master, with whether a permitted piece met the integrity error: a denied piece is not written and is noted. -/
def State.dmaWrite (s : State) (m tag a : Nat) (bs : List Byte) : State × Bool :=
  (pieces a bs.length).foldl (fun r p =>
    if s.piecePermitted m .write p.1 tag then ((r.1.crossHbm p.1).writeMem p.1 (slice (p.1 - a) p.2 bs), r.2 || s.writeFails p.1 p.2)
    else (r.1.violation m .write p.1 tag, r.2)) (s, false)

end Sys2Proof.Machine
end

