-- ==== Sys2Proof/Machine/Sampling.lean ====
section
/-! DEFINITION. Agate's sampling: histogram sets, bins and severity sources, which the other blocks feed (R434, R435, R439). -/
namespace Sys2Proof.Machine

/-- Does an enabled feature of Quartz hold its compare unit (R411)? -/
def State.hasUnit (s : State) (feature : Nat) : Bool := s.get (R.QTZ_EN feature) == 1

/-- The unit of a feature has fired (R410). -/
def State.fire (s : State) (feature : Nat) : State := s.set (R.QTZ_FIRED (s.get (R.QTZ_UNIT feature))) 1

/-- floor(log2 v), for v of at most 64 bits; 0 for 0. -/
def log2 (v : Nat) : Nat := ((List.range 64).filter fun i => 2 ^ (i + 1) ≤ v).length

/-- The bin of a time in ns (R435). -/
def logBin (x : Nat) : Nat := if x < 64 then 0 else min 31 (log2 x - 5)

/-- The bin of a backlog (R435). -/
def depthBin (b : Nat) : Nat := if b = 0 then 0 else min 17 (log2 b + 1)

/-- A linear bin, clamped to 0-31 (R435). -/
def linearBin (v base step : Int) : Nat := (max 0 (min 31 ((v - base) / step))).toNat

/-- A 32-bit saturating count. -/
def sat32 (v : Nat) : Nat := min v 0xFFFFFFFF

/-- A set with `n` samples of value `v` in a bin. -/
def Hist.add (h : Hist) (bin : Nat) (v : Int) (n : Nat := 1) : Hist :=
  { bins := Sparse.upd 0 h.bins bin fun c => sat32 (c + n)
    lo := if h.count = 0 then v else min h.lo v
    hi := if h.count = 0 then v else max h.hi v
    count := sat32 (h.count + n) }

/-- The same in a set whose clear left its maximum at 0 (R436). -/
def Hist.addCleared (h : Hist) (bin : Nat) (v : Int) (n : Nat) : Hist := { h.add bin v n with hi := max h.hi v }

/-- The key of a set: its kind and index (Table 19.1). -/
def histKey (kind index : Nat) : Nat := 1024 * kind + index

/-- Does Agate sample: enabled, and its domain (45) on (R438, R442)? -/
def State.agateOn (s : State) : Bool := s.get (R.BLK_ENABLE pgAGT) == 1 && s.bit R.PWR_DOMAIN_ON_HI 13

/-- A sample in a set, while Agate samples; a bin that saturates sets AGT INT_RAW bit 4. -/
def State.sample (s : State) (kind index bin : Nat) (v : Int) (n : Nat := 1) : State :=
  if !s.agateOn then s
  else
    let key := histKey kind index
    let was := Sparse.get 0 (Sparse.get {} s.ag.live key).bins bin
    let s : State := { s with
      ag := { s.ag with
        live := Sparse.upd {} s.ag.live key (·.addCleared bin v n)
        win := Sparse.upd {} s.ag.win key (·.add bin v n) } }
    if was < 0xFFFFFFFF ∧ 0xFFFFFFFF ≤ was + n then { s with ag.satWin := true }.raise pgAGT 4 else s

/-- A severity source raised in the open window (Table 19.3). -/
def State.severity (s : State) (sev : Nat) : State :=
  if !s.agateOn then s
  else { (s.keepMax R.AGT_OPEN_SEV sev) with ag.events := min 0xFFFF (s.ag.events + 1) }

/-- A latency sample of partition `p` (R434); at or above LAT_NOTICE_BIN it is a NOTICE. -/
def State.sampleLatency (s : State) (p ns : Nat) : State :=
  let s := s.sample 0 p (logBin ns) ns
  if s.get R.AGT_LAT_NOTICE_BIN ≤ logBin ns then s.severity 1 else s

/-- The residency of the level in force brought up to date, in ms (R435). -/
def State.accrueLevel (s : State) : State :=
  let ms := s.quartz / 1000000 - s.ag.residency / 1000000
  let s := { s with ag.residency := s.quartz }
  if ms = 0 then s else s.sample 3 2 (s.get R.PWR_CUR_PL) 0 ms

end Sys2Proof.Machine
end

