-- ==== Sys2Proof/Machine/PkUnits.lean ====
section
/-! DEFINITION. The engines, lattice units and hand-off queues of the public-key clusters, and when they are in service (R157, R183, R184). -/
namespace Sys2Proof.Machine

/-- Unit `u` of public-key cluster `p`: engines 0-7, lattice unit 8. -/
def State.pkUnit (s : State) (p u : Nat) : PkUnit := Sparse.get {} s.pk.units (9 * p + u)

/-- The state with a unit changed. -/
def State.updPk (s : State) (p u : Nat) (f : PkUnit → PkUnit) : State := { s with pk.units := Sparse.upd {} s.pk.units (9 * p + u) f }

/-- The hand-off queue of a cluster: for the engines, or for its lattice unit. -/
def State.pkQueue (s : State) (p : Nat) (lattice : Bool) : List PkOp := Sparse.get [] s.pk.queues (2 * p + b2n lattice)

/-- The state with a hand-off queue replaced. -/
def State.setPkQueue (s : State) (p : Nat) (lattice : Bool) (q : List PkOp) : State :=
  { s with pk.queues := Sparse.set [] s.pk.queues (2 * p + b2n lattice) q }

/-- Does a cluster hold no operation and no hand-off? -/
def State.pkDrained (s : State) (p : Nat) : Bool :=
  (List.range 9).all (fun u => (s.pkUnit p u).ops.isEmpty) && (s.pkQueue p false).isEmpty && (s.pkQueue p true).isEmpty

/-- Are a cluster's lattice unit and an engine in service (R183)? -/
def State.pkUnitsUp (s : State) (p : Nat) : Bool :=
  (s.pkUnit p 8).svc.inService && (List.range 8).any (fun e => (s.pkUnit p e).svc.inService)

/-- PK_INSERVICE of a cluster as its units stand: its lattice unit and an engine in service, and not drained under FREEZE (R183, R184). -/
def State.settlePkCluster (s : State) (p : Nat) : State :=
  let up := s.pkUnitsUp p &&
    !(s.get (R.BLK_FREEZE (pgPK p)) == 1 && s.pkDrained p)
  let s := if s.bit R.GBL_PK_INSERVICE p && !up then s.severity 3 else s
  (s.setBit R.GBL_PK_INSERVICE p up).settleTake

/-- A unit whose test has passed enters service once Flint is ready (R184). -/
def State.settlePkUnit (s : State) (p u : Nat) : State :=
  let ok := (s.pkUnit p u).svc.passed && ((s.pkUnit p u).svc.inService || s.get R.FLT_READY == 1)
  (s.updPk p u fun x => { x with svc := { x.svc with inService := ok } }).settlePkCluster p

/-- A frozen cluster that has drained reports it (R184). -/
def State.settlePkFreeze (s : State) (p : Nat) : State :=
  let s := if s.get (R.BLK_FREEZE (pgPK p)) = 1 ∧ s.pkDrained p then s.raise (pgPK p) 4 else s
  s.settlePkCluster p

/-- Is this an elliptic-curve operation? -/
def PkWord.isEc (v : PkWord) : Bool := 1 ≤ v.oper && v.oper ≤ 6

/-- The parameter set or curve entry of an operation: of its stored key, else of SEL. -/
def pkSel (v : PkWord) (key : Option Key) : Nat := match key with | some k => k.sel | none => v.sel

/-- Does an operation hold the version of a curve entry that commit `c.2` replaced? -/
def PkOp.holdsOld (c : Nat × Nat) (o : PkOp) : Bool := o.word.isEc && pkSel o.word o.key == c.1 && decide (o.crvCommits < c.2)

/-- CURVE_STALE shows the entry whose replacement has waited longest (DESIGN CHOICE, log 189: a change set may replace several). -/
def State.showCurves (s : State) : State :=
  (s.set R.PK0_STALE_ENTRY ((s.pk.stale.map (·.1)).headD (s.get R.PK0_STALE_ENTRY))).set R.PK0_STALE_BUSY (b2n !s.pk.stale.isEmpty)

/-- A replaced curve entry is done once no operation handed off before its commit remains; STALE_BUSY clears with the last (R180). -/
def State.settleCurve (s : State) : State :=
  let held : Nat × Nat → Bool := fun c =>
    (s.pk.units.any fun e => e.2.ops.any (·.holdsOld c)) || (s.pk.queues.any fun e => e.2.any (·.holdsOld c))
  if s.pk.stale.all held then s else ({ s with pk.stale := s.pk.stale.filter held }).showCurves

/-- What the clusters settle after a hand-off has left a queue or an operation its unit. -/
def State.settlePk (s : State) (p : Nat) : State := (s.settlePkFreeze p).settleCurve

/-- `n` operations of a cluster aborted (R182, R185). -/
def State.countAborts (s : State) (p n : Nat) : State := s.set (R.PK_ABORT_CNT p) (satAdd 16 (s.get (R.PK_ABORT_CNT p)) n)

/-- The public-key units and queues let go of a context: what waits in a queue is removed, an operation aborted, and what a unit holds runs on without it
until it stops (R182). -/
def State.dropPk (s : State) (k : Nat) : State :=
  let drop := fun (o : PkOp) => if o.owner = some k then { o with owner := none } else o
  let queued := fun p => ((s.pkQueue p false ++ s.pkQueue p true).filter (·.owner == some k)).length
  let ps := (List.range 8).filter fun p => queued p != 0
  let t : State := { s with
    pk.units := Sparse.mapVals {} (fun _ u => { u with ops := u.ops.map drop }) s.pk.units
    pk.queues := Sparse.mapVals [] (fun _ q => q.filter fun o => o.owner ≠ some k) s.pk.queues }
  ps.foldl (fun t p => (t.countAborts p (queued p)).settlePk p) t

end Sys2Proof.Machine
end

