-- ==== Sys2Proof/Machine/Ending.lean ====
section
/-! DEFINITION. How a command ends: the completion entry and its write (R40, R45, R47), the coalesced interrupt (R59), the drained queue pair (R36), the zeroed context (R63) and the counts of the sequencer. -/
namespace Sys2Proof.Machine

/-! ## Status codes (Table 2.8) -/

def stOK : Nat := 0x00
def stBusyRetry : Nat := 0x01
def stKeyNotFound : Nat := 0x02
def stKeyOrphaned : Nat := 0x03
def stKeyUsageDenied : Nat := 0x04
def stAuthFail : Nat := 0x05
def stFormatError : Nat := 0x06
def stOperandRange : Nat := 0x07
def stPointInvalid : Nat := 0x08
def stCurveRejected : Nat := 0x09
def stRngNotReady : Nat := 0x0A
def stRngFailed : Nat := 0x0B
def stFaultDetected : Nat := 0x0C
def stEpochClosed : Nat := 0x0D
def stPartitionFrozen : Nat := 0x0E
def stAborted : Nat := 0x0F
def stModeRefused : Nat := 0x10
def stProgramDisabled : Nat := 0x11
def stQuotaExceeded : Nat := 0x12
def stFencePending : Nat := 0x13

/-- Is this one of the statuses 0x01-0x13, whose completions carry no result (R47)? -/
def refusing (status : Nat) : Bool := 1 ≤ status && status ≤ 0x13

/-- The 32-byte completion entry (Table 2.7). A status from 0x01 to 0x13 carries no result (R47). -/
def completionEntry (d : Descriptor) (e : Ending) (phase : Bool) (sqHead : Nat) : List Byte :=
  let rl := if refusing e.status then 0 else e.resultLen
  leBytes 4 d.hostTag ++ leBytes 1 e.status ++
  leBytes 1 (b2n phase + 2 * rl + 64 * b2n d.v1) ++ leBytes 1 e.cluster ++ [0] ++
  leBytes 4 (min e.serviceNs 0xFFFFFFFF) ++ leBytes 2 sqHead ++ leBytes 2 e.detail ++
  fitBytes 16 ((fitBytes 16 e.result).take rl)

/-! ## Queue pairs -/

/-- Commands of a queue pair that are fetched and not completed. -/
def State.inFlight (s : State) (p q : Nat) : Nat :=
  (s.hq.staged.filter (·.ofQp p q)).length +
  (s.running.filter fun e => match e.2.cmd with | some c => c.ofQp p q | none => false).length +
  (s.hq.fwdOut.filter (·.cmd.ofQp p q)).length + (s.hq.held.filter (·.cmd.ofQp p q)).length

/-- The in-device backlog B of a partition: its commands fetched and not completed (chapter 2, "Backlog, quota and overload"). -/
def State.backlog (s : State) (p : Nat) : Nat :=
  (s.hq.staged.filter (·.ofPart p)).length +
  (s.running.filter fun e => match e.2.cmd with | some c => c.ofPart p | none => false).length +
  (s.hq.fwdOut.filter (·.cmd.ofPart p)).length + (s.hq.held.filter (·.cmd.ofPart p)).length

/-- Entries of a CQ written and not yet released. -/
def QueuePair.unreleased (q : QueuePair) : Nat := (q.cqTail + (q.cqSize + 1) - q.cqHead) % (q.cqSize + 1)

/-- A DRAINING queue pair with nothing in flight becomes DISABLED (Table 2.4). -/
def State.settleQp (s : State) (p q : Nat) : State :=
  if (s.qp p q).qstate = .draining ∧ s.inFlight p q = 0 ∧ (s.qp p q).reading = 0 then
    s.updQp p q fun x => { x with qstate := .disabled, qerr := 0, fn := none, cqDoor := none, failed := false }
  else s

/-- A queue pair enters HALTED with a cause (Table 2.3): HQE INT_RAW bit 0 for partition 0, the QHALT event for every partition. -/
def State.haltQp (s : State) (p q err : Nat) : State :=
  let s := s.updQp p q fun x => { x with qstate := .halted, qerr := err }
  let s := if p = 0 then s.raise pgHQE 0 else s
  (s.severity 2).partEvent p 0

/-- The interrupt of a written completion: counted, and signalled at COAL_CNT, or at once where COAL_CNT is 0 or 1 (R59). -/
def State.coalesce (s : State) (p q : Nat) : State :=
  let x := s.qp p q
  let n := x.unsignalled + 1
  if n ≥ x.coalCnt then
    let s := s.updQp p q fun x => { x with unsignalled := 0, coalDue := none }
    match s.qpFunc p q with
    | some f => s.msixSend f x.vector
    | none => s
  else
    s.updQp p q fun x =>
      { x with unsignalled := n,
               coalDue := if x.coalDue.isNone ∧ x.coalTime > 0 then some (s.quartz + 100 * x.coalTime) else x.coalDue }

/-- Does a CQ head release an entry that is not written (R38)? -/
def QueuePair.overReleases (x : QueuePair) (v : Nat) : Bool :=
  x.cqSize < v || x.unreleased < (v + (x.cqSize + 1) - x.cqHead) % (x.cqSize + 1)

/-- What an ACTIVE pair recorded while fetching was not allowed is served (R38, R384): a tail or a CQ head out of range halts it, and so does a
descriptor read that failed meanwhile (R39; Table 2.4 halts no FROZEN pair). -/
def State.serveDoorbells (s : State) (p q : Nat) : State :=
  let x := s.qp p q
  if x.qstate ≠ .active then s
  else
    let s := s.updQp p q fun x => { x with cqDoor := none, failed := false, cqHead :=
      match x.cqDoor with
      | some v => if x.overReleases v then x.cqHead else v
      | none => x.cqHead }
    if x.failed then s.haltQp p q 3
    else if x.sqTail > x.sqSize then s.haltQp p q 1
    else if (x.cqDoor.map x.overReleases).getD false then s.haltQp p q 2
    else s

/-- Every pair's recorded doorbells served, as BOOT ends (R384). -/
def State.serveAllDoorbells (s : State) : State :=
  (s.hq.qps.map (·.1)).foldl (fun s k => s.serveDoorbells (k / 64) (k % 64)) s

/-- An ending as its completion write states it: SERVICE_NS runs to this moment (R24). -/
def State.timed (s : State) (e : Ending) : Ending :=
  match e.since with
  | some t => { e with serviceNs := s.quartz - t, since := none }
  | none => e

/-- A completion that no host will see, counted (R57). -/
def State.discardCompletion (s : State) : State := ((s.countSat R.HQE_DISCARD_CNT).raise pgHQE 4).severity 3

/-- A failed completion write (R39): reported through AER, and QERR 4 of an ACTIVE pair; Table 2.4 has no other pair halt. -/
def State.failCompletion (s : State) (c : Cmd) : State :=
  let s := s.reportWrite (s.qpFunc c.part c.qp)
  if (s.qp c.part c.qp).qstate = .active then s.haltQp c.part c.qp 4 else s

/-- How a completion write goes: as its command says, else as the host takes it, which is free (R39, log 227). -/
def State.writeOutcome (s : State) (ok : Option Bool) : Bool × State :=
  match ok with
  | some b => (b, s)
  | none => (Config.hostTakes s.frees, { s with frees := s.frees + 1 })

/-- The completion write of a queue pair's command (R40, R39, R57): discarded on a lost link, reported where it fails, else written at
the CQ tail with the phase of the pass, then signalled (R24, R59); Agate samples
the latency of a completion written (R434). -/
def State.writeCompletion (s : State) (ok : Option Bool) (c : Cmd) (e : Ending) : State :=
  let x := s.qp c.part c.qp
  let (ok, s) := s.writeOutcome ok
  let s :=
    match x.qstate, s.qpFunc c.part c.qp, ok with
    | .linkLost, _, _ | _, none, _ => s.discardCompletion
    | _, some _, false => s.failCompletion c
    | _, some f, true =>
      let s := (s.crossPort f).emit (.completion f (x.cqBase + 32 * x.cqTail) (completionEntry c.desc (s.timed e) x.phase x.sqHead))
      let s := match c.fetched with | some t => s.sampleLatency c.part (s.quartz - t) | none => s
      let wrap := x.cqTail ≥ x.cqSize
      let s := s.updQp c.part c.qp fun x =>
        { x with cqTail := if wrap then 0 else x.cqTail + 1, phase := if wrap then !x.phase else x.phase }
      if x.intEn ∧ ¬ c.desc.noInt then s.coalesce c.part c.qp else s
  s.settleQp c.part c.qp

/-! ## Aborts by tag (R56) -/

/-- The commands an abort of partition `p` still waits for. -/
def State.marksLeft (s : State) (p : Nat) : Nat :=
  (s.hq.staged.filter fun c => c.ofPart p && c.marked).length +
  (s.running.filter fun e => match e.2.cmd with | some c => c.ofPart p && c.marked | none => false).length +
  (s.hq.fwdOut.filter fun x => x.cmd.ofPart p && x.cmd.marked).length +
  (s.hq.held.filter fun x => x.cmd.ofPart p && x.cmd.marked).length

/-- An abort with no matched command left reports its result: 2 for none aborted, 1 for one, 3 for more (R56). -/
def State.settleAbort (s : State) (p : Nat) : State :=
  if (s.part p).abortBusy ∧ s.marksLeft p = 0 then
    s.updPart p fun x =>
      { x with abortBusy := false,
               abortResult := if x.abortCount = 0 then 2 else if x.abortCount = 1 then 1 else 3 }
  else s

/-- A matched command has completed: those aborted by it are counted, and the last one gives ABORT_RESULT (R56). -/
def State.abortDone (s : State) (c : Cmd) (e : Ending) : State :=
  let s :=
    if c.marked ∧ e.status = stAborted ∧ e.detail = 1 then
      s.updPart c.part fun x => { x with abortCount := min 255 (x.abortCount + 1) }
    else s
  s.settleAbort c.part

/-- A completion as it is written: the partition's window count, of commands that passed the checks of R43 (R51, DEDUCED from the worked
example, log 26), and the abort it may belong to (R56). -/
def State.complete (s : State) (ok : Option Bool) (c : Cmd) (e : Ending) : State :=
  let s := if e.status = stFaultDetected ∨ e.status = stRngFailed then s.severity 3 else s
  let s := s.writeCompletion ok c e
  let s := if c.fetched.isNone then s else s.updPart c.part fun x => { x with winDone := x.winDone + 1 }
  s.abortDone c e

/-- A command that has ended is answered: to the peer that forwarded it (R376), or by its completion. -/
def State.answer (s : State) (ok : Option Bool) (c : Cmd) (e : Ending) : State :=
  match c.peer with
  | some (link, tag) => s.sendOn link (.peerAnswer link tag (s.timed e))
  | none => s.complete ok c e

/-- Held completions are written, and answers held with them sent (R344). -/
def State.releaseHeld (s : State) (hit : Held → Bool) : State :=
  let go := s.hq.held.filter hit
  let s : State := { s with hq.held := s.hq.held.filter fun h => !hit h }
  go.foldl (fun s h => s.answer h.ok h.cmd h.ending) s

/-- Does the answer to a command wait for the standby to acknowledge delta `d`, which the command produced: SYNC is SYNCED, the acknowledgement is
out (R344), and no lost link discards it at once (R57)? -/
def State.waitsFor (s : State) (c : Cmd) (d : Nat) : Bool :=
  s.get R.PAIR_SYNC == 2 && s.pr.unacked.any (·.1 == d) && (c.peer.isSome || (s.qp c.part c.qp).qstate != .linkLost)

/-- The end of a command that has already left its buffer or context: its answer, now or once the standby has acknowledged the delta it produced
(R344). -/
def State.finish (s : State) (ok : Option Bool) (c : Cmd) (e : Ending) (delta : Option Nat := none) : State :=
  match delta.filter (s.waitsFor c) with
  | some d => { s with hq.held := s.hq.held ++ [⟨c, e, d, ok⟩] }
  | none => s.answer ok c e

/-! ## Commands that run -/

/-- Units that serve a context let go of it: an executing operation runs on with its results discarded, a waiting one is removed
(R100, R149). -/
def dropOwner (k : Nat) (o : Option UnitOp) : Option UnitOp :=
  o.map fun x => if x.owner = some k then { x with owner := none } else x

/-- A waiting operation of a context is removed without starting (R149). -/
def dropWaiting (k : Nat) (o : Option UnitOp) : Option UnitOp :=
  o.filter fun x => x.owner ≠ some k

/-- The append being written runs on without its command; one that waits is removed. -/
def dropAppends (k : Nat) : List Append → List Append
  | [] => []
  | a :: as => (if a.owner = some k then { a with owner := none } else a) :: as.filter (fun x => x.owner ≠ some k)

/-- A lane lets go of a context. A buffer of a waiting operation that is removed is zeroed (R149). -/
def Lane.letGo (k : Nat) (l : Lane) : Lane :=
  let w := dropWaiting k l.wait
  { l with exec := dropOwner k l.exec, wait := w, bufWait := if w.isSome then l.bufWait else none }

/-- The lanes, hash units, public-key units, the gate and the journal let go of a context. -/
def State.dropOps (s : State) (k : Nat) : State :=
  let lanes := Sparse.mapVals {} (fun _ l => l.letGo k) s.ci.lanes
  let hash := Sparse.mapVals {} (fun _ h =>
    match h.queue with
    | [] => h
    | o :: os => { h with queue := (if o.owner = some k then { o with owner := none } else o) ::
                                     os.filter (fun x => x.owner ≠ some k) }) s.ci.hash
  { s.dropPk k with
    ci.lanes := lanes, ci.hash := hash
    ci.moved := Sparse.mapVals [] (fun _ os => os.filter fun o => o.owner ≠ some k) s.ci.moved
    ge.fences := s.ge.fences.map (fun f => if f.ctx = some k then { f with ctx := none } else f)
    gt.verifying := s.gt.verifying.filter fun a => a.ctx ≠ k
    jr.queue := dropAppends k s.jr.queue }

/-- Does some context still run a replaced image of a slot (R90)? -/
def State.staleRuns (s : State) (slot : Nat) : Bool :=
  s.running.any fun e =>
    match e.2.cmd with
    | some c => c.desc.program == slot && e.2.imageCommits != (Sparse.get {} s.sq.progs slot).commits
    | none => false

/-- SEQ_STALE shows the slot whose replacement has waited longest (DESIGN CHOICE, log 179: a change set may replace several). -/
def State.showStale (s : State) : State :=
  (s.set R.SEQ0_STALE_SLOT (s.sq.stale.headD (s.get R.SEQ0_STALE_SLOT))).set R.SEQ0_STALE_BUSY (b2n !s.sq.stale.isEmpty)

/-- The replacements whose last context of the old image has ended are complete: SEQ0 INT_RAW bit 4 is set, and SEQ_STALE reads done once none waits
(R90). -/
def State.settleStale (s : State) : State :=
  if s.sq.stale.all s.staleRuns then s
  else ({ s with sq.stale := s.sq.stale.filter s.staleRuns }).showStale.raise (pgSEQ 0) 4

/-- A cluster under FREEZE whose last context has ended is drained: INT_RAW bit 3 (R104). -/
def State.settleSeq (s : State) (n : Nat) : State :=
  if s.get (R.BLK_FREEZE (pgSEQ n)) = 1 ∧ (s.busyIn n).isEmpty then s.raise (pgSEQ n) 3 else s

/-- The zeroing of the output area of a refused command that wrote there, or failed an authentication (R47, R99): none for an inline result, none on a
lost link. -/
def State.zeroOutput (s : State) (c : Cmd) (status : Nat) (wrote : Bool) : State :=
  if ¬ (wrote ∨ status = stAuthFail) ∨ c.desc.outInline ∨ c.desc.outLen = 0 ∨ (s.qp c.part c.qp).qstate = .linkLost ∨ c.peer.isSome then s
  else if isWindow c.desc.outAddr then
    (if s.windowFits c.part c.desc.outAddr c.desc.outLen then (s.dmaWrite (s.dmaMpu c) c.part (s.windowAddr c.part c.desc.outAddr) (zeros c.desc.outLen)).1
     else s)
  else match s.qpFunc c.part c.qp with
    | some f => (s.crossPort f).emit (.hostZero f c.desc.outAddr c.desc.outLen)
    | none => s

/-- The instruction a context executes: the stream instruction under way, else the one at PC. -/
def Context.atPc (x : Context) : Nat := (x.run.map (·.pc)).getD x.pc

/-- The slot whose image a program slot runs: a compatibility slot runs its partner's (R117). -/
def runSlot (slot : Nat) : Nat := if 0x40 ≤ slot ∧ slot < 0x100 then slot + 0x100 else slot

/-- The descriptor a context serves. -/
def Context.desc (x : Context) : Descriptor := (x.cmd.getD {}).desc

/-- An input byte: zero at or above IN_LEN. -/
def Context.inByte (x : Context) (o : Nat) : Byte := if o < x.desc.inLen then x.input.getD o 0 else 0

/-- The listing of a shipped program the spec lists, class and issue slots of each instruction: 0x140 (Table 3.13) and 0x1A2 (Table 3.14), whose CMAC
takes two slots and one for every 32 bytes of transaction data. -/
def listing (x : Context) : List (Nat × Nat) :=
  let load := (0x0, 1)
  if runSlot x.desc.program = 0x140 then
    [load, load, load, (0x2, 4), (0x2, 4), (0x3, 1), (0x9, 1), (0x5, 64), (0x5, 64), (0x5, 64), (0x3, 1), (0x3, 1), (0x1, 1), (0xB, 2)]
  else if runSlot x.desc.program = 0x1A2 then
    List.replicate 7 load ++ [(0x2, 4), (0x6, 68), (0x6, 68), (0x3, 2 + ((x.inByte 20).toNat + 31) / 32), (0x7, 1), (0x8, 1), (0x3, 1), (0x1, 1),
      (0xB, 2), (0xB, 2)]
  else []

/-- The instructions a listed program has run when it has come to instruction `pc`: all up to it, or of 0x1A2's last those of the mismatch path. -/
def listedPath (slot pc : Nat) : List Nat := if slot = 0x1A2 ∧ pc = 16 then List.range 13 ++ [16] else List.range (pc + 1)

/-- The counts a sequencer keeps of an ended command (Table 3.11); where a shipped program ended that the spec does not list is free. LAST_PC and LAST_CLASS are those of the
instruction the context executes, also for an ending that no instruction caused (DESIGN CHOICE, log 180). -/
def State.countEnding (s : State) (k : Nat) (x : Context) (c : Cmd) (status detail : Nat) : State :=
  let n := clusterOf k
  let s := s.count (R.SEQ_DONE_CNT n)
  if refusing status then
    let free := fun what => Config.programWork what c.desc.program s.frees
    let l := listing x
    let known := !x.image.code.isEmpty || !l.isEmpty
    let cls := if x.image.code.isEmpty then (l[x.atPc]?.map (·.1)).getD 0 else (x.image.code[x.atPc]?.map (·.cls)).getD 0
    let s := s.set (R.SEQ_LAST_PC n) (if known then x.atPc else free 2)
    let s := s.set (R.SEQ_LAST_CLASS n) (if known then cls else free 3)
    let s : State := if known then s else { s with frees := s.frees + 1 }
    let s := s.set (R.SEQ_LAST_STATUS n) status
    let s := s.set (R.SEQ_LAST_CTX n) (k % 64)
    let s := s.set (R.SEQ_LAST_PROGRAM n) c.desc.program
    if status = stAborted ∧ detail = 4 then (s.countSat (R.SEQ_MABORT_CNT n)).raise (pgSEQ n) 0
    else if status = stFaultDetected then s.countSat (R.SEQ_FAULT_CNT n)
    else s
  else s

/-- A running command ends (R63, R98-R103): its output area is zeroed under R47 and R99, its units let go of it, the places it frees take moved operations (R147), its context is zeroed
with its key slots and ephemeral keys, the sequencer counts it, its completion goes out, and its island may be idle from now on (R327). -/
def State.endCommand (s : State) (k : Nat) (status detail : Nat) (resultLen : Nat := 0) (ok : Option Bool := none) : State :=
  let x := s.ctx k
  match x.cmd with
  | none => s
  | some c =>
    let s := if refusing status then s.zeroOutput c status x.wrote else s
    let s := s.dropOps k
    let s := s.countEnding k x c status detail
    let s := s.setCtx k {}
    let e : Ending := { status, detail, resultLen, result := x.result, cluster := clusterOf k, since := some (c.fetched.getD x.started) }
    let s := (s.seatMoved (clusterOf k) 4).finish ok c e x.delta
    (s.settleStale.settleSeq (clusterOf k)).touch (clusterOf k)

/-- A staged command completes without having been dispatched: CLUSTER 0x1F. SERVICE_NS is 0 whatever ended it (DESIGN CHOICE, log 171: R43 says so
of the commands it refuses, and R24's steps 4 to 9 are those of a command that is dispatched). -/
def State.endStaged (s : State) (c : Cmd) (status detail : Nat) : State :=
  s.finish none c { status, detail }

end Sys2Proof.Machine
end

