-- ==== Sys2Proof/Machine/DerTable.lean ====
section
/-! DEFINITION. The derivation table's entries, shipped and committed, and the lane blocks each takes (R113, R116). -/
namespace Sys2Proof.Machine

/-! ## Entries (R113, R116) -/

/-- A derivation-table entry (Table 4.4); `template` holds NIB selectors. -/
structure DerEntry where
  kind : Nat := 0
  parentClass : Nat := 0
  outClass : Nat := 0
  outLen : Nat := 0
  nblk : Nat := 0
  flags : Nat := 0
  usage : Nat := 0
  template : List Nat := []
deriving DecidableEq, Repr

/-- The entry of its 128 bytes. -/
def readDer (bs : List Byte) : DerEntry :=
  { kind := byteAt bs 1, parentClass := byteAt bs 2, outClass := byteAt bs 3, outLen := byteAt bs 4, nblk := byteAt bs 6,
    flags := byteAt bs 7, usage := leNat (slice 8 2 bs) % 2 ^ 14,
    template := (slice 16 (min (byteAt bs 5) 64) bs).map (·.toNat) }

/-- Selectors of constant bytes. -/
def selConst (bs : List Nat) : List Nat := bs.flatMap fun b => [b / 16, b % 16]

/-- Selectors of bytes `first` to `first + n - 1` of A. -/
def selA (first n : Nat) : List Nat := (List.range (2 * n)).map (0x40 + 2 * first + ·)

/-- Selectors of the same bytes complemented. -/
def selNotA (first n : Nat) : List Nat := (List.range (2 * n)).map (0xC0 + 2 * first + ·)

/-- Selectors of bytes of B. -/
def selB (first n : Nat) : List Nat := (List.range (2 * n)).map (0x80 + 2 * first + ·)

/-- One block of an AES DUKPT derivation of `bits` bits: counter, key usage, algorithm, length, then bytes 0-7 of A. -/
def dukptData (counter u1 u2 bits : Nat) : List Nat :=
  selConst [1, counter, u1, u2, 0, if bits = 128 then 2 else 4, if bits = 128 then 0 else 1, if bits = 128 then 0x80 else 0] ++ selA 0 8

/-- An AES DUKPT entry. -/
def dukptEntry (u1 u2 bits usage : Nat) : DerEntry :=
  { kind := 1, parentClass := 2, outClass := 2, outLen := bits / 8, nblk := bits / 128, usage,
    template := (List.range (bits / 128)).flatMap fun i => dukptData (i + 1) u1 u2 bits }

/-- A key block version D entry: usage 0 encryption, 1 authentication; `alg` 2, 3 or 4 for 128, 192 or 256 bits. -/
def keyBlockEntry (u alg : Nat) : DerEntry :=
  let n := if alg = 2 then 1 else 2
  { kind := 2, parentClass := 2, outClass := 2, outLen := 8 * alg, nblk := n, usage := if u = 0 then 3 else 0x30,
    template := (List.range n).flatMap fun i =>
      selConst [i + 1, 0, u, 0, 0, alg, if alg = 4 then 1 else 0, if alg = 2 then 0x80 else if alg = 3 then 0xC0 else 0] }

/-- A key block version B entry. -/
def keyBlockTdes (u : Nat) : DerEntry :=
  { kind := 2, parentClass := 1, outClass := 1, outLen := 16, nblk := 2, usage := if u = 0 then 3 else 0x30,
    template := [1, 2].flatMap fun i => selConst [i, 0, u, 0, 0, 0, 0, 0x80] }

/-- A TDES variant entry of a 16-byte mask. -/
def variantEntry (usage : Nat) (mask : List Nat) : DerEntry :=
  { kind := 6, parentClass := 1, outClass := 1, outLen := 16, usage, template := selConst mask }

/-- The shipped entries (Tables 4.6 and 4.14). Usage bits: encrypt 0x001, decrypt 0x002, MAC-generate 0x010, MAC-verify 0x020,
PIN-translate 0x040, PIN-verify 0x080, derive 0x100. -/
def shippedDer : Nat → DerEntry
  | 0x00 => dukptEntry 0x80 0x01 128 0x100
  | 0x01 => dukptEntry 0x80 0x01 256 0x100
  | 0x02 => dukptEntry 0x80 0x00 128 0x100
  | 0x03 => dukptEntry 0x80 0x00 256 0x100
  | 0x04 => dukptEntry 0x10 0x00 128 0x0C0
  | 0x05 => dukptEntry 0x20 0x00 128 0x010
  | 0x06 => dukptEntry 0x20 0x01 128 0x020
  | 0x07 => dukptEntry 0x30 0x01 128 0x002
  | 0x08 => dukptEntry 0x10 0x00 256 0x0C0
  | 0x09 => dukptEntry 0x20 0x00 256 0x010
  | 0x0A => dukptEntry 0x20 0x01 256 0x020
  | 0x0B => dukptEntry 0x30 0x01 256 0x002
  | 0x10 => { kind := 1, parentClass := 1, outClass := 1, outLen := 16, nblk := 2, flags := 0x09, usage := 0x100,
              template := selA 0 8 ++ selA 0 8 }
  | 0x11 => { kind := 4, parentClass := 1, outClass := 1, outLen := 16, usage := 0x100, template := selA 0 8 }
  | 0x12 => variantEntry 0x0C0 [0, 0, 0, 0, 0, 0, 0, 0xFF, 0, 0, 0, 0, 0, 0, 0, 0xFF]
  | 0x13 => variantEntry 0x030 [0, 0, 0, 0, 0, 0, 0xFF, 0, 0, 0, 0, 0, 0, 0, 0xFF, 0]
  | 0x14 => variantEntry 0x003 [0, 0, 0, 0, 0, 0xFF, 0, 0, 0, 0, 0, 0, 0, 0xFF, 0, 0]
  | 0x18 => { kind := 1, parentClass := 2, outClass := 2, outLen := 16, nblk := 1, usage := 0x100, template := selA 0 8 ++ selNotA 0 8 }
  | 0x19 => { kind := 1, parentClass := 1, outClass := 1, outLen := 16, nblk := 2, flags := 1, usage := 0x100,
              template := selA 0 8 ++ selNotA 0 8 }
  | 0x20 => { kind := 1, parentClass := 2, outClass := 2, outLen := 16, nblk := 1, usage := 0x031,
              template := selA 0 2 ++ selConst (0xF0 :: List.replicate 13 0) }
  | 0x21 => { kind := 1, parentClass := 1, outClass := 1, outLen := 16, nblk := 2, flags := 1, usage := 0x031,
              template := selA 0 2 ++ selConst (0xF0 :: List.replicate 5 0) ++ selA 0 2 ++ selConst (0x0F :: List.replicate 5 0) }
  | 0x28 => { kind := 5, parentClass := 1, outClass := 1, outLen := 16, usage := 0x003 }
  | 0x29 => { kind := 5, parentClass := 1, outClass := 1, outLen := 16, flags := 2, usage := 0x003 }
  | 0x30 => keyBlockEntry 0 2
  | 0x31 => keyBlockEntry 1 2
  | 0x32 => keyBlockEntry 0 3
  | 0x33 => keyBlockEntry 1 3
  | 0x34 => keyBlockEntry 0 4
  | 0x35 => keyBlockEntry 1 4
  | 0x36 => keyBlockTdes 0
  | 0x37 => keyBlockTdes 1
  | 0x38 => variantEntry 0x003 (List.replicate 16 0x45)
  | 0x39 => variantEntry 0x030 (List.replicate 16 0x4D)
  | 0x3C => { kind := 2, parentClass := 2, outClass := 2, outLen := 32, nblk := 2, usage := 0x133,
              template := [1, 2].flatMap fun i => selConst [i] ++ selA 0 13 ++ selConst [1, 0] }
  | 0x3D => { kind := 3, parentClass := 3, outClass := 3, outLen := 32, nblk := 1, usage := 0x130,
              template := selConst [1] ++ selA 0 16 ++ selB 0 13 ++ selConst [1, 0] }
  | _ => {}

/-- The entry a command's DERIVE uses: a Kolulen one, or the integrator's as it stood at the command's dispatch (R108). -/
def State.derEntry (s : State) (x : Context) (i : Nat) : DerEntry :=
  if i < 64 then shippedDer i
  else
    let now := Sparse.get [] s.sq.derTab i
    readDer (if x.derCommits = s.sq.derCommits then now else (Sparse.get none s.sq.derPrev i).getD now)

/-- Lane blocks of a derivation (column k of Table 4.5). -/
def DerEntry.blocks (e : DerEntry) : Nat :=
  let s := if e.nblk = 0 then 0 else e.template.length / e.nblk
  let b := if e.parentClass = 1 then 16 else 32
  match e.kind with
  | 1 | 7 => e.nblk
  | 2 => e.nblk * (1 + (s + b - 1) / b)
  | 4 => 4
  | _ => 0

end Sys2Proof.Machine
end

