-- ==== Sys2Proof/Machine/Keccak.lean ====
section
/-! DEFINITION. SHA-3 and SHAKE (FIPS 202) and KMAC (NIST SP 800-185), named by Table 0.4. PRESUMED from the standards. -/
namespace Sys2Proof.Machine

/-- The round constants of Keccak-f[1600]. -/
def keccakRC : List Nat :=
  [0x1, 0x8082, 0x800000000000808A, 0x8000000080008000, 0x808B, 0x80000001] ++
  [0x8000000080008081, 0x8000000000008009, 0x8A, 0x88, 0x80008009, 0x8000000A] ++
  [0x8000808B, 0x800000000000008B, 0x8000000000008089, 0x8000000000008003, 0x8000000000008002, 0x8000000000000080] ++
  [0x800A, 0x800000008000000A, 0x8000000080008081, 0x8000000000008080, 0x80000001, 0x8000000080008008]

/-- The rotation of each lane, lane x + 5y. -/
def keccakRot : List Nat := [0, 1, 62, 28, 27, 36, 44, 6, 55, 20, 3, 10, 43, 25, 39, 41, 45, 15, 21, 8, 18, 2, 61, 56, 14]

/-- Rotation left of a 64-bit lane. -/
def rotl64 (n x : Nat) : Nat := (x * 2 ^ n) % 2 ^ 64 + x / 2 ^ (64 - n)

/-- One round of Keccak-f[1600] on 25 lanes. -/
def keccakRound (a : List Nat) (rc : Nat) : List Nat :=
  let c := (List.range 5).map fun x => (List.range 5).foldl (fun acc y => acc ^^^ a.getD (x + 5 * y) 0) 0
  let d := (List.range 5).map fun x => c.getD ((x + 4) % 5) 0 ^^^ rotl64 1 (c.getD ((x + 1) % 5) 0)
  let a := (List.range 25).map fun i => a.getD i 0 ^^^ d.getD (i % 5) 0
  let b := (List.range 25).map fun i =>
    let x := i % 5
    let y := i / 5
    let src := (x + 3 * y) % 5 + 5 * x
    rotl64 (keccakRot.getD src 0) (a.getD src 0)
  let a := (List.range 25).map fun i =>
    let x := i % 5
    let y := i / 5
    b.getD i 0 ^^^ ((2 ^ 64 - 1 - b.getD ((x + 1) % 5 + 5 * y) 0) &&& b.getD ((x + 2) % 5 + 5 * y) 0)
  a.set 0 (a.getD 0 0 ^^^ rc)

/-- The permutation Keccak-f[1600]. -/
def keccakF (a : List Nat) : List Nat := keccakRC.foldl keccakRound a

/-- One block of `rate` bytes absorbed. -/
def keccakAbsorb (rate : Nat) (a : List Nat) (block : List Byte) : List Nat :=
  keccakF ((List.range 25).map fun i => a.getD i 0 ^^^ (if 8 * i < rate then leNat (slice (8 * i) 8 block) else 0))

/-- `n` blocks of `rate` bytes squeezed. -/
def keccakSqueeze (rate : Nat) : Nat → List Nat → List Byte
  | 0, _ => []
  | n + 1, a => (a.flatMap (leBytes 8)).take rate ++ keccakSqueeze rate n (keccakF a)

/-- The sponge: the message with a domain suffix byte, padded, absorbed and squeezed to `out` bytes. -/
def keccak (rate : Nat) (suffix : Byte) (out : Nat) (m : List Byte) : List Byte :=
  let z := (rate - (m.length + 1) % rate) % rate
  let padded := if z = 0 then m ++ [suffix ||| 0x80#8] else m ++ [suffix] ++ zeros (z - 1) ++ [0x80#8]
  let n := padded.length / rate
  let a := (List.range n).foldl (fun a i => keccakAbsorb rate a (slice (rate * i) rate padded)) (List.replicate 25 0)
  (keccakSqueeze rate ((out + rate - 1) / rate) a).take out

def sha3_256 (m : List Byte) : List Byte := keccak 136 0x06#8 32 m
def sha3_384 (m : List Byte) : List Byte := keccak 104 0x06#8 48 m
def sha3_512 (m : List Byte) : List Byte := keccak 72 0x06#8 64 m
def shake128 (out : Nat) (m : List Byte) : List Byte := keccak 168 0x1F#8 out m
def shake256 (out : Nat) (m : List Byte) : List Byte := keccak 136 0x1F#8 out m

/-- The bytes of a number, most significant first, at least one. -/
def minBytes (v : Nat) : List Byte := if v < 256 then beBytes 1 v else if v < 65536 then beBytes 2 v else beBytes 3 v

/-- left_encode of SP 800-185. -/
def leftEncode (v : Nat) : List Byte := leBytes 1 (minBytes v).length ++ minBytes v

/-- right_encode of SP 800-185. -/
def rightEncode (v : Nat) : List Byte := minBytes v ++ leBytes 1 (minBytes v).length

/-- encode_string of SP 800-185. -/
def encodeString (bs : List Byte) : List Byte := leftEncode (8 * bs.length) ++ bs

/-- bytepad of SP 800-185. -/
def bytepad (w : Nat) (bs : List Byte) : List Byte :=
  let x := leftEncode w ++ bs
  x ++ zeros ((w - x.length % w) % w)

/-- KMAC with a rate: key, message, output bytes, customisation string. "KMAC" is the function name. -/
def kmac (rate : Nat) (key m : List Byte) (out : Nat) (custom : List Byte) : List Byte :=
  keccak rate 0x04#8 out
    (bytepad rate (encodeString [0x4B#8, 0x4D#8, 0x41#8, 0x43#8] ++ encodeString custom) ++
      bytepad rate (encodeString key) ++ m ++ rightEncode (8 * out))

def kmac128 (key m : List Byte) (out : Nat) (custom : List Byte) : List Byte := kmac 168 key m out custom
def kmac256 (key m : List Byte) (out : Nat) (custom : List Byte) : List Byte := kmac 136 key m out custom

end Sys2Proof.Machine
end

