-- ==== Sys2Proof/Machine/Operands.lean ====
section
/-! DEFINITION. The operand forms of the sequencer's instructions: V and S registers, the offset register of MOD[4], input-buffer and output-area bytes, the word an instruction is encoded in, and when a context is ready to issue it (R64-R66, R68, R91). -/
namespace Sys2Proof.Machine

/-! ## The instruction word (Table 3.2) -/

/-- The 64-bit word of an instruction. -/
def encodeCode (c : Code) : Nat :=
  c.w.imm.toNat + 2 ^ 32 * c.w.modi.toNat + 2 ^ 40 * c.w.kd.val + 2 ^ 42 * c.w.ka.val + 2 ^ 44 * c.w.b.val +
  2 ^ 48 * c.w.a.val + 2 ^ 52 * c.w.d.val + 2 ^ 56 * c.op + 2 ^ 60 * c.cls

/-- The instruction a 64-bit word holds. -/
def decodeCode (v : Nat) : Code :=
  { cls := bitsOf v 60 4, op := bitsOf v 56 4,
    w := { d := Fin.ofNat 16 (bitsOf v 52 4), a := Fin.ofNat 16 (bitsOf v 48 4), b := Fin.ofNat 16 (bitsOf v 44 4),
           ka := Fin.ofNat 4 (bitsOf v 42 2), kd := Fin.ofNat 4 (bitsOf v 40 2), modi := BitVec.ofNat 8 (bitsOf v 32 8),
           imm := BitVec.ofNat 32 v } }

/-- Bits of the immediate. -/
def immBits (w : Insn) (lsb n : Nat) : Nat := bitsOf w.imm.toNat lsb n

/-- A bit of the modifier. -/
def modBit (w : Insn) (i : Nat) : Bool := bitOf w.modi.toNat i

/-- Bits of the modifier. -/
def modBits (w : Insn) (lsb n : Nat) : Nat := bitsOf w.modi.toNat lsb n

/-! ## Registers of a context -/

/-- A V register: sixteen bytes. -/
def Context.vr (x : Context) (i : Nat) : List Byte := fitBytes 16 (x.v.getD i [])

/-- The context with a V register's bytes replaced: bytes beyond the sixteenth are dropped, missing ones are zero (R68). -/
def Context.putV (x : Context) (i : Nat) (bs : List Byte) : Context := { x with v := x.v.set i (fitBytes 16 bs) }

/-- The next instruction of a context is the last that writes these V registers: an earlier one whose result is still to come writes them no more, since
instructions retire in program order (R91). -/
def Context.claim (x : Context) (rs : List Nat) : Context :=
  { x with writes := rs.foldl (fun m r => Sparse.set 0 m r x.retired) x.writes }

/-- May instruction `num` of a context still write a V register: does no later one write it? -/
def Context.mayWrite (x : Context) (num r : Nat) : Bool := Sparse.get 0 x.writes r ≤ num

/-- The context with a V register written by its next instruction. -/
def Context.setV (x : Context) (i : Nat) (bs : List Byte) : Context := (x.claim [i]).putV i bs

/-- The context with a result of instruction `num` in a V register, unless a later instruction writes it. -/
def Context.land (x : Context) (num : Nat) (r : Nat × List Byte) : Context := if x.mayWrite num r.1 then x.putV r.1 r.2 else x

/-- An S register. -/
def Context.sr (x : Context) (i : Nat) : Nat := (x.sreg.getD i 0).toNat

/-- The context with an S register written, modulo 2^32. -/
def Context.setS (x : Context) (i v : Nat) : Context := { x with sreg := x.sreg.set i (BitVec.ofNat 32 v) }

/-- A key slot. -/
def Context.slot (x : Context) (i : Nat) : Option KeySlot := (x.keys.getD i none).filter (!·.building)

/-- The context with a key slot set. -/
def Context.setSlot (x : Context) (i : Nat) (k : Option KeySlot) : Context := { x with keys := x.keys.set i k }

/-- The context with a key slot loaded by FETCH or emptied by RELEASE: an open stream of that slot is discarded (R133 rule 3). -/
def Context.bindSlot (x : Context) (i : Nat) (k : Option KeySlot) : Context :=
  { x.setSlot i k with stream := x.stream.filter fun r => r.slot ≠ i }

/-- Consecutive V registers as one byte string. -/
def Context.vRange (x : Context) (first n : Nat) : List Byte := (List.range n).flatMap fun i => x.vr (first + i)

/-- The context with a byte string written to consecutive V registers, sixteen bytes to a register, `n` registers in all. -/
def Context.setVRange (x : Context) (first n : Nat) (bs : List Byte) : Context :=
  (List.range n).foldl (fun x i => x.setV (first + i) (slice (16 * i) 16 bs)) x

/-- An offset of a LOAD or STORE: the immediate, plus the offset register where MOD[4] is 1, modulo 2^24 (R68). -/
def Context.offset (x : Context) (w : Insn) (imm reg : Nat) : Nat :=
  (imm + if modBit w 4 then x.sr reg else 0) % 2 ^ 24

/-! ## Input and output (R64, R65) -/

/-- The partition a context serves. -/
def Context.part (x : Context) : Nat := (x.cmd.getD {}).part

/-- The base of the chunk the input buffer holds: 0 until IP has passed byte 4,095. -/
def Context.chunkBase (x : Context) : Nat := if x.ip < 4096 then 0 else x.ip / 4096 * 4096

/-- A byte of the input buffer: zero at a buffer offset of 4,096 or above (R64). -/
def Context.bufByte (x : Context) (o : Nat) : Byte := if o < 4096 then x.inByte (x.chunkBase + o) else 0

/-- Bytes of the input buffer. -/
def Context.bufBytes (x : Context) (o n : Nat) : List Byte := (List.range n).map fun i => x.bufByte (o + i)

/-- Bytes of the input stream. -/
def Context.inBytes (x : Context) (o n : Nat) : List Byte := (List.range n).map fun i => x.inByte (o + i)

/-- Has the input been received up to an offset? -/
def Context.has (x : Context) (upTo : Nat) : Bool := min upTo x.desc.inLen ≤ x.input.length || x.desc.inInline

/-- `n` input bytes from IP on, taken by an instruction that needs them all: what has been received is taken at once and IP moves past it, and the
instruction waits for the rest (R64). `use` runs with the bytes and the context whose IP is past them. -/
def State.gather (s : State) (k : Nat) (x : Context) (n : Nat) (use : List Byte → Context → Result) : Result :=
  let left := n - x.gathered.length
  if x.has (x.ip + left) then use (x.gathered ++ x.inBytes x.ip left) { x with ip := (x.ip + left) % 2 ^ 24, gathered := [] }
  else
    let got := x.input.length - x.ip
    .next (s.setCtx k { x with gathered := x.gathered ++ x.inBytes x.ip got, ip := x.ip + got, wait := .chunk })

/-- Where the input of an instruction that gathers it begins. -/
def Context.startIp (x : Context) : Nat := x.ip - x.gathered.length

/-! ## Readiness (R91) -/

/-- The lane operations of every cluster, those that wait for a lane among them. -/
def State.laneOps (s : State) : List UnitOp :=
  (s.ci.lanes.flatMap fun e => e.2.exec.toList ++ e.2.wait.toList) ++ s.ci.moved.flatMap (·.2)

/-- The operations of a context that the lanes and the hash unit still hold. -/
def State.outstanding (s : State) (k : Nat) : List UnitOp :=
  (s.laneOps ++ s.ci.hash.flatMap (·.2.queue)).filter (·.owner == some k)

/-- Lane operations of a context outstanding; at most four may be (R91). -/
def State.lanesOut (s : State) (k : Nat) : Nat := (s.laneOps.filter (·.owner == some k)).length

/-- V registers that outstanding operations, or results that have not released, will write. -/
def State.pendingV (s : State) (k : Nat) : List Nat :=
  let x := s.ctx k
  ((s.outstanding k).flatMap fun o => o.dests.filter (x.mayWrite o.num)) ++
  x.finished.flatMap fun e => (e.2.regs.map (·.1)).filter (x.mayWrite e.2.num)

/-- Has a context no operation outstanding and no result that waits for its turn? -/
def State.settled (s : State) (k : Nat) : Bool := (s.outstanding k).isEmpty && (s.ctx k).finished.isEmpty

/-- The V registers an instruction reads (Tables 3.4, 3.5, 7.8; R72-R77): the sources, and D where the instruction keeps a part of it or finds the
expected tag there. `opened` says that a stream is open, whose parts read no B. -/
def sourceV (opened : Bool) (cls op : Nat) (w : Insn) : List Nat :=
  let d := w.d.val
  let a := w.a.val
  let b := w.b.val
  let span := fun first n => (List.range n).map (first + ·)
  match cls with
  | 0x0 => if op = 6 then [d, a] else if op = 7 ∨ op = 8 then [a, b] else if op = 0xB then [d] else []
  | 0x1 => [a]
  | 0x2 => if op = 4 then span d (immBits w 16 3 + 1) else if op = 9 then [a, a + 1] else []
  | 0x3 =>
    if op = 0 then a :: (if modBit w 0 then [b] else [])
    else (if opened then [] else [b]) ++ (if bitOf (immBits w 0 16) 6 then [d] else [])
  | 0x4 => (if op = 1 then span a ((immBits w 16 8 + 1 + 15) / 16) else []) ++ (if immBits w 10 4 = 0 then [] else [b])
  | 0x5 => if op = 0 ∨ op = 3 ∨ op = 5 then [a] else [a, b]
  | 0x6 => [a, b]
  | 0x7 => if op = 0 then [a, b] else []
  | 0x9 => if modBit w 0 then [] else span a (immBits w 16 4 + 1)
  | _ => []

/-- SEQ_BUDGET: values below 256 act as 256 (Table 3.12). -/
def State.budget (s : State) : Nat := max 256 (s.get R.SEQ0_BUDGET)

/-- Does a fence that was raised 3 µs ago or earlier cover a key slot of the context? Its key field: of several such slots the lowest-numbered one's
(DESIGN CHOICE, log 176: R102 names none of them). -/
def State.orphanField (s : State) (x : Context) : Option Nat :=
  ((x.keys.filterMap id).find? fun y => s.ge.fences.any fun f => y.stamp.contains f.line && f.raised + 3000 ≤ s.quartz).map (·.field)

/-- No test of a unit wanted or under way. -/
def Service.quiet (v : Service) : Bool := !v.katWanted && !v.katBusy

/-- Are the units an instruction needs ready for it: a lane's waiting position free and fewer than four lane operations outstanding (R91, R92), a
position of the hash unit (R153), no test of the format or hash unit under way (R146), the key table restored (R218)? A unit out of service holds
nothing up: the instruction ends its command. -/
def State.unitReady (s : State) (k : Nat) (c : Code) : Bool :=
  let n := clusterOf k
  let fmt := s.fmtUnit n
  let hash := (s.hashUnit n).svc
  match c.cls with
  | 0x2 => !(decide (5 ≤ c.op) && decide (c.op ≤ 8)) || s.ge.ready
  | 0x3 => (s.lanesUp n).isEmpty || (decide (s.lanesOut k < 4) && (s.pickLane n none).isSome)
  | 0x4 => !hash.inService || (decide ((s.hashUnit n).queue.length < 5) && hash.quiet)
  | 0x5 => !fmt.inService || fmt.quiet
  | 0x6 =>
    let e := s.derEntry (s.ctx k) (immBits c.w 0 7)
    (!fmt.inService || fmt.quiet) && (e.kind != 3 || !hash.inService || hash.quiet) && (e.blocks == 0 || (s.lanesUp n).isEmpty || (s.freeLane n).isSome)
  | _ => true

/-- Are the crossbar arbiters of a cluster under FREEZE, so that no new transfer is granted there (R253)? -/
def State.xbarHeld (s : State) (n : Nat) : Bool := s.bit R.ARB_FREEZE_XBAR n

/-- Does an instruction make a transfer at a crossbar of Table 9.4: STOUT at the DMA port, KEY and DERIVE at the slice, CIPH, HASH and FMT at their units,
PKX at the hand-off? -/
def Code.usesXbar (c : Code) : Bool := [2, 3, 4, 5, 6, 9].contains c.cls || (c.cls == 1 && c.op == 1)

/-- May a context issue this instruction: running, not waiting, its cluster not relocking (R151), within its budget (R80) and not past the 3 µs of a fence over a key it holds (R102), no
stream instruction under way, no pending write of its source registers, its unit ready, its crossbars not frozen (R253); and for a DONE no operation of the context outstanding, whose
output comes before the completion (R79, R91)? -/
def State.canIssue (s : State) (k : Nat) (c : Code) : Bool :=
  let x := s.ctx k
  x.cmd.isSome && x.wait == .none && x.run.isNone && !s.relocks (clusterOf k) && decide (x.retired < s.budget) && (s.orphanField x).isNone && s.unitReady k c &&
  !(c.usesXbar && s.xbarHeld (clusterOf k)) &&
  (sourceV x.stream.isSome c.cls c.op c.w).all (fun r => !(s.pendingV k).contains r) && (c.cls != 0xB || s.settled k)

/-- Is a context that was dispatched earlier to the same cluster ready? The issue port serves it first (R91). -/
def State.preceded (s : State) (k : Nat) : Bool :=
  (s.busyIn (clusterOf k)).any fun e =>
    decide (e.2.order < (s.ctx k).order) && (match e.2.image.code[e.2.pc]? with | some c => s.canIssue e.1 c | none => false)

/-- The context, when the issue port issues this instruction for it: the instruction stands at its PC, it may issue, and no context dispatched earlier is
ready (R91). -/
def State.readyCtx (s : State) (k cls op : Nat) (w : Insn) : Option Context :=
  if (s.ctx k).image.code[(s.ctx k).pc]? = some ⟨cls, op, w⟩ ∧ s.canIssue k ⟨cls, op, w⟩ = true ∧ s.preceded k = false then some (s.ctx k) else none

/-- An instruction retires after the earlier ones of its context (R91): one that ends its command waits until their operations have completed, so that
a mismatch or a failed tag of theirs comes first (R98, R103; DEDUCED, log 228). -/
def State.inTurn (s : State) (k : Nat) (r : Result) : Result :=
  match r with
  | .next t => if s.settled k || (t.ctx k).cmd.isSome then .next t else .next s
  | .fault f => .fault f
  | .refused r => .refused r

/-- An instruction issues where its context is ready, and otherwise does not occur. -/
def State.issue (s : State) (c : Ctx) (cls op : Nat) (w : Insn) (run : Context → Result) : Result :=
  match s.readyCtx (ctxKey c) cls op w with
  | none => .next s
  | some x => s.inTurn (ctxKey c) (run x)

/-- The issue slots and the retirement of an instruction counted (R81, Table 3.11). -/
def State.countIssue (s : State) (k slots : Nat) : State :=
  (s.count (R.SEQ_ISSUE_CNT (clusterOf k)) slots).count (R.SEQ_RETIRE_CNT (clusterOf k))

/-- The context after an instruction: PC moved on, one more retired. -/
def Context.step (x : Context) : Context := { x with pc := (x.pc + 1) % 256, retired := x.retired + 1 }

/-- An instruction retires: its context as the instruction leaves it, PC moved on, the slots counted. -/
def State.retire (s : State) (k slots : Nat) (x : Context) : State := (s.countIssue k slots).setCtx k x.step

/-- The ending that waits for a context at its next boundary, in the order of R103: KEY_ORPHANED of a fence past 3 µs (R102), ABORTED, DETAIL 4, of a
reached budget (R80). -/
def State.dueEnding (s : State) (x : Context) : Option (Nat × Nat) :=
  match s.orphanField x with
  | some f => some (stKeyOrphaned, f)
  | none => if s.budget ≤ x.retired then some (stAborted, 4) else none

/-- How a command ends where several endings meet at one boundary (R103): FAULT_DETECTED, a lane's AUTH_FAIL, PARTITION_FROZEN and the KEY_ORPHANED of
the instruction come first, then what waits at the boundary, then a host abort and any other ending of the instruction. -/
def State.firstEnding (s : State) (k status detail : Nat) : Nat × Nat :=
  if status = stFaultDetected ∨ status = stAuthFail ∨ status = stPartitionFrozen ∨ status = stKeyOrphaned then (status, detail)
  else (s.dueEnding (s.ctx k)).getD (status, detail)

/-- A command's ending at an instruction boundary, or the one that comes first there (R103). -/
def State.endAt (s : State) (k status detail : Nat) (ok : Option Bool := none) : State :=
  let e := s.firstEnding k status detail
  s.endCommand k e.1 e.2 0 ok

/-- Output bytes of the instruction at `pc` at an offset: to RESULT for an inline output, else to the host area, bytes at or above OUT_LEN dropped
(R65, R42); to the peer for a forwarded command (R376); to the partition's work window for a window address, through the MPU of the port's DMA
(R266), where a range past its end ends the command with ABORTED, DETAIL 3 (R240), and a partial write of a poisoned line with DETAIL 2 (R244). -/
def State.outputAt (s : State) (k pc off : Nat) (bs : List Byte) : State :=
  let x := s.ctx k
  match x.cmd with
  | none => s
  | some c =>
    if bs.isEmpty then s
    else if c.desc.outInline then
      if off ≥ 16 then s else s.setCtx k { x with result := overlay off bs x.result }
    else
      let kept := bs.take (c.desc.outLen - off)
      let ends := fun (s : State) (detail : Nat) => (s.updCtx k fun x => { x with pc }).endAt k stAborted detail
      if kept.isEmpty then s
      else if isWindow c.desc.outAddr ∧ c.peer.isNone then
        let a := s.windowAddr c.part c.desc.outAddr + off
        if !s.windowFits c.part c.desc.outAddr c.desc.outLen then ends s 3
        else
          let r := (s.updCtx k fun x => { x with wrote := true }).dmaWrite (s.dmaMpu c) c.part a kept
          if r.2 then ends r.1 2 else r.1
      else
        let s := s.updCtx k fun x => { x with wrote := true }
        match c.peer, s.qpFunc c.part c.qp with
        | some (link, tag), _ => s.sendOn link (.peerOutput link tag off kept)
        | none, some f => (s.crossPort f).emit (.hostWrite f (c.desc.outAddr + off) kept)
        | none, none => s

/-- Output bytes of the instruction at the context's PC. -/
def State.output (s : State) (k off : Nat) (bs : List Byte) : State := s.outputAt k (s.ctx k).pc off bs

/-- An instruction ends its command: its slots are counted, and so is the instruction (DESIGN CHOICE, log 177: RETIRE_CNT and the budget take in one that
fails), then the ending (R98-R103). -/
def State.failAt (s : State) (k slots status detail : Nat) : State :=
  ((s.countIssue k slots).updCtx k fun x => { x with retired := x.retired + 1 }).endAt k status detail

/-- The wires of a key slot (R128): an ephemeral key's pair, or the pair of the record's entry in the cluster's slice. -/
def State.wires (s : State) (n : Nat) (y : KeySlot) : Masked :=
  match y.line with
  | none => y.held
  | some l => (((Sparse.get [] s.ge.slices n).find? fun e => e.line == l).map (·.material)).getD {}

end Sys2Proof.Machine
end

