-- ==== Sys2Proof/Machine/Flags.lean ====
section
/-! DEFINITION. The flags of a context: Z and LT of CMP (R76), FE of FMT (R74). -/
namespace Sys2Proof.Machine

/-- CMP of two byte strings: Z when equal, LT always cleared (R76). -/
def Context.cmpBytes (x : Context) (a b : List Byte) : Context := { x with z := a == b, lt := false }

/-- CMP of two unsigned numbers: Z when equal, LT when the first is below the second (R76). -/
def Context.cmpNat (x : Context) (a b : Nat) : Context := { x with z := a == b, lt := decide (a < b) }

/-- The branch conditions of Table 3.6, operations 0x0 to 0x6. -/
def Context.taken (x : Context) : Nat → Bool
  | 0 => true
  | 1 => x.z
  | 2 => !x.z
  | 3 => x.lt
  | 4 => !x.lt
  | 5 => x.fe
  | 6 => !x.fe
  | _ => false

end Sys2Proof.Machine
end

