-- ==== Sys2Proof/Machine/Waits.lean ====
section
/-! DEFINITION. Who may be served next: the queue pairs that can be fetched (R39, R49, R50), the cluster a staged command goes to (R21, R44), and the requesters that wait at the arbiters (R254, R255). -/
namespace Sys2Proof.Machine

/-! ## Fetch (R39, R50, R55) -/

/-- Does the module fetch for a partition now (R50, R55)? -/
def State.fetches (s : State) (p : Nat) : Bool :=
  s.mode != .boot && (s.part p).pstate == .active && !s.fetchStopped

/-- Entries of an SQ waiting to be fetched. -/
def QueuePair.waiting (q : QueuePair) : Nat := (q.sqTail + (q.sqSize + 1) - q.sqHead) % (q.sqSize + 1)

/-- Entries a CQ can still take: fewer than CQ_SIZE in flight or unreleased (R39). -/
def State.cqRoom (s : State) (p q : Nat) : Nat :=
  let x := s.qp p q
  x.cqSize - (s.inFlight p q + x.reading + x.unreleased)

/-- Descriptor reads in flight for a partition. -/
def State.readingOf (s : State) (p : Nat) : Nat :=
  ((List.range 64).map fun q => (s.qp p q).reading).sum

/-- The entries of the staging buffer that are free: of its 65,536, those that hold no staged command, are kept for no descriptor read in flight, and
for no command at a peer, which comes back to its entry where the peer ran nothing of it (R50, R377; DESIGN CHOICE, log 226). -/
def State.stagingRoom (s : State) : Nat := 65536 - (s.hq.staged.length + s.hq.fwdOut.length + (s.hq.qps.map fun e => e.2.reading).sum)

/-- Descriptors the next burst of a queue pair may hold: four of version 2 or eight of version 1, within the ring's end, what the SQ
holds, CQ room, the quota in HOLD, and the staging buffer (R39, R49, R50). -/
def State.burst (s : State) (p q : Nat) : Nat :=
  let x := s.qp p q
  let quotaRoom := if (s.part p).retry then 8 else (s.part p).quota - (s.backlog p + s.readingOf p)
  min (min (if x.compat then 8 else 4) (min x.waiting (x.sqSize + 1 - x.sqHead)))
    (min (s.cqRoom p q) (min quotaRoom s.stagingRoom))

/-- Can a queue pair be fetched through a port now? -/
def State.fetchable (s : State) (port p q : Nat) : Bool :=
  (s.qp p q).qstate == .active && (s.qpFunc p q).map funcPort == some port && 0 < s.burst p q

/-- The queue pair the next fetch of a partition serves: the next fetchable one in rotation (R50). -/
def State.nextQp (s : State) (port p : Nat) : Option Nat :=
  ((List.range 64).map fun i => ((s.part p).lastQp + 1 + i) % 64).find? fun q => s.fetchable port p q

/-! ## Dispatch (R21, R44, R50) -/

/-- Is a staged command of its queue pair free to go: none of the SQ's earlier commands staged, and BARRIER respected (Table 2.6)? -/
def State.mayDispatch (s : State) (c : Cmd) (earlier : List Cmd) : Bool :=
  let live := (s.running.filterMap fun e => e.2.cmd) ++ s.hq.fwdOut.map (·.cmd) ++ s.hq.held.map (·.cmd)
  let mine := live.filter (·.ofQp c.part c.qp)
  c.peer.isSome ||
  (!(earlier.any (·.ofQp c.part c.qp)) && !(mine.any (·.desc.barrier)) && (!c.desc.barrier || mine.isEmpty))

/-- The oldest staged command of a partition that may go, with what stands before and after it (R44, R50). -/
def State.pickStaged (s : State) (p : Nat) : List Cmd → List Cmd → Option (Cmd × List Cmd)
  | _, [] => none
  | earlier, c :: later =>
    if c.part = p ∧ s.mayDispatch c earlier then some (c, earlier ++ later)
    else s.pickStaged p (earlier ++ [c]) later

/-- Free contexts of a cluster. -/
def State.freeIn (s : State) (n : Nat) : Nat := 64 - (s.busyIn n).length

/-- May dispatch select a cluster: in service, powered, not frozen, a context free (R20, R21, R104)? -/
def State.selectable (s : State) (n : Nat) : Bool :=
  s.bit R.GBL_CC_INSERVICE n && s.get (R.BLK_FREEZE (pgSEQ n)) == 0 && 0 < s.freeIn n

/-- The command's first key handle (R21). -/
def Descriptor.firstKey (d : Descriptor) : Option Nat :=
  [d.key0, d.key1, d.key2].find? (· ≠ 0xFFFFFFFF)

/-- The key-table line a handle names for a partition: partition and handle together. -/
def lineKey (p handle : Nat) : Nat := 2 ^ 32 * p + handle

/-- Does a cluster's key-cache slice hold a record? -/
def State.sliceHolds (s : State) (n line : Nat) : Bool :=
  (Sparse.get [] s.ge.slices n).any (·.line == line)

/-- Of the clusters that qualify, the one with the most free contexts; ties go to the lowest number (R21). -/
def State.mostFree (s : State) (ok : Nat → Bool) : Option Nat :=
  (List.range 16).foldl (fun best n =>
    if ok n then
      match best with
      | none => some n
      | some b => if s.freeIn n > s.freeIn b then some n else best
    else best) none

/-- The cluster a command goes to (R21). -/
def State.chooseCluster (s : State) (c : Cmd) : Option Nat :=
  let hit := match c.desc.firstKey with
    | some h => s.mostFree fun n => s.selectable n && s.sliceHolds n (lineKey c.part h)
    | none => none
  match hit with
  | some n => some n
  | none => s.mostFree s.selectable

/-! ## Placements (Table 9.4) -/

/-- Where an arbiter stands: queue fetch of port 0 or 1 is unit 0 or 1, dispatch unit 2; the crossbar of port `m` of cluster `n` is unit
16 + 9 n + m, in the order of Table 9.4; the HBM channel `c` is unit 256 + c. -/
inductive Placement
  | fetch (port : Nat)
  | dispatch
  | crossbar (n port : Nat)
  | hbm (channel : Nat)
deriving DecidableEq, Repr

/-- The placement of a unit number. -/
def placement (u : Nat) : Option Placement :=
  if u < 2 then some (.fetch u) else if u = 2 then some .dispatch
  else if 16 ≤ u ∧ u < 160 then some (.crossbar ((u - 16) / 9) ((u - 16) % 9))
  else if 256 ≤ u ∧ u < 320 then some (.hbm (u - 256)) else none

/-- The requesters of a placement. -/
def State.requesters (s : State) : Placement → List Nat
  | .fetch _ | .dispatch => s.parts.map (·.1)
  | .crossbar _ _ => List.range 66
  | .hbm _ => List.range 10

/-- The requesters whose requests the state itself shows: partitions with a fetchable queue pair on the port,
or with a staged command that a cluster can take (Table 9.4). -/
def State.shown (s : State) : Placement → List Nat
  | .fetch port => (s.parts.map (·.1)).filter fun p => s.fetches p && (s.nextQp port p).isSome
  | .dispatch => (s.parts.map (·.1)).filter fun p => (s.pickStaged p [] s.hq.staged).any fun x => (s.chooseCluster x.1).isSome
  | .crossbar _ _ | .hbm _ => []

/-- The waiting requesters brought up to date: those newly pending wait from now; at queue fetch and dispatch those no longer pending leave. -/
def State.noteWaits (s : State) (u : Nat) (p : Placement) (new : List Nat) : State :=
  let own := match p with | .fetch _ | .dispatch => true | .crossbar _ _ | .hbm _ => false
  let shown := s.shown p ++ if own then [] else new
  let kept := (s.arb u).waiting.filter fun w => !own || shown.contains w.req
  let add := ((shown.filter (s.requesters p).contains).eraseDups.filter fun r => !(kept.any (·.req == r))).map
    fun r => ({ req := r, since := s.quartz } : Waiting)
  s.updArb u fun a => { a with waiting := kept ++ add }

/-- Who waits at the queue-fetch arbiter of a port, noted (R254). -/
def State.noteFetch (s : State) (port : Nat) : State := s.noteWaits port (.fetch port) []

/-- The unit number of the dispatch arbiter. -/
def unitDispatch : Nat := 2

/-- Who waits at the dispatch arbiter, noted. -/
def State.noteDispatch (s : State) : State := s.noteWaits unitDispatch .dispatch []

end Sys2Proof.Machine
end

