-- ==== Sys2Proof/Machine/Hqe.lean ====
section
/-! DEFINITION. The host queue engine: port training and link loss, queue pairs, doorbells, descriptor fetch and checks, dispatch, aborts (R29-R59). -/
namespace Sys2Proof.Machine

/-! ## Ports and link loss (R29, R30, R57) -/

/-- HQE_PORT_STATUS and HQE_PORT_CFG fields of a port. -/
def portUp (p : Fin 2) : Field := if p = 0 then R.HQE_P0_LINKUP else R.HQE_P1_LINKUP
def portGen (p : Fin 2) : Field := if p = 0 then R.HQE_P0_GEN else R.HQE_P1_GEN
def portWidth (p : Fin 2) : Field := if p = 0 then R.HQE_P0_WIDTH else R.HQE_P1_WIDTH
def portMaxGen (p : Fin 2) : Field := if p = 0 then R.HQE_P0_MAXGEN else R.HQE_P1_MAXGEN
def portMaxWidth (p : Fin 2) : Field := if p = 0 then R.HQE_P0_MAXWIDTH else R.HQE_P1_MAXWIDTH

/-- The generation cap of a port: values other than 3-6 read as 6 (Table 2.11). -/
def State.genCap (s : State) (p : Fin 2) : Nat :=
  let g := s.get (portMaxGen p)
  if 3 ≤ g ∧ g ≤ 6 then g else 6

/-- The widest width, as P0_WIDTH codes it, of a peer with this many lanes: x1, x4, x8, x16 (Table 2.1). -/
def widthCode (lanes : Nat) : Nat := if 16 ≤ lanes then 3 else if 8 ≤ lanes then 2 else if 4 ≤ lanes then 1 else 0

/-- PORT_TRAIN (R30): the highest generation and the widest width both ends and the caps allow; `peerWidth` is the peer's number of lanes. `trains`
is the widest width, as P0_WIDTH codes it, at which the lanes come up; narrower widths are retried, so the port takes the widest that comes up. -/
def execPortTrain (port : Fin 2) (peerGen peerWidth : Nat) (trains : Option Nat) (s : State) : Result :=
  let gen := min (s.genCap port) (min peerGen 6)
  match trains with
  | some w =>
    if s.get (portUp port) = 1 ∨ gen < 3 ∨ s.inReset ∨ ¬ s.bit R.PWR_DOMAIN_ON_LO (26 + port) then .next s
    else
      let width := min (min (s.get (portMaxWidth port)) (widthCode peerWidth)) w
      let s := ((s.set (portUp port) 1).set (portGen port) gen).set (portWidth port) width
      .next ({ s with pr.hostDown := none, pr.hostLost := false }.settleTake)
  | none => .next s

/-- The queue pairs, by key, that the loss of a function takes to LINK_LOST: those ACTIVE, DRAINING or FROZEN (Table 2.4). -/
def State.lostQps (s : State) (f : Func → Bool) : List Nat :=
  (s.hq.qps.filter fun e =>
    (e.2.qstate == .active || e.2.qstate == .draining || e.2.qstate == .frozen) &&
    (match s.qpFunc (e.1 / 64) (e.1 % 64) with | some g => f g | none => false)).map (·.1)

/-- Is this a command of one of these queue pairs? -/
def Cmd.among (ks : List Nat) (c : Cmd) : Bool := c.peer.isNone && ks.contains (qpKey c.part c.qp)

/-- The queue pairs of lost functions enter LINK_LOST: nothing more is fetched for them, staged commands complete without a host
write, running ones are aborted as the module's own abort, and their completions are discarded and counted, those that waited for the standby
among them (R57). -/
def State.loseQps (s : State) (f : Func → Bool) : State :=
  let ks := s.lostQps f
  let s := ks.foldl (fun s k =>
    ((s.updQp (k / 64) (k % 64) fun x => { x with qstate := .linkLost, reading := 0 }).severity 2).partEvent (k / 64) 0) s
  let gone := s.hq.staged.filter (·.among ks)
  let sent := (s.hq.fwdOut.map (·.cmd)).filter (·.among ks)
  let held := s.hq.held.filter (·.cmd.among ks)
  let s := { s with hq.staged := s.hq.staged.filter (fun c => !c.among ks),
                    hq.fwdOut := s.hq.fwdOut.filter (fun x => !x.cmd.among ks)
                    hq.held := s.hq.held.filter (fun x => !x.cmd.among ks) }
  let s := (gone ++ sent).foldl (fun s c => s.endStaged c stAborted 4) s
  let s := held.foldl (fun s x => s.complete x.ok x.cmd x.ending) s
  let run := (s.running.map (·.1)).filter fun k => match (s.ctx k).cmd with | some c => c.among ks | none => false
  run.foldl (fun s k => s.endCommand k stAborted 4) s

/-- A port's link goes down: its status clears, HQE INT_RAW bit 1 or 2 is set, and its functions' queue pairs are lost. -/
def State.portDown (s : State) (port : Fin 2) : State :=
  if s.get (portUp port) = 0 then s
  else
    let s := ((s.set (portUp port) 0).set (portGen port) 0).set (portWidth port) 0
    let s := s.raise pgHQE (if port = 0 then 1 else 2)
    s.loseQps fun f => funcPort f == port.val

/-- LINK_DOWN (R57). With both ports down the host-loss time starts (R340). -/
def execLinkDown (port : Fin 2) (s : State) : Result :=
  if s.get (portUp port) = 0 then .next s
  else
    let s := s.portDown port
    .next (if s.get R.HQE_P0_LINKUP = 0 ∧ s.get R.HQE_P1_LINKUP = 0 then { s with pr.hostDown := some s.quartz } else s)

/-- Is this a VF of a port? -/
def isVfOf (port : Fin 2) (f : Func) : Bool := match f with | .vf p _ => p == port | .pf _ => false

/-- A function's MSI-X control, vectors and pending bits and its Device Control are back at their reset values, as the FLR of PCI Express has it
(R5, PRESUMED); its AER status stays. -/
def State.resetFunction (s : State) (fn : Nat) : State :=
  { s with
    hq := { s.hq with
      msixCtl := Sparse.erase s.hq.msixCtl fn
      devCtl := Sparse.erase s.hq.devCtl fn
      msix := s.hq.msix.filter fun e => e.1 / 8192 != fn
      msixPend := s.hq.msixPend.filter (·.1 != fn) } }

/-- VF Enable of a PF cleared: it acts as an FLR of every VF of that PF (R57). -/
def State.clearVfEnable (s : State) (port : Fin 2) : State :=
  let s := s.loseQps (isVfOf port)
  let s := (List.range 512).foldl (fun s n => s.resetFunction (2 + 512 * port + n)) s
  { s with hq.vfOn := s.hq.vfOn.filter (· ≠ port) }

/-- FLR (R57): of one function, or of every VF of a PF when host software clears VF Enable. -/
def execFlr (target : FlrTarget) (s : State) : Result :=
  match target with
  | .function f => .next ((s.loseQps fun g => g == f).resetFunction (funcCode f))
  | .vfEnable port => .next (s.clearVfEnable port)

/-! ## Queue pairs (R34-R36) -/

/-- Is a queue pair's configuration valid (Table 2.4): rings of at least two entries, an assigned VF, a vector in range? -/
def State.qpValid (s : State) (p q : Nat) : Bool :=
  let x := s.qp p q
  1 ≤ x.sqSize && 1 ≤ x.cqSize && (s.qpFunc p q).isSome && (if p = 0 then x.vector < 2048 else x.vector < 4)

/-- QP_ENABLE (R36): ENABLE written 1 through a function of the partition. -/
def execQpEnable (fn : Func) (q : Fin 64) (s : State) : Result :=
  if !s.responds pgHQE then .next s else
  match s.partOf fn with
  | none => .next s
  | some p =>
    if (s.qp p q).qstate ≠ .disabled then .next s
    else if s.qpValid p q then
      .next (s.updQp p q fun x =>
        { x with qstate := .active, qerr := 0, sqHead := 0, sqTail := 0, cqHead := 0, cqTail := 0, phase := true,
                 unsignalled := 0, coalDue := none, fn := s.namedFunc p q, cqDoor := none, failed := false })
    else .next (s.haltQp p q 5)

/-- QP_DISABLE (R36): ENABLE written 0: DRAINING, then DISABLED once nothing is in flight. -/
def execQpDisable (fn : Func) (q : Fin 64) (s : State) : Result :=
  if !s.responds pgHQE then .next s else
  match s.partOf fn with
  | none => .next s
  | some p =>
    match (s.qp p q).qstate with
    | .disabled | .draining => .next s
    | .active | .halted | .linkLost | .frozen =>
      .next ((s.updQp p q fun x => { x with qstate := .draining, qerr := 0 }).settleQp p q)

/-! ## Doorbells (R33, R38) -/

/-- Does a function's doorbell reach queue pair `q` of its partition (R33)? It does only through the function that the pair's VF_SEL names now. -/
def State.doorbellAt (s : State) (fn : Func) (q : Nat) : Option Nat :=
  match s.partOf fn with
  | some p => if s.namedFunc p q = some fn then some p else none
  | none => none

/-- A data-class wake event during sleep entry, before the point of no return, aborts the entry: the saved level and fetch are back, PWR INT_RAW
bit 4 (R330). A T1 latched meanwhile takes effect (R334). -/
def State.abortSleep (s : State) : State :=
  if s.pw.phase ≠ .entering then s
  else
    let s := (((s.set R.PWR_SLEEP 0).countSat R.PWR_ABORT_CNT).raise pgPWR 4).set R.PWR_T1_CAP (b2n (s.ob.latch == 1))
    { s with pw.phase := .awake }.settleLevel

/-- Are a queue pair's doorbells recorded and served later: the module is in BOOT, or the pair is FROZEN (R38, R384)? -/
def State.recordsDoorbells (s : State) (p q : Nat) : Bool := s.mode == .boot || (s.qp p q).qstate == .frozen

/-- SQ_TAIL_DOORBELL (R38): ignored unless it is four bytes at the owning function's doorbell of an enabled queue pair. An ACTIVE pair
is halted by a tail out of range; in BOOT, and in every other state, the value is recorded. -/
def execSqTailDoorbell (fn : Func) (q : Fin 64) (size : Nat) (value : Word) (s : State) : Result :=
  if !s.responds pgHQE then .next s else
  match s.doorbellAt fn q with
  | none => .next s
  | some p =>
    let x := s.qp p q
    let v := value.toNat % 65536
    if size ≠ 4 ∨ x.qstate = .disabled then .next s
    else
      let s := s.crossPort fn
      if x.qstate = .active ∧ s.mode ≠ .boot ∧ v > x.sqSize then .next (s.haltQp p q 1)
      else .next (((s.updQp p q fun x => { x with sqTail := v }).abortSleep).noteFetch (funcPort fn))

/-- CQ_HEAD_DOORBELL (R38): releases entries up to the new head; a head that releases an unwritten entry halts an ACTIVE pair, QERR 2. In BOOT and
FROZEN it is recorded. -/
def execCqHeadDoorbell (fn : Func) (q : Fin 64) (size : Nat) (value : Word) (s : State) : Result :=
  if !s.responds pgHQE then .next s else
  match s.doorbellAt fn q with
  | none => .next s
  | some p =>
    let x := s.qp p q
    let v := value.toNat % 65536
    if size ≠ 4 ∨ x.qstate = .disabled then .next s
    else
      let s := s.crossPort fn
      if s.recordsDoorbells p q then .next (s.updQp p q fun x => { x with cqDoor := some v })
      else if x.overReleases v then
        if x.qstate = .active then .next (s.haltQp p q 2) else .next s
      else .next ((s.updQp p q fun x => { x with cqHead := v }).noteFetch (funcPort fn))

/-! ## Fetch (R39, R50, R55) -/

/-- DESCRIPTOR_FETCH (R39, R50): the partition that holds the queue-fetch grant of the port has a burst read of its next queue pair
issued, of no more descriptors than the grant charged (R251). The arbiter's unit of a port is the port's number. SQ_HEAD moves as the read is issued (DESIGN
CHOICE, log 172). -/
def execDescriptorFetch (port : Fin 2) (s : State) : Result :=
  match s.grantOf port.val with
  | none => .next s
  | some p =>
    if !s.fetches p then .next s
    else match s.nextQp port p with
      | none => .next s
      | some q =>
        let x := s.qp p q
        let n := min (s.arb port.val).burst (s.burst p q)
        let size := if x.compat then 32 else 64
        let s := match s.qpFunc p q with
          | some f => (s.crossPort f).emit (.descriptorRead f (x.sqBase + size * x.sqHead) (size * n))
          | none => s
        let s := s.updQp p q fun x => { x with sqHead := (x.sqHead + n) % (x.sqSize + 1), reading := x.reading + n }
        .next (((s.updPart p fun y => { y with lastQp := q }).spend port.val).noteFetch port)

/-! ## Descriptor checks (R41-R43, R49) -/

/-- The offset of the first nonzero byte from `off` to `off + n - 1`, if any. -/
def firstNonzero (bs : List Byte) (off n : Nat) : Option Nat :=
  ((List.range n).map (off + ·)).find? fun i => bs.getD i 0 ≠ 0

/-- The first failing offset of a version-2 descriptor, bytes judged in ascending order (R43 check 1). -/
def badV2 (bs : List Byte) : Option Nat :=
  let flags := numAt bs 1 1
  let inl := bitOf flags 0
  let outl := bitOf flags 1
  if numAt bs 0 1 ≠ 2 then some 0
  else if flags / 16 ≠ 0 then some 1
  else if numAt bs 3 1 / 16 ≠ 0 then some 3
  else if inl ∧ numAt bs 20 3 > 24 then some 20
  else if numAt bs 23 1 ≠ 0 then some 23
  else if outl ∧ numAt bs 24 3 > 16 then some 24
  else if numAt bs 27 1 ≠ 0 then some 27
  else if outl then firstNonzero bs 56 8
  else none

/-- The version-2 descriptor of its 64 bytes (Table 2.5). -/
def readV2 (bs : List Byte) : Descriptor :=
  let flags := numAt bs 1 1
  { inInline := bitOf flags 0, outInline := bitOf flags 1, noInt := bitOf flags 2, barrier := bitOf flags 3,
    program := numAt bs 2 2 % 4096, hostTag := numAt bs 4 4, key0 := numAt bs 8 4, key1 := numAt bs 12 4,
    key2 := numAt bs 16 4, inLen := numAt bs 20 3, outLen := numAt bs 24 3, param := numAt bs 28 4,
    body := slice 32 24 bs, outAddr := numAt bs 56 8 }

/-- The first failing offset of a version-1 descriptor (R43 check 1, Table 2.9). -/
def badV1 (bs : List Byte) : Option Nat :=
  let flags := numAt bs 1 1
  if numAt bs 0 1 ≠ 1 then some 0
  else if flags / 8 ≠ 0 then some 1
  else if numAt bs 3 1 ≠ 0 then some 3
  else if bitOf flags 0 ∧ numAt bs 6 1 > 8 then some 6
  else if bitOf flags 1 ∧ numAt bs 7 1 > 16 then some 7
  else if bitOf flags 1 then firstNonzero bs 24 8
  else none

/-- The version-2 equivalent of a version-1 descriptor (Table 2.9). -/
def readV1 (bs : List Byte) : Descriptor :=
  let flags := numAt bs 1 1
  { v1 := true, inInline := bitOf flags 0, outInline := bitOf flags 1, noInt := bitOf flags 2,
    program := numAt bs 2 1, hostTag := numAt bs 4 2, key0 := numAt bs 8 4, key1 := numAt bs 12 4,
    inLen := numAt bs 6 1, outLen := numAt bs 7 1, body := slice 16 8 bs ++ zeros 16, outAddr := numAt bs 24 8 }

/-- The image a slot runs, if any. -/
def State.imageOf (s : State) (slot : Nat) : Option Image := (Sparse.get {} s.sq.progs (runSlot slot)).image

/-- The module-wide admission of Table 16.4 together with the image's MODES bit (R85, R388). -/
def State.admits (s : State) (p : Nat) (i : Image) : Bool :=
  match s.mode with
  | .boot => false
  | .bare => p == 0 && bitOf i.modes 0
  | .service => bitOf i.modes 1
  | .maintenance => bitOf i.modes 2
  | .shadow => p == 0 && bitOf i.modes 3
  | .responded => p == 0 && bitOf i.modes 4

/-- Is a slot enabled for a partition? Every slot is for partition 0 (Table 16.4); a tenant's bitmap decides for it (R85). -/
def State.slotEnabled (s : State) (p slot : Nat) : Bool := p == 0 || (s.part p).pen.testBit slot

/-- The retry hint of a BUSY_RETRY completion (R51): the backlog over half the quota, at the completions of the last closed window.
4.096 is 4096 / 1000; the division rounds up. -/
def retryHint (b quota done : Nat) : Nat :=
  if done = 0 then 1000
  else
    let num := (2 * b - quota) * 4096
    let den := 2 * done * 1000
    min (max ((num + den - 1) / den) 1) 65535

/-- How the checks of R43 refuse a descriptor: the status and DETAIL, or none. A slot without an image is refused before the mode is
judged (R389). -/
def State.refuseDescriptor (s : State) (p : Nat) (bad : Option Nat) (d : Descriptor) : Option (Nat × Nat) :=
  match bad with
  | some off => some (stFormatError, off)
  | none =>
    match s.imageOf d.program with
    | none => some (stProgramDisabled, 0)
    | some i =>
      if !s.admits p i then some (stModeRefused, s.mode.code)
      else if !s.slotEnabled p d.program then some (stProgramDisabled, 0)
      else if (s.part p).retry ∧ s.backlog p ≥ (s.part p).quota then
        some (stBusyRetry, retryHint (s.backlog p) (s.part p).quota (s.part p).lastWinDone)
      else none

/-- A BUSY_RETRY is counted, and the first after a whole window without any raises the BUSY event (Tables 2.11, 2.13). -/
def State.countBusy (s : State) (p : Nat) : State :=
  let was := (s.part p).quietWin
  let s := s.updPart p fun x => { x with busyCnt := satAdd 32 x.busyCnt 1, busyInWin := true, quietWin := false }
  let s := { (s.severity 1) with ag.busy := sat32 (s.ag.busy + 1) }
  if was then s.partEvent p 3 else s

/-- A command joins the staging buffer; with all of its entries taken HQE INT_RAW bit 3 is set (Table 2.14). -/
def State.stageCmd (s : State) (c : Cmd) : State :=
  let s := { s with hq.staged := s.hq.staged ++ [c] }.noteDispatch
  if s.hq.staged.length ≥ 65536 then s.raise pgHQE 3 else s

/-- DESCRIPTOR_RECEIVE (R39, R43): a descriptor read returns. A failed read is reported through AER and halts an ACTIVE pair with QERR 3, a FROZEN one
when it thaws; a refused descriptor completes at once; any other is staged. One that arrives while its partition is FROZEN is judged by R43 first
(DESIGN CHOICE, log 173) and completes with PARTITION_FROZEN (R54). -/
def execDescriptorReceive (part : Fin 1024) (q : Fin 64) (data : HostRead) (wrOk : Bool) (s : State) : Result :=
  let p := part.val
  let x := s.qp p q
  if x.reading = 0 then .next s
  else
    let s := s.updQp p q fun x => { x with reading := x.reading - 1 }
    match data with
    | .failed e =>
      let s := s.reportRead (s.qpFunc p q) e
      .next (if x.qstate = .active then s.haltQp p q 3
        else if x.qstate = .frozen then s.updQp p q fun y => { y with failed := true }
        else s.settleQp p q)
    | .data bs =>
      let s := s.updPart p fun y => { y with fetchCnt := (y.fetchCnt + 1) % 2 ^ 32 }
      let bad := if x.compat then badV1 bs else badV2 bs
      let d := if x.compat then readV1 bs else readV2 bs
      let c : Cmd := { part := p, qp := q, desc := d }
      match s.refuseDescriptor p bad d with
      | some (st, det) =>
        let s := if st = stBusyRetry then s.countBusy p else s
        .next (s.finish wrOk c { status := st, detail := det })
      | none =>
        if (s.part p).pstate = .frozen then
          .next (s.finish wrOk { c with fetched := some s.quartz } { status := stPartitionFrozen })
        else
          .next (s.stageCmd { c with fetched := some s.quartz })

/-! ## Dispatch (R21, R44, R50, R62, R85, R88) -/

/-- The lowest-numbered free context of a cluster (R62). -/
def State.freeCtx (s : State) (n : Nat) : Option Nat :=
  ((List.range 64).map (64 * n + ·)).find? fun k => (s.ctx k).cmd.isNone

/-- Lines of the program cache a program takes (R88). -/
def imageLines (i : Image) : Nat := 1 + (i.lenM1 + 1 + 31) / 32

/-- The programs resident in a cluster. -/
def State.residents (s : State) (n : Nat) : List Resident := Sparse.get [] s.sq.cache n

/-- The state with a cluster's resident programs replaced. -/
def State.setResidents (s : State) (n : Nat) (rs : List Resident) : State :=
  { s with sq.cache := Sparse.set [] s.sq.cache n rs }

/-- The input bytes a context starts with: IN_DATA, or the first 4,096 bytes read from the host (R64). -/
def startInput (d : Descriptor) (input : List Byte) : List Byte :=
  if d.inInline then fitBytes (min d.inLen 24) d.body else fitBytes (min d.inLen 4096) input

/-- A command takes a context of a cluster (Table 3.1): every item zero, its descriptor and input loaded, its image as committed now;
a program that is not resident must first be filled (R88). -/
def State.startContext (s : State) (k : Nat) (c : Cmd) (i : Image) (input : List Byte) : State :=
  let n := clusterOf k
  let slot := runSlot c.desc.program
  let commits := (Sparse.get {} s.sq.progs slot).commits
  let rs := s.residents n
  let here := rs.find? fun r => r.slot == slot && r.commits == commits
  let ctx : Context :=
    { cmd := some c, input := startInput c.desc input, image := i, imageCommits := commits, fmtCommits := s.sq.fmtCommits,
      derCommits := s.sq.derCommits, started := s.quartz, order := s.sq.dispatched + 1,
      wait := if here.isSome then .none else .cacheFill }
  let s : State := { s.setCtx k ctx with sq.dispatched := s.sq.dispatched + 1 }
  match here with
  | some r => (s.setResidents n (rs.filter (fun x => x != r) ++ [{ r with used := ctx.order }])).count (R.SEQ_PC_HIT n)
  | none => s.count (R.SEQ_PC_MISS n)

/-- The staged command the dispatch grant names, with the buffer without it. -/
def State.granted (s : State) : Option (Cmd × List Cmd) :=
  match s.grantOf unitDispatch with
  | none => none
  | some p => s.pickStaged p [] s.hq.staged

/-- The host address of a command's input. -/
def Descriptor.inAddr (d : Descriptor) : Nat := leNat (slice 0 8 d.body)

/-- Does a command read its input from its partition's work window (R240)? -/
def Descriptor.windowIn (d : Descriptor) : Bool := !d.inInline && d.inLen ≠ 0 && isWindow d.inAddr

/-- Does a command write its output to its partition's work window? -/
def Descriptor.windowOut (d : Descriptor) : Bool := !d.outInline && d.outLen ≠ 0 && isWindow d.outAddr

/-- Is the input of a command that runs here read from the work window here? A peer's comes with its request (R376). -/
def Cmd.windowIn (c : Cmd) : Bool := c.peer.isNone && c.desc.windowIn

/-- Does a command that runs here use a work window here? -/
def Cmd.windowUse (c : Cmd) : Bool := c.peer.isNone && (c.desc.windowIn || c.desc.windowOut)

/-- The staged command taken out of the buffer; its grant is used. -/
def State.takeStaged (s : State) (rest : List Cmd) : State := ({ s with hq.staged := rest }).spend unitDispatch

/-- `n` input bytes at offset `off` of a window input, read through the MPU of the port's DMA, or none where the range passes the window's end or the
read returns the integrity error (R240, R244, R266). -/
def State.windowInput (s : State) (c : Cmd) (off n : Nat) : Option (List Byte × State) :=
  let a := s.windowAddr c.part c.desc.inAddr + off
  let m := s.dmaMpu c
  if !s.windowFits c.part c.desc.inAddr c.desc.inLen || s.dmaReadFails m c.part a n then none else some (s.dmaRead m c.part a n)

/-- Do `n` bytes at offset `off` of a command's window input wait: the work region is not ready (R250), or a channel stands under FREEZE (R253)? -/
def State.windowWaits (s : State) (c : Cmd) (off n : Nat) : Bool :=
  (c.windowUse && !s.workReady) ||
  (c.windowIn && s.windowFits c.part c.desc.inAddr c.desc.inLen && s.hbmHeld (s.windowAddr c.part c.desc.inAddr + off) n)

/-- DISPATCH (R21, R62, R85): the oldest command of the granted partition goes to the cluster R21 chooses and takes its lowest free
context; one whose program is no longer loaded or enabled completes with PROGRAM_DISABLED. With no context free it waits, and so it does while the
cluster's island relocks; a gated island is ungated (R19). `input` is what the read of a host input answers, or what a peer sent with its
request (R376); a window input is read from HBM, and waits until the work region is ready (R240, R250). -/
def execDispatch (input : List Byte) (s : State) : Result :=
  match s.granted with
  | none => .next s
  | some (c, rest) =>
    match s.imageOf c.desc.program with
    | none => .next ((s.takeStaged rest).endStaged c stProgramDisabled 0)
    | some i =>
      if !s.slotEnabled c.part c.desc.program then .next ((s.takeStaged rest).endStaged c stProgramDisabled 0)
      else match s.chooseCluster c with
        | none => .next s
        | some n => match s.freeCtx n with
          | none => .next s
          | some k =>
            if s.windowWaits c 0 (min c.desc.inLen 4096) ∨ s.relocks n then .next s
            else
            let s := s.cross n
            if c.windowIn then
              match s.windowInput c 0 (min c.desc.inLen 4096) with
              | none => .next ((s.takeStaged rest).endStaged c stAborted 2)
              | some r => .next ((r.2.takeStaged rest).startContext k c i r.1)
            else .next ((s.takeStaged rest).startContext k c i input)

/-! ## Coalescing and aborts (R56, R59) -/

/-- COAL_TIME_EXPIRY (R59): COAL_TIME has passed since the first unsignalled completion, and the pair signals. -/
def execCoalTimeExpiry (part : Fin 1024) (q : Fin 64) (s : State) : Result :=
  let x := s.qp part q
  match x.coalDue with
  | none => .next s
  | some t =>
    if s.quartz < t ∨ x.unsignalled = 0 then .next s
    else
      let s := s.updQp part q fun x => { x with unsignalled := 0, coalDue := none }
      match s.qpFunc part q with
      | some f => .next (s.msixSend f x.vector)
      | none => .next s

/-- ABORT_GO (R56): every command of the queue pair fetched and not completed that carries the tag is matched. Staged matches complete
with ABORTED, DETAIL 1; running ones end as a host abort (R100); one sent to a peer is passed on. A GO while an abort is busy is
ignored. -/
def execAbortGo (fn : Func) (q : Fin 64) (s : State) : Result :=
  if !s.responds pgHQE then .next s else
  match s.partOf fn with
  | none => .next s
  | some p =>
    if (s.part p).abortBusy then .next s
    else
      let tag := (s.part p).abortTag
      let hit : Cmd → Bool := fun c => c.ofQp p q && c.desc.hostTag == tag
      let mark : Cmd → Cmd := fun c => if hit c then { c with marked := true } else c
      let s := s.updPart p fun x => { x with abortQueue := q, abortBusy := true, abortResult := 0, abortCount := 0 }
      let s : State := { s with
        hq := { s.hq with
          staged := s.hq.staged.map mark
          fwdOut := s.hq.fwdOut.map fun x => { x with cmd := mark x.cmd }
          held := s.hq.held.map fun x => { x with cmd := mark x.cmd } } }
      let gone := s.hq.staged.filter hit
      let s := (s.hq.fwdOut.filter fun x => hit x.cmd).foldl (fun s x => s.sendOn x.link (.forwardAbort x.link x.tag)) s
      let run := s.running.filter fun e => match e.2.cmd with | some c => hit c | none => false
      let s := run.foldl (fun s e => s.updCtx e.1 fun x => { x with cmd := x.cmd.map mark }) s
      let s := gone.foldl (fun s c =>
        ({ s with hq.staged := s.hq.staged.erase (mark c) }).endStaged (mark c) stAborted 1) s
      let s := run.foldl (fun s e => s.endAt e.1 stAborted 1) s
      .next (s.settleAbort p)

end Sys2Proof.Machine
end

