-- ==== Sys2Proof/Machine/Seq.lean ====
section
/-! DEFINITION. The sequencer's LOAD, STORE, CMP, BR and DONE instructions (R64-R69, R76, R79). -/
namespace Sys2Proof.Machine

/-- A load waits for the input chunk its buffer stands in (R64, R91). -/
def State.needChunk (s : State) (k : Nat) (x : Context) : State := s.setCtx k { x with wait := .chunk }

/-- A LOAD that only changes its context. -/
def State.load (s : State) (c : Ctx) (op : Nat) (w : Insn) (f : Context → Context) : Result :=
  s.issue c 0x0 op w fun x => .next (s.retire (ctxKey c) 1 (f x))

/-- LDIN: D bytes 0..n-1 from the input buffer, the rest zero. -/
def execLdin (c : Ctx) (w : Insn) (s : State) : Result :=
  s.issue c 0x0 0x0 w fun x =>
    if x.has (x.chunkBase + 4096) then
      .next (s.retire (ctxKey c) 1 (x.setV w.d (x.bufBytes (x.offset w (immBits w 0 12) w.b) (immBits w 12 4 + 1))))
    else .next (s.needChunk (ctxKey c) x)

/-- A byte string as a number in the order MOD[5] selects (R68). -/
def scalar (big : Bool) (bs : List Byte) : Nat := if big then beNat bs else leNat bs

/-- A number as four bytes in the order MOD[5] selects (R68). -/
def scalarBytes (big : Bool) (v : Nat) : List Byte := if big then beBytes 4 v else leBytes 4 v

/-- LDSC: S register D from n input bytes, zero-extended. -/
def execLdsc (c : Ctx) (w : Insn) (s : State) : Result :=
  s.issue c 0x0 0x1 w fun x =>
    if w.d.val > 7 then .refused .reservedEncoding
    else if x.has (x.chunkBase + 4096) then
      let bs := x.bufBytes (x.offset w (immBits w 0 12) w.b) (immBits w 12 2 + 1)
      .next (s.retire (ctxKey c) 1 (x.setS w.d (scalar (modBit w 5) bs)))
    else .next (s.needChunk (ctxKey c) x)

/-- PARAM_EXT of a descriptor: zero where the input is inline (Table 3.4). -/
def Descriptor.paramExt (d : Descriptor) : List Byte := if d.inInline then zeros 16 else slice 8 16 d.body

/-- LDDESC: a descriptor field into an S register, or PARAM_EXT into a V register. -/
def execLddesc (c : Ctx) (w : Insn) (s : State) : Result :=
  s.issue c 0x0 0x2 w fun x =>
    let d := x.desc
    let sel := immBits w 0 4
    if sel > 7 ∨ (sel ≠ 7 ∧ w.d.val > 7) then .refused .reservedEncoding
    else if sel = 7 then .next (s.retire (ctxKey c) 1 (x.setV w.d d.paramExt))
    else
      let v := if sel = 0 then d.inLen else if sel = 1 then d.outLen else if sel = 2 then d.param
        else leNat (slice (4 * (sel - 3)) 4 d.paramExt)
      .next (s.retire (ctxKey c) 1 (x.setS w.d v))

/-- LDCONST: a program constant. -/
def execLdconst (c : Ctx) (w : Insn) (s : State) : Result :=
  s.load c 0x3 w fun x => x.setV w.d (x.image.consts.getD (immBits w 0 4) [])

/-- LDI: an immediate into an S register. -/
def execLdi (c : Ctx) (w : Insn) (s : State) : Result :=
  if w.d.val > 7 then .refused .reservedEncoding
  else s.load c 0x4 w fun x => x.setS w.d w.imm.toNat

/-- SADD: an S register plus the immediate, modulo 2^32. -/
def execSadd (c : Ctx) (w : Insn) (s : State) : Result :=
  if w.d.val > 7 ∨ w.a.val > 7 then .refused .reservedEncoding
  else s.load c 0x5 w fun x => x.setS w.d (x.sr w.a + w.imm.toNat)

/-- MOVB: D bytes p..p+n-1 from A bytes q..q+n-1; bytes numbered 16 or above are dropped on write and read as zero. -/
def execMovb (c : Ctx) (w : Insn) (s : State) : Result :=
  s.load c 0x6 w fun x =>
    x.setV w.d (overlay (immBits w 0 4) (slice (immBits w 4 4) (immBits w 8 4 + 1) (x.vr w.a)) (x.vr w.d))

/-- VXOR: exclusive or of two V registers. -/
def execVxor (c : Ctx) (w : Insn) (s : State) : Result :=
  s.load c 0x7 w fun x => x.setV w.d (xorBytes (x.vr w.a) (x.vr w.b))

/-- VAND: and of two V registers. -/
def execVand (c : Ctx) (w : Insn) (s : State) : Result :=
  s.load c 0x8 w fun x => x.setV w.d (andBytes (x.vr w.a) (x.vr w.b))

/-- VCLR: a V register cleared. -/
def execVclr (c : Ctx) (w : Insn) (s : State) : Result :=
  s.load c 0x9 w fun x => x.setV w.d (zeros 16)

/-- SETIP: the input stream pointer set; backwards only while IP has not passed byte 4,095, else ABORTED, DETAIL 4 (R69). -/
def execSetip (c : Ctx) (w : Insn) (s : State) : Result :=
  s.issue c 0x0 0xA w fun x =>
    let t := x.offset w (immBits w 0 24) w.a
    if t < x.ip ∧ 4096 ≤ x.ip then .next (s.failAt (ctxKey c) 1 stAborted 4)
    else .next (s.retire (ctxKey c) 1 { x with ip := t })

/-- MOVS: an S register into four bytes of a V register. -/
def execMovs (c : Ctx) (w : Insn) (s : State) : Result :=
  if w.a.val > 7 then .refused .reservedEncoding
  else s.load c 0xB w fun x =>
    x.setV w.d (overlay (immBits w 0 4) (scalarBytes (modBit w 5) (x.sr w.a)) (x.vr w.d))

/-! ## Results and output in program order (R65, R91, R93) -/

/-- The effect of a released result: output issued, registers written; a failed comparison of a tag or MAC ends the command with AUTH_FAIL instead
(R143). -/
def State.perform (s : State) (k : Nat) (e : Effect) : State :=
  let s := e.output.foldl (fun s o => s.outputAt k e.pc o.1 o.2) s
  if (s.ctx k).cmd.isNone then s
  else if e.authFail then (s.updCtx k fun x => { x with pc := e.pc }).endCommand k stAuthFail 0
  else s.updCtx k fun x =>
    let x := e.regs.foldl (fun x r => x.land e.num r) x
    { x with result := e.result.foldl (fun r p => overlay p.1 p.2 r) x.result }

/-- The finished results of a context whose turn has come are released, in the order its operations issued (R65, R93). -/
def State.releaseNext (s : State) (k : Nat) : Nat → State
  | 0 => s
  | fuel + 1 =>
    let x := s.ctx k
    match x.finished.find? (·.1 == x.released) with
    | none => s
    | some e =>
      State.releaseNext ((s.setCtx k { x with finished := x.finished.filter (·.1 ≠ e.1), released := x.released + 1 }).perform k e.2) k fuel

/-- A compared result released: at once, or in its place among the context's stream operations. -/
def State.release (s : State) (k : Nat) (place : Option Nat) (e : Effect) : State :=
  match place with
  | none => s.perform k e
  | some i => (s.updCtx k fun x => { x with finished := x.finished ++ [(i, e)] }).releaseNext k ((s.ctx k).finished.length + 1)

/-- The output of a STORE or a PKX takes its place behind the stream operations of its context that have issued (R65, R77). -/
def State.inOrder (s : State) (k : Nat) (e : Effect) : State :=
  let x := s.ctx k
  if x.issued = x.released then s.perform k e
  else s.setCtx k { x with issued := x.issued + 1, finished := x.finished ++ [(x.issued, e)] }

/-- STRES: RESULT bytes p..p+n-1 from A. -/
def execStres (c : Ctx) (w : Insn) (s : State) : Result :=
  s.issue c 0x1 0x0 w fun x =>
    let k := ctxKey c
    .next ((s.retire k 1 x).inOrder k { result := [(immBits w 0 4, (x.vr w.a).take (immBits w 4 4 + 1))], pc := x.pc, num := x.retired })

/-- STOUT: output offset..offset+n-1 from A, under R65. -/
def execStout (c : Ctx) (w : Insn) (s : State) : Result :=
  s.issue c 0x1 0x1 w fun x =>
    let k := ctxKey c
    .next ((s.retire k 1 x).inOrder k
      { output := [(x.offset w (immBits w 0 24) w.b, (x.vr w.a).take (modBits w 0 4 + 1))], pc := x.pc, num := x.retired })

/-- CMP 0x0: bytes 0..IMM[3:0] of two V registers. -/
def execCmpBytes (c : Ctx) (w : Insn) (s : State) : Result :=
  s.issue c 0x7 0x0 w fun x =>
    let n := immBits w 0 4 + 1
    .next (s.retire (ctxKey c) 1 (x.cmpBytes ((x.vr w.a).take n) ((x.vr w.b).take n)))

/-- CMP 0x1: two S registers. -/
def execCmpSreg (c : Ctx) (w : Insn) (s : State) : Result :=
  if w.a.val > 7 ∨ w.b.val > 7 then .refused .reservedEncoding
  else s.issue c 0x7 0x1 w fun x => .next (s.retire (ctxKey c) 1 (x.cmpNat (x.sr w.a) (x.sr w.b)))

/-- CMP 0x2: an S register with the immediate. -/
def execCmpImm (c : Ctx) (w : Insn) (s : State) : Result :=
  if w.a.val > 7 then .refused .reservedEncoding
  else s.issue c 0x7 0x2 w fun x => .next (s.retire (ctxKey c) 1 (x.cmpNat (x.sr w.a) w.imm.toNat))

/-- A branch of Table 3.6: to instruction IMM[7:0] where the condition holds, else to the next. -/
def State.branch (s : State) (c : Ctx) (op : Nat) (w : Insn) : Result :=
  s.issue c 0x8 op w fun x =>
    let next := if x.taken op then immBits w 0 8 else (x.pc + 1) % 256
    .next ((s.countIssue (ctxKey c) 1).setCtx (ctxKey c) { x with pc := next, retired := x.retired + 1 })

def execBrAlways (c : Ctx) (w : Insn) (s : State) : Result := s.branch c 0x0 w
def execBrZ (c : Ctx) (w : Insn) (s : State) : Result := s.branch c 0x1 w
def execBrNz (c : Ctx) (w : Insn) (s : State) : Result := s.branch c 0x2 w
def execBrLt (c : Ctx) (w : Insn) (s : State) : Result := s.branch c 0x3 w
def execBrNlt (c : Ctx) (w : Insn) (s : State) : Result := s.branch c 0x4 w
def execBrFe (c : Ctx) (w : Insn) (s : State) : Result := s.branch c 0x5 w
def execBrNfe (c : Ctx) (w : Insn) (s : State) : Result := s.branch c 0x6 w

/-- LOOP (BR 0x7): S register A decremented; branches while the result is not 0. -/
def execLoop (c : Ctx) (w : Insn) (s : State) : Result :=
  if w.a.val > 7 then .refused .reservedEncoding
  else s.issue c 0x8 0x7 w fun x =>
    let v := (x.sr w.a + 2 ^ 32 - 1) % 2 ^ 32
    let x := x.setS w.a v
    let next := if v ≠ 0 then immBits w 0 8 else (x.pc + 1) % 256
    .next ((s.countIssue (ctxKey c) 1).setCtx (ctxKey c) { x with pc := next, retired := x.retired + 1 })

/-- May a DONE carry this immediate (R79)? -/
def doneAllowed (imm : Nat) : Bool :=
  let st := bitsOf imm 0 8
  let rl := bitsOf imm 8 5
  (st == 0 || st == 5 || (st == 6 && bitOf imm 31) || 0x80 ≤ st) && rl ≤ 16 && (rl == 0 || (st != 5 && st != 6)) &&
    bitsOf imm 13 3 == 0

/-- DONE (R79): the program ends with STATUS IMM[7:0], RESULT_LEN IMM[12:8] and DETAIL IMM[31:16], once its output is issued; where the DONE is the
instruction that reaches the budget, ABORTED, DETAIL 4, comes first (R80, R103). -/
def execDone (c : Ctx) (w : Insn) (wrOk : Bool) (s : State) : Result :=
  s.issue c 0xB 0x0 w fun x =>
    if doneAllowed w.imm.toNat then
      let k := ctxKey c
      let s := (s.countIssue k 2).setCtx k { x with retired := x.retired + 1 }
      match s.dueEnding (s.ctx k) with
      | some e => .next (s.endCommand k e.1 e.2 0 wrOk)
      | none => .next (s.endCommand k (immBits w 0 8) (immBits w 16 16) (immBits w 8 5) wrOk)
    else .refused .reservedEncoding

/-- SEQ_BUDGET_EXCEEDED (R80): a context whose retired count has reached SEQ_BUDGET ends with ABORTED, DETAIL 4. -/
def execSeqBudgetExceeded (c : Ctx) (s : State) : Result :=
  let x := s.ctx (ctxKey c)
  if x.cmd.isSome ∧ s.budget ≤ x.retired then .next (s.endAt (ctxKey c) stAborted 4) else .next s

/-- SEQ_FREEZE (R104): FREEZE of a SEQ page written; a cluster that is already empty is drained at once. -/
def execSeqFreeze (n : Fin 16) (on : Bool) (s : State) : Result :=
  if !s.responds (pgSEQ n) then .next s else
  s.crossing (pgSEQ n) (.seqFreeze n on) fun s =>
    let s := s.set (R.BLK_FREEZE (pgSEQ n)) (b2n on)
    if on then s.settleSeq n else s

/-! ## Program cache (R88, R89) -/

/-- The pins that are valid, in register order: their slots. -/
def State.validPins (s : State) : List Nat :=
  (List.range 8).filterMap fun j => if s.get (R.SEQ0_PIN_VALID j) = 1 then some (s.get (R.SEQ0_PIN_SLOT j)) else none

/-- The lines a slot's image takes; none for an empty slot. -/
def State.slotLines (s : State) (slot : Nat) : Nat := ((s.imageOf slot).map imageLines).getD 0

/-- The pins honoured: the first in register order whose lines fit within 128 (R89). -/
def State.honoured (s : State) : List Nat :=
  (s.validPins.foldl (fun (acc : List Nat × Nat) slot =>
    let n := s.slotLines slot
    if acc.2 + n ≤ 128 then (acc.1 ++ [slot], acc.2 + n) else acc) ([], 0)).1

/-- PIN_OVER: set while a valid pin is ignored; newly set, it raises SEQ0 INT_RAW bit 2 (R89). -/
def State.settlePins (s : State) : State :=
  let ignored := decide (s.honoured.length < s.validPins.length)
  let was := s.get R.SEQ0_PIN_OVER == 1
  let s := s.set R.SEQ0_PIN_OVER (b2n ignored)
  if ignored && !was then s.raise (pgSEQ 0) 2 else s

/-- SEQ_PIN_WRITE (R89): SEQ_PINj written. -/
def execSeqPinWrite (j : Fin 8) (value : Word) (s : State) : Result :=
  if !s.responds (pgSEQ 0) then .next s else
  s.crossing (pgSEQ 0) (.seqPinWrite j value) fun s =>
    let s := s.set (R.SEQ0_PIN_SLOT j) (bitsOf value.toNat 0 12)
    (s.set (R.SEQ0_PIN_VALID j) (bitsOf value.toNat 31 1)).settlePins

/-- Does some context of the cluster run this resident program (R88)? -/
def State.runsResident (s : State) (n : Nat) (r : Resident) : Bool :=
  (s.busyIn n).any fun e =>
    e.2.wait != .cacheFill && runSlot e.2.desc.program == r.slot && e.2.imageCommits == r.commits

/-- The resident programs after least recently dispatched ones have made room for `need` lines; those running or pinned stay (R88). -/
def evictFor (pinned : Resident → Bool) (need : Nat) : List Resident → List Resident → Option (List Resident)
  | kept, [] => if (kept.map (·.lines)).sum + need ≤ 256 then some kept else none
  | kept, r :: rs =>
    if ((kept ++ r :: rs).map (·.lines)).sum + need ≤ 256 then some (kept ++ r :: rs)
    else if pinned r then evictFor pinned need (kept ++ [r]) rs
    else evictFor pinned need kept rs

/-- The number of the last dispatch of an image in a cluster: that of the latest context that runs it or waits for it. -/
def State.lastUse (s : State) (n slot commits : Nat) : Nat :=
  (((s.busyIn n).filter fun e => runSlot e.2.desc.program == slot && e.2.imageCommits == commits).map (·.2.order)).foldl max 0

/-- The program table in HBM (Table 9.1). -/
def programBase : Nat := 0x800000000

/-- The bytes of an image's lines: its header and constants, then its code. -/
def imageBytes (i : Image) : Nat := 256 + 8 * (i.lenM1 + 1)

/-- PROGRAM_CACHE_FILL (R84, R88): the fill a context waits for ends. A failed line MAC, a poisoned line or the lack of HBM keys (R244, R250) ends the
command with ABORTED, DETAIL 4; where no
room can be made, the command waits until pinned programs are released. The programs stay in the order of their last dispatch. -/
def execProgramCacheFill (c : Ctx) (macOk : Bool) (s : State) : Result :=
  let k := ctxKey c
  let n := c.cc.val
  let x := s.ctx k
  if x.cmd.isNone ∨ x.wait ≠ .cacheFill then .next s
  else if !macOk ∨ s.readFails (programBase + 4096 * runSlot x.desc.program) (imageBytes x.image) then .next ((s.raise (pgSEQ n) 1).endCommand k stAborted 4)
  else
    let slot := runSlot x.desc.program
    let r : Resident := ⟨slot, x.imageCommits, imageLines x.image, s.lastUse n slot x.imageCommits⟩
    let rs := s.residents n
    if rs.any fun q => q.slot == r.slot && q.commits == r.commits then .next (s.setCtx k { x with wait := .none })
    else
      let held := s.honoured.map runSlot
      match evictFor (fun r => s.runsResident n r || held.contains r.slot) r.lines [] rs with
      | none => .next s
      | some kept =>
        let order := kept.filter (·.used < r.used) ++ r :: kept.filter (r.used ≤ ·.used)
        .next ((s.setResidents n order).setCtx k { x with wait := .none })

end Sys2Proof.Machine
end

