-- ==== Sys2Proof/Machine/Sha.lean ====
section
/-! DEFINITION. SHA-256, SHA-384 and SHA-512 (FIPS 180-4), and HMAC over them (FIPS 198-1), named by Table 0.4. PRESUMED from the standards. -/
namespace Sys2Proof.Machine

/-- The round constants of SHA-256. -/
def shaK256 : List Nat :=
  [0x428A2F98, 0x71374491, 0xB5C0FBCF, 0xE9B5DBA5, 0x3956C25B, 0x59F111F1, 0x923F82A4, 0xAB1C5ED5] ++
  [0xD807AA98, 0x12835B01, 0x243185BE, 0x550C7DC3, 0x72BE5D74, 0x80DEB1FE, 0x9BDC06A7, 0xC19BF174] ++
  [0xE49B69C1, 0xEFBE4786, 0xFC19DC6, 0x240CA1CC, 0x2DE92C6F, 0x4A7484AA, 0x5CB0A9DC, 0x76F988DA] ++
  [0x983E5152, 0xA831C66D, 0xB00327C8, 0xBF597FC7, 0xC6E00BF3, 0xD5A79147, 0x6CA6351, 0x14292967] ++
  [0x27B70A85, 0x2E1B2138, 0x4D2C6DFC, 0x53380D13, 0x650A7354, 0x766A0ABB, 0x81C2C92E, 0x92722C85] ++
  [0xA2BFE8A1, 0xA81A664B, 0xC24B8B70, 0xC76C51A3, 0xD192E819, 0xD6990624, 0xF40E3585, 0x106AA070] ++
  [0x19A4C116, 0x1E376C08, 0x2748774C, 0x34B0BCB5, 0x391C0CB3, 0x4ED8AA4A, 0x5B9CCA4F, 0x682E6FF3] ++
  [0x748F82EE, 0x78A5636F, 0x84C87814, 0x8CC70208, 0x90BEFFFA, 0xA4506CEB, 0xBEF9A3F7, 0xC67178F2]

/-- The round constants of SHA-384 and SHA-512. -/
def shaK512 : List Nat :=
  [0x428A2F98D728AE22, 0x7137449123EF65CD, 0xB5C0FBCFEC4D3B2F, 0xE9B5DBA58189DBBC] ++
  [0x3956C25BF348B538, 0x59F111F1B605D019, 0x923F82A4AF194F9B, 0xAB1C5ED5DA6D8118] ++
  [0xD807AA98A3030242, 0x12835B0145706FBE, 0x243185BE4EE4B28C, 0x550C7DC3D5FFB4E2] ++
  [0x72BE5D74F27B896F, 0x80DEB1FE3B1696B1, 0x9BDC06A725C71235, 0xC19BF174CF692694] ++
  [0xE49B69C19EF14AD2, 0xEFBE4786384F25E3, 0xFC19DC68B8CD5B5, 0x240CA1CC77AC9C65] ++
  [0x2DE92C6F592B0275, 0x4A7484AA6EA6E483, 0x5CB0A9DCBD41FBD4, 0x76F988DA831153B5] ++
  [0x983E5152EE66DFAB, 0xA831C66D2DB43210, 0xB00327C898FB213F, 0xBF597FC7BEEF0EE4] ++
  [0xC6E00BF33DA88FC2, 0xD5A79147930AA725, 0x6CA6351E003826F, 0x142929670A0E6E70] ++
  [0x27B70A8546D22FFC, 0x2E1B21385C26C926, 0x4D2C6DFC5AC42AED, 0x53380D139D95B3DF] ++
  [0x650A73548BAF63DE, 0x766A0ABB3C77B2A8, 0x81C2C92E47EDAEE6, 0x92722C851482353B] ++
  [0xA2BFE8A14CF10364, 0xA81A664BBC423001, 0xC24B8B70D0F89791, 0xC76C51A30654BE30] ++
  [0xD192E819D6EF5218, 0xD69906245565A910, 0xF40E35855771202A, 0x106AA07032BBD1B8] ++
  [0x19A4C116B8D2D0C8, 0x1E376C085141AB53, 0x2748774CDF8EEB99, 0x34B0BCB5E19B48A8] ++
  [0x391C0CB3C5C95A63, 0x4ED8AA4AE3418ACB, 0x5B9CCA4F7763E373, 0x682E6FF3D6B2B8A3] ++
  [0x748F82EE5DEFB2FC, 0x78A5636F43172F60, 0x84C87814A1F0AB72, 0x8CC702081A6439EC] ++
  [0x90BEFFFA23631E28, 0xA4506CEBDE82BDE9, 0xBEF9A3F7B2C67915, 0xC67178F2E372532B] ++
  [0xCA273ECEEA26619C, 0xD186B8C721C0C207, 0xEADA7DD6CDE0EB1E, 0xF57D4F7FEE6ED178] ++
  [0x6F067AA72176FBA, 0xA637DC5A2C898A6, 0x113F9804BEF90DAE, 0x1B710B35131C471B] ++
  [0x28DB77F523047D84, 0x32CAAB7B40C72493, 0x3C9EBE0A15C9BEBC, 0x431D67C49C100D4C] ++
  [0x4CC5D4BECB3E42B6, 0x597F299CFC657E2A, 0x5FCB6FAB3AD6FAEC, 0x6C44198C4A475817]

def shaH256 : List Nat :=
  [0x6A09E667, 0xBB67AE85, 0x3C6EF372, 0xA54FF53A, 0x510E527F, 0x9B05688C, 0x1F83D9AB, 0x5BE0CD19]

def shaH384 : List Nat :=
  [0xCBBB9D5DC1059ED8, 0x629A292A367CD507, 0x9159015A3070DD17, 0x152FECD8F70E5939] ++
  [0x67332667FFC00B31, 0x8EB44A8768581511, 0xDB0C2E0D64F98FA7, 0x47B5481DBEFA4FA4]

def shaH512 : List Nat :=
  [0x6A09E667F3BCC908, 0xBB67AE8584CAA73B, 0x3C6EF372FE94F82B, 0xA54FF53A5F1D36F1] ++
  [0x510E527FADE682D1, 0x9B05688C2B3E6C1F, 0x1F83D9ABFB41BD6B, 0x5BE0CD19137E2179]

/-- Rotation amounts, shift amounts and the constants of one SHA-2 word size. -/
structure ShaParams where
  w : Nat
  rounds : Nat
  s0 : List Nat
  s1 : List Nat
  e0 : List Nat
  e1 : List Nat
  k : List Nat

/-- The parameters of SHA-256. -/
def shaP256 : ShaParams :=
  { w := 32, rounds := 64, s0 := [7, 18, 3], s1 := [17, 19, 10], e0 := [2, 13, 22], e1 := [6, 11, 25], k := shaK256 }

/-- The parameters of SHA-384 and SHA-512. -/
def shaP512 : ShaParams :=
  { w := 64, rounds := 80, s0 := [1, 8, 7], s1 := [19, 61, 6], e0 := [28, 34, 39], e1 := [14, 18, 41], k := shaK512 }

/-- Rotation right of a `w`-bit word. -/
def rotr (w n x : Nat) : Nat := x / 2 ^ n + (x % 2 ^ n) * 2 ^ (w - n)

/-- Exclusive or of three words. -/
def xor3 (a b c : Nat) : Nat := (a ^^^ b) ^^^ c

/-- The message-schedule functions: two rotations and a shift. -/
def shaSmall (p : ShaParams) (t : List Nat) (x : Nat) : Nat :=
  xor3 (rotr p.w (t.getD 0 0) x) (rotr p.w (t.getD 1 0) x) (x / 2 ^ t.getD 2 0)

/-- The round functions: three rotations. -/
def shaBig (p : ShaParams) (t : List Nat) (x : Nat) : Nat :=
  xor3 (rotr p.w (t.getD 0 0) x) (rotr p.w (t.getD 1 0) x) (rotr p.w (t.getD 2 0) x)

/-- The message schedule, newest word first. -/
def shaSchedule (p : ShaParams) : Nat → List Nat → List Nat
  | 0, ws => ws
  | n + 1, ws =>
    shaSchedule p n (((shaSmall p p.s1 (ws.getD 1 0) + ws.getD 6 0 + shaSmall p p.s0 (ws.getD 14 0) + ws.getD 15 0) % 2 ^ p.w) :: ws)

/-- One round on the eight working variables. -/
def shaRound (p : ShaParams) (v : List Nat) (kw : Nat) : List Nat :=
  match v with
  | [a, b, c, d, e, f, g, h] =>
    let ch := (e &&& f) ^^^ ((2 ^ p.w - 1 - e) &&& g)
    let maj := xor3 (a &&& b) (a &&& c) (b &&& c)
    let t1 := h + shaBig p p.e1 e + ch + kw
    let t2 := shaBig p p.e0 a + maj
    [(t1 + t2) % 2 ^ p.w, a, b, c, (d + t1) % 2 ^ p.w, e, f, g]
  | _ => v

/-- The compression of one block. -/
def shaBlock (p : ShaParams) (h : List Nat) (block : List Byte) : List Nat :=
  let n := p.w / 8
  let w16 := (List.range 16).map fun i => beNat (slice (n * i) n block)
  let ws := (shaSchedule p (p.rounds - 16) w16.reverse).reverse
  let v := (List.zipWith (· + ·) p.k ws).foldl (shaRound p) h
  List.zipWith (fun a b => (a + b) % 2 ^ p.w) h v

/-- The padded message. -/
def shaPad (p : ShaParams) (m : List Byte) : List Byte :=
  let blk := 2 * p.w
  let lenB := p.w / 4
  m ++ [0x80#8] ++ zeros ((blk - (m.length + 1 + lenB) % blk) % blk) ++ beBytes lenB (8 * m.length)

/-- A SHA-2 digest. -/
def shaDigest (p : ShaParams) (h : List Nat) (out : Nat) (m : List Byte) : List Byte :=
  let x := shaPad p m
  let n := x.length / (2 * p.w)
  (((List.range n).foldl (fun h i => shaBlock p h (slice (2 * p.w * i) (2 * p.w) x)) h).flatMap (beBytes (p.w / 8))).take out

def sha256 (m : List Byte) : List Byte := shaDigest shaP256 shaH256 32 m
def sha384 (m : List Byte) : List Byte := shaDigest shaP512 shaH384 48 m
def sha512 (m : List Byte) : List Byte := shaDigest shaP512 shaH512 64 m

/-- HMAC over a hash with a block of `blk` bytes. -/
def hmac (h : List Byte → List Byte) (blk : Nat) (key m : List Byte) : List Byte :=
  let k := fitBytes blk (if key.length > blk then h key else key)
  h (k.map (· ^^^ 0x5C#8) ++ h (k.map (· ^^^ 0x36#8) ++ m))

def hmacSha256 (key m : List Byte) : List Byte := hmac sha256 64 key m
def hmacSha384 (key m : List Byte) : List Byte := hmac sha384 128 key m
def hmacSha512 (key m : List Byte) : List Byte := hmac sha512 128 key m

end Sys2Proof.Machine
end

