-- ==== Sys2Proof/Machine/Lanes.lean ====
section
/-! DEFINITION. The cipher lanes and hash units: CIPH and HASH instructions, the completion of their operations, twin mismatches, the service of units and the start of their tests, reseeds and the cluster reset (R92, R93, R126-R156). -/
namespace Sys2Proof.Machine

/-! ## Service -/

/-- CC_INSERVICE of a cluster as its units stand: hash unit, format unit and a lane in service, and the cluster not drained under FREEZE
(Table 1.10, R104, R147, R150). -/
def State.settleCluster (s : State) (n : Nat) : State :=
  let up := (s.hashUnit n).svc.inService && (s.fmtUnit n).inService && !(s.lanesUp n).isEmpty &&
    !(s.get (R.BLK_FREEZE (pgSEQ n)) == 1 && (s.busyIn n).isEmpty)
  let s := if s.bit R.GBL_CC_INSERVICE n && !up then s.severity 3 else s
  (s.setBit R.GBL_CC_INSERVICE n up).settleTake

/-- A unit whose test has passed enters service once Flint is ready and, for a lane, its generator is seeded (R150). -/
def State.settleUnit (s : State) (n u : Nat) : State :=
  let v := s.unitSvc n u
  let ok := v.passed && (v.inService || s.get R.FLT_READY == 1) && (4 ≤ u || (s.lane n u).seeded)
  (s.updSvc n u fun v => { v with inService := ok }).settleCluster n

/-! ## Twin mismatches (R146, R148) -/

/-- The fault window in ns: 0 acts as 1 ms, values above 60,000 as 60,000 (Table 5.11). -/
def State.faultWindow (s : State) : Nat := max 1 (min 60000 (s.get R.CC0_FAULT_WINDOW)) * 1000000

/-- The bit of the event conditions that a cause of LOGIC takes: 14 for cause 1, 46 for cause 2, 78 for cause 3. -/
def logicCond (cause : Nat) : Nat := 14 + 32 * (cause - 1)

/-- Is an event condition sampled: has the block that feeds it reported ready since the reset (R288)? -/
def State.condOpen (s : State) (i : Nat) : Bool :=
  s.bit R.RST_BLK_READY (if i = 14 then 12 else if i = 46 then 4 else if i = 78 then 7 else if i = 15 then 10 else 0)

/-- An event the module itself raises at an Obsidian input, for its next sample; LOGIC and ENV_RNG are CRITICAL to Agate (Table 19.3). -/
def State.raiseInput (s : State) (i : Nat) : State :=
  let s := if i % 32 = 14 ∨ i = 15 then s.severity 4 else s
  if s.condOpen i then { s with ob.conds := putBit s.ob.conds i true } else s

/-- The mismatches inside the window that ends now. -/
def State.recentFaults (s : State) : Nat := (s.ci.faults.filter fun t => s.quartz < t + s.faultWindow).length

/-- A twin mismatch of any unit counted; where those of the window reach SCA_FAULT_LIMIT, LOGIC is raised (R148). The mismatches of the longest window
are kept, so that a longer one counts them. -/
def State.mismatch (s : State) : State :=
  let s := s.countSat R.CC0_FAULT_TOTAL
  let s : State := { s with ci.faults := (s.ci.faults ++ [s.quartz]).filter fun t => s.quartz < t + 60000000000 }
  if max 1 (s.get R.CC0_FAULT_LIMIT) ≤ s.recentFaults then
    ((s.countSat R.CC0_LOGIC_RAISED).raise (pgCC 0) 5).raiseInput (logicCond 2)
  else s

/-- A twin mismatch in a unit of a cipher cluster: its counters, INT_RAW bit 0 and the last-fault record. `kat` marks one a known-answer
test found. -/
def State.unitFault (s : State) (n u ctx : Nat) (kat : Bool) : State :=
  let s :=
    if u < 4 then
      let f := s.get (R.CC_FAULT_LANE n)
      let b := bitsOf f (8 * u) 8
      if b < 255 then s.set (R.CC_FAULT_LANE n) (f + 2 ^ (8 * u)) else s
    else if u = 4 then s.countSat (R.CC_FAULT_HASH n)
    else s.countSat (R.CC_FAULT_FMT n)
  let s := (s.set (R.CC_LAST_FAULT_UNIT n) u).set (R.CC_LAST_FAULT_KAT n) (b2n kat)
  let s := s.set (R.CC_LAST_FAULT_CTX n) (if kat then 0 else ctx)
  (s.raise (pgCC n) 0).mismatch

/-- A mismatch in a working unit: counted, its known-answer test starts, and the command it served ends with FAULT_DETECTED (R98,
R146). -/
def State.twinFault (s : State) (n u : Nat) (owner : Option Nat) : State :=
  let s := s.unitFault n u ((owner.getD 0) % 64) false
  let s := s.updSvc n u fun v => { v with katBusy := true }
  match owner with
  | some k => s.endCommand k stFaultDetected (unitDetail n u)
  | none => s

/-! ## Issue to the lanes (R91-R93) -/

/-- The bytes of the next operation of a stream instruction: at most sixteen blocks (R93). The padding block of method 2 after sixteen whole blocks is an
operation of its own, and a partial last block of XTS takes the full block before it along. -/
def StreamRun.next (r : StreamRun) : Nat :=
  let most := 16 * blkLen r.word.cipher
  if r.word.mode = mXTS ∧ r.word.final ∧ most < r.left ∧ r.left < most + 16 then most - 16 else min most r.left

/-- Is the next operation of a stream instruction its last? -/
def StreamRun.ends (r : StreamRun) : Bool :=
  r.next == r.left && !(r.word.final && r.word.pad == 2 && r.left == 16 * blkLen r.word.cipher)

/-- The next lane operation of a stream instruction over `bs`, with its output from `off` on. -/
def StreamRun.job (r : StreamRun) (off : Nat) (bs : List Byte) : LaneJob :=
  { word := { r.word with final := r.word.final && r.ends }, aad := r.aad, noOut := r.noOut, record := r.record, bytes := bs,
    expected := r.expected, dest := r.dest, off, last := r.ends }

/-- The stream operations of a context not yet issued go to the lanes, in order, as positions free and input arrives; IP and OP advance with each
(R72, R91-R93); past the 3 µs of a fence over a key the context holds, the command ends at this boundary (R102). -/
def State.pump (s : State) (k : Nat) : Nat → State
  | 0 => s
  | fuel + 1 =>
    let x := s.ctx k
    match x.run with
    | none => s
    | some r =>
      let n := clusterOf k
      let home := if r.word.chained then x.home.filter fun l => (s.lane n l).svc.inService else none
      match s.orphanField x with
      | some f => (s.updCtx k fun x => { x with pc := r.pc }).endCommand k stKeyOrphaned f
      | none =>
      if 4 ≤ s.lanesOut k ∨ !x.has (x.ip + r.next) ∨ s.xbarHeld n then s
      else match s.pickLane n home with
        | none => s
        | some l =>
          let j := r.job x.op (x.inBytes x.ip r.next)
          let q := j.part plainPath r.key.clear
          let o : UnitOp := { owner := some k, pc := r.pc, num := r.num, slot := r.slot, key := r.key, job := .lane j, blocks := q.blocks,
                              chained := r.word.chained, place := if r.word.hasOutput then some x.issued else none }
          let left := if r.ends then none else some { r with left := r.left - r.next, record := q.record }
          let x := { x with
            run := left, home := if r.word.chained then some l else x.home, issued := if r.word.hasOutput then x.issued + 1 else x.issued
            stream := if r.ends ∧ r.word.final then none else some q.record
            ip := (x.ip + r.next) % 2 ^ 24, op := if r.noOut then x.op else (x.op + q.out.length) % 2 ^ 24 }
          State.pump ((s.place n l o).setCtx k x) k fuel

/-- More operations than a context may have outstanding. -/
def pumpFuel : Nat := 5

/-- No lane of the cluster is in service: the command ends with FAULT_DETECTED, DETAIL naming the unit that left service last (R147). -/
def State.noUnit (s : State) (k slots u : Nat) : State :=
  let n := clusterOf k
  s.failAt k slots stFaultDetected (unitDetail n (Sparse.get u s.ci.lastOut n))

/-- A key slot used by an instruction: its key, or KEY_USAGE_DENIED with DETAIL 3 when it is empty (R71). -/
def State.withSlot (s : State) (k slots : Nat) (x : Context) (i : Nat) (f : KeySlot → Result) : Result :=
  match x.slot i with
  | none => .next (s.failAt k slots stKeyUsageDenied 3)
  | some y => f y

/-- CIPH 0x0 (R72): one block of A, or of A xor B. -/
def execCiphBlock (c : Ctx) (w : Insn) (s : State) : Result :=
  s.issue c 0x3 0x0 w fun x =>
    let k := ctxKey c
    let n := c.cc.val
    let l := laneWord (immBits w 0 16)
    if !l.valid true (modBit w 1) (modBit w 2) then .refused .reservedEncoding
    else s.withSlot k 1 x w.ka fun y =>
      if !l.fits y.key then .next (s.failAt k 1 stKeyUsageDenied y.field)
      else if (s.lanesUp n).isEmpty then .next (s.noUnit k 1 0)
      else match s.pickLane n none with
        | none => .next s
        | some lane =>
          let src := if modBit w 0 then xorBytes (x.vr w.a) (x.vr w.b) else x.vr w.a
          let j : LaneJob := { word := l, block := true, bytes := src.take (blkLen l.cipher), dest := w.d }
          let o : UnitOp := { owner := some k, pc := x.pc, num := x.retired, slot := w.ka, key := s.wires n y, job := .lane j, blocks := 1 }
          .next ((s.retire k 1 (x.claim o.dests)).place n lane o)

/-- CIPH 0x1 (R72, R93, R132-R134): a part of a stream over S[A] input bytes at IP. -/
def execCiphStream (c : Ctx) (w : Insn) (s : State) : Result :=
  s.issue c 0x3 0x1 w fun x =>
    let k := ctxKey c
    let l := laneWord (immBits w 0 16)
    let aad := modBit w 1
    let noOut := modBit w 2
    let cnt := x.sr w.a
    let slots := 2 + (cnt + 31) / 32
    if !l.valid false aad noOut ∨ w.a.val > 7 then .refused .reservedEncoding
    else s.withSlot k slots x w.ka fun y =>
      if !l.fits y.key then .next (s.failAt k slots stKeyUsageDenied y.field)
      else
        let r := x.stream.getD (Stream.fresh l w.ka (x.vr w.b))
        match streamCheck l x.stream.isSome r w.ka aad x.ip cnt with
        | some det => .next (s.failAt k slots stFormatError det)
        | none =>
          if cnt = 0 ∧ ¬ l.final then .next (s.retire k slots { x with stream := some r })
          else if (s.lanesUp c.cc).isEmpty then .next (s.noUnit k slots 0)
          else
            let run : StreamRun := { word := l, aad, noOut, slot := w.ka, key := s.wires c.cc y, left := cnt, dest := w.d, expected := x.vr w.d,
                                     pc := x.pc, num := x.retired, record := r }
            let x := x.claim (if ({ word := l, dest := w.d : LaneJob }).writesD then [w.d.val] else [])
            .next ((s.retire k slots { x with run := some run, home := if x.stream.isSome then x.home else none }).pump k pumpFuel)

/-! ## Execution and completion of lane operations (R127, R135-R140, R143, R146) -/

/-- Is shuffling on: SCA_SHUF_EN, which reads 1 and acts so outside MAKER, TEST_OPEN and ANALYSIS (R139)? -/
def State.shuffles (s : State) : Bool := s.get R.CC0_SHUF_EN == 1 || !([1, 3, 6].contains s.lcState)

/-- Where the draws of block `i` of a lane's executing operation begin, its mean and whether it shuffles: as they stood when it began, for a block that
had begun before SCA_CTRL changed (R139). -/
def State.drawOf (s : State) (n l i : Nat) : Nat × Nat × Bool :=
  let x := s.lane n l
  x.begun.getD i (s.ci.rounds + blockDraws * (i - x.begun.length), s.get R.CC0_DMEAN, s.shuffles)

/-- A datapath of a lane for its executing operation: dummy rounds at the mean in force, permutations where shuffling is on. -/
def State.lanePath (s : State) (n l : Nat) (chk : Bool) : Path :=
  { chk, slots := fun i rounds =>
      let d := s.drawOf n l i
      blockSlots d.2.2 d.2.1 d.1 rounds }

/-- The dummy rounds of the first `b` blocks of a lane's executing operation. -/
def State.laneDummies (s : State) (n l b : Nat) : Nat :=
  ((List.range b).map fun i =>
    let d := s.drawOf n l i
    dummyRounds d.2.1 d.1).sum

/-- `d` dummy rounds of a cluster counted, after the draws of `b` blocks. -/
def State.addDummies (s : State) (n b d : Nat) : State :=
  ({ s with ci.rounds := s.ci.rounds + blockDraws * b }).count (R.CC_DUMMY_CNT n) d

/-- The dummy rounds of `b` blocks that begin now, counted in DUMMY_CNT. -/
def State.countDummies (s : State) (n b : Nat) : State :=
  s.addDummies n b ((List.range b).map fun i => dummyRounds (s.get R.CC0_DMEAN) (s.ci.rounds + blockDraws * i)).sum

/-- A change of the mean or of the shuffling takes effect with the first block that starts after it (R139): how many blocks of an executing operation had begun is
free. -/
def State.keepBegun (s : State) : State :=
  s.ci.lanes.foldl (fun s e =>
    match e.2.exec with
    | none => s
    | some o =>
      let b := Config.blocksBegun s.frees % (o.blocks + 1) - e.2.begun.length
      let draws := (List.range b).map fun i => (s.ci.rounds + blockDraws * i, s.get R.CC0_DMEAN, s.shuffles)
      { s.updLane (e.1 / 4) (e.1 % 4) fun x => { x with begun := x.begun ++ draws } with
        ci.rounds := s.ci.rounds + blockDraws * b, frees := s.frees + 1 }) s

/-- Do the results of the two datapaths agree: is primary xor checker all ones (R127)? -/
def agree (primary checker : List Byte) : Bool :=
  primary.length == checker.length && (xorBytes primary checker).all (· == 0xFF#8)

/-- The checker's results, with a bit wrong where something upset a datapath. -/
def upset (ok : Bool) (bs : List Byte) : List Byte :=
  if ok then bs
  else match bs with
    | [] => [0]
    | b :: bs => (b ^^^ 1) :: bs

/-- The executing operation of a lane run in both datapaths under the key of its round-key buffer: the primary's result, and whether the two agree. -/
def State.runLane (s : State) (n l : Nat) (j : LaneJob) (ok : Bool) : PartOut × Bool :=
  let key := ((s.lane n l).bufExec.getD {}).clear
  let p := j.part (s.lanePath n l false) key
  let q := j.part (s.lanePath n l true) key
  (p, agree p.results (upset ok (complement q.results)))

/-- A datapath for lane work that runs whole within one instruction, its blocks numbered from the module's next draws on (R135-R137). -/
def State.workPath (s : State) (chk : Bool) : Path :=
  { chk, slots := fun i rounds => blockSlots s.shuffles (s.get R.CC0_DMEAN) (s.ci.rounds + blockDraws * i) rounds }

/-- `b` blocks of such work counted, with their dummy rounds; blocks whose twin results differ are not completed ones (R146, R155). -/
def State.countBlocks (s : State) (n l b : Nat) (agreed : Bool) : State :=
  (if agreed then (s.updLane n l fun x => { x with sinceReseed := x.sinceReseed + b }).count (R.CC_LANE_BLOCKS n l) b else s).countDummies n b

/-- Lane work in both datapaths of a lane: the primary's result, and whether the two agree (R127). The key enters as its two wires; the round-key buffers
are loaded for it and zeroed after it (R128). -/
def State.twinRun (s : State) (key : Masked) (ok : Bool) (f : Path → List Byte → List Byte) : List Byte × Bool :=
  let v := f (s.workPath false) key.clear
  (v, agree v (upset ok (complement (f (s.workPath true) key.clear))))

/-- The executing operation leaves a lane: its buffer and states are zeroed, but for round keys the waiting operation needs too (R128), and the waiting
operation starts. -/
def Lane.advance (x : Lane) (now : Nat) : Lane :=
  let busy := x.busyNs + (now - x.busyFrom.getD now)
  let keep := match x.exec, x.wait with | some a, some b => a.sameKey b | _, _ => false
  { x with exec := x.wait, wait := none, bufExec := if x.wait.isNone then none else if keep then x.bufExec else x.bufWait, bufWait := none,
           busyFrom := x.wait.map fun _ => now, busyNs := busy, begun := [] }

/-- The contexts of a cluster whose stream operations wait for a lane issue what they can, earliest dispatched first, after the moved operations (R91,
R147). -/
def State.pumpAll (s : State) (n : Nat) : State :=
  let s := s.seatMoved n 4
  ((s.busyIn n).mergeSort fun a b => a.2.order ≤ b.2.order).foldl (fun s e => s.pump e.1 pumpFuel) s

/-! ## Reseeds (R138) -/

/-- A cluster's random queue, the oldest byte first. -/
def State.queue (s : State) (n : Nat) : List Byte := Sparse.get [] s.fl.queues n

/-- The state with a random queue replaced. -/
def State.setQueue (s : State) (n : Nat) (bs : List Byte) : State := { s with fl.queues := Sparse.set [] s.fl.queues n bs }

/-- Bytes in a cluster's random queue. -/
def State.queueFill (s : State) (n : Nat) : Nat := (s.queue n).length

/-- `b` bytes taken from a cluster's random queue: each is delivered once, in order (R225). -/
def State.takeQueue (s : State) (n b : Nat) : List Byte × State := ((s.queue n).take b, s.setQueue n ((s.queue n).drop b))

/-- Is a lane generator's reseed due: at release to service, after 4,096 blocks, after 10 µs of busy time? -/
def State.reseedDue (s : State) (x : Lane) : Bool :=
  !x.seeded || 4096 ≤ x.sinceReseed || 10000 ≤ x.busyNs + (match x.busyFrom with | some t => s.quartz - t | none => 0)

/-- A lane generator takes its seed. -/
def State.reseed (s : State) (n l : Nat) : State :=
  let r := s.takeQueue n 32
  let s := r.2.updLane n l fun x =>
    { x with seed := r.1, seeded := true, stalled := false, sinceReseed := 0, busyNs := 0, busyFrom := x.busyFrom.map fun _ => s.quartz }
  (s.count (R.CC_RESEED_CNT n)).settleUnit n l

/-- A lane whose current seed has served 65,536 blocks takes a seed, or stalls where the queue has none. -/
def State.settleSeed (s : State) (n l : Nat) : State :=
  let x := s.lane n l
  if x.sinceReseed < 65536 ∨ x.stalled then s
  else if 32 ≤ s.queueFill n then s.reseed n l
  else ((s.updLane n l fun x => { x with stalled := true }).countSat (R.CC_RESEED_STALL n)).raise (pgCC n) 3

/-- What such work leaves of a cluster's lanes: those whose seed has served out take another or stall. -/
def State.settleSeeds (s : State) (n : Nat) : State := (List.range 4).foldl (fun s l => s.settleSeed n l) s

/-- LANE_RESEED (R138): a reseed that is due takes a 32-byte seed; with the queue empty the lane goes on with its seed, or stalls. -/
def execLaneReseed (n : Fin 16) (lane : Fin 4) (s : State) : Result :=
  if !s.reseedDue (s.lane n lane) then .next s
  else if 32 ≤ s.queueFill n then .next ((s.reseed n lane).pumpAll n)
  else .next (s.settleSeed n lane)

/-- LANE_OP_COMPLETE (R140): the executing operation of a lane ends. Its twin results are compared: a mismatch discards the result, ends
the command and starts the lane's test, while the waiting operation stays; otherwise the result is released. The dummy rounds it ran count in either
case. Nothing ends while the cluster's island relocks (R151). -/
def execLaneOpComplete (n : Fin 16) (lane : Fin 4) (twinOk : Bool) (s : State) : Result :=
  let x := s.lane n lane
  match x.exec with
  | none => .next s
  | some o =>
    match o.job with
    | .hash _ => .next s
    | .lane j =>
      if x.stalled ∨ x.svc.katBusy ∨ s.relocks n then .next s
      else
        let r := s.runLane n lane j twinOk
        let t := s.addDummies n (r.1.ciphered - x.begun.length) (s.laneDummies n lane r.1.ciphered)
        if !r.2 then
          let t := t.updLane n lane fun x => { x.advance s.quartz with exec := none, bufExec := none, wait := x.wait,
                                                                       bufWait := x.wait.map (·.key), busyFrom := none }
          let t := match o.owner with | some k => t.updCtx k fun x => { x with pc := o.pc } | none => t
          .next ((t.twinFault n lane o.owner).pumpAll n)
        else
          let t := t.updLane n lane fun x => { x.advance s.quartz with sinceReseed := x.sinceReseed + o.blocks }
          let t := t.count (R.CC_LANE_BLOCKS n lane) o.blocks
          let t := match o.owner with
            | some k => t.release k o.place { j.effect r.1 with pc := o.pc, num := o.num }
            | none => t
          .next ((t.settleSeed n lane).pumpAll n)

/-! ## Input chunks (R64) -/

/-- INPUT_CHUNK_READ (R64): the next 4 KiB of a running command's input arrives, up to 8 KiB ahead of IP: a chunk
that begins within them may be read whole (DESIGN CHOICE, log 181). Its transfer waits while the cluster's crossbars are frozen, and a window's while its channel
is (R253). Where IP stands in a shipped program the spec
does not list, and its input arrives as far as it reads it (DESIGN CHOICE, log 181). -/
def execInputChunkRead (c : Ctx) (data : List Byte) (s : State) : Result :=
  let k := ctxKey c
  let x := s.ctx k
  match x.cmd with
  | none => .next s
  | some cmd =>
    let r := x.input.length
    if cmd.desc.inInline ∨ r < 4096 ∨ r ≥ cmd.desc.inLen ∨ (x.ip + 8192 ≤ r ∧ ¬ x.image.code.isEmpty) ∨
        s.xbarHeld c.cc ∨ s.windowWaits cmd r (min 4096 (cmd.desc.inLen - r)) then .next s
    else
      let n := min 4096 (cmd.desc.inLen - r)
      let take := fun (s : State) (bs : List Byte) =>
        (s.setCtx k { x with input := x.input ++ fitBytes n bs, wait := if x.wait = .chunk then .none else x.wait }).pump k pumpFuel
      if cmd.windowIn then
        match s.windowInput cmd r n with
        | none => .next (s.endAt k stAborted 2)
        | some b => .next (take b.2 b.1)
      else .next (take s data)

/-! ## HASH (R73, R152-R154) -/

/-- The fields of a hash operation word, or none for a reserved one. -/
def hashWord (v : Nat) : Option HashWord :=
  let func := bitsOf v 0 4
  let out := bitsOf v 4 6
  let cust := bitsOf v 10 4
  let xof := func == 6 || func == 7 || func == 11 || func == 12
  if func > 12 ∨ bitsOf v 14 2 ≠ 0 ∨ (!xof ∧ out ≠ 0) ∨ (func < 11 ∧ cust ≠ 0) then none
  else some { func, outLen := if xof then out + 1 else [32, 48, 64, 32, 48, 64, 0, 0, 32, 48, 64].getD func 0, custLen := cust }

/-- Does the function take a key? -/
def HashWord.keyed (h : HashWord) : Bool := 8 ≤ h.func

/-- The digest. -/
def HashWord.digest (h : HashWord) (key cust m : List Byte) : List Byte :=
  match h.func with
  | 0 => sha256 m
  | 1 => sha384 m
  | 2 => sha512 m
  | 3 => sha3_256 m
  | 4 => sha3_384 m
  | 5 => sha3_512 m
  | 6 => shake128 h.outLen m
  | 7 => shake256 h.outLen m
  | 8 => hmacSha256 key m
  | 9 => hmacSha384 key m
  | 10 => hmacSha512 key m
  | 11 => kmac128 key m h.outLen (cust.take h.custLen)
  | _ => kmac256 key m h.outLen (cust.take h.custLen)

/-- Blocks compressed for `n` message bytes (Table 5.9). -/
def HashWord.blocks (h : HashWord) (n : Nat) : Nat :=
  let e := if h.outLen ≤ 31 then 2 else 3
  match h.func with
  | 0 => (n + 9 + 63) / 64
  | 1 | 2 => (n + 17 + 127) / 128
  | 3 => n / 136 + 1
  | 4 => n / 104 + 1
  | 5 => n / 72 + 1
  | 6 => n / 168 + 1
  | 7 => n / 136 + 1
  | 8 => (n + 9 + 63) / 64 + 3
  | 9 | 10 => (n + 17 + 127) / 128 + 3
  | 11 => (n + e) / 168 + 3
  | _ => (n + e) / 136 + 3

/-- Does a key fit a keyed hash function: class 3, 16 to 64 bytes (R152)? -/
def hashKeyFits (k : Key) : Bool := k.cls == 3 && 16 ≤ k.material.length && k.material.length ≤ 64

/-- The digest of a hash operation in one of the unit's two datapaths, both of which compute on true values (R154). -/
def HashJob.digest (j : HashJob) (key : List Byte) : List Byte := j.word.digest key j.cust j.bytes

/-- What the released digest of a hash operation does: the registers from D on, 16 bytes to each (R152). -/
def HashJob.effect (j : HashJob) (d : List Byte) : Effect :=
  { regs := (List.range ((j.word.outLen + 15) / 16)).map fun i => (j.dest + i, slice (16 * i) 16 d) }

/-- A hash instruction's key, for a keyed function: the pair of wires of slot KA, or the ending of its command (R71). With the unit out of service the
command ends with FAULT_DETECTED (R147). -/
def State.hashKey (s : State) (k slots : Nat) (x : Context) (h : HashWord) (w : Insn) (use : Masked → Result) : Result :=
  let go := fun (key : Masked) => if !(s.hashUnit (clusterOf k)).svc.inService then Host.Outcome.next (s.noUnit k slots 4) else use key
  if h.keyed then
    s.withSlot k slots x w.ka fun y =>
      if hashKeyFits y.key then go (s.wires (clusterOf k) y) else .next (s.failAt k slots stKeyUsageDenied y.field)
  else go {}

/-- A hash operation queued, its digest to D onward (R153): the instruction retires. -/
def State.hashQueue (s : State) (k slots : Nat) (x : Context) (h : HashWord) (w : Insn) (key : Masked) (m : List Byte) : State :=
  let j : HashJob := { word := h, cust := x.vr w.b, bytes := m, dest := w.d }
  let o : UnitOp := { owner := some k, pc := x.pc, num := x.retired, slot := w.ka, key, job := .hash j, blocks := h.blocks m.length }
  (s.retire k slots (x.claim o.dests)).updHash (clusterOf k) fun u => { u with queue := u.queue ++ [o] }

/-- HASH 0x0: S[A] input bytes at IP. The sum of IP and the count is judged before the key (DESIGN CHOICE, log 182: R73 orders neither). -/
def execHashStream (c : Ctx) (w : Insn) (s : State) : Result :=
  s.issue c 0x4 0x0 w fun x =>
    let k := ctxKey c
    let cnt := x.sr w.a
    let slots := 2 + (cnt + 63) / 64
    match hashWord (immBits w 0 16) with
    | none => .refused .reservedEncoding
    | some h =>
      if w.a.val > 7 then .refused .reservedEncoding
      else if x.startIp + cnt > 2 ^ 24 then .next (s.failAt k slots stFormatError 0xD005)
      else s.hashKey k slots x h w fun key => s.gather k x cnt fun m x => .next (s.hashQueue k slots x h w key m)

/-- HASH 0x1: IMM[23:16] + 1 bytes of V registers A onward. -/
def execHashRegisters (c : Ctx) (w : Insn) (s : State) : Result :=
  s.issue c 0x4 0x1 w fun x =>
    let k := ctxKey c
    let cnt := immBits w 16 8 + 1
    let slots := 2 + (cnt + 63) / 64
    match hashWord (immBits w 0 16) with
    | none => .refused .reservedEncoding
    | some h => s.hashKey k slots x h w fun key => .next (s.hashQueue k slots x h w key ((x.vRange w.a 16).take cnt))

/-- HASH_OP_COMPLETE (R153, R154): the executing hash operation ends; its blocks are compressed and counted, and its two digests are
compared before D is written. After a mismatch the waiting
operations stay until the unit's test ends (R146). -/
def execHashOpComplete (n : Fin 16) (twinOk : Bool) (s : State) : Result :=
  match (s.hashUnit n).queue with
  | [] => .next s
  | o :: os =>
    match o.job with
    | .lane _ => .next s
    | .hash j =>
      if (s.hashUnit n).svc.katBusy ∨ s.relocks n then .next s
      else
        let s := s.updHash n fun u => { u with queue := os }
        let s := s.count (R.CC_HASH_BLOCKS n) o.blocks
        let d := j.digest o.key.clear
        if d != upset twinOk (j.digest o.key.clear) then
          let s := match o.owner with | some k => s.updCtx k fun x => { x with pc := o.pc } | none => s
          .next (s.twinFault n 4 o.owner)
        else
          match o.owner with
          | some k => .next (s.release k none { j.effect d with pc := o.pc, num := o.num })
          | none => .next s

/-! ## Known-answer tests (R147, R150, R155) -/

/-- Is a unit idle, so that a requested test can run? A lane keeps its waiting operation while its test runs after a mismatch. -/
def State.unitIdle (s : State) (n u : Nat) : Bool :=
  if u < 4 then (s.lane n u).exec.isNone && ((s.lane n u).wait.isNone || (s.lane n u).svc.katBusy)
  else if u = 4 then (s.hashUnit n).queue.isEmpty || (s.hashUnit n).svc.katBusy
  else true

/-- The waiting operation of a lane that left service moves to the waiting position of another, or to the first that frees; its command ends with
FAULT_DETECTED where no lane is left (R147), and so do those of operations still waiting for a position. -/
def State.moveWaiting (s : State) (n l : Nat) : State :=
  let ops := (s.lane n l).wait.toList
  let s := s.updLane n l fun x => { x with wait := none, bufWait := none }
  if (s.lanesUp n).isEmpty then
    (s.movedOps n ++ ops).foldl (fun s o =>
      match o.owner with
      | some k => (s.updCtx k fun x => { x with pc := o.pc }).endCommand k stFaultDetected (unitDetail n l)
      | none => s) (s.setMoved n [])
  else (s.setMoved n (s.movedOps n ++ ops)).seatMoved n 4

/-- KAT_GO_LANE (R155): the tests of the named lanes are requested. -/
def execKatGoLane (n : Fin 16) (lanes : BitVec 4) (s : State) : Result :=
  if !s.responds (pgCC n) then .next s else
  s.crossing (pgCC n) (.katGoLane n lanes) fun s => (List.range 4).foldl (fun s l =>
    if lanes.getLsbD l then s.updSvc n l fun v => { v with katWanted := true } else s) s

/-- KAT_GO_HASH (R155): the hash unit's test is requested. -/
def execKatGoHash (n : Fin 16) (s : State) : Result :=
  if !s.responds (pgCC n) then .next s else
  s.crossing (pgCC n) (.katGoHash n) fun s => s.updSvc n 4 fun v => { v with katWanted := true }

/-- KAT_GO_FMT (R155): the format unit's test is requested. -/
def execKatGoFmt (n : Fin 16) (s : State) : Result :=
  if !s.responds (pgCC n) then .next s else
  s.crossing (pgCC n) (.katGoFmt n) fun s => s.updSvc n 5 fun v => { v with katWanted := true }

/-! ## The cluster reset (R151) -/

/-- No seed is being collected for an instance. -/
def State.dropSeed (s : State) (n : Nat) : State :=
  if s.fl.seedFor = some n then { s with fl.seed := [], fl.seedFor := none, fl.seedFrom := 0 } else s

/-- A cluster's Flint instance and queue are zeroed; the instance reinstantiates after its known-answer tests (R227, R236). -/
def State.dropInstance (s : State) (n : Nat) : State := State.dropSeed { s.setQueue n [] with fl.drbgs := Sparse.set {} s.fl.drbgs n {} } n

/-- The units of a cluster as a reset leaves them: out of service, their tests running (R150, R151). -/
def State.resetUnits (s : State) (n : Nat) : State :=
  let svc : Service := { katBusy := true }
  let s := (List.range 4).foldl (fun s l => s.updLane n l fun _ => { svc }) s
  let s := ((s.updHash n fun _ => { svc }).updFmt n fun _ => svc).setMoved n []
  s.settleCluster n

/-- A reset request that is ignored: one made through RST sets RST INT_RAW bit 3 (Table 16.9). -/
def State.resetIgnored (s : State) (viaRst : Bool) : State := if viaRst then s.raise pgRST 3 else s

/-- CC_RESET (R151): acts only while the cluster's SEQ BUSY reads 0. Its lanes and units are zeroed, its CC registers return to their reset
values, its Flint instance and random queue are zeroed (R236), and its tests run again. Ignored otherwise, and then a request through RST CC_RESET sets RST INT_RAW bit 3 (Table 16.9);
so for a cluster that is powered off (R20). The request crosses into the cluster's island, behind the writes that wait for its lock (R18, R19). -/
def execCcReset (n : Fin 16) (viaRst : Bool) (s : State) : Result :=
  if !s.responds (if viaRst then pgRST else pgCC n) then .next s else
  if !s.islandOn (pgCC n) then .next (s.resetIgnored viaRst)
  else s.crossing (pgCC n) (.ccReset n viaRst) fun s =>
    if (s.busyIn n).isEmpty then
      let s := s.resetPage (pgCC n)
      let s : State := if n.val = 0 then { s with ci.faults := [] } else s
      (((s.setResidents n []).dropInstance n).resetUnits n).raise pgRST 2
    else s.resetIgnored viaRst

end Sys2Proof.Machine
end

