-- ==== Sys2Proof/Machine/Lattice.lean ====
section
/-! DEFINITION. The arithmetic of the lattice unit: polynomials of 256 coefficients modulo a prime, the number-theoretic transform with its butterfly order, sampling from SHAKE, and the packing of coefficients (R157, R169, R174). The algorithms are those of FIPS 203 and FIPS 204, which Table 0.4 names (PRESUMED, log 130). -/
namespace Sys2Proof.Machine

/-- A polynomial: 256 coefficients, lowest first. -/
abbrev Poly := Array Nat

/-- The ring of a standard: its prime, the root of unity of its transform, the layers of the transform, and the inverse of 2 to their number. -/
structure LatticeRing where
  q : Nat
  root : Nat
  layers : Nat
  scale : Nat
deriving DecidableEq, Repr

/-- The ring of ML-KEM. -/
def kemRing : LatticeRing := { q := 3329, root := 17, layers := 7, scale := 3303 }

/-- The ring of ML-DSA. -/
def dsaRing : LatticeRing := { q := 8380417, root := 1753, layers := 8, scale := 8347681 }

/-- A coefficient of a polynomial. -/
def coef (f : Poly) (i : Nat) : Nat := f.getD i 0

/-- A polynomial from its coefficients. -/
def polyOf (f : Nat → Nat) : Poly := Array.ofFn fun i : Fin 256 => f i.val

/-- `n` low bits of a number, reversed. -/
def bitRev : Nat → Nat → Nat
  | 0, _ => 0
  | n + 1, v => v % 2 * 2 ^ n + bitRev n (v / 2)

/-- `b ^ e` modulo `m`, for an exponent below 2^9. -/
def smallPow (b e m : Nat) : Nat := (List.range 9).foldr (fun i acc => acc * acc % m * (if bitOf e i then b else 1) % m) 1

/-- The power of the root that butterfly group `i` of a transform uses. -/
def LatticeRing.zeta (r : LatticeRing) (i : Nat) : Nat := smallPow r.root (bitRev r.layers i) r.q

/-- The butterfly that stands in place `t` of layer `l` in a run: `((t xor x) + y) mod 128`, x and y the two bytes of the run's sixteen that belong to the
layer (DESIGN CHOICE, log 185: R169 gives the sixteen bytes and not the permutation; no result depends on it). -/
def butterfly (perm : List Byte) (l t : Nat) : Nat :=
  ((t ^^^ ((perm.getD (2 * l) 0).toNat % 128)) + (perm.getD (2 * l + 1) 0).toNat) % 128

/-- One layer of a transform: its 128 butterflies, in the run's order. Butterfly `b` of layer `l` acts on the places `j` and `j + len`. -/
def LatticeRing.layer (r : LatticeRing) (perm : List Byte) (inverse : Bool) (l : Nat) (f : Poly) : Poly :=
  let len := 128 / 2 ^ l
  let groups := 2 ^ l
  (List.range 128).foldl (fun f t =>
    let b := butterfly perm l t
    let g := b / len
    let j := 2 * len * g + b % len
    let u := coef f j
    let v := coef f (j + len)
    if inverse then
      let z := r.zeta (2 * groups - 1 - g)
      (f.setIfInBounds j ((u + v) % r.q)).setIfInBounds (j + len) (z * (v + r.q - u) % r.q)
    else
      let w := r.zeta (groups + g) * v % r.q
      (f.setIfInBounds j ((u + w) % r.q)).setIfInBounds (j + len) ((u + r.q - w) % r.q)) f

/-- The number-theoretic transform. -/
def LatticeRing.ntt (r : LatticeRing) (perm : List Byte) (f : Poly) : Poly := (List.range r.layers).foldl (fun f l => r.layer perm false l f) f

/-- Its inverse. -/
def LatticeRing.intt (r : LatticeRing) (perm : List Byte) (f : Poly) : Poly :=
  ((List.range r.layers).foldr (fun l f => r.layer perm true l f) f).map (· * r.scale % r.q)

/-- The sum of two polynomials. -/
def LatticeRing.add (r : LatticeRing) (f g : Poly) : Poly := polyOf fun i => (coef f i + coef g i) % r.q

/-- The difference of two polynomials. -/
def LatticeRing.sub (r : LatticeRing) (f g : Poly) : Poly := polyOf fun i => (coef f i + r.q - coef g i % r.q) % r.q

/-- The zero polynomial. -/
def polyZero : Poly := polyOf fun _ => 0

/-- The product of two transformed polynomials: coefficient by coefficient where the transform has eight layers, pairs of coefficients modulo
X^2 - root^(2 BitRev7(i) + 1) where it has seven. -/
def LatticeRing.mul (r : LatticeRing) (f g : Poly) : Poly :=
  if r.layers = 8 then polyOf fun i => coef f i * coef g i % r.q
  else
    polyOf fun i =>
      let e := i / 2 * 2
      let gamma := smallPow r.root (2 * bitRev 7 (i / 2) + 1) r.q
      if i % 2 = 0 then (coef f e * coef g e + coef f (e + 1) * coef g (e + 1) % r.q * gamma) % r.q
      else (coef f e * coef g (e + 1) + coef f (e + 1) * coef g e) % r.q

/-- The inner product of two vectors of transformed polynomials. -/
def LatticeRing.dot (r : LatticeRing) (f g : List Poly) : Poly := (f.zip g).foldl (fun acc e => r.add acc (r.mul e.1 e.2)) polyZero

/-- The first 256 accepted values of a stream of candidates. -/
def accepted (xs : List (Option Nat)) : Poly := ((xs.filterMap id).take 256).toArray

/-- A transformed polynomial sampled from 1,176 bytes of SHAKE128, three bytes at a time: two 12-bit candidates (ML-KEM), or one of 23 bits (ML-DSA). -/
def LatticeRing.sampleNtt (r : LatticeRing) (seed : List Byte) : Poly :=
  let bs := (shake128 1176 seed).toArray
  let at' := fun i => (bs.getD i 0).toNat
  let keep := fun v => if v < r.q then some v else none
  accepted ((List.range 392).flatMap fun i =>
    let (a, b, c) := (at' (3 * i), at' (3 * i + 1), at' (3 * i + 2))
    if r.layers = 8 then [keep (a + 256 * b + 65536 * (c % 128))] else [keep (a + 256 * (b % 16)), keep (b / 16 + 16 * c)])

/-- 256 values of `d` bits each, packed little-endian. -/
def packBits (d : Nat) (f : Nat → Nat) : List Byte := leBytes (32 * d) ((List.range 256).foldr (fun i acc => f i % 2 ^ d + 2 ^ d * acc) 0)

/-- 256 values of `d` bits each, read from 32 d bytes. -/
def unpackBits (d : Nat) (bs : List Byte) : Poly :=
  let v := leNat (bs.take (32 * d))
  polyOf fun i => bitsOf v (d * i) d

/-- Consecutive byteRuns of a byte string. -/
def byteRuns (n len : Nat) (bs : List Byte) : List (List Byte) := (List.range n).map fun i => slice (len * i) len bs

/-- Bits of a number. -/
def bitWidth (n : Nat) : Nat := if n = 0 then 0 else Nat.log2 n + 1

end Sys2Proof.Machine
end

