-- ==== Sys2Proof/Machine/MlDsa.lean ====
section
/-! DEFINITION. ML-DSA (FIPS 204): key generation, signing and verification for the three parameter sets of Table 6.9. `perm` is a run's butterfly order (R169). PRESUMED from the standard (log 130). -/
namespace Sys2Proof.Machine

/-- A parameter set of ML-DSA: `lambda` bytes of the commitment hash. -/
structure DsaSet where
  k : Nat
  l : Nat
  eta : Nat
  tau : Nat
  lambda : Nat
  gamma1 : Nat
  gamma2 : Nat
  omega : Nat
deriving DecidableEq, Repr

/-- Parameter set 0, 1 or 2: ML-DSA-44, 65, 87. -/
def dsaSet (set : Nat) : DsaSet :=
  if set = 0 then { k := 4, l := 4, eta := 2, tau := 39, lambda := 32, gamma1 := 2 ^ 17, gamma2 := 95232, omega := 80 }
  else if set = 1 then { k := 6, l := 5, eta := 4, tau := 49, lambda := 48, gamma1 := 2 ^ 19, gamma2 := 261888, omega := 55 }
  else { k := 8, l := 7, eta := 2, tau := 60, lambda := 64, gamma1 := 2 ^ 19, gamma2 := 261888, omega := 75 }

/-- The modulus of ML-DSA. -/
def dsaQ : Nat := dsaRing.q

/-- The distance of a coefficient from zero. -/
def dsaAbs (x : Nat) : Nat := min x (dsaQ - x)

/-- Are all coefficients of a vector nearer to zero than `b`? -/
def dsaShort (b : Nat) (fs : List Poly) : Bool := fs.all fun f => f.all fun x => dsaAbs x < b

/-- `a - x` modulo the prime. -/
def dsaNeg (a x : Nat) : Nat := (a + dsaQ - x % dsaQ) % dsaQ

/-- t1 and t0 of a coefficient: `x = 2^13 t1 + t0`, t0 modulo the prime. -/
def power2Round (x : Nat) : Nat × Nat :=
  let r := x % 8192
  if r ≤ 4096 then (x / 8192, r) else (x / 8192 + 1, dsaQ + r - 8192)

/-- The high part of a coefficient and its low part, modulo the prime. -/
def DsaSet.decompose (p : DsaSet) (x : Nat) : Nat × Nat :=
  let r := x % (2 * p.gamma2)
  let (base, low) := if r ≤ p.gamma2 then (x - r, r) else (x + 2 * p.gamma2 - r, dsaQ + r - 2 * p.gamma2)
  if base = dsaQ - 1 then (0, dsaNeg low 1) else (base / (2 * p.gamma2), low)

/-- The number of high parts. -/
def DsaSet.highs (p : DsaSet) : Nat := (dsaQ - 1) / (2 * p.gamma2)

/-- A high part corrected by its hint. -/
def DsaSet.useHint (p : DsaSet) (h x : Nat) : Nat :=
  let (hi, lo) := p.decompose x
  if h = 0 then hi else if 0 < lo ∧ lo ≤ p.gamma2 then (hi + 1) % p.highs else (hi + p.highs - 1) % p.highs

/-- The matrix. -/
def DsaSet.matrix (p : DsaSet) (rho : List Byte) : List (List Poly) :=
  (List.range p.k).map fun r => (List.range p.l).map fun s => dsaRing.sampleNtt (rho ++ leBytes 1 s ++ leBytes 1 r)

/-- A polynomial of small coefficients, sampled from SHAKE256. -/
def DsaSet.bounded (p : DsaSet) (seed : List Byte) : Poly :=
  let keep := fun b => if p.eta = 2 then (if b < 15 then some (dsaNeg 2 (b % 5)) else none) else if b < 9 then some (dsaNeg 4 b) else none
  accepted ((shake256 680 seed).flatMap fun b => [keep (loNib b), keep (hiNib b)])

/-- Bits of a packed mask coefficient. -/
def DsaSet.maskBits (p : DsaSet) : Nat := 1 + bitWidth (p.gamma1 - 1)

/-- The mask vector of an iteration. -/
def DsaSet.mask (p : DsaSet) (seed : List Byte) (kappa : Nat) : List Poly :=
  (List.range p.l).map fun r =>
    let f := unpackBits p.maskBits (shake256 (32 * p.maskBits) (seed ++ leBytes 2 (kappa + r)))
    polyOf fun i => dsaNeg p.gamma1 (coef f i)

/-- The challenge: `tau` coefficients of 1 or -1, placed by SHAKE256. -/
def DsaSet.challenge (p : DsaSet) (seed : List Byte) : Poly :=
  let bs := shake256 408 seed
  let signs := leNat (bs.take 8)
  ((List.range p.tau).foldl (fun (st : Poly × List Byte) t =>
    let i := 256 - p.tau + t
    let rest := st.2.dropWhile fun b => decide (i < b.toNat)
    let j := (rest.getD 0 0).toNat
    ((st.1.setIfInBounds i (coef st.1 j)).setIfInBounds j (if bitOf signs t then dsaQ - 1 else 1), rest.drop 1)) (polyZero, bs.drop 8)).1

/-- Coefficients between -a and b packed as b minus them. -/
def dsaPack (a b : Nat) (f : Poly) : List Byte := packBits (bitWidth (a + b)) fun i => dsaNeg b (coef f i)

/-- Coefficients back from that packing. -/
def dsaUnpack (a b : Nat) (bs : List Byte) : Poly := let f := unpackBits (bitWidth (a + b)) bs; polyOf fun i => dsaNeg b (coef f i)

/-- Bytes of that packing. -/
def dsaPackLen (a b : Nat) : Nat := 32 * bitWidth (a + b)

/-- The private key, read. -/
structure DsaPrivate where
  rho : List Byte
  key : List Byte
  tr : List Byte
  s1 : List Poly
  s2 : List Poly
  t0 : List Poly

/-- Key generation: the public key and the private key, from a 32-byte seed. -/
def DsaSet.keygen (p : DsaSet) (perm xi : List Byte) : List Byte × List Byte :=
  let h := shake256 128 (xi ++ leBytes 1 p.k ++ leBytes 1 p.l)
  let (rho, rho', key) := (h.take 32, slice 32 64 h, h.drop 96)
  let s1 := (List.range p.l).map fun r => p.bounded (rho' ++ leBytes 2 r)
  let s2 := (List.range p.k).map fun r => p.bounded (rho' ++ leBytes 2 (p.l + r))
  let hat := s1.map (dsaRing.ntt perm)
  let t := (p.matrix rho).zip s2 |>.map fun e => dsaRing.add (dsaRing.intt perm (dsaRing.dot e.1 hat)) e.2
  let pk := rho ++ t.flatMap fun f => packBits 10 fun i => (power2Round (coef f i)).1
  let sk := rho ++ key ++ shake256 64 pk ++ (s1 ++ s2).flatMap (dsaPack p.eta p.eta) ++
    t.flatMap fun f => dsaPack 4095 4096 (f.map fun x => (power2Round x).2)
  (pk, sk)

/-- The parts of a private key's encoding. -/
def DsaSet.readPrivate (p : DsaSet) (sk : List Byte) : DsaPrivate :=
  let n := dsaPackLen p.eta p.eta
  let small := fun first m => (byteRuns m n (sk.drop (128 + n * first))).map (dsaUnpack p.eta p.eta)
  { rho := sk.take 32, key := slice 32 32 sk, tr := slice 64 64 sk, s1 := small 0 p.l, s2 := small p.l p.k,
    t0 := (byteRuns p.k 416 (sk.drop (128 + n * (p.l + p.k)))).map (dsaUnpack 4095 4096) }

/-- The public key a private key's encoding determines. -/
def DsaSet.publicOf (p : DsaSet) (perm sk : List Byte) : List Byte :=
  let x := p.readPrivate sk
  let hat := x.s1.map (dsaRing.ntt perm)
  let t := (p.matrix x.rho).zip x.s2 |>.map fun e => dsaRing.add (dsaRing.intt perm (dsaRing.dot e.1 hat)) e.2
  x.rho ++ t.flatMap fun f => packBits 10 fun i => (power2Round (coef f i)).1

/-- The positions of the hints, packed. -/
def DsaSet.packHints (p : DsaSet) (hs : List (List Nat)) : List Byte :=
  let ends := (List.range p.k).map fun i => ((hs.take (i + 1)).map List.length).sum
  fitBytes p.omega (hs.flatten.map (BitVec.ofNat 8)) ++ ends.map (BitVec.ofNat 8)

/-- Are the numbers rising? -/
def rising : List Nat → Bool
  | a :: b :: xs => decide (a < b) && rising (b :: xs)
  | _ => true

/-- The positions of the hints of a signature, or none where their encoding is malformed. -/
def DsaSet.unpackHints (p : DsaSet) (bs : List Byte) : Option (List (List Nat)) :=
  let ends := (List.range p.k).map fun i => (bs.getD (p.omega + i) 0).toNat
  let starts := 0 :: ends
  let at' := fun i => ((bs.drop (starts.getD i 0)).take (ends.getD i 0 - starts.getD i 0)).map BitVec.toNat
  let total := ends.getD (p.k - 1) 0
  if (List.range p.k).all (fun i => decide (starts.getD i 0 ≤ ends.getD i 0 ∧ ends.getD i 0 ≤ p.omega) && rising (at' i)) &&
      ((bs.take p.omega).drop total).all (· == 0) then some ((List.range p.k).map at') else none

/-- The high parts of a vector, packed. -/
def DsaSet.packHighs (p : DsaSet) (fs : List Poly) : List Byte := fs.flatMap fun f => packBits (bitWidth (p.highs - 1)) (coef f)

/-- One iteration of the signing loop: the signature, or none where it is rejected. -/
def DsaSet.attempt (p : DsaSet) (perm : List Byte) (x : DsaPrivate) (a : List (List Poly)) (mu seed : List Byte) (kappa : Nat) :
    Option (List Byte) :=
  let y := p.mask seed kappa
  let yHat := y.map (dsaRing.ntt perm)
  let w := a.map fun r => dsaRing.intt perm (dsaRing.dot r yHat)
  let tag := shake256 p.lambda (mu ++ p.packHighs (w.map fun f => f.map fun v => (p.decompose v).1))
  let c := dsaRing.ntt perm (p.challenge tag)
  let times := fun f => dsaRing.intt perm (dsaRing.mul c (dsaRing.ntt perm f))
  let z := (y.zip x.s1).map fun e => dsaRing.add e.1 (times e.2)
  let rest := (w.zip x.s2).map fun e => dsaRing.sub e.1 (times e.2)
  let beta := p.tau * p.eta
  if !dsaShort (p.gamma1 - beta) z || !dsaShort (p.gamma2 - beta) (rest.map fun f => f.map fun v => (p.decompose v).2) then none
  else
    let ct0 := x.t0.map times
    let hints := (rest.zip ct0).map fun e =>
      (List.range 256).filter fun i =>
        (p.decompose ((coef e.1 i + coef e.2 i) % dsaQ)).1 != (p.decompose (coef e.1 i)).1
    if !dsaShort p.gamma2 ct0 || decide (p.omega < (hints.map List.length).sum) then none
    else some (tag ++ z.flatMap (dsaPack (p.gamma1 - 1) p.gamma1) ++ p.packHints hints)

/-- The signing loop: the first attempt that is not rejected, with the iterations it took; none after `fuel` of them. -/
def DsaSet.loop (p : DsaSet) (perm : List Byte) (x : DsaPrivate) (a : List (List Poly)) (mu seed : List Byte) :
    Nat → Nat → Option (List Byte × Nat)
  | 0, _ => none
  | fuel + 1, i =>
    match p.attempt perm x a mu seed (p.l * i) with
    | some sig => some (sig, i + 1)
    | none => p.loop perm x a mu seed fuel (i + 1)

/-- The signature of a message with its context (`text`: the length of the context, the context, the message) under a private key, with the
iterations it took, fewer than 1,000; none where the loop reaches 1,000 (R175). -/
def DsaSet.sign (p : DsaSet) (perm sk text rnd : List Byte) : Option (List Byte × Nat) :=
  let x := p.readPrivate sk
  let mu := shake256 64 (x.tr ++ 0 :: text)
  p.loop perm x (p.matrix x.rho) mu (shake256 64 (x.key ++ rnd ++ mu)) 999 0

/-- Does a signature of a message with its context hold under a public key? -/
def DsaSet.verify (p : DsaSet) (perm pk text sig : List Byte) : Bool :=
  let zLen := dsaPackLen (p.gamma1 - 1) p.gamma1
  let tag := sig.take p.lambda
  let z := (byteRuns p.l zLen (sig.drop p.lambda)).map (dsaUnpack (p.gamma1 - 1) p.gamma1)
  match p.unpackHints (sig.drop (p.lambda + zLen * p.l)) with
  | none => false
  | some hs =>
    let mu := shake256 64 (shake256 64 pk ++ 0 :: text)
    let c := dsaRing.ntt perm (p.challenge tag)
    let zHat := z.map (dsaRing.ntt perm)
    let t1 := (byteRuns p.k 320 (pk.drop 32)).map fun bs => dsaRing.ntt perm ((unpackBits 10 bs).map (· * 8192 % dsaQ))
    let w := ((p.matrix (pk.take 32)).zip t1).map fun e =>
      dsaRing.intt perm (dsaRing.sub (dsaRing.dot e.1 zHat) (dsaRing.mul c e.2))
    let highs := (w.zip hs).map fun e => polyOf fun i => p.useHint (b2n (e.2.contains i)) (coef e.1 i)
    dsaShort (p.gamma1 - p.tau * p.eta) z && shake256 p.lambda (mu ++ p.packHighs highs) == tag

end Sys2Proof.Machine
end

