-- ==== Sys2Proof/Machine/KeyTable.lean ====
section
/-! DEFINITION. The key table: handles, lines and records, their wrapping, the fill walk, and what each change of a line sends to the standby and to the domain (R187-R202, R208, R343, R366). -/
namespace Sys2Proof.Machine

/-! ## Handles (R188) -/

/-- The handle that names no key. -/
def noHandle : Nat := 0xFFFFFFFF

/-- SCOPE of a handle. -/
def handleScope (h : Nat) : Nat := h / 2 ^ 28

/-- INDEX of a handle. -/
def handleIndex (h : Nat) : Nat := h % 2 ^ 28

/-- The partition of a line key. -/
def linePart (k : Nat) : Nat := k / 2 ^ 32

/-- The handle of a line key. -/
def lineHandle (k : Nat) : Nat := k % 2 ^ 32

/-- The line quota of a scope. -/
def State.scopeQuota (s : State) (p scope : Nat) : Nat :=
  if scope = 0 then (s.part p).quotaPart else if scope = 1 then (s.part p).quotaDom
  else if scope = 2 ∧ p = 0 then (s.part p).quotaMod else 0

/-- The root of a scope. -/
def State.scopeRoot (s : State) (p scope : Nat) : Root :=
  if scope = 0 then (s.part p).proot else if scope = 1 then (s.part p).droot else (s.part p).mroot

/-- Is the module enrolled in a domain? -/
def State.enrolled (s : State) : Bool := s.get R.FVL0_ENROLLED == 1

/-- May the partition's commands name this handle (R188)? -/
def State.mayName (s : State) (p h : Nat) : Bool :=
  let scope := handleScope h
  h ≠ noHandle && handleIndex h < s.scopeQuota p scope &&
    (scope == 0 || (scope == 1 && s.enrolled) || (scope == 2 && p == 0))

/-! ## Records (R190-R194) -/

/-- Lines of a record of `mlen` material bytes (R191). -/
def recordLines (mlen : Nat) : Nat := 1 + (mlen - 64 + 111) / 112

/-- Cache entries of a key of `mlen` material bytes (R206). -/
def keyEntries (mlen : Nat) : Nat := max 1 ((mlen + 63) / 64)

/-- The root key bytes; a root that does not exist has none the spec names, so its bytes are free. -/
def State.rootKey (s : State) (p scope : Nat) : List Byte :=
  ((s.scopeRoot p scope).key).getD ((List.range 32).map fun i => Config.absentRoot (32 * (4 * p + scope) + i))

/-- K_ENC ("GTE") or K_MAC ("GTM") of a scope (R192). -/
def State.tableKey (s : State) (label : List Byte) (p scope tepoch : Nat) : List Byte :=
  kdfCmac (s.rootKey p scope) label (leBytes 2 p ++ leBytes 1 scope ++ leBytes 4 tepoch)

/-- "GTE". -/
def labelGTE : List Byte := [0x47, 0x54, 0x45]

/-- "GTM". -/
def labelGTM : List Byte := [0x47, 0x54, 0x4D]

/-- The header of a base line, bytes 0-47 (Table 7.3). -/
def recordHeader (gen : Nat) (live : Bool) (r : KeyRecord) : List Byte :=
  let k := r.key
  let n := if live then k.material.length else 0
  [1] ++ leBytes 1 (if live then k.ktype.code else 0) ++ leBytes 1 (if live then k.cls else 0) ++
  leBytes 1 (if live then k.sel else 0) ++ leBytes 2 n ++ leBytes 1 (recordLines n) ++ leBytes 1 (k.level % 8) ++
  leBytes 2 k.usage ++ leBytes 2 k.attr ++ leBytes 4 r.parent ++ leBytes 3 r.parentGen ++ [0] ++ leBytes 3 gen ++ [0] ++
  leBytes 4 k.epoch ++ fitBytes 3 k.kcv ++ [0] ++ leBytes 2 r.owner ++ [0, 0] ++ leBytes 4 r.tepoch ++ leBytes 8 k.created

/-- The initial counter block of a record (R192). -/
def recordCounter (p scope index gen : Nat) : List Byte :=
  leBytes 2 p ++ leBytes 1 scope ++ leBytes 4 index ++ leBytes 3 gen ++ zeros 6

/-- The MAC binding of line `j` of a record (R192). -/
def recordBinding (p scope index j gen tepoch : Nat) : List Byte :=
  leBytes 2 p ++ leBytes 1 scope ++ leBytes 4 index ++ leBytes 2 j ++ leBytes 3 gen ++ leBytes 4 tepoch

/-- Header and encrypted material laid over the lines, without their MACs. -/
def lineContents (header ct : List Byte) (n : Nat) : List (List Byte) :=
  (header ++ ct.take 64) :: (List.range (n - 1)).map fun j => slice (64 + 112 * j) 112 ct

/-- The lines of a record or tombstone at a handle, as written (R190-R192). -/
def State.recordBytes (s : State) (p h gen : Nat) (live : Bool) (r : KeyRecord) : List Byte :=
  let scope := handleScope h
  let index := handleIndex h
  let m := if live then r.key.material else []
  let n := recordLines m.length
  let ct := ctrMode (s.tableKey labelGTE p scope r.tepoch) (recordCounter p scope index gen) 4 (fitBytes (64 + 112 * (n - 1)) m)
  let kmac := s.tableKey labelGTM p scope r.tepoch
  ((lineContents (recordHeader gen live r) ct n).mapIdx fun j body =>
    body ++ cmac 0 kmac (recordBinding p scope index j gen r.tepoch ++ body)).flatten

/-- The bytes of a base line in the table, live or tombstone. -/
def State.lineBytes (s : State) (key : Nat) (l : KeyLine) : List Byte :=
  match l.record with
  | some r => s.recordBytes (linePart key) (lineHandle key) l.gen l.live r
  | none => []

/-- The key type a TYPE field codes. -/
def ktypeOf (v : Nat) : KType := if v = 2 then .priv else if v = 3 then .pub else .secret

/-- The line a record's bytes place at a handle, or none where a MAC fails or the lines are not those of a record (R192, R201). -/
def State.readRecord (s : State) (p h : Nat) (bs : List Byte) : Option KeyLine :=
  let scope := handleScope h
  let index := handleIndex h
  let n := leNat (slice 6 1 bs)
  let gen := leNat (slice 20 3 bs)
  let tep := leNat (slice 36 4 bs)
  let kmac := s.tableKey labelGTM p scope tep
  let macOk := (List.range n).all fun j =>
    let body := slice (128 * j) 112 bs
    cmac 0 kmac (recordBinding p scope index j gen tep ++ body) == slice (128 * j + 112) 16 bs
  let mlen := leNat (slice 4 2 bs)
  if n = 0 ∨ bs.length < 128 * n ∨ ¬ macOk ∨ (s.scopeRoot p scope).key.isNone ∨ recordLines mlen ≠ n then none
  else
    let ct := slice 48 64 bs ++ (List.range (n - 1)).flatMap fun j => slice (128 * (j + 1)) 112 bs
    let m := (ctrMode (s.tableKey labelGTE p scope tep) (recordCounter p scope index gen) 4 ct).take mlen
    let type := leNat (slice 1 1 bs) % 16
    let key : Key :=
      { ktype := ktypeOf type, cls := leNat (slice 2 1 bs) % 16, sel := leNat (slice 3 1 bs), level := leNat (slice 7 1 bs) % 8,
        usage := leNat (slice 8 2 bs) % 2 ^ 14, attr := leNat (slice 10 2 bs), epoch := leNat (slice 24 4 bs),
        created := leNat (slice 40 8 bs), kcv := slice 28 3 bs, material := m }
    some { gen, live := type ≠ 0,
           record := some { key, parent := leNat (slice 12 4 bs), parentGen := leNat (slice 16 3 bs),
                            owner := leNat (slice 32 2 bs) % 1024, tepoch := tep } }

/-! ## Material and check values (R193, R194) -/

/-- Ln and Lp of a curve entry: the bytes of its order and of a coordinate (Tables 6.10, 6.11); none where the entry is empty. -/
def State.curveLens (s : State) (sel : Nat) : Option (Nat × Nat) :=
  if sel = 0 ∨ sel = 4 then some (32, 32) else if sel = 1 ∨ sel = 5 then some (48, 48) else if sel = 2 then some (66, 66)
  else if sel = 3 then some (32, 32)
  else
    let e := Sparse.get [] s.pk.curves sel
    if leNat (slice 1 1 e) = 0 then none else some ((leNat (slice 4 2 e) + 7) / 8, (leNat (slice 2 2 e) + 7) / 8)

/-- Does a material length fit a class, type and SEL (Table 7.4)? -/
def State.materialFits (s : State) (cls : Nat) (t : KType) (sel mlen : Nat) : Bool :=
  match cls, t with
  | 1, .secret => sel == 0 && (mlen == 16 || mlen == 24)
  | 2, .secret => (sel == 0 && (mlen == 16 || mlen == 24 || mlen == 32)) || (sel == 1 && (mlen == 32 || mlen == 64))
  | 3, .secret => sel == 0 && 16 ≤ mlen && mlen ≤ 66
  | 4, .priv => if sel = 3 then mlen == 64 else match s.curveLens sel with | some n => mlen == n.1 + 2 * n.2 + 1 | none => false
  | 4, .pub => if sel = 3 then mlen == 32 else match s.curveLens sel with | some n => mlen == 2 * n.2 + 1 | none => false
  | 5, .priv => sel == 0 && 516 ≤ mlen && mlen ≤ 2052 && (mlen - 4) % 16 == 0
  | 5, .pub => sel == 0 && 260 ≤ mlen && mlen ≤ 1028 && (mlen - 4) % 8 == 0
  | 6, .priv => [1632, 2400, 3168][sel]? == some mlen
  | 6, .pub => [800, 1184, 1568][sel]? == some mlen
  | 7, .priv => [2560, 4032, 4896][sel]? == some mlen
  | 7, .pub => [1312, 1952, 2592][sel]? == some mlen
  | _, _ => false

/-- The public-key encoding of a key of class 4 to 7 (R215): the public part of its material. Of an RSA private key, e and n = p q; of an ML-DSA private key,
the public key it determines. -/
def Key.pubEncoding (k : Key) : List Byte :=
  match k.cls, k.ktype with
  | 4, .priv => k.material.drop (if k.sel = 3 then 32 else k.material.length - 1 - 2 * (k.material.length / 3))
  | 5, .priv =>
    let half := (k.material.length - 4) / 4
    k.material.take 4 ++ beBytes (2 * half) (beNat (slice 4 half k.material) * beNat (slice (4 + half) half k.material))
  | 7, .priv => (dsaSet k.sel).publicOf [] k.material
  | 6, .priv => slice (384 * (k.sel + 2)) (384 * (k.sel + 2) + 32) k.material
  | _, _ => k.material

/-- PUBFP (Table 7.12): SHA3-256 of the public-key encoding; for class 7 bytes 0-31 of tr, the SHAKE256 of the public key. -/
def Key.pubFp (k : Key) : List Byte :=
  if k.cls = 7 then (if k.ktype = .priv then slice 64 32 k.material else shake256 32 k.material)
  else if 4 ≤ k.cls then sha3_256 k.pubEncoding
  else zeros 32

/-- The check value of a key (R194). -/
def Key.checkValue (k : Key) : List Byte :=
  let zb := fun key => cmac 0 key (zeros 16)
  let half := k.material.length / 2
  (if k.cls = 1 then tdesEncrypt k.material (zeros 8)
   else if k.cls = 2 then
     (if k.sel = 1 then xorBytes (zb (k.material.take half)) (zb (k.material.drop half)) else zb k.material)
   else if k.cls = 3 then hmacSha256 k.material []
   else k.pubFp).take 3

/-! ## Attributes (Tables 7.5, 7.6) -/

/-- EXPORT. -/
def Key.exportable (k : Key) : Bool := bitOf k.attr 0

/-- ORIGIN: 0 generated inside, 1 imported, 2 derived. -/
def Key.origin (k : Key) : Nat := bitsOf k.attr 1 2

/-- An ATTR word with its ORIGIN set. -/
def withOrigin (attr o : Nat) : Nat := attr / 8 % 2 ^ 13 * 8 + 2 * o + attr % 2

/-- The LCS bits of an ATTR word. -/
def lcsBits (attr : Nat) : Nat := bitsOf attr 8 6

/-- Does the current life-cycle state permit the key (Table 7.6, LCS)? -/
def State.lcsAllows (s : State) (attr : Nat) : Bool := 1 ≤ s.lcState && s.lcState ≤ 6 && bitOf attr (7 + s.lcState)

/-! ## Lines -/

/-- A line of the key table. -/
def State.line (s : State) (k : Nat) : KeyLine := Sparse.get {} s.ge.lines k

/-- Is a line behind a fence of its own? -/
def State.fenced (s : State) (k : Nat) : Bool := s.ge.fences.any (·.line == k)

/-- The live record at a line. -/
def KeyLine.liveRecord (l : KeyLine) : Option KeyRecord := if l.live then l.record else none

/-- A base line written: its former extension lines return to virgin, its own are taken (R199). -/
def placeLine (lines : Sparse KeyLine) (k : Nat) (l : KeyLine) : Sparse KeyLine :=
  let lines := lines.filter fun e => e.2.extOf ≠ some k
  let n := match l.liveRecord with | some r => recordLines r.key.material.length | none => 1
  let lines := Sparse.set {} lines k l
  (List.range (n - 1)).foldl (fun m j => Sparse.set {} m (k + j + 1) { extOf := some k }) lines

/-- A delta to the standby (R343): the active numbers it, counts it as unacknowledged and sends it, whatever SYNC is. The answer names the delta. -/
def State.sendDeltaOn (s : State) (link : Option Nat) (d : Delta) : State × Option Nat :=
  if s.get R.PAIR_ROLE = 1 then
    let q := s.get R.PAIR_DSEQ_LO + 2 ^ 32 * s.get R.PAIR_DSEQ_HI + 1
    let s := ((s.set R.PAIR_DSEQ_LO q).set R.PAIR_DSEQ_HI (q / 2 ^ 32)).countSat R.PAIR_LAG
    let s : State := { s with pr.unacked := s.pr.unacked ++ [(q, s.quartz)] }
    (s.tellOn link fun k => .delta k q d, some q)
  else (s, none)

/-- A delta of the pair link's traffic. -/
def State.sendDelta (s : State) (d : Delta) : State × Option Nat := s.sendDeltaOn s.pairLink d

/-- A delta sent where nothing waits for it. -/
def State.tellStandby (s : State) (d : Delta) : State := (s.sendDelta d).1

/-- The replication of a scope 1 record's change to the domain (R366, R368): kept among the last 65,536 originated messages. -/
def State.replicate (s : State) (k : Nat) (l : KeyLine) : State :=
  match l.record with
  | some r =>
    if handleScope (lineHandle k) = 1 ∧ s.enrolled ∧ bitOf r.key.attr 6 then
      let q := s.dm.originSeq + 1
      let log := s.dm.originated ++ [(q, k, l)]
      let s : State := { s with dm.originSeq := q, dm.originated := log.drop (log.length - 65536) }
      (s.count R.FVL0_REPL_TX).tellTree fun j => .replication j q k l
    else s
  | none => s

/-- A change of a line by this module: the table, the standby, the domain. The answer names the delta. -/
def State.writeLine (s : State) (k : Nat) (l : KeyLine) : State × Option Nat :=
  let s : State := { s with ge.lines := placeLine s.ge.lines k l }
  (s.sendDelta (.line k l)).map (fun s => s.replicate k l) id

/-- A line as a tombstone: GEN one higher, TYPE, class and SEL 0, material gone (R212). -/
def State.tombstone (s : State) (k : Nat) : KeyLine :=
  let l := s.line k
  { gen := (l.gen + 1) % 2 ^ 24, live := false,
    record := l.record.map fun r =>
      { r with tepoch := (s.part (linePart k)).tepoch, key := { r.key with ktype := .secret, cls := 0, sel := 0, material := [] } } }

/-! ## Epochs (R370) -/

/-- Domain time, in ns. -/
def State.domainTime (s : State) : Nat := ((s.quartz : Int) + s.dm.offset).toNat

/-- The epoch a pending schedule opens has opened by the first FETCH or write at or after its Ts. -/
def State.openEpoch (s : State) (p : Nat) : State :=
  match (s.part p).epPending with
  | some (ts, tov) =>
    if ts ≤ s.domainTime then
      (s.updPart p fun x =>
        { x with epoch := (x.epoch + 1) % 2 ^ 32, epTs := ts, epTov := tov, epPending := none, overlap := true }).raise (pgFVL 0) 9
    else s
  | none => s

/-- The usages a key of the previous epoch keeps during the overlap: decrypt, unwrap, MAC-verify, PIN-translate, PIN-verify, derive, verify,
detokenise. -/
def inboundUsage : Nat := 2 ^ 1 + 2 ^ 3 + 2 ^ 5 + 2 ^ 6 + 2 ^ 7 + 2 ^ 8 + 2 ^ 10 + 2 ^ 13

/-- Does a key's epoch close it to a use (R370)? -/
def State.epochClosed (s : State) (p h epoch mask : Nat) : Bool :=
  let x := s.part p
  if handleScope h ≠ 1 ∨ epoch = x.epoch then false
  else if (epoch + 1) % 2 ^ 32 = x.epoch ∧ s.domainTime < x.epTs + x.epTov then mask &&& inboundUsage ≠ mask
  else true

/-! ## Where the key tables lie (R198, R239) -/

/-- The lines of the key tables of one partition. -/
def Part.tableLines (x : Part) : Nat := x.quotaPart + x.quotaDom + x.quotaMod

/-- The place of a line among the 2^28 of the key tables: partitions in order, each with its scopes in order, each scope as long as its quota (DESIGN
CHOICE, log 231: R198 bounds the tables and says no more of their places). -/
def State.tablePlace (s : State) (k : Nat) : Nat :=
  let p := linePart k
  let x := s.part p
  let scope := handleScope (lineHandle k)
  ((List.range p).map fun q => (s.part q).tableLines).sum +
    (if scope = 0 then 0 else if scope = 1 then x.quotaPart else x.quotaPart + x.quotaDom) + handleIndex (lineHandle k)

/-- The line of one partition at an offset into its tables. -/
def Part.lineOf (x : Part) (p off : Nat) : Nat :=
  if off < x.quotaPart then lineKey p off
  else if off < x.quotaPart + x.quotaDom then lineKey p (2 ^ 28 + (off - x.quotaPart))
  else lineKey p (2 ^ 29 + (off - x.quotaPart - x.quotaDom))

/-- The line that stands at a place among the key tables, if any partition's quota reaches it. -/
def State.tableLine (s : State) (place : Nat) : Option Nat :=
  ((List.range 1024).foldl (fun (r : Nat × Option Nat) p =>
    let n := (s.part p).tableLines
    (r.1 + n, if r.1 ≤ place ∧ place < r.1 + n then some ((s.part p).lineOf p (place - r.1)) else r.2)) (0, none)).2

/-- Does the read of a table line return the integrity error: one of its two HBM lines is poisoned, or there are no HBM keys (R244, R250)? -/
def State.tableFails (s : State) (k : Nat) : Bool := s.readFails (128 * s.tablePlace k) 128

/-- Does the read of a record's lines return it (R244)? -/
def State.recordFails (s : State) (k : Nat) : Bool :=
  let n := match (s.line k).liveRecord with | some r => recordLines r.key.material.length | none => 1
  (List.range n).any fun j => s.tableFails (k + j)

/-! ## The fill walk (R208) -/

/-- How a walk from a record to its root ends: matched up to the root, a parent that is not loaded, a mismatch, or a fence met. The lines
are the record's and its ancestors', nearest first. -/
inductive WalkEnd
  | rooted | notLoaded | orphaned | fencePending
deriving DecidableEq, Repr

/-- The walk from a live record upward. -/
def State.walk (s : State) (p : Nat) : Nat → Nat → List Nat × WalkEnd
  | 0, _ => ([], .orphaned)
  | fuel + 1, h =>
    let k := lineKey p h
    if s.fenced k then ([k], .fencePending)
    else match (s.line k).liveRecord with
      | none => ([], .orphaned)
      | some r =>
        if r.parent = noHandle then
          ([k], if r.parentGen = (s.scopeRoot p (handleScope h)).gen then .rooted else .orphaned)
        else
          let up := s.line (lineKey p r.parent)
          if s.fenced (lineKey p r.parent) then ([k], .fencePending)
          else if up = ({} : KeyLine) then ([k], .notLoaded)
          else if up.live ∧ up.gen = r.parentGen then
            let t := s.walk p fuel r.parent
            (k :: t.1, t.2)
          else ([k], .orphaned)

/-- How the walk of an operation ends it, unless it goes on to the root (R208). -/
def WalkEnd.status : WalkEnd → Option Nat
  | .rooted => none
  | .notLoaded => some 0x02
  | .orphaned => some 0x03
  | .fencePending => some 0x13

/-! ## Slices (R206, R209) -/

/-- The resident records of a slice, least recently used first. -/
def State.cacheOf (s : State) (n : Nat) : List CacheEntry := Sparse.get [] s.ge.slices n

/-- The state with a slice's residents replaced. -/
def State.setCache (s : State) (n : Nat) (es : List CacheEntry) : State := { s with ge.slices := Sparse.set [] s.ge.slices n es }

/-- Is a line resident in a slice in its current version? -/
def State.residentAt (s : State) (n k : Nat) : Bool := (s.cacheOf n).any fun e => e.line == k && e.gen == (s.line k).gen

/-- The key slots held by the contexts of a cluster, with their partitions. -/
def State.heldIn (s : State) (n : Nat) : List (Nat × KeySlot) :=
  (s.busyIn n).flatMap fun e => (e.2.keys.filterMap id).map fun y => (e.2.part, y)

/-- Entries of ephemeral keys held in a cluster. -/
def State.ephIn (s : State) (n : Nat) : Nat :=
  (((s.heldIn n).filter fun y => y.2.line.isNone).map fun y => keyEntries y.2.key.material.length).sum

/-- Entries of a slice in use. -/
def State.entriesUsed (s : State) (n : Nat) : Nat := ((s.cacheOf n).map (·.entries)).sum + s.ephIn n

/-- Entries a partition has in a slice. -/
def State.entriesOf (s : State) (n p : Nat) : Nat :=
  (((s.cacheOf n).filter fun e => linePart e.line == p).map (·.entries)).sum +
  (((s.heldIn n).filter fun y => y.1 == p && y.2.line.isNone).map fun y => keyEntries y.2.key.material.length).sum

/-- Ephemeral entries a partition holds across all slices (R207). -/
def State.ephUsed (s : State) (p : Nat) : Nat :=
  (s.running.map fun e => if e.2.part = p then
      (((e.2.keys.filterMap id).filter fun y => y.line.isNone).map fun y => keyEntries y.key.material.length).sum
    else 0).sum

/-- Is an entry pinned: the ancestor of a resident record, or held in a context's slot or as the ancestor of a key so held (R206)? An entry's stamp names
its nearest ancestor, which is resident too. -/
def State.pinned (s : State) (n : Nat) (e : CacheEntry) : Bool :=
  ((s.cacheOf n).any fun d => d.stamp.map (·.1) == some e.line) || (s.heldIn n).any fun y => y.2.stamp.contains e.line

/-- Room for `need` entries in a slice: least recently used unpinned entries are evicted, of the requesting partition or of one above its
reserve (R209); the records of `keep` stay, being filled with it. -/
def State.makeRoom (s : State) (n p need : Nat) (keep : List Nat) : Nat → Option State
  | 0 => if s.entriesUsed n + need ≤ 4096 then some s else none
  | fuel + 1 =>
    if s.entriesUsed n + need ≤ 4096 then some s
    else
      match (s.cacheOf n).find? fun e =>
        !s.pinned n e && !keep.contains e.line &&
        (linePart e.line == p || (s.part (linePart e.line)).cres < s.entriesOf n (linePart e.line)) with
      | none => none
      | some e => State.makeRoom ((s.setCache n ((s.cacheOf n).filter (· ≠ e))).count (R.KCS_EVICT n) e.entries) n p need keep fuel

/-- `bs` masked by the next draw of a slice's mask generator (R206, R210). -/
def State.maskIn (s : State) (n : Nat) (bs : List Byte) : Masked × State :=
  let seed := Sparse.get [] s.ge.maskSeeds n
  let mask := (List.range bs.length).map fun i => Config.maskByte seed s.ge.masks i
  ({ value := xorBytes bs mask, mask }, { s with ge.masks := s.ge.masks + 1 })

/-- A masked value under the next mask of a slice's generator: v xor m xor m', and m' (R210). -/
def State.remask (s : State) (n : Nat) (v : Masked) : Masked × State :=
  let seed := Sparse.get [] s.ge.maskSeeds n
  let mask := (List.range v.mask.length).map fun i => Config.maskByte seed s.ge.masks i
  ({ value := xorBytes (xorBytes v.value v.mask) mask, mask }, { s with ge.masks := s.ge.masks + 1 })

/-- A record's entry put into a slice, where there is room: its material masked, its attributes, and the stamp of its parent (R206). -/
def State.fillEntry (s : State) (n p k : Nat) (keep : List Nat) : Option State :=
  let key := match (s.line k).record with | some r => r.key | none => {}
  let s := s.setCache n ((s.cacheOf n).filter (·.line ≠ k))
  let m := max 1 (keyEntries key.material.length)
  (s.makeRoom n p m keep 4096).map fun s =>
    let (v, s) := s.maskIn n key.material
    let stamp := match (s.line k).record with
      | some r => if r.parent = noHandle then none else some (lineKey (linePart k) r.parent, r.parentGen)
      | none => none
    s.setCache n (s.cacheOf n ++ [{ line := k, gen := (s.line k).gen, entries := m, key := { key with material := [] }, material := v, stamp }])

/-- The records of a chain filled into a slice, from the top down (R208); none where no entry can be freed. -/
def State.fillChain (s : State) (n p : Nat) (chain : List Nat) : Option State :=
  chain.reverse.foldlM (fun s k =>
    if s.residentAt n k then
      match (s.cacheOf n).find? (fun e => e.line == k && e.gen == (s.line k).gen) with
      | some e => some (s.setCache n ((s.cacheOf n).filter (·.line ≠ k) ++ [e]))
      | none => some s
    else s.fillEntry n p k chain) s

/-- Does an entry's ancestry lead to a line: its own record, or through the stamps of resident entries? -/
def State.leadsTo (s : State) (n line : Nat) : Nat → CacheEntry → Bool
  | 0, e => e.line == line
  | fuel + 1, e =>
    e.line == line || (match e.stamp with
      | none => false
      | some a => a.1 == line || ((s.cacheOf n).find? fun d => d.line == a.1).any (State.leadsTo s n line fuel))

/-- What is behind a line MAC that fails in a fill (R208): the line is virgin, the slice and the table report it. -/
def State.lineFailed (s : State) (n k : Nat) : State :=
  ({ s with ge.lines := placeLine s.ge.lines k {} }.raise (pgKCS n) 0).raise pgGEO 5

end Sys2Proof.Machine
end

