-- ==== Sys2Proof/Machine/Keys.lean ====
section
/-! DEFINITION. The KEY instructions, RAND, the cache fill, destruction fences, the sweeper and the remasking of the slices (R70, R71, R78, R102, R203-R214). -/
namespace Sys2Proof.Machine

/-! ## FETCH (R70, R208) -/

/-- The handle in the descriptor key field 0, 1 or 2 (a field 3 names none). -/
def Descriptor.keyField (d : Descriptor) (i : Nat) : Nat :=
  if i = 0 then d.key0 else if i = 1 then d.key1 else if i = 2 then d.key2 else noHandle

/-- How a FETCH of a record is judged: the chain of its record ancestors, or the status of the first failing check of R70. `cls` and `mask`
are the instruction's class and usage mask. -/
def State.judgeFetch (s : State) (p h cls mask : Nat) : Except Nat (KeyRecord × List Nat) :=
  if !s.mayName p h then .error stKeyNotFound
  else match (s.line (lineKey p h)).liveRecord with
    | none => .error stKeyNotFound
    | some r =>
      let w := s.walk p 8 h
      match w.2 with
      | .fencePending => .error stFencePending
      | .notLoaded => .error stKeyNotFound
      | .orphaned => .error stKeyOrphaned
      | .rooted =>
        let a := r.key.attr
        if s.epochClosed p h r.key.epoch mask then .error stEpochClosed
        else if (cls ≠ 0 ∧ cls ≠ r.key.cls) ∨ r.key.usage &&& mask ≠ mask ∨ !bitOf a 5 ∨ (p ≠ 0 ∧ bitOf a 7) ∨ !s.lcsAllows a then
          .error stKeyUsageDenied
        else .ok (r, w.1)

/-- The records of a chain that are not resident in a slice. -/
def State.missing (s : State) (n : Nat) (chain : List Nat) : List Nat := chain.filter fun k => !s.residentAt n k

/-- The record of a fill that ends it as a line MAC that fails: the one named, else the first whose line gives the integrity error (R208, R244). -/
def State.badOf (s : State) (macBad : Option Nat) (miss : List Nat) : Option Nat :=
  match macBad.bind fun j => miss[j]? with
  | some b => some b
  | none => miss.find? s.tableFails

/-- What a Geode operation on a record finds of its chain (R208): it goes on where nothing is missing from the slice (true), or waits for the fill (false),
or ends with a status. A tombstone, a record behind its own fence and one that is resident miss nothing. -/
def State.geodeWalk (s : State) (n p h : Nat) : Except Nat Bool :=
  let key := lineKey p h
  if !(s.line key).live ∨ s.residentAt n key ∨ s.fenced key then .ok true
  else
    let w := s.walk p 8 h
    match w.2.status with
    | some st => .error st
    | none => .ok (s.missing n w.1).isEmpty

/-- FETCH (R70): slot KD from the handle of the named key field. A hit loads the slot; a record that is not resident is filled first, the slot's old key
released. -/
def execFetch (c : Ctx) (w : Insn) (s : State) : Result :=
  s.issue c 0x2 0x0 w fun x =>
    let k := ctxKey c
    let n := c.cc.val
    let p := x.part
    let field := immBits w 0 2
    let h := x.desc.keyField field
    let mask := immBits w 16 14
    let s := s.openEpoch p
    let waits := fun (s : State) => s.setCtx k { x.bindSlot w.kd none with wait := .keyFill, since := s.quartz }
    if s.mayName p h ∧ !s.ge.ready then
      .next (waits (if s.residentAt n (lineKey p h) ∨ !(s.line (lineKey p h)).live then s else s.count (R.KCS_MISS n)))
    else
      match s.judgeFetch p h (modBits w 0 4) mask with
      | .error st =>
        if x.filled ∨ !(s.line (lineKey p h)).live ∨ !s.mayName p h ∨ s.residentAt n (lineKey p h) then
          .next (s.failAt k 4 st field)
        else .next (waits (s.count (R.KCS_MISS n)))
      | .ok (r, chain) =>
        if (s.missing n chain).isEmpty then
          let s := if x.filled then s else s.count (R.KCS_HIT n)
          let s := (s.fillChain n p chain).getD s
          let y : KeySlot := { key := r.key, mask, field, line := some (lineKey p h), stamp := chain }
          .next (s.retire k 4 { (x.bindSlot w.kd (some y)) with filled := false })
        else .next (waits (s.count (R.KCS_MISS n)))

/-- The instruction a waiting context stands at. -/
def Context.here (x : Context) : Option Code := x.image.code[x.pc]?

/-- KEY_FILL (R208, R209, R218): the fill walk of a waiting FETCH, READREC or DESTROY ends. It fills the missing records from the top down, or is left to
wait for a free entry; a record whose MAC fails, or whose line gives the integrity error (R244), is marked virgin and ends the instruction with
KEY_NOT_FOUND. `macBad` is its place in the chain. The fill engine waits while the cluster's crossbars are frozen (R253). -/
def execKeyFill (c : Ctx) (macBad : Option Nat) (s : State) : Result :=
  let k := ctxKey c
  let n := c.cc.val
  let x := s.ctx k
  match x.cmd, x.here with
  | some _, some i =>
    if ¬ s.ge.ready ∨ s.xbarHeld n ∨ (x.wait ≠ .keyFill ∧ x.wait ≠ .cacheEntry) ∨ i.cls ≠ 2 ∨ ¬ [0, 6, 8].contains i.op then .next s
    else
      let p := x.part
      let field := immBits i.w 0 2
      let h := x.desc.keyField field
      let w := s.walk p 8 h
      let miss := s.missing n w.1
      match s.badOf macBad miss with
      | some bad =>
        .next ((s.lineFailed n bad).failAt k 4 stKeyNotFound field)
      | none =>
        match w.2 with
        | .rooted =>
          match s.fillChain n p w.1 with
          | some s =>
            let s := s.keepMax (R.KCS_FILL_MAX_NS n) (s.quartz - x.since)
            .next (s.setCtx k { x with wait := .none, filled := true })
          | none =>
            if x.wait = .cacheEntry then .next s
            else .next (((s.countSat (R.KCS_FILL_WAIT n)).raise (pgKCS n) 2).setCtx k { x with wait := .cacheEntry })
        | _ => .next (s.setCtx k { x with wait := .none, filled := true })
  | _, _ => .next s

/-- RELEASE: slot KD emptied. -/
def execRelease (c : Ctx) (w : Insn) (s : State) : Result :=
  s.issue c 0x2 0x1 w fun x => .next (s.retire (ctxKey c) 4 (x.bindSlot w.kd none))

/-- KCV: the check value of slot KA to D, zero-extended. -/
def execKcv (c : Ctx) (w : Insn) (s : State) : Result :=
  s.issue c 0x2 0x2 w fun x =>
    s.withSlot (ctxKey c) 4 x w.ka fun y => .next (s.retire (ctxKey c) 4 (x.setV w.d y.key.kcv))

/-! ## RAND (R78, R225) -/

/-- RAND: IMM[4:0] + 1 bytes of the cluster's random queue to D; the context waits while the queue holds fewer. -/
def execRand (c : Ctx) (w : Insn) (s : State) : Result :=
  s.issue c 0xA 0x0 w fun x =>
    let k := ctxKey c
    let b := immBits w 0 5 + 1
    if s.queueFill c.cc < b then .next (s.setCtx k { x with wait := .random, since := s.quartz })
    else
      let r := s.takeQueue c.cc b
      .next (r.2.retire k 1 (x.setV w.d (r.1.take 16)))

/-! ## Ephemeral keys: GENERATE, MAKE, EXTRACT (R203, R204, R207) -/

/-- An ephemeral key placed in slot KD, its entries counted against the partition's quota (R207). The quota decides first; then, as for a
fill, the slice must have room: none frees none, and the instruction does not issue. -/
def State.placeEphemeral (s : State) (k slots : Nat) (x : Context) (kd : Nat) (y : KeySlot) (x' : Context) : Result :=
  let p := x.part
  let n := clusterOf k
  let need := keyEntries y.key.material.length
  let s0 := s.setCtx k (x.setSlot kd none)
  if s0.ephUsed p + need > (s.part p).ephQuota then .next ((s.raise pgGEO 4).failAt k slots stQuotaExceeded 2)
  else match s0.makeRoom n p need [] 4096 with
    | none => .next s
    | some s =>
      let (held, s) := s.maskIn n y.key.material
      .next (s.retire k slots (x'.setSlot kd (some { y with held })))

/-- GENERATE: a class 1 to 3 key from the cluster's random queue; ORIGIN 0; stamped with the scope's root. -/
def execGenerate (c : Ctx) (w : Insn) (s : State) : Result :=
  s.issue c 0x2 0x3 w fun x =>
    let k := ctxKey c
    let cls := modBits w 0 4
    if w.a.val > 7 ∨ w.b.val > 7 ∨ cls < 1 ∨ 3 < cls then .refused .reservedEncoding
    else
      let a := x.sr w.a
      let b := x.sr w.b
      let sel := bitsOf a 16 6
      let mlen := bitsOf b 16 13
      let s0 := s.setCtx k (x.setSlot w.kd none)
      if s0.ephUsed x.part + keyEntries mlen > (s.part x.part).ephQuota then .next ((s.raise pgGEO 4).failAt k 4 stQuotaExceeded 2)
      else if !s.materialFits cls .secret sel mlen then .next (s.failAt k 4 stFormatError 0xC074)
      else if s.queueFill c.cc < mlen then .next (s.setCtx k { x with wait := .random, since := s.quartz })
      else
        let r := s.takeQueue c.cc mlen
        let key : Key := { ktype := .secret, cls, sel, level := 6, usage := bitsOf a 0 14, attr := withOrigin (bitsOf b 0 14) 0, material := r.1 }
        let key := { key with kcv := key.checkValue }
        r.2.placeEphemeral k 4 x w.kd { key } x

/-- MAKE: V register bytes into the key being built in KD. FINAL checks the material against Table 7.4 and computes KCV; ORIGIN 1. -/
def execMake (c : Ctx) (w : Insn) (s : State) : Result :=
  s.issue c 0x2 0x4 w fun x =>
    let k := ctxKey c
    let off := immBits w 0 13
    let n := immBits w 16 3 + 1
    let final := bitOf w.imm.toNat 31
    let old := ((x.keys.getD w.kd none).filter (·.building)).getD { building := true }
    if final ∧ (w.a.val > 7 ∨ w.b.val > 7) then .refused .reservedEncoding
    else
      let a := x.sr w.a
      let b := x.sr w.b
      let bytes := x.vRange w.d n
      let mlen := if final then bitsOf b 16 13 else 4896
      let built := overlay off bytes (fitBytes (max old.key.material.length (off + 16 * n)) old.key.material)
      let need := keyEntries (min mlen built.length)
      let s0 := s.setCtx k (x.setSlot w.kd none)
      if s0.ephUsed x.part + need > (s.part x.part).ephQuota then .next ((s.raise pgGEO 4).failAt k 4 stQuotaExceeded 2)
      else if off + 16 * n > mlen then .next (s.failAt k 4 stFormatError 0xC074)
      else if ¬ final then
        s.placeEphemeral k 4 x w.kd { old with building := true, key := { old.key with material := built } } x
      else
        let cls := modBits w 0 4
        let type := ktypeOf (modBits w 4 4)
        let sel := bitsOf a 16 6
        if ¬ (1 ≤ modBits w 4 4 ∧ modBits w 4 4 ≤ 3) ∨ old.key.material.length > mlen ∨ built.length < mlen ∨
            !s.materialFits cls type sel mlen then .next (s.failAt k 4 stFormatError 0xC074)
        else
          let key : Key := { ktype := type, cls, sel, level := 6, usage := bitsOf a 0 14, attr := withOrigin (bitsOf b 0 14) 1,
                             material := built.take mlen }
          let key := { key with kcv := key.checkValue }
          s.placeEphemeral k 4 x w.kd { key } x

/-- EXTRACT: clear material bytes of an exportable key to V registers D onward. -/
def execKeyExtract (c : Ctx) (w : Insn) (s : State) : Result :=
  s.issue c 0x2 0xA w fun x =>
    let k := ctxKey c
    s.withSlot k 4 x w.ka fun y =>
      let off := immBits w 0 13
      let n := immBits w 16 3 + 1
      let m := y.key.material
      if m.length < off + 16 * n then .next (s.failAt k 4 stFormatError 0xC074)
      else if !y.key.exportable then .next (s.failAt k 4 stKeyUsageDenied y.field)
      else .next (s.retire k 4 (x.setVRange w.d n (m.drop off)))

/-! ## Records: WRITEREC, LOADREC, READREC (R197, R201-R204) -/

/-- The level WRITEREC gives a record, or none where Table 7.1 does not allow the parent for it (R203). `parent` is none for the root. -/
def recordLevel (origin : Nat) (direct5 : Bool) (parent : Option Nat) : Option Nat :=
  if origin = 2 then
    match parent with
    | some l => if 3 ≤ l ∧ l ≤ 5 then some 6 else none
    | none => none
  else if direct5 then (if parent = some 3 then some 5 else none)
  else match parent with
    | none => some 3
    | some l => if 3 ≤ l ∧ l ≤ 5 then some (l + 1) else none

/-- How WRITEREC is refused (R204), in the order of Table 7.9 with check 0xC075 after check 2 (R367): status and DETAIL. `y` is the key,
`parent` its parent's slot, none for the root. -/
def State.refuseWriterec (s : State) (p h : Nat) (y : KeySlot) (parent : Option KeySlot) (level : Option Nat) (attr : Nat) :
    Option (Nat × Nat) :=
  let scope := handleScope h
  let l := recordLines y.key.material.length
  let base := lineKey p h
  let lines := (List.range l).map (base + ·)
  let deny := match parent with | some z => z.field | none => y.field
  let offDomain := scope = 1 ∧ s.enrolled = false
  if h = noHandle ∨ ¬ (offDomain ∨ s.mayName p h = true) then some (stKeyNotFound, 0)
  else if handleIndex h + l > s.scopeQuota p scope then some (stQuotaExceeded, 1)
  else if offDomain then some (stFormatError, 0xC073)
  else if scope = 1 ∧ bitsOf h 16 12 ≠ s.get R.FVL0_MEMBER_NO then some (stFormatError, 0xC075)
  else if y.line.isSome ∨ level.isNone ∨ (parent.any fun z => z.line.isNone || z.key.level == 6 || !bitOf z.mask 2) then
    some (stKeyUsageDenied, deny)
  else if (match parent with
      | some z => (bitOf attr 7 && !bitOf z.key.attr 7) || lcsBits attr &&& lcsBits z.key.attr ≠ lcsBits attr
      | none => bitOf attr 7 && p ≠ 0) then some (stKeyUsageDenied, deny)
  else if lines.any s.fenced ∨ (parent.any fun z => z.stamp.any s.fenced) then some (stFencePending, 0)
  else if (s.line base).live ∨ (s.line base).extOf.isSome ∨ (lines.drop 1).any (fun k => s.line k ≠ {}) then some (stFormatError, 0xC071)
  else if (s.line base).gen = 0xFFFFFF then some (stFormatError, 0xC072)
  else none

/-- The table epoch new records take: T + 1, modulo 2^32, during a roll (R202). -/
def State.writeEpoch (s : State) (p : Nat) : Nat := ((s.part p).tepoch + b2n (s.part p).rollBusy) % 2 ^ 32

/-- A key written as the record of handle `h` under a parent, or the scope's root without one: its lines, the state and the delta; or how it is
refused (R203, R204). M_HQE is 1 in every record a command writes: only the firmware makes others (R197). -/
def State.placeRecord (s : State) (p h : Nat) (y : KeySlot) (parent : Option KeySlot) (direct5 : Bool) :
    Except (Nat × Nat) (List Byte × State × Option Nat) :=
  let level := recordLevel y.key.origin direct5 (parent.map (·.key.level))
  let attr := putBit y.key.attr 3 true
  match s.refuseWriterec p h y parent level attr with
  | some r => .error r
  | none =>
    let base := lineKey p h
    let r : KeyRecord :=
      { key := { y.key with level := level.getD 3, attr, created := s.quartz, epoch := if handleScope h = 1 then (s.part p).epoch else 0 },
        parent := match parent with | some z => (z.line.map lineHandle).getD noHandle | none => noHandle,
        parentGen := match parent with
          | some z => (z.line.map fun l => (s.line l).gen).getD 0
          | none => (s.scopeRoot p (handleScope h)).gen,
        owner := p, tepoch := s.writeEpoch p }
    let l : KeyLine := { gen := max 1 (s.line base).gen, live := true, record := some r }
    let t := s.writeLine base l
    .ok (t.1.lineBytes base l, t.1, t.2)

/-- WRITEREC (R203, R204): the key of KA becomes a record; its lines go to the output at OP. -/
def execWriterec (c : Ctx) (w : Insn) (s : State) : Result :=
  s.issue c 0x2 0x5 w fun x =>
    let k := ctxKey c
    if w.a.val > 7 then .refused .reservedEncoding
    else s.withSlot k 4 x w.ka fun y =>
      let go := fun (parent : Option KeySlot) =>
        let s := s.openEpoch x.part
        match s.placeRecord x.part (x.sr w.a) y parent (modBit w 5) with
        | .error r => Host.Outcome.next (s.failAt k 4 r.1 r.2)
        | .ok (bs, s, d) =>
          Host.Outcome.next ((s.retire k 4 { x with op := (x.op + bs.length) % 2 ^ 24, delta := d <|> x.delta }).inOrder k
            { output := [(x.op, bs)], pc := x.pc, num := x.retired })
      if modBit w 4 then go none else s.withSlot k 4 x w.kd fun z => go (some z)

/-- A valid record of `n` lines against the line in place (R201): code 0 and the line where it is written. -/
def State.judgeLine (s : State) (p h n owner : Nat) (l : KeyLine) : Nat × Option KeyLine :=
  let base := lineKey p h
  let cur := s.line base
  let ext := (List.range (n - 1)).map (base + 1 + ·)
  if owner ≠ p ∨ handleIndex h + n > s.scopeQuota p (handleScope h) ∨ cur.extOf.isSome ∨
      ext.any (fun k => s.line k ≠ {} && (s.line k).extOf ≠ some base) then (4, none)
  else if s.fenced base then (5, none)
  else if cur = l then (1, none)
  else if cur.gen < l.gen ∨ (cur.gen = l.gen ∧ ¬ cur.live ∧ l.live) ∨ cur = {} then (0, some l)
  else (2, none)

/-- The code LOADREC gives for a record that is not refused under Table 7.9 (R201, R202, R204): placed, identical, or why it was refused;
and the line, where it is placed. -/
def State.judgeLoad (s : State) (p h : Nat) (bs : List Byte) : Nat × Option KeyLine :=
  let n := leNat (slice 6 1 bs)
  let tep := leNat (slice 36 4 bs)
  let t := (s.part p).tepoch
  match s.readRecord p h bs with
  | none => (3, none)
  | some l =>
    let tepOk := tep = t ∨ ((s.part p).prevOk = true ∧ (tep + 1) % 2 ^ 32 = t)
    let owner := (l.record.map (·.owner)).getD 0
    if ¬ tepOk then (3, none)
    else s.judgeLine p h n owner l

/-- A record's lines put to LOADREC (R201, R204): a status that ends the command, or the code and the state after it. -/
def State.loadRecord (s : State) (p h : Nat) (bs : List Byte) : Except Nat (Nat × State × Option Nat) :=
  if !s.mayName p h then .error stKeyNotFound
  else
    let j := s.judgeLoad p h bs
    let hqe := match (s.readRecord p h bs).bind (·.record) with | some r => bitOf r.key.attr 3 | none => true
    if j.1 ≠ 3 ∧ !hqe then .error stKeyUsageDenied
    else match j.2 with
      | some l =>
        let t := s.writeLine (lineKey p h) l
        .ok (j.1, t.1, t.2)
      | none =>
        if 2 ≤ j.1 then
          .ok (j.1, (s.updPart p fun x => { x with loadRefused := satAdd 32 x.loadRefused 1 }).raise pgGEO 2, none)
        else .ok (j.1, s, none)

/-- LOADREC (R201): the record of the next lines at IP; S[D] takes the code. -/
def execLoadrec (c : Ctx) (w : Insn) (s : State) : Result :=
  s.issue c 0x2 0x7 w fun x =>
    let k := ctxKey c
    if w.a.val > 7 ∨ w.d.val > 7 then .refused .reservedEncoding
    else if !x.has (x.startIp + 128) then .next (s.needChunk k x)
    else s.gather k x (128 * max 1 (leNat (x.inBytes (x.startIp + 6) 1))) fun bs x =>
      match s.loadRecord x.part (x.sr w.a) bs with
      | .error st => .next (s.failAt k 4 st 0)
      | .ok (code, s, d) => .next (s.retire k 4 { (x.setS w.d code) with delta := d <|> x.delta })

/-- The lines of a record or its tombstone as READREC gives them, or the status that refuses them (Table 7.9). -/
def State.recordLinesOf (s : State) (p h : Nat) : Except Nat (List Byte) :=
  let l := s.line (lineKey p h)
  if !s.mayName p h then .error stKeyNotFound
  else match l.record with
    | none => .error stKeyNotFound
    | some r => if bitOf r.key.attr 3 then .ok (s.lineBytes (lineKey p h) l) else .error stKeyUsageDenied

/-- A Geode operation whose record has been checked: it goes on where its chain is in the slice, and otherwise waits for the fill or ends (R208). A line of the
record that gives the integrity error ends it as a line MAC that fails (R244). -/
def State.geodeFill (s : State) (k field : Nat) (x : Context) (run : Context → Result) : Result :=
  let key := lineKey x.part (x.desc.keyField field)
  match s.geodeWalk (clusterOf k) x.part (x.desc.keyField field) with
  | .error st => .next (s.failAt k 4 st field)
  | .ok true =>
    if s.recordFails key then .next ((s.lineFailed (clusterOf k) key).failAt k 4 stKeyNotFound field) else run { x with filled := false }
  | .ok false => .next (s.setCtx k { x with wait := .keyFill, since := s.quartz })

/-- READREC: the record's current lines at OP, or its tombstone. -/
def execReadrec (c : Ctx) (w : Insn) (s : State) : Result :=
  s.issue c 0x2 0x8 w fun x =>
    let k := ctxKey c
    let field := immBits w 0 2
    match s.recordLinesOf x.part (x.desc.keyField field) with
    | .error st => .next (s.failAt k 4 st field)
    | .ok bs => s.geodeFill k field x fun x =>
      .next ((s.retire k 4 { x with op := (x.op + bs.length) % 2 ^ 24 }).inOrder k { output := [(x.op, bs)], pc := x.pc, num := x.retired })

/-! ## DESTROY and the fences (R211-R213) -/

/-- How a DESTROY is refused: Table 7.9 orders 1, 5 and 12. -/
def State.refuseDestroy (s : State) (p h : Nat) : Option Nat :=
  let k := lineKey p h
  if !s.mayName p h then some stKeyNotFound
  else match (s.line k).liveRecord with
    | none => some stKeyNotFound
    | some r =>
      if r.parent ≠ noHandle ∧ (s.fenced (lineKey p r.parent) ∨ (s.walk p 8 r.parent).2 = .fencePending) then some stFencePending
      else if p ≠ 0 ∧ bitOf r.key.attr 7 then some stKeyUsageDenied
      else none

/-- The descriptor key field of the DESTROY a context stands at: the instruction's, or KEY0 in the shipped program Destroy key (R205). -/
def Context.destroys (x : Context) : Option Nat :=
  match x.here with
  | some i => if i.cls = 2 ∧ i.op = 6 then some (immBits i.w 0 2) else none
  | none => if x.image.code.isEmpty ∧ runSlot x.desc.program = 0x101 then some 0 else none

/-- DESTROY (R211): the context's own slots are released; it then waits for its fence. -/
def execDestroy (c : Ctx) (w : Insn) (s : State) : Result :=
  s.issue c 0x2 0x6 w fun x =>
    let k := ctxKey c
    let field := immBits w 0 2
    match s.refuseDestroy x.part (x.desc.keyField field) with
    | some st => .next (s.failAt k 4 st field)
    | none => s.geodeFill k field x fun x =>
      .next (s.setCtx k { x with keys := List.replicate 4 none, stream := none, wait := .fence, since := s.quartz })

/-- The entries that a fence on a line marks, in every slice: the record's own and those whose ancestry stamp leads to it, ephemeral ones too (R211). -/
def State.markFence (s : State) (k : Nat) : State :=
  let slices := s.ge.slices.map fun e => (e.1, e.2.map fun d => if s.leadsTo e.1 k 8 d then { d with fenced := true } else d)
  let mark := fun y : KeySlot => if y.line.isNone ∧ y.stamp.contains k then { y with fenced := true } else y
  { s with ge.slices := slices, sq.ctxs := Sparse.mapVals {} (fun _ x => { x with keys := x.keys.map (·.map mark) }) s.sq.ctxs }

/-- Every fence lost, and nothing marked by one any more (R350). -/
def State.dropFences (s : State) : State :=
  let clear := fun y : KeySlot => { y with fenced := false }
  { s with ge.fences := [], ge.slices := s.ge.slices.map fun e => (e.1, e.2.map fun d => { d with fenced := false })
           sq.ctxs := Sparse.mapVals {} (fun _ x => { x with keys := x.keys.map (·.map clear) }) s.sq.ctxs }

/-- A DESTROY ends with a status; in the shipped program no instruction's slots are counted. -/
def State.failDestroy (s : State) (k st field : Nat) : State :=
  if (s.ctx k).image.code.isEmpty then s.endCommand k st field else s.failAt k 4 st field

/-- FENCE_RAISE (R211): the fence of a waiting DESTROY is raised when fewer than sixteen are active and none runs on its record; one whose
record is gone, or whose parent is now fenced, ends instead (Table 7.11). -/
def execFenceRaise (c : Ctx) (s : State) : Result :=
  let k := ctxKey c
  let x := s.ctx k
  match x.cmd, x.destroys with
  | some _, some field =>
    let key := lineKey x.part (x.desc.keyField field)
    if x.wait ≠ .fence ∨ s.ge.fences.any (·.ctx == some k) ∨ s.fenced key ∨ s.ge.fences.length ≥ 16 then .next s
    else match s.refuseDestroy x.part (x.desc.keyField field) with
      | some st => .next (s.failDestroy k st field)
      | none =>
        let s := s.markFence key
        let s : State := { s with ge.fences := s.ge.fences ++ [{ line := key, ctx := some k, raised := s.quartz }] }
        .next (s.keepMax R.GEO_FENCE_PEAK s.ge.fences.length)
  | _, _ => .next s

/-- Does a context hold an entry a fence marks: a slot whose stamp leads to the fenced line (R211, R212)? -/
def Context.holds (x : Context) (line : Nat) : Bool := x.keys.any fun y => y.any fun y => y.stamp.contains line

/-- FENCE_COMPLETE (R212): no context holds a fenced entry. The base line becomes a tombstone, its extension lines virgin, fenced entries are
invalidated, the fence is lifted, and the DESTROY writes the tombstone at OP. -/
def execFenceComplete (i : Fin 16) (s : State) : Result :=
  match s.ge.fences[i.val]? with
  | none => .next s
  | some f =>
    if s.running.any fun e => e.2.holds f.line then .next s
    else
      let l := { s.tombstone f.line with gen := f.gen.getD (s.tombstone f.line).gen }
      let s := (List.range 16).foldl (fun s n =>
        let goes := s.leadsTo n f.line 8
        let es := s.cacheOf n
        let gone := es.filter goes
        if gone.isEmpty then s
        else (s.setCache n (es.filter fun e => !goes e)).count (R.KCS_INVAL n) ((gone.map (·.entries)).sum)) s
      let t := if f.gen.isSome then ({ s with ge.lines := placeLine s.ge.lines f.line l }).sendDelta (.line f.line l)
        else s.writeLine f.line l
      let s : State := { t.1 with ge.fences := s.ge.fences.eraseIdx i }
      let ns := s.quartz - f.raised
      let s := s.count R.GEO_FENCE_CNT
      let s := (s.set R.GEO_FENCE_LAST_NS (min ns 65535)).keepMax R.GEO_FENCE_MAX_NS ns
      match f.ctx with
      | none => .next s
      | some k =>
        let x := s.ctx k
        let bs := s.lineBytes f.line l
        let x' := { x with wait := .none, op := (x.op + bs.length) % 2 ^ 24, delta := t.2 <|> x.delta }
        if x.image.code.isEmpty then
          .next (((s.setCtx k x').output k 0 bs).endCommand k stOK 0 (if x.desc.outInline then min 16 bs.length else 0))
        else .next ((s.retire k 4 x').inOrder k { output := [(x.op, bs)], pc := x.pc, num := x.retired })

/-- FENCE_OVERTIME (R212): a fence has taken more than 4 µs. -/
def execFenceOvertime (i : Fin 16) (s : State) : Result :=
  match s.ge.fences[i.val]? with
  | none => .next s
  | some f =>
    if s.quartz ≤ f.raised + 4000 ∨ f.late then .next s
    else .next ({ s with ge.fences := s.ge.fences.set i { f with late := true } }.raise pgGEO 0)

/-- FENCE_HOLDER_TIMEOUT (R102): a context holds an entry under a fence raised 3 µs ago and ends with KEY_ORPHANED, DETAIL the key field its
slot, or the derived key's parent chain, was fetched from; of several such slots the lowest-numbered one's (log 176). -/
def execFenceHolderTimeout (c : Ctx) (s : State) : Result :=
  let x := s.ctx (ctxKey c)
  match s.orphanField x with
  | none => .next s
  | some f => if x.cmd.isSome then .next (s.endCommand (ctxKey c) stKeyOrphaned f) else .next s

/-! ## Sweeper and remasking (R210, R214) -/

/-- SWEEPER_STEP (R214): the sweeper reaches the next listed line of the tables, in line order, and reclaims an orphaned live record; past the
last line a pass ends. Lines behind a fence are skipped, and what the sweeper's MPU denies it reads as zeros (R265, R268). -/
def execSweeperStep (s : State) : Result :=
  if s.get R.GEO_SWEEP_EN = 0 then .next s
  else match s.ge.lines.find? fun e => s.ge.swept < e.1 + 1 with
    | none => .next (({ s with ge.swept := 0 }.set R.GEO_SWEEP_LINE 0).count R.GEO_SWEEP_PASS |>.raise pgGEO 1)
    | some (k, l) =>
      let s0 : State := { s with ge.swept := k + 1 }
      let r := s0.mpuCheck 13 .read (128 * s.tablePlace k) 128 0
      let s := r.2.set R.GEO_SWEEP_LINE (handleIndex (lineHandle k))
      if r.1 ∧ l.live ∧ !s.fenced k ∧ (s.walk (linePart k) 8 (lineHandle k)).2 = .orphaned then
        .next ((s.writeLine k (s.tombstone k)).1.countSat R.GEO_SWEEP_RECLAIM)
      else .next s

/-- REMASK_MS: 0 acts as 1, values above 64 as 64. -/
def State.remaskMs (s : State) : Nat := max 1 (min 64 (s.get R.GEO_REMASK_MS))

/-- An entry of a slice re-masked. -/
def State.remaskEntry (s : State) (n : Nat) (e : CacheEntry) : State :=
  let (v, s) := s.remask n e.material
  s.setCache n ((s.cacheOf n).map fun d => if d.line = e.line then { d with material := v } else d)

/-- An ephemeral key of a context's slot re-masked. -/
def State.remaskSlot (s : State) (n k i : Nat) : State :=
  match ((s.ctx k).keys.getD i none).filter (·.line.isNone) with
  | none => s
  | some y =>
    let (held, s) := s.remask n y.held
    s.updCtx k fun x => { x with keys := x.keys.set i (some { y with held }) }

/-- REMASK_PERIOD (R210): a slice re-masks every entry with a new mask; the mask generator takes a 32-byte seed of the cluster's queue, or goes
on with its previous one and reports it late. It starts once Flint is ready (R217). -/
def execRemaskPeriod (n : Fin 16) (seeded : Bool) (s : State) : Result :=
  if s.quartz < Sparse.get 0 s.ge.maskTimes n + 1000000 * s.remaskMs ∨ ¬ s.fl.everReady then .next s
  else
    let ok := seeded && decide (32 ≤ s.queueFill n)
    let r := if ok then s.takeQueue n 32 else (Sparse.get [] s.ge.maskSeeds n, s)
    let s : State := { r.2 with ge.maskSeeds := Sparse.set [] r.2.ge.maskSeeds n r.1,
                                ge.maskTimes := Sparse.set 0 r.2.ge.maskTimes n r.2.quartz }
    let s := (s.cacheOf n).foldl (fun s e => s.remaskEntry n e) s
    let s := (s.busyIn n).foldl (fun s e => (List.range 4).foldl (fun s i => s.remaskSlot n e.1 i) s) s
    let s := s.count (R.KCS_REMASK_PASS n)
    .next (if ok then s else s.raise (pgKCS n) 1)

end Sys2Proof.Machine
end

