-- ==== Sys2Proof/Machine/Format.lean ====
section
/-! DEFINITION. The format unit: format-table entries and the FMT instructions (R74, R106-R112). -/
namespace Sys2Proof.Machine

/-! ## Entries (R109, R112) -/

/-- A format-table entry (Table 4.1). Positions are 0xFF for none. -/
structure FmtEntry where
  kind : Nat := 0
  wide : Bool := false
  ctrl : Nat := 0
  ctrlPos : Nat := 0xFF
  lenPos : Nat := 0xFF
  pinPos : Nat := 0
  pinMin : Nat := 4
  pinMax : Nat := 12
  fillRule : Nat := 0
  fillNib : Nat := 0
  fieldEnd : Nat := 16
  randPos : Nat := 0xFF
  panRule : Nat := 0
  panMin : Nat := 0
  panMax : Nat := 0
  decTable : List Nat := []
  decRule : Nat := 0
  decDigits : Nat := 0
deriving DecidableEq, Repr

/-- The entry of its 64 bytes. -/
def readFmt (bs : List Byte) : FmtEntry :=
  { kind := byteAt bs 1, wide := bitOf (byteAt bs 2) 0, ctrl := byteAt bs 3 % 16, ctrlPos := byteAt bs 4, lenPos := byteAt bs 5,
    pinPos := byteAt bs 6, pinMin := byteAt bs 7, pinMax := byteAt bs 8, fillRule := byteAt bs 9 % 4, fillNib := byteAt bs 9 / 16,
    fieldEnd := byteAt bs 10, randPos := byteAt bs 11, panRule := byteAt bs 12 % 8, panMin := byteAt bs 13, panMax := byteAt bs 14,
    decTable := nibbles (slice 16 8 bs), decRule := byteAt bs 24, decDigits := byteAt bs 25 }

/-- The shipped entries (Table 4.3). -/
def shippedFmt : Nat → FmtEntry
  | 0 => { kind := 1, ctrl := 0, ctrlPos := 0, lenPos := 1, pinPos := 2, fillNib := 0xF, panRule := 1, panMin := 13, panMax := 19 }
  | 1 => { kind := 1, ctrl := 1, ctrlPos := 0, lenPos := 1, pinPos := 2, fillRule := 1 }
  | 3 => { kind := 1, ctrl := 3, ctrlPos := 0, lenPos := 1, pinPos := 2, fillRule := 2, panRule := 1, panMin := 13, panMax := 19 }
  | 4 => { kind := 1, wide := true, ctrl := 4, ctrlPos := 0, lenPos := 1, pinPos := 2, fillNib := 0xA, randPos := 16, panRule := 2,
           panMin := 12, panMax := 19 }
  | 8 => { kind := 1, pinPos := 0, fillNib := 0xF }
  | 9 => { kind := 1, lenPos := 0, pinPos := 1, fillNib := 0xF, panRule := 3, panMin := 12, panMax := 19 }
  | 16 => { kind := 2, decTable := [0, 1, 2, 3, 4, 5, 6, 7, 8, 9, 0, 1, 2, 3, 4, 5], decRule := 0, decDigits := 16 }
  | 17 => { kind := 2, decRule := 1, decDigits := 16 }
  | _ => {}

/-- The entry a command's FMT uses: a Kolulen one, or the integrator's as it stood at the command's dispatch (R106, R108). -/
def State.fmtEntry (s : State) (x : Context) (i : Nat) : FmtEntry :=
  if i < 32 then shippedFmt i
  else
    let now := Sparse.get [] s.sq.fmtTab i
    readFmt (if x.fmtCommits = s.sq.fmtCommits then now else (Sparse.get none s.sq.fmtPrev i).getD now)

/-! ## PIN and PAN fields (R110) -/

/-- Nibbles of the entry's block. -/
def FmtEntry.width (e : FmtEntry) : Nat := if e.wide then 32 else 16

/-- Does the entry fold a PAN field in (rules 1 and 3)? -/
def FmtEntry.folds (e : FmtEntry) : Bool := e.panRule == 1 || e.panRule == 3

/-- The first nibble after the fill: the random field, the end of a 128-bit block, or the end of the PIN field of a 64-bit block. -/
def FmtEntry.fillEnd (e : FmtEntry) : Nat :=
  if e.wide then (if e.randPos = 0xFF then 32 else e.randPos) else e.fieldEnd

/-- Is nibble `j` a fill nibble for a PIN of `n` digits? -/
def FmtEntry.isFill (e : FmtEntry) (n j : Nat) : Bool :=
  j < e.fillEnd && j != e.ctrlPos && j != e.lenPos && !(e.pinPos ≤ j && j < e.pinPos + n)

/-- The nibbles of the PIN field: control, length, digits, fill and random. Nibbles of a 64-bit block beyond FIELD_END are not stated. -/
def FmtEntry.pinField (e : FmtEntry) (digits : List Nat) (b : List Byte) : List Nat :=
  let n := digits.length
  let bn := nibbles b
  let fills := fun j => ((List.range j).filter (e.isFill n)).length
  let total := fills 32
  let used := if e.fillRule = 0 then 0 else if e.fillRule = 1 then total else 2 * total
  (List.range e.width).map fun j =>
    if j = e.ctrlPos then e.ctrl
    else if j = e.lenPos then n
    else if e.pinPos ≤ j ∧ j < e.pinPos + n then digits.getD (j - e.pinPos) 0
    else if e.isFill n j then
      (if e.fillRule = 0 then e.fillNib else if e.fillRule = 1 then bn.getD (fills j) 0 else 0xA + byteAt b (fills j) % 6)
    else if e.wide then bn.getD (used + (j - e.fillEnd)) 0
    else Config.openNibble j % 16

/-- The PAN fold field (rules 1 and 3): four zero nibbles and 12 digits, left of the check digit or with it. -/
def FmtEntry.foldField (e : FmtEntry) (pan : List Nat) : List Nat :=
  let body := if e.panRule = 1 then pan.take (pan.length - 1) else pan
  [0, 0, 0, 0] ++ (if body.length < 12 then (List.range 12).map fun j => Config.openNibble (32 + j) % 16 else body.drop (body.length - 12))

/-- Two nibble strings joined by exclusive or, the second reaching as far as it goes. -/
def xorNibs (a b : List Nat) : List Nat := a.mapIdx fun i x => if i < b.length then x ^^^ b.getD i 0 else x

/-- The block of a nibble string, in a V register. -/
def blockOf (ns : List Nat) : List Byte := fitBytes 16 (packNibbles ns)

/-- A canonical PIN: the digits, then 0xF (R74). -/
def canonicalPin (ds : List Nat) : List Byte := packNibbles (ds ++ List.replicate (32 - ds.length) 0xF)

/-- The PAN digits, or the check code of order 2 or 3 of Table 4.2. `field` is the packed PAN, ten bytes. -/
def FmtEntry.panDigits (e : FmtEntry) (count : Nat) (field : List Byte) : Except Nat (List Nat) :=
  let ns := nibbles (field.take 10)
  if count < e.panMin ∨ e.panMax < count then .error 0x05
  else if (ns.take count).any (9 < ·) ∨ (ns.drop count).any (· ≠ 0xF) then .error 0x06
  else .ok (ns.take count)

/-- The PIN length of a clear block: its length nibble, or the count of decimal nibbles from PIN_POS. -/
def FmtEntry.pinLength (e : FmtEntry) (ns : List Nat) : Nat :=
  if e.lenPos ≠ 0xFF then ns.getD e.lenPos 0
  else (((ns.drop e.pinPos).take (e.fieldEnd - e.pinPos)).takeWhile (· ≤ 9)).length

/-- The PIN digits of a clear block, or the check code of orders 4 to 7. -/
def FmtEntry.readPin (e : FmtEntry) (ns : List Nat) : Except Nat (List Nat) :=
  let n := e.pinLength ns
  let ds := (ns.drop e.pinPos).take n
  if e.ctrlPos ≠ 0xFF ∧ ns.getD e.ctrlPos 0 ≠ e.ctrl then .error 0x01
  else if n < e.pinMin ∨ e.pinMax < n then .error 0x02
  else if ds.any (9 < ·) then .error 0x03
  else if (List.range 32).any fun j => e.isFill n j &&
      ((e.fillRule == 0 && ns.getD j 0 != e.fillNib) || (e.fillRule == 2 && ns.getD j 0 < 0xA)) then .error 0x04
  else .ok ds

/-- The digits of a canonical PIN of length `n`, or the check code of order 5 or 6. -/
def FmtEntry.canonicalDigits (e : FmtEntry) (n : Nat) (a : List Byte) : Except Nat (List Nat) :=
  let ds := (nibbles a).take n
  if n < e.pinMin ∨ e.pinMax < n then .error 0x02
  else if ds.any (9 < ·) then .error 0x03
  else .ok ds

/-- DECIMALISE (R110). -/
def FmtEntry.decimalise (e : FmtEntry) (a : List Byte) : List Nat :=
  let ns := nibbles (a.take 8)
  let want := if e.decDigits = 0 then 16 else e.decDigits
  if e.decRule = 0 then (ns.take want).map fun i => e.decTable.getD i 0
  else ((ns.filter (· ≤ 9)) ++ ((ns.filter (9 < ·)).map (· - 10))).take want

/-! ## The instructions (R74, R81, R111) -/

/-- Is an operation defined for the entry (check 1 of Table 4.2)? -/
def FmtEntry.defines (e : FmtEntry) (op : Nat) : Bool :=
  if op = 5 then e.kind == 2
  else e.kind == 1 && (op != 3 || e.panRule != 0) && (op != 4 || (!e.wide && e.panRule != 2))

/-- Issue slots of an FMT: two per nibble handled (Table 3.7). -/
def FmtEntry.slots (e : FmtEntry) (op : Nat) : Nat :=
  if op = 5 then 32
  else 2 * (e.width + if e.folds ∧ (op = 0 ∨ op = 1 ∨ op = 4) then 16 else 0)

/-- The PAN an operation uses, empty where it uses none: B for CHECK and EXTRACT of a folding entry, A for BUILD_PAN, the input for
BUILD_BLOCK. Table 3.5 gives CHECK no operand B, so that its field is reserved and the PAN of a folding entry stands in V0 (DEDUCED, log 184). -/
def FmtEntry.pan (e : FmtEntry) (op count : Nat) (a b input : List Byte) : Except Nat (List Nat) :=
  if op = 3 then e.panDigits count a
  else if e.folds ∧ (op = 0 ∨ op = 1) then e.panDigits count b
  else if e.folds ∧ op = 4 then e.panDigits count input
  else .ok []

/-- What an FMT gives: the value of D, if it writes one, and the PIN length, if it writes one; or the check code. -/
def FmtEntry.apply (e : FmtEntry) (op count pinLen : Nat) (a b input : List Byte) : Except Nat (Option (List Byte) × Option Nat) :=
  if !e.defines op then .error 0x08
  else do
    let pan ← e.pan op count a b input
    if op = 5 then
      let ds := e.decimalise a
      .ok (some (canonicalPin ds), some ds.length)
    else if op = 3 then
      .ok (some (blockOf (if e.panRule = 2 then (pan.length - 12) :: pan else e.foldField pan)), none)
    else if op ≤ 1 then
      let ns := (nibbles a).take e.width
      let ds ← e.readPin (if e.folds then xorNibs ns (e.foldField pan) else ns)
      .ok (if op = 0 then (none, none) else (some (canonicalPin ds), some ds.length))
    else
      let ds ← e.canonicalDigits pinLen a
      let f := e.pinField ds b
      .ok (some (blockOf (if op = 4 ∧ e.folds then xorNibs f (e.foldField pan) else f)), none)

/-- An FMT instruction: format-table entry IMM[5:0], applied by the cluster's format unit. A failed check ends the command, or sets FE under
SOFT; a success clears FE. -/
def State.format (s : State) (c : Ctx) (op : Nat) (w : Insn) (twinOk : Bool) : Result :=
  s.issue c 0x5 op w fun x =>
    let k := ctxKey c
    let n := c.cc.val
    let i := immBits w 0 6
    let e := s.fmtEntry x i
    let pinReg := immBits w 12 3
    if e.kind = 0 then .next (s.failAt k 1 stAborted 4)
    else if !(s.fmtUnit n).inService then .next (s.noUnit k (e.slots op) 5)
    else if op = 4 ∧ e.folds ∧ ¬ x.has (x.chunkBase + 4096) then .next (s.needChunk k x)
    else if !twinOk then .next ((s.countIssue k (e.slots op)).twinFault n 5 (some k))
    else
      match e.apply op (x.sr (immBits w 8 3)) (x.sr pinReg) (x.vr w.a) (x.vr w.b) (x.bufBytes (x.desc.param % 4096) 10) with
      | .error code =>
        if modBit w 0 then .next (s.retire k (e.slots op) { x with fe := true })
        else .next (s.failAt k (e.slots op) stFormatError (0x8000 + 0x100 * i + code))
      | .ok (d, len) =>
        let x := { x with fe := false }
        let x := match d with | some v => x.setV w.d v | none => x
        let x := match len with | some v => x.setS pinReg v | none => x
        .next (s.retire k (e.slots op) x)

/-- FMT 0x0, CHECK: A against the entry's layout; writes nothing. -/
def execFmtCheck (c : Ctx) (w : Insn) (twinOk : Bool) (s : State) : Result := s.format c 0x0 w twinOk

/-- FMT 0x1, EXTRACT: the canonical PIN and its length from a clear block. -/
def execFmtExtract (c : Ctx) (w : Insn) (twinOk : Bool) (s : State) : Result := s.format c 0x1 w twinOk

/-- FMT 0x2, BUILD_PIN: the entry's PIN field from a canonical PIN. -/
def execBuildPin (c : Ctx) (w : Insn) (twinOk : Bool) (s : State) : Result := s.format c 0x2 w twinOk

/-- FMT 0x3, BUILD_PAN: the entry's PAN field. -/
def execBuildPan (c : Ctx) (w : Insn) (twinOk : Bool) (s : State) : Result := s.format c 0x3 w twinOk

/-- FMT 0x4, BUILD_BLOCK: PIN field xor PAN field of a 64-bit format. -/
def execBuildBlock (c : Ctx) (w : Insn) (twinOk : Bool) (s : State) : Result := s.format c 0x4 w twinOk

/-- FMT 0x5, DECIMALISE: the decimal digits of A under the entry's rule. -/
def execDecimalise (c : Ctx) (w : Insn) (twinOk : Bool) (s : State) : Result := s.format c 0x5 w twinOk

end Sys2Proof.Machine
end

