-- ==== Sys2Proof/Machine/Derive.lean ====
section
/-! DEFINITION. The derivation table and DERIVE (R75, R113-R116, R467). -/
namespace Sys2Proof.Machine

/-! ## Derivation (R114, R115) -/

/-- The nibble a selector yields (R113). -/
def selNibble (a b : List Nat) (v : Nat) : Nat :=
  if v / 64 = 0 then v % 16
  else if v / 64 = 1 then a.getD (v % 32) 0
  else if v / 64 = 2 then b.getD (v % 32) 0
  else 15 - a.getD (v % 32) 0

/-- The variant mask of FLAGS bit 3 and of the DUKPT step: sixteen bytes, repeated over a longer parent (DESIGN CHOICE, log 229). -/
def variantC0 : List Byte := [0xC0, 0xC0, 0xC0, 0xC0, 0, 0, 0, 0, 0xC0, 0xC0, 0xC0, 0xC0, 0, 0, 0, 0]

/-- A key xor the variant mask. -/
def withC0 (key : List Byte) : List Byte := key.mapIdx fun i b => b ^^^ variantC0.getD (i % 16) 0

/-- One half of the non-reversible key generation of ANSI X9.24-3: the register under a key register. -/
def dukptHalf (des : List Byte → List Byte → List Byte) (key reg : List Byte) : List Byte :=
  let r := slice 8 8 key
  xorBytes (des (slice 0 8 key) (xorBytes reg r)) r

/-- The data nibbles an entry's template builds of A and B (R113). -/
def DerEntry.data (e : DerEntry) (a b : List Byte) : List Nat := e.template.map (selNibble (nibbles a) (nibbles b))

/-- The slices of the built data, as bytes; the last nibble of an odd slice is filled with a zero nibble (DESIGN CHOICE, log 229). -/
def DerEntry.slices (e : DerEntry) (data : List Nat) : List (List Byte) :=
  let n := if e.nblk = 0 then 0 else data.length / e.nblk
  (List.range e.nblk).map fun i => packNibbles ((data.drop (n * i)).take n)

/-- The cipher of an entry's parent. -/
def DerEntry.cipher (e : DerEntry) : Nat := if e.parentClass = 1 then 1 else 0

/-- The bytes a KIND yields (Table 4.5) with `blk` and `des` as the ciphers of block `i` under a key. -/
def DerEntry.bytesBy (e : DerEntry) (blk des : List Byte → BlockFn) (key a b : List Byte) : List Byte :=
  let data := e.data a b
  match e.kind with
  | 1 | 7 => ((e.slices data).mapIdx fun i d => blk (if i = 1 ∧ bitOf e.flags 3 then withC0 key else key) i d).flatten
  | 2 =>
    ((e.slices data).mapIdx fun i d =>
      let n := blkLen e.cipher
      cmacBy (fun j => blk key (i * (1 + (d.length + n - 1) / n) + j)) n d).flatten
  | 3 => (e.slices data).flatMap fun d => if bitOf e.flags 2 then hmacSha512 key d else hmacSha256 key d
  | 4 => let reg := packNibbles data
         dukptHalf (fun k => des k 0) (withC0 key) reg ++ dukptHalf (fun k => des k 1) key reg
  | 5 => let h := slice (if bitOf e.flags 1 then 8 else 0) 8 key
         h ++ h
  | _ => xorBytes key (packNibbles data)

/-- The bytes of a KIND in one of a lane's datapaths. -/
def DerEntry.bytesIn (e : DerEntry) (p : Path) (key a b : List Byte) : List Byte :=
  e.bytesBy (fun k => p.cipher e.cipher false k) p.des key a b

/-- A KIND's bytes with odd parity under FLAGS bit 0, cut to OUT_LEN; fewer where the slices give fewer (DESIGN CHOICE, log 229). -/
def DerEntry.cut (e : DerEntry) (v : List Byte) : List Byte := (if bitOf e.flags 0 then v.map oddParity else v).take e.outLen

/-- The output of a KIND (Table 4.5). -/
def DerEntry.output (e : DerEntry) (key a b : List Byte) : List Byte :=
  e.cut (e.bytesBy (fun k _ => blkEnc e.cipher k) (fun k _ => desEncrypt k) key a b)

/-- Does a parent key fit an entry: class, and a length the kind can use (R71, R114)? -/
def DerEntry.fits (e : DerEntry) (k : Key) : Bool :=
  let n := k.material.length
  k.cls == e.parentClass && k.ktype == .secret && k.sel == 0 &&
    (match e.kind with
     | 3 => 16 ≤ n && n ≤ 64
     | 4 | 5 => n == 16
     | 6 => n == e.outLen
     | _ => true)

/-- The blocks the HMACs of KIND 3 compress (Table 5.9). -/
def DerEntry.hashBlocks (e : DerEntry) : Nat :=
  let n := if e.nblk = 0 then 0 else (e.template.length / e.nblk + 1) / 2
  if e.kind = 3 then e.nblk * (if bitOf e.flags 2 then (n + 17 + 127) / 128 + 3 else (n + 9 + 63) / 64 + 3) else 0

/-- The unit faults, and the units a derivation needs and lacks: the DETAIL's unit, if any. -/
def State.deriveBlocked (s : State) (n : Nat) (e : DerEntry) : Option Nat :=
  if !(s.fmtUnit n).inService then some 5
  else if e.kind = 3 ∧ !(s.hashUnit n).svc.inService then some 4
  else if 0 < e.blocks ∧ (s.lanesUp n).isEmpty then some 0
  else none

/-- Work of a derivation counted: lane blocks with their dummy rounds, or hash blocks. -/
def State.countDerive (s : State) (n : Nat) (e : DerEntry) (agreed : Bool := true) : State :=
  let s := if e.kind = 3 then s.count (R.CC_HASH_BLOCKS n) e.hashBlocks else s
  match e.blocks, s.freeLane n with
  | 0, _ | _, none => s
  | b, some l => s.countBlocks n l b agreed

/-- A derivation in the twins of its units: the output, or the unit whose two results differ (R98, R127, R154). The format unit builds the data twice; the
hash unit computes each HMAC twice; the lane runs the blocks in both datapaths. `twin` is the unit something upset. -/
def State.deriveTwins (s : State) (n : Nat) (e : DerEntry) (twin : Option Nat) (key : Masked) (a b : List Byte) : Except Nat (List Byte) :=
  let ok := fun u => twin != some u
  let data := packNibbles (e.data a b)
  if data != upset (ok 5) data then .error 5
  else if e.kind = 3 then
    let v := e.bytesIn (s.workPath false) key.clear a b
    if v != upset (ok 4) (e.bytesIn (s.workPath true) key.clear a b) then .error 4 else .ok (e.cut v)
  else
    match e.blocks, s.freeLane n with
    | 0, _ | _, none => .ok (e.cut (e.bytesIn (s.workPath false) key.clear a b))
    | _, some l =>
      let r := s.twinRun key (ok l) fun p k => e.bytesIn p k a b
      if r.2 then .ok (e.cut r.1) else .error l

/-- The units a derivation runs in. -/
def State.derivesIn (s : State) (n : Nat) (e : DerEntry) (u : Nat) : Bool :=
  u == 5 || (u == 4 && e.kind == 3) || (e.kind != 3 && e.blocks != 0 && s.freeLane n == some u)

/-- A DERIVE instruction: derivation-table entry IMM[6:0] under the key in KA. `twin` names the unit that something upset: lane 0-3,
4 the hash unit, 5 the format unit; it shows where the derivation runs in that unit. -/
def State.derive (s : State) (c : Ctx) (op : Nat) (w : Insn) (twin : Option (Fin 6))
    (put : State → Nat → Nat → Context → KeySlot → DerEntry → List Byte → Result) : Result :=
  s.issue c 0x6 op w fun x =>
    let k := ctxKey c
    let n := c.cc.val
    let e := s.derEntry x (immBits w 0 7)
    let slots := 4 + 2 * e.template.length
    if e.kind = 0 ∨ (decide (op = 0) == decide (e.kind = 7)) then .next (s.failAt k 1 stAborted 4)
    else s.withSlot k slots x w.ka fun y =>
      if !e.fits y.key then .next (s.failAt k slots stKeyUsageDenied y.field)
      else match s.deriveBlocked n e with
        | some u => .next (s.noUnit k slots u)
        | none =>
          match s.deriveTwins n e (twin.map (·.val)) (s.wires n y) (x.vr w.a) (x.vr w.b) with
          | .error u => .next (((if u = 5 then s else s.countDerive n e false).countIssue k slots).twinFault n u (some k))
          | .ok v => put ((s.countDerive n e).settleSeeds n) k slots x y e v

/-- DERIVE 0x0 (R75, R115): the derived key in slot KD, ephemeral, with the entry's usage and its parent's world, life-cycle states, stamp and
key field. -/
def execDeriveKey (c : Ctx) (w : Insn) (twin : Option (Fin 6)) (s : State) : Result :=
  s.derive c 0x0 w twin fun s k slots x y e v =>
    let attr := 2 * 2 + 2 ^ 5 + 2 ^ 7 * bitsOf y.key.attr 7 7
    let key : Key := { ktype := .secret, cls := e.outClass, level := 6, usage := e.usage, attr, epoch := y.key.epoch, material := v }
    let key := { key with kcv := key.checkValue }
    s.placeEphemeral k slots x w.kd { key, mask := e.usage, field := y.field, stamp := y.stamp } x

/-- DERIVE 0x1 (R75, R114): the value of a KIND 7 entry to D. -/
def execDeriveData (c : Ctx) (w : Insn) (twin : Option (Fin 6)) (s : State) : Result :=
  s.derive c 0x1 w twin fun s k slots x _ _ v => .next (s.retire k slots (x.setV w.d v))

end Sys2Proof.Machine
end

