-- ==== Sys2Proof/Machine/CtrDrbg.lean ====
section
/-! DEFINITION. CTR_DRBG of NIST SP 800-90A with AES-256 and the derivation function (R224), without personalisation string or additional input. PRESUMED from the standard that Table 0.4 names (log 186). -/
namespace Sys2Proof.Machine

/-- The block chaining of the derivation function: the blocks of `bs` under a key, from a chaining value of zero. -/
def drbgChain (key bs : List Byte) : List Byte :=
  (List.range (bs.length / 16)).foldl (fun cv i => aesEncrypt key (xorBytes cv (slice (16 * i) 16 bs))) (zeros 16)

/-- The derivation function: 48 bytes of an input string. -/
def drbgDerive (input : List Byte) : List Byte :=
  let s := beBytes 4 input.length ++ beBytes 4 48 ++ input ++ [0x80]
  let s := s ++ zeros ((16 - s.length % 16) % 16)
  let key : List Byte := (List.range 32).map (BitVec.ofNat 8)
  let temp := (List.range 3).flatMap fun i => drbgChain key (beBytes 4 i ++ zeros 12 ++ s)
  let key := temp.take 32
  let a := aesEncrypt key (slice 32 16 temp)
  let b := aesEncrypt key a
  a ++ b ++ aesEncrypt key b

/-- `n` output blocks: V counted up and encrypted. -/
def DrbgState.blocks (d : DrbgState) (n : Nat) : List Byte :=
  (List.range n).flatMap fun i => aesEncrypt d.key (beBytes 16 (beNat d.v + i + 1))

/-- V after `n` output blocks. -/
def DrbgState.after (d : DrbgState) (n : Nat) : DrbgState := { d with v := beBytes 16 (beNat d.v + n) }

/-- The update function with 48 bytes of provided data. -/
def DrbgState.update (d : DrbgState) (data : List Byte) : DrbgState :=
  let t := xorBytes (d.blocks 3) data
  { key := t.take 32, v := t.drop 32 }

/-- Instantiation, or a reseed of a state that stands. -/
def DrbgState.seed (d : DrbgState) (entropy : List Byte) : DrbgState := d.update (drbgDerive entropy)

/-- A generate request of `n` blocks: the bytes and the state after it. -/
def DrbgState.generate (d : DrbgState) (n : Nat) : List Byte × DrbgState := (d.blocks n, (d.after n).update (zeros 48))

end Sys2Proof.Machine
end

