-- ==== Sys2Proof/Machine/Flint.lean ====
section
/-! DEFINITION. Flint: noise cells and their health tests, DRBG instances, random queues and the failures that discard them (R221-R237). -/
namespace Sys2Proof.Machine

/-- A noise cell. -/
def State.cell (s : State) (c : Nat) : Cell := Sparse.get {} s.fl.cells c

/-- The state with a cell changed. -/
def State.updCell (s : State) (c : Nat) (f : Cell → Cell) : State := { s with fl.cells := Sparse.upd {} s.fl.cells c f }

/-- A DRBG instance. -/
def State.drbg (s : State) (n : Nat) : Drbg := Sparse.get {} s.fl.drbgs n

/-- The state with an instance changed. -/
def State.updDrbg (s : State) (n : Nat) (f : Drbg → Drbg) : State := { s with fl.drbgs := Sparse.upd {} s.fl.drbgs n f }

/-- Cells counted healthy, as a bit mask (CELL_OK). -/
def State.cellsOk (s : State) : Nat := ((List.range 8).map fun c => if (s.cell c).ok then 2 ^ c else 0).sum

/-- How many cells are counted healthy. -/
def State.healthy (s : State) : Nat := ((List.range 8).filter fun c => (s.cell c).ok).length

/-- Is the power domain of a cluster on? -/
def State.ccPowered (s : State) (n : Nat) : Bool := !s.bit R.PWR_CC_OFF n

/-- The contexts that wait for random bytes of a cluster's queue. -/
def State.drawsOf (s : State) (n : Nat) : List Nat :=
  ((s.busyIn n).filter fun e => e.2.wait == .random).map (·.1)

/-- The contexts of a cluster whose operation in a public-key unit waits for further bytes of its queue (R161, R166). -/
def State.unitDraws (s : State) (n : Nat) : List Nat :=
  (s.pk.units.flatMap fun e => e.2.ops).filterMap fun o => if o.starved.isSome then o.owner.filter fun k => clusterOf k == n else none

/-- The contexts whose lane operations wait on a stalled lane of a cluster (R138). -/
def State.stalledDraws (s : State) (n : Nat) : List Nat :=
  (List.range 4).flatMap fun l =>
    let x := s.lane n l
    if x.stalled then (x.exec.toList ++ x.wait.toList).filterMap (·.owner) else []

/-- An instance's queue and internal state discarded, with a seed being collected for it; the draws that wait on it end with RNG_FAILED (R231 steps 2
and 3). -/
def State.discardQueue (s : State) (n : Nat) : State :=
  let draws := (s.drawsOf n ++ s.unitDraws n ++ s.stalledDraws n).eraseDups
  let s := s.updDrbg n fun d => { d with ready := false, cells := 0, reseeding := false, requests := 0, core := {} }
  let s := (s.setQueue n []).dropSeed n
  draws.foldl (fun s k => (s.countSat R.FLT_FAILED_CNT).endAt k stRngFailed 0) (s.countSat R.FLT_DISCARD_CNT)

/-- The queues of the affected instances discarded: INT_RAW bit 2. -/
def State.discardAll (s : State) (hit : Nat → Bool) : State :=
  let ns := (List.range 16).filter fun n => hit n && s.ccPowered n
  if ns.isEmpty then s else (ns.foldl (fun s n => s.discardQueue n) s).raise pgFLT 2

/-- Does a failure of a cell affect an instance: its current seed took bits from the cell (R231 step 1), or it is being reinstantiated (R235)? -/
def State.affected (s : State) (c n : Nat) : Bool :=
  bitOf (s.drbg n).cells c || (s.fl.seedFor == some n && !s.fl.seed.isEmpty && !(s.drbg n).ready)

/-- A health failure counted; one that finds two or more others in the preceding second raises ENV_RNG (R233). -/
def State.countFailure (s : State) : State :=
  let recent := (s.fl.failures ++ [s.quartz]).filter fun t => s.quartz ≤ t + 1000000000
  let s : State := { s with fl.failures := recent }
  let s := s.raise pgFLT 1
  if 3 ≤ recent.length then ((s.countSat R.FLT_ENV_RNG_CNT).raise pgFLT 3).raiseInput 15 else s

/-- The last-failure record of Table 8.4. -/
def State.lastFailure (s : State) (c test : Nat) (start : Bool) : State :=
  (((s.set R.FLT_LAST_CELL c).set R.FLT_LAST_TEST test).set R.FLT_LAST_START (b2n start)).set R.FLT_LAST_CORE 0

/-- A cell leaves the rotation: the bits of its window, and those it released and nothing took, are discarded (R223, R232). -/
def Cell.leave (x : Cell) : Cell := { x with ok := false, window := x.window + 1, next := 1024 * (x.window + 1), limit := 1024 * (x.window + 1) }

/-- A health failure of a cell in the rotation (R231, R232, R234): it restarts with a trim of 100 µs and a start-up test of 10.24 µs; the instances it
affects are discarded, and all of them in the same discard where the healthy cells fall below four: Flint is then not ready, or not yet. -/
def State.failCell (s : State) (c test : Nat) : State :=
  let s := s.countSat (if test = 0 then R.FLT_RCT_FAIL c else R.FLT_APT_FAIL c)
  let s := s.lastFailure c test false
  let s := if s.healthy = 8 ∧ s.get R.FLT_READY = 1 then s.severity 2 else s
  let t := s.updCell c fun x => { x.leave with start := true, restarts := 0, due := s.quartz + 110240 }
  let few := decide (t.healthy < 4 ∧ 4 ≤ s.healthy)
  let t := if few then (t.set R.FLT_READY 0).raise pgFLT 4 else t
  (t.discardAll fun n => few || s.affected c n).countFailure

/-! ## Seeds (R224) -/

/-- The instance whose seed is collected, one at a time: of those without a current seed the one of the lowest cluster (R231 step 4), else the lowest that
collects a reseed. -/
def State.seedTarget (s : State) : Option Nat :=
  let open' := fun n => s.ccPowered n && !(s.drbg n).katFail
  if s.healthy < 4 then none
  else
    match (List.range 16).find? fun n => open' n && !(s.drbg n).ready with
    | some n => some n
    | none => (List.range 16).find? fun n => open' n && (s.drbg n).reseeding

/-- The cell whose turn it is in the rotation over the healthy ones. -/
def State.turnCell (s : State) : Option Nat :=
  ((List.range 8).map fun i => (s.fl.turn + i) % 8).find? fun c => (s.cell c).ok

/-- Released bits taken one at a time in rotation, up to the 427 of a seed, while the cell whose turn it is has one (R223, R224). -/
def State.collectBits : Nat → State → State
  | 0, s => s
  | fuel + 1, s =>
    match s.turnCell with
    | none => s
    | some c =>
      let x := s.cell c
      if x.limit ≤ x.next ∨ 427 ≤ s.fl.seed.length then s
      else
        let t := s.updCell c fun x => { x with next := x.next + 1 }
        State.collectBits fuel { t with
          fl.seed := s.fl.seed ++ [Config.cellBit c x.next], fl.turn := (c + 1) % 8, fl.seedFrom := if bitOf s.fl.seedFrom c then s.fl.seedFrom else
            s.fl.seedFrom + 2 ^ c }

/-- The collection of seeds goes on: for the instance whose turn it is, a collection for another being abandoned. -/
def State.collect (s : State) : State :=
  match s.seedTarget with
  | none => s
  | some n =>
    State.collectBits 427 (if s.fl.seedFor = some n then s else { s with fl.seedFor := some n, fl.seed := [], fl.seedFrom := 0 })

/-- The bytes of a collected seed: its bits in order, the first most significant, the last byte filled with zero bits (DESIGN CHOICE, log 186). -/
def seedBytes (bits : List Bool) : List Byte :=
  (List.range 54).map fun i => BitVec.ofNat 8 (((List.range 8).map fun j => b2n (bits.getD (8 * i + j) false) * 2 ^ (7 - j)).sum)

/-- APT_WINDOW_CLOSE (R222, R223): a window of a healthy cell closes; `count` is how often its first bit value occurred. At 664 or more it
fails and its bits are discarded; else they are released. -/
def execAptWindowClose (cell : Fin 8) (count : Nat) (s : State) : Result :=
  if !(s.cell cell).ok then .next s
  else if s.get R.FLT_APT_CUTOFF ≤ count then .next (s.failCell cell 1)
  else .next (s.updCell cell fun x => { x with window := x.window + 1, limit := 1024 * (x.window + 1) }).collect

/-- REPETITION_COUNT_FAIL (R222): 46 identical bits in a row. -/
def execRepetitionCountFail (cell : Fin 8) (s : State) : Result :=
  if (s.cell cell).ok then .next (s.failCell cell 0) else .next s

/-- RESEED_MS: 0 acts as 1, above 1,000 as 1,000. -/
def State.reseedNs (s : State) : Nat := 1000000 * max 1 (min 1000 (s.get R.FLT_RESEED_MS))

/-- The next reseed of instance `n` after now: multiples of the period, offset by n sixteenths of it (R226). -/
def State.nextReseed (s : State) (n : Nat) : Nat :=
  let p := s.reseedNs
  let off := n * p / 16
  let since := s.quartz + p - off % p
  s.quartz + (p - since % p)

/-- The cells begin to settle and trim, which takes 1.90 ms typically, before a start-up test of 10.24 µs (Table 8.2; DESIGN CHOICE, log 188: no test ends
earlier than the typical time). A cell that was turned off stays so (R232). -/
def State.startCells (s : State) : State :=
  (List.range 8).foldl (fun s c => s.updCell c fun x => { x with start := !x.off, due := s.quartz + 1910240 }) s

/-- The units that have passed their tests enter service once Flint is ready (R150, R184). -/
def State.settleAllUnits (s : State) : State :=
  let s := (List.range 16).foldl (fun s n => (List.range 6).foldl (fun s u => s.settleUnit n u) s) s
  (List.range 8).foldl (fun s p => (List.range 9).foldl (fun s u => s.settlePkUnit p u) s) s

/-- Flint becomes ready: four healthy cells, and the instance of every powered cluster instantiated or failed under R227 (R228). -/
def State.settleReady (s : State) : State :=
  if s.get R.FLT_READY = 0 ∧ 4 ≤ s.healthy ∧
      (List.range 16).all (fun n => !s.ccPowered n || (s.drbg n).ready || (s.drbg n).katFail) then
    let s := (s.set R.FLT_READY 1).raise pgFLT 0
    let s := if s.healthy < 8 then s.severity 2 else s
    let s := if s.fl.everReady then s else
      { s.set R.FLT_READY_US (min 65535 ((s.quartz - s.fl.powered) / 1000)) with fl.everReady := true }
    s.settleAllUnits
  else s

/-- CELL_RESTART_TEST (R228, R229, R232): the trim and start-up test of a cell that is out of the rotation end. A pass joins the rotation and
may make Flint ready; the first start-up test that fails restarts the cell, and two restart tests failed in a row turn it off. -/
def execCellRestartTest (cell : Fin 8) (count : Nat) (repeated : Bool) (s : State) : Result :=
  let x := s.cell cell
  if !x.start ∨ x.ok ∨ x.off ∨ s.quartz < x.due then .next s
  else if repeated = false ∧ count < s.get R.FLT_APT_CUTOFF then
    .next (s.updCell cell fun x => { x.leave with ok := true, start := false, fresh := false, restarts := 0 }).settleReady
  else
    let s := s.updCell cell Cell.leave
    let test := if repeated then 0 else 1
    let s := s.countSat (if repeated then R.FLT_RCT_FAIL cell else R.FLT_APT_FAIL cell)
    let s := (s.lastFailure cell test true).countFailure
    let n := if x.fresh then 0 else x.restarts + 1
    if 2 ≤ n then .next ((s.updCell cell fun x => { x with start := false, off := true, restarts := n }).raise pgFLT 5)
    else .next (s.updCell cell fun x => { x with start := true, fresh := false, restarts := n, due := s.quartz + 110240 })

/-- A twin mismatch in an instance's core: a health failure of the instance alone (R224, R231, R233). -/
def State.failCore (s : State) (n : Nat) : State :=
  (((s.set R.FLT_LAST_CORE 1).set R.FLT_LAST_INST n).discardAll fun m => m == n).countFailure

/-- DRBG_INSTANTIATE (R224, R227): the instance whose seed is collected is instantiated or reseeded from its 427 bits. Before its first instantiation its
known-answer tests run; one that fails them stays uninstantiated. A twin mismatch in its core is a health failure of the instance. -/
def execDrbgInstantiate (n : Fin 16) (core : CoreTest) (s : State) : Result :=
  let d := s.drbg n
  let s := s.collect
  if s.seedTarget ≠ some n.val ∨ s.fl.seed.length < 427 then .next s
  else
    let t := s.dropSeed n
    if !d.katOk && !core.katOk then .next (((t.updDrbg n fun d => { d with katFail := true }).raise pgFLT 6).settleReady)
    else if !core.twinOk then .next (t.failCore n)
    else
      .next (t.updDrbg n fun d =>
        { d with ready := true, katOk := true, cells := s.fl.seedFrom, reseeding := false, requests := 0, nextReseed := s.nextReseed n,
                 core := (if d.ready then d.core else {}).seed (seedBytes s.fl.seed) }).settleReady

/-- DRBG_RESEED (R226): RESEED_MS or 2^20 generate requests are reached, and the instance collects a reseed. -/
def execDrbgReseed (n : Fin 16) (s : State) : Result :=
  let d := s.drbg n
  if d.ready ∧ ¬ d.reseeding ∧ (d.nextReseed ≤ s.quartz ∨ 2 ^ 20 ≤ d.requests) then
    .next (s.updDrbg n fun d => { d with reseeding := true })
  else .next s

/-- The draws of a cluster that wait try again. -/
def State.serveDraws (s : State) (n : Nat) : State :=
  (s.drawsOf n).foldl (fun s k => s.updCtx k fun x => { x with wait := .none }) s

/-- DRBG_GENERATE (R225, R231, R236): a 4 KiB request completes while the queue holds less than 48 KiB, and waiting draws are served; refills pause while
the cluster relocks or its crossbars are frozen (R253). A twin mismatch in the core is a health failure of the instance alone. -/
def execDrbgGenerate (n : Fin 16) (twinOk : Bool) (s : State) : Result :=
  if ¬ (s.drbg n).ready ∨ 49152 ≤ s.queueFill n ∨ s.relocks n ∨ s.xbarHeld n then .next s
  else if !twinOk then .next (s.failCore n)
  else
    let r := (s.drbg n).core.generate 256
    .next (((s.setQueue n (s.queue n ++ r.1)).updDrbg n fun d => { d with requests := d.requests + 1, core := r.2 }).serveDraws n)

/-- Since when a context waits for random bytes: itself, or its operation in a public-key unit. -/
def State.drawSince (s : State) (k : Nat) : Option Nat :=
  let x := s.ctx k
  if x.cmd.isNone then none
  else if x.wait = .random then some x.since
  else (((s.pk.units.flatMap fun e => e.2.ops).find? fun o => o.owner == some k && o.starved.isSome).bind (·.starved))

/-- RNG_NOT_READY_TIMEOUT (R230): a draw has waited 10 ms on an uninstantiated instance. -/
def execRngNotReadyTimeout (c : Ctx) (s : State) : Result :=
  match s.drawSince (ctxKey c) with
  | none => .next s
  | some t =>
    if ¬ (s.drbg c.cc).ready ∧ t + 10000000 ≤ s.quartz then .next ((s.countSat R.FLT_NOTREADY_CNT).endAt (ctxKey c) stRngNotReady 0)
    else .next s

/-- OBS_SEED_REFRESH (R227): while Flint is ready Obsidian takes a fresh 32-byte mesh seed, when Flint first reports ready after main
power-up and every second. -/
def execObsSeedRefresh (s : State) : Result :=
  if s.get R.FLT_READY = 0 ∨ (s.ob.seeded ∧ s.quartz < s.ob.seedTime + 1000000000) then .next s
  else
    let r := s.draw 32
    .next { r.2 with ob.seed := r.1, ob.seedTime := r.2.quartz, ob.seeded := true }

end Sys2Proof.Machine
end

