-- ==== Sys2Proof/Machine/MlKem.lean ====
section
/-! DEFINITION. ML-KEM (FIPS 203): key generation, encapsulation and decapsulation for the three parameter sets of Table 6.9. `perm` is a run's butterfly order (R169). PRESUMED from the standard (log 130). -/
namespace Sys2Proof.Machine

/-- A parameter set of ML-KEM. -/
structure KemSet where
  k : Nat
  eta1 : Nat
  du : Nat
  dv : Nat
deriving DecidableEq, Repr

/-- Parameter set 0, 1 or 2: ML-KEM-512, 768, 1024. -/
def kemSet (set : Nat) : KemSet :=
  if set = 0 then { k := 2, eta1 := 3, du := 10, dv := 4 }
  else if set = 1 then { k := 3, eta1 := 2, du := 10, dv := 4 }
  else { k := 4, eta1 := 2, du := 11, dv := 5 }

namespace KemSet

/-- A polynomial of the centred binomial distribution. -/
def cbd (eta : Nat) (bs : List Byte) : Poly :=
  let v := leNat bs
  let ones := fun first => ((List.range eta).map fun j => bitsOf v (first + j) 1).sum
  polyOf fun i => (ones (2 * eta * i) + 3329 - ones (2 * eta * i + eta)) % 3329

/-- The polynomial sampled for counter `n`. -/
def noise (eta : Nat) (seed : List Byte) (n : Nat) : Poly := cbd eta (shake256 (64 * eta) (seed ++ leBytes 1 n))

/-- A coefficient compressed to `d` bits. -/
def compress (d x : Nat) : Nat := (2 ^ (d + 1) * x + 3329) / (2 * 3329) % 2 ^ d

/-- A coefficient back from `d` bits. -/
def decompress (d y : Nat) : Nat := (2 * 3329 * y + 2 ^ d) / 2 ^ (d + 1)

/-- Row `i` of the matrix, or of its transpose. -/
def row (p : KemSet) (rho : List Byte) (transpose : Bool) (i : Nat) : List Poly :=
  (List.range p.k).map fun j => kemRing.sampleNtt (rho ++ if transpose then leBytes 1 i ++ leBytes 1 j else leBytes 1 j ++ leBytes 1 i)

/-- Key generation: the encapsulation key and the decapsulation key, from d and z. -/
def keygen (p : KemSet) (perm d z : List Byte) : List Byte × List Byte :=
  let g := sha3_512 (d ++ leBytes 1 p.k)
  let (rho, sigma) := (g.take 32, g.drop 32)
  let vec := fun first => (List.range p.k).map fun i => kemRing.ntt perm (noise p.eta1 sigma (first + i))
  let s := vec 0
  let t := (List.range p.k).zip (vec p.k) |>.map fun e => kemRing.add (kemRing.dot (p.row rho false e.1) s) e.2
  let ek := t.flatMap (fun f => packBits 12 (coef f)) ++ rho
  (ek, s.flatMap (fun f => packBits 12 (coef f)) ++ ek ++ sha3_256 ek ++ z)

/-- The encryption of a 32-byte message under an encapsulation key. -/
def encrypt (p : KemSet) (perm ek m r : List Byte) : List Byte :=
  let t := (byteRuns p.k 384 ek).map (unpackBits 12)
  let rho := slice (384 * p.k) 32 ek
  let y := (List.range p.k).map fun i => kemRing.ntt perm (noise p.eta1 r i)
  let u := (List.range p.k).map fun i => kemRing.add (kemRing.intt perm (kemRing.dot (p.row rho true i) y)) (noise 2 r (p.k + i))
  let mu := polyOf fun i => decompress 1 (bitsOf (leNat m) i 1)
  let v := kemRing.add (kemRing.add (kemRing.intt perm (kemRing.dot t y)) (noise 2 r (2 * p.k))) mu
  u.flatMap (fun f => packBits p.du fun i => compress p.du (coef f i)) ++ packBits p.dv fun i => compress p.dv (coef v i)

/-- The decryption of a ciphertext under a decapsulation key. -/
def decrypt (p : KemSet) (perm dk c : List Byte) : List Byte :=
  let wide := fun d bs => let f := unpackBits d bs; polyOf fun i => decompress d (coef f i)
  let u := (byteRuns p.k (32 * p.du) c).map (wide p.du)
  let v := wide p.dv (c.drop (32 * p.du * p.k))
  let s := (byteRuns p.k 384 dk).map (unpackBits 12)
  let w := kemRing.sub v (kemRing.intt perm (kemRing.dot s (u.map (kemRing.ntt perm))))
  packBits 1 fun i => compress 1 (coef w i)

/-- Encapsulation with the message `m`: the ciphertext and the shared secret. -/
def encaps (p : KemSet) (perm ek m : List Byte) : List Byte × List Byte :=
  let g := sha3_512 (m ++ sha3_256 ek)
  (p.encrypt perm ek m (g.drop 32), g.take 32)

/-- Decapsulation: the shared secret, or the implicit-rejection secret of a ciphertext that fails re-encryption (Table 6.8). -/
def decaps (p : KemSet) (perm dk c : List Byte) : List Byte :=
  let ek := slice (384 * p.k) (384 * p.k + 32) dk
  let m := p.decrypt perm dk c
  let g := sha3_512 (m ++ slice (768 * p.k + 32) 32 dk)
  if p.encrypt perm ek m (g.drop 32) = c then g.take 32 else shake256 32 (slice (768 * p.k + 64) 32 dk ++ c)

end KemSet

end Sys2Proof.Machine
end

