-- ==== Sys2Proof/Machine/PkMath.lean ====
section
/-! DEFINITION. The arithmetic of the public-key engines: modular powers, short Weierstrass curves and edwards25519, RSA with its encodings. The algorithms are those of the standards the operations name (FIPS 186-5, RFC 8032, RFC 8017, PRESUMED); the curve constants are those of the curves of Table 6.11. -/
namespace Sys2Proof.Machine

/-! ## Modular arithmetic -/

/-- Bit length of a number. -/
def bitLen (n : Nat) : Nat := if n = 0 then 0 else Nat.log2 n + 1

/-- `b ^ e mod m`, over the low `fuel` bits of `e`. -/
def powModAux (m : Nat) : Nat → Nat → Nat → Nat → Nat
  | 0, _, _, acc => acc
  | fuel + 1, b, e, acc => powModAux m fuel (b * b % m) (e / 2) (if e % 2 = 1 then acc * b % m else acc)

/-- `b ^ e mod m`. -/
def powMod (b e m : Nat) : Nat := powModAux m (bitLen e) (b % m) e (1 % m)

/-- The inverse modulo a prime. -/
def invMod (a p : Nat) : Nat := powMod a (p - 2) p

/-- Difference modulo `p`. -/
def subMod (a b p : Nat) : Nat := (a % p + (p - b % p)) % p

/-- The first non-residue of an odd prime, searched upward. -/
def nonResidue (p : Nat) : Nat → Nat → Nat
  | 0, z => z
  | fuel + 1, z => if powMod z ((p - 1) / 2) p = p - 1 then z else nonResidue p fuel (z + 1)

/-- An odd factor and a power of two: `n = q 2^s`. -/
def oddPart : Nat → Nat → Nat → Nat × Nat
  | 0, q, s => (q, s)
  | fuel + 1, q, s => if q % 2 = 0 then oddPart fuel (q / 2) (s + 1) else (q, s)

/-- The least `i` with `t ^ (2 ^ i) = 1`. -/
def orderExp (p : Nat) : Nat → Nat → Nat → Nat
  | 0, _, i => i
  | fuel + 1, t, i => if t = 1 then i else orderExp p fuel (t * t % p) (i + 1)

/-- The loop of Tonelli and Shanks. -/
def sqrtLoop (p : Nat) : Nat → Nat → Nat → Nat → Nat → Nat
  | 0, _, _, _, r => r
  | fuel + 1, m, c, t, r =>
    if t = 1 ∨ t = 0 then r
    else
      let i := orderExp p m t 0
      let b := powMod c (2 ^ (m - i - 1)) p
      sqrtLoop p fuel i (b * b % p) (t * (b * b) % p) (r * b % p)

/-- A square root modulo an odd prime, if there is one. -/
def sqrtMod (a p : Nat) : Option Nat :=
  let qs := oddPart (bitLen p) (p - 1) 0
  let z := nonResidue p 256 2
  let r := sqrtLoop p (bitLen p) qs.2 (powMod z qs.1 p) (powMod a qs.1 p) (powMod a ((qs.1 + 1) / 2) p)
  if r * r % p = a % p then some r else none

/-! ## Curves (Tables 6.10, 6.11) -/

/-- A curve: short Weierstrass, or twisted Edwards with `b` for d. -/
structure Curve where
  edwards : Bool := false
  fieldBits : Nat
  orderBits : Nat
  h : Nat := 1
  p : Nat
  a : Nat
  b : Nat
  gx : Nat
  gy : Nat
  n : Nat
deriving DecidableEq, Repr

/-- Lp: bytes of a coordinate. -/
def Curve.lp (c : Curve) : Nat := (c.fieldBits + 7) / 8

/-- Ln: bytes of the order. -/
def Curve.ln (c : Curve) : Nat := (c.orderBits + 7) / 8

def curveP256 : Curve :=
  { fieldBits := 256, orderBits := 256
    p := 0xffffffff00000001000000000000000000000000ffffffffffffffffffffffff
    a := 0xffffffff00000001000000000000000000000000fffffffffffffffffffffffc
    b := 0x5ac635d8aa3a93e7b3ebbd55769886bc651d06b0cc53b0f63bce3c3e27d2604b
    gx := 0x6b17d1f2e12c4247f8bce6e563a440f277037d812deb33a0f4a13945d898c296
    gy := 0x4fe342e2fe1a7f9b8ee7eb4a7c0f9e162bce33576b315ececbb6406837bf51f5
    n := 0xffffffff00000000ffffffffffffffffbce6faada7179e84f3b9cac2fc632551 }

def curveP384 : Curve :=
  { fieldBits := 384, orderBits := 384
    p := 0xfffffffffffffffffffffffffffffffffffffffffffffffffffffffffffffffeffffffff0000000000000000ffffffff
    a := 0xfffffffffffffffffffffffffffffffffffffffffffffffffffffffffffffffeffffffff0000000000000000fffffffc
    b := 0xb3312fa7e23ee7e4988e056be3f82d19181d9c6efe8141120314088f5013875ac656398d8a2ed19d2a85c8edd3ec2aef
    gx := 0xaa87ca22be8b05378eb1c71ef320ad746e1d3b628ba79b9859f741e082542a385502f25dbf55296c3a545e3872760ab7
    gy := 0x3617de4a96262c6f5d9e98bf9292dc29f8f41dbd289a147ce9da3113b5f0b8c00a60b1ce1d7e819d7a431d7c90ea0e5f
    n := 0xffffffffffffffffffffffffffffffffffffffffffffffffc7634d81f4372ddf581a0db248b0a77aecec196accc52973 }

def curveP521 : Curve :=
  { fieldBits := 521, orderBits := 521
    p := 2 ^ 521 - 1
    a := 2 ^ 521 - 4
    b := 0x0051953eb9618e1c9a1f929a21a0b68540eea2da725b99b315f3b8b489918ef109e156193951ec7e937b1652c0bd3bb1bf073573df883d2c34f1ef451fd46b503f00
    gx := 0x00c6858e06b70404e9cd9e3ecb662395b4429c648139053fb521f828af606b4d3dbaa14b5e77efe75928fe1dc127a2ffa8de3348b3c1856a429bf97e7e31c2e5bd66
    gy := 0x011839296a789a3bc0045c8a5fb42c7d1bd998f54449579b446817afbd17273e662c97ee72995ef42640c550b9013fad0761353c7086a272c24088be94769fd16650
    n := 0x01fffffffffffffffffffffffffffffffffffffffffffffffffffffffffffffffffa51868783bf2f966b7fcc0148f709a5d03bb5c9b8899c47aebb6fb71e91386409 }

def curveBp256 : Curve :=
  { fieldBits := 256, orderBits := 256
    p := 0xa9fb57dba1eea9bc3e660a909d838d726e3bf623d52620282013481d1f6e5377
    a := 0x7d5a0975fc2c3057eef67530417affe7fb8055c126dc5c6ce94a4b44f330b5d9
    b := 0x26dc5c6ce94a4b44f330b5d9bbd77cbf958416295cf7e1ce6bccdc18ff8c07b6
    gx := 0x8bd2aeb9cb7e57cb2c4b482ffc81b7afb9de27e1e3bd23c23a4453bd9ace3262
    gy := 0x547ef835c3dac4fd97f8461a14611dc9c27745132ded8e545c1d54c72f046997
    n := 0xa9fb57dba1eea9bc3e660a909d838d718c397aa3b561a6f7901e0e82974856a7 }

def curveBp384 : Curve :=
  { fieldBits := 384, orderBits := 384
    p := 0x8cb91e82a3386d280f5d6f7e50e641df152f7109ed5456b412b1da197fb71123acd3a729901d1a71874700133107ec53
    a := 0x7bc382c63d8c150c3c72080ace05afa0c2bea28e4fb22787139165efba91f90f8aa5814a503ad4eb04a8c7dd22ce2826
    b := 0x04a8c7dd22ce28268b39b55416f0447c2fb77de107dcd2a62e880ea53eeb62d57cb4390295dbc9943ab78696fa504c11
    gx := 0x1d1c64f068cf45ffa2a63a81b7c13f6b8847a3e77ef14fe3db7fcafe0cbd10e8e826e03436d646aaef87b2e247d4af1e
    gy := 0x8abe1d7520f9c2a45cb1eb8e95cfd55262b70b29feec5864e19c054ff99129280e4646217791811142820341263c5315
    n := 0x8cb91e82a3386d280f5d6f7e50e641df152f7109ed5456b31f166e6cac0425a7cf3ab6af6b7fc3103b883202e9046565 }

def curveEd25519 : Curve :=
  { edwards := true, fieldBits := 255, orderBits := 253, h := 8
    p := 2 ^ 255 - 19
    a := 2 ^ 255 - 20
    b := 37095705934669439343138083508754565189542113879843219016388785533085940283555
    gx := 15112221349535400772501151409588531511454012693041857206046113283949847762202
    gy := 46316835694926478169428394003475163141307993866256225615783033603165251855960
    n := 7237005577332262213973186563042994240857116359379907606001950938285454250989 }

/-- The curve of an entry's 512 bytes; none for FORM 0. -/
def readCurve (e : List Byte) : Option Curve :=
  let num := fun off n => leNat (slice off n e)
  let big := fun off => beNat (slice off 72 e)
  if num 1 1 = 0 then none
  else some { edwards := num 1 1 = 2, fieldBits := num 2 2, orderBits := num 4 2, h := num 6 1,
              p := big 64, a := big 136, b := big 208, gx := big 280, gy := big 352, n := big 424 }

/-- A point; none is the identity. -/
abbrev Point := Option (Nat × Nat)

/-- Sum of two points of a short Weierstrass curve. -/
def Curve.wAdd (c : Curve) : Point → Point → Point
  | none, q => q
  | q, none => q
  | some (x1, y1), some (x2, y2) =>
    if x1 = x2 ∧ (y1 + y2) % c.p = 0 then none
    else
      let l := if x1 = x2 then (3 * x1 * x1 + c.a) * invMod (2 * y1) c.p % c.p
        else subMod y2 y1 c.p * invMod (subMod x2 x1 c.p) c.p % c.p
      let x3 := subMod (l * l) (x1 + x2) c.p
      some (x3, subMod (l * subMod x1 x3 c.p) y1 c.p)

/-- Sum of two points of a twisted Edwards curve (identity (0, 1)). -/
def Curve.eAdd (c : Curve) (s t : Nat × Nat) : Nat × Nat :=
  let k := c.b * s.1 % c.p * t.1 % c.p * s.2 % c.p * t.2 % c.p
  ((s.1 * t.2 + t.1 * s.2) % c.p * invMod (1 + k) c.p % c.p,
   subMod (s.2 * t.2) (c.a * s.1 % c.p * t.1) c.p * invMod (subMod 1 k c.p) c.p % c.p)

/-- Multiple of a point, over the low `fuel` bits. -/
def Curve.mulAux (c : Curve) : Nat → Nat → Point → Point → Point
  | 0, _, _, acc => acc
  | fuel + 1, k, q, acc => Curve.mulAux c fuel (k / 2) (c.wAdd q q) (if k % 2 = 1 then c.wAdd acc q else acc)

/-- Multiple of a point of a short Weierstrass curve. -/
def Curve.mul (c : Curve) (k : Nat) (q : Point) : Point := c.mulAux (bitLen k) k q none

/-- Multiple of a point of a twisted Edwards curve, over the low `fuel` bits. -/
def Curve.eMulAux (c : Curve) : Nat → Nat → Nat × Nat → Nat × Nat → Nat × Nat
  | 0, _, _, acc => acc
  | fuel + 1, k, q, acc => Curve.eMulAux c fuel (k / 2) (c.eAdd q q) (if k % 2 = 1 then c.eAdd acc q else acc)

/-- Multiple of a point of a twisted Edwards curve. -/
def Curve.eMul (c : Curve) (k : Nat) (q : Nat × Nat) : Nat × Nat := c.eMulAux (bitLen k) k q (0, 1)

/-- The generator. -/
def Curve.g (c : Curve) : Nat × Nat := (c.gx, c.gy)

/-- Does a point lie on the Weierstrass curve? -/
def Curve.onCurve (c : Curve) (x y : Nat) : Bool := y * y % c.p == (x * x % c.p * x + c.a * x + c.b) % c.p

/-- The SEC1 encoding of a point, uncompressed or compressed. -/
def Curve.encode (c : Curve) (compressed : Bool) : Point → List Byte
  | none => [0]
  | some (x, y) =>
    if compressed then BitVec.ofNat 8 (2 + y % 2) :: beBytes c.lp x else 4 :: (beBytes c.lp x ++ beBytes c.lp y)

/-- The point a SEC1 encoding names, or none where Table 6.8 refuses it. -/
def Curve.decode (c : Curve) (bs : List Byte) : Option (Nat × Nat) :=
  let lead := (bs.getD 0 0).toNat
  let x := beNat (slice 1 c.lp bs)
  let q :=
    if lead = 4 then
      let y := beNat (slice (1 + c.lp) c.lp bs)
      if bs.length = 1 + 2 * c.lp ∧ x < c.p ∧ y < c.p ∧ c.onCurve x y then some (x, y) else none
    else if (lead = 2 ∨ lead = 3) ∧ bs.length = 1 + c.lp ∧ x < c.p then
      (sqrtMod (x * x % c.p * x + c.a * x + c.b) c.p).bind fun r =>
        let y := if r % 2 = lead % 2 then r else (c.p - r) % c.p
        if y % 2 = lead % 2 then some (x, y) else none
    else none
  q.filter fun q => c.h == 1 || c.mul c.n (some q) == none

/-- The 32-byte encoding of a point of edwards25519. -/
def edEncode (q : Nat × Nat) : List Byte := leBytes 32 (q.2 + 2 ^ 255 * (q.1 % 2))

/-- The point a 32-byte encoding names: none where y is p or above, there is no x, or x = 0 with the sign bit set (Table 6.8). -/
def edDecode (bs : List Byte) : Option (Nat × Nat) :=
  let c := curveEd25519
  let v := leNat bs
  let y := v % 2 ^ 255
  let sign := v / 2 ^ 255 % 2
  if y ≥ c.p then none
  else
    let u := subMod (y * y) 1 c.p
    let w := (c.b * (y * y % c.p) + 1) % c.p
    match sqrtMod (u * invMod w c.p) c.p with
    | none => none
    | some r =>
      if r = 0 then (if sign = 1 then none else some (0, y))
      else some (if r % 2 = sign then r else c.p - r, y)

/-! ## ECDSA, ECDH, EdDSA -/

/-- The integer of a digest, its leftmost bits to the length of the order. -/
def Curve.digestInt (c : Curve) (d : List Byte) : Nat := beNat d / 2 ^ (8 * d.length - c.orderBits)

/-- A secret scalar from random bytes, in 1 to n - 1 (FIPS 186-5, PRESUMED: extra random bits). -/
def Curve.scalar (c : Curve) (rand : List Byte) : Nat := beNat (rand.take (c.ln + 16)) % (c.n - 1) + 1

/-- ECDSA: r and s of a digest under a private scalar with a nonce. -/
def Curve.sign (c : Curve) (d k : Nat) (digest : List Byte) : List Byte :=
  let r := match c.mul k (some c.g) with | some q => q.1 % c.n | none => 0
  let s := invMod k c.n * (c.digestInt digest + r * d) % c.n
  beBytes c.ln r ++ beBytes c.ln s

/-- ECDSA: does a signature hold? -/
def Curve.verify (c : Curve) (q : Nat × Nat) (digest : List Byte) (r s : Nat) : Bool :=
  let w := invMod s c.n
  let t := c.wAdd (c.mul (c.digestInt digest * w % c.n) (some c.g)) (c.mul (r * w % c.n) (some q))
  match t with
  | some (x, _) => x % c.n == r
  | none => false

/-- Ed25519: the signature of a message under a scalar, with a nonce. -/
def edSign (a r : Nat) (pub msg : List Byte) : List Byte :=
  let c := curveEd25519
  let rb := edEncode (c.eMul (r % c.n) c.g)
  let h := leNat (sha512 (rb ++ pub ++ msg)) % c.n
  rb ++ leBytes 32 ((r + h * a) % c.n)

/-- Ed25519: does the verification equation hold (cofactored, as FIPS 186-5)? -/
def edVerify (pub r : Nat × Nat) (s : Nat) (pubBytes rBytes msg : List Byte) : Bool :=
  let c := curveEd25519
  let h := leNat (sha512 (rBytes ++ pubBytes ++ msg)) % c.n
  c.eMul (8 * s) c.g == c.eAdd (c.eMul 8 r) (c.eMul (8 * h) pub)

/-! ## RSA (RFC 8017) -/

/-- The hash of the RSA hash field. -/
def rsaHash (h : Nat) : List Byte → List Byte := if h = 0 then sha256 else if h = 1 then sha384 else sha512

/-- Its digest length. -/
def rsaHashLen (h : Nat) : Nat := if h = 0 then 32 else if h = 1 then 48 else 64

/-- MGF1. -/
def mgf1 (h : Nat) (seed : List Byte) (n : Nat) : List Byte :=
  ((List.range ((n + rsaHashLen h - 1) / rsaHashLen h)).flatMap fun i => rsaHash h (seed ++ beBytes 4 i)).take n

/-- A byte string with its leftmost bits beyond `bits` cleared. -/
def clearTop (bits : Nat) (bs : List Byte) : List Byte := beBytes bs.length (beNat bs % 2 ^ bits)

/-- EMSA-PSS of a digest with a salt, for a modulus of `modBits` bits. -/
def pssEncode (h modBits : Nat) (digest salt : List Byte) : List Byte :=
  let emBits := modBits - 1
  let emLen := (emBits + 7) / 8
  let hh := rsaHash h (zeros 8 ++ digest ++ salt)
  let db := zeros (emLen - salt.length - hh.length - 2) ++ [1] ++ salt
  clearTop (emBits - 8 * (hh.length + 1)) (xorBytes db (mgf1 h hh db.length)) ++ hh ++ [0xBC]

/-- EMSA-PSS verification, salt length h. -/
def pssVerify (h modBits : Nat) (digest em : List Byte) : Bool :=
  let emBits := modBits - 1
  let n := rsaHashLen h
  let hh := (em.drop (em.length - n - 1)).take n
  let masked := em.take (em.length - n - 1)
  let db := clearTop (emBits - 8 * (n + 1)) (xorBytes masked (mgf1 h hh masked.length))
  let pad := db.length - n - 1
  em.getLast? == some 0xBC && clearTop (emBits - 8 * (n + 1)) masked == masked &&
    (db.take pad).all (· == 0) && db.getD pad 0 == 1 && rsaHash h (zeros 8 ++ digest ++ db.drop (pad + 1)) == hh

/-- The DigestInfo header of a hash. -/
def digestInfo (h : Nat) : List Byte :=
  [0x30, BitVec.ofNat 8 (17 + rsaHashLen h), 0x30, 0x0D, 0x06, 0x09, 0x60, 0x86, 0x48, 0x01, 0x65, 0x03, 0x04, 0x02, BitVec.ofNat 8 (h + 1),
   0x05, 0x00, 0x04, BitVec.ofNat 8 (rsaHashLen h)]

/-- EMSA-PKCS1-v1_5 of a digest, `k` bytes. -/
def v15Encode (h k : Nat) (digest : List Byte) : List Byte :=
  let t := digestInfo h ++ digest
  [0, 1] ++ List.replicate (k - t.length - 3) 0xFF ++ [0] ++ t

/-- EME-OAEP of a message with a seed, empty label. -/
def oaepEncode (h k : Nat) (msg seed : List Byte) : List Byte :=
  let n := rsaHashLen h
  let db := rsaHash h [] ++ zeros (k - msg.length - 2 * n - 2) ++ [1] ++ msg
  let maskedDb := xorBytes db (mgf1 h seed db.length)
  0 :: (xorBytes seed (mgf1 h maskedDb n) ++ maskedDb)

/-- EME-OAEP decoding: the message, or none for a decoding error. -/
def oaepDecode (h : Nat) (em : List Byte) : Option (List Byte) :=
  let n := rsaHashLen h
  let maskedDb := em.drop (n + 1)
  let seed := xorBytes (slice 1 n em) (mgf1 h maskedDb n)
  let db := xorBytes maskedDb (mgf1 h seed maskedDb.length)
  let rest := (db.drop n).dropWhile (· == 0)
  if em.getD 0 1 = 0 ∧ db.take n = rsaHash h [] ∧ rest.getD 0 0 = 1 then some (rest.drop 1) else none

/-- The modulus of a private key's material e ‖ p ‖ q ‖ d_p ‖ d_q. -/
def rsaModulus (m : List Byte) : Nat :=
  let half := (m.length - 4) / 4
  beNat (slice 4 half m) * beNat (slice (4 + half) half m)

/-- The RSA private operation, by the Chinese remainder theorem. -/
def rsaPrivate (m : List Byte) (x : Nat) : Nat :=
  let half := (m.length - 4) / 4
  let p := beNat (slice 4 half m)
  let q := beNat (slice (4 + half) half m)
  let mp := powMod x (beNat (slice (4 + 2 * half) half m)) p
  let mq := powMod x (beNat (slice (4 + 3 * half) half m)) q
  mq + q * (subMod mp mq p * invMod q p % p)

end Sys2Proof.Machine
end

