-- ==== Sys2Proof/Machine/PkBlind.lean ====
section
/-! DEFINITION. The private-key arithmetic of a run under its blinding bytes: scalars blinded by a multiple of the order, ladders in randomised projective coordinates, blinded inversion, and the RSA private operation with a blinded base and blinded exponents (R169). -/
namespace Sys2Proof.Machine

/-- The blinded scalar of a run: `d + r n`, r the first eight blinding bytes. -/
def blindScalar (n d : Nat) (blind : List Byte) : Nat := d + beNat (blind.take 8) * n

/-- The Z of a run, from the blinding bytes after the eighth, in 1 to p - 1. -/
def blindZ (p : Nat) (blind : List Byte) : Nat := beNat (blind.drop 8) % (p - 1) + 1

/-- The digits of a window of four bits, the most significant first. -/
def windowDigits : Nat → Nat → List Nat
  | 0, _ => []
  | n + 1, k => windowDigits n (k / 16) ++ [k % 16]

/-- A fixed-window ladder over a group's addition: the multiples 0 to 15 of a point, and for each digit four doublings and one addition (DESIGN CHOICE,
log 191: R169 gives no window width; no result depends on it). -/
def ladder {α : Type} (add : α → α → α) (zero q : α) (k : Nat) : α :=
  let table := (List.range 15).foldl (fun t _ => t ++ [add (t.getLastD zero) q]) [zero]
  (windowDigits ((bitLen k + 3) / 4) k).foldl (fun acc d =>
    let two := fun a => add a a
    add (two (two (two (two acc)))) (table.getD d zero)) zero

/-- A point in Jacobian coordinates, x = X / Z^2 and y = Y / Z^3, or in homogeneous ones, x = X / Z and y = Y / Z. -/
structure Projective where
  x : Nat
  y : Nat
  z : Nat
deriving DecidableEq, Repr

/-- The double of a Jacobian point. -/
def Curve.jDouble (c : Curve) (q : Projective) : Projective :=
  let p := c.p
  if q.y = 0 ∨ q.z = 0 then ⟨1, 1, 0⟩
  else
    let yy := q.y * q.y % p
    let s := 4 * q.x * yy % p
    let zz := q.z * q.z % p
    let m := (3 * q.x * q.x + c.a * (zz * zz % p)) % p
    let x := subMod (m * m) (2 * s) p
    ⟨x, subMod (m * subMod s x p) (8 * yy * yy) p, 2 * q.y * q.z % p⟩

/-- The sum of two Jacobian points. -/
def Curve.jAdd (c : Curve) (a b : Projective) : Projective :=
  let p := c.p
  if a.z = 0 then b else if b.z = 0 then a
  else
    let za := a.z * a.z % p
    let zb := b.z * b.z % p
    let ua := a.x * zb % p
    let ub := b.x * za % p
    let sa := a.y * (zb * b.z % p) % p
    let sb := b.y * (za * a.z % p) % p
    if ua = ub then (if sa = sb then c.jDouble a else ⟨1, 1, 0⟩)
    else
      let h := subMod ub ua p
      let r := subMod sb sa p
      let hh := h * h % p
      let x := subMod (r * r) (hh * h + 2 * (ua * hh % p)) p
      ⟨x, subMod (r * subMod (ua * hh) x p) (sa * (hh * h % p)) p, h * (a.z * b.z % p) % p⟩

/-- `d` times a point of a short Weierstrass curve, in a run with its blinding bytes. -/
def Curve.blindMul (c : Curve) (blind : List Byte) (d : Nat) (q : Nat × Nat) : Point :=
  let z := blindZ c.p blind
  let zz := z * z % c.p
  let r := ladder c.jAdd ⟨1, 1, 0⟩ ⟨q.1 * zz % c.p, q.2 * (zz * z % c.p) % c.p, z⟩ (blindScalar c.n d blind)
  if r.z = 0 then none
  else
    let i := invMod r.z c.p
    let ii := i * i % c.p
    some (r.x * ii % c.p, r.y * (ii * i % c.p) % c.p)

/-- The sum of two points of a twisted Edwards curve in homogeneous coordinates. -/
def Curve.hAdd (c : Curve) (a b : Projective) : Projective :=
  let p := c.p
  let zz := a.z * b.z % p
  let xx := a.x * b.x % p
  let yy := a.y * b.y % p
  let e := c.b * xx % p * yy % p
  let f := subMod (zz * zz) e p
  let g := (zz * zz + e) % p
  ⟨zz * f % p * subMod ((a.x + a.y) * (b.x + b.y)) (xx + yy) p % p, zz * g % p * subMod yy (c.a * xx) p % p, f * g % p⟩

/-- `d` times a point of a twisted Edwards curve, in a run with its blinding bytes. -/
def Curve.blindEMul (c : Curve) (blind : List Byte) (d : Nat) (q : Nat × Nat) : Nat × Nat :=
  let z := blindZ c.p blind
  let r := ladder c.hAdd ⟨0, 1, 1⟩ ⟨q.1 * z % c.p, q.2 * z % c.p, z⟩ (blindScalar c.n d blind)
  let i := invMod r.z c.p
  (r.x * i % c.p, r.y * i % c.p)

/-- ECDSA in a run: k is inverted under a multiplicative blinding and d r formed under an additive one, both the run's Z (DESIGN CHOICE, log 191: R169 does
not say which random bytes blind them). -/
def Curve.blindSign (c : Curve) (blind : List Byte) (d k : Nat) (digest : List Byte) : List Byte :=
  let r := match c.blindMul blind k c.g with | some q => q.1 % c.n | none => 0
  let b := blindZ c.n blind
  let inv := b * invMod (k * b % c.n) c.n % c.n
  let dr := subMod ((d + b) * r) (b * r) c.n
  let s := inv * ((c.digestInt digest + dr) % c.n) % c.n
  beBytes c.ln r ++ beBytes c.ln s

/-- Ed25519 in a run: the signature of a message under a scalar, with a nonce. -/
def edBlindSign (blind : List Byte) (d r : Nat) (pub msg : List Byte) : List Byte :=
  let c := curveEd25519
  let rb := edEncode (c.blindEMul blind (r % c.n) c.g)
  let h := leNat (sha512 (rb ++ pub ++ msg)) % c.n
  let b := blindZ c.n blind
  rb ++ leBytes 32 ((r + subMod (h * (d + b)) (h * b) c.n) % c.n)

/-- The inverse of `a` modulo `m`, by the extended Euclidean algorithm. -/
def egcdInv (m : Nat) : Nat → Nat → Nat → Nat → Nat → Nat
  | 0, _, _, _, u => u
  | fuel + 1, a, b, u, v =>
    if b = 0 then u else egcdInv m fuel b (a % b) v (subMod u (a / b % m * v % m) m)

/-- The inverse of a number modulo another it has no factor in common with. -/
def inverse (a m : Nat) : Nat := egcdInv m (4 * bitLen m + 8) (a % m) m 1 0

/-- The RSA private operation of a run: the base blinded by a k-byte random value raised to e, each CRT exponent by a 64-bit multiple of p - 1 or q - 1
(R169). A random value with a factor in common with the modulus blinds nothing. -/
def rsaBlindPrivate (m : List Byte) (k : Nat) (blind : List Byte) (x : Nat) : Nat :=
  let half := (m.length - 4) / 4
  let num := fun i => beNat (slice (4 + i * half) half m)
  let (p, q) := (num 0, num 1)
  let n := p * q
  let v := beNat (blind.take k) % n
  let rho := if Nat.gcd v n = 1 then v else 1
  let y := x * powMod rho (beNat (m.take 4)) n % n
  let mp := powMod y (num 2 + beNat (slice k 8 blind) * (p - 1)) p
  let mq := powMod y (num 3 + beNat (slice (k + 8) 8 blind) * (q - 1)) q
  (mq + q * (subMod mp mq p * invMod q p % p)) * inverse rho n % n

end Sys2Proof.Machine
end

