-- ==== Sys2Proof/Machine/Pk.lean ====
section
/-! DEFINITION. The Basalt public-key engines: PKX operation words, their checks, hand-off, results and refusals, known-answer tests, freeze and reset, and ATTEST (R77, R94, R157-R185, R215, R216). -/
namespace Sys2Proof.Machine

/-! ## Operation words (Tables 6.2, 6.3) -/

/-- Is this an RSA operation? -/
def PkWord.isRsa (v : PkWord) : Bool := 0x10 ≤ v.oper && v.oper ≤ 0x16

/-- Is this an operation of the lattice unit? -/
def PkWord.isLattice (v : PkWord) : Bool := 0x20 ≤ v.oper

/-- May the operation take an external public key? -/
def PkWord.mayExt (v : PkWord) : Bool := [3, 6, 0x12, 0x13, 0x15, 0x2A].contains v.oper

/-- Does the operation take a stored key? -/
def PkWord.usesKey (v : PkWord) : Bool := [2, 4, 5, 0x10, 0x11, 0x14, 0x22, 0x29].contains v.oper || (v.mayExt && !v.extpub)

/-- Does the operation make a private key, and so read its usage bits from S register B (R163)? -/
def PkWord.isKeygen (v : PkWord) : Bool := [1, 0x16, 0x20, 0x28].contains v.oper

/-- The RSA hash, SEL bits [1:0]. -/
def PkWord.hash (v : PkWord) : Nat := v.sel % 4

/-- Is OPER one of Table 6.3? -/
def PkWord.defined (v : PkWord) : Bool := v.isEc || v.isRsa || [0x20, 0x21, 0x22, 0x28, 0x29, 0x2A].contains v.oper

/-- Is the encoding one Tables 6.2 and 6.3 define? An entry that cannot serve the operation is taken as reserved (DEDUCED, R178). -/
def PkWord.encodingOk (v : PkWord) : Bool :=
  v.defined && (if v.isRsa then v.hash < 3 && v.sel < 4
   else if v.usesKey then v.sel == 0
   else if v.isLattice then v.sel ≤ 2
   else if v.oper = 3 then v.sel != 3
   else if v.oper = 6 then v.sel == 3
   else true) &&
  (!v.pform || v.oper == 1 || v.oper == 0x29) && (!v.extpub || v.mayExt)

/-- Do the fields of a word that lengths depend on name a hash or a parameter set? -/
def PkWord.lengthsKnown (v : PkWord) : Bool := if v.isRsa then v.hash < 3 else !v.isLattice || v.usesKey || v.sel ≤ 2

/-- The operation word of a PKX, bits [13:6] from S register DSREG under DYN. -/
def Context.pkWord (x : Context) (w : Insn) : PkWord :=
  let v := if modBit w 2 then x.sr (modBits w 4 3) % 256 else immBits w 6 8
  { oper := immBits w 0 6, sel := v % 64, pform := bitOf v 6, extpub := bitOf v 7 }

/-- Is a PKX one that R83 refuses at load: reserved bits, a register range past V15, an S operand above 7, or a reserved operation word that
the image fixes? -/
def pkxReserved (w : Insn) : Bool :=
  let v : PkWord := { oper := immBits w 0 6, sel := immBits w 6 6, pform := bitOf w.imm.toNat 12, extpub := bitOf w.imm.toNat 13 }
  immBits w 14 2 != 0 || immBits w 24 8 != 0 || modBit w 3 || modBit w 7 ||
    (if modBit w 2 then immBits w 6 8 != 0 || !v.defined else !v.encodingOk) ||
    (if modBit w 0 then 7 < w.b.val else 16 < w.a.val + immBits w 16 4 + 1) || (v.isKeygen && 7 < w.b.val) ||
    (!modBit w 1 && 16 < w.d.val + immBits w 20 4 + 1)

/-! ## Curves -/

/-- A Kolulen curve entry (Table 6.11); none for entries 6-15. -/
def shippedCurve : Nat → Option Curve
  | 0 => some curveP256
  | 1 => some curveP384
  | 2 => some curveP521
  | 3 => some curveEd25519
  | 4 => some curveBp256
  | 5 => some curveBp384
  | _ => none

/-- The curve an operation runs on: the entry as it stood at its hand-off. -/
def curveOf (sel : Nat) (entry : List Byte) : Option Curve := if sel < 16 then shippedCurve sel else readCurve entry

/-- The bytes of an integrator entry. -/
def State.curveEntry (s : State) (sel : Nat) : List Byte := Sparse.get [] s.pk.curves sel

/-! ## Lengths (Tables 6.3, 6.9) -/

/-- Encapsulation or public key, private key, and ciphertext or signature of a parameter set. -/
def latticeLens (v : PkWord) (set : Nat) : Nat × Nat × Nat :=
  if v.oper < 0x28 then ([800, 1184, 1568].getD set 0, [1632, 2400, 3168].getD set 0, [768, 1088, 1568].getD set 0)
  else ([1312, 1952, 2592].getD set 0, [2560, 4032, 4896].getD set 0, [2420, 3309, 4627].getD set 0)

/-- An RSA public key: its bytes, modulus and exponent. -/
structure RsaPub where
  k : Nat
  n : Nat
  e : Nat
deriving DecidableEq, Repr

/-- The RSA key of an operation: stored, or external at the head of its source. -/
def rsaPub (key : Option Key) (src : List Byte) : RsaPub :=
  match key with
  | some y => let m := y.pubEncoding; { k := m.length - 4, n := beNat (m.drop 4), e := beNat (m.take 4) }
  | none => let k := leNat (src.take 2); { k, n := beNat (slice 2 k src), e := beNat (slice (2 + k) 4 src) }

/-- The lengths a point at the head of a byte string may have. -/
def pointLens (c : Curve) (bs : List Byte) : List Nat :=
  let lead := (bs.getD 0 0).toNat
  if lead = 4 then [1 + 2 * c.lp] else if lead = 2 ∨ lead = 3 then [1 + c.lp] else [1, 1 + c.lp, 1 + 2 * c.lp]

/-- Is `len` a source length the operation requires (check 0xE001)? -/
def pkLenOk (v : PkWord) (key : Option Key) (c : Option Curve) (src : List Byte) (len : Nat) : Bool :=
  let h := rsaHashLen v.hash
  let q := rsaPub key src
  let ext := if v.extpub then 2 + q.k + 4 else 0
  let set := latticeLens v (pkSel v key)
  let msg := fun head => head < len && head + 1 + (src.getD head 0).toNat ≤ len && len ≤ head + 1 + (src.getD head 0).toNat + 4096
  match v.oper with
  | 0x02 => 1 ≤ len && len ≤ 64
  | 0x03 =>
    let n := (src.getD 0 0).toNat
    match c with
    | none => 1 ≤ n && n ≤ 64 && 1 + n ≤ len
    | some c =>
      let base := 1 + n + 2 * c.ln
      1 ≤ n && n ≤ 64 && (if v.extpub then (pointLens c (src.drop base)).any fun l => base + l == len else len == base)
  | 0x04 => match c with | none => true | some c => (pointLens c src).contains len
  | 0x05 => len ≤ 4096
  | 0x06 => let base := if v.extpub then 96 else 64; base ≤ len && len ≤ base + 4096
  | 0x10 | 0x11 => len == h
  | 0x12 | 0x13 => len == ext + q.k + h
  | 0x14 => len == q.k
  | 0x15 => ext ≤ len && len + 2 * h + 2 ≤ ext + q.k
  | 0x16 => len == 6
  | 0x21 => len == set.1
  | 0x22 => len == set.2.2
  | 0x29 => msg 0
  | 0x2A => msg (set.2.2 + if v.extpub then set.1 else 0)
  | _ => len == 0

/-- Result bytes of an operation, its secret aside. -/
def pkResultLen (v : PkWord) (key : Option Key) (c : Option Curve) (src : List Byte) : Nat :=
  let q := rsaPub key src
  let set := latticeLens v (pkSel v key)
  match v.oper with
  | 0x01 => match c with
    | none => 0
    | some c => if c.edwards then 32 else if v.pform then 1 + c.lp else 1 + 2 * c.lp
  | 0x02 => match c with | none => 0 | some c => 2 * c.ln
  | 0x05 => 64
  | 0x03 | 0x06 | 0x12 | 0x13 | 0x2A => 16
  | 0x10 | 0x11 | 0x15 => q.k
  | 0x14 => 18 + (q.k - 2 * rsaHashLen v.hash - 2)
  | 0x16 => leNat (src.take 2) / 8
  | 0x20 | 0x28 => set.1
  | 0x21 | 0x29 => set.2.2
  | _ => 0

/-- Random bytes both runs of an operation share: nonce or scalar, salt, seed or message (Table 6.3, R168). -/
def pkShared (v : PkWord) (c : Option Curve) : Nat :=
  match v.oper with
  | 0x01 | 0x02 => (match c with | some c => c.ln | none => 0) + 16
  | 0x10 | 0x15 => rsaHashLen v.hash
  | 0x20 => 64
  | 0x21 | 0x28 => 32
  | 0x29 => if v.pform then 0 else 32
  | _ => 0

/-- Random bytes that blind each run (Table 6.3, R169). -/
def pkBlind (v : PkWord) (key : Option Key) (c : Option Curve) (src : List Byte) : Nat :=
  match v.oper with
  | 0x01 | 0x02 | 0x04 | 0x05 => (match c with | some c => c.lp | none => 0) + 16
  | 0x10 | 0x11 | 0x14 => (rsaPub key src).k + 16
  | 0x20 | 0x21 | 0x22 | 0x28 | 0x29 => 16
  | _ => 0

/-- Random bytes an operation draws at issue (Table 6.3); RSA_KEYGEN draws as it runs. -/
def pkRandom (v : PkWord) (key : Option Key) (c : Option Curve) (src : List Byte) : Nat := pkShared v c + 2 * pkBlind v key c src

/-- Is an external RSA key, or the source of an RSA_KEYGEN, malformed (check 0xE004)? -/
def rsaMalformed (v : PkWord) (src : List Byte) : Bool :=
  let badE := fun e => e % 2 == 0 || decide (e < 3)
  if v.oper = 0x16 then
    let bits := leNat (src.take 2)
    badE (beNat (slice 2 4 src)) || decide (bits < 2048 ∨ 8192 < bits) || bits % 64 != 0
  else if v.isRsa && v.extpub then
    let q := rsaPub none src
    decide (q.k < 256 ∨ 1024 < q.k) || q.k % 8 != 0 || q.n % 2 == 0 || src.getD 2 0 == 0 || badE q.e
  else false

/-- Does a stored key fit an operation, by class, form and length (R71, R161)? -/
def State.pkFits (s : State) (v : PkWord) (k : Key) : Bool :=
  let isPriv := k.ktype == .priv
  let len := s.materialFits k.cls k.ktype k.sel k.material.length
  match v.oper with
  | 0x02 | 0x04 => k.cls == 4 && isPriv && k.sel != 3 && (len || (s.curveLens k.sel).isNone)
  | 0x03 => k.cls == 4 && k.sel != 3 && (len || (s.curveLens k.sel).isNone)
  | 0x05 => k.cls == 4 && isPriv && k.sel == 3 && len
  | 0x06 => k.cls == 4 && k.sel == 3 && len
  | 0x10 | 0x11 | 0x14 => k.cls == 5 && isPriv && len
  | 0x12 | 0x13 | 0x15 => k.cls == 5 && len
  | 0x22 => k.cls == 6 && isPriv && len
  | 0x29 => k.cls == 7 && isPriv && len
  | 0x2A => k.cls == 7 && len
  | _ => false

/-! ## Results (R161, R163, R171) -/

/-- What an operation answers: a refusal under Table 6.8, its result with the secret that goes to KD (class, type, material), an ML-DSA signature with the
iterations it took, a restart with fresh random bytes (R166), or the end at 1,000 iterations (R175). -/
inductive PkAnswer
  | refused (status detail : Nat)
  | done (result : List Byte) (secret : Option (Nat × KType × List Byte))
  | signed (signature : List Byte) (iters : Nat)
  | again
  | limit
deriving DecidableEq, Repr

/-- The sixteen bytes of a verdict. -/
def verdict (ok : Bool) : List Byte := BitVec.ofNat 8 (if ok then 0 else 1) :: zeros 15

def outOfRange : PkAnswer := .refused stOperandRange 0
def badPoint : PkAnswer := .refused stPointInvalid 0

/-- What a run computes with: the random bytes both runs share and its own blinding bytes. -/
structure RunBytes where
  shared : List Byte
  blind : List Byte
deriving DecidableEq, Repr

/-- An operation on a Weierstrass curve. -/
def weierAnswer (c : Curve) (v : PkWord) (key : Option Key) (src : List Byte) (r : RunBytes) : PkAnswer :=
  let y := key.getD {}
  let d := beNat (y.material.take c.ln)
  match v.oper with
  | 0x01 =>
    let d := c.scalar r.shared
    let q := c.blindMul r.blind d c.g
    .done (c.encode v.pform q) (some (4, .priv, beBytes c.ln d ++ fitBytes (1 + 2 * c.lp) (c.encode false q)))
  | 0x02 =>
    if d = 0 ∨ c.n ≤ d then outOfRange
    else
      let sig := c.blindSign r.blind d (c.scalar r.shared) src
      if beNat (sig.take c.ln) = 0 ∨ beNat (sig.drop c.ln) = 0 then .again else .done sig none
  | 0x03 =>
    let hl := (src.getD 0 0).toNat
    let e := beNat (slice (1 + hl) c.ln src)
    let t := beNat (slice (1 + hl + c.ln) c.ln src)
    let q := if v.extpub then src.drop (1 + hl + 2 * c.ln) else y.pubEncoding
    if e = 0 ∨ c.n ≤ e ∨ t = 0 ∨ c.n ≤ t then outOfRange
    else match c.decode q with
      | none => badPoint
      | some q => .done (verdict (c.verify q (slice 1 hl src) e t)) none
  | _ =>
    if d = 0 ∨ c.n ≤ d then outOfRange
    else match c.decode src with
      | none => badPoint
      | some q => match c.blindMul r.blind d q with
        | none => badPoint
        | some (px, _) => .done [] (some (3, .secret, beBytes c.lp px))

/-- An operation on edwards25519. The nonce of a signature is free: a record holds the scalar alone (Table 7.4), and not the prefix from which RFC 8032
derives one (log 131). -/
def edAnswer (v : PkWord) (key : Option Key) (src : List Byte) (r : RunBytes) : PkAnswer :=
  let c := curveEd25519
  let y := key.getD {}
  let d := beNat (y.material.take 32)
  match v.oper with
  | 0x01 =>
    let d := c.scalar r.shared
    let q := edEncode (c.blindEMul r.blind d c.g)
    .done q (some (4, .priv, beBytes 32 d ++ q))
  | 0x05 =>
    if d = 0 ∨ c.n ≤ d then outOfRange
    else
      let e := Config.eddsaNonce d src
      let sig := edBlindSign r.blind d e y.pubEncoding src
      if leNat (sig.drop 32) = 0 ∨ e % c.n = 0 then .again else .done sig none
  | _ =>
    let a := if v.extpub then slice 64 32 src else y.pubEncoding
    let m := src.drop (if v.extpub then 96 else 64)
    let t := leNat (slice 32 32 src)
    if c.n ≤ t then outOfRange
    else match edDecode (src.take 32), edDecode a with
      | some e, some q => .done (verdict (edVerify q e t a (src.take 32) m)) none
      | _, _ => badPoint

/-- An RSA operation. -/
def rsaAnswer (v : PkWord) (key : Option Key) (src : List Byte) (r : RunBytes) : PkAnswer :=
  let q := rsaPub key src
  let h := v.hash
  let hl := rsaHashLen h
  let body := if v.extpub then src.drop (2 + q.k + 4) else src
  let bits := bitLen q.n
  let power := fun x => beBytes q.k (rsaBlindPrivate (key.getD {}).material q.k r.blind x)
  match v.oper with
  | 0x10 => .done (power (beNat (pssEncode h bits src r.shared))) none
  | 0x11 => .done (power (beNat (v15Encode h q.k src))) none
  | 0x12 | 0x13 =>
    let t := beNat (body.take q.k)
    let dg := slice q.k hl body
    if t = 0 ∨ q.n ≤ t then outOfRange
    else
      let m := powMod t q.e q.n
      .done (verdict (if v.oper = 0x12 then
          m < 256 ^ ((bits + 6) / 8) && pssVerify h bits dg (beBytes ((bits + 6) / 8) m)
        else beBytes q.k m == v15Encode h q.k dg)) none
  | 0x14 =>
    let t := beNat src
    if t = 0 ∨ q.n ≤ t then outOfRange
    else
      let room := q.k - 2 * hl - 2
      match oaepDecode h (power t) with
      | some m => .done (verdict true ++ leBytes 2 m.length ++ fitBytes room m) none
      | none => .done (verdict false ++ zeros (2 + room)) none
  | 0x15 => .done (beBytes q.k (powMod (beNat (oaepEncode h q.k body r.shared)) q.e q.n)) none
  | _ =>
    let n := leNat (src.take 2)
    let e := beNat (slice 2 4 src)
    let p1 := Config.rsaPrime 0 n e r.shared
    let p2 := Config.rsaPrime 1 n e r.shared
    let half := n / 16
    .done (beBytes (2 * half) (p1 * p2))
      (some (5, .priv, beBytes 4 e ++ beBytes half p1 ++ beBytes half p2 ++ beBytes half (inverse e (p1 - 1)) ++ beBytes half (inverse e (p2 - 1))))

/-- Coefficient `i` of a byte string of 12-bit coefficients (FIPS 203). -/
def coeff12 (bs : List Byte) (i : Nat) : Nat := bitsOf (leNat (slice (3 * (i / 2)) 3 bs)) (12 * (i % 2)) 12

/-- A lattice operation (FIPS 203, FIPS 204): a run's blinding bytes give its butterfly order. -/
def latticeAnswer (v : PkWord) (key : Option Key) (src : List Byte) (r : RunBytes) : PkAnswer :=
  let set := pkSel v key
  let kem := kemSet set
  let dsa := dsaSet set
  let y := key.getD {}
  let lens := latticeLens v set
  match v.oper with
  | 0x20 => let k := kem.keygen r.blind (r.shared.take 32) (r.shared.drop 32); .done k.1 (some (6, .priv, k.2))
  | 0x28 => let k := dsa.keygen r.blind r.shared; .done k.1 (some (7, .priv, k.2))
  | 0x21 =>
    if (List.range (256 * kem.k)).any fun i => 3329 ≤ coeff12 src i then outOfRange
    else let c := kem.encaps r.blind src r.shared; .done c.1 (some (3, .secret, c.2))
  | 0x22 =>
    let k := 384 * kem.k
    if sha3_256 (slice k (k + 32) y.material) = slice (2 * k + 32) 32 y.material then .done [] (some (3, .secret, kem.decaps r.blind y.material src))
    else outOfRange
  | 0x29 => match dsa.sign r.blind y.material src (fitBytes 32 r.shared) with
    | some (sig, n) => .signed sig n
    | none => .limit
  | _ =>
    let pk := if v.extpub then slice lens.2.2 lens.1 src else y.pubEncoding
    let text := src.drop (lens.2.2 + if v.extpub then lens.1 else 0)
    .done (verdict (dsa.verify r.blind pk text (src.take lens.2.2))) none

/-! ## Operand RAM (R170) -/

/-- A number put under an arithmetic blinding by a mask. -/
def shareOf (n v mask : Nat) : Share := { bytes := n, value := (v + mask) % 256 ^ n, mask }

/-- The number a blinding hides. -/
def Share.clear (x : Share) : Nat := (x.value + 256 ^ x.bytes - x.mask) % 256 ^ x.bytes

/-- The components of a stored key's material, in bytes (Table 7.4): the scalar and the public key, the integers of an RSA key, or the whole. -/
def keyParts (k : Key) (ln len : Nat) : List Nat :=
  match k.cls, k.ktype with
  | 4, .priv => [ln, len - ln]
  | 5, .priv => let half := (len - 4) / 4; [4, half, half, half, half]
  | _, _ => [len]

/-- Masked material converted component by component: the Boolean mask becomes the arithmetic one. -/
def blindParts (m : Masked) : List Nat → Nat → List Share
  | [], _ => []
  | n :: ns, off =>
    let mask := slice off n m.mask
    shareOf n (beNat (xorBytes (slice off n m.value) mask)) (beNat mask) :: blindParts m ns (off + n)

/-- A hand-off as it enters its unit: its key converted from value and mask to blinded components. -/
def PkOp.load (o : PkOp) : PkOp :=
  match o.key with
  | none => o
  | some k =>
    let ln := match curveOf (pkSel o.word o.key) o.entry with | some c => c.ln | none => 0
    { o with wires := {}, ram := blindParts o.wires (keyParts k (if o.word.isEc then ln else 0) o.wires.value.length) 0 }

/-- The stored key of an operation as its runs use it. -/
def PkOp.operand (o : PkOp) : Option Key := o.key.map fun k => { k with material := o.ram.flatMap fun x => beBytes x.bytes x.clear }

/-- The bytes of run `i` of an operation. -/
def PkOp.runBytes (o : PkOp) (c : Option Curve) (i : Nat) : RunBytes :=
  if o.word.oper = 0x16 then { shared := o.rand, blind := [] }
  else
    let n := pkShared o.word c
    let m := pkBlind o.word o.operand c o.source
    { shared := o.rand.take n, blind := slice (n + i * m) m o.rand }

/-- What run `i` of an operation answers (R168; R171: CURVE_REJECTED first, then OPERAND_RANGE, then POINT_INVALID). -/
def State.pkRun (s : State) (o : PkOp) (i : Nat) : PkAnswer :=
  let sel := pkSel o.word o.key
  if o.word.isEc then
    match curveOf sel o.entry with
    | none => .refused stCurveRejected (Sparse.get 0 s.pk.lastCheck sel)
    | some c =>
      let r := o.runBytes (some c) i
      if c.edwards then edAnswer o.word o.operand o.source r else weierAnswer c o.word o.operand o.source r
  else
    let r := o.runBytes none i
    if o.word.isRsa then rsaAnswer o.word o.operand o.source r else latticeAnswer o.word o.operand o.source r

/-- The compared answer of an operation's two runs; none where they differ, or a fault struck one (`twinOk` false): a twin mismatch (R168). -/
def State.pkAnswer (s : State) (o : PkOp) (twinOk : Bool) : Option PkAnswer :=
  if twinOk && s.pkRun o 0 == s.pkRun o 1 then some (s.pkRun o 0) else none

/-! ## Clusters (R157-R159, R183) -/

/-- Is an operation of arithmetic class E1 (Table 6.1)? -/
def PkOp.isE1 (o : PkOp) : Bool :=
  o.word.isEc && (match curveOf (pkSel o.word o.key) o.entry with | some c => c.fieldBits ≤ 256 | none => false)

/-- Does a unit take operations: in service, not held, no test wanted or running? -/
def State.pkOpen (s : State) (p u : Nat) : Bool :=
  let v := (s.pkUnit p u).svc
  v.inService && !v.katWanted && !v.katBusy && !(if u < 8 then s.bit (R.PK_ENG_HOLD p) u else s.get (R.PK_LU_HOLD p) == 1)

/-- The count that R94 compares, shifted up by 64: free engine positions less waiting hand-offs, or free lattice capacity. -/
def State.pkFree (s : State) (p : Nat) (lattice : Bool) : Nat :=
  if lattice then 80 - ((s.pkUnit p 8).ops.length + (s.pkQueue p true).length)
  else
    let n := ((List.range 8).map fun e =>
      let u := s.pkUnit p e
      if !s.pkOpen p e then 0
      else match u.ops with
        | [] => 2
        | [o] => if o.isE1 then 1 else 0
        | _ => 0).sum
    64 + n - (s.pkQueue p false).length

/-- May PKX select a cluster: in service and not frozen (R94, R184)? -/
def State.pkSelectable (s : State) (p : Nat) : Bool := s.bit R.GBL_PK_INSERVICE p && s.get (R.BLK_FREEZE (pgPK p)) == 0

/-- The cluster R94 chooses, other than those excluded. -/
def State.pickPk (s : State) (lattice : Bool) (except : List Nat) : Option Nat :=
  (List.range 8).foldl (fun best p =>
    if s.pkSelectable p && !except.contains p then
      match best with
      | none => some p
      | some b => if s.pkFree b lattice < s.pkFree p lattice then some p else best
    else best) none

/-- Is a cluster's queue full: 64 hand-offs, or 16 lattice operations with the one in execution? -/
def State.pkFull (s : State) (p : Nat) (lattice : Bool) : Bool :=
  if lattice then 16 ≤ (s.pkQueue p true).length + (s.pkUnit p 8).ops.length else 64 ≤ (s.pkQueue p false).length

/-- A hand-off joins a cluster's queue. -/
def State.enqueuePk (s : State) (p : Nat) (o : PkOp) : State :=
  s.setPkQueue p o.word.isLattice (s.pkQueue p o.word.isLattice ++ [o])

/-- The DETAIL that names a unit (R168). -/
def pkDetail (p u : Nat) : Nat := if u < 8 then 0x40 + 8 * p + u else 0xA0 + p

/-! ## Hand-off (R77, R94, R159, R162) -/

/-- The source bytes of a PKX: registers from A, or S[B] bytes at IP, gathered as they arrive (R64, R77). -/
def State.pkSource (s : State) (k : Nat) (x : Context) (w : Insn) (use : List Byte → Context → Result) : Result :=
  if modBit w 0 then s.gather k x (x.sr w.b) use else use (x.vRange w.a (immBits w 16 4 + 1)) x

/-- The source an operation takes of the bytes given: of a register source, which is whole registers, the longest length the operation
requires (DEDUCED); none where it requires another length. -/
def pkTake (v : PkWord) (key : Option Key) (c : Option Curve) (stream : Bool) (src : List Byte) : Option (List Byte) :=
  let cand := if stream then [src.length] else (List.range 16).map (src.length - ·)
  if !stream && (v.isKeygen && v.oper != 0x16) then some []
  else (cand.find? (pkLenOk v key c src)).map src.take

/-- The checks of Table 6.4 in order, of an operation with its key, curve and the source bytes given: the DETAIL of the first that fails, or the source.
Where a reserved encoding names no length, only 0xE003 can be judged. -/
def pkCheck (v : PkWord) (key : Option Key) (crv : Option Curve) (w : Insn) (bytes : List Byte) : Except Nat (List Byte) :=
  if !v.lengthsKnown then .error 0xE003
  else match pkTake v key crv (modBit w 0) bytes with
    | none => .error 0xE001
    | some src =>
      if ¬ modBit w 1 ∧ 16 * (immBits w 20 4 + 1) < pkResultLen v key crv src then .error 0xE002
      else if !v.encodingOk then .error 0xE003
      else if rsaMalformed v src then .error 0xE004
      else .ok src

/-- The cluster a hand-off goes to, or why there is none: `some det` where none is in service, the DETAIL of the unit that left last (R183). -/
def State.handTo (s : State) (lattice : Bool) (except : List Nat) : Except (Option Nat) Nat :=
  match s.pickPk lattice except with
  | some p => .ok p
  | none => .error (if (List.range 8).any fun p => s.bit R.GBL_PK_INSERVICE p then none else s.pk.lastOut)

/-- PKX (R77): the key and the checks in order, the random bytes drawn, and the hand-off to the cluster R94 chooses. The context then waits. -/
def State.pkx (s : State) (c : Ctx) (oper : Nat) (w : Insn) : Result :=
  if immBits w 0 6 ≠ oper then .next s
  else if pkxReserved w then .refused .reservedEncoding
  else s.issue c 0x9 0x0 w fun x0 =>
    let k := ctxKey c
    let v := x0.pkWord w
    s.pkSource k x0 w fun bytes x =>
      let go := fun (key : Option Key) (wires : Masked) =>
        let sel := pkSel v key
        let entry := s.curveEntry sel
        let crv := if v.isEc then curveOf sel entry else none
        match pkCheck v key crv w bytes with
        | .error det => Host.Outcome.next (s.failAt k 2 stFormatError det)
        | .ok src =>
          match s.handTo v.isLattice [] with
          | .error none => .next s
          | .error (some det) => .next (s.failAt k 2 stFaultDetected det)
          | .ok p =>
            let b := pkRandom v key crv src
            if s.pkFull p v.isLattice then .next s
            else if s.queueFill c.cc < b then .next (s.updCtx k fun y => { y with wait := .random, since := s.quartz })
            else
              let r := s.takeQueue c.cc b
              let o : PkOp := { owner := some k, part := x.part, word := v, key := key.map fun y => { y with material := [] }, wires, source := src,
                                rand := r.1, entry, crvCommits := s.pk.crvCommits }
              .next (((r.2.count (R.SEQ_ISSUE_CNT c.cc) 2).setCtx k { x with wait := .pkx }).enqueuePk p o)
      if v.usesKey then
        s.withSlot k 2 x w.ka fun y => if s.pkFits v y.key then go (some y.key) (s.wires c.cc y) else .next (s.failAt k 2 stKeyUsageDenied y.field)
      else go none {}

def execEcKeygen (c : Ctx) (w : Insn) (s : State) : Result := s.pkx c 0x01 w
def execEcdsaSign (c : Ctx) (w : Insn) (s : State) : Result := s.pkx c 0x02 w
def execEcdsaVerify (c : Ctx) (w : Insn) (s : State) : Result := s.pkx c 0x03 w
def execEcdh (c : Ctx) (w : Insn) (s : State) : Result := s.pkx c 0x04 w
def execEddsaSign (c : Ctx) (w : Insn) (s : State) : Result := s.pkx c 0x05 w
def execEddsaVerify (c : Ctx) (w : Insn) (s : State) : Result := s.pkx c 0x06 w
def execRsaSignPss (c : Ctx) (w : Insn) (s : State) : Result := s.pkx c 0x10 w
def execRsaSignV15 (c : Ctx) (w : Insn) (s : State) : Result := s.pkx c 0x11 w
def execRsaVerifyPss (c : Ctx) (w : Insn) (s : State) : Result := s.pkx c 0x12 w
def execRsaVerifyV15 (c : Ctx) (w : Insn) (s : State) : Result := s.pkx c 0x13 w
def execRsaOaepDecrypt (c : Ctx) (w : Insn) (s : State) : Result := s.pkx c 0x14 w
def execRsaOaepEncrypt (c : Ctx) (w : Insn) (s : State) : Result := s.pkx c 0x15 w
def execRsaKeygen (c : Ctx) (w : Insn) (s : State) : Result := s.pkx c 0x16 w
def execMlkemKeygen (c : Ctx) (w : Insn) (s : State) : Result := s.pkx c 0x20 w
def execMlkemEncaps (c : Ctx) (w : Insn) (s : State) : Result := s.pkx c 0x21 w
def execMlkemDecaps (c : Ctx) (w : Insn) (s : State) : Result := s.pkx c 0x22 w
def execMldsaKeygen (c : Ctx) (w : Insn) (s : State) : Result := s.pkx c 0x28 w
def execMldsaSign (c : Ctx) (w : Insn) (s : State) : Result := s.pkx c 0x29 w
def execMldsaVerify (c : Ctx) (w : Insn) (s : State) : Result := s.pkx c 0x2A w

/-! ## ATTEST (R215, R216) -/

/-- Bytes 0-151 of the attestation statement (Table 7.12). -/
def State.statement (s : State) (x : Context) (line : Nat) (k : Key) (nonce : List Byte) : List Byte :=
  let l := s.line line
  let header := match l.record with | some r => recordHeader l.gen l.live r | none => zeros 48
  [0x4B, 0x4C, 0x41, 0x54, 1] ++ leBytes 1 s.lcState ++ leBytes 2 3557 ++ leBytes 8 Config.serial.toNat ++ leBytes 2 x.part ++
    zeros 2 ++ leBytes 4 (lineHandle line) ++ fitBytes 48 header ++ fitBytes 32 k.pubFp ++
    leBytes 8 (if s.enrolled then s.domainTime else s.quartz) ++ fitBytes 32 nonce ++ leBytes 4 s.bt.fwVersion ++ zeros 4

/-- ATTEST: the statement of a generated, non-exportable stored key, its two signatures handed to two clusters at once. -/
def execAttest (c : Ctx) (w : Insn) (s : State) : Result :=
  s.issue c 0x2 0x9 w fun x =>
    let k := ctxKey c
    s.withSlot k 4 x w.ka fun y =>
      match y.line with
      | none => .next (s.failAt k 4 stKeyUsageDenied y.field)
      | some line =>
        if y.key.origin ≠ 0 ∨ y.key.exportable ∨ s.lcState = 6 then .next (s.failAt k 4 stKeyUsageDenied y.field)
        else match s.handTo false [] with
          | .error none => .next s
          | .error (some det) => .next (s.failAt k 4 stFaultDetected det)
          | .ok p =>
            let q := (s.pickPk true [p]).getD p
            if s.pkFull p false ∨ s.pkFull q true then .next s
            else if s.queueFill c.cc < 256 then .next (s.setCtx k { x with wait := .random, since := s.quartz })
            else
              let r := s.takeQueue c.cc 256
              let source := s.statement x line y.key (x.vRange w.a 2)
              let ec : PkOp := { owner := some k, part := x.part, word := { oper := 0x02 }, source, rand := r.1.take 192, attest := 1,
                                 key := some { ktype := .priv, cls := 4, sel := 1 }, crvCommits := s.pk.crvCommits }
              let pq : PkOp := { owner := some k, part := x.part, word := { oper := 0x29 }, source, rand := r.1.drop 192, attest := 2,
                                 key := some { ktype := .priv, cls := 7, sel := 1 }, crvCommits := s.pk.crvCommits }
              .next ((((r.2.count (R.SEQ_ISSUE_CNT c.cc) 4).setCtx k { x with wait := .pkx, sigs := [] }).enqueuePk p ec).enqueuePk q pq)

/-- The ML-DSA-65 device attestation key of a generation: its public and its private key (R215). -/
def deviceDsa (gen : Nat) : List Byte × List Byte := (dsaSet 1).keygen [] (fitBytes 32 (Config.deviceSeed gen))

/-- A hand-off as it enters its unit: a PKX with its key converted (R170); an ATTEST signature as the operation it is, the digest or the message of the
statement with an empty context, under the device attestation key. -/
def PkOp.enter (o : PkOp) (gen : Nat) : PkOp :=
  if o.attest = 1 then
    { o with source := sha384 o.source, key := some { ktype := .priv, cls := 4, sel := 1 },
             ram := [shareOf 48 (Config.deviceScalar gen) (beNat (o.rand.take 48))] }
  else if o.attest = 2 then
    { o with source := 0 :: o.source, key := some { ktype := .priv, cls := 7, sel := 1 },
             ram := [shareOf 4032 (beNat (deviceDsa gen).2) (beNat (o.rand.take 32))] }
  else o.load

/-! ## Queue to unit, completion, abort (R159, R165, R168, R182) -/

/-- The engine an operation goes to: an E1 operation to the lowest engine that holds one E1 operation, else the lowest idle one. -/
def State.pkEngine (s : State) (p : Nat) (o : PkOp) : Option Nat :=
  let half := (List.range 8).find? fun e =>
    s.pkOpen p e && (match (s.pkUnit p e).ops with | [a] => o.isE1 && a.isE1 | _ => false)
  match half with
  | some e => some e
  | none => (List.range 8).find? fun e => s.pkOpen p e && (s.pkUnit p e).ops.isEmpty

/-- The unit of a cluster that is free for an operation: the lattice unit, or an engine. -/
def State.pkUnitFor (s : State) (p : Nat) (o : PkOp) : Option Nat :=
  if o.word.isLattice then (if s.pkOpen p 8 ∧ (s.pkUnit p 8).ops.isEmpty then some 8 else none) else s.pkEngine p o

/-- PK_HANDOFF: the oldest hand-off of a queue crosses into its island, which it ungates (R19), and enters a unit that is free for it, once no relock pauses
the island; in a cluster out of service it moves to the cluster R94 chooses, when
one takes it (R183). -/
def execPkHandoff (p : Fin 8) (lattice : Bool) (s : State) : Result :=
  match (if s.relocks (16 + p) then [] else s.pkQueue p lattice) with
  | [] => .next s
  | o :: os =>
    let s := s.cross (16 + p)
    if s.bit R.GBL_PK_INSERVICE p then
      match s.pkUnitFor p o with
      | none => .next s
      | some u => .next ((s.setPkQueue p lattice os).updPk p u fun x => { x with ops := x.ops ++ [o.enter s.lc.devKeys] })
    else
      match s.pickPk lattice [p.val] with
      | some q => .next (if s.pkFull q lattice then s else ((s.setPkQueue p lattice os).enqueuePk q o).settlePkFreeze p)
      | none => .next s

/-- A twin mismatch in a unit: its counters, the last-fault record, INT_RAW bit 0 (R168). -/
def State.pkFault (s : State) (p u : Nat) (kat : Bool) : State :=
  let s :=
    if u < 8 then
      let f := if u < 4 then R.PK_FAULT_ENG_LO p else R.PK_FAULT_ENG_HI p
      let v := s.get f
      let lsb := 8 * (u % 4)
      if bitsOf v lsb 8 < 255 then s.set f (v + 2 ^ lsb) else s
    else s.countSat (R.PK_FAULT_LU p)
  let s := (s.set (R.PK_LAST_FAULT_UNIT p) u).set (R.PK_LAST_FAULT_KAT p) (b2n kat)
  (s.raise (pgPK p) 0).mismatch

/-- The result of an operation returned to its context: a secret to KD (R163), the result to the IMM[23:20] + 1 registers from D, zeros after its last byte,
or to the output (R77). An operation without a result writes no register (DEDUCED, log 190). -/
def State.pkReturn (s : State) (k : Nat) (o : PkOp) (result : List Byte) (secret : Option (Nat × KType × List Byte)) : Result :=
  let x := { s.ctx k with wait := .none }
  let w := (x.here.map (·.w)).getD {}
  let toOut := modBit w 1
  let x' := if toOut then { x with op := (x.op + result.length) % 2 ^ 24 }
    else if result.isEmpty then x else x.setVRange w.d (immBits w 20 4 + 1) result
  let put := fun (s : State) => if toOut then s.inOrder k { output := [(x.op, result)], pc := x.pc, num := x.retired } else s
  match secret with
  | none => .next (put (s.retire k 0 x'))
  | some (cls, type, m) =>
    let keygen := o.word.isKeygen
    let parent := if o.word.usesKey then x.slot w.ka else none
    let inherited := match parent with
      | some y => bitsOf y.key.attr 7 7
      | none => b2n (x.part == 0) + 2 * 63
    let attr := 2 * (if keygen then 0 else 2) + 2 ^ 5 + 2 ^ 7 * inherited
    let usage := if keygen then x.sr w.b % 2 ^ 14 else 2 ^ 8
    let sel := if cls = 3 ∨ cls = 5 then 0 else pkSel o.word o.key
    let key : Key := { ktype := type, cls, sel, level := 6, usage, attr, epoch := (parent.map (·.key.epoch)).getD 0, material := m }
    let key := { key with kcv := key.checkValue }
    match s.placeEphemeral k 0 x w.kd { key, mask := usage, field := (parent.map (·.field)).getD 3, stamp := (parent.map (·.stamp)).getD [] } x' with
    | .next t => .next (put t)
    | .fault f => .fault f
    | .refused r => .refused r

/-- An ATTEST signature returned: with both there, the statement goes out at OP. -/
def State.attestReturn (s : State) (k : Nat) (o : PkOp) (sig : List Byte) : Result :=
  let x := s.ctx k
  let sigs := x.sigs ++ [(o.attest, sig)]
  match sigs.find? (·.1 == 1), sigs.find? (·.1 == 2) with
  | some a, some b =>
    let out := o.source ++ fitBytes 96 a.2 ++ fitBytes 3309 b.2
    let s := s.retire k 0 { x with wait := .none, sigs := [], op := (x.op + out.length) % 2 ^ 24 }
    .next (s.inOrder k { output := [(x.op, out)], pc := x.pc, num := x.retired })
  | _, _ => .next (s.setCtx k { x with sigs })

/-- May a secret return to its context: its slot KD emptied, the quota is full, which ends the command, or the slice has room (R163, R209)? -/
def State.secretRoom (s : State) (k : Nat) (secret : Option (Nat × KType × List Byte)) : Bool :=
  match secret with
  | none => true
  | some y =>
    let x := s.ctx k
    let need := keyEntries y.2.2.length
    let s := s.setCtx k (x.setSlot ((x.here.map fun i : Code => i.w).getD {}).kd none)
    (s.part x.part).ephQuota < s.ephUsed x.part + need || (s.makeRoom (clusterOf k) x.part need [] 4096).isSome

/-- The random bytes an operation in its unit has yet to draw: those of a restart (R166), and the 64-byte blocks RSA_KEYGEN asks for as it runs (R161). -/
def PkOp.short (o : PkOp) (iters : Nat) : Nat :=
  if o.word.oper = 0x16 then 64 * iters - o.rand.length
  else
    let crv := if o.word.isEc then curveOf (pkSel o.word o.key) o.entry else none
    pkRandom o.word o.operand crv o.source - o.rand.length

/-- An operation takes the bytes it is short of from its cluster's queue: whole 64-byte blocks as they come for RSA_KEYGEN, else all at once. While they do
not suffice it waits (R78, R230). -/
def State.feedPk (s : State) (p u slot : Nat) (o : PkOp) (n need : Nat) : PkOp × State :=
  let there := s.queueFill n
  let take := if need ≤ there then need else if o.word.oper = 0x16 then there / 64 * 64 else 0
  let r := s.takeQueue n take
  let o := { o with rand := o.rand ++ r.1, starved := if need ≤ there then none else some (o.starved.getD s.quartz) }
  (o, r.2.updPk p u fun x => { x with ops := x.ops.set slot o })

/-- PK_OP_COMPLETE (R165, R168, R171): operation `slot` of a unit ends its occupancy. Its two runs are compared: a mismatch ends the command
with FAULT_DETECTED and starts the unit's test; else the result or refusal returns. A secret without room in the slice keeps the operation waiting with its
result; nothing ends while its island, or the one the result crosses into, relocks (R19, R184). `iters` is the number of 64-byte random blocks an RSA_KEYGEN requested. -/
def execPkOpComplete (p : Fin 8) (unit : Fin 9) (slot : Fin 2) (twinOk : Bool) (iters : Nat) (s : State) : Result :=
  let u := unit.val
  match (if s.relocks (16 + p) then none else (s.pkUnit p u).ops[slot.val]?) with
  | none => .next s
  | some o =>
    match o.owner.filter fun k => !s.relocks (clusterOf k) with
    | none => .next s
    | some k =>
      let (o, s) := s.feedPk p u slot o (clusterOf k) (o.short iters)
      if o.starved.isSome then .next s
      else
        let gone := (s.updPk p u fun x => { x with ops := x.ops.eraseIdx slot }).settlePk p
        let done := gone.count (if u < 8 then R.PK_ENG_OPS p u else R.PK_LU_OPS p)
        let iterated := fun (s : State) n => (s.set (R.PK_ITER_LAST p) n).keepMax (R.PK_ITER_MAX p) n
        let give := fun (s : State) r => if o.attest = 0 then s.pkReturn k o r none else s.attestReturn k o r
        match s.pkAnswer o twinOk with
        | none =>
          let s := (gone.pkFault p u false).countSat (R.PK_ABORT_CNT p)
          let s := s.updPk p u fun x => { x with svc := { x.svc with katBusy := true } }
          .next (s.endCommand k stFaultDetected (pkDetail p u))
        | some .limit => .next (((iterated gone 1000).raise (pgPK p) 6).endCommand k stFaultDetected (pkDetail p u))
        | some .again => .next (s.updPk p u fun x => { x with ops := x.ops.set slot { o with rand := [] } })
        | some (.refused st det) => .next ((done.count (R.PK_REFUSED_CNT p)).failAt k 0 st det)
        | some (.signed sig n) => give (iterated done n) sig
        | some (.done result secret) =>
          if !done.secretRoom k secret then .next s
          else if o.attest = 0 then done.pkReturn k o result secret else done.attestReturn k o result

/-- PK_OP_ABORT (R182): an operation whose command has ended stops, and its RAM is zeroed. -/
def execPkOpAbort (p : Fin 8) (unit : Fin 9) (slot : Fin 2) (s : State) : Result :=
  match (s.pkUnit p unit).ops[slot.val]? with
  | none => .next s
  | some o =>
    if o.owner.isSome then .next s
    else .next (((s.updPk p unit fun x => { x with ops := x.ops.eraseIdx slot }).countSat (R.PK_ABORT_CNT p)).settlePk p)

/-! ## Tests, freeze and reset (R183, R184) -/

/-- The queued hand-offs of a cluster that left service (R183): in order, each moves to the cluster R94 chooses where one takes it, and otherwise stays until
one does; with no cluster in service, the hand-offs of every queue end with FAULT_DETECTED. -/
def State.movePk (s : State) (p : Nat) : State :=
  if (List.range 8).any fun q => s.bit R.GBL_PK_INSERVICE q then
    ([false, true].foldl (fun s lattice =>
      (s.pkQueue p lattice).foldl (fun s o =>
        match s.pickPk lattice [p] with
        | some q => if s.pkFull q lattice then s else (s.setPkQueue p lattice ((s.pkQueue p lattice).erase o)).enqueuePk q o
        | none => s) s) s).settlePkFreeze p
  else
    let owners := (s.pk.queues.flatMap (·.2)).filterMap (·.owner)
    (owners.foldl (fun s k => s.endCommand k stFaultDetected (s.pk.lastOut.getD 0)) s).settleCurve

/-- PK_KAT_COMPLETE (R183): a test of an engine or lattice unit ends. A pass returns the unit to service; a failure removes it, and with the
lattice unit or the last engine the cluster, one that FREEZE has drained among them. -/
def execPkKatComplete (p : Fin 8) (unit : Fin 9) (pass twinOk : Bool) (s : State) : Result :=
  let u := unit.val
  let v := (s.pkUnit p u).svc
  if ¬(v.katBusy ∨ v.katWanted) ∨ ¬ (s.pkUnit p u).ops.isEmpty ∨ s.relocks (16 + p) then .next s
  else
    let s := if twinOk then s else s.pkFault p u true
    let s := if v.katWanted then s.raise (pgPK p) 3 else s
    let ok := pass && twinOk
    let was := s.pkUnitsUp p
    let s := s.updPk p u fun x => { x with svc := { x.svc with katWanted := false, katBusy := false, katFail := !ok, passed := ok } }
    let s := s.settlePkUnit p u
    if ok then .next s
    else
      let s : State := { ((s.raise (pgPK p) 1).severity 3) with pk.lastOut := some (pkDetail p u) }
      if was ∧ ¬ s.pkUnitsUp p then .next ((s.raise (pgPK p) 2).movePk p) else .next s

/-- A test requested of the units of a mask. -/
def State.wantPkKat (s : State) (p u : Nat) : State := s.updPk p u fun x => { x with svc := { x.svc with katWanted := true } }

/-- KAT_GO_ENG: the tests of the named engines are requested. -/
def execKatGoEng (p : Fin 8) (engines : BitVec 8) (s : State) : Result :=
  if !s.responds (pgPK p) then .next s else
  s.crossing (pgPK p) (.katGoEng p engines) fun s => (List.range 8).foldl (fun s e => if engines.getLsbD e then s.wantPkKat p e else s) s

/-- KAT_GO_LU: the test of the lattice unit is requested. -/
def execKatGoLu (p : Fin 8) (s : State) : Result :=
  if !s.responds (pgPK p) then .next s else
  s.crossing (pgPK p) (.katGoLu p) fun s => s.wantPkKat p 8

/-- PK_FREEZE: BLK_CTRL.FREEZE of a PK page written. -/
def execPkFreeze (p : Fin 8) (on : Bool) (s : State) : Result :=
  if !s.responds (pgPK p) then .next s else
  s.crossing (pgPK p) (.pkFreeze p on) fun s => (s.set (R.BLK_FREEZE (pgPK p)) (b2n on)).settlePkFreeze p

/-- The units of a public-key cluster as a reset leaves them: zeroed, their tests running. -/
def State.resetPkUnits (s : State) (p : Nat) : State :=
  ((List.range 9).foldl (fun s u => s.updPk p u fun _ => { svc := { katBusy := true } }) s).settlePkCluster p

/-- PK_RESET (R184): acts only in the drained state under FREEZE, and reruns the tests; ignored otherwise, and then a request through RST
PK_RESET sets RST INT_RAW bit 3; a cluster that is powered off is not reset (R20). The request crosses into the cluster's island (R18, R19). -/
def execPkReset (p : Fin 8) (viaRst : Bool) (s : State) : Result :=
  if !s.responds (if viaRst then pgRST else pgPK p) then .next s else
  if !s.islandOn (pgPK p) then .next (s.resetIgnored viaRst)
  else s.crossing (pgPK p) (.pkReset p viaRst) fun s =>
    if s.get (R.BLK_FREEZE (pgPK p)) = 1 ∧ s.pkDrained p then (s.resetPkUnits p).raise pgRST 2 else s.resetIgnored viaRst

end Sys2Proof.Machine
end

