-- ==== Sys2Proof/Machine/Images.lean ====
section
/-! DEFINITION. What the staging programs check before the gate takes an object: program images (R83), format and derivation entries (Table 4.13), curve entries (Table 6.12). -/
namespace Sys2Proof.Machine

/-! ## Instruction words (R66-R79, R83) -/

/-- What an operation uses a register field for: nothing, an S register, or `n` V registers from it upward. -/
inductive FieldUse
  | no
  | s
  | v (n : Nat)
deriving DecidableEq, Repr

/-- May a register field hold `x` (R66, R83)? -/
def FieldUse.ok : FieldUse → Nat → Bool
  | .no, x => x == 0
  | .s, x => x ≤ 7
  | .v n, x => x + n ≤ 16

/-- Are the fields of an instruction within what its operation uses: D, A and B, KA and KD, the bits of MOD and of IMM? -/
def fieldsOk (w : Insn) (d a b : FieldUse) (ka kd : Bool) (modMask immMask : Nat) : Bool :=
  d.ok w.d && a.ok w.a && b.ok w.b && (ka || w.ka == 0) && (kd || w.kd == 0) &&
  w.modi.toNat &&& (0xFF - modMask) == 0 && w.imm.toNat &&& (0xFFFFFFFF - immMask) == 0

/-- The offset register of a LOAD or STORE: a field in use only while MOD[4] is 1 (R68). -/
def offsetUse (w : Insn) : FieldUse := if modBit w 4 then .s else .no

/-- A HASH word, and the fields its function uses (R73, R152). -/
def hashOk (op : Nat) (w : Insn) : Bool :=
  match hashWord (immBits w 0 16) with
  | none => false
  | some h =>
    fieldsOk w (.v ((h.outLen + 15) / 16)) (if op = 0 then .s else .v ((immBits w 16 8 + 16) / 16)) (if h.func < 11 then .no else .v 1)
      h.keyed false 0 (if op = 0 then 0xFFFF else 0xFFFFFF)

/-- A PKX word: KA and KD are free, and a register field is in use only in its register form (R77, R160, R163). -/
def pkxOk (w : Insn) : Bool :=
  let keygen := ({ oper := immBits w 0 6 } : PkWord).isKeygen
  !pkxReserved w && (modBit w 2 || modBits w 4 3 == 0) &&
  fieldsOk w (if modBit w 1 then .no else .v (immBits w 20 4 + 1)) (if modBit w 0 then .no else .v (immBits w 16 4 + 1))
    (if modBit w 0 || keygen then .s else .no) true true 0x77
    ((if modBit w 0 then 0 else 0xF0000) + (if modBit w 1 then 0 else 0xF00000) + 0x3FFF)

/-- May an integrator image of `nconst` constants and `n` instructions hold this instruction (R83)? KEY operations from 0x3 on may not stand in
one (R203). DESIGN CHOICE (log 194): selectors 8-15 of LDDESC, which Table 3.4 does not define, are refused here. DEDUCED (log 184): FMT CHECK, for which
Table 3.5 lists no B operand, has B = 0. -/
def codeOk (nconst n : Nat) (c : Code) : Bool :=
  let w := c.w
  let v1 := FieldUse.v 1
  let lane := laneWord (immBits w 0 16)
  match c.cls, c.op with
  | 0x0, 0x0 => fieldsOk w v1 .no (offsetUse w) false false 0x10 0xFFFF
  | 0x0, 0x1 => fieldsOk w .s .no (offsetUse w) false false 0x30 0x3FFF
  | 0x0, 0x2 => fieldsOk w (if immBits w 0 4 = 7 then v1 else .s) .no .no false false 0 0x7
  | 0x0, 0x3 => fieldsOk w v1 .no .no false false 0 0xF && immBits w 0 4 < nconst
  | 0x0, 0x4 => fieldsOk w .s .no .no false false 0 0xFFFFFFFF
  | 0x0, 0x5 => fieldsOk w .s .s .no false false 0 0xFFFFFFFF
  | 0x0, 0x6 => fieldsOk w v1 v1 .no false false 0 0xFFF
  | 0x0, 0x7 | 0x0, 0x8 => fieldsOk w v1 v1 v1 false false 0 0
  | 0x0, 0x9 => fieldsOk w v1 .no .no false false 0 0
  | 0x0, 0xA => fieldsOk w .no (offsetUse w) .no false false 0x10 0xFFFFFF
  | 0x0, 0xB => fieldsOk w v1 .s .no false false 0x20 0xF
  | 0x1, 0x0 => fieldsOk w .no v1 .no false false 0 0xFF
  | 0x1, 0x1 => fieldsOk w .no v1 (offsetUse w) false false 0x1F 0xFFFFFF
  | 0x2, 0x0 => fieldsOk w .no .no .no false true 0x0F 0x3FFF0003 && immBits w 0 2 ≠ 3 && modBits w 0 4 ≤ 7
  | 0x2, 0x1 => fieldsOk w .no .no .no false true 0 0
  | 0x2, 0x2 => fieldsOk w v1 .no .no true false 0 0
  | 0x3, 0x0 => fieldsOk w v1 v1 (if modBit w 0 then v1 else .no) true false 0x01 0xFFFF && lane.valid true false false
  | 0x3, 0x1 => fieldsOk w v1 .s v1 true false 0x06 0xFFFF && lane.valid false (modBit w 1) (modBit w 2)
  | 0x4, 0x0 | 0x4, 0x1 => hashOk c.op w
  | 0x5, 0x0 => fieldsOk w .no v1 .no false false 0x01 0x073F
  | 0x5, 0x1 => fieldsOk w v1 v1 v1 false false 0x01 0x773F
  | 0x5, 0x2 => fieldsOk w v1 v1 v1 false false 0x01 0x703F
  | 0x5, 0x3 => fieldsOk w v1 v1 .no false false 0x01 0x773F
  | 0x5, 0x4 => fieldsOk w v1 v1 v1 false false 0x01 0x773F
  | 0x5, 0x5 => fieldsOk w v1 v1 .no false false 0x01 0x703F
  | 0x6, 0x0 => fieldsOk w .no v1 v1 true true 0 0x7F
  | 0x6, 0x1 => fieldsOk w v1 v1 v1 true false 0 0x7F
  | 0x7, 0x0 => fieldsOk w .no v1 v1 false false 0 0xF
  | 0x7, 0x1 => fieldsOk w .no .s .s false false 0 0
  | 0x7, 0x2 => fieldsOk w .no .s .no false false 0 0xFFFFFFFF
  | 0x8, 0x7 => fieldsOk w .no .s .no false false 0 0xFF && immBits w 0 8 < n
  | 0x8, op => op < 7 && fieldsOk w .no .no .no false false 0 0xFF && immBits w 0 8 < n
  | 0x9, 0x0 => pkxOk w
  | 0xA, 0x0 => fieldsOk w v1 .no .no false false 0 0x1F
  | 0xB, 0x0 => fieldsOk w .no .no .no false false 0 0xFFFF1FFF && doneAllowed w.imm.toNat
  | _, _ => false

/-! ## Program images (Table 3.8, R83, R87) -/

/-- The length an image declares (R125). -/
def imageLength (bs : List Byte) : Nat := 256 + 8 * (byteAt bs 1 + 1)

/-- The instructions of an image. -/
def imageCode (bs : List Byte) : List Code := (List.range (byteAt bs 1 + 1)).map fun i => decodeCode (numAt bs (256 + 8 * i) 8)

/-- May an image end with this instruction: a DONE or a BR 0x0 (R83)? -/
def endsImage (c : Code) : Bool := c.cls == 0xB || (c.cls == 0x8 && c.op == 0)

/-- Does an instruction hand work to the public-key clusters (R87)? -/
def handsOff (c : Code) : Bool := c.cls == 0x9 || (c.cls == 0x2 && c.op == 0x9)

/-- The integrator image of its bytes, or none where a check of R83 refuses it for `slot`. -/
def readImage (slot : Nat) (bs : List Byte) : Option Image :=
  let code := imageCode bs
  let nconst := byteAt bs 2
  if bs.length = imageLength bs ∧ slice 16 32 bs = sha3_256 (bs.drop 64) ∧ numAt bs 4 2 = slot ∧ byteAt bs 0 = 1 ∧ nconst ≤ 12 ∧
      byteAt bs 3 < 32 ∧ numAt bs 8 8 = 0 ∧ numAt bs 48 16 = 0 ∧ code.all (codeOk nconst code.length) ∧
      (code.getLast?.map endsImage) = some true then
    some { modes := byteAt bs 3, pver := numAt bs 6 2, consts := (List.range nconst).map fun j => slice (64 + 16 * j) 16 bs,
           lenM1 := byteAt bs 1, code, usesPkx := code.any handsOff }
  else none

/-! ## Format entries (Table 4.13, checks 1 to 7) -/

/-- Are the bytes from `off` on, `n` of them, zero? -/
def zeroAt (bs : List Byte) (off n : Nat) : Bool := numAt bs off n == 0

/-- Reserved fields of a format entry that are not zero (check 2). -/
def fmtReserved (bs : List Byte) : Bool :=
  !(zeroAt bs 15 1 && zeroAt bs 26 38 &&
    match byteAt bs 1 with
    | 0 => zeroAt bs 2 24
    | 1 => zeroAt bs 16 10 && byteAt bs 2 < 2 && byteAt bs 3 < 16 && bitsOf (byteAt bs 9) 2 2 == 0 && byteAt bs 12 < 8 &&
        (byteAt bs 12 != 0 || zeroAt bs 13 2)
    | _ => zeroAt bs 2 13)

/-- The positions of a PIN block overlap or pass their bounds (check 3). -/
def fmtPositions (e : FmtEntry) : Bool :=
  let used := [e.ctrlPos, e.lenPos].filter (· ≠ 0xFF)
  (e.ctrlPos == e.lenPos && e.ctrlPos != 0xFF) ||
  used.any (fun p => (e.pinPos ≤ p && p < e.pinPos + e.pinMax) || e.fieldEnd ≤ p) || e.fieldEnd < e.pinPos + e.pinMax ||
  (if e.wide then e.fieldEnd > (if e.randPos = 0xFF then 32 else e.randPos) || (31 < e.randPos && e.randPos != 0xFF)
   else 16 < e.fieldEnd || e.randPos != 0xFF)

/-- The first check of Table 4.13 that a format entry fails, if any. -/
def fmtCheck (bs : List Byte) : Option Nat :=
  let e := readFmt bs
  if byteAt bs 0 ≠ 1 ∨ 2 < e.kind then some 1
  else if fmtReserved bs then some 2
  else if e.kind = 0 then none
  else if e.kind = 2 then (if e.decTable.any (9 < ·) ∨ 1 < e.decRule ∨ 16 < e.decDigits then some 7 else none)
  else if fmtPositions e then some 3
  else if e.pinMin < 4 ∨ e.pinMax < e.pinMin ∨ 12 < e.pinMax then some 4
  else if e.fillRule = 3 ∨ (e.lenPos = 0xFF ∧ (e.fillRule ≠ 0 ∨ e.fillNib ≤ 9)) then some 5
  else if 4 ≤ e.panRule ∨ (e.panRule = 2 ∧ ¬ e.wide) ∨ (e.folds ∧ e.wide) ∨
      (e.panRule ≠ 0 ∧ ¬ (12 ≤ e.panMin ∧ e.panMin ≤ e.panMax ∧ e.panMax ≤ 19)) then some 6
  else none

/-! ## Derivation entries (Table 4.13, checks 1, 2 and 8 to 11) -/

/-- Reserved fields of a derivation entry that are not zero (check 2). -/
def derReserved (bs : List Byte) : Bool :=
  let kind := byteAt bs 1
  let nib := min (byteAt bs 5) 64
  let fl := byteAt bs 7
  if kind = 0 then !zeroAt bs 2 126
  else !(zeroAt bs 10 6 && zeroAt bs 80 48 && zeroAt bs (16 + nib) (64 - nib) && fl < 16 && byteAt bs 9 < 64 &&
    (!bitOf fl 1 || kind == 5) && (!bitOf fl 2 || kind == 3) && (!bitOf fl 3 || kind == 1))

/-- Does a class allow an output of this length (Table 7.4, single keys)? -/
def outLenOk (cls n : Nat) : Bool :=
  match cls with
  | 0 => 1 ≤ n && n ≤ 16
  | 1 => n == 16 || n == 24
  | 2 => n == 16 || n == 24 || n == 32
  | _ => 16 ≤ n && n ≤ 66

/-- May a KIND take this parent and give this output (check 8)? -/
def derClasses (e : DerEntry) : Bool :=
  let cipher := e.parentClass == 1 || e.parentClass == 2
  let symmetric := 1 ≤ e.outClass && e.outClass ≤ 3
  outLenOk e.outClass e.outLen &&
  match e.kind with
  | 1 | 2 => cipher && symmetric
  | 3 => e.parentClass == 3 && symmetric
  | 4 | 5 => e.parentClass == 1 && e.outClass == 1 && e.outLen == 16
  | 6 => cipher && e.outClass == e.parentClass && e.outLen == 16
  | _ => cipher && e.outClass == 0

/-- Do NIB and NBLK keep to the KIND's row of Table 4.5 (check 9)? -/
def derSlices (kind parentClass nib nblk : Nat) : Bool :=
  nib ≤ 64 &&
  match kind with
  | 1 | 7 => 1 ≤ nblk && nblk ≤ 4 && nib == nblk * (if parentClass = 1 then 16 else 32)
  | 2 | 3 => 1 ≤ nblk && nblk ≤ 4 && nib % nblk == 0 && 2 ≤ nib / nblk
  | 4 => nblk == 0 && nib == 16
  | 5 => nblk == 0 && nib == 0
  | _ => nblk == 0 && nib == 32

/-- Is a selector allowed (check 10)? -/
def selectorOk (kind v : Nat) : Bool :=
  if v / 64 = 0 then bitsOf v 4 2 == 0 else !bitOf v 5 && kind != 6

/-- The first check of Table 4.13 that a derivation entry fails, if any. -/
def derCheck (bs : List Byte) : Option Nat :=
  let e := readDer bs
  if byteAt bs 0 ≠ 1 ∨ 7 < e.kind then some 1
  else if derReserved bs then some 2
  else if e.kind = 0 then none
  else if !derClasses e then some 8
  else if !derSlices e.kind e.parentClass (byteAt bs 5) e.nblk then some 9
  else if !e.template.all (selectorOk e.kind) then some 10
  else if e.kind ≠ 7 ∧ e.usage = 0 then some 11
  else none

/-! ## Curve entries (Table 6.12) -/

/-- `n` numbers of 72 bytes each, taken from random bytes. -/
def randomNumbers (n : Nat) (rand : List Byte) : List Nat := (List.range n).map fun i => beNat (slice (72 * i) 72 rand)

/-- One Miller-Rabin round of an odd `n` above 3 with a base made from `r`: does `n` pass? -/
def millerRabin (n r : Nat) : Bool :=
  let qs := oddPart (bitLen n) (n - 1) 0
  let x := powMod (2 + r % (n - 3)) qs.1 n
  x == 1 || (List.range qs.2).any fun i => powMod x (2 ^ i) n == n - 1

/-- The primality test of check 3: above 3, no prime factor below 2^16, and the rounds passed. -/
def primeTest (n : Nat) (bases : List Nat) : Bool :=
  3 < n && n % 2 == 1 && ((List.range 65536).all fun d => d < 2 || n % d != 0) && bases.all (millerRabin n)

/-- A point of the curve at `x` or the next abscissa that has one. -/
def Curve.pointFrom (c : Curve) : Nat → Nat → Point
  | 0, _ => none
  | fuel + 1, x =>
    let x := x % c.p
    match sqrtMod ((x * x % c.p * x + c.a * x + c.b) % c.p) c.p with
    | some y => some (x, y)
    | none => c.pointFrom fuel (x + 1)

/-- Check 1 for an integrator entry. -/
def curveHeader (bs : List Byte) : Bool :=
  byteAt bs 0 == 1 && byteAt bs 1 == 1 && 1 ≤ byteAt bs 6 && byteAt bs 6 ≤ 8 && byteAt bs 7 < 2 && zeroAt bs 48 16 && zeroAt bs 496 16 &&
  slice 16 32 bs == sha3_256 (slice 64 432 bs)

/-- The MOV condition: p^k is 1 modulo n for some k from 1 to 100 (check 11). -/
def movWeak (p n : Nat) : Bool := (List.range 100).any fun k => powMod p (k + 1) n == 1 % n

/-- The first check of Table 6.12 that a staged integrator entry fails, if any. `rand` holds the bases of the two primality tests and the
abscissae of the points of check 12. -/
def curveCheck (bs rand : List Byte) : Option Nat :=
  let big := fun i => beNat (slice (64 + 72 * i) 72 bs)
  let c : Curve := { fieldBits := numAt bs 2 2, orderBits := numAt bs 4 2, h := byteAt bs 6, p := big 0, a := big 1, b := big 2,
                     gx := big 3, gy := big 4, n := big 5 }
  let rs := randomNumbers 144 rand
  let off := (c.p : Int) + 1 - c.h * c.n
  if !curveHeader bs then some 1
  else if c.fieldBits < 160 ∨ 571 < c.fieldBits ∨ c.fieldBits ≠ bitLen c.p ∨ c.orderBits ≠ bitLen c.n ∨
      [c.a, c.b, c.gx, c.gy].any (fun v => c.fieldBits < bitLen v) then some 2
  else if !primeTest c.p (rs.take 64) then some 3
  else if c.p ≤ c.a ∨ c.p ≤ c.b ∨ c.p ≤ c.gx ∨ c.p ≤ c.gy ∨ bitOf (byteAt bs 7) 0 ≠ (c.a == c.p - 3) then some 4
  else if (4 * (c.a * c.a % c.p * c.a) + 27 * (c.b * c.b)) % c.p = 0 then some 5
  else if !c.onCurve c.gx c.gy then some 6
  else if !primeTest c.n ((rs.drop 64).take 64) then some 7
  else if (c.mul c.n (some c.g)).isSome then some 8
  else if off * off > 4 * c.p then some 9
  else if c.h * c.n = c.p then some 10
  else if movWeak c.p c.n then some 11
  else if (rs.drop 128).any fun x => (c.mul (c.h * c.n) (c.pointFrom 256 x)).isSome then some 12
  else none

/-! ## Entries read back (R177) -/

/-- An integrator curve entry read back: one that fails its DIGEST is left empty, LAST_CHECK 13, PK0 INT_RAW bit 5 (R177). -/
def State.restoreCurve (s : State) (i : Nat) (bs : List Byte) : State :=
  if slice 16 32 bs = sha3_256 (slice 64 432 bs) then { s with pk.curves := Sparse.set [] s.pk.curves i bs }
  else { s with pk.lastCheck := Sparse.set 0 s.pk.lastCheck i 13 }.raise (pgPK 0) 5

/-- The format, derivation and curve tables read back from the configuration flash: each entry is checked again, and one that fails is left empty (R106,
R107, R177, Table 9.2). -/
def State.loadTables (s : State) (f : Flash) : State :=
  let s : State := { s with
    sq := { s.sq with
      fmtTab := f.fmt.filter fun e => (fmtCheck e.2).isNone
      derTab := f.der.filter fun e => (derCheck e.2).isNone }
    pk.curves := [] }
  f.curves.foldl (fun s e => s.restoreCurve e.1 e.2) s

end Sys2Proof.Machine
end

