-- ==== Sys2Proof/Machine/CardBase.lean ====
section
/-! DEFINITION. What resets, tamper responses, sleep and the gate do to the card ports, and the journal's appends (R417-R421, R425-R428). -/
namespace Sys2Proof.Machine

/-! ## Service pins (R430) -/

/-- The level at the pin of an enabled feature. -/
def State.setPin (s : State) (feature : Nat) (level : Bool) : State :=
  if s.get (R.PAD_EN feature) = 1 then s.setBit R.PAD_PIN_LEVEL (s.get (R.PAD_PIN feature)) level else s

/-! ## Card ports -/

/-- A port's contacts are deactivated (R418). -/
def State.deactivateCard (s : State) (port : Nat) : State :=
  let s := ((s.set (R.CARD_CLASS port) 0).set (R.CARD_PROTO_T1 port) 0).set (R.CARD_CLK_STOPPED port) 0
  { s.set (R.CARD_CLK_MHZ port) 0 with cd.stops := s.cd.stops.filter (· ≠ port) }

/-- The approval by card ends with a RESULT and its card is deactivated: CARD INT_RAW bit 2 (R420, R421). -/
def State.endCardApproval (s : State) (result : Nat) : State :=
  let s := ((s.set R.CARD_APPROVE_BUSY 0).set R.CARD_APPROVE_RESULT result).setPin 4 false
  let port := s.cd.port
  ({ s with cd := { stops := s.cd.stops } }.raise pgCARD 2).deactivateCard port

/-- An approval by card that runs ends with RESULT 5: the gate has left SEALED and APPROVED1, or its card is gone (R421). -/
def State.dropCardApproval (s : State) : State := if s.cd.step = .idle then s else s.endCardApproval 5

/-- Both ports deactivated: T3, T4 and S3 entry (R418). -/
def State.deactivateCards (s : State) : State := (s.dropCardApproval.deactivateCard 0).deactivateCard 1

/-! ## The sealed journal -/

/-- "RPK". -/
def labelRPK : List Byte := [0x52, 0x50, 0x4B]

/-- The RPMB authentication key of an eMMC device (R428). Its context is that of the journal's key: DEDUCED, log 225. -/
def rpmbAuthKey (mmk : List Byte) : List Byte := kdfCmac mmk labelRPK (leBytes 8 Config.serial.toNat)

/-- "JRN". -/
def labelJRN : List Byte := [0x4A, 0x52, 0x4E]

/-- The journal counter C: Obsidian's, or the RPMB write counter of an eMMC device (R426, R428). -/
def State.journalCount (s : State) : Nat := if s.get R.SD_EMMC = 1 then s.jr.rpmb else s.ob.journal

/-- C as `n`. -/
def State.setJournalCount (s : State) (n : Nat) : State :=
  if s.get R.SD_EMMC = 1 then { s with jr.rpmb := n % 2 ^ 64 } else { s with ob.journal := n % 2 ^ 64 }

/-- JBLOCKS, clamped (Table 18.7). -/
def State.journalBlocks (s : State) : Nat := max 1024 (min 1048576 (s.get R.SD_JBLOCKS))

/-- Where record NUM goes: a block of the SD card, or a frame of the RPMB partition (R425, R428). -/
def State.journalPlace (s : State) (num : Nat) : Nat :=
  (if s.get R.SD_EMMC = 1 then 0 else s.get R.SD_JBASE) + num % s.journalBlocks

/-- The MAC of a record's first 240 bytes, under the key of the MMK. -/
def journalMac (mmk body : List Byte) : List Byte := cmac 0 (kdfCmac mmk labelJRN (leBytes 8 Config.serial.toNat)) body

/-- A record (Table 18.4). -/
def journalRecord (mmk : List Byte) (num type : Nat) (payload : List Byte) : List Byte :=
  let body := [0x4B, 0x4C, 0x4A, 0x52] ++ leBytes 8 Config.serial.toNat ++ leBytes 8 num ++ leBytes 1 type ++ [0] ++
    leBytes 2 payload.length ++ fitBytes 216 payload
  body ++ journalMac mmk body

/-- What is written of a record: a block of the SD card, its upper half zero, or an RPMB frame (R425, R428). -/
def State.journalBlock (s : State) (record : List Byte) : List Byte := if s.get R.SD_EMMC = 1 then record else fitBytes 512 record

/-- Is the journal ready: JSTATE 1 or 2, and the MMK there to authenticate with? -/
def State.journalReady (s : State) : Bool := (s.get R.SD_JSTATE == 1 || s.get R.SD_JSTATE == 2) && s.ob.mmk.isSome

/-- The first waiting append is written, as record C + 1 (R426). -/
def State.startAppend (s : State) : State :=
  match s.jr.queue, s.ob.mmk with
  | a :: _, some mmk =>
    if !s.jr.record.isEmpty then s
    else
      let num := s.journalCount + 1
      let r := s.journalBlock (journalRecord mmk num a.type a.payload)
      { s.emit (.journalWrite (s.journalPlace num) r) with jr.record := r, jr.since := s.quartz }
  | _, _ => s

/-- An append in order; the firmware makes none while no journal is ready. -/
def State.journal (s : State) (a : Append) : State :=
  if s.journalReady then { s with jr.queue := s.jr.queue ++ [a] }.startAppend else s

/-- An append has failed: C stays, SD INT_RAW bit 6, and program 0x01F completes with DETAIL 0xC0F2 (R426, R429). -/
def State.failAppend (s : State) : State :=
  match s.jr.queue with
  | [] => s
  | a :: as =>
    let s := { s with jr := { s.jr with queue := as, record := [] } }.raise pgSD 6
    match a.owner with
    | some k => s.endCommand k stFormatError 0xC0F2
    | none => s

/-- The medium is gone, or no longer serves: every append fails (R426). -/
def State.closeJournal (s : State) : State :=
  (s.jr.queue.foldl (fun s _ => s.failAppend) s).set R.SD_JSTATE 0

end Sys2Proof.Machine
end

