-- ==== Sys2Proof/Machine/Kat.lean ====
section
/-! DEFINITION. The known-answer tests of a cipher cluster's units: what they run, and what follows their end (R147, R150, R155). -/
namespace Sys2Proof.Machine

/-! ## What a test runs (R150) -/

/-- Vector `i` of the tests: `n` bytes. The spec lists no vectors. -/
def katVector (i n : Nat) : List Byte := (List.range n).map (Config.katByte i)

/-- The blocks of one set of a lane's vectors: AES of each key length both ways, TDES both ways, CTR. -/
def katSet : Nat := 9

/-- The answers of one set of a lane's vectors under the ciphers `aes` and `tdes` of block `i`: AES-128, AES-192 and AES-256 encryption and decryption,
TDES, CTR and GHASH. -/
def katAnswers (cipher : Nat → Bool → List Byte → BlockFn) (first : Nat) : List Byte :=
  let block := fun i c dec n => cipher c dec (katVector (2 * i) n) (first + i) (katVector (2 * i + 1) (blkLen c))
  [(0, false, 16), (0, true, 16), (0, false, 24), (0, true, 24), (0, false, 32), (0, true, 32), (1, false, 24), (1, true, 24)].zipIdx.flatMap
    (fun v => block v.2 v.1.1 v.1.2.1 v.1.2.2) ++
  ctrModeBy (fun j => cipher 0 false (katVector 16 16) (first + 8 + j)) (katVector 17 16) 4 (katVector 18 16) ++
  ghash (katVector 19 16) (zeros 16) (katVector 20 32)

/-- The known answers. -/
def katKnown : List Byte := katAnswers (fun c dec key _ => (if dec then blkDec else blkEnc) c key) 0

/-- A lane's test in a datapath: as many sets of vectors as the test has, which is free. -/
def katLane (p : Path) (sets : Nat) : List Byte := (List.range sets).flatMap fun i => katAnswers p.cipher (katSet * i)

/-- The hash unit's test: every function of Table 5.9 over a message. -/
def katHash : List Byte :=
  (List.range 13).flatMap fun f => HashWord.digest { func := f, outLen := [32, 48, 64, 32, 48, 64, 32, 64, 32, 48, 64, 32, 64].getD f 0, custLen := 0 }
    (katVector 21 32) [] (katVector 22 64)

/-- The hash blocks of that test. -/
def katHashBlocks : Nat := ((List.range 13).map fun f => HashWord.blocks { func := f, outLen := 32, custLen := 0 } 64).sum

/-- The format unit's test: every FMT operation of format entries 0, 4 and 16. -/
def katFormat : List Byte :=
  [0, 4, 16].flatMap fun i => (List.range 6).flatMap fun op =>
    match (shippedFmt i).apply op 16 4 (katVector 23 16) (katVector 24 16) (katVector 25 16) with
    | .ok r => r.1.getD [] ++ [BitVec.ofNat 8 (r.2.getD 0)]
    | .error e => [BitVec.ofNat 8 e]

/-- The test of a unit run: did the unit give the known answers in both its datapaths? `pass` says that nothing upset the unit's answers, `twinOk` that
nothing upset the second datapath. Lane blocks count their dummy rounds, hash blocks are counted. -/
def State.katRun (s : State) (n u : Nat) (pass twinOk : Bool) : Bool × State :=
  if u < 4 then
    let sets := 1 + Config.katBlocks s.frees
    let v := katLane (s.workPath false) sets
    let known := (List.range sets).flatMap fun _ => katKnown
    (upset pass v == known && agree v (upset twinOk (complement (katLane (s.workPath true) sets))),
     { s.countDummies n (katSet * sets) with frees := s.frees + 1 })
  else
    let v := if u = 4 then katHash else katFormat
    (pass && v == upset twinOk v, if u = 4 then s.count (R.CC_HASH_BLOCKS n) katHashBlocks else s)

/-- Is a difference of one bit that the test forces into the checker reported by the comparison (R150)? -/
def forcedDifferenceSeen : Bool := !agree (zeros 16) (upset false (complement (zeros 16)))

/-- The operations queued in a hash unit that failed its test end their commands with FAULT_DETECTED (R147). -/
def State.endQueued (s : State) (n : Nat) : State :=
  let ops := (s.hashUnit n).queue
  ops.foldl (fun s o =>
    match o.owner with
    | some k => (s.updCtx k fun x => { x with pc := o.pc }).endCommand k stFaultDetected (unitDetail n 4)
    | none => s) (s.updHash n fun u => { u with queue := [] })

/-! ## The end of a test -/

/-- KAT_COMPLETE (R147, R150): a lane's, hash unit's or format unit's test ends. A pass returns the unit to service; a failure removes it, so that a
lane needs a fresh seed to return (R138), moves or ends its waiting work, and takes the cluster out of service with its hash unit, its format unit or its last lane. -/
def execKatComplete (n : Fin 16) (unit : Fin 6) (pass : Bool) (twinOk : Bool) (s : State) : Result :=
  let u := unit.val
  let v := s.unitSvc n u
  if ¬(v.katBusy ∨ (v.katWanted ∧ s.unitIdle n u)) ∨ s.relocks n then .next s
  else
    let s := if twinOk then s else s.unitFault n u 0 true
    let s := if v.katWanted then s.raise (pgCC n) 4 else s
    let r := s.katRun n u pass twinOk
    let s := r.2
    let ok := r.1 && forcedDifferenceSeen
    let s := s.updSvc n u fun v => { v with katWanted := false, katBusy := false, katFail := !ok, passed := ok }
    let s := s.settleUnit n u
    let s := if u < 4 ∧ ok then s.updLane n u fun x => if x.exec.isNone then x.advance s.quartz else x else s
    if ok then .next (s.pumpAll n)
    else
      let s : State := { s with ci.lastOut := Sparse.set 0 s.ci.lastOut n u }
      let s := (s.raise (pgCC n) 1).severity 3
      let s := if u < 4 then (s.updLane n u fun x => { x with seeded := false }).moveWaiting n u else if u = 4 then s.endQueued n else s
      .next (if 4 ≤ u ∨ (s.lanesUp n).isEmpty then s.raise (pgCC n) 2 else s)

end Sys2Proof.Machine
end

