-- ==== Sys2Proof/Machine/Cores.lean ====
section
/-! DEFINITION. The control-core complex: thread slots, ready and delay lists, the tick, HOLD and core restarts (R399-R408, R413). -/
namespace Sys2Proof.Machine

/-! ## Threads and lists (R404, R405) -/

/-- A thread slot. -/
def State.thread (s : State) (t : Nat) : Thread := Sparse.get {} s.sc.threads t

/-- The state with a thread slot changed. -/
def State.updThread (s : State) (t : Nat) (f : Thread → Thread) : State := { s with sc.threads := Sparse.upd {} s.sc.threads t f }

/-- The key of core `c`'s ready list of priority `prio`. -/
def readyKey (c prio : Nat) : Nat := 32 * c + prio

/-- A core's ready list of a priority. -/
def State.readyList (s : State) (c prio : Nat) : List Nat := Sparse.get [] s.sc.ready (readyKey c prio)

/-- Is a core held? -/
def State.held (s : State) (c : Nat) : Bool := s.bit R.SCHED_HOLD c

/-- The cores a thread may be placed on. -/
def State.candidates (s : State) (t : Nat) : List Nat :=
  (List.range 8).filter fun c => bitOf (s.thread t).aff c && !s.held c

/-- Does a thread stand on a core: READY in one of its lists, or RUNNING on it? -/
def Thread.standsOn (x : Thread) (c : Nat) : Bool := (x.st == .ready && x.list == c) || (x.st == .running && x.core == c)

/-- READY and RUNNING threads of a core at a priority or higher. -/
def State.coreLoad (s : State) (c prio : Nat) : Nat := (s.sc.threads.filter fun e => e.2.standsOn c && e.2.prio ≤ prio).length

/-- READY slots whose candidate set is empty (STRANDED). -/
def State.stranded (s : State) : Nat := (s.sc.threads.filter fun e => e.2.st == .ready && (s.candidates e.1).isEmpty).length

/-- A slot taken off every ready and delay list. -/
def State.unlist (s : State) (t : Nat) : State :=
  { s with sc.ready := Sparse.mapVals [] (fun _ l => l.filter (· ≠ t)) s.sc.ready,
           sc.delayed := Sparse.mapVals [] (fun _ l => l.filter (· ≠ t)) s.sc.delayed }

/-- The core a READY slot goes to (R405): of its candidates the least loaded, a tie to its core of last run, then to the lowest; its core of
last run when it has no candidate. -/
def State.placeOn (s : State) (t : Nat) : Nat :=
  let x := s.thread t
  let best := (s.candidates t).foldl (fun best c =>
    match best with
    | none => some c
    | some b =>
      let n := s.coreLoad c x.prio
      let m := s.coreLoad b x.prio
      if n < m ∨ (n = m ∧ c = x.core) then some c else best) none
  best.getD x.core

/-- The threads RUNNING on a core. -/
def State.runningOn (s : State) (c : Nat) : List Nat :=
  (s.sc.threads.filter fun e => e.2.st == .running && e.2.core == c).map (·.1)

/-- HELD_IDLE of a core (R413): held, no thread running, no READY slot. -/
def State.heldIdle (s : State) (c : Nat) : Bool :=
  s.held c && !(s.sc.threads.any fun e => e.2.standsOn c)

/-- SCHED INT_RAW bits 1 and 2 where an event has made STRANDED nonzero or a core held idle. -/
def State.settleSched (s was : State) : State :=
  let s := if was.stranded = 0 ∧ s.stranded ≠ 0 then s.raise pgSCHED 1 else s
  if (List.range 8).any fun c => s.heldIdle c && !was.heldIdle c then s.raise pgSCHED 2 else s

/-- A slot goes to the tail of its priority's list on the core chosen (R405), which is preempted when it runs a thread of lower priority; it is READY
since `since`. -/
def State.enlist (s : State) (t since : Nat) : State :=
  let s := s.unlist t
  let s := s.updThread t fun x => { x with st := .blocked }
  let c := s.placeOn t
  let x := s.thread t
  let preempts := (s.runningOn c).any fun u => (s.thread u).prio > x.prio
  let s := s.updThread t fun x => { x with st := .ready, list := c, readyAt := since }
  let s : State := { s with sc.ready := Sparse.upd [] s.sc.ready (readyKey c x.prio) (· ++ [t]) }
  if preempts then s.emit (.preempt c) else s

/-- A slot becomes READY now. -/
def State.makeReady (s : State) (t : Nat) : State := s.enlist t s.quartz

/-! ## Operations (Table 17.1) -/

/-- An operation refused: counted, SCHED INT_RAW bit 0. -/
def State.refuseOp (s : State) : State := (s.countSat R.SCHED_OP_REFUSED).raise pgSCHED 0

/-- An operation on a slot, where Table 17.1 allows it from the slot's state. -/
def State.schedOp (s : State) (t : Nat) (allowed : TState → Bool) (run : State → State) : Result :=
  if allowed (s.thread t).st then .next ((run s).settleSched s) else .next s.refuseOp

/-- CREATE: priority, affinity and tag from SLOT_CFG. -/
def execCreate (slot : Fin 512) (s : State) : Result :=
  if !s.responds pgSCHED then .next s else
  s.schedOp slot (· == .free) fun s => s.updThread slot fun _ =>
    { st := .blocked, prio := s.get R.SCHED_CFG_PRIO, aff := s.get R.SCHED_CFG_AFF, tag := s.get R.SCHED_CFG_TAG }

/-- READY from BLOCKED, DELAYED or RUNNING. -/
def execReady (slot : Fin 512) (s : State) : Result :=
  if !s.responds pgSCHED then .next s else
  s.schedOp slot (fun st => st == .blocked || st == .delayed || st == .running) fun s => s.makeReady slot

/-- A slot in a delay list: before the first one that wakes later, or at the same tick with a higher number (R407). -/
def delayInsert (wake : Nat → Nat) (t : Nat) : List Nat → List Nat
  | [] => [t]
  | u :: us => if wake t < wake u ∨ (wake t = wake u ∧ t < u) then t :: u :: us else u :: delayInsert wake t us

/-- DELAY of 1-1,048,575 ticks, from RUNNING or BLOCKED; a DELAY of no tick is refused. -/
def execDelay (slot : Fin 512) (ticks : Fin 1048576) (s : State) : Result :=
  if !s.responds pgSCHED then .next s else
  s.schedOp slot (fun st => ticks.val ≠ 0 && (st == .running || st == .blocked)) fun s =>
    let s := s.updThread slot fun x => { x with st := .delayed, wake := s.sc.ticks + ticks }
    let c := (s.thread slot).core
    { s with sc.delayed := Sparse.upd [] s.sc.delayed c (delayInsert (fun u => (s.thread u).wake) slot) }

/-- BLOCK from RUNNING, READY or DELAYED. -/
def execBlock (slot : Fin 512) (s : State) : Result :=
  if !s.responds pgSCHED then .next s else
  s.schedOp slot (fun st => st == .running || st == .ready || st == .delayed) fun s =>
    (s.unlist slot).updThread slot fun x => { x with st := .blocked }

/-- A slot freed. -/
def State.freeThread (s : State) (t : Nat) : State := (s.unlist t).updThread t fun _ => {}

/-- FREE from any state but FREE. -/
def execFree (slot : Fin 512) (s : State) : Result :=
  if !s.responds pgSCHED then .next s else
  s.schedOp slot (· != .free) fun s => s.freeThread slot

/-- SETPRIO: a READY slot joins the tail of its new list; an applet's thread is refused a priority above its PRIO_MIN (R403). -/
def execSetprio (slot : Fin 512) (prio : Fin 32) (s : State) : Result :=
  if !s.responds pgSCHED then .next s else
  let x := s.thread slot
  let floor := match x.applet with
    | some a => ((s.sc.applets.find? (·.1 == a)).map (·.2.prioMin)).getD 0
    | none => 0
  s.schedOp slot (fun st => st != .free && floor ≤ prio.val) fun s =>
    let s := s.updThread slot fun x => { x with prio := prio }
    if x.st = .ready then
      let s := s.unlist slot
      { s with sc.ready := Sparse.upd [] s.sc.ready (readyKey x.list prio) (· ++ [slot.val]) }
    else s

/-- NEXT_READ (R406): the head of the core's highest-priority non-empty list becomes RUNNING there; its wait goes to Agate. -/
def execNextRead (core : Fin 8) (s : State) : Result :=
  if !s.responds pgSCHED then .next s else
  let c := core.val
  let s := s.setBit R.SCHED_CORE_UP c true
  match ((List.range 32).flatMap fun p => s.readyList c p).head? with
  | none => .next (s.emit (.next c none))
  | some t =>
    let was := s
    let wait := s.quartz - (s.thread t).readyAt
    let s := (s.unlist t).updThread t fun x => { x with st := .running, core := c }
    let s : State := { s with sc.tags := Sparse.set 0 s.sc.tags c (s.thread t).tag }
    let s := s.sample 2 c (logBin wait) wait
    .next ((s.emit (.next c (some t))).settleSched was)

/-! ## The tick (R407, R408) -/

/-- TICK_US clamped to 1-1,000, in ns. -/
def State.tickNs (s : State) : Nat := 1000 * max 1 (min 1000 (s.get R.SCHED_TICK_US))

/-- Slots in the order of their wake ticks, those of one tick as they stand. -/
def inWakeOrder (wake : Nat → Nat) (ts : List Nat) : List Nat :=
  ts.foldr (fun t us => us.takeWhile (fun u => wake u < wake t) ++ t :: us.dropWhile fun u => wake u < wake t) []

/-- SCHED_TICK (R407): the tick's unit (feature 4) fires; the ticks due are counted, and every slot whose wake tick has been reached moves to
READY, tick by tick and in list order. -/
def execSchedTick (s : State) : Result :=
  if s.hasUnit 4 = false ∨ s.quartz < s.sc.tickDue ∨ ¬ s.bit R.PWR_DOMAIN_ON_HI 0 then .next s
  else
    let was := s
    let s := s.fire 4
    let n := (s.quartz - s.sc.tickDue) / s.tickNs + 1
    let s : State := { s with sc.ticks := s.sc.ticks + n, sc.tickDue := s.sc.tickDue + n * s.tickNs }
    let due := (List.range 8).flatMap fun c => (Sparse.get [] s.sc.delayed c).filter fun t => (s.thread t).wake ≤ s.sc.ticks
    .next (((inWakeOrder (fun t => (s.thread t).wake) due).foldl (fun s t => s.makeReady t) s).settleSched was)

/-! ## Holding and restarting a core (R413) -/

/-- HOLD: a write that would leave no core unheld is ignored; the READY slots of newly held cores move, READY since when they were. -/
def execHold (value : BitVec 8) (s : State) : Result :=
  if !s.responds pgSCHED then .next s else
  if value = 0xFF#8 then .next s
  else
    let was := s
    let s := s.set R.SCHED_HOLD value.toNat
    let gone := (List.range 8).filter fun c => s.held c && !was.held c
    let move := gone.flatMap fun c => (List.range 32).flatMap fun p => s.readyList c p
    let s := move.foldl (fun s t => if (s.candidates t).isEmpty then s else s.enlist t (s.thread t).readyAt) s
    .next (s.settleSched was)

/-- CORE_RESET: the named cores that are held idle restart from the slot of FW_SEL. -/
def execCoreReset (cores : BitVec 8) (s : State) : Result :=
  if !s.responds pgSCHED then .next s else
  .next ((List.range 8).foldl (fun s c =>
    if cores.getLsbD c && s.heldIdle c then
      { (s.setBit R.SCHED_CORE_UP c false).setBit R.SCHED_CORE_FW c (s.get R.SCHED_FW_SEL == 1) with
        sc.tags := Sparse.set 0 s.sc.tags c 0 }
    else s) s)

/-! ## Applets (R401-R403) -/

/-- The header of an applet image, where its fields lie in their ranges and its digest matches. -/
structure AppletHeader where
  aslot : Nat
  tag : Nat
  prioMin : Nat
  affinity : Nat
  nthread : Nat
deriving DecidableEq, Repr

/-- An applet stopped: its threads freed, its slot not loaded. -/
def State.stopApplet (s : State) (a : Nat) : State :=
  let ts := (s.sc.threads.filter fun e => e.2.applet == some a).map (·.1)
  let s := ts.foldl (fun s t => s.freeThread t) s
  { s.setBit R.SCHED_APPLET_LOADED a false with sc.applets := s.sc.applets.filter (·.1 != a) }

/-- An applet started: its threads take the lowest FREE slots, BLOCKED, at PRIO_MIN. Too few slots start none (R403). -/
def State.startApplet (s : State) (h : AppletHeader) : State :=
  let frees := ((List.range 512).filter fun t => (s.thread t).st == .free).take h.nthread
  if frees.length < h.nthread then s.raise pgSCHED 4
  else
    let s := frees.foldl (fun s t => s.updThread t fun _ =>
      { st := .blocked, prio := h.prioMin, aff := h.affinity, tag := h.tag, applet := some h.aslot }) s
    { s.setBit R.SCHED_APPLET_LOADED h.aslot true with
      sc.applets := s.sc.applets ++ [(h.aslot, { tag := h.tag, prioMin := h.prioMin, affinity := h.affinity })] }

end Sys2Proof.Machine
end

