-- ==== Sys2Proof/Machine/Partition.lean ====
section
/-! DEFINITION. Partition states: freeze, thaw, drain, creation and deletion, PART_CMD, and the committed state (R54, R259-R263, R276). -/
namespace Sys2Proof.Machine

/-- The partitions in the table. -/
def State.created (s : State) : List (Nat × Part) := s.parts.filter fun e => e.2.created

/-- Is the local end of a link ready (Table 15.3)? -/
def State.linkReady (s : State) : Bool := s.mode == .service || s.mode == .shadow || s.mode == .maintenance

/-- A ring link that has left UP is wrapped: traffic turns back along the ring (R374). -/
def State.wrapRing (s : State) (k : Nat) : State :=
  if isRingLink k ∧ s.get (R.FVL_WRAPPED k) = 0 then (s.set (R.FVL_WRAPPED k) 1).raise (pgFVL k) 4 else s

/-- A member with no UP tree link to a parent loses the grandmaster: DT_LOCKED clears, holdover starts (R365). -/
def State.settleTree (s : State) : State :=
  if s.enrolled ∧ s.get R.FVL0_GM = 0 ∧ s.get R.FVL0_DT_LOCKED = 1 ∧ ¬ (List.range 6).any (fun k => s.linkUp k) then
    { (s.set R.FVL0_DT_LOCKED 0).raise (pgFVL 0) 8 with dm.lostAt := some s.quartz }
  else s

/-- The full catch-up of R361 step 4 begins (R368): the scope 1 records of this member's partitions are asked for on a link. -/
def State.askCatchup (s : State) (k : Nat) : State :=
  let parts := s.created.map fun e => e.1
  { s with dm.catchup := true, dm.lost := false }.sendOn k (.catchupRequest k parts)

/-- A tree link that comes UP: the tree re-forms, and the neighbours exchange the highest sequences they hold of each origin and of each partition's schedules
(R368, R372). -/
def State.tellHolds (s : State) (k : Nat) : State :=
  if s.enrolled ∧ isTreeLink k then
    s.sendOn k (.holds k ((s.get R.FVL0_MEMBER_NO, s.dm.originSeq) :: s.dm.seen) ((s.parts.filter fun e => e.2.epSeq != 0).map fun e => (e.1, e.2.epSeq)))
  else s

/-- A link's STATE between NOT_READY and UP as the two ends stand (Table 15.3); reaching UP clears WRAPPED (R374), and a
domain link's starts the catch-up of a member that lost HBM (R368); leaving UP wraps a ring link and may lose the grandmaster (R374, R375). -/
def State.settleLink (s : State) (k : Nat) : State :=
  let st := s.get (R.FVL_STATE k)
  if st = 3 ∨ st = 4 then
    let up := s.linkReady && s.get (R.FVL_PEER_READY k) == 1
    let s := s.set (R.FVL_STATE k) (if up then 4 else 3)
    let s := if up ∧ st = 3 then (s.raise (pgFVL k) 0).tellHolds k else s
    let s := if up ∧ 2 ≤ k ∧ k < 6 ∧ s.dm.lost then s.askCatchup k else s
    let s := if up ∧ s.get (R.FVL_WRAPPED k) = 1 then (s.set (R.FVL_WRAPPED k) 0).raise (pgFVL k) 4 else s
    if st = 4 ∧ ¬ up then (s.wrapRing k).settleTree else s
  else s

/-- MODE changes (R387): RST INT_RAW bit 1; doorbells recorded in BOOT are served (R384), and the links' readiness follows the mode. -/
def State.enterMode (s : State) (m : Mode) : State :=
  if s.mode = m then s
  else
    let boot : Bool := s.mode == .boot
    let s := { s with mode := m }.raise pgRST 1
    let s := if boot then s.serveAllDoorbells else s
    (List.range 8).foldl (fun s k => s.settleLink k) s

/-! ## The committed state (R263, R276) -/

/-- The guarded fields that no selector and no other structure holds (classes 3, 5 and 8 of Table 10.6). -/
def guardedFields : List Field :=
  [R.CC0_DMEAN, R.CC0_SHUF_EN, R.CC0_FAULT_LIMIT, R.CC0_FAULT_WINDOW, R.GEO_REMASK_MS, R.FLT_RESEED_MS, R.GATE_WINDOW_S, R.PWR_PL_TARGET,
   R.PWR_THERM_HI, R.PWR_THERM_HYS, R.PAIR_PAIR_EN, R.PAIR_TAKE_UNSYNCED, R.PAIR_HOSTLOSS_EN, R.PAIR_MIN_CC, R.PAIR_MIN_PK,
   R.PAIR_PARTNER_SN_LO, R.PAIR_PARTNER_SN_HI, R.FVL0_MEMBER_NO, R.FVL0_PPS_OFFSET, R.FVL0_JOIN_SN_LO, R.FVL0_JOIN_SN_HI,
   R.FVL0_SPONSOR_SN_LO, R.FVL0_SPONSOR_SN_HI] ++
  (List.range 14).flatMap fun m => (List.range 32).flatMap fun r =>
    [R.MPU_BASE_LO m r, R.MPU_BASE_HI m r, R.MPU_EN m r, R.MPU_R m r, R.MPU_W m r, R.MPU_X m r, R.MPU_ANY m r, R.MPU_TAG m r,
     R.MPU_LIMIT_LO m r, R.MPU_LIMIT_HI m r]

/-- The entry of the partition table (Table 10.2), without the partition's run-time state. -/
def Part.entry (x : Part) : Part :=
  { created := x.created, domain := x.domain, fwdEn := x.fwdEn, fwdThresh := x.fwdThresh, weight := x.weight, retry := x.retry,
    quota := x.quota, xbarWeight := x.xbarWeight, ephQuota := x.ephQuota, quotaPart := x.quotaPart, quotaDom := x.quotaDom,
    quotaMod := x.quotaMod, cres := x.cres, wbase := x.wbase, wsize := x.wsize, prevOk := x.prevOk, tepoch := x.tepoch, vfs := x.vfs,
    proot := x.proot, droot := x.droot, mroot := x.mroot, pen := x.pen, officers := x.officers }

/-- GATE_SEQ. -/
def State.gateSeq (s : State) : Nat := s.get R.GATE_GATE_SEQ_LO + 2 ^ 32 * s.get R.GATE_GATE_SEQ_HI

/-- The committed state as it stands. -/
def State.committed (s : State) (seq done : Nat) : Flash :=
  { s.gt.flash with
    key := s.ob.mmk.getD []
    regs := guardedFields.foldl (fun m f => Sparse.set f.reset m f.key (s.get f)) []
    parts := Sparse.mapVals {} (fun _ x => x.entry) s.parts
    progs := s.sq.progs.filter (1024 ≤ ·.1), fmt := s.sq.fmtTab, der := s.sq.derTab, curves := s.pk.curves, applets := s.sc.images
    resp := s.ob.resp, filtN := s.ob.filtN, filtM := s.ob.filtM, seq, done }

/-- The table epoch, PREV_OK and roots of a partition as the flash keeps them outside the gate (R202, R263, R360). -/
def State.keepEntry (s : State) (p : Nat) : State :=
  let x := s.part p
  { s with gt.flash.parts := Sparse.upd {} s.gt.flash.parts p fun y =>
      { y with tepoch := x.tepoch, prevOk := x.prevOk, proot := x.proot, droot := x.droot, mroot := x.mroot, domain := x.domain } }

/-! ## Freeze and thaw (R54, R101, R260) -/

/-- A partition enters FROZEN: staged commands complete with PARTITION_FROZEN, its ACTIVE queue pairs become FROZEN, and its running
commands end (R54, R101). -/
def State.freezePart (s : State) (p : Nat) : State :=
  let s := s.updPart p fun x => { x with pstate := .frozen, freezing := true }
  let s := (s.partEvent p 1).tellStandby (.pstate p .frozen)
  let gone := s.hq.staged.filter (·.part == p)
  let sent := (s.hq.fwdOut.map (·.cmd)).filter (·.part == p)
  let s : State := { s with
    hq := { s.hq with
      staged := s.hq.staged.filter (·.part != p)
      fwdOut := s.hq.fwdOut.filter (·.cmd.part != p)
      qps := Sparse.mapVals {} (fun k x => if k / 64 = p ∧ x.qstate = .active then { x with qstate := .frozen } else x) s.hq.qps } }
  let s := (gone ++ sent).foldl (fun s c => s.endStaged c stPartitionFrozen 0) s
  (s.running.filter fun e => e.2.part == p).foldl (fun s e => s.endCommand e.1 stPartitionFrozen 0) s

/-- A partition holds no staged command, no running context and no PKX operation (R260). -/
def State.partQuiet (s : State) (p : Nat) : Bool :=
  !(s.hq.staged.any (·.part == p)) && !(s.running.any fun e => e.2.part == p) &&
  !(s.pk.units.any fun e => e.2.ops.any (·.part == p)) && !(s.pk.queues.any fun e => e.2.any (·.part == p))

/-- A thaw: the partition is ACTIVE again and its FROZEN queue pairs fetch on (Table 2.4), what they recorded meanwhile
being served (R38). -/
def State.thawPart (s : State) (p : Nat) : State :=
  let s := s.updPart p fun x => { x with pstate := .active, gateFroze := false }
  let s := (s.partEvent p 2).tellStandby (.pstate p .active)
  let qs := (s.hq.qps.filter fun e => e.1 / 64 == p && e.2.qstate == .frozen).map (·.1 % 64)
  qs.foldl (fun s q => (s.updQp p q fun x => { x with qstate := .active }).serveDoorbells p q) s

/-- A freeze or drain is complete; where PART_CMD asked for it, CMD_BUSY clears and GATE INT_RAW bit 7 is set (R260). -/
def State.commandDone (s : State) (p : Nat) : State :=
  if s.gt.cmdPart = some p then (({ s with gt.cmdPart := none }).set R.GATE_CMD_BUSY 0).raise pgGATE 7 else s

/-! ## PART_CMD (R259, R261) -/

/-- May PART_CMD act on a partition (R261)? -/
def State.partCmdOk (s : State) (p : Nat) : Bool :=
  p ≠ 0 && s.get R.GATE_CMD_BUSY == 0 && !s.gt.froze.contains p

/-- CMD_RESULT of an accepted or an ignored command. -/
def State.partCmdResult (s : State) (p : Nat) (ok : Bool) : State := (s.set R.GATE_PART_SEL p).set R.GATE_CMD_RESULT (if ok then 1 else 2)

/-- PART_CMD FREEZE of an ACTIVE or DRAINING partition; a FROZEN one is accepted and unchanged, an OFF one ignored. -/
def execPartCmdFreeze (part : Fin 1024) (s : State) : Result :=
  if !s.responds pgGATE then .next s else
  match s.partCmdOk part, (s.part part).pstate with
  | true, .active | true, .draining =>
    let s := (s.partCmdResult part true).set R.GATE_CMD_BUSY 1
    .next (({ s with gt.cmdPart := some part.val }).freezePart part)
  | true, .frozen => .next (s.partCmdResult part true)
  | true, .off | false, _ => .next (s.partCmdResult part false)

/-- PART_CMD THAW of a FROZEN partition. -/
def execPartCmdThaw (part : Fin 1024) (s : State) : Result :=
  if !s.responds pgGATE then .next s else
  match s.partCmdOk part, (s.part part).pstate with
  | true, .frozen => .next ((s.partCmdResult part true).thawPart part)
  | true, .active | true, .draining | true, .off | false, _ => .next (s.partCmdResult part false)

/-- PART_CMD DRAIN of an ACTIVE partition: fetch stops, its commands run to their ends. -/
def execPartCmdDrain (part : Fin 1024) (s : State) : Result :=
  if !s.responds pgGATE then .next s else
  match s.partCmdOk part, (s.part part).pstate with
  | true, .active =>
    let s := (s.partCmdResult part true).set R.GATE_CMD_BUSY 1
    let s := { s with gt.cmdPart := some part.val }
    .next ((s.updPart part fun x => { x with pstate := .draining }).tellStandby (.pstate part .draining))
  | true, .draining | true, .frozen | true, .off | false, _ => .next (s.partCmdResult part false)

/-- FREEZE_COMPLETE (R260): a frozen partition has gone quiet. -/
def execFreezeComplete (part : Fin 1024) (s : State) : Result :=
  if (s.part part).freezing ∧ s.partQuiet part then
    .next ((s.updPart part fun x => { x with freezing := false }).commandDone part)
  else .next s

/-- DRAIN_COMPLETE (Table 10.1): a DRAINING partition's backlog is 0 and it becomes FROZEN. -/
def execDrainComplete (part : Fin 1024) (s : State) : Result :=
  if (s.part part).pstate = .draining ∧ s.backlog part = 0 ∧ s.partQuiet part then
    .next ((s.freezePart part |>.updPart part fun x => { x with freezing := false }).commandDone part)
  else .next s

/-! ## Creation and deletion (Table 10.1, R262) -/

/-- The domain root of partition `p` on a member: KDF of the domain master secret, "DRT", p and DOMAIN_ID (R362). -/
def State.domainRoot (s : State) (p : Nat) : List Byte :=
  kdfCmac s.dm.secret [0x44, 0x52, 0x54] (leBytes 2 p ++ leBytes 8 s.dm.id)

/-- A partition is created: its roots drawn, generation 1 (the domain root that of the domain while enrolled, R362), table epoch 1 with PREV_OK 0,
every queue pair DISABLED. -/
def State.createPart (s : State) (p : Nat) : State :=
  let (a, s) := s.draw 32
  let (b, s) := s.draw 32
  let b := if s.enrolled then s.domainRoot p else b
  let s := s.updPart p fun x =>
    { x with created := true, domain := true, pstate := .active, proot := { gen := 1, key := some a },
             droot := { gen := 1, key := some b }, tepoch := 1, prevOk := false, rollBusy := false }
  { s with hq.qps := s.hq.qps.filter fun e => e.1 / 64 != p }

/-- A partition is deleted (R262): queue pairs DISABLED without completions, its cache entries zeroed, its roots destroyed and its lines
virgin, quotas, window and weights 0, its VFs and officers gone;
its applets' threads are freed (R403). -/
def State.deletePart (s : State) (p : Nat) : State :=
  let s : State := { s with
    hq := { s.hq with
      held := s.hq.held.filter (·.cmd.part != p)
      qps := Sparse.mapVals {} (fun k x => if k / 64 = p then { x with qstate := .disabled, qerr := 0 } else x) s.hq.qps }
    ge := { s.ge with
      slices := Sparse.mapVals [] (fun _ es => es.filter fun e => linePart e.line != p) s.ge.slices
      lines := s.ge.lines.filter fun e => linePart e.1 != p } }
  let s := (s.sc.applets.filter fun a => a.2.tag == p).foldl (fun s a => s.stopApplet a.1) s
  s.updPart p fun x =>
    { x with created := false, domain := false, pstate := .off, gateFroze := false, weight := 0, quota := 0, xbarWeight := 0,
             ephQuota := 0, quotaPart := 0, quotaDom := 0, quotaMod := 0, cres := 0, wbase := 0, wsize := 0, vfs := [],
             proot := {}, droot := {}, mroot := {}, officers := [], epPending := none }

/-- Tenant partitions in the table. -/
def State.tenants (s : State) : List Nat := (s.parts.filter fun e => e.1 != 0 && e.2.created).map (·.1)

end Sys2Proof.Machine
end

