-- ==== Sys2Proof/Machine/Power.lean ====
section
/-! DEFINITION. Performance levels, voltage changes, the thermal cap, clock gating and cluster power-off (R19, R321-R328, R333). -/
namespace Sys2Proof.Machine

/-! ## Levels (R321, R322) -/

/-- An AVSBus write of a level's voltage. -/
def State.requestLevel (s : State) (level : Nat) : State :=
  { (s.set R.PWR_VREQ_PL level).emit (.avsRequest (s.get R.PWR_AVS_RAIL) level) with pw.sent := s.quartz }

/-- The PLL locks of the cipher and public-key islands: lost while they relock, back for the powered clusters after (Table 1.10). -/
def State.lockIslands (s : State) (locked : Bool) : State :=
  (List.range 24).foldl (fun s i =>
    let off := if i < 16 then s.bit R.PWR_CC_OFF i else s.bit R.PWR_PK_OFF (i - 16)
    s.setBit R.GBL_ISLAND_LOCK i (locked && !off)) s

/-- The PLL locks of islands 24 to 30 listed: the HBM controllers, the ports, the link block, the control cores and the always-on block, which run at
one frequency (Table 1.4). -/
def State.lockFixed (s : State) (islands : List Nat) (locked : Bool) : State := islands.foldl (fun s i => s.setBit R.GBL_ISLAND_LOCK i locked) s

/-- A relock begins (STEP 2, 3 or 5). -/
def State.beginRelock (s : State) (step : Nat) : State :=
  { (s.set R.PWR_STEP step).lockIslands false with pw.relocking := true }

/-- The islands run a level's frequency; Agate's residency of the level left is closed first. -/
def State.runLevel (s : State) (level : Nat) : State :=
  { (s.accrueLevel.set R.PWR_CUR_PL level).lockIslands true with pw.relocking := false }

/-- WDOG_MS, clamped, in ns. -/
def State.wdogNs (s : State) : Nat := 1000000 * max 10 (min 4000 (s.get R.RST_WDOG_MS))

/-- The watchdog's period starts (R393). -/
def State.startWatchdog (s : State) : State := { s with bt.wdogDue := some (s.quartz + s.wdogNs) }

/-- Has the effective level been attempted and failed (R323)? -/
def State.levelFailed (s : State) : Bool := s.get R.PWR_PL_FAIL == 1 && s.pw.failed == some (s.get R.PWR_EFF_PL)

/-- Does the effective level run, or has its voltage request failed, so that the module stays at another (R323, R332)? -/
def State.levelSettled (s : State) : Bool := (s.get R.PWR_STEP == 0 && s.get R.PWR_CUR_PL == s.get R.PWR_EFF_PL) || s.levelFailed

/-- A wake ends when every block is ready again and the saved level is back, or its voltage request has failed: PWR INT_RAW bit 3 (R332). The interlock's
levels follow the module again (R336). -/
def State.settleWake (s : State) : State :=
  if s.pw.phase = .waking ∧ s.get R.RST_BLK_READY = 0xFFFFF ∧ s.levelSettled = true then
    let s := ((s.set R.PWR_SLEEP 0).set R.PWR_WAKE_LAST_US (min 65535 ((s.quartz - s.pw.wokeAt) / 1000))).raise pgPWR 3
    ({ s with pw := { s.pw with phase := .awake, s3 := false }, pr.kept := none }.startWatchdog).settleTake
  else s

/-- A level change ends (Table 13.2): counted, timed, PWR INT_RAW bit 0. -/
def State.endChange (s : State) : State :=
  let us := (s.quartz - s.pw.began) / 1000
  let s := ((s.set R.PWR_STEP 0).count R.PWR_CHANGES).raise pgPWR 0
  ({ (s.set R.PWR_CHG_LAST_US (min us 65535)).keepMax R.PWR_CHG_MAX_US us with pw.undoRelock := false }).settleWake

/-- A fall of the effective level to PL0 that acts on frequency first and waits for nothing (R324): a VUP that waits is abandoned, and the islands relock. A
change that already takes them to PL0 goes on. -/
def State.urgentPl0 (s : State) : State :=
  let fell : Bool := s.get R.PWR_EFF_PL != 0
  let s := s.settleLevel
  let c := s.get R.PWR_CUR_PL
  let step := s.get R.PWR_STEP
  if !fell ∨ s.get R.PWR_EFF_PL ≠ 0 ∨ (c = 0 ∧ (step = 0 ∨ step = 4)) ∨ (step = 3 ∧ s.pw.target = 0) then s
  else
    let began := if step = 0 then s.quartz else s.pw.began
    { s.beginRelock 3 with pw.target := 0, pw.old := if c = 0 then s.pw.old else c, pw.began := began, pw.undoRelock := false }

/-- A T1 latch acts: PL0 is requested and held (R290, R321); while the core die is held in reset it waits for BOOT to start. -/
def State.applyT1 (s : State) : State :=
  if s.ob.latch = 1 then
    let s := s.set R.PWR_T1_CAP 1
    (if s.inReset then s else s.urgentPl0).settleTake
  else s

/-- PL_CAP_WRITE (R321): PL_CAP written by partition 0. -/
def execPlCapWrite (cap : Fin 4) (s : State) : Result :=
  if !s.responds pgPWR then .next s else
  .next ((s.set R.PWR_PL_CAP cap).settleLevel)

/-- LEVEL_CHANGE_START (R322): no change runs and the effective level differs from the one in force: a raise requests its voltage first,
a lowering relocks first. A failed target is not attempted while PL_FAIL stands (R323). -/
def execLevelChangeStart (s : State) : Result :=
  let s := s.settleLevel
  let e := s.get R.PWR_EFF_PL
  let c := s.get R.PWR_CUR_PL
  if s.get R.PWR_STEP ≠ 0 ∨ e = c ∨ s.levelFailed = true then .next s
  else
    let s := { s with pw.target := e, pw.old := c, pw.began := s.quartz, pw.undoRelock := false }
    if c < e then .next ((s.set R.PWR_STEP 1).requestLevel e) else .next (s.beginRelock 3)

/-- AVS_ACK (R322, R323): a status report of the regulator; one that says the output is at target moves the change on. -/
def execAvsAck (status : BitVec 16) (atTarget : Bool) (s : State) : Result :=
  let s := s.set R.PWR_AVS_LAST status.toNat
  if !atTarget ∨ s.pw.relocking then .next s
  else match s.get R.PWR_STEP with
    | 1 => .next (s.beginRelock 2)
    | 4 => .next s.endChange
    | 5 => if s.pw.undoRelock then .next (s.beginRelock 5) else .next s.endChange
    | _ => .next s

/-- AVS_TIMEOUT (R323): 500 µs without an acknowledgement: the change is abandoned and the old voltage requested again. -/
def execAvsTimeout (s : State) : Result :=
  let step := s.get R.PWR_STEP
  if (step ≠ 1 ∧ step ≠ 4) ∨ s.quartz < s.pw.sent + 500000 then .next s
  else
    let s := (((s.set R.PWR_PL_FAIL 1).raise pgPWR 1).countSat R.PWR_FAILS).severity 2
    let s := { s with pw.failed := some s.pw.target, pw.undoRelock := step == 4 }
    .next ((s.set R.PWR_STEP 5).requestLevel s.pw.old).settleWake

/-- AVS_RETRY (R323): an unacknowledged request of the old voltage is repeated every 10 ms. -/
def execAvsRetry (s : State) : Result :=
  if s.get R.PWR_STEP ≠ 5 ∨ s.pw.relocking ∨ s.quartz < s.pw.sent + 10000000 then .next s else .next (s.requestLevel s.pw.old)

/-- PL_FAIL_CLEAR (R323): PL_FAIL written 1 allows a new attempt at the failed target. -/
def execPlFailClear (s : State) : Result :=
  if !s.responds pgPWR then .next s else
  .next { s.set R.PWR_PL_FAIL 0 with pw.failed := none }

/-! ## Thermal cap (R325) -/

/-- A signed eight-bit reading. -/
def signed8 (b : BitVec 8) : Int := b.toInt

/-- The thermal cap moved: PWR INT_RAW bit 2, a WARN to Agate. -/
def State.setThermCap (s : State) (cap : Nat) : State :=
  if s.get R.PWR_THERM_CAP = cap then s else ((s.set R.PWR_THERM_CAP cap).raise pgPWR 2).severity 2

/-- THERMAL_SAMPLE (R325): every 100 µs the highest of the islands' readings is TJ, and Agate samples it with VDD_CORE in mV. At 105 °C the cap
falls to PL0 at once (R324). In S2 and S3 nothing moves (R334). -/
def execThermalSample (readings : List (BitVec 8)) (vddMv : Nat) (s : State) : Result :=
  match readings with
  | [] => .next s
  | r :: rs =>
    if s.inReset ∨ s.pw.phase = .asleep ∨ s.quartz < s.pw.nextSample then .next s
    else
      let top := rs.foldl (fun m x => if signed8 m < signed8 x then x else m) r
      let tj := signed8 top
      let s := s.set R.PWR_TJ top.toNat
      let peak := BitVec.ofNat 8 (s.get R.PWR_TJ_PEAK)
      let s := if s.pw.nextSample = 0 ∨ signed8 peak < tj then s.set R.PWR_TJ_PEAK top.toNat else s
      let s := (s.sample 3 0 (linearBin tj (-40) 5) tj).sample 3 1 (linearBin vddMv 560 10) vddMv
      let hi : Int := s.get R.PWR_THERM_HI
      let low : Int := hi - s.get R.PWR_THERM_HYS
      let s := { s with pw.nextSample := s.quartz + 100000,
                        pw.hot := if hi ≤ tj then some (s.pw.hot.getD (s.quartz, 0)) else none,
                        pw.cool := if tj < low then some (s.pw.cool.getD s.quartz) else none }
      .next (if 105 ≤ tj ∧ s.get R.PWR_THERM_CAP ≠ 0 then (s.setThermCap 0).urgentPl0 else s)

/-- THERMAL_CAP_FALL (R325): TJ at or above THERM_HI for 1 ms, and for each further 10 ms. -/
def execThermalCapFall (s : State) : Result :=
  match s.pw.hot with
  | none => .next s
  | some (since, falls) =>
    if s.pw.phase = .asleep ∨ s.quartz < since + 1000000 + 10000000 * falls then .next s
    else
      let s := { s with pw.hot := some (since, falls + 1) }
      .next ((s.setThermCap (s.get R.PWR_THERM_CAP - 1)).settleLevel)

/-- THERMAL_CAP_RISE (R325): TJ below THERM_HI - THERM_HYS for 100 ms, and for each further 100 ms. -/
def execThermalCapRise (s : State) : Result :=
  match s.pw.cool with
  | none => .next s
  | some since =>
    if s.pw.phase = .asleep ∨ s.quartz < since + 100000000 then .next s
    else
      let s := { s with pw.cool := some s.quartz }
      .next ((s.setThermCap (min 3 (s.get R.PWR_THERM_CAP + 1))).settleLevel)

/-! ## Clock gating and cluster power-off (R19, R327, R328) -/

/-- Does an arbiter with a number from `lo` below `hi` serve a requester or hold one waiting? -/
def State.arbsBusy (s : State) (lo hi : Nat) : Bool :=
  s.arbs.any fun e => decide (lo ≤ e.1 ∧ e.1 < hi) && (e.2.owner.isSome || !e.2.waiting.isEmpty)

/-- Does a port have descriptor reads in flight, or a command of one of its functions to read input for or write to? -/
def State.portBusy (s : State) (p : Nat) : Bool :=
  let mine := fun (part q : Nat) => (s.qpFunc part q).any fun f => funcPort f == p
  (s.hq.qps.any fun e => e.2.reading != 0 && mine (e.1 / 64) (e.1 % 64)) || s.arbsBusy p (p + 1) || s.hq.staged.any (fun c => mine c.part c.qp) ||
    s.running.any fun e => match e.2.cmd with | some c => mine c.part c.qp | none => false

/-- Has an island a requester that is not idle? A cluster: a context, an operation of a unit, a hand-off; an HBM controller, a transfer or a request at its
channels; a port, a command or a descriptor read; the link block, an open link, which sends flits all the time (R356); the control cores, a thread that runs
or is ready, or a fence; the always-on block always has, Quartz being one (Table 1.4). -/
def State.islandBusy (s : State) (i : Nat) : Bool :=
  if i < 16 then !(s.busyIn i).isEmpty || ((List.range 4).any fun l => (s.lane i l).exec.isSome) || !(s.hashUnit i).queue.isEmpty
  else if i < 24 then !s.pkDrained (i - 16)
  else if i < 26 then s.arbsBusy (256 + 32 * (i - 24)) (288 + 32 * (i - 24))
  else if i < 28 then s.portBusy (i - 26)
  else if i = 28 then (List.range 8).any fun k => 2 ≤ s.get (R.FVL_STATE k) && s.get (R.FVL_STATE k) ≤ 4
  else if i = 29 then !s.ge.fences.isEmpty || s.sc.threads.any fun e => e.2.st == .ready || e.2.st == .running
  else true

/-- The clock of an island in MHz (Table 1.4). -/
def State.islandMHz (s : State) (i : Nat) : Nat :=
  if i < 16 then 400 * (s.get R.PWR_CUR_PL + 1)
  else if i < 24 then 300 * (s.get R.PWR_CUR_PL + 1)
  else if i < 26 then 1600
  else if i < 29 then 1000
  else if i = 29 then 1200
  else 200

/-- Has an island been idle for IDLE_GATE cycles of its own clock, values below 16 acting as 16 (Table 13.8)? -/
def State.longIdle (s : State) (i : Nat) : Bool :=
  !s.islandBusy i && max 16 (s.get R.PWR_IDLE_GATE) * 1000 ≤ (s.quartz - Sparse.get 0 s.pw.activeAt i) * s.islandMHz i

/-- IDLE_GATE (R327): an island idle for IDLE_GATE of its cycles gates its clock. -/
def execIdleGate (island : Fin 31) (s : State) : Result :=
  if s.pw.gated.contains island.val ∨ s.longIdle island = false then .next s else .next { s with pw.gated := s.pw.gated ++ [island.val] }

/-- ISLAND_UNGATE (R19): the first crossing into a gated island ungates it. -/
def execIslandUngate (island : Fin 31) (s : State) : Result := .next (s.cross island)

/-- DOMAIN_ON of a domain (Table 13.4). -/
def State.setDomain (s : State) (d : Nat) (on : Bool) : State :=
  if d < 32 then s.setBit R.PWR_DOMAIN_ON_LO d on else s.setBit R.PWR_DOMAIN_ON_HI (d - 32) on

/-- Is a domain on? -/
def State.domainOn (s : State) (d : Nat) : Bool :=
  if d < 32 then s.bit R.PWR_DOMAIN_ON_LO d else s.bit R.PWR_DOMAIN_ON_HI (d - 32)

/-- The units of a cluster without power: out of service, nothing held. -/
def State.powerOffCluster (s : State) (i : Nat) : State :=
  if i < 16 then
    let s := (List.range 4).foldl (fun s l => s.updLane i l fun _ => {}) s
    let s := (((s.updHash i fun _ => {}).updFmt i fun _ => {}).settleCluster i).dropInstance i
    (s.setResidents i []).setBit R.GBL_ISLAND_LOCK i false
  else
    let s := (List.range 9).foldl (fun s u => s.updPk (i - 16) u fun _ => {}) s
    (s.settlePkCluster (i - 16)).setBit R.GBL_ISLAND_LOCK i false

/-- Is cluster `i` (0-15 cipher, 16-23 public-key) out of service and drained (R328)? -/
def State.clusterDrained (s : State) (i : Nat) : Bool :=
  if i < 16 then s.get (R.BLK_FREEZE (pgSEQ i)) == 1 && (s.busyIn i).isEmpty && !s.bit R.GBL_CC_INSERVICE i
  else s.get (R.BLK_FREEZE (pgPK (i - 16))) == 1 && s.pkDrained (i - 16) && !s.bit R.GBL_PK_INSERVICE (i - 16)

/-- Is a cluster off under R328? -/
def State.clusterOff (s : State) (i : Nat) : Bool := if i < 16 then s.bit R.PWR_CC_OFF i else s.bit R.PWR_PK_OFF (i - 16)

/-- CC_OFF or PK_OFF of a cluster. -/
def State.setClusterOff (s : State) (i : Nat) (off : Bool) : State :=
  if i < 16 then s.setBit R.PWR_CC_OFF i off else s.setBit R.PWR_PK_OFF (i - 16) off

/-- Is the module in S0 (S1 gates clocks only): awake, or entering sleep and not yet past the point of no return? -/
def State.inS0 (s : State) : Bool := s.pw.phase == .awake || s.pw.phase == .entering

/-- CLUSTER_POWER_OFF (R328): in S0 acts on a drained cluster that is out of service; ignored otherwise, the bit reading back 0. Flint no longer waits for
the cluster's instance (R228). -/
def execClusterPowerOff (cluster : Fin 24) (s : State) : Result :=
  if !s.responds pgPWR ∨ !s.inS0 then .next s else
  if s.clusterDrained cluster ∧ ¬ s.clusterOff cluster then
    .next (((s.setClusterOff cluster true).powerOffCluster cluster).setDomain cluster false).settleReady
  else .next s

/-- A cluster powers on and repeats its start-up: its units' tests run (R150, R184). -/
def State.powerOnCluster (s : State) (i : Nat) : State :=
  let s := s.setBit R.GBL_ISLAND_LOCK i true
  if i < 16 then s.resetUnits i else s.resetPkUnits (i - 16)

/-- CLUSTER_POWER_ON (R328): the bit cleared in S0: the cluster repeats its start-up. -/
def execClusterPowerOn (cluster : Fin 24) (s : State) : Result :=
  if !s.responds pgPWR ∨ !s.inS0 then .next s else
  if s.clusterOff cluster then
    .next (((s.setClusterOff cluster false).setDomain cluster true).powerOnCluster cluster)
  else .next s

/-! ## Held pads (R333) -/

/-- REL_SD (R333): the card and SD pads are released, where their domain (41) is on. -/
def execRelSd (s : State) : Result :=
  if !s.responds pgPWR then .next s else
  if s.domainOn 41 then .next { s with pw.heldSd := false } else .next s

/-- REL_CARD (R333): the smart-card pads are released, where their domain (42) is on. -/
def execRelCard (s : State) : Result :=
  if !s.responds pgPWR then .next s else
  if s.domainOn 42 then .next { s with pw.heldCard := false } else .next s

end Sys2Proof.Machine
end

