-- ==== Sys2Proof/Machine/Pair.lean ====
section
/-! DEFINITION. Active and standby pairs: claims, health reports, demotion, takeover, handover and resynchronisation (R336-R350). -/
namespace Sys2Proof.Machine

/-! ## The gate back to IDLE (R279, R349) -/

/-- The gate is IDLE: no change set, no seal, no approvals. -/
def State.closeGate (s : State) : State :=
  let s := (((s.set R.GATE_STATE 0).set R.GATE_CLASS 0).set R.GATE_SCOPE_PART 0).set R.GATE_SCOPE_MOD 0
  let s := ((s.set R.GATE_ENTRIES 0).set R.GATE_APPR1_OID 0).set R.GATE_APPR1_ROLE 0
  { s with gt := { s.gt with set := [], appr1 := none, appr2 := none } }.dropCardApproval

/-- The partitions an apply froze from ACTIVE return to it (R261). -/
def State.thawFrozen (s : State) : State :=
  let ps := s.gt.froze
  ps.foldl (fun s p => if (s.part p).gateFroze ∧ (s.part p).pstate = .frozen then s.thawPart p else s) { s with gt.froze := [] }

/-- A T3 or T4 response discards the change set; one in COMPLETING stands (R279). -/
def State.discardChange (s : State) : State := if s.get R.GATE_STATE = 5 then s else s.closeGate.thawFrozen

/-! ## Roles -/

/-- The partner's serial number, as committed. -/
def State.partnerSerial (s : State) : Nat := s.get R.PAIR_PARTNER_SN_LO + 2 ^ 32 * s.get R.PAIR_PARTNER_SN_HI

/-- Does this module take the tie: mark A, or on a strap conflict the lower serial number (R337)? -/
def State.isMarkA (s : State) : Bool :=
  if s.get R.PAIR_SEL_CONFLICT = 1 then Config.serial.toNat < s.partnerSerial else !Config.markB

/-- The mode a serving module has: BARE without a tenant and outside a domain, else SERVICE (R386). -/
def State.servingMode (s : State) : Mode := if s.tenants.isEmpty ∧ ¬ s.enrolled then .bare else .service

/-- The byte of the partner's last report. -/
def State.partnerByte (s : State) (i : Nat) : Nat := (s.pr.partner.getD i 0).toNat

/-- The module becomes active: at the end of BOOT, or as the last steps of a takeover (R346 steps 3 and 4), its gate IDLE (Table 14.3). The partner that handed
over stays SYNCED (R347), one that failed is UNSYNCED (R348). -/
def State.becomeActive (s : State) : State :=
  let s := { s.set R.PAIR_ROLE 1 with pr.waiting := false }
  match s.pr.taking with
  | none => s.enterMode s.servingMode
  | some t =>
    let handed := s.pr.handed
    let s : State := { s.discardChange with pr.taking := none, pr.handed := false }
    let s := (s.parts.filter fun e => e.2.pstate == .draining).foldl (fun s e => s.freezePart e.1) s
    let s := (s.enterMode (if s.partnerByte 9 = 1 then .bare else .service)).severity 3
    let s := ((s.countSat R.PAIR_TAKEOVER_CNT).set R.PAIR_SYNC (if handed then 2 else 0)).raise pgPAIR 0
    s.set R.PAIR_TAKEOVER_US (min 65535 ((s.quartz - t) / 1000))

/-- The module withdraws its claim and is the standby, in SHADOW (R338). -/
def State.withdraw (s : State) : State :=
  let s := { s.set R.PAIR_ROLE 2 with pr.claimOut := false, pr.waiting := false, pr.taking := none, pr.handed := false }
  (s.enterMode .shadow).settleTake

/-- The claim asserted (R338 step 2). -/
def State.claim (s : State) : State :=
  { s.set R.PAIR_ROLE 3 with pr.claimOut := true, pr.claimAt := s.quartz, pr.waiting := false, pr.stuck := false, pr.takeAt := none }

/-- At the end of BOOT a paired module claims, or enters SHADOW where the partner's claim stands (R338). -/
def State.bootClaim (s : State) : State :=
  if s.pr.claimIn then (s.set R.PAIR_SYNC 0).withdraw else s.claim

/-- CLAIM_TIE (R338): from 2 µs after the claim the input is sampled: no second claim makes the module active; on a tie mark B withdraws and mark A
waits. -/
def execClaimTie (s : State) : Result :=
  if s.get R.PAIR_ROLE ≠ 3 ∨ s.quartz < s.pr.claimAt + 2000 then .next s
  else if !s.pr.claimIn then .next s.becomeActive
  else if s.isMarkA then .next { s with pr.waiting := true }
  else .next s.withdraw

/-- STUCK_CLAIM (R338): the partner's claim has stood for 100 µs after the tie; it is told once of each claim. -/
def execStuckClaim (s : State) : Result :=
  if s.pr.waiting ∧ s.pr.claimIn ∧ s.pr.claimAt + 102000 ≤ s.quartz ∧ s.pr.stuck = false then
    .next { (s.set R.PAIR_STUCK_CLAIM 1).raise pgPAIR 6 with pr.stuck := true }
  else .next s

/-- Every staged and running command ended as the module's own abort, held completions written (R340). -/
def State.endAllCommands (s : State) : State :=
  let gone := s.hq.staged ++ s.hq.fwdOut.map (·.cmd)
  let s : State := { s with hq := { s.hq with staged := [], fwdOut := [] } }
  let s := gone.foldl (fun s c => s.endStaged c stAborted 4) s
  let s := s.running.foldl (fun s e => s.endCommand e.1 stAborted 4) s
  s.releaseHeld fun _ => true

/-- The outputs low and nothing waiting for the standby. -/
def State.dropRole (s : State) : State :=
  { s with pr := { s.pr with claimOut := false, relinquishing := false, unacked := [], conflictAt := none, told := false } }

/-- The active role given up (R340): outputs low, every staged and running command ended, SHADOW, UNSYNCED. A gate change that is not COMPLETING and every
destruction fence are lost with the role (R350). -/
def State.demote (s : State) : State :=
  let s := ((s.countSat R.PAIR_DEMOTE_CNT).raise pgPAIR 4).severity 3
  let s := ((((s.set R.PAIR_ROLE 2).set R.PAIR_SYNC 0).set R.PAIR_LAG 0).set R.PAIR_RESYNC_LEFT 0).dropRole.endAllCommands
  let s := s.dropFences.discardChange
  if s.mode = .responded then s else s.enterMode .shadow

/-- DEMOTE (R340): an active module has lost its fitness; in MAINTENANCE it waits for the apply to end (R387), and asleep it keeps its claim (R336). -/
def execDemote (s : State) : Result :=
  if s.get R.PAIR_ROLE = 1 ∧ ¬ s.fit ∧ s.mode ≠ .maintenance ∧ s.pr.kept = none then .next s.demote else .next s

/-- CLAIM_CONFLICT (R339): an active module has seen the partner's claim for 2 µs; mark B demotes, from MAINTENANCE once the
apply has ended (R387), and its health falls with its claim (R340). A claim that stands is told once. -/
def execClaimConflict (s : State) : Result :=
  let stays : Bool := s.isMarkA || s.mode == .maintenance
  match s.pr.conflictAt with
  | none => .next s
  | some t =>
    if s.get R.PAIR_ROLE ≠ 1 ∨ !s.pr.claimIn ∨ s.quartz < t + 2000 ∨ (s.pr.told = true ∧ stays) then .next s
    else
      let s := { (s.set R.PAIR_CLAIM_CONFLICT 1).raise pgPAIR 6 with pr.told := true }
      .next (if stays then s else { s.demote with pr.healthLow := true }.settleTake)

/-- HOSTLOSS (R340): both ports have been down for 1 ms with HOSTLOSS_EN set. -/
def execHostloss (s : State) : Result :=
  match s.pr.hostDown with
  | none => .next s
  | some t =>
    if s.get R.PAIR_HOSTLOSS_EN = 0 ∨ s.quartz < t + 1000000 then .next s
    else .next ({ s with pr.hostLost := true }.settleTake)

/-- INTERLOCK_INPUT_CHANGE (R338, R339, R345): the inputs take new levels: a mark A module that waits becomes active once the partner's claim
has gone, and the counts of a conflict and of a takeover start or stop. Health held low after a handover or a conflict follows R340 again once the partner's claim
stands or has stood (DESIGN CHOICE, log 234: no rule says when). -/
def execInterlockInputChange (claimIn healthIn : Bool) (s : State) : Result :=
  let conflict := if claimIn ∧ s.get R.PAIR_ROLE = 1 then some (s.pr.conflictAt.getD s.quartz) else none
  let s : State := { s with
    pr := { s.pr with claimIn, healthIn, conflictAt := conflict, told := s.pr.told && conflict.isSome,
                      healthLow := s.pr.healthLow && !claimIn && !s.pr.claimIn } }
  if s.pr.waiting ∧ ¬ claimIn then .next s.becomeActive else .next s.settleTake

/-! ## Health reports and self-tests (R341, R342) -/

/-- The health report (Table 14.2). -/
def State.healthReport (s : State) : List Byte :=
  fitBytes 32 (leBytes 8 Config.serial.toNat ++ leBytes 1 (s.get R.PAIR_ROLE + 4 * b2n Config.markB) ++ leBytes 1 s.mode.code ++
    leBytes 2 (s.get R.GBL_CC_INSERVICE) ++ leBytes 1 (s.get R.GBL_PK_INSERVICE) ++ leBytes 1 (s.get R.PWR_TJ) ++
    leBytes 1 (s.get R.PAIR_SYNC) ++ leBytes 1 s.pr.lastTest ++ leBytes 4 (s.get R.PAIR_DSEQ_LO) ++ leBytes 4 (s.get R.PAIR_DSEQ_HI))

/-- HEALTH_REPORT_SEND (R341): every 1 ms, on the unit that PAIR_RPT (feature 2) holds. -/
def execHealthReportSend (s : State) : Result :=
  if s.get R.PAIR_PAIR_EN = 0 ∨ s.booting = true ∨ s.hasUnit 2 = false ∨ s.quartz < s.pr.nextReport then .next s
  else .next ({ s.fire 2 with pr.nextReport := s.quartz + 1000000 }.tellPartner fun k => .healthReport k s.healthReport)

/-- The standby's SYNC follows what the active reports of it (R344, R348); one that restarted stays UNSYNCED until a resynchronisation reaches it. -/
def State.adoptSync (s : State) (v : Nat) : State :=
  if s.get R.PAIR_ROLE ≠ 2 ∨ s.get R.PAIR_SYNC = 0 ∨ s.get R.PAIR_SYNC = v then s
  else
    let t := s.set R.PAIR_SYNC v
    (if v = 2 then t.raise pgPAIR 1 else if v = 3 then t.raise pgPAIR 2 else t).resettleTake s.syncAllows

/-- LAG, and the lines a resynchronisation still has to send, by the deltas not acknowledged. -/
def State.settleLag (s : State) : State :=
  let s := s.set R.PAIR_LAG (min 65535 s.pr.unacked.length)
  s.set R.PAIR_RESYNC_LEFT (s.pr.unacked.filter fun u => s.pr.resyncFrom < u.1 ∧ u.1 ≤ s.pr.resyncTo).length

/-- A delta of a resynchronisation, on the link that carries it (Table 15.1). -/
def State.resyncDelta (s : State) (d : Delta) : State := (s.sendDeltaOn s.secondLink d).1

/-- The deltas that carry the partition states, epochs and roots (R348 step 1). -/
def State.sendParts (s : State) : State :=
  s.parts.foldl (fun s e =>
    let s := s.resyncDelta (.roots e.1 e.2.proot e.2.droot e.2.mroot)
    (s.resyncDelta (.roll e.1 e.2.tepoch e.2.prevOk)).resyncDelta (.pstate e.1 e.2.pstate)) s

/-- The committed state, a change in COMPLETING with it. -/
def State.committedNow (s : State) : Flash := if s.get R.GATE_STATE = 5 then s.committed s.gateSeq s.gateSeq else s.gt.flash

/-- The partner link line `i` of a resynchronisation takes: FVL0 and FVL1 together while both are UP (R348 step 2). -/
def State.lineLink (s : State) (i : Nat) : Option Nat := if s.linkUp 0 && s.linkUp 1 then some (i % 2) else s.secondLink

/-- A resynchronisation starts on the active (R348): the committed state, the partitions' states and roots, then every live and tombstone line. Nothing waits for
the standby any more (R344). -/
def State.startResync (s : State) : State :=
  let lines := s.ge.lines.filter fun e => e.2.record.isSome
  let s := (s.set R.PAIR_SYNC 1).releaseHeld fun _ => true
  let s := ((s.resyncDelta (.committed s.committedNow)).sendParts).resyncDelta (.resync lines.length)
  let s : State := { s with pr.resyncFrom := s.get R.PAIR_DSEQ_LO + 2 ^ 32 * s.get R.PAIR_DSEQ_HI }
  let s := lines.zipIdx.foldl (fun s e => (s.sendDeltaOn (s.lineLink e.2) (.line e.1.1 e.1.2)).1) s
  { s with pr.resyncTo := s.get R.PAIR_DSEQ_LO + 2 ^ 32 * s.get R.PAIR_DSEQ_HI }.settleLag

/-- HEALTH_REPORT_RECEIVE (R337, R341): a report of the expected partner is kept, any other discarded; equal marks are a conflict, and a module that waits after
a tie which it does not win any more withdraws. The standby follows the SYNC its active reports; the active resynchronises a standby that reports UNSYNCED (R348). -/
def execHealthReportReceive (report : List Byte) (s : State) : Result :=
  let r := fitBytes 32 report
  if s.get R.PAIR_PAIR_EN = 0 ∨ numAt r 0 8 ≠ s.partnerSerial then .next s
  else
    let s := { (s.set R.PAIR_PARTNER_RPT (numAt r 8 4)).set R.PAIR_REPORT_LOST 0 with pr.partner := r, pr.lastReport := s.quartz }
    let s := s.set R.PAIR_SEL_CONFLICT (b2n (bitOf (numAt r 8 1) 2 == Config.markB))
    let unsynced := numAt r 8 1 % 4 == 2 && numAt r 14 1 == 0 && s.get R.PAIR_ROLE == 1 && s.get R.PAIR_SYNC != 1
    let yields : Bool := s.get R.PAIR_ROLE == 3 && s.pr.waiting && s.pr.claimIn && !s.isMarkA
    .next (if yields then s.withdraw else if numAt r 8 1 % 4 = 1 then s.adoptSync (numAt r 14 1) else if unsynced then s.startResync else s)

/-- REPORT_LOST (R341): no valid report for 3 ms. -/
def execReportLost (s : State) : Result :=
  if s.get R.PAIR_PAIR_EN = 1 ∧ s.booting = false ∧ s.get R.PAIR_REPORT_LOST = 0 ∧ s.pr.lastReport + 3000000 ≤ s.quartz then
    .next ((s.set R.PAIR_REPORT_LOST 1).raise pgPAIR 3)
  else .next s

/-- The state of an answer that is a next state; `s` otherwise. -/
def Result.stateOr (r : Result) (s : State) : State := match r with | .next t => t | .fault _ | .refused _ => s

/-- A unit's test in the order of R342: lanes, hash units, format units, engines, lattice units; a failed one leaves service. -/
def State.selfTest (s : State) (i : Nat) (pass : Bool) : State :=
  if i < 96 then
    let c := if i < 64 then i / 4 else (i - 64) % 16
    let u := if i < 64 then i % 4 else if i < 80 then 4 else 5
    let s := s.updSvc c u fun v => { v with katBusy := true }
    Result.stateOr (execKatComplete (Fin.ofNat 16 c) (Fin.ofNat 6 u) pass true s) s
  else
    let p := if i < 160 then (i - 96) / 8 else i - 160
    let u := if i < 160 then (i - 96) % 8 else 8
    let s := s.updPk p u fun x => { x with svc := { x.svc with katBusy := true } }
    Result.stateOr (execPkKatComplete (Fin.ofNat 8 p) (Fin.ofNat 9 u) pass true s) s

/-- ST_PERIOD_US clamped to 10-1,000, in ns. -/
def State.testNs (s : State) : Nat := 1000 * max 10 (min 1000 (s.get R.PAIR_ST_PERIOD_US))

/-- SELF_TEST_STEP (R342): in SHADOW the next unit's known-answer test runs. `result` is 0 pass, 1 the test fails, 2 an HBM uncorrectable error,
3 a link error rate above its limit (Table 14.2). -/
def execSelfTestStep (result : Fin 4) (s : State) : Result :=
  if s.mode ≠ .shadow ∨ s.quartz < s.pr.nextTest then .next s
  else
    let s' := s.selfTest s.pr.testUnit (result.val != 1)
    let s' : State := { s' with pr := { s'.pr with nextTest := s.quartz + s.testNs, testUnit := (s.pr.testUnit + 1) % 168, lastTest := result } }
    .next (if result.val = 0 then s' else s'.countSat R.PAIR_ST_FAIL_CNT)

/-! ## Deltas (R343, R344) -/

/-- DELTA_ACK (R344, R348): the standby has applied the deltas up to `dseq`: completions that wait for them are written, and a
resynchronisation whose lag reaches 0 is SYNCED. -/
def execDeltaAck (dseq : Nat) (s : State) : Result :=
  let s : State := { s with pr.unacked := s.pr.unacked.filter fun u => dseq < u.1 }
  let s := s.settleLag.releaseHeld fun h => h.dseq ≤ dseq
  if s.get R.PAIR_ROLE = 1 ∧ s.get R.PAIR_SYNC = 1 ∧ s.pr.unacked.isEmpty then .next ((s.set R.PAIR_SYNC 2).raise pgPAIR 1)
  else .next s

/-- The standby is no longer in step: PAIR INT_RAW bit 2, and nothing waits for it (R344, R350). -/
def State.outOfSync (s : State) : State := ((s.set R.PAIR_SYNC 3).raise pgPAIR 2).releaseHeld fun _ => true

/-- SYNC_TIMEOUT (R344): a delta has gone 50 µs without an acknowledgement; nothing waits for the standby any more. -/
def execSyncTimeout (s : State) : Result :=
  if s.get R.PAIR_ROLE = 1 ∧ s.get R.PAIR_SYNC = 2 ∧ (s.pr.unacked.any fun u => u.2 + 50000 ≤ s.quartz) then
    .next s.outOfSync
  else .next s

/-! ## Takeover, handover and resynchronisation (R345-R348) -/

/-- A takeover starts: the standby claims (R346 step 1). -/
def State.startTakeover (s : State) : State := { s.claim with pr.taking := some s.quartz, pr.heldSync := false }

/-- TAKEOVER (R345, R346): the conditions have held for 200 µs; without SYNC the module waits, PAIR INT_RAW bit 5. -/
def execTakeover (s : State) : Result :=
  match s.pr.takeAt with
  | none => .next s
  | some t =>
    if !s.mayTake ∨ s.get R.PAIR_ROLE ≠ 2 ∨ s.quartz < t + 200000 then .next s
    else if s.syncAllows then .next s.startTakeover
    else if s.pr.heldSync then .next s
    else .next ({ s with pr.heldSync := true }.raise pgPAIR 5)

/-- TAKE (R346): a takeover held for SYNC starts; refused where none is. -/
def execTake (s : State) : Result :=
  if !s.responds pgPAIR then .next s else
  if s.pr.heldSync ∧ s.mayTake ∧ s.get R.PAIR_ROLE = 2 then .next ((s.set R.PAIR_CMD_RESULT 1).startTakeover)
  else .next (s.set R.PAIR_CMD_RESULT 2)

/-- RELINQUISH (R347): the active stops fetching; refused unless the partner reports SHADOW, SYNCED and healthy. -/
def execRelinquish (s : State) : Result :=
  if !s.responds pgPAIR then .next s else
  if s.get R.PAIR_ROLE = 1 ∧ s.partnerByte 9 = 4 ∧ s.partnerByte 14 = 2 ∧ s.get R.PAIR_SYNC = 2 ∧ s.pr.healthIn then
    .next { s.set R.PAIR_CMD_RESULT 1 with pr.relinquishing := true }
  else .next (s.set R.PAIR_CMD_RESULT 2)

/-- RELINQUISH_DRAINED (R347): the backlog is 0 in every partition: the handover message, claim and health low, SHADOW, SYNCED. -/
def execRelinquishDrained (s : State) : Result :=
  if s.pr.relinquishing ∧ s.mode ≠ .maintenance ∧ s.hq.staged.isEmpty ∧ s.running.isEmpty ∧ s.hq.fwdOut.isEmpty ∧ s.hq.held.isEmpty then
    let s := s.tellPartner fun k => .handover k
    let s := { s.set R.PAIR_ROLE 2 with pr := { s.pr with relinquishing := false, claimOut := false, healthLow := true, conflictAt := none, told := false } }
    .next (s.enterMode .shadow)
  else .next s

/-- HANDOVER (R347): the standby receives the handover message and takes over without waiting. -/
def execHandover (s : State) : Result :=
  if s.get R.PAIR_ROLE = 2 ∧ s.mode = .shadow ∧ s.healthOut then .next { s.startTakeover with pr.handed := true } else .next s

/-- RESYNC (R348): on the active the committed state, the partitions' states and roots and every live and tombstone line are sent; a standby asks
for it. -/
def execResync (s : State) : Result :=
  if !s.responds pgPAIR then .next s else
  let s := s.set R.PAIR_CMD_RESULT 1
  if s.get R.PAIR_ROLE = 1 then .next s.startResync
  else if s.get R.PAIR_ROLE = 2 then .next (s.tellPartner fun k => .resyncRequest k)
  else .next (s.set R.PAIR_CMD_RESULT 2)

end Sys2Proof.Machine
end

