-- ==== Sys2Proof/Machine/Fvl.lean ====
section
/-! DEFINITION. The Flaiviran links: training, handshakes, flits, loss, key ratchets and resets (R352-R359, R374, R378, R379). -/
namespace Sys2Proof.Machine

/-- Commands outstanding on a forwarding link that went down end with ABORTED, DETAIL 4 (R377). -/
def State.dropForwarded (s : State) (k : Nat) : State :=
  let gone := s.hq.fwdOut.filter (·.link == k)
  let s : State := { s with hq.fwdOut := s.hq.fwdOut.filter (·.link != k) }
  gone.foldl (fun s x => s.finish none x.cmd { status := stAborted, detail := 4 }) s

/-- A link goes DOWN with a cause (Table 15.5): its keys are zeroed; a session lost is counted; a ring link that was UP is wrapped (R374); an
active module that loses both partner links has its standby OUT_OF_SYNC (R350). -/
def State.linkDown (s : State) (k cause : Nat) : State :=
  let was := s.linkOpen k
  let up := s.linkUp k
  let s := ((s.set (R.FVL_STATE k) 0).set (R.FVL_DOWN_CAUSE k) cause).set (R.FVL_PEER_READY k) 0
  let s := s.updLink k fun l => { refusals := l.refusals }
  let s := if was then ((s.countSat (R.FVL_RETRAINS k)).raise (pgFVL k) 1).severity 2 else s
  let s := if up then s.wrapRing k else s
  let lost := was ∧ isPartnerLink k ∧ ¬ s.linkOpen (1 - k) ∧ s.get R.PAIR_ROLE = 1 ∧ (s.get R.PAIR_SYNC = 1 ∨ s.get R.PAIR_SYNC = 2)
  let s := if lost then s.outOfSync else s
  (if isForwardLink k then s.dropForwarded k else s).settleTree

/-- Every link DOWN: reset, sleep, T3 or T4 (R359). -/
def State.allLinksDown (s : State) : State := (List.range 8).foldl (fun s k => s.linkDown k 5) s

/-- The ephemeral ECDH P-384 public key of a scalar's bytes (R358). -/
def ephemeralPoint (bs : List Byte) : List Byte := curveP384.encode false (curveP384.mul (curveP384.scalar bs) (some curveP384.g))

/-- LINK_TRAINED (R354, R358): electrical training and FEC lock are complete and the handshake begins: this end draws its ephemeral key and its nonce and sends
its hello. Whose key its encapsulation is for the spec does not say, so its bytes are free (DESIGN CHOICE, log 233). -/
def execLinkTrained (k : Fin 8) (s : State) : Result :=
  if s.get (R.FVL_STATE k) ≤ 1 ∧ s.get (R.BLK_ENABLE (pgFVL k)) = 1 ∧ s.domainOn (28 + k / 2) ∧ ¬ s.inReset then
    let (scalar, s) := s.draw 64
    let (nonce, s) := s.draw 32
    let s := (s.set (R.FVL_STATE k) 2).updLink k fun l => { l with ephemeral := scalar, nonce }
    .next (s.emit (.hello k (ephemeralPoint scalar) (Config.linkEncaps k nonce) Config.serial.toNat (s.get R.FVL0_MEMBER_NO) nonce))
  else .next s

/-- The transcript of a handshake (R358): what it holds the spec says only in part, so its bytes are free. -/
def State.transcript (s : State) (k : Nat) (h : Hello) : List Byte :=
  Config.linkTranscript k (s.link k).nonce (leBytes 8 h.peer.toNat ++ leBytes 2 h.member.val ++ h.shared)

/-- This end's proof in a handshake (R358): the transcript signed with both device attestation keys, and the CMAC that proves the domain master secret on a link
other than a partner link. -/
def State.sendProof (s : State) (k : Nat) (h : Hello) : State :=
  let text := s.transcript k h
  let (r, s) := s.draw 64
  let (rnd, s) := s.draw 32
  let gen := s.lc.devKeys
  let ecdsa := curveP384.sign (Config.deviceScalar gen) (curveP384.scalar r) (sha384 text)
  let mldsa := (((dsaSet 1).sign [] (deviceDsa gen).2 (0 :: text) rnd).map (·.1)).getD []
  s.emit (.proof k ecdsa mldsa (if isPartnerLink k || !s.enrolled then [] else cmac 0 s.dm.secret text))

/-- A traffic key (0 sends, 1 receives), or a salt (2, 3): the SP 800-108 counter KDF over both shared secrets, and the domain master secret where the link takes
it in (R358). How they are joined, and the labels, the spec does not say: both are free. -/
def linkSecret (what : Nat) (shared secret : List Byte) : List Byte := kdfCmac (fitBytes 32 (Config.linkSeed shared secret)) (Config.linkLabel what) []

/-- SPONSOR_SN or JOIN_SN as committed. -/
def State.joinSerial (s : State) : Nat := s.get R.FVL0_JOIN_SN_LO + 2 ^ 32 * s.get R.FVL0_JOIN_SN_HI
def State.sponsorSerial (s : State) : Nat := s.get R.FVL0_SPONSOR_SN_LO + 2 ^ 32 * s.get R.FVL0_SPONSOR_SN_HI

/-- Does this end authorise the peer (R353, R358): the partner's serial on a partner link, the domain master secret on any other, or an enrolment
session's serial? A peer with this member's own number is refused. -/
def State.authorises (s : State) (k : Nat) (h : Hello) : Bool :=
  h.sigsOk && h.member.val != s.get R.FVL0_MEMBER_NO &&
  (if isPartnerLink k then h.peer.toNat == s.partnerSerial
   else (s.enrolled && h.proofOk) ||
     (!s.enrolled && s.sponsorSerial != 0 && h.peer.toNat == s.sponsorSerial) ||
     (s.enrolled && s.joinSerial != 0 && h.peer.toNat == s.joinSerial))

/-- HANDSHAKE (R358): the peer's hello has come: this end proves itself, and the session opens, NOT_READY, with its traffic keys and salts, or is refused with
DOWN_CAUSE 4; three refusals within 10 s put the link in FAILED. -/
def execHandshake (k : Fin 8) (h : Hello) (s : State) : Result :=
  if s.get (R.FVL_STATE k) ≠ 2 then .next s
  else
  let s := s.sendProof k h
  if s.authorises k h then
    let secret := if isPartnerLink k then [] else s.dm.secret
    let s := s.updLink k fun l =>
      { txKey := linkSecret 0 h.shared secret, rxKey := linkSecret 1 h.shared secret, txSalt := (linkSecret 2 h.shared secret).take 4,
        rxSalt := (linkSecret 3 h.shared secret).take 4, lastFlit := s.quartz, lastSent := s.quartz, refusals := l.refusals }
    let s := ((s.set (R.FVL_PEER_SN_LO k) h.peer.toNat).set (R.FVL_PEER_SN_HI k) (h.peer.toNat / 2 ^ 32)).set (R.FVL_PEER_MEMBER k) h.member
    .next ((s.set (R.FVL_STATE k) 3).set (R.FVL_DOWN_CAUSE k) 0)
  else
    let recent := ((s.link k).refusals ++ [s.quartz]).filter fun t => s.quartz < t + 10000000000
    let s := (s.updLink k fun l => { l with refusals := recent }).raise (pgFVL k) 3
    .next ((s.set (R.FVL_STATE k) (if 3 ≤ recent.length then 5 else 0)).set (R.FVL_DOWN_CAUSE k) 4)

/-! ## Flits (R355-R357) -/

/-- The flits a peer asks to have resent: the last of the replay buffer, as they were sent (R356). -/
def State.resend (s : State) (k n : Nat) : State :=
  let old := (s.link k).replay
  (old.drop (old.length - n)).foldl (fun s bs => s.emit (.flit k bs)) (s.countSat (R.FVL_REPLAYS k) (min n old.length))

/-- The payload of a good flit delivered in order on its VC: it joins the message that is arriving, which END completes (Table 15.2, R356). Idle and NOT_READY flits
carry none, and one of a reserved TYPE is delivered nowhere (DESIGN CHOICE, log 232). -/
def Link.deliver (l : Link) (bs payload : List Byte) : Link :=
  if flitType bs < 2 ∨ 8 ≤ flitType bs then l
  else
    let vc := flitVc bs
    let got := Sparse.get [] l.parts vc ++ payload
    if flitEnd bs then { l with parts := Sparse.set [] l.parts vc [], messages := Sparse.set [] l.messages vc got }
    else { l with parts := Sparse.set [] l.parts vc got }

/-- IDLE_FLIT_SEND (R356, Table 15.3): with nothing else to send for a microsecond the transmitter sends an idle flit, or NOT_READY. -/
def execIdleFlitSend (k : Fin 8) (s : State) : Result :=
  if !s.linkOpen k ∨ s.quartz < (s.link k).lastSent + 1000 then .next s
  else .next (s.sendFlit k (if s.linkReady then 0 else 1) 0 true (Config.idlePayload k (s.link k).ratchetTx.txCount))

/-- LINK_SILENCE (R356): no valid flit for 10 µs. -/
def execLinkSilence (k : Fin 8) (s : State) : Result :=
  if s.linkOpen k ∧ (s.link k).lastFlit + 10000 ≤ s.quartz then .next (s.linkDown k 1) else .next s

/-- KEY_RATCHET (R357): a direction has carried 2^36 flits: its key is ratcheted and its counter restarts. -/
def execKeyRatchet (k : Fin 8) (sends : Bool) (s : State) : Result :=
  let l := s.link k
  if !s.linkOpen k ∨ (if sends then l.txCount else l.rxCount) < 2 ^ 36 then .next s
  else .next (s.updLink k fun l => if sends then l.ratchetTx else l.ratchetRx)

/-- LINK_RETRY (R379): a FAILED link retrains. -/
def execLinkRetry (k : Fin 8) (s : State) : Result :=
  if !s.responds (pgFVL k) then .next s else
  if s.get (R.FVL_STATE k) = 5 then .next ((s.updLink k fun l => { l with refusals := [] }).set (R.FVL_STATE k) 1) else .next s

/-- The wake ordered set (R378): 128 bits, sent 16 times. -/
def wakeOrderedSet : Nat := 0x5A3C96F00FF0A55AC33C69E11E87B44B

/-- WAKE_SEND (R378): a DOWN link sends the wake ordered set once. -/
def execWakeSend (k : Fin 8) (s : State) : Result :=
  if !s.responds (pgFVL k) then .next s else
  if s.get (R.FVL_STATE k) = 0 then .next (s.emit (.wakePattern k wakeOrderedSet 16)) else .next s

/-- FVL_SOFT_RESET (R379): the link goes DOWN and retrains. -/
def execFvlSoftReset (k : Fin 8) (s : State) : Result :=
  if !s.responds (pgFVL k) then .next s else
  let s := s.linkDown k 5
  .next (if s.get (R.BLK_ENABLE (pgFVL k)) = 1 ∧ s.domainOn (28 + k / 2) then s.set (R.FVL_STATE k) 1 else s)

end Sys2Proof.Machine
end

