-- ==== Sys2Proof/Machine/Domain.lean ====
section
/-! DEFINITION. The key domain: domain time, replication, epoch schedules and forwarded work (R361-R377). -/
namespace Sys2Proof.Machine

/-! ## Domain time (R363-R365) -/

/-- DT_ERR as it stands: what the last discipline left, and 1 ns for each millisecond of holdover since. -/
def State.dtErr (s : State) : Nat :=
  match s.dm.lostAt with
  | none => s.get R.FVL0_DT_ERR_NS
  | some t => min 65535 (s.get R.FVL0_DT_ERR_NS + (s.quartz - t) / 1000000)

/-- GM and DT_LOCKED brought to new values: FVL0 INT_RAW bits 11 and 8 where they change. -/
def State.setTime (s : State) (gm locked : Bool) : State :=
  let s := if s.get R.FVL0_GM = b2n gm then s else (s.set R.FVL0_GM (b2n gm)).raise (pgFVL 0) 11
  if s.get R.FVL0_DT_LOCKED = b2n locked then s else (s.set R.FVL0_DT_LOCKED (b2n locked)).raise (pgFVL 0) 8

/-- The grandmaster of a tree's members, each with whether its PPS is locked (R363): among those with PPS locked, or among all where none has, the lowest
MEMBER_NO; `own` and `locked` are this member's. -/
def grandmaster (members : List (Nat × Bool)) (own : Nat) (locked : Bool) : Nat :=
  let all := (own, locked) :: members
  let best := if all.any (·.2) then all.filter (·.2) else all
  (best.map (·.1)).foldl min 4095

/-- DELAY_EXCHANGE (R363): a tree link measures its delay; `members` are the other members of the time tree, each with whether its PPS is locked, and over the
link to this member's parent come the parent's time and this member's hops to the grandmaster. The grandmaster keeps its own time; any other member slews toward its
parent's by at most 50 ppm of the time since its last discipline, and never steps. -/
def execDelayExchange (k : Fin 8) (delay : BitVec 24) (members : List (Fin 4096 × Bool)) (parentTime : Option Nat) (depth : BitVec 8) (s : State) : Result :=
  if !s.enrolled ∨ !isTreeLink k ∨ !s.linkUp k then .next s
  else
    let s := s.set (R.FVL_DELAY k) delay.toNat
    let own := s.get R.FVL0_MEMBER_NO
    if grandmaster (members.map fun m => (m.1.val, m.2)) own (s.get R.FVL0_PPS_LOCKED == 1) = own then
      let s := ((s.setTime true true).set R.FVL0_DT_DEPTH 0).set R.FVL0_DT_ERR_NS 0
      .next { s.set R.FVL0_DT_STALE 0 with dm.lostAt := none, dm.parent := none, dm.disciplined := s.quartz }
    else match parentTime with
      | none => .next (s.setTime false (s.get R.FVL0_GM == 0 && s.get R.FVL0_DT_LOCKED == 1))
      | some time =>
        let most : Int := ((s.quartz - s.dm.disciplined) * 50 / 1000000 : Nat)
        let diff : Int := (time : Int) - s.domainTime
        let s := ((s.setTime false true).set R.FVL0_DT_DEPTH depth.toNat).set R.FVL0_DT_ERR_NS ((7 * depth.toNat + 9) / 10)
        let slew := max (-most) (min most diff)
        .next { s.set R.FVL0_DT_STALE 0 with
          dm.offset := s.dm.offset + slew, dm.lostAt := none, dm.parent := some k.val, dm.disciplined := s.quartz }

/-- PPS_EDGE (R364): with PPS_IN (feature 8) on a pin, an edge within 1 ms of PPS_OFFSET aligns the grandmaster and locks; one further off is bad,
and three in a row unlock. -/
def execPpsEdge (s : State) : Result :=
  if !s.enrolled ∨ s.get (R.PAD_EN 8) = 0 then .next s
  else
    let d : Int := (s.domainTime % 1000000000 : Nat) - (s.get R.FVL0_PPS_OFFSET : Int)
    let d := if 500000000 < d then d - 1000000000 else if d < -500000000 then d + 1000000000 else d
    if d.natAbs ≤ 1000000 then
      let s : State := { (s.set R.FVL0_PPS_LOCKED 1).set R.FVL0_PPS_BAD 0 with dm.ppsMissed := 0 }
      .next (if s.get R.FVL0_GM = 1 then { s with dm.offset := s.dm.offset - d } else s)
    else
      let s : State := { (s.set R.FVL0_PPS_BAD 1).raise (pgFVL 0) 14 with dm.ppsMissed := s.dm.ppsMissed + 1 }
      .next (if 3 ≤ s.dm.ppsMissed then s.set R.FVL0_PPS_LOCKED 0 else s)

/-- DT_STALE (R365): in holdover DT_ERR passes 1 µs. -/
def execDtStale (s : State) : Result :=
  if s.dm.lostAt.isSome ∧ 1000 < s.dtErr then .next (s.set R.FVL0_DT_STALE 1) else .next s

/-! ## Replication (R361, R366-R369) -/

/-- ENROLMENT_CATCHUP_DONE (R361, R368): the background transfer of scope 1 records ends. -/
def execEnrolmentCatchupDone (s : State) : Result :=
  if s.dm.catchup then .next ({ s.set R.FVL0_REPL_GAP 0 with dm.catchup := false }.raise (pgFVL 0) 13) else .next s

/-- A replicated record applied where the replication DMA's MPU permits its lines (R265; a record a line of which is denied is not placed): rewrapped under this member's table epoch, judged as R201 judges a load, logged for the partition (R369). A
tombstone of a live record raises a local fence, which writes it when it completes. -/
def State.applyReplica (s : State) (p h : Nat) (l : KeyLine) : State :=
  let key := lineKey p h
  let l := { l with extOf := none, record := l.record.map fun r => { r with owner := p, tepoch := (s.part p).tepoch } }
  let n := match l.liveRecord with | some r => recordLines r.key.material.length | none => 1
  let m := s.mpuCheck 11 .write (128 * s.tablePlace key) (128 * n) p
  let s := m.2
  match (s.judgeLine p h n p l).2.filter fun _ => m.1 with
  | none => s
  | some l =>
    let entry := (h, l.gen)
    let s := s.updPart p fun x =>
      { x with replLost := x.replLost || 65536 ≤ x.replLog.length,
               replLog := (x.replLog ++ [entry]).drop (x.replLog.length + 1 - 65536) }
    if (s.line key).live ∧ ¬ l.live then
      let s := s.markFence key
      let s : State := { s with ge.fences := s.ge.fences ++ [{ line := key, ctx := none, raised := s.quartz, gen := some l.gen }] }
      s.keepMax R.GEO_FENCE_PEAK s.ge.fences.length
    else ({ s with ge.lines := placeLine s.ge.lines key l }.sendDelta (.line key l)).1

/-- A gap of an origin's messages that its neighbours did not resend: REPL_GAP, FVL0 INT_RAW bit 12, and the full catch-up from the tree parent (R368); a member
that has none, the grandmaster, takes it over the link that showed the gap (DESIGN CHOICE, log 253). -/
def State.replGap (s : State) (k : Nat) : State :=
  ((s.set R.FVL0_REPL_GAP 1).raise (pgFVL 0) 12).askCatchup ((s.dm.parent.filter fun j => s.linkUp j).getD k)

/-- Is a line a scope 1 record that is replicated (R366)? -/
def isReplicated (h : Nat) (l : KeyLine) : Bool :=
  handleScope h == 1 && (match l.record with | some r => bitOf r.key.attr 6 | none => false)

/-- Does a record wait for a fence: sixteen are active, or its own line is fenced (R366, R212)? -/
def State.fenceWaits (s : State) (key : Nat) (l : KeyLine) : Bool :=
  (s.line key).live && !l.live && (decide (16 ≤ s.ge.fences.length) || s.fenced key)

/-- A replicated record taken: applied where its partition exists, else counted as discarded (R366). -/
def State.takeReplica (s : State) (p h : Nat) (l : KeyLine) : State :=
  if (s.part p).created then (s.applyReplica p h l).count R.FVL0_REPL_RX else s.countSat R.FVL0_REPL_DISCARD

/-- REPL_MESSAGE (R366): a scope 1 record of another member's change: passed on along the other tree links, and applied where its partition
exists. A message already seen of its origin is dropped, as is one that comes back to its origin; one that skips some the
neighbours no longer hold leaves a gap (R368); one that needs a fence waits until fewer than sixteen are active. -/
def execReplMessage (k : Fin 8) (origin : Fin 4096) (seq : Nat) (part : Fin 1024) (handle : Word) (line : KeyLine) (s : State) : Result :=
  let h := handle.toNat
  let seen := Sparse.get 0 s.dm.seen origin
  if !s.enrolled ∨ !isTreeLink k ∨ !s.linkUp k ∨ seq ≤ seen ∨ origin.val = s.get R.FVL0_MEMBER_NO ∨ !isReplicated h line then .next s
  else if s.fenceWaits (lineKey part h) line then .next s
  else
    let s := if seen ≠ 0 ∧ seen + 1 < seq then s.replGap k else s
    let s : State := { s with dm.seen := Sparse.set 0 s.dm.seen origin seq }
    let s := (s.treeLinks.filter (· != k.val)).foldl (fun s j => s.sendOn j (.forwardRepl j origin seq (lineKey part h) line)) s
    .next (s.takeReplica part h line)

/-! ## Epoch schedules (R370-R372) -/

/-- SCHEDULE_RECEIVE (R371, R372): a schedule with a higher sequence than this member holds becomes the pending one, or is applied at once after
its Ts; one whose epoch is open is acknowledged and ignored. A schedule that is new here goes on along the tree. -/
def execScheduleReceive (part : Fin 1024) (seq epoch ts tov : Nat) (s : State) : Result :=
  let s := s.openEpoch part
  let x := s.part part
  if seq ≤ x.epSeq then .next (s.tellTree fun k => .scheduleAck k part seq false)
  else
    let s := s.updPart part fun x =>
      if epoch ≤ x.epoch then { x with epSeq := seq, epCancelled := false }
      else { x with epSeq := seq, epCancelled := false, epoch := epoch - 1, epPending := some (ts, min tov 60000000000) }
    let s := (s.openEpoch part).tellTree fun k => .schedule k part seq epoch ts tov
    .next (s.tellTree fun k => .scheduleAck k part seq false)

/-- CANCEL_RECEIVE (R372): a pending schedule is removed while this member's time is below its Ts; after it the epoch opened stands, FVL0 INT_RAW
bit 15. A member that never held the schedule has opened nothing by it. A cancellation that is new here goes on along the tree. -/
def execCancelReceive (part : Fin 1024) (seq : Nat) (s : State) : Result :=
  let x := s.part part
  if seq ≤ x.epSeq then .next (s.tellTree fun k => .scheduleAck k part seq false)
  else
    let held : Bool := x.epSeq != 0 && x.epSeq + 1 == seq && !x.epCancelled
    let s := (s.updPart part fun x => { x with epSeq := seq, epCancelled := true }).openEpoch part
    let late : Bool := held && (s.part part).epPending.isNone
    let s := s.updPart part fun x => { x with epPending := none }
    let s := (if late then s.raise (pgFVL 0) 15 else s).tellTree fun k => .cancel k part seq
    .next (s.tellTree fun k => .scheduleAck k part seq late)

/-- EPOCH_BOUNDARY (R370): domain time reaches Ts, and the epoch opens, or Ts + Tov, and the overlap ends (FVL0 INT_RAW bits 9 and 10), on the
unit that EPOCH (feature 3) holds. -/
def execEpochBoundary (part : Fin 1024) (s : State) : Result :=
  if !s.hasUnit 3 then .next s
  else
    let t := s.openEpoch part
    if t ≠ s then .next (t.fire 3)
    else
      let x := s.part part
      if x.overlap ∧ x.epTs + x.epTov ≤ s.domainTime then
        .next (((s.updPart part fun x => { x with overlap := false }).raise (pgFVL 0) 10).fire 3)
      else .next s

/-! ## Forwarded work (R376, R377) -/

/-- May a staged command be forwarded: its partition forwards, its backlog is at the threshold, every key handle is scope 1 or absent, the program
does not use the public-key clusters, and no peer has run nothing of it before? -/
def State.mayForward (s : State) (c : Cmd) : Bool :=
  let x := s.part c.part
  c.peer.isNone && !c.rerun && x.fwdEn && x.fwdThresh ≤ s.backlog c.part &&
  [c.desc.key0, c.desc.key1, c.desc.key2].all (fun h => h == 0xFFFFFFFF || handleScope h == 1) &&
  (match s.imageOf c.desc.program with | some i => !i.usesPkx | none => false)

/-- The oldest staged command that may be forwarded, and the rest. -/
def State.pickForward (s : State) : List Cmd → List Cmd → Option (Cmd × List Cmd)
  | _, [] => none
  | earlier, c :: later =>
    if s.mayForward c ∧ s.mayDispatch c earlier then some (c, earlier ++ later) else s.pickForward (earlier ++ [c]) later

/-- The UP forwarding link with the most advertised capacity, the lower on a tie. -/
def State.forwardLink (s : State) : Option Nat :=
  let room := fun k => if s.linkUp k then (s.link k).capacity else 0
  if room 6 = 0 ∧ room 7 = 0 then none else if room 6 < room 7 then some 7 else some 6

/-- FORWARD_SEND (R376): an eligible staged command goes to a peer, with the input the origin reads: from the host, or from its partition's work window, where a
range past the window's end or an integrity error ends it with ABORTED, DETAIL 2 (R240, R244). -/
def execForwardSend (input : List Byte) (s : State) : Result :=
  match s.forwardLink, s.pickForward [] s.hq.staged with
  | some k, some (c, rest) =>
    if s.windowWaits c 0 c.desc.inLen then .next s else
    match if c.windowIn then s.windowInput c 0 c.desc.inLen else some (fitBytes c.desc.inLen input, s) with
    | none => .next ({ s with hq.staged := rest }.endStaged c stAborted 2)
    | some (sent, s) =>
    let tag := s.dm.nextTag
    let s : State := { s with
      hq := { s.hq with staged := rest, fwdOut := s.hq.fwdOut ++ [{ cmd := c, link := k, tag }] }
      dm := { s.dm with nextTag := tag + 1 } }
    let s := (s.count R.FVL0_FWD_OUT).updLink k fun l => { l with capacity := l.capacity - 1 }
    .next (s.sendOn k (.forward k tag c.part c.desc (if c.desc.inInline then [] else sent)))
  | _, _ => .next s

/-- FORWARD_REQUEST (R376): a peer's command joins the staging buffer of the partition of the same number, under this member's own program enables
and quotas. One that finds no free entry is not taken: a peer sends none beyond the capacity advertised (log 226). -/
def execForwardRequest (k : Fin 8) (tag : Nat) (part : Fin 1024) (desc : List Byte) (s : State) : Result :=
  if !isForwardLink k ∨ !s.linkUp k ∨ s.stagingRoom = 0 then .next s
  else
    let bs := fitBytes 64 desc
    let c : Cmd := { part, desc := readV2 bs, peer := some (k.val, tag), fetched := some s.quartz }
    let s := s.count R.FVL0_FWD_IN
    match s.refuseDescriptor part (badV2 bs) c.desc with
    | some (st, det) => .next (s.finish none c { status := st, detail := det })
    | none =>
      if (s.part part).pstate ≠ .active then .next (s.finish none c { status := stPartitionFrozen })
      else .next (s.stageCmd c)

/-- Did the peer run nothing of a command it ended so (R377)? -/
def ranNothing (a : PeerEnd) : Bool :=
  [stBusyRetry, stKeyNotFound, stFencePending, stProgramDisabled, stModeRefused].contains a.status.val ||
  (a.status.val == stPartitionFrozen && a.cluster.val == 0x1F)

/-- Is the status one that a module writes (Table 2.8)? -/
def writtenStatus (a : PeerEnd) : Bool := a.status.val < 0x14 || 0x80 ≤ a.status.val

/-- The output of a forwarded command written here, to the host or to the partition's work window; the DETAIL of ABORTED where the window refuses it (R240, R244). -/
def State.forwardOutput (s : State) (c : Cmd) (output : List Byte) : State × Option Nat :=
  let bs := output.take c.desc.outLen
  if c.desc.windowOut then
    if !s.windowFits c.part c.desc.outAddr c.desc.outLen then (s, some 3)
    else
      let r := s.dmaWrite (s.dmaMpu c) c.part (s.windowAddr c.part c.desc.outAddr) bs
      (r.1, if r.2 then some 2 else none)
  else match s.qpFunc c.part c.qp with
    | some f => ((s.crossPort f).emit (.hostWrite f c.desc.outAddr bs), none)
    | none => (s, none)

/-- FORWARD_RESPONSE (R376, R377): the peer's answer: its output is written here and its completion carries the peer's ending, or the command
is dispatched here once. An output the work window refuses ends it with ABORTED (R240). -/
def execForwardResponse (k : Fin 8) (tag : Nat) (answer : PeerEnd) (output : List Byte) (wrOk : Bool) (s : State) : Result :=
  match (s.hq.fwdOut.find? fun x => x.link == k.val && x.tag == tag).filter fun _ => writtenStatus answer with
  | none => .next s
  | some x =>
    let s : State := { s with hq.fwdOut := s.hq.fwdOut.filter fun y => !(y.link == k.val && y.tag == tag) }
    if ranNothing answer ∧ ¬ x.cmd.marked then
      .next ({ s with hq.staged := { x.cmd with rerun := true } :: s.hq.staged }.noteDispatch.countSat R.FVL0_FWD_RERUN)
    else
      let r := if x.cmd.desc.outInline ∨ output.isEmpty ∨ refusing answer.status then (s, none) else s.forwardOutput x.cmd output
      let e : Ending :=
        { status := answer.status, detail := answer.detail.toNat, resultLen := answer.resultLen, result := answer.result,
          cluster := answer.cluster, serviceNs := answer.serviceNs + answer.linkNs }
      let e := match r.2 with
        | some det => { e with status := stAborted, detail := det }
        | none => e
      let wrote : Bool := !output.isEmpty
      let s := if refusing e.status then r.1.zeroOutput x.cmd e.status wrote else r.1
      .next (s.finish wrOk x.cmd e)

end Sys2Proof.Machine
end

