-- ==== Sys2Proof/Machine/Reset.lean ====
section
/-! DEFINITION. Module resets and the start of BOOT, and zeroisation (R276, R290, R312, R381, R392). -/
namespace Sys2Proof.Machine

/-! ## Life-cycle fuses (R307, R308) -/

/-- The groups of Table 12.3: state, first bit, fuses. -/
def fuseGroups : List (Nat × Nat × Nat) := [(2, 0, 12), (4, 12, 12), (5, 24, 12), (6, 36, 12), (7, 48, 16)]

/-- The fuses a transition to state `t` still programs, in order: the target's group, then every lower group, ascending. -/
def fusesTo (t w : Nat) : List Nat :=
  let bits := fun (g : Nat × Nat × Nat) => (List.range g.2.2).map (g.2.1 + ·)
  (((fuseGroups.filter (·.1 == t)) ++ fuseGroups.filter (·.1 < t)).flatMap bits).filter fun b => !bitOf w b

/-- The word with fuses set. -/
def blow (w : Nat) (bits : List Nat) : Nat := bits.foldl (fun w b => putBit w b true) w

/-- The word as a reset finds it: of a transition in progress some of the fuses are set (R312). -/
def State.fusedWord (s : State) : Nat :=
  match s.lc.target with
  | some t =>
    let todo := fusesTo t s.lc.word
    blow s.lc.word (todo.take (Config.fusesDone s.frees % (todo.length + 1)))
  | none => s.lc.word

/-! ## Module resets (Table 16.6) -/

/-- Inputs fed by the core die, which take no samples until their blocks are ready (R288). -/
def coreInput (i : Nat) : Bool := [8, 9, 10, 14, 15, 16, 17, 21].contains i

/-- Obsidian at a reset of the core die: nothing it holds changes, and the samples of the core-die inputs start anew (R288). -/
def Obsidian.coreReset (o : Obsidian) : Obsidian :=
  { o with conds := 0, monitors := Sparse.mapVals {} (fun i m => if coreInput i then { m with samples := [] } else m) o.monitors }

/-- A module reset: the core die, HBM and the retention banks lose what they hold, and both ports are down (R340); Obsidian, the fuses, the configuration flash, Quartz and the
always-on block keep it, and the numbers of the noise cells' bits go on. A change in COMPLETING is in the flash whole or not at all (R276). -/
def State.moduleReset (s : State) (cause : Nat) : State :=
  let flash := if s.get R.GATE_STATE = 5 ∧ s.gt.wiped = false ∧ Config.flashWritten s.frees then s.committed s.gateSeq s.gateSeq else s.gt.flash
  { State.reset with
    ob := s.ob.coreReset
    lc := { word := s.fusedWord, burned := s.lc.burned, devKeys := s.lc.devKeys }
    dm := { secret := s.dm.secret, wrapGen := s.dm.wrapGen, id := s.dm.id, originSeq := s.dm.originSeq, lost := !s.dm.secret.isEmpty
            offset := if cause = 1 then 0 else s.dm.offset }
    pr := { claimIn := s.pr.claimIn, healthIn := s.pr.healthIn, hostDown := some s.quartz }
    gt := { flash := flash }
    bt := { s.bt with
      released := s.quartz, fwVersion := 0, wdogDue := none, transfer := none, chunks := [], smbReg := [], cause, t2 := false
      slotB := if s.bt.transfer.isSome then none else s.bt.slotB
      resetCnt := if cause = 1 then 0 else min 65535 (s.bt.resetCnt + 1)
      wdogCnt := if cause = 1 then 0 else if cause = 6 then min 65535 (s.bt.wdogCnt + 1) else s.bt.wdogCnt }
    fl := { cells := Sparse.mapVals {} (fun _ x => { window := x.leave.window, next := x.leave.next, limit := x.leave.limit }) s.fl.cells }
    quartz := s.quartz, randoms := s.randoms, frees := s.frees + 1, out := s.out, pending := s.pending }

/-- Every region of the configuration flash erased (R310, R312, Table 1.2). -/
def State.eraseFlash (s : State) : State := { s with gt.flash := {}, bt := { s.bt with slotA := none, slotB := none, identity := false } }

/-- BOOT starts from time 0 (R381, R382): the life-cycle word is decoded (R308, R309), a SCRAPPED one finishing the erasure
of the flash (R312), the debug domain is on where debug is open (Table 12.1), the islands lock, the units' tests run and the noise cells
settle; a latched T1 asks for PL0 (R321). Nothing starts while the core die is held in reset. -/
def State.startBoot (s : State) : State :=
  if s.inReset then s
  else
    let s := { s.set R.RST_BOOT_STAGE 1 with bt.released := s.quartz, bt.latched := s.ob.latch != 0, fl.powered := s.quartz }
    let s := if s.lcState = 0xF then (s.set R.RST_BOOT_ERR 2).raise pgLCS 0 else if s.lcState = 7 then s.eraseFlash.set R.RST_BOOT_ERR 3 else s
    let s := if s.lcState = 1 ∨ s.lcState = 6 then s.setDomain 44 true else s
    let s := (s.lockIslands true).lockFixed [24, 25, 26, 27, 28, 29, 30] true
    let s := (List.range 16).foldl (fun s n => s.resetUnits n) s
    let s := (List.range 8).foldl (fun s p => s.resetPkUnits p) s
    s.startCells.applyT1

/-- A module reset that BOOT follows at once. -/
def State.resetModule (s : State) (cause : Nat) : State := (s.moduleReset cause).startBoot

/-! ## Zeroisation (Table 11.2, R310) -/

/-- Every root wrapped before is unrecoverable, in HBM and in the flash alike (R283); so is the domain master secret, wrapped as they are. -/
def State.loseRoots (s : State) : State :=
  let lose := fun (_ : Nat) (x : Part) =>
    { x with proot.key := none, droot.key := none, mroot.key := none }
  { (s.set R.FVL0_ENROLLED 0).count (R.BLK_SEQ pgOBS) 2 with
    ob.rwgen := (s.ob.rwgen + 1) % 2 ^ 32
    parts := Sparse.mapVals {} lose s.parts
    gt.flash.parts := Sparse.mapVals {} lose s.gt.flash.parts
    dm.secret := [] }

/-- The zeroisation of T3 (Table 11.2): every command ends with ABORTED, DETAIL 4 (R291); key cache, lane and hash buffers and operand RAM zeroed, the operations
there aborted (R182);
HBM keys destroyed, and HBM contents with them (R200); RWGEN incremented; link keys zeroed, so the links go down. -/
def State.zeroWork (s : State) : State :=
  let s := s.endAllCommands
  let held := fun p => ((List.range 9).map fun u => (s.pkUnit p u).ops.length).sum
  let s : State := { s with
    ci.lanes := Sparse.mapVals {} (fun _ l => { l with exec := none, wait := none, bufExec := none, bufWait := none }) s.ci.lanes
    ci.moved := []
    ci.hash := Sparse.mapVals {} (fun _ h => { h with queue := [] }) s.ci.hash
    pk.units := Sparse.mapVals {} (fun _ u => { u with ops := [] }) s.pk.units
    pk.queues := []
    ge := { s.ge with lines := [], slices := [], fences := [] }
    hb.keys := [] }
  let s := (List.range 8).foldl (fun s p => (s.countAborts p (held p)).settlePk p) s
  s.loseRoots.allLinksDown

/-- Obsidian's MMK masked by the next mask of its generator (R284, as R210 masks). -/
def Obsidian.maskMmk (o : Obsidian) : Obsidian :=
  match o.mmk with
  | none => o
  | some k =>
    let mask := (List.range k.length).map fun i => Config.maskByte o.seed o.masks i
    { o with wires := { value := xorBytes k mask, mask }, masks := o.masks + 1 }

/-- A fresh MMK in Obsidian; the OBS page's SEQ moves on with what it mirrors (R304). -/
def State.placeMmk (s : State) (k : List Byte) : State := { s with ob := { s.ob with mmk := some k }.maskMmk }.count (R.BLK_SEQ pgOBS) 2

/-- The MMK is gone: the region encrypted under it fails authentication from now on (R13), and the device attestation keys wrapped under it
cannot be recovered (R292); nor has the journal a key (R425). -/
def State.loseMmk (s : State) : State :=
  { s.closeJournal.count (R.BLK_SEQ pgOBS) 2 with ob.mmk := none, ob.wires := {}, lc.devKeys := s.lc.devKeys + 1 }

end Sys2Proof.Machine
end

