-- ==== Sys2Proof/Machine/Agate.lean ====
section
/-! DEFINITION. Agate's windows, records, ring and clears (R436-R442). -/
namespace Sys2Proof.Machine

/-! ## Records (Table 19.2) -/

/-- The bins of a set as a list of `n`. -/
def Hist.list (h : Hist) (n : Nat) : List Nat := (List.range n).map fun i => Sparse.get 0 h.bins i

/-- A percentile bin: the lowest whose cumulative count reaches the share; 0xFF without samples. -/
def percentile (share : Nat) (bins : List Nat) : Nat :=
  let total := bins.sum
  if total = 0 then 0xFF
  else ((List.range bins.length).find? fun i => share * total ≤ 100 * (bins.take (i + 1)).sum).getD 0xFF

/-- The highest bin with a sample; 0xFF without samples. -/
def topBin (bins : List Nat) : Nat :=
  ((List.range bins.length).reverse.find? fun i => bins.getD i 0 ≠ 0).getD 0xFF

/-- A set of the open window. -/
def State.winHist (s : State) (kind index : Nat) : Hist := Sparse.get {} s.ag.win (histKey kind index)

/-- The sets of a kind in the open window, by index. -/
def State.winSets (s : State) (kind : Nat) : List (Nat × Hist) :=
  (s.ag.win.filter fun e => e.1 / 1024 == kind).map fun e => (e.1 % 1024, e.2)

/-- The largest of a list of index and value pairs, the lower index on a tie. -/
def largest (xs : List (Nat × Nat)) : Nat × Nat :=
  xs.foldl (fun best x => if x.2 > best.2 then x else best) (xs.headD (0, 0))

/-- One step of the CRC-16 of Table 19.2, most significant bit first. -/
def crcBit (c : Nat) : Nat := if 0x8000 ≤ c then ((2 * c) % 65536) ^^^ 0x1021 else 2 * c

/-- CRC-16, polynomial 0x1021, initial value 0xFFFF. -/
def crc16 (bs : List Byte) : Nat :=
  bs.foldl (fun c b => (List.range 8).foldl (fun c _ => crcBit c) (c ^^^ (256 * b.toNat))) 0xFFFF

/-- A two's complement number of `n` bytes. -/
def intBytes (n : Nat) (v : Int) : List Byte := leBytes n (v % (2 ^ (8 * n) : Nat)).toNat

/-- Bytes 0-61 of the record of the open window, closing now. -/
def State.recordBody (s : State) (rnum : Nat) (short : Bool) : List Byte :=
  let lats := s.winSets 0
  let lat := (List.range 32).map fun i => (lats.map fun e => Sparse.get 0 e.2.bins i).sum
  let worst := largest (lats.map fun e => (e.1, percentile 99 (e.2.list 32)))
  let waits := (s.winSets 2).map fun e => percentile 99 (e.2.list 32)
  let deep := largest ((s.winSets 1).map fun e => (e.1, e.2.hi.toNat))
  let ms := (s.quartz - s.ag.start) / 1000000
  let tj := s.winHist 3 0
  let vc := s.winHist 3 1
  let res := (s.winHist 3 2).list 4
  leBytes 4 rnum ++ leBytes 1 (s.get R.AGT_OPEN_SEV) ++
  leBytes 1 (b2n short + 2 * b2n s.ag.partialWin + 4 * b2n s.ag.satWin + 8 * b2n s.ag.longWin) ++
  leBytes 2 (min ms 0xFFFF) ++ leBytes 8 s.quartz ++ leBytes 4 (sat32 lat.sum) ++ leBytes 4 s.ag.busy ++
  leBytes 1 (percentile 50 lat) ++ leBytes 1 (percentile 99 lat) ++ leBytes 1 (topBin lat) ++ [0] ++
  leBytes 2 worst.1 ++ leBytes 1 (if lats.isEmpty then 0xFF else worst.2) ++
  leBytes 1 (if waits.isEmpty then 0xFF else waits.foldl max 0) ++
  leBytes 2 deep.1 ++ leBytes 3 deep.2 ++ [0] ++
  intBytes 1 tj.lo ++ intBytes 1 tj.hi ++ intBytes 2 vc.lo ++ intBytes 2 vc.hi ++
  res.flatMap (fun n => leBytes 2 (min 10000 (n * 10000 / max 1 ms))) ++ leBytes 2 s.ag.events ++ zeros 8

/-! ## The ring (R440) -/

/-- The ring slot a record of severity `sev` goes to: the first empty one, else the one with the lowest RNUM among those of its severity or
less. -/
def State.ringSlot (s : State) (sev : Nat) : Option Nat :=
  match (List.range 4096).find? fun i => (Sparse.get [] s.ag.ring i).isEmpty with
  | some i => some i
  | none =>
    ((s.ag.ring.filter fun e => bitsOf (leNat (slice 4 1 e.2)) 0 3 ≤ sev).foldl (fun best e =>
      let r := leNat (slice 0 4 e.2)
      match best with
      | none => some (e.1, r)
      | some (_, rb) => if r < rb then some (e.1, r) else best) none).map (·.1)

/-- WIN_MS clamped to 10-60,000, in ns. -/
def State.windowNs (s : State) : Nat := 1000000 * max 10 (min 60000 (s.get R.AGT_WIN_MS))

/-- A window opens. -/
def State.openWindow (s : State) : State :=
  { s.set R.AGT_OPEN_SEV 0 with
    ag := { s.ag with open_ := true, start := s.quartz, due := s.quartz + s.windowNs, win := [], events := 0, busy := 0,
                      partialWin := false, satWin := false, longWin := false, overdue := false } }

/-- A window closes (R437): the sets are published, its record goes to the ring or is discarded (R440), and the page SEQ moves by two (R441). -/
def State.closeWindow (s : State) (short : Bool) : State :=
  let s := s.accrueLevel
  let rnum := s.get R.AGT_LAST_RNUM + 1
  let sev := s.get R.AGT_OPEN_SEV
  let body := s.recordBody rnum short
  let s := { s.set R.AGT_LAST_RNUM rnum with ag.pub := s.ag.live }
  let s :=
    match s.ringSlot sev with
    | none => (s.countSat R.AGT_DROPPED).raise pgAGT 2
    | some i =>
      let s : State := { s with ag.ring := Sparse.set [] s.ag.ring i (body ++ leBytes 2 (crc16 body)) }
      (s.set R.AGT_NEWEST_SLOT i).set R.AGT_COUNT s.ag.ring.length
  let s := (s.count (R.BLK_SEQ pgAGT) 2).raise pgAGT 0
  let s := if s.get R.AGT_SEV_INT ≤ sev then s.raise pgAGT 1 else s
  { s with ag.open_ := false }

/-- AGATE_WINDOW_CLOSE (R437, R438): the open window's time has come while AGT_WIN (feature 5) holds its unit and Agate is enabled. -/
def execAgateWindowClose (s : State) : Result :=
  if s.ag.open_ ∧ s.ag.due ≤ s.quartz ∧ s.hasUnit 5 ∧ s.get (R.BLK_ENABLE pgAGT) = 1 then
    .next ((s.fire 5).closeWindow false).openWindow
  else .next s

/-- WINDOW_OVERDUE (R438): a window is 10 times WIN_MS overdue. -/
def execWindowOverdue (s : State) : Result :=
  if s.ag.open_ ∧ ¬ s.ag.overdue ∧ s.ag.due + 10 * s.windowNs ≤ s.quartz then
    .next ({ s with ag.overdue := true }.raise pgAGT 3)
  else .next s

/-- The live sets cleared (R436); the open window's counts start over and its record is PARTIAL. -/
def State.clearLive (s : State) : State :=
  { s with ag.live := [], ag.win := [], ag.partialWin := true, ag.residency := s.quartz }

/-- HCLR (R436). -/
def execHclr (s : State) : Result :=
  if !s.responds pgAGT then .next s else
  .next s.clearLive

end Sys2Proof.Machine
end

