-- ==== Sys2Proof/Machine/Sleep.lean ====
section
/-! DEFINITION. Sleep: entry into S2 and S3, what each loses, and the wakes (R330-R334). -/
namespace Sys2Proof.Machine

/-! ## Domains (Table 13.4) -/

/-- The domains off in S2, and those off in S3 besides. -/
def s2Off : List Nat := List.range 26 ++ [28, 29, 30, 31, 32, 35, 36, 37, 41, 42, 44, 45]
def s3Off : List Nat := [26, 27, 33, 34, 43]

/-- The blocks, by their bit of BLK_READY, that start anew after S2 and after S3. -/
def s2Blocks : List Nat := [4, 5, 7, 10, 14, 15, 16, 17, 19]
def s3Blocks : List Nat := [3, 4, 5, 6, 7, 8, 9, 10, 12, 13, 14, 15, 16, 17, 18, 19]

/-- The islands besides the clusters' whose PLLs are off in S2, and those off in S3 besides (Tables 1.4, 13.4). -/
def s2Islands : List Nat := [24, 25, 28, 29]
def s3Islands : List Nat := [26, 27]

/-- Domains turned off. -/
def State.domainsOff (s : State) (ds : List Nat) : State := ds.foldl (fun s d => s.setDomain d false) s

/-- Domains on again: clusters off under R328 stay off, and the debug domain is on only while a debug path is open. -/
def State.domainsOn (s : State) : State :=
  let debug : Bool := s.lcState == 1 || s.lcState == 3 || s.lcState == 6 || s.get R.LCS_DBG_OPEN == 1
  (s2Off ++ s3Off).foldl (fun s d =>
    s.setDomain d (if d < 24 then !s.clusterOff d else if d = 44 then debug else true)) s

/-! ## Entry (R330, R331) -/

/-- What either sleep state loses: the clusters, Flint but for its failure history and the cells turned off (R232, R233, R236), the links, Agate's window and live sets; the pads are held (R123, R333, R359, R442). -/
def State.loseSleep (s : State) : State :=
  let s := (List.range 24).foldl (fun s i => s.powerOffCluster i) s.allLinksDown
  let s := if s.ag.open_ then s.closeWindow true else s
  let s : State := { s with
    fl := { everReady := s.fl.everReady, failures := s.fl.failures, cells := Sparse.mapVals {} (fun _ x => { x.leave with start := false, restarts := 0, fresh := true }) s.fl.cells }
    ag := { s.ag with live := [], win := [], open_ := false } }
  { s.set R.FLT_READY 0 with pw := { s.pw with heldSd := true, heldCard := true, gated := [], activeAt := [] } }

/-- S2: the stacks are in self-refresh (R250). -/
def State.enterS2 (s : State) : State :=
  let s := (List.range 2).foldl (fun s n => (s.set (R.HBM_PHY_READY n) 0).set (R.HBM_SELF_REFRESH n) 1) s
  ((s.count R.PWR_S2_CNT).domainsOff s2Off).lockFixed s2Islands false

/-- S3: the ports, HBM with the key tables, the key cache and the shared SRAM go too (R331, Table 7.14, Table 13.4). -/
def State.enterS3 (s : State) : State :=
  let s := ((s.portDown 0).portDown 1).loseQps fun _ => true
  let s := (List.range 2).foldl (fun s n =>
    ((s.set (R.HBM_PHY_READY n) 0).set (R.HBM_PROT_READY n) 0).set (R.HBM_WORK_READY n) 0) s
  let s : State := { s with
    hb := {}
    sq := { s.sq with progs := [], fmtTab := [], derTab := [], fmtPrev := [], derPrev := [] }
    pk.curves := []
    ge := { masks := s.ge.masks }
    sc.sram := []
    dm.lost := s.enrolled }
  ((s.count R.PWR_S3_CNT).domainsOff (s2Off ++ s3Off)).lockFixed (s2Islands ++ s3Islands) false

/-- SLEEP_ENTRY (R330): a begun entry is carried out once no command is left and PL0 is set under Table 13.2, or its voltage request has failed (R323). The
interlock signals keep their levels (R336). -/
def execSleepEntry (s : State) : Result :=
  if s.pw.phase ≠ .entering ∨ !s.hq.staged.isEmpty ∨ !s.running.isEmpty ∨ !s.hq.fwdOut.isEmpty ∨ s.get R.PWR_STEP ≠ 0 ∨ s.levelSettled = false then .next s
  else
    let s3 := s.pw.s3
    let s : State := { s with pr.kept := some s.healthOut }
    let s := if s3 then s.deactivateCards else s
    let s := { s with jr := { rpmb := s.jr.rpmb } }
    let s := ((s.set R.SD_PRESENT 0).set R.SD_MODE 0).set R.SD_JSTATE 0
    let s := s.loseSleep
    let s := if s3 then s.enterS3 else s.enterS2
    let ready := (if s3 then s3Blocks else s2Blocks).foldl (fun r b => putBit r b false) (s.get R.RST_BLK_READY)
    .next { (s.set R.RST_BLK_READY ready).set R.PWR_SLEEP 0 with pw.phase := .asleep, bt.wdogDue := none }

/-! ## Wakes (R332, R334) -/

/-- A wake begins: the domains are on, the clusters' tests run, Flint starts (R150, R184, R236), pads held stay so: PWR INT_RAW bit 5 (R333). The saved level
is wanted again, or PL0 where a T1 is latched (R332, R334). -/
def State.beginWake (s : State) (event link : Nat) : State :=
  let s := ((s.set R.PWR_SLEEP 6).set R.PWR_LAST_WAKE event).set R.PWR_WAKE_LINK link
  let s := { s.set R.PWR_FROM_S3 (b2n s.pw.s3) with pw.phase := .waking, pw.wokeAt := s.quartz, fl.powered := s.quartz }
  let s := s.domainsOn.lockFixed (s2Islands ++ s3Islands) true
  let s := ((List.range 24).filter fun i => !s.clusterOff i).foldl (fun s i => s.powerOnCluster i) s
  let s := s.startCells
  (s.raise pgPWR 5).settleLevel.applyT1

/-- A T3 or T4 response ends sleep, or an entry begun (R334). -/
def State.leaveSleep (s : State) : State :=
  match s.pw.phase with
  | .asleep => s.beginWake 0 0
  | .entering => { s.set R.PWR_SLEEP 0 with pw.phase := .awake }
  | .awake | .waking => s

/-- WAKE_TLP (R330, R332): a TLP other than a message, received on a port, wakes from S2 or aborts an entry. -/
def execWakeTlp (port : Fin 2) (s : State) : Result :=
  match s.pw.phase with
  | .asleep => if s.pw.s3 then .next s else .next (s.beginWake (1 + port) 0)
  | .entering => .next s.abortSleep
  | .awake | .waking => .next s

/-- WAKE_PATTERN (R332, R378): eight repetitions of the wake ordered set on a link wake from S2 and S3, or abort an entry. -/
def execWakePattern (k : Fin 8) (s : State) : Result :=
  match s.pw.phase with
  | .asleep => .next (s.beginWake 3 k)
  | .entering => .next s.abortSleep
  | .awake | .waking => .next s

/-- WAKE_SMBUS (R332): an SMBus address match wakes from S3. -/
def execWakeSmbus (s : State) : Result :=
  if s.pw.phase = .asleep ∧ s.pw.s3 then .next (s.beginWake 4 0) else .next s

end Sys2Proof.Machine
end

