-- ==== Sys2Proof/Machine/Obsidian.lean ====
section
/-! DEFINITION. Obsidian: monitor inputs, responses, the tamper log, backup power and the MMK's masks (R282-R304, R452). -/
namespace Sys2Proof.Machine

/-! ## Configuration (Table 11.1, R295) -/

/-- The committed class of an input. -/
def State.respClass (s : State) (i : Nat) : Nat := Sparse.get (obsRespReset i) s.ob.resp i

/-- N and M of an input. -/
def State.filtN (s : State) (i : Nat) : Nat := Sparse.get (obsFiltNReset i) s.ob.filtN i
def State.filtM (s : State) (i : Nat) : Nat := Sparse.get (obsFiltMReset i) s.ob.filtM i

/-- A monitor input. -/
def State.monitor (s : State) (i : Nat) : Monitor := Sparse.get {} s.ob.monitors i

/-- The inputs with a sample period on backup power (Table 11.1). -/
def onBackup (i : Nat) : Bool := i ≤ 7 || [11, 12, 13, 19, 20].contains i

/-- Does an input take samples now: those with a backup period on backup power, and on main power those whose feeding block is ready (R285,
R288)? -/
def State.samples (s : State) (i : Nat) : Bool :=
  if 22 ≤ i then false
  else if !s.ob.onMain then onBackup i
  else match i with
    | 19 => false
    | 8 | 9 | 10 => s.bit R.RST_BLK_READY 1
    | 14 => s.bit R.RST_BLK_READY 12 || s.bit R.RST_BLK_READY 4 || s.bit R.RST_BLK_READY 7
    | 15 => s.bit R.RST_BLK_READY 10
    | 16 | 17 => s.bit R.RST_BLK_READY 3
    | 21 => s.bit R.RST_BLK_READY 11
    | _ => true

/-! ## Backup sources (R12) -/

/-- BKP_SRC: the first present source in the order of R12. -/
def Obsidian.backup (o : Obsidian) : Nat := if o.aux then 1 else if o.vbat then 2 else if o.cell then 3 else 0

/-- The power in use, as a log entry names it: 0 main. -/
def Obsidian.power (o : Obsidian) : Nat := if o.onMain then 0 else o.source

/-! ## The tamper log (R301, R302) -/

/-- Obsidian's time in µs. -/
def Obsidian.otime (o : Obsidian) : Nat := o.osc / 20000

/-- A log entry (Table 11.3). -/
def Obsidian.entry (o : Obsidian) (i cls done cause : Nat) (pending : Bool) : List Byte :=
  let body := leBytes 4 o.logSeq ++ leBytes 6 o.otime ++ leBytes 1 (i + 32 * o.power) ++
    leBytes 1 (cls + 8 * done + 64 * b2n pending) ++ leBytes 1 cause ++ [0]
  body ++ leBytes 2 (crc16 body)

/-- The executed class of an entry, and its sequence number. -/
def entryDone (e : List Byte) : Nat := bitsOf (numAt e 11 1) 3 3
def entrySeq (e : List Byte) : Nat := numAt e 0 4

/-- Where a new entry of executed class `done` goes: the next free index, or when the log is full the oldest entry of an equal or lower class
(R302). -/
def Obsidian.logPlace (o : Obsidian) (done : Nat) : Option Nat :=
  if o.log.length < 64 then some o.log.length
  else
    ((o.log.filter fun e => entryDone e.2 ≤ done).foldl (fun best e =>
      match best with
      | none => some e
      | some b => if entrySeq e.2 < entrySeq b.2 then some e else best) (none : Option (Nat × List Byte))).map (·.1)

/-- An alarm logged: its entry and OBS INT_RAW bit 0; one for which the log has no place is discarded and counted, bit 4 (R302). The
firmware's journal takes a copy (R425). -/
def State.logAlarm (s : State) (i cls done cause : Nat) (pending : Bool) : State :=
  match s.ob.logPlace done with
  | none => { s with ob.logDropped := min 65535 (s.ob.logDropped + 1) }.raise pgOBS 4
  | some at_ =>
    let e := s.ob.entry i cls done cause pending
    let s : State := { s with ob := { s.ob with
      log := Sparse.set [] s.ob.log at_ e, logNewest := at_, logSeq := s.ob.logSeq + 1, alarms := satAdd 32 s.ob.alarms 1 } }
    let s := if 1 ≤ done ∧ s.ob.onMain then s.severity 4 else s
    (s.raise pgOBS 0).journal { type := 2, payload := e }

/-! ## Responses (R290-R299) -/

/-- The class in force: the latch, or T2 in the reset it caused and the boot that follows (R297). -/
def State.inForce (s : State) : Nat := max s.ob.latch (if s.bt.t2 then 2 else 0)

/-- T1 THROTTLE: latched, OBS INT_RAW bit 1. -/
def State.latchT1 (s : State) : State := (({ s with ob.latch := max s.ob.latch 1 }.count (R.BLK_SEQ pgOBS) 2).raise pgOBS 1).applyT1

/-- T3 ZERO_WORK and T4 ZERO_ALL: the zeroisation, the mode RESPONDED, the interlock outputs low, the latch; T4 the MMK too. The gate's change set
is discarded (R279), the cards are deactivated (R418), a claim in progress is given up, and a module asleep wakes (R334). While BOOT has not ended the mode waits for its end (R298). -/
def State.zeroise (s : State) (cls : Nat) : State :=
  let s := s.zeroWork.discardChange.deactivateCards
  let s := if cls = 4 then s.loseMmk else s
  let s := if s.get R.PAIR_ROLE = 3 then s.set R.PAIR_ROLE 2 else s
  let s : State := { s with ob.latch := cls, pr := { s.pr with claimOut := false, relinquishing := false, waiting := false, taking := none, kept := none } }
  let s := s.set R.PWR_T1_CAP 0
  let s := (if s.booting then s else s.enterMode .responded).leaveSleep.settleLevel
  s.settleTake

/-- The response of a class executes (Table 11.2). -/
def State.respond (s : State) (cls : Nat) : State :=
  match cls with
  | 0 => s
  | 1 => s.latchT1
  | 2 => { s.moduleReset 3 with bt.t2 := true }.startBoot
  | c => s.zeroise c

/-- The alarms of one evaluation cycle on main power: the highest class executes unless a response as high is in force; all are logged with it, in
input order (R296, R297). -/
def State.alarms (s : State) (fired : List (Nat × Nat)) : State :=
  let top := (fired.map fun f => s.respClass f.1).foldl max 0
  let force := s.inForce
  let s := fired.foldl (fun s f => s.logAlarm f.1 (s.respClass f.1) (max top force) f.2 false) s
  if force < top then s.respond top
  else if force = 2 ∧ fired.any (fun f => s.respClass f.1 == 1) then s.latchT1
  else s

/-- The alarms of one evaluation cycle in VIGIL: T3 or above zeroises the MMK and latches T4; T1 and T2 wait for the next power-up (R299). -/
def State.alarmsVigil (s : State) (fired : List (Nat × Nat)) : State :=
  let top := (fired.map fun f => s.respClass f.1).foldl max 0
  if 3 ≤ top ∧ s.ob.latch < 4 then
    let s := fired.foldl (fun s f => s.logAlarm f.1 (s.respClass f.1) 4 f.2 false) s
    { s.loseMmk with ob.latch := 4 }
  else
    let waits := fun (c : Nat) => decide ((c = 1 ∨ c = 2) ∧ s.ob.latch < c)
    let held := fun (c : Nat) => waits c && fired.any fun f => s.respClass f.1 == c
    let s := fired.foldl (fun s f => s.logAlarm f.1 (s.respClass f.1) s.ob.latch f.2 (waits (s.respClass f.1))) s
    { s with ob.pendT1 := s.ob.pendT1 || held 1, ob.pendT2 := s.ob.pendT2 || held 2 }

/-! ## Sampling (R285) -/

/-- The cause of LOGIC that stands, 0 without one. -/
def State.logicCause (s : State) : Nat :=
  ([1, 2, 3].find? fun c => bitOf s.ob.conds (logicCond c)).getD 0

/-- A temperature reading in °C. -/
def degrees (t : Nat) : Int := (BitVec.ofNat 8 t).toInt

/-- The mesh pattern driven in the present sample period (R286). -/
def Obsidian.pattern (o : Obsidian) : BitVec 64 := Config.meshPattern o.seed o.patterns

/-- Is an island power-gated or relocking, so that its clock raises no input (R288)? 31 is the reference. -/
def State.clockQuiet (s : State) (i : Nat) : Bool := decide (i < 31) && (s.pw.gated.contains i || s.relocks i || (decide (i < 24) && !s.domainOn i))

/-- Is the condition of an input present in a sample: what the world shows, or what the module itself raised (R285)? The temperatures show theirs in the
readings (R287), and MESH_PATTERN in a pattern that differs from the driven one while the continuity is intact (R286). VDD_CORE is not held to its level during a
level change, nor a clock to its frequency in an island that is gated or relocks (R288). An external alarm needs its
service pin (R288); BACKUP_LOW that no other source is at 2.5 V or above. -/
def State.present (s : State) (x : MonitorSample) : Bool :=
  match x.input.val with
  | 2 => x.present && x.returned != s.ob.pattern
  | 3 => decide (degrees s.ob.tempA < -30)
  | 4 => decide (degrees s.ob.tempB < -30)
  | 5 => decide (115 < degrees s.ob.tempA)
  | 6 => decide (115 < degrees s.ob.tempB)
  | 7 => decide (12 < (degrees s.ob.tempA - degrees s.ob.tempB).natAbs)
  | 8 => x.present && s.get R.PWR_STEP == 0
  | 10 => x.present && !s.clockQuiet x.cause.toNat
  | 14 => s.logicCause ≠ 0
  | 15 => bitOf s.ob.conds 15
  | 18 => bitOf s.ob.conds 18
  | 16 => x.present && s.get (R.PAD_EN 5) == 1
  | 17 => x.present && s.get (R.PAD_EN 6) == 1
  | 19 => x.present && s.ob.backup == 0
  | _ => x.present

/-- The CAUSE byte an alarm of an input logs (Table 11.3). -/
def State.causeOf (s : State) (x : MonitorSample) : Nat :=
  match x.input.val with
  | 0 | 1 | 2 | 7 | 10 => x.cause.toNat
  | 3 | 5 => s.ob.tempA
  | 4 | 6 => s.ob.tempB
  | 14 => s.logicCause
  | _ => 0

/-- One sample of an input: at least N of the last M present fires it; asserted, it stays so until M in a row are absent (R285). -/
def Monitor.step (m : Monitor) (n k : Nat) (present : Bool) : Monitor × Bool :=
  let last := (present :: m.samples).take 16
  let recent := last.take k
  if m.asserted then ({ samples := last, asserted := recent.any id || recent.length < k }, false)
  else
    let fires := decide (n ≤ (recent.filter id).length)
    ({ samples := last, asserted := fires }, fires)

/-- An input sampled; the answer says whether it fired. -/
def State.sampleInput (s : State) (x : MonitorSample) : State × Bool :=
  let i := x.input.val
  let r := (s.monitor i).step (s.filtN i) (s.filtM i) (s.present x)
  let s : State := { s with ob.monitors := Sparse.set {} s.ob.monitors i r.1 }
  (if r.2 then s.set R.OBS_INPUT_SEEN (putBit (s.get R.OBS_INPUT_SEEN) i true) else s, r.2)

/-- The inputs of an evaluation cycle sampled, with those that fired and their causes. -/
def State.sampleAll (s : State) (xs : List MonitorSample) : State × List (Nat × Nat) :=
  xs.foldl (fun r x =>
    if r.1.samples x.input then
      let t := r.1.sampleInput x
      (t.1, if t.2 then r.2 ++ [(x.input.val, r.1.causeOf x)] else r.2)
    else r) (s, [])

/-- The event conditions of the inputs sampled are over. -/
def State.clearConds (s : State) (xs : List MonitorSample) : State :=
  let taken := fun (i : Nat) => xs.any (·.input.val == i)
  let c := s.ob.conds
  let c := if taken 14 then [14, 46, 78].foldl (fun c b => putBit c b false) c else c
  let c := if taken 15 then putBit c 15 false else c
  { s with ob.conds := if taken 18 then putBit c 18 false else c }

/-- What the OBS page mirrors of Obsidian besides the log's entries and the committed settings (Table 11.5). -/
def State.mirrored (s : State) : List Nat :=
  let o := s.ob
  [o.latch, b2n o.didT1, b2n o.didT2, b2n o.mmk.isSome, o.backup, b2n o.cellLow, o.rwgen, o.tempA, o.tempB, o.alarms, o.log.length,
    o.logNewest, o.logDropped] ++ (List.range 22).map fun i => b2n (s.monitor i).asserted

/-- The OBS page follows a change of Obsidian's state: the page's SEQ has moved on (R304). -/
def State.mirror (s : State) (was : List Nat) : State := if s.mirrored = was then s else s.count (R.BLK_SEQ pgOBS) 2

/-- MONITOR_SAMPLE (R285, R296): one evaluation cycle of Obsidian: the samples of the inputs whose period ends in it, and the two temperature
readings; a period of the mesh inputs drives a fresh pattern (R286). -/
def execMonitorSample (tempA tempB : BitVec 8) (samples : List MonitorSample) (s : State) : Result :=
  let meshed : Bool := samples.any (·.input.val ≤ 2)
  let was := s.mirrored
  let s : State := { s with ob := { s.ob with tempA := tempA.toNat, tempB := tempB.toNat, patterns := s.ob.patterns + b2n meshed } }
  let xs := (List.range 22).flatMap fun i => samples.filter (·.input.val == i)
  let r := s.sampleAll xs
  let t := r.1.clearConds xs
  let t := if r.2.isEmpty then t else if t.ob.onMain then t.alarms r.2 else t.alarmsVigil r.2
  .next (t.mirror was)

/-- SHADOW_SCAN (R289): the scan of the guarded registers finds a value that differs from its inverted shadow, or none. -/
def execShadowScan (mismatch : Bool) (s : State) : Result :=
  .next (if mismatch then s.raiseInput (logicCond 1) else s)

/-- OBS_ACK (R294): a latched T1 is released while no input whose class is T1 is asserted: OBS INT_RAW bit 2, and the level returns to its policy. -/
def execObsAck (s : State) : Result :=
  if !s.responds pgOBS then .next s else
  let held := (List.range 22).any fun i => (s.monitor i).asserted && s.respClass i == 1
  if s.ob.latch = 1 ∧ ¬ held then
    let t : State := { s with ob.latch := 0 }
    .next ((((t.set R.PWR_T1_CAP 0).raise pgOBS 2).settleLevel.settleTake).mirror s.mirrored)
  else .next s

/-! ## Main and backup power (R12, R282, R299, R392, R452) -/

/-- Obsidian without any power source: the MMK and the log are lost (R302), SEQ, OTIME and the count of alarms since manufacture stand, never being reset
(R301, Table 11.5), and its other words hold nothing the spec states. -/
def State.obsidianLost (s : State) : State :=
  let word := fun (i : Nat) => Config.sramLost (s.frees + i)
  let s := s.loseMmk
  { s with frees := s.frees + 3,
           ob := { rwgen := word 0 % 2 ^ 32, journal := word 1, logSeq := s.ob.logSeq, alarms := s.ob.alarms, osc := s.ob.osc,
                   latch := [0, 1, 3, 4].getD (word 2 % 4) 0, onMain := s.ob.onMain } }

/-- The backup sources as they now stand; `held` says whether any of them still supplies Obsidian. -/
def State.backupNow (s : State) (held : Bool) : State :=
  let s : State := if s.ob.backup = 0 then s else { s with ob.source := s.ob.backup }
  if s.ob.onMain ∨ held ∨ s.ob.backup ≠ 0 then s else s.obsidianLost

/-- MAIN_POWER_LOSS (R282): the charge path from P12V fails: the core die is without power, and Obsidian goes on from its backup source, in VIGIL. A pending
T1 that no BOOT has latched yet stays pending (R299). -/
def execMainPowerLoss (held : Bool) (s : State) : Result :=
  if !s.ob.onMain then .next s
  else
    let s := s.moduleReset s.bt.cause
    let s : State := { s with ob.onMain := false, bt := { s.bt with vigil := true, tap := 1, extest := false } }
    .next (s.backupNow held)

/-- BACKUP_SOURCE_CHANGE (R12): sources appear or go; a flag says which are at 2.5 V or above, `cellLow` that the cell is below 2.7 V. OBS INT_RAW
bits 6 and 5. -/
def execBackupSourceChange (aux vbat cell cellLow held : Bool) (s : State) : Result :=
  let was := s.ob
  let shown := s.mirrored
  let s : State := { s with ob := { s.ob with aux, vbat, cell, cellLow } }
  let s := if s.ob.backup ≠ was.backup then s.raise pgOBS 6 else s
  let s := if cellLow ∧ ¬ was.cellLow then s.raise pgOBS 5 else s
  .next ((s.backupNow held).mirror shown)

/-- VDD_CORE_LOSS (R452): VDD_CORE leaves its range while P12V is present: the core die is held in reset, Obsidian on main power. -/
def execVddCoreLoss (s : State) : Result :=
  if s.bt.vigil ∨ s.bt.vddLow then .next s else .next { s.moduleReset s.bt.cause with bt.vddLow := true }

/-- The power-on reset: Quartz counts from 0, and what the always-on block keeps returns to 0 (R392, R398, R409). -/
def State.powerOnReset (s : State) : State :=
  let s : State := { s with bt := { s.bt with vigil := false, vddLow := false } }
  let s : State := { s with quartz := 0, ob.seedTime := 0, ob.seeded := false }
  s.moduleReset 1

/-- POWER_ON (R282, R299, R392): P12V or VDD_CORE returns and the module boots cold. A T2 pending since VIGIL is satisfied by it; a pending T1
latches at the end of BOOT: OBS INT_RAW bit 3. -/
def execPowerOn (s : State) : Result :=
  if s.ob.onMain ∧ ¬ s.bt.vddLow then .next s
  else if s.ob.onMain then .next s.powerOnReset.startBoot
  else
    let o := s.ob
    let s : State := { s with ob := { o with onMain := true, pendT2 := false, didT1 := o.pendT1, didT2 := o.pendT2 } }
    let s := s.powerOnReset
    let s := if o.pendT1 ∨ o.pendT2 then s.raise pgOBS 3 else s
    .next s.startBoot

/-- The wires re-masked: v xor m xor m', and m' (R284, R210). -/
def Obsidian.remask (o : Obsidian) : Obsidian :=
  let mask := (List.range o.wires.mask.length).map fun i => Config.maskByte o.seed o.masks i
  { o with wires := { value := xorBytes (xorBytes o.wires.value o.wires.mask) mask, mask }, masks := o.masks + 1 }

/-- MMK_REMASK (R284): the MMK is re-masked every 10 ms on main power, every second on backup power. -/
def execMmkRemask (s : State) : Result :=
  let period := if s.ob.onMain then 200000000 else 20000000000
  if s.ob.osc < s.ob.maskTime + period then .next s
  else .next { s with ob := { s.ob.remask with maskTime := s.ob.osc } }

end Sys2Proof.Machine
end

