-- ==== Sys2Proof/Machine/Lcs.lean ====
section
/-! DEFINITION. The life cycle: commands, wipes, transitions, test tokens and the debug paths (R305-R319). -/
namespace Sys2Proof.Machine

/-! ## The checks of a life-cycle command (R310, R311, R313, R315) -/

/-- The transitions of Table 12.4 other than the test token's. -/
def lcLegal (from_ pending target : Nat) : Bool :=
  match from_, target with
  | 1, 2 => true
  | 2, 4 | 3, 4 => true
  | 4, 5 => true
  | 4, 6 | 5, 6 => true
  | 15, t => t == pending
  | f, 7 => f != 7
  | _, _ => false

/-- The module officer list holds no record. -/
def State.noOfficers (s : State) : Bool := (s.part 0).officers.all (·.oid == 0)

/-- May the direct path be used: MAKER, TEST_LOCKED, TEST_OPEN, INVALID, or no module officer (R311)? -/
def State.directOk (s : State) : Bool := [1, 2, 3, 15].contains s.lcState || s.noOfficers

/-- The token of the LCS_TOKEN registers. -/
def State.lcToken (s : State) : List Byte := (List.range 8).flatMap fun i => leBytes 4 (s.get (R.LCS_TOKEN i))

/-- The CMD_RESULT code that refuses a transition to `target`, in the order of R313; none accepts it. `direct` is the path. -/
def State.lcRefusal (s : State) (direct : Bool) (target : Nat) (token : List Byte) : Option Nat :=
  if s.lc.target.isSome then some 1
  else if Config.tokenDigest target ≠ some (sha3_256 token) then some 3
  else if !lcLegal s.lcState (lcPending s.lc.word) target then some 4
  else if direct && !s.directOk then some 5
  else if target = 6 ∧ Config.analysisEligible = false then some 6
  else none

/-- The code that refuses a test token; none accepts it (R313, R315). -/
def State.testRefusal (s : State) (index : Nat) (token : List Byte) : Option Nat :=
  if s.lc.target.isSome then some 1
  else match Config.testDigest index with
    | none => if s.lcState ≠ 2 then some 4 else some 7
    | some d =>
      if d ≠ sha3_256 token then some 3
      else if s.lcState ≠ 2 then some 4
      else if bitOf s.lc.burned index then some 7
      else none

/-! ## Wipes (R310) -/

/-- The work wipe: the zeroisation of T3; nothing is latched and the mode does not change. -/
def State.workWipe (s : State) : State := s.zeroWork

/-- The wipe of a transition to `target` (Table 12.4). No change that is COMPLETING writes the user region again after it. -/
def State.lcWipe (s : State) (target : Nat) : State :=
  match target with
  | 4 => { s.workWipe with gt.flash := {}, gt.wiped := true }
  | 6 =>
    let (k, s) := s.workWipe.loseMmk.draw 32
    { s.placeMmk k with gt.wiped := true }
  | 7 =>
    let s := s.workWipe.loseMmk
    { s.eraseFlash with gt.wiped := true, ob := { s.ob with log := [], logNewest := 0, journal := 0, resp := [], filtN := [], filtM := [], latch := 0 } }
  | _ => s

/-- A transition starts: its wipe runs, then its fuses are programmed (R312). -/
def State.startTransition (s : State) (target : Nat) : State :=
  let s := (s.lcWipe target).set R.LCS_BUSY 1
  { s with lc.target := some target }

/-! ## Commands -/

/-- The result of an LCS_GO; a refusal changes nothing else and sets LCS INT_RAW bit 1. The token registers are zeroed after every GO (R313). -/
def State.lcResult (s : State) (code : Nat) : State :=
  let s := (List.range 8).foldl (fun s i => s.set (R.LCS_TOKEN i) 0) (s.set R.LCS_CMD_RESULT code)
  if code = 2 then s else s.raise pgLCS 1

/-- The entry into TEST_OPEN: the token is burned, the work wipe runs, the flag is set: LCS INT_RAW bit 2 (R315). -/
def State.enterTestOpen (s : State) (index : Nat) : State :=
  match s.testRefusal index s.lcToken with
  | some code => s.lcResult code
  | none =>
    let s := s.workWipe.lcResult 2
    ({ s with lc.burned := putBit s.lc.burned index true, lc.testOpen := true }.raise pgLCS 2).setDomain 44 true

/-- LCS_GO (R311-R313): GO with a target: the transition starts, or CMD_RESULT says why not. -/
def execLcsGo (target testIdx : Fin 16) (s : State) : Result :=
  if !s.responds pgLCS then .next s else
  if s.inReset then .next s
  else
    let s := (s.set R.LCS_TARGET target).set R.LCS_TEST_IDX testIdx
    if target = 3 then .next (s.enterTestOpen testIdx)
    else match s.lcRefusal true target s.lcToken with
      | some code => .next (s.lcResult code)
      | none => .next ((s.lcResult 2).startTransition target)

/-- TEST_OPEN_ENTRY (R315): GO with TARGET 0x3. -/
def execTestOpenEntry (testIdx : Fin 16) (s : State) : Result :=
  if s.inReset then .next s else .next (((s.set R.LCS_TARGET 3).set R.LCS_TEST_IDX testIdx).enterTestOpen testIdx)

/-- Is a change the life-cycle command of a gated transition (R311)? -/
def Change.isLifeCycle : Change → Bool
  | .lifeCycle .. => true
  | .word .. | .image .. | .vf .. | .create _ | .delete _ | .officer .. | .newRoot _ | .reProvision _ => false

/-- LCS_TRANSITION_COMPLETE (R312): the last fuse is programmed, the word reads back as the target, and the core die resets. A gated transition's
gate passes COMPLETING first (R311). -/
def execLcsTransitionComplete (s : State) : Result :=
  match s.lc.target with
  | none => .next s
  | some t =>
    if s.get R.GATE_STATE = 5 ∧ s.gt.set.any Change.isLifeCycle = true then .next s
    else .next ({ s with lc.word := blow s.lc.word (fusesTo t s.lc.word), lc.target := none }.resetModule 4)

/-! ## Debug authorisation (R316-R319) -/

/-- DBG_NONCE_EXPIRE (R317): CHAL_WINDOW has passed, on the unit that DBG_NONCE (feature 1) holds: LCS INT_RAW bit 5. -/
def execDbgNonceExpire (s : State) : Result :=
  if s.lc.nonce = [] ∨ s.quartz < s.lc.nonceDue ∨ s.hasUnit 1 = false then .next s
  else .next (({ s with lc.nonce := [] }.raise pgLCS 5).fire 1)

/-- DEBUG_OPEN (R319): Obsidian has executed the response of an accepted debug response, and the granted paths open beside those
that are open already: LCS INT_RAW bit 3. -/
def execDebugOpen (s : State) : Result :=
  match s.lc.opening with
  | none => .next s
  | some g =>
    if s.ob.latch < 3 ∨ bitOf s.ob.conds 18 then .next s
    else
      let s := ((s.set R.LCS_DBG_OPEN 1).set R.LCS_DBG_GRANT (s.get R.LCS_DBG_GRANT ||| g)).raise pgLCS 3
      .next ({ s with lc.opening := none }.setDomain 44 true)

end Sys2Proof.Machine
end

