-- ==== Sys2Proof/Machine/Mpu.lean ====
section
/-! DEFINITION. The bytes of the shared SRAM, the tags of the bus masters, and the drain of a commit (R265, R266, R271). -/
namespace Sys2Proof.Machine

/-- A byte of the shared SRAM. -/
def State.sramByte (s : State) (a : Nat) : Byte := Sparse.get 0 s.sc.sram a

/-- Bytes written to the shared SRAM. -/
def State.writeSram (s : State) (a : Nat) (bs : List Byte) : State :=
  { s with sc.sram := (List.range bs.length).foldl (fun m i => Sparse.set 0 m (a + i) (bs.getD i 0)) s.sc.sram }

/-- The partition tag of a master's access (Table 10.4): a core's running thread's, or 0 for the masters without a partition. -/
def State.masterTag (s : State) (m tag : Nat) : Nat :=
  if m < 8 then Sparse.get 0 s.sc.tags m else if m = 8 ∨ m = 9 ∨ m = 11 then tag else 0

/-- An MPU cuts over to new rules (R271): EPOCH moves on, COMMIT_BUSY is set. -/
def State.mpuCutOver (s : State) (m : Nat) : State :=
  let s := (s.count (R.MPU_EPOCH m)).set (R.MPU_COMMIT_BUSY m) 1
  { s with gt.mpuCut := Sparse.set 0 s.gt.mpuCut m s.quartz, gt.mpuOver := s.gt.mpuOver.filter (· ≠ m) }

/-- MPU_COMMIT_DRAIN (R271): the last access of the old epoch is accepted. -/
def execMpuCommitDrain (m : Fin 16) (s : State) : Result :=
  if s.get (R.MPU_COMMIT_BUSY m) = 0 then .next s
  else
    let ns := s.quartz - Sparse.get 0 s.gt.mpuCut m
    let s := ((s.set (R.MPU_COMMIT_BUSY m) 0).raise (pgMPU m) 3).keepMax (R.MPU_DRAIN_MAX_NS m) ns
    .next { s with gt.mpuCut := Sparse.erase s.gt.mpuCut m }

/-- MPU_DRAIN_OVERTIME (R271): a drain takes longer than 2 µs; the gate keeps waiting. -/
def execMpuDrainOvertime (m : Fin 16) (s : State) : Result :=
  if s.get (R.MPU_COMMIT_BUSY m) = 0 ∨ s.gt.mpuOver.contains m.val ∨ s.quartz ≤ Sparse.get 0 s.gt.mpuCut m + 2000 then .next s
  else .next ({ s with gt.mpuOver := s.gt.mpuOver ++ [m.val] }.raise (pgMPU m) 4)

end Sys2Proof.Machine
end

