-- ==== Sys2Proof/Machine/Gate.lean ====
section
/-! DEFINITION. The custodian gate: staging, seal, approvals, apply and completion of a change set (R263, R264, R272-R279, R311, R395). -/
namespace Sys2Proof.Machine

/-! ## Change classes (Table 10.6) -/

/-- Module scope, as Table 10.8 codes it. -/
def scopeModule : Nat := 0xFFFF

/-- A guarded register word: its address, the bits of its RWG fields and its change class. -/
structure Guarded where
  addr : Nat
  mask : Nat
  cls : Nat
deriving DecidableEq, Repr

/-- The guarded words outside the MPU pages (Tables 2.11, 3.12, 5.11, 7.15, 8.4, 9.8, 9.9, 10.11, 11.5, 13.8, 14.5, 15.6). -/
def guardedWords : List Guarded :=
  [⟨0xA0104, 0x1FFFF, 1⟩, ⟨0xA0108, 0x1FFFF, 1⟩, ⟨0x30104, 0x1FFFFFFF, 1⟩, ⟨0x30108, 0x1FFFFFFF, 1⟩, ⟨0x3010C, 0x1FFFFFFF, 1⟩,
   ⟨0x30110, 0x7FFF, 1⟩, ⟨0x30114, 0xFFF, 1⟩, ⟨0x41204, 0x3FFF, 1⟩, ⟨0x41208, 0x3FFF, 1⟩, ⟨0x43104, 0xFF, 1⟩] ++
  [⟨0xA1214, 0xFFFFFFFF, 2⟩, ⟨0x10200, 0x11F, 5⟩, ⟨0x10204, 0xFFFFFF, 5⟩, ⟨0x30200, 0x7F, 5⟩, ⟨0x6010C, 0x3FF, 5⟩,
   ⟨0x1104, 0xFFF03, 5⟩, ⟨0x70104, 0x1FF7, 5⟩, ⟨0x70108, 0xFFFFFFFF, 5⟩, ⟨0x7010C, 0xFFFFFFFF, 5⟩, ⟨0x71204, 0xFFF, 5⟩] ++
  [⟨0x71214, 0x3FFFFFFF, 5⟩, ⟨0x71218, 0xFFFFFFFF, 5⟩, ⟨0x7121C, 0xFFFFFFFF, 5⟩, ⟨0x71220, 0xFFFFFFFF, 5⟩, ⟨0x71224, 0xFFFFFFFF, 5⟩,
   ⟨0x71254, 0x3FFFF, 5⟩, ⟨0x63134, 0xFFF, 8⟩] ++
  (List.range 4).map (fun w => ⟨0x61200 + 4 * w, 0xFFFFFFFF, 6⟩) ++ (List.range 8).map fun w => ⟨0x61220 + 4 * w, 0xFFFFFFFF, 6⟩

/-- The RWG bits of a region word of an MPU (Table 10.12); the pages of MPUs 14 and 15 have none. -/
def mpuMask (addr : Nat) : Option Nat :=
  if 0x50000 ≤ addr ∧ addr < 0x5E000 ∧ 0x200 ≤ addr % 4096 ∧ addr % 4096 < 0x400 ∧ addr % 4 = 0 then
    some ([0xFFFFFFC0, 0x03FF1FFF, 0xFFFFFFC0, 0xFF].getD (addr % 16 / 4) 0)
  else none

/-- The guarded word at an address. -/
def guardedAt (addr : Nat) : Option Guarded :=
  match mpuMask addr with
  | some m => some ⟨addr, m, 3⟩
  | none => guardedWords.find? (·.addr == addr)

/-- The selector a guarded word stands under: the partition selectors, and for the enable bitmap partition and word. -/
def State.selectorOf (s : State) (addr : Nat) : Nat :=
  if addr = 0xA0104 ∨ addr = 0xA0108 then s.get R.HQE_PSEL
  else if 0x30104 ≤ addr ∧ addr ≤ 0x30114 then s.get R.GEO_PSEL
  else if addr = 0x41204 ∨ addr = 0x41208 then s.get R.HBM0_WPSEL
  else if addr = 0x43104 then s.get R.ARB_XPSEL
  else if addr = 0xA1214 then s.get R.SEQ0_PEN_PART + 2 ^ 16 * s.get R.SEQ0_PEN_WORD
  else if addr = 0x71254 then s.get R.FVL0_EPSEL
  else 0

/-- Is a partition in the table, or created by the change set being staged? -/
def State.creates (s : State) (p : Nat) : Bool := s.gt.set.contains (.create p)

/-- The class and scope of a change; none where it is no change of a guarded value. -/
def State.changeClass (s : State) : Change → Option (Nat × Nat)
  | .word addr select _ =>
    if addr = 0x3010C ∧ select ≠ 0 then none else (guardedAt addr).map fun g => (g.cls, scopeModule)
  | .image .. => some (4, scopeModule)
  | .vf .. | .create _ | .delete _ => some (1, scopeModule)
  | .officer p .. =>
    if p = 0 then some (8, scopeModule)
    else if s.creates p ∧ ¬ (s.part p).created then some (1, scopeModule) else some (9, p)
  | .newRoot p => some (10, p)
  | .lifeCycle .. | .reProvision _ => some (7, scopeModule)

/-! ## The change record (Table 10.8) -/

/-- Do two changes have the same target and selector, so that the later replaces the earlier (R273)? -/
def sameTarget : Change → Change → Bool
  | .word a k _, .word b l _ => a == b && k == l
  | .image t i _, .image u j _ => t == u && i == j
  | .vf p i _, .vf q j _ => p == q && i == j
  | .create p, .create q => p == q
  | .delete p, .delete q => p == q
  | .officer p i _, .officer q j _ => p == q && i == j
  | .newRoot p, .newRoot q => p == q
  | .lifeCycle .., .lifeCycle .. => true
  | .reProvision _, .reProvision _ => true
  | _, _ => false

/-- The 64 bytes of an officer record (Table 10.3). -/
def officerBytes (o : Officer) : List Byte :=
  leBytes 2 o.oid ++ leBytes 1 o.role ++ leBytes 1 o.ktype ++ zeros 4 ++ fitBytes 32 o.keyfp ++ leBytes 8 o.lastSeq ++ fitBytes 16 o.name

/-- TARGET of an image: its table number and its index. -/
def imageTarget (t : ImageTable) (i : Nat) : Nat :=
  let table := fun n => (Config.tableNumber n).toNat * 0x10000 + i
  match t with
  | .program => table 0
  | .format => table 1
  | .derivation => table 2
  | .curve => table 3
  | .applet => 0x50000 + i

/-- A record entry of TYPE, TARGET, SELECT, VALUE and IMGHASH. -/
def recordEntry (type target select value : Nat) (hash : List Byte) : List Byte :=
  leBytes 1 type ++ zeros 3 ++ leBytes 4 target ++ leBytes 4 select ++ leBytes 4 value ++ fitBytes 32 hash

/-- The 36 bytes of a life-cycle command (R311). -/
def lifeCycleBytes (target : Nat) (token : List Byte) : List Byte := leBytes 1 target ++ zeros 3 ++ fitBytes 32 token

/-- The record entry of a change that Table 10.8 gives no TARGET, from the free parts of it: TYPE 1, a register value, without an IMGHASH, or TYPE 2, an image, with its
length and its IMGHASH. -/
def otherEntry (what p i : Nat) (content : List Byte) : List Byte :=
  let e := Config.entryRecord what p i content
  if (numAt e 0 1) % 2 = 0 then recordEntry 1 (numAt e 1 4) (numAt e 5 4) (numAt e 9 4) []
  else recordEntry 2 (numAt e 1 4) (numAt e 5 4) content.length (if content.isEmpty then [] else sha3_256 content)

/-- The record entry of a change. -/
def changeRecord : Change → List Byte
  | .word a k v => recordEntry 1 a k v []
  | .image t i bs => recordEntry 2 (imageTarget t i) 0 bs.length (if bs.isEmpty then [] else sha3_256 bs)
  | .lifeCycle t tok => recordEntry 2 0xFF0000 0 36 (sha3_256 (lifeCycleBytes t tok))
  | .reProvision fromPartner => recordEntry 1 0xFE0000 0 (b2n fromPartner) []
  | .vf p i f => otherEntry 0 p i (leBytes 3 (match f with | some f => 1 + funcCode f | none => 0))
  | .create p => otherEntry 1 p 0 []
  | .delete p => otherEntry 2 p 0 []
  | .officer p i o => otherEntry 3 p i (officerBytes o)
  | .newRoot p => otherEntry 4 p 0 []

/-- TARGET and then SELECT of an entry, as one number. -/
def recordOrder (e : List Byte) : Nat := numAt e 8 4 + 2 ^ 32 * numAt e 4 4

/-- An entry placed in order. -/
def placeEntry (e : List Byte) : List (List Byte) → List (List Byte)
  | [] => [e]
  | x :: xs => if recordOrder e < recordOrder x then e :: x :: xs else x :: placeEntry e xs

/-- The scope of the change set. -/
def State.gateScope (s : State) : Nat := if s.get R.GATE_SCOPE_MOD = 1 then scopeModule else s.get R.GATE_SCOPE_PART

/-- SERIAL and GATE_SEQ, as records and messages carry them. -/
def State.gateStamp (s : State) : List Byte := leBytes 8 Config.serial.toNat ++ leBytes 8 s.gateSeq

/-- The change record. -/
def State.changeRecords (s : State) : List Byte :=
  let es := (s.gt.set.map changeRecord).foldl (fun es e => placeEntry e es) []
  [0x4B, 0x4C, 0x47, 0x43] ++ s.gateStamp ++ leBytes 2 s.gateScope ++ leBytes 2 (s.get R.GATE_CLASS) ++ leBytes 4 es.length ++ es.flatten

/-- DIGEST. -/
def State.gateDigest (s : State) : List Byte := (List.range 8).flatMap fun i => leBytes 4 (s.get (R.GATE_DIGEST i))

/-! ## Staging (R273, R277, R278) -/

/-- A staging write or SEAL refused: counted, INT_RAW bit 8. -/
def State.stageReject (s : State) : State := (s.countSat R.GATE_STAGE_REJECT).raise pgGATE 8

/-- A seal voided or expired: its approvals are gone and the gate is OPEN with its change set. -/
def State.voidSeal (s : State) : State :=
  let s := ((s.set R.GATE_STATE 1).set R.GATE_APPR1_OID 0).set R.GATE_APPR1_ROLE 0
  { s with gt := { s.gt with appr1 := none, appr2 := none } }.dropCardApproval

/-- Does the gate take a change of this class and scope now? -/
def State.gateTakes (s : State) (cls scope : Nat) : Bool :=
  s.get R.GATE_STATE ≤ 3 && (!s.noOfficers || cls == 8) &&
  (s.get R.GATE_STATE == 0 || (cls == s.get R.GATE_CLASS && scope == s.gateScope))

/-- A change put into the set: a seal is voided, and an earlier change of the same target and selector is replaced. -/
def State.putChange (s : State) (c : Change) (cls scope : Nat) : State :=
  let s :=
    if s.get R.GATE_STATE = 0 then
      let s := (s.set R.GATE_STATE 1).set R.GATE_CLASS cls
      (s.set R.GATE_SCOPE_MOD (b2n (scope == scopeModule))).set R.GATE_SCOPE_PART (if scope = scopeModule then 0 else scope)
    else if s.get R.GATE_STATE = 1 then s
    else ((s.countSat R.GATE_VOIDED_CNT).raise pgGATE 5).voidSeal
  let set := s.gt.set.filter (fun d => !sameTarget c d) ++ [c]
  { s.set R.GATE_ENTRIES set.length with gt.set := set }

/-- A staging write, with the answer whether the gate accepted it. -/
def State.stage (s : State) (c : Change) : State × Bool :=
  match s.changeClass c with
  | none => (s, false)
  | some (cls, scope) =>
    if s.gateTakes cls scope ∧ (s.gt.set.length < 4096 ∨ s.gt.set.any (sameTarget c)) then (s.putChange c cls scope, true)
    else (s.stageReject, false)

/-- STAGING_WRITE (R273): a write of guarded fields through a PF, under the selector as it stands; the bits of other fields are not staged. -/
def execStagingWrite (fn : Func) (c : Change) (s : State) : Result :=
  match fn, c with
  | .vf _ _, _ => .next s
  | .pf _, .word addr _ v =>
    let mask := ((guardedAt addr).map (·.mask)).getD 0
    if !s.responds (addr / 0x1000) ∨ !s.responds pgGATE then .next s else .next (s.stage (.word addr (s.selectorOf addr) (v &&& mask))).1
  | .pf _, .vf .. | .pf _, .create _ | .pf _, .delete _ | .pf _, .officer .. | .pf _, .newRoot _ =>
    if !s.responds pgGATE then .next s else .next (s.stage c).1
  | .pf _, .image .. | .pf _, .lifeCycle .. | .pf _, .reProvision _ => .next s

/-! ## The effect of a change (R276 step 2) -/

/-- A list with entry `i` written, grown with `d` where it is shorter. -/
def putAt {α : Type} (d : α) (l : List α) (i : Nat) (v : α) : List α := (l ++ List.replicate (i + 1 - l.length) d).set i v

/-- A register word of the partition entry its selector names (class 1). -/
def Part.word (x : Part) (addr v : Nat) : Part :=
  match addr with
  | 0xA0104 => { x with weight := bitsOf v 0 16, retry := bitOf v 16 }
  | 0xA0108 => { x with quota := v }
  | 0x30104 => { x with quotaPart := v }
  | 0x30108 => { x with quotaDom := v }
  | 0x3010C => { x with quotaMod := v }
  | 0x30110 => { x with ephQuota := v }
  | 0x30114 => { x with cres := v }
  | 0x41204 => { x with wbase := v }
  | 0x41208 => { x with wsize := v }
  | 0x43104 => { x with xbarWeight := v }
  | 0x71254 => { x with fwdEn := bitOf v 0, fwdThresh := bitsOf v 1 17 }
  | _ => x

/-- A guarded word written. -/
def State.writeGuarded (s : State) (addr select v : Nat) : State :=
  let cls := ((guardedAt addr).map (·.cls)).getD 0
  if cls = 1 ∨ addr = 0x71254 then s.updPart select fun x => x.word addr v
  else if cls = 2 then
    s.updPart (select % 1024) fun x =>
      let at_ := 32 * (select / 2 ^ 16)
      { x with pen := x.pen % 2 ^ at_ + 2 ^ at_ * v + x.pen / 2 ^ (at_ + 32) * 2 ^ (at_ + 32) }
  else if cls = 6 then
    if addr < 0x61220 then
      (List.range 8).foldl (fun s j =>
        let i := 8 * ((addr - 0x61200) / 4) + j
        { s with ob.resp := Sparse.set (obsRespReset i) s.ob.resp i (bitsOf v (4 * j) 4) }) s
    else
      (List.range 4).foldl (fun s j =>
        let i := 4 * ((addr - 0x61220) / 4) + j
        { s with ob.filtN := Sparse.set (obsFiltNReset i) s.ob.filtN i (bitsOf v (8 * j) 4 + 1),
                 ob.filtM := Sparse.set (obsFiltMReset i) s.ob.filtM i (bitsOf v (8 * j + 4) 4 + 1) }) s
  else
    let s := if addr = 0x10200 then s.keepBegun else s
    (guardedFields.filter (·.addr == addr)).foldl (fun s f => s.set f (bitsOf v f.lsb f.width)) s

/-- A service applet's header, where its fields lie in their ranges and its digest matches (R401, R402). -/
def readApplet (bs : List Byte) : Option AppletHeader :=
  let len := numAt bs 8 4
  if byteAt bs 0 = 1 ∧ byteAt bs 1 < 8 ∧ numAt bs 2 2 < 1024 ∧ 8 ≤ byteAt bs 4 ∧ byteAt bs 4 ≤ 31 ∧ byteAt bs 5 ≠ 0 ∧
      1 ≤ numAt bs 6 2 ∧ numAt bs 6 2 ≤ 64 ∧ 64 ≤ len ∧ len = bs.length ∧ len ≤ 2 ^ 20 ∧ numAt bs 12 4 < len ∧ zeroAt bs 48 16 ∧
      slice 16 32 bs = sha3_256 (bs.drop 64) then
    some { aslot := byteAt bs 1, tag := numAt bs 2 2, prioMin := byteAt bs 4, affinity := byteAt bs 5, nthread := numAt bs 6 2 }
  else none

/-- A committed applet started where its image passes and its tag names a partition; one that fails sets SCHED INT_RAW bit 4 (R403). -/
def State.loadApplet (s : State) (bs : List Byte) : State :=
  match readApplet bs with
  | some h => if (s.part h.tag).created then s.startApplet h else s.raise pgSCHED 4
  | none => s.raise pgSCHED 4

/-- A table image committed (R90, R108, R180, R402); an empty one empties its entry. The lines of its place in HBM are written whole (R246). -/
def State.commitImage (s : State) (t : ImageTable) (i : Nat) (bs : List Byte) : State :=
  match t with
  | .program =>
    let image := if bs.isEmpty then none else readImage i bs
    let s : State := { s with sq.progs := Sparse.upd {} s.sq.progs i fun x => { image, commits := x.commits + 1, bytes := bs } }
    let s := s.wholeLines (programBase + 4096 * i) 4096
    ({ s with sq.stale := s.sq.stale.filter (· ≠ i) ++ [i] }).showStale.settleStale.settlePins
  | .format =>
    let old := Sparse.get [] s.sq.fmtTab i
    { s.wholeLines (formatPlace i) 64 with sq.fmtPrev := Sparse.set none s.sq.fmtPrev i (some old), sq.fmtTab := Sparse.set [] s.sq.fmtTab i bs }
  | .derivation =>
    let old := Sparse.get [] s.sq.derTab i
    { s.wholeLines (derivationPlace i) 128 with
      sq.derPrev := Sparse.set none s.sq.derPrev i (some old), sq.derTab := Sparse.set [] s.sq.derTab i bs }
  | .curve =>
    let s : State := { s with
      pk := { s.pk with curves := Sparse.set [] s.pk.curves i bs, lastCheck := Sparse.set 0 s.pk.lastCheck i 0, crvCommits := s.pk.crvCommits + 1 } }
    let s : State := { s with pk.stale := (s.pk.stale.filter fun e => e.1 ≠ i) ++ [(i, s.pk.crvCommits)] }
    (s.wholeLines (curvePlace i) 512).showCurves.settleCurve
  | .applet =>
    let s := { s with sc.images := Sparse.set [] s.sc.images i bs }.stopApplet i
    if bs.isEmpty then s else s.loadApplet bs

/-- A T3 latch cleared by re-provisioning (R395 step 4): partition 0 takes a new module root; the module goes to SHADOW for its partner's roots, or
loses every tenant partition and enters BARE. -/
def State.reProvisioned (s : State) (fromPartner : Bool) : State :=
  let (k, s) := s.draw 32
  let s := { s with ob.latch := 0 }.updPart 0 fun x => { x with mroot := { gen := (x.mroot.gen + 1) % 2 ^ 24, key := some k } }
  if fromPartner then (((s.set R.PAIR_ROLE 2).set R.PAIR_SYNC 0).enterMode .shadow).settleTake
  else ((s.tenants.foldl (fun s p => s.deletePart p) s).enterMode .bare).settleTake

/-- A guarded register compared with its inverted shadow at its write: whether a fault has made them differ is free, and LOGIC is raised with cause 1 where they
do (R289, log 238). -/
def State.compareShadow (s : State) : State :=
  let t : State := { s with frees := s.frees + 1 }
  if Config.shadowDiffers s.frees then t.raiseInput (logicCond 1) else t

/-- The effect of one change. -/
def State.applyChange (s : State) : Change → State
  | .word a k v => (s.writeGuarded a k v).compareShadow
  | .image t i bs => s.commitImage t i bs
  | .vf p i f => s.updPart p fun x => { x with vfs := putAt none x.vfs i f }
  | .create p => if (s.part p).created then s else s.createPart p
  | .delete p => if (s.part p).created then s.deletePart p else s
  | .officer p i o => s.updPart p fun x => { x with officers := putAt {} x.officers i o }
  | .newRoot p =>
    let (k, s) := s.draw 32
    s.updPart p fun x => { x with proot := { gen := (x.proot.gen + 1) % 2 ^ 24, key := some k } }
  | .lifeCycle t _ => s.startTransition t
  | .reProvision fromPartner => s.reProvisioned fromPartner

/-- Is a change a creation, or a deletion? -/
def isCreate : Change → Bool | .create _ => true | _ => false
def isDelete : Change → Bool | .delete _ => true | _ => false

/-- Does the change set hold an image of this table? -/
def hasImage (t : ImageTable) (set : List Change) : Bool :=
  set.any fun c => match c with | .image u _ _ => t == u | _ => false

/-- A change set takes effect: creations first, deletions last; a format or derivation commit starts a new version of its table. -/
def State.applyChanges (s : State) (set : List Change) : State :=
  let s : State := if hasImage .format set then { s with sq := { s.sq with fmtPrev := [], fmtCommits := s.sq.fmtCommits + 1 } } else s
  let s : State := if hasImage .derivation set then { s with sq := { s.sq with derPrev := [], derCommits := s.sq.derCommits + 1 } } else s
  let s := (set.filter isCreate).foldl State.applyChange s
  let s := (set.filter fun c => !isCreate c && !isDelete c).foldl State.applyChange s
  (set.filter isDelete).foldl State.applyChange s

/-! ## SEAL (R273) -/

/-- The largest N and the floor of each input (Table 11.1). -/
def obsMaxN (i : Nat) : Nat := [2, 2, 2, 8, 8, 8, 8, 16, 4, 4, 4, 2, 2, 2, 4, 1, 16, 16, 1, 1, 4, 4].getD i 16
def obsFloor (i : Nat) : Nat := [4, 4, 4, 3, 3, 3, 3, 1, 1, 1, 1, 3, 4, 4, 1, 1, 0, 0, 3, 4, 4, 2].getD i 0

/-- Do the entries of a list differ from each other? -/
def distinct (l : List Nat) : Bool :=
  match l with
  | [] => true
  | x :: xs => !xs.contains x && distinct xs

/-- Do two work windows meet (R240)? -/
def windowsMeet (x y : Part) : Bool :=
  x.wsize != 0 && y.wsize != 0 && x.wbase < y.wbase + y.wsize && y.wbase < x.wbase + x.wsize

/-- Do the partition entries keep the rules of R32, R50, R198, R207, R209 and R240? -/
def State.partsValid (s : State) : Bool :=
  let ps := s.created
  let vfs := fun (x : Part) => x.vfs.filterMap id
  ps.all (fun e => 1 ≤ e.2.weight && 64 ≤ e.2.quota && e.2.quota ≤ 65536 && 16 ≤ e.2.ephQuota && e.2.ephQuota ≤ 16384 &&
    (e.2.wsize == 0 || e.2.wbase + e.2.wsize ≤ 10716) && (if e.1 = 0 then (vfs e.2).isEmpty else 1 ≤ (vfs e.2).length && (vfs e.2).length ≤ 8)) &&
  (ps.map (·.2.quota)).sum ≤ 65536 && (ps.map fun e => e.2.quotaPart + e.2.quotaDom + e.2.quotaMod).sum ≤ 268435456 &&
  (ps.map (·.2.cres)).sum ≤ 3072 && distinct (ps.flatMap fun e => (vfs e.2).map funcCode) &&
  ps.all (fun e => ps.all fun f => e.1 == f.1 || !windowsMeet e.2 f.2)

/-- Do the officer lists keep R264: each OID once, known roles and key types, and the module's records 8 to 15 empty? -/
def State.officersValid (s : State) : Bool :=
  s.created.all fun e =>
    let os := e.2.officers.filter (·.oid ≠ 0)
    distinct (os.map (·.oid)) && os.all (fun o => 1 ≤ o.role && o.role ≤ 4 && 1 ≤ o.ktype && o.ktype ≤ 3) &&
    (e.1 != 0 || (e.2.officers.drop 8).all (·.oid == 0))

/-- Does the response table keep R285 and R295? -/
def State.tamperValid (s : State) : Bool :=
  (List.range 32).all fun i =>
    (if i < 22 then obsFloor i ≤ s.respClass i && s.respClass i ≤ 4 else s.respClass i == 0) &&
    s.filtN i ≤ s.filtM i && s.filtN i ≤ obsMaxN i

/-- Do the tuned values lie in the ranges that R139, R363, R371 and Tables 13.8 and 15.6 refuse others of? -/
def State.tuningValid (s : State) : Bool :=
  s.get R.CC0_DMEAN ≤ 16 && 70 ≤ s.get R.PWR_THERM_HI && s.get R.PWR_THERM_HI ≤ 104 && 1 ≤ s.get R.PWR_THERM_HYS &&
  s.get R.FVL0_PPS_OFFSET ≤ 999999999 && s.parts.all (fun e => 1 ≤ e.2.fwdThresh && e.2.fwdThresh ≤ 65536)

/-- What a change may not be, whatever the rest of the set: shuffling turned off in a fielded state (R139), an administration slot enabled for a
tenant (R117), a value outside its range for any partition (R32, R50, R207), a partition created twice, deleted or re-rooted where there is none, a
program slot whose last replacement is not complete (R90; DESIGN CHOICE, log 183: refused at SEAL). -/
def State.changeValid (s : State) : Change → Bool
  | .word addr select v =>
    if addr = 0x10200 then bitOf v 8 || [1, 3, 6].contains s.lcState
    else if addr = 0xA1214 then select % 1024 == 0 || 2 ≤ select / 2 ^ 16 || v == 0
    else if addr = 0xA0104 then 1 ≤ bitsOf v 0 16
    else if addr = 0xA0108 then 64 ≤ v && v ≤ 65536
    else if addr = 0x30110 then 16 ≤ v && v ≤ 16384
    else true
  | .create p => p ≠ 0 && p < 1024 && !(s.part p).created
  | .delete p => p ≠ 0 && (s.part p).created
  | .newRoot p => (s.part p).created
  | .vf p i _ => p ≠ 0 && i < 8
  | .officer p i _ => p < 1024 && i < 16
  | .image .program i _ => !s.sq.stale.contains i
  | .image .. | .lifeCycle .. | .reProvision _ => true

/-- Would the change set break a rule of another chapter (R273)? Its effect is tried on a copy of the state. -/
def State.sealable (s : State) : Bool :=
  let cls := s.get R.GATE_CLASS
  let t := s.applyChanges s.gt.set
  s.gt.set.all s.changeValid &&
  (if cls = 1 then t.partsValid && t.officersValid
   else if cls = 5 then t.tuningValid
   else if cls = 6 then t.tamperValid
   else if cls = 8 then 10 ≤ t.get R.GATE_WINDOW_S && t.get R.GATE_WINDOW_S ≤ 3600 && t.officersValid
   else if cls = 9 then t.officersValid
   else true)

/-- GATE_SEAL (R273): GATE_SEQ moves on, the record and its digest are built, the window starts: INT_RAW bit 0. -/
def execGateSeal (s : State) : Result :=
  if !s.responds pgGATE then .next s else
  if s.inReset ∨ 2 ≤ s.get R.GATE_STATE then .next s
  else if s.gt.set.isEmpty ∨ ¬ s.sealable then .next s.stageReject
  else
    let seq := s.gateSeq + 1
    let s := ((s.set R.GATE_GATE_SEQ_LO seq).set R.GATE_GATE_SEQ_HI (seq / 2 ^ 32)).set R.GATE_STATE 2
    let d := sha3_256 s.changeRecords
    let s := (List.range 8).foldl (fun s i => s.set (R.GATE_DIGEST i) (numAt d (4 * i) 4)) s
    .next ({ s with gt := { s.gt with sealedAt := s.quartz, appr1 := none, appr2 := none } }.raise pgGATE 0)

/-- GATE_ABANDON (R277): the change set is discarded. -/
def execGateAbandon (s : State) : Result :=
  if !s.responds pgGATE then .next s else
  if s.inReset ∨ s.get R.GATE_STATE = 0 ∨ 4 ≤ s.get R.GATE_STATE then .next s else .next s.closeGate

/-- GATE_WINDOW_EXPIRE (R277): WINDOW_S seconds have passed since the seal, on the unit that GATE_WIN (feature 0) holds: INT_RAW bit 4. -/
def execGateWindowExpire (s : State) : Result :=
  if (s.get R.GATE_STATE = 2 ∨ s.get R.GATE_STATE = 3) ∧ s.gt.sealedAt + 1000000000 * s.get R.GATE_WINDOW_S ≤ s.quartz ∧ s.hasUnit 0 then
    .next ((((s.countSat R.GATE_EXPIRED_CNT).raise pgGATE 4).voidSeal).fire 0)
  else .next s

/-! ## Approvals (R275, R278) -/

/-- The officer list that approves the change set: the scope's, or the staged one while the module has no officers (R278). -/
def State.approvers (s : State) : List Officer :=
  if s.gateScope ≠ scopeModule then (s.part s.gateScope).officers
  else if s.noOfficers then s.gt.set.filterMap fun c => match c with | .officer 0 _ o => some o | _ => none
  else (s.part 0).officers

/-- Check 1: a sealed change, and a message that names this module, this seal and its digest. -/
def State.approvalNames (s : State) (msg : List Byte) : Bool :=
  (s.get R.GATE_STATE == 2 || s.get R.GATE_STATE == 3) &&
  decide (msg.take 52 = [0x4B, 0x4C, 0x41, 0x50] ++ s.gateStamp ++ s.gateDigest)

/-- The officer whose OID a message names. -/
def State.approver (s : State) (msg : List Byte) : Option Officer :=
  let oid := numAt msg 52 2
  if oid = 0 then none else s.approvers.find? (·.oid == oid)

/-- Bytes of a public key and of a signature of a KTYPE. -/
def approvalLens (ktype : Nat) : Nat × Nat := if ktype = 2 then (1952, 3309) else (97, 96)

/-- Check 2: the officer is in the list, the length is that of its key type, and the key is its own. -/
def State.approvalKeyed (s : State) (msg rest : List Byte) : Bool :=
  match s.approver msg with
  | none => false
  | some o =>
    let lens := approvalLens o.ktype
    rest.length == lens.1 + lens.2 && decide (sha3_256 (rest.take lens.1) = o.keyfp)

/-- Does a signature of an approval message verify under a key of a KTYPE (check 3)? -/
def approvalVerifies (ktype : Nat) (key sig msg : List Byte) : Bool :=
  if ktype = 2 then (dsaSet 1).verify [] key (0 :: msg) sig
  else
    let c := curveP384
    let r := beNat (sig.take 48)
    let t := beNat (sig.drop 48)
    match c.decode key with
    | some q => r ≠ 0 && r < c.n && t ≠ 0 && t < c.n && c.verify q (sha384 msg) r t
    | none => false

/-- A refused approval: LAST_REFUSE, REFUSED_CNT, INT_RAW bit 6. -/
def State.refuseApproval (s : State) (detail : Nat) : State :=
  ((s.set R.GATE_LAST_REFUSE detail).countSat R.GATE_REFUSED_CNT).raise pgGATE 6

/-- The checks of R275 in one step once the verification has ended: the status and DETAIL that refuse, or none. -/
def State.approvalRefusal (s : State) (msg key sig : List Byte) : Option (Nat × Nat) :=
  match s.approver msg with
  | none => some (stFormatError, 0xC080)
  | some o =>
    let role := byteAt msg 54
    let roles := if 6 ≤ s.get R.GATE_CLASS ∧ s.get R.GATE_CLASS ≤ 9 then [1, 2] else [1, 2, 4]
    if !s.approvalNames msg then some (stFormatError, 0xC080)
    else if !approvalVerifies o.ktype key sig msg then some (stAuthFail, 0)
    else if role ≠ o.role ∨ !roles.contains role then some (stFormatError, 0xC083)
    else match s.gt.appr1 with
      | some (oid, r) => if oid = o.oid ∨ r = role then some (stFormatError, 0xC084) else none
      | none => none

/-! ## Apply and completion (R276) -/

/-- The tenant partitions whose entries a class 1 change set changes, and the partition of a class 10 change; all of them for a life-cycle command. -/
def State.toFreeze (s : State) : List Nat :=
  let of : Change → List Nat := fun c => match c with
    | .word a k _ => if ((guardedAt a).map (·.cls)) = some 1 then [k] else []
    | .vf p _ _ | .delete p | .newRoot p => [p]
    | .officer p _ _ => if s.get R.GATE_CLASS = 1 then [p] else []
    | .lifeCycle _ _ => s.tenants
    | .create _ | .image .. | .reProvision _ => []
  ((s.gt.set.flatMap of).eraseDups).filter fun p => p ≠ 0 && (s.part p).created

/-- The second approval has been counted: the gate freezes what the class names (R276 step 1). -/
def State.startApply (s : State) : State :=
  let ps := s.toFreeze
  let s := (s.set R.GATE_STATE 4).dropCardApproval
  let s : State := ps.foldl (fun s p =>
    match (s.part p).pstate with
    | .active => (s.freezePart p).updPart p fun x => { x with gateFroze := true }
    | .draining => s.freezePart p
    | .frozen | .off => s) { s with gt.froze := ps }
  let life : Bool := s.gt.set.any fun c => match c with | .lifeCycle _ _ => true | _ => false
  if (s.mode = .service ∧ 1 < ps.length) ∨ (life ∧ (s.mode = .bare ∨ s.mode = .service)) then s.enterMode .maintenance else s

/-- An approval counted: INT_RAW bit 1 on the first; the second starts the apply. -/
def State.countApproval (s : State) (msg : List Byte) : State :=
  let oid := numAt msg 52 2
  match s.gt.appr1 with
  | none =>
    let s := (((s.set R.GATE_APPR1_OID oid).set R.GATE_APPR1_ROLE (byteAt msg 54)).set R.GATE_STATE 3).raise pgGATE 1
    { s with gt.appr1 := some (oid, byteAt msg 54) }
  | some _ => { s with gt.appr2 := some oid }.startApply

/-- APPROVAL_VERIFIED (R275): the verification of an approval by program 0x014 has ended; the program completes. -/
def execApprovalVerified (index : Nat) (wrOk : Bool) (s : State) : Result :=
  match s.gt.verifying[index]? with
  | none => .next s
  | some a =>
    let s : State := { s with gt.verifying := s.gt.verifying.eraseIdx index }
    match s.approvalRefusal a.msg a.key a.sig with
    | some (st, det) => .next ((s.refuseApproval (if st = stAuthFail then 5 else det)).endCommand a.ctx st det 0 wrOk)
    | none =>
      let st := if s.gt.appr1.isSome then 0x83 else stOK
      .next ((s.countApproval a.msg).endCommand a.ctx st 0 0 wrOk)

/-- LAST_SEQ of the officers counted (R275). -/
def State.stampOfficers (s : State) (seq p : Nat) : State :=
  let hit := fun (o : Officer) => o.oid ≠ 0 && ((s.gt.appr1.map (·.1)) == some o.oid || s.gt.appr2 == some o.oid)
  s.updPart p fun x => { x with officers := x.officers.map fun o => if hit o then { o with lastSeq := seq } else o }

/-- The mode at the end of a class 1 apply (R387). -/
def State.modeAfterApply (s : State) : State :=
  match s.mode with
  | .bare | .service | .maintenance => s.enterMode s.servingMode
  | .boot | .shadow | .responded => s

/-- The deltas of an apply: the changes, then the roots it drew (R343). -/
def State.sendApply (s : State) (set : List Change) : State :=
  let drawn := set.filterMap fun c => match c with | .create p | .newRoot p => some p | _ => none
  let r := s.sendDelta (.apply s.gateSeq set)
  drawn.foldl (fun s p =>
    let x := s.part p
    let r := s.sendDelta (.roots p x.proot x.droot x.mroot)
    { r.1 with gt.delta := r.2 }) { r.1 with gt.delta := r.2 }

/-- A committed PAIR_EN = 0 leaves the module unpaired: outputs low, nothing waits for a standby, a standby serves (R338). What SYNC and TAKE_UNSYNCED allowed
before the apply restarts the takeover count where it has changed (R345). -/
def State.settlePair (s : State) (allowed : Bool) : State :=
  let s := s.resettleTake allowed
  if s.get R.PAIR_PAIR_EN = 1 ∨ s.get R.PAIR_ROLE = 0 then s
  else
    let s := (((s.set R.PAIR_ROLE 0).set R.PAIR_SYNC 0).set R.PAIR_LAG 0).releaseHeld fun _ => true
    let s := s.dropRole.set R.PAIR_RESYNC_LEFT 0
    let s : State := { s with pr := { s.pr with waiting := false, taking := none, handed := false } }
    if s.mode = .shadow then s.enterMode s.servingMode else s

/-- Does a change name MPU `m` (R271)? -/
def mpuNamed (m : Nat) : Change → Bool
  | .word a _ _ => a / 4096 == 0x50 + m
  | _ => false

/-- GATE_APPLY (R276 steps 2 and 3): every freeze is complete; the values and shadows are written in one step, the partitions the gate froze from
ACTIVE return to it, a PART_CMD that waited for one of them is done (R260), and the gate enters COMPLETING: INT_RAW bit 2. It waits while a direct life-cycle transition runs (R314). -/
def execGateApply (s : State) : Result :=
  if s.get R.GATE_STATE ≠ 4 ∨ s.lc.target.isSome ∨ s.gt.froze.any (fun p => !s.partQuiet p) then .next s
  else
    let set := s.gt.set
    let frozen := s.gt.froze
    let allowed := s.syncAllows
    let s := frozen.foldl (fun s p => (s.updPart p fun x => { x with freezing := false }).commandDone p) s
    let s := (s.applyChanges set).stampOfficers s.gateSeq (if s.gateScope = scopeModule then 0 else s.gateScope)
    let s := ((List.range 14).filter fun m => set.any (mpuNamed m)).foldl (fun s m => s.mpuCutOver m) s
    let s := (s.count (R.BLK_SEQ pgGATE) 2).thawFrozen
    let s := if s.get R.GATE_CLASS = 1 then s.modeAfterApply else s
    .next (((((s.set R.GATE_STATE 5).raise pgGATE 2).sendApply set).settlePair allowed).settleTake.settleLevel)

/-- The completion rule of the class: no context of a replaced image, no command of a replaced entry, no operation on a replaced curve, no MPU that
drains (R90, R108, R180, R271). -/
def State.classDone (s : State) : Bool :=
  s.gt.set.all (fun c => match c with | .image .program i _ => !s.staleRuns i | _ => true) &&
  (!hasImage .format s.gt.set || s.running.all fun e => e.2.fmtCommits == s.sq.fmtCommits) &&
  (!hasImage .derivation s.gt.set || s.running.all fun e => e.2.derCommits == s.sq.derCommits) &&
  s.get R.PK0_STALE_BUSY == 0 && (List.range 14).all fun m => s.get (R.MPU_COMMIT_BUSY m) == 0

/-- Has the standby acknowledged the apply, where it is SYNCED (R344)? -/
def State.deltaDone (s : State) : Bool :=
  s.get R.PAIR_SYNC != 2 || (match s.gt.delta with | some d => s.pr.unacked.all (·.1 > d) | none => true)

/-- GATE_COMPLETE (R276): the completion rules are met and the flash holds the committed state, unless a life-cycle wipe erased it: INT_RAW
bit 3, IDLE; the firmware's journal takes a record (R425). -/
def execGateComplete (s : State) : Result :=
  if s.get R.GATE_STATE ≠ 5 ∨ ¬ s.classDone ∨ ¬ s.deltaDone then .next s
  else
    let s := s.set R.GATE_LAST_DONE_SEQ s.gateSeq
    let s : State := if s.gt.wiped then s else { s with gt.flash := s.committed s.gateSeq s.gateSeq }
    let s : State := { s with gt.delta := none, sq.fmtPrev := [], sq.derPrev := [] }
    let record : Append := { type := 1, payload := (Config.journalPayload s.gateSeq).take 216 }
    .next ((s.closeGate.raise pgGATE 3).journal record)

end Sys2Proof.Machine
end

