-- ==== Sys2Proof/Machine/Quartz.lean ====
section
/-! DEFINITION. Quartz: compare units, feature claims and latching reads (R409-R412). -/
namespace Sys2Proof.Machine

/-- The class of a compare-unit feature, the highest first: security, pair interlock, time, management, console, debug (Table 17.2, R411). -/
def featureClass (f : Nat) : Nat :=
  if f < 2 then 0 else if f = 2 then 1 else if f = 3 then 2 else if f = 6 then 4 else if f = 7 then 5 else 3

/-- Does feature `f` hold a unit against feature `g`? -/
def outranks (rank : Nat → Nat) (f g : Nat) : Bool := rank f < rank g || (rank f == rank g && f < g)

/-- OWNER and HELD of every unit as the enabled features claim them. -/
def State.settleUnits (s : State) : State :=
  (List.range 16).foldl (fun s u =>
    match (List.range 16).find? fun f => s.get (R.QTZ_EN f) == 1 && s.get (R.QTZ_UNIT f) == u with
    | some f => (s.set (R.QTZ_OWNER u) f).set (R.QTZ_HELD u) 1
    | none => (s.set (R.QTZ_OWNER u) 0).set (R.QTZ_HELD u) 0) s

/-- A feature loses a unit (R411): its EN reads 0 and its pending compare, on the unit it held, is discarded; the tick's loss is SCHED INT_RAW bit 3 (R408), and
Agate's makes its next record LONG (R438). -/
def State.loseUnit (s : State) (f winner : Nat) (held : Option Nat) : State :=
  let s := (((s.set (R.QTZ_EN f) 0).set R.QTZ_LOSER f).set R.QTZ_WINNER winner).raise pgQTZ 1
  let s := { s with qz.armed := if 8 ≤ f then s.qz.armed.filter (some · ≠ held) else s.qz.armed }
  let s := if f = 4 then s.raise pgSCHED 3 else s
  if f = 5 then { s with ag.longWin := true } else s

/-- FEATURE_CLAIM (R411): a write of a feature's register: UNIT, EN and HT_TB, which host timers use. -/
def execFeatureClaim (feature : Fin 16) (value : Word) (s : State) : Result :=
  if !s.responds pgQTZ then .next s else
  let f := feature.val
  let v := value.toNat
  let held := if s.get (R.QTZ_EN f) = 1 then some (s.get (R.QTZ_UNIT f)) else none
  let s := (s.set (R.QTZ_UNIT f) v).set (R.QTZ_EN f) (v / 16)
  let s := s.set (R.QTZ_HT_TB f) (v / 32)
  let s := if f = 5 ∧ ¬ bitOf v 4 then { s with ag.longWin := true } else s
  let s :=
    if s.get (R.QTZ_EN f) = 0 then s
    else match (List.range 16).find? fun g => g != f && s.get (R.QTZ_EN g) == 1 && s.get (R.QTZ_UNIT g) == s.get (R.QTZ_UNIT f) with
      | none => s
      | some g => if outranks featureClass f g then s.loseUnit g f (some (s.get (R.QTZ_UNIT g))) else s.loseUnit f g held
  .next s.settleUnits

/-- The compare value of a unit. -/
def State.compareOf (s : State) (u : Nat) : Nat := s.get (R.QTZ_CMP_LO u) + 2 ^ 32 * s.get (R.QTZ_CMP_HI u)

/-- COMPARE_FIRE (R410, R412): a host timer's unit reaches its compare: FIRED and QTZ INT_RAW bit 0; a periodic unit moves on by its period. A unit fires
at most once in 5 ns.
The units of features 0-7 signal their owners, and the owners' own commands are what the signal does and set FIRED. -/
def execCompareFire (unit : Fin 16) (s : State) : Result :=
  let u := unit.val
  let f := s.get (R.QTZ_OWNER u)
  let now := if s.get (R.QTZ_HT_TB f) = 1 then s.domainTime else s.quartz
  if s.get (R.QTZ_HELD u) = 0 ∨ f < 8 ∨ !s.qz.armed.contains u ∨ now < s.compareOf u ∨ s.quartz < Sparse.get 0 s.qz.rest u then .next s
  else
    let s := (s.set (R.QTZ_FIRED u) 1).raise pgQTZ 0
    let s : State := { s with qz.rest := Sparse.set 0 s.qz.rest u (s.quartz + 5) }
    let p := s.get (R.QTZ_PERIOD u)
    if p = 0 then .next { s with qz.armed := s.qz.armed.filter (· ≠ u) }
    else
      let c := s.compareOf u + p
      .next ((s.set (R.QTZ_CMP_LO u) c).set (R.QTZ_CMP_HI u) (c / 2 ^ 32))

end Sys2Proof.Machine
end

