-- ==== Sys2Proof/Machine/Cards.lean ====
section
/-! DEFINITION. The custodian card ports, the SD host with the sealed journal, and the service pins (R416-R433). -/
namespace Sys2Proof.Machine

/-! ## Activation (R416-R418) -/

/-- A command sent to the card of the approval; a stopped clock runs again (R417). -/
def State.sendCard (s : State) (next : CardStep) (header data : List Byte) : State :=
  { (s.set (R.CARD_CLK_STOPPED s.cd.port) 0).emit (.cardCommand s.cd.port header data) with cd.step := next }

/-- The next class in the order C, B, A, or none left: the card is deactivated, CARD INT_RAW bit 3, and its approval ends. -/
def State.nextClass (s : State) : State :=
  let c := s.get (R.CARD_CLASS s.cd.port) - 1
  if c = 0 then (s.raise pgCARD 3).endCardApproval 5 else s.set (R.CARD_CLASS s.cd.port) c

/-- ATR_TIMEOUT (R416): no answer to reset within 40,000 clocks. -/
def execAtrTimeout (port : Fin 2) (s : State) : Result :=
  if s.cd.step = .reset ∧ s.cd.port = port.val then .next s.nextClass else .next s

/-- CARD_CLOCK_STOP (R417): 1,860 clocks after a command the clock stops where the card allows it. -/
def execCardClockStop (port : Fin 2) (s : State) : Result :=
  if s.get (R.CARD_CLASS port) ≠ 0 ∧ s.cd.stops.contains port.val then .next (s.set (R.CARD_CLK_STOPPED port) 1) else .next s

/-- A card has come or gone: CARD INT_RAW bit 0 or 1; a removal deactivates its port and ends its approval (R418, R421). -/
def State.setPresence (s : State) (port : Nat) (present : Bool) : State :=
  if s.get (R.CARD_PRESENT port) = b2n present then s
  else
    let s := (s.set (R.CARD_PRESENT port) (b2n present)).raise pgCARD (if present then 0 else 1)
    if present then s
    else (if s.cd.port = port then s.dropCardApproval else s).deactivateCard port

/-- CARD_PRESENCE_CHANGE (R418): ten equal samples of CARDn_PRES; without the feature the card counts as absent. -/
def execCardPresenceChange (port : Fin 2) (present : Bool) (s : State) : Result :=
  if s.inReset ∨ s.get (R.PAD_EN port) = 0 then .next s else .next ((s.setPin port present).setPresence port present)

/-! ## Officer approval by card (R419-R421) -/

/-- The card clock of an activation in MHz, which stays where the card refuses the PPS request: 1 to 20, and which of these the spec does not say (R416). -/
def activationClock (port : Nat) : Nat := max 1 (min 20 (Config.cardClock port).toNat)

/-- APPROVE_GO (R420 steps 1 and 2): ignored while an approval runs; without a card RESULT 5, without a seal RESULT 1; else the card is activated,
class C first. A card whose pads are held, or whose domain is off, stays deactivated (R333): RESULT 5 (DESIGN CHOICE, log 235). -/
def execApproveGo (s : State) : Result :=
  if !s.responds pgCARD then .next s else
  let port := s.get R.CARD_APPROVE_PORT
  if s.inReset ∨ s.cd.step ≠ .idle then .next s
  else
    let s := { s with cd.port := port }
    if s.get (R.CARD_PRESENT port) = 0 ∨ s.pw.heldCard = true ∨ s.domainOn 42 = false then .next (s.endCardApproval 5)
    else if s.get R.GATE_STATE ≠ 2 ∧ s.get R.GATE_STATE ≠ 3 then .next (s.endCardApproval 1)
    else
      let s := ((s.set R.CARD_APPROVE_BUSY 1).set (R.CARD_CLASS port) 3).set (R.CARD_CLK_MHZ port) (activationClock port)
      .next { s with cd.step := .reset }

/-- OID and ROLE of the card's answer to GET INFO, and its public key. -/
def State.cardOid (s : State) : Nat := numAt s.cd.info 0 2
def State.cardRole (s : State) : Nat := byteAt s.cd.info 2
def State.cardKey (s : State) : List Byte := slice 4 97 s.cd.info

/-- The approval message for the card's officer (R275). -/
def State.cardMessage (s : State) : List Byte :=
  [0x4B, 0x4C, 0x41, 0x50] ++ s.gateStamp ++ s.gateDigest ++ leBytes 2 s.cardOid ++ leBytes 1 s.cardRole ++ [0]

/-- SIGN (step 4). -/
def State.askSign (s : State) : State := (s.setPin 4 false).sendCard .sign [0x80, 0x2A, 0, 0] (sha384 s.cardMessage)

/-- GET INFO answered (steps 1, 3 and 4): a card that needs a PIN waits for the keypad, whose two features must be enabled. -/
def State.cardInfo (s : State) (info : List Byte) : State :=
  let s : State := { s with cd.info := info }
  let s := (s.set R.CARD_CARD_OID s.cardOid).set R.CARD_CARD_ROLE s.cardRole
  if !bitOf (byteAt info 3) 0 then s.askSign
  else if s.get (R.PAD_EN 2) = 0 ∨ s.get (R.PAD_EN 3) = 0 then s.endCardApproval 6
  else
    let seconds := max 10 (s.get R.CARD_APPROVE_TIMEOUT_S)
    { s.setPin 4 true with cd := { s.cd with step := .keypad, due := s.quartz + 1000000000 * seconds } }

/-- The status that refuses the card's approval, by all the checks of Table 10.9 (step 5). -/
def State.cardRefusal (s : State) (sig : List Byte) : Option (Nat × Nat) :=
  let msg := s.cardMessage
  if !s.approvalNames msg then some (stFormatError, 0xC080)
  else if !s.approvalKeyed msg (s.cardKey ++ sig) then some (stFormatError, 0xC082)
  else s.approvalRefusal msg s.cardKey sig

/-- The gate judges the signature (step 5); the port deactivates the card (step 6). -/
def State.judgeCard (s : State) (sig : List Byte) : State :=
  match s.cardRefusal sig with
  | some (st, det) => (s.refuseApproval (if st = stAuthFail then 5 else det)).endCardApproval 4
  | none =>
    let msg := s.cardMessage
    (s.endCardApproval (if s.gt.appr1.isSome then 3 else 2)).countApproval msg

/-- CARD_RESPONSE (R416, R419, R420): the answer to reset, after which the port asks for the card's best pair; the card's answer to that, a refusal of which
leaves the default values; or the response to a command: any status but 0x9000 ends the approval. -/
def execCardResponse (port : Fin 2) (answer : CardAnswer) (s : State) : Result :=
  if s.cd.port ≠ port.val then .next s
  else match answer, s.cd.step with
  | .atr allows clockStop t1 mhz fidi, .reset =>
    if !allows then .next s.nextClass
    else
      let s := s.set (R.CARD_PROTO_T1 port) (b2n t1)
      let clock := max 1 (min 20 mhz.val)
      .next ({ s with
        cd := { s.cd with
          step := .pps, offer := (fidi.toNat, clock)
          stops := if clockStop then s.cd.stops ++ [port.val] else s.cd.stops } }.emit (.cardPps port fidi.toNat clock))
  | .pps accepted, .pps =>
    let s : State := if accepted then { s.set (R.CARD_CLK_MHZ port) s.cd.offer.2 with cd.fidi := s.cd.offer.1 } else s
    .next (s.sendCard .select [0, 0xA4, 4, 0] [0xF0, 0x4B, 0x4C, 0x43, 0x55, 0x53, 0x54])
  | .response status data, step =>
    let ok : Bool := status == 0x9000
    match step with
    | .select => .next (if ok then s.sendCard .info [0x80, 0xCA, 0, 0] [] else s.endCardApproval 5)
    | .info => .next (if ok && data.length == 101 then s.cardInfo data else s.endCardApproval 5)
    | .verify => .next (if ok then s.askSign else s.endCardApproval 5)
    | .sign => .next (if ok && data.length == 96 then s.judgeCard data else s.endCardApproval 5)
    | .idle | .reset | .pps | .keypad => .next s
  | .atr .., _ | .pps _, _ => .next s

/-- An ISO 9564-1 format 2 PIN block. -/
def pinBlock2 (pin : List Nat) : List Byte :=
  packNibbles (([2, pin.length] ++ pin ++ List.replicate 14 15).take 16)

/-- KEYPAD_PIN_ENTRY (R420 step 3): the PIN is entered and VERIFY is sent. -/
def execKeypadPinEntry (pin : List (Fin 10)) (s : State) : Result :=
  if s.cd.step = .keypad ∧ 4 ≤ pin.length ∧ pin.length ≤ 12 then
    .next (s.sendCard .verify [0, 0x20, 0, 0x80] (pinBlock2 (pin.map (·.val))))
  else .next s

/-- APPROVE_TIMEOUT (R421): the PIN has not been entered in time. -/
def execApproveTimeout (s : State) : Result :=
  if s.cd.step = .keypad ∧ s.cd.due ≤ s.quartz then .next (s.endCardApproval 6) else .next s

/-! ## The SD host (R422-R424) -/

/-- The mode reached from `m` downward, with the tunings that failed (R423 steps 4 to 7). `base` is the mode before any switch. -/
def raiseMode (x : Medium) (base : Nat) : Nat → Nat × Nat
  | 0 => (base, 0)
  | m + 1 =>
    if m + 1 ≤ base then (base, 0)
    else if !x.supports.getLsbD (m + 1) then raiseMode x base m
    else if !x.reports.getLsbD (m + 1) then (base, 0)
    else if 5 ≤ m + 1 ∧ !x.tunes.getLsbD (m + 1) then
      let r := raiseMode x base m
      (r.1, r.2 + 1)
    else (m + 1, 0)

/-- The mode and failed tunings of a medium under a MAXMODE: an SD card reaches modes 3 to 6 only on 1.8 V signalling; HS200 is eMMC's. -/
def bestMode (x : Medium) (maxMode : Nat) : Nat × Nat :=
  if maxMode = 0 then (0, 0)
  else if x.emmc then raiseMode { x with supports := x.supports &&& 0x86 } 1 maxMode
  else if x.s18a ∧ 3 ≤ maxMode then raiseMode { x with supports := x.supports &&& 0x78 } 3 maxMode
  else raiseMode { x with supports := x.supports &&& 0x06 } 1 maxMode

/-- Is a block a record of this module with a valid MAC? -/
def validRecord (mmk r : List Byte) : Bool :=
  r.take 4 == [0x4B, 0x4C, 0x4A, 0x52] && slice 4 8 r == leBytes 8 Config.serial.toNat && slice 240 16 r == journalMac mmk (slice 0 240 r)

/-- The block of record C + 1 checked before the first append (R427). -/
def State.checkJournal (s : State) (block : List Byte) : State :=
  match s.ob.mmk with
  | none => s
  | some mmk =>
    let num := numAt block 12 8
    if !validRecord mmk block ∨ s.ob.journal + 1 < num then ((s.countSat R.SD_TORN_CNT).raise pgSD 5).set R.SD_JSTATE 1
    else if num = s.ob.journal + 1 then
      { ((s.countSat R.SD_ROLLFWD_CNT).raise pgSD 3).set R.SD_JSTATE 2 with ob.journal := num }
    else ((s.countSat R.SD_REPLAY_CNT).raise pgSD 4).set R.SD_JSTATE 1

/-- SD_INSERT (R422, R423, R427, R428): a medium is detected, brought up to speed and its journal block checked, at the end of BOOT where it was
there before: SD INT_RAW bit 0. An SD card is detected on SD_CD (feature 9); an eMMC device without an RPMB key is given it. -/
def execSdInsert (m : Medium) (s : State) : Result :=
  if s.inReset ∨ s.get R.SD_PRESENT = 1 ∨ !s.domainOn 41 ∨ s.pw.heldSd ∨ (!m.emmc ∧ s.get (R.PAD_EN 9) = 0) then .next s
  else
    let best := bestMode m (s.get R.SD_MAXMODE)
    let s := ((s.set R.SD_PRESENT 1).set R.SD_EMMC (b2n m.emmc)).set R.SD_MODE best.1
    let s := ((s.set R.SD_WIDTH (if m.emmc then m.width else 1)).countSat R.SD_TUNE_FAIL_CNT best.2).raise pgSD 0
    let s := if best.2 = 0 then s else s.raise pgSD 2
    let s := if m.emmc then s else s.setPin 9 false
    if s.ob.mmk.isNone then .next s
    else if m.emmc then
      let s := if m.rpmbKey.isNone then s.emit (.rpmbKey (rpmbAuthKey (s.ob.mmk.getD []))) else s
      .next ({ s with jr.rpmb := m.rpmb }.set R.SD_JSTATE (if m.rpmbKey = some false then 3 else 1))
    else if s.get R.RST_BOOT_STAGE = 6 then .next (s.checkJournal m.block)
    else .next { s with jr.found := some m.block }

/-- SD_REMOVE (R426): any append fails, C stays: SD INT_RAW bit 1. -/
def execSdRemove (s : State) : Result :=
  if s.get R.SD_PRESENT = 0 then .next s
  else
    let s := s.closeJournal
    let s := ((s.set R.SD_PRESENT 0).set R.SD_MODE 0).set R.SD_WIDTH 0
    let s : State := { s with jr := { rpmb := s.jr.rpmb } }
    .next ((s.setPin 9 true).raise pgSD 1)

/-- SD_BUSY_END (R426): busy has ended and the block is read back: equal to what was written, it advances C to its number and program 0x01F completes
with it; the next append starts. -/
def execSdBusyEnd (block : List Byte) (wrOk : Bool) (s : State) : Result :=
  match s.jr.queue with
  | [] => .next s
  | a :: as =>
    if s.jr.record.isEmpty then .next s
    else if fitBytes s.jr.record.length block ≠ s.jr.record then .next s.failAppend.startAppend
    else
      let num := s.journalCount + 1
      let s := s.setJournalCount num
      let s : State := { s with jr := { s.jr with queue := as, record := [] } }
      let s := match a.owner with
        | some k => (s.updCtx k fun x => { x with result := fitBytes 16 (leBytes 8 num) }).endCommand k stOK 0 8 wrOk
        | none => s
      .next s.startAppend

/-- SD_BUSY_TIMEOUT (R424, R426): busy for more than 250 ms fails the write. -/
def execSdBusyTimeout (s : State) : Result :=
  if s.jr.record.isEmpty ∨ s.quartz ≤ s.jr.since + 250000000 then .next s else .next s.failAppend.startAppend

/-! ## Service pins (R430) -/

/-- The class of a service-pin feature, the highest first (Table 18.3). -/
def pinClass (f : Nat) : Nat := if f < 7 then 0 else if f = 7 then 1 else if f = 8 then 2 else if f = 9 then 3 else if f < 12 then 4 else 5

/-- A feature loses its pin: its EN reads 0, CONFLICT names both, PAD INT_RAW bit 0. -/
def State.losePin (s : State) (f winner : Nat) : State :=
  (((s.set (R.PAD_EN f) 0).set R.PAD_LOSER f).set R.PAD_WINNER winner).raise pgPAD 0

/-- PIN_CLAIM (R430): a write of a feature's PIN and EN; on a pin two features claim, the higher class holds it. A card whose presence feature is off
counts as absent (R418). -/
def execPinClaim (feature : Fin 13) (value : Word) (s : State) : Result :=
  if !s.responds pgPAD then .next s else
  let f := feature.val
  let v := value.toNat
  let s := (s.set (R.PAD_PIN f) v).set (R.PAD_EN f) (v / 16)
  let s :=
    if s.get (R.PAD_EN f) = 0 then s
    else match (List.range 13).find? fun g => g != f && s.get (R.PAD_EN g) == 1 && s.get (R.PAD_PIN g) == s.get (R.PAD_PIN f) with
      | none => s
      | some g => if outranks pinClass f g then s.losePin g f else s.losePin f g
  .next ((List.range 2).foldl (fun s n => if s.get (R.PAD_EN n) = 0 then s.setPresence n false else s) s)

end Sys2Proof.Machine
end

