-- ==== Sys2Proof/Machine/Standby.lean ====
section
/-! DEFINITION. The committed state put back from the configuration flash, and the standby's deltas (R86, R177, R276, R343, R348). -/
namespace Sys2Proof.Machine

/-- A partition whose entry is read back; its run-time state stays, and one that appears is ACTIVE. -/
def Part.restore (x e : Part) : Part :=
  { x with
    created := e.created, domain := e.domain, fwdEn := e.fwdEn, fwdThresh := e.fwdThresh, weight := e.weight, retry := e.retry, quota := e.quota,
    xbarWeight := e.xbarWeight, ephQuota := e.ephQuota, quotaPart := e.quotaPart, quotaDom := e.quotaDom, quotaMod := e.quotaMod, cres := e.cres,
    wbase := e.wbase, wsize := e.wsize, prevOk := e.prevOk, tepoch := e.tepoch, vfs := e.vfs, proot := e.proot, droot := e.droot,
    mroot := e.mroot, pen := e.pen, officers := e.officers
    pstate := if !e.created then .off else if x.pstate = .off then .active else x.pstate }

/-- The guarded registers that are the module's own and that no partner's state replaces: the pair's and MEMBER_NO. -/
def ownField (f : Field) : Bool := inPage 0x70 f.key || f == R.FVL0_MEMBER_NO

/-- The guarded registers of a committed state. -/
def State.loadRegs (s : State) (f : Flash) (fields : List Field) : State :=
  fields.foldl (fun s x => s.set x (Sparse.get x.reset f.regs x.key)) s

/-- The partition entries, the tamper table and the sequences of a committed state. -/
def State.loadEntries (s : State) (f : Flash) : State :=
  let keys := (s.parts.map (·.1) ++ f.parts.map (·.1)).eraseDups
  let s := keys.foldl (fun s p => s.updPart p fun x => x.restore (Sparse.get {} f.parts p)) s
  let s : State := { s with ob := { s.ob with resp := f.resp, filtN := f.filtN, filtM := f.filtM } }
  ((s.set R.GATE_GATE_SEQ_LO f.seq).set R.GATE_GATE_SEQ_HI (f.seq / 2 ^ 32)).set R.GATE_LAST_DONE_SEQ f.done

/-- An integrator image read back: rechecked under R83, its slot left empty where a check fails (R86). -/
def ProgSlot.recheck (slot : Nat) (x : ProgSlot) : ProgSlot := { x with image := readImage slot x.bytes }

/-- The integrator images, tables and curves of a committed state, checked again as they are read back (R86). -/
def State.loadImages (s : State) (f : Flash) : State :=
  State.loadTables { s with
    sq.progs := s.sq.progs.filter (·.1 < 1024) ++ f.progs.map fun e => (e.1, e.2.recheck e.1)
    sc.images := f.applets } f

/-- Has an object a delta brings passed the checks of its table (R83, R107, R177)? An empty one empties its entry. -/
def Change.sound : Change → Bool
  | .image t i bs =>
    bs.isEmpty || match t with
    | .program => (readImage i bs).isSome
    | .format => (fmtCheck bs).isNone
    | .derivation => (derCheck bs).isNone
    | .curve => curveHeader bs
    | .applet => true
  | .word .. | .lifeCycle .. | .reProvision _ | .vf .. | .create _ | .delete _ | .officer .. | .newRoot _ => true

/-- Does the standby take over a change of its partner? Its own registers, its life cycle and a re-provisioning stay its own. -/
def partnerChange : Change → Bool
  | .word a _ _ => a / 4096 != 0x70 && a != 0x71204
  | .lifeCycle .. | .reProvision _ => false
  | .image .. | .vf .. | .create _ | .delete _ | .officer .. | .newRoot _ => true

/-- What a delta writes (R343, R348): a partition's new state has its effect on the standby's own queue pairs; the committed state is the first of a
resynchronisation, and SYNC follows. -/
def State.takeDelta (s : State) : Delta → State
  | .line k l =>
    let s : State := { s with ge.lines := placeLine s.ge.lines k l }
    s.set R.PAIR_RESYNC_LEFT (s.get R.PAIR_RESYNC_LEFT - 1)
  | .resync n => s.set R.PAIR_RESYNC_LEFT n
  | .pstate p .frozen => if (s.part p).pstate = .frozen then s else s.freezePart p
  | .pstate p .active => if (s.part p).pstate = .frozen then s.thawPart p else s.updPart p fun x => { x with pstate := .active }
  | .pstate p st => s.updPart p fun x => { x with pstate := st }
  | .roll p t prev => (s.updPart p fun x => { x with tepoch := t, prevOk := prev }).keepEntry p
  | .roots p a b c => (s.updPart p fun x => { x with proot := a, droot := b, mroot := c }).keepEntry p
  | .apply seq changes =>
    let s := s.applyChanges (changes.filter fun c => partnerChange c && c.sound)
    let s := ((s.set R.GATE_GATE_SEQ_LO seq).set R.GATE_GATE_SEQ_HI (seq / 2 ^ 32)).set R.GATE_LAST_DONE_SEQ seq
    { s with gt.flash := s.committed seq seq }
  | .committed f =>
    let t := (s.loadRegs f (guardedFields.filter fun x => !ownField x)).loadEntries f |>.loadImages f
    { t.set R.PAIR_SYNC 1 with gt.flash := t.committed f.seq f.done }.resettleTake s.syncAllows

/-- The number of the delta last applied. -/
def State.dseq (s : State) : Nat := s.get R.PAIR_DSEQ_LO + 2 ^ 32 * s.get R.PAIR_DSEQ_HI

/-- DELTA_APPLY (R343): the standby receives the delta that follows the last one, writes what it carries and acknowledges it; a
resynchronisation's first may carry any number (R348). -/
def execDeltaApply (dseq : Nat) (delta : Delta) (s : State) : Result :=
  let first : Bool := match delta with | .committed _ => true | _ => false
  if s.get R.PAIR_ROLE ≠ 2 ∨ s.inReset ∨ (dseq ≠ s.dseq + 1 ∧ ¬ first) then .next s
  else .next ((((s.takeDelta delta).set R.PAIR_DSEQ_LO dseq).set R.PAIR_DSEQ_HI (dseq / 2 ^ 32)).tellPartner fun k => .deltaAck k dseq)

end Sys2Proof.Machine
end

