-- ==== Sys2Proof/Machine/Boot.lean ====
section
/-! DEFINITION. Start-up, the end of BOOT and of a wake, module resets, the watchdog, SMBus and the test port (R381-R394, R458-R461). -/
namespace Sys2Proof.Machine

/-! ## Kolulen's programs (R82, R389, Tables 4.9 to 4.12) -/

/-- MODES of a Kolulen slot (Table 16.5): bit 0 BARE, 1 SERVICE, 2 MAINTENANCE, 3 SHADOW, 4 RESPONDED. -/
def shippedModes (slot : Nat) : Nat :=
  match slot with
  | 0x14 | 0x16 | 0x17 | 0x18 => 0b10111
  | 0x15 => 0b11111
  | 0x19 => 0b00011
  | 0x1A => 0b01111
  | 0x1B => 0b00110
  | 0x1C | 0x1D => 0b10000
  | _ => 0b00111

/-- The slots that hold a Kolulen program. -/
def shippedSlots : List Nat :=
  (List.range 16).map (0x10 + ·) ++ (List.range 9).map (0x100 + ·) ++ [0x10A, 0x10B, 0x140, 0x141, 0x148, 0x149, 0x14A, 0x150, 0x180, 0x181] ++
  [0x1A0, 0x1A1, 0x1A2, 0x1A3, 0x1C0, 0x1C1, 0x1C2, 0x1E0, 0x1E1, 0x200, 0x201, 0x202, 0x203, 0x204, 0x205] ++ (List.range 12).map (0x240 + ·)

/-- Does a Kolulen program hand work to the public-key clusters (R87)? -/
def shippedPkx (slot : Nat) : Bool := [0x13, 0x14, 0x18, 0x1A, 0x1D, 0x100, 0x107].contains slot || 0x240 ≤ slot

/-- The image of a Kolulen slot: its instructions are not in the spec, and its program runs by its own rule. -/
def shippedImage (slot : Nat) : Image :=
  { modes := shippedModes slot, lenM1 := (Config.programLength slot).toNat, usesPkx := shippedPkx slot }

/-- The slots of the active firmware image; without one, the boot ROM's recovery program alone (R86, R383). -/
def State.shipped (s : State) : Sparse ProgSlot :=
  (if s.get R.RST_BOOT_ERR = 1 then [0x1D] else shippedSlots).map fun n => (n, { image := some (shippedImage n) })

/-! ## The blocks of BOOT (Table 16.1, R383, R384) -/

/-- BOOT_STAGE moved on. -/
def State.bootStage (s : State) (n : Nat) : State := if s.mode = .boot then s.keepMax R.RST_BOOT_STAGE n else s

/-- The firmware slot with the higher version among those that authenticate, ties to A; BOOT_ERR 1 without one (R383). -/
def State.chooseFirmware (s : State) : State :=
  let use := fun (b : Bool) (v : Nat) =>
    { (s.set R.RST_FW_SLOT (b2n b)).set R.SCHED_CORE_FW (if b then 0xFF else 0) with bt.fwVersion := v }
  match s.bt.slotA, s.bt.slotB with
  | some a, some b => if a < b then use true b else use false a
  | some a, none => use false a
  | none, some b => use true b
  | none, none => if s.get R.RST_BOOT_ERR = 0 then s.set R.RST_BOOT_ERR 1 else s

/-- The committed state of BOOT (R270, R276), from a user region that authenticates; one that does not is erased (R13, R310): guarded registers, partition entries, partition 0, and the MPU rules, EPOCH 1; the domain's membership
as the secret kept for it says. -/
def State.loadCommitted (s : State) : State :=
  let f := s.userRegion
  let s := ({ s with gt.flash := f }.loadRegs f guardedFields).loadEntries f
  let s := s.updPart 0 fun x => { x with created := true, pstate := .active }
  let s := ((s.set R.FVL0_ENROLLED (b2n (!s.dm.secret.isEmpty))).set R.FVL0_DOMAIN_ID_LO s.dm.id).set R.FVL0_DOMAIN_ID_HI (s.dm.id / 2 ^ 32)
  { (List.range 14).foldl (fun s m => s.set (R.MPU_EPOCH m) 1) s with gt.mpuLoaded := true }

/-- What must stand before a block is ready. -/
def State.mayBeReady (s : State) (b : Nat) : Bool :=
  let hbm := fun (f : Nat → Field) => s.get (f 0) == 1 && s.get (f 1) == 1
  match b with
  | 6 => s.bit R.RST_BLK_READY 7 && s.bit R.RST_BLK_READY 11
  | 7 => hbm R.HBM_PHY_READY && hbm R.HBM_PROT_READY
  | 9 | 15 | 17 | 19 => s.bit R.RST_BLK_READY 18
  | 10 => s.get R.FLT_READY == 1
  | 18 => s.bit R.RST_BLK_READY 6
  | _ => true

/-- What a block does as it becomes ready. In BOOT the firmware is chosen, the module-scope records and the committed state are restored, the tables
rebuilt and the committed applets started; after S3 the program, format, derivation and curve tables are rebuilt too (R86, R106, R177). -/
def State.blockStarts (s : State) (b : Nat) : State :=
  let boot : Bool := s.mode == .boot
  match b with
  | 6 =>
    let lines := if boot then s.userRegion.moduleKeys.foldl (fun m e => placeLine m e.1 e.2) s.ge.lines else s.ge.lines
    { s with ge := { s.ge with lines, ready := true } }
  | 7 => s.bootStage 4
  | 10 => s.bootStage 2
  | 11 => if boot then s.chooseFirmware.bootStage 3 else s
  | 15 => if boot then s.userRegion.applets.foldl (fun s e => s.loadApplet e.2) { s with sc.tickDue := s.quartz } else s
  | 16 => s.clearLive.openWindow
  | 18 => if boot then s.loadCommitted.bootStage 5 else s
  | 19 => if boot || s.pw.s3 then ({ s with sq.progs := s.shipped }.loadImages s.userRegion).settlePins else s
  | _ => s

/-- BLOCK_READY (R384): a block has started after a reset or a wake: its bit of BLK_READY is set. -/
def execBlockReady (block : Fin 20) (s : State) : Result :=
  let b := block.val
  let starts : Bool := s.get R.RST_BOOT_STAGE ≠ 0 && s.mode == .boot || s.pw.phase == .waking
  if s.inReset ∨ !starts ∨ s.bit R.RST_BLK_READY b ∨ !s.mayBeReady b then .next s
  else .next ((s.blockStarts b).setBit R.RST_BLK_READY b true).settleWake

/-- Partition 0's roots on a module that has none yet: no ceremony creates partition 0, so they are drawn as BOOT first ends, generation 1 (DESIGN CHOICE, log 230:
R189 gives partition 0 its roots and no rule says when). -/
def State.firstRoots (s : State) : State :=
  let x := s.part 0
  if x.proot.gen ≠ 0 ∨ x.mroot.gen ≠ 0 then s
  else
    let (a, s) := s.draw 32
    let (b, s) := s.draw 32
    let (m, s) := s.draw 32
    let b := if s.enrolled then s.domainRoot 0 else b
    (s.updPart 0 fun x => { x with proot := { gen := 1, key := some a }, droot := { gen := 1, key := some b }, mroot := { gen := 1, key := some m } }).keepEntry 0

/-- The mode BOOT ends into (R386): RESPONDED, the claim of a paired module, BARE or SERVICE. -/
def State.leaveBoot (s : State) : State :=
  if s.get R.RST_BOOT_ERR = 1 ∨ 3 ≤ s.ob.latch then s.enterMode .responded
  else if s.get R.PAIR_PAIR_EN = 1 then s.bootClaim
  else s.enterMode s.servingMode

/-- BOOT_END (R386): every block is ready: the module takes its mode, the watchdog starts (R393), a pending T1 latches (R299) and a medium found in
BOOT has its journal checked (R427): RST INT_RAW bit 0. An INVALID or SCRAPPED module stays in BOOT. -/
def execBootEnd (s : State) : Result :=
  if s.inReset ∨ s.mode ≠ .boot ∨ s.get R.RST_BOOT_STAGE = 6 ∨ s.get R.RST_BLK_READY ≠ 0xFFFFF ∨ s.lcState = 0xF ∨ s.lcState = 7 then .next s
  else
    let s := (s.set R.RST_BOOT_STAGE 6).set R.RST_BOOT_US (min (2 ^ 20 - 1) ((s.quartz - s.bt.released) / 1000))
    let s := { (s.raise pgRST 0).startWatchdog with bt.t2 := false }.firstRoots.leaveBoot
    let s := match s.jr.found with | some b => { s with jr.found := none }.checkJournal b | none => s
    if s.ob.pendT1 then .next { s with ob.pendT1 := false }.latchT1 else .next s.applyT1

/-! ## Module resets (R392-R394) -/

/-- PERST_ASSERT (R392): the core die is reset and held. -/
def execPerstAssert (s : State) : Result :=
  if s.inReset then .next { s with bt.perst := true } else .next { s.moduleReset 2 with bt.perst := true }

/-- PERST_RELEASE (R381): BOOT starts from time 0. -/
def execPerstRelease (s : State) : Result :=
  if !s.bt.perst then .next s else .next { s with bt.perst := false }.startBoot

/-- MOD_RESET (R394): acts with the key and GO in one write; during a life-cycle transition it counts as the transition's own reset. -/
def execModReset (value : Word) (s : State) : Result :=
  if s.inReset ∨ value.toNat / 65536 ≠ 0x4B52 ∨ ¬ bitOf value.toNat 0 ∨ s.lc.target.isSome then .next s else .next (s.resetModule 5)

/-- WATCHDOG_EXPIRE (R393): a period without a kick. -/
def execWatchdogExpire (s : State) : Result :=
  match s.bt.wdogDue with
  | some t => if s.inReset ∨ s.quartz < t then .next s else .next (s.resetModule 6)
  | none => .next s

/-- WDOG_KICK (R393, R413). -/
def execWdogKick (s : State) : Result :=
  if !s.responds pgRST then .next s else
  if s.bt.wdogDue.isSome then .next s.startWatchdog else .next s

/-! ## Management signals (R390, R391) -/

/-- The SMBus status byte. -/
def State.smbusStatus (s : State) : Nat :=
  s.mode.code + 8 * b2n (s.get R.RST_BOOT_ERR ≠ 0) + 16 * b2n (s.ob.latch == 1) + 32 * b2n (s.lcState == 0xF || s.lcState == 7) +
  64 * b2n (s.get R.PAIR_ROLE == 1)

/-- Does the SMBus target answer: P12V or P3V3_AUX is present? -/
def State.smbusUp (s : State) : Bool := s.ob.onMain || s.ob.aux

/-- SMBUS_RECEIVE_BYTE (R390). -/
def execSmbusReceiveByte (s : State) : Result := if s.smbusUp then .next (s.emit (.smbusByte s.smbusStatus)) else .next s

/-- SMBUS_TRANSACTION (R390): a NACK of the command byte in BOOT; afterwards it is answered, with what the spec does not say. -/
def execSmbusTransaction (s : State) : Result :=
  if !s.smbusUp then .next s
  else if s.mode = .boot then .next (s.emit .smbusNack)
  else .next ({ s with frees := s.frees + 1 }.emit (.smbusByte (Config.smbusAnswer s.frees)))

/-- MOD_HEALTH: driven once BOOT has ended (R391). -/
def State.modHealth (s : State) : Bool :=
  (s.mode == .bare || s.mode == .service || s.mode == .maintenance || s.mode == .shadow) && s.ob.latch != 1 && s.enoughClusters

/-- MOD_ALERT_N asserted: in BOOT only for a latch found at power-up, from 1 ms after PERST_N release (R391). -/
def State.modAlert (s : State) : Bool :=
  if s.inReset then false
  else if s.mode = .boot then s.bt.latched && decide (s.bt.released + 1000000 ≤ s.quartz)
  else s.ob.latch == 1 || s.mode == .responded || s.get R.RST_BOOT_ERR != 0 || s.bt.cause == 6

/-! ## The test port (R458-R461) -/

/-- The instructions of the EXTEST group. -/
def extestGroup (op : Nat) : Bool := [0x00, 0x03, 0x04, 0x05, 0x06].contains op

/-- Is an instruction available (Table 20.11)? A hold keeps the condition it was entered in. -/
def State.tapAllows (s : State) (op : Nat) : Bool :=
  if op = 0x01 ∨ op = 0xFF then true
  else if s.bt.extest then op == 0x02 || extestGroup op
  else if s.get R.RST_BOOT_STAGE = 0 ∨ s.pw.phase = .asleep then false
  else if s.lcState = 7 ∨ s.lcState = 0xF then false
  else op == 0x02 || (extestGroup op && (s.ob.latch == 4 || [1, 3, 4, 6].contains s.lcState))

/-- The hold ends and the module boots from time 0 (R461). -/
def State.releaseHold (s : State) : State :=
  if s.bt.extest then { s with bt.extest := false, lc.testOpen := false }.startBoot else s

/-- IDCODE (R459). -/
def idcode : Nat := 2 ^ 28 * (Config.siliconRev.toNat / 16) + 2 ^ 12 * 0x0940 + 2 * Config.jedecId.toNat + 1

/-- TAP_INSTRUCTION_LOAD (R459-R461): an instruction that is not available acts as BYPASS; one of the EXTEST group holds the core die in a reset of
PERST_N's scope, and any other ends the hold. -/
def execTapInstructionLoad (opcode : BitVec 8) (s : State) : Result :=
  if s.bt.vigil then .next s
  else
    let op := if s.tapAllows opcode.toNat then opcode.toNat else 0xFF
    let s : State := { s with bt.tap := op }
    let s := if op = 0x01 then s.emit (.idcode idcode) else s
    if !extestGroup op then .next s.releaseHold
    else if s.bt.extest then .next s
    else
      let t := s.moduleReset 2
      .next { t with bt.extest := true, lc.testOpen := s.lc.testOpen }

/-- TAP_RESET (R461): Test-Logic-Reset or TRST_N: IDCODE is the instruction, and a hold ends. -/
def execTapReset (s : State) : Result :=
  if s.bt.vigil then .next s else .next { s with bt.tap := 0x01 }.releaseHold

end Sys2Proof.Machine
end

