-- ==== Sys2Proof/Machine/Run.lean ====
section
/-! DEFINITION. How a shipped program runs: one command of the table runs a program whole in the context that was dispatched with it. Its parts are the same operations the instructions use: FETCH, RAND, DERIVE, FMT, lane and hash operations, PKX and record writes. -/
namespace Sys2Proof.Machine

/-- Why a program stops before its end: an instruction ends its command with a status and DETAIL, or a DONE does; it cannot go on yet, and nothing has
happened but that its context holds the keys it fetched and may wait for random bytes or for room in the slice; a public-key operation takes random
bytes as it runs (R161), or restarts with fresh ones (R166); or the twin results of a unit of its cluster, or of a unit of a public-key cluster,
differ. -/
inductive Stop
  | fail (status detail : Nat)
  | done (status detail : Nat)
  | collect (bytes : Nat)
  | wait (on : Wait)
  | again (bytes : Nat)
  | twin (unit : Nat)
  | pkTwin (cluster unit : Nat)
deriving DecidableEq, Repr

/-- A program under way over the state. -/
abbrev Run := ExceptT Stop (StateM State)

/-- A program's command: its context's key, the context as it stood, and what the environment decides. -/
structure Prog where
  k : Nat
  x : Context
  run : ProgramRun
deriving DecidableEq, Repr

/-- How a program ends: the status of its completion and the bytes of RESULT that count. -/
structure Done where
  status : Nat := 0
  len : Nat := 0
deriving DecidableEq, Repr

/-- The command ends with a status and DETAIL. -/
def stop {α : Type} (status detail : Nat) : Run α := throw (.fail status detail)

/-- A DONE with FORMAT_ERROR and a program-defined DETAIL (Table 4.8). -/
def malformed {α : Type} (detail : Nat) : Run α := throw (.done stFormatError detail)

/-- Nothing can happen yet. -/
def hold {α : Type} : Run α := throw (.wait .none)

/-- A check that ends the command where it does not hold. -/
def need (p : Bool) (detail : Nat) : Run Unit := if p then pure () else malformed detail

/-- The comparison of a verifying program: a DONE with AUTH_FAIL where it fails (R119). -/
def mustMatch (p : Bool) : Run Unit := if p then pure () else throw (.done stAuthFail 0)

/-- The state changed. -/
def act (f : State → State) : Run Unit := modify f

/-! ## The parts -/

namespace Prog

/-- The cluster a program runs in. -/
def cluster (e : Prog) : Nat := clusterOf e.k

/-- Input bytes: zero at or above IN_LEN (R64). -/
def input (e : Prog) (off n : Nat) : List Byte := e.x.inBytes off n

/-- An input byte as a number. -/
def byte (e : Prog) (off : Nat) : Nat := (e.x.inByte off).toNat

/-- An input number, little-endian. -/
def num (e : Prog) (off n : Nat) : Nat := leNat (e.input off n)

/-- IN_LEN. -/
def inLen (e : Prog) : Nat := e.x.desc.inLen

/-- Bits of PARAM. -/
def param (e : Prog) (lsb n : Nat) : Nat := bitsOf e.x.desc.param lsb n

/-- Are the PARAM bits outside a mask zero? -/
def paramOnly (e : Prog) (mask : Nat) : Bool := e.x.desc.param &&& mask == e.x.desc.param

/-- Are `n` input bytes at an offset zero? -/
def zero (e : Prog) (off n : Nat) : Bool := e.num off n == 0

/-- Room for `n` bytes of result (0xC004). -/
def room (e : Prog) (n : Nat) : Run Unit := need (n ≤ e.x.desc.outLen) 0xC004

/-- A listed program has come to its instruction `i` (Tables 3.13, 3.14). -/
def at' (e : Prog) (i : Nat) : Run Unit := act fun s => s.updCtx e.k fun x => { x with pc := i }

/-- The key a waiting program already holds in a slot, fetched from this field: its limits were checked then (R102). -/
def heldKey (e : Prog) (field slot : Nat) : Option KeySlot :=
  if e.x.wait = .none then none
  else (e.x.slot slot).filter fun y => y.field == field && y.line == some (lineKey e.x.part (e.x.desc.keyField field))

/-- FETCH (R70, R208): key field `field` into slot `slot`, filled where it is not resident; `macBad` of the run names the record of the fill whose line MAC
fails. -/
def fetch (e : Prog) (field cls mask slot : Nat) : Run KeySlot := do
  let p := e.x.part
  let n := e.cluster
  let h := e.x.desc.keyField field
  act fun s => s.openEpoch p
  let s ← get
  if s.mayName p h ∧ ¬ s.ge.ready then hold
  let judged := match e.heldKey field slot with
    | some y => Except.ok (({ key := y.key } : KeyRecord), y.stamp)
    | none => s.judgeFetch p h cls mask
  match judged with
  | .error st =>
    if (s.line (lineKey p h)).live ∧ s.mayName p h ∧ ¬ s.residentAt n (lineKey p h) then act fun s => s.count (R.KCS_MISS n)
    stop st field
  | .ok (r, chain) =>
    let s := s.count (if (s.missing n chain).isEmpty then R.KCS_HIT n else R.KCS_MISS n)
    let miss := s.missing n chain
    match s.badOf (e.run.macBad.bind fun b => if b.1.val = field then some b.2 else none) miss with
    | some bad =>
      set (s.lineFailed n bad)
      stop stKeyNotFound field
    | none => pure ()
    match s.fillChain n p chain with
    | none => throw (.wait .cacheEntry)
    | some s =>
      let y : KeySlot := { key := r.key, mask, field, line := some (lineKey p h), stamp := chain }
      set (s.updCtx e.k fun x => x.bindSlot slot (some y))
      pure y

/-- `n` bytes of the cluster's random queue (R78). -/
def random (e : Prog) (n : Nat) : Run (List Byte) := do
  let s ← get
  if s.queueFill e.cluster < n then throw (.wait .random)
  let r := s.takeQueue e.cluster n
  set r.2
  pure r.1

/-- `n` random bytes that an operation draws in requests of 64 as it runs (R161): those it has drawn, and the rest as the queue gives them. -/
def collected (e : Prog) (n : Nat) : Run (List Byte) := do
  let had := if e.x.wait = .random then e.x.gathered.take n else []
  let s ← get
  if s.queueFill e.cluster < n - had.length then throw (.collect (n - had.length))
  let r := s.takeQueue e.cluster (n - had.length)
  set (r.2.updCtx e.k fun x => { x with gathered := [] })
  pure (had ++ r.1)

/-- A key slot of the context set, an ephemeral key counted against the quota and given room in the slice (R207). -/
def place (e : Prog) (slot : Nat) (y : KeySlot) : Run Unit := do
  let s ← get
  let p := e.x.part
  let m := keyEntries y.key.material.length
  let s0 := s.updCtx e.k fun x => x.setSlot slot none
  if s0.ephUsed p + m > (s.part p).ephQuota then
    act fun s => s.raise pgGEO 4
    stop stQuotaExceeded 2
  match s0.makeRoom e.cluster p m [] 4096 with
  | none => hold
  | some s =>
    let (held, s) := s.maskIn e.cluster y.key.material
    set (s.updCtx e.k fun x => x.setSlot slot (some { y with held }))

/-- A unit of the cluster that the program is about to use: out of service it ends the command with FAULT_DETECTED (R147); under test it is waited
for. Units 0-3 stand for the lanes together. -/
def useUnit (e : Prog) (u : Nat) : Run Unit := do
  let s ← get
  let n := e.cluster
  let fault : Run Unit := stop stFaultDetected (unitDetail n (Sparse.get u s.ci.lastOut n))
  if u < 4 then
    if (s.lanesUp n).isEmpty then fault
    if (s.freeLane n).isNone then hold
  else
    if !(s.unitSvc n u).inService then fault
    if (s.unitSvc n u).katWanted ∨ (s.unitSvc n u).katBusy then hold

/-- Does nothing upset a unit in this run? -/
def sound (e : Prog) (u : Nat) : Bool := e.run.twin.map (·.val) != some u

/-- `b` blocks of lane work in both datapaths of a lane, with their dummy rounds (R127, R135-R137, Table 5.10). -/
def lanes (e : Prog) (key : Masked) (b : Nat) (f : Path → List Byte → List Byte) : Run (List Byte) := do
  e.useUnit 0
  let s ← get
  match s.freeLane e.cluster with
  | none => hold
  | some l =>
    let r := s.twinRun key (e.sound l) f
    set (s.countBlocks e.cluster l b r.2)
    if r.2 then pure r.1 else throw (.twin l)

/-- A key slot's wires (R128). -/
def wires (e : Prog) (y : KeySlot) : Run Masked := do pure ((← get).wires e.cluster y)

/-- A block of TDES or AES, as the key's class says, encrypted or decrypted. -/
def crypt (e : Prog) (y : KeySlot) (decrypt : Bool) (b : List Byte) : Run (List Byte) := do
  e.lanes (← e.wires y) 1 fun p k => p.cipher (b2n (y.key.cls == 1)) decrypt k 0 b

/-- A digest of the hash unit, computed in both its datapaths and compared (R154). -/
def hash (e : Prog) (h : HashWord) (key : Masked) (m : List Byte) : Run (List Byte) := do
  e.useUnit 4
  act fun s => s.count (R.CC_HASH_BLOCKS e.cluster) (h.blocks m.length)
  let v := h.digest key.clear [] m
  if v != upset (e.sound 4) (h.digest key.clear [] m) then throw (.twin 4)
  pure v

/-- DERIVE 0x0 (R75, R115) with entry `i` under a key; the derived key takes a slot. -/
def derive (e : Prog) (i : Nat) (y : KeySlot) (slot : Nat) (a b : List Byte) : Run KeySlot := do
  let s ← get
  let d := s.derEntry e.x i
  if !d.fits y.key then stop stKeyUsageDenied y.field
  e.useUnit 5
  if d.kind = 3 then e.useUnit 4
  if 0 < d.blocks then e.useUnit 0
  let s ← get
  match s.deriveTwins e.cluster d (e.run.twin.map (·.val)) (s.wires e.cluster y) a b with
  | .error u =>
    if u ≠ 5 then set (s.countDerive e.cluster d false)
    throw (.twin u)
  | .ok v =>
  set (s.countDerive e.cluster d)
  let attr := 2 * 2 + 2 ^ 5 + 2 ^ 7 * bitsOf y.key.attr 7 7
  let key : Key := { ktype := .secret, cls := d.outClass, level := 6, usage := d.usage, attr, epoch := y.key.epoch,
                     material := v }
  let z : KeySlot := { key := { key with kcv := key.checkValue }, mask := d.usage, field := y.field, stamp := y.stamp }
  e.place slot z
  pure z

/-- FMT operation `op` of format entry `i` (R74, R111): the value and the PIN length, or the check code as DETAIL. -/
def format (e : Prog) (i op count pinLen : Nat) (a b inp : List Byte) : Run (List Byte × Nat) := do
  let s ← get
  let f := s.fmtEntry e.x i
  e.useUnit 5
  if !e.sound 5 then throw (.twin 5)
  match f.apply op count pinLen a b inp with
  | .error code => malformed (0x8000 + 0x100 * i + code)
  | .ok (d, len) => pure (d.getD [], len.getD pinLen)

/-- The output bytes of a program, from offset 0, and its end. -/
def reply (e : Prog) (bs : List Byte) (status : Nat := 0) : Run Done := do
  act fun s => s.output e.k 0 bs
  pure { status, len := if e.x.desc.outInline then min 16 bs.length else 0 }

/-- RESULT bytes written by STRES, whatever OUT_INLINE says, and the program's end. -/
def result (e : Prog) (bs : List Byte) : Run Done := do
  act fun s => s.updCtx e.k fun x => { x with result := overlay 0 bs x.result }
  pure { len := min 16 bs.length }

/-- A Geode operation waits until the table engine has restored the module table (R218). -/
def geode : Run Unit := do
  let s ← get
  if !s.ge.ready then hold

/-- A Geode operation fills its record's chain first where the slice lacks some of it (R208). -/
def geodeFill (e : Prog) (field : Nat) : Run Unit := do
  let s ← get
  let n := e.cluster
  let h := e.x.desc.keyField field
  match s.geodeWalk n e.x.part h with
  | .error st => stop st field
  | .ok true =>
    let key := lineKey e.x.part h
    if s.recordFails key then
      set (s.lineFailed n key)
      stop stKeyNotFound field
  | .ok false =>
    let chain := (s.walk e.x.part 8 h).1
    match s.badOf (e.run.macBad.bind fun b => if b.1.val = field then some b.2 else none) (s.missing n chain) with
    | some bad =>
      set (s.lineFailed n bad)
      stop stKeyNotFound field
    | none =>
      match s.fillChain n e.x.part chain with
      | none => throw (.wait .cacheEntry)
      | some s => set s

/-- WRITEREC (R203, R204): a key as the record of handle `h`; its lines. -/
def writeRecord (e : Prog) (h : Nat) (y : KeySlot) (parent : Option KeySlot) (direct5 : Bool) : Run (List Byte) := do
  geode
  act fun s => s.openEpoch e.x.part
  let s ← get
  match s.placeRecord e.x.part h y parent direct5 with
  | .error r => stop r.1 r.2
  | .ok (bs, s, d) =>
    set (s.updCtx e.k fun x => { x with delta := d <|> x.delta })
    pure bs

/-- The cluster and the unit an operation of a program runs in (R94, R159): the unit is free for it and no hand-off waits before it in the cluster's queue. -/
def pkPlace (o : PkOp) (except : List Nat) : Run (Nat × Nat) := do
  let s ← get
  match s.handTo o.word.isLattice except with
  | .error (some det) => stop stFaultDetected det
  | .error none => hold
  | .ok p =>
    if !(s.pkQueue p o.word.isLattice).isEmpty then hold
    if s.relocks (16 + p) then hold
    match s.pkUnitFor p o with
    | none => hold
    | some u =>
      act fun s => s.cross (16 + p)
      pure (p, u)

/-- The compared answer of an operation of a program, number `i` of its operations, in unit `u` of cluster `p`: counted there (R166, R168, R171, R175). -/
def pkAnswered (e : Prog) (i p u : Nat) (o : PkOp) : Run (List Byte × Option (Nat × KType × List Byte)) := do
  let s ← get
  let iterated := fun n => act fun s => (s.set (R.PK_ITER_LAST p) n).keepMax (R.PK_ITER_MAX p) n
  let counted := act fun s => s.count (if u < 8 then R.PK_ENG_OPS p u else R.PK_LU_OPS p)
  match s.pkAnswer o (e.run.pkTwin.map (·.val) != some i) with
  | none => throw (.pkTwin p u)
  | some .again => throw (.again o.rand.length)
  | some .limit =>
    iterated 1000
    act fun s => s.raise (pgPK p) 6
    stop stFaultDetected (pkDetail p u)
  | some (.refused st det) =>
    counted
    act fun s => s.count (R.PK_REFUSED_CNT p)
    stop st det
  | some (.signed sig n) =>
    iterated n
    counted
    pure (sig, none)
  | some (.done r secret) =>
    counted
    pure (r, secret)

/-- A public-key operation (R77, R94, R161-R171) from its checks to its compared answer: its result, and the secret with its class and type. -/
def pkx (e : Prog) (v : PkWord) (key : Option KeySlot) (src : List Byte) : Run (List Byte × Option (Nat × KType × List Byte)) := do
  let s ← get
  match key with
  | some y => if !s.pkFits v y.key then stop stKeyUsageDenied y.field
  | none => pure ()
  let stored := key.map (·.key)
  let entry := s.curveEntry (pkSel v stored)
  let crv := if v.isEc then curveOf (pkSel v stored) entry else none
  if v.lengthsKnown && !pkLenOk v stored crv src src.length then malformed 0xE001
  if !v.encodingOk then malformed 0xE003
  if rsaMalformed v src then malformed 0xE004
  let wires := match key with | some y => s.wires e.cluster y | none => {}
  let o : PkOp := { part := e.x.part, word := v, key := stored.map fun y => { y with material := [] }, wires, source := src, entry,
                    crvCommits := s.pk.crvCommits }
  let u ← pkPlace o []
  let rand ← if v.oper = 0x16 then e.collected (64 * e.run.iters) else e.random (pkRandom v stored crv src)
  e.pkAnswered 0 u.1 u.2 ({ o with rand }.enter 0)

/-- The key a secret of a public-key operation makes (R163): generated with the usage given, or derived from the key `y` for derive. -/
def secretKey (e : Prog) (v : PkWord) (stored : Option KeySlot) (usage : Nat) (secret : Nat × KType × List Byte) : KeySlot :=
  let parent := if v.usesKey then stored else none
  let inherited := match parent with
    | some y => bitsOf y.key.attr 7 7
    | none => b2n (e.x.part == 0) + 2 * 63
  let attr := 2 * (if v.isKeygen then 0 else 2) + 2 ^ 5 + 2 ^ 7 * inherited
  let sel := if secret.1 = 3 ∨ secret.1 = 5 then 0 else pkSel v (stored.map (·.key))
  let key : Key := { ktype := secret.2.1, cls := secret.1, sel, level := 6, usage, attr, epoch := (parent.map (·.key.epoch)).getD 0,
                     material := secret.2.2 }
  { key := { key with kcv := key.checkValue }, mask := usage, field := (parent.map (·.field)).getD 3, stamp := (parent.map (·.stamp)).getD [] }

end Prog

/-! ## A program as a command -/

/-- The issue slots and instructions of a program's run: those given, else those of its listing up to the instruction it has come to, else free
(Table 3.11), a count of instructions within the default SEQ_BUDGET (log 134). -/
def State.programWork (s : State) (k : Nat) (work : Option (Nat × Nat)) : Nat × Nat :=
  let slot := runSlot (s.ctx k).desc.program
  let listed := if (listing (s.ctx k)).isEmpty then none else
    let done := listedPath slot (s.ctx k).pc
    some ((done.map fun i => ((listing (s.ctx k)).getD i (0, 0)).2).sum, done.length)
  (work <|> listed).getD (Config.programWork 0 slot s.frees, Config.programWork 1 slot s.frees % 2 ^ 16)

/-- The sequencer's work for a program, counted there and in its context (R80, Table 3.11). -/
def State.countProgram (s : State) (k : Nat) (work : Option (Nat × Nat)) : State :=
  let w := s.programWork k work
  let s := (s.count (R.SEQ_ISSUE_CNT (clusterOf k)) w.1).count (R.SEQ_RETIRE_CNT (clusterOf k)) w.2
  { s.updCtx k fun x => { x with retired := x.retired + w.2 } with frees := s.frees + 1 }

/-- A program's command ends: what waits at its last boundary comes first (R80, R102, R103). -/
def State.endProgram (s : State) (k : Nat) (d : Done) (ok : Bool) : State :=
  match s.dueEnding (s.ctx k) with
  | some e => s.endCommand k e.1 e.2 0 ok
  | none => s.endCommand k d.status 0 d.len ok

/-- A DONE of a program ends its command with a status and DETAIL, and no result: what waits at that boundary comes first (R103). -/
def State.endDone (s : State) (k status detail : Nat) (ok : Option Bool) : State :=
  let e := (s.dueEnding (s.ctx k)).getD (status, detail)
  s.endCommand k e.1 e.2 0 ok

/-- How a program leaves its context: its command ends; the context waits; or its command ends and something follows the completion write. -/
inductive Next
  | ends (d : Done)
  | waits (w : Wait)
  | follows (d : Done) (f : State → State)

/-- A program that cannot go on: nothing has happened, but that its context waits for random bytes (R230, R231), or counts as a fill that waits for room
in the slice (R209). -/
def State.holdProgram (s : State) (k : Nat) (on : Wait) : State :=
  let n := clusterOf k
  if on = .none ∨ (s.ctx k).wait = on then s
  else
    let s := if on = .cacheEntry then (s.countSat (R.KCS_FILL_WAIT n)).raise (pgKCS n) 2 else s
    s.updCtx k fun x => { x with wait := on, since := s.quartz }

/-- What a program that waits keeps of its run: the records' keys it has fetched, so that a fence finds them (R102), and where it stands. -/
def State.keepRun (s t : State) (k : Nat) : State :=
  s.updCtx k fun x => { x with keys := (t.ctx k).keys.map fun y => y.filter (·.line.isSome), pc := (t.ctx k).pc }

/-- The end of a program's run: its command completes, or its context waits. -/
def State.settleRun (s : State) (c : Ctx) (run : ProgramRun) (r : Except Stop Next × State) : Result :=
  let k := ctxKey c
  let t := r.2.updCtx k fun x => { x with wait := .none }
  match r.1 with
  | .ok (.ends d) => .next (((t.countProgram k none).endProgram k d run.wrOk).settleSeeds c.cc)
  | .ok (.follows d f) =>
    let t := t.countProgram k none
    .next (if (t.dueEnding (t.ctx k)).isSome then t.endProgram k d run.wrOk else f (t.endProgram k d run.wrOk))
  | .ok (.waits w) => .next ((t.countProgram k none).updCtx k fun x => { x with wait := w, since := t.quartz })
  | .error (.fail st det) => .next (((t.countProgram k none).endAt k st det run.wrOk).settleSeeds c.cc)
  | .error (.done st det) => .next (((t.countProgram k none).endDone k st det run.wrOk).settleSeeds c.cc)
  | .error (.wait on) => .next ((s.holdProgram k on).keepRun t k)
  | .error (.collect b) =>
    let r := s.takeQueue c.cc (min b (s.queueFill c.cc) / 64 * 64)
    let had := if (s.ctx k).wait = .random then (s.ctx k).gathered else []
    .next (((r.2.holdProgram k .random).keepRun t k).updCtx k fun x => { x with gathered := had ++ r.1 })
  | .error (.again b) => if s.queueFill c.cc < b then .next (s.holdProgram k .random) else .next (s.takeQueue c.cc b).2
  | .error (.twin u) => .next ((t.countProgram k none).twinFault c.cc u (some k))
  | .error (.pkTwin p u) =>
    let t := ((t.countProgram k none).pkFault p u false).countSat (R.PK_ABORT_CNT p)
    let t := t.updPk p u fun x => { x with svc := { x.svc with katBusy := true } }
    .next (t.endCommand k stFaultDetected (pkDetail p u))

/-- May a program run in its context: it waits for nothing, or for random bytes or a slice's room, which it tries anew? -/
def Wait.retries (w : Wait) : Bool := w == .none || w == .random || w == .cacheEntry

/-- Program `slot` in a context that was dispatched with it, or with its compatibility slot (R117): once its input has been received it runs whole.
In any other context, in one under a fence past 3 µs (R102), and while the cluster relocks or its crossbars are frozen (R253), the command does not occur. -/
def State.programThen (s : State) (c : Ctx) (slot : Nat) (run : ProgramRun) (body : Prog → Run Next) : Result :=
  let k := ctxKey c
  let x := s.ctx k
  if x.cmd.isNone ∨ ¬ x.wait.retries ∨ s.relocks c.cc ∨ s.xbarHeld c.cc ∨ runSlot x.desc.program ≠ slot ∨ (s.orphanField x).isSome then .next s
  else if !x.has x.desc.inLen then .next (s.needChunk k x)
  else s.settleRun c run ((body { k, x, run }).run s)

/-- A program that ends its command. -/
def State.program (s : State) (c : Ctx) (slot : Nat) (run : ProgramRun) (body : Prog → Run Done) : Result :=
  s.programThen c slot run fun e => do pure (.ends (← body e))

end Sys2Proof.Machine
end

