-- ==== Sys2Proof/Machine/Payments.lean ====
section
/-! DEFINITION. The shipped payment programs: check value, PIN translation and verification, card verification values, EMV cryptograms, DUKPT, FF1 and MACs (R118-R122, Tables 4.8 to 4.10, 3.13, 3.14). -/
namespace Sys2Proof.Machine

/-- The usage masks of Table 7.5 the programs fetch with. -/
def useWrap : Nat := 2 ^ 2
def useUnwrap : Nat := 2 ^ 3
def useMacGen : Nat := 2 ^ 4
def useMacVerify : Nat := 2 ^ 5
def usePinTranslate : Nat := 2 ^ 6
def usePinVerify : Nat := 2 ^ 7
def useDerive : Nat := 2 ^ 8
def useSign : Nat := 2 ^ 9
def useVerify : Nat := 2 ^ 10
def useAgree : Nat := 2 ^ 11
def useTokenise : Nat := 2 ^ 12
def useDetokenise : Nat := 2 ^ 13

/-! ## Inputs (R118, Table 4.8) -/

/-- A packed decimal field of `n` digits, padded with 0xF; none where a digit is above 9 or the padding is not 0xF. -/
def decimalField (n : Nat) (bs : List Byte) : Option (List Nat) :=
  let ns := nibbles bs
  if (ns.take n).all (· ≤ 9) ∧ (ns.drop n).all (· = 0xF) then some (ns.take n) else none

/-- The class of the key a PIN entry's block is enciphered under: TDES for 64 bits, AES for 128. -/
def FmtEntry.keyClass (f : FmtEntry) : Nat := if f.wide then 2 else 1

/-- Does a PIN entry use the PAN? -/
def FmtEntry.usesPan (f : FmtEntry) : Bool := f.kind == 1 && f.panRule != 0

/-- Does a PIN field of the entry take random nibbles? -/
def FmtEntry.randomised (f : FmtEntry) : Bool := f.fillRule != 0 || (f.wide && f.randPos != 0xFF)

namespace Prog

/-- The digits of a PAN field: a count of 12 to 19, then packed digits padded with 0xF (0xC001). -/
def pan (e : Prog) (off : Nat) : Run (List Nat) :=
  let n := e.byte off
  match decimalField n (e.input (off + 1) 10) with
  | some ds => if 12 ≤ n ∧ n ≤ 19 then pure ds else malformed 0xC001
  | none => malformed 0xC001

/-- A decimal field (0xC040). -/
def decimal (e : Prog) (off n bytes : Nat) : Run (List Nat) :=
  match decimalField n (e.input off bytes) with
  | some ds => pure ds
  | none => malformed 0xC040

/-- IN_LEN of at least `n` bytes (0xC002). -/
def atLeast (e : Prog) (n : Nat) : Run Unit := need (n ≤ e.inLen) 0xC002

/-- A format entry as it stood at the command's dispatch. -/
def entry (e : Prog) (i : Nat) : Run FmtEntry := do pure ((← get).fmtEntry e.x i)

/-- The encrypted block of a PIN entry: 16 bytes, or 8 with the rest of its sixteen zero (0xC003). -/
def pinBlock (e : Prog) (f : FmtEntry) (off : Nat) : Run (List Byte) := do
  need (f.wide || e.zero (off + 8) 8) 0xC003
  pure (e.input off (if f.wide then 16 else 8))

/-- A key of class TDES or AES, single (0: either): FETCH, and KEY_USAGE_DENIED for any other. -/
def cipherKey (e : Prog) (field cls mask slot : Nat) : Run KeySlot := do
  let y ← e.fetch field cls mask slot
  if ¬ ((y.key.cls = 1 ∨ y.key.cls = 2) ∧ y.key.ktype = .secret ∧ y.key.sel = 0) then stop stKeyUsageDenied field
  pure y

/-- A two-key TDES key. -/
def twoKey (e : Prog) (field mask slot : Nat) : Run KeySlot := do
  let y ← e.cipherKey field 1 mask slot
  if y.key.material.length ≠ 16 then stop stKeyUsageDenied field
  pure y

/-! ## PIN blocks (R74, R110, R120) -/

/-- The canonical PIN and its length in an encrypted block, its PAN field at `panOff`. -/
def openPin (e : Prog) (i : Nat) (y : KeySlot) (block : List Byte) (panOff : Nat) : Run (List Byte × Nat) := do
  let f ← e.entry i
  let count := e.byte panOff
  let pan := e.input (panOff + 1) 10
  let b ← e.crypt y true block
  if f.wide ∧ f.panRule = 2 then
    let p ← e.format i 3 count 0 pan [] []
    let x ← e.crypt y true (xorBytes b p.1)
    e.format i 1 count 0 x pan []
  else e.format i 1 count 0 (fitBytes 16 b) pan []

/-- The encrypted block of a PIN. -/
def sealPin (e : Prog) (i : Nat) (y : KeySlot) (pin : List Byte × Nat) (panOff : Nat) : Run (List Byte) := do
  let f ← e.entry i
  let count := e.byte panOff
  let pan := e.input (panOff + 1) 10
  let r ← if f.randomised then e.random 16 else pure []
  if f.wide then
    let x ← e.format i 2 count pin.2 pin.1 r []
    let b ← e.crypt y false x.1
    if f.panRule = 2 then
      let p ← e.format i 3 count 0 pan [] []
      e.crypt y false (xorBytes b p.1)
    else pure b
  else
    let x ← e.format i 4 count pin.2 pin.1 r pan
    e.crypt y false (x.1.take 8)

/-- The checks of a translation on its entries, its block and the result's room (Table 4.8, R120). -/
def translationChecks (e : Prog) (i j panOff len mask : Nat) (extra : FmtEntry → Bool) : Run (FmtEntry × FmtEntry × List Byte) := do
  let f ← e.entry i
  let g ← e.entry j
  if f.usesPan ∨ g.usesPan then let _ ← e.pan panOff
  e.atLeast len
  need (e.paramOnly mask && f.kind == 1 && g.kind == 1 && extra f) 0xC003
  let block ← e.pinBlock f 0
  e.room (if g.wide then 16 else 8)
  need (f.panRule == 0 || g.panRule != 0) 0xC005
  pure (f, g, block)

/-- The digits of a canonical PIN. -/
def pinDigits (_ : Prog) (pin : List Byte × Nat) : List Nat := (nibbles pin.1).take pin.2

/-- The digits DECIMALISE gives of an encrypted block. -/
def digitsOf (e : Prog) (i : Nat) (b : List Byte) : Run (List Nat) := do
  let d ← e.format i 5 0 0 (fitBytes 16 b) [] []
  pure ((nibbles d.1).take d.2)

end Prog

/-! ## Check value and PIN programs -/

/-- Program 0x108 (R119, R194): the check value of KEY0 in RESULT. -/
def execCheckValue (c : Ctx) (run : ProgramRun) (s : State) : Result :=
  s.program c 0x108 run fun e => do
    let y ← e.fetch 0 0 0 0
    e.result y.key.kcv

/-- Program 0x140 (R118, Table 3.13): ISO format 0 to format 4, in the order of its listing. -/
def execPinTranslateF0F4 (c : Ctx) (run : ProgramRun) (s : State) : Result :=
  s.program c 0x140 run fun e => do
    let count := e.byte 8
    let pan := e.input 9 10
    e.at' 3
    let y ← e.fetch 0 1 usePinTranslate 0
    e.at' 4
    let z ← e.fetch 1 2 usePinTranslate 1
    e.at' 5
    let b ← e.crypt y true (e.input 0 8)
    e.at' 6
    let r ← e.random 8
    e.at' 7
    let p ← e.format 4 3 count 0 pan [] []
    e.at' 8
    let pin ← e.format 0 1 count 0 (fitBytes 16 b) pan []
    e.at' 9
    let f ← e.format 4 2 0 pin.2 pin.1 (fitBytes 16 r) []
    e.at' 10
    if !(laneWord 0).fits z.key then stop stKeyUsageDenied 1
    let x ← e.crypt z false f.1
    e.at' 11
    let v ← e.crypt z false (xorBytes x p.1)
    e.at' 13
    e.result v

/-- Program 0x141 (R120): a PIN block from one format entry to another. -/
def execPinTranslate (c : Ctx) (run : ProgramRun) (s : State) : Result :=
  s.program c 0x141 run fun e => do
    let i := e.param 0 6
    let j := e.param 8 6
    let t ← e.translationChecks i j 16 27 0x3F3F fun _ => true
    let y ← e.cipherKey 0 t.1.keyClass usePinTranslate 0
    let z ← e.cipherKey 1 t.2.1.keyClass usePinTranslate 1
    let pin ← e.openPin i y t.2.2 16
    let v ← e.sealPin j z pin 16
    e.reply v

namespace Prog

/-- The checks of a PIN verification, its entry and its block; the PAN is read where the entry or the method uses it. -/
def verifyChecks (e : Prog) (len : Nat) (usesPan extra : Bool) (outLen : Nat) : Run (FmtEntry × List Byte) := do
  let f ← e.entry (e.param 0 6)
  if usesPan ∨ f.usesPan then let _ ← e.pan 16
  e.atLeast len
  need (e.paramOnly 0x3F && f.kind == 1 && extra) 0xC003
  let block ← e.pinBlock f 0
  e.room outLen
  pure (f, block)

/-- The transformed security parameter of the PVV method, encrypted and scanned: four digits. -/
def pvv (e : Prog) (y : KeySlot) (pan : List Nat) (index : Nat) (pin : List Nat) : Run (List Nat) := do
  let body := pan.take (pan.length - 1)
  let b ← e.crypt y false (packNibbles (body.drop (body.length - 11) ++ [index] ++ pin.take 4))
  let ds ← e.digitsOf 17 b
  pure (ds.take 4)

end Prog

/-- Program 0x148: the offset method. A check length outside 4 to 12 gives 0xC003 (DESIGN CHOICE, log 243: Table 4.8 names no DETAIL for it). The natural PIN is the decimalised encryption of the validation data; the last digits of the PIN, as many as the
check length says, must be it plus the offset, digit by digit modulo 10 (PRESUMED, IBM 3624). -/
def execPinVerifyOffset (c : Ctx) (run : ProgramRun) (s : State) : Result :=
  s.program c 0x148 run fun e => do
    let m := e.byte 41
    let t ← e.verifyChecks 42 false (4 ≤ m && m ≤ 12) 0
    let off ← e.decimal 35 m 6
    let y ← e.cipherKey 0 t.1.keyClass usePinVerify 0
    let z ← e.cipherKey 1 1 usePinVerify 1
    let pin ← e.openPin (e.param 0 6) y t.2 16
    let b ← e.crypt z false (e.input 27 8)
    let ds ← e.digitsOf 16 b
    let natural := (ds.take pin.2).drop (pin.2 - m)
    mustMatch (m ≤ pin.2 && (e.pinDigits pin).drop (pin.2 - m) == List.zipWith (fun a b => (a + b) % 10) natural off)
    pure {}

/-- Program 0x149: the PVV method. -/
def execPinVerifyPvv (c : Ctx) (run : ProgramRun) (s : State) : Result :=
  s.program c 0x149 run fun e => do
    let t ← e.verifyChecks 30 true true 0
    let pan ← e.pan 16
    need (e.byte 27 ≤ 9) 0xC040
    let want ← e.decimal 28 4 2
    let y ← e.cipherKey 0 t.1.keyClass usePinVerify 0
    let z ← e.twoKey 1 usePinVerify 1
    let pin ← e.openPin (e.param 0 6) y t.2 16
    let v ← e.pvv z pan (e.byte 27) (e.pinDigits pin)
    mustMatch (v == want)
    pure {}

/-- Program 0x14A: a PVV generated. -/
def execPvvGenerate (c : Ctx) (run : ProgramRun) (s : State) : Result :=
  s.program c 0x14A run fun e => do
    let t ← e.verifyChecks 28 true true 2
    let pan ← e.pan 16
    need (e.byte 27 ≤ 9) 0xC040
    let y ← e.cipherKey 0 t.1.keyClass usePinVerify 0
    let z ← e.twoKey 1 usePinVerify 1
    let pin ← e.openPin (e.param 0 6) y t.2 16
    let v ← e.pvv z pan (e.byte 27) (e.pinDigits pin)
    e.reply (packNibbles v)

/-! ## Card verification values -/

/-- The three digits of a card verification value (PRESUMED, the common CVV algorithm): PAN, expiry and service code, filled with zeros to two blocks,
chained under the halves of the key, then scanned; and the value to
verify. -/
def Prog.cvv (e : Prog) (verify : Bool) : Run (List Nat × List Nat) := do
  let pan ← e.pan 0
  e.atLeast (if verify then 17 else 15)
  e.room (if verify then 0 else 2)
  let expiry ← e.decimal 11 4 2
  let service ← e.decimal 13 3 2
  let want ← if verify then e.decimal 15 3 2 else pure []
  let y ← e.cipherKey 0 1 (if verify then useMacVerify else useMacGen) 0
  let a ← e.derive 0x28 y 1 [] []
  let b ← e.derive 0x29 y 2 [] []
  let ds := pan ++ expiry ++ service
  let data := packNibbles (ds ++ List.replicate (32 - ds.length) 0)
  let v ← e.crypt a false (data.take 8)
  let v ← e.crypt a false (xorBytes v (data.drop 8))
  let v ← e.crypt b true v
  let v ← e.crypt a false v
  let out ← e.digitsOf 17 v
  pure (out.take 3, want)

/-- Program 0x180: a card verification value verified. -/
def execCvvVerify (c : Ctx) (run : ProgramRun) (s : State) : Result :=
  s.program c 0x180 run fun e => do
    let v ← e.cvv true
    mustMatch (v.1 == v.2)
    pure {}

/-- Program 0x181: a card verification value generated. -/
def execCvvGenerate (c : Ctx) (run : ProgramRun) (s : State) : Result :=
  s.program c 0x181 run fun e => do
    let v ← e.cvv false
    e.reply (packNibbles (v.1 ++ [0xF]))

/-! ## MACs -/

namespace Prog

/-- CMAC under a key, with its subkey block. -/
def cmacOf (e : Prog) (y : KeySlot) (m : List Byte) : Run (List Byte) := do
  let cipher := b2n (y.key.cls == 1)
  let b := blkLen cipher
  e.lanes (← e.wires y) (1 + max 1 ((m.length + b - 1) / b)) fun p k => cmacBy (p.cipher cipher false k) b m

/-- The retail MAC under a two-key TDES key, padded by a method. -/
def retailOf (e : Prog) (y : KeySlot) (method : Nat) (m : List Byte) : Run (List Byte) := do
  let x := isoPad method 8 true m
  e.lanes (← e.wires y) (x.length / 8) fun p k => rmacBy (p.des (tdesPart k 0)) (p.cipher 1 false k) x

/-- The MAC of EMV and DUKPT: CMAC for AES, the retail MAC for TDES. -/
def macOf (e : Prog) (y : KeySlot) (method : Nat) (m : List Byte) : Run (List Byte) :=
  if y.key.cls = 1 then e.retailOf y method m else e.cmacOf y m

/-- The checks of a MAC program: the length of PARAM[4:0], the unused PARAM bits, the room for a generated MAC. -/
def macChecks (e : Prog) (top mask : Nat) (gen : Bool) : Run Nat := do
  let n := e.param 0 5
  need (4 ≤ n && n ≤ top && e.paramOnly (0x1F + mask)) 0xC003
  if gen then e.room n
  pure n

/-- The MAC given, or compared with the one the command brings. -/
def macEnd (e : Prog) (gen : Bool) (n : Nat) (mac want : List Byte) : Run Done := do
  if gen then e.reply (mac.take n)
  else
    mustMatch (mac.take n == want.take n)
    pure {}

/-- Programs 0x200 and 0x201. A length above the 8 bytes of a TDES MAC gives 0xC003 (DESIGN CHOICE, log 242: Table 4.10 allows 4 to 16 and names no check for it). -/
def cmacProgram (e : Prog) (gen : Bool) : Run Done := do
  let n ← e.macChecks 16 0 gen
  let y ← e.cipherKey 0 0 (if gen then useMacGen else useMacVerify) 0
  need (y.key.cls == 2 || n ≤ 8) 0xC003
  let v ← e.cmacOf y (e.input 0 e.inLen)
  e.macEnd gen n v e.x.desc.paramExt

/-- Programs 0x202 and 0x203; verification takes the MAC from the first 64 input bytes. -/
def hmacProgram (e : Prog) (gen : Bool) : Run Done := do
  if !gen then e.atLeast 64
  let n ← e.macChecks 16 0x100 gen
  let y ← e.fetch 0 3 (if gen then useMacGen else useMacVerify) 0
  if !hashKeyFits y.key then stop stKeyUsageDenied 0
  let m := if gen then e.input 0 e.inLen else e.input 64 (e.inLen - 64)
  let sha512 := e.param 8 1 == 1
  let v ← e.hash { func := if sha512 then 10 else 8, outLen := if sha512 then 64 else 32, custLen := 0 } (← e.wires y) m
  e.macEnd gen n v (e.input 0 64)

/-- Programs 0x204 and 0x205. A length above 8 gives 0xC003 (DESIGN CHOICE, log 242). -/
def retailProgram (e : Prog) (gen : Bool) : Run Done := do
  let n ← e.macChecks 8 0x200 gen
  let y ← e.twoKey 0 (if gen then useMacGen else useMacVerify) 0
  let v ← e.retailOf y (if e.param 9 1 = 1 then 2 else 1) (e.input 0 e.inLen)
  e.macEnd gen n v e.x.desc.paramExt

end Prog

def execCmacGenerate (c : Ctx) (run : ProgramRun) (s : State) : Result := s.program c 0x200 run fun e => e.cmacProgram true
def execCmacVerify (c : Ctx) (run : ProgramRun) (s : State) : Result := s.program c 0x201 run fun e => e.cmacProgram false
def execHmacGenerate (c : Ctx) (run : ProgramRun) (s : State) : Result := s.program c 0x202 run fun e => e.hmacProgram true
def execHmacVerify (c : Ctx) (run : ProgramRun) (s : State) : Result := s.program c 0x203 run fun e => e.hmacProgram false
def execRetailMacGenerate (c : Ctx) (run : ProgramRun) (s : State) : Result := s.program c 0x204 run fun e => e.retailProgram true
def execRetailMacVerify (c : Ctx) (run : ProgramRun) (s : State) : Result := s.program c 0x205 run fun e => e.retailProgram false

/-! ## EMV (Table 3.14) -/

namespace Prog

/-- The session key of an application cryptogram: the ICC master key, then the common session key. -/
def sessionKey (e : Prog) (cls : Nat) : Run KeySlot := do
  e.at' 7
  let y ← e.cipherKey 0 cls useDerive 0
  let tdes := y.key.cls = 1
  e.at' 8
  let icc ← e.derive (if tdes then 0x19 else 0x18) y 1 (fitBytes 16 (e.input 0 8)) []
  e.at' 9
  e.derive (if tdes then 0x21 else 0x20) icc 2 (fitBytes 16 (e.input 8 13)) []

/-- The padding method of the TDES MAC input: 2 with PARAM[0], else 1. -/
def emvMethod (e : Prog) : Nat := if e.param 0 1 = 1 then 2 else 1

/-- The cryptogram of `n` input bytes at `off` compared with the ARQC (R119). -/
def arqc (e : Prog) (sk : KeySlot) (off n : Nat) : Run Unit := do
  e.at' 10
  let v ← e.macOf sk e.emvMethod (e.input off n)
  e.at' 16
  mustMatch (v.take 8 == e.input 10 8)

/-- ARPC method 1: the encryption of ARQC xor ARC under the session key. -/
def arpc1 (e : Prog) (sk : KeySlot) : Run Done := do
  let x := xorBytes (e.input 10 8) (fitBytes 8 (e.input 18 2))
  e.at' 13
  let v ← e.crypt sk false (fitBytes (if sk.key.cls = 1 then 8 else 16) x)
  e.at' 15
  e.result (v.take 8)

end Prog

/-- Program 0x1A0: an ARQC verified. -/
def execArqcVerify (c : Ctx) (run : ProgramRun) (s : State) : Result :=
  s.program c 0x1A0 run fun e => do
    let sk ← e.sessionKey 0
    e.arqc sk 24 (e.byte 20)
    pure {}

/-- Program 0x1A1: TDES. -/
def execArqcVerifyArpc1Tdes (c : Ctx) (run : ProgramRun) (s : State) : Result :=
  s.program c 0x1A1 run fun e => do
    let sk ← e.sessionKey 1
    e.arqc sk 24 (e.byte 20)
    e.arpc1 sk

/-- Program 0x1A2: AES, the listing of Table 3.14. -/
def execArqcVerifyArpc1Aes (c : Ctx) (run : ProgramRun) (s : State) : Result :=
  s.program c 0x1A2 run fun e => do
    let sk ← e.sessionKey 2
    e.arqc sk 24 (e.byte 20)
    e.arpc1 sk

/-- Program 0x1A3: ARPC method 2, the first bytes of the MAC of ARQC, CSU and proprietary data. -/
def execArqcVerifyArpc2 (c : Ctx) (run : ProgramRun) (s : State) : Result :=
  s.program c 0x1A3 run fun e => do
    let sk ← e.sessionKey 0
    e.arqc sk 32 (e.byte 23)
    let v ← e.macOf sk e.emvMethod (e.input 10 8 ++ e.input 18 4 ++ e.input 24 (e.byte 22))
    e.result (v.take 4)

/-! ## DUKPT (Table 4.10) -/

/-- The one bits of a counter of `w` bits, the most significant first. -/
def oneBits (w v : Nat) : List Nat := (List.range w).reverse.filter (bitOf v)

/-- A DUKPT key serial number as the programs read it: its bytes, its counter, and the counter's width and most one bits. -/
structure Ksn where
  aes : Bool
  bytes : List Byte
deriving DecidableEq, Repr

/-- Bits of the transaction counter. -/
def Ksn.width (q : Ksn) : Nat := if q.aes then 32 else 21

/-- The transaction counter. -/
def Ksn.counter (q : Ksn) : Nat := beNat (q.bytes.drop (if q.aes then 8 else 0)) % 2 ^ q.width

/-- Is the counter one the scheme allows (0xC030)? -/
def Ksn.valid (q : Ksn) : Bool := q.counter ≠ 0 && (oneBits q.width q.counter).length ≤ (if q.aes then 16 else 10)

/-- The status of a success: near the end of the counter's range (Table 4.9). -/
def Ksn.status (q : Ksn) : Nat := if (if q.aes then 0xFF000000 else 0x1FE000) ≤ q.counter then 0x80 else 0

/-- The data of the initial key's derivation: the initial key ID, or the serial number with its counter cleared. -/
def Ksn.initial (q : Ksn) : List Byte :=
  if q.aes then q.bytes.take 8 else (beBytes 10 (beNat q.bytes / 2 ^ 21 * 2 ^ 21)).take 8

/-- The data of a step that has reached the counter `v`. -/
def Ksn.step (q : Ksn) (v : Nat) : List Byte :=
  if q.aes then slice 4 4 q.bytes ++ beBytes 4 v else (beBytes 10 (beNat q.bytes / 2 ^ 21 * 2 ^ 21 + v)).drop 2

namespace Prog

/-- The key serial number at an offset. -/
def ksn (e : Prog) (aes : Bool) (off : Nat) : Ksn := { aes, bytes := e.input off (if aes then 12 else 10) }

/-- Are the bytes a TDES serial number leaves unused zero? -/
def ksnOk (e : Prog) (aes : Bool) (off : Nat) : Bool := aes || e.zero (off + 10) 2

/-- The initial key under the base derivation key (entries 0x00, 0x01, 0x10). -/
def initialKey (e : Prog) (y : KeySlot) (q : Ksn) (wide : Bool) : Run KeySlot :=
  e.derive (if q.aes then b2n wide else 0x10) y 2 (fitBytes 16 q.initial) []

/-- The transaction key: one step for each one bit of the counter, the most significant first (entries 0x02, 0x03, 0x11). -/
def transactionKey (e : Prog) (q : Ksn) (wide : Bool) : List Nat → Nat → KeySlot → Run KeySlot
  | [], _, y => pure y
  | i :: is, v, y => do
    let v := v + 2 ^ i
    let z ← e.derive (if q.aes then 2 + b2n wide else 0x11) y 2 (fitBytes 16 (q.step v)) []
    e.transactionKey q wide is v z

/-- The working key of an entry. -/
def workingKey (e : Prog) (q : Ksn) (wide : Bool) (entry : Nat) : Run KeySlot := do
  let y ← e.cipherKey 0 (if q.aes then 2 else 1) useDerive 0
  let k ← e.initialKey y q wide
  let k ← e.transactionKey q wide (oneBits q.width q.counter) 0 k
  e.derive entry k 2 (fitBytes 16 (q.step q.counter)) []

/-- The checks programs 0x1C1 and 0x1C2 share: PARAM, the serial number and the sixteen bytes at 12. The bytes that a TDES key leaves unused, 10 and 11 of the serial
number's field and the upper eight of an IV's or a MAC's, must be zero, or the DETAIL is 0xC003 (DESIGN CHOICE, log 241: the spec does not call them
reserved). -/
def dukptChecks (e : Prog) (used : Bool → Nat) : Run (Ksn × Bool) := do
  let aes := e.param 0 1 == 1
  let wide := e.param 1 1 == 1
  need (e.paramOnly 3 && (aes || !wide) && e.ksnOk aes 0 && e.zero (12 + used aes) (16 - used aes)) 0xC003
  pure (e.ksn aes 0, wide)

end Prog

/-- Program 0x150 (R120): a PIN block translated from a DUKPT working key. -/
def execPinTranslateFromDukpt (c : Ctx) (run : ProgramRun) (s : State) : Result :=
  s.program c 0x150 run fun e => do
    let i := e.param 0 6
    let j := e.param 8 6
    let aes := e.param 16 1 == 1
    let q := e.ksn aes 16
    let t ← e.translationChecks i j 28 39 0x13F3F fun f => f.wide == aes && e.ksnOk aes 16
    need q.valid 0xC030
    let y ← e.workingKey q false (if aes then 0x04 else 0x12)
    let z ← e.cipherKey 1 t.2.1.keyClass usePinTranslate 1
    let pin ← e.openPin i y t.2.2 28
    let v ← e.sealPin j z pin 28
    e.reply v q.status

/-- Program 0x1C1: CBC decryption under the data key. -/
def execDukptDataDecrypt (c : Ctx) (run : ProgramRun) (s : State) : Result :=
  s.program c 0x1C1 run fun e => do
    let n := e.inLen - 28
    let b := if e.param 0 1 = 1 then 16 else 8
    need (28 ≤ e.inLen && n % b == 0) 0xC002
    let r ← e.dukptChecks fun aes => if aes then 16 else 8
    e.room n
    need r.1.valid 0xC030
    let y ← e.workingKey r.1 r.2 (if r.1.aes then 7 + 4 * b2n r.2 else 0x14)
    let v ← e.lanes (← e.wires y) (n / b) fun p k => (cbcDecBy (p.cipher (b2n (!r.1.aes)) true k) b (e.input 12 b) (e.input 28 n)).1
    e.reply v r.1.status

/-- Program 0x1C2: a MAC verified under the MAC verification key. -/
def execDukptMacVerify (c : Ctx) (run : ProgramRun) (s : State) : Result :=
  s.program c 0x1C2 run fun e => do
    e.atLeast 28
    let r ← e.dukptChecks fun aes => if aes then 16 else 8
    need r.1.valid 0xC030
    let y ← e.workingKey r.1 r.2 (if r.1.aes then 6 + 4 * b2n r.2 else 0x13)
    let v ← e.macOf y 1 (e.input 28 (e.inLen - 28))
    mustMatch (v == e.input 12 v.length)
    pure { status := r.1.status }

/-! ## FF1 (R121, R122, NIST SP 800-38G) -/

/-- A numeral string as a number. -/
def numeral (radix : Nat) (ns : List Nat) : Nat := ns.foldl (fun v x => v * radix + x) 0

/-- A number as a numeral string of `m` symbols. -/
def numerals (radix m v : Nat) : List Nat := ((List.range m).map fun i => v / radix ^ i % radix).reverse

/-- What an FF1 operation runs on. -/
structure Ff1 where
  key : List Byte
  radix : Nat
  n : Nat
  tweak : List Byte
deriving DecidableEq, Repr

/-- Symbols of the left half. -/
def Ff1.u (f : Ff1) : Nat := f.n / 2

/-- Bytes of the right half's numeral. -/
def Ff1.b (f : Ff1) : Nat := (bitLen (f.radix ^ (f.n - f.u) - 1) + 7) / 8

/-- Bytes of a round's output. -/
def Ff1.d (f : Ff1) : Nat := 4 * ((f.b + 3) / 4) + 4

/-- AES blocks of an operation (R122). -/
def Ff1.blocks (f : Ff1) : Nat := 10 * ((f.tweak.length + f.b + 16) / 16 + (f.d + 15) / 16)

/-- AES blocks of a round. -/
def Ff1.perRound (f : Ff1) : Nat := (f.tweak.length + f.b + 16) / 16 + (f.d + 15) / 16

/-- The round function under a block function: the number of round `i` on a half. -/
def Ff1.round (f : Ff1) (blk : BlockFn) (i v : Nat) : Nat :=
  let t := f.tweak.length
  let p : List Byte := [1, 2, 1] ++ beBytes 3 f.radix ++ [10] ++ beBytes 1 (f.u % 256) ++ beBytes 4 f.n ++ beBytes 4 t
  let q := f.tweak ++ zeros ((16 - (t + f.b + 1) % 16) % 16) ++ beBytes 1 i ++ beBytes f.b v
  let first := f.perRound * i
  let r := (cbcEncBy (fun j => blk (first + j)) 16 (zeros 16) (p ++ q)).2
  let more := (List.range ((f.d + 15) / 16 - 1)).flatMap fun j => blk (first + (p.length + q.length) / 16 + j) (xorBytes r (beBytes 16 (j + 1)))
  beNat ((r ++ more).take f.d)

/-- Symbols of the half a round replaces. -/
def Ff1.half (f : Ff1) (i : Nat) : Nat := if i % 2 = 0 then f.u else f.n - f.u

/-- Ten rounds forward on the two halves' numbers. -/
def Ff1.encrypt (f : Ff1) (blk : BlockFn) (ab : Nat × Nat) : Nat × Nat :=
  (List.range 10).foldl (fun ab i => (ab.2, (ab.1 + f.round blk i ab.2) % f.radix ^ f.half i)) ab

/-- Ten rounds backward. -/
def Ff1.decrypt (f : Ff1) (blk : BlockFn) (ab : Nat × Nat) : Nat × Nat :=
  (List.range 10).reverse.foldl (fun ab i =>
    let m := f.radix ^ f.half i
    ((ab.2 + m - f.round blk i ab.1 % m) % m, ab.1)) ab

/-- The numeral string an operation gives under a block function. -/
def Ff1.applyBy (f : Ff1) (blk : BlockFn) (forward : Bool) (xs : List Nat) : List Nat :=
  let ab := (numeral f.radix (xs.take f.u), numeral f.radix (xs.drop f.u))
  let cd := if forward then f.encrypt blk ab else f.decrypt blk ab
  numerals f.radix f.u cd.1 ++ numerals f.radix (f.n - f.u) cd.2

/-- The numeral string an operation gives. -/
def Ff1.apply (f : Ff1) (forward : Bool) (xs : List Nat) : List Nat := f.applyBy (fun _ => aesEncrypt f.key) forward xs

/-- Programs 0x1E0 and 0x1E1: the checks in the order of Table 4.8, then the operation. -/
def Prog.ff1 (e : Prog) (forward : Bool) : Run Done := do
  let radix := e.param 0 17
  let w := if radix ≤ 256 then 1 else 2
  let n := e.num 0 2
  let t := e.byte 2
  let xs := (List.range n).map fun i => e.num (3 + w * i) w
  e.atLeast (3 + w * n + t)
  need (e.paramOnly 0x1FFFF) 0xC003
  e.room (w * n)
  need (2 ≤ radix && radix ≤ 65536) 0xC010
  need (n ≤ 1024 && 1000000 ≤ radix ^ n) 0xC011
  need (xs.all (· < radix)) 0xC012
  need (t ≤ 64) 0xC013
  let y ← e.cipherKey 0 2 (if forward then useTokenise else useDetokenise) 0
  let f : Ff1 := { key := y.key.material, radix, n, tweak := e.input (3 + w * n) t }
  let v ← e.lanes (← e.wires y) f.blocks fun p k => ({ f with key := k }.applyBy (p.cipher 0 false k) forward xs).flatMap (leBytes w)
  e.reply v

def execFf1Tokenise (c : Ctx) (run : ProgramRun) (s : State) : Result := s.program c 0x1E0 run fun e => e.ff1 true
def execFf1Detokenise (c : Ctx) (run : ProgramRun) (s : State) : Result := s.program c 0x1E1 run fun e => e.ff1 false

end Sys2Proof.Machine
end

