-- ==== Sys2Proof/Machine/KeyPrograms.lean ====
section
/-! DEFINITION. The shipped key-table programs: generate, destroy, load, read and attest a key, the table roll, the replication log (R202, R205, R369, Table 7.10). -/
namespace Sys2Proof.Machine

/-! ## Generate, destroy, read (R205) -/

/-- The KEYGEN operation of a class of 4 to 7 with its source: for class 5 the bits of the modulus and e = 65,537. -/
def keygenWord (cls sel mlen : Nat) : PkWord × List Byte :=
  if cls = 4 then ({ oper := 0x01, sel }, [])
  else if cls = 5 then ({ oper := 0x16 }, leBytes 2 (4 * (mlen - 4)) ++ beBytes 4 65537)
  else ({ oper := if cls = 6 then 0x20 else 0x28, sel }, [])

namespace Prog

/-- The key a Generate key command asks for, in key slot 0, and its public key. -/
def generated (e : Prog) (cls usage sel attr mlen : Nat) : Run (KeySlot × List Byte) := do
  if cls ≤ 3 then
    let r ← e.random mlen
    let key : Key := { ktype := .secret, cls, sel, level := 6, usage, attr := withOrigin attr 0, material := r }
    let y : KeySlot := { key := { key with kcv := key.checkValue } }
    e.place 0 y
    pure (y, [])
  else
    let w := keygenWord cls sel mlen
    let r ← e.pkx w.1 none w.2
    match r.2 with
    | none => pure ({}, r.1)
    | some secret =>
      let y := e.secretKey w.1 none usage secret
      e.place 0 y
      pure (y, r.1)

/-- Bytes of the public key that follows the record. -/
def publicLen (_ : Prog) (s : State) (cls sel mlen : Nat) : Nat :=
  let w := keygenWord cls sel mlen
  if cls ≤ 3 then 0 else pkResultLen w.1 none (if w.1.isEc then curveOf sel (s.curveEntry sel) else none) w.2

end Prog

/-- Program 0x100: a key generated and written as a record under KEY0, or under its scope's root. -/
def execGenerateKey (c : Ctx) (run : ProgramRun) (s : State) : Result :=
  s.program c 0x100 run fun e => do
    let cls := e.param 0 4
    let a := e.num 4 4
    let b := e.num 8 4
    let sel := bitsOf a 16 6
    let mlen := bitsOf b 16 13
    e.atLeast 16
    need (1 ≤ cls && cls ≤ 7 && e.paramOnly 0xF && e.byte 12 < 2 && e.zero 13 3) 0xC003
    let s ← get
    need (s.materialFits cls (if cls ≤ 3 then .secret else .priv) sel mlen) 0xC074
    e.room (128 * recordLines mlen + e.publicLen s cls sel mlen)
    let parent ← if e.x.desc.key0 = noHandle then pure none else do
      let z ← e.fetch 0 0 useWrap 1
      pure (some z)
    let y ← e.generated cls (bitsOf a 0 14) sel (bitsOf b 0 14) mlen
    let bs ← e.writeRecord (e.num 0 4) y.1 parent (e.byte 12 == 1)
    e.reply (bs ++ y.2)

/-- Program 0x101 (R211): KEY0 is destroyed. Its slots are released, and the context waits for the fence, which writes the tombstone and ends the
command. -/
def execDestroyKey (c : Ctx) (run : ProgramRun) (s : State) : Result :=
  s.programThen c 0x101 run fun e => do
    e.room 128
    Prog.geode
    let s ← get
    match s.refuseDestroy e.x.part e.x.desc.key0 with
    | some st => stop st 0
    | none =>
      e.geodeFill 0
      act fun s => s.updCtx e.k fun x => { x with keys := List.replicate 4 none, stream := none }
      pure (.waits .fence)

/-- The entries of a load: handle, four reserved bytes and the record's lines; none where they are cut off or a reserved byte is not zero. -/
def splitRecords : Nat → List Byte → Except Nat (List (Nat × List Byte))
  | 0, _ => .ok []
  | fuel + 1, bs =>
    if bs.isEmpty then .ok []
    else
      let n := 128 * max 1 (byteAt bs 14)
      if bs.length < 8 + n then .error 0xC002
      else if numAt bs 4 4 ≠ 0 then .error 0xC003
      else do
        let rest ← splitRecords fuel (bs.drop (8 + n))
        pure ((numAt bs 0 4, slice 8 n bs) :: rest)

/-- The records of a load, in order: one code each (R201). -/
def Prog.loadAll (e : Prog) : List (Nat × List Byte) → Run (List Nat)
  | [] => pure []
  | (h, bs) :: rest => do
    let s ← get
    match s.loadRecord e.x.part h bs with
    | .error st => stop st 0
    | .ok (code, s, d) =>
      set (s.updCtx e.k fun x => { x with delta := d <|> x.delta })
      let codes ← e.loadAll rest
      pure (code :: codes)

/-- Program 0x102: records loaded; 0x82 where any was refused. -/
def execLoadRecords (c : Ctx) (run : ProgramRun) (s : State) : Result :=
  s.program c 0x102 run fun e => do
    match splitRecords (e.inLen / 136 + 1) (e.input 0 e.inLen) with
    | .error det => malformed det
    | .ok rs =>
      e.room rs.length
      Prog.geode
      let codes ← e.loadAll rs
      e.reply (codes.map (BitVec.ofNat 8)) (if codes.any (1 < ·) then 0x82 else 0)

/-- Program 0x103: the lines of KEY0's record, or its tombstone. -/
def execReadRecord (c : Ctx) (run : ProgramRun) (s : State) : Result :=
  s.program c 0x103 run fun e => do
    Prog.geode
    let s ← get
    match s.recordLinesOf e.x.part e.x.desc.key0 with
    | .error st => stop st 0
    | .ok bs =>
      e.room bs.length
      e.geodeFill 0
      e.reply bs

/-! ## Attest (R215, R216) -/

/-- The signature `which` of a statement: 1 ECDSA P-384, 2 ML-DSA-65. -/
def Prog.attestOp (e : Prog) (which : Nat) (source rand : List Byte) : PkOp :=
  { part := e.x.part, word := { oper := if which = 1 then 0x02 else 0x29 }, key := some { ktype := .priv, cls := if which = 1 then 4 else 7, sel := 1 },
    source, rand, attest := which }

/-- Program 0x107: the attestation statement of KEY0 over a nonce, signed twice by two clusters at once. -/
def execAttestKey (c : Ctx) (run : ProgramRun) (s : State) : Result :=
  s.program c 0x107 run fun e => do
    e.atLeast 32
    e.room 3557
    let y ← e.fetch 0 0 0 0
    let s ← get
    if y.key.origin ≠ 0 ∨ y.key.exportable ∨ s.lcState = 6 then stop stKeyUsageDenied 0
    let p ← Prog.pkPlace (e.attestOp 1 [] []) []
    let q ← if (s.pickPk true [p.1]).isSome then Prog.pkPlace (e.attestOp 2 [] []) [p.1] else Prog.pkPlace (e.attestOp 2 [] []) []
    let r ← e.random 256
    let text := s.statement e.x (y.line.getD 0) y.key (e.input 0 32)
    let a ← e.pkAnswered 0 p.1 p.2 ((e.attestOp 1 text (r.take 192)).enter s.lc.devKeys)
    let b ← e.pkAnswered 1 q.1 q.2 ((e.attestOp 2 text (r.drop 192)).enter s.lc.devKeys)
    e.reply (text ++ fitBytes 96 a.1 ++ fitBytes 3309 b.1)

/-! ## The table roll (R202) -/

/-- The live records of a partition whose base line lies in a range of handles, in order. -/
def State.liveIn (s : State) (p first n : Nat) : List (Nat × KeyLine) :=
  s.ge.lines.filter fun e => e.2.live && decide (lineKey p first ≤ e.1 ∧ e.1 < lineKey p first + n)

/-- A line under the next table epoch. -/
def KeyLine.rewrapped (l : KeyLine) (t : Nat) : KeyLine := { l with record := l.record.map fun r => { r with tepoch := t } }

/-- A table roll's phase: the command is the one PARAM[1:0] names. -/
def State.rollPhase (s : State) (c : Ctx) (run : ProgramRun) (phase : Nat) (body : Prog → Run Done) : Result :=
  s.program c 0x10A run fun e => do
    if e.param 0 2 ≠ phase then hold
    need (e.paramOnly 3) 0xC003
    Prog.geode
    body e

/-- Phase 0: records created from here on carry T + 1. -/
def execTableRollBegin (c : Ctx) (run : ProgramRun) (s : State) : Result :=
  s.rollPhase c run 0 fun e => do
    act fun s => s.updPart e.x.part fun x => { x with rollBusy := true }
    pure {}

/-- Phase 1: the live lines of a range are verified, rewrapped under T + 1 and written out. -/
def execTableRollRewrap (c : Ctx) (run : ProgramRun) (s : State) : Result :=
  s.rollPhase c run 1 fun e => do
    let p := e.x.part
    let n := e.num 4 4
    let s ← get
    e.atLeast 8
    need (1 ≤ n && n ≤ 32768 && (s.part p).rollBusy) 0xC003
    let t := ((s.part p).tepoch + 1) % 2 ^ 32
    let ls := s.liveIn p (e.num 0 4) n
    let lines := (ls.map fun l => (l.2.record.map fun r => recordLines r.key.material.length).getD 1)
    e.room (128 * lines.sum)
    if !ls.isEmpty then let _ ← e.lanes {} ((lines.map fun m => 26 + 30 * (m - 1)).sum) fun _ _ => []
    act fun s => ls.foldl (fun s l =>
      let new := l.2.rewrapped t
      let r := ({ s with ge.lines := placeLine s.ge.lines l.1 new }).sendDelta (.line l.1 new)
      r.1.updCtx e.k fun x => { x with delta := r.2 <|> x.delta }) s
    let s ← get
    e.reply (ls.flatMap fun l => s.lineBytes l.1 (s.line l.1))

/-- A new T and PREV_OK: in the partition, in the flash and at the standby; GEO INT_RAW bit 3. -/
def Prog.rolled (e : Prog) (t : Nat) (prev : Bool) : Run Done := do
  let p := e.x.part
  act fun s =>
    let s := ((s.updPart p fun x => { x with tepoch := t, prevOk := prev, rollBusy := false }).keepEntry p).raise pgGEO 3
    let r := s.sendDelta (.roll p t prev)
    r.1.updCtx e.k fun x => { x with delta := r.2 <|> x.delta }
  pure {}

/-- Phase 2: T becomes T + 1 and PREV_OK 1, unless a live line still carries the old epoch. -/
def execTableRollFinish (c : Ctx) (run : ProgramRun) (s : State) : Result :=
  s.rollPhase c run 2 fun e => do
    let p := e.x.part
    let s ← get
    let t := ((s.part p).tepoch + 1) % 2 ^ 32
    need (!s.ge.lines.any fun l => l.2.live && linePart l.1 == p && (l.2.record.map (·.tepoch)) != some t) 0xC076
    e.rolled t true

/-- Phase 3: PREV_OK becomes 0. -/
def execTableRollConfirm (c : Ctx) (run : ProgramRun) (s : State) : Result :=
  s.rollPhase c run 3 fun e => do
    let s ← get
    let x := s.part e.x.part
    let r ← e.rolled x.tepoch false
    act fun s => s.updPart e.x.part fun y => { y with rollBusy := x.rollBusy }
    pure r

/-! ## The replication log (R369) -/

/-- Program 0x10B: the oldest entries of the log, as many as the output holds, and no longer in it; 0x85 reports a loss once. -/
def execReadReplicationLog (c : Ctx) (run : ProgramRun) (s : State) : Result :=
  s.program c 0x10B run fun e => do
    let p := e.x.part
    let x := (← get).part p
    let n := e.x.desc.outLen / 8
    act fun s => s.updPart p fun x => { x with replLog := x.replLog.drop n, replLost := false }
    e.reply ((x.replLog.take n).flatMap fun l => leBytes 4 l.1 ++ leBytes 3 l.2 ++ [0]) (if x.replLost then 0x85 else 0)

end Sys2Proof.Machine
end

