-- ==== Sys2Proof/Machine/Admin.lean ====
section
/-! DEFINITION. The administration programs 0x010 to 0x01F: staging, approvals, life cycle, debug, sleep, domain, re-provisioning, firmware, applets, journal (R125, R180, R274, R275, R311, R317, R318, R329, R360, R361, R371, R372, R395, R396, R402, R429). -/
namespace Sys2Proof.Machine

namespace Prog

/-- The whole input. -/
def allInput (e : Prog) : List Byte := e.input 0 e.inLen

/-- A change handed to the gate, which takes it (check 5 of R125). -/
def stage (_ : Prog) (c : Change) : Run Done := do
  let s ← get
  let r := s.stage c
  set r.1
  need r.2 0xC061
  pure {}

/-- An object is staged after the checks of its bytes (R125): a target within its range, no PARAM bit above the field, a fitting length. -/
def stageObject (e : Prog) (bits first : Nat) (fits : List Byte → Bool) (table : ImageTable) (check : List Byte → Option Nat) : Run Done := do
  let i := e.param 0 bits
  need (first ≤ i) 0xC060
  need (e.paramOnly (2 ^ bits - 1)) 0xC003
  let bs := e.allInput
  need (bs.isEmpty || fits bs) 0xC002
  match (if bs.isEmpty then none else check bs) with
  | some det => malformed det
  | none => e.stage (.image table i bs)

end Prog

/-! ## Staging (R125, R180, R402) -/

/-- Program 0x010: a program image, or an empty slot. -/
def execStageProgramImage (c : Ctx) (run : ProgramRun) (s : State) : Result :=
  s.program c 0x10 run fun e =>
    e.stageObject 12 1024 (fun bs => 256 ≤ bs.length && bs.length == imageLength bs) .program fun bs =>
      if (readImage (e.param 0 12) bs).isSome then none else some 0xC060

/-- Program 0x011: a format entry. -/
def execStageFormatEntry (c : Ctx) (run : ProgramRun) (s : State) : Result :=
  s.program c 0x11 run fun e => e.stageObject 6 32 (·.length == 64) .format fun bs => (fmtCheck bs).map (0xC050 + ·)

/-- Program 0x012: a derivation entry. -/
def execStageDerivationEntry (c : Ctx) (run : ProgramRun) (s : State) : Result :=
  s.program c 0x12 run fun e => e.stageObject 7 64 (·.length == 128) .derivation fun bs => (derCheck bs).map (0xC050 + ·)

/-- The checks of a curve entry, on an idle engine of the lowest public-key cluster in service (R180): the first that fails, if any. -/
def Prog.checkCurve (e : Prog) (bs : List Byte) : Run (Option Nat) := do
  let s ← get
  match (List.range 8).find? fun p => s.bit R.GBL_PK_INSERVICE p with
  | none => match s.pk.lastOut with
    | some det => stop stFaultDetected det
    | none => hold
  | some p =>
    match (List.range 8).find? fun u => s.pkOpen p u && (s.pkUnit p u).ops.isEmpty with
    | none => hold
    | some u =>
      if e.run.pkTwin = some 0 then throw (.pkTwin p u)
      let r := s.draw (72 * 144)
      set r.2
      pure (curveCheck bs r.1)

/-- Program 0x013 (R180): a curve entry; a check of Table 6.12 that fails is the DETAIL of CURVE_REJECTED and LAST_CHECK. -/
def execStageCurveEntry (c : Ctx) (run : ProgramRun) (s : State) : Result :=
  s.program c 0x13 run fun e => do
    let i := e.param 0 6
    need (16 ≤ i) 0xC060
    need (e.paramOnly 0x3F) 0xC003
    let bs := e.allInput
    need (bs.isEmpty || bs.length == 512) 0xC002
    let bad ← if bs.isEmpty then pure none else e.checkCurve bs
    match bad with
    | some n =>
      act fun s => { s with pk.lastCheck := Sparse.set 0 s.pk.lastCheck i n }
      stop stCurveRejected n
    | none => e.stage (.image .curve i bs)

/-- Program 0x01E (R402): a service applet whose header, digest and tag are right, or an empty slot. -/
def execStageServiceApplet (c : Ctx) (run : ProgramRun) (s : State) : Result :=
  s.program c 0x1E run fun e => do
    need (e.paramOnly 7) 0xC003
    let s ← get
    let bs := e.allInput
    let ok : Bool := bs.isEmpty || match readApplet bs with
      | some h => h.aslot == e.param 0 3 && (s.part h.tag).created
      | none => false
    need ok 0xC0E1
    e.stage (.image .applet (e.param 0 3) bs)

/-! ## Approvals and the change record (R274, R275) -/

/-- Program 0x014 (R275): checks 1 and 2, and the verification of the signature begins; the gate judges the rest when it ends. -/
def execApproveChange (c : Ctx) (run : ProgramRun) (s : State) : Result :=
  s.programThen c 0x14 run fun e => do
    e.atLeast 56
    let s ← get
    let msg := e.input 0 56
    let rest := e.input 56 (e.inLen - 56)
    let refuse (det : Nat) : Run Unit := do
      act fun s => s.refuseApproval det
      malformed det
    if !s.approvalNames msg then refuse 0xC080
    if !s.approvalKeyed msg rest then refuse 0xC082
    let n := (approvalLens (((s.approver msg).map (·.ktype)).getD 1)).1
    act fun s => { s with gt.verifying := s.gt.verifying ++ [{ ctx := e.k, msg, key := rest.take n, sig := rest.drop n }] }
    pure (.waits .pkx)

/-- Program 0x015 (R274): the record of the sealed change. -/
def execReadChangeRecord (c : Ctx) (run : ProgramRun) (s : State) : Result :=
  s.program c 0x15 run fun e => do
    let s ← get
    need (2 ≤ s.get R.GATE_STATE) 0xC080
    e.room s.changeRecords.length
    e.reply s.changeRecords

/-! ## Life cycle and debug (R311, R317, R318) -/

/-- Program 0x016 (R311): a life-cycle command, checked as LCS_GO would check it, becomes a class 7 change. -/
def execStageLifeCycleCommand (c : Ctx) (run : ProgramRun) (s : State) : Result :=
  s.program c 0x16 run fun e => do
    need (e.inLen == 36) 0xC002
    need (e.zero 1 3) 0xC003
    let s ← get
    let t := e.byte 0
    let token := e.input 4 32
    match s.lcRefusal false t token with
    | some code => malformed (0xC090 + code)
    | none => e.stage (.lifeCycle t token)

/-- CHAL_WINDOW, clamped, in ns. -/
def State.challengeNs (s : State) : Nat := 1000000000 * max 10 (min 3600 (s.get R.LCS_CHAL_WINDOW))

/-- Programs 0x017 and 0x018 run in INTEGRATOR and FIELDED only. -/
def Prog.fielded (_ : Prog) : Run Unit := do
  let s ← get
  need (s.lcState == 4 || s.lcState == 5) 0xC0A2

/-- Program 0x017 (R317): a fresh nonce and the 56-byte challenge. -/
def execDebugChallenge (c : Ctx) (run : ProgramRun) (s : State) : Result :=
  s.program c 0x17 run fun e => do
    e.fielded
    e.room 56
    let nonce ← e.random 32
    act fun s => { s with lc.nonce := nonce, lc.nonceDue := s.quartz + s.challengeNs }
    let s ← get
    e.reply ([0x4B, 0x4C, 0x44, 0x43] ++ leBytes 8 Config.serial.toNat ++ leBytes 1 s.lcState ++ zeros 3 ++ nonce ++ leBytes 4 s.ob.rwgen ++
      leBytes 4 s.bt.fwVersion)

/-- A refused debug response: DBG_REFUSED, DBG_LAST_REFUSE, LCS INT_RAW bit 4 (R318). -/
def State.refuseDebug (s : State) (detail : Nat) : State :=
  ((s.countSat R.LCS_DBG_REFUSED).set R.LCS_DBG_LAST_REFUSE detail).raise pgLCS 4

/-- A check of Table 12.6. -/
def debugCheck (p : Bool) (detail : Nat) : Run Unit :=
  if p then pure () else do
    act fun s => s.refuseDebug detail
    malformed detail

/-- Program 0x018 (R318, R319): the checks of Table 12.6; an accepted response completes with 0x84, and then raises DEBUG_OPEN. -/
def execDebugResponse (c : Ctx) (run : ProgramRun) (s : State) : Result :=
  s.programThen c 0x18 run fun e => do
    e.fielded
    need (e.inLen == 5502) 0xC002
    let s ← get
    let msg := e.input 0 48
    let nonce := s.lc.nonce
    debugCheck (!nonce.isEmpty) 0xC0A0
    act fun s => { s with lc.nonce := [] }
    debugCheck (decide (msg.take 44 = [0x4B, 0x4C, 0x44, 0x52] ++ leBytes 8 Config.serial.toNat ++ nonce)) 0xC0A1
    let ec := e.input 48 97
    let pq := e.input 145 1952
    debugCheck (decide (sha3_256 ec = Config.serviceDigest 0 ∧ sha3_256 pq = Config.serviceDigest 1)) 0xC0A3
    if !(approvalVerifies 1 ec (e.input 2097 96) msg && approvalVerifies 2 pq (e.input 2193 3309) msg) then
      act fun s => s.refuseDebug 5
      stop stAuthFail 0
    let grant := e.num 44 2
    debugCheck (grant != 0 && decide (grant < 4) && e.zero 46 2) 0xC0A4
    debugCheck s.lc.target.isNone 0xC0A5
    pure (.follows { status := 0x84 } fun s => { s with lc.opening := some grant }.raiseInput 18)

/-! ## Sleep (R329) -/

/-- Does an enabled queue pair other than the command's own hold commands that are not fetched? -/
def State.otherWork (s : State) (own : Option Nat) : Bool :=
  s.hq.qps.any fun e => some e.1 != own && e.2.qstate.enabled && e.2.sqTail != e.2.sqHead

/-- A public-key operation is held. -/
def State.pkHeld (s : State) : Bool := s.pk.units.any (fun e => !e.2.ops.isEmpty) || s.pk.queues.any fun e => !e.2.isEmpty

/-- Something runs that sleep may not meet (0xC0B2): a gate change, a life-cycle transition, a fence, a table roll, an HBM repair, a freeze or drain,
a level change. -/
def State.sleepBarred (s : State) : Bool :=
  s.get R.GATE_STATE != 0 || s.lc.target.isSome || !s.ge.fences.isEmpty || s.get R.PWR_STEP != 0 ||
  ((List.range 2).any fun k => decide (1 ≤ s.get (R.HBM_PPR_STATE k) ∧ s.get (R.HBM_PPR_STATE k) ≤ 4)) ||
  s.parts.any fun e => e.2.rollBusy || e.2.freezing || e.2.pstate == .draining

/-- Entry begins (R330): fetch has stopped and PL0 is requested. -/
def State.beginSleep (s : State) (s3 : Bool) : State :=
  { s.set R.PWR_SLEEP 5 with pw := { s.pw with phase := .entering, s3 } }.settleLevel

/-- Program 0x019 (R329): PARAM[1:0] selects the state; entry begins after the completion write. -/
def State.sleepProgram (s : State) (c : Ctx) (run : ProgramRun) (s3 : Bool) : Result :=
  s.programThen c 0x19 run fun e => do
    let v := e.param 0 2
    need (e.paramOnly 3 && (v == 2 || v == 3)) 0xC003
    if (v == 3) ≠ s3 then hold
    let s ← MonadState.get
    let own := e.x.cmd.bind fun d => if d.peer.isNone then some (qpKey d.part d.qp) else none
    need (!(s.created.any fun p => p.1 != 0 && s.backlog p.1 != 0) && !s.otherWork own && !s.pkHeld) 0xC0B1
    need (!s.sleepBarred) 0xC0B2
    need (s.ob.latch != 1) 0xC0B3
    pure (.follows {} fun s => s.beginSleep s3)

/-- Program 0x019 with PARAM 2. -/
def execEnterSleepS2 (c : Ctx) (run : ProgramRun) (s : State) : Result := s.sleepProgram c run false

/-- Program 0x019 with PARAM 3. -/
def execEnterSleepS3 (c : Ctx) (run : ProgramRun) (s : State) : Result := s.sleepProgram c run true

/-! ## The domain (R360-R362) -/

/-- BARE and SERVICE follow the enrolment (Table 16.3). -/
def State.modeAfterEnrolment (s : State) : State :=
  match s.mode with
  | .bare | .service => s.enterMode s.servingMode
  | .boot | .maintenance | .shadow | .responded => s

/-- An operation of program 0x01A: the command is the one PARAM[1:0] names. -/
def State.domainProgram (s : State) (c : Ctx) (run : ProgramRun) (op : Nat) (body : Prog → Run Unit) : Result :=
  s.program c 0x1A run fun e => do
    need (e.paramOnly 3 && e.param 0 2 != 3) 0xC003
    if e.param 0 2 ≠ op then hold
    body e
    act State.modeAfterEnrolment
    pure {}

/-- The domain root of each partition in the table set, kept and sent to the standby (R189, R343). -/
def State.setDomainRoots (s : State) (root : State → Nat → Root × State) : State :=
  (s.created.map (·.1)).foldl (fun s p =>
    let r := root s p
    let s := (r.2.updPart p fun x => { x with droot := r.1 }).keepEntry p
    let x := s.part p
    s.tellStandby (.roots p x.proot x.droot x.mroot)) s

/-- The module is a member (R360, R362): secret, DOMAIN_ID, domain time; every domain root becomes the domain's, DROOT_GEN 1. -/
def State.enrol (s : State) (secret : List Byte) (id time : Nat) : State :=
  let s : State := { s with dm.secret := secret, dm.wrapGen := s.ob.rwgen, dm.id := id, dm.offset := (time : Int) - (s.quartz : Int), dm.disciplined := s.quartz }
  let s := ((s.set R.FVL0_ENROLLED 1).set R.FVL0_DOMAIN_ID_LO id).set R.FVL0_DOMAIN_ID_HI (id / 2 ^ 32)
  s.setDomainRoots fun s p => ({ gen := 1, key := some (s.domainRoot p) }, s)

/-- Program 0x01A Create: the only member of its domain is its grandmaster (R363). -/
def execDomainCreate (c : Ctx) (run : ProgramRun) (s : State) : Result :=
  s.domainProgram c run 0 fun e => do
    let s ← get
    need (!s.enrolled) 0xC0C1
    let secret ← e.random 32
    let id ← e.random 8
    let start := leNat (e.x.desc.paramExt.take 8)
    act fun s => (s.enrol secret (leNat id) (if start = 0 then s.quartz else start)).setTime true true

/-- The UP ring or trunk link that reaches the sponsor. -/
def State.sponsorLink (s : State) : Option Nat :=
  [2, 3, 4, 5].find? fun k => s.linkUp k && s.get (R.FVL_PEER_SN_LO k) + 2 ^ 32 * s.get (R.FVL_PEER_SN_HI k) == s.sponsorSerial

/-- Program 0x01A Join (R361): what the sponsor sends, if it accepts the joiner; the scope 1 records follow in the background. -/
def execDomainJoin (c : Ctx) (run : ProgramRun) (sponsor : Option Sponsorship) (s : State) : Result :=
  s.domainProgram c run 1 fun _ => do
    let s ← get
    need (!s.enrolled) 0xC0C1
    need (s.sponsorSerial != 0 && s.sponsorLink.isSome) 0xC0C2
    act fun s => s.tellOn s.sponsorLink fun k => .joinRequest k (s.created.map (·.1))
    match sponsor with
    | none => malformed 0xC0C2
    | some g =>
      act fun s =>
        let s := s.enrol (fitBytes 32 g.secret) g.id.toNat g.time
        let s : State := { s with dm.catchup := true }
        g.epochs.foldl (fun s x =>
          (s.updPart x.1 fun y => { y with epoch := x.2.1 % 2 ^ 32, epSeq := x.2.2.1 % 2 ^ 32, epPending := x.2.2.2 }).openEpoch x.1) s

/-- The scope 1 lines of every partition are virgin, and no slice holds one. -/
def State.dropScope1 (s : State) : State :=
  let kept := fun (k : Nat) => handleScope (lineHandle k) != 1
  { s with ge := { s.ge with
      lines := s.ge.lines.filter fun e => kept e.1
      slices := Sparse.mapVals [] (fun _ es => es.filter fun e => kept e.line) s.ge.slices } }

/-- Program 0x01A Leave: the tenant partitions are FROZEN; the secret is gone, the domain roots are drawn anew, the domain links are DOWN. What is no
member is no grandmaster and is locked to none. -/
def execDomainLeave (c : Ctx) (run : ProgramRun) (s : State) : Result :=
  s.domainProgram c run 2 fun _ => do
    let s ← get
    need s.enrolled 0xC0C1
    need (s.tenants.all fun p => (s.part p).pstate == .frozen) 0xC0C3
    act fun s =>
      let s : State := { s with dm := { s.dm with secret := [], wrapGen := 0, id := 0, catchup := false, parent := none, lostAt := none } }
      let s := (s.setTime false false).set R.FVL0_DT_DEPTH 0
      let s := (((s.set R.FVL0_ENROLLED 0).set R.FVL0_DOMAIN_ID_LO 0).set R.FVL0_DOMAIN_ID_HI 0).dropScope1
      let s := s.setDomainRoots fun s p =>
        let r := s.draw 32
        ({ gen := ((s.part p).droot.gen + 1) % 2 ^ 24, key := some r.1 }, r.2)
      [2, 3, 4, 5, 6, 7].foldl (fun s k => s.linkDown k 5) s

/-! ## Epoch schedules (R371, R372) -/

/-- Program 0x01B: a schedule, or its cancellation, as PARAM[31] says. -/
def State.epochProgram (s : State) (c : Ctx) (run : ProgramRun) (cancels : Bool) (body : Nat → Prog → Run Done) : Result :=
  s.program c 0x1B run fun e => do
    need (e.paramOnly 0x800003FF) 0xC003
    if (e.param 31 1 == 1) ≠ cancels then hold
    let p := e.param 0 10
    act fun s => s.openEpoch p
    body p e

/-- Program 0x01B (R371): epoch E + 1 of a partition is scheduled and broadcast; the reachable members have acknowledged it. -/
def execScheduleEpoch (c : Ctx) (run : ProgramRun) (s : State) : Result :=
  s.epochProgram c run false fun p e => do
    let s ← get
    let x := s.part p
    let ts := leNat (e.x.desc.paramExt.take 8)
    let tov := leNat (slice 8 4 e.x.desc.paramExt)
    need (decide (s.domainTime + 1000000000 ≤ ts) && x.epPending.isNone) 0xC0C4
    need (decide (tov ≤ 60000) && decide (x.epTs + x.epTov ≤ ts)) 0xC0C5
    let seq := (x.epSeq + 1) % 2 ^ 32
    act fun s =>
      (s.updPart p fun x => { x with epSeq := seq, epCancelled := false, epPending := some (ts, 1000000 * tov) }).tellTree fun k =>
        (.schedule k p seq ((x.epoch + 1) % 2 ^ 32) ts (1000000 * tov))
    pure {}

/-- Program 0x01B with PARAM[31] (R372): the pending schedule is cancelled; `late` where a member had opened its epoch: 0x86. -/
def execCancelEpoch (c : Ctx) (run : ProgramRun) (late : Bool) (s : State) : Result :=
  s.epochProgram c run true fun p _ => do
    let s ← get
    let x := s.part p
    match x.epPending with
    | none => malformed 0xC0C4
    | some (ts, _) =>
      need (decide (s.domainTime + 500000000 ≤ ts)) 0xC0C6
      let seq := (x.epSeq + 1) % 2 ^ 32
      act fun s => (s.updPart p fun x => { x with epSeq := seq, epCancelled := true, epPending := none }).tellTree fun k => .cancel k p seq
      pure { status := if late then 0x86 else stOK }

/-! ## Re-provisioning and firmware (R395, R396) -/

/-- Program 0x01C (R395): the re-provisioning of a T3 latch becomes a class 7 change. -/
def execReProvision (c : Ctx) (run : ProgramRun) (s : State) : Result :=
  s.program c 0x1C run fun e => do
    need (e.paramOnly 1) 0xC003
    let s ← get
    let pair : Bool := e.param 0 1 == 1
    need (s.ob.latch == 3) 0xC0D0
    need (!pair || (s.get R.PAIR_PAIR_EN == 1 && s.partnerByte 8 % 4 == 1 && s.pr.healthIn)) 0xC0D1
    need (s.get R.GATE_STATE == 0) 0xC0D2
    e.stage (.reProvision pair)

/-- The device attestation public keys of a generation: the P-384 point uncompressed, then the ML-DSA-65 key. -/
def devicePublics (g : Nat) : List Byte :=
  let c := curveP384
  c.encode false (c.mul (Config.deviceScalar g) (some c.g)) ++ (deviceDsa g).1

/-- A T4 module initialised again (R396): a fresh MMK and RWGEN, an erased flash, the image in slot A, fresh device keys, no latch. -/
def State.reInitialise (s : State) : State :=
  let r := s.draw 32
  { r.2 with
    ob := { r.2.ob with mmk := some r.1, rwgen := (s.ob.rwgen + 1) % 2 ^ 32, latch := 0 }.maskMmk
    gt := { r.2.gt with flash := {} }
    lc := { r.2.lc with devKeys := s.lc.devKeys + 1 }
    bt := { r.2.bt with slotA := s.bt.slotB } }

/-- A chunk that belongs to no transfer: the transfer must restart (0xC0D3). -/
def brokenTransfer : Run Unit := do
  act fun s => { s with bt := { s.bt with transfer := none, chunks := [] } }
  malformed 0xC0D3

/-- Program 0x01D (R396): a chunk of a firmware image is written to slot B; the final one completes the image, which is authenticated and takes slot
A, with or without the re-initialisation of a T4 latch. -/
def execRestoreFirmwareChunk (c : Ctx) (run : ProgramRun) (s : State) : Result :=
  s.programThen c 0x1D run fun e => do
    let s ← get
    let t4 : Bool := s.ob.latch == 4
    if !t4 ∧ s.get R.RST_BOOT_ERR ≠ 1 then stop stModeRefused s.mode.code
    need (e.paramOnly 0x80001FFF) 0xC003
    let at_ := 4096 * e.param 0 13
    let last : Bool := e.param 31 1 == 1
    need (decide (4096 ≤ e.inLen ∧ e.inLen ≤ 2 ^ 23 ∧ at_ + e.inLen ≤ 2 ^ 25) && (last || e.inLen % 4096 == 0)) 0xC002
    if last && t4 then e.room 2049
    if at_ = 0 then act fun s => { s with bt := { s.bt with transfer := some 0, chunks := [], slotB := none } }
    else if s.bt.transfer ≠ some at_ then brokenTransfer
    act fun s => { s with bt := { s.bt with transfer := some (at_ + e.inLen), chunks := s.bt.chunks ++ e.allInput } }
    if !last then return .ends {}
    let image := (← get).bt.chunks
    act fun s => { s with bt := { s.bt with transfer := none, chunks := [], slotB := Config.firmware image } }
    if (Config.firmware image).isNone then stop stAuthFail 0
    if t4 then
      act fun s => s.reInitialise
      let d ← e.reply (devicePublics (s.lc.devKeys + 1))
      pure (.follows d fun s => s.resetModule 5)
    else
      act fun s => { s with bt := { s.bt with slotA := s.bt.slotB } }
      pure (.follows {} fun s => s.resetModule 5)

/-! ## The journal (R425-R429) -/

/-- An operation of program 0x01F: the command is the one PARAM[1:0] names; a medium whose journal is ready serves it. -/
def State.journalProgram (s : State) (c : Ctx) (run : ProgramRun) (op : Nat) (body : Prog → Run Next) : Result :=
  s.programThen c 0x1F run fun e => do
    need (e.paramOnly 1) 0xC003
    if e.param 0 2 ≠ op then hold
    let s ← MonadState.get
    need (s.get R.SD_PRESENT == 1 && s.journalReady) 0xC0F1
    body e

/-- Program 0x01F, append: a TYPE 3 record with the input as payload; the context waits until it is written. -/
def execJournalAppend (c : Ctx) (run : ProgramRun) (s : State) : Result :=
  s.journalProgram c run 0 fun e => do
    need (e.inLen ≤ 216) 0xC0F3
    act fun s =>
      let s : State := { s with jr.queue := s.jr.queue ++ [{ owner := some e.k, type := 3, payload := e.allInput }] }
      s.startAppend
    pure (.waits .journal)

/-- Program 0x01F, read (R427): the record whose NUM the input gives, as the medium returns the block it goes to. -/
def execJournalRead (c : Ctx) (run : ProgramRun) (block : List Byte) (s : State) : Result :=
  s.journalProgram c run 1 fun e => do
    e.atLeast 8
    e.room 256
    let s ← get
    let k := e.num 0 8
    let n := s.journalCount
    let ok : Bool := match s.ob.mmk with
      | some mmk => decide (n < k + s.journalBlocks ∧ k ≤ n ∧ numAt block 12 8 = k) && validRecord mmk (block.take 256)
      | none => false
    need ok 0xC0F4
    pure (.ends (← e.reply (block.take 256)))

end Sys2Proof.Machine
end

