-- ==== Sys2Proof/Machine/Hbm.lean ====
section
/-! DEFINITION. The HBM controllers: initialisation, keys, reads and writes with their checks, scrubbing and row repair (R241-R250). -/
namespace Sys2Proof.Machine

/-! ## Initialisation (R250) -/

/-- HBM_INIT: a controller trains its PHY after a power-up, a reset or a wake; from self-refresh it only retrains. -/
def execHbmInit (stack : Fin 2) (s : State) : Result :=
  if s.get (R.HBM_PHY_READY stack) = 1 ∨ s.pw.phase = .asleep ∨ s.inReset then .next s
  else .next ((s.set (R.HBM_SELF_REFRESH stack) 0).set (R.HBM_PHY_READY stack) 1)

/-- HBM_KEY_DRAW: once Flint is ready a controller draws its XTS key pair, and the first one the MAC key with it. -/
def execHbmKeyDraw (stack : Fin 2) (s : State) : Result :=
  if s.get R.FLT_READY = 0 ∨ s.get (R.HBM_PHY_READY stack) = 0 ∨ s.get (R.HBM_PROT_READY stack) = 1 ∨
      Sparse.get [] s.hb.keys stack ≠ [] then .next s
  else
    let r := s.draw 64
    let s : State := { r.2 with hb.keys := Sparse.set [] r.2.hb.keys stack r.1 }
    if Sparse.get [] s.hb.keys 2 = [] then
      let m := s.draw 32
      .next { m.2 with hb.keys := Sparse.set [] m.2.hb.keys 2 m.1 }
    else .next s

/-- The bytes and the poisoned lines of a stack between two addresses gone: lines of zeros are written over them. -/
def State.zeroLines (s : State) (stack lo hi : Nat) : State :=
  let hit := fun (a : Nat) => decide (lo ≤ a ∧ a < hi) && hbmStack a == stack
  { s with hb.mem := s.hb.mem.filter (fun e => !hit e.1), hb.poison := s.hb.poison.filter fun l => !hit (64 * l) }

/-- PROT_READY: the zeroing of a stack's protected regions and carve-out ends. -/
def execProtReady (stack : Fin 2) (s : State) : Result :=
  if Sparse.get [] s.hb.keys stack = [] ∨ s.get (R.HBM_PROT_READY stack) = 1 then .next s
  else .next ((s.zeroLines stack 0 workBase).set (R.HBM_PROT_READY stack) 1)

/-- WORK_READY: the zeroing of a stack's share of the work region ends. -/
def execWorkReady (stack : Fin 2) (s : State) : Result :=
  if s.get (R.HBM_PROT_READY stack) = 0 ∨ s.get (R.HBM_WORK_READY stack) = 1 then .next s
  else .next ((s.zeroLines stack workBase hbmEnd).set (R.HBM_WORK_READY stack) 1)

/-! ## Inline encryption and line MACs (R241, R242) -/

/-- The key pair of a stack's controller as its engines take it: the data key, then the tweak key. -/
def State.lineKeys (s : State) (k : Nat) : List Byte × List Byte :=
  let b := Sparse.get [] s.hb.keys k
  (b.take 32, b.drop 32)

/-- A line as the controller of stack `k` writes it: AES-256 XTS over its four blocks, the tweak its address divided by 64 as a little-endian integer
(R241). -/
def State.lineCipher (s : State) (k l : Nat) (plain : List Byte) : List Byte :=
  let ks := s.lineKeys k
  xtsRun (fun _ => aesEncrypt ks.1) false (aesEncrypt ks.2 (leBytes 16 l)) 0 plain

/-- A line of stack `k` decrypted as it is read (R241). -/
def State.linePlain (s : State) (k l : Nat) (stored : List Byte) : List Byte :=
  let ks := s.lineKeys k
  xtsRun (fun _ => aesDecrypt ks.1) true (aesEncrypt ks.2 (leBytes 16 l)) 0 stored

/-- The MAC of a protected line in the carve-out: the first 8 bytes of the GMAC of its ciphertext under the HBM MAC key (R242). The nonce is the line's
address in little-endian form: DESIGN CHOICE, log 192. -/
def State.lineMac (s : State) (l : Nat) (stored : List Byte) : List Byte :=
  let key := Sparse.get [] s.hb.keys 2
  let tag := ghash (aesEncrypt key (zeros 16)) (zeros 16) (stored ++ beBytes 8 (8 * stored.length) ++ zeros 8)
  (xorBytes tag (aesEncrypt key (leBytes 12 (64 * l) ++ beBytes 4 1))).take 8

/-- The carve-out address of a protected line's MAC: 8 bytes for each line (Table 9.1). -/
def macAddr (l : Nat) : Nat := 0x802000000 + 8 * l

/-! ## Errors (R241, R244, R246, R248) -/

/-- The key of a row: pseudo-channel, bank and row. -/
def rowKey (pc bank row : Nat) : Nat := (pc * 64 + bank) * 2 ^ 17 + row

/-- A row recorded as a repair candidate: INT_RAW bit 4. -/
def State.rowCandidate (s : State) (pc bank row : Nat) : State :=
  let k := pc / 32
  ((((s.set (R.HBM_CAND_PC k) (pc % 32)).set (R.HBM_CAND_BANK k) bank).set (R.HBM_CAND_ROW k) row).raise (pgHBM k) 4).severity 2

/-- The record of the last error of the stack that serves an address. -/
def State.lastErr (s : State) (a type : Nat) : State :=
  let x := s.holder a
  (s.set (R.HBM_LAST_ERR_LINE x.stack) x.line).set (R.HBM_LAST_ERR_TYPE x.stack) type

/-- A line poisoned. -/
def State.poisonLine (s : State) (l : Nat) : State :=
  if s.hb.poison.contains l then s else { s with hb.poison := s.hb.poison ++ [l] }

/-- A corrected error: counted, and the row's count compared with ROW_CE_LIMIT, which makes it a candidate once (R246, R248). -/
def State.correctedError (s : State) (a bank row : Nat) : State :=
  let k := (s.holder a).stack
  let pc := (s.holder a).channel
  let r := rowKey pc bank row
  let s := (s.countSat (R.HBM_CE_CNT k)).lastErr a 0
  let n := Sparse.get 0 s.hb.rowErrors r + 1
  let s : State := { s with hb.rowErrors := Sparse.set 0 s.hb.rowErrors r n }
  if max 1 (s.get (R.HBM_ROW_CE_LIMIT k)) ≤ n ∧ ¬ s.hb.rowsMet.contains r then
    { s with hb.rowsMet := r :: s.hb.rowsMet }.rowCandidate pc bank row
  else s

/-- An uncorrectable error: counted, the line poisoned, INT_RAW bit 0, the row a candidate (R246, R248). -/
def State.uncorrectableError (s : State) (a bank row : Nat) : State :=
  let x := s.holder a
  let s := (((s.countSat (R.HBM_UE_CNT x.stack)).lastErr a 1).raise (pgHBM x.stack) 0).severity 3
  (s.poisonLine (a / 64)).rowCandidate x.channel bank row

/-- A MAC failure of a line whose ECC reported no error: counted, INT_RAW bit 1, LOGIC raised (R244). -/
def State.macFailure (s : State) (a : Nat) : State :=
  let k := (s.holder a).stack
  ((((s.countSat (R.HBM_MAC_FAIL_CNT k)).lastErr a 2).raise (pgHBM k) 1).severity 3).raiseInput (logicCond 3)

/-- A twin mismatch of an encryption engine: counted here and in the module count, INT_RAW bit 2 (R241). -/
def State.xtsMismatch (s : State) (a : Nat) : State :=
  let k := (s.holder a).stack
  (((s.countSat (R.HBM_XTS_FAULT_CNT k)).lastErr a 3).raise (pgHBM k) 2).mismatch

/-- What a line's checks do, and whether its read gives an integrity error. `twins` is how many times the twins differed: once repeats the
access, twice treats the line as poisoned. -/
def State.checkLine (s : State) (a bank row : Nat) (found : LineCheck) (twins : Nat) : State × Bool :=
  let s := (List.range (min twins 2)).foldl (fun s _ => s.xtsMismatch a) s
  if s.hb.poison.contains (a / 64) ∨ (s.keysOf a).isEmpty then (s, true)
  else if 2 ≤ twins then (s.poisonLine (a / 64), true)
  else match found with
    | .clean => (s, false)
    | .corrected => (s.correctedError a bank row, false)
    | .uncorrectable => (s.uncorrectableError a bank row, true)
    | .macFail => if hbmProtected a then (s.macFailure a, true) else (s, false)

/-- May a requester access protected regions (R243)? -/
def mayProtected : HbmUse → Bool
  | .geode _ | .program _ | .tableCopy | .partTable | .core | .replication | .scrubber | .sweeper => true
  | .hqeStaged | .hqe _ | .cardDma => false

/-- Does a context stand at an operation of the table engine that reads the table: a FETCH that waits for its fill, or one of WRITEREC, DESTROY, LOADREC
and READREC; or does it run a shipped program? -/
def Context.usesTable (x : Context) : Bool :=
  x.cmd.isSome && match x.here with
  | some i => i.cls == 2 && ((i.op == 0 && (x.wait == .keyFill || x.wait == .cacheEntry)) || (5 ≤ i.op && i.op ≤ 8))
  | none => x.image.code.isEmpty

/-- The DETAIL of an operation of the table engine whose line fails: the key field of the instruction; in a shipped program the first key field whose record
or ancestor the line is, else 0. -/
def State.tableField (s : State) (x : Context) (key : Nat) : Nat :=
  match x.here with
  | some i => if i.op = 5 ∨ i.op = 7 then 0 else immBits i.w 0 2
  | none => ((List.range 3).find? fun f => (s.walk x.part 8 (x.desc.keyField f)).1.contains key).getD 0

/-- The consequence of an integrity error (Table 9.2). The firmware's rewrite of a table comes at once, so that no command meets the gap (log 237). -/
def State.integrityError (s : State) (a : Nat) (use : HbmUse) : Result :=
  match use with
  | .geode c =>
    let k := ctxKey c
    let x := s.ctx k
    match s.tableLine (a / 128) with
    | none => .next s
    | some hit =>
      let key := (s.line hit).extOf.getD hit
      if x.usesTable then
        let f := s.tableField x key
        let s := s.lineFailed c.cc key
        .next (if x.image.code.isEmpty then s.endAt k stKeyNotFound f else s.failAt k 4 stKeyNotFound f)
      else .next s
  | .program c =>
    let x := s.ctx (ctxKey c)
    if x.cmd.isSome ∧ x.wait = .cacheFill then .next ((s.raise (pgSEQ c.cc) 1).endCommand (ctxKey c) stAborted 4) else .next s
  | .hqeStaged =>
    match s.granted with
    | some (c, rest) => .next ((s.takeStaged rest).endStaged c stAborted 2)
    | none => .next s
  | .hqe c => if (s.ctx (ctxKey c)).cmd.isSome then .next (s.endCommand (ctxKey c) stAborted 2) else .next s
  | .scrubber | .sweeper => .next (s.poisonLine (a / 64))
  | .tableCopy => .next ((s.loadTables s.userRegion).wholeLines (a / 64 * 64) 64)
  | .partTable => .next (s.wholeLines (a / 64 * 64) 64)
  | .core | .replication | .cardDma => .next s

/-- The MPU an access passes, and its tag (Table 10.4); none for the accesses of units that are no bus master. A control core's accesses are those of
MPU_ACCESS. -/
def State.useMaster (s : State) (a : Nat) : HbmUse → Option (Nat × Nat)
  | .hqeStaged => s.granted.map fun x => (s.dmaMpu x.1, x.1.part)
  | .hqe c => (s.ctx (ctxKey c)).cmd.map fun x => (s.dmaMpu x, x.part)
  | .cardDma => some (10, 0)
  | .replication => some (11, ((s.tableLine (a / 128)).map linePart).getD 0)
  | .scrubber => some (12, 0)
  | .sweeper => some (13, 0)
  | .geode _ | .program _ | .tableCopy | .partTable | .core => none

/-- Does an access wait: its region is not ready (R250), or its channel is under FREEZE (R253)? -/
def State.hbmWaits (s : State) (a : Nat) : Bool := !s.regionReady a || s.channelHeld a

/-- The check of an HBM access by its master's MPU, where it has one (R265, R266): is it permitted, and the state with a denial noted. -/
def State.useCheck (s : State) (kind : AccessKind) (a : Nat) (use : HbmUse) : Bool × State :=
  match s.useMaster a use with
  | some (m, tag) => s.mpuCheck m kind a 1 tag
  | none => (true, s)

/-- HBM_WRITE (R241, R242, R246): a write of up to a line at address `a` is accepted. A protected line's MAC is replaced with it; a partial write
to a poisoned line is not performed, and the writer gets the integrity error. What no requester of R243 or no MPU permits writes nothing. -/
def execHbmWrite (a : Fin 0xBA0000000) (use : HbmUse) (data : List Byte) (twins : Nat) (s : State) : Result :=
  let bs := data.take (64 - a % 64)
  if s.hbmWaits a ∨ (hbmProtected a ∧ !(mayProtected use)) then .next s
  else
    let r := s.useCheck .write a use
    if !r.1 then .next r.2
    else
      let s := (List.range (min twins 2)).foldl (fun s _ => s.xtsMismatch a) (s.crossHbm a)
      if 2 ≤ twins then (s.poisonLine (a.val / 64)).integrityError a use
      else if s.writeFails a bs.length then s.integrityError a use
      else if hbmRegion a = .work ∨ hbmRegion a = .firmware then .next (s.writeMem a bs)
      else .next (s.wholeLines a bs.length)

/-! ## Scrubbing and temperature (R245, R247) -/

/-- The lines of a stack in the address space. -/
def stackLines : Nat := stackShare / 64

/-- The address of a line index of a stack. -/
def stackAddr (stack line : Nat) : Nat := ((line / 4 / 32 * 64 + 32 * stack + line / 4 % 32) * 256) + 64 * (line % 4)

/-- SCRUB_STEP (R247): the scrubber reads its next line of a stack where it holds the grant of the line's channel, as requester 7, or skips it under FREEZE;
past the last line a pass ends. A protected line is not decrypted, so no engine's twins can differ over it. What its MPU denies is not checked (R265, R268). -/
def execScrubStep (stack : Fin 2) (bank row : Nat) (found : LineCheck) (twins : Nat) (s : State) : Result :=
  if s.get (R.HBM_SCRUB_EN stack) = 0 ∨ s.get (R.HBM_PHY_READY stack) = 0 ∨ s.get (R.HBM_PROT_READY stack) = 0 ∨ s.get (R.HBM_WORK_READY stack) = 0 then .next s
  else
    let line := s.get (R.HBM_SCRUB_LINE stack)
    let a := stackAddr stack line
    let unit := 256 + (s.holder a).channel
    let frozen := s.channelFrozen (s.holder a).channel
    if !frozen ∧ s.grantOf unit ≠ some 7 then .next s
    else
    let s :=
      if frozen then s
      else
        let p := s.useCheck .read a .scrubber
        let s := (p.2.spend unit).crossHbm a
        let r := s.checkLine a bank row found (if hbmProtected a then 0 else twins)
        if !p.1 then s else if r.2 then r.1.poisonLine (a / 64) else r.1
    if stackLines ≤ line + 1 then
      .next (((s.set (R.HBM_SCRUB_LINE stack) 0).count (R.HBM_SCRUB_PASS stack)).raise (pgHBM stack) 3)
    else .next (s.set (R.HBM_SCRUB_LINE stack) (line + 1))

/-- HBM_TEMP_HIGH (R245): a stack's temperature is measured; INT_RAW bit 7 as it rises above 85 °C. -/
def execHbmTempHigh (stack : Fin 2) (temp : BitVec 8) (s : State) : Result :=
  let was := s.get (R.HBM_TEMP stack)
  let s := s.set (R.HBM_TEMP stack) temp.toNat
  .next (if was ≤ 85 ∧ 85 < temp.toNat then s.raise (pgHBM stack) 7 else s)

/-! ## Row repair (R249) -/

/-- Does a repair run in the module? -/
def State.repairing (s : State) : Bool :=
  (List.range 2).any fun k => 1 ≤ s.get (R.HBM_PPR_STATE k) && s.get (R.HBM_PPR_STATE k) ≤ 4

/-- PPR_GO: a repair starts with MIGRATE_OUT; ignored while one runs, or in BOOT, RESPONDED or VIGIL. -/
def execPprGo (stack : Fin 2) (target : BitVec 28) (s : State) : Result :=
  if !s.responds (pgHBM stack) then .next s else
  if s.repairing ∨ s.mode = .boot ∨ s.mode = .responded ∨ ¬ s.ob.onMain then .next s
  else
    let s := (s.set (R.HBM_PPR_TARGET stack) target.toNat).set (R.HBM_PPR_STATE stack) 1
    .next { s with hb.repair := some (32 * stack + target.toNat % 32) }

/-- The channel under repair, where a stack's repair stands in a state. -/
def State.repairAt (s : State) (stack state : Nat) : Option Nat := if s.get (R.HBM_PPR_STATE stack) = state then s.hb.repair else none

/-- MIGRATE_OUT: the copy into the repair reserve ends and accesses are redirected; PROGRAM starts. `poisoned` is a line of the channel whose copy met an
uncorrectable error (R246, R248); its row is free. -/
def execMigrateOut (stack : Fin 2) (poisoned : Option Nat) (s : State) : Result :=
  match s.repairAt stack 1 with
  | none => .next s
  | some c =>
    let s := match poisoned.filter fun l => hbmChannel (64 * l) == c with
      | some l => s.uncorrectableError (64 * l) (Config.hbmBank l).toNat (Config.hbmRow l).toNat
      | none => s
    let s : State := { s with hb.redirect := c :: s.hb.redirect.filter (· ≠ c) }
    .next (s.set (R.HBM_PPR_STATE stack) 2)

/-- A repair fails: accesses stay redirected until a reset, INT_RAW bit 6. -/
def State.pprFail (s : State) (stack : Nat) : State := { (s.set (R.HBM_PPR_STATE stack) 6).raise (pgHBM stack) 6 with hb.repair := none }

/-- PPR_PROGRAM: the repair sequence ends or fails. -/
def execPprProgram (stack : Fin 2) (ok : Bool) (s : State) : Result :=
  if s.get (R.HBM_PPR_STATE stack) ≠ 2 then .next s
  else .next (if ok then s.set (R.HBM_PPR_STATE stack) 3 else s.pprFail stack)

/-- PPR_VERIFY: the pattern test of the repaired row ends. -/
def execPprVerify (stack : Fin 2) (ok : Bool) (s : State) : Result :=
  if s.get (R.HBM_PPR_STATE stack) ≠ 3 then .next s
  else .next (if ok then s.set (R.HBM_PPR_STATE stack) 4 else s.pprFail stack)

/-- MIGRATE_BACK: the copy back ends; accesses return to the pseudo-channel and the repair is DONE, INT_RAW bit 5. -/
def execMigrateBack (stack : Fin 2) (s : State) : Result :=
  match s.repairAt stack 4 with
  | none => .next s
  | some c =>
    let s : State := { s with hb.redirect := s.hb.redirect.filter (· ≠ c), hb.repair := none }
    .next ((s.set (R.HBM_PPR_STATE stack) 5).raise (pgHBM stack) 5)

end Sys2Proof.Machine
end

