-- ==== Sys2Proof/Machine/Arb.lean ====
section
/-! DEFINITION. The credit arbiters: grants, window boundaries, transfers, FREEZE and STARVE at their four placements (R251-R255). -/
namespace Sys2Proof.Machine

/-! ## Placements (Table 9.4) -/

/-- CAPT_PLACE and CAPT_UNIT of a placement; dispatch has none. -/
def Placement.code : Placement → Nat × Nat
  | .fetch p => (1, p)
  | .dispatch => (0, 0)
  | .crossbar n _ => (2, n)
  | .hbm c => (3, c)

/-- The clock of the cipher clusters in MHz (Table 1.4). -/
def State.ccMHz (s : State) : Nat := 400 * (s.get R.PWR_CUR_PL + 1)

/-- The clock of a placement in MHz; its window and waits are in ns at queue fetch and dispatch. -/
def State.arbMHz (s : State) : Placement → Nat
  | .fetch _ | .dispatch => 1000
  | .crossbar _ _ => s.ccMHz
  | .hbm _ => 1600

/-- WIN_LOW, clamped to 256-4,096 cycles. -/
def State.winLow (s : State) : Nat := max 256 (min 4096 (s.get R.ARB_WIN_LOW))

/-- The window of a placement, in its cycles. -/
def State.arbWindow (s : State) : Placement → Nat
  | .fetch _ | .dispatch => 4096
  | .crossbar _ _ | .hbm _ => s.winLow

/-- The weight of a requester. -/
def State.arbWeight (s : State) (p : Placement) (r : Nat) : Nat :=
  match p with
  | .fetch _ | .dispatch => max 1 (s.part r).weight
  | .crossbar n _ => if r < 64 then max 1 (s.part (s.ctx (64 * n + r)).part).xbarWeight else 64
  | .hbm _ => if r < 10 then max 1 (s.get (R.ARB_HBM_WEIGHT r)) else 0

/-- Is an arbiter under FREEZE (Table 9.9)? -/
def State.arbFrozen (s : State) : Placement → Bool
  | .fetch p => s.bit R.ARB_FREEZE_FETCH p
  | .dispatch => false
  | .crossbar n _ => s.bit R.ARB_FREEZE_XBAR n
  | .hbm c => s.channelFrozen c

/-! ## Waits and credits (R251, R254) -/

/-- Every counter set to its requester's weight less any debt (R251). -/
def State.replenish (s : State) (u : Nat) (p : Placement) : State :=
  s.updArb u fun a =>
    { a with credits := (s.requesters p).foldl (fun m r =>
        let c := Sparse.get 0 a.credits r
        Sparse.set 0 m r ((s.arbWeight p r : Int) + min c 0)) [] }

/-- Replenished until a pending requester holds positive credit. -/
def State.replenishFor (s : State) (u : Nat) (p : Placement) : Nat → State
  | 0 => s
  | fuel + 1 =>
    if (s.arb u).waiting.any fun w => 0 < Sparse.get 0 (s.arb u).credits w.req then s
    else (s.replenish u p).replenishFor u p fuel

/-- The winner: of the pending requesters with positive credit the one with the highest, a tie going to the first after the last one
granted, in index order, wrapping. -/
def Arbiter.winner (a : Arbiter) : Option Nat :=
  let start := match a.last with | some l => l + 1 | none => 0
  let rank := fun r => (r + 1024 - start % 1024) % 1024
  a.waiting.foldl (fun best w =>
    let c := Sparse.get 0 a.credits w.req
    if c ≤ 0 then best
    else match best with
      | none => some w.req
      | some b =>
        let d := Sparse.get 0 a.credits b
        if d < c ∨ (c = d ∧ rank w.req < rank b) then some w.req else best) none

/-- A wait in the units of a placement: ns, or cycles of its clock. -/
def State.waited (s : State) (p : Placement) (since : Nat) : Nat := (s.quartz - since) * s.arbMHz p / 1000

/-- ARB_GRANT (R251): an arbiter that is neither frozen nor busy grants the pending requester with the highest positive credit, replenishing at
once when none holds any. `requests` are the crossbar's or channel's requests new since its last event, `beats` the transfer's length (R252). A requester
with more to ask for waits anew from the grant (R254). -/
def execArbGrant (unit : Nat) (requests : List Nat) (beats : Nat) (s : State) : Result :=
  match placement unit with
  | none => .next s
  | some p =>
    let s := s.noteWaits unit p requests
    if s.arbFrozen p ∨ (s.arb unit).owner.isSome ∨ (s.arb unit).waiting.isEmpty then .next s
    else
      let debt := ((s.arb unit).waiting.map fun w => (- Sparse.get 0 (s.arb unit).credits w.req).toNat).foldl max 0
      let s := s.replenishFor unit p (debt + 2)
      match (s.arb unit).winner with
      | none => .next s
      | some r =>
        let cost := match p with
          | .fetch port => match s.nextQp port r with | some q => s.burst r q | none => 1
          | .dispatch => 1
          | .crossbar _ _ | .hbm _ => max 1 (min beats 4)
        let wait := match (s.arb unit).waiting.find? (·.req == r) with | some w => s.waited p w.since | none => 0
        .next ((s.updArb unit fun a =>
          { a with owner := some r, spent := false, burst := cost, last := some r,
                   credits := Sparse.set 0 a.credits r (Sparse.get 0 a.credits r - cost),
                   waiting := a.waiting.filter (·.req ≠ r),
                   waitMax := Sparse.upd 0 a.waitMax r fun m => min (max m wait) 0xFFFFFFFF }).noteWaits unit p [])

/-- The windows of every partition close (R51): the completions of the closed window, and whether it was without a BUSY_RETRY;
Agate samples every backlog (R434). -/
def State.closeWindows (s : State) : State :=
  let s := s.parts.foldl (fun s e => s.sample 1 e.1 (depthBin (s.backlog e.1)) (s.backlog e.1)) s
  { s with parts := Sparse.mapVals {} (fun _ x =>
      { x with lastWinDone := x.winDone, winDone := 0, quietWin := !x.busyInWin, busyInWin := false }) s.parts }

/-- ARB_WINDOW_BOUNDARY (R251): the fixed period of an arbiter ends, and every counter is replenished. The boundary of the P0 queue-fetch
arbiter closes the partitions' fetch windows (R51). -/
def execArbWindowBoundary (unit : Nat) (s : State) : Result :=
  match placement unit with
  | none => .next s
  | some p =>
    let due := (s.arb unit).nextWin
    if s.quartz < due then .next s
    else
      let period := max 1 (s.arbWindow p * 1000 / s.arbMHz p)
      let s := (s.noteWaits unit p []).replenish unit p
      let s := s.updArb unit fun a => { a with nextWin := due + period * ((s.quartz - due) / period + 1) }
      .next (if unit = 0 then s.closeWindows else s)

/-- The units frozen together: one queue-fetch arbiter, the nine crossbars of a cluster, one channel. -/
def freezeGroup : Placement → List Nat
  | .fetch p => [p]
  | .dispatch => []
  | .crossbar n _ => (List.range 9).map (16 + 9 * n + ·)
  | .hbm c => [256 + c]

/-- DRAINED of an arbiter's FREEZE bit: frozen, and no granted transfer remains (R253). -/
def State.arbDrained (s : State) (p : Placement) : Bool :=
  s.arbFrozen p && (freezeGroup p).all fun u => (s.arb u).owner.isNone

/-- Is a grant of queue fetch or dispatch still to be used: its requester has what it was granted for? -/
def State.grantStands (s : State) (u : Nat) (p : Placement) : Bool := (s.grantOf u).any (s.shown p).contains

/-- ARB_TRANSFER_END (R252, R253): the granted transfer ends; the last one of a frozen arbiter drains it, INT_RAW bit 3. A grant that has not been used is not
withdrawn. -/
def execArbTransferEnd (unit : Nat) (s : State) : Result :=
  match placement unit with
  | none => .next s
  | some p =>
    if (s.arb unit).owner.isNone ∨ s.grantStands unit p then .next s
    else
      let s := (s.updArb unit fun a => { a with owner := none, spent := false }).noteWaits unit p []
      .next (if s.arbDrained p then s.raise pgARB 3 else s)

/-- The placements a FREEZE register word covers: queue fetch and crossbars, then the channels of a stack. -/
def freezePlaces (reg : Nat) : List Placement :=
  if reg = 0 then [.fetch 0, .fetch 1] ++ (List.range 16).map (.crossbar · 0)
  else if reg = 1 then (List.range 32).map .hbm else (List.range 32).map fun c => .hbm (32 + c)

/-- A FREEZE register word written; arbiters that find no transfer are drained at once, and what waited at crossbars that are not frozen goes on. -/
def State.freezeArbs (s : State) (reg value : Nat) : State :=
  let was := (freezePlaces reg).filter s.arbDrained
  let s :=
    if reg = 0 then (s.set R.ARB_FREEZE_FETCH value).set R.ARB_FREEZE_XBAR (value / 65536)
    else s.set (if reg = 1 then R.ARB_FREEZE_HBM0 else R.ARB_FREEZE_HBM1) value
  let s := if reg = 0 then (List.range 16).foldl (fun s n => if s.xbarHeld n then s else s.pumpAll n) s else s
  if (freezePlaces reg).any fun p => s.arbDrained p && !was.contains p then s.raise pgARB 3 else s

/-- ARB_FREEZE (R253): FREEZE bits written: register 0 is 0x200, 1 and 2 the two stacks' registers. -/
def execArbFreeze (reg : Fin 3) (value : Word) (s : State) : Result :=
  if !s.responds pgARB then .next s else
  .next (s.freezeArbs reg value.toNat)

/-- STARVE (R254): a requester's wait has passed its placement's threshold: INT_RAW bit, capture unless one stands, count. Not under FREEZE,
and never at dispatch. -/
def execStarve (unit requester : Nat) (s : State) : Result :=
  match placement unit with
  | none => .next s
  | some .dispatch => .next s
  | some p =>
    let s := s.noteWaits unit p []
    let limit := match p with | .fetch _ => s.get R.ARB_STARVE_FETCH | _ => s.get R.ARB_STARVE_LOW
    match (s.arb unit).waiting.find? (·.req == requester) with
    | none => .next s
    | some w =>
      let wait := s.waited p w.since
      if s.arbFrozen p ∨ w.starved ∨ wait ≤ limit then .next s
      else
        let s := s.updArb unit fun a =>
          { a with waiting := a.waiting.map fun v => if v.req = requester then { v with starved := true } else v,
                   waitMax := Sparse.upd 0 a.waitMax requester fun m => min (max m wait) 0xFFFFFFFF }
        let s := ((s.raise pgARB (p.code.1 - 1)).countSat R.ARB_STARVE_CNT).severity 1
        if s.get R.ARB_CAPT_PLACE = 0 then
          .next (((s.set R.ARB_CAPT_PLACE p.code.1).set R.ARB_CAPT_UNIT p.code.2).set R.ARB_CAPT_REQ requester)
        else .next s

end Sys2Proof.Machine
end

