-- ==== Sys2Proof/Machine/HbmLines.lean ====
section
/-! DEFINITION. What the lines of HBM hold, region by region: key table lines, program images, table entries, partition entries and plain bytes (Tables 3.8, 9.1, 10.2); each line as it stands in its stack, encrypted, with its MAC in the carve-out; and reads (R82, R241-R246, R263). -/
namespace Sys2Proof.Machine

/-! ## Partition table entries (Table 10.2) -/

/-- The wrap of a root: AES-256-CTR under one key derived from the MMK and RWGEN and a CMAC of that under the other (R283); zeros where there is none. The
derivation and the counter block are free: log 193. -/
def State.rootWrap (s : State) (p which : Nat) (r : Root) : List Byte :=
  match s.ob.mmk, r.key with
  | some mmk, some k =>
    let ct := ctrMode (Config.wrapKey mmk s.ob.rwgen 0) (Config.wrapCounter p which r.gen) 4 k
    ct ++ cmac 0 (Config.wrapKey mmk s.ob.rwgen 1) ct
  | _, _ => zeros 48

/-- VFMAP of a VF index: VF number, port, valid. -/
def vfMap : Option Func → Nat
  | some (.vf port n) => n.val + 2 ^ 9 * port.val + 2 ^ 15
  | some (.pf _) | none => 0

/-- The 2,048 bytes of a partition's entry (Table 10.2). -/
def State.partBytes (s : State) (p : Nat) : List Byte :=
  let x := s.part p
  leBytes 2 p ++ leBytes 1 (b2n x.created + 2 * b2n x.retry + 4 * b2n x.domain) ++ leBytes 1 x.xbarWeight ++
  leBytes 2 x.weight ++ leBytes 2 x.ephQuota ++ leBytes 4 x.quota ++ leBytes 4 x.quotaPart ++ leBytes 4 x.quotaDom ++ leBytes 4 x.quotaMod ++
  leBytes 2 x.cres ++ leBytes 2 x.wbase ++ leBytes 2 x.wsize ++ leBytes 1 (b2n x.prevOk) ++ [0] ++ leBytes 4 x.tepoch ++
  ((List.range 8).flatMap fun i => leBytes 2 (vfMap (x.vfs.getD i none))) ++
  leBytes 3 x.proot.gen ++ [0] ++ leBytes 3 x.droot.gen ++ [0] ++ leBytes 3 x.mroot.gen ++ [0] ++
  s.rootWrap p 0 x.proot ++ s.rootWrap p 1 x.droot ++ s.rootWrap p 2 x.mroot ++ zeros 48 ++
  leBytes 512 x.pen ++ ((List.range 16).flatMap fun i => officerBytes (x.officers.getD i {})) ++ zeros 256

/-! ## Lines of the protected regions (R82, R241, R242) -/

/-- The 128 bytes at a place of the key tables: a base line's record or tombstone, an extension line's part of its record, zeros in a virgin line. -/
def State.tableBytes (s : State) (place : Nat) : List Byte :=
  match s.tableLine place with
  | none => zeros 128
  | some k =>
    let base := (s.line k).extOf.getD k
    fitBytes 128 ((s.lineBytes base (s.line base)).drop (128 * (k - base)))

/-- The bytes of a program slot: an integrator's image; a shipped one's are free. -/
def State.slotBytes (s : State) (slot : Nat) : List Byte := if slot < 1024 then Config.shippedImage slot else (Sparse.get {} s.sq.progs slot).bytes

/-- A byte string of the region of the format, derivation and curve tables: each entry at its place; a shipped entry's bytes are free. -/
def State.tableEntryLine (s : State) (a : Nat) : List Byte :=
  let part := fun (base size table shipped : Nat) (tab : Sparse (List Byte)) =>
    let i := (a - base) / size
    fitBytes 64 ((if i < shipped then Config.shippedEntry table i else Sparse.get [] tab i).drop ((a - base) % size))
  if a < derivationPlace 0 then part tableBase 64 0 32 s.sq.fmtTab
  else if a < curvePlace 0 then part (derivationPlace 0) 128 1 64 s.sq.derTab
  else if a < curvePlace 64 then part (curvePlace 0) 512 2 16 s.pk.curves
  else zeros 64

/-- The bytes of a line outside the carve-out, decrypted: of the key tables, of a program slot at its stride of 4 KiB, of the other tables, of a partition table
entry at 2 KiB (Table 9.1), of the firmware's area and of the work region. -/
def State.clearLine (s : State) (l : Nat) : List Byte :=
  let a := 64 * l
  match hbmRegion a with
  | .keyTables => slice (64 * (l % 2)) 64 (s.tableBytes (l / 2))
  | .programs => fitBytes 64 ((s.slotBytes ((a - programBase) / 4096)).drop (a % 4096))
  | .tables => s.tableEntryLine a
  | .partitions => slice (a % 2048) 64 (s.partBytes ((a - 0x801100000) / 2048))
  | .firmware | .work => s.readMem a 64
  | .carveOut => zeros 64

/-- A line outside the carve-out as the controller that serves its address holds it. -/
def State.cipherLine (s : State) (l : Nat) : List Byte := s.lineCipher (s.holder (64 * l)).stack l (s.clearLine l)

/-- A line of the address space as it is written: a line of the carve-out is the MACs of eight protected lines (R242). -/
def State.plainLine (s : State) (l : Nat) : List Byte :=
  if hbmRegion (64 * l) = .carveOut then
    (List.range 8).flatMap fun j =>
      let k := 8 * (l - 0x802000000 / 64) + j
      s.lineMac k (s.cipherLine k)
  else s.clearLine l

/-- A line in each place where it stands (R239, R241, R249): the place, and what its controller wrote there. -/
def State.storedLine (s : State) (l : Nat) : List (Place × List Byte) :=
  (s.places (64 * l)).map fun x => (x, s.lineCipher x.stack l (s.plainLine l))

/-- A protected line's MAC in the carve-out (R242). -/
def State.storedMac (s : State) (l : Nat) : Option (List Byte) := if hbmProtected (64 * l) then some (s.lineMac l (s.cipherLine l)) else none

/-! ## Reads (R241-R246) -/

/-- A line of the address space as a read of it returns it: what the serving place holds, decrypted by its controller. -/
def State.readLine (s : State) (l : Nat) : List Byte :=
  let k := (s.holder (64 * l)).stack
  s.linePlain k l (s.lineCipher k l (s.plainLine l))

/-- The MAC cache of the controller that reads a protected line: a hit where it holds the line's carve-out line, else the line is taken in its stead of
entry `victim` where all 1,024 are taken (R242). Which entry goes is the command's: the spec names no policy. -/
def State.macLookup (s : State) (a victim : Nat) : State :=
  let k := (s.holder a).stack
  let m := macAddr (a / 64) / 64
  let c := Sparse.get [] s.hb.macs k
  if c.contains m then s.count (R.HBM_MACC_HIT k)
  else
    let kept := if c.length < 1024 then c else c.eraseIdx (victim % 1024)
    { s.count (R.HBM_MACC_MISS k) with hb.macs := Sparse.set [] s.hb.macs k (kept ++ [m]) }

/-- What a read returns to its requester: a line, or nothing for an integrity error. -/
def State.answered (s : State) (bs : Option (List Byte)) : State := { s with hb.answer := bs }

/-- HBM_READ_COMPLETE (R241-R246): a read of the line at address `a` ends, and its requester has the line. An access to a region that is not ready or to a
frozen channel waits; one to a protected region from another requester, or one an MPU denies, reads zero; an integrity error returns no data. -/
def execHbmReadComplete (a : Fin 0xBA0000000) (use : HbmUse) (bank row : Nat) (found : LineCheck) (twins victim : Nat) (s : State) : Result :=
  if s.hbmWaits a then .next s
  else if hbmProtected a ∧ !(mayProtected use) then .next (s.answered (some (zeros 64)))
  else
    let p := s.useCheck .read a use
    if !p.1 then .next (p.2.answered (some (zeros 64)))
    else
      let s := s.crossHbm a
      let s := if hbmProtected a then s.macLookup a victim else s
      let r := s.checkLine a bank row found twins
      if r.2 then (r.1.answered none).integrityError a use else .next (r.1.answered (some (r.1.readLine (a / 64))))

end Sys2Proof.Machine
end

