-- ==== Sys2Proof/Machine/Regs.lean ====
section
/-! DEFINITION. Register writes by access code, forced interrupts and latching reads (R8, R9, R27, R33, R35, R58, R60, R61, R409, R462). -/
namespace Sys2Proof.Machine

/-! ## Fields by access code (Table 0.5) -/

/-- A field written, by its access code; `locked` is its block's LOCK. -/
def State.writeField (s : State) (locked : Bool) (f : Field) (v : Nat) : State :=
  let x := bitsOf v f.lsb f.width
  match f.access with
  | .rw => s.set f x
  | .w1c => s.set f (s.get f &&& compl f.width x)
  | .w1s => s.set f (s.get f ||| x)
  | .rwl => if locked then s else s.set f x
  | .ro | .wo | .rwg => s

/-- LOCK of a page's RWL fields. -/
def State.pageLocked (s : State) (p : Nat) : Bool :=
  (p == pgHQE && s.get R.HQE_LOCK == 1) || (p == pgPWR && s.get R.PWR_LOCK == 1) || (p == pgRST && s.get R.RST_LOCK == 1) ||
  (p == pgSD && s.get R.SD_LOCK == 1)

/-- Is the field written by a command of its own: the compare-unit and pin claims, the power cap, its failure, the clusters' power, HOLD, the arbiters'
FREEZE bits and the program pins? -/
def ownCommand (f : Field) : Bool :=
  (0x2110 ≤ f.addr && f.addr < 0x2150) || (0x4100 ≤ f.addr && f.addr < 0x4134) || (0xA1220 ≤ f.addr && f.addr < 0xA1240) ||
  f == R.PWR_PL_CAP || f == R.PWR_PL_FAIL || f == R.PWR_CC_OFF || f == R.PWR_PK_OFF || f == R.SCHED_HOLD ||
  f == R.ARB_FREEZE_FETCH || f == R.ARB_FREEZE_XBAR || f == R.ARB_FREEZE_HBM0 || f == R.ARB_FREEZE_HBM1

/-- The compare unit a CMP or PERIOD register belongs to. -/
def compareUnit (addr : Nat) : Option Nat :=
  if 0x2200 ≤ addr ∧ addr < 0x2300 ∧ addr % 16 < 12 then some ((addr - 0x2200) / 16) else none

/-- Are a unit's CMP and PERIOD read-only: held by one of features 0-7 (R412)? -/
def State.unitOwned (s : State) (u : Nat) : Bool := s.get (R.QTZ_HELD u) == 1 && s.get (R.QTZ_OWNER u) < 8

/-! ## Common registers (Table 21.1) -/

/-- The pages of MPUs 14 and 15, which read as their reset values whatever is written (R281). -/
def noMpu (p : Nat) : Bool := p == 0x5E || p == 0x5F

/-- INT_EN of a page: what newly pends is signalled (R464). -/
def State.writeIntEn (s : State) (p v : Nat) : State :=
  if noMpu p then s else
  let was := s.get (R.BLK_INT_EN p)
  let s := s.set (R.BLK_INT_EN p) v
  if (List.range 32).any fun i => s.bit (R.BLK_INT_RAW p) i && bitOf v i && !bitOf was i then
    (s.msixSend (.pf 0) (1088 + p)).msixSend (.pf 1) (1088 + p)
  else s

/-- INT_RAW of a page: ones clear; at the arbiters' page bits 0-2 clear STARVE_CAPT with them (R258). -/
def State.writeIntRaw (s : State) (p v : Nat) : State :=
  let s := s.writeField false (R.BLK_INT_RAW p) v
  if p = pgARB ∧ v % 8 ≠ 0 then ((s.set R.ARB_CAPT_PLACE 0).set R.ARB_CAPT_UNIT 0).set R.ARB_CAPT_REQ 0 else s

/-- ENABLE of a page: defined for the links (R379), where 0 takes the link down, and for Agate (R438), which samples while it is 1. -/
def State.writeEnable (s : State) (p v : Nat) : State :=
  let on : Bool := bitOf v 0
  if 0x71 ≤ p ∧ p ≤ 0x78 then
    let s := s.set (R.BLK_ENABLE p) (b2n on)
    if on then s else s.linkDown (p - 0x71) 5
  else if p = pgAGT then
    if s.get (R.BLK_ENABLE p) = b2n on then s
    else { s.accrueLevel.set (R.BLK_ENABLE p) (b2n on) with ag.residency := s.quartz }
  else s

/-- FREEZE of a page, where no command of its own writes it: an HBM page's sets or clears the FREEZE bits of its stack (R256). -/
def State.writeFreeze (s : State) (p v : Nat) : State :=
  if p = 0x41 ∨ p = 0x42 then
    (s.set (R.BLK_FREEZE p) (b2n (bitOf v 2))).freezeArbs (p - 0x40) (if bitOf v 2 then 0xFFFFFFFF else 0)
  else s

/-- A common register written. -/
def State.writeCommon (s : State) (p off v : Nat) : State :=
  match off with
  | 0x008 => (s.writeEnable p v).writeFreeze p v
  | 0x010 => s.writeIntRaw p v
  | 0x014 => s.writeIntEn p v
  | _ => s

/-! ## Queue-pair configuration (R35) -/

/-- Word `i` of a queue pair's configuration written, for partition 0 or a tenant; ENABLE has commands of its own. -/
def QueuePair.writeWord (x : QueuePair) (tenant : Bool) (i v : Nat) : QueuePair :=
  match i with
  | 0 => { x with sqBase := x.sqBase / 2 ^ 32 * 2 ^ 32 + bitsOf v 12 20 * 4096 }
  | 1 => { x with sqBase := v * 2 ^ 32 + x.sqBase % 2 ^ 32 }
  | 2 => { x with cqBase := x.cqBase / 2 ^ 32 * 2 ^ 32 + bitsOf v 12 20 * 4096 }
  | 3 => { x with cqBase := v * 2 ^ 32 + x.cqBase % 2 ^ 32 }
  | 4 => { x with sqSize := bitsOf v 0 16, cqSize := bitsOf v 16 16 }
  | 5 => { x with compat := bitOf v 1, intEn := bitOf v 2, vfSel := bitsOf v 3 (if tenant then 3 else 1),
                  vector := bitsOf v 16 (if tenant then 2 else 11) }
  | 6 => { x with coalCnt := bitsOf v 0 8, coalTime := bitsOf v 8 16 }
  | _ => x

/-- A configuration word of a queue pair written: ignored while ENABLE is 1. -/
def State.writeQp (s : State) (p q i v : Nat) : State :=
  if (s.qp p q).qstate.enabled then s else s.updQp p q fun x => x.writeWord (p != 0) i v

/-! ## Partition registers (Table 2.13) and MSI-X -/

/-- A partition register written, by its offset from 0x400; partition 0 has the abort registers alone, in the HQE page. -/
def Part.writeWord (x : Part) (off v : Nat) : Part :=
  match off with
  | 0x0C => { x with pevt := x.pevt &&& compl 4 v }
  | 0x10 => { x with pevtEn := bitsOf v 0 4 }
  | 0x14 => { x with pevtVec := bitsOf v 0 2 }
  | 0x20 => { x with abortTag := v }
  | 0x24 => { x with abortQueue := bitsOf v 0 6 }
  | _ => x

/-- The number of MSI-X vectors of a function (R58). -/
def vectorsOf : Func → Nat
  | .pf _ => 2048
  | .vf _ _ => 4

/-- A word of a function's MSI-X table written; a pending vector is sent as its mask is cleared (R58). -/
def State.writeMsix (s : State) (f : Func) (word v : Nat) : State :=
  let fn := funcCode f
  let vec := word / 4
  if vectorsOf f ≤ vec then s
  else
    let k := word % 4
    let x := if k = 3 then v % 2 else if k = 0 then v / 4 * 4 else v
    let s : State := { s with hq.msix := Sparse.set (if k = 3 then 1 else 0) s.hq.msix (msixKey fn vec k) x }
    if s.hq.msixPend.contains (fn, vec) && !s.msixMasked fn vec then
      { s with hq.msixPend := s.hq.msixPend.filter (· ≠ (fn, vec)) }.emit (.msix f vec)
    else s

/-! ## The spaces -/

/-- A block-specific register of a PF's page written. -/
def State.writeBlock (s : State) (addr v : Nat) : State :=
  let p := addr / 0x1000
  if addr = 0x3108 then { s with bt.cause := s.bt.cause &&& compl 4 v }
  else if addr = 0xA0220 ∨ addr = 0xA0224 then s.updPart 0 fun x => x.writeWord (addr - 0xA0200) v
  else if 0xA0320 ≤ addr ∧ addr < 0xA0340 then s.writeQp 0 (s.get R.HQE_QSEL) ((addr - 0xA0320) / 4) v
  else if 0x62120 ≤ addr ∧ addr < 0x62140 then s.set (R.LCS_TOKEN ((addr - 0x62120) / 4)) v
  else
    match compareUnit addr, Page.ofAddr addr with
    | _, none => s
    | u, some pg =>
      let fields := pg.fields.filter fun f => f.addr == addr && !ownCommand f
      match u with
      | some u =>
        if s.unitOwned u then s
        else
          let s := fields.foldl (fun s f => s.writeField false f v) s
          if addr % 16 < 8 ∧ ¬ s.qz.armed.contains u then { s with qz.armed := s.qz.armed ++ [u] } else s
      | none => fields.foldl (fun s f => s.writeField (s.pageLocked p) f v) s

/-- A write through a PF: ignored outside the pages, in a page that does not respond, and in the shadow half (R9, R27, R384, R463). -/
def State.writePf (s : State) (addr v : Nat) : State :=
  let p := addr / 0x1000
  let off := addr % 0x1000
  if !s.responds p then s
  else if off < 0x100 then s.writeCommon p off v
  else if off < 0x800 then s.writeBlock addr v
  else s

/-- A write through a VF of partition `p`: its partition registers, the queue pairs' configuration and its MSI-X table (Table 2.2). -/
def State.writeVf (s : State) (f : Func) (p addr v : Nat) : State :=
  if 0x400 ≤ addr ∧ addr < 0x500 then s.updPart p fun x => x.writeWord (addr - 0x400) v
  else if 0x1000 ≤ addr ∧ addr < 0x1800 then s.writeQp p ((addr - 0x1000) / 32) (addr % 32 / 4) v
  else if 0x2000 ≤ addr ∧ addr < 0x2040 then s.writeMsix f ((addr - 0x2000) / 4) v
  else s

/-! ## Configuration space (R5, R29, Table 0.4) -/

/-- Does configuration space answer? The always-on pages respond from the same moment (R384); until then the port returns Configuration Request
Retry Status (Table 2.1). -/
def State.configAnswers (s : State) : Bool := !s.inReset && s.bit R.RST_BLK_READY 0

/-- The pending vectors of a function that are no longer masked are sent. -/
def State.releasePending (s : State) (f : Func) : State :=
  let fn := funcCode f
  let go := s.hq.msixPend.filter fun e => e.1 == fn && !s.msixMasked fn e.2
  go.foldl (fun s e => s.emit (.msix f e.2)) { s with hq.msixPend := s.hq.msixPend.filter fun e => !go.contains e }

/-- A register of a function's configuration space written. The places of its bits are those of PCI Express (PRESUMED): MSI-X enable 15 and function
mask 14, VF Enable 0, Max_Payload_Size [7:5] and Max_Read_Request_Size [14:12]; the AER status is cleared by ones. -/
def State.writeConfig (s : State) (f : Func) (r : ConfigReg) (v : Nat) : State :=
  let fn := funcCode f
  match r, f with
  | .msixControl, _ => { s with hq.msixCtl := Sparse.set 0 s.hq.msixCtl fn (bitsOf v 14 2 * 2 ^ 14) }.releasePending f
  | .sriovControl, .pf port =>
    if bitOf v 0 then (if s.hq.vfOn.contains port then s else { s with hq.vfOn := s.hq.vfOn ++ [port] }) else s.clearVfEnable port
  | .sriovControl, .vf _ _ => s
  | .deviceControl, _ => { s with hq.devCtl := Sparse.set 0x2010 s.hq.devCtl fn (v % 2 ^ 16) }
  | .aerStatus, _ => { s with hq.aer := Sparse.set 0 s.hq.aer fn (Sparse.get 0 s.hq.aer fn &&& compl 32 v) }

/-- REGISTER_WRITE (R8, R9): a 32-bit write at word `word` of a function's BAR0, or of its MSI-X table, or of a register of its configuration space. Fields
that have a command of their own, doorbells and guarded fields keep what they hold: their own commands write them. A write into an island that
relocks waits (R19). -/
def execRegisterWrite (fn : Func) (space : RegSpace) (word : Fin 0x1000000) (value : Word) (s : State) : Result :=
  match fn, space with
  | .pf _, .bar0 =>
    if s.responds (4 * word / 0x1000) then
      s.crossing (4 * word / 0x1000) (.registerWrite fn space word value) fun s => s.writePf (4 * word) value.toNat
    else .next s
  | .pf _, .msixTable => if s.responds pgHQE then .next (s.writeMsix fn word value.toNat) else .next s
  | .pf _, .config r => if s.configAnswers then .next (s.writeConfig fn r value.toNat) else .next s
  | .vf _ _, space =>
    match space with
    | .config r => if s.configAnswers && s.enabledFunc fn then .next (s.writeConfig fn r value.toNat) else .next s
    | .bar0 =>
      match s.partOf fn with
      | none => .next s
      | some p => if s.responds pgHQE then .next (s.writeVf fn p (4 * word) value.toNat) else .next s
    | .msixTable =>
      match s.partOf fn with
      | none => .next s
      | some _ => if s.responds pgHQE then .next (s.writeMsix fn word value.toNat) else .next s

/-! ## INT_FORCE (R462) -/

/-- The bits of a page's INT_RAW that its chapter defines. -/
def Page.intBits (p : Page) : Nat :=
  match p.kind with
  | .gbl => 0
  | .pwr => 0x3F
  | .qtz => 0x3
  | .rst => 0xF
  | .pad => 0x1
  | .cc => if p.inst = 0 then 0x3F else 0x1F
  | .pk => if p.inst = 0 then 0x7F else 0x5F
  | .geo => 0x3F
  | .kcs => 0x7
  | .hbm => 0xFF
  | .arb => 0xF
  | .mpu => if 14 ≤ p.inst then 0 else 0x1F
  | .flt => 0x7F
  | .obs => 0x7F
  | .lcs => 0x3F
  | .gate => 0x1FF
  | .pair => 0x7F
  | .fvl => if p.inst = 0 then 0xFF1F else 0x1F
  | .sched => 0x1F
  | .agt => 0x3F
  | .card => 0xF
  | .sd => 0x7F
  | .hqe => 0x1F
  | .seq => if p.inst = 0 then 0x1F else 0xB

/-- INT_FORCE: a 1 sets the same bit of INT_RAW; reserved bits ignore it, and so does a VF's write, which reaches no page. -/
def execIntForce (fn : Func) (page : Fin 0x4000) (value : Word) (s : State) : Result :=
  match fn, Page.ofAddr (0x1000 * page) with
  | .pf _, some pg =>
    if s.responds page then
      s.crossing page (.intForce fn page value) fun s =>
        (List.range 32).foldl (fun s i => if bitOf value.toNat i && bitOf pg.intBits i then s.raise page i else s) s
    else .next s
  | _, _ => .next s

/-! ## Latching reads (R409) -/

/-- LATCHING_READ: the low half is returned, and the high half latched at the same instant; a page that does not respond reads 0 and latches nothing. -/
def execLatchingRead (fn : Func) (r : LatchReg) (s : State) : Result :=
  match fn with
  | .vf _ _ => .next s
  | .pf _ =>
    let (addr, v) := match r with
      | .nowLo => (0x2100, s.quartz)
      | .dtLo => (0x71208, s.domainTime)
      | .jcountLo => (0x91114, s.journalCount)
    if !s.responds (addr / 0x1000) then .next (s.emit (.latched addr 0))
    else
      let s := s.emit (.latched addr (v % 2 ^ 32))
      let hi := v / 2 ^ 32 % 2 ^ 32
      .next (match r with
        | .nowLo => { s with qz.nowHi := hi }
        | .dtLo => { s with qz.dtHi := hi }
        | .jcountLo => { s with qz.jcountHi := hi })

end Sys2Proof.Machine
end

