-- ==== Sys2Proof/Machine/Read.lean ====
section
/-! DEFINITION. What a read of a register returns: stored fields, fields computed from the state, the common registers, the shadow half, and a VF's BAR0 (R8, R9, R27, R33, R384, R462, R463). No command reads a register, but for the latching reads: a read leaves the state as it stands. -/
namespace Sys2Proof.Machine

/-- A field that a page computes: its offset, its lowest bit, its width, its value, and whether it is guarded (RWG). -/
structure View where
  off : Nat
  lsb : Nat
  width : Nat
  value : Nat
  guarded : Bool := false
deriving DecidableEq, Repr

/-- The bits that hold of 0 to `n` - 1. -/
def maskOf (n : Nat) (f : Nat → Bool) : Nat := ((List.range n).map fun i => if f i then 2 ^ i else 0).sum

/-- A word of 32 bits of a byte string. -/
def wordAt (bs : List Byte) (w : Nat) : Nat := leNat (slice (4 * w) 4 bs)

/-- A number cut to `w` bits from above. -/
def satTo (w v : Nat) : Nat := min v (2 ^ w - 1)

/-- Whole seconds from now to `due`, a part of one counting as one. -/
def State.secondsTo (s : State) (due : Nat) : Nat := (due - s.quartz + 999999999) / 1000000000

/-! ## Queue pairs and partition registers (Tables 2.3, 2.12, 2.13) -/

/-- A configuration word of a queue pair (Table 2.3). -/
def QueuePair.readWord (x : QueuePair) (i : Nat) : Nat :=
  match i with
  | 0 => x.sqBase % 2 ^ 32
  | 1 => x.sqBase / 2 ^ 32
  | 2 => x.cqBase % 2 ^ 32
  | 3 => x.cqBase / 2 ^ 32
  | 4 => x.sqSize + 2 ^ 16 * x.cqSize
  | 5 => b2n x.qstate.enabled + 2 * b2n x.compat + 4 * b2n x.intEn + 8 * x.vfSel + 2 ^ 16 * x.vector
  | 6 => x.coalCnt + 2 ^ 8 * x.coalTime
  | 7 => x.qstate.code + (if x.qstate = .halted then 2 ^ 4 * x.qerr else 0) + 2 ^ 16 * x.sqHead
  | _ => 0

/-- ABORT_STATUS of a partition. -/
def Part.abortStatus (x : Part) : Nat := (if x.abortBusy then 0 else x.abortResult) + 2 ^ 8 * satTo 8 x.abortCount

/-- The queue pairs of a partition in HALTED or LINK_LOST, 32 from `base`. -/
def State.qhalt (s : State) (p base : Nat) : Nat :=
  maskOf 32 fun i => (s.qp p (base + i)).qstate == .halted || (s.qp p (base + i)).qstate == .linkLost

/-- A partition register, as VF `ix` of partition `p` reads it (Table 2.13). -/
def State.readPart (s : State) (p ix off : Nat) : Nat :=
  let x := s.part p
  match off with
  | 0x400 => x.pstate.code + 2 ^ 4 * s.mode.code + 2 ^ 16 * p + 2 ^ 28 * ix
  | 0x404 => s.backlog p
  | 0x408 => x.quota + 2 ^ 17 * b2n x.retry
  | 0x40C => x.pevt
  | 0x410 => x.pevtEn
  | 0x414 => x.pevtVec
  | 0x418 => s.qhalt p 0
  | 0x41C => s.qhalt p 32
  | 0x420 => x.abortTag
  | 0x424 => x.abortQueue
  | 0x428 => x.abortStatus
  | _ => 0

/-- The CQ head doorbell as it reads: the last value accepted, one recorded and not served among them (R38). -/
def QueuePair.readCqHead (x : QueuePair) : Nat := x.cqDoor.getD x.cqHead

/-- HQE (Table 2.12). -/
def State.viewHqe (s : State) : List View :=
  let p := s.get R.HQE_PSEL
  let x := s.part p
  let z := s.part 0
  [⟨0x104, 0, 16, x.weight, true⟩, ⟨0x104, 16, 1, b2n x.retry, true⟩, ⟨0x108, 0, 17, x.quota, true⟩, ⟨0x10C, 0, 17, s.backlog p, false⟩,
   ⟨0x110, 0, 32, x.busyCnt, false⟩, ⟨0x114, 0, 32, x.fetchCnt, false⟩, ⟨0x200, 0, 17, s.hq.staged.length, false⟩, ⟨0x220, 0, 32, z.abortTag, false⟩,
   ⟨0x224, 0, 6, z.abortQueue, false⟩, ⟨0x228, 0, 16, z.abortStatus, false⟩] ++
  (List.range 8).map (fun i => ⟨0x320 + 4 * i, 0, 32, (s.qp 0 (s.get R.HQE_QSEL)).readWord i, false⟩) ++
  (List.range 64).map (fun q => ⟨0x400 + 4 * q, 0, 16, (s.qp 0 q).sqTail, false⟩) ++
  (List.range 64).map (fun q => ⟨0x500 + 4 * q, 0, 16, (s.qp 0 q).readCqHead, false⟩)

/-! ## Sequencers (Tables 3.11, 3.12) -/

/-- SEQ, every page (Table 3.11). -/
def State.viewSeq (s : State) (n : Nat) : List View :=
  let used := (s.busyIn n).map fun e => e.1 % 64
  [⟨0x100, 0, 32, maskOf 32 used.contains, false⟩, ⟨0x104, 0, 32, maskOf 32 fun i => used.contains (32 + i), false⟩, ⟨0x108, 0, 7, used.length, false⟩,
   ⟨0x108, 8, 7, ((s.busyIn n).filter fun e => e.2.wait == .pkx).length, false⟩, ⟨0x11C, 0, 9, ((s.residents n).map (·.lines)).sum, false⟩,
   ⟨0x11C, 16, 8, (s.residents n).length, false⟩]

/-- SEQ0 (Table 3.12). -/
def State.viewSeq0 (s : State) : List View :=
  let image := (Sparse.get {} s.sq.progs (s.get R.SEQ0_PGM_SEL)).image
  let i := image.getD {}
  let b := image.isSome
  [⟨0x208, 0, 1, b2n b, false⟩, ⟨0x208, 1, 8, i.lenM1, false⟩, ⟨0x208, 9, 4, i.consts.length, false⟩, ⟨0x208, 13, 1, b2n i.usesPkx, false⟩,
   ⟨0x208, 16, 5, i.modes, false⟩, ⟨0x20C, 0, 16, i.pver, false⟩,
   ⟨0x214, 0, 32, bitsOf (s.part (s.get R.SEQ0_PEN_PART)).pen (32 * s.get R.SEQ0_PEN_WORD) 32, true⟩,
   ⟨0x240, 0, 9, (s.honoured.map s.slotLines).sum, false⟩]

/-! ## Clusters (Tables 5.10, 5.11, 6.13, 6.14) -/

/-- CC, every page (Table 5.10). -/
def State.viewCc (s : State) (n : Nat) : List View :=
  let svc := fun u => s.unitSvc n u
  [⟨0x100, 0, 4, maskOf 4 fun l => (svc l).inService, false⟩,
   ⟨0x100, 8, 4, maskOf 4 fun l => (s.lane n l).exec.isSome || (s.lane n l).wait.isSome, false⟩,
   ⟨0x100, 12, 1, b2n (svc 4).inService, false⟩, ⟨0x100, 13, 1, b2n (svc 5).inService, false⟩, ⟨0x104, 0, 6, maskOf 6 fun u => (svc u).katWanted, false⟩,
   ⟨0x108, 0, 6, maskOf 6 fun u => (svc u).katWanted || (svc u).katBusy, false⟩, ⟨0x108, 8, 6, maskOf 6 fun u => (svc u).katFail, false⟩,
   ⟨0x130, 0, 3, (s.hashUnit n).queue.length, false⟩]

/-- CC0 (Table 5.11). -/
def State.viewCc0 (s : State) : List View :=
  [⟨0x208, 0, 8, satTo 8 s.recentFaults, false⟩]

/-- PK, every page (Table 6.13). -/
def State.viewPk (s : State) (p : Nat) : List View :=
  let svc := fun u => (s.pkUnit p u).svc
  [⟨0x100, 0, 9, maskOf 9 fun u => (svc u).inService, false⟩, ⟨0x104, 0, 8, maskOf 8 fun e => !(s.pkUnit p e).ops.isEmpty, false⟩,
   ⟨0x104, 8, 8, maskOf 8 fun e => match (s.pkUnit p e).ops with | [o] => o.isE1 | _ => false, false⟩,
   ⟨0x104, 16, 7, (s.pkQueue p false).length, false⟩, ⟨0x104, 24, 5, (s.pkUnit p 8).ops.length + (s.pkQueue p true).length, false⟩,
   ⟨0x108, 0, 9, maskOf 9 fun u => (svc u).katWanted, false⟩, ⟨0x10C, 0, 9, maskOf 9 fun u => (svc u).katWanted || (svc u).katBusy, false⟩,
   ⟨0x10C, 16, 9, maskOf 9 fun u => (svc u).katFail, false⟩]

/-- The arithmetic class of a field of this many bits (Table 6.1). -/
def fieldClass (bits : Nat) : Nat := if bits ≤ 256 then 1 else if bits ≤ 512 then 2 else 3

/-- PK0 (Table 6.14): the curve entry that CURVE_SEL shows. -/
def State.viewPk0 (s : State) : List View :=
  let sel := s.get R.PK0_CURVE_SEL
  let e := s.curveEntry sel
  let last : View := ⟨0x204, 16, 4, Sparse.get 0 s.pk.lastCheck sel, false⟩
  match curveOf sel e with
  | none => [last]
  | some c =>
    let name := if sel < 16 then (Config.shippedName sel).toNat else numAt e 8 8
    [last, ⟨0x204, 0, 2, if c.edwards then 2 else 1, false⟩, ⟨0x204, 2, 2, fieldClass c.fieldBits, false⟩, ⟨0x204, 4, 10, c.fieldBits, false⟩,
     ⟨0x204, 20, 4, c.h, false⟩, ⟨0x208, 0, 32, name % 2 ^ 32, false⟩, ⟨0x20C, 0, 32, name / 2 ^ 32, false⟩]

/-! ## Key store, Flint, HBM and arbiters (Tables 7.15, 7.16, 8.4, 9.8, 9.9) -/

/-- GEO (Table 7.15). -/
def State.viewGeo (s : State) : List View :=
  let p := s.get R.GEO_PSEL
  let x := s.part p
  let lines := s.ge.lines.filter fun e => linePart e.1 == p && (e.2.live || e.2.extOf.isSome)
  [⟨0x104, 0, 29, x.quotaPart, true⟩, ⟨0x108, 0, 29, x.quotaDom, true⟩, ⟨0x10C, 0, 29, if p = 0 then x.quotaMod else 0, true⟩,
   ⟨0x110, 0, 15, x.ephQuota, true⟩, ⟨0x114, 0, 12, x.cres, true⟩, ⟨0x118, 0, 29, lines.length, false⟩, ⟨0x11C, 0, 15, s.ephUsed p, false⟩,
   ⟨0x120, 0, 32, x.tepoch, false⟩, ⟨0x124, 0, 1, b2n x.rollBusy, false⟩, ⟨0x124, 1, 1, b2n x.prevOk, false⟩, ⟨0x128, 0, 24, x.proot.gen, false⟩,
   ⟨0x12C, 0, 32, x.loadRefused, false⟩, ⟨0x204, 0, 5, s.ge.fences.length, false⟩,
   ⟨0x224, 0, 29, (s.parts.map fun e => e.2.quotaPart + e.2.quotaDom + e.2.quotaMod).sum, false⟩]

/-- A key-cache slice (Table 7.16): ephemeral keys are pinned by the slots that hold them. -/
def State.viewKcs (s : State) (n : Nat) : List View :=
  let entries := fun (keep : CacheEntry → Bool) => (((s.cacheOf n).filter keep).map (·.entries)).sum
  [⟨0x100, 0, 13, s.entriesUsed n, false⟩, ⟨0x100, 16, 13, entries (s.pinned n) + s.ephIn n, false⟩, ⟨0x104, 0, 13, s.ephIn n, false⟩,
   ⟨0x104, 16, 13, entries (·.fenced) +
     (((s.heldIn n).filter fun y => y.2.line.isNone && y.2.fenced).map fun y => keyEntries y.2.key.material.length).sum, false⟩]

/-- FLT (Table 8.4). -/
def State.viewFlt (s : State) : List View :=
  [⟨0x100, 0, 8, s.cellsOk, false⟩, ⟨0x100, 8, 8, maskOf 8 fun c => (s.cell c).start, false⟩, ⟨0x100, 16, 8, maskOf 8 fun c => (s.cell c).off, false⟩,
   ⟨0x100, 25, 1, b2n (s.get R.FLT_READY == 1 && decide (s.healthy < 8)), false⟩, ⟨0x104, 0, 16, maskOf 16 fun n => (s.drbg n).ready, false⟩,
   ⟨0x104, 16, 16, maskOf 16 fun n => (s.drbg n).katFail, false⟩,
   ⟨0x110, 0, 4, satTo 4 (s.fl.failures.filter fun t => s.quartz ≤ t + 1000000000).length, false⟩] ++
  (List.range 16).flatMap fun n => [⟨0x140 + 4 * n, 0, 13, s.queueFill n / 16, false⟩, ⟨0x140 + 4 * n, 16, 1, b2n (s.drbg n).ready, false⟩]

/-- HBM0 (Table 9.8): the HBM window of the partition in WPSEL. -/
def State.viewHbm0 (s : State) : List View :=
  let x := s.part (s.get R.HBM0_WPSEL)
  [⟨0x204, 0, 14, x.wbase, true⟩, ⟨0x208, 0, 14, x.wsize, true⟩]

/-- The arbiters that WSEL_PLACE and WSEL_UNIT name: a cluster's nine crossbars together. -/
def shownArbs (place unit : Nat) : List Nat :=
  match place with
  | 1 => freezeGroup (.fetch unit)
  | 2 => freezeGroup (.crossbar unit 0)
  | 3 => freezeGroup (.hbm unit)
  | _ => []

/-- ARB (Table 9.9). -/
def State.viewArb (s : State) : List View :=
  let waits := (shownArbs (s.get R.ARB_WSEL_PLACE) (s.get R.ARB_WSEL_UNIT)).map fun u => Sparse.get 0 (s.arb u).waitMax (s.get R.ARB_WSEL_REQ)
  [⟨0x104, 0, 8, (s.part (s.get R.ARB_XPSEL)).xbarWeight, true⟩, ⟨0x210, 0, 2, maskOf 2 fun p => s.arbDrained (.fetch p), false⟩,
   ⟨0x210, 16, 16, maskOf 16 fun n => s.arbDrained (.crossbar n 0), false⟩, ⟨0x214, 0, 32, maskOf 32 fun c => s.arbDrained (.hbm c), false⟩,
   ⟨0x218, 0, 32, maskOf 32 fun c => s.arbDrained (.hbm (32 + c)), false⟩, ⟨0x22C, 0, 32, waits.foldl max 0, false⟩]

/-! ## Gate, Obsidian and life cycle (Tables 10.11, 11.5, 12.7) -/

/-- GATE (Table 10.11). -/
def State.viewGate (s : State) : List View :=
  let open_ := s.get R.GATE_STATE = 2 ∨ s.get R.GATE_STATE = 3
  [⟨0x138, 0, 12, if open_ then s.secondsTo (s.gt.sealedAt + 1000000000 * s.get R.GATE_WINDOW_S) else 0, false⟩,
   ⟨0x154, 0, 2, (s.part (s.get R.GATE_PART_SEL)).pstate.code, false⟩]

/-- The OBS mirror (Table 11.5). -/
def State.viewObs (s : State) : List View :=
  let o := s.ob
  [⟨0x100, 0, 3, o.latch, false⟩, ⟨0x100, 3, 1, b2n o.didT1, false⟩, ⟨0x100, 4, 1, b2n o.didT2, false⟩, ⟨0x100, 5, 1, b2n o.mmk.isSome, false⟩,
   ⟨0x100, 6, 1, b2n (o.backup == 0), false⟩, ⟨0x100, 7, 1, b2n o.cellLow, false⟩, ⟨0x100, 8, 2, o.backup, false⟩, ⟨0x104, 0, 32, o.rwgen, false⟩,
   ⟨0x108, 0, 32, maskOf 32 fun i => (s.monitor i).asserted, false⟩, ⟨0x114, 0, 8, o.tempA, false⟩, ⟨0x114, 8, 8, o.tempB, false⟩,
   ⟨0x118, 0, 32, o.alarms, false⟩, ⟨0x11C, 0, 7, o.log.length, false⟩, ⟨0x11C, 8, 6, o.logNewest, false⟩, ⟨0x11C, 16, 16, satTo 16 o.logDropped, false⟩] ++
  (List.range 4).map (fun w => ⟨0x124 + 4 * w, 0, 32, wordAt (Sparse.get [] o.log (s.get R.OBS_LOG_SEL)) w, false⟩) ++
  (List.range 32).map (fun i => ⟨0x200 + 4 * (i / 8), 4 * (i % 8), 4, s.respClass i, true⟩) ++
  (List.range 32).flatMap fun i =>
    [⟨0x220 + 4 * (i / 4), 8 * (i % 4), 4, s.filtN i - 1, true⟩, ⟨0x220 + 4 * (i / 4), 8 * (i % 4) + 4, 4, s.filtM i - 1, true⟩]

/-- The Spadra 5 view of a life-cycle state (Table 12.2). -/
def lcCompat (st : Nat) : Nat :=
  match st with
  | 1 | 2 | 3 => 1
  | 4 => 2
  | 5 => 3
  | 6 => 4
  | 7 => 5
  | _ => 0

/-- LCS (Table 12.7). -/
def State.viewLcs (s : State) : List View :=
  let w := s.lc.word
  [⟨0x100, 0, 4, s.lcState, false⟩, ⟨0x100, 4, 4, lcDecode w, false⟩, ⟨0x100, 8, 4, lcPending w, false⟩, ⟨0x100, 12, 4, lcCompat s.lcState, false⟩,
   ⟨0x100, 16, 1, b2n Config.analysisEligible, false⟩, ⟨0x104, 0, 16, s.lc.burned, false⟩,
   ⟨0x104, 16, 16, maskOf 16 fun i => (Config.testDigest i).isSome, false⟩, ⟨0x108, 0, 32, w % 2 ^ 32, false⟩, ⟨0x10C, 0, 32, w / 2 ^ 32, false⟩,
   ⟨0x144, 0, 12, if s.lc.nonce = [] then 0 else s.secondsTo s.lc.nonceDue, false⟩]

/-! ## The rest -/

/-- FVL0 (Table 15.6): the partition in EPSEL, and domain time. -/
def State.viewFvl0 (s : State) : List View :=
  let x := s.part (s.get R.FVL0_EPSEL)
  let t := x.epPending.getD (x.epTs, x.epTov)
  let tov := if x.epPending.isNone ∧ x.epTs = 0 then 2000 else t.2 / 1000000
  [⟨0x208, 0, 32, s.domainTime % 2 ^ 32, false⟩, ⟨0x20C, 0, 32, s.qz.dtHi, false⟩, ⟨0x234, 0, 32, x.epoch, false⟩, ⟨0x238, 0, 32, t.1 % 2 ^ 32, false⟩,
   ⟨0x23C, 0, 32, t.1 / 2 ^ 32, false⟩, ⟨0x240, 0, 16, tov, false⟩, ⟨0x240, 16, 1, b2n x.epPending.isSome, false⟩, ⟨0x240, 17, 1, b2n x.overlap, false⟩,
   ⟨0x254, 0, 1, b2n x.fwdEn, true⟩, ⟨0x254, 1, 17, x.fwdThresh, true⟩]

/-- SCHED (Table 17.3). A host's read of NEXT, which a core reads to take work, finds no slot. -/
def State.viewSched (s : State) : List View :=
  let x := s.thread (s.get R.SCHED_INSP_SLOT)
  [⟨0x104, 8, 8, maskOf 8 s.heldIdle, false⟩, ⟨0x10C, 16, 9, s.stranded, false⟩, ⟨0x244, 0, 3, x.st.code, false⟩, ⟨0x244, 3, 5, x.prio, false⟩,
   ⟨0x244, 8, 3, x.core, false⟩, ⟨0x244, 11, 10, x.tag, false⟩, ⟨0x244, 21, 8, x.aff, false⟩] ++
  (List.range 8).flatMap fun c =>
    [⟨0x110 + 4 * c, 0, 10, (s.sc.threads.filter fun e => e.2.st == .ready && e.2.list == c).length, false⟩,
     ⟨0x110 + 4 * c, 10, 11, (Config.coreShare c s.quartz).toNat, false⟩, ⟨0x220 + 4 * c, 31, 1, 1, false⟩]

/-- A signed extreme as a 32-bit word: two's complement, or saturating (Table 19.5). -/
def word32 (v : Int) : Nat := if v < 0 then (v + 2 ^ 32).toNat else satTo 32 v.toNat

/-- AGT (Table 19.5): the ring slot in REC_SEL, the published set of KIND and INDEX. -/
def State.viewAgt (s : State) : List View :=
  let r := Sparse.get [] s.ag.ring (s.get R.AGT_REC_SEL)
  let h := Sparse.get {} s.ag.pub (histKey (s.get R.AGT_KIND) (s.get R.AGT_INDEX))
  [⟨0x118, 16, 16, if s.ag.open_ then satTo 16 ((s.quartz - s.ag.start) / 1000000) else 0, false⟩, ⟨0x280, 0, 32, word32 h.lo, false⟩,
   ⟨0x284, 0, 32, word32 h.hi, false⟩, ⟨0x288, 0, 32, satTo 32 h.count, false⟩] ++
  (List.range 16).map (fun w => ⟨0x140 + 4 * w, 0, 32, wordAt r w, false⟩) ++
  (List.range 32).map (fun b => ⟨0x200 + 4 * b, 0, 32, satTo 32 (Sparse.get 0 h.bins b), false⟩)

/-- The computed fields of a page. -/
def State.views (s : State) (p : Page) : List View :=
  match p.kind with
  | .gbl => [⟨0x100, 8, 8, Config.siliconRev.toNat, false⟩, ⟨0x100, 4, 4, (if s.bt.identity then Config.lid else Config.lidErased).toNat, false⟩,
             ⟨0x104, 0, 32, Config.serial.toNat % 2 ^ 32, false⟩, ⟨0x108, 0, 32, Config.serial.toNat / 2 ^ 32, false⟩]
  | .pwr => [⟨0x150, 0, 1, b2n s.pw.heldSd, false⟩, ⟨0x150, 1, 1, b2n s.pw.heldCard, false⟩]
  | .qtz => [⟨0x100, 0, 32, s.quartz % 2 ^ 32, false⟩, ⟨0x104, 0, 32, s.qz.nowHi, false⟩]
  | .rst => [⟨0x100, 0, 3, s.mode.code, false⟩, ⟨0x108, 0, 4, s.bt.cause, false⟩, ⟨0x10C, 0, 16, satTo 16 s.bt.resetCnt, false⟩,
             ⟨0x10C, 16, 16, satTo 16 s.bt.wdogCnt, false⟩]
  | .pad =>
    let fault : Bool := s.get R.PAIR_CLAIM_CONFLICT == 1 || s.get R.PAIR_STUCK_CLAIM == 1
    if s.get (R.PAD_EN 7) = 1 then [⟨0x144, s.get (R.PAD_PIN 7), 1, b2n fault, false⟩] else []
  | .hbm | .mpu | .card => if p.kind = .hbm ∧ p.inst = 0 then s.viewHbm0 else []
  | .cc => s.viewCc p.inst ++ (if p.inst = 0 then s.viewCc0 else [])
  | .pk => s.viewPk p.inst ++ (if p.inst = 0 then s.viewPk0 else [])
  | .geo => s.viewGeo
  | .kcs => s.viewKcs p.inst
  | .arb => s.viewArb
  | .flt => s.viewFlt
  | .obs => s.viewObs
  | .lcs => s.viewLcs
  | .gate => s.viewGate
  | .pair => [⟨0x100, 2, 1, b2n Config.markB, false⟩,
              ⟨0x100, 5, 4, b2n s.pr.claimOut + 2 * b2n s.pr.claimIn + 4 * b2n s.healthOut + 8 * b2n s.pr.healthIn, false⟩]
  | .fvl => [⟨0x100, 8, 3, linkRole p.inst, false⟩] ++ (if p.inst = 0 then s.viewFvl0 else [])
  | .sched => s.viewSched
  | .agt => s.viewAgt
  | .sd => [⟨0x114, 0, 32, s.journalCount % 2 ^ 32, false⟩, ⟨0x118, 0, 32, s.qz.jcountHi, false⟩]
  | .hqe => s.viewHqe
  | .seq => s.viewSeq p.inst ++ (if p.inst = 0 then s.viewSeq0 else [])

/-! ## The spaces -/

/-- A common register of a page (Table 21.1). -/
def State.readCommon (s : State) (p : Page) (off : Nat) : Nat :=
  let n := p.num
  match off with
  | 0x000 => 2 ^ 16 * p.kind.typeCode + 2 ^ 8 * p.inst + 1
  | 0x004 => (Config.blkRev n).toNat
  | 0x008 => s.get (R.BLK_ENABLE n) + 4 * s.get (R.BLK_FREEZE n)
  | 0x00C => 1
  | 0x010 => s.get (R.BLK_INT_RAW n)
  | 0x014 => s.get (R.BLK_INT_EN n)
  | 0x018 => s.get (R.BLK_INT_RAW n) &&& s.get (R.BLK_INT_EN n)
  | 0x028 => if p.guarded then 3 else 0
  | 0x02C => s.get (R.BLK_SEQ n)
  | _ => 0

/-- The compare and period that the owner of a unit has set (R412): the time its feature waits for, where it waits for one. -/
def State.ownerCompare (s : State) (feature : Nat) : Option (Nat × Nat) :=
  match feature with
  | 0 => if s.get R.GATE_STATE = 2 ∨ s.get R.GATE_STATE = 3 then some (s.gt.sealedAt + 1000000000 * s.get R.GATE_WINDOW_S, 0) else none
  | 1 => if s.lc.nonce = [] then none else some (s.lc.nonceDue, 0)
  | 2 => if s.get R.PAIR_PAIR_EN = 1 then some (s.pr.nextReport, 1000000) else none
  | 3 =>
    (s.parts.foldl (fun b e =>
      let due := (e.2.epPending.map (·.1)).toList ++ if e.2.overlap then [e.2.epTs + e.2.epTov] else []
      due.foldl (fun b t => some (min (b.getD t) t)) b) none).map fun t => (t, 0)
  | 4 => some (s.sc.tickDue, s.tickNs)
  | 5 => if s.ag.open_ then some (s.ag.due, s.windowNs) else none
  | _ => none

/-- A CMP or PERIOD register of a unit held by one of features 0-7, as its owner has set it: DESIGN CHOICE, log 224. -/
def State.ownedCompare (s : State) (f : Field) : Option Nat :=
  match compareUnit f.addr with
  | some u =>
    if s.unitOwned u then
      (s.ownerCompare (s.get (R.QTZ_OWNER u))).map fun c =>
        if f.addr % 16 = 0 then c.1 % 2 ^ 32 else if f.addr % 16 = 4 then c.1 / 2 ^ 32 else c.2
    else none
  | none => none

/-- A stored field as it reads: a generation cap other than 3-6 reads as 6 (Table 2.11), SHUF_EN as the shuffling stands (R139), a compare its owner sets
as the owner set it (R412). -/
def State.shownField (s : State) (f : Field) : Nat :=
  if f = R.CC0_SHUF_EN then b2n s.shuffles
  else if f = R.HQE_P0_MAXGEN then s.genCap 0 else if f = R.HQE_P1_MAXGEN then s.genCap 1 else (s.ownedCompare f).getD (s.get f)

/-- The fields of a page at an offset: stored ones that can be read, and computed ones. -/
def State.fieldsAt (s : State) (p : Page) (off : Nat) : List View :=
  ((p.fields.filter fun f => f.addr == p.base + off && f.access ≠ .wo).map fun f => ⟨off, f.lsb, f.width, s.shownField f, f.access == .rwg⟩) ++
  (s.views p).filter (·.off == off)

/-- A word of a page, the shadow half included (R463): guarded fields complemented, every other bit 0. -/
def State.readPage (s : State) (p : Page) (off : Nat) : Nat :=
  if off < 0x100 then s.readCommon p off
  else if off < 0x800 then ((s.fieldsAt p off).map fun v => v.value % 2 ^ v.width * 2 ^ v.lsb).sum
  else (((s.fieldsAt p (off - 0x800)).filter (·.guarded)).map fun v => compl v.width v.value * 2 ^ v.lsb).sum

/-- Whether the vectors of a function from `base` on are pending, 32 to a word (R58). -/
def State.pba (s : State) (fn : Func) (base : Nat) : Nat := maskOf 32 fun i => s.hq.msixPend.contains (funcCode fn, base + i)

/-- A VF's BAR0 (Table 2.2), as VF `ix` of partition `p`. -/
def State.readVf (s : State) (fn : Func) (p ix addr : Nat) : Nat :=
  if addr < 0x100 then (s.qp p (addr / 4)).sqTail
  else if addr < 0x200 then (s.qp p ((addr - 0x100) / 4)).readCqHead
  else if 0x400 ≤ addr ∧ addr < 0x500 then s.readPart p ix addr
  else if 0x1000 ≤ addr ∧ addr < 0x1800 then (s.qp p ((addr - 0x1000) / 32)).readWord (addr % 32 / 4)
  else if 0x2000 ≤ addr ∧ addr < 0x2040 then s.msixWord (funcCode fn) ((addr - 0x2000) / 16) (addr % 16 / 4)
  else if 0x3000 ≤ addr ∧ addr < 0x3008 then s.pba fn (8 * (addr - 0x3000))
  else 0

/-- What a 32-bit read at a byte address of a function's BAR0 returns: zero outside the pages, in a page that does not respond, and through a VF
no partition owns (R9, R20, R27, R384). -/
def State.readWord (s : State) (fn : Func) (addr : Nat) : Nat :=
  match fn with
  | .pf _ =>
    match Page.ofAddr addr with
    | none => 0
    | some p => if s.responds p.num then s.readPage p (addr % 0x1000 / 4 * 4) else 0
  | .vf _ _ =>
    match s.vfOwner fn with
    | none => 0
    | some (p, ix) => if s.enabledFunc fn && s.responds pgHQE then s.readVf fn p ix (addr / 4 * 4) else 0

/-! ## Configuration space (Table 2.1) -/

/-- What the functions of a port report of themselves (Table 2.1). -/
structure FunctionIds where
  vendor : Nat
  device : Nat
  classCode : Nat
  totalVfs : Nat
  /-- The largest payload of a write the function sends, and the largest read request it makes, in bytes. -/
  maxPayload : Nat
  maxReadRequest : Nat
deriving DecidableEq, Repr

/-- The identity of a function and the sizes its Device Control allows it: Max_Payload_Size 128 << code, to 512 bytes; Max_Read_Request_Size likewise,
to 4,096. -/
def State.functionIds (s : State) (fn : Func) : FunctionIds :=
  let c := Sparse.get 0x2010 s.hq.devCtl (funcCode fn)
  { vendor := Config.vendorId.toNat
    device := match fn with | .pf _ => 0x0940 | .vf _ _ => 0x0941
    classCode := 0x108000
    totalVfs := match fn with | .pf _ => 512 | .vf _ _ => 0
    maxPayload := min 512 (128 * 2 ^ bitsOf c 5 3)
    maxReadRequest := min 4096 (128 * 2 ^ bitsOf c 12 3) }

/-- The width of the tags a port's requests carry: 14 bits in FLIT mode, which generation 6 runs, else 10 (Table 2.1). -/
def State.tagBits (s : State) (port : Fin 2) : Nat := if s.get (portGen port) = 6 then 14 else 10

/-- What a read of a register of a function's configuration space returns: none while the port answers with Configuration Request Retry Status. -/
def State.readConfig (s : State) (fn : Func) (r : ConfigReg) : Option Nat :=
  if !s.configAnswers then none
  else some <|
    match r, fn with
    | .msixControl, _ => s.msixControl (funcCode fn) + (vectorsOf fn - 1)
    | .sriovControl, .pf port => b2n (s.hq.vfOn.contains port)
    | .sriovControl, .vf _ _ => 0
    | .deviceControl, _ => Sparse.get 0x2010 s.hq.devCtl (funcCode fn)
    | .aerStatus, _ => Sparse.get 0 s.hq.aer (funcCode fn)

/-- The identity a function shows to a probe; none while the port answers with Configuration Request Retry Status. -/
def State.readIds (s : State) (fn : Func) : Option FunctionIds := if s.configAnswers && s.enabledFunc fn then some (s.functionIds fn) else none

end Sys2Proof.Machine
end

