-- ==== Sys2Proof/Machine/BusAccess.lean ====
section
/-! DEFINITION. Accesses of the bus masters to the four targets of the internal address space (Table 10.5), piece by piece through their memory protection units (R243, R253, R265-R269). -/
namespace Sys2Proof.Machine

/-- What a master is to the HBM controllers (R243): a control core, the host queue engine's DMA, the card DMA, the replication DMA, the scrubber, the sweeper. -/
def busUse (m : Nat) : HbmUse :=
  if m < 8 then .core else if m < 10 then .hqeStaged else if m = 10 then .cardDma else if m = 11 then .replication
  else if m = 12 then .scrubber else .sweeper

/-- Is the address in the register pages? -/
def inRegisters (a : Nat) : Bool := 0x2000000000 ≤ a && a < 0x2004000000

/-- The bytes a permitted read piece returns from its target; none where the target returns an integrity error (R244). A register is read as P0's physical
function reads it. A byte of the configuration flash is free. -/
def State.busRead (s : State) (m a n : Nat) : Option (List Byte) :=
  if a < hbmEnd then
    if hbmProtected a ∧ !(mayProtected (busUse m)) then some (zeros n)
    else if s.readFails a n then none
    else some (slice (a % 64) n (s.readLine (a / 64)))
  else if inSram a then some ((List.range n).map fun i => s.sramByte (a + i))
  else if inRegisters a then
    some ((List.range n).map fun i =>
      let r := a + i - 0x2000000000
      (leBytes 4 (s.readWord (.pf 0) (r / 4 * 4))).getD (r % 4) 0)
  else some ((List.range n).map fun i => Config.flashByte s.frees (a + i - 0x3000000000))

/-- A permitted write piece at its target. HBM: as HBM_WRITE stores it, the bytes of the work region and of the firmware's area and no other, since those of the
tables stand in the state's own records. Registers: its whole words. Flash: nothing that another rule reads (DESIGN CHOICE, log 240). -/
def State.busWrite (s : State) (m a : Nat) (bs : List Byte) : State :=
  if a < hbmEnd then
    if (hbmProtected a ∧ !(mayProtected (busUse m))) ∨ s.writeFails a bs.length then s
    else if hbmRegion a = .work ∨ hbmRegion a = .firmware then (s.crossHbm a).writeMem a bs
    else (s.crossHbm a).wholeLines a bs.length
  else if inSram a then s.writeSram a bs
  else if inRegisters a then
    (List.range 16).foldl (fun s i =>
      let w := a / 64 * 64 + 4 * i
      if a ≤ w ∧ w + 4 ≤ a + bs.length then s.writePf (w - 0x2000000000) (leNat (slice (w - a) 4 bs)) else s) s
  else s

/-- MPU_ACCESS (R265-R269): an access of master `m` is split at 64-byte boundaries and every piece is checked at its first byte, all under one epoch. A denied
piece reads zeros or is not written, and is noted; a permitted one is read from its target or written there. The access waits while an HBM region it reaches is
not ready (R250) or its channel is under FREEZE (R253). -/
def execMpuAccess (m : Fin 16) (kind : AccessKind) (addr : Fin 0x10000000000) (len : Nat) (tag : Fin 1024) (data : List Byte)
    (s : State) : Result :=
  if 14 ≤ m.val ∨ (kind = .fetch ∧ 8 ≤ m.val) then .next s
  else
    let t := s.masterTag m tag
    let ps := pieces addr len
    let ok := fun (p : Nat × Nat) => s.piecePermitted m kind p.1 t
    if ps.any fun p => ok p && decide (p.1 < hbmEnd) && s.hbmWaits p.1 then .next s
    else
      let noted := ps.foldl (fun s' p => if ok p then s' else s'.violation m kind p.1 t) s
      match kind with
      | .write => .next (ps.foldl (fun s' p => if ok p then s'.busWrite m p.1 (slice (p.1 - addr.val) p.2 data) else s') noted)
      | .read | .fetch =>
        let crossed := ps.foldl (fun s' p => if ok p && decide (p.1 < hbmEnd) then s'.crossHbm p.1 else s') noted
        .next { crossed.emit (.busRead m addr (ps.map fun p => if ok p then s.busRead m p.1 p.2 else some (zeros p.2))) with
          frees := s.frees + 1 }

end Sys2Proof.Machine
end

