-- ==== Sys2Proof/Machine/DmaErrors.lean ====
section
/-! DEFINITION. Data DMA errors of commands that are staged, that run, and that a peer serves (R48, R376). -/
namespace Sys2Proof.Machine

/-- The function a command's data moves through. -/
def State.funcOf (s : State) (c : Cmd) : Option Func := s.qpFunc c.part c.qp

/-- A staged command whose input read fails: ABORTED, DETAIL 2, the error reported. -/
def State.inputFails (s : State) (c : Cmd) (rest : List Cmd) (e : ReadError) : State :=
  (({ s with hq.staged := rest }).reportRead (s.funcOf c) e).endStaged c stAborted 2

/-- DATA_DMA_ERROR (R48): ABORTED with DETAIL 2 for an input read, 3 for an output write, and reported through AER; the queue pair stays as it is.
A transfer to or from a work window makes no host access that could fail (R240). -/
def execDataDmaError (victim : DmaVictim) (s : State) : Result :=
  match victim with
  | .staged e =>
    match s.granted with
    | none => .next s
    | some (c, rest) =>
      if c.desc.inInline ∨ c.desc.inLen = 0 ∨ c.desc.windowIn ∨ c.peer.isSome then .next s
      else .next ((s.spend unitDispatch).inputFails c rest e)
  | .input c e =>
    match (s.ctx (ctxKey c)).cmd with
    | none => .next s
    | some cmd =>
      if cmd.desc.inInline ∨ cmd.desc.windowIn ∨ cmd.peer.isSome then .next s
      else .next ((s.reportRead (s.funcOf cmd) e).endCommand (ctxKey c) stAborted 2)
  | .output c =>
    match (s.ctx (ctxKey c)).cmd with
    | none => .next s
    | some cmd =>
      if cmd.desc.outInline ∨ cmd.desc.windowOut ∨ cmd.peer.isSome then .next s
      else .next ((s.reportWrite (s.funcOf cmd)).endCommand (ctxKey c) stAborted 3)
  | .forwardInput e =>
    match s.forwardLink, s.pickForward [] s.hq.staged with
    | some _, some (c, rest) =>
      if c.desc.inInline ∨ c.desc.inLen = 0 ∨ c.desc.windowIn then .next s else .next (s.inputFails c rest e)
    | _, _ => .next s
  | .forwardOutput k tag =>
    match s.hq.fwdOut.find? fun x => x.link == k.val && x.tag == tag with
    | none => .next s
    | some x =>
      if x.cmd.desc.outInline ∨ x.cmd.desc.outLen = 0 ∨ x.cmd.desc.windowOut then .next s
      else
        let s : State := { s with hq.fwdOut := s.hq.fwdOut.filter fun y => !(y.link == k.val && y.tag == tag) }
        .next ((s.reportWrite (s.funcOf x.cmd)).endStaged x.cmd stAborted 3)

end Sys2Proof.Machine
end

