-- ==== Sys2Proof/Machine/KeyBlocks.lean ====
section
/-! DEFINITION. Key blocks (R123, R124, Table 4.11) and the programs that import, export and translate them. The layout of a block is that of ANSI X9.143 (PRESUMED): a header of sixteen characters, optional blocks, the encrypted key and the MAC in hexadecimal. -/
namespace Sys2Proof.Machine

/-! ## Characters -/

/-- The value of a hexadecimal digit. -/
def hexValue (b : Byte) : Option Nat :=
  let v := b.toNat
  if 0x30 ≤ v ∧ v ≤ 0x39 then some (v - 0x30) else if 0x41 ≤ v ∧ v ≤ 0x46 then some (v - 0x37) else none

/-- The digit of a nibble. -/
def hexDigit (n : Nat) : Byte := BitVec.ofNat 8 (if n < 10 then 0x30 + n else 0x37 + n)

/-- A byte string in hexadecimal. -/
def toHex (bs : List Byte) : List Byte := (nibbles bs).map hexDigit

/-- The bytes a hexadecimal string spells, if it is one. -/
def fromHex (cs : List Byte) : Option (List Byte) :=
  if cs.length % 2 = 0 then (cs.mapM hexValue).map packNibbles else none

/-- The number a decimal string spells, if it is one. -/
def fromDecimal (cs : List Byte) : Option Nat :=
  (cs.mapM fun c => (hexValue c).filter (· ≤ 9)).map fun ds => ds.foldl (fun v d => 10 * v + d) 0

/-- A number in `n` decimal digits. -/
def toDecimal (n v : Nat) : List Byte := ((List.range n).map fun i => BitVec.ofNat 8 (0x30 + v / 10 ^ i % 10)).reverse

/-- Is a character printable ASCII? -/
def printable (b : Byte) : Bool := 0x20 ≤ b.toNat && b.toNat ≤ 0x7E

/-- The code of a character. -/
def chr (c : Char) : Byte := BitVec.ofNat 8 c.toNat

/-! ## Key usage and mode (Table 4.11) -/

/-- The usage bits a key usage and a mode of use grant. -/
def blockUsage (usage : List Byte) (mode : Byte) : Option Nat :=
  let u := usage.map fun b => Char.ofNat b.toNat
  let m := Char.ofNat mode.toNat
  let row : Char → Nat → Bool := fun c hi => match u with
    | [a, d] => a == c && 0x30 ≤ d.toNat && d.toNat ≤ 0x30 + hi
    | _ => false
  let both := fun (x y : Nat) (b e d : Char) => if m = b then some (2 ^ x + 2 ^ y) else if m = e then some (2 ^ x) else if m = d then some (2 ^ y) else none
  if row 'B' 1 ∨ row 'E' 6 then (if m = 'X' then some (2 ^ 8) else none)
  else if row 'C' 0 ∨ row 'M' 8 then both 4 5 'C' 'G' 'V'
  else if row 'D' 0 then both 0 1 'B' 'E' 'D'
  else if row 'K' 1 then both 2 3 'B' 'E' 'D'
  else if row 'P' 0 then (if m = 'B' ∨ m = 'E' ∨ m = 'D' then some (2 ^ 6) else none)
  else if row 'V' 2 then (if m = 'C' ∨ m = 'V' then some (2 ^ 7) else none)
  else if row 'S' 0 then (if m = 'S' then some (2 ^ 9) else if m = 'V' then some (2 ^ 10) else none)
  else none

/-- The usage and mode that grant exactly these bits: the first row of Table 4.11 that does (R124). -/
def usageFor (bits : Nat) : Option (List Byte × Byte) :=
  let rows : List (Char × Char × List Char) :=
    [('B', '0', ['X']), ('C', '0', ['C', 'G', 'V']), ('D', '0', ['B', 'E', 'D']), ('K', '0', ['B', 'E', 'D']), ('P', '0', ['B']),
     ('V', '0', ['C']), ('S', '0', ['S', 'V'])]
  (rows.flatMap fun r => r.2.2.map fun m => ([chr r.1, chr r.2.1], chr m)).find? fun x => blockUsage x.1 x.2 == some bits

/-- The algorithm letters and the classes they stand for. -/
def blockClass (b : Byte) : Option Nat :=
  if b = chr 'T' then some 1 else if b = chr 'A' then some 2 else if b = chr 'H' then some 3 else if b = chr 'E' then some 4
  else if b = chr 'R' then some 5 else if b = Config.latticeLetter 6 then some 6 else if b = Config.latticeLetter 7 then some 7 else none

/-- The algorithm letter of a class. -/
def classLetter (cls : Nat) : Byte :=
  if cls = 1 then chr 'T' else if cls = 2 then chr 'A' else if cls = 3 then chr 'H' else if cls = 4 then chr 'E'
  else if cls = 5 then chr 'R' else Config.latticeLetter cls

/-! ## Parts of a block -/

/-- The characters of a block's parts: header with its optional blocks, the optional blocks by identifier, the encrypted key, the MAC; whether the
optional blocks could be walked to their number, and whether key and MAC are hexadecimal. -/
structure KeyBlock where
  header : List Byte
  options : List (List Byte × List Byte)
  cipher : List Byte
  mac : List Byte
  walked : Bool
  hex : Bool
deriving DecidableEq, Repr

/-- MAC bytes of a version. -/
def macBytes (version : Byte) : Nat := if version = chr 'D' then 16 else if version = chr 'B' then 8 else 4

/-- The optional block at the front: an identifier, a length in two hexadecimal digits or, after 00, in as many as the next two say, and its data;
with the rest. -/
def optionAt (cs : List Byte) : Option ((List Byte × List Byte) × List Byte) := do
  let len ← (fromHex (slice 2 2 cs)).map beNat
  let long := len = 0
  let digits ← if long then (fromHex (slice 4 2 cs)).map beNat else some 0
  let len ← if long then (fromHex (slice 6 digits cs)).map beNat else some len
  let head := if long then 6 + digits else 4
  if len < head ∨ cs.length < len then none else some ((cs.take 2, (cs.take len).drop head), cs.drop len)

/-- The first `n` optional blocks in order, with the rest; false where one cannot be read, from which on all is rest. -/
def walkOptions : Nat → List Byte → Bool × List (List Byte × List Byte) × List Byte
  | 0, cs => (true, [], cs)
  | n + 1, cs =>
    match optionAt cs with
    | none => (false, [], cs)
    | some (o, rest) =>
      let r := walkOptions n rest
      (r.1, o :: r.2.1, r.2.2)

/-- Check 1 of R123: printable ASCII of IN_LEN, at most 4,096 bytes, whose length field says so. -/
def headerOk (inLen : Nat) (cs : List Byte) : Bool :=
  16 ≤ inLen && inLen ≤ 4096 && cs.all printable && fromDecimal (slice 1 4 cs) == some inLen && (fromDecimal (slice 12 2 cs)).isSome

/-- The parts of a block. -/
def readBlock (cs : List Byte) : KeyBlock :=
  let r := walkOptions ((fromDecimal (slice 12 2 cs)).getD 0) (cs.drop 16)
  let m := 2 * macBytes (cs.getD 0 0)
  let body := r.2.2
  let cipher := fromHex (body.take (body.length - m))
  let mac := fromHex (body.drop (body.length - m))
  { header := cs.take (cs.length - body.length), options := r.2.1, cipher := cipher.getD [], mac := mac.getD [],
    walked := r.1 && m ≤ body.length, hex := cipher.isSome && mac.isSome }

/-- Does the module interpret an optional block? -/
def interpreted (id : List Byte) : Bool :=
  [['K', 'C'], ['K', 'P'], ['K', 'S'], ['T', 'S'], ['P', 'B']].any fun x => x.map chr == id

/-- The class of a version's KBPK. -/
def versionClass (version : Byte) : Nat := if version = chr 'D' then 2 else 1

/-- The entry of a version's encryption key under a KBPK of `n` bytes; its authentication key's entry is the next one. -/
def blockEntry (version : Byte) (n : Nat) : Nat :=
  if version = chr 'D' then (if n = 16 then 0x30 else if n = 24 then 0x32 else 0x34) else if version = chr 'B' then 0x36 else 0x38

namespace Prog

/-- The encryption and the authentication key of a block. -/
def blockKeys (e : Prog) (kbpk : KeySlot) (version : Byte) : Run (KeySlot × KeySlot) := do
  let i := blockEntry version kbpk.key.material.length
  let k ← e.derive i kbpk 2 [] []
  let m ← e.derive (i + 1) kbpk 3 [] []
  pure (k, m)

/-- The MAC of a block: of the header and the clear key for B and D, of the header and the encrypted key for A and C. -/
def blockMac (e : Prog) (version : Byte) (k : KeySlot) (header clear cipher : List Byte) : Run (List Byte) := do
  if version = chr 'B' ∨ version = chr 'D' then e.cmacOf k (header ++ clear)
  else
    let x := isoPad 1 8 true (header ++ cipher)
    let v ← e.lanes (← e.wires k) (x.length / 8) fun p m => (cbcEncBy (p.cipher 1 false m) 8 (zeros 8) x).2
    pure (v.take 4)

/-- What a block gives: the key, and whether an optional block was ignored. Key or MAC characters that are not hexadecimal end it as a MAC that differs; an
exportability character other than N, E and S is taken as never, and an algorithm letter of no class gives 0xC024 (DESIGN CHOICE, log 244: R123 names no check for
them). The MAC is judged before the optional blocks, the usage and the
lengths (R123 checks 4 to 8); of a block whose optional blocks cannot be walked it is judged with the header up to the one that fails (log 142). -/
def readKey (e : Prog) (kbpk : KeySlot) (cs : List Byte) : Run (Key × Bool) := do
  let version := cs.getD 0 0
  let cipher := 2 - versionClass version
  let b := blkLen cipher
  if kbpk.key.cls ≠ versionClass version then stop stKeyUsageDenied 0
  let x := readBlock cs
  let ks ← e.blockKeys kbpk version
  let covers := version = chr 'B' ∨ version = chr 'D'
  let iv := if covers then x.mac else x.header.take 8
  let decrypted : Run (List Byte) := do
    e.lanes (← e.wires ks.1) (x.cipher.length / b) fun p m =>
      (cbcDecBy (p.cipher cipher true m) b iv (x.cipher.take (x.cipher.length / b * b))).1
  let early ← if covers then decrypted else pure []
  let mac ← e.blockMac version ks.2 x.header early x.cipher
  mustMatch (x.hex && mac == x.mac)
  let clear ← if covers then pure early else decrypted
  need x.walked 0xC023
  match blockUsage (slice 5 2 cs) (cs.getD 8 0) with
  | none => malformed 0xC022
  | some usage =>
    need (!x.cipher.isEmpty && x.cipher.length % b == 0) 0xC024
    let bits := beNat (clear.take 2)
    let material := slice 2 (bits / 8) clear
    match blockClass (cs.getD 7 0) with
    | none => malformed 0xC024
    | some cls =>
      let sel := if 4 ≤ cls then (Config.blockSel cls x.header).toNat else 0
      let s ← get
      let type := if cls ≤ 3 then KType.secret else if s.materialFits cls .priv sel (bits / 8) then .priv else .pub
      need (bits % 8 == 0 && 2 + bits / 8 ≤ clear.length && s.materialFits cls type sel (bits / 8)) 0xC024
      let xport := cs.getD 11 0
      let key : Key := { ktype := type, cls, sel, level := 6, usage, attr := 2 + 2 ^ 5 + b2n (xport == chr 'E' || xport == chr 'S'), material }
      let key := { key with kcv := key.checkValue }
      let kc := x.options.find? fun o => o.1 == [chr 'K', chr 'C']
      match kc with
      | some o => mustMatch (slice 2 6 o.2 == toHex key.kcv)
      | none => pure ()
      pure (key, x.options.any fun o => !interpreted o.1)

/-- The checks that come before any key is fetched: syntax, then version (R123 checks 1 and 2). -/
def blockChecks (e : Prog) (cs : List Byte) : Run Unit := do
  need (headerOk e.inLen cs) 0xC021
  need ([chr 'A', chr 'B', chr 'C', chr 'D'].contains (cs.getD 0 0)) 0xC020

/-- Is a KBPK strong enough for a key (R124)? -/
def strong (_ : Prog) (kbpk key : Key) : Bool :=
  if key.cls = 1 then true
  else if kbpk.cls = 1 then false
  else if key.cls = 2 then key.material.length ≤ kbpk.material.length
  else kbpk.material.length == 32

/-- A block of a key, with its header's fields chosen (R124). -/
def writeBlock (e : Prog) (kbpk : KeySlot) (version : Byte) (usage : List Byte) (mode : Byte) (kvn : Nat) (xport : Bool) (k : Key) :
    Run (List Byte) := do
  if kbpk.key.cls ≠ versionClass version ∨ !e.strong kbpk.key k then stop stKeyUsageDenied 1
  let cipher := 2 - versionClass version
  let b := blkLen cipher
  let n := k.material.length
  let pad := (b - (2 + n) % b) % b
  let len := 16 + 2 * (2 + n + pad) + 2 * macBytes version
  need (len ≤ 4096 && len ≤ e.x.desc.outLen) 0xC004
  let r ← e.random pad
  let ks ← e.blockKeys kbpk version
  let header := [version] ++ toDecimal 4 len ++ usage ++ [classLetter k.cls, mode] ++ toHex (beBytes 1 kvn) ++
    [chr (if xport then 'E' else 'N')] ++ toDecimal 2 0 ++ toDecimal 2 0
  let clear := beBytes 2 (8 * n) ++ k.material ++ r
  let mac ← e.blockMac version ks.2 header clear []
  let enc ← e.lanes (← e.wires ks.1) (clear.length / b) fun p m => (cbcEncBy (p.cipher cipher false m) b mac clear).1
  pure (header ++ toHex enc ++ toHex mac)

/-- The PARAM of an export: version, key version number, exportability asked. -/
def exportParam (e : Prog) : Run Byte := do
  let v := BitVec.ofNat 8 (e.param 0 8)
  need (e.paramOnly 0x1FFFF && (v == chr 'B' || v == chr 'D')) 0xC003
  pure v

/-- A key sent out in a block (R124): its usage bits must match a row of Table 4.11, and its export class must allow it. -/
def sendKey (e : Prog) (kbpk : KeySlot) (version : Byte) (k : Key) (status : Nat) : Run Done := do
  match usageFor k.usage with
  | none => malformed 0xC022
  | some (u, m) =>
    if !k.exportable then stop stKeyUsageDenied 0
    let bs ← e.writeBlock kbpk version u m (e.param 8 8) (e.param 16 1 == 1) k
    e.reply bs status

end Prog

/-! ## The programs -/

/-- Program 0x104 (R123): a block imported as a new record under KEY1, at the index given in the parent's scope. -/
def execKeyBlockImport (c : Ctx) (run : ProgramRun) (s : State) : Result :=
  s.program c 0x104 run fun e => do
    let cs := e.input 0 (min e.inLen 4097)
    need (e.paramOnly (2 ^ 28 - 1)) 0xC003
    e.blockChecks cs
    let y ← e.cipherKey 0 0 useUnwrap 0
    let z ← e.fetch 1 0 useWrap 1
    let r ← e.readKey y cs
    e.room (128 * recordLines r.1.material.length)
    let key := { r.1 with attr := r.1.attr + 2 ^ 7 * bitsOf z.key.attr 7 7 }
    let bs ← e.writeRecord (handleScope e.x.desc.key1 * 2 ^ 28 + e.param 0 28) { key } (some z) false
    e.reply bs (if r.2 then 0x81 else 0)

/-- Program 0x105 (R124): a key exported under KEY1. -/
def execKeyBlockExport (c : Ctx) (run : ProgramRun) (s : State) : Result :=
  s.program c 0x105 run fun e => do
    let v ← e.exportParam
    let y ← e.fetch 0 0 0 0
    let z ← e.cipherKey 1 0 useWrap 1
    e.sendKey z v y.key 0

/-- Program 0x106 (R124): a block translated from KEY0 to KEY1. -/
def execKeyBlockTranslate (c : Ctx) (run : ProgramRun) (s : State) : Result :=
  s.program c 0x106 run fun e => do
    let cs := e.input 0 (min e.inLen 4097)
    let v ← e.exportParam
    e.blockChecks cs
    let y ← e.cipherKey 0 0 useUnwrap 0
    let z ← e.cipherKey 1 0 useWrap 1
    let r ← e.readKey y cs
    e.sendKey z v r.1 (if r.2 then 0x81 else 0)

/-- Program 0x1C0: the initial key of a DUKPT device in a block of key usage B1. The derived key's export is never (R115); R124's check of the export class is not
made, since the program's own purpose is to export it (DESIGN CHOICE, log 245). -/
def execDukptInitialKeyExport (c : Ctx) (run : ProgramRun) (s : State) : Result :=
  s.program c 0x1C0 run fun e => do
    let aes := e.param 0 1 == 1
    let wide := e.param 1 1 == 1
    e.atLeast (if aes then 8 else 10)
    need (e.paramOnly 3 && (aes || !wide)) 0xC003
    let q : Ksn := { aes, bytes := if aes then e.input 0 8 ++ zeros 4 else e.input 0 10 }
    let y ← e.cipherKey 0 (if aes then 2 else 1) useDerive 0
    let z ← e.cipherKey 1 0 useWrap 1
    let k ← e.initialKey y q wide
    let bs ← e.writeBlock z (chr (if aes then 'D' else 'B')) [chr 'B', chr '1'] (chr 'X') 0 false k.key
    e.reply bs

end Sys2Proof.Machine
end

