-- ==== Sys2Proof/Machine/PeerMessages.lean ====
section
/-! DEFINITION. Flits as they arrive, and the messages of a peer that no row of its own brings: closing a session, the exchange as a tree re-forms, enrolment
and catch-up as the sponsor and the joiner see them, an abort passed on, a resynchronisation asked for (R348, R355-R357, R361, R368, R372, R377). -/
namespace Sys2Proof.Machine

/-- TYPE of the flits that carry a message (Table 15.2); a record of a catch-up is replication (DESIGN CHOICE, log 232). -/
def peerType : PeerMessage → Nat
  | .closes | .holds .. | .asksCatchup _ | .joins _ => 2
  | .record .. => 3
  | .aborts _ => 4
  | .asksResync => 6

/-- The scope 1 records of some partitions, each that is replicated, and the end of the catch-up (R361 step 4). -/
def State.sendCatchup (s : State) (k : Nat) (parts : List Nat) : State :=
  let rows := s.ge.lines.filter fun e => parts.contains (linePart e.1) && isReplicated (lineHandle e.1) e.2
  (rows.foldl (fun s e => s.sendOn k (.catchupRecord k e.1 e.2)) s).sendOn k (.catchupDone k)

/-- JOIN_SN cleared, in the committed state too (R361). -/
def State.clearJoin (s : State) : State :=
  [R.FVL0_JOIN_SN_LO, R.FVL0_JOIN_SN_HI].foldl (fun s f =>
    { s.set f 0 with gt.flash.regs := Sparse.set f.reset s.gt.flash.regs f.key 0 }) s

/-- Is the peer over a link the joiner this sponsor admits (R361)? Over a ring or trunk link, as R360 has it. -/
def State.admitsPeer (s : State) (k : Nat) : Bool :=
  s.enrolled && s.linkUp k && decide (2 ≤ k) && isTreeLink k && s.joinSerial != 0 &&
  s.get (R.FVL_PEER_SN_LO k) + 2 ^ 32 * s.get (R.FVL_PEER_SN_HI k) == s.joinSerial

/-- The sponsor's side of an enrolment (R361): the secret, DOMAIN_ID, domain time, the epochs and schedules, the scope 1 records of the partitions the joiner has;
JOIN_SN is cleared. -/
def State.admitJoiner (s : State) (k : Nat) (parts : List Nat) : State :=
  let s := (s.created.map (·.1)).foldl (fun s p => s.openEpoch p) s
  let epochs := s.created.map fun e => (e.1, e.2.epoch, e.2.epSeq, e.2.epPending)
  ((s.sendOn k (.sponsor k s.dm.secret s.dm.id s.domainTime epochs)).sendCatchup k parts).clearJoin

/-- The highest sequence a neighbour says it holds. -/
def heldBy {n : Nat} (xs : List (Fin n × Nat)) (k : Nat) : Nat := ((xs.find? fun x => x.1.val == k).map (·.2)).getD 0

/-- What a neighbour is missing is sent again (R368, R372): this member's own messages above the highest it holds of them, and each partition's schedule or
cancellation of a higher sequence. A schedule already open here goes with the epoch it opened. -/
def State.resendMissing (s : State) (k : Nat) (origins : List (Fin 4096 × Nat)) (schedules : List (Fin 1024 × Nat)) : State :=
  let from_ := heldBy origins (s.get R.FVL0_MEMBER_NO)
  let s := (s.dm.originated.filter fun m => from_ < m.1).foldl (fun s m => s.sendOn k (.replication k m.1 m.2.1 m.2.2)) s
  (s.parts.filter fun e => heldBy schedules e.1 < e.2.epSeq).foldl (fun s e =>
    let x := e.2
    s.sendOn k (
      if x.epCancelled then .cancel k e.1 x.epSeq
      else match x.epPending with
        | some (ts, tov) => .schedule k e.1 x.epSeq ((x.epoch + 1) % 2 ^ 32) ts tov
        | none => .schedule k e.1 x.epSeq x.epoch x.epTs x.epTov)) s

/-- A command forwarded here that its origin's host aborts (R377): staged, it ends with ABORTED, DETAIL 1; running, at its next boundary as R100 has it. -/
def State.abortForwarded (s : State) (k tag : Nat) : State :=
  let hit : Cmd → Bool := fun c => c.peer == some (k, tag)
  let gone := s.hq.staged.filter hit
  let s : State := { s with hq.staged := s.hq.staged.filter fun c => !hit c }
  let s := gone.foldl (fun s c => s.endStaged c stAborted 1) s
  (s.running.filter fun e => e.2.cmd.any hit).foldl (fun s e => s.endAt e.1 stAborted 1) s

/-- What a message of a peer does. -/
def State.hear (s : State) (k : Nat) : PeerMessage → State
  | .closes => s.linkDown k 3
  | .holds origins schedules => if s.enrolled ∧ isTreeLink k ∧ s.linkUp k then s.resendMissing k origins schedules else s
  | .asksCatchup parts => if s.enrolled ∧ isTreeLink k ∧ s.linkUp k then s.sendCatchup k (parts.map (·.val)) else s
  | .joins parts => if s.admitsPeer k then s.admitJoiner k (parts.map (·.val)) else s
  | .record part handle line => if s.dm.catchup ∧ isReplicated handle.toNat line then s.takeReplica part handle.toNat line else s
  | .aborts tag => if isForwardLink k then s.abortForwarded k tag else s
  | .asksResync => if isPartnerLink k ∧ s.get R.PAIR_ROLE = 1 then s.startResync else s

/-- A record of a catch-up that needs a fence waits as a replicated one does (R366). -/
def State.mustWait (s : State) : PeerMessage → Bool
  | .record part handle line => s.fenceWaits (lineKey part handle.toNat) line
  | .closes | .holds .. | .asksCatchup _ | .joins _ | .aborts _ | .asksResync => false

/-- FLIT_RECEIVE (R355-R357): a good flit is delivered in order on its VC, and its TYPE tells whether the peer is ready; one that fails FEC or
its tag is resent. Four tag failures within 1 ms take the link down. A direction whose counter is used up ratchets its key first. The last flit of a message
completes it, and the member does what it says. -/
def execFlitReceive (k : Fin 8) (f : Flit) (s : State) : Result :=
  if !s.linkOpen k ∨ f.brings.any s.mustWait then .next s
  else
    let s := s.updLink k Link.ratchetRx
    let l := s.link k
    let bs := fitBytes 256 f.bytes
    let s := (s.countSat (R.FVL_FEC_CORR k) f.corrected).resend k f.resend
    if !f.fecOk then .next s
    else if !flitOk l.rxKey l.rxSalt l.rxCount bs then
      let recent := ((s.link k).tagFails ++ [s.quartz]).filter fun t => s.quartz < t + 1000000
      let s := ((s.updLink k fun l => { l with tagFails := recent }).countSat (R.FVL_TAG_FAIL k)).raise (pgFVL k) 2
      .next (if 4 ≤ recent.length then s.linkDown k 2 else s)
    else
      let s := s.updLink k fun l =>
        ({ l with rxCount := l.rxCount + 1, lastFlit := s.quartz, capacity := f.capacity.getD l.capacity }).deliver bs
          (flitCrypt l.rxKey l.rxSalt l.rxCount (slice 2 242 bs))
      let s := if flitType bs = 0 then s else s.count (R.FVL_RX_FLITS k)
      let s := (s.set (R.FVL_PEER_READY k) (b2n (flitType bs != 1))).settleLink k
      .next (match f.brings with
        | some m => if flitEnd bs ∧ flitType bs = peerType m then s.hear k m else s
        | none => s)

end Sys2Proof.Machine
end

