-- ==== Sys2Proof/Machine/Relock.lean ====
section
/-! DEFINITION. The end of a relock: the islands run again and take the writes that waited for their lock (R18, R19, R322). -/
namespace Sys2Proof.Machine

/-- The state a meaning that cannot fail leaves. -/
def Result.state (s : State) : Result → State
  | .next t => t
  | .fault _ | .refused _ => s

/-- A write that waited for an island's lock arrives and acts (R19). -/
def State.arrive (s : State) (c : Instr) : State :=
  Result.state s <|
    match c with
    | .registerWrite fn space word value => execRegisterWrite fn space word value s
    | .intForce fn page value => execIntForce fn page value s
    | .seqFreeze n on => execSeqFreeze n on s
    | .seqPinWrite j value => execSeqPinWrite j value s
    | .katGoLane n lanes => execKatGoLane n lanes s
    | .katGoHash n => execKatGoHash n s
    | .katGoFmt n => execKatGoFmt n s
    | .katGoEng p engines => execKatGoEng p engines s
    | .katGoLu p => execKatGoLu p s
    | .pkFreeze p on => execPkFreeze p on s
    | .ccReset n viaRst => execCcReset n viaRst s
    | .pkReset p viaRst => execPkReset p viaRst s
    | _ => .next s

/-- The writes that waited arrive in their order (R18). -/
def State.arrivals (s : State) : State := s.pw.crossings.foldl State.arrive { s with pw.crossings := [] }

/-- RELOCK_DONE (R322): the islands run the new frequency and take what waited for their lock: a raise is done, a lowering requests its voltage, a restored
level is done. -/
def execRelockDone (s : State) : Result :=
  if !s.pw.relocking then .next s
  else match s.get R.PWR_STEP with
    | 2 => .next (s.runLevel s.pw.target).arrivals.endChange
    | 3 => .next (((s.runLevel s.pw.target).arrivals.set R.PWR_STEP 4).requestLevel s.pw.target)
    | 5 => .next (s.runLevel s.pw.old).arrivals.endChange
    | _ => .next s

end Sys2Proof.Machine
end

