-- ==== Sys2Proof/Machine/Wrappers.lean ====
section
/-! DEFINITION. The public-key wrapper programs (R164, Table 6.5). -/
namespace Sys2Proof.Machine

namespace Prog

/-- The whole input, the source of a wrapper's operation. -/
def whole (e : Prog) : List Byte := e.input 0 e.inLen

/-- KEY0 with a usage, unless the operation takes none or its public key comes with the input. -/
def operKey (e : Prog) (v : PkWord) (mask : Nat) : Run (Option KeySlot) := do
  if v.usesKey then
    let y ← e.fetch 0 0 mask 0
    pure (some y)
  else pure none

/-- The curve of an operation, if it has one. -/
def curve (_ : Prog) (v : PkWord) (y : Option KeySlot) : Run (Option Curve) := do
  let sel := pkSel v (y.map (·.key))
  let s ← get
  pure (if v.isEc then curveOf sel (s.curveEntry sel) else none)

/-- A wrapper that signs: its PARAM mask, its operation, the signature out. -/
def signs (e : Prog) (mask : Nat) (v : PkWord) : Run Done := do
  need (e.paramOnly mask) 0xC003
  let y ← e.operKey v useSign
  let c ← e.curve v y
  e.room (pkResultLen v (y.map (·.key)) c e.whole)
  let r ← e.pkx v y e.whole
  e.reply r.1

/-- A wrapper that verifies: a verdict of 1 ends the command with AUTH_FAIL (R119). -/
def verifies (e : Prog) (mask : Nat) (v : PkWord) : Run Done := do
  need (e.paramOnly mask) 0xC003
  let y ← e.operKey v useVerify
  let r ← e.pkx v y e.whole
  mustMatch (r.1.getD 0 0 == 0)
  pure {}

/-- A wrapper whose shared secret becomes a record under KEY1 at the index in PARAM[27:0]. -/
def agrees (e : Prog) (mask : Nat) (v : PkWord) : Run Done := do
  need (e.paramOnly mask) 0xC003
  let y ← e.operKey v useAgree
  let z ← e.fetch 1 0 useWrap 1
  let c ← e.curve v y
  e.room (pkResultLen v (y.map (·.key)) c e.whole + 128 * recordLines (match c with | some c => c.lp | none => 32))
  let r ← e.pkx v y e.whole
  match r.2 with
  | none => pure {}
  | some secret =>
    let k := e.secretKey v y useDerive secret
    e.place 2 k
    let bs ← e.writeRecord (handleScope e.x.desc.key1 * 2 ^ 28 + e.param 0 28) k (some z) false
    e.reply (r.1 ++ bs)

/-- The RSA hash of PARAM[7:6], and EXTPUB of PARAM[13] for the operations that may take one. -/
def rsaWord (e : Prog) (oper : Nat) (ext : Bool) : PkWord := { oper, sel := e.param 6 2, extpub := ext && e.param 13 1 == 1 }

end Prog

/-- Program 0x240: ECDSA sign. -/
def execEcdsaSignWrapper (c : Ctx) (run : ProgramRun) (s : State) : Result :=
  s.program c 0x240 run fun e => e.signs 0 { oper := 0x02 }

/-- Program 0x241: ECDSA verify, SEL in PARAM[5:0]. -/
def execEcdsaVerifyWrapper (c : Ctx) (run : ProgramRun) (s : State) : Result :=
  s.program c 0x241 run fun e => e.verifies 0x203F { oper := 0x03, sel := e.param 0 6, extpub := e.param 13 1 == 1 }

/-- Program 0x242: EdDSA sign. -/
def execEddsaSignWrapper (c : Ctx) (run : ProgramRun) (s : State) : Result :=
  s.program c 0x242 run fun e => e.signs 0 { oper := 0x05 }

/-- Program 0x243: EdDSA verify; an external key lies on entry 3. -/
def execEddsaVerifyWrapper (c : Ctx) (run : ProgramRun) (s : State) : Result :=
  s.program c 0x243 run fun e =>
    let ext := e.param 13 1 == 1
    e.verifies 0x2000 { oper := 0x06, sel := if ext then 3 else 0, extpub := ext }

/-- Program 0x244: RSA sign, PKCS #1 v1.5 with PARAM[16]. -/
def execRsaSignWrapper (c : Ctx) (run : ProgramRun) (s : State) : Result :=
  s.program c 0x244 run fun e => e.signs 0x100C0 (e.rsaWord (0x10 + e.param 16 1) false)

/-- Program 0x245: RSA verify. -/
def execRsaVerifyWrapper (c : Ctx) (run : ProgramRun) (s : State) : Result :=
  s.program c 0x245 run fun e => e.verifies 0x120C0 (e.rsaWord (0x12 + e.param 16 1) true)

/-- Program 0x246: RSA OAEP decrypt; the message out, a decoding error AUTH_FAIL. -/
def execRsaOaepDecryptWrapper (c : Ctx) (run : ProgramRun) (s : State) : Result :=
  s.program c 0x246 run fun e => do
    need (e.paramOnly 0xC0) 0xC003
    let v := e.rsaWord 0x14 false
    let y ← e.operKey v 2
    let r ← e.pkx v y e.whole
    mustMatch (r.1.getD 0 0 == 0)
    let n := leNat (slice 16 2 r.1)
    e.room n
    e.reply (slice 18 n r.1)

/-- Program 0x247: ECDH. -/
def execEcdhWrapper (c : Ctx) (run : ProgramRun) (s : State) : Result :=
  s.program c 0x247 run fun e => e.agrees (2 ^ 28 - 1) { oper := 0x04 }

/-- Program 0x248: ML-KEM encapsulate, the parameter set in PARAM[29:28]; the ciphertext, then the record. -/
def execMlkemEncapsulateWrapper (c : Ctx) (run : ProgramRun) (s : State) : Result :=
  s.program c 0x248 run fun e => e.agrees (2 ^ 30 - 1) { oper := 0x21, sel := e.param 28 2 }

/-- Program 0x249: ML-KEM decapsulate. -/
def execMlkemDecapsulateWrapper (c : Ctx) (run : ProgramRun) (s : State) : Result :=
  s.program c 0x249 run fun e => e.agrees (2 ^ 28 - 1) { oper := 0x22 }

/-- Program 0x24A: ML-DSA sign, deterministic with PARAM[12]. -/
def execMldsaSignWrapper (c : Ctx) (run : ProgramRun) (s : State) : Result :=
  s.program c 0x24A run fun e => e.signs 0x1000 { oper := 0x29, pform := e.param 12 1 == 1 }

/-- Program 0x24B: ML-DSA verify; an external key's parameter set in PARAM[7:6]. -/
def execMldsaVerifyWrapper (c : Ctx) (run : ProgramRun) (s : State) : Result :=
  s.program c 0x24B run fun e => e.verifies 0x20C0 { oper := 0x2A, sel := e.param 6 2, extpub := e.param 13 1 == 1 }

end Sys2Proof.Machine
end

