-- ==== Sys2Proof/Machine/Dispatch.lean ====
section
/-! DEFINITION. The dispatch: one arm per command, each a direct call of its meaning. -/
namespace Sys2Proof.Machine

/-- The command's effect on everything but the queue, by the spec's rules. -/
def exec (i : Instr) (s : State) : Host.Outcome State Fault Refusal :=
  match i with
  | .registerWrite fn space word value => Sys2Proof.Machine.execRegisterWrite fn space word value s
  | .intForce fn page value => Sys2Proof.Machine.execIntForce fn page value s
  | .portTrain port peerGen peerWidth trains => Sys2Proof.Machine.execPortTrain port peerGen peerWidth trains s
  | .linkDown port => Sys2Proof.Machine.execLinkDown port s
  | .flr target => Sys2Proof.Machine.execFlr target s
  | .qpEnable fn q => Sys2Proof.Machine.execQpEnable fn q s
  | .qpDisable fn q => Sys2Proof.Machine.execQpDisable fn q s
  | .sqTailDoorbell fn q size value => Sys2Proof.Machine.execSqTailDoorbell fn q size value s
  | .cqHeadDoorbell fn q size value => Sys2Proof.Machine.execCqHeadDoorbell fn q size value s
  | .descriptorFetch port => Sys2Proof.Machine.execDescriptorFetch port s
  | .descriptorReceive part q data wrOk => Sys2Proof.Machine.execDescriptorReceive part q data wrOk s
  | .dispatch input => Sys2Proof.Machine.execDispatch input s
  | .inputChunkRead c data => Sys2Proof.Machine.execInputChunkRead c data s
  | .dataDmaError victim => Sys2Proof.Machine.execDataDmaError victim s
  | .coalTimeExpiry part q => Sys2Proof.Machine.execCoalTimeExpiry part q s
  | .abortGo fn q => Sys2Proof.Machine.execAbortGo fn q s
  | .ldin c w => Sys2Proof.Machine.execLdin c w s
  | .ldsc c w => Sys2Proof.Machine.execLdsc c w s
  | .lddesc c w => Sys2Proof.Machine.execLddesc c w s
  | .ldconst c w => Sys2Proof.Machine.execLdconst c w s
  | .ldi c w => Sys2Proof.Machine.execLdi c w s
  | .sadd c w => Sys2Proof.Machine.execSadd c w s
  | .movb c w => Sys2Proof.Machine.execMovb c w s
  | .vxor c w => Sys2Proof.Machine.execVxor c w s
  | .vand c w => Sys2Proof.Machine.execVand c w s
  | .vclr c w => Sys2Proof.Machine.execVclr c w s
  | .setip c w => Sys2Proof.Machine.execSetip c w s
  | .movs c w => Sys2Proof.Machine.execMovs c w s
  | .stres c w => Sys2Proof.Machine.execStres c w s
  | .stout c w => Sys2Proof.Machine.execStout c w s
  | .fetch c w => Sys2Proof.Machine.execFetch c w s
  | .release c w => Sys2Proof.Machine.execRelease c w s
  | .kcv c w => Sys2Proof.Machine.execKcv c w s
  | .generate c w => Sys2Proof.Machine.execGenerate c w s
  | .make c w => Sys2Proof.Machine.execMake c w s
  | .writerec c w => Sys2Proof.Machine.execWriterec c w s
  | .destroy c w => Sys2Proof.Machine.execDestroy c w s
  | .loadrec c w => Sys2Proof.Machine.execLoadrec c w s
  | .readrec c w => Sys2Proof.Machine.execReadrec c w s
  | .attest c w => Sys2Proof.Machine.execAttest c w s
  | .keyExtract c w => Sys2Proof.Machine.execKeyExtract c w s
  | .ciphBlock c w => Sys2Proof.Machine.execCiphBlock c w s
  | .ciphStream c w => Sys2Proof.Machine.execCiphStream c w s
  | .hashStream c w => Sys2Proof.Machine.execHashStream c w s
  | .hashRegisters c w => Sys2Proof.Machine.execHashRegisters c w s
  | .fmtCheck c w twinOk => Sys2Proof.Machine.execFmtCheck c w twinOk s
  | .fmtExtract c w twinOk => Sys2Proof.Machine.execFmtExtract c w twinOk s
  | .buildPin c w twinOk => Sys2Proof.Machine.execBuildPin c w twinOk s
  | .buildPan c w twinOk => Sys2Proof.Machine.execBuildPan c w twinOk s
  | .buildBlock c w twinOk => Sys2Proof.Machine.execBuildBlock c w twinOk s
  | .decimalise c w twinOk => Sys2Proof.Machine.execDecimalise c w twinOk s
  | .deriveKey c w twin => Sys2Proof.Machine.execDeriveKey c w twin s
  | .deriveData c w twin => Sys2Proof.Machine.execDeriveData c w twin s
  | .cmpBytes c w => Sys2Proof.Machine.execCmpBytes c w s
  | .cmpSreg c w => Sys2Proof.Machine.execCmpSreg c w s
  | .cmpImm c w => Sys2Proof.Machine.execCmpImm c w s
  | .brAlways c w => Sys2Proof.Machine.execBrAlways c w s
  | .brZ c w => Sys2Proof.Machine.execBrZ c w s
  | .brNz c w => Sys2Proof.Machine.execBrNz c w s
  | .brLt c w => Sys2Proof.Machine.execBrLt c w s
  | .brNlt c w => Sys2Proof.Machine.execBrNlt c w s
  | .brFe c w => Sys2Proof.Machine.execBrFe c w s
  | .brNfe c w => Sys2Proof.Machine.execBrNfe c w s
  | .loop c w => Sys2Proof.Machine.execLoop c w s
  | .rand c w => Sys2Proof.Machine.execRand c w s
  | .done c w wrOk => Sys2Proof.Machine.execDone c w wrOk s
  | .ecKeygen c w => Sys2Proof.Machine.execEcKeygen c w s
  | .ecdsaSign c w => Sys2Proof.Machine.execEcdsaSign c w s
  | .ecdsaVerify c w => Sys2Proof.Machine.execEcdsaVerify c w s
  | .ecdh c w => Sys2Proof.Machine.execEcdh c w s
  | .eddsaSign c w => Sys2Proof.Machine.execEddsaSign c w s
  | .eddsaVerify c w => Sys2Proof.Machine.execEddsaVerify c w s
  | .rsaSignPss c w => Sys2Proof.Machine.execRsaSignPss c w s
  | .rsaSignV15 c w => Sys2Proof.Machine.execRsaSignV15 c w s
  | .rsaVerifyPss c w => Sys2Proof.Machine.execRsaVerifyPss c w s
  | .rsaVerifyV15 c w => Sys2Proof.Machine.execRsaVerifyV15 c w s
  | .rsaOaepDecrypt c w => Sys2Proof.Machine.execRsaOaepDecrypt c w s
  | .rsaOaepEncrypt c w => Sys2Proof.Machine.execRsaOaepEncrypt c w s
  | .rsaKeygen c w => Sys2Proof.Machine.execRsaKeygen c w s
  | .mlkemKeygen c w => Sys2Proof.Machine.execMlkemKeygen c w s
  | .mlkemEncaps c w => Sys2Proof.Machine.execMlkemEncaps c w s
  | .mlkemDecaps c w => Sys2Proof.Machine.execMlkemDecaps c w s
  | .mldsaKeygen c w => Sys2Proof.Machine.execMldsaKeygen c w s
  | .mldsaSign c w => Sys2Proof.Machine.execMldsaSign c w s
  | .mldsaVerify c w => Sys2Proof.Machine.execMldsaVerify c w s
  | .seqBudgetExceeded c => Sys2Proof.Machine.execSeqBudgetExceeded c s
  | .programCacheFill c macOk => Sys2Proof.Machine.execProgramCacheFill c macOk s
  | .fenceHolderTimeout c => Sys2Proof.Machine.execFenceHolderTimeout c s
  | .seqFreeze n on => Sys2Proof.Machine.execSeqFreeze n on s
  | .seqPinWrite j value => Sys2Proof.Machine.execSeqPinWrite j value s
  | .laneOpComplete n lane twinOk => Sys2Proof.Machine.execLaneOpComplete n lane twinOk s
  | .hashOpComplete n twinOk => Sys2Proof.Machine.execHashOpComplete n twinOk s
  | .katComplete n unit pass twinOk => Sys2Proof.Machine.execKatComplete n unit pass twinOk s
  | .katGoLane n lanes => Sys2Proof.Machine.execKatGoLane n lanes s
  | .katGoHash n => Sys2Proof.Machine.execKatGoHash n s
  | .katGoFmt n => Sys2Proof.Machine.execKatGoFmt n s
  | .laneReseed n lane => Sys2Proof.Machine.execLaneReseed n lane s
  | .ccReset n viaRst => Sys2Proof.Machine.execCcReset n viaRst s
  | .pkHandoff p lattice => Sys2Proof.Machine.execPkHandoff p lattice s
  | .pkOpComplete p unit slot twinOk iters => Sys2Proof.Machine.execPkOpComplete p unit slot twinOk iters s
  | .pkOpAbort p unit slot => Sys2Proof.Machine.execPkOpAbort p unit slot s
  | .pkKatComplete p unit pass twinOk => Sys2Proof.Machine.execPkKatComplete p unit pass twinOk s
  | .katGoEng p engines => Sys2Proof.Machine.execKatGoEng p engines s
  | .katGoLu p => Sys2Proof.Machine.execKatGoLu p s
  | .pkFreeze p on => Sys2Proof.Machine.execPkFreeze p on s
  | .pkReset p viaRst => Sys2Proof.Machine.execPkReset p viaRst s
  | .keyFill c macBad => Sys2Proof.Machine.execKeyFill c macBad s
  | .fenceRaise c => Sys2Proof.Machine.execFenceRaise c s
  | .fenceComplete fence => Sys2Proof.Machine.execFenceComplete fence s
  | .fenceOvertime fence => Sys2Proof.Machine.execFenceOvertime fence s
  | .sweeperStep => Sys2Proof.Machine.execSweeperStep s
  | .remaskPeriod n seeded => Sys2Proof.Machine.execRemaskPeriod n seeded s
  | .mmkRemask => Sys2Proof.Machine.execMmkRemask s
  | .aptWindowClose cell count => Sys2Proof.Machine.execAptWindowClose cell count s
  | .repetitionCountFail cell => Sys2Proof.Machine.execRepetitionCountFail cell s
  | .cellRestartTest cell count repeated => Sys2Proof.Machine.execCellRestartTest cell count repeated s
  | .drbgInstantiate n core => Sys2Proof.Machine.execDrbgInstantiate n core s
  | .drbgReseed n => Sys2Proof.Machine.execDrbgReseed n s
  | .drbgGenerate n twinOk => Sys2Proof.Machine.execDrbgGenerate n twinOk s
  | .rngNotReadyTimeout c => Sys2Proof.Machine.execRngNotReadyTimeout c s
  | .obsSeedRefresh => Sys2Proof.Machine.execObsSeedRefresh s
  | .hbmInit stack => Sys2Proof.Machine.execHbmInit stack s
  | .hbmKeyDraw stack => Sys2Proof.Machine.execHbmKeyDraw stack s
  | .protReady stack => Sys2Proof.Machine.execProtReady stack s
  | .workReady stack => Sys2Proof.Machine.execWorkReady stack s
  | .hbmReadComplete a use bank row found twins victim => Sys2Proof.Machine.execHbmReadComplete a use bank row found twins victim s
  | .hbmWrite a use data twins => Sys2Proof.Machine.execHbmWrite a use data twins s
  | .scrubStep stack bank row found twins => Sys2Proof.Machine.execScrubStep stack bank row found twins s
  | .hbmTempHigh stack temp => Sys2Proof.Machine.execHbmTempHigh stack temp s
  | .pprGo stack target => Sys2Proof.Machine.execPprGo stack target s
  | .migrateOut stack poisoned => Sys2Proof.Machine.execMigrateOut stack poisoned s
  | .pprProgram stack ok => Sys2Proof.Machine.execPprProgram stack ok s
  | .pprVerify stack ok => Sys2Proof.Machine.execPprVerify stack ok s
  | .migrateBack stack => Sys2Proof.Machine.execMigrateBack stack s
  | .arbGrant unit requests beats => Sys2Proof.Machine.execArbGrant unit requests beats s
  | .arbWindowBoundary unit => Sys2Proof.Machine.execArbWindowBoundary unit s
  | .arbTransferEnd unit => Sys2Proof.Machine.execArbTransferEnd unit s
  | .arbFreeze reg value => Sys2Proof.Machine.execArbFreeze reg value s
  | .starve unit requester => Sys2Proof.Machine.execStarve unit requester s
  | .partCmdFreeze part => Sys2Proof.Machine.execPartCmdFreeze part s
  | .partCmdThaw part => Sys2Proof.Machine.execPartCmdThaw part s
  | .partCmdDrain part => Sys2Proof.Machine.execPartCmdDrain part s
  | .freezeComplete part => Sys2Proof.Machine.execFreezeComplete part s
  | .drainComplete part => Sys2Proof.Machine.execDrainComplete part s
  | .mpuAccess m kind addr len tag data => Sys2Proof.Machine.execMpuAccess m kind addr len tag data s
  | .mpuCommitDrain m => Sys2Proof.Machine.execMpuCommitDrain m s
  | .mpuDrainOvertime m => Sys2Proof.Machine.execMpuDrainOvertime m s
  | .stagingWrite fn change => Sys2Proof.Machine.execStagingWrite fn change s
  | .gateSeal => Sys2Proof.Machine.execGateSeal s
  | .gateAbandon => Sys2Proof.Machine.execGateAbandon s
  | .approvalVerified index wrOk => Sys2Proof.Machine.execApprovalVerified index wrOk s
  | .gateApply => Sys2Proof.Machine.execGateApply s
  | .gateComplete => Sys2Proof.Machine.execGateComplete s
  | .gateWindowExpire => Sys2Proof.Machine.execGateWindowExpire s
  | .monitorSample tempA tempB samples => Sys2Proof.Machine.execMonitorSample tempA tempB samples s
  | .shadowScan mismatch => Sys2Proof.Machine.execShadowScan mismatch s
  | .obsAck => Sys2Proof.Machine.execObsAck s
  | .mainPowerLoss held => Sys2Proof.Machine.execMainPowerLoss held s
  | .powerOn => Sys2Proof.Machine.execPowerOn s
  | .lcsGo target testIdx => Sys2Proof.Machine.execLcsGo target testIdx s
  | .testOpenEntry testIdx => Sys2Proof.Machine.execTestOpenEntry testIdx s
  | .lcsTransitionComplete => Sys2Proof.Machine.execLcsTransitionComplete s
  | .dbgNonceExpire => Sys2Proof.Machine.execDbgNonceExpire s
  | .debugOpen => Sys2Proof.Machine.execDebugOpen s
  | .plCapWrite cap => Sys2Proof.Machine.execPlCapWrite cap s
  | .levelChangeStart => Sys2Proof.Machine.execLevelChangeStart s
  | .avsAck status atTarget => Sys2Proof.Machine.execAvsAck status atTarget s
  | .relockDone => Sys2Proof.Machine.execRelockDone s
  | .avsTimeout => Sys2Proof.Machine.execAvsTimeout s
  | .avsRetry => Sys2Proof.Machine.execAvsRetry s
  | .plFailClear => Sys2Proof.Machine.execPlFailClear s
  | .thermalSample readings vddMv => Sys2Proof.Machine.execThermalSample readings vddMv s
  | .thermalCapFall => Sys2Proof.Machine.execThermalCapFall s
  | .thermalCapRise => Sys2Proof.Machine.execThermalCapRise s
  | .idleGate island => Sys2Proof.Machine.execIdleGate island s
  | .islandUngate island => Sys2Proof.Machine.execIslandUngate island s
  | .clusterPowerOff cluster => Sys2Proof.Machine.execClusterPowerOff cluster s
  | .clusterPowerOn cluster => Sys2Proof.Machine.execClusterPowerOn cluster s
  | .sleepEntry => Sys2Proof.Machine.execSleepEntry s
  | .wakeTlp port => Sys2Proof.Machine.execWakeTlp port s
  | .wakePattern k => Sys2Proof.Machine.execWakePattern k s
  | .wakeSmbus => Sys2Proof.Machine.execWakeSmbus s
  | .relSd => Sys2Proof.Machine.execRelSd s
  | .relCard => Sys2Proof.Machine.execRelCard s
  | .claimTie => Sys2Proof.Machine.execClaimTie s
  | .stuckClaim => Sys2Proof.Machine.execStuckClaim s
  | .claimConflict => Sys2Proof.Machine.execClaimConflict s
  | .demote => Sys2Proof.Machine.execDemote s
  | .hostloss => Sys2Proof.Machine.execHostloss s
  | .healthReportSend => Sys2Proof.Machine.execHealthReportSend s
  | .healthReportReceive report => Sys2Proof.Machine.execHealthReportReceive report s
  | .reportLost => Sys2Proof.Machine.execReportLost s
  | .selfTestStep result => Sys2Proof.Machine.execSelfTestStep result s
  | .deltaApply dseq delta => Sys2Proof.Machine.execDeltaApply dseq delta s
  | .deltaAck dseq => Sys2Proof.Machine.execDeltaAck dseq s
  | .syncTimeout => Sys2Proof.Machine.execSyncTimeout s
  | .takeover => Sys2Proof.Machine.execTakeover s
  | .take => Sys2Proof.Machine.execTake s
  | .relinquish => Sys2Proof.Machine.execRelinquish s
  | .relinquishDrained => Sys2Proof.Machine.execRelinquishDrained s
  | .handover => Sys2Proof.Machine.execHandover s
  | .resync => Sys2Proof.Machine.execResync s
  | .linkTrained k => Sys2Proof.Machine.execLinkTrained k s
  | .handshake k h => Sys2Proof.Machine.execHandshake k h s
  | .flitReceive k f => Sys2Proof.Machine.execFlitReceive k f s
  | .idleFlitSend k => Sys2Proof.Machine.execIdleFlitSend k s
  | .linkSilence k => Sys2Proof.Machine.execLinkSilence k s
  | .keyRatchet k sends => Sys2Proof.Machine.execKeyRatchet k sends s
  | .linkRetry k => Sys2Proof.Machine.execLinkRetry k s
  | .wakeSend k => Sys2Proof.Machine.execWakeSend k s
  | .fvlSoftReset k => Sys2Proof.Machine.execFvlSoftReset k s
  | .enrolmentCatchupDone => Sys2Proof.Machine.execEnrolmentCatchupDone s
  | .delayExchange k delay members parentTime depth => Sys2Proof.Machine.execDelayExchange k delay members parentTime depth s
  | .ppsEdge => Sys2Proof.Machine.execPpsEdge s
  | .dtStale => Sys2Proof.Machine.execDtStale s
  | .replMessage k origin seq part handle line => Sys2Proof.Machine.execReplMessage k origin seq part handle line s
  | .scheduleReceive part seq epoch ts tov => Sys2Proof.Machine.execScheduleReceive part seq epoch ts tov s
  | .cancelReceive part seq => Sys2Proof.Machine.execCancelReceive part seq s
  | .epochBoundary part => Sys2Proof.Machine.execEpochBoundary part s
  | .forwardSend input => Sys2Proof.Machine.execForwardSend input s
  | .forwardRequest k tag part desc => Sys2Proof.Machine.execForwardRequest k tag part desc s
  | .forwardResponse k tag answer output wrOk => Sys2Proof.Machine.execForwardResponse k tag answer output wrOk s
  | .perstAssert => Sys2Proof.Machine.execPerstAssert s
  | .perstRelease => Sys2Proof.Machine.execPerstRelease s
  | .bootEnd => Sys2Proof.Machine.execBootEnd s
  | .modReset value => Sys2Proof.Machine.execModReset value s
  | .watchdogExpire => Sys2Proof.Machine.execWatchdogExpire s
  | .wdogKick => Sys2Proof.Machine.execWdogKick s
  | .smbusReceiveByte => Sys2Proof.Machine.execSmbusReceiveByte s
  | .smbusTransaction => Sys2Proof.Machine.execSmbusTransaction s
  | .create slot => Sys2Proof.Machine.execCreate slot s
  | .ready slot => Sys2Proof.Machine.execReady slot s
  | .delay slot ticks => Sys2Proof.Machine.execDelay slot ticks s
  | .block slot => Sys2Proof.Machine.execBlock slot s
  | .free slot => Sys2Proof.Machine.execFree slot s
  | .setprio slot prio => Sys2Proof.Machine.execSetprio slot prio s
  | .nextRead core => Sys2Proof.Machine.execNextRead core s
  | .schedTick => Sys2Proof.Machine.execSchedTick s
  | .hold value => Sys2Proof.Machine.execHold value s
  | .coreReset cores => Sys2Proof.Machine.execCoreReset cores s
  | .compareFire unit => Sys2Proof.Machine.execCompareFire unit s
  | .featureClaim feature value => Sys2Proof.Machine.execFeatureClaim feature value s
  | .cardPresenceChange port present => Sys2Proof.Machine.execCardPresenceChange port present s
  | .atrTimeout port => Sys2Proof.Machine.execAtrTimeout port s
  | .cardClockStop port => Sys2Proof.Machine.execCardClockStop port s
  | .approveGo => Sys2Proof.Machine.execApproveGo s
  | .cardResponse port answer => Sys2Proof.Machine.execCardResponse port answer s
  | .keypadPinEntry pin => Sys2Proof.Machine.execKeypadPinEntry pin s
  | .approveTimeout => Sys2Proof.Machine.execApproveTimeout s
  | .sdInsert m => Sys2Proof.Machine.execSdInsert m s
  | .sdRemove => Sys2Proof.Machine.execSdRemove s
  | .sdBusyEnd block wrOk => Sys2Proof.Machine.execSdBusyEnd block wrOk s
  | .sdBusyTimeout => Sys2Proof.Machine.execSdBusyTimeout s
  | .pinClaim feature value => Sys2Proof.Machine.execPinClaim feature value s
  | .agateWindowClose => Sys2Proof.Machine.execAgateWindowClose s
  | .windowOverdue => Sys2Proof.Machine.execWindowOverdue s
  | .hclr => Sys2Proof.Machine.execHclr s
  | .tapInstructionLoad opcode => Sys2Proof.Machine.execTapInstructionLoad opcode s
  | .tapReset => Sys2Proof.Machine.execTapReset s
  | .stageProgramImage c run => Sys2Proof.Machine.execStageProgramImage c run s
  | .stageFormatEntry c run => Sys2Proof.Machine.execStageFormatEntry c run s
  | .stageDerivationEntry c run => Sys2Proof.Machine.execStageDerivationEntry c run s
  | .stageCurveEntry c run => Sys2Proof.Machine.execStageCurveEntry c run s
  | .approveChange c run => Sys2Proof.Machine.execApproveChange c run s
  | .readChangeRecord c run => Sys2Proof.Machine.execReadChangeRecord c run s
  | .stageLifeCycleCommand c run => Sys2Proof.Machine.execStageLifeCycleCommand c run s
  | .debugChallenge c run => Sys2Proof.Machine.execDebugChallenge c run s
  | .debugResponse c run => Sys2Proof.Machine.execDebugResponse c run s
  | .enterSleepS2 c run => Sys2Proof.Machine.execEnterSleepS2 c run s
  | .enterSleepS3 c run => Sys2Proof.Machine.execEnterSleepS3 c run s
  | .domainCreate c run => Sys2Proof.Machine.execDomainCreate c run s
  | .domainJoin c run sponsor => Sys2Proof.Machine.execDomainJoin c run sponsor s
  | .domainLeave c run => Sys2Proof.Machine.execDomainLeave c run s
  | .scheduleEpoch c run => Sys2Proof.Machine.execScheduleEpoch c run s
  | .cancelEpoch c run late => Sys2Proof.Machine.execCancelEpoch c run late s
  | .reProvision c run => Sys2Proof.Machine.execReProvision c run s
  | .restoreFirmwareChunk c run => Sys2Proof.Machine.execRestoreFirmwareChunk c run s
  | .stageServiceApplet c run => Sys2Proof.Machine.execStageServiceApplet c run s
  | .journalAppend c run => Sys2Proof.Machine.execJournalAppend c run s
  | .journalRead c run block => Sys2Proof.Machine.execJournalRead c run block s
  | .generateKey c run => Sys2Proof.Machine.execGenerateKey c run s
  | .destroyKey c run => Sys2Proof.Machine.execDestroyKey c run s
  | .loadRecords c run => Sys2Proof.Machine.execLoadRecords c run s
  | .readRecord c run => Sys2Proof.Machine.execReadRecord c run s
  | .keyBlockImport c run => Sys2Proof.Machine.execKeyBlockImport c run s
  | .keyBlockExport c run => Sys2Proof.Machine.execKeyBlockExport c run s
  | .keyBlockTranslate c run => Sys2Proof.Machine.execKeyBlockTranslate c run s
  | .attestKey c run => Sys2Proof.Machine.execAttestKey c run s
  | .checkValue c run => Sys2Proof.Machine.execCheckValue c run s
  | .tableRollBegin c run => Sys2Proof.Machine.execTableRollBegin c run s
  | .tableRollRewrap c run => Sys2Proof.Machine.execTableRollRewrap c run s
  | .tableRollFinish c run => Sys2Proof.Machine.execTableRollFinish c run s
  | .tableRollConfirm c run => Sys2Proof.Machine.execTableRollConfirm c run s
  | .readReplicationLog c run => Sys2Proof.Machine.execReadReplicationLog c run s
  | .pinTranslateF0F4 c run => Sys2Proof.Machine.execPinTranslateF0F4 c run s
  | .pinTranslate c run => Sys2Proof.Machine.execPinTranslate c run s
  | .pinVerifyOffset c run => Sys2Proof.Machine.execPinVerifyOffset c run s
  | .pinVerifyPvv c run => Sys2Proof.Machine.execPinVerifyPvv c run s
  | .pvvGenerate c run => Sys2Proof.Machine.execPvvGenerate c run s
  | .pinTranslateFromDukpt c run => Sys2Proof.Machine.execPinTranslateFromDukpt c run s
  | .cvvVerify c run => Sys2Proof.Machine.execCvvVerify c run s
  | .cvvGenerate c run => Sys2Proof.Machine.execCvvGenerate c run s
  | .arqcVerify c run => Sys2Proof.Machine.execArqcVerify c run s
  | .arqcVerifyArpc1Tdes c run => Sys2Proof.Machine.execArqcVerifyArpc1Tdes c run s
  | .arqcVerifyArpc1Aes c run => Sys2Proof.Machine.execArqcVerifyArpc1Aes c run s
  | .arqcVerifyArpc2 c run => Sys2Proof.Machine.execArqcVerifyArpc2 c run s
  | .dukptInitialKeyExport c run => Sys2Proof.Machine.execDukptInitialKeyExport c run s
  | .dukptDataDecrypt c run => Sys2Proof.Machine.execDukptDataDecrypt c run s
  | .dukptMacVerify c run => Sys2Proof.Machine.execDukptMacVerify c run s
  | .ff1Tokenise c run => Sys2Proof.Machine.execFf1Tokenise c run s
  | .ff1Detokenise c run => Sys2Proof.Machine.execFf1Detokenise c run s
  | .cmacGenerate c run => Sys2Proof.Machine.execCmacGenerate c run s
  | .cmacVerify c run => Sys2Proof.Machine.execCmacVerify c run s
  | .hmacGenerate c run => Sys2Proof.Machine.execHmacGenerate c run s
  | .hmacVerify c run => Sys2Proof.Machine.execHmacVerify c run s
  | .retailMacGenerate c run => Sys2Proof.Machine.execRetailMacGenerate c run s
  | .retailMacVerify c run => Sys2Proof.Machine.execRetailMacVerify c run s
  | .ecdsaSignWrapper c run => Sys2Proof.Machine.execEcdsaSignWrapper c run s
  | .ecdsaVerifyWrapper c run => Sys2Proof.Machine.execEcdsaVerifyWrapper c run s
  | .eddsaSignWrapper c run => Sys2Proof.Machine.execEddsaSignWrapper c run s
  | .eddsaVerifyWrapper c run => Sys2Proof.Machine.execEddsaVerifyWrapper c run s
  | .rsaSignWrapper c run => Sys2Proof.Machine.execRsaSignWrapper c run s
  | .rsaVerifyWrapper c run => Sys2Proof.Machine.execRsaVerifyWrapper c run s
  | .rsaOaepDecryptWrapper c run => Sys2Proof.Machine.execRsaOaepDecryptWrapper c run s
  | .ecdhWrapper c run => Sys2Proof.Machine.execEcdhWrapper c run s
  | .mlkemEncapsulateWrapper c run => Sys2Proof.Machine.execMlkemEncapsulateWrapper c run s
  | .mlkemDecapsulateWrapper c run => Sys2Proof.Machine.execMlkemDecapsulateWrapper c run s
  | .mldsaSignWrapper c run => Sys2Proof.Machine.execMldsaSignWrapper c run s
  | .mldsaVerifyWrapper c run => Sys2Proof.Machine.execMldsaVerifyWrapper c run s
  | .blockReady block => Sys2Proof.Machine.execBlockReady block s
  | .interlockInputChange claimIn healthIn => Sys2Proof.Machine.execInterlockInputChange claimIn healthIn s
  | .backupSourceChange aux vbat cell cellLow held => Sys2Proof.Machine.execBackupSourceChange aux vbat cell cellLow held s
  | .vddCoreLoss => Sys2Proof.Machine.execVddCoreLoss s
  | .latchingRead fn r => Sys2Proof.Machine.execLatchingRead fn r s

end Sys2Proof.Machine
end

