-- ==== Sys2Proof/Machine/Tick.lean ====
section
/-! DEFINITION. The passing of time: what happens when no command waits. -/
namespace Sys2Proof.Machine

/-- One Quartz tick of 5 ns (R409): NOW counts on while the core die has power; Obsidian's own oscillator runs always, at 50 ps units, within 2 % of
its nominal rate (Table 11.3). -/
def State.tick (s : State) : State :=
  { s with
    quartz := if s.bt.vigil || s.bt.vddLow then s.quartz else s.quartz + 5
    ob.osc := s.ob.osc + 98 + Config.oscDrift s.ob.osc % 5 }

end Sys2Proof.Machine
end

