-- ==== Sys2Proof/Safety.lean ====
section
/-! DEFINITION. What counts as a safe run, and the words in which the statements say what a command leaves alone. -/
namespace Sys2Proof

open Sys2Proof.Machine

/-- Does a step answer a next state? -/
def runs (s : State) : Prop := ∃ t, step s = .next t

/-- A run of `n` steps answers a next state at each. -/
def safeRun : Nat → State → Prop
  | 0, _ => True
  | n + 1, s => ∃ t, step s = .next t ∧ safeRun n t

/-- Every register field but those listed holds what it held. -/
def keeps (fs : List Field) (s t : State) : Prop := ∀ f : Field, (∀ g ∈ fs, g.key ≠ f.key) → t.get f = s.get f

/-- What was sent to the outside between two states is MSI-X messages and nothing else (R58). -/
def sentMsix (s t : State) : Prop := ∃ ms : List Output, t.out = s.out ++ ms ∧ ∀ m ∈ ms, ∃ f v, m = .msix f v

/-- Nothing differs but the register fields listed and the MSI-X messages sent or left pending. -/
def onlyFields (fs : List Field) (s t : State) : Prop :=
  keeps fs s t ∧ sentMsix s t ∧ t = { s with regs := t.regs, out := t.out, hq := { s.hq with msixPend := t.hq.msixPend } }

/-- The INT_RAW bits of page `p` in `t` are those of `s` and the bits listed. -/
def raised (p : Nat) (bits : List Nat) (s t : State) : Prop :=
  ∀ j < 32, t.bit (R.BLK_INT_RAW p) j = (s.bit (R.BLK_INT_RAW p) j || bits.contains j)

/-- Only context `k` differs, and of the registers the issue and retire counts of its sequencer: no unit, key, memory, queue or output. -/
def onlyContext (k : Nat) (s t : State) : Prop :=
  (∀ j, j ≠ k → t.ctx j = s.ctx j) ∧ keeps [R.SEQ_ISSUE_CNT (clusterOf k), R.SEQ_RETIRE_CNT (clusterOf k)] s t ∧
  t = { s with regs := t.regs, sq := { s.sq with ctxs := t.sq.ctxs } }

/-- An instruction retires: context `k` stands as `y`, PC moved on by one and one more instruction retired, `slots` issue slots are counted, and
nothing else changes. -/
def retires (k slots : Nat) (y : Context) (s t : State) : Prop :=
  t.ctx k = { y with pc := (y.pc + 1) % 256, retired := y.retired + 1 } ∧
  t.get (R.SEQ_ISSUE_CNT (clusterOf k)) = (s.get (R.SEQ_ISSUE_CNT (clusterOf k)) + slots) % 2 ^ 32 ∧
  t.get (R.SEQ_RETIRE_CNT (clusterOf k)) = (s.get (R.SEQ_RETIRE_CNT (clusterOf k)) + 1) % 2 ^ 32 ∧ onlyContext k s t

/-- A branch retires: as `retires`, with PC at `pc`. -/
def branches (k pc : Nat) (y : Context) (s t : State) : Prop :=
  t.ctx k = { y with pc := pc, retired := y.retired + 1 } ∧
  t.get (R.SEQ_ISSUE_CNT (clusterOf k)) = (s.get (R.SEQ_ISSUE_CNT (clusterOf k)) + 1) % 2 ^ 32 ∧
  t.get (R.SEQ_RETIRE_CNT (clusterOf k)) = (s.get (R.SEQ_RETIRE_CNT (clusterOf k)) + 1) % 2 ^ 32 ∧ onlyContext k s t

/-- What an instruction that ends its command leaves: the ending, once the earlier operations of its context have completed; until then it has not
occurred (R91, R98; log 228). -/
def whenSettled (s : State) (k : Nat) (ended : State) : State := if s.settled k then ended else s

/-- The same machine with the same contexts, whatever the order they are listed in. -/
def sameContexts (s t : State) : Prop := (∀ j, t.ctx j = s.ctx j) ∧ t = { s with sq := { s.sq with ctxs := t.sq.ctxs } }

/-- A message leaves on a link, in flits, and nothing else is sent; without a link nothing is. -/
def told (link : Option Nat) (o : Nat → Output) (s t : State) : Prop :=
  match link with
  | none => t.out = s.out
  | some k => ∃ fs : List (List Byte), t.out = s.out ++ fs.map (Output.flit k) ++ [o k]

/-- Queue pair `q` of partition `p` halts with a cause (Table 2.3): it stands HALTED, nothing else of it and no other pair differs; the QHALT event of its
partition stands, for partition 0 HQE INT_RAW bit 0 too; and beyond that messages are sent at most, and Agate notes the severity. -/
def halts (p q err : Nat) (s t : State) : Prop :=
  t.qp p q = { s.qp p q with qstate := .halted, qerr := err } ∧ (∀ p' q', qpKey p' q' ≠ qpKey p q → t.qp p' q' = s.qp p' q') ∧
  (∃ e, t.part p = { s.part p with pevt := e } ∧ bitOf e 0 = true) ∧ (∀ p', p' ≠ p → t.part p' = s.part p') ∧
  (p = 0 → t.bit (R.BLK_INT_RAW pgHQE) 0 = true) ∧ keeps [R.BLK_INT_RAW pgHQE, R.AGT_OPEN_SEV] s t ∧ sentMsix s t ∧
  t = { s with hq := { s.hq with qps := t.hq.qps, msixPend := t.hq.msixPend }, parts := t.parts, regs := t.regs, out := t.out, ag := t.ag }

/-- No island holds up a command that crosses into the island of page `p`. -/
def reachable (s : State) (p : Nat) : Prop := s.responds p = true ∧ s.relocks (islandOf p) = false
deriving Decidable

/-- The PKX instructions: their OPER, their context and their word. -/
def pkxInstr : Instr → Option (Nat × Ctx × Insn)
  | .ecKeygen c w => some (0x01, c, w)
  | .ecdsaSign c w => some (0x02, c, w)
  | .ecdsaVerify c w => some (0x03, c, w)
  | .ecdh c w => some (0x04, c, w)
  | .eddsaSign c w => some (0x05, c, w)
  | .eddsaVerify c w => some (0x06, c, w)
  | .rsaSignPss c w => some (0x10, c, w)
  | .rsaSignV15 c w => some (0x11, c, w)
  | .rsaVerifyPss c w => some (0x12, c, w)
  | .rsaVerifyV15 c w => some (0x13, c, w)
  | .rsaOaepDecrypt c w => some (0x14, c, w)
  | .rsaOaepEncrypt c w => some (0x15, c, w)
  | .rsaKeygen c w => some (0x16, c, w)
  | .mlkemKeygen c w => some (0x20, c, w)
  | .mlkemEncaps c w => some (0x21, c, w)
  | .mlkemDecaps c w => some (0x22, c, w)
  | .mldsaKeygen c w => some (0x28, c, w)
  | .mldsaSign c w => some (0x29, c, w)
  | .mldsaVerify c w => some (0x2A, c, w)
  | _ => none

/-- The FMT instructions whose twin results agree: their OP, their context and their word. -/
def fmtInstr : Instr → Option (Nat × Ctx × Insn × Bool)
  | .fmtCheck c w ok => some (0, c, w, ok)
  | .fmtExtract c w ok => some (1, c, w, ok)
  | .buildPin c w ok => some (2, c, w, ok)
  | .buildPan c w ok => some (3, c, w, ok)
  | .buildBlock c w ok => some (4, c, w, ok)
  | .decimalise c w ok => some (5, c, w, ok)
  | _ => none

end Sys2Proof
end

