-- ==== Sys2Proof/Answers.lean ====
section
/-! DEFINITION. What the shipped programs answer, as plain functions of their input, their keys and the random bytes, for the statements to compare a run with; and when a program runs. -/
namespace Sys2Proof

open Sys2Proof.Machine

/-! ## A program that runs -/

/-- Context `c` runs program `slot` with its input received, and nothing holds it up or ends it early: no twin results differ, the key table is ready, no
epoch schedule of its partition is due, the cluster does not relock, its crossbars are not frozen (R253), every unit of it serves and a lane is free that does
not stall (R138), no fence has stood for 3 µs (R102), and the budget takes any count of instructions (R80). -/
def programReady (s : State) (c : Ctx) (slot : Nat) (run : ProgramRun) : Prop :=
  let x := s.ctx (ctxKey c)
  x.cmd ≠ none ∧ x.wait = .none ∧ runSlot x.desc.program = slot ∧ x.has x.desc.inLen = true ∧ run.twin = none ∧ run.pkTwin = none ∧ run.macBad = none ∧
  s.ge.ready = true ∧ (s.part x.part).epPending = none ∧
  (∀ u ∈ [4, 5], (s.unitSvc c.cc u).inService = true ∧ (s.unitSvc c.cc u).katWanted = false ∧ (s.unitSvc c.cc u).katBusy = false) ∧
  s.lanesUp c.cc ≠ [] ∧ s.freeLane c.cc ≠ none ∧ s.relocks c.cc = false ∧ s.xbarHeld c.cc = false ∧ (∀ f ∈ s.ge.fences, s.quartz < f.raised + 3000) ∧
  x.retired + 2 ^ 16 ≤ s.budget
deriving Decidable

/-- The two wires of a key carry it (R128), and an AES key has a length that AES knows. -/
def carries (s : State) (n : Nat) (y : KeySlot) : Prop :=
  (s.wires n y).clear = y.key.material ∧ (y.key.cls = 2 → y.key.material.length = 16 ∨ y.key.material.length = 24 ∨ y.key.material.length = 32)
deriving Decidable

/-- The key of a descriptor field may be fetched for a use, it and its ancestors are resident, and its entry in the slice carries it. -/
def keyReady (s : State) (c : Ctx) (field cls mask : Nat) (r : KeyRecord) : Prop :=
  let x := s.ctx (ctxKey c)
  (∃ q ∈ (s.judgeFetch x.part (x.desc.keyField field) cls mask).toOption, q.1 = r ∧ s.missing c.cc q.2 = []) ∧
  carries s c.cc { key := r.key, line := some (lineKey x.part (x.desc.keyField field)) }
deriving Decidable

/-- A single TDES or AES key. -/
def cipherKeyReady (s : State) (c : Ctx) (field cls mask : Nat) (r : KeyRecord) : Prop :=
  keyReady s c field cls mask r ∧ (r.key.cls = 1 ∨ r.key.cls = 2) ∧ r.key.ktype = .secret ∧ r.key.sel = 0
deriving Decidable

/-- Quota and slice have room for four more ephemeral keys of one entry. -/
def roomForKeys (s : State) (c : Ctx) : Prop :=
  let p := (s.ctx (ctxKey c)).part
  s.ephUsed p + 4 ≤ (s.part p).ephQuota ∧ s.entriesUsed c.cc + 4 ≤ 4096
deriving Decidable

/-- The record of a descriptor field serves a Geode operation (R208): what its chain lacks in the slice can be filled, and no line of it fails. -/
def chainReady (s : State) (c : Ctx) (field : Nat) : Prop :=
  let x := s.ctx (ctxKey c)
  let h := x.desc.keyField field
  s.geodeWalk c.cc x.part h = .ok true ∧ s.recordFails (lineKey x.part h) = false ∨
  s.geodeWalk c.cc x.part h = .ok false ∧ s.badOf none (s.missing c.cc (s.walk x.part 8 h).1) = none ∧
    s.fillChain c.cc x.part (s.walk x.part 8 h).1 ≠ none

/-- The program of a context, for the parts of its input. -/
def progOf (s : State) (c : Ctx) (run : ProgramRun) : Prog := { k := ctxKey c, x := s.ctx (ctxKey c), run }

/-- The next `n` random bytes of a cluster's queue. -/
def drawn (s : State) (c : Ctx) (n : Nat) : List Byte := (s.queue c.cc).take n

/-- While context `k` runs a program that writes no record, nothing else changes: its command and RESULT stand, no other context, line of the key table,
partition, queue pair or byte of memory differs, and nothing is sent. -/
def duringRun (k : Nat) (s v : State) : Prop :=
  (v.ctx k).cmd = (s.ctx k).cmd ∧ (v.ctx k).result = (s.ctx k).result ∧ (v.ctx k).delta = (s.ctx k).delta ∧ (∀ j, j ≠ k → v.ctx j = s.ctx j) ∧
  v.ge.lines = s.ge.lines ∧ v.parts = s.parts ∧ v.hq = s.hq ∧ v.hb = s.hb ∧ v.out = s.out

/-- The run of program `i` writes `bs` as its output and ends its command with a status. -/
def answers (i : Instr) (s : State) (c : Ctx) (run : ProgramRun) (bs : List Byte) (status : Nat := 0) : Prop :=
  let k := ctxKey c
  ∃ (v : State) (work : Option (Nat × Nat)), duringRun k s v ∧
    exec i s = .next ((((v.output k 0 bs).countProgram k work).endCommand k status 0
      (if (s.ctx k).desc.outInline then min 16 bs.length else 0) run.wrOk).settleSeeds c.cc)

/-- The run of program `i` writes `bs` to RESULT and ends its command with status OK. -/
def answersResult (i : Instr) (s : State) (c : Ctx) (run : ProgramRun) (bs : List Byte) : Prop :=
  let k := ctxKey c
  ∃ (v : State) (work : Option (Nat × Nat)), duringRun k s v ∧
    exec i s = .next ((((v.updCtx k fun x => { x with result := overlay 0 bs x.result }).countProgram k work).endCommand k 0 0 (min 16 bs.length)
      run.wrOk).settleSeeds c.cc)

/-- The run of program `i` ends its command with a status and DETAIL, and writes nothing. -/
def endsWith (i : Instr) (s : State) (c : Ctx) (run : ProgramRun) (status detail : Nat) : Prop :=
  let k := ctxKey c
  ∃ (v : State) (work : Option (Nat × Nat)), duringRun k s v ∧ exec i s = .next (((v.countProgram k work).endCommand k status detail 0 run.wrOk).settleSeeds c.cc)

/-- The run of program `i` compares: status OK where `ok`, else AUTH_FAIL (R119). -/
def compares (i : Instr) (s : State) (c : Ctx) (run : ProgramRun) (ok : Bool) (status : Nat := 0) : Prop :=
  endsWith i s c run (if ok then status else stAuthFail) 0

/-! ## Keys and blocks -/

/-- One block encrypted or decrypted under a TDES or AES key. -/
def enc (k : Key) (b : List Byte) : List Byte := blkEnc (b2n (k.cls == 1)) k.material b
def dec (k : Key) (b : List Byte) : List Byte := blkDec (b2n (k.cls == 1)) k.material b

/-- The output of a shipped derivation entry. -/
def dk (i : Nat) (material a b : List Byte) : List Byte := (shippedDer i).output material a b

/-- The MAC of EMV and DUKPT under a key of a class. -/
def mac (cls method : Nat) (material m : List Byte) : List Byte :=
  if cls = 1 then rmac material (isoPad method 8 true m) else cmac 0 material m

/-- A format operation: its value and PIN length, or its check code. -/
def applied (f : FmtEntry) (op count pinLen : Nat) (a b inp : List Byte) : Except Nat (List Byte × Nat) :=
  (f.apply op count pinLen a b inp).map fun r => (r.1.getD [], r.2.getD pinLen)

/-! ## PIN programs -/

/-- The digits of a PAN field, where its count is 12 to 19 and its packing right. -/
def panDigits (e : Prog) (off : Nat) : Option (List Nat) :=
  if 12 ≤ e.byte off ∧ e.byte off ≤ 19 then decimalField (e.byte off) (e.input (off + 1) 10) else none

/-- The canonical PIN of an encrypted block and its length. -/
def openedPin (f : FmtEntry) (k : Key) (block : List Byte) (count : Nat) (pan : List Byte) : Except Nat (List Byte × Nat) :=
  let b := dec k block
  if f.wide = true ∧ f.panRule = 2 then
    match applied f 3 count 0 pan [] [] with
    | .ok p => applied f 1 count 0 (dec k (xorBytes b p.1)) pan []
    | .error e => .error e
  else applied f 1 count 0 (fitBytes 16 b) pan []

/-- The encrypted block of a canonical PIN, with the random bytes of an entry that takes some. -/
def sealedPin (f : FmtEntry) (k : Key) (pin : List Byte × Nat) (count : Nat) (pan rand : List Byte) : Except Nat (List Byte) :=
  if f.wide then
    match applied f 2 count pin.2 pin.1 rand [] with
    | .error e => .error e
    | .ok x =>
      if f.panRule = 2 then (applied f 3 count 0 pan [] []).map fun p => enc k (xorBytes (enc k x.1) p.1) else .ok (enc k x.1)
  else (applied f 4 count pin.2 pin.1 rand pan).map fun x => enc k (x.1.take 8)

/-- The random bytes an entry takes of those that come next. -/
def pinRandom (f : FmtEntry) (s : State) (c : Ctx) : List Byte := if f.randomised then drawn s c 16 else []

/-- The digits DECIMALISE of entry 16 or 17 gives of a block. -/
def decimalised (i : Nat) (b : List Byte) : Except Nat (List Nat) :=
  (applied (shippedFmt i) 5 0 0 (fitBytes 16 b) [] []).map fun d => (nibbles d.1).take d.2

/-- The PVV of a PAN, a key index and a PIN. -/
def pvvOf (k : Key) (pan : List Nat) (index : Nat) (pin : List Nat) : Except Nat (List Nat) :=
  let body := pan.take (pan.length - 1)
  (decimalised 17 (enc k (packNibbles (body.drop (body.length - 11) ++ [index] ++ pin.take 4)))).map (·.take 4)

/-- The block the CVV method decimalises, under the halves of a two-key TDES key. -/
def cvvBlock (material : List Byte) (ds : List Nat) : List Byte :=
  let a : Key := { cls := 1, material := dk 0x28 material [] [] }
  let b : Key := { cls := 1, material := dk 0x29 material [] [] }
  let data := packNibbles (ds ++ List.replicate (32 - ds.length) 0)
  enc a (dec b (enc a (xorBytes (enc a (data.take 8)) (data.drop 8))))

/-! ## EMV and DUKPT -/

/-- The session key of an application cryptogram. -/
def sessionOf (k : Key) (panBlock diversifier : List Byte) : List Byte :=
  let icc := dk (if k.cls = 1 then 0x19 else 0x18) k.material (fitBytes 16 panBlock) []
  dk (if k.cls = 1 then 0x21 else 0x20) icc (fitBytes 16 diversifier) []

/-- The initial key of a DUKPT device. -/
def initialOf (q : Ksn) (wide : Bool) (material : List Byte) : List Byte :=
  dk (if q.aes then b2n wide else 0x10) material (fitBytes 16 q.initial) []

/-- The transaction key: a step for each one bit of the counter. -/
def transactionOf (q : Ksn) (wide : Bool) : List Nat → Nat → List Byte → List Byte
  | [], _, m => m
  | i :: is, v, m => transactionOf q wide is (v + 2 ^ i) (dk (if q.aes then 2 + b2n wide else 0x11) m (fitBytes 16 (q.step (v + 2 ^ i))) [])

/-- A working key. -/
def workingOf (q : Ksn) (wide : Bool) (entry : Nat) (material : List Byte) : List Byte :=
  dk entry (transactionOf q wide (oneBits q.width q.counter) 0 (initialOf q wide material)) (fitBytes 16 (q.step q.counter)) []

/-! ## Key blocks -/

/-- The MAC of a key block. -/
def blockMacOf (version : Byte) (kbpk header clear cipher : List Byte) : List Byte :=
  let m := dk (blockEntry version kbpk.length + 1) kbpk [] []
  if version = chr 'B' ∨ version = chr 'D' then cmac (2 - versionClass version) m (header ++ clear)
  else ((cbcEnc 1 m (zeros 8) (isoPad 1 8 true (header ++ cipher))).2).take 4

/-- The clear key field of a key block. -/
def blockClear (version : Byte) (kbpk : List Byte) (x : KeyBlock) : List Byte :=
  (cbcDec (2 - versionClass version) (dk (blockEntry version kbpk.length) kbpk [] [])
    (if version = chr 'B' ∨ version = chr 'D' then x.mac else x.header.take 8) x.cipher).1

/-- A key block (R124). -/
def blockOf (version : Byte) (kbpk usage : List Byte) (letter mode : Byte) (kvn : Nat) (xport : Bool) (material pad : List Byte) : List Byte :=
  let clear := beBytes 2 (8 * material.length) ++ material ++ pad
  let len := 16 + 2 * clear.length + 2 * macBytes version
  let header := [version] ++ toDecimal 4 len ++ usage ++ [letter, mode] ++ toHex (beBytes 1 kvn) ++ [chr (if xport then 'E' else 'N')] ++
    toDecimal 2 0 ++ toDecimal 2 0
  let m := blockMacOf version kbpk header clear []
  header ++ toHex (cbcEnc (2 - versionClass version) (dk (blockEntry version kbpk.length) kbpk [] []) m clear).1 ++ toHex m

/-- Bytes that pad a key of `n` bytes to whole blocks of its version. -/
def blockPad (version : Byte) (n : Nat) : Nat :=
  let b := blkLen (2 - versionClass version)
  (b - (2 + n) % b) % b

/-- What a key block gives under a KBPK (R123, checks 3 to 7): its MAC verifies, its usage and mode are a row of Table 4.11, and it holds a key of its
class; whether an optional block of it is ignored. -/
def blockGives (s : State) (kbpk : Key) (cs : List Byte) (k : Key) (ignored : Bool) : Prop :=
  let version := cs.getD 0 0
  let x := readBlock cs
  x.walked = true ∧ x.hex = true ∧ ∃ usage ∈ blockUsage (slice 5 2 cs) (cs.getD 8 0), ∃ cls ∈ blockClass (cs.getD 7 0), kbpk.cls = versionClass version ∧
    x.cipher ≠ [] ∧ x.cipher.length % blkLen (2 - versionClass version) = 0 ∧
    blockMacOf version kbpk.material x.header (blockClear version kbpk.material x) x.cipher = x.mac ∧
    (let clear := blockClear version kbpk.material x
     let bits := beNat (clear.take 2)
     let sel := if 4 ≤ cls then (Config.blockSel cls x.header).toNat else 0
     let type := if cls ≤ 3 then KType.secret else if s.materialFits cls .priv sel (bits / 8) then .priv else .pub
     let body : Key := { ktype := type, cls, sel, level := 6, usage,
                         attr := 2 + 2 ^ 5 + b2n (cs.getD 11 0 == chr 'E' || cs.getD 11 0 == chr 'S'), material := slice 2 (bits / 8) clear }
     bits % 8 = 0 ∧ 2 + bits / 8 ≤ clear.length ∧ s.materialFits cls type sel (bits / 8) = true ∧ k = { body with kcv := body.checkValue } ∧
     (∀ o ∈ x.options.find? (fun o => o.1 == [chr 'K', chr 'C']), slice 2 6 o.2 = toHex k.kcv) ∧
     ignored = x.options.any fun o => !interpreted o.1)
deriving Decidable

/-- A block of `n` key bytes fits the output, and its padding can be drawn. -/
def blockFits (s : State) (c : Ctx) (version : Byte) (n : Nat) : Prop :=
  blockPad version n ≤ s.queueFill c.cc ∧
  16 + 2 * (2 + n + blockPad version n) + 2 * macBytes version ≤ min 4096 (s.ctx (ctxKey c)).desc.outLen
deriving Decidable

/-! ## Records -/

/-- Key field `field` may be fetched for a use, with everything it needs resident, and slot `y` is what the FETCH loads. -/
def fetched (s : State) (c : Ctx) (field cls mask : Nat) (y : KeySlot) : Prop :=
  let x := s.ctx (ctxKey c)
  ∃ q ∈ (s.judgeFetch x.part (x.desc.keyField field) cls mask).toOption, s.missing c.cc q.2 = [] ∧
    y = { key := q.1.key, mask, field, line := some (lineKey x.part (x.desc.keyField field)), stamp := q.2 }
deriving Decidable

/-- The parent Generate key writes a record under: the scope's root, or KEY0 fetched for wrapping. -/
def parentReady (s : State) (c : Ctx) (parent : Option KeySlot) : Prop :=
  if (s.ctx (ctxKey c)).desc.key0 = noHandle then parent = none else ∃ z ∈ parent, fetched s c 0 0 useWrap z
deriving Decidable

/-- Quota and slice have room for one ephemeral key of `n` bytes. -/
def roomForKey (s : State) (c : Ctx) (n : Nat) : Prop :=
  let p := (s.ctx (ctxKey c)).part
  s.ephUsed p + keyEntries n ≤ (s.part p).ephQuota ∧ s.entriesUsed c.cc + keyEntries n ≤ 4096
deriving Decidable

/-- WRITEREC would take a key as the record of handle `h` (Table 7.9). -/
def mayWrite (s : State) (p h : Nat) (y : KeySlot) (parent : Option KeySlot) (direct5 : Bool) : Prop :=
  s.refuseWriterec p h y parent (recordLevel y.key.origin direct5 (parent.map (·.key.level)))
    (if handleScope h ≤ 1 then putBit y.key.attr 3 true else y.key.attr) = none
deriving Decidable

/-- The run of program `i` writes the record of handle `h` with this material, answers `front`, the record's lines and `back`, and ends its command
with a status; no other context changes. -/
def writesRecord (i : Instr) (s : State) (c : Ctx) (run : ProgramRun) (h : Nat) (material front back : List Byte) (status : Nat := 0) : Prop :=
  let k := ctxKey c
  let p := (s.ctx k).part
  ∃ (v : State) (work : Option (Nat × Nat)) (r : KeyRecord), (v.line (lineKey p h)).live = true ∧ (v.line (lineKey p h)).record = some r ∧
    r.key.material = material ∧ r.owner = p ∧ (v.ctx k).cmd = (s.ctx k).cmd ∧ (∀ j, j ≠ k → v.ctx j = s.ctx j) ∧
    (let bs := front ++ v.lineBytes (lineKey p h) (v.line (lineKey p h)) ++ back
     exec i s = .next ((((v.output k 0 bs).countProgram k work).endCommand k status 0
       (if (s.ctx k).desc.outInline then min 16 bs.length else 0) run.wrOk).settleSeeds c.cc))

/-! ## Public-key operations -/

/-- The operation a wrapper hands over: the key of a slot goes as its masked value alone (R170). -/
def wrapped (s : State) (c : Ctx) (v : PkWord) (y : Option KeySlot) (source rand : List Byte) : PkOp :=
  { part := (s.ctx (ctxKey c)).part, word := v, key := y.map fun z => { z.key with material := [] },
    wires := match y with | some z => s.wires c.cc z | none => {}
    source, entry := s.curveEntry (pkSel v (y.map (·.key))), crvCommits := s.pk.crvCommits, rand }

/-- The curve of an operation, if it has one. -/
def curveFor (s : State) (v : PkWord) (key : Option Key) : Option Curve :=
  if v.isEc then curveOf (pkSel v key) (s.curveEntry (pkSel v key)) else none

/-- The random bytes an operation takes: an RSA key pair those of its blocks, each other what it draws at issue. -/
def pkBytes (s : State) (run : ProgramRun) (v : PkWord) (key : Option Key) (source : List Byte) : Nat :=
  if v.oper = 0x16 then 64 * run.iters else pkRandom v key (curveFor s v key) source

/-- A program's public-key operation passes the checks of R77 and R161 and a public-key cluster has a unit for it; the key is the stored one the operation uses. -/
def wrapperReady (s : State) (c : Ctx) (run : ProgramRun) (v : PkWord) (y : Option KeySlot) (source : List Byte) : Prop :=
  let key := y.map (·.key)
  let crv := curveFor s v key
  v.encodingOk = true ∧ (∀ k ∈ key, s.pkFits v k = true) ∧ pkLenOk v key crv source source.length = true ∧ rsaMalformed v source = false ∧
  (∃ p ∈ s.pickPk v.isLattice [], s.pkQueue p v.isLattice = [] ∧ s.relocks (16 + p) = false ∧ s.pkUnitFor p (wrapped s c v y source []) ≠ none) ∧
  pkBytes s run v key source ≤ s.queueFill c.cc
deriving Decidable

/-- The compared answer of a program's public-key operation (R168): none where its two runs, blinded by different bytes of the draw, differ. -/
def wrapperAnswer (s : State) (c : Ctx) (run : ProgramRun) (v : PkWord) (y : Option KeySlot) (source : List Byte) : Option PkAnswer :=
  s.pkAnswer ((wrapped s c v y source (drawn s c (pkBytes s run v (y.map (·.key)) source))).enter 0) true

/-- A result and the secret that goes with it, if one does. -/
def gives (a : Option PkAnswer) (bs : List Byte) (sec : Option (Nat × KType × List Byte)) : Prop :=
  a = some (.done bs sec) ∨ (sec = none ∧ ∃ n ∈ List.range 1001, a = some (.signed bs n))
deriving Decidable

/-- The wrappers that sign: program, PARAM mask, context, run, operation word. -/
def signWrapper (s : State) : Instr → Option (Nat × Nat × Ctx × ProgramRun × PkWord)
  | .ecdsaSignWrapper c run => some (0x240, 0, c, run, { oper := 0x02 })
  | .eddsaSignWrapper c run => some (0x242, 0, c, run, { oper := 0x05 })
  | .rsaSignWrapper c run => let e := progOf s c run; some (0x244, 0x100C0, c, run, { oper := 0x10 + e.param 16 1, sel := e.param 6 2 })
  | .mldsaSignWrapper c run => some (0x24A, 0x1000, c, run, { oper := 0x29, pform := (progOf s c run).param 12 1 == 1 })
  | _ => none

/-- The wrappers that verify. -/
def verifyWrapper (s : State) : Instr → Option (Nat × Nat × Ctx × ProgramRun × PkWord)
  | .ecdsaVerifyWrapper c run =>
    let e := progOf s c run; some (0x241, 0x203F, c, run, { oper := 0x03, sel := e.param 0 6, extpub := e.param 13 1 == 1 })
  | .eddsaVerifyWrapper c run =>
    let x : Bool := (progOf s c run).param 13 1 == 1; some (0x243, 0x2000, c, run, { oper := 0x06, sel := if x then 3 else 0, extpub := x })
  | .rsaVerifyWrapper c run =>
    let e := progOf s c run; some (0x245, 0x120C0, c, run, { oper := 0x12 + e.param 16 1, sel := e.param 6 2, extpub := e.param 13 1 == 1 })
  | .mldsaVerifyWrapper c run =>
    let e := progOf s c run; some (0x24B, 0x20C0, c, run, { oper := 0x2A, sel := e.param 6 2, extpub := e.param 13 1 == 1 })
  | _ => none

/-- The wrappers whose shared secret becomes a record. -/
def agreeWrapper (s : State) : Instr → Option (Nat × Nat × Ctx × ProgramRun × PkWord)
  | .ecdhWrapper c run => some (0x247, 2 ^ 28 - 1, c, run, { oper := 0x04 })
  | .mlkemEncapsulateWrapper c run => some (0x248, 2 ^ 30 - 1, c, run, { oper := 0x21, sel := (progOf s c run).param 28 2 })
  | .mlkemDecapsulateWrapper c run => some (0x249, 2 ^ 28 - 1, c, run, { oper := 0x22 })
  | _ => none

/-- The slot of the stored key an operation uses, or none. -/
def wrapperSlot (s : State) (c : Ctx) (v : PkWord) (mask : Nat) (y : Option KeySlot) : Prop :=
  if v.usesKey then ∃ z ∈ y, fetched s c 0 0 mask z else y = none
deriving Decidable

end Sys2Proof
end

