-- ==== Sys2Proof/Certificates/Slice0/Obligations.lean ====
section
/-! DEFINITION. The statements for the provers, family by family: what each command does when it completes, what it leaves alone, and what holds of every step. -/
open Sys2Proof Sys2Proof.Machine

/-! ## The block: its queue, its reset, its registers -/

/-- A step with a command at the front of the queue runs that command on the state with the queue's rest.
Where it goes beyond the spec's words it rests on log 7. -/
def Obligations.StepRunsFrontCommand : Prop :=
  ∀ (c : Instr) (s : State), step { s with pending := c :: s.pending } = exec c s

/-- On an empty queue the block idles: Quartz time moves on by one period of 5 ns while the core die has power, Obsidian's oscillator by one period
of its own, and nothing else changes. That a step without a command is one tick is the model's choice.
Where it goes beyond the spec's words it rests on logs 1 and 39. -/
def Obligations.EmptyQueueIdlesOneTick : Prop :=
  ∀ s : State, s.pending = [] →
    ∃ t, step s = .next t ∧ t = { s with quartz := t.quartz, ob := { s.ob with osc := t.ob.osc } } ∧
      t.quartz = (if s.bt.vigil ∨ s.bt.vddLow then s.quartz else s.quartz + 5) ∧ s.ob.osc + 98 ≤ t.ob.osc ∧ t.ob.osc ≤ s.ob.osc + 102

/-- Reset leaves mode BOOT, no partition in the table, every queue pair DISABLED, every context free, no latch, no line in the key table, no link
open, and the register fields at the values of their tables (for example the host queue engine's caps, the fault window, the CHAL_WINDOW, the
table epoch).
Where it goes beyond the spec's words it rests on logs 37 and 38. -/
def Obligations.ResetLeavesTheTablesValues : Prop :=
  State.reset.mode = .boot ∧ (∀ p q, (State.reset.qp p q).qstate = .disabled) ∧ (∀ k, (State.reset.ctx k).cmd = none) ∧
  State.reset.tenants = [] ∧ State.reset.ob.latch = 0 ∧ (∀ k, State.reset.line k = {}) ∧ (∀ k, State.reset.linkOpen k = false) ∧
  (∀ f : Field, State.reset.get f = f.reset % 2 ^ f.width) ∧ State.reset.get R.HQE_P0_MAXGEN = 6 ∧ State.reset.get R.LCS_CHAL_WINDOW = 600 ∧
  State.reset.get R.RST_WDOG_MS = 1000 ∧ (∀ p, (State.reset.part p).tepoch = 1 ∧ (State.reset.part p).quota = 64 ∧ (State.reset.part p).pstate = .off)

/-- A 32-bit write through a PF to a page that responds leaves each stored field of the addressed word as its access code says (Table 0.5): an RW
field and an unlocked RWL field take their bits, W1C clears and W1S sets the bits written 1, RO, RWG and locked RWL fields hold. Every other field of
the module holds too, and nothing else changes but that the page's island is ungated (R19). While that island relocks, the write waits for it.
Fields that a command of their own writes, and the compare units, are apart.
Where it goes beyond the spec's words it rests on logs 12 and 13. -/
def Obligations.RegisterWriteFollowsAccessCodes : Prop :=
  (∀ (port : Fin 2) (pg : Page) (f : Field) (value : Word) (s : State),
    Page.ofAddr pg.base = some pg → f ∈ pg.fields → ownCommand f = false → compareUnit f.addr = none → f.addr / 4 < 0x1000000 →
    reachable s pg.num →
    ∃ t, exec (.registerWrite (.pf port) .bar0 (Fin.ofNat _ (f.addr / 4)) value) s = .next t ∧
      (let x := bitsOf value.toNat f.lsb f.width
       let old := s.get f
       t.get f % 2 ^ f.width = (match f.access with
         | .rw => x
         | .w1c => old &&& compl f.width x
         | .w1s => old ||| x
         | .rwl => if s.pageLocked pg.num then old else x
         | .ro | .wo | .rwg => old) % 2 ^ f.width) ∧
      keeps (pg.fields.filter (·.addr == f.addr)) s t ∧ t = { s.cross (islandOf pg.num) with regs := t.regs }) ∧
  (∀ (port : Fin 2) (word : Fin 0x1000000) (value : Word) (s : State),
    s.responds (4 * word / 0x1000) = true → s.relocks (islandOf (4 * word / 0x1000)) = true →
    exec (.registerWrite (.pf port) .bar0 word value) s =
      .next { s with pw := { s.pw with crossings := s.pw.crossings ++ [.registerWrite (.pf port) .bar0 word value] } })

/-- The common registers written, of a page that responds and whose island does not relock: INT_EN takes the value, but in the pages of MPUs 14 and 15,
which read as reset whatever is written (R281); INT_RAW bits written 1 clear;
INT_FORCE sets in INT_RAW the bits written 1 that the page's chapter defines, and no other bit. A write outside the pages or to a page that does not
respond changes nothing, and one to the shadow half no more than to ungate the island (R19, R463). INT_FORCE of an island that relocks waits for it,
and a VF's reaches no page.
Where it goes beyond the spec's words it rests on logs 13 and 19. -/
def Obligations.CommonRegistersAndIgnoredWrites : Prop :=
  ((∀ (port : Fin 2) (pg : Page) (value : Word) (s : State), Page.ofAddr pg.base = some pg → reachable s pg.num →
    ∃ t, exec (.registerWrite (.pf port) .bar0 (Fin.ofNat _ ((pg.base + 0x14) / 4)) value) s = .next t ∧
      t.get (R.BLK_INT_EN pg.num) = (if pg.num = 0x5E ∨ pg.num = 0x5F then s.get (R.BLK_INT_EN pg.num) else value.toNat) ∧
      onlyFields [R.BLK_INT_EN pg.num] (s.cross (islandOf pg.num)) t) ∧
  (∀ (port : Fin 2) (pg : Page) (value : Word) (s : State), Page.ofAddr pg.base = some pg → reachable s pg.num →
    ∃ t, exec (.registerWrite (.pf port) .bar0 (Fin.ofNat _ ((pg.base + 0x10) / 4)) value) s = .next t ∧
      (∀ j < 32, t.bit (R.BLK_INT_RAW pg.num) j = (s.bit (R.BLK_INT_RAW pg.num) j && !value.toNat.testBit j)) ∧
      onlyFields [R.BLK_INT_RAW pg.num, R.ARB_CAPT_PLACE, R.ARB_CAPT_UNIT, R.ARB_CAPT_REQ] (s.cross (islandOf pg.num)) t) ∧
  (∀ (port : Fin 2) (word : Fin 0x1000000) (value : Word) (s : State), s.responds (4 * word / 0x1000) = false →
    exec (.registerWrite (.pf port) .bar0 word value) s = .next s) ∧
  (∀ (port : Fin 2) (word : Fin 0x1000000) (value : Word) (s : State), Page.ofAddr (4 * word) = none →
    exec (.registerWrite (.pf port) .bar0 word value) s = .next s) ∧
  (∀ (port : Fin 2) (word : Fin 0x1000000) (value : Word) (s : State), reachable s (4 * word / 0x1000) → 0x800 ≤ 4 * word.val % 0x1000 →
    exec (.registerWrite (.pf port) .bar0 word value) s = .next (s.cross (islandOf (4 * word / 0x1000))))) ∧
  (∀ (port : Fin 2) (page : Fin 0x4000) (pg : Page) (value : Word) (s : State),
    Page.ofAddr (0x1000 * page) = some pg → reachable s page →
    ∃ t, exec (.intForce (.pf port) page value) s = .next t ∧
      (∀ j < 32, t.bit (R.BLK_INT_RAW page) j = (s.bit (R.BLK_INT_RAW page) j || (value.toNat.testBit j && pg.intBits.testBit j))) ∧
      onlyFields [R.BLK_INT_RAW page] (s.cross (islandOf page)) t) ∧
  (∀ (port : Fin 2) (page : Fin 0x4000) (value : Word) (s : State), s.responds page = true → s.relocks (islandOf page) = true →
    Page.ofAddr (0x1000 * page) ≠ none →
    exec (.intForce (.pf port) page value) s =
      .next { s with pw := { s.pw with crossings := s.pw.crossings ++ [.intForce (.pf port) page value] } }) ∧
  (∀ (fn : Func) (page : Fin 0x4000) (value : Word) (s : State), s.responds page = false ∨ (∃ p n, fn = .vf p n) →
    exec (.intForce fn page value) s = .next s)

/-- The pending interrupts of a page are signalled on PF vector 1,088 + its page number, whichever bit pends (R464): where a write of INT_FORCE sets a
bit of INT_RAW that was clear and is enabled, each PF whose vector is unmasked is sent that vector's message, for a PF whose vector is masked the
message is pending, and nothing else is sent. -/
def Obligations.PageInterruptsSignalTheirVector : Prop :=
  ∀ (port : Fin 2) (page : Fin 0x4000) (pg : Page) (value : Word) (j : Nat) (s : State),
    Page.ofAddr (0x1000 * page) = some pg → reachable s page → j < 32 → value.toNat.testBit j = true → pg.intBits.testBit j = true →
    s.bit (R.BLK_INT_RAW page) j = false → s.bit (R.BLK_INT_EN page) j = true →
    ∃ t, exec (.intForce (.pf port) page value) s = .next t ∧
      (∀ i : Fin 2, s.msixMasked (funcCode (.pf i)) (1088 + page) = false → .msix (.pf i) (1088 + page) ∈ t.out.drop s.out.length) ∧
      (∀ i : Fin 2, s.msixMasked (funcCode (.pf i)) (1088 + page) = true → (funcCode (.pf i), 1088 + page.val) ∈ t.hq.msixPend) ∧
      (∀ m ∈ t.out.drop s.out.length, ∃ i : Fin 2, m = .msix (.pf i) (1088 + page))

/-- A latching read returns the low half of the 64-bit count and latches its high half at the same instant (R409).
Where it goes beyond the spec's words it rests on logs 13 and 79. -/
def Obligations.LatchingReadsLatchTheHighHalf : Prop :=
  (∀ (port : Fin 2) (s : State), s.responds pgQTZ = true →
    exec (.latchingRead (.pf port) .nowLo) s =
      .next { s with out := s.out ++ [.latched 0x2100 (s.quartz % 2 ^ 32)], qz := { s.qz with nowHi := s.quartz / 2 ^ 32 % 2 ^ 32 } }) ∧
  (∀ (port : Fin 2) (s : State), s.responds (pgFVL 0) = true →
    exec (.latchingRead (.pf port) .dtLo) s =
      .next { s with out := s.out ++ [.latched 0x71208 (s.domainTime % 2 ^ 32)], qz := { s.qz with dtHi := s.domainTime / 2 ^ 32 % 2 ^ 32 } }) ∧
  (∀ (port : Fin 2) (s : State), s.responds pgSD = true →
    exec (.latchingRead (.pf port) .jcountLo) s =
      .next { s with out := s.out ++ [.latched 0x91114 (s.journalCount % 2 ^ 32)], qz := { s.qz with jcountHi := s.journalCount / 2 ^ 32 % 2 ^ 32 } })

/-- The shadow half: at primary offset + 0x800 a read gives, for the guarded fields of the register, the complement of the committed value, and 0 in
every other bit; it is 0 where the register has no guarded field (R463).
Where it goes beyond the spec's words it rests on log 14. -/
def Obligations.ShadowReadsTheComplement : Prop :=
  (∀ (port : Fin 2) (s : State), s.responds (pgHQE) = true →
    s.readWord (.pf port) 0xA0908 = 2 ^ 17 - 1 - (s.part (s.get R.HQE_PSEL)).quota % 2 ^ 17) ∧
  (∀ (port : Fin 2) (s : State), s.responds (pgSEQ 3) = true → s.readWord (.pf port) 0xA4A14 = 0) ∧
  (∀ (port : Fin 2) (pg : Page) (off : Nat) (s : State), Page.ofAddr pg.base = some pg → 0x100 ≤ off → off < 0x800 → off % 4 = 0 →
    s.responds pg.num = true → (∀ v ∈ s.fieldsAt pg off, v.guarded = false) → s.readWord (.pf port) (pg.base + off + 0x800) = 0)

/-! ## Ports, queue pairs and doorbells -/

/-- Training takes the highest generation and the widest width that both ends and the caps allow and at which the lanes come up (R30); a port that is
up, without power or held in reset, or whose lanes do not come up, stays as it is. A trained port ends the loss of the host (R340), and the takeover
watch is judged anew. The loss of a port clears its status, raises HQE INT_RAW bit 1 or 2 and takes its functions' queue pairs to LINK_LOST; with
both ports down the time of the host's loss starts. An FLR takes the queue pairs of the function there, and its MSI-X table, control and pending
bits are back at reset; clearing VF Enable does so for every VF of the PF, none of which is reached from then on (R57). The loss of a function's
queue pairs: each that was ACTIVE, DRAINING or FROZEN and belongs to a lost function stands in LINK_LOST, every other pair is unchanged, no command
of a lost pair stays staged, sent or held, and no context still runs one; the other contexts go on as they were, but that a waiting operation of theirs
may have moved to a lane that came free (R147).
Where it goes beyond the spec's words it rests on logs 3, 10, 195 and 221. -/
def Obligations.PortsTrainAndGoDown : Prop :=
  ((∀ (port : Fin 2) (gen width lanes : Nat) (s : State), s.get (portUp port) ≠ 1 → 3 ≤ gen → s.inReset = false →
    s.bit R.PWR_DOMAIN_ON_LO (26 + port) = true →
    ∃ t, exec (.portTrain port gen width (some lanes)) s = .next t ∧ t.get (portUp port) = 1 ∧
      t.get (portGen port) = min (s.genCap port) (min gen 6) ∧
      t.get (portWidth port) = min (min (s.get (portMaxWidth port)) (widthCode width)) lanes ∧
      t.pr = { s.pr with hostDown := none, hostLost := false, heldSync := t.mayTake && s.pr.heldSync,
                         takeAt := if t.mayTake then some (s.pr.takeAt.getD s.quartz) else none } ∧
      keeps [portUp port, portGen port, portWidth port] s t ∧ t = { s with regs := t.regs, pr := t.pr }) ∧
  (widthCode 1 = 0 ∧ widthCode 2 = 0 ∧ widthCode 4 = 1 ∧ widthCode 8 = 2 ∧ widthCode 16 = 3) ∧
  (∀ (port : Fin 2) (gen width : Nat) (lanes : Option Nat) (s : State),
    lanes = none ∨ s.get (portUp port) = 1 ∨ gen < 3 ∨ s.inReset = true ∨ s.bit R.PWR_DOMAIN_ON_LO (26 + port) = false →
    exec (.portTrain port gen width lanes) s = .next s) ∧
  (∀ (port : Fin 2) (s : State), s.get (portUp port) ≠ 0 →
    ∃ u, onlyFields [portUp port, portGen port, portWidth port, R.BLK_INT_RAW pgHQE] s u ∧
      u.get (portUp port) = 0 ∧ u.get (portGen port) = 0 ∧ u.get (portWidth port) = 0 ∧ raised pgHQE [if port = 0 then 1 else 2] s u ∧
      (let v := u.loseQps fun f => funcPort f == port.val
       exec (.linkDown port) s =
         .next (if v.get R.HQE_P0_LINKUP = 0 ∧ v.get R.HQE_P1_LINKUP = 0 then { v with pr := { v.pr with hostDown := some v.quartz } } else v))) ∧
  (∀ (port : Fin 2) (s : State), s.get (portUp port) = 0 → exec (.linkDown port) s = .next s) ∧
  (∀ (f : Func) (s : State),
    let v := s.loseQps fun g => g == f
    let n := funcCode f
    ∃ t, exec (.flr (.function f)) s = .next t ∧ t.msixControl n = 0 ∧ Sparse.get 0x2010 t.hq.devCtl n = 0x2010 ∧
      (∀ vec < 2048, bitOf (t.msixWord n vec 3) 0 = true ∧ (n, vec) ∉ t.hq.msixPend) ∧
      (∀ m, m ≠ n → t.msixControl m = v.msixControl m ∧ Sparse.get 0x2010 t.hq.devCtl m = Sparse.get 0x2010 v.hq.devCtl m ∧
        ∀ vec, (m, vec) ∈ t.hq.msixPend ↔ (m, vec) ∈ v.hq.msixPend) ∧
      t = { v with hq := { v.hq with msixCtl := t.hq.msixCtl, devCtl := t.hq.devCtl, msix := t.hq.msix, msixPend := t.hq.msixPend } }) ∧
  (∀ (port : Fin 2) (s : State),
    let v := s.loseQps (isVfOf port)
    ∃ t, exec (.flr (.vfEnable port)) s = .next t ∧
      (∀ i, t.enabledFunc (.vf port i) = false ∧ t.msixControl (funcCode (.vf port i)) = 0) ∧ t.msixControl 0 = v.msixControl 0 ∧
      t.msixControl 1 = v.msixControl 1 ∧
      t = { v with hq := { v.hq with msixCtl := t.hq.msixCtl, devCtl := t.hq.devCtl, msix := t.hq.msix, msixPend := t.hq.msixPend,
                                     vfOn := t.hq.vfOn } })) ∧
  (∀ (f : Func → Bool) (s : State),
    let t := s.loseQps f
    let ks := s.lostQps f
    (∀ k ∈ ks, (t.qp (k / 64) (k % 64)).qstate = .linkLost) ∧
    (∀ p q, qpKey p q ∉ ks → t.qp p q = s.qp p q) ∧
    (∀ c ∈ t.hq.staged, c.among ks = false) ∧ (∀ x ∈ t.hq.fwdOut, x.cmd.among ks = false) ∧ (∀ x ∈ t.hq.held, x.cmd.among ks = false) ∧
    (∀ k c, (t.ctx k).cmd = some c → c.among ks = false ∧ { t.ctx k with home := (s.ctx k).home } = s.ctx k))

/-- Queue-pair states change as Table 2.4 states. ENABLE written 1 to a DISABLED pair with a valid configuration makes it ACTIVE with heads and tails 0
and the CQ phase 1, with an invalid one HALTED with QERR 5; ENABLE written 0 makes an ACTIVE, HALTED, LINK_LOST or FROZEN pair DRAINING with QERR 0,
or DISABLED at once where nothing is in flight. No other pair changes. ENABLE written 1 to a pair that is not DISABLED, written 0 to one that is
DISABLED or DRAINING, or written through a function that reaches no partition or to a page that does not respond, changes nothing.
Where it goes beyond the spec's words it rests on logs 13 and 21. -/
def Obligations.QueuePairEnableAndDisable : Prop :=
  (∀ (fn : Func) (q : Fin 64) (p : Nat) (s : State), s.responds pgHQE = true → s.partOf fn = some p → (s.qp p q).qstate = .disabled →
    s.qpValid p q = true →
    ∃ t, exec (.qpEnable fn q) s = .next t ∧
      t.qp p q = { s.qp p q with qstate := .active, qerr := 0, sqHead := 0, sqTail := 0, cqHead := 0, cqTail := 0, phase := true, unsignalled := 0,
                                 coalDue := none, fn := s.namedFunc p q, cqDoor := none, failed := false } ∧
      (∀ p' q', qpKey p' q' ≠ qpKey p q → t.qp p' q' = s.qp p' q') ∧ t = { s with hq := { s.hq with qps := t.hq.qps } }) ∧
  (∀ (fn : Func) (q : Fin 64) (p : Nat) (s : State), s.responds pgHQE = true → s.partOf fn = some p → (s.qp p q).qstate = .disabled →
    s.qpValid p q = false → ∃ t, exec (.qpEnable fn q) s = .next t ∧ halts p q 5 s t) ∧
  (∀ (fn : Func) (q : Fin 64) (p : Nat) (s : State), s.responds pgHQE = true → s.partOf fn = some p →
    (s.qp p q).qstate ≠ .disabled → (s.qp p q).qstate ≠ .draining →
    ∃ t, exec (.qpDisable fn q) s = .next t ∧
      t.qp p q = (if s.inFlight p q = 0 ∧ (s.qp p q).reading = 0
        then { s.qp p q with qstate := .disabled, qerr := 0, fn := none, cqDoor := none, failed := false }
        else { s.qp p q with qstate := .draining, qerr := 0 }) ∧
      (∀ p' q', qpKey p' q' ≠ qpKey p q → t.qp p' q' = s.qp p' q') ∧ t = { s with hq := { s.hq with qps := t.hq.qps } }) ∧
  (∀ (fn : Func) (q : Fin 64) (p : Nat) (s : State), s.partOf fn = some p →
    ((s.qp p q).qstate ≠ .disabled → exec (.qpEnable fn q) s = .next s) ∧
    ((s.qp p q).qstate = .disabled ∨ (s.qp p q).qstate = .draining → exec (.qpDisable fn q) s = .next s)) ∧
  (∀ (fn : Func) (q : Fin 64) (s : State), s.responds pgHQE = false ∨ s.partOf fn = none →
    exec (.qpEnable fn q) s = .next s ∧ exec (.qpDisable fn q) s = .next s)

/-- Doorbells that reach a pair through the owning function with four bytes (R33, R38). SQ tail: out of the ring of an ACTIVE pair outside BOOT it halts
the pair with QERR 1; otherwise, FROZEN, HALTED, LINK_LOST and DRAINING pairs and BOOT included, the tail is recorded, and recorded while sleep is
being entered it aborts the entry too (R330). CQ head: in BOOT and of a FROZEN pair it is recorded to be served later; otherwise one that releases
an entry not written halts an ACTIVE pair with QERR 2 and is ignored in any other state, and any other head releases the entries up to it. A
doorbell of another size, of another function, of a DISABLED pair or to a page that does not respond changes nothing. A doorbell crosses into its port's
island (R19), and who waits at the port's fetch arbiter is noted (R254).
Where it goes beyond the spec's words it rests on logs 24 and 105. -/
def Obligations.DoorbellsRecordOrHalt : Prop :=
  (∀ (fn : Func) (q : Fin 64) (p : Nat) (v : Word) (s : State), s.responds pgHQE = true → s.doorbellAt fn q = some p →
    (s.qp p q).qstate ≠ .disabled → ¬ ((s.qp p q).qstate = .active ∧ s.mode ≠ .boot ∧ (s.qp p q).sqSize < v.toNat % 65536) → s.pw.phase ≠ .entering →
    ∃ t, exec (.sqTailDoorbell fn q 4 v) s = .next t ∧ t.qp p q = { s.qp p q with sqTail := v.toNat % 65536 } ∧
      (∀ p' q', qpKey p' q' ≠ qpKey p q → t.qp p' q' = s.qp p' q') ∧ (∀ u, u ≠ funcPort fn → t.arb u = s.arb u) ∧
      t = { s.crossPort fn with hq := { s.hq with qps := t.hq.qps }, arbs := t.arbs }) ∧
  (∀ (fn : Func) (q : Fin 64) (p : Nat) (v : Word) (s : State), s.responds pgHQE = true → s.doorbellAt fn q = some p →
    (s.qp p q).qstate = .active → s.mode ≠ .boot → (s.qp p q).sqSize < v.toNat % 65536 →
    ∃ t, exec (.sqTailDoorbell fn q 4 v) s = .next t ∧ halts p q 1 (s.crossPort fn) t) ∧
  (∀ (fn : Func) (q : Fin 64) (p : Nat) (v : Word) (s : State), s.responds pgHQE = true → s.doorbellAt fn q = some p →
    (s.qp p q).qstate ≠ .disabled → ¬ ((s.qp p q).qstate = .active ∧ s.mode ≠ .boot ∧ (s.qp p q).sqSize < v.toNat % 65536) → s.pw.phase = .entering →
    ∃ t, exec (.sqTailDoorbell fn q 4 v) s = .next t ∧ t.qp p q = { s.qp p q with sqTail := v.toNat % 65536 } ∧
      (∀ p' q', qpKey p' q' ≠ qpKey p q → t.qp p' q' = s.qp p' q') ∧ t.pw.phase = .awake ∧
      t.get R.PWR_SLEEP = 0 ∧ t.get R.PWR_ABORT_CNT = satAdd R.PWR_ABORT_CNT.width (s.get R.PWR_ABORT_CNT) 1 % 2 ^ R.PWR_ABORT_CNT.width ∧
      raised pgPWR [4] s t ∧ t.get R.PWR_EFF_PL % 2 ^ R.PWR_EFF_PL.width = t.levelInForce % 2 ^ R.PWR_EFF_PL.width ∧ sentMsix s t ∧
      (∀ u, u ≠ funcPort fn → t.arb u = s.arb u) ∧
      t = { s with hq := { s.hq with qps := t.hq.qps, msixPend := t.hq.msixPend }, pw := t.pw, regs := t.regs, out := t.out, arbs := t.arbs }) ∧
  (∀ (fn : Func) (q : Fin 64) (p : Nat) (v : Word) (s : State), s.responds pgHQE = true → s.doorbellAt fn q = some p →
    (s.qp p q).qstate ≠ .disabled →
    (s.recordsDoorbells p q = true →
      ∃ t, exec (.cqHeadDoorbell fn q 4 v) s = .next t ∧ t.qp p q = { s.qp p q with cqDoor := some (v.toNat % 65536) } ∧
        (∀ p' q', qpKey p' q' ≠ qpKey p q → t.qp p' q' = s.qp p' q') ∧ t = { s.crossPort fn with hq := { s.hq with qps := t.hq.qps } }) ∧
    (s.recordsDoorbells p q = false → (s.qp p q).overReleases (v.toNat % 65536) = false →
      ∃ t, exec (.cqHeadDoorbell fn q 4 v) s = .next t ∧ t.qp p q = { s.qp p q with cqHead := v.toNat % 65536 } ∧
        (∀ p' q', qpKey p' q' ≠ qpKey p q → t.qp p' q' = s.qp p' q') ∧ (∀ u, u ≠ funcPort fn → t.arb u = s.arb u) ∧
        t = { s.crossPort fn with hq := { s.hq with qps := t.hq.qps }, arbs := t.arbs }) ∧
    (s.recordsDoorbells p q = false → (s.qp p q).overReleases (v.toNat % 65536) = true → (s.qp p q).qstate = .active →
      ∃ t, exec (.cqHeadDoorbell fn q 4 v) s = .next t ∧ halts p q 2 (s.crossPort fn) t) ∧
    (s.recordsDoorbells p q = false → (s.qp p q).overReleases (v.toNat % 65536) = true → (s.qp p q).qstate ≠ .active →
      exec (.cqHeadDoorbell fn q 4 v) s = .next (s.crossPort fn))) ∧
  (∀ (p q : Nat) (s : State), s.recordsDoorbells p q = true ↔ s.mode = .boot ∨ (s.qp p q).qstate = .frozen) ∧
  (∀ (x : QueuePair) (v : Nat), x.overReleases v = true ↔
    x.cqSize < v ∨ (x.cqTail + (x.cqSize + 1) - x.cqHead) % (x.cqSize + 1) < (v + (x.cqSize + 1) - x.cqHead) % (x.cqSize + 1)) ∧
  (∀ (fn : Func) (q : Fin 64) (size : Nat) (v : Word) (s : State),
    size ≠ 4 ∨ s.doorbellAt fn q = none ∨ s.responds pgHQE = false ∨ (∃ p, s.doorbellAt fn q = some p ∧ (s.qp p q).qstate = .disabled) →
    exec (.sqTailDoorbell fn q size v) s = .next s ∧ exec (.cqHeadDoorbell fn q size v) s = .next s)

/-! ## Fetch, dispatch, input, coalescing and aborts -/

/-- A fetch: the partition granted at the port's arbiter has the next of its queue pairs in rotation read, a burst of at most four version-2 or eight
version-1 descriptors from SQ_HEAD on, no more than its grant charged (R251); SQ_HEAD moves past them, and the grant is used.
Where it goes beyond the spec's words it rests on logs 25, 30, 46 and 172. -/
def Obligations.DescriptorFetchReadsABurst : Prop :=
  (∀ (port : Fin 2) (p q : Nat) (f : Func) (s : State), s.grantOf port.val = some p → s.fetches p = true → s.nextQp port p = some q →
    s.qpFunc p q = some f →
    ∃ t, exec (.descriptorFetch port) s = .next t ∧
      (let x := s.qp p q
       let size := if x.compat then 32 else 64
       let n := min (s.arb port.val).burst (s.burst p q)
       t.out = s.out ++ [.descriptorRead f (x.sqBase + size * x.sqHead) (size * n)] ∧
       t.qp p q = { x with sqHead := (x.sqHead + n) % (x.sqSize + 1), reading := x.reading + n } ∧
       (0 < (s.arb port.val).burst → 0 < n) ∧ n ≤ (if x.compat then 8 else 4)) ∧
      (t.part p).lastQp = q ∧ (∀ p' q', qpKey p' q' ≠ qpKey p q → t.qp p' q' = s.qp p' q') ∧ (t.arb port.val).spent = true ∧
      (∀ u, u ≠ port.val → t.arb u = s.arb u) ∧
      t = { s.crossPort f with hq := { s.hq with qps := t.hq.qps }, parts := t.parts, arbs := t.arbs, out := t.out }) ∧
  (∀ (port : Fin 2) (s : State), (∀ p, s.grantOf port.val = some p → s.fetches p = false ∨ s.nextQp port p = none) →
    exec (.descriptorFetch port) s = .next s)

/-- A descriptor read returns. One the checks of R43 pass is staged behind the others and counted, who waits at the dispatch arbiter is noted (R254), and at 65,536 staged HQE INT_RAW bit 3 is set; one
they refuse completes at once with the status and DETAIL of the first failing check, a BUSY_RETRY counted; one they pass while its partition is
FROZEN completes with PARTITION_FROZEN. A failed read is reported through AER by the pair's function; it halts an ACTIVE pair with QERR 3, a FROZEN
one when it thaws, and lets a DRAINING one go on to DISABLED. Without a read in flight nothing changes. The checks of R43 in their order: a format
failure, an empty slot, the mode, the partition's bitmap, the quota in RETRY; the retry hint is 1 to 65,535.
Where it goes beyond the spec's words it rests on logs 26, 30, 173 and 220. -/
def Obligations.DescriptorReceiveStagesOrRefuses : Prop :=
  (∀ (part : Fin 1024) (q : Fin 64) (bs : List Byte) (wrOk : Bool) (s : State), (s.qp part q).reading ≠ 0 →
    let x := s.qp part q
    let bad := if x.compat then badV1 bs else badV2 bs
    let c : Cmd := { part := part, qp := q, desc := if x.compat then readV1 bs else readV2 bs }
    let u := (s.updQp part q fun x => { x with reading := x.reading - 1 }).updPart part fun y => { y with fetchCnt := (y.fetchCnt + 1) % 2 ^ 32 }
    (s.refuseDescriptor part bad c.desc = none → (s.part part).pstate ≠ .frozen →
      ∃ t, exec (.descriptorReceive part q (.data bs) wrOk) s = .next t ∧
        t.hq.staged = s.hq.staged ++ [{ c with fetched := some s.quartz }] ∧ t.qp part q = u.qp part q ∧ t.part part = u.part part ∧
        (∀ v, v ≠ unitDispatch → t.arb v = s.arb v) ∧
        (s.hq.staged.length + 1 < 65536 → t = { u with hq := { u.hq with staged := t.hq.staged }, arbs := t.arbs }) ∧
        (65536 ≤ s.hq.staged.length + 1 → raised pgHQE [3] s t ∧
          onlyFields [R.BLK_INT_RAW pgHQE] { u with hq := { u.hq with staged := t.hq.staged }, arbs := t.arbs } t)) ∧
    (s.refuseDescriptor part bad c.desc = none → (s.part part).pstate = .frozen →
      exec (.descriptorReceive part q (.data bs) wrOk) s =
        .next (u.finish wrOk { c with fetched := some s.quartz } { status := stPartitionFrozen })) ∧
    (∀ st det, s.refuseDescriptor part bad c.desc = some (st, det) → st ≠ stBusyRetry →
      exec (.descriptorReceive part q (.data bs) wrOk) s = .next (u.finish wrOk c { status := st, detail := det })) ∧
    (∀ det, s.refuseDescriptor part bad c.desc = some (stBusyRetry, det) →
      exec (.descriptorReceive part q (.data bs) wrOk) s = .next ((u.countBusy part).finish wrOk c { status := stBusyRetry, detail := det }))) ∧
  (∀ (p : Nat) (s : State),
    let t := s.countBusy p
    (t.part p).busyCnt = satAdd 32 (s.part p).busyCnt 1 ∧ (t.part p).quietWin = false ∧ (t.part p).busyInWin = true ∧
    ((s.part p).quietWin = true → bitOf (t.part p).pevt 3 = true) ∧ ((s.part p).quietWin = false → (t.part p).pevt = (s.part p).pevt)) ∧
  (∀ (part : Fin 1024) (q : Fin 64) (e : ReadError) (wrOk : Bool) (s : State), (s.qp part q).reading ≠ 0 →
    let u := (s.updQp part q fun x => { x with reading := x.reading - 1 }).reportRead (s.qpFunc part q) e
    (∀ f, s.qpFunc part q = some f → bitOf (Sparse.get 0 u.hq.aer (funcCode f)) (aerBit e) = true) ∧
    ((s.qp part q).qstate = .active → ∃ t, exec (.descriptorReceive part q (.failed e) wrOk) s = .next t ∧ halts part q 3 u t) ∧
    ((s.qp part q).qstate = .frozen →
      exec (.descriptorReceive part q (.failed e) wrOk) s = .next (u.updQp part q fun y => { y with failed := true })) ∧
    ((s.qp part q).qstate ≠ .active → (s.qp part q).qstate ≠ .frozen →
      exec (.descriptorReceive part q (.failed e) wrOk) s = .next (u.settleQp part q))) ∧
  (∀ (part : Fin 1024) (q : Fin 64) (data : HostRead) (wrOk : Bool) (s : State), (s.qp part q).reading = 0 →
    exec (.descriptorReceive part q data wrOk) s = .next s) ∧
  (∀ (p off : Nat) (d : Descriptor) (i : Image) (s : State),
    s.refuseDescriptor p (some off) d = some (stFormatError, off) ∧
    (s.imageOf d.program = none → s.refuseDescriptor p none d = some (stProgramDisabled, 0)) ∧
    (s.imageOf d.program = some i → s.admits p i = false → s.refuseDescriptor p none d = some (stModeRefused, s.mode.code)) ∧
    (s.imageOf d.program = some i → s.admits p i = true → s.slotEnabled p d.program = false →
      s.refuseDescriptor p none d = some (stProgramDisabled, 0)) ∧
    (s.imageOf d.program = some i → s.admits p i = true → s.slotEnabled p d.program = true → (s.part p).retry = true →
      (s.part p).quota ≤ s.backlog p →
      s.refuseDescriptor p none d = some (stBusyRetry, retryHint (s.backlog p) (s.part p).quota (s.part p).lastWinDone)) ∧
    (s.imageOf d.program = some i → s.admits p i = true → s.slotEnabled p d.program = true →
      ((s.part p).retry = false ∨ s.backlog p < (s.part p).quota) → s.refuseDescriptor p none d = none)) ∧
  (∀ b quota done, 1 ≤ retryHint b quota done ∧ retryHint b quota done ≤ 65535 ∧ retryHint b quota 0 = 1000)

/-- Dispatch: the granted partition's oldest command that may go takes the lowest free context of the chosen cluster, with every item of the context
zero, its image, its descriptor and its first input bytes; it leaves the staging buffer, its island is ungated (R19), and no other context changes.
Its input comes from the host, or from its partition's work window, where a range past the window's end or an integrity error ends it with ABORTED,
DETAIL 2 (R240, R244); what a peer forwarded brings its input with it (R376). A command whose program is no longer loaded or enabled completes with
PROGRAM_DISABLED; with no cluster or context free, while the island relocks, with a window used before the work region is ready, or while a channel of its
window input is under FREEZE (R253), it waits. The cluster R21 chooses is in service, not frozen and has
a free context; of those whose slice holds the command's first key, or of all where none does, it has the most free contexts, ties going to the
lowest number.
Where it goes beyond the spec's words it rests on logs 8, 30 and 46. -/
def Obligations.DispatchStartsAContext : Prop :=
  (∀ (input : List Byte) (c : Cmd) (rest : List Cmd) (i : Image) (n k : Nat) (s : State), s.granted = some (c, rest) →
    s.imageOf c.desc.program = some i → s.slotEnabled c.part c.desc.program = true → s.chooseCluster c = some n → s.freeCtx n = some k →
    s.windowWaits c 0 (min c.desc.inLen 4096) = false → s.relocks n = false →
    (c.windowIn = false →
      ∃ t, exec (.dispatch input) s = .next t ∧
        ((t.ctx k).cmd = some c ∧ (t.ctx k).image = i ∧ (t.ctx k).pc = 0 ∧ (t.ctx k).started = s.quartz ∧ (t.ctx k).ip = 0 ∧ (t.ctx k).op = 0 ∧
         (t.ctx k).v = List.replicate 16 (zeros 16) ∧ (t.ctx k).sreg = List.replicate 8 0 ∧ (t.ctx k).keys = List.replicate 4 none ∧
         (t.ctx k).z = false ∧ (t.ctx k).lt = false ∧ (t.ctx k).fe = false ∧ (t.ctx k).result = zeros 16 ∧ (t.ctx k).retired = 0 ∧
         (t.ctx k).input = startInput c.desc input) ∧
        (∀ j, j ≠ k → t.ctx j = s.ctx j) ∧ t.hq.staged = rest ∧ n ∉ t.pw.gated ∧
        keeps [R.SEQ_PC_HIT (clusterOf k), R.SEQ_PC_MISS (clusterOf k)] s t) ∧
    (c.windowIn = true →
      (∀ r, (s.cross n).windowInput c 0 (min c.desc.inLen 4096) = some r →
        exec (.dispatch input) s = .next ((r.2.takeStaged rest).startContext k c i r.1)) ∧
      ((s.cross n).windowInput c 0 (min c.desc.inLen 4096) = none →
        exec (.dispatch input) s = .next (((s.cross n).takeStaged rest).endStaged c stAborted 2)))) ∧
  (∀ (input : List Byte) (c : Cmd) (rest : List Cmd) (s : State), s.granted = some (c, rest) →
    (s.imageOf c.desc.program = none ∨ s.slotEnabled c.part c.desc.program = false) →
    exec (.dispatch input) s = .next ((s.takeStaged rest).endStaged c stProgramDisabled 0)) ∧
  (∀ (input : List Byte) (s : State), s.granted = none → exec (.dispatch input) s = .next s) ∧
  (∀ (input : List Byte) (c : Cmd) (rest : List Cmd) (i : Image) (s : State), s.granted = some (c, rest) →
    s.imageOf c.desc.program = some i → s.slotEnabled c.part c.desc.program = true →
    s.chooseCluster c = none ∨ (∃ n, s.chooseCluster c = some n ∧ (s.freeCtx n = none ∨ s.relocks n = true)) ∨
      s.windowWaits c 0 (min c.desc.inLen 4096) = true →
    exec (.dispatch input) s = .next s) ∧
  (∀ (c : Cmd) (off n : Nat) (s : State),
    (c.windowUse = true → s.workReady = false → s.windowWaits c off n = true) ∧ (c.peer ≠ none → s.windowWaits c off n = false) ∧
    (s.workReady = true → (c.windowIn = false ∨ s.hbmHeld (s.windowAddr c.part c.desc.inAddr + off) n = false) → s.windowWaits c off n = false)) ∧
  (∀ (c : Cmd) (n : Nat) (s : State), s.chooseCluster c = some n →
    let hit := fun m => ∃ h, c.desc.firstKey = some h ∧ s.sliceHolds m (lineKey c.part h) = true
    n < 16 ∧ s.selectable n = true ∧
    ((∃ m < 16, s.selectable m = true ∧ hit m) →
      hit n ∧ ∀ m < 16, s.selectable m = true → hit m → s.freeIn m ≤ s.freeIn n ∧ (s.freeIn m = s.freeIn n → n ≤ m)) ∧
    ((∀ m < 16, s.selectable m = true → ¬ hit m) →
      ∀ m < 16, s.selectable m = true → s.freeIn m ≤ s.freeIn n ∧ (s.freeIn m = s.freeIn n → n ≤ m)))

/-- Input chunks, DMA errors and coalescing. A chunk, from the host or from the work window, joins its context's input, a context that waits for one
goes on, and a stream instruction under way issues the operations it allows; for a context with no such instruction nothing else changes. While the
crossbars of its cluster, or the channel of its window, are under FREEZE the chunk waits (R253). A DMA error, which a window transfer cannot have, is reported through AER and ends the command with ABORTED: staged, running or sent to a peer, DETAIL 2 for an input read and 3 for an output
write (R48). An expired COAL_TIME signals the pair's vector once, or leaves it pending where it is masked, and clears the count.
Where it goes beyond the spec's words it rests on logs 3, 23 and 181. -/
def Obligations.ChunksErrorsAndCoalescing : Prop :=
  (∀ (c : Ctx) (data : List Byte) (cmd : Cmd) (s : State), (s.ctx (ctxKey c)).cmd = some cmd → cmd.desc.inInline = false →
    4096 ≤ (s.ctx (ctxKey c)).input.length → (s.ctx (ctxKey c)).input.length < cmd.desc.inLen →
    ((s.ctx (ctxKey c)).input.length < (s.ctx (ctxKey c)).ip + 8192 ∨ (s.ctx (ctxKey c)).image.code = []) →
    let x := s.ctx (ctxKey c)
    let n := min 4096 (cmd.desc.inLen - x.input.length)
    s.xbarHeld c.cc = false → s.windowWaits cmd x.input.length n = false →
    let with' := fun (t : State) (bs : List Byte) =>
      t.setCtx (ctxKey c) { x with input := x.input ++ fitBytes n bs, wait := if x.wait = .chunk then .none else x.wait }
    (cmd.windowIn = false → exec (.inputChunkRead c data) s = .next ((with' s data).pump (ctxKey c) pumpFuel)) ∧
    (∀ r, cmd.windowIn = true → s.windowInput cmd x.input.length n = some r →
      exec (.inputChunkRead c data) s = .next ((with' r.2 r.1).pump (ctxKey c) pumpFuel)) ∧
    (cmd.windowIn = true → s.windowInput cmd x.input.length n = none →
      exec (.inputChunkRead c data) s = .next (s.endAt (ctxKey c) stAborted 2))) ∧
  (∀ (k : Nat) (s : State), (s.ctx k).run = none → s.pump k pumpFuel = s) ∧
  (∀ (c : Ctx) (data : List Byte) (s : State), (∀ cmd, (s.ctx (ctxKey c)).cmd = some cmd →
      cmd.desc.inInline = true ∨ (s.ctx (ctxKey c)).input.length < 4096 ∨ cmd.desc.inLen ≤ (s.ctx (ctxKey c)).input.length ∨
      ((s.ctx (ctxKey c)).ip + 8192 ≤ (s.ctx (ctxKey c)).input.length ∧ (s.ctx (ctxKey c)).image.code ≠ []) ∨ s.xbarHeld c.cc = true ∨
      s.windowWaits cmd (s.ctx (ctxKey c)).input.length (min 4096 (cmd.desc.inLen - (s.ctx (ctxKey c)).input.length)) = true) →
    exec (.inputChunkRead c data) s = .next s) ∧
  (∀ (c : Cmd) (rest : List Cmd) (e : ReadError) (s : State), s.granted = some (c, rest) → c.desc.inInline = false → c.desc.inLen ≠ 0 →
    c.desc.windowIn = false → c.peer = none → exec (.dataDmaError (.staged e)) s =
      .next (((s.takeStaged rest).reportRead (s.qpFunc c.part c.qp) e).endStaged c stAborted 2)) ∧
  (∀ (c : Ctx) (cmd : Cmd) (e : ReadError) (s : State), (s.ctx (ctxKey c)).cmd = some cmd → cmd.peer = none →
    (cmd.desc.inInline = false → cmd.desc.windowIn = false → exec (.dataDmaError (.input c e)) s =
      .next ((s.reportRead (s.qpFunc cmd.part cmd.qp) e).endCommand (ctxKey c) stAborted 2)) ∧
    (cmd.desc.outInline = false → cmd.desc.windowOut = false → exec (.dataDmaError (.output c)) s =
      .next ((s.reportWrite (s.qpFunc cmd.part cmd.qp)).endCommand (ctxKey c) stAborted 3))) ∧
  (∀ (c : Cmd) (rest : List Cmd) (k : Nat) (e : ReadError) (s : State), s.forwardLink = some k → s.pickForward [] s.hq.staged = some (c, rest) →
    c.desc.inInline = false → c.desc.inLen ≠ 0 → c.desc.windowIn = false → exec (.dataDmaError (.forwardInput e)) s =
      .next ((({ s with hq := { s.hq with staged := rest } }).reportRead (s.qpFunc c.part c.qp) e).endStaged c stAborted 2)) ∧
  (∀ (k : Fin 8) (tag : Nat) (x : FwdCmd) (s : State), s.hq.fwdOut.find? (fun x => x.link == k.val && x.tag == tag) = some x →
    x.cmd.desc.outInline = false → x.cmd.desc.outLen ≠ 0 → x.cmd.desc.windowOut = false → exec (.dataDmaError (.forwardOutput k tag)) s =
      .next ((({ s with hq := { s.hq with fwdOut := s.hq.fwdOut.filter fun y => !(y.link == k.val && y.tag == tag) } }).reportWrite
        (s.qpFunc x.cmd.part x.cmd.qp)).endStaged x.cmd stAborted 3)) ∧
  (∀ (part : Fin 1024) (q : Fin 64) (due : Nat) (f : Func) (s : State), (s.qp part q).coalDue = some due → due ≤ s.quartz →
    (s.qp part q).unsignalled ≠ 0 → s.qpFunc part q = some f →
    ∃ t, exec (.coalTimeExpiry part q) s = .next t ∧ t.qp part q = { s.qp part q with unsignalled := 0, coalDue := none } ∧
      (∀ p' q', qpKey p' q' ≠ qpKey part q → t.qp p' q' = s.qp p' q') ∧
      (s.msixMasked (funcCode f) (s.qp part q).vector = false → t.out = s.out ++ [.msix f (s.qp part q).vector] ∧ t.hq.msixPend = s.hq.msixPend) ∧
      (s.msixMasked (funcCode f) (s.qp part q).vector = true → t.out = s.out ∧ (funcCode f, (s.qp part q).vector) ∈ t.hq.msixPend) ∧
      t = { s with hq := { s.hq with qps := t.hq.qps, msixPend := t.hq.msixPend }, out := t.out }) ∧
  (∀ (part : Fin 1024) (q : Fin 64) (s : State), (∀ due, (s.qp part q).coalDue = some due → s.quartz < due) →
    exec (.coalTimeExpiry part q) s = .next s)

/-- An abort by tag (R56): once it returns, no staged command of the pair and no running context carries the tag. Where nothing matched, and nothing of
the partition waits to be aborted, ABORT_RESULT is 2 and the abort is over; where one staged command matched, and nothing else of the partition
waits to be aborted, it is no longer staged, ABORT_RESULT is 1 with one command aborted, and the abort is over. A GO while an abort is busy, through
a function that reaches no partition or to a page that does not respond is ignored.
Where it goes beyond the spec's words it rests on log 27. -/
def Obligations.AbortTakesEveryMatch : Prop :=
  (∀ (fn : Func) (q : Fin 64) (p : Nat) (s : State), s.responds pgHQE = true → s.partOf fn = some p → (s.part p).abortBusy = false →
    ∃ t, exec (.abortGo fn q) s = .next t ∧
      (∀ c ∈ t.hq.staged, ¬ (c.ofQp p q = true ∧ c.desc.hostTag = (s.part p).abortTag)) ∧
      (∀ k c, (t.ctx k).cmd = some c → ¬ (c.ofQp p q = true ∧ c.desc.hostTag = (s.part p).abortTag))) ∧
  (∀ (fn : Func) (q : Fin 64) (p : Nat) (s : State), s.responds pgHQE = true → s.partOf fn = some p → (s.part p).abortBusy = false →
    s.marksLeft p = 0 → (∀ c ∈ s.hq.staged, c.ofQp p q = false) → (∀ e ∈ s.sq.ctxs, ∀ c, e.2.cmd = some c → c.ofQp p q = false) →
    (∀ x ∈ s.hq.fwdOut, x.cmd.ofQp p q = false) → (∀ x ∈ s.hq.held, x.cmd.ofQp p q = false) →
    ∃ t, exec (.abortGo fn q) s = .next t ∧ (t.part p).abortResult = 2 ∧ (t.part p).abortBusy = false ∧ (t.part p).abortCount = 0 ∧
      (t.part p).abortQueue = q.val ∧ t = { s with parts := t.parts }) ∧
  (∀ (fn : Func) (q : Fin 64) (p : Nat) (c : Cmd) (s : State), s.responds pgHQE = true → s.partOf fn = some p → (s.part p).abortBusy = false →
    s.marksLeft p = 0 → s.hq.staged = [c] → c.ofQp p q = true → c.desc.hostTag = (s.part p).abortTag →
    (∀ e ∈ s.sq.ctxs, ∀ c, e.2.cmd = some c → c.ofQp p q = false) →
    (∀ x ∈ s.hq.fwdOut, x.cmd.ofQp p q = false) → (∀ x ∈ s.hq.held, x.cmd.ofQp p q = false) →
    ∃ t, exec (.abortGo fn q) s = .next t ∧ t.hq.staged = [] ∧ (t.part p).abortResult = 1 ∧ (t.part p).abortBusy = false ∧
      (t.part p).abortCount = 1 ∧ (t.part p).abortQueue = q.val) ∧
  (∀ (fn : Func) (q : Fin 64) (s : State),
    s.responds pgHQE = false ∨ s.partOf fn = none ∨ (∃ p, s.partOf fn = some p ∧ (s.part p).abortBusy = true) →
    exec (.abortGo fn q) s = .next s)

/-! ## Sequencer instructions: LOAD, STORE, CMP and BR -/

/-- LOAD instructions, each in a context that is ready to issue it: the V register, S register or pointer it names takes the value of its rule, and
nothing else of the state changes; one whose input chunk is not there waits for it. A word that names no S register, or a descriptor field that is not
defined, stops as reserved.
SETIP moves the input pointer forward, and backwards only while it has not passed byte 4,095; otherwise the command ends with ABORTED, DETAIL 4
(R69), once the operations of its earlier instructions have completed (R91).
Where it goes beyond the spec's words it rests on logs 8, 194 and 228. -/
def Obligations.LoadInstructionsWriteOneRegister : Prop :=
  (∀ (c : Ctx) (w : Insn) (x : Context) (s : State), let k := ctxKey c
  (s.readyCtx k 0x0 0x0 w = some x → x.has (x.chunkBase + 4096) = true →
    ∃ t, exec (.ldin c w) s = .next t ∧
      retires k 1 (x.setV w.d (x.bufBytes (x.offset w (immBits w 0 12) w.b) (immBits w 12 4 + 1))) s t) ∧
  (s.readyCtx k 0x0 0x1 w = some x → w.d.val ≤ 7 → x.has (x.chunkBase + 4096) = true →
    ∃ t, exec (.ldsc c w) s = .next t ∧
      (let bs := x.bufBytes (x.offset w (immBits w 0 12) w.b) (immBits w 12 2 + 1)
       retires k 1 (x.setS w.d (if modBit w 5 then beNat bs else leNat bs)) s t)) ∧
  (s.readyCtx k 0x0 0x2 w = some x → w.d.val ≤ 7 → immBits w 0 4 ≤ 6 →
    ∃ t, exec (.lddesc c w) s = .next t ∧
      retires k 1 (x.setS w.d ([x.desc.inLen, x.desc.outLen, x.desc.param, leNat (slice 0 4 x.desc.paramExt), leNat (slice 4 4 x.desc.paramExt),
        leNat (slice 8 4 x.desc.paramExt), leNat (slice 12 4 x.desc.paramExt)].getD (immBits w 0 4) 0)) s t) ∧
  (s.readyCtx k 0x0 0x2 w = some x → immBits w 0 4 = 7 → ∃ t, exec (.lddesc c w) s = .next t ∧ retires k 1 (x.setV w.d x.desc.paramExt) s t) ∧
  (s.readyCtx k 0x0 0x3 w = some x →
    ∃ t, exec (.ldconst c w) s = .next t ∧ retires k 1 (x.setV w.d (x.image.consts.getD (immBits w 0 4) [])) s t) ∧
  (s.readyCtx k 0x0 0x4 w = some x → w.d.val ≤ 7 →
    ∃ t, exec (.ldi c w) s = .next t ∧ retires k 1 { x with sreg := x.sreg.set w.d w.imm } s t) ∧
  (s.readyCtx k 0x0 0x5 w = some x → w.d.val ≤ 7 → w.a.val ≤ 7 →
    ∃ t, exec (.sadd c w) s = .next t ∧ retires k 1 { x with sreg := x.sreg.set w.d (x.sreg.getD w.a 0 + w.imm) } s t) ∧
  (s.readyCtx k 0x0 0x6 w = some x →
    ∃ t, exec (.movb c w) s = .next t ∧
      retires k 1 (x.setV w.d (overlay (immBits w 0 4) (slice (immBits w 4 4) (immBits w 8 4 + 1) (x.vr w.a)) (x.vr w.d))) s t) ∧
  (s.readyCtx k 0x0 0x7 w = some x → ∃ t, exec (.vxor c w) s = .next t ∧ retires k 1 (x.setV w.d (xorBytes (x.vr w.a) (x.vr w.b))) s t) ∧
  (s.readyCtx k 0x0 0x8 w = some x → ∃ t, exec (.vand c w) s = .next t ∧ retires k 1 (x.setV w.d (andBytes (x.vr w.a) (x.vr w.b))) s t) ∧
  (s.readyCtx k 0x0 0x9 w = some x → ∃ t, exec (.vclr c w) s = .next t ∧ retires k 1 (x.setV w.d (zeros 16)) s t) ∧
  (s.readyCtx k 0x0 0xB w = some x → w.a.val ≤ 7 →
    ∃ t, exec (.movs c w) s = .next t ∧
      retires k 1 (x.setV w.d (overlay (immBits w 0 4)
        (if modBit w 5 then beBytes 4 (x.sr w.a) else leBytes 4 (x.sr w.a)) (x.vr w.d))) s t)) ∧
  (∀ (c : Ctx) (w : Insn) (x : Context) (s : State), let k := ctxKey c
  s.readyCtx k 0x0 0xA w = some x →
  (x.ip ≤ x.offset w (immBits w 0 24) w.a ∨ x.ip < 4096 →
    ∃ t, exec (.setip c w) s = .next t ∧ retires k 1 { x with ip := x.offset w (immBits w 0 24) w.a } s t) ∧
  (x.offset w (immBits w 0 24) w.a < x.ip → 4096 ≤ x.ip →
    exec (.setip c w) s = .next (whenSettled s k (s.failAt k 1 stAborted 4)))) ∧
  (∀ (c : Ctx) (w : Insn) (x : Context) (s : State), let k := ctxKey c
  x.has (x.chunkBase + 4096) = false →
  (s.readyCtx k 0x0 0x0 w = some x → exec (.ldin c w) s = .next (s.setCtx k { x with wait := .chunk })) ∧
  (s.readyCtx k 0x0 0x1 w = some x → w.d.val ≤ 7 → exec (.ldsc c w) s = .next (s.setCtx k { x with wait := .chunk }))) ∧
  (∀ (c : Ctx) (w : Insn) (x : Context) (s : State), let k := ctxKey c
  (s.readyCtx k 0x0 0x1 w = some x → 7 < w.d.val → exec (.ldsc c w) s = .refused .reservedEncoding) ∧
  (s.readyCtx k 0x0 0x2 w = some x → 7 < immBits w 0 4 ∨ (immBits w 0 4 ≠ 7 ∧ 7 < w.d.val) → exec (.lddesc c w) s = .refused .reservedEncoding) ∧
  (7 < w.d.val → exec (.ldi c w) s = .refused .reservedEncoding) ∧
  (7 < w.d.val ∨ 7 < w.a.val → exec (.sadd c w) s = .refused .reservedEncoding) ∧
  (7 < w.a.val → exec (.movs c w) s = .refused .reservedEncoding))

/-- STORE: STRES writes RESULT bytes. STOUT writes RESULT for an inline output, with no byte past the sixteenth; otherwise its bytes below OUT_LEN go to
the output area of the command's function, to the peer of a forwarded command, or through the MPU of the port's DMA into the partition's work
window, where a range past the window's end ends the command with ABORTED, DETAIL 3, and a partial write of a poisoned line with DETAIL 2; none at
or above OUT_LEN goes anywhere. Behind stream operations that have not released, the output of a STORE takes its place in program order, and what ends
the command waits for the operations before it.
Where it goes beyond the spec's words it rests on logs 8, 168, 217 and 228. -/
def Obligations.StoresReachResultOrTheOutputArea : Prop :=
  ∀ (c : Ctx) (w : Insn) (x : Context) (cmd : Cmd) (s : State), let k := ctxKey c
  let off := x.offset w (immBits w 0 24) w.b
  let bs := (x.vr w.a).take (modBits w 0 4 + 1)
  let kept := bs.take (cmd.desc.outLen - off)
  x.cmd = some cmd →
  (s.readyCtx k 0x1 0x0 w = some x →
    (x.issued = x.released → ∃ t, exec (.stres c w) s = .next t ∧
      retires k 1 { x with result := overlay (immBits w 0 4) ((x.vr w.a).take (immBits w 4 4 + 1)) x.result } s t) ∧
    (x.issued ≠ x.released → ∃ t, exec (.stres c w) s = .next t ∧
      retires k 1 { x with issued := x.issued + 1, finished := x.finished ++
        [(x.issued, { result := [(immBits w 0 4, (x.vr w.a).take (immBits w 4 4 + 1))], pc := x.pc, num := x.retired })] } s t)) ∧
  (s.readyCtx k 0x1 0x1 w = some x → x.issued ≠ x.released → ∃ t, exec (.stout c w) s = .next t ∧
    retires k 1 { x with issued := x.issued + 1, finished := x.finished ++ [(x.issued, { output := [(off, bs)], pc := x.pc, num := x.retired })] } s t) ∧
  (s.readyCtx k 0x1 0x1 w = some x → x.issued = x.released → cmd.desc.outInline = true →
    ∃ t, exec (.stout c w) s = .next t ∧ retires k 1 { x with result := if off < 16 then overlay off bs x.result else x.result } s t) ∧
  (s.readyCtx k 0x1 0x1 w = some x → x.issued = x.released → cmd.desc.outInline = false → kept = [] →
    ∃ t, exec (.stout c w) s = .next t ∧ retires k 1 x s t) ∧
  (s.readyCtx k 0x1 0x1 w = some x → x.issued = x.released → cmd.desc.outInline = false → isWindow cmd.desc.outAddr = false ∨ cmd.peer ≠ none → kept ≠ [] →
    ∃ u, retires k 1 { x with wrote := true } s u ∧ ∃ t, exec (.stout c w) s = .next t ∧
      sameContexts (match cmd.peer, s.qpFunc cmd.part cmd.qp with
        | some (link, tag), _ => u.sendOn link (.peerOutput link tag off kept)
        | none, some f => (u.crossPort f).emit (.hostWrite f (cmd.desc.outAddr + off) kept)
        | none, none => u) t) ∧
  (s.readyCtx k 0x1 0x1 w = some x → x.issued = x.released → cmd.desc.outInline = false → isWindow cmd.desc.outAddr = true → cmd.peer = none → kept ≠ [] →
    (s.windowFits cmd.part cmd.desc.outAddr cmd.desc.outLen = false →
      ∃ u, branches k x.pc x s u ∧ exec (.stout c w) s = .next (whenSettled s k (u.endAt k stAborted 3))) ∧
    (s.windowFits cmd.part cmd.desc.outAddr cmd.desc.outLen = true →
      ∃ u, retires k 1 { x with wrote := true } s u ∧
        (let r := u.dmaWrite (s.dmaMpu cmd) cmd.part (s.windowAddr cmd.part cmd.desc.outAddr + off) kept
         (r.2 = false → ∃ t, exec (.stout c w) s = .next t ∧ sameContexts r.1 t) ∧
         (r.2 = true → exec (.stout c w) s = .next (whenSettled s k ((r.1.updCtx k fun y => { y with pc := x.pc }).endAt k stAborted 2))))))

/-- Compares and branches (R76). CMP of bytes sets Z when they are equal and clears it otherwise, and clears LT; CMP of S registers, or of one with IMM,
sets Z when they are equal and LT when the first is the smaller, unsigned; each takes one issue slot whatever the data. A branch goes to IMM[7:0]
where the condition of Table 3.6 holds and to the next instruction otherwise; LOOP decrements its S register and branches while the result is not 0.
Nothing else of the state changes. A word that names no S register stops as reserved.
Where it goes beyond the spec's words it rests on log 8. -/
def Obligations.ComparesSetFlagsAndBranchesTestThem : Prop :=
  ∀ (c : Ctx) (w : Insn) (x : Context) (s : State), let k := ctxKey c
  let next := (x.pc + 1) % 256
  let target := w.imm.toNat % 256
  (s.readyCtx k 0x7 0x0 w = some x →
    ∃ t, exec (.cmpBytes c w) s = .next t ∧
      retires k 1 { x with z := (x.vr w.a).take (immBits w 0 4 + 1) == (x.vr w.b).take (immBits w 0 4 + 1), lt := false } s t) ∧
  (s.readyCtx k 0x7 0x1 w = some x → w.a.val ≤ 7 → w.b.val ≤ 7 →
    ∃ t, exec (.cmpSreg c w) s = .next t ∧ retires k 1 { x with z := x.sr w.a == x.sr w.b, lt := decide (x.sr w.a < x.sr w.b) } s t) ∧
  (s.readyCtx k 0x7 0x2 w = some x → w.a.val ≤ 7 →
    ∃ t, exec (.cmpImm c w) s = .next t ∧ retires k 1 { x with z := x.sr w.a == w.imm.toNat, lt := decide (x.sr w.a < w.imm.toNat) } s t) ∧
  (s.readyCtx k 0x8 0x0 w = some x → ∃ t, exec (.brAlways c w) s = .next t ∧ branches k target x s t) ∧
  (s.readyCtx k 0x8 0x1 w = some x → ∃ t, exec (.brZ c w) s = .next t ∧ branches k (if x.z then target else next) x s t) ∧
  (s.readyCtx k 0x8 0x2 w = some x → ∃ t, exec (.brNz c w) s = .next t ∧ branches k (if x.z then next else target) x s t) ∧
  (s.readyCtx k 0x8 0x3 w = some x → ∃ t, exec (.brLt c w) s = .next t ∧ branches k (if x.lt then target else next) x s t) ∧
  (s.readyCtx k 0x8 0x4 w = some x → ∃ t, exec (.brNlt c w) s = .next t ∧ branches k (if x.lt then next else target) x s t) ∧
  (s.readyCtx k 0x8 0x5 w = some x → ∃ t, exec (.brFe c w) s = .next t ∧ branches k (if x.fe then target else next) x s t) ∧
  (s.readyCtx k 0x8 0x6 w = some x → ∃ t, exec (.brNfe c w) s = .next t ∧ branches k (if x.fe then next else target) x s t) ∧
  (s.readyCtx k 0x8 0x7 w = some x → w.a.val ≤ 7 →
    ∃ t, exec (.loop c w) s = .next t ∧
      branches k (if x.sr w.a = 1 then next else target) { x with sreg := x.sreg.set w.a (x.sreg.getD w.a 0 - 1) } s t) ∧
  (7 < w.a.val → exec (.cmpImm c w) s = .refused .reservedEncoding ∧ exec (.loop c w) s = .refused .reservedEncoding) ∧
  (7 < w.a.val ∨ 7 < w.b.val → exec (.cmpSreg c w) s = .refused .reservedEncoding)

/-! ## Cipher lanes and hash units -/

/-- CIPH 0x0: one block of A, or of A xor B, under the key of slot KA, which the lane takes as its two wires. The instruction retires and its operation,
whose result goes to D, stands in the lane with the least work; nothing else changes. An empty slot or a key that does not fit ends the command with
KEY_USAGE_DENIED, a cluster with no lane in service with FAULT_DETECTED, once the earlier operations of its context have completed; a word outside
Table 5.3 stops as reserved.
Where it goes beyond the spec's words it rests on logs 8, 164, 175 and 228. -/
def Obligations.CiphBlockIssuesOneBlock : Prop :=
  ∀ (c : Ctx) (w : Insn) (x : Context) (s : State), let k := ctxKey c
  let l := laneWord (immBits w 0 16)
  s.readyCtx k 0x3 0x0 w = some x →
  (l.valid true (modBit w 1) (modBit w 2) = false → exec (.ciphBlock c w) s = .refused .reservedEncoding) ∧
  (l.valid true (modBit w 1) (modBit w 2) = true →
    (x.slot w.ka = none → exec (.ciphBlock c w) s = .next (whenSettled s k (s.failAt k 1 stKeyUsageDenied 3))) ∧
    (∀ y, x.slot w.ka = some y → l.fits y.key = false → exec (.ciphBlock c w) s = .next (whenSettled s k (s.failAt k 1 stKeyUsageDenied y.field))) ∧
    (∀ y, x.slot w.ka = some y → l.fits y.key = true → s.lanesUp c.cc = [] →
      exec (.ciphBlock c w) s = .next (whenSettled s k (s.failAt k 1 stFaultDetected (unitDetail c.cc (Sparse.get 0 s.ci.lastOut c.cc))))) ∧
    (∀ y lane, x.slot w.ka = some y → l.fits y.key = true → s.lanesUp c.cc ≠ [] → s.pickLane c.cc none = some lane →
      ∃ t, exec (.ciphBlock c w) s = .next t ∧
        t.ctx k = { x.claim [w.d.val] with pc := (x.pc + 1) % 256, retired := x.retired + 1 } ∧ (∀ j, j ≠ k → t.ctx j = s.ctx j) ∧
        (let src := (if modBit w 0 then xorBytes (x.vr w.a) (x.vr w.b) else x.vr w.a).take (blkLen l.cipher)
         let o : UnitOp := { owner := some k, pc := x.pc, num := x.retired, slot := w.ka, key := s.wires c.cc y, blocks := 1,
                             job := .lane { word := l, block := true, bytes := src, dest := w.d } }
         t.lane c.cc lane = if (s.lane c.cc lane).exec.isNone then (s.lane c.cc lane).begin o s.quartz else (s.lane c.cc lane).queue o) ∧
        (∀ n l', laneKey n l' ≠ laneKey c.cc lane → t.lane n l' = s.lane n l') ∧
        t = { s with regs := t.regs, sq := { s.sq with ctxs := t.sq.ctxs }, ci := { s.ci with lanes := t.ci.lanes } }))

/-- CIPH 0x1: the next part of a stream, over S[A] input bytes. When its key fits and its checks pass, the instruction retires and its operations, at
most sixteen blocks each, go to the lanes as positions free and input arrives. A part of one operation, with its input there and a lane open, is
placed at once: IP and OP move over the input and output of the part, and the stream's record is carried on, or closed by FINAL. A part of no bytes
without FINAL only opens the stream. A failed check of Table 5.5 ends the command with FORMAT_ERROR and its DETAIL, a key that does not fit with
KEY_USAGE_DENIED, a cluster with no lane in service with FAULT_DETECTED, once the earlier operations of its context have completed; a word outside
Table 5.3 stops as reserved.
Where it goes beyond the spec's words it rests on logs 8, 164, 174, 175, 216 and 228. -/
def Obligations.CiphStreamTakesOnePart : Prop :=
  ∀ (c : Ctx) (w : Insn) (x : Context) (s : State), let k := ctxKey c
  let l := laneWord (immBits w 0 16)
  let cnt := x.sr w.a
  let slots := 2 + (cnt + 31) / 32
  let r := x.stream.getD (Stream.fresh l w.ka (x.vr w.b))
  s.readyCtx k 0x3 0x1 w = some x →
  (l.valid false (modBit w 1) (modBit w 2) = false ∨ 7 < w.a.val → exec (.ciphStream c w) s = .refused .reservedEncoding) ∧
  (l.valid false (modBit w 1) (modBit w 2) = true → w.a.val ≤ 7 →
    (x.slot w.ka = none → exec (.ciphStream c w) s = .next (whenSettled s k (s.failAt k slots stKeyUsageDenied 3))) ∧
    (∀ y, x.slot w.ka = some y → l.fits y.key = false → exec (.ciphStream c w) s = .next (whenSettled s k (s.failAt k slots stKeyUsageDenied y.field))) ∧
    (∀ y, x.slot w.ka = some y → l.fits y.key = true →
      (∀ det, streamCheck l x.stream.isSome r w.ka (modBit w 1) x.ip cnt = some det →
        exec (.ciphStream c w) s = .next (whenSettled s k (s.failAt k slots stFormatError det))) ∧
      (streamCheck l x.stream.isSome r w.ka (modBit w 1) x.ip cnt = none →
        (cnt = 0 → l.final = false → ∃ t, exec (.ciphStream c w) s = .next t ∧ retires k 2 { x with stream := some r } s t) ∧
        (cnt ≠ 0 ∨ l.final = true → s.lanesUp c.cc = [] →
          exec (.ciphStream c w) s = .next (whenSettled s k (s.failAt k slots stFaultDetected (unitDetail c.cc (Sparse.get 0 s.ci.lastOut c.cc))))) ∧
        (cnt ≠ 0 ∨ l.final = true → s.lanesUp c.cc ≠ [] →
          let run : StreamRun := { word := l, aad := modBit w 1, noOut := modBit w 2, slot := w.ka, key := s.wires c.cc y, left := cnt, dest := w.d,
                                   expected := x.vr w.d, pc := x.pc, num := x.retired, record := r }
          let z := x.claim (if ({ word := l, dest := w.d : LaneJob }).writesD then [w.d.val] else [])
          let home := if x.stream.isSome then x.home else none
          (∃ u, retires k slots { z with run := some run, home } s u ∧ exec (.ciphStream c w) s = .next (u.pump k pumpFuel)) ∧
          (∀ lane, run.ends = true → x.has (x.ip + cnt) = true → s.lanesOut k < 4 →
            s.pickLane c.cc (if l.chained then home.filter fun i => (s.lane c.cc i).svc.inService else none) = some lane →
            let q := (run.job x.op (x.inBytes x.ip cnt)).part plainPath (s.wires c.cc y).clear
            let o : UnitOp := { owner := some k, pc := x.pc, num := x.retired, slot := w.ka, key := s.wires c.cc y, blocks := q.blocks, chained := l.chained,
                                job := .lane (run.job x.op (x.inBytes x.ip cnt)), place := if l.hasOutput then some x.issued else none }
            ∃ t, exec (.ciphStream c w) s = .next t ∧
              t.ctx k = { z with pc := (x.pc + 1) % 256, retired := x.retired + 1, home := if l.chained then some lane else home,
                                 issued := if l.hasOutput then x.issued + 1 else x.issued, stream := if l.final then none else some q.record,
                                 ip := (x.ip + cnt) % 2 ^ 24, op := if modBit w 2 then x.op else (x.op + q.out.length) % 2 ^ 24 } ∧
              (∀ j, j ≠ k → t.ctx j = s.ctx j) ∧
              t.lane c.cc lane = (if (s.lane c.cc lane).exec.isNone then (s.lane c.cc lane).begin o s.quartz else (s.lane c.cc lane).queue o) ∧
              (∀ n l', laneKey n l' ≠ laneKey c.cc lane → t.lane n l' = s.lane n l') ∧
              t = { s with regs := t.regs, sq := { s.sq with ctxs := t.sq.ctxs }, ci := { s.ci with lanes := t.ci.lanes } })))))

/-- The operations of a stream instruction leave in their order (R65, R91, R93). Sending what can go changes no V, S or key slot and no other context;
no operation that stands in a lane leaves it, and those it places are the context's, numbered on from the last; past the 3 µs of a fence over a key
the context holds, a stream under way ends its command with KEY_ORPHANED instead (R102). A compared result whose turn has not come waits, and one whose
turn has come is released alone where the next has not finished; a register that a later instruction has written keeps its value.
Where it goes beyond the spec's words it rests on logs 164, 176 and 217. -/
def Obligations.StreamPartsLeaveInOrder : Prop :=
  (∀ (k fuel f : Nat) (r : StreamRun) (s : State), (s.ctx k).run = some r → s.orphanField (s.ctx k) = some f →
    s.pump k (fuel + 1) = (s.updCtx k fun x => { x with pc := r.pc }).endCommand k stKeyOrphaned f) ∧
  (∀ (k fuel : Nat) (s : State), s.orphanField (s.ctx k) = none →
    let t := s.pump k fuel
    t.ctx k = { s.ctx k with run := (t.ctx k).run, home := (t.ctx k).home, issued := (t.ctx k).issued, stream := (t.ctx k).stream,
                             ip := (t.ctx k).ip, op := (t.ctx k).op } ∧
    (∀ j, j ≠ k → t.ctx j = s.ctx j) ∧ t = { s with sq := { s.sq with ctxs := t.sq.ctxs }, ci := { s.ci with lanes := t.ci.lanes } } ∧
    (s.ctx k).issued ≤ (t.ctx k).issued ∧ ((s.ctx k).run = none → t = s) ∧
    (∀ n l o, ((s.lane n l).exec = some o → (t.lane n l).exec = some o) ∧ ((s.lane n l).wait = some o → (t.lane n l).wait = some o)) ∧
    (∀ n l o, (t.lane n l).exec = some o ∨ (t.lane n l).wait = some o →
      ((s.lane n l).exec = some o ∨ (s.lane n l).wait = some o) ∨
      (o.owner = some k ∧ ∀ i, o.place = some i → (s.ctx k).issued ≤ i ∧ i < (t.ctx k).issued))) ∧
  (∀ (k i : Nat) (e : Effect) (s : State), (∀ f ∈ (s.ctx k).finished, f.1 ≠ (s.ctx k).released) →
    (i ≠ (s.ctx k).released →
      s.release k (some i) e = s.setCtx k { s.ctx k with finished := (s.ctx k).finished ++ [(i, e)] }) ∧
    (i = (s.ctx k).released → (∀ f ∈ (s.ctx k).finished, f.1 ≠ i + 1) → e.output = [] → e.result = [] → e.authFail = false → (s.ctx k).cmd ≠ none →
      (s.release k (some i) e).ctx k =
        e.regs.foldl (fun x r => if Sparse.get 0 x.writes r.1 ≤ e.num then x.putV r.1 r.2 else x)
          { s.ctx k with released := i + 1 })) ∧
  (∀ (k : Nat) (e : Effect) (s : State),
    ((s.ctx k).issued = (s.ctx k).released → s.inOrder k e = s.release k none e) ∧
    ((s.ctx k).issued ≠ (s.ctx k).released → s.inOrder k e = s.setCtx k
      { s.ctx k with issued := (s.ctx k).issued + 1, finished := (s.ctx k).finished ++ [((s.ctx k).issued, e)] }))

/-- HASH: the hash of a message, from the input stream or from V registers, under the key of slot KA for a keyed function, is queued for D onward in the
cluster's hash unit; the instruction retires. Of a message from the input what has been received is taken, and the instruction waits for the rest.
IP plus the count past 2^24 ends the command with FORMAT_ERROR 0xD005; an empty slot or a key that does not fit with KEY_USAGE_DENIED; a hash unit
out of service with FAULT_DETECTED, once the earlier operations of the context have completed; a reserved word stops.
Where it goes beyond the spec's words it rests on logs 8, 164, 182 and 228. -/
def Obligations.HashInstructionsQueueTheDigest : Prop :=
  (∀ (c : Ctx) (w : Insn) (x : Context) (s : State), let k := ctxKey c
    (s.readyCtx k 0x4 0x0 w = some x → hashWord (immBits w 0 16) = none ∨ 7 < w.a.val → exec (.hashStream c w) s = .refused .reservedEncoding) ∧
    (s.readyCtx k 0x4 0x1 w = some x → hashWord (immBits w 0 16) = none → exec (.hashRegisters c w) s = .refused .reservedEncoding) ∧
    (∀ h, s.readyCtx k 0x4 0x0 w = some x → hashWord (immBits w 0 16) = some h → w.a.val ≤ 7 → 2 ^ 24 < x.startIp + x.sr w.a →
      exec (.hashStream c w) s = .next (whenSettled s k (s.failAt k (2 + (x.sr w.a + 63) / 64) stFormatError 0xD005)))) ∧
  (∀ (i : Instr) (op : Nat) (c : Ctx) (w : Insn) (x : Context) (h : HashWord) (s : State), let k := ctxKey c
    let cnt := if op = 0 then x.sr w.a else immBits w 16 8 + 1
    let slots := 2 + (cnt + 63) / 64
    (i = .hashStream c w ∧ op = 0) ∨ (i = .hashRegisters c w ∧ op = 1) →
    s.readyCtx k 0x4 op w = some x → hashWord (immBits w 0 16) = some h → (op = 0 → w.a.val ≤ 7 ∧ x.startIp + cnt ≤ 2 ^ 24) →
    (h.keyed = true → x.slot w.ka = none → exec i s = .next (whenSettled s k (s.failAt k slots stKeyUsageDenied 3))) ∧
    (∀ y, h.keyed = true → x.slot w.ka = some y → hashKeyFits y.key = false →
      exec i s = .next (whenSettled s k (s.failAt k slots stKeyUsageDenied y.field))) ∧
    (∀ y, (h.keyed = true → x.slot w.ka = some y ∧ hashKeyFits y.key = true) →
      ((s.hashUnit c.cc).svc.inService = false →
        exec i s = .next (whenSettled s k (s.failAt k slots stFaultDetected (unitDetail c.cc (Sparse.get 4 s.ci.lastOut c.cc))))) ∧
      ((s.hashUnit c.cc).svc.inService = true →
        let left := cnt - x.gathered.length
        (op = 0 → x.has (x.ip + left) = false →
          exec i s = .next (s.setCtx k { x with
            gathered := x.gathered ++ x.inBytes x.ip (x.input.length - x.ip), ip := x.ip + (x.input.length - x.ip), wait := .chunk })) ∧
        ((op = 0 → x.has (x.ip + left) = true) →
          let m := if op = 0 then x.gathered ++ x.inBytes x.ip left else (x.vRange w.a 16).take cnt
          let z := if op = 0 then { x with ip := (x.ip + left) % 2 ^ 24, gathered := [] } else x
          let dests := (List.range ((h.outLen + 15) / 16)).map (w.d.val + ·)
          ∃ t, exec i s = .next t ∧ t.ctx k = { z.claim dests with pc := (x.pc + 1) % 256, retired := x.retired + 1 } ∧ (∀ j, j ≠ k → t.ctx j = s.ctx j) ∧
            (t.hashUnit c.cc).queue = (s.hashUnit c.cc).queue ++
              [{ owner := some k, pc := x.pc, num := x.retired, slot := w.ka, key := if h.keyed then s.wires c.cc y else {}, blocks := h.blocks m.length,
                 job := .hash { word := h, cust := x.vr w.b, bytes := m, dest := w.d } }] ∧
            (t.hashUnit c.cc).svc = (s.hashUnit c.cc).svc ∧
            t = { s with regs := t.regs, sq := { s.sq with ctxs := t.sq.ctxs }, ci := { s.ci with hash := t.ci.hash } }))))

/-- Lane and hash operations end (R127, R140, R143, R146, R153, R154). Where the two results of a lane operation agree, its blocks and the dummy rounds
it ran are counted, the waiting operation starts, and the result is released into the context it served: its output goes out, its registers are
written, or a failed comparison of a tag ends the command with AUTH_FAIL. Where they do not agree the result is discarded, the waiting operation
stays, the unit's test starts and the command ends with FAULT_DETECTED, DETAIL naming the unit. The digest of a hash operation is written to D
onward, or discarded, likewise, its blocks counted in either case. A register that a later instruction has written keeps its value. While a lane is stalled,
a unit is under test or the island relocks, nothing ends.
Where it goes beyond the spec's words it rests on logs 164, 165, 207 and 217. -/
def Obligations.UnitOperationsReleaseOrFault : Prop :=
  (∀ (n : Fin 16) (l : Fin 4) (o : UnitOp) (j : LaneJob) (ok : Bool) (s : State), (s.lane n l).exec = some o → o.job = .lane j →
    (s.lane n l).stalled = false → (s.lane n l).svc.katBusy = false → s.relocks n = false →
    let r := s.runLane n l j ok
    let counted := fun u : State => u.get (R.CC_DUMMY_CNT n) = (s.get (R.CC_DUMMY_CNT n) + s.laneDummies n l r.1.ciphered) % 2 ^ 32
    (r.2 = true →
      ∃ u, counted u ∧ u.get (R.CC_LANE_BLOCKS n l) = (s.get (R.CC_LANE_BLOCKS n l) + o.blocks) % 2 ^ 32 ∧
        u.lane n l = { (s.lane n l).advance s.quartz with sinceReseed := (s.lane n l).sinceReseed + o.blocks } ∧
        (∀ n' l', laneKey n' l' ≠ laneKey n l → u.lane n' l' = s.lane n' l') ∧ keeps [R.CC_LANE_BLOCKS n l, R.CC_DUMMY_CNT n] s u ∧
        u = { s with regs := u.regs, ci := { s.ci with lanes := u.ci.lanes, rounds := u.ci.rounds } } ∧
        exec (.laneOpComplete n l ok) s =
          .next (((match o.owner with | some k => u.release k o.place { j.effect r.1 with pc := o.pc, num := o.num } | none => u).settleSeed n l).pumpAll n)) ∧
    (r.2 = false →
      ∃ u, counted u ∧ (u.lane n l).exec = none ∧ (u.lane n l).bufExec = none ∧ (u.lane n l).wait = (s.lane n l).wait ∧
        (∀ n' l', laneKey n' l' ≠ laneKey n l → u.lane n' l' = s.lane n' l') ∧ keeps [R.CC_DUMMY_CNT n] s u ∧
        (∀ k, u.ctx k = if o.owner = some k then { s.ctx k with pc := o.pc } else s.ctx k) ∧
        u = { s with regs := u.regs, sq := { s.sq with ctxs := u.sq.ctxs }, ci := { s.ci with lanes := u.ci.lanes, rounds := u.ci.rounds } } ∧
        exec (.laneOpComplete n l ok) s = .next ((u.twinFault n l o.owner).pumpAll n))) ∧
  (∀ (n : Fin 16) (l : Fin 4) (ok : Bool) (s : State),
    (s.lane n l).exec = none ∨ (s.lane n l).stalled = true ∨ (s.lane n l).svc.katBusy = true ∨ s.relocks n = true →
    exec (.laneOpComplete n l ok) s = .next s) ∧
  (∀ (k : Nat) (e : Effect) (s : State),
    let u := e.output.foldl (fun s o => s.outputAt k e.pc o.1 o.2) s
    ((u.ctx k).cmd = none → s.release k none e = u) ∧
    ((u.ctx k).cmd ≠ none → e.authFail = true → s.release k none e = (u.setCtx k { u.ctx k with pc := e.pc }).endCommand k stAuthFail 0) ∧
    ((u.ctx k).cmd ≠ none → e.authFail = false →
      let y := e.regs.foldl (fun x r => if Sparse.get 0 x.writes r.1 ≤ e.num then x.putV r.1 r.2 else x) (u.ctx k)
      s.release k none e = u.setCtx k { y with result := e.result.foldl (fun r p => overlay p.1 p.2 r) y.result })) ∧
  (∀ (n : Fin 16) (u : Fin 6) (k : Nat) (s : State),
    ∃ v : State, v.get (R.CC_LAST_FAULT_UNIT n) = u.val ∧ v.get (R.CC_LAST_FAULT_KAT n) = 0 ∧ v.get (R.CC_LAST_FAULT_CTX n) = k % 64 ∧
      v.bit (R.BLK_INT_RAW (pgCC n)) 0 = true ∧ (v.unitSvc n u).katBusy = true ∧ v.sq = s.sq ∧ v.hq.qps = s.hq.qps ∧ v.ge = s.ge ∧
      s.twinFault n u (some k) = v.endCommand k stFaultDetected (unitDetail n u)) ∧
  (∀ (n : Fin 16) (o : UnitOp) (os : List UnitOp) (j : HashJob) (k : Nat) (s : State), (s.hashUnit n).queue = o :: os → o.job = .hash j →
    (s.hashUnit n).svc.katBusy = false → s.relocks n = false → o.owner = some k →
    ((s.ctx k).cmd ≠ none →
      ∃ t, exec (.hashOpComplete n true) s = .next t ∧
        (let dg := j.word.digest o.key.clear j.cust j.bytes
         t.ctx k = (List.range ((j.word.outLen + 15) / 16)).foldl (fun x i =>
           if Sparse.get 0 x.writes (j.dest + i) ≤ o.num then x.putV (j.dest + i) (slice (16 * i) 16 dg) else x) (s.ctx k)) ∧
        (∀ i, i ≠ k → t.ctx i = s.ctx i) ∧ (t.hashUnit n).queue = os ∧ (t.hashUnit n).svc = (s.hashUnit n).svc ∧
        t.get (R.CC_HASH_BLOCKS n) = (s.get (R.CC_HASH_BLOCKS n) + o.blocks) % 2 ^ 32 ∧ keeps [R.CC_HASH_BLOCKS n] s t ∧
        t = { s with regs := t.regs, sq := { s.sq with ctxs := t.sq.ctxs }, ci := { s.ci with hash := t.ci.hash } }) ∧
    exec (.hashOpComplete n false) s =
      .next ((((s.updHash n fun u => { u with queue := os }).count (R.CC_HASH_BLOCKS n) o.blocks).setCtx k { s.ctx k with pc := o.pc }).twinFault n 4 (some k))) ∧
  (∀ (n : Fin 16) (ok : Bool) (s : State), (s.hashUnit n).queue = [] ∨ (s.hashUnit n).svc.katBusy = true ∨ s.relocks n = true →
    exec (.hashOpComplete n ok) s = .next s)

/-- Tests, reseeds and resets of the cipher clusters (R138, R147, R150, R151, R155). A request stands until the test, and only ungates the island
besides; a passed test leaves the unit passed, and in service where Flint is ready and a lane's generator seeded; a failed one takes it out of
service. A reseed that is due takes 32 bytes of the cluster's queue; with the queue short the lane goes on with its seed until that has served
65,536 blocks, and then stalls. A reset acts only on an empty, powered cluster: its registers are at reset, its units out of service with their
tests running, its random instance and queue empty; a request through RST that does not act sets RST INT_RAW bit 3.
Where it goes beyond the spec's words it rests on logs 3, 165, 206 and 211. -/
def Obligations.CipherClusterTestsAndResets : Prop :=
  (∀ (n : Fin 16) (lanes : BitVec 4) (s : State), reachable s (pgCC n) →
    (∃ t, exec (.katGoLane n lanes) s = .next t ∧
      (∀ l : Fin 4, t.lane n l = if lanes.getLsbD l then { s.lane n l with svc := { (s.lane n l).svc with katWanted := true } } else s.lane n l) ∧
      t = { s.cross n with ci := { s.ci with lanes := t.ci.lanes } }) ∧
    (∃ t, exec (.katGoHash n) s = .next t ∧ (t.hashUnit n).svc = { (s.hashUnit n).svc with katWanted := true } ∧
      (t.hashUnit n).queue = (s.hashUnit n).queue ∧ t = { s.cross n with ci := { s.ci with hash := t.ci.hash } }) ∧
    (∃ t, exec (.katGoFmt n) s = .next t ∧ t.fmtUnit n = { s.fmtUnit n with katWanted := true } ∧
      t = { s.cross n with ci := { s.ci with fmt := t.ci.fmt } })) ∧
  (∀ (n : Fin 16) (lanes : BitVec 4) (s : State), s.responds (pgCC n) = false →
    exec (.katGoLane n lanes) s = .next s ∧ exec (.katGoHash n) s = .next s ∧ exec (.katGoFmt n) s = .next s) ∧
  (∀ (n : Fin 16) (u : Fin 6) (s : State), (s.unitSvc n u).katBusy = true ∨ ((s.unitSvc n u).katWanted = true ∧ s.unitIdle n u = true) →
    s.relocks n = false →
    (∃ t, exec (.katComplete n u true true) s = .next t ∧ (t.unitSvc n u).passed = true ∧ (t.unitSvc n u).katBusy = false ∧
      (t.unitSvc n u).katWanted = false ∧ (t.unitSvc n u).katFail = false ∧
      (t.unitSvc n u).inService = (((s.unitSvc n u).inService || s.get R.FLT_READY == 1) && (decide (4 ≤ u.val) || (s.lane n u).seeded)) ∧
      ((s.unitSvc n u).katWanted = true → t.bit (R.BLK_INT_RAW (pgCC n)) 4 = true)) ∧
    (∀ pass twinOk, pass = false ∨ twinOk = false →
      ∃ t, exec (.katComplete n u pass twinOk) s = .next t ∧ (t.unitSvc n u).inService = false ∧ (t.unitSvc n u).katFail = true ∧
        (t.unitSvc n u).katBusy = false ∧ t.bit (R.BLK_INT_RAW (pgCC n)) 1 = true ∧
        (4 ≤ u.val → t.bit (R.BLK_INT_RAW (pgCC n)) 2 = true))) ∧
  (∀ (n : Fin 16) (l : Fin 4) (s : State), s.reseedDue (s.lane n l) = true →
    (32 ≤ s.queueFill n →
      ∃ t, exec (.laneReseed n l) s = .next t ∧ t.queue n = (s.queue n).drop 32 ∧ (t.lane n l).seed = (s.queue n).take 32 ∧
        (t.lane n l).seeded = true ∧ (t.lane n l).stalled = false ∧ (t.lane n l).sinceReseed = 0 ∧
        t.get (R.CC_RESEED_CNT n) = (s.get (R.CC_RESEED_CNT n) + 1) % 2 ^ 16) ∧
    (s.queueFill n < 32 → (s.lane n l).sinceReseed < 65536 ∨ (s.lane n l).stalled = true → exec (.laneReseed n l) s = .next s) ∧
    (s.queueFill n < 32 → 65536 ≤ (s.lane n l).sinceReseed → (s.lane n l).stalled = false →
      ∃ t, exec (.laneReseed n l) s = .next t ∧ t.lane n l = { s.lane n l with stalled := true } ∧ t.bit (R.BLK_INT_RAW (pgCC n)) 3 = true ∧
        t.get (R.CC_RESEED_STALL n) = satAdd 16 (s.get (R.CC_RESEED_STALL n)) 1 % 2 ^ 16)) ∧
  (∀ (n : Fin 16) (l : Fin 4) (s : State), s.reseedDue (s.lane n l) = false → exec (.laneReseed n l) s = .next s) ∧
  (∀ (n : Fin 16) (viaRst : Bool) (s : State), s.responds (if viaRst then pgRST else pgCC n) = true →
    (s.busyIn n = [] → s.islandOn (pgCC n) = true → s.relocks n = false →
      ∃ t, exec (.ccReset n viaRst) s = .next t ∧
        (∀ u < 6, (t.unitSvc n u).inService = false ∧ (t.unitSvc n u).katBusy = true) ∧ (∀ l < 4, (t.lane n l).exec = none ∧ (t.lane n l).wait = none) ∧
        (t.hashUnit n).queue = [] ∧ t.movedOps n = [] ∧ t.queue n = [] ∧ t.drbg n = {} ∧ (n.val = 0 → t.ci.faults = []) ∧
        (∀ f : Field, f.addr / 0x1000 = pgCC n → f.lsb < 32 → t.get f = f.reset % 2 ^ f.width) ∧
        t.bit R.GBL_CC_INSERVICE n = false ∧ t.residents n = [] ∧ t.bit (R.BLK_INT_RAW pgRST) 2 = true) ∧
    (s.islandOn (pgCC n) = false → exec (.ccReset n viaRst) s = .next (if viaRst then s.raise pgRST 3 else s)) ∧
    (s.busyIn n ≠ [] → s.islandOn (pgCC n) = true → s.relocks n = false →
      exec (.ccReset n viaRst) s = .next (if viaRst then (s.cross n).raise pgRST 3 else s.cross n)) ∧
    (s.islandOn (pgCC n) = true → s.relocks n = true →
      exec (.ccReset n viaRst) s = .next { s with pw := { s.pw with crossings := s.pw.crossings ++ [.ccReset n viaRst] } })) ∧
  (∀ (n : Fin 16) (viaRst : Bool) (s : State), s.responds (if viaRst then pgRST else pgCC n) = false → exec (.ccReset n viaRst) s = .next s)

/-! ## Keys -/

/-- The key slot instructions. FETCH of a resident chain loads slot KD with the record, its mask, field and stamp; a refused FETCH ends the command with
the status R70 gives and the field; a FETCH of a record that is not resident, or before the key table is ready, empties the slot and waits for the
fill. RELEASE empties a slot, KCV writes the check value, EXTRACT writes clear material of an exportable key. An instruction under an empty slot
ends its command with KEY_USAGE_DENIED, DETAIL 3 (R71).
Where it goes beyond the spec's words it rests on logs 8 and 178. -/
def Obligations.KeySlotInstructions : Prop :=
  (∀ (c : Ctx) (w : Insn) (x : Context) (r : KeyRecord) (chain : List Nat) (s : State), let k := ctxKey c
    let field := immBits w 0 2
    let h := x.desc.keyField field
    let u := s.openEpoch x.part
    s.readyCtx k 0x2 0x0 w = some x → s.ge.ready = true → u.judgeFetch x.part h (modBits w 0 4) (immBits w 16 14) = .ok (r, chain) →
    u.missing c.cc chain = [] →
    ∃ t, exec (.fetch c w) s = .next t ∧
      t.ctx k = { x with keys := x.keys.set w.kd (some { key := r.key, mask := immBits w 16 14, field, line := some (lineKey x.part h), stamp := chain }),
                         stream := x.stream.filter (fun z => z.slot ≠ w.kd), filled := false, pc := (x.pc + 1) % 256, retired := x.retired + 1 } ∧
      (∀ j, j ≠ k → t.ctx j = u.ctx j) ∧ (∀ n, n ≠ c.cc.val → t.cacheOf n = u.cacheOf n) ∧
      keeps [R.KCS_HIT c.cc, R.SEQ_ISSUE_CNT c.cc, R.SEQ_RETIRE_CNT c.cc] u t ∧
      t.get (R.KCS_HIT c.cc) = (u.get (R.KCS_HIT c.cc) + if x.filled then 0 else 1) % 2 ^ 32 ∧
      t = { u with regs := t.regs, sq := { u.sq with ctxs := t.sq.ctxs }, ge := { u.ge with slices := t.ge.slices } }) ∧
  (∀ (c : Ctx) (w : Insn) (x : Context) (st : Nat) (s : State), let k := ctxKey c
    let field := immBits w 0 2
    let h := x.desc.keyField field
    let u := s.openEpoch x.part
    s.readyCtx k 0x2 0x0 w = some x → s.ge.ready = true ∨ u.mayName x.part h = false →
    u.judgeFetch x.part h (modBits w 0 4) (immBits w 16 14) = .error st →
    (x.filled = true ∨ (u.line (lineKey x.part h)).live = false ∨ u.mayName x.part h = false ∨ u.residentAt c.cc (lineKey x.part h) = true →
      exec (.fetch c w) s = .next (whenSettled s k (u.failAt k 4 st field))) ∧
    (x.filled = false → (u.line (lineKey x.part h)).live = true → u.mayName x.part h = true → u.residentAt c.cc (lineKey x.part h) = false →
      exec (.fetch c w) s = .next ((u.count (R.KCS_MISS c.cc)).setCtx k { x.bindSlot w.kd none with wait := .keyFill, since := u.quartz }))) ∧
  (∀ (c : Ctx) (w : Insn) (x : Context) (s : State), let k := ctxKey c
    let u := s.openEpoch x.part
    let line := lineKey x.part (x.desc.keyField (immBits w 0 2))
    s.readyCtx k 0x2 0x0 w = some x → s.ge.ready = false → u.mayName x.part (x.desc.keyField (immBits w 0 2)) = true →
    exec (.fetch c w) s = .next ((if u.residentAt c.cc line = true ∨ (u.line line).live = false then u else u.count (R.KCS_MISS c.cc)).setCtx k
      { x.bindSlot w.kd none with wait := .keyFill, since := u.quartz })) ∧
  (∀ (c : Ctx) (w : Insn) (x : Context) (r : KeyRecord) (chain : List Nat) (s : State), let k := ctxKey c
    let u := s.openEpoch x.part
    s.readyCtx k 0x2 0x0 w = some x → s.ge.ready = true →
    u.judgeFetch x.part (x.desc.keyField (immBits w 0 2)) (modBits w 0 4) (immBits w 16 14) = .ok (r, chain) → u.missing c.cc chain ≠ [] →
    exec (.fetch c w) s = .next ((u.count (R.KCS_MISS c.cc)).setCtx k { x.bindSlot w.kd none with wait := .keyFill, since := u.quartz })) ∧
  (∀ (c : Ctx) (w : Insn) (x : Context) (s : State), let k := ctxKey c
    s.readyCtx k 0x2 0x1 w = some x →
    ∃ t, exec (.release c w) s = .next t ∧
      retires k 4 { x with keys := x.keys.set w.kd none, stream := x.stream.filter fun z => z.slot ≠ w.kd } s t) ∧
  (∀ (c : Ctx) (w : Insn) (x : Context) (y : KeySlot) (s : State), let k := ctxKey c
    s.readyCtx k 0x2 0x2 w = some x → x.slot w.ka = some y →
    ∃ t, exec (.kcv c w) s = .next t ∧ retires k 4 (x.setV w.d y.key.kcv) s t) ∧
  (∀ (c : Ctx) (w : Insn) (x : Context) (y : KeySlot) (s : State), let k := ctxKey c
    s.readyCtx k 0x2 0xA w = some x → x.slot w.ka = some y → y.key.exportable = true →
    immBits w 0 13 + 16 * (immBits w 16 3 + 1) ≤ y.key.material.length →
    ∃ t, exec (.keyExtract c w) s = .next t ∧
      retires k 4 (x.setVRange w.d (immBits w 16 3 + 1) (y.key.material.drop (immBits w 0 13))) s t) ∧
  (∀ (c : Ctx) (w : Insn) (x : Context) (y : KeySlot) (s : State), let k := ctxKey c
    s.readyCtx k 0x2 0xA w = some x → x.slot w.ka = some y → y.key.exportable = false →
    immBits w 0 13 + 16 * (immBits w 16 3 + 1) ≤ y.key.material.length →
    exec (.keyExtract c w) s = .next (whenSettled s k (s.failAt k 4 stKeyUsageDenied y.field))) ∧
  (∀ (c : Ctx) (w : Insn) (x : Context) (y : KeySlot) (s : State), let k := ctxKey c
    s.readyCtx k 0x2 0xA w = some x → x.slot w.ka = some y → y.key.material.length < immBits w 0 13 + 16 * (immBits w 16 3 + 1) →
    exec (.keyExtract c w) s = .next (whenSettled s k (s.failAt k 4 stFormatError 0xC074))) ∧
  (∀ (c : Ctx) (w : Insn) (x : Context) (s : State), let k := ctxKey c
  x.slot w.ka = none →
  (s.readyCtx k 0x2 0x2 w = some x → exec (.kcv c w) s = .next (whenSettled s k (s.failAt k 4 stKeyUsageDenied 3))) ∧
  (s.readyCtx k 0x2 0xA w = some x → exec (.keyExtract c w) s = .next (whenSettled s k (s.failAt k 4 stKeyUsageDenied 3))) ∧
  (s.readyCtx k 0x3 0x0 w = some x → (laneWord (immBits w 0 16)).valid true (modBit w 1) (modBit w 2) = true →
    exec (.ciphBlock c w) s = .next (whenSettled s k (s.failAt k 1 stKeyUsageDenied 3))) ∧
  (∀ twin, s.readyCtx k 0x6 0x0 w = some x → (s.derEntry x (immBits w 0 7)).kind ≠ 0 → (s.derEntry x (immBits w 0 7)).kind ≠ 7 →
    exec (.deriveKey c w twin) s =
      .next (whenSettled s k (s.failAt k (4 + 2 * (s.derEntry x (immBits w 0 7)).template.length) stKeyUsageDenied 3))))

/-- Ephemeral keys. GENERATE places in slot KD a key of the cluster's next random bytes, ORIGIN 0, level 6, and waits while the queue holds fewer; a
MAKE without FINAL lays V register bytes over the key being built; with FINAL it places the finished key, ORIGIN 1. Material outside Table 7.4 is
refused with FORMAT_ERROR, a partition over its quota of ephemeral entries with QUOTA_EXCEEDED, DETAIL 2, and GEO INT_RAW bit 4; while the slice has
no room the instruction does not issue. An encoding Table 3.2 reserves stops.
Where it goes beyond the spec's words it rests on logs 8, 162 and 208. -/
def Obligations.EphemeralKeysArePlaced : Prop :=
  (∀ (c : Ctx) (w : Insn) (x : Context) (s : State), let k := ctxKey c
    let cls := modBits w 0 4
    let sel := bitsOf (x.sr w.a) 16 6
    let mlen := bitsOf (x.sr w.b) 16 13
    let s0 := s.setCtx k (x.setSlot w.kd none)
    s.readyCtx k 0x2 0x3 w = some x →
    (7 < w.a.val ∨ 7 < w.b.val ∨ cls < 1 ∨ 3 < cls → exec (.generate c w) s = .refused .reservedEncoding) ∧
    (w.a.val ≤ 7 → w.b.val ≤ 7 → 1 ≤ cls → cls ≤ 3 →
      ((s.part x.part).ephQuota < s0.ephUsed x.part + keyEntries mlen →
        exec (.generate c w) s = .next (whenSettled s k ((s.raise pgGEO 4).failAt k 4 stQuotaExceeded 2))) ∧
      (s0.ephUsed x.part + keyEntries mlen ≤ (s.part x.part).ephQuota →
        (s.materialFits cls .secret sel mlen = false → exec (.generate c w) s = .next (whenSettled s k (s.failAt k 4 stFormatError 0xC074))) ∧
        (s.materialFits cls .secret sel mlen = true →
          (s.queueFill c.cc < mlen → exec (.generate c w) s = .next (s.setCtx k { x with wait := .random, since := s.quartz })) ∧
          (mlen ≤ s.queueFill c.cc → s0.entriesUsed c.cc + keyEntries mlen ≤ 4096 →
            ∃ t, ∃ held : Masked, exec (.generate c w) s = .next t ∧
              (let m := (s.queue c.cc).take mlen
               let key : Key := { ktype := .secret, cls, sel, level := 6, usage := bitsOf (x.sr w.a) 0 14, attr := withOrigin (bitsOf (x.sr w.b) 0 14) 0,
                                  material := m }
               held.clear = key.material ∧
               t.ctx k = { x with keys := x.keys.set w.kd (some { key := { key with kcv := key.checkValue }, held }),
                                  pc := (x.pc + 1) % 256, retired := x.retired + 1 }) ∧
              (∀ j, j ≠ k → t.ctx j = s.ctx j) ∧ t.queue c.cc = (s.queue c.cc).drop mlen ∧ (∀ n, n ≠ c.cc.val → t.queue n = s.queue n) ∧
              t = { s with regs := t.regs, sq := { s.sq with ctxs := t.sq.ctxs }, fl := { s.fl with queues := t.fl.queues },
                           ge := { s.ge with masks := s.ge.masks + 1 } }))))) ∧
  (∀ (c : Ctx) (w : Insn) (x : Context) (s : State), let k := ctxKey c
    let off := immBits w 0 13
    let n := immBits w 16 3 + 1
    let final := bitOf w.imm.toNat 31
    let old := ((x.keys.getD w.kd none).filter (·.building)).getD { building := true }
    let built := overlay off (x.vRange w.d n) (fitBytes (max old.key.material.length (off + 16 * n)) old.key.material)
    let mlen := if final then bitsOf (x.sr w.b) 16 13 else 4896
    let need := keyEntries (min mlen built.length)
    let s0 := s.setCtx k (x.setSlot w.kd none)
    let cls := modBits w 0 4
    let type := modBits w 4 4
    let sel := bitsOf (x.sr w.a) 16 6
    s.readyCtx k 0x2 0x4 w = some x →
    (final = true → 7 < w.a.val ∨ 7 < w.b.val → exec (.make c w) s = .refused .reservedEncoding) ∧
    (final = false ∨ (w.a.val ≤ 7 ∧ w.b.val ≤ 7) →
      ((s.part x.part).ephQuota < s0.ephUsed x.part + need → exec (.make c w) s = .next (whenSettled s k ((s.raise pgGEO 4).failAt k 4 stQuotaExceeded 2))) ∧
      (s0.ephUsed x.part + need ≤ (s.part x.part).ephQuota →
        (mlen < off + 16 * n → exec (.make c w) s = .next (whenSettled s k (s.failAt k 4 stFormatError 0xC074))) ∧
        (off + 16 * n ≤ mlen → s0.entriesUsed c.cc + need ≤ 4096 →
          (final = false → old.key.material.length ≤ 4896 → ∃ t, ∃ held : Masked, exec (.make c w) s = .next t ∧ held.clear = built ∧
            t.ctx k = { x with keys := x.keys.set w.kd (some { old with building := true, key := { old.key with material := built }, held }),
                               pc := (x.pc + 1) % 256, retired := x.retired + 1 } ∧
            (∀ j, j ≠ k → t.ctx j = s.ctx j) ∧
            t = { s with regs := t.regs, sq := { s.sq with ctxs := t.sq.ctxs }, ge := { s.ge with masks := s.ge.masks + 1 } }) ∧
          (final = true → built.length = mlen → 1 ≤ type → type ≤ 3 → s.materialFits cls (ktypeOf type) sel mlen = true →
            ∃ t, ∃ held : Masked, exec (.make c w) s = .next t ∧
              (let key : Key := { ktype := ktypeOf type, cls, sel, level := 6, usage := bitsOf (x.sr w.a) 0 14,
                                  attr := withOrigin (bitsOf (x.sr w.b) 0 14) 1, material := built }
               held.clear = built ∧
               t.ctx k = { x with keys := x.keys.set w.kd (some { key := { key with kcv := key.checkValue }, held }),
                                  pc := (x.pc + 1) % 256, retired := x.retired + 1 }) ∧
              (∀ j, j ≠ k → t.ctx j = s.ctx j) ∧
              t = { s with regs := t.regs, sq := { s.sq with ctxs := t.sq.ctxs }, ge := { s.ge with masks := s.ge.masks + 1 } })) ∧
        (final = true → off + 16 * n ≤ mlen → built.length ≠ mlen ∨ type < 1 ∨ 3 < type ∨ s.materialFits cls (ktypeOf type) sel mlen = false →
          exec (.make c w) s = .next (whenSettled s k (s.failAt k 4 stFormatError 0xC074)))))) ∧
  (∀ (k slots need : Nat) (x x' : Context) (kd : Nat) (y : KeySlot) (s : State), need = keyEntries y.key.material.length →
    (s.setCtx k (x.setSlot kd none)).ephUsed x.part + need ≤ (s.part x.part).ephQuota →
    (s.setCtx k (x.setSlot kd none)).makeRoom (clusterOf k) x.part need [] 4096 = none → s.placeEphemeral k slots x kd y x' = .next s)

/-- Record instructions. WRITEREC writes the key as a live record of the handle and sends its lines at OP; LOADREC puts the next record of the input to
the table and writes its code, taking its lines as they arrive; READREC sends the record's lines; DESTROY empties the context's slots and waits for
its fence; ATTEST hands two signatures of the statement to public-key clusters. READREC and DESTROY of a record whose chain is not in the slice wait for
the fill, and a chain or a line that fails ends them. Each is refused with the first failing check's status, once the earlier operations of its context
have completed, and an encoding Table 3.2 reserves stops. A record written by WRITEREC: its line is live under the handle, keyed as the slot's key with its level, parent,
parent's GEN and owner, M_HQE 1, the scope's table epoch, and is otherwise the only line changed but the extension lines it takes.
Where it goes beyond the spec's words it rests on logs 8, 128, 161, 163 and 228. -/
def Obligations.RecordInstructions : Prop :=
  ((∀ (c : Ctx) (w : Insn) (x : Context) (y : KeySlot) (parent : Option KeySlot) (s : State), let k := ctxKey c
    let u := s.openEpoch x.part
    s.readyCtx k 0x2 0x5 w = some x → w.a.val ≤ 7 → x.slot w.ka = some y →
    (modBit w 4 = true ∧ parent = none) ∨ (modBit w 4 = false ∧ parent.isSome = true ∧ x.slot w.kd = parent) →
    (∀ bs v d, u.placeRecord x.part (x.sr w.a) y parent (modBit w 5) = .ok (bs, v, d) →
      let t := (v.retire k 4 { x with op := (x.op + bs.length) % 2 ^ 24, delta := d <|> x.delta }).inOrder k
        { output := [(x.op, bs)], pc := x.pc, num := x.retired }
      ((t.ctx k).cmd ≠ none ∨ s.settled k = true → exec (.writerec c w) s = .next t) ∧
      ((t.ctx k).cmd = none → s.settled k = false → exec (.writerec c w) s = .next s)) ∧
    (∀ e, u.placeRecord x.part (x.sr w.a) y parent (modBit w 5) = .error e → exec (.writerec c w) s = .next (whenSettled s k (u.failAt k 4 e.1 e.2)))) ∧
  (∀ (c : Ctx) (w : Insn) (x : Context) (s : State), let k := ctxKey c
    s.readyCtx k 0x2 0x5 w = some x →
    (7 < w.a.val → exec (.writerec c w) s = .refused .reservedEncoding) ∧
    (w.a.val ≤ 7 → x.slot w.ka = none ∨ (modBit w 4 = false ∧ x.slot w.kd = none) →
      exec (.writerec c w) s = .next (whenSettled s k (s.failAt k 4 stKeyUsageDenied 3)))) ∧
  (∀ (c : Ctx) (w : Insn) (x : Context) (s : State), let k := ctxKey c
    let n := max 1 (leNat (x.inBytes (x.startIp + 6) 1))
    let left := 128 * n - x.gathered.length
    s.readyCtx k 0x2 0x7 w = some x →
    (7 < w.a.val ∨ 7 < w.d.val → exec (.loadrec c w) s = .refused .reservedEncoding) ∧
    (w.a.val ≤ 7 → w.d.val ≤ 7 →
      (x.has (x.startIp + 128) = false → exec (.loadrec c w) s = .next (s.setCtx k { x with wait := .chunk })) ∧
      (x.has (x.startIp + 128) = true →
        (x.has (x.ip + left) = false → ∃ t, exec (.loadrec c w) s = .next t ∧ t = s.setCtx k (t.ctx k) ∧ t.ctx k =
          { x with gathered := x.gathered ++ x.inBytes x.ip (x.input.length - x.ip), ip := x.ip + (x.input.length - x.ip), wait := .chunk }) ∧
        (x.has (x.ip + left) = true →
          (∀ st, s.loadRecord x.part (x.sr w.a) (x.gathered ++ x.inBytes x.ip left) = .error st → exec (.loadrec c w) s = .next (whenSettled s k (s.failAt k 4 st 0))) ∧
          (∀ code u d, s.loadRecord x.part (x.sr w.a) (x.gathered ++ x.inBytes x.ip left) = .ok (code, u, d) →
            ∃ t, exec (.loadrec c w) s = .next t ∧
              retires k 4 { x with sreg := x.sreg.set w.d (BitVec.ofNat 32 code), ip := (x.ip + left) % 2 ^ 24, gathered := [],
                                   delta := d <|> x.delta } u t))))) ∧
  (∀ (c : Ctx) (w : Insn) (x : Context) (s : State), let k := ctxKey c
    let h := x.desc.keyField (immBits w 0 2)
    s.readyCtx k 0x2 0x8 w = some x →
    (∀ bs, s.recordLinesOf x.part h = .ok bs → s.geodeWalk c.cc x.part h = .ok true → s.recordFails (lineKey x.part h) = false →
      let t := (s.retire k 4 { x with op := (x.op + bs.length) % 2 ^ 24, filled := false }).inOrder k
        { output := [(x.op, bs)], pc := x.pc, num := x.retired }
      ((t.ctx k).cmd ≠ none ∨ s.settled k = true → exec (.readrec c w) s = .next t) ∧
      ((t.ctx k).cmd = none → s.settled k = false → exec (.readrec c w) s = .next s)) ∧
    (∀ st, s.recordLinesOf x.part (x.desc.keyField (immBits w 0 2)) = .error st →
      exec (.readrec c w) s = .next (whenSettled s k (s.failAt k 4 st (immBits w 0 2))))) ∧
  (∀ (c : Ctx) (w : Insn) (x : Context) (s : State), let k := ctxKey c
    let h := x.desc.keyField (immBits w 0 2)
    s.readyCtx k 0x2 0x6 w = some x → s.refuseDestroy x.part h = none → s.geodeWalk c.cc x.part h = .ok true → s.recordFails (lineKey x.part h) = false →
    ∃ t, exec (.destroy c w) s = .next t ∧
      t.ctx k = { x with keys := List.replicate 4 none, stream := none, wait := .fence, since := s.quartz, filled := false } ∧ (∀ j, j ≠ k → t.ctx j = s.ctx j) ∧
      t = { s with sq := { s.sq with ctxs := t.sq.ctxs } }) ∧
  (∀ (c : Ctx) (w : Insn) (x : Context) (st : Nat) (s : State), let k := ctxKey c
    s.readyCtx k 0x2 0x6 w = some x → s.refuseDestroy x.part (x.desc.keyField (immBits w 0 2)) = some st →
    exec (.destroy c w) s = .next (whenSettled s k (s.failAt k 4 st (immBits w 0 2)))) ∧
  (∀ (i : Instr) (op : Nat) (c : Ctx) (w : Insn) (x : Context) (s : State), let k := ctxKey c
    let h := x.desc.keyField (immBits w 0 2)
    (i = .readrec c w ∧ op = 8 ∧ ∃ bs, s.recordLinesOf x.part h = .ok bs) ∨ (i = .destroy c w ∧ op = 6 ∧ s.refuseDestroy x.part h = none) →
    s.readyCtx k 0x2 op w = some x →
    (s.geodeWalk c.cc x.part h = .ok false → exec i s = .next (s.setCtx k { x with wait := .keyFill, since := s.quartz })) ∧
    (∀ st, s.geodeWalk c.cc x.part h = .error st → exec i s = .next (whenSettled s k (s.failAt k 4 st (immBits w 0 2)))) ∧
    (s.geodeWalk c.cc x.part h = .ok true → s.recordFails (lineKey x.part h) = true →
      exec i s = .next (whenSettled s k ((s.lineFailed c.cc (lineKey x.part h)).failAt k 4 stKeyNotFound (immBits w 0 2))))) ∧
  (∀ (c : Ctx) (w : Insn) (x : Context) (s : State), let k := ctxKey c
    s.readyCtx k 0x2 0x9 w = some x →
    (x.slot w.ka = none → exec (.attest c w) s = .next (whenSettled s k (s.failAt k 4 stKeyUsageDenied 3))) ∧
    (∀ y, x.slot w.ka = some y → y.line = none ∨ y.key.origin ≠ 0 ∨ y.key.exportable = true ∨ s.lcState = 6 →
      exec (.attest c w) s = .next (whenSettled s k (s.failAt k 4 stKeyUsageDenied y.field))) ∧
    (∀ y line, x.slot w.ka = some y → y.line = some line → y.key.origin = 0 → y.key.exportable = false → s.lcState ≠ 6 →
      (∀ det, s.handTo false [] = .error (some det) → exec (.attest c w) s = .next (whenSettled s k (s.failAt k 4 stFaultDetected det))) ∧
      (s.handTo false [] = .error none → exec (.attest c w) s = .next s) ∧
      (∀ p, s.handTo false [] = .ok p → let q := (s.pickPk true [p]).getD p
        (s.pkFull p false = true ∨ s.pkFull q true = true → exec (.attest c w) s = .next s) ∧
        (s.pkFull p false = false → s.pkFull q true = false → s.queueFill c.cc < 256 →
          exec (.attest c w) s = .next (s.setCtx k { x with wait := .random, since := s.quartz })) ∧
        (s.pkFull p false = false → s.pkFull q true = false → 256 ≤ s.queueFill c.cc → ∃ t, exec (.attest c w) s = .next t ∧
          t.ctx k = { x with wait := .pkx, sigs := [] } ∧ (∀ j, j ≠ k → t.ctx j = s.ctx j) ∧
          (∃ o, t.pkQueue p false = s.pkQueue p false ++ [o] ∧ o.attest = 1 ∧ o.owner = some k ∧
            o.source = s.statement x line y.key (x.vRange w.a 2) ∧ o.rand = (s.queue c.cc).take 192) ∧
          (∃ o, t.pkQueue q true = s.pkQueue q true ++ [o] ∧ o.attest = 2 ∧ o.owner = some k ∧
            o.source = s.statement x line y.key (x.vRange w.a 2) ∧ o.rand = ((s.queue c.cc).drop 192).take 64) ∧
          t.queue c.cc = (s.queue c.cc).drop 256 ∧ (∀ l, t.line l = s.line l)))))) ∧
  (∀ (p h : Nat) (y : KeySlot) (parent : Option KeySlot) (five : Bool) (bs : List Byte) (u : State) (d : Option Nat) (s : State),
    s.placeRecord p h y parent five = .ok (bs, u, d) →
    let k := lineKey p h
    (∃ r, u.line k = { gen := max 1 (s.line k).gen, live := true, record := some r } ∧ r.owner = p ∧ r.tepoch = s.writeEpoch p ∧
      bs = u.lineBytes k (u.line k) ∧
      r.key.material = y.key.material ∧ r.key.cls = y.key.cls ∧ r.key.usage = y.key.usage ∧ r.key.created = s.quartz ∧ bitOf r.key.attr 3 = true ∧
      recordLevel y.key.origin five (parent.map (·.key.level)) = some r.key.level ∧
      (match parent with
       | some z => ∀ l, z.line = some l → r.parent = lineHandle l ∧ r.parentGen = (s.line l).gen
       | none => r.parent = noHandle ∧ r.parentGen = (s.scopeRoot p (handleScope h)).gen)) ∧
    (∀ j, j ≠ k → (s.line j).extOf ≠ some k → (j < k ∨ k + recordLines y.key.material.length ≤ j) → u.line j = s.line j) ∧
    u.sq = s.sq ∧ u.ci = s.ci ∧ u.hb = s.hb)

/-! ## FMT, DERIVE, RAND, DONE and the sequencer -/

/-- FMT applies the entry of IMM[5:0] in a format unit that is in service: a success clears FE and writes D and the PIN length where the operation gives
them; a failed check sets FE under SOFT and otherwise ends the command with FORMAT_ERROR, DETAIL 0x8000 + 0x100 times the entry + the code; an empty
entry ends it with ABORTED, DETAIL 4, a unit out of service or twin results that differ with FAULT_DETECTED, once the earlier operations of its context
have completed. BUILD_BLOCK of an entry that folds a PAN in waits for the input it is in.
Where it goes beyond the spec's words it rests on logs 8, 55, 184 and 228. -/
def Obligations.FormatInstructionsApplyTheEntry : Prop :=
  ∀ (i : Instr) (op : Nat) (c : Ctx) (w : Insn) (twinOk : Bool) (x : Context) (s : State), fmtInstr i = some (op, c, w, twinOk) → let k := ctxKey c
  let e := s.fmtEntry x (immBits w 0 6)
  let r := e.apply op (x.sr (immBits w 8 3)) (x.sr (immBits w 12 3)) (x.vr w.a) (x.vr w.b) (x.bufBytes (x.desc.param % 4096) 10)
  s.readyCtx k 0x5 op w = some x →
  (e.kind = 0 → exec i s = .next (whenSettled s k (s.failAt k 1 stAborted 4))) ∧
  (e.kind ≠ 0 → (s.fmtUnit c.cc).inService = false →
    exec i s = .next (whenSettled s k (s.failAt k (e.slots op) stFaultDetected (unitDetail c.cc (Sparse.get 5 s.ci.lastOut c.cc))))) ∧
  (e.kind ≠ 0 → (s.fmtUnit c.cc).inService = true →
    (op = 4 → e.folds = true → x.has (x.chunkBase + 4096) = false → exec i s = .next (s.setCtx k { x with wait := .chunk })) ∧
    (op ≠ 4 ∨ e.folds = false ∨ x.has (x.chunkBase + 4096) = true →
      (twinOk = false → ∃ u, keeps [R.SEQ_ISSUE_CNT c.cc, R.SEQ_RETIRE_CNT c.cc] s u ∧ u = { s with regs := u.regs } ∧
        exec i s = .next (whenSettled s k (u.twinFault c.cc 5 (some k)))) ∧
      (twinOk = true →
        (∀ d len, r = .ok (d, len) → ∃ t, exec i s = .next t ∧
          (let y := match d with | some v => x.setV w.d v | none => x
           retires k (e.slots op) { y with
             fe := false, sreg := (match len with | some n => x.sreg.set (immBits w 12 3) (BitVec.ofNat 32 n) | none => x.sreg) } s t)) ∧
        (∀ code, r = .error code → modBit w 0 = true → ∃ t, exec i s = .next t ∧ retires k (e.slots op) { x with fe := true } s t) ∧
        (∀ code, r = .error code → modBit w 0 = false →
          exec i s = .next (whenSettled s k (s.failAt k (e.slots op) stFormatError (0x8000 + 0x100 * immBits w 0 6 + code)))))))

/-- DERIVE 0x0 places the output of the entry as an ephemeral key of the entry's class and usage, with its parent's world, life-cycle states, epoch,
stamp and key field; DERIVE 0x1 writes a KIND 7 value to D. An empty entry, and one of the other operation, ends the command with ABORTED, DETAIL 4,
a key that does not fit with KEY_USAGE_DENIED, a missing unit or twin results that differ with FAULT_DETECTED, an ephemeral quota reached with
QUOTA_EXCEEDED, DETAIL 2, each once the earlier operations of the context have completed. The key runs from its two wires through the twins of the units
the entry uses (R81, R98, R127, R154): they agree on the output of Table 4.5 unless something upset one of them. RAND takes its bytes of the cluster's
queue, or waits.
Where it goes beyond the spec's words it rests on logs 6, 162, 228 and 229. -/
def Obligations.DeriveAndRandWriteTheirValues : Prop :=
  (∀ (i : Instr) (op : Nat) (c : Ctx) (w : Insn) (twin : Option (Fin 6)) (x : Context) (s : State), let k := ctxKey c
    let e := s.derEntry x (immBits w 0 7)
    let slots := 4 + 2 * e.template.length
    let s0 := s.setCtx k (x.setSlot w.kd none)
    (i = .deriveKey c w twin ∧ op = 0) ∨ (i = .deriveData c w twin ∧ op = 1) → s.readyCtx k 0x6 op w = some x →
    (e.kind = 0 ∨ (op = 0 ∧ e.kind = 7) ∨ (op = 1 ∧ e.kind ≠ 7) → exec i s = .next (whenSettled s k (s.failAt k 1 stAborted 4))) ∧
    (e.kind ≠ 0 → (op = 0 ∧ e.kind ≠ 7) ∨ (op = 1 ∧ e.kind = 7) →
      (x.slot w.ka = none → exec i s = .next (whenSettled s k (s.failAt k slots stKeyUsageDenied 3))) ∧
      (∀ y, x.slot w.ka = some y → e.fits y.key = false → exec i s = .next (whenSettled s k (s.failAt k slots stKeyUsageDenied y.field))) ∧
      (∀ y, x.slot w.ka = some y → e.fits y.key = true →
        (∀ u, s.deriveBlocked c.cc e = some u → exec i s = .next (whenSettled s k (s.failAt k slots stFaultDetected (unitDetail c.cc (Sparse.get u s.ci.lastOut c.cc))))) ∧
        (s.deriveBlocked c.cc e = none → carries s c.cc y → e.blocks = 0 ∨ y.key.cls = 1 ∨ y.key.cls = 2 →
          s.deriveTwins c.cc e (twin.map (·.val)) (s.wires c.cc y) (x.vr w.a) (x.vr w.b) =
            (match twin with
             | some u => if s.derivesIn c.cc e u then .error u.val else .ok (e.output y.key.material (x.vr w.a) (x.vr w.b))
             | none => .ok (e.output y.key.material (x.vr w.a) (x.vr w.b)))) ∧
        (s.deriveBlocked c.cc e = none → ∀ u, s.deriveTwins c.cc e (twin.map (·.val)) (s.wires c.cc y) (x.vr w.a) (x.vr w.b) = .error u →
          ∃ v, keeps [R.SEQ_ISSUE_CNT c.cc, R.SEQ_RETIRE_CNT c.cc, R.CC_DUMMY_CNT c.cc, R.CC_HASH_BLOCKS c.cc] s v ∧
            v = { s with regs := v.regs, ci := { s.ci with rounds := v.ci.rounds } } ∧
            exec i s = .next (whenSettled s k (v.twinFault c.cc u (some k)))) ∧
        (s.deriveBlocked c.cc e = none → ∀ m, s.deriveTwins c.cc e (twin.map (·.val)) (s.wires c.cc y) (x.vr w.a) (x.vr w.b) = .ok m →
          ∃ v : State, v = { s with regs := v.regs, ci := { s.ci with lanes := v.ci.lanes, rounds := v.ci.rounds } } ∧
          (let u := v.settleSeeds c.cc
          (op = 0 → s0.ephUsed x.part + keyEntries m.length ≤ (s.part x.part).ephQuota → s0.entriesUsed c.cc + keyEntries m.length ≤ 4096 →
            ∃ t, ∃ held : Masked, exec i s = .next t ∧ held.clear = m ∧
              (let key : Key := { ktype := .secret, cls := e.outClass, level := 6, usage := e.usage, attr := 36 + 128 * bitsOf y.key.attr 7 7,
                                  epoch := y.key.epoch, material := m }
               t.ctx k = { x with keys := x.keys.set w.kd (some { key := { key with kcv := key.checkValue }, held, mask := e.usage, field := y.field,
                                                                  stamp := y.stamp }),
                                  pc := (x.pc + 1) % 256, retired := x.retired + 1 }) ∧
              (∀ j, j ≠ k → t.ctx j = s.ctx j) ∧
              t = { u with regs := t.regs, sq := { u.sq with ctxs := t.sq.ctxs }, ge := { u.ge with masks := s.ge.masks + 1 } }) ∧
          (op = 0 → (s.part x.part).ephQuota < s0.ephUsed x.part + keyEntries m.length →
            exec i s = .next (whenSettled s k ((u.raise pgGEO 4).failAt k slots stQuotaExceeded 2))) ∧
          (op = 1 → ∃ t, exec i s = .next t ∧ retires k slots (x.setV w.d m) u t)))))) ∧
  (∀ (c : Ctx) (w : Insn) (x : Context) (s : State), let k := ctxKey c
    let b := immBits w 0 5 + 1
    s.readyCtx k 0xA 0x0 w = some x →
    ∃ t, exec (.rand c w) s = .next t ∧ (∀ j, j ≠ k → t.ctx j = s.ctx j) ∧
      (if s.queueFill c.cc < b then t.ctx k = { x with wait := .random, since := s.quartz } ∧ t = { s with sq := { s.sq with ctxs := t.sq.ctxs } }
       else t.ctx k = { x.setV w.d ((s.queue c.cc).take (min b 16)) with pc := (x.pc + 1) % 256, retired := x.retired + 1 } ∧
         t.queue c.cc = (s.queue c.cc).drop b ∧ (∀ n, n ≠ c.cc.val → t.queue n = s.queue n) ∧
         t = { s with regs := t.regs, sq := { s.sq with ctxs := t.sq.ctxs }, fl := { s.fl with queues := t.fl.queues } }))

/-- DONE ends the program with its STATUS, DETAIL and RESULT_LEN; where it is the instruction that reaches the budget, ABORTED, DETAIL 4, comes first; a
STATUS that a program may not give stops it. The end of a command frees and zeroes its context, and no other context changes, but that an operation which
waited for a lane may take a place it frees (R147); the completion of a command of an ACTIVE pair, where the host takes its write, goes to the CQ tail with the pair's phase and the time since its descriptor was parsed; a status that refuses carries no
result (R24, R45, R47, R63, R79, R80).
Where it goes beyond the spec's words it rests on logs 167, 168, 171, 172, 177 and 180. -/
def Obligations.CommandsEndWithTheirCompletion : Prop :=
  (∀ (c : Ctx) (w : Insn) (x : Context) (ok : Bool) (s : State), let k := ctxKey c
    s.readyCtx k 0xB 0x0 w = some x →
    (doneAllowed w.imm.toNat = false → exec (.done c w ok) s = .refused .reservedEncoding) ∧
    (doneAllowed w.imm.toNat = true → ∃ u, onlyContext k s u ∧ u.ctx k = { x with retired := x.retired + 1 } ∧
      u.get (R.SEQ_ISSUE_CNT c.cc) = (s.get (R.SEQ_ISSUE_CNT c.cc) + 2) % 2 ^ 32 ∧
      u.get (R.SEQ_RETIRE_CNT c.cc) = (s.get (R.SEQ_RETIRE_CNT c.cc) + 1) % 2 ^ 32 ∧
      exec (.done c w ok) s = .next (if s.budget ≤ x.retired + 1 then u.endCommand k stAborted 4 0 ok
        else u.endCommand k (immBits w 0 8) (immBits w 16 16) (immBits w 8 5) ok))) ∧
  (∀ (k st det len : Nat) (ok : Option Bool) (s : State), (s.ctx k).cmd ≠ none →
    let t := s.endCommand k st det len ok
    t.ctx k = {} ∧ (∀ j, j ≠ k → t.ctx j = { s.ctx j with home := (t.ctx j).home }) ∧
    (s.movedOps (clusterOf k) = [] → ∀ j, j ≠ k → t.ctx j = s.ctx j)) ∧
  (∀ (k st det len : Nat) (c : Cmd) (f : Func) (s : State), (s.ctx k).cmd = some c → c.peer = none → (s.ctx k).delta = none →
    (s.qp c.part c.qp).qstate = .active → s.qpFunc c.part c.qp = some f → refusing st = false →
    ∃ ns ms, (s.endCommand k st det len (some true)).out = s.out ++ ns ++
      [.completion f ((s.qp c.part c.qp).cqBase + 32 * (s.qp c.part c.qp).cqTail)
        (completionEntry c.desc
          { status := st, detail := det, resultLen := len, result := (s.ctx k).result, cluster := clusterOf k,
            serviceNs := s.quartz - c.fetched.getD (s.ctx k).started }
          (s.qp c.part c.qp).phase (s.qp c.part c.qp).sqHead)] ++ ms ∧
      ∀ m ∈ ns ++ ms, ∃ g v, m = .msix g v) ∧
  (∀ (d : Descriptor) (e : Ending) (ph : Bool) (q : Nat), (completionEntry d e ph q).length = 32 ∧
    (refusing e.status = true → (completionEntry d e ph q).drop 16 = zeros 16 ∧
      leNat (slice 5 1 (completionEntry d e ph q)) = b2n ph + 64 * b2n d.v1))

/-- The sequencers' watchers: a context that has retired SEQ_BUDGET instructions is aborted with DETAIL 4, where a fence over a key it holds is not due
first (R103); FREEZE of an empty cluster reports it drained; a pin takes its slot and validity; a finished fill makes its program resident in the
order of the last dispatches, the least recent ones that are neither running nor pinned giving way, waits where none may, and ends the command where
its line fails; a context that holds an entry of a fence 3 µs old ends with KEY_ORPHANED.
Where it goes beyond the spec's words it rests on logs 166 and 176. -/
def Obligations.SequencerWatchersAct : Prop :=
  (∀ (c : Ctx) (s : State), let k := ctxKey c
    (s.ctx k).cmd ≠ none →
    (s.budget ≤ (s.ctx k).retired → s.orphanField (s.ctx k) = none → exec (.seqBudgetExceeded c) s = .next (s.endCommand k stAborted 4)) ∧
    (∀ f, s.budget ≤ (s.ctx k).retired → s.orphanField (s.ctx k) = some f → exec (.seqBudgetExceeded c) s = .next (s.endCommand k stKeyOrphaned f)) ∧
    ((s.ctx k).retired < s.budget → exec (.seqBudgetExceeded c) s = .next s)) ∧
  (∀ (n : Fin 16) (on : Bool) (s : State),
    (reachable s (pgSEQ n) → ∃ t, exec (.seqFreeze n on) s = .next t ∧ t.get (R.BLK_FREEZE (pgSEQ n)) = b2n on ∧
      onlyFields [R.BLK_FREEZE (pgSEQ n), R.BLK_INT_RAW (pgSEQ n)] (s.cross n) t ∧
      raised (pgSEQ n) (if on = true ∧ s.busyIn n = [] then [3] else []) s t) ∧
    (s.responds (pgSEQ n) = false → exec (.seqFreeze n on) s = .next s)) ∧
  (∀ (j : Fin 8) (value : Word) (s : State),
    (reachable s (pgSEQ 0) → ∃ t, exec (.seqPinWrite j value) s = .next t ∧ t.get (R.SEQ0_PIN_SLOT j) = bitsOf value.toNat 0 12 ∧
      t.get (R.SEQ0_PIN_VALID j) = bitsOf value.toNat 31 1 ∧
      t.get R.SEQ0_PIN_OVER = (if t.honoured.length < t.validPins.length then 1 else 0) ∧
      onlyFields [R.SEQ0_PIN_SLOT j, R.SEQ0_PIN_VALID j, R.SEQ0_PIN_OVER, R.BLK_INT_RAW (pgSEQ 0)] (s.cross 0) t) ∧
    (s.responds (pgSEQ 0) = false → exec (.seqPinWrite j value) s = .next s)) ∧
  (∀ (c : Ctx) (s : State), let k := ctxKey c
    let slot := runSlot (s.ctx k).desc.program
    let r : Resident := ⟨slot, (s.ctx k).imageCommits, imageLines (s.ctx k).image, s.lastUse c.cc slot (s.ctx k).imageCommits⟩
    let rs := s.residents c.cc
    let stays := fun q : Resident => s.runsResident c.cc q || (s.honoured.map runSlot).contains q.slot
    (s.ctx k).cmd ≠ none → (s.ctx k).wait = .cacheFill → s.readFails (programBase + 4096 * slot) (imageBytes (s.ctx k).image) = false →
    ((rs.any fun q => q.slot == r.slot && q.commits == r.commits) = true →
      exec (.programCacheFill c true) s = .next (s.setCtx k { s.ctx k with wait := .none })) ∧
    ((rs.any fun q => q.slot == r.slot && q.commits == r.commits) = false →
      (evictFor stays r.lines [] rs = none → exec (.programCacheFill c true) s = .next s) ∧
      (∀ kept, evictFor stays r.lines [] rs = some kept → (∀ q ∈ rs, stays q = true → q ∈ kept) ∧ (kept.map (·.lines)).sum + r.lines ≤ 256 ∧
        ∃ t, exec (.programCacheFill c true) s = .next t ∧
          t.residents c.cc = kept.filter (·.used < r.used) ++ r :: kept.filter (r.used ≤ ·.used) ∧ t.ctx k = { s.ctx k with wait := .none } ∧
          (∀ j, j ≠ k → t.ctx j = s.ctx j) ∧ (∀ n, n ≠ c.cc.val → t.residents n = s.residents n) ∧
          t = { s with sq := { s.sq with ctxs := t.sq.ctxs, cache := t.sq.cache } }))) ∧
  (∀ (c : Ctx) (macOk : Bool) (s : State), let x := s.ctx (ctxKey c)
    x.cmd ≠ none → x.wait = .cacheFill →
    macOk = false ∨ s.readFails (programBase + 4096 * runSlot x.desc.program) (imageBytes x.image) = true →
    exec (.programCacheFill c macOk) s = .next ((s.raise (pgSEQ c.cc) 1).endCommand (ctxKey c) stAborted 4)) ∧
  (∀ (c : Ctx) (y : KeySlot) (s : State), (s.ctx (ctxKey c)).cmd ≠ none →
    ((s.ctx (ctxKey c)).keys.filterMap id).find? (fun y => s.ge.fences.any fun f => y.stamp.contains f.line && f.raised + 3000 ≤ s.quartz) = some y →
    exec (.fenceHolderTimeout c) s = .next (s.endCommand (ctxKey c) stKeyOrphaned y.field))

/-! ## Public-key operations -/

/-- A PKX takes its source, from registers or from the input as it arrives, and checks its key and then its lengths, room and word in the order of Table
6.4; one whose word, key, source and room pass hands its operation to the cluster R94 chooses, with its random bytes drawn, and the context waits
for the result. The first check that fails ends the command; while no cluster is selectable but one is in service, or the queue chosen is full, the
instruction does not issue, and it waits while the random queue is short.
Where it goes beyond the spec's words it rests on logs 8, 29, 53, 125 and 215. -/
def Obligations.PkxHandsItsOperationOff : Prop :=
  ∀ (i : Instr) (oper : Nat) (c : Ctx) (w : Insn) (x : Context) (s : State), pkxInstr i = some (oper, c, w) → immBits w 0 6 = oper →
  let k := ctxKey c
  let v := x.pkWord w
  let left := x.sr w.b - x.gathered.length
  let bytes := if modBit w 0 then x.gathered ++ x.inBytes x.ip left else x.vRange w.a (immBits w 16 4 + 1)
  let x1 := if modBit w 0 then { x with ip := (x.ip + left) % 2 ^ 24, gathered := [] } else x
  (pkxReserved w = true → exec i s = .refused .reservedEncoding) ∧
  (pkxReserved w = false → s.readyCtx k 0x9 0x0 w = some x →
    (modBit w 0 = true → x.has (x.ip + left) = false → exec i s =
      .next (s.setCtx k { x with gathered := x.gathered ++ x.inBytes x.ip (x.input.length - x.ip), ip := x.ip + (x.input.length - x.ip), wait := .chunk })) ∧
    (modBit w 0 = false ∨ x.has (x.ip + left) = true →
      (v.usesKey = true → x.slot w.ka = none → exec i s = .next (whenSettled s k (s.failAt k 2 stKeyUsageDenied 3))) ∧
      (∀ y, v.usesKey = true → x.slot w.ka = some y → s.pkFits v y.key = false → exec i s = .next (whenSettled s k (s.failAt k 2 stKeyUsageDenied y.field))) ∧
      (∀ y : Option KeySlot, (if v.usesKey then x.slot w.ka = y ∧ (y.any fun z => s.pkFits v z.key) = true else y = none) →
        let key := y.map (·.key)
        let entry := s.curveEntry (pkSel v key)
        let crv := if v.isEc then curveOf (pkSel v key) entry else none
        (v.lengthsKnown = false → exec i s = .next (whenSettled s k (s.failAt k 2 stFormatError 0xE003))) ∧
        (v.lengthsKnown = true → pkTake v key crv (modBit w 0) bytes = none → exec i s = .next (whenSettled s k (s.failAt k 2 stFormatError 0xE001))) ∧
        (∀ src, v.lengthsKnown = true → pkTake v key crv (modBit w 0) bytes = some src →
          let fits := modBit w 1 = true ∨ pkResultLen v key crv src ≤ 16 * (immBits w 20 4 + 1)
          (¬ fits → exec i s = .next (whenSettled s k (s.failAt k 2 stFormatError 0xE002))) ∧
          (fits → v.encodingOk = false → exec i s = .next (whenSettled s k (s.failAt k 2 stFormatError 0xE003))) ∧
          (fits → v.encodingOk = true → rsaMalformed v src = true → exec i s = .next (whenSettled s k (s.failAt k 2 stFormatError 0xE004))) ∧
          (fits → v.encodingOk = true → rsaMalformed v src = false →
            (s.handTo v.isLattice [] = .error none → exec i s = .next s) ∧
            (∀ det, s.handTo v.isLattice [] = .error (some det) → exec i s = .next (whenSettled s k (s.failAt k 2 stFaultDetected det))) ∧
            (∀ p, s.handTo v.isLattice [] = .ok p →
              let b := pkRandom v key crv src
              (s.pkFull p v.isLattice = true → exec i s = .next s) ∧
              (s.pkFull p v.isLattice = false → s.queueFill c.cc < b → exec i s = .next (s.setCtx k { x with wait := .random, since := s.quartz })) ∧
              (s.pkFull p v.isLattice = false → b ≤ s.queueFill c.cc → ∃ t, exec i s = .next t ∧
                t.ctx k = { x1 with wait := .pkx } ∧ (∀ j, j ≠ k → t.ctx j = s.ctx j) ∧
                t.pkQueue p v.isLattice = s.pkQueue p v.isLattice ++
                  [{ owner := some k, part := x.part, word := v, key := key.map fun z => { z with material := [] },
                     wires := (y.map (s.wires c.cc)).getD {}, source := src, entry, crvCommits := s.pk.crvCommits, rand := (s.queue c.cc).take b }] ∧
                (∀ q l, 2 * q + b2n l ≠ 2 * p + b2n v.isLattice → t.pkQueue q l = s.pkQueue q l) ∧
                t.queue c.cc = (s.queue c.cc).drop b ∧ (∀ n, n ≠ c.cc.val → t.queue n = s.queue n) ∧
                t.get (R.SEQ_ISSUE_CNT c.cc) = (s.get (R.SEQ_ISSUE_CNT c.cc) + 2) % 2 ^ 32 ∧ keeps [R.SEQ_ISSUE_CNT c.cc] s t ∧
                t = { s with regs := t.regs, sq := { s.sq with ctxs := t.sq.ctxs }, fl := { s.fl with queues := t.fl.queues },
                             pk := { s.pk with queues := t.pk.queues } })))))))

/-- The public-key clusters: the oldest hand-off enters a free unit, its key converted for it, or moves from a cluster out of service to the one R94
chooses; an operation short of random bytes takes them as they come; an ended operation returns its result and its secret, runs again where its
bytes were rejected, ends its command with the refusal of R171, or with FAULT_DETECTED where its twin results differ or its iterations run out; the
operation of an ended command stops; tests, FREEZE and resets act as R183 and R184 state. While its island relocks nothing enters or ends.
Where it goes beyond the spec's words it rests on logs 127, 130, 136, 165, 185, 190, 191, 212, 214 and 215. -/
def Obligations.PublicKeyClustersServeOperations : Prop :=
  (∀ (p : Fin 8) (lattice : Bool) (o : PkOp) (os : List PkOp) (s : State), s.pkQueue p lattice = o :: os → s.relocks (16 + p) = false →
    (∀ u, s.bit R.GBL_PK_INSERVICE p = true → s.pkUnitFor p o = some u →
      ∃ t, exec (.pkHandoff p lattice) s = .next t ∧ t.pkQueue p lattice = os ∧ (t.pkUnit p u).ops = (s.pkUnit p u).ops ++ [o.enter s.lc.devKeys] ∧
        t = { s.cross (16 + p) with pk := { s.pk with units := t.pk.units, queues := t.pk.queues } }) ∧
    (s.bit R.GBL_PK_INSERVICE p = true → s.pkUnitFor p o = none → exec (.pkHandoff p lattice) s = .next (s.cross (16 + p))) ∧
    (∀ q, s.bit R.GBL_PK_INSERVICE p = false → s.pickPk lattice [p.val] = some q → s.pkFull q lattice = false → o.word.isLattice = lattice →
      ∃ t : State, exec (.pkHandoff p lattice) s = .next (t.settlePkFreeze p) ∧ t.pkQueue p lattice = os ∧ t.pkQueue q lattice = s.pkQueue q lattice ++ [o] ∧
        t = { s.cross (16 + p) with pk := { s.pk with queues := t.pk.queues } })) ∧
  (∀ (p : Fin 8) (lattice : Bool) (u : Fin 9) (slot : Fin 2) (twinOk : Bool) (iters : Nat) (s : State), s.relocks (16 + p) = true →
    exec (.pkHandoff p lattice) s = .next s ∧ exec (.pkOpComplete p u slot twinOk iters) s = .next s) ∧
  (∀ (p u slot n need : Nat) (o : PkOp) (s : State), let r := s.feedPk p u slot o n need
    (need ≤ s.queueFill n → r.1 = { o with rand := o.rand ++ (s.queue n).take need, starved := none } ∧ r.2.queue n = (s.queue n).drop need) ∧
    (s.queueFill n < need → o.word.oper ≠ 0x16 → r.1 = { o with starved := some (o.starved.getD s.quartz) } ∧ r.2.queue n = s.queue n)) ∧
  (∀ (p : Fin 8) (u : Fin 9) (slot : Fin 2) (twinOk : Bool) (o o' : PkOp) (k iters : Nat) (v s : State), s.relocks (16 + p) = false →
    (s.pkUnit p u).ops[slot.val]? = some o → o.owner = some k → s.relocks (clusterOf k) = false →
    s.feedPk p u slot o (clusterOf k) (o.short iters) = (o', v) →
    let e := Instr.pkOpComplete p u slot twinOk iters
    let gone := (v.updPk p u fun x => { x with ops := x.ops.eraseIdx slot }).settlePk p
    let done := gone.count (if u.val < 8 then R.PK_ENG_OPS p u else R.PK_LU_OPS p)
    (o'.starved ≠ none → exec e s = .next v) ∧
    (o'.starved = none →
      (v.pkAnswer o' twinOk = none → ∃ t : State, exec e s = .next (t.endCommand k stFaultDetected (pkDetail p u)) ∧
        (t.pkUnit p u).ops = (v.pkUnit p u).ops.eraseIdx slot ∧ (t.pkUnit p u).svc.katBusy = true ∧ t.bit (R.BLK_INT_RAW (pgPK p)) 0 = true) ∧
      (v.pkAnswer o' twinOk = some .limit → ∃ t : State, exec e s = .next (t.endCommand k stFaultDetected (pkDetail p u)) ∧
        (t.pkUnit p u).ops = (v.pkUnit p u).ops.eraseIdx slot ∧ t.get (R.PK_ITER_LAST p) = 1000 ∧ t.bit (R.BLK_INT_RAW (pgPK p)) 6 = true) ∧
      (v.pkAnswer o' twinOk = some .again → ∃ t, exec e s = .next t ∧ (t.pkUnit p u).ops = (v.pkUnit p u).ops.set slot { o' with rand := [] } ∧
        t = { v with pk := { v.pk with units := t.pk.units } }) ∧
      (∀ st det, v.pkAnswer o' twinOk = some (.refused st det) → exec e s = .next ((done.count (R.PK_REFUSED_CNT p)).failAt k 0 st det)) ∧
      (∀ result secret, v.pkAnswer o' twinOk = some (.done result secret) →
        (done.secretRoom k secret = false → exec e s = .next v) ∧
        (done.secretRoom k secret = true → o.attest = 0 → exec e s = done.pkReturn k o' result secret)) ∧
      (∀ sig n, v.pkAnswer o' twinOk = some (.signed sig n) → o.attest = 0 →
        ∃ t : State, exec e s = t.pkReturn k o' sig none ∧ t.get (R.PK_ITER_LAST p) = n % 2 ^ (R.PK_ITER_LAST p).width ∧ t.sq = done.sq))) ∧
  (∀ (k : Nat) (o : PkOp) (result : List Byte) (s : State), let x := { s.ctx k with wait := .none }
    let w := (x.here.map (·.w)).getD {}
    (modBit w 1 = false → ∃ t, s.pkReturn k o result none = .next t ∧
      retires k 0 (if result = [] then x else x.setVRange w.d (immBits w 20 4 + 1) result) s t) ∧
    (modBit w 1 = true → ∃ t : State, s.pkReturn k o result none = .next (t.inOrder k { output := [(x.op, result)], pc := x.pc, num := x.retired }) ∧
      retires k 0 { x with op := (x.op + result.length) % 2 ^ 24 } s t)) ∧
  (∀ (p : Fin 8) (u : Fin 9) (slot : Fin 2) (o : PkOp) (s : State), (s.pkUnit p u).ops[slot.val]? = some o → o.owner = none →
    ∃ t, exec (.pkOpAbort p u slot) s = .next t ∧ (t.pkUnit p u).ops = (s.pkUnit p u).ops.eraseIdx slot ∧
      t.get (R.PK_ABORT_CNT p) = satAdd (R.PK_ABORT_CNT p).width (s.get (R.PK_ABORT_CNT p)) 1 % 2 ^ (R.PK_ABORT_CNT p).width ∧ t.sq = s.sq) ∧
  (∀ (p : Fin 8) (u : Fin 9) (s : State), (s.pkUnit p u).svc.katBusy = true ∨ (s.pkUnit p u).svc.katWanted = true → (s.pkUnit p u).ops = [] →
    s.relocks (16 + p) = false →
    (∃ t, exec (.pkKatComplete p u true true) s = .next t ∧
      (t.pkUnit p u).svc = { inService := (s.pkUnit p u).svc.inService || s.get R.FLT_READY == 1, passed := true }) ∧
    (∀ pass twinOk, pass = false ∨ twinOk = false → ∃ t, exec (.pkKatComplete p u pass twinOk) s = .next t ∧
      (t.pkUnit p u).svc = { inService := false, katFail := true } ∧ t.bit (R.BLK_INT_RAW (pgPK p)) 1 = true ∧
      (s.pkUnitsUp p = true → t.pkUnitsUp p = false → t.bit (R.BLK_INT_RAW (pgPK p)) 2 = true))) ∧
  (∀ (p : Fin 8) (engines : BitVec 8) (on : Bool) (s : State), reachable s (pgPK p) →
    (∃ t, exec (.katGoEng p engines) s = .next t ∧ t = { s.cross (16 + p) with pk := { s.pk with units := t.pk.units } } ∧
      ∀ e : Fin 8, t.pkUnit p e =
        (if engines.getLsbD e then { s.pkUnit p e with svc := { (s.pkUnit p e).svc with katWanted := true } } else s.pkUnit p e)) ∧
    (∃ t, exec (.katGoLu p) s = .next t ∧ t = { s.cross (16 + p) with pk := { s.pk with units := t.pk.units } } ∧
      t.pkUnit p 8 = { s.pkUnit p 8 with svc := { (s.pkUnit p 8).svc with katWanted := true } }) ∧
    (∃ t, exec (.pkFreeze p on) s = .next t ∧ t.get (R.BLK_FREEZE (pgPK p)) = b2n on ∧ t.pk = s.pk ∧ t.sq = s.sq ∧
      raised (pgPK p) (if on = true ∧ s.pkDrained p = true then [4] else []) s t)) ∧
  (∀ (p : Fin 8) (engines : BitVec 8) (on : Bool) (s : State), s.responds (pgPK p) = false →
    exec (.katGoEng p engines) s = .next s ∧ exec (.katGoLu p) s = .next s ∧ exec (.pkFreeze p on) s = .next s) ∧
  (∀ (p : Fin 8) (viaRst : Bool) (s : State), s.responds (if viaRst then pgRST else pgPK p) = true →
    (s.get (R.BLK_FREEZE (pgPK p)) = 1 → s.pkDrained p = true → s.islandOn (pgPK p) = true → s.relocks (16 + p) = false →
      ∃ t, exec (.pkReset p viaRst) s = .next t ∧ (∀ u : Fin 9, t.pkUnit p u = { svc := { katBusy := true } }) ∧
        t.bit R.GBL_PK_INSERVICE p = false ∧ raised pgRST [2] s t ∧ t.sq = s.sq) ∧
    (s.islandOn (pgPK p) = false → exec (.pkReset p viaRst) s = .next (if viaRst then s.raise pgRST 3 else s)) ∧
    (s.get (R.BLK_FREEZE (pgPK p)) ≠ 1 ∨ s.pkDrained p = false → s.islandOn (pgPK p) = true → s.relocks (16 + p) = false →
      exec (.pkReset p viaRst) s = .next (if viaRst then (s.cross (16 + p)).raise pgRST 3 else s.cross (16 + p))) ∧
    (s.islandOn (pgPK p) = true → s.relocks (16 + p) = true →
      exec (.pkReset p viaRst) s = .next { s with pw := { s.pw with crossings := s.pw.crossings ++ [.pkReset p viaRst] } }))

/-! ## Key store, Flint, HBM and the arbiters -/

/-- The key store's own work: a fill makes the missing records resident and lets the FETCH, READREC or DESTROY issue again, waits for an entry where none
can be freed and while the crossbars are frozen, or ends it where a record's MAC fails or its line gives the integrity error; a fence is raised with its time and marks the entries under it; a fence no context holds completes with the
tombstone one GEN higher and its line's material gone; a late fence is reported; the sweeper reclaims an orphan that its MPU lets it read; slices and the MMK are re-masked
when due, what they hide staying the same.
Where it goes beyond the spec's words it rests on logs 90, 103 and 208. -/
def Obligations.KeyStoreWorksOnItsOwn : Prop :=
  (∀ (c : Ctx) (i : Code) (macBad : Option Nat) (s : State), let k := ctxKey c
    let x := s.ctx k
    let q := s.walk x.part 8 (x.desc.keyField (immBits i.w 0 2))
    let bad := s.badOf macBad (s.missing c.cc q.1)
    x.cmd ≠ none → x.here = some i → i.cls = 2 → i.op = 0 ∨ i.op = 6 ∨ i.op = 8 → s.ge.ready = true → x.wait = .keyFill ∨ x.wait = .cacheEntry →
    (s.xbarHeld c.cc = true → exec (.keyFill c macBad) s = .next s) ∧
    (s.xbarHeld c.cc = false → (∀ b, bad = some b → ∃ t : State, exec (.keyFill c macBad) s = .next (t.failAt k 4 stKeyNotFound (immBits i.w 0 2)) ∧ t.line b = {} ∧
      t.bit (R.BLK_INT_RAW (pgKCS c.cc)) 0 = true ∧ t.bit (R.BLK_INT_RAW pgGEO) 5 = true ∧ t.sq = s.sq) ∧
    (bad = none → q.2 ≠ .rooted → exec (.keyFill c macBad) s = .next (s.setCtx k { x with wait := .none, filled := true })) ∧
    (∀ u, bad = none → q.2 = .rooted → s.fillChain c.cc x.part q.1 = some u → ∃ t, exec (.keyFill c macBad) s = .next t ∧
      t.ctx k = { x with wait := .none, filled := true } ∧ t.ge = u.ge ∧ (∀ j, j ≠ k → t.ctx j = u.ctx j)) ∧
    (bad = none → q.2 = .rooted → s.fillChain c.cc x.part q.1 = none → ∃ t, exec (.keyFill c macBad) s = .next t ∧
      t.ctx k = { x with wait := .cacheEntry } ∧ t.ge = s.ge ∧ (∀ j, j ≠ k → t.ctx j = s.ctx j)))) ∧
  (∀ (c : Ctx) (field : Nat) (s : State), let k := ctxKey c
    let x := s.ctx k
    let key := lineKey x.part (x.desc.keyField field)
    let mark := fun y : KeySlot => if y.line = none ∧ y.stamp.contains key = true then { y with fenced := true } else y
    x.cmd ≠ none → x.destroys = some field → x.wait = .fence → (∀ f ∈ s.ge.fences, f.ctx ≠ some k) →
    (s.fenced key = true ∨ 16 ≤ s.ge.fences.length → exec (.fenceRaise c) s = .next s) ∧
    (s.fenced key = false → s.ge.fences.length < 16 →
      (∀ st, s.refuseDestroy x.part (x.desc.keyField field) = some st →
        exec (.fenceRaise c) s = .next (if x.image.code = [] then s.endCommand k st field else s.failAt k 4 st field)) ∧
      (s.refuseDestroy x.part (x.desc.keyField field) = none →
        ∃ t, exec (.fenceRaise c) s = .next t ∧ t.ge.fences = s.ge.fences ++ [{ line := key, ctx := some k, raised := s.quartz }] ∧ t.fenced key = true ∧
          t.ge.lines = s.ge.lines ∧ keeps [R.GEO_FENCE_PEAK] s t ∧
          (∀ n, t.cacheOf n = (s.cacheOf n).map fun e => if s.leadsTo n key 8 e then { e with fenced := true } else e) ∧
          (∀ j, t.ctx j = { s.ctx j with keys := (s.ctx j).keys.map (·.map mark) })))) ∧
  (∀ (i : Fin 16) (f : Fence) (s : State), s.ge.fences[i.val]? = some f →
    ((∃ e ∈ s.running, e.2.holds f.line = true) → exec (.fenceComplete i) s = .next s) ∧
    ((∀ e ∈ s.running, e.2.holds f.line = false) →
      ∃ t : State, (t.line f.line).gen = f.gen.getD (((s.line f.line).gen + 1) % 2 ^ 24) ∧ (t.line f.line).live = false ∧
        (∀ r, (t.line f.line).record = some r → r.key.material = []) ∧ t.ge.fences = s.ge.fences.eraseIdx i ∧
        (∀ n < 16, ∀ e ∈ t.cacheOf n, e.line ≠ f.line ∧ e ∈ s.cacheOf n ∧ s.leadsTo n f.line 8 e = false) ∧ t.sq = s.sq ∧
        (f.ctx = none → exec (.fenceComplete i) s = .next t) ∧
        (∀ k, f.ctx = some k → let x := s.ctx k
          let bs := t.lineBytes f.line (t.line f.line)
          ∃ d, let x' := { x with wait := .none, op := (x.op + bs.length) % 2 ^ 24, delta := d <|> x.delta }
            exec (.fenceComplete i) s = .next (if x.image.code = [] then
              ((t.setCtx k x').output k 0 bs).endCommand k 0 0 (if x.desc.outInline then min 16 bs.length else 0)
              else (t.retire k 4 x').inOrder k { output := [(x.op, bs)], pc := x.pc, num := x.retired })))) ∧
  (∀ (i : Fin 16) (f : Fence) (s : State), s.ge.fences[i.val]? = some f →
    (f.late = false → f.raised + 4000 < s.quartz →
      exec (.fenceOvertime i) s = .next ({ s with ge := { s.ge with fences := s.ge.fences.set i { f with late := true } } }.raise pgGEO 0)) ∧
    (f.late = true ∨ s.quartz ≤ f.raised + 4000 → exec (.fenceOvertime i) s = .next s)) ∧
  (∀ (k : Nat) (l : KeyLine) (s : State), s.get R.GEO_SWEEP_EN ≠ 0 → s.ge.lines.find? (fun e => s.ge.swept < e.1 + 1) = some (k, l) →
    ∃ t, exec .sweeperStep s = .next t ∧ t.ge.swept = k + 1 ∧
      (if ((pieces (128 * s.tablePlace k) 128).all fun p => s.piecePermitted 13 .read p.1 0) = true ∧
          l.live = true ∧ s.fenced k = false ∧ (s.walk (linePart k) 8 (lineHandle k)).2 = .orphaned
       then (t.line k).live = false ∧ (t.line k).gen = ((s.line k).gen + 1) % 2 ^ 24 else t.ge.lines = s.ge.lines) ∧ t.sq = s.sq) ∧
  (∀ s : State, (s.get R.GEO_SWEEP_EN = 0 → exec .sweeperStep s = .next s) ∧
    (s.get R.GEO_SWEEP_EN ≠ 0 → s.ge.lines.find? (fun e => s.ge.swept < e.1 + 1) = none → ∃ t, exec .sweeperStep s = .next t ∧ t.ge.swept = 0 ∧
      t.get R.GEO_SWEEP_LINE = 0 ∧ t.get R.GEO_SWEEP_PASS = (s.get R.GEO_SWEEP_PASS + 1) % 2 ^ R.GEO_SWEEP_PASS.width ∧
      t.bit (R.BLK_INT_RAW pgGEO) 1 = true ∧ t.ge.lines = s.ge.lines)) ∧
  (∀ (n : Fin 16) (seeded : Bool) (s : State), let fed := seeded = true ∧ 32 ≤ s.queueFill n
    (s.quartz < Sparse.get 0 s.ge.maskTimes n + 1000000 * s.remaskMs ∨ s.fl.everReady = false → exec (.remaskPeriod n seeded) s = .next s) ∧
    (Sparse.get 0 s.ge.maskTimes n + 1000000 * s.remaskMs ≤ s.quartz → s.fl.everReady = true →
      ∃ t, exec (.remaskPeriod n seeded) s = .next t ∧ t.ge.lines = s.ge.lines ∧
        (((s.cacheOf n).map (·.line)).Nodup → ∀ (i : Nat) (e : CacheEntry), (s.cacheOf n)[i]? = some e →
          ∃ v : Masked, (t.cacheOf n)[i]? = some { e with material := v } ∧ v.clear = e.material.clear) ∧
        (∀ j, t.ctx j = { s.ctx j with keys := (t.ctx j).keys }) ∧
        (∀ (j i : Nat) (y : KeySlot), (s.ctx j).keys.getD i none = some y →
          ∃ v : Masked, (t.ctx j).keys.getD i none = some { y with held := v } ∧ v.clear = y.held.clear) ∧
        Sparse.get [] t.ge.maskSeeds n = (if fed then (s.queue n).take 32 else Sparse.get [] s.ge.maskSeeds n) ∧
        t.queue n = (if fed then (s.queue n).drop 32 else s.queue n) ∧ Sparse.get 0 t.ge.maskTimes n = s.quartz ∧
        (¬ fed → t.bit (R.BLK_INT_RAW (pgKCS n)) 1 = true))) ∧
  (∀ s : State, let due := s.ob.maskTime + (if s.ob.onMain then 200000000 else 20000000000)
    (s.ob.osc < due → exec .mmkRemask s = .next s) ∧
    (due ≤ s.ob.osc → ∃ v : Masked, v.clear = s.ob.wires.clear ∧
      exec .mmkRemask s = .next { s with ob := { s.ob with wires := v, masks := s.ob.masks + 1, maskTime := s.ob.osc } }))

/-- Flint. A window at or above the cutoff, or a repetition-count failure, takes a healthy cell out of the rotation with INT_RAW bit 1 and discards the
instances that took its bits; a window below it releases its bits, which are taken in rotation for the seed being collected. A passed restart test
returns a cell, and the second failed restart in a row turns it off. Flint becomes ready with four healthy cells and an instance, or a failed one, in every
powered cluster. The instance whose seed is collected is instantiated from its 427 bits once its
tests pass, reseeds when due and answers a request with 4,096 bytes of its generator; a failed twin run discards its queue. A draw that has waited
10 ms ends with RNG_NOT_READY, and Obsidian takes a seed when Flint is first ready and every second.
Where it goes beyond the spec's words it rests on logs 3, 6, 186, 187, 188, 205, 210 and 218. -/
def Obligations.FlintFeedsTheQueues : Prop :=
  (∀ (cell : Fin 8) (count : Nat) (s : State), (s.cell cell).ok = true → s.get R.FLT_APT_CUTOFF ≤ count →
    ∃ t, exec (.aptWindowClose cell count) s = .next t ∧ (t.cell cell).ok = false ∧ (t.cell cell).start = true ∧
      (t.cell cell).due = s.quartz + 110240 ∧ (t.cell cell).next = (t.cell cell).limit ∧ t.bit (R.BLK_INT_RAW pgFLT) 1 = true ∧
      t.get R.FLT_LAST_CELL = cell.val ∧ t.get R.FLT_LAST_TEST = 1 ∧
      (∀ n, bitOf (s.drbg n).cells cell = true → n < 16 → s.ccPowered n = true → (t.drbg n).ready = false ∧ t.queue n = [])) ∧
  (∀ (cell : Fin 8) (count : Nat) (s : State),
    ((s.cell cell).ok = false → exec (.aptWindowClose cell count) s = .next s) ∧
    ((s.cell cell).ok = true → count < s.get R.FLT_APT_CUTOFF → ∃ t, exec (.aptWindowClose cell count) s = .next t ∧
      (t.cell cell).window = (s.cell cell).window + 1 ∧ (t.cell cell).limit = 1024 * ((s.cell cell).window + 1) ∧ (t.cell cell).ok = true ∧
      (t.fl.seedFor = s.fl.seedFor → s.fl.seed <+: t.fl.seed) ∧ (s.fl.seed.length ≤ 427 → t.fl.seed.length ≤ 427) ∧
      t = { s with fl := { s.fl with cells := t.fl.cells, turn := t.fl.turn, seedFor := t.fl.seedFor, seed := t.fl.seed, seedFrom := t.fl.seedFrom } })) ∧
  (∀ (cell : Fin 8) (s : State),
    ((s.cell cell).ok = true → ∃ t, exec (.repetitionCountFail cell) s = .next t ∧ (t.cell cell).ok = false ∧ (t.cell cell).start = true ∧
      t.get R.FLT_LAST_TEST = 0 ∧ t.bit (R.BLK_INT_RAW pgFLT) 1 = true) ∧
    ((s.cell cell).ok = false → exec (.repetitionCountFail cell) s = .next s)) ∧
  (∀ (cell : Fin 8) (count : Nat) (repeated : Bool) (s : State), let x := s.cell cell
    (x.start = false ∨ x.ok = true ∨ x.off = true ∨ s.quartz < x.due → exec (.cellRestartTest cell count repeated) s = .next s) ∧
    (x.start = true → x.ok = false → x.off = false → x.due ≤ s.quartz →
      (repeated = false → count < s.get R.FLT_APT_CUTOFF → ∃ t, exec (.cellRestartTest cell count repeated) s = .next t ∧
        ∃ u : State, t = u.settleReady ∧
        u.cell cell = { x with ok := true, start := false, fresh := false, restarts := 0, window := x.window + 1, next := 1024 * (x.window + 1),
                               limit := 1024 * (x.window + 1) } ∧
        u = { s with fl := { s.fl with cells := u.fl.cells } }) ∧
      (repeated = true ∨ s.get R.FLT_APT_CUTOFF ≤ count → ∃ t, exec (.cellRestartTest cell count repeated) s = .next t ∧ (t.cell cell).ok = false ∧
        t.get R.FLT_LAST_START = 1 ∧
        (x.fresh = false → 1 ≤ x.restarts → (t.cell cell).off = true ∧ t.bit (R.BLK_INT_RAW pgFLT) 5 = true) ∧
        (x.fresh = true ∨ x.restarts = 0 → (t.cell cell).off = false ∧ (t.cell cell).start = true ∧ (t.cell cell).due = s.quartz + 110240)))) ∧
  (∀ s : State, let ready := s.get R.FLT_READY = 0 ∧ 4 ≤ s.healthy ∧
      ∀ n < 16, s.ccPowered n = true → (s.drbg n).ready = true ∨ (s.drbg n).katFail = true
    (ready → s.settleReady.get R.FLT_READY = 1 ∧ s.settleReady.bit (R.BLK_INT_RAW pgFLT) 0 = true ∧ s.settleReady.fl.drbgs = s.fl.drbgs) ∧
    (¬ ready → s.settleReady = s)) ∧
  (∀ (n : Fin 16) (katOk twinOk : Bool) (s : State), let u := s.collect
    (u.seedTarget ≠ some n.val ∨ u.fl.seed.length < 427 → exec (.drbgInstantiate n ⟨katOk, twinOk⟩) s = .next u) ∧
    (u.seedTarget = some n.val → 427 ≤ u.fl.seed.length →
      ((s.drbg n).katOk = true ∨ katOk = true → twinOk = true → ∃ t, exec (.drbgInstantiate n ⟨katOk, twinOk⟩) s = .next t ∧
        t.drbg n = { ready := true, katOk := true, katFail := (s.drbg n).katFail, cells := u.fl.seedFrom, reseeding := false, requests := 0,
                     nextReseed := s.nextReseed n,
                     core := (if (s.drbg n).ready then (s.drbg n).core else {}).seed (seedBytes u.fl.seed) }) ∧
      ((s.drbg n).katOk = false → katOk = false → ∃ t, exec (.drbgInstantiate n ⟨katOk, twinOk⟩) s = .next t ∧ (t.drbg n).katFail = true ∧
        (t.drbg n).ready = (s.drbg n).ready ∧ t.bit (R.BLK_INT_RAW pgFLT) 6 = true) ∧
      ((s.drbg n).katOk = true ∨ katOk = true → twinOk = false → ∃ t, exec (.drbgInstantiate n ⟨katOk, twinOk⟩) s = .next t ∧ (t.drbg n).ready = false ∧
        t.queue n = [] ∧ t.get R.FLT_LAST_CORE = 1 ∧ t.get R.FLT_LAST_INST = n.val))) ∧
  (∀ (n : Fin 16) (s : State), let due := (s.drbg n).ready = true ∧ (s.drbg n).reseeding = false ∧ ((s.drbg n).nextReseed ≤ s.quartz ∨ 2 ^ 20 ≤ (s.drbg n).requests)
    (due → ∃ t, exec (.drbgReseed n) s = .next t ∧ t.drbg n = { s.drbg n with reseeding := true } ∧ t = { s with fl := { s.fl with drbgs := t.fl.drbgs } }) ∧
    (¬ due → exec (.drbgReseed n) s = .next s)) ∧
  (∀ (n : Fin 16) (twinOk : Bool) (s : State),
    ((s.drbg n).ready = false ∨ 49152 ≤ s.queueFill n ∨ s.relocks n = true ∨ s.xbarHeld n = true → exec (.drbgGenerate n twinOk) s = .next s) ∧
    ((s.drbg n).ready = true → s.queueFill n < 49152 → s.relocks n = false → s.xbarHeld n = false →
      (twinOk = true → ∃ t, exec (.drbgGenerate n twinOk) s = .next t ∧ t.queue n = s.queue n ++ ((s.drbg n).core.generate 256).1 ∧
        ((s.drbg n).core.key.length = 32 → t.queueFill n = s.queueFill n + 4096) ∧
        t.drbg n = { s.drbg n with requests := (s.drbg n).requests + 1, core := ((s.drbg n).core.generate 256).2 } ∧
        (∀ k ∈ s.drawsOf n, (t.ctx k).wait = .none) ∧ t = { s with sq := { s.sq with ctxs := t.sq.ctxs }, fl := t.fl }) ∧
      (twinOk = false → s.ccPowered n = true → ∃ t, exec (.drbgGenerate n twinOk) s = .next t ∧ (t.drbg n).ready = false ∧ t.queue n = [] ∧
        t.get R.FLT_LAST_CORE = 1 ∧ t.get R.FLT_LAST_INST = n.val))) ∧
  (∀ (c : Ctx) (s : State), let k := ctxKey c
    (∀ since, s.drawSince k = some since → (s.drbg c.cc).ready = false → since + 10000000 ≤ s.quartz →
      exec (.rngNotReadyTimeout c) s = .next ((s.countSat R.FLT_NOTREADY_CNT).endAt k stRngNotReady 0)) ∧
    (s.drawSince k = none ∨ (s.drbg c.cc).ready = true → exec (.rngNotReadyTimeout c) s = .next s) ∧
    ((s.ctx k).cmd ≠ none → (s.ctx k).wait = .random → s.drawSince k = some (s.ctx k).since)) ∧
  (∀ s : State, let due := s.ob.seeded = false ∨ s.ob.seedTime + 1000000000 ≤ s.quartz
    (s.get R.FLT_READY ≠ 0 → due →
      exec .obsSeedRefresh s = .next { s with ob := { s.ob with seed := (List.range 32).map fun i => Config.randByte (s.randoms + i), seedTime := s.quartz,
                                                                seeded := true },
                                              randoms := s.randoms + 32 }) ∧
    (s.get R.FLT_READY = 0 ∨ ¬ due → exec .obsSeedRefresh s = .next s))

/-- The HBM controllers. A stack trains, draws its keys, and is zeroed region by region before it is ready. A read or write of a ready region is
checked by its master's MPU and then for errors: an uncorrectable error or a MAC failure is counted, poisons or raises as R244 and R246 state, and gives
the requester the integrity error; twin results that differ twice do the same. Otherwise a read returns the line as its controller decrypts it. An access
to a region that is not ready or to a frozen channel waits; a protected region reads zero to a requester without access and is not written by it; a clean
write stores its bytes in the work region or the firmware's area and no others. The scrubber moves on a line with the grant of its channel, or past a frozen
one; a repair runs through its states, its channel's accesses redirected from the copy on.
Where it goes beyond the spec's words it rests on logs 33, 34, 35, 67, 192, 213, 223, 236 and 237. -/
def Obligations.HbmControllersCheckAndRepair : Prop :=
  (∀ (k : Fin 2) (s : State), s.get (R.HBM_PHY_READY k) ≠ 1 → s.pw.phase ≠ .asleep → s.inReset = false →
    ∃ t, exec (.hbmInit k) s = .next t ∧ t.get (R.HBM_PHY_READY k) = 1 ∧ onlyFields [R.HBM_PHY_READY k, R.HBM_SELF_REFRESH k] s t) ∧
  (∀ (k : Fin 2) (s : State), s.get R.FLT_READY ≠ 0 → s.get (R.HBM_PHY_READY k) ≠ 0 → s.get (R.HBM_PROT_READY k) ≠ 1 → Sparse.get [] s.hb.keys k = [] →
    ∃ t, exec (.hbmKeyDraw k) s = .next t ∧ (Sparse.get [] t.hb.keys k).length = 64 ∧ Sparse.get [] t.hb.keys 2 ≠ [] ∧
      t = { s with hb := { s.hb with keys := t.hb.keys }, randoms := t.randoms }) ∧
  (∀ (k : Fin 2) (s : State), Sparse.get [] s.hb.keys k ≠ [] → s.get (R.HBM_PROT_READY k) ≠ 1 →
    ∃ t, exec (.protReady k) s = .next t ∧ t.get (R.HBM_PROT_READY k) = 1 ∧ keeps [R.HBM_PROT_READY k] s t ∧
      (∀ a, t.memByte a = if a < workBase ∧ hbmStack a = k then 0 else s.memByte a) ∧
      (∀ l, l ∈ t.hb.poison ↔ l ∈ s.hb.poison ∧ ¬ (64 * l < workBase ∧ hbmStack (64 * l) = k))) ∧
  (∀ (k : Fin 2) (s : State), s.get (R.HBM_PROT_READY k) ≠ 0 → s.get (R.HBM_WORK_READY k) ≠ 1 →
    ∃ t, exec (.workReady k) s = .next t ∧ t.get (R.HBM_WORK_READY k) = 1 ∧ keeps [R.HBM_WORK_READY k] s t ∧
      (∀ a, t.memByte a = if workBase ≤ a ∧ a < hbmEnd ∧ hbmStack a = k then 0 else s.memByte a) ∧
      (∀ l, l ∈ t.hb.poison ↔ l ∈ s.hb.poison ∧ ¬ (workBase ≤ 64 * l ∧ 64 * l < hbmEnd ∧ hbmStack (64 * l) = k))) ∧
  (∀ (a : Fin 0xBA0000000) (use : HbmUse) (bank row : Nat) (found : LineCheck) (twins victim : Nat) (s : State),
    let k := (s.holder a).stack
    let e := Instr.hbmReadComplete a use bank row found twins victim
    let u := if hbmProtected a then (s.crossHbm a).macLookup a victim else s.crossHbm a
    let lost := a.val / 64 ∈ s.hb.poison ∨ s.keysOf a = []
    (s.hbmWaits a = true → exec e s = .next s) ∧
    (s.hbmWaits a = false → hbmProtected a = true → mayProtected use = false → exec e s = .next (s.answered (some (zeros 64)))) ∧
    (s.hbmWaits a = false → hbmProtected a = false ∨ mayProtected use = true → (s.useCheck .read a use).1 = false →
      exec e s = .next ((s.useCheck .read a use).2.answered (some (zeros 64)))) ∧
    (s.hbmWaits a = false → hbmProtected a = false ∨ mayProtected use = true → (s.useCheck .read a use).1 = true →
      (twins = 0 → lost → exec e s = (u.answered none).integrityError a use) ∧
      (twins = 0 → ¬ lost → found = .clean ∨ (found = .macFail ∧ hbmProtected a = false) → exec e s = .next (u.answered (some (u.readLine (a.val / 64))))) ∧
      (twins = 0 → ¬ lost → found = .corrected → ∃ t, exec e s = .next t ∧ t.get (R.HBM_LAST_ERR_TYPE k) = 0 ∧
        t.get (R.HBM_CE_CNT k) = satAdd (R.HBM_CE_CNT k).width (s.get (R.HBM_CE_CNT k)) 1 % 2 ^ (R.HBM_CE_CNT k).width ∧
        t.hb = { u.hb with rowErrors := t.hb.rowErrors, rowsMet := t.hb.rowsMet, answer := some (t.readLine (a.val / 64)) } ∧ t.sq = s.sq) ∧
      (twins = 0 → ¬ lost → found = .uncorrectable → ∃ v : State, exec e s = v.integrityError a use ∧ v.hb.poison = s.hb.poison ++ [a.val / 64] ∧
        v.hb.answer = none ∧ v.hb.mem = s.hb.mem ∧ v.get (R.HBM_LAST_ERR_TYPE k) = 1 ∧ v.bit (R.BLK_INT_RAW (pgHBM k)) 0 = true ∧
        v.bit (R.BLK_INT_RAW (pgHBM k)) 4 = true ∧ v.sq = s.sq) ∧
      (twins = 0 → ¬ lost → found = .macFail → hbmProtected a = true → ∃ v : State, exec e s = v.integrityError a use ∧ v.hb = { u.hb with answer := none } ∧
        v.get (R.HBM_LAST_ERR_TYPE k) = 2 ∧ v.bit (R.BLK_INT_RAW (pgHBM k)) 1 = true ∧ v.sq = s.sq) ∧
      (2 ≤ twins → ¬ lost → ∃ v : State, exec e s = v.integrityError a use ∧ v.hb.poison = s.hb.poison ++ [a.val / 64] ∧ v.hb.mem = s.hb.mem ∧
        v.hb.answer = none ∧
        v.bit (R.BLK_INT_RAW (pgHBM k)) 2 = true ∧ v.sq = s.sq))) ∧
  (∀ (a : Nat) (c : Ctx) (s : State), let k := ctxKey c
    s.integrityError a (.hqe c) = .next (if (s.ctx k).cmd.isSome then s.endCommand k stAborted 2 else s) ∧
    s.integrityError a (.program c) = .next (if (s.ctx k).cmd.isSome ∧ (s.ctx k).wait = .cacheFill
      then (s.raise (pgSEQ c.cc) 1).endCommand k stAborted 4 else s) ∧
    (∀ d rest, s.granted = some (d, rest) → s.integrityError a .hqeStaged = .next ((s.takeStaged rest).endStaged d stAborted 2)) ∧
    (∀ line, s.tableLine (a / 128) = some line → let key := (s.line line).extOf.getD line
      let f := s.tableField (s.ctx k) key
      let v := s.lineFailed c.cc key
      ((s.ctx k).usesTable = true → s.integrityError a (.geode c) =
        .next (if (s.ctx k).image.code = [] then v.endAt k stKeyNotFound f else v.failAt k 4 stKeyNotFound f)) ∧
      ((s.ctx k).usesTable = false → s.integrityError a (.geode c) = .next s)) ∧
    s.integrityError a .tableCopy = .next ((s.loadTables s.userRegion).wholeLines (a / 64 * 64) 64) ∧
    s.integrityError a .partTable = .next (s.wholeLines (a / 64 * 64) 64) ∧
    (∀ use, use = .scrubber ∨ use = .sweeper → s.integrityError a use = .next (s.poisonLine (a / 64))) ∧
    (∀ use, use = .core ∨ use = .replication ∨ use = .cardDma → s.integrityError a use = .next s)) ∧
  (∀ (a : Fin 0xBA0000000) (use : HbmUse) (data : List Byte) (twins : Nat) (s : State),
    let bs := data.take (64 - a % 64)
    let e := Instr.hbmWrite a use data twins
    let u := s.crossHbm a
    (s.hbmWaits a = true ∨ (hbmProtected a = true ∧ mayProtected use = false) → exec e s = .next s) ∧
    (s.hbmWaits a = false → hbmProtected a = false ∨ mayProtected use = true → (s.useCheck .write a use).1 = false →
      exec e s = .next (s.useCheck .write a use).2) ∧
    (s.hbmWaits a = false → hbmProtected a = false ∨ mayProtected use = true → (s.useCheck .write a use).1 = true →
      (twins = 0 → s.writeFails a bs.length = true → exec e s = u.integrityError a use) ∧
      (twins = 0 → s.writeFails a bs.length = false → ∃ t, exec e s = .next t ∧
        t = { u with hb := { s.hb with mem := t.hb.mem, poison := t.hb.poison } } ∧
        (∀ b, t.memByte b = if (hbmRegion a = .work ∨ hbmRegion a = .firmware) ∧ a.val ≤ b ∧ b < a.val + bs.length then data.getD (b - a.val) 0
          else s.memByte b) ∧
        (∀ l, l ∈ t.hb.poison ↔ l ∈ s.hb.poison ∧ ¬ (a.val ≤ 64 * l ∧ 64 * l + 64 ≤ a.val + bs.length))) ∧
      (2 ≤ twins → ∃ v : State, exec e s = v.integrityError a use ∧ a.val / 64 ∈ v.hb.poison ∧ v.hb.mem = s.hb.mem ∧
        v.bit (R.BLK_INT_RAW (pgHBM (s.holder a).stack)) 2 = true ∧ v.sq = s.sq))) ∧
  (∀ (k : Fin 2) (bank row : Nat) (s : State), s.get (R.HBM_SCRUB_EN k) ≠ 0 → s.get (R.HBM_PHY_READY k) ≠ 0 → s.get (R.HBM_PROT_READY k) ≠ 0 → s.get (R.HBM_WORK_READY k) ≠ 0 →
    let pc := (s.holder (stackAddr k (s.get (R.HBM_SCRUB_LINE k)))).channel
    (s.channelFrozen pc = false → s.grantOf (256 + pc) ≠ some 7 → exec (.scrubStep k bank row .clean 0) s = .next s) ∧
    (s.channelFrozen pc = true ∨ s.grantOf (256 + pc) = some 7 →
      s.hb.poison = [] → Sparse.get [] s.hb.keys 0 ≠ [] → Sparse.get [] s.hb.keys 1 ≠ [] →
      ∃ t, exec (.scrubStep k bank row .clean 0) s = .next t ∧ t.hb = s.hb ∧ (s.channelFrozen pc = false → (t.arb (256 + pc)).spent = true) ∧
        t.get (R.HBM_SCRUB_LINE k) = (if stackLines ≤ s.get (R.HBM_SCRUB_LINE k) + 1 then 0 else s.get (R.HBM_SCRUB_LINE k) + 1))) ∧
  (∀ (k : Fin 2) (temp : BitVec 8) (s : State),
    ∃ t, exec (.hbmTempHigh k temp) s = .next t ∧ t.get (R.HBM_TEMP k) = temp.toNat ∧
      raised (pgHBM k) (if s.get (R.HBM_TEMP k) ≤ 85 ∧ 85 < temp.toNat then [7] else []) s t ∧ onlyFields [R.HBM_TEMP k, R.BLK_INT_RAW (pgHBM k)] s t) ∧
  (∀ (k : Fin 2) (target : BitVec 28) (s : State), s.responds (pgHBM k) = true → s.repairing = false → s.mode ≠ .boot → s.mode ≠ .responded →
    s.ob.onMain = true → ∃ t : State, exec (.pprGo k target) s = .next { t with hb := { s.hb with repair := some (32 * k.val + target.toNat % 32) } } ∧
      t.get (R.HBM_PPR_TARGET k) = target.toNat ∧ t.get (R.HBM_PPR_STATE k) = 1 ∧ onlyFields [R.HBM_PPR_TARGET k, R.HBM_PPR_STATE k] s t) ∧
  (∀ (k : Fin 2) (poisoned : Option Nat) (s : State), s.repairAt k 1 = none → exec (.migrateOut k poisoned) s = .next s) ∧
  (∀ (k : Fin 2) (c : Nat) (s : State), s.repairAt k 1 = some c →
    (∃ t, exec (.migrateOut k none) s = .next t ∧ t.get (R.HBM_PPR_STATE k) = 2 ∧ c ∈ t.hb.redirect ∧ t.hb.mem = s.hb.mem) ∧
    (∀ l, hbmChannel (64 * l) = c → ∃ t, exec (.migrateOut k (some l)) s = .next t ∧ t.get (R.HBM_PPR_STATE k) = 2 ∧ c ∈ t.hb.redirect ∧
      t.hb.mem = s.hb.mem ∧ l ∈ t.hb.poison ∧ t.bit (R.BLK_INT_RAW (pgHBM (s.holder (64 * l)).stack)) 0 = true ∧
      t.bit (R.BLK_INT_RAW (pgHBM (s.holder (64 * l)).stack)) 4 = true)) ∧
  (∀ (k : Fin 2) (ok : Bool) (s : State), s.get (R.HBM_PPR_STATE k) = 2 →
    ∃ t, exec (.pprProgram k ok) s = .next t ∧ t.get (R.HBM_PPR_STATE k) = (if ok then 3 else 6) ∧ raised (pgHBM k) (if ok then [] else [6]) s t) ∧
  (∀ (k : Fin 2) (ok : Bool) (s : State), s.get (R.HBM_PPR_STATE k) = 3 →
    ∃ t, exec (.pprVerify k ok) s = .next t ∧ t.get (R.HBM_PPR_STATE k) = (if ok then 4 else 6) ∧ raised (pgHBM k) (if ok then [] else [6]) s t) ∧
  (∀ (k : Fin 2) (s : State), s.repairAt k 4 = none → exec (.migrateBack k) s = .next s) ∧
  (∀ (k : Fin 2) (c : Nat) (s : State), s.repairAt k 4 = some c →
    ∃ t, exec (.migrateBack k) s = .next t ∧ t.get (R.HBM_PPR_STATE k) = 5 ∧ c ∉ t.hb.redirect ∧ t.hb.repair = none ∧ raised (pgHBM k) [5] s t)

/-- The credit arbiters. A grant goes to a requester that waits and holds positive credit, of which no waiting one holds more, and its cost is taken
from its credit; one with more to ask for waits anew from then on. A boundary sets every counter to its requester's weight less its debt, and that of the
first fetch arbiter closes the partitions' windows; the end of a transfer frees the arbiter, and drains a frozen one, but a grant not yet used is not
withdrawn; what waited at crossbars that FREEZE lets go issues; a wait past its threshold raises STARVE once and is captured, not under FREEZE and never at
dispatch.
Where it goes beyond the spec's words it rests on logs 30 and 31. -/
def Obligations.ArbitersGrantByCredit : Prop :=
  (∀ (unit : Nat) (p : Placement) (requests : List Nat) (beats : Nat) (s : State), placement unit = some p →
    let u := s.noteWaits unit p requests
    (s.arbFrozen p = true ∨ (s.arb unit).owner ≠ none ∨ (u.arb unit).waiting = [] → exec (.arbGrant unit requests beats) s = .next u) ∧
    (s.arbFrozen p = false → (s.arb unit).owner = none → (u.arb unit).waiting ≠ [] → (∀ w ∈ (u.arb unit).waiting, w.req ∈ s.requesters p) →
      ∃ n t r, let a := (u.replenishFor unit p n).arb unit
        let cost := match p with
          | .fetch port => ((s.nextQp port r).map (s.burst r)).getD 1
          | .dispatch => 1
          | _ => max 1 (min beats 4)
        exec (.arbGrant unit requests beats) s = .next t ∧ (t.arb unit).owner = some r ∧ (t.arb unit).last = some r ∧
        (∃ w ∈ a.waiting, w.req = r) ∧ 0 < Sparse.get 0 a.credits r ∧ (∀ w ∈ a.waiting, Sparse.get 0 a.credits w.req ≤ Sparse.get 0 a.credits r) ∧
        Sparse.get 0 (t.arb unit).credits r = Sparse.get 0 a.credits r - cost ∧ (t.arb unit).burst = cost ∧ (t.arb unit).spent = false ∧
        (∀ w ∈ (t.arb unit).waiting, w.req = r → w.since = s.quartz) ∧
        t = { s with arbs := t.arbs })) ∧
  (∀ (unit : Nat) (p : Placement) (s : State), placement unit = some p →
    (s.quartz < (s.arb unit).nextWin → exec (.arbWindowBoundary unit) s = .next s) ∧
    ((s.arb unit).nextWin ≤ s.quartz → ∃ t, exec (.arbWindowBoundary unit) s = .next t ∧ s.quartz < (t.arb unit).nextWin ∧
      (t.arb unit).owner = (s.arb unit).owner ∧
      (∀ r ∈ s.requesters p, Sparse.get 0 (t.arb unit).credits r = (s.arbWeight p r : Int) + min (Sparse.get 0 (s.arb unit).credits r) 0) ∧
      (unit ≠ 0 → t = { s with arbs := t.arbs }) ∧
      (unit = 0 → ∀ q, (t.part q).lastWinDone = (s.part q).winDone ∧ (t.part q).winDone = 0 ∧ (t.part q).busyInWin = false))) ∧
  (∀ (unit : Nat) (p : Placement) (s : State), placement unit = some p →
    ((s.arb unit).owner = none ∨ s.grantStands unit p = true → exec (.arbTransferEnd unit) s = .next s) ∧
    ((s.arb unit).owner ≠ none → s.grantStands unit p = false → ∃ t, exec (.arbTransferEnd unit) s = .next t ∧ (t.arb unit).owner = none ∧ (t.arb unit).credits = (s.arb unit).credits ∧
      (t.bit (R.BLK_INT_RAW pgARB) 3 = (s.bit (R.BLK_INT_RAW pgARB) 3 || t.arbDrained p)))) ∧
  (∀ (reg : Fin 3) (value : Word) (s : State),
    (s.responds pgARB = true → reg.val ≠ 0 → ∃ t, exec (.arbFreeze reg value) s = .next t ∧
      t.get (if reg.val = 1 then R.ARB_FREEZE_HBM0 else R.ARB_FREEZE_HBM1) = value.toNat ∧
      onlyFields [if reg.val = 1 then R.ARB_FREEZE_HBM0 else R.ARB_FREEZE_HBM1, R.BLK_INT_RAW pgARB] s t) ∧
    (s.responds pgARB = true → reg.val = 0 → ∃ v : State, v.get R.ARB_FREEZE_FETCH = value.toNat % 2 ^ R.ARB_FREEZE_FETCH.width ∧
      v.get R.ARB_FREEZE_XBAR = value.toNat / 65536 ∧ onlyFields [R.ARB_FREEZE_FETCH, R.ARB_FREEZE_XBAR] s v ∧
      ∃ t, exec (.arbFreeze reg value) s = .next t ∧
        onlyFields [R.BLK_INT_RAW pgARB] ((List.range 16).foldl (fun s n => if s.xbarHeld n then s else s.pumpAll n) v) t) ∧
    (s.responds pgARB = false → exec (.arbFreeze reg value) s = .next s)) ∧
  (∀ (unit r : Nat) (p : Placement) (w : Waiting) (s : State), placement unit = some p → p ≠ .dispatch →
    let u := s.noteWaits unit p []
    (u.arb unit).waiting.find? (·.req == r) = some w →
    let limit := match p with | .fetch _ => s.get R.ARB_STARVE_FETCH | _ => s.get R.ARB_STARVE_LOW
    (w.starved = true ∨ s.arbFrozen p = true ∨ s.waited p w.since ≤ limit → exec (.starve unit r) s = .next u) ∧
    (w.starved = false → s.arbFrozen p = false → limit < s.waited p w.since →
      ∃ t, exec (.starve unit r) s = .next t ∧ t.bit (R.BLK_INT_RAW pgARB) (p.code.1 - 1) = true ∧ (t.arb unit).credits = (s.arb unit).credits ∧
        (∀ v ∈ (t.arb unit).waiting, v.req = r → v.starved = true) ∧
        (s.get R.ARB_CAPT_PLACE = 0 → t.get R.ARB_CAPT_PLACE = p.code.1 ∧ t.get R.ARB_CAPT_UNIT = p.code.2 ∧
          t.get R.ARB_CAPT_REQ = r % 2 ^ R.ARB_CAPT_REQ.width) ∧
        (s.get R.ARB_CAPT_PLACE ≠ 0 → t.get R.ARB_CAPT_REQ = s.get R.ARB_CAPT_REQ))) ∧
  (∀ (r : Nat) (s : State), exec (.starve 2 r) s = .next s)

/-! ## Partitions, memory protection, the gate, Obsidian and the life cycle -/

/-- PART_CMD and the memory protection units. FREEZE and DRAIN start on a partition in their states and set CMD_BUSY until the partition is quiet; THAW
returns a FROZEN one to ACTIVE; any other command is ignored with CMD_RESULT 2. A denied piece of a read is zeros and is counted, a permitted one comes from
its target; a permitted write reaches the shared SRAM or the work region, a denied one changes no byte; an access to HBM that is not ready, or to a frozen
channel, waits; a commit drain ends COMMIT_BUSY.
Where it goes beyond the spec's words it rests on logs 34, 43, 44, 45 and 240. -/
def Obligations.PartitionCommandsAndAccessChecks : Prop :=
  (∀ (p : Fin 1024) (s : State), s.responds pgGATE = true → s.partCmdOk p = true → (s.part p).pstate = .active ∨ (s.part p).pstate = .draining →
    ∃ t, exec (.partCmdFreeze p) s = .next t ∧ (t.part p).pstate = .frozen ∧ (t.part p).freezing = true ∧ t.get R.GATE_CMD_RESULT = 1 ∧
      t.get R.GATE_CMD_BUSY = 1 ∧ t.get R.GATE_PART_SEL = p.val ∧ bitOf (t.part p).pevt 1 = true ∧ t.gt.cmdPart = some p.val ∧
      (∀ c ∈ t.hq.staged, c.part ≠ p.val) ∧ (∀ k c, (t.ctx k).cmd = some c → c.part ≠ p.val)) ∧
  (∀ (p : Fin 1024) (s : State), s.responds pgGATE = true → s.partCmdOk p = true → (s.part p).pstate = .frozen →
    ∃ t, exec (.partCmdThaw p) s = .next t ∧ (t.part p).pstate = .active ∧ t.get R.GATE_CMD_RESULT = 1 ∧ bitOf (t.part p).pevt 2 = true ∧
      (∀ q < 64, (t.qp p q).qstate ≠ .frozen) ∧ t.sq = s.sq) ∧
  (∀ (p : Fin 1024) (s : State), s.responds pgGATE = true → s.partCmdOk p = true → (s.part p).pstate = .active →
    ∃ t, exec (.partCmdDrain p) s = .next t ∧ (t.part p).pstate = .draining ∧ t.get R.GATE_CMD_BUSY = 1 ∧ t.get R.GATE_CMD_RESULT = 1 ∧ t.hq = s.hq ∧
      t.sq = s.sq) ∧
  (∀ (p : Fin 1024) (s : State), s.responds pgGATE = true →
    ∃ t u, t.get R.GATE_CMD_RESULT = 2 ∧ onlyFields [R.GATE_PART_SEL, R.GATE_CMD_RESULT] s t ∧ t.get R.GATE_PART_SEL = p.val ∧
      u.get R.GATE_CMD_RESULT = 1 ∧ onlyFields [R.GATE_PART_SEL, R.GATE_CMD_RESULT] s u ∧ u.get R.GATE_PART_SEL = p.val ∧
      (s.partCmdOk p = false ∨ (s.part p).pstate = .off → exec (.partCmdFreeze p) s = .next t) ∧
      (s.partCmdOk p = true → (s.part p).pstate = .frozen → exec (.partCmdFreeze p) s = .next u) ∧
      (s.partCmdOk p = false ∨ (s.part p).pstate ≠ .frozen → exec (.partCmdThaw p) s = .next t) ∧
      (s.partCmdOk p = false ∨ (s.part p).pstate ≠ .active → exec (.partCmdDrain p) s = .next t)) ∧
  (∀ (p : Fin 1024) (s : State), s.responds pgGATE = false →
    exec (.partCmdFreeze p) s = .next s ∧ exec (.partCmdThaw p) s = .next s ∧ exec (.partCmdDrain p) s = .next s) ∧
  (∀ (p : Fin 1024) (s : State),
    ((s.part p).freezing = false ∨ s.partQuiet p = false → exec (.freezeComplete p) s = .next s) ∧
    ((s.part p).pstate ≠ .draining ∨ s.backlog p ≠ 0 ∨ s.partQuiet p = false → exec (.drainComplete p) s = .next s)) ∧
  (∀ (p : Fin 1024) (s : State), (s.part p).freezing = true → s.partQuiet p = true →
    ∃ t, exec (.freezeComplete p) s = .next t ∧ t.part p = { s.part p with freezing := false } ∧
      (s.gt.cmdPart = some p.val → t.get R.GATE_CMD_BUSY = 0 ∧ t.gt.cmdPart = none ∧ t.bit (R.BLK_INT_RAW pgGATE) 7 = true) ∧ t.hq.qps = s.hq.qps) ∧
  (∀ (p : Fin 1024) (s : State), (s.part p).pstate = .draining → s.backlog p = 0 → s.partQuiet p = true →
    ∃ t, exec (.drainComplete p) s = .next t ∧ (t.part p).pstate = .frozen ∧ (t.part p).freezing = false) ∧
  (∀ (m : Fin 16) (kind : AccessKind) (addr : Fin 0x10000000000) (len : Nat) (tag : Fin 1024) (data : List Byte) (s : State),
    14 ≤ m.val ∨ (kind = .fetch ∧ 8 ≤ m.val) → exec (.mpuAccess m kind addr len tag data) s = .next s) ∧
  (∀ (m : Fin 16) (kind : AccessKind) (addr : Fin 0x10000000000) (len : Nat) (tag : Fin 1024) (data : List Byte) (s : State),
    (∃ p ∈ pieces addr len, s.piecePermitted m kind p.1 (s.masterTag m tag) = true ∧ p.1 < hbmEnd ∧ s.hbmWaits p.1 = true) →
    exec (.mpuAccess m kind addr len tag data) s = .next s) ∧
  (∀ (m a n : Nat) (s : State),
    (a < hbmEnd → hbmProtected a = true → mayProtected (busUse m) = false → s.busRead m a n = some (zeros n)) ∧
    (a < hbmEnd → hbmProtected a = false ∨ mayProtected (busUse m) = true → s.busRead m a n =
      if s.readFails a n then none else some (slice (a % 64) n (s.readLine (a / 64)))) ∧
    (inSram a = true → s.busRead m a n = some ((List.range n).map fun i => s.sramByte (a + i)))) ∧
  (∀ (m : Fin 16) (kind : AccessKind) (addr : Fin 0x10000000000) (len : Nat) (tag : Fin 1024) (data : List Byte) (s : State),
    (kind = .read ∧ m.val < 14) ∨ (kind = .fetch ∧ m.val < 8) →
    (∀ p ∈ pieces addr len, s.piecePermitted m kind p.1 (s.masterTag m tag) = true → p.1 < hbmEnd → s.hbmWaits p.1 = false) →
    ∃ t u, exec (.mpuAccess m kind addr len tag data) s = .next t ∧ t.sc.sram = s.sc.sram ∧ t.hb = s.hb ∧ t.frees = s.frees + 1 ∧
      t.out = u.out ++ [.busRead m addr ((pieces addr len).map fun p =>
        if s.piecePermitted m kind p.1 (s.masterTag m tag) then s.busRead m p.1 p.2 else some (zeros p.2))] ∧ sentMsix s u ∧
      (t.get (R.MPU_VIOL_RD_CNT m) % 2 ^ 32 = min (s.get (R.MPU_VIOL_RD_CNT m) % 2 ^ 32 +
        ((pieces addr len).filter fun p => !s.piecePermitted m kind p.1 (s.masterTag m tag)).length) (2 ^ 32 - 1) ∨
        2 ^ 32 ≤ s.get (R.MPU_VIOL_RD_CNT m))) ∧
  (∀ (m : Fin 16) (addr : Fin 0x10000000000) (len : Nat) (tag : Fin 1024) (data : List Byte) (s : State), m.val < 14 →
    let ok := fun p : Nat × Nat => s.piecePermitted m .write p.1 (s.masterTag m tag) = true
    (∀ p ∈ pieces addr len, ok p → p.1 < hbmEnd → s.hbmWaits p.1 = false) →
    ∃ t, exec (.mpuAccess m .write addr len tag data) s = .next t ∧
      (∀ a, (∀ p ∈ pieces addr len, ok p → a < p.1 ∨ p.1 + p.2 ≤ a) → t.sramByte a = s.sramByte a ∧ t.memByte a = s.memByte a) ∧
      ((∀ p ∈ pieces addr len, ok p ∧ inSram p.1 = true) → len ≤ data.length → ∀ i < len, t.sramByte (addr.val + i) = data.getD i 0) ∧
      ((∀ p ∈ pieces addr len, ok p ∧ p.1 < hbmEnd ∧ hbmRegion p.1 = .work) → s.writeFails addr len = false → len ≤ data.length →
        ∀ i < len, t.memByte (addr.val + i) = data.getD i 0)) ∧
  (∀ (m : Fin 16) (s : State), s.get (R.MPU_COMMIT_BUSY m) ≠ 0 →
    ∃ t, exec (.mpuCommitDrain m) s = .next t ∧ t.get (R.MPU_COMMIT_BUSY m) = 0 ∧ raised (pgMPU m) [3] s t ∧
      keeps [R.MPU_COMMIT_BUSY m, R.BLK_INT_RAW (pgMPU m), R.MPU_DRAIN_MAX_NS m] s t) ∧
  (∀ (m : Fin 16) (s : State),
    (s.get (R.MPU_COMMIT_BUSY m) = 0 → exec (.mpuCommitDrain m) s = .next s) ∧
    (s.get (R.MPU_COMMIT_BUSY m) = 0 ∨ m.val ∈ s.gt.mpuOver ∨ s.quartz ≤ Sparse.get 0 s.gt.mpuCut m + 2000 →
      exec (.mpuDrainOvertime m) s = .next s)) ∧
  (∀ (m : Fin 16) (s : State), s.get (R.MPU_COMMIT_BUSY m) ≠ 0 → m.val ∉ s.gt.mpuOver → Sparse.get 0 s.gt.mpuCut m + 2000 < s.quartz →
    ∃ t, exec (.mpuDrainOvertime m) s = .next t ∧ t.gt.mpuOver = s.gt.mpuOver ++ [m.val] ∧ raised (pgMPU m) [4] s t ∧
      t.get (R.MPU_COMMIT_BUSY m) = s.get (R.MPU_COMMIT_BUSY m))

/-- The custodian gate. A staging write joins the change set of its class and scope, or is refused, counted and raises INT_RAW bit 8; a seal moves
GATE_SEQ on and fixes the digest; two approvals by two officers of two roles apply it; it completes into the flash; it may be abandoned or expire
before.
Where it goes beyond the spec's words it rests on logs 48, 50, 60, 61, 62, 64 and 183. -/
def Obligations.GateTakesTwoApprovals : Prop :=
  (∀ (port : Fin 2) (c : Change) (cls scope : Nat) (s : State), s.responds pgGATE = true →
    (∃ p i f, c = .vf p i f) ∨ (∃ p, c = .create p) ∨ (∃ p, c = .delete p) ∨ (∃ p i o, c = .officer p i o) ∨ (∃ p, c = .newRoot p) →
    s.changeClass c = some (cls, scope) → s.gateTakes cls scope = true → s.get R.GATE_STATE ≤ 1 → s.gt.set.length < 4096 →
    ∃ t, exec (.stagingWrite (.pf port) c) s = .next t ∧ t.gt.set = s.gt.set.filter (fun d => !sameTarget c d) ++ [c] ∧ t.get R.GATE_STATE = 1 ∧
      t.get R.GATE_ENTRIES = t.gt.set.length % 2 ^ R.GATE_ENTRIES.width ∧ (s.get R.GATE_STATE = 0 → t.get R.GATE_CLASS = cls % 16) ∧ t.parts = s.parts) ∧
  (∀ (port : Fin 2) (addr sel cls scope : Nat) (v : Nat) (s : State), s.responds pgGATE = true → s.responds (addr / 0x1000) = true →
    let c : Change := .word addr (s.selectorOf addr) (v &&& ((guardedAt addr).map (·.mask)).getD 0)
    s.changeClass c = some (cls, scope) → s.gateTakes cls scope = true → s.get R.GATE_STATE ≤ 1 → s.gt.set.length < 4096 →
    ∃ t, exec (.stagingWrite (.pf port) (.word addr sel v)) s = .next t ∧ t.gt.set = s.gt.set.filter (fun d => !sameTarget c d) ++ [c] ∧
      t.get R.GATE_STATE = 1 ∧ t.parts = s.parts) ∧
  (∀ (port : Fin 2) (c : Change) (cls scope : Nat) (s : State), s.responds pgGATE = true →
    (∃ p i f, c = .vf p i f) ∨ (∃ p, c = .create p) ∨ (∃ p, c = .delete p) ∨ (∃ p i o, c = .officer p i o) ∨ (∃ p, c = .newRoot p) →
    s.changeClass c = some (cls, scope) → s.gateTakes cls scope = false ∨ (4096 ≤ s.gt.set.length ∧ s.gt.set.any (sameTarget c) = false) →
    ∃ t, exec (.stagingWrite (.pf port) c) s = .next t ∧ t.gt = s.gt ∧ raised pgGATE [8] s t ∧
      onlyFields [R.GATE_STAGE_REJECT, R.BLK_INT_RAW pgGATE] s t) ∧
  (∀ (port : Fin 2) (c : Change) (s : State),
    (∀ p i, exec (.stagingWrite (.vf p i) c) s = .next s) ∧
    ((∃ k i bs, c = .image k i bs) ∨ (∃ l tok, c = .lifeCycle l tok) ∨ (∃ b, c = .reProvision b) ∨ s.responds pgGATE = false →
      exec (.stagingWrite (.pf port) c) s = .next s)) ∧
  (∀ s : State, s.responds pgGATE = true → s.inReset = false → s.get R.GATE_STATE ≤ 1 → s.gt.set = [] ∨ s.sealable = false →
    ∃ t, exec .gateSeal s = .next t ∧ t.gt = s.gt ∧ raised pgGATE [8] s t ∧ onlyFields [R.GATE_STAGE_REJECT, R.BLK_INT_RAW pgGATE] s t) ∧
  (∀ s : State,
    (s.responds pgGATE = false ∨ s.inReset = true ∨ 2 ≤ s.get R.GATE_STATE → exec .gateSeal s = .next s) ∧
    (s.responds pgGATE = false ∨ s.inReset = true ∨ s.get R.GATE_STATE = 0 ∨ 4 ≤ s.get R.GATE_STATE → exec .gateAbandon s = .next s)) ∧
  (∀ s : State, s.responds pgGATE = true → s.inReset = false → s.get R.GATE_STATE ≤ 1 → s.gt.set ≠ [] → s.sealable = true →
    ∃ t, exec .gateSeal s = .next t ∧ t.get R.GATE_STATE = 2 ∧ t.gateSeq % 2 ^ 64 = (s.gateSeq + 1) % 2 ^ 64 ∧ t.gt.sealedAt = s.quartz ∧
      t.gt.set = s.gt.set ∧ t.gt.appr1 = none ∧ t.gt.appr2 = none ∧ t.gateDigest = sha3_256 t.changeRecords ∧ t.bit (R.BLK_INT_RAW pgGATE) 0 = true) ∧
  (∀ s : State, s.responds pgGATE = true → s.inReset = false → 1 ≤ s.get R.GATE_STATE → s.get R.GATE_STATE ≤ 3 →
    ∃ t, exec .gateAbandon s = .next t ∧ t.get R.GATE_STATE = 0 ∧ t.gt.set = [] ∧ t.gt.appr1 = none ∧ t.gateSeq = s.gateSeq ∧ t.parts = s.parts) ∧
  (∀ s : State, s.get R.GATE_STATE = 2 ∨ s.get R.GATE_STATE = 3 → s.gt.sealedAt + 1000000000 * s.get R.GATE_WINDOW_S ≤ s.quartz → s.hasUnit 0 = true →
    ∃ t, exec .gateWindowExpire s = .next t ∧ t.get R.GATE_STATE = 1 ∧ t.gt.set = s.gt.set ∧ t.gt.appr1 = none ∧
      t.bit (R.BLK_INT_RAW pgGATE) 4 = true ∧ t.parts = s.parts) ∧
  (∀ (i : Nat) (ok : Bool) (a : Approval) (s : State), s.gt.verifying[i]? = some a →
    let u : State := { s with gt := { s.gt with verifying := s.gt.verifying.eraseIdx i } }
    u.approvalRefusal a.msg a.key a.sig = none → s.gt.appr1 = none →
    ∃ v : State, exec (.approvalVerified i ok) s = .next (v.endCommand a.ctx stOK 0 0 ok) ∧ v.gt.appr1 = some (numAt a.msg 52 2, byteAt a.msg 54) ∧
      v.get R.GATE_STATE = 3 ∧ v.bit (R.BLK_INT_RAW pgGATE) 1 = true ∧ v.gt.set = s.gt.set) ∧
  (∀ (i : Nat) (ok : Bool) (a : Approval) (st det : Nat) (s : State), s.gt.verifying[i]? = some a →
    let u : State := { s with gt := { s.gt with verifying := s.gt.verifying.eraseIdx i } }
    u.approvalRefusal a.msg a.key a.sig = some (st, det) →
    ∃ v : State, exec (.approvalVerified i ok) s = .next (v.endCommand a.ctx st det 0 ok) ∧ v.gt = u.gt ∧ raised pgGATE [6] s v) ∧
  (∀ (i : Nat) (ok : Bool) (a : Approval) (s : State), s.gt.verifying[i]? = some a →
    let u : State := { s with gt := { s.gt with verifying := s.gt.verifying.eraseIdx i } }
    u.approvalRefusal a.msg a.key a.sig = none → s.gt.appr1 ≠ none →
    ∃ v : State, exec (.approvalVerified i ok) s = .next (v.endCommand a.ctx 0x83 0 0 ok) ∧ v.gt.appr2 = some (numAt a.msg 52 2) ∧
      v.get R.GATE_STATE = 4 ∧ v.gt.froze = s.toFreeze ∧ v.gt.set = s.gt.set) ∧
  (∀ s : State,
    (s.get R.GATE_STATE ≠ 4 ∨ s.lc.target ≠ none ∨ (∃ p ∈ s.gt.froze, s.partQuiet p = false) → exec .gateApply s = .next s) ∧
    (s.get R.GATE_STATE = 4 → s.lc.target = none → (∀ p ∈ s.gt.froze, s.partQuiet p = true) →
      ∃ t, exec .gateApply s = .next t ∧ t.get R.GATE_STATE = 5 ∧ t.gt.froze = [] ∧ t.bit (R.BLK_INT_RAW pgGATE) 2 = true ∧
        (∀ p, s.gt.set = [.newRoot p] → (t.part p).proot.gen = ((s.part p).proot.gen + 1) % 2 ^ 24 ∧
          (t.part p).proot.key = some ((List.range 32).map fun i => Config.randByte (s.randoms + i))))) ∧
  (∀ s : State, s.get R.GATE_STATE ≠ 5 ∨ s.classDone = false ∨ s.deltaDone = false → exec .gateComplete s = .next s) ∧
  (∀ s : State, s.get R.GATE_STATE = 5 → s.classDone = true → s.deltaDone = true →
    ∃ t, exec .gateComplete s = .next t ∧ t.get R.GATE_STATE = 0 ∧ t.gt.set = [] ∧ t.bit (R.BLK_INT_RAW pgGATE) 3 = true ∧ t.parts = s.parts)

/-- Obsidian. A sample that fires an input on main power executes the class of its alarm, unless a response as high is in force: T1 latches and caps the
level, T2 resets the module, T3 and T4 zeroise and latch; in VIGIL T3 and above zeroise the MMK and T1 and T2 wait for the next power-up. The
monitors of other inputs keep their samples. A T1 latch is released by OBS_ACK while no input of class T1 is asserted: the fetch resumes and the cap
it put on the level is lifted; while one is asserted OBS_ACK is ignored; the latch stays through a T2 reset and the boot after it (R294). Power that
fails resets the core die and leaves the sentinel on its backup source, and without any source the MMK and the log are lost; power that returns
boots it.
Where it goes beyond the spec's words it rests on logs 36, 38, 100 and 101. -/
def Obligations.ObsidianRespondsToAlarms : Prop :=
  (∀ (a b : BitVec 8) (x : MonitorSample) (s : State),
    let u : State := { s with ob := { s.ob with tempA := a.toNat, tempB := b.toNat, patterns := s.ob.patterns + b2n (decide (x.input.val ≤ 2)) } }
    u.samples x.input = true → ((u.monitor x.input).step (u.filtN x.input) (u.filtM x.input) (u.present x)).2 = false →
    ∃ t, exec (.monitorSample a b [x]) s = .next t ∧
      t.monitor x.input = ((u.monitor x.input).step (u.filtN x.input) (u.filtM x.input) (u.present x)).1 ∧
      (∀ i, i ≠ x.input.val → t.monitor i = s.monitor i) ∧ t.ob.latch = s.ob.latch ∧ t.mode = s.mode ∧ keeps [R.BLK_SEQ pgOBS] s t ∧ t.out = s.out) ∧
  (∀ (a b : BitVec 8) (x : MonitorSample) (s : State),
    let u : State := { s with ob := { s.ob with tempA := a.toNat, tempB := b.toNat, patterns := s.ob.patterns + b2n (decide (x.input.val ≤ 2)) } }
    u.samples x.input = true → ((u.monitor x.input).step (u.filtN x.input) (u.filtM x.input) (u.present x)).2 = true → s.ob.onMain = true →
    3 ≤ s.respClass x.input → s.inForce < s.respClass x.input → s.respClass x.input ≤ 4 →
    ∃ t, exec (.monitorSample a b [x]) s = .next t ∧ t.ob.latch = s.respClass x.input ∧ (s.mode ≠ .boot → t.mode = .responded) ∧
      (∀ k, (t.ctx k).cmd = none) ∧ (∀ l, t.line l = {}) ∧ t.hb.keys = [] ∧ t.ob.rwgen = (s.ob.rwgen + 1) % 2 ^ 32 ∧
      (s.respClass x.input = 4 → t.ob.mmk = none) ∧ (∀ p, (t.part p).proot.key = none ∧ (t.part p).droot.key = none ∧ (t.part p).mroot.key = none)) ∧
  (∀ (a b : BitVec 8) (x : MonitorSample) (s : State),
    let u : State := { s with ob := { s.ob with tempA := a.toNat, tempB := b.toNat, patterns := s.ob.patterns + b2n (decide (x.input.val ≤ 2)) } }
    u.samples x.input = true → ((u.monitor x.input).step (u.filtN x.input) (u.filtM x.input) (u.present x)).2 = true → s.ob.onMain = true →
    ∃ t, exec (.monitorSample a b [x]) s = .next t ∧
      (s.respClass x.input ≤ s.inForce → s.inForce ≠ 2 ∨ s.respClass x.input ≠ 1 → t.ob.latch = s.ob.latch ∧ t.mode = s.mode) ∧
      (s.respClass x.input = 1 → s.inForce = 0 ∨ s.inForce = 2 → t.ob.latch = max s.ob.latch 1 ∧ t.bit (R.BLK_INT_RAW pgOBS) 1 = true ∧ t.mode = s.mode ∧
        (t.ob.latch = 1 → t.get R.PWR_T1_CAP = 1 ∧ t.levelInForce = 0 ∧ (s.inReset = false → t.get R.PWR_EFF_PL = 0))) ∧
      (s.respClass x.input = 2 → s.inForce < 2 → t.bt.cause = 3 ∧ t.mode = .boot ∧ t.ob.latch = s.ob.latch ∧ t.ob.mmk = s.ob.mmk)) ∧
  (∀ (a b : BitVec 8) (x : MonitorSample) (s : State),
    let u : State := { s with ob := { s.ob with tempA := a.toNat, tempB := b.toNat, patterns := s.ob.patterns + b2n (decide (x.input.val ≤ 2)) } }
    u.samples x.input = true → ((u.monitor x.input).step (u.filtN x.input) (u.filtM x.input) (u.present x)).2 = true → s.ob.onMain = false →
    ∃ t, exec (.monitorSample a b [x]) s = .next t ∧
      (if 3 ≤ s.respClass x.input ∧ s.ob.latch < 4 then t.ob.latch = 4 ∧ t.ob.mmk = none
       else t.ob.latch = s.ob.latch ∧ t.ob.mmk = s.ob.mmk ∧
         t.ob.pendT1 = (s.ob.pendT1 || (s.respClass x.input == 1 && s.ob.latch == 0)) ∧
         t.ob.pendT2 = (s.ob.pendT2 || (s.respClass x.input == 2 && decide (s.ob.latch < 2))))) ∧
  (∀ s : State, exec (.shadowScan false) s = .next s) ∧
  (∀ s : State, s.bit R.RST_BLK_READY 12 = true →
    ∃ t, exec (.shadowScan true) s = .next t ∧ bitOf t.ob.conds 14 = true ∧ t.ob.latch = s.ob.latch ∧ t.mode = s.mode) ∧
  (∀ s : State, s.responds pgOBS = true → s.ob.latch = 1 → (∀ i < 22, (s.monitor i).asserted = false ∨ s.respClass i ≠ 1) →
    ∃ t, exec .obsAck s = .next t ∧ t.ob.latch = 0 ∧ t.get R.PWR_T1_CAP = 0 ∧ t.bit (R.BLK_INT_RAW pgOBS) 2 = true ∧ t.mode = s.mode ∧
      t.fetchStopped = (s.pr.relinquishing || s.pw.phase != .awake)) ∧
  (∀ (i : Nat) (s : State), i < 22 → (s.monitor i).asserted = true → s.respClass i = 1 → exec .obsAck s = .next s) ∧
  (∀ s : State, s.responds pgOBS = true → s.ob.latch ≠ 1 → exec .obsAck s = .next s) ∧
  (∀ s : State, s.ob.latch = 1 → (s.resetModule 3).ob.latch = 1 ∧ ∃ t, exec .bootEnd s = .next t ∧ t.ob.latch = 1) ∧
  (∀ s : State, s.ob.onMain = true →
    ∃ t, exec (.mainPowerLoss true) s = .next t ∧ t.ob.onMain = false ∧ t.bt.vigil = true ∧ t.ob.mmk = s.ob.mmk ∧ t.ob.log = s.ob.log ∧
      t.ob.latch = s.ob.latch ∧ t.regs = [] ∧ t.mode = .boot ∧ t.ge = {} ∧ t.hb = {} ∧ t.lc.burned = s.lc.burned ∧ t.quartz = s.quartz) ∧
  (∀ s : State, s.ob.onMain = false →
    ∃ t, exec .powerOn s = .next t ∧ t.ob.onMain = true ∧ t.bt.vigil = false ∧ t.quartz = 0 ∧ t.mode = .boot ∧ t.bt.cause = 1 ∧ t.bt.resetCnt = 0 ∧
      t.ob.latch = s.ob.latch ∧ t.ob.mmk = s.ob.mmk) ∧
  (∀ (aux vbat cell low : Bool) (s : State), s.ob.onMain = true →
    ∃ t, exec (.backupSourceChange aux vbat cell low true) s = .next t ∧ t.ob.aux = aux ∧ t.ob.vbat = vbat ∧ t.ob.cell = cell ∧ t.ob.cellLow = low ∧
      t.ob.mmk = s.ob.mmk ∧ t.mode = s.mode ∧ (low = true → s.ob.cellLow = false → t.bit (R.BLK_INT_RAW pgOBS) 5 = true)) ∧
  (∀ s : State, s.bt.vigil = false → s.bt.vddLow = false →
    ∃ t, exec .vddCoreLoss s = .next t ∧ t.bt.vddLow = true ∧ t.inReset = true ∧ t.mode = .boot ∧ t.regs = [] ∧ t.ob.mmk = s.ob.mmk) ∧
  (∀ s : State, s.bt.vigil = true ∨ s.bt.vddLow = true → exec .vddCoreLoss s = .next s) ∧
  (∀ (held : Bool) (s : State), s.ob.onMain = false → exec (.mainPowerLoss held) s = .next s) ∧
  (∀ s : State, s.ob.onMain = true → s.bt.vddLow = false → exec .powerOn s = .next s) ∧
  (∀ s : State, s.ob.onMain = true → s.bt.vddLow = true →
    ∃ t, exec .powerOn s = .next t ∧ t.bt.vddLow = false ∧ t.quartz = 0 ∧ t.bt.cause = 1 ∧ t.mode = .boot ∧ t.ob.mmk = s.ob.mmk) ∧
  (∀ (low : Bool) (s : State), s.ob.onMain = false →
    ∃ t, exec (.backupSourceChange false false false low false) s = .next t ∧ t.ob.mmk = none ∧ t.ob.log = [] ∧ t.lc.burned = s.lc.burned)

/-- The life cycle. GO with a legal target and its token starts the transition with its wipe, and otherwise writes the code of the first failing check
and zeroes the token; a test token burns its index and opens the state; a transition that completes leaves the target's codeword where the word was
a codeword or a shorter one of the same path, and resets the core die.
Where it goes beyond the spec's words it rests on logs 94, 95, 96 and 97. -/
def Obligations.LifeCycleCommands : Prop :=
  (∀ (target idx : Fin 16) (s : State), s.responds pgLCS = true → target ≠ 3 →
    let u := (s.set R.LCS_TARGET target).set R.LCS_TEST_IDX idx
    ∀ code, u.lcRefusal true target u.lcToken = some code →
    ∃ t, exec (.lcsGo target idx) s = .next t ∧ t.get R.LCS_CMD_RESULT = code % 2 ^ R.LCS_CMD_RESULT.width ∧ (∀ i < 8, t.get (R.LCS_TOKEN i) = 0) ∧
      (code ≠ 2 → t.bit (R.BLK_INT_RAW pgLCS) 1 = true) ∧ t.lc = s.lc ∧ t.parts = s.parts) ∧
  (∀ (target idx : Fin 16) (s : State), s.responds pgLCS = true → target ≠ 3 →
    let u := (s.set R.LCS_TARGET target).set R.LCS_TEST_IDX idx
    u.lcRefusal true target u.lcToken = none →
    ∃ t, exec (.lcsGo target idx) s = .next t ∧ t.lc.target = some target.val ∧ t.lc.word = s.lc.word ∧ t.get R.LCS_BUSY = 1 ∧
      t.get R.LCS_CMD_RESULT = 2 ∧ (4 = target.val ∨ 6 ≤ target.val → target.val ≤ 7 → ∀ l, t.line l = {})) ∧
  (∀ (idx : Fin 16) (s : State), s.inReset = false → s.testRefusal idx s.lcToken = none →
    ∃ t, exec (.testOpenEntry idx) s = .next t ∧ t.lc.testOpen = true ∧ bitOf t.lc.burned idx = true ∧ t.lc.word = s.lc.word ∧
      t.bit (R.BLK_INT_RAW pgLCS) 2 = true ∧ (∀ l, t.line l = {})) ∧
  (∀ (target : Nat) (s : State), s.lc.target = some target → s.get R.GATE_STATE ≠ 5 ∨ s.gt.set.any Change.isLifeCycle = false →
    ∃ t, exec .lcsTransitionComplete s = .next t ∧ t.lc.target = none ∧ (∀ i, bitOf s.lc.word i = true → bitOf t.lc.word i = true) ∧
      (target ∈ [2, 4, 5, 6, 7] → s.lc.word = lcCodeword (lcDecode s.lc.word) → lcDecode s.lc.word < target → t.lc.word = lcCodeword target) ∧
      t.lc.burned = s.lc.burned ∧ t.bt.cause = 4 ∧ t.mode = .boot) ∧
  (∀ s : State, s.lc.nonce ≠ [] → s.lc.nonceDue ≤ s.quartz → s.hasUnit 1 = true →
    ∃ t, exec .dbgNonceExpire s = .next t ∧ t.lc.nonce = [] ∧ t.bit (R.BLK_INT_RAW pgLCS) 5 = true ∧ t.lc.word = s.lc.word) ∧
  (∀ (g : Nat) (s : State), s.lc.opening = some g → 3 ≤ s.ob.latch → bitOf s.ob.conds 18 = false →
    ∃ t, exec .debugOpen s = .next t ∧ t.get R.LCS_DBG_OPEN = 1 ∧ t.get R.LCS_DBG_GRANT = (s.get R.LCS_DBG_GRANT ||| g) % 2 ^ R.LCS_DBG_GRANT.width ∧ t.lc.opening = none ∧
      t.bit (R.BLK_INT_RAW pgLCS) 3 = true ∧ t.bit R.PWR_DOMAIN_ON_HI 12 = true) ∧
  (∀ s : State, s.lc.opening ≠ none → s.ob.latch < 3 → exec .debugOpen s = .next s) ∧
  (∀ (target idx : Fin 16) (s : State), s.responds pgLCS = false → exec (.lcsGo target idx) s = .next s) ∧
  (∀ (idx : Fin 16) (code : Nat) (s : State), s.inReset = false → s.testRefusal idx s.lcToken = some code →
    ∃ t, exec (.testOpenEntry idx) s = .next t ∧ t.get R.LCS_CMD_RESULT = code ∧ (∀ i < 8, t.get (R.LCS_TOKEN i) = 0) ∧ t.lc = s.lc ∧
      t.bit (R.BLK_INT_RAW pgLCS) 1 = true) ∧
  (∀ (idx : Fin 16) (s : State), s.responds pgLCS = true → exec (.lcsGo 3 idx) s = exec (.testOpenEntry idx) s) ∧
  (∀ s : State, s.lc.target = none ∨ (s.get R.GATE_STATE = 5 ∧ s.gt.set.any Change.isLifeCycle = true) → exec .lcsTransitionComplete s = .next s) ∧
  (∀ s : State, s.lc.nonce = [] ∨ s.quartz < s.lc.nonceDue ∨ s.hasUnit 1 = false → exec .dbgNonceExpire s = .next s) ∧
  (∀ s : State, s.lc.opening = none ∨ bitOf s.ob.conds 18 = true → exec .debugOpen s = .next s)

/-! ## Power, sleep and the pair -/

/-- The power controller. A raise requests its voltage before its frequency and a lowering relocks first; a change that the regulator does not
acknowledge is abandoned for the old voltage; the writes that waited for a relock arrive in their order when it is done; the thermal cap follows the
junction temperature; gated islands, clusters and pads go as they are told.
Where it goes beyond the spec's words it rests on logs 76, 122 and 211. -/
def Obligations.LevelsAndDomainsFollowTheirRequests : Prop :=
  (∀ (cap : Fin 4) (s : State), s.responds pgPWR = true →
    ∃ t, exec (.plCapWrite cap) s = .next t ∧ t.get R.PWR_PL_CAP = cap.val ∧ t.get R.PWR_EFF_PL = t.levelInForce ∧
      keeps [R.PWR_PL_CAP, R.PWR_EFF_PL] s t) ∧
  (∀ s : State, s.get R.PWR_STEP = 0 → s.get R.PWR_EFF_PL = s.levelInForce → s.get R.PWR_CUR_PL < s.levelInForce → s.get R.PWR_PL_FAIL = 0 →
    ∃ t, exec .levelChangeStart s = .next t ∧ t.get R.PWR_STEP = 1 ∧ t.get R.PWR_VREQ_PL = s.levelInForce ∧ t.get R.PWR_CUR_PL = s.get R.PWR_CUR_PL ∧
      t.pw.target = s.levelInForce ∧ t.out = s.out ++ [.avsRequest (s.get R.PWR_AVS_RAIL) s.levelInForce]) ∧
  (∀ s : State, s.get R.PWR_STEP = 0 → s.get R.PWR_EFF_PL = s.levelInForce → s.levelInForce < s.get R.PWR_CUR_PL → s.get R.PWR_PL_FAIL = 0 →
    ∃ t, exec .levelChangeStart s = .next t ∧ t.get R.PWR_STEP = 3 ∧ t.pw.relocking = true ∧ t.get R.GBL_ISLAND_LOCK % 2 ^ 24 = 0 ∧ t.out = s.out) ∧
  (∀ (status : BitVec 16) (s : State), s.get R.PWR_STEP = 1 → s.pw.relocking = false →
    ∃ t, exec (.avsAck status true) s = .next t ∧ t.get R.PWR_STEP = 2 ∧ t.pw.relocking = true ∧ t.get R.PWR_AVS_LAST = status.toNat) ∧
  (∀ (status : BitVec 16) (s : State), s.get R.PWR_STEP = 4 → s.pw.relocking = false →
    ∃ t, exec (.avsAck status true) s = .next t ∧ t.get R.PWR_STEP = 0 ∧ t.bit (R.BLK_INT_RAW pgPWR) 0 = true ∧
      t.get R.PWR_CHANGES = (s.get R.PWR_CHANGES + 1) % 2 ^ R.PWR_CHANGES.width) ∧
  (∀ s : State, s.pw.relocking = true → s.get R.PWR_STEP = 2 → s.pw.crossings = [] →
    ∃ t, exec .relockDone s = .next t ∧ t.get R.PWR_STEP = 0 ∧ t.get R.PWR_CUR_PL = s.pw.target % 4 ∧ t.pw.relocking = false) ∧
  (∀ s : State, s.pw.relocking = true → s.get R.PWR_STEP = 3 → s.pw.crossings = [] →
    ∃ t, exec .relockDone s = .next t ∧ t.get R.PWR_STEP = 4 ∧ t.get R.PWR_CUR_PL = s.pw.target % 4 ∧ t.get R.PWR_VREQ_PL = s.pw.target % 4 ∧
      t.pw.relocking = false) ∧
  (∀ s : State, s.get R.PWR_STEP = 1 ∨ s.get R.PWR_STEP = 4 → s.pw.sent + 500000 ≤ s.quartz →
    ∃ t, exec .avsTimeout s = .next t ∧ t.get R.PWR_STEP = 5 ∧ t.get R.PWR_PL_FAIL = 1 ∧ t.get R.PWR_VREQ_PL = s.pw.old % 4 ∧
      t.pw.failed = some s.pw.target ∧ t.bit (R.BLK_INT_RAW pgPWR) 1 = true) ∧
  (∀ s : State, s.get R.PWR_STEP = 5 → s.pw.relocking = false → s.pw.sent + 10000000 ≤ s.quartz →
    ∃ t, exec .avsRetry s = .next t ∧ t.get R.PWR_VREQ_PL = s.pw.old % 4 ∧ t.get R.PWR_STEP = 5 ∧ t.pw.sent = s.quartz ∧
      t.out = s.out ++ [.avsRequest (s.get R.PWR_AVS_RAIL) s.pw.old]) ∧
  (∀ s : State, s.responds pgPWR = true →
    ∃ t, exec .plFailClear s = .next t ∧ t.get R.PWR_PL_FAIL = 0 ∧ t.pw.failed = none ∧ onlyFields [R.PWR_PL_FAIL] s { t with pw := s.pw }) ∧
  (∀ (b : BitVec 8) (mv : Nat) (s : State), s.inReset = false → s.pw.phase ≠ .asleep → s.pw.nextSample ≤ s.quartz → b.toInt < 105 →
    ∃ t, exec (.thermalSample [b] mv) s = .next t ∧ t.get R.PWR_TJ = b.toNat ∧ t.pw.nextSample = s.quartz + 100000 ∧
      (t.pw.hot.isSome ↔ (s.get R.PWR_THERM_HI : Int) ≤ b.toInt) ∧ t.get R.PWR_THERM_CAP = s.get R.PWR_THERM_CAP) ∧
  (∀ (b : BitVec 8) (mv : Nat) (s : State), s.inReset = false → s.pw.phase ≠ .asleep → s.pw.nextSample ≤ s.quartz → 105 ≤ b.toInt →
    ∃ t, exec (.thermalSample [b] mv) s = .next t ∧ t.get R.PWR_THERM_CAP = 0) ∧
  (∀ (since falls : Nat) (s : State), s.pw.hot = some (since, falls) → s.pw.phase ≠ .asleep → since + 1000000 + 10000000 * falls ≤ s.quartz →
    ∃ t, exec .thermalCapFall s = .next t ∧ t.get R.PWR_THERM_CAP = s.get R.PWR_THERM_CAP - 1 ∧ t.pw.hot = some (since, falls + 1) ∧
      t.get R.PWR_EFF_PL = t.levelInForce) ∧
  (∀ (since : Nat) (s : State), s.pw.cool = some since → s.pw.phase ≠ .asleep → since + 100000000 ≤ s.quartz →
    ∃ t, exec .thermalCapRise s = .next t ∧ t.get R.PWR_THERM_CAP = min 3 (s.get R.PWR_THERM_CAP + 1) ∧ t.pw.cool = some s.quartz) ∧
  (∀ s : State, s.pw.relocking = true → s.get R.PWR_STEP = 5 → s.pw.crossings = [] →
    ∃ t, exec .relockDone s = .next t ∧ t.get R.PWR_STEP = 0 ∧ t.get R.PWR_CUR_PL = s.pw.old % 4 ∧ t.pw.relocking = false) ∧
  (∀ (c : Instr) (cs : List Instr) (s : State), s.pw.crossings = c :: cs →
    s.arrivals = cs.foldl State.arrive ({ s with pw := { s.pw with crossings := [] } }.arrive c) ∧
    (s.pw.relocking = true → s.get R.PWR_STEP = 2 → exec .relockDone s = .next (s.runLevel s.pw.target).arrivals.endChange)) ∧
  (∀ s : State, s.pw.relocking = false → exec .relockDone s = .next s) ∧
  (∀ s : State, s.get R.PWR_STEP = 0 → s.get R.PWR_EFF_PL = s.levelInForce → s.get R.PWR_CUR_PL = s.levelInForce → exec .levelChangeStart s = .next s) ∧
  (∀ (i : Fin 31) (s : State), s.islandBusy i = true → exec (.idleGate i) s = .next s) ∧
  (∀ (i : Fin 31) (s : State), s.islandBusy i = false →
    max 16 (s.get R.PWR_IDLE_GATE) * 1000 ≤ (s.quartz - Sparse.get 0 s.pw.activeAt i) * s.islandMHz i →
    ∃ t, exec (.idleGate i) s = .next t ∧ i.val ∈ t.pw.gated ∧ t = { s with pw := { s.pw with gated := t.pw.gated } }) ∧
  (∀ (i : Fin 31) (s : State), (s.quartz - Sparse.get 0 s.pw.activeAt i) * s.islandMHz i < max 16 (s.get R.PWR_IDLE_GATE) * 1000 →
    exec (.idleGate i) s = .next s) ∧
  (∀ (i : Fin 31) (s : State), ∃ t, exec (.islandUngate i) s = .next t ∧ i.val ∉ t.pw.gated ∧ Sparse.get 0 t.pw.activeAt i = s.quartz ∧
    t = { s with pw := { s.pw with gated := t.pw.gated, activeAt := t.pw.activeAt } }) ∧
  (∀ (i : Fin 24) (s : State), s.responds pgPWR = true → s.inS0 = true → s.clusterDrained i = true → s.clusterOff i = false →
    ∃ t, exec (.clusterPowerOff i) s = .next t ∧ t.clusterOff i = true ∧ t.domainOn i = false ∧ t.bit R.GBL_ISLAND_LOCK i = false ∧
      (i.val < 16 → t.bit R.GBL_CC_INSERVICE i = false ∧ t.residents i = [] ∧ t.queueFill i = 0)) ∧
  (∀ (i : Fin 24) (s : State), s.inS0 = false ∨ s.clusterDrained i = false ∨ s.clusterOff i = true → exec (.clusterPowerOff i) s = .next s) ∧
  (∀ (i : Fin 24) (s : State), s.responds pgPWR = true → s.inS0 = true → s.clusterOff i = true →
    ∃ t, exec (.clusterPowerOn i) s = .next t ∧ t.clusterOff i = false ∧ t.domainOn i = true ∧
      (i.val < 16 → ∀ u < 6, (t.unitSvc i u).katBusy = true)) ∧
  (∀ s : State, s.responds pgPWR = true → s.domainOn 41 = true → exec .relSd s = .next { s with pw := { s.pw with heldSd := false } }) ∧
  (∀ s : State, s.responds pgPWR = true → s.domainOn 42 = true → exec .relCard s = .next { s with pw := { s.pw with heldCard := false } }) ∧
  (∀ (i : Fin 24) (s : State), s.inS0 = false ∨ s.clusterOff i = false → exec (.clusterPowerOn i) s = .next s) ∧
  (∀ s : State, s.domainOn 41 = false → exec .relSd s = .next s) ∧ (∀ s : State, s.domainOn 42 = false → exec .relCard s = .next s)

/-- Sleep. An entry is carried out only when no command is left and no level change runs; its clusters, links and random queues are lost, in S3 the
stacks, the key table and the shared SRAM too; a data-class event wakes from S2 and aborts an entry not yet past its point of no return; S3 wakes on
a wake pattern or SMBus only.
Where it goes beyond the spec's words it rests on logs 105, 106 and 107. -/
def Obligations.SleepIsEnteredAndLeft : Prop :=
  (∀ s : State, s.pw.phase = .entering → s.hq.staged = [] → s.running = [] → s.hq.fwdOut = [] → s.get R.PWR_STEP = 0 → s.levelSettled = true →
    ∃ t, exec .sleepEntry s = .next t ∧ t.pw.phase = .asleep ∧ t.get R.PWR_SLEEP = 0 ∧ t.get R.FLT_READY = 0 ∧ (∀ k < 8, t.linkOpen k = false) ∧
      (∀ n < 16, t.queueFill n = 0) ∧ t.pw.heldSd = true ∧ t.pw.heldCard = true ∧ (∀ b ∈ s2Blocks, t.bit R.RST_BLK_READY b = false) ∧
      t.healthOut = s.healthOut ∧ t.pr.claimOut = s.pr.claimOut ∧ t.ob.mmk = s.ob.mmk ∧ (s.pw.s3 = false → t.ge = s.ge ∧ t.hb.mem = s.hb.mem ∧ t.sc.sram = s.sc.sram) ∧
      (s.pw.s3 = true → t.ge.lines = [] ∧ t.hb.mem = [] ∧ t.hb.keys = [] ∧ t.sc.sram = [])) ∧
  (∀ (port : Fin 2) (s : State), s.pw.phase = .asleep → s.pw.s3 = false →
    ∃ t, exec (.wakeTlp port) s = .next t ∧ t.pw.phase = .waking ∧ t.get R.PWR_SLEEP = 6 ∧ t.get R.PWR_LAST_WAKE = 1 + port.val ∧
      t.bit (R.BLK_INT_RAW pgPWR) 5 = true ∧ t.pw.wokeAt = s.quartz) ∧
  (∀ (port : Fin 2) (s : State), s.pw.phase = .asleep → s.pw.s3 = true → exec (.wakeTlp port) s = .next s) ∧
  (∀ (port : Fin 2) (k : Fin 8) (s : State), s.pw.phase = .entering →
    ∃ t, exec (.wakeTlp port) s = .next t ∧ exec (.wakePattern k) s = .next t ∧ t.pw.phase = .awake ∧ t.get R.PWR_SLEEP = 0 ∧
      raised pgPWR [4] s t ∧ t.hq.staged = s.hq.staged) ∧
  (∀ (k : Fin 8) (s : State), s.pw.phase = .asleep →
    ∃ t, exec (.wakePattern k) s = .next t ∧ t.pw.phase = .waking ∧ t.get R.PWR_LAST_WAKE = 3 ∧ t.get R.PWR_WAKE_LINK = k.val) ∧
  (∀ s : State, s.pw.phase = .asleep → s.pw.s3 = true →
    ∃ t, exec .wakeSmbus s = .next t ∧ t.pw.phase = .waking ∧ t.get R.PWR_LAST_WAKE = 4 ∧ t.get R.PWR_FROM_S3 = 1) ∧
  (∀ s : State, s.pw.phase ≠ .entering ∨ s.hq.staged ≠ [] ∨ s.running ≠ [] ∨ s.hq.fwdOut ≠ [] ∨ s.get R.PWR_STEP ≠ 0 ∨ s.levelSettled = false →
    exec .sleepEntry s = .next s) ∧
  (∀ s : State, s.pw.phase ≠ .asleep ∨ s.pw.s3 = false → exec .wakeSmbus s = .next s) ∧
  (∀ (port : Fin 2) (k : Fin 8) (s : State), s.pw.phase = .awake ∨ s.pw.phase = .waking →
    exec (.wakeTlp port) s = .next s ∧ exec (.wakePattern k) s = .next s)

/-- The pair's roles. Two microseconds after its claim a module without a rival becomes active; on a tie mark B withdraws and mark A waits; an active
module that is unfit, or a mark B in a conflict, demotes with every command ended; a standby whose conditions have held for 200 microseconds claims.
Where it goes beyond the spec's words it rests on logs 81, 82, 83, 121 and 197. -/
def Obligations.PairRolesFollowTheInterlock : Prop :=
  (∀ s : State, s.get R.PAIR_ROLE = 3 → s.pr.claimAt + 2000 ≤ s.quartz → s.pr.claimIn = false →
    ∃ t, exec .claimTie s = .next t ∧ t.get R.PAIR_ROLE = 1 ∧ t.pr.taking = none ∧
      (s.pr.taking = none → t.mode = s.servingMode) ∧ t.pr.claimOut = s.pr.claimOut) ∧
  (∀ s : State, s.get R.PAIR_ROLE = 3 → s.pr.claimAt + 2000 ≤ s.quartz → s.pr.claimIn = true →
    ∃ t, exec .claimTie s = .next t ∧
      (if s.isMarkA then t = { s with pr := { s.pr with waiting := true } } else t.get R.PAIR_ROLE = 2 ∧ t.pr.claimOut = false ∧ t.mode = .shadow)) ∧
  (∀ s : State, s.pr.waiting = true → s.pr.claimIn = true → s.pr.claimAt + 102000 ≤ s.quartz → s.pr.stuck = false →
    ∃ t, exec .stuckClaim s = .next t ∧ t.get R.PAIR_STUCK_CLAIM = 1 ∧ raised pgPAIR [6] s t ∧ t.pr = { s.pr with stuck := true } ∧
      onlyFields [R.PAIR_STUCK_CLAIM, R.BLK_INT_RAW pgPAIR] s { t with pr := s.pr }) ∧
  (∀ (t0 : Nat) (s : State), s.pr.conflictAt = some t0 → s.get R.PAIR_ROLE = 1 → s.pr.claimIn = true → t0 + 2000 ≤ s.quartz →
    s.pr.told = false ∨ (s.isMarkA = false ∧ s.mode ≠ .maintenance) →
    ∃ t, exec .claimConflict s = .next t ∧ t.get R.PAIR_CLAIM_CONFLICT = 1 ∧ t.bit (R.BLK_INT_RAW pgPAIR) 6 = true ∧
      (s.isMarkA = true ∨ s.mode = .maintenance → t.get R.PAIR_ROLE = 1) ∧
      (s.isMarkA = false → s.mode ≠ .maintenance → t.get R.PAIR_ROLE = 2 ∧ t.pr.claimOut = false ∧ (s.pr.kept = none → t.healthOut = false))) ∧
  (∀ s : State, s.get R.PAIR_ROLE = 1 → s.fit = false → s.mode ≠ .maintenance → s.pr.kept = none →
    ∃ t, exec .demote s = .next t ∧ t.get R.PAIR_ROLE = 2 ∧ t.pr.claimOut = false ∧ t.pr.unacked = [] ∧ t.hq.staged = [] ∧ t.hq.held = [] ∧
      (∀ k, (t.ctx k).cmd = none) ∧ (s.mode ≠ .responded → t.mode = .shadow)) ∧
  (∀ s : State, s.get R.PAIR_ROLE = 1 → s.fit = true → exec .demote s = .next s) ∧
  (∀ (t0 : Nat) (s : State), s.pr.hostDown = some t0 → s.get R.PAIR_HOSTLOSS_EN ≠ 0 → t0 + 1000000 ≤ s.quartz →
    ∃ t, exec .hostloss s = .next t ∧ t.pr.hostLost = true ∧ (s.pr.kept = none → t.healthOut = false) ∧ t.regs = s.regs) ∧
  (∀ (c h : Bool) (s : State), s.pr.waiting = false ∨ c = true →
    ∃ t, exec (.interlockInputChange c h) s = .next t ∧ t.pr.claimIn = c ∧ t.pr.healthIn = h ∧ t.regs = s.regs ∧ t.mode = s.mode) ∧
  (∀ (h : Bool) (s : State), s.pr.waiting = true →
    ∃ t, exec (.interlockInputChange false h) s = .next t ∧ t.get R.PAIR_ROLE = 1 ∧ t.pr.waiting = false) ∧
  (∀ (t0 : Nat) (s : State), s.pr.takeAt = some t0 → s.mayTake = true → s.get R.PAIR_ROLE = 2 → t0 + 200000 ≤ s.quartz → s.syncAllows = true →
    ∃ t, exec .takeover s = .next t ∧ t.get R.PAIR_ROLE = 3 ∧ t.pr.claimOut = true ∧ t.pr.claimAt = s.quartz ∧ t.pr.taking = some s.quartz ∧
      keeps [R.PAIR_ROLE] s t) ∧
  (∀ (t0 : Nat) (s : State), s.pr.takeAt = some t0 → s.mayTake = true → s.get R.PAIR_ROLE = 2 → t0 + 200000 ≤ s.quartz → s.syncAllows = false →
    s.pr.heldSync = false → ∃ t, exec .takeover s = .next t ∧ t.pr.heldSync = true ∧ raised pgPAIR [5] s t ∧ t.get R.PAIR_ROLE = 2) ∧
  (∀ s : State, s.responds pgPAIR = true →
    ∃ t, exec .take s = .next t ∧ (if s.pr.heldSync = true ∧ s.mayTake = true ∧ s.get R.PAIR_ROLE = 2
      then t.get R.PAIR_CMD_RESULT = 1 ∧ t.get R.PAIR_ROLE = 3 ∧ t.pr.claimOut = true else t.get R.PAIR_CMD_RESULT = 2 ∧ t.pr = s.pr)) ∧
  (∀ s : State, s.responds pgPAIR = true →
    ∃ t, exec .relinquish s = .next t ∧
      (if s.get R.PAIR_ROLE = 1 ∧ s.partnerByte 9 = 4 ∧ s.partnerByte 14 = 2 ∧ s.get R.PAIR_SYNC = 2 ∧ s.pr.healthIn = true
       then t.get R.PAIR_CMD_RESULT = 1 ∧ t.pr.relinquishing = true ∧ t.fetchStopped = true else t.get R.PAIR_CMD_RESULT = 2 ∧ t.pr = s.pr) ∧
      keeps [R.PAIR_CMD_RESULT] s t) ∧
  (∀ s : State, s.pr.relinquishing = true → s.mode ≠ .maintenance → s.hq.staged = [] → s.running = [] → s.hq.fwdOut = [] → s.hq.held = [] →
    ∃ t, exec .relinquishDrained s = .next t ∧ t.get R.PAIR_ROLE = 2 ∧ t.pr.claimOut = false ∧ (s.pr.kept = none → t.healthOut = false) ∧ t.mode = .shadow ∧
      (∀ k, s.pairLink = some k → .handover k ∈ t.out) ∧ t.pr.relinquishing = false ∧ t.get R.PAIR_SYNC = s.get R.PAIR_SYNC) ∧
  (∀ s : State, s.get R.PAIR_ROLE = 2 → s.mode = .shadow → s.healthOut = true →
    ∃ t, exec .handover s = .next t ∧ t.get R.PAIR_ROLE = 3 ∧ t.pr.claimOut = true ∧ t.pr.taking = some s.quartz ∧ t.pr.handed = true) ∧
  (∀ (t0 : Nat) (s : State), s.get R.PAIR_ROLE = 3 → s.pr.taking = some t0 → s.pr.claimAt + 2000 ≤ s.quartz → s.pr.claimIn = false →
    ∃ t, exec .claimTie s = .next t ∧ t.get R.PAIR_SYNC = (if s.pr.handed then 2 else 0) ∧ t.pr.handed = false ∧
      (s.get R.GATE_STATE ≠ 5 → t.get R.GATE_STATE = 0 ∧ t.gt.set = []) ∧ t.bit (R.BLK_INT_RAW pgPAIR) 0 = true) ∧
  (∀ s : State, s.get R.PAIR_ROLE ≠ 3 ∨ s.quartz < s.pr.claimAt + 2000 → exec .claimTie s = .next s) ∧
  (∀ s : State, s.pr.waiting = false ∨ s.pr.claimIn = false ∨ s.pr.stuck = true → exec .stuckClaim s = .next s) ∧
  (∀ s : State, s.mode = .maintenance → exec .demote s = .next s ∧ exec .relinquishDrained s = .next s) ∧
  (∀ s : State, s.pr.takeAt = none ∨ s.mayTake = false → exec .takeover s = .next s) ∧
  (∀ s : State, s.responds pgPAIR = false → exec .take s = .next s ∧ exec .relinquish s = .next s)

/-- The pair's reports and deltas. A report is sent every millisecond and only the expected partner's is kept; a self-test of the standby counts a
failure; the standby writes the delta that follows its last and acknowledges it; an acknowledgement releases the completions that wait for it, and
50 microseconds without one release them all.
Where it goes beyond the spec's words it rests on logs 80, 84, 85, 123 and 196. -/
def Obligations.PairReportsAndDeltas : Prop :=
  (∀ s : State, s.get R.PAIR_PAIR_EN ≠ 0 → s.booting = false → s.hasUnit 2 = true → s.pr.nextReport ≤ s.quartz →
    ∃ t r, exec .healthReportSend s = .next t ∧ told s.pairLink (fun k => .healthReport k r) s t ∧ r.length = 32 ∧ t.pr.nextReport = s.quartz + 1000000 ∧
      r.take 8 = leBytes 8 Config.serial.toNat) ∧
  (∀ (r : List Byte) (s : State), s.get R.PAIR_PAIR_EN ≠ 0 → numAt (fitBytes 32 r) 0 8 = s.partnerSerial →
    ∃ t, exec (.healthReportReceive r) s = .next t ∧ t.pr.partner = fitBytes 32 r ∧ t.pr.lastReport = s.quartz ∧ t.get R.PAIR_REPORT_LOST = 0 ∧
      t.get R.PAIR_PARTNER_RPT = numAt (fitBytes 32 r) 8 4 ∧
      t.get R.PAIR_SEL_CONFLICT = b2n (bitOf (numAt (fitBytes 32 r) 8 1) 2 == Config.markB)) ∧
  (∀ (r : List Byte) (s : State), s.get R.PAIR_PAIR_EN ≠ 0 → numAt (fitBytes 32 r) 0 8 = s.partnerSerial →
    ∃ t, exec (.healthReportReceive r) s = .next t ∧
      (numAt (fitBytes 32 r) 8 1 % 4 = 1 → s.get R.PAIR_ROLE = 2 →
        t.get R.PAIR_SYNC = if s.get R.PAIR_SYNC = 0 then 0 else numAt (fitBytes 32 r) 14 1 % 2 ^ R.PAIR_SYNC.width) ∧
      (numAt (fitBytes 32 r) 8 1 % 4 = 2 → numAt (fitBytes 32 r) 14 1 = 0 → s.get R.PAIR_ROLE = 1 → t.get R.PAIR_SYNC = 1) ∧
      (numAt (fitBytes 32 r) 8 1 % 4 ≠ 1 → numAt (fitBytes 32 r) 8 1 % 4 ≠ 2 → t.get R.PAIR_SYNC = s.get R.PAIR_SYNC)) ∧
  (∀ (r : List Byte) (s : State), s.get R.PAIR_PAIR_EN = 0 ∨ numAt (fitBytes 32 r) 0 8 ≠ s.partnerSerial →
    exec (.healthReportReceive r) s = .next s) ∧
  (∀ s : State, s.get R.PAIR_PAIR_EN = 1 → s.booting = false → s.get R.PAIR_REPORT_LOST = 0 → s.pr.lastReport + 3000000 ≤ s.quartz →
    ∃ t, exec .reportLost s = .next t ∧ t.get R.PAIR_REPORT_LOST = 1 ∧ raised pgPAIR [3] s t ∧
      onlyFields [R.PAIR_REPORT_LOST, R.BLK_INT_RAW pgPAIR] s t) ∧
  (∀ (result : Fin 4) (s : State), s.mode = .shadow → s.pr.nextTest ≤ s.quartz →
    ∃ t, exec (.selfTestStep result) s = .next t ∧ t.pr.lastTest = result.val ∧ t.pr.testUnit = (s.pr.testUnit + 1) % 168 ∧
      t.pr.nextTest = s.quartz + s.testNs ∧
      t.get R.PAIR_ST_FAIL_CNT = satAdd R.PAIR_ST_FAIL_CNT.width (s.get R.PAIR_ST_FAIL_CNT) (if result.val = 0 then 0 else 1)) ∧
  (∀ (q p : Nat) (t2 : Nat) (prev : Bool) (s : State), s.get R.PAIR_ROLE = 2 → s.inReset = false → q = s.dseq + 1 → q < 2 ^ 64 →
    ∃ t, exec (.deltaApply q (.roll p t2 prev)) s = .next t ∧ t.dseq = q ∧ told s.pairLink (fun k => .deltaAck k q) s t ∧
      t.part p = { s.part p with tepoch := t2, prevOk := prev } ∧ (∀ j, j ≠ p → t.part j = s.part j) ∧ t.ge = s.ge) ∧
  (∀ (q k : Nat) (l : KeyLine) (s : State), s.get R.PAIR_ROLE = 2 → s.inReset = false → q = s.dseq + 1 → q < 2 ^ 64 →
    ∃ t, exec (.deltaApply q (.line k l)) s = .next t ∧ t.dseq = q ∧ t.line k = l ∧ t.parts = s.parts) ∧
  (∀ (q : Nat) (s : State), (∀ h ∈ s.hq.held, q < h.dseq) →
    ∃ t, exec (.deltaAck q) s = .next t ∧ t.pr.unacked = s.pr.unacked.filter (fun u => q < u.1) ∧ t.hq = { s.hq with msixPend := t.hq.msixPend } ∧
      (s.get R.PAIR_ROLE = 1 → s.get R.PAIR_SYNC = 1 → t.pr.unacked = [] → t.get R.PAIR_SYNC = 2 ∧ t.bit (R.BLK_INT_RAW pgPAIR) 1 = true)) ∧
  (∀ (q : Nat) (s : State), ∃ t, exec (.deltaAck q) s = .next t ∧ ∀ h ∈ t.hq.held, q < h.dseq) ∧
  (∀ s : State, s.get R.PAIR_ROLE = 1 → s.get R.PAIR_SYNC = 2 → (∃ u ∈ s.pr.unacked, u.2 + 50000 ≤ s.quartz) →
    ∃ t, exec .syncTimeout s = .next t ∧ t.get R.PAIR_SYNC = 3 ∧ t.bit (R.BLK_INT_RAW pgPAIR) 2 = true ∧ t.hq.held = []) ∧
  (∀ s : State, s.responds pgPAIR = true → s.get R.PAIR_ROLE = 2 →
    ∃ t, exec .resync s = .next t ∧ told s.pairLink (fun k => .resyncRequest k) s t ∧ t.get R.PAIR_CMD_RESULT = 1 ∧
      keeps (R.PAIR_CMD_RESULT :: (List.range 8).map R.FVL_TX_FLITS) s t) ∧
  (∀ s : State, s.responds pgPAIR = true → s.get R.PAIR_ROLE = 1 →
    ∃ t, exec .resync s = .next t ∧ t.get R.PAIR_SYNC = 1 ∧ t.get R.PAIR_CMD_RESULT = 1 ∧ t.pr.resyncTo = t.dseq ∧ t.hq.held = [] ∧ t.ge = s.ge ∧
      (s.hq.held = [] → t.parts = s.parts)) ∧
  (∀ s : State, s.responds pgPAIR = true → s.get R.PAIR_ROLE ≠ 1 → s.get R.PAIR_ROLE ≠ 2 →
    ∃ t, exec .resync s = .next t ∧ t.get R.PAIR_CMD_RESULT = 2 ∧ onlyFields [R.PAIR_CMD_RESULT] s t) ∧
  (∀ (q : Nat) (d : Delta) (s : State), s.get R.PAIR_ROLE ≠ 2 ∨ s.inReset = true → exec (.deltaApply q d) s = .next s) ∧
  (∀ (f : Flash) (q : Nat) (s : State), s.get R.PAIR_ROLE = 2 → s.inReset = false → q < 2 ^ 64 →
    ∃ t, exec (.deltaApply q (.committed f)) s = .next t ∧ t.dseq = q ∧ t.get R.PAIR_SYNC = 1 ∧ t.ge = s.ge) ∧
  (∀ s : State, s.mode ≠ .shadow → exec (.selfTestStep 0) s = .next s)

/-! ## Links and the domain -/

/-- The links. A trained link draws its ephemeral key and nonce and sends its hello; to the peer's hello it answers with its proof; a peer this end authorises
opens a session with fresh keys and counters at 0, another is refused with DOWN_CAUSE 4, the third time in 10 s with FAILED; a flit that carries the tag
of its direction's key, salt and counter counts, is delivered on its VC and tells whether the peer is ready, and a sealed one carries it; four tag
failures in a millisecond and 10 microseconds of silence take the link down; flits the peer asks for leave the replay buffer again as they were; a flit
that ends a message does what the message says: it closes the session, tells what a neighbour is missing, asks for enrolment, aborts a command or asks for a
resynchronisation; 2^36 flits ratchet a direction's key, no flit being lost; retry, wake and reset act as their bits say.
Where it goes beyond the spec's words it rests on logs 86, 87, 92, 198, 201, 232, 233 and 254. -/
def Obligations.LinksOpenCarryAndFall : Prop :=
  (∀ (k : Fin 8) (s : State), s.get (R.FVL_STATE k) ≤ 1 → s.get (R.BLK_ENABLE (pgFVL k)) = 1 → s.domainOn (28 + k.val / 2) = true → s.inReset = false →
    let scalar := (List.range 64).map fun i => Config.randByte (s.randoms + i)
    let nonce := (List.range 32).map fun i => Config.randByte (s.randoms + 64 + i)
    ∃ t, exec (.linkTrained k) s = .next t ∧ t.get (R.FVL_STATE k) = 2 ∧ t.link k = { s.link k with ephemeral := scalar, nonce } ∧
      (∀ j, j ≠ k.val → t.link j = s.link j) ∧
      t.out = s.out ++ [.hello k (curveP384.encode false (curveP384.mul (curveP384.scalar scalar) (some curveP384.g))) (Config.linkEncaps k nonce)
        Config.serial.toNat (s.get R.FVL0_MEMBER_NO) nonce] ∧ keeps [R.FVL_STATE k] s t ∧
      t = { s with regs := t.regs, ln := t.ln, out := t.out, randoms := s.randoms + 96 }) ∧
  (∀ (k : Fin 8) (h : Hello) (s : State), s.get (R.FVL_STATE k) = 2 → s.authorises k h = true →
    ∃ t, exec (.handshake k h) s = .next t ∧ t.get (R.FVL_STATE k) = 3 ∧ t.get (R.FVL_DOWN_CAUSE k) = 0 ∧
      t.get (R.FVL_PEER_SN_LO k) = h.peer.toNat % 2 ^ 32 ∧ t.get (R.FVL_PEER_SN_HI k) = h.peer.toNat / 2 ^ 32 ∧
      t.get (R.FVL_PEER_MEMBER k) = h.member.val ∧ (t.link k).txCount = 0 ∧ (t.link k).rxCount = 0 ∧ (t.link k).lastFlit = s.quartz ∧
      (t.link k).txKey = linkSecret 0 h.shared (if isPartnerLink k then [] else s.dm.secret) ∧
      (t.link k).rxKey = linkSecret 1 h.shared (if isPartnerLink k then [] else s.dm.secret) ∧
      (t.link k).txSalt = (linkSecret 2 h.shared (if isPartnerLink k then [] else s.dm.secret)).take 4 ∧
      (t.link k).rxSalt = (linkSecret 3 h.shared (if isPartnerLink k then [] else s.dm.secret)).take 4 ∧ (∀ j, j ≠ k.val → t.link j = s.link j) ∧
      (∃ ecdsa mldsa, t.out = s.out ++ [.proof k ecdsa mldsa (if isPartnerLink k || !s.enrolled then [] else cmac 0 s.dm.secret (s.transcript k h))]) ∧
      onlyFields [R.FVL_STATE k, R.FVL_DOWN_CAUSE k, R.FVL_PEER_SN_LO k, R.FVL_PEER_SN_HI k, R.FVL_PEER_MEMBER k] s
        { t with ln := s.ln, out := s.out, randoms := s.randoms }) ∧
  (∀ (k : Fin 8) (h : Hello) (s : State), s.get (R.FVL_STATE k) = 2 → s.authorises k h = false →
    let recent := ((s.link k).refusals ++ [s.quartz]).filter fun t => s.quartz < t + 10000000000
    ∃ t, exec (.handshake k h) s = .next t ∧ t.get (R.FVL_STATE k) = (if 3 ≤ recent.length then 5 else 0) ∧ t.get (R.FVL_DOWN_CAUSE k) = 4 ∧
      (t.link k).refusals = recent ∧ raised (pgFVL k) [3] s t ∧ (∃ ecdsa mldsa proof, .proof k ecdsa mldsa proof ∈ t.out) ∧
      onlyFields [R.FVL_STATE k, R.FVL_DOWN_CAUSE k, R.BLK_INT_RAW (pgFVL k)] s { t with ln := s.ln, out := s.out, randoms := s.randoms }) ∧
  (∀ (k : Fin 8) (f : Flit) (s : State), let l := (s.link k).ratchetRx; let bs := fitBytes 256 f.bytes
    f.brings = none → s.linkOpen k = true → f.fecOk = true → flitOk l.rxKey l.rxSalt l.rxCount bs = true →
    ∃ t, exec (.flitReceive k f) s = .next t ∧ (t.link k).rxCount = l.rxCount + 1 ∧ (t.link k).lastFlit = s.quartz ∧
      (2 ≤ flitType bs → flitType bs < 8 →
        let got := Sparse.get [] l.parts (flitVc bs) ++ flitCrypt l.rxKey l.rxSalt l.rxCount (slice 2 242 bs)
        if flitEnd bs = true then Sparse.get [] (t.link k).messages (flitVc bs) = got ∧ Sparse.get [] (t.link k).parts (flitVc bs) = []
        else Sparse.get [] (t.link k).parts (flitVc bs) = got ∧ (t.link k).messages = l.messages) ∧
      (flitType bs < 2 → (t.link k).parts = l.parts ∧ (t.link k).messages = l.messages) ∧
      t.get (R.FVL_PEER_READY k) = (if flitType bs = 1 then 0 else 1) ∧ t.get (R.FVL_STATE k) = (if s.linkReady = true ∧ flitType bs ≠ 1 then 4 else 3) ∧
      t.get (R.FVL_RX_FLITS k) = (if flitType bs = 0 then s.get (R.FVL_RX_FLITS k) else (s.get (R.FVL_RX_FLITS k) + 1) % 2 ^ 32)) ∧
  (∀ (k : Fin 8) (f : Flit) (s : State), let l := (s.link k).ratchetRx
    f.brings.any s.mustWait = false → s.linkOpen k = true → f.fecOk = true → flitOk l.rxKey l.rxSalt l.rxCount (fitBytes 256 f.bytes) = false →
    let recent := (l.tagFails ++ [s.quartz]).filter fun t => s.quartz < t + 1000000
    ∃ t, exec (.flitReceive k f) s = .next t ∧ t.bit (R.BLK_INT_RAW (pgFVL k)) 2 = true ∧
      t.get (R.FVL_TAG_FAIL k) = satAdd 16 (s.get (R.FVL_TAG_FAIL k)) 1 ∧
      (recent.length < 4 → t.get (R.FVL_STATE k) = s.get (R.FVL_STATE k) ∧ (t.link k).rxCount = l.rxCount) ∧
      (4 ≤ recent.length → t.get (R.FVL_STATE k) = 0 ∧ t.get (R.FVL_DOWN_CAUSE k) = 2)) ∧
  (∀ (k : Fin 8) (f : Flit) (s : State), f.brings.any s.mustWait = false → s.linkOpen k = true → f.fecOk = false →
    ∃ t, exec (.flitReceive k f) s = .next t ∧ t.get (R.FVL_REPLAYS k) = satAdd 32 (s.get (R.FVL_REPLAYS k)) (min f.resend (s.link k).replay.length) ∧
      t.out = s.out ++ ((s.link k).replay.drop ((s.link k).replay.length - f.resend)).map (fun bs => .flit k.val bs) ∧
      keeps [R.FVL_REPLAYS k, R.FVL_FEC_CORR k] s t ∧ t = { s.updLink k Link.ratchetRx with regs := t.regs, out := t.out }) ∧
  (∀ (k : Fin 8) (f : Flit) (s : State), s.linkOpen k = false ∨ f.brings.any s.mustWait = true → exec (.flitReceive k f) s = .next s) ∧
  (∀ (k : Fin 8) (f : Flit) (m : PeerMessage) (s u : State), let l := (s.link k).ratchetRx; let bs := fitBytes 256 f.bytes
    f.brings = some m → s.mustWait m = false → s.linkOpen k = true → f.fecOk = true → flitOk l.rxKey l.rxSalt l.rxCount bs = true → flitEnd bs = true →
    flitType bs = peerType m → exec (.flitReceive k { f with brings := none }) s = .next u → exec (.flitReceive k f) s = .next (u.hear k m)) ∧
  (∀ (k : Fin 8) (s : State), (s.hear k .closes).get (R.FVL_STATE k) = 0 ∧ (s.hear k .closes).get (R.FVL_DOWN_CAUSE k) = 3) ∧
  (∀ (k : Fin 8) (origins : List (Fin 4096 × Nat)) (schedules : List (Fin 1024 × Nat)) (s : State),
    s.enrolled = true → k.val < 6 → s.linkUp k = true → let t := s.hear k (.holds origins schedules)
    (∀ m ∈ s.dm.originated, heldBy origins (s.get R.FVL0_MEMBER_NO) < m.1 → .replication k m.1 m.2.1 m.2.2 ∈ t.out) ∧
    (∀ e ∈ s.parts, heldBy schedules e.1 < e.2.epSeq → e.2.epCancelled = true → .cancel k e.1 e.2.epSeq ∈ t.out) ∧
    (∀ e ∈ s.parts, ∀ ts tov, heldBy schedules e.1 < e.2.epSeq → e.2.epCancelled = false → e.2.epPending = some (ts, tov) →
      .schedule k e.1 e.2.epSeq ((e.2.epoch + 1) % 2 ^ 32) ts tov ∈ t.out)) ∧
  (∀ (k : Fin 8) (parts : List (Fin 1024)) (s : State), let t := s.hear k (.joins parts)
    (s.admitsPeer k = false → t = s) ∧
    (s.admitsPeer k = true → t.get R.FVL0_JOIN_SN_LO = 0 ∧ t.get R.FVL0_JOIN_SN_HI = 0 ∧
      (∃ epochs, .sponsor k s.dm.secret s.dm.id s.domainTime epochs ∈ t.out) ∧ .catchupDone k ∈ t.out ∧
      ∀ e ∈ s.ge.lines, (parts.map (·.val)).contains (linePart e.1) = true → isReplicated (lineHandle e.1) e.2 = true → .catchupRecord k e.1 e.2 ∈ t.out)) ∧
  (∀ (k : Fin 8) (tag : Nat) (s : State), k.val = 6 ∨ k.val = 7 → s.running.all (fun e => !(e.2.cmd.any fun c => c.peer == some (k.val, tag))) = true →
    (s.hear k (.aborts tag)).hq.staged = s.hq.staged.filter fun c => !(c.peer == some (k.val, tag))) ∧
  (∀ (k : Fin 8) (s : State), k.val < 2 → s.get R.PAIR_ROLE = 1 → s.hear k .asksResync = s.startResync) ∧
  (∀ (k : Fin 8) (s : State), let l := (s.link k).ratchetTx
    let bs := sealFlit l.txKey l.txSalt l.txCount (flitHdr (if s.linkReady then 0 else 1) 0 true) (Config.idlePayload k l.txCount)
    s.linkOpen k = true → l.lastSent + 1000 ≤ s.quartz →
    ∃ t, exec (.idleFlitSend k) s = .next t ∧ t.out = s.out ++ [.flit k bs] ∧
      t.link k = { l with txCount := l.txCount + 1, lastSent := s.quartz, replay := (l.replay ++ [bs]).drop (l.replay.length + 1 - 64) } ∧
      (s.linkReady = false → t.get (R.FVL_TX_FLITS k) = (s.get (R.FVL_TX_FLITS k) + 1) % 2 ^ 32) ∧ keeps [R.FVL_TX_FLITS k] s t) ∧
  (∀ (k : Fin 8) (s : State), s.linkOpen k = false ∨ s.quartz < (s.link k).lastSent + 1000 → exec (.idleFlitSend k) s = .next s) ∧
  (∀ (key salt payload : List Byte) (n type : Nat), key.length = 32 → type < 16 →
    (sealFlit key salt n (flitHdr type 0 true) payload).length = 256 ∧ flitType (sealFlit key salt n (flitHdr type 0 true) payload) = type ∧
    flitOk key salt n (sealFlit key salt n (flitHdr type 0 true) payload) = true) ∧
  (∀ (k : Fin 8) (s : State), s.linkOpen k = true → (s.link k).lastFlit + 10000 ≤ s.quartz →
    ∃ t, exec (.linkSilence k) s = .next t ∧ t.get (R.FVL_STATE k) = 0 ∧ t.get (R.FVL_DOWN_CAUSE k) = 1 ∧ t.get (R.FVL_PEER_READY k) = 0 ∧
      (t.link k).txKey = [] ∧ (t.link k).rxKey = [] ∧ t.bit (R.BLK_INT_RAW (pgFVL k)) 1 = true ∧
      t.get (R.FVL_RETRAINS k) = satAdd 16 (s.get (R.FVL_RETRAINS k)) 1 ∧
      (s.linkUp k = true → k.val = 2 ∨ k.val = 3 → t.get (R.FVL_WRAPPED k) = 1)) ∧
  (∀ (k : Fin 8) (s : State), let l := s.link k
    s.linkOpen k = true →
    (2 ^ 36 ≤ l.txCount → exec (.keyRatchet k true) s = .next (s.updLink k fun l => { l with txKey := kdfCmac l.txKey [0x46, 0x52, 0x4B] [], txCount := 0 })) ∧
    (2 ^ 36 ≤ l.rxCount → exec (.keyRatchet k false) s = .next (s.updLink k fun l => { l with rxKey := kdfCmac l.rxKey [0x46, 0x52, 0x4B] [], rxCount := 0 }))) ∧
  (∀ (k : Fin 8) (s : State), s.responds (pgFVL k) = true →
    (s.get (R.FVL_STATE k) = 5 → ∃ t, exec (.linkRetry k) s = .next t ∧ t.get (R.FVL_STATE k) = 1 ∧ (t.link k).refusals = [] ∧
      onlyFields [R.FVL_STATE k] s { t with ln := s.ln }) ∧
    (s.get (R.FVL_STATE k) = 0 → exec (.wakeSend k) s = .next (s.emit (.wakePattern k 0x5A3C96F00FF0A55AC33C69E11E87B44B 16))) ∧
    (∃ t, exec (.fvlSoftReset k) s = .next t ∧ 
      t.get (R.FVL_STATE k) = (if s.get (R.BLK_ENABLE (pgFVL k)) = 1 ∧ s.domainOn (28 + k.val / 2) = true then 1 else 0) ∧ t.get (R.FVL_DOWN_CAUSE k) = 5 ∧ (t.link k).txKey = [] ∧ (t.link k).rxKey = [])) ∧
  (∀ (k : Fin 8) (h : Hello) (s : State), s.get (R.FVL_STATE k) ≠ 2 → exec (.handshake k h) s = .next s) ∧
  (∀ (k : Fin 8) (s : State), 1 < s.get (R.FVL_STATE k) ∨ s.inReset = true → exec (.linkTrained k) s = .next s) ∧
  (∀ (k : Fin 8) (s : State), s.linkOpen k = false → exec (.linkSilence k) s = .next s ∧ ∀ sends, exec (.keyRatchet k sends) s = .next s) ∧
  (∀ (k : Fin 8) (s : State), s.responds (pgFVL k) = false →
    exec (.linkRetry k) s = .next s ∧ exec (.wakeSend k) s = .next s ∧ exec (.fvlSoftReset k) s = .next s)

/-- The key domain. The grandmaster is the member with PPS locked, the lowest MEMBER_NO of several or of all; any other
member's time slews toward its parent's by at most 50 ppm; a PPS edge within a millisecond aligns the grandmaster; schedules and
cancellations with a higher sequence take effect and go on along the tree, and every one is acknowledged; the epoch opens at Ts and its overlap ends at Ts + Tov; replicated
records of a partition that does not exist are counted and dropped; forwarded commands leave, arrive and return once, their window input read and their window output written at home.
Where it goes beyond the spec's words it rests on logs 88, 89, 90, 91, 93, 199, 200 and 226. -/
def Obligations.DomainKeepsTimeEpochsAndForwards : Prop :=
  (∀ (k : Fin 8) (delay : BitVec 24) (members : List (Fin 4096 × Bool)) (parent : Option Nat) (depth : BitVec 8) (s : State),
    let own := s.get R.FVL0_MEMBER_NO
    let gm := grandmaster (members.map fun m => (m.1.val, m.2)) own (s.get R.FVL0_PPS_LOCKED == 1)
    s.enrolled = true → k.val < 6 → s.linkUp k = true →
    ∃ t, exec (.delayExchange k delay members parent depth) s = .next t ∧ t.get (R.FVL_DELAY k) = delay.toNat ∧
      (gm = own → t.get R.FVL0_GM = 1 ∧ t.get R.FVL0_DT_LOCKED = 1 ∧ t.dm.lostAt = none ∧ t.get R.FVL0_DT_STALE = 0 ∧
        t.dm.offset = s.dm.offset ∧ t.get R.FVL0_DT_DEPTH = 0 ∧ t.get R.FVL0_DT_ERR_NS = 0) ∧
      (gm ≠ own → t.get R.FVL0_GM = 0 ∧
        (parent = none → t.dm = s.dm ∧ t.get R.FVL0_DT_LOCKED = (if s.get R.FVL0_GM = 0 ∧ s.get R.FVL0_DT_LOCKED = 1 then 1 else 0)) ∧
        (∀ pt, parent = some pt → t.get R.FVL0_DT_LOCKED = 1 ∧ t.dm.lostAt = none ∧ t.get R.FVL0_DT_STALE = 0 ∧ t.dm.parent = some k.val ∧
          t.get R.FVL0_DT_DEPTH = depth.toNat ∧ t.get R.FVL0_DT_ERR_NS = (7 * depth.toNat + 9) / 10 ∧
          (t.dm.offset - s.dm.offset).natAbs ≤ (s.quartz - s.dm.disciplined) * 50 / 1000000 ∧
          (((pt : Int) - s.domainTime).natAbs ≤ (s.quartz - s.dm.disciplined) * 50 / 1000000 →
            t.dm.offset = s.dm.offset + ((pt : Int) - s.domainTime))))) ∧
  (∀ (members : List (Nat × Bool)) (own : Nat) (locked : Bool), own < 4096 → (∀ m ∈ members, m.1 < 4096) → let g := grandmaster members own locked
    ((locked = true ∨ ∃ m ∈ members, m.2 = true) →
      (g, true) ∈ (own, locked) :: members ∧ ∀ m ∈ (own, locked) :: members, m.2 = true → g ≤ m.1) ∧
    (locked = false → (∀ m ∈ members, m.2 = false) → (∃ b, (g, b) ∈ (own, locked) :: members) ∧ ∀ m ∈ (own, locked) :: members, g ≤ m.1)) ∧
  (∀ s : State, s.enrolled = true → s.get (R.PAD_EN 8) = 1 →
    let e : Int := (s.domainTime % 1000000000 : Nat) - (s.get R.FVL0_PPS_OFFSET : Int)
    let d : Int := if 500000000 < e then e - 1000000000 else if e < -500000000 then e + 1000000000 else e
    ∃ t, exec .ppsEdge s = .next t ∧
      (if d.natAbs ≤ 1000000 then
        t.get R.FVL0_PPS_LOCKED = 1 ∧ t.get R.FVL0_PPS_BAD = 0 ∧ t.dm.ppsMissed = 0 ∧
        t.dm.offset = (if s.get R.FVL0_GM = 1 then s.dm.offset - d else s.dm.offset)
       else t.get R.FVL0_PPS_BAD = 1 ∧ t.dm.offset = s.dm.offset ∧ raised (pgFVL 0) [14] s t ∧ t.dm.ppsMissed = s.dm.ppsMissed + 1 ∧
        t.get R.FVL0_PPS_LOCKED = (if 2 ≤ s.dm.ppsMissed then 0 else s.get R.FVL0_PPS_LOCKED))) ∧
  (∀ s : State, s.enrolled = false ∨ s.get (R.PAD_EN 8) = 0 → exec .ppsEdge s = .next s) ∧
  (∀ (t0 : Nat) (s : State), s.dm.lostAt = some t0 → 1000 < s.dtErr → exec .dtStale s = .next (s.set R.FVL0_DT_STALE 1)) ∧
  (∀ s : State, s.dm.catchup = true →
    ∃ t, exec .enrolmentCatchupDone s = .next t ∧ t.get R.FVL0_REPL_GAP = 0 ∧ t.dm = { s.dm with catchup := false } ∧ raised (pgFVL 0) [13] s t ∧
      keeps [R.FVL0_REPL_GAP, R.BLK_INT_RAW (pgFVL 0)] s t) ∧
  (∀ (part : Fin 1024) (seq epoch ts tov : Nat) (s : State), (s.part part).epSeq < seq →
    let x := (s.openEpoch part).part part
    ∃ t, exec (.scheduleReceive part seq epoch ts tov) s = .next t ∧ (∀ j, j ≠ part.val → t.part j = s.part j) ∧
      (∀ j ∈ s.treeLinks, .scheduleAck j part seq false ∈ t.out ∧ .schedule j part seq epoch ts tov ∈ t.out) ∧
      (s.domainTime < ts → x.epoch < epoch →
        t.part part = { x with epSeq := seq, epCancelled := false, epoch := epoch - 1, epPending := some (ts, min tov 60000000000) }) ∧
      (ts ≤ s.domainTime → x.epoch < epoch → (t.part part).epoch = epoch % 2 ^ 32 ∧ (t.part part).epPending = none ∧ (t.part part).overlap = true) ∧
      (epoch ≤ x.epoch → t.part part = { x with epSeq := seq, epCancelled := false })) ∧
  (∀ (part : Fin 1024) (seq epoch ts tov : Nat) (s : State), seq ≤ (s.part part).epSeq →
    exec (.scheduleReceive part seq epoch ts tov) s = .next ((s.openEpoch part).tellTree fun j => .scheduleAck j part seq false) ∧
    exec (.cancelReceive part seq) s = .next (s.tellTree fun j => .scheduleAck j part seq false)) ∧
  (∀ (o : Nat → Output) (s : State), (∀ j ∈ s.treeLinks, o j ∈ (s.tellTree o).out) ∧ keeps ((List.range 8).map R.FVL_TX_FLITS) s (s.tellTree o) ∧
    (s.tellTree o).parts = s.parts ∧ (s.tellTree o).hq = s.hq ∧ (s.tellTree o).ge = s.ge) ∧
  (∀ (part : Fin 1024) (seq ts tov : Nat) (s : State), (s.part part).epSeq < seq → (s.part part).epPending = some (ts, tov) → ts ≤ s.domainTime →
    let held : Bool := decide ((s.part part).epSeq ≠ 0 ∧ (s.part part).epSeq + 1 = seq ∧ (s.part part).epCancelled = false)
    ∃ t, exec (.cancelReceive part seq) s = .next t ∧ (∀ j ∈ s.treeLinks, .scheduleAck j part seq held ∈ t.out ∧ .cancel j part seq ∈ t.out) ∧
      raised (pgFVL 0) (if held then [9, 15] else [9]) s t ∧
      t.part part = { s.part part with epSeq := seq, epCancelled := true, epoch := ((s.part part).epoch + 1) % 2 ^ 32, epTs := ts, epTov := tov, epPending := none,
                                       overlap := true }) ∧
  (∀ (part : Fin 1024) (seq ts tov : Nat) (s : State), (s.part part).epSeq < seq → (s.part part).epPending = some (ts, tov) → s.domainTime < ts →
    ∃ t, exec (.cancelReceive part seq) s = .next t ∧ t.part part = { s.part part with epSeq := seq, epCancelled := true, epPending := none } ∧
      (∀ j ∈ s.treeLinks, .scheduleAck j part seq false ∈ t.out ∧ .cancel j part seq ∈ t.out) ∧
      keeps ((List.range 8).map R.FVL_TX_FLITS) s t) ∧
  (∀ (part : Fin 1024) (seq : Nat) (s : State), (s.part part).epSeq < seq → (s.part part).epPending = none →
    let held : Bool := decide ((s.part part).epSeq ≠ 0 ∧ (s.part part).epSeq + 1 = seq ∧ (s.part part).epCancelled = false)
    ∃ t, exec (.cancelReceive part seq) s = .next t ∧ t.part part = { s.part part with epSeq := seq, epCancelled := true } ∧
      raised (pgFVL 0) (if held then [15] else []) s t ∧ ∀ j ∈ s.treeLinks, .scheduleAck j part seq held ∈ t.out ∧ .cancel j part seq ∈ t.out) ∧
  (∀ (part : Fin 1024) (ts tov : Nat) (s : State), s.hasUnit 3 = true → (s.part part).epPending = some (ts, tov) → ts ≤ s.domainTime →
    ∃ t, exec (.epochBoundary part) s = .next t ∧ raised (pgFVL 0) [9] s t ∧ t.get (R.QTZ_FIRED (s.get (R.QTZ_UNIT 3))) = 1 ∧
      t.part part = { s.part part with epoch := ((s.part part).epoch + 1) % 2 ^ 32, epTs := ts, epTov := tov, epPending := none, overlap := true }) ∧
  (∀ (part : Fin 1024) (s : State), s.hasUnit 3 = true → (s.part part).epPending = none → (s.part part).overlap = true →
    (s.part part).epTs + (s.part part).epTov ≤ s.domainTime →
    ∃ t, exec (.epochBoundary part) s = .next t ∧ raised (pgFVL 0) [10] s t ∧ t.part part = { s.part part with overlap := false }) ∧
  (∀ (k : Fin 8) (origin : Fin 4096) (seq : Nat) (part : Fin 1024) (handle : Word) (line : KeyLine) (r : KeyRecord) (s : State),
    s.enrolled = true → k.val < 6 → s.linkUp k = true → origin.val ≠ s.get R.FVL0_MEMBER_NO → Sparse.get 0 s.dm.seen origin < seq → handleScope handle.toNat = 1 → line.record = some r →
    bitOf r.key.attr 6 = true → (s.line (lineKey part handle.toNat)).live = false →
    ∃ t, exec (.replMessage k origin seq part handle line) s = .next t ∧ Sparse.get 0 t.dm.seen origin = seq ∧
      (∀ j ∈ s.treeLinks, j ≠ k.val → .forwardRepl j origin seq (lineKey part handle.toNat) line ∈ t.out) ∧
      (Sparse.get 0 s.dm.seen origin ≠ 0 → Sparse.get 0 s.dm.seen origin + 1 < seq → t.get R.FVL0_REPL_GAP = 1 ∧ t.dm.catchup = true) ∧
      ((s.part part).created = false → t.ge = s.ge ∧ t.get R.FVL0_REPL_DISCARD = satAdd 32 (s.get R.FVL0_REPL_DISCARD) 1) ∧
      ((s.part part).created = true → t.get R.FVL0_REPL_RX = (s.get R.FVL0_REPL_RX + 1) % 2 ^ 32)) ∧
  (∀ (input : List Byte) (k : Nat) (c : Cmd) (rest : List Cmd) (s : State), s.forwardLink = some k → s.pickForward [] s.hq.staged = some (c, rest) →
    (s.windowWaits c 0 c.desc.inLen = true → exec (.forwardSend input) s = .next s) ∧
    (s.windowWaits c 0 c.desc.inLen = false → c.windowIn = true → s.windowInput c 0 c.desc.inLen = none →
      exec (.forwardSend input) s = .next ({ s with hq := { s.hq with staged := rest } }.endStaged c stAborted 2)) ∧
    (∀ (sent : List Byte) (u : State), s.windowWaits c 0 c.desc.inLen = false →
      (if c.windowIn then s.windowInput c 0 c.desc.inLen else some (fitBytes c.desc.inLen input, s)) = some (sent, u) →
      ∃ t, exec (.forwardSend input) s = .next t ∧
        t.hq = { u.hq with staged := rest, fwdOut := u.hq.fwdOut ++ [{ cmd := c, link := k, tag := u.dm.nextTag }] } ∧
        t.get R.FVL0_FWD_OUT = (u.get R.FVL0_FWD_OUT + 1) % 2 ^ 32 ∧ (t.link k).capacity = (u.link k).capacity - 1 ∧ t.dm.nextTag = u.dm.nextTag + 1 ∧
        told (if u.linkUp k then some k else none) (fun k => .forward k u.dm.nextTag c.part c.desc (if c.desc.inInline then [] else sent)) u t)) ∧
  (∀ (k : Fin 8) (tag : Nat) (part : Fin 1024) (desc : List Byte) (s : State), let bs := fitBytes 64 desc
    let c : Cmd := { part, desc := readV2 bs, peer := some (k.val, tag), fetched := some s.quartz }
    k.val = 6 ∨ k.val = 7 → s.linkUp k = true → 0 < s.stagingRoom →
    (s.count R.FVL0_FWD_IN).refuseDescriptor part (badV2 bs) c.desc = none → (s.part part).pstate = .active →
    ∃ t, exec (.forwardRequest k tag part desc) s = .next t ∧ t.hq = { s.hq with staged := s.hq.staged ++ [c], msixPend := t.hq.msixPend } ∧
      t.get R.FVL0_FWD_IN = (s.get R.FVL0_FWD_IN + 1) % 2 ^ 32 ∧ sentMsix s t ∧ keeps [R.FVL0_FWD_IN, R.BLK_INT_RAW pgHQE] s t ∧
      (s.hq.staged.length < 65535 → t.out = s.out ∧ keeps [R.FVL0_FWD_IN] s t)) ∧
  (∀ (k : Fin 8) (tag : Nat) (a : PeerEnd) (output : List Byte) (ok : Bool) (x : FwdCmd) (s : State),
    (s.hq.fwdOut.find? fun x => x.link == k.val && x.tag == tag) = some x → x.cmd.marked = false → ranNothing a = true →
    ∃ t, exec (.forwardResponse k tag a output ok) s = .next t ∧ t.hq.staged = { x.cmd with rerun := true } :: s.hq.staged ∧
      t.hq.fwdOut = s.hq.fwdOut.filter (fun y => !(y.link == k.val && y.tag == tag)) ∧
      t.get R.FVL0_FWD_RERUN = satAdd 32 (s.get R.FVL0_FWD_RERUN) 1 ∧ t.out = s.out) ∧
  (∀ (k : Fin 8) (tag : Nat) (a : PeerEnd) (output : List Byte) (ok : Bool) (x : FwdCmd) (s : State),
    (s.hq.fwdOut.find? fun x => x.link == k.val && x.tag == tag) = some x → writtenStatus a = true →
    ranNothing a = false ∨ x.cmd.marked = true →
    let v : State := { s with hq := { s.hq with fwdOut := s.hq.fwdOut.filter fun y => !(y.link == k.val && y.tag == tag) } }
    let e : Ending := { status := a.status, detail := a.detail.toNat, resultLen := a.resultLen, result := a.result, cluster := a.cluster,
                        serviceNs := a.serviceNs + a.linkNs }
    let written : Bool := !x.cmd.desc.outInline && !output.isEmpty && !refusing a.status
    ∃ u : State, u.hq.fwdOut = v.hq.fwdOut ∧ u.hq.staged = s.hq.staged ∧
      (written = false → exec (.forwardResponse k tag a output ok) s = .next (u.finish ok x.cmd e)) ∧
      (written = true → x.cmd.desc.windowOut = false → exec (.forwardResponse k tag a output ok) s = .next (u.finish ok x.cmd e) ∧
        ∀ f, s.qpFunc x.cmd.part x.cmd.qp = some f → .hostWrite f x.cmd.desc.outAddr (output.take x.cmd.desc.outLen) ∈ u.out) ∧
      (written = true → x.cmd.desc.windowOut = true →
        (s.windowFits x.cmd.part x.cmd.desc.outAddr x.cmd.desc.outLen = false →
          exec (.forwardResponse k tag a output ok) s = .next (u.finish ok x.cmd { e with status := stAborted, detail := 3 })) ∧
        (s.windowFits x.cmd.part x.cmd.desc.outAddr x.cmd.desc.outLen = true →
          let bad := (v.dmaWrite (v.dmaMpu x.cmd) x.cmd.part (v.windowAddr x.cmd.part x.cmd.desc.outAddr) (output.take x.cmd.desc.outLen)).2
          exec (.forwardResponse k tag a output ok) s =
            .next (u.finish ok x.cmd (if bad then { e with status := stAborted, detail := 2 } else e))))) ∧
  (∀ (k : Fin 8) (tag : Nat) (a : PeerEnd) (output : List Byte) (ok : Bool) (s : State),
    (s.hq.fwdOut.find? fun x => x.link == k.val && x.tag == tag) = none ∨ writtenStatus a = false → exec (.forwardResponse k tag a output ok) s = .next s) ∧
  (∀ (input : List Byte) (s : State), s.forwardLink = none ∨ s.pickForward [] s.hq.staged = none → exec (.forwardSend input) s = .next s) ∧
  (∀ (k : Fin 8) (tag : Nat) (part : Fin 1024) (desc : List Byte) (s : State), k.val < 6 ∨ s.linkUp k = false ∨ s.stagingRoom = 0 →
    exec (.forwardRequest k tag part desc) s = .next s) ∧
  (∀ (k : Fin 8) (origin : Fin 4096) (seq : Nat) (part : Fin 1024) (handle : Word) (line : KeyLine) (s : State),
    s.enrolled = false ∨ 6 ≤ k.val ∨ s.linkUp k = false ∨ seq ≤ Sparse.get 0 s.dm.seen origin ∨ handleScope handle.toNat ≠ 1 ∨
      origin.val = s.get R.FVL0_MEMBER_NO →
    exec (.replMessage k origin seq part handle line) s = .next s) ∧
  (∀ (k : Fin 8) (delay : BitVec 24) (members : List (Fin 4096 × Bool)) (parent : Option Nat) (depth : BitVec 8) (s : State),
    s.enrolled = false ∨ 6 ≤ k.val ∨ s.linkUp k = false → exec (.delayExchange k delay members parent depth) s = .next s) ∧
  (∀ (part : Fin 1024) (s : State), s.hasUnit 3 = false → exec (.epochBoundary part) s = .next s) ∧
  (∀ s : State, s.dm.lostAt = none ∨ s.dtErr ≤ 1000 → exec .dtStale s = .next s) ∧
  (∀ s : State, s.dm.catchup = false → exec .enrolmentCatchupDone s = .next s)

/-! ## Start-up, resets and the test port -/

/-- Start-up and resets. Blocks become ready once what they wait for stands; the module leaves BOOT when all are; a reset keeps Obsidian, the fuses and
the flash, counts itself and starts BOOT; the watchdog runs from its last kick; SMBus gives the status byte; the test port holds the core die for
the EXTEST group where it is available and treats anything else as BYPASS.
Where it goes beyond the spec's words it rests on logs 105, 114, 116, 119, 120 and 121. -/
def Obligations.ModuleStartsResetsAndAnswers : Prop :=
  (∀ (b : Fin 20) (s : State), s.inReset = false → s.get R.RST_BOOT_STAGE ≠ 0 → s.mode = .boot → s.pw.phase = .awake → s.bit R.RST_BLK_READY b = false →
    s.mayBeReady b = true → ∃ t, exec (.blockReady b) s = .next t ∧ t.mode = .boot ∧
      ∀ j < 20, t.bit R.RST_BLK_READY j = (s.bit R.RST_BLK_READY j || j == b.val)) ∧
  (∀ (b : Fin 20) (s : State), s.inReset = false → s.pw.phase = .waking → s.bit R.RST_BLK_READY b = false → s.mayBeReady b = true →
    (∀ j < 20, j ≠ b.val → s.bit R.RST_BLK_READY j = true) → s.mode ≠ .boot → s.levelSettled = true →
    ∃ t, exec (.blockReady b) s = .next t ∧ t.pw.phase = .awake ∧ t.get R.PWR_SLEEP = 0 ∧ t.bit (R.BLK_INT_RAW pgPWR) 3 = true ∧
      t.bt.wdogDue = some (s.quartz + s.wdogNs)) ∧
  (∀ (b : Fin 20) (s : State), s.inReset = false → s.pw.phase = .waking → s.bit R.RST_BLK_READY b = false → s.mayBeReady b = true → s.mode ≠ .boot →
    s.levelSettled = false → ∃ t, exec (.blockReady b) s = .next t ∧ t.pw.phase = .waking ∧ t.bit R.RST_BLK_READY b = true) ∧
  (∀ s : State, s.inReset = false → s.mode = .boot → s.get R.RST_BOOT_STAGE ≠ 6 → s.get R.RST_BLK_READY = 0xFFFFF → s.lcState ≠ 0xF → s.lcState ≠ 7 →
    s.ob.pendT1 = false → s.ob.latch ≠ 1 →
    ∃ t, exec .bootEnd s = .next t ∧ t.get R.RST_BOOT_STAGE = 6 ∧ t.bit (R.BLK_INT_RAW pgRST) 0 = true ∧ t.bt.wdogDue = some (s.quartz + s.wdogNs) ∧
      (if s.get R.RST_BOOT_ERR = 1 ∨ 3 ≤ s.ob.latch then t.mode = .responded
       else if s.get R.PAIR_PAIR_EN = 1 then
         (if s.pr.claimIn then t.mode = .shadow ∧ t.get R.PAIR_ROLE = 2 else t.get R.PAIR_ROLE = 3 ∧ t.pr.claimOut = true ∧ t.pr.claimAt = s.quartz)
       else t.mode = s.servingMode)) ∧
  (∀ s : State, s.inReset = false →
    ∃ t, exec .perstAssert s = .next t ∧ t.inReset = true ∧ t.bt.cause = 2 ∧ t.bt.resetCnt = min 65535 (s.bt.resetCnt + 1) ∧ t.regs = [] ∧ t.ge = {} ∧
      t.hq = {} ∧ t.sq = {} ∧ t.hb = {} ∧ t.ob = s.ob.coreReset ∧ t.mode = .boot ∧ t.quartz = s.quartz ∧ (s.get R.GATE_STATE ≠ 5 → t.gt.flash = s.gt.flash)) ∧
  (∀ s : State, s.inReset = true → exec .perstAssert s = .next { s with bt.perst := true }) ∧
  (∀ s : State, s.bt.perst = true → s.bt.vddLow = false → s.bt.vigil = false → s.bt.extest = false →
    ∃ t, exec .perstRelease s = .next t ∧ t.inReset = false ∧ t.get R.RST_BOOT_STAGE = 1 ∧ t.bt.released = s.quartz ∧
      (s.lcState = 0xF → t.get R.RST_BOOT_ERR = 2) ∧ (s.lcState = 7 → t.get R.RST_BOOT_ERR = 3) ∧ ∀ n < 16, ∀ u < 6, (t.unitSvc n u).katBusy = true) ∧
  (∀ (v : Word) (s : State), s.inReset = false →
    (v.toNat / 65536 = 0x4B52 → v.getLsbD 0 = true → s.lc.target = none → exec (.modReset v) s = .next (s.resetModule 5)) ∧
    (v.toNat / 65536 ≠ 0x4B52 ∨ v.getLsbD 0 = false → exec (.modReset v) s = .next s)) ∧
  (∀ (t0 : Nat) (s : State), s.inReset = false → s.bt.wdogDue = some t0 → t0 ≤ s.quartz →
    exec .watchdogExpire s = .next (s.resetModule 6) ∧ (s.resetModule 6).bt.wdogCnt = min 65535 (s.bt.wdogCnt + 1)) ∧
  (∀ (cause : Nat) (s : State), s.inReset = false → cause ≠ 1 →
    (s.resetModule cause).get R.RST_BOOT_STAGE = 1 ∧ (s.resetModule cause).bt.cause = cause ∧ (s.resetModule cause).mode = .boot ∧
    (s.resetModule cause).bt.resetCnt = min 65535 (s.bt.resetCnt + 1) ∧ (s.resetModule cause).ge = {} ∧ (s.resetModule cause).hq = {}) ∧
  (∀ (t0 : Nat) (s : State), s.responds pgRST = true → s.bt.wdogDue = some t0 →
    exec .wdogKick s = .next { s with bt.wdogDue := some (s.quartz + 1000000 * max 10 (min 4000 (s.get R.RST_WDOG_MS))) }) ∧
  (∀ s : State, s.ob.onMain = true ∨ s.ob.aux = true →
    exec .smbusReceiveByte s = .next (s.emit (.smbusByte (s.mode.code + 8 * b2n (s.get R.RST_BOOT_ERR ≠ 0) + 16 * b2n (s.ob.latch == 1) +
      32 * b2n (s.lcState == 0xF || s.lcState == 7) + 64 * b2n (s.get R.PAIR_ROLE == 1)))) ∧
    (s.mode = .boot → exec .smbusTransaction s = .next (s.emit .smbusNack)) ∧
    (s.mode ≠ .boot → ∃ t v, exec .smbusTransaction s = .next t ∧ t.out = s.out ++ [.smbusByte v] ∧ t = { s with out := t.out, frees := t.frees })) ∧
  (∀ (op : BitVec 8) (s : State), s.bt.vigil = false →
    (s.bt.extest = false → op ≠ 0x01#8 → s.tapAllows op.toNat = false → exec (.tapInstructionLoad op) s = .next { s with bt.tap := 0xFF }) ∧
    (s.bt.extest = false → exec (.tapInstructionLoad 0x01#8) s = .next ({ s with bt.tap := 1 }.emit (.idcode idcode))) ∧
    (s.bt.extest = false → op ∈ [0x00#8, 0x03#8, 0x04#8, 0x05#8, 0x06#8] → s.tapAllows op.toNat = true →
      ∃ t, exec (.tapInstructionLoad op) s = .next t ∧ t.bt.extest = true ∧ t.inReset = true ∧ t.bt.tap = op.toNat ∧ t.ob = s.ob.coreReset)) ∧
  (∀ s : State, s.bt.vigil = false →
    ∃ t, exec .tapReset s = .next t ∧ t.bt.tap = 1 ∧ t.bt.extest = false ∧
      (s.bt.extest = true → s.bt.perst = false → s.bt.vddLow = false → t.get R.RST_BOOT_STAGE = 1 ∧ t.lc.testOpen = false) ∧
      (s.bt.extest = false → t = { s with bt := t.bt })) ∧
  (∀ (op : BitVec 8) (s : State), s.bt.vigil = false →
    (s.bt.extest = false → op = 0x02#8 → s.tapAllows op.toNat = true → exec (.tapInstructionLoad op) s = .next { s with bt := { s.bt with tap := 2 } }) ∧
    (s.bt.extest = true → op ∈ [0x00#8, 0x03#8, 0x04#8, 0x05#8, 0x06#8] →
      exec (.tapInstructionLoad op) s = .next { s with bt := { s.bt with tap := op.toNat } }) ∧
    (s.bt.extest = true → op ∉ [0x00#8, 0x03#8, 0x04#8, 0x05#8, 0x06#8] → s.bt.perst = false → s.bt.vddLow = false →
      ∃ t, exec (.tapInstructionLoad op) s = .next t ∧ t.bt.extest = false ∧ t.get R.RST_BOOT_STAGE = 1 ∧ t.lc.testOpen = false)) ∧
  (∀ (op : BitVec 8) (s : State), s.bt.vigil = true → exec (.tapInstructionLoad op) s = .next s ∧ exec .tapReset s = .next s) ∧
  (∀ (b : Fin 20) (s : State), s.inReset = true ∨ s.bit R.RST_BLK_READY b = true ∨ s.mayBeReady b = false → exec (.blockReady b) s = .next s) ∧
  (∀ s : State, s.inReset = true ∨ s.mode ≠ .boot ∨ s.get R.RST_BLK_READY ≠ 0xFFFFF ∨ s.lcState = 0xF ∨ s.lcState = 7 → exec .bootEnd s = .next s) ∧
  (∀ s : State, s.bt.perst = false → exec .perstRelease s = .next s) ∧
  (∀ (v : Word) (s : State), s.inReset = true ∨ s.lc.target ≠ none → exec (.modReset v) s = .next s) ∧
  (∀ s : State, s.bt.wdogDue = none → exec .watchdogExpire s = .next s ∧ exec .wdogKick s = .next s) ∧
  (∀ s : State, s.ob.onMain = false → s.ob.aux = false → exec .smbusReceiveByte s = .next s ∧ exec .smbusTransaction s = .next s)

/-! ## The scheduler, Quartz and Agate -/

/-- The scheduler. Each operation acts from the states Table 17.1 allows and is refused and counted from any other; a thread that becomes READY joins
the tail of its list on the least loaded core it may run on; NEXT takes the head of the highest list; the tick moves every thread that is due; a
held core's threads move and a held idle core restarts.
Where it goes beyond the spec's words it rests on logs 72, 74 and 204. -/
def Obligations.SchedulerRunsItsThreads : Prop :=
  (∀ (slot : Fin 512) (s : State), s.responds pgSCHED = true → (s.thread slot).st = .free →
    ∃ t, exec (.create slot) s = .next t ∧ (∀ u, u ≠ slot.val → t.thread u = s.thread u) ∧
      t.thread slot = { st := .blocked, prio := s.get R.SCHED_CFG_PRIO, aff := s.get R.SCHED_CFG_AFF, tag := s.get R.SCHED_CFG_TAG }) ∧
  (∀ (slot : Fin 512) (ticks : Fin 1048576) (prio : Fin 32) (s : State), s.responds pgSCHED = true →
    ((s.thread slot).st ≠ .free → exec (.create slot) s = .next s.refuseOp) ∧
    ((s.thread slot).st = .free → exec (.ready slot) s = .next s.refuseOp ∧ exec (.delay slot ticks) s = .next s.refuseOp ∧
      exec (.block slot) s = .next s.refuseOp ∧ exec (.free slot) s = .next s.refuseOp ∧ exec (.setprio slot prio) s = .next s.refuseOp) ∧
    ((s.thread slot).st = .ready → exec (.ready slot) s = .next s.refuseOp ∧ exec (.delay slot ticks) s = .next s.refuseOp) ∧
    ((s.thread slot).st = .blocked → exec (.block slot) s = .next s.refuseOp) ∧
    ((s.thread slot).st = .delayed → exec (.delay slot ticks) s = .next s.refuseOp) ∧ exec (.delay slot 0) s = .next s.refuseOp) ∧
  (∀ s : State, s.refuseOp.get R.SCHED_OP_REFUSED = satAdd 16 (s.get R.SCHED_OP_REFUSED) 1 ∧ raised pgSCHED [0] s s.refuseOp ∧
    onlyFields [R.SCHED_OP_REFUSED, R.BLK_INT_RAW pgSCHED] s s.refuseOp) ∧
  (∀ (slot : Fin 512) (s : State), s.responds pgSCHED = true →
    (s.thread slot).st = .blocked ∨ (s.thread slot).st = .delayed ∨ (s.thread slot).st = .running →
    let c := ((s.unlist slot).updThread slot fun x => { x with st := .blocked }).placeOn slot
    ∃ t, exec (.ready slot) s = .next t ∧ t.thread slot = { s.thread slot with st := .ready, list := c, readyAt := s.quartz } ∧
      (∀ u, u ≠ slot.val → t.thread u = s.thread u) ∧
      t.readyList c (s.thread slot).prio = (s.readyList c (s.thread slot).prio).filter (· ≠ slot.val) ++ [slot.val] ∧
      ∀ d, slot.val ∉ Sparse.get [] t.sc.delayed d) ∧
  (∀ (u : Nat) (s : State),
    (s.candidates u = [] → s.placeOn u = (s.thread u).core) ∧
    (s.candidates u ≠ [] → s.placeOn u ∈ s.candidates u ∧
      ∀ d ∈ s.candidates u, s.coreLoad (s.placeOn u) (s.thread u).prio ≤ s.coreLoad d (s.thread u).prio)) ∧
  (∀ (slot : Fin 512) (ticks : Fin 1048576) (s : State), s.responds pgSCHED = true → ticks.val ≠ 0 →
    (s.thread slot).st = .running ∨ (s.thread slot).st = .blocked →
    ∃ t, exec (.delay slot ticks) s = .next t ∧ t.thread slot = { s.thread slot with st := .delayed, wake := s.sc.ticks + ticks } ∧
      slot.val ∈ Sparse.get [] t.sc.delayed (s.thread slot).core ∧ ∀ u, u ≠ slot.val → t.thread u = s.thread u) ∧
  (∀ (slot : Fin 512) (s : State), s.responds pgSCHED = true →
    (s.thread slot).st = .running ∨ (s.thread slot).st = .ready ∨ (s.thread slot).st = .delayed →
    ∃ t, exec (.block slot) s = .next t ∧ t.thread slot = { s.thread slot with st := .blocked } ∧ (∀ u, u ≠ slot.val → t.thread u = s.thread u) ∧
      (∀ c p, slot.val ∉ t.readyList c p) ∧ ∀ d, slot.val ∉ Sparse.get [] t.sc.delayed d) ∧
  (∀ (slot : Fin 512) (s : State), s.responds pgSCHED = true → (s.thread slot).st ≠ .free →
    ∃ t, exec (.free slot) s = .next t ∧ t.thread slot = {} ∧ (∀ u, u ≠ slot.val → t.thread u = s.thread u) ∧
      (∀ c p, slot.val ∉ t.readyList c p) ∧ ∀ d, slot.val ∉ Sparse.get [] t.sc.delayed d) ∧
  (∀ (slot : Fin 512) (prio : Fin 32) (s : State), s.responds pgSCHED = true → (s.thread slot).st ≠ .free → (s.thread slot).applet = none →
    ∃ t, exec (.setprio slot prio) s = .next t ∧ t.thread slot = { s.thread slot with prio := prio } ∧ (∀ u, u ≠ slot.val → t.thread u = s.thread u) ∧
      ((s.thread slot).st = .ready →
        t.readyList (s.thread slot).list prio = (s.readyList (s.thread slot).list prio).filter (· ≠ slot.val) ++ [slot.val])) ∧
  (∀ (slot : Fin 512) (prio : Fin 32) (a : Nat) (y : Applet) (s : State), s.responds pgSCHED = true → (s.thread slot).applet = some a →
    s.sc.applets.find? (·.1 == a) = some (a, y) → prio.val < y.prioMin → exec (.setprio slot prio) s = .next s.refuseOp) ∧
  (∀ (core : Fin 8) (s : State), s.responds pgSCHED = true → (∀ p < 32, s.readyList core p = []) →
    ∃ t, exec (.nextRead core) s = .next t ∧ t.out = s.out ++ [.next core none] ∧ t.sc = s.sc) ∧
  (∀ (core : Fin 8) (p u : Nat) (us : List Nat) (s : State), s.responds pgSCHED = true → p < 32 → (∀ q < p, s.readyList core q = []) →
    s.readyList core p = u :: us →
    ∃ t, exec (.nextRead core) s = .next t ∧ t.thread u = { s.thread u with st := .running, core := core } ∧ .next core (some u) ∈ t.out ∧
      t.bit R.SCHED_CORE_UP core = true ∧ (∀ v, v ≠ u → t.thread v = s.thread v) ∧ t.readyList core p = us.filter (· ≠ u)) ∧
  (∀ s : State, s.hasUnit 4 = true → s.sc.tickDue ≤ s.quartz → s.bit R.PWR_DOMAIN_ON_HI 0 = true →
    ∃ t, exec .schedTick s = .next t ∧ s.quartz < t.sc.tickDue ∧ t.sc.ticks = s.sc.ticks + (s.quartz - s.sc.tickDue) / s.tickNs + 1 ∧
      t.get (R.QTZ_FIRED (s.get (R.QTZ_UNIT 4))) = 1 ∧
      (∀ c < 8, ∀ u ∈ Sparse.get [] s.sc.delayed c, (s.thread u).wake ≤ t.sc.ticks → (t.thread u).st = .ready) ∧
      (∀ u, (∀ c < 8, u ∉ Sparse.get [] s.sc.delayed c) → t.thread u = s.thread u)) ∧
  (∀ (v : BitVec 8) (s : State), s.responds pgSCHED = true →
    (v = 0xFF#8 → exec (.hold v) s = .next s) ∧
    (v ≠ 0xFF#8 → ∃ t, exec (.hold v) s = .next t ∧ t.get R.SCHED_HOLD = v.toNat ∧
      ∀ c < 8, s.held c = false → v.getLsbD c = true → ∀ p < 32, ∀ u ∈ s.readyList c p, t.candidates u ≠ [] →
        (t.thread u).list ∈ t.candidates u ∧ (t.thread u).core = (s.thread u).core ∧ (t.thread u).readyAt = (s.thread u).readyAt)) ∧
  (∀ (v : BitVec 8) (s : State), s.responds pgSCHED = true →
    ∃ t, exec (.coreReset v) s = .next t ∧ ∀ c < 8, let r := v.getLsbD c && s.heldIdle c
      t.bit R.SCHED_CORE_UP c = (s.bit R.SCHED_CORE_UP c && !r) ∧
      t.bit R.SCHED_CORE_FW c = (if r then s.get R.SCHED_FW_SEL == 1 else s.bit R.SCHED_CORE_FW c)) ∧
  (∀ s : State, s.hasUnit 4 = false ∨ s.quartz < s.sc.tickDue ∨ s.bit R.PWR_DOMAIN_ON_HI 0 = false → exec .schedTick s = .next s) ∧
  (∀ (slot : Fin 512) (ticks : Fin 1048576) (prio : Fin 32) (core : Fin 8) (v : BitVec 8) (s : State), s.responds pgSCHED = false →
    exec (.create slot) s = .next s ∧ exec (.ready slot) s = .next s ∧ exec (.delay slot ticks) s = .next s ∧ exec (.block slot) s = .next s ∧
    exec (.free slot) s = .next s ∧ exec (.setprio slot prio) s = .next s ∧ exec (.nextRead core) s = .next s ∧ exec (.hold v) s = .next s ∧
    exec (.coreReset v) s = .next s)

/-- Quartz and Agate. A claimed unit belongs to the feature of the higher class and the other loses it; a host timer's unit that reaches its compare
fires once, or moves on by its period, and does not fire again at that time; a window that is due closes into a 64-byte record of the ring and the
next one opens; an overdue one is reported; a clear empties the live sets.
Where it goes beyond the spec's words it rests on logs 69, 70, 71, 77, 78 and 203. -/
def Obligations.UnitsFireAndWindowsClose : Prop :=
  (∀ (f : Fin 16) (v : Word) (s : State), s.responds pgQTZ = true → v.getLsbD 4 = true →
    (∀ g : Fin 16, g ≠ f → s.get (R.QTZ_EN g) = 1 → s.get (R.QTZ_UNIT g) ≠ v.toNat % 16) →
    ∃ t, exec (.featureClaim f v) s = .next t ∧ t.get (R.QTZ_UNIT f) = v.toNat % 16 ∧ t.get (R.QTZ_EN f) = 1 ∧ t.get (R.QTZ_OWNER (v.toNat % 16)) = f.val ∧
      t.get (R.QTZ_HELD (v.toNat % 16)) = 1 ∧ t.get (R.QTZ_HT_TB f) = bitsOf v.toNat 5 1 ∧ t.out = s.out) ∧
  (∀ (f : Fin 16) (v : Word) (s : State), s.responds pgQTZ = true → v.getLsbD 4 = false →
    ∃ t, exec (.featureClaim f v) s = .next t ∧ t.get (R.QTZ_UNIT f) = v.toNat % 16 ∧ t.get (R.QTZ_EN f) = 0 ∧ t.ge = s.ge) ∧
  (∀ (f g : Fin 16) (v : Word) (s : State), s.responds pgQTZ = true → v.getLsbD 4 = true → g ≠ f → s.get (R.QTZ_EN g) = 1 →
    s.get (R.QTZ_UNIT g) = v.toNat % 16 → (∀ h : Fin 16, h ≠ f → h ≠ g → s.get (R.QTZ_EN h) = 1 → s.get (R.QTZ_UNIT h) ≠ v.toNat % 16) →
    let win := if outranks featureClass f g then f else g
    let lose := if outranks featureClass f g then g else f
    ∃ t, exec (.featureClaim f v) s = .next t ∧ t.get (R.QTZ_EN win) = 1 ∧ t.get (R.QTZ_EN lose) = 0 ∧ t.get R.QTZ_WINNER = win.val ∧
      t.get R.QTZ_LOSER = lose.val ∧ t.get (R.QTZ_OWNER (v.toNat % 16)) = win.val ∧ raised pgQTZ [1] s t) ∧
  (∀ (u : Fin 16) (s : State), let f := s.get (R.QTZ_OWNER u)
    let now := if s.get (R.QTZ_HT_TB f) = 1 then s.domainTime else s.quartz
    s.get (R.QTZ_HELD u) = 1 → 8 ≤ f → u.val ∈ s.qz.armed → s.compareOf u ≤ now → Sparse.get 0 s.qz.rest u ≤ s.quartz →
    ∃ t, exec (.compareFire u) s = .next t ∧ t.get (R.QTZ_FIRED u) = 1 ∧ raised pgQTZ [0] s t ∧ exec (.compareFire u) t = .next t ∧
      (s.get (R.QTZ_PERIOD u) = 0 → u.val ∉ t.qz.armed ∧ t.compareOf u = s.compareOf u) ∧
      (s.get (R.QTZ_PERIOD u) ≠ 0 → t.qz.armed = s.qz.armed ∧ t.compareOf u = (s.compareOf u + s.get (R.QTZ_PERIOD u)) % 2 ^ 64)) ∧
  (∀ s : State, s.ag.open_ = true → s.ag.due ≤ s.quartz → s.hasUnit 5 = true → s.get (R.BLK_ENABLE pgAGT) = 1 →
    ∃ t, exec .agateWindowClose s = .next t ∧ t.ag.open_ = true ∧ t.ag.start = s.quartz ∧ t.ag.due = s.quartz + s.windowNs ∧ t.ag.win = [] ∧
      t.ag.pub = t.ag.live ∧ t.ag.partialWin = false ∧ t.get R.AGT_OPEN_SEV = 0 ∧ t.get R.AGT_LAST_RNUM = (s.get R.AGT_LAST_RNUM + 1) % 2 ^ 32 ∧
      t.get (R.QTZ_FIRED (s.get (R.QTZ_UNIT 5))) = 1 ∧ t.bit (R.BLK_INT_RAW pgAGT) 0 = true ∧
      ((∃ i < 4096, Sparse.get [] s.ag.ring i = []) → ∃ i r, i < 4096 ∧ Sparse.get [] s.ag.ring i = [] ∧ Sparse.get [] t.ag.ring i = r ∧ r.length = 64 ∧
        r.take 4 = leBytes 4 (s.get R.AGT_LAST_RNUM + 1) ∧ t.get R.AGT_NEWEST_SLOT = i ∧ ∀ j, j ≠ i → Sparse.get [] t.ag.ring j = Sparse.get [] s.ag.ring j)) ∧
  (∀ s : State, s.ag.open_ = true → s.ag.overdue = false → s.ag.due + 10 * s.windowNs ≤ s.quartz →
    ∃ t, exec .windowOverdue s = .next t ∧ t.ag = { s.ag with overdue := true } ∧ raised pgAGT [3] s t) ∧
  (∀ s : State, s.responds pgAGT = true →
    exec .hclr s = .next { s with ag := { s.ag with live := [], win := [], partialWin := true, residency := s.quartz } }) ∧
  (∀ (u : Fin 16) (s : State), s.get (R.QTZ_HELD u) = 0 ∨ s.get (R.QTZ_OWNER u) < 8 ∨ u.val ∉ s.qz.armed → exec (.compareFire u) s = .next s) ∧
  (∀ s : State, s.ag.open_ = false ∨ s.quartz < s.ag.due ∨ s.hasUnit 5 = false ∨ s.get (R.BLK_ENABLE pgAGT) = 0 → exec .agateWindowClose s = .next s) ∧
  (∀ s : State, s.ag.open_ = false ∨ s.ag.overdue = true → exec .windowOverdue s = .next s) ∧
  (∀ s : State, s.responds pgAGT = false → exec .hclr s = .next s) ∧
  (∀ (f : Fin 16) (v : Word) (s : State), s.responds pgQTZ = false → exec (.featureClaim f v) s = .next s)

/-! ## Card ports, the SD host and service pins -/

/-- The card ports. A card that comes or goes is reported and a removal ends its approval; an approval activates the card class by class, asks
it for its best pair, sends it the commands of the exchange one by one, asks for a PIN where the card wants one, and ends with the RESULT of Table 18.1.
Where it goes beyond the spec's words it rests on logs 109, 110 and 255. -/
def Obligations.CardsApproveStepByStep : Prop :=
  (∀ (p : Fin 2) (s : State), s.inReset = false → s.get (R.PAD_EN p) = 1 →
    (s.get (R.CARD_PRESENT p) = 0 → ∃ t, exec (.cardPresenceChange p true) s = .next t ∧ t.get (R.CARD_PRESENT p) = 1 ∧ raised pgCARD [0] s t ∧ t.cd = s.cd) ∧
    (s.get (R.CARD_PRESENT p) = 1 → ∃ t, exec (.cardPresenceChange p false) s = .next t ∧ t.get (R.CARD_PRESENT p) = 0 ∧ t.get (R.CARD_CLASS p) = 0 ∧
      t.bit (R.BLK_INT_RAW pgCARD) 1 = true ∧ (s.cd.step ≠ .idle → s.cd.port = p.val → t.cd.step = .idle ∧ t.get R.CARD_APPROVE_RESULT = 5))) ∧
  (∀ s : State, s.responds pgCARD = true → s.cd.step = .idle → let p := s.get R.CARD_APPROVE_PORT
    ∃ t, exec .approveGo s = .next t ∧
      (if s.get (R.CARD_PRESENT p) = 0 ∨ s.pw.heldCard = true ∨ s.domainOn 42 = false then t.get R.CARD_APPROVE_RESULT = 5 ∧ t.cd.step = .idle
       else if s.get R.GATE_STATE = 2 ∨ s.get R.GATE_STATE = 3 then
         t.get R.CARD_APPROVE_BUSY = 1 ∧ t.get (R.CARD_CLASS p) = 3 ∧ t.cd.step = .reset ∧ t.cd.port = p
       else t.get R.CARD_APPROVE_RESULT = 1 ∧ t.cd.step = .idle)) ∧
  (∀ (p : Fin 2) (s : State), s.cd.step = .reset → s.cd.port = p.val →
    (2 ≤ s.get (R.CARD_CLASS p) → exec (.atrTimeout p) s = .next (s.set (R.CARD_CLASS p) (s.get (R.CARD_CLASS p) - 1))) ∧
    (s.get (R.CARD_CLASS p) ≤ 1 → ∃ t, exec (.atrTimeout p) s = .next t ∧ t.get R.CARD_APPROVE_RESULT = 5 ∧ t.cd.step = .idle ∧
      t.get (R.CARD_CLASS p) = 0 ∧ t.bit (R.BLK_INT_RAW pgCARD) 3 = true)) ∧
  (∀ (p : Fin 2) (s : State), s.get (R.CARD_CLASS p) ≠ 0 → p.val ∈ s.cd.stops →
    exec (.cardClockStop p) s = .next (s.set (R.CARD_CLK_STOPPED p) 1)) ∧
  (∀ (p : Fin 2) (stops t1 : Bool) (mhz : Fin 32) (fidi : BitVec 8) (s : State), s.cd.step = .reset → s.cd.port = p.val →
    ∃ t, exec (.cardResponse p (.atr true stops t1 mhz fidi)) s = .next t ∧ t.cd.step = .pps ∧ t.get (R.CARD_PROTO_T1 p) = b2n t1 ∧
      t.cd.offer = (fidi.toNat, max 1 (min 20 mhz.val)) ∧ (stops = true → p.val ∈ t.cd.stops) ∧
      t.out = s.out ++ [.cardPps p fidi.toNat (max 1 (min 20 mhz.val))]) ∧
  (∀ (p : Fin 2) (accepted : Bool) (s : State), s.cd.step = .pps → s.cd.port = p.val →
    ∃ t, exec (.cardResponse p (.pps accepted)) s = .next t ∧ t.cd.step = .select ∧
      (accepted = true → t.get (R.CARD_CLK_MHZ p) = s.cd.offer.2 % 32 ∧ t.cd.fidi = s.cd.offer.1) ∧
      (accepted = false → t.get (R.CARD_CLK_MHZ p) = s.get (R.CARD_CLK_MHZ p) ∧ t.cd.fidi = s.cd.fidi) ∧
      t.out = s.out ++ [.cardCommand p [0, 0xA4, 4, 0] [0xF0, 0x4B, 0x4C, 0x43, 0x55, 0x53, 0x54]]) ∧
  (∀ (p : Fin 2) (data : List Byte) (s : State), s.cd.port = p.val → s.cd.step = .select →
    ∃ t, exec (.cardResponse p (.response 0x9000#16 data)) s = .next t ∧ t.cd.step = .info ∧ t.out = s.out ++ [.cardCommand p [0x80, 0xCA, 0, 0] []]) ∧
  (∀ (p : Fin 2) (data : List Byte) (s : State), s.cd.port = p.val → s.cd.step = .info → data.length = 101 →
    ∃ t, exec (.cardResponse p (.response 0x9000#16 data)) s = .next t ∧ t.get R.CARD_CARD_OID = numAt data 0 2 ∧
      t.get R.CARD_CARD_ROLE = byteAt data 2 % 8 ∧
      (if bitOf (byteAt data 3) 0 = false then t.cd.step = .sign
       else if s.get (R.PAD_EN 2) = 1 ∧ s.get (R.PAD_EN 3) = 1 then
         t.cd.step = .keypad ∧ t.cd.due = s.quartz + 1000000000 * max 10 (s.get R.CARD_APPROVE_TIMEOUT_S)
       else t.cd.step = .idle ∧ t.get R.CARD_APPROVE_RESULT = 6)) ∧
  (∀ (pin : List (Fin 10)) (s : State), s.cd.step = .keypad → 4 ≤ pin.length → pin.length ≤ 12 →
    ∃ t, exec (.keypadPinEntry pin) s = .next t ∧ t.cd.step = .verify ∧ t.out = s.out ++ [.cardCommand s.cd.port [0, 0x20, 0, 0x80] (pinBlock2 (pin.map (·.val)))]) ∧
  (∀ s : State, s.cd.step = .keypad → s.cd.due ≤ s.quartz →
    ∃ t, exec .approveTimeout s = .next t ∧ t.get R.CARD_APPROVE_RESULT = 6 ∧ t.cd.step = .idle ∧ t.get R.CARD_APPROVE_BUSY = 0) ∧
  (∀ (p : Fin 2) (data : List Byte) (s : State), s.cd.port = p.val → s.cd.step = .verify →
    ∃ t, exec (.cardResponse p (.response 0x9000#16 data)) s = .next t ∧ t.cd.step = .sign ∧
      t.out = s.out ++ [.cardCommand p [0x80, 0x2A, 0, 0] (sha384 s.cardMessage)]) ∧
  (∀ (p : Fin 2) (st : BitVec 16) (data : List Byte) (s : State), s.cd.port = p.val → s.cd.step ∈ [CardStep.select, .info, .verify, .sign] → st ≠ 0x9000#16 →
    ∃ t, exec (.cardResponse p (.response st data)) s = .next t ∧ t.get R.CARD_APPROVE_RESULT = 5 ∧ t.cd.step = .idle ∧ t.gt = s.gt) ∧
  (∀ (p : Fin 2) (data : List Byte) (s : State), s.cd.port = p.val → s.cd.step = .sign → data.length = 96 →
    (∀ st det, s.cardRefusal data = some (st, det) → ∃ t, exec (.cardResponse p (.response 0x9000#16 data)) s = .next t ∧
      t.get R.CARD_APPROVE_RESULT = 4 ∧ t.cd.step = .idle ∧ t.gt = s.gt ∧ t.get R.GATE_LAST_REFUSE = (if st = stAuthFail then 5 else det) % 2 ^ R.GATE_LAST_REFUSE.width) ∧
    (s.cardRefusal data = none → ∃ u : State, exec (.cardResponse p (.response 0x9000#16 data)) s = .next (u.countApproval s.cardMessage) ∧
      u.get R.CARD_APPROVE_RESULT = (if s.gt.appr1 = none then 2 else 3) ∧ u.cd.step = .idle ∧ u.gt = s.gt)) ∧
  (∀ (p : Fin 2) (c : Bool) (s : State),
    (s.inReset = true ∨ s.get (R.PAD_EN p) = 0 → exec (.cardPresenceChange p c) s = .next s) ∧
    (s.inReset = false → s.get (R.PAD_EN p) = 1 → s.get (R.CARD_PRESENT p) = b2n c → exec (.cardPresenceChange p c) s = .next (s.setPin p c)) ∧
    (s.cd.step ≠ .reset ∨ s.cd.port ≠ p.val → exec (.atrTimeout p) s = .next s) ∧
    (s.get (R.CARD_CLASS p) = 0 ∨ p.val ∉ s.cd.stops → exec (.cardClockStop p) s = .next s)) ∧
  (∀ (p : Fin 2) (stops t1 : Bool) (mhz : Fin 32) (fidi : BitVec 8) (s : State), s.cd.step = .reset → s.cd.port = p.val → 2 ≤ s.get (R.CARD_CLASS p) →
    exec (.cardResponse p (.atr false stops t1 mhz fidi)) s = .next (s.set (R.CARD_CLASS p) (s.get (R.CARD_CLASS p) - 1))) ∧
  (∀ (p : Fin 2) (a : CardAnswer) (s : State), s.cd.port ≠ p.val ∨ s.cd.step = .idle ∨ s.cd.step = .keypad → exec (.cardResponse p a) s = .next s) ∧
  (∀ (pin : List (Fin 10)) (s : State), s.cd.step ≠ .keypad ∨ pin.length < 4 ∨ 12 < pin.length → exec (.keypadPinEntry pin) s = .next s) ∧
  (∀ s : State, s.cd.step ≠ .keypad ∨ s.quartz < s.cd.due → exec .approveTimeout s = .next s) ∧
  (∀ s : State, s.responds pgCARD = false ∨ s.cd.step ≠ .idle → exec .approveGo s = .next s)

/-- The SD host, its journal and the service pins. A medium is brought up in the mode that works and its journal state told, a device without an
RPMB key being given it; a removal fails every append; a block read back as written advances C and completes the append, any other and 250 ms of
busy fail it; a pin belongs to the feature of the higher class.
Where it goes beyond the spec's words it rests on logs 78, 111, 112, 113, 202 and 225. -/
def Obligations.MediumJournalAndPinsBehave : Prop :=
  (∀ (m : Medium) (s : State), s.inReset = false → s.get R.SD_PRESENT = 0 → s.domainOn 41 = true → s.pw.heldSd = false →
    (m.emmc = true ∨ s.get (R.PAD_EN 9) = 1) → s.ob.mmk.isSome = true →
    ∃ t, exec (.sdInsert m) s = .next t ∧ t.get R.SD_PRESENT = 1 ∧ t.get R.SD_EMMC = b2n m.emmc ∧ t.get R.SD_MODE = (bestMode m (s.get R.SD_MAXMODE)).1 % 8 ∧
      t.get R.SD_WIDTH = (if m.emmc then m.width.val else 1) ∧ t.bit (R.BLK_INT_RAW pgSD) 0 = true ∧
      (m.emmc = true → t.get R.SD_JSTATE = (if m.rpmbKey = some false then 3 else 1) ∧ t.jr.rpmb = m.rpmb) ∧
      (∀ mmk, m.emmc = true → m.rpmbKey = none → s.ob.mmk = some mmk → .rpmbKey (rpmbAuthKey mmk) ∈ t.out) ∧
      (m.emmc = false → s.get R.RST_BOOT_STAGE = 6 → t.get R.SD_JSTATE = 1 ∨ t.get R.SD_JSTATE = 2) ∧
      (m.emmc = false → s.get R.RST_BOOT_STAGE ≠ 6 → t.jr.found = some m.block)) ∧
  (∀ (mmk block : List Byte) (s : State), s.ob.mmk = some mmk →
    (validRecord mmk block = true → numAt block 12 8 = s.ob.journal + 1 → (s.checkJournal block).ob.journal = s.ob.journal + 1 ∧
      (s.checkJournal block).get R.SD_JSTATE = 2) ∧
    (validRecord mmk block = false ∨ numAt block 12 8 ≠ s.ob.journal + 1 → (s.checkJournal block).ob = s.ob ∧ (s.checkJournal block).get R.SD_JSTATE = 1)) ∧
  (∀ s : State, s.get R.SD_PRESENT = 1 →
    ∃ t, exec .sdRemove s = .next t ∧ t.get R.SD_PRESENT = 0 ∧ t.get R.SD_MODE = 0 ∧ t.get R.SD_JSTATE = 0 ∧ t.jr.queue = [] ∧
      t.journalCount = s.journalCount ∧ t.bit (R.BLK_INT_RAW pgSD) 1 = true) ∧
  (∀ (a : Append) (as : List Append) (block : List Byte) (ok : Bool) (s : State), s.jr.queue = a :: as → (∀ b ∈ as, a.owner ≠ none → b.owner ≠ a.owner) → s.jr.record ≠ [] → fitBytes s.jr.record.length block = s.jr.record →
    ∃ t, exec (.sdBusyEnd block ok) s = .next t ∧ t.jr.queue = as ∧ t.journalCount = (s.journalCount + 1) % 2 ^ 64 ∧
      (∀ k, a.owner = some k → (s.ctx k).cmd ≠ none → t.ctx k = {})) ∧
  (∀ (a : Append) (as : List Append) (block : List Byte) (ok : Bool) (s : State), s.jr.queue = a :: as → (∀ b ∈ as, a.owner ≠ none → b.owner ≠ a.owner) → s.jr.record ≠ [] → fitBytes s.jr.record.length block ≠ s.jr.record →
    ∃ t, exec (.sdBusyEnd block ok) s = .next t ∧ t.jr.queue = as ∧ t.journalCount = s.journalCount ∧ t.bit (R.BLK_INT_RAW pgSD) 6 = true) ∧
  (∀ (a : Append) (as : List Append) (s : State), s.jr.queue = a :: as → (∀ b ∈ as, a.owner ≠ none → b.owner ≠ a.owner) → s.jr.record ≠ [] → s.jr.since + 250000000 < s.quartz →
    ∃ t, exec .sdBusyTimeout s = .next t ∧ t.jr.queue = as ∧ t.journalCount = s.journalCount ∧ t.bit (R.BLK_INT_RAW pgSD) 6 = true) ∧
  (∀ (f : Fin 13) (v : Word) (s : State), s.responds pgPAD = true → v.getLsbD 4 = true →
    (∀ g : Fin 13, g ≠ f → s.get (R.PAD_EN g) = 1 → s.get (R.PAD_PIN g) ≠ v.toNat % 16) →
    ∃ t, exec (.pinClaim f v) s = .next t ∧ t.get (R.PAD_PIN f) = v.toNat % 16 ∧ t.get (R.PAD_EN f) = 1 ∧
      ∀ g : Fin 13, g ≠ f → t.get (R.PAD_EN g) = s.get (R.PAD_EN g)) ∧
  (∀ (f g : Fin 13) (v : Word) (s : State), s.responds pgPAD = true → v.getLsbD 4 = true → g ≠ f → s.get (R.PAD_EN g) = 1 →
    s.get (R.PAD_PIN g) = v.toNat % 16 → (∀ h : Fin 13, h ≠ f → h ≠ g → s.get (R.PAD_EN h) = 1 → s.get (R.PAD_PIN h) ≠ v.toNat % 16) →
    let win := if outranks pinClass f g then f else g
    let lose := if outranks pinClass f g then g else f
    ∃ t, exec (.pinClaim f v) s = .next t ∧ t.get (R.PAD_EN win) = 1 ∧ t.get (R.PAD_EN lose) = 0 ∧ t.get R.PAD_WINNER = win.val ∧
      t.get R.PAD_LOSER = lose.val ∧ t.bit (R.BLK_INT_RAW pgPAD) 0 = true) ∧
  (∀ (f : Fin 13) (v : Word) (s : State), s.responds pgPAD = true → v.getLsbD 4 = false →
    ∃ t, exec (.pinClaim f v) s = .next t ∧ t.get (R.PAD_EN f) = 0 ∧ t.get (R.PAD_PIN f) = v.toNat % 16 ∧ (f.val < 2 → t.get (R.CARD_PRESENT f) = 0)) ∧
  (∀ (f : Fin 13) (v : Word) (s : State), s.responds pgPAD = false → exec (.pinClaim f v) s = .next s) ∧
  (∀ (m : Medium) (s : State), s.inReset = false → s.get R.SD_PRESENT = 0 → s.domainOn 41 = true → s.pw.heldSd = false →
    (m.emmc = true ∨ s.get (R.PAD_EN 9) = 1) → s.ob.mmk = none →
    ∃ t, exec (.sdInsert m) s = .next t ∧ t.get R.SD_PRESENT = 1 ∧ t.get R.SD_JSTATE = s.get R.SD_JSTATE ∧ t.ob = s.ob ∧ t.jr = s.jr) ∧
  (∀ (m : Medium) (s : State), s.inReset = true ∨ s.get R.SD_PRESENT = 1 ∨ s.domainOn 41 = false ∨ s.pw.heldSd = true → exec (.sdInsert m) s = .next s) ∧
  (∀ s : State, s.get R.SD_PRESENT = 0 → exec .sdRemove s = .next s) ∧
  (∀ (block : List Byte) (ok : Bool) (s : State), s.jr.queue = [] ∨ s.jr.record = [] → exec (.sdBusyEnd block ok) s = .next s) ∧
  (∀ s : State, s.jr.record = [] ∨ s.quartz ≤ s.jr.since + 250000000 → exec .sdBusyTimeout s = .next s)

/-! ## Shipped programs -/

/-- Check value, MACs, PIN and card-verification programs: each, once it may run and its input is as Table 4.8 asks, answers the value of its method
under its keys, or compares it with the one given and ends with AUTH_FAIL where they differ.
Where it goes beyond the spec's words it rests on logs 132, 133, 134, 135, 137, 138, 139 and 140. -/
def Obligations.PaymentProgramsAnswerTheirMethods : Prop :=
  (∀ (c : Ctx) (run : ProgramRun) (r : KeyRecord) (s : State), programReady s c 0x108 run → keyReady s c 0 0 0 r →
    answersResult (.checkValue c run) s c run r.key.kcv) ∧
  (∀ (c : Ctx) (run : ProgramRun) (r : KeyRecord) (s : State), let e := progOf s c run
    let n := e.param 0 5
    let tag := (cmac (b2n (r.key.cls == 1)) r.key.material (e.input 0 e.inLen)).take n
    4 ≤ n → n ≤ 16 → e.paramOnly 0x1F = true → (r.key.cls = 2 ∨ n ≤ 8) →
    (programReady s c 0x200 run → cipherKeyReady s c 0 0 useMacGen r → n ≤ e.x.desc.outLen → answers (.cmacGenerate c run) s c run tag) ∧
    (programReady s c 0x201 run → cipherKeyReady s c 0 0 useMacVerify r → compares (.cmacVerify c run) s c run (tag == e.x.desc.paramExt.take n))) ∧
  (∀ (c : Ctx) (run : ProgramRun) (r : KeyRecord) (s : State), let e := progOf s c run
    let n := e.param 0 5
    let tag := fun m => ((if e.param 8 1 = 1 then hmacSha512 r.key.material m else hmacSha256 r.key.material m).take n)
    4 ≤ n → n ≤ 16 → e.paramOnly 0x11F = true → hashKeyFits r.key = true →
    (programReady s c 0x202 run → keyReady s c 0 3 useMacGen r → n ≤ e.x.desc.outLen → answers (.hmacGenerate c run) s c run (tag (e.input 0 e.inLen))) ∧
    (programReady s c 0x203 run → keyReady s c 0 3 useMacVerify r → 64 ≤ e.inLen →
      compares (.hmacVerify c run) s c run (tag (e.input 64 (e.inLen - 64)) == (e.input 0 64).take n))) ∧
  (∀ (c : Ctx) (run : ProgramRun) (r : KeyRecord) (s : State), let e := progOf s c run
    let n := e.param 0 5
    let tag := (rmac r.key.material (isoPad (if e.param 9 1 = 1 then 2 else 1) 8 true (e.input 0 e.inLen))).take n
    4 ≤ n → n ≤ 8 → e.paramOnly 0x21F = true → r.key.material.length = 16 →
    (programReady s c 0x204 run → cipherKeyReady s c 0 1 useMacGen r → n ≤ e.x.desc.outLen → answers (.retailMacGenerate c run) s c run tag) ∧
    (programReady s c 0x205 run → cipherKeyReady s c 0 1 useMacVerify r → compares (.retailMacVerify c run) s c run (tag == e.x.desc.paramExt.take n))) ∧
  (∀ (c : Ctx) (run : ProgramRun) (r z : KeyRecord) (p pin f : List Byte × Nat) (s : State), let e := progOf s c run
    let pan := e.input 9 10
    programReady s c 0x140 run → cipherKeyReady s c 0 1 usePinTranslate r → cipherKeyReady s c 1 2 usePinTranslate z → 8 ≤ s.queueFill c.cc →
    applied (shippedFmt 4) 3 (e.byte 8) 0 pan [] [] = .ok p →
    applied (shippedFmt 0) 1 (e.byte 8) 0 (fitBytes 16 (dec r.key (e.input 0 8))) pan [] = .ok pin →
    applied (shippedFmt 4) 2 0 pin.2 pin.1 (fitBytes 16 (drawn s c 8)) [] = .ok f →
    answersResult (.pinTranslateF0F4 c run) s c run (enc z.key (xorBytes (enc z.key f.1) p.1))) ∧
  (∀ (c : Ctx) (run : ProgramRun) (r z : KeyRecord) (pin : List Byte × Nat) (v : List Byte) (s : State), let e := progOf s c run
    let f := s.fmtEntry e.x (e.param 0 6)
    let g := s.fmtEntry e.x (e.param 8 6)
    programReady s c 0x141 run → (f.usesPan = true ∨ g.usesPan = true → (panDigits e 16).isSome = true) → 27 ≤ e.inLen → e.paramOnly 0x3F3F = true →
    f.kind = 1 → g.kind = 1 → (f.wide = true ∨ e.zero 8 8 = true) → (if g.wide then 16 else 8) ≤ e.x.desc.outLen → (f.panRule = 0 ∨ g.panRule ≠ 0) →
    cipherKeyReady s c 0 f.keyClass usePinTranslate r → cipherKeyReady s c 1 g.keyClass usePinTranslate z → (g.randomised = true → 16 ≤ s.queueFill c.cc) →
    openedPin f r.key (e.input 0 (if f.wide then 16 else 8)) (e.byte 16) (e.input 17 10) = .ok pin →
    sealedPin g z.key pin (e.byte 16) (e.input 17 10) (pinRandom g s c) = .ok v → answers (.pinTranslate c run) s c run v) ∧
  (∀ (c : Ctx) (run : ProgramRun) (r z : KeyRecord) (pin : List Byte × Nat) (off ds : List Nat) (s : State), let e := progOf s c run
    let f := s.fmtEntry e.x (e.param 0 6)
    let m := e.byte 41
    programReady s c 0x148 run → (f.usesPan = true → (panDigits e 16).isSome = true) → 42 ≤ e.inLen → e.paramOnly 0x3F = true → f.kind = 1 → 4 ≤ m → m ≤ 12 →
    (f.wide = true ∨ e.zero 8 8 = true) → decimalField m (e.input 35 6) = some off → cipherKeyReady s c 0 f.keyClass usePinVerify r →
    cipherKeyReady s c 1 1 usePinVerify z → openedPin f r.key (e.input 0 (if f.wide then 16 else 8)) (e.byte 16) (e.input 17 10) = .ok pin →
    decimalised 16 (enc z.key (e.input 27 8)) = .ok ds →
    compares (.pinVerifyOffset c run) s c run
      (m ≤ pin.2 && ((nibbles pin.1).take pin.2).drop (pin.2 - m) ==
        List.zipWith (fun a b => (a + b) % 10) ((ds.take pin.2).drop (pin.2 - m)) off)) ∧
  (∀ (c : Ctx) (run : ProgramRun) (r z : KeyRecord) (pin : List Byte × Nat) (pan want v : List Nat) (s : State), let e := progOf s c run
    let f := s.fmtEntry e.x (e.param 0 6)
    panDigits e 16 = some pan → e.paramOnly 0x3F = true → f.kind = 1 → (f.wide = true ∨ e.zero 8 8 = true) → e.byte 27 ≤ 9 →
    cipherKeyReady s c 0 f.keyClass usePinVerify r → cipherKeyReady s c 1 1 usePinVerify z → z.key.material.length = 16 →
    openedPin f r.key (e.input 0 (if f.wide then 16 else 8)) (e.byte 16) (e.input 17 10) = .ok pin →
    pvvOf z.key pan (e.byte 27) ((nibbles pin.1).take pin.2) = .ok v →
    (programReady s c 0x149 run → 30 ≤ e.inLen → decimalField 4 (e.input 28 2) = some want → compares (.pinVerifyPvv c run) s c run (v == want)) ∧
    (programReady s c 0x14A run → 28 ≤ e.inLen → 2 ≤ e.x.desc.outLen → answers (.pvvGenerate c run) s c run (packNibbles v))) ∧
  (∀ (c : Ctx) (run : ProgramRun) (r : KeyRecord) (pan expiry service want out : List Nat) (s : State), let e := progOf s c run
    panDigits e 0 = some pan → decimalField 4 (e.input 11 2) = some expiry → decimalField 3 (e.input 13 2) = some service → r.key.material.length = 16 →
    roomForKeys s c → decimalised 17 (cvvBlock r.key.material (pan ++ expiry ++ service)) = .ok out →
    (programReady s c 0x180 run → 17 ≤ e.inLen → decimalField 3 (e.input 15 2) = some want → cipherKeyReady s c 0 1 useMacVerify r →
      compares (.cvvVerify c run) s c run (out.take 3 == want)) ∧
    (programReady s c 0x181 run → 15 ≤ e.inLen → 2 ≤ e.x.desc.outLen → cipherKeyReady s c 0 1 useMacGen r →
      answers (.cvvGenerate c run) s c run (packNibbles (out.take 3 ++ [0xF]))))

/-- EMV, DUKPT and format-preserving programs: the session and working keys come from the derivation tables' entries, and each program verifies, answers
or translates under them; a DUKPT counter near its end gives status 0x80.
Where it goes beyond the spec's words it rests on logs 132, 133, 134, 135, 139 and 141. -/
def Obligations.EmvDuKptAndTokenProgramsAnswer : Prop :=
  (∀ (c : Ctx) (run : ProgramRun) (r : KeyRecord) (s : State), let e := progOf s c run
    let sk := sessionOf r.key (e.input 0 8) (e.input 8 13)
    let method := if e.param 0 1 = 1 then 2 else 1
    let tag := fun (off n : Nat) => mac r.key.cls method sk (e.input off n)
    let right := fun (off n : Nat) => (tag off n).take 8 == e.input 10 8
    let arpc := fun (n : Nat) => (enc { cls := r.key.cls, material := sk } (fitBytes n (xorBytes (e.input 10 8) (fitBytes 8 (e.input 18 2))))).take 8
    roomForKeys s c →
    (programReady s c 0x1A0 run → cipherKeyReady s c 0 0 useDerive r → compares (.arqcVerify c run) s c run (right 24 (e.byte 20))) ∧
    (programReady s c 0x1A1 run → cipherKeyReady s c 0 1 useDerive r →
      (right 24 (e.byte 20) = true → answersResult (.arqcVerifyArpc1Tdes c run) s c run (arpc 8)) ∧
      (right 24 (e.byte 20) = false → endsWith (.arqcVerifyArpc1Tdes c run) s c run stAuthFail 0)) ∧
    (programReady s c 0x1A2 run → cipherKeyReady s c 0 2 useDerive r →
      (right 24 (e.byte 20) = true → answersResult (.arqcVerifyArpc1Aes c run) s c run (arpc 16)) ∧
      (right 24 (e.byte 20) = false → endsWith (.arqcVerifyArpc1Aes c run) s c run stAuthFail 0)) ∧
    (programReady s c 0x1A3 run → cipherKeyReady s c 0 0 useDerive r →
      (right 32 (e.byte 23) = true → answersResult (.arqcVerifyArpc2 c run) s c run
        ((mac r.key.cls method sk (e.input 10 8 ++ e.input 18 4 ++ e.input 24 (e.byte 22))).take 4)) ∧
      (right 32 (e.byte 23) = false → endsWith (.arqcVerifyArpc2 c run) s c run stAuthFail 0))) ∧
  (∀ (c : Ctx) (run : ProgramRun) (r z : KeyRecord) (pin : List Byte × Nat) (v : List Byte) (s : State), let e := progOf s c run
    let f := s.fmtEntry e.x (e.param 0 6)
    let g := s.fmtEntry e.x (e.param 8 6)
    let aes : Bool := e.param 16 1 == 1
    let q := e.ksn aes 16
    let wk : Key := { cls := if aes then 2 else 1, material := workingOf q false (if aes then 0x04 else 0x12) r.key.material }
    programReady s c 0x150 run → (f.usesPan = true ∨ g.usesPan = true → (panDigits e 28).isSome = true) → 39 ≤ e.inLen → e.paramOnly 0x13F3F = true →
    f.kind = 1 → g.kind = 1 → f.wide = aes → e.ksnOk aes 16 = true → (f.wide = true ∨ e.zero 8 8 = true) →
    (if g.wide then 16 else 8) ≤ e.x.desc.outLen → (f.panRule = 0 ∨ g.panRule ≠ 0) → q.valid = true →
    cipherKeyReady s c 0 (if aes then 2 else 1) useDerive r → cipherKeyReady s c 1 g.keyClass usePinTranslate z → roomForKeys s c →
    (g.randomised = true → 16 ≤ s.queueFill c.cc) →
    openedPin f wk (e.input 0 (if f.wide then 16 else 8)) (e.byte 28) (e.input 29 10) = .ok pin →
    sealedPin g z.key pin (e.byte 28) (e.input 29 10) (pinRandom g s c) = .ok v → answers (.pinTranslateFromDukpt c run) s c run v q.status) ∧
  (∀ (c : Ctx) (run : ProgramRun) (r : KeyRecord) (s : State), let e := progOf s c run
    let aes : Bool := e.param 0 1 == 1
    let wide : Bool := e.param 1 1 == 1
    let q := e.ksn aes 0
    let b := if aes then 16 else 8
    let n := e.inLen - 28
    28 ≤ e.inLen → e.paramOnly 3 = true → (aes = true ∨ wide = false) → e.ksnOk aes 0 = true → e.zero (12 + b) (16 - b) = true → q.valid = true →
    cipherKeyReady s c 0 (if aes then 2 else 1) useDerive r → roomForKeys s c →
    (programReady s c 0x1C1 run → n % b = 0 → n ≤ e.x.desc.outLen →
      answers (.dukptDataDecrypt c run) s c run
        (cbcDec (b2n (!aes)) (workingOf q wide (if aes then 7 + 4 * b2n wide else 0x14) r.key.material) (e.input 12 b) (e.input 28 n)).1 q.status) ∧
    (programReady s c 0x1C2 run →
      let v := mac (if aes then 2 else 1) 1 (workingOf q wide (if aes then 6 + 4 * b2n wide else 0x13) r.key.material) (e.input 28 n)
      compares (.dukptMacVerify c run) s c run (v == e.input 12 v.length) q.status)) ∧
  (∀ (c : Ctx) (run : ProgramRun) (r z : KeyRecord) (s : State), let e := progOf s c run
    let aes : Bool := e.param 0 1 == 1
    let wide : Bool := e.param 1 1 == 1
    let q : Ksn := { aes, bytes := if aes then e.input 0 8 ++ zeros 4 else e.input 0 10 }
    let version := chr (if aes then 'D' else 'B')
    let k : Key := { cls := if aes then 2 else 1, material := initialOf q wide r.key.material }
    let n := k.material.length
    programReady s c 0x1C0 run → (if aes then 8 else 10) ≤ e.inLen → e.paramOnly 3 = true → (aes = true ∨ wide = false) →
    cipherKeyReady s c 0 (if aes then 2 else 1) useDerive r → cipherKeyReady s c 1 0 useWrap z → z.key.cls = versionClass version →
    e.strong z.key k = true → roomForKeys s c → blockPad version n ≤ s.queueFill c.cc →
    20 + 2 * (n + blockPad version n) + 2 * macBytes version ≤ min 4096 e.x.desc.outLen →
    answers (.dukptInitialKeyExport c run) s c run
      (blockOf version z.key.material [chr 'B', chr '1'] (classLetter k.cls) (chr 'X') 0 false k.material (drawn s c (blockPad version n)))) ∧
  (∀ (c : Ctx) (run : ProgramRun) (r : KeyRecord) (s : State), let e := progOf s c run
    let radix := e.param 0 17
    let w := if radix ≤ 256 then 1 else 2
    let n := e.num 0 2
    let t := e.byte 2
    let xs := (List.range n).map fun i => e.num (3 + w * i) w
    let f : Ff1 := { key := r.key.material, radix, n, tweak := e.input (3 + w * n) t }
    3 + w * n + t ≤ e.inLen → e.paramOnly 0x1FFFF = true → w * n ≤ e.x.desc.outLen → 2 ≤ radix → radix ≤ 65536 → n ≤ 1024 → 1000000 ≤ radix ^ n →
    (∀ x ∈ xs, x < radix) → t ≤ 64 →
    (programReady s c 0x1E0 run → cipherKeyReady s c 0 2 useTokenise r →
      answers (.ff1Tokenise c run) s c run ((f.apply true xs).flatMap (leBytes w))) ∧
    (programReady s c 0x1E1 run → cipherKeyReady s c 0 2 useDetokenise r →
      answers (.ff1Detokenise c run) s c run ((f.apply false xs).flatMap (leBytes w))))

/-- Key-block programs and public-key wrappers. An import writes what the block gives as a record under KEY1, an export and a translation answer the
block of the key under KEY1; a wrapper answers what its operation answers, ends with AUTH_FAIL where a verification or a decoding fails, or writes
the shared secret as a record.
Where it goes beyond the spec's words it rests on logs 132, 133, 134, 135, 142, 143 and 144. -/
def Obligations.KeyBlockAndWrapperProgramsAnswer : Prop :=
  (∀ (c : Ctx) (run : ProgramRun) (y : KeyRecord) (z : KeySlot) (k : Key) (ignored : Bool) (s : State), let e := progOf s c run
    let cs := e.input 0 (min e.inLen 4097)
    let key : Key := { k with attr := k.attr + 2 ^ 7 * bitsOf z.key.attr 7 7 }
    let h := handleScope e.x.desc.key1 * 2 ^ 28 + e.param 0 28
    programReady s c 0x104 run → e.paramOnly (2 ^ 28 - 1) = true → headerOk e.inLen cs = true → cs.getD 0 0 ∈ [chr 'A', chr 'B', chr 'C', chr 'D'] →
    cipherKeyReady s c 0 0 useUnwrap y → fetched s c 1 0 useWrap z → roomForKeys s c → blockGives s y.key cs k ignored →
    (shippedDer (blockEntry (cs.getD 0 0) y.key.material.length)).fits y.key = true → 128 * recordLines k.material.length ≤ e.x.desc.outLen →
    mayWrite s e.x.part h { key } (some z) false →
    writesRecord (.keyBlockImport c run) s c run h k.material [] [] (if ignored then 0x81 else 0)) ∧
  (∀ (c : Ctx) (run : ProgramRun) (y z : KeyRecord) (u : List Byte) (m : Byte) (s : State), let e := progOf s c run
    let v := BitVec.ofNat 8 (e.param 0 8)
    let pad := drawn s c (blockPad v y.key.material.length)
    programReady s c 0x105 run → e.paramOnly 0x1FFFF = true → (v = chr 'B' ∨ v = chr 'D') → keyReady s c 0 0 0 y → cipherKeyReady s c 1 0 useWrap z →
    usageFor y.key.usage = some (u, m) → y.key.exportable = true → z.key.cls = versionClass v → e.strong z.key y.key = true → roomForKeys s c →
    blockFits s c v y.key.material.length →
    answers (.keyBlockExport c run) s c run (blockOf v z.key.material u (classLetter y.key.cls) m (e.param 8 8) (e.param 16 1 == 1) y.key.material pad)) ∧
  (∀ (c : Ctx) (run : ProgramRun) (y z : KeyRecord) (k : Key) (ignored : Bool) (u : List Byte) (m : Byte) (s : State), let e := progOf s c run
    let cs := e.input 0 (min e.inLen 4097)
    let v := BitVec.ofNat 8 (e.param 0 8)
    let pad := drawn s c (blockPad v k.material.length)
    programReady s c 0x106 run → e.paramOnly 0x1FFFF = true → (v = chr 'B' ∨ v = chr 'D') → headerOk e.inLen cs = true →
    cs.getD 0 0 ∈ [chr 'A', chr 'B', chr 'C', chr 'D'] → cipherKeyReady s c 0 0 useUnwrap y → cipherKeyReady s c 1 0 useWrap z → roomForKeys s c →
    blockGives s y.key cs k ignored → (shippedDer (blockEntry (cs.getD 0 0) y.key.material.length)).fits y.key = true →
    usageFor k.usage = some (u, m) → k.exportable = true → z.key.cls = versionClass v → e.strong z.key k = true → blockFits s c v k.material.length →
    answers (.keyBlockTranslate c run) s c run (blockOf v z.key.material u (classLetter k.cls) m (e.param 8 8) (e.param 16 1 == 1) k.material pad)
      (if ignored then 0x81 else 0)) ∧
  (∀ (i : Instr) (slot mask : Nat) (c : Ctx) (run : ProgramRun) (v : PkWord) (y : KeySlot) (bs : List Byte) (sec : Option (Nat × KType × List Byte))
    (s : State), signWrapper s i = some (slot, mask, c, run, v) → let e := progOf s c run
    programReady s c slot run → e.paramOnly mask = true → fetched s c 0 0 useSign y → wrapperReady s c run v (some y) e.whole →
    pkResultLen v (some y.key) (curveFor s v (some y.key)) e.whole ≤ e.x.desc.outLen → gives (wrapperAnswer s c run v (some y) e.whole) bs sec →
    answers i s c run bs) ∧
  (∀ (i : Instr) (slot mask : Nat) (c : Ctx) (run : ProgramRun) (v : PkWord) (y : Option KeySlot) (bs : List Byte) (sec : Option (Nat × KType × List Byte))
    (s : State), verifyWrapper s i = some (slot, mask, c, run, v) → let e := progOf s c run
    programReady s c slot run → e.paramOnly mask = true → wrapperSlot s c v useVerify y → wrapperReady s c run v y e.whole →
    gives (wrapperAnswer s c run v y e.whole) bs sec → compares i s c run (bs.getD 0 0 == 0)) ∧
  (∀ (c : Ctx) (run : ProgramRun) (y : KeySlot) (bs : List Byte) (sec : Option (Nat × KType × List Byte)) (s : State), let e := progOf s c run
    let v : PkWord := { oper := 0x14, sel := e.param 6 2 }
    let n := leNat (slice 16 2 bs)
    programReady s c 0x246 run → e.paramOnly 0xC0 = true → fetched s c 0 0 2 y → wrapperReady s c run v (some y) e.whole →
    gives (wrapperAnswer s c run v (some y) e.whole) bs sec →
    (bs.getD 0 0 = 0 → n ≤ e.x.desc.outLen → answers (.rsaOaepDecryptWrapper c run) s c run (slice 18 n bs)) ∧
    (bs.getD 0 0 ≠ 0 → endsWith (.rsaOaepDecryptWrapper c run) s c run stAuthFail 0)) ∧
  (∀ (i : Instr) (slot mask : Nat) (c : Ctx) (run : ProgramRun) (v : PkWord) (y : Option KeySlot) (z : KeySlot) (bs : List Byte)
    (sec : Nat × KType × List Byte) (s : State), agreeWrapper s i = some (slot, mask, c, run, v) → let e := progOf s c run
    let crv := curveFor s v (y.map (·.key))
    let h := handleScope e.x.desc.key1 * 2 ^ 28 + e.param 0 28
    programReady s c slot run → e.paramOnly mask = true → wrapperSlot s c v useAgree y → fetched s c 1 0 useWrap z →
    wrapperReady s c run v y e.whole → gives (wrapperAnswer s c run v y e.whole) bs (some sec) →
    pkResultLen v (y.map (·.key)) crv e.whole + 128 * recordLines (match crv with | some c => c.lp | none => 32) ≤ e.x.desc.outLen →
    roomForKey s c sec.2.2.length → mayWrite s e.x.part h (e.secretKey v y useDerive sec) (some z) false →
    writesRecord i s c run h sec.2.2 bs [])

/-- Key-table programs. Generate key writes the record of a key drawn at random or made by a public-key operation; Destroy key lets go of its keys and
waits for the fence; Load records answers a code a record; Read record answers the lines; Attest answers the statement and two signatures; the table
roll opens, rewraps, finishes and is confirmed; the replication log gives its oldest entries once.
Where it goes beyond the spec's words it rests on logs 134, 145, 146, 147 and 148. -/
def Obligations.KeyTableProgramsServeRecords : Prop :=
  (∀ (c : Ctx) (run : ProgramRun) (parent : Option KeySlot) (s : State), let e := progOf s c run
    let cls := e.param 0 4
    let a := e.num 4 4
    let b := e.num 8 4
    let sel := bitsOf a 16 6
    let mlen := bitsOf b 16 13
    programReady s c 0x100 run → e.paramOnly 0xF = true → e.byte 12 < 2 → e.zero 13 3 = true → 16 ≤ e.inLen → parentReady s c parent →
    (1 ≤ cls → cls ≤ 3 → s.materialFits cls .secret sel mlen = true → 128 * recordLines mlen ≤ e.x.desc.outLen → mlen ≤ s.queueFill c.cc →
      roomForKey s c mlen →
      let m := drawn s c mlen
      let key : Key := { ktype := .secret, cls, sel, level := 6, usage := bitsOf a 0 14, attr := withOrigin (bitsOf b 0 14) 0, material := m }
      mayWrite s e.x.part (e.num 0 4) { key := { key with kcv := key.checkValue } } parent (e.byte 12 == 1) →
      writesRecord (.generateKey c run) s c run (e.num 0 4) m [] []) ∧
    (4 ≤ cls → cls ≤ 7 → s.materialFits cls .priv sel mlen = true → ∀ (pub : List Byte) (sec : Nat × KType × List Byte),
      let w := keygenWord cls sel mlen
      wrapperReady s c run w.1 none w.2 → gives (wrapperAnswer s c run w.1 none w.2) pub (some sec) →
      128 * recordLines mlen + pkResultLen w.1 none (curveFor s w.1 none) w.2 ≤ e.x.desc.outLen → roomForKey s c sec.2.2.length →
      mayWrite s e.x.part (e.num 0 4) (e.secretKey w.1 none (bitsOf a 0 14) sec) parent (e.byte 12 == 1) →
      writesRecord (.generateKey c run) s c run (e.num 0 4) sec.2.2 [] pub)) ∧
  (∀ (c : Ctx) (run : ProgramRun) (s : State), let e := progOf s c run
    programReady s c 0x101 run → 128 ≤ e.x.desc.outLen → s.refuseDestroy e.x.part e.x.desc.key0 = none → chainReady s c 0 →
    ∃ t, exec (.destroyKey c run) s = .next t ∧
      t.ctx (ctxKey c) = { s.ctx (ctxKey c) with
        keys := List.replicate 4 none, stream := none, wait := .fence, since := s.quartz, retired := (t.ctx (ctxKey c)).retired } ∧
      (∀ j, j ≠ ctxKey c → t.ctx j = s.ctx j) ∧ t.ge.lines = s.ge.lines ∧
      (s.geodeWalk c.cc e.x.part e.x.desc.key0 = .ok true → t.ge = s.ge)) ∧
  (∀ (c : Ctx) (run : ProgramRun) (rs : List (Nat × List Byte)) (codes : List Nat) (u : State) (s : State), let e := progOf s c run
    programReady s c 0x102 run → splitRecords (e.inLen / 136 + 1) (e.input 0 e.inLen) = .ok rs → rs.length ≤ e.x.desc.outLen →
    (e.loadAll rs).run s = (.ok codes, u) →
    codes.length = rs.length ∧ ∃ work, exec (.loadRecords c run) s =
      .next ((((u.output (ctxKey c) 0 (codes.map (BitVec.ofNat 8))).countProgram (ctxKey c) work).endCommand (ctxKey c)
        (if codes.any (1 < ·) then 0x82 else 0) 0 (if e.x.desc.outInline then min 16 codes.length else 0) run.wrOk).settleSeeds c.cc)) ∧
  (∀ (e : Prog) (h : Nat) (bs : List Byte) (s : State), s.mayName e.x.part h = true →
    (∀ l, (s.readRecord e.x.part h bs) = some l → ∀ r, l.liveRecord = some r → bitOf r.key.attr 3 = true) →
    ∃ u, (e.loadAll [(h, bs)]).run s = (.ok [(s.judgeLoad e.x.part h bs).1], u) ∧
      (∀ l, (s.judgeLoad e.x.part h bs).2 = some l → u.line (lineKey e.x.part h) = l)) ∧
  (∀ (c : Ctx) (run : ProgramRun) (bs : List Byte) (s : State), let e := progOf s c run
    programReady s c 0x103 run → s.recordLinesOf e.x.part e.x.desc.key0 = .ok bs → bs.length ≤ e.x.desc.outLen → chainReady s c 0 →
    answers (.readRecord c run) s c run bs) ∧
  (∀ (c : Ctx) (run : ProgramRun) (y : KeySlot) (p q : Nat) (s : State), let e := progOf s c run
    let text := s.statement e.x (lineKey e.x.part e.x.desc.key0) y.key (e.input 0 32)
    let o := e.attestOp 1 text ((drawn s c 256).take 192)
    let l := e.attestOp 2 text ((drawn s c 256).drop 192)
    let opens := fun (p : Nat) (o : PkOp) => s.pkQueue p o.word.isLattice = [] ∧ s.relocks (16 + p) = false ∧ s.pkUnitFor p o ≠ none
    programReady s c 0x107 run → 32 ≤ e.inLen → 3557 ≤ e.x.desc.outLen → fetched s c 0 0 0 y → y.key.origin = 0 → y.key.exportable = false → s.lcState ≠ 6 →
    s.pickPk false [] = some p → opens p (e.attestOp 1 [] []) → s.pickPk true (if (s.pickPk true [p]).isSome then [p] else []) = some q →
    opens q (e.attestOp 2 [] []) → 256 ≤ s.queueFill c.cc →
    ∀ (a b : List Byte) (sa sb : Option (Nat × KType × List Byte)), gives (s.pkAnswer (o.enter s.lc.devKeys) true) a sa →
      gives (s.pkAnswer (l.enter s.lc.devKeys) true) b sb →
      answers (.attestKey c run) s c run (text ++ fitBytes 96 a ++ fitBytes 3309 b)) ∧
  (∀ (c : Ctx) (run : ProgramRun) (s : State), let e := progOf s c run
    let k := ctxKey c
    let p := e.x.part
    let x := s.part p
    let ends := fun (i : Instr) (y : Part) => ∃ (v : State) (work : Option (Nat × Nat)),
      exec i s = .next (((v.countProgram k work).endCommand k 0 0 0 run.wrOk).settleSeeds c.cc) ∧ v.part p = y ∧ (∀ j, j ≠ p → v.part j = s.part j) ∧ v.ge = s.ge
    programReady s c 0x10A run → e.paramOnly 3 = true →
    (e.param 0 2 = 0 → ends (.tableRollBegin c run) { x with rollBusy := true }) ∧
    (e.param 0 2 = 2 → (s.ge.lines.any fun l => l.2.live && linePart l.1 == p && (l.2.record.map (·.tepoch)) != some ((x.tepoch + 1) % 2 ^ 32)) = false →
      ends (.tableRollFinish c run) { x with tepoch := (x.tepoch + 1) % 2 ^ 32, prevOk := true, rollBusy := false }) ∧
    (e.param 0 2 = 3 → ends (.tableRollConfirm c run) { x with prevOk := false }) ∧
    (let n := e.num 4 4
     let ls := s.liveIn p (e.num 0 4) n
     e.param 0 2 = 1 → 8 ≤ e.inLen → 1 ≤ n → n ≤ 32768 → x.rollBusy = true →
     128 * ((ls.map fun l => (l.2.record.map fun r => recordLines r.key.material.length).getD 1).sum) ≤ e.x.desc.outLen →
     ∃ (v : State) (work : Option (Nat × Nat)) (bs : List Byte),
       exec (.tableRollRewrap c run) s = .next ((((v.output k 0 bs).countProgram k work).endCommand k 0 0
         (if e.x.desc.outInline then min 16 bs.length else 0) run.wrOk).settleSeeds c.cc) ∧ v.part p = x ∧
       (∀ j l, ls = [(j, l)] → v.line j = l.rewrapped ((x.tepoch + 1) % 2 ^ 32) ∧ bs = v.lineBytes j (v.line j)) ∧ (ls = [] → v.ge = s.ge ∧ bs = []))) ∧
  (∀ (c : Ctx) (run : ProgramRun) (s : State), let e := progOf s c run
    let k := ctxKey c
    let x := s.part e.x.part
    let n := e.x.desc.outLen / 8
    let bs := (x.replLog.take n).flatMap fun l => leBytes 4 l.1 ++ leBytes 3 l.2 ++ [0]
    programReady s c 0x10B run →
    ∃ (v : State) (work : Option (Nat × Nat)), v.part e.x.part = { x with replLog := x.replLog.drop n, replLost := false } ∧
      (∀ j, j ≠ e.x.part → v.part j = s.part j) ∧ v.out = s.out ∧
      exec (.readReplicationLog c run) s = .next ((((v.output k 0 bs).countProgram k work).endCommand k (if x.replLost then 0x85 else 0) 0
        (if e.x.desc.outInline then min 16 bs.length else 0) run.wrOk).settleSeeds c.cc))

/-- Administration programs 0x010 to 0x01F: an object or change passes its checks and is staged; an approval begins its verification; the change record,
the debug challenge and the journal are read; sleep, firmware restore and debug follow their completion; the domain is created, joined and left, and
epochs are scheduled and cancelled.
Where it goes beyond the spec's words it rests on logs 134, 149, 150, 151, 152, 153, 154, 155, 156, 157 and 201. -/
def Obligations.AdministrationProgramsServe : Prop :=
  (∀ (c : Ctx) (run : ProgramRun) (s : State), let e := progOf s c run
    let k := ctxKey c
    let bs := e.input 0 e.inLen
    let ends := fun (i : Instr) (t : State) => exec i s = .next (((t.countProgram k none).endCommand k 0 0 0 run.wrOk).settleSeeds c.cc)
    let stages := fun (i : Instr) (x : Change) =>
      ((s.stage x).2 = true → ends i (s.stage x).1) ∧
      ((s.stage x).2 = false → exec i s = .next ((((s.stage x).1.countProgram k none).endCommand k stFormatError 0xC061 0 run.wrOk).settleSeeds c.cc))
    (programReady s c 0x10 run → 1024 ≤ e.param 0 12 → e.paramOnly 0xFFF = true →
      (bs = [] ∨ (256 ≤ bs.length ∧ bs.length = imageLength bs ∧ (readImage (e.param 0 12) bs).isSome = true)) →
      stages (.stageProgramImage c run) (.image .program (e.param 0 12) bs)) ∧
    (programReady s c 0x11 run → 32 ≤ e.param 0 6 → e.paramOnly 0x3F = true → (bs = [] ∨ (bs.length = 64 ∧ fmtCheck bs = none)) →
      stages (.stageFormatEntry c run) (.image .format (e.param 0 6) bs)) ∧
    (programReady s c 0x12 run → 64 ≤ e.param 0 7 → e.paramOnly 0x7F = true → (bs = [] ∨ (bs.length = 128 ∧ derCheck bs = none)) →
      stages (.stageDerivationEntry c run) (.image .derivation (e.param 0 7) bs)) ∧
    (programReady s c 0x13 run → 16 ≤ e.param 0 6 → e.paramOnly 0x3F = true →
      (bs = [] → stages (.stageCurveEntry c run) (.image .curve (e.param 0 6) [])) ∧
      (bs.length = 512 → ∀ p u, (List.range 8).find? (fun p => s.bit R.GBL_PK_INSERVICE p) = some p →
        (List.range 8).find? (fun u => s.pkOpen p u && (s.pkUnit p u).ops.isEmpty) = some u →
        let r := s.draw (72 * 144)
        (curveCheck bs r.1 = none → ((r.2.stage (.image .curve (e.param 0 6) bs)).2 = true →
          ends (.stageCurveEntry c run) (r.2.stage (.image .curve (e.param 0 6) bs)).1)) ∧
        (∀ n, curveCheck bs r.1 = some n → ∃ v : State, Sparse.get 0 v.pk.lastCheck (e.param 0 6) = n ∧ v.gt = s.gt ∧
          exec (.stageCurveEntry c run) s = .next (((v.countProgram k none).endCommand k stCurveRejected n 0 run.wrOk).settleSeeds c.cc)))) ∧
    (programReady s c 0x1E run → e.paramOnly 7 = true →
      (bs = [] ∨ ∃ h, readApplet bs = some h ∧ h.aslot = e.param 0 3 ∧ (s.part h.tag).created = true) →
      stages (.stageServiceApplet c run) (.image .applet (e.param 0 3) bs)) ∧
    (programReady s c 0x16 run → e.inLen = 36 → e.zero 1 3 = true → s.lcRefusal false (e.byte 0) (e.input 4 32) = none →
      stages (.stageLifeCycleCommand c run) (.lifeCycle (e.byte 0) (e.input 4 32))) ∧
    (programReady s c 0x1C run → e.paramOnly 1 = true → s.ob.latch = 3 → s.get R.GATE_STATE = 0 →
      (e.param 0 1 = 1 → s.get R.PAIR_PAIR_EN = 1 ∧ s.partnerByte 8 % 4 = 1 ∧ s.pr.healthIn = true) →
      stages (.reProvision c run) (.reProvision (e.param 0 1 == 1)))) ∧
  (∀ (c : Ctx) (run : ProgramRun) (s : State), let e := progOf s c run
    let k := ctxKey c
    let msg := e.input 0 56
    let rest := e.input 56 (e.inLen - 56)
    let n := (approvalLens (((s.approver msg).map (·.ktype)).getD 1)).1
    programReady s c 0x14 run → 56 ≤ e.inLen →
    (s.approvalNames msg = true → s.approvalKeyed msg rest = true → ∃ t, exec (.approveChange c run) s = .next t ∧
      t.ctx k = { s.ctx k with wait := .pkx, since := s.quartz, retired := (t.ctx k).retired } ∧ (∀ j, j ≠ k → t.ctx j = s.ctx j) ∧
      t.gt = { s.gt with verifying := s.gt.verifying ++ [{ ctx := k, msg, key := rest.take n, sig := rest.drop n }] }) ∧
    (s.approvalNames msg = false →
      exec (.approveChange c run) s = .next ((((s.refuseApproval 0xC080).countProgram k none).endCommand k stFormatError 0xC080 0 run.wrOk).settleSeeds c.cc)) ∧
    (s.approvalNames msg = true → s.approvalKeyed msg rest = false →
      exec (.approveChange c run) s = .next ((((s.refuseApproval 0xC082).countProgram k none).endCommand k stFormatError 0xC082 0 run.wrOk).settleSeeds c.cc))) ∧
  (∀ (c : Ctx) (run : ProgramRun) (s : State), let e := progOf s c run
    programReady s c 0x15 run → 2 ≤ s.get R.GATE_STATE → s.changeRecords.length ≤ e.x.desc.outLen → answers (.readChangeRecord c run) s c run s.changeRecords) ∧
  (∀ (c : Ctx) (run : ProgramRun) (s : State), let e := progOf s c run
    let k := ctxKey c
    let bs := [0x4B, 0x4C, 0x44, 0x43] ++ leBytes 8 Config.serial.toNat ++ leBytes 1 s.lcState ++ zeros 3 ++ drawn s c 32 ++ leBytes 4 s.ob.rwgen ++
      leBytes 4 s.bt.fwVersion
    programReady s c 0x17 run → s.lcState = 4 ∨ s.lcState = 5 → 56 ≤ e.x.desc.outLen → 32 ≤ s.queueFill c.cc →
    ∃ v : State, duringRun k s v ∧ v.lc = { s.lc with nonce := drawn s c 32, nonceDue := s.quartz + s.challengeNs } ∧ exec (.debugChallenge c run) s =
      .next ((((v.output k 0 bs).countProgram k none).endCommand k 0 0 (if e.x.desc.outInline then min 16 bs.length else 0) run.wrOk).settleSeeds c.cc)) ∧
  (∀ (c : Ctx) (run : ProgramRun) (s : State), let e := progOf s c run
    let k := ctxKey c
    let msg := e.input 0 48
    let grant := e.num 44 2
    let v : State := { s with lc.nonce := [] }
    programReady s c 0x18 run → s.lcState = 4 ∨ s.lcState = 5 → e.inLen = 5502 → s.lc.nonce ≠ [] →
    (msg.take 44 = [0x4B, 0x4C, 0x44, 0x52] ++ leBytes 8 Config.serial.toNat ++ s.lc.nonce →
      sha3_256 (e.input 48 97) = Config.serviceDigest 0 → sha3_256 (e.input 145 1952) = Config.serviceDigest 1 →
      approvalVerifies 1 (e.input 48 97) (e.input 2097 96) msg = true → approvalVerifies 2 (e.input 145 1952) (e.input 2193 3309) msg = true →
      grant ≠ 0 → grant < 4 → e.zero 46 2 = true → s.lc.target = none →
      exec (.debugResponse c run) s =
        .next (State.raiseInput { (v.countProgram k none).endCommand k 0x84 0 0 run.wrOk with lc.opening := some grant } 18)) ∧
    (msg.take 44 ≠ [0x4B, 0x4C, 0x44, 0x52] ++ leBytes 8 Config.serial.toNat ++ s.lc.nonce →
      exec (.debugResponse c run) s = .next ((((v.refuseDebug 0xC0A1).countProgram k none).endCommand k stFormatError 0xC0A1 0 run.wrOk).settleSeeds c.cc))) ∧
  (∀ (c : Ctx) (run : ProgramRun) (s3 : Bool) (s : State), let e := progOf s c run
    let k := ctxKey c
    let own := e.x.cmd.bind fun d => if d.peer.isNone then some (qpKey d.part d.qp) else none
    programReady s c 0x19 run → e.paramOnly 3 = true → e.param 0 2 = (if s3 then 3 else 2) →
    (∀ p ∈ s.created, p.1 = 0 ∨ s.backlog p.1 = 0) → s.otherWork own = false → s.pkHeld = false → s.sleepBarred = false → s.ob.latch ≠ 1 →
    exec (if s3 then .enterSleepS3 c run else .enterSleepS2 c run) s =
      .next (((s.countProgram k none).endCommand k 0 0 0 run.wrOk).beginSleep s3)) ∧
  (∀ (c : Ctx) (run : ProgramRun) (s : State), let e := progOf s c run
    let k := ctxKey c
    let start := leNat (e.x.desc.paramExt.take 8)
    let ends := fun (i : Instr) (v : State) => (∀ j, v.ctx j = s.ctx j) ∧
      exec i s = .next (((v.countProgram k none).endCommand k 0 0 0 run.wrOk).settleSeeds c.cc)
    programReady s c 0x1A run → e.paramOnly 3 = true →
    (e.param 0 2 = 0 → s.enrolled = false → 40 ≤ s.queueFill c.cc → ∃ v : State, ends (.domainCreate c run) v ∧ v.enrolled = true ∧
      v.dm.secret = drawn s c 32 ∧ v.dm.id = leNat ((drawn s c 40).drop 32) ∧ v.domainTime = (if start = 0 then s.quartz else start) ∧
      v.get R.FVL0_GM = 1 ∧ v.get R.FVL0_DT_LOCKED = 1 ∧ (s.mode = .bare → v.mode = .service) ∧
      (∀ x ∈ s.created, (v.part x.1).droot = { gen := 1, key := some (v.domainRoot x.1) })) ∧
    (∀ g, e.param 0 2 = 1 → s.enrolled = false → s.sponsorSerial ≠ 0 → s.sponsorLink ≠ none → ∃ v : State, ends (.domainJoin c run (some g)) v ∧
      v.enrolled = true ∧ v.dm.secret = fitBytes 32 g.secret ∧ v.dm.id = g.id.toNat ∧ v.domainTime = g.time ∧ v.dm.catchup = true ∧
      (∀ x ∈ s.created, (v.part x.1).droot = { gen := 1, key := some (v.domainRoot x.1) }) ∧
      (∀ p n q, g.epochs = [(p, n, q, none)] → (v.part p).epoch = n % 2 ^ 32 ∧ (v.part p).epSeq = q % 2 ^ 32)) ∧
    (e.param 0 2 = 1 → s.enrolled = false →
      let v : State := match s.sponsorLink with
        | some l => if s.sponsorSerial = 0 then s else s.sendOn l (.joinRequest l (s.created.map (·.1)))
        | none => s
      exec (.domainJoin c run none) s = .next (((v.countProgram k none).endCommand k stFormatError 0xC0C2 0 run.wrOk).settleSeeds c.cc)) ∧
    (e.param 0 2 = 2 → s.enrolled = true → (∀ p ∈ s.tenants, (s.part p).pstate = .frozen) → ∃ v : State, ends (.domainLeave c run) v ∧
      v.enrolled = false ∧ v.dm.secret = [] ∧ v.dm.id = 0 ∧ v.get R.FVL0_GM = 0 ∧ v.get R.FVL0_DT_LOCKED = 0 ∧ (∀ h p, handleScope h = 1 → v.line (lineKey p h) = {}) ∧
      (∀ j, 2 ≤ j → j < 8 → v.get (R.FVL_STATE j) = 0) ∧
      ((s.created.map (·.1)).Nodup → ∀ x ∈ s.created, (v.part x.1).droot.gen = ((s.part x.1).droot.gen + 1) % 2 ^ 24))) ∧
  (∀ (c : Ctx) (run : ProgramRun) (late : Bool) (s : State), let e := progOf s c run
    let k := ctxKey c
    let p := e.param 0 10
    let x := s.part p
    let ts := leNat (e.x.desc.paramExt.take 8)
    let tov := leNat (slice 8 4 e.x.desc.paramExt)
    programReady s c 0x1B run → e.paramOnly 0x800003FF = true →
    (e.param 31 1 = 0 → x.epPending = none → s.domainTime + 1000000000 ≤ ts → tov ≤ 60000 → x.epTs + x.epTov ≤ ts →
      ∃ v : State, v.part p = { x with epSeq := (x.epSeq + 1) % 2 ^ 32, epCancelled := false, epPending := some (ts, 1000000 * tov) } ∧ (∀ j, j ≠ p → v.part j = s.part j) ∧
        (∀ l ∈ s.treeLinks, .schedule l p ((x.epSeq + 1) % 2 ^ 32) ((x.epoch + 1) % 2 ^ 32) ts (1000000 * tov) ∈ v.out) ∧ (∀ j, v.ctx j = s.ctx j) ∧
        exec (.scheduleEpoch c run) s = .next (((v.countProgram k none).endCommand k 0 0 0 run.wrOk).settleSeeds c.cc)) ∧
    (∀ t d, e.param 31 1 = 1 → x.epPending = some (t, d) → s.domainTime + 500000000 ≤ t →
      ∃ v : State, v.part p = { x with epSeq := (x.epSeq + 1) % 2 ^ 32, epCancelled := true, epPending := none } ∧ (∀ j, j ≠ p → v.part j = s.part j) ∧
        (∀ l ∈ s.treeLinks, .cancel l p ((x.epSeq + 1) % 2 ^ 32) ∈ v.out) ∧ (∀ j, v.ctx j = s.ctx j) ∧
        exec (.cancelEpoch c run late) s = .next (((v.countProgram k none).endCommand k (if late then 0x86 else 0) 0 0 run.wrOk).settleSeeds c.cc)) ∧
    (∀ t d, e.param 31 1 = 1 → x.epPending = some (t, d) → s.domainTime < t → t < s.domainTime + 500000000 → exec (.cancelEpoch c run late) s =
      .next (((s.countProgram k none).endCommand k stFormatError 0xC0C6 0 run.wrOk).settleSeeds c.cc))) ∧
  (∀ (c : Ctx) (run : ProgramRun) (s : State), let e := progOf s c run
    let k := ctxKey c
    let at_ := 4096 * e.param 0 13
    let last := e.param 31 1 = 1
    let image := (if at_ = 0 then [] else s.bt.chunks) ++ e.input 0 e.inLen
    programReady s c 0x1D run → s.ob.latch = 4 ∨ s.get R.RST_BOOT_ERR = 1 → e.paramOnly 0x80001FFF = true → 4096 ≤ e.inLen → e.inLen ≤ 2 ^ 23 →
    at_ + e.inLen ≤ 2 ^ 25 → (last ∨ e.inLen % 4096 = 0) → (last → s.ob.latch = 4 → 2049 ≤ e.x.desc.outLen) →
    (at_ = 0 ∨ s.bt.transfer = some at_ →
      (¬ last → ∃ v : State, v.bt.transfer = some (at_ + e.inLen) ∧ v.bt.chunks = image ∧ v.bt.slotA = s.bt.slotA ∧ v = { s with bt := v.bt } ∧
        exec (.restoreFirmwareChunk c run) s = .next (((v.countProgram k none).endCommand k 0 0 0 run.wrOk).settleSeeds c.cc)) ∧
      (last → Config.firmware image = none → ∃ v : State, v.bt.transfer = none ∧ v.bt.slotA = s.bt.slotA ∧ v = { s with bt := v.bt } ∧
        exec (.restoreFirmwareChunk c run) s = .next (((v.countProgram k none).endCommand k stAuthFail 0 0 run.wrOk).settleSeeds c.cc)) ∧
      (last → (Config.firmware image).isSome = true → s.ob.latch ≠ 4 → ∃ v : State, v.bt.transfer = none ∧ v.bt.slotA = Config.firmware image ∧
        v = { s with bt := v.bt } ∧
        exec (.restoreFirmwareChunk c run) s = .next (((v.countProgram k none).endCommand k 0 0 0 run.wrOk).resetModule 5)) ∧
      (last → (Config.firmware image).isSome = true → s.ob.latch = 4 → ∃ v : State, v.bt.slotA = Config.firmware image ∧ v.ob.latch = 0 ∧
        v.ob.mmk = some (s.draw 32).1 ∧ v.ob.rwgen = (s.ob.rwgen + 1) % 2 ^ 32 ∧ v.gt.flash = {} ∧ v.lc.devKeys = s.lc.devKeys + 1 ∧
        exec (.restoreFirmwareChunk c run) s = .next ((((v.output k 0 (devicePublics (s.lc.devKeys + 1))).countProgram k none).endCommand k 0 0
          (if e.x.desc.outInline then min 16 (devicePublics (s.lc.devKeys + 1)).length else 0) run.wrOk).resetModule 5))) ∧
    (at_ ≠ 0 → s.bt.transfer ≠ some at_ → ∃ v : State, v.bt.transfer = none ∧ v.bt.chunks = [] ∧ v = { s with bt := v.bt } ∧
      exec (.restoreFirmwareChunk c run) s = .next (((v.countProgram k none).endCommand k stFormatError 0xC0D3 0 run.wrOk).settleSeeds c.cc))) ∧
  (∀ (c : Ctx) (run : ProgramRun) (block mmk : List Byte) (s : State), let e := progOf s c run
    let k := ctxKey c
    let num := e.num 0 8
    programReady s c 0x1F run → e.paramOnly 1 = true → s.get R.SD_PRESENT = 1 → s.journalReady = true → s.ob.mmk = some mmk →
    (e.param 0 2 = 0 → e.inLen ≤ 216 → ∃ t, exec (.journalAppend c run) s = .next t ∧
      t.ctx k = { s.ctx k with wait := .journal, since := s.quartz, retired := (t.ctx k).retired } ∧ (∀ j, j ≠ k → t.ctx j = s.ctx j) ∧
      t.jr.queue = s.jr.queue ++ [{ owner := some k, type := 3, payload := e.input 0 e.inLen }] ∧
      (s.jr.queue = [] → s.jr.record = [] → t.jr.record = s.journalBlock (journalRecord mmk (s.journalCount + 1) 3 (e.input 0 e.inLen)) ∧
        t.out = s.out ++ [.journalWrite (s.journalPlace (s.journalCount + 1)) t.jr.record])) ∧
    (e.param 0 2 = 1 → 8 ≤ e.inLen → 256 ≤ e.x.desc.outLen → s.journalCount < num + s.journalBlocks → num ≤ s.journalCount → numAt block 12 8 = num →
      validRecord mmk (block.take 256) = true → answers (.journalRead c run block) s c run (block.take 256)))

/-! ## Encodings and invariants -/

/-- The word of an instruction of a program image (Table 3.2) decodes to that instruction, with every field at every value it can hold, and every
64-bit word is the word of the instruction it decodes to: no bit of the encoding is dropped.
Where it goes beyond the spec's words it rests on log 8. -/
def Obligations.InstructionWordsDecodeToThemselves : Prop :=
  (∀ c : Code, c.cls < 16 → c.op < 16 → encodeCode c < 2 ^ 64 ∧ decodeCode (encodeCode c) = c) ∧
  (∀ v < 2 ^ 64, encodeCode (decodeCode v) = v ∧ (decodeCode v).cls < 16 ∧ (decodeCode v).op < 16)

/-- A fuse of the life-cycle word that is set, and a test token that is burned, stay so through every step of the module, resets and power losses
among them, in every state (R307).
Where it goes beyond the spec's words it rests on logs 94 and 97. -/
def Obligations.EveryStepKeepsBlownFuses : Prop :=
  ∀ (b : Nat) (s t : State), step s = .next t →
    (bitOf s.lc.word b = true → bitOf t.lc.word b = true) ∧ (bitOf s.lc.burned b = true → bitOf t.lc.burned b = true)
end

