-- ==== Sys2Proof/Laws/Datapath.lean ====
section
/-! SUPPORT. A block that runs through the drawn slots of a lane's datapath is the block of its standard (R126, R127, R135-R137): the two permutation values put every S-box position in its place, dummy rounds leave the state alone, and the checker's complemented values come back complemented. -/
namespace Sys2Proof.Machine

/-! ## Slots -/

/-- Do a slot's permutation values lie within `n` units? -/
def RoundSlot.within (n : Nat) (t : RoundSlot) : Prop := t.r < n ∧ t.x < n

/-- The real rounds among slots. -/
def realSlots (ts : List RoundSlot) : List RoundSlot := ts.filter fun t => t.dummy.isNone

theorem realSlots_drawSlots (sh : Bool) (u : Nat) : ∀ m d i, d ≤ m → (realSlots (drawSlots sh u m d i)).length = m - d
  | 0, d, i, h => by simp [drawSlots, realSlots]
  | m + 1, d, i, h => by
    by_cases hd : Config.laneDraw i % (m + 1) < d
    · have ih := realSlots_drawSlots sh u m (d - 1) (i + 5) (by omega)
      simp only [realSlots] at ih
      simp [drawSlots, realSlots, hd, ih]
      omega
    · have hm : Config.laneDraw i % (m + 1) < m + 1 := Nat.mod_lt _ (by omega)
      have ih := realSlots_drawSlots sh u m d (i + 5) (by omega)
      simp only [realSlots] at ih
      simp [drawSlots, realSlots, hd, ih]
      omega

theorem within_drawSlots (sh : Bool) (u : Nat) (hu : 0 < u) : ∀ m d i, ∀ t ∈ drawSlots sh u m d i, t.within u
  | 0, d, i, t, h => by simp [drawSlots] at h
  | m + 1, d, i, t, h => by
    rw [drawSlots] at h
    rcases List.mem_cons.1 h with rfl | h
    · cases sh <;> simp [RoundSlot.within, hu, Nat.mod_lt]
    · exact within_drawSlots sh u hu m _ _ t h

/-- Slots drawn for `n` rounds: `n` of them are real, and each routes within the units of its cipher. -/
theorem blockSlots_spec (sh : Bool) (m4 i n : Nat) :
    (realSlots (blockSlots sh m4 i n)).length = n ∧
      ∀ t ∈ blockSlots sh m4 i n, t.within (if n = 48 ∨ n = 16 then 8 else 16) := by
  refine ⟨?_, within_drawSlots sh _ (by split <;> omega) _ _ _⟩
  rw [blockSlots, realSlots_drawSlots _ _ _ _ _ (by omega)]
  omega

/-! ## Routing (R137) -/

theorem foldl_set_getElem? {α : Type} (f : Nat → α) : ∀ (ps : List Nat) (l : List α) (i : Nat),
    (ps.foldl (fun out p => out.set p (f p)) l)[i]? = if i ∈ ps ∧ i < l.length then some (f i) else l[i]?
  | [], l, i => by simp
  | p :: ps, l, i => by
    rw [List.foldl_cons, foldl_set_getElem? f ps]
    by_cases hp : i ∈ ps
    · by_cases hl : i < l.length <;> simp [hp, hl]
    · by_cases hi : p = i
      · subst hi
        by_cases hl : p < l.length <;> simp [hp, hl]
      · simp [hp, hi, Ne.symm hi]

theorem routed_onto (n k r x i : Nat) (hn : n = 2 ^ k) (hr : r < n) (hx : x < n) (hi : i < n) :
    ∃ j, j < n ∧ ((j ^^^ x) + r) % n = i := by
  subst hn
  refine ⟨((i + 2 ^ k - r) % 2 ^ k) ^^^ x, Nat.xor_lt_two_pow (Nat.mod_lt _ (by omega)) hx, ?_⟩
  rw [Nat.xor_assoc, Nat.xor_self, Nat.xor_zero]
  rcases Nat.lt_or_ge i r with h | h
  · rw [Nat.mod_eq_of_lt (by omega : i + 2 ^ k - r < 2 ^ k), show i + 2 ^ k - r + r = i + 2 ^ k by omega, Nat.add_mod_right, Nat.mod_eq_of_lt hi]
  · rw [show i + 2 ^ k - r = (i - r) + 2 ^ k by omega, Nat.add_mod_right, Nat.mod_eq_of_lt (by omega : i - r < 2 ^ k),
      show i - r + r = i by omega, Nat.mod_eq_of_lt hi]

/-- Routed positions end where they belong: the permutation changes no result. -/
theorem routed_eq {α : Type} (n k r x : Nat) (f : Nat → α) (l : List α) (hn : n = 2 ^ k) (hr : r < n) (hx : x < n) (hl : l.length = n) :
    routed n r x f l = (List.range n).map f := by
  have : routed n r x f l = ((List.range n).map fun j => ((j ^^^ x) + r) % n).foldl (fun out p => out.set p (f p)) l := by
    simp [routed, List.foldl_map]
  rw [this]
  apply List.ext_getElem?
  intro i
  rw [foldl_set_getElem?]
  by_cases hi : i < n
  · have hm : i ∈ (List.range n).map fun j => ((j ^^^ x) + r) % n := by
      obtain ⟨j, hj, e⟩ := routed_onto n k r x i hn hr hx hi
      exact List.mem_map.2 ⟨j, List.mem_range.2 hj, e⟩
    simp [hm, hl, hi]
  · simp [hl, hi]

/-! ## Complemented values (R127) -/

theorem complement_complement (bs : List Byte) : complement (complement bs) = bs := by
  simp [complement, Function.comp_def]

@[simp] theorem complement_length (bs : List Byte) : (complement bs).length = bs.length := by simp [complement]

@[simp] theorem pathForm_length (chk : Bool) (bs : List Byte) : (pathForm chk bs).length = bs.length := by cases chk <;> simp [pathForm]

theorem pathForm_pathForm (chk : Bool) (bs : List Byte) : pathForm chk (pathForm chk bs) = bs := by
  cases chk <;> simp [pathForm, complement_complement]

theorem xorBytes_complement (a b : List Byte) : xorBytes (complement a) (complement b) = xorBytes a b := by
  have h : ∀ x y : Byte, ~~~x ^^^ ~~~y = x ^^^ y := by intro x y; ext; simp
  simp [xorBytes, complement, List.zipWith_map, h]

/-- A key mixed in either datapath is the key mixed in, in that datapath's form. -/
theorem mixKey_pathForm (chk : Bool) (s k : List Byte) : mixKey chk (pathForm chk s) (pathForm chk k) = pathForm chk (xorBytes s k) := by
  cases chk <;> simp [mixKey, pathForm, xorBytes_complement]

theorem xor_complements (a b c d p q r s : Byte) (h : p ^^^ q ^^^ r ^^^ s = BitVec.allOnes 8) :
    (a ^^^ p) ^^^ (b ^^^ q) ^^^ (c ^^^ r) ^^^ (d ^^^ s) = ~~~(a ^^^ b ^^^ c ^^^ d) := by
  have : (a ^^^ p) ^^^ (b ^^^ q) ^^^ (c ^^^ r) ^^^ (d ^^^ s) = (a ^^^ b ^^^ c ^^^ d) ^^^ (p ^^^ q ^^^ r ^^^ s) := by ac_rfl
  rw [this, h, BitVec.xor_allOnes]

theorem aesMul_complement : ∀ c ∈ [1, 2, 3, 9, 11, 13, 14], ∀ b : Byte, aesMul c (~~~b) = aesMul c b ^^^ aesMul c 0xFF := by decide +kernel

/-- MixColumns and its inverse map complements to complements: each row of their constants sums to 1. -/
theorem aesMix_complement (m : List Nat) (hm : m = [2, 3, 1, 1] ∨ m = [14, 11, 13, 9]) : ∀ bs, aesMix m (complement bs) = complement (aesMix m bs)
  | a :: b :: c :: d :: rest => by
    have ih := aesMix_complement m hm rest
    have e := aesMul_complement
    simp only [complement] at ih ⊢
    rcases hm with rfl | rfl <;>
    · simp [aesMix, List.range_succ, ih]
      simp at e
      simp only [e]
      refine ⟨?_, ?_, ?_, ?_⟩ <;> exact xor_complements _ _ _ _ _ _ _ _ (by decide)
  | [] => rfl
  | [_] => rfl
  | [_, _] => rfl
  | [_, _, _] => rfl

/-! ## AES -/

theorem pick_map (ix : List Nat) (f : Byte → Byte) (s : List Byte) (h : ∀ i ∈ ix, i < s.length) : pick ix (s.map f) = (pick ix s).map f := by
  simp only [pick, List.map_map]
  apply List.map_congr_left
  intro i hi
  simp [List.getD_eq_getElem?_getD, h i hi]

@[simp] theorem pick_length (ix : List Nat) (s : List Byte) : (pick ix s).length = ix.length := by simp [pick]

theorem map_range_getD {α : Type} (g : Byte → α) (s : List Byte) (n : Nat) (h : s.length = n) : (List.range n).map (fun i => g (s.getD i 0)) = s.map g := by
  subst h
  apply List.ext_getElem
  · simp
  · intro i h₁ h₂
    have : i < s.length := by simpa using h₂
    simp [List.getD_eq_getElem?_getD, this]

theorem aesMix_length (m : List Nat) : ∀ bs : List Byte, (aesMix m bs).length = 4 * (bs.length / 4)
  | a :: b :: c :: d :: rest => by
    simp only [aesMix, List.length_cons, aesMix_length m rest]
    omega
  | [] | [_] | [_, _] | [_, _, _] => by simp [aesMix]

theorem pathSub_pathForm (chk : Bool) (sub : Byte → Byte) (s : List Byte) : (pathForm chk s).map (pathSub chk sub) = pathForm chk (s.map sub) := by
  cases chk <;> simp [pathForm, pathSub, complement, Function.comp_def]

/-- The byte substitution of a round on shifted rows, in its two orders. -/
def aesStep (dec : Bool) (s : List Byte) : List Byte := (pick (if dec then aesInvShift else aesShift) s).map (if dec then aesInvSub else aesSub)

/-- A round of FIPS 197: encryption mixes before the key, decryption after it, and the last round does not. -/
def aesStdRound (dec last : Bool) (s k : List Byte) : List Byte :=
  let s := aesStep dec s
  if dec then (if last then xorBytes s k else aesMix [14, 11, 13, 9] (xorBytes s k))
  else xorBytes (if last then s else aesMix [2, 3, 1, 1] s) k

theorem aesStep_length (dec : Bool) (s : List Byte) : (aesStep dec s).length = 16 := by
  cases dec <;> simp [aesStep, aesShift, aesInvShift]

theorem xorBytes_length (a b : List Byte) : (xorBytes a b).length = min a.length b.length := by simp [xorBytes]

theorem aesStdRound_length (dec last : Bool) (s k : List Byte) (hk : k.length = 16) : (aesStdRound dec last s k).length = 16 := by
  have h := aesStep_length dec s
  simp only [aesStdRound]
  split <;> split <;> simp [xorBytes_length, aesMix_length, h, hk]

/-- A round of a datapath in a slot is the round of the standard, in that datapath's form. -/
theorem aesRound_pathForm (chk dec last : Bool) (t : RoundSlot) (s k : List Byte) (ht : t.within 16) (hs : s.length = 16) :
    aesRound chk dec t last (pathForm chk s) (pathForm chk k) = pathForm chk (aesStdRound dec last s k) := by
  have hpick : pick (if dec then aesInvShift else aesShift) (pathForm chk s) = pathForm chk (pick (if dec then aesInvShift else aesShift) s) := by
    cases chk
    · rfl
    · refine pick_map _ _ _ ?_
      rw [hs]
      cases dec <;> decide
  have hsub : ∀ sub : Byte → Byte, routed 16 t.r t.x (fun i => pathSub chk sub ((pathForm chk (pick (if dec then aesInvShift else aesShift) s)).getD i 0)) (zeros 16) =
      pathForm chk ((pick (if dec then aesInvShift else aesShift) s).map sub) := by
    intro sub
    rw [routed_eq 16 4 _ _ _ _ rfl ht.1 ht.2 (by simp [zeros]), map_range_getD _ _ _ (by cases dec <;> simp [aesShift, aesInvShift]), pathSub_pathForm]
  have hmix : ∀ m, (m = [2, 3, 1, 1] ∨ m = [14, 11, 13, 9]) → ∀ b, aesMix m (pathForm chk b) = pathForm chk (aesMix m b) := by
    intro m hm b
    cases chk
    · rfl
    · exact aesMix_complement m hm b
  simp only [aesRound, hpick, hsub, aesStdRound, aesStep]
  cases dec <;> cases last <;> simp [mixKey_pathForm, hmix]

/-- The rounds of the standard under the keys to come. -/
def aesRounds (dec : Bool) : List (List Byte) → List Byte → List Byte
  | [], s => s
  | k :: ks, s => aesRounds dec ks (aesStdRound dec ks.isEmpty s k)

theorem aesRun_st (chk dec : Bool) : ∀ (ts : List RoundSlot) (ks : List (List Byte)) (s d : List Byte),
    (∀ t ∈ ts, t.within 16) → (realSlots ts).length = ks.length → (∀ k ∈ ks, k.length = 16) → s.length = 16 →
    (ts.foldl (AesRun.slot chk dec) { keys := ks.map (pathForm chk), st := pathForm chk s, dummy := d }).st = pathForm chk (aesRounds dec ks s)
  | [], ks, s, d, _, hn, _, _ => by
    cases ks with
    | nil => rfl
    | cons k ks => simp [realSlots] at hn
  | t :: ts, ks, s, d, ht, hn, hk, hs => by
    have ht' : ∀ t ∈ ts, t.within 16 := fun u hu => ht u (List.mem_cons_of_mem _ hu)
    cases hd : t.dummy with
    | some v =>
      have hn' : (realSlots ts).length = ks.length := by simpa [realSlots, hd] using hn
      simp only [List.foldl_cons, AesRun.slot, hd]
      exact aesRun_st chk dec ts ks s _ ht' hn' hk hs
    | none =>
      cases ks with
      | nil => simp [realSlots, hd] at hn
      | cons k ks =>
        have hn' : (realSlots ts).length = ks.length := by simpa [realSlots, hd] using hn
        simp only [List.foldl_cons, AesRun.slot, hd, List.map_cons]
        rw [aesRound_pathForm chk dec _ t s k (ht t (List.mem_cons_self ..)) hs]
        have e : (List.map (pathForm chk) ks).isEmpty = ks.isEmpty := by cases ks <;> rfl
        rw [e]
        exact aesRun_st chk dec ts ks _ d ht' hn' (fun k' h' => hk k' (List.mem_cons_of_mem _ h'))
          (aesStdRound_length _ _ _ _ (hk k (List.mem_cons_self ..)))

/-! ### The key schedule -/

theorem aesExpand_lengths (nk : Nat) (h0 : 0 < nk) : ∀ (n i : Nat) (rcon : Byte) (ws : List (List Byte)),
    nk ≤ ws.length → (∀ w ∈ ws, w.length = 4) →
    (aesExpand nk n i rcon ws).length = ws.length + n ∧ ∀ w ∈ aesExpand nk n i rcon ws, w.length = 4
  | 0, i, rcon, ws, _, hw => by simpa [aesExpand] using hw
  | n + 1, i, rcon, ws, hl, hw => by
    have get : ∀ j, j < ws.length → (ws.getD j []).length = 4 := by
      intro j hj
      rw [List.getD_eq_getElem?_getD, List.getElem?_eq_getElem hj]
      exact hw _ (List.getElem_mem hj)
    rw [aesExpand]
    have hp := get 0 (by omega)
    have hb := get (nk - 1) (by omega)
    have := aesExpand_lengths nk h0 n (i + 1) (if i % nk = 0 then aesXtime rcon else rcon)
      (xorBytes (ws.getD (nk - 1) []) (if i % nk = 0 then xorBytes (((ws.getD 0 []).drop 1 ++ (ws.getD 0 []).take 1).map aesSub) [rcon, 0, 0, 0]
        else if nk > 6 ∧ i % nk = 4 then (ws.getD 0 []).map aesSub else ws.getD 0 []) :: ws) (by simp; omega) (by
        intro w h
        rcases List.mem_cons.1 h with rfl | h
        · rw [xorBytes_length, hb]
          split
          · simp only [xorBytes_length, List.length_map, List.length_append, List.length_drop, List.length_take, hp]; simp
          · split <;> simp only [List.length_map, hp] <;> simp
        · exact hw w h)
    refine ⟨?_, this.2⟩
    rw [this.1]
    simp
    omega

theorem flatten_length4 : ∀ l : List (List Byte), (∀ w ∈ l, w.length = 4) → l.flatten.length = 4 * l.length
  | [], _ => rfl
  | w :: l, h => by
    rw [List.flatten_cons, List.length_append, flatten_length4 l fun v hv => h v (List.mem_cons_of_mem _ hv), h w (List.mem_cons_self ..), List.length_cons]
    omega

/-- The round keys: one more than the rounds of a block, sixteen bytes each. -/
theorem aesKeys_lengths (key : List Byte) (h : 4 ≤ key.length) : (aesKeys key).length = key.length / 4 + 7 ∧ ∀ k ∈ aesKeys key, k.length = 16 := by
  refine ⟨by simp [aesKeys], ?_⟩
  have hw := aesExpand_lengths (key.length / 4) (by omega) (4 * (key.length / 4 + 7) - key.length / 4) (key.length / 4) 1 (words4 key).reverse
    (by simp [words4]) (by simp [words4, slice, fitBytes, zeros])
  intro k hk
  simp only [aesKeys, List.mem_map, List.mem_range] at hk
  obtain ⟨i, hi, rfl⟩ := hk
  rw [flatten_length4]
  · simp only [List.length_take, List.length_drop, List.length_reverse, hw.1]
    simp only [words4, List.length_map, List.length_range]
    omega
  · intro w h
    exact hw.2 w (List.mem_reverse.1 (List.mem_of_mem_drop (List.mem_of_mem_take h)))

/-! ### The block -/

/-- The rounds of the standard before a last one. -/
theorem aesRounds_append (dec : Bool) : ∀ (mid : List (List Byte)) (k s : List Byte),
    aesRounds dec (mid ++ [k]) s = aesStdRound dec true (mid.foldl (aesStdRound dec false) s) k
  | [], k, s => rfl
  | m :: mid, k, s => by
    have : (mid ++ [k]).isEmpty = false := by cases mid <;> rfl
    simp only [List.cons_append, aesRounds, this, List.foldl_cons]
    exact aesRounds_append dec mid k _

theorem fitBytes_length (n : Nat) (bs : List Byte) : (fitBytes n bs).length = n := by simp [fitBytes, zeros]

theorem aesStep_enc (s : List Byte) (h : s.length = 16) : pick aesShift (s.map aesSub) = aesStep false s :=
  pick_map _ _ _ (by rw [h]; decide)

theorem foldl_enc : ∀ (mid : List (List Byte)) (s : List Byte), s.length = 16 → (∀ k ∈ mid, k.length = 16) →
    mid.foldl (fun s k => xorBytes (aesMix [2, 3, 1, 1] (pick aesShift (s.map aesSub))) k) s = mid.foldl (aesStdRound false false) s ∧
      (mid.foldl (aesStdRound false false) s).length = 16
  | [], s, hs, _ => ⟨rfl, hs⟩
  | k :: mid, s, hs, hk => by
    simp only [List.foldl_cons, aesStep_enc s hs]
    exact foldl_enc mid _ (aesStdRound_length false false s k (hk k (List.mem_cons_self ..))) fun k' h => hk k' (List.mem_cons_of_mem _ h)

theorem foldl_dec : ∀ (mid : List (List Byte)) (s : List Byte),
    mid.foldl (fun s k => (pick aesInvShift (aesMix [14, 11, 13, 9] (xorBytes s k))).map aesInvSub) (aesStep true s) =
      aesStep true (mid.foldl (aesStdRound true false) s)
  | [], s => rfl
  | k :: mid, s => by
    simp only [List.foldl_cons]
    exact foldl_dec mid (aesStdRound true false s k)

theorem getLastD_snoc (a z : List Byte) (mid : List (List Byte)) : (a :: (mid ++ [z])).getLastD [] = z := by
  rw [← List.cons_append, List.getLastD_concat]

/-- One AES block through drawn slots, in either datapath, is the block of FIPS 197 in that datapath's form. -/
theorem aesPath_eq (chk dec : Bool) (ts : List RoundSlot) (key block : List Byte) (hk : 4 ≤ key.length)
    (hn : (realSlots ts).length = key.length / 4 + 6) (ht : ∀ t ∈ ts, t.within 16) :
    aesPath chk dec ts key block = pathForm chk (if dec then aesDecrypt key block else aesEncrypt key block) := by
  obtain ⟨hl, hb⟩ := aesKeys_lengths key hk
  obtain ⟨a, mid, z, e⟩ : ∃ a mid z, aesKeys key = a :: (mid ++ [z]) := by
    cases h : aesKeys key with
    | nil => simp [h] at hl
    | cons a r =>
      refine ⟨a, r.dropLast, r.getLastD [], ?_⟩
      have : r ≠ [] := by
        rintro rfl
        simp [h] at hl
      rw [List.getLastD_eq_getLast?, List.getLast?_eq_some_getLast this, Option.getD_some, List.dropLast_concat_getLast]
  have ha : a.length = 16 := hb a (by simp [e])
  have hz : z.length = 16 := hb z (by simp [e])
  have hm : ∀ k ∈ mid, k.length = 16 := fun k h => hb k (by simp [e, h])
  have hmid : (mid.length + 1) = key.length / 4 + 6 := by
    rw [e] at hl
    simp at hl
    omega
  simp only [aesPath, e]
  cases dec
  · simp only [Bool.false_eq_true, if_false, List.map_cons, List.drop_one, List.tail_cons, List.headD_cons]
    rw [mixKey_pathForm, aesRun_st chk false ts (mid ++ [z]) _ _ ht (by simp [hn, hmid]) (by
        intro k h
        rcases List.mem_append.1 h with h | h
        · exact hm k h
        · simp at h; exact h ▸ hz) (by simp [xorBytes_length, fitBytes_length, ha])]
    have f := foldl_enc mid (xorBytes (fitBytes 16 block) a) (by simp [xorBytes_length, fitBytes_length, ha]) hm
    rw [aesRounds_append]
    simp only [aesEncrypt, e, List.headD_cons, List.drop_one, List.tail_cons, List.dropLast_concat]
    rw [f.1, aesStep_enc _ f.2, getLastD_snoc]
    simp [aesStdRound]
  · have hrev : (List.map (pathForm chk) (a :: (mid ++ [z]))).reverse = pathForm chk z :: List.map (pathForm chk) (mid.reverse ++ [a]) := by simp
    simp only [if_true, hrev, List.drop_one, List.tail_cons, List.headD_cons]
    rw [mixKey_pathForm, aesRun_st chk true ts (mid.reverse ++ [a]) _ _ ht (by simp [hn, hmid]) (by
        intro k h
        rcases List.mem_append.1 h with h | h
        · exact hm k (List.mem_reverse.1 h)
        · simp at h; exact h ▸ ha) (by simp [xorBytes_length, fitBytes_length, hz])]
    rw [aesRounds_append]
    simp only [aesDecrypt, e, List.headD_cons, List.drop_one, List.tail_cons, List.dropLast_concat]
    rw [getLastD_snoc]
    have f := foldl_dec mid.reverse (xorBytes (fitBytes 16 block) z)
    simp only [aesStep, if_true] at f
    rw [f]
    simp [aesStdRound, aesStep]

/-! ## DES -/

theorem compl_lt (w v : Nat) : compl w v < 2 ^ w := by
  have := Nat.two_pow_pos w
  simp only [compl]
  omega

theorem compl_compl (w v : Nat) (h : v < 2 ^ w) : compl w (compl w v) = v := by
  have := compl_lt w v
  simp only [compl] at this ⊢
  rw [Nat.mod_eq_of_lt h] at this ⊢
  rw [Nat.mod_eq_of_lt this]
  omega

theorem pathNum_pathNum (chk : Bool) (w v : Nat) (h : v < 2 ^ w) : pathNum chk w (pathNum chk w v) = v := by
  cases chk <;> simp [pathNum, compl_compl, h]

theorem pathNum_lt (chk : Bool) (w v : Nat) (h : v < 2 ^ w) : pathNum chk w v < 2 ^ w := by
  cases chk <;> simp [pathNum, compl_lt, h]

theorem testBit_compl (w v i : Nat) (h : v < 2 ^ w) : (compl w v).testBit i = (decide (i < w) && !v.testBit i) := by
  have e : compl w v = 2 ^ w - (v + 1) := by
    rw [compl, Nat.mod_eq_of_lt h]
    omega
  rw [e, Nat.testBit_two_pow_sub_succ h]

theorem bit_compl (w v k : Nat) (h : v < 2 ^ w) (hk : k < w) : compl w v / 2 ^ k % 2 = 1 - v / 2 ^ k % 2 := by
  have a := testBit_compl w v k h
  simp only [Nat.testBit_eq_decide_div_mod_eq, hk, decide_true, Bool.true_and] at a
  have : v / 2 ^ k % 2 < 2 := Nat.mod_lt _ (by omega)
  have : compl w v / 2 ^ k % 2 < 2 := Nat.mod_lt _ (by omega)
  by_cases hv : v / 2 ^ k % 2 = 1 <;> simp [hv] at a ⊢ <;> omega

theorem permute_snoc (t : List Nat) (w v i : Nat) : permute (t ++ [i]) w v = 2 * permute t w v + v / 2 ^ (w - i) % 2 := by
  simp [permute, List.foldl_append]

/-- Induction from the end of a permutation table. -/
theorem snoc_ind {p : List Nat → Prop} (h0 : p []) (h1 : ∀ t i, p t → p (t ++ [i])) (t : List Nat) : p t := by
  have h : ∀ u : List Nat, p u.reverse := by
    intro u
    induction u with
    | nil => exact h0
    | cons i u ih => rw [List.reverse_cons]; exact h1 _ _ ih
  have := h t.reverse
  rwa [List.reverse_reverse] at this

theorem permute_lt (w v : Nat) (t : List Nat) : permute t w v < 2 ^ t.length := by
  refine snoc_ind (p := fun t => permute t w v < 2 ^ t.length) (by simp [permute]) (fun t i ih => ?_) t
  simp only [permute_snoc, List.length_append, List.length_singleton, Nat.pow_succ]
  have : v / 2 ^ (w - i) % 2 < 2 := Nat.mod_lt _ (by omega)
  omega

/-- A permutation of complemented bits is the complement of the permutation. -/
theorem permute_compl (w v : Nat) (hv : v < 2 ^ w) (t : List Nat) : (∀ i ∈ t, 1 ≤ i ∧ i ≤ w) → permute t w (compl w v) = compl t.length (permute t w v) := by
  refine snoc_ind (p := fun t => (∀ i ∈ t, 1 ≤ i ∧ i ≤ w) → permute t w (compl w v) = compl t.length (permute t w v))
    (by simp [permute, compl]) (fun t i ih ht => ?_) t
  have hi := ht i (by simp)
  rw [permute_snoc, permute_snoc, ih fun j hj => ht j (by simp [hj]), bit_compl w v (w - i) hv (by omega)]
  have hb : v / 2 ^ (w - i) % 2 < 2 := Nat.mod_lt _ (by omega)
  have hp := permute_lt w v t
  simp only [compl, List.length_append, List.length_singleton, Nat.pow_succ]
  generalize v / 2 ^ (w - i) % 2 = b at *
  generalize permute t w v = p at *
  generalize 2 ^ t.length = q at *
  rw [Nat.mod_eq_of_lt hp, Nat.mod_eq_of_lt (by omega : 2 * p + b < q * 2)]
  omega

theorem permute_pathNum (chk : Bool) (w v n : Nat) (hv : v < 2 ^ w) (t : List Nat) (hn : t.length = n) (ht : ∀ i ∈ t, 1 ≤ i ∧ i ≤ w) :
    permute t w (pathNum chk w v) = pathNum chk n (permute t w v) := by
  subst hn
  cases chk
  · rfl
  · exact permute_compl w v hv t ht

theorem xor_compl (w a b : Nat) (ha : a < 2 ^ w) (hb : b < 2 ^ w) : compl w a ^^^ compl w b = a ^^^ b := by
  apply Nat.eq_of_testBit_eq
  intro i
  rw [Nat.testBit_xor, Nat.testBit_xor, testBit_compl w a i ha, testBit_compl w b i hb]
  by_cases hi : i < w
  · simp [hi]
  · simp [hi, Nat.testBit_lt_two_pow (Nat.lt_of_lt_of_le ha (Nat.pow_le_pow_right (by omega) (Nat.le_of_not_lt hi))),
      Nat.testBit_lt_two_pow (Nat.lt_of_lt_of_le hb (Nat.pow_le_pow_right (by omega) (Nat.le_of_not_lt hi)))]

theorem xor_pathNum (chk : Bool) (w a b : Nat) (ha : a < 2 ^ w) (hb : b < 2 ^ w) : pathNum chk w a ^^^ pathNum chk w b = a ^^^ b := by
  cases chk <;> simp [pathNum, xor_compl, ha, hb]

/-- Six bits cut out of a complemented number are the complemented six bits. -/
theorem cut_compl (y k : Nat) (hy : y < 2 ^ 48) (hk : k + 6 ≤ 48) : compl 48 y / 2 ^ k % 64 = compl 6 (y / 2 ^ k % 64) := by
  have h64 : y / 2 ^ k % 64 < 2 ^ 6 := Nat.mod_lt _ (by omega)
  apply Nat.eq_of_testBit_eq
  intro i
  rw [testBit_compl 6 _ i h64, show (64 : Nat) = 2 ^ 6 from rfl, Nat.testBit_mod_two_pow, Nat.testBit_mod_two_pow, Nat.testBit_div_two_pow,
    Nat.testBit_div_two_pow, testBit_compl 48 y _ hy]
  by_cases hi : i < 6
  · simp [hi, show i + k < 48 by omega]
  · simp [hi]

/-! ### The round function -/

theorem desBox_lt (i b : Nat) : desBox (desS.getD i []) b < 2 ^ 4 := by
  have h : ∀ l ∈ desS, ∀ x ∈ l, x < 2 ^ 4 := by decide
  rw [desBox, List.getD_eq_getElem?_getD, List.getD_eq_getElem?_getD]
  cases hl : desS[i]? with
  | none => simp
  | some l =>
    simp only [Option.getD_some]
    cases hx : l[16 * (2 * (b / 32) + b % 2) + b / 2 % 16]? with
    | none => simp
    | some x => exact h l (List.mem_of_getElem? hl) x (List.mem_of_getElem? hx)

/-- The eight outputs of the S-boxes side by side. -/
def desBoxes (y : Nat) : Nat := (List.range 8).foldl (fun n i => 16 * n + desBox (desS.getD i []) (y / 2 ^ (42 - 6 * i) % 64)) 0

/-- Eight numbers of four bits side by side. -/
def nibbles8 (f : Nat → Nat) : Nat := ((List.range 8).map f).foldl (fun n v => 16 * n + v) 0

theorem nibbles8_pathNum (chk : Bool) (f : Nat → Nat) (h : ∀ i, f i < 2 ^ 4) : nibbles8 (fun i => pathNum chk 4 (f i)) = pathNum chk 32 (nibbles8 f) := by
  cases chk
  · rfl
  · have h0 := h 0; have h1 := h 1; have h2 := h 2; have h3 := h 3; have h4 := h 4; have h5 := h 5; have h6 := h 6; have h7 := h 7
    simp [nibbles8, pathNum, compl, List.range_succ] at *
    omega

theorem nibbles8_lt (f : Nat → Nat) (h : ∀ i, f i < 2 ^ 4) : nibbles8 f < 2 ^ 32 := by
  have h0 := h 0; have h1 := h 1; have h2 := h 2; have h3 := h 3; have h4 := h 4; have h5 := h 5; have h6 := h 6; have h7 := h 7
  simp [nibbles8, List.range_succ] at *
  omega

/-- The round function of a datapath is DES's, in that datapath's form. -/
theorem desPathF_pathNum (chk : Bool) (t : RoundSlot) (r k : Nat) (ht : t.within 8) (hr : r < 2 ^ 32) (hk : k < 2 ^ 48) :
    desPathF chk t (pathNum chk 32 r) (pathNum chk 48 k) = pathNum chk 32 (desF r k) := by
  have hE := permute_pathNum chk 32 r 48 hr desE rfl (by decide)
  have hEl : permute desE 32 r < 2 ^ 48 := permute_lt 32 r desE
  have hx : permute desE 32 r ^^^ k < 2 ^ 48 := Nat.xor_lt_two_pow hEl hk
  have hbox : ∀ i, i < 8 → pathNum chk 6 (pathNum chk 48 (permute desE 32 r ^^^ k) / 2 ^ (42 - 6 * i) % 64) = (permute desE 32 r ^^^ k) / 2 ^ (42 - 6 * i) % 64 := by
    intro i hi
    cases chk
    · rfl
    · simp only [pathNum, if_true]
      have c6 (v : Nat) : compl 6 (compl 6 (v % 64)) = v % 64 := compl_compl 6 _ (Nat.lt_of_lt_of_le (Nat.mod_lt v (by omega)) (by decide))
      rw [cut_compl _ _ hx (by omega), c6]
  have hmap : (List.range 8).map (fun i => pathNum chk 4 (desBox (desS.getD i []) (pathNum chk 6 (pathNum chk 48 (permute desE 32 r ^^^ k) / 2 ^ (42 - 6 * i) % 64)))) =
      (List.range 8).map (fun i => pathNum chk 4 (desBox (desS.getD i []) ((permute desE 32 r ^^^ k) / 2 ^ (42 - 6 * i) % 64))) := by
    apply List.map_congr_left
    intro i hi
    rw [hbox i (List.mem_range.1 hi)]
  simp only [desPathF, hE]
  rw [xor_pathNum chk 48 _ _ hEl hk, routed_eq 8 3 _ _ _ _ rfl ht.1 ht.2 (by simp), hmap]
  have hn := nibbles8_pathNum chk (fun i => desBox (desS.getD i []) ((permute desE 32 r ^^^ k) / 2 ^ (42 - 6 * i) % 64)) fun i => desBox_lt i _
  simp only [nibbles8] at hn
  have hp := permute_pathNum chk 32 _ 32 (nibbles8_lt (fun i => desBox (desS.getD i []) ((permute desE 32 r ^^^ k) / 2 ^ (42 - 6 * i) % 64)) fun i => desBox_lt i _)
    desP rfl (by decide)
  simp only [nibbles8] at hp
  rw [hn, hp]
  simp only [desF, List.foldl_map]

theorem desF_lt (r k : Nat) : desF r k < 2 ^ 32 := permute_lt 32 _ desP

/-- A round of DES on its halves. -/
def desStdRound (p : Nat × Nat) (k : Nat) : Nat × Nat := (p.2, p.1 ^^^ desF p.2 k)

theorem desRound_pathNum (chk : Bool) (t : RoundSlot) (l r k : Nat) (ht : t.within 8) (hl : l < 2 ^ 32) (hr : r < 2 ^ 32) (hk : k < 2 ^ 48) :
    desRound chk t (pathNum chk 32 l) (pathNum chk 32 r) (pathNum chk 48 k) =
      (pathNum chk 32 (desStdRound (l, r) k).1, pathNum chk 32 (desStdRound (l, r) k).2) := by
  rw [desRound, desPathF_pathNum chk t r k ht hr hk, xor_pathNum chk 32 _ _ hl (desF_lt r k)]
  rfl

/-- Real rounds from `done` on, the halves exchanged after each sixteenth. -/
def desRuns : Nat → List Nat → Nat × Nat → Nat × Nat
  | _, [], p => p
  | done, k :: ks, p =>
    let q := desStdRound p k
    desRuns (done + 1) ks (if (done + 1) % 16 = 0 then (q.2, q.1) else q)

theorem desRun_halves (chk : Bool) : ∀ (ts : List RoundSlot) (ks : List Nat) (done l r : Nat) (d : Nat × Nat),
    (∀ t ∈ ts, t.within 8) → (realSlots ts).length = ks.length → (∀ k ∈ ks, k < 2 ^ 48) → l < 2 ^ 32 → r < 2 ^ 32 →
    let z := ts.foldl (DesRun.slot chk) { keys := ks.map (pathNum chk 48), l := pathNum chk 32 l, r := pathNum chk 32 r, done, dummy := d }
    let p := desRuns done ks (l, r)
    z.l = pathNum chk 32 p.1 ∧ z.r = pathNum chk 32 p.2 ∧ p.1 < 2 ^ 32 ∧ p.2 < 2 ^ 32
  | [], ks, done, l, r, d, _, hn, _, hl, hr => by
    cases ks with
    | nil => exact ⟨rfl, rfl, hl, hr⟩
    | cons k ks => simp [realSlots] at hn
  | t :: ts, ks, done, l, r, d, ht, hn, hk, hl, hr => by
    have ht' : ∀ t ∈ ts, t.within 8 := fun u hu => ht u (List.mem_cons_of_mem _ hu)
    cases hd : t.dummy with
    | some v =>
      have hn' : (realSlots ts).length = ks.length := by simpa [realSlots, hd] using hn
      simp only [List.foldl_cons, DesRun.slot, hd]
      exact desRun_halves chk ts ks done l r _ ht' hn' hk hl hr
    | none =>
      cases ks with
      | nil => simp [realSlots, hd] at hn
      | cons k ks =>
        have hn' : (realSlots ts).length = ks.length := by simpa [realSlots, hd] using hn
        have hk' : ∀ k' ∈ ks, k' < 2 ^ 48 := fun k' h => hk k' (List.mem_cons_of_mem _ h)
        have hq : l ^^^ desF r k < 2 ^ 32 := Nat.xor_lt_two_pow hl (desF_lt r k)
        simp only [List.foldl_cons, DesRun.slot, hd, List.map_cons, desRuns]
        rw [desRound_pathNum chk t l r k (ht t (List.mem_cons_self ..)) hl hr (hk k (List.mem_cons_self ..))]
        by_cases h16 : (done + 1) % 16 = 0
        · simp only [h16, if_true]
          exact desRun_halves chk ts ks (done + 1) _ _ d ht' hn' hk' hq hr
        · simp only [h16, if_false]
          exact desRun_halves chk ts ks (done + 1) _ _ d ht' hn' hk' hr hq

/-- Sixteen rounds, with the exchange that ends them. -/
theorem desRuns_append (a b : List Nat) : ∀ (done : Nat) (p : Nat × Nat), desRuns done (a ++ b) p = desRuns (done + a.length) b (desRuns done a p) := by
  induction a with
  | nil => intro done p; rfl
  | cons k a ih =>
    intro done p
    simp only [List.cons_append, desRuns, ih, List.length_cons]
    congr 1
    omega

theorem desRuns_part : ∀ (ks : List Nat) (m c : Nat) (p : Nat × Nat), ks ≠ [] → c + ks.length = 16 →
    desRuns (16 * m + c) ks p = ((ks.foldl desStdRound p).2, (ks.foldl desStdRound p).1)
  | [], m, c, p, h, _ => absurd rfl h
  | [k], m, c, p, _, hc => by
    have : (16 * m + c + 1) % 16 = 0 := by simp at hc; omega
    simp [desRuns, this]
  | k :: k2 :: ks, m, c, p, _, hc => by
    have h : (16 * m + c + 1) % 16 ≠ 0 := by simp at hc; omega
    have e := desRuns_part (k2 :: ks) m (c + 1) (desStdRound p k) (by simp) (by simp at hc ⊢; omega)
    rw [desRuns]
    simp only [h, if_false, List.foldl_cons] at e ⊢
    rw [← Nat.add_assoc] at e
    exact e

/-! ### The block -/

theorem leBytes_length : ∀ n v, (leBytes n v).length = n
  | 0, _ => rfl
  | n + 1, v => by simp [leBytes, leBytes_length n]

theorem leNat_leBytes : ∀ n v, leNat (leBytes n v) = v % 256 ^ n
  | 0, v => by simp [leBytes, leNat, Nat.mod_one]
  | n + 1, v => by
    rw [leBytes, leNat, leNat_leBytes n, BitVec.toNat_ofNat, show (256 : Nat) ^ (n + 1) = 256 * 256 ^ n by rw [Nat.pow_succ, Nat.mul_comm], Nat.mod_mul]

theorem leBytes_compl : ∀ n v, v < 256 ^ n → leBytes n (compl (8 * n) v) = complement (leBytes n v)
  | 0, v, _ => rfl
  | n + 1, v, h => by
    have hv : v / 256 < 256 ^ n := by rw [Nat.div_lt_iff_lt_mul (by omega), ← Nat.pow_succ]; exact h
    have e : (2 : Nat) ^ (8 * n) = 256 ^ n := by rw [Nat.pow_mul]
    have e' : (2 : Nat) ^ (8 * (n + 1)) = 256 * 256 ^ n := by rw [Nat.pow_mul, Nat.pow_succ, Nat.mul_comm]
    have ih := leBytes_compl n (v / 256) hv
    have hd : compl (8 * (n + 1)) v / 256 = compl (8 * n) (v / 256) := by
      simp only [compl, e, e']
      rw [Nat.pow_succ] at h
      generalize 256 ^ n = q at *
      rw [Nat.mod_eq_of_lt hv, Nat.mod_eq_of_lt (by omega : v < 256 * q)]
      omega
    have hm : BitVec.ofNat 8 (compl (8 * (n + 1)) v) = ~~~BitVec.ofNat 8 v := by
      apply BitVec.eq_of_toNat_eq
      rw [BitVec.toNat_ofNat, BitVec.toNat_not, BitVec.toNat_ofNat]
      simp only [compl, e']
      rw [Nat.pow_succ] at h
      generalize 256 ^ n = q at *
      rw [Nat.mod_eq_of_lt (by omega : v < 256 * q)]
      omega
    rw [leBytes, leBytes, hd, ih, hm]
    rfl

theorem complement_reverse (bs : List Byte) : (complement bs).reverse = complement bs.reverse := by simp [complement]

theorem beBytes_pathNum (chk : Bool) (v : Nat) (h : v < 2 ^ 64) : beBytes 8 (pathNum chk 64 v) = pathForm chk (beBytes 8 v) := by
  cases chk
  · rfl
  · simp only [beBytes, pathNum, pathForm, if_true]
    rw [← complement_reverse, leBytes_compl 8 v (by simpa using h)]

theorem beNat_beBytes (v : Nat) (h : v < 2 ^ 64) : beNat (fitBytes 8 (beBytes 8 v)) = v := by
  have : fitBytes 8 (beBytes 8 v) = beBytes 8 v := by
    rw [fitBytes, List.take_append_of_le_length (by simp [beBytes, leBytes_length]), List.take_of_length_le (by simp [beBytes, leBytes_length])]
  rw [this, beNat, beBytes, List.reverse_reverse, leNat_leBytes, Nat.mod_eq_of_lt (by simpa using h)]

theorem leNat_lt : ∀ bs, leNat bs < 256 ^ bs.length
  | [] => by simp [leNat]
  | b :: bs => by
    have := leNat_lt bs
    have := b.isLt
    rw [leNat, List.length_cons, Nat.pow_succ]
    omega

theorem beNat_fitBytes_lt (bs : List Byte) : beNat (fitBytes 8 bs) < 2 ^ 64 := by
  have := leNat_lt (fitBytes 8 bs).reverse
  rw [List.length_reverse, fitBytes_length] at this
  simpa [beNat] using this

/-- The bit of a permuted number that a table entry picks. -/
theorem permute_testBit (w v : Nat) (t : List Nat) : ∀ j, (permute t w v).testBit j = (t.reverse[j]?.any fun i => v.testBit (w - i)) := by
  refine snoc_ind (p := fun t => ∀ j, (permute t w v).testBit j = (t.reverse[j]?.any fun i => v.testBit (w - i))) (by simp [permute]) (fun t i ih j => ?_) t
  rw [permute_snoc, List.reverse_append]
  cases j with
  | zero =>
    have : v / 2 ^ (w - i) % 2 < 2 := Nat.mod_lt _ (by omega)
    simp only [List.reverse_singleton, List.singleton_append, List.getElem?_cons_zero, Option.any_some, Nat.testBit_eq_decide_div_mod_eq]
    congr 1
    simp only [eq_iff_iff]
    omega
  | succ j =>
    have : v / 2 ^ (w - i) % 2 < 2 := Nat.mod_lt _ (by omega)
    rw [Nat.testBit_succ, show (2 * permute t w v + v / 2 ^ (w - i) % 2) / 2 = permute t w v by omega, ih j]
    simp

/-- The initial permutation undoes the final one. -/
theorem desIP_desFP (v : Nat) (h : v < 2 ^ 64) : permute desIP 64 (permute desFP 64 v) = v := by
  apply Nat.eq_of_testBit_eq
  intro j
  by_cases hj : j < 64
  · have key : ∀ j < 64, (desIP.reverse[j]?.bind fun i => (desFP.reverse[64 - i]?).map fun i' => 64 - i') = some j := by decide
    have hk := key j hj
    simp only [permute_testBit]
    cases h1 : desIP.reverse[j]? with
    | none => simp [h1] at hk
    | some i =>
      simp only [h1, Option.bind_some] at hk
      cases h2 : desFP.reverse[64 - i]? with
      | none => simp [h2] at hk
      | some i' =>
        simp only [h2, Option.map_some, Option.some.injEq] at hk
        simp [h2, hk]
  · rw [Nat.testBit_lt_two_pow (Nat.lt_of_lt_of_le (permute_lt 64 _ desIP) (Nat.pow_le_pow_right (by omega) (by simpa [desIP] using hj))),
      Nat.testBit_lt_two_pow (Nat.lt_of_lt_of_le h (Nat.pow_le_pow_right (by omega) (by omega)))]

/-- DES rounds on the halves of a permuted block. -/
def desHalves (block : List Byte) : Nat × Nat :=
  let b := permute desIP 64 (beNat (fitBytes 8 block))
  (b / 2 ^ 32, b % 2 ^ 32)

/-- The block that two halves make. -/
def desJoin (p : Nat × Nat) : List Byte := beBytes 8 (permute desFP 64 (p.1 * 2 ^ 32 + p.2))

theorem desHalves_lt (block : List Byte) : (desHalves block).1 < 2 ^ 32 ∧ (desHalves block).2 < 2 ^ 32 := by
  have h : permute desIP 64 (beNat (fitBytes 8 block)) < 2 ^ 64 := permute_lt 64 _ desIP
  simp only [desHalves]
  omega

theorem desHalves_desJoin (p : Nat × Nat) (h1 : p.1 < 2 ^ 32) (h2 : p.2 < 2 ^ 32) : desHalves (desJoin p) = p := by
  have h : permute desFP 64 (p.1 * 2 ^ 32 + p.2) < 2 ^ 64 := permute_lt 64 _ desFP
  rw [desHalves, desJoin, beNat_beBytes _ h, desIP_desFP _ (by omega)]
  ext <;> simp <;> omega

/-- Sixteen rounds in the order the datapath runs them are DES's sixteen rounds. -/
theorem desRounds_eq (ks : List Nat) (m : Nat) (block : List Byte) (h : ks.length = 16) :
    desRounds ks block = desJoin (desRuns (16 * m) ks (desHalves block)) := by
  have e := desRuns_part ks m 0 (desHalves block) (by rintro rfl; simp at h) (by omega)
  rw [Nat.add_zero] at e
  rw [e]
  rfl

theorem desRuns_lt : ∀ (ks : List Nat) (done : Nat) (p : Nat × Nat), p.1 < 2 ^ 32 → p.2 < 2 ^ 32 →
    (desRuns done ks p).1 < 2 ^ 32 ∧ (desRuns done ks p).2 < 2 ^ 32
  | [], _, p, h1, h2 => ⟨h1, h2⟩
  | k :: ks, done, p, h1, h2 => by
    have hq : p.1 ^^^ desF p.2 k < 2 ^ 32 := Nat.xor_lt_two_pow h1 (desF_lt _ _)
    rw [desRuns]
    split
    · exact desRuns_lt ks _ _ hq h2
    · exact desRuns_lt ks _ _ h2 hq

/-- A block through drawn slots under round keys, in either datapath, in that datapath's form. -/
theorem desPath_eq (chk : Bool) (ts : List RoundSlot) (ks : List Nat) (block : List Byte) (hn : (realSlots ts).length = ks.length)
    (ht : ∀ t ∈ ts, t.within 8) (hk : ∀ k ∈ ks, k < 2 ^ 48) :
    desPath chk ts ks block = pathForm chk (desJoin (desRuns 0 ks (desHalves block))) := by
  have hb : permute desIP 64 (beNat (fitBytes 8 block)) < 2 ^ 64 := permute_lt 64 _ desIP
  have hh := desHalves_lt block
  have split : ∀ b, b < 2 ^ 64 → pathNum chk 64 b / 2 ^ 32 = pathNum chk 32 (b / 2 ^ 32) ∧ pathNum chk 64 b % 2 ^ 32 = pathNum chk 32 (b % 2 ^ 32) := by
    intro b hb
    cases chk
    · exact ⟨rfl, rfl⟩
    · simp only [pathNum, compl, if_true]
      omega
  have hs := split _ hb
  have z := desRun_halves chk ts ks 0 (desHalves block).1 (desHalves block).2 (0, 0) ht hn hk hh.1 hh.2
  simp only [desHalves] at z
  simp only [desPath, hs.1, hs.2]
  rw [z.1, z.2.1]
  have hp := z.2.2
  simp only [desJoin, desHalves]
  generalize desRuns 0 ks (permute desIP 64 (beNat (fitBytes 8 block)) / 2 ^ 32, permute desIP 64 (beNat (fitBytes 8 block)) % 2 ^ 32) = p at *
  have hj : pathNum chk 32 p.1 * 2 ^ 32 + pathNum chk 32 p.2 = pathNum chk 64 (p.1 * 2 ^ 32 + p.2) := by
    cases chk
    · rfl
    · simp only [pathNum, compl, if_true]
      omega
  rw [hj, permute_pathNum chk 64 _ 64 (by omega) desFP rfl (by decide), beBytes_pathNum chk _ (permute_lt 64 _ desFP)]

theorem desKeys_spec (key : List Byte) : (desKeys key).length = 16 ∧ ∀ k ∈ desKeys key, k < 2 ^ 48 := by
  have h : ∀ (sh : List Nat) (acc : Nat × Nat × List Nat), (∀ k ∈ acc.2.2, k < 2 ^ 48) →
      let r := (sh.foldl (fun (acc : Nat × Nat × List Nat) n =>
        let c := desTurn n acc.1
        let d := desTurn n acc.2.1
        (c, d, permute desPC2 56 (c * 2 ^ 28 + d) :: acc.2.2)) acc).2.2
      r.length = acc.2.2.length + sh.length ∧ ∀ k ∈ r, k < 2 ^ 48 := by
    intro sh
    induction sh with
    | nil => intro acc ha; exact ⟨rfl, ha⟩
    | cons n sh ih =>
      intro acc ha
      have := ih (desTurn n acc.1, desTurn n acc.2.1, permute desPC2 56 (desTurn n acc.1 * 2 ^ 28 + desTurn n acc.2.1) :: acc.2.2) (by
        intro k hk
        rcases List.mem_cons.1 hk with rfl | hk
        · exact permute_lt 56 _ desPC2
        · exact ha k hk)
      refine ⟨?_, this.2⟩
      rw [List.foldl_cons, this.1]
      simp
      omega
  have := h desShifts (permute desPC1 64 (beNat (fitBytes 8 key)) / 2 ^ 28, permute desPC1 64 (beNat (fitBytes 8 key)) % 2 ^ 28, []) (by simp)
  refine ⟨?_, fun k hk => this.2 k (List.mem_reverse.1 hk)⟩
  rw [desKeys, List.length_reverse]
  exact this.1

/-- Three passes of sixteen rounds, which make TDES. -/
theorem desRuns_three (a b c : List Nat) (block : List Byte) (ha : a.length = 16) (hb : b.length = 16) (hc : c.length = 16) :
    desJoin (desRuns 0 (a ++ b ++ c) (desHalves block)) = desRounds c (desRounds b (desRounds a block)) := by
  have h := desHalves_lt block
  have h1 := desRuns_lt a (16 * 0) _ h.1 h.2
  have h2 := desRuns_lt b (16 * 1) _ h1.1 h1.2
  rw [desRounds_eq a 0 block ha, desRounds_eq b 1 _ hb, desHalves_desJoin _ h1.1 h1.2, desRounds_eq c 2 _ hc, desHalves_desJoin _ h2.1 h2.2,
    desRuns_append, desRuns_append]
  simp [ha, hb]

/-! ## A datapath -/

/-- Does a datapath run every block in slots that are enough for its rounds and route within its units, as the drawn ones do? -/
def Path.sound (p : Path) : Prop := ∀ i n, (realSlots (p.slots i n)).length = n ∧ ∀ t ∈ p.slots i n, t.within (if n = 48 ∨ n = 16 then 8 else 16)

/-- A datapath whose slots are drawn is sound, whatever the draws. -/
theorem Path.sound_drawn (chk : Bool) (d : Nat → Bool × Nat × Nat) : ({ chk, slots := fun i n => blockSlots (d i).1 (d i).2.1 (d i).2.2 n } : Path).sound :=
  fun _ n => blockSlots_spec _ _ _ n

/-- Is a key as long as its cipher takes it? -/
def longEnough (cipher : Nat) (key : List Byte) : Prop := cipher = 1 ∨ key.length = 16 ∨ key.length = 24 ∨ key.length = 32

/-- A block of AES or TDES in either datapath of a lane is the block of its standard. -/
theorem Path.cipher_eq (p : Path) (h : p.sound) (cipher : Nat) (dec : Bool) (key : List Byte) (i : Nat) (b : List Byte) (hk : longEnough cipher key) :
    p.cipher cipher dec key i b = (if dec then blkDec else blkEnc) cipher key b := by
  have hs := h i (blockRounds cipher key)
  have d := fun j => desKeys_spec (tdesPart key j)
  by_cases hc : cipher = 1
  · subst hc
    have ht : ∀ k ∈ tdesKeys dec key, k < 2 ^ 48 := by
      intro k hk
      cases dec <;>
      · simp only [tdesKeys, Bool.false_eq_true, if_false, if_true, List.mem_append, List.mem_reverse] at hk
        rcases hk with (hk | hk) | hk <;> exact (d _).2 k hk
    have hl : (tdesKeys dec key).length = 48 := by cases dec <;> simp [tdesKeys, (d _).1]
    simp only [blockRounds, if_true] at hs
    simp only [Path.cipher, blockRounds, if_true]
    rw [desPath_eq p.chk _ _ b (by rw [hs.1, hl]) (by simpa using hs.2) ht, pathForm_pathForm]
    cases dec
    · simp only [tdesKeys, Bool.false_eq_true, if_false, blkEnc, if_true, tdesEncrypt, desEncrypt, desDecrypt]
      exact desRuns_three _ _ _ b (d 0).1 (by rw [List.length_reverse]; exact (d 1).1) (d 2).1
    · simp only [tdesKeys, if_true, blkDec, tdesDecrypt, desEncrypt, desDecrypt]
      exact desRuns_three _ _ _ b (by rw [List.length_reverse]; exact (d 2).1) (d 1).1 (by rw [List.length_reverse]; exact (d 0).1)
  · have hk' := hk.resolve_left hc
    have hr : blockRounds cipher key = key.length / 4 + 6 := by simp [blockRounds, hc]
    rw [hr] at hs
    have hu : ¬(key.length / 4 + 6 = 48 ∨ key.length / 4 + 6 = 16) := by omega
    simp only [hu, if_false] at hs
    simp only [Path.cipher, hc, if_false, hr]
    rw [aesPath_eq p.chk dec _ key b (by omega) hs.1 hs.2, pathForm_pathForm]
    cases dec <;> simp [blkEnc, blkDec, hc]

/-- A block of single DES in either datapath is the block of its standard. -/
theorem Path.des_eq (p : Path) (h : p.sound) (key : List Byte) (i : Nat) (b : List Byte) : p.des key i b = desEncrypt key b := by
  have hs := h i 16
  have d := desKeys_spec key
  rw [Path.des, desPath_eq p.chk _ _ b (by rw [hs.1, d.1]) (by simpa using hs.2) d.2, pathForm_pathForm, desEncrypt, desRounds_eq _ 0 b d.1]

/-! ## The lanes of the module -/

variable (s : State)

theorem State.workPath_sound (chk : Bool) : (s.workPath chk).sound :=
  Path.sound_drawn chk fun i => (s.shuffles, s.get R.CC0_DMEAN, s.ci.rounds + blockDraws * i)

theorem State.lanePath_sound (n l : Nat) (chk : Bool) : (s.lanePath n l chk).sound :=
  Path.sound_drawn chk fun i => ((s.drawOf n l i).2.2, (s.drawOf n l i).2.1, (s.drawOf n l i).1)

/-- A value and its complement agree, and one bit upset in either does not. -/
theorem agree_upset (v : List Byte) (ok : Bool) : agree v (upset ok (complement v)) = ok := by
  cases ok
  · cases v with
    | nil => rfl
    | cons b v =>
      have h : b ^^^ (~~~b ^^^ 1#8) ≠ 0xFF#8 := by
        intro h
        have := congrArg (fun x => x.getLsbD 0) h
        simp at this
      simp [upset, complement, agree, xorBytes, h]
  · have h : ∀ l : List Byte, (List.zipWith (· ^^^ ·) l (l.map (~~~ ·))).all (· == 0xFF#8) = true := by
      intro l
      induction l with
      | nil => rfl
      | cons b l ih =>
        have hb : b ^^^ ~~~b = 0xFF#8 := by
          rw [← BitVec.xor_allOnes, ← BitVec.xor_assoc, BitVec.xor_self, BitVec.zero_xor]
          rfl
        simp only [List.map_cons, List.zipWith_cons_cons, List.all_cons, hb, ih]
        rfl
    simp [upset, agree, xorBytes, complement, h]

/-- Lane work that gives the same in every sound datapath gives that, and its twins agree unless something upset them (R127). -/
theorem State.twinRun_eq (key : Masked) (ok : Bool) (f : Path → List Byte → List Byte) (v : List Byte) (h : ∀ p : Path, p.sound → f p key.clear = v) :
    s.twinRun key ok f = (v, ok) := by
  simp only [State.twinRun, h _ (s.workPath_sound false), h _ (s.workPath_sound true), agree_upset]

end Sys2Proof.Machine
end

