-- ==== Sys2Proof/Laws/Sparse.lean ====
section
/-! SUPPORT. The laws of sparse stores: a read after a write, and the canonical form that every write keeps. -/
namespace Sys2Proof.Machine

variable {α : Type}

@[simp] theorem Sparse.get_nil (d : α) (k : Nat) : Sparse.get d [] k = d := rfl

theorem Sparse.get_insert_same (d : α) (m : Sparse α) (k : Nat) (v : α) : Sparse.get d (Sparse.insert m k v) k = v := by
  induction m with
  | nil => simp [Sparse.insert, Sparse.get]
  | cons e m ih =>
    obtain ⟨j, w⟩ := e
    by_cases h1 : k < j <;> by_cases h2 : j = k <;> simp [Sparse.insert, Sparse.get, h1, h2, ih]

theorem Sparse.get_insert_ne (d : α) (m : Sparse α) {k l : Nat} (v : α) (h : k ≠ l) :
    Sparse.get d (Sparse.insert m k v) l = Sparse.get d m l := by
  induction m with
  | nil => simp [Sparse.insert, Sparse.get, h]
  | cons e m ih =>
    obtain ⟨j, w⟩ := e
    by_cases h1 : k < j
    · simp [Sparse.insert, Sparse.get, h1, h]
    · by_cases h2 : j = k
      · subst h2; simp [Sparse.insert, Sparse.get, h]
      · simp [Sparse.insert, Sparse.get, h1, h2, ih]

theorem Sparse.get_erase_same (d : α) (m : Sparse α) (k : Nat) : Sparse.get d (Sparse.erase m k) k = d := by
  induction m with
  | nil => rfl
  | cons e m ih =>
    obtain ⟨j, w⟩ := e
    by_cases h : j = k <;> simp [Sparse.erase, Sparse.get, h, ih]

theorem Sparse.get_erase_ne (d : α) (m : Sparse α) {k l : Nat} (h : k ≠ l) :
    Sparse.get d (Sparse.erase m k) l = Sparse.get d m l := by
  induction m with
  | nil => rfl
  | cons e m ih =>
    obtain ⟨j, w⟩ := e
    by_cases h2 : j = k
    · subst h2; simp [Sparse.erase, Sparse.get, h, ih]
    · simp [Sparse.erase, Sparse.get, h2, ih]

variable [DecidableEq α]

/-- A read of the key just written. -/
@[simp] theorem Sparse.get_set_same (d : α) (m : Sparse α) (k : Nat) (v : α) : Sparse.get d (Sparse.set d m k v) k = v := by
  by_cases h : v = d
  · simp [Sparse.set, h, Sparse.get_erase_same]
  · simp [Sparse.set, h, Sparse.get_insert_same]

/-- A read of any other key. -/
theorem Sparse.get_set_ne (d e : α) (m : Sparse α) {k l : Nat} (v : α) (h : k ≠ l) :
    Sparse.get e (Sparse.set d m k v) l = Sparse.get e m l := by
  by_cases hv : v = d
  · simp [Sparse.set, hv, Sparse.get_erase_ne _ _ h]
  · simp [Sparse.set, hv, Sparse.get_insert_ne _ _ _ h]

/-- A read of the key just changed. -/
@[simp] theorem Sparse.get_upd_same (d : α) (m : Sparse α) (k : Nat) (f : α → α) :
    Sparse.get d (Sparse.upd d m k f) k = f (Sparse.get d m k) := by simp [Sparse.upd]

/-- A read of any other key. -/
theorem Sparse.get_upd_ne (d : α) (m : Sparse α) {k l : Nat} (f : α → α) (h : k ≠ l) :
    Sparse.get d (Sparse.upd d m k f) l = Sparse.get d m l := by simp [Sparse.upd, Sparse.get_set_ne _ _ _ _ h]

/-! ## The canonical form -/

omit [DecidableEq α] in
theorem Sparse.below_insert (m : Sparse α) {j k : Nat} (v : α) (h : Sparse.below j m = true) (hk : j < k) :
    Sparse.below j (Sparse.insert m k v) = true := by
  cases m with
  | nil => simpa [Sparse.insert, Sparse.below] using hk
  | cons e m =>
    obtain ⟨i, w⟩ := e
    simp only [Sparse.below, decide_eq_true_eq] at h
    by_cases h1 : k < i <;> by_cases h2 : i = k <;> simp [Sparse.insert, Sparse.below, h1, h2] <;> omega

omit [DecidableEq α] in
theorem Sparse.below_trans (m : Sparse α) {j k : Nat} (h : Sparse.below k m = true) (hk : j ≤ k) : Sparse.below j m = true := by
  cases m with
  | nil => rfl
  | cons e m =>
    simp only [Sparse.below, decide_eq_true_eq] at h ⊢
    omega

theorem Sparse.below_erase (dk : Nat → α) (m : Sparse α) {j : Nat} (k : Nat) (hw : Sparse.wf dk m = true)
    (h : Sparse.below j m = true) : Sparse.below j (Sparse.erase m k) = true := by
  induction m with
  | nil => rfl
  | cons e m ih =>
    obtain ⟨i, w⟩ := e
    simp only [Sparse.wf, Bool.and_eq_true] at hw
    simp only [Sparse.below, decide_eq_true_eq] at h
    by_cases hi : i = k
    · simp only [Sparse.erase, hi, if_true]
      exact ih hw.2 (Sparse.below_trans m hw.1.1 (by omega))
    · simp [Sparse.erase, hi, Sparse.below]; exact h

theorem Sparse.wf_insert (dk : Nat → α) (m : Sparse α) (k : Nat) (v : α) (hv : v ≠ dk k) (h : Sparse.wf dk m = true) :
    Sparse.wf dk (Sparse.insert m k v) = true := by
  induction m with
  | nil => simp [Sparse.insert, Sparse.wf, Sparse.below, hv]
  | cons e m ih =>
    obtain ⟨j, w⟩ := e
    simp only [Sparse.wf, Bool.and_eq_true] at h
    by_cases h1 : k < j
    · have hb := h.1.1
      have hd := h.1.2
      have hw := h.2
      simp only [Sparse.insert, h1, if_true, Sparse.wf, hb, hw, hd, Bool.and_true, Bool.and_eq_true, decide_eq_true_eq]
      exact ⟨by simpa [Sparse.below] using h1, hv⟩
    · by_cases h2 : j = k
      · subst h2; simp [Sparse.insert, Sparse.wf, h.1.1, h.2, hv]
      · have : Sparse.below j (Sparse.insert m k v) = true := Sparse.below_insert m v h.1.1 (by omega)
        simp [Sparse.insert, h1, h2, Sparse.wf, this, ih h.2]
        simpa using h.1.2

theorem Sparse.wf_erase (dk : Nat → α) (m : Sparse α) (k : Nat) (h : Sparse.wf dk m = true) :
    Sparse.wf dk (Sparse.erase m k) = true := by
  induction m with
  | nil => rfl
  | cons e m ih =>
    obtain ⟨j, w⟩ := e
    have h' := h
    simp only [Sparse.wf, Bool.and_eq_true] at h'
    by_cases h2 : j = k
    · simpa [Sparse.erase, h2] using ih h'.2
    · simp only [Sparse.erase, h2, if_false, Sparse.wf, Bool.and_eq_true]
      exact ⟨⟨Sparse.below_erase dk m k h'.2 h'.1.1, h'.1.2⟩, ih h'.2⟩

/-- A write keeps the canonical form, where the default it uses is that of its key. -/
theorem Sparse.wf_set (dk : Nat → α) (m : Sparse α) (k : Nat) (v : α) (h : Sparse.wf dk m = true) :
    Sparse.wf dk (Sparse.set (dk k) m k v) = true := by
  by_cases hv : v = dk k
  · simp only [Sparse.set, hv, if_true]; exact Sparse.wf_erase dk m k h
  · simp only [Sparse.set, hv, if_false]; exact Sparse.wf_insert dk m k v hv h

/-- A read after every listed value was changed, by a change that keeps the default. -/
theorem Sparse.get_mapVals (d : α) (f : Nat → α → α) (m : Sparse α) (k : Nat) (h : f k d = d) :
    Sparse.get d (Sparse.mapVals d f m) k = f k (Sparse.get d m k) := by
  induction m with
  | nil => simp [Sparse.mapVals, h]
  | cons e m ih =>
    obtain ⟨j, v⟩ := e
    by_cases hj : j = k
    · subst hj
      by_cases hd : f j v = d
      · simp [Sparse.mapVals, hd, Sparse.get, Sparse.get_erase_same]
      · simp [Sparse.mapVals, hd, Sparse.get]
    · by_cases hd : f j v = d
      · simp [Sparse.mapVals, hd, Sparse.get, hj, Sparse.get_erase_ne _ _ hj, ih]
      · simp [Sparse.mapVals, hd, Sparse.get, hj, ih]

/-- A change of every listed value keeps the canonical form, and keeps keys below a bound. -/
theorem Sparse.wf_below_mapVals (d : α) (f : Nat → α → α) (m : Sparse α) (h : Sparse.wf (fun _ => d) m = true) :
    Sparse.wf (fun _ => d) (Sparse.mapVals d f m) = true ∧
    ∀ j, Sparse.below j m = true → Sparse.below j (Sparse.mapVals d f m) = true := by
  induction m with
  | nil => exact ⟨rfl, fun _ _ => rfl⟩
  | cons e m ih =>
    obtain ⟨i, w⟩ := e
    simp only [Sparse.wf, Bool.and_eq_true] at h
    obtain ⟨hw, hb⟩ := ih h.2
    by_cases hi : f i w = d
    · simp only [Sparse.mapVals, hi, if_true]
      refine ⟨Sparse.wf_erase _ _ _ hw, fun j hj => ?_⟩
      simp only [Sparse.below, decide_eq_true_eq] at hj
      exact Sparse.below_erase (fun _ => d) _ _ hw (hb j (Sparse.below_trans m h.1.1 (by omega)))
    · simp only [Sparse.mapVals, hi, if_false, Sparse.wf, Bool.and_eq_true]
      exact ⟨⟨⟨hb i h.1.1, by simpa using hi⟩, hw⟩, fun j hj => by simpa [Sparse.below] using hj⟩

/-- A change of every listed value keeps the canonical form. -/
theorem Sparse.wf_mapVals (d : α) (f : Nat → α → α) (m : Sparse α) (h : Sparse.wf (fun _ => d) m = true) :
    Sparse.wf (fun _ => d) (Sparse.mapVals d f m) = true := (Sparse.wf_below_mapVals d f m h).1

end Sys2Proof.Machine
end

