-- ==== Sys2Proof/Laws/State.lean ====
section
/-! SUPPORT. What each update of the state leaves alone, field by field, and what it sets: proofs cite these lemmas and unfold no update. -/
namespace Sys2Proof.Machine

variable (s : State)


/-! ## `State.set` -/

@[simp] theorem State.set_mode (f : Field) (v : Nat) : (s.set f v).mode = s.mode := rfl
@[simp] theorem State.set_parts (f : Field) (v : Nat) : (s.set f v).parts = s.parts := rfl
@[simp] theorem State.set_hq (f : Field) (v : Nat) : (s.set f v).hq = s.hq := rfl
@[simp] theorem State.set_sq (f : Field) (v : Nat) : (s.set f v).sq = s.sq := rfl
@[simp] theorem State.set_ci (f : Field) (v : Nat) : (s.set f v).ci = s.ci := rfl
@[simp] theorem State.set_ge (f : Field) (v : Nat) : (s.set f v).ge = s.ge := rfl
@[simp] theorem State.set_arbs (f : Field) (v : Nat) : (s.set f v).arbs = s.arbs := rfl
@[simp] theorem State.set_pk (f : Field) (v : Nat) : (s.set f v).pk = s.pk := rfl
@[simp] theorem State.set_fl (f : Field) (v : Nat) : (s.set f v).fl = s.fl := rfl
@[simp] theorem State.set_ob (f : Field) (v : Nat) : (s.set f v).ob = s.ob := rfl
@[simp] theorem State.set_pw (f : Field) (v : Nat) : (s.set f v).pw = s.pw := rfl
@[simp] theorem State.set_pr (f : Field) (v : Nat) : (s.set f v).pr = s.pr := rfl
@[simp] theorem State.set_lc (f : Field) (v : Nat) : (s.set f v).lc = s.lc := rfl
@[simp] theorem State.set_dm (f : Field) (v : Nat) : (s.set f v).dm = s.dm := rfl
@[simp] theorem State.set_bt (f : Field) (v : Nat) : (s.set f v).bt = s.bt := rfl
@[simp] theorem State.set_hb (f : Field) (v : Nat) : (s.set f v).hb = s.hb := rfl
@[simp] theorem State.set_gt (f : Field) (v : Nat) : (s.set f v).gt = s.gt := rfl
@[simp] theorem State.set_sc (f : Field) (v : Nat) : (s.set f v).sc = s.sc := rfl
@[simp] theorem State.set_qz (f : Field) (v : Nat) : (s.set f v).qz = s.qz := rfl
@[simp] theorem State.set_ag (f : Field) (v : Nat) : (s.set f v).ag = s.ag := rfl
@[simp] theorem State.set_ln (f : Field) (v : Nat) : (s.set f v).ln = s.ln := rfl
@[simp] theorem State.set_cd (f : Field) (v : Nat) : (s.set f v).cd = s.cd := rfl
@[simp] theorem State.set_jr (f : Field) (v : Nat) : (s.set f v).jr = s.jr := rfl
@[simp] theorem State.set_quartz (f : Field) (v : Nat) : (s.set f v).quartz = s.quartz := rfl
@[simp] theorem State.set_randoms (f : Field) (v : Nat) : (s.set f v).randoms = s.randoms := rfl
@[simp] theorem State.set_frees (f : Field) (v : Nat) : (s.set f v).frees = s.frees := rfl
@[simp] theorem State.set_out (f : Field) (v : Nat) : (s.set f v).out = s.out := rfl
@[simp] theorem State.set_pending (f : Field) (v : Nat) : (s.set f v).pending = s.pending := rfl
@[simp] theorem State.set_part (f : Field) (v : Nat) (p₀ : Nat) : (s.set f v).part p₀ = s.part p₀ := rfl
@[simp] theorem State.set_ctx (f : Field) (v : Nat) (k₀ : Nat) : (s.set f v).ctx k₀ = s.ctx k₀ := rfl
@[simp] theorem State.set_qp (f : Field) (v : Nat) (p₀ q₀ : Nat) : (s.set f v).qp p₀ q₀ = s.qp p₀ q₀ := rfl

/-! ## `State.count` -/

@[simp] theorem State.count_mode (f : Field) (d : Nat) : (s.count f d).mode = s.mode := rfl
@[simp] theorem State.count_parts (f : Field) (d : Nat) : (s.count f d).parts = s.parts := rfl
@[simp] theorem State.count_hq (f : Field) (d : Nat) : (s.count f d).hq = s.hq := rfl
@[simp] theorem State.count_sq (f : Field) (d : Nat) : (s.count f d).sq = s.sq := rfl
@[simp] theorem State.count_ci (f : Field) (d : Nat) : (s.count f d).ci = s.ci := rfl
@[simp] theorem State.count_ge (f : Field) (d : Nat) : (s.count f d).ge = s.ge := rfl
@[simp] theorem State.count_arbs (f : Field) (d : Nat) : (s.count f d).arbs = s.arbs := rfl
@[simp] theorem State.count_pk (f : Field) (d : Nat) : (s.count f d).pk = s.pk := rfl
@[simp] theorem State.count_fl (f : Field) (d : Nat) : (s.count f d).fl = s.fl := rfl
@[simp] theorem State.count_ob (f : Field) (d : Nat) : (s.count f d).ob = s.ob := rfl
@[simp] theorem State.count_pw (f : Field) (d : Nat) : (s.count f d).pw = s.pw := rfl
@[simp] theorem State.count_pr (f : Field) (d : Nat) : (s.count f d).pr = s.pr := rfl
@[simp] theorem State.count_lc (f : Field) (d : Nat) : (s.count f d).lc = s.lc := rfl
@[simp] theorem State.count_dm (f : Field) (d : Nat) : (s.count f d).dm = s.dm := rfl
@[simp] theorem State.count_bt (f : Field) (d : Nat) : (s.count f d).bt = s.bt := rfl
@[simp] theorem State.count_hb (f : Field) (d : Nat) : (s.count f d).hb = s.hb := rfl
@[simp] theorem State.count_gt (f : Field) (d : Nat) : (s.count f d).gt = s.gt := rfl
@[simp] theorem State.count_sc (f : Field) (d : Nat) : (s.count f d).sc = s.sc := rfl
@[simp] theorem State.count_qz (f : Field) (d : Nat) : (s.count f d).qz = s.qz := rfl
@[simp] theorem State.count_ag (f : Field) (d : Nat) : (s.count f d).ag = s.ag := rfl
@[simp] theorem State.count_ln (f : Field) (d : Nat) : (s.count f d).ln = s.ln := rfl
@[simp] theorem State.count_cd (f : Field) (d : Nat) : (s.count f d).cd = s.cd := rfl
@[simp] theorem State.count_jr (f : Field) (d : Nat) : (s.count f d).jr = s.jr := rfl
@[simp] theorem State.count_quartz (f : Field) (d : Nat) : (s.count f d).quartz = s.quartz := rfl
@[simp] theorem State.count_randoms (f : Field) (d : Nat) : (s.count f d).randoms = s.randoms := rfl
@[simp] theorem State.count_frees (f : Field) (d : Nat) : (s.count f d).frees = s.frees := rfl
@[simp] theorem State.count_out (f : Field) (d : Nat) : (s.count f d).out = s.out := rfl
@[simp] theorem State.count_pending (f : Field) (d : Nat) : (s.count f d).pending = s.pending := rfl
@[simp] theorem State.count_part (f : Field) (d : Nat) (p₀ : Nat) : (s.count f d).part p₀ = s.part p₀ := rfl
@[simp] theorem State.count_ctx (f : Field) (d : Nat) (k₀ : Nat) : (s.count f d).ctx k₀ = s.ctx k₀ := rfl
@[simp] theorem State.count_qp (f : Field) (d : Nat) (p₀ q₀ : Nat) : (s.count f d).qp p₀ q₀ = s.qp p₀ q₀ := rfl

/-! ## `State.countSat` -/

@[simp] theorem State.countSat_mode (f : Field) (d : Nat) : (s.countSat f d).mode = s.mode := rfl
@[simp] theorem State.countSat_parts (f : Field) (d : Nat) : (s.countSat f d).parts = s.parts := rfl
@[simp] theorem State.countSat_hq (f : Field) (d : Nat) : (s.countSat f d).hq = s.hq := rfl
@[simp] theorem State.countSat_sq (f : Field) (d : Nat) : (s.countSat f d).sq = s.sq := rfl
@[simp] theorem State.countSat_ci (f : Field) (d : Nat) : (s.countSat f d).ci = s.ci := rfl
@[simp] theorem State.countSat_ge (f : Field) (d : Nat) : (s.countSat f d).ge = s.ge := rfl
@[simp] theorem State.countSat_arbs (f : Field) (d : Nat) : (s.countSat f d).arbs = s.arbs := rfl
@[simp] theorem State.countSat_pk (f : Field) (d : Nat) : (s.countSat f d).pk = s.pk := rfl
@[simp] theorem State.countSat_fl (f : Field) (d : Nat) : (s.countSat f d).fl = s.fl := rfl
@[simp] theorem State.countSat_ob (f : Field) (d : Nat) : (s.countSat f d).ob = s.ob := rfl
@[simp] theorem State.countSat_pw (f : Field) (d : Nat) : (s.countSat f d).pw = s.pw := rfl
@[simp] theorem State.countSat_pr (f : Field) (d : Nat) : (s.countSat f d).pr = s.pr := rfl
@[simp] theorem State.countSat_lc (f : Field) (d : Nat) : (s.countSat f d).lc = s.lc := rfl
@[simp] theorem State.countSat_dm (f : Field) (d : Nat) : (s.countSat f d).dm = s.dm := rfl
@[simp] theorem State.countSat_bt (f : Field) (d : Nat) : (s.countSat f d).bt = s.bt := rfl
@[simp] theorem State.countSat_hb (f : Field) (d : Nat) : (s.countSat f d).hb = s.hb := rfl
@[simp] theorem State.countSat_gt (f : Field) (d : Nat) : (s.countSat f d).gt = s.gt := rfl
@[simp] theorem State.countSat_sc (f : Field) (d : Nat) : (s.countSat f d).sc = s.sc := rfl
@[simp] theorem State.countSat_qz (f : Field) (d : Nat) : (s.countSat f d).qz = s.qz := rfl
@[simp] theorem State.countSat_ag (f : Field) (d : Nat) : (s.countSat f d).ag = s.ag := rfl
@[simp] theorem State.countSat_ln (f : Field) (d : Nat) : (s.countSat f d).ln = s.ln := rfl
@[simp] theorem State.countSat_cd (f : Field) (d : Nat) : (s.countSat f d).cd = s.cd := rfl
@[simp] theorem State.countSat_jr (f : Field) (d : Nat) : (s.countSat f d).jr = s.jr := rfl
@[simp] theorem State.countSat_quartz (f : Field) (d : Nat) : (s.countSat f d).quartz = s.quartz := rfl
@[simp] theorem State.countSat_randoms (f : Field) (d : Nat) : (s.countSat f d).randoms = s.randoms := rfl
@[simp] theorem State.countSat_frees (f : Field) (d : Nat) : (s.countSat f d).frees = s.frees := rfl
@[simp] theorem State.countSat_out (f : Field) (d : Nat) : (s.countSat f d).out = s.out := rfl
@[simp] theorem State.countSat_pending (f : Field) (d : Nat) : (s.countSat f d).pending = s.pending := rfl
@[simp] theorem State.countSat_part (f : Field) (d : Nat) (p₀ : Nat) : (s.countSat f d).part p₀ = s.part p₀ := rfl
@[simp] theorem State.countSat_ctx (f : Field) (d : Nat) (k₀ : Nat) : (s.countSat f d).ctx k₀ = s.ctx k₀ := rfl
@[simp] theorem State.countSat_qp (f : Field) (d : Nat) (p₀ q₀ : Nat) : (s.countSat f d).qp p₀ q₀ = s.qp p₀ q₀ := rfl

/-! ## `State.keepMax` -/

@[simp] theorem State.keepMax_mode (f : Field) (v : Nat) : (s.keepMax f v).mode = s.mode := rfl
@[simp] theorem State.keepMax_parts (f : Field) (v : Nat) : (s.keepMax f v).parts = s.parts := rfl
@[simp] theorem State.keepMax_hq (f : Field) (v : Nat) : (s.keepMax f v).hq = s.hq := rfl
@[simp] theorem State.keepMax_sq (f : Field) (v : Nat) : (s.keepMax f v).sq = s.sq := rfl
@[simp] theorem State.keepMax_ci (f : Field) (v : Nat) : (s.keepMax f v).ci = s.ci := rfl
@[simp] theorem State.keepMax_ge (f : Field) (v : Nat) : (s.keepMax f v).ge = s.ge := rfl
@[simp] theorem State.keepMax_arbs (f : Field) (v : Nat) : (s.keepMax f v).arbs = s.arbs := rfl
@[simp] theorem State.keepMax_pk (f : Field) (v : Nat) : (s.keepMax f v).pk = s.pk := rfl
@[simp] theorem State.keepMax_fl (f : Field) (v : Nat) : (s.keepMax f v).fl = s.fl := rfl
@[simp] theorem State.keepMax_ob (f : Field) (v : Nat) : (s.keepMax f v).ob = s.ob := rfl
@[simp] theorem State.keepMax_pw (f : Field) (v : Nat) : (s.keepMax f v).pw = s.pw := rfl
@[simp] theorem State.keepMax_pr (f : Field) (v : Nat) : (s.keepMax f v).pr = s.pr := rfl
@[simp] theorem State.keepMax_lc (f : Field) (v : Nat) : (s.keepMax f v).lc = s.lc := rfl
@[simp] theorem State.keepMax_dm (f : Field) (v : Nat) : (s.keepMax f v).dm = s.dm := rfl
@[simp] theorem State.keepMax_bt (f : Field) (v : Nat) : (s.keepMax f v).bt = s.bt := rfl
@[simp] theorem State.keepMax_hb (f : Field) (v : Nat) : (s.keepMax f v).hb = s.hb := rfl
@[simp] theorem State.keepMax_gt (f : Field) (v : Nat) : (s.keepMax f v).gt = s.gt := rfl
@[simp] theorem State.keepMax_sc (f : Field) (v : Nat) : (s.keepMax f v).sc = s.sc := rfl
@[simp] theorem State.keepMax_qz (f : Field) (v : Nat) : (s.keepMax f v).qz = s.qz := rfl
@[simp] theorem State.keepMax_ag (f : Field) (v : Nat) : (s.keepMax f v).ag = s.ag := rfl
@[simp] theorem State.keepMax_ln (f : Field) (v : Nat) : (s.keepMax f v).ln = s.ln := rfl
@[simp] theorem State.keepMax_cd (f : Field) (v : Nat) : (s.keepMax f v).cd = s.cd := rfl
@[simp] theorem State.keepMax_jr (f : Field) (v : Nat) : (s.keepMax f v).jr = s.jr := rfl
@[simp] theorem State.keepMax_quartz (f : Field) (v : Nat) : (s.keepMax f v).quartz = s.quartz := rfl
@[simp] theorem State.keepMax_randoms (f : Field) (v : Nat) : (s.keepMax f v).randoms = s.randoms := rfl
@[simp] theorem State.keepMax_frees (f : Field) (v : Nat) : (s.keepMax f v).frees = s.frees := rfl
@[simp] theorem State.keepMax_out (f : Field) (v : Nat) : (s.keepMax f v).out = s.out := rfl
@[simp] theorem State.keepMax_pending (f : Field) (v : Nat) : (s.keepMax f v).pending = s.pending := rfl
@[simp] theorem State.keepMax_part (f : Field) (v : Nat) (p₀ : Nat) : (s.keepMax f v).part p₀ = s.part p₀ := rfl
@[simp] theorem State.keepMax_ctx (f : Field) (v : Nat) (k₀ : Nat) : (s.keepMax f v).ctx k₀ = s.ctx k₀ := rfl
@[simp] theorem State.keepMax_qp (f : Field) (v : Nat) (p₀ q₀ : Nat) : (s.keepMax f v).qp p₀ q₀ = s.qp p₀ q₀ := rfl

/-! ## `State.setBit` -/

@[simp] theorem State.setBit_mode (f : Field) (i : Nat) (b : Bool) : (s.setBit f i b).mode = s.mode := rfl
@[simp] theorem State.setBit_parts (f : Field) (i : Nat) (b : Bool) : (s.setBit f i b).parts = s.parts := rfl
@[simp] theorem State.setBit_hq (f : Field) (i : Nat) (b : Bool) : (s.setBit f i b).hq = s.hq := rfl
@[simp] theorem State.setBit_sq (f : Field) (i : Nat) (b : Bool) : (s.setBit f i b).sq = s.sq := rfl
@[simp] theorem State.setBit_ci (f : Field) (i : Nat) (b : Bool) : (s.setBit f i b).ci = s.ci := rfl
@[simp] theorem State.setBit_ge (f : Field) (i : Nat) (b : Bool) : (s.setBit f i b).ge = s.ge := rfl
@[simp] theorem State.setBit_arbs (f : Field) (i : Nat) (b : Bool) : (s.setBit f i b).arbs = s.arbs := rfl
@[simp] theorem State.setBit_pk (f : Field) (i : Nat) (b : Bool) : (s.setBit f i b).pk = s.pk := rfl
@[simp] theorem State.setBit_fl (f : Field) (i : Nat) (b : Bool) : (s.setBit f i b).fl = s.fl := rfl
@[simp] theorem State.setBit_ob (f : Field) (i : Nat) (b : Bool) : (s.setBit f i b).ob = s.ob := rfl
@[simp] theorem State.setBit_pw (f : Field) (i : Nat) (b : Bool) : (s.setBit f i b).pw = s.pw := rfl
@[simp] theorem State.setBit_pr (f : Field) (i : Nat) (b : Bool) : (s.setBit f i b).pr = s.pr := rfl
@[simp] theorem State.setBit_lc (f : Field) (i : Nat) (b : Bool) : (s.setBit f i b).lc = s.lc := rfl
@[simp] theorem State.setBit_dm (f : Field) (i : Nat) (b : Bool) : (s.setBit f i b).dm = s.dm := rfl
@[simp] theorem State.setBit_bt (f : Field) (i : Nat) (b : Bool) : (s.setBit f i b).bt = s.bt := rfl
@[simp] theorem State.setBit_hb (f : Field) (i : Nat) (b : Bool) : (s.setBit f i b).hb = s.hb := rfl
@[simp] theorem State.setBit_gt (f : Field) (i : Nat) (b : Bool) : (s.setBit f i b).gt = s.gt := rfl
@[simp] theorem State.setBit_sc (f : Field) (i : Nat) (b : Bool) : (s.setBit f i b).sc = s.sc := rfl
@[simp] theorem State.setBit_qz (f : Field) (i : Nat) (b : Bool) : (s.setBit f i b).qz = s.qz := rfl
@[simp] theorem State.setBit_ag (f : Field) (i : Nat) (b : Bool) : (s.setBit f i b).ag = s.ag := rfl
@[simp] theorem State.setBit_ln (f : Field) (i : Nat) (b : Bool) : (s.setBit f i b).ln = s.ln := rfl
@[simp] theorem State.setBit_cd (f : Field) (i : Nat) (b : Bool) : (s.setBit f i b).cd = s.cd := rfl
@[simp] theorem State.setBit_jr (f : Field) (i : Nat) (b : Bool) : (s.setBit f i b).jr = s.jr := rfl
@[simp] theorem State.setBit_quartz (f : Field) (i : Nat) (b : Bool) : (s.setBit f i b).quartz = s.quartz := rfl
@[simp] theorem State.setBit_randoms (f : Field) (i : Nat) (b : Bool) : (s.setBit f i b).randoms = s.randoms := rfl
@[simp] theorem State.setBit_frees (f : Field) (i : Nat) (b : Bool) : (s.setBit f i b).frees = s.frees := rfl
@[simp] theorem State.setBit_out (f : Field) (i : Nat) (b : Bool) : (s.setBit f i b).out = s.out := rfl
@[simp] theorem State.setBit_pending (f : Field) (i : Nat) (b : Bool) : (s.setBit f i b).pending = s.pending := rfl
@[simp] theorem State.setBit_part (f : Field) (i : Nat) (b : Bool) (p₀ : Nat) : (s.setBit f i b).part p₀ = s.part p₀ := rfl
@[simp] theorem State.setBit_ctx (f : Field) (i : Nat) (b : Bool) (k₀ : Nat) : (s.setBit f i b).ctx k₀ = s.ctx k₀ := rfl
@[simp] theorem State.setBit_qp (f : Field) (i : Nat) (b : Bool) (p₀ q₀ : Nat) : (s.setBit f i b).qp p₀ q₀ = s.qp p₀ q₀ := rfl

/-! ## `State.resetPage` -/

@[simp] theorem State.resetPage_mode (p : Nat) : (s.resetPage p).mode = s.mode := rfl
@[simp] theorem State.resetPage_parts (p : Nat) : (s.resetPage p).parts = s.parts := rfl
@[simp] theorem State.resetPage_hq (p : Nat) : (s.resetPage p).hq = s.hq := rfl
@[simp] theorem State.resetPage_sq (p : Nat) : (s.resetPage p).sq = s.sq := rfl
@[simp] theorem State.resetPage_ci (p : Nat) : (s.resetPage p).ci = s.ci := rfl
@[simp] theorem State.resetPage_ge (p : Nat) : (s.resetPage p).ge = s.ge := rfl
@[simp] theorem State.resetPage_arbs (p : Nat) : (s.resetPage p).arbs = s.arbs := rfl
@[simp] theorem State.resetPage_pk (p : Nat) : (s.resetPage p).pk = s.pk := rfl
@[simp] theorem State.resetPage_fl (p : Nat) : (s.resetPage p).fl = s.fl := rfl
@[simp] theorem State.resetPage_ob (p : Nat) : (s.resetPage p).ob = s.ob := rfl
@[simp] theorem State.resetPage_pw (p : Nat) : (s.resetPage p).pw = s.pw := rfl
@[simp] theorem State.resetPage_pr (p : Nat) : (s.resetPage p).pr = s.pr := rfl
@[simp] theorem State.resetPage_lc (p : Nat) : (s.resetPage p).lc = s.lc := rfl
@[simp] theorem State.resetPage_dm (p : Nat) : (s.resetPage p).dm = s.dm := rfl
@[simp] theorem State.resetPage_bt (p : Nat) : (s.resetPage p).bt = s.bt := rfl
@[simp] theorem State.resetPage_hb (p : Nat) : (s.resetPage p).hb = s.hb := rfl
@[simp] theorem State.resetPage_gt (p : Nat) : (s.resetPage p).gt = s.gt := rfl
@[simp] theorem State.resetPage_sc (p : Nat) : (s.resetPage p).sc = s.sc := rfl
@[simp] theorem State.resetPage_qz (p : Nat) : (s.resetPage p).qz = s.qz := rfl
@[simp] theorem State.resetPage_ag (p : Nat) : (s.resetPage p).ag = s.ag := rfl
@[simp] theorem State.resetPage_ln (p : Nat) : (s.resetPage p).ln = s.ln := rfl
@[simp] theorem State.resetPage_cd (p : Nat) : (s.resetPage p).cd = s.cd := rfl
@[simp] theorem State.resetPage_jr (p : Nat) : (s.resetPage p).jr = s.jr := rfl
@[simp] theorem State.resetPage_quartz (p : Nat) : (s.resetPage p).quartz = s.quartz := rfl
@[simp] theorem State.resetPage_randoms (p : Nat) : (s.resetPage p).randoms = s.randoms := rfl
@[simp] theorem State.resetPage_frees (p : Nat) : (s.resetPage p).frees = s.frees := rfl
@[simp] theorem State.resetPage_out (p : Nat) : (s.resetPage p).out = s.out := rfl
@[simp] theorem State.resetPage_pending (p : Nat) : (s.resetPage p).pending = s.pending := rfl
@[simp] theorem State.resetPage_part (p : Nat) (p₀ : Nat) : (s.resetPage p).part p₀ = s.part p₀ := rfl
@[simp] theorem State.resetPage_ctx (p : Nat) (k₀ : Nat) : (s.resetPage p).ctx k₀ = s.ctx k₀ := rfl
@[simp] theorem State.resetPage_qp (p : Nat) (p₀ q₀ : Nat) : (s.resetPage p).qp p₀ q₀ = s.qp p₀ q₀ := rfl

/-! ## `State.touch` -/

@[simp] theorem State.touch_regs (i : Nat) : (s.touch i).regs = s.regs := rfl
@[simp] theorem State.touch_mode (i : Nat) : (s.touch i).mode = s.mode := rfl
@[simp] theorem State.touch_parts (i : Nat) : (s.touch i).parts = s.parts := rfl
@[simp] theorem State.touch_hq (i : Nat) : (s.touch i).hq = s.hq := rfl
@[simp] theorem State.touch_sq (i : Nat) : (s.touch i).sq = s.sq := rfl
@[simp] theorem State.touch_ci (i : Nat) : (s.touch i).ci = s.ci := rfl
@[simp] theorem State.touch_ge (i : Nat) : (s.touch i).ge = s.ge := rfl
@[simp] theorem State.touch_arbs (i : Nat) : (s.touch i).arbs = s.arbs := rfl
@[simp] theorem State.touch_pk (i : Nat) : (s.touch i).pk = s.pk := rfl
@[simp] theorem State.touch_fl (i : Nat) : (s.touch i).fl = s.fl := rfl
@[simp] theorem State.touch_ob (i : Nat) : (s.touch i).ob = s.ob := rfl
@[simp] theorem State.touch_pr (i : Nat) : (s.touch i).pr = s.pr := rfl
@[simp] theorem State.touch_lc (i : Nat) : (s.touch i).lc = s.lc := rfl
@[simp] theorem State.touch_dm (i : Nat) : (s.touch i).dm = s.dm := rfl
@[simp] theorem State.touch_bt (i : Nat) : (s.touch i).bt = s.bt := rfl
@[simp] theorem State.touch_hb (i : Nat) : (s.touch i).hb = s.hb := rfl
@[simp] theorem State.touch_gt (i : Nat) : (s.touch i).gt = s.gt := rfl
@[simp] theorem State.touch_sc (i : Nat) : (s.touch i).sc = s.sc := rfl
@[simp] theorem State.touch_qz (i : Nat) : (s.touch i).qz = s.qz := rfl
@[simp] theorem State.touch_ag (i : Nat) : (s.touch i).ag = s.ag := rfl
@[simp] theorem State.touch_ln (i : Nat) : (s.touch i).ln = s.ln := rfl
@[simp] theorem State.touch_cd (i : Nat) : (s.touch i).cd = s.cd := rfl
@[simp] theorem State.touch_jr (i : Nat) : (s.touch i).jr = s.jr := rfl
@[simp] theorem State.touch_quartz (i : Nat) : (s.touch i).quartz = s.quartz := rfl
@[simp] theorem State.touch_randoms (i : Nat) : (s.touch i).randoms = s.randoms := rfl
@[simp] theorem State.touch_frees (i : Nat) : (s.touch i).frees = s.frees := rfl
@[simp] theorem State.touch_out (i : Nat) : (s.touch i).out = s.out := rfl
@[simp] theorem State.touch_pending (i : Nat) : (s.touch i).pending = s.pending := rfl
@[simp] theorem State.touch_get (i : Nat) (r : Field) : (s.touch i).get r = s.get r := rfl
@[simp] theorem State.touch_bit (i : Nat) (r : Field) (j : Nat) : (s.touch i).bit r j = s.bit r j := rfl
@[simp] theorem State.touch_part (i : Nat) (p₀ : Nat) : (s.touch i).part p₀ = s.part p₀ := rfl
@[simp] theorem State.touch_ctx (i : Nat) (k₀ : Nat) : (s.touch i).ctx k₀ = s.ctx k₀ := rfl
@[simp] theorem State.touch_qp (i : Nat) (p₀ q₀ : Nat) : (s.touch i).qp p₀ q₀ = s.qp p₀ q₀ := rfl

/-! ## `State.cross` -/

@[simp] theorem State.cross_regs (i : Nat) : (s.cross i).regs = s.regs := rfl
@[simp] theorem State.cross_mode (i : Nat) : (s.cross i).mode = s.mode := rfl
@[simp] theorem State.cross_parts (i : Nat) : (s.cross i).parts = s.parts := rfl
@[simp] theorem State.cross_hq (i : Nat) : (s.cross i).hq = s.hq := rfl
@[simp] theorem State.cross_sq (i : Nat) : (s.cross i).sq = s.sq := rfl
@[simp] theorem State.cross_ci (i : Nat) : (s.cross i).ci = s.ci := rfl
@[simp] theorem State.cross_ge (i : Nat) : (s.cross i).ge = s.ge := rfl
@[simp] theorem State.cross_arbs (i : Nat) : (s.cross i).arbs = s.arbs := rfl
@[simp] theorem State.cross_pk (i : Nat) : (s.cross i).pk = s.pk := rfl
@[simp] theorem State.cross_fl (i : Nat) : (s.cross i).fl = s.fl := rfl
@[simp] theorem State.cross_ob (i : Nat) : (s.cross i).ob = s.ob := rfl
@[simp] theorem State.cross_pr (i : Nat) : (s.cross i).pr = s.pr := rfl
@[simp] theorem State.cross_lc (i : Nat) : (s.cross i).lc = s.lc := rfl
@[simp] theorem State.cross_dm (i : Nat) : (s.cross i).dm = s.dm := rfl
@[simp] theorem State.cross_bt (i : Nat) : (s.cross i).bt = s.bt := rfl
@[simp] theorem State.cross_hb (i : Nat) : (s.cross i).hb = s.hb := rfl
@[simp] theorem State.cross_gt (i : Nat) : (s.cross i).gt = s.gt := rfl
@[simp] theorem State.cross_sc (i : Nat) : (s.cross i).sc = s.sc := rfl
@[simp] theorem State.cross_qz (i : Nat) : (s.cross i).qz = s.qz := rfl
@[simp] theorem State.cross_ag (i : Nat) : (s.cross i).ag = s.ag := rfl
@[simp] theorem State.cross_ln (i : Nat) : (s.cross i).ln = s.ln := rfl
@[simp] theorem State.cross_cd (i : Nat) : (s.cross i).cd = s.cd := rfl
@[simp] theorem State.cross_jr (i : Nat) : (s.cross i).jr = s.jr := rfl
@[simp] theorem State.cross_quartz (i : Nat) : (s.cross i).quartz = s.quartz := rfl
@[simp] theorem State.cross_randoms (i : Nat) : (s.cross i).randoms = s.randoms := rfl
@[simp] theorem State.cross_frees (i : Nat) : (s.cross i).frees = s.frees := rfl
@[simp] theorem State.cross_out (i : Nat) : (s.cross i).out = s.out := rfl
@[simp] theorem State.cross_pending (i : Nat) : (s.cross i).pending = s.pending := rfl
@[simp] theorem State.cross_get (i : Nat) (r : Field) : (s.cross i).get r = s.get r := rfl
@[simp] theorem State.cross_bit (i : Nat) (r : Field) (j : Nat) : (s.cross i).bit r j = s.bit r j := rfl
@[simp] theorem State.cross_part (i : Nat) (p₀ : Nat) : (s.cross i).part p₀ = s.part p₀ := rfl
@[simp] theorem State.cross_ctx (i : Nat) (k₀ : Nat) : (s.cross i).ctx k₀ = s.ctx k₀ := rfl
@[simp] theorem State.cross_qp (i : Nat) (p₀ q₀ : Nat) : (s.cross i).qp p₀ q₀ = s.qp p₀ q₀ := rfl

/-! ## `State.crossHbm` -/

@[simp] theorem State.crossHbm_regs (a : Nat) : (s.crossHbm a).regs = s.regs := rfl
@[simp] theorem State.crossHbm_mode (a : Nat) : (s.crossHbm a).mode = s.mode := rfl
@[simp] theorem State.crossHbm_parts (a : Nat) : (s.crossHbm a).parts = s.parts := rfl
@[simp] theorem State.crossHbm_hq (a : Nat) : (s.crossHbm a).hq = s.hq := rfl
@[simp] theorem State.crossHbm_sq (a : Nat) : (s.crossHbm a).sq = s.sq := rfl
@[simp] theorem State.crossHbm_ci (a : Nat) : (s.crossHbm a).ci = s.ci := rfl
@[simp] theorem State.crossHbm_ge (a : Nat) : (s.crossHbm a).ge = s.ge := rfl
@[simp] theorem State.crossHbm_arbs (a : Nat) : (s.crossHbm a).arbs = s.arbs := rfl
@[simp] theorem State.crossHbm_pk (a : Nat) : (s.crossHbm a).pk = s.pk := rfl
@[simp] theorem State.crossHbm_fl (a : Nat) : (s.crossHbm a).fl = s.fl := rfl
@[simp] theorem State.crossHbm_ob (a : Nat) : (s.crossHbm a).ob = s.ob := rfl
@[simp] theorem State.crossHbm_pr (a : Nat) : (s.crossHbm a).pr = s.pr := rfl
@[simp] theorem State.crossHbm_lc (a : Nat) : (s.crossHbm a).lc = s.lc := rfl
@[simp] theorem State.crossHbm_dm (a : Nat) : (s.crossHbm a).dm = s.dm := rfl
@[simp] theorem State.crossHbm_bt (a : Nat) : (s.crossHbm a).bt = s.bt := rfl
@[simp] theorem State.crossHbm_hb (a : Nat) : (s.crossHbm a).hb = s.hb := rfl
@[simp] theorem State.crossHbm_gt (a : Nat) : (s.crossHbm a).gt = s.gt := rfl
@[simp] theorem State.crossHbm_sc (a : Nat) : (s.crossHbm a).sc = s.sc := rfl
@[simp] theorem State.crossHbm_qz (a : Nat) : (s.crossHbm a).qz = s.qz := rfl
@[simp] theorem State.crossHbm_ag (a : Nat) : (s.crossHbm a).ag = s.ag := rfl
@[simp] theorem State.crossHbm_ln (a : Nat) : (s.crossHbm a).ln = s.ln := rfl
@[simp] theorem State.crossHbm_cd (a : Nat) : (s.crossHbm a).cd = s.cd := rfl
@[simp] theorem State.crossHbm_jr (a : Nat) : (s.crossHbm a).jr = s.jr := rfl
@[simp] theorem State.crossHbm_quartz (a : Nat) : (s.crossHbm a).quartz = s.quartz := rfl
@[simp] theorem State.crossHbm_randoms (a : Nat) : (s.crossHbm a).randoms = s.randoms := rfl
@[simp] theorem State.crossHbm_frees (a : Nat) : (s.crossHbm a).frees = s.frees := rfl
@[simp] theorem State.crossHbm_out (a : Nat) : (s.crossHbm a).out = s.out := rfl
@[simp] theorem State.crossHbm_pending (a : Nat) : (s.crossHbm a).pending = s.pending := rfl
@[simp] theorem State.crossHbm_get (a : Nat) (r : Field) : (s.crossHbm a).get r = s.get r := rfl
@[simp] theorem State.crossHbm_bit (a : Nat) (r : Field) (j : Nat) : (s.crossHbm a).bit r j = s.bit r j := rfl
@[simp] theorem State.crossHbm_part (a : Nat) (p₀ : Nat) : (s.crossHbm a).part p₀ = s.part p₀ := rfl
@[simp] theorem State.crossHbm_ctx (a : Nat) (k₀ : Nat) : (s.crossHbm a).ctx k₀ = s.ctx k₀ := rfl
@[simp] theorem State.crossHbm_qp (a : Nat) (p₀ q₀ : Nat) : (s.crossHbm a).qp p₀ q₀ = s.qp p₀ q₀ := rfl

/-- What runs after a crossing: the island is not gated, and nothing was gated besides. -/
@[simp] theorem State.cross_gated (i : Nat) : (s.cross i).pw.gated = s.pw.gated.filter (· ≠ i) := rfl

/-! ## `State.emit` -/

@[simp] theorem State.emit_regs (o : Output) : (s.emit o).regs = s.regs := rfl
@[simp] theorem State.emit_mode (o : Output) : (s.emit o).mode = s.mode := rfl
@[simp] theorem State.emit_parts (o : Output) : (s.emit o).parts = s.parts := rfl
@[simp] theorem State.emit_hq (o : Output) : (s.emit o).hq = s.hq := rfl
@[simp] theorem State.emit_sq (o : Output) : (s.emit o).sq = s.sq := rfl
@[simp] theorem State.emit_ci (o : Output) : (s.emit o).ci = s.ci := rfl
@[simp] theorem State.emit_ge (o : Output) : (s.emit o).ge = s.ge := rfl
@[simp] theorem State.emit_arbs (o : Output) : (s.emit o).arbs = s.arbs := rfl
@[simp] theorem State.emit_pk (o : Output) : (s.emit o).pk = s.pk := rfl
@[simp] theorem State.emit_fl (o : Output) : (s.emit o).fl = s.fl := rfl
@[simp] theorem State.emit_ob (o : Output) : (s.emit o).ob = s.ob := rfl
@[simp] theorem State.emit_pw (o : Output) : (s.emit o).pw = s.pw := rfl
@[simp] theorem State.emit_pr (o : Output) : (s.emit o).pr = s.pr := rfl
@[simp] theorem State.emit_lc (o : Output) : (s.emit o).lc = s.lc := rfl
@[simp] theorem State.emit_dm (o : Output) : (s.emit o).dm = s.dm := rfl
@[simp] theorem State.emit_bt (o : Output) : (s.emit o).bt = s.bt := rfl
@[simp] theorem State.emit_hb (o : Output) : (s.emit o).hb = s.hb := rfl
@[simp] theorem State.emit_gt (o : Output) : (s.emit o).gt = s.gt := rfl
@[simp] theorem State.emit_sc (o : Output) : (s.emit o).sc = s.sc := rfl
@[simp] theorem State.emit_qz (o : Output) : (s.emit o).qz = s.qz := rfl
@[simp] theorem State.emit_ag (o : Output) : (s.emit o).ag = s.ag := rfl
@[simp] theorem State.emit_ln (o : Output) : (s.emit o).ln = s.ln := rfl
@[simp] theorem State.emit_cd (o : Output) : (s.emit o).cd = s.cd := rfl
@[simp] theorem State.emit_jr (o : Output) : (s.emit o).jr = s.jr := rfl
@[simp] theorem State.emit_quartz (o : Output) : (s.emit o).quartz = s.quartz := rfl
@[simp] theorem State.emit_randoms (o : Output) : (s.emit o).randoms = s.randoms := rfl
@[simp] theorem State.emit_frees (o : Output) : (s.emit o).frees = s.frees := rfl
@[simp] theorem State.emit_pending (o : Output) : (s.emit o).pending = s.pending := rfl
@[simp] theorem State.emit_get (o : Output) (r : Field) : (s.emit o).get r = s.get r := rfl
@[simp] theorem State.emit_bit (o : Output) (r : Field) (j : Nat) : (s.emit o).bit r j = s.bit r j := rfl
@[simp] theorem State.emit_part (o : Output) (p₀ : Nat) : (s.emit o).part p₀ = s.part p₀ := rfl
@[simp] theorem State.emit_ctx (o : Output) (k₀ : Nat) : (s.emit o).ctx k₀ = s.ctx k₀ := rfl
@[simp] theorem State.emit_qp (o : Output) (p₀ q₀ : Nat) : (s.emit o).qp p₀ q₀ = s.qp p₀ q₀ := rfl

/-! ## `State.updPart` -/

@[simp] theorem State.updPart_regs (p : Nat) (f : Part → Part) : (s.updPart p f).regs = s.regs := rfl
@[simp] theorem State.updPart_mode (p : Nat) (f : Part → Part) : (s.updPart p f).mode = s.mode := rfl
@[simp] theorem State.updPart_hq (p : Nat) (f : Part → Part) : (s.updPart p f).hq = s.hq := rfl
@[simp] theorem State.updPart_sq (p : Nat) (f : Part → Part) : (s.updPart p f).sq = s.sq := rfl
@[simp] theorem State.updPart_ci (p : Nat) (f : Part → Part) : (s.updPart p f).ci = s.ci := rfl
@[simp] theorem State.updPart_ge (p : Nat) (f : Part → Part) : (s.updPart p f).ge = s.ge := rfl
@[simp] theorem State.updPart_arbs (p : Nat) (f : Part → Part) : (s.updPart p f).arbs = s.arbs := rfl
@[simp] theorem State.updPart_pk (p : Nat) (f : Part → Part) : (s.updPart p f).pk = s.pk := rfl
@[simp] theorem State.updPart_fl (p : Nat) (f : Part → Part) : (s.updPart p f).fl = s.fl := rfl
@[simp] theorem State.updPart_ob (p : Nat) (f : Part → Part) : (s.updPart p f).ob = s.ob := rfl
@[simp] theorem State.updPart_pw (p : Nat) (f : Part → Part) : (s.updPart p f).pw = s.pw := rfl
@[simp] theorem State.updPart_pr (p : Nat) (f : Part → Part) : (s.updPart p f).pr = s.pr := rfl
@[simp] theorem State.updPart_lc (p : Nat) (f : Part → Part) : (s.updPart p f).lc = s.lc := rfl
@[simp] theorem State.updPart_dm (p : Nat) (f : Part → Part) : (s.updPart p f).dm = s.dm := rfl
@[simp] theorem State.updPart_bt (p : Nat) (f : Part → Part) : (s.updPart p f).bt = s.bt := rfl
@[simp] theorem State.updPart_hb (p : Nat) (f : Part → Part) : (s.updPart p f).hb = s.hb := rfl
@[simp] theorem State.updPart_gt (p : Nat) (f : Part → Part) : (s.updPart p f).gt = s.gt := rfl
@[simp] theorem State.updPart_sc (p : Nat) (f : Part → Part) : (s.updPart p f).sc = s.sc := rfl
@[simp] theorem State.updPart_qz (p : Nat) (f : Part → Part) : (s.updPart p f).qz = s.qz := rfl
@[simp] theorem State.updPart_ag (p : Nat) (f : Part → Part) : (s.updPart p f).ag = s.ag := rfl
@[simp] theorem State.updPart_ln (p : Nat) (f : Part → Part) : (s.updPart p f).ln = s.ln := rfl
@[simp] theorem State.updPart_cd (p : Nat) (f : Part → Part) : (s.updPart p f).cd = s.cd := rfl
@[simp] theorem State.updPart_jr (p : Nat) (f : Part → Part) : (s.updPart p f).jr = s.jr := rfl
@[simp] theorem State.updPart_quartz (p : Nat) (f : Part → Part) : (s.updPart p f).quartz = s.quartz := rfl
@[simp] theorem State.updPart_randoms (p : Nat) (f : Part → Part) : (s.updPart p f).randoms = s.randoms := rfl
@[simp] theorem State.updPart_frees (p : Nat) (f : Part → Part) : (s.updPart p f).frees = s.frees := rfl
@[simp] theorem State.updPart_out (p : Nat) (f : Part → Part) : (s.updPart p f).out = s.out := rfl
@[simp] theorem State.updPart_pending (p : Nat) (f : Part → Part) : (s.updPart p f).pending = s.pending := rfl
@[simp] theorem State.updPart_get (p : Nat) (f : Part → Part) (r : Field) : (s.updPart p f).get r = s.get r := rfl
@[simp] theorem State.updPart_bit (p : Nat) (f : Part → Part) (r : Field) (j : Nat) : (s.updPart p f).bit r j = s.bit r j := rfl
@[simp] theorem State.updPart_ctx (p : Nat) (f : Part → Part) (k₀ : Nat) : (s.updPart p f).ctx k₀ = s.ctx k₀ := rfl
@[simp] theorem State.updPart_qp (p : Nat) (f : Part → Part) (p₀ q₀ : Nat) : (s.updPart p f).qp p₀ q₀ = s.qp p₀ q₀ := rfl

/-! ## `State.updQp` -/

@[simp] theorem State.updQp_regs (p q : Nat) (f : QueuePair → QueuePair) : (s.updQp p q f).regs = s.regs := rfl
@[simp] theorem State.updQp_mode (p q : Nat) (f : QueuePair → QueuePair) : (s.updQp p q f).mode = s.mode := rfl
@[simp] theorem State.updQp_parts (p q : Nat) (f : QueuePair → QueuePair) : (s.updQp p q f).parts = s.parts := rfl
@[simp] theorem State.updQp_hq_staged (p q : Nat) (f : QueuePair → QueuePair) : (s.updQp p q f).hq.staged = s.hq.staged := rfl
@[simp] theorem State.updQp_hq_fwdOut (p q : Nat) (f : QueuePair → QueuePair) : (s.updQp p q f).hq.fwdOut = s.hq.fwdOut := rfl
@[simp] theorem State.updQp_hq_held (p q : Nat) (f : QueuePair → QueuePair) : (s.updQp p q f).hq.held = s.hq.held := rfl
@[simp] theorem State.updQp_hq_msix (p q : Nat) (f : QueuePair → QueuePair) : (s.updQp p q f).hq.msix = s.hq.msix := rfl
@[simp] theorem State.updQp_hq_msixPend (p q : Nat) (f : QueuePair → QueuePair) : (s.updQp p q f).hq.msixPend = s.hq.msixPend := rfl
@[simp] theorem State.updQp_sq (p q : Nat) (f : QueuePair → QueuePair) : (s.updQp p q f).sq = s.sq := rfl
@[simp] theorem State.updQp_ci (p q : Nat) (f : QueuePair → QueuePair) : (s.updQp p q f).ci = s.ci := rfl
@[simp] theorem State.updQp_ge (p q : Nat) (f : QueuePair → QueuePair) : (s.updQp p q f).ge = s.ge := rfl
@[simp] theorem State.updQp_arbs (p q : Nat) (f : QueuePair → QueuePair) : (s.updQp p q f).arbs = s.arbs := rfl
@[simp] theorem State.updQp_pk (p q : Nat) (f : QueuePair → QueuePair) : (s.updQp p q f).pk = s.pk := rfl
@[simp] theorem State.updQp_fl (p q : Nat) (f : QueuePair → QueuePair) : (s.updQp p q f).fl = s.fl := rfl
@[simp] theorem State.updQp_ob (p q : Nat) (f : QueuePair → QueuePair) : (s.updQp p q f).ob = s.ob := rfl
@[simp] theorem State.updQp_pw (p q : Nat) (f : QueuePair → QueuePair) : (s.updQp p q f).pw = s.pw := rfl
@[simp] theorem State.updQp_pr (p q : Nat) (f : QueuePair → QueuePair) : (s.updQp p q f).pr = s.pr := rfl
@[simp] theorem State.updQp_lc (p q : Nat) (f : QueuePair → QueuePair) : (s.updQp p q f).lc = s.lc := rfl
@[simp] theorem State.updQp_dm (p q : Nat) (f : QueuePair → QueuePair) : (s.updQp p q f).dm = s.dm := rfl
@[simp] theorem State.updQp_bt (p q : Nat) (f : QueuePair → QueuePair) : (s.updQp p q f).bt = s.bt := rfl
@[simp] theorem State.updQp_hb (p q : Nat) (f : QueuePair → QueuePair) : (s.updQp p q f).hb = s.hb := rfl
@[simp] theorem State.updQp_gt (p q : Nat) (f : QueuePair → QueuePair) : (s.updQp p q f).gt = s.gt := rfl
@[simp] theorem State.updQp_sc (p q : Nat) (f : QueuePair → QueuePair) : (s.updQp p q f).sc = s.sc := rfl
@[simp] theorem State.updQp_qz (p q : Nat) (f : QueuePair → QueuePair) : (s.updQp p q f).qz = s.qz := rfl
@[simp] theorem State.updQp_ag (p q : Nat) (f : QueuePair → QueuePair) : (s.updQp p q f).ag = s.ag := rfl
@[simp] theorem State.updQp_ln (p q : Nat) (f : QueuePair → QueuePair) : (s.updQp p q f).ln = s.ln := rfl
@[simp] theorem State.updQp_cd (p q : Nat) (f : QueuePair → QueuePair) : (s.updQp p q f).cd = s.cd := rfl
@[simp] theorem State.updQp_jr (p q : Nat) (f : QueuePair → QueuePair) : (s.updQp p q f).jr = s.jr := rfl
@[simp] theorem State.updQp_quartz (p q : Nat) (f : QueuePair → QueuePair) : (s.updQp p q f).quartz = s.quartz := rfl
@[simp] theorem State.updQp_randoms (p q : Nat) (f : QueuePair → QueuePair) : (s.updQp p q f).randoms = s.randoms := rfl
@[simp] theorem State.updQp_frees (p q : Nat) (f : QueuePair → QueuePair) : (s.updQp p q f).frees = s.frees := rfl
@[simp] theorem State.updQp_out (p q : Nat) (f : QueuePair → QueuePair) : (s.updQp p q f).out = s.out := rfl
@[simp] theorem State.updQp_pending (p q : Nat) (f : QueuePair → QueuePair) : (s.updQp p q f).pending = s.pending := rfl
@[simp] theorem State.updQp_get (p q : Nat) (f : QueuePair → QueuePair) (r : Field) : (s.updQp p q f).get r = s.get r := rfl
@[simp] theorem State.updQp_bit (p q : Nat) (f : QueuePair → QueuePair) (r : Field) (j : Nat) : (s.updQp p q f).bit r j = s.bit r j := rfl
@[simp] theorem State.updQp_part (p q : Nat) (f : QueuePair → QueuePair) (p₀ : Nat) : (s.updQp p q f).part p₀ = s.part p₀ := rfl
@[simp] theorem State.updQp_ctx (p q : Nat) (f : QueuePair → QueuePair) (k₀ : Nat) : (s.updQp p q f).ctx k₀ = s.ctx k₀ := rfl

/-! ## `State.setCtx` -/

@[simp] theorem State.setCtx_regs (k : Nat) (c : Context) : (s.setCtx k c).regs = s.regs := rfl
@[simp] theorem State.setCtx_mode (k : Nat) (c : Context) : (s.setCtx k c).mode = s.mode := rfl
@[simp] theorem State.setCtx_parts (k : Nat) (c : Context) : (s.setCtx k c).parts = s.parts := rfl
@[simp] theorem State.setCtx_hq (k : Nat) (c : Context) : (s.setCtx k c).hq = s.hq := rfl
@[simp] theorem State.setCtx_sq_progs (k : Nat) (c : Context) : (s.setCtx k c).sq.progs = s.sq.progs := rfl
@[simp] theorem State.setCtx_sq_cache (k : Nat) (c : Context) : (s.setCtx k c).sq.cache = s.sq.cache := rfl
@[simp] theorem State.setCtx_sq_fmtTab (k : Nat) (c : Context) : (s.setCtx k c).sq.fmtTab = s.sq.fmtTab := rfl
@[simp] theorem State.setCtx_sq_derTab (k : Nat) (c : Context) : (s.setCtx k c).sq.derTab = s.sq.derTab := rfl
@[simp] theorem State.setCtx_sq_fmtCommits (k : Nat) (c : Context) : (s.setCtx k c).sq.fmtCommits = s.sq.fmtCommits := rfl
@[simp] theorem State.setCtx_sq_derCommits (k : Nat) (c : Context) : (s.setCtx k c).sq.derCommits = s.sq.derCommits := rfl
@[simp] theorem State.setCtx_sq_fmtPrev (k : Nat) (c : Context) : (s.setCtx k c).sq.fmtPrev = s.sq.fmtPrev := rfl
@[simp] theorem State.setCtx_sq_derPrev (k : Nat) (c : Context) : (s.setCtx k c).sq.derPrev = s.sq.derPrev := rfl
@[simp] theorem State.setCtx_ci (k : Nat) (c : Context) : (s.setCtx k c).ci = s.ci := rfl
@[simp] theorem State.setCtx_ge (k : Nat) (c : Context) : (s.setCtx k c).ge = s.ge := rfl
@[simp] theorem State.setCtx_arbs (k : Nat) (c : Context) : (s.setCtx k c).arbs = s.arbs := rfl
@[simp] theorem State.setCtx_pk (k : Nat) (c : Context) : (s.setCtx k c).pk = s.pk := rfl
@[simp] theorem State.setCtx_fl (k : Nat) (c : Context) : (s.setCtx k c).fl = s.fl := rfl
@[simp] theorem State.setCtx_ob (k : Nat) (c : Context) : (s.setCtx k c).ob = s.ob := rfl
@[simp] theorem State.setCtx_pw (k : Nat) (c : Context) : (s.setCtx k c).pw = s.pw := rfl
@[simp] theorem State.setCtx_pr (k : Nat) (c : Context) : (s.setCtx k c).pr = s.pr := rfl
@[simp] theorem State.setCtx_lc (k : Nat) (c : Context) : (s.setCtx k c).lc = s.lc := rfl
@[simp] theorem State.setCtx_dm (k : Nat) (c : Context) : (s.setCtx k c).dm = s.dm := rfl
@[simp] theorem State.setCtx_bt (k : Nat) (c : Context) : (s.setCtx k c).bt = s.bt := rfl
@[simp] theorem State.setCtx_hb (k : Nat) (c : Context) : (s.setCtx k c).hb = s.hb := rfl
@[simp] theorem State.setCtx_gt (k : Nat) (c : Context) : (s.setCtx k c).gt = s.gt := rfl
@[simp] theorem State.setCtx_sc (k : Nat) (c : Context) : (s.setCtx k c).sc = s.sc := rfl
@[simp] theorem State.setCtx_qz (k : Nat) (c : Context) : (s.setCtx k c).qz = s.qz := rfl
@[simp] theorem State.setCtx_ag (k : Nat) (c : Context) : (s.setCtx k c).ag = s.ag := rfl
@[simp] theorem State.setCtx_ln (k : Nat) (c : Context) : (s.setCtx k c).ln = s.ln := rfl
@[simp] theorem State.setCtx_cd (k : Nat) (c : Context) : (s.setCtx k c).cd = s.cd := rfl
@[simp] theorem State.setCtx_jr (k : Nat) (c : Context) : (s.setCtx k c).jr = s.jr := rfl
@[simp] theorem State.setCtx_quartz (k : Nat) (c : Context) : (s.setCtx k c).quartz = s.quartz := rfl
@[simp] theorem State.setCtx_randoms (k : Nat) (c : Context) : (s.setCtx k c).randoms = s.randoms := rfl
@[simp] theorem State.setCtx_frees (k : Nat) (c : Context) : (s.setCtx k c).frees = s.frees := rfl
@[simp] theorem State.setCtx_out (k : Nat) (c : Context) : (s.setCtx k c).out = s.out := rfl
@[simp] theorem State.setCtx_pending (k : Nat) (c : Context) : (s.setCtx k c).pending = s.pending := rfl
@[simp] theorem State.setCtx_get (k : Nat) (c : Context) (r : Field) : (s.setCtx k c).get r = s.get r := rfl
@[simp] theorem State.setCtx_bit (k : Nat) (c : Context) (r : Field) (j : Nat) : (s.setCtx k c).bit r j = s.bit r j := rfl
@[simp] theorem State.setCtx_part (k : Nat) (c : Context) (p₀ : Nat) : (s.setCtx k c).part p₀ = s.part p₀ := rfl
@[simp] theorem State.setCtx_qp (k : Nat) (c : Context) (p₀ q₀ : Nat) : (s.setCtx k c).qp p₀ q₀ = s.qp p₀ q₀ := rfl

/-! ## `State.updCtx` -/

@[simp] theorem State.updCtx_regs (k : Nat) (f : Context → Context) : (s.updCtx k f).regs = s.regs := rfl
@[simp] theorem State.updCtx_mode (k : Nat) (f : Context → Context) : (s.updCtx k f).mode = s.mode := rfl
@[simp] theorem State.updCtx_parts (k : Nat) (f : Context → Context) : (s.updCtx k f).parts = s.parts := rfl
@[simp] theorem State.updCtx_hq (k : Nat) (f : Context → Context) : (s.updCtx k f).hq = s.hq := rfl
@[simp] theorem State.updCtx_sq_progs (k : Nat) (f : Context → Context) : (s.updCtx k f).sq.progs = s.sq.progs := rfl
@[simp] theorem State.updCtx_sq_cache (k : Nat) (f : Context → Context) : (s.updCtx k f).sq.cache = s.sq.cache := rfl
@[simp] theorem State.updCtx_sq_fmtTab (k : Nat) (f : Context → Context) : (s.updCtx k f).sq.fmtTab = s.sq.fmtTab := rfl
@[simp] theorem State.updCtx_sq_derTab (k : Nat) (f : Context → Context) : (s.updCtx k f).sq.derTab = s.sq.derTab := rfl
@[simp] theorem State.updCtx_sq_fmtCommits (k : Nat) (f : Context → Context) : (s.updCtx k f).sq.fmtCommits = s.sq.fmtCommits := rfl
@[simp] theorem State.updCtx_sq_derCommits (k : Nat) (f : Context → Context) : (s.updCtx k f).sq.derCommits = s.sq.derCommits := rfl
@[simp] theorem State.updCtx_sq_fmtPrev (k : Nat) (f : Context → Context) : (s.updCtx k f).sq.fmtPrev = s.sq.fmtPrev := rfl
@[simp] theorem State.updCtx_sq_derPrev (k : Nat) (f : Context → Context) : (s.updCtx k f).sq.derPrev = s.sq.derPrev := rfl
@[simp] theorem State.updCtx_ci (k : Nat) (f : Context → Context) : (s.updCtx k f).ci = s.ci := rfl
@[simp] theorem State.updCtx_ge (k : Nat) (f : Context → Context) : (s.updCtx k f).ge = s.ge := rfl
@[simp] theorem State.updCtx_arbs (k : Nat) (f : Context → Context) : (s.updCtx k f).arbs = s.arbs := rfl
@[simp] theorem State.updCtx_pk (k : Nat) (f : Context → Context) : (s.updCtx k f).pk = s.pk := rfl
@[simp] theorem State.updCtx_fl (k : Nat) (f : Context → Context) : (s.updCtx k f).fl = s.fl := rfl
@[simp] theorem State.updCtx_ob (k : Nat) (f : Context → Context) : (s.updCtx k f).ob = s.ob := rfl
@[simp] theorem State.updCtx_pw (k : Nat) (f : Context → Context) : (s.updCtx k f).pw = s.pw := rfl
@[simp] theorem State.updCtx_pr (k : Nat) (f : Context → Context) : (s.updCtx k f).pr = s.pr := rfl
@[simp] theorem State.updCtx_lc (k : Nat) (f : Context → Context) : (s.updCtx k f).lc = s.lc := rfl
@[simp] theorem State.updCtx_dm (k : Nat) (f : Context → Context) : (s.updCtx k f).dm = s.dm := rfl
@[simp] theorem State.updCtx_bt (k : Nat) (f : Context → Context) : (s.updCtx k f).bt = s.bt := rfl
@[simp] theorem State.updCtx_hb (k : Nat) (f : Context → Context) : (s.updCtx k f).hb = s.hb := rfl
@[simp] theorem State.updCtx_gt (k : Nat) (f : Context → Context) : (s.updCtx k f).gt = s.gt := rfl
@[simp] theorem State.updCtx_sc (k : Nat) (f : Context → Context) : (s.updCtx k f).sc = s.sc := rfl
@[simp] theorem State.updCtx_qz (k : Nat) (f : Context → Context) : (s.updCtx k f).qz = s.qz := rfl
@[simp] theorem State.updCtx_ag (k : Nat) (f : Context → Context) : (s.updCtx k f).ag = s.ag := rfl
@[simp] theorem State.updCtx_ln (k : Nat) (f : Context → Context) : (s.updCtx k f).ln = s.ln := rfl
@[simp] theorem State.updCtx_cd (k : Nat) (f : Context → Context) : (s.updCtx k f).cd = s.cd := rfl
@[simp] theorem State.updCtx_jr (k : Nat) (f : Context → Context) : (s.updCtx k f).jr = s.jr := rfl
@[simp] theorem State.updCtx_quartz (k : Nat) (f : Context → Context) : (s.updCtx k f).quartz = s.quartz := rfl
@[simp] theorem State.updCtx_randoms (k : Nat) (f : Context → Context) : (s.updCtx k f).randoms = s.randoms := rfl
@[simp] theorem State.updCtx_frees (k : Nat) (f : Context → Context) : (s.updCtx k f).frees = s.frees := rfl
@[simp] theorem State.updCtx_out (k : Nat) (f : Context → Context) : (s.updCtx k f).out = s.out := rfl
@[simp] theorem State.updCtx_pending (k : Nat) (f : Context → Context) : (s.updCtx k f).pending = s.pending := rfl
@[simp] theorem State.updCtx_get (k : Nat) (f : Context → Context) (r : Field) : (s.updCtx k f).get r = s.get r := rfl
@[simp] theorem State.updCtx_bit (k : Nat) (f : Context → Context) (r : Field) (j : Nat) : (s.updCtx k f).bit r j = s.bit r j := rfl
@[simp] theorem State.updCtx_part (k : Nat) (f : Context → Context) (p₀ : Nat) : (s.updCtx k f).part p₀ = s.part p₀ := rfl
@[simp] theorem State.updCtx_qp (k : Nat) (f : Context → Context) (p₀ q₀ : Nat) : (s.updCtx k f).qp p₀ q₀ = s.qp p₀ q₀ := rfl

/-! ## `State.updLane` -/

@[simp] theorem State.updLane_regs (n l : Nat) (f : Lane → Lane) : (s.updLane n l f).regs = s.regs := rfl
@[simp] theorem State.updLane_mode (n l : Nat) (f : Lane → Lane) : (s.updLane n l f).mode = s.mode := rfl
@[simp] theorem State.updLane_parts (n l : Nat) (f : Lane → Lane) : (s.updLane n l f).parts = s.parts := rfl
@[simp] theorem State.updLane_hq (n l : Nat) (f : Lane → Lane) : (s.updLane n l f).hq = s.hq := rfl
@[simp] theorem State.updLane_sq (n l : Nat) (f : Lane → Lane) : (s.updLane n l f).sq = s.sq := rfl
@[simp] theorem State.updLane_ci_hash (n l : Nat) (f : Lane → Lane) : (s.updLane n l f).ci.hash = s.ci.hash := rfl
@[simp] theorem State.updLane_ci_fmt (n l : Nat) (f : Lane → Lane) : (s.updLane n l f).ci.fmt = s.ci.fmt := rfl
@[simp] theorem State.updLane_ci_faults (n l : Nat) (f : Lane → Lane) : (s.updLane n l f).ci.faults = s.ci.faults := rfl
@[simp] theorem State.updLane_ci_moved (n l : Nat) (f : Lane → Lane) : (s.updLane n l f).ci.moved = s.ci.moved := rfl
@[simp] theorem State.updLane_ci_lastOut (n l : Nat) (f : Lane → Lane) : (s.updLane n l f).ci.lastOut = s.ci.lastOut := rfl
@[simp] theorem State.updLane_ci_rounds (n l : Nat) (f : Lane → Lane) : (s.updLane n l f).ci.rounds = s.ci.rounds := rfl
@[simp] theorem State.updLane_ge (n l : Nat) (f : Lane → Lane) : (s.updLane n l f).ge = s.ge := rfl
@[simp] theorem State.updLane_arbs (n l : Nat) (f : Lane → Lane) : (s.updLane n l f).arbs = s.arbs := rfl
@[simp] theorem State.updLane_pk (n l : Nat) (f : Lane → Lane) : (s.updLane n l f).pk = s.pk := rfl
@[simp] theorem State.updLane_fl (n l : Nat) (f : Lane → Lane) : (s.updLane n l f).fl = s.fl := rfl
@[simp] theorem State.updLane_ob (n l : Nat) (f : Lane → Lane) : (s.updLane n l f).ob = s.ob := rfl
@[simp] theorem State.updLane_pw (n l : Nat) (f : Lane → Lane) : (s.updLane n l f).pw = s.pw := rfl
@[simp] theorem State.updLane_pr (n l : Nat) (f : Lane → Lane) : (s.updLane n l f).pr = s.pr := rfl
@[simp] theorem State.updLane_lc (n l : Nat) (f : Lane → Lane) : (s.updLane n l f).lc = s.lc := rfl
@[simp] theorem State.updLane_dm (n l : Nat) (f : Lane → Lane) : (s.updLane n l f).dm = s.dm := rfl
@[simp] theorem State.updLane_bt (n l : Nat) (f : Lane → Lane) : (s.updLane n l f).bt = s.bt := rfl
@[simp] theorem State.updLane_hb (n l : Nat) (f : Lane → Lane) : (s.updLane n l f).hb = s.hb := rfl
@[simp] theorem State.updLane_gt (n l : Nat) (f : Lane → Lane) : (s.updLane n l f).gt = s.gt := rfl
@[simp] theorem State.updLane_sc (n l : Nat) (f : Lane → Lane) : (s.updLane n l f).sc = s.sc := rfl
@[simp] theorem State.updLane_qz (n l : Nat) (f : Lane → Lane) : (s.updLane n l f).qz = s.qz := rfl
@[simp] theorem State.updLane_ag (n l : Nat) (f : Lane → Lane) : (s.updLane n l f).ag = s.ag := rfl
@[simp] theorem State.updLane_ln (n l : Nat) (f : Lane → Lane) : (s.updLane n l f).ln = s.ln := rfl
@[simp] theorem State.updLane_cd (n l : Nat) (f : Lane → Lane) : (s.updLane n l f).cd = s.cd := rfl
@[simp] theorem State.updLane_jr (n l : Nat) (f : Lane → Lane) : (s.updLane n l f).jr = s.jr := rfl
@[simp] theorem State.updLane_quartz (n l : Nat) (f : Lane → Lane) : (s.updLane n l f).quartz = s.quartz := rfl
@[simp] theorem State.updLane_randoms (n l : Nat) (f : Lane → Lane) : (s.updLane n l f).randoms = s.randoms := rfl
@[simp] theorem State.updLane_frees (n l : Nat) (f : Lane → Lane) : (s.updLane n l f).frees = s.frees := rfl
@[simp] theorem State.updLane_out (n l : Nat) (f : Lane → Lane) : (s.updLane n l f).out = s.out := rfl
@[simp] theorem State.updLane_pending (n l : Nat) (f : Lane → Lane) : (s.updLane n l f).pending = s.pending := rfl
@[simp] theorem State.updLane_get (n l : Nat) (f : Lane → Lane) (r : Field) : (s.updLane n l f).get r = s.get r := rfl
@[simp] theorem State.updLane_bit (n l : Nat) (f : Lane → Lane) (r : Field) (j : Nat) : (s.updLane n l f).bit r j = s.bit r j := rfl
@[simp] theorem State.updLane_part (n l : Nat) (f : Lane → Lane) (p₀ : Nat) : (s.updLane n l f).part p₀ = s.part p₀ := rfl
@[simp] theorem State.updLane_ctx (n l : Nat) (f : Lane → Lane) (k₀ : Nat) : (s.updLane n l f).ctx k₀ = s.ctx k₀ := rfl
@[simp] theorem State.updLane_qp (n l : Nat) (f : Lane → Lane) (p₀ q₀ : Nat) : (s.updLane n l f).qp p₀ q₀ = s.qp p₀ q₀ := rfl

/-! ## `State.updHash` -/

@[simp] theorem State.updHash_regs (n : Nat) (f : HashUnit → HashUnit) : (s.updHash n f).regs = s.regs := rfl
@[simp] theorem State.updHash_mode (n : Nat) (f : HashUnit → HashUnit) : (s.updHash n f).mode = s.mode := rfl
@[simp] theorem State.updHash_parts (n : Nat) (f : HashUnit → HashUnit) : (s.updHash n f).parts = s.parts := rfl
@[simp] theorem State.updHash_hq (n : Nat) (f : HashUnit → HashUnit) : (s.updHash n f).hq = s.hq := rfl
@[simp] theorem State.updHash_sq (n : Nat) (f : HashUnit → HashUnit) : (s.updHash n f).sq = s.sq := rfl
@[simp] theorem State.updHash_ci_lanes (n : Nat) (f : HashUnit → HashUnit) : (s.updHash n f).ci.lanes = s.ci.lanes := rfl
@[simp] theorem State.updHash_ci_fmt (n : Nat) (f : HashUnit → HashUnit) : (s.updHash n f).ci.fmt = s.ci.fmt := rfl
@[simp] theorem State.updHash_ci_faults (n : Nat) (f : HashUnit → HashUnit) : (s.updHash n f).ci.faults = s.ci.faults := rfl
@[simp] theorem State.updHash_ci_moved (n : Nat) (f : HashUnit → HashUnit) : (s.updHash n f).ci.moved = s.ci.moved := rfl
@[simp] theorem State.updHash_ci_lastOut (n : Nat) (f : HashUnit → HashUnit) : (s.updHash n f).ci.lastOut = s.ci.lastOut := rfl
@[simp] theorem State.updHash_ci_rounds (n : Nat) (f : HashUnit → HashUnit) : (s.updHash n f).ci.rounds = s.ci.rounds := rfl
@[simp] theorem State.updHash_ge (n : Nat) (f : HashUnit → HashUnit) : (s.updHash n f).ge = s.ge := rfl
@[simp] theorem State.updHash_arbs (n : Nat) (f : HashUnit → HashUnit) : (s.updHash n f).arbs = s.arbs := rfl
@[simp] theorem State.updHash_pk (n : Nat) (f : HashUnit → HashUnit) : (s.updHash n f).pk = s.pk := rfl
@[simp] theorem State.updHash_fl (n : Nat) (f : HashUnit → HashUnit) : (s.updHash n f).fl = s.fl := rfl
@[simp] theorem State.updHash_ob (n : Nat) (f : HashUnit → HashUnit) : (s.updHash n f).ob = s.ob := rfl
@[simp] theorem State.updHash_pw (n : Nat) (f : HashUnit → HashUnit) : (s.updHash n f).pw = s.pw := rfl
@[simp] theorem State.updHash_pr (n : Nat) (f : HashUnit → HashUnit) : (s.updHash n f).pr = s.pr := rfl
@[simp] theorem State.updHash_lc (n : Nat) (f : HashUnit → HashUnit) : (s.updHash n f).lc = s.lc := rfl
@[simp] theorem State.updHash_dm (n : Nat) (f : HashUnit → HashUnit) : (s.updHash n f).dm = s.dm := rfl
@[simp] theorem State.updHash_bt (n : Nat) (f : HashUnit → HashUnit) : (s.updHash n f).bt = s.bt := rfl
@[simp] theorem State.updHash_hb (n : Nat) (f : HashUnit → HashUnit) : (s.updHash n f).hb = s.hb := rfl
@[simp] theorem State.updHash_gt (n : Nat) (f : HashUnit → HashUnit) : (s.updHash n f).gt = s.gt := rfl
@[simp] theorem State.updHash_sc (n : Nat) (f : HashUnit → HashUnit) : (s.updHash n f).sc = s.sc := rfl
@[simp] theorem State.updHash_qz (n : Nat) (f : HashUnit → HashUnit) : (s.updHash n f).qz = s.qz := rfl
@[simp] theorem State.updHash_ag (n : Nat) (f : HashUnit → HashUnit) : (s.updHash n f).ag = s.ag := rfl
@[simp] theorem State.updHash_ln (n : Nat) (f : HashUnit → HashUnit) : (s.updHash n f).ln = s.ln := rfl
@[simp] theorem State.updHash_cd (n : Nat) (f : HashUnit → HashUnit) : (s.updHash n f).cd = s.cd := rfl
@[simp] theorem State.updHash_jr (n : Nat) (f : HashUnit → HashUnit) : (s.updHash n f).jr = s.jr := rfl
@[simp] theorem State.updHash_quartz (n : Nat) (f : HashUnit → HashUnit) : (s.updHash n f).quartz = s.quartz := rfl
@[simp] theorem State.updHash_randoms (n : Nat) (f : HashUnit → HashUnit) : (s.updHash n f).randoms = s.randoms := rfl
@[simp] theorem State.updHash_frees (n : Nat) (f : HashUnit → HashUnit) : (s.updHash n f).frees = s.frees := rfl
@[simp] theorem State.updHash_out (n : Nat) (f : HashUnit → HashUnit) : (s.updHash n f).out = s.out := rfl
@[simp] theorem State.updHash_pending (n : Nat) (f : HashUnit → HashUnit) : (s.updHash n f).pending = s.pending := rfl
@[simp] theorem State.updHash_get (n : Nat) (f : HashUnit → HashUnit) (r : Field) : (s.updHash n f).get r = s.get r := rfl
@[simp] theorem State.updHash_bit (n : Nat) (f : HashUnit → HashUnit) (r : Field) (j : Nat) : (s.updHash n f).bit r j = s.bit r j := rfl
@[simp] theorem State.updHash_part (n : Nat) (f : HashUnit → HashUnit) (p₀ : Nat) : (s.updHash n f).part p₀ = s.part p₀ := rfl
@[simp] theorem State.updHash_ctx (n : Nat) (f : HashUnit → HashUnit) (k₀ : Nat) : (s.updHash n f).ctx k₀ = s.ctx k₀ := rfl
@[simp] theorem State.updHash_qp (n : Nat) (f : HashUnit → HashUnit) (p₀ q₀ : Nat) : (s.updHash n f).qp p₀ q₀ = s.qp p₀ q₀ := rfl

/-! ## `State.updFmt` -/

@[simp] theorem State.updFmt_regs (n : Nat) (f : Service → Service) : (s.updFmt n f).regs = s.regs := rfl
@[simp] theorem State.updFmt_mode (n : Nat) (f : Service → Service) : (s.updFmt n f).mode = s.mode := rfl
@[simp] theorem State.updFmt_parts (n : Nat) (f : Service → Service) : (s.updFmt n f).parts = s.parts := rfl
@[simp] theorem State.updFmt_hq (n : Nat) (f : Service → Service) : (s.updFmt n f).hq = s.hq := rfl
@[simp] theorem State.updFmt_sq (n : Nat) (f : Service → Service) : (s.updFmt n f).sq = s.sq := rfl
@[simp] theorem State.updFmt_ci_lanes (n : Nat) (f : Service → Service) : (s.updFmt n f).ci.lanes = s.ci.lanes := rfl
@[simp] theorem State.updFmt_ci_hash (n : Nat) (f : Service → Service) : (s.updFmt n f).ci.hash = s.ci.hash := rfl
@[simp] theorem State.updFmt_ci_faults (n : Nat) (f : Service → Service) : (s.updFmt n f).ci.faults = s.ci.faults := rfl
@[simp] theorem State.updFmt_ci_moved (n : Nat) (f : Service → Service) : (s.updFmt n f).ci.moved = s.ci.moved := rfl
@[simp] theorem State.updFmt_ci_lastOut (n : Nat) (f : Service → Service) : (s.updFmt n f).ci.lastOut = s.ci.lastOut := rfl
@[simp] theorem State.updFmt_ci_rounds (n : Nat) (f : Service → Service) : (s.updFmt n f).ci.rounds = s.ci.rounds := rfl
@[simp] theorem State.updFmt_ge (n : Nat) (f : Service → Service) : (s.updFmt n f).ge = s.ge := rfl
@[simp] theorem State.updFmt_arbs (n : Nat) (f : Service → Service) : (s.updFmt n f).arbs = s.arbs := rfl
@[simp] theorem State.updFmt_pk (n : Nat) (f : Service → Service) : (s.updFmt n f).pk = s.pk := rfl
@[simp] theorem State.updFmt_fl (n : Nat) (f : Service → Service) : (s.updFmt n f).fl = s.fl := rfl
@[simp] theorem State.updFmt_ob (n : Nat) (f : Service → Service) : (s.updFmt n f).ob = s.ob := rfl
@[simp] theorem State.updFmt_pw (n : Nat) (f : Service → Service) : (s.updFmt n f).pw = s.pw := rfl
@[simp] theorem State.updFmt_pr (n : Nat) (f : Service → Service) : (s.updFmt n f).pr = s.pr := rfl
@[simp] theorem State.updFmt_lc (n : Nat) (f : Service → Service) : (s.updFmt n f).lc = s.lc := rfl
@[simp] theorem State.updFmt_dm (n : Nat) (f : Service → Service) : (s.updFmt n f).dm = s.dm := rfl
@[simp] theorem State.updFmt_bt (n : Nat) (f : Service → Service) : (s.updFmt n f).bt = s.bt := rfl
@[simp] theorem State.updFmt_hb (n : Nat) (f : Service → Service) : (s.updFmt n f).hb = s.hb := rfl
@[simp] theorem State.updFmt_gt (n : Nat) (f : Service → Service) : (s.updFmt n f).gt = s.gt := rfl
@[simp] theorem State.updFmt_sc (n : Nat) (f : Service → Service) : (s.updFmt n f).sc = s.sc := rfl
@[simp] theorem State.updFmt_qz (n : Nat) (f : Service → Service) : (s.updFmt n f).qz = s.qz := rfl
@[simp] theorem State.updFmt_ag (n : Nat) (f : Service → Service) : (s.updFmt n f).ag = s.ag := rfl
@[simp] theorem State.updFmt_ln (n : Nat) (f : Service → Service) : (s.updFmt n f).ln = s.ln := rfl
@[simp] theorem State.updFmt_cd (n : Nat) (f : Service → Service) : (s.updFmt n f).cd = s.cd := rfl
@[simp] theorem State.updFmt_jr (n : Nat) (f : Service → Service) : (s.updFmt n f).jr = s.jr := rfl
@[simp] theorem State.updFmt_quartz (n : Nat) (f : Service → Service) : (s.updFmt n f).quartz = s.quartz := rfl
@[simp] theorem State.updFmt_randoms (n : Nat) (f : Service → Service) : (s.updFmt n f).randoms = s.randoms := rfl
@[simp] theorem State.updFmt_frees (n : Nat) (f : Service → Service) : (s.updFmt n f).frees = s.frees := rfl
@[simp] theorem State.updFmt_out (n : Nat) (f : Service → Service) : (s.updFmt n f).out = s.out := rfl
@[simp] theorem State.updFmt_pending (n : Nat) (f : Service → Service) : (s.updFmt n f).pending = s.pending := rfl
@[simp] theorem State.updFmt_get (n : Nat) (f : Service → Service) (r : Field) : (s.updFmt n f).get r = s.get r := rfl
@[simp] theorem State.updFmt_bit (n : Nat) (f : Service → Service) (r : Field) (j : Nat) : (s.updFmt n f).bit r j = s.bit r j := rfl
@[simp] theorem State.updFmt_part (n : Nat) (f : Service → Service) (p₀ : Nat) : (s.updFmt n f).part p₀ = s.part p₀ := rfl
@[simp] theorem State.updFmt_ctx (n : Nat) (f : Service → Service) (k₀ : Nat) : (s.updFmt n f).ctx k₀ = s.ctx k₀ := rfl
@[simp] theorem State.updFmt_qp (n : Nat) (f : Service → Service) (p₀ q₀ : Nat) : (s.updFmt n f).qp p₀ q₀ = s.qp p₀ q₀ := rfl

/-! ## `State.updCell` -/

@[simp] theorem State.updCell_regs (c : Nat) (f : Cell → Cell) : (s.updCell c f).regs = s.regs := rfl
@[simp] theorem State.updCell_mode (c : Nat) (f : Cell → Cell) : (s.updCell c f).mode = s.mode := rfl
@[simp] theorem State.updCell_parts (c : Nat) (f : Cell → Cell) : (s.updCell c f).parts = s.parts := rfl
@[simp] theorem State.updCell_hq (c : Nat) (f : Cell → Cell) : (s.updCell c f).hq = s.hq := rfl
@[simp] theorem State.updCell_sq (c : Nat) (f : Cell → Cell) : (s.updCell c f).sq = s.sq := rfl
@[simp] theorem State.updCell_ci (c : Nat) (f : Cell → Cell) : (s.updCell c f).ci = s.ci := rfl
@[simp] theorem State.updCell_ge (c : Nat) (f : Cell → Cell) : (s.updCell c f).ge = s.ge := rfl
@[simp] theorem State.updCell_arbs (c : Nat) (f : Cell → Cell) : (s.updCell c f).arbs = s.arbs := rfl
@[simp] theorem State.updCell_pk (c : Nat) (f : Cell → Cell) : (s.updCell c f).pk = s.pk := rfl
@[simp] theorem State.updCell_fl_queues (c : Nat) (f : Cell → Cell) : (s.updCell c f).fl.queues = s.fl.queues := rfl
@[simp] theorem State.updCell_fl_seed (c : Nat) (f : Cell → Cell) : (s.updCell c f).fl.seed = s.fl.seed := rfl
@[simp] theorem State.updCell_fl_seedFor (c : Nat) (f : Cell → Cell) : (s.updCell c f).fl.seedFor = s.fl.seedFor := rfl
@[simp] theorem State.updCell_fl_seedFrom (c : Nat) (f : Cell → Cell) : (s.updCell c f).fl.seedFrom = s.fl.seedFrom := rfl
@[simp] theorem State.updCell_fl_turn (c : Nat) (f : Cell → Cell) : (s.updCell c f).fl.turn = s.fl.turn := rfl
@[simp] theorem State.updCell_fl_drbgs (c : Nat) (f : Cell → Cell) : (s.updCell c f).fl.drbgs = s.fl.drbgs := rfl
@[simp] theorem State.updCell_fl_failures (c : Nat) (f : Cell → Cell) : (s.updCell c f).fl.failures = s.fl.failures := rfl
@[simp] theorem State.updCell_fl_powered (c : Nat) (f : Cell → Cell) : (s.updCell c f).fl.powered = s.fl.powered := rfl
@[simp] theorem State.updCell_fl_everReady (c : Nat) (f : Cell → Cell) : (s.updCell c f).fl.everReady = s.fl.everReady := rfl
@[simp] theorem State.updCell_ob (c : Nat) (f : Cell → Cell) : (s.updCell c f).ob = s.ob := rfl
@[simp] theorem State.updCell_pw (c : Nat) (f : Cell → Cell) : (s.updCell c f).pw = s.pw := rfl
@[simp] theorem State.updCell_pr (c : Nat) (f : Cell → Cell) : (s.updCell c f).pr = s.pr := rfl
@[simp] theorem State.updCell_lc (c : Nat) (f : Cell → Cell) : (s.updCell c f).lc = s.lc := rfl
@[simp] theorem State.updCell_dm (c : Nat) (f : Cell → Cell) : (s.updCell c f).dm = s.dm := rfl
@[simp] theorem State.updCell_bt (c : Nat) (f : Cell → Cell) : (s.updCell c f).bt = s.bt := rfl
@[simp] theorem State.updCell_hb (c : Nat) (f : Cell → Cell) : (s.updCell c f).hb = s.hb := rfl
@[simp] theorem State.updCell_gt (c : Nat) (f : Cell → Cell) : (s.updCell c f).gt = s.gt := rfl
@[simp] theorem State.updCell_sc (c : Nat) (f : Cell → Cell) : (s.updCell c f).sc = s.sc := rfl
@[simp] theorem State.updCell_qz (c : Nat) (f : Cell → Cell) : (s.updCell c f).qz = s.qz := rfl
@[simp] theorem State.updCell_ag (c : Nat) (f : Cell → Cell) : (s.updCell c f).ag = s.ag := rfl
@[simp] theorem State.updCell_ln (c : Nat) (f : Cell → Cell) : (s.updCell c f).ln = s.ln := rfl
@[simp] theorem State.updCell_cd (c : Nat) (f : Cell → Cell) : (s.updCell c f).cd = s.cd := rfl
@[simp] theorem State.updCell_jr (c : Nat) (f : Cell → Cell) : (s.updCell c f).jr = s.jr := rfl
@[simp] theorem State.updCell_quartz (c : Nat) (f : Cell → Cell) : (s.updCell c f).quartz = s.quartz := rfl
@[simp] theorem State.updCell_randoms (c : Nat) (f : Cell → Cell) : (s.updCell c f).randoms = s.randoms := rfl
@[simp] theorem State.updCell_frees (c : Nat) (f : Cell → Cell) : (s.updCell c f).frees = s.frees := rfl
@[simp] theorem State.updCell_out (c : Nat) (f : Cell → Cell) : (s.updCell c f).out = s.out := rfl
@[simp] theorem State.updCell_pending (c : Nat) (f : Cell → Cell) : (s.updCell c f).pending = s.pending := rfl
@[simp] theorem State.updCell_get (c : Nat) (f : Cell → Cell) (r : Field) : (s.updCell c f).get r = s.get r := rfl
@[simp] theorem State.updCell_bit (c : Nat) (f : Cell → Cell) (r : Field) (j : Nat) : (s.updCell c f).bit r j = s.bit r j := rfl
@[simp] theorem State.updCell_part (c : Nat) (f : Cell → Cell) (p₀ : Nat) : (s.updCell c f).part p₀ = s.part p₀ := rfl
@[simp] theorem State.updCell_ctx (c : Nat) (f : Cell → Cell) (k₀ : Nat) : (s.updCell c f).ctx k₀ = s.ctx k₀ := rfl
@[simp] theorem State.updCell_qp (c : Nat) (f : Cell → Cell) (p₀ q₀ : Nat) : (s.updCell c f).qp p₀ q₀ = s.qp p₀ q₀ := rfl

/-! ## `State.updDrbg` -/

@[simp] theorem State.updDrbg_regs (n : Nat) (f : Drbg → Drbg) : (s.updDrbg n f).regs = s.regs := rfl
@[simp] theorem State.updDrbg_mode (n : Nat) (f : Drbg → Drbg) : (s.updDrbg n f).mode = s.mode := rfl
@[simp] theorem State.updDrbg_parts (n : Nat) (f : Drbg → Drbg) : (s.updDrbg n f).parts = s.parts := rfl
@[simp] theorem State.updDrbg_hq (n : Nat) (f : Drbg → Drbg) : (s.updDrbg n f).hq = s.hq := rfl
@[simp] theorem State.updDrbg_sq (n : Nat) (f : Drbg → Drbg) : (s.updDrbg n f).sq = s.sq := rfl
@[simp] theorem State.updDrbg_ci (n : Nat) (f : Drbg → Drbg) : (s.updDrbg n f).ci = s.ci := rfl
@[simp] theorem State.updDrbg_ge (n : Nat) (f : Drbg → Drbg) : (s.updDrbg n f).ge = s.ge := rfl
@[simp] theorem State.updDrbg_arbs (n : Nat) (f : Drbg → Drbg) : (s.updDrbg n f).arbs = s.arbs := rfl
@[simp] theorem State.updDrbg_pk (n : Nat) (f : Drbg → Drbg) : (s.updDrbg n f).pk = s.pk := rfl
@[simp] theorem State.updDrbg_fl_queues (n : Nat) (f : Drbg → Drbg) : (s.updDrbg n f).fl.queues = s.fl.queues := rfl
@[simp] theorem State.updDrbg_fl_seed (n : Nat) (f : Drbg → Drbg) : (s.updDrbg n f).fl.seed = s.fl.seed := rfl
@[simp] theorem State.updDrbg_fl_seedFor (n : Nat) (f : Drbg → Drbg) : (s.updDrbg n f).fl.seedFor = s.fl.seedFor := rfl
@[simp] theorem State.updDrbg_fl_seedFrom (n : Nat) (f : Drbg → Drbg) : (s.updDrbg n f).fl.seedFrom = s.fl.seedFrom := rfl
@[simp] theorem State.updDrbg_fl_turn (n : Nat) (f : Drbg → Drbg) : (s.updDrbg n f).fl.turn = s.fl.turn := rfl
@[simp] theorem State.updDrbg_fl_cells (n : Nat) (f : Drbg → Drbg) : (s.updDrbg n f).fl.cells = s.fl.cells := rfl
@[simp] theorem State.updDrbg_fl_failures (n : Nat) (f : Drbg → Drbg) : (s.updDrbg n f).fl.failures = s.fl.failures := rfl
@[simp] theorem State.updDrbg_fl_powered (n : Nat) (f : Drbg → Drbg) : (s.updDrbg n f).fl.powered = s.fl.powered := rfl
@[simp] theorem State.updDrbg_fl_everReady (n : Nat) (f : Drbg → Drbg) : (s.updDrbg n f).fl.everReady = s.fl.everReady := rfl
@[simp] theorem State.updDrbg_ob (n : Nat) (f : Drbg → Drbg) : (s.updDrbg n f).ob = s.ob := rfl
@[simp] theorem State.updDrbg_pw (n : Nat) (f : Drbg → Drbg) : (s.updDrbg n f).pw = s.pw := rfl
@[simp] theorem State.updDrbg_pr (n : Nat) (f : Drbg → Drbg) : (s.updDrbg n f).pr = s.pr := rfl
@[simp] theorem State.updDrbg_lc (n : Nat) (f : Drbg → Drbg) : (s.updDrbg n f).lc = s.lc := rfl
@[simp] theorem State.updDrbg_dm (n : Nat) (f : Drbg → Drbg) : (s.updDrbg n f).dm = s.dm := rfl
@[simp] theorem State.updDrbg_bt (n : Nat) (f : Drbg → Drbg) : (s.updDrbg n f).bt = s.bt := rfl
@[simp] theorem State.updDrbg_hb (n : Nat) (f : Drbg → Drbg) : (s.updDrbg n f).hb = s.hb := rfl
@[simp] theorem State.updDrbg_gt (n : Nat) (f : Drbg → Drbg) : (s.updDrbg n f).gt = s.gt := rfl
@[simp] theorem State.updDrbg_sc (n : Nat) (f : Drbg → Drbg) : (s.updDrbg n f).sc = s.sc := rfl
@[simp] theorem State.updDrbg_qz (n : Nat) (f : Drbg → Drbg) : (s.updDrbg n f).qz = s.qz := rfl
@[simp] theorem State.updDrbg_ag (n : Nat) (f : Drbg → Drbg) : (s.updDrbg n f).ag = s.ag := rfl
@[simp] theorem State.updDrbg_ln (n : Nat) (f : Drbg → Drbg) : (s.updDrbg n f).ln = s.ln := rfl
@[simp] theorem State.updDrbg_cd (n : Nat) (f : Drbg → Drbg) : (s.updDrbg n f).cd = s.cd := rfl
@[simp] theorem State.updDrbg_jr (n : Nat) (f : Drbg → Drbg) : (s.updDrbg n f).jr = s.jr := rfl
@[simp] theorem State.updDrbg_quartz (n : Nat) (f : Drbg → Drbg) : (s.updDrbg n f).quartz = s.quartz := rfl
@[simp] theorem State.updDrbg_randoms (n : Nat) (f : Drbg → Drbg) : (s.updDrbg n f).randoms = s.randoms := rfl
@[simp] theorem State.updDrbg_frees (n : Nat) (f : Drbg → Drbg) : (s.updDrbg n f).frees = s.frees := rfl
@[simp] theorem State.updDrbg_out (n : Nat) (f : Drbg → Drbg) : (s.updDrbg n f).out = s.out := rfl
@[simp] theorem State.updDrbg_pending (n : Nat) (f : Drbg → Drbg) : (s.updDrbg n f).pending = s.pending := rfl
@[simp] theorem State.updDrbg_get (n : Nat) (f : Drbg → Drbg) (r : Field) : (s.updDrbg n f).get r = s.get r := rfl
@[simp] theorem State.updDrbg_bit (n : Nat) (f : Drbg → Drbg) (r : Field) (j : Nat) : (s.updDrbg n f).bit r j = s.bit r j := rfl
@[simp] theorem State.updDrbg_part (n : Nat) (f : Drbg → Drbg) (p₀ : Nat) : (s.updDrbg n f).part p₀ = s.part p₀ := rfl
@[simp] theorem State.updDrbg_ctx (n : Nat) (f : Drbg → Drbg) (k₀ : Nat) : (s.updDrbg n f).ctx k₀ = s.ctx k₀ := rfl
@[simp] theorem State.updDrbg_qp (n : Nat) (f : Drbg → Drbg) (p₀ q₀ : Nat) : (s.updDrbg n f).qp p₀ q₀ = s.qp p₀ q₀ := rfl

/-! ## `State.updArb` -/

@[simp] theorem State.updArb_regs (u : Nat) (f : Arbiter → Arbiter) : (s.updArb u f).regs = s.regs := rfl
@[simp] theorem State.updArb_mode (u : Nat) (f : Arbiter → Arbiter) : (s.updArb u f).mode = s.mode := rfl
@[simp] theorem State.updArb_parts (u : Nat) (f : Arbiter → Arbiter) : (s.updArb u f).parts = s.parts := rfl
@[simp] theorem State.updArb_hq (u : Nat) (f : Arbiter → Arbiter) : (s.updArb u f).hq = s.hq := rfl
@[simp] theorem State.updArb_sq (u : Nat) (f : Arbiter → Arbiter) : (s.updArb u f).sq = s.sq := rfl
@[simp] theorem State.updArb_ci (u : Nat) (f : Arbiter → Arbiter) : (s.updArb u f).ci = s.ci := rfl
@[simp] theorem State.updArb_ge (u : Nat) (f : Arbiter → Arbiter) : (s.updArb u f).ge = s.ge := rfl
@[simp] theorem State.updArb_pk (u : Nat) (f : Arbiter → Arbiter) : (s.updArb u f).pk = s.pk := rfl
@[simp] theorem State.updArb_fl (u : Nat) (f : Arbiter → Arbiter) : (s.updArb u f).fl = s.fl := rfl
@[simp] theorem State.updArb_ob (u : Nat) (f : Arbiter → Arbiter) : (s.updArb u f).ob = s.ob := rfl
@[simp] theorem State.updArb_pw (u : Nat) (f : Arbiter → Arbiter) : (s.updArb u f).pw = s.pw := rfl
@[simp] theorem State.updArb_pr (u : Nat) (f : Arbiter → Arbiter) : (s.updArb u f).pr = s.pr := rfl
@[simp] theorem State.updArb_lc (u : Nat) (f : Arbiter → Arbiter) : (s.updArb u f).lc = s.lc := rfl
@[simp] theorem State.updArb_dm (u : Nat) (f : Arbiter → Arbiter) : (s.updArb u f).dm = s.dm := rfl
@[simp] theorem State.updArb_bt (u : Nat) (f : Arbiter → Arbiter) : (s.updArb u f).bt = s.bt := rfl
@[simp] theorem State.updArb_hb (u : Nat) (f : Arbiter → Arbiter) : (s.updArb u f).hb = s.hb := rfl
@[simp] theorem State.updArb_gt (u : Nat) (f : Arbiter → Arbiter) : (s.updArb u f).gt = s.gt := rfl
@[simp] theorem State.updArb_sc (u : Nat) (f : Arbiter → Arbiter) : (s.updArb u f).sc = s.sc := rfl
@[simp] theorem State.updArb_qz (u : Nat) (f : Arbiter → Arbiter) : (s.updArb u f).qz = s.qz := rfl
@[simp] theorem State.updArb_ag (u : Nat) (f : Arbiter → Arbiter) : (s.updArb u f).ag = s.ag := rfl
@[simp] theorem State.updArb_ln (u : Nat) (f : Arbiter → Arbiter) : (s.updArb u f).ln = s.ln := rfl
@[simp] theorem State.updArb_cd (u : Nat) (f : Arbiter → Arbiter) : (s.updArb u f).cd = s.cd := rfl
@[simp] theorem State.updArb_jr (u : Nat) (f : Arbiter → Arbiter) : (s.updArb u f).jr = s.jr := rfl
@[simp] theorem State.updArb_quartz (u : Nat) (f : Arbiter → Arbiter) : (s.updArb u f).quartz = s.quartz := rfl
@[simp] theorem State.updArb_randoms (u : Nat) (f : Arbiter → Arbiter) : (s.updArb u f).randoms = s.randoms := rfl
@[simp] theorem State.updArb_frees (u : Nat) (f : Arbiter → Arbiter) : (s.updArb u f).frees = s.frees := rfl
@[simp] theorem State.updArb_out (u : Nat) (f : Arbiter → Arbiter) : (s.updArb u f).out = s.out := rfl
@[simp] theorem State.updArb_pending (u : Nat) (f : Arbiter → Arbiter) : (s.updArb u f).pending = s.pending := rfl
@[simp] theorem State.updArb_get (u : Nat) (f : Arbiter → Arbiter) (r : Field) : (s.updArb u f).get r = s.get r := rfl
@[simp] theorem State.updArb_bit (u : Nat) (f : Arbiter → Arbiter) (r : Field) (j : Nat) : (s.updArb u f).bit r j = s.bit r j := rfl
@[simp] theorem State.updArb_part (u : Nat) (f : Arbiter → Arbiter) (p₀ : Nat) : (s.updArb u f).part p₀ = s.part p₀ := rfl
@[simp] theorem State.updArb_ctx (u : Nat) (f : Arbiter → Arbiter) (k₀ : Nat) : (s.updArb u f).ctx k₀ = s.ctx k₀ := rfl
@[simp] theorem State.updArb_qp (u : Nat) (f : Arbiter → Arbiter) (p₀ q₀ : Nat) : (s.updArb u f).qp p₀ q₀ = s.qp p₀ q₀ := rfl

/-! ## `State.updThread` -/

@[simp] theorem State.updThread_regs (t : Nat) (f : Thread → Thread) : (s.updThread t f).regs = s.regs := rfl
@[simp] theorem State.updThread_mode (t : Nat) (f : Thread → Thread) : (s.updThread t f).mode = s.mode := rfl
@[simp] theorem State.updThread_parts (t : Nat) (f : Thread → Thread) : (s.updThread t f).parts = s.parts := rfl
@[simp] theorem State.updThread_hq (t : Nat) (f : Thread → Thread) : (s.updThread t f).hq = s.hq := rfl
@[simp] theorem State.updThread_sq (t : Nat) (f : Thread → Thread) : (s.updThread t f).sq = s.sq := rfl
@[simp] theorem State.updThread_ci (t : Nat) (f : Thread → Thread) : (s.updThread t f).ci = s.ci := rfl
@[simp] theorem State.updThread_ge (t : Nat) (f : Thread → Thread) : (s.updThread t f).ge = s.ge := rfl
@[simp] theorem State.updThread_arbs (t : Nat) (f : Thread → Thread) : (s.updThread t f).arbs = s.arbs := rfl
@[simp] theorem State.updThread_pk (t : Nat) (f : Thread → Thread) : (s.updThread t f).pk = s.pk := rfl
@[simp] theorem State.updThread_fl (t : Nat) (f : Thread → Thread) : (s.updThread t f).fl = s.fl := rfl
@[simp] theorem State.updThread_ob (t : Nat) (f : Thread → Thread) : (s.updThread t f).ob = s.ob := rfl
@[simp] theorem State.updThread_pw (t : Nat) (f : Thread → Thread) : (s.updThread t f).pw = s.pw := rfl
@[simp] theorem State.updThread_pr (t : Nat) (f : Thread → Thread) : (s.updThread t f).pr = s.pr := rfl
@[simp] theorem State.updThread_lc (t : Nat) (f : Thread → Thread) : (s.updThread t f).lc = s.lc := rfl
@[simp] theorem State.updThread_dm (t : Nat) (f : Thread → Thread) : (s.updThread t f).dm = s.dm := rfl
@[simp] theorem State.updThread_bt (t : Nat) (f : Thread → Thread) : (s.updThread t f).bt = s.bt := rfl
@[simp] theorem State.updThread_hb (t : Nat) (f : Thread → Thread) : (s.updThread t f).hb = s.hb := rfl
@[simp] theorem State.updThread_gt (t : Nat) (f : Thread → Thread) : (s.updThread t f).gt = s.gt := rfl
@[simp] theorem State.updThread_sc_sram (t : Nat) (f : Thread → Thread) : (s.updThread t f).sc.sram = s.sc.sram := rfl
@[simp] theorem State.updThread_sc_ready (t : Nat) (f : Thread → Thread) : (s.updThread t f).sc.ready = s.sc.ready := rfl
@[simp] theorem State.updThread_sc_delayed (t : Nat) (f : Thread → Thread) : (s.updThread t f).sc.delayed = s.sc.delayed := rfl
@[simp] theorem State.updThread_sc_tags (t : Nat) (f : Thread → Thread) : (s.updThread t f).sc.tags = s.sc.tags := rfl
@[simp] theorem State.updThread_sc_ticks (t : Nat) (f : Thread → Thread) : (s.updThread t f).sc.ticks = s.sc.ticks := rfl
@[simp] theorem State.updThread_sc_tickDue (t : Nat) (f : Thread → Thread) : (s.updThread t f).sc.tickDue = s.sc.tickDue := rfl
@[simp] theorem State.updThread_sc_applets (t : Nat) (f : Thread → Thread) : (s.updThread t f).sc.applets = s.sc.applets := rfl
@[simp] theorem State.updThread_sc_images (t : Nat) (f : Thread → Thread) : (s.updThread t f).sc.images = s.sc.images := rfl
@[simp] theorem State.updThread_qz (t : Nat) (f : Thread → Thread) : (s.updThread t f).qz = s.qz := rfl
@[simp] theorem State.updThread_ag (t : Nat) (f : Thread → Thread) : (s.updThread t f).ag = s.ag := rfl
@[simp] theorem State.updThread_ln (t : Nat) (f : Thread → Thread) : (s.updThread t f).ln = s.ln := rfl
@[simp] theorem State.updThread_cd (t : Nat) (f : Thread → Thread) : (s.updThread t f).cd = s.cd := rfl
@[simp] theorem State.updThread_jr (t : Nat) (f : Thread → Thread) : (s.updThread t f).jr = s.jr := rfl
@[simp] theorem State.updThread_quartz (t : Nat) (f : Thread → Thread) : (s.updThread t f).quartz = s.quartz := rfl
@[simp] theorem State.updThread_randoms (t : Nat) (f : Thread → Thread) : (s.updThread t f).randoms = s.randoms := rfl
@[simp] theorem State.updThread_frees (t : Nat) (f : Thread → Thread) : (s.updThread t f).frees = s.frees := rfl
@[simp] theorem State.updThread_out (t : Nat) (f : Thread → Thread) : (s.updThread t f).out = s.out := rfl
@[simp] theorem State.updThread_pending (t : Nat) (f : Thread → Thread) : (s.updThread t f).pending = s.pending := rfl
@[simp] theorem State.updThread_get (t : Nat) (f : Thread → Thread) (r : Field) : (s.updThread t f).get r = s.get r := rfl
@[simp] theorem State.updThread_bit (t : Nat) (f : Thread → Thread) (r : Field) (j : Nat) : (s.updThread t f).bit r j = s.bit r j := rfl
@[simp] theorem State.updThread_part (t : Nat) (f : Thread → Thread) (p₀ : Nat) : (s.updThread t f).part p₀ = s.part p₀ := rfl
@[simp] theorem State.updThread_ctx (t : Nat) (f : Thread → Thread) (k₀ : Nat) : (s.updThread t f).ctx k₀ = s.ctx k₀ := rfl
@[simp] theorem State.updThread_qp (t : Nat) (f : Thread → Thread) (p₀ q₀ : Nat) : (s.updThread t f).qp p₀ q₀ = s.qp p₀ q₀ := rfl

/-! ## `State.updPk` -/

@[simp] theorem State.updPk_regs (p u : Nat) (f : PkUnit → PkUnit) : (s.updPk p u f).regs = s.regs := rfl
@[simp] theorem State.updPk_mode (p u : Nat) (f : PkUnit → PkUnit) : (s.updPk p u f).mode = s.mode := rfl
@[simp] theorem State.updPk_parts (p u : Nat) (f : PkUnit → PkUnit) : (s.updPk p u f).parts = s.parts := rfl
@[simp] theorem State.updPk_hq (p u : Nat) (f : PkUnit → PkUnit) : (s.updPk p u f).hq = s.hq := rfl
@[simp] theorem State.updPk_sq (p u : Nat) (f : PkUnit → PkUnit) : (s.updPk p u f).sq = s.sq := rfl
@[simp] theorem State.updPk_ci (p u : Nat) (f : PkUnit → PkUnit) : (s.updPk p u f).ci = s.ci := rfl
@[simp] theorem State.updPk_ge (p u : Nat) (f : PkUnit → PkUnit) : (s.updPk p u f).ge = s.ge := rfl
@[simp] theorem State.updPk_arbs (p u : Nat) (f : PkUnit → PkUnit) : (s.updPk p u f).arbs = s.arbs := rfl
@[simp] theorem State.updPk_pk_queues (p u : Nat) (f : PkUnit → PkUnit) : (s.updPk p u f).pk.queues = s.pk.queues := rfl
@[simp] theorem State.updPk_pk_lastOut (p u : Nat) (f : PkUnit → PkUnit) : (s.updPk p u f).pk.lastOut = s.pk.lastOut := rfl
@[simp] theorem State.updPk_pk_lastCheck (p u : Nat) (f : PkUnit → PkUnit) : (s.updPk p u f).pk.lastCheck = s.pk.lastCheck := rfl
@[simp] theorem State.updPk_pk_curves (p u : Nat) (f : PkUnit → PkUnit) : (s.updPk p u f).pk.curves = s.pk.curves := rfl
@[simp] theorem State.updPk_pk_crvCommits (p u : Nat) (f : PkUnit → PkUnit) : (s.updPk p u f).pk.crvCommits = s.pk.crvCommits := rfl
@[simp] theorem State.updPk_fl (p u : Nat) (f : PkUnit → PkUnit) : (s.updPk p u f).fl = s.fl := rfl
@[simp] theorem State.updPk_ob (p u : Nat) (f : PkUnit → PkUnit) : (s.updPk p u f).ob = s.ob := rfl
@[simp] theorem State.updPk_pw (p u : Nat) (f : PkUnit → PkUnit) : (s.updPk p u f).pw = s.pw := rfl
@[simp] theorem State.updPk_pr (p u : Nat) (f : PkUnit → PkUnit) : (s.updPk p u f).pr = s.pr := rfl
@[simp] theorem State.updPk_lc (p u : Nat) (f : PkUnit → PkUnit) : (s.updPk p u f).lc = s.lc := rfl
@[simp] theorem State.updPk_dm (p u : Nat) (f : PkUnit → PkUnit) : (s.updPk p u f).dm = s.dm := rfl
@[simp] theorem State.updPk_bt (p u : Nat) (f : PkUnit → PkUnit) : (s.updPk p u f).bt = s.bt := rfl
@[simp] theorem State.updPk_hb (p u : Nat) (f : PkUnit → PkUnit) : (s.updPk p u f).hb = s.hb := rfl
@[simp] theorem State.updPk_gt (p u : Nat) (f : PkUnit → PkUnit) : (s.updPk p u f).gt = s.gt := rfl
@[simp] theorem State.updPk_sc (p u : Nat) (f : PkUnit → PkUnit) : (s.updPk p u f).sc = s.sc := rfl
@[simp] theorem State.updPk_qz (p u : Nat) (f : PkUnit → PkUnit) : (s.updPk p u f).qz = s.qz := rfl
@[simp] theorem State.updPk_ag (p u : Nat) (f : PkUnit → PkUnit) : (s.updPk p u f).ag = s.ag := rfl
@[simp] theorem State.updPk_ln (p u : Nat) (f : PkUnit → PkUnit) : (s.updPk p u f).ln = s.ln := rfl
@[simp] theorem State.updPk_cd (p u : Nat) (f : PkUnit → PkUnit) : (s.updPk p u f).cd = s.cd := rfl
@[simp] theorem State.updPk_jr (p u : Nat) (f : PkUnit → PkUnit) : (s.updPk p u f).jr = s.jr := rfl
@[simp] theorem State.updPk_quartz (p u : Nat) (f : PkUnit → PkUnit) : (s.updPk p u f).quartz = s.quartz := rfl
@[simp] theorem State.updPk_randoms (p u : Nat) (f : PkUnit → PkUnit) : (s.updPk p u f).randoms = s.randoms := rfl
@[simp] theorem State.updPk_frees (p u : Nat) (f : PkUnit → PkUnit) : (s.updPk p u f).frees = s.frees := rfl
@[simp] theorem State.updPk_out (p u : Nat) (f : PkUnit → PkUnit) : (s.updPk p u f).out = s.out := rfl
@[simp] theorem State.updPk_pending (p u : Nat) (f : PkUnit → PkUnit) : (s.updPk p u f).pending = s.pending := rfl
@[simp] theorem State.updPk_get (p u : Nat) (f : PkUnit → PkUnit) (r : Field) : (s.updPk p u f).get r = s.get r := rfl
@[simp] theorem State.updPk_bit (p u : Nat) (f : PkUnit → PkUnit) (r : Field) (j : Nat) : (s.updPk p u f).bit r j = s.bit r j := rfl
@[simp] theorem State.updPk_part (p u : Nat) (f : PkUnit → PkUnit) (p₀ : Nat) : (s.updPk p u f).part p₀ = s.part p₀ := rfl
@[simp] theorem State.updPk_ctx (p u : Nat) (f : PkUnit → PkUnit) (k₀ : Nat) : (s.updPk p u f).ctx k₀ = s.ctx k₀ := rfl
@[simp] theorem State.updPk_qp (p u : Nat) (f : PkUnit → PkUnit) (p₀ q₀ : Nat) : (s.updPk p u f).qp p₀ q₀ = s.qp p₀ q₀ := rfl

/-! ## `State.setPkQueue` -/

@[simp] theorem State.setPkQueue_regs (p : Nat) (l : Bool) (q : List PkOp) : (s.setPkQueue p l q).regs = s.regs := rfl
@[simp] theorem State.setPkQueue_mode (p : Nat) (l : Bool) (q : List PkOp) : (s.setPkQueue p l q).mode = s.mode := rfl
@[simp] theorem State.setPkQueue_parts (p : Nat) (l : Bool) (q : List PkOp) : (s.setPkQueue p l q).parts = s.parts := rfl
@[simp] theorem State.setPkQueue_hq (p : Nat) (l : Bool) (q : List PkOp) : (s.setPkQueue p l q).hq = s.hq := rfl
@[simp] theorem State.setPkQueue_sq (p : Nat) (l : Bool) (q : List PkOp) : (s.setPkQueue p l q).sq = s.sq := rfl
@[simp] theorem State.setPkQueue_ci (p : Nat) (l : Bool) (q : List PkOp) : (s.setPkQueue p l q).ci = s.ci := rfl
@[simp] theorem State.setPkQueue_ge (p : Nat) (l : Bool) (q : List PkOp) : (s.setPkQueue p l q).ge = s.ge := rfl
@[simp] theorem State.setPkQueue_arbs (p : Nat) (l : Bool) (q : List PkOp) : (s.setPkQueue p l q).arbs = s.arbs := rfl
@[simp] theorem State.setPkQueue_pk_units (p : Nat) (l : Bool) (q : List PkOp) : (s.setPkQueue p l q).pk.units = s.pk.units := rfl
@[simp] theorem State.setPkQueue_pk_lastOut (p : Nat) (l : Bool) (q : List PkOp) : (s.setPkQueue p l q).pk.lastOut = s.pk.lastOut := rfl
@[simp] theorem State.setPkQueue_pk_lastCheck (p : Nat) (l : Bool) (q : List PkOp) : (s.setPkQueue p l q).pk.lastCheck = s.pk.lastCheck := rfl
@[simp] theorem State.setPkQueue_pk_curves (p : Nat) (l : Bool) (q : List PkOp) : (s.setPkQueue p l q).pk.curves = s.pk.curves := rfl
@[simp] theorem State.setPkQueue_pk_crvCommits (p : Nat) (l : Bool) (q : List PkOp) : (s.setPkQueue p l q).pk.crvCommits = s.pk.crvCommits := rfl
@[simp] theorem State.setPkQueue_fl (p : Nat) (l : Bool) (q : List PkOp) : (s.setPkQueue p l q).fl = s.fl := rfl
@[simp] theorem State.setPkQueue_ob (p : Nat) (l : Bool) (q : List PkOp) : (s.setPkQueue p l q).ob = s.ob := rfl
@[simp] theorem State.setPkQueue_pw (p : Nat) (l : Bool) (q : List PkOp) : (s.setPkQueue p l q).pw = s.pw := rfl
@[simp] theorem State.setPkQueue_pr (p : Nat) (l : Bool) (q : List PkOp) : (s.setPkQueue p l q).pr = s.pr := rfl
@[simp] theorem State.setPkQueue_lc (p : Nat) (l : Bool) (q : List PkOp) : (s.setPkQueue p l q).lc = s.lc := rfl
@[simp] theorem State.setPkQueue_dm (p : Nat) (l : Bool) (q : List PkOp) : (s.setPkQueue p l q).dm = s.dm := rfl
@[simp] theorem State.setPkQueue_bt (p : Nat) (l : Bool) (q : List PkOp) : (s.setPkQueue p l q).bt = s.bt := rfl
@[simp] theorem State.setPkQueue_hb (p : Nat) (l : Bool) (q : List PkOp) : (s.setPkQueue p l q).hb = s.hb := rfl
@[simp] theorem State.setPkQueue_gt (p : Nat) (l : Bool) (q : List PkOp) : (s.setPkQueue p l q).gt = s.gt := rfl
@[simp] theorem State.setPkQueue_sc (p : Nat) (l : Bool) (q : List PkOp) : (s.setPkQueue p l q).sc = s.sc := rfl
@[simp] theorem State.setPkQueue_qz (p : Nat) (l : Bool) (q : List PkOp) : (s.setPkQueue p l q).qz = s.qz := rfl
@[simp] theorem State.setPkQueue_ag (p : Nat) (l : Bool) (q : List PkOp) : (s.setPkQueue p l q).ag = s.ag := rfl
@[simp] theorem State.setPkQueue_ln (p : Nat) (l : Bool) (q : List PkOp) : (s.setPkQueue p l q).ln = s.ln := rfl
@[simp] theorem State.setPkQueue_cd (p : Nat) (l : Bool) (q : List PkOp) : (s.setPkQueue p l q).cd = s.cd := rfl
@[simp] theorem State.setPkQueue_jr (p : Nat) (l : Bool) (q : List PkOp) : (s.setPkQueue p l q).jr = s.jr := rfl
@[simp] theorem State.setPkQueue_quartz (p : Nat) (l : Bool) (q : List PkOp) : (s.setPkQueue p l q).quartz = s.quartz := rfl
@[simp] theorem State.setPkQueue_randoms (p : Nat) (l : Bool) (q : List PkOp) : (s.setPkQueue p l q).randoms = s.randoms := rfl
@[simp] theorem State.setPkQueue_frees (p : Nat) (l : Bool) (q : List PkOp) : (s.setPkQueue p l q).frees = s.frees := rfl
@[simp] theorem State.setPkQueue_out (p : Nat) (l : Bool) (q : List PkOp) : (s.setPkQueue p l q).out = s.out := rfl
@[simp] theorem State.setPkQueue_pending (p : Nat) (l : Bool) (q : List PkOp) : (s.setPkQueue p l q).pending = s.pending := rfl
@[simp] theorem State.setPkQueue_get (p : Nat) (l : Bool) (q : List PkOp) (r : Field) : (s.setPkQueue p l q).get r = s.get r := rfl
@[simp] theorem State.setPkQueue_bit (p : Nat) (l : Bool) (q : List PkOp) (r : Field) (j : Nat) : (s.setPkQueue p l q).bit r j = s.bit r j := rfl
@[simp] theorem State.setPkQueue_part (p : Nat) (l : Bool) (q : List PkOp) (p₀ : Nat) : (s.setPkQueue p l q).part p₀ = s.part p₀ := rfl
@[simp] theorem State.setPkQueue_ctx (p : Nat) (l : Bool) (q : List PkOp) (k₀ : Nat) : (s.setPkQueue p l q).ctx k₀ = s.ctx k₀ := rfl
@[simp] theorem State.setPkQueue_qp (p : Nat) (l : Bool) (q : List PkOp) (p₀ q₀ : Nat) : (s.setPkQueue p l q).qp p₀ q₀ = s.qp p₀ q₀ := rfl

/-! ## `State.updLink` -/

@[simp] theorem State.updLink_regs (k : Nat) (f : Link → Link) : (s.updLink k f).regs = s.regs := rfl
@[simp] theorem State.updLink_mode (k : Nat) (f : Link → Link) : (s.updLink k f).mode = s.mode := rfl
@[simp] theorem State.updLink_parts (k : Nat) (f : Link → Link) : (s.updLink k f).parts = s.parts := rfl
@[simp] theorem State.updLink_hq (k : Nat) (f : Link → Link) : (s.updLink k f).hq = s.hq := rfl
@[simp] theorem State.updLink_sq (k : Nat) (f : Link → Link) : (s.updLink k f).sq = s.sq := rfl
@[simp] theorem State.updLink_ci (k : Nat) (f : Link → Link) : (s.updLink k f).ci = s.ci := rfl
@[simp] theorem State.updLink_ge (k : Nat) (f : Link → Link) : (s.updLink k f).ge = s.ge := rfl
@[simp] theorem State.updLink_arbs (k : Nat) (f : Link → Link) : (s.updLink k f).arbs = s.arbs := rfl
@[simp] theorem State.updLink_pk (k : Nat) (f : Link → Link) : (s.updLink k f).pk = s.pk := rfl
@[simp] theorem State.updLink_fl (k : Nat) (f : Link → Link) : (s.updLink k f).fl = s.fl := rfl
@[simp] theorem State.updLink_ob (k : Nat) (f : Link → Link) : (s.updLink k f).ob = s.ob := rfl
@[simp] theorem State.updLink_pw (k : Nat) (f : Link → Link) : (s.updLink k f).pw = s.pw := rfl
@[simp] theorem State.updLink_pr (k : Nat) (f : Link → Link) : (s.updLink k f).pr = s.pr := rfl
@[simp] theorem State.updLink_lc (k : Nat) (f : Link → Link) : (s.updLink k f).lc = s.lc := rfl
@[simp] theorem State.updLink_dm (k : Nat) (f : Link → Link) : (s.updLink k f).dm = s.dm := rfl
@[simp] theorem State.updLink_bt (k : Nat) (f : Link → Link) : (s.updLink k f).bt = s.bt := rfl
@[simp] theorem State.updLink_hb (k : Nat) (f : Link → Link) : (s.updLink k f).hb = s.hb := rfl
@[simp] theorem State.updLink_gt (k : Nat) (f : Link → Link) : (s.updLink k f).gt = s.gt := rfl
@[simp] theorem State.updLink_sc (k : Nat) (f : Link → Link) : (s.updLink k f).sc = s.sc := rfl
@[simp] theorem State.updLink_qz (k : Nat) (f : Link → Link) : (s.updLink k f).qz = s.qz := rfl
@[simp] theorem State.updLink_ag (k : Nat) (f : Link → Link) : (s.updLink k f).ag = s.ag := rfl
@[simp] theorem State.updLink_cd (k : Nat) (f : Link → Link) : (s.updLink k f).cd = s.cd := rfl
@[simp] theorem State.updLink_jr (k : Nat) (f : Link → Link) : (s.updLink k f).jr = s.jr := rfl
@[simp] theorem State.updLink_quartz (k : Nat) (f : Link → Link) : (s.updLink k f).quartz = s.quartz := rfl
@[simp] theorem State.updLink_randoms (k : Nat) (f : Link → Link) : (s.updLink k f).randoms = s.randoms := rfl
@[simp] theorem State.updLink_frees (k : Nat) (f : Link → Link) : (s.updLink k f).frees = s.frees := rfl
@[simp] theorem State.updLink_out (k : Nat) (f : Link → Link) : (s.updLink k f).out = s.out := rfl
@[simp] theorem State.updLink_pending (k : Nat) (f : Link → Link) : (s.updLink k f).pending = s.pending := rfl
@[simp] theorem State.updLink_get (k : Nat) (f : Link → Link) (r : Field) : (s.updLink k f).get r = s.get r := rfl
@[simp] theorem State.updLink_bit (k : Nat) (f : Link → Link) (r : Field) (j : Nat) : (s.updLink k f).bit r j = s.bit r j := rfl
@[simp] theorem State.updLink_part (k : Nat) (f : Link → Link) (p₀ : Nat) : (s.updLink k f).part p₀ = s.part p₀ := rfl
@[simp] theorem State.updLink_ctx (k : Nat) (f : Link → Link) (k₀ : Nat) : (s.updLink k f).ctx k₀ = s.ctx k₀ := rfl
@[simp] theorem State.updLink_qp (k : Nat) (f : Link → Link) (p₀ q₀ : Nat) : (s.updLink k f).qp p₀ q₀ = s.qp p₀ q₀ := rfl

/-! ## `State.setCache` -/

@[simp] theorem State.setCache_regs (n : Nat) (es : List CacheEntry) : (s.setCache n es).regs = s.regs := rfl
@[simp] theorem State.setCache_mode (n : Nat) (es : List CacheEntry) : (s.setCache n es).mode = s.mode := rfl
@[simp] theorem State.setCache_parts (n : Nat) (es : List CacheEntry) : (s.setCache n es).parts = s.parts := rfl
@[simp] theorem State.setCache_hq (n : Nat) (es : List CacheEntry) : (s.setCache n es).hq = s.hq := rfl
@[simp] theorem State.setCache_sq (n : Nat) (es : List CacheEntry) : (s.setCache n es).sq = s.sq := rfl
@[simp] theorem State.setCache_ci (n : Nat) (es : List CacheEntry) : (s.setCache n es).ci = s.ci := rfl
@[simp] theorem State.setCache_ge_lines (n : Nat) (es : List CacheEntry) : (s.setCache n es).ge.lines = s.ge.lines := rfl
@[simp] theorem State.setCache_ge_fences (n : Nat) (es : List CacheEntry) : (s.setCache n es).ge.fences = s.ge.fences := rfl
@[simp] theorem State.setCache_ge_masks (n : Nat) (es : List CacheEntry) : (s.setCache n es).ge.masks = s.ge.masks := rfl
@[simp] theorem State.setCache_ge_maskSeeds (n : Nat) (es : List CacheEntry) : (s.setCache n es).ge.maskSeeds = s.ge.maskSeeds := rfl
@[simp] theorem State.setCache_ge_maskTimes (n : Nat) (es : List CacheEntry) : (s.setCache n es).ge.maskTimes = s.ge.maskTimes := rfl
@[simp] theorem State.setCache_ge_swept (n : Nat) (es : List CacheEntry) : (s.setCache n es).ge.swept = s.ge.swept := rfl
@[simp] theorem State.setCache_ge_ready (n : Nat) (es : List CacheEntry) : (s.setCache n es).ge.ready = s.ge.ready := rfl
@[simp] theorem State.setCache_arbs (n : Nat) (es : List CacheEntry) : (s.setCache n es).arbs = s.arbs := rfl
@[simp] theorem State.setCache_pk (n : Nat) (es : List CacheEntry) : (s.setCache n es).pk = s.pk := rfl
@[simp] theorem State.setCache_fl (n : Nat) (es : List CacheEntry) : (s.setCache n es).fl = s.fl := rfl
@[simp] theorem State.setCache_ob (n : Nat) (es : List CacheEntry) : (s.setCache n es).ob = s.ob := rfl
@[simp] theorem State.setCache_pw (n : Nat) (es : List CacheEntry) : (s.setCache n es).pw = s.pw := rfl
@[simp] theorem State.setCache_pr (n : Nat) (es : List CacheEntry) : (s.setCache n es).pr = s.pr := rfl
@[simp] theorem State.setCache_lc (n : Nat) (es : List CacheEntry) : (s.setCache n es).lc = s.lc := rfl
@[simp] theorem State.setCache_dm (n : Nat) (es : List CacheEntry) : (s.setCache n es).dm = s.dm := rfl
@[simp] theorem State.setCache_bt (n : Nat) (es : List CacheEntry) : (s.setCache n es).bt = s.bt := rfl
@[simp] theorem State.setCache_hb (n : Nat) (es : List CacheEntry) : (s.setCache n es).hb = s.hb := rfl
@[simp] theorem State.setCache_gt (n : Nat) (es : List CacheEntry) : (s.setCache n es).gt = s.gt := rfl
@[simp] theorem State.setCache_sc (n : Nat) (es : List CacheEntry) : (s.setCache n es).sc = s.sc := rfl
@[simp] theorem State.setCache_qz (n : Nat) (es : List CacheEntry) : (s.setCache n es).qz = s.qz := rfl
@[simp] theorem State.setCache_ag (n : Nat) (es : List CacheEntry) : (s.setCache n es).ag = s.ag := rfl
@[simp] theorem State.setCache_ln (n : Nat) (es : List CacheEntry) : (s.setCache n es).ln = s.ln := rfl
@[simp] theorem State.setCache_cd (n : Nat) (es : List CacheEntry) : (s.setCache n es).cd = s.cd := rfl
@[simp] theorem State.setCache_jr (n : Nat) (es : List CacheEntry) : (s.setCache n es).jr = s.jr := rfl
@[simp] theorem State.setCache_quartz (n : Nat) (es : List CacheEntry) : (s.setCache n es).quartz = s.quartz := rfl
@[simp] theorem State.setCache_randoms (n : Nat) (es : List CacheEntry) : (s.setCache n es).randoms = s.randoms := rfl
@[simp] theorem State.setCache_frees (n : Nat) (es : List CacheEntry) : (s.setCache n es).frees = s.frees := rfl
@[simp] theorem State.setCache_out (n : Nat) (es : List CacheEntry) : (s.setCache n es).out = s.out := rfl
@[simp] theorem State.setCache_pending (n : Nat) (es : List CacheEntry) : (s.setCache n es).pending = s.pending := rfl
@[simp] theorem State.setCache_get (n : Nat) (es : List CacheEntry) (r : Field) : (s.setCache n es).get r = s.get r := rfl
@[simp] theorem State.setCache_bit (n : Nat) (es : List CacheEntry) (r : Field) (j : Nat) : (s.setCache n es).bit r j = s.bit r j := rfl
@[simp] theorem State.setCache_part (n : Nat) (es : List CacheEntry) (p₀ : Nat) : (s.setCache n es).part p₀ = s.part p₀ := rfl
@[simp] theorem State.setCache_ctx (n : Nat) (es : List CacheEntry) (k₀ : Nat) : (s.setCache n es).ctx k₀ = s.ctx k₀ := rfl
@[simp] theorem State.setCache_qp (n : Nat) (es : List CacheEntry) (p₀ q₀ : Nat) : (s.setCache n es).qp p₀ q₀ = s.qp p₀ q₀ := rfl

/-! ## `State.setResidents` -/

@[simp] theorem State.setResidents_regs (n : Nat) (rs : List Resident) : (s.setResidents n rs).regs = s.regs := rfl
@[simp] theorem State.setResidents_mode (n : Nat) (rs : List Resident) : (s.setResidents n rs).mode = s.mode := rfl
@[simp] theorem State.setResidents_parts (n : Nat) (rs : List Resident) : (s.setResidents n rs).parts = s.parts := rfl
@[simp] theorem State.setResidents_hq (n : Nat) (rs : List Resident) : (s.setResidents n rs).hq = s.hq := rfl
@[simp] theorem State.setResidents_sq_ctxs (n : Nat) (rs : List Resident) : (s.setResidents n rs).sq.ctxs = s.sq.ctxs := rfl
@[simp] theorem State.setResidents_sq_progs (n : Nat) (rs : List Resident) : (s.setResidents n rs).sq.progs = s.sq.progs := rfl
@[simp] theorem State.setResidents_sq_fmtTab (n : Nat) (rs : List Resident) : (s.setResidents n rs).sq.fmtTab = s.sq.fmtTab := rfl
@[simp] theorem State.setResidents_sq_derTab (n : Nat) (rs : List Resident) : (s.setResidents n rs).sq.derTab = s.sq.derTab := rfl
@[simp] theorem State.setResidents_sq_fmtCommits (n : Nat) (rs : List Resident) : (s.setResidents n rs).sq.fmtCommits = s.sq.fmtCommits := rfl
@[simp] theorem State.setResidents_sq_derCommits (n : Nat) (rs : List Resident) : (s.setResidents n rs).sq.derCommits = s.sq.derCommits := rfl
@[simp] theorem State.setResidents_sq_fmtPrev (n : Nat) (rs : List Resident) : (s.setResidents n rs).sq.fmtPrev = s.sq.fmtPrev := rfl
@[simp] theorem State.setResidents_sq_derPrev (n : Nat) (rs : List Resident) : (s.setResidents n rs).sq.derPrev = s.sq.derPrev := rfl
@[simp] theorem State.setResidents_ci (n : Nat) (rs : List Resident) : (s.setResidents n rs).ci = s.ci := rfl
@[simp] theorem State.setResidents_ge (n : Nat) (rs : List Resident) : (s.setResidents n rs).ge = s.ge := rfl
@[simp] theorem State.setResidents_arbs (n : Nat) (rs : List Resident) : (s.setResidents n rs).arbs = s.arbs := rfl
@[simp] theorem State.setResidents_pk (n : Nat) (rs : List Resident) : (s.setResidents n rs).pk = s.pk := rfl
@[simp] theorem State.setResidents_fl (n : Nat) (rs : List Resident) : (s.setResidents n rs).fl = s.fl := rfl
@[simp] theorem State.setResidents_ob (n : Nat) (rs : List Resident) : (s.setResidents n rs).ob = s.ob := rfl
@[simp] theorem State.setResidents_pw (n : Nat) (rs : List Resident) : (s.setResidents n rs).pw = s.pw := rfl
@[simp] theorem State.setResidents_pr (n : Nat) (rs : List Resident) : (s.setResidents n rs).pr = s.pr := rfl
@[simp] theorem State.setResidents_lc (n : Nat) (rs : List Resident) : (s.setResidents n rs).lc = s.lc := rfl
@[simp] theorem State.setResidents_dm (n : Nat) (rs : List Resident) : (s.setResidents n rs).dm = s.dm := rfl
@[simp] theorem State.setResidents_bt (n : Nat) (rs : List Resident) : (s.setResidents n rs).bt = s.bt := rfl
@[simp] theorem State.setResidents_hb (n : Nat) (rs : List Resident) : (s.setResidents n rs).hb = s.hb := rfl
@[simp] theorem State.setResidents_gt (n : Nat) (rs : List Resident) : (s.setResidents n rs).gt = s.gt := rfl
@[simp] theorem State.setResidents_sc (n : Nat) (rs : List Resident) : (s.setResidents n rs).sc = s.sc := rfl
@[simp] theorem State.setResidents_qz (n : Nat) (rs : List Resident) : (s.setResidents n rs).qz = s.qz := rfl
@[simp] theorem State.setResidents_ag (n : Nat) (rs : List Resident) : (s.setResidents n rs).ag = s.ag := rfl
@[simp] theorem State.setResidents_ln (n : Nat) (rs : List Resident) : (s.setResidents n rs).ln = s.ln := rfl
@[simp] theorem State.setResidents_cd (n : Nat) (rs : List Resident) : (s.setResidents n rs).cd = s.cd := rfl
@[simp] theorem State.setResidents_jr (n : Nat) (rs : List Resident) : (s.setResidents n rs).jr = s.jr := rfl
@[simp] theorem State.setResidents_quartz (n : Nat) (rs : List Resident) : (s.setResidents n rs).quartz = s.quartz := rfl
@[simp] theorem State.setResidents_randoms (n : Nat) (rs : List Resident) : (s.setResidents n rs).randoms = s.randoms := rfl
@[simp] theorem State.setResidents_frees (n : Nat) (rs : List Resident) : (s.setResidents n rs).frees = s.frees := rfl
@[simp] theorem State.setResidents_out (n : Nat) (rs : List Resident) : (s.setResidents n rs).out = s.out := rfl
@[simp] theorem State.setResidents_pending (n : Nat) (rs : List Resident) : (s.setResidents n rs).pending = s.pending := rfl
@[simp] theorem State.setResidents_get (n : Nat) (rs : List Resident) (r : Field) : (s.setResidents n rs).get r = s.get r := rfl
@[simp] theorem State.setResidents_bit (n : Nat) (rs : List Resident) (r : Field) (j : Nat) : (s.setResidents n rs).bit r j = s.bit r j := rfl
@[simp] theorem State.setResidents_part (n : Nat) (rs : List Resident) (p₀ : Nat) : (s.setResidents n rs).part p₀ = s.part p₀ := rfl
@[simp] theorem State.setResidents_ctx (n : Nat) (rs : List Resident) (k₀ : Nat) : (s.setResidents n rs).ctx k₀ = s.ctx k₀ := rfl
@[simp] theorem State.setResidents_qp (n : Nat) (rs : List Resident) (p₀ q₀ : Nat) : (s.setResidents n rs).qp p₀ q₀ = s.qp p₀ q₀ := rfl

/-! ## `State.setMoved` -/

@[simp] theorem State.setMoved_regs (n : Nat) (os : List UnitOp) : (s.setMoved n os).regs = s.regs := rfl
@[simp] theorem State.setMoved_mode (n : Nat) (os : List UnitOp) : (s.setMoved n os).mode = s.mode := rfl
@[simp] theorem State.setMoved_parts (n : Nat) (os : List UnitOp) : (s.setMoved n os).parts = s.parts := rfl
@[simp] theorem State.setMoved_hq (n : Nat) (os : List UnitOp) : (s.setMoved n os).hq = s.hq := rfl
@[simp] theorem State.setMoved_sq (n : Nat) (os : List UnitOp) : (s.setMoved n os).sq = s.sq := rfl
@[simp] theorem State.setMoved_ci_lanes (n : Nat) (os : List UnitOp) : (s.setMoved n os).ci.lanes = s.ci.lanes := rfl
@[simp] theorem State.setMoved_ci_hash (n : Nat) (os : List UnitOp) : (s.setMoved n os).ci.hash = s.ci.hash := rfl
@[simp] theorem State.setMoved_ci_fmt (n : Nat) (os : List UnitOp) : (s.setMoved n os).ci.fmt = s.ci.fmt := rfl
@[simp] theorem State.setMoved_ci_faults (n : Nat) (os : List UnitOp) : (s.setMoved n os).ci.faults = s.ci.faults := rfl
@[simp] theorem State.setMoved_ci_lastOut (n : Nat) (os : List UnitOp) : (s.setMoved n os).ci.lastOut = s.ci.lastOut := rfl
@[simp] theorem State.setMoved_ci_rounds (n : Nat) (os : List UnitOp) : (s.setMoved n os).ci.rounds = s.ci.rounds := rfl
@[simp] theorem State.setMoved_ge (n : Nat) (os : List UnitOp) : (s.setMoved n os).ge = s.ge := rfl
@[simp] theorem State.setMoved_arbs (n : Nat) (os : List UnitOp) : (s.setMoved n os).arbs = s.arbs := rfl
@[simp] theorem State.setMoved_pk (n : Nat) (os : List UnitOp) : (s.setMoved n os).pk = s.pk := rfl
@[simp] theorem State.setMoved_fl (n : Nat) (os : List UnitOp) : (s.setMoved n os).fl = s.fl := rfl
@[simp] theorem State.setMoved_ob (n : Nat) (os : List UnitOp) : (s.setMoved n os).ob = s.ob := rfl
@[simp] theorem State.setMoved_pw (n : Nat) (os : List UnitOp) : (s.setMoved n os).pw = s.pw := rfl
@[simp] theorem State.setMoved_pr (n : Nat) (os : List UnitOp) : (s.setMoved n os).pr = s.pr := rfl
@[simp] theorem State.setMoved_lc (n : Nat) (os : List UnitOp) : (s.setMoved n os).lc = s.lc := rfl
@[simp] theorem State.setMoved_dm (n : Nat) (os : List UnitOp) : (s.setMoved n os).dm = s.dm := rfl
@[simp] theorem State.setMoved_bt (n : Nat) (os : List UnitOp) : (s.setMoved n os).bt = s.bt := rfl
@[simp] theorem State.setMoved_hb (n : Nat) (os : List UnitOp) : (s.setMoved n os).hb = s.hb := rfl
@[simp] theorem State.setMoved_gt (n : Nat) (os : List UnitOp) : (s.setMoved n os).gt = s.gt := rfl
@[simp] theorem State.setMoved_sc (n : Nat) (os : List UnitOp) : (s.setMoved n os).sc = s.sc := rfl
@[simp] theorem State.setMoved_qz (n : Nat) (os : List UnitOp) : (s.setMoved n os).qz = s.qz := rfl
@[simp] theorem State.setMoved_ag (n : Nat) (os : List UnitOp) : (s.setMoved n os).ag = s.ag := rfl
@[simp] theorem State.setMoved_ln (n : Nat) (os : List UnitOp) : (s.setMoved n os).ln = s.ln := rfl
@[simp] theorem State.setMoved_cd (n : Nat) (os : List UnitOp) : (s.setMoved n os).cd = s.cd := rfl
@[simp] theorem State.setMoved_jr (n : Nat) (os : List UnitOp) : (s.setMoved n os).jr = s.jr := rfl
@[simp] theorem State.setMoved_quartz (n : Nat) (os : List UnitOp) : (s.setMoved n os).quartz = s.quartz := rfl
@[simp] theorem State.setMoved_randoms (n : Nat) (os : List UnitOp) : (s.setMoved n os).randoms = s.randoms := rfl
@[simp] theorem State.setMoved_frees (n : Nat) (os : List UnitOp) : (s.setMoved n os).frees = s.frees := rfl
@[simp] theorem State.setMoved_out (n : Nat) (os : List UnitOp) : (s.setMoved n os).out = s.out := rfl
@[simp] theorem State.setMoved_pending (n : Nat) (os : List UnitOp) : (s.setMoved n os).pending = s.pending := rfl
@[simp] theorem State.setMoved_get (n : Nat) (os : List UnitOp) (r : Field) : (s.setMoved n os).get r = s.get r := rfl
@[simp] theorem State.setMoved_bit (n : Nat) (os : List UnitOp) (r : Field) (j : Nat) : (s.setMoved n os).bit r j = s.bit r j := rfl
@[simp] theorem State.setMoved_part (n : Nat) (os : List UnitOp) (p₀ : Nat) : (s.setMoved n os).part p₀ = s.part p₀ := rfl
@[simp] theorem State.setMoved_ctx (n : Nat) (os : List UnitOp) (k₀ : Nat) : (s.setMoved n os).ctx k₀ = s.ctx k₀ := rfl
@[simp] theorem State.setMoved_qp (n : Nat) (os : List UnitOp) (p₀ q₀ : Nat) : (s.setMoved n os).qp p₀ q₀ = s.qp p₀ q₀ := rfl

/-! ## `State.setQueue` -/

@[simp] theorem State.setQueue_regs (n : Nat) (bs : List Byte) : (s.setQueue n bs).regs = s.regs := rfl
@[simp] theorem State.setQueue_mode (n : Nat) (bs : List Byte) : (s.setQueue n bs).mode = s.mode := rfl
@[simp] theorem State.setQueue_parts (n : Nat) (bs : List Byte) : (s.setQueue n bs).parts = s.parts := rfl
@[simp] theorem State.setQueue_hq (n : Nat) (bs : List Byte) : (s.setQueue n bs).hq = s.hq := rfl
@[simp] theorem State.setQueue_sq (n : Nat) (bs : List Byte) : (s.setQueue n bs).sq = s.sq := rfl
@[simp] theorem State.setQueue_ci (n : Nat) (bs : List Byte) : (s.setQueue n bs).ci = s.ci := rfl
@[simp] theorem State.setQueue_ge (n : Nat) (bs : List Byte) : (s.setQueue n bs).ge = s.ge := rfl
@[simp] theorem State.setQueue_arbs (n : Nat) (bs : List Byte) : (s.setQueue n bs).arbs = s.arbs := rfl
@[simp] theorem State.setQueue_pk (n : Nat) (bs : List Byte) : (s.setQueue n bs).pk = s.pk := rfl
@[simp] theorem State.setQueue_fl_seed (n : Nat) (bs : List Byte) : (s.setQueue n bs).fl.seed = s.fl.seed := rfl
@[simp] theorem State.setQueue_fl_seedFor (n : Nat) (bs : List Byte) : (s.setQueue n bs).fl.seedFor = s.fl.seedFor := rfl
@[simp] theorem State.setQueue_fl_seedFrom (n : Nat) (bs : List Byte) : (s.setQueue n bs).fl.seedFrom = s.fl.seedFrom := rfl
@[simp] theorem State.setQueue_fl_turn (n : Nat) (bs : List Byte) : (s.setQueue n bs).fl.turn = s.fl.turn := rfl
@[simp] theorem State.setQueue_fl_cells (n : Nat) (bs : List Byte) : (s.setQueue n bs).fl.cells = s.fl.cells := rfl
@[simp] theorem State.setQueue_fl_drbgs (n : Nat) (bs : List Byte) : (s.setQueue n bs).fl.drbgs = s.fl.drbgs := rfl
@[simp] theorem State.setQueue_fl_failures (n : Nat) (bs : List Byte) : (s.setQueue n bs).fl.failures = s.fl.failures := rfl
@[simp] theorem State.setQueue_fl_powered (n : Nat) (bs : List Byte) : (s.setQueue n bs).fl.powered = s.fl.powered := rfl
@[simp] theorem State.setQueue_fl_everReady (n : Nat) (bs : List Byte) : (s.setQueue n bs).fl.everReady = s.fl.everReady := rfl
@[simp] theorem State.setQueue_ob (n : Nat) (bs : List Byte) : (s.setQueue n bs).ob = s.ob := rfl
@[simp] theorem State.setQueue_pw (n : Nat) (bs : List Byte) : (s.setQueue n bs).pw = s.pw := rfl
@[simp] theorem State.setQueue_pr (n : Nat) (bs : List Byte) : (s.setQueue n bs).pr = s.pr := rfl
@[simp] theorem State.setQueue_lc (n : Nat) (bs : List Byte) : (s.setQueue n bs).lc = s.lc := rfl
@[simp] theorem State.setQueue_dm (n : Nat) (bs : List Byte) : (s.setQueue n bs).dm = s.dm := rfl
@[simp] theorem State.setQueue_bt (n : Nat) (bs : List Byte) : (s.setQueue n bs).bt = s.bt := rfl
@[simp] theorem State.setQueue_hb (n : Nat) (bs : List Byte) : (s.setQueue n bs).hb = s.hb := rfl
@[simp] theorem State.setQueue_gt (n : Nat) (bs : List Byte) : (s.setQueue n bs).gt = s.gt := rfl
@[simp] theorem State.setQueue_sc (n : Nat) (bs : List Byte) : (s.setQueue n bs).sc = s.sc := rfl
@[simp] theorem State.setQueue_qz (n : Nat) (bs : List Byte) : (s.setQueue n bs).qz = s.qz := rfl
@[simp] theorem State.setQueue_ag (n : Nat) (bs : List Byte) : (s.setQueue n bs).ag = s.ag := rfl
@[simp] theorem State.setQueue_ln (n : Nat) (bs : List Byte) : (s.setQueue n bs).ln = s.ln := rfl
@[simp] theorem State.setQueue_cd (n : Nat) (bs : List Byte) : (s.setQueue n bs).cd = s.cd := rfl
@[simp] theorem State.setQueue_jr (n : Nat) (bs : List Byte) : (s.setQueue n bs).jr = s.jr := rfl
@[simp] theorem State.setQueue_quartz (n : Nat) (bs : List Byte) : (s.setQueue n bs).quartz = s.quartz := rfl
@[simp] theorem State.setQueue_randoms (n : Nat) (bs : List Byte) : (s.setQueue n bs).randoms = s.randoms := rfl
@[simp] theorem State.setQueue_frees (n : Nat) (bs : List Byte) : (s.setQueue n bs).frees = s.frees := rfl
@[simp] theorem State.setQueue_out (n : Nat) (bs : List Byte) : (s.setQueue n bs).out = s.out := rfl
@[simp] theorem State.setQueue_pending (n : Nat) (bs : List Byte) : (s.setQueue n bs).pending = s.pending := rfl
@[simp] theorem State.setQueue_get (n : Nat) (bs : List Byte) (r : Field) : (s.setQueue n bs).get r = s.get r := rfl
@[simp] theorem State.setQueue_bit (n : Nat) (bs : List Byte) (r : Field) (j : Nat) : (s.setQueue n bs).bit r j = s.bit r j := rfl
@[simp] theorem State.setQueue_part (n : Nat) (bs : List Byte) (p₀ : Nat) : (s.setQueue n bs).part p₀ = s.part p₀ := rfl
@[simp] theorem State.setQueue_ctx (n : Nat) (bs : List Byte) (k₀ : Nat) : (s.setQueue n bs).ctx k₀ = s.ctx k₀ := rfl
@[simp] theorem State.setQueue_qp (n : Nat) (bs : List Byte) (p₀ q₀ : Nat) : (s.setQueue n bs).qp p₀ q₀ = s.qp p₀ q₀ := rfl

/-! ## What is read back -/

@[simp] theorem State.get_set_same (f : Field) (v : Nat) : (s.set f v).get f = v % 2 ^ f.width := by simp [State.get, State.set]

theorem State.get_set_ne (f r : Field) (v : Nat) (h : f.key ≠ r.key) : (s.set f v).get r = s.get r := by
  simp [State.get, State.set, Sparse.get_set_ne _ _ _ _ h]

theorem State.get_count_ne (f r : Field) (d : Nat) (h : f.key ≠ r.key) : (s.count f d).get r = s.get r := s.get_set_ne f r _ h
theorem State.get_countSat_ne (f r : Field) (d : Nat) (h : f.key ≠ r.key) : (s.countSat f d).get r = s.get r := s.get_set_ne f r _ h
theorem State.get_keepMax_ne (f r : Field) (v : Nat) (h : f.key ≠ r.key) : (s.keepMax f v).get r = s.get r := s.get_set_ne f r _ h
theorem State.get_setBit_ne (f r : Field) (i : Nat) (b : Bool) (h : f.key ≠ r.key) : (s.setBit f i b).get r = s.get r := s.get_set_ne f r _ h

@[simp] theorem State.part_updPart_same (p : Nat) (f : Part → Part) : (s.updPart p f).part p = f (s.part p) := by simp [State.part, State.updPart]

theorem State.part_updPart_ne (p q : Nat) (f : Part → Part) (h : p ≠ q) : (s.updPart p f).part q = s.part q := by
  simp [State.part, State.updPart, Sparse.get_upd_ne _ _ _ h]

@[simp] theorem State.ctx_setCtx_same (k : Nat) (c : Context) : (s.setCtx k c).ctx k = c := by simp [State.ctx, State.setCtx]

theorem State.ctx_setCtx_ne (k l : Nat) (c : Context) (h : k ≠ l) : (s.setCtx k c).ctx l = s.ctx l := by
  simp [State.ctx, State.setCtx, Sparse.get_set_ne _ _ _ _ h]

@[simp] theorem State.ctx_updCtx_same (k : Nat) (f : Context → Context) : (s.updCtx k f).ctx k = f (s.ctx k) := by simp [State.updCtx]

theorem State.ctx_updCtx_ne (k l : Nat) (f : Context → Context) (h : k ≠ l) : (s.updCtx k f).ctx l = s.ctx l := s.ctx_setCtx_ne k l _ h

@[simp] theorem State.qp_updQp_same (p q : Nat) (f : QueuePair → QueuePair) : (s.updQp p q f).qp p q = f (s.qp p q) := by
  simp [State.qp, State.updQp]

theorem State.qp_updQp_ne (p q p' q' : Nat) (f : QueuePair → QueuePair) (h : qpKey p q ≠ qpKey p' q') :
    (s.updQp p q f).qp p' q' = s.qp p' q' := by simp [State.qp, State.updQp, Sparse.get_upd_ne _ _ _ h]

@[simp] theorem State.lane_updLane_same (n l : Nat) (f : Lane → Lane) : (s.updLane n l f).lane n l = f (s.lane n l) := by
  simp [State.lane, State.updLane]

@[simp] theorem State.hashUnit_updHash_same (n : Nat) (f : HashUnit → HashUnit) : (s.updHash n f).hashUnit n = f (s.hashUnit n) := by
  simp [State.hashUnit, State.updHash]

@[simp] theorem State.fmtUnit_updFmt_same (n : Nat) (f : Service → Service) : (s.updFmt n f).fmtUnit n = f (s.fmtUnit n) := by
  simp [State.fmtUnit, State.updFmt]

@[simp] theorem State.cell_updCell_same (c : Nat) (f : Cell → Cell) : (s.updCell c f).cell c = f (s.cell c) := by simp [State.cell, State.updCell]

@[simp] theorem State.drbg_updDrbg_same (n : Nat) (f : Drbg → Drbg) : (s.updDrbg n f).drbg n = f (s.drbg n) := by simp [State.drbg, State.updDrbg]

@[simp] theorem State.arb_updArb_same (u : Nat) (f : Arbiter → Arbiter) : (s.updArb u f).arb u = f (s.arb u) := by simp [State.arb, State.updArb]

@[simp] theorem State.thread_updThread_same (t : Nat) (f : Thread → Thread) : (s.updThread t f).thread t = f (s.thread t) := by
  simp [State.thread, State.updThread]

@[simp] theorem State.pkUnit_updPk_same (p u : Nat) (f : PkUnit → PkUnit) : (s.updPk p u f).pkUnit p u = f (s.pkUnit p u) := by
  simp [State.pkUnit, State.updPk]

@[simp] theorem State.pkQueue_setPkQueue_same (p : Nat) (l : Bool) (q : List PkOp) : (s.setPkQueue p l q).pkQueue p l = q := by
  simp [State.pkQueue, State.setPkQueue]

@[simp] theorem State.link_updLink_same (k : Nat) (f : Link → Link) : (s.updLink k f).link k = f (s.link k) := by simp [State.link, State.updLink]

@[simp] theorem State.cacheOf_setCache_same (n : Nat) (es : List CacheEntry) : (s.setCache n es).cacheOf n = es := by
  simp [State.cacheOf, State.setCache]

@[simp] theorem State.movedOps_setMoved_same (n : Nat) (os : List UnitOp) : (s.setMoved n os).movedOps n = os := by
  simp [State.movedOps, State.setMoved]

@[simp] theorem State.queue_setQueue_same (n : Nat) (bs : List Byte) : (s.setQueue n bs).queue n = bs := by simp [State.queue, State.setQueue]

theorem State.queue_setQueue_ne (n m : Nat) (bs : List Byte) (h : n ≠ m) : (s.setQueue n bs).queue m = s.queue m := by
  simp [State.queue, State.setQueue, Sparse.get_set_ne _ _ _ _ h]

@[simp] theorem State.residents_setResidents_same (n : Nat) (rs : List Resident) : (s.setResidents n rs).residents n = rs := by
  simp [State.residents, State.setResidents]

end Sys2Proof.Machine
end

