-- ==== Sys2Proof/Laws/Ops.lean ====
section
/-! SUPPORT. What each shared operation can do, once: bits, messages, raised interrupts, partition events and the frames the statements use. -/
namespace Sys2Proof.Machine

/-! ## Bits -/

theorem bitOf_testBit (v i : Nat) : bitOf v i = v.testBit i := by
  rw [bitOf, Nat.testBit_eq_decide_div_mod_eq]; rfl

/-- A number cut at bit `i`: what stands above it, the bit, what stands below. -/
theorem split_at_bit (v i : Nat) : v = 2 ^ (i + 1) * (v / 2 ^ (i + 1)) + ((v.testBit i).toNat * 2 ^ i + v % 2 ^ i) := by
  have h1 : v = 2 ^ (i + 1) * (v / 2 ^ (i + 1)) + v % 2 ^ (i + 1) := (Nat.div_add_mod v _).symm
  have h2 : v % 2 ^ (i + 1) = v % 2 ^ i + 2 ^ i * (v / 2 ^ i % 2) := Nat.mod_pow_succ
  have h3 : (v.testBit i).toNat = v / 2 ^ i % 2 := by
    rw [Nat.testBit_eq_decide_div_mod_eq]
    rcases Nat.mod_two_eq_zero_or_one (v / 2 ^ i) with h | h <;> simp [h]
  rw [h3, Nat.mul_comm (v / 2 ^ i % 2), Nat.add_comm (2 ^ i * _), ← h2]
  exact h1

theorem testBit_cut (a i j : Nat) (b : Bool) (r : Nat) (hr : r < 2 ^ i) :
    (2 ^ (i + 1) * a + (b.toNat * 2 ^ i + r)).testBit j = if j < i then r.testBit j else if j = i then b else a.testBit (j - (i + 1)) := by
  have hb : b.toNat * 2 ^ i + r < 2 ^ (i + 1) := by
    rw [Nat.pow_succ]; cases b <;> simp <;> omega
  rw [Nat.testBit_two_pow_mul_add _ hb]
  rw [Nat.mul_comm b.toNat, Nat.testBit_two_pow_mul_add _ hr]
  by_cases h : j < i
  · have : j < i + 1 := by omega
    simp [h, this]
  · by_cases h' : j = i
    · subst h'; cases b <;> simp
    · have : ¬ j < i + 1 := by omega
      simp [h, h', this]

theorem testBit_putBit (v i j : Nat) (b : Bool) : (putBit v i b).testBit j = if j = i then b else v.testBit j := by
  have hr : v % 2 ^ i < 2 ^ i := Nat.mod_lt _ (Nat.two_pow_pos i)
  have hv := split_at_bit v i
  have e : putBit v i b = 2 ^ (i + 1) * (v / 2 ^ (i + 1)) + (b.toNat * 2 ^ i + v % 2 ^ i) := by
    have hp : 0 < 2 ^ i := Nat.two_pow_pos i
    unfold putBit
    rw [bitOf_testBit]
    cases ht : v.testBit i <;> cases b <;> simp [ht] at hv ⊢ <;> omega
  rw [e, testBit_cut _ _ _ _ _ hr]
  conv => rhs; rw [hv, testBit_cut _ _ _ _ _ hr]
  by_cases h : j < i
  · have : j ≠ i := by omega
    simp [h, this]
  · by_cases h' : j = i <;> simp [h, h']

/-! ## Register fields -/

variable (s : State)

theorem State.bit_setBit (f : Field) (i j : Nat) (b : Bool) (h : j < f.width) :
    (s.setBit f i b).bit f j = if j = i then b else s.bit f j := by
  simp [State.bit, State.setBit, bitOf_testBit, Nat.testBit_mod_two_pow, h, testBit_putBit]

theorem keeps_refl (fs : List Field) : keeps fs s s := fun _ _ => rfl

theorem keeps_trans {s t u : State} {fs gs : List Field} (h : keeps fs s t) (k : keeps gs t u) : keeps (fs ++ gs) s u := fun f hf => by
  rw [k f fun g hg => hf g (by simp [hg]), h f fun g hg => hf g (by simp [hg])]

theorem keeps_mono {s t : State} {fs gs : List Field} (h : keeps fs s t) (sub : ∀ f ∈ fs, f ∈ gs) : keeps gs s t :=
  fun f hf => h f fun g hg => hf g (sub g hg)

theorem keeps_set (f : Field) (v : Nat) : keeps [f] s (s.set f v) := fun r hr => s.get_set_ne f r v (hr f (by simp))

theorem sentMsix_refl : sentMsix s s := ⟨[], by simp, by simp⟩

theorem sentMsix_trans {s t u : State} (h : sentMsix s t) (k : sentMsix t u) : sentMsix s u := by
  obtain ⟨a, ha, pa⟩ := h
  obtain ⟨b, hb, pb⟩ := k
  refine ⟨a ++ b, by rw [hb, ha, List.append_assoc], fun m hm => ?_⟩
  rcases List.mem_append.mp hm with h | h
  · exact pa m h
  · exact pb m h

theorem sentMsix_of_out {s t : State} (h : t.out = s.out) : sentMsix s t := ⟨[], by simp [h], by simp⟩

theorem onlyFields_refl (fs : List Field) : onlyFields fs s s := ⟨keeps_refl s fs, sentMsix_refl s, rfl⟩

theorem onlyFields_trans {s t u : State} {fs gs : List Field} (h : onlyFields fs s t) (k : onlyFields gs t u) : onlyFields (fs ++ gs) s u := by
  refine ⟨keeps_trans h.1 k.1, sentMsix_trans h.2.1 k.2.1, ?_⟩
  have a := h.2.2
  have b := k.2.2
  rw [a] at b
  rw [b]

theorem onlyFields_mono {s t : State} {fs gs : List Field} (h : onlyFields fs s t) (sub : ∀ f ∈ fs, f ∈ gs) : onlyFields gs s t :=
  ⟨keeps_mono h.1 sub, h.2.1, h.2.2⟩

theorem onlyFields_set (f : Field) (v : Nat) : onlyFields [f] s (s.set f v) := ⟨keeps_set s f v, sentMsix_of_out rfl, rfl⟩

/-! ## Messages and interrupts (R58) -/

/-- A message is sent, or left pending, and nothing else happens. -/
theorem State.msixSend_onlyFields (f : Func) (v : Nat) : onlyFields [] s (s.msixSend f v) := by
  unfold State.msixSend
  split
  · split
    · exact onlyFields_refl s _
    · exact ⟨fun _ _ => rfl, sentMsix_of_out rfl, rfl⟩
  · exact ⟨fun _ _ => rfl, ⟨[.msix f v], rfl, by simp⟩, rfl⟩

@[simp] theorem State.msixSend_regs (f : Func) (v : Nat) : (s.msixSend f v).regs = s.regs := by
  unfold State.msixSend; split
  · split <;> rfl
  · rfl

@[simp] theorem State.msixSend_get (f : Func) (v : Nat) (r : Field) : (s.msixSend f v).get r = s.get r := by simp [State.get]
@[simp] theorem State.msixSend_bit (f : Func) (v : Nat) (r : Field) (j : Nat) : (s.msixSend f v).bit r j = s.bit r j := by simp [State.bit]

/-- An interrupt of a block: its page's INT_RAW, and messages. -/
theorem State.raise_onlyFields (p i : Nat) : onlyFields [R.BLK_INT_RAW p] s (s.raise p i) := by
  unfold State.raise
  have h : onlyFields [R.BLK_INT_RAW p] s (s.setBit (R.BLK_INT_RAW p) i true) := onlyFields_set s _ _
  simp only
  split
  · exact onlyFields_mono (onlyFields_trans (onlyFields_trans h (State.msixSend_onlyFields _ _ _)) (State.msixSend_onlyFields _ _ _)) (by simp)
  · exact h

/-- An interrupt leaves the HBM as it is. -/
@[simp] theorem State.raise_hb (p i : Nat) : (s.raise p i).hb = s.hb := by rw [(s.raise_onlyFields p i).2.2]

theorem State.raise_regs (p i : Nat) : (s.raise p i).regs = (s.setBit (R.BLK_INT_RAW p) i true).regs := by
  unfold State.raise; simp only; split <;> simp

/-- The bit stands, and the page's other bits are as they were. -/
theorem State.raise_raised (p i : Nat) : raised p [i] s (s.raise p i) := fun j hj => by
  have e : (s.raise p i).bit (R.BLK_INT_RAW p) j = (s.setBit (R.BLK_INT_RAW p) i true).bit (R.BLK_INT_RAW p) j := by
    simp [State.bit, State.get, State.raise_regs]
  rw [e, State.bit_setBit _ _ _ _ _ (by simpa [R.BLK_INT_RAW] using hj)]
  by_cases h : j = i <;> simp [h]

theorem State.raise_get_ne (p i : Nat) (r : Field) (h : (R.BLK_INT_RAW p).key ≠ r.key) : (s.raise p i).get r = s.get r :=
  (s.raise_onlyFields p i).1 r (by simpa using h)

end Sys2Proof.Machine
end

