-- ==== Sys2Proof/Laws/Seq.lean ====
section
/-! SUPPORT. What issuing, retiring and branching can do, once for all instructions; and the frames of partition events, of a queue pair's halt and of the takeover watch. -/
namespace Sys2Proof.Machine

variable (s : State)

/-! ## Sequencer instructions -/

/-- A result that leaves its command running, or that of a context with nothing outstanding, stands as it is. -/
theorem State.inTurn_stands {k : Nat} {t : State} (h : s.settled k = true ∨ (t.ctx k).cmd.isSome = true) :
    s.inTurn k (.next t) = .next t := by
  rcases h with h | h <;> simp [State.inTurn, h]

/-- An instruction whose context is ready to issue it does what its body says: always where nothing of the context is outstanding, else where its command
goes on. -/
theorem State.issue_ready {c : Ctx} {cls op : Nat} {w : Insn} {x : Context} {run : Context → Result} {t : State}
    (h : s.readyCtx (ctxKey c) cls op w = some x) (hr : run x = .next t)
    (ht : s.settled (ctxKey c) = true ∨ (t.ctx (ctxKey c)).cmd.isSome = true) : s.issue c cls op w run = .next t := by
  simp only [State.issue, h, hr, s.inTurn_stands ht]

/-- An instruction that would end its command does not occur while operations of its context are outstanding. -/
theorem State.issue_early {c : Ctx} {cls op : Nat} {w : Insn} {x : Context} {run : Context → Result} {t : State}
    (h : s.readyCtx (ctxKey c) cls op w = some x) (hr : run x = .next t)
    (hs : s.settled (ctxKey c) = false) (ht : (t.ctx (ctxKey c)).cmd.isSome = false) : s.issue c cls op w run = .next s := by
  simp only [State.issue, h, hr, State.inTurn, hs, ht]
  simp

/-- An instruction whose context is not ready to issue it changes nothing. -/
theorem State.issue_idle {c : Ctx} {cls op : Nat} {w : Insn} {run : Context → Result} (h : s.readyCtx (ctxKey c) cls op w = none) :
    s.issue c cls op w run = .next s := by simp [State.issue, h]

/-- A ready context holds a command. -/
theorem State.readyCtx_runs {k cls op : Nat} {w : Insn} {x : Context} (h : s.readyCtx k cls op w = some x) : x.cmd.isSome = true := by
  unfold State.readyCtx at h
  split at h
  · rename_i hc
    cases h
    have := hc.2.1
    simp only [State.canIssue, Bool.and_eq_true] at this
    exact this.1.1.1.1.1.1.1.1.1
  · cases h

/-- A ready context is the state's own: it holds the word at PC, may issue it (R91) and no other ready context goes before it. -/
theorem State.readyCtx_spec {k cls op : Nat} {w : Insn} {x : Context} (h : s.readyCtx k cls op w = some x) :
    x = s.ctx k ∧ x.image.code[x.pc]? = some ⟨cls, op, w⟩ ∧ s.canIssue k ⟨cls, op, w⟩ = true ∧ s.preceded k = false := by
  unfold State.readyCtx at h
  split at h
  · rename_i hc
    cases h
    exact ⟨rfl, hc⟩
  · cases h

theorem seqCounters_ne (n : Nat) : (R.SEQ_ISSUE_CNT n).key ≠ (R.SEQ_RETIRE_CNT n).key := by
  simp [Field.key, R.SEQ_ISSUE_CNT, R.SEQ_RETIRE_CNT] <;> omega

/-- A counted instruction whose context then stands as `y`: the two counters of its sequencer move, and only its context differs besides. -/
theorem State.countIssue_setCtx (k n : Nat) (y : Context) :
    let t := (s.countIssue k n).setCtx k y
    t.ctx k = y ∧ t.get (R.SEQ_ISSUE_CNT (clusterOf k)) = (s.get (R.SEQ_ISSUE_CNT (clusterOf k)) + n) % 2 ^ 32 ∧
      t.get (R.SEQ_RETIRE_CNT (clusterOf k)) = (s.get (R.SEQ_RETIRE_CNT (clusterOf k)) + 1) % 2 ^ 32 ∧ onlyContext k s t := by
  intro t
  refine ⟨by simp [t], ?_, ?_, ?_, ?_, rfl⟩
  · simp only [t, State.countIssue, State.setCtx_get]
    rw [State.get_count_ne _ _ _ _ (Ne.symm (seqCounters_ne _))]
    simp [State.count, R.SEQ_ISSUE_CNT]
  · simp only [t, State.countIssue, State.setCtx_get]
    simp only [State.count, State.get_set_same]
    rw [State.get_set_ne _ _ _ _ (seqCounters_ne _)]
    simp [R.SEQ_RETIRE_CNT]
  · intro j hj; simp [t, State.ctx_setCtx_ne _ _ _ _ (Ne.symm hj), State.countIssue]
  · intro f hf
    simp only [t, State.countIssue, State.setCtx_get]
    rw [State.get_count_ne _ _ _ _ (hf _ (by simp)), State.get_count_ne _ _ _ _ (hf _ (by simp))]

/-- Everything a retirement does. -/
theorem State.retire_retires (k n : Nat) (y : Context) : retires k n y s (s.retire k n y) := s.countIssue_setCtx k n y.step

/-- Everything a branch does once its context is ready. -/
theorem State.branch_branches {c : Ctx} {op : Nat} {w : Insn} {x : Context} (h : s.readyCtx (ctxKey c) 0x8 op w = some x) :
    ∃ t, s.branch c op w = .next t ∧ branches (ctxKey c) (if x.taken op then immBits w 0 8 else (x.pc + 1) % 256) x s t :=
  ⟨_, s.issue_ready h rfl (.inr (by simpa using s.readyCtx_runs h)), s.countIssue_setCtx _ _ _⟩

/-! ## Queue pairs and partition events -/

/-- A run of messages changes nothing but what was sent and what is pending. -/
theorem msixSends_only {α : Type} (f : State → α → State) (hf : ∀ s a, onlyFields [] s (f s a)) (xs : List α) : onlyFields [] s (xs.foldl f s) := by
  induction xs generalizing s with
  | nil => exact onlyFields_refl s []
  | cons a xs ih => exact onlyFields_mono (onlyFields_trans (hf s a) (ih (f s a))) (by simp)

/-- A partition event sets its flag, and beyond that sends messages at most. -/
theorem State.partEvent_spec (p i : Nat) :
    onlyFields [] (s.updPart p fun x => { x with pevt := putBit x.pevt i true }) (s.partEvent p i) := by
  unfold State.partEvent
  dsimp only
  have h : ∀ {a b : State}, onlyFields [] a b → ∀ v, onlyFields [] a ((b.msixSend (.pf 0) v).msixSend (.pf 1) v) := fun k _ =>
    onlyFields_mono (onlyFields_trans k (onlyFields_trans (State.msixSend_onlyFields _ _ _) (State.msixSend_onlyFields _ _ _))) (by simp)
  apply h
  split
  · refine msixSends_only _ _ ?_ _
    intro s v
    cases v with
    | none => exact onlyFields_refl s []
    | some f => exact State.msixSend_onlyFields _ _ _
  · exact onlyFields_refl _ _

/-- Settling a queue pair leaves every other pair as it was, and nothing but queue pairs changes. -/
theorem State.settleQp_spec (p q : Nat) :
    (∀ p' q', qpKey p' q' ≠ qpKey p q → (s.settleQp p q).qp p' q' = s.qp p' q') ∧
      s.settleQp p q = { s with hq := { s.hq with qps := (s.settleQp p q).hq.qps } } := by
  unfold State.settleQp
  split
  · exact ⟨fun p' q' h => State.qp_updQp_ne _ _ _ _ _ _ (Ne.symm h), rfl⟩
  · exact ⟨fun _ _ _ => rfl, rfl⟩

/-! ## The takeover watch -/

/-- The watch of the takeover conditions writes when they came to hold, and nothing else. -/
theorem State.settleTake_spec :
    s.settleTake = { s with pr := { s.pr with takeAt := s.settleTake.pr.takeAt, heldSync := s.settleTake.pr.heldSync } } := by
  unfold State.settleTake
  split <;> rfl

end Sys2Proof.Machine
end

