-- ==== Sys2Proof/Laws/Ending.lean ====
section
/-! SUPPORT. The frame of a command's ending: writing its completion, signalling it and settling the abort it may belong to touch no context, no key line, no unit and no mode. -/
namespace Sys2Proof.Machine

/-- What the bookkeeping of an ending leaves alone: every engine, the key store, the memories, the clock, the queue, and the commands staged or sent. -/
def endKept (s : State) :=
  (s.sq, s.ge, s.ci, s.pk, s.hb, s.mode, s.ob, s.lc, s.bt, s.quartz, s.pending, s.hq.staged, s.hq.fwdOut)

/-- `t` has it as `s` had. -/
def endKeeps (s t : State) : Prop := endKept t = endKept s

/-- What that says, field by field. -/
theorem endKeeps_iff (s t : State) : endKeeps s t ↔
    t.sq = s.sq ∧ t.ge = s.ge ∧ t.ci = s.ci ∧ t.pk = s.pk ∧ t.hb = s.hb ∧ t.mode = s.mode ∧ t.ob = s.ob ∧ t.lc = s.lc ∧ t.bt = s.bt ∧
    t.quartz = s.quartz ∧ t.pending = s.pending ∧ t.hq.staged = s.hq.staged ∧ t.hq.fwdOut = s.hq.fwdOut := by
  simp only [endKeeps, endKept, Prod.mk.injEq]

theorem endKeeps_refl (s : State) : endKeeps s s := rfl

theorem endKeeps_trans {s t u : State} (h : endKeeps s t) (k : endKeeps t u) : endKeeps s u := Eq.trans k h

theorem endKeeps_only {fs : List Field} {s t : State} (h : onlyFields fs s t) : endKeeps s t := by
  unfold endKeeps
  rw [h.2.2]
  rfl

theorem endKeeps_raise (s : State) (p i : Nat) : endKeeps s (s.raise p i) := endKeeps_only (s.raise_onlyFields p i)

theorem endKeeps_msix (s : State) (f : Func) (v : Nat) : endKeeps s (s.msixSend f v) := endKeeps_only (s.msixSend_onlyFields f v)

theorem endKeeps_severity (s : State) (n : Nat) : endKeeps s (s.severity n) := by
  unfold State.severity
  split
  · exact endKeeps_refl s
  · exact rfl

theorem endKeeps_updPart (s : State) (p : Nat) (f : Part → Part) : endKeeps s (s.updPart p f) := rfl

theorem endKeeps_countSat (s : State) (f : Field) : endKeeps s (s.countSat f) := rfl

theorem endKeeps_emit (s : State) (o : Output) : endKeeps s (s.emit o) := rfl

/-- A choice between two states that both keep keeps. -/
theorem endKeeps_ite {s t u : State} {c : Prop} [Decidable c] (h : endKeeps s t) (k : endKeeps s u) : endKeeps s (if c then t else u) := by
  split <;> assumption

theorem endKeeps_updQp (s : State) (p q : Nat) (f : QueuePair → QueuePair) : endKeeps s (s.updQp p q f) := rfl

theorem endKeeps_partEvent (s : State) (p i : Nat) : endKeeps s (s.partEvent p i) :=
  endKeeps_trans (endKeeps_updPart s p _) (endKeeps_only (s.partEvent_spec p i))

theorem endKeeps_haltQp (s : State) (p q err : Nat) : endKeeps s (s.haltQp p q err) := by
  unfold State.haltQp
  dsimp only
  split
  · exact endKeeps_trans (endKeeps_trans (endKeeps_updQp s p q _) (endKeeps_raise _ _ _))
      (endKeeps_trans (endKeeps_severity _ _) (endKeeps_partEvent _ _ _))
  · exact endKeeps_trans (endKeeps_updQp s p q _) (endKeeps_trans (endKeeps_severity _ _) (endKeeps_partEvent _ _ _))

theorem endKeeps_settleQp (s : State) (p q : Nat) : endKeeps s (s.settleQp p q) := by
  rw [(s.settleQp_spec p q).2]
  exact rfl

theorem endKeeps_coalesce (s : State) (p q : Nat) : endKeeps s (s.coalesce p q) := by
  unfold State.coalesce
  dsimp only
  split
  · split
    · exact endKeeps_trans (endKeeps_updQp s p q _) (endKeeps_msix _ _ _)
    · exact endKeeps_updQp s p q _
  · exact endKeeps_updQp s p q _

theorem endKeeps_sample (s : State) (kind index bin : Nat) (v : Int) (n : Nat) : endKeeps s (s.sample kind index bin v n) := by
  unfold State.sample
  split
  · exact endKeeps_refl s
  · dsimp only
    split
    · exact endKeeps_trans rfl (endKeeps_raise _ _ _)
    · exact rfl

theorem endKeeps_latency (s : State) (p ns : Nat) : endKeeps s (s.sampleLatency p ns) := by
  unfold State.sampleLatency
  dsimp only
  split
  · exact endKeeps_trans (endKeeps_sample ..) (endKeeps_severity _ _)
  · exact endKeeps_sample ..

theorem endKeeps_discard (s : State) : endKeeps s s.discardCompletion :=
  endKeeps_trans (endKeeps_trans (endKeeps_countSat s _) (endKeeps_raise _ _ _)) (endKeeps_severity _ _)

theorem endKeeps_reportWrite (s : State) (f : Option Func) : endKeeps s (s.reportWrite f) := by
  unfold State.reportWrite State.reportAer
  split <;> exact rfl

theorem endKeeps_failCompletion (s : State) (c : Cmd) : endKeeps s (s.failCompletion c) :=
  endKeeps_ite (endKeeps_trans (endKeeps_reportWrite s _) (endKeeps_haltQp _ _ _ _)) (endKeeps_reportWrite s _)

theorem endKeeps_cross (s : State) (i : Nat) : endKeeps s (s.cross i) := rfl

theorem endKeeps_crossPort (s : State) (f : Func) : endKeeps s (s.crossPort f) := endKeeps_cross s _

theorem endKeeps_writeOutcome (s : State) (ok : Option Bool) : endKeeps s (s.writeOutcome ok).2 := by
  unfold State.writeOutcome
  split <;> exact rfl

/-- A completion entry sent, with its latency sample, its CQ tail and its interrupt, keeps all that an ending's bookkeeping keeps. -/
theorem endKeeps_sentCompletion (s : State) (c : Cmd) (f : Func) (o : Output) (u : QueuePair → QueuePair) (signalled : Prop) [Decidable signalled] :
    endKeeps s
      (let s := (s.crossPort f).emit o
       let s := match c.fetched with | some t => s.sampleLatency c.part (s.quartz - t) | none => s
       let s := s.updQp c.part c.qp u
       if signalled then s.coalesce c.part c.qp else s) := by
  have h0 := endKeeps_trans (endKeeps_crossPort s f) (endKeeps_emit (s.crossPort f) o)
  generalize (s.crossPort f).emit o = v at h0
  have h1 : endKeeps s (match c.fetched with | some t => v.sampleLatency c.part (v.quartz - t) | none => v) := by
    split
    · exact endKeeps_trans h0 (endKeeps_latency _ _ _)
    · exact h0
  have h2 := endKeeps_trans h1 (endKeeps_updQp _ c.part c.qp u)
  exact endKeeps_ite (endKeeps_trans h2 (endKeeps_coalesce _ _ _)) h2

/-- A completion write keeps all that an ending's bookkeeping keeps. -/
theorem endKeeps_writeCompletion (s : State) (ok : Option Bool) (c : Cmd) (e : Ending) : endKeeps s (s.writeCompletion ok c e) := by
  unfold State.writeCompletion
  have h0 := endKeeps_writeOutcome s ok
  generalize s.writeOutcome ok = w at h0
  obtain ⟨b, v⟩ := w
  refine endKeeps_trans (endKeeps_trans h0 ?_) (endKeeps_settleQp _ _ _)
  dsimp only
  split
  · exact endKeeps_discard v
  · exact endKeeps_discard v
  · exact endKeeps_failCompletion v c
  · exact endKeeps_sentCompletion v c _ _ _ _

theorem endKeeps_abortDone (s : State) (c : Cmd) (e : Ending) : endKeeps s (s.abortDone c e) := by
  unfold State.abortDone State.settleAbort
  dsimp only
  split <;> split
  · exact endKeeps_trans (endKeeps_updPart _ _ _) (endKeeps_updPart _ _ _)
  · exact endKeeps_updPart _ _ _
  · exact endKeeps_updPart _ _ _
  · exact endKeeps_refl s

/-- The completion of a command keeps all that an ending's bookkeeping keeps. -/
theorem endKeeps_complete (s : State) (ok : Option Bool) (c : Cmd) (e : Ending) : endKeeps s (s.complete ok c e) := by
  unfold State.complete
  have h1 : endKeeps s (if e.status = stFaultDetected ∨ e.status = stRngFailed then s.severity 3 else s) :=
    endKeeps_ite (endKeeps_severity s 3) (endKeeps_refl s)
  have h2 := endKeeps_trans h1 (endKeeps_writeCompletion _ ok c e)
  exact endKeeps_trans (endKeeps_ite h2 (endKeeps_trans h2 (endKeeps_updPart _ _ _))) (endKeeps_abortDone _ c e)

theorem endKeeps_sendFlit (s : State) (k type vc : Nat) (last : Bool) (bs : List Byte) : endKeeps s (s.sendFlit k type vc last bs) := by
  unfold State.sendFlit
  dsimp only
  refine endKeeps_trans ?_ (endKeeps_emit _ _)
  split <;> exact rfl

/-- A message on a link keeps all that an ending's bookkeeping keeps. -/
theorem endKeeps_sendOn (s : State) (k : Nat) (o : Output) : endKeeps s (s.sendOn k o) := by
  have fold : ∀ {α : Type} (f : State → α → State) (_ : ∀ t p, endKeeps t (f t p)) (xs : List α) (t : State), endKeeps t (xs.foldl f t) := by
    intro α f hf xs
    induction xs with
    | nil => exact endKeeps_refl
    | cons p xs ih => exact fun t => endKeeps_trans (hf t p) (ih _)
  unfold State.sendOn
  refine endKeeps_ite (endKeeps_trans (endKeeps_trans (endKeeps_cross s 28) (fold _ (fun t p => ?_) _ _)) (endKeeps_emit _ _)) (endKeeps_refl s)
  exact endKeeps_sendFlit t _ _ _ _ _

/-- The answer to a command keeps all that an ending's bookkeeping keeps. -/
theorem endKeeps_answer (s : State) (ok : Option Bool) (c : Cmd) (e : Ending) : endKeeps s (s.answer ok c e) := by
  unfold State.answer
  split
  · exact endKeeps_sendOn _ _ _
  · exact endKeeps_complete _ _ _ _

/-- The end of a command that has left its buffer or context keeps all that an ending's bookkeeping keeps. -/
theorem endKeeps_finish (s : State) (ok : Option Bool) (c : Cmd) (e : Ending) (d : Option Nat) : endKeeps s (s.finish ok c e d) := by
  unfold State.finish
  split
  · exact rfl
  · exact endKeeps_answer _ _ _ _

/-- Noting a severity writes Agate's severity and event count at most. -/
theorem State.severity_spec (s : State) (n : Nat) :
    keeps [R.AGT_OPEN_SEV] s (s.severity n) ∧ s.severity n = { s with regs := (s.severity n).regs, ag := (s.severity n).ag } := by
  unfold State.severity
  split
  · exact ⟨keeps_refl s _, rfl⟩
  · exact ⟨fun f hf => s.get_keepMax_ne _ f _ (hf _ (by simp)), rfl⟩

/-- Everything a halt does. -/
theorem State.haltQp_halts (s : State) (p q err : Nat) : halts p q err s (s.haltQp p q err) := by
  unfold State.haltQp
  generalize hu : s.updQp p q (fun x => { x with qstate := .halted, qerr := err }) = u
  have h1 : onlyFields [R.BLK_INT_RAW pgHQE] u (if p = 0 then u.raise pgHQE 0 else u) := by
    split
    · exact u.raise_onlyFields _ _
    · exact onlyFields_refl u _
  have b1 : p = 0 → (if p = 0 then u.raise pgHQE 0 else u).bit (R.BLK_INT_RAW pgHQE) 0 = true := fun h => by
    rw [if_pos h, u.raise_raised pgHQE 0 0 (by decide)]; simp
  generalize hv : (if p = 0 then u.raise pgHQE 0 else u) = v at h1 b1
  have h2 := v.severity_spec 2
  generalize hw : v.severity 2 = w at h2
  have h3 := w.partEvent_spec p 0
  dsimp only
  rw [hv, hw]
  generalize ht : w.partEvent p 0 = t at h3
  obtain ⟨k1, m1, e1⟩ := h1
  obtain ⟨k2, e2⟩ := h2
  obtain ⟨k3, m3, e3⟩ := h3
  have mv : w.out = v.out := by rw [e2]
  subst hu
  have qt : t.hq.qps = w.hq.qps := by rw [e3]; rfl
  have qw : w.hq.qps = v.hq.qps := by rw [e2]
  have qv : v.hq.qps = (s.updQp p q fun x => { x with qstate := .halted, qerr := err }).hq.qps := by rw [e1]
  have pt : t.parts = (w.updPart p fun x => { x with pevt := putBit x.pevt 0 true }).parts := by rw [e3]
  have pw : w.parts = s.parts := by rw [e2, e1]; rfl
  have gt : ∀ f, t.get f = w.get f := fun f => k3 f (by simp)
  have bit0 : bitOf (putBit (s.part p).pevt 0 true) 0 = true := by rw [bitOf_testBit, testBit_putBit]; rfl
  refine ⟨?_, ?_, ⟨_, ?_, bit0⟩, ?_, ?_, ?_, ?_, ?_⟩
  · rw [State.qp, qt, qw, qv]; exact s.qp_updQp_same p q _
  · intro p' q' h; rw [State.qp, qt, qw, qv]; exact s.qp_updQp_ne p q p' q' _ (Ne.symm h)
  · rw [State.part, pt, State.part, ← pw]; exact w.part_updPart_same p _
  · intro p' h; rw [State.part, pt, State.part, ← pw]; exact w.part_updPart_ne p p' _ (Ne.symm h)
  · intro h
    have := b1 h
    rw [State.bit] at this ⊢
    rwa [gt, k2 _ (by decide)]
  · intro f hf
    rw [gt, k2 f fun g hg => hf g (by simp at hg; simp [hg]), k1 f fun g hg => hf g (by simp at hg; simp [hg])]; rfl
  · exact sentMsix_trans m1 (sentMsix_trans (sentMsix_of_out mv) m3)
  · rw [e3, e2, e1]; rfl

end Sys2Proof.Machine
end

