-- ==== Sys2Proof/Laws/Memory.lean ====
section
/-! SUPPORT. The bytes of the work region and of the shared SRAM: every operation on them keeps their canonical form, a byte written reads back, and every other byte reads as before. -/
namespace Sys2Proof.Machine

variable {α : Type} [DecidableEq α] (s : State)

/-- Dropping entries keeps the canonical form. -/
theorem Sparse.wf_filter (dk : Nat → α) (keep : Nat × α → Bool) (m : Sparse α) (h : Sparse.wf dk m = true) :
    Sparse.wf dk (m.filter keep) = true := by
  have low : ∀ (m : Sparse α) (j : Nat), Sparse.wf dk m = true → Sparse.below j m = true → Sparse.below j (m.filter keep) = true := by
    intro m
    induction m with
    | nil => intros; rfl
    | cons e m ih =>
      intro j hw hb
      simp only [Sparse.wf, Bool.and_eq_true] at hw
      simp only [List.filter_cons]
      split
      · exact hb
      · exact ih j hw.2 (Sparse.below_trans m hw.1.1 (by simp [Sparse.below] at hb; omega))
  induction m with
  | nil => rfl
  | cons e m ih =>
    simp only [Sparse.wf, Bool.and_eq_true] at h
    simp only [List.filter_cons]
    split
    · simp only [Sparse.wf, Bool.and_eq_true]
      exact ⟨⟨low m e.1 h.2 h.1.1, h.1.2⟩, ih h.2⟩
    · exact ih h.2

/-- A fold of writes and skips keeps the canonical form. -/
theorem Memory.wf_foldl {ι : Type} (xs : List ι) (f : List Host.Cell → ι → List Host.Cell)
    (hf : ∀ m i, Memory.wf m = true → Memory.wf (f m i) = true) (m : List Host.Cell) (h : Memory.wf m = true) :
    Memory.wf (xs.foldl f m) = true := by
  induction xs generalizing m with
  | nil => exact h
  | cons i xs ih => exact ih _ (hf m i h)

/-- One byte written keeps the canonical form. -/
theorem Memory.wf_set (m : List Host.Cell) (a : Nat) (b : Byte) (h : Memory.wf m = true) : Memory.wf (Sparse.set (0 : Byte) m a b) = true :=
  Sparse.wf_set (fun _ => (0 : Byte)) m a b h

/-- Reset's work region and shared SRAM list nothing. -/
theorem reset_memory_wf : Memory.wf State.reset.hb.mem = true ∧ Memory.wf State.reset.sc.sram = true := ⟨rfl, rfl⟩

/-- A write of work-region bytes keeps the canonical form. -/
theorem State.writeMem_wf (a : Nat) (bs : List Byte) (h : Memory.wf s.hb.mem = true) : Memory.wf (s.writeMem a bs).hb.mem = true := by
  unfold State.writeMem
  refine Memory.wf_foldl _ _ (fun m e hm => ?_) _ h
  dsimp only
  split
  · exact hm
  · exact Memory.wf_set m _ _ hm

/-- A write of shared-SRAM bytes keeps the canonical form. -/
theorem State.writeSram_wf (a : Nat) (bs : List Byte) (h : Memory.wf s.sc.sram = true) : Memory.wf (s.writeSram a bs).sc.sram = true :=
  Memory.wf_foldl _ _ (fun m _ hm => Memory.wf_set m _ _ hm) _ h

/-- Dropping bytes keeps the canonical form. -/
theorem Memory.wf_filter (keep : Host.Cell → Bool) (m : List Host.Cell) (h : Memory.wf m = true) : Memory.wf (m.filter keep) = true :=
  Sparse.wf_filter (fun _ => (0 : Byte)) keep m h

/-- The zeroing of a stack's regions keeps the canonical form. -/
theorem State.zeroLines_wf (k lo hi : Nat) (h : Memory.wf s.hb.mem = true) : Memory.wf (s.zeroLines k lo hi).hb.mem = true :=
  Sparse.wf_filter (fun _ => (0 : Byte)) _ _ h

/-- Whole lines written elsewhere keep the canonical form. -/
@[simp] theorem State.wholeLines_mem (a n : Nat) : (s.wholeLines a n).hb.mem = s.hb.mem := rfl

/-- What every step of a fold keeps, the fold keeps. -/
theorem foldl_keeps {β ι : Type} (P : β → Prop) (f : β → ι → β) (hf : ∀ b i, P b → P (f b i)) (xs : List ι) (b : β) (h : P b) : P (xs.foldl f b) := by
  induction xs generalizing b with
  | nil => exact h
  | cons i xs ih => exact ih _ (hf b i h)

theorem State.violation_hb (m x tag : Nat) (kind : AccessKind) : (s.violation m kind x tag).hb = s.hb := by
  cases kind <;> simp [State.violation]

/-- A write of work-region bytes by a DMA master keeps the canonical form. -/
theorem State.dmaWrite_wf (m tag a : Nat) (bs : List Byte) (h : Memory.wf s.hb.mem = true) : Memory.wf (s.dmaWrite m tag a bs).1.hb.mem = true := by
  unfold State.dmaWrite
  refine foldl_keeps (fun r : State × Bool => Memory.wf r.1.hb.mem = true) _ (fun r p hr => ?_) _ _ h
  split
  · exact State.writeMem_wf _ _ _ hr
  · simpa only [State.violation_hb] using hr

/-- Bytes written one after another from `a`: each reads back, and every byte outside them reads as before. -/
theorem Sparse.get_writes (bs : List Byte) (m : Sparse Byte) (a n b : Nat) :
    Sparse.get 0 ((List.range n).foldl (fun m i => Sparse.set 0 m (a + i) (bs.getD i 0)) m) b =
      if a ≤ b ∧ b < a + n then bs.getD (b - a) 0 else Sparse.get 0 m b := by
  induction n with
  | zero => simp <;> omega
  | succ n ih =>
    rw [List.range_succ, List.foldl_append]
    simp only [List.foldl_cons, List.foldl_nil]
    by_cases h : a + n = b
    · subst h; simp
    · rw [Sparse.get_set_ne _ _ _ _ h, ih]
      have : (a ≤ b ∧ b < a + (n + 1)) ↔ (a ≤ b ∧ b < a + n) := by omega
      simp [this]

/-- The shared SRAM after a write, byte by byte. -/
theorem State.sramByte_writeSram (a : Nat) (bs : List Byte) (b : Nat) :
    (s.writeSram a bs).sramByte b = if a ≤ b ∧ b < a + bs.length then bs.getD (b - a) 0 else s.sramByte b :=
  Sparse.get_writes bs s.sc.sram a bs.length b

end Sys2Proof.Machine
end

