-- ==== Sys2Proof/Laws/Sched.lean ====
section
/-! SUPPORT. What the scheduler's shared operations do to the threads and lists they do not name (R405, R407). -/
namespace Sys2Proof.Machine

/-- Putting slots in wake order loses none and adds none. -/
theorem mem_inWakeOrder (wake : Nat → Nat) (u : Nat) : ∀ ts, u ∈ inWakeOrder wake ts ↔ u ∈ ts
  | [] => Iff.rfl
  | t :: ts => by
    have key : u ∈ (inWakeOrder wake ts).takeWhile (fun v => wake v < wake t) ∨ u ∈ (inWakeOrder wake ts).dropWhile (fun v => wake v < wake t) ↔
        u ∈ ts := by
      rw [← List.mem_append, List.takeWhile_append_dropWhile, mem_inWakeOrder wake u ts]
    change u ∈ (inWakeOrder wake ts).takeWhile _ ++ t :: (inWakeOrder wake ts).dropWhile _ ↔ _
    rw [List.mem_append, List.mem_cons, List.mem_cons, ← key]
    exact or_left_comm

@[simp] theorem State.unlist_thread (s : State) (t u : Nat) : (s.unlist t).thread u = s.thread u := rfl

/-- Enlisting a slot makes it READY since then on the core chosen, and keeps its core of last run. -/
theorem State.enlist_thread_same (s : State) (t since : Nat) :
    (s.enlist t since).thread t =
      { s.thread t with st := .ready, list := ((s.unlist t).updThread t fun x => { x with st := .blocked }).placeOn t, readyAt := since } := by
  unfold State.enlist
  simp only
  split <;> simp [State.emit, State.thread, State.updThread, State.unlist]

end Sys2Proof.Machine
end

