-- ==== Sys2Proof/WellFormed.lean ====
section
/-! DEFINITION. Well-formed commands: what the environment can send. A command that is not well-formed has operands no bus, protocol or unit of the spec carries. -/
namespace Sys2Proof

/-- A program's run: at most 1,000 iterations of a signature (R175). -/
def ProgramRun.wellFormed (r : ProgramRun) : Bool := r.iters ≤ 1000

/-- Is a command well-formed? -/
def Instr.wellFormed : Instr → Bool
  | .registerWrite _ _ _ _ => true
  | .intForce _ _ _ => true
  | .portTrain _ peerGen peerWidth _ => 1 ≤ peerGen && peerGen ≤ 6 && [1, 2, 4, 8, 16].contains peerWidth
  | .linkDown _ => true
  | .flr _ => true
  | .qpEnable _ _ => true
  | .qpDisable _ _ => true
  | .sqTailDoorbell _ _ size _ => [1, 2, 4, 8].contains size
  | .cqHeadDoorbell _ _ size _ => [1, 2, 4, 8].contains size
  | .descriptorFetch _ => true
  | .descriptorReceive _ _ _ _ => true
  | .dispatch _ => true
  | .inputChunkRead _ _ => true
  | .dataDmaError _ => true
  | .coalTimeExpiry _ _ => true
  | .abortGo _ _ => true
  | .ldin _ _ => true
  | .ldsc _ _ => true
  | .lddesc _ _ => true
  | .ldconst _ _ => true
  | .ldi _ _ => true
  | .sadd _ _ => true
  | .movb _ _ => true
  | .vxor _ _ => true
  | .vand _ _ => true
  | .vclr _ _ => true
  | .setip _ _ => true
  | .movs _ _ => true
  | .stres _ _ => true
  | .stout _ _ => true
  | .fetch _ _ => true
  | .release _ _ => true
  | .kcv _ _ => true
  | .generate _ _ => true
  | .make _ _ => true
  | .writerec _ _ => true
  | .destroy _ _ => true
  | .loadrec _ _ => true
  | .readrec _ _ => true
  | .attest _ _ => true
  | .keyExtract _ _ => true
  | .ciphBlock _ _ => true
  | .ciphStream _ _ => true
  | .hashStream _ _ => true
  | .hashRegisters _ _ => true
  | .fmtCheck _ _ _ => true
  | .fmtExtract _ _ _ => true
  | .buildPin _ _ _ => true
  | .buildPan _ _ _ => true
  | .buildBlock _ _ _ => true
  | .decimalise _ _ _ => true
  | .deriveKey _ _ _ => true
  | .deriveData _ _ _ => true
  | .cmpBytes _ _ => true
  | .cmpSreg _ _ => true
  | .cmpImm _ _ => true
  | .brAlways _ _ => true
  | .brZ _ _ => true
  | .brNz _ _ => true
  | .brLt _ _ => true
  | .brNlt _ _ => true
  | .brFe _ _ => true
  | .brNfe _ _ => true
  | .loop _ _ => true
  | .rand _ _ => true
  | .done _ _ _ => true
  | .ecKeygen _ _ => true
  | .ecdsaSign _ _ => true
  | .ecdsaVerify _ _ => true
  | .ecdh _ _ => true
  | .eddsaSign _ _ => true
  | .eddsaVerify _ _ => true
  | .rsaSignPss _ _ => true
  | .rsaSignV15 _ _ => true
  | .rsaVerifyPss _ _ => true
  | .rsaVerifyV15 _ _ => true
  | .rsaOaepDecrypt _ _ => true
  | .rsaOaepEncrypt _ _ => true
  | .rsaKeygen _ _ => true
  | .mlkemKeygen _ _ => true
  | .mlkemEncaps _ _ => true
  | .mlkemDecaps _ _ => true
  | .mldsaKeygen _ _ => true
  | .mldsaSign _ _ => true
  | .mldsaVerify _ _ => true
  | .seqBudgetExceeded _ => true
  | .programCacheFill _ _ => true
  | .fenceHolderTimeout _ => true
  | .seqFreeze _ _ => true
  | .seqPinWrite _ _ => true
  | .laneOpComplete _ _ _ => true
  | .hashOpComplete _ _ => true
  | .katComplete _ _ _ _ => true
  | .katGoLane _ _ => true
  | .katGoHash _ => true
  | .katGoFmt _ => true
  | .laneReseed _ _ => true
  | .ccReset _ _ => true
  | .pkHandoff _ _ => true
  | .pkOpComplete _ _ _ _ iters => iters ≤ 1000
  | .pkOpAbort _ _ _ => true
  | .pkKatComplete _ _ _ _ => true
  | .katGoEng _ _ => true
  | .katGoLu _ => true
  | .pkFreeze _ _ => true
  | .pkReset _ _ => true
  | .keyFill _ _ => true
  | .fenceRaise _ => true
  | .fenceComplete _ => true
  | .fenceOvertime _ => true
  | .sweeperStep => true
  | .remaskPeriod _ _ => true
  | .mmkRemask => true
  | .aptWindowClose _ _ => true
  | .repetitionCountFail _ => true
  | .cellRestartTest _ _ _ => true
  | .drbgInstantiate _ _ => true
  | .drbgReseed _ => true
  | .drbgGenerate _ _ => true
  | .rngNotReadyTimeout _ => true
  | .obsSeedRefresh => true
  | .hbmInit _ => true
  | .hbmKeyDraw _ => true
  | .protReady _ => true
  | .workReady _ => true
  | .hbmReadComplete _ _ _ _ _ _ _ => true
  | .hbmWrite a _ data _ => !data.isEmpty && a.val + data.length ≤ 0xBA0000000
  | .scrubStep _ _ _ _ _ => true
  | .hbmTempHigh _ _ => true
  | .pprGo _ _ => true
  | .migrateOut _ _ => true
  | .pprProgram _ _ => true
  | .pprVerify _ _ => true
  | .migrateBack _ => true
  | .arbGrant _ _ _ => true
  | .arbWindowBoundary _ => true
  | .arbTransferEnd _ => true
  | .arbFreeze _ _ => true
  | .starve _ _ => true
  | .partCmdFreeze _ => true
  | .partCmdThaw _ => true
  | .partCmdDrain _ => true
  | .freezeComplete _ => true
  | .drainComplete _ => true
  | .mpuAccess _ kind addr len _ data => 1 ≤ len && addr.val + len ≤ 2 ^ 40 && (if kind = .write then data.length == len else data.isEmpty)
  | .mpuCommitDrain _ => true
  | .mpuDrainOvertime _ => true
  | .stagingWrite _ _ => true
  | .gateSeal => true
  | .gateAbandon => true
  | .approvalVerified _ _ => true
  | .gateApply => true
  | .gateComplete => true
  | .gateWindowExpire => true
  | .monitorSample _ _ _ => true
  | .shadowScan _ => true
  | .obsAck => true
  | .mainPowerLoss _ => true
  | .powerOn => true
  | .lcsGo _ _ => true
  | .testOpenEntry _ => true
  | .lcsTransitionComplete => true
  | .dbgNonceExpire => true
  | .debugOpen => true
  | .plCapWrite _ => true
  | .levelChangeStart => true
  | .avsAck _ _ => true
  | .relockDone => true
  | .avsTimeout => true
  | .avsRetry => true
  | .plFailClear => true
  | .thermalSample readings _ => !readings.isEmpty
  | .thermalCapFall => true
  | .thermalCapRise => true
  | .idleGate _ => true
  | .islandUngate _ => true
  | .clusterPowerOff _ => true
  | .clusterPowerOn _ => true
  | .sleepEntry => true
  | .wakeTlp _ => true
  | .wakePattern _ => true
  | .wakeSmbus => true
  | .relSd => true
  | .relCard => true
  | .claimTie => true
  | .stuckClaim => true
  | .claimConflict => true
  | .demote => true
  | .hostloss => true
  | .healthReportSend => true
  | .healthReportReceive report => report.length == 32
  | .reportLost => true
  | .selfTestStep _ => true
  | .deltaApply dseq _ => dseq < 2 ^ 64
  | .deltaAck dseq => dseq < 2 ^ 64
  | .syncTimeout => true
  | .takeover => true
  | .take => true
  | .relinquish => true
  | .relinquishDrained => true
  | .handover => true
  | .resync => true
  | .linkTrained _ => true
  | .handshake _ _ => true
  | .flitReceive _ _ => true
  | .idleFlitSend _ => true
  | .linkSilence _ => true
  | .keyRatchet _ _ => true
  | .linkRetry _ => true
  | .wakeSend _ => true
  | .fvlSoftReset _ => true
  | .enrolmentCatchupDone => true
  | .delayExchange _ _ _ parentTime _ => parentTime.all (· < 2 ^ 64)
  | .ppsEdge => true
  | .dtStale => true
  | .replMessage _ _ seq _ _ _ => seq < 2 ^ 64
  | .scheduleReceive _ seq epoch ts tov => seq < 2 ^ 32 && epoch < 2 ^ 32 && ts < 2 ^ 64 && tov ≤ 60000000000
  | .cancelReceive _ seq => seq < 2 ^ 32
  | .epochBoundary _ => true
  | .forwardSend _ => true
  | .forwardRequest _ _ _ desc => desc.length == 64
  | .forwardResponse _ _ answer _ _ => answer.result.length ≤ 16
  | .perstAssert => true
  | .perstRelease => true
  | .bootEnd => true
  | .modReset _ => true
  | .watchdogExpire => true
  | .wdogKick => true
  | .smbusReceiveByte => true
  | .smbusTransaction => true
  | .create _ => true
  | .ready _ => true
  | .delay _ _ => true
  | .block _ => true
  | .free _ => true
  | .setprio _ _ => true
  | .nextRead _ => true
  | .schedTick => true
  | .hold _ => true
  | .coreReset _ => true
  | .compareFire _ => true
  | .featureClaim _ _ => true
  | .cardPresenceChange _ _ => true
  | .atrTimeout _ => true
  | .cardClockStop _ => true
  | .approveGo => true
  | .cardResponse _ _ => true
  | .keypadPinEntry pin => 4 ≤ pin.length && pin.length ≤ 12
  | .approveTimeout => true
  | .sdInsert m => m.block.length == 512 && m.rpmb < 2 ^ 64
  | .sdRemove => true
  | .sdBusyEnd bs _ => bs.length == 512
  | .sdBusyTimeout => true
  | .pinClaim _ _ => true
  | .agateWindowClose => true
  | .windowOverdue => true
  | .hclr => true
  | .tapInstructionLoad _ => true
  | .tapReset => true
  | .stageProgramImage _ run => run.wellFormed
  | .stageFormatEntry _ run => run.wellFormed
  | .stageDerivationEntry _ run => run.wellFormed
  | .stageCurveEntry _ run => run.wellFormed
  | .approveChange _ run => run.wellFormed
  | .readChangeRecord _ run => run.wellFormed
  | .stageLifeCycleCommand _ run => run.wellFormed
  | .debugChallenge _ run => run.wellFormed
  | .debugResponse _ run => run.wellFormed
  | .enterSleepS2 _ run => run.wellFormed
  | .enterSleepS3 _ run => run.wellFormed
  | .domainCreate _ run => run.wellFormed
  | .domainJoin _ run sponsor => run.wellFormed && (match sponsor with | some g => g.secret.length == 32 && decide (g.time < 2 ^ 64) | none => true)
  | .domainLeave _ run => run.wellFormed
  | .scheduleEpoch _ run => run.wellFormed
  | .cancelEpoch _ run _ => run.wellFormed
  | .reProvision _ run => run.wellFormed
  | .restoreFirmwareChunk _ run => run.wellFormed
  | .stageServiceApplet _ run => run.wellFormed
  | .journalAppend _ run => run.wellFormed
  | .journalRead _ run bs => run.wellFormed && bs.length == 512
  | .generateKey _ run => run.wellFormed
  | .destroyKey _ run => run.wellFormed
  | .loadRecords _ run => run.wellFormed
  | .readRecord _ run => run.wellFormed
  | .keyBlockImport _ run => run.wellFormed
  | .keyBlockExport _ run => run.wellFormed
  | .keyBlockTranslate _ run => run.wellFormed
  | .attestKey _ run => run.wellFormed
  | .checkValue _ run => run.wellFormed
  | .tableRollBegin _ run => run.wellFormed
  | .tableRollRewrap _ run => run.wellFormed
  | .tableRollFinish _ run => run.wellFormed
  | .tableRollConfirm _ run => run.wellFormed
  | .readReplicationLog _ run => run.wellFormed
  | .pinTranslateF0F4 _ run => run.wellFormed
  | .pinTranslate _ run => run.wellFormed
  | .pinVerifyOffset _ run => run.wellFormed
  | .pinVerifyPvv _ run => run.wellFormed
  | .pvvGenerate _ run => run.wellFormed
  | .pinTranslateFromDukpt _ run => run.wellFormed
  | .cvvVerify _ run => run.wellFormed
  | .cvvGenerate _ run => run.wellFormed
  | .arqcVerify _ run => run.wellFormed
  | .arqcVerifyArpc1Tdes _ run => run.wellFormed
  | .arqcVerifyArpc1Aes _ run => run.wellFormed
  | .arqcVerifyArpc2 _ run => run.wellFormed
  | .dukptInitialKeyExport _ run => run.wellFormed
  | .dukptDataDecrypt _ run => run.wellFormed
  | .dukptMacVerify _ run => run.wellFormed
  | .ff1Tokenise _ run => run.wellFormed
  | .ff1Detokenise _ run => run.wellFormed
  | .cmacGenerate _ run => run.wellFormed
  | .cmacVerify _ run => run.wellFormed
  | .hmacGenerate _ run => run.wellFormed
  | .hmacVerify _ run => run.wellFormed
  | .retailMacGenerate _ run => run.wellFormed
  | .retailMacVerify _ run => run.wellFormed
  | .ecdsaSignWrapper _ run => run.wellFormed
  | .ecdsaVerifyWrapper _ run => run.wellFormed
  | .eddsaSignWrapper _ run => run.wellFormed
  | .eddsaVerifyWrapper _ run => run.wellFormed
  | .rsaSignWrapper _ run => run.wellFormed
  | .rsaVerifyWrapper _ run => run.wellFormed
  | .rsaOaepDecryptWrapper _ run => run.wellFormed
  | .ecdhWrapper _ run => run.wellFormed
  | .mlkemEncapsulateWrapper _ run => run.wellFormed
  | .mlkemDecapsulateWrapper _ run => run.wellFormed
  | .mldsaSignWrapper _ run => run.wellFormed
  | .mldsaVerifyWrapper _ run => run.wellFormed
  | .blockReady _ => true
  | .interlockInputChange _ _ => true
  | .backupSourceChange _ _ _ _ _ => true
  | .vddCoreLoss => true
  | .latchingRead _ _ => true

end Sys2Proof
end

