-- ==== Sys2Proof/Tests/Slice0.lean ====
section
/-! SUPPORT. Tests: commands the environment cannot send, known answers, single steps, and for every statement concrete states and operands that meet the hypotheses of each of its clauses. -/
set_option linter.all false
set_option Elab.async false
namespace Sys2Proof.Tests

open Sys2Proof.Machine

/-! ## States the tests use -/

/-- A module in service: every block ready, every island and port powered, two partitions with a function each. -/
def up : State :=
  let part : Part := { created := true, domain := true, pstate := .active, quotaPart := 64, quotaDom := 64, ephQuota := 256, vfs := [some (.vf 0 0)],
                       proot := { gen := 1, key := some (zeros 32) }, droot := { gen := 1, key := some (zeros 32) }, pen := 2 ^ 4096 - 1 }
  let s : State := { State.reset with
    mode := .service
    bt := { State.reset.bt with perst := false }
    hq := { State.reset.hq with vfOn := [0, 1], msixCtl := [(0, 0x8000), (1, 0x8000), (2, 0x8000)] }
    ge := { State.reset.ge with ready := true }
    hb := { State.reset.hb with keys := [(0, [1]), (1, [2])] }
    parts := [(0, { part with vfs := [], quotaMod := 64, mroot := { gen := 1, key := some (zeros 32) } }), (1, part)]
    ob := { State.reset.ob with mmk := some (zeros 32) } }
  (((s.set R.RST_BLK_READY 0xFFFFFFFF).set R.PWR_DOMAIN_ON_LO 0xFFFFFFFF).set R.GBL_CC_INSERVICE 0xFFFF).set R.GBL_PK_INSERVICE 0xFF

/-- `up` with port 0 up. -/
def linked : State := (((up.set (portUp 0) 1).set (portGen 0) 6).set (portWidth 0) 3)

/-- `linked` with queue pair 0 of partition 1 in a state, with rings of 16 entries. -/
def paired (x : QueuePair) : State := linked.updQp 1 0 fun _ => { x with sqSize := 15, cqSize := 15, sqBase := 0x1000, cqBase := 0x9000, vector := 1, fn := some (.vf 0 0) }

/-- `paired` with slots 0x010-0x250 holding an image for every mode. -/
def served (x : QueuePair) : State :=
  let s := paired x
  { s with sq := { s.sq with progs := [(0x10, { image := some { modes := 0x1F } }), (0x100, { image := some { modes := 0x1F } })] } }

/-- A descriptor, and a command of queue pair 0 of partition 1 with it. -/
def d1 : Descriptor := { program := 0x100, hostTag := 7, outInline := true, inInline := true }

def c1 : Cmd := { part := 1, qp := 0, desc := d1 }

/-- A grant of an arbiter. -/
def granting (unit p : Nat) (s : State) : State := { s with arbs := Sparse.set {} s.arbs unit { owner := some p } }

/-- A context that runs `c`. -/
def running (c : Cmd) (x : Context) (s : State) : State := s.setCtx 64 { x with cmd := some c }

/-- A context of cluster 1 that is about to issue one instruction, with its command's descriptor, its registers and its keys as given. -/
def issuing (cls op : Nat) (w : Insn) (d : Descriptor := d1) (x : Context := {}) (s : State := served { qstate := .active }) : State :=
  running { c1 with desc := d } { x with image := { modes := 0x1F, code := [⟨cls, op, w⟩], consts := [[1, 2, 3], [4]] } } s

/-- A state with every unit of cluster 1 in service, 4,096 random bytes in its queue, and every unit of the public-key clusters in service. -/
def equipped (s : State) : State :=
  let svc : Service := { inService := true, passed := true }
  { s with
    ci := { s.ci with lanes := (List.range 4).map fun l => (4 + l, { svc, seeded := true }), hash := [(1, { svc })], fmt := [(1, svc)] }
    fl := { s.fl with queues := [(1, zeros 4096)], drbgs := (List.range 16).map fun n => (n, { ready := true, katOk := true }) }
    pk := { s.pk with units := (List.range 72).map fun u => (u, { svc }) } }

/-- `issuing` in an equipped module. -/
def working (cls op : Nat) (w : Insn) (d : Descriptor := d1) (x : Context := {}) (s : State := served { qstate := .active }) : State :=
  equipped (issuing cls op w d x s)

/-- A key slot with a key of a class. -/
def slotOf (cls n : Nat) (usage : Nat := 2 ^ 14 - 1) : KeySlot :=
  { key := { cls, usage, material := (List.range n).map fun i => BitVec.ofNat 8 (2 * i + 1) }, mask := usage, field := 0 }

def cx : Ctx := ⟨1, 0⟩

def mat (n : Nat) (a : Nat := 1) : List Byte := (List.range n).map fun i => BitVec.ofNat 8 (2 * i + a)

def kk (cls n : Nat) (a : Nat := 1) (usage : Nat := 2 ^ 14 - 1) (attr : Nat := 0x3F28) : Key :=
  let k : Key := { cls, usage, attr, level := 3, material := mat n a }
  k

def recOf (k : Key) : KeyRecord := { key := k, owner := 1, parentGen := 1, tepoch := 1 }

/-- A key resident in a slice, its mask zeros. -/
def cached (part h : Nat) (k : Key) : CacheEntry :=
  { line := lineKey part h, gen := 1, entries := 1, key := { k with material := [] }, material := { value := k.material, mask := zeros k.material.length } }

/-- Context 0 of cluster 1 running a program of a partition. -/
def prun (prog : Nat) (input : List Byte) (k0 k1 : Key) (param : Nat := 0) (outLen : Nat := 4000) (body : List Byte := []) (inlineOut : Bool := false) (part : Nat := 1) (key0 : Nat := 5) (key1 : Nat := 6) : State :=
  let s := paired { qstate := .active }
  let d : Descriptor := { program := prog, inLen := input.length, outLen, outInline := inlineOut, outAddr := 0x10000, param, body, key0, key1, hostTag := 7 }
  let s := equipped (running { c1 with desc := d, part } { input } s)
  { s with ge := { s.ge with ready := true
                             lines := [(lineKey part 5, { gen := 1, live := true, record := some { recOf k0 with owner := part } }), (lineKey part 6, { gen := 1, live := true, record := some { recOf k1 with owner := part } })]
                             slices := [(1, [cached part 5 k0, cached part 6 k1])] } }

def r0 : ProgramRun := {}

/-- Did a check or an operation answer a value? -/
def isOk {ε α : Type} (e : Except ε α) : Bool := match e with | .ok _ => true | .error _ => false

/-- The value it answered. -/
def okOf {ε α : Type} (e : Except ε α) (h : isOk e = true) : α := match e, h with | .ok a, _ => a

theorem eq_okOf {ε α : Type} (e : Except ε α) (h : isOk e = true) : e = .ok (okOf e h) := by
  cases e with | ok a => rfl | error _ => cases h

def okv {α β} [Inhabited β] (x : Except α β) : β := match x with | .ok b => b | .error _ => default

/-- the slot a FETCH loads -/
def slotFor (s : State) (field cls mask : Nat) : KeySlot :=
  let x := s.ctx 64
  match s.judgeFetch x.part (x.desc.keyField field) cls mask with
  | .ok (r, chain) => { key := r.key, mask, field, line := some (lineKey x.part (x.desc.keyField field)), stamp := chain }
  | .error _ => { key := {}, mask := 0, field := 0 }

/-! ## Well-formedness: for each check, commands it refuses and the boundary value it takes -/

def aRun : ProgramRun := { iters := 1001 }
def aMedium : Medium := { emmc := false, s18a := false, supports := 0, reports := 0, tunes := 0, width := 0, block := zeros 512, rpmbKey := none, rpmb := 0 }

theorem test_illformed_refused :
    ([.portTrain 0 0 4 none, .portTrain 0 7 4 none, .portTrain 0 3 3 none, .sqTailDoorbell (.pf 0) 0 3 0, .cqHeadDoorbell (.pf 0) 0 0 0,
      .pkOpComplete 0 0 0 true 1001, .hbmWrite 0 .core [] 0, .hbmWrite 0xB9FFFFFFF .core [1, 2] 0, .mpuAccess 0 .read 0 0 0 [],
      .mpuAccess 0 .read 0xFFFFFFFFFF 2 0 [], .mpuAccess 0 .write 0 2 0 [1], .mpuAccess 0 .fetch 0 2 0 [1], .thermalSample [] 800] : List Instr).all
      (fun i => !i.wellFormed) = true := by decide +kernel

theorem test_illformed_refused_too :
    ([.healthReportReceive (zeros 31), .deltaApply (2 ^ 64) (.pstate 0 .active), .deltaAck (2 ^ 64), .delayExchange 0 0 [] (some (2 ^ 64)) 0,
      .replMessage 0 0 (2 ^ 64) 0 0 {}, .scheduleReceive 0 (2 ^ 32) 0 0 0, .scheduleReceive 0 0 (2 ^ 32) 0 0, .scheduleReceive 0 0 0 (2 ^ 64) 0,
      .scheduleReceive 0 0 0 0 60000000001, .cancelReceive 0 (2 ^ 32), .forwardRequest 0 0 0 (zeros 63),
      .forwardResponse 0 0 { status := 0, detail := 0, resultLen := 0, result := zeros 17, cluster := 0, serviceNs := 0, linkNs := 0 } [] true,
      .keypadPinEntry [1, 2, 3], .keypadPinEntry (List.replicate 13 0), .sdInsert { aMedium with block := [] }, .sdInsert { aMedium with rpmb := 2 ^ 64 },
      .sdBusyEnd (zeros 511) true, .domainJoin ⟨0, 0⟩ {} (some { secret := zeros 31, id := 0, time := 0, epochs := [] }),
      .domainJoin ⟨0, 0⟩ {} (some { secret := zeros 32, id := 0, time := 2 ^ 64, epochs := [] }), .domainJoin ⟨0, 0⟩ aRun none,
      .journalRead ⟨0, 0⟩ {} (zeros 511), .journalRead ⟨0, 0⟩ aRun (zeros 512), .stageProgramImage ⟨0, 0⟩ aRun, .mldsaSignWrapper ⟨0, 0⟩ aRun] : List Instr).all
      (fun i => !i.wellFormed) = true := by decide +kernel

theorem test_wellformed_taken :
    ([.portTrain 0 1 16 none, .portTrain 0 6 1 none, .sqTailDoorbell (.pf 0) 0 8 0, .pkOpComplete 0 0 0 true 1000, .hbmWrite 0xB9FFFFFFF .core [1] 0,
      .mpuAccess 0 .read 0xFFFFFFFFFF 1 0 [], .healthReportReceive (zeros 32), .scheduleReceive 0 0 0 0 60000000000, .forwardRequest 0 0 0 (zeros 64),
      .keypadPinEntry [1, 2, 3, 4], .keypadPinEntry (List.replicate 12 0), .sdInsert aMedium, .mldsaSignWrapper ⟨0, 0⟩ { iters := 1000 }] : List Instr).all
      (fun i => i.wellFormed) = true := by decide +kernel

/-! ## Known answers of the algorithms the spec names (Table 0.4), from their standards -/

/-- DES: the worked example key 133457799BBCDFF1. -/
theorem test_des : desEncrypt [0x13, 0x34, 0x57, 0x79, 0x9B, 0xBC, 0xDF, 0xF1] [0x01, 0x23, 0x45, 0x67, 0x89, 0xAB, 0xCD, 0xEF] =
    [0x85, 0xE8, 0x13, 0x54, 0x0F, 0x0A, 0xB4, 0x05] := by decide +kernel

/-- FIPS 197, appendix C.1. -/
theorem test_aes : aesEncrypt (beBytes 16 0x000102030405060708090A0B0C0D0E0F) (beBytes 16 0x00112233445566778899AABBCCDDEEFF) =
    beBytes 16 0x69C4E0D86A7B0430D8CDB78070B4C55A := by decide +kernel

/-- RFC 4493, the empty message. -/
theorem test_cmac : cmac 0 (beBytes 16 0x2B7E151628AED2A6ABF7158809CF4F3C) [] = beBytes 16 0xBB1D6929E95937287FA37D129B756746 := by decide +kernel

/-- FIPS 180-4, "abc". -/
theorem test_sha256 : sha256 [0x61, 0x62, 0x63] =
    beBytes 32 0xBA7816BF8F01CFEA414140DE5DAE2223B00361A396177A9CB410FF61F20015AD := by decide +kernel

/-- FIPS 202, the empty message. -/
theorem test_sha3 : sha3_256 [] = beBytes 32 0xA7FFC6F8BF1ED76651C14756A061D662F580FF4DE43B49FA82D80A4B80F8434A := by decide +kernel

/-! ## Single steps -/

/-- The state a command gives. -/
def after (i : Instr) (s : State) : State := match exec i s with | .next t => t | _ => s

/-- SADD wraps modulo 2^32 (Table 3.4). -/
theorem test_sadd_wraps : (((after (.sadd cx { d := 1, a := 2, imm := 1 }) (issuing 0 5 { d := 1, a := 2, imm := 1 } d1
    { sreg := [0, 0, 0xFFFFFFFF, 0, 0, 0, 0, 0] })).ctx 64).sreg.getD 1 9) = 0 := by decide +kernel

/-- A tail doorbell out of the ring's range halts the pair (R38). -/
theorem test_tail_out_of_range : ((after (.sqTailDoorbell (.vf 0 0) 0 4 16) (paired { qstate := .active })).qp 1 0).qstate = .halted := by decide +kernel

/-- A doorbell access that is not a 4-byte write is ignored (R37). -/
theorem test_doorbell_size : after (.sqTailDoorbell (.vf 0 0) 0 8 3) (paired { qstate := .active }) = paired { qstate := .active } := by decide +kernel

/-- The block takes the command in front of its queue. -/
theorem test_step_front : step { up with pending := [.sqTailDoorbell (.pf 0) 0 8 3, .obsAck] } = .next { up with pending := [.obsAck] } := rfl

/-- LDI writes the immediate (Table 3.4). -/
theorem test_ldi : (((after (.ldi cx { d := 3, imm := 0xCAFE0123 }) (issuing 0 4 { d := 3, imm := 0xCAFE0123 })).ctx 64).sreg.getD 3 0) = 0xCAFE0123 := by
  decide +kernel

/-! ## Lemmas for values that evaluation does not reach -/

theorem map_getD_eq_slice (l : List Byte) (o n : Nat) : (List.range n).map (fun i => l.getD (o + i) 0) = slice o n l := by
  apply List.ext_getElem
  · simp [slice, fitBytes, zeros]
  · intro i h1 h2
    simp only [List.length_map, List.length_range] at h1
    simp only [List.getElem_map, List.getElem_range, slice, fitBytes, zeros, List.getElem_take]
    by_cases h : o + i < l.length
    · rw [List.getElem_append_left (by simp; omega)]
      simp [List.getD_eq_getElem?_getD, h]
    · rw [List.getElem_append_right (by simp; omega)]
      simp [List.getD_eq_getElem?_getD, List.getElem?_eq_none (Nat.le_of_not_lt h)]

/-- The input bytes of a program whose input is `l`. -/
theorem input_slice {e : Prog} {l : List Byte} (h : e.x.input = l) (hl : e.x.desc.inLen = l.length) (o n : Nat) : e.input o n = slice o n l := by
  rw [← map_getD_eq_slice]
  unfold Prog.input Context.inBytes
  refine List.map_congr_left fun i _ => ?_
  unfold Context.inByte
  rw [h, hl]
  split
  · rfl
  · next c => simp [List.getD_eq_getElem?_getD, List.getElem?_eq_none (Nat.le_of_not_lt c)]

theorem slice_front {n : Nat} {b c : List Byte} (h : b.length = n) : slice 0 n (b ++ c) = b := by
  subst h; simp [slice, fitBytes]

theorem slice_back {n m : Nat} {b c : List Byte} (h : b.length = n) (h2 : c.length = m) : slice n m (b ++ c) = c := by
  subst h; subst h2; simp [slice, fitBytes]

theorem slice_mid {o n : Nat} {a b c : List Byte} (ha : a.length = o) (hb : b.length = n) : slice o n (a ++ (b ++ c)) = b := by
  subst ha; subst hb; simp [slice, fitBytes]

/-- The first 240 bytes of a record of type 1 with payload [3]. -/
def recBody (n : Nat) : List Byte :=
  [0x4B, 0x4C, 0x4A, 0x52] ++ leBytes 8 Config.serial.toNat ++ leBytes 8 n ++ leBytes 1 1 ++ [0] ++ leBytes 2 1 ++ fitBytes 216 [3]

theorem validRecord_record (n : Nat) (hm : (journalMac (zeros 32) (recBody n)).length = 16) :
    validRecord (zeros 32) (journalRecord (zeros 32) n 1 [3]) = true := by
  have hb : (recBody n).length = 240 := rfl
  have e : journalRecord (zeros 32) n 1 [3] = recBody n ++ journalMac (zeros 32) (recBody n) := rfl
  rw [e]
  unfold validRecord
  rw [slice_front hb, slice_back hb hm]
  have h1 : (recBody n ++ journalMac (zeros 32) (recBody n)).take 4 = [0x4B, 0x4C, 0x4A, 0x52] := rfl
  have h2 : slice 4 8 (recBody n ++ journalMac (zeros 32) (recBody n)) = leBytes 8 Config.serial.toNat := rfl
  rw [h1, h2]
  simp

/-! ## The hypotheses of the statements are met

One conjunct for each clause of a statement, with the state and the operands that meet its hypotheses together. -/

namespace T00

def pgH : Page := ⟨.hqe, 0⟩
def intr : State := { up.set (R.BLK_INT_EN pgHQE) 0x7F with hq := { up.hq with msix := [(msixKey 0 (1088 + 0xA0) 3, 0)] } }
/-- `up` with every island relocking but island 1. -/
def relocking : State := { up.set R.GBL_ISLAND_LOCK 0x7F000002 with pw.relocking := true }

theorem test_hypotheses_EmptyQueueIdlesOneTick :
    ∃ (s : Machine.State), s.pending = [] :=
  ⟨up, by decide +kernel⟩

theorem test_hypotheses_RegisterWriteFollowsAccessCodes :
    (∃ (pg : Page) (f : Field) (s : Machine.State), Page.ofAddr pg.base = some pg ∧ f ∈ pg.fields ∧ ownCommand f = false ∧ compareUnit f.addr = none ∧ f.addr / 4 < 16777216 ∧ reachable s pg.num) ∧
    (∃ (word : Fin 16777216) (s : Machine.State), s.responds (4 * ↑word / 4096) = true ∧ s.relocks (islandOf (4 * ↑word / 4096)) = true) :=
  ⟨⟨pgH, R.HQE_PSEL, up, by decide +kernel⟩,
   ⟨0x4040, relocking, by decide +kernel⟩⟩

theorem test_hypotheses_CommonRegistersAndIgnoredWrites :
    (∃ (pg : Page) (s : Machine.State), Page.ofAddr pg.base = some pg ∧ reachable s pg.num) ∧
    (∃ (word : Fin 16777216) (s : Machine.State), s.responds (4 * ↑word / 4096) = false) ∧
    (∃ (word : Fin 16777216), Page.ofAddr (4 * ↑word) = none) ∧
    (∃ (word : Fin 16777216) (s : Machine.State), reachable s (4 * ↑word / 4096) ∧ 2048 ≤ 4 * ↑word % 4096) ∧
    (∃ (page : Fin 16384) (pg : Page) (s : Machine.State), Page.ofAddr (4096 * ↑page) = some pg ∧ reachable s ↑page) ∧
    (∃ (page : Fin 16384) (s : Machine.State), s.responds ↑page = true ∧ s.relocks (islandOf ↑page) = true ∧ Page.ofAddr (4096 * ↑page) ≠ none) ∧
    (∃ (fn : Func) (page : Fin 16384) (s : Machine.State), (s.responds ↑page = false ∨ ∃ p n, fn = Func.vf p n)) :=
  ⟨⟨pgH, up, by decide +kernel⟩,
   ⟨0x28000, State.reset, by decide +kernel⟩,
   ⟨0x30000, by decide +kernel⟩,
   ⟨0x28200, up, by decide +kernel⟩,
   ⟨0xA0, pgH, up, by decide +kernel⟩,
   ⟨0x10, relocking, by decide +kernel⟩,
   ⟨.vf 0 0, 0x10, up, Or.inr ⟨_, _, rfl⟩⟩⟩

theorem test_hypotheses_PageInterruptsSignalTheirVector :
    ∃ (page : Fin 16384) (pg : Page) (value : Word) (j : Nat) (s : Machine.State), Page.ofAddr (4096 * ↑page) = some pg ∧ reachable s ↑page ∧ j < 32 ∧ (BitVec.toNat value).testBit j = true ∧ pg.intBits.testBit j = true ∧ s.bit (R.BLK_INT_RAW ↑page) j = false ∧ s.bit (R.BLK_INT_EN ↑page) j = true :=
  ⟨0xA0, pgH, 0xFF, 4, intr, by decide +kernel⟩

theorem test_hypotheses_LatchingReadsLatchTheHighHalf :
    (∃ (s : Machine.State), s.responds pgQTZ = true) ∧
    (∃ (s : Machine.State), s.responds (pgFVL 0) = true) ∧
    (∃ (s : Machine.State), s.responds pgSD = true) :=
  ⟨⟨up, by decide +kernel⟩,
   ⟨up, by decide +kernel⟩,
   ⟨up, by decide +kernel⟩⟩

theorem test_hypotheses_ShadowReadsTheComplement :
    (∃ (s : Machine.State), s.responds pgHQE = true) ∧
    (∃ (s : Machine.State), s.responds (pgSEQ 3) = true) ∧
    (∃ (pg : Page) (off : Nat) (s : Machine.State), Page.ofAddr pg.base = some pg ∧ 256 ≤ off ∧ off < 2048 ∧ off % 4 = 0 ∧ s.responds pg.num = true ∧ (∀ (v : View), v ∈ s.fieldsAt pg off → v.guarded = false)) :=
  ⟨⟨up, by decide +kernel⟩,
   ⟨up, by decide +kernel⟩,
   ⟨pgH, 0x144, up, by decide +kernel⟩⟩

end T00

namespace T01

def run1 : State := (paired { qstate := .active }).setCtx 64 { cmd := some { part := 1, qp := 0, desc := {} } }
def cmd2 : Cmd := { part := 2, qp := 0, desc := {} }
/-- Commands of another partition staged, sent, held and running beside a pair that is lost. -/
def others : State := { (paired { qstate := .active }).setCtx 65 { cmd := some cmd2 } with hq := { (paired { qstate := .active }).hq with staged := [cmd2], fwdOut := [{ cmd := cmd2, link := 6, tag := 0 }], held := [{ cmd := cmd2, ending := {}, dseq := 0 }] } }
def onPort0 (f : Func) : Bool := funcPort f == 0

theorem test_hypotheses_PortsTrainAndGoDown :
    (∃ (port : Fin 2) (gen : Nat) (s : Machine.State), s.get (portUp port) ≠ 1 ∧ 3 ≤ gen ∧ s.inReset = false ∧ s.bit R.PWR_DOMAIN_ON_LO (26 + ↑port) = true) ∧
    (∃ (port : Fin 2) (gen : Nat) (lanes : Option Nat) (s : Machine.State), (lanes = none ∨ s.get (portUp port) = 1 ∨ gen < 3 ∨ s.inReset = true ∨ s.bit R.PWR_DOMAIN_ON_LO (26 + ↑port) = false)) ∧
    (∃ (port : Fin 2) (s : Machine.State), s.get (portUp port) ≠ 0) ∧
    (∃ (port : Fin 2) (s : Machine.State), s.get (portUp port) = 0) ∧
    (∃ (f : Func → Bool) (s : Machine.State) (k : Nat), k ∈ s.lostQps f) ∧
    (∃ (f : Func → Bool) (s : Machine.State) (p : Nat) (q : Nat), ¬qpKey p q ∈ s.lostQps f) ∧
    (∃ (f : Func → Bool) (s : Machine.State) (c : Cmd), c ∈ (s.loseQps f).hq.staged) ∧
    (∃ (f : Func → Bool) (s : Machine.State) (x : FwdCmd), x ∈ (s.loseQps f).hq.fwdOut) ∧
    (∃ (f : Func → Bool) (s : Machine.State) (x : Held), x ∈ (s.loseQps f).hq.held) ∧
    (∃ (f : Func → Bool) (s : Machine.State) (k : Nat) (c : Cmd), ((s.loseQps f).ctx k).cmd = some c) :=
  ⟨⟨0, 9, up, by decide +kernel⟩,
   ⟨0, 6, some 2, linked, by decide +kernel⟩,
   ⟨0, run1, by decide +kernel⟩,
   ⟨0, up, by decide +kernel⟩,
   ⟨onPort0, others, qpKey 1 0, by decide +kernel⟩,
   ⟨onPort0, others, 2, 0, by decide +kernel⟩,
   ⟨onPort0, others, cmd2, by decide +kernel⟩,
   ⟨onPort0, others, { cmd := cmd2, link := 6, tag := 0 }, by decide +kernel⟩,
   ⟨onPort0, others, { cmd := cmd2, ending := {}, dseq := 0 }, by decide +kernel⟩,
   ⟨onPort0, others, 65, cmd2, by decide +kernel⟩⟩

theorem test_hypotheses_QueuePairEnableAndDisable :
    (∃ (fn : Func) (q : Fin 64) (p : Nat) (s : Machine.State), s.responds pgHQE = true ∧ s.partOf fn = some p ∧ (s.qp p ↑q).qstate = QState.disabled ∧ s.qpValid p ↑q = true) ∧
    (∃ (fn : Func) (q : Fin 64) (p : Nat) (s : Machine.State), s.responds pgHQE = true ∧ s.partOf fn = some p ∧ (s.qp p ↑q).qstate = QState.disabled ∧ s.qpValid p ↑q = false) ∧
    (∃ (fn : Func) (q : Fin 64) (p : Nat) (s : Machine.State), s.responds pgHQE = true ∧ s.partOf fn = some p ∧ (s.qp p ↑q).qstate ≠ QState.disabled ∧ (s.qp p ↑q).qstate ≠ QState.draining) ∧
    (∃ (fn : Func) (q : Fin 64) (p : Nat) (s : Machine.State), s.partOf fn = some p ∧ ((s.qp p ↑q).qstate = QState.disabled ∨ (s.qp p ↑q).qstate = QState.draining)) ∧
    (∃ (fn : Func) (s : Machine.State), (s.responds pgHQE = false ∨ s.partOf fn = none)) :=
  ⟨⟨.vf 0 0, 0, 1, paired {}, by decide +kernel⟩,
   ⟨.vf 0 0, 1, 1, paired {}, by decide +kernel⟩,
   ⟨.vf 0 0, 0, 1, run1, by decide +kernel⟩,
   ⟨.vf 0 0, 0, 1, paired { qstate := .draining }, by decide +kernel⟩,
   ⟨.vf 0 7, up, by decide +kernel⟩⟩

theorem test_hypotheses_DoorbellsRecordOrHalt :
    (∃ (fn : Func) (q : Fin 64) (p : Nat) (v : Word) (s : Machine.State), s.responds pgHQE = true ∧ s.doorbellAt fn ↑q = some p ∧ (s.qp p ↑q).qstate ≠ QState.disabled ∧ ¬((s.qp p ↑q).qstate = QState.active ∧ s.mode ≠ Mode.boot ∧ (s.qp p ↑q).sqSize < BitVec.toNat v % 65536) ∧ s.pw.phase ≠ SleepPhase.entering) ∧
    (∃ (fn : Func) (q : Fin 64) (p : Nat) (v : Word) (s : Machine.State), s.responds pgHQE = true ∧ s.doorbellAt fn ↑q = some p ∧ (s.qp p ↑q).qstate = QState.active ∧ s.mode ≠ Mode.boot ∧ (s.qp p ↑q).sqSize < BitVec.toNat v % 65536) ∧
    (∃ (fn : Func) (q : Fin 64) (p : Nat) (v : Word) (s : Machine.State), s.responds pgHQE = true ∧ s.doorbellAt fn ↑q = some p ∧ (s.qp p ↑q).qstate ≠ QState.disabled ∧ ¬((s.qp p ↑q).qstate = QState.active ∧ s.mode ≠ Mode.boot ∧ (s.qp p ↑q).sqSize < BitVec.toNat v % 65536) ∧ s.pw.phase = SleepPhase.entering) ∧
    (∃ (fn : Func) (q : Fin 64) (p : Nat) (s : Machine.State), s.responds pgHQE = true ∧ s.doorbellAt fn ↑q = some p ∧ (s.qp p ↑q).qstate ≠ QState.disabled ∧ s.recordsDoorbells p ↑q = true) ∧
    (∃ (fn : Func) (q : Fin 64) (p : Nat) (v : Word) (s : Machine.State), s.responds pgHQE = true ∧ s.doorbellAt fn ↑q = some p ∧ (s.qp p ↑q).qstate ≠ QState.disabled ∧ s.recordsDoorbells p ↑q = false ∧ (s.qp p ↑q).overReleases (BitVec.toNat v % 65536) = false) ∧
    (∃ (fn : Func) (q : Fin 64) (p : Nat) (v : Word) (s : Machine.State), s.responds pgHQE = true ∧ s.doorbellAt fn ↑q = some p ∧ (s.qp p ↑q).qstate ≠ QState.disabled ∧ s.recordsDoorbells p ↑q = false ∧ (s.qp p ↑q).overReleases (BitVec.toNat v % 65536) = true ∧ (s.qp p ↑q).qstate = QState.active) ∧
    (∃ (fn : Func) (q : Fin 64) (p : Nat) (v : Word) (s : Machine.State), s.responds pgHQE = true ∧ s.doorbellAt fn ↑q = some p ∧ (s.qp p ↑q).qstate ≠ QState.disabled ∧ s.recordsDoorbells p ↑q = false ∧ (s.qp p ↑q).overReleases (BitVec.toNat v % 65536) = true ∧ (s.qp p ↑q).qstate ≠ QState.active) ∧
    (∃ (fn : Func) (q : Fin 64) (size : Nat) (s : Machine.State), (size ≠ 4 ∨ s.doorbellAt fn ↑q = none ∨ s.responds pgHQE = false ∨ ∃ p, s.doorbellAt fn ↑q = some p ∧ (s.qp p ↑q).qstate = QState.disabled)) :=
  ⟨⟨.vf 0 0, 0, 1, 15, run1, by decide +kernel⟩,
   ⟨.vf 0 0, 0, 1, 16, run1, by decide +kernel⟩,
   ⟨.vf 0 0, 0, 1, 15, { run1 with pw.phase := .entering }, by decide +kernel⟩,
   ⟨.vf 0 0, 0, 1, paired { qstate := .frozen }, by decide +kernel⟩,
   ⟨.vf 0 0, 0, 1, 0, run1, by decide +kernel⟩,
   ⟨.vf 0 0, 0, 1, 16, run1, by decide +kernel⟩,
   ⟨.vf 0 0, 0, 1, 1, paired { qstate := .halted }, by decide +kernel⟩,
   ⟨.vf 0 0, 0, 2, run1, Or.inl (by decide +kernel)⟩⟩

end T01

namespace T02

def sF : State := granting 0 1 (served { qstate := .active, sqTail := 3, sqHead := 15 })
def sR : State := served { qstate := .active, reading := 2 }
def dsc : List Byte := [2, 2] ++ leBytes 2 0x100 ++ zeros 60
def sD : State := granting unitDispatch 1 { served { qstate := .active } with hq := { (served { qstate := .active }).hq with staged := [c1, { c1 with qp := 1 }] } }
def cI : Cmd := { c1 with desc := { d1 with inInline := false, outInline := false, inLen := 10000, outLen := 32, outAddr := 0x100000 } }
/-- `cI` with its input in the partition's work window, `n` bytes of it. -/
def cW (n : Nat) : Cmd := { cI with desc := { cI.desc with inLen := n, body := leBytes 8 (0xFFFFFE * 2 ^ 40) } }
def window (s : State) : State :=
  ((((s.set (R.HBM_WORK_READY 0) 1).set (R.HBM_WORK_READY 1) 1).set (R.HBM_PHY_READY 0) 1).set (R.HBM_PHY_READY 1) 1).updPart 1 fun x => { x with wsize := 1 }
def dispatching (c : Cmd) : State := window { sD with hq := { sD.hq with staged := [c] } }
def reading (n : Nat) : State := window (running (cW n) { input := zeros 4096 } (served { qstate := .active }))
def sC : State := running cI { input := zeros 4096 } (served { qstate := .active })
def sQ : State := { served { qstate := .active, coalDue := some 0, unsignalled := 2 } with hq := { (served { qstate := .active, coalDue := some 0, unsignalled := 2 }).hq with msix := [(msixKey 2 1 3, 0)] } }
def linkOpened : State := { (((sD.set R.FVL0_ENROLLED 1).set (R.FVL_STATE 6) 4).updLink 6 fun l => { l with capacity := 3 }).updPart 1 fun x => { x with fwdEn := true, fwdThresh := 1 } with
  hq := { sD.hq with staged := [cI], fwdOut := [{ cmd := cI, link := 6, tag := 4 }] } }
def keyed : Cmd := { c1 with desc := { d1 with key0 := 5 } }
/-- `sD` where only the slice of cluster 1 holds the key of `keyed`. -/
def holding : State := { sD with ge := { sD.ge with slices := [(1, [{ line := lineKey 1 5, gen := 1, entries := 1 }])] } }

theorem test_hypotheses_DescriptorFetchReadsABurst :
    (∃ (port : Fin 2) (p : Nat) (q : Nat) (f : Func) (s : Machine.State), s.grantOf ↑port = some p ∧ s.fetches p = true ∧ s.nextQp (↑port) p = some q ∧ s.qpFunc p q = some f) ∧
    (∃ (port : Fin 2) (s : Machine.State), (∀ (p : Nat), s.grantOf ↑port = some p → s.fetches p = false ∨ s.nextQp (↑port) p = none)) :=
  ⟨⟨0, 1, 0, .vf 0 0, sF, by decide +kernel⟩,
   ⟨0, sR, by decide +kernel⟩⟩

theorem test_hypotheses_DescriptorReceiveStagesOrRefuses :
    (∃ (part : Fin 1024) (q : Fin 64) (bs : List Byte) (s : Machine.State), (s.qp ↑part ↑q).reading ≠ 0 ∧ (s.refuseDescriptor (↑part) (if (s.qp ↑part ↑q).compat = true then badV1 bs else badV2 bs) ({ part := ↑part, qp := ↑q, desc := if (s.qp ↑part ↑q).compat = true then readV1 bs else readV2 bs } : Cmd).desc = none) ∧ (s.part ↑part).pstate ≠ PState.frozen) ∧
    (∃ (part : Fin 1024) (q : Fin 64) (bs : List Byte) (s : Machine.State), (s.qp ↑part ↑q).reading ≠ 0 ∧ (s.refuseDescriptor (↑part) (if (s.qp ↑part ↑q).compat = true then badV1 bs else badV2 bs) ({ part := ↑part, qp := ↑q, desc := if (s.qp ↑part ↑q).compat = true then readV1 bs else readV2 bs } : Cmd).desc = none) ∧ (s.part ↑part).pstate = PState.frozen) ∧
    (∃ (part : Fin 1024) (q : Fin 64) (bs : List Byte) (s : Machine.State) (st : Nat) (det : Nat), (s.qp ↑part ↑q).reading ≠ 0 ∧ (s.refuseDescriptor (↑part) (if (s.qp ↑part ↑q).compat = true then badV1 bs else badV2 bs) ({ part := ↑part, qp := ↑q, desc := if (s.qp ↑part ↑q).compat = true then readV1 bs else readV2 bs } : Cmd).desc = some (st, det)) ∧ st ≠ stBusyRetry) ∧
    (∃ (part : Fin 1024) (q : Fin 64) (bs : List Byte) (s : Machine.State) (det : Nat), (s.qp ↑part ↑q).reading ≠ 0 ∧ (s.refuseDescriptor (↑part) (if (s.qp ↑part ↑q).compat = true then badV1 bs else badV2 bs) ({ part := ↑part, qp := ↑q, desc := if (s.qp ↑part ↑q).compat = true then readV1 bs else readV2 bs } : Cmd).desc = some (stBusyRetry, det))) ∧
    (∃ (p : Nat) (s : Machine.State), (s.part p).quietWin = true) ∧
    (∃ (p : Nat) (s : Machine.State), (s.part p).quietWin = false) ∧
    (∃ (part : Fin 1024) (q : Fin 64) (s : Machine.State) (f : Func), (s.qp ↑part ↑q).reading ≠ 0 ∧ s.qpFunc ↑part ↑q = some f) ∧
    (∃ (part : Fin 1024) (q : Fin 64) (s : Machine.State), (s.qp ↑part ↑q).reading ≠ 0 ∧ (s.qp ↑part ↑q).qstate = QState.active) ∧
    (∃ (part : Fin 1024) (q : Fin 64) (s : Machine.State), (s.qp ↑part ↑q).reading ≠ 0 ∧ (s.qp ↑part ↑q).qstate = QState.frozen) ∧
    (∃ (part : Fin 1024) (q : Fin 64) (s : Machine.State), (s.qp ↑part ↑q).reading ≠ 0 ∧ (s.qp ↑part ↑q).qstate ≠ QState.active ∧ (s.qp ↑part ↑q).qstate ≠ QState.frozen) ∧
    (∃ (part : Fin 1024) (q : Fin 64) (s : Machine.State), (s.qp ↑part ↑q).reading = 0) ∧
    (∃ (d : Descriptor) (s : Machine.State), s.imageOf d.program = none) ∧
    (∃ (p : Nat) (d : Descriptor) (i : Image) (s : Machine.State), s.imageOf d.program = some i ∧ s.admits p i = false) ∧
    (∃ (p : Nat) (d : Descriptor) (i : Image) (s : Machine.State), s.imageOf d.program = some i ∧ s.admits p i = true ∧ s.slotEnabled p d.program = false) ∧
    (∃ (p : Nat) (d : Descriptor) (i : Image) (s : Machine.State), s.imageOf d.program = some i ∧ s.admits p i = true ∧ s.slotEnabled p d.program = true ∧ (s.part p).retry = true ∧ (s.part p).quota ≤ s.backlog p) ∧
    (∃ (p : Nat) (d : Descriptor) (i : Image) (s : Machine.State), s.imageOf d.program = some i ∧ s.admits p i = true ∧ s.slotEnabled p d.program = true ∧ ((s.part p).retry = false ∨ s.backlog p < (s.part p).quota)) :=
  ⟨⟨1, 0, dsc, sR, by decide +kernel⟩,
   ⟨1, 0, dsc, sR.updPart 1 fun x => { x with pstate := .frozen }, by decide +kernel⟩,
   ⟨1, 0, zeros 64, sR, stFormatError, 0, by decide +kernel⟩,
   ⟨1, 0, dsc, sR.updPart 1 fun x => { x with quota := 0 }, 1000, by decide +kernel⟩,
   ⟨1, sR.updPart 1 fun x => { x with quietWin := true }, by decide +kernel⟩,
   ⟨1, sR.updPart 1 fun x => { x with quietWin := false }, by decide +kernel⟩,
   ⟨1, 0, sR, .vf 0 0, by decide +kernel⟩,
   ⟨1, 0, sR, by decide +kernel⟩,
   ⟨1, 0, served { qstate := .frozen, reading := 1 }, by decide +kernel⟩,
   ⟨1, 0, served { qstate := .draining, reading := 1 }, by decide +kernel⟩,
   ⟨1, 0, sF, by decide +kernel⟩,
   ⟨{ d1 with program := 2 }, sR, by decide +kernel⟩,
   ⟨1, d1, { modes := 0x1F }, { sR with mode := .bare }, by decide +kernel⟩,
   ⟨1, d1, { modes := 0x1F }, sR.updPart 1 fun x => { x with pen := 0 }, by decide +kernel⟩,
   ⟨1, d1, { modes := 0x1F }, sR.updPart 1 fun x => { x with quota := 0 }, by decide +kernel⟩,
   ⟨1, d1, { modes := 0x1F }, sR, by decide +kernel⟩⟩

theorem test_hypotheses_DispatchStartsAContext :
    (∃ (c : Cmd) (rest : List Cmd) (i : Image) (n : Nat) (k : Nat) (s : Machine.State), s.granted = some (c, rest) ∧ s.imageOf c.desc.program = some i ∧ s.slotEnabled c.part c.desc.program = true ∧ s.chooseCluster c = some n ∧ s.freeCtx n = some k ∧ s.windowWaits c 0 (min c.desc.inLen 4096) = false ∧ s.relocks n = false ∧ c.windowIn = false) ∧
    (∃ (c : Cmd) (rest : List Cmd) (i : Image) (n : Nat) (k : Nat) (s : Machine.State) (r : List Byte × Machine.State), s.granted = some (c, rest) ∧ s.imageOf c.desc.program = some i ∧ s.slotEnabled c.part c.desc.program = true ∧ s.chooseCluster c = some n ∧ s.freeCtx n = some k ∧ s.windowWaits c 0 (min c.desc.inLen 4096) = false ∧ s.relocks n = false ∧ c.windowIn = true ∧ (s.cross n).windowInput c 0 (min c.desc.inLen 4096) = some r) ∧
    (∃ (c : Cmd) (rest : List Cmd) (i : Image) (n : Nat) (k : Nat) (s : Machine.State), s.granted = some (c, rest) ∧ s.imageOf c.desc.program = some i ∧ s.slotEnabled c.part c.desc.program = true ∧ s.chooseCluster c = some n ∧ s.freeCtx n = some k ∧ s.windowWaits c 0 (min c.desc.inLen 4096) = false ∧ s.relocks n = false ∧ c.windowIn = true ∧ (s.cross n).windowInput c 0 (min c.desc.inLen 4096) = none) ∧
    (∃ (c : Cmd) (rest : List Cmd) (s : Machine.State), s.granted = some (c, rest) ∧ (s.imageOf c.desc.program = none ∨ s.slotEnabled c.part c.desc.program = false)) ∧
    (∃ (s : Machine.State), s.granted = none) ∧
    (∃ (c : Cmd) (rest : List Cmd) (i : Image) (s : Machine.State), s.granted = some (c, rest) ∧ s.imageOf c.desc.program = some i ∧ s.slotEnabled c.part c.desc.program = true ∧ (s.chooseCluster c = none ∨ (∃ n, s.chooseCluster c = some n ∧ (s.freeCtx n = none ∨ s.relocks n = true)) ∨ s.windowWaits c 0 (min c.desc.inLen 4096) = true)) ∧
    (∃ (c : Cmd) (s : Machine.State), c.windowUse = true ∧ s.workReady = false) ∧
    (∃ (c : Cmd), c.peer ≠ none) ∧
    (∃ (c : Cmd) (off : Nat) (n : Nat) (s : Machine.State), s.workReady = true ∧ (c.windowIn = false ∨ s.hbmHeld (s.windowAddr c.part c.desc.inAddr + off) n = false)) ∧
    (∃ (c : Cmd) (n : Nat) (s : Machine.State) (m : Nat), s.chooseCluster c = some n ∧ (∃ m, m < 16 ∧ s.selectable m = true ∧ ∃ h, c.desc.firstKey = some h ∧ s.sliceHolds m (lineKey c.part h) = true) ∧ m < 16 ∧ s.selectable m = true ∧ (∃ h, c.desc.firstKey = some h ∧ s.sliceHolds m (lineKey c.part h) = true) ∧ s.freeIn m = s.freeIn n) ∧
    (∃ (c : Cmd) (n : Nat) (s : Machine.State) (m : Nat), s.chooseCluster c = some n ∧ (∀ (m : Nat), m < 16 → s.selectable m = true → ¬∃ h, c.desc.firstKey = some h ∧ s.sliceHolds m (lineKey c.part h) = true) ∧ m < 16 ∧ s.selectable m = true ∧ s.freeIn m = s.freeIn n) :=
  ⟨⟨c1, [{ c1 with qp := 1 }], { modes := 0x1F }, 0, 0, sD, by decide +kernel⟩,
   ⟨cW 10000, [], { modes := 0x1F }, 0, 0, dispatching (cW 10000), (((dispatching (cW 10000)).cross 0).windowInput (cW 10000) 0 4096).get (by decide +kernel), (by (iterate 8 refine ⟨by decide +kernel, ?_⟩); exact (Option.some_get _).symm)⟩,
   ⟨cW (2 ^ 20 + 1), [], { modes := 0x1F }, 0, 0, dispatching (cW (2 ^ 20 + 1)), by decide +kernel⟩,
   ⟨c1, [{ c1 with qp := 1 }], sD.updPart 1 fun x => { x with pen := 0 }, by decide +kernel⟩,
   ⟨up, by decide +kernel⟩,
   ⟨c1, [{ c1 with qp := 1 }], { modes := 0x1F }, sD.set R.GBL_CC_INSERVICE 0, ⟨by decide +kernel, by decide +kernel, by decide +kernel, Or.inl (by decide +kernel)⟩⟩,
   ⟨cW 10000, { sD with mode := .service }, by decide +kernel⟩,
   ⟨{ c1 with peer := some (6, 4) }, by decide +kernel⟩,
   ⟨cW 10000, 0, 4096, dispatching (cW 10000), ⟨by decide +kernel, .inr (by decide +kernel)⟩⟩,
   ⟨keyed, 1, holding, 1, ⟨by decide +kernel, ⟨1, by decide, by decide +kernel, 5, by decide +kernel⟩, by decide, by decide +kernel, ⟨5, by decide +kernel⟩, rfl⟩⟩,
   ⟨c1, 0, sD, 0, ⟨by decide +kernel, fun _ _ _ ⟨_, e, _⟩ => absurd e (by simp [show c1.desc.firstKey = none by decide +kernel]), by decide, by decide +kernel, rfl⟩⟩⟩

theorem test_hypotheses_ChunksErrorsAndCoalescing :
    (∃ (c : Ctx) (cmd : Cmd) (s : Machine.State), (s.ctx (ctxKey c)).cmd = some cmd ∧ cmd.desc.inInline = false ∧ 4096 ≤ (s.ctx (ctxKey c)).input.length ∧ (s.ctx (ctxKey c)).input.length < cmd.desc.inLen ∧ ((s.ctx (ctxKey c)).input.length < (s.ctx (ctxKey c)).ip + 8192 ∨ (s.ctx (ctxKey c)).image.code = []) ∧ s.xbarHeld ↑c.cc = false ∧ s.windowWaits cmd (s.ctx (ctxKey c)).input.length (min 4096 (cmd.desc.inLen - (s.ctx (ctxKey c)).input.length)) = false ∧ cmd.windowIn = false) ∧
    (∃ (c : Ctx) (cmd : Cmd) (s : Machine.State) (r : List Byte × Machine.State), (s.ctx (ctxKey c)).cmd = some cmd ∧ cmd.desc.inInline = false ∧ 4096 ≤ (s.ctx (ctxKey c)).input.length ∧ (s.ctx (ctxKey c)).input.length < cmd.desc.inLen ∧ ((s.ctx (ctxKey c)).input.length < (s.ctx (ctxKey c)).ip + 8192 ∨ (s.ctx (ctxKey c)).image.code = []) ∧ s.xbarHeld ↑c.cc = false ∧ s.windowWaits cmd (s.ctx (ctxKey c)).input.length (min 4096 (cmd.desc.inLen - (s.ctx (ctxKey c)).input.length)) = false ∧ cmd.windowIn = true ∧ s.windowInput cmd (s.ctx (ctxKey c)).input.length (min 4096 (cmd.desc.inLen - (s.ctx (ctxKey c)).input.length)) = some r) ∧
    (∃ (c : Ctx) (cmd : Cmd) (s : Machine.State), (s.ctx (ctxKey c)).cmd = some cmd ∧ cmd.desc.inInline = false ∧ 4096 ≤ (s.ctx (ctxKey c)).input.length ∧ (s.ctx (ctxKey c)).input.length < cmd.desc.inLen ∧ ((s.ctx (ctxKey c)).input.length < (s.ctx (ctxKey c)).ip + 8192 ∨ (s.ctx (ctxKey c)).image.code = []) ∧ s.xbarHeld ↑c.cc = false ∧ s.windowWaits cmd (s.ctx (ctxKey c)).input.length (min 4096 (cmd.desc.inLen - (s.ctx (ctxKey c)).input.length)) = false ∧ cmd.windowIn = true ∧ s.windowInput cmd (s.ctx (ctxKey c)).input.length (min 4096 (cmd.desc.inLen - (s.ctx (ctxKey c)).input.length)) = none) ∧
    (∃ (k : Nat) (s : Machine.State), (s.ctx k).run = none) ∧
    (∃ (c : Ctx) (s : Machine.State), (∀ (cmd : Cmd), (s.ctx (ctxKey c)).cmd = some cmd → cmd.desc.inInline = true ∨ (s.ctx (ctxKey c)).input.length < 4096 ∨ cmd.desc.inLen ≤ (s.ctx (ctxKey c)).input.length ∨ (s.ctx (ctxKey c)).ip + 8192 ≤ (s.ctx (ctxKey c)).input.length ∧ (s.ctx (ctxKey c)).image.code ≠ [] ∨ s.xbarHeld ↑c.cc = true ∨ s.windowWaits cmd (s.ctx (ctxKey c)).input.length (min 4096 (cmd.desc.inLen - (s.ctx (ctxKey c)).input.length)) = true)) ∧
    (∃ (c : Cmd) (rest : List Cmd) (s : Machine.State), s.granted = some (c, rest) ∧ c.desc.inInline = false ∧ c.desc.inLen ≠ 0 ∧ c.desc.windowIn = false ∧ c.peer = none) ∧
    (∃ (c : Ctx) (cmd : Cmd) (s : Machine.State), (s.ctx (ctxKey c)).cmd = some cmd ∧ cmd.peer = none ∧ cmd.desc.inInline = false ∧ cmd.desc.windowIn = false) ∧
    (∃ (c : Ctx) (cmd : Cmd) (s : Machine.State), (s.ctx (ctxKey c)).cmd = some cmd ∧ cmd.peer = none ∧ cmd.desc.outInline = false ∧ cmd.desc.windowOut = false) ∧
    (∃ (c : Cmd) (rest : List Cmd) (k : Nat) (s : Machine.State), s.forwardLink = some k ∧ s.pickForward [] s.hq.staged = some (c, rest) ∧ c.desc.inInline = false ∧ c.desc.inLen ≠ 0 ∧ c.desc.windowIn = false) ∧
    (∃ (k : Fin 8) (tag : Nat) (x : FwdCmd) (s : Machine.State), List.find? (fun x => x.link == ↑k && x.tag == tag) s.hq.fwdOut = some x ∧ x.cmd.desc.outInline = false ∧ x.cmd.desc.outLen ≠ 0 ∧ x.cmd.desc.windowOut = false) ∧
    (∃ (part : Fin 1024) (q : Fin 64) (due : Nat) (f : Func) (s : Machine.State), (s.qp ↑part ↑q).coalDue = some due ∧ due ≤ s.quartz ∧ (s.qp ↑part ↑q).unsignalled ≠ 0 ∧ s.qpFunc ↑part ↑q = some f) ∧
    (∃ (part : Fin 1024) (q : Fin 64) (s : Machine.State), (∀ (due : Nat), (s.qp ↑part ↑q).coalDue = some due → s.quartz < due)) :=
  ⟨⟨⟨1, 0⟩, cI, sC, by decide +kernel⟩,
   ⟨⟨1, 0⟩, cW 10000, reading 10000, ((reading 10000).windowInput (cW 10000) ((reading 10000).ctx (ctxKey ⟨1, 0⟩)).input.length (min 4096 ((cW 10000).desc.inLen - ((reading 10000).ctx (ctxKey ⟨1, 0⟩)).input.length))).get (by decide +kernel), (by (iterate 8 refine ⟨by decide +kernel, ?_⟩); exact (Option.some_get _).symm)⟩,
   ⟨⟨1, 0⟩, cW (2 ^ 20 + 1), reading (2 ^ 20 + 1), by decide +kernel⟩,
   ⟨64, sC, by decide +kernel⟩,
   ⟨⟨1, 0⟩, running c1 { input := zeros 4096 } (served { qstate := .active }), by decide +kernel⟩,
   ⟨cI, [], dispatching cI, by decide +kernel⟩,
   ⟨⟨1, 0⟩, cI, sC, by decide +kernel⟩,
   ⟨⟨1, 0⟩, cI, sC, by decide +kernel⟩,
   ⟨cI, [], 6, linkOpened, by decide +kernel⟩,
   ⟨6, 4, { cmd := cI, link := 6, tag := 4 }, linkOpened, by decide +kernel⟩,
   ⟨1, 0, 0, .vf 0 0, sQ, by decide +kernel⟩,
   ⟨1, 0, sD, by decide +kernel⟩⟩

theorem test_hypotheses_AbortTakesEveryMatch :
    (∃ (fn : Func) (q : Fin 64) (p : Nat) (s : Machine.State), s.responds pgHQE = true ∧ s.partOf fn = some p ∧ (s.part p).abortBusy = false ∧ s.marksLeft p = 0 ∧ (∀ (c : Cmd), c ∈ s.hq.staged → Cmd.ofQp p (↑q) c = false) ∧ (∀ (e : Nat × Machine.Context), e ∈ s.sq.ctxs → ∀ (c : Cmd), e.snd.cmd = some c → Cmd.ofQp p (↑q) c = false) ∧ (∀ (x : FwdCmd), x ∈ s.hq.fwdOut → Cmd.ofQp p (↑q) x.cmd = false) ∧ (∀ (x : Held), x ∈ s.hq.held → Cmd.ofQp p (↑q) x.cmd = false)) ∧
    (∃ (fn : Func) (q : Fin 64) (p : Nat) (c : Cmd) (s : Machine.State), s.responds pgHQE = true ∧ s.partOf fn = some p ∧ (s.part p).abortBusy = false ∧ s.marksLeft p = 0 ∧ s.hq.staged = [c] ∧ Cmd.ofQp p (↑q) c = true ∧ c.desc.hostTag = (s.part p).abortTag ∧ (∀ (e : Nat × Machine.Context), e ∈ s.sq.ctxs → ∀ (c : Cmd), e.snd.cmd = some c → Cmd.ofQp p (↑q) c = false) ∧ (∀ (x : FwdCmd), x ∈ s.hq.fwdOut → Cmd.ofQp p (↑q) x.cmd = false) ∧ (∀ (x : Held), x ∈ s.hq.held → Cmd.ofQp p (↑q) x.cmd = false)) ∧
    (∃ (fn : Func) (s : Machine.State), (s.responds pgHQE = false ∨ s.partOf fn = none ∨ ∃ p, s.partOf fn = some p ∧ (s.part p).abortBusy = true)) :=
  ⟨⟨.vf 0 0, 3, 1, sD, by decide +kernel⟩,
   ⟨.vf 0 0, 0, 1, { c1 with desc := { d1 with hostTag := 7 } }, dispatching { c1 with desc := { d1 with hostTag := 7 } } |> fun s => s.updPart 1 fun x => { x with abortTag := 7 }, by decide +kernel⟩,
   ⟨.vf 0 0, sD.updPart 1 fun x => { x with abortBusy := true }, Or.inr (Or.inr ⟨1, by decide +kernel⟩)⟩⟩

end T02

namespace T03

def vs : List (List Byte) := (List.range 16).map fun i => (List.range 16).map fun j => BitVec.ofNat 8 (16 * i + j)
def ss : List Word := [100, 200, 3, 4, 1, 0xFFFFFFFF, 7, 8]
def x0 : Context := { v := vs, sreg := ss, ip := 3, op := 5, input := (List.range 256).map (BitVec.ofNat 8) }
def dIn : Descriptor := { d1 with inInline := false, inLen := 4096, param := 0x12345678, outLen := 40, body := (List.range 24).map (BitVec.ofNat 8) }
def st (cls op : Nat) (w : Insn) : State := issuing cls op w dIn x0
def stf (cls op : Nat) (w : Insn) : State := issuing cls op w { dIn with inLen := 256 } x0
def cxt (s : State) : Context := s.ctx 64
def w1 : Insn := { d := 2, a := 3, b := 4, imm := 0x5005 }
def w2 : Insn := { d := 2, a := 3, b := 4, modi := 0x20, imm := 0x3005 }
def far (_ : Insn) : State := issuing 0 10 w1 dIn { x0 with ip := 0x10000 }
def wS : Insn := { d := 2, a := 3, b := 15, modi := 7, imm := 0x82 }
def dOut : Descriptor := { dIn with outInline := false, outAddr := 0x1000 }
/-- A store while a result of its context waits for its turn. -/
def late0 : State := issuing 1 0 wS dIn { x0 with issued := 1 }
def late1 : State := issuing 1 1 wS dIn { x0 with issued := 1 }
def sO (w : Insn) : State := issuing 1 1 w dOut x0
def dWin : Descriptor := { dOut with outAddr := 0xFFFFFE * 2 ^ 40 }
def sW (w : Insn) : State := issuing 1 1 w dWin x0
def sV (w : Insn) : State := (sW w).updPart 1 fun x => { x with wsize := 1 }

theorem test_hypotheses_LoadInstructionsWriteOneRegister :
    (∃ (c : Ctx) (w : Insn) (x : Machine.Context) (s : Machine.State), s.readyCtx (ctxKey c) 0 0 w = some x ∧ x.has (x.chunkBase + 4096) = true) ∧
    (∃ (c : Ctx) (w : Insn) (x : Machine.Context) (s : Machine.State), s.readyCtx (ctxKey c) 0 1 w = some x ∧ ↑w.d ≤ 7 ∧ x.has (x.chunkBase + 4096) = true) ∧
    (∃ (c : Ctx) (w : Insn) (x : Machine.Context) (s : Machine.State), s.readyCtx (ctxKey c) 0 2 w = some x ∧ ↑w.d ≤ 7 ∧ immBits w 0 4 ≤ 6) ∧
    (∃ (c : Ctx) (w : Insn) (x : Machine.Context) (s : Machine.State), s.readyCtx (ctxKey c) 0 2 w = some x ∧ immBits w 0 4 = 7) ∧
    (∃ (c : Ctx) (w : Insn) (x : Machine.Context) (s : Machine.State), s.readyCtx (ctxKey c) 0 3 w = some x) ∧
    (∃ (c : Ctx) (w : Insn) (x : Machine.Context) (s : Machine.State), s.readyCtx (ctxKey c) 0 4 w = some x ∧ ↑w.d ≤ 7) ∧
    (∃ (c : Ctx) (w : Insn) (x : Machine.Context) (s : Machine.State), s.readyCtx (ctxKey c) 0 5 w = some x ∧ ↑w.d ≤ 7 ∧ ↑w.a ≤ 7) ∧
    (∃ (c : Ctx) (w : Insn) (x : Machine.Context) (s : Machine.State), s.readyCtx (ctxKey c) 0 6 w = some x) ∧
    (∃ (c : Ctx) (w : Insn) (x : Machine.Context) (s : Machine.State), s.readyCtx (ctxKey c) 0 7 w = some x) ∧
    (∃ (c : Ctx) (w : Insn) (x : Machine.Context) (s : Machine.State), s.readyCtx (ctxKey c) 0 8 w = some x) ∧
    (∃ (c : Ctx) (w : Insn) (x : Machine.Context) (s : Machine.State), s.readyCtx (ctxKey c) 0 9 w = some x) ∧
    (∃ (c : Ctx) (w : Insn) (x : Machine.Context) (s : Machine.State), s.readyCtx (ctxKey c) 0 11 w = some x ∧ ↑w.a ≤ 7) ∧
    (∃ (c : Ctx) (w : Insn) (x : Machine.Context) (s : Machine.State), s.readyCtx (ctxKey c) 0 10 w = some x ∧ (x.ip ≤ x.offset w (immBits w 0 24) ↑w.a ∨ x.ip < 4096)) ∧
    (∃ (c : Ctx) (w : Insn) (x : Machine.Context) (s : Machine.State), s.readyCtx (ctxKey c) 0 10 w = some x ∧ x.offset w (immBits w 0 24) ↑w.a < x.ip ∧ 4096 ≤ x.ip) ∧
    (∃ (c : Ctx) (w : Insn) (x : Machine.Context) (s : Machine.State), x.has (x.chunkBase + 4096) = false ∧ s.readyCtx (ctxKey c) 0 0 w = some x) ∧
    (∃ (c : Ctx) (w : Insn) (x : Machine.Context) (s : Machine.State), x.has (x.chunkBase + 4096) = false ∧ s.readyCtx (ctxKey c) 0 1 w = some x ∧ ↑w.d ≤ 7) ∧
    (∃ (c : Ctx) (w : Insn) (x : Machine.Context) (s : Machine.State), s.readyCtx (ctxKey c) 0 1 w = some x ∧ 7 < ↑w.d) ∧
    (∃ (c : Ctx) (w : Insn) (x : Machine.Context) (s : Machine.State), s.readyCtx (ctxKey c) 0 2 w = some x ∧ (7 < immBits w 0 4 ∨ immBits w 0 4 ≠ 7 ∧ 7 < ↑w.d)) ∧
    (∃ (w : Insn), (7 < ↑w.d ∨ 7 < ↑w.a)) ∧
    (∃ (w : Insn), 7 < ↑w.a) :=
  ⟨⟨cx, w1, cxt (stf 0 0 w1), (stf 0 0 w1), by decide +kernel⟩,
   ⟨cx, w1, cxt (stf 0 1 w1), (stf 0 1 w1), by decide +kernel⟩,
   ⟨cx, w1, cxt (st 0 2 w1), (st 0 2 w1), by decide +kernel⟩,
   ⟨cx, { w1 with imm := 7 }, cxt (st 0 2 { w1 with imm := 7 }), (st 0 2 { w1 with imm := 7 }), by decide +kernel⟩,
   ⟨cx, { w1 with imm := 0 }, cxt (st 0 3 { w1 with imm := 0 }), (st 0 3 { w1 with imm := 0 }), by decide +kernel⟩,
   ⟨cx, w1, cxt (st 0 4 w1), (st 0 4 w1), by decide +kernel⟩,
   ⟨cx, w1, cxt (st 0 5 w1), (st 0 5 w1), by decide +kernel⟩,
   ⟨cx, w1, cxt (st 0 6 w1), (st 0 6 w1), by decide +kernel⟩,
   ⟨cx, w1, cxt (st 0 7 w1), (st 0 7 w1), by decide +kernel⟩,
   ⟨cx, w1, cxt (st 0 8 w1), (st 0 8 w1), by decide +kernel⟩,
   ⟨cx, w1, cxt (st 0 9 w1), (st 0 9 w1), by decide +kernel⟩,
   ⟨cx, w2, cxt (st 0 11 w2), (st 0 11 w2), by decide +kernel⟩,
   ⟨cx, w1, cxt (st 0 10 w1), (st 0 10 w1), by decide +kernel⟩,
   ⟨cx, w1, cxt (far w1), (far w1), by decide +kernel⟩,
   ⟨cx, w1, cxt (st 0 0 w1), (st 0 0 w1), by decide +kernel⟩,
   ⟨cx, w1, cxt (st 0 1 w1), (st 0 1 w1), by decide +kernel⟩,
   ⟨cx, { w1 with d := 8 }, cxt (st 0 1 { w1 with d := 8 }), (st 0 1 { w1 with d := 8 }), by decide +kernel⟩,
   ⟨cx, { w1 with d := 8 }, cxt (st 0 2 { w1 with d := 8 }), (st 0 2 { w1 with d := 8 }), by decide +kernel⟩,
   ⟨{ w1 with d := 8 }, by decide +kernel⟩,
   ⟨{ w1 with a := 8 }, by decide +kernel⟩⟩

theorem test_hypotheses_StoresReachResultOrTheOutputArea :
    (∃ (c : Ctx) (w : Insn) (x : Machine.Context) (cmd : Cmd) (s : Machine.State), x.cmd = some cmd ∧ s.readyCtx (ctxKey c) 1 0 w = some x ∧ x.issued = x.released) ∧
    (∃ (c : Ctx) (w : Insn) (x : Machine.Context) (cmd : Cmd) (s : Machine.State), x.cmd = some cmd ∧ s.readyCtx (ctxKey c) 1 0 w = some x ∧ x.issued ≠ x.released) ∧
    (∃ (c : Ctx) (w : Insn) (x : Machine.Context) (cmd : Cmd) (s : Machine.State), x.cmd = some cmd ∧ s.readyCtx (ctxKey c) 1 1 w = some x ∧ x.issued ≠ x.released) ∧
    (∃ (c : Ctx) (w : Insn) (x : Machine.Context) (cmd : Cmd) (s : Machine.State), x.cmd = some cmd ∧ s.readyCtx (ctxKey c) 1 1 w = some x ∧ x.issued = x.released ∧ cmd.desc.outInline = true) ∧
    (∃ (c : Ctx) (w : Insn) (x : Machine.Context) (cmd : Cmd) (s : Machine.State), x.cmd = some cmd ∧ s.readyCtx (ctxKey c) 1 1 w = some x ∧ x.issued = x.released ∧ cmd.desc.outInline = false ∧ List.take (cmd.desc.outLen - x.offset w (immBits w 0 24) ↑w.b) (List.take (modBits w 0 4 + 1) (x.vr ↑w.a)) = []) ∧
    (∃ (c : Ctx) (w : Insn) (x : Machine.Context) (cmd : Cmd) (s : Machine.State), x.cmd = some cmd ∧ s.readyCtx (ctxKey c) 1 1 w = some x ∧ x.issued = x.released ∧ cmd.desc.outInline = false ∧ (isWindow cmd.desc.outAddr = false ∨ cmd.peer ≠ none) ∧ List.take (cmd.desc.outLen - x.offset w (immBits w 0 24) ↑w.b) (List.take (modBits w 0 4 + 1) (x.vr ↑w.a)) ≠ []) ∧
    (∃ (c : Ctx) (w : Insn) (x : Machine.Context) (cmd : Cmd) (s : Machine.State), x.cmd = some cmd ∧ s.readyCtx (ctxKey c) 1 1 w = some x ∧ x.issued = x.released ∧ cmd.desc.outInline = false ∧ isWindow cmd.desc.outAddr = true ∧ cmd.peer = none ∧ List.take (cmd.desc.outLen - x.offset w (immBits w 0 24) ↑w.b) (List.take (modBits w 0 4 + 1) (x.vr ↑w.a)) ≠ [] ∧ s.windowFits cmd.part cmd.desc.outAddr cmd.desc.outLen = false) ∧
    (∃ (c : Ctx) (w : Insn) (x : Machine.Context) (cmd : Cmd) (s : Machine.State), x.cmd = some cmd ∧ s.readyCtx (ctxKey c) 1 1 w = some x ∧ x.issued = x.released ∧ cmd.desc.outInline = false ∧ isWindow cmd.desc.outAddr = true ∧ cmd.peer = none ∧ List.take (cmd.desc.outLen - x.offset w (immBits w 0 24) ↑w.b) (List.take (modBits w 0 4 + 1) (x.vr ↑w.a)) ≠ [] ∧ s.windowFits cmd.part cmd.desc.outAddr cmd.desc.outLen = true) :=
  ⟨⟨cx, wS, cxt (st 1 0 wS), { c1 with desc := dIn }, (st 1 0 wS), by decide +kernel⟩,
   ⟨cx, wS, cxt late0, { c1 with desc := dIn }, late0, by decide +kernel⟩,
   ⟨cx, wS, cxt late1, { c1 with desc := dIn }, late1, by decide +kernel⟩,
   ⟨cx, { wS with imm := 12 }, cxt (st 1 1 { wS with imm := 12 }), { c1 with desc := dIn }, (st 1 1 { wS with imm := 12 }), by decide +kernel⟩,
   ⟨cx, { wS with imm := 40, b := 0, modi := 0 }, cxt (sO { wS with imm := 40, b := 0, modi := 0 }), { c1 with desc := dOut }, (sO { wS with imm := 40, b := 0, modi := 0 }), by decide +kernel⟩,
   ⟨cx, { wS with imm := 35 }, cxt (sO { wS with imm := 35 }), { c1 with desc := dOut }, (sO { wS with imm := 35 }), by decide +kernel⟩,
   ⟨cx, { wS with imm := 35 }, cxt (sW { wS with imm := 35 }), { c1 with desc := dWin }, (sW { wS with imm := 35 }), by decide +kernel⟩,
   ⟨cx, { wS with imm := 35 }, cxt (sV { wS with imm := 35 }), { c1 with desc := dWin }, (sV { wS with imm := 35 }), by decide +kernel⟩⟩

theorem test_hypotheses_ComparesSetFlagsAndBranchesTestThem :
    (∃ (c : Ctx) (w : Insn) (x : Machine.Context) (s : Machine.State), s.readyCtx (ctxKey c) 7 0 w = some x) ∧
    (∃ (c : Ctx) (w : Insn) (x : Machine.Context) (s : Machine.State), s.readyCtx (ctxKey c) 7 1 w = some x ∧ ↑w.a ≤ 7 ∧ ↑w.b ≤ 7) ∧
    (∃ (c : Ctx) (w : Insn) (x : Machine.Context) (s : Machine.State), s.readyCtx (ctxKey c) 7 2 w = some x ∧ ↑w.a ≤ 7) ∧
    (∃ (c : Ctx) (w : Insn) (x : Machine.Context) (s : Machine.State), s.readyCtx (ctxKey c) 8 0 w = some x) ∧
    (∃ (c : Ctx) (w : Insn) (x : Machine.Context) (s : Machine.State), s.readyCtx (ctxKey c) 8 1 w = some x) ∧
    (∃ (c : Ctx) (w : Insn) (x : Machine.Context) (s : Machine.State), s.readyCtx (ctxKey c) 8 2 w = some x) ∧
    (∃ (c : Ctx) (w : Insn) (x : Machine.Context) (s : Machine.State), s.readyCtx (ctxKey c) 8 3 w = some x) ∧
    (∃ (c : Ctx) (w : Insn) (x : Machine.Context) (s : Machine.State), s.readyCtx (ctxKey c) 8 4 w = some x) ∧
    (∃ (c : Ctx) (w : Insn) (x : Machine.Context) (s : Machine.State), s.readyCtx (ctxKey c) 8 5 w = some x) ∧
    (∃ (c : Ctx) (w : Insn) (x : Machine.Context) (s : Machine.State), s.readyCtx (ctxKey c) 8 6 w = some x) ∧
    (∃ (c : Ctx) (w : Insn) (x : Machine.Context) (s : Machine.State), s.readyCtx (ctxKey c) 8 7 w = some x ∧ ↑w.a ≤ 7) ∧
    (∃ (w : Insn), 7 < ↑w.a) ∧
    (∃ (w : Insn), (7 < ↑w.a ∨ 7 < ↑w.b)) :=
  ⟨⟨cx, { wS with imm := 4 }, cxt (st 7 0 { wS with imm := 4 }), (st 7 0 { wS with imm := 4 }), by decide +kernel⟩,
   ⟨cx, w1, cxt (st 7 1 w1), (st 7 1 w1), by decide +kernel⟩,
   ⟨cx, w1, cxt (st 7 2 w1), (st 7 2 w1), by decide +kernel⟩,
   ⟨cx, w1, cxt (st 8 0 w1), (st 8 0 w1), by decide +kernel⟩,
   ⟨cx, w1, cxt (st 8 1 w1), (st 8 1 w1), by decide +kernel⟩,
   ⟨cx, w1, cxt (st 8 2 w1), (st 8 2 w1), by decide +kernel⟩,
   ⟨cx, w1, cxt (st 8 3 w1), (st 8 3 w1), by decide +kernel⟩,
   ⟨cx, w1, cxt (st 8 4 w1), (st 8 4 w1), by decide +kernel⟩,
   ⟨cx, w1, cxt (st 8 5 w1), (st 8 5 w1), by decide +kernel⟩,
   ⟨cx, w1, cxt (st 8 6 w1), (st 8 6 w1), by decide +kernel⟩,
   ⟨cx, w1, cxt (st 8 7 w1), (st 8 7 w1), by decide +kernel⟩,
   ⟨{ w1 with a := 8 }, by decide +kernel⟩,
   ⟨{ w1 with a := 8 }, by decide +kernel⟩⟩

end T03

namespace T04

def vs : List (List Byte) := (List.range 16).map fun i => (List.range 16).map fun j => BitVec.ofNat 8 (16 * i + j)
def ss : List Word := [96, 2048, 3, 40, 1, 0xFFFFFFFF, 7, 0]
def x0 : Context := { v := vs, sreg := ss, ip := 3, op := 5, input := (List.range 256).map (BitVec.ofNat 8), keys := [some (slotOf 2 16), some (slotOf 1 24), some (slotOf 3 64), none] }
def dIn : Descriptor := { d1 with inInline := false, inLen := 4096, param := 0x12345678, outLen := 4000, body := (List.range 24).map (BitVec.ofNat 8) , outInline := false, outAddr := 0x10000}
def st (cls op : Nat) (w : Insn) : State := working cls op w dIn x0
/-- `st` with no lane and no hash unit in service. -/
def down (cls op : Nat) (w : Insn) : State := let s := st cls op w; { s with ci := { s.ci with lanes := [], hash := [] } }
/-- `st` with all of the input received. -/
def full (cls op : Nat) (w : Insn) : State := working cls op w { dIn with inLen := 256 } x0
def few (cls op : Nat) (w : Insn) : State := working cls op w dIn { x0 with input := [1, 2] }
def cxt (s : State) : Context := s.ctx 64
def wB : Insn := { d := 2, a := 3, b := 4 }
def wS (imm : Nat) : Insn := { d := 2, a := 3, b := 4, imm := BitVec.ofNat 32 imm }
def wF (imm : Nat) : Insn := { d := 2, a := 0, b := 4, imm := BitVec.ofNat 32 imm }
def q3 : State := match execCiphStream cx (wF 0x48) (full 3 1 (wF 0x48)) with | .next t => t | _ => up
def wH : Insn := { d := 4, a := 3, b := 4, ka := 2, imm := 1 }
def wHk : Insn := { d := 4, a := 3, b := 4, ka := 2, imm := 0x1F0009 }
def jB : LaneJob := { word := laneWord 0, block := true, bytes := (List.range 16).map (BitVec.ofNat 8), dest := 2 }
def oB : UnitOp := { owner := some 64, key := { value := (List.range 16).map (BitVec.ofNat 8), mask := zeros 16 }, job := .lane jB, blocks := 1 }
def jH : HashJob := { word := (hashWord 0).getD ⟨0, 0, 0⟩, bytes := [0x61, 0x62, 0x63], dest := 3 }
def oH : UnitOp := { owner := some 64, job := .hash jH, blocks := 1 }
def o2 : UnitOp := { oB with owner := some 65 }
/-- Lane 2 of cluster 1 runs `oB` with a mean of no dummy rounds and shuffling off, and `o2` waits. -/
def sL : State := (((st 3 0 wB).set R.CC0_DMEAN 0).set R.CC0_SHUF_EN 0).updLane 1 2 fun l => { l with exec := some oB, wait := some o2, bufExec := some oB.key }
def sHh : State := (st 3 0 wB).updHash 1 fun h => { h with queue := [oH, oH] }
def sK (u : Nat) : State := (st 3 0 wB).updSvc 1 u fun v => { v with katBusy := true, inService := false }
def due (fill blocks : Nat) : State := let s := st 3 0 wB; ({ s with fl := { s.fl with queues := [(1, zeros fill)] } }).updLane 1 2 fun l => { l with sinceReseed := blocks }
def run0 : StreamRun := { word := laneWord 4 }
/-- A stream instruction under way over a key that has been under a fence for 4 µs. -/
def sO : State :=
  { sL.updCtx 64 fun x => { x with run := some run0, keys := [some { slotOf 2 16 with stamp := [7] }, none, none, none] } with quartz := 5000, ge.fences := [{ line := 7, raised := 1000, ctx := none }] }
/-- Island 1 off, and relocking. -/
def offIsland : State := sL.set R.PWR_DOMAIN_ON_LO 0
def relock : State := { sL.set R.GBL_ISLAND_LOCK 0 with pw.relocking := true }
def eff : Effect := { output := [(0, [1, 2])], regs := [(3, [4])] }

theorem test_hypotheses_CiphBlockIssuesOneBlock :
    (∃ (c : Ctx) (w : Insn) (x : Machine.Context) (s : Machine.State), s.readyCtx (ctxKey c) 3 0 w = some x ∧ (laneWord (immBits w 0 16)).valid true (modBit w 1) (modBit w 2) = false) ∧
    (∃ (c : Ctx) (w : Insn) (x : Machine.Context) (s : Machine.State), s.readyCtx (ctxKey c) 3 0 w = some x ∧ (laneWord (immBits w 0 16)).valid true (modBit w 1) (modBit w 2) = true ∧ x.slot ↑w.ka = none) ∧
    (∃ (c : Ctx) (w : Insn) (x : Machine.Context) (s : Machine.State) (y : KeySlot), s.readyCtx (ctxKey c) 3 0 w = some x ∧ (laneWord (immBits w 0 16)).valid true (modBit w 1) (modBit w 2) = true ∧ x.slot ↑w.ka = some y ∧ (laneWord (immBits w 0 16)).fits y.key = false) ∧
    (∃ (c : Ctx) (w : Insn) (x : Machine.Context) (s : Machine.State) (y : KeySlot), s.readyCtx (ctxKey c) 3 0 w = some x ∧ (laneWord (immBits w 0 16)).valid true (modBit w 1) (modBit w 2) = true ∧ x.slot ↑w.ka = some y ∧ (laneWord (immBits w 0 16)).fits y.key = true ∧ s.lanesUp ↑c.cc = []) ∧
    (∃ (c : Ctx) (w : Insn) (x : Machine.Context) (s : Machine.State) (y : KeySlot) (lane : Nat), s.readyCtx (ctxKey c) 3 0 w = some x ∧ (laneWord (immBits w 0 16)).valid true (modBit w 1) (modBit w 2) = true ∧ x.slot ↑w.ka = some y ∧ (laneWord (immBits w 0 16)).fits y.key = true ∧ s.lanesUp ↑c.cc ≠ [] ∧ s.pickLane (↑c.cc) none = some lane) :=
  ⟨⟨cx, { wB with imm := 0xFFFF }, cxt (st 3 0 { wB with imm := 0xFFFF }), (st 3 0 { wB with imm := 0xFFFF }), by decide +kernel⟩,
   ⟨cx, { wB with ka := 3 }, cxt (st 3 0 { wB with ka := 3 }), (st 3 0 { wB with ka := 3 }), by decide +kernel⟩,
   ⟨cx, { wB with ka := 1 }, cxt (st 3 0 { wB with ka := 1 }), (st 3 0 { wB with ka := 1 }), slotOf 1 24, by decide +kernel⟩,
   ⟨cx, wB, cxt (down 3 0 wB), (down 3 0 wB), slotOf 2 16, by decide +kernel⟩,
   ⟨cx, wB, cxt (st 3 0 wB), (st 3 0 wB), slotOf 2 16, 0, by decide +kernel⟩⟩

theorem test_hypotheses_CiphStreamTakesOnePart :
    (∃ (c : Ctx) (w : Insn) (x : Machine.Context) (s : Machine.State), s.readyCtx (ctxKey c) 3 1 w = some x ∧ ((laneWord (immBits w 0 16)).valid false (modBit w 1) (modBit w 2) = false ∨ 7 < ↑w.a)) ∧
    (∃ (c : Ctx) (w : Insn) (x : Machine.Context) (s : Machine.State), s.readyCtx (ctxKey c) 3 1 w = some x ∧ (laneWord (immBits w 0 16)).valid false (modBit w 1) (modBit w 2) = true ∧ ↑w.a ≤ 7 ∧ x.slot ↑w.ka = none) ∧
    (∃ (c : Ctx) (w : Insn) (x : Machine.Context) (s : Machine.State) (y : KeySlot), s.readyCtx (ctxKey c) 3 1 w = some x ∧ (laneWord (immBits w 0 16)).valid false (modBit w 1) (modBit w 2) = true ∧ ↑w.a ≤ 7 ∧ x.slot ↑w.ka = some y ∧ (laneWord (immBits w 0 16)).fits y.key = false) ∧
    (∃ (c : Ctx) (w : Insn) (x : Machine.Context) (s : Machine.State) (y : KeySlot) (det : Nat), s.readyCtx (ctxKey c) 3 1 w = some x ∧ (laneWord (immBits w 0 16)).valid false (modBit w 1) (modBit w 2) = true ∧ ↑w.a ≤ 7 ∧ x.slot ↑w.ka = some y ∧ (laneWord (immBits w 0 16)).fits y.key = true ∧ streamCheck (laneWord (immBits w 0 16)) x.stream.isSome (x.stream.getD (Stream.fresh (laneWord (immBits w 0 16)) (↑w.ka) (x.vr ↑w.b))) (↑w.ka) (modBit w 1) x.ip (x.sr ↑w.a) = some det) ∧
    (∃ (c : Ctx) (w : Insn) (x : Machine.Context) (s : Machine.State) (y : KeySlot), s.readyCtx (ctxKey c) 3 1 w = some x ∧ (laneWord (immBits w 0 16)).valid false (modBit w 1) (modBit w 2) = true ∧ ↑w.a ≤ 7 ∧ x.slot ↑w.ka = some y ∧ (laneWord (immBits w 0 16)).fits y.key = true ∧ streamCheck (laneWord (immBits w 0 16)) x.stream.isSome (x.stream.getD (Stream.fresh (laneWord (immBits w 0 16)) (↑w.ka) (x.vr ↑w.b))) (↑w.ka) (modBit w 1) x.ip (x.sr ↑w.a) = none ∧ x.sr ↑w.a = 0 ∧ (laneWord (immBits w 0 16)).final = false) ∧
    (∃ (c : Ctx) (w : Insn) (x : Machine.Context) (s : Machine.State) (y : KeySlot), s.readyCtx (ctxKey c) 3 1 w = some x ∧ (laneWord (immBits w 0 16)).valid false (modBit w 1) (modBit w 2) = true ∧ ↑w.a ≤ 7 ∧ x.slot ↑w.ka = some y ∧ (laneWord (immBits w 0 16)).fits y.key = true ∧ streamCheck (laneWord (immBits w 0 16)) x.stream.isSome (x.stream.getD (Stream.fresh (laneWord (immBits w 0 16)) (↑w.ka) (x.vr ↑w.b))) (↑w.ka) (modBit w 1) x.ip (x.sr ↑w.a) = none ∧ (x.sr ↑w.a ≠ 0 ∨ (laneWord (immBits w 0 16)).final = true) ∧ s.lanesUp ↑c.cc = []) ∧
    (∃ (c : Ctx) (w : Insn) (x : Machine.Context) (s : Machine.State) (y : KeySlot) (lane : Nat), s.readyCtx (ctxKey c) 3 1 w = some x ∧ (laneWord (immBits w 0 16)).valid false (modBit w 1) (modBit w 2) = true ∧ ↑w.a ≤ 7 ∧ x.slot ↑w.ka = some y ∧ (laneWord (immBits w 0 16)).fits y.key = true ∧ streamCheck (laneWord (immBits w 0 16)) x.stream.isSome (x.stream.getD (Stream.fresh (laneWord (immBits w 0 16)) (↑w.ka) (x.vr ↑w.b))) (↑w.ka) (modBit w 1) x.ip (x.sr ↑w.a) = none ∧ (x.sr ↑w.a ≠ 0 ∨ (laneWord (immBits w 0 16)).final = true) ∧ s.lanesUp ↑c.cc ≠ [] ∧ ({ word := laneWord (immBits w 0 16), aad := modBit w 1, noOut := modBit w 2, slot := ↑w.ka, key := s.wires (↑c.cc) y, left := x.sr ↑w.a, dest := ↑w.d, expected := x.vr ↑w.d, pc := x.pc, num := x.retired, record := x.stream.getD (Stream.fresh (laneWord (immBits w 0 16)) (↑w.ka) (x.vr ↑w.b)) } : StreamRun).ends = true ∧ x.has (x.ip + x.sr ↑w.a) = true ∧ s.lanesOut (ctxKey c) < 4 ∧ s.pickLane (↑c.cc) (if (laneWord (immBits w 0 16)).chained = true then Option.filter (fun i => (s.lane (↑c.cc) i).svc.inService) (if x.stream.isSome = true then x.home else none) else none) = some lane) :=
  ⟨⟨cx, { wB with a := 9 }, cxt (st 3 1 { wB with a := 9 }), (st 3 1 { wB with a := 9 }), by decide +kernel⟩,
   ⟨cx, { wB with imm := 4, ka := 3 }, cxt (st 3 1 { wB with imm := 4, ka := 3 }), (st 3 1 { wB with imm := 4, ka := 3 }), by decide +kernel⟩,
   ⟨cx, { wB with imm := 4, ka := 1 }, cxt (st 3 1 { wB with imm := 4, ka := 1 }), (st 3 1 { wB with imm := 4, ka := 1 }), slotOf 1 24, by decide +kernel⟩,
   ⟨cx, { wB with imm := 0x84 }, cxt (st 3 1 { wB with imm := 0x84 }), (st 3 1 { wB with imm := 0x84 }), slotOf 2 16, 0xD001, by decide +kernel⟩,
   ⟨cx, { wB with imm := 4, a := 7 }, cxt (st 3 1 { wB with imm := 4, a := 7 }), (st 3 1 { wB with imm := 4, a := 7 }), slotOf 2 16, by decide +kernel⟩,
   ⟨cx, { wB with imm := 4, a := 0 }, cxt (down 3 1 { wB with imm := 4, a := 0 }), (down 3 1 { wB with imm := 4, a := 0 }), slotOf 2 16, by decide +kernel⟩,
   ⟨cx, { wB with imm := 4, a := 0 }, cxt (full 3 1 { wB with imm := 4, a := 0 }), (full 3 1 { wB with imm := 4, a := 0 }), slotOf 2 16, 0, by decide +kernel⟩⟩

theorem test_hypotheses_StreamPartsLeaveInOrder :
    (∃ (k : Nat) (f : Nat) (r : StreamRun) (s : Machine.State), (s.ctx k).run = some r ∧ s.orphanField (s.ctx k) = some f) ∧
    (∃ (k : Nat) (s : Machine.State) (j : Nat), s.orphanField (s.ctx k) = none ∧ j ≠ k) ∧
    (∃ (k : Nat) (s : Machine.State), s.orphanField (s.ctx k) = none ∧ (s.ctx k).run = none) ∧
    (∃ (k : Nat) (s : Machine.State) (n : Nat) (l : Nat) (o : UnitOp), s.orphanField (s.ctx k) = none ∧ (s.lane n l).exec = some o) ∧
    (∃ (k : Nat) (s : Machine.State) (n : Nat) (l : Nat) (o : UnitOp), s.orphanField (s.ctx k) = none ∧ (s.lane n l).wait = some o) ∧
    (∃ (k : Nat) (fuel : Nat) (s : Machine.State) (n : Nat) (l : Nat) (o : UnitOp), s.orphanField (s.ctx k) = none ∧ (((s.pump k fuel).lane n l).exec = some o ∨ ((s.pump k fuel).lane n l).wait = some o)) ∧
    (∃ (k : Nat) (i : Nat) (s : Machine.State), (∀ (f : Nat × Effect), f ∈ (s.ctx k).finished → f.fst ≠ (s.ctx k).released) ∧ i ≠ (s.ctx k).released) ∧
    (∃ (k : Nat) (i : Nat) (e : Effect) (s : Machine.State), (∀ (f : Nat × Effect), f ∈ (s.ctx k).finished → f.fst ≠ (s.ctx k).released) ∧ i = (s.ctx k).released ∧ (∀ (f : Nat × Effect), f ∈ (s.ctx k).finished → f.fst ≠ i + 1) ∧ e.output = [] ∧ e.result = [] ∧ e.authFail = false ∧ (s.ctx k).cmd ≠ none) ∧
    (∃ (k : Nat) (s : Machine.State), (s.ctx k).issued = (s.ctx k).released) ∧
    (∃ (k : Nat) (s : Machine.State), (s.ctx k).issued ≠ (s.ctx k).released) :=
  ⟨⟨64, 0, run0, sO, by decide +kernel⟩,
   ⟨64, sL, 65, by decide +kernel⟩,
   ⟨64, sL, by decide +kernel⟩,
   ⟨64, sL, 1, 2, oB, by decide +kernel⟩,
   ⟨64, sL, 1, 2, o2, by decide +kernel⟩,
   ⟨64, 4, sL, 1, 2, oB, by decide +kernel⟩,
   ⟨64, 3, sL, by decide +kernel⟩,
   ⟨64, 0, { regs := [(3, [4])] }, sL, by decide +kernel⟩,
   ⟨64, sL, by decide +kernel⟩,
   ⟨64, sL.updCtx 64 fun x => { x with issued := 2 }, by decide +kernel⟩⟩

theorem test_hypotheses_HashInstructionsQueueTheDigest :
    (∃ (c : Ctx) (w : Insn) (x : Machine.Context) (s : Machine.State), s.readyCtx (ctxKey c) 4 0 w = some x ∧ (hashWord (immBits w 0 16) = none ∨ 7 < ↑w.a)) ∧
    (∃ (c : Ctx) (w : Insn) (x : Machine.Context) (s : Machine.State), s.readyCtx (ctxKey c) 4 1 w = some x ∧ hashWord (immBits w 0 16) = none) ∧
    (∃ (c : Ctx) (w : Insn) (x : Machine.Context) (s : Machine.State) (h : HashWord), s.readyCtx (ctxKey c) 4 0 w = some x ∧ hashWord (immBits w 0 16) = some h ∧ ↑w.a ≤ 7 ∧ 2 ^ 24 < x.startIp + x.sr ↑w.a) ∧
    (∃ (i : Instr) (op : Nat) (c : Ctx) (w : Insn) (x : Machine.Context) (h : HashWord) (s : Machine.State), (i = Instr.hashStream c w ∧ op = 0 ∨ i = Instr.hashRegisters c w ∧ op = 1) ∧ s.readyCtx (ctxKey c) 4 op w = some x ∧ hashWord (immBits w 0 16) = some h ∧ (op = 0 → ↑w.a ≤ 7 ∧ (x.startIp + if op = 0 then x.sr ↑w.a else immBits w 16 8 + 1) ≤ 2 ^ 24) ∧ h.keyed = true ∧ x.slot ↑w.ka = none) ∧
    (∃ (i : Instr) (op : Nat) (c : Ctx) (w : Insn) (x : Machine.Context) (h : HashWord) (s : Machine.State) (y : KeySlot), (i = Instr.hashStream c w ∧ op = 0 ∨ i = Instr.hashRegisters c w ∧ op = 1) ∧ s.readyCtx (ctxKey c) 4 op w = some x ∧ hashWord (immBits w 0 16) = some h ∧ (op = 0 → ↑w.a ≤ 7 ∧ (x.startIp + if op = 0 then x.sr ↑w.a else immBits w 16 8 + 1) ≤ 2 ^ 24) ∧ h.keyed = true ∧ x.slot ↑w.ka = some y ∧ hashKeyFits y.key = false) ∧
    (∃ (i : Instr) (op : Nat) (c : Ctx) (w : Insn) (x : Machine.Context) (h : HashWord) (s : Machine.State) (y : KeySlot), (i = Instr.hashStream c w ∧ op = 0 ∨ i = Instr.hashRegisters c w ∧ op = 1) ∧ s.readyCtx (ctxKey c) 4 op w = some x ∧ hashWord (immBits w 0 16) = some h ∧ (op = 0 → ↑w.a ≤ 7 ∧ (x.startIp + if op = 0 then x.sr ↑w.a else immBits w 16 8 + 1) ≤ 2 ^ 24) ∧ (h.keyed = true → x.slot ↑w.ka = some y ∧ hashKeyFits y.key = true) ∧ (s.hashUnit ↑c.cc).svc.inService = false) ∧
    (∃ (i : Instr) (op : Nat) (c : Ctx) (w : Insn) (x : Machine.Context) (h : HashWord) (s : Machine.State) (y : KeySlot), (i = Instr.hashStream c w ∧ op = 0 ∨ i = Instr.hashRegisters c w ∧ op = 1) ∧ s.readyCtx (ctxKey c) 4 op w = some x ∧ hashWord (immBits w 0 16) = some h ∧ (op = 0 → ↑w.a ≤ 7 ∧ (x.startIp + if op = 0 then x.sr ↑w.a else immBits w 16 8 + 1) ≤ 2 ^ 24) ∧ (h.keyed = true → x.slot ↑w.ka = some y ∧ hashKeyFits y.key = true) ∧ (s.hashUnit ↑c.cc).svc.inService = true ∧ op = 0 ∧ x.has (x.ip + ((if op = 0 then x.sr ↑w.a else immBits w 16 8 + 1) - x.gathered.length)) = false) ∧
    (∃ (i : Instr) (op : Nat) (c : Ctx) (w : Insn) (x : Machine.Context) (h : HashWord) (s : Machine.State) (y : KeySlot), (i = Instr.hashStream c w ∧ op = 0 ∨ i = Instr.hashRegisters c w ∧ op = 1) ∧ s.readyCtx (ctxKey c) 4 op w = some x ∧ hashWord (immBits w 0 16) = some h ∧ (op = 0 → ↑w.a ≤ 7 ∧ (x.startIp + if op = 0 then x.sr ↑w.a else immBits w 16 8 + 1) ≤ 2 ^ 24) ∧ (h.keyed = true → x.slot ↑w.ka = some y ∧ hashKeyFits y.key = true) ∧ (s.hashUnit ↑c.cc).svc.inService = true ∧ (op = 0 → x.has (x.ip + ((if op = 0 then x.sr ↑w.a else immBits w 16 8 + 1) - x.gathered.length)) = true)) :=
  ⟨⟨cx, { wH with a := 9 }, cxt (st 4 0 { wH with a := 9 }), (st 4 0 { wH with a := 9 }), by decide +kernel⟩,
   ⟨cx, { wH with imm := 0xF }, cxt (st 4 1 { wH with imm := 0xF }), (st 4 1 { wH with imm := 0xF }), by decide +kernel⟩,
   ⟨cx, { wH with a := 5 }, cxt (st 4 0 { wH with a := 5 }), (st 4 0 { wH with a := 5 }), (hashWord 1).getD ⟨0, 0, 0⟩, by decide +kernel⟩,
   ⟨.hashRegisters cx { wHk with ka := 3 }, 1, cx, { wHk with ka := 3 }, cxt (st 4 1 { wHk with ka := 3 }), (hashWord 9).getD ⟨0, 0, 0⟩, st 4 1 { wHk with ka := 3 }, by decide +kernel⟩,
   ⟨.hashRegisters cx { wHk with ka := 0 }, 1, cx, { wHk with ka := 0 }, cxt (st 4 1 { wHk with ka := 0 }), (hashWord 9).getD ⟨0, 0, 0⟩, st 4 1 { wHk with ka := 0 }, slotOf 2 16, by decide +kernel⟩,
   ⟨.hashRegisters cx wHk, 1, cx, wHk, cxt (down 4 1 wHk), (hashWord 9).getD ⟨0, 0, 0⟩, down 4 1 wHk, slotOf 3 64, by decide +kernel⟩,
   ⟨.hashStream cx wH, 0, cx, wH, cxt (few 4 0 wH), (hashWord 1).getD ⟨0, 0, 0⟩, few 4 0 wH, slotOf 3 64, by decide +kernel⟩,
   ⟨.hashRegisters cx wHk, 1, cx, wHk, cxt (st 4 1 wHk), (hashWord 9).getD ⟨0, 0, 0⟩, st 4 1 wHk, slotOf 3 64, by decide +kernel⟩⟩

theorem test_hypotheses_UnitOperationsReleaseOrFault :
    (∃ (n : Fin 16) (l : Fin 4) (o : UnitOp) (j : LaneJob) (ok : Bool) (s : Machine.State), (s.lane ↑n ↑l).exec = some o ∧ o.job = Job.lane j ∧ (s.lane ↑n ↑l).stalled = false ∧ (s.lane ↑n ↑l).svc.katBusy = false ∧ s.relocks ↑n = false ∧ (s.runLane (↑n) (↑l) j ok).snd = true) ∧
    (∃ (n : Fin 16) (l : Fin 4) (o : UnitOp) (j : LaneJob) (ok : Bool) (s : Machine.State), (s.lane ↑n ↑l).exec = some o ∧ o.job = Job.lane j ∧ (s.lane ↑n ↑l).stalled = false ∧ (s.lane ↑n ↑l).svc.katBusy = false ∧ s.relocks ↑n = false ∧ (s.runLane (↑n) (↑l) j ok).snd = false) ∧
    (∃ (n : Fin 16) (l : Fin 4) (s : Machine.State), ((s.lane ↑n ↑l).exec = none ∨ (s.lane ↑n ↑l).stalled = true ∨ (s.lane ↑n ↑l).svc.katBusy = true ∨ s.relocks ↑n = true)) ∧
    (∃ (k : Nat) (e : Effect) (s : Machine.State), ((List.foldl (fun s o => s.outputAt k e.pc o.fst o.snd) s e.output).ctx k).cmd = none) ∧
    (∃ (k : Nat) (e : Effect) (s : Machine.State), ((List.foldl (fun s o => s.outputAt k e.pc o.fst o.snd) s e.output).ctx k).cmd ≠ none ∧ e.authFail = true) ∧
    (∃ (k : Nat) (e : Effect) (s : Machine.State), ((List.foldl (fun s o => s.outputAt k e.pc o.fst o.snd) s e.output).ctx k).cmd ≠ none ∧ e.authFail = false) ∧
    (∃ (n : Fin 16) (o : UnitOp) (os : List UnitOp) (j : HashJob) (k : Nat) (s : Machine.State), (s.hashUnit ↑n).queue = o :: os ∧ o.job = Job.hash j ∧ (s.hashUnit ↑n).svc.katBusy = false ∧ s.relocks ↑n = false ∧ o.owner = some k ∧ (s.ctx k).cmd ≠ none) ∧
    (∃ (n : Fin 16) (s : Machine.State), ((s.hashUnit ↑n).queue = [] ∨ (s.hashUnit ↑n).svc.katBusy = true ∨ s.relocks ↑n = true)) :=
  ⟨⟨1, 2, oB, jB, true, sL, by decide +kernel⟩,
   ⟨1, 2, oB, jB, false, sL, by decide +kernel⟩,
   ⟨1, 1, sL, by decide +kernel⟩,
   ⟨66, eff, sL, by decide +kernel⟩,
   ⟨64, { eff with authFail := true }, sL, by decide +kernel⟩,
   ⟨64, eff, sL, by decide +kernel⟩,
   ⟨1, oH, [oH], jH, 64, sHh, by decide +kernel⟩,
   ⟨2, sHh, by decide +kernel⟩⟩

theorem test_hypotheses_CipherClusterTestsAndResets :
    (∃ (n : Fin 16) (s : Machine.State), reachable s (pgCC ↑n)) ∧
    (∃ (n : Fin 16) (s : Machine.State), s.responds (pgCC ↑n) = false) ∧
    (∃ (n : Fin 16) (u : Fin 6) (s : Machine.State) (pass : Bool) (twinOk : Bool), ((s.unitSvc ↑n ↑u).katBusy = true ∨ (s.unitSvc ↑n ↑u).katWanted = true ∧ s.unitIdle ↑n ↑u = true) ∧ s.relocks ↑n = false ∧ (pass = false ∨ twinOk = false)) ∧
    (∃ (n : Fin 16) (l : Fin 4) (s : Machine.State), s.reseedDue (s.lane ↑n ↑l) = true ∧ 32 ≤ s.queueFill ↑n) ∧
    (∃ (n : Fin 16) (l : Fin 4) (s : Machine.State), s.reseedDue (s.lane ↑n ↑l) = true ∧ s.queueFill ↑n < 32 ∧ ((s.lane ↑n ↑l).sinceReseed < 65536 ∨ (s.lane ↑n ↑l).stalled = true)) ∧
    (∃ (n : Fin 16) (l : Fin 4) (s : Machine.State), s.reseedDue (s.lane ↑n ↑l) = true ∧ s.queueFill ↑n < 32 ∧ 65536 ≤ (s.lane ↑n ↑l).sinceReseed ∧ (s.lane ↑n ↑l).stalled = false) ∧
    (∃ (n : Fin 16) (l : Fin 4) (s : Machine.State), s.reseedDue (s.lane ↑n ↑l) = false) ∧
    (∃ (n : Fin 16) (viaRst : Bool) (s : Machine.State), s.responds (if viaRst = true then pgRST else pgCC ↑n) = true ∧ s.busyIn ↑n = [] ∧ s.islandOn (pgCC ↑n) = true ∧ s.relocks ↑n = false) ∧
    (∃ (n : Fin 16) (viaRst : Bool) (s : Machine.State), s.responds (if viaRst = true then pgRST else pgCC ↑n) = true ∧ s.islandOn (pgCC ↑n) = false) ∧
    (∃ (n : Fin 16) (viaRst : Bool) (s : Machine.State), s.responds (if viaRst = true then pgRST else pgCC ↑n) = true ∧ s.busyIn ↑n ≠ [] ∧ s.islandOn (pgCC ↑n) = true ∧ s.relocks ↑n = false) ∧
    (∃ (n : Fin 16) (viaRst : Bool) (s : Machine.State), s.responds (if viaRst = true then pgRST else pgCC ↑n) = true ∧ s.islandOn (pgCC ↑n) = true ∧ s.relocks ↑n = true) ∧
    (∃ (n : Fin 16) (viaRst : Bool) (s : Machine.State), s.responds (if viaRst = true then pgRST else pgCC ↑n) = false) :=
  ⟨⟨1, sL, by decide +kernel⟩,
   ⟨1, State.reset, by decide +kernel⟩,
   ⟨1, 2, sK 2, false, true, by decide +kernel⟩,
   ⟨1, 2, due 32 4096, by decide +kernel⟩,
   ⟨1, 2, due 31 4096, by decide +kernel⟩,
   ⟨1, 2, due 31 65536, by decide +kernel⟩,
   ⟨1, 2, due 0 4095, by decide +kernel⟩,
   ⟨2, false, sL, by decide +kernel⟩,
   ⟨1, true, offIsland, by decide +kernel⟩,
   ⟨1, true, sL, by decide +kernel⟩,
   ⟨1, false, relock, by decide +kernel⟩,
   ⟨1, true, State.reset, by decide +kernel⟩⟩

end T04

namespace T05

def vs : List (List Byte) := (List.range 16).map fun i => (List.range 16).map fun j => BitVec.ofNat 8 (16 * i + j)
def ss : List Word := [0x02100005, 0x10, 3, 40, 1, 0xFFFFFFFF, 0x200010, 0x100000]
def y2 : KeySlot := slotOf 2 32
def yx : KeySlot := { y2 with key := { y2.key with attr := 1 } }
def y9 : KeySlot := { slotOf 2 16 with line := some (lineKey 1 9) }
def x0 : Context := { v := vs, sreg := ss, ip := 3, op := 5, input := zeros 256, keys := [some y2, some yx, some y9, none] }
def dIn : Descriptor := { d1 with inInline := false, inLen := 4096, outLen := 4000, outInline := false, outAddr := 0x10000, key0 := 5, key1 := 6 }
def rec5 : KeyRecord := { key := { cls := 2, usage := 2 ^ 14 - 1, attr := 0x3F28, level := 3, material := zeros 32 }, owner := 1, parentGen := 1, tepoch := 1 }
def rec6 : KeyRecord := { rec5 with parent := 5, key := { rec5.key with level := 4 } }
def keyed (s : State) : State :=
  { s with ge := { s.ge with lines := [(lineKey 1 5, { gen := 1, live := true, record := some rec5 }), (lineKey 1 6, { gen := 1, live := true, record := some rec6 })],
                             slices := [(1, [{ line := lineKey 1 5, gen := 1, entries := 1 }, { line := lineKey 1 6, gen := 1, entries := 1 }])] } }
def st (cls op : Nat) (w : Insn) : State := keyed (working cls op w dIn x0)
/-- `st` with no key in the slice. -/
def cold (w : Insn) : State := { st 2 0 w with ge.slices := [] }
def notReady (w : Insn) : State := { st 2 0 w with ge.ready := false }
def noQuota (op : Nat) (w : Insn) : State := (st 2 op w).updPart 1 fun x => { x with ephQuota := 0 }
def dry (op : Nat) (w : Insn) : State := { st 2 op w with fl.queues := [] }
def withInput (op : Nat) (bs : List Byte) (w : Insn) : State := (st 2 op w).updCtx 64 fun x => { x with input := bs }
def cxt (s : State) : Context := s.ctx 64
def wFe : Insn := { kd := 3, imm := 0x3FFF0000, modi := 2 }
def wR : Insn := { kd := 1, ka := 1, d := 7, imm := 0x00010000 }
def wG : Insn := { kd := 3, a := 1, b := 6, modi := 2 }
def wM : Insn := { kd := 3, d := 4, imm := 0x00010008 }
def wMf : Insn := { kd := 3, d := 4, a := 1, b := 6, modi := 0x12, imm := 0x80010000 }
def pinned : State := let s := (st 2 3 wG).updCtx 64 fun x => { x with keys := [none, none, some { y9 with stamp := [lineKey 1 9] }, none] }; { s with ge := { s.ge with slices := [(1, [{ line := lineKey 1 9, gen := 1, entries := 4096 }])] } }

theorem test_hypotheses_KeySlotInstructions :
    (∃ (c : Ctx) (w : Insn) (x : Machine.Context) (r : KeyRecord) (chain : List Nat) (s : Machine.State), s.readyCtx (ctxKey c) 2 0 w = some x ∧ s.ge.ready = true ∧ (s.openEpoch x.part).judgeFetch x.part (x.desc.keyField (immBits w 0 2)) (modBits w 0 4) (immBits w 16 14) = Except.ok (r, chain) ∧ (s.openEpoch x.part).missing (↑c.cc) chain = []) ∧
    (∃ (c : Ctx) (w : Insn) (x : Machine.Context) (st : Nat) (s : Machine.State), s.readyCtx (ctxKey c) 2 0 w = some x ∧ (s.ge.ready = true ∨ (s.openEpoch x.part).mayName x.part (x.desc.keyField (immBits w 0 2)) = false) ∧ (s.openEpoch x.part).judgeFetch x.part (x.desc.keyField (immBits w 0 2)) (modBits w 0 4) (immBits w 16 14) = Except.error st ∧ (x.filled = true ∨ ((s.openEpoch x.part).line (lineKey x.part (x.desc.keyField (immBits w 0 2)))).live = false ∨ (s.openEpoch x.part).mayName x.part (x.desc.keyField (immBits w 0 2)) = false ∨ (s.openEpoch x.part).residentAt (↑c.cc) (lineKey x.part (x.desc.keyField (immBits w 0 2))) = true)) ∧
    (∃ (c : Ctx) (w : Insn) (x : Machine.Context) (st : Nat) (s : Machine.State), s.readyCtx (ctxKey c) 2 0 w = some x ∧ (s.ge.ready = true ∨ (s.openEpoch x.part).mayName x.part (x.desc.keyField (immBits w 0 2)) = false) ∧ (s.openEpoch x.part).judgeFetch x.part (x.desc.keyField (immBits w 0 2)) (modBits w 0 4) (immBits w 16 14) = Except.error st ∧ x.filled = false ∧ ((s.openEpoch x.part).line (lineKey x.part (x.desc.keyField (immBits w 0 2)))).live = true ∧ (s.openEpoch x.part).mayName x.part (x.desc.keyField (immBits w 0 2)) = true ∧ (s.openEpoch x.part).residentAt (↑c.cc) (lineKey x.part (x.desc.keyField (immBits w 0 2))) = false) ∧
    (∃ (c : Ctx) (w : Insn) (x : Machine.Context) (s : Machine.State), s.readyCtx (ctxKey c) 2 0 w = some x ∧ s.ge.ready = false ∧ (s.openEpoch x.part).mayName x.part (x.desc.keyField (immBits w 0 2)) = true) ∧
    (∃ (c : Ctx) (w : Insn) (x : Machine.Context) (r : KeyRecord) (chain : List Nat) (s : Machine.State), s.readyCtx (ctxKey c) 2 0 w = some x ∧ s.ge.ready = true ∧ (s.openEpoch x.part).judgeFetch x.part (x.desc.keyField (immBits w 0 2)) (modBits w 0 4) (immBits w 16 14) = Except.ok (r, chain) ∧ (s.openEpoch x.part).missing (↑c.cc) chain ≠ []) ∧
    (∃ (c : Ctx) (w : Insn) (x : Machine.Context) (s : Machine.State), s.readyCtx (ctxKey c) 2 1 w = some x) ∧
    (∃ (c : Ctx) (w : Insn) (x : Machine.Context) (y : KeySlot) (s : Machine.State), s.readyCtx (ctxKey c) 2 2 w = some x ∧ x.slot ↑w.ka = some y) ∧
    (∃ (c : Ctx) (w : Insn) (x : Machine.Context) (y : KeySlot) (s : Machine.State), s.readyCtx (ctxKey c) 2 10 w = some x ∧ x.slot ↑w.ka = some y ∧ y.key.exportable = true ∧ immBits w 0 13 + 16 * (immBits w 16 3 + 1) ≤ y.key.material.length) ∧
    (∃ (c : Ctx) (w : Insn) (x : Machine.Context) (y : KeySlot) (s : Machine.State), s.readyCtx (ctxKey c) 2 10 w = some x ∧ x.slot ↑w.ka = some y ∧ y.key.exportable = false ∧ immBits w 0 13 + 16 * (immBits w 16 3 + 1) ≤ y.key.material.length) ∧
    (∃ (c : Ctx) (w : Insn) (x : Machine.Context) (y : KeySlot) (s : Machine.State), s.readyCtx (ctxKey c) 2 10 w = some x ∧ x.slot ↑w.ka = some y ∧ y.key.material.length < immBits w 0 13 + 16 * (immBits w 16 3 + 1)) ∧
    (∃ (c : Ctx) (w : Insn) (x : Machine.Context) (s : Machine.State), x.slot ↑w.ka = none ∧ s.readyCtx (ctxKey c) 2 2 w = some x) ∧
    (∃ (c : Ctx) (w : Insn) (x : Machine.Context) (s : Machine.State), x.slot ↑w.ka = none ∧ s.readyCtx (ctxKey c) 2 10 w = some x) ∧
    (∃ (c : Ctx) (w : Insn) (x : Machine.Context) (s : Machine.State), x.slot ↑w.ka = none ∧ s.readyCtx (ctxKey c) 3 0 w = some x ∧ (laneWord (immBits w 0 16)).valid true (modBit w 1) (modBit w 2) = true) ∧
    (∃ (c : Ctx) (w : Insn) (x : Machine.Context) (s : Machine.State), x.slot ↑w.ka = none ∧ s.readyCtx (ctxKey c) 6 0 w = some x ∧ (s.derEntry x (immBits w 0 7)).kind ≠ 0 ∧ (s.derEntry x (immBits w 0 7)).kind ≠ 7) :=
  ⟨⟨cx, wFe, cxt (st 2 0 wFe), rec5, [lineKey 1 5], st 2 0 wFe, by decide +kernel⟩,
   ⟨cx, { wFe with imm := 0x3FFF0002 }, cxt (st 2 0 { wFe with imm := 0x3FFF0002 }), stKeyNotFound, (st 2 0 { wFe with imm := 0x3FFF0002 }), by decide +kernel⟩,
   ⟨cx, { wFe with modi := 1 }, cxt (cold { wFe with modi := 1 }), stKeyUsageDenied, (cold { wFe with modi := 1 }), by decide +kernel⟩,
   ⟨cx, wFe, cxt (notReady wFe), (notReady wFe), by decide +kernel⟩,
   ⟨cx, { wFe with imm := 0x3FFF0001 }, cxt (cold { wFe with imm := 0x3FFF0001 }), rec6, [lineKey 1 6, lineKey 1 5], cold { wFe with imm := 0x3FFF0001 }, by decide +kernel⟩,
   ⟨cx, wR, cxt (st 2 1 wR), (st 2 1 wR), by decide +kernel⟩,
   ⟨cx, wR, cxt (st 2 2 wR), yx, (st 2 2 wR), by decide +kernel⟩,
   ⟨cx, wR, cxt (st 2 10 wR), yx, (st 2 10 wR), by decide +kernel⟩,
   ⟨cx, { wR with ka := 0 }, cxt (st 2 10 { wR with ka := 0 }), y2, (st 2 10 { wR with ka := 0 }), by decide +kernel⟩,
   ⟨cx, { wR with imm := 0x00070000 }, cxt (st 2 10 { wR with imm := 0x00070000 }), yx, (st 2 10 { wR with imm := 0x00070000 }), by decide +kernel⟩,
   ⟨cx, { wR with ka := 3 }, cxt (st 2 2 { wR with ka := 3 }), (st 2 2 { wR with ka := 3 }), by decide +kernel⟩,
   ⟨cx, { wR with ka := 3 }, cxt (st 2 10 { wR with ka := 3 }), (st 2 10 { wR with ka := 3 }), by decide +kernel⟩,
   ⟨cx, { wR with ka := 3, d := 0, imm := 0 }, cxt (st 3 0 { wR with ka := 3, d := 0, imm := 0 }), (st 3 0 { wR with ka := 3, d := 0, imm := 0 }), by decide +kernel⟩,
   ⟨cx, { wR with ka := 3, d := 0, imm := 0x3C }, cxt (st 6 0 { wR with ka := 3, d := 0, imm := 0x3C }), (st 6 0 { wR with ka := 3, d := 0, imm := 0x3C }), by decide +kernel⟩⟩

theorem test_hypotheses_EphemeralKeysArePlaced :
    (∃ (c : Ctx) (w : Insn) (x : Machine.Context) (s : Machine.State), s.readyCtx (ctxKey c) 2 3 w = some x ∧ (7 < ↑w.a ∨ 7 < ↑w.b ∨ modBits w 0 4 < 1 ∨ 3 < modBits w 0 4)) ∧
    (∃ (c : Ctx) (w : Insn) (x : Machine.Context) (s : Machine.State), s.readyCtx (ctxKey c) 2 3 w = some x ∧ ↑w.a ≤ 7 ∧ ↑w.b ≤ 7 ∧ 1 ≤ modBits w 0 4 ∧ modBits w 0 4 ≤ 3 ∧ (s.part x.part).ephQuota < (s.setCtx (ctxKey c) (x.setSlot (↑w.kd) none)).ephUsed x.part + keyEntries (bitsOf (x.sr ↑w.b) 16 13)) ∧
    (∃ (c : Ctx) (w : Insn) (x : Machine.Context) (s : Machine.State), s.readyCtx (ctxKey c) 2 3 w = some x ∧ ↑w.a ≤ 7 ∧ ↑w.b ≤ 7 ∧ 1 ≤ modBits w 0 4 ∧ modBits w 0 4 ≤ 3 ∧ (s.setCtx (ctxKey c) (x.setSlot (↑w.kd) none)).ephUsed x.part + keyEntries (bitsOf (x.sr ↑w.b) 16 13) ≤ (s.part x.part).ephQuota ∧ s.materialFits (modBits w 0 4) KType.secret (bitsOf (x.sr ↑w.a) 16 6) (bitsOf (x.sr ↑w.b) 16 13) = false) ∧
    (∃ (c : Ctx) (w : Insn) (x : Machine.Context) (s : Machine.State), s.readyCtx (ctxKey c) 2 3 w = some x ∧ ↑w.a ≤ 7 ∧ ↑w.b ≤ 7 ∧ 1 ≤ modBits w 0 4 ∧ modBits w 0 4 ≤ 3 ∧ (s.setCtx (ctxKey c) (x.setSlot (↑w.kd) none)).ephUsed x.part + keyEntries (bitsOf (x.sr ↑w.b) 16 13) ≤ (s.part x.part).ephQuota ∧ s.materialFits (modBits w 0 4) KType.secret (bitsOf (x.sr ↑w.a) 16 6) (bitsOf (x.sr ↑w.b) 16 13) = true ∧ s.queueFill ↑c.cc < bitsOf (x.sr ↑w.b) 16 13) ∧
    (∃ (c : Ctx) (w : Insn) (x : Machine.Context) (s : Machine.State), s.readyCtx (ctxKey c) 2 3 w = some x ∧ ↑w.a ≤ 7 ∧ ↑w.b ≤ 7 ∧ 1 ≤ modBits w 0 4 ∧ modBits w 0 4 ≤ 3 ∧ (s.setCtx (ctxKey c) (x.setSlot (↑w.kd) none)).ephUsed x.part + keyEntries (bitsOf (x.sr ↑w.b) 16 13) ≤ (s.part x.part).ephQuota ∧ s.materialFits (modBits w 0 4) KType.secret (bitsOf (x.sr ↑w.a) 16 6) (bitsOf (x.sr ↑w.b) 16 13) = true ∧ bitsOf (x.sr ↑w.b) 16 13 ≤ s.queueFill ↑c.cc ∧ (s.setCtx (ctxKey c) (x.setSlot (↑w.kd) none)).entriesUsed ↑c.cc + keyEntries (bitsOf (x.sr ↑w.b) 16 13) ≤ 4096) ∧
    (∃ (c : Ctx) (w : Insn) (x : Machine.Context) (s : Machine.State), s.readyCtx (ctxKey c) 2 4 w = some x ∧ bitOf w.imm.toNat 31 = true ∧ (7 < ↑w.a ∨ 7 < ↑w.b)) ∧
    (∃ (c : Ctx) (w : Insn) (x : Machine.Context) (s : Machine.State), s.readyCtx (ctxKey c) 2 4 w = some x ∧ (bitOf w.imm.toNat 31 = false ∨ ↑w.a ≤ 7 ∧ ↑w.b ≤ 7) ∧ (s.part x.part).ephQuota < (s.setCtx (ctxKey c) (x.setSlot (↑w.kd) none)).ephUsed x.part + keyEntries (min (if bitOf w.imm.toNat 31 = true then bitsOf (x.sr ↑w.b) 16 13 else 4896) (overlay (immBits w 0 13) (x.vRange (↑w.d) (immBits w 16 3 + 1)) (fitBytes (max ((Option.filter (fun x => x.building) (x.keys.getD (↑w.kd) none)).getD { building := true }).key.material.length (immBits w 0 13 + 16 * (immBits w 16 3 + 1))) ((Option.filter (fun x => x.building) (x.keys.getD (↑w.kd) none)).getD { building := true }).key.material)).length)) ∧
    (∃ (c : Ctx) (w : Insn) (x : Machine.Context) (s : Machine.State), s.readyCtx (ctxKey c) 2 4 w = some x ∧ (bitOf w.imm.toNat 31 = false ∨ ↑w.a ≤ 7 ∧ ↑w.b ≤ 7) ∧ (s.setCtx (ctxKey c) (x.setSlot (↑w.kd) none)).ephUsed x.part + keyEntries (min (if bitOf w.imm.toNat 31 = true then bitsOf (x.sr ↑w.b) 16 13 else 4896) (overlay (immBits w 0 13) (x.vRange (↑w.d) (immBits w 16 3 + 1)) (fitBytes (max ((Option.filter (fun x => x.building) (x.keys.getD (↑w.kd) none)).getD { building := true }).key.material.length (immBits w 0 13 + 16 * (immBits w 16 3 + 1))) ((Option.filter (fun x => x.building) (x.keys.getD (↑w.kd) none)).getD { building := true }).key.material)).length) ≤ (s.part x.part).ephQuota ∧ (if bitOf w.imm.toNat 31 = true then bitsOf (x.sr ↑w.b) 16 13 else 4896) < immBits w 0 13 + 16 * (immBits w 16 3 + 1)) ∧
    (∃ (c : Ctx) (w : Insn) (x : Machine.Context) (s : Machine.State), s.readyCtx (ctxKey c) 2 4 w = some x ∧ (bitOf w.imm.toNat 31 = false ∨ ↑w.a ≤ 7 ∧ ↑w.b ≤ 7) ∧ (s.setCtx (ctxKey c) (x.setSlot (↑w.kd) none)).ephUsed x.part + keyEntries (min (if bitOf w.imm.toNat 31 = true then bitsOf (x.sr ↑w.b) 16 13 else 4896) (overlay (immBits w 0 13) (x.vRange (↑w.d) (immBits w 16 3 + 1)) (fitBytes (max ((Option.filter (fun x => x.building) (x.keys.getD (↑w.kd) none)).getD { building := true }).key.material.length (immBits w 0 13 + 16 * (immBits w 16 3 + 1))) ((Option.filter (fun x => x.building) (x.keys.getD (↑w.kd) none)).getD { building := true }).key.material)).length) ≤ (s.part x.part).ephQuota ∧ (immBits w 0 13 + 16 * (immBits w 16 3 + 1) ≤ if bitOf w.imm.toNat 31 = true then bitsOf (x.sr ↑w.b) 16 13 else 4896) ∧ (s.setCtx (ctxKey c) (x.setSlot (↑w.kd) none)).entriesUsed ↑c.cc + keyEntries (min (if bitOf w.imm.toNat 31 = true then bitsOf (x.sr ↑w.b) 16 13 else 4896) (overlay (immBits w 0 13) (x.vRange (↑w.d) (immBits w 16 3 + 1)) (fitBytes (max ((Option.filter (fun x => x.building) (x.keys.getD (↑w.kd) none)).getD { building := true }).key.material.length (immBits w 0 13 + 16 * (immBits w 16 3 + 1))) ((Option.filter (fun x => x.building) (x.keys.getD (↑w.kd) none)).getD { building := true }).key.material)).length) ≤ 4096 ∧ bitOf w.imm.toNat 31 = false ∧ ((Option.filter (fun x => x.building) (x.keys.getD (↑w.kd) none)).getD { building := true }).key.material.length ≤ 4896) ∧
    (∃ (c : Ctx) (w : Insn) (x : Machine.Context) (s : Machine.State), s.readyCtx (ctxKey c) 2 4 w = some x ∧ (bitOf w.imm.toNat 31 = false ∨ ↑w.a ≤ 7 ∧ ↑w.b ≤ 7) ∧ (s.setCtx (ctxKey c) (x.setSlot (↑w.kd) none)).ephUsed x.part + keyEntries (min (if bitOf w.imm.toNat 31 = true then bitsOf (x.sr ↑w.b) 16 13 else 4896) (overlay (immBits w 0 13) (x.vRange (↑w.d) (immBits w 16 3 + 1)) (fitBytes (max ((Option.filter (fun x => x.building) (x.keys.getD (↑w.kd) none)).getD { building := true }).key.material.length (immBits w 0 13 + 16 * (immBits w 16 3 + 1))) ((Option.filter (fun x => x.building) (x.keys.getD (↑w.kd) none)).getD { building := true }).key.material)).length) ≤ (s.part x.part).ephQuota ∧ (immBits w 0 13 + 16 * (immBits w 16 3 + 1) ≤ if bitOf w.imm.toNat 31 = true then bitsOf (x.sr ↑w.b) 16 13 else 4896) ∧ (s.setCtx (ctxKey c) (x.setSlot (↑w.kd) none)).entriesUsed ↑c.cc + keyEntries (min (if bitOf w.imm.toNat 31 = true then bitsOf (x.sr ↑w.b) 16 13 else 4896) (overlay (immBits w 0 13) (x.vRange (↑w.d) (immBits w 16 3 + 1)) (fitBytes (max ((Option.filter (fun x => x.building) (x.keys.getD (↑w.kd) none)).getD { building := true }).key.material.length (immBits w 0 13 + 16 * (immBits w 16 3 + 1))) ((Option.filter (fun x => x.building) (x.keys.getD (↑w.kd) none)).getD { building := true }).key.material)).length) ≤ 4096 ∧ bitOf w.imm.toNat 31 = true ∧ ((overlay (immBits w 0 13) (x.vRange (↑w.d) (immBits w 16 3 + 1)) (fitBytes (max ((Option.filter (fun x => x.building) (x.keys.getD (↑w.kd) none)).getD { building := true }).key.material.length (immBits w 0 13 + 16 * (immBits w 16 3 + 1))) ((Option.filter (fun x => x.building) (x.keys.getD (↑w.kd) none)).getD { building := true }).key.material)).length = if bitOf w.imm.toNat 31 = true then bitsOf (x.sr ↑w.b) 16 13 else 4896) ∧ 1 ≤ modBits w 4 4 ∧ modBits w 4 4 ≤ 3 ∧ s.materialFits (modBits w 0 4) (ktypeOf (modBits w 4 4)) (bitsOf (x.sr ↑w.a) 16 6) (if bitOf w.imm.toNat 31 = true then bitsOf (x.sr ↑w.b) 16 13 else 4896) = true) ∧
    (∃ (c : Ctx) (w : Insn) (x : Machine.Context) (s : Machine.State), s.readyCtx (ctxKey c) 2 4 w = some x ∧ (bitOf w.imm.toNat 31 = false ∨ ↑w.a ≤ 7 ∧ ↑w.b ≤ 7) ∧ (s.setCtx (ctxKey c) (x.setSlot (↑w.kd) none)).ephUsed x.part + keyEntries (min (if bitOf w.imm.toNat 31 = true then bitsOf (x.sr ↑w.b) 16 13 else 4896) (overlay (immBits w 0 13) (x.vRange (↑w.d) (immBits w 16 3 + 1)) (fitBytes (max ((Option.filter (fun x => x.building) (x.keys.getD (↑w.kd) none)).getD { building := true }).key.material.length (immBits w 0 13 + 16 * (immBits w 16 3 + 1))) ((Option.filter (fun x => x.building) (x.keys.getD (↑w.kd) none)).getD { building := true }).key.material)).length) ≤ (s.part x.part).ephQuota ∧ bitOf w.imm.toNat 31 = true ∧ (immBits w 0 13 + 16 * (immBits w 16 3 + 1) ≤ if bitOf w.imm.toNat 31 = true then bitsOf (x.sr ↑w.b) 16 13 else 4896) ∧ (((overlay (immBits w 0 13) (x.vRange (↑w.d) (immBits w 16 3 + 1)) (fitBytes (max ((Option.filter (fun x => x.building) (x.keys.getD (↑w.kd) none)).getD { building := true }).key.material.length (immBits w 0 13 + 16 * (immBits w 16 3 + 1))) ((Option.filter (fun x => x.building) (x.keys.getD (↑w.kd) none)).getD { building := true }).key.material)).length ≠ if bitOf w.imm.toNat 31 = true then bitsOf (x.sr ↑w.b) 16 13 else 4896) ∨ modBits w 4 4 < 1 ∨ 3 < modBits w 4 4 ∨ s.materialFits (modBits w 0 4) (ktypeOf (modBits w 4 4)) (bitsOf (x.sr ↑w.a) 16 6) (if bitOf w.imm.toNat 31 = true then bitsOf (x.sr ↑w.b) 16 13 else 4896) = false)) ∧
    (∃ (k : Nat) (need : Nat) (x : Machine.Context) (kd : Nat) (y : KeySlot) (s : Machine.State), need = keyEntries y.key.material.length ∧ (s.setCtx k (x.setSlot kd none)).ephUsed x.part + need ≤ (s.part x.part).ephQuota ∧ (s.setCtx k (x.setSlot kd none)).makeRoom (clusterOf k) x.part need [] 4096 = none) :=
  ⟨⟨cx, { wG with a := 9 }, cxt (st 2 3 { wG with a := 9 }), (st 2 3 { wG with a := 9 }), by decide +kernel⟩,
   ⟨cx, wG, cxt (noQuota 3 wG), (noQuota 3 wG), by decide +kernel⟩,
   ⟨cx, { wG with modi := 1 }, cxt (st 2 3 { wG with modi := 1 }), (st 2 3 { wG with modi := 1 }), by decide +kernel⟩,
   ⟨cx, wG, cxt (dry 3 wG), (dry 3 wG), by decide +kernel⟩,
   ⟨cx, wG, cxt (st 2 3 wG), (st 2 3 wG), by decide +kernel⟩,
   ⟨cx, { wMf with a := 9 }, cxt (st 2 4 { wMf with a := 9 }), (st 2 4 { wMf with a := 9 }), by decide +kernel⟩,
   ⟨cx, wM, cxt (noQuota 4 wM), (noQuota 4 wM), by decide +kernel⟩,
   ⟨cx, { wM with imm := 0x1FFF }, cxt (st 2 4 { wM with imm := 0x1FFF }), (st 2 4 { wM with imm := 0x1FFF }), by decide +kernel⟩,
   ⟨cx, wM, cxt (st 2 4 wM), (st 2 4 wM), by decide +kernel⟩,
   ⟨cx, wMf, cxt (st 2 4 wMf), (st 2 4 wMf), by decide +kernel⟩,
   ⟨cx, { wMf with imm := 0x80000000 }, cxt (st 2 4 { wMf with imm := 0x80000000 }), (st 2 4 { wMf with imm := 0x80000000 }), by decide +kernel⟩,
   ⟨64, keyEntries 32, cxt pinned, 3, y2, pinned, by decide +kernel⟩⟩

end T05

namespace T05b

open T05
def wW : Insn := { ka := 0, kd := 2, a := 2, modi := 0x10 }
def er (s : State) (p h : Nat) (y : KeySlot) (z : Option KeySlot) (f : Bool) : Nat × Nat := match s.placeRecord p h y z f with | .ok _ => (0, 0) | .error e => e
def yOk : KeySlot := { y2 with key := { y2.key with attr := 0x3F28, level := 6 } }
def sOk : State := (st 2 5 wW).updCtx 64 fun x => { x with keys := [some yOk, some yx, none, none] }
theorem placed : isOk ((sOk.openEpoch 1).placeRecord 1 3 yOk none false) = true := by decide +kernel
def pl : List Byte × State × Option Nat := okOf _ placed
theorem pl_eq : (sOk.openEpoch 1).placeRecord 1 3 yOk none false = .ok (pl.1, pl.2.1, pl.2.2) := eq_okOf _ placed
/-- A command of a lost link whose output is a window of no size, with a lane operation outstanding. -/
def outside (cls op : Nat) (w : Insn) : State :=
  ((keyed (working cls op w { dIn with outAddr := 0xFFFFFE * 2 ^ 40 } x0)).updQp 1 0 fun q => { q with qstate := .linkLost }).updLane 1 2 fun l =>
    { l with exec := some { owner := some 64, slot := 2, job := .lane { word := laneWord 0, block := true, bytes := zeros 16, dest := 9 }, blocks := 1 } }
def sOut : State := (outside 2 5 wW).updCtx 64 fun x => { x with keys := [some yOk, some yx, none, none] }
theorem placedOut : isOk ((sOut.openEpoch 1).placeRecord 1 3 yOk none false) = true := by decide +kernel
def plo : List Byte × State × Option Nat := okOf _ placedOut
def wL : Insn := { a := 2, d := 5 }
/-- A context with the 128 bytes of a virgin record as its input. -/
def sLz : State := (st 2 7 wL).updCtx 64 fun x => { x with sreg := [0, 0, 5, 0, 0, 0, 0, 0] }
theorem loaded : isOk (sLz.loadRecord (cxt sLz).part ((cxt sLz).sr wL.a) ((cxt sLz).gathered ++ (cxt sLz).inBytes (cxt sLz).ip (128 * max 1 (leNat ((cxt sLz).inBytes ((cxt sLz).startIp + 6) 1)) - (cxt sLz).gathered.length))) = true := by decide +kernel
def ld : Nat × State × Option Nat := okOf _ loaded
def reader : State := st 2 8 { wL with imm := 0 }
theorem lines_ok : isOk (reader.recordLinesOf (cxt reader).part ((cxt reader).desc.keyField (immBits { wL with imm := 0 } 0 2))) = true := by decide +kernel
def wL0 : Insn := { wL with imm := 0 }
def wL1 : Insn := { wL with imm := 1 }
def readerOut : State := outside 2 8 wL0
theorem lines_out : isOk (readerOut.recordLinesOf (cxt readerOut).part ((cxt readerOut).desc.keyField (immBits wL0 0 2))) = true := by decide +kernel
/-- The record of the key field not resident, without its parent, and with a poisoned line. -/
def noSlice (w : Insn) : State := { st 2 6 w with ge.slices := [] }
def orphaned (w : Insn) : State := { noSlice w with ge.lines := [(lineKey 1 6, { gen := 1, live := true, record := some rec6 })] }
def poisoned (w : Insn) : State := { st 2 6 w with hb.poison := [2 * (st 2 6 w).tablePlace (lineKey 1 5)] }
def wA : Insn := { ka := 2, a := 3 }
def attesting (f : State → State) (w : Insn) : State := f (st 2 9 w)
def noPk (last : Option Nat) (s : State) : State := { s.set R.GBL_PK_INSERVICE 0 with pk := { s.pk with lastOut := last } }
def fullPk (s : State) : State := { s with pk := { s.pk with queues := (List.range 16).map fun i => (i, List.replicate 64 { word := ⟨2, 2, false, false⟩ }) } }

theorem test_hypotheses_RecordInstructions :
    (∃ (c : Ctx) (w : Insn) (x : Machine.Context) (y : KeySlot) (parent : Option KeySlot) (s : Machine.State) (bs : List Byte) (v : Machine.State) (d : Option Nat), s.readyCtx (ctxKey c) 2 5 w = some x ∧ ↑w.a ≤ 7 ∧ x.slot ↑w.ka = some y ∧ (modBit w 4 = true ∧ parent = none ∨ modBit w 4 = false ∧ parent.isSome = true ∧ x.slot ↑w.kd = parent) ∧ (s.openEpoch x.part).placeRecord x.part (x.sr ↑w.a) y parent (modBit w 5) = Except.ok (bs, v, d) ∧ ((((v.retire (ctxKey c) 4 { x with op := (x.op + bs.length) % 2 ^ 24, delta := d <|> x.delta }).inOrder (ctxKey c) { output := [(x.op, bs)], pc := x.pc, num := x.retired }).ctx (ctxKey c)).cmd ≠ none ∨ s.settled (ctxKey c) = true)) ∧
    (∃ (c : Ctx) (w : Insn) (x : Machine.Context) (y : KeySlot) (parent : Option KeySlot) (s : Machine.State) (bs : List Byte) (v : Machine.State) (d : Option Nat), s.readyCtx (ctxKey c) 2 5 w = some x ∧ ↑w.a ≤ 7 ∧ x.slot ↑w.ka = some y ∧ (modBit w 4 = true ∧ parent = none ∨ modBit w 4 = false ∧ parent.isSome = true ∧ x.slot ↑w.kd = parent) ∧ (s.openEpoch x.part).placeRecord x.part (x.sr ↑w.a) y parent (modBit w 5) = Except.ok (bs, v, d) ∧ (((v.retire (ctxKey c) 4 { x with op := (x.op + bs.length) % 2 ^ 24, delta := d <|> x.delta }).inOrder (ctxKey c) { output := [(x.op, bs)], pc := x.pc, num := x.retired }).ctx (ctxKey c)).cmd = none ∧ s.settled (ctxKey c) = false) ∧
    (∃ (c : Ctx) (w : Insn) (x : Machine.Context) (y : KeySlot) (parent : Option KeySlot) (s : Machine.State) (e : Nat × Nat), s.readyCtx (ctxKey c) 2 5 w = some x ∧ ↑w.a ≤ 7 ∧ x.slot ↑w.ka = some y ∧ (modBit w 4 = true ∧ parent = none ∨ modBit w 4 = false ∧ parent.isSome = true ∧ x.slot ↑w.kd = parent) ∧ (s.openEpoch x.part).placeRecord x.part (x.sr ↑w.a) y parent (modBit w 5) = Except.error e) ∧
    (∃ (c : Ctx) (w : Insn) (x : Machine.Context) (s : Machine.State), s.readyCtx (ctxKey c) 2 5 w = some x ∧ 7 < ↑w.a) ∧
    (∃ (c : Ctx) (w : Insn) (x : Machine.Context) (s : Machine.State), s.readyCtx (ctxKey c) 2 5 w = some x ∧ ↑w.a ≤ 7 ∧ (x.slot ↑w.ka = none ∨ modBit w 4 = false ∧ x.slot ↑w.kd = none)) ∧
    (∃ (c : Ctx) (w : Insn) (x : Machine.Context) (s : Machine.State), s.readyCtx (ctxKey c) 2 7 w = some x ∧ (7 < ↑w.a ∨ 7 < ↑w.d)) ∧
    (∃ (c : Ctx) (w : Insn) (x : Machine.Context) (s : Machine.State), s.readyCtx (ctxKey c) 2 7 w = some x ∧ ↑w.a ≤ 7 ∧ ↑w.d ≤ 7 ∧ x.has (x.startIp + 128) = false) ∧
    (∃ (c : Ctx) (w : Insn) (x : Machine.Context) (s : Machine.State), s.readyCtx (ctxKey c) 2 7 w = some x ∧ ↑w.a ≤ 7 ∧ ↑w.d ≤ 7 ∧ x.has (x.startIp + 128) = true ∧ x.has (x.ip + (128 * max 1 (leNat (x.inBytes (x.startIp + 6) 1)) - x.gathered.length)) = false) ∧
    (∃ (c : Ctx) (w : Insn) (x : Machine.Context) (s : Machine.State) (st : Nat), s.readyCtx (ctxKey c) 2 7 w = some x ∧ ↑w.a ≤ 7 ∧ ↑w.d ≤ 7 ∧ x.has (x.startIp + 128) = true ∧ x.has (x.ip + (128 * max 1 (leNat (x.inBytes (x.startIp + 6) 1)) - x.gathered.length)) = true ∧ s.loadRecord x.part (x.sr ↑w.a) (x.gathered ++ x.inBytes x.ip (128 * max 1 (leNat (x.inBytes (x.startIp + 6) 1)) - x.gathered.length)) = Except.error st) ∧
    (∃ (c : Ctx) (w : Insn) (x : Machine.Context) (s : Machine.State) (code : Nat) (u : Machine.State) (d : Option Nat), s.readyCtx (ctxKey c) 2 7 w = some x ∧ ↑w.a ≤ 7 ∧ ↑w.d ≤ 7 ∧ x.has (x.startIp + 128) = true ∧ x.has (x.ip + (128 * max 1 (leNat (x.inBytes (x.startIp + 6) 1)) - x.gathered.length)) = true ∧ s.loadRecord x.part (x.sr ↑w.a) (x.gathered ++ x.inBytes x.ip (128 * max 1 (leNat (x.inBytes (x.startIp + 6) 1)) - x.gathered.length)) = Except.ok (code, u, d)) ∧
    (∃ (c : Ctx) (w : Insn) (x : Machine.Context) (s : Machine.State) (bs : List Byte), s.readyCtx (ctxKey c) 2 8 w = some x ∧ s.recordLinesOf x.part (x.desc.keyField (immBits w 0 2)) = Except.ok bs ∧ s.geodeWalk (↑c.cc) x.part (x.desc.keyField (immBits w 0 2)) = Except.ok true ∧ s.recordFails (lineKey x.part (x.desc.keyField (immBits w 0 2))) = false ∧ ((((s.retire (ctxKey c) 4 { x with op := (x.op + bs.length) % 2 ^ 24, filled := false }).inOrder (ctxKey c) { output := [(x.op, bs)], pc := x.pc, num := x.retired }).ctx (ctxKey c)).cmd ≠ none ∨ s.settled (ctxKey c) = true)) ∧
    (∃ (c : Ctx) (w : Insn) (x : Machine.Context) (s : Machine.State) (bs : List Byte), s.readyCtx (ctxKey c) 2 8 w = some x ∧ s.recordLinesOf x.part (x.desc.keyField (immBits w 0 2)) = Except.ok bs ∧ s.geodeWalk (↑c.cc) x.part (x.desc.keyField (immBits w 0 2)) = Except.ok true ∧ s.recordFails (lineKey x.part (x.desc.keyField (immBits w 0 2))) = false ∧ (((s.retire (ctxKey c) 4 { x with op := (x.op + bs.length) % 2 ^ 24, filled := false }).inOrder (ctxKey c) { output := [(x.op, bs)], pc := x.pc, num := x.retired }).ctx (ctxKey c)).cmd = none ∧ s.settled (ctxKey c) = false) ∧
    (∃ (c : Ctx) (w : Insn) (x : Machine.Context) (s : Machine.State) (st : Nat), s.readyCtx (ctxKey c) 2 8 w = some x ∧ s.recordLinesOf x.part (x.desc.keyField (immBits w 0 2)) = Except.error st) ∧
    (∃ (c : Ctx) (w : Insn) (x : Machine.Context) (s : Machine.State), s.readyCtx (ctxKey c) 2 6 w = some x ∧ s.refuseDestroy x.part (x.desc.keyField (immBits w 0 2)) = none ∧ s.geodeWalk (↑c.cc) x.part (x.desc.keyField (immBits w 0 2)) = Except.ok true ∧ s.recordFails (lineKey x.part (x.desc.keyField (immBits w 0 2))) = false) ∧
    (∃ (c : Ctx) (w : Insn) (x : Machine.Context) (st : Nat) (s : Machine.State), s.readyCtx (ctxKey c) 2 6 w = some x ∧ s.refuseDestroy x.part (x.desc.keyField (immBits w 0 2)) = some st) ∧
    (∃ (i : Instr) (op : Nat) (c : Ctx) (w : Insn) (x : Machine.Context) (s : Machine.State), ((i = Instr.readrec c w ∧ op = 8 ∧ ∃ bs, s.recordLinesOf x.part (x.desc.keyField (immBits w 0 2)) = Except.ok bs) ∨ i = Instr.destroy c w ∧ op = 6 ∧ s.refuseDestroy x.part (x.desc.keyField (immBits w 0 2)) = none) ∧ s.readyCtx (ctxKey c) 2 op w = some x ∧ s.geodeWalk (↑c.cc) x.part (x.desc.keyField (immBits w 0 2)) = Except.ok false) ∧
    (∃ (i : Instr) (op : Nat) (c : Ctx) (w : Insn) (x : Machine.Context) (s : Machine.State) (st : Nat), ((i = Instr.readrec c w ∧ op = 8 ∧ ∃ bs, s.recordLinesOf x.part (x.desc.keyField (immBits w 0 2)) = Except.ok bs) ∨ i = Instr.destroy c w ∧ op = 6 ∧ s.refuseDestroy x.part (x.desc.keyField (immBits w 0 2)) = none) ∧ s.readyCtx (ctxKey c) 2 op w = some x ∧ s.geodeWalk (↑c.cc) x.part (x.desc.keyField (immBits w 0 2)) = Except.error st) ∧
    (∃ (i : Instr) (op : Nat) (c : Ctx) (w : Insn) (x : Machine.Context) (s : Machine.State), ((i = Instr.readrec c w ∧ op = 8 ∧ ∃ bs, s.recordLinesOf x.part (x.desc.keyField (immBits w 0 2)) = Except.ok bs) ∨ i = Instr.destroy c w ∧ op = 6 ∧ s.refuseDestroy x.part (x.desc.keyField (immBits w 0 2)) = none) ∧ s.readyCtx (ctxKey c) 2 op w = some x ∧ s.geodeWalk (↑c.cc) x.part (x.desc.keyField (immBits w 0 2)) = Except.ok true ∧ s.recordFails (lineKey x.part (x.desc.keyField (immBits w 0 2))) = true) ∧
    (∃ (c : Ctx) (w : Insn) (x : Machine.Context) (s : Machine.State), s.readyCtx (ctxKey c) 2 9 w = some x ∧ x.slot ↑w.ka = none) ∧
    (∃ (c : Ctx) (w : Insn) (x : Machine.Context) (s : Machine.State) (y : KeySlot), s.readyCtx (ctxKey c) 2 9 w = some x ∧ x.slot ↑w.ka = some y ∧ (y.line = none ∨ y.key.origin ≠ 0 ∨ y.key.exportable = true ∨ s.lcState = 6)) ∧
    (∃ (c : Ctx) (w : Insn) (x : Machine.Context) (s : Machine.State) (y : KeySlot) (line : Nat) (det : Nat), s.readyCtx (ctxKey c) 2 9 w = some x ∧ x.slot ↑w.ka = some y ∧ y.line = some line ∧ y.key.origin = 0 ∧ y.key.exportable = false ∧ s.lcState ≠ 6 ∧ s.handTo false [] = Except.error (some det)) ∧
    (∃ (c : Ctx) (w : Insn) (x : Machine.Context) (s : Machine.State) (y : KeySlot) (line : Nat), s.readyCtx (ctxKey c) 2 9 w = some x ∧ x.slot ↑w.ka = some y ∧ y.line = some line ∧ y.key.origin = 0 ∧ y.key.exportable = false ∧ s.lcState ≠ 6 ∧ s.handTo false [] = Except.error none) ∧
    (∃ (c : Ctx) (w : Insn) (x : Machine.Context) (s : Machine.State) (y : KeySlot) (line : Nat) (p : Nat), s.readyCtx (ctxKey c) 2 9 w = some x ∧ x.slot ↑w.ka = some y ∧ y.line = some line ∧ y.key.origin = 0 ∧ y.key.exportable = false ∧ s.lcState ≠ 6 ∧ s.handTo false [] = Except.ok p ∧ (s.pkFull p false = true ∨ s.pkFull ((s.pickPk true [p]).getD p) true = true)) ∧
    (∃ (c : Ctx) (w : Insn) (x : Machine.Context) (s : Machine.State) (y : KeySlot) (line : Nat) (p : Nat), s.readyCtx (ctxKey c) 2 9 w = some x ∧ x.slot ↑w.ka = some y ∧ y.line = some line ∧ y.key.origin = 0 ∧ y.key.exportable = false ∧ s.lcState ≠ 6 ∧ s.handTo false [] = Except.ok p ∧ s.pkFull p false = false ∧ s.pkFull ((s.pickPk true [p]).getD p) true = false ∧ s.queueFill ↑c.cc < 256) ∧
    (∃ (c : Ctx) (w : Insn) (x : Machine.Context) (s : Machine.State) (y : KeySlot) (line : Nat) (p : Nat), s.readyCtx (ctxKey c) 2 9 w = some x ∧ x.slot ↑w.ka = some y ∧ y.line = some line ∧ y.key.origin = 0 ∧ y.key.exportable = false ∧ s.lcState ≠ 6 ∧ s.handTo false [] = Except.ok p ∧ s.pkFull p false = false ∧ s.pkFull ((s.pickPk true [p]).getD p) true = false ∧ 256 ≤ s.queueFill ↑c.cc) ∧
    (∃ (p : Nat) (h : Nat) (y : KeySlot) (parent : Option KeySlot) (five : Bool) (bs : List Byte) (u : Machine.State) (d : Option Nat) (s : Machine.State) (j : Nat), s.placeRecord p h y parent five = Except.ok (bs, u, d) ∧ j ≠ lineKey p h ∧ (s.line j).extOf ≠ some (lineKey p h) ∧ (j < lineKey p h ∨ lineKey p h + recordLines y.key.material.length ≤ j)) :=
  ⟨⟨cx, wW, cxt sOk, yOk, none, sOk, pl.1, pl.2.1, pl.2.2, ⟨by decide +kernel, by decide, by decide +kernel, by decide +kernel, pl_eq, .inr (by decide +kernel)⟩⟩,
   ⟨cx, wW, cxt sOut, yOk, none, sOut, plo.1, plo.2.1, plo.2.2, ⟨by decide +kernel, by decide, by decide +kernel, by decide +kernel, eq_okOf _ placedOut, by decide +kernel, by decide +kernel⟩⟩,
   ⟨cx, { wW with a := 5 }, cxt (st 2 5 { wW with a := 5 }), y2, none, st 2 5 { wW with a := 5 }, er (st 2 5 { wW with a := 5 }) 1 0xFFFFFFFF y2 none false, by decide +kernel⟩,
   ⟨cx, { wW with a := 9 }, cxt (st 2 5 { wW with a := 9 }), (st 2 5 { wW with a := 9 }), by decide +kernel⟩,
   ⟨cx, { wW with ka := 3 }, cxt (st 2 5 { wW with ka := 3 }), (st 2 5 { wW with ka := 3 }), by decide +kernel⟩,
   ⟨cx, { wL with a := 9 }, cxt (st 2 7 { wL with a := 9 }), (st 2 7 { wL with a := 9 }), by decide +kernel⟩,
   ⟨cx, wL, cxt (withInput 7 [1, 2] wL), (withInput 7 [1, 2] wL), by decide +kernel⟩,
   ⟨cx, wL, cxt (withInput 7 (List.replicate 256 3) wL), (withInput 7 (List.replicate 256 3) wL), by decide +kernel⟩,
   ⟨cx, { wL with a := 5 }, cxt (st 2 7 { wL with a := 5 }), (st 2 7 { wL with a := 5 }), stKeyNotFound, by decide +kernel⟩,
   ⟨cx, wL, cxt sLz, sLz, ld.1, ld.2.1, ld.2.2, ⟨by decide +kernel, by decide +kernel, by decide +kernel, by decide +kernel, by decide +kernel, eq_okOf _ loaded⟩⟩,
   ⟨cx, wL0, cxt reader, reader, okOf _ lines_ok, ⟨by decide +kernel, eq_okOf _ lines_ok, by decide +kernel, by decide +kernel, .inr (by decide +kernel)⟩⟩,
   ⟨cx, wL0, cxt readerOut, readerOut, okOf _ lines_out, ⟨by decide +kernel, eq_okOf _ lines_out, by decide +kernel, by decide +kernel, by decide +kernel, by decide +kernel⟩⟩,
   ⟨cx, { wL with imm := 2 }, cxt (st 2 8 { wL with imm := 2 }), (st 2 8 { wL with imm := 2 }), stKeyNotFound, by decide +kernel⟩,
   ⟨cx, { wL with imm := 0 }, cxt (st 2 6 { wL with imm := 0 }), (st 2 6 { wL with imm := 0 }), by decide +kernel⟩,
   ⟨cx, { wL with imm := 2 }, cxt (st 2 6 { wL with imm := 2 }), stKeyNotFound, (st 2 6 { wL with imm := 2 }), by decide +kernel⟩,
   ⟨.destroy cx wL0, 6, cx, wL0, cxt (noSlice wL0), noSlice wL0, ⟨.inr (by decide +kernel), by decide +kernel, by decide +kernel⟩⟩,
   ⟨.destroy cx wL1, 6, cx, wL1, cxt (orphaned wL1), orphaned wL1, stKeyNotFound, ⟨.inr (by decide +kernel), by decide +kernel, by decide +kernel⟩⟩,
   ⟨.destroy cx wL0, 6, cx, wL0, cxt (poisoned wL0), poisoned wL0, ⟨.inr (by decide +kernel), by decide +kernel, by decide +kernel, by decide +kernel⟩⟩,
   ⟨cx, { wA with ka := 3 }, cxt (st 2 9 { wA with ka := 3 }), (st 2 9 { wA with ka := 3 }), by decide +kernel⟩,
   ⟨cx, { wA with ka := 0 }, cxt (st 2 9 { wA with ka := 0 }), (st 2 9 { wA with ka := 0 }), y2, by decide +kernel⟩,
   ⟨cx, wA, cxt (attesting (noPk (some 3)) wA), (attesting (noPk (some 3)) wA), y9, lineKey 1 9, 3, by decide +kernel⟩,
   ⟨cx, wA, cxt (attesting (noPk none) wA), (attesting (noPk none) wA), y9, lineKey 1 9, by decide +kernel⟩,
   ⟨cx, wA, cxt (attesting fullPk wA), (attesting fullPk wA), y9, lineKey 1 9, 0, by decide +kernel⟩,
   ⟨cx, wA, cxt (dry 9 wA), (dry 9 wA), y9, lineKey 1 9, 0, by decide +kernel⟩,
   ⟨cx, wA, cxt (st 2 9 wA), (st 2 9 wA), y9, lineKey 1 9, 0, by decide +kernel⟩,
   ⟨1, 3, yOk, none, false, pl.1, pl.2.1, pl.2.2, sOk.openEpoch 1, 0, ⟨pl_eq, by decide +kernel, by decide +kernel, by decide +kernel⟩⟩⟩

end T05b

namespace T06

def vs : List (List Byte) := (List.range 16).map fun i => (List.range 16).map fun j => BitVec.ofNat 8 (16 * i + j)
def ss : List Word := [0x02100005, 0x10, 3, 40, 6, 0xFFFFFFFF, 0x200010, 0x100000]
def y2 : KeySlot := slotOf 2 32
def pin : List Byte := [0x12, 0x34, 0x56] ++ zeros 13
def x0 : Context := { v := vs.set 3 pin, sreg := ss, ip := 3, op := 5, input := zeros 256, keys := [some y2, some (slotOf 1 16), none, none] }
def dIn : Descriptor := { d1 with inInline := false, inLen := 256, outLen := 4000, outInline := false, outAddr := 0x10000, key0 := 5, key1 := 6 }
def st (cls op : Nat) (w : Insn) : State := working cls op w dIn x0
def cxt (s : State) : Context := s.ctx 64
def wf (a e : Nat) : Insn := { d := 7, a := Fin.ofNat 16 a, b := 5, imm := BitVec.ofNat 32 (e + 0x4300) }
def wx : Insn := { wf 3 0 with modi := 1 }
def fr (s : State) (w : Insn) (op : Nat) : Except Nat (Option (List Byte) × Option Nat) :=
  let x := cxt s
  (s.fmtEntry x (immBits w 0 6)).apply op (x.sr (immBits w 8 3)) (x.sr (immBits w 12 3)) (x.vr w.a) (x.vr w.b) (x.bufBytes (x.desc.param % 4096) 10)
def eOf (s : State) (w : Insn) (op : Nat) : Nat := match fr s w op with | .ok _ => 999 | .error e => e
def noFmt (w : Insn) : State := let s := st 5 2 w; { s with ci := { s.ci with fmt := [] } }
/-- A block to build from a PAN that is not received yet. -/
def waiting (w : Insn) : State := working 5 4 w { dIn with inLen := 9000 } { x0 with ip := 5000, input := [] }
def wD (e : Nat) (ka : Fin 4) : Insn := { d := 2, kd := 3, ka, a := 4, b := 5, imm := BitVec.ofNat 32 e }
def e7 : List Byte := fitBytes 128 ([1, 7, 2, 0, 16, 32, 1, 0, 0, 0] ++ zeros 6 ++ (List.range 32).map fun i => BitVec.ofNat 8 (0x40 + i))
def data (w : Insn) : State := { st 6 1 w with sq.derTab := [(70, e7)] }
def noLanes (w : Insn) : State := let s := st 6 0 w; { s with ci := { s.ci with lanes := [], hash := [] } }
def noQuota (w : Insn) : State := (st 6 0 w).updPart 1 fun x => { x with ephQuota := 0 }
/-- A mean of no dummy rounds, shuffling off, and a key slot that holds its key. -/
def yH : KeySlot := { y2 with held := { value := y2.key.material, mask := zeros 32 } }
def calm (s : State) : State := ((s.updCtx 64 fun x => { x with keys := x.keys.set 0 (some yH) }).set R.CC0_DMEAN 0).set R.CC0_SHUF_EN 0
theorem derives : isOk ((calm (noQuota (wD 2 0))).deriveTwins 1 ((calm (noQuota (wD 2 0))).derEntry (cxt (calm (noQuota (wD 2 0)))) (immBits (wD 2 0) 0 7)) none
    ((calm (noQuota (wD 2 0))).wires 1 yH) ((cxt (calm (noQuota (wD 2 0)))).vr 4) ((cxt (calm (noQuota (wD 2 0)))).vr 5)) = true := by decide +kernel
def wDo : Insn := { imm := 0x00001000 }
def sAll : State := (st 11 0 wDo).updQp 1 0 fun q => { q with intEn := true, cqTail := 15 }
def spent (s : State) : State := s.updCtx 64 fun x => { x with retired := 2 ^ 40 }
def res (n : Nat) : Resident := { slot := 0x100 + n, commits := 0, lines := 128 }
/-- A context waits for its program's lines; `rs` are resident in its cluster. -/
def sFill (rs : List Resident) : State := { sAll.updCtx 64 fun x => { x with wait := .cacheFill, imageCommits := 0 } with sq.cache := [(1, rs)] }
/-- `sFill` where two contexts run the resident programs. -/
def sBusy : State := ((sFill [res 1, res 2]).setCtx 65 { cmd := some { c1 with desc := { d1 with program := 0x101 } } }).setCtx 66 { cmd := some { c1 with desc := { d1 with program := 0x102 } } }
def yS : KeySlot := { y2 with stamp := [7], field := 2 }
def sFh : State := { sAll.updCtx 64 fun x => { x with keys := [some y2, some yS, none, none] } with quartz := 5000, ge.fences := [{ line := 7, raised := 1000, ctx := none }] }

theorem test_hypotheses_FormatInstructionsApplyTheEntry :
    (∃ (i : Instr) (op : Nat) (c : Ctx) (w : Insn) (twinOk : Bool) (x : Machine.Context) (s : Machine.State), fmtInstr i = some (op, c, w, twinOk) ∧ s.readyCtx (ctxKey c) 5 op w = some x ∧ (s.fmtEntry x (immBits w 0 6)).kind = 0) ∧
    (∃ (i : Instr) (op : Nat) (c : Ctx) (w : Insn) (twinOk : Bool) (x : Machine.Context) (s : Machine.State), fmtInstr i = some (op, c, w, twinOk) ∧ s.readyCtx (ctxKey c) 5 op w = some x ∧ (s.fmtEntry x (immBits w 0 6)).kind ≠ 0 ∧ (s.fmtUnit ↑c.cc).inService = false) ∧
    (∃ (i : Instr) (op : Nat) (c : Ctx) (w : Insn) (twinOk : Bool) (x : Machine.Context) (s : Machine.State), fmtInstr i = some (op, c, w, twinOk) ∧ s.readyCtx (ctxKey c) 5 op w = some x ∧ (s.fmtEntry x (immBits w 0 6)).kind ≠ 0 ∧ (s.fmtUnit ↑c.cc).inService = true ∧ op = 4 ∧ (s.fmtEntry x (immBits w 0 6)).folds = true ∧ x.has (x.chunkBase + 4096) = false) ∧
    (∃ (i : Instr) (op : Nat) (c : Ctx) (w : Insn) (twinOk : Bool) (x : Machine.Context) (s : Machine.State), fmtInstr i = some (op, c, w, twinOk) ∧ s.readyCtx (ctxKey c) 5 op w = some x ∧ (s.fmtEntry x (immBits w 0 6)).kind ≠ 0 ∧ (s.fmtUnit ↑c.cc).inService = true ∧ (op ≠ 4 ∨ (s.fmtEntry x (immBits w 0 6)).folds = false ∨ x.has (x.chunkBase + 4096) = true) ∧ twinOk = false) ∧
    (∃ (i : Instr) (op : Nat) (c : Ctx) (w : Insn) (twinOk : Bool) (x : Machine.Context) (s : Machine.State) (d : Option (List Byte)) (len : Option Nat), fmtInstr i = some (op, c, w, twinOk) ∧ s.readyCtx (ctxKey c) 5 op w = some x ∧ (s.fmtEntry x (immBits w 0 6)).kind ≠ 0 ∧ (s.fmtUnit ↑c.cc).inService = true ∧ (op ≠ 4 ∨ (s.fmtEntry x (immBits w 0 6)).folds = false ∨ x.has (x.chunkBase + 4096) = true) ∧ twinOk = true ∧ (s.fmtEntry x (immBits w 0 6)).apply op (x.sr (immBits w 8 3)) (x.sr (immBits w 12 3)) (x.vr ↑w.a) (x.vr ↑w.b) (x.bufBytes (x.desc.param % 4096) 10) = Except.ok (d, len)) ∧
    (∃ (i : Instr) (op : Nat) (c : Ctx) (w : Insn) (twinOk : Bool) (x : Machine.Context) (s : Machine.State) (code : Nat), fmtInstr i = some (op, c, w, twinOk) ∧ s.readyCtx (ctxKey c) 5 op w = some x ∧ (s.fmtEntry x (immBits w 0 6)).kind ≠ 0 ∧ (s.fmtUnit ↑c.cc).inService = true ∧ (op ≠ 4 ∨ (s.fmtEntry x (immBits w 0 6)).folds = false ∨ x.has (x.chunkBase + 4096) = true) ∧ twinOk = true ∧ (s.fmtEntry x (immBits w 0 6)).apply op (x.sr (immBits w 8 3)) (x.sr (immBits w 12 3)) (x.vr ↑w.a) (x.vr ↑w.b) (x.bufBytes (x.desc.param % 4096) 10) = Except.error code ∧ modBit w 0 = true) ∧
    (∃ (i : Instr) (op : Nat) (c : Ctx) (w : Insn) (twinOk : Bool) (x : Machine.Context) (s : Machine.State) (code : Nat), fmtInstr i = some (op, c, w, twinOk) ∧ s.readyCtx (ctxKey c) 5 op w = some x ∧ (s.fmtEntry x (immBits w 0 6)).kind ≠ 0 ∧ (s.fmtUnit ↑c.cc).inService = true ∧ (op ≠ 4 ∨ (s.fmtEntry x (immBits w 0 6)).folds = false ∨ x.has (x.chunkBase + 4096) = true) ∧ twinOk = true ∧ (s.fmtEntry x (immBits w 0 6)).apply op (x.sr (immBits w 8 3)) (x.sr (immBits w 12 3)) (x.vr ↑w.a) (x.vr ↑w.b) (x.bufBytes (x.desc.param % 4096) 10) = Except.error code ∧ modBit w 0 = false) :=
  ⟨⟨.decimalise cx (wf 3 40) true, 5, cx, wf 3 40, true, cxt (st 5 5 (wf 3 40)), st 5 5 (wf 3 40), by decide +kernel⟩,
   ⟨.buildPin cx (wf 3 0) true, 2, cx, wf 3 0, true, cxt (noFmt (wf 3 0)), noFmt (wf 3 0), by decide +kernel⟩,
   ⟨.buildBlock cx (wf 3 0) true, 4, cx, wf 3 0, true, cxt (waiting (wf 3 0)), waiting (wf 3 0), by decide +kernel⟩,
   ⟨.buildPin cx (wf 3 0) false, 2, cx, wf 3 0, false, cxt (st 5 2 (wf 3 0)), st 5 2 (wf 3 0), by decide +kernel⟩,
   ⟨.buildPin cx (wf 3 0) true, 2, cx, wf 3 0, true, cxt (st 5 2 (wf 3 0)), st 5 2 (wf 3 0), (okv (fr (st 5 2 (wf 3 0)) (wf 3 0) 2)).1, (okv (fr (st 5 2 (wf 3 0)) (wf 3 0) 2)).2, by decide +kernel⟩,
   ⟨.fmtExtract cx wx true, 1, cx, wx, true, cxt (st 5 1 wx), st 5 1 wx, eOf (st 5 1 wx) wx 1, by decide +kernel⟩,
   ⟨.fmtCheck cx (wf 3 0) true, 0, cx, wf 3 0, true, cxt (st 5 0 (wf 3 0)), st 5 0 (wf 3 0), eOf (st 5 0 (wf 3 0)) (wf 3 0) 0, by decide +kernel⟩⟩

theorem test_hypotheses_DeriveAndRandWriteTheirValues :
    (∃ (i : Instr) (op : Nat) (c : Ctx) (w : Insn) (twin : Option (Fin 6)) (x : Machine.Context) (s : Machine.State), (i = Instr.deriveKey c w twin ∧ op = 0 ∨ i = Instr.deriveData c w twin ∧ op = 1) ∧ s.readyCtx (ctxKey c) 6 op w = some x ∧ ((s.derEntry x (immBits w 0 7)).kind = 0 ∨ op = 0 ∧ (s.derEntry x (immBits w 0 7)).kind = 7 ∨ op = 1 ∧ (s.derEntry x (immBits w 0 7)).kind ≠ 7)) ∧
    (∃ (i : Instr) (op : Nat) (c : Ctx) (w : Insn) (twin : Option (Fin 6)) (x : Machine.Context) (s : Machine.State), (i = Instr.deriveKey c w twin ∧ op = 0 ∨ i = Instr.deriveData c w twin ∧ op = 1) ∧ s.readyCtx (ctxKey c) 6 op w = some x ∧ (s.derEntry x (immBits w 0 7)).kind ≠ 0 ∧ (op = 0 ∧ (s.derEntry x (immBits w 0 7)).kind ≠ 7 ∨ op = 1 ∧ (s.derEntry x (immBits w 0 7)).kind = 7) ∧ x.slot ↑w.ka = none) ∧
    (∃ (i : Instr) (op : Nat) (c : Ctx) (w : Insn) (twin : Option (Fin 6)) (x : Machine.Context) (s : Machine.State) (y : KeySlot), (i = Instr.deriveKey c w twin ∧ op = 0 ∨ i = Instr.deriveData c w twin ∧ op = 1) ∧ s.readyCtx (ctxKey c) 6 op w = some x ∧ (s.derEntry x (immBits w 0 7)).kind ≠ 0 ∧ (op = 0 ∧ (s.derEntry x (immBits w 0 7)).kind ≠ 7 ∨ op = 1 ∧ (s.derEntry x (immBits w 0 7)).kind = 7) ∧ x.slot ↑w.ka = some y ∧ (s.derEntry x (immBits w 0 7)).fits y.key = false) ∧
    (∃ (i : Instr) (op : Nat) (c : Ctx) (w : Insn) (twin : Option (Fin 6)) (x : Machine.Context) (s : Machine.State) (y : KeySlot) (u : Nat), (i = Instr.deriveKey c w twin ∧ op = 0 ∨ i = Instr.deriveData c w twin ∧ op = 1) ∧ s.readyCtx (ctxKey c) 6 op w = some x ∧ (s.derEntry x (immBits w 0 7)).kind ≠ 0 ∧ (op = 0 ∧ (s.derEntry x (immBits w 0 7)).kind ≠ 7 ∨ op = 1 ∧ (s.derEntry x (immBits w 0 7)).kind = 7) ∧ x.slot ↑w.ka = some y ∧ (s.derEntry x (immBits w 0 7)).fits y.key = true ∧ s.deriveBlocked (↑c.cc) (s.derEntry x (immBits w 0 7)) = some u) ∧
    (∃ (i : Instr) (op : Nat) (c : Ctx) (w : Insn) (twin : Option (Fin 6)) (x : Machine.Context) (s : Machine.State) (y : KeySlot), (i = Instr.deriveKey c w twin ∧ op = 0 ∨ i = Instr.deriveData c w twin ∧ op = 1) ∧ s.readyCtx (ctxKey c) 6 op w = some x ∧ (s.derEntry x (immBits w 0 7)).kind ≠ 0 ∧ (op = 0 ∧ (s.derEntry x (immBits w 0 7)).kind ≠ 7 ∨ op = 1 ∧ (s.derEntry x (immBits w 0 7)).kind = 7) ∧ x.slot ↑w.ka = some y ∧ (s.derEntry x (immBits w 0 7)).fits y.key = true ∧ s.deriveBlocked (↑c.cc) (s.derEntry x (immBits w 0 7)) = none ∧ carries s (↑c.cc) y ∧ ((s.derEntry x (immBits w 0 7)).blocks = 0 ∨ y.key.cls = 1 ∨ y.key.cls = 2)) ∧
    (∃ (i : Instr) (op : Nat) (c : Ctx) (w : Insn) (twin : Option (Fin 6)) (x : Machine.Context) (s : Machine.State) (y : KeySlot) (u : Nat), (i = Instr.deriveKey c w twin ∧ op = 0 ∨ i = Instr.deriveData c w twin ∧ op = 1) ∧ s.readyCtx (ctxKey c) 6 op w = some x ∧ (s.derEntry x (immBits w 0 7)).kind ≠ 0 ∧ (op = 0 ∧ (s.derEntry x (immBits w 0 7)).kind ≠ 7 ∨ op = 1 ∧ (s.derEntry x (immBits w 0 7)).kind = 7) ∧ x.slot ↑w.ka = some y ∧ (s.derEntry x (immBits w 0 7)).fits y.key = true ∧ s.deriveBlocked (↑c.cc) (s.derEntry x (immBits w 0 7)) = none ∧ s.deriveTwins (↑c.cc) (s.derEntry x (immBits w 0 7)) (Option.map (fun x => ↑x) twin) (s.wires (↑c.cc) y) (x.vr ↑w.a) (x.vr ↑w.b) = Except.error u) ∧
    (∃ (i : Instr) (op : Nat) (c : Ctx) (w : Insn) (twin : Option (Fin 6)) (x : Machine.Context) (s : Machine.State) (y : KeySlot) (m : List Byte), (i = Instr.deriveKey c w twin ∧ op = 0 ∨ i = Instr.deriveData c w twin ∧ op = 1) ∧ s.readyCtx (ctxKey c) 6 op w = some x ∧ (s.derEntry x (immBits w 0 7)).kind ≠ 0 ∧ (op = 0 ∧ (s.derEntry x (immBits w 0 7)).kind ≠ 7 ∨ op = 1 ∧ (s.derEntry x (immBits w 0 7)).kind = 7) ∧ x.slot ↑w.ka = some y ∧ (s.derEntry x (immBits w 0 7)).fits y.key = true ∧ s.deriveBlocked (↑c.cc) (s.derEntry x (immBits w 0 7)) = none ∧ s.deriveTwins (↑c.cc) (s.derEntry x (immBits w 0 7)) (Option.map (fun x => ↑x) twin) (s.wires (↑c.cc) y) (x.vr ↑w.a) (x.vr ↑w.b) = Except.ok m) ∧
    (∃ (c : Ctx) (w : Insn) (x : Machine.Context) (s : Machine.State), s.readyCtx (ctxKey c) 10 0 w = some x) :=
  ⟨⟨.deriveKey cx (wD 71 0) none, 0, cx, wD 71 0, none, cxt (st 6 0 (wD 71 0)), st 6 0 (wD 71 0), by decide +kernel⟩,
   ⟨.deriveKey cx (wD 2 2) none, 0, cx, wD 2 2, none, cxt (st 6 0 (wD 2 2)), st 6 0 (wD 2 2), by decide +kernel⟩,
   ⟨.deriveKey cx (wD 2 1) none, 0, cx, wD 2 1, none, cxt (st 6 0 (wD 2 1)), st 6 0 (wD 2 1), slotOf 1 16, by decide +kernel⟩,
   ⟨.deriveKey cx (wD 2 0) none, 0, cx, wD 2 0, none, cxt (noLanes (wD 2 0)), noLanes (wD 2 0), y2, ((noLanes (wD 2 0)).deriveBlocked 1 ((noLanes (wD 2 0)).derEntry (cxt (noLanes (wD 2 0))) 2)).getD 9, by decide +kernel⟩,
   ⟨.deriveData cx (wD 70 0) none, 1, cx, wD 70 0, none, cxt (calm (data (wD 70 0))), calm (data (wD 70 0)), yH, by decide +kernel⟩,
   ⟨.deriveKey cx (wD 2 0) (some 5), 0, cx, wD 2 0, some 5, cxt (calm (st 6 0 (wD 2 0))), calm (st 6 0 (wD 2 0)), yH, 5, by decide +kernel⟩,
   ⟨.deriveKey cx (wD 2 0) none, 0, cx, wD 2 0, none, cxt (calm (noQuota (wD 2 0))), calm (noQuota (wD 2 0)), yH, okOf _ derives, (by (iterate 7 refine ⟨by decide +kernel, ?_⟩); exact eq_okOf _ derives)⟩,
   ⟨cx, { d := 2, imm := 31 }, cxt (st 10 0 { d := 2, imm := 31 }), (st 10 0 { d := 2, imm := 31 }), by decide +kernel⟩⟩

theorem test_hypotheses_CommandsEndWithTheirCompletion :
    (∃ (c : Ctx) (w : Insn) (x : Machine.Context) (s : Machine.State), s.readyCtx (ctxKey c) 11 0 w = some x ∧ doneAllowed w.imm.toNat = false) ∧
    (∃ (c : Ctx) (w : Insn) (x : Machine.Context) (s : Machine.State), s.readyCtx (ctxKey c) 11 0 w = some x ∧ doneAllowed w.imm.toNat = true) ∧
    (∃ (k : Nat) (s : Machine.State) (j : Nat), (s.ctx k).cmd ≠ none ∧ s.movedOps (clusterOf k) = [] ∧ j ≠ k) ∧
    (∃ (k : Nat) (st : Nat) (c : Cmd) (f : Func) (s : Machine.State), (s.ctx k).cmd = some c ∧ c.peer = none ∧ (s.ctx k).delta = none ∧ (s.qp c.part c.qp).qstate = QState.active ∧ s.qpFunc c.part c.qp = some f ∧ refusing st = false) ∧
    (∃ (e : Ending), refusing e.status = true) :=
  ⟨⟨cx, { imm := 0x7F }, cxt (st 11 0 { imm := 0x7F }), (st 11 0 { imm := 0x7F }), by decide +kernel⟩,
   ⟨cx, wDo, cxt (st 11 0 wDo), (st 11 0 wDo), by decide +kernel⟩,
   ⟨64, sAll, 65, by decide +kernel⟩,
   ⟨64, 0, { c1 with desc := dIn }, .vf 0 0, sAll, by decide +kernel⟩,
   ⟨{ status := stBusyRetry }, by decide +kernel⟩⟩

theorem test_hypotheses_SequencerWatchersAct :
    (∃ (c : Ctx) (s : Machine.State), (s.ctx (ctxKey c)).cmd ≠ none ∧ s.budget ≤ (s.ctx (ctxKey c)).retired ∧ s.orphanField (s.ctx (ctxKey c)) = none) ∧
    (∃ (c : Ctx) (s : Machine.State) (f : Nat), (s.ctx (ctxKey c)).cmd ≠ none ∧ s.budget ≤ (s.ctx (ctxKey c)).retired ∧ s.orphanField (s.ctx (ctxKey c)) = some f) ∧
    (∃ (c : Ctx) (s : Machine.State), (s.ctx (ctxKey c)).cmd ≠ none ∧ (s.ctx (ctxKey c)).retired < s.budget) ∧
    (∃ (n : Fin 16) (s : Machine.State), reachable s (pgSEQ ↑n)) ∧
    (∃ (n : Fin 16) (s : Machine.State), s.responds (pgSEQ ↑n) = false) ∧
    (∃ (s : Machine.State), reachable s (pgSEQ 0)) ∧
    (∃ (s : Machine.State), s.responds (pgSEQ 0) = false) ∧
    (∃ (c : Ctx) (s : Machine.State), (s.ctx (ctxKey c)).cmd ≠ none ∧ (s.ctx (ctxKey c)).wait = Wait.cacheFill ∧ s.readFails (programBase + 4096 * runSlot (s.ctx (ctxKey c)).desc.program) (imageBytes (s.ctx (ctxKey c)).image) = false ∧ ((s.residents ↑c.cc).any fun q => q.slot == ({ slot := runSlot (s.ctx (ctxKey c)).desc.program, commits := (s.ctx (ctxKey c)).imageCommits, lines := imageLines (s.ctx (ctxKey c)).image, used := s.lastUse (↑c.cc) (runSlot (s.ctx (ctxKey c)).desc.program) (s.ctx (ctxKey c)).imageCommits } : Resident).slot && q.commits == ({ slot := runSlot (s.ctx (ctxKey c)).desc.program, commits := (s.ctx (ctxKey c)).imageCommits, lines := imageLines (s.ctx (ctxKey c)).image, used := s.lastUse (↑c.cc) (runSlot (s.ctx (ctxKey c)).desc.program) (s.ctx (ctxKey c)).imageCommits } : Resident).commits) = true) ∧
    (∃ (c : Ctx) (s : Machine.State), (s.ctx (ctxKey c)).cmd ≠ none ∧ (s.ctx (ctxKey c)).wait = Wait.cacheFill ∧ s.readFails (programBase + 4096 * runSlot (s.ctx (ctxKey c)).desc.program) (imageBytes (s.ctx (ctxKey c)).image) = false ∧ ((s.residents ↑c.cc).any fun q => q.slot == ({ slot := runSlot (s.ctx (ctxKey c)).desc.program, commits := (s.ctx (ctxKey c)).imageCommits, lines := imageLines (s.ctx (ctxKey c)).image, used := s.lastUse (↑c.cc) (runSlot (s.ctx (ctxKey c)).desc.program) (s.ctx (ctxKey c)).imageCommits } : Resident).slot && q.commits == ({ slot := runSlot (s.ctx (ctxKey c)).desc.program, commits := (s.ctx (ctxKey c)).imageCommits, lines := imageLines (s.ctx (ctxKey c)).image, used := s.lastUse (↑c.cc) (runSlot (s.ctx (ctxKey c)).desc.program) (s.ctx (ctxKey c)).imageCommits } : Resident).commits) = false ∧ evictFor (fun q => s.runsResident (↑c.cc) q || (List.map runSlot s.honoured).contains q.slot) ({ slot := runSlot (s.ctx (ctxKey c)).desc.program, commits := (s.ctx (ctxKey c)).imageCommits, lines := imageLines (s.ctx (ctxKey c)).image, used := s.lastUse (↑c.cc) (runSlot (s.ctx (ctxKey c)).desc.program) (s.ctx (ctxKey c)).imageCommits } : Resident).lines [] (s.residents ↑c.cc) = none) ∧
    (∃ (c : Ctx) (s : Machine.State) (kept : List Resident) (q : Resident), (s.ctx (ctxKey c)).cmd ≠ none ∧ (s.ctx (ctxKey c)).wait = Wait.cacheFill ∧ s.readFails (programBase + 4096 * runSlot (s.ctx (ctxKey c)).desc.program) (imageBytes (s.ctx (ctxKey c)).image) = false ∧ ((s.residents ↑c.cc).any fun q => q.slot == ({ slot := runSlot (s.ctx (ctxKey c)).desc.program, commits := (s.ctx (ctxKey c)).imageCommits, lines := imageLines (s.ctx (ctxKey c)).image, used := s.lastUse (↑c.cc) (runSlot (s.ctx (ctxKey c)).desc.program) (s.ctx (ctxKey c)).imageCommits } : Resident).slot && q.commits == ({ slot := runSlot (s.ctx (ctxKey c)).desc.program, commits := (s.ctx (ctxKey c)).imageCommits, lines := imageLines (s.ctx (ctxKey c)).image, used := s.lastUse (↑c.cc) (runSlot (s.ctx (ctxKey c)).desc.program) (s.ctx (ctxKey c)).imageCommits } : Resident).commits) = false ∧ evictFor (fun q => s.runsResident (↑c.cc) q || (List.map runSlot s.honoured).contains q.slot) ({ slot := runSlot (s.ctx (ctxKey c)).desc.program, commits := (s.ctx (ctxKey c)).imageCommits, lines := imageLines (s.ctx (ctxKey c)).image, used := s.lastUse (↑c.cc) (runSlot (s.ctx (ctxKey c)).desc.program) (s.ctx (ctxKey c)).imageCommits } : Resident).lines [] (s.residents ↑c.cc) = some kept ∧ q ∈ s.residents ↑c.cc ∧ (s.runsResident (↑c.cc) q || (List.map runSlot s.honoured).contains q.slot) = true) ∧
    (∃ (c : Ctx) (macOk : Bool) (s : Machine.State), (s.ctx (ctxKey c)).cmd ≠ none ∧ (s.ctx (ctxKey c)).wait = Wait.cacheFill ∧ (macOk = false ∨ s.readFails (programBase + 4096 * runSlot (s.ctx (ctxKey c)).desc.program) (imageBytes (s.ctx (ctxKey c)).image) = true)) ∧
    (∃ (c : Ctx) (y : KeySlot) (s : Machine.State), (s.ctx (ctxKey c)).cmd ≠ none ∧ List.find? (fun y => s.ge.fences.any fun f => List.contains y.stamp f.line && decide (f.raised + 3000 ≤ s.quartz)) (List.filterMap id (s.ctx (ctxKey c)).keys) = some y) :=
  ⟨⟨cx, spent sAll, by decide +kernel⟩,
   ⟨cx, spent sFh, 2, by decide +kernel⟩,
   ⟨cx, sAll, by decide +kernel⟩,
   ⟨1, sAll, by decide +kernel⟩,
   ⟨1, State.reset, by decide +kernel⟩,
   ⟨sAll, by decide +kernel⟩,
   ⟨State.reset, by decide +kernel⟩,
   ⟨cx, sFill [{ res 0 with lines := 3 }], by decide +kernel⟩,
   ⟨cx, sBusy, by decide +kernel⟩,
   ⟨cx, (sBusy.setCtx 66 {}), [res 1], res 1, by decide +kernel⟩,
   ⟨cx, false, sFill [], by decide +kernel⟩,
   ⟨cx, yS, sFh, by decide +kernel⟩⟩

end T06

namespace T06c

def vs : List (List Byte) := (List.range 16).map fun i => (List.range 16).map fun j => BitVec.ofNat 8 (16 * i + j)
def ss : List Word := [0x02100005, 0x10, 3, 40, 6, 0x80, 8, 0]
def ySig : KeySlot := { slotOf 4 97 with key := { (slotOf 4 97).key with ktype := .priv, sel := 0 } }
def x0 : Context := { v := vs, sreg := ss, ip := 3, op := 5, input := zeros 256, keys := [some (slotOf 2 32), some (slotOf 1 16), some ySig, none] }
def dIn : Descriptor := { d1 with inInline := false, inLen := 256, outLen := 4000, outInline := false, outAddr := 0x10000 }
def cxt (s : State) : Context := s.ctx 64
def wK : Insn := { d := 0, a := 4, imm := 0x400001 }
def wS : Insn := { d := 0, a := 4, ka := 2, imm := 0x310002 }
def sP (w : Insn) : State := working 9 0 w dIn x0
def few (w : Insn) : State := working 9 0 w dIn { x0 with input := [1, 2] }
/-- The source of an RSA key generation whose exponent is even. -/
def even (w : Insn) : State := working 9 0 w { dIn with inLen := 6 } { x0 with ip := 0, input := [0, 8, 0, 0, 0, 2] }
def wR : Insn := { d := 0, b := 4, modi := 1, imm := 0xF00016 }
def noPk (last : Option Nat) (w : Insn) : State := let s := (sP w).set R.GBL_PK_INSERVICE 0; { s with pk := { s.pk with lastOut := last } }
def fullPk (w : Insn) : State := let s := sP w; { s with pk := { s.pk with queues := (List.range 16).map fun i => (i, List.replicate 64 { word := ⟨2, 2, false, false⟩ }) } }
def dry (w : Insn) : State := { sP w with fl.queues := [] }
def vOf (s : State) (w : Insn) : PkWord := (cxt s).pkWord w

theorem test_hypotheses_PkxHandsItsOperationOff :
    (∃ (i : Instr) (oper : Nat) (c : Ctx) (w : Insn), pkxInstr i = some (oper, c, w) ∧ immBits w 0 6 = oper ∧ pkxReserved w = true) ∧
    (∃ (i : Instr) (oper : Nat) (c : Ctx) (w : Insn) (x : Machine.Context) (s : Machine.State), pkxInstr i = some (oper, c, w) ∧ immBits w 0 6 = oper ∧ pkxReserved w = false ∧ s.readyCtx (ctxKey c) 9 0 w = some x ∧ modBit w 0 = true ∧ x.has (x.ip + (x.sr ↑w.b - x.gathered.length)) = false) ∧
    (∃ (i : Instr) (oper : Nat) (c : Ctx) (w : Insn) (x : Machine.Context) (s : Machine.State), pkxInstr i = some (oper, c, w) ∧ immBits w 0 6 = oper ∧ pkxReserved w = false ∧ s.readyCtx (ctxKey c) 9 0 w = some x ∧ (modBit w 0 = false ∨ x.has (x.ip + (x.sr ↑w.b - x.gathered.length)) = true) ∧ (x.pkWord w).usesKey = true ∧ x.slot ↑w.ka = none) ∧
    (∃ (i : Instr) (oper : Nat) (c : Ctx) (w : Insn) (x : Machine.Context) (s : Machine.State) (y : KeySlot), pkxInstr i = some (oper, c, w) ∧ immBits w 0 6 = oper ∧ pkxReserved w = false ∧ s.readyCtx (ctxKey c) 9 0 w = some x ∧ (modBit w 0 = false ∨ x.has (x.ip + (x.sr ↑w.b - x.gathered.length)) = true) ∧ (x.pkWord w).usesKey = true ∧ x.slot ↑w.ka = some y ∧ s.pkFits (x.pkWord w) y.key = false) ∧
    (∃ (i : Instr) (oper : Nat) (c : Ctx) (w : Insn) (x : Machine.Context) (s : Machine.State) (y : Option KeySlot), pkxInstr i = some (oper, c, w) ∧ immBits w 0 6 = oper ∧ pkxReserved w = false ∧ s.readyCtx (ctxKey c) 9 0 w = some x ∧ (modBit w 0 = false ∨ x.has (x.ip + (x.sr ↑w.b - x.gathered.length)) = true) ∧ if (x.pkWord w).usesKey = true then x.slot ↑w.ka = y ∧ Option.any (fun z => s.pkFits (x.pkWord w) z.key) y = true else y = none ∧ (x.pkWord w).lengthsKnown = false) ∧
    (∃ (i : Instr) (oper : Nat) (c : Ctx) (w : Insn) (x : Machine.Context) (s : Machine.State) (y : Option KeySlot), pkxInstr i = some (oper, c, w) ∧ immBits w 0 6 = oper ∧ pkxReserved w = false ∧ s.readyCtx (ctxKey c) 9 0 w = some x ∧ (modBit w 0 = false ∨ x.has (x.ip + (x.sr ↑w.b - x.gathered.length)) = true) ∧ if (x.pkWord w).usesKey = true then x.slot ↑w.ka = y ∧ Option.any (fun z => s.pkFits (x.pkWord w) z.key) y = true else y = none ∧ (x.pkWord w).lengthsKnown = true ∧ pkTake (x.pkWord w) (Option.map (fun x => x.key) y) (if (x.pkWord w).isEc = true then curveOf (pkSel (x.pkWord w) (Option.map (fun x => x.key) y)) (s.curveEntry (pkSel (x.pkWord w) (Option.map (fun x => x.key) y))) else none) (modBit w 0) (if modBit w 0 = true then x.gathered ++ x.inBytes x.ip (x.sr ↑w.b - x.gathered.length) else x.vRange (↑w.a) (immBits w 16 4 + 1)) = none) ∧
    (∃ (i : Instr) (oper : Nat) (c : Ctx) (w : Insn) (x : Machine.Context) (s : Machine.State) (y : Option KeySlot) (src : List Byte), pkxInstr i = some (oper, c, w) ∧ immBits w 0 6 = oper ∧ pkxReserved w = false ∧ s.readyCtx (ctxKey c) 9 0 w = some x ∧ (modBit w 0 = false ∨ x.has (x.ip + (x.sr ↑w.b - x.gathered.length)) = true) ∧ if (x.pkWord w).usesKey = true then x.slot ↑w.ka = y ∧ Option.any (fun z => s.pkFits (x.pkWord w) z.key) y = true else y = none ∧ (x.pkWord w).lengthsKnown = true ∧ pkTake (x.pkWord w) (Option.map (fun x => x.key) y) (if (x.pkWord w).isEc = true then curveOf (pkSel (x.pkWord w) (Option.map (fun x => x.key) y)) (s.curveEntry (pkSel (x.pkWord w) (Option.map (fun x => x.key) y))) else none) (modBit w 0) (if modBit w 0 = true then x.gathered ++ x.inBytes x.ip (x.sr ↑w.b - x.gathered.length) else x.vRange (↑w.a) (immBits w 16 4 + 1)) = some src ∧ (¬(modBit w 1 = true ∨ pkResultLen (x.pkWord w) (Option.map (fun x => x.key) y) (if (x.pkWord w).isEc = true then curveOf (pkSel (x.pkWord w) (Option.map (fun x => x.key) y)) (s.curveEntry (pkSel (x.pkWord w) (Option.map (fun x => x.key) y))) else none) src ≤ 16 * (immBits w 20 4 + 1)))) ∧
    (∃ (i : Instr) (oper : Nat) (c : Ctx) (w : Insn) (x : Machine.Context) (s : Machine.State) (y : Option KeySlot) (src : List Byte), pkxInstr i = some (oper, c, w) ∧ immBits w 0 6 = oper ∧ pkxReserved w = false ∧ s.readyCtx (ctxKey c) 9 0 w = some x ∧ (modBit w 0 = false ∨ x.has (x.ip + (x.sr ↑w.b - x.gathered.length)) = true) ∧ if (x.pkWord w).usesKey = true then x.slot ↑w.ka = y ∧ Option.any (fun z => s.pkFits (x.pkWord w) z.key) y = true else y = none ∧ (x.pkWord w).lengthsKnown = true ∧ pkTake (x.pkWord w) (Option.map (fun x => x.key) y) (if (x.pkWord w).isEc = true then curveOf (pkSel (x.pkWord w) (Option.map (fun x => x.key) y)) (s.curveEntry (pkSel (x.pkWord w) (Option.map (fun x => x.key) y))) else none) (modBit w 0) (if modBit w 0 = true then x.gathered ++ x.inBytes x.ip (x.sr ↑w.b - x.gathered.length) else x.vRange (↑w.a) (immBits w 16 4 + 1)) = some src ∧ (modBit w 1 = true ∨ pkResultLen (x.pkWord w) (Option.map (fun x => x.key) y) (if (x.pkWord w).isEc = true then curveOf (pkSel (x.pkWord w) (Option.map (fun x => x.key) y)) (s.curveEntry (pkSel (x.pkWord w) (Option.map (fun x => x.key) y))) else none) src ≤ 16 * (immBits w 20 4 + 1)) ∧ (x.pkWord w).encodingOk = false) ∧
    (∃ (i : Instr) (oper : Nat) (c : Ctx) (w : Insn) (x : Machine.Context) (s : Machine.State) (y : Option KeySlot) (src : List Byte), pkxInstr i = some (oper, c, w) ∧ immBits w 0 6 = oper ∧ pkxReserved w = false ∧ s.readyCtx (ctxKey c) 9 0 w = some x ∧ (modBit w 0 = false ∨ x.has (x.ip + (x.sr ↑w.b - x.gathered.length)) = true) ∧ if (x.pkWord w).usesKey = true then x.slot ↑w.ka = y ∧ Option.any (fun z => s.pkFits (x.pkWord w) z.key) y = true else y = none ∧ (x.pkWord w).lengthsKnown = true ∧ pkTake (x.pkWord w) (Option.map (fun x => x.key) y) (if (x.pkWord w).isEc = true then curveOf (pkSel (x.pkWord w) (Option.map (fun x => x.key) y)) (s.curveEntry (pkSel (x.pkWord w) (Option.map (fun x => x.key) y))) else none) (modBit w 0) (if modBit w 0 = true then x.gathered ++ x.inBytes x.ip (x.sr ↑w.b - x.gathered.length) else x.vRange (↑w.a) (immBits w 16 4 + 1)) = some src ∧ (modBit w 1 = true ∨ pkResultLen (x.pkWord w) (Option.map (fun x => x.key) y) (if (x.pkWord w).isEc = true then curveOf (pkSel (x.pkWord w) (Option.map (fun x => x.key) y)) (s.curveEntry (pkSel (x.pkWord w) (Option.map (fun x => x.key) y))) else none) src ≤ 16 * (immBits w 20 4 + 1)) ∧ (x.pkWord w).encodingOk = true ∧ rsaMalformed (x.pkWord w) src = true) ∧
    (∃ (i : Instr) (oper : Nat) (c : Ctx) (w : Insn) (x : Machine.Context) (s : Machine.State) (y : Option KeySlot) (src : List Byte), pkxInstr i = some (oper, c, w) ∧ immBits w 0 6 = oper ∧ pkxReserved w = false ∧ s.readyCtx (ctxKey c) 9 0 w = some x ∧ (modBit w 0 = false ∨ x.has (x.ip + (x.sr ↑w.b - x.gathered.length)) = true) ∧ if (x.pkWord w).usesKey = true then x.slot ↑w.ka = y ∧ Option.any (fun z => s.pkFits (x.pkWord w) z.key) y = true else y = none ∧ (x.pkWord w).lengthsKnown = true ∧ pkTake (x.pkWord w) (Option.map (fun x => x.key) y) (if (x.pkWord w).isEc = true then curveOf (pkSel (x.pkWord w) (Option.map (fun x => x.key) y)) (s.curveEntry (pkSel (x.pkWord w) (Option.map (fun x => x.key) y))) else none) (modBit w 0) (if modBit w 0 = true then x.gathered ++ x.inBytes x.ip (x.sr ↑w.b - x.gathered.length) else x.vRange (↑w.a) (immBits w 16 4 + 1)) = some src ∧ (modBit w 1 = true ∨ pkResultLen (x.pkWord w) (Option.map (fun x => x.key) y) (if (x.pkWord w).isEc = true then curveOf (pkSel (x.pkWord w) (Option.map (fun x => x.key) y)) (s.curveEntry (pkSel (x.pkWord w) (Option.map (fun x => x.key) y))) else none) src ≤ 16 * (immBits w 20 4 + 1)) ∧ (x.pkWord w).encodingOk = true ∧ rsaMalformed (x.pkWord w) src = false ∧ s.handTo (x.pkWord w).isLattice [] = Except.error none) ∧
    (∃ (i : Instr) (oper : Nat) (c : Ctx) (w : Insn) (x : Machine.Context) (s : Machine.State) (y : Option KeySlot) (src : List Byte) (det : Nat), pkxInstr i = some (oper, c, w) ∧ immBits w 0 6 = oper ∧ pkxReserved w = false ∧ s.readyCtx (ctxKey c) 9 0 w = some x ∧ (modBit w 0 = false ∨ x.has (x.ip + (x.sr ↑w.b - x.gathered.length)) = true) ∧ if (x.pkWord w).usesKey = true then x.slot ↑w.ka = y ∧ Option.any (fun z => s.pkFits (x.pkWord w) z.key) y = true else y = none ∧ (x.pkWord w).lengthsKnown = true ∧ pkTake (x.pkWord w) (Option.map (fun x => x.key) y) (if (x.pkWord w).isEc = true then curveOf (pkSel (x.pkWord w) (Option.map (fun x => x.key) y)) (s.curveEntry (pkSel (x.pkWord w) (Option.map (fun x => x.key) y))) else none) (modBit w 0) (if modBit w 0 = true then x.gathered ++ x.inBytes x.ip (x.sr ↑w.b - x.gathered.length) else x.vRange (↑w.a) (immBits w 16 4 + 1)) = some src ∧ (modBit w 1 = true ∨ pkResultLen (x.pkWord w) (Option.map (fun x => x.key) y) (if (x.pkWord w).isEc = true then curveOf (pkSel (x.pkWord w) (Option.map (fun x => x.key) y)) (s.curveEntry (pkSel (x.pkWord w) (Option.map (fun x => x.key) y))) else none) src ≤ 16 * (immBits w 20 4 + 1)) ∧ (x.pkWord w).encodingOk = true ∧ rsaMalformed (x.pkWord w) src = false ∧ s.handTo (x.pkWord w).isLattice [] = Except.error (some det)) ∧
    (∃ (i : Instr) (oper : Nat) (c : Ctx) (w : Insn) (x : Machine.Context) (s : Machine.State) (y : Option KeySlot) (src : List Byte) (p : Nat), pkxInstr i = some (oper, c, w) ∧ immBits w 0 6 = oper ∧ pkxReserved w = false ∧ s.readyCtx (ctxKey c) 9 0 w = some x ∧ (modBit w 0 = false ∨ x.has (x.ip + (x.sr ↑w.b - x.gathered.length)) = true) ∧ if (x.pkWord w).usesKey = true then x.slot ↑w.ka = y ∧ Option.any (fun z => s.pkFits (x.pkWord w) z.key) y = true else y = none ∧ (x.pkWord w).lengthsKnown = true ∧ pkTake (x.pkWord w) (Option.map (fun x => x.key) y) (if (x.pkWord w).isEc = true then curveOf (pkSel (x.pkWord w) (Option.map (fun x => x.key) y)) (s.curveEntry (pkSel (x.pkWord w) (Option.map (fun x => x.key) y))) else none) (modBit w 0) (if modBit w 0 = true then x.gathered ++ x.inBytes x.ip (x.sr ↑w.b - x.gathered.length) else x.vRange (↑w.a) (immBits w 16 4 + 1)) = some src ∧ (modBit w 1 = true ∨ pkResultLen (x.pkWord w) (Option.map (fun x => x.key) y) (if (x.pkWord w).isEc = true then curveOf (pkSel (x.pkWord w) (Option.map (fun x => x.key) y)) (s.curveEntry (pkSel (x.pkWord w) (Option.map (fun x => x.key) y))) else none) src ≤ 16 * (immBits w 20 4 + 1)) ∧ (x.pkWord w).encodingOk = true ∧ rsaMalformed (x.pkWord w) src = false ∧ s.handTo (x.pkWord w).isLattice [] = Except.ok p ∧ s.pkFull p (x.pkWord w).isLattice = true) ∧
    (∃ (i : Instr) (oper : Nat) (c : Ctx) (w : Insn) (x : Machine.Context) (s : Machine.State) (y : Option KeySlot) (src : List Byte) (p : Nat), pkxInstr i = some (oper, c, w) ∧ immBits w 0 6 = oper ∧ pkxReserved w = false ∧ s.readyCtx (ctxKey c) 9 0 w = some x ∧ (modBit w 0 = false ∨ x.has (x.ip + (x.sr ↑w.b - x.gathered.length)) = true) ∧ if (x.pkWord w).usesKey = true then x.slot ↑w.ka = y ∧ Option.any (fun z => s.pkFits (x.pkWord w) z.key) y = true else y = none ∧ (x.pkWord w).lengthsKnown = true ∧ pkTake (x.pkWord w) (Option.map (fun x => x.key) y) (if (x.pkWord w).isEc = true then curveOf (pkSel (x.pkWord w) (Option.map (fun x => x.key) y)) (s.curveEntry (pkSel (x.pkWord w) (Option.map (fun x => x.key) y))) else none) (modBit w 0) (if modBit w 0 = true then x.gathered ++ x.inBytes x.ip (x.sr ↑w.b - x.gathered.length) else x.vRange (↑w.a) (immBits w 16 4 + 1)) = some src ∧ (modBit w 1 = true ∨ pkResultLen (x.pkWord w) (Option.map (fun x => x.key) y) (if (x.pkWord w).isEc = true then curveOf (pkSel (x.pkWord w) (Option.map (fun x => x.key) y)) (s.curveEntry (pkSel (x.pkWord w) (Option.map (fun x => x.key) y))) else none) src ≤ 16 * (immBits w 20 4 + 1)) ∧ (x.pkWord w).encodingOk = true ∧ rsaMalformed (x.pkWord w) src = false ∧ s.handTo (x.pkWord w).isLattice [] = Except.ok p ∧ s.pkFull p (x.pkWord w).isLattice = false ∧ s.queueFill ↑c.cc < pkRandom (x.pkWord w) (Option.map (fun x => x.key) y) (if (x.pkWord w).isEc = true then curveOf (pkSel (x.pkWord w) (Option.map (fun x => x.key) y)) (s.curveEntry (pkSel (x.pkWord w) (Option.map (fun x => x.key) y))) else none) src) ∧
    (∃ (i : Instr) (oper : Nat) (c : Ctx) (w : Insn) (x : Machine.Context) (s : Machine.State) (y : Option KeySlot) (src : List Byte) (p : Nat), pkxInstr i = some (oper, c, w) ∧ immBits w 0 6 = oper ∧ pkxReserved w = false ∧ s.readyCtx (ctxKey c) 9 0 w = some x ∧ (modBit w 0 = false ∨ x.has (x.ip + (x.sr ↑w.b - x.gathered.length)) = true) ∧ if (x.pkWord w).usesKey = true then x.slot ↑w.ka = y ∧ Option.any (fun z => s.pkFits (x.pkWord w) z.key) y = true else y = none ∧ (x.pkWord w).lengthsKnown = true ∧ pkTake (x.pkWord w) (Option.map (fun x => x.key) y) (if (x.pkWord w).isEc = true then curveOf (pkSel (x.pkWord w) (Option.map (fun x => x.key) y)) (s.curveEntry (pkSel (x.pkWord w) (Option.map (fun x => x.key) y))) else none) (modBit w 0) (if modBit w 0 = true then x.gathered ++ x.inBytes x.ip (x.sr ↑w.b - x.gathered.length) else x.vRange (↑w.a) (immBits w 16 4 + 1)) = some src ∧ (modBit w 1 = true ∨ pkResultLen (x.pkWord w) (Option.map (fun x => x.key) y) (if (x.pkWord w).isEc = true then curveOf (pkSel (x.pkWord w) (Option.map (fun x => x.key) y)) (s.curveEntry (pkSel (x.pkWord w) (Option.map (fun x => x.key) y))) else none) src ≤ 16 * (immBits w 20 4 + 1)) ∧ (x.pkWord w).encodingOk = true ∧ rsaMalformed (x.pkWord w) src = false ∧ s.handTo (x.pkWord w).isLattice [] = Except.ok p ∧ s.pkFull p (x.pkWord w).isLattice = false ∧ pkRandom (x.pkWord w) (Option.map (fun x => x.key) y) (if (x.pkWord w).isEc = true then curveOf (pkSel (x.pkWord w) (Option.map (fun x => x.key) y)) (s.curveEntry (pkSel (x.pkWord w) (Option.map (fun x => x.key) y))) else none) src ≤ s.queueFill ↑c.cc) :=
  ⟨⟨.ecKeygen cx { wK with imm := 0x40C001 }, 1, cx, { wK with imm := 0x40C001 }, by decide +kernel⟩,
   ⟨.ecKeygen cx { wK with modi := 1, b := 1 }, 1, cx, { wK with modi := 1, b := 1 }, cxt (few { wK with modi := 1, b := 1 }), few { wK with modi := 1, b := 1 }, by decide +kernel⟩,
   ⟨.ecdsaSign cx { wS with ka := 3 }, 2, cx, { wS with ka := 3 }, cxt (sP { wS with ka := 3 }), sP { wS with ka := 3 }, by decide +kernel⟩,
   ⟨.ecdsaSign cx { wS with ka := 0 }, 2, cx, { wS with ka := 0 }, cxt (sP { wS with ka := 0 }), sP { wS with ka := 0 }, slotOf 2 32, by decide +kernel⟩,
   ⟨.mlkemKeygen cx { wK with modi := 4, imm := 0x400020 }, 0x20, cx, { wK with modi := 4, imm := 0x400020 }, cxt (sP { wK with modi := 4, imm := 0x400020 }), sP { wK with modi := 4, imm := 0x400020 }, none, by decide +kernel⟩,
   ⟨.ecdsaSign cx { wS with modi := 1, b := 7 }, 2, cx, { wS with modi := 1, b := 7 }, cxt (sP { wS with modi := 1, b := 7 }), sP { wS with modi := 1, b := 7 }, some ySig, by decide +kernel⟩,
   ⟨.ecKeygen cx { wK with imm := 0x100001 }, 1, cx, { wK with imm := 0x100001 }, cxt (sP { wK with imm := 0x100001 }), sP { wK with imm := 0x100001 }, none, [], by decide +kernel⟩,
   ⟨.ecKeygen cx { wK with modi := 0x54 }, 1, cx, { wK with modi := 0x54 }, cxt (sP { wK with modi := 0x54 }), sP { wK with modi := 0x54 }, none, [], by decide +kernel⟩,
   ⟨.rsaKeygen cx wR, 0x16, cx, wR, cxt (even wR), even wR, none, [0, 8, 0, 0, 0, 2], by decide +kernel⟩,
   ⟨.ecKeygen cx wK, 1, cx, wK, cxt (noPk none wK), noPk none wK, none, [], by decide +kernel⟩,
   ⟨.ecKeygen cx wK, 1, cx, wK, cxt (noPk (some 3) wK), noPk (some 3) wK, none, [], 3, by decide +kernel⟩,
   ⟨.ecKeygen cx wK, 1, cx, wK, cxt (fullPk wK), fullPk wK, none, [], 0, by decide +kernel⟩,
   ⟨.ecKeygen cx wK, 1, cx, wK, cxt (dry wK), dry wK, none, [], 0, by decide +kernel⟩,
   ⟨.ecKeygen cx wK, 1, cx, wK, cxt (sP wK), sP wK, none, [], 0, by decide +kernel⟩⟩

end T06c

namespace T06d

def ySig (d : Nat) : Key := { (slotOf 4 97).key with ktype := .priv, sel := 0, material := beBytes 32 d ++ zeros 65 }
def wSg : Insn := { d := 0, a := 4, ka := 2, imm := 0x310002 }
def x0 : Context := { keys := [some (slotOf 2 32), none, none, none], wait := .pkx }
def sP : State := (working 9 0 wSg d1 x0).updQp 1 0 fun x => { x with cqTail := 0 }
/-- An ECDSA signature under the scalar `d`, as its unit holds it: its random bytes all zero. -/
def oS (d : Nat) : PkOp := PkOp.load { owner := some 64, part := 1, word := { oper := 2 }, key := some (ySig d), wires := { value := (ySig d).material, mask := zeros 97 }, source := zeros 31 ++ [5], rand := zeros 144 }
/-- A key generation on P-256, and one of RSA. -/
def oK : PkOp := { owner := some 64, part := 1, word := { oper := 1 }, rand := zeros 144 }
/-- The scalar for which the s of that signature is 0. -/
def again : Nat := 62976330818700216078557248670344335385480251871396407790199892437182941951683
def made : List Byte × Option (Nat × KType × List Byte) := match sP.pkRun oK 0 with | .done r y => (r, y) | _ => ([], none)
def oR : PkOp := { owner := some 64, part := 1, word := { oper := 0x16 }, source := [0, 8, 0, 0, 0, 3] }
def lattice (material : List Byte) : PkOp :=
  PkOp.load { owner := some 64, part := 1, word := { oper := 0x29, sel := 0 }, key := some { cls := 7, ktype := .priv, sel := 0, material }, wires := { value := material, mask := zeros material.length }, source := [0], rand := zeros 64 }
/-- A private key whose low parts of t are as far from 0 as they can be, so that every attempt has too many hints, and one where they are all 0. -/
def oL : PkOp := lattice (zeros 896 ++ (List.range 4).flatMap fun j => dsaPack 4095 4096 (polyOf fun i => if (2654435761 * (256 * j + i) * (256 * j + i + 7)).testBit 20 then 4096 else dsaQ - 4095))
def oD : PkOp := lattice (zeros 896 ++ (List.replicate 4 (dsaPack 4095 4096 (polyOf fun _ => 0))).flatten)
def queued (o : PkOp) : State := { sP with pk := { sP.pk with queues := [(1, [o, o]), (0, [o])] } }
def sU (o : PkOp) (u : Nat) : State := sP.updPk 2 u fun x => { x with ops := [{ o with owner := none }, o] }
def dry (o : PkOp) : State := { sU o 3 with fl.queues := [] }
def fed (o : PkOp) (s : State) (iters : Nat := 0) : PkOp × State := s.feedPk 2 (if o.word.isLattice then 8 else 3) 1 o (clusterOf 64) (o.short iters)
/-- `sU` with the slice of the command's cluster full of records in use. -/
def tight : State := let s := sU oK 3; { s.updCtx 64 fun x => { x with keys := [none, some { slotOf 2 32 with stamp := [lineKey 1 9] }, none, none] } with ge := { s.ge with slices := [(1, [{ line := lineKey 1 9, gen := 1, entries := 4096 }])] } }
def sKb : State := sP.updPk 2 3 fun x => { x with svc := { katBusy := true, katWanted := true, katFail := true } }
def relocking : State := { sP.set R.GBL_ISLAND_LOCK 0 with pw.relocking := true }
def offIsland : State := sP.set R.PWR_DOMAIN_ON_LO 0

def frozen : State := sP.set (R.BLK_FREEZE (pgPK 2)) 1

theorem test_hypotheses_PublicKeyClustersServeOperations :
    (∃ (p : Fin 8) (lattice : Bool) (o : PkOp) (os : List PkOp) (s : Machine.State) (u : Nat), s.pkQueue (↑p) lattice = o :: os ∧ s.relocks (16 + ↑p) = false ∧ s.bit R.GBL_PK_INSERVICE ↑p = true ∧ s.pkUnitFor (↑p) o = some u) ∧
    (∃ (p : Fin 8) (lattice : Bool) (o : PkOp) (os : List PkOp) (s : Machine.State), s.pkQueue (↑p) lattice = o :: os ∧ s.relocks (16 + ↑p) = false ∧ s.bit R.GBL_PK_INSERVICE ↑p = true ∧ s.pkUnitFor (↑p) o = none) ∧
    (∃ (p : Fin 8) (lattice : Bool) (o : PkOp) (os : List PkOp) (s : Machine.State) (q : Nat), s.pkQueue (↑p) lattice = o :: os ∧ s.relocks (16 + ↑p) = false ∧ s.bit R.GBL_PK_INSERVICE ↑p = false ∧ s.pickPk lattice [↑p] = some q ∧ s.pkFull q lattice = false ∧ o.word.isLattice = lattice) ∧
    (∃ (n : Nat) (need : Nat) (s : Machine.State), need ≤ s.queueFill n) ∧
    (∃ (n : Nat) (need : Nat) (o : PkOp) (s : Machine.State), s.queueFill n < need ∧ o.word.oper ≠ 22) ∧
    (∃ (p : Fin 8) (u : Fin 9) (slot : Fin 2) (o : PkOp) (o' : PkOp) (k : Nat) (iters : Nat) (v : Machine.State) (s : Machine.State), s.relocks (16 + ↑p) = false ∧ (s.pkUnit ↑p ↑u).ops[↑slot]? = some o ∧ o.owner = some k ∧ s.relocks (clusterOf k) = false ∧ s.feedPk (↑p) (↑u) (↑slot) o (clusterOf k) (o.short iters) = (o', v) ∧ o'.starved ≠ none) ∧
    (∃ (p : Fin 8) (u : Fin 9) (slot : Fin 2) (twinOk : Bool) (o : PkOp) (o' : PkOp) (k : Nat) (iters : Nat) (v : Machine.State) (s : Machine.State), s.relocks (16 + ↑p) = false ∧ (s.pkUnit ↑p ↑u).ops[↑slot]? = some o ∧ o.owner = some k ∧ s.relocks (clusterOf k) = false ∧ s.feedPk (↑p) (↑u) (↑slot) o (clusterOf k) (o.short iters) = (o', v) ∧ o'.starved = none ∧ v.pkAnswer o' twinOk = none) ∧
    (∃ (p : Fin 8) (u : Fin 9) (slot : Fin 2) (twinOk : Bool) (o : PkOp) (o' : PkOp) (k : Nat) (iters : Nat) (v : Machine.State) (s : Machine.State), s.relocks (16 + ↑p) = false ∧ (s.pkUnit ↑p ↑u).ops[↑slot]? = some o ∧ o.owner = some k ∧ s.relocks (clusterOf k) = false ∧ s.feedPk (↑p) (↑u) (↑slot) o (clusterOf k) (o.short iters) = (o', v) ∧ o'.starved = none ∧ v.pkAnswer o' twinOk = some PkAnswer.again) ∧
    (∃ (p : Fin 8) (u : Fin 9) (slot : Fin 2) (twinOk : Bool) (o : PkOp) (o' : PkOp) (k : Nat) (iters : Nat) (v : Machine.State) (s : Machine.State) (st : Nat) (det : Nat), s.relocks (16 + ↑p) = false ∧ (s.pkUnit ↑p ↑u).ops[↑slot]? = some o ∧ o.owner = some k ∧ s.relocks (clusterOf k) = false ∧ s.feedPk (↑p) (↑u) (↑slot) o (clusterOf k) (o.short iters) = (o', v) ∧ o'.starved = none ∧ v.pkAnswer o' twinOk = some (PkAnswer.refused st det)) ∧
    (∃ (p : Fin 8) (u : Fin 9) (slot : Fin 2) (twinOk : Bool) (o : PkOp) (o' : PkOp) (k : Nat) (iters : Nat) (v : Machine.State) (s : Machine.State) (result : List Byte) (secret : Option (Nat × KType × List Byte)), s.relocks (16 + ↑p) = false ∧ (s.pkUnit ↑p ↑u).ops[↑slot]? = some o ∧ o.owner = some k ∧ s.relocks (clusterOf k) = false ∧ s.feedPk (↑p) (↑u) (↑slot) o (clusterOf k) (o.short iters) = (o', v) ∧ o'.starved = none ∧ v.pkAnswer o' twinOk = some (PkAnswer.done result secret) ∧ (((v.updPk ↑p ↑u fun x => { svc := x.svc, ops := x.ops.eraseIdx ↑slot }).settlePk ↑p).count (if ↑u < 8 then R.PK_ENG_OPS ↑p ↑u else R.PK_LU_OPS ↑p)).secretRoom k secret = false) ∧
    (∃ (p : Fin 8) (u : Fin 9) (slot : Fin 2) (twinOk : Bool) (o : PkOp) (o' : PkOp) (k : Nat) (iters : Nat) (v : Machine.State) (s : Machine.State) (result : List Byte) (secret : Option (Nat × KType × List Byte)), s.relocks (16 + ↑p) = false ∧ (s.pkUnit ↑p ↑u).ops[↑slot]? = some o ∧ o.owner = some k ∧ s.relocks (clusterOf k) = false ∧ s.feedPk (↑p) (↑u) (↑slot) o (clusterOf k) (o.short iters) = (o', v) ∧ o'.starved = none ∧ v.pkAnswer o' twinOk = some (PkAnswer.done result secret) ∧ (((v.updPk ↑p ↑u fun x => { svc := x.svc, ops := x.ops.eraseIdx ↑slot }).settlePk ↑p).count (if ↑u < 8 then R.PK_ENG_OPS ↑p ↑u else R.PK_LU_OPS ↑p)).secretRoom k secret = true ∧ o.attest = 0) ∧
    (∃ (k : Nat) (s : Machine.State), modBit ((Option.map (fun x => x.w) { s.ctx k with wait := .none : Context }.here).getD { }) 1 = false) ∧
    (∃ (k : Nat) (s : Machine.State), modBit ((Option.map (fun x => x.w) { s.ctx k with wait := .none : Context }.here).getD { }) 1 = true) ∧
    (∃ (p : Fin 8) (u : Fin 9) (slot : Fin 2) (o : PkOp) (s : Machine.State), (s.pkUnit ↑p ↑u).ops[↑slot]? = some o ∧ o.owner = none) ∧
    (∃ (p : Fin 8) (u : Fin 9) (s : Machine.State) (pass : Bool) (twinOk : Bool), ((s.pkUnit ↑p ↑u).svc.katBusy = true ∨ (s.pkUnit ↑p ↑u).svc.katWanted = true) ∧ (s.pkUnit ↑p ↑u).ops = [] ∧ s.relocks (16 + ↑p) = false ∧ (pass = false ∨ twinOk = false)) ∧
    (∃ (p : Fin 8) (s : Machine.State), reachable s (pgPK ↑p)) ∧
    (∃ (p : Fin 8) (s : Machine.State), s.responds (pgPK ↑p) = false) ∧
    (∃ (p : Fin 8) (viaRst : Bool) (s : Machine.State), s.responds (if viaRst = true then pgRST else pgPK ↑p) = true ∧ s.get (R.BLK_FREEZE (pgPK ↑p)) = 1 ∧ s.pkDrained ↑p = true ∧ s.islandOn (pgPK ↑p) = true ∧ s.relocks (16 + ↑p) = false) ∧
    (∃ (p : Fin 8) (viaRst : Bool) (s : Machine.State), s.responds (if viaRst = true then pgRST else pgPK ↑p) = true ∧ s.islandOn (pgPK ↑p) = false) ∧
    (∃ (p : Fin 8) (viaRst : Bool) (s : Machine.State), s.responds (if viaRst = true then pgRST else pgPK ↑p) = true ∧ (s.get (R.BLK_FREEZE (pgPK ↑p)) ≠ 1 ∨ s.pkDrained ↑p = false) ∧ s.islandOn (pgPK ↑p) = true ∧ s.relocks (16 + ↑p) = false) ∧
    (∃ (p : Fin 8) (viaRst : Bool) (s : Machine.State), s.responds (if viaRst = true then pgRST else pgPK ↑p) = true ∧ s.islandOn (pgPK ↑p) = true ∧ s.relocks (16 + ↑p) = true) :=
  ⟨⟨0, false, oS 5, [], queued (oS 5), 0, by decide +kernel⟩,
   ⟨0, false, oS 5, [], { queued (oS 5) with pk := { (queued (oS 5)).pk with units := [] } }, by decide +kernel⟩,
   ⟨0, false, oS 5, [], (queued (oS 5)).set R.GBL_PK_INSERVICE 0xFE, 1, by decide +kernel⟩,
   ⟨1, 64, sP, by decide +kernel⟩,
   ⟨1, 8192, oS 5, sP, by decide +kernel⟩,
   ⟨2, 3, 1, oR, (fed oR (dry oR) 3).1, 64, 3, (fed oR (dry oR) 3).2, dry oR, ⟨by decide +kernel, by decide +kernel, by decide +kernel, by decide +kernel, rfl, by decide +kernel⟩⟩,
   ⟨2, 3, 1, false, oK, (fed oK (sU oK 3)).1, 64, 0, (fed oK (sU oK 3)).2, sU oK 3, ⟨by decide +kernel, by decide +kernel, by decide +kernel, by decide +kernel, rfl, by decide +kernel, by decide +kernel⟩⟩,
   ⟨2, 3, 1, true, oS again, (fed (oS again) (sU (oS again) 3)).1, 64, 0, (fed (oS again) (sU (oS again) 3)).2, sU (oS again) 3, ⟨by decide +kernel, by decide +kernel, by decide +kernel, by decide +kernel, rfl, by decide +kernel, by decide +kernel⟩⟩,
   ⟨2, 3, 1, true, oS 0, (fed (oS 0) (sU (oS 0) 3)).1, 64, 0, (fed (oS 0) (sU (oS 0) 3)).2, sU (oS 0) 3, stOperandRange, 0, ⟨by decide +kernel, by decide +kernel, by decide +kernel, by decide +kernel, rfl, by decide +kernel, by decide +kernel⟩⟩,
   ⟨2, 3, 1, true, oK, (fed oK tight).1, 64, 0, (fed oK tight).2, tight, made.1, made.2, ⟨by decide +kernel, by decide +kernel, by decide +kernel, by decide +kernel, rfl, by decide +kernel, by decide +kernel, by decide +kernel⟩⟩,
   ⟨2, 3, 1, true, oK, (fed oK (sU oK 3)).1, 64, 0, (fed oK (sU oK 3)).2, sU oK 3, made.1, made.2, ⟨by decide +kernel, by decide +kernel, by decide +kernel, by decide +kernel, rfl, by decide +kernel, by decide +kernel, by decide +kernel, by decide +kernel⟩⟩,
   ⟨64, sP, by decide +kernel⟩,
   ⟨64, working 9 0 { wSg with modi := 2 } d1 x0, by decide +kernel⟩,
   ⟨2, 3, 0, { oS 5 with owner := none }, sU (oS 5) 3, by decide +kernel⟩,
   ⟨2, 3, sKb, false, true, by decide +kernel⟩,
   ⟨2, sP, by decide +kernel⟩,
   ⟨2, State.reset, by decide +kernel⟩,
   ⟨2, false, frozen, by decide +kernel⟩,
   ⟨2, true, offIsland, by decide +kernel⟩,
   ⟨2, true, sU (oS 5) 3, by decide +kernel⟩,
   ⟨2, false, relocking, by decide +kernel⟩⟩

/-- Two runs with the same random bytes answer the same. -/
theorem runs_equal (m : List Byte) (s : State) : s.pkRun (lattice m) 1 = s.pkRun (lattice m) 0 := rfl

theorem answered (m : List Byte) (s : State) (a : PkAnswer) (h : s.pkRun (lattice m) 0 = a) : s.pkAnswer (lattice m) true = some a := by
  unfold State.pkAnswer
  rw [runs_equal, h]
  simp

theorem fed_lattice (m : List Byte) : fed (lattice m) (sU (lattice m) 8) = (lattice m, (fed (lattice m) (sU (lattice m) 8)).2) := by
  have h : (lattice m).short 0 = 0 := rfl
  have h' : ∀ o : PkOp, ({ o with rand := o.rand ++ [], starved := none } : PkOp) = { o with starved := none } := by intro o; simp
  unfold fed State.feedPk State.takeQueue
  rw [h]
  simp
  rfl

/-- The lattice operations' answers are too long for the kernel: that of a loop without an end, and that of a signature, are the premises. -/
theorem test_hypotheses_PublicKeyClustersServeOperations_lattice (sig : List Byte) (n : Nat) (h : (fed oL (sU oL 8)).2.pkRun oL 0 = .limit) (h' : (fed oD (sU oD 8)).2.pkRun oD 0 = .signed sig n) :
    (∃ (p : Fin 8) (u : Fin 9) (slot : Fin 2) (twinOk : Bool) (o : PkOp) (o' : PkOp) (k : Nat) (iters : Nat) (v : Machine.State) (s : Machine.State), s.relocks (16 + ↑p) = false ∧ (s.pkUnit ↑p ↑u).ops[↑slot]? = some o ∧ o.owner = some k ∧ s.relocks (clusterOf k) = false ∧ s.feedPk (↑p) (↑u) (↑slot) o (clusterOf k) (o.short iters) = (o', v) ∧ o'.starved = none ∧ v.pkAnswer o' twinOk = some PkAnswer.limit) ∧
    (∃ (p : Fin 8) (u : Fin 9) (slot : Fin 2) (twinOk : Bool) (o : PkOp) (o' : PkOp) (k : Nat) (iters : Nat) (v : Machine.State) (s : Machine.State) (sig : List Byte) (n : Nat), s.relocks (16 + ↑p) = false ∧ (s.pkUnit ↑p ↑u).ops[↑slot]? = some o ∧ o.owner = some k ∧ s.relocks (clusterOf k) = false ∧ s.feedPk (↑p) (↑u) (↑slot) o (clusterOf k) (o.short iters) = (o', v) ∧ o'.starved = none ∧ v.pkAnswer o' twinOk = some (PkAnswer.signed sig n) ∧ o.attest = 0) :=
  ⟨⟨2, 8, 1, true, oL, oL, 64, 0, (fed oL (sU oL 8)).2, sU oL 8, ⟨by decide +kernel, by decide +kernel, rfl, by decide +kernel, fed_lattice _, rfl, answered _ _ _ h⟩⟩,
   ⟨2, 8, 1, true, oD, oD, 64, 0, (fed oD (sU oD 8)).2, sU oD 8, sig, n, ⟨by decide +kernel, by decide +kernel, rfl, by decide +kernel, fed_lattice _, rfl, answered _ _ _ h', rfl⟩⟩⟩

end T06d

namespace T07

def rec5 : KeyRecord := { key := { cls := 2, usage := 2 ^ 14 - 1, attr := 0x3F28, level := 3, material := zeros 32 }, owner := 1, parentGen := 1, tepoch := 1 }
def rec6 : KeyRecord := { rec5 with parent := 5, key := { rec5.key with level := 4 } }
def dK : Descriptor := { d1 with key0 := 5, key1 := 6 }
def line6 : Nat × KeyLine := (lineKey 1 6, { gen := 1, live := true, record := some rec6 })
def keyed (s : State) : State :=
  { s with ge := { s.ge with lines := [(lineKey 1 5, { gen := 1, live := true, record := some rec5 }), line6],
                             slices := [(1, [{ line := lineKey 1 9, gen := 1, entries := 1 }, { line := lineKey 1 5, gen := 1, entries := 1 }])] } }
def wFe : Insn := { kd := 3, imm := 0x3FFF0001, modi := 2 }
def wDs : Insn := { kd := 3, imm := 0x1 }
def iFe : Code := ⟨2, 0, wFe⟩
def sK : State := keyed (working 2 0 wFe dK { wait := .keyFill })
def orphan : State := { sK with ge := { sK.ge with lines := [line6] } }
/-- `sK` where the slice is full of a record in use. -/
def tight : State := { sK.updCtx 64 fun x => { x with keys := [some { slotOf 2 32 with stamp := [lineKey 1 9] }, none, none, none] } with ge := { sK.ge with slices := [(1, [{ line := lineKey 1 9, gen := 1, entries := 4096 }])] } }
theorem fills : (sK.fillChain cx.cc (sK.ctx (ctxKey cx)).part (sK.walk (sK.ctx (ctxKey cx)).part 8 ((sK.ctx (ctxKey cx)).desc.keyField (immBits iFe.w 0 2))).fst).isSome = true := by decide +kernel
def filled : State := (sK.fillChain cx.cc (sK.ctx (ctxKey cx)).part (sK.walk (sK.ctx (ctxKey cx)).part 8 ((sK.ctx (ctxKey cx)).desc.keyField (immBits iFe.w 0 2))).fst).get fills
def sD : State := keyed (working 2 6 wDs dK { wait := .fence })
def fence (n : Nat) : Fence := { line := lineKey 1 n, ctx := none, raised := 0 }
def fenced (n : Nat) (s : State) : State := { s with ge := { s.ge with fences := [fence n] }, quartz := 5000 }
def swept (n : Nat) : State := ({ sK with ge := { sK.ge with swept := n } }).set R.GEO_SWEEP_EN 1
def ready : State := { sK with quartz := 10 ^ 12, fl.everReady := true }
def cellOk : Cell := { ok := true, fresh := false }
def drbgOk : Drbg := { ready := true, cells := 0xFF, katOk := true, nextReseed := 10 ^ 9 }
/-- Eight healthy cells but cell 3, and instances as given. -/
def sC (c : Cell) (d : Drbg := drbgOk) (bits : Nat := 0) : State :=
  { sK with quartz := 1000000, fl := { sK.fl with cells := (List.range 8).map (fun i => (i, if i = 3 then c else cellOk)), drbgs := (List.range 16).map (fun n => (n, d)), seed := List.replicate bits true, seedFor := some 0 } }
def full : State := { sC cellOk with fl := { (sC cellOk).fl with queues := [(1, zeros 100)] } }
def drawing (d : Drbg) : State := { (sC cellOk d).updCtx 64 fun x => { x with wait := .random } with quartz := 10 ^ 8 }

theorem test_hypotheses_KeyStoreWorksOnItsOwn :
    (∃ (c : Ctx) (i : Code) (s : Machine.State), (s.ctx (ctxKey c)).cmd ≠ none ∧ (s.ctx (ctxKey c)).here = some i ∧ i.cls = 2 ∧ (i.op = 0 ∨ i.op = 6 ∨ i.op = 8) ∧ s.ge.ready = true ∧ ((s.ctx (ctxKey c)).wait = Wait.keyFill ∨ (s.ctx (ctxKey c)).wait = Wait.cacheEntry) ∧ s.xbarHeld ↑c.cc = true) ∧
    (∃ (c : Ctx) (i : Code) (macBad : Option Nat) (s : Machine.State) (b : Nat), (s.ctx (ctxKey c)).cmd ≠ none ∧ (s.ctx (ctxKey c)).here = some i ∧ i.cls = 2 ∧ (i.op = 0 ∨ i.op = 6 ∨ i.op = 8) ∧ s.ge.ready = true ∧ ((s.ctx (ctxKey c)).wait = Wait.keyFill ∨ (s.ctx (ctxKey c)).wait = Wait.cacheEntry) ∧ s.xbarHeld ↑c.cc = false ∧ s.badOf macBad (s.missing (↑c.cc) (s.walk (s.ctx (ctxKey c)).part 8 ((s.ctx (ctxKey c)).desc.keyField (immBits i.w 0 2))).fst) = some b) ∧
    (∃ (c : Ctx) (i : Code) (macBad : Option Nat) (s : Machine.State), (s.ctx (ctxKey c)).cmd ≠ none ∧ (s.ctx (ctxKey c)).here = some i ∧ i.cls = 2 ∧ (i.op = 0 ∨ i.op = 6 ∨ i.op = 8) ∧ s.ge.ready = true ∧ ((s.ctx (ctxKey c)).wait = Wait.keyFill ∨ (s.ctx (ctxKey c)).wait = Wait.cacheEntry) ∧ s.xbarHeld ↑c.cc = false ∧ s.badOf macBad (s.missing (↑c.cc) (s.walk (s.ctx (ctxKey c)).part 8 ((s.ctx (ctxKey c)).desc.keyField (immBits i.w 0 2))).fst) = none ∧ (s.walk (s.ctx (ctxKey c)).part 8 ((s.ctx (ctxKey c)).desc.keyField (immBits i.w 0 2))).snd ≠ WalkEnd.rooted) ∧
    (∃ (c : Ctx) (i : Code) (macBad : Option Nat) (s : Machine.State) (u : Machine.State), (s.ctx (ctxKey c)).cmd ≠ none ∧ (s.ctx (ctxKey c)).here = some i ∧ i.cls = 2 ∧ (i.op = 0 ∨ i.op = 6 ∨ i.op = 8) ∧ s.ge.ready = true ∧ ((s.ctx (ctxKey c)).wait = Wait.keyFill ∨ (s.ctx (ctxKey c)).wait = Wait.cacheEntry) ∧ s.xbarHeld ↑c.cc = false ∧ s.badOf macBad (s.missing (↑c.cc) (s.walk (s.ctx (ctxKey c)).part 8 ((s.ctx (ctxKey c)).desc.keyField (immBits i.w 0 2))).fst) = none ∧ (s.walk (s.ctx (ctxKey c)).part 8 ((s.ctx (ctxKey c)).desc.keyField (immBits i.w 0 2))).snd = WalkEnd.rooted ∧ s.fillChain (↑c.cc) (s.ctx (ctxKey c)).part (s.walk (s.ctx (ctxKey c)).part 8 ((s.ctx (ctxKey c)).desc.keyField (immBits i.w 0 2))).fst = some u) ∧
    (∃ (c : Ctx) (i : Code) (macBad : Option Nat) (s : Machine.State), (s.ctx (ctxKey c)).cmd ≠ none ∧ (s.ctx (ctxKey c)).here = some i ∧ i.cls = 2 ∧ (i.op = 0 ∨ i.op = 6 ∨ i.op = 8) ∧ s.ge.ready = true ∧ ((s.ctx (ctxKey c)).wait = Wait.keyFill ∨ (s.ctx (ctxKey c)).wait = Wait.cacheEntry) ∧ s.xbarHeld ↑c.cc = false ∧ s.badOf macBad (s.missing (↑c.cc) (s.walk (s.ctx (ctxKey c)).part 8 ((s.ctx (ctxKey c)).desc.keyField (immBits i.w 0 2))).fst) = none ∧ (s.walk (s.ctx (ctxKey c)).part 8 ((s.ctx (ctxKey c)).desc.keyField (immBits i.w 0 2))).snd = WalkEnd.rooted ∧ s.fillChain (↑c.cc) (s.ctx (ctxKey c)).part (s.walk (s.ctx (ctxKey c)).part 8 ((s.ctx (ctxKey c)).desc.keyField (immBits i.w 0 2))).fst = none) ∧
    (∃ (c : Ctx) (field : Nat) (s : Machine.State), (s.ctx (ctxKey c)).cmd ≠ none ∧ (s.ctx (ctxKey c)).destroys = some field ∧ (s.ctx (ctxKey c)).wait = Wait.fence ∧ (∀ (f : Fence), f ∈ s.ge.fences → f.ctx ≠ some (ctxKey c)) ∧ (s.fenced (lineKey (s.ctx (ctxKey c)).part ((s.ctx (ctxKey c)).desc.keyField field)) = true ∨ 16 ≤ s.ge.fences.length)) ∧
    (∃ (c : Ctx) (field : Nat) (s : Machine.State) (st : Nat), (s.ctx (ctxKey c)).cmd ≠ none ∧ (s.ctx (ctxKey c)).destroys = some field ∧ (s.ctx (ctxKey c)).wait = Wait.fence ∧ (∀ (f : Fence), f ∈ s.ge.fences → f.ctx ≠ some (ctxKey c)) ∧ s.fenced (lineKey (s.ctx (ctxKey c)).part ((s.ctx (ctxKey c)).desc.keyField field)) = false ∧ s.ge.fences.length < 16 ∧ s.refuseDestroy (s.ctx (ctxKey c)).part ((s.ctx (ctxKey c)).desc.keyField field) = some st) ∧
    (∃ (c : Ctx) (field : Nat) (s : Machine.State), (s.ctx (ctxKey c)).cmd ≠ none ∧ (s.ctx (ctxKey c)).destroys = some field ∧ (s.ctx (ctxKey c)).wait = Wait.fence ∧ (∀ (f : Fence), f ∈ s.ge.fences → f.ctx ≠ some (ctxKey c)) ∧ s.fenced (lineKey (s.ctx (ctxKey c)).part ((s.ctx (ctxKey c)).desc.keyField field)) = false ∧ s.ge.fences.length < 16 ∧ s.refuseDestroy (s.ctx (ctxKey c)).part ((s.ctx (ctxKey c)).desc.keyField field) = none) ∧
    (∃ (i : Fin 16) (f : Fence) (s : Machine.State), s.ge.fences[↑i]? = some f ∧ (∃ e, e ∈ s.running ∧ e.snd.holds f.line = true)) ∧
    (∃ (i : Fin 16) (f : Fence) (s : Machine.State), s.ge.fences[↑i]? = some f ∧ (∀ (e : Nat × Machine.Context), e ∈ s.running → e.snd.holds f.line = false)) ∧
    (∃ (i : Fin 16) (f : Fence) (s : Machine.State), s.ge.fences[↑i]? = some f ∧ f.late = false ∧ f.raised + 4000 < s.quartz) ∧
    (∃ (i : Fin 16) (f : Fence) (s : Machine.State), s.ge.fences[↑i]? = some f ∧ (f.late = true ∨ s.quartz ≤ f.raised + 4000)) ∧
    (∃ (k : Nat) (l : KeyLine) (s : Machine.State), s.get R.GEO_SWEEP_EN ≠ 0 ∧ List.find? (fun e => decide (s.ge.swept < e.fst + 1)) s.ge.lines = some (k, l)) ∧
    (∃ (s : Machine.State), s.get R.GEO_SWEEP_EN = 0) ∧
    (∃ (s : Machine.State), s.get R.GEO_SWEEP_EN ≠ 0 ∧ List.find? (fun e => decide (s.ge.swept < e.fst + 1)) s.ge.lines = none) ∧
    (∃ (n : Fin 16) (s : Machine.State), (s.quartz < Sparse.get 0 s.ge.maskTimes ↑n + 1000000 * s.remaskMs ∨ s.fl.everReady = false)) ∧
    (∃ (n : Fin 16) (s : Machine.State), Sparse.get 0 s.ge.maskTimes ↑n + 1000000 * s.remaskMs ≤ s.quartz ∧ s.fl.everReady = true) ∧
    (∃ (s : Machine.State), (s.ob.osc < s.ob.maskTime + if s.ob.onMain = true then 200000000 else 20000000000)) ∧
    (∃ (s : Machine.State), ((s.ob.maskTime + if s.ob.onMain = true then 200000000 else 20000000000) ≤ s.ob.osc)) :=
  ⟨⟨cx, iFe, sK.set R.ARB_FREEZE_XBAR 2, by decide +kernel⟩,
   ⟨cx, iFe, some 0, sK, lineKey 1 6, by decide +kernel⟩,
   ⟨cx, iFe, none, orphan, by decide +kernel⟩,
   ⟨cx, iFe, none, sK, filled, (by (iterate 9 refine ⟨by decide +kernel, ?_⟩); exact (Option.some_get _).symm)⟩,
   ⟨cx, iFe, none, tight, by decide +kernel⟩,
   ⟨cx, 1, fenced 6 sD, by decide +kernel⟩,
   ⟨cx, 1, { sD with ge := { sD.ge with lines := [] } }, stKeyNotFound, by decide +kernel⟩,
   ⟨cx, 1, sD, by decide +kernel⟩,
   ⟨0, fence 5, fenced 5 (sK.updCtx 64 fun x => { x with keys := [some { slotOf 2 32 with stamp := [lineKey 1 5] }, none, none, none] }), by decide +kernel⟩,
   ⟨0, fence 5, fenced 5 sK, by decide +kernel⟩,
   ⟨0, fence 5, fenced 5 sK, by decide +kernel⟩,
   ⟨0, fence 5, { fenced 5 sK with quartz := 4000 }, by decide +kernel⟩,
   ⟨line6.1, line6.2, swept (lineKey 1 5 + 1), by decide +kernel⟩,
   ⟨up.set R.GEO_SWEEP_EN 0, by decide +kernel⟩,
   ⟨swept (lineKey 1 6 + 1), by decide +kernel⟩,
   ⟨1, sK, by decide +kernel⟩,
   ⟨1, ready, by decide +kernel⟩,
   ⟨up, by decide +kernel⟩,
   ⟨{ up with ob := { up.ob with osc := 20000000000 } }, by decide +kernel⟩⟩

theorem test_hypotheses_FlintFeedsTheQueues :
    (∃ (cell : Fin 8) (count : Nat) (s : Machine.State), (s.cell ↑cell).ok = true ∧ s.get R.FLT_APT_CUTOFF ≤ count) ∧
    (∃ (cell : Fin 8) (count : Nat) (s : Machine.State), (s.cell ↑cell).ok = true ∧ count < s.get R.FLT_APT_CUTOFF) ∧
    (∃ (cell : Fin 8) (s : Machine.State), ((s.cell ↑cell).start = false ∨ (s.cell ↑cell).ok = true ∨ (s.cell ↑cell).off = true ∨ s.quartz < (s.cell ↑cell).due)) ∧
    (∃ (cell : Fin 8) (count : Nat) (repeated : Bool) (s : Machine.State), (s.cell ↑cell).start = true ∧ (s.cell ↑cell).ok = false ∧ (s.cell ↑cell).off = false ∧ (s.cell ↑cell).due ≤ s.quartz ∧ repeated = false ∧ count < s.get R.FLT_APT_CUTOFF) ∧
    (∃ (cell : Fin 8) (count : Nat) (repeated : Bool) (s : Machine.State), (s.cell ↑cell).start = true ∧ (s.cell ↑cell).ok = false ∧ (s.cell ↑cell).off = false ∧ (s.cell ↑cell).due ≤ s.quartz ∧ (repeated = true ∨ s.get R.FLT_APT_CUTOFF ≤ count)) ∧
    (∃ (s : Machine.State), (s.get R.FLT_READY = 0 ∧ 4 ≤ s.healthy ∧ ∀ (n : Nat), n < 16 → s.ccPowered n = true → (s.drbg n).ready = true ∨ (s.drbg n).katFail = true)) ∧
    (∃ (s : Machine.State), (¬(s.get R.FLT_READY = 0 ∧ 4 ≤ s.healthy ∧ ∀ (n : Nat), n < 16 → s.ccPowered n = true → (s.drbg n).ready = true ∨ (s.drbg n).katFail = true))) ∧
    (∃ (n : Fin 16) (s : Machine.State), (s.collect.seedTarget ≠ some ↑n ∨ s.collect.fl.seed.length < 427)) ∧
    (∃ (n : Fin 16) (katOk : Bool) (twinOk : Bool) (s : Machine.State), s.collect.seedTarget = some ↑n ∧ 427 ≤ s.collect.fl.seed.length ∧ ((s.drbg ↑n).katOk = true ∨ katOk = true) ∧ twinOk = true) ∧
    (∃ (n : Fin 16) (katOk : Bool) (s : Machine.State), s.collect.seedTarget = some ↑n ∧ 427 ≤ s.collect.fl.seed.length ∧ (s.drbg ↑n).katOk = false ∧ katOk = false) ∧
    (∃ (n : Fin 16) (katOk : Bool) (twinOk : Bool) (s : Machine.State), s.collect.seedTarget = some ↑n ∧ 427 ≤ s.collect.fl.seed.length ∧ ((s.drbg ↑n).katOk = true ∨ katOk = true) ∧ twinOk = false) ∧
    (∃ (n : Fin 16) (s : Machine.State), ((s.drbg ↑n).ready = true ∧ (s.drbg ↑n).reseeding = false ∧ ((s.drbg ↑n).nextReseed ≤ s.quartz ∨ 2 ^ 20 ≤ (s.drbg ↑n).requests))) ∧
    (∃ (n : Fin 16) (s : Machine.State), (¬((s.drbg ↑n).ready = true ∧ (s.drbg ↑n).reseeding = false ∧ ((s.drbg ↑n).nextReseed ≤ s.quartz ∨ 2 ^ 20 ≤ (s.drbg ↑n).requests)))) ∧
    (∃ (n : Fin 16) (s : Machine.State), ((s.drbg ↑n).ready = false ∨ 49152 ≤ s.queueFill ↑n ∨ s.relocks ↑n = true ∨ s.xbarHeld ↑n = true)) ∧
    (∃ (n : Fin 16) (twinOk : Bool) (s : Machine.State), (s.drbg ↑n).ready = true ∧ s.queueFill ↑n < 49152 ∧ s.relocks ↑n = false ∧ s.xbarHeld ↑n = false ∧ twinOk = true) ∧
    (∃ (n : Fin 16) (twinOk : Bool) (s : Machine.State), (s.drbg ↑n).ready = true ∧ s.queueFill ↑n < 49152 ∧ s.relocks ↑n = false ∧ s.xbarHeld ↑n = false ∧ twinOk = false ∧ s.ccPowered ↑n = true) ∧
    (∃ (c : Ctx) (s : Machine.State) (since : Nat), s.drawSince (ctxKey c) = some since ∧ (s.drbg ↑c.cc).ready = false ∧ since + 10000000 ≤ s.quartz) ∧
    (∃ (c : Ctx) (s : Machine.State), (s.drawSince (ctxKey c) = none ∨ (s.drbg ↑c.cc).ready = true)) ∧
    (∃ (c : Ctx) (s : Machine.State), (s.ctx (ctxKey c)).cmd ≠ none ∧ (s.ctx (ctxKey c)).wait = Wait.random) ∧
    (∃ (s : Machine.State), s.get R.FLT_READY ≠ 0 ∧ (s.ob.seeded = false ∨ s.ob.seedTime + 1000000000 ≤ s.quartz)) ∧
    (∃ (s : Machine.State), (s.get R.FLT_READY = 0 ∨ ¬(s.ob.seeded = false ∨ s.ob.seedTime + 1000000000 ≤ s.quartz))) :=
  ⟨⟨3, 664, sC cellOk, by decide +kernel⟩,
   ⟨3, 663, sC cellOk, by decide +kernel⟩,
   ⟨3, sC cellOk, by decide +kernel⟩,
   ⟨3, 663, false, sC { start := true, restarts := 1 }, by decide +kernel⟩,
   ⟨3, 1, true, sC { start := true, restarts := 1 }, by decide +kernel⟩,
   ⟨sC cellOk, by decide +kernel⟩,
   ⟨sK, by decide +kernel⟩,
   ⟨0, sC cellOk, by decide +kernel⟩,
   ⟨0, true, true, sC cellOk {} 427, by decide +kernel⟩,
   ⟨0, false, sC cellOk {} 427, by decide +kernel⟩,
   ⟨0, true, false, sC cellOk {} 427, by decide +kernel⟩,
   ⟨4, sC cellOk { drbgOk with nextReseed := 1000000 }, by decide +kernel⟩,
   ⟨4, sC cellOk, by decide +kernel⟩,
   ⟨4, sC cellOk {}, by decide +kernel⟩,
   ⟨1, true, full, by decide +kernel⟩,
   ⟨1, false, full, by decide +kernel⟩,
   ⟨cx, drawing {}, 0, by decide +kernel⟩,
   ⟨cx, sC cellOk, by decide +kernel⟩,
   ⟨cx, drawing drbgOk, by decide +kernel⟩,
   ⟨sK.set R.FLT_READY 1, by decide +kernel⟩,
   ⟨sK, by decide +kernel⟩⟩

end T07

namespace T07b

def sB : State := running c1 {} (served { qstate := .active })
def keysd : State := { sB.set R.FLT_READY 1 with hb.keys := [(0, [1]), (1, [2])], hb.poison := [5, 0x902400000 / 64 + 3] }
def ready (s : State) : State :=
  [R.HBM_PHY_READY 0, R.HBM_PHY_READY 1, R.HBM_PROT_READY 0, R.HBM_PROT_READY 1, R.HBM_WORK_READY 0, R.HBM_WORK_READY 1].foldl (fun s f => s.set f 1) s
def rdy : State := ready keysd
def memd : State := rdy.writeMem 0x902400000 [1, 2, 3, 4]
def pp (n : Nat) : State := rdy.set (R.HBM_PPR_STATE 1) n
/-- A context at a FETCH that waits for its fill. -/
def atFetch : State := issuing 2 0 {} d1 { wait := .keyFill }
def rq : Nat := 256 + 5
def wt : Waiting := { req := 3, since := 0 }
def ask : State := { granting unitDispatch 1 { rdy with hq.staged := [c1] } with quartz := 1 }

theorem test_hypotheses_HbmControllersCheckAndRepair :
    (∃ (k : Fin 2) (s : Machine.State), s.get (R.HBM_PHY_READY ↑k) ≠ 1 ∧ s.pw.phase ≠ SleepPhase.asleep ∧ s.inReset = false) ∧
    (∃ (k : Fin 2) (s : Machine.State), s.get R.FLT_READY ≠ 0 ∧ s.get (R.HBM_PHY_READY ↑k) ≠ 0 ∧ s.get (R.HBM_PROT_READY ↑k) ≠ 1 ∧ Sparse.get [] s.hb.keys ↑k = []) ∧
    (∃ (k : Fin 2) (s : Machine.State), Sparse.get [] s.hb.keys ↑k ≠ [] ∧ s.get (R.HBM_PROT_READY ↑k) ≠ 1) ∧
    (∃ (k : Fin 2) (s : Machine.State), s.get (R.HBM_PROT_READY ↑k) ≠ 0 ∧ s.get (R.HBM_WORK_READY ↑k) ≠ 1) ∧
    (∃ (a : Fin 49928994816) (s : Machine.State), s.hbmWaits ↑a = true) ∧
    (∃ (a : Fin 49928994816) (use : HbmUse) (s : Machine.State), s.hbmWaits ↑a = false ∧ hbmProtected ↑a = true ∧ mayProtected use = false) ∧
    (∃ (a : Fin 49928994816) (use : HbmUse) (s : Machine.State), s.hbmWaits ↑a = false ∧ (hbmProtected ↑a = false ∨ mayProtected use = true) ∧ (s.useCheck AccessKind.read (↑a) use).fst = false) ∧
    (∃ (a : Fin 49928994816) (use : HbmUse) (twins : Nat) (s : Machine.State), s.hbmWaits ↑a = false ∧ (hbmProtected ↑a = false ∨ mayProtected use = true) ∧ (s.useCheck AccessKind.read (↑a) use).fst = true ∧ twins = 0 ∧ ((↑a : Nat) / 64 ∈ s.hb.poison ∨ s.keysOf ↑a = [])) ∧
    (∃ (a : Fin 49928994816) (use : HbmUse) (found : LineCheck) (twins : Nat) (s : Machine.State), s.hbmWaits ↑a = false ∧ (hbmProtected ↑a = false ∨ mayProtected use = true) ∧ (s.useCheck AccessKind.read (↑a) use).fst = true ∧ twins = 0 ∧ (¬((↑a : Nat) / 64 ∈ s.hb.poison ∨ s.keysOf ↑a = [])) ∧ (found = LineCheck.clean ∨ found = LineCheck.macFail ∧ hbmProtected ↑a = false)) ∧
    (∃ (a : Fin 49928994816) (use : HbmUse) (found : LineCheck) (twins : Nat) (s : Machine.State), s.hbmWaits ↑a = false ∧ (hbmProtected ↑a = false ∨ mayProtected use = true) ∧ (s.useCheck AccessKind.read (↑a) use).fst = true ∧ twins = 0 ∧ (¬((↑a : Nat) / 64 ∈ s.hb.poison ∨ s.keysOf ↑a = [])) ∧ found = LineCheck.corrected) ∧
    (∃ (a : Fin 49928994816) (use : HbmUse) (found : LineCheck) (twins : Nat) (s : Machine.State), s.hbmWaits ↑a = false ∧ (hbmProtected ↑a = false ∨ mayProtected use = true) ∧ (s.useCheck AccessKind.read (↑a) use).fst = true ∧ twins = 0 ∧ (¬((↑a : Nat) / 64 ∈ s.hb.poison ∨ s.keysOf ↑a = [])) ∧ found = LineCheck.uncorrectable) ∧
    (∃ (a : Fin 49928994816) (use : HbmUse) (found : LineCheck) (twins : Nat) (s : Machine.State), s.hbmWaits ↑a = false ∧ (hbmProtected ↑a = false ∨ mayProtected use = true) ∧ (s.useCheck AccessKind.read (↑a) use).fst = true ∧ twins = 0 ∧ (¬((↑a : Nat) / 64 ∈ s.hb.poison ∨ s.keysOf ↑a = [])) ∧ found = LineCheck.macFail ∧ hbmProtected ↑a = true) ∧
    (∃ (a : Fin 49928994816) (use : HbmUse) (twins : Nat) (s : Machine.State), s.hbmWaits ↑a = false ∧ (hbmProtected ↑a = false ∨ mayProtected use = true) ∧ (s.useCheck AccessKind.read (↑a) use).fst = true ∧ 2 ≤ twins ∧ (¬((↑a : Nat) / 64 ∈ s.hb.poison ∨ s.keysOf ↑a = []))) ∧
    (∃ (s : Machine.State) (d : Cmd) (rest : List Cmd), s.granted = some (d, rest)) ∧
    (∃ (a : Nat) (c : Ctx) (s : Machine.State) (line : Nat), s.tableLine (a / 128) = some line ∧ (s.ctx (ctxKey c)).usesTable = true) ∧
    (∃ (a : Nat) (c : Ctx) (s : Machine.State) (line : Nat), s.tableLine (a / 128) = some line ∧ (s.ctx (ctxKey c)).usesTable = false) ∧
    (∃ (use : HbmUse), (use = HbmUse.scrubber ∨ use = HbmUse.sweeper)) ∧
    (∃ (use : HbmUse), (use = HbmUse.core ∨ use = HbmUse.replication ∨ use = HbmUse.cardDma)) ∧
    (∃ (a : Fin 49928994816) (use : HbmUse) (s : Machine.State), (s.hbmWaits ↑a = true ∨ hbmProtected ↑a = true ∧ mayProtected use = false)) ∧
    (∃ (a : Fin 49928994816) (use : HbmUse) (s : Machine.State), s.hbmWaits ↑a = false ∧ (hbmProtected ↑a = false ∨ mayProtected use = true) ∧ (s.useCheck AccessKind.write (↑a) use).fst = false) ∧
    (∃ (a : Fin 49928994816) (use : HbmUse) (data : List Byte) (twins : Nat) (s : Machine.State), s.hbmWaits ↑a = false ∧ (hbmProtected ↑a = false ∨ mayProtected use = true) ∧ (s.useCheck AccessKind.write (↑a) use).fst = true ∧ twins = 0 ∧ s.writeFails (↑a) (List.take (64 - ↑a % 64) data).length = true) ∧
    (∃ (a : Fin 49928994816) (use : HbmUse) (data : List Byte) (twins : Nat) (s : Machine.State), s.hbmWaits ↑a = false ∧ (hbmProtected ↑a = false ∨ mayProtected use = true) ∧ (s.useCheck AccessKind.write (↑a) use).fst = true ∧ twins = 0 ∧ s.writeFails (↑a) (List.take (64 - ↑a % 64) data).length = false) ∧
    (∃ (a : Fin 49928994816) (use : HbmUse) (twins : Nat) (s : Machine.State), s.hbmWaits ↑a = false ∧ (hbmProtected ↑a = false ∨ mayProtected use = true) ∧ (s.useCheck AccessKind.write (↑a) use).fst = true ∧ 2 ≤ twins) ∧
    (∃ (k : Fin 2) (s : Machine.State), s.get (R.HBM_SCRUB_EN ↑k) ≠ 0 ∧ s.get (R.HBM_PHY_READY ↑k) ≠ 0 ∧ s.get (R.HBM_PROT_READY ↑k) ≠ 0 ∧ s.get (R.HBM_WORK_READY ↑k) ≠ 0 ∧ s.channelFrozen (s.holder (stackAddr (↑k) (s.get (R.HBM_SCRUB_LINE ↑k)))).channel = false ∧ s.grantOf (256 + (s.holder (stackAddr (↑k) (s.get (R.HBM_SCRUB_LINE ↑k)))).channel) ≠ some 7) ∧
    (∃ (k : Fin 2) (s : Machine.State), s.get (R.HBM_SCRUB_EN ↑k) ≠ 0 ∧ s.get (R.HBM_PHY_READY ↑k) ≠ 0 ∧ s.get (R.HBM_PROT_READY ↑k) ≠ 0 ∧ s.get (R.HBM_WORK_READY ↑k) ≠ 0 ∧ (s.channelFrozen (s.holder (stackAddr (↑k) (s.get (R.HBM_SCRUB_LINE ↑k)))).channel = true ∨ s.grantOf (256 + (s.holder (stackAddr (↑k) (s.get (R.HBM_SCRUB_LINE ↑k)))).channel) = some 7) ∧ s.hb.poison = [] ∧ Sparse.get [] s.hb.keys 0 ≠ [] ∧ Sparse.get [] s.hb.keys 1 ≠ []) ∧
    (∃ (k : Fin 2) (s : Machine.State), s.responds (pgHBM ↑k) = true ∧ s.repairing = false ∧ s.mode ≠ Mode.boot ∧ s.mode ≠ Mode.responded ∧ s.ob.onMain = true) ∧
    (∃ (k : Fin 2) (s : Machine.State), s.repairAt (↑k) 1 = none) ∧
    (∃ (k : Fin 2) (c : Nat) (s : Machine.State) (l : Nat), s.repairAt (↑k) 1 = some c ∧ hbmChannel (64 * l) = c) ∧
    (∃ (k : Fin 2) (s : Machine.State), s.get (R.HBM_PPR_STATE ↑k) = 2) ∧
    (∃ (k : Fin 2) (s : Machine.State), s.get (R.HBM_PPR_STATE ↑k) = 3) ∧
    (∃ (k : Fin 2) (s : Machine.State), s.repairAt (↑k) 4 = none) ∧
    (∃ (k : Fin 2) (c : Nat) (s : Machine.State), s.repairAt (↑k) 4 = some c) :=
  ⟨⟨0, sB, by decide +kernel⟩,
   ⟨1, { (sB.set R.FLT_READY 1).set (R.HBM_PHY_READY 1) 1 with hb.keys := [] }, by decide +kernel⟩,
   ⟨0, keysd, by decide +kernel⟩,
   ⟨0, rdy.set (R.HBM_WORK_READY 0) 0, by decide +kernel⟩,
   ⟨0, keysd, by decide +kernel⟩,
   ⟨0, .cardDma, rdy, by decide +kernel⟩,
   ⟨⟨0x902400000, by decide⟩, .cardDma, memd, by decide +kernel⟩,
   ⟨⟨64 * 5, by decide⟩, .core, 0, rdy, by decide +kernel⟩,
   ⟨⟨0x902400000, by decide⟩, .core, .macFail, 0, memd, by decide +kernel⟩,
   ⟨⟨0x902400000, by decide⟩, .core, .corrected, 0, memd, by decide +kernel⟩,
   ⟨0, .core, .uncorrectable, 0, memd, by decide +kernel⟩,
   ⟨0, .core, .macFail, 0, memd, by decide +kernel⟩,
   ⟨0, .core, 2, memd, by decide +kernel⟩,
   ⟨ask, c1, [], by decide +kernel⟩,
   ⟨0, cx, atFetch, 0, by decide +kernel⟩,
   ⟨0, cx, up, 0, by decide +kernel⟩,
   ⟨.sweeper, by decide +kernel⟩,
   ⟨.replication, by decide +kernel⟩,
   ⟨0, .cardDma, rdy, by decide +kernel⟩,
   ⟨⟨0x902400000, by decide⟩, .cardDma, memd, by decide +kernel⟩,
   ⟨⟨64 * 5, by decide⟩, .core, [1, 2], 0, rdy, by decide +kernel⟩,
   ⟨⟨0x902400002, by decide⟩, .core, [9, 9, 9], 0, memd, by decide +kernel⟩,
   ⟨0, .core, 2, memd, by decide +kernel⟩,
   ⟨1, rdy.set (R.HBM_SCRUB_EN 1) 1, by decide +kernel⟩,
   ⟨1, granting (256 + 32) 7 { rdy.set (R.HBM_SCRUB_EN 1) 1 with hb.poison := [] }, by decide +kernel⟩,
   ⟨1, rdy, by decide +kernel⟩,
   ⟨1, rdy, by decide +kernel⟩,
   ⟨1, 37, { pp 1 with hb.repair := some 37 }, 4 * 37 + 2, by decide +kernel⟩,
   ⟨1, pp 2, by decide +kernel⟩,
   ⟨1, pp 3, by decide +kernel⟩,
   ⟨0, { pp 4 with hb.repair := some 37 }, by decide +kernel⟩,
   ⟨1, 37, { pp 4 with hb.repair := some 37 }, by decide +kernel⟩⟩

theorem test_hypotheses_ArbitersGrantByCredit :
    (∃ (unit : Nat) (p : Placement) (requests : List Nat) (s : Machine.State), placement unit = some p ∧ (s.arbFrozen p = true ∨ (s.arb unit).owner ≠ none ∨ ((s.noteWaits unit p requests).arb unit).waiting = [])) ∧
    (∃ (unit : Nat) (p : Placement) (requests : List Nat) (s : Machine.State), placement unit = some p ∧ s.arbFrozen p = false ∧ (s.arb unit).owner = none ∧ ((s.noteWaits unit p requests).arb unit).waiting ≠ [] ∧ (∀ (w : Waiting), w ∈ ((s.noteWaits unit p requests).arb unit).waiting → w.req ∈ s.requesters p)) ∧
    (∃ (unit : Nat) (p : Placement) (s : Machine.State), placement unit = some p ∧ s.quartz < (s.arb unit).nextWin) ∧
    (∃ (unit : Nat) (p : Placement) (s : Machine.State), placement unit = some p ∧ (s.arb unit).nextWin ≤ s.quartz) ∧
    (∃ (unit : Nat) (p : Placement) (s : Machine.State), placement unit = some p ∧ ((s.arb unit).owner = none ∨ s.grantStands unit p = true)) ∧
    (∃ (unit : Nat) (p : Placement) (s : Machine.State), placement unit = some p ∧ (s.arb unit).owner ≠ none ∧ s.grantStands unit p = false) ∧
    (∃ (reg : Fin 3) (s : Machine.State), s.responds pgARB = true ∧ ↑reg ≠ 0) ∧
    (∃ (reg : Fin 3) (s : Machine.State), s.responds pgARB = true ∧ ↑reg = 0) ∧
    (∃ (s : Machine.State), s.responds pgARB = false) ∧
    (∃ (unit : Nat) (r : Nat) (p : Placement) (w : Waiting) (s : Machine.State), placement unit = some p ∧ p ≠ Placement.dispatch ∧ List.find? (fun x => x.req == r) ((s.noteWaits unit p []).arb unit).waiting = some w ∧ (w.starved = true ∨ s.arbFrozen p = true ∨ s.waited p w.since ≤ match p with | Placement.fetch port => s.get R.ARB_STARVE_FETCH | x => s.get R.ARB_STARVE_LOW)) ∧
    (∃ (unit : Nat) (r : Nat) (p : Placement) (w : Waiting) (s : Machine.State), placement unit = some p ∧ p ≠ Placement.dispatch ∧ List.find? (fun x => x.req == r) ((s.noteWaits unit p []).arb unit).waiting = some w ∧ w.starved = false ∧ s.arbFrozen p = false ∧ (match p with | Placement.fetch port => s.get R.ARB_STARVE_FETCH | x => s.get R.ARB_STARVE_LOW) < s.waited p w.since) :=
  ⟨⟨rq, .hbm 5, [1], { sB with arbs := [(rq, { owner := some 2 })] }, by decide +kernel⟩,
   ⟨rq, .hbm 5, [1, 4], { sB with quartz := 10 ^ 6 }, by decide +kernel⟩,
   ⟨rq, .hbm 5, { sB with arbs := [(rq, { nextWin := 10 ^ 9 })] }, by decide +kernel⟩,
   ⟨rq, .hbm 5, { sB with quartz := 10 ^ 6, arbs := [(rq, { credits := [(1, -3), (2, 5)] })] }, by decide +kernel⟩,
   ⟨rq, .hbm 5, sB, by decide +kernel⟩,
   ⟨rq, .hbm 5, { sB with arbs := [(rq, { owner := some 1, credits := [(1, -3), (2, 5)] })] }, by decide +kernel⟩,
   ⟨1, sB, by decide +kernel⟩,
   ⟨0, sB, by decide +kernel⟩,
   ⟨{ sB with bt.vddLow := true }, by decide +kernel⟩,
   ⟨rq, 3, .hbm 5, wt, { sB with arbs := [(rq, { waiting := [wt] })] }, by decide +kernel⟩,
   ⟨rq, 3, .hbm 5, wt, { sB with quartz := 10 ^ 7, arbs := [(rq, { waiting := [wt] })] }, by decide +kernel⟩⟩

end T07b

namespace T08

def sB : State := running c1 {} (served { qstate := .active })
def busy : State := { sB with hq.staged := [c1, { c1 with part := 2 }] }
def setp (f : Part → Part) (s : State := sB) : State := s.updPart 1 f
def off (i r : Nat) : Officer := { oid := i, role := r, ktype := 1, keyfp := zeros 32 }
def gated : State := (sB.updPart 0 fun x => { x with officers := [off 1 1, off 2 2] }).updPart 1 fun x => { x with officers := [off 1 1, off 2 2] }
def open10 : State := match execStagingWrite (.pf 0) (.newRoot 1) gated with | .next t => t | _ => up
def sealed : State := open10.set R.GATE_STATE 2
def msg : List Byte := [0x4B, 0x4C, 0x41, 0x50] ++ sealed.gateStamp ++ sealed.gateDigest ++ [1, 0, 1, 0]
def approval (key sig : List Byte) : Approval := { ctx := 64, msg, key, sig }
/-- A change set sealed, an officer's approval being verified. -/
def vfy (a : Approval) (first : Option (Nat × Nat) := none) : State := { sealed with gt.verifying := [a], gt.appr1 := first }
def wrong : Approval := { ctx := 64, msg := zeros 60, key := [], sig := [] }
def gateS (n : Nat) : State := { (up.set R.GATE_STATE n).set (R.QTZ_EN 0) 1 with quartz := 10 ^ 15 }
def dark : State := { sB with bt.vddLow := true }

theorem test_hypotheses_PartitionCommandsAndAccessChecks :
    (∃ (p : Fin 1024) (s : Machine.State), s.responds pgGATE = true ∧ s.partCmdOk ↑p = true ∧ ((s.part ↑p).pstate = PState.active ∨ (s.part ↑p).pstate = PState.draining)) ∧
    (∃ (p : Fin 1024) (s : Machine.State), s.responds pgGATE = true ∧ s.partCmdOk ↑p = true ∧ (s.part ↑p).pstate = PState.frozen) ∧
    (∃ (p : Fin 1024) (s : Machine.State), s.responds pgGATE = true ∧ s.partCmdOk ↑p = true ∧ (s.part ↑p).pstate = PState.active) ∧
    (∃ (s : Machine.State), s.responds pgGATE = false) ∧
    (∃ (p : Fin 1024) (s : Machine.State), ((s.part ↑p).freezing = false ∨ s.partQuiet ↑p = false)) ∧
    (∃ (p : Fin 1024) (s : Machine.State), ((s.part ↑p).pstate ≠ PState.draining ∨ s.backlog ↑p ≠ 0 ∨ s.partQuiet ↑p = false)) ∧
    (∃ (p : Fin 1024) (s : Machine.State), (s.part ↑p).freezing = true ∧ s.partQuiet ↑p = true) ∧
    (∃ (p : Fin 1024) (s : Machine.State), (s.part ↑p).pstate = PState.draining ∧ s.backlog ↑p = 0 ∧ s.partQuiet ↑p = true) ∧
    (∃ (m : Fin 16) (kind : AccessKind), (14 ≤ ↑m ∨ kind = AccessKind.fetch ∧ 8 ≤ ↑m)) ∧
    (∃ (m : Fin 16) (kind : AccessKind) (addr : Fin 1099511627776) (len : Nat) (tag : Fin 1024) (s : Machine.State), (∃ p, p ∈ pieces (↑addr) len ∧ s.piecePermitted (↑m) kind p.fst (s.masterTag ↑m ↑tag) = true ∧ p.fst < hbmEnd ∧ s.hbmWaits p.fst = true)) ∧
    (∃ (m : Nat) (a : Nat), a < hbmEnd ∧ hbmProtected a = true ∧ mayProtected (busUse m) = false) ∧
    (∃ (m : Nat) (a : Nat), a < hbmEnd ∧ (hbmProtected a = false ∨ mayProtected (busUse m) = true)) ∧
    (∃ (a : Nat), inSram a = true) ∧
    (∃ (m : Fin 16) (kind : AccessKind) (addr : Fin 1099511627776) (len : Nat) (tag : Fin 1024) (s : Machine.State), (kind = AccessKind.read ∧ ↑m < 14 ∨ kind = AccessKind.fetch ∧ ↑m < 8) ∧ (∀ (p : Nat × Nat), p ∈ pieces (↑addr) len → s.piecePermitted (↑m) kind p.fst (s.masterTag ↑m ↑tag) = true → p.fst < hbmEnd → s.hbmWaits p.fst = false)) ∧
    (∃ (m : Fin 16) (addr : Fin 1099511627776) (len : Nat) (tag : Fin 1024) (s : Machine.State), ↑m < 14 ∧ (∀ (p : Nat × Nat), p ∈ pieces (↑addr) len → s.piecePermitted (↑m) AccessKind.write p.fst (s.masterTag ↑m ↑tag) = true → p.fst < hbmEnd → s.hbmWaits p.fst = false)) ∧
    (∃ (m : Fin 16) (s : Machine.State), s.get (R.MPU_COMMIT_BUSY ↑m) = 0) ∧
    (∃ (m : Fin 16) (s : Machine.State), (s.get (R.MPU_COMMIT_BUSY ↑m) = 0 ∨ ↑m ∈ s.gt.mpuOver ∨ s.quartz ≤ Sparse.get 0 s.gt.mpuCut ↑m + 2000)) ∧
    (∃ (m : Fin 16) (s : Machine.State), s.get (R.MPU_COMMIT_BUSY ↑m) ≠ 0 ∧ ¬↑m ∈ s.gt.mpuOver ∧ Sparse.get 0 s.gt.mpuCut ↑m + 2000 < s.quartz) :=
  ⟨⟨1, busy, by decide +kernel⟩,
   ⟨1, setp (fun x => { x with pstate := .frozen }), by decide +kernel⟩,
   ⟨1, busy, by decide +kernel⟩,
   ⟨dark, by decide +kernel⟩,
   ⟨1, up, by decide +kernel⟩,
   ⟨1, up, by decide +kernel⟩,
   ⟨1, { setp (fun x => { x with pstate := .frozen, freezing := true }) up with gt.cmdPart := some 1 }, by decide +kernel⟩,
   ⟨1, setp (fun x => { x with pstate := .draining }) up, by decide +kernel⟩,
   ⟨8, .fetch, by decide +kernel⟩,
   ⟨0, .read, 0, 4, 0, up, by decide +kernel⟩,
   ⟨10, 0, by decide +kernel⟩,
   ⟨0, 0, by decide +kernel⟩,
   ⟨0x1000000000, by decide +kernel⟩,
   ⟨0, .read, ⟨0x1000000000, by decide⟩, 4, 0, up, by decide +kernel⟩,
   ⟨0, ⟨0x1000000000, by decide⟩, 4, 0, up, by decide +kernel⟩,
   ⟨3, sB, by decide +kernel⟩,
   ⟨3, sB, by decide +kernel⟩,
   ⟨3, { sB.set (R.MPU_COMMIT_BUSY 3) 1 with quartz := 10000 }, by decide +kernel⟩⟩

theorem test_hypotheses_GateTakesTwoApprovals :
    (∃ (c : Change) (cls : Nat) (scope : Nat) (s : Machine.State), s.responds pgGATE = true ∧ ((∃ p i f, c = Change.vf p i f) ∨ (∃ p, c = Change.create p) ∨ (∃ p, c = Change.delete p) ∨ (∃ p i o, c = Change.officer p i o) ∨ ∃ p, c = Change.newRoot p) ∧ s.changeClass c = some (cls, scope) ∧ s.gateTakes cls scope = true ∧ s.get R.GATE_STATE ≤ 1 ∧ s.gt.set.length < 4096) ∧
    (∃ (addr : Nat) (cls : Nat) (scope : Nat) (v : Nat) (s : Machine.State), s.responds pgGATE = true ∧ s.responds (addr / 4096) = true ∧ s.changeClass (Change.word addr (s.selectorOf addr) (v &&& (Option.map (fun x => x.mask) (guardedAt addr)).getD 0)) = some (cls, scope) ∧ s.gateTakes cls scope = true ∧ s.get R.GATE_STATE ≤ 1 ∧ s.gt.set.length < 4096) ∧
    (∃ (c : Change) (cls : Nat) (scope : Nat) (s : Machine.State), s.responds pgGATE = true ∧ ((∃ p i f, c = Change.vf p i f) ∨ (∃ p, c = Change.create p) ∨ (∃ p, c = Change.delete p) ∨ (∃ p i o, c = Change.officer p i o) ∨ ∃ p, c = Change.newRoot p) ∧ s.changeClass c = some (cls, scope) ∧ (s.gateTakes cls scope = false ∨ 4096 ≤ s.gt.set.length ∧ s.gt.set.any (sameTarget c) = false)) ∧
    (∃ (c : Change) (s : Machine.State), ((∃ k i bs, c = Change.image k i bs) ∨ (∃ l tok, c = Change.lifeCycle l tok) ∨ (∃ b, c = Change.reProvision b) ∨ s.responds pgGATE = false)) ∧
    (∃ (s : Machine.State), s.responds pgGATE = true ∧ s.inReset = false ∧ s.get R.GATE_STATE ≤ 1 ∧ (s.gt.set = [] ∨ s.sealable = false)) ∧
    (∃ (s : Machine.State), (s.responds pgGATE = false ∨ s.inReset = true ∨ 2 ≤ s.get R.GATE_STATE)) ∧
    (∃ (s : Machine.State), (s.responds pgGATE = false ∨ s.inReset = true ∨ s.get R.GATE_STATE = 0 ∨ 4 ≤ s.get R.GATE_STATE)) ∧
    (∃ (s : Machine.State), s.responds pgGATE = true ∧ s.inReset = false ∧ s.get R.GATE_STATE ≤ 1 ∧ s.gt.set ≠ [] ∧ s.sealable = true) ∧
    (∃ (s : Machine.State), s.responds pgGATE = true ∧ s.inReset = false ∧ 1 ≤ s.get R.GATE_STATE ∧ s.get R.GATE_STATE ≤ 3) ∧
    (∃ (s : Machine.State), (s.get R.GATE_STATE = 2 ∨ s.get R.GATE_STATE = 3) ∧ s.gt.sealedAt + 1000000000 * s.get R.GATE_WINDOW_S ≤ s.quartz ∧ s.hasUnit 0 = true) ∧
    (∃ (i : Nat) (a : Approval) (st : Nat) (det : Nat) (s : Machine.State), s.gt.verifying[i]? = some a ∧ ({ s with gt := { s.gt with verifying := s.gt.verifying.eraseIdx i } } : State).approvalRefusal a.msg a.key a.sig = some (st, det)) ∧
    (∃ (s : Machine.State), (s.get R.GATE_STATE ≠ 4 ∨ s.lc.target ≠ none ∨ ∃ p, p ∈ s.gt.froze ∧ s.partQuiet p = false)) ∧
    (∃ (s : Machine.State), s.get R.GATE_STATE = 4 ∧ s.lc.target = none ∧ (∀ (p : Nat), p ∈ s.gt.froze → s.partQuiet p = true)) ∧
    (∃ (s : Machine.State), (s.get R.GATE_STATE ≠ 5 ∨ s.classDone = false ∨ s.deltaDone = false)) ∧
    (∃ (s : Machine.State), s.get R.GATE_STATE = 5 ∧ s.classDone = true ∧ s.deltaDone = true) :=
  ⟨⟨.create 7, 1, 0xFFFF, gated, ⟨by decide +kernel, .inr (.inl ⟨7, rfl⟩), by decide +kernel, by decide +kernel, by decide +kernel, by decide +kernel⟩⟩,
   ⟨0x30104, 1, 0xFFFF, 0xFFFFFFFF, gated, by decide +kernel⟩,
   ⟨.create 7, 1, 0xFFFF, open10, ⟨by decide +kernel, .inr (.inl ⟨7, rfl⟩), by decide +kernel, .inl (by decide +kernel)⟩⟩,
   ⟨.reProvision true, up, (.inr (.inr (.inl ⟨true, rfl⟩)))⟩,
   ⟨up, by decide +kernel⟩,
   ⟨dark, by decide +kernel⟩,
   ⟨up, by decide +kernel⟩,
   ⟨open10, by decide +kernel⟩,
   ⟨open10, by decide +kernel⟩,
   ⟨gateS 2, by decide +kernel⟩,
   ⟨0, wrong, stFormatError, 0xC080, vfy wrong, by decide +kernel⟩,
   ⟨up, (.inl (by decide +kernel))⟩,
   ⟨gateS 4, by decide +kernel⟩,
   ⟨up, by decide +kernel⟩,
   ⟨gateS 5, by decide +kernel⟩⟩

theorem test_hypotheses_ObsidianRespondsToAlarms :
    (∃ (a : BitVec 8) (b : BitVec 8) (x : MonitorSample) (s : Machine.State), ({ s with ob := { s.ob with tempA := a.toNat, tempB := b.toNat, patterns := s.ob.patterns + b2n (decide (↑x.input ≤ 2)) } } : State).samples ↑x.input = true ∧ ((({ s with ob := { s.ob with tempA := a.toNat, tempB := b.toNat, patterns := s.ob.patterns + b2n (decide (↑x.input ≤ 2)) } } : State).monitor ↑x.input).step (({ s with ob := { s.ob with tempA := a.toNat, tempB := b.toNat, patterns := s.ob.patterns + b2n (decide (↑x.input ≤ 2)) } } : State).filtN ↑x.input) (({ s with ob := { s.ob with tempA := a.toNat, tempB := b.toNat, patterns := s.ob.patterns + b2n (decide (↑x.input ≤ 2)) } } : State).filtM ↑x.input) (({ s with ob := { s.ob with tempA := a.toNat, tempB := b.toNat, patterns := s.ob.patterns + b2n (decide (↑x.input ≤ 2)) } } : State).present x)).snd = false) ∧
    (∃ (a : BitVec 8) (b : BitVec 8) (x : MonitorSample) (s : Machine.State), ({ s with ob := { s.ob with tempA := a.toNat, tempB := b.toNat, patterns := s.ob.patterns + b2n (decide (↑x.input ≤ 2)) } } : State).samples ↑x.input = true ∧ ((({ s with ob := { s.ob with tempA := a.toNat, tempB := b.toNat, patterns := s.ob.patterns + b2n (decide (↑x.input ≤ 2)) } } : State).monitor ↑x.input).step (({ s with ob := { s.ob with tempA := a.toNat, tempB := b.toNat, patterns := s.ob.patterns + b2n (decide (↑x.input ≤ 2)) } } : State).filtN ↑x.input) (({ s with ob := { s.ob with tempA := a.toNat, tempB := b.toNat, patterns := s.ob.patterns + b2n (decide (↑x.input ≤ 2)) } } : State).filtM ↑x.input) (({ s with ob := { s.ob with tempA := a.toNat, tempB := b.toNat, patterns := s.ob.patterns + b2n (decide (↑x.input ≤ 2)) } } : State).present x)).snd = true ∧ s.ob.onMain = true ∧ 3 ≤ s.respClass ↑x.input ∧ s.inForce < s.respClass ↑x.input ∧ s.respClass ↑x.input ≤ 4) ∧
    (∃ (a : BitVec 8) (b : BitVec 8) (x : MonitorSample) (s : Machine.State), ({ s with ob := { s.ob with tempA := a.toNat, tempB := b.toNat, patterns := s.ob.patterns + b2n (decide (↑x.input ≤ 2)) } } : State).samples ↑x.input = true ∧ ((({ s with ob := { s.ob with tempA := a.toNat, tempB := b.toNat, patterns := s.ob.patterns + b2n (decide (↑x.input ≤ 2)) } } : State).monitor ↑x.input).step (({ s with ob := { s.ob with tempA := a.toNat, tempB := b.toNat, patterns := s.ob.patterns + b2n (decide (↑x.input ≤ 2)) } } : State).filtN ↑x.input) (({ s with ob := { s.ob with tempA := a.toNat, tempB := b.toNat, patterns := s.ob.patterns + b2n (decide (↑x.input ≤ 2)) } } : State).filtM ↑x.input) (({ s with ob := { s.ob with tempA := a.toNat, tempB := b.toNat, patterns := s.ob.patterns + b2n (decide (↑x.input ≤ 2)) } } : State).present x)).snd = true ∧ s.ob.onMain = false) ∧
    (∃ (s : Machine.State), s.bit R.RST_BLK_READY 12 = true) ∧
    (∃ (s : Machine.State), s.responds pgOBS = true ∧ s.ob.latch = 1 ∧ (∀ (i : Nat), i < 22 → (s.monitor i).asserted = false ∨ s.respClass i ≠ 1)) ∧
    (∃ (i : Nat) (s : Machine.State), i < 22 ∧ (s.monitor i).asserted = true ∧ s.respClass i = 1) ∧
    (∃ (s : Machine.State), s.responds pgOBS = true ∧ s.ob.latch ≠ 1) ∧
    (∃ (s : Machine.State), s.bt.vigil = false ∧ s.bt.vddLow = false) ∧
    (∃ (s : Machine.State), (s.bt.vigil = true ∨ s.bt.vddLow = true)) ∧
    (∃ (s : Machine.State), s.ob.onMain = true ∧ s.bt.vddLow = false) ∧
    (∃ (s : Machine.State), s.ob.onMain = true ∧ s.bt.vddLow = true) :=
  ⟨⟨3, 7, ⟨0, true, 3, 0⟩, sB, by decide +kernel⟩,
   ⟨3, 7, ⟨0, true, 3, 0⟩, { sB with ob := { sB.ob with monitors := [(0, { samples := List.replicate 16 true })] } }, by decide +kernel⟩,
   ⟨3, 7, ⟨0, true, 3, 0⟩, { sB with ob := { sB.ob with onMain := false, monitors := [(0, { samples := List.replicate 16 true })] } }, by decide +kernel⟩,
   ⟨sB, by decide +kernel⟩,
   ⟨{ sB with ob.latch := 1 }, by decide +kernel⟩,
   ⟨15, { sB with ob := { sB.ob with monitors := [(15, { samples := List.replicate 16 true, asserted := true })], latch := 1 } }, by decide +kernel⟩,
   ⟨{ sB with ob.latch := 3 }, by decide +kernel⟩,
   ⟨sB, by decide +kernel⟩,
   ⟨dark, by decide +kernel⟩,
   ⟨sB, by decide +kernel⟩,
   ⟨dark, by decide +kernel⟩⟩

theorem test_hypotheses_LifeCycleCommands :
    (∃ (target : Fin 16) (idx : Fin 16) (s : Machine.State) (code : Nat), s.responds pgLCS = true ∧ target ≠ 3 ∧ ((s.set R.LCS_TARGET ↑target).set R.LCS_TEST_IDX ↑idx).lcRefusal true (↑target) ((s.set R.LCS_TARGET ↑target).set R.LCS_TEST_IDX ↑idx).lcToken = some code) ∧
    (∃ (target : Nat) (s : Machine.State), s.lc.target = some target ∧ (s.get R.GATE_STATE ≠ 5 ∨ s.gt.set.any Change.isLifeCycle = false)) ∧
    (∃ (s : Machine.State), s.lc.nonce ≠ [] ∧ s.lc.nonceDue ≤ s.quartz ∧ s.hasUnit 1 = true) ∧
    (∃ (g : Nat) (s : Machine.State), s.lc.opening = some g ∧ 3 ≤ s.ob.latch ∧ bitOf s.ob.conds 18 = false) ∧
    (∃ (s : Machine.State), s.lc.opening ≠ none ∧ s.ob.latch < 3) ∧
    (∃ (s : Machine.State), s.responds pgLCS = false) ∧
    (∃ (idx : Fin 16) (code : Nat) (s : Machine.State), s.inReset = false ∧ s.testRefusal (↑idx) s.lcToken = some code) ∧
    (∃ (s : Machine.State), (s.lc.target = none ∨ s.get R.GATE_STATE = 5 ∧ s.gt.set.any Change.isLifeCycle = true)) ∧
    (∃ (s : Machine.State), (s.lc.nonce = [] ∨ s.quartz < s.lc.nonceDue ∨ s.hasUnit 1 = false)) ∧
    (∃ (s : Machine.State), (s.lc.opening = none ∨ bitOf s.ob.conds 18 = true)) :=
  ⟨⟨4, 2, { sB with lc.target := some 2 }, 1, by decide +kernel⟩,
   ⟨2, { sB with lc.target := some 2 }, by decide +kernel⟩,
   ⟨{ sB.set (R.QTZ_EN 1) 1 with lc.nonce := [1], lc.nonceDue := 4, quartz := 10 }, by decide +kernel⟩,
   ⟨5, { sB with lc.opening := some 5, ob.latch := 3 }, by decide +kernel⟩,
   ⟨{ sB with lc.opening := some 5 }, by decide +kernel⟩,
   ⟨dark, by decide +kernel⟩,
   ⟨2, 1, { sB with lc.target := some 2 }, by decide +kernel⟩,
   ⟨sB, by decide +kernel⟩,
   ⟨sB, by decide +kernel⟩,
   ⟨sB, by decide +kernel⟩⟩

theorem approval_taken (key sig : List Byte) (s : State) (ha : s.approvers = sealed.approvers) (hc : s.regs = sealed.regs)
    (hn : s.approvalNames msg = true) (hv : approvalVerifies 1 key sig msg = true) (h1 : s.gt.appr1 = none ∨ s.gt.appr1 = some (2, 2)) :
    s.approvalRefusal msg key sig = none := by
  have ho : numAt msg 52 2 = 1 := by decide +kernel
  have hr : byteAt msg 54 = 1 := by decide +kernel
  have hs : s.approver msg = some (off 1 1) := by unfold State.approver; rw [ho, ha]; decide +kernel
  have hg : s.get R.GATE_CLASS = sealed.get R.GATE_CLASS := by unfold State.get; rw [hc]
  unfold State.approvalRefusal
  rw [hs]
  simp only [hn, hr, off, hv, hg]
  obtain h1 | h1 := h1 <;> rw [h1] <;> decide +kernel

theorem names (s : State) (hc : s.regs = sealed.regs) (hs : s.gateStamp = sealed.gateStamp) (hd : s.gateDigest = sealed.gateDigest) :
    s.approvalNames msg = true := by
  have : msg.take 52 = [0x4B, 0x4C, 0x41, 0x50] ++ sealed.gateStamp ++ sealed.gateDigest := by
    unfold msg
    rw [List.take_append_of_le_length (by decide +kernel), List.take_of_length_le (by decide +kernel)]
  have h : s.get R.GATE_STATE = 2 := by unfold State.get; rw [hc]; decide +kernel
  unfold State.approvalNames
  rw [h, hs, hd, this, decide_eq_true rfl]
  rfl

theorem test_hypotheses_GateTakesTwoApprovals_approved (key sig : List Byte) (hv : approvalVerifies 1 key sig msg = true) :
    (∃ (i : Nat) (a : Approval) (s : Machine.State), s.gt.verifying[i]? = some a ∧ ({ s with gt := { s.gt with verifying := s.gt.verifying.eraseIdx i } } : State).approvalRefusal a.msg a.key a.sig = none ∧ s.gt.appr1 = none) ∧
    (∃ (i : Nat) (a : Approval) (s : Machine.State), s.gt.verifying[i]? = some a ∧ ({ s with gt := { s.gt with verifying := s.gt.verifying.eraseIdx i } } : State).approvalRefusal a.msg a.key a.sig = none ∧ s.gt.appr1 ≠ none) :=
  ⟨⟨0, approval key sig, vfy (approval key sig), ⟨rfl, approval_taken key sig _ rfl rfl (names _ rfl rfl rfl) hv (.inl rfl), rfl⟩⟩,
   ⟨0, approval key sig, vfy (approval key sig) (some (2, 2)), ⟨rfl, approval_taken key sig _ rfl rfl (names _ rfl rfl rfl) hv (.inr rfl), by simp [vfy]⟩⟩⟩

def token : List Byte := zeros 32
def targeting : State := { sB with lc.word := lcCodeword 2 }

theorem lcTaken (s : State) (h : Config.tokenDigest 4 = some (sha3_256 token))
    (hs : (s.lc.target == none && (s.lcToken == token) && lcLegal s.lcState (lcPending s.lc.word) 4 && s.directOk) = true) :
    s.lcRefusal true 4 s.lcToken = none := by
  simp only [Bool.and_eq_true, beq_iff_eq] at hs
  obtain ⟨⟨⟨h1, h2⟩, h3⟩, h4⟩ := hs
  unfold State.lcRefusal
  simp [h, h1, h2, h3, h4]

theorem testTaken (s : State) (h : Config.testDigest 1 = some (sha3_256 token))
    (hs : (s.lc.target == none && (s.lcToken == token) && s.lcState == 2 && bitOf s.lc.burned 1 == false) = true) :
    s.testRefusal 1 s.lcToken = none := by
  simp only [Bool.and_eq_true, beq_iff_eq] at hs
  obtain ⟨⟨⟨h1, h2⟩, h3⟩, h4⟩ := hs
  unfold State.testRefusal
  simp [h, h1, h2, h3, h4]

theorem test_hypotheses_LifeCycleCommands_fused (h : Config.tokenDigest 4 = some (sha3_256 token)) (g : Config.testDigest 1 = some (sha3_256 token)) :
    (∃ (target : Fin 16) (idx : Fin 16) (s : Machine.State), s.responds pgLCS = true ∧ target ≠ 3 ∧ ((s.set R.LCS_TARGET ↑target).set R.LCS_TEST_IDX ↑idx).lcRefusal true (↑target) ((s.set R.LCS_TARGET ↑target).set R.LCS_TEST_IDX ↑idx).lcToken = none) ∧
    (∃ (idx : Fin 16) (s : Machine.State), s.inReset = false ∧ s.testRefusal (↑idx) s.lcToken = none) :=
  ⟨⟨4, 2, targeting, ⟨by decide +kernel, by decide +kernel, lcTaken _ h (by decide +kernel)⟩⟩,
   ⟨1, targeting, ⟨by decide +kernel, testTaken _ g (by decide +kernel)⟩⟩⟩

end T08

namespace T09

def sB : State := running c1 {} (served { qstate := .active })
def q9 (s : State := sB) : State := { s with quartz := 10 ^ 12 }
def eff (s : State) : State := s.set R.PWR_EFF_PL s.levelInForce
def ent (s3 : Bool) : State := { up with pw.phase := .entering, pw.s3 := s3, sc.sram := [(0x1000000000, 1)], hb.mem := [(1, 3)], hb.keys := [(0, [])] }
def slp (s3 : Bool) : State := { up with pw.phase := .asleep, pw.s3 := s3, sc.sram := [(0x1000000000, 1)] }
def rl (n : Nat) (s : State := sB) : State := q9 (s.set R.PAIR_ROLE n)
def pb (l : List (Nat × Byte)) : List Byte := l.foldl (fun r p => r.set p.1 p.2) (zeros 32)
def drained (i : Nat) : State :=
  if i < 16 then (up.set (R.BLK_FREEZE (pgSEQ i)) 1).set R.GBL_CC_INSERVICE 0 else (up.set (R.BLK_FREEZE (pgPK (i - 16))) 1).set R.GBL_PK_INSERVICE 0
def offd (i : Nat) : State := match execClusterPowerOff (Fin.ofNat 24 i) (drained i) with | .next t => t | _ => up
def relock (step : Nat) (l : List Instr := []) : State := { sB.set R.PWR_STEP step with pw := { sB.pw with relocking := true, target := 2, crossings := l } }
def standby : State := { (rl 2).set R.PAIR_PAIR_EN 1 with mode := .shadow, pr.takeAt := some 4 }
def dark : State := { sB with bt.vddLow := true }

theorem test_hypotheses_LevelsAndDomainsFollowTheirRequests :
    (∃ (s : Machine.State), s.get R.PWR_STEP = 0 ∧ s.get R.PWR_EFF_PL = s.levelInForce ∧ s.get R.PWR_CUR_PL < s.levelInForce ∧ s.get R.PWR_PL_FAIL = 0) ∧
    (∃ (s : Machine.State), s.get R.PWR_STEP = 0 ∧ s.get R.PWR_EFF_PL = s.levelInForce ∧ s.levelInForce < s.get R.PWR_CUR_PL ∧ s.get R.PWR_PL_FAIL = 0) ∧
    (∃ (s : Machine.State), s.get R.PWR_STEP = 1 ∧ s.pw.relocking = false) ∧
    (∃ (s : Machine.State), s.get R.PWR_STEP = 4 ∧ s.pw.relocking = false) ∧
    (∃ (s : Machine.State), s.pw.relocking = true ∧ s.get R.PWR_STEP = 2 ∧ s.pw.crossings = []) ∧
    (∃ (s : Machine.State), s.pw.relocking = true ∧ s.get R.PWR_STEP = 3 ∧ s.pw.crossings = []) ∧
    (∃ (s : Machine.State), (s.get R.PWR_STEP = 1 ∨ s.get R.PWR_STEP = 4) ∧ s.pw.sent + 500000 ≤ s.quartz) ∧
    (∃ (s : Machine.State), s.get R.PWR_STEP = 5 ∧ s.pw.relocking = false ∧ s.pw.sent + 10000000 ≤ s.quartz) ∧
    (∃ (b : BitVec 8) (s : Machine.State), s.inReset = false ∧ s.pw.phase ≠ SleepPhase.asleep ∧ s.pw.nextSample ≤ s.quartz ∧ b.toInt < 105) ∧
    (∃ (b : BitVec 8) (s : Machine.State), s.inReset = false ∧ s.pw.phase ≠ SleepPhase.asleep ∧ s.pw.nextSample ≤ s.quartz ∧ 105 ≤ b.toInt) ∧
    (∃ (since : Nat) (falls : Nat) (s : Machine.State), s.pw.hot = some (since, falls) ∧ s.pw.phase ≠ SleepPhase.asleep ∧ since + 1000000 + 10000000 * falls ≤ s.quartz) ∧
    (∃ (since : Nat) (s : Machine.State), s.pw.cool = some since ∧ s.pw.phase ≠ SleepPhase.asleep ∧ since + 100000000 ≤ s.quartz) ∧
    (∃ (s : Machine.State), s.pw.relocking = true ∧ s.get R.PWR_STEP = 5 ∧ s.pw.crossings = []) ∧
    (∃ (c : Instr) (cs : List Instr) (s : Machine.State), s.pw.crossings = c :: cs ∧ s.pw.relocking = true ∧ s.get R.PWR_STEP = 2) ∧
    (∃ (s : Machine.State), s.get R.PWR_STEP = 0 ∧ s.get R.PWR_EFF_PL = s.levelInForce ∧ s.get R.PWR_CUR_PL = s.levelInForce) ∧
    (∃ (i : Fin 31) (s : Machine.State), s.islandBusy ↑i = true) ∧
    (∃ (i : Fin 31) (s : Machine.State), s.islandBusy ↑i = false ∧ max 16 (s.get R.PWR_IDLE_GATE) * 1000 ≤ (s.quartz - Sparse.get 0 s.pw.activeAt ↑i) * s.islandMHz ↑i) ∧
    (∃ (i : Fin 31) (s : Machine.State), (s.quartz - Sparse.get 0 s.pw.activeAt ↑i) * s.islandMHz ↑i < max 16 (s.get R.PWR_IDLE_GATE) * 1000) ∧
    (∃ (i : Fin 24) (s : Machine.State), s.responds pgPWR = true ∧ s.inS0 = true ∧ s.clusterDrained ↑i = true ∧ s.clusterOff ↑i = false) ∧
    (∃ (i : Fin 24) (s : Machine.State), (s.inS0 = false ∨ s.clusterDrained ↑i = false ∨ s.clusterOff ↑i = true)) ∧
    (∃ (i : Fin 24) (s : Machine.State), s.responds pgPWR = true ∧ s.inS0 = true ∧ s.clusterOff ↑i = true) ∧
    (∃ (s : Machine.State), s.responds pgPWR = true ∧ s.domainOn 41 = true) ∧
    (∃ (s : Machine.State), s.responds pgPWR = true ∧ s.domainOn 42 = true) ∧
    (∃ (i : Fin 24) (s : Machine.State), (s.inS0 = false ∨ s.clusterOff ↑i = false)) ∧
    (∃ (s : Machine.State), s.domainOn 41 = false) ∧
    (∃ (s : Machine.State), s.domainOn 42 = false) :=
  ⟨⟨eff (sB.set R.PWR_CUR_PL 0), by decide +kernel⟩,
   ⟨eff ((sB.set R.PWR_PL_CAP 1).set R.PWR_CUR_PL 3), by decide +kernel⟩,
   ⟨sB.set R.PWR_STEP 1, by decide +kernel⟩,
   ⟨sB.set R.PWR_STEP 4, by decide +kernel⟩,
   ⟨relock 2, by decide +kernel⟩,
   ⟨relock 3, by decide +kernel⟩,
   ⟨{ q9 (sB.set R.PWR_STEP 1) with pw.old := 1, pw.target := 3 }, by decide +kernel⟩,
   ⟨{ q9 (sB.set R.PWR_STEP 5) with pw.old := 3, pw.target := 1 }, by decide +kernel⟩,
   ⟨60, q9, by decide +kernel⟩,
   ⟨105, q9, by decide +kernel⟩,
   ⟨4, 1, { q9 (sB.set R.PWR_THERM_CAP 3) with pw.hot := some (4, 1) }, by decide +kernel⟩,
   ⟨4, { q9 (sB.set R.PWR_THERM_CAP 1) with pw.cool := some 4 }, by decide +kernel⟩,
   ⟨relock 5, by decide +kernel⟩,
   ⟨.obsAck, [], relock 2 [.obsAck], by decide +kernel⟩,
   ⟨eff (sB.set R.PWR_CUR_PL sB.levelInForce), by decide +kernel⟩,
   ⟨1, sB, by decide +kernel⟩,
   ⟨5, { up with quartz := 10 ^ 6 }, by decide +kernel⟩,
   ⟨5, up, by decide +kernel⟩,
   ⟨7, drained 7, by decide +kernel⟩,
   ⟨7, up, by decide +kernel⟩,
   ⟨7, offd 7, by decide +kernel⟩,
   ⟨{ up.set R.PWR_DOMAIN_ON_HI 0xFFFF with pw.heldSd := true, pw.heldCard := true }, by decide +kernel⟩,
   ⟨{ up.set R.PWR_DOMAIN_ON_HI 0xFFFF with pw.heldSd := true, pw.heldCard := true }, by decide +kernel⟩,
   ⟨5, up, by decide +kernel⟩,
   ⟨up.set R.PWR_DOMAIN_ON_HI 0, by decide +kernel⟩,
   ⟨up.set R.PWR_DOMAIN_ON_HI 0, by decide +kernel⟩⟩

theorem test_hypotheses_SleepIsEnteredAndLeft :
    (∃ (s : Machine.State), s.pw.phase = SleepPhase.entering ∧ s.hq.staged = [] ∧ s.running = [] ∧ s.hq.fwdOut = [] ∧ s.get R.PWR_STEP = 0 ∧ s.levelSettled = true) ∧
    (∃ (s : Machine.State), s.pw.phase = SleepPhase.asleep ∧ s.pw.s3 = false) ∧
    (∃ (s : Machine.State), s.pw.phase = SleepPhase.asleep ∧ s.pw.s3 = true) ∧
    (∃ (s : Machine.State), (s.pw.phase ≠ SleepPhase.entering ∨ s.hq.staged ≠ [] ∨ s.running ≠ [] ∨ s.hq.fwdOut ≠ [] ∨ s.get R.PWR_STEP ≠ 0 ∨ s.levelSettled = false)) ∧
    (∃ (s : Machine.State), (s.pw.phase ≠ SleepPhase.asleep ∨ s.pw.s3 = false)) ∧
    (∃ (s : Machine.State), (s.pw.phase = SleepPhase.awake ∨ s.pw.phase = SleepPhase.waking)) :=
  ⟨⟨ent true, by decide +kernel⟩,
   ⟨slp false, by decide +kernel⟩,
   ⟨slp true, by decide +kernel⟩,
   ⟨up, by decide +kernel⟩,
   ⟨up, by decide +kernel⟩,
   ⟨up, by decide +kernel⟩⟩

theorem test_hypotheses_PairRolesFollowTheInterlock :
    (∃ (s : Machine.State), s.get R.PAIR_ROLE = 3 ∧ s.pr.claimAt + 2000 ≤ s.quartz ∧ s.pr.claimIn = true) ∧
    (∃ (s : Machine.State), s.pr.waiting = true ∧ s.pr.claimIn = true ∧ s.pr.claimAt + 102000 ≤ s.quartz ∧ s.pr.stuck = false) ∧
    (∃ (t0 : Nat) (s : Machine.State), s.pr.conflictAt = some t0 ∧ s.get R.PAIR_ROLE = 1 ∧ s.pr.claimIn = true ∧ t0 + 2000 ≤ s.quartz ∧ (s.pr.told = false ∨ s.isMarkA = false ∧ s.mode ≠ Mode.maintenance)) ∧
    (∃ (s : Machine.State), s.get R.PAIR_ROLE = 1 ∧ s.fit = false ∧ s.mode ≠ Mode.maintenance ∧ s.pr.kept = none) ∧
    (∃ (s : Machine.State), s.get R.PAIR_ROLE = 1 ∧ s.fit = true) ∧
    (∃ (t0 : Nat) (s : Machine.State), s.pr.hostDown = some t0 ∧ s.get R.PAIR_HOSTLOSS_EN ≠ 0 ∧ t0 + 1000000 ≤ s.quartz) ∧
    (∃ (c : Bool) (s : Machine.State), (s.pr.waiting = false ∨ c = true)) ∧
    (∃ (t0 : Nat) (s : Machine.State), s.pr.takeAt = some t0 ∧ s.mayTake = true ∧ s.get R.PAIR_ROLE = 2 ∧ t0 + 200000 ≤ s.quartz ∧ s.syncAllows = true) ∧
    (∃ (t0 : Nat) (s : Machine.State), s.pr.takeAt = some t0 ∧ s.mayTake = true ∧ s.get R.PAIR_ROLE = 2 ∧ t0 + 200000 ≤ s.quartz ∧ s.syncAllows = false ∧ s.pr.heldSync = false) ∧
    (∃ (s : Machine.State), s.responds pgPAIR = true) ∧
    (∃ (s : Machine.State), s.pr.relinquishing = true ∧ s.mode ≠ Mode.maintenance ∧ s.hq.staged = [] ∧ s.running = [] ∧ s.hq.fwdOut = [] ∧ s.hq.held = []) ∧
    (∃ (s : Machine.State), s.get R.PAIR_ROLE = 2 ∧ s.mode = Mode.shadow ∧ s.healthOut = true) ∧
    (∃ (t0 : Nat) (s : Machine.State), s.get R.PAIR_ROLE = 3 ∧ s.pr.taking = some t0 ∧ s.pr.claimAt + 2000 ≤ s.quartz ∧ s.pr.claimIn = false) ∧
    (∃ (s : Machine.State), (s.get R.PAIR_ROLE ≠ 3 ∨ s.quartz < s.pr.claimAt + 2000)) ∧
    (∃ (s : Machine.State), (s.pr.waiting = false ∨ s.pr.claimIn = false ∨ s.pr.stuck = true)) ∧
    (∃ (s : Machine.State), s.mode = Mode.maintenance) ∧
    (∃ (s : Machine.State), (s.pr.takeAt = none ∨ s.mayTake = false)) ∧
    (∃ (s : Machine.State), s.responds pgPAIR = false) :=
  ⟨⟨{ rl 3 with pr.claimIn := true }, by decide +kernel⟩,
   ⟨{ rl 3 with pr.claimIn := true, pr.waiting := true }, by decide +kernel⟩,
   ⟨4, { rl 1 with pr.claimIn := true, pr.conflictAt := some 4 }, by decide +kernel⟩,
   ⟨{ rl 1 with ob.latch := 1 }, by decide +kernel⟩,
   ⟨rl 1, by decide +kernel⟩,
   ⟨4, { rl 1 (sB.set R.PAIR_HOSTLOSS_EN 1) with pr.hostDown := some 4 }, by decide +kernel⟩,
   ⟨true, rl 1, by decide +kernel⟩,
   ⟨4, standby.set R.PAIR_SYNC 2, by decide +kernel⟩,
   ⟨4, standby, by decide +kernel⟩,
   ⟨rl 1, by decide +kernel⟩,
   ⟨{ q9 up with pr.relinquishing := true }, by decide +kernel⟩,
   ⟨standby, by decide +kernel⟩,
   ⟨4, { rl 3 with pr.taking := some 4 }, by decide +kernel⟩,
   ⟨rl 1, by decide +kernel⟩,
   ⟨rl 1, by decide +kernel⟩,
   ⟨{ rl 1 with mode := .maintenance }, by decide +kernel⟩,
   ⟨rl 1, by decide +kernel⟩,
   ⟨dark, by decide +kernel⟩⟩

theorem test_hypotheses_PairReportsAndDeltas :
    (∃ (s : Machine.State), s.get R.PAIR_PAIR_EN ≠ 0 ∧ s.booting = false ∧ s.hasUnit 2 = true ∧ s.pr.nextReport ≤ s.quartz) ∧
    (∃ (r : List Byte) (s : Machine.State), s.get R.PAIR_PAIR_EN ≠ 0 ∧ numAt (fitBytes 32 r) 0 8 = s.partnerSerial) ∧
    (∃ (r : List Byte) (s : Machine.State), (s.get R.PAIR_PAIR_EN = 0 ∨ numAt (fitBytes 32 r) 0 8 ≠ s.partnerSerial)) ∧
    (∃ (s : Machine.State), s.get R.PAIR_PAIR_EN = 1 ∧ s.booting = false ∧ s.get R.PAIR_REPORT_LOST = 0 ∧ s.pr.lastReport + 3000000 ≤ s.quartz) ∧
    (∃ (s : Machine.State), s.mode = Mode.shadow ∧ s.pr.nextTest ≤ s.quartz) ∧
    (∃ (q : Nat) (s : Machine.State), s.get R.PAIR_ROLE = 2 ∧ s.inReset = false ∧ q = s.dseq + 1 ∧ q < 2 ^ 64) ∧
    (∃ (q : Nat) (s : Machine.State), (∀ (h : Held), h ∈ s.hq.held → q < h.dseq)) ∧
    (∃ (s : Machine.State), s.get R.PAIR_ROLE = 1 ∧ s.get R.PAIR_SYNC = 2 ∧ (∃ u, u ∈ s.pr.unacked ∧ u.snd + 50000 ≤ s.quartz)) ∧
    (∃ (s : Machine.State), s.responds pgPAIR = true ∧ s.get R.PAIR_ROLE = 2) ∧
    (∃ (s : Machine.State), s.responds pgPAIR = true ∧ s.get R.PAIR_ROLE = 1) ∧
    (∃ (s : Machine.State), s.responds pgPAIR = true ∧ s.get R.PAIR_ROLE ≠ 1 ∧ s.get R.PAIR_ROLE ≠ 2) ∧
    (∃ (s : Machine.State), (s.get R.PAIR_ROLE ≠ 2 ∨ s.inReset = true)) ∧
    (∃ (s : Machine.State), s.mode ≠ Mode.shadow) :=
  ⟨⟨(rl 1).set R.PAIR_PAIR_EN 1, by decide +kernel⟩,
   ⟨zeros 32, (rl 1).set R.PAIR_PAIR_EN 1, by decide +kernel⟩,
   ⟨pb [(0, 2), (8, 4)], rl 1, by decide +kernel⟩,
   ⟨(rl 1).set R.PAIR_PAIR_EN 1, by decide +kernel⟩,
   ⟨{ rl 2 with mode := .shadow }, by decide +kernel⟩,
   ⟨1, rl 2, by decide +kernel⟩,
   ⟨3, { rl 1 (sB.set R.PAIR_SYNC 1) with pr.unacked := [(2, 4), (3, 5)] }, by decide +kernel⟩,
   ⟨{ rl 1 (sB.set R.PAIR_SYNC 2) with pr.unacked := [(2, 4), (3, 5)] }, ⟨by decide +kernel, by decide +kernel, (3, 5), by decide +kernel, by decide +kernel⟩⟩,
   ⟨rl 2, by decide +kernel⟩,
   ⟨rl 1, by decide +kernel⟩,
   ⟨rl 0, by decide +kernel⟩,
   ⟨rl 1, by decide +kernel⟩,
   ⟨rl 1, by decide +kernel⟩⟩

end T09

namespace T10

def q9 (s : State := up) : State := { s with quartz := 10 ^ 12 }
def b0 : State := q9 (running c1 {} (served { qstate := .active }))
def on (s : State) : State := s.set R.PWR_DOMAIN_ON_HI 0xFFFF
def lk (k : Fin 8) (n : Nat) (s : State := on b0) : State := s.set (R.FVL_STATE k) n
def enr (s : State) : State := (s.set R.FVL0_ENROLLED 1).set R.FVL0_MEMBER_NO 3
def h1 : Hello := { peer := 0x123456789ABCDEF, member := 9, sigsOk := true, proofOk := true, shared := [1, 2, 3] }
def good : List Byte := sealFlit (zeros 32) [1, 2, 3, 4] 7 (flitHdr 9 0 true) [5, 6]
def bye : List Byte := sealFlit (zeros 32) [1, 2, 3, 4] 7 (flitHdr 2 0 true) []
def fl (bytes : List Byte) (fec : Bool := true) : Flit := { bytes, corrected := 2, fecOk := fec, resend := 5, capacity := some 3 }
def ses (k : Fin 8) (n : Nat) (s : State := on b0) : State :=
  ((lk k n s).set (R.FVL_PEER_READY k) (n - 3)).updLink k fun l => { l with txKey := [1], rxKey := zeros 32, rxSalt := [1, 2, 3, 4], rxCount := 7, lastFlit := 5 }
def spent : State := (ses 6 4).updLink 6 fun l => { l with txKey := zeros 32, rxKey := zeros 32, txCount := 2 ^ 36, rxCount := 2 ^ 36 }
def ep (f : Part → Part) : State := (enr (on b0)).updPart 1 f
def rec : KeyRecord := { key := { attr := 64 } }
def ep2 (f : Part → Part) : State := { enr (ses 2 4) with parts := [(1, f {})] }
def admitting : State :=
  { [(R.FVL0_JOIN_SN_LO, 77), (R.FVL_PEER_SN_LO 2, 77)].foldl (fun s e => s.set e.1 e.2) (enr (ses 2 4)) with
    ge.lines := [(lineKey 1 0x10000004, { gen := 4, record := some rec, live := true })] }
def after (i : Instr) (s : State) : State :=
  match exec i s with
  | .next t => t
  | .fault _ | .refused _ => s
def runs (i : Instr) (s : State) : Bool :=
  match exec i s with
  | .next _ => true
  | .fault _ | .refused _ => false
theorem runs_after (i : Instr) (s : State) (h : runs i s = true) : exec i s = .next (after i s) := by
  unfold runs at h
  unfold after
  split at h <;> first | assumption | cases h
def flBye : Flit := { fl bye with brings := some .closes }
def fws : State := { (((ses 6 4).updLink 6 fun l => { l with capacity := 3 }).updPart 1 fun x => { x with fwdEn := true, fwdThresh := 1 }) with hq.staged := [c1] }
/-- A command to forward whose input is a window of no size, and both stacks of HBM ready. -/
def cw : Cmd := { c1 with desc := { d1 with inInline := false, inLen := 64, body := leBytes 8 (0xFFFFFE * 2 ^ 40) } }
def fwin : State := { fws with hq.staged := [cw] }
def ready (s : State) : State :=
  [R.HBM_PHY_READY 0, R.HBM_PHY_READY 1, R.HBM_WORK_READY 0, R.HBM_WORK_READY 1].foldl (fun s f => s.set f 1) s
def dsc : List Byte := [2, 2] ++ leBytes 2 0x100 ++ zeros 60
def fw : FwdCmd := { cmd := c1, link := 6, tag := 4 }
def fwo : State := { ses 6 4 with hq.fwdOut := [{ fw with tag := 3 }, fw] }
def pe (n : Fin 256) : PeerEnd := { status := n, detail := 3, resultLen := 4, result := [1, 2, 3, 4], cluster := 3, serviceNs := 500, linkNs := 600 }
def dark : State := { b0 with bt.vddLow := true }

theorem test_hypotheses_LinksOpenCarryAndFall :
    (∃ (k : Fin 8) (s : Machine.State), s.get (R.FVL_STATE ↑k) ≤ 1 ∧ s.get (R.BLK_ENABLE (pgFVL ↑k)) = 1 ∧ s.domainOn (28 + ↑k / 2) = true ∧ s.inReset = false) ∧
    (∃ (k : Fin 8) (h : Hello) (s : Machine.State), s.get (R.FVL_STATE ↑k) = 2 ∧ s.authorises (↑k) h = true) ∧
    (∃ (k : Fin 8) (h : Hello) (s : Machine.State), s.get (R.FVL_STATE ↑k) = 2 ∧ s.authorises (↑k) h = false) ∧
    (∃ (k : Fin 8) (f : Flit) (s : Machine.State), f.brings = none ∧ s.linkOpen ↑k = true ∧ f.fecOk = true ∧ flitOk (s.link ↑k).ratchetRx.rxKey (s.link ↑k).ratchetRx.rxSalt (s.link ↑k).ratchetRx.rxCount (fitBytes 256 f.bytes) = true) ∧
    (∃ (k : Fin 8) (f : Flit) (s : Machine.State), Option.any s.mustWait f.brings = false ∧ s.linkOpen ↑k = true ∧ f.fecOk = true ∧ flitOk (s.link ↑k).ratchetRx.rxKey (s.link ↑k).ratchetRx.rxSalt (s.link ↑k).ratchetRx.rxCount (fitBytes 256 f.bytes) = false) ∧
    (∃ (k : Fin 8) (f : Flit) (s : Machine.State), Option.any s.mustWait f.brings = false ∧ s.linkOpen ↑k = true ∧ f.fecOk = false) ∧
    (∃ (k : Fin 8) (s : Machine.State), s.linkOpen ↑k = true ∧ (s.link ↑k).ratchetTx.lastSent + 1000 ≤ s.quartz) ∧
    (∃ (k : Fin 8) (s : Machine.State), (s.linkOpen ↑k = false ∨ s.quartz < (s.link ↑k).lastSent + 1000)) ∧
    (∃ (key : List Byte) (type : Nat), key.length = 32 ∧ type < 16) ∧
    (∃ (k : Fin 8) (s : Machine.State), s.linkOpen ↑k = true ∧ (s.link ↑k).lastFlit + 10000 ≤ s.quartz) ∧
    (∃ (k : Fin 8) (s : Machine.State), s.linkOpen ↑k = true ∧ 2 ^ 36 ≤ (s.link ↑k).txCount) ∧
    (∃ (k : Fin 8) (s : Machine.State), s.linkOpen ↑k = true ∧ 2 ^ 36 ≤ (s.link ↑k).rxCount) ∧
    (∃ (k : Fin 8) (s : Machine.State), s.responds (pgFVL ↑k) = true ∧ s.get (R.FVL_STATE ↑k) = 5) ∧
    (∃ (k : Fin 8) (s : Machine.State), s.responds (pgFVL ↑k) = true ∧ s.get (R.FVL_STATE ↑k) = 0) ∧
    (∃ (k : Fin 8) (s : Machine.State), s.get (R.FVL_STATE ↑k) ≠ 2) ∧
    (∃ (k : Fin 8) (s : Machine.State), (1 < s.get (R.FVL_STATE ↑k) ∨ s.inReset = true)) ∧
    (∃ (k : Fin 8) (s : Machine.State), s.linkOpen ↑k = false) ∧
    (∃ (k : Fin 8) (s : Machine.State), s.responds (pgFVL ↑k) = false) :=
  ⟨⟨1, lk 1 0, by decide +kernel⟩,
   ⟨4, h1, enr (lk 4 2), by decide +kernel⟩,
   ⟨1, { h1 with proofOk := false }, enr (lk 1 2), by decide +kernel⟩,
   ⟨6, fl good, ses 6 4, by decide +kernel⟩,
   ⟨6, fl (zeros 256), ses 6 4, by decide +kernel⟩,
   ⟨6, fl [] false, ses 6 4, by decide +kernel⟩,
   ⟨6, ses 6 4, by decide +kernel⟩,
   ⟨6, b0, by decide +kernel⟩,
   ⟨zeros 32, 15, by decide +kernel⟩,
   ⟨2, ses 2 4, by decide +kernel⟩,
   ⟨6, spent, by decide +kernel⟩,
   ⟨6, spent, by decide +kernel⟩,
   ⟨6, lk 6 5, by decide +kernel⟩,
   ⟨6, lk 6 0, by decide +kernel⟩,
   ⟨6, lk 6 5, by decide +kernel⟩,
   ⟨6, lk 6 5, by decide +kernel⟩,
   ⟨6, lk 6 5, by decide +kernel⟩,
   ⟨6, dark, by decide +kernel⟩⟩

theorem test_hypotheses_LinksOpenCarryAndFall_messages :
    (∃ (k : Fin 8) (f : Flit) (s : Machine.State), (s.linkOpen ↑k = false ∨ Option.any s.mustWait f.brings = true)) ∧
    (∃ (k : Fin 8) (f : Flit) (m : PeerMessage) (s : Machine.State) (u : Machine.State), f.brings = some m ∧ s.mustWait m = false ∧ s.linkOpen ↑k = true ∧ f.fecOk = true ∧ flitOk (s.link ↑k).ratchetRx.rxKey (s.link ↑k).ratchetRx.rxSalt (s.link ↑k).ratchetRx.rxCount (fitBytes 256 f.bytes) = true ∧ flitEnd (fitBytes 256 f.bytes) = true ∧ flitType (fitBytes 256 f.bytes) = peerType m ∧ exec (Instr.flitReceive k { bytes := f.bytes, corrected := f.corrected, fecOk := f.fecOk, resend := f.resend, capacity := f.capacity }) s = Host.Outcome.next u) ∧
    (∃ (k : Fin 8) (origins : List (Fin 4096 × Nat)) (s : Machine.State) (m : Nat × Nat × KeyLine), s.enrolled = true ∧ ↑k < 6 ∧ s.linkUp ↑k = true ∧ m ∈ s.dm.originated ∧ heldBy origins (s.get R.FVL0_MEMBER_NO) < m.fst) ∧
    (∃ (k : Fin 8) (schedules : List (Fin 1024 × Nat)) (s : Machine.State) (e : Nat × Part), s.enrolled = true ∧ ↑k < 6 ∧ s.linkUp ↑k = true ∧ e ∈ s.parts ∧ heldBy schedules e.fst < e.snd.epSeq ∧ e.snd.epCancelled = true) ∧
    (∃ (k : Fin 8) (schedules : List (Fin 1024 × Nat)) (s : Machine.State) (e : Nat × Part) (ts : Nat) (tov : Nat), s.enrolled = true ∧ ↑k < 6 ∧ s.linkUp ↑k = true ∧ e ∈ s.parts ∧ heldBy schedules e.fst < e.snd.epSeq ∧ e.snd.epCancelled = false ∧ e.snd.epPending = some (ts, tov)) ∧
    (∃ (k : Fin 8) (s : Machine.State), s.admitsPeer ↑k = false) ∧
    (∃ (k : Fin 8) (parts : List (Fin 1024)) (s : Machine.State) (e : Nat × KeyLine), s.admitsPeer ↑k = true ∧ e ∈ s.ge.lines ∧ (List.map (fun x => ↑x) parts).contains (linePart e.fst) = true ∧ isReplicated (lineHandle e.fst) e.snd = true) ∧
    (∃ (k : Fin 8) (tag : Nat) (s : Machine.State), (↑k = 6 ∨ ↑k = 7) ∧ (s.running.all fun e => !Option.any (fun c => c.peer == some (↑k, tag)) e.snd.cmd) = true) ∧
    (∃ (k : Fin 8) (s : Machine.State), ↑k < 2 ∧ s.get R.PAIR_ROLE = 1) :=
  ⟨⟨6, fl [], b0, by decide +kernel⟩,
   ⟨6, flBye, .closes, ses 6 4, after (.flitReceive 6 { flBye with brings := none }) (ses 6 4), ⟨rfl, rfl, by decide +kernel, rfl, by decide +kernel, by decide +kernel, by decide +kernel, runs_after _ _ (by decide +kernel)⟩⟩,
   ⟨2, [(3, 4)], { enr (ses 2 4) with dm.originated := [(4, 7, {}), (5, 9, {})] }, (5, 9, {}), by decide +kernel⟩,
   ⟨2, [], ep2 fun x => { x with epSeq := 4, epCancelled := true }, (1, { epSeq := 4, epCancelled := true }), by decide +kernel⟩,
   ⟨2, [(1, 3)], ep2 fun x => { x with epSeq := 4, epPending := some (5, 6) }, (1, { epSeq := 4, epPending := some (5, 6) }), 5, 6, by decide +kernel⟩,
   ⟨6, ses 6 4, by decide +kernel⟩,
   ⟨2, [1], admitting, (lineKey 1 0x10000004, { gen := 4, record := some rec, live := true }), by decide +kernel⟩,
   ⟨6, 4, ses 6 4, by decide +kernel⟩,
   ⟨1, (lk 1 4).set R.PAIR_ROLE 1, by decide +kernel⟩⟩

theorem test_hypotheses_DomainKeepsTimeEpochsAndForwards :
    (∃ (members : List (Nat × Bool)) (own : Nat) (locked : Bool) (m : Nat × Bool), own < 4096 ∧ (∀ (m : Nat × Bool), m ∈ members → m.fst < 4096) ∧ (locked = true ∨ ∃ m, m ∈ members ∧ m.snd = true) ∧ m ∈ (own, locked) :: members ∧ m.snd = true) ∧
    (∃ (members : List (Nat × Bool)) (own : Nat) (locked : Bool) (m : Nat × Bool), own < 4096 ∧ (∀ (m : Nat × Bool), m ∈ members → m.fst < 4096) ∧ locked = false ∧ (∀ (m : Nat × Bool), m ∈ members → m.snd = false) ∧ m ∈ (own, locked) :: members) ∧
    (∃ (s : Machine.State), s.enrolled = true ∧ s.get (R.PAD_EN 8) = 1) ∧
    (∃ (s : Machine.State), (s.enrolled = false ∨ s.get (R.PAD_EN 8) = 0)) ∧
    (∃ (t0 : Nat) (s : Machine.State), s.dm.lostAt = some t0 ∧ 1000 < s.dtErr) ∧
    (∃ (s : Machine.State), s.dm.catchup = true) ∧
    (∃ (part : Fin 1024) (seq : Nat) (s : Machine.State), seq ≤ (s.part ↑part).epSeq) ∧
    (∃ (s : Machine.State) (j : Nat), j ∈ s.treeLinks) ∧
    (∃ (part : Fin 1024) (seq : Nat) (ts : Nat) (tov : Nat) (s : Machine.State), (s.part ↑part).epSeq < seq ∧ (s.part ↑part).epPending = some (ts, tov) ∧ ts ≤ s.domainTime) ∧
    (∃ (part : Fin 1024) (seq : Nat) (ts : Nat) (tov : Nat) (s : Machine.State), (s.part ↑part).epSeq < seq ∧ (s.part ↑part).epPending = some (ts, tov) ∧ s.domainTime < ts) ∧
    (∃ (part : Fin 1024) (seq : Nat) (s : Machine.State), (s.part ↑part).epSeq < seq ∧ (s.part ↑part).epPending = none) ∧
    (∃ (part : Fin 1024) (ts : Nat) (tov : Nat) (s : Machine.State), s.hasUnit 3 = true ∧ (s.part ↑part).epPending = some (ts, tov) ∧ ts ≤ s.domainTime) ∧
    (∃ (part : Fin 1024) (s : Machine.State), s.hasUnit 3 = true ∧ (s.part ↑part).epPending = none ∧ (s.part ↑part).overlap = true ∧ (s.part ↑part).epTs + (s.part ↑part).epTov ≤ s.domainTime) ∧
    (∃ (k : Fin 8) (origin : Fin 4096) (seq : Nat) (part : Fin 1024) (handle : Word) (line : KeyLine) (r : KeyRecord) (s : Machine.State), s.enrolled = true ∧ ↑k < 6 ∧ s.linkUp ↑k = true ∧ ↑origin ≠ s.get R.FVL0_MEMBER_NO ∧ Sparse.get 0 s.dm.seen ↑origin < seq ∧ handleScope (BitVec.toNat handle) = 1 ∧ line.record = some r ∧ bitOf r.key.attr 6 = true ∧ (s.line (lineKey (↑part) (BitVec.toNat handle))).live = false) ∧
    (∃ (k : Nat) (c : Cmd) (rest : List Cmd) (s : Machine.State), s.forwardLink = some k ∧ s.pickForward [] s.hq.staged = some (c, rest) ∧ s.windowWaits c 0 c.desc.inLen = true) ∧
    (∃ (k : Nat) (c : Cmd) (rest : List Cmd) (s : Machine.State), s.forwardLink = some k ∧ s.pickForward [] s.hq.staged = some (c, rest) ∧ s.windowWaits c 0 c.desc.inLen = false ∧ c.windowIn = true ∧ s.windowInput c 0 c.desc.inLen = none) ∧
    (∃ (input : List Byte) (k : Nat) (c : Cmd) (rest : List Cmd) (s : Machine.State) (sent : List Byte) (u : Machine.State), s.forwardLink = some k ∧ s.pickForward [] s.hq.staged = some (c, rest) ∧ s.windowWaits c 0 c.desc.inLen = false ∧ (if c.windowIn = true then s.windowInput c 0 c.desc.inLen else some (fitBytes c.desc.inLen input, s)) = some (sent, u)) ∧
    (∃ (k : Fin 8) (tag : Nat) (part : Fin 1024) (desc : List Byte) (s : Machine.State), (↑k = 6 ∨ ↑k = 7) ∧ s.linkUp ↑k = true ∧ 0 < s.stagingRoom ∧ (s.count R.FVL0_FWD_IN).refuseDescriptor (↑part) (badV2 (fitBytes 64 desc)) ({ fetched := some s.quartz, part := ↑part, desc := readV2 (fitBytes 64 desc), peer := some (↑k, tag) } : Cmd).desc = none ∧ (s.part ↑part).pstate = PState.active) ∧
    (∃ (k : Fin 8) (tag : Nat) (a : PeerEnd) (x : FwdCmd) (s : Machine.State), List.find? (fun x => x.link == ↑k && x.tag == tag) s.hq.fwdOut = some x ∧ x.cmd.marked = false ∧ ranNothing a = true) ∧
    (∃ (k : Fin 8) (tag : Nat) (a : PeerEnd) (x : FwdCmd) (s : Machine.State), List.find? (fun x => x.link == ↑k && x.tag == tag) s.hq.fwdOut = some x ∧ writtenStatus a = true ∧ (ranNothing a = false ∨ x.cmd.marked = true)) ∧
    (∃ (k : Fin 8) (tag : Nat) (a : PeerEnd) (s : Machine.State), (List.find? (fun x => x.link == ↑k && x.tag == tag) s.hq.fwdOut = none ∨ writtenStatus a = false)) ∧
    (∃ (s : Machine.State), (s.forwardLink = none ∨ s.pickForward [] s.hq.staged = none)) ∧
    (∃ (k : Fin 8) (s : Machine.State), (↑k < 6 ∨ s.linkUp ↑k = false ∨ s.stagingRoom = 0)) ∧
    (∃ (k : Fin 8) (origin : Fin 4096) (seq : Nat) (handle : Word) (s : Machine.State), (s.enrolled = false ∨ 6 ≤ ↑k ∨ s.linkUp ↑k = false ∨ seq ≤ Sparse.get 0 s.dm.seen ↑origin ∨ handleScope (BitVec.toNat handle) ≠ 1 ∨ ↑origin = s.get R.FVL0_MEMBER_NO)) ∧
    (∃ (k : Fin 8) (s : Machine.State), (s.enrolled = false ∨ 6 ≤ ↑k ∨ s.linkUp ↑k = false)) ∧
    (∃ (s : Machine.State), s.hasUnit 3 = false) ∧
    (∃ (s : Machine.State), (s.dm.lostAt = none ∨ s.dtErr ≤ 1000)) ∧
    (∃ (s : Machine.State), s.dm.catchup = false) :=
  ⟨⟨[(9, true), (4, true), (2, false)], 3, false, (4, true), by decide +kernel⟩,
   ⟨[(9, false), (4, false)], 3, false, (4, false), by decide +kernel⟩,
   ⟨{ (enr (on b0)).set (R.PAD_EN 8) 1 with quartz := 10 ^ 12 + 300 }, by decide +kernel⟩,
   ⟨b0, by decide +kernel⟩,
   ⟨4, { enr (on b0) with dm.lostAt := some 4, quartz := 10 ^ 13 }, by decide +kernel⟩,
   ⟨{ (enr (on b0)).set R.FVL0_REPL_GAP 1 with dm.catchup := true }, by decide +kernel⟩,
   ⟨1, 4, ep fun x => { x with epSeq := 4 }, by decide +kernel⟩,
   ⟨(enr (ses 2 4)).set (R.FVL_STATE 3) 4, 3, by decide +kernel⟩,
   ⟨1, 5, 4, 10 ^ 11, ep fun x => { x with epSeq := 4, epPending := some (4, 10 ^ 11) }, by decide +kernel⟩,
   ⟨1, 5, 2 * 10 ^ 12, 10 ^ 11, ep fun x => { x with epSeq := 4, epPending := some (2 * 10 ^ 12, 10 ^ 11) }, by decide +kernel⟩,
   ⟨1, 5, ep fun x => { x with epSeq := 4 }, by decide +kernel⟩,
   ⟨1, 4, 10 ^ 11, ep fun x => { x with epSeq := 4, epPending := some (4, 10 ^ 11) }, by decide +kernel⟩,
   ⟨1, ep fun x => { x with epSeq := 4, overlap := true, epTs := 5, epTov := 6 }, by decide +kernel⟩,
   ⟨2, 7, 3, 1, 0x10000004, { gen := 4, record := some rec, live := true }, rec, (enr (ses 2 4)).set (R.FVL_STATE 3) 4, by decide +kernel⟩,
   ⟨6, cw, [], fwin, by decide +kernel⟩,
   ⟨6, cw, [], ready fwin, by decide +kernel⟩,
   ⟨[], 6, c1, [], fws, [], fws, by decide +kernel⟩,
   ⟨6, 4, 1, dsc, ses 6 4, by decide +kernel⟩,
   ⟨6, 4, pe (Fin.ofNat 256 stBusyRetry), fw, fwo, by decide +kernel⟩,
   ⟨6, 4, pe 0, fw, fwo, by decide +kernel⟩,
   ⟨6, 5, pe 0, fwo, by decide +kernel⟩,
   ⟨b0, by decide +kernel⟩,
   ⟨6, b0, by decide +kernel⟩,
   ⟨6, 7, 3, 0, b0, by decide +kernel⟩,
   ⟨6, b0, by decide +kernel⟩,
   ⟨up.set (R.QTZ_EN 3) 0, by decide +kernel⟩,
   ⟨b0, by decide +kernel⟩,
   ⟨b0, by decide +kernel⟩⟩

end T10

namespace T11

def b0 : State := { running c1 {} (served { qstate := .active }) with quartz := 10 ^ 12 }
def b1 : State := { State.reset with bt := { State.reset.bt with perst := false }, quartz := 10 ^ 9 }.startBoot
def rd (n : Nat) (s : State := b1) : State := s.set R.RST_BLK_READY n
def waking : State := { rd (2 ^ 20 - 1 - 2 ^ 15) up with pw.phase := .waking, quartz := 10 ^ 10 }
def allReady : State := rd 0xFFFFF { b1 with lc.word := lcCodeword 4 }
def booted : State := { b0.set R.RST_BOOT_STAGE 6 with lc.word := lcCodeword 4 }
def extest : State := { b0 with bt.extest := true }
def off : State := { b0 with bt.perst := true }

theorem test_hypotheses_ModuleStartsResetsAndAnswers :
    (∃ (b : Fin 20) (s : Machine.State), s.inReset = false ∧ s.get R.RST_BOOT_STAGE ≠ 0 ∧ s.mode = Mode.boot ∧ s.pw.phase = SleepPhase.awake ∧ s.bit R.RST_BLK_READY ↑b = false ∧ s.mayBeReady ↑b = true) ∧
    (∃ (b : Fin 20) (s : Machine.State), s.inReset = false ∧ s.pw.phase = SleepPhase.waking ∧ s.bit R.RST_BLK_READY ↑b = false ∧ s.mayBeReady ↑b = true ∧ (∀ (j : Nat), j < 20 → j ≠ ↑b → s.bit R.RST_BLK_READY j = true) ∧ s.mode ≠ Mode.boot ∧ s.levelSettled = true) ∧
    (∃ (b : Fin 20) (s : Machine.State), s.inReset = false ∧ s.pw.phase = SleepPhase.waking ∧ s.bit R.RST_BLK_READY ↑b = false ∧ s.mayBeReady ↑b = true ∧ s.mode ≠ Mode.boot ∧ s.levelSettled = false) ∧
    (∃ (s : Machine.State), s.inReset = false ∧ s.mode = Mode.boot ∧ s.get R.RST_BOOT_STAGE ≠ 6 ∧ s.get R.RST_BLK_READY = 1048575 ∧ s.lcState ≠ 15 ∧ s.lcState ≠ 7 ∧ s.ob.pendT1 = false ∧ s.ob.latch ≠ 1) ∧
    (∃ (s : Machine.State), s.inReset = true) ∧
    (∃ (s : Machine.State), s.bt.perst = true ∧ s.bt.vddLow = false ∧ s.bt.vigil = false ∧ s.bt.extest = false) ∧
    (∃ (v : Word) (s : Machine.State), s.inReset = false ∧ BitVec.toNat v / 65536 = 19282 ∧ BitVec.getLsbD v 0 = true ∧ s.lc.target = none) ∧
    (∃ (v : Word) (s : Machine.State), s.inReset = false ∧ (BitVec.toNat v / 65536 ≠ 19282 ∨ BitVec.getLsbD v 0 = false)) ∧
    (∃ (t0 : Nat) (s : Machine.State), s.inReset = false ∧ s.bt.wdogDue = some t0 ∧ t0 ≤ s.quartz) ∧
    (∃ (cause : Nat) (s : Machine.State), s.inReset = false ∧ cause ≠ 1) ∧
    (∃ (t0 : Nat) (s : Machine.State), s.responds pgRST = true ∧ s.bt.wdogDue = some t0) ∧
    (∃ (s : Machine.State), (s.ob.onMain = true ∨ s.ob.aux = true) ∧ s.mode = Mode.boot) ∧
    (∃ (s : Machine.State), (s.ob.onMain = true ∨ s.ob.aux = true) ∧ s.mode ≠ Mode.boot) ∧
    (∃ (op : BitVec 8) (s : Machine.State), s.bt.vigil = false ∧ s.bt.extest = false ∧ op ≠ 1#8 ∧ s.tapAllows op.toNat = false) ∧
    (∃ (op : BitVec 8) (s : Machine.State), s.bt.vigil = false ∧ s.bt.extest = false ∧ op ∈ [0#8, 3#8, 4#8, 5#8, 6#8] ∧ s.tapAllows op.toNat = true) ∧
    (∃ (op : BitVec 8) (s : Machine.State), s.bt.vigil = false ∧ s.bt.extest = false ∧ op = 2#8 ∧ s.tapAllows op.toNat = true) ∧
    (∃ (op : BitVec 8) (s : Machine.State), s.bt.vigil = false ∧ s.bt.extest = true ∧ op ∈ [0#8, 3#8, 4#8, 5#8, 6#8]) ∧
    (∃ (op : BitVec 8) (s : Machine.State), s.bt.vigil = false ∧ s.bt.extest = true ∧ ¬op ∈ [0#8, 3#8, 4#8, 5#8, 6#8] ∧ s.bt.perst = false ∧ s.bt.vddLow = false) ∧
    (∃ (s : Machine.State), s.bt.vigil = true) ∧
    (∃ (b : Fin 20) (s : Machine.State), (s.inReset = true ∨ s.bit R.RST_BLK_READY ↑b = true ∨ s.mayBeReady ↑b = false)) ∧
    (∃ (s : Machine.State), (s.inReset = true ∨ s.mode ≠ Mode.boot ∨ s.get R.RST_BLK_READY ≠ 1048575 ∨ s.lcState = 15 ∨ s.lcState = 7)) ∧
    (∃ (s : Machine.State), (s.inReset = true ∨ s.lc.target ≠ none)) ∧
    (∃ (s : Machine.State), s.bt.wdogDue = none) ∧
    (∃ (s : Machine.State), s.ob.onMain = false ∧ s.ob.aux = false) :=
  ⟨⟨11, b1, by decide +kernel⟩,
   ⟨15, waking, by decide +kernel⟩,
   ⟨15, waking.set R.PWR_STEP 1, by decide +kernel⟩,
   ⟨allReady, by decide +kernel⟩,
   ⟨State.reset, by decide +kernel⟩,
   ⟨off, by decide +kernel⟩,
   ⟨0x4B520001, b0, by decide +kernel⟩,
   ⟨0x4B520000, b0, by decide +kernel⟩,
   ⟨4, { b0 with bt.wdogDue := some 4 }, by decide +kernel⟩,
   ⟨3, b0, by decide +kernel⟩,
   ⟨4, { b0 with bt.wdogDue := some 4 }, by decide +kernel⟩,
   ⟨{ b0 with mode := .boot }, by decide +kernel⟩,
   ⟨b0, by decide +kernel⟩,
   ⟨2, { b0 with lc.word := lcCodeword 5 }, by decide +kernel⟩,
   ⟨3, booted, by decide +kernel⟩,
   ⟨2, booted, by decide +kernel⟩,
   ⟨4, extest, by decide +kernel⟩,
   ⟨7, extest, by decide +kernel⟩,
   ⟨{ b0 with bt.vigil := true }, by decide +kernel⟩,
   ⟨3, b0, by decide +kernel⟩,
   ⟨b0, by decide +kernel⟩,
   ⟨{ b0 with lc.target := some 4 }, by decide +kernel⟩,
   ⟨b0, by decide +kernel⟩,
   ⟨{ b0 with ob.onMain := false, ob.aux := false }, by decide +kernel⟩⟩

end T11

namespace T12

def b0 : State := { running c1 {} (served { qstate := .active }) with quartz := 10 ^ 12 }
def th (l : List (Nat × Thread)) (rl dl : List (Nat × List Nat)) : State := { b0 with sc.threads := l, sc.ready := rl, sc.delayed := dl }
def T (st : TState) (prio aff core : Nat) (wake : Nat := 0) : Thread := { st, prio, aff, core, list := core, wake }
def z : State :=
  th [(1, T .ready 3 0xFF 2), (2, T .running 5 0xFF 2), (3, T .blocked 4 0xF 1), (4, T .delayed 9 4 2 7), (6, T .ready 3 4 2), (9, T .delayed 4 0xFF 3 100)]
    [(readyKey 2 3, [1, 6])] [(2, [4]), (3, [9])]
def za : State := { z.updThread 1 (fun x => { x with applet := some 3 }) with sc.applets := [(3, { tag := 1, prioMin := 9, affinity := 1 })] }
def tm : State := { (b0.set (R.QTZ_OWNER 9) 9).set (R.QTZ_HELD 9) 1 with qz.armed := [9] }
def agw : State := { b0.set (R.BLK_ENABLE pgAGT) 1 with ag.open_ := true, ag.due := 5 }
def dark : State := { b0 with bt.vddLow := true }

theorem test_hypotheses_SchedulerRunsItsThreads :
    (∃ (slot : Fin 512) (s : Machine.State), s.responds pgSCHED = true ∧ (s.thread ↑slot).st = TState.free) ∧
    (∃ (slot : Fin 512) (s : Machine.State), s.responds pgSCHED = true ∧ (s.thread ↑slot).st = TState.ready) ∧
    (∃ (slot : Fin 512) (s : Machine.State), s.responds pgSCHED = true ∧ (s.thread ↑slot).st = TState.blocked) ∧
    (∃ (slot : Fin 512) (s : Machine.State), s.responds pgSCHED = true ∧ (s.thread ↑slot).st = TState.delayed) ∧
    (∃ (slot : Fin 512) (s : Machine.State), s.responds pgSCHED = true ∧ ((s.thread ↑slot).st = TState.blocked ∨ (s.thread ↑slot).st = TState.delayed ∨ (s.thread ↑slot).st = TState.running)) ∧
    (∃ (u : Nat) (s : Machine.State), s.candidates u = []) ∧
    (∃ (u : Nat) (s : Machine.State) (d : Nat), s.candidates u ≠ [] ∧ d ∈ s.candidates u) ∧
    (∃ (slot : Fin 512) (ticks : Fin 1048576) (s : Machine.State), s.responds pgSCHED = true ∧ ↑ticks ≠ 0 ∧ ((s.thread ↑slot).st = TState.running ∨ (s.thread ↑slot).st = TState.blocked)) ∧
    (∃ (slot : Fin 512) (s : Machine.State), s.responds pgSCHED = true ∧ ((s.thread ↑slot).st = TState.running ∨ (s.thread ↑slot).st = TState.ready ∨ (s.thread ↑slot).st = TState.delayed)) ∧
    (∃ (slot : Fin 512) (s : Machine.State), s.responds pgSCHED = true ∧ (s.thread ↑slot).st ≠ TState.free ∧ (s.thread ↑slot).applet = none) ∧
    (∃ (slot : Fin 512) (prio : Fin 32) (a : Nat) (y : Applet) (s : Machine.State), s.responds pgSCHED = true ∧ (s.thread ↑slot).applet = some a ∧ List.find? (fun x => x.fst == a) s.sc.applets = some (a, y) ∧ ↑prio < y.prioMin) ∧
    (∃ (core : Fin 8) (s : Machine.State), s.responds pgSCHED = true ∧ (∀ (p : Nat), p < 32 → s.readyList (↑core) p = [])) ∧
    (∃ (core : Fin 8) (p : Nat) (u : Nat) (us : List Nat) (s : Machine.State), s.responds pgSCHED = true ∧ p < 32 ∧ (∀ (q : Nat), q < p → s.readyList (↑core) q = []) ∧ s.readyList (↑core) p = u :: us) ∧
    (∃ (s : Machine.State), s.hasUnit 4 = true ∧ s.sc.tickDue ≤ s.quartz ∧ s.bit R.PWR_DOMAIN_ON_HI 0 = true) ∧
    (∃ (v : BitVec 8) (s : Machine.State), s.responds pgSCHED = true ∧ v = 255#8) ∧
    (∃ (v : BitVec 8) (s : Machine.State), s.responds pgSCHED = true ∧ v ≠ 255#8) ∧
    (∃ (s : Machine.State), (s.hasUnit 4 = false ∨ s.quartz < s.sc.tickDue ∨ s.bit R.PWR_DOMAIN_ON_HI 0 = false)) ∧
    (∃ (s : Machine.State), s.responds pgSCHED = false) :=
  ⟨⟨5, z, by decide +kernel⟩,
   ⟨1, z, by decide +kernel⟩,
   ⟨3, z, by decide +kernel⟩,
   ⟨4, z, by decide +kernel⟩,
   ⟨3, z, by decide +kernel⟩,
   ⟨4, z.set R.SCHED_HOLD 4, by decide +kernel⟩,
   ⟨3, z, 1, by decide +kernel⟩,
   ⟨2, 7, z, by decide +kernel⟩,
   ⟨1, z, by decide +kernel⟩,
   ⟨1, z, by decide +kernel⟩,
   ⟨1, 7, 3, { tag := 1, prioMin := 9, affinity := 1 }, za, by decide +kernel⟩,
   ⟨5, z, by decide +kernel⟩,
   ⟨2, 3, 1, [6], z, by decide +kernel⟩,
   ⟨{ z.set R.PWR_DOMAIN_ON_HI 0xFFFF with sc.tickDue := 10 ^ 12 - 5 * 10 ^ 6, sc.ticks := 5 }, by decide +kernel⟩,
   ⟨255, z, by decide +kernel⟩,
   ⟨7, z, by decide +kernel⟩,
   ⟨z.set (R.QTZ_EN 4) 0, by decide +kernel⟩,
   ⟨dark, by decide +kernel⟩⟩

theorem test_hypotheses_UnitsFireAndWindowsClose :
    (∃ (f : Fin 16) (v : Word) (s : Machine.State), s.responds pgQTZ = true ∧ BitVec.getLsbD v 4 = true ∧ (∀ (g : Fin 16), g ≠ f → s.get (R.QTZ_EN ↑g) = 1 → s.get (R.QTZ_UNIT ↑g) ≠ BitVec.toNat v % 16)) ∧
    (∃ (v : Word) (s : Machine.State), s.responds pgQTZ = true ∧ BitVec.getLsbD v 4 = false) ∧
    (∃ (f : Fin 16) (g : Fin 16) (v : Word) (s : Machine.State), s.responds pgQTZ = true ∧ BitVec.getLsbD v 4 = true ∧ g ≠ f ∧ s.get (R.QTZ_EN ↑g) = 1 ∧ s.get (R.QTZ_UNIT ↑g) = BitVec.toNat v % 16 ∧ (∀ (h : Fin 16), h ≠ f → h ≠ g → s.get (R.QTZ_EN ↑h) = 1 → s.get (R.QTZ_UNIT ↑h) ≠ BitVec.toNat v % 16)) ∧
    (∃ (u : Fin 16) (s : Machine.State), s.get (R.QTZ_HELD ↑u) = 1 ∧ 8 ≤ s.get (R.QTZ_OWNER ↑u) ∧ ↑u ∈ s.qz.armed ∧ (s.compareOf ↑u ≤ if s.get (R.QTZ_HT_TB (s.get (R.QTZ_OWNER ↑u))) = 1 then s.domainTime else s.quartz) ∧ Sparse.get 0 s.qz.rest ↑u ≤ s.quartz) ∧
    (∃ (s : Machine.State), s.ag.open_ = true ∧ s.ag.due ≤ s.quartz ∧ s.hasUnit 5 = true ∧ s.get (R.BLK_ENABLE pgAGT) = 1) ∧
    (∃ (s : Machine.State), s.ag.open_ = true ∧ s.ag.overdue = false ∧ s.ag.due + 10 * s.windowNs ≤ s.quartz) ∧
    (∃ (s : Machine.State), s.responds pgAGT = true) ∧
    (∃ (u : Fin 16) (s : Machine.State), (s.get (R.QTZ_HELD ↑u) = 0 ∨ s.get (R.QTZ_OWNER ↑u) < 8 ∨ ¬↑u ∈ s.qz.armed)) ∧
    (∃ (s : Machine.State), (s.ag.open_ = false ∨ s.quartz < s.ag.due ∨ s.hasUnit 5 = false ∨ s.get (R.BLK_ENABLE pgAGT) = 0)) ∧
    (∃ (s : Machine.State), (s.ag.open_ = false ∨ s.ag.overdue = true)) ∧
    (∃ (s : Machine.State), s.responds pgAGT = false) ∧
    (∃ (s : Machine.State), s.responds pgQTZ = false) :=
  ⟨⟨9, 0x3F, b0, by decide +kernel⟩,
   ⟨0x9, b0, by decide +kernel⟩,
   ⟨9, 3, 0x13, b0, by decide +kernel⟩,
   ⟨9, tm, by decide +kernel⟩,
   ⟨agw, by decide +kernel⟩,
   ⟨agw, by decide +kernel⟩,
   ⟨agw, by decide +kernel⟩,
   ⟨9, b0, by decide +kernel⟩,
   ⟨b0, by decide +kernel⟩,
   ⟨b0, by decide +kernel⟩,
   ⟨dark, by decide +kernel⟩,
   ⟨dark, by decide +kernel⟩⟩

end T12

namespace T13

def b0 : State := { running c1 {} (served { qstate := .active }) with quartz := 10 ^ 12 }
def pr (n : Nat) (s : State := b0) : State := (s.set (R.PAD_EN 0) 1).set (R.CARD_PRESENT 0) n
def cdS (st : CardStep) (s : State := pr 1) : State := { s.set (R.CARD_CLASS 0) 3 with cd.step := st, cd.port := 0 }
def info (b : Byte) : List Byte := [5, 6, 9, b] ++ zeros 97
def md (e : Bool) (k : Option Bool) : Medium := { emmc := e, s18a := true, supports := 0xFE, reports := 0xFE, tunes := 0x3E, width := 2, block := zeros 512, rpmbKey := k, rpmb := 77 }
def sd : State := { (b0.setDomain 41 true).set (R.PAD_EN 9) 1 with pw.heldSd := false }
def ap (o : Option Nat) : Machine.Append := { owner := o, type := 1, payload := [1, 2] }
def wr (record : List Byte) : State := { (sd.set R.SD_PRESENT 1).set R.SD_JSTATE 1 with jr := { sd.jr with queue := [ap (some 64), ap none, ap (some 65)], record } }
def wrong : State := { sd with ob.journal := 4 }
def dark : State := { b0 with bt.vddLow := true }
def cardS : State :=
  { up.set R.GATE_STATE 2 with
    cd := { up.cd with info := [1, 0, 1, 0] ++ zeros 97, step := .sign, port := 0 }
    parts := (0, { officers := [{ oid := 1, role := 1, ktype := 1, keyfp := sha3_256 (zeros 97) }] }) :: up.parts
    gt := { up.gt with set := [.newRoot 1] } }

theorem test_hypotheses_CardsApproveStepByStep :
    (∃ (p : Fin 2) (s : Machine.State), s.inReset = false ∧ s.get (R.PAD_EN ↑p) = 1 ∧ s.get (R.CARD_PRESENT ↑p) = 0) ∧
    (∃ (p : Fin 2) (s : Machine.State), s.inReset = false ∧ s.get (R.PAD_EN ↑p) = 1 ∧ s.get (R.CARD_PRESENT ↑p) = 1) ∧
    (∃ (s : Machine.State), s.responds pgCARD = true ∧ s.cd.step = CardStep.idle) ∧
    (∃ (p : Fin 2) (s : Machine.State), s.cd.step = CardStep.reset ∧ s.cd.port = ↑p ∧ 2 ≤ s.get (R.CARD_CLASS ↑p)) ∧
    (∃ (p : Fin 2) (s : Machine.State), s.cd.step = CardStep.reset ∧ s.cd.port = ↑p ∧ s.get (R.CARD_CLASS ↑p) ≤ 1) ∧
    (∃ (p : Fin 2) (s : Machine.State), s.get (R.CARD_CLASS ↑p) ≠ 0 ∧ ↑p ∈ s.cd.stops) ∧
    (∃ (p : Fin 2) (s : Machine.State), s.cd.step = CardStep.pps ∧ s.cd.port = ↑p) ∧
    (∃ (p : Fin 2) (s : Machine.State), s.cd.port = ↑p ∧ s.cd.step = CardStep.select) ∧
    (∃ (p : Fin 2) (data : List Byte) (s : Machine.State), s.cd.port = ↑p ∧ s.cd.step = CardStep.info ∧ data.length = 101) ∧
    (∃ (pin : List (Fin 10)) (s : Machine.State), s.cd.step = CardStep.keypad ∧ 4 ≤ pin.length ∧ pin.length ≤ 12) ∧
    (∃ (s : Machine.State), s.cd.step = CardStep.keypad ∧ s.cd.due ≤ s.quartz) ∧
    (∃ (p : Fin 2) (s : Machine.State), s.cd.port = ↑p ∧ s.cd.step = CardStep.verify) ∧
    (∃ (p : Fin 2) (st : BitVec 16) (s : Machine.State), s.cd.port = ↑p ∧ s.cd.step ∈ [CardStep.select, CardStep.info, CardStep.verify, CardStep.sign] ∧ st ≠ 36864#16) ∧
    (∃ (p : Fin 2) (data : List Byte) (s : Machine.State) (st : Nat) (det : Nat), s.cd.port = ↑p ∧ s.cd.step = CardStep.sign ∧ data.length = 96 ∧ s.cardRefusal data = some (st, det)) ∧
    (∃ (p : Fin 2) (s : Machine.State), (s.inReset = true ∨ s.get (R.PAD_EN ↑p) = 0)) ∧
    (∃ (p : Fin 2) (c : Bool) (s : Machine.State), s.inReset = false ∧ s.get (R.PAD_EN ↑p) = 1 ∧ s.get (R.CARD_PRESENT ↑p) = b2n c) ∧
    (∃ (p : Fin 2) (s : Machine.State), (s.cd.step ≠ CardStep.reset ∨ s.cd.port ≠ ↑p)) ∧
    (∃ (p : Fin 2) (s : Machine.State), (s.get (R.CARD_CLASS ↑p) = 0 ∨ ¬↑p ∈ s.cd.stops)) ∧
    (∃ (p : Fin 2) (s : Machine.State), (s.cd.port ≠ ↑p ∨ s.cd.step = CardStep.idle ∨ s.cd.step = CardStep.keypad)) ∧
    (∃ (pin : List (Fin 10)) (s : Machine.State), (s.cd.step ≠ CardStep.keypad ∨ pin.length < 4 ∨ 12 < pin.length)) ∧
    (∃ (s : Machine.State), (s.cd.step ≠ CardStep.keypad ∨ s.quartz < s.cd.due)) ∧
    (∃ (s : Machine.State), (s.responds pgCARD = false ∨ s.cd.step ≠ CardStep.idle)) :=
  ⟨⟨0, pr 0, by decide +kernel⟩,
   ⟨0, pr 1, by decide +kernel⟩,
   ⟨pr 1, by decide +kernel⟩,
   ⟨0, cdS .reset, by decide +kernel⟩,
   ⟨0, (cdS .reset).set (R.CARD_CLASS 0) 1, by decide +kernel⟩,
   ⟨0, { cdS .reset with cd.stops := [0] }, by decide +kernel⟩,
   ⟨0, cdS .pps, by decide +kernel⟩,
   ⟨0, cdS .select, by decide +kernel⟩,
   ⟨0, info 0, cdS .info, by decide +kernel⟩,
   ⟨[1, 2, 3, 4], cdS .keypad, by decide +kernel⟩,
   ⟨cdS .keypad, by decide +kernel⟩,
   ⟨0, { cdS .verify with cd.info := info 0 }, by decide +kernel⟩,
   ⟨0, 0x6300, { cdS .verify with cd.info := info 0 }, by decide +kernel⟩,
   ⟨0, zeros 96, { cdS .sign with cd.info := info 0 }, stFormatError, 0xC080, by decide +kernel⟩,
   ⟨1, pr 1, by decide +kernel⟩,
   ⟨0, true, pr 1, by decide +kernel⟩,
   ⟨0, pr 1, by decide +kernel⟩,
   ⟨0, pr 1, by decide +kernel⟩,
   ⟨0, cdS .keypad, by decide +kernel⟩,
   ⟨[1, 2], cdS .keypad, by decide +kernel⟩,
   ⟨pr 1, by decide +kernel⟩,
   ⟨dark, by decide +kernel⟩⟩

theorem card_names (s : State) (h : (s.get R.GATE_STATE == 2) = true) : s.approvalNames s.cardMessage = true := by
  have hm : s.cardMessage.take 52 = [0x4B, 0x4C, 0x41, 0x50] ++ s.gateStamp ++ s.gateDigest := rfl
  unfold State.approvalNames
  rw [h, hm, decide_eq_true rfl]
  rfl

theorem card_taken (h : approvalVerifies 1 cardS.cardKey (zeros 96) cardS.cardMessage = true) : cardS.cardRefusal (zeros 96) = none := by
  have h1 : cardS.approver cardS.cardMessage = some { oid := 1, role := 1, ktype := 1, keyfp := sha3_256 (zeros 97) } := by decide +kernel
  have h2 : cardS.approvalNames cardS.cardMessage = true := card_names _ (by decide +kernel)
  have h3 : cardS.approvalKeyed cardS.cardMessage (cardS.cardKey ++ zeros 96) = true := by
    unfold State.approvalKeyed
    rw [h1]
    decide +kernel
  have h4 : byteAt cardS.cardMessage 54 = 1 := by decide +kernel
  unfold State.cardRefusal
  dsimp only
  rw [h2, h3]
  unfold State.approvalRefusal
  rw [h1]
  dsimp only
  rw [h2, h4, h]
  decide +kernel

theorem test_hypotheses_CardsApproveStepByStep_signed (h : approvalVerifies 1 cardS.cardKey (zeros 96) cardS.cardMessage = true) :
    ∃ (p : Fin 2) (data : List Byte) (s : Machine.State), s.cd.port = ↑p ∧ s.cd.step = CardStep.sign ∧ data.length = 96 ∧ s.cardRefusal data = none :=
  ⟨0, zeros 96, cardS, ⟨by decide +kernel, by decide +kernel, by decide +kernel, card_taken h⟩⟩

theorem test_hypotheses_MediumJournalAndPinsBehave :
    (∃ (m : Medium) (s : Machine.State), s.inReset = false ∧ s.get R.SD_PRESENT = 0 ∧ s.domainOn 41 = true ∧ s.pw.heldSd = false ∧ (m.emmc = true ∨ s.get (R.PAD_EN 9) = 1) ∧ s.ob.mmk.isSome = true) ∧
    (∃ (mmk : List Byte) (block : List Byte) (s : Machine.State), s.ob.mmk = some mmk ∧ validRecord mmk block = true ∧ numAt block 12 8 = s.ob.journal + 1) ∧
    (∃ (mmk : List Byte) (block : List Byte) (s : Machine.State), s.ob.mmk = some mmk ∧ (validRecord mmk block = false ∨ numAt block 12 8 ≠ s.ob.journal + 1)) ∧
    (∃ (s : Machine.State), s.get R.SD_PRESENT = 1) ∧
    (∃ (a : Machine.Append) (as : List Machine.Append) (block : List Byte) (s : Machine.State), s.jr.queue = a :: as ∧ (∀ (b : Machine.Append), b ∈ as → a.owner ≠ none → b.owner ≠ a.owner) ∧ s.jr.record ≠ [] ∧ fitBytes s.jr.record.length block = s.jr.record) ∧
    (∃ (a : Machine.Append) (as : List Machine.Append) (block : List Byte) (s : Machine.State), s.jr.queue = a :: as ∧ (∀ (b : Machine.Append), b ∈ as → a.owner ≠ none → b.owner ≠ a.owner) ∧ s.jr.record ≠ [] ∧ fitBytes s.jr.record.length block ≠ s.jr.record) ∧
    (∃ (a : Machine.Append) (as : List Machine.Append) (s : Machine.State), s.jr.queue = a :: as ∧ (∀ (b : Machine.Append), b ∈ as → a.owner ≠ none → b.owner ≠ a.owner) ∧ s.jr.record ≠ [] ∧ s.jr.since + 250000000 < s.quartz) ∧
    (∃ (f : Fin 13) (v : Word) (s : Machine.State), s.responds pgPAD = true ∧ BitVec.getLsbD v 4 = true ∧ (∀ (g : Fin 13), g ≠ f → s.get (R.PAD_EN ↑g) = 1 → s.get (R.PAD_PIN ↑g) ≠ BitVec.toNat v % 16)) ∧
    (∃ (f : Fin 13) (g : Fin 13) (v : Word) (s : Machine.State), s.responds pgPAD = true ∧ BitVec.getLsbD v 4 = true ∧ g ≠ f ∧ s.get (R.PAD_EN ↑g) = 1 ∧ s.get (R.PAD_PIN ↑g) = BitVec.toNat v % 16 ∧ (∀ (h : Fin 13), h ≠ f → h ≠ g → s.get (R.PAD_EN ↑h) = 1 → s.get (R.PAD_PIN ↑h) ≠ BitVec.toNat v % 16)) ∧
    (∃ (v : Word) (s : Machine.State), s.responds pgPAD = true ∧ BitVec.getLsbD v 4 = false) ∧
    (∃ (s : Machine.State), s.responds pgPAD = false) ∧
    (∃ (m : Medium) (s : Machine.State), s.inReset = false ∧ s.get R.SD_PRESENT = 0 ∧ s.domainOn 41 = true ∧ s.pw.heldSd = false ∧ (m.emmc = true ∨ s.get (R.PAD_EN 9) = 1) ∧ s.ob.mmk = none) ∧
    (∃ (s : Machine.State), (s.inReset = true ∨ s.get R.SD_PRESENT = 1 ∨ s.domainOn 41 = false ∨ s.pw.heldSd = true)) ∧
    (∃ (s : Machine.State), (s.jr.queue = [] ∨ s.jr.record = [])) ∧
    (∃ (s : Machine.State), (s.jr.record = [] ∨ s.quartz ≤ s.jr.since + 250000000)) :=
  ⟨⟨md true none, sd, by decide +kernel⟩,
   ⟨zeros 32, journalRecord (zeros 32) 5 1 [3], { up with ob := { up.ob with journal := 4 } }, ⟨by decide +kernel, validRecord_record 5 (by decide +kernel), by decide +kernel⟩⟩,
   ⟨zeros 32, zeros 256, wrong, by decide +kernel⟩,
   ⟨wr (zeros 256), by decide +kernel⟩,
   ⟨ap (some 64), [ap none, ap (some 65)], zeros 512, wr (zeros 512), by decide +kernel⟩,
   ⟨ap (some 64), [ap none, ap (some 65)], [1], wr (zeros 256), by decide +kernel⟩,
   ⟨ap (some 64), [ap none, ap (some 65)], wr (zeros 256), by decide +kernel⟩,
   ⟨5, 0x1E, b0, by decide +kernel⟩,
   ⟨8, 0, 0x10, pr 1, by decide +kernel⟩,
   ⟨0, cdS .info, by decide +kernel⟩,
   ⟨dark, by decide +kernel⟩,
   ⟨md true none, { sd with ob.mmk := none }, by decide +kernel⟩,
   ⟨dark, by decide +kernel⟩,
   ⟨b0, by decide +kernel⟩,
   ⟨b0, by decide +kernel⟩⟩

end T13

namespace T14

def k1 : Key := kk 1 16
def k2 : Key := kk 2 16 3
def kh : Key := kk 3 32
def panF : List Byte := packNibbles ([4, 1, 2, 3, 4, 5, 6, 7, 8, 9, 0, 1, 2, 3, 4, 5] ++ List.replicate 4 15)
def panB : List Byte := [16] ++ panF
def pinC : List Byte × Nat := (fitBytes 16 (packNibbles ([1, 2, 3, 4] ++ List.replicate 28 15)), 4)
def blk0 : List Byte := enc k1 ((okv (applied (shippedFmt 0) 4 16 4 pinC.1 [] panF)).1.take 8)
def pinF : List Byte × Nat := okv (applied (shippedFmt 0) 1 16 0 (fitBytes 16 (dec k1 blk0)) panF [])
def s141 : State := prun 0x141 (blk0 ++ zeros 8 ++ panB) k1 k1 0
def s140 : State := prun 0x140 (blk0 ++ panB) k1 k2 0
def ds16 : List Nat := okv (decimalised 16 (enc k1 (mat 8)))
def s148 (off : List Nat) : State := prun 0x148 (blk0 ++ zeros 8 ++ panB ++ mat 8 ++ packNibbles (off ++ List.replicate 8 15) ++ [4]) k1 k1 0
def goodOff : List Nat := List.zipWith (fun a b => (a + 10 - b) % 10) [1, 2, 3, 4] ds16
def panD : List Nat := [4, 1, 2, 3, 4, 5, 6, 7, 8, 9, 0, 1, 2, 3, 4, 5]
def pv : List Nat := okv (pvvOf k1 panD 3 [1, 2, 3, 4])
def s149 (w : List Nat) : State := prun 0x149 (blk0 ++ zeros 8 ++ panB ++ [3] ++ packNibbles w) k1 k1 0
def cv (w : List Nat) : List Byte := panB ++ packNibbles [2, 5, 1, 2] ++ packNibbles [1, 0, 1, 15] ++ packNibbles (w ++ [15])
def cvo : List Nat := okv (decimalised 17 (cvvBlock k1.material (panD ++ [2, 5, 1, 2] ++ [1, 0, 1])))
def pan3 : List Byte × Nat := okv (applied (shippedFmt 4) 3 16 0 panF [] [])
def fill : List Byte × Nat := okv (applied (shippedFmt 4) 2 0 4 pinF.1 (fitBytes 16 (drawn s140 cx 8)) [])

theorem test_hypotheses_PaymentProgramsAnswerTheirMethods :
    (∃ (c : Ctx) (run : ProgramRun) (r : KeyRecord) (s : Machine.State), programReady s c 264 run ∧ keyReady s c 0 0 0 r) ∧
    (∃ (c : Ctx) (run : ProgramRun) (r : KeyRecord) (s : Machine.State), 4 ≤ (progOf s c run).param 0 5 ∧ (progOf s c run).param 0 5 ≤ 16 ∧ (progOf s c run).paramOnly 31 = true ∧ (r.key.cls = 2 ∨ (progOf s c run).param 0 5 ≤ 8) ∧ programReady s c 512 run ∧ cipherKeyReady s c 0 0 useMacGen r ∧ (progOf s c run).param 0 5 ≤ (progOf s c run).x.desc.outLen) ∧
    (∃ (c : Ctx) (run : ProgramRun) (r : KeyRecord) (s : Machine.State), 4 ≤ (progOf s c run).param 0 5 ∧ (progOf s c run).param 0 5 ≤ 16 ∧ (progOf s c run).paramOnly 31 = true ∧ (r.key.cls = 2 ∨ (progOf s c run).param 0 5 ≤ 8) ∧ programReady s c 513 run ∧ cipherKeyReady s c 0 0 useMacVerify r) ∧
    (∃ (c : Ctx) (run : ProgramRun) (r : KeyRecord) (s : Machine.State), 4 ≤ (progOf s c run).param 0 5 ∧ (progOf s c run).param 0 5 ≤ 16 ∧ (progOf s c run).paramOnly 287 = true ∧ hashKeyFits r.key = true ∧ programReady s c 514 run ∧ keyReady s c 0 3 useMacGen r ∧ (progOf s c run).param 0 5 ≤ (progOf s c run).x.desc.outLen) ∧
    (∃ (c : Ctx) (run : ProgramRun) (r : KeyRecord) (s : Machine.State), 4 ≤ (progOf s c run).param 0 5 ∧ (progOf s c run).param 0 5 ≤ 16 ∧ (progOf s c run).paramOnly 287 = true ∧ hashKeyFits r.key = true ∧ programReady s c 515 run ∧ keyReady s c 0 3 useMacVerify r ∧ 64 ≤ (progOf s c run).inLen) ∧
    (∃ (c : Ctx) (run : ProgramRun) (r : KeyRecord) (s : Machine.State), 4 ≤ (progOf s c run).param 0 5 ∧ (progOf s c run).param 0 5 ≤ 8 ∧ (progOf s c run).paramOnly 543 = true ∧ r.key.material.length = 16 ∧ programReady s c 516 run ∧ cipherKeyReady s c 0 1 useMacGen r ∧ (progOf s c run).param 0 5 ≤ (progOf s c run).x.desc.outLen) ∧
    (∃ (c : Ctx) (run : ProgramRun) (r : KeyRecord) (s : Machine.State), 4 ≤ (progOf s c run).param 0 5 ∧ (progOf s c run).param 0 5 ≤ 8 ∧ (progOf s c run).paramOnly 543 = true ∧ r.key.material.length = 16 ∧ programReady s c 517 run ∧ cipherKeyReady s c 0 1 useMacVerify r) ∧
    (∃ (c : Ctx) (run : ProgramRun) (r : KeyRecord) (z : KeyRecord) (p : List Byte × Nat) (pin : List Byte × Nat) (f : List Byte × Nat) (s : Machine.State), programReady s c 320 run ∧ cipherKeyReady s c 0 1 usePinTranslate r ∧ cipherKeyReady s c 1 2 usePinTranslate z ∧ 8 ≤ s.queueFill ↑c.cc ∧ applied (shippedFmt 4) 3 ((progOf s c run).byte 8) 0 ((progOf s c run).input 9 10) [] [] = Except.ok p ∧ applied (shippedFmt 0) 1 ((progOf s c run).byte 8) 0 (fitBytes 16 (dec r.key ((progOf s c run).input 0 8))) ((progOf s c run).input 9 10) [] = Except.ok pin ∧ applied (shippedFmt 4) 2 0 pin.snd pin.fst (fitBytes 16 (drawn s c 8)) [] = Except.ok f) ∧
    (∃ (c : Ctx) (run : ProgramRun) (r : KeyRecord) (z : KeyRecord) (pin : List Byte × Nat) (v : List Byte) (s : Machine.State), programReady s c 321 run ∧ ((s.fmtEntry (progOf s c run).x ((progOf s c run).param 0 6)).usesPan = true ∨ (s.fmtEntry (progOf s c run).x ((progOf s c run).param 8 6)).usesPan = true → (panDigits (progOf s c run) 16).isSome = true) ∧ 27 ≤ (progOf s c run).inLen ∧ (progOf s c run).paramOnly 16191 = true ∧ (s.fmtEntry (progOf s c run).x ((progOf s c run).param 0 6)).kind = 1 ∧ (s.fmtEntry (progOf s c run).x ((progOf s c run).param 8 6)).kind = 1 ∧ ((s.fmtEntry (progOf s c run).x ((progOf s c run).param 0 6)).wide = true ∨ (progOf s c run).zero 8 8 = true) ∧ (if (s.fmtEntry (progOf s c run).x ((progOf s c run).param 8 6)).wide = true then 16 else 8) ≤ (progOf s c run).x.desc.outLen ∧ ((s.fmtEntry (progOf s c run).x ((progOf s c run).param 0 6)).panRule = 0 ∨ (s.fmtEntry (progOf s c run).x ((progOf s c run).param 8 6)).panRule ≠ 0) ∧ cipherKeyReady s c 0 (s.fmtEntry (progOf s c run).x ((progOf s c run).param 0 6)).keyClass usePinTranslate r ∧ cipherKeyReady s c 1 (s.fmtEntry (progOf s c run).x ((progOf s c run).param 8 6)).keyClass usePinTranslate z ∧ ((s.fmtEntry (progOf s c run).x ((progOf s c run).param 8 6)).randomised = true → 16 ≤ s.queueFill ↑c.cc) ∧ openedPin (s.fmtEntry (progOf s c run).x ((progOf s c run).param 0 6)) r.key ((progOf s c run).input 0 (if (s.fmtEntry (progOf s c run).x ((progOf s c run).param 0 6)).wide = true then 16 else 8)) ((progOf s c run).byte 16) ((progOf s c run).input 17 10) = Except.ok pin ∧ sealedPin (s.fmtEntry (progOf s c run).x ((progOf s c run).param 8 6)) z.key pin ((progOf s c run).byte 16) ((progOf s c run).input 17 10) (pinRandom (s.fmtEntry (progOf s c run).x ((progOf s c run).param 8 6)) s c) = Except.ok v) ∧
    (∃ (c : Ctx) (run : ProgramRun) (r : KeyRecord) (z : KeyRecord) (pin : List Byte × Nat) (off : List Nat) (ds : List Nat) (s : Machine.State), programReady s c 328 run ∧ ((s.fmtEntry (progOf s c run).x ((progOf s c run).param 0 6)).usesPan = true → (panDigits (progOf s c run) 16).isSome = true) ∧ 42 ≤ (progOf s c run).inLen ∧ (progOf s c run).paramOnly 63 = true ∧ (s.fmtEntry (progOf s c run).x ((progOf s c run).param 0 6)).kind = 1 ∧ 4 ≤ (progOf s c run).byte 41 ∧ (progOf s c run).byte 41 ≤ 12 ∧ ((s.fmtEntry (progOf s c run).x ((progOf s c run).param 0 6)).wide = true ∨ (progOf s c run).zero 8 8 = true) ∧ decimalField ((progOf s c run).byte 41) ((progOf s c run).input 35 6) = some off ∧ cipherKeyReady s c 0 (s.fmtEntry (progOf s c run).x ((progOf s c run).param 0 6)).keyClass usePinVerify r ∧ cipherKeyReady s c 1 1 usePinVerify z ∧ openedPin (s.fmtEntry (progOf s c run).x ((progOf s c run).param 0 6)) r.key ((progOf s c run).input 0 (if (s.fmtEntry (progOf s c run).x ((progOf s c run).param 0 6)).wide = true then 16 else 8)) ((progOf s c run).byte 16) ((progOf s c run).input 17 10) = Except.ok pin ∧ decimalised 16 (enc z.key ((progOf s c run).input 27 8)) = Except.ok ds) ∧
    (∃ (c : Ctx) (run : ProgramRun) (r : KeyRecord) (z : KeyRecord) (pin : List Byte × Nat) (pan : List Nat) (want : List Nat) (v : List Nat) (s : Machine.State), panDigits (progOf s c run) 16 = some pan ∧ (progOf s c run).paramOnly 63 = true ∧ (s.fmtEntry (progOf s c run).x ((progOf s c run).param 0 6)).kind = 1 ∧ ((s.fmtEntry (progOf s c run).x ((progOf s c run).param 0 6)).wide = true ∨ (progOf s c run).zero 8 8 = true) ∧ (progOf s c run).byte 27 ≤ 9 ∧ cipherKeyReady s c 0 (s.fmtEntry (progOf s c run).x ((progOf s c run).param 0 6)).keyClass usePinVerify r ∧ cipherKeyReady s c 1 1 usePinVerify z ∧ z.key.material.length = 16 ∧ openedPin (s.fmtEntry (progOf s c run).x ((progOf s c run).param 0 6)) r.key ((progOf s c run).input 0 (if (s.fmtEntry (progOf s c run).x ((progOf s c run).param 0 6)).wide = true then 16 else 8)) ((progOf s c run).byte 16) ((progOf s c run).input 17 10) = Except.ok pin ∧ pvvOf z.key pan ((progOf s c run).byte 27) (List.take pin.snd (nibbles pin.fst)) = Except.ok v ∧ programReady s c 329 run ∧ 30 ≤ (progOf s c run).inLen ∧ decimalField 4 ((progOf s c run).input 28 2) = some want) ∧
    (∃ (c : Ctx) (run : ProgramRun) (r : KeyRecord) (z : KeyRecord) (pin : List Byte × Nat) (pan : List Nat) (v : List Nat) (s : Machine.State), panDigits (progOf s c run) 16 = some pan ∧ (progOf s c run).paramOnly 63 = true ∧ (s.fmtEntry (progOf s c run).x ((progOf s c run).param 0 6)).kind = 1 ∧ ((s.fmtEntry (progOf s c run).x ((progOf s c run).param 0 6)).wide = true ∨ (progOf s c run).zero 8 8 = true) ∧ (progOf s c run).byte 27 ≤ 9 ∧ cipherKeyReady s c 0 (s.fmtEntry (progOf s c run).x ((progOf s c run).param 0 6)).keyClass usePinVerify r ∧ cipherKeyReady s c 1 1 usePinVerify z ∧ z.key.material.length = 16 ∧ openedPin (s.fmtEntry (progOf s c run).x ((progOf s c run).param 0 6)) r.key ((progOf s c run).input 0 (if (s.fmtEntry (progOf s c run).x ((progOf s c run).param 0 6)).wide = true then 16 else 8)) ((progOf s c run).byte 16) ((progOf s c run).input 17 10) = Except.ok pin ∧ pvvOf z.key pan ((progOf s c run).byte 27) (List.take pin.snd (nibbles pin.fst)) = Except.ok v ∧ programReady s c 330 run ∧ 28 ≤ (progOf s c run).inLen ∧ 2 ≤ (progOf s c run).x.desc.outLen) ∧
    (∃ (c : Ctx) (run : ProgramRun) (r : KeyRecord) (pan : List Nat) (expiry : List Nat) (service : List Nat) (want : List Nat) (out : List Nat) (s : Machine.State), panDigits (progOf s c run) 0 = some pan ∧ decimalField 4 ((progOf s c run).input 11 2) = some expiry ∧ decimalField 3 ((progOf s c run).input 13 2) = some service ∧ r.key.material.length = 16 ∧ roomForKeys s c ∧ decimalised 17 (cvvBlock r.key.material (pan ++ expiry ++ service)) = Except.ok out ∧ programReady s c 384 run ∧ 17 ≤ (progOf s c run).inLen ∧ decimalField 3 ((progOf s c run).input 15 2) = some want ∧ cipherKeyReady s c 0 1 useMacVerify r) ∧
    (∃ (c : Ctx) (run : ProgramRun) (r : KeyRecord) (pan : List Nat) (expiry : List Nat) (service : List Nat) (out : List Nat) (s : Machine.State), panDigits (progOf s c run) 0 = some pan ∧ decimalField 4 ((progOf s c run).input 11 2) = some expiry ∧ decimalField 3 ((progOf s c run).input 13 2) = some service ∧ r.key.material.length = 16 ∧ roomForKeys s c ∧ decimalised 17 (cvvBlock r.key.material (pan ++ expiry ++ service)) = Except.ok out ∧ programReady s c 385 run ∧ 15 ≤ (progOf s c run).inLen ∧ 2 ≤ (progOf s c run).x.desc.outLen ∧ cipherKeyReady s c 0 1 useMacGen r) :=
  ⟨⟨cx, r0, recOf k1, prun 0x108 [] k1 k2, by decide +kernel⟩,
   ⟨cx, r0, recOf k1, prun 0x200 (mat 37) k1 k2 8, by decide +kernel⟩,
   ⟨cx, r0, recOf k2, prun 0x201 (mat 37) k2 k2 16, by decide +kernel⟩,
   ⟨cx, r0, recOf kh, prun 0x202 (mat 137) kh k2 16, by decide +kernel⟩,
   ⟨cx, r0, recOf kh, prun 0x203 (mat 137) kh k2 0x110, by decide +kernel⟩,
   ⟨cx, r0, recOf k1, prun 0x204 (mat 13) k1 k2 8, by decide +kernel⟩,
   ⟨cx, r0, recOf k1, prun 0x205 (mat 16) k1 k2 0x208, by decide +kernel⟩,
   ⟨cx, r0, recOf k1, recOf k2, pan3, pinF, fill, s140, by decide +kernel⟩,
   ⟨cx, r0, recOf k1, recOf k1, pinF, okv (sealedPin (shippedFmt 0) k1 pinF 16 panF []), s141, by decide +kernel⟩,
   ⟨cx, r0, recOf k1, recOf k1, pinF, goodOff, ds16, s148 goodOff, by decide +kernel⟩,
   ⟨cx, r0, recOf k1, recOf k1, pinF, panD, pv, pv, s149 pv, by decide +kernel⟩,
   ⟨cx, r0, recOf k1, recOf k1, pinF, panD, pv, prun 0x14A (blk0 ++ zeros 8 ++ panB ++ [3]) k1 k1 0, by decide +kernel⟩,
   ⟨cx, r0, recOf k1, panD, [2, 5, 1, 2], [1, 0, 1], [1, 2, 3], cvo, prun 0x180 (cv [1, 2, 3]) k1 k1 0, by decide +kernel⟩,
   ⟨cx, r0, recOf k1, panD, [2, 5, 1, 2], [1, 0, 1], cvo, prun 0x181 (cv (cvo.take 3)) k1 k1 0 (inlineOut := true), by decide +kernel⟩⟩

end T14

namespace T14b

def k1 : Key := kk 1 16
def k2 : Key := kk 2 16 3
/-- An EMV request of `n` bytes of data at `off`, with the cryptogram its session key gives or zeros. -/
def emv (k : Key) (off n : Nat) (lenAt : Nat) (good : Bool) : List Byte :=
  let head := fun (arqc : List Byte) => (mat 8 ++ [1, 2] ++ arqc ++ (List.replicate (off - 18) (0 : Byte)).set (lenAt - 18) (BitVec.ofNat 8 n)) ++ mat n 5
  let d := head (zeros 8)
  if good then head ((mac k.cls 1 (sessionOf k (d.take 8) ((d.drop 8).take 13)) ((d.drop off).take n)).take 8) else d
def panF : List Byte := packNibbles ([4, 1, 2, 3, 4, 5, 6, 7, 8, 9, 0, 1, 2, 3, 4, 5] ++ List.replicate 4 15)
def panB : List Byte := [16] ++ panF
def pinC : List Byte × Nat := (fitBytes 16 (packNibbles ([1, 2, 3, 4] ++ List.replicate 28 15)), 4)
def ksT : List Byte := [0xFF, 0xFF, 1, 2, 3, 4, 5, 0xE0, 0, 5]
def ksA : List Byte := [1, 2, 3, 4, 5, 6, 7, 8, 0xFF, 0, 0, 5]
def qA : Ksn := { aes := true, bytes := ksA }
def wkA : Key := { cls := 2, material := workingOf qA false 0x04 k2.material }
def bA : List Byte := okv (sealedPin (shippedFmt 4) wkA pinC 16 panF (mat 16))

theorem test_hypotheses_EmvDuKptAndTokenProgramsAnswer :
    (∃ (c : Ctx) (run : ProgramRun) (r : KeyRecord) (s : Machine.State), roomForKeys s c ∧ programReady s c 416 run ∧ cipherKeyReady s c 0 0 useDerive r) ∧
    (∃ (c : Ctx) (run : ProgramRun) (r : KeyRecord) (s : Machine.State), roomForKeys s c ∧ programReady s c 417 run ∧ cipherKeyReady s c 0 1 useDerive r ∧ (List.take 8 (mac r.key.cls (if (progOf s c run).param 0 1 = 1 then 2 else 1) (sessionOf r.key ((progOf s c run).input 0 8) ((progOf s c run).input 8 13)) ((progOf s c run).input 24 ((progOf s c run).byte 20))) == (progOf s c run).input 10 8) = true) ∧
    (∃ (c : Ctx) (run : ProgramRun) (r : KeyRecord) (s : Machine.State), roomForKeys s c ∧ programReady s c 417 run ∧ cipherKeyReady s c 0 1 useDerive r ∧ (List.take 8 (mac r.key.cls (if (progOf s c run).param 0 1 = 1 then 2 else 1) (sessionOf r.key ((progOf s c run).input 0 8) ((progOf s c run).input 8 13)) ((progOf s c run).input 24 ((progOf s c run).byte 20))) == (progOf s c run).input 10 8) = false) ∧
    (∃ (c : Ctx) (run : ProgramRun) (r : KeyRecord) (s : Machine.State), roomForKeys s c ∧ programReady s c 418 run ∧ cipherKeyReady s c 0 2 useDerive r ∧ (List.take 8 (mac r.key.cls (if (progOf s c run).param 0 1 = 1 then 2 else 1) (sessionOf r.key ((progOf s c run).input 0 8) ((progOf s c run).input 8 13)) ((progOf s c run).input 24 ((progOf s c run).byte 20))) == (progOf s c run).input 10 8) = true) ∧
    (∃ (c : Ctx) (run : ProgramRun) (r : KeyRecord) (s : Machine.State), roomForKeys s c ∧ programReady s c 418 run ∧ cipherKeyReady s c 0 2 useDerive r ∧ (List.take 8 (mac r.key.cls (if (progOf s c run).param 0 1 = 1 then 2 else 1) (sessionOf r.key ((progOf s c run).input 0 8) ((progOf s c run).input 8 13)) ((progOf s c run).input 24 ((progOf s c run).byte 20))) == (progOf s c run).input 10 8) = false) ∧
    (∃ (c : Ctx) (run : ProgramRun) (r : KeyRecord) (s : Machine.State), roomForKeys s c ∧ programReady s c 419 run ∧ cipherKeyReady s c 0 0 useDerive r ∧ (List.take 8 (mac r.key.cls (if (progOf s c run).param 0 1 = 1 then 2 else 1) (sessionOf r.key ((progOf s c run).input 0 8) ((progOf s c run).input 8 13)) ((progOf s c run).input 32 ((progOf s c run).byte 23))) == (progOf s c run).input 10 8) = true) ∧
    (∃ (c : Ctx) (run : ProgramRun) (r : KeyRecord) (s : Machine.State), roomForKeys s c ∧ programReady s c 419 run ∧ cipherKeyReady s c 0 0 useDerive r ∧ (List.take 8 (mac r.key.cls (if (progOf s c run).param 0 1 = 1 then 2 else 1) (sessionOf r.key ((progOf s c run).input 0 8) ((progOf s c run).input 8 13)) ((progOf s c run).input 32 ((progOf s c run).byte 23))) == (progOf s c run).input 10 8) = false) :=
  ⟨⟨cx, r0, recOf k1, prun 0x1A0 (emv k1 24 32 20 true) k1 k1, by decide +kernel⟩,
   ⟨cx, r0, recOf k1, prun 0x1A1 (emv k1 24 32 20 true) k1 k1, by decide +kernel⟩,
   ⟨cx, r0, recOf k1, prun 0x1A1 (emv k1 24 32 20 false) k1 k1, by decide +kernel⟩,
   ⟨cx, r0, recOf k2, prun 0x1A2 (emv k2 24 32 20 true) k2 k1, by decide +kernel⟩,
   ⟨cx, r0, recOf k2, prun 0x1A2 (emv k2 24 32 20 false) k2 k1, by decide +kernel⟩,
   ⟨cx, r0, recOf k2, prun 0x1A3 (emv k2 32 32 23 true) k2 k1, by decide +kernel⟩,
   ⟨cx, r0, recOf k1, prun 0x1A3 (emv k1 32 32 23 false) k1 k1, by decide +kernel⟩⟩

theorem test_hypotheses_EmvDuKptAndTokenProgramsAnswer_tokens :
    (∃ (c : Ctx) (run : ProgramRun) (r : KeyRecord) (s : Machine.State), 3 + (if (progOf s c run).param 0 17 ≤ 256 then 1 else 2) * (progOf s c run).num 0 2 + (progOf s c run).byte 2 ≤ (progOf s c run).inLen ∧ (progOf s c run).paramOnly 131071 = true ∧ (if (progOf s c run).param 0 17 ≤ 256 then 1 else 2) * (progOf s c run).num 0 2 ≤ (progOf s c run).x.desc.outLen ∧ 2 ≤ (progOf s c run).param 0 17 ∧ (progOf s c run).param 0 17 ≤ 65536 ∧ (progOf s c run).num 0 2 ≤ 1024 ∧ 1000000 ≤ (progOf s c run).param 0 17 ^ (progOf s c run).num 0 2 ∧ (∀ (x : Nat), x ∈ List.map (fun i => (progOf s c run).num (3 + (if (progOf s c run).param 0 17 ≤ 256 then 1 else 2) * i) (if (progOf s c run).param 0 17 ≤ 256 then 1 else 2)) (List.range ((progOf s c run).num 0 2)) → x < (progOf s c run).param 0 17) ∧ (progOf s c run).byte 2 ≤ 64 ∧ programReady s c 480 run ∧ cipherKeyReady s c 0 2 useTokenise r) ∧
    (∃ (c : Ctx) (run : ProgramRun) (r : KeyRecord) (s : Machine.State), 3 + (if (progOf s c run).param 0 17 ≤ 256 then 1 else 2) * (progOf s c run).num 0 2 + (progOf s c run).byte 2 ≤ (progOf s c run).inLen ∧ (progOf s c run).paramOnly 131071 = true ∧ (if (progOf s c run).param 0 17 ≤ 256 then 1 else 2) * (progOf s c run).num 0 2 ≤ (progOf s c run).x.desc.outLen ∧ 2 ≤ (progOf s c run).param 0 17 ∧ (progOf s c run).param 0 17 ≤ 65536 ∧ (progOf s c run).num 0 2 ≤ 1024 ∧ 1000000 ≤ (progOf s c run).param 0 17 ^ (progOf s c run).num 0 2 ∧ (∀ (x : Nat), x ∈ List.map (fun i => (progOf s c run).num (3 + (if (progOf s c run).param 0 17 ≤ 256 then 1 else 2) * i) (if (progOf s c run).param 0 17 ≤ 256 then 1 else 2)) (List.range ((progOf s c run).num 0 2)) → x < (progOf s c run).param 0 17) ∧ (progOf s c run).byte 2 ≤ 64 ∧ programReady s c 481 run ∧ cipherKeyReady s c 0 2 useDetokenise r) :=
  ⟨⟨cx, r0, recOf k2, prun 0x1E0 ([8, 0, 5] ++ mat 8 ++ mat 5) k2 k1 100, by decide +kernel⟩,
   ⟨cx, r0, recOf k2, prun 0x1E1 ([8, 0, 5] ++ (mat 8).flatMap (fun b => [b, 1]) ++ mat 5) k2 k1 60000, by decide +kernel⟩⟩

theorem test_hypotheses_EmvDuKptAndTokenProgramsAnswer_dukpt :
    (∃ (c : Ctx) (run : ProgramRun) (r : KeyRecord) (z : KeyRecord) (pin : List Byte × Nat) (v : List Byte) (s : Machine.State), programReady s c 336 run ∧ ((s.fmtEntry (progOf s c run).x ((progOf s c run).param 0 6)).usesPan = true ∨ (s.fmtEntry (progOf s c run).x ((progOf s c run).param 8 6)).usesPan = true → (panDigits (progOf s c run) 28).isSome = true) ∧ 39 ≤ (progOf s c run).inLen ∧ (progOf s c run).paramOnly 81727 = true ∧ (s.fmtEntry (progOf s c run).x ((progOf s c run).param 0 6)).kind = 1 ∧ (s.fmtEntry (progOf s c run).x ((progOf s c run).param 8 6)).kind = 1 ∧ (s.fmtEntry (progOf s c run).x ((progOf s c run).param 0 6)).wide = ((progOf s c run).param 16 1 == 1) ∧ (progOf s c run).ksnOk ((progOf s c run).param 16 1 == 1) 16 = true ∧ ((s.fmtEntry (progOf s c run).x ((progOf s c run).param 0 6)).wide = true ∨ (progOf s c run).zero 8 8 = true) ∧ (if (s.fmtEntry (progOf s c run).x ((progOf s c run).param 8 6)).wide = true then 16 else 8) ≤ (progOf s c run).x.desc.outLen ∧ ((s.fmtEntry (progOf s c run).x ((progOf s c run).param 0 6)).panRule = 0 ∨ (s.fmtEntry (progOf s c run).x ((progOf s c run).param 8 6)).panRule ≠ 0) ∧ ((progOf s c run).ksn ((progOf s c run).param 16 1 == 1) 16).valid = true ∧ cipherKeyReady s c 0 (if ((progOf s c run).param 16 1 == 1) = true then 2 else 1) useDerive r ∧ cipherKeyReady s c 1 (s.fmtEntry (progOf s c run).x ((progOf s c run).param 8 6)).keyClass usePinTranslate z ∧ roomForKeys s c ∧ ((s.fmtEntry (progOf s c run).x ((progOf s c run).param 8 6)).randomised = true → 16 ≤ s.queueFill ↑c.cc) ∧ (openedPin (s.fmtEntry (progOf s c run).x ((progOf s c run).param 0 6)) { cls := if ((progOf s c run).param 16 1 == 1) = true then 2 else 1, material := workingOf ((progOf s c run).ksn ((progOf s c run).param 16 1 == 1) 16) false (if ((progOf s c run).param 16 1 == 1) = true then 4 else 18) r.key.material } ((progOf s c run).input 0 (if (s.fmtEntry (progOf s c run).x ((progOf s c run).param 0 6)).wide = true then 16 else 8)) ((progOf s c run).byte 28) ((progOf s c run).input 29 10) = Except.ok pin) ∧ sealedPin (s.fmtEntry (progOf s c run).x ((progOf s c run).param 8 6)) z.key pin ((progOf s c run).byte 28) ((progOf s c run).input 29 10) (pinRandom (s.fmtEntry (progOf s c run).x ((progOf s c run).param 8 6)) s c) = Except.ok v) ∧
    (∃ (c : Ctx) (run : ProgramRun) (r : KeyRecord) (s : Machine.State), 28 ≤ (progOf s c run).inLen ∧ (progOf s c run).paramOnly 3 = true ∧ (((progOf s c run).param 0 1 == 1) = true ∨ ((progOf s c run).param 1 1 == 1) = false) ∧ (progOf s c run).ksnOk ((progOf s c run).param 0 1 == 1) 0 = true ∧ ((progOf s c run).zero (12 + if ((progOf s c run).param 0 1 == 1) = true then 16 else 8) (16 - if ((progOf s c run).param 0 1 == 1) = true then 16 else 8) = true) ∧ ((progOf s c run).ksn ((progOf s c run).param 0 1 == 1) 0).valid = true ∧ cipherKeyReady s c 0 (if ((progOf s c run).param 0 1 == 1) = true then 2 else 1) useDerive r ∧ roomForKeys s c ∧ programReady s c 449 run ∧ ((((progOf s c run).inLen - 28) % if ((progOf s c run).param 0 1 == 1) = true then 16 else 8) = 0) ∧ (progOf s c run).inLen - 28 ≤ (progOf s c run).x.desc.outLen) ∧
    (∃ (c : Ctx) (run : ProgramRun) (r : KeyRecord) (s : Machine.State), 28 ≤ (progOf s c run).inLen ∧ (progOf s c run).paramOnly 3 = true ∧ (((progOf s c run).param 0 1 == 1) = true ∨ ((progOf s c run).param 1 1 == 1) = false) ∧ (progOf s c run).ksnOk ((progOf s c run).param 0 1 == 1) 0 = true ∧ ((progOf s c run).zero (12 + if ((progOf s c run).param 0 1 == 1) = true then 16 else 8) (16 - if ((progOf s c run).param 0 1 == 1) = true then 16 else 8) = true) ∧ ((progOf s c run).ksn ((progOf s c run).param 0 1 == 1) 0).valid = true ∧ cipherKeyReady s c 0 (if ((progOf s c run).param 0 1 == 1) = true then 2 else 1) useDerive r ∧ roomForKeys s c ∧ programReady s c 450 run) ∧
    (∃ (c : Ctx) (run : ProgramRun) (r : KeyRecord) (z : KeyRecord) (s : Machine.State), programReady s c 448 run ∧ (if ((progOf s c run).param 0 1 == 1) = true then 8 else 10) ≤ (progOf s c run).inLen ∧ (progOf s c run).paramOnly 3 = true ∧ (((progOf s c run).param 0 1 == 1) = true ∨ ((progOf s c run).param 1 1 == 1) = false) ∧ cipherKeyReady s c 0 (if ((progOf s c run).param 0 1 == 1) = true then 2 else 1) useDerive r ∧ cipherKeyReady s c 1 0 useWrap z ∧ z.key.cls = versionClass (chr (if ((progOf s c run).param 0 1 == 1) = true then 'D' else 'B')) ∧ ((progOf s c run).strong z.key { cls := if ((progOf s c run).param 0 1 == 1) = true then 2 else 1, material := initialOf { aes := (progOf s c run).param 0 1 == 1, bytes := if ((progOf s c run).param 0 1 == 1) = true then (progOf s c run).input 0 8 ++ zeros 4 else (progOf s c run).input 0 10 } ((progOf s c run).param 1 1 == 1) r.key.material } = true) ∧ roomForKeys s c ∧ (blockPad (chr (if ((progOf s c run).param 0 1 == 1) = true then 'D' else 'B')) ({ cls := if ((progOf s c run).param 0 1 == 1) = true then 2 else 1, material := initialOf { aes := (progOf s c run).param 0 1 == 1, bytes := if ((progOf s c run).param 0 1 == 1) = true then (progOf s c run).input 0 8 ++ zeros 4 else (progOf s c run).input 0 10 } ((progOf s c run).param 1 1 == 1) r.key.material } : Key).material.length ≤ s.queueFill ↑c.cc) ∧ (20 + 2 * (({ cls := if ((progOf s c run).param 0 1 == 1) = true then 2 else 1, material := initialOf { aes := (progOf s c run).param 0 1 == 1, bytes := if ((progOf s c run).param 0 1 == 1) = true then (progOf s c run).input 0 8 ++ zeros 4 else (progOf s c run).input 0 10 } ((progOf s c run).param 1 1 == 1) r.key.material } : Key).material.length + blockPad (chr (if ((progOf s c run).param 0 1 == 1) = true then 'D' else 'B')) ({ cls := if ((progOf s c run).param 0 1 == 1) = true then 2 else 1, material := initialOf { aes := (progOf s c run).param 0 1 == 1, bytes := if ((progOf s c run).param 0 1 == 1) = true then (progOf s c run).input 0 8 ++ zeros 4 else (progOf s c run).input 0 10 } ((progOf s c run).param 1 1 == 1) r.key.material } : Key).material.length) + 2 * macBytes (chr (if ((progOf s c run).param 0 1 == 1) = true then 'D' else 'B')) ≤ min 4096 (progOf s c run).x.desc.outLen)) :=
  ⟨⟨cx, r0, recOf k2, recOf k1, okv (openedPin (shippedFmt 4) wkA bA 16 panF), okv (sealedPin (shippedFmt 0) k1 pinC 16 panF []), prun 0x150 (bA ++ ksA ++ panB) k2 k1 0x10004, by decide +kernel⟩,
   ⟨cx, r0, recOf k2, prun 0x1C1 (ksA ++ mat 16 ++ mat 32) k2 k1 3, by decide +kernel⟩,
   ⟨cx, r0, recOf k2, prun 0x1C2 (ksA ++ mat 16 ++ mat 35) k2 k1 1, by decide +kernel⟩,
   ⟨cx, r0, recOf k1, recOf (kk 1 24 7), prun 0x1C0 ksT k1 (kk 1 24 7) 0, by decide +kernel⟩⟩

end T14b

namespace T15

def kbB : Key := kk 1 16 9
def kbD : Key := kk 2 32 7
def kT : Key := { kk 1 16 3 (2^4+2^5) with attr := 0x3F29 }
def blkOf (v : Byte) (kb k : Key) (x : Bool) : List Byte := blockOf v kb.material [chr 'C', chr '0'] (classLetter k.cls) (chr 'C') 3 x k.material (List.replicate (blockPad v k.material.length) 0x55)
def impKey (k : Key) (x : Bool) : Key := let b : Key := { ktype := .secret, cls := k.cls, sel := 0, level := 6, usage := 2^4+2^5, attr := 2 + 32 + b2n x, material := k.material }; { b with kcv := b.checkValue }
def sI (v : Byte) (kb k : Key) (prog param : Nat) (k1 : Key := kk 2 32 11) : State := prun prog (blkOf v kb k true) kb k1 param
def blkA (v : Byte) (kb k : Key) : List Byte :=
  let clear := beBytes 2 (8 * k.material.length) ++ k.material ++ List.replicate (blockPad v k.material.length) 0x55
  let header := [v] ++ toDecimal 4 (16 + 2 * clear.length + 8) ++ [chr 'C', chr '0', chr 'T', chr 'C'] ++ toHex [5] ++ [chr 'E'] ++ toDecimal 2 0 ++ toDecimal 2 0
  let ci := (cbcEnc 1 (dk (blockEntry v kb.material.length) kb.material [] []) (header.take 8) clear).1
  header ++ toHex ci ++ toHex (blockMacOf v kb.material header clear ci)
def sA (v : Byte) : State := prun 0x104 (blkA v kbB kT) kbB (kk 2 32 11) 9
def rsaMat : List Byte := beBytes 4 65537 ++ beBytes 128 175782568990623041419637355843336039001081438462996880364193530871824907486160152562430682699476154721229900752399430891632734836463755956470933190797308815131582427728928255813599384134023768801588569502178443465066960977513084856357819154099361037180612908406247942407996171801560537472318247299932553593237 ++ beBytes 128 140175228214370589999725725185347237077121425550697483103777479454532046294029097779000874106410483651215802868892404498731786698684662569846691275554005998560574801537896960182940004682050793226799286406794218510239945857718307202579436956733999769453425829008765530850106006918840257285280945892628739351719 ++ beBytes 128 32124568240851613090055947189154763555181842142168754079709872579639698444569329496928945278111996354672483044867601260190201949071919756635982221129733855361566179973287970457596164361707168148322722995065248903384454455157761528977487526262234266785360953415347538126868336201951425260630722308181518751029 ++ beBytes 128 120831273441177315727825585438696026125666733198583287501437373496267435056358786957430098736491561299847938591518357681109218090068093482435099718172520269110312529766092634261788450562325029552185362268322104861360533154402556247544442559115825395970709452037661033222683959425454974362838953206772897328175
def rsaPubMat : List Byte := beBytes 4 65537 ++ beBytes 256 24640361724368927719238463157849769459814468039456485233920691037113358813159093315747254687846898947873313640476393070386544179114206623300012868064172275203804638484816721687366313997599168671566337329038334108783476969216948054819145714087766325291012149288525073150421418598478656771333446695450216399565620117679384573679766591141980815037740848757299647439572549281826220059588756068862650346179068271189478846836958961856844962329096346187289473791461228954178245897308489671028415896112262267273964714602205851736680444139725179599148747084229144954546872823011672660445584117371040506048690031040055402724403
def gPub : List Byte := 4 :: beBytes 32 0x6b17d1f2e12c4247f8bce6e563a440f277037d812deb33a0f4a13945d898c296 ++ beBytes 32 0x4fe342e2fe1a7f9b8ee7eb4a7c0f9e162bce33576b315ececbb6406837bf51f5
def g2Pub : List Byte := 4 :: beBytes 32 0x7cf27b188d034f7e8a52380304b51ac3c08969e277f21b35a60b48fc47669978 ++ beBytes 32 0x7775510db8ed040293d9ac69f7430dbba7dade63ce982299e04b79d227873d1
def kEc : Key := { ktype := .priv, cls := 4, usage := 2 ^ 14 - 1, attr := 0x3F28, level := 3, sel := 0, material := beBytes 32 2 ++ g2Pub }
def ctO : List Byte := beBytes 256 10294938307136211589199167791502608029122098389178393791485715463889613540676178322165449322866825205983889090544629859816081602089735104706886798273755001851629899100430311220597737022770222471288410981694572907568370447619543855759464602742296131533116056803749386113701936370125303631696802687422384881340205821496275084806264530773786608786519266042158196103224209137483756023844111384088369298040525902593636214185398900419014491173698996006287920789643919093205614357093964459422677109452773176480411634104171982416145811881058027347257762340921471818258951145837774253960619508243433642604327188995165710055519
def kR : Key := { kEc with cls := 5, material := rsaMat }
def kRp : Key := { kR with ktype := .pub, material := rsaPubMat }
def result (a : Option PkAnswer) : List Byte × Option (Nat × KType × List Byte) := match a with | some (.done bs sec) => (bs, sec) | _ => ([], none)
def sR : State := prun 0x244 (mat 32) kR kbD 0x10000
def wR : PkWord := { oper := 0x11 }
def aR := result (wrapperAnswer sR cx r0 wR (some (slotFor sR 0 0 useSign)) (mat 32))
def srcR : List Byte := aR.1 ++ mat 32
def sRv : State := prun 0x245 srcR kRp kbD 0x10000
def wRv : PkWord := { oper := 0x13 }
def aRv := result (wrapperAnswer sRv cx r0 wRv (some (slotFor sRv 0 0 useVerify)) srcR)
def ctB : List Byte := mat 256
def sRb (ct : List Byte) : State := prun 0x246 ct kR kbD 0
def aRb (ct : List Byte) := result (wrapperAnswer (sRb ct) cx r0 { oper := 0x14 } (some (slotFor (sRb ct) 0 0 2)) ct)
def sH : State := prun 0x247 gPub kEc kbD 9
def aH := result (wrapperAnswer sH cx r0 { oper := 4 } (some (slotFor sH 0 0 useAgree)) gPub)

theorem test_hypotheses_KeyBlockAndWrapperProgramsAnswer :
    (∃ (c : Ctx) (run : ProgramRun) (y : KeyRecord) (z : KeySlot) (k : Key) (ignored : Bool) (s : Machine.State), programReady s c 260 run ∧ (progOf s c run).paramOnly (2 ^ 28 - 1) = true ∧ headerOk (progOf s c run).inLen ((progOf s c run).input 0 (min (progOf s c run).inLen 4097)) = true ∧ ((progOf s c run).input 0 (min (progOf s c run).inLen 4097)).getD 0 0 ∈ [chr 'A', chr 'B', chr 'C', chr 'D'] ∧ cipherKeyReady s c 0 0 useUnwrap y ∧ fetched s c 1 0 useWrap z ∧ roomForKeys s c ∧ blockGives s y.key ((progOf s c run).input 0 (min (progOf s c run).inLen 4097)) k ignored ∧ (shippedDer (blockEntry (((progOf s c run).input 0 (min (progOf s c run).inLen 4097)).getD 0 0) y.key.material.length)).fits y.key = true ∧ 128 * recordLines k.material.length ≤ (progOf s c run).x.desc.outLen ∧ mayWrite s (progOf s c run).x.part (handleScope (progOf s c run).x.desc.key1 * 2 ^ 28 + (progOf s c run).param 0 28) { key := { ktype := k.ktype, cls := k.cls, sel := k.sel, level := k.level, usage := k.usage, attr := k.attr + 2 ^ 7 * bitsOf z.key.attr 7 7, epoch := k.epoch, created := k.created, kcv := k.kcv, material := k.material } } (some z) false) ∧
    (∃ (c : Ctx) (run : ProgramRun) (y : KeyRecord) (z : KeyRecord) (u : List Byte) (m : Byte) (s : Machine.State), programReady s c 261 run ∧ (progOf s c run).paramOnly 131071 = true ∧ (BitVec.ofNat 8 ((progOf s c run).param 0 8) = chr 'B' ∨ BitVec.ofNat 8 ((progOf s c run).param 0 8) = chr 'D') ∧ keyReady s c 0 0 0 y ∧ cipherKeyReady s c 1 0 useWrap z ∧ usageFor y.key.usage = some (u, m) ∧ y.key.exportable = true ∧ z.key.cls = versionClass (BitVec.ofNat 8 ((progOf s c run).param 0 8)) ∧ (progOf s c run).strong z.key y.key = true ∧ roomForKeys s c ∧ blockFits s c (BitVec.ofNat 8 ((progOf s c run).param 0 8)) y.key.material.length) ∧
    (∃ (c : Ctx) (run : ProgramRun) (y : KeyRecord) (z : KeyRecord) (k : Key) (ignored : Bool) (u : List Byte) (m : Byte) (s : Machine.State), programReady s c 262 run ∧ (progOf s c run).paramOnly 131071 = true ∧ (BitVec.ofNat 8 ((progOf s c run).param 0 8) = chr 'B' ∨ BitVec.ofNat 8 ((progOf s c run).param 0 8) = chr 'D') ∧ headerOk (progOf s c run).inLen ((progOf s c run).input 0 (min (progOf s c run).inLen 4097)) = true ∧ ((progOf s c run).input 0 (min (progOf s c run).inLen 4097)).getD 0 0 ∈ [chr 'A', chr 'B', chr 'C', chr 'D'] ∧ cipherKeyReady s c 0 0 useUnwrap y ∧ cipherKeyReady s c 1 0 useWrap z ∧ roomForKeys s c ∧ blockGives s y.key ((progOf s c run).input 0 (min (progOf s c run).inLen 4097)) k ignored ∧ (shippedDer (blockEntry (((progOf s c run).input 0 (min (progOf s c run).inLen 4097)).getD 0 0) y.key.material.length)).fits y.key = true ∧ usageFor k.usage = some (u, m) ∧ k.exportable = true ∧ z.key.cls = versionClass (BitVec.ofNat 8 ((progOf s c run).param 0 8)) ∧ (progOf s c run).strong z.key k = true ∧ blockFits s c (BitVec.ofNat 8 ((progOf s c run).param 0 8)) k.material.length) :=
  ⟨⟨cx, r0, recOf kbB, slotFor (sA (chr 'A')) 1 0 useWrap, impKey kT true, false, sA (chr 'A'), by decide +kernel⟩,
   ⟨cx, r0, recOf kT, recOf kbB, [chr 'C', chr '0'], chr 'C', prun 0x105 [] kT kbB (0x500 + 66), by decide +kernel⟩,
   ⟨cx, r0, recOf kbB, recOf kbD, impKey kT true, false, [chr 'C', chr '0'], chr 'C', sI (chr 'B') kbB kT 0x106 (0x10000 + 0x500 + 68) kbD, by decide +kernel⟩⟩

theorem test_hypotheses_KeyBlockAndWrapperProgramsAnswer_rsa :
    (∃ (i : Instr) (slot : Nat) (mask : Nat) (c : Ctx) (run : ProgramRun) (v : PkWord) (y : KeySlot) (bs : List Byte) (sec : Option (Nat × KType × List Byte)) (s : Machine.State), signWrapper s i = some (slot, mask, c, run, v) ∧ programReady s c slot run ∧ (progOf s c run).paramOnly mask = true ∧ fetched s c 0 0 useSign y ∧ wrapperReady s c run v (some y) (progOf s c run).whole ∧ pkResultLen v (some y.key) (curveFor s v (some y.key)) (progOf s c run).whole ≤ (progOf s c run).x.desc.outLen ∧ gives (wrapperAnswer s c run v (some y) (progOf s c run).whole) bs sec) ∧
    (∃ (i : Instr) (slot : Nat) (mask : Nat) (c : Ctx) (run : ProgramRun) (v : PkWord) (y : Option KeySlot) (bs : List Byte) (sec : Option (Nat × KType × List Byte)) (s : Machine.State), verifyWrapper s i = some (slot, mask, c, run, v) ∧ programReady s c slot run ∧ (progOf s c run).paramOnly mask = true ∧ wrapperSlot s c v useVerify y ∧ wrapperReady s c run v y (progOf s c run).whole ∧ gives (wrapperAnswer s c run v y (progOf s c run).whole) bs sec) ∧
    (∃ (c : Ctx) (run : ProgramRun) (y : KeySlot) (bs : List Byte) (sec : Option (Nat × KType × List Byte)) (s : Machine.State), programReady s c 582 run ∧ (progOf s c run).paramOnly 192 = true ∧ fetched s c 0 0 2 y ∧ wrapperReady s c run { oper := 20, sel := (progOf s c run).param 6 2 } (some y) (progOf s c run).whole ∧ gives (wrapperAnswer s c run { oper := 20, sel := (progOf s c run).param 6 2 } (some y) (progOf s c run).whole) bs sec ∧ bs.getD 0 0 = 0 ∧ leNat (slice 16 2 bs) ≤ (progOf s c run).x.desc.outLen) ∧
    (∃ (c : Ctx) (run : ProgramRun) (y : KeySlot) (bs : List Byte) (sec : Option (Nat × KType × List Byte)) (s : Machine.State), programReady s c 582 run ∧ (progOf s c run).paramOnly 192 = true ∧ fetched s c 0 0 2 y ∧ wrapperReady s c run { oper := 20, sel := (progOf s c run).param 6 2 } (some y) (progOf s c run).whole ∧ gives (wrapperAnswer s c run { oper := 20, sel := (progOf s c run).param 6 2 } (some y) (progOf s c run).whole) bs sec ∧ bs.getD 0 0 ≠ 0) :=
  ⟨⟨.rsaSignWrapper cx r0, 0x244, 0x100C0, cx, r0, wR, slotFor sR 0 0 useSign, aR.1, aR.2, sR, by decide +kernel⟩,
   ⟨.rsaVerifyWrapper cx r0, 0x245, 0x120C0, cx, r0, wRv, some (slotFor sRv 0 0 useVerify), aRv.1, none, sRv, by decide +kernel⟩,
   ⟨cx, r0, slotFor (sRb ctO) 0 0 2, (aRb ctO).1, none, sRb ctO, by decide +kernel⟩,
   ⟨cx, r0, slotFor (sRb ctB) 0 0 2, (aRb ctB).1, none, sRb ctB, by decide +kernel⟩⟩

theorem test_hypotheses_KeyBlockAndWrapperProgramsAnswer_ecdh :
    ∃ (i : Instr) (slot : Nat) (mask : Nat) (c : Ctx) (run : ProgramRun) (v : PkWord) (y : Option KeySlot) (z : KeySlot) (bs : List Byte) (sec : Nat × KType × List Byte) (s : Machine.State), agreeWrapper s i = some (slot, mask, c, run, v) ∧ programReady s c slot run ∧ (progOf s c run).paramOnly mask = true ∧ wrapperSlot s c v useAgree y ∧ fetched s c 1 0 useWrap z ∧ wrapperReady s c run v y (progOf s c run).whole ∧ gives (wrapperAnswer s c run v y (progOf s c run).whole) bs (some sec) ∧ pkResultLen v (Option.map (fun x => x.key) y) (curveFor s v (Option.map (fun x => x.key) y)) (progOf s c run).whole + 128 * recordLines (match curveFor s v (Option.map (fun x => x.key) y) with | some c => c.lp | none => 32) ≤ (progOf s c run).x.desc.outLen ∧ roomForKey s c sec.snd.snd.length ∧ mayWrite s (progOf s c run).x.part (handleScope (progOf s c run).x.desc.key1 * 2 ^ 28 + (progOf s c run).param 0 28) ((progOf s c run).secretKey v y useDerive sec) (some z) false :=
  ⟨.ecdhWrapper cx r0, 0x247, 2 ^ 28 - 1, cx, r0, { oper := 4 }, some (slotFor sH 0 0 useAgree), slotFor sH 1 0 useWrap, aH.1, aH.2.getD (0, .secret, []), sH, by decide +kernel⟩

end T15

namespace T16

def k1 : Key := kk 1 16
def k2 : Key := kk 2 32 3
def request (h a b : Nat) (five : Byte := 0) : List Byte := leBytes 4 h ++ leBytes 4 a ++ leBytes 4 b ++ [five, 0, 0, 0]
def generating : State := prun 0x100 (request 9 0x3FFF (0x3F28 + 2 ^ 16 * 32)) k1 k2 2 (key0 := noHandle)
def pairing : State := prun 0x100 (request 9 0x0E00 (0x3F28 + 2 ^ 16 * 97)) k2 k2 4
def pair := match wrapperAnswer pairing cx r0 { oper := 1 } none [] with | some (.done bs (some sec)) => (bs, sec) | _ => ([], (0, .secret, []))
def rolling (phase : Nat) (inp : List Byte := []) (f : Part → Part := id) : State := (prun 0x10A inp k2 k1 phase).updPart 1 f
def entry (h : Nat) : List Byte := leBytes 4 h ++ zeros 132
def restoring : State := prun 0x102 (entry 5 ++ entry 9) k2 k1
def loaded := ((progOf restoring cx r0).loadAll [(5, zeros 128), (9, zeros 128)]).run restoring
theorem loads : isOk loaded.1 = true := by decide +kernel
def reading : State := prun 0x103 [] k2 k1
theorem reads : isOk (reading.recordLinesOf 1 5) = true := by decide +kernel

theorem test_hypotheses_KeyTableProgramsServeRecords :
    (∃ (c : Ctx) (run : ProgramRun) (parent : Option KeySlot) (s : Machine.State), programReady s c 256 run ∧ (progOf s c run).paramOnly 15 = true ∧ (progOf s c run).byte 12 < 2 ∧ (progOf s c run).zero 13 3 = true ∧ 16 ≤ (progOf s c run).inLen ∧ parentReady s c parent ∧ 1 ≤ (progOf s c run).param 0 4 ∧ (progOf s c run).param 0 4 ≤ 3 ∧ s.materialFits ((progOf s c run).param 0 4) KType.secret (bitsOf ((progOf s c run).num 4 4) 16 6) (bitsOf ((progOf s c run).num 8 4) 16 13) = true ∧ 128 * recordLines (bitsOf ((progOf s c run).num 8 4) 16 13) ≤ (progOf s c run).x.desc.outLen ∧ bitsOf ((progOf s c run).num 8 4) 16 13 ≤ s.queueFill ↑c.cc ∧ roomForKey s c (bitsOf ((progOf s c run).num 8 4) 16 13) ∧ mayWrite s (progOf s c run).x.part ((progOf s c run).num 0 4) { key := { cls := ({ cls := (progOf s c run).param 0 4, sel := bitsOf ((progOf s c run).num 4 4) 16 6, usage := bitsOf ((progOf s c run).num 4 4) 0 14, attr := withOrigin (bitsOf ((progOf s c run).num 8 4) 0 14) 0, material := drawn s c (bitsOf ((progOf s c run).num 8 4) 16 13) } : Key).cls, sel := ({ cls := (progOf s c run).param 0 4, sel := bitsOf ((progOf s c run).num 4 4) 16 6, usage := bitsOf ((progOf s c run).num 4 4) 0 14, attr := withOrigin (bitsOf ((progOf s c run).num 8 4) 0 14) 0, material := drawn s c (bitsOf ((progOf s c run).num 8 4) 16 13) } : Key).sel, usage := ({ cls := (progOf s c run).param 0 4, sel := bitsOf ((progOf s c run).num 4 4) 16 6, usage := bitsOf ((progOf s c run).num 4 4) 0 14, attr := withOrigin (bitsOf ((progOf s c run).num 8 4) 0 14) 0, material := drawn s c (bitsOf ((progOf s c run).num 8 4) 16 13) } : Key).usage, attr := ({ cls := (progOf s c run).param 0 4, sel := bitsOf ((progOf s c run).num 4 4) 16 6, usage := bitsOf ((progOf s c run).num 4 4) 0 14, attr := withOrigin (bitsOf ((progOf s c run).num 8 4) 0 14) 0, material := drawn s c (bitsOf ((progOf s c run).num 8 4) 16 13) } : Key).attr, kcv := ({ cls := (progOf s c run).param 0 4, sel := bitsOf ((progOf s c run).num 4 4) 16 6, usage := bitsOf ((progOf s c run).num 4 4) 0 14, attr := withOrigin (bitsOf ((progOf s c run).num 8 4) 0 14) 0, material := drawn s c (bitsOf ((progOf s c run).num 8 4) 16 13) } : Key).checkValue, material := ({ cls := (progOf s c run).param 0 4, sel := bitsOf ((progOf s c run).num 4 4) 16 6, usage := bitsOf ((progOf s c run).num 4 4) 0 14, attr := withOrigin (bitsOf ((progOf s c run).num 8 4) 0 14) 0, material := drawn s c (bitsOf ((progOf s c run).num 8 4) 16 13) } : Key).material } } parent ((progOf s c run).byte 12 == 1)) ∧
    (∃ (c : Ctx) (run : ProgramRun) (parent : Option KeySlot) (s : Machine.State) (pub : List Byte) (sec : Nat × KType × List Byte), programReady s c 256 run ∧ (progOf s c run).paramOnly 15 = true ∧ (progOf s c run).byte 12 < 2 ∧ (progOf s c run).zero 13 3 = true ∧ 16 ≤ (progOf s c run).inLen ∧ parentReady s c parent ∧ 4 ≤ (progOf s c run).param 0 4 ∧ (progOf s c run).param 0 4 ≤ 7 ∧ s.materialFits ((progOf s c run).param 0 4) KType.priv (bitsOf ((progOf s c run).num 4 4) 16 6) (bitsOf ((progOf s c run).num 8 4) 16 13) = true ∧ wrapperReady s c run (keygenWord ((progOf s c run).param 0 4) (bitsOf ((progOf s c run).num 4 4) 16 6) (bitsOf ((progOf s c run).num 8 4) 16 13)).fst none (keygenWord ((progOf s c run).param 0 4) (bitsOf ((progOf s c run).num 4 4) 16 6) (bitsOf ((progOf s c run).num 8 4) 16 13)).snd ∧ gives (wrapperAnswer s c run (keygenWord ((progOf s c run).param 0 4) (bitsOf ((progOf s c run).num 4 4) 16 6) (bitsOf ((progOf s c run).num 8 4) 16 13)).fst none (keygenWord ((progOf s c run).param 0 4) (bitsOf ((progOf s c run).num 4 4) 16 6) (bitsOf ((progOf s c run).num 8 4) 16 13)).snd) pub (some sec) ∧ 128 * recordLines (bitsOf ((progOf s c run).num 8 4) 16 13) + pkResultLen (keygenWord ((progOf s c run).param 0 4) (bitsOf ((progOf s c run).num 4 4) 16 6) (bitsOf ((progOf s c run).num 8 4) 16 13)).fst none (curveFor s (keygenWord ((progOf s c run).param 0 4) (bitsOf ((progOf s c run).num 4 4) 16 6) (bitsOf ((progOf s c run).num 8 4) 16 13)).fst none) (keygenWord ((progOf s c run).param 0 4) (bitsOf ((progOf s c run).num 4 4) 16 6) (bitsOf ((progOf s c run).num 8 4) 16 13)).snd ≤ (progOf s c run).x.desc.outLen ∧ roomForKey s c sec.snd.snd.length ∧ mayWrite s (progOf s c run).x.part ((progOf s c run).num 0 4) ((progOf s c run).secretKey (keygenWord ((progOf s c run).param 0 4) (bitsOf ((progOf s c run).num 4 4) 16 6) (bitsOf ((progOf s c run).num 8 4) 16 13)).fst none (bitsOf ((progOf s c run).num 4 4) 0 14) sec) parent ((progOf s c run).byte 12 == 1)) ∧
    (∃ (c : Ctx) (run : ProgramRun) (s : Machine.State), programReady s c 257 run ∧ 128 ≤ (progOf s c run).x.desc.outLen ∧ s.refuseDestroy (progOf s c run).x.part (progOf s c run).x.desc.key0 = none ∧ chainReady s c 0) ∧
    (∃ (c : Ctx) (run : ProgramRun) (rs : List (Nat × List Byte)) (codes : List Nat) (u : Machine.State) (s : Machine.State), programReady s c 258 run ∧ splitRecords ((progOf s c run).inLen / 136 + 1) ((progOf s c run).input 0 (progOf s c run).inLen) = Except.ok rs ∧ rs.length ≤ (progOf s c run).x.desc.outLen ∧ ExceptT.run ((progOf s c run).loadAll rs) s = (Except.ok codes, u)) ∧
    (∃ (e : Prog) (h : Nat) (bs : List Byte) (s : Machine.State), s.mayName e.x.part h = true ∧ (∀ (l : KeyLine), s.readRecord e.x.part h bs = some l → ∀ (r : KeyRecord), l.liveRecord = some r → bitOf r.key.attr 3 = true)) ∧
    (∃ (c : Ctx) (run : ProgramRun) (bs : List Byte) (s : Machine.State), programReady s c 259 run ∧ s.recordLinesOf (progOf s c run).x.part (progOf s c run).x.desc.key0 = Except.ok bs ∧ bs.length ≤ (progOf s c run).x.desc.outLen ∧ chainReady s c 0) ∧
    (∃ (c : Ctx) (run : ProgramRun) (s : Machine.State), programReady s c 266 run ∧ (progOf s c run).paramOnly 3 = true ∧ (progOf s c run).param 0 2 = 0) ∧
    (∃ (c : Ctx) (run : ProgramRun) (s : Machine.State), programReady s c 266 run ∧ (progOf s c run).paramOnly 3 = true ∧ (progOf s c run).param 0 2 = 2 ∧ (List.any s.ge.lines fun l => l.snd.live && linePart l.fst == (progOf s c run).x.part && Option.map (fun x => x.tepoch) l.snd.record != some (((s.part (progOf s c run).x.part).tepoch + 1) % 2 ^ 32)) = false) ∧
    (∃ (c : Ctx) (run : ProgramRun) (s : Machine.State), programReady s c 266 run ∧ (progOf s c run).paramOnly 3 = true ∧ (progOf s c run).param 0 2 = 3) ∧
    (∃ (c : Ctx) (run : ProgramRun) (s : Machine.State), programReady s c 266 run ∧ (progOf s c run).paramOnly 3 = true ∧ (progOf s c run).param 0 2 = 1 ∧ 8 ≤ (progOf s c run).inLen ∧ 1 ≤ (progOf s c run).num 4 4 ∧ (progOf s c run).num 4 4 ≤ 32768 ∧ (s.part (progOf s c run).x.part).rollBusy = true ∧ 128 * (List.map (fun l => (Option.map (fun r => recordLines r.key.material.length) l.snd.record).getD 1) (s.liveIn (progOf s c run).x.part ((progOf s c run).num 0 4) ((progOf s c run).num 4 4))).sum ≤ (progOf s c run).x.desc.outLen) ∧
    (∃ (c : Ctx) (run : ProgramRun) (s : Machine.State), programReady s c 267 run) :=
  ⟨⟨cx, r0, none, generating, by decide +kernel⟩,
   ⟨cx, r0, some (slotFor pairing 0 0 useWrap), pairing, pair.1, pair.2, by decide +kernel⟩,
   ⟨cx, r0, prun 0x101 [] k2 k1, ⟨by decide +kernel, by decide +kernel, by decide +kernel, by unfold chainReady; decide +kernel⟩⟩,
   ⟨cx, r0, [(5, zeros 128), (9, zeros 128)], okOf _ loads, loaded.2, restoring, ⟨by decide +kernel, by decide +kernel, by decide +kernel, Prod.ext (eq_okOf _ loads) rfl⟩⟩,
   ⟨progOf restoring cx r0, 5, zeros 128, restoring, by decide +kernel⟩,
   ⟨cx, r0, okOf _ reads, reading, ⟨by decide +kernel, eq_okOf _ reads, by decide +kernel, by unfold chainReady; decide +kernel⟩⟩,
   ⟨cx, r0, rolling 0, by decide +kernel⟩,
   ⟨cx, r0, { rolling 2 with ge.lines := [] }, by decide +kernel⟩,
   ⟨cx, r0, rolling 3, by decide +kernel⟩,
   ⟨cx, r0, rolling 1 (leBytes 4 50 ++ leBytes 4 1) fun x => { x with rollBusy := true }, by decide +kernel⟩,
   ⟨cx, r0, prun 0x10B [] k2 k1, by decide +kernel⟩⟩

def asking : State := prun 0x107 (mat 32) k2 k1
def asked : KeySlot := slotFor asking 0 0 0
def evidence : List Byte := asking.statement (progOf asking cx r0).x (lineKey (progOf asking cx r0).x.part (progOf asking cx r0).x.desc.key0) asked.key ((progOf asking cx r0).input 0 32)
def signing (n : Nat) : PkOp :=
  ((progOf asking cx r0).attestOp n evidence (if n = 1 then (drawn asking cx 256).take 192 else (drawn asking cx 256).drop 192)).enter asking.lc.devKeys

theorem test_hypotheses_KeyTableProgramsServeRecords_attested (a b : List Byte) (ha : gives (asking.pkAnswer (signing 1) true) a none) (hb : gives (asking.pkAnswer (signing 2) true) b none) :
    ∃ (c : Ctx) (run : ProgramRun) (y : KeySlot) (p : Nat) (q : Nat) (s : Machine.State) (a : List Byte) (b : List Byte) (sa : Option (Nat × KType × List Byte)) (sb : Option (Nat × KType × List Byte)), programReady s c 263 run ∧ 32 ≤ (progOf s c run).inLen ∧ 3557 ≤ (progOf s c run).x.desc.outLen ∧ fetched s c 0 0 0 y ∧ y.key.origin = 0 ∧ y.key.exportable = false ∧ s.lcState ≠ 6 ∧ s.pickPk false [] = some p ∧ s.pkQueue p ((progOf s c run).attestOp 1 [] []).word.isLattice = [] ∧ s.relocks (16 + p) = false ∧ s.pkUnitFor p ((progOf s c run).attestOp 1 [] []) ≠ none ∧ s.pickPk true (if (s.pickPk true [p]).isSome = true then [p] else []) = some q ∧ s.pkQueue q ((progOf s c run).attestOp 2 [] []).word.isLattice = [] ∧ s.relocks (16 + q) = false ∧ s.pkUnitFor q ((progOf s c run).attestOp 2 [] []) ≠ none ∧ 256 ≤ s.queueFill ↑c.cc ∧ gives (s.pkAnswer (((progOf s c run).attestOp 1 (s.statement (progOf s c run).x (lineKey (progOf s c run).x.part (progOf s c run).x.desc.key0) y.key ((progOf s c run).input 0 32)) (List.take 192 (drawn s c 256))).enter s.lc.devKeys) true) a sa ∧ gives (s.pkAnswer (((progOf s c run).attestOp 2 (s.statement (progOf s c run).x (lineKey (progOf s c run).x.part (progOf s c run).x.desc.key0) y.key ((progOf s c run).input 0 32)) (List.drop 192 (drawn s c 256))).enter s.lc.devKeys) true) b sb :=
  ⟨cx, r0, asked, (asking.pickPk false []).getD 99, (asking.pickPk true [(asking.pickPk false []).getD 99]).getD 99, asking, a, b, none, none, (by (iterate 16 refine ⟨by decide +kernel, ?_⟩); exact ⟨ha, hb⟩)⟩

end T16

namespace T17

def k1 : Key := kk 1 16
/-- A program of partition 0, whose one officer has the key fingerprint of 97 zero bytes. -/
def ad (prog : Nat) (inp : List Byte) (param : Nat := 0) (body : List Byte := []) (outLen : Nat := 6000) : State :=
  let s := prun prog inp k1 k1 param outLen body (part := 0)
  { s.updPart 0 fun x => { x with officers := [{ oid := 1, role := 1, ktype := 1, keyfp := sha3_256 (zeros 97) }] } with quartz := 10 ^ 12 }
def sealedA (s : State) : State := { (s.set R.GATE_STATE 2).set R.GATE_CLASS 1 with gt := { s.gt with set := [.create 5] } }
def msg : List Byte := [0x4B, 0x4C, 0x41, 0x50] ++ (sealedA up).gateStamp ++ (sealedA up).gateDigest ++ leBytes 2 1 ++ [1, 0]
def approving (n : Nat) : State := sealedA (ad 0x14 (msg ++ zeros n))
def debug (l : List Byte) : State := { ad 0x18 l with lc := { up.lc with word := lcCodeword 4, nonce := mat 32 } }
def creating : State := { ad 0x1A [] 0 (zeros 8 ++ leBytes 8 0 ++ zeros 8) with mode := .bare }
def joining : State := [(R.FVL0_SPONSOR_SN_LO, 77), (R.FVL0_SPONSOR_SN_HI, 1), (R.FVL_STATE 2, 4), (R.FVL_PEER_SN_LO 2, 77), (R.FVL_PEER_SN_HI 2, 1)].foldl (fun s e => s.set e.1 e.2) (ad 0x1A [] 1)
def leaving : State := ((((ad 0x1A [] 2).set R.FVL0_ENROLLED 1).updPart 1 fun x => { x with pstate := .frozen }).set (R.FVL_STATE 2) 4).set (R.FVL_STATE 0) 4
def scheduling : State := ad 0x1B [] 1 (zeros 8 ++ leBytes 8 (2 * 10 ^ 12) ++ leBytes 4 500 ++ zeros 4)
def cancelling (t : Nat) : State := (ad 0x1B [] (2 ^ 31 + 1)).updPart 1 fun x => { x with epPending := some (t, 5), epSeq := 4 }
def reprov (param n : Nat) (latch : Nat) : State := ((ad 0x1D (zeros n) param).set R.RST_BOOT_ERR 1) |> fun s => { s with ob := { s.ob with latch } }
def journal (p : Nat) (inp : List Byte) : State := ((ad 0x1F inp p).set R.SD_PRESENT 1).set R.SD_JSTATE 1
def be72 (v : Nat) : List Byte := beBytes 72 v
/-- P-256 as an integrator's entry, with the SHA3-256 of its six numbers. -/
def image : List Byte :=
  fitBytes 16 [1, 1, 0, 1, 0, 1, 1, 1] ++ beBytes 32 0x8ff003829a143bfcbe6ad789d44a8cc0fc8894c0cdfb448f71383ab01696b1b0 ++ zeros 16 ++
  be72 curveP256.p ++ be72 curveP256.a ++ be72 curveP256.b ++ be72 curveP256.gx ++ be72 curveP256.gy ++ be72 curveP256.n ++ zeros 16
def loading (l : List Byte) : State := ad 0x13 l 20
def token : List Byte := List.replicate 32 7
def targeting : State := { ad 0x16 ([4, 0, 0, 0] ++ token) with lc := { up.lc with word := lcCodeword 2 } }
def response : List Byte := [75, 76, 68, 82] ++ leBytes 8 Config.serial.toNat ++ mat 32 ++ [1, 0, 0, 0]
def answering : State := debug (response ++ (zeros 97 ++ (mat 1952 ++ (zeros 96 ++ mat 3309))))
def block3 : List Byte := journalRecord (zeros 32) 3 1 [3]
def recalling : State := { journal 1 (leBytes 8 3) with ob := { up.ob with journal := 5 } }

theorem names (n : Nat) (hx : (progOf (approving n) cx r0).x.input = msg ++ zeros n) (hl : (progOf (approving n) cx r0).x.desc.inLen = (msg ++ zeros n).length)
    (hg : (approving n).gateStamp = (sealedA up).gateStamp) (hd : (approving n).gateDigest = (sealedA up).gateDigest)
    (hs : ((approving n).get R.GATE_STATE == 2) = true) :
    (approving n).approvalNames ((progOf (approving n) cx r0).input 0 56) = true := by
  rw [input_slice hx hl, slice_front (by decide +kernel)]
  unfold State.approvalNames
  rw [hg, hd, hs, Bool.true_or, Bool.true_and, decide_eq_true_eq]
  rfl

theorem block3_valid : validRecord (zeros 32) (block3.take 256) = true := by
  have hl : block3.length = 256 := by decide +kernel
  rw [List.take_of_length_le (by omega)]
  exact validRecord_record 3 (by decide +kernel)

theorem refusal (h : Config.tokenDigest 4 = some (sha3_256 token)) :
    targeting.lcRefusal false ((progOf targeting cx r0).byte 0) ((progOf targeting cx r0).input 4 32) = none := by
  have h1 : (progOf targeting cx r0).byte 0 = 4 := by decide +kernel
  have h2 : (progOf targeting cx r0).input 4 32 = token := by decide +kernel
  have h3 : targeting.lc.target.isSome = false := by decide +kernel
  have h4 : lcLegal targeting.lcState (lcPending targeting.lc.word) 4 = true := by decide +kernel
  unfold State.lcRefusal
  rw [h1, h2, h3, h, h4]
  simp

theorem answer : (progOf answering cx r0).inLen = 5502 ∧ (progOf answering cx r0).input 0 48 = response ∧ (progOf answering cx r0).input 48 97 = zeros 97 ∧
    (progOf answering cx r0).input 145 1952 = mat 1952 ∧ (progOf answering cx r0).input 2097 96 = zeros 96 ∧
    (progOf answering cx r0).input 2193 3309 = mat 3309 := by
  have hx : (progOf answering cx r0).x.input = response ++ (zeros 97 ++ (mat 1952 ++ (zeros 96 ++ mat 3309))) := rfl
  have hl : (progOf answering cx r0).x.desc.inLen = (response ++ (zeros 97 ++ (mat 1952 ++ (zeros 96 ++ mat 3309)))).length := rfl
  have l0 : response.length = 48 := by decide +kernel
  have l1 (n : Nat) : (zeros n).length = n := by simp [zeros]
  have l2 (n : Nat) : (mat n).length = n := by simp [mat]
  refine ⟨?_, ?_, ?_, ?_, ?_, ?_⟩
  · show (progOf answering cx r0).x.desc.inLen = _
    rw [hl]; simp only [List.length_append, l0, l1, l2]
  · rw [input_slice hx hl, slice_front l0]
  · rw [input_slice hx hl, slice_mid l0 (l1 97)]
  · rw [input_slice hx hl, ← List.append_assoc, slice_mid (by simp only [List.length_append, l0, l1]) (l2 1952)]
  · rw [input_slice hx hl, ← List.append_assoc, ← List.append_assoc, slice_mid (by simp only [List.length_append, l0, l1, l2]) (l1 96)]
  · rw [input_slice hx hl, ← List.append_assoc, ← List.append_assoc, ← List.append_assoc,
      slice_back (by simp only [List.length_append, l0, l1, l2]) (l2 3309)]

theorem test_hypotheses_AdministrationProgramsServe :
    (∃ (c : Ctx) (run : ProgramRun) (s : Machine.State), programReady s c 16 run ∧ 1024 ≤ (progOf s c run).param 0 12 ∧ (progOf s c run).paramOnly 4095 = true ∧ ((progOf s c run).input 0 (progOf s c run).inLen = [] ∨ 256 ≤ ((progOf s c run).input 0 (progOf s c run).inLen).length ∧ ((progOf s c run).input 0 (progOf s c run).inLen).length = imageLength ((progOf s c run).input 0 (progOf s c run).inLen) ∧ (readImage ((progOf s c run).param 0 12) ((progOf s c run).input 0 (progOf s c run).inLen)).isSome = true)) ∧
    (∃ (c : Ctx) (run : ProgramRun) (s : Machine.State), programReady s c 17 run ∧ 32 ≤ (progOf s c run).param 0 6 ∧ (progOf s c run).paramOnly 63 = true ∧ ((progOf s c run).input 0 (progOf s c run).inLen = [] ∨ ((progOf s c run).input 0 (progOf s c run).inLen).length = 64 ∧ fmtCheck ((progOf s c run).input 0 (progOf s c run).inLen) = none)) ∧
    (∃ (c : Ctx) (run : ProgramRun) (s : Machine.State), programReady s c 18 run ∧ 64 ≤ (progOf s c run).param 0 7 ∧ (progOf s c run).paramOnly 127 = true ∧ ((progOf s c run).input 0 (progOf s c run).inLen = [] ∨ ((progOf s c run).input 0 (progOf s c run).inLen).length = 128 ∧ derCheck ((progOf s c run).input 0 (progOf s c run).inLen) = none)) ∧
    (∃ (c : Ctx) (run : ProgramRun) (s : Machine.State), programReady s c 19 run ∧ 16 ≤ (progOf s c run).param 0 6 ∧ (progOf s c run).paramOnly 63 = true ∧ (progOf s c run).input 0 (progOf s c run).inLen = []) ∧
    (∃ (c : Ctx) (run : ProgramRun) (s : Machine.State), programReady s c 30 run ∧ (progOf s c run).paramOnly 7 = true ∧ ((progOf s c run).input 0 (progOf s c run).inLen = [] ∨ ∃ h, readApplet ((progOf s c run).input 0 (progOf s c run).inLen) = some h ∧ h.aslot = (progOf s c run).param 0 3 ∧ (s.part h.tag).created = true)) ∧
    (∃ (c : Ctx) (run : ProgramRun) (s : Machine.State), programReady s c 28 run ∧ (progOf s c run).paramOnly 1 = true ∧ s.ob.latch = 3 ∧ s.get R.GATE_STATE = 0 ∧ ((progOf s c run).param 0 1 = 1 → s.get R.PAIR_PAIR_EN = 1 ∧ s.partnerByte 8 % 4 = 1 ∧ s.pr.healthIn = true)) ∧
    (∃ (c : Ctx) (run : ProgramRun) (s : Machine.State), programReady s c 20 run ∧ 56 ≤ (progOf s c run).inLen ∧ s.approvalNames ((progOf s c run).input 0 56) = true ∧ s.approvalKeyed ((progOf s c run).input 0 56) ((progOf s c run).input 56 ((progOf s c run).inLen - 56)) = true) ∧
    (∃ (c : Ctx) (run : ProgramRun) (s : Machine.State), programReady s c 20 run ∧ 56 ≤ (progOf s c run).inLen ∧ s.approvalNames ((progOf s c run).input 0 56) = false) ∧
    (∃ (c : Ctx) (run : ProgramRun) (s : Machine.State), programReady s c 20 run ∧ 56 ≤ (progOf s c run).inLen ∧ s.approvalNames ((progOf s c run).input 0 56) = true ∧ s.approvalKeyed ((progOf s c run).input 0 56) ((progOf s c run).input 56 ((progOf s c run).inLen - 56)) = false) ∧
    (∃ (c : Ctx) (run : ProgramRun) (s : Machine.State), programReady s c 21 run ∧ 2 ≤ s.get R.GATE_STATE ∧ s.changeRecords.length ≤ (progOf s c run).x.desc.outLen) ∧
    (∃ (c : Ctx) (run : ProgramRun) (s : Machine.State), programReady s c 23 run ∧ (s.lcState = 4 ∨ s.lcState = 5) ∧ 56 ≤ (progOf s c run).x.desc.outLen ∧ 32 ≤ s.queueFill ↑c.cc) ∧
    (∃ (c : Ctx) (run : ProgramRun) (s : Machine.State), programReady s c 24 run ∧ (s.lcState = 4 ∨ s.lcState = 5) ∧ (progOf s c run).inLen = 5502 ∧ s.lc.nonce ≠ [] ∧ List.take 44 ((progOf s c run).input 0 48) ≠ [75, 76, 68, 82] ++ leBytes 8 Config.serial.toNat ++ s.lc.nonce) ∧
    (∃ (c : Ctx) (run : ProgramRun) (s3 : Bool) (s : Machine.State), programReady s c 25 run ∧ (progOf s c run).paramOnly 3 = true ∧ ((progOf s c run).param 0 2 = if s3 = true then 3 else 2) ∧ (∀ (p : Nat × Part), p ∈ s.created → p.fst = 0 ∨ s.backlog p.fst = 0) ∧ (s.otherWork ((progOf s c run).x.cmd.bind fun d => if d.peer.isNone = true then some (qpKey d.part d.qp) else none) = false) ∧ s.pkHeld = false ∧ s.sleepBarred = false ∧ s.ob.latch ≠ 1) ∧
    (∃ (c : Ctx) (run : ProgramRun) (s : Machine.State), programReady s c 26 run ∧ (progOf s c run).paramOnly 3 = true ∧ (progOf s c run).param 0 2 = 0 ∧ s.enrolled = false ∧ 40 ≤ s.queueFill ↑c.cc) ∧
    (∃ (c : Ctx) (run : ProgramRun) (s : Machine.State), programReady s c 26 run ∧ (progOf s c run).paramOnly 3 = true ∧ (progOf s c run).param 0 2 = 1 ∧ s.enrolled = false ∧ s.sponsorSerial ≠ 0 ∧ s.sponsorLink ≠ none) ∧
    (∃ (c : Ctx) (run : ProgramRun) (s : Machine.State), programReady s c 26 run ∧ (progOf s c run).paramOnly 3 = true ∧ (progOf s c run).param 0 2 = 2 ∧ s.enrolled = true ∧ (∀ (p : Nat), p ∈ s.tenants → (s.part p).pstate = PState.frozen)) ∧
    (∃ (c : Ctx) (run : ProgramRun) (s : Machine.State), programReady s c 27 run ∧ (progOf s c run).paramOnly 2147484671 = true ∧ (progOf s c run).param 31 1 = 0 ∧ (s.part ((progOf s c run).param 0 10)).epPending = none ∧ s.domainTime + 1000000000 ≤ leNat (List.take 8 (progOf s c run).x.desc.paramExt) ∧ leNat (slice 8 4 (progOf s c run).x.desc.paramExt) ≤ 60000 ∧ (s.part ((progOf s c run).param 0 10)).epTs + (s.part ((progOf s c run).param 0 10)).epTov ≤ leNat (List.take 8 (progOf s c run).x.desc.paramExt)) ∧
    (∃ (c : Ctx) (run : ProgramRun) (s : Machine.State) (t : Nat) (d : Nat), programReady s c 27 run ∧ (progOf s c run).paramOnly 2147484671 = true ∧ (progOf s c run).param 31 1 = 1 ∧ (s.part ((progOf s c run).param 0 10)).epPending = some (t, d) ∧ s.domainTime + 500000000 ≤ t) ∧
    (∃ (c : Ctx) (run : ProgramRun) (s : Machine.State) (t : Nat) (d : Nat), programReady s c 27 run ∧ (progOf s c run).paramOnly 2147484671 = true ∧ (progOf s c run).param 31 1 = 1 ∧ (s.part ((progOf s c run).param 0 10)).epPending = some (t, d) ∧ s.domainTime < t ∧ t < s.domainTime + 500000000) ∧
    (∃ (c : Ctx) (run : ProgramRun) (s : Machine.State), programReady s c 29 run ∧ (s.ob.latch = 4 ∨ s.get R.RST_BOOT_ERR = 1) ∧ (progOf s c run).paramOnly 2147491839 = true ∧ 4096 ≤ (progOf s c run).inLen ∧ (progOf s c run).inLen ≤ 2 ^ 23 ∧ 4096 * (progOf s c run).param 0 13 + (progOf s c run).inLen ≤ 2 ^ 25 ∧ ((progOf s c run).param 31 1 = 1 ∨ (progOf s c run).inLen % 4096 = 0) ∧ ((progOf s c run).param 31 1 = 1 → s.ob.latch = 4 → 2049 ≤ (progOf s c run).x.desc.outLen) ∧ (4096 * (progOf s c run).param 0 13 = 0 ∨ s.bt.transfer = some (4096 * (progOf s c run).param 0 13)) ∧ ¬(progOf s c run).param 31 1 = 1) ∧
    (∃ (c : Ctx) (run : ProgramRun) (s : Machine.State), programReady s c 29 run ∧ (s.ob.latch = 4 ∨ s.get R.RST_BOOT_ERR = 1) ∧ (progOf s c run).paramOnly 2147491839 = true ∧ 4096 ≤ (progOf s c run).inLen ∧ (progOf s c run).inLen ≤ 2 ^ 23 ∧ 4096 * (progOf s c run).param 0 13 + (progOf s c run).inLen ≤ 2 ^ 25 ∧ ((progOf s c run).param 31 1 = 1 ∨ (progOf s c run).inLen % 4096 = 0) ∧ ((progOf s c run).param 31 1 = 1 → s.ob.latch = 4 → 2049 ≤ (progOf s c run).x.desc.outLen) ∧ 4096 * (progOf s c run).param 0 13 ≠ 0 ∧ s.bt.transfer ≠ some (4096 * (progOf s c run).param 0 13)) ∧
    (∃ (c : Ctx) (run : ProgramRun) (mmk : List Byte) (s : Machine.State), programReady s c 31 run ∧ (progOf s c run).paramOnly 1 = true ∧ s.get R.SD_PRESENT = 1 ∧ s.journalReady = true ∧ s.ob.mmk = some mmk ∧ (progOf s c run).param 0 2 = 0 ∧ (progOf s c run).inLen ≤ 216) ∧
    (∃ (c : Ctx) (run : ProgramRun) (block : List Byte) (mmk : List Byte) (s : Machine.State), programReady s c 31 run ∧ (progOf s c run).paramOnly 1 = true ∧ s.get R.SD_PRESENT = 1 ∧ s.journalReady = true ∧ s.ob.mmk = some mmk ∧ (progOf s c run).param 0 2 = 1 ∧ 8 ≤ (progOf s c run).inLen ∧ 256 ≤ (progOf s c run).x.desc.outLen ∧ s.journalCount < (progOf s c run).num 0 8 + s.journalBlocks ∧ (progOf s c run).num 0 8 ≤ s.journalCount ∧ numAt block 12 8 = (progOf s c run).num 0 8 ∧ validRecord mmk (List.take 256 block) = true) :=
  ⟨⟨cx, r0, ad 0x10 [] 1030, by decide +kernel⟩,
   ⟨cx, r0, ad 0x11 [] 33, by decide +kernel⟩,
   ⟨cx, r0, ad 0x12 [] 65, by decide +kernel⟩,
   ⟨cx, r0, ad 0x13 [] 20, by decide +kernel⟩,
   ⟨cx, r0, ad 0x1E [] 2, ⟨by decide +kernel, by decide +kernel, .inl (by decide +kernel)⟩⟩,
   ⟨cx, r0, { ad 0x1C [] with ob := { up.ob with latch := 3 } }, by decide +kernel⟩,
   ⟨cx, r0, approving 193, ⟨by decide +kernel, by decide +kernel, names 193 rfl rfl rfl rfl (by decide +kernel), by decide +kernel⟩⟩,
   ⟨cx, r0, sealedA (ad 0x14 (zeros 250)), by decide +kernel⟩,
   ⟨cx, r0, approving 190, ⟨by decide +kernel, by decide +kernel, names 190 rfl rfl rfl rfl (by decide +kernel), by decide +kernel⟩⟩,
   ⟨cx, r0, { sealedA (ad 0x15 []) with gt := { up.gt with set := [.reProvision false] } }, by decide +kernel⟩,
   ⟨cx, r0, { ad 0x17 [] with lc := { up.lc with word := lcCodeword 4 } }, by decide +kernel⟩,
   ⟨cx, r0, debug (zeros 5502), by decide +kernel⟩,
   ⟨cx, r0, true, ad 0x19 [] 3, by decide +kernel⟩,
   ⟨cx, r0, creating, by decide +kernel⟩,
   ⟨cx, r0, joining, by decide +kernel⟩,
   ⟨cx, r0, leaving, by decide +kernel⟩,
   ⟨cx, r0, scheduling, by decide +kernel⟩,
   ⟨cx, r0, cancelling (2 * 10 ^ 12), 2 * 10 ^ 12, 5, by decide +kernel⟩,
   ⟨cx, r0, cancelling (10 ^ 12 + 10 ^ 8), 10 ^ 12 + 10 ^ 8, 5, by decide +kernel⟩,
   ⟨cx, r0, reprov 0 4096 3, by decide +kernel⟩,
   ⟨cx, r0, reprov 1 4096 3, by decide +kernel⟩,
   ⟨cx, r0, zeros 32, journal 0 (mat 20), by decide +kernel⟩,
   ⟨cx, r0, block3, zeros 32, recalling, (by (iterate 11 refine ⟨by decide +kernel, ?_⟩); exact block3_valid)⟩⟩

@[irreducible] def bad : List Byte := zeros 512

theorem image_load : (progOf (loading image) cx r0).input 0 (progOf (loading image) cx r0).inLen = image := by decide +kernel

theorem empty_load : (progOf (loading bad) cx r0).input 0 (progOf (loading bad) cx r0).inLen = bad := by decide +kernel

theorem test_hypotheses_AdministrationProgramsServe_curve (h : curveCheck image ((loading image).draw (72 * 144)).1 = none) (n : Nat) (h' : curveCheck bad ((loading bad).draw (72 * 144)).1 = some n) :
    (∃ (c : Ctx) (run : ProgramRun) (s : Machine.State) (p : Nat) (u : Nat), programReady s c 19 run ∧ 16 ≤ (progOf s c run).param 0 6 ∧ (progOf s c run).paramOnly 63 = true ∧ ((progOf s c run).input 0 (progOf s c run).inLen).length = 512 ∧ List.find? (fun p => s.bit R.GBL_PK_INSERVICE p) (List.range 8) = some p ∧ List.find? (fun u => s.pkOpen p u && (s.pkUnit p u).ops.isEmpty) (List.range 8) = some u ∧ curveCheck ((progOf s c run).input 0 (progOf s c run).inLen) (s.draw (72 * 144)).fst = none ∧ ((s.draw (72 * 144)).snd.stage (Change.image ImageTable.curve ((progOf s c run).param 0 6) ((progOf s c run).input 0 (progOf s c run).inLen))).snd = true) ∧
    (∃ (c : Ctx) (run : ProgramRun) (s : Machine.State) (p : Nat) (u : Nat) (n : Nat), programReady s c 19 run ∧ 16 ≤ (progOf s c run).param 0 6 ∧ (progOf s c run).paramOnly 63 = true ∧ ((progOf s c run).input 0 (progOf s c run).inLen).length = 512 ∧ List.find? (fun p => s.bit R.GBL_PK_INSERVICE p) (List.range 8) = some p ∧ List.find? (fun u => s.pkOpen p u && (s.pkUnit p u).ops.isEmpty) (List.range 8) = some u ∧ curveCheck ((progOf s c run).input 0 (progOf s c run).inLen) (s.draw (72 * 144)).fst = some n) :=
  ⟨⟨cx, r0, loading image, 0, 0, (by (iterate 6 refine ⟨by decide +kernel, ?_⟩); exact ⟨by rw [image_load]; exact h, by decide +kernel⟩)⟩,
   ⟨cx, r0, loading bad, 0, 0, n, (by (iterate 6 refine ⟨by decide +kernel, ?_⟩); exact (by rw [empty_load]; exact h'))⟩⟩

theorem test_hypotheses_AdministrationProgramsServe_lifeCycle (h : Config.tokenDigest 4 = some (sha3_256 token)) :
    ∃ (c : Ctx) (run : ProgramRun) (s : Machine.State), programReady s c 22 run ∧ (progOf s c run).inLen = 36 ∧ (progOf s c run).zero 1 3 = true ∧ s.lcRefusal false ((progOf s c run).byte 0) ((progOf s c run).input 4 32) = none :=
  ⟨cx, r0, targeting, ⟨by decide +kernel, by decide +kernel, by decide +kernel, refusal h⟩⟩

theorem test_hypotheses_AdministrationProgramsServe_debug (h0 : sha3_256 (zeros 97) = Config.serviceDigest 0) (h1 : sha3_256 (mat 1952) = Config.serviceDigest 1) (g1 : approvalVerifies 1 (zeros 97) (zeros 96) response = true) (g2 : approvalVerifies 2 (mat 1952) (mat 3309) response = true) :
    ∃ (c : Ctx) (run : ProgramRun) (s : Machine.State), programReady s c 24 run ∧ (s.lcState = 4 ∨ s.lcState = 5) ∧ (progOf s c run).inLen = 5502 ∧ s.lc.nonce ≠ [] ∧ List.take 44 ((progOf s c run).input 0 48) = [75, 76, 68, 82] ++ leBytes 8 Config.serial.toNat ++ s.lc.nonce ∧ sha3_256 ((progOf s c run).input 48 97) = Config.serviceDigest 0 ∧ sha3_256 ((progOf s c run).input 145 1952) = Config.serviceDigest 1 ∧ approvalVerifies 1 ((progOf s c run).input 48 97) ((progOf s c run).input 2097 96) ((progOf s c run).input 0 48) = true ∧ approvalVerifies 2 ((progOf s c run).input 145 1952) ((progOf s c run).input 2193 3309) ((progOf s c run).input 0 48) = true ∧ (progOf s c run).num 44 2 ≠ 0 ∧ (progOf s c run).num 44 2 < 4 ∧ (progOf s c run).zero 46 2 = true ∧ s.lc.target = none :=
  ⟨cx, r0, answering, ⟨by decide +kernel, by decide +kernel, answer.1, by decide +kernel, by rw [answer.2.1]; rfl, by rw [answer.2.2.1]; exact h0, by rw [answer.2.2.2.1]; exact h1, by rw [answer.2.1, answer.2.2.1, answer.2.2.2.2.1]; exact g1, by rw [answer.2.1, answer.2.2.2.1, answer.2.2.2.2.2]; exact g2, by decide +kernel, by decide +kernel, by decide +kernel, by decide +kernel⟩⟩

theorem chunk (e : Prog) (l : List Byte) (n : Nat) (h : e.param 0 13 = 0) (hl : e.inLen = n) :
    (if 4096 * e.param 0 13 = 0 then [] else l) ++ e.input 0 e.inLen = e.input 0 n := by
  rw [h, hl]
  simp

theorem test_hypotheses_AdministrationProgramsServe_firmware (h : Config.firmware ((progOf (reprov (2 ^ 31) 4096 3) cx r0).input 0 4096) = some 7) (g : Config.firmware ((progOf (reprov (2 ^ 31) 4096 4) cx r0).input 0 4096) = some 7) (h' : Config.firmware ((progOf (reprov (2 ^ 31) 4097 3) cx r0).input 0 4097) = none) :
    (∃ (c : Ctx) (run : ProgramRun) (s : Machine.State), programReady s c 29 run ∧ (s.ob.latch = 4 ∨ s.get R.RST_BOOT_ERR = 1) ∧ (progOf s c run).paramOnly 2147491839 = true ∧ 4096 ≤ (progOf s c run).inLen ∧ (progOf s c run).inLen ≤ 2 ^ 23 ∧ 4096 * (progOf s c run).param 0 13 + (progOf s c run).inLen ≤ 2 ^ 25 ∧ ((progOf s c run).param 31 1 = 1 ∨ (progOf s c run).inLen % 4096 = 0) ∧ ((progOf s c run).param 31 1 = 1 → s.ob.latch = 4 → 2049 ≤ (progOf s c run).x.desc.outLen) ∧ (4096 * (progOf s c run).param 0 13 = 0 ∨ s.bt.transfer = some (4096 * (progOf s c run).param 0 13)) ∧ (progOf s c run).param 31 1 = 1 ∧ Config.firmware ((if 4096 * (progOf s c run).param 0 13 = 0 then [] else s.bt.chunks) ++ (progOf s c run).input 0 (progOf s c run).inLen) = none) ∧
    (∃ (c : Ctx) (run : ProgramRun) (s : Machine.State), programReady s c 29 run ∧ (s.ob.latch = 4 ∨ s.get R.RST_BOOT_ERR = 1) ∧ (progOf s c run).paramOnly 2147491839 = true ∧ 4096 ≤ (progOf s c run).inLen ∧ (progOf s c run).inLen ≤ 2 ^ 23 ∧ 4096 * (progOf s c run).param 0 13 + (progOf s c run).inLen ≤ 2 ^ 25 ∧ ((progOf s c run).param 31 1 = 1 ∨ (progOf s c run).inLen % 4096 = 0) ∧ ((progOf s c run).param 31 1 = 1 → s.ob.latch = 4 → 2049 ≤ (progOf s c run).x.desc.outLen) ∧ (4096 * (progOf s c run).param 0 13 = 0 ∨ s.bt.transfer = some (4096 * (progOf s c run).param 0 13)) ∧ (progOf s c run).param 31 1 = 1 ∧ (Config.firmware ((if 4096 * (progOf s c run).param 0 13 = 0 then [] else s.bt.chunks) ++ (progOf s c run).input 0 (progOf s c run).inLen)).isSome = true ∧ s.ob.latch ≠ 4) ∧
    (∃ (c : Ctx) (run : ProgramRun) (s : Machine.State), programReady s c 29 run ∧ (s.ob.latch = 4 ∨ s.get R.RST_BOOT_ERR = 1) ∧ (progOf s c run).paramOnly 2147491839 = true ∧ 4096 ≤ (progOf s c run).inLen ∧ (progOf s c run).inLen ≤ 2 ^ 23 ∧ 4096 * (progOf s c run).param 0 13 + (progOf s c run).inLen ≤ 2 ^ 25 ∧ ((progOf s c run).param 31 1 = 1 ∨ (progOf s c run).inLen % 4096 = 0) ∧ ((progOf s c run).param 31 1 = 1 → s.ob.latch = 4 → 2049 ≤ (progOf s c run).x.desc.outLen) ∧ (4096 * (progOf s c run).param 0 13 = 0 ∨ s.bt.transfer = some (4096 * (progOf s c run).param 0 13)) ∧ (progOf s c run).param 31 1 = 1 ∧ (Config.firmware ((if 4096 * (progOf s c run).param 0 13 = 0 then [] else s.bt.chunks) ++ (progOf s c run).input 0 (progOf s c run).inLen)).isSome = true ∧ s.ob.latch = 4) :=
  ⟨⟨cx, r0, reprov (2 ^ 31) 4097 3, (by (iterate 10 refine ⟨by decide +kernel, ?_⟩); exact (by rw [chunk _ _ 4097 (by decide +kernel) (by decide +kernel)]; exact h'))⟩,
   ⟨cx, r0, reprov (2 ^ 31) 4096 3, (by (iterate 10 refine ⟨by decide +kernel, ?_⟩); exact ⟨by rw [chunk _ _ 4096 (by decide +kernel) (by decide +kernel)]; exact congrArg Option.isSome h, by decide +kernel⟩)⟩,
   ⟨cx, r0, reprov (2 ^ 31) 4096 4, (by (iterate 10 refine ⟨by decide +kernel, ?_⟩); exact ⟨by rw [chunk _ _ 4096 (by decide +kernel) (by decide +kernel)]; exact congrArg Option.isSome g, by decide +kernel⟩)⟩⟩

end T17

namespace T18

def fused (pending : List Instr) : State := { up with pending, lc := { up.lc with word := 6, burned := 4 } }

theorem test_hypotheses_EveryStepKeepsBlownFuses :
    (∃ (b : Nat) (s : Machine.State) (t : Machine.State), step s = Host.Outcome.next t ∧ bitOf s.lc.word b = true) ∧
    (∃ (b : Nat) (s : Machine.State) (t : Machine.State), step s = Host.Outcome.next t ∧ bitOf s.lc.burned b = true) :=
  ⟨⟨1, fused [.sqTailDoorbell (.pf 0) 0 8 3], fused [], ⟨rfl, by decide +kernel⟩⟩,
   ⟨2, fused [.sqTailDoorbell (.pf 0) 0 8 3], fused [], ⟨rfl, by decide +kernel⟩⟩⟩

theorem test_hypotheses_InstructionWordsDecodeToThemselves :
    (∃ (c : Code), c.cls < 16 ∧ c.op < 16) ∧
    (∃ (v : Nat), v < 2 ^ 64) :=
  ⟨⟨⟨15, 3, { kd := 3, imm := 0xFFFFFFFF }⟩, by decide +kernel⟩,
   ⟨2 ^ 64 - 1, by decide +kernel⟩⟩

end T18

end Sys2Proof.Tests
end

section
/-! SUPPORT. The outcomes of an instruction that is ready to issue: it retires, branches, waits, is refused, or ends its command and leaves its context
free. -/
namespace Sys2Proof.Machine

variable (s : State)

/-! ## An ended command leaves its context free (R63) -/

/-- Seating moved operations changes nothing of a context but the lane its chained stream stays on. -/
theorem State.seatMoved_ctx_cmd (n fuel k : Nat) : ((s.seatMoved n fuel).ctx k).cmd = (s.ctx k).cmd := by
  induction fuel generalizing s with
  | zero => rfl
  | succ fuel ih =>
    have home : ∀ (u : State) (j l : Nat), ((u.updCtx j fun x => { x with home := some l }).ctx k).cmd = (u.ctx k).cmd := fun u j l => by
      by_cases hj : j = k
      · subst hj; simp
      · rw [State.ctx_updCtx_ne _ _ _ _ hj]
    unfold State.seatMoved
    split
    · rfl
    · dsimp only
      split
      · rfl
      · rw [ih]
        split
        · split
          · rw [home]; rfl
          · rfl
        · rfl

theorem endKeeps_ctx {s t : State} (h : endKeeps s t) (k : Nat) : t.ctx k = s.ctx k := by
  rw [State.ctx, ((endKeeps_iff s t).mp h).1]; rfl

theorem State.finish_ctx (ok : Option Bool) (c : Cmd) (e : Ending) (d : Option Nat) (k : Nat) : (s.finish ok c e d).ctx k = s.ctx k :=
  endKeeps_ctx (endKeeps_finish _ _ _ _ _) k

theorem State.settleStale_ctx (k : Nat) : s.settleStale.ctx k = s.ctx k := by
  unfold State.settleStale
  split
  · rfl
  · exact endKeeps_ctx (endKeeps_raise _ _ _) k

theorem State.settleSeq_ctx (n k : Nat) : (s.settleSeq n).ctx k = s.ctx k := by
  unfold State.settleSeq
  split
  · exact endKeeps_ctx (endKeeps_raise _ _ _) k
  · rfl

/-- The context of a command that has ended serves none. -/
theorem State.endCommand_ctx_cmd {k : Nat} (st det len : Nat) (ok : Option Bool) (h : (s.ctx k).cmd.isSome = true) :
    ((s.endCommand k st det len ok).ctx k).cmd = none := by
  obtain ⟨c, hc⟩ := Option.isSome_iff_exists.mp h
  simp only [State.endCommand, hc, State.touch_ctx]
  rw [State.settleSeq_ctx, State.settleStale_ctx, State.finish_ctx, State.seatMoved_ctx_cmd, State.ctx_setCtx_same]

theorem State.failAt_ctx_cmd {k : Nat} (n st det : Nat) (h : (s.ctx k).cmd.isSome = true) : ((s.failAt k n st det).ctx k).cmd = none :=
  State.endCommand_ctx_cmd _ _ _ _ _ (by simpa [State.countIssue] using h)

/-! ## The outcomes of an instruction that is ready to issue -/

section
variable {s} {c : Ctx} {cls op : Nat} {w : Insn} {x : Context} {run : Context → Result}

/-- An instruction whose body retires with `y` as its context retires. -/
theorem State.issue_retires {n : Nat} {y : Context} (h : s.readyCtx (ctxKey c) cls op w = some x)
    (hr : run x = .next (s.retire (ctxKey c) n y)) (hy : y.cmd = x.cmd) :
    ∃ t, s.issue c cls op w run = .next t ∧ retires (ctxKey c) n y s t :=
  ⟨_, s.issue_ready h hr (.inr (by simpa [State.retire, Context.step, hy] using s.readyCtx_runs h)), s.retire_retires _ _ _⟩

/-- An instruction whose body moves PC to `pc` branches there. -/
theorem State.issue_branches {pc : Nat} {y : Context} (h : s.readyCtx (ctxKey c) cls op w = some x)
    (hr : run x = .next ((s.countIssue (ctxKey c) 1).setCtx (ctxKey c) { y with pc := pc, retired := y.retired + 1 })) (hy : y.cmd = x.cmd) :
    ∃ t, s.issue c cls op w run = .next t ∧ branches (ctxKey c) pc y s t :=
  ⟨_, s.issue_ready h hr (.inr (by simpa [hy] using s.readyCtx_runs h)), s.countIssue_setCtx _ _ _⟩

/-- An instruction whose input chunk is not there waits for it. -/
theorem State.issue_waits (h : s.readyCtx (ctxKey c) cls op w = some x) (hr : run x = .next (s.needChunk (ctxKey c) x)) :
    s.issue c cls op w run = .next (s.setCtx (ctxKey c) { x with wait := .chunk }) :=
  s.issue_ready h hr (.inr (by simpa [State.needChunk] using s.readyCtx_runs h))

/-- A reserved word stops. -/
theorem State.issue_refuses {r : Refusal} (h : s.readyCtx (ctxKey c) cls op w = some x) (hr : run x = .refused r) :
    s.issue c cls op w run = .refused r := by
  simp only [State.issue, h, hr, State.inTurn]

/-- An instruction that ends its command does so once the earlier operations of its context have completed (R91, R98). -/
theorem State.issue_fails {n st det : Nat} (h : s.readyCtx (ctxKey c) cls op w = some x)
    (hr : run x = .next (s.failAt (ctxKey c) n st det)) :
    s.issue c cls op w run = .next (whenSettled s (ctxKey c) (s.failAt (ctxKey c) n st det)) := by
  unfold whenSettled
  split
  next settled => exact s.issue_ready h hr (.inl settled)
  next early =>
    have own := (s.readyCtx_spec h).1 ▸ s.readyCtx_runs h
    exact s.issue_early h hr (by simpa using early) (by rw [s.failAt_ctx_cmd _ _ _ own]; rfl)

/-- A LOAD that only changes its context retires with the change. -/
theorem State.load_retires {f : Context → Context} (h : s.readyCtx (ctxKey c) 0x0 op w = some x) (hf : (f x).cmd = x.cmd) :
    ∃ t, s.load c op w f = .next t ∧ retires (ctxKey c) 1 (f x) s t :=
  State.issue_retires h rfl hf

end

end Sys2Proof.Machine
end

section
/-! SUPPORT. LOAD instructions and SETIP (R64, R68, R69, Table 3.4): the arithmetic of S registers, the fields of LDDESC, and each instruction by its cases. -/
namespace Sys2Proof.Machine

/-! ## S registers (R68) -/

/-- A 32-bit word written to an S register stands there. -/
theorem Context.setS_word (x : Context) (i : Nat) (v : Word) : x.setS i v.toNat = { x with sreg := x.sreg.set i v } := by
  simp [Context.setS]

/-- The sum of an S register and a word, cut to 32 bits, is the sum of the two words. -/
theorem Context.setS_sum (x : Context) (i j : Nat) (v : Word) :
    x.setS i (x.sr j + v.toNat) = { x with sreg := x.sreg.set i (x.sreg.getD j 0 + v) } := by
  rw [← Context.setS_word, BitVec.toNat_add, Context.setS, Context.setS]
  congr 2
  exact BitVec.eq_of_toNat_eq (by simp [Context.sr])

/-! ## Descriptor fields (Table 3.4) -/

/-- The S-register fields of LDDESC, as a table by selector. -/
theorem Descriptor.field_table (d : Descriptor) {sel : Nat} (h : sel ≤ 6) :
    (if sel = 0 then d.inLen else if sel = 1 then d.outLen else if sel = 2 then d.param else leNat (slice (4 * (sel - 3)) 4 d.paramExt)) =
      [d.inLen, d.outLen, d.param, leNat (slice 0 4 d.paramExt), leNat (slice 4 4 d.paramExt), leNat (slice 8 4 d.paramExt),
        leNat (slice 12 4 d.paramExt)].getD sel 0 := by
  interval_cases sel <;> rfl

/-! ## LOAD instructions with a case of their own (Table 3.4) -/

section
variable {s : State} {c : Ctx} {w : Insn} {x : Context}

theorem execLdin_received (h : s.readyCtx (ctxKey c) 0x0 0x0 w = some x) (hin : x.has (x.chunkBase + 4096) = true) :
    ∃ t, execLdin c w s = .next t ∧
      retires (ctxKey c) 1 (x.setV w.d (x.bufBytes (x.offset w (immBits w 0 12) w.b) (immBits w 12 4 + 1))) s t :=
  State.issue_retires h (if_pos hin) rfl

theorem execLdin_waits (h : s.readyCtx (ctxKey c) 0x0 0x0 w = some x) (hin : x.has (x.chunkBase + 4096) = false) :
    execLdin c w s = .next (s.setCtx (ctxKey c) { x with wait := .chunk }) :=
  State.issue_waits h (if_neg (by simp [hin]))

theorem execLdsc_received (h : s.readyCtx (ctxKey c) 0x0 0x1 w = some x) (hd : w.d.val ≤ 7) (hin : x.has (x.chunkBase + 4096) = true) :
    ∃ t, execLdsc c w s = .next t ∧
      retires (ctxKey c) 1 (x.setS w.d (scalar (modBit w 5) (x.bufBytes (x.offset w (immBits w 0 12) w.b) (immBits w 12 2 + 1)))) s t :=
  State.issue_retires h ((if_neg (Nat.not_lt.mpr hd)).trans (if_pos hin)) rfl

theorem execLdsc_waits (h : s.readyCtx (ctxKey c) 0x0 0x1 w = some x) (hd : w.d.val ≤ 7) (hin : x.has (x.chunkBase + 4096) = false) :
    execLdsc c w s = .next (s.setCtx (ctxKey c) { x with wait := .chunk }) :=
  State.issue_waits h ((if_neg (Nat.not_lt.mpr hd)).trans (if_neg (by simp [hin])))

theorem execLdsc_reserved (h : s.readyCtx (ctxKey c) 0x0 0x1 w = some x) (hd : 7 < w.d.val) : execLdsc c w s = .refused .reservedEncoding :=
  State.issue_refuses h (if_pos hd)

theorem execLddesc_field (h : s.readyCtx (ctxKey c) 0x0 0x2 w = some x) (hd : w.d.val ≤ 7) (hsel : immBits w 0 4 ≤ 6) :
    ∃ t, execLddesc c w s = .next t ∧
      retires (ctxKey c) 1 (x.setS w.d ([x.desc.inLen, x.desc.outLen, x.desc.param, leNat (slice 0 4 x.desc.paramExt),
        leNat (slice 4 4 x.desc.paramExt), leNat (slice 8 4 x.desc.paramExt), leNat (slice 12 4 x.desc.paramExt)].getD (immBits w 0 4) 0)) s t := by
  rw [← x.desc.field_table hsel]
  exact State.issue_retires h ((if_neg (by omega)).trans (if_neg (by omega))) rfl

theorem execLddesc_paramExt (h : s.readyCtx (ctxKey c) 0x0 0x2 w = some x) (hsel : immBits w 0 4 = 7) :
    ∃ t, execLddesc c w s = .next t ∧ retires (ctxKey c) 1 (x.setV w.d x.desc.paramExt) s t :=
  State.issue_retires h ((if_neg (by omega)).trans (if_pos hsel)) rfl

theorem execLddesc_reserved (h : s.readyCtx (ctxKey c) 0x0 0x2 w = some x) (hw : 7 < immBits w 0 4 ∨ (immBits w 0 4 ≠ 7 ∧ 7 < w.d.val)) :
    execLddesc c w s = .refused .reservedEncoding :=
  State.issue_refuses h (if_pos hw)

theorem execLdi_retires (h : s.readyCtx (ctxKey c) 0x0 0x4 w = some x) (hd : w.d.val ≤ 7) :
    ∃ t, execLdi c w s = .next t ∧ retires (ctxKey c) 1 { x with sreg := x.sreg.set w.d w.imm } s t := by
  rw [← x.setS_word, execLdi, if_neg (Nat.not_lt.mpr hd)]
  exact State.load_retires h rfl

theorem execSadd_retires (h : s.readyCtx (ctxKey c) 0x0 0x5 w = some x) (hd : w.d.val ≤ 7) (ha : w.a.val ≤ 7) :
    ∃ t, execSadd c w s = .next t ∧ retires (ctxKey c) 1 { x with sreg := x.sreg.set w.d (x.sreg.getD w.a 0 + w.imm) } s t := by
  rw [← x.setS_sum, execSadd, if_neg (by omega)]
  exact State.load_retires h rfl

theorem execMovs_retires (h : s.readyCtx (ctxKey c) 0x0 0xB w = some x) (ha : w.a.val ≤ 7) :
    ∃ t, execMovs c w s = .next t ∧
      retires (ctxKey c) 1 (x.setV w.d (overlay (immBits w 0 4) (scalarBytes (modBit w 5) (x.sr w.a)) (x.vr w.d))) s t := by
  rw [execMovs, if_neg (Nat.not_lt.mpr ha)]
  exact State.load_retires h rfl

/-- SETIP moves the pointer forward, or backwards while it stands below byte 4,096 (R69). -/
theorem execSetip_held (h : s.readyCtx (ctxKey c) 0x0 0xA w = some x) (held : x.ip ≤ x.offset w (immBits w 0 24) w.a ∨ x.ip < 4096) :
    ∃ t, execSetip c w s = .next t ∧ retires (ctxKey c) 1 { x with ip := x.offset w (immBits w 0 24) w.a } s t :=
  State.issue_retires h (if_neg (by omega)) rfl

/-- SETIP to an offset no longer held ends the command (R69). -/
theorem execSetip_lost (h : s.readyCtx (ctxKey c) 0x0 0xA w = some x) (back : x.offset w (immBits w 0 24) w.a < x.ip) (past : 4096 ≤ x.ip) :
    execSetip c w s = .next (whenSettled s (ctxKey c) (s.failAt (ctxKey c) 1 stAborted 4)) :=
  State.issue_fails h (if_pos ⟨back, past⟩)

end

/-- Settles O17: each LOAD by its rule, SETIP by where the pointer stands, the waiting loads, the reserved words. -/
theorem loadInstructionsWriteOneRegister : Obligations.LoadInstructionsWriteOneRegister := by
  refine ⟨fun c w x s => ?loads, fun c w x s h => ⟨execSetip_held h, execSetip_lost h⟩,
    fun c w x s hin => ⟨fun h => execLdin_waits h hin, fun h hd => execLdsc_waits h hd hin⟩, fun c w x s => ?reserved⟩
  case loads =>
    have plain : ∀ {op f}, (f x).cmd = x.cmd → s.readyCtx (ctxKey c) 0x0 op w = some x →
        ∃ t, s.load c op w f = .next t ∧ retires (ctxKey c) 1 (f x) s t := fun hf h => State.load_retires h hf
    exact ⟨execLdin_received, execLdsc_received, execLddesc_field, execLddesc_paramExt, plain rfl, execLdi_retires, execSadd_retires,
      plain rfl, plain rfl, plain rfl, plain rfl, execMovs_retires⟩
  case reserved => exact ⟨execLdsc_reserved, execLddesc_reserved, fun hd => if_pos hd, fun hw => if_pos hw, fun ha => if_pos ha⟩

end Sys2Proof.Machine
end

section
/-! SUPPORT. CMP and BR (R76, Table 3.6): the compares of S registers, LOOP's count, and where a branch on a flag goes. -/
namespace Sys2Proof.Machine

/-- LOOP's decrement (R76): the word before, and 0 only from 1. -/
theorem Context.loop_word (x : Context) (i : Nat) :
    BitVec.ofNat 32 ((x.sr i + 2 ^ 32 - 1) % 2 ^ 32) = x.sreg.getD i 0 - 1 ∧ ((x.sr i + 2 ^ 32 - 1) % 2 ^ 32 ≠ 0 ↔ x.sr i ≠ 1) := by
  have hlt : x.sr i < 2 ^ 32 := (x.sreg.getD i 0).isLt
  constructor
  · apply BitVec.eq_of_toNat_eq
    have one : (1 : Word).toNat = 1 := rfl
    rw [BitVec.toNat_sub, BitVec.toNat_ofNat, one]
    change (x.sr i + 2 ^ 32 - 1) % 2 ^ 32 % 2 ^ 32 = (2 ^ 32 - 1 + x.sr i) % 2 ^ 32
    omega
  · omega

section
variable {s : State} {c : Ctx} {w : Insn} {x : Context}

theorem execCmpSreg_retires (h : s.readyCtx (ctxKey c) 0x7 0x1 w = some x) (ha : w.a.val ≤ 7) (hb : w.b.val ≤ 7) :
    ∃ t, execCmpSreg c w s = .next t ∧ retires (ctxKey c) 1 (x.cmpNat (x.sr w.a) (x.sr w.b)) s t := by
  rw [execCmpSreg, if_neg (by omega)]
  exact State.issue_retires h rfl rfl

theorem execCmpImm_retires (h : s.readyCtx (ctxKey c) 0x7 0x2 w = some x) (ha : w.a.val ≤ 7) :
    ∃ t, execCmpImm c w s = .next t ∧ retires (ctxKey c) 1 (x.cmpNat (x.sr w.a) w.imm.toNat) s t := by
  rw [execCmpImm, if_neg (Nat.not_lt.mpr ha)]
  exact State.issue_retires h rfl rfl

/-- LOOP: the decremented register, and PC by whether it came to 0. -/
theorem execLoop_branches (h : s.readyCtx (ctxKey c) 0x8 0x7 w = some x) (ha : w.a.val ≤ 7) :
    ∃ t, execLoop c w s = .next t ∧ branches (ctxKey c) (if x.sr w.a = 1 then (x.pc + 1) % 256 else immBits w 0 8)
      { x with sreg := x.sreg.set w.a (x.sreg.getD w.a 0 - 1) } s t := by
  obtain ⟨word, zero⟩ := x.loop_word w.a
  rw [execLoop, if_neg (Nat.not_lt.mpr ha), ← word]
  exact State.issue_branches h (by simp only [zero, Context.setS, ite_not]) rfl

/-- A branch on a flag goes where the flag says. -/
theorem State.branch_on {op pc : Nat} (h : s.readyCtx (ctxKey c) 0x8 op w = some x)
    (hpc : (if x.taken op then immBits w 0 8 else (x.pc + 1) % 256) = pc) :
    ∃ t, s.branch c op w = .next t ∧ branches (ctxKey c) pc x s t :=
  hpc ▸ s.branch_branches h

end

theorem immBits_low8 (w : Insn) : immBits w 0 8 = w.imm.toNat % 256 := by simp [immBits, bitsOf]

/-- Settles O19: CMP by its operands, each branch by its flag, LOOP by its count, the reserved words. -/
theorem comparesSetFlagsAndBranchesTestThem : Obligations.ComparesSetFlagsAndBranchesTestThem := by
  intro c w x s
  simp only [← immBits_low8]
  refine ⟨?cmpBytes, execCmpSreg_retires, execCmpImm_retires, fun h => s.branch_branches h, fun h => s.branch_branches h, ?brNz,
    fun h => s.branch_branches h, ?brNlt, fun h => s.branch_branches h, ?brNfe, execLoop_branches, ?reservedA, ?reservedAB⟩
  case cmpBytes => exact fun h => State.issue_retires h rfl rfl
  case brNz => exact fun h => State.branch_on h (by cases hz : x.z <;> simp [Context.taken, hz])
  case brNlt => exact fun h => State.branch_on h (by cases hl : x.lt <;> simp [Context.taken, hl])
  case brNfe => exact fun h => State.branch_on h (by cases hf : x.fe <;> simp [Context.taken, hf])
  case reservedA => exact fun ha => ⟨if_pos ha, if_pos ha⟩
  case reservedAB => exact fun hw => if_pos hw

end Sys2Proof.Machine
end

section
/-! SUPPORT. The sequencers' watchers: the boundary endings of R103, writes that cross into a sequencer's island, the pins, and the room a program fill
makes in the cache (R80, R88, R89, R102, R104). -/
namespace Sys2Proof.Machine

/-! ## Budget and fence holders (R80, R102, R103) -/

section
variable {s : State} {c : Ctx}

/-- A reached budget ends the command with what is due at its boundary (R103). -/
theorem execSeqBudgetExceeded_reached {st det : Nat} (hc : (s.ctx (ctxKey c)).cmd ≠ none) (hb : s.budget ≤ (s.ctx (ctxKey c)).retired)
    (he : s.dueEnding (s.ctx (ctxKey c)) = some (st, det)) : execSeqBudgetExceeded c s = .next (s.endCommand (ctxKey c) st det) := by
  have first : s.firstEnding (ctxKey c) stAborted 4 = (st, det) := by
    rw [State.firstEnding, if_neg (by decide), he]; rfl
  exact (if_pos ⟨Option.isSome_iff_ne_none.mpr hc, hb⟩).trans (by rw [State.endAt, first])

theorem execSeqBudgetExceeded_within (hb : (s.ctx (ctxKey c)).retired < s.budget) : execSeqBudgetExceeded c s = .next s :=
  if_neg fun h => absurd h.2 (Nat.not_le.mpr hb)

theorem State.dueEnding_orphan {x : Context} {f : Nat} (h : s.orphanField x = some f) : s.dueEnding x = some (stKeyOrphaned, f) := by
  simp only [State.dueEnding, h]

theorem State.dueEnding_budget {x : Context} (h : s.orphanField x = none) (hb : s.budget ≤ x.retired) : s.dueEnding x = some (stAborted, 4) := by
  simp only [State.dueEnding, h, if_pos hb]

theorem execFenceHolderTimeout_holder {f : Nat} (hc : (s.ctx (ctxKey c)).cmd ≠ none) (h : s.orphanField (s.ctx (ctxKey c)) = some f) :
    execFenceHolderTimeout c s = .next (s.endCommand (ctxKey c) stKeyOrphaned f) := by
  simp only [execFenceHolderTimeout, h]
  exact if_pos (Option.isSome_iff_ne_none.mpr hc)

end

/-! ## Writes to a sequencer's page (R19, R104) -/

variable (s : State)

/-- A cipher cluster's sequencer lies in the cluster's island (Table 1.4). -/
theorem islandOf_pgSEQ (n : Fin 16) : islandOf (pgSEQ n) = n.val := by
  unfold islandOf pgSEQ
  split_ifs <;> omega

/-- A write to a page whose island does not relock acts at once. -/
theorem State.crossing_reachable {p : Nat} (i : Instr) (act : State → State) (h : reachable s p) :
    s.crossing p i act = .next (act (s.cross (islandOf p))) := if_neg (by simp [h.2])

theorem intRaw_key_ne_freeze (p : Nat) : (R.BLK_INT_RAW p).key ≠ (R.BLK_FREEZE p).key := by
  simp only [Field.key, R.BLK_INT_RAW, R.BLK_FREEZE]; omega

/-- A write of FREEZE leaves the page's INT_RAW as it was. -/
theorem State.set_freeze_raised (p v : Nat) : raised p [] s (s.set (R.BLK_FREEZE p) v) := fun j _ => by
  simp [State.bit, State.get_set_ne _ _ _ _ (intRaw_key_ne_freeze p).symm]

theorem raised_trans {s t u : State} {p : Nat} {as bs : List Nat} (h : raised p as s t) (k : raised p bs t u) : raised p (as ++ bs) s u :=
  fun j hj => by
    have elem : (as ++ bs).contains j = (as.contains j || bs.contains j) := by simp
    rw [k j hj, h j hj, Bool.or_assoc, elem]

/-- The watch of a drained cluster touches INT_RAW of its sequencer's page at most. -/
theorem State.settleSeq_onlyFields (n : Nat) : onlyFields [R.BLK_INT_RAW (pgSEQ n)] s (s.settleSeq n) := by
  unfold State.settleSeq
  split
  · exact s.raise_onlyFields _ _
  · exact onlyFields_refl _ _

/-- A cluster under FREEZE reports that it is drained exactly where no context of it is in use. -/
theorem State.settleSeq_raised (n : Nat) (h : s.get (R.BLK_FREEZE (pgSEQ n)) = 1) :
    raised (pgSEQ n) (if s.busyIn n = [] then [3] else []) s (s.settleSeq n) := by
  by_cases hb : s.busyIn n = []
  · rw [if_pos hb, State.settleSeq, if_pos ⟨h, List.isEmpty_iff.mpr hb⟩]
    exact s.raise_raised _ _
  · rw [if_neg hb, State.settleSeq, if_neg fun both => hb (List.isEmpty_iff.mp both.2)]
    exact fun j _ => by simp

/-- The state a write of FREEZE leaves: the field, and with FREEZE set the watch of the drained cluster. -/
def State.frozenSeq (s : State) (n : Nat) (on : Bool) : State :=
  let t := s.set (R.BLK_FREEZE (pgSEQ n)) (b2n on)
  if on then t.settleSeq n else t

theorem State.frozenSeq_spec (n : Nat) (on : Bool) :
    (s.frozenSeq n on).get (R.BLK_FREEZE (pgSEQ n)) = b2n on ∧
      onlyFields [R.BLK_FREEZE (pgSEQ n), R.BLK_INT_RAW (pgSEQ n)] s (s.frozenSeq n on) ∧
      raised (pgSEQ n) (if on = true ∧ s.busyIn n = [] then [3] else []) s (s.frozenSeq n on) := by
  have written := onlyFields_set s (R.BLK_FREEZE (pgSEQ n)) (b2n on)
  have untouched := s.set_freeze_raised (pgSEQ n) (b2n on)
  have field : (s.set (R.BLK_FREEZE (pgSEQ n)) (b2n on)).get (R.BLK_FREEZE (pgSEQ n)) = b2n on := by
    cases on <;> simp [b2n, R.BLK_FREEZE]
  cases on with
  | false => exact ⟨field, onlyFields_mono written (by simp), by rw [if_neg (by simp)]; exact untouched⟩
  | true =>
    have settled := State.settleSeq_onlyFields (s.set (R.BLK_FREEZE (pgSEQ n)) (b2n true)) n
    refine ⟨?_, onlyFields_trans written settled, ?_⟩
    · exact (settled.1 _ (by simpa using intRaw_key_ne_freeze _)).trans field
    · simp only [true_and]
      exact raised_trans untouched (State.settleSeq_raised _ n field)

/-- A write of FREEZE to a sequencer's page that is reached. -/
theorem execSeqFreeze_reachable (n : Fin 16) (on : Bool) (h : reachable s (pgSEQ n)) :
    execSeqFreeze n on s = .next ((s.cross n).frozenSeq n on) := by
  rw [execSeqFreeze, if_neg (by simp [h.1]), s.crossing_reachable _ _ h, islandOf_pgSEQ]
  rfl

/-! ## Pins (R89) -/

/-- The honoured pins depend on the pin registers and the program table alone. -/
theorem State.pins_congr {s t : State} (hsq : t.sq = s.sq) (valid : ∀ j < 8, t.get (R.SEQ0_PIN_VALID j) = s.get (R.SEQ0_PIN_VALID j))
    (slot : ∀ j < 8, t.get (R.SEQ0_PIN_SLOT j) = s.get (R.SEQ0_PIN_SLOT j)) : t.validPins = s.validPins ∧ t.honoured = s.honoured := by
  have pins : t.validPins = s.validPins :=
    List.filterMap_congr fun j hj => by rw [valid j (List.mem_range.mp hj), slot j (List.mem_range.mp hj)]
  have lines : t.slotLines = s.slotLines := funext fun n => by rw [State.slotLines, State.imageOf, hsq]; rfl
  exact ⟨pins, by rw [State.honoured, pins, lines]; rfl⟩

theorem pinValid_key_ne_pinSlot (i j : Nat) : (R.SEQ0_PIN_VALID j).key ≠ (R.SEQ0_PIN_SLOT i).key := by
  simp only [Field.key, R.SEQ0_PIN_VALID, R.SEQ0_PIN_SLOT]; omega

/-- PIN_OVER and INT_RAW of SEQ0 lie apart from the pin registers. -/
theorem pin_keys_apart {j : Nat} (hj : j < 8) : ∀ g ∈ [R.SEQ0_PIN_OVER, R.BLK_INT_RAW (pgSEQ 0)],
    g.key ≠ (R.SEQ0_PIN_VALID j).key ∧ g.key ≠ (R.SEQ0_PIN_SLOT j).key := by
  simp only [List.forall_mem_cons, Field.key, R.SEQ0_PIN_VALID, R.SEQ0_PIN_SLOT, R.SEQ0_PIN_OVER, R.BLK_INT_RAW, pgSEQ]
  exact ⟨by omega, by omega, by simp⟩

/-- What the watch of the pins writes: PIN_OVER, and INT_RAW where it is newly set. -/
theorem State.settlePins_onlyFields : onlyFields [R.SEQ0_PIN_OVER, R.BLK_INT_RAW (pgSEQ 0)] s s.settlePins := by
  unfold State.settlePins
  dsimp only
  split
  · exact onlyFields_trans (onlyFields_set _ _ _) (State.raise_onlyFields _ _ _)
  · exact onlyFields_mono (onlyFields_set _ _ _) (by simp)

/-- PIN_OVER stands while a valid pin is ignored. -/
theorem State.settlePins_over : s.settlePins.get R.SEQ0_PIN_OVER = if s.honoured.length < s.validPins.length then 1 else 0 := by
  have field : ∀ b, (s.set R.SEQ0_PIN_OVER (b2n b)).get R.SEQ0_PIN_OVER = b2n b := fun b => by cases b <;> simp [b2n, R.SEQ0_PIN_OVER]
  have ignored : s.settlePins.get R.SEQ0_PIN_OVER = b2n (decide (s.honoured.length < s.validPins.length)) := by
    unfold State.settlePins
    dsimp only
    split
    · rw [State.raise_get_ne _ _ _ _ (by decide), field]
    · exact field _
  rw [ignored, b2n]
  simp only [decide_eq_true_eq]

theorem State.settlePins_pin {j : Nat} (hj : j < 8) : s.settlePins.get (R.SEQ0_PIN_VALID j) = s.get (R.SEQ0_PIN_VALID j) ∧
    s.settlePins.get (R.SEQ0_PIN_SLOT j) = s.get (R.SEQ0_PIN_SLOT j) :=
  ⟨s.settlePins_onlyFields.1 _ fun g hg => (pin_keys_apart hj g hg).1, s.settlePins_onlyFields.1 _ fun g hg => (pin_keys_apart hj g hg).2⟩

theorem State.settlePins_pins : s.settlePins.validPins = s.validPins ∧ s.settlePins.honoured = s.honoured :=
  State.pins_congr (by rw [s.settlePins_onlyFields.2.2]) (fun _ hj => (s.settlePins_pin hj).1) fun _ hj => (s.settlePins_pin hj).2

/-- The state a write of SEQ_PINj leaves: its slot and validity, and PIN_OVER brought up to date. -/
def State.pinWritten (s : State) (j : Nat) (value : Word) : State :=
  ((s.set (R.SEQ0_PIN_SLOT j) (bitsOf value.toNat 0 12)).set (R.SEQ0_PIN_VALID j) (bitsOf value.toNat 31 1)).settlePins

theorem State.pinWritten_spec (j : Fin 8) (value : Word) :
    (s.pinWritten j value).get (R.SEQ0_PIN_SLOT j) = bitsOf value.toNat 0 12 ∧ (s.pinWritten j value).get (R.SEQ0_PIN_VALID j) = bitsOf value.toNat 31 1 ∧
      (s.pinWritten j value).get R.SEQ0_PIN_OVER = (if (s.pinWritten j value).honoured.length < (s.pinWritten j value).validPins.length then 1 else 0) ∧
      onlyFields [R.SEQ0_PIN_SLOT j, R.SEQ0_PIN_VALID j, R.SEQ0_PIN_OVER, R.BLK_INT_RAW (pgSEQ 0)] s (s.pinWritten j value) := by
  unfold State.pinWritten
  generalize hu : (s.set (R.SEQ0_PIN_SLOT j) _).set (R.SEQ0_PIN_VALID j) _ = u
  obtain ⟨valid, slot⟩ := u.settlePins_pin j.isLt
  obtain ⟨pins, honoured⟩ := u.settlePins_pins
  refine ⟨?_, ?_, by rw [u.settlePins_over, pins, honoured], ?_⟩
  · rw [slot, ← hu, State.get_set_ne _ _ _ _ (pinValid_key_ne_pinSlot _ _), State.get_set_same]
    exact Nat.mod_mod _ _
  · rw [valid, ← hu, State.get_set_same]
    exact Nat.mod_mod _ _
  · exact onlyFields_trans (fs := [R.SEQ0_PIN_SLOT j, R.SEQ0_PIN_VALID j])
      (hu ▸ onlyFields_trans (onlyFields_set _ _ _) (onlyFields_set _ _ _)) u.settlePins_onlyFields

theorem execSeqPinWrite_reachable (j : Fin 8) (value : Word) (h : reachable s (pgSEQ 0)) :
    execSeqPinWrite j value s = .next ((s.cross 0).pinWritten j value) := by
  rw [execSeqPinWrite, if_neg (by simp [h.1]), s.crossing_reachable _ _ h]
  rfl

/-! ## The program cache (R84, R88) -/

/-- What an eviction keeps: everything kept before, everything that must stay, and room for the lines needed. -/
theorem evictFor_spec (stays : Resident → Bool) (need : Nat) (rs : List Resident) : ∀ {kept out}, evictFor stays need kept rs = some out →
    (∀ q ∈ kept, q ∈ out) ∧ (∀ q ∈ rs, stays q = true → q ∈ out) ∧ (out.map (·.lines)).sum + need ≤ 256 := by
  induction rs with
  | nil =>
    intro kept out h
    rw [evictFor] at h
    split at h
    next room => cases h; exact ⟨fun _ => id, by simp, room⟩
    next => cases h
  | cons r rs ih =>
    intro kept out h
    rw [evictFor] at h
    split at h
    next room => cases h; exact ⟨fun q hq => by simp [hq], fun q hq _ => by simp [List.mem_cons.mp hq], room⟩
    next =>
      split at h
      next =>
        obtain ⟨old, later, room⟩ := ih h
        refine ⟨fun q hq => old q (by simp [hq]), fun q hq hs => ?_, room⟩
        rcases List.mem_cons.mp hq with rfl | hq
        · exact old q (by simp)
        · exact later q hq hs
      next leaves =>
        obtain ⟨old, later, room⟩ := ih h
        refine ⟨old, fun q hq hs => ?_, room⟩
        rcases List.mem_cons.mp hq with rfl | hq
        · exact absurd hs leaves
        · exact later q hq hs

theorem State.residents_setResidents_ne {n m : Nat} (rs : List Resident) (h : n ≠ m) : (s.setResidents n rs).residents m = s.residents m := by
  simp [State.residents, State.setResidents, Sparse.get_set_ne _ _ _ _ h]

/-- The program a context's fill makes resident. -/
def State.arriving (s : State) (c : Ctx) : Resident :=
  let x := s.ctx (ctxKey c)
  ⟨runSlot x.desc.program, x.imageCommits, imageLines x.image, s.lastUse c.cc (runSlot x.desc.program) x.imageCommits⟩

/-- The residents that may not give way: those that run and those of honoured pins. -/
def State.stays (s : State) (n : Nat) (q : Resident) : Bool := s.runsResident n q || (s.honoured.map runSlot).contains q.slot

/-- Is a program resident in a cluster already, with the same commits? -/
def State.isResident (s : State) (n : Nat) (r : Resident) : Bool := (s.residents n).any fun q => q.slot == r.slot && q.commits == r.commits

/-- Does a context wait for a fill? -/
def State.filling (s : State) (c : Ctx) : Prop := (s.ctx (ctxKey c)).cmd ≠ none ∧ (s.ctx (ctxKey c)).wait = .cacheFill

/-- Do the lines of the image a context waits for fail to read? -/
def State.fillFails (s : State) (c : Ctx) : Bool :=
  s.readFails (programBase + 4096 * runSlot (s.ctx (ctxKey c)).desc.program) (imageBytes (s.ctx (ctxKey c)).image)

/-- The state a fill leaves that found room: its program among those kept, in the order of the last dispatches, and its context going on. -/
def State.filledWith (s : State) (c : Ctx) (kept : List Resident) : State :=
  let r := s.arriving c
  (s.setResidents c.cc (kept.filter (·.used < r.used) ++ r :: kept.filter (r.used ≤ ·.used))).setCtx (ctxKey c)
    { s.ctx (ctxKey c) with wait := .none }

section
variable {s} {c : Ctx}

theorem State.filling_guard (h : s.filling c) : ¬ ((s.ctx (ctxKey c)).cmd.isNone = true ∨ (s.ctx (ctxKey c)).wait ≠ .cacheFill) := by
  simpa [State.filling] using h

/-- A fill whose line fails ends its command. -/
theorem execProgramCacheFill_fails {macOk : Bool} (h : s.filling c) (bad : macOk = false ∨ s.fillFails c = true) :
    execProgramCacheFill c macOk s = .next ((s.raise (pgSEQ c.cc) 1).endCommand (ctxKey c) stAborted 4) :=
  (if_neg (State.filling_guard h)).trans (if_pos (bad.imp (by simp [·]) id))

/-- A fill whose lines read well goes by whether its program is resident, and by the room that can be made for it. -/
theorem execProgramCacheFill_reads (h : s.filling c) (good : s.fillFails c = false) :
    execProgramCacheFill c true s =
      if s.isResident c.cc (s.arriving c) then .next (s.setCtx (ctxKey c) { s.ctx (ctxKey c) with wait := .none })
      else (evictFor (s.stays c.cc) (s.arriving c).lines [] (s.residents c.cc)).elim (.next s) fun kept => .next (s.filledWith c kept) := by
  have reads : ¬ ((!true) = true ∨ s.fillFails c = true) := by simp [good]
  refine (if_neg (State.filling_guard h)).trans ((if_neg reads).trans (if_congr Iff.rfl rfl ?_))
  change (match evictFor (s.stays c.cc) (s.arriving c).lines [] (s.residents c.cc) with
    | none => Host.Outcome.next s
    | some kept => Host.Outcome.next (s.filledWith c kept)) = _
  cases evictFor (s.stays c.cc) (s.arriving c).lines [] (s.residents c.cc) <;> rfl

/-- A fill of a program that is resident by then only lets its context go on. -/
theorem execProgramCacheFill_resident (h : s.filling c) (good : s.fillFails c = false) (res : s.isResident c.cc (s.arriving c) = true) :
    execProgramCacheFill c true s = .next (s.setCtx (ctxKey c) { s.ctx (ctxKey c) with wait := .none }) := by
  rw [execProgramCacheFill_reads h good, if_pos res]

/-- A fill no room can be made for waits. -/
theorem execProgramCacheFill_full (h : s.filling c) (good : s.fillFails c = false) (res : s.isResident c.cc (s.arriving c) = false)
    (full : evictFor (s.stays c.cc) (s.arriving c).lines [] (s.residents c.cc) = none) : execProgramCacheFill c true s = .next s := by
  rw [execProgramCacheFill_reads h good, if_neg (by simp [res]), full]; rfl

/-- A fill with room: its program takes its place in the order of the last dispatches. -/
theorem execProgramCacheFill_room {kept : List Resident} (h : s.filling c) (good : s.fillFails c = false)
    (res : s.isResident c.cc (s.arriving c) = false)
    (room : evictFor (s.stays c.cc) (s.arriving c).lines [] (s.residents c.cc) = some kept) :
    execProgramCacheFill c true s = .next (s.filledWith c kept) := by
  rw [execProgramCacheFill_reads h good, if_neg (by simp [res]), room]; rfl

/-- What a fill with room changes: its cluster's residents, and its context, which goes on. -/
theorem State.filledWith_spec (s : State) (c : Ctx) (kept : List Resident) :
    (s.filledWith c kept).residents c.cc =
        kept.filter (·.used < (s.arriving c).used) ++ s.arriving c :: kept.filter ((s.arriving c).used ≤ ·.used) ∧
      (s.filledWith c kept).ctx (ctxKey c) = { s.ctx (ctxKey c) with wait := .none } ∧
      (∀ j, j ≠ ctxKey c → (s.filledWith c kept).ctx j = s.ctx j) ∧ (∀ n, n ≠ c.cc.val → (s.filledWith c kept).residents n = s.residents n) ∧
      s.filledWith c kept = { s with sq := { s.sq with ctxs := (s.filledWith c kept).sq.ctxs, cache := (s.filledWith c kept).sq.cache } } := by
  refine ⟨State.residents_setResidents_same _ _ _, State.ctx_setCtx_same _ _ _, fun j hj => ?_, fun n hn => ?_, rfl⟩
  · exact State.ctx_setCtx_ne _ _ _ _ (Ne.symm hj)
  · exact State.residents_setResidents_ne _ _ (Ne.symm hn)

end

/-- Settles O32, watcher by watcher. -/
theorem sequencerWatchersAct : Obligations.SequencerWatchersAct := by
  refine ⟨?budget, ?freeze, ?pin, ?fill, ?failedFill, ?holder⟩
  case budget =>
    exact fun c s hc => ⟨fun hb hf => execSeqBudgetExceeded_reached hc hb (State.dueEnding_budget hf hb),
      fun f hb hf => execSeqBudgetExceeded_reached hc hb (State.dueEnding_orphan hf), execSeqBudgetExceeded_within⟩
  case freeze =>
    refine fun n on s => ⟨fun h => ?_, fun h => if_pos (by simp [h])⟩
    exact ⟨_, execSeqFreeze_reachable s n on h, State.frozenSeq_spec (s.cross n) n on⟩
  case pin =>
    refine fun j value s => ⟨fun h => ?_, fun h => if_pos (by simp [h])⟩
    exact ⟨_, execSeqPinWrite_reachable s j value h, State.pinWritten_spec (s.cross 0) j value⟩
  case fill =>
    intro c s k slot r rs stays hc hw good
    refine ⟨execProgramCacheFill_resident ⟨hc, hw⟩ good, fun res => ⟨execProgramCacheFill_full ⟨hc, hw⟩ good res, fun kept room => ?_⟩⟩
    obtain ⟨-, stay, lines⟩ := evictFor_spec stays r.lines rs room
    exact ⟨stay, lines, _, execProgramCacheFill_room ⟨hc, hw⟩ good res room, State.filledWith_spec s c kept⟩
  case failedFill => exact fun c macOk s hc hw bad => execProgramCacheFill_fails ⟨hc, hw⟩ bad
  case holder =>
    exact fun c y s hc hy => execFenceHolderTimeout_holder hc (by rw [State.orphanField, hy]; rfl)

end Sys2Proof.Machine
end

section
/-! SUPPORT. What the bookkeeping around a tamper response leaves alone: mode, sentinel, start-up state, fuses, clock, key lines, HBM keys and roots stand, and no
context takes up a command (R290-R299). -/
namespace Sys2Proof.Machine

/-! ## The roots of the partitions -/

/-- The roots a partition holds (R189). -/
def rootsIn (ps : Sparse Part) (p : Nat) : Root × Root × Root :=
  ((Sparse.get {} ps p).proot, (Sparse.get {} ps p).droot, (Sparse.get {} ps p).mroot)

section
variable (s : State)

/-- A change of a partition that leaves its roots leaves all roots. -/
theorem State.updPart_roots (p : Nat) {f : Part → Part} (h : ∀ x, ((f x).proot, (f x).droot, (f x).mroot) = (x.proot, x.droot, x.mroot)) :
    rootsIn (s.updPart p f).parts = rootsIn s.parts := by
  funext q
  change _ = ((s.part q).proot, (s.part q).droot, (s.part q).mroot)
  by_cases hq : p = q
  · subst hq
    rw [← h, ← s.part_updPart_same p f]; rfl
  · rw [← s.part_updPart_ne p q f hq]; rfl

@[simp] theorem State.msixSend_parts (f : Func) (v : Nat) : (s.msixSend f v).parts = s.parts := by rw [(s.msixSend_onlyFields f v).2.2]
@[simp] theorem State.raise_parts (p i : Nat) : (s.raise p i).parts = s.parts := by rw [(s.raise_onlyFields p i).2.2]
@[simp] theorem State.severity_parts (n : Nat) : (s.severity n).parts = s.parts := by rw [(s.severity_spec n).2]
@[simp] theorem State.settleQp_parts (p q : Nat) : (s.settleQp p q).parts = s.parts := by rw [(s.settleQp_spec p q).2]

@[simp] theorem State.sample_parts (kind index bin : Nat) (v : Int) (n : Nat) : (s.sample kind index bin v n).parts = s.parts := by
  unfold State.sample
  split
  · rfl
  · dsimp only
    split <;> simp

@[simp] theorem State.sampleLatency_parts (p ns : Nat) : (s.sampleLatency p ns).parts = s.parts := by
  unfold State.sampleLatency
  dsimp only
  split <;> simp

@[simp] theorem State.reportWrite_parts (f : Option Func) : (s.reportWrite f).parts = s.parts := by
  unfold State.reportWrite State.reportAer
  split <;> rfl

@[simp] theorem State.writeOutcome_parts (ok : Option Bool) : (s.writeOutcome ok).2.parts = s.parts := by
  unfold State.writeOutcome
  split <;> rfl

@[simp] theorem State.coalesce_parts (p q : Nat) : (s.coalesce p q).parts = s.parts := by
  unfold State.coalesce
  dsimp only
  split
  · split <;> simp
  · rfl

@[simp] theorem State.discardCompletion_parts : s.discardCompletion.parts = s.parts := by simp [State.discardCompletion]

@[simp] theorem State.sendFlit_parts (k type vc : Nat) (last : Bool) (bs : List Byte) : (s.sendFlit k type vc last bs).parts = s.parts := by
  unfold State.sendFlit
  dsimp only
  split <;> rfl

@[simp] theorem State.sendOn_parts (k : Nat) (o : Output) : (s.sendOn k o).parts = s.parts := by
  unfold State.sendOn
  dsimp only
  split
  · exact foldl_keeps (fun t : State => t.parts = s.parts) _ (fun t _ h => (t.sendFlit_parts _ _ _ _ _).trans h) _ _ rfl
  · rfl

@[simp] theorem State.partEvent_roots (p i : Nat) : rootsIn (s.partEvent p i).parts = rootsIn s.parts := by
  have flagged := s.updPart_roots p (f := fun x => { x with pevt := putBit x.pevt i true }) fun _ => rfl
  rw [(s.partEvent_spec p i).2.2]
  exact flagged

@[simp] theorem State.haltQp_roots (p q err : Nat) : rootsIn (s.haltQp p q err).parts = rootsIn s.parts := by
  unfold State.haltQp
  dsimp only
  split <;> simp

@[simp] theorem State.failCompletion_roots (c : Cmd) : rootsIn (s.failCompletion c).parts = rootsIn s.parts := by
  unfold State.failCompletion
  dsimp only
  split <;> simp

/-- A completion write touches no roots. -/
@[simp] theorem State.writeCompletion_roots (ok : Option Bool) (c : Cmd) (e : Ending) : rootsIn (s.writeCompletion ok c e).parts = rootsIn s.parts := by
  unfold State.writeCompletion
  have taken := s.writeOutcome_parts ok
  generalize s.writeOutcome ok = w at taken
  obtain ⟨b, v⟩ := w
  rw [State.settleQp_parts, ← taken]
  dsimp only
  split
  · simp
  · simp
  · exact v.failCompletion_roots c
  · split
    · split <;> simp [State.crossPort]
    · split <;> simp [State.crossPort]

@[simp] theorem State.settleAbort_roots (p : Nat) : rootsIn (s.settleAbort p).parts = rootsIn s.parts := by
  unfold State.settleAbort
  split
  · exact s.updPart_roots p fun _ => rfl
  · rfl

@[simp] theorem State.abortDone_roots (c : Cmd) (e : Ending) : rootsIn (s.abortDone c e).parts = rootsIn s.parts := by
  unfold State.abortDone
  dsimp only
  rw [State.settleAbort_roots]
  split
  · exact s.updPart_roots _ fun _ => rfl
  · rfl

@[simp] theorem State.complete_roots (ok : Option Bool) (c : Cmd) (e : Ending) : rootsIn (s.complete ok c e).parts = rootsIn s.parts := by
  have written : ∀ u : State, rootsIn u.parts = rootsIn s.parts → rootsIn (u.writeCompletion ok c e).parts = rootsIn s.parts := fun u h => by
    rw [State.writeCompletion_roots, h]
  have noted : rootsIn (if e.status = stFaultDetected ∨ e.status = stRngFailed then s.severity 3 else s).parts = rootsIn s.parts := by
    split <;> simp
  unfold State.complete
  dsimp only
  rw [State.abortDone_roots]
  generalize (if e.status = stFaultDetected ∨ e.status = stRngFailed then s.severity 3 else s) = u at noted
  split
  · exact written u noted
  · refine (State.updPart_roots _ _ ?_).trans (written u noted)
    exact fun _ => rfl

@[simp] theorem State.answer_roots (ok : Option Bool) (c : Cmd) (e : Ending) : rootsIn (s.answer ok c e).parts = rootsIn s.parts := by
  unfold State.answer
  split <;> simp

@[simp] theorem State.finish_roots (ok : Option Bool) (c : Cmd) (e : Ending) (d : Option Nat) :
    rootsIn (s.finish ok c e d).parts = rootsIn s.parts := by
  unfold State.finish
  split <;> simp

end

/-! ## The frame -/

/-- What stands, of `Steady`, besides the commands the contexts serve. -/
def State.standing (s : State) := (s.mode, s.ob, s.bt, s.lc, s.quartz, s.ge.lines, s.hb.keys, rootsIn s.parts)

/-- `t` keeps what a tamper response decides of `s`, and a context that serves no command in `s` serves none in `t`. -/
structure Steady (s t : State) : Prop where
  stands : t.standing = s.standing
  idle : ∀ k, (s.ctx k).cmd = none → (t.ctx k).cmd = none

/-- What `standing` holds, field by field. -/
theorem State.standing_iff (s t : State) : t.standing = s.standing ↔
    t.mode = s.mode ∧ t.ob = s.ob ∧ t.bt = s.bt ∧ t.lc = s.lc ∧ t.quartz = s.quartz ∧ t.ge.lines = s.ge.lines ∧ t.hb.keys = s.hb.keys ∧
      rootsIn t.parts = rootsIn s.parts := by simp only [State.standing, Prod.mk.injEq]

namespace Steady
variable {s t u : State}

theorem mode (h : Steady s t) : t.mode = s.mode := ((s.standing_iff t).mp h.stands).1
theorem ob (h : Steady s t) : t.ob = s.ob := ((s.standing_iff t).mp h.stands).2.1
theorem bt (h : Steady s t) : t.bt = s.bt := ((s.standing_iff t).mp h.stands).2.2.1
theorem lc (h : Steady s t) : t.lc = s.lc := ((s.standing_iff t).mp h.stands).2.2.2.1
theorem quartz (h : Steady s t) : t.quartz = s.quartz := ((s.standing_iff t).mp h.stands).2.2.2.2.1
theorem lines (h : Steady s t) : t.ge.lines = s.ge.lines := ((s.standing_iff t).mp h.stands).2.2.2.2.2.1
theorem keys (h : Steady s t) : t.hb.keys = s.hb.keys := ((s.standing_iff t).mp h.stands).2.2.2.2.2.2.1
theorem roots (h : Steady s t) : rootsIn t.parts = rootsIn s.parts := ((s.standing_iff t).mp h.stands).2.2.2.2.2.2.2

theorem refl : Steady s s := ⟨rfl, fun _ h => h⟩

theorem trans (h : Steady s t) (k : Steady t u) : Steady s u := ⟨k.stands.trans h.stands, fun j hj => k.idle j (h.idle j hj)⟩

/-- An update of what the frame does not name: of registers, units, links, ports, the gate, the cards, the journal. -/
theorem update (h : Steady s t) (same : u.standing = t.standing) (ctxs : u.sq.ctxs = t.sq.ctxs) : Steady s u :=
  h.trans ⟨same, fun k hk => by rwa [State.ctx, ctxs]⟩

theorem ite {c : Prop} [Decidable c] (h : Steady s t) (k : Steady s u) : Steady s (if c then t else u) := by
  split <;> assumption

/-- What may happen besides is steady too. -/
theorem andIf {c : Prop} [Decidable c] (h : Steady s t) (k : Steady t u) : Steady s (if c then u else t) := (h.trans k).ite h

theorem foldl {α : Type} {f : State → α → State} {xs : List α} (h : Steady s t) (hf : ∀ u a, Steady u (f u a)) : Steady s (xs.foldl f t) :=
  foldl_keeps (Steady s) f (fun u a hu => hu.trans (hf u a)) xs t h

theorem of_endKeeps (h : Steady s t) (k : endKeeps t u) (r : rootsIn u.parts = rootsIn t.parts) : Steady s u := by
  obtain ⟨sq, ge, -, -, hb, mode, ob, lc, bt, quartz, -⟩ := (endKeeps_iff t u).mp k
  exact h.update ((t.standing_iff u).mpr ⟨mode, ob, bt, lc, quartz, by rw [ge], by rw [hb], r⟩) (by rw [sq])

end Steady

end Sys2Proof.Machine
end

section
/-! SUPPORT. The operations a tamper response, a start-up and a power change are made of keep the frame. -/
namespace Sys2Proof.Machine.Steady

variable {s t : State}

/-! ## Registers, interrupts and samples -/

theorem set {f : Field} {v : Nat} (h : Steady s t) : Steady s (t.set f v) := h.update rfl rfl
theorem setBit {f : Field} {i : Nat} {b : Bool} (h : Steady s t) : Steady s (t.setBit f i b) := h.set
theorem count {f : Field} {d : Nat} (h : Steady s t) : Steady s (t.count f d) := h.set
theorem countSat {f : Field} {d : Nat} (h : Steady s t) : Steady s (t.countSat f d) := h.set
theorem updQp {p q : Nat} {f : QueuePair → QueuePair} (h : Steady s t) : Steady s (t.updQp p q f) := h.update rfl rfl
theorem updLane {n l : Nat} {f : Lane → Lane} (h : Steady s t) : Steady s (t.updLane n l f) := h.update rfl rfl
theorem updHash {n : Nat} {f : HashUnit → HashUnit} (h : Steady s t) : Steady s (t.updHash n f) := h.update rfl rfl
theorem updFmt {n : Nat} {f : Service → Service} (h : Steady s t) : Steady s (t.updFmt n f) := h.update rfl rfl
theorem setMoved {n : Nat} {os : List UnitOp} (h : Steady s t) : Steady s (t.setMoved n os) := h.update rfl rfl
theorem updPk {p u : Nat} {f : PkUnit → PkUnit} (h : Steady s t) : Steady s (t.updPk p u f) := h.update rfl rfl
theorem updCell {c : Nat} {f : Cell → Cell} (h : Steady s t) : Steady s (t.updCell c f) := h.update rfl rfl
theorem updLink {k : Nat} {f : Link → Link} (h : Steady s t) : Steady s (t.updLink k f) := h.update rfl rfl

theorem raise {p i : Nat} (h : Steady s t) : Steady s (t.raise p i) := h.of_endKeeps (endKeeps_raise t p i) (by simp)
theorem severity {n : Nat} (h : Steady s t) : Steady s (t.severity n) := h.of_endKeeps (endKeeps_severity t n) (by simp)
theorem haltQp {p q e : Nat} (h : Steady s t) : Steady s (t.haltQp p q e) := h.of_endKeeps (endKeeps_haltQp t p q e) (by simp)
theorem partEvent {p i : Nat} (h : Steady s t) : Steady s (t.partEvent p i) := h.of_endKeeps (endKeeps_partEvent t p i) (by simp)
theorem sendOn {k : Nat} {o : Output} (h : Steady s t) : Steady s (t.sendOn k o) := h.of_endKeeps (endKeeps_sendOn t k o) (by simp)

theorem answer {ok : Option Bool} {c : Cmd} {e : Ending} (h : Steady s t) : Steady s (t.answer ok c e) :=
  h.of_endKeeps (endKeeps_answer t ok c e) (by simp)

theorem finish {ok : Option Bool} {c : Cmd} {e : Ending} {d : Option Nat} (h : Steady s t) : Steady s (t.finish ok c e d) :=
  h.of_endKeeps (endKeeps_finish t ok c e d) (by simp)

theorem settleTake (h : Steady s t) : Steady s t.settleTake := by
  rw [t.settleTake_spec]
  exact h.update rfl rfl

/-! ## Levels and islands (R321, R324) -/

theorem settleLevel (h : Steady s t) : Steady s t.settleLevel := h.ite (h.update rfl rfl)

theorem lockIslands {b : Bool} (h : Steady s t) : Steady s (t.lockIslands b) := .foldl h fun _ _ => .setBit .refl
theorem lockFixed {is : List Nat} {b : Bool} (h : Steady s t) : Steady s (t.lockFixed is b) := .foldl h fun _ _ => .setBit .refl
theorem setDomain {d : Nat} {b : Bool} (h : Steady s t) : Steady s (t.setDomain d b) := .ite h.setBit h.setBit
theorem domainsOn (h : Steady s t) : Steady s t.domainsOn := .foldl h fun _ _ => .setDomain .refl

theorem beginRelock {n : Nat} (h : Steady s t) : Steady s (t.beginRelock n) := by
  have unlocked : Steady s ((t.set R.PWR_STEP n).lockIslands false) := h.set.lockIslands
  exact unlocked.update rfl rfl

theorem urgentPl0 (h : Steady s t) : Steady s t.urgentPl0 := by
  have begun : Steady s (t.settleLevel.beginRelock 3) := h.settleLevel.beginRelock
  unfold State.urgentPl0
  exact .ite h.settleLevel (begun.update rfl rfl)

theorem applyT1 (h : Steady s t) : Steady s t.applyT1 := by
  unfold State.applyT1
  exact .ite (.settleTake (.ite h.set h.set.urgentPl0)) h

/-! ## Units that start anew (R150, R184, R236) -/

theorem settleCluster {n : Nat} (h : Steady s t) : Steady s (t.settleCluster n) := by
  unfold State.settleCluster
  exact .settleTake (.setBit (.ite h.severity h))

theorem settlePkCluster {p : Nat} (h : Steady s t) : Steady s (t.settlePkCluster p) := by
  unfold State.settlePkCluster
  exact .settleTake (.setBit (.ite h.severity h))

theorem resetUnits {n : Nat} (h : Steady s t) : Steady s (t.resetUnits n) := by
  unfold State.resetUnits
  exact .settleCluster (.setMoved (.updFmt (.updHash (.foldl h fun _ _ => .updLane .refl))))

theorem resetPkUnits {p : Nat} (h : Steady s t) : Steady s (t.resetPkUnits p) :=
  .settlePkCluster (.foldl h fun _ _ => .updPk .refl)

theorem startCells (h : Steady s t) : Steady s t.startCells := .foldl h fun _ _ => .updCell .refl

theorem powerOnCluster {i : Nat} (h : Steady s t) : Steady s (t.powerOnCluster i) := by
  unfold State.powerOnCluster
  exact .ite h.setBit.resetUnits h.setBit.resetPkUnits

/-- A wake begins (R334): domains, locks, units and cells, and the level. -/
theorem beginWake {event link : Nat} (h : Steady s t) : Steady s (t.beginWake event link) := by
  unfold State.beginWake
  refine .applyT1 (.settleLevel (.raise (.startCells (.foldl (.lockFixed (.domainsOn ?_)) fun _ _ => .powerOnCluster .refl))))
  exact h.update rfl rfl

theorem leaveSleep (h : Steady s t) : Steady s t.leaveSleep := by
  unfold State.leaveSleep
  split
  · exact h.beginWake
  · exact h.update rfl rfl
  · exact h
  · exact h

/-! ## The gate and the cards (R279, R418) -/

theorem setPin {f : Nat} {b : Bool} (h : Steady s t) : Steady s (t.setPin f b) := .ite h.setBit h
theorem deactivateCard {p : Nat} (h : Steady s t) : Steady s (t.deactivateCard p) := h.update rfl rfl

theorem endCardApproval {r : Nat} (h : Steady s t) : Steady s (t.endCardApproval r) := by
  unfold State.endCardApproval
  exact .deactivateCard (.raise (.update (.setPin h.set.set) rfl rfl))

theorem dropCardApproval (h : Steady s t) : Steady s t.dropCardApproval := h.ite h.endCardApproval
theorem deactivateCards (h : Steady s t) : Steady s t.deactivateCards := h.dropCardApproval.deactivateCard.deactivateCard

theorem closeGate (h : Steady s t) : Steady s t.closeGate := by
  unfold State.closeGate
  exact .dropCardApproval (h.update rfl rfl)

theorem serveDoorbells {p q : Nat} (h : Steady s t) : Steady s (t.serveDoorbells p q) :=
  .ite h (.ite (.haltQp h.updQp) (.ite (.haltQp h.updQp) (.ite (.haltQp h.updQp) h.updQp)))

theorem serveAllDoorbells (h : Steady s t) : Steady s t.serveAllDoorbells := .foldl h fun _ _ => .serveDoorbells .refl

theorem tellStandby {d : Delta} (h : Steady s t) : Steady s (t.tellStandby d) := by
  unfold State.tellStandby State.sendDelta State.sendDeltaOn
  split
  · dsimp only
    unfold State.tellOn
    split
    · exact .sendOn (h.update rfl rfl)
    · exact h.update rfl rfl
  · exact h

theorem updPart {p : Nat} {f : Part → Part} (h : Steady s t)
    (hf : ∀ x, ((f x).proot, (f x).droot, (f x).mroot) = (x.proot, x.droot, x.mroot)) : Steady s (t.updPart p f) :=
  h.of_endKeeps (endKeeps_updPart t p f) (t.updPart_roots p hf)

theorem thawPart {p : Nat} (h : Steady s t) : Steady s (t.thawPart p) := by
  unfold State.thawPart
  refine .foldl (.tellStandby (.partEvent (.updPart h ?_))) fun _ _ => .serveDoorbells (.updQp .refl)
  exact fun _ => rfl

theorem thawFrozen (h : Steady s t) : Steady s t.thawFrozen := by
  unfold State.thawFrozen
  exact .foldl (h.update rfl rfl) fun _ _ => .ite (.thawPart .refl) .refl

theorem discardChange (h : Steady s t) : Steady s t.discardChange := h.ite h.closeGate.thawFrozen

/-! ## The links (R359, R374) -/

theorem wrapRing {k : Nat} (h : Steady s t) : Steady s (t.wrapRing k) := .ite h.set.raise h
theorem settleTree (h : Steady s t) : Steady s t.settleTree := .ite (.update (h.set.raise (p := pgFVL 0) (i := 8)) rfl rfl) h
theorem tellHolds {k : Nat} (h : Steady s t) : Steady s (t.tellHolds k) := .ite h.sendOn h
theorem askCatchup {k : Nat} (h : Steady s t) : Steady s (t.askCatchup k) := .sendOn (h.update rfl rfl)

theorem settleLink {k : Nat} (h : Steady s t) : Steady s (t.settleLink k) := by
  unfold State.settleLink
  refine .ite (.ite (.settleTree (.wrapRing ?_)) ?_) h <;>
    exact .andIf (.andIf (.andIf h.set (.tellHolds (.raise .refl))) (.askCatchup .refl)) (.raise (.set .refl))

theorem releaseHeld {hit : Held → Bool} (h : Steady s t) : Steady s (t.releaseHeld hit) := by
  unfold State.releaseHeld
  exact .foldl (h.update rfl rfl) fun _ _ => .answer .refl

theorem outOfSync (h : Steady s t) : Steady s t.outOfSync := h.set.raise.releaseHeld

theorem dropForwarded {k : Nat} (h : Steady s t) : Steady s (t.dropForwarded k) := by
  unfold State.dropForwarded
  exact .foldl (h.update rfl rfl) fun _ _ => .finish .refl

theorem linkDown {k cause : Nat} (h : Steady s t) : Steady s (t.linkDown k cause) := by
  unfold State.linkDown
  exact .settleTree (.andIf (.andIf (.andIf (.andIf h.set.set.set.updLink (.severity (.raise (.countSat .refl)))) (.wrapRing .refl))
    (.outOfSync .refl)) (.dropForwarded .refl))

theorem allLinksDown (h : Steady s t) : Steady s t.allLinksDown := .foldl h fun _ _ => .linkDown .refl

/-- A change of mode (R387), seen from the state that has the new mode. -/
theorem enterMode {m : Mode} (h : Steady s { t with mode := m }) : Steady s (t.enterMode m) := by
  unfold State.enterMode
  split
  case isTrue same => subst same; exact h
  case isFalse => exact .foldl (.andIf h.raise (.serveAllDoorbells .refl)) fun _ _ => .settleLink .refl

/-! ## Commands that end (R98, R291, R426) -/

theorem settlePkFreeze {p : Nat} (h : Steady s t) : Steady s (t.settlePkFreeze p) := by
  unfold State.settlePkFreeze
  exact .settlePkCluster (.andIf h (.raise .refl))

theorem settleCurve (h : Steady s t) : Steady s t.settleCurve := by
  unfold State.settleCurve State.showCurves
  exact .ite h (.set (.set (h.update rfl rfl)))

theorem settlePk {p : Nat} (h : Steady s t) : Steady s (t.settlePk p) := h.settlePkFreeze.settleCurve

theorem countAborts {p n : Nat} (h : Steady s t) : Steady s (t.countAborts p n) := h.set

theorem dropPk {k : Nat} (h : Steady s t) : Steady s (t.dropPk k) := by
  unfold State.dropPk
  exact .foldl (h.update rfl rfl) fun _ _ => .settlePk (.countAborts .refl)

theorem dropOps {k : Nat} (h : Steady s t) : Steady s (t.dropOps k) := by
  unfold State.dropOps
  exact .update (h.dropPk (k := k)) rfl rfl

theorem dmaWrite {m tag a : Nat} {bs : List Byte} (h : Steady s t) : Steady s (t.dmaWrite m tag a bs).1 := by
  unfold State.dmaWrite
  refine foldl_keeps (fun r : State × Bool => Steady s r.1) _ (fun r p hr => ?_) _ _ h
  split
  · exact hr.update rfl rfl
  · exact hr.countSat.set.set.raise

theorem zeroOutput {c : Cmd} {st : Nat} {wrote : Bool} (h : Steady s t) : Steady s (t.zeroOutput c st wrote) := by
  unfold State.zeroOutput
  refine .ite h (.ite (.ite h.dmaWrite h) ?_)
  split
  · exact h.update rfl rfl
  · exact h

/-- A free value taken. -/
theorem draws {n : Nat} (h : Steady s t) : Steady s { t with frees := n } := h.update rfl rfl

theorem countEnding {k st det : Nat} {x : Context} {c : Cmd} (h : Steady s t) : Steady s (t.countEnding k x c st det) := by
  unfold State.countEnding
  refine .ite (.ite (.raise (.countSat ?_)) (.ite (.countSat ?_) ?_)) h.count <;>
    exact .set (.set (.set (.ite (.set (.set h.count)) (.draws (.set (.set h.count))))))

/-- A context that serves no command from now on. -/
theorem freeCtx {k : Nat} (h : Steady s t) : Steady s (t.setCtx k {}) := by
  refine h.trans ⟨rfl, fun j hj => ?_⟩
  by_cases hk : k = j
  · subst hk; simp
  · rwa [State.ctx_setCtx_ne _ _ _ _ hk]

theorem updCtxHome {k l : Nat} (h : Steady s t) : Steady s (t.updCtx k fun x => { x with home := some l }) := by
  refine h.trans ⟨rfl, fun j hj => ?_⟩
  by_cases hk : k = j
  · subst hk; simpa using hj
  · rwa [State.ctx_updCtx_ne _ _ _ _ hk]

theorem seatMoved {n fuel : Nat} (h : Steady s t) : Steady s (t.seatMoved n fuel) := by
  induction fuel generalizing t with
  | zero => exact h
  | succ fuel ih =>
    unfold State.seatMoved
    split
    · exact h
    · dsimp only
      split
      · exact h
      · apply ih
        split
        · exact .andIf (h.update rfl rfl) (.updCtxHome .refl)
        · exact h.update rfl rfl

theorem settleStale (h : Steady s t) : Steady s t.settleStale := by
  unfold State.settleStale
  exact .ite h (.raise (h.update rfl rfl))

theorem settleSeq {n : Nat} (h : Steady s t) : Steady s (t.settleSeq n) := .ite h.raise h

/-- An ended command (R63) leaves what a tamper response decides. -/
theorem endCommand {k st det len : Nat} {ok : Option Bool} (h : Steady s t) : Steady s (t.endCommand k st det len ok) := by
  unfold State.endCommand
  dsimp only
  split
  · exact h
  · exact .update (.settleSeq (.settleStale (.finish (.seatMoved (.freeCtx (.countEnding (.dropOps (.ite h.zeroOutput h)))))))) rfl rfl

theorem failAppend (h : Steady s t) : Steady s t.failAppend := by
  unfold State.failAppend
  split
  · exact h
  · dsimp only
    split
    · exact .endCommand (.raise (h.update rfl rfl))
    · exact .raise (h.update rfl rfl)

theorem closeJournal (h : Steady s t) : Steady s t.closeJournal := .set (.foldl h fun _ _ => .failAppend .refl)

theorem endStaged {c : Cmd} {st det : Nat} (h : Steady s t) : Steady s (t.endStaged c st det) := h.finish

theorem endAllCommands (h : Steady s t) : Steady s t.endAllCommands := by
  unfold State.endAllCommands
  exact .releaseHeld (.foldl (.foldl (h.update rfl rfl) fun _ _ => .endStaged .refl) fun _ _ => .endCommand .refl)

theorem startAppend (h : Steady s t) : Steady s t.startAppend := by
  unfold State.startAppend
  split
  · exact .ite h (h.update rfl rfl)
  · exact h

theorem journal {a : Append} (h : Steady s t) : Steady s (t.journal a) := .ite (.startAppend (h.update rfl rfl)) h

end Sys2Proof.Machine.Steady
end

section
/-! SUPPORT. What the zeroisation of T3 and T4 does (R290-R292, R298): every command ended, key lines, HBM keys, roots and MMK gone, the latch, the mode. -/
namespace Sys2Proof.Machine

/-- The core die is held in reset, or not, as before. -/
theorem Steady.inReset {s t : State} (h : Steady s t) : t.inReset = s.inReset := by simp only [State.inReset, h.bt]

variable (s : State)

/-! ## All commands end (R291) -/

/-- A key that reads other than the default is listed. -/
theorem Sparse.mem_of_get_ne {α : Type} {d : α} {m : Sparse α} {k : Nat} (h : Sparse.get d m k ≠ d) : (k, Sparse.get d m k) ∈ m := by
  induction m with
  | nil => exact absurd rfl h
  | cons e m ih =>
    obtain ⟨j, v⟩ := e
    by_cases hj : j = k
    · subst hj; simp [Sparse.get]
    · simp only [Sparse.get, if_neg hj] at h ⊢
      exact List.mem_cons_of_mem _ (ih h)

/-- A context that serves a command is among the running ones. -/
theorem State.mem_running {k : Nat} (h : (s.ctx k).cmd ≠ none) : k ∈ s.running.map Prod.fst := by
  have listed : (k, s.ctx k) ∈ s.sq.ctxs := Sparse.mem_of_get_ne fun e => h (by rw [State.ctx, e])
  exact List.mem_map.mpr ⟨_, List.mem_filter.mpr ⟨listed, Option.isSome_iff_ne_none.mpr h⟩, rfl⟩

/-- A context whose command is ended serves none, whether or not it served one. -/
theorem State.endCommand_frees (k st det : Nat) : ((s.endCommand k st det).ctx k).cmd = none := by
  cases h : (s.ctx k).cmd with
  | none => exact (Steady.endCommand Steady.refl).idle k h
  | some c => exact s.endCommand_ctx_cmd st det 0 none (by simp [h])

/-- After the commands of listed contexts have ended, these contexts serve none. -/
theorem State.endCommands_free (es : List (Nat × Context)) (st det k : Nat) (h : (s.ctx k).cmd = none ∨ k ∈ es.map Prod.fst) :
    ((es.foldl (fun s e => s.endCommand e.1 st det) s).ctx k).cmd = none := by
  induction es generalizing s with
  | nil => simpa using h
  | cons e es ih =>
    refine ih _ ?_
    rcases h with free | listed
    · exact .inl ((Steady.endCommand Steady.refl).idle k free)
    · rcases List.mem_cons.mp listed with rfl | later
      · exact .inl (s.endCommand_frees _ _ _)
      · exact .inr later

/-- No context serves a command once all have ended. -/
theorem State.endAllCommands_free (k : Nat) : (s.endAllCommands.ctx k).cmd = none := by
  unfold State.endAllCommands
  refine (Steady.releaseHeld Steady.refl).idle k (State.endCommands_free _ _ _ _ k ?_)
  exact (em _).imp_right fun busy => State.mem_running _ busy

/-! ## Zeroisation (R290-R292) -/

/-- What a zeroisation leaves: no command runs, no line stands in the key table, HBM has no keys and no partition a root. -/
def State.wiped (s : State) : Prop :=
  (∀ k, (s.ctx k).cmd = none) ∧ (∀ l, s.line l = {}) ∧ s.hb.keys = [] ∧
    ∀ p, (s.part p).proot.key = none ∧ (s.part p).droot.key = none ∧ (s.part p).mroot.key = none

theorem Steady.wiped {s t : State} (h : Steady s t) (w : s.wiped) : t.wiped := by
  obtain ⟨free, lines, keys, roots⟩ := w
  refine ⟨fun k => h.idle k (free k), fun l => ?_, h.keys.trans keys, fun p => ?_⟩
  · rw [State.line, h.lines]; exact lines l
  · obtain ⟨hp, hd, hm⟩ : (t.part p).proot = (s.part p).proot ∧ (t.part p).droot = (s.part p).droot ∧ (t.part p).mroot = (s.part p).mroot := by
      have same := congrFun h.roots p
      simp only [rootsIn, Prod.mk.injEq] at same
      exact same
    rw [hp, hd, hm]; exact roots p

/-- With its roots lost a module that runs nothing and has no keys is wiped. -/
theorem State.loseRoots_wiped (free : ∀ k, (s.ctx k).cmd = none) (lines : s.ge.lines = []) (keys : s.hb.keys = []) : s.loseRoots.wiped := by
  refine ⟨free, fun l => ?_, keys, fun p => ?_⟩
  · change Sparse.get {} s.ge.lines l = {}
    rw [lines]; rfl
  · rw [State.part, State.loseRoots, Sparse.get_mapVals _ _ _ _ rfl]
    exact ⟨rfl, rfl, rfl⟩

/-- The zeroisation of T3 up to the loss of the roots: all commands ended, key lines and HBM keys gone. -/
theorem State.zeroWork_stages : ∃ u : State, u.mode = s.mode ∧ u.ob = s.ob ∧ u.bt = s.bt ∧ (∀ k, (u.ctx k).cmd = none) ∧ u.ge.lines = [] ∧
    u.hb.keys = [] ∧ s.zeroWork = u.loseRoots.allLinksDown := by
  have ended : Steady s s.endAllCommands := .endAllCommands .refl
  have settled : ∀ (v : State) (n : Nat → Nat), Steady v ((List.range 8).foldl (fun s p => (s.countAborts p (n p)).settlePk p) v) :=
    fun v n => .foldl .refl fun _ _ => .settlePk (.countAborts .refl)
  refine ⟨_, ?mode, ?ob, ?bt, ?free, ?lines, ?keys, rfl⟩
  case mode => exact (settled _ _).mode.trans ended.mode
  case ob => exact (settled _ _).ob.trans ended.ob
  case bt => exact (settled _ _).bt.trans ended.bt
  case free => exact fun k => (settled _ _).idle k (s.endAllCommands_free k)
  case lines => exact (settled _ _).lines
  case keys => exact (settled _ _).keys

/-- The zeroisation of T3 wipes the module, moves RWGEN on and leaves the rest of the sentinel. -/
theorem State.zeroWork_spec : s.zeroWork.wiped ∧ s.zeroWork.mode = s.mode ∧ s.zeroWork.ob = { s.ob with rwgen := (s.ob.rwgen + 1) % 2 ^ 32 } := by
  obtain ⟨u, mode, ob, -, free, lines, keys, eq⟩ := s.zeroWork_stages
  have down : Steady u.loseRoots u.loseRoots.allLinksDown := .allLinksDown .refl
  rw [eq]
  refine ⟨down.wiped (u.loseRoots_wiped free lines keys), down.mode.trans mode, down.ob.trans ?_⟩
  change { u.ob with rwgen := (u.ob.rwgen + 1) % 2 ^ 32 } = _
  rw [ob]

/-- The MMK lost: the sentinel has none, its wires hold nothing, and the device keys are of a new generation. -/
theorem State.loseMmk_steady :
    Steady { s with ob := { s.ob with mmk := none, wires := {} }, lc := { s.lc with devKeys := s.lc.devKeys + 1 } } s.loseMmk := by
  have closed : Steady s (s.closeJournal.count (R.BLK_SEQ pgOBS) 2) := .count (.closeJournal .refl)
  refine ⟨(State.standing_iff _ _).mpr ⟨closed.mode, ?_, closed.bt, ?_, closed.quartz, closed.lines, closed.keys, closed.roots⟩, closed.idle⟩
  · exact congrArg (fun o : Obsidian => { o with mmk := none, wires := {} }) closed.ob
  · exact congrArg (fun l : LifeCycle => { l with devKeys := s.lc.devKeys + 1 }) closed.lc

/-- RESPONDED is entered at once, but in BOOT only as it ends (R298). -/
theorem State.respondedMode_steady :
    Steady { s with mode := if s.booting = true then s.mode else .responded } (if s.booting = true then s else s.enterMode .responded) := by
  split
  · exact .refl
  · exact .enterMode .refl

/-- A zeroisation by its stages: the work wiped, for T4 the MMK lost, the latch set and the mode taken. -/
theorem State.zeroise_stages (cls : Nat) : ∃ u v w : State, Steady s.zeroWork u ∧ Steady (if cls = 4 then u.loseMmk else u) v ∧
    w.standing = { v with ob := { v.ob with latch := cls } }.standing ∧ w.sq = v.sq ∧
    Steady { w with mode := if w.booting = true then w.mode else .responded } (s.zeroise cls) := by
  let u := s.zeroWork.discardChange.deactivateCards
  let m := if cls = 4 then u.loseMmk else u
  refine ⟨u, if m.get R.PAIR_ROLE = 3 then m.set R.PAIR_ROLE 2 else m, _, .deactivateCards (.discardChange .refl), .ite (.set .refl) .refl,
    ?latched, ?ctxs, (State.respondedMode_steady _).trans (.settleTake (.settleLevel (.leaveSleep .refl)))⟩
  case latched => exact rfl
  case ctxs => exact rfl

/-- What a T3 or T4 response does (R290, R292, R298). -/
theorem State.zeroise_spec (cls : Nat) : (s.zeroise cls).wiped ∧ (s.zeroise cls).ob.latch = cls ∧
    (s.zeroise cls).ob.rwgen = (s.ob.rwgen + 1) % 2 ^ 32 ∧ (cls = 4 → (s.zeroise cls).ob.mmk = none) ∧
    (s.mode ≠ .boot → (s.zeroise cls).mode = .responded) := by
  obtain ⟨u, v, w, zeroed, lost, latched, ctxs, done⟩ := s.zeroise_stages cls
  obtain ⟨wiped, mode, ob⟩ := s.zeroWork_spec
  have taken : Steady { v with ob := { v.ob with latch := cls } } w := .update .refl latched (by rw [ctxs])
  have lostMmk : (if cls = 4 then u.loseMmk else u).wiped ∧ (if cls = 4 then u.loseMmk else u).mode = u.mode ∧
      (if cls = 4 then u.loseMmk else u).ob.rwgen = u.ob.rwgen ∧ (cls = 4 → (if cls = 4 then u.loseMmk else u).ob.mmk = none) := by
    split
    next four =>
      exact ⟨u.loseMmk_steady.wiped (zeroed.wiped wiped), u.loseMmk_steady.mode, by rw [u.loseMmk_steady.ob], fun _ => by rw [u.loseMmk_steady.ob]⟩
    next three => exact ⟨zeroed.wiped wiped, rfl, rfl, fun four => absurd four three⟩
  obtain ⟨wiped', mode', rwgen', mmk'⟩ := lostMmk
  have wOb : (s.zeroise cls).ob = { v.ob with latch := cls } := done.ob.trans taken.ob
  refine ⟨done.wiped (taken.wiped (lost.wiped wiped')), by rw [wOb], ?_, fun four => ?_, fun running => ?_⟩
  · rw [wOb]; change v.ob.rwgen = _
    rw [lost.ob, rwgen', zeroed.ob, ob]
  · rw [wOb]; change v.ob.mmk = _
    rw [lost.ob, mmk' four]
  · have wMode : w.mode = s.mode := by rw [taken.mode, lost.mode, mode', zeroed.mode, mode]
    have booted : w.booting = false := by simp [State.booting, wMode, running]
    rw [done.mode]; simp [booted]

end Sys2Proof.Machine
end

section
/-! SUPPORT. The register fields a T1 latch writes, and what the start and the end of BOOT keep (R290, R294, R299, R321, R381, R386). -/
namespace Sys2Proof.Machine

variable (s : State)

/-! ## Register fields of a level change -/

theorem keeps_foldl {α : Type} {fs : List Field} {f : State → α → State} (hf : ∀ u a, keeps fs u (f u a)) (xs : List α) : keeps fs s (xs.foldl f s) :=
  foldl_keeps (keeps fs s) f (fun u a hu => keeps_mono (keeps_trans hu (hf u a)) (by simp)) xs s (keeps_refl s fs)

@[simp] theorem State.settleTake_get (f : Field) : s.settleTake.get f = s.get f := by rw [s.settleTake_spec]; rfl

theorem State.settleLevel_keeps : keeps [R.PWR_EFF_PL] s s.settleLevel := by
  unfold State.settleLevel
  dsimp only
  split
  · exact keeps_refl s _
  · exact keeps_set s _ _

/-- A settled level that is to be PL0 is PL0. -/
theorem State.settleLevel_pl0 (h : s.levelInForce = 0) : s.settleLevel.get R.PWR_EFF_PL = 0 := by
  unfold State.settleLevel
  simp only [h]
  split
  next already => exact already
  next => exact (s.get_set_same R.PWR_EFF_PL 0).trans (Nat.zero_mod _)

theorem State.beginRelock_keeps (n : Nat) : keeps [R.PWR_STEP, R.GBL_ISLAND_LOCK] s (s.beginRelock n) :=
  keeps_trans (keeps_set s R.PWR_STEP n) (keeps_foldl _ (fun u _ => keeps_set u R.GBL_ISLAND_LOCK _) _)

/-- An urgent fall leaves the effective level settled, and starts a relock at most (R324). -/
theorem State.urgentPl0_keeps : keeps [R.PWR_STEP, R.GBL_ISLAND_LOCK] s.settleLevel s.urgentPl0 := by
  unfold State.urgentPl0
  dsimp only
  split
  · exact keeps_refl _ _
  · exact s.settleLevel.beginRelock_keeps 3

theorem State.mirror_keeps (was : List Nat) : keeps [R.BLK_SEQ pgOBS] s (s.mirror was) := by
  unfold State.mirror
  split
  · exact keeps_refl s _
  · exact keeps_set s _ _

theorem State.mirror_steady (was : List Nat) : Steady s (s.mirror was) := .ite .refl (.count .refl)

@[simp] theorem State.mirror_out (was : List Nat) : (s.mirror was).out = s.out := by unfold State.mirror; split <;> rfl

/-- The page's SEQ moves on and no other field of it. -/
theorem State.mirror_get (was : List Nat) {f : Field} (h : (R.BLK_SEQ pgOBS).key ≠ f.key) : (s.mirror was).get f = s.get f :=
  s.mirror_keeps was f (by simpa using h)

theorem State.raise_bit (p : Nat) {i : Nat} (hi : i < 32) : (s.raise p i).bit (R.BLK_INT_RAW p) i = true := by
  rw [s.raise_raised p i i hi]; simp

/-! ## The T1 latch (R290, R321) -/

/-- Where a T1 stands latched, applying it caps the level, and outside a reset puts PL0 in force. -/
theorem State.applyT1_caps (h : s.ob.latch = 1) :
    s.applyT1.get R.PWR_T1_CAP = 1 ∧ (s.inReset = false → s.applyT1.get R.PWR_EFF_PL = 0) := by
  have capped : (s.set R.PWR_T1_CAP 1).get R.PWR_T1_CAP = 1 := s.get_set_same R.PWR_T1_CAP 1
  have pl0 : (s.set R.PWR_T1_CAP 1).levelInForce = 0 := if_pos (.inl h)
  have urgent := (s.set R.PWR_T1_CAP 1).urgentPl0_keeps
  unfold State.applyT1
  rw [if_pos h]
  dsimp only
  rw [State.settleTake_get, State.settleTake_get]
  split
  next held => exact ⟨capped, fun free => absurd held (by simpa [State.inReset] using free)⟩
  next =>
    refine ⟨?_, fun _ => ?_⟩
    · rw [urgent _ (by decide), State.settleLevel_keeps _ _ (by decide), capped]
    · rw [urgent _ (by decide), State.settleLevel_pl0 _ pl0]

/-- Applying a T1 latch leaves Obsidian's interrupts. -/
theorem State.applyT1_intRaw : s.applyT1.get (R.BLK_INT_RAW pgOBS) = s.get (R.BLK_INT_RAW pgOBS) := by
  unfold State.applyT1
  split
  · dsimp only
    rw [State.settleTake_get]
    split
    · exact keeps_set s _ _ _ (by decide)
    · rw [State.urgentPl0_keeps _ _ (by decide), State.settleLevel_keeps _ _ (by decide)]
      exact keeps_set s _ _ _ (by decide)
  · rfl

/-- What a T1 latched does: the latch, its interrupt, and the cap where no higher latch stands. -/
theorem State.latchT1_spec :
    Steady { s with ob := { s.ob with latch := max s.ob.latch 1 } } s.latchT1 ∧ s.latchT1.bit (R.BLK_INT_RAW pgOBS) 1 = true ∧
      (s.latchT1.ob.latch = 1 → s.latchT1.get R.PWR_T1_CAP = 1 ∧ (s.inReset = false → s.latchT1.get R.PWR_EFF_PL = 0)) := by
  have raised : Steady { s with ob := { s.ob with latch := max s.ob.latch 1 } }
      (({ s with ob.latch := max s.ob.latch 1 }.count (R.BLK_SEQ pgOBS) 2).raise pgOBS 1) := .raise (.count .refl)
  have bit := ({ s with ob.latch := max s.ob.latch 1 }.count (R.BLK_SEQ pgOBS) 2).raise_bit pgOBS (i := 1) (by decide)
  unfold State.latchT1
  generalize ({ s with ob.latch := max s.ob.latch 1 }.count (R.BLK_SEQ pgOBS) 2).raise pgOBS 1 = u at raised bit
  refine ⟨raised.applyT1, ?_, fun latched => ?_⟩
  · rw [State.bit, u.applyT1_intRaw]; exact bit
  · have same : u.applyT1.ob = u.ob := (Steady.applyT1 Steady.refl).ob
    obtain ⟨capped, pl0⟩ := u.applyT1_caps (by rwa [← same])
    exact ⟨capped, fun free => pl0 (raised.inReset.trans free)⟩

/-! ## BOOT (R381, R386) -/

/-- Start-up states that tell of the same reset: its cause, the resets counted, and what holds the core die. -/
def Boot.sameReset (b c : Boot) : Prop := b.cause = c.cause ∧ b.resetCnt = c.resetCnt ∧ b.vigil = c.vigil ∧ b.vddLow = c.vddLow

/-- Where the life-cycle word is not one of a module to boot, BOOT says so, and a SCRAPPED one loses its flash and firmware (R309, R312). -/
theorem State.startBoot_decodes : ∃ b : Boot, b.sameReset s.bt ∧
    Steady { s with bt := b } (if s.lcState = 0xF then (s.set R.RST_BOOT_ERR 2).raise pgLCS 0
      else if s.lcState = 7 then s.eraseFlash.set R.RST_BOOT_ERR 3 else s) := by
  split
  · exact ⟨s.bt, ⟨rfl, rfl, rfl, rfl⟩, .raise (.set .refl)⟩
  · split
    · exact ⟨{ s.bt with slotA := none, slotB := none, identity := false }, ⟨rfl, rfl, rfl, rfl⟩, .update .refl rfl rfl⟩
    · exact ⟨s.bt, ⟨rfl, rfl, rfl, rfl⟩, .refl⟩

/-- BOOT begun: its stage, when it was, and whether a latch stood. -/
def State.bootBegun (s : State) : State :=
  { s.set R.RST_BOOT_STAGE 1 with bt.released := s.quartz, bt.latched := s.ob.latch != 0, fl.powered := s.quartz }

/-- The start of BOOT notes when it was and which latch it found; it keeps the rest of what the frame holds. -/
theorem State.startBoot_spec : ∃ b : Boot, b.sameReset s.bt ∧ Steady { s with bt := b } s.startBoot := by
  unfold State.startBoot
  split
  · exact ⟨s.bt, ⟨rfl, rfl, rfl, rfl⟩, .refl⟩
  · obtain ⟨b, same, decoded⟩ := s.bootBegun.startBoot_decodes
    refine ⟨b, same, ?_⟩
    have base : Steady { s with bt := b } { s.bootBegun with bt := b } := .update .refl rfl rfl
    exact .applyT1 (.startCells (.foldl (.foldl (.lockFixed (.lockIslands (.andIf (base.trans decoded) (.setDomain .refl))))
      fun _ _ => .resetUnits .refl) fun _ _ => .resetPkUnits .refl))

theorem State.firstRoots_ob : s.firstRoots.ob = s.ob := by
  unfold State.firstRoots
  dsimp only
  split
  · rfl
  · rfl

theorem State.enterMode_ob (m : Mode) : (s.enterMode m).ob = s.ob :=
  (Steady.enterMode (s := { s with mode := m }) Steady.refl).ob

theorem State.leaveBoot_ob : s.leaveBoot.ob = s.ob := by
  unfold State.leaveBoot
  split
  · exact s.enterMode_ob _
  · split
    · unfold State.bootClaim
      split
      · exact (Steady.settleTake Steady.refl).ob.trans (State.enterMode_ob _ _)
      · rfl
    · exact s.enterMode_ob _

/-- The journal checked at the end of BOOT moves its count alone. -/
theorem State.checkJournal_latch (block : List Byte) : (s.checkJournal block).ob.latch = s.ob.latch := by
  unfold State.checkJournal
  split
  · rfl
  · dsimp only
    split
    · exact congrArg _ (Steady.set (Steady.raise (Steady.countSat Steady.refl))).ob
    · split
      · have noted : ((s.countSat R.SD_ROLLFWD_CNT).raise pgSD 3).ob = s.ob := (Steady.raise (Steady.countSat Steady.refl)).ob
        have latch := congrArg Obsidian.latch noted
        exact latch
      · exact congrArg _ (Steady.set (Steady.raise (Steady.countSat Steady.refl))).ob

/-- The last act of BOOT, on a T1 pending since VIGIL or on one latched before (R299). -/
theorem State.bootEnd_last (h : s.ob.latch = 1) :
    ∃ t, (if s.ob.pendT1 = true then (.next { s with ob.pendT1 := false }.latchT1 : Result) else .next s.applyT1) = .next t ∧ t.ob.latch = 1 := by
  split
  · refine ⟨_, rfl, ?_⟩
    rw [(State.latchT1_spec _).1.ob]
    simp [h]
  · exact ⟨_, rfl, by rw [(Steady.applyT1 Steady.refl).ob, h]⟩

/-- A T1 that is latched stays so as BOOT ends (R294). -/
theorem execBootEnd_latch (h : s.ob.latch = 1) : ∃ t, execBootEnd s = .next t ∧ t.ob.latch = 1 := by
  unfold execBootEnd
  split
  · exact ⟨s, rfl, h⟩
  · dsimp only
    generalize hu : (State.firstRoots _).leaveBoot = u
    have left : u.ob.latch = 1 := by
      rw [← hu, State.leaveBoot_ob, State.firstRoots_ob]
      change ((s.set R.RST_BOOT_STAGE 6).set R.RST_BOOT_US _ |>.raise pgRST 0).ob.latch = 1
      rw [(Steady.raise (Steady.set (Steady.set (Steady.refl (s := s))))).ob, h]
    split
    · exact State.bootEnd_last _ ((State.checkJournal_latch _ _).trans left)
    · exact State.bootEnd_last _ left

end Sys2Proof.Machine
end

section
/-! SUPPORT. The evaluation cycle of one sample (R285, R296, R299), and power that fails and returns (R282, R302, R392, R452). -/
namespace Sys2Proof.Machine

variable (s : State)

/-! ## What decides a response -/

/-- What decides the response to an alarm, and what a response changes of the sentinel. -/
def State.posture (s : State) :=
  (s.ob.latch, s.ob.mmk, s.ob.rwgen, s.ob.pendT1, s.ob.pendT2, s.ob.onMain, s.ob.resp, s.mode, s.bt)

theorem State.posture_iff (s t : State) : t.posture = s.posture ↔
    t.ob.latch = s.ob.latch ∧ t.ob.mmk = s.ob.mmk ∧ t.ob.rwgen = s.ob.rwgen ∧ t.ob.pendT1 = s.ob.pendT1 ∧ t.ob.pendT2 = s.ob.pendT2 ∧
      t.ob.onMain = s.ob.onMain ∧ t.ob.resp = s.ob.resp ∧ t.mode = s.mode ∧ t.bt = s.bt := by simp only [State.posture, Prod.mk.injEq]

theorem Steady.posture {s t : State} (h : Steady s t) : t.posture = s.posture := by simp only [State.posture, h.ob, h.mode, h.bt]

section
variable {s} {t : State} (h : t.posture = s.posture)
include h

theorem State.inForce_of_posture : t.inForce = s.inForce := by
  obtain ⟨latch, -, -, -, -, -, -, -, bt⟩ := (s.posture_iff t).mp h
  rw [State.inForce, State.inForce, latch, bt]

theorem State.respClass_of_posture (i : Nat) : t.respClass i = s.respClass i := by
  obtain ⟨-, -, -, -, -, -, resp, -, -⟩ := (s.posture_iff t).mp h
  rw [State.respClass, State.respClass, resp]

end

/-- A logged alarm changes the log alone (R301, R302). -/
theorem State.logAlarm_posture (i cls done cause : Nat) (pending : Bool) : (s.logAlarm i cls done cause pending).posture = s.posture := by
  unfold State.logAlarm
  split
  · exact (Steady.raise Steady.refl).posture
  · exact (Steady.journal (Steady.raise (Steady.andIf Steady.refl (Steady.severity Steady.refl)))).posture

/-! ## The alarm of one input (R296, R299) -/

section
variable (i c : Nat)

/-- The alarm of one input as it is logged on main power, with the class executed. -/
def State.logged (s : State) (i c : Nat) : State := s.logAlarm i (s.respClass i) (max (s.respClass i) s.inForce) c false

theorem State.logged_posture : (s.logged i c).posture = s.posture := s.logAlarm_posture _ _ _ _ _

/-- The alarm of one input on main power: its class executes over a lower one, a T1 under a T2 is latched besides. -/
theorem State.alarms_one : s.alarms [(i, c)] = if s.inForce < s.respClass i then (s.logged i c).respond (s.respClass i)
    else if s.inForce = 2 ∧ s.respClass i = 1 then (s.logged i c).latchT1 else s.logged i c := by
  simp [State.alarms, State.logged, State.respClass_of_posture (s.logAlarm_posture _ _ _ _ _)]

theorem State.alarms_zeroise (h3 : 3 ≤ s.respClass i) (above : s.inForce < s.respClass i) :
    s.alarms [(i, c)] = (s.logged i c).zeroise (s.respClass i) := by
  obtain ⟨n, hn⟩ := Nat.exists_eq_add_of_le' h3
  rw [s.alarms_one, if_pos above, hn]
  rfl

theorem State.alarms_latchT1 (h1 : s.respClass i = 1) (force : s.inForce = 0 ∨ s.inForce = 2) : s.alarms [(i, c)] = (s.logged i c).latchT1 := by
  rw [s.alarms_one, h1]
  rcases force with none | two
  · rw [none]; rfl
  · rw [two]; rfl

theorem State.alarms_reset (h2 : s.respClass i = 2) (above : s.inForce < 2) :
    s.alarms [(i, c)] = { (s.logged i c).moduleReset 3 with bt.t2 := true }.startBoot := by
  rw [s.alarms_one, h2, if_pos above]; rfl

theorem State.alarms_logged (within : s.respClass i ≤ s.inForce) (other : s.inForce ≠ 2 ∨ s.respClass i ≠ 1) : s.alarms [(i, c)] = s.logged i c := by
  rw [s.alarms_one, if_neg (by omega), if_neg (by omega)]

/-- The alarm of one input in VIGIL (R299): T3 and above lose the MMK and latch T4, T1 and T2 pend. -/
theorem State.alarmsVigil_one :
    if 3 ≤ s.respClass i ∧ s.ob.latch < 4 then (s.alarmsVigil [(i, c)]).ob.latch = 4 ∧ (s.alarmsVigil [(i, c)]).ob.mmk = none
    else (s.alarmsVigil [(i, c)]).ob.latch = s.ob.latch ∧ (s.alarmsVigil [(i, c)]).ob.mmk = s.ob.mmk ∧
      (s.alarmsVigil [(i, c)]).ob.pendT1 = (s.ob.pendT1 || (s.respClass i == 1 && s.ob.latch == 0)) ∧
      (s.alarmsVigil [(i, c)]).ob.pendT2 = (s.ob.pendT2 || (s.respClass i == 2 && decide (s.ob.latch < 2))) := by
  have top : ([(i, c)].map fun f => s.respClass f.1).foldl max 0 = s.respClass i := by simp
  unfold State.alarmsVigil
  simp only [top]
  split
  next => exact ⟨rfl, rfl⟩
  next =>
    obtain ⟨latch, mmk, -, pendT1, pendT2, -⟩ := (State.posture_iff _ _).mp
      (s.logAlarm_posture i (s.respClass i) s.ob.latch c (decide ((s.respClass i = 1 ∨ s.respClass i = 2) ∧ s.ob.latch < s.respClass i)))
    refine ⟨latch, mmk, ?_, ?_⟩
    · exact congrArg₂ (· || ·) pendT1 (by rw [Bool.eq_iff_iff]; simp [and_comm])
    · exact congrArg₂ (· || ·) pendT2 (by rw [Bool.eq_iff_iff]; simp [and_comm])

end

/-! ## One sample (R285) -/

section
variable (a b : BitVec 8) (x : MonitorSample)

/-- The cycle's readings taken and its mesh pattern driven, before the sample is judged. -/
def State.sensed (s : State) (a b : BitVec 8) (x : MonitorSample) : State :=
  { s with ob := { s.ob with tempA := a.toNat, tempB := b.toNat, patterns := s.ob.patterns + b2n (decide (x.input.val ≤ 2)) } }

/-- The sample judged and its event conditions over. -/
def State.sampled (s : State) (a b : BitVec 8) (x : MonitorSample) : State := ((s.sensed a b x).sampleInput x).1.clearConds [x]

/-- The monitor of the sample's input after it, and whether it fires. -/
def State.judged (s : State) (a b : BitVec 8) (x : MonitorSample) : Monitor × Bool :=
  let u := s.sensed a b x
  (u.monitor x.input).step (u.filtN x.input) (u.filtM x.input) (u.present x)

theorem State.samples_lt {i : Nat} (h : s.samples i = true) : i < 22 := by
  by_contra past
  simp [State.samples, Nat.not_lt.mp past] at h

/-- One sample in input order is itself. -/
theorem samples_inOrder (h : x.input.val < 22) : ((List.range 22).flatMap fun i => [x].filter (·.input.val == i)) = [x] := by
  simp only [List.filter_cons, List.filter_nil]
  generalize x.input.val = n at h
  interval_cases n <;> rfl

/-- What fired in a cycle answered, as the power in use says (R296, R299). -/
def State.answerFired (xs : List MonitorSample) (r : State × List (Nat × Nat)) : State :=
  if r.2.isEmpty then r.1.clearConds xs
  else if (r.1.clearConds xs).ob.onMain then (r.1.clearConds xs).alarms r.2 else (r.1.clearConds xs).alarmsVigil r.2

/-- The evaluation cycle of one sample: what fires is answered as the power in use says, and the OBS page follows. -/
theorem exec_monitorSample_one (h : (s.sensed a b x).samples x.input = true) :
    exec (.monitorSample a b [x]) s = .next (State.mirror
      (if (s.judged a b x).2 = true then
        if (s.sampled a b x).ob.onMain = true then (s.sampled a b x).alarms [(x.input.val, (s.sensed a b x).causeOf x)]
        else (s.sampled a b x).alarmsVigil [(x.input.val, (s.sensed a b x).causeOf x)]
      else s.sampled a b x) s.mirrored) := by
  have meshed : ([x].any fun y => decide (y.input.val ≤ 2)) = decide (x.input.val ≤ 2) := by simp
  have sampled : (s.sensed a b x).sampleAll [x] =
      (((s.sensed a b x).sampleInput x).1, if (s.judged a b x).2 = true then [(x.input.val, (s.sensed a b x).causeOf x)] else []) := by
    simp only [State.sampleAll, List.foldl_cons, List.foldl_nil, h, if_true, List.nil_append]
    rfl
  have cycle : execMonitorSample a b [x] s = .next ((State.answerFired [x] ((s.sensed a b x).sampleAll [x])).mirror s.mirrored) := by
    unfold execMonitorSample
    simp only [meshed, samples_inOrder x (State.samples_lt _ h)]
    rfl
  change execMonitorSample a b [x] s = _
  rw [cycle, sampled]
  cases (s.judged a b x).2 <;> rfl

/-- Sampling changes nothing of what decides a response. -/
theorem State.sampled_posture : (s.sampled a b x).posture = s.posture := by
  unfold State.sampled State.sampleInput
  dsimp only
  split <;> rfl

/-- Only the sample's own monitor takes it. -/
theorem State.sampled_monitor (i : Nat) : (s.sampled a b x).monitor i = if i = x.input.val then (s.judged a b x).1 else s.monitor i := by
  have written : (s.sampled a b x).ob.monitors = Sparse.set {} s.ob.monitors x.input (s.judged a b x).1 := by
    unfold State.sampled State.sampleInput
    dsimp only
    split <;> rfl
  rw [State.monitor, written]
  split
  next same => rw [same, Sparse.get_set_same]
  next other => exact Sparse.get_set_ne _ _ _ _ (Ne.symm other)

/-- A sample that fires nothing writes no register and sends nothing. -/
theorem State.sampled_quiet (h : (s.judged a b x).2 = false) : (s.sampled a b x).regs = s.regs ∧ (s.sampled a b x).out = s.out := by
  have kept : ((s.sensed a b x).sampleInput x).1 = { s.sensed a b x with ob.monitors := Sparse.set {} s.ob.monitors x.input (s.judged a b x).1 } :=
    if_neg (by simpa [State.judged] using h)
  rw [State.sampled, kept]
  exact ⟨rfl, rfl⟩

end

end Sys2Proof.Machine
end

section
/-! SUPPORT. The release of a T1 latch, and power that fails and returns (R12, R282, R294, R302, R392, R452). -/
namespace Sys2Proof.Machine

variable (s : State)

/-! ## What a settled level leaves of the sleep phase and of the pair -/

@[simp] theorem State.raise_pr (p i : Nat) : (s.raise p i).pr = s.pr := by rw [(s.raise_onlyFields p i).2.2]
@[simp] theorem State.raise_pw (p i : Nat) : (s.raise p i).pw = s.pw := by rw [(s.raise_onlyFields p i).2.2]
@[simp] theorem State.settleLevel_pr : s.settleLevel.pr = s.pr := by unfold State.settleLevel; dsimp only; split <;> rfl
@[simp] theorem State.settleLevel_phase : s.settleLevel.pw.phase = s.pw.phase := by unfold State.settleLevel; dsimp only; split <;> rfl
@[simp] theorem State.settleTake_relinquishing : s.settleTake.pr.relinquishing = s.pr.relinquishing := by rw [s.settleTake_spec]
@[simp] theorem State.settleTake_pw : s.settleTake.pw = s.pw := by rw [s.settleTake_spec]
@[simp] theorem State.mirror_pr (was : List Nat) : (s.mirror was).pr = s.pr := by unfold State.mirror; split <;> rfl
@[simp] theorem State.mirror_pw (was : List Nat) : (s.mirror was).pw = s.pw := by unfold State.mirror; split <;> rfl

/-! ## OBS_ACK (R294) -/

/-- The T1 latch released, before the OBS page follows. -/
def State.unlatched (s : State) : State := (({ s with ob.latch := 0 }.set R.PWR_T1_CAP 0).raise pgOBS 2).settleLevel.settleTake

theorem State.unlatched_steady : Steady { s with ob := { s.ob with latch := 0 } } s.unlatched := .settleTake (.settleLevel (.raise (.set .refl)))

/-- A released latch is reported, and lifts its cap. -/
theorem State.unlatched_fields : s.unlatched.get R.PWR_T1_CAP = 0 ∧ s.unlatched.bit (R.BLK_INT_RAW pgOBS) 2 = true := by
  have cut : ({ s with ob.latch := 0 }.set R.PWR_T1_CAP 0).get R.PWR_T1_CAP = 0 := (State.get_set_same _ R.PWR_T1_CAP 0).trans (Nat.zero_mod _)
  have bit := ({ s with ob.latch := 0 }.set R.PWR_T1_CAP 0).raise_bit pgOBS (i := 2) (by decide)
  unfold State.unlatched
  rw [State.bit] at bit ⊢
  rw [State.settleTake_get, State.settleTake_get, State.settleLevel_keeps _ _ (by decide), State.settleLevel_keeps _ _ (by decide)]
  exact ⟨(State.raise_get_ne _ _ _ _ (by decide)).trans cut, bit⟩

/-- What else may stop the fetch stands as it stood. -/
theorem State.unlatched_waits : s.unlatched.pr.relinquishing = s.pr.relinquishing ∧ s.unlatched.pw.phase = s.pw.phase := by simp [State.unlatched]

/-- With no input of class T1 asserted, OBS_ACK releases a T1 latch. -/
theorem execObsAck_releases (responds : s.responds pgOBS = true) (latched : s.ob.latch = 1)
    (clear : ∀ i < 22, (s.monitor i).asserted = false ∨ s.respClass i ≠ 1) : execObsAck s = .next (s.unlatched.mirror s.mirrored) := by
  have free : ((List.range 22).any fun i => (s.monitor i).asserted && s.respClass i == 1) = false := by
    refine List.any_eq_false.mpr fun i hi => ?_
    rcases clear i (List.mem_range.mp hi) with quiet | other
    · simp [quiet]
    · simp [other]
  unfold execObsAck
  rw [if_neg (by simp [responds])]
  exact if_pos ⟨latched, by simp [free]⟩

/-- While an input of class T1 is asserted OBS_ACK changes nothing. -/
theorem execObsAck_held {i : Nat} (hi : i < 22) (asserted : (s.monitor i).asserted = true) (t1 : s.respClass i = 1) : execObsAck s = .next s := by
  have held : ((List.range 22).any fun i => (s.monitor i).asserted && s.respClass i == 1) = true :=
    List.any_eq_true.mpr ⟨i, List.mem_range.mpr hi, by simp [asserted, t1]⟩
  unfold execObsAck
  split
  · rfl
  · exact if_neg fun h => h.2 held

/-- OBS_ACK releases no other latch. -/
theorem execObsAck_unlatched (h : s.ob.latch ≠ 1) : execObsAck s = .next s := by
  unfold execObsAck
  split
  · rfl
  · exact if_neg fun k => h k.1

/-! ## SHADOW_SCAN (R289) -/

/-- A mismatch raises LOGIC's cause 1 for the input's next sample, where the gate's block is ready. -/
theorem State.shadowMismatch (ready : s.bit R.RST_BLK_READY 12 = true) :
    s.raiseInput (logicCond 1) = { s.severity 4 with ob := { s.ob with conds := putBit s.ob.conds 14 true } } := by
  have opens : (s.severity 4).condOpen 14 = true := by
    rw [State.condOpen, State.bit, (s.severity_spec 4).1 _ (by decide)]; exact ready
  have same : (s.severity 4).ob = s.ob := (Steady.severity Steady.refl).ob
  change (if (s.severity 4).condOpen 14 = true then { s.severity 4 with ob := { (s.severity 4).ob with conds := putBit (s.severity 4).ob.conds 14 true } }
    else s.severity 4) = _
  rw [if_pos opens, same]

/-! ## Sources of power (R12, R302) -/

/-- Supplied, Obsidian notes the source in use. -/
theorem State.backupNow_supplied {held : Bool} (h : s.ob.onMain = true ∨ held = true) :
    ∃ n, s.backupNow held = { s with ob := { s.ob with source := n } } := by
  have note : ∃ n, (if s.ob.backup = 0 then s else { s with ob.source := s.ob.backup }) = { s with ob := { s.ob with source := n } } := by
    split
    · exact ⟨s.ob.source, rfl⟩
    · exact ⟨_, rfl⟩
  obtain ⟨n, noted⟩ := note
  refine ⟨n, ?_⟩
  unfold State.backupNow
  simp only [noted]
  exact if_pos (h.imp id .inl)

/-- Without main power and any source, what Obsidian holds is lost. -/
theorem State.backupNow_lost (main : s.ob.onMain = false) (unsupplied : s.ob.backup = 0) : s.backupNow false = s.obsidianLost := by
  unfold State.backupNow
  simp only [unsupplied, if_true]
  exact if_neg (by simp [main])

theorem State.obsidianLost_spec : s.obsidianLost.ob.mmk = none ∧ s.obsidianLost.ob.log = [] ∧ s.obsidianLost.lc.burned = s.lc.burned := by
  have burned := congrArg LifeCycle.burned s.loseMmk_steady.lc
  exact ⟨rfl, rfl, burned⟩

section
variable (aux vbat cell low : Bool)

/-- The sources as they now stand, with the interrupts of a change and of a low cell. -/
def State.sourced (s : State) (aux vbat cell low : Bool) : State :=
  let u : State := { s with ob := { s.ob with aux, vbat, cell, cellLow := low } }
  let v := if u.ob.backup ≠ s.ob.backup then u.raise pgOBS 6 else u
  if low = true ∧ ¬ s.ob.cellLow = true then v.raise pgOBS 5 else v

theorem State.sourced_steady : Steady { s with ob := { s.ob with aux, vbat, cell, cellLow := low } } (s.sourced aux vbat cell low) :=
  .andIf (.andIf .refl (.raise .refl)) (.raise .refl)

theorem State.sourced_low (now : low = true) (before : s.ob.cellLow = false) : (s.sourced aux vbat cell low).bit (R.BLK_INT_RAW pgOBS) 5 = true := by
  unfold State.sourced
  dsimp only
  rw [if_pos ⟨now, by simp [before]⟩]
  exact State.raise_bit _ pgOBS (by decide)

theorem execBackupSourceChange_eq (held : Bool) :
    execBackupSourceChange aux vbat cell low held s = .next (((s.sourced aux vbat cell low).backupNow held).mirror s.mirrored) := rfl

end

/-- P12V lost: the core die reset and without power. -/
def State.unpowered (s : State) : State :=
  { s.moduleReset s.bt.cause with
    ob := { s.ob.coreReset with onMain := false }, bt := { (s.moduleReset s.bt.cause).bt with vigil := true, tap := 1, extest := false } }

/-- P12V lost with a backup source at hand, which Obsidian notes. -/
theorem execMainPowerLoss_held (h : s.ob.onMain = true) :
    ∃ n, execMainPowerLoss true s = .next { s.unpowered with ob := { s.unpowered.ob with source := n } } := by
  obtain ⟨n, noted⟩ := s.unpowered.backupNow_supplied (held := true) (.inr rfl)
  refine ⟨n, ?_⟩
  unfold execMainPowerLoss
  rw [if_neg (by simp [h])]
  exact congrArg _ noted

/-! ## Power that returns (R392) -/

/-- A power-on reset: time from 0, nothing held in reset for want of power, the sentinel's latch and MMK as they were. -/
theorem State.powerOnReset_spec (u : State) (h : Steady s.powerOnReset u) : ∃ t, u.startBoot = t ∧ t.ob = s.powerOnReset.ob ∧ t.bt.vigil = false ∧
    t.bt.vddLow = false ∧ t.quartz = 0 ∧ t.mode = .boot ∧ t.bt.cause = 1 ∧ t.bt.resetCnt = 0 := by
  obtain ⟨b, ⟨cause, cnt, vigil, low⟩, started⟩ := u.startBoot_spec
  refine ⟨_, rfl, started.ob.trans h.ob, ?_, ?_, started.quartz.trans h.quartz, started.mode.trans h.mode, ?_, ?_⟩ <;> rw [started.bt]
  · exact vigil.trans (congrArg Boot.vigil h.bt)
  · exact low.trans (congrArg Boot.vddLow h.bt)
  · exact cause.trans (congrArg Boot.cause h.bt)
  · exact cnt.trans (congrArg Boot.resetCnt h.bt)

/-- Main power back at Obsidian, and what pended in VIGIL noted. -/
def State.repowered (s : State) : State :=
  { s with ob := { s.ob with onMain := true, pendT2 := false, didT1 := s.ob.pendT1, didT2 := s.ob.pendT2 } }

/-- Main power back: a power-on reset, the report of what pended, and BOOT. -/
theorem execPowerOn_main (h : s.ob.onMain = false) :
    ∃ u : State, Steady s.repowered.powerOnReset u ∧ execPowerOn s = .next u.startBoot := by
  refine ⟨if s.ob.pendT1 = true ∨ s.ob.pendT2 = true then s.repowered.powerOnReset.raise pgOBS 3 else s.repowered.powerOnReset,
    .andIf .refl (.raise .refl), ?_⟩
  unfold execPowerOn
  rw [if_neg (by simp [h]), if_neg (by simp [h])]
  rfl

theorem execPowerOn_vdd (h : s.ob.onMain = true) (low : s.bt.vddLow = true) : execPowerOn s = .next s.powerOnReset.startBoot := by
  unfold execPowerOn
  rw [if_neg (by simp [low]), if_pos h]

/-- A T2's reset and the start of BOOT after it leave the latch and the MMK (R294, R297). -/
theorem State.resetT2_spec (b : Bool) : ∃ t, ({ s.moduleReset 3 with bt.t2 := b } : State).startBoot = t ∧ t.bt.cause = 3 ∧ t.mode = .boot ∧
    t.ob.latch = s.ob.latch ∧ t.ob.mmk = s.ob.mmk := by
  obtain ⟨c, ⟨cause, -⟩, started⟩ := ({ s.moduleReset 3 with bt.t2 := b } : State).startBoot_spec
  exact ⟨_, rfl, by rw [started.bt]; exact cause, started.mode, by rw [started.ob]; rfl, by rw [started.ob]; rfl⟩

end Sys2Proof.Machine
end

section
/-! SUPPORT. Obsidian's response to one sample that fires, class by class, and the statement about it (R290-R304). -/
namespace Sys2Proof.Machine

variable (s : State)

/-! ## One sample and its response -/

section
variable {s} {a b : BitVec 8} {x : MonitorSample}

/-- A sample that fires nothing leaves the sampled state, and the OBS page follows. -/
theorem exec_monitorSample_quiet (h : (s.sensed a b x).samples x.input = true) (quiet : (s.judged a b x).2 = false) :
    exec (.monitorSample a b [x]) s = .next ((s.sampled a b x).mirror s.mirrored) := by
  rw [exec_monitorSample_one s a b x h, if_neg (by simp [quiet])]

/-- A sample that fires on main power: its alarm on the sampled state. -/
theorem exec_monitorSample_alarm (h : (s.sensed a b x).samples x.input = true) (fires : (s.judged a b x).2 = true) (main : s.ob.onMain = true) :
    ∃ (u : State) (c : Nat), u.posture = s.posture ∧ exec (.monitorSample a b [x]) s = .next ((u.alarms [(x.input.val, c)]).mirror s.mirrored) := by
  obtain ⟨-, -, -, -, -, onMain, -⟩ := (State.posture_iff _ _).mp (s.sampled_posture a b x)
  refine ⟨s.sampled a b x, (s.sensed a b x).causeOf x, s.sampled_posture a b x, ?_⟩
  rw [exec_monitorSample_one s a b x h, if_pos fires, if_pos (onMain.trans main)]

/-- A sample that fires in VIGIL: its alarm on the sampled state. -/
theorem exec_monitorSample_vigil (h : (s.sensed a b x).samples x.input = true) (fires : (s.judged a b x).2 = true) (backup : s.ob.onMain = false) :
    ∃ (u : State) (c : Nat), u.posture = s.posture ∧ exec (.monitorSample a b [x]) s = .next ((u.alarmsVigil [(x.input.val, c)]).mirror s.mirrored) := by
  obtain ⟨-, -, -, -, -, onMain, -⟩ := (State.posture_iff _ _).mp (s.sampled_posture a b x)
  refine ⟨s.sampled a b x, (s.sensed a b x).causeOf x, s.sampled_posture a b x, ?_⟩
  rw [exec_monitorSample_one s a b x h, if_pos fires, if_neg (by simp [onMain, backup])]

end

section
variable {s} {u : State} (i c : Nat) (was : List Nat) (same : u.posture = s.posture)
include same

/-- T3 and T4 over a lower response (R290, R292). -/
theorem State.alarm_zeroises (h3 : 3 ≤ s.respClass i) (above : s.inForce < s.respClass i) :
    let t := (u.alarms [(i, c)]).mirror was
    t.ob.latch = s.respClass i ∧ (s.mode ≠ .boot → t.mode = .responded) ∧ t.wiped ∧ t.ob.rwgen = (s.ob.rwgen + 1) % 2 ^ 32 ∧
      (s.respClass i = 4 → t.ob.mmk = none) := by
  have cls := State.respClass_of_posture same i
  have force := State.inForce_of_posture same
  obtain ⟨-, -, rwgen, -, -, -, -, mode, -⟩ := (State.posture_iff _ _).mp ((u.logged_posture i c).trans same)
  obtain ⟨wiped, latched, moved, mmk, responded⟩ := (u.logged i c).zeroise_spec (s.respClass i)
  have page := ((u.logged i c).zeroise (s.respClass i)).mirror_steady was
  intro t
  have eq : t = ((u.logged i c).zeroise (s.respClass i)).mirror was := by
    rw [← cls, ← State.alarms_zeroise u i c (by rwa [cls]) (by rwa [cls, force])]
  rw [eq, page.ob, page.mode]
  exact ⟨latched, fun running => responded (by rwa [mode]), page.wiped wiped, by rw [moved, rwgen], mmk⟩

/-- T1, where nothing or a T2 is in force (R290, R321). -/
theorem State.alarm_latches (h1 : s.respClass i = 1) (force : s.inForce = 0 ∨ s.inForce = 2) :
    let t := (u.alarms [(i, c)]).mirror was
    t.ob.latch = max s.ob.latch 1 ∧ t.bit (R.BLK_INT_RAW pgOBS) 1 = true ∧ t.mode = s.mode ∧
      (t.ob.latch = 1 → t.get R.PWR_T1_CAP = 1 ∧ t.levelInForce = 0 ∧ (s.inReset = false → t.get R.PWR_EFF_PL = 0)) := by
  obtain ⟨latch, -, -, -, -, -, -, mode, bt⟩ := (State.posture_iff _ _).mp ((u.logged_posture i c).trans same)
  have free : (u.logged i c).inReset = s.inReset := by simp only [State.inReset, bt]
  obtain ⟨done, bit, caps⟩ := (u.logged i c).latchT1_spec
  have page := (u.logged i c).latchT1.mirror_steady was
  have get := fun f => (u.logged i c).latchT1.mirror_get was (f := f)
  intro t
  have eq : t = (u.logged i c).latchT1.mirror was := by
    rw [← State.alarms_latchT1 u i c ((State.respClass_of_posture same i).trans h1) (by rwa [State.inForce_of_posture same])]
  rw [eq, State.bit, get _ (by decide), get _ (by decide), get _ (by decide), ← State.bit, page.ob, page.mode]
  refine ⟨by rw [done.ob, ← latch], bit, done.mode.trans mode, fun latched => ?_⟩
  obtain ⟨capped, pl0⟩ := caps latched
  exact ⟨capped, if_pos (.inl (by rw [page.ob, latched])), fun out => pl0 (by rwa [free])⟩

/-- T2 over a lower response (R297). -/
theorem State.alarm_resets (h2 : s.respClass i = 2) (above : s.inForce < 2) :
    let t := (u.alarms [(i, c)]).mirror was
    t.bt.cause = 3 ∧ t.mode = .boot ∧ t.ob.latch = s.ob.latch ∧ t.ob.mmk = s.ob.mmk := by
  obtain ⟨latch, mmk, -⟩ := (State.posture_iff _ _).mp ((u.logged_posture i c).trans same)
  obtain ⟨v, started, cause, mode, latch', mmk'⟩ := (u.logged i c).resetT2_spec true
  have page := v.mirror_steady was
  intro t
  have eq : t = v.mirror was := by
    rw [← started, ← State.alarms_reset u i c ((State.respClass_of_posture same i).trans h2) (by rwa [State.inForce_of_posture same])]
  rw [eq, page.bt, page.mode, page.ob]
  exact ⟨cause, mode, latch'.trans latch, mmk'.trans mmk⟩

/-- An alarm under a response as high is logged (R296). -/
theorem State.alarm_logs (within : s.respClass i ≤ s.inForce) (other : s.inForce ≠ 2 ∨ s.respClass i ≠ 1) :
    ((u.alarms [(i, c)]).mirror was).posture = s.posture := by
  rw [State.alarms_logged u i c (by rwa [State.respClass_of_posture same, State.inForce_of_posture same])
    (by rwa [State.respClass_of_posture same, State.inForce_of_posture same])]
  exact ((State.mirror_steady _ was).posture.trans (u.logged_posture i c)).trans same

end

/-- Settles O41: the sample by whether it fires and on which power, the responses class by class, then OBS_ACK and the power events. -/
theorem obsidianRespondsToAlarms : Obligations.ObsidianRespondsToAlarms := by
  refine ⟨?quiet, ?zeroise, ?lower, ?vigil, fun _ => rfl, ?scan, ?release, fun i s hi => execObsAck_held s hi, fun s _ => execObsAck_unlatched s,
    ?stays, ?lost, ?returns, ?sources, ?vddLost, ?vddAgain, ?lostAgain, ?onAgain, ?vddReturns, ?unsupplied⟩
  case quiet =>
    intro a b x s u samples quiet
    obtain ⟨regs, out⟩ := s.sampled_quiet a b x quiet
    obtain ⟨latch, -, -, -, -, -, -, mode, -⟩ := (State.posture_iff _ _).mp (s.sampled_posture a b x)
    have page := (s.sampled a b x).mirror_steady s.mirrored
    refine ⟨_, exec_monitorSample_quiet samples quiet, ?_, fun i hi => ?_, ?_, page.mode.trans mode, fun f hf => ?_, ?_⟩
    · rw [State.monitor, page.ob]; exact (s.sampled_monitor a b x _).trans (if_pos rfl)
    · rw [State.monitor, page.ob]; exact (s.sampled_monitor a b x i).trans (if_neg hi)
    · rw [page.ob, latch]
    · rw [(s.sampled a b x).mirror_keeps _ f hf, State.get, regs]; rfl
    · rw [State.mirror_out, out]
  case zeroise =>
    intro a b x s u samples fires main h3 above h4
    obtain ⟨v, c, same, run⟩ := exec_monitorSample_alarm samples fires main
    obtain ⟨latch, mode, ⟨free, lines, keys, roots⟩, rwgen, mmk⟩ := State.alarm_zeroises _ c s.mirrored same h3 above
    exact ⟨_, run, latch, mode, free, lines, keys, rwgen, mmk, roots⟩
  case lower =>
    intro a b x s u samples fires main
    obtain ⟨v, c, same, run⟩ := exec_monitorSample_alarm samples fires main
    refine ⟨_, run, fun within other => ?_, State.alarm_latches _ c s.mirrored same, State.alarm_resets _ c s.mirrored same⟩
    obtain ⟨latch, -, -, -, -, -, -, mode, -⟩ := (State.posture_iff _ _).mp (State.alarm_logs _ c s.mirrored same within other)
    exact ⟨latch, mode⟩
  case vigil =>
    intro a b x s u samples fires backup
    obtain ⟨v, c, same, run⟩ := exec_monitorSample_vigil samples fires backup
    obtain ⟨latch, mmk, -, pendT1, pendT2, -⟩ := (State.posture_iff _ _).mp same
    have answered := v.alarmsVigil_one x.input c
    rw [State.respClass_of_posture same, latch, mmk, pendT1, pendT2] at answered
    refine ⟨_, run, ?_⟩
    rw [(State.mirror_steady _ _).ob]
    exact answered
  case scan =>
    intro s ready
    have run : exec (.shadowScan true) s = .next (s.raiseInput (logicCond 1)) := rfl
    rw [s.shadowMismatch ready] at run
    refine ⟨_, run, ?_, rfl, (Steady.severity Steady.refl).mode⟩
    rw [bitOf_testBit]; exact testBit_putBit _ _ _ _
  case release =>
    intro s responds latched clear
    have page := s.unlatched.mirror_steady s.mirrored
    have kept := s.unlatched_steady.trans page
    have get := fun f => s.unlatched.mirror_get s.mirrored (f := f)
    obtain ⟨cap, bit⟩ := s.unlatched_fields
    obtain ⟨relinquishing, phase⟩ := s.unlatched_waits
    refine ⟨_, execObsAck_releases s responds latched clear, by rw [kept.ob], by rw [get _ (by decide), cap], ?_, kept.mode, ?_⟩
    · rw [State.bit, get _ (by decide)]; exact bit
    · simp [State.fetchStopped, kept.ob, relinquishing, phase]
  case stays =>
    intro s latched
    refine ⟨?_, execBootEnd_latch s latched⟩
    obtain ⟨t, started, -, -, latch, -⟩ := s.resetT2_spec false
    exact (congrArg (·.ob.latch) started).trans (latch.trans latched)
  case lost =>
    intro s main
    obtain ⟨n, run⟩ := execMainPowerLoss_held s main
    exact ⟨_, run, rfl, rfl, rfl, rfl, rfl, rfl, rfl, rfl, rfl, rfl, rfl⟩
  case returns =>
    intro s backup
    obtain ⟨u, reset, run⟩ := execPowerOn_main s backup
    obtain ⟨t, started, ob, vigil, -, quartz, mode, cause, cnt⟩ := State.powerOnReset_spec _ u reset
    exact ⟨t, run.trans (congrArg _ started), by rw [ob]; rfl, vigil, quartz, mode, cause, cnt, by rw [ob]; rfl, by rw [ob]; rfl⟩
  case sources =>
    intro aux vbat cell low s main
    have seen := s.sourced_steady aux vbat cell low
    obtain ⟨n, noted⟩ := (s.sourced aux vbat cell low).backupNow_supplied (held := true) (.inr rfl)
    have run := execBackupSourceChange_eq s aux vbat cell low true
    rw [noted] at run
    have page := State.mirror_steady { s.sourced aux vbat cell low with ob := { (s.sourced aux vbat cell low).ob with source := n } } s.mirrored
    refine ⟨_, run, ?_, ?_, ?_, ?_, ?_, page.mode.trans seen.mode, ?low⟩
    case low =>
      intro now before
      rw [State.bit, State.mirror_get _ _ (by decide)]
      exact s.sourced_low aux vbat cell low now before
    all_goals rw [page.ob, seen.ob]
  case vddLost =>
    exact fun s on high => ⟨_, if_neg (by simp [on, high]), rfl, by simp [State.inReset], rfl, rfl, rfl⟩
  case vddAgain => exact fun s h => if_pos h
  case lostAgain => exact fun held s backup => if_pos (by simp [backup])
  case onAgain => exact fun s main high => if_pos ⟨main, by simp [high]⟩
  case vddReturns =>
    intro s main low
    obtain ⟨t, started, ob, -, high, quartz, mode, cause, -⟩ := s.powerOnReset_spec _ .refl
    exact ⟨t, (execPowerOn_vdd s main low).trans (congrArg _ started), high, quartz, cause, mode, by rw [ob]; rfl⟩
  case unsupplied =>
    intro low s backup
    have seen := s.sourced_steady false false false low
    have run := execBackupSourceChange_eq s false false false low false
    rw [State.backupNow_lost _ (by rw [seen.ob]; exact backup) (by rw [seen.ob]; rfl)] at run
    obtain ⟨mmk, log, burned⟩ := (s.sourced false false false low).obsidianLost_spec
    have page := (s.sourced false false false low).obsidianLost.mirror_steady s.mirrored
    exact ⟨_, run, by rw [page.ob, mmk], by rw [page.ob, log], by rw [page.lc, burned, seen.lc]⟩

end Sys2Proof.Machine
end

section
/-! SUPPORT. Register fields an operation spares, and what starting the units, leaving BOOT and starting a block keep (R381-R387). -/
namespace Sys2Proof.Machine

variable (s : State)

/-! ## Spared fields -/

/-- A field whose word lies apart from those of a list. -/
abbrev apart (fs : List Field) (f : Field) : Prop := ∀ g ∈ fs, f.key ≠ g.key

/-- The listed fields of `t` hold what those of `s` hold. -/
def spares (fs : List Field) (s t : State) : Prop := ∀ f ∈ fs, t.get f = s.get f

/-- A field beyond the addresses of a list lies apart from it. -/
theorem apart_beyond {fs : List Field} {f : Field} (a : Nat) (low : ∀ g ∈ fs, g.key < 32 * a) (h : a ≤ f.addr) : apart fs f := fun g hg => by
  have := low g hg
  have : 32 * f.addr ≤ f.key := Nat.le_add_right _ _
  omega

namespace spares
variable {fs : List Field} {s t u : State}

theorem refl : spares fs s s := fun _ _ => rfl
theorem trans (h : spares fs s t) (k : spares fs t u) : spares fs s u := fun f hf => (k f hf).trans (h f hf)
theorem mono {gs : List Field} (h : spares fs s t) (sub : ∀ f ∈ gs, f ∈ fs) : spares gs s t := fun f hf => h f (sub f hf)

/-- An update that writes no register. -/
theorem update (h : spares fs s t) (same : u.regs = t.regs) : spares fs s u := fun f hf => by
  rw [← h f hf, State.get, State.get, same]

theorem of_keeps {gs : List Field} (h : spares fs s t) (k : keeps gs t u) (off : ∀ g ∈ gs, apart fs g) : spares fs s u :=
  fun f hf => (k f fun g hg => off g hg f hf).trans (h f hf)

theorem set {f : Field} {v : Nat} (h : spares fs s t) (off : apart fs f) : spares fs s (t.set f v) :=
  h.trans fun g hg => t.get_set_ne f g v (off g hg)

theorem setBit {f : Field} {i : Nat} {b : Bool} (h : spares fs s t) (off : apart fs f) : spares fs s (t.setBit f i b) := h.set off
theorem raise {p i : Nat} (h : spares fs s t) (off : apart fs (R.BLK_INT_RAW p)) : spares fs s (t.raise p i) :=
  h.of_keeps (t.raise_onlyFields p i).1 (by simpa using off)

theorem severity {n : Nat} (h : spares fs s t) (off : apart fs R.AGT_OPEN_SEV) : spares fs s (t.severity n) :=
  h.of_keeps (t.severity_spec n).1 (by simpa using off)

theorem settleTake (h : spares fs s t) : spares fs s t.settleTake := h.trans fun f _ => t.settleTake_get f

theorem ite {c : Prop} [Decidable c] (h : spares fs s t) (k : spares fs s u) : spares fs s (if c then t else u) := by
  split <;> assumption

theorem andIf {c : Prop} [Decidable c] (h : spares fs s t) (k : spares fs t u) : spares fs s (if c then u else t) := (h.trans k).ite h

theorem foldl {α : Type} {f : State → α → State} {xs : List α} (h : spares fs s t) (hf : ∀ u a, a ∈ xs → spares fs u (f u a)) :
    spares fs s (xs.foldl f t) := by
  induction xs generalizing t with
  | nil => exact h
  | cons a xs ih => exact ih (h.trans (hf t a (by simp))) fun u b hb => hf u b (by simp [hb])

theorem bit {f : Field} (h : spares fs s t) (hf : f ∈ fs) (i : Nat) : t.bit f i = s.bit f i := by rw [State.bit, h f hf, State.bit]

end spares

/-- What every step of a fold keeps and the step of one item makes, the fold makes. -/
theorem foldl_makes {β ι : Type} (P : β → Prop) (f : β → ι → β) (keep : ∀ b i, P b → P (f b i)) {xs : List ι} {i : ι} (hi : i ∈ xs)
    (make : ∀ b, P (f b i)) (b : β) : P (xs.foldl f b) := by
  induction xs generalizing b with
  | nil => simp at hi
  | cons j xs ih =>
    rcases List.mem_cons.mp hi with rfl | later
    · exact foldl_keeps P f keep xs _ (make b)
    · exact ih later _

/-! ## The units as BOOT starts (R150, R184, R236, R381) -/

/-- A state apart from what starting its units writes besides the cipher units: registers, public-key units, noise cells, levels, the watch of the
takeover conditions and Agate. -/
def State.offUnits (s : State) : State := { s with regs := [], pk := {}, fl := {}, pr := {}, pw := {}, ag := {} }

/-- The fields BOOT's start writes first and the units' start spares. -/
def bootFields : List Field := [R.RST_BOOT_STAGE, R.RST_BOOT_ERR]

/-- `t` differs from `s` in what `offUnits` leaves out alone, with the fields of BOOT's start as they were. -/
structure UnitWork (s t : State) : Prop where
  off : t.offUnits = s.offUnits
  fields : spares bootFields s t

namespace UnitWork
variable {s t u : State}

theorem refl : UnitWork s s := ⟨rfl, .refl⟩
theorem trans (h : UnitWork s t) (k : UnitWork t u) : UnitWork s u := ⟨k.off.trans h.off, h.fields.trans k.fields⟩
theorem update (h : UnitWork s t) (same : u.offUnits = t.offUnits) (regs : u.regs = t.regs) : UnitWork s u :=
  ⟨same.trans h.off, h.fields.update regs⟩
theorem set {f : Field} {v : Nat} (h : UnitWork s t) (off : apart bootFields f) : UnitWork s (t.set f v) := ⟨h.off, h.fields.set off⟩
theorem setBit {f : Field} {i : Nat} {b : Bool} (h : UnitWork s t) (off : apart bootFields f) : UnitWork s (t.setBit f i b) := h.set off
theorem ite {c : Prop} [Decidable c] (h : UnitWork s t) (k : UnitWork s u) : UnitWork s (if c then t else u) := by split <;> assumption
theorem foldl {α : Type} {f : State → α → State} {xs : List α} (h : UnitWork s t) (hf : ∀ u a, UnitWork u (f u a)) :
    UnitWork s (xs.foldl f t) := foldl_keeps (UnitWork s) f (fun u a hu => hu.trans (hf u a)) xs t h

theorem settleTake (h : UnitWork s t) : UnitWork s t.settleTake := by
  rw [t.settleTake_spec]
  exact h.update rfl rfl

theorem severity {n : Nat} (h : UnitWork s t) : UnitWork s (t.severity n) :=
  ⟨by rw [(t.severity_spec n).2]; exact h.off, h.fields.severity (by decide)⟩

theorem settleLevel (h : UnitWork s t) : UnitWork s t.settleLevel :=
  h.ite ((h.set (f := R.PWR_EFF_PL) (by decide)).update rfl rfl)

theorem lockIslands {b : Bool} (h : UnitWork s t) : UnitWork s (t.lockIslands b) := .foldl h fun _ _ => .setBit .refl (by decide)
theorem lockFixed {is : List Nat} {b : Bool} (h : UnitWork s t) : UnitWork s (t.lockFixed is b) := .foldl h fun _ _ => .setBit .refl (by decide)

theorem setDomain {d : Nat} {b : Bool} (h : UnitWork s t) : UnitWork s (t.setDomain d b) := .ite (h.setBit (by decide)) (h.setBit (by decide))

theorem power {p : Power} (h : UnitWork s t) : UnitWork s { t with pw := p } := h.update rfl rfl

theorem urgentPl0 (h : UnitWork s t) : UnitWork s t.urgentPl0 := by
  have unlocked : UnitWork s ((t.settleLevel.set R.PWR_STEP 3).lockIslands false) := .lockIslands (.set h.settleLevel (by decide))
  unfold State.urgentPl0
  exact .ite h.settleLevel unlocked.power.power

theorem applyT1 (h : UnitWork s t) : UnitWork s t.applyT1 := by
  unfold State.applyT1
  exact .ite (.settleTake (.ite (h.set (by decide)) (.urgentPl0 (h.set (by decide))))) h

theorem settleCluster {n : Nat} (h : UnitWork s t) : UnitWork s (t.settleCluster n) := by
  unfold State.settleCluster
  exact .settleTake (.setBit (.ite h.severity h) (by decide))

theorem settlePkCluster {p : Nat} (h : UnitWork s t) : UnitWork s (t.settlePkCluster p) := by
  unfold State.settlePkCluster
  exact .settleTake (.setBit (.ite h.severity h) (by decide))

theorem resetPkUnits {p : Nat} (h : UnitWork s t) : UnitWork s (t.resetPkUnits p) :=
  .settlePkCluster (.foldl h fun _ _ => .update .refl rfl rfl)

theorem startCells (h : UnitWork s t) : UnitWork s t.startCells := .foldl h fun _ _ => .update .refl rfl rfl

theorem ci (h : UnitWork s t) : t.ci = s.ci := by
  change t.offUnits.ci = s.offUnits.ci
  rw [h.off]

end UnitWork

/-- The cipher units of a cluster reset, before its service state is brought up to date. -/
def State.clearUnits (s : State) (n : Nat) : State :=
  (((((List.range 4).foldl (fun s l => s.updLane n l fun _ => { svc := { katBusy := true } }) s).updHash n fun _ =>
    { svc := { katBusy := true } }).updFmt n fun _ => { katBusy := true }).setMoved n [])

/-- A state apart from its cipher units too. -/
def State.offCipher (s : State) : State := { s.offUnits with ci := {} }

theorem State.clearUnits_frame (n : Nat) : (s.clearUnits n).offCipher = s.offCipher ∧ (s.clearUnits n).regs = s.regs := by
  have lane : ∀ (t : State) (l : Nat), t.offCipher = s.offCipher ∧ t.regs = s.regs →
      (t.updLane n l fun _ => { svc := { katBusy := true } }).offCipher = s.offCipher ∧
        (t.updLane n l fun _ => { svc := { katBusy := true } }).regs = s.regs := fun _ _ h => h
  exact foldl_keeps (fun t : State => t.offCipher = s.offCipher ∧ t.regs = s.regs) _ lane (List.range 4) s ⟨rfl, rfl⟩

/-- A store with an entry that has a property has it still once some entry is overwritten by a value that has it. -/
theorem Sparse.get_upd_const {α : Type} [DecidableEq α] (P : α → Prop) {d : α} (x : α) (m : Sparse α) {k l : Nat} (hx : P x)
    (h : P (Sparse.get d m l) ∨ k = l) : P (Sparse.get d (Sparse.upd d m k fun _ => x) l) := by
  by_cases same : k = l
  · subst same; rwa [Sparse.get_upd_same]
  · rw [Sparse.get_upd_ne _ _ _ same]; exact h.resolve_right same

/-- The test of a unit runs (R151). -/
def State.testing (s : State) (n u : Nat) : Prop := (s.unitSvc n u).katBusy = true

/-- A unit whose test runs keeps running it through the reset of any cluster, and every unit runs it after the reset of its own. -/
theorem State.clearUnits_testing {m n u : Nat} (h : s.testing n u ∨ (m = n ∧ u < 6)) : (s.clearUnits m).testing n u := by
  unfold State.testing State.unitSvc at h ⊢
  split
  next lane =>
    rw [if_pos lane] at h
    have step : ∀ (t : State) (l : Nat), (t.lane n u).svc.katBusy = true ∨ laneKey m l = laneKey n u →
        ((t.updLane m l fun _ => { svc := { katBusy := true } }).lane n u).svc.katBusy = true := fun t l h =>
      Sparse.get_upd_const (fun x : Lane => x.svc.katBusy = true) { svc := { katBusy := true } } t.ci.lanes rfl h
    have keep := fun (t : State) (l : Nat) ht => step t l (.inl ht)
    rcases h with busy | ⟨rfl, -⟩
    · exact foldl_keeps (fun t : State => (t.lane n u).svc.katBusy = true) _ keep _ s busy
    · exact foldl_makes (fun t : State => (t.lane m u).svc.katBusy = true) _ keep (List.mem_range.mpr lane) (fun t => step t u (.inr rfl)) s
  next other =>
    rw [if_neg other] at h
    split
    next hash =>
      rw [if_pos hash] at h
      exact Sparse.get_upd_const (fun x : HashUnit => x.svc.katBusy = true) { svc := { katBusy := true } } s.ci.hash rfl (h.imp_right And.left)
    next format =>
      rw [if_neg format] at h
      exact Sparse.get_upd_const (fun x : Service => x.katBusy = true) { katBusy := true } s.ci.fmt rfl (h.imp_right And.left)

theorem UnitWork.testing {s t : State} (h : UnitWork s t) {n u : Nat} (k : s.testing n u) : t.testing n u := by
  simpa only [State.testing, State.unitSvc, State.lane, State.hashUnit, State.fmtUnit, h.ci] using k

theorem UnitWork.resetUnits {n : Nat} : UnitWork (s.clearUnits n) (s.resetUnits n) := .settleCluster .refl

theorem State.resetUnits_testing {m n u : Nat} (h : s.testing n u ∨ (m = n ∧ u < 6)) : (s.resetUnits m).testing n u :=
  (UnitWork.resetUnits s).testing (s.clearUnits_testing h)

/-- All cipher clusters reset. -/
def State.resetClusters (s : State) : State := (List.range 16).foldl State.resetUnits s

theorem State.resetClusters_testing {n u : Nat} (hn : n < 16) (hu : u < 6) : s.resetClusters.testing n u :=
  foldl_makes (fun t : State => t.testing n u) State.resetUnits (fun t _ h => t.resetUnits_testing (.inl h)) (List.mem_range.mpr hn)
    (fun t => t.resetUnits_testing (.inr ⟨rfl, hu⟩)) s

theorem UnitWork.offCipher {s t : State} (h : UnitWork s t) : t.offCipher = s.offCipher := congrArg (fun u : State => { u with ci := {} }) h.off

theorem State.resetClusters_frame : s.resetClusters.offCipher = s.offCipher ∧ spares bootFields s s.resetClusters := by
  refine foldl_keeps (fun t : State => t.offCipher = s.offCipher ∧ spares bootFields s t) State.resetUnits (fun t n h => ?_) _ s ⟨rfl, .refl⟩
  obtain ⟨off, fields⟩ := h
  obtain ⟨cleared, regs⟩ := t.clearUnits_frame n
  have settled := UnitWork.resetUnits t (n := n)
  exact ⟨settled.offCipher.trans (cleared.trans off), (fields.update regs).trans settled.fields⟩

/-! ## The start of BOOT (R381, R382) -/

/-- The life-cycle word decoded: INVALID is an error, SCRAPPED one after the erasure of the flash is finished (R309, R312). -/
def State.wordDecoded (s : State) : State :=
  if s.lcState = 0xF then (s.set R.RST_BOOT_ERR 2).raise pgLCS 0 else if s.lcState = 7 then s.eraseFlash.set R.RST_BOOT_ERR 3 else s

/-- The debug domain on where debug is open, and every island locked (R382). -/
def State.islandsLocked (s : State) : State :=
  ((if s.lcState = 1 ∨ s.lcState = 6 then s.setDomain 44 true else s).lockIslands true).lockFixed [24, 25, 26, 27, 28, 29, 30] true

/-- The islands locked and the units started. -/
def State.unitsStarted (s : State) : State := ((List.range 8).foldl (fun s p => s.resetPkUnits p) s.islandsLocked.resetClusters).startCells.applyT1

theorem State.startBoot_free (h : s.inReset = false) : s.startBoot = s.bootBegun.wordDecoded.unitsStarted := if_neg (by simp [h])

theorem State.startBoot_held (h : s.inReset = true) : s.startBoot = s := if_pos h

/-- Every unit of the cipher clusters is tested, and nothing but units and their registers is touched. -/
theorem State.unitsStarted_spec : s.unitsStarted.offCipher = s.offCipher ∧ spares bootFields s s.unitsStarted ∧
    ∀ n < 16, ∀ u < 6, s.unitsStarted.testing n u := by
  have locked : UnitWork s s.islandsLocked := .lockFixed (.lockIslands (.ite (.setDomain .refl) .refl))
  unfold State.unitsStarted
  generalize s.islandsLocked = u at locked
  have rest : UnitWork u.resetClusters ((List.range 8).foldl (fun s p => s.resetPkUnits p) u.resetClusters).startCells.applyT1 :=
    .applyT1 (.startCells (.foldl .refl fun _ _ => .resetPkUnits .refl))
  obtain ⟨reset, fields⟩ := u.resetClusters_frame
  exact ⟨rest.offCipher.trans (reset.trans locked.offCipher), (locked.fields.trans fields).trans rest.fields,
    fun n hn k hk => rest.testing (u.resetClusters_testing hn hk)⟩

/-- The start-up state as BOOT starts: when, and with which latch; a SCRAPPED module has no firmware. -/
def State.bootRecord (s : State) : Boot :=
  if s.lcState ≠ 0xF ∧ s.lcState = 7 then
    { s.bt with released := s.quartz, latched := s.ob.latch != 0, slotA := none, slotB := none, identity := false }
  else { s.bt with released := s.quartz, latched := s.ob.latch != 0 }

/-- A field set holds the value, where it fits. -/
theorem State.get_set_fits {f : Field} {v : Nat} (fits : v < 2 ^ f.width) : (s.set f v).get f = v := by
  rw [State.get_set_same, Nat.mod_eq_of_lt fits]

/-- An interrupt that is not enabled sends nothing. -/
theorem State.raise_disabled {p i : Nat} (off : s.bit (R.BLK_INT_EN p) i = false) : s.raise p i = s.setBit (R.BLK_INT_RAW p) i true := by
  have apart : (R.BLK_INT_RAW p).key ≠ (R.BLK_INT_EN p).key := by simp only [Field.key, R.BLK_INT_RAW, R.BLK_INT_EN]; omega
  unfold State.raise
  rw [State.bit] at off
  simp [State.bit, State.get_setBit_ne _ _ _ _ _ apart, off]

theorem State.wordDecoded_spec : spares [R.RST_BOOT_STAGE] s s.wordDecoded ∧ (s.lcState = 0xF → s.wordDecoded.get R.RST_BOOT_ERR = 2) ∧
    (s.lcState = 7 → s.wordDecoded.get R.RST_BOOT_ERR = 3) ∧ s.wordDecoded.ge = s.ge ∧
    (s.bit (R.BLK_INT_EN pgLCS) 0 = false → s.wordDecoded.hq = s.hq) := by
  unfold State.wordDecoded
  split
  next invalid =>
    have raised := ((s.set R.RST_BOOT_ERR 2).raise_onlyFields pgLCS 0).2.2
    refine ⟨.raise (.set .refl (by decide)) (by decide), fun _ => ?_, fun scrapped => by omega, by rw [raised]; rfl, fun off => ?_⟩
    · rw [State.raise_get_ne _ _ _ _ (by decide)]
      exact s.get_set_fits (by decide)
    · rw [State.raise_disabled _ (by rwa [State.bit, s.get_set_ne _ _ _ (by decide)])]
      rfl
  next valid =>
    split
    next scrapped =>
      exact ⟨.set (.update .refl rfl) (by decide), fun invalid => absurd invalid valid, fun _ => s.eraseFlash.get_set_fits (by decide), rfl,
        fun _ => rfl⟩
    next live => exact ⟨.refl, fun invalid => absurd invalid valid, fun scrapped => absurd scrapped live, rfl, fun _ => rfl⟩

theorem State.bootBegun_bt : s.bootBegun.wordDecoded.bt = s.bootRecord := by
  have state : s.bootBegun.lcState = s.lcState := rfl
  unfold State.wordDecoded State.bootRecord
  rw [state]
  by_cases invalid : s.lcState = 0xF
  · rw [if_pos invalid, if_neg (fun h => h.1 invalid), ((State.raise_onlyFields _ _ _).2.2)]; rfl
  · by_cases scrapped : s.lcState = 7
    · rw [if_neg invalid, if_pos scrapped, if_pos ⟨invalid, scrapped⟩]; rfl
    · rw [if_neg invalid, if_neg scrapped, if_neg (fun h => scrapped h.2)]; rfl

/-- What the start of BOOT leaves, outside a reset. -/
theorem State.startBoot_starts (h : s.inReset = false) :
    s.startBoot.bt = s.bootRecord ∧ s.startBoot.get R.RST_BOOT_STAGE = 1 ∧ (s.lcState = 0xF → s.startBoot.get R.RST_BOOT_ERR = 2) ∧
      (s.lcState = 7 → s.startBoot.get R.RST_BOOT_ERR = 3) ∧ s.startBoot.ge = s.ge ∧
      (s.bit (R.BLK_INT_EN pgLCS) 0 = false → s.startBoot.hq = s.hq) ∧ ∀ n < 16, ∀ u < 6, s.startBoot.testing n u := by
  obtain ⟨stage, invalid, scrapped, ge, hq⟩ := s.bootBegun.wordDecoded_spec
  obtain ⟨off, fields, tested⟩ := s.bootBegun.wordDecoded.unitsStarted_spec
  have begun : s.bootBegun.get R.RST_BOOT_STAGE = 1 := s.get_set_fits (f := R.RST_BOOT_STAGE) (v := 1) (by decide)
  have errors := fields R.RST_BOOT_ERR (by decide)
  rw [s.startBoot_free h]
  refine ⟨(congrArg State.bt off).trans s.bootBegun_bt, ?_, fun f => errors.trans (invalid f), fun f => errors.trans (scrapped f),
    (congrArg State.ge off).trans ge, fun disabled => (congrArg State.hq off).trans (hq ?_), tested⟩
  · exact (fields R.RST_BOOT_STAGE (by decide)).trans ((stage _ (by decide)).trans begun)
  · rw [State.bit] at disabled ⊢
    exact (congrArg (bitOf · 0) (s.get_set_ne R.RST_BOOT_STAGE _ 1 (by decide))).trans disabled

end Sys2Proof.Machine
end

section
/-! SUPPORT. What a block does as it starts leaves mode, power, time and the fields a wake waits for (R384, R332). -/
namespace Sys2Proof.Machine

variable (s : State)

/-- The fields a wake waits for, and the watchdog's period. -/
def wakeFields : List Field := [R.RST_BLK_READY, R.RST_WDOG_MS, R.PWR_STEP, R.PWR_CUR_PL, R.PWR_EFF_PL, R.PWR_PL_FAIL]

/-- A field beyond the RST page is none of those a wake waits for. -/
theorem wakeFields_apart {f : Field} (h : 0x4000 ≤ f.addr) : apart wakeFields f := apart_beyond 0x4000 (by decide) h

/-- Registers, mode, power and time. -/
def State.clockwork (s : State) := (s.regs, s.mode, s.pw, s.quartz)

/-- `t` has mode, power, time and the fields a wake waits for as `s`. -/
structure Undisturbed (s t : State) : Prop where
  fields : spares wakeFields s t
  mode : t.mode = s.mode
  pw : t.pw = s.pw
  quartz : t.quartz = s.quartz

namespace Undisturbed
variable {s t u : State}

theorem refl : Undisturbed s s := ⟨.refl, rfl, rfl, rfl⟩

theorem trans (h : Undisturbed s t) (k : Undisturbed t u) : Undisturbed s u :=
  ⟨h.fields.trans k.fields, k.mode.trans h.mode, k.pw.trans h.pw, k.quartz.trans h.quartz⟩

/-- An update of other parts of the state. -/
theorem update (h : Undisturbed s t) (same : u.clockwork = t.clockwork) : Undisturbed s u := by
  simp only [State.clockwork, Prod.mk.injEq] at same
  obtain ⟨regs, mode, pw, quartz⟩ := same
  exact h.trans ⟨.update .refl regs, mode, pw, quartz⟩

theorem set {f : Field} {v : Nat} (h : Undisturbed s t) (off : apart wakeFields f) : Undisturbed s (t.set f v) :=
  h.trans ⟨.set .refl off, rfl, rfl, rfl⟩

theorem setBit {f : Field} {i : Nat} {b : Bool} (h : Undisturbed s t) (off : apart wakeFields f) : Undisturbed s (t.setBit f i b) := h.set off

theorem raise {p i : Nat} (h : Undisturbed s t) (off : apart wakeFields (R.BLK_INT_RAW p)) : Undisturbed s (t.raise p i) :=
  h.trans ⟨.raise .refl off, (Steady.raise .refl).mode, t.raise_pw p i, (Steady.raise .refl).quartz⟩

theorem ite {c : Prop} [Decidable c] (h : Undisturbed s t) (k : Undisturbed s u) : Undisturbed s (if c then t else u) := by split <;> assumption

theorem foldl {α : Type} {f : State → α → State} {xs : List α} (h : Undisturbed s t) (hf : ∀ u, ∀ a ∈ xs, Undisturbed u (f u a)) :
    Undisturbed s (xs.foldl f t) := by
  induction xs generalizing t with
  | nil => exact h
  | cons a xs ih => exact ih (h.trans (hf t a (by simp))) fun u b hb => hf u b (by simp [hb])

theorem bootStage {n : Nat} (h : Undisturbed s t) : Undisturbed s (t.bootStage n) := .ite (.set h (by decide)) h

theorem useFirmware {b : Bool} {v : Nat} (h : Undisturbed s t) :
    Undisturbed s { (t.set R.RST_FW_SLOT (b2n b)).set R.SCHED_CORE_FW (if b then 0xFF else 0) with bt.fwVersion := v } :=
  .update (.set (.set h (by decide)) (by decide)) rfl

theorem chooseFirmware (h : Undisturbed s t) : Undisturbed s t.chooseFirmware := by
  unfold State.chooseFirmware
  split
  · exact .ite h.useFirmware h.useFirmware
  · exact h.useFirmware
  · exact h.useFirmware
  · exact .ite (.set h (by decide)) h

theorem startApplet {a : AppletHeader} (h : Undisturbed s t) : Undisturbed s (t.startApplet a) := by
  unfold State.startApplet
  dsimp only
  generalize hu : List.foldl _ t _ = u
  have threads : Undisturbed s u := hu ▸ .foldl h fun _ _ _ => .update .refl rfl
  exact .ite (.raise h (by decide)) (.update (.setBit threads (f := R.SCHED_APPLET_LOADED) (by decide)) rfl)

theorem loadApplet {bs : List Byte} (h : Undisturbed s t) : Undisturbed s (t.loadApplet bs) := by
  unfold State.loadApplet
  split
  · exact .ite h.startApplet (.raise h (by decide))
  · exact .raise h (by decide)

theorem restoreCurve {i : Nat} {bs : List Byte} (h : Undisturbed s t) : Undisturbed s (t.restoreCurve i bs) :=
  .ite (h.update rfl) (.raise (h.update rfl) (by decide))

theorem loadImages {f : Flash} (h : Undisturbed s t) : Undisturbed s (t.loadImages f) :=
  .foldl (h.update rfl) fun _ _ _ => .restoreCurve .refl

theorem settlePins (h : Undisturbed s t) : Undisturbed s t.settlePins := by
  unfold State.settlePins
  exact .ite (.raise (.set h (by decide)) (by decide)) (.set h (by decide))

theorem openWindow (h : Undisturbed s t) : Undisturbed s t.openWindow := by
  unfold State.openWindow
  have opened : Undisturbed s (t.set R.AGT_OPEN_SEV 0) := .set h (by decide)
  exact opened.update rfl

theorem loadRegs {f : Flash} {fields : List Field} (h : Undisturbed s t) (off : ∀ r ∈ fields, apart wakeFields r) :
    Undisturbed s (t.loadRegs f fields) := .foldl h fun _ r hr => .set .refl (off r hr)

theorem loadEntries {f : Flash} (h : Undisturbed s t) : Undisturbed s (t.loadEntries f) := by
  unfold State.loadEntries
  dsimp only
  generalize hu : List.foldl _ t _ = u
  have entries : Undisturbed s u := hu ▸ .foldl h fun _ _ _ => .update .refl rfl
  exact .set (.set (.set (entries.update rfl) (by decide)) (by decide)) (by decide)

end Undisturbed

/-- No guarded register is one that a wake waits for. -/
theorem guardedFields_apart {f : Field} (h : f ∈ guardedFields) : apart wakeFields f := by
  rcases List.mem_append.mp h with single | rule
  · fin_cases single <;> decide
  · obtain ⟨m, -, inMpu⟩ := List.mem_flatMap.mp rule
    obtain ⟨r, -, field⟩ := List.mem_flatMap.mp inMpu
    refine wakeFields_apart ?_
    simp only [List.mem_cons, List.not_mem_nil, or_false] at field
    rcases field with rfl | rfl | rfl | rfl | rfl | rfl | rfl | rfl | rfl | rfl <;>
      simp only [R.MPU_BASE_LO, R.MPU_BASE_HI, R.MPU_EN, R.MPU_R, R.MPU_W, R.MPU_X, R.MPU_ANY, R.MPU_TAG, R.MPU_LIMIT_LO, R.MPU_LIMIT_HI] <;> omega

namespace Undisturbed
variable {s t u : State}

theorem loadCommitted (h : Undisturbed s t) : Undisturbed s t.loadCommitted := by
  have regs : Undisturbed s ({ t with gt.flash := t.userRegion }.loadRegs t.userRegion guardedFields) :=
    .loadRegs (h.update rfl) fun _ => guardedFields_apart
  unfold State.loadCommitted
  dsimp only
  generalize State.loadRegs _ _ guardedFields = u at regs
  have entries : Undisturbed s (u.loadEntries t.userRegion) := regs.loadEntries
  generalize u.loadEntries t.userRegion = v at entries
  have epoch : ∀ m, apart wakeFields (R.MPU_EPOCH m) := fun m => wakeFields_apart (by simp only [R.MPU_EPOCH]; omega)
  generalize hw : List.foldl _ _ (List.range 14) = w
  have loaded : Undisturbed s w :=
    hw ▸ .foldl (.set (.set (.set (entries.update rfl) (by decide)) (by decide)) (by decide)) fun _ m _ => .set .refl (epoch m)
  exact loaded.update rfl

/-- What a block does as it starts disturbs nothing a wake waits for. -/
theorem blockStarts (b : Nat) : Undisturbed s (s.blockStarts b) := by
  unfold State.blockStarts
  split
  · exact .update .refl rfl
  · exact .bootStage .refl
  · exact .bootStage .refl
  · exact .ite (.bootStage (.chooseFirmware .refl)) .refl
  · exact .ite (.foldl (.update .refl rfl) fun _ _ _ => .loadApplet .refl) .refl
  · exact .openWindow (.update .refl rfl)
  · exact .ite (.bootStage (.loadCommitted .refl)) .refl
  · exact .ite (.settlePins (.loadImages (.update .refl rfl))) .refl
  · exact .refl

end Undisturbed

/-! ## BLOCK_READY (R384) and the end of a wake (R332) -/

/-- A block started and its bit set. -/
def State.blockUp (s : State) (b : Nat) : State := (s.blockStarts b).setBit R.RST_BLK_READY b true

theorem State.blockUp_ready (b : Nat) {j : Nat} (hj : j < 20) : (s.blockUp b).bit R.RST_BLK_READY j = (s.bit R.RST_BLK_READY j || j == b) := by
  rw [State.blockUp, State.bit_setBit _ _ _ _ _ hj, (Undisturbed.blockStarts b).fields.bit (by decide)]
  by_cases same : j = b <;> simp [same]

theorem State.blockUp_fields (b : Nat) : spares wakeFields.tail s (s.blockUp b) :=
  .setBit ((Undisturbed.blockStarts b).fields.mono fun _ => List.mem_of_mem_tail) (by decide)

theorem State.blockUp_mode (b : Nat) : (s.blockUp b).mode = s.mode := (Undisturbed.blockStarts b).mode
theorem State.blockUp_pw (b : Nat) : (s.blockUp b).pw = s.pw := (Undisturbed.blockStarts b).pw
theorem State.blockUp_quartz (b : Nat) : (s.blockUp b).quartz = s.quartz := (Undisturbed.blockStarts b).quartz

theorem State.blockUp_wdogNs (b : Nat) : (s.blockUp b).wdogNs = s.wdogNs := by
  rw [State.wdogNs, s.blockUp_fields b R.RST_WDOG_MS (by decide), State.wdogNs]

theorem State.blockUp_levelSettled (b : Nat) : (s.blockUp b).levelSettled = s.levelSettled := by
  have fields := s.blockUp_fields b
  simp only [State.levelSettled, State.levelFailed, fields R.PWR_STEP (by decide), fields R.PWR_CUR_PL (by decide),
    fields R.PWR_EFF_PL (by decide), fields R.PWR_PL_FAIL (by decide), s.blockUp_pw]

/-- A block that may start does. -/
theorem execBlockReady_starts (b : Fin 20) (free : s.inReset = false)
    (due : (s.get R.RST_BOOT_STAGE ≠ 0 ∧ s.mode = .boot) ∨ s.pw.phase = .waking) (down : s.bit R.RST_BLK_READY b = false)
    (may : s.mayBeReady b = true) : exec (.blockReady b) s = .next (s.blockUp b).settleWake := by
  refine if_neg ?_
  rcases due with ⟨begun, boot⟩ | waking
  · simp [free, down, may, begun, boot]
  · simp [free, down, may, waking]

theorem execBlockReady_waits (b : Fin 20) (h : s.inReset = true ∨ s.bit R.RST_BLK_READY b = true ∨ s.mayBeReady b = false) :
    exec (.blockReady b) s = .next s := by
  refine if_pos ?_
  rcases h with h | h | h <;> simp [h]

theorem State.settleWake_stays (h : s.pw.phase ≠ .waking ∨ s.levelSettled = false) : s.settleWake = s := by
  refine if_neg fun ⟨waking, _, settled⟩ => ?_
  rcases h with h | h
  · exact h waking
  · simp [h] at settled

/-- A field all of whose bits stand is full. -/
theorem State.get_full {f : Field} (h : ∀ j < f.width, s.bit f j = true) : s.get f = 2 ^ f.width - 1 := by
  refine Nat.eq_of_testBit_eq fun j => ?_
  have below : s.get f < 2 ^ f.width := Nat.mod_lt _ (Nat.two_pow_pos _)
  rw [Nat.testBit_two_pow_sub_one]
  by_cases hj : j < f.width
  · rw [← bitOf_testBit, decide_eq_true hj]
    exact h j hj
  · simp [hj, Nat.testBit_lt_two_pow (below.trans_le (Nat.pow_le_pow_right (by decide) (Nat.not_lt.mp hj)))]

/-- A wake that ends (R332, R336): awake, S0, its interrupt, and the watchdog from now. -/
theorem State.settleWake_ends (waking : s.pw.phase = .waking) (ready : s.get R.RST_BLK_READY = 0xFFFFF) (settled : s.levelSettled = true) :
    s.settleWake.pw.phase = .awake ∧ s.settleWake.get R.PWR_SLEEP = 0 ∧ s.settleWake.bit (R.BLK_INT_RAW pgPWR) 3 = true ∧
      s.settleWake.bt.wdogDue = some (s.quartz + s.wdogNs) := by
  generalize hu : ((s.set R.PWR_SLEEP 0).set R.PWR_WAKE_LAST_US (min 65535 ((s.quartz - s.pw.wokeAt) / 1000))) = u
  have sleep : u.get R.PWR_SLEEP = 0 := by rw [← hu, State.get_set_ne _ _ _ _ (by decide)]; exact s.get_set_fits (by decide)
  have woken : s.settleWake = ({ u.raise pgPWR 3 with
      pw := { (u.raise pgPWR 3).pw with phase := .awake, s3 := false }, pr.kept := none } : State).startWatchdog.settleTake := by
    rw [← hu]; exact if_pos ⟨waking, ready, settled⟩
  have fields : spares [R.RST_WDOG_MS] s (u.raise pgPWR 3) := .raise (hu ▸ .set (.set .refl (by decide)) (by decide)) (by decide)
  have quartz : (u.raise pgPWR 3).quartz = s.quartz := (Steady.raise (hu ▸ .set (.set .refl))).quartz
  have wdog : (u.raise pgPWR 3).wdogNs = s.wdogNs := by rw [State.wdogNs, fields _ (by decide), State.wdogNs]
  rw [woken]
  refine ⟨by rw [State.settleTake_pw]; rfl, ?_, ?_, ?_⟩
  · rw [State.settleTake_get]; exact (State.raise_get_ne _ _ _ _ (by decide)).trans sleep
  · rw [State.bit, State.settleTake_get]; exact u.raise_bit pgPWR (by decide)
  · rw [(Steady.settleTake Steady.refl).bt, ← quartz, ← wdog]; rfl

end Sys2Proof.Machine
end

section
/-! SUPPORT. A mode entered and BOOT left keep the stage, the role and the interrupt of the end of BOOT (R384, R386, R387, R427). -/
namespace Sys2Proof.Machine

variable (s : State)

/-- The stage of BOOT, the role in the pair and the interrupts of RST. -/
def modeFields : List Field := [R.RST_BOOT_STAGE, R.PAIR_ROLE, R.BLK_INT_RAW pgRST]

/-- The pages of the links, Agate, the media and the queues lie beyond them. -/
theorem modeFields_apart {f : Field} (h : 0x71000 ≤ f.addr) : apart modeFields f := apart_beyond 0x71000 (by decide) h

theorem linkRaw_apart (k : Nat) : apart modeFields (R.BLK_INT_RAW (pgFVL k)) := modeFields_apart (by simp only [R.BLK_INT_RAW, pgFVL]; omega)
theorem linkState_apart (k : Nat) : apart modeFields (R.FVL_STATE k) := modeFields_apart (by simp only [R.FVL_STATE]; omega)
theorem linkWrapped_apart (k : Nat) : apart modeFields (R.FVL_WRAPPED k) := modeFields_apart (by simp only [R.FVL_WRAPPED]; omega)
theorem linkTx_apart (k : Nat) : apart modeFields (R.FVL_TX_FLITS k) := modeFields_apart (by simp only [R.FVL_TX_FLITS]; omega)

namespace spares
variable {s t u : State}

/-! ## Doorbells and links as a mode is entered -/

theorem emit {fs : List Field} {o : Output} (h : spares fs s t) : spares fs s (t.emit o) := h.update rfl
theorem cross {fs : List Field} {i : Nat} (h : spares fs s t) : spares fs s (t.cross i) := h.update rfl
theorem updLink {fs : List Field} {k : Nat} {f : Link → Link} (h : spares fs s t) : spares fs s (t.updLink k f) := h.update rfl
theorem count {fs : List Field} {f : Field} {d : Nat} (h : spares fs s t) (off : apart fs f) : spares fs s (t.count f d) := h.set off

theorem haltQp {p q e : Nat} (h : spares modeFields s t) : spares modeFields s (t.haltQp p q e) := by
  have marked : spares modeFields s (t.updQp p q fun x => { x with qstate := .halted, qerr := e }) := h.update rfl
  have raised : spares modeFields s (if p = 0 then (t.updQp p q fun x => { x with qstate := .halted, qerr := e }).raise pgHQE 0
      else t.updQp p q fun x => { x with qstate := .halted, qerr := e }) := .ite (.raise marked (by decide)) marked
  unfold State.haltQp
  dsimp only
  exact .of_keeps (.update (.severity raised (by decide)) rfl) (State.partEvent_spec _ _ _).1 (by simp)

theorem serveDoorbells {p q : Nat} (h : spares modeFields s t) : spares modeFields s (t.serveDoorbells p q) := by
  unfold State.serveDoorbells
  exact .ite h (.ite (.haltQp (h.update rfl)) (.ite (.haltQp (h.update rfl)) (.ite (.haltQp (h.update rfl)) (h.update rfl))))

theorem serveAllDoorbells (h : spares modeFields s t) : spares modeFields s t.serveAllDoorbells := .foldl h fun _ _ _ => .serveDoorbells .refl

theorem sendFlit {k type vc : Nat} {last : Bool} {bs : List Byte} (h : spares modeFields s t) :
    spares modeFields s (t.sendFlit k type vc last bs) := by
  unfold State.sendFlit
  exact .emit (.ite h.updLink (.count h.updLink (linkTx_apart k)))

theorem sendOn {k : Nat} {o : Output} (h : spares modeFields s t) : spares modeFields s (t.sendOn k o) := by
  unfold State.sendOn
  exact .ite (.emit (.foldl h.cross fun _ _ _ => .sendFlit .refl)) h

theorem wrapRing {k : Nat} (h : spares modeFields s t) : spares modeFields s (t.wrapRing k) :=
  .ite (.raise (.set h (linkWrapped_apart k)) (linkRaw_apart k)) h

theorem settleTree (h : spares modeFields s t) : spares modeFields s t.settleTree :=
  .ite (.update (.raise (.set h (by decide)) (linkRaw_apart 0)) rfl) h

theorem tellHolds {k : Nat} (h : spares modeFields s t) : spares modeFields s (t.tellHolds k) := .ite h.sendOn h
theorem askCatchup {k : Nat} (h : spares modeFields s t) : spares modeFields s (t.askCatchup k) := .sendOn (h.update rfl)

theorem settleLink {k : Nat} (h : spares modeFields s t) : spares modeFields s (t.settleLink k) := by
  unfold State.settleLink
  refine .ite (.ite (.settleTree (.wrapRing ?_)) ?_) h <;>
    exact .andIf (.andIf (.andIf (.set h (linkState_apart k)) (.tellHolds (.raise .refl (linkRaw_apart k)))) (.askCatchup .refl))
      (.raise (.set .refl (linkWrapped_apart k)) (linkRaw_apart k))

end spares

/-- A mode entered raises RST's interrupt of it, and spares the rest (R387). -/
theorem State.enterMode_entered {m : Mode} (h : s.mode ≠ m) : spares modeFields ({ s with mode := m }.raise pgRST 1) (s.enterMode m) := by
  unfold State.enterMode
  rw [if_neg h]
  exact .foldl (.andIf .refl (.serveAllDoorbells .refl)) fun _ _ _ => .settleLink .refl

/-- `t` keeps the stage of `s`, its start-up record and its sentinel, and the interrupt of the end of BOOT stands where it stood. -/
structure BootKept (s t : State) : Prop where
  stage : t.get R.RST_BOOT_STAGE = s.get R.RST_BOOT_STAGE
  told : s.bit (R.BLK_INT_RAW pgRST) 0 = true → t.bit (R.BLK_INT_RAW pgRST) 0 = true
  bt : t.bt = s.bt

namespace BootKept
variable {s t u : State}

theorem trans (h : BootKept s t) (k : BootKept t u) : BootKept s u :=
  ⟨k.stage.trans h.stage, fun told => k.told (h.told told), k.bt.trans h.bt⟩

theorem of_spares (h : spares modeFields s t) (bt : t.bt = s.bt) : BootKept s t :=
  ⟨h _ (by decide), fun told => (h.bit (by decide) 0).trans told, bt⟩

/-- A change of registers but these, or of other parts of the state. -/
theorem of_regs {gs : List Field} (h : keeps gs s t) (bt : t.bt = s.bt)
    (off : ∀ g ∈ gs, apart [R.RST_BOOT_STAGE, R.BLK_INT_RAW pgRST] g) : BootKept s t := by
  have fields : spares [R.RST_BOOT_STAGE, R.BLK_INT_RAW pgRST] s t := .of_keeps .refl h off
  exact ⟨fields _ (by decide), fun told => (fields.bit (by decide) 0).trans told, bt⟩

theorem enterMode (m : Mode) : BootKept s (s.enterMode m) := by
  by_cases same : s.mode = m
  · rw [State.enterMode, if_pos same]
    exact .of_spares .refl rfl
  · have entered := s.enterMode_entered same
    have bt : (s.enterMode m).bt = s.bt := (Steady.enterMode (s := { s with mode := m }) .refl).bt
    refine ⟨?_, fun told => ?_, bt⟩
    · rw [entered _ (by decide)]
      exact State.raise_get_ne { s with mode := m } _ _ _ (by decide)
    · rw [entered.bit (by decide), State.raise_raised { s with mode := m } pgRST 1 0 (by decide)]
      exact Bool.or_eq_true_iff.mpr (.inl told)

end BootKept

/-- Entering a mode takes no side in the pair. -/
theorem State.enterMode_role (m : Mode) : (s.enterMode m).get R.PAIR_ROLE = s.get R.PAIR_ROLE := by
  by_cases same : s.mode = m
  · rw [State.enterMode, if_pos same]
  · rw [s.enterMode_entered same _ (by decide), State.raise_get_ne { s with mode := m } _ _ _ (by decide)]
    rfl

theorem State.enterMode_mode (m : Mode) : (s.enterMode m).mode = m := (Steady.enterMode (s := { s with mode := m }) .refl).mode

/-! ## The mode BOOT ends into (R338, R386) -/

/-- `t` has the mode, or the side in the pair, that BOOT ends into from `s`. -/
def State.endsInto (s t : State) : Prop :=
  if s.get R.RST_BOOT_ERR = 1 ∨ 3 ≤ s.ob.latch then t.mode = .responded
  else if s.get R.PAIR_PAIR_EN = 1 then
    (if s.pr.claimIn then t.mode = .shadow ∧ t.get R.PAIR_ROLE = 2 else t.get R.PAIR_ROLE = 3 ∧ t.pr.claimOut = true ∧ t.pr.claimAt = s.quartz)
  else t.mode = s.servingMode

theorem State.endsInto_congr {s t u v : State} (h : s.endsInto u) (err : s.get R.RST_BOOT_ERR = t.get R.RST_BOOT_ERR) (ob : s.ob = t.ob)
    (pair : s.get R.PAIR_PAIR_EN = t.get R.PAIR_PAIR_EN) (pr : s.pr = t.pr) (quartz : s.quartz = t.quartz) (serves : s.servingMode = t.servingMode)
    (mode : v.mode = u.mode) (role : v.get R.PAIR_ROLE = u.get R.PAIR_ROLE) (side : v.pr = u.pr) : t.endsInto v := by
  unfold State.endsInto at h ⊢
  rwa [mode, role, side, ← err, ← ob, ← pair, ← pr, ← quartz, ← serves]

/-- The claim withdrawn and the role of the standby taken, before SHADOW is entered. -/
def State.claimWithdrawn (s : State) : State :=
  { s.set R.PAIR_ROLE 2 with pr := { s.pr with claimOut := false, waiting := false, taking := none, handed := false } }

theorem State.withdraw_spec : s.withdraw.mode = .shadow ∧ s.withdraw.get R.PAIR_ROLE = 2 ∧ BootKept s s.withdraw := by
  have withdrawn : s.withdraw = (s.claimWithdrawn.enterMode .shadow).settleTake := rfl
  have sided : BootKept s s.claimWithdrawn := .of_regs (keeps_set s R.PAIR_ROLE 2) rfl (by decide)
  have role : s.claimWithdrawn.get R.PAIR_ROLE = 2 := s.get_set_fits (f := R.PAIR_ROLE) (v := 2) (by decide)
  have settled : ∀ u : State, BootKept u u.settleTake := fun u => .of_spares (.settleTake .refl) (Steady.settleTake .refl).bt
  rw [withdrawn]
  refine ⟨(Steady.settleTake .refl).mode.trans (State.enterMode_mode _ _), ?_, sided.trans (.trans (.enterMode .shadow) (settled _))⟩
  exact (State.settleTake_get _ _).trans ((State.enterMode_role _ _).trans role)

theorem State.leaveBoot_spec : s.endsInto s.leaveBoot ∧ BootKept s s.leaveBoot := by
  unfold State.endsInto State.leaveBoot
  split
  · exact ⟨s.enterMode_mode _, .enterMode _⟩
  · split
    · unfold State.bootClaim
      split
      · obtain ⟨mode, role, kept⟩ := (s.set R.PAIR_SYNC 0).withdraw_spec
        exact ⟨⟨mode, role⟩, .trans (.of_regs (keeps_set s R.PAIR_SYNC 0) rfl (by decide)) kept⟩
      · exact ⟨⟨s.get_set_fits (f := R.PAIR_ROLE) (v := 3) (by decide), rfl, rfl⟩, .of_regs (keeps_set s R.PAIR_ROLE 3) rfl (by decide)⟩
    · exact ⟨s.enterMode_mode _, .enterMode _⟩

/-! ## BOOT_END (R386, R393, R427) -/

/-- The start of partition 0's roots touches its entry, what is drawn and the flash alone. -/
theorem State.firstRoots_frame :
    s.firstRoots = { s with randoms := s.firstRoots.randoms, parts := s.firstRoots.parts, gt := s.firstRoots.gt } := by
  unfold State.firstRoots
  dsimp only
  split <;> rfl

/-- What a test over entries leaves out, a write does not change. -/
theorem Sparse.filter_set {α : Type} [DecidableEq α] {d v : α} {k : Nat} {p : Nat × α → Bool} (m : Sparse α) (out : ∀ w, p (k, w) = false) :
    (Sparse.set d m k v).filter p = m.filter p := by
  have erased : (Sparse.erase m k).filter p = m.filter p := by
    induction m with
    | nil => rfl
    | cons e m ih =>
      obtain ⟨j, w⟩ := e
      unfold Sparse.erase
      split
      next same => subst same; rw [ih, List.filter_cons_of_neg (by simp [out])]
      next => rw [List.filter_cons, List.filter_cons, ih]
  have inserted : (Sparse.insert m k v).filter p = m.filter p := by
    clear erased
    induction m with
    | nil => exact List.filter_cons_of_neg (by simp [out])
    | cons e m ih =>
      obtain ⟨j, w⟩ := e
      unfold Sparse.insert
      split
      · exact List.filter_cons_of_neg (by simp [out])
      · split
        next same => subst same; rw [List.filter_cons_of_neg (by simp [out]), List.filter_cons_of_neg (by simp [out])]
        next => rw [List.filter_cons, List.filter_cons, ih]
  unfold Sparse.set
  split
  · exact erased
  · exact inserted

/-- Partition 0 is no tenant. -/
theorem State.firstRoots_tenants : s.firstRoots.tenants = s.tenants := by
  unfold State.firstRoots
  dsimp only
  split
  · rfl
  · exact congrArg (List.map Prod.fst) (Sparse.filter_set s.parts fun w => by simp)

theorem State.firstRoots_servingMode : s.firstRoots.servingMode = s.servingMode := by
  have enrolled : s.firstRoots.enrolled = s.enrolled := by rw [s.firstRoots_frame]; rfl
  rw [State.servingMode, s.firstRoots_tenants, enrolled, State.servingMode]

/-- BOOT ended: its stage and time, its interrupt, and the watchdog from now. -/
def State.bootEnded (s : State) : State :=
  let s := (s.set R.RST_BOOT_STAGE 6).set R.RST_BOOT_US (min (2 ^ 20 - 1) ((s.quartz - s.bt.released) / 1000))
  { (s.raise pgRST 0).startWatchdog with bt.t2 := false }

theorem State.bootEnded_spec : s.bootEnded.get R.RST_BOOT_STAGE = 6 ∧ s.bootEnded.bit (R.BLK_INT_RAW pgRST) 0 = true ∧
    s.bootEnded.bt.wdogDue = some (s.quartz + s.wdogNs) ∧ s.bootEnded.pr = s.pr ∧ s.bootEnded.ob = s.ob ∧ s.bootEnded.quartz = s.quartz ∧
    s.bootEnded.parts = s.parts ∧ spares [R.RST_BOOT_ERR, R.PAIR_PAIR_EN, R.FVL0_ENROLLED] s s.bootEnded := by
  generalize hu : (s.set R.RST_BOOT_STAGE 6).set R.RST_BOOT_US (min (2 ^ 20 - 1) ((s.quartz - s.bt.released) / 1000)) = u
  have ended : s.bootEnded = { (u.raise pgRST 0).startWatchdog with bt.t2 := false } := by rw [← hu]; rfl
  have steady : Steady s (u.raise pgRST 0) := .raise (hu ▸ .set (.set .refl))
  have fields : spares [R.RST_WDOG_MS, R.RST_BOOT_ERR, R.PAIR_PAIR_EN, R.FVL0_ENROLLED] s (u.raise pgRST 0) :=
    .raise (hu ▸ .set (.set .refl (by decide)) (by decide)) (by decide)
  have stage : u.get R.RST_BOOT_STAGE = 6 := by rw [← hu, State.get_set_ne _ _ _ _ (by decide)]; exact s.get_set_fits (by decide)
  have wdog : (u.raise pgRST 0).wdogNs = s.wdogNs := by rw [State.wdogNs, fields _ (by decide), State.wdogNs]
  rw [ended]
  refine ⟨(u.raise_get_ne pgRST 0 _ (by decide)).trans stage, u.raise_bit pgRST (by decide), ?_, ?_, steady.ob, steady.quartz, ?_,
    (fields.mono (by simp)).update rfl⟩
  · rw [← steady.quartz, ← wdog]; rfl
  · exact (u.raise_pr pgRST 0).trans (by rw [← hu]; rfl)
  · exact (u.raise_parts pgRST 0).trans (by rw [← hu]; rfl)

theorem State.bootEnded_servingMode : s.bootEnded.servingMode = s.servingMode := by
  obtain ⟨-, -, -, -, -, -, parts, fields⟩ := s.bootEnded_spec
  have tenants : s.bootEnded.tenants = s.tenants := by rw [State.tenants, parts, State.tenants]
  have enrolled : s.bootEnded.enrolled = s.enrolled := by rw [State.enrolled, fields R.FVL0_ENROLLED (by decide), State.enrolled]
  rw [State.servingMode, tenants, enrolled, State.servingMode]

/-- The journal of a medium found in BOOT checked. -/
def State.foundChecked (s : State) : State :=
  match s.jr.found with | some b => { s with jr.found := none }.checkJournal b | none => s

theorem State.checkJournal_spec (block : List Byte) :
    (∃ n, Steady { s with ob := { s.ob with journal := n } } (s.checkJournal block)) ∧ (s.checkJournal block).pr = s.pr ∧
      spares modeFields s (s.checkJournal block) := by
  have noted : ∀ {f : Field} {i : Nat}, apart modeFields f → Steady s ((s.countSat f).raise pgSD i) ∧ ((s.countSat f).raise pgSD i).pr = s.pr ∧
      ∀ v, spares modeFields s (((s.countSat f).raise pgSD i).set R.SD_JSTATE v) := fun off =>
    ⟨.raise (.countSat .refl), State.raise_pr _ _ _, fun _ => .set (.raise (.set .refl off) (by decide)) (by decide)⟩
  have refused : ∀ {f : Field} {i : Nat}, apart modeFields f →
      (∃ n, Steady { s with ob := { s.ob with journal := n } } (((s.countSat f).raise pgSD i).set R.SD_JSTATE 1)) ∧
        (((s.countSat f).raise pgSD i).set R.SD_JSTATE 1).pr = s.pr ∧ spares modeFields s (((s.countSat f).raise pgSD i).set R.SD_JSTATE 1) :=
    fun off => by
      obtain ⟨steady, side, fields⟩ := noted off
      exact ⟨⟨s.ob.journal, steady.set⟩, side, fields 1⟩
  unfold State.checkJournal
  split
  · exact ⟨⟨s.ob.journal, .refl⟩, rfl, .refl⟩
  · dsimp only
    split
    · exact refused (by decide)
    · split
      · obtain ⟨steady, side, fields⟩ := noted (f := R.SD_ROLLFWD_CNT) (i := 3) (by decide)
        have moved : ∀ n, Steady { s with ob := { s.ob with journal := n } } { ((s.countSat R.SD_ROLLFWD_CNT).raise pgSD 3).set R.SD_JSTATE 2 with
            ob := { ((s.countSat R.SD_ROLLFWD_CNT).raise pgSD 3).ob with journal := n } } :=
          fun n => ⟨(State.standing_iff _ _).mpr ⟨steady.mode, congrArg (fun o : Obsidian => { o with journal := n }) steady.ob, steady.bt, steady.lc,
            steady.quartz, steady.lines, steady.keys, steady.roots⟩, steady.idle⟩
        exact ⟨⟨_, moved _⟩, side, (fields 2).update rfl⟩
      · exact refused (by decide)

theorem State.foundChecked_spec : s.foundChecked.mode = s.mode ∧ s.foundChecked.pr = s.pr ∧ s.foundChecked.bt = s.bt ∧
    s.foundChecked.ob.latch = s.ob.latch ∧ s.foundChecked.ob.pendT1 = s.ob.pendT1 ∧ spares modeFields s s.foundChecked := by
  unfold State.foundChecked
  split
  next b _ =>
    obtain ⟨⟨n, checked⟩, pr, fields⟩ := State.checkJournal_spec { s with jr.found := none } b
    exact ⟨checked.mode, pr, checked.bt, by rw [checked.ob], by rw [checked.ob], .trans (.update .refl rfl) fields⟩
  next => exact ⟨rfl, rfl, rfl, rfl, rfl, .refl⟩

theorem execBootEnd_ends (free : s.inReset = false) (boot : s.mode = .boot) (stage : s.get R.RST_BOOT_STAGE ≠ 6)
    (ready : s.get R.RST_BLK_READY = 0xFFFFF) (valid : s.lcState ≠ 0xF) (live : s.lcState ≠ 7) :
    exec .bootEnd s = if s.bootEnded.firstRoots.leaveBoot.foundChecked.ob.pendT1 = true
      then .next { s.bootEnded.firstRoots.leaveBoot.foundChecked with ob.pendT1 := false }.latchT1
      else .next s.bootEnded.firstRoots.leaveBoot.foundChecked.applyT1 := by
  refine if_neg ?_
  simp [free, boot, stage, ready, valid, live]

/-- BOOT ends with its stage, its interrupt, the watchdog started and the mode it ends into, where no T1 waits or stands (R386, R393). -/
theorem execBootEnd_leaves (free : s.inReset = false) (boot : s.mode = .boot) (stage : s.get R.RST_BOOT_STAGE ≠ 6)
    (ready : s.get R.RST_BLK_READY = 0xFFFFF) (valid : s.lcState ≠ 0xF) (live : s.lcState ≠ 7)
    (waits : s.ob.pendT1 = false) (latch : s.ob.latch ≠ 1) :
    ∃ t, exec .bootEnd s = .next t ∧ t.get R.RST_BOOT_STAGE = 6 ∧ t.bit (R.BLK_INT_RAW pgRST) 0 = true ∧
      t.bt.wdogDue = some (s.quartz + s.wdogNs) ∧ s.endsInto t := by
  obtain ⟨six, told, due, pr, ob, quartz, -, fields⟩ := s.bootEnded_spec
  have roots := s.bootEnded.firstRoots_frame
  have rootsOb := s.bootEnded.firstRoots_ob
  have rootsMode := s.bootEnded.firstRoots_servingMode.trans s.bootEnded_servingMode
  have run := execBootEnd_ends s free boot stage ready valid live
  generalize s.bootEnded.firstRoots = u at roots rootsOb rootsMode run
  obtain ⟨into, kept⟩ := u.leaveBoot_spec
  have leftOb := u.leaveBoot_ob
  generalize u.leaveBoot = v at into kept leftOb run
  obtain ⟨mode, side, bt, latched, pend, spared⟩ := v.foundChecked_spec
  have quiet : v.foundChecked.ob.pendT1 = false := by rw [pend, leftOb, rootsOb, ob, waits]
  have unlatched : v.foundChecked.applyT1 = v.foundChecked := if_neg (by rw [latched, leftOb, rootsOb, ob]; exact latch)
  rw [if_neg (by simp [quiet]), unlatched] at run
  have same : ∀ f, u.get f = s.bootEnded.get f := fun f => by rw [roots]; rfl
  refine ⟨_, run, ?_, ?_, ?_, ?_⟩
  · rw [spared _ (by decide), kept.stage, same, six]
  · rw [spared.bit (by decide)]
    exact kept.told (by rw [State.bit, same]; exact told)
  · rw [bt, kept.bt, roots]; exact due
  · refine State.endsInto_congr into ?_ ?_ ?_ ?_ ?_ rootsMode mode (spared _ (by decide)) side
    · rw [same, fields _ (by decide)]
    · rw [rootsOb, ob]
    · rw [same, fields _ (by decide)]
    · rw [roots]; exact pr
    · rw [roots]; exact quartz

end Sys2Proof.Machine
end

section
/-! SUPPORT. Blocks, module resets, the management signals and the test port, instruction by instruction, and the statement about them (R381-R394,
R458-R461). -/
namespace Sys2Proof.Machine

variable (s : State)

/-! ## Blocks in BOOT and in a wake (R332, R384) -/

section
variable {s} {b : Fin 20} (free : s.inReset = false) (down : s.bit R.RST_BLK_READY b = false) (may : s.mayBeReady b = true)
include free down may

/-- A block ready in BOOT adds its bit. -/
theorem execBlockReady_inBoot (begun : s.get R.RST_BOOT_STAGE ≠ 0) (boot : s.mode = .boot) (awake : s.pw.phase = .awake) :
    ∃ t, exec (.blockReady b) s = .next t ∧ t.mode = .boot ∧ ∀ j < 20, t.bit R.RST_BLK_READY j = (s.bit R.RST_BLK_READY j || j == b.val) := by
  have run := execBlockReady_starts s b free (.inl ⟨begun, boot⟩) down may
  rw [State.settleWake_stays _ (.inl (by rw [s.blockUp_pw, awake]; decide))] at run
  exact ⟨_, run, (s.blockUp_mode b).trans boot, fun j hj => s.blockUp_ready b hj⟩

/-- The last block of a wake whose level is settled ends the wake. -/
theorem execBlockReady_endsWake (waking : s.pw.phase = .waking) (others : ∀ j < 20, j ≠ b.val → s.bit R.RST_BLK_READY j = true)
    (settled : s.levelSettled = true) : ∃ t, exec (.blockReady b) s = .next t ∧ t.pw.phase = .awake ∧ t.get R.PWR_SLEEP = 0 ∧
      t.bit (R.BLK_INT_RAW pgPWR) 3 = true ∧ t.bt.wdogDue = some (s.quartz + s.wdogNs) := by
  have run := execBlockReady_starts s b free (.inr waking) down may
  have ready : (s.blockUp b).get R.RST_BLK_READY = 0xFFFFF := State.get_full _ fun j hj => by
    rw [s.blockUp_ready b hj]
    by_cases own : j = b.val
    · simp [own]
    · simp [others j hj own]
  obtain ⟨phase, sleep, told, due⟩ := (s.blockUp b).settleWake_ends (by rw [s.blockUp_pw, waking]) ready (by rw [s.blockUp_levelSettled, settled])
  rw [s.blockUp_quartz, s.blockUp_wdogNs] at due
  exact ⟨_, run, phase, sleep, told, due⟩

/-- A wake whose level is not settled goes on. -/
theorem execBlockReady_inWake (waking : s.pw.phase = .waking) (unsettled : s.levelSettled = false) :
    ∃ t, exec (.blockReady b) s = .next t ∧ t.pw.phase = .waking ∧ t.bit R.RST_BLK_READY b = true := by
  have run := execBlockReady_starts s b free (.inr waking) down may
  rw [State.settleWake_stays _ (.inr (by rw [s.blockUp_levelSettled, unsettled]))] at run
  exact ⟨_, run, by rw [s.blockUp_pw, waking], by rw [s.blockUp_ready b b.isLt]; simp⟩

end

/-! ## Resets (R392-R394) -/

/-- After a module reset every field holds its reset value. -/
theorem State.moduleReset_get (cause : Nat) (f : Field) : (s.moduleReset cause).get f = f.reset % 2 ^ f.width := rfl

/-- A module reset that BOOT follows (Table 16.6). -/
theorem State.resetModule_spec {cause : Nat} (free : s.inReset = false) (kept : cause ≠ 1) :
    (s.resetModule cause).get R.RST_BOOT_STAGE = 1 ∧ (s.resetModule cause).bt.cause = cause ∧ (s.resetModule cause).mode = .boot ∧
      (s.resetModule cause).bt.resetCnt = min 65535 (s.bt.resetCnt + 1) ∧ (s.resetModule cause).ge = {} ∧ (s.resetModule cause).hq = {} := by
  obtain ⟨-, stage, -, -, ge, hq, -⟩ := (s.moduleReset cause).startBoot_starts free
  obtain ⟨b, ⟨cause', cnt, -⟩, started⟩ := (s.moduleReset cause).startBoot_spec
  unfold State.resetModule
  refine ⟨stage, ?_, started.mode, ?_, ge, hq (by rw [State.bit, State.moduleReset_get]; decide)⟩
  · rw [started.bt]; exact cause'
  · rw [started.bt]; exact cnt.trans (if_neg kept)

/-- The watchdog's reset counts its expiries too (R393). -/
theorem State.resetModule_wdogCnt (free : s.inReset = false) : (s.resetModule 6).bt.wdogCnt = min 65535 (s.bt.wdogCnt + 1) := by
  obtain ⟨bt, -⟩ := (s.moduleReset 6).startBoot_starts free
  unfold State.resetModule
  rw [bt, State.bootRecord]
  split <;> rfl

/-- PERST_N asserted: the core die reset and held, Obsidian and the flash kept (R392). -/
theorem execPerstAssert_resets (free : s.inReset = false) :
    ∃ t, exec .perstAssert s = .next t ∧ t.inReset = true ∧ t.bt.cause = 2 ∧ t.bt.resetCnt = min 65535 (s.bt.resetCnt + 1) ∧ t.regs = [] ∧
      t.ge = {} ∧ t.hq = {} ∧ t.sq = {} ∧ t.hb = {} ∧ t.ob = s.ob.coreReset ∧ t.mode = .boot ∧ t.quartz = s.quartz ∧
      (s.get R.GATE_STATE ≠ 5 → t.gt.flash = s.gt.flash) := by
  have run : exec .perstAssert s = .next { s.moduleReset 2 with bt.perst := true } := if_neg (by simp [free])
  exact ⟨_, run, by simp [State.inReset], rfl, rfl, rfl, rfl, rfl, rfl, rfl, rfl, rfl, rfl, fun idle => if_neg fun h => idle h.1⟩

/-- BOOT from time 0 as PERST_N is released (R381). -/
theorem execPerstRelease_boots (held : s.bt.perst = true) (vdd : s.bt.vddLow = false) (vigil : s.bt.vigil = false) (extest : s.bt.extest = false) :
    ∃ t, exec .perstRelease s = .next t ∧ t.inReset = false ∧ t.get R.RST_BOOT_STAGE = 1 ∧ t.bt.released = s.quartz ∧
      (s.lcState = 0xF → t.get R.RST_BOOT_ERR = 2) ∧ (s.lcState = 7 → t.get R.RST_BOOT_ERR = 3) ∧
      ∀ n < 16, ∀ u < 6, (t.unitSvc n u).katBusy = true := by
  have run : exec .perstRelease s = .next { s with bt.perst := false }.startBoot := if_neg (by simp [held])
  have free : ({ s with bt.perst := false } : State).inReset = false := by simp [State.inReset, vdd, vigil, extest]
  obtain ⟨bt, stage, invalid, scrapped, -, -, tested⟩ := State.startBoot_starts _ free
  refine ⟨_, run, ?_, stage, ?_, invalid, scrapped, tested⟩
  · rw [State.inReset, bt, State.bootRecord]
    split <;> simp [vdd, vigil, extest]
  · rw [bt, State.bootRecord]
    split <;> rfl

theorem execModReset_acts {v : Word} (free : s.inReset = false) (key : v.toNat / 65536 = 0x4B52) (go : v.getLsbD 0 = true)
    (idle : s.lc.target = none) : exec (.modReset v) s = .next (s.resetModule 5) := by
  have bit : bitOf v.toNat 0 = true := (bitOf_testBit _ _).trans go
  exact if_neg (by simp [free, key, idle, bit])

theorem execModReset_ignored {v : Word} (h : s.inReset = true ∨ s.lc.target ≠ none ∨ v.toNat / 65536 ≠ 0x4B52 ∨ v.getLsbD 0 = false) :
    exec (.modReset v) s = .next s := by
  refine if_pos ?_
  rcases h with held | moving | key | go
  · exact .inl held
  · exact .inr (.inr (.inr (Option.isSome_iff_ne_none.mpr moving)))
  · exact .inr (.inl key)
  · have bit : bitOf v.toNat 0 = false := (bitOf_testBit _ _).trans go
    exact .inr (.inr (.inl (by simp [bit])))

theorem execWatchdogExpire_resets {t0 : Nat} (free : s.inReset = false) (due : s.bt.wdogDue = some t0) (past : t0 ≤ s.quartz) :
    exec .watchdogExpire s = .next (s.resetModule 6) := by
  change execWatchdogExpire s = _
  simp only [execWatchdogExpire, due]
  exact if_neg (by simp [free, past])

theorem execWdogKick_runs {t0 : Nat} (responds : s.responds pgRST = true) (due : s.bt.wdogDue = some t0) : exec .wdogKick s = .next s.startWatchdog :=
  (if_neg (by simp [responds])).trans (if_pos (by simp [due]))

theorem wdog_stopped (h : s.bt.wdogDue = none) : exec .watchdogExpire s = .next s ∧ exec .wdogKick s = .next s := by
  constructor
  · change execWatchdogExpire s = _
    simp only [execWatchdogExpire, h]
  · change execWdogKick s = _
    simp [execWdogKick, h]

/-! ## SMBus (R390) -/

theorem execSmbus_up (h : s.ob.onMain = true ∨ s.ob.aux = true) :
    exec .smbusReceiveByte s = .next (s.emit (.smbusByte s.smbusStatus)) ∧ (s.mode = .boot → exec .smbusTransaction s = .next (s.emit .smbusNack)) ∧
      (s.mode ≠ .boot → exec .smbusTransaction s = .next ({ s with frees := s.frees + 1 }.emit (.smbusByte (Config.smbusAnswer s.frees)))) := by
  have up : s.smbusUp = true := by simpa [State.smbusUp] using h
  have down : ¬ (!s.smbusUp) = true := by simp [up]
  exact ⟨if_pos up, fun boot => (if_neg down).trans (if_pos boot), fun served => (if_neg down).trans (if_neg served)⟩

theorem execSmbus_down (main : s.ob.onMain = false) (aux : s.ob.aux = false) :
    exec .smbusReceiveByte s = .next s ∧ exec .smbusTransaction s = .next s := by
  have down : s.smbusUp = false := by simp [State.smbusUp, main, aux]
  exact ⟨if_neg (by simp [down]), if_pos (by simp [down])⟩

/-! ## The test port (R458-R461) -/

/-- The opcodes of the EXTEST group, as words. -/
theorem extestGroup_iff (op : BitVec 8) : extestGroup op.toNat = true ↔ op ∈ [0x00#8, 0x03#8, 0x04#8, 0x05#8, 0x06#8] := by
  simp only [extestGroup, List.contains_iff_mem, List.mem_cons, List.not_mem_nil, or_false, ← BitVec.toNat_inj]
  rfl

/-- An instruction taken by the test port, as it acts. -/
def State.tapTakes (s : State) (op : Nat) : State :=
  if op = 0x01 then { s with bt.tap := op }.emit (.idcode idcode) else { s with bt.tap := op }

theorem State.releaseHold_free (h : s.bt.extest = false) : s.releaseHold = s := if_neg (by simp [h])

/-- The end of a hold: BOOT from time 0, unless the core die is held otherwise. -/
theorem State.releaseHold_spec (held : s.bt.extest = true) : s.releaseHold.bt.tap = s.bt.tap ∧ s.releaseHold.bt.extest = false ∧
    (s.bt.vigil = false → s.bt.perst = false → s.bt.vddLow = false → s.releaseHold.get R.RST_BOOT_STAGE = 1 ∧ s.releaseHold.lc.testOpen = false) := by
  have freed : s.releaseHold = ({ s with bt.extest := false, lc.testOpen := false } : State).startBoot := if_pos held
  rw [freed]
  generalize hu : ({ s with bt.extest := false, lc.testOpen := false } : State) = u
  have bt : u.bt = { s.bt with extest := false } := by rw [← hu]
  have closed : u.lc.testOpen = false := by rw [← hu]
  obtain ⟨b, -, started⟩ := u.startBoot_spec
  have port : u.startBoot.bt.tap = u.bt.tap ∧ u.startBoot.bt.extest = u.bt.extest := by
    cases free : u.inReset with
    | true => rw [u.startBoot_held free]; exact ⟨rfl, rfl⟩
    | false =>
      rw [(u.startBoot_starts free).1, State.bootRecord]
      split <;> exact ⟨rfl, rfl⟩
  refine ⟨port.1.trans (by rw [bt]), port.2.trans (by rw [bt]), fun vigil perst vdd => ⟨?_, ?_⟩⟩
  · exact (u.startBoot_starts (by simp [State.inReset, bt, vigil, perst, vdd])).2.1
  · rw [started.lc]; exact closed

/-- Under a hold the EXTEST group stays available. -/
theorem State.tapAllows_held {op : Nat} (held : s.bt.extest = true) (group : extestGroup op = true) : s.tapAllows op = true := by
  unfold State.tapAllows
  by_cases plain : op = 0x01 ∨ op = 0xFF
  · rw [if_pos plain]
  · rw [if_neg plain, if_pos held, group, Bool.or_true]

theorem State.tapTakes_bt (op : Nat) : (s.tapTakes op).bt = { s.bt with tap := op } := by
  unfold State.tapTakes
  split <;> rfl

section
variable {s} {op : BitVec 8} (vigil : s.bt.vigil = false)
include vigil

/-- An instruction that acts as one outside the EXTEST group ends a hold. -/
theorem execTapInstructionLoad_other {n : Nat} (acts : (if s.tapAllows op.toNat then op.toNat else 0xFF) = n) (other : extestGroup n = false) :
    exec (.tapInstructionLoad op) s = .next (s.tapTakes n).releaseHold := by
  change execTapInstructionLoad op s = _
  unfold execTapInstructionLoad
  rw [if_neg (by simp [vigil])]
  simp only [acts]
  exact if_pos (by simp [other])

/-- An available instruction of the EXTEST group keeps a hold, or begins one: a reset of PERST_N's scope (R461). -/
theorem execTapInstructionLoad_group (allowed : s.tapAllows op.toNat = true) (group : extestGroup op.toNat = true) :
    exec (.tapInstructionLoad op) s = if s.bt.extest = true then .next { s with bt := { s.bt with tap := op.toNat } }
      else .next { ({ s with bt.tap := op.toNat } : State).moduleReset 2 with bt.extest := true, lc.testOpen := s.lc.testOpen } := by
  have notId : op.toNat ≠ 0x01 := fun id => by rw [id] at group; exact absurd group (by decide)
  change execTapInstructionLoad op s = _
  unfold execTapInstructionLoad
  rw [if_neg (by simp [vigil])]
  simp only [allowed, if_true, if_neg notId, group]
  rfl

/-- Outside a hold such an instruction is taken and no more. -/
theorem execTapInstructionLoad_plain {n : Nat} (out : s.bt.extest = false) (acts : (if s.tapAllows op.toNat then op.toNat else 0xFF) = n)
    (other : extestGroup n = false) : exec (.tapInstructionLoad op) s = .next (s.tapTakes n) := by
  rw [execTapInstructionLoad_other vigil acts other, State.releaseHold_free _ (by rw [State.tapTakes_bt]; exact out)]

/-- An available instruction of the EXTEST group holds the core die, whose debug stays as it was. -/
theorem execTapInstructionLoad_holds (out : s.bt.extest = false) (group : op ∈ [0x00#8, 0x03#8, 0x04#8, 0x05#8, 0x06#8])
    (allowed : s.tapAllows op.toNat = true) :
    ∃ t, exec (.tapInstructionLoad op) s = .next t ∧ t.bt.extest = true ∧ t.inReset = true ∧ t.bt.tap = op.toNat ∧ t.ob = s.ob.coreReset := by
  have run := execTapInstructionLoad_group vigil allowed ((extestGroup_iff op).mpr group)
  rw [if_neg (by simp [out])] at run
  exact ⟨_, run, rfl, by simp [State.inReset], rfl, rfl⟩

/-- Under a hold another instruction of the group only takes its place. -/
theorem execTapInstructionLoad_held (held : s.bt.extest = true) (group : op ∈ [0x00#8, 0x03#8, 0x04#8, 0x05#8, 0x06#8]) :
    exec (.tapInstructionLoad op) s = .next { s with bt := { s.bt with tap := op.toNat } } := by
  have inGroup := (extestGroup_iff op).mpr group
  rw [execTapInstructionLoad_group vigil (s.tapAllows_held held inGroup) inGroup, if_pos held]

/-- Any other instruction ends the hold, and the module boots. -/
theorem execTapInstructionLoad_leaves (held : s.bt.extest = true) (other : op ∉ [0x00#8, 0x03#8, 0x04#8, 0x05#8, 0x06#8])
    (perst : s.bt.perst = false) (vdd : s.bt.vddLow = false) :
    ∃ t, exec (.tapInstructionLoad op) s = .next t ∧ t.bt.extest = false ∧ t.get R.RST_BOOT_STAGE = 1 ∧ t.lc.testOpen = false := by
  generalize acts : (if s.tapAllows op.toNat then op.toNat else 0xFF) = n
  have outside : extestGroup n = false := by
    rw [← acts]
    split
    · exact Bool.eq_false_iff.mpr fun group => other ((extestGroup_iff op).mp group)
    · decide
  have bt := s.tapTakes_bt n
  obtain ⟨-, freed, boots⟩ := (s.tapTakes n).releaseHold_spec (by rw [bt]; exact held)
  rw [bt] at boots
  exact ⟨_, execTapInstructionLoad_other vigil acts outside, freed, boots vigil perst vdd⟩

/-- Test-Logic-Reset: IDCODE is the instruction, and a hold ends (R461). -/
theorem execTapReset_ends : ∃ t, exec .tapReset s = .next t ∧ t.bt.tap = 1 ∧ t.bt.extest = false ∧
    (s.bt.extest = true → s.bt.perst = false → s.bt.vddLow = false → t.get R.RST_BOOT_STAGE = 1 ∧ t.lc.testOpen = false) ∧
    (s.bt.extest = false → t = { s with bt := t.bt }) := by
  have run : exec .tapReset s = .next { s with bt.tap := 0x01 }.releaseHold := if_neg (by simp [vigil])
  cases held : s.bt.extest with
  | false =>
    have stays := State.releaseHold_free { s with bt.tap := 0x01 } held
    exact ⟨_, run.trans (congrArg _ stays), rfl, held, fun h => absurd h (by decide), fun _ => rfl⟩
  | true =>
    obtain ⟨tap, freed, boots⟩ := State.releaseHold_spec { s with bt.tap := 0x01 } held
    exact ⟨_, run, tap, freed, fun _ => boots vigil, fun h => absurd h (by decide)⟩

end

/-- Settles O49, instruction by instruction: blocks and the ends of BOOT and of a wake, the resets, the watchdog, SMBus, the test port, and what has
no effect. -/
theorem moduleStartsResetsAndAnswers : Obligations.ModuleStartsResetsAndAnswers := by
  refine ⟨?block, ?lastOfWake, ?stillWaking, execBootEnd_leaves, execPerstAssert_resets, fun s held => if_pos held, execPerstRelease_boots, ?modReset,
    ?watchdog, fun _ s free kept => s.resetModule_spec free kept, fun _ s responds due => execWdogKick_runs s responds due, ?smbus, ?tapLoad,
    fun s vigil => execTapReset_ends vigil, ?tapHeld, fun op s vigil => ⟨if_pos vigil, if_pos vigil⟩, fun b s => execBlockReady_waits s b, ?noBootEnd,
    fun s free => if_pos (by simp [free]), fun v s h => execModReset_ignored s (h.imp_right .inl), wdog_stopped, execSmbus_down⟩
  case block => exact fun b s free begun boot awake down may => execBlockReady_inBoot free down may begun boot awake
  case lastOfWake => exact fun b s free waking down may others _ settled => execBlockReady_endsWake free down may waking others settled
  case stillWaking => exact fun b s free waking down may _ unsettled => execBlockReady_inWake free down may waking unsettled
  case modReset => exact fun v s free => ⟨execModReset_acts s free, fun h => execModReset_ignored s (.inr (.inr h))⟩
  case watchdog => exact fun t0 s free due past => ⟨execWatchdogExpire_resets s free due past, s.resetModule_wdogCnt free⟩
  case smbus =>
    intro s h
    obtain ⟨status, nack, answer⟩ := execSmbus_up s h
    exact ⟨status, nack, fun served => ⟨_, _, answer served, rfl, rfl⟩⟩
  case tapLoad =>
    intro op s vigil
    have bypass := fun out (barred : s.tapAllows op.toNat = false) =>
      execTapInstructionLoad_plain (op := op) vigil (n := 0xFF) out (if_neg (by simp [barred])) (by decide)
    exact ⟨fun out _ barred => bypass out barred, fun out => execTapInstructionLoad_plain vigil (n := 1) out rfl (by decide),
      execTapInstructionLoad_holds vigil⟩
  case tapHeld =>
    intro op s vigil
    refine ⟨fun out sample allowed => ?_, execTapInstructionLoad_held vigil, execTapInstructionLoad_leaves vigil⟩
    subst sample
    exact execTapInstructionLoad_plain vigil (n := 2) out (if_pos allowed) (by decide)
  case noBootEnd =>
    refine fun s h => if_pos ?_
    tauto

end Sys2Proof.Machine
end

section
/-! SUPPORT. What an interrupt of a page sends: messages of the page's PF vector and no others, and the statement about a forced interrupt (R58, R462,
R464). -/
namespace Sys2Proof.Machine

/-! ## Messages of one PF vector (R58) -/

/-- What was sent between two states is messages of the PFs' vector `v`; what was pending is still pending, and no vector was masked or unmasked. -/
structure SendsOnly (v : Nat) (s t : State) : Prop where
  sent : ∃ ms : List Output, t.out = s.out ++ ms ∧ ∀ m ∈ ms, ∃ i : Fin 2, m = .msix (.pf i) v
  pending : s.hq.msixPend ⊆ t.hq.msixPend
  masks : ∀ fn w, t.msixMasked fn w = s.msixMasked fn w

/-- Between two states the vector `v` of PF `i` was signalled: its message was sent, or is pending where the vector is masked. -/
structure Signalled (v : Nat) (i : Fin 2) (s t : State) : Prop where
  unmasked : s.msixMasked (funcCode (.pf i)) v = false → .msix (.pf i) v ∈ t.out.drop s.out.length
  masked : s.msixMasked (funcCode (.pf i)) v = true → (funcCode (.pf i), v) ∈ t.hq.msixPend

variable {s t u : State} {v : Nat} {i : Fin 2}

theorem SendsOnly.of_same (out : t.out = s.out) (hq : t.hq = s.hq) : SendsOnly v s t where
  sent := ⟨[], by simp [out], by simp⟩
  pending := by rw [hq]; exact List.Subset.refl _
  masks := fun fn w => by simp only [State.msixMasked, State.msixWord, State.msixControl, hq]

theorem SendsOnly.trans (h : SendsOnly v s t) (k : SendsOnly v t u) : SendsOnly v s u where
  sent := by
    obtain ⟨ms, out, only⟩ := h.sent
    obtain ⟨ns, out', only'⟩ := k.sent
    exact ⟨ms ++ ns, by rw [out', out, List.append_assoc], fun m hm => (List.mem_append.mp hm).elim (only m) (only' m)⟩
  pending := fun _ e => k.pending (h.pending e)
  masks := fun fn w => (k.masks fn w).trans (h.masks fn w)

theorem SendsOnly.mem_drop (h : SendsOnly v s t) {m : Output} (hm : m ∈ t.out.drop s.out.length) : ∃ i : Fin 2, m = .msix (.pf i) v := by
  obtain ⟨ms, out, only⟩ := h.sent
  rw [out, List.drop_left] at hm
  exact only m hm

/-- A vector signalled stays signalled whatever messages follow. -/
theorem Signalled.before (h : Signalled v i s t) (k : SendsOnly v t u) : Signalled v i s u where
  unmasked := fun off => by
    obtain ⟨ms, out, -⟩ := k.sent
    have sent := h.unmasked off
    have long : s.out.length ≤ t.out.length := by have some := List.length_pos_of_mem sent; rw [List.length_drop] at some; omega
    rw [out, List.drop_append_of_le_length long]
    exact List.mem_append_left _ sent
  masked := fun on => k.pending (h.masked on)

/-- A vector signalled counts from any state before, between which and it only messages of the vector were sent. -/
theorem Signalled.after (h : SendsOnly v s t) (k : Signalled v i t u) : Signalled v i s u where
  unmasked := fun off => by
    obtain ⟨ms, out, -⟩ := h.sent
    have long : s.out.length ≤ t.out.length := by rw [out, List.length_append]; omega
    exact (List.drop_sublist_drop_left _ long).subset (k.unmasked ((h.masks _ _).trans off))
  masked := fun on => k.masked ((h.masks _ _).trans on)

theorem State.msixSend_sendsOnly (s : State) (i : Fin 2) (v : Nat) : SendsOnly v s (s.msixSend (.pf i) v) := by
  unfold State.msixSend
  split
  · split
    · exact .of_same rfl rfl
    · exact ⟨⟨[], (List.append_nil _).symm, by simp⟩, List.subset_append_left _ _, fun _ _ => rfl⟩
  · exact ⟨⟨[.msix (.pf i) v], rfl, fun m hm => ⟨i, List.mem_singleton.mp hm⟩⟩, List.Subset.refl _, fun _ _ => rfl⟩

theorem State.msixSend_signalled (s : State) (i : Fin 2) (v : Nat) : Signalled v i s (s.msixSend (.pf i) v) := by
  unfold State.msixSend
  split
  next on =>
    refine ⟨fun off => absurd on (by simp [off]), fun _ => ?_⟩
    split
    next there => simpa using there
    next => simp
  next off => exact ⟨fun _ => by simp [State.emit], fun on => absurd on off⟩

/-! ## Interrupts of a page (R464) -/

variable {p : Nat}

theorem intRaw_key_ne_intEn (p : Nat) : (R.BLK_INT_RAW p).key ≠ (R.BLK_INT_EN p).key := by
  simp only [Field.key, R.BLK_INT_RAW, R.BLK_INT_EN]; omega

theorem State.setBit_sendsOnly (s : State) (f : Field) (j : Nat) (b : Bool) : SendsOnly v s (s.setBit f j b) := .of_same rfl rfl

theorem State.raise_newly {j : Nat} (clear : s.bit (R.BLK_INT_RAW p) j = false) (enabled : s.bit (R.BLK_INT_EN p) j = true) :
    s.raise p j = ((s.setBit (R.BLK_INT_RAW p) j true).msixSend (.pf 0) (1088 + p)).msixSend (.pf 1) (1088 + p) := by
  have still : (s.setBit (R.BLK_INT_RAW p) j true).bit (R.BLK_INT_EN p) j = true := by
    rw [State.bit, s.get_setBit_ne _ _ _ _ (intRaw_key_ne_intEn p)]; exact enabled
  exact if_pos (by simp [clear, still])

theorem State.raise_sendsOnly (s : State) (p j : Nat) : SendsOnly (1088 + p) s (s.raise p j) := by
  have marked := s.setBit_sendsOnly (v := 1088 + p) (R.BLK_INT_RAW p) j true
  unfold State.raise
  dsimp only
  split
  · exact (marked.trans (State.msixSend_sendsOnly _ 0 _)).trans (State.msixSend_sendsOnly _ 1 _)
  · exact marked

/-- A bit that newly pends signals the page's vector on each PF. -/
theorem State.raise_signalled {j : Nat} (clear : s.bit (R.BLK_INT_RAW p) j = false) (enabled : s.bit (R.BLK_INT_EN p) j = true) (i : Fin 2) :
    Signalled (1088 + p) i s (s.raise p j) := by
  have marked := s.setBit_sendsOnly (v := 1088 + p) (R.BLK_INT_RAW p) j true
  rw [State.raise_newly clear enabled]
  match i with
  | 0 => exact (Signalled.after marked (State.msixSend_signalled _ 0 _)).before (State.msixSend_sendsOnly _ 1 _)
  | 1 => exact Signalled.after (marked.trans (State.msixSend_sendsOnly _ 0 _)) (State.msixSend_signalled _ 1 _)

/-- An interrupt leaves the page's other bits of INT_RAW as they are. -/
theorem State.raise_others {j k : Nat} (hk : k < 32) (ne : k ≠ j) : (s.raise p j).bit (R.BLK_INT_RAW p) k = s.bit (R.BLK_INT_RAW p) k := by
  rw [s.raise_raised p j k hk]; simp [ne]

theorem State.raise_enable (s : State) (p j k : Nat) : (s.raise p j).bit (R.BLK_INT_EN p) k = s.bit (R.BLK_INT_EN p) k := by
  rw [State.bit, s.raise_get_ne _ _ _ (intRaw_key_ne_intEn p), State.bit]

/-! ## Forced interrupts (R462) -/

/-- Those of the bits listed that are chosen, raised in turn. -/
def State.raiseChosen (p : Nat) (chosen : Nat → Bool) (s : State) (js : List Nat) : State :=
  js.foldl (fun s j => if chosen j then s.raise p j else s) s

variable {chosen : Nat → Bool}

theorem State.raiseChosen_cons (s : State) (j : Nat) (js : List Nat) :
    s.raiseChosen p chosen (j :: js) = (if chosen j then s.raise p j else s).raiseChosen p chosen js := rfl

theorem State.raiseChosen_sendsOnly (s : State) (js : List Nat) : SendsOnly (1088 + p) s (s.raiseChosen p chosen js) := by
  induction js generalizing s with
  | nil => exact .of_same rfl rfl
  | cons j js ih =>
    rw [State.raiseChosen_cons]
    refine SendsOnly.trans ?_ (ih _)
    split
    · exact s.raise_sendsOnly p j
    · exact .of_same rfl rfl

/-- A chosen bit that newly pends signals the page's vector: the bits raised before it leave it clear and enabled. -/
theorem State.raiseChosen_signalled (s : State) {js : List Nat} {k : Nat} (listed : k ∈ js) (hk : k < 32) (choice : chosen k = true)
    (clear : s.bit (R.BLK_INT_RAW p) k = false) (enabled : s.bit (R.BLK_INT_EN p) k = true) (i : Fin 2) :
    Signalled (1088 + p) i s (s.raiseChosen p chosen js) := by
  induction js generalizing s with
  | nil => cases listed
  | cons j js ih =>
    rw [State.raiseChosen_cons]
    by_cases own : k = j
    · rw [← own, if_pos choice]
      exact (s.raise_signalled clear enabled i).before (State.raiseChosen_sendsOnly _ js)
    · have rest : k ∈ js := (List.mem_cons.mp listed).resolve_left own
      split
      · exact .after (s.raise_sendsOnly p j) (ih _ rest ((State.raise_others hk own).trans clear) ((s.raise_enable p j k).trans enabled))
      · exact ih s rest clear enabled

/-- A bit that a write of INT_FORCE sets: written 1, and defined by the page's chapter. -/
def Page.forces (pg : Page) (value : Word) (j : Nat) : Bool := bitOf value.toNat j && bitOf pg.intBits j

/-- INT_FORCE of a page that is there, responds and does not relock raises the bits written 1 that its chapter defines. -/
theorem execIntForce_raises {port : Fin 2} {page : Fin 0x4000} {pg : Page} {value : Word} (there : Page.ofAddr (0x1000 * page) = some pg)
    (h : reachable s page) :
    exec (.intForce (.pf port) page value) s = .next ((s.cross (islandOf page)).raiseChosen page (pg.forces value) (List.range 32)) := by
  change execIntForce (.pf port) page value s = _
  simp only [execIntForce, there]
  rw [if_pos h.1, s.crossing_reachable _ _ h]
  rfl

/-- Settles O6: each bit raised sends messages of the page's vector alone, and the bit that newly pends sends one on each PF. -/
theorem pageInterruptsSignalTheirVector : Obligations.PageInterruptsSignalTheirVector := by
  intro port page pg value j s there reach hj written defined clear enabled
  have crossed : SendsOnly (1088 + page) s (s.cross (islandOf page)) := .of_same rfl rfl
  have choice : pg.forces value j = true := by rw [Page.forces, bitOf_testBit, bitOf_testBit, written, defined]; rfl
  have told := fun i => Signalled.after crossed <|
    (s.cross (islandOf page)).raiseChosen_signalled (List.mem_range.mpr hj) hj choice clear enabled i
  exact ⟨_, execIntForce_raises there reach, fun i => (told i).unmasked, fun i => (told i).masked,
    fun _ => (crossed.trans (State.raiseChosen_sendsOnly _ _)).mem_drop⟩

end Sys2Proof.Machine
end

section
/-! SUPPORT. The encoding of instruction words (Table 3.2): the fields of a word by its bytes and nibbles, and that a word and its instruction determine
each other. -/
namespace Sys2Proof.Machine

/-- The word of an instruction lies below 2^64, and its fields stand where Table 3.2 has them. -/
theorem decodeCode_encodeCode (c : Code) (hcls : c.cls < 16) (hop : c.op < 16) : encodeCode c < 2 ^ 64 ∧ decodeCode (encodeCode c) = c := by
  obtain ⟨cls, op, ⟨d, a, b, ka, kd, modi, imm⟩⟩ := c
  have hmodi : modi.toNat < 256 := modi.isLt
  have himm : imm.toNat < 4294967296 := imm.isLt
  obtain ⟨d, hd⟩ := d; obtain ⟨a, ha⟩ := a; obtain ⟨b, hb⟩ := b; obtain ⟨ka, hka⟩ := ka; obtain ⟨kd, hkd⟩ := kd
  dsimp only at hcls hop
  refine ⟨by simp only [encodeCode]; omega, ?_⟩
  simp only [decodeCode, encodeCode, bitsOf, Code.mk.injEq, Insn.mk.injEq, Fin.ext_iff, Fin.val_ofNat]
  refine ⟨by omega, by omega, by omega, by omega, by omega, by omega, by omega, BitVec.eq_of_toNat_eq ?_, BitVec.eq_of_toNat_eq ?_⟩
  · rw [BitVec.toNat_ofNat]; omega
  · rw [BitVec.toNat_ofNat]; omega

/-- No bit of a word is lost in the instruction it holds. -/
theorem encodeCode_decodeCode {v : Nat} (h : v < 2 ^ 64) :
    encodeCode (decodeCode v) = v ∧ (decodeCode v).cls < 16 ∧ (decodeCode v).op < 16 := by
  simp only [encodeCode, decodeCode, bitsOf, BitVec.toNat_ofNat, Fin.val_ofNat]
  omega

/-- Settles O59, direction by direction. -/
theorem instructionWordsDecodeToThemselves : Obligations.InstructionWordsDecodeToThemselves :=
  ⟨decodeCode_encodeCode, fun _ => encodeCode_decodeCode⟩

end Sys2Proof.Machine
end

section
/-! SUPPORT. What a step does with the queue (R7 of the notation; log 7), what idling moves, the reset values, and the latching reads (R409). -/
namespace Sys2Proof.Machine

/-- Settles O1. -/
theorem stepRunsFrontCommand : Obligations.StepRunsFrontCommand := fun _ _ => rfl

/-- Obsidian's oscillator moves on by its nominal period within 2 % (Table 11.3). -/
theorem State.tick_osc (s : State) : s.ob.osc + 98 ≤ s.tick.ob.osc ∧ s.tick.ob.osc ≤ s.ob.osc + 102 := by
  have : Config.oscDrift s.ob.osc % 5 < 5 := Nat.mod_lt _ (by decide)
  simp only [State.tick]
  omega

/-- Settles O2: an idle step is a tick. -/
theorem emptyQueueIdlesOneTick : Obligations.EmptyQueueIdlesOneTick := by
  intro s empty
  refine ⟨s.tick, by simp only [step, empty], rfl, ?_, s.tick_osc⟩
  simp only [State.tick, Bool.or_eq_true]

/-- Settles O3: the reset state lists nothing, so every store reads its default. -/
theorem resetLeavesTheTablesValues : Obligations.ResetLeavesTheTablesValues := by
  refine ⟨rfl, fun _ _ => rfl, fun _ => rfl, rfl, rfl, fun _ => rfl, fun _ => rfl, fun _ => rfl, rfl, rfl, rfl, fun _ => ⟨rfl, rfl, rfl⟩⟩

/-- Settles O7: in each of the three registers a page that responds takes the branch that latches. -/
theorem latchingReadsLatchTheHighHalf : Obligations.LatchingReadsLatchTheHighHalf := by
  have responding {b : Bool} (h : b = true) : ¬ (!b) = true := by simp [h]
  exact ⟨fun _ _ h => if_neg (responding h), fun _ _ h => if_neg (responding h), fun _ _ h => if_neg (responding h)⟩

end Sys2Proof.Machine
end

section
/-! SUPPORT. Register writes through a PF (R8, R9, R27, R463): where the fields of a page stand, what a write does to each field by its access code,
and the common registers of Table 21.1. -/
namespace Sys2Proof.Machine

/-! ## Where pages and their fields stand (Table 21.2) -/

/-- The page found among some kinds is of one of them, and holds the address. -/
theorem Page.find_spec {ks : List PageKind} {a : Nat} {pg : Page} (h : Page.find ks a = some pg) :
    pg.kind ∈ ks ∧ pg.base ≤ a ∧ a < pg.base + 0x1000 ∧ pg.inst < pg.kind.count := by
  induction ks with
  | nil => cases h
  | cons k ks ih =>
    unfold Page.find at h
    split at h
    next here =>
      cases h
      simp only [Page.base, List.mem_cons, true_or, true_and]
      omega
    next =>
      obtain ⟨listed, rest⟩ := ih h
      exact ⟨List.mem_cons_of_mem _ listed, rest⟩

theorem PageKind.base_aligned (k : PageKind) : k.base % 0x1000 = 0 := by cases k <;> decide

/-- The page an address lies in depends on its page number alone. -/
theorem Page.find_congr (ks : List PageKind) {a b : Nat} (h : a / 0x1000 = b / 0x1000) : Page.find ks a = Page.find ks b := by
  induction ks with
  | nil => rfl
  | cons k ks ih =>
    have al := k.base_aligned
    simp only [Page.find, ih, show (k.base ≤ a ∧ a < k.base + 0x1000 * k.count) ↔ (k.base ≤ b ∧ b < k.base + 0x1000 * k.count) by omega,
      show (a - k.base) / 0x1000 = (b - k.base) / 0x1000 by omega]

theorem Page.ofAddr_congr {a b : Nat} (h : a / 0x1000 = b / 0x1000) : Page.ofAddr a = Page.ofAddr b := Page.find_congr _ h

theorem Page.base_num (pg : Page) : pg.base = 0x1000 * pg.num := by
  have := pg.kind.base_aligned
  simp only [Page.num, Page.base]
  omega

/-- A page of Table 21.2 is one of its kind's instances. -/
theorem Page.inst_lt {pg : Page} (real : Page.ofAddr pg.base = some pg) : pg.inst < pg.kind.count := (Page.find_spec real).2.2.2

theorem Page.num_lt {pg : Page} (real : Page.ofAddr pg.base = some pg) : pg.num < 0xB1 := by
  have inst := Page.inst_lt real
  obtain ⟨k, i⟩ := pg
  simp only [Page.num, Page.base]
  cases k <;> simp only [PageKind.base, PageKind.count] at inst ⊢ <;> omega

/-- A field `n` pages further on. -/
def Field.shift (n : Nat) (f : Field) : Field := { f with addr := f.addr + 0x1000 * n }

/-- The fields of an instance of a page are fields of its kind's first instance, further on by their pages; the first instance may have more (R9). -/
theorem Page.fields_shift (k : PageKind) {n : Nat} (h : n < k.count) :
    ∃ l : List Field, l.Sublist (Page.fields ⟨k, 0⟩) ∧ Page.fields ⟨k, n⟩ = l.map (Field.shift n) := by
  refine ⟨(Page.fields ⟨k, 0⟩).take (Page.fields ⟨k, n⟩).length, List.take_sublist _ _, ?_⟩
  cases k <;> simp only [PageKind.count] at h <;> interval_cases n <;> decide +kernel

/-- Do no two fields of a list share an address and a lowest bit? -/
def Field.distinct : List Field → Bool
  | [] => true
  | f :: fs => fs.all (fun g => !Nat.beq f.key g.key) && Field.distinct fs

theorem Field.distinct_pairwise : ∀ {fs : List Field}, Field.distinct fs = true → fs.Pairwise fun f g => f.key ≠ g.key
  | [], _ => .nil
  | f :: fs, h => by
    simp only [Field.distinct, Bool.and_eq_true, List.all_eq_true, Bool.not_eq_true'] at h
    exact .cons (fun g hg => Nat.ne_of_beq_eq_false (h.1 g hg)) (Field.distinct_pairwise h.2)

theorem Field.shift_key (n : Nat) (f : Field) : (f.shift n).key = f.key + 0x20000 * n := by simp only [Field.key, Field.shift]; omega

theorem Page.firstFields_distinct : ∀ k ∈ PageKind.all, Field.distinct (Page.fields ⟨k, 0⟩) = true := by decide +kernel

theorem PageKind.mem_all (k : PageKind) : k ∈ PageKind.all := by cases k <;> decide

/-- No two fields of a page share an address and a lowest bit. -/
theorem Page.fields_distinct {pg : Page} (real : Page.ofAddr pg.base = some pg) : pg.fields.Pairwise fun f g => f.key ≠ g.key := by
  obtain ⟨l, sub, fields⟩ := Page.fields_shift pg.kind (Page.inst_lt real)
  rw [show pg.fields = _ from fields, List.pairwise_map]
  refine ((Field.distinct_pairwise (Page.firstFields_distinct _ pg.kind.mem_all)).sublist sub).imp fun {f g} ne => ?_
  rw [Field.shift_key, Field.shift_key]
  omega

/-- Does a field of a page's first instance stand among the block-specific registers of its page, at a word that no write of its own takes, and away
from its block's LOCK where the field is an RWL one? -/
def Page.wellPlaced (base : Nat) (f : Field) : Bool :=
  base + 0x100 ≤ f.addr && f.addr < base + 0x800 && f.addr % 4 == 0 && f.lsb < 32 && f.addr != 0x3108 && f.addr != 0xA0220 && f.addr != 0xA0224 &&
  !(0xA0320 ≤ f.addr && f.addr < 0xA0340) && !(0x62120 ≤ f.addr && f.addr < 0x62140) &&
  (f.access != .rwl || [R.HQE_LOCK, R.PWR_LOCK, R.RST_LOCK, R.SD_LOCK].all (·.addr != f.addr))

theorem Page.firstFields_wellPlaced : ∀ k ∈ PageKind.all, ∀ f ∈ Page.fields ⟨k, 0⟩, Page.wellPlaced k.base f = true := by decide +kernel

/-- Where a field of a page stands (R9): among the block-specific registers, at a word that no write of its own takes, and away from its block's LOCK
where the field is an RWL one. -/
structure Page.Placed (pg : Page) (f : Field) : Prop where
  low : pg.base + 0x100 ≤ f.addr
  high : f.addr < pg.base + 0x800
  word : f.addr % 4 = 0
  lsb : f.lsb < 32
  cause : f.addr ≠ 0x3108
  part : f.addr ≠ 0xA0220 ∧ f.addr ≠ 0xA0224
  pair : ¬ (0xA0320 ≤ f.addr ∧ f.addr < 0xA0340)
  token : ¬ (0x62120 ≤ f.addr ∧ f.addr < 0x62140)
  lock : f.access = .rwl → ∀ g ∈ [R.HQE_LOCK, R.PWR_LOCK, R.RST_LOCK, R.SD_LOCK], g.addr ≠ f.addr

/-- The pages whose words have writes of their own, and those with a LOCK, are the only ones of their kinds. -/
theorem PageKind.single_or_apart (k : PageKind) : k.count = 1 ∨ ∀ n < k.count,
    ∀ b ∈ [0x1000, 0x3000, 0x62000, 0x91000, 0xA0000], k.base + 0x1000 * n ≠ b := by
  cases k <;> simp [PageKind.count, PageKind.base] <;> omega

theorem Page.field_placed {pg : Page} {f : Field} (real : Page.ofAddr pg.base = some pg) (hf : f ∈ pg.fields) : pg.Placed f := by
  obtain ⟨k, n⟩ := pg
  have inst := Page.inst_lt real
  obtain ⟨l, sub, fields⟩ := Page.fields_shift k inst
  rw [fields] at hf
  obtain ⟨g, hg, rfl⟩ := List.mem_map.mp hf
  have placed := Page.firstFields_wellPlaced k k.mem_all g (sub.subset hg)
  simp only [Page.wellPlaced, Bool.and_eq_true, decide_eq_true_eq, beq_iff_eq, bne_iff_ne, ne_eq, Bool.not_eq_true', Bool.or_eq_true,
    decide_eq_false_iff_not, List.all_eq_true, Bool.and_eq_false_imp, ← imp_iff_not_or] at placed
  obtain ⟨⟨⟨⟨⟨⟨⟨⟨⟨low, high⟩, word⟩, lsb⟩, cause⟩, part⟩, part'⟩, pair⟩, token⟩, lock⟩ := placed
  have al := k.base_aligned
  rcases k.single_or_apart with single | apart
  · obtain rfl : n = 0 := Nat.lt_one_iff.mp (single ▸ inst)
    exact ⟨low, high, word, lsb, cause, ⟨part, part'⟩, fun h => pair h.1 h.2, fun h => token h.1 h.2, lock⟩
  · have off := apart n inst
    simp only [List.forall_mem_cons, List.not_mem_nil, false_implies, implies_true, and_true] at off
    obtain ⟨pwr, rst, lcs, sd, hqe⟩ := off
    refine ⟨?_, ?_, ?_, lsb, ?_, ?_, ?_, ?_, fun _ => ?_⟩ <;>
      simp only [Page.base, Field.shift, List.forall_mem_cons, List.not_mem_nil, false_implies, implies_true, and_true, R.HQE_LOCK, R.PWR_LOCK,
        R.RST_LOCK, R.SD_LOCK] <;> omega

/-! ## A field written by its access code (Table 0.5) -/

/-- What a write leaves in a field: by its access code, from its old value and the bits written to it. -/
def Field.written (f : Field) (locked : Bool) (old x : Nat) : Nat :=
  match f.access with
  | .rw => x
  | .w1c => old &&& compl f.width x
  | .w1s => old ||| x
  | .rwl => if locked then old else x
  | .ro | .wo | .rwg => old

variable (s : State)

theorem State.get_cut (f : Field) : s.get f % 2 ^ f.width = s.get f := Nat.mod_mod _ _

theorem State.writeField_get (locked : Bool) (f : Field) (v : Nat) :
    (s.writeField locked f v).get f = f.written locked (s.get f) (bitsOf v f.lsb f.width) % 2 ^ f.width := by
  cases hf : f.access <;> simp only [State.writeField, Field.written, hf, State.get_set_same, State.get_cut]
  split
  · exact (s.get_cut f).symm
  · exact s.get_set_same f _

theorem State.writeField_keeps (locked : Bool) (f : Field) (v : Nat) :
    keeps [f] s (s.writeField locked f v) ∧ s.writeField locked f v = { s with regs := (s.writeField locked f v).regs } := by
  cases hf : f.access <;> simp only [State.writeField, hf]
  case rwl =>
    split
    · exact ⟨keeps_refl s _, rfl⟩
    · exact ⟨keeps_set s f _, rfl⟩
  case ro | wo | rwg => exact ⟨keeps_refl s _, trivial⟩
  all_goals exact ⟨keeps_set s f _, rfl⟩

/-- Nothing but registers differs along two changes of registers alone. -/
theorem regs_frame_trans {s t u : State} (h : t = { s with regs := t.regs }) (k : u = { t with regs := u.regs }) : u = { s with regs := u.regs } := by
  rw [h] at k
  exact k

/-- A word of fields of page `p` written: each field in turn, as the LOCK of the page then stands. -/
def State.writeFields (s : State) (p v : Nat) (fs : List Field) : State := fs.foldl (fun s f => s.writeField (s.pageLocked p) f v) s

theorem State.writeFields_keeps (p v : Nat) (fs : List Field) :
    keeps fs s (s.writeFields p v fs) ∧ s.writeFields p v fs = { s with regs := (s.writeFields p v fs).regs } := by
  induction fs generalizing s with
  | nil => exact ⟨keeps_refl s _, rfl⟩
  | cons g gs ih =>
    obtain ⟨k1, e1⟩ := s.writeField_keeps (s.pageLocked p) g v
    obtain ⟨k2, e2⟩ := ih (s.writeField (s.pageLocked p) g v)
    exact ⟨keeps_trans k1 k2, regs_frame_trans e1 e2⟩

theorem State.pageLocked_writeField {p v : Nat} {locked : Bool} {g : Field}
    (h : ∀ r ∈ [R.HQE_LOCK, R.PWR_LOCK, R.RST_LOCK, R.SD_LOCK], g.key ≠ r.key) : (s.writeField locked g v).pageLocked p = s.pageLocked p := by
  have keep := (s.writeField_keeps locked g v).1
  simp only [List.forall_mem_cons, List.not_mem_nil, false_implies, implies_true, and_true] at h
  obtain ⟨hqe, pwr, rst, sd⟩ := h
  simp only [State.pageLocked, keep R.HQE_LOCK (by simpa using hqe), keep R.PWR_LOCK (by simpa using pwr), keep R.RST_LOCK (by simpa using rst),
    keep R.SD_LOCK (by simpa using sd)]

/-- Each field of a word takes what its access code says of the value and the LOCK before the write. -/
theorem State.writeFields_get {p v : Nat} {fs : List Field} {f : Field} (hf : f ∈ fs) (apart : fs.Pairwise fun f g => f.key ≠ g.key)
    (lock : f.access = .rwl → ∀ g ∈ fs, ∀ r ∈ [R.HQE_LOCK, R.PWR_LOCK, R.RST_LOCK, R.SD_LOCK], g.key ≠ r.key) :
    (s.writeFields p v fs).get f = f.written (s.pageLocked p) (s.get f) (bitsOf v f.lsb f.width) % 2 ^ f.width := by
  induction fs generalizing s with
  | nil => cases hf
  | cons g gs ih =>
    obtain ⟨first, rest⟩ := List.pairwise_cons.mp apart
    change ((s.writeField (s.pageLocked p) g v).writeFields p v gs).get f = _
    rcases List.mem_cons.mp hf with rfl | later
    · rw [(State.writeFields_keeps _ p v gs).1 f fun g hg => (first g hg).symm, s.writeField_get]
    · rw [ih _ later rest fun rwl g hg => lock rwl g (List.mem_cons_of_mem _ hg),
        (s.writeField_keeps _ g v).1 f (by simpa using first f later)]
      by_cases rwl : f.access = .rwl
      · rw [s.pageLocked_writeField (lock rwl g (List.mem_cons_self ..))]
      · cases hf : f.access <;> simp_all [Field.written]

/-! ## A write through a PF (R9, R27, R463) -/

variable {s}

theorem State.registerWrite_reaches {port : Fin 2} {word : Fin 0x1000000} {value : Word} (h : reachable s (4 * word / 0x1000)) :
    exec (.registerWrite (.pf port) .bar0 word value) s =
      .next ((s.cross (islandOf (4 * word / 0x1000))).writePf (4 * word) value.toNat) := by
  change execRegisterWrite (.pf port) .bar0 word value s = _
  rw [execRegisterWrite, if_pos h.1, s.crossing_reachable _ _ h]

theorem State.registerWrite_waits {port : Fin 2} {word : Fin 0x1000000} {value : Word} (up : s.responds (4 * word / 0x1000) = true)
    (held : s.relocks (islandOf (4 * word / 0x1000)) = true) :
    exec (.registerWrite (.pf port) .bar0 word value) s =
      .next { s with pw := { s.pw with crossings := s.pw.crossings ++ [.registerWrite (.pf port) .bar0 word value] } } := by
  change execRegisterWrite (.pf port) .bar0 word value s = _
  rw [execRegisterWrite, if_pos up, State.crossing, if_pos held]

@[simp] theorem State.cross_responds (s : State) (i p : Nat) : (s.cross i).responds p = s.responds p := rfl

theorem State.writePf_block {a v : Nat} (up : s.responds (a / 0x1000) = true) (low : 0x100 ≤ a % 0x1000) (high : a % 0x1000 < 0x800) :
    s.writePf a v = s.writeBlock a v := by
  simp only [State.writePf, up, if_neg (Nat.not_lt.mpr low), if_pos high]
  rfl

/-- A block-specific word whose fields the access codes rule writes its fields, in the order of the page's table. -/
theorem State.writeBlock_fields {pg : Page} {f : Field} {v : Nat} (placed : pg.Placed f) (there : Page.ofAddr f.addr = some pg)
    (free : compareUnit f.addr = none) :
    s.writeBlock f.addr v = s.writeFields (f.addr / 0x1000) v (pg.fields.filter fun g => g.addr == f.addr && !ownCommand g) := by
  rw [State.writeBlock, if_neg placed.cause, if_neg (not_or.mpr placed.part), if_neg placed.pair, if_neg placed.token]
  simp only [free, there]
  rfl

theorem fin_word {a : Nat} (h : a / 4 < 0x1000000) (al : a % 4 = 0) : 4 * (Fin.ofNat 0x1000000 (a / 4)).val = a := by
  rw [Fin.val_ofNat, Nat.mod_eq_of_lt h]; omega

/-- Settles O4: the fields of the word written, each by its access code, and the writes that wait. -/
theorem registerWriteFollowsAccessCodes : Obligations.RegisterWriteFollowsAccessCodes := by
  refine ⟨fun port pg f value s real hf own unit small reach => ?_, fun _ _ _ _ up held => State.registerWrite_waits up held⟩
  have placed := Page.field_placed real hf
  have base := pg.base_num
  have num : f.addr / 0x1000 = pg.num := by have := placed.low; have := placed.high; omega
  have there : Page.ofAddr f.addr = some pg := by rw [← real]; exact Page.ofAddr_congr (by omega)
  have word := fin_word small placed.word
  have low : 0x100 ≤ f.addr % 0x1000 := by have := placed.low; have := placed.high; omega
  have high : f.addr % 0x1000 < 0x800 := by have := placed.low; have := placed.high; omega
  have run := State.registerWrite_reaches (s := s) (port := port) (word := Fin.ofNat _ (f.addr / 4)) (value := value) (by rwa [word, num])
  rw [word, num, State.writePf_block (by rw [num]; exact reach.1) low high, State.writeBlock_fields placed there unit, num] at run
  generalize hfs : (pg.fields.filter fun g => g.addr == f.addr && !ownCommand g) = fs at run
  have mem : f ∈ fs := by rw [← hfs, List.mem_filter]; simp [hf, own]
  have apart : fs.Pairwise fun f g => f.key ≠ g.key := by rw [← hfs]; exact (Page.fields_distinct real).sublist List.filter_sublist
  obtain ⟨keep, frame⟩ := (s.cross (islandOf pg.num)).writeFields_keeps pg.num value.toNat fs
  refine ⟨_, run, ?_, keeps_mono keep fun g hg => ?_, frame⟩
  · dsimp only
    rw [State.writeFields_get _ mem apart fun rwl g hg r hr => ?_, Nat.mod_mod]
    · rfl
    · rw [← hfs, List.mem_filter] at hg
      simp only [Bool.and_eq_true, beq_iff_eq] at hg
      have inWord := (Page.field_placed real hg.1).lsb
      have off := placed.lock rwl r hr
      simp only [Field.key, hg.2.1]
      fin_cases hr <;> simp only [R.HQE_LOCK, R.PWR_LOCK, R.RST_LOCK, R.SD_LOCK] at off ⊢ <;> omega
  · rw [← hfs, List.mem_filter] at hg
    simp only [Bool.and_eq_true] at hg
    exact List.mem_filter.mpr ⟨hg.1, hg.2.1⟩

end Sys2Proof.Machine
end

section
/-! SUPPORT. The common registers of Table 21.1 written, the writes that reach no register (R27, R281, R463), and what INT_FORCE leaves (R462). -/
namespace Sys2Proof.Machine

variable {s : State}

/-! ## INT_EN and INT_RAW (Table 21.1) -/

theorem State.msixSends_onlyFields (s : State) (v : Nat) : onlyFields [] s ((s.msixSend (.pf 0) v).msixSend (.pf 1) v) :=
  onlyFields_mono (onlyFields_trans (s.msixSend_onlyFields _ _) (State.msixSend_onlyFields _ _ _)) (by simp)

/-- INT_EN takes the value, but in the pages of MPUs 14 and 15 (R281); messages may go out. -/
theorem State.writeIntEn_spec (s : State) (p v : Nat) (hv : v < 2 ^ 32) :
    (s.writeIntEn p v).get (R.BLK_INT_EN p) = (if p = 0x5E ∨ p = 0x5F then s.get (R.BLK_INT_EN p) else v) ∧
      onlyFields [R.BLK_INT_EN p] s (s.writeIntEn p v) := by
  unfold State.writeIntEn
  have absent : noMpu p = true ↔ p = 0x5E ∨ p = 0x5F := by simp [noMpu]
  by_cases h : noMpu p = true
  · rw [if_pos h, if_pos (absent.mp h)]
    exact ⟨rfl, onlyFields_refl s _⟩
  · rw [if_neg h, if_neg (fun k => h (absent.mpr k))]
    have taken : (s.set (R.BLK_INT_EN p) v).get (R.BLK_INT_EN p) = v := by rw [State.get_set_same]; exact Nat.mod_eq_of_lt hv
    dsimp only
    split
    · exact ⟨by simpa using taken, onlyFields_mono (onlyFields_trans (onlyFields_set s _ v) (State.msixSends_onlyFields _ _)) (by simp)⟩
    · exact ⟨taken, onlyFields_set s _ v⟩

theorem testBit_and_compl {x w i : Nat} (v : Nat) (hi : i < w) : (x &&& compl w v).testBit i = (x.testBit i && !v.testBit i) := by
  rw [Nat.testBit_and, compl, Nat.sub_sub, Nat.add_comm, Nat.testBit_two_pow_sub_succ (Nat.mod_lt _ (Nat.two_pow_pos w)), Nat.testBit_mod_two_pow]
  simp [hi]

/-- INT_RAW bits written 1 clear; at the arbiters' page the capture of STARVE may clear with them (R258). -/
theorem State.writeIntRaw_spec (s : State) (p v : Nat) :
    (∀ j < 32, (s.writeIntRaw p v).bit (R.BLK_INT_RAW p) j = (s.bit (R.BLK_INT_RAW p) j && !v.testBit j)) ∧
      onlyFields [R.BLK_INT_RAW p, R.ARB_CAPT_PLACE, R.ARB_CAPT_UNIT, R.ARB_CAPT_REQ] s (s.writeIntRaw p v) := by
  have cleared : ∀ j < 32, (s.writeField false (R.BLK_INT_RAW p) v).bit (R.BLK_INT_RAW p) j = (s.bit (R.BLK_INT_RAW p) j && !v.testBit j) := by
    intro j hj
    rw [State.bit, s.writeField_get, bitOf_testBit, Nat.testBit_mod_two_pow, State.bit, bitOf_testBit]
    have cut : bitsOf v 0 32 = v % 2 ^ 32 := by simp [bitsOf]
    simp only [Field.written, R.BLK_INT_RAW, hj, decide_true, Bool.true_and, cut]
    rw [testBit_and_compl _ hj, Nat.testBit_mod_two_pow]
    simp [hj]
  have raw : onlyFields [R.BLK_INT_RAW p] s (s.writeField false (R.BLK_INT_RAW p) v) := onlyFields_set s _ _
  unfold State.writeIntRaw
  dsimp only
  split
  next here =>
    obtain ⟨rfl, -⟩ := here
    refine ⟨fun j hj => ?_, onlyFields_trans raw (onlyFields_trans (onlyFields_trans (onlyFields_set _ _ 0) (onlyFields_set _ _ 0)) (onlyFields_set _ _ 0))⟩
    rw [← cleared j hj, State.bit, State.get_set_ne _ _ _ _ (by decide), State.get_set_ne _ _ _ _ (by decide), State.get_set_ne _ _ _ _ (by decide),
      State.bit]
  next => exact ⟨cleared, onlyFields_mono raw (by simp)⟩

/-- A write to a common register of a page that responds. -/
theorem State.registerWrite_common {port : Fin 2} {pg : Page} {off : Nat} {value : Word} (real : Page.ofAddr pg.base = some pg)
    (reach : reachable s pg.num) (low : off < 0x100) (al : off % 4 = 0) :
    exec (.registerWrite (.pf port) .bar0 (Fin.ofNat _ ((pg.base + off) / 4)) value) s =
      .next ((s.cross (islandOf pg.num)).writeCommon pg.num off value.toNat) := by
  have base := pg.base_num
  have few := Page.num_lt real
  have word := fin_word (a := pg.base + off) (by omega) (by omega)
  have num : (pg.base + off) / 0x1000 = pg.num := by omega
  have place : (pg.base + off) % 0x1000 = off := by omega
  rw [State.registerWrite_reaches (by rwa [word, num]), word, num, State.writePf]
  simp only [num, place, State.cross_responds, reach.1, if_pos low]
  rfl

/-! ## Writes that reach no register (R27, R384, R463) -/

theorem readyBit_beyond {p : Nat} (h : 0xB1 ≤ p) : readyBit p = none := by
  unfold readyBit
  iterate 22 rw [if_neg (by omega)]

theorem readyBit_paged : ∀ p < 0xB1, Page.ofAddr (0x1000 * p) = none → readyBit p = none := by decide +kernel

/-- No block answers at an address outside the pages. -/
theorem readyBit_none {a : Nat} (h : Page.ofAddr a = none) : readyBit (a / 0x1000) = none := by
  rcases Nat.lt_or_ge (a / 0x1000) 0xB1 with below | beyond
  · exact readyBit_paged _ below (by rw [← h]; exact Page.ofAddr_congr (by omega))
  · exact readyBit_beyond beyond

theorem State.responds_none {a : Nat} (h : Page.ofAddr a = none) : s.responds (a / 0x1000) = false := by
  simp [State.responds, readyBit_none h]

theorem State.registerWrite_ignored {port : Fin 2} {word : Fin 0x1000000} {value : Word} (h : s.responds (4 * word / 0x1000) = false) :
    exec (.registerWrite (.pf port) .bar0 word value) s = .next s := by
  change execRegisterWrite (.pf port) .bar0 word value s = _
  rw [execRegisterWrite, if_neg (by simp [h])]

theorem State.registerWrite_shadow {port : Fin 2} {word : Fin 0x1000000} {value : Word} (h : reachable s (4 * word / 0x1000))
    (shadow : 0x800 ≤ 4 * word.val % 0x1000) :
    exec (.registerWrite (.pf port) .bar0 word value) s = .next (s.cross (islandOf (4 * word / 0x1000))) := by
  rw [State.registerWrite_reaches h]
  simp only [State.writePf, State.cross_responds, h.1, if_neg (show ¬ 4 * word.val % 0x1000 < 0x100 by omega),
    if_neg (show ¬ 4 * word.val % 0x1000 < 0x800 by omega)]
  rfl

/-! ## INT_FORCE (R462) -/

/-- The bits chosen stand in INT_RAW, and nothing else changes but for messages. -/
theorem State.raiseChosen_spec {p : Nat} {chosen : Nat → Bool} (s : State) (js : List Nat) :
    (∀ j < 32, (s.raiseChosen p chosen js).bit (R.BLK_INT_RAW p) j = (s.bit (R.BLK_INT_RAW p) j || (js.contains j && chosen j))) ∧
      onlyFields [R.BLK_INT_RAW p] s (s.raiseChosen p chosen js) := by
  induction js generalizing s with
  | nil => exact ⟨fun j _ => by simp [State.raiseChosen], onlyFields_refl s _⟩
  | cons i js ih =>
    rw [State.raiseChosen_cons]
    obtain ⟨bits, only⟩ := ih (if chosen i then s.raise p i else s)
    refine ⟨fun j hj => ?_, ?_⟩
    · rw [bits j hj]
      split
      next yes =>
        rw [s.raise_raised p i j hj]
        by_cases own : j = i
        · subst own; simp [yes]
        · simp [own]
      next no =>
        by_cases own : j = i
        · subst own; simp [no]
        · simp [own]
    · refine onlyFields_mono (onlyFields_trans (?_ : onlyFields [R.BLK_INT_RAW p] s _) only) (by simp)
      split
      · exact s.raise_onlyFields p i
      · exact onlyFields_refl s _

theorem execIntForce_waits {port : Fin 2} {page : Fin 0x4000} {value : Word} (up : s.responds page = true)
    (held : s.relocks (islandOf page) = true) (there : Page.ofAddr (0x1000 * page) ≠ none) :
    exec (.intForce (.pf port) page value) s =
      .next { s with pw := { s.pw with crossings := s.pw.crossings ++ [.intForce (.pf port) page value] } } := by
  obtain ⟨pg, hpg⟩ := Option.ne_none_iff_exists'.mp there
  change execIntForce (.pf port) page value s = _
  simp only [execIntForce, hpg]
  rw [if_pos up, State.crossing, if_pos held]

theorem execIntForce_ignored {fn : Func} {page : Fin 0x4000} {value : Word} (h : s.responds page = false ∨ ∃ p n, fn = .vf p n) :
    exec (.intForce fn page value) s = .next s := by
  change execIntForce fn page value s = _
  unfold execIntForce
  split
  · exact if_neg (by rcases h with off | ⟨_, _, vf⟩
                     · simp [off]
                     · cases vf)
  · rfl

/-- Settles O5: INT_EN, INT_RAW and INT_FORCE by their rules, and the writes that reach no register or wait. -/
theorem commonRegistersAndIgnoredWrites : Obligations.CommonRegistersAndIgnoredWrites := by
  refine ⟨⟨fun port pg value s real reach => ?intEn, fun port pg value s real reach => ?intRaw, fun _ _ _ _ off => State.registerWrite_ignored off,
    fun _ _ _ _ off => State.registerWrite_ignored (State.responds_none off), fun _ _ _ _ => State.registerWrite_shadow⟩,
    fun port page pg value s there reach => ?force, fun _ _ _ _ => execIntForce_waits, fun _ _ _ _ => execIntForce_ignored⟩
  case intEn => exact ⟨_, State.registerWrite_common real reach (by decide) (by decide), State.writeIntEn_spec _ _ _ value.isLt⟩
  case intRaw => exact ⟨_, State.registerWrite_common real reach (by decide) (by decide), State.writeIntRaw_spec _ _ _⟩
  case force =>
    obtain ⟨bits, only⟩ := (s.cross (islandOf page)).raiseChosen_spec (p := page) (chosen := pg.forces value) (List.range 32)
    refine ⟨_, execIntForce_raises there reach, fun j hj => ?_, only⟩
    rw [bits j hj]
    simp [hj, Page.forces, bitOf_testBit, State.cross, State.touch, State.bit, State.get]

end Sys2Proof.Machine
end

section
/-! SUPPORT. Queue pairs enabled and disabled (R36), doorbells (R38) and the sleep entry a doorbell aborts (R330). -/
namespace Sys2Proof.Machine

variable {s : State} {fn : Func} {q : Fin 64} {p : Nat}

/-! ## ENABLE (Table 2.4) -/

theorem execQpEnable_reaches (up : s.responds pgHQE = true) (own : s.partOf fn = some p) (off : (s.qp p q).qstate = .disabled) :
    exec (.qpEnable fn q) s = .next (if s.qpValid p q then s.updQp p q fun x =>
        { x with qstate := .active, qerr := 0, sqHead := 0, sqTail := 0, cqHead := 0, cqTail := 0, phase := true,
                 unsignalled := 0, coalDue := none, fn := s.namedFunc p q, cqDoor := none, failed := false } else s.haltQp p q 5) := by
  change execQpEnable fn q s = _
  simp only [execQpEnable, up, own]
  rw [if_neg (by simp), if_neg (by simp [off])]
  split <;> rfl

theorem execQpDisable_reaches (up : s.responds pgHQE = true) (own : s.partOf fn = some p) (on : (s.qp p q).qstate ≠ .disabled)
    (going : (s.qp p q).qstate ≠ .draining) :
    exec (.qpDisable fn q) s = .next ((s.updQp p q fun x => { x with qstate := .draining, qerr := 0 }).settleQp p q) := by
  change execQpDisable fn q s = _
  simp only [execQpDisable, up, own]
  cases h : (s.qp p q).qstate <;> first | rfl | exact absurd h on | exact absurd h going

theorem State.updQp_inFlight (f : QueuePair → QueuePair) (p' q' : Nat) : (s.updQp p q f).inFlight p' q' = s.inFlight p' q' := rfl

/-- A DRAINING pair settles into DISABLED where nothing of it is in flight. -/
theorem State.settleQp_drained (h : (s.qp p q).qstate = .draining) :
    (s.settleQp p q).qp p q = if s.inFlight p q = 0 ∧ (s.qp p q).reading = 0
      then { s.qp p q with qstate := .disabled, qerr := 0, fn := none, cqDoor := none, failed := false } else s.qp p q := by
  unfold State.settleQp
  by_cases idle : s.inFlight p q = 0 ∧ (s.qp p q).reading = 0
  · rw [if_pos ⟨h, idle⟩, if_pos idle, State.qp_updQp_same]
  · rw [if_neg (fun k => idle k.2), if_neg idle]

/-- Settles O10: ENABLE written 1 and 0, by the state of the pair; what reaches no pair. -/
theorem queuePairEnableAndDisable : Obligations.QueuePairEnableAndDisable := by
  refine ⟨fun fn q p s up own off valid => ?on, fun fn q p s up own off bad => ?bad, fun fn q p s up own on going => ?off,
    fun fn q p s own => ⟨fun on => ?isOn, fun off => ?isOff⟩, fun fn q s away => ?away⟩
  case on =>
    rw [execQpEnable_reaches up own off, if_pos valid]
    exact ⟨_, rfl, s.qp_updQp_same _ _ _, fun p' q' ne => s.qp_updQp_ne _ _ _ _ _ ne.symm, rfl⟩
  case bad =>
    rw [execQpEnable_reaches up own off, if_neg (by simp [bad])]
    exact ⟨_, rfl, s.haltQp_halts p q 5⟩
  case off =>
    rw [execQpDisable_reaches up own on going]
    generalize hu : s.updQp p q (fun x => { x with qstate := .draining, qerr := 0 }) = u
    have pair : u.qp p q = { s.qp p q with qstate := .draining, qerr := 0 } := by rw [← hu, State.qp_updQp_same]
    have others : ∀ p' q', qpKey p' q' ≠ qpKey p q → u.qp p' q' = s.qp p' q' := fun p' q' ne => by
      rw [← hu, State.qp_updQp_ne _ _ _ _ _ _ ne.symm]
    obtain ⟨rest, frame⟩ := u.settleQp_spec p q
    refine ⟨_, rfl, ?_, fun p' q' ne => (rest p' q' ne).trans (others p' q' ne), ?_⟩
    · rw [State.settleQp_drained (by rw [pair]), pair, ← hu]
      rfl
    · rw [frame, ← hu]; rfl
  case isOn =>
    change execQpEnable fn q s = _
    simp [execQpEnable, own, on]
  case isOff =>
    change execQpDisable fn q s = _
    rcases off with off | off <;> simp [execQpDisable, own, off]
  case away =>
    change execQpEnable fn q s = _ ∧ execQpDisable fn q s = _
    rcases away with down | none <;> simp [execQpEnable, execQpDisable, *]

theorem State.qp_congr {s t : State} (h : t.hq.qps = s.hq.qps) (p q : Nat) : t.qp p q = s.qp p q := by rw [State.qp, h, State.qp]

/-! ## Who waits at an arbiter (R254) -/

theorem State.arb_updArb_ne (s : State) {u v : Nat} (f : Arbiter → Arbiter) (h : v ≠ u) : (s.updArb u f).arb v = s.arb v :=
  Sparse.get_upd_ne _ _ _ h.symm

/-- Noting who waits writes one arbiter's list. -/
theorem State.noteWaits_spec (s : State) (u : Nat) (pl : Placement) (new : List Nat) :
    (∀ v, v ≠ u → (s.noteWaits u pl new).arb v = s.arb v) ∧ s.noteWaits u pl new = { s with arbs := (s.noteWaits u pl new).arbs } :=
  ⟨fun _ ne => s.arb_updArb_ne _ ne, rfl⟩

theorem State.noteFetch_spec (s : State) (port : Nat) :
    (∀ v, v ≠ port → (s.noteFetch port).arb v = s.arb v) ∧ s.noteFetch port = { s with arbs := (s.noteFetch port).arbs } := s.noteWaits_spec _ _ _

/-! ## A sleep entry aborted (R330) -/

theorem State.abortSleep_awake (s : State) (h : s.pw.phase ≠ .entering) : s.abortSleep = s := if_pos h

/-- The level in force depends on the latch, the sleep phase and three registers alone. -/
theorem State.settleLevel_eff (s : State) : s.settleLevel.get R.PWR_EFF_PL % 2 ^ R.PWR_EFF_PL.width = s.settleLevel.levelInForce % 2 ^ R.PWR_EFF_PL.width := by
  have same : s.settleLevel.levelInForce = s.levelInForce := by
    have target := s.settleLevel_keeps R.PWR_PL_TARGET (by decide)
    have cap := s.settleLevel_keeps R.PWR_PL_CAP (by decide)
    have therm := s.settleLevel_keeps R.PWR_THERM_CAP (by decide)
    have ob : s.settleLevel.ob = s.ob := Steady.ob (.settleLevel .refl)
    simp only [State.levelInForce, target, cap, therm, ob, State.settleLevel_phase]
  rw [same]
  unfold State.settleLevel
  dsimp only
  split
  next eq => rw [eq]
  next => exact (congrArg (· % _) (s.get_set_same R.PWR_EFF_PL _)).trans (Nat.mod_mod _ _)

theorem State.settleLevel_frame (s : State) : s.settleLevel = { s with regs := s.settleLevel.regs, pw := s.settleLevel.pw } := by
  unfold State.settleLevel
  dsimp only
  split <;> rfl

/-- What the abort of a sleep entry leaves: awake again, SLEEP and ABORT_CNT, PWR INT_RAW bit 4, the level in force. -/
theorem State.abortSleep_spec (s : State) (h : s.pw.phase = .entering) :
    s.abortSleep.pw.phase = .awake ∧ s.abortSleep.get R.PWR_SLEEP = 0 ∧
    s.abortSleep.get R.PWR_ABORT_CNT = satAdd R.PWR_ABORT_CNT.width (s.get R.PWR_ABORT_CNT) 1 % 2 ^ R.PWR_ABORT_CNT.width ∧
    raised pgPWR [4] s s.abortSleep ∧
    s.abortSleep.get R.PWR_EFF_PL % 2 ^ R.PWR_EFF_PL.width = s.abortSleep.levelInForce % 2 ^ R.PWR_EFF_PL.width ∧ sentMsix s s.abortSleep ∧
    s.abortSleep = { s with hq := { s.hq with msixPend := s.abortSleep.hq.msixPend }, pw := s.abortSleep.pw, regs := s.abortSleep.regs,
                            out := s.abortSleep.out } := by
  unfold State.abortSleep
  rw [if_neg (by simp [h])]
  dsimp only
  generalize hu : (s.set R.PWR_SLEEP 0).countSat R.PWR_ABORT_CNT = u
  have only := u.raise_onlyFields pgPWR 4
  have bits := u.raise_raised pgPWR 4
  generalize hv : u.raise pgPWR 4 = v at only bits
  obtain ⟨keep, sent, frame⟩ := only
  generalize hw : ({ v.set R.PWR_T1_CAP (b2n (s.ob.latch == 1)) with
    pw := { (v.set R.PWR_T1_CAP (b2n (s.ob.latch == 1))).pw with phase := .awake } } : State) = w
  have get : ∀ f : Field, R.PWR_T1_CAP.key ≠ f.key → R.PWR_EFF_PL.key ≠ f.key → w.settleLevel.get f = v.get f := fun f t1 eff => by
    rw [w.settleLevel_keeps f (by simpa using eff), ← hw]
    exact v.get_set_ne _ _ _ t1
  have level := w.settleLevel_frame
  have wu : w = { v with regs := w.regs, pw := w.pw } := by rw [← hw]; rfl
  have out : w.settleLevel.out = v.out := by rw [level, wu]
  refine ⟨?_, ?_, ?_, fun j hj => ?_, w.settleLevel_eff, ?_, ?_⟩
  · rw [w.settleLevel_phase, ← hw]
  · rw [get _ (by decide) (by decide), keep _ (by decide), ← hu, State.get_countSat_ne _ _ _ _ (by decide), State.get_set_same]; rfl
  · rw [get _ (by decide) (by decide), keep _ (by decide), ← hu, State.countSat, State.get_set_same, State.get_set_ne _ _ _ _ (by decide)]
  · rw [State.bit, get _ (by decide) (by decide), ← State.bit, bits j hj, ← hu]
    rw [State.bit, State.get_countSat_ne _ _ _ _ (by decide), State.get_set_ne _ _ _ _ (by decide), State.bit]
  · obtain ⟨ms, hms, all⟩ := sent
    exact ⟨ms, by rw [out, hms, ← hu]; rfl, all⟩
  · rw [level, wu, frame, ← hu]; rfl

/-! ## Doorbells (R33, R38) -/

theorem State.doorbell_ignored {size : Nat} {v : Word}
    (h : size ≠ 4 ∨ s.doorbellAt fn q = none ∨ s.responds pgHQE = false ∨ ∃ p, s.doorbellAt fn q = some p ∧ (s.qp p q).qstate = .disabled) :
    exec (.sqTailDoorbell fn q size v) s = .next s ∧ exec (.cqHeadDoorbell fn q size v) s = .next s := by
  change execSqTailDoorbell fn q size v s = _ ∧ execCqHeadDoorbell fn q size v s = _
  unfold execSqTailDoorbell execCqHeadDoorbell
  cases up : s.responds pgHQE
  · exact ⟨rfl, rfl⟩
  · cases at' : s.doorbellAt fn q with
    | none => exact ⟨rfl, rfl⟩
    | some p =>
      have off : size ≠ 4 ∨ (s.qp p q).qstate = .disabled := by
        rcases h with h | h | h | ⟨p', here, off⟩
        · exact .inl h
        · rw [at'] at h; cases h
        · rw [up] at h; cases h
        · rw [at'] at here; cases here; exact .inr off
      exact ⟨if_pos off, if_pos off⟩

theorem execSqTailDoorbell_reaches {v : Word} (up : s.responds pgHQE = true) (at' : s.doorbellAt fn q = some p) (on : (s.qp p q).qstate ≠ .disabled) :
    exec (.sqTailDoorbell fn q 4 v) s = .next (if (s.qp p q).qstate = .active ∧ s.mode ≠ .boot ∧ (s.qp p q).sqSize < v.toNat % 65536
      then (s.crossPort fn).haltQp p q 1
      else (((s.crossPort fn).updQp p q fun x => { x with sqTail := v.toNat % 65536 }).abortSleep).noteFetch (funcPort fn)) := by
  change execSqTailDoorbell fn q 4 v s = _
  unfold execSqTailDoorbell
  simp only [up, at']
  rw [if_neg (by simp), if_neg (by simp [on])]
  by_cases bad : (s.qp p q).qstate = .active ∧ s.mode ≠ .boot ∧ (s.qp p q).sqSize < v.toNat % 65536
  · rw [if_pos bad]; exact if_pos bad
  · rw [if_neg bad]; exact if_neg bad

theorem execCqHeadDoorbell_reaches {v : Word} (up : s.responds pgHQE = true) (at' : s.doorbellAt fn q = some p) (on : (s.qp p q).qstate ≠ .disabled) :
    exec (.cqHeadDoorbell fn q 4 v) s = .next (if s.recordsDoorbells p q then
        (s.crossPort fn).updQp p q fun x => { x with cqDoor := some (v.toNat % 65536) }
      else if (s.qp p q).overReleases (v.toNat % 65536) then (if (s.qp p q).qstate = .active then (s.crossPort fn).haltQp p q 2 else s.crossPort fn)
      else ((s.crossPort fn).updQp p q fun x => { x with cqHead := v.toNat % 65536 }).noteFetch (funcPort fn)) := by
  change execCqHeadDoorbell fn q 4 v s = _
  unfold execCqHeadDoorbell
  simp only [up, at']
  rw [if_neg (by simp), if_neg (by simp [on])]
  have same : (s.crossPort fn).recordsDoorbells p q = s.recordsDoorbells p q := rfl
  rw [same]
  split
  · rfl
  · split
    · split <;> rfl
    · rfl

/-- A pair of the state after a pair was changed and who waits noted: that pair as changed, every other as before, and nothing else. -/
theorem State.updQp_noteFetch_spec (s : State) (p q port : Nat) (f : QueuePair → QueuePair) :
    let t := (s.updQp p q f).noteFetch port
    t.qp p q = f (s.qp p q) ∧ (∀ p' q', qpKey p' q' ≠ qpKey p q → t.qp p' q' = s.qp p' q') ∧ (∀ u, u ≠ port → t.arb u = s.arb u) ∧
      t = { s with hq := { s.hq with qps := t.hq.qps }, arbs := t.arbs } :=
  ⟨s.qp_updQp_same p q f, fun _ _ ne => s.qp_updQp_ne _ _ _ _ _ ne.symm, ((s.updQp p q f).noteFetch_spec port).1, rfl⟩

/-- Settles O11: each doorbell by the state of its pair, and those that reach none. -/
theorem doorbellsRecordOrHalt : Obligations.DoorbellsRecordOrHalt := by
  refine ⟨fun fn q p v s up here on fits awake => ?record, fun fn q p v s up here on boot out => ?halt,
    fun fn q p v s up here on fits entering => ?entering, fun fn q p v s up here on => ?cq, fun p q s => ?records, fun x v => ?releases,
    fun fn q size v s h => State.doorbell_ignored h⟩
  case record =>
    rw [execSqTailDoorbell_reaches up here on, if_neg fits, State.abortSleep_awake]
    · exact ⟨_, rfl, (s.crossPort fn).updQp_noteFetch_spec p q (funcPort fn) _⟩
    · exact awake
  case halt =>
    rw [execSqTailDoorbell_reaches up here (by rw [on]; decide), if_pos ⟨on, boot, out⟩]
    exact ⟨_, rfl, (s.crossPort fn).haltQp_halts p q 1⟩
  case entering =>
    rw [execSqTailDoorbell_reaches up here on, if_neg fits]
    generalize hu : (s.crossPort fn).updQp p q (fun x => { x with sqTail := v.toNat % 65536 }) = u
    have pair : u.qp p q = { s.qp p q with sqTail := v.toNat % 65536 } := by rw [← hu, State.qp_updQp_same]; rfl
    have others : ∀ p' q', qpKey p' q' ≠ qpKey p q → u.qp p' q' = s.qp p' q' := fun p' q' ne => by
      rw [← hu, State.qp_updQp_ne _ _ _ _ _ _ ne.symm]; rfl
    obtain ⟨phase, sleep, aborts, bit4, eff, sent, frame⟩ := u.abortSleep_spec (by rw [← hu]; exact entering)
    obtain ⟨arbs, noted⟩ := u.abortSleep.noteFetch_spec (funcPort fn)
    have qps : u.abortSleep.hq.qps = u.hq.qps := by rw [frame]
    have same : u.abortSleep.arbs = s.arbs := by rw [frame, ← hu]; rfl
    have get : ∀ f, u.get f = s.get f := fun f => by rw [← hu]; rfl
    have out : u.out = s.out := by rw [← hu]; rfl
    refine ⟨_, rfl, (State.qp_congr qps p q).trans pair, fun p' q' ne => (State.qp_congr qps p' q').trans (others p' q' ne), phase, sleep,
      aborts.trans (by rw [get]), fun j hj => (bit4 j hj).trans (by rw [State.bit, get, State.bit]), eff, ?_, fun w ne => ?_, ?_⟩
    · obtain ⟨ms, hms, all⟩ := sent
      exact ⟨ms, hms.trans (by rw [out]), all⟩
    · rw [arbs w ne, State.arb, same]; rfl
    · rw [noted, frame, ← hu]; rfl
  case cq =>
    rw [execCqHeadDoorbell_reaches up here on]
    refine ⟨fun rec => ?_, fun rec fits => ?_, fun rec out active => ?_, fun rec out idle => ?_⟩
    · rw [if_pos rec]
      exact ⟨_, rfl, State.qp_updQp_same _ _ _ _, fun _ _ ne => State.qp_updQp_ne _ _ _ _ _ _ ne.symm, rfl⟩
    · rw [if_neg (by simp [rec]), if_neg (by simp [fits])]
      exact ⟨_, rfl, (s.crossPort fn).updQp_noteFetch_spec p q (funcPort fn) _⟩
    · rw [if_neg (by simp [rec]), if_pos out, if_pos active]
      exact ⟨_, rfl, (s.crossPort fn).haltQp_halts p q 2⟩
    · rw [if_neg (by simp [rec]), if_pos out, if_neg idle]
  case records => simp [State.recordsDoorbells]
  case releases => rw [QueuePair.overReleases, Bool.or_eq_true, decide_eq_true_iff, decide_eq_true_iff, QueuePair.unreleased]

end Sys2Proof.Machine
end

section
/-! SUPPORT. A fetched burst (R39, R50). -/
namespace Sys2Proof.Machine

variable {s : State}

/-! ## A burst read (R39, R50) -/

@[simp] theorem State.noteFetch_part (s : State) (port p : Nat) : (s.noteFetch port).part p = s.part p := rfl
@[simp] theorem State.spend_part (s : State) (u p : Nat) : (s.spend u).part p = s.part p := rfl
@[simp] theorem State.spend_spent (s : State) (u : Nat) : ((s.spend u).arb u).spent = true := by simp [State.spend]

/-- Noting who waits leaves an arbiter's grant as it stands. -/
@[simp] theorem State.noteFetch_spent (s : State) (port u : Nat) : ((s.noteFetch port).arb u).spent = (s.arb u).spent := by
  by_cases own : u = port
  · subst own; simp [State.noteFetch, State.noteWaits]
  · rw [(s.noteFetch_spec port).1 u own]

theorem State.nextQp_spec {port p q : Nat} (h : s.nextQp port p = some q) : s.fetchable port p q = true := by
  have found := List.find?_some h
  exact found

theorem State.burst_le (s : State) (p q : Nat) : s.burst p q ≤ if (s.qp p q).compat then 8 else 4 :=
  (Nat.min_le_left _ _).trans (Nat.min_le_left _ _)

/-- Settles O12. -/
theorem descriptorFetchReadsABurst : Obligations.DescriptorFetchReadsABurst := by
  refine ⟨fun port p q f s grant may next own => ?reads, fun port s none => ?waits⟩
  case reads =>
    obtain ⟨active, room⟩ : (s.qp p q).qstate = .active ∧ 0 < s.burst p q := by
      have fetchable := State.nextQp_spec next
      simp only [State.fetchable, Bool.and_eq_true, beq_iff_eq, decide_eq_true_eq] at fetchable
      exact ⟨fetchable.1.1, fetchable.2⟩
    refine ⟨_, by change execDescriptorFetch port s = _; simp only [execDescriptorFetch, grant, may, next, own]; rfl, ⟨rfl, ?pair, ?some, ?few⟩,
      ?last, ?others, ?spent, ?arbs, rfl⟩
    case pair => exact State.qp_updQp_same _ p q _
    case some => exact fun granted => Nat.lt_min.mpr ⟨granted, room⟩
    case few => exact (Nat.min_le_right _ _).trans (s.burst_le p q)
    case last => simp
    case others => exact fun p' q' ne => State.qp_updQp_ne _ p q p' q' _ ne.symm
    case spent => simp
    case arbs => exact fun u ne => ((State.noteFetch_spec _ _).1 u ne).trans (State.arb_updArb_ne _ _ ne)
  case waits =>
    change execDescriptorFetch port s = _
    unfold execDescriptorFetch
    split
    · rfl
    next p grant =>
      rcases none p grant with off | empty
      · simp [off]
      · simp [empty]

end Sys2Proof.Machine
end

section
/-! SUPPORT. The descriptor that returns: staged, refused, or a read that failed (R39, R43). -/
namespace Sys2Proof.Machine

variable {s : State}

/-! ## A descriptor that returns (R43) -/

/-- The state as a descriptor of a pair has been received: the read is over and counted. -/
def State.received (s : State) (p q : Nat) : State :=
  (s.updQp p q fun x => { x with reading := x.reading - 1 }).updPart p fun y => { y with fetchCnt := (y.fetchCnt + 1) % 2 ^ 32 }

theorem State.received_part (s : State) (p q : Nat) : (s.received p q).part p = { s.part p with fetchCnt := ((s.part p).fetchCnt + 1) % 2 ^ 32 } :=
  State.part_updPart_same _ p _

/-- The checks of R43 do not depend on the counts of a receipt. -/
theorem State.received_refuses (s : State) (p q : Nat) (bad : Option Nat) (d : Descriptor) :
    (s.received p q).refuseDescriptor p bad d = s.refuseDescriptor p bad d := by
  have image : (s.received p q).imageOf d.program = s.imageOf d.program := rfl
  have admits : ∀ i, (s.received p q).admits p i = s.admits p i := fun _ => rfl
  have backlog : (s.received p q).backlog p = s.backlog p := rfl
  have mode : (s.received p q).mode = s.mode := rfl
  simp only [State.refuseDescriptor, State.slotEnabled, image, admits, backlog, mode, s.received_part p q]
  rfl

/-- The command of a received descriptor. -/
def receivedCmd (compat : Bool) (p q : Nat) (bs : List Byte) : Cmd := { part := p, qp := q, desc := if compat then readV1 bs else readV2 bs }

variable {part : Fin 1024} {q : Fin 64} {wrOk : Bool}

theorem execDescriptorReceive_idle (data : HostRead) (h : (s.qp part q).reading = 0) : exec (.descriptorReceive part q data wrOk) s = .next s :=
  if_pos h

theorem execDescriptorReceive_data (bs : List Byte) (h : (s.qp part q).reading ≠ 0) :
    let x := s.qp part q
    let c := receivedCmd x.compat part q bs
    let u := s.received part q
    exec (.descriptorReceive part q (.data bs) wrOk) s = .next
      (match s.refuseDescriptor part (if x.compat then badV1 bs else badV2 bs) c.desc with
       | some (st, det) => (if st = stBusyRetry then u.countBusy part else u).finish wrOk c { status := st, detail := det }
       | none => if (s.part part).pstate = .frozen then u.finish wrOk { c with fetched := some s.quartz } { status := stPartitionFrozen }
         else u.stageCmd { c with fetched := some s.quartz }) := by
  intro x c u
  change execDescriptorReceive part q (.data bs) wrOk s = _
  rw [execDescriptorReceive, if_neg h]
  have frozen : (u.part part).pstate = (s.part part).pstate := by rw [show u.part part = _ from s.received_part part q]
  change (match u.refuseDescriptor part (if x.compat then badV1 bs else badV2 bs) c.desc with
    | some (st, det) => Host.Outcome.next ((if st = stBusyRetry then u.countBusy part else u).finish wrOk c { status := st, detail := det })
    | none => if (u.part part).pstate = PState.frozen then .next (u.finish wrOk { c with fetched := some s.quartz } { status := stPartitionFrozen })
        else .next (u.stageCmd { c with fetched := some s.quartz })) = _
  rw [s.received_refuses, frozen]
  cases s.refuseDescriptor part (if x.compat then badV1 bs else badV2 bs) c.desc with
  | some r => rfl
  | none => exact (apply_ite Host.Outcome.next _ _ _).symm

theorem execDescriptorReceive_failed (e : ReadError) (h : (s.qp part q).reading ≠ 0) :
    let x := s.qp part q
    let u := (s.updQp part q fun x => { x with reading := x.reading - 1 }).reportRead (s.qpFunc part q) e
    exec (.descriptorReceive part q (.failed e) wrOk) s = .next
      (if x.qstate = .active then u.haltQp part q 3
       else if x.qstate = .frozen then u.updQp part q fun y => { y with failed := true } else u.settleQp part q) := by
  intro x u
  change execDescriptorReceive part q (.failed e) wrOk s = _
  rw [execDescriptorReceive, if_neg h]
  have own : (s.updQp part q fun x => { x with reading := x.reading - 1 }).qpFunc part q = s.qpFunc part q := by
    simp only [State.qpFunc, State.namedFunc, State.qp_updQp_same]
    rfl
  dsimp only
  rw [own]

/-- A command joins the staging buffer, and who waits at dispatch is noted. -/
theorem State.stageCmd_spec (s : State) (c : Cmd) :
    (s.stageCmd c).hq.staged = s.hq.staged ++ [c] ∧ (∀ v, v ≠ unitDispatch → (s.stageCmd c).arb v = s.arb v) ∧
    (s.hq.staged.length + 1 < 65536 → s.stageCmd c = { s with hq := { s.hq with staged := (s.stageCmd c).hq.staged }, arbs := (s.stageCmd c).arbs }) ∧
    (65536 ≤ s.hq.staged.length + 1 → raised pgHQE [3] s (s.stageCmd c) ∧
      onlyFields [R.BLK_INT_RAW pgHQE] { s with hq := { s.hq with staged := (s.stageCmd c).hq.staged }, arbs := (s.stageCmd c).arbs } (s.stageCmd c)) := by
  generalize hv : ({ s with hq := { s.hq with staged := s.hq.staged ++ [c] } } : State).noteDispatch = v
  have staged : v.hq.staged = s.hq.staged ++ [c] := by rw [← hv]; rfl
  have frame : v = { s with hq := { s.hq with staged := v.hq.staged }, arbs := v.arbs } := by rw [← hv]; rfl
  have arbs : ∀ u, u ≠ unitDispatch → v.arb u = s.arb u := fun u ne => by rw [← hv]; exact State.arb_updArb_ne _ _ ne
  have eq : s.stageCmd c = if v.hq.staged.length ≥ 65536 then v.raise pgHQE 3 else v := by rw [← hv]; rfl
  have only := v.raise_onlyFields pgHQE 3
  have bits := v.raise_raised pgHQE 3
  rw [eq, staged, List.length_append, List.length_singleton]
  by_cases full : s.hq.staged.length + 1 ≥ 65536
  · rw [if_pos full]
    have hq : (v.raise pgHQE 3).hq.staged = v.hq.staged := by rw [only.2.2]
    have same : (v.raise pgHQE 3).arbs = v.arbs := by rw [only.2.2]
    refine ⟨by rw [hq, staged], fun u ne => ?_, fun few => absurd full (by omega), fun _ => ⟨fun j hj => ?_, ?_⟩⟩
    · rw [State.arb, same]; exact arbs u ne
    · rw [bits j hj, frame]; rfl
    · rw [hq, same, ← frame]; exact only
  · rw [if_neg full]
    exact ⟨staged, arbs, fun _ => frame, fun many => absurd many full⟩

/-- A BUSY_RETRY counted (Tables 2.11, 2.13). -/
theorem State.countBusy_part (s : State) (p : Nat) : ∃ e, (s.countBusy p).part p =
      { s.part p with busyCnt := satAdd 32 (s.part p).busyCnt 1, busyInWin := true, quietWin := false, pevt := e } ∧
    ((s.part p).quietWin = true → bitOf e 3 = true) ∧ ((s.part p).quietWin = false → e = (s.part p).pevt) := by
  generalize hu : s.updPart p (fun x => { x with busyCnt := satAdd 32 x.busyCnt 1, busyInWin := true, quietWin := false }) = u
  generalize hv : ({ u.severity 1 with ag.busy := sat32 (u.ag.busy + 1) } : State) = v
  have counted : v.part p = { s.part p with busyCnt := satAdd 32 (s.part p).busyCnt 1, busyInWin := true, quietWin := false } := by
    rw [← hv, State.part]
    change Sparse.get {} (u.severity 1).parts p = _
    rw [State.severity_parts, ← hu]
    exact s.part_updPart_same p _
  have eq : s.countBusy p = if (s.part p).quietWin then v.partEvent p 3 else v := by
    simp only [State.countBusy, hu, ← hv]
  rw [eq]
  cases quiet : (s.part p).quietWin
  · exact ⟨_, counted, fun k => absurd k (by simp), fun _ => rfl⟩
  · refine ⟨putBit (v.part p).pevt 3 true, ?_, fun _ => by rw [bitOf_testBit, testBit_putBit]; rfl, fun k => absurd k (by simp)⟩
    have event : (v.partEvent p 3).part p = { v.part p with pevt := putBit (v.part p).pevt 3 true } := by
      have parts : (v.partEvent p 3).parts = (v.updPart p fun x => { x with pevt := putBit x.pevt 3 true }).parts := by
        rw [(v.partEvent_spec p 3).2.2]
      rw [State.part, parts]; exact v.part_updPart_same p _
    rw [if_pos rfl, event, counted]

theorem State.reportRead_bit (s : State) (f : Func) (e : ReadError) :
    bitOf (Sparse.get 0 (s.reportRead (some f) e).hq.aer (funcCode f)) (aerBit e) = true := by
  rw [State.reportRead, State.reportAer, Sparse.get_upd_same, bitOf_testBit, testBit_putBit, if_pos rfl]

/-- Settles O13: the data and the failed read by the checks and the pair's state, the count of BUSY_RETRYs, the checks one by one. -/
theorem descriptorReceiveStagesOrRefuses : Obligations.DescriptorReceiveStagesOrRefuses := by
  refine ⟨fun part q bs wrOk s going => ?data, fun p s => ?busy, fun part q e wrOk s going => ?failed,
    fun part q data wrOk s idle => execDescriptorReceive_idle data idle, fun p off d i s => ?checks, fun b quota done => ?hint⟩
  case data =>
    have run := execDescriptorReceive_data (wrOk := wrOk) bs going
    refine ⟨fun pass live => ?_, fun pass frozen => ?_, fun st det refused other => ?_, fun det refused => ?_⟩
    · obtain ⟨staged, arbs, few, many⟩ := (s.received part q).stageCmd_spec { receivedCmd (s.qp part q).compat part q bs with fetched := some s.quartz }
      refine ⟨_, run.trans (by rw [show s.refuseDescriptor part _ (receivedCmd _ part q bs).desc = none from pass]; exact congrArg _ (if_neg live)),
        staged, ?_, ?_, arbs, few, many⟩
      · rcases Nat.lt_or_ge (s.hq.staged.length + 1) 65536 with k | k
        · rw [few k]; rfl
        · rw [(many k).2.2.2]; rfl
      · rcases Nat.lt_or_ge (s.hq.staged.length + 1) 65536 with k | k
        · rw [few k]; rfl
        · rw [(many k).2.2.2]; rfl
    · exact run.trans (by rw [show s.refuseDescriptor part _ (receivedCmd _ part q bs).desc = none from pass]; exact congrArg _ (if_pos frozen))
    · exact run.trans (by rw [show s.refuseDescriptor part _ (receivedCmd _ part q bs).desc = some (st, det) from refused]; simp only [if_neg other]; rfl)
    · exact run.trans (by rw [show s.refuseDescriptor part _ (receivedCmd _ part q bs).desc = some (stBusyRetry, det) from refused]; rfl)
  case busy =>
    obtain ⟨e, part, quiet, loud⟩ := s.countBusy_part p
    dsimp only; rw [part]
    exact ⟨rfl, rfl, rfl, quiet, loud⟩
  case failed =>
    have run := execDescriptorReceive_failed (wrOk := wrOk) e going
    refine ⟨fun f own => ?_, fun active => ?_, fun frozen => ?_, fun notActive notFrozen => ?_⟩
    · rw [own]; exact State.reportRead_bit _ f e
    · exact ⟨_, run.trans (congrArg _ (if_pos active)), State.haltQp_halts _ _ _ _⟩
    · exact run.trans (by rw [if_neg (by rw [frozen]; decide), if_pos frozen])
    · exact run.trans (by rw [if_neg notActive, if_neg notFrozen])
  case checks =>
    refine ⟨rfl, fun empty => ?_, fun im mode => ?_, fun im mode off => ?_, fun im mode en retry many => ?_, fun im mode en under => ?_⟩
    · simp [State.refuseDescriptor, empty]
    · simp [State.refuseDescriptor, im, mode]
    · simp [State.refuseDescriptor, im, mode, off]
    · simp [State.refuseDescriptor, im, mode, en, retry, many]
    · rcases under with queue | room
      · simp [State.refuseDescriptor, im, mode, en, queue]
      · simp [State.refuseDescriptor, im, mode, en, Nat.not_le.mpr room]
  case hint =>
    refine ⟨?_, ?_, if_pos rfl⟩
    · unfold retryHint; split
      · decide
      · exact le_min (le_max_right _ _) (by decide)
    · unfold retryHint; split
      · decide
      · exact min_le_right _ _

end Sys2Proof.Machine
end

section
/-! SUPPORT. The blown fuses of the life-cycle word and of the test tokens (R307): what every operation of the module leaves of them. -/
namespace Sys2Proof.Machine

/-- The fuses a module holds: those of the life-cycle word, and the test tokens burned. -/
def State.fuses (s : State) : Nat × Nat := (s.lc.word, s.lc.burned)

variable {s t u : State}

@[simp] theorem State.fuses_mk (regs mode parts hq sq ci ge arbs pk fl ob pw pr lc dm bt hb gt sc qz ag ln cd jr quartz randoms frees out pending) :
    State.fuses ⟨regs, mode, parts, hq, sq, ci, ge, arbs, pk, fl, ob, pw, pr, lc, dm, bt, hb, gt, sc, qz, ag, ln, cd, jr, quartz, randoms, frees, out, pending⟩ = (lc.word, lc.burned) := (rfl)

@[simp] theorem State.fuses_of_lc (s : State) : (s.lc.word, s.lc.burned) = s.fuses := (rfl)

@[simp] theorem State.fuses_ite {c : Prop} [Decidable c] (t u : State) : (if c then t else u).fuses = if c then t.fuses else u.fuses := by
  split <;> rfl

@[simp] theorem State.fuses_foldl {α : Type} (f : State → α → State) (hf : ∀ u a, (f u a).fuses = u.fuses) (xs : List α) (s : State) :
    (xs.foldl f s).fuses = s.fuses :=
  foldl_keeps (fun u => u.fuses = s.fuses) f (fun u a hu => (hf u a).trans hu) xs s rfl

theorem State.fuses_of_steady (h : Steady s t) : t.fuses = s.fuses := by rw [State.fuses, h.lc]; rfl

theorem State.fuses_of_endKeeps (h : endKeeps s t) : t.fuses = s.fuses := by
  have lc : t.lc = s.lc := by rw [endKeeps_iff] at h; exact h.2.2.2.2.2.2.2.1
  rw [State.fuses, lc]; rfl

/-- What a command leaves, if it goes on, holds just these fuses. -/
def Result.Fuses (f : Nat × Nat) (r : Result) : Prop := ∀ t, r = .next t → t.fuses = f

variable {f : Nat × Nat} {r : Result}

@[simp] theorem Result.fuses_next : Result.Fuses f (.next t) ↔ t.fuses = f :=
  ⟨fun h => h t rfl, fun h _ same => Host.Outcome.next.inj same ▸ h⟩

@[simp] theorem Result.fuses_fault (e : Fault) : Result.Fuses f (.fault e) := fun _ h => by cases h
@[simp] theorem Result.fuses_refused (e : Refusal) : Result.Fuses f (.refused e) := fun _ h => by cases h

@[simp] theorem Result.fuses_ite {c : Prop} [Decidable c] (q r : Result) :
    Result.Fuses f (if c then q else r) ↔ if c then Result.Fuses f q else Result.Fuses f r := by
  split <;> rfl

theorem Result.Fuses.ite {c : Prop} [Decidable c] {q r : Result} (hq : q.Fuses f) (hr : r.Fuses f) : Result.Fuses f (if c then q else r) := by
  split
  · exact hq
  · exact hr

@[simp] theorem Result.stateOr_fuses (h : r.Fuses s.fuses) : (r.stateOr s).fuses = s.fuses := by
  cases r with
  | next t => exact h t rfl
  | fault e => rfl
  | refused e => rfl

@[simp] theorem Result.state_fuses (h : r.Fuses s.fuses) : (Result.state s r).fuses = s.fuses := by
  cases r with
  | next t => exact h t rfl
  | fault e => rfl
  | refused e => rfl

/-! ## Ops -/

@[simp] theorem State.set_fuses (s : State) (f : Field) (v : Nat) : (s.set f v).fuses = s.fuses := (rfl)
@[simp] theorem State.count_fuses (s : State) (f : Field) (d : Nat) : (s.count f d).fuses = s.fuses := (rfl)
@[simp] theorem State.countSat_fuses (s : State) (f : Field) (d : Nat) : (s.countSat f d).fuses = s.fuses := (rfl)
@[simp] theorem State.keepMax_fuses (s : State) (f : Field) (v : Nat) : (s.keepMax f v).fuses = s.fuses := (rfl)
@[simp] theorem State.setBit_fuses (s : State) (f : Field) (i : Nat) (b : Bool) : (s.setBit f i b).fuses = s.fuses := (rfl)
@[simp] theorem State.resetPage_fuses (s : State) (p : Nat) : (s.resetPage p).fuses = s.fuses := (rfl)
@[simp] theorem State.updPart_fuses (s : State) (p : Nat) (f : Part → Part) : (s.updPart p f).fuses = s.fuses := (rfl)
@[simp] theorem State.updQp_fuses (s : State) (p q : Nat) (f : QueuePair → QueuePair) : (s.updQp p q f).fuses = s.fuses := (rfl)
@[simp] theorem State.setCtx_fuses (s : State) (k : Nat) (c : Context) : (s.setCtx k c).fuses = s.fuses := (rfl)
@[simp] theorem State.updCtx_fuses (s : State) (k : Nat) (f : Context → Context) : (s.updCtx k f).fuses = s.fuses := (rfl)
@[simp] theorem State.emit_fuses (s : State) (o : Output) : (s.emit o).fuses = s.fuses := (rfl)
@[simp] theorem State.msixSend_fuses (s : State) (f : Func) (vector : Nat) : (s.msixSend f vector).fuses = s.fuses := by simp [State.msixSend]
@[simp] theorem State.raise_fuses (s : State) (p i : Nat) : (s.raise p i).fuses = s.fuses := by simp [State.raise]
@[simp] theorem State.partEvent_fuses (s : State) (p i : Nat) :
    (s.partEvent p i).fuses = s.fuses := State.fuses_of_endKeeps (endKeeps_partEvent s p i)
@[simp] theorem State.settleTake_fuses (s : State) : (s.settleTake).fuses = s.fuses := by simp [State.settleTake]
@[simp] theorem State.resettleTake_fuses (s : State) (was : Bool) : (s.resettleTake was).fuses = s.fuses := by simp [State.resettleTake]
@[simp] theorem State.settleLevel_fuses (s : State) : (s.settleLevel).fuses = s.fuses := by simp [State.settleLevel]
@[simp] theorem State.updArb_fuses (s : State) (u : Nat) (f : Arbiter → Arbiter) : (s.updArb u f).fuses = s.fuses := (rfl)
@[simp] theorem State.spend_fuses (s : State) (unit : Nat) : (s.spend unit).fuses = s.fuses := (rfl)
@[simp] theorem State.touch_fuses (s : State) (i : Nat) : (s.touch i).fuses = s.fuses := (rfl)
@[simp] theorem State.cross_fuses (s : State) (i : Nat) : (s.cross i).fuses = s.fuses := (rfl)
@[simp] theorem State.crossPort_fuses (s : State) (f : Func) : (s.crossPort f).fuses = s.fuses := (rfl)
@[simp] theorem State.crossing_fuses (s : State) (page : Nat) (c : Instr) (act : State → State) (kept : ∀ u, (act u).fuses = u.fuses) :
    (s.crossing page c act).Fuses s.fuses := by
  unfold State.crossing
  dsimp only
  split <;> simp [kept]

@[simp] theorem State.reportAer_fuses (s : State) (f : Option Func) (bit : Nat) :
    (s.reportAer f bit).fuses = s.fuses := by unfold State.reportAer; split <;> simp
@[simp] theorem State.reportRead_fuses (s : State) (f : Option Func) (e : ReadError) :
    (s.reportRead f e).fuses = s.fuses := by simp [State.reportRead]
@[simp] theorem State.reportWrite_fuses (s : State) (f : Option Func) : (s.reportWrite f).fuses = s.fuses := by simp [State.reportWrite]
@[simp] theorem State.draw_fuses (s : State) (n : Nat) : (s.draw n).2.fuses = s.fuses := (rfl)

/-! ## Flits -/

@[simp] theorem State.updLink_fuses (s : State) (k : Nat) (f : Link → Link) : (s.updLink k f).fuses = s.fuses := (rfl)
@[simp] theorem State.sendFlit_fuses (s : State) (k type vc : Nat) (last : Bool) (payload : List Byte) :
    (s.sendFlit k type vc last payload).fuses = s.fuses := by simp [State.sendFlit]
@[simp] theorem State.sendOn_fuses (s : State) (k : Nat) (o : Output) : (s.sendOn k o).fuses = s.fuses := by simp [State.sendOn]
@[simp] theorem State.tellOn_fuses (s : State) (link : Option Nat) (o : Nat → Output) :
    (s.tellOn link o).fuses = s.fuses := by unfold State.tellOn; split <;> simp
@[simp] theorem State.tellPartner_fuses (s : State) (o : Nat → Output) : (s.tellPartner o).fuses = s.fuses := by simp [State.tellPartner]
@[simp] theorem State.tellTree_fuses (s : State) (o : Nat → Output) : (s.tellTree o).fuses = s.fuses := by simp [State.tellTree]

/-! ## LaneUnits -/

@[simp] theorem State.updLane_fuses (s : State) (n l : Nat) (f : Lane → Lane) : (s.updLane n l f).fuses = s.fuses := (rfl)
@[simp] theorem State.updHash_fuses (s : State) (n : Nat) (f : HashUnit → HashUnit) : (s.updHash n f).fuses = s.fuses := (rfl)
@[simp] theorem State.updFmt_fuses (s : State) (n : Nat) (f : Service → Service) : (s.updFmt n f).fuses = s.fuses := (rfl)
@[simp] theorem State.setMoved_fuses (s : State) (n : Nat) (os : List UnitOp) : (s.setMoved n os).fuses = s.fuses := (rfl)
@[simp] theorem State.updSvc_fuses (s : State) (n u : Nat) (f : Service → Service) : (s.updSvc n u f).fuses = s.fuses := by simp [State.updSvc]
@[simp] theorem State.place_fuses (s : State) (n l : Nat) (o : UnitOp) : (s.place n l o).fuses = s.fuses := (rfl)
@[simp] theorem State.seatMoved_fuses (s : State) (n fuel : Nat) : (s.seatMoved n fuel).fuses = s.fuses := State.fuses_of_steady (.seatMoved .refl)

/-! ## HbmMem -/

@[simp] theorem State.crossHbm_fuses (s : State) (a : Nat) : (s.crossHbm a).fuses = s.fuses := (rfl)
@[simp] theorem State.wholeLines_fuses (s : State) (a n : Nat) : (s.wholeLines a n).fuses = s.fuses := (rfl)
@[simp] theorem State.writeMem_fuses (s : State) (a : Nat) (bs : List Byte) : (s.writeMem a bs).fuses = s.fuses := (rfl)

/-! ## MpuCheck -/

@[simp] theorem State.violation_fuses (s : State) (m : Nat) (kind : AccessKind) (a tag : Nat) :
    (s.violation m kind a tag).fuses = s.fuses := by unfold State.violation; split <;> simp
@[simp] theorem State.mpuCheck_fuses (s : State) (m : Nat) (kind : AccessKind) (a n tag : Nat) : (s.mpuCheck m kind a n tag).2.fuses = s.fuses :=
  State.fuses_foldl _ (fun u p => by split <;> simp) _ s
@[simp] theorem State.dmaRead_fuses (s : State) (m tag a n : Nat) : (s.dmaRead m tag a n).2.fuses = s.fuses :=
  State.fuses_foldl _ (fun u p => by split <;> simp) _ s
@[simp] theorem State.dmaWrite_fuses (s : State) (m tag a : Nat) (bs : List Byte) : (s.dmaWrite m tag a bs).1.fuses = s.fuses :=
  State.fuses_of_steady (.dmaWrite .refl)

/-! ## Sampling -/

@[simp] theorem State.fire_fuses (s : State) (feature : Nat) : (s.fire feature).fuses = s.fuses := (rfl)
@[simp] theorem State.sample_fuses (s : State) (kind index bin : Nat) (v : Int) (n : Nat) :
    (s.sample kind index bin v n).fuses = s.fuses := by simp [State.sample]
@[simp] theorem State.severity_fuses (s : State) (sev : Nat) : (s.severity sev).fuses = s.fuses := by simp [State.severity]
@[simp] theorem State.sampleLatency_fuses (s : State) (p ns : Nat) : (s.sampleLatency p ns).fuses = s.fuses := by simp [State.sampleLatency]
@[simp] theorem State.accrueLevel_fuses (s : State) : (s.accrueLevel).fuses = s.fuses := by simp [State.accrueLevel]

/-! ## PkUnits -/

@[simp] theorem State.updPk_fuses (s : State) (p u : Nat) (f : PkUnit → PkUnit) : (s.updPk p u f).fuses = s.fuses := (rfl)
@[simp] theorem State.setPkQueue_fuses (s : State) (p : Nat) (lattice : Bool) (q : List PkOp) : (s.setPkQueue p lattice q).fuses = s.fuses := (rfl)
@[simp] theorem State.settlePkCluster_fuses (s : State) (p : Nat) : (s.settlePkCluster p).fuses = s.fuses := by simp [State.settlePkCluster]
@[simp] theorem State.settlePkUnit_fuses (s : State) (p u : Nat) : (s.settlePkUnit p u).fuses = s.fuses := by simp [State.settlePkUnit]
@[simp] theorem State.settlePkFreeze_fuses (s : State) (p : Nat) : (s.settlePkFreeze p).fuses = s.fuses := by simp [State.settlePkFreeze]
@[simp] theorem State.showCurves_fuses (s : State) : (s.showCurves).fuses = s.fuses := (rfl)
@[simp] theorem State.settleCurve_fuses (s : State) : (s.settleCurve).fuses = s.fuses := by simp [State.settleCurve]
@[simp] theorem State.settlePk_fuses (s : State) (p : Nat) : (s.settlePk p).fuses = s.fuses := by simp [State.settlePk]
@[simp] theorem State.countAborts_fuses (s : State) (p n : Nat) : (s.countAborts p n).fuses = s.fuses := (rfl)
@[simp] theorem State.dropPk_fuses (s : State) (k : Nat) : (s.dropPk k).fuses = s.fuses := by simp [State.dropPk]

/-! ## Ending -/

@[simp] theorem State.settleQp_fuses (s : State) (p q : Nat) : (s.settleQp p q).fuses = s.fuses := by simp [State.settleQp]
@[simp] theorem State.haltQp_fuses (s : State) (p q err : Nat) : (s.haltQp p q err).fuses = s.fuses := by simp [State.haltQp]
@[simp] theorem State.coalesce_fuses (s : State) (p q : Nat) : (s.coalesce p q).fuses = s.fuses := State.fuses_of_endKeeps (endKeeps_coalesce s p q)
@[simp] theorem State.serveDoorbells_fuses (s : State) (p q : Nat) : (s.serveDoorbells p q).fuses = s.fuses := by simp [State.serveDoorbells]
@[simp] theorem State.serveAllDoorbells_fuses (s : State) : (s.serveAllDoorbells).fuses = s.fuses := by simp [State.serveAllDoorbells]
@[simp] theorem State.discardCompletion_fuses (s : State) : (s.discardCompletion).fuses = s.fuses := by simp [State.discardCompletion]
@[simp] theorem State.failCompletion_fuses (s : State) (c : Cmd) : (s.failCompletion c).fuses = s.fuses := by simp [State.failCompletion]
@[simp] theorem State.writeOutcome_fuses (s : State) (ok : Option Bool) : (s.writeOutcome ok).2.fuses = s.fuses := by cases ok <;> rfl
@[simp] theorem State.writeCompletion_fuses (s : State) (ok : Option Bool) (c : Cmd) (e : Ending) : (s.writeCompletion ok c e).fuses = s.fuses :=
  State.fuses_of_endKeeps (endKeeps_writeCompletion s ok c e)
@[simp] theorem State.settleAbort_fuses (s : State) (p : Nat) : (s.settleAbort p).fuses = s.fuses := by simp [State.settleAbort]
@[simp] theorem State.abortDone_fuses (s : State) (c : Cmd) (e : Ending) : (s.abortDone c e).fuses = s.fuses := by simp [State.abortDone]
@[simp] theorem State.complete_fuses (s : State) (ok : Option Bool) (c : Cmd) (e : Ending) :
    (s.complete ok c e).fuses = s.fuses := by simp [State.complete]
@[simp] theorem State.answer_fuses (s : State) (ok : Option Bool) (c : Cmd) (e : Ending) :
    (s.answer ok c e).fuses = s.fuses := by unfold State.answer; split <;> simp
@[simp] theorem State.releaseHeld_fuses (s : State) (hit : Held → Bool) : (s.releaseHeld hit).fuses = s.fuses := by simp [State.releaseHeld]
@[simp] theorem State.finish_fuses (s : State) (ok : Option Bool) (c : Cmd) (e : Ending) (delta : Option Nat) :
    (s.finish ok c e delta).fuses = s.fuses := by unfold State.finish; split <;> simp
@[simp] theorem State.dropOps_fuses (s : State) (k : Nat) : (s.dropOps k).fuses = s.fuses := by simp [State.dropOps]
@[simp] theorem State.showStale_fuses (s : State) : (s.showStale).fuses = s.fuses := (rfl)
@[simp] theorem State.settleStale_fuses (s : State) : (s.settleStale).fuses = s.fuses := by simp [State.settleStale]
@[simp] theorem State.settleSeq_fuses (s : State) (n : Nat) : (s.settleSeq n).fuses = s.fuses := by simp [State.settleSeq]
@[simp] theorem State.zeroOutput_fuses (s : State) (c : Cmd) (status : Nat) (wrote : Bool) : (s.zeroOutput c status wrote).fuses = s.fuses :=
  State.fuses_of_steady (.zeroOutput .refl)
@[simp] theorem State.countEnding_fuses (s : State) (k : Nat) (x : Context) (c : Cmd) (status detail : Nat) :
    (s.countEnding k x c status detail).fuses = s.fuses := by simp [State.countEnding]
@[simp] theorem State.endCommand_fuses (s : State) (k status detail len : Nat) (ok : Option Bool) :
    (s.endCommand k status detail len ok).fuses = s.fuses :=
  State.fuses_of_steady (.endCommand .refl)
@[simp] theorem State.endStaged_fuses (s : State) (c : Cmd) (status detail : Nat) :
    (s.endStaged c status detail).fuses = s.fuses := by simp [State.endStaged]

/-! ## Operands -/

theorem State.gather_fuses (k : Nat) (x : Context) (n : Nat) {use : List Byte → Context → Result} {f : Nat × Nat} (h : s.fuses = f)
    (used : ∀ bs y, (use bs y).Fuses f) : (s.gather k x n use).Fuses f := by
  unfold State.gather
  dsimp only
  split
  · exact used _ _
  · simp [h]

theorem State.inTurn_fuses (k : Nat) {r : Result} {f : Nat × Nat} (h : s.fuses = f) (run : r.Fuses f) : (s.inTurn k r).Fuses f := by
  cases r with
  | next t =>
    simp only [State.inTurn]
    split
    · exact run
    · simpa using h
  | fault e => exact run
  | refused e => exact run

theorem State.issue_fuses (c : Ctx) (cls op : Nat) (w : Insn) {run : Context → Result} {f : Nat × Nat} (h : s.fuses = f)
    (done : ∀ x, (run x).Fuses f) : (s.issue c cls op w run).Fuses f := by
  unfold State.issue
  split
  · simpa using h
  · exact State.inTurn_fuses _ h (done _)

@[simp] theorem State.countIssue_fuses (s : State) (k slots : Nat) : (s.countIssue k slots).fuses = s.fuses := (rfl)
@[simp] theorem State.retire_fuses (s : State) (k slots : Nat) (x : Context) : (s.retire k slots x).fuses = s.fuses := (rfl)
@[simp] theorem State.endAt_fuses (s : State) (k status detail : Nat) (ok : Option Bool) :
    (s.endAt k status detail ok).fuses = s.fuses := by simp [State.endAt]
@[simp] theorem State.outputAt_fuses (s : State) (k pc off : Nat) (bs : List Byte) : (s.outputAt k pc off bs).fuses = s.fuses := by
  unfold State.outputAt
  dsimp only
  repeat' split
  all_goals simp

@[simp] theorem State.output_fuses (s : State) (k off : Nat) (bs : List Byte) : (s.output k off bs).fuses = s.fuses := by simp [State.output]
@[simp] theorem State.failAt_fuses (s : State) (k slots status detail : Nat) :
    (s.failAt k slots status detail).fuses = s.fuses := by simp [State.failAt]

/-! ## Waits -/

@[simp] theorem State.noteWaits_fuses (s : State) (u : Nat) (p : Placement) (new : List Nat) : (s.noteWaits u p new).fuses = s.fuses := (rfl)
@[simp] theorem State.noteFetch_fuses (s : State) (port : Nat) : (s.noteFetch port).fuses = s.fuses := (rfl)
@[simp] theorem State.noteDispatch_fuses (s : State) : (s.noteDispatch).fuses = s.fuses := (rfl)

/-! ## Hqe -/

@[simp] theorem execPortTrain_fuses (port : Fin 2) (peerGen peerWidth : Nat) (trains : Option Nat) (s : State) : Result.Fuses s.fuses (execPortTrain port peerGen peerWidth trains s) := by
  unfold execPortTrain; split <;> simp
@[simp] theorem State.loseQps_fuses (s : State) (f : Func → Bool) : (s.loseQps f).fuses = s.fuses := by simp [State.loseQps]
@[simp] theorem State.portDown_fuses (s : State) (port : Fin 2) : (s.portDown port).fuses = s.fuses := by simp [State.portDown]
@[simp] theorem execLinkDown_fuses (port : Fin 2) (s : State) : Result.Fuses s.fuses (execLinkDown port s) := by simp [execLinkDown]
@[simp] theorem State.resetFunction_fuses (s : State) (fn : Nat) : (s.resetFunction fn).fuses = s.fuses := (rfl)
@[simp] theorem State.clearVfEnable_fuses (s : State) (port : Fin 2) : (s.clearVfEnable port).fuses = s.fuses := by simp [State.clearVfEnable]
@[simp] theorem execFlr_fuses (target : FlrTarget) (s : State) : Result.Fuses s.fuses (execFlr target s) := by unfold execFlr; split <;> simp
@[simp] theorem execQpEnable_fuses (fn : Func) (q : Fin 64) (s : State) : Result.Fuses s.fuses (execQpEnable fn q s) := by
  unfold execQpEnable
  split
  · simp
  · repeat' split
    all_goals simp

@[simp] theorem execQpDisable_fuses (fn : Func) (q : Fin 64) (s : State) : Result.Fuses s.fuses (execQpDisable fn q s) := by
  unfold execQpDisable
  split
  · simp
  · repeat' split
    all_goals simp

@[simp] theorem State.abortSleep_fuses (s : State) : (s.abortSleep).fuses = s.fuses := by simp [State.abortSleep]
@[simp] theorem execSqTailDoorbell_fuses (fn : Func) (q : Fin 64) (size : Nat) (value : Word) (s : State) :
    Result.Fuses s.fuses (execSqTailDoorbell fn q size value s) := by
  unfold execSqTailDoorbell
  dsimp only
  repeat' split
  all_goals simp

@[simp] theorem execCqHeadDoorbell_fuses (fn : Func) (q : Fin 64) (size : Nat) (value : Word) (s : State) :
    Result.Fuses s.fuses (execCqHeadDoorbell fn q size value s) := by
  unfold execCqHeadDoorbell
  dsimp only
  repeat' split
  all_goals simp

@[simp] theorem execDescriptorFetch_fuses (port : Fin 2) (s : State) : Result.Fuses s.fuses (execDescriptorFetch port s) := by
  unfold execDescriptorFetch
  dsimp only
  repeat' split
  all_goals simp

@[simp] theorem State.countBusy_fuses (s : State) (p : Nat) : (s.countBusy p).fuses = s.fuses := by simp [State.countBusy]
@[simp] theorem State.stageCmd_fuses (s : State) (c : Cmd) : (s.stageCmd c).fuses = s.fuses := by simp [State.stageCmd]
@[simp] theorem execDescriptorReceive_fuses (part : Fin 1024) (q : Fin 64) (data : HostRead) (wrOk : Bool) (s : State) :
    Result.Fuses s.fuses (execDescriptorReceive part q data wrOk s) := by
  unfold execDescriptorReceive
  dsimp only
  repeat' split
  all_goals simp

@[simp] theorem State.setResidents_fuses (s : State) (n : Nat) (rs : List Resident) : (s.setResidents n rs).fuses = s.fuses := (rfl)
@[simp] theorem State.startContext_fuses (s : State) (k : Nat) (c : Cmd) (i : Image) (input : List Byte) :
    (s.startContext k c i input).fuses = s.fuses := by unfold State.startContext; dsimp only; split <;> simp
@[simp] theorem State.takeStaged_fuses (s : State) (rest : List Cmd) : (s.takeStaged rest).fuses = s.fuses := (rfl)
theorem State.windowInput_fuses {c : Cmd} {off n : Nat} {r : List Byte × State} (h : s.windowInput c off n = some r) : r.2.fuses = s.fuses := by
  simp only [State.windowInput] at h
  split at h
  · cases h
  · rw [← Option.some.inj h, State.dmaRead_fuses]

@[simp] theorem execDispatch_fuses (input : List Byte) (s : State) : Result.Fuses s.fuses (execDispatch input s) := by
  unfold execDispatch
  dsimp only
  repeat' split
  all_goals simp
  exact (State.windowInput_fuses ‹_›).trans (State.cross_fuses ..)

@[simp] theorem execCoalTimeExpiry_fuses (part : Fin 1024) (q : Fin 64) (s : State) : Result.Fuses s.fuses (execCoalTimeExpiry part q s) := by
  unfold execCoalTimeExpiry
  dsimp only
  repeat' split
  all_goals simp

@[simp] theorem execAbortGo_fuses (fn : Func) (q : Fin 64) (s : State) : Result.Fuses s.fuses (execAbortGo fn q s) := by
  unfold execAbortGo
  dsimp only
  repeat' split
  all_goals simp

/-! ## Seq -/

@[simp] theorem State.needChunk_fuses (s : State) (k : Nat) (x : Context) : (s.needChunk k x).fuses = s.fuses := (rfl)
@[simp] theorem State.load_fuses (s : State) (c : Ctx) (op : Nat) (w : Insn) (f : Context → Context) : (s.load c op w f).Fuses s.fuses :=
  State.issue_fuses c 0 op w rfl fun x => by simp
@[simp] theorem execLdin_fuses (c : Ctx) (w : Insn) (s : State) : Result.Fuses s.fuses (execLdin c w s) := by
  refine State.issue_fuses _ _ _ _ rfl fun x => ?_
  split <;> simp

@[simp] theorem execLdsc_fuses (c : Ctx) (w : Insn) (s : State) : Result.Fuses s.fuses (execLdsc c w s) := by
  refine State.issue_fuses _ _ _ _ rfl fun x => ?_
  dsimp only
  repeat' split
  all_goals simp

@[simp] theorem execLddesc_fuses (c : Ctx) (w : Insn) (s : State) : Result.Fuses s.fuses (execLddesc c w s) := by
  refine State.issue_fuses _ _ _ _ rfl fun x => ?_
  dsimp only
  repeat' split
  all_goals simp

@[simp] theorem execLdconst_fuses (c : Ctx) (w : Insn) (s : State) : Result.Fuses s.fuses (execLdconst c w s) := by simp [execLdconst]
@[simp] theorem execLdi_fuses (c : Ctx) (w : Insn) (s : State) : Result.Fuses s.fuses (execLdi c w s) := by simp [execLdi]
@[simp] theorem execSadd_fuses (c : Ctx) (w : Insn) (s : State) : Result.Fuses s.fuses (execSadd c w s) := by simp [execSadd]
@[simp] theorem execMovb_fuses (c : Ctx) (w : Insn) (s : State) : Result.Fuses s.fuses (execMovb c w s) := by simp [execMovb]
@[simp] theorem execVxor_fuses (c : Ctx) (w : Insn) (s : State) : Result.Fuses s.fuses (execVxor c w s) := by simp [execVxor]
@[simp] theorem execVand_fuses (c : Ctx) (w : Insn) (s : State) : Result.Fuses s.fuses (execVand c w s) := by simp [execVand]
@[simp] theorem execVclr_fuses (c : Ctx) (w : Insn) (s : State) : Result.Fuses s.fuses (execVclr c w s) := by simp [execVclr]
@[simp] theorem execSetip_fuses (c : Ctx) (w : Insn) (s : State) : Result.Fuses s.fuses (execSetip c w s) := by
  refine State.issue_fuses _ _ _ _ rfl fun x => ?_
  dsimp only
  repeat' split
  all_goals simp

@[simp] theorem execMovs_fuses (c : Ctx) (w : Insn) (s : State) : Result.Fuses s.fuses (execMovs c w s) := by simp [execMovs]
@[simp] theorem State.perform_fuses (s : State) (k : Nat) (e : Effect) : (s.perform k e).fuses = s.fuses := by simp [State.perform]
@[simp] theorem State.releaseNext_fuses (s : State) (k fuel : Nat) : (s.releaseNext k fuel).fuses = s.fuses := by
  induction fuel generalizing s with
  | zero => rfl
  | succ fuel ih =>
    unfold State.releaseNext
    dsimp only
    split
    · rfl
    · rw [ih]; simp

@[simp] theorem State.release_fuses (s : State) (k : Nat) (place : Option Nat) (e : Effect) : (s.release k place e).fuses = s.fuses := by
  cases place <;> simp [State.release]
@[simp] theorem State.inOrder_fuses (s : State) (k : Nat) (e : Effect) : (s.inOrder k e).fuses = s.fuses := by simp [State.inOrder]
@[simp] theorem execStres_fuses (c : Ctx) (w : Insn) (s : State) : Result.Fuses s.fuses (execStres c w s) := by
  refine State.issue_fuses _ _ _ _ rfl fun x => ?_
  simp

@[simp] theorem execStout_fuses (c : Ctx) (w : Insn) (s : State) : Result.Fuses s.fuses (execStout c w s) := by
  refine State.issue_fuses _ _ _ _ rfl fun x => ?_
  simp

@[simp] theorem execCmpBytes_fuses (c : Ctx) (w : Insn) (s : State) : Result.Fuses s.fuses (execCmpBytes c w s) := by
  refine State.issue_fuses _ _ _ _ rfl fun x => ?_
  simp

@[simp] theorem execCmpSreg_fuses (c : Ctx) (w : Insn) (s : State) : Result.Fuses s.fuses (execCmpSreg c w s) := by
  unfold execCmpSreg
  split
  · simp
  · exact State.issue_fuses _ _ _ _ rfl fun x => by simp

@[simp] theorem execCmpImm_fuses (c : Ctx) (w : Insn) (s : State) : Result.Fuses s.fuses (execCmpImm c w s) := by
  unfold execCmpImm
  split
  · simp
  · exact State.issue_fuses _ _ _ _ rfl fun x => by simp

@[simp] theorem State.branch_fuses (s : State) (c : Ctx) (op : Nat) (w : Insn) : (s.branch c op w).Fuses s.fuses :=
  State.issue_fuses c 8 op w rfl fun x => by simp
@[simp] theorem execBrAlways_fuses (c : Ctx) (w : Insn) (s : State) : Result.Fuses s.fuses (execBrAlways c w s) := by simp [execBrAlways]
@[simp] theorem execBrZ_fuses (c : Ctx) (w : Insn) (s : State) : Result.Fuses s.fuses (execBrZ c w s) := by simp [execBrZ]
@[simp] theorem execBrNz_fuses (c : Ctx) (w : Insn) (s : State) : Result.Fuses s.fuses (execBrNz c w s) := by simp [execBrNz]
@[simp] theorem execBrLt_fuses (c : Ctx) (w : Insn) (s : State) : Result.Fuses s.fuses (execBrLt c w s) := by simp [execBrLt]
@[simp] theorem execBrNlt_fuses (c : Ctx) (w : Insn) (s : State) : Result.Fuses s.fuses (execBrNlt c w s) := by simp [execBrNlt]
@[simp] theorem execBrFe_fuses (c : Ctx) (w : Insn) (s : State) : Result.Fuses s.fuses (execBrFe c w s) := by simp [execBrFe]
@[simp] theorem execBrNfe_fuses (c : Ctx) (w : Insn) (s : State) : Result.Fuses s.fuses (execBrNfe c w s) := by simp [execBrNfe]
@[simp] theorem execLoop_fuses (c : Ctx) (w : Insn) (s : State) : Result.Fuses s.fuses (execLoop c w s) := by
  unfold execLoop
  split
  · simp
  · exact State.issue_fuses _ _ _ _ rfl fun x => Result.fuses_next.mpr ((State.setCtx_fuses _ _ _).trans (State.countIssue_fuses ..))

@[simp] theorem execDone_fuses (c : Ctx) (w : Insn) (wrOk : Bool) (s : State) : Result.Fuses s.fuses (execDone c w wrOk s) := by
  refine State.issue_fuses _ _ _ _ rfl fun x => ?_
  dsimp only
  repeat' split
  all_goals simp

@[simp] theorem execSeqBudgetExceeded_fuses (c : Ctx) (s : State) : Result.Fuses s.fuses (execSeqBudgetExceeded c s) := by
  simp [execSeqBudgetExceeded]
@[simp] theorem execSeqFreeze_fuses (n : Fin 16) (on : Bool) (s : State) : Result.Fuses s.fuses (execSeqFreeze n on s) := by simp [execSeqFreeze]
@[simp] theorem State.settlePins_fuses (s : State) : (s.settlePins).fuses = s.fuses := by simp [State.settlePins]
@[simp] theorem execSeqPinWrite_fuses (j : Fin 8) (value : Word) (s : State) : Result.Fuses s.fuses (execSeqPinWrite j value s) := by
  simp [execSeqPinWrite]
@[simp] theorem execProgramCacheFill_fuses (c : Ctx) (macOk : Bool) (s : State) : Result.Fuses s.fuses (execProgramCacheFill c macOk s) := by
  unfold execProgramCacheFill
  dsimp only
  repeat' split
  all_goals simp

/-! ## Lanes -/

@[simp] theorem State.settleCluster_fuses (s : State) (n : Nat) : (s.settleCluster n).fuses = s.fuses := by simp [State.settleCluster]
@[simp] theorem State.settleUnit_fuses (s : State) (n u : Nat) : (s.settleUnit n u).fuses = s.fuses := by simp [State.settleUnit]
@[simp] theorem State.raiseInput_fuses (s : State) (i : Nat) : (s.raiseInput i).fuses = s.fuses := by simp [State.raiseInput]
@[simp] theorem State.mismatch_fuses (s : State) : (s.mismatch).fuses = s.fuses := by simp [State.mismatch]
@[simp] theorem State.unitFault_fuses (s : State) (n u ctx : Nat) (kat : Bool) :
    (s.unitFault n u ctx kat).fuses = s.fuses := by simp [State.unitFault]
@[simp] theorem State.twinFault_fuses (s : State) (n u : Nat) (owner : Option Nat) :
    (s.twinFault n u owner).fuses = s.fuses := by unfold State.twinFault; split <;> simp
@[simp] theorem State.pump_fuses (s : State) (k fuel : Nat) : (s.pump k fuel).fuses = s.fuses := by
  induction fuel generalizing s with
  | zero => rfl
  | succ fuel ih =>
    unfold State.pump
    dsimp only
    repeat' split
    all_goals simp [ih]

@[simp] theorem State.noUnit_fuses (s : State) (k slots u : Nat) : (s.noUnit k slots u).fuses = s.fuses := by simp [State.noUnit]
theorem State.withSlot_fuses (k slots : Nat) (x : Context) (i : Nat) {run : KeySlot → Result} {f : Nat × Nat} (h : s.fuses = f)
    (done : ∀ y, (run y).Fuses f) : (s.withSlot k slots x i run).Fuses f := by
  unfold State.withSlot
  split
  · simp [h]
  · exact done _

@[simp] theorem execCiphBlock_fuses (c : Ctx) (w : Insn) (s : State) : Result.Fuses s.fuses (execCiphBlock c w s) := by
  refine State.issue_fuses _ _ _ _ rfl fun x => ?_
  dsimp only
  split
  · simp
  · refine State.withSlot_fuses _ _ _ _ rfl fun y => ?_
    repeat' split
    all_goals simp

@[simp] theorem execCiphStream_fuses (c : Ctx) (w : Insn) (s : State) : Result.Fuses s.fuses (execCiphStream c w s) := by
  refine State.issue_fuses _ _ _ _ rfl fun x => ?_
  dsimp only
  split
  · simp
  · refine State.withSlot_fuses _ _ _ _ rfl fun y => ?_
    repeat' split
    all_goals simp

@[simp] theorem State.addDummies_fuses (s : State) (n b d : Nat) : (s.addDummies n b d).fuses = s.fuses := (rfl)
@[simp] theorem State.countDummies_fuses (s : State) (n b : Nat) : (s.countDummies n b).fuses = s.fuses := (rfl)
@[simp] theorem State.keepBegun_fuses (s : State) : s.keepBegun.fuses = s.fuses := by
  refine State.fuses_foldl _ (fun u a => ?_) _ _
  split <;> simp

@[simp] theorem State.countBlocks_fuses (s : State) (n l b : Nat) (agreed : Bool) :
    (s.countBlocks n l b agreed).fuses = s.fuses := by simp [State.countBlocks]
@[simp] theorem State.pumpAll_fuses (s : State) (n : Nat) : (s.pumpAll n).fuses = s.fuses := by simp [State.pumpAll]
@[simp] theorem State.setQueue_fuses (s : State) (n : Nat) (bs : List Byte) : (s.setQueue n bs).fuses = s.fuses := (rfl)
@[simp] theorem State.takeQueue_fuses (s : State) (n b : Nat) : (s.takeQueue n b).2.fuses = s.fuses := (rfl)
@[simp] theorem State.reseed_fuses (s : State) (n l : Nat) : (s.reseed n l).fuses = s.fuses := by simp [State.reseed]
@[simp] theorem State.settleSeed_fuses (s : State) (n l : Nat) : (s.settleSeed n l).fuses = s.fuses := by simp [State.settleSeed]
@[simp] theorem State.settleSeeds_fuses (s : State) (n : Nat) : (s.settleSeeds n).fuses = s.fuses := by simp [State.settleSeeds]
@[simp] theorem execLaneReseed_fuses (n : Fin 16) (lane : Fin 4) (s : State) : Result.Fuses s.fuses (execLaneReseed n lane s) := by
  simp [execLaneReseed]
@[simp] theorem execLaneOpComplete_fuses (n : Fin 16) (lane : Fin 4) (twinOk : Bool) (s : State) :
    Result.Fuses s.fuses (execLaneOpComplete n lane twinOk s) := by
  unfold execLaneOpComplete
  dsimp only
  repeat' split
  all_goals simp

@[simp] theorem execInputChunkRead_fuses (c : Ctx) (data : List Byte) (s : State) : Result.Fuses s.fuses (execInputChunkRead c data s) := by
  unfold execInputChunkRead
  dsimp only
  split
  · simp
  · split
    · simp
    · split
      · split
        · simp
        next b there => simpa using State.windowInput_fuses there
      · simp

theorem State.hashKey_fuses (k slots : Nat) (x : Context) (h : HashWord) (w : Insn) {use : Masked → Result} {f : Nat × Nat} (hf : s.fuses = f)
    (used : ∀ key, (use key).Fuses f) : (s.hashKey k slots x h w use).Fuses f := by
  unfold State.hashKey
  dsimp only
  split
  · refine State.withSlot_fuses _ _ _ _ hf fun y => ?_
    repeat' split
    all_goals simp [hf, used]
  · split <;> simp [hf, used]

@[simp] theorem State.hashQueue_fuses (s : State) (k slots : Nat) (x : Context) (h : HashWord) (w : Insn) (key : Masked) (m : List Byte) :
    (s.hashQueue k slots x h w key m).fuses = s.fuses := (rfl)
@[simp] theorem execHashStream_fuses (c : Ctx) (w : Insn) (s : State) : Result.Fuses s.fuses (execHashStream c w s) := by
  refine State.issue_fuses _ _ _ _ rfl fun x => ?_
  dsimp only
  split
  · simp
  · split
    · simp
    · split
      · simp
      · exact State.hashKey_fuses _ _ _ _ _ rfl fun key => State.gather_fuses _ _ _ rfl fun m y => by simp

@[simp] theorem execHashRegisters_fuses (c : Ctx) (w : Insn) (s : State) : Result.Fuses s.fuses (execHashRegisters c w s) := by
  refine State.issue_fuses _ _ _ _ rfl fun x => ?_
  dsimp only
  split
  · simp
  · exact State.hashKey_fuses _ _ _ _ _ rfl fun key => by simp

@[simp] theorem execHashOpComplete_fuses (n : Fin 16) (twinOk : Bool) (s : State) : Result.Fuses s.fuses (execHashOpComplete n twinOk s) := by
  unfold execHashOpComplete
  dsimp only
  repeat' split
  all_goals simp

@[simp] theorem State.moveWaiting_fuses (s : State) (n l : Nat) : (s.moveWaiting n l).fuses = s.fuses := by
  unfold State.moveWaiting
  dsimp only
  split
  · refine (State.fuses_foldl _ (fun u a => ?_) _ _).trans (by simp)
    split
    · simp
    · rfl
  · simp

@[simp] theorem execKatGoLane_fuses (n : Fin 16) (lanes : BitVec 4) (s : State) : Result.Fuses s.fuses (execKatGoLane n lanes s) := by
  simp [execKatGoLane]
@[simp] theorem execKatGoHash_fuses (n : Fin 16) (s : State) : Result.Fuses s.fuses (execKatGoHash n s) := by simp [execKatGoHash]
@[simp] theorem execKatGoFmt_fuses (n : Fin 16) (s : State) : Result.Fuses s.fuses (execKatGoFmt n s) := by simp [execKatGoFmt]
@[simp] theorem State.dropSeed_fuses (s : State) (n : Nat) : (s.dropSeed n).fuses = s.fuses := by simp [State.dropSeed]
@[simp] theorem State.dropInstance_fuses (s : State) (n : Nat) : (s.dropInstance n).fuses = s.fuses := by simp [State.dropInstance]
@[simp] theorem State.resetUnits_fuses (s : State) (n : Nat) : (s.resetUnits n).fuses = s.fuses := by simp [State.resetUnits]
@[simp] theorem State.resetIgnored_fuses (s : State) (viaRst : Bool) : (s.resetIgnored viaRst).fuses = s.fuses := by simp [State.resetIgnored]
@[simp] theorem execCcReset_fuses (n : Fin 16) (viaRst : Bool) (s : State) : Result.Fuses s.fuses (execCcReset n viaRst s) := by simp [execCcReset]

/-! ## KeyTable -/

@[simp] theorem State.sendDeltaOn_fuses (s : State) (link : Option Nat) (d : Delta) : (s.sendDeltaOn link d).1.fuses = s.fuses := by
  unfold State.sendDeltaOn
  split <;> simp

@[simp] theorem State.sendDelta_fuses (s : State) (d : Delta) : (s.sendDelta d).1.fuses = s.fuses := s.sendDeltaOn_fuses _ d
@[simp] theorem State.tellStandby_fuses (s : State) (d : Delta) : (s.tellStandby d).fuses = s.fuses := by simp [State.tellStandby]
@[simp] theorem State.replicate_fuses (s : State) (k : Nat) (l : KeyLine) :
    (s.replicate k l).fuses = s.fuses := by unfold State.replicate; split <;> simp
@[simp] theorem State.writeLine_fuses (s : State) (k : Nat) (l : KeyLine) : (s.writeLine k l).1.fuses = s.fuses := by simp [State.writeLine]
@[simp] theorem State.openEpoch_fuses (s : State) (p : Nat) : (s.openEpoch p).fuses = s.fuses := by unfold State.openEpoch; split <;> simp
@[simp] theorem State.setCache_fuses (s : State) (n : Nat) (es : List CacheEntry) : (s.setCache n es).fuses = s.fuses := (rfl)
theorem State.makeRoom_fuses {s u : State} {n p need fuel : Nat} {keep : List Nat} (h : s.makeRoom n p need keep fuel = some u) : u.fuses = s.fuses := by
  induction fuel generalizing s with
  | zero =>
    simp only [State.makeRoom] at h
    split at h <;> cases h
    rfl
  | succ fuel ih =>
    unfold State.makeRoom at h
    split at h
    · cases h; rfl
    · split at h
      · cases h
      · simpa using ih h

@[simp] theorem State.maskIn_fuses (s : State) (n : Nat) (bs : List Byte) : (s.maskIn n bs).2.fuses = s.fuses := (rfl)
@[simp] theorem State.remask_fuses (s : State) (n : Nat) (v : Masked) : (s.remask n v).2.fuses = s.fuses := (rfl)
theorem State.fillEntry_fuses {s u : State} {n p k : Nat} {keep : List Nat} (h : s.fillEntry n p k keep = some u) : u.fuses = s.fuses := by
  simp only [State.fillEntry, Option.map_eq_some_iff] at h
  obtain ⟨v, room, rfl⟩ := h
  simpa using State.makeRoom_fuses room

theorem State.fillChain_fuses {s u : State} {n p : Nat} {chain : List Nat} (h : s.fillChain n p chain = some u) : u.fuses = s.fuses := by
  unfold State.fillChain at h
  generalize chain.reverse = ks at h
  induction ks generalizing s with
  | nil => cases h; rfl
  | cons k ks ih =>
    rw [List.foldlM_cons] at h
    obtain ⟨v, first, rest⟩ := Option.bind_eq_some_iff.mp h
    refine (ih rest).trans ?_
    split at first
    · split at first <;> cases first <;> simp
    · exact State.fillEntry_fuses first

@[simp] theorem State.lineFailed_fuses (s : State) (n k : Nat) : (s.lineFailed n k).fuses = s.fuses := by simp [State.lineFailed]

/-! ## Keys -/

@[simp] theorem execFetch_fuses (c : Ctx) (w : Insn) (s : State) : Result.Fuses s.fuses (execFetch c w s) := by
  refine State.issue_fuses _ _ _ _ rfl fun x => ?_
  have chain : ∀ (u : State) n p ks, ((u.fillChain n p ks).getD u).fuses = u.fuses := fun u n p ks => by
    cases filled : u.fillChain n p ks with
    | none => rfl
    | some v => exact State.fillChain_fuses filled
  dsimp only
  repeat' split
  all_goals simp [chain]

@[simp] theorem execKeyFill_fuses (c : Ctx) (macBad : Option Nat) (s : State) : Result.Fuses s.fuses (execKeyFill c macBad s) := by
  unfold execKeyFill
  dsimp only
  split
  · split
    · simp
    · split
      · simp
      · split
        · split
          next filled => simpa using State.fillChain_fuses filled
          · split <;> simp
        · simp
  · simp

@[simp] theorem execRelease_fuses (c : Ctx) (w : Insn) (s : State) : Result.Fuses s.fuses (execRelease c w s) :=
  State.issue_fuses _ _ _ _ rfl fun x => by simp
@[simp] theorem execKcv_fuses (c : Ctx) (w : Insn) (s : State) : Result.Fuses s.fuses (execKcv c w s) :=
  State.issue_fuses _ _ _ _ rfl fun x => State.withSlot_fuses _ _ _ _ rfl fun y => by simp
@[simp] theorem execRand_fuses (c : Ctx) (w : Insn) (s : State) : Result.Fuses s.fuses (execRand c w s) := by
  refine State.issue_fuses _ _ _ _ rfl fun x => ?_
  dsimp only
  repeat' split
  all_goals simp

theorem State.placeEphemeral_fuses (k slots : Nat) (x : Context) (kd : Nat) (y : KeySlot) (x' : Context) {f : Nat × Nat} (h : s.fuses = f) :
    (s.placeEphemeral k slots x kd y x').Fuses f := by
  unfold State.placeEphemeral
  dsimp only
  split
  · simp [h]
  · split
    · simp [h]
    next room => simpa [h] using State.makeRoom_fuses room

@[simp] theorem execGenerate_fuses (c : Ctx) (w : Insn) (s : State) : Result.Fuses s.fuses (execGenerate c w s) := by
  refine State.issue_fuses _ _ _ _ rfl fun x => ?_
  dsimp only
  repeat' split
  all_goals simp [State.placeEphemeral_fuses]

@[simp] theorem execMake_fuses (c : Ctx) (w : Insn) (s : State) : Result.Fuses s.fuses (execMake c w s) := by
  refine State.issue_fuses _ _ _ _ rfl fun x => ?_
  dsimp only
  repeat' split
  all_goals simp [State.placeEphemeral_fuses]

@[simp] theorem execKeyExtract_fuses (c : Ctx) (w : Insn) (s : State) : Result.Fuses s.fuses (execKeyExtract c w s) := by
  refine State.issue_fuses _ _ _ _ rfl fun x => ?_
  refine State.withSlot_fuses _ _ _ _ rfl fun y => ?_
  dsimp only
  repeat' split
  all_goals simp

theorem State.placeRecord_fuses {p h : Nat} {y : KeySlot} {parent : Option KeySlot} {direct5 : Bool} {r : List Byte × State × Option Nat}
    (done : s.placeRecord p h y parent direct5 = .ok r) : r.2.1.fuses = s.fuses := by
  simp only [State.placeRecord] at done
  split at done
  · cases done
  · cases done; simp

@[simp] theorem execWriterec_fuses (c : Ctx) (w : Insn) (s : State) : Result.Fuses s.fuses (execWriterec c w s) := by
  refine State.issue_fuses _ _ _ _ rfl fun x => ?_
  have put : ∀ (y : KeySlot) (parent : Option KeySlot), Result.Fuses s.fuses
      (match (s.openEpoch x.part).placeRecord x.part (x.sr w.a) y parent (modBit w 5) with
        | .error r => .next ((s.openEpoch x.part).failAt (ctxKey c) 4 r.1 r.2)
        | .ok (bs, s, d) => .next ((s.retire (ctxKey c) 4 { x with op := (x.op + bs.length) % 2 ^ 24, delta := d <|> x.delta }).inOrder (ctxKey c)
            { output := [(x.op, bs)], pc := x.pc, num := x.retired })) := fun y parent => by
    split
    · simp
    next placed => simpa using State.placeRecord_fuses placed
  dsimp only
  split
  · simp
  · refine State.withSlot_fuses _ _ _ _ rfl fun y => ?_
    split
    · exact put y none
    · exact State.withSlot_fuses _ _ _ _ rfl fun z => put y (some z)

theorem State.loadRecord_fuses {p h : Nat} {bs : List Byte} {r : Nat × State × Option Nat} (done : s.loadRecord p h bs = .ok r) :
    r.2.1.fuses = s.fuses := by
  simp only [State.loadRecord] at done
  repeat' split at done
  all_goals cases done
  all_goals simp

@[simp] theorem execLoadrec_fuses (c : Ctx) (w : Insn) (s : State) : Result.Fuses s.fuses (execLoadrec c w s) := by
  refine State.issue_fuses _ _ _ _ rfl fun x => ?_
  dsimp only
  split
  · simp
  · split
    · simp
    · refine State.gather_fuses _ _ _ rfl fun bs y => ?_
      split
      · simp
      next loaded => simpa using State.loadRecord_fuses loaded

theorem State.geodeFill_fuses (k field : Nat) (x : Context) {run : Context → Result} {f : Nat × Nat} (h : s.fuses = f) (done : ∀ y, (run y).Fuses f) :
    (s.geodeFill k field x run).Fuses f := by
  unfold State.geodeFill
  dsimp only
  repeat' split
  all_goals simp [h, done]

@[simp] theorem execReadrec_fuses (c : Ctx) (w : Insn) (s : State) : Result.Fuses s.fuses (execReadrec c w s) := by
  refine State.issue_fuses _ _ _ _ rfl fun x => ?_
  dsimp only
  split
  · simp
  · exact State.geodeFill_fuses _ _ _ rfl fun y => by simp

@[simp] theorem execDestroy_fuses (c : Ctx) (w : Insn) (s : State) : Result.Fuses s.fuses (execDestroy c w s) := by
  refine State.issue_fuses _ _ _ _ rfl fun x => ?_
  dsimp only
  split
  · simp
  · exact State.geodeFill_fuses _ _ _ rfl fun y => by simp

@[simp] theorem State.markFence_fuses (s : State) (k : Nat) : (s.markFence k).fuses = s.fuses := (rfl)
@[simp] theorem State.dropFences_fuses (s : State) : (s.dropFences).fuses = s.fuses := (rfl)
@[simp] theorem State.failDestroy_fuses (s : State) (k st field : Nat) : (s.failDestroy k st field).fuses = s.fuses := by simp [State.failDestroy]
@[simp] theorem execFenceRaise_fuses (c : Ctx) (s : State) : Result.Fuses s.fuses (execFenceRaise c s) := by
  unfold execFenceRaise
  dsimp only
  repeat' split
  all_goals simp

@[simp] theorem execFenceComplete_fuses (i : Fin 16) (s : State) : Result.Fuses s.fuses (execFenceComplete i s) := by
  unfold execFenceComplete
  dsimp only
  repeat' split
  all_goals simp

@[simp] theorem execFenceOvertime_fuses (i : Fin 16) (s : State) : Result.Fuses s.fuses (execFenceOvertime i s) := by
  unfold execFenceOvertime; split <;> simp
@[simp] theorem execFenceHolderTimeout_fuses (c : Ctx) (s : State) : Result.Fuses s.fuses (execFenceHolderTimeout c s) := by
  unfold execFenceHolderTimeout
  dsimp only
  repeat' split
  all_goals simp

@[simp] theorem execSweeperStep_fuses (s : State) : Result.Fuses s.fuses (execSweeperStep s) := by
  unfold execSweeperStep
  dsimp only
  repeat' split
  all_goals simp

@[simp] theorem State.remaskEntry_fuses (s : State) (n : Nat) (e : CacheEntry) : (s.remaskEntry n e).fuses = s.fuses := (rfl)
@[simp] theorem State.remaskSlot_fuses (s : State) (n k i : Nat) : (s.remaskSlot n k i).fuses = s.fuses := by
  unfold State.remaskSlot
  split <;> simp

@[simp] theorem execRemaskPeriod_fuses (n : Fin 16) (seeded : Bool) (s : State) : Result.Fuses s.fuses (execRemaskPeriod n seeded s) := by
  unfold execRemaskPeriod
  dsimp only
  repeat' split
  all_goals simp

/-! ## Format -/

@[simp] theorem State.format_fuses (s : State) (c : Ctx) (op : Nat) (w : Insn) (twinOk : Bool) : (s.format c op w twinOk).Fuses s.fuses := by
  refine State.issue_fuses c 5 op w rfl fun x => ?_
  dsimp only
  repeat' split
  all_goals simp

@[simp] theorem execFmtCheck_fuses (c : Ctx) (w : Insn) (twinOk : Bool) (s : State) : Result.Fuses s.fuses (execFmtCheck c w twinOk s) := by
  simp [execFmtCheck]
@[simp] theorem execFmtExtract_fuses (c : Ctx) (w : Insn) (twinOk : Bool) (s : State) : Result.Fuses s.fuses (execFmtExtract c w twinOk s) := by
  simp [execFmtExtract]
@[simp] theorem execBuildPin_fuses (c : Ctx) (w : Insn) (twinOk : Bool) (s : State) : Result.Fuses s.fuses (execBuildPin c w twinOk s) := by
  simp [execBuildPin]
@[simp] theorem execBuildPan_fuses (c : Ctx) (w : Insn) (twinOk : Bool) (s : State) : Result.Fuses s.fuses (execBuildPan c w twinOk s) := by
  simp [execBuildPan]
@[simp] theorem execBuildBlock_fuses (c : Ctx) (w : Insn) (twinOk : Bool) (s : State) : Result.Fuses s.fuses (execBuildBlock c w twinOk s) := by
  simp [execBuildBlock]
@[simp] theorem execDecimalise_fuses (c : Ctx) (w : Insn) (twinOk : Bool) (s : State) : Result.Fuses s.fuses (execDecimalise c w twinOk s) := by
  simp [execDecimalise]

/-! ## Derive -/

@[simp] theorem State.countDerive_fuses (s : State) (n : Nat) (e : DerEntry) (agreed : Bool) :
    (s.countDerive n e agreed).fuses = s.fuses := by unfold State.countDerive; dsimp only; split <;> simp
theorem State.derive_fuses (c : Ctx) (op : Nat) (w : Insn) (twin : Option (Fin 6))
    {put : State → Nat → Nat → Context → KeySlot → DerEntry → List Byte → Result} {f : Nat × Nat} (h : s.fuses = f)
    (done : ∀ u k slots x y e v, u.fuses = f → (put u k slots x y e v).Fuses f) : (s.derive c op w twin put).Fuses f := by
  refine State.issue_fuses c 6 op w h fun x => ?_
  dsimp only
  split
  · simp [h]
  · refine State.withSlot_fuses _ _ _ _ h fun y => ?_
    split
    · simp [h]
    · split
      · simp [h]
      · split
        · simp [h]
        · exact done _ _ _ _ _ _ _ (by simp [h])

@[simp] theorem execDeriveKey_fuses (c : Ctx) (w : Insn) (twin : Option (Fin 6)) (s : State) : Result.Fuses s.fuses (execDeriveKey c w twin s) :=
  State.derive_fuses _ _ _ _ rfl fun _ _ _ _ _ _ _ kept => State.placeEphemeral_fuses _ _ _ _ _ _ kept
@[simp] theorem execDeriveData_fuses (c : Ctx) (w : Insn) (twin : Option (Fin 6)) (s : State) : Result.Fuses s.fuses (execDeriveData c w twin s) :=
  State.derive_fuses _ _ _ _ rfl fun _ _ _ _ _ _ _ kept => by simpa using kept

/-! ## Flint -/

@[simp] theorem State.updCell_fuses (s : State) (c : Nat) (f : Cell → Cell) : (s.updCell c f).fuses = s.fuses := (rfl)
@[simp] theorem State.updDrbg_fuses (s : State) (n : Nat) (f : Drbg → Drbg) : (s.updDrbg n f).fuses = s.fuses := (rfl)
@[simp] theorem State.discardQueue_fuses (s : State) (n : Nat) : (s.discardQueue n).fuses = s.fuses := by simp [State.discardQueue]
@[simp] theorem State.discardAll_fuses (s : State) (hit : Nat → Bool) : (s.discardAll hit).fuses = s.fuses := by simp [State.discardAll]
@[simp] theorem State.countFailure_fuses (s : State) : (s.countFailure).fuses = s.fuses := by simp [State.countFailure]
@[simp] theorem State.lastFailure_fuses (s : State) (c test : Nat) (start : Bool) : (s.lastFailure c test start).fuses = s.fuses := (rfl)
@[simp] theorem State.failCell_fuses (s : State) (c test : Nat) : (s.failCell c test).fuses = s.fuses := by simp [State.failCell]
@[simp] theorem State.collectBits_fuses (fuel : Nat) (s : State) : (State.collectBits fuel s).fuses = s.fuses := by
  induction fuel generalizing s with
  | zero => rfl
  | succ fuel ih =>
    unfold State.collectBits
    dsimp only
    repeat' split
    all_goals simp [ih]

@[simp] theorem State.collect_fuses (s : State) : s.collect.fuses = s.fuses := by
  unfold State.collect
  split
  · rfl
  · rw [State.collectBits_fuses]; simp

@[simp] theorem execAptWindowClose_fuses (cell : Fin 8) (count : Nat) (s : State) : Result.Fuses s.fuses (execAptWindowClose cell count s) := by
  simp [execAptWindowClose]
@[simp] theorem execRepetitionCountFail_fuses (cell : Fin 8) (s : State) : Result.Fuses s.fuses (execRepetitionCountFail cell s) := by
  simp [execRepetitionCountFail]
@[simp] theorem State.startCells_fuses (s : State) : (s.startCells).fuses = s.fuses := by simp [State.startCells]
@[simp] theorem State.settleAllUnits_fuses (s : State) : (s.settleAllUnits).fuses = s.fuses := by simp [State.settleAllUnits]
@[simp] theorem State.settleReady_fuses (s : State) : (s.settleReady).fuses = s.fuses := by simp [State.settleReady]
@[simp] theorem execCellRestartTest_fuses (cell : Fin 8) (count : Nat) (repeated : Bool) (s : State) : Result.Fuses s.fuses (execCellRestartTest cell count repeated s) := by
  simp [execCellRestartTest]
@[simp] theorem State.failCore_fuses (s : State) (n : Nat) : (s.failCore n).fuses = s.fuses := by simp [State.failCore]
@[simp] theorem execDrbgInstantiate_fuses (n : Fin 16) (core : CoreTest) (s : State) : Result.Fuses s.fuses (execDrbgInstantiate n core s) := by
  simp [execDrbgInstantiate]
@[simp] theorem execDrbgReseed_fuses (n : Fin 16) (s : State) : Result.Fuses s.fuses (execDrbgReseed n s) := by simp [execDrbgReseed]
@[simp] theorem State.serveDraws_fuses (s : State) (n : Nat) : (s.serveDraws n).fuses = s.fuses := by simp [State.serveDraws]
@[simp] theorem execDrbgGenerate_fuses (n : Fin 16) (twinOk : Bool) (s : State) : Result.Fuses s.fuses (execDrbgGenerate n twinOk s) := by
  simp [execDrbgGenerate]
@[simp] theorem execRngNotReadyTimeout_fuses (c : Ctx) (s : State) : Result.Fuses s.fuses (execRngNotReadyTimeout c s) := by
  unfold execRngNotReadyTimeout; split <;> simp
@[simp] theorem execObsSeedRefresh_fuses (s : State) : Result.Fuses s.fuses (execObsSeedRefresh s) := by simp [execObsSeedRefresh]

/-! ## Pk -/

@[simp] theorem State.enqueuePk_fuses (s : State) (p : Nat) (o : PkOp) : (s.enqueuePk p o).fuses = s.fuses := (rfl)
theorem State.pkSource_fuses (k : Nat) (x : Context) (w : Insn) {use : List Byte → Context → Result} {f : Nat × Nat} (h : s.fuses = f)
    (used : ∀ bs y, (use bs y).Fuses f) : (s.pkSource k x w use).Fuses f := by
  unfold State.pkSource
  split
  · exact State.gather_fuses _ _ _ h used
  · exact used _ _

@[simp] theorem State.pkx_fuses (s : State) (c : Ctx) (oper : Nat) (w : Insn) : (s.pkx c oper w).Fuses s.fuses := by
  unfold State.pkx
  split
  · simp
  · split
    · simp
    · refine State.issue_fuses c 9 0 w rfl fun x0 => State.pkSource_fuses _ _ _ rfl fun bytes x => ?_
      dsimp only
      split
      · refine State.withSlot_fuses _ _ _ _ rfl fun y => ?_
        repeat' split
        all_goals simp
      · repeat' split
        all_goals simp

@[simp] theorem execEcKeygen_fuses (c : Ctx) (w : Insn) (s : State) : Result.Fuses s.fuses (execEcKeygen c w s) := by simp [execEcKeygen]
@[simp] theorem execEcdsaSign_fuses (c : Ctx) (w : Insn) (s : State) : Result.Fuses s.fuses (execEcdsaSign c w s) := by simp [execEcdsaSign]
@[simp] theorem execEcdsaVerify_fuses (c : Ctx) (w : Insn) (s : State) : Result.Fuses s.fuses (execEcdsaVerify c w s) := by simp [execEcdsaVerify]
@[simp] theorem execEcdh_fuses (c : Ctx) (w : Insn) (s : State) : Result.Fuses s.fuses (execEcdh c w s) := by simp [execEcdh]
@[simp] theorem execEddsaSign_fuses (c : Ctx) (w : Insn) (s : State) : Result.Fuses s.fuses (execEddsaSign c w s) := by simp [execEddsaSign]
@[simp] theorem execEddsaVerify_fuses (c : Ctx) (w : Insn) (s : State) : Result.Fuses s.fuses (execEddsaVerify c w s) := by simp [execEddsaVerify]
@[simp] theorem execRsaSignPss_fuses (c : Ctx) (w : Insn) (s : State) : Result.Fuses s.fuses (execRsaSignPss c w s) := by simp [execRsaSignPss]
@[simp] theorem execRsaSignV15_fuses (c : Ctx) (w : Insn) (s : State) : Result.Fuses s.fuses (execRsaSignV15 c w s) := by simp [execRsaSignV15]
@[simp] theorem execRsaVerifyPss_fuses (c : Ctx) (w : Insn) (s : State) : Result.Fuses s.fuses (execRsaVerifyPss c w s) := by simp [execRsaVerifyPss]
@[simp] theorem execRsaVerifyV15_fuses (c : Ctx) (w : Insn) (s : State) : Result.Fuses s.fuses (execRsaVerifyV15 c w s) := by simp [execRsaVerifyV15]
@[simp] theorem execRsaOaepDecrypt_fuses (c : Ctx) (w : Insn) (s : State) : Result.Fuses s.fuses (execRsaOaepDecrypt c w s) := by
  simp [execRsaOaepDecrypt]
@[simp] theorem execRsaOaepEncrypt_fuses (c : Ctx) (w : Insn) (s : State) : Result.Fuses s.fuses (execRsaOaepEncrypt c w s) := by
  simp [execRsaOaepEncrypt]
@[simp] theorem execRsaKeygen_fuses (c : Ctx) (w : Insn) (s : State) : Result.Fuses s.fuses (execRsaKeygen c w s) := by simp [execRsaKeygen]
@[simp] theorem execMlkemKeygen_fuses (c : Ctx) (w : Insn) (s : State) : Result.Fuses s.fuses (execMlkemKeygen c w s) := by simp [execMlkemKeygen]
@[simp] theorem execMlkemEncaps_fuses (c : Ctx) (w : Insn) (s : State) : Result.Fuses s.fuses (execMlkemEncaps c w s) := by simp [execMlkemEncaps]
@[simp] theorem execMlkemDecaps_fuses (c : Ctx) (w : Insn) (s : State) : Result.Fuses s.fuses (execMlkemDecaps c w s) := by simp [execMlkemDecaps]
@[simp] theorem execMldsaKeygen_fuses (c : Ctx) (w : Insn) (s : State) : Result.Fuses s.fuses (execMldsaKeygen c w s) := by simp [execMldsaKeygen]
@[simp] theorem execMldsaSign_fuses (c : Ctx) (w : Insn) (s : State) : Result.Fuses s.fuses (execMldsaSign c w s) := by simp [execMldsaSign]
@[simp] theorem execMldsaVerify_fuses (c : Ctx) (w : Insn) (s : State) : Result.Fuses s.fuses (execMldsaVerify c w s) := by simp [execMldsaVerify]
@[simp] theorem execAttest_fuses (c : Ctx) (w : Insn) (s : State) : Result.Fuses s.fuses (execAttest c w s) := by
  refine State.issue_fuses _ _ _ _ rfl fun x => ?_
  refine State.withSlot_fuses _ _ _ _ rfl fun y => ?_
  dsimp only
  repeat' split
  all_goals simp

@[simp] theorem execPkHandoff_fuses (p : Fin 8) (lattice : Bool) (s : State) : Result.Fuses s.fuses (execPkHandoff p lattice s) := by
  unfold execPkHandoff
  dsimp only
  repeat' split
  all_goals simp

@[simp] theorem State.pkFault_fuses (s : State) (p u : Nat) (kat : Bool) : (s.pkFault p u kat).fuses = s.fuses := by simp [State.pkFault]
@[simp] theorem State.pkReturn_fuses (s : State) (k : Nat) (o : PkOp) (result : List Byte) (secret : Option (Nat × KType × List Byte)) :
    (s.pkReturn k o result secret).Fuses s.fuses := by
  cases secret with
  | none =>
    simp only [State.pkReturn, Result.fuses_next]
    split <;> simp
  | some secret =>
    simp only [State.pkReturn]
    split
    next t placed =>
      have kept : t.fuses = s.fuses := State.placeEphemeral_fuses _ _ _ _ _ _ rfl t placed
      rw [Result.fuses_next]
      split <;> simp [kept]
    · simp
    · simp

@[simp] theorem State.attestReturn_fuses (s : State) (k : Nat) (o : PkOp) (sig : List Byte) : (s.attestReturn k o sig).Fuses s.fuses := by
  unfold State.attestReturn
  dsimp only
  split <;> simp

@[simp] theorem State.feedPk_fuses (s : State) (p u slot : Nat) (o : PkOp) (n need : Nat) : (s.feedPk p u slot o n need).2.fuses = s.fuses := by
  simp [State.feedPk]
@[simp] theorem execPkOpComplete_fuses (p : Fin 8) (unit : Fin 9) (slot : Fin 2) (twinOk : Bool) (iters : Nat) (s : State) :
    Result.Fuses s.fuses (execPkOpComplete p unit slot twinOk iters s) := by
  have give : ∀ (u : State) (k : Nat) (o : PkOp) (r : List Byte) (sec : Option (Nat × KType × List Byte)), u.fuses = s.fuses →
      Result.Fuses s.fuses (if o.attest = 0 then u.pkReturn k o r sec else u.attestReturn k o r) := fun u k o r sec same => by
    rw [← same]
    split <;> simp
  unfold execPkOpComplete
  dsimp only
  split
  · simp
  · split
    · simp
    · split
      · simp
      · split
        · simp
        · simp
        · simp
        · simp
        · exact give _ _ _ _ none ((State.keepMax_fuses ..).trans ((State.set_fuses ..).trans (by simp)))
        · exact .ite (by simp) (give _ _ _ _ _ (by simp))

@[simp] theorem execPkOpAbort_fuses (p : Fin 8) (unit : Fin 9) (slot : Fin 2) (s : State) : Result.Fuses s.fuses (execPkOpAbort p unit slot s) := by
  unfold execPkOpAbort; split <;> simp
@[simp] theorem State.movePk_fuses (s : State) (p : Nat) : (s.movePk p).fuses = s.fuses := by
  unfold State.movePk
  split
  · rw [State.settlePkFreeze_fuses]
    refine State.fuses_foldl _ (fun u lattice => State.fuses_foldl _ (fun v o => ?_) _ _) _ _
    split <;> simp
  · simp

@[simp] theorem execPkKatComplete_fuses (p : Fin 8) (unit : Fin 9) (pass twinOk : Bool) (s : State) : Result.Fuses s.fuses (execPkKatComplete p unit pass twinOk s) := by
  simp [execPkKatComplete]
@[simp] theorem State.wantPkKat_fuses (s : State) (p u : Nat) : (s.wantPkKat p u).fuses = s.fuses := (rfl)
@[simp] theorem execKatGoEng_fuses (p : Fin 8) (engines : BitVec 8) (s : State) : Result.Fuses s.fuses (execKatGoEng p engines s) := by
  simp [execKatGoEng]
@[simp] theorem execKatGoLu_fuses (p : Fin 8) (s : State) : Result.Fuses s.fuses (execKatGoLu p s) := by simp [execKatGoLu]
@[simp] theorem execPkFreeze_fuses (p : Fin 8) (on : Bool) (s : State) : Result.Fuses s.fuses (execPkFreeze p on s) := by simp [execPkFreeze]
@[simp] theorem State.resetPkUnits_fuses (s : State) (p : Nat) : (s.resetPkUnits p).fuses = s.fuses := by simp [State.resetPkUnits]
@[simp] theorem execPkReset_fuses (p : Fin 8) (viaRst : Bool) (s : State) : Result.Fuses s.fuses (execPkReset p viaRst s) := by simp [execPkReset]

/-! ## Images -/

@[simp] theorem State.restoreCurve_fuses (s : State) (i : Nat) (bs : List Byte) :
    (s.restoreCurve i bs).fuses = s.fuses := by simp [State.restoreCurve]
@[simp] theorem State.loadTables_fuses (s : State) (f : Flash) : (s.loadTables f).fuses = s.fuses := by simp [State.loadTables]

/-! ## CardBase -/

@[simp] theorem State.setPin_fuses (s : State) (feature : Nat) (level : Bool) : (s.setPin feature level).fuses = s.fuses := by simp [State.setPin]
@[simp] theorem State.deactivateCard_fuses (s : State) (port : Nat) : (s.deactivateCard port).fuses = s.fuses := (rfl)
@[simp] theorem State.endCardApproval_fuses (s : State) (result : Nat) : (s.endCardApproval result).fuses = s.fuses := by simp [State.endCardApproval]
@[simp] theorem State.dropCardApproval_fuses (s : State) : (s.dropCardApproval).fuses = s.fuses := by simp [State.dropCardApproval]
@[simp] theorem State.deactivateCards_fuses (s : State) : (s.deactivateCards).fuses = s.fuses := by simp [State.deactivateCards]
@[simp] theorem State.setJournalCount_fuses (s : State) (n : Nat) : (s.setJournalCount n).fuses = s.fuses := by simp [State.setJournalCount]
@[simp] theorem State.startAppend_fuses (s : State) : (s.startAppend).fuses = s.fuses := by unfold State.startAppend; split <;> simp
@[simp] theorem State.journal_fuses (s : State) (a : Append) : (s.journal a).fuses = s.fuses := by simp [State.journal]
@[simp] theorem State.failAppend_fuses (s : State) : s.failAppend.fuses = s.fuses := State.fuses_of_steady (.failAppend .refl)
@[simp] theorem State.closeJournal_fuses (s : State) : (s.closeJournal).fuses = s.fuses := by simp [State.closeJournal]

/-! ## Kat -/

@[simp] theorem State.katRun_fuses (s : State) (n u : Nat) (pass twinOk : Bool) : (s.katRun n u pass twinOk).2.fuses = s.fuses := by
  unfold State.katRun
  split <;> simp

@[simp] theorem State.endQueued_fuses (s : State) (n : Nat) : (s.endQueued n).fuses = s.fuses := by
  refine (State.fuses_foldl _ (fun u o => ?_) _ _).trans (by simp)
  split <;> simp

@[simp] theorem execKatComplete_fuses (n : Fin 16) (unit : Fin 6) (pass : Bool) (twinOk : Bool) (s : State) : Result.Fuses s.fuses (execKatComplete n unit pass twinOk s) := by
  simp [execKatComplete]

/-! ## Cores -/

@[simp] theorem State.updThread_fuses (s : State) (t : Nat) (f : Thread → Thread) : (s.updThread t f).fuses = s.fuses := (rfl)
@[simp] theorem State.unlist_fuses (s : State) (t : Nat) : (s.unlist t).fuses = s.fuses := (rfl)
@[simp] theorem State.settleSched_fuses (s was : State) : (s.settleSched was).fuses = s.fuses := by simp [State.settleSched]
@[simp] theorem State.enlist_fuses (s : State) (t since : Nat) : (s.enlist t since).fuses = s.fuses := by simp [State.enlist]
@[simp] theorem State.makeReady_fuses (s : State) (t : Nat) : (s.makeReady t).fuses = s.fuses := by simp [State.makeReady]
@[simp] theorem State.refuseOp_fuses (s : State) : (s.refuseOp).fuses = s.fuses := by simp [State.refuseOp]
@[simp] theorem State.schedOp_fuses (s : State) (t : Nat) (allowed : TState → Bool) (run : State → State) (kept : (run s).fuses = s.fuses) :
    (s.schedOp t allowed run).Fuses s.fuses := by
  unfold State.schedOp
  split <;> simp [kept]

@[simp] theorem execCreate_fuses (slot : Fin 512) (s : State) : Result.Fuses s.fuses (execCreate slot s) := by simp [execCreate]
@[simp] theorem execReady_fuses (slot : Fin 512) (s : State) : Result.Fuses s.fuses (execReady slot s) := by simp [execReady]
@[simp] theorem execDelay_fuses (slot : Fin 512) (ticks : Fin 1048576) (s : State) : Result.Fuses s.fuses (execDelay slot ticks s) := by
  simp [execDelay]
@[simp] theorem execBlock_fuses (slot : Fin 512) (s : State) : Result.Fuses s.fuses (execBlock slot s) := by simp [execBlock]
@[simp] theorem State.freeThread_fuses (s : State) (t : Nat) : (s.freeThread t).fuses = s.fuses := (rfl)
@[simp] theorem execFree_fuses (slot : Fin 512) (s : State) : Result.Fuses s.fuses (execFree slot s) := by simp [execFree]
@[simp] theorem execSetprio_fuses (slot : Fin 512) (prio : Fin 32) (s : State) : Result.Fuses s.fuses (execSetprio slot prio s) := by
  simp [execSetprio]
@[simp] theorem execNextRead_fuses (core : Fin 8) (s : State) : Result.Fuses s.fuses (execNextRead core s) := by
  unfold execNextRead
  dsimp only
  repeat' split
  all_goals simp

@[simp] theorem execSchedTick_fuses (s : State) : Result.Fuses s.fuses (execSchedTick s) := by simp [execSchedTick]
@[simp] theorem execHold_fuses (value : BitVec 8) (s : State) : Result.Fuses s.fuses (execHold value s) := by simp [execHold]
@[simp] theorem execCoreReset_fuses (cores : BitVec 8) (s : State) : Result.Fuses s.fuses (execCoreReset cores s) := by simp [execCoreReset]
@[simp] theorem State.stopApplet_fuses (s : State) (a : Nat) : (s.stopApplet a).fuses = s.fuses := by simp [State.stopApplet]
@[simp] theorem State.startApplet_fuses (s : State) (h : AppletHeader) : (s.startApplet h).fuses = s.fuses := by simp [State.startApplet]

/-! ## Partition -/

@[simp] theorem State.wrapRing_fuses (s : State) (k : Nat) : (s.wrapRing k).fuses = s.fuses := by simp [State.wrapRing]
@[simp] theorem State.settleTree_fuses (s : State) : (s.settleTree).fuses = s.fuses := by simp [State.settleTree]
@[simp] theorem State.askCatchup_fuses (s : State) (k : Nat) : (s.askCatchup k).fuses = s.fuses := by simp [State.askCatchup]
@[simp] theorem State.tellHolds_fuses (s : State) (k : Nat) : (s.tellHolds k).fuses = s.fuses := by simp [State.tellHolds]
@[simp] theorem State.settleLink_fuses (s : State) (k : Nat) : (s.settleLink k).fuses = s.fuses := by simp [State.settleLink]
@[simp] theorem State.enterMode_fuses (s : State) (m : Mode) : (s.enterMode m).fuses = s.fuses := by simp [State.enterMode]
@[simp] theorem State.keepEntry_fuses (s : State) (p : Nat) : (s.keepEntry p).fuses = s.fuses := (rfl)
@[simp] theorem State.freezePart_fuses (s : State) (p : Nat) : (s.freezePart p).fuses = s.fuses := by simp [State.freezePart]
@[simp] theorem State.thawPart_fuses (s : State) (p : Nat) : (s.thawPart p).fuses = s.fuses := by simp [State.thawPart]
@[simp] theorem State.commandDone_fuses (s : State) (p : Nat) : (s.commandDone p).fuses = s.fuses := by simp [State.commandDone]
@[simp] theorem State.partCmdResult_fuses (s : State) (p : Nat) (ok : Bool) : (s.partCmdResult p ok).fuses = s.fuses := (rfl)
@[simp] theorem execPartCmdFreeze_fuses (part : Fin 1024) (s : State) : Result.Fuses s.fuses (execPartCmdFreeze part s) := by
  unfold execPartCmdFreeze
  dsimp only
  repeat' split
  all_goals simp

@[simp] theorem execPartCmdThaw_fuses (part : Fin 1024) (s : State) : Result.Fuses s.fuses (execPartCmdThaw part s) := by
  unfold execPartCmdThaw
  split
  · simp
  · repeat' split
    all_goals simp

@[simp] theorem execPartCmdDrain_fuses (part : Fin 1024) (s : State) : Result.Fuses s.fuses (execPartCmdDrain part s) := by
  unfold execPartCmdDrain
  dsimp only
  repeat' split
  all_goals simp

@[simp] theorem execFreezeComplete_fuses (part : Fin 1024) (s : State) : Result.Fuses s.fuses (execFreezeComplete part s) := by
  simp [execFreezeComplete]
@[simp] theorem execDrainComplete_fuses (part : Fin 1024) (s : State) : Result.Fuses s.fuses (execDrainComplete part s) := by simp [execDrainComplete]
@[simp] theorem State.createPart_fuses (s : State) (p : Nat) : (s.createPart p).fuses = s.fuses := (rfl)
@[simp] theorem State.deletePart_fuses (s : State) (p : Nat) : (s.deletePart p).fuses = s.fuses := by simp [State.deletePart]

/-! ## Power -/

@[simp] theorem State.requestLevel_fuses (s : State) (level : Nat) : (s.requestLevel level).fuses = s.fuses := (rfl)
@[simp] theorem State.lockIslands_fuses (s : State) (locked : Bool) : (s.lockIslands locked).fuses = s.fuses := (rfl)
@[simp] theorem State.lockFixed_fuses (s : State) (islands : List Nat) (locked : Bool) :
    (s.lockFixed islands locked).fuses = s.fuses := by simp [State.lockFixed]
@[simp] theorem State.beginRelock_fuses (s : State) (step : Nat) : (s.beginRelock step).fuses = s.fuses := (rfl)
@[simp] theorem State.runLevel_fuses (s : State) (level : Nat) : (s.runLevel level).fuses = s.fuses := by simp [State.runLevel]
@[simp] theorem State.startWatchdog_fuses (s : State) : (s.startWatchdog).fuses = s.fuses := (rfl)
@[simp] theorem State.settleWake_fuses (s : State) : (s.settleWake).fuses = s.fuses := by simp [State.settleWake]
@[simp] theorem State.endChange_fuses (s : State) : (s.endChange).fuses = s.fuses := by simp [State.endChange]
@[simp] theorem State.urgentPl0_fuses (s : State) : (s.urgentPl0).fuses = s.fuses := by simp [State.urgentPl0]
@[simp] theorem State.applyT1_fuses (s : State) : (s.applyT1).fuses = s.fuses := by simp [State.applyT1]
@[simp] theorem execPlCapWrite_fuses (cap : Fin 4) (s : State) : Result.Fuses s.fuses (execPlCapWrite cap s) := by simp [execPlCapWrite]
@[simp] theorem execLevelChangeStart_fuses (s : State) : Result.Fuses s.fuses (execLevelChangeStart s) := by simp [execLevelChangeStart]
@[simp] theorem execAvsAck_fuses (status : BitVec 16) (atTarget : Bool) (s : State) : Result.Fuses s.fuses (execAvsAck status atTarget s) := by
  unfold execAvsAck
  dsimp only
  repeat' split
  all_goals simp

@[simp] theorem execAvsTimeout_fuses (s : State) : Result.Fuses s.fuses (execAvsTimeout s) := by simp [execAvsTimeout]
@[simp] theorem execAvsRetry_fuses (s : State) : Result.Fuses s.fuses (execAvsRetry s) := by simp [execAvsRetry]
@[simp] theorem execPlFailClear_fuses (s : State) : Result.Fuses s.fuses (execPlFailClear s) := by simp [execPlFailClear]
@[simp] theorem State.setThermCap_fuses (s : State) (cap : Nat) : (s.setThermCap cap).fuses = s.fuses := by simp [State.setThermCap]
@[simp] theorem execThermalSample_fuses (readings : List (BitVec 8)) (vddMv : Nat) (s : State) :
    Result.Fuses s.fuses (execThermalSample readings vddMv s) := by
  unfold execThermalSample
  dsimp only
  repeat' split
  all_goals simp

@[simp] theorem execThermalCapFall_fuses (s : State) : Result.Fuses s.fuses (execThermalCapFall s) := by unfold execThermalCapFall; split <;> simp
@[simp] theorem execThermalCapRise_fuses (s : State) : Result.Fuses s.fuses (execThermalCapRise s) := by unfold execThermalCapRise; split <;> simp
@[simp] theorem execIdleGate_fuses (island : Fin 31) (s : State) : Result.Fuses s.fuses (execIdleGate island s) := by simp [execIdleGate]
@[simp] theorem execIslandUngate_fuses (island : Fin 31) (s : State) : Result.Fuses s.fuses (execIslandUngate island s) := by simp [execIslandUngate]
@[simp] theorem State.setDomain_fuses (s : State) (d : Nat) (on : Bool) : (s.setDomain d on).fuses = s.fuses := by simp [State.setDomain]
@[simp] theorem State.powerOffCluster_fuses (s : State) (i : Nat) : (s.powerOffCluster i).fuses = s.fuses := by simp [State.powerOffCluster]
@[simp] theorem State.setClusterOff_fuses (s : State) (i : Nat) (off : Bool) :
    (s.setClusterOff i off).fuses = s.fuses := by simp [State.setClusterOff]
@[simp] theorem execClusterPowerOff_fuses (cluster : Fin 24) (s : State) : Result.Fuses s.fuses (execClusterPowerOff cluster s) := by
  simp [execClusterPowerOff]
@[simp] theorem State.powerOnCluster_fuses (s : State) (i : Nat) : (s.powerOnCluster i).fuses = s.fuses := by simp [State.powerOnCluster]
@[simp] theorem execClusterPowerOn_fuses (cluster : Fin 24) (s : State) : Result.Fuses s.fuses (execClusterPowerOn cluster s) := by
  simp [execClusterPowerOn]
@[simp] theorem execRelSd_fuses (s : State) : Result.Fuses s.fuses (execRelSd s) := by simp [execRelSd]
@[simp] theorem execRelCard_fuses (s : State) : Result.Fuses s.fuses (execRelCard s) := by simp [execRelCard]

/-! ## Pair -/

@[simp] theorem State.closeGate_fuses (s : State) : (s.closeGate).fuses = s.fuses := by simp [State.closeGate]
@[simp] theorem State.thawFrozen_fuses (s : State) : (s.thawFrozen).fuses = s.fuses := by simp [State.thawFrozen]
@[simp] theorem State.discardChange_fuses (s : State) : (s.discardChange).fuses = s.fuses := by simp [State.discardChange]
@[simp] theorem State.becomeActive_fuses (s : State) : (s.becomeActive).fuses = s.fuses := by unfold State.becomeActive; dsimp only; split <;> simp
@[simp] theorem State.withdraw_fuses (s : State) : (s.withdraw).fuses = s.fuses := by simp [State.withdraw]
@[simp] theorem State.claim_fuses (s : State) : (s.claim).fuses = s.fuses := (rfl)
@[simp] theorem State.bootClaim_fuses (s : State) : (s.bootClaim).fuses = s.fuses := by simp [State.bootClaim]
@[simp] theorem execClaimTie_fuses (s : State) : Result.Fuses s.fuses (execClaimTie s) := by simp [execClaimTie]
@[simp] theorem execStuckClaim_fuses (s : State) : Result.Fuses s.fuses (execStuckClaim s) := by simp [execStuckClaim]
@[simp] theorem State.endAllCommands_fuses (s : State) : (s.endAllCommands).fuses = s.fuses := by simp [State.endAllCommands]
@[simp] theorem State.dropRole_fuses (s : State) : (s.dropRole).fuses = s.fuses := (rfl)
@[simp] theorem State.demote_fuses (s : State) : (s.demote).fuses = s.fuses := by simp [State.demote]
@[simp] theorem execDemote_fuses (s : State) : Result.Fuses s.fuses (execDemote s) := by simp [execDemote]
@[simp] theorem execClaimConflict_fuses (s : State) : Result.Fuses s.fuses (execClaimConflict s) := by unfold execClaimConflict; split <;> simp
@[simp] theorem execHostloss_fuses (s : State) : Result.Fuses s.fuses (execHostloss s) := by unfold execHostloss; split <;> simp
@[simp] theorem execInterlockInputChange_fuses (claimIn healthIn : Bool) (s : State) : Result.Fuses s.fuses (execInterlockInputChange claimIn healthIn s) := by
  simp [execInterlockInputChange]
@[simp] theorem execHealthReportSend_fuses (s : State) : Result.Fuses s.fuses (execHealthReportSend s) := by simp [execHealthReportSend]
@[simp] theorem State.adoptSync_fuses (s : State) (v : Nat) : (s.adoptSync v).fuses = s.fuses := by simp [State.adoptSync]
@[simp] theorem State.settleLag_fuses (s : State) : (s.settleLag).fuses = s.fuses := (rfl)
@[simp] theorem State.resyncDelta_fuses (s : State) (d : Delta) : (s.resyncDelta d).fuses = s.fuses := by simp [State.resyncDelta]
@[simp] theorem State.sendParts_fuses (s : State) : (s.sendParts).fuses = s.fuses := by simp [State.sendParts]
@[simp] theorem State.startResync_fuses (s : State) : s.startResync.fuses = s.fuses := by simp [State.startResync]
@[simp] theorem execHealthReportReceive_fuses (report : List Byte) (s : State) : Result.Fuses s.fuses (execHealthReportReceive report s) := by
  simp [execHealthReportReceive]
@[simp] theorem execReportLost_fuses (s : State) : Result.Fuses s.fuses (execReportLost s) := by simp [execReportLost]
@[simp] theorem State.selfTest_fuses (s : State) (i : Nat) (pass : Bool) : (s.selfTest i pass).fuses = s.fuses := by
  unfold State.selfTest
  split
  · exact (Result.stateOr_fuses (execKatComplete_fuses _ _ _ _ _)).trans (by simp)
  · exact (Result.stateOr_fuses (execPkKatComplete_fuses _ _ _ _ _)).trans (by simp)

@[simp] theorem execSelfTestStep_fuses (result : Fin 4) (s : State) : Result.Fuses s.fuses (execSelfTestStep result s) := by simp [execSelfTestStep]
@[simp] theorem execDeltaAck_fuses (dseq : Nat) (s : State) : Result.Fuses s.fuses (execDeltaAck dseq s) := by simp [execDeltaAck]
@[simp] theorem State.outOfSync_fuses (s : State) : (s.outOfSync).fuses = s.fuses := by simp [State.outOfSync]
@[simp] theorem execSyncTimeout_fuses (s : State) : Result.Fuses s.fuses (execSyncTimeout s) := by simp [execSyncTimeout]
@[simp] theorem State.startTakeover_fuses (s : State) : (s.startTakeover).fuses = s.fuses := (rfl)
@[simp] theorem execTakeover_fuses (s : State) : Result.Fuses s.fuses (execTakeover s) := by unfold execTakeover; split <;> simp
@[simp] theorem execTake_fuses (s : State) : Result.Fuses s.fuses (execTake s) := by simp [execTake]
@[simp] theorem execRelinquish_fuses (s : State) : Result.Fuses s.fuses (execRelinquish s) := by simp [execRelinquish]
@[simp] theorem execRelinquishDrained_fuses (s : State) : Result.Fuses s.fuses (execRelinquishDrained s) := by simp [execRelinquishDrained]
@[simp] theorem execHandover_fuses (s : State) : Result.Fuses s.fuses (execHandover s) := by simp [execHandover]
@[simp] theorem execResync_fuses (s : State) : Result.Fuses s.fuses (execResync s) := by simp [execResync]

/-! ## Fvl -/

@[simp] theorem State.dropForwarded_fuses (s : State) (k : Nat) : (s.dropForwarded k).fuses = s.fuses := by simp [State.dropForwarded]
@[simp] theorem State.linkDown_fuses (s : State) (k cause : Nat) : (s.linkDown k cause).fuses = s.fuses := by simp [State.linkDown]
@[simp] theorem State.allLinksDown_fuses (s : State) : (s.allLinksDown).fuses = s.fuses := by simp [State.allLinksDown]
@[simp] theorem execLinkTrained_fuses (k : Fin 8) (s : State) : Result.Fuses s.fuses (execLinkTrained k s) := by simp [execLinkTrained]
@[simp] theorem State.sendProof_fuses (s : State) (k : Nat) (h : Hello) : (s.sendProof k h).fuses = s.fuses := (rfl)
@[simp] theorem execHandshake_fuses (k : Fin 8) (h : Hello) (s : State) : Result.Fuses s.fuses (execHandshake k h s) := by simp [execHandshake]
@[simp] theorem State.resend_fuses (s : State) (k n : Nat) : (s.resend k n).fuses = s.fuses := by simp [State.resend]
@[simp] theorem execIdleFlitSend_fuses (k : Fin 8) (s : State) : Result.Fuses s.fuses (execIdleFlitSend k s) := by simp [execIdleFlitSend]
@[simp] theorem execLinkSilence_fuses (k : Fin 8) (s : State) : Result.Fuses s.fuses (execLinkSilence k s) := by simp [execLinkSilence]
@[simp] theorem execKeyRatchet_fuses (k : Fin 8) (sends : Bool) (s : State) : Result.Fuses s.fuses (execKeyRatchet k sends s) := by
  simp [execKeyRatchet]
@[simp] theorem execLinkRetry_fuses (k : Fin 8) (s : State) : Result.Fuses s.fuses (execLinkRetry k s) := by simp [execLinkRetry]
@[simp] theorem execWakeSend_fuses (k : Fin 8) (s : State) : Result.Fuses s.fuses (execWakeSend k s) := by simp [execWakeSend]
@[simp] theorem execFvlSoftReset_fuses (k : Fin 8) (s : State) : Result.Fuses s.fuses (execFvlSoftReset k s) := by simp [execFvlSoftReset]

/-! ## Domain -/

@[simp] theorem State.setTime_fuses (s : State) (gm locked : Bool) : (s.setTime gm locked).fuses = s.fuses := by simp [State.setTime]
@[simp] theorem execDelayExchange_fuses (k : Fin 8) (delay : BitVec 24) (members : List (Fin 4096 × Bool)) (parentTime : Option Nat) (depth : BitVec 8) (s : State) :
    Result.Fuses s.fuses (execDelayExchange k delay members parentTime depth s) := by
  unfold execDelayExchange
  dsimp only
  repeat' split
  all_goals simp

@[simp] theorem execPpsEdge_fuses (s : State) : Result.Fuses s.fuses (execPpsEdge s) := by simp [execPpsEdge]
@[simp] theorem execDtStale_fuses (s : State) : Result.Fuses s.fuses (execDtStale s) := by simp [execDtStale]
@[simp] theorem execEnrolmentCatchupDone_fuses (s : State) : Result.Fuses s.fuses (execEnrolmentCatchupDone s) := by simp [execEnrolmentCatchupDone]
@[simp] theorem State.applyReplica_fuses (s : State) (p h : Nat) (l : KeyLine) : (s.applyReplica p h l).fuses = s.fuses := by
  unfold State.applyReplica
  dsimp only
  split
  · simp
  · split <;> simp

@[simp] theorem State.replGap_fuses (s : State) (k : Nat) : (s.replGap k).fuses = s.fuses := by simp [State.replGap]
@[simp] theorem State.takeReplica_fuses (s : State) (p h : Nat) (l : KeyLine) : (s.takeReplica p h l).fuses = s.fuses := by simp [State.takeReplica]
@[simp] theorem execReplMessage_fuses (k : Fin 8) (origin : Fin 4096) (seq : Nat) (part : Fin 1024) (handle : Word) (line : KeyLine) (s : State) : Result.Fuses s.fuses (execReplMessage k origin seq part handle line s) := by
  simp [execReplMessage]
@[simp] theorem execScheduleReceive_fuses (part : Fin 1024) (seq epoch ts tov : Nat) (s : State) : Result.Fuses s.fuses (execScheduleReceive part seq epoch ts tov s) := by
  simp [execScheduleReceive]
@[simp] theorem execCancelReceive_fuses (part : Fin 1024) (seq : Nat) (s : State) : Result.Fuses s.fuses (execCancelReceive part seq s) := by
  simp [execCancelReceive]
@[simp] theorem execEpochBoundary_fuses (part : Fin 1024) (s : State) : Result.Fuses s.fuses (execEpochBoundary part s) := by simp [execEpochBoundary]
@[simp] theorem execForwardSend_fuses (input : List Byte) (s : State) : Result.Fuses s.fuses (execForwardSend input s) := by
  unfold execForwardSend
  split
  · split
    · simp
    next k c rest _ _ _ =>
      split
      · simp
      next sent u there =>
        have same : u.fuses = s.fuses := by
          split at there
          · exact State.windowInput_fuses there
          · cases there; rfl
        simp [same]
  · simp

@[simp] theorem execForwardRequest_fuses (k : Fin 8) (tag : Nat) (part : Fin 1024) (desc : List Byte) (s : State) :
    Result.Fuses s.fuses (execForwardRequest k tag part desc s) := by
  unfold execForwardRequest
  dsimp only
  repeat' split
  all_goals simp

@[simp] theorem State.forwardOutput_fuses (s : State) (c : Cmd) (output : List Byte) : (s.forwardOutput c output).1.fuses = s.fuses := by
  have kept : ∀ r : State × Bool, r.1.fuses = s.fuses → ((r.1, if r.2 then some 2 else none) : State × Option Nat).1.fuses = s.fuses := fun _ h => h
  unfold State.forwardOutput
  split
  · split
    · rfl
    · exact kept _ (State.dmaWrite_fuses ..)
  · split
    · exact (State.emit_fuses ..).trans (State.crossPort_fuses ..)
    · rfl

@[simp] theorem execForwardResponse_fuses (k : Fin 8) (tag : Nat) (answer : PeerEnd) (output : List Byte) (wrOk : Bool) (s : State) :
    Result.Fuses s.fuses (execForwardResponse k tag answer output wrOk s) := by
  unfold execForwardResponse
  dsimp only
  repeat' split
  all_goals simp

/-! ## Reset -/

@[simp] theorem State.eraseFlash_fuses (s : State) : (s.eraseFlash).fuses = s.fuses := (rfl)
@[simp] theorem State.startBoot_fuses (s : State) : s.startBoot.fuses = s.fuses := by
  obtain ⟨b, -, h⟩ := s.startBoot_spec
  exact (State.fuses_of_steady h).trans (by simp)

@[simp] theorem State.loseRoots_fuses (s : State) : (s.loseRoots).fuses = s.fuses := (rfl)
@[simp] theorem State.zeroWork_fuses (s : State) : (s.zeroWork).fuses = s.fuses := by simp [State.zeroWork]
@[simp] theorem State.placeMmk_fuses (s : State) (k : List Byte) : (s.placeMmk k).fuses = s.fuses := (rfl)
@[simp] theorem State.loseMmk_fuses (s : State) : (s.loseMmk).fuses = s.fuses := by simp [State.loseMmk]

/-! ## Agate -/

@[simp] theorem State.openWindow_fuses (s : State) : (s.openWindow).fuses = s.fuses := (rfl)
@[simp] theorem State.closeWindow_fuses (s : State) (short : Bool) : (s.closeWindow short).fuses = s.fuses := by
  unfold State.closeWindow
  extract_lets u rnum sev body v ag x ag' w y z
  have kept : w.fuses = s.fuses := by
    simp only [w]
    split <;> simp [x, v, u]
  have noted : z.fuses = s.fuses := by
    simp only [z, y]
    split <;> simp [kept]
  simpa using noted

@[simp] theorem execAgateWindowClose_fuses (s : State) : Result.Fuses s.fuses (execAgateWindowClose s) := by simp [execAgateWindowClose]
@[simp] theorem execWindowOverdue_fuses (s : State) : Result.Fuses s.fuses (execWindowOverdue s) := by simp [execWindowOverdue]
@[simp] theorem State.clearLive_fuses (s : State) : (s.clearLive).fuses = s.fuses := (rfl)
@[simp] theorem execHclr_fuses (s : State) : Result.Fuses s.fuses (execHclr s) := by simp [execHclr]

/-! ## Sleep -/

@[simp] theorem State.domainsOff_fuses (s : State) (ds : List Nat) : (s.domainsOff ds).fuses = s.fuses := by simp [State.domainsOff]
@[simp] theorem State.domainsOn_fuses (s : State) : (s.domainsOn).fuses = s.fuses := (rfl)
@[simp] theorem State.loseSleep_fuses (s : State) : (s.loseSleep).fuses = s.fuses := by simp [State.loseSleep]
@[simp] theorem State.enterS2_fuses (s : State) : (s.enterS2).fuses = s.fuses := (rfl)
@[simp] theorem State.enterS3_fuses (s : State) : (s.enterS3).fuses = s.fuses := by simp [State.enterS3]
@[simp] theorem execSleepEntry_fuses (s : State) : Result.Fuses s.fuses (execSleepEntry s) := by simp [execSleepEntry]
@[simp] theorem State.beginWake_fuses (s : State) (event link : Nat) : (s.beginWake event link).fuses = s.fuses := by simp [State.beginWake]
@[simp] theorem State.leaveSleep_fuses (s : State) : (s.leaveSleep).fuses = s.fuses := by unfold State.leaveSleep; split <;> simp
@[simp] theorem execWakeTlp_fuses (port : Fin 2) (s : State) : Result.Fuses s.fuses (execWakeTlp port s) := by unfold execWakeTlp; split <;> simp
@[simp] theorem execWakePattern_fuses (k : Fin 8) (s : State) : Result.Fuses s.fuses (execWakePattern k s) := by
  unfold execWakePattern; split <;> simp
@[simp] theorem execWakeSmbus_fuses (s : State) : Result.Fuses s.fuses (execWakeSmbus s) := by simp [execWakeSmbus]

/-! ## Obsidian -/

@[simp] theorem State.logAlarm_fuses (s : State) (i cls done cause : Nat) (pending : Bool) :
    (s.logAlarm i cls done cause pending).fuses = s.fuses := by unfold State.logAlarm; split <;> simp
@[simp] theorem State.latchT1_fuses (s : State) : (s.latchT1).fuses = s.fuses := by simp [State.latchT1]
@[simp] theorem State.zeroise_fuses (s : State) (cls : Nat) : (s.zeroise cls).fuses = s.fuses := by simp [State.zeroise]
@[simp] theorem State.alarmsVigil_fuses (s : State) (fired : List (Nat × Nat)) : (s.alarmsVigil fired).fuses = s.fuses := by simp [State.alarmsVigil]
@[simp] theorem State.sampleInput_fuses (s : State) (x : MonitorSample) : (s.sampleInput x).1.fuses = s.fuses := by simp [State.sampleInput]
@[simp] theorem State.sampleAll_fuses (s : State) (xs : List MonitorSample) : (s.sampleAll xs).1.fuses = s.fuses := by
  refine foldl_keeps (fun r : State × List (Nat × Nat) => r.1.fuses = s.fuses) _ (fun r x hr => ?_) xs (s, []) rfl
  split <;> simp [hr]

@[simp] theorem State.clearConds_fuses (s : State) (xs : List MonitorSample) : (s.clearConds xs).fuses = s.fuses := (rfl)
@[simp] theorem State.mirror_fuses (s : State) (was : List Nat) : (s.mirror was).fuses = s.fuses := by simp [State.mirror]
@[simp] theorem execShadowScan_fuses (mismatch : Bool) (s : State) : Result.Fuses s.fuses (execShadowScan mismatch s) := by simp [execShadowScan]
@[simp] theorem execObsAck_fuses (s : State) : Result.Fuses s.fuses (execObsAck s) := by simp [execObsAck]
@[simp] theorem State.obsidianLost_fuses (s : State) : (s.obsidianLost).fuses = s.fuses := by simp [State.obsidianLost]
@[simp] theorem State.backupNow_fuses (s : State) (held : Bool) : (s.backupNow held).fuses = s.fuses := by simp [State.backupNow]
@[simp] theorem execBackupSourceChange_fuses (aux vbat cell cellLow held : Bool) (s : State) : Result.Fuses s.fuses (execBackupSourceChange aux vbat cell cellLow held s) := by
  simp [execBackupSourceChange]
@[simp] theorem execMmkRemask_fuses (s : State) : Result.Fuses s.fuses (execMmkRemask s) := by simp [execMmkRemask]

/-! ## Lcs -/

@[simp] theorem State.workWipe_fuses (s : State) : (s.workWipe).fuses = s.fuses := by simp [State.workWipe]
@[simp] theorem State.lcWipe_fuses (s : State) (target : Nat) : (s.lcWipe target).fuses = s.fuses := by
  unfold State.lcWipe
  split <;> simp

@[simp] theorem State.startTransition_fuses (s : State) (target : Nat) : (s.startTransition target).fuses = s.fuses := by simp [State.startTransition]
@[simp] theorem State.lcResult_fuses (s : State) (code : Nat) : (s.lcResult code).fuses = s.fuses := by simp [State.lcResult]
@[simp] theorem execDbgNonceExpire_fuses (s : State) : Result.Fuses s.fuses (execDbgNonceExpire s) := by simp [execDbgNonceExpire]
@[simp] theorem execDebugOpen_fuses (s : State) : Result.Fuses s.fuses (execDebugOpen s) := by unfold execDebugOpen; split <;> simp

/-! ## Mpu -/

@[simp] theorem State.writeSram_fuses (s : State) (a : Nat) (bs : List Byte) : (s.writeSram a bs).fuses = s.fuses := (rfl)
@[simp] theorem State.mpuCutOver_fuses (s : State) (m : Nat) : (s.mpuCutOver m).fuses = s.fuses := (rfl)
@[simp] theorem execMpuCommitDrain_fuses (m : Fin 16) (s : State) : Result.Fuses s.fuses (execMpuCommitDrain m s) := by simp [execMpuCommitDrain]
@[simp] theorem execMpuDrainOvertime_fuses (m : Fin 16) (s : State) : Result.Fuses s.fuses (execMpuDrainOvertime m s) := by
  simp [execMpuDrainOvertime]

/-! ## Gate -/

@[simp] theorem State.stageReject_fuses (s : State) : (s.stageReject).fuses = s.fuses := by simp [State.stageReject]
@[simp] theorem State.voidSeal_fuses (s : State) : (s.voidSeal).fuses = s.fuses := by simp [State.voidSeal]
@[simp] theorem State.putChange_fuses (s : State) (c : Change) (cls scope : Nat) :
    (s.putChange c cls scope).fuses = s.fuses := by simp [State.putChange]
@[simp] theorem State.stage_fuses (s : State) (c : Change) : (s.stage c).1.fuses = s.fuses := by
  unfold State.stage
  repeat' split
  all_goals simp

@[simp] theorem execStagingWrite_fuses (fn : Func) (c : Change) (s : State) : Result.Fuses s.fuses (execStagingWrite fn c s) := by
  unfold execStagingWrite; split <;> simp
@[simp] theorem State.writeGuarded_fuses (s : State) (addr select v : Nat) :
    (s.writeGuarded addr select v).fuses = s.fuses := by simp [State.writeGuarded]
@[simp] theorem State.loadApplet_fuses (s : State) (bs : List Byte) : (s.loadApplet bs).fuses = s.fuses := by unfold State.loadApplet; split <;> simp
@[simp] theorem State.commitImage_fuses (s : State) (t : ImageTable) (i : Nat) (bs : List Byte) :
    (s.commitImage t i bs).fuses = s.fuses := by unfold State.commitImage; split <;> simp
@[simp] theorem State.reProvisioned_fuses (s : State) (fromPartner : Bool) :
    (s.reProvisioned fromPartner).fuses = s.fuses := by simp [State.reProvisioned]
@[simp] theorem State.compareShadow_fuses (s : State) : (s.compareShadow).fuses = s.fuses := by simp [State.compareShadow]
@[simp] theorem State.applyChange_fuses (s : State) (c : Change) : (s.applyChange c).fuses = s.fuses := by
  cases c <;> simp [State.applyChange]
@[simp] theorem State.applyChanges_fuses (s : State) (set : List Change) : (s.applyChanges set).fuses = s.fuses := by simp [State.applyChanges]
@[simp] theorem execGateSeal_fuses (s : State) : Result.Fuses s.fuses (execGateSeal s) := by simp [execGateSeal]
@[simp] theorem execGateAbandon_fuses (s : State) : Result.Fuses s.fuses (execGateAbandon s) := by simp [execGateAbandon]
@[simp] theorem execGateWindowExpire_fuses (s : State) : Result.Fuses s.fuses (execGateWindowExpire s) := by simp [execGateWindowExpire]
@[simp] theorem State.refuseApproval_fuses (s : State) (detail : Nat) : (s.refuseApproval detail).fuses = s.fuses := by simp [State.refuseApproval]
@[simp] theorem State.startApply_fuses (s : State) : s.startApply.fuses = s.fuses := by
  have frozen : ∀ (ps : List Nat) (u : State), (ps.foldl (fun s p =>
      match (s.part p).pstate with
      | .active => (s.freezePart p).updPart p fun x => { x with gateFroze := true }
      | .draining => s.freezePart p
      | .frozen | .off => s) u).fuses = u.fuses := fun ps u => State.fuses_foldl _ (fun v p => by split <;> simp) ps u
  unfold State.startApply
  dsimp only
  split
  · rw [State.enterMode_fuses]; exact (frozen _ _).trans (by simp)
  · exact (frozen _ _).trans (by simp)

@[simp] theorem State.countApproval_fuses (s : State) (msg : List Byte) :
    (s.countApproval msg).fuses = s.fuses := by unfold State.countApproval; split <;> simp
@[simp] theorem execApprovalVerified_fuses (index : Nat) (wrOk : Bool) (s : State) : Result.Fuses s.fuses (execApprovalVerified index wrOk s) := by
  unfold execApprovalVerified
  dsimp only
  repeat' split
  all_goals simp

@[simp] theorem State.stampOfficers_fuses (s : State) (seq p : Nat) : (s.stampOfficers seq p).fuses = s.fuses := (rfl)
@[simp] theorem State.modeAfterApply_fuses (s : State) : (s.modeAfterApply).fuses = s.fuses := by unfold State.modeAfterApply; split <;> simp
@[simp] theorem State.sendApply_fuses (s : State) (set : List Change) : (s.sendApply set).fuses = s.fuses := by
  unfold State.sendApply
  exact (State.fuses_foldl _ (fun u p => by simp) _ _).trans (by simp)

@[simp] theorem State.settlePair_fuses (s : State) (allowed : Bool) : (s.settlePair allowed).fuses = s.fuses := by
  unfold State.settlePair
  dsimp only
  split
  · simp
  · split <;> simp

@[simp] theorem execGateApply_fuses (s : State) : Result.Fuses s.fuses (execGateApply s) := by simp [execGateApply]
@[simp] theorem execGateComplete_fuses (s : State) : Result.Fuses s.fuses (execGateComplete s) := by
  unfold execGateComplete
  dsimp only
  repeat' split
  all_goals simp

/-! ## Quartz -/

@[simp] theorem State.settleUnits_fuses (s : State) : s.settleUnits.fuses = s.fuses := by
  refine State.fuses_foldl _ (fun u n => ?_) _ _
  split <;> simp

@[simp] theorem State.loseUnit_fuses (s : State) (f winner : Nat) (held : Option Nat) :
    (s.loseUnit f winner held).fuses = s.fuses := by simp [State.loseUnit]
@[simp] theorem execFeatureClaim_fuses (feature : Fin 16) (value : Word) (s : State) : Result.Fuses s.fuses (execFeatureClaim feature value s) := by
  unfold execFeatureClaim
  dsimp only
  repeat' split
  all_goals simp

@[simp] theorem execCompareFire_fuses (unit : Fin 16) (s : State) : Result.Fuses s.fuses (execCompareFire unit s) := by simp [execCompareFire]

/-! ## Cards -/

@[simp] theorem State.sendCard_fuses (s : State) (next : CardStep) (header data : List Byte) : (s.sendCard next header data).fuses = s.fuses := (rfl)
@[simp] theorem State.nextClass_fuses (s : State) : (s.nextClass).fuses = s.fuses := by simp [State.nextClass]
@[simp] theorem execAtrTimeout_fuses (port : Fin 2) (s : State) : Result.Fuses s.fuses (execAtrTimeout port s) := by simp [execAtrTimeout]
@[simp] theorem execCardClockStop_fuses (port : Fin 2) (s : State) : Result.Fuses s.fuses (execCardClockStop port s) := by simp [execCardClockStop]
@[simp] theorem State.setPresence_fuses (s : State) (port : Nat) (present : Bool) :
    (s.setPresence port present).fuses = s.fuses := by simp [State.setPresence]
@[simp] theorem execCardPresenceChange_fuses (port : Fin 2) (present : Bool) (s : State) : Result.Fuses s.fuses (execCardPresenceChange port present s) := by
  simp [execCardPresenceChange]
@[simp] theorem execApproveGo_fuses (s : State) : Result.Fuses s.fuses (execApproveGo s) := by simp [execApproveGo]
@[simp] theorem State.askSign_fuses (s : State) : (s.askSign).fuses = s.fuses := by simp [State.askSign]
@[simp] theorem State.cardInfo_fuses (s : State) (info : List Byte) : (s.cardInfo info).fuses = s.fuses := by simp [State.cardInfo]
@[simp] theorem State.judgeCard_fuses (s : State) (sig : List Byte) : (s.judgeCard sig).fuses = s.fuses := by unfold State.judgeCard; split <;> simp
@[simp] theorem execCardResponse_fuses (port : Fin 2) (answer : CardAnswer) (s : State) : Result.Fuses s.fuses (execCardResponse port answer s) := by
  unfold execCardResponse
  dsimp only
  repeat' split
  all_goals simp

@[simp] theorem execKeypadPinEntry_fuses (pin : List (Fin 10)) (s : State) : Result.Fuses s.fuses (execKeypadPinEntry pin s) := by
  simp [execKeypadPinEntry]
@[simp] theorem execApproveTimeout_fuses (s : State) : Result.Fuses s.fuses (execApproveTimeout s) := by simp [execApproveTimeout]
@[simp] theorem State.checkJournal_fuses (s : State) (block : List Byte) :
    (s.checkJournal block).fuses = s.fuses := by unfold State.checkJournal; split <;> simp
@[simp] theorem execSdInsert_fuses (m : Medium) (s : State) : Result.Fuses s.fuses (execSdInsert m s) := by simp [execSdInsert]
@[simp] theorem execSdRemove_fuses (s : State) : Result.Fuses s.fuses (execSdRemove s) := by simp [execSdRemove]
@[simp] theorem execSdBusyEnd_fuses (block : List Byte) (wrOk : Bool) (s : State) : Result.Fuses s.fuses (execSdBusyEnd block wrOk s) := by
  unfold execSdBusyEnd
  dsimp only
  repeat' split
  all_goals simp

@[simp] theorem execSdBusyTimeout_fuses (s : State) : Result.Fuses s.fuses (execSdBusyTimeout s) := by simp [execSdBusyTimeout]
@[simp] theorem State.losePin_fuses (s : State) (f winner : Nat) : (s.losePin f winner).fuses = s.fuses := by simp [State.losePin]
@[simp] theorem execPinClaim_fuses (feature : Fin 13) (value : Word) (s : State) : Result.Fuses s.fuses (execPinClaim feature value s) := by
  unfold execPinClaim
  dsimp only
  repeat' split
  all_goals simp

/-! ## Standby -/

@[simp] theorem State.loadRegs_fuses (s : State) (f : Flash) (fields : List Field) : (s.loadRegs f fields).fuses = s.fuses := by simp [State.loadRegs]
@[simp] theorem State.loadEntries_fuses (s : State) (f : Flash) : (s.loadEntries f).fuses = s.fuses := by simp [State.loadEntries]
@[simp] theorem State.loadImages_fuses (s : State) (f : Flash) : (s.loadImages f).fuses = s.fuses := by simp [State.loadImages]
@[simp] theorem State.takeDelta_fuses (s : State) (d : Delta) : (s.takeDelta d).fuses = s.fuses := by
  unfold State.takeDelta
  split <;> simp

@[simp] theorem execDeltaApply_fuses (dseq : Nat) (delta : Delta) (s : State) : Result.Fuses s.fuses (execDeltaApply dseq delta s) := by
  simp [execDeltaApply]

/-! ## Boot -/

@[simp] theorem State.bootStage_fuses (s : State) (n : Nat) : (s.bootStage n).fuses = s.fuses := by simp [State.bootStage]
@[simp] theorem State.chooseFirmware_fuses (s : State) : (s.chooseFirmware).fuses = s.fuses := by unfold State.chooseFirmware; split <;> simp
@[simp] theorem State.loadCommitted_fuses (s : State) : (s.loadCommitted).fuses = s.fuses := by simp [State.loadCommitted]
@[simp] theorem State.blockStarts_fuses (s : State) (b : Nat) : (s.blockStarts b).fuses = s.fuses := by unfold State.blockStarts; split <;> simp
@[simp] theorem execBlockReady_fuses (block : Fin 20) (s : State) : Result.Fuses s.fuses (execBlockReady block s) := by simp [execBlockReady]
@[simp] theorem State.firstRoots_fuses (s : State) : (s.firstRoots).fuses = s.fuses := by simp [State.firstRoots]
@[simp] theorem State.leaveBoot_fuses (s : State) : (s.leaveBoot).fuses = s.fuses := by simp [State.leaveBoot]
@[simp] theorem execBootEnd_fuses (s : State) : Result.Fuses s.fuses (execBootEnd s) := by
  unfold execBootEnd
  dsimp only
  repeat' split
  all_goals simp

@[simp] theorem execPerstRelease_fuses (s : State) : Result.Fuses s.fuses (execPerstRelease s) := by simp [execPerstRelease]
@[simp] theorem execWdogKick_fuses (s : State) : Result.Fuses s.fuses (execWdogKick s) := by simp [execWdogKick]
@[simp] theorem execSmbusReceiveByte_fuses (s : State) : Result.Fuses s.fuses (execSmbusReceiveByte s) := by simp [execSmbusReceiveByte]
@[simp] theorem execSmbusTransaction_fuses (s : State) : Result.Fuses s.fuses (execSmbusTransaction s) := by simp [execSmbusTransaction]
@[simp] theorem State.releaseHold_fuses (s : State) : (s.releaseHold).fuses = s.fuses := by simp [State.releaseHold]
@[simp] theorem execTapReset_fuses (s : State) : Result.Fuses s.fuses (execTapReset s) := by simp [execTapReset]

/-! ## Run -/

@[simp] theorem State.countProgram_fuses (s : State) (k : Nat) (work : Option (Nat × Nat)) : (s.countProgram k work).fuses = s.fuses := (rfl)
@[simp] theorem State.endProgram_fuses (s : State) (k : Nat) (d : Done) (ok : Bool) :
    (s.endProgram k d ok).fuses = s.fuses := by unfold State.endProgram; split <;> simp
@[simp] theorem State.endDone_fuses (s : State) (k status detail : Nat) (ok : Option Bool) :
    (s.endDone k status detail ok).fuses = s.fuses := by simp [State.endDone]
@[simp] theorem State.holdProgram_fuses (s : State) (k : Nat) (on : Wait) : (s.holdProgram k on).fuses = s.fuses := by simp [State.holdProgram]
@[simp] theorem State.keepRun_fuses (s t : State) (k : Nat) : (s.keepRun t k).fuses = s.fuses := (rfl)

/-! ## Admin -/

@[simp] theorem State.refuseDebug_fuses (s : State) (detail : Nat) : (s.refuseDebug detail).fuses = s.fuses := by simp [State.refuseDebug]
@[simp] theorem State.beginSleep_fuses (s : State) (s3 : Bool) : (s.beginSleep s3).fuses = s.fuses := by simp [State.beginSleep]
@[simp] theorem State.modeAfterEnrolment_fuses (s : State) :
    (s.modeAfterEnrolment).fuses = s.fuses := by unfold State.modeAfterEnrolment; split <;> simp
@[simp] theorem State.setDomainRoots_fuses (s : State) (root : State → Nat → Root × State) (kept : ∀ u p, (root u p).2.fuses = u.fuses) :
    (s.setDomainRoots root).fuses = s.fuses := by
  unfold State.setDomainRoots
  exact State.fuses_foldl _ (fun u p => by simp [kept]) _ _

@[simp] theorem State.enrol_fuses (s : State) (secret : List Byte) (id time : Nat) : (s.enrol secret id time).fuses = s.fuses := by simp [State.enrol]
@[simp] theorem State.dropScope1_fuses (s : State) : (s.dropScope1).fuses = s.fuses := (rfl)
@[simp] theorem State.reInitialise_fuses (s : State) : (s.reInitialise).fuses = s.fuses := (rfl)

/-! ## Hbm -/

@[simp] theorem execHbmInit_fuses (stack : Fin 2) (s : State) : Result.Fuses s.fuses (execHbmInit stack s) := by simp [execHbmInit]
@[simp] theorem execHbmKeyDraw_fuses (stack : Fin 2) (s : State) : Result.Fuses s.fuses (execHbmKeyDraw stack s) := by simp [execHbmKeyDraw]
@[simp] theorem State.zeroLines_fuses (s : State) (stack lo hi : Nat) : (s.zeroLines stack lo hi).fuses = s.fuses := (rfl)
@[simp] theorem execProtReady_fuses (stack : Fin 2) (s : State) : Result.Fuses s.fuses (execProtReady stack s) := by simp [execProtReady]
@[simp] theorem execWorkReady_fuses (stack : Fin 2) (s : State) : Result.Fuses s.fuses (execWorkReady stack s) := by simp [execWorkReady]
@[simp] theorem State.rowCandidate_fuses (s : State) (pc bank row : Nat) :
    (s.rowCandidate pc bank row).fuses = s.fuses := by simp [State.rowCandidate]
@[simp] theorem State.lastErr_fuses (s : State) (a type : Nat) : (s.lastErr a type).fuses = s.fuses := (rfl)
@[simp] theorem State.poisonLine_fuses (s : State) (l : Nat) : (s.poisonLine l).fuses = s.fuses := by simp [State.poisonLine]
@[simp] theorem State.correctedError_fuses (s : State) (a bank row : Nat) :
    (s.correctedError a bank row).fuses = s.fuses := by simp [State.correctedError]
@[simp] theorem State.uncorrectableError_fuses (s : State) (a bank row : Nat) :
    (s.uncorrectableError a bank row).fuses = s.fuses := by simp [State.uncorrectableError]
@[simp] theorem State.macFailure_fuses (s : State) (a : Nat) : (s.macFailure a).fuses = s.fuses := by simp [State.macFailure]
@[simp] theorem State.xtsMismatch_fuses (s : State) (a : Nat) : (s.xtsMismatch a).fuses = s.fuses := by simp [State.xtsMismatch]
@[simp] theorem State.checkLine_fuses (s : State) (a bank row : Nat) (found : LineCheck) (twins : Nat) :
    (s.checkLine a bank row found twins).1.fuses = s.fuses := by
  unfold State.checkLine
  dsimp only
  repeat' split
  all_goals simp

theorem State.integrityError_fuses {f : Nat × Nat} (h : s.fuses = f) (a : Nat) (use : HbmUse) : (s.integrityError a use).Fuses f := by
  unfold State.integrityError
  dsimp only
  repeat' split
  all_goals simp [h]

@[simp] theorem State.useCheck_fuses (s : State) (kind : AccessKind) (a : Nat) (use : HbmUse) : (s.useCheck kind a use).2.fuses = s.fuses := by
  unfold State.useCheck
  split <;> simp

@[simp] theorem execHbmWrite_fuses (a : Fin 0xBA0000000) (use : HbmUse) (data : List Byte) (twins : Nat) (s : State) :
    Result.Fuses s.fuses (execHbmWrite a use data twins s) := by
  unfold execHbmWrite
  dsimp only
  repeat' split
  all_goals simp [State.integrityError_fuses]

@[simp] theorem execScrubStep_fuses (stack : Fin 2) (bank row : Nat) (found : LineCheck) (twins : Nat) (s : State) : Result.Fuses s.fuses (execScrubStep stack bank row found twins s) := by
  simp [execScrubStep]
@[simp] theorem execHbmTempHigh_fuses (stack : Fin 2) (temp : BitVec 8) (s : State) : Result.Fuses s.fuses (execHbmTempHigh stack temp s) := by
  simp [execHbmTempHigh]
@[simp] theorem execPprGo_fuses (stack : Fin 2) (target : BitVec 28) (s : State) : Result.Fuses s.fuses (execPprGo stack target s) := by
  simp [execPprGo]
@[simp] theorem execMigrateOut_fuses (stack : Fin 2) (poisoned : Option Nat) (s : State) :
    Result.Fuses s.fuses (execMigrateOut stack poisoned s) := by
  unfold execMigrateOut
  dsimp only
  repeat' split
  all_goals simp

@[simp] theorem State.pprFail_fuses (s : State) (stack : Nat) : (s.pprFail stack).fuses = s.fuses := by simp [State.pprFail]
@[simp] theorem execPprProgram_fuses (stack : Fin 2) (ok : Bool) (s : State) : Result.Fuses s.fuses (execPprProgram stack ok s) := by
  simp [execPprProgram]
@[simp] theorem execPprVerify_fuses (stack : Fin 2) (ok : Bool) (s : State) : Result.Fuses s.fuses (execPprVerify stack ok s) := by
  simp [execPprVerify]
@[simp] theorem execMigrateBack_fuses (stack : Fin 2) (s : State) : Result.Fuses s.fuses (execMigrateBack stack s) := by
  unfold execMigrateBack; split <;> simp

/-! ## Arb -/

@[simp] theorem State.replenish_fuses (s : State) (u : Nat) (p : Placement) : (s.replenish u p).fuses = s.fuses := (rfl)
@[simp] theorem State.replenishFor_fuses (s : State) (u : Nat) (p : Placement) (fuel : Nat) : (s.replenishFor u p fuel).fuses = s.fuses := by
  induction fuel generalizing s with
  | zero => rfl
  | succ fuel ih =>
    unfold State.replenishFor
    split
    · rfl
    · rw [ih]; simp

@[simp] theorem execArbGrant_fuses (unit : Nat) (requests : List Nat) (beats : Nat) (s : State) :
    Result.Fuses s.fuses (execArbGrant unit requests beats s) := by
  unfold execArbGrant
  dsimp only
  repeat' split
  all_goals simp

@[simp] theorem State.closeWindows_fuses (s : State) : (s.closeWindows).fuses = s.fuses := by simp [State.closeWindows]
@[simp] theorem execArbWindowBoundary_fuses (unit : Nat) (s : State) : Result.Fuses s.fuses (execArbWindowBoundary unit s) := by
  unfold execArbWindowBoundary; split <;> simp
@[simp] theorem execArbTransferEnd_fuses (unit : Nat) (s : State) : Result.Fuses s.fuses (execArbTransferEnd unit s) := by
  unfold execArbTransferEnd; split <;> simp
@[simp] theorem State.freezeArbs_fuses (s : State) (reg value : Nat) : (s.freezeArbs reg value).fuses = s.fuses := by simp [State.freezeArbs]
@[simp] theorem execArbFreeze_fuses (reg : Fin 3) (value : Word) (s : State) : Result.Fuses s.fuses (execArbFreeze reg value s) := by
  simp [execArbFreeze]
@[simp] theorem execStarve_fuses (unit requester : Nat) (s : State) : Result.Fuses s.fuses (execStarve unit requester s) := by
  unfold execStarve
  dsimp only
  repeat' split
  all_goals simp

/-! ## HbmLines -/

@[simp] theorem State.macLookup_fuses (s : State) (a victim : Nat) : (s.macLookup a victim).fuses = s.fuses := by simp [State.macLookup]
@[simp] theorem State.answered_fuses (s : State) (bs : Option (List Byte)) : (s.answered bs).fuses = s.fuses := (rfl)
@[simp] theorem execHbmReadComplete_fuses (a : Fin 0xBA0000000) (use : HbmUse) (bank row : Nat) (found : LineCheck) (twins victim : Nat) (s : State) :
    Result.Fuses s.fuses (execHbmReadComplete a use bank row found twins victim s) := by
  unfold execHbmReadComplete
  dsimp only
  repeat' split
  all_goals simp [State.integrityError_fuses]

/-! ## Regs -/

@[simp] theorem State.writeField_fuses (s : State) (locked : Bool) (f : Field) (v : Nat) :
    (s.writeField locked f v).fuses = s.fuses := by unfold State.writeField; split <;> simp
@[simp] theorem State.writeIntEn_fuses (s : State) (p v : Nat) : (s.writeIntEn p v).fuses = s.fuses := by simp [State.writeIntEn]
@[simp] theorem State.writeIntRaw_fuses (s : State) (p v : Nat) : (s.writeIntRaw p v).fuses = s.fuses := by simp [State.writeIntRaw]
@[simp] theorem State.writeEnable_fuses (s : State) (p v : Nat) : (s.writeEnable p v).fuses = s.fuses := by simp [State.writeEnable]
@[simp] theorem State.writeFreeze_fuses (s : State) (p v : Nat) : (s.writeFreeze p v).fuses = s.fuses := by simp [State.writeFreeze]
@[simp] theorem State.writeCommon_fuses (s : State) (p off v : Nat) :
    (s.writeCommon p off v).fuses = s.fuses := by unfold State.writeCommon; split <;> simp
@[simp] theorem State.writeQp_fuses (s : State) (p q i v : Nat) : (s.writeQp p q i v).fuses = s.fuses := by simp [State.writeQp]
@[simp] theorem State.writeMsix_fuses (s : State) (f : Func) (word v : Nat) : (s.writeMsix f word v).fuses = s.fuses := by simp [State.writeMsix]
@[simp] theorem State.writeBlock_fuses (s : State) (addr v : Nat) : (s.writeBlock addr v).fuses = s.fuses := by
  unfold State.writeBlock
  dsimp only
  repeat' split
  all_goals simp

@[simp] theorem State.writePf_fuses (s : State) (addr v : Nat) : (s.writePf addr v).fuses = s.fuses := by simp [State.writePf]
@[simp] theorem State.writeVf_fuses (s : State) (f : Func) (p addr v : Nat) : (s.writeVf f p addr v).fuses = s.fuses := by simp [State.writeVf]
@[simp] theorem State.releasePending_fuses (s : State) (f : Func) : (s.releasePending f).fuses = s.fuses := by simp [State.releasePending]
@[simp] theorem State.writeConfig_fuses (s : State) (f : Func) (r : ConfigReg) (v : Nat) :
    (s.writeConfig f r v).fuses = s.fuses := by unfold State.writeConfig; split <;> simp
@[simp] theorem execRegisterWrite_fuses (fn : Func) (space : RegSpace) (word : Fin 0x1000000) (value : Word) (s : State) :
    Result.Fuses s.fuses (execRegisterWrite fn space word value s) := by
  unfold execRegisterWrite
  repeat' split
  all_goals simp

@[simp] theorem execIntForce_fuses (fn : Func) (page : Fin 0x4000) (value : Word) (s : State) : Result.Fuses s.fuses (execIntForce fn page value s) := by
  unfold execIntForce; split <;> simp
@[simp] theorem execLatchingRead_fuses (fn : Func) (r : LatchReg) (s : State) : Result.Fuses s.fuses (execLatchingRead fn r s) := by
  unfold execLatchingRead
  dsimp only
  repeat' split
  all_goals simp

/-! ## BusAccess -/

@[simp] theorem State.busWrite_fuses (s : State) (m a : Nat) (bs : List Byte) : (s.busWrite m a bs).fuses = s.fuses := by simp [State.busWrite]
@[simp] theorem execMpuAccess_fuses (m : Fin 16) (kind : AccessKind) (addr : Fin 0x10000000000) (len : Nat) (tag : Fin 1024) (data : List Byte) (s : State) :
    Result.Fuses s.fuses (execMpuAccess m kind addr len tag data s) := by
  unfold execMpuAccess
  dsimp only
  repeat' split
  all_goals simp

/-! ## DmaErrors -/

@[simp] theorem State.inputFails_fuses (s : State) (c : Cmd) (rest : List Cmd) (e : ReadError) :
    (s.inputFails c rest e).fuses = s.fuses := by simp [State.inputFails]
@[simp] theorem execDataDmaError_fuses (victim : DmaVictim) (s : State) : Result.Fuses s.fuses (execDataDmaError victim s) := by
  unfold execDataDmaError
  dsimp only
  repeat' split
  all_goals simp

/-! ## PeerMessages -/

@[simp] theorem State.sendCatchup_fuses (s : State) (k : Nat) (parts : List Nat) :
    (s.sendCatchup k parts).fuses = s.fuses := by simp [State.sendCatchup]
@[simp] theorem State.clearJoin_fuses (s : State) : (s.clearJoin).fuses = s.fuses := (rfl)
@[simp] theorem State.admitJoiner_fuses (s : State) (k : Nat) (parts : List Nat) :
    (s.admitJoiner k parts).fuses = s.fuses := by simp [State.admitJoiner]
@[simp] theorem State.resendMissing_fuses (s : State) (k : Nat) (origins : List (Fin 4096 × Nat)) (schedules : List (Fin 1024 × Nat)) :
    (s.resendMissing k origins schedules).fuses = s.fuses := by simp [State.resendMissing]
@[simp] theorem State.abortForwarded_fuses (s : State) (k tag : Nat) : (s.abortForwarded k tag).fuses = s.fuses := by simp [State.abortForwarded]
@[simp] theorem State.hear_fuses (s : State) (k : Nat) (m : PeerMessage) : (s.hear k m).fuses = s.fuses := by
  cases m <;> simp [State.hear]
@[simp] theorem execFlitReceive_fuses (k : Fin 8) (f : Flit) (s : State) : Result.Fuses s.fuses (execFlitReceive k f s) := by
  unfold execFlitReceive
  dsimp only
  repeat' split
  all_goals simp

/-! ## Relock -/

@[simp] theorem State.arrive_fuses (s : State) (c : Instr) : (s.arrive c).fuses = s.fuses := by
  refine Result.state_fuses ?_
  split <;> simp

@[simp] theorem State.arrivals_fuses (s : State) : (s.arrivals).fuses = s.fuses := by simp [State.arrivals]
@[simp] theorem execRelockDone_fuses (s : State) : Result.Fuses s.fuses (execRelockDone s) := by
  unfold execRelockDone
  split
  · simp
  · repeat' split
    all_goals simp

/-! ## Tick -/

@[simp] theorem State.tick_fuses (s : State) : (s.tick).fuses = s.fuses := (rfl)

/-! ## Step -/

@[simp] theorem State.withFetchWord_fuses (s : State) (nbits w : Nat) : (s.withFetchWord nbits w).fuses = s.fuses := (rfl)

end Sys2Proof.Machine
end

section
/-! SUPPORT. What the shipped programs leave of the blown fuses (R307): the parts they are made of, and each program. -/
namespace Sys2Proof.Machine

/-- No blown fuse of `f` is whole in `g`. -/
def FusesKept (f g : Nat × Nat) : Prop := ∀ b, (bitOf f.1 b = true → bitOf g.1 b = true) ∧ (bitOf f.2 b = true → bitOf g.2 b = true)

theorem FusesKept.refl (f : Nat × Nat) : FusesKept f f := fun _ => ⟨id, id⟩

theorem FusesKept.of_eq {f g : Nat × Nat} (h : g = f) : FusesKept f g := h ▸ .refl g

theorem FusesKept.trans {f g h : Nat × Nat} (k : FusesKept f g) (l : FusesKept g h) : FusesKept f h :=
  fun b => ⟨(l b).1 ∘ (k b).1, (l b).2 ∘ (k b).2⟩

/-- What a command leaves, if it goes on, holds at least these fuses. -/
def Result.FusesKept (f : Nat × Nat) (r : Result) : Prop := ∀ t, r = .next t → Machine.FusesKept f t.fuses

theorem Result.Fuses.kept {f : Nat × Nat} {r : Result} (h : r.Fuses f) : r.FusesKept f := fun t ht => .of_eq (h t ht)

theorem Result.fusesKept_next {f : Nat × Nat} {t : State} (h : Machine.FusesKept f t.fuses) : Result.FusesKept f (.next t) :=
  fun _ same => Host.Outcome.next.inj same ▸ h

/-- A program part that leaves the fuses it finds: they are `f` after it wherever they are `f` before it, however it ends. -/
def Run.Fuses {α : Type} (f : Nat × Nat) (m : Run α) : Prop := ∀ s, s.fuses = f → (m.run s).2.fuses = f

namespace Run.Fuses

variable {α β : Type} {f : Nat × Nat} {s : State}

theorem bind {m : Run α} {g : α → Run β} (hm : Run.Fuses f m) (hg : ∀ a, Run.Fuses f (g a)) : Run.Fuses f (m >>= g) := by
  intro s h
  have first := hm s h
  change ((ExceptT.bindCont g (m.run s).1) (m.run s).2).2.fuses = f
  cases (m.run s).1 with
  | ok a => exact hg a _ first
  | error e => exact first

/-- What a program reads of the state, it reads with the fuses as they are. -/
theorem get {g : State → Run β} (hg : ∀ u, u.fuses = f → Run.Fuses f (g u)) : Run.Fuses f (MonadState.get >>= g) :=
  fun s h => hg s h s h

@[simp] theorem pure (a : α) : Run.Fuses f (pure a : Run α) := fun _ h => h
@[simp] theorem throw (e : Stop) : Run.Fuses f (throw e : Run α) := fun _ h => h
@[simp] theorem stop (st det : Nat) : Run.Fuses f (Machine.stop st det : Run α) := fun _ h => h
@[simp] theorem malformed (det : Nat) : Run.Fuses f (Machine.malformed det : Run α) := fun _ h => h
@[simp] theorem hold : Run.Fuses f (Machine.hold : Run α) := fun _ h => h
/-- Some state holds these fuses, so that a part which sets the state must set them. -/
@[simp] theorem set_iff {u : State} : Run.Fuses f (MonadStateOf.set u : Run PUnit) ↔ u.fuses = f :=
  ⟨fun h => h { State.reset with lc := { word := f.1, burned := f.2 } } rfl, fun h _ _ => h⟩

@[simp] theorem act {g : State → State} (h : ∀ u, (g u).fuses = u.fuses) : Run.Fuses f (Machine.act g) := fun s hs => (h s).trans hs

@[simp] theorem need (p : Bool) (det : Nat) : Run.Fuses f (Machine.need p det) := by
  cases p
  · exact malformed det
  · exact pure _

@[simp] theorem mustMatch (p : Bool) : Run.Fuses f (Machine.mustMatch p) := by
  cases p
  · exact throw _
  · exact pure _

@[simp] theorem ite {c : Prop} [Decidable c] (m n : Run α) :
    Run.Fuses f (if c then m else n) ↔ if c then Run.Fuses f m else Run.Fuses f n := by
  split <;> rfl

@[simp] theorem throw_bind (e : Stop) (g : α → Run β) : Run.Fuses f ((MonadExcept.throw e : Run α) >>= g) := fun _ h => h
@[simp] theorem stop_bind (st det : Nat) (g : α → Run β) : Run.Fuses f (Machine.stop st det >>= g) := fun _ h => h
@[simp] theorem malformed_bind (det : Nat) (g : α → Run β) : Run.Fuses f (Machine.malformed det >>= g) := fun _ h => h
@[simp] theorem hold_bind (g : α → Run β) : Run.Fuses f (Machine.hold >>= g) := fun _ h => h

/-- Both branches. -/
theorem of_ite {c : Prop} [Decidable c] {m n : Run α} (hm : Run.Fuses f m) (hn : Run.Fuses f n) : Run.Fuses f (if c then m else n) := by
  split
  · exact hm
  · exact hn

theorem map {m : Run α} (g : α → β) (h : Run.Fuses f m) : Run.Fuses f (g <$> m) := bind h fun _ => pure _

end Run.Fuses

/-- What a program lets follow the end of its command blows fuses at most. -/
def Run.Follows (m : Run Next) : Prop := ∀ s d g, (m.run s).1 = .ok (.follows d g) → ∀ u : State, FusesKept u.fuses (g u).fuses

namespace Run.Follows

variable {α : Type}

theorem bind {m : Run α} {g : α → Run Next} (h : ∀ a, Run.Follows (g a)) : Run.Follows (m >>= g) := by
  intro s d k done
  change ((ExceptT.bindCont g (m.run s).1) (m.run s).2).1 = _ at done
  cases first : (m.run s).1 with
  | ok a => rw [first] at done; exact h a _ d k done
  | error e => rw [first] at done; cases (show Except.error e = Except.ok _ from done)

theorem of_ite {c : Prop} [Decidable c] {m n : Run Next} (hm : Run.Follows m) (hn : Run.Follows n) : Run.Follows (if c then m else n) := by
  split
  · exact hm
  · exact hn

theorem ends (d : Done) : Run.Follows (pure (.ends d)) := fun _ _ _ done => Next.noConfusion (Except.ok.inj done)
theorem waits (w : Wait) : Run.Follows (pure (.waits w)) := fun _ _ _ done => Next.noConfusion (Except.ok.inj done)

theorem follows (d : Done) {g : State → State} (h : ∀ u, FusesKept u.fuses (g u).fuses) : Run.Follows (pure (.follows d g)) := by
  intro s d' g' done
  cases Except.ok.inj done
  exact h

theorem throw (e : Stop) : Run.Follows (MonadExcept.throw e) := fun _ _ _ done => by
  cases (show Except.error e = Except.ok _ from done)

theorem stop (st det : Nat) : Run.Follows (Machine.stop st det) := throw _
theorem malformed (det : Nat) : Run.Follows (Machine.malformed det) := throw _
theorem hold : Run.Follows Machine.hold := throw _

end Run.Follows

variable {fs : Nat × Nat} {s : State}

/-! ## Reset -/

theorem bitOf_putBit_true {w i b : Nat} (h : bitOf w b = true) : bitOf (putBit w i true) b = true := by
  rw [bitOf_testBit] at h ⊢
  rw [testBit_putBit]
  split <;> simp [h]

/-- Programming fuses leaves blown ones as they are. -/
theorem blow_kept {w b : Nat} (bits : List Nat) (h : bitOf w b = true) : bitOf (blow w bits) b = true :=
  foldl_keeps (fun v => bitOf v b = true) (fun w b => putBit w b true) (fun _ _ => bitOf_putBit_true) bits w h

theorem State.fusedWord_kept {b : Nat} (h : bitOf s.lc.word b = true) : bitOf s.fusedWord b = true := by
  unfold State.fusedWord
  split
  · exact blow_kept _ h
  · exact h

theorem State.moduleReset_kept (s : State) (cause : Nat) : FusesKept s.fuses (s.moduleReset cause).fuses :=
  fun _ => ⟨State.fusedWord_kept, id⟩

theorem State.resetModule_kept (s : State) (cause : Nat) : FusesKept s.fuses (s.resetModule cause).fuses := by
  rw [State.resetModule, State.startBoot_fuses]
  exact s.moduleReset_kept cause

/-! ## Run -/

@[simp] theorem Prog.room_fuses (e : Prog) (n : Nat) : Run.Fuses fs (e.room n) := by simp [Prog.room]
@[simp] theorem Prog.at'_fuses (e : Prog) (i : Nat) : Run.Fuses fs (Prog.at' e i) := by simp [Prog.at']
@[simp] theorem Prog.fetch_fuses (e : Prog) (field cls mask slot : Nat) : Run.Fuses fs (e.fetch field cls mask slot) := by
  unfold Prog.fetch
  refine .bind (by simp) fun _ => .get fun u hu => ?_
  have filled : ∀ fld n p ks v, (u.count fld).fillChain n p ks = some v → v.fuses = fs :=
    fun _ _ _ _ _ h => (State.fillChain_fuses h).trans (by simp [hu])
  dsimp only
  generalize (match e.heldKey field slot with
    | some y => Except.ok (({ key := y.key } : KeyRecord), y.stamp)
    | none => u.judgeFetch e.x.part (e.x.desc.keyField field) cls mask) = judged
  repeat' with_reducible first | refine .bind ?_ fun _ => ?_ | split
  all_goals simp [hu]
  all_goals exact filled _ _ _ _ _ ‹_›

@[simp] theorem Prog.random_fuses (e : Prog) (n : Nat) : Run.Fuses fs (e.random n) := by
  unfold Prog.random
  repeat' with_reducible first | refine .get fun _ _ => ?_ | refine .bind ?_ fun _ => ?_ | split
  all_goals simp [*]

@[simp] theorem Prog.collected_fuses (e : Prog) (n : Nat) : Run.Fuses fs (e.collected n) := by
  unfold Prog.collected
  repeat' with_reducible first | refine .get fun _ _ => ?_ | refine .bind ?_ fun _ => ?_ | split
  all_goals simp [*]

@[simp] theorem Prog.place_fuses (e : Prog) (slot : Nat) (y : KeySlot) : Run.Fuses fs (e.place slot y) := by
  unfold Prog.place
  refine .get fun u hu => ?_
  have room : ∀ p m keep fuel v, (u.updCtx e.k fun x => x.setSlot slot none).makeRoom e.cluster p m keep fuel = some v → v.fuses = fs :=
    fun _ _ _ _ _ h => (State.makeRoom_fuses h).trans (by simp [hu])
  dsimp only
  repeat' with_reducible first | refine .bind ?_ fun _ => ?_ | split
  all_goals simp
  all_goals exact room _ _ _ _ _ ‹_›

@[simp] theorem Prog.useUnit_fuses (e : Prog) (u : Nat) : Run.Fuses fs (e.useUnit u) := by
  unfold Prog.useUnit
  dsimp only
  repeat' with_reducible first | refine .get fun _ _ => ?_ | refine .bind ?_ fun _ => ?_ | split
  all_goals simp [*]

@[simp] theorem Prog.lanes_fuses (e : Prog) (key : Masked) (b : Nat) (f : Path → List Byte → List Byte) : Run.Fuses fs (e.lanes key b f) := by
  unfold Prog.lanes
  repeat' with_reducible first | refine .get fun _ _ => ?_ | refine .bind ?_ fun _ => ?_ | split
  all_goals simp [*]

@[simp] theorem Prog.wires_fuses (e : Prog) (y : KeySlot) : Run.Fuses fs (e.wires y) := by
  unfold Prog.wires
  repeat' with_reducible first | refine .get fun _ _ => ?_ | refine .bind ?_ fun _ => ?_ | split
  all_goals simp [*]

@[simp] theorem Prog.crypt_fuses (e : Prog) (y : KeySlot) (decrypt : Bool) (b : List Byte) : Run.Fuses fs (e.crypt y decrypt b) := by
  unfold Prog.crypt
  repeat' with_reducible first | refine .get fun _ _ => ?_ | refine .bind ?_ fun _ => ?_ | split
  all_goals simp [*]

@[simp] theorem Prog.hash_fuses (e : Prog) (h : HashWord) (key : Masked) (m : List Byte) : Run.Fuses fs (e.hash h key m) := by
  unfold Prog.hash
  repeat' with_reducible first | refine .get fun _ _ => ?_ | refine .bind ?_ fun _ => ?_ | split
  all_goals simp [*]

@[simp] theorem Prog.derive_fuses (e : Prog) (i : Nat) (y : KeySlot) (slot : Nat) (a b : List Byte) : Run.Fuses fs (e.derive i y slot a b) := by
  unfold Prog.derive
  dsimp only
  repeat' with_reducible first | refine .get fun _ _ => ?_ | refine .bind ?_ fun _ => ?_ | split
  all_goals simp [*]

@[simp] theorem Prog.format_fuses (e : Prog) (i op count pinLen : Nat) (a b inp : List Byte) : Run.Fuses fs (e.format i op count pinLen a b inp) := by
  unfold Prog.format
  repeat' with_reducible first | refine .get fun _ _ => ?_ | refine .bind ?_ fun _ => ?_ | split
  all_goals simp [*]

@[simp] theorem Prog.reply_fuses (e : Prog) (bs : List Byte) (status : Nat) : Run.Fuses fs (e.reply bs status) := by
  unfold Prog.reply
  repeat' with_reducible first | refine .get fun _ _ => ?_ | refine .bind ?_ fun _ => ?_ | split
  all_goals simp [*]

@[simp] theorem Prog.result_fuses (e : Prog) (bs : List Byte) : Run.Fuses fs (e.result bs) := by
  unfold Prog.result
  repeat' with_reducible first | refine .get fun _ _ => ?_ | refine .bind ?_ fun _ => ?_ | split
  all_goals simp [*]

@[simp] theorem Prog.geode_fuses  : Run.Fuses fs (Prog.geode) := by
  unfold Prog.geode
  repeat' with_reducible first | refine .get fun _ _ => ?_ | refine .bind ?_ fun _ => ?_ | split
  all_goals simp [*]

@[simp] theorem Prog.geodeFill_fuses (e : Prog) (field : Nat) : Run.Fuses fs (e.geodeFill field) := by
  unfold Prog.geodeFill
  refine .get fun u hu => ?_
  have filled : ∀ n p ks v, u.fillChain n p ks = some v → v.fuses = fs := fun _ _ _ _ h => (State.fillChain_fuses h).trans hu
  dsimp only
  repeat' with_reducible first | refine .bind ?_ fun _ => ?_ | split
  all_goals simp [hu]
  all_goals exact filled _ _ _ _ ‹_›

@[simp] theorem Prog.writeRecord_fuses (e : Prog) (h : Nat) (y : KeySlot) (parent : Option KeySlot) (direct5 : Bool) :
    Run.Fuses fs (e.writeRecord h y parent direct5) := by
  unfold Prog.writeRecord
  refine .bind (by simp) fun _ => .bind (by simp) fun _ => .get fun u hu => ?_
  split
  · simp
  next placed => exact .bind (Run.Fuses.set_iff.mpr (by simpa [hu] using State.placeRecord_fuses placed)) fun _ => .pure _

@[simp] theorem Prog.pkPlace_fuses (o : PkOp) (except : List Nat) : Run.Fuses fs (Prog.pkPlace o except) := by
  unfold Prog.pkPlace
  repeat' with_reducible first | refine .get fun _ _ => ?_ | refine .bind ?_ fun _ => ?_ | split
  all_goals simp [*]

@[simp] theorem Prog.pkAnswered_fuses (e : Prog) (i p u : Nat) (o : PkOp) : Run.Fuses fs (e.pkAnswered i p u o) := by
  unfold Prog.pkAnswered
  repeat' with_reducible first | refine .get fun _ _ => ?_ | refine .bind ?_ fun _ => ?_ | split
  all_goals simp [*]

@[simp] theorem Prog.pkx_fuses (e : Prog) (v : PkWord) (key : Option KeySlot) (src : List Byte) : Run.Fuses fs (e.pkx v key src) := by
  unfold Prog.pkx
  refine .get fun u hu => ?_
  extract_lets stored entry crv wires o ran short malformed4 malformed3
  have runs : ∀ r, Run.Fuses fs (ran r) := fun _ => by
    refine .bind (by simp) fun p => ?_
    dsimp only
    split
    · exact .bind (by simp) fun _ => by simp
    · exact .bind (by simp) fun _ => by simp
  have three : ∀ r, Run.Fuses fs (short r) := fun _ => by simp [short, runs]
  have four : ∀ r, Run.Fuses fs (malformed4 r) := fun _ => by simp [malformed4, three]
  have five : ∀ r, Run.Fuses fs (malformed3 r) := fun _ => by simp [malformed3, four]
  split
  · simp [five]
  · exact five ()

theorem State.settleRun_kept (c : Ctx) (run : ProgramRun) {r : Except Stop Next × State} (kept : r.2.fuses = s.fuses)
    (after : ∀ d g, r.1 = .ok (.follows d g) → ∀ u : State, FusesKept u.fuses (g u).fuses) : (s.settleRun c run r).FusesKept s.fuses := by
  obtain ⟨e, t⟩ := r
  change t.fuses = s.fuses at kept
  unfold State.settleRun
  dsimp only at after ⊢
  split
  · exact Result.fusesKept_next (.of_eq (by simp [kept]))
  next d g =>
    refine Result.fusesKept_next ?_
    split
    · exact .of_eq (by simp [kept])
    · exact .trans (.of_eq (by simp [kept])) (after d g rfl _)
  · exact Result.fusesKept_next (.of_eq (by simp [kept]))
  · exact Result.fusesKept_next (.of_eq (by simp [kept]))
  · exact Result.fusesKept_next (.of_eq (by simp [kept]))
  · exact Result.fusesKept_next (.of_eq (by simp))
  · exact Result.fusesKept_next (.of_eq (by simp))
  · exact Result.Fuses.kept (by simp)
  · exact Result.fusesKept_next (.of_eq (by simp [kept]))
  · exact Result.fusesKept_next (.of_eq (by simp [kept]))

/-- A program's command keeps the fuses where its body does, and what follows the command's end. -/
theorem State.programThen_kept (c : Ctx) (slot : Nat) (run : ProgramRun) {body : Prog → Run Next} (kept : ∀ e, Run.Fuses s.fuses (body e))
    (after : ∀ e, Run.Follows (body e)) : (s.programThen c slot run body).FusesKept s.fuses := by
  unfold State.programThen
  dsimp only
  split
  · exact Result.fusesKept_next (.refl _)
  · split
    · exact Result.fusesKept_next (.of_eq (by simp))
    · exact State.settleRun_kept c run (kept _ s rfl) (after _ s)

theorem State.program_kept (c : Ctx) (slot : Nat) (run : ProgramRun) {body : Prog → Run Done} (kept : ∀ e, Run.Fuses s.fuses (body e)) :
    (s.program c slot run body).FusesKept s.fuses :=
  State.programThen_kept c slot run (fun e => .bind (kept e) fun _ => .pure _) fun _ => .bind fun _ => .ends _

/-! ## Payments -/

@[simp] theorem Prog.pan_fuses (e : Prog) (off : Nat) : Run.Fuses fs (e.pan off) := by
  unfold Prog.pan
  dsimp only
  repeat' with_reducible first | refine .get fun _ _ => ?_ | refine .bind ?_ fun _ => ?_ | split
  all_goals simp [*]

@[simp] theorem Prog.decimal_fuses (e : Prog) (off n bytes : Nat) : Run.Fuses fs (e.decimal off n bytes) := by
  unfold Prog.decimal
  repeat' with_reducible first | refine .get fun _ _ => ?_ | refine .bind ?_ fun _ => ?_ | split
  all_goals simp [*]

@[simp] theorem Prog.atLeast_fuses (e : Prog) (n : Nat) : Run.Fuses fs (e.atLeast n) := by simp [Prog.atLeast]
@[simp] theorem Prog.entry_fuses (e : Prog) (i : Nat) : Run.Fuses fs (e.entry i) := by
  unfold Prog.entry
  repeat' with_reducible first | refine .get fun _ _ => ?_ | refine .bind ?_ fun _ => ?_ | split
  all_goals simp [*]

@[simp] theorem Prog.pinBlock_fuses (e : Prog) (f : FmtEntry) (off : Nat) : Run.Fuses fs (e.pinBlock f off) := by
  unfold Prog.pinBlock
  repeat' with_reducible first | refine .get fun _ _ => ?_ | refine .bind ?_ fun _ => ?_ | split
  all_goals simp [*]

@[simp] theorem Prog.cipherKey_fuses (e : Prog) (field cls mask slot : Nat) : Run.Fuses fs (e.cipherKey field cls mask slot) := by
  unfold Prog.cipherKey
  repeat' with_reducible first | refine .get fun _ _ => ?_ | refine .bind ?_ fun _ => ?_ | split
  all_goals simp [*]

@[simp] theorem Prog.twoKey_fuses (e : Prog) (field mask slot : Nat) : Run.Fuses fs (e.twoKey field mask slot) := by
  unfold Prog.twoKey
  repeat' with_reducible first | refine .get fun _ _ => ?_ | refine .bind ?_ fun _ => ?_ | split
  all_goals simp [*]

@[simp] theorem Prog.openPin_fuses (e : Prog) (i : Nat) (y : KeySlot) (block : List Byte) (panOff : Nat) :
    Run.Fuses fs (e.openPin i y block panOff) := by
  unfold Prog.openPin
  repeat' with_reducible first | refine .get fun _ _ => ?_ | refine .bind ?_ fun _ => ?_ | split
  all_goals simp [*]

@[simp] theorem Prog.sealPin_fuses (e : Prog) (i : Nat) (y : KeySlot) (pin : List Byte × Nat) (panOff : Nat) :
    Run.Fuses fs (e.sealPin i y pin panOff) := by
  unfold Prog.sealPin
  repeat' with_reducible first | refine .get fun _ _ => ?_ | refine .bind ?_ fun _ => ?_ | split
  all_goals simp [*]

@[simp] theorem Prog.translationChecks_fuses (e : Prog) (i j panOff len mask : Nat) (extra : FmtEntry → Bool) :
    Run.Fuses fs (e.translationChecks i j panOff len mask extra) := by
  unfold Prog.translationChecks
  repeat' with_reducible first | refine .get fun _ _ => ?_ | refine .bind ?_ fun _ => ?_ | split
  all_goals simp [*]

@[simp] theorem Prog.digitsOf_fuses (e : Prog) (i : Nat) (b : List Byte) : Run.Fuses fs (e.digitsOf i b) := by
  unfold Prog.digitsOf
  repeat' with_reducible first | refine .get fun _ _ => ?_ | refine .bind ?_ fun _ => ?_ | split
  all_goals simp [*]

theorem execCheckValue_kept (c : Ctx) (run : ProgramRun) (s : State) :
    (execCheckValue c run s).FusesKept s.fuses := State.program_kept _ _ _ fun e => by
  repeat' with_reducible first | refine .get fun _ _ => ?_ | refine .bind ?_ fun _ => ?_ | split
  all_goals simp [*]

theorem execPinTranslateF0F4_kept (c : Ctx) (run : ProgramRun) (s : State) :
    (execPinTranslateF0F4 c run s).FusesKept s.fuses := State.program_kept _ _ _ fun e => by
  repeat' with_reducible first | refine .get fun _ _ => ?_ | refine .bind ?_ fun _ => ?_ | split
  all_goals simp [*]

theorem execPinTranslate_kept (c : Ctx) (run : ProgramRun) (s : State) :
    (execPinTranslate c run s).FusesKept s.fuses := State.program_kept _ _ _ fun e => by
  repeat' with_reducible first | refine .get fun _ _ => ?_ | refine .bind ?_ fun _ => ?_ | split
  all_goals simp [*]

@[simp] theorem Prog.verifyChecks_fuses (e : Prog) (len : Nat) (usesPan extra : Bool) (outLen : Nat) :
    Run.Fuses fs (e.verifyChecks len usesPan extra outLen) := by
  unfold Prog.verifyChecks
  repeat' with_reducible first | refine .get fun _ _ => ?_ | refine .bind ?_ fun _ => ?_ | split
  all_goals simp [*]

@[simp] theorem Prog.pvv_fuses (e : Prog) (y : KeySlot) (pan : List Nat) (index : Nat) (pin : List Nat) : Run.Fuses fs (e.pvv y pan index pin) := by
  unfold Prog.pvv
  repeat' with_reducible first | refine .get fun _ _ => ?_ | refine .bind ?_ fun _ => ?_ | split
  all_goals simp [*]

theorem execPinVerifyOffset_kept (c : Ctx) (run : ProgramRun) (s : State) :
    (execPinVerifyOffset c run s).FusesKept s.fuses := State.program_kept _ _ _ fun e => by
  repeat' with_reducible first | refine .get fun _ _ => ?_ | refine .bind ?_ fun _ => ?_ | split
  all_goals simp [*]

theorem execPinVerifyPvv_kept (c : Ctx) (run : ProgramRun) (s : State) :
    (execPinVerifyPvv c run s).FusesKept s.fuses := State.program_kept _ _ _ fun e => by
  repeat' with_reducible first | refine .get fun _ _ => ?_ | refine .bind ?_ fun _ => ?_ | split
  all_goals simp [*]

theorem execPvvGenerate_kept (c : Ctx) (run : ProgramRun) (s : State) :
    (execPvvGenerate c run s).FusesKept s.fuses := State.program_kept _ _ _ fun e => by
  repeat' with_reducible first | refine .get fun _ _ => ?_ | refine .bind ?_ fun _ => ?_ | split
  all_goals simp [*]

@[simp] theorem Prog.cvv_fuses (e : Prog) (verify : Bool) : Run.Fuses fs (e.cvv verify) := by
  unfold Prog.cvv
  repeat' with_reducible first | refine .get fun _ _ => ?_ | refine .bind ?_ fun _ => ?_ | split
  all_goals simp [*]

theorem execCvvVerify_kept (c : Ctx) (run : ProgramRun) (s : State) :
    (execCvvVerify c run s).FusesKept s.fuses := State.program_kept _ _ _ fun e => by
  repeat' with_reducible first | refine .get fun _ _ => ?_ | refine .bind ?_ fun _ => ?_ | split
  all_goals simp [*]

theorem execCvvGenerate_kept (c : Ctx) (run : ProgramRun) (s : State) :
    (execCvvGenerate c run s).FusesKept s.fuses := State.program_kept _ _ _ fun e => by
  repeat' with_reducible first | refine .get fun _ _ => ?_ | refine .bind ?_ fun _ => ?_ | split
  all_goals simp [*]

@[simp] theorem Prog.cmacOf_fuses (e : Prog) (y : KeySlot) (m : List Byte) : Run.Fuses fs (e.cmacOf y m) := by
  unfold Prog.cmacOf
  repeat' with_reducible first | refine .get fun _ _ => ?_ | refine .bind ?_ fun _ => ?_ | split
  all_goals simp [*]

@[simp] theorem Prog.retailOf_fuses (e : Prog) (y : KeySlot) (method : Nat) (m : List Byte) : Run.Fuses fs (e.retailOf y method m) := by
  unfold Prog.retailOf
  repeat' with_reducible first | refine .get fun _ _ => ?_ | refine .bind ?_ fun _ => ?_ | split
  all_goals simp [*]

@[simp] theorem Prog.macOf_fuses (e : Prog) (y : KeySlot) (method : Nat) (m : List Byte) : Run.Fuses fs (e.macOf y method m) := by simp [Prog.macOf]
@[simp] theorem Prog.macChecks_fuses (e : Prog) (top mask : Nat) (gen : Bool) : Run.Fuses fs (e.macChecks top mask gen) := by
  unfold Prog.macChecks
  repeat' with_reducible first | refine .get fun _ _ => ?_ | refine .bind ?_ fun _ => ?_ | split
  all_goals simp [*]

@[simp] theorem Prog.macEnd_fuses (e : Prog) (gen : Bool) (n : Nat) (mac want : List Byte) : Run.Fuses fs (e.macEnd gen n mac want) := by
  unfold Prog.macEnd
  repeat' with_reducible first | refine .get fun _ _ => ?_ | refine .bind ?_ fun _ => ?_ | split
  all_goals simp [*]

@[simp] theorem Prog.cmacProgram_fuses (e : Prog) (gen : Bool) : Run.Fuses fs (e.cmacProgram gen) := by
  unfold Prog.cmacProgram
  repeat' with_reducible first | refine .get fun _ _ => ?_ | refine .bind ?_ fun _ => ?_ | split
  all_goals simp [*]

@[simp] theorem Prog.hmacProgram_fuses (e : Prog) (gen : Bool) : Run.Fuses fs (e.hmacProgram gen) := by
  unfold Prog.hmacProgram
  repeat' with_reducible first | refine .get fun _ _ => ?_ | refine .bind ?_ fun _ => ?_ | split
  all_goals simp [*]

@[simp] theorem Prog.retailProgram_fuses (e : Prog) (gen : Bool) : Run.Fuses fs (e.retailProgram gen) := by
  unfold Prog.retailProgram
  repeat' with_reducible first | refine .get fun _ _ => ?_ | refine .bind ?_ fun _ => ?_ | split
  all_goals simp [*]

theorem execCmacGenerate_kept (c : Ctx) (run : ProgramRun) (s : State) :
    (execCmacGenerate c run s).FusesKept s.fuses := State.program_kept _ _ _ fun e => by simp
theorem execCmacVerify_kept (c : Ctx) (run : ProgramRun) (s : State) :
    (execCmacVerify c run s).FusesKept s.fuses := State.program_kept _ _ _ fun e => by simp
theorem execHmacGenerate_kept (c : Ctx) (run : ProgramRun) (s : State) :
    (execHmacGenerate c run s).FusesKept s.fuses := State.program_kept _ _ _ fun e => by simp
theorem execHmacVerify_kept (c : Ctx) (run : ProgramRun) (s : State) :
    (execHmacVerify c run s).FusesKept s.fuses := State.program_kept _ _ _ fun e => by simp
theorem execRetailMacGenerate_kept (c : Ctx) (run : ProgramRun) (s : State) :
    (execRetailMacGenerate c run s).FusesKept s.fuses := State.program_kept _ _ _ fun e => by simp
theorem execRetailMacVerify_kept (c : Ctx) (run : ProgramRun) (s : State) :
    (execRetailMacVerify c run s).FusesKept s.fuses := State.program_kept _ _ _ fun e => by simp
@[simp] theorem Prog.sessionKey_fuses (e : Prog) (cls : Nat) : Run.Fuses fs (e.sessionKey cls) := by
  unfold Prog.sessionKey
  repeat' with_reducible first | refine .get fun _ _ => ?_ | refine .bind ?_ fun _ => ?_ | split
  all_goals simp [*]

@[simp] theorem Prog.arqc_fuses (e : Prog) (sk : KeySlot) (off n : Nat) : Run.Fuses fs (e.arqc sk off n) := by
  unfold Prog.arqc
  repeat' with_reducible first | refine .get fun _ _ => ?_ | refine .bind ?_ fun _ => ?_ | split
  all_goals simp [*]

@[simp] theorem Prog.arpc1_fuses (e : Prog) (sk : KeySlot) : Run.Fuses fs (e.arpc1 sk) := by
  unfold Prog.arpc1
  repeat' with_reducible first | refine .get fun _ _ => ?_ | refine .bind ?_ fun _ => ?_ | split
  all_goals simp [*]

theorem execArqcVerify_kept (c : Ctx) (run : ProgramRun) (s : State) :
    (execArqcVerify c run s).FusesKept s.fuses := State.program_kept _ _ _ fun e => by
  repeat' with_reducible first | refine .get fun _ _ => ?_ | refine .bind ?_ fun _ => ?_ | split
  all_goals simp [*]

theorem execArqcVerifyArpc1Tdes_kept (c : Ctx) (run : ProgramRun) (s : State) :
    (execArqcVerifyArpc1Tdes c run s).FusesKept s.fuses := State.program_kept _ _ _ fun e => by
  repeat' with_reducible first | refine .get fun _ _ => ?_ | refine .bind ?_ fun _ => ?_ | split
  all_goals simp [*]

theorem execArqcVerifyArpc1Aes_kept (c : Ctx) (run : ProgramRun) (s : State) :
    (execArqcVerifyArpc1Aes c run s).FusesKept s.fuses := State.program_kept _ _ _ fun e => by
  repeat' with_reducible first | refine .get fun _ _ => ?_ | refine .bind ?_ fun _ => ?_ | split
  all_goals simp [*]

theorem execArqcVerifyArpc2_kept (c : Ctx) (run : ProgramRun) (s : State) :
    (execArqcVerifyArpc2 c run s).FusesKept s.fuses := State.program_kept _ _ _ fun e => by
  repeat' with_reducible first | refine .get fun _ _ => ?_ | refine .bind ?_ fun _ => ?_ | split
  all_goals simp [*]

@[simp] theorem Prog.initialKey_fuses (e : Prog) (y : KeySlot) (q : Ksn) (wide : Bool) :
    Run.Fuses fs (e.initialKey y q wide) := by simp [Prog.initialKey]
@[simp] theorem Prog.transactionKey_fuses (e : Prog) (q : Ksn) (wide : Bool) (is : List Nat) (v : Nat) (y : KeySlot) :
    Run.Fuses fs (e.transactionKey q wide is v y) := by
  induction is generalizing v y with
  | nil => exact .pure y
  | cons i is ih => exact .bind (by simp) fun z => ih _ z

@[simp] theorem Prog.workingKey_fuses (e : Prog) (q : Ksn) (wide : Bool) (entry : Nat) : Run.Fuses fs (e.workingKey q wide entry) := by
  unfold Prog.workingKey
  repeat' with_reducible first | refine .get fun _ _ => ?_ | refine .bind ?_ fun _ => ?_ | split
  all_goals simp [*]

@[simp] theorem Prog.dukptChecks_fuses (e : Prog) (used : Bool → Nat) : Run.Fuses fs (e.dukptChecks used) := by
  unfold Prog.dukptChecks
  repeat' with_reducible first | refine .get fun _ _ => ?_ | refine .bind ?_ fun _ => ?_ | split
  all_goals simp [*]

theorem execPinTranslateFromDukpt_kept (c : Ctx) (run : ProgramRun) (s : State) :
    (execPinTranslateFromDukpt c run s).FusesKept s.fuses := State.program_kept _ _ _ fun e => by
  repeat' with_reducible first | refine .get fun _ _ => ?_ | refine .bind ?_ fun _ => ?_ | split
  all_goals simp [*]

theorem execDukptDataDecrypt_kept (c : Ctx) (run : ProgramRun) (s : State) :
    (execDukptDataDecrypt c run s).FusesKept s.fuses := State.program_kept _ _ _ fun e => by
  repeat' with_reducible first | refine .get fun _ _ => ?_ | refine .bind ?_ fun _ => ?_ | split
  all_goals simp [*]

theorem execDukptMacVerify_kept (c : Ctx) (run : ProgramRun) (s : State) :
    (execDukptMacVerify c run s).FusesKept s.fuses := State.program_kept _ _ _ fun e => by
  repeat' with_reducible first | refine .get fun _ _ => ?_ | refine .bind ?_ fun _ => ?_ | split
  all_goals simp [*]

@[simp] theorem Prog.ff1_fuses (e : Prog) (forward : Bool) : Run.Fuses fs (e.ff1 forward) := by
  unfold Prog.ff1
  repeat' with_reducible first | refine .get fun _ _ => ?_ | refine .bind ?_ fun _ => ?_ | split
  all_goals simp [*]

theorem execFf1Tokenise_kept (c : Ctx) (run : ProgramRun) (s : State) :
    (execFf1Tokenise c run s).FusesKept s.fuses := State.program_kept _ _ _ fun e => by simp
theorem execFf1Detokenise_kept (c : Ctx) (run : ProgramRun) (s : State) :
    (execFf1Detokenise c run s).FusesKept s.fuses := State.program_kept _ _ _ fun e => by simp

/-! ## KeyPrograms -/

@[simp] theorem Prog.generated_fuses (e : Prog) (cls usage sel attr mlen : Nat) : Run.Fuses fs (e.generated cls usage sel attr mlen) := by
  unfold Prog.generated
  repeat' with_reducible first | refine .get fun _ _ => ?_ | refine .bind ?_ fun _ => ?_ | split
  all_goals simp [*]

theorem execGenerateKey_kept (c : Ctx) (run : ProgramRun) (s : State) :
    (execGenerateKey c run s).FusesKept s.fuses := State.program_kept _ _ _ fun e => by
  repeat' with_reducible first | refine .get fun _ _ => ?_ | refine .bind ?_ fun _ => ?_ | split
  all_goals simp [*]

theorem execDestroyKey_kept (c : Ctx) (run : ProgramRun) (s : State) : (execDestroyKey c run s).FusesKept s.fuses := by
  refine State.programThen_kept c _ run (fun e => ?_) fun e => .bind fun _ => .bind fun _ => .bind fun u => ?_
  · repeat' with_reducible first | refine .get fun _ _ => ?_ | refine .bind ?_ fun _ => ?_ | split
    all_goals simp
  · split
    · exact .stop _ _
    · exact .bind fun _ => .bind fun _ => .waits _

@[simp] theorem Prog.loadAll_fuses (e : Prog) (rs : List (Nat × List Byte)) : Run.Fuses fs (e.loadAll rs) := by
  induction rs with
  | nil => exact .pure _
  | cons r rs ih =>
    refine .get fun u hu => ?_
    split
    · simp
    next loaded => exact .bind (Run.Fuses.set_iff.mpr (by simpa [hu] using State.loadRecord_fuses loaded)) fun _ => .bind ih fun _ => .pure _

theorem execLoadRecords_kept (c : Ctx) (run : ProgramRun) (s : State) :
    (execLoadRecords c run s).FusesKept s.fuses := State.program_kept _ _ _ fun e => by
  repeat' with_reducible first | refine .get fun _ _ => ?_ | refine .bind ?_ fun _ => ?_ | split
  all_goals simp [*]

theorem execReadRecord_kept (c : Ctx) (run : ProgramRun) (s : State) :
    (execReadRecord c run s).FusesKept s.fuses := State.program_kept _ _ _ fun e => by
  repeat' with_reducible first | refine .get fun _ _ => ?_ | refine .bind ?_ fun _ => ?_ | split
  all_goals simp [*]

theorem execAttestKey_kept (c : Ctx) (run : ProgramRun) (s : State) :
    (execAttestKey c run s).FusesKept s.fuses := State.program_kept _ _ _ fun e => by
  repeat' with_reducible first | refine .get fun _ _ => ?_ | refine .bind ?_ fun _ => ?_ | split
  all_goals simp [*]

theorem State.rollPhase_kept (c : Ctx) (run : ProgramRun) (phase : Nat) {body : Prog → Run Done} (kept : ∀ e, Run.Fuses s.fuses (body e)) :
    (s.rollPhase c run phase body).FusesKept s.fuses := by
  refine State.program_kept c _ run fun e => ?_
  dsimp only
  split
  · simp
  · exact .bind (by simp) fun _ => .bind (by simp) fun _ => kept e

theorem execTableRollBegin_kept (c : Ctx) (run : ProgramRun) (s : State) :
    (execTableRollBegin c run s).FusesKept s.fuses := State.rollPhase_kept _ _ _ fun e => by
  repeat' with_reducible first | refine .get fun _ _ => ?_ | refine .bind ?_ fun _ => ?_ | split
  all_goals simp [*]

theorem execTableRollRewrap_kept (c : Ctx) (run : ProgramRun) (s : State) :
    (execTableRollRewrap c run s).FusesKept s.fuses := State.rollPhase_kept _ _ _ fun e => by
  repeat' with_reducible first | refine .get fun _ _ => ?_ | refine .bind ?_ fun _ => ?_ | split
  all_goals simp [*]

@[simp] theorem Prog.rolled_fuses (e : Prog) (t : Nat) (prev : Bool) : Run.Fuses fs (e.rolled t prev) := by
  unfold Prog.rolled
  repeat' with_reducible first | refine .get fun _ _ => ?_ | refine .bind ?_ fun _ => ?_ | split
  all_goals simp [*]

theorem execTableRollFinish_kept (c : Ctx) (run : ProgramRun) (s : State) :
    (execTableRollFinish c run s).FusesKept s.fuses := State.rollPhase_kept _ _ _ fun e => by
  repeat' with_reducible first | refine .get fun _ _ => ?_ | refine .bind ?_ fun _ => ?_ | split
  all_goals simp [*]

theorem execTableRollConfirm_kept (c : Ctx) (run : ProgramRun) (s : State) :
    (execTableRollConfirm c run s).FusesKept s.fuses := State.rollPhase_kept _ _ _ fun e => by
  repeat' with_reducible first | refine .get fun _ _ => ?_ | refine .bind ?_ fun _ => ?_ | split
  all_goals simp [*]

theorem execReadReplicationLog_kept (c : Ctx) (run : ProgramRun) (s : State) :
    (execReadReplicationLog c run s).FusesKept s.fuses := State.program_kept _ _ _ fun e => by
  repeat' with_reducible first | refine .get fun _ _ => ?_ | refine .bind ?_ fun _ => ?_ | split
  all_goals simp [*]

/-! ## Admin -/

@[simp] theorem Prog.stage_fuses (x0 : Prog) (c : Change) : Run.Fuses fs (Prog.stage x0 c) := by
  unfold Prog.stage
  repeat' with_reducible first | refine .get fun _ _ => ?_ | refine .bind ?_ fun _ => ?_ | split
  all_goals simp [*]

@[simp] theorem Prog.stageObject_fuses (e : Prog) (bits first : Nat) (fits : List Byte → Bool) (table : ImageTable) (check : List Byte → Option Nat) :
    Run.Fuses fs (e.stageObject bits first fits table check) := by
  unfold Prog.stageObject
  repeat' with_reducible first | refine .get fun _ _ => ?_ | refine .bind ?_ fun _ => ?_ | split
  all_goals simp [*]

theorem execStageProgramImage_kept (c : Ctx) (run : ProgramRun) (s : State) :
    (execStageProgramImage c run s).FusesKept s.fuses := State.program_kept _ _ _ fun e => by simp
theorem execStageFormatEntry_kept (c : Ctx) (run : ProgramRun) (s : State) :
    (execStageFormatEntry c run s).FusesKept s.fuses := State.program_kept _ _ _ fun e => by simp
theorem execStageDerivationEntry_kept (c : Ctx) (run : ProgramRun) (s : State) :
    (execStageDerivationEntry c run s).FusesKept s.fuses := State.program_kept _ _ _ fun e => by simp
@[simp] theorem Prog.checkCurve_fuses (e : Prog) (bs : List Byte) : Run.Fuses fs (e.checkCurve bs) := by
  unfold Prog.checkCurve
  repeat' with_reducible first | refine .get fun _ _ => ?_ | refine .bind ?_ fun _ => ?_ | split
  all_goals simp [*]

theorem execStageCurveEntry_kept (c : Ctx) (run : ProgramRun) (s : State) :
    (execStageCurveEntry c run s).FusesKept s.fuses := State.program_kept _ _ _ fun e => by
  dsimp only
  repeat' with_reducible first | refine .get fun _ _ => ?_ | refine .bind ?_ fun _ => ?_ | split
  all_goals simp [*]

theorem execStageServiceApplet_kept (c : Ctx) (run : ProgramRun) (s : State) :
    (execStageServiceApplet c run s).FusesKept s.fuses := State.program_kept _ _ _ fun e => by
  repeat' with_reducible first | refine .get fun _ _ => ?_ | refine .bind ?_ fun _ => ?_ | split
  all_goals simp [*]

theorem execApproveChange_kept (c : Ctx) (run : ProgramRun) (s : State) : (execApproveChange c run s).FusesKept s.fuses := by
  refine State.programThen_kept c _ run (fun e => ?_) fun e => .bind fun _ => .bind fun u => ?_
  · dsimp only
    repeat' with_reducible first | refine .get fun _ _ => ?_ | refine .bind ?_ fun _ => ?_ | split
    all_goals simp
  · dsimp only
    split
    · refine .bind fun _ => ?_
      split
      · exact .bind fun _ => .bind fun _ => .waits _
      · exact .bind fun _ => .waits _
    · split
      · exact .bind fun _ => .bind fun _ => .waits _
      · exact .bind fun _ => .waits _

theorem execReadChangeRecord_kept (c : Ctx) (run : ProgramRun) (s : State) :
    (execReadChangeRecord c run s).FusesKept s.fuses := State.program_kept _ _ _ fun e => by
  repeat' with_reducible first | refine .get fun _ _ => ?_ | refine .bind ?_ fun _ => ?_ | split
  all_goals simp [*]

theorem execStageLifeCycleCommand_kept (c : Ctx) (run : ProgramRun) (s : State) :
    (execStageLifeCycleCommand c run s).FusesKept s.fuses := State.program_kept _ _ _ fun e => by
  dsimp only
  repeat' with_reducible first | refine .get fun _ _ => ?_ | refine .bind ?_ fun _ => ?_ | split
  all_goals simp [*]

@[simp] theorem Prog.fielded_fuses (x0 : Prog) : Run.Fuses fs (Prog.fielded x0) := by
  unfold Prog.fielded
  repeat' with_reducible first | refine .get fun _ _ => ?_ | refine .bind ?_ fun _ => ?_ | split
  all_goals simp [*]

theorem execDebugChallenge_kept (c : Ctx) (run : ProgramRun) (s : State) :
    (execDebugChallenge c run s).FusesKept s.fuses := State.program_kept _ _ _ fun e => by
  repeat' with_reducible first | refine .get fun _ _ => ?_ | refine .bind ?_ fun _ => ?_ | split
  all_goals simp [*]

@[simp] theorem debugCheck_fuses (p : Bool) (detail : Nat) : Run.Fuses fs (debugCheck p detail) := by
  unfold debugCheck
  repeat' with_reducible first | refine .get fun _ _ => ?_ | refine .bind ?_ fun _ => ?_ | split
  all_goals simp [*]

theorem execDebugResponse_kept (c : Ctx) (run : ProgramRun) (s : State) : (execDebugResponse c run s).FusesKept s.fuses := by
  refine State.programThen_kept c _ run (fun e => ?_) fun e => ?_
  · dsimp only
    repeat' with_reducible first | refine .get fun _ _ => ?_ | refine .bind ?_ fun _ => ?_ | split
    all_goals simp
  · refine .bind fun _ => .bind fun _ => .bind fun u => .bind fun _ => .bind fun _ => .bind fun _ => .bind fun _ => ?_
    have opens : ∀ grant, Run.Follows (pure (.follows { status := 0x84 } fun s => { s with lc.opening := some grant }.raiseInput 18)) :=
      fun grant => .follows _ fun u => .of_eq (by simp)
    dsimp only
    split
    · exact .bind fun _ => .bind fun _ => .bind fun _ => .bind fun _ => opens _
    · exact .bind fun _ => .bind fun _ => opens _

theorem State.sleepProgram_kept (c : Ctx) (run : ProgramRun) (s3 : Bool) : (s.sleepProgram c run s3).FusesKept s.fuses := by
  refine State.programThen_kept c _ run (fun e => ?_) fun e => ?_
  · dsimp only
    repeat' with_reducible first | refine .get fun _ _ => ?_ | refine .bind ?_ fun _ => ?_ | split
    all_goals simp
  · dsimp only
    refine .bind fun _ => ?_
    split
    · exact .bind fun _ => .bind fun _ => .bind fun _ => .bind fun _ => .bind fun _ => .follows _ fun u => .of_eq (by simp)
    · exact .bind fun _ => .bind fun _ => .bind fun _ => .bind fun _ => .follows _ fun u => .of_eq (by simp)

theorem execEnterSleepS2_kept (c : Ctx) (run : ProgramRun) (s : State) :
    (execEnterSleepS2 c run s).FusesKept s.fuses := State.sleepProgram_kept c run false
theorem execEnterSleepS3_kept (c : Ctx) (run : ProgramRun) (s : State) :
    (execEnterSleepS3 c run s).FusesKept s.fuses := State.sleepProgram_kept c run true
theorem State.domainProgram_kept (c : Ctx) (run : ProgramRun) (op : Nat) {body : Prog → Run Unit} (kept : ∀ e, Run.Fuses s.fuses (body e)) :
    (s.domainProgram c run op body).FusesKept s.fuses := by
  refine State.program_kept c _ run fun e => .bind (by simp) fun _ => ?_
  dsimp only
  split
  · simp
  · exact .bind (kept e) fun _ => .bind (by simp) fun _ => .pure _

theorem execDomainCreate_kept (c : Ctx) (run : ProgramRun) (s : State) :
    (execDomainCreate c run s).FusesKept s.fuses := State.domainProgram_kept _ _ _ fun e => by
  repeat' with_reducible first | refine .get fun _ _ => ?_ | refine .bind ?_ fun _ => ?_ | split
  all_goals simp [*]

theorem execDomainJoin_kept (c : Ctx) (run : ProgramRun) (sponsor : Option Sponsorship) (s : State) :
    (execDomainJoin c run sponsor s).FusesKept s.fuses := State.domainProgram_kept _ _ _ fun e => by
  repeat' with_reducible first | refine .get fun _ _ => ?_ | refine .bind ?_ fun _ => ?_ | split
  all_goals simp [*]

theorem execDomainLeave_kept (c : Ctx) (run : ProgramRun) (s : State) :
    (execDomainLeave c run s).FusesKept s.fuses := State.domainProgram_kept _ _ _ fun e => by
  repeat' with_reducible first | refine .get fun _ _ => ?_ | refine .bind ?_ fun _ => ?_ | split
  all_goals simp [*]

theorem State.epochProgram_kept (c : Ctx) (run : ProgramRun) (cancels : Bool) {body : Nat → Prog → Run Done}
    (kept : ∀ p e, Run.Fuses s.fuses (body p e)) : (s.epochProgram c run cancels body).FusesKept s.fuses := by
  refine State.program_kept c _ run fun e => .bind (by simp) fun _ => ?_
  dsimp only
  split
  · simp
  · exact .bind (by simp) fun _ => kept _ e

theorem execScheduleEpoch_kept (c : Ctx) (run : ProgramRun) (s : State) :
    (execScheduleEpoch c run s).FusesKept s.fuses := State.epochProgram_kept _ _ _ fun p e => by
  repeat' with_reducible first | refine .get fun _ _ => ?_ | refine .bind ?_ fun _ => ?_ | split
  all_goals simp [*]

theorem execCancelEpoch_kept (c : Ctx) (run : ProgramRun) (late : Bool) (s : State) : (execCancelEpoch c run late s).FusesKept s.fuses := by
  refine State.epochProgram_kept c run true fun p e => .get fun u hu => ?_
  dsimp only
  split
  · simp
  · exact .bind (by simp) fun _ => .bind (by simp) fun _ => .pure _

theorem execReProvision_kept (c : Ctx) (run : ProgramRun) (s : State) :
    (execReProvision c run s).FusesKept s.fuses := State.program_kept _ _ _ fun e => by
  repeat' with_reducible first | refine .get fun _ _ => ?_ | refine .bind ?_ fun _ => ?_ | split
  all_goals simp [*]

@[simp] theorem brokenTransfer_fuses  : Run.Fuses fs (brokenTransfer) := by
  unfold brokenTransfer
  repeat' with_reducible first | refine .get fun _ _ => ?_ | refine .bind ?_ fun _ => ?_ | split
  all_goals simp [*]

theorem execRestoreFirmwareChunk_kept (c : Ctx) (run : ProgramRun) (s : State) : (execRestoreFirmwareChunk c run s).FusesKept s.fuses := by
  have resets : ∀ d, Run.Follows (pure (.follows d fun s => s.resetModule 5)) := fun d => .follows d fun u => u.resetModule_kept 5
  refine State.programThen_kept c _ run (fun e => .get fun u hu => ?_) fun e => .bind fun u => ?_
  · dsimp only
    repeat' with_reducible first | refine .get fun _ _ => ?_ | refine .bind ?_ fun _ => ?_ | refine .of_ite ?_ ?_
    all_goals simp
  · dsimp only
    repeat' with_reducible first | exact .ends _ | exact resets _ | exact .stop _ _ | refine .bind fun _ => ?_ | refine .of_ite ?_ ?_

theorem State.journalProgram_kept (c : Ctx) (run : ProgramRun) (op : Nat) {body : Prog → Run Next} (kept : ∀ e, Run.Fuses s.fuses (body e))
    (after : ∀ e, Run.Follows (body e)) : (s.journalProgram c run op body).FusesKept s.fuses := by
  refine State.programThen_kept c _ run (fun e => .bind (by simp) fun _ => ?_) fun e => .bind fun _ => ?_
  · dsimp only
    split
    · simp
    · exact .get fun _ _ => .bind (by simp) fun _ => kept e
  · dsimp only
    split
    · exact .bind fun _ => .bind fun _ => .bind fun _ => after e
    · exact .bind fun _ => .bind fun _ => after e

theorem execJournalAppend_kept (c : Ctx) (run : ProgramRun) (s : State) :
    (execJournalAppend c run s).FusesKept s.fuses := State.journalProgram_kept c run 0
  (fun e => .bind (by simp) fun _ => .bind (by simp) fun _ => .pure _) fun e => .bind fun _ => .bind fun _ => .waits _

theorem execJournalRead_kept (c : Ctx) (run : ProgramRun) (block : List Byte) (s : State) :
    (execJournalRead c run block s).FusesKept s.fuses := State.journalProgram_kept c run 1
  (fun e => .bind (by simp) fun _ => .bind (by simp) fun _ => .get fun _ _ => .bind (by simp) fun _ => .bind (by simp) fun _ => .pure _)
  fun e => .bind fun _ => .bind fun _ => .bind fun _ => .bind fun _ => .bind fun _ => .ends _

/-! ## KeyBlocks -/

@[simp] theorem Prog.blockKeys_fuses (e : Prog) (kbpk : KeySlot) (version : Byte) : Run.Fuses fs (e.blockKeys kbpk version) := by
  unfold Prog.blockKeys
  repeat' with_reducible first | refine .get fun _ _ => ?_ | refine .bind ?_ fun _ => ?_ | split
  all_goals simp [*]

@[simp] theorem Prog.blockMac_fuses (e : Prog) (version : Byte) (k : KeySlot) (header clear cipher : List Byte) :
    Run.Fuses fs (e.blockMac version k header clear cipher) := by
  unfold Prog.blockMac
  repeat' with_reducible first | refine .get fun _ _ => ?_ | refine .bind ?_ fun _ => ?_ | split
  all_goals simp [*]

@[simp] theorem Prog.readKey_fuses (e : Prog) (kbpk : KeySlot) (cs : List Byte) : Run.Fuses fs (e.readKey kbpk cs) := by
  unfold Prog.readKey
  dsimp only
  repeat' with_reducible first | refine .get fun _ _ => ?_ | refine .bind ?_ fun _ => ?_ | split
  all_goals simp [*]

@[simp] theorem Prog.blockChecks_fuses (e : Prog) (cs : List Byte) : Run.Fuses fs (e.blockChecks cs) := by
  unfold Prog.blockChecks
  repeat' with_reducible first | refine .get fun _ _ => ?_ | refine .bind ?_ fun _ => ?_ | split
  all_goals simp [*]

@[simp] theorem Prog.writeBlock_fuses (e : Prog) (kbpk : KeySlot) (version : Byte) (usage : List Byte) (mode : Byte) (kvn : Nat) (xport : Bool) (k : Key) :
    Run.Fuses fs (e.writeBlock kbpk version usage mode kvn xport k) := by
  unfold Prog.writeBlock
  repeat' with_reducible first | refine .get fun _ _ => ?_ | refine .bind ?_ fun _ => ?_ | split
  all_goals simp [*]

@[simp] theorem Prog.exportParam_fuses (e : Prog) : Run.Fuses fs (e.exportParam) := by
  unfold Prog.exportParam
  repeat' with_reducible first | refine .get fun _ _ => ?_ | refine .bind ?_ fun _ => ?_ | split
  all_goals simp [*]

@[simp] theorem Prog.sendKey_fuses (e : Prog) (kbpk : KeySlot) (version : Byte) (k : Key) (status : Nat) :
    Run.Fuses fs (e.sendKey kbpk version k status) := by
  unfold Prog.sendKey
  repeat' with_reducible first | refine .get fun _ _ => ?_ | refine .bind ?_ fun _ => ?_ | split
  all_goals simp [*]

theorem execKeyBlockImport_kept (c : Ctx) (run : ProgramRun) (s : State) :
    (execKeyBlockImport c run s).FusesKept s.fuses := State.program_kept _ _ _ fun e => by
  repeat' with_reducible first | refine .get fun _ _ => ?_ | refine .bind ?_ fun _ => ?_ | split
  all_goals simp [*]

theorem execKeyBlockExport_kept (c : Ctx) (run : ProgramRun) (s : State) :
    (execKeyBlockExport c run s).FusesKept s.fuses := State.program_kept _ _ _ fun e => by
  repeat' with_reducible first | refine .get fun _ _ => ?_ | refine .bind ?_ fun _ => ?_ | split
  all_goals simp [*]

theorem execKeyBlockTranslate_kept (c : Ctx) (run : ProgramRun) (s : State) :
    (execKeyBlockTranslate c run s).FusesKept s.fuses := State.program_kept _ _ _ fun e => by
  repeat' with_reducible first | refine .get fun _ _ => ?_ | refine .bind ?_ fun _ => ?_ | split
  all_goals simp [*]

theorem execDukptInitialKeyExport_kept (c : Ctx) (run : ProgramRun) (s : State) :
    (execDukptInitialKeyExport c run s).FusesKept s.fuses := State.program_kept _ _ _ fun e => by
  repeat' with_reducible first | refine .get fun _ _ => ?_ | refine .bind ?_ fun _ => ?_ | split
  all_goals simp [*]

/-! ## Wrappers -/

@[simp] theorem Prog.operKey_fuses (e : Prog) (v : PkWord) (mask : Nat) : Run.Fuses fs (e.operKey v mask) := by
  unfold Prog.operKey
  repeat' with_reducible first | refine .get fun _ _ => ?_ | refine .bind ?_ fun _ => ?_ | split
  all_goals simp [*]

@[simp] theorem Prog.curve_fuses (x0 : Prog) (v : PkWord) (y : Option KeySlot) : Run.Fuses fs (Prog.curve x0 v y) := by
  unfold Prog.curve
  repeat' with_reducible first | refine .get fun _ _ => ?_ | refine .bind ?_ fun _ => ?_ | split
  all_goals simp [*]

@[simp] theorem Prog.signs_fuses (e : Prog) (mask : Nat) (v : PkWord) : Run.Fuses fs (e.signs mask v) := by
  unfold Prog.signs
  repeat' with_reducible first | refine .get fun _ _ => ?_ | refine .bind ?_ fun _ => ?_ | split
  all_goals simp [*]

@[simp] theorem Prog.verifies_fuses (e : Prog) (mask : Nat) (v : PkWord) : Run.Fuses fs (e.verifies mask v) := by
  unfold Prog.verifies
  repeat' with_reducible first | refine .get fun _ _ => ?_ | refine .bind ?_ fun _ => ?_ | split
  all_goals simp [*]

@[simp] theorem Prog.agrees_fuses (e : Prog) (mask : Nat) (v : PkWord) : Run.Fuses fs (e.agrees mask v) := by
  unfold Prog.agrees
  repeat' with_reducible first | refine .get fun _ _ => ?_ | refine .bind ?_ fun _ => ?_ | split
  all_goals simp [*]

theorem execEcdsaSignWrapper_kept (c : Ctx) (run : ProgramRun) (s : State) :
    (execEcdsaSignWrapper c run s).FusesKept s.fuses := State.program_kept _ _ _ fun e => by simp
theorem execEcdsaVerifyWrapper_kept (c : Ctx) (run : ProgramRun) (s : State) :
    (execEcdsaVerifyWrapper c run s).FusesKept s.fuses := State.program_kept _ _ _ fun e => by simp
theorem execEddsaSignWrapper_kept (c : Ctx) (run : ProgramRun) (s : State) :
    (execEddsaSignWrapper c run s).FusesKept s.fuses := State.program_kept _ _ _ fun e => by simp
theorem execEddsaVerifyWrapper_kept (c : Ctx) (run : ProgramRun) (s : State) :
    (execEddsaVerifyWrapper c run s).FusesKept s.fuses := State.program_kept _ _ _ fun e => by simp
theorem execRsaSignWrapper_kept (c : Ctx) (run : ProgramRun) (s : State) :
    (execRsaSignWrapper c run s).FusesKept s.fuses := State.program_kept _ _ _ fun e => by simp
theorem execRsaVerifyWrapper_kept (c : Ctx) (run : ProgramRun) (s : State) :
    (execRsaVerifyWrapper c run s).FusesKept s.fuses := State.program_kept _ _ _ fun e => by simp
theorem execRsaOaepDecryptWrapper_kept (c : Ctx) (run : ProgramRun) (s : State) :
    (execRsaOaepDecryptWrapper c run s).FusesKept s.fuses := State.program_kept _ _ _ fun e => by
  repeat' with_reducible first | refine .get fun _ _ => ?_ | refine .bind ?_ fun _ => ?_ | split
  all_goals simp [*]

theorem execEcdhWrapper_kept (c : Ctx) (run : ProgramRun) (s : State) :
    (execEcdhWrapper c run s).FusesKept s.fuses := State.program_kept _ _ _ fun e => by simp
theorem execMlkemEncapsulateWrapper_kept (c : Ctx) (run : ProgramRun) (s : State) :
    (execMlkemEncapsulateWrapper c run s).FusesKept s.fuses := State.program_kept _ _ _ fun e => by simp
theorem execMlkemDecapsulateWrapper_kept (c : Ctx) (run : ProgramRun) (s : State) :
    (execMlkemDecapsulateWrapper c run s).FusesKept s.fuses := State.program_kept _ _ _ fun e => by simp
theorem execMldsaSignWrapper_kept (c : Ctx) (run : ProgramRun) (s : State) :
    (execMldsaSignWrapper c run s).FusesKept s.fuses := State.program_kept _ _ _ fun e => by simp
theorem execMldsaVerifyWrapper_kept (c : Ctx) (run : ProgramRun) (s : State) :
    (execMldsaVerifyWrapper c run s).FusesKept s.fuses := State.program_kept _ _ _ fun e => by simp
/-! ## Resets and blown fuses (R307, R312, R315) -/

theorem State.respond_kept (s : State) (cls : Nat) : FusesKept s.fuses (s.respond cls).fuses := by
  unfold State.respond
  split
  · exact .refl _
  · exact .of_eq (by simp)
  · exact (s.moduleReset_kept 3).trans (.of_eq (by simp))
  · exact .of_eq (by simp)

theorem State.alarms_kept (s : State) (fired : List (Nat × Nat)) : FusesKept s.fuses (s.alarms fired).fuses := by
  unfold State.alarms
  extract_lets top force u
  have logged : u.fuses = s.fuses := State.fuses_foldl _ (fun v x => by simp) _ _
  split
  · exact .trans (.of_eq logged) (u.respond_kept top)
  · split
    · exact .of_eq (by simp [logged])
    · exact .of_eq logged

theorem execMonitorSample_kept (tempA tempB : BitVec 8) (samples : List MonitorSample) (s : State) :
    (execMonitorSample tempA tempB samples s).FusesKept s.fuses := by
  unfold execMonitorSample
  extract_lets meshed was ob u xs r t v
  have sampled : t.fuses = s.fuses := by simp [t, r, u]
  have alarmed : FusesKept s.fuses v.fuses := by
    simp only [v]
    split
    · exact .of_eq sampled
    · split
      · exact .trans (.of_eq sampled) (t.alarms_kept _)
      · exact .of_eq (by simp [sampled])
  exact Result.fusesKept_next (alarmed.trans (.of_eq (by simp)))

theorem execMainPowerLoss_kept (held : Bool) (s : State) : (execMainPowerLoss held s).FusesKept s.fuses := by
  unfold execMainPowerLoss
  split
  · exact Result.fusesKept_next (.refl _)
  · exact Result.fusesKept_next ((s.moduleReset_kept s.bt.cause).trans (.of_eq (by simp)))

theorem execVddCoreLoss_kept (s : State) : (execVddCoreLoss s).FusesKept s.fuses := by
  unfold execVddCoreLoss
  split
  · exact Result.fusesKept_next (.refl _)
  · exact Result.fusesKept_next ((s.moduleReset_kept s.bt.cause).trans (.of_eq (by simp)))

theorem State.powerOnReset_kept (s : State) : FusesKept s.fuses s.powerOnReset.fuses := by
  unfold State.powerOnReset
  exact .trans (.of_eq (by simp)) (State.moduleReset_kept _ 1)

theorem execPowerOn_kept (s : State) : (execPowerOn s).FusesKept s.fuses := by
  unfold execPowerOn
  split
  · exact Result.fusesKept_next (.refl _)
  · split
    · exact Result.fusesKept_next (s.powerOnReset_kept.trans (.of_eq (by simp)))
    · extract_lets o u v w
      have reset : FusesKept s.fuses v.fuses := u.powerOnReset_kept
      have raised : w.fuses = v.fuses := by
        simp only [w]
        split
        · exact v.raise_fuses _ _
        · rfl
      exact Result.fusesKept_next (reset.trans (.of_eq (w.startBoot_fuses.trans raised)))

theorem State.enterTestOpen_kept (s : State) (index : Nat) : FusesKept s.fuses (s.enterTestOpen index).fuses := by
  unfold State.enterTestOpen
  split
  · exact .of_eq (by simp)
  · generalize wipe : s.workWipe.lcResult 2 = u
    have wiped : u.fuses = s.fuses := by rw [← wipe]; simp
    have burned : FusesKept u.fuses ({ u with lc := { u.lc with burned := putBit u.lc.burned index true, testOpen := true } } : State).fuses :=
      fun _ => ⟨id, bitOf_putBit_true⟩
    exact .trans (.of_eq wiped) (burned.trans (.of_eq (by simp)))

theorem execLcsGo_kept (target testIdx : Fin 16) (s : State) : (execLcsGo target testIdx s).FusesKept s.fuses := by
  unfold execLcsGo
  split
  · exact Result.fusesKept_next (.refl _)
  · split
    · exact Result.fusesKept_next (.refl _)
    · dsimp only
      split
      · exact Result.fusesKept_next (.trans (.of_eq (by simp)) (State.enterTestOpen_kept _ _))
      · split <;> exact Result.fusesKept_next (.of_eq (by simp))

theorem execTestOpenEntry_kept (testIdx : Fin 16) (s : State) : (execTestOpenEntry testIdx s).FusesKept s.fuses := by
  unfold execTestOpenEntry
  split
  · exact Result.fusesKept_next (.refl _)
  · exact Result.fusesKept_next (.trans (.of_eq (by simp)) (State.enterTestOpen_kept _ _))

theorem execLcsTransitionComplete_kept (s : State) : (execLcsTransitionComplete s).FusesKept s.fuses := by
  unfold execLcsTransitionComplete
  split
  · exact Result.fusesKept_next (.refl _)
  · split
    · exact Result.fusesKept_next (.refl _)
    next t _ _ =>
      generalize whole : ({ s with lc := { s.lc with word := blow s.lc.word (fusesTo t s.lc.word), target := none } } : State) = u
      have blown : FusesKept s.fuses u.fuses := by
        rw [← whole]
        exact fun _ => ⟨blow_kept _, id⟩
      exact Result.fusesKept_next (blown.trans (u.resetModule_kept 4))

theorem execPerstAssert_kept (s : State) : (execPerstAssert s).FusesKept s.fuses := by
  unfold execPerstAssert
  split
  · exact Result.fusesKept_next (.of_eq (by simp))
  · exact Result.fusesKept_next ((s.moduleReset_kept 2).trans (.of_eq (by simp)))

theorem execModReset_kept (value : Word) (s : State) : (execModReset value s).FusesKept s.fuses := by
  unfold execModReset
  split
  · exact Result.fusesKept_next (.refl _)
  · exact Result.fusesKept_next (s.resetModule_kept 5)

theorem execWatchdogExpire_kept (s : State) : (execWatchdogExpire s).FusesKept s.fuses := by
  unfold execWatchdogExpire
  split
  · split
    · exact Result.fusesKept_next (.refl _)
    · exact Result.fusesKept_next (s.resetModule_kept 6)
  · exact Result.fusesKept_next (.refl _)

theorem execTapInstructionLoad_kept (opcode : BitVec 8) (s : State) : (execTapInstructionLoad opcode s).FusesKept s.fuses := by
  unfold execTapInstructionLoad
  split
  · exact Result.fusesKept_next (.refl _)
  · extract_lets op boot u v t
    have shown : v.fuses = s.fuses := by
      simp only [v]
      split <;> simp [u]
    split
    · exact Result.fusesKept_next (.of_eq (by simp [shown]))
    · split
      · exact Result.fusesKept_next (.of_eq shown)
      · exact Result.fusesKept_next (.trans (.of_eq shown) ((v.moduleReset_kept 2).trans (.of_eq rfl)))

/-- A command that resets the core die or blows fuses leaves the blown ones blown, and so does a program; any other command leaves every fuse as it
is. -/
theorem exec_kept (i : Instr) (s : State) : Result.FusesKept s.fuses (exec i s) := by
  cases i with
  | monitorSample tempA tempB samples => exact execMonitorSample_kept _ _ _ _
  | mainPowerLoss held => exact execMainPowerLoss_kept _ _
  | powerOn => exact execPowerOn_kept _
  | lcsGo target testIdx => exact execLcsGo_kept _ _ _
  | testOpenEntry testIdx => exact execTestOpenEntry_kept _ _
  | lcsTransitionComplete => exact execLcsTransitionComplete_kept _
  | perstAssert => exact execPerstAssert_kept _
  | modReset value => exact execModReset_kept _ _
  | watchdogExpire => exact execWatchdogExpire_kept _
  | tapInstructionLoad opcode => exact execTapInstructionLoad_kept _ _
  | stageProgramImage c run => exact execStageProgramImage_kept _ _ _
  | stageFormatEntry c run => exact execStageFormatEntry_kept _ _ _
  | stageDerivationEntry c run => exact execStageDerivationEntry_kept _ _ _
  | stageCurveEntry c run => exact execStageCurveEntry_kept _ _ _
  | approveChange c run => exact execApproveChange_kept _ _ _
  | readChangeRecord c run => exact execReadChangeRecord_kept _ _ _
  | stageLifeCycleCommand c run => exact execStageLifeCycleCommand_kept _ _ _
  | debugChallenge c run => exact execDebugChallenge_kept _ _ _
  | debugResponse c run => exact execDebugResponse_kept _ _ _
  | enterSleepS2 c run => exact execEnterSleepS2_kept _ _ _
  | enterSleepS3 c run => exact execEnterSleepS3_kept _ _ _
  | domainCreate c run => exact execDomainCreate_kept _ _ _
  | domainJoin c run sponsor => exact execDomainJoin_kept _ _ _ _
  | domainLeave c run => exact execDomainLeave_kept _ _ _
  | scheduleEpoch c run => exact execScheduleEpoch_kept _ _ _
  | cancelEpoch c run late => exact execCancelEpoch_kept _ _ _ _
  | reProvision c run => exact execReProvision_kept _ _ _
  | restoreFirmwareChunk c run => exact execRestoreFirmwareChunk_kept _ _ _
  | stageServiceApplet c run => exact execStageServiceApplet_kept _ _ _
  | journalAppend c run => exact execJournalAppend_kept _ _ _
  | journalRead c run block => exact execJournalRead_kept _ _ _ _
  | generateKey c run => exact execGenerateKey_kept _ _ _
  | destroyKey c run => exact execDestroyKey_kept _ _ _
  | loadRecords c run => exact execLoadRecords_kept _ _ _
  | readRecord c run => exact execReadRecord_kept _ _ _
  | keyBlockImport c run => exact execKeyBlockImport_kept _ _ _
  | keyBlockExport c run => exact execKeyBlockExport_kept _ _ _
  | keyBlockTranslate c run => exact execKeyBlockTranslate_kept _ _ _
  | attestKey c run => exact execAttestKey_kept _ _ _
  | checkValue c run => exact execCheckValue_kept _ _ _
  | tableRollBegin c run => exact execTableRollBegin_kept _ _ _
  | tableRollRewrap c run => exact execTableRollRewrap_kept _ _ _
  | tableRollFinish c run => exact execTableRollFinish_kept _ _ _
  | tableRollConfirm c run => exact execTableRollConfirm_kept _ _ _
  | readReplicationLog c run => exact execReadReplicationLog_kept _ _ _
  | pinTranslateF0F4 c run => exact execPinTranslateF0F4_kept _ _ _
  | pinTranslate c run => exact execPinTranslate_kept _ _ _
  | pinVerifyOffset c run => exact execPinVerifyOffset_kept _ _ _
  | pinVerifyPvv c run => exact execPinVerifyPvv_kept _ _ _
  | pvvGenerate c run => exact execPvvGenerate_kept _ _ _
  | pinTranslateFromDukpt c run => exact execPinTranslateFromDukpt_kept _ _ _
  | cvvVerify c run => exact execCvvVerify_kept _ _ _
  | cvvGenerate c run => exact execCvvGenerate_kept _ _ _
  | arqcVerify c run => exact execArqcVerify_kept _ _ _
  | arqcVerifyArpc1Tdes c run => exact execArqcVerifyArpc1Tdes_kept _ _ _
  | arqcVerifyArpc1Aes c run => exact execArqcVerifyArpc1Aes_kept _ _ _
  | arqcVerifyArpc2 c run => exact execArqcVerifyArpc2_kept _ _ _
  | dukptInitialKeyExport c run => exact execDukptInitialKeyExport_kept _ _ _
  | dukptDataDecrypt c run => exact execDukptDataDecrypt_kept _ _ _
  | dukptMacVerify c run => exact execDukptMacVerify_kept _ _ _
  | ff1Tokenise c run => exact execFf1Tokenise_kept _ _ _
  | ff1Detokenise c run => exact execFf1Detokenise_kept _ _ _
  | cmacGenerate c run => exact execCmacGenerate_kept _ _ _
  | cmacVerify c run => exact execCmacVerify_kept _ _ _
  | hmacGenerate c run => exact execHmacGenerate_kept _ _ _
  | hmacVerify c run => exact execHmacVerify_kept _ _ _
  | retailMacGenerate c run => exact execRetailMacGenerate_kept _ _ _
  | retailMacVerify c run => exact execRetailMacVerify_kept _ _ _
  | ecdsaSignWrapper c run => exact execEcdsaSignWrapper_kept _ _ _
  | ecdsaVerifyWrapper c run => exact execEcdsaVerifyWrapper_kept _ _ _
  | eddsaSignWrapper c run => exact execEddsaSignWrapper_kept _ _ _
  | eddsaVerifyWrapper c run => exact execEddsaVerifyWrapper_kept _ _ _
  | rsaSignWrapper c run => exact execRsaSignWrapper_kept _ _ _
  | rsaVerifyWrapper c run => exact execRsaVerifyWrapper_kept _ _ _
  | rsaOaepDecryptWrapper c run => exact execRsaOaepDecryptWrapper_kept _ _ _
  | ecdhWrapper c run => exact execEcdhWrapper_kept _ _ _
  | mlkemEncapsulateWrapper c run => exact execMlkemEncapsulateWrapper_kept _ _ _
  | mlkemDecapsulateWrapper c run => exact execMlkemDecapsulateWrapper_kept _ _ _
  | mldsaSignWrapper c run => exact execMldsaSignWrapper_kept _ _ _
  | mldsaVerifyWrapper c run => exact execMldsaVerifyWrapper_kept _ _ _
  | vddCoreLoss => exact execVddCoreLoss_kept _
  | _ => exact Result.Fuses.kept (by unfold exec; simp)

/-- Settles O60: a step runs the front command or passes time, and each keeps what is blown. -/
theorem everyStepKeepsBlownFuses : Obligations.EveryStepKeepsBlownFuses := by
  intro b s t stepped
  refine (show FusesKept s.fuses t.fuses from ?_) b
  unfold step at stepped
  split at stepped
  · cases Host.Outcome.next.inj stepped
    exact .of_eq rfl
  next c rest _ => exact exec_kept c { s with pending := rest } t stepped

end Sys2Proof.Machine
end

section
/-! SUPPORT. An abort by tag (R56): what an ended command leaves of the other commands, and of the abort it belongs to. -/
namespace Sys2Proof.Machine

variable {s : State}

/-! ## The commands at work: those in contexts and those staged -/

/-- The contexts and the staging buffer. -/
def State.tasks (s : State) : Sparse Context × List Cmd := (s.sq.ctxs, s.hq.staged)

theorem State.tasks_of_endKeeps {t : State} (h : endKeeps s t) : t.tasks = s.tasks := by
  obtain ⟨sq, -, -, -, -, -, -, -, -, -, -, staged, -⟩ := (endKeeps_iff s t).mp h
  rw [State.tasks, sq, staged]; rfl

@[simp] theorem State.tasks_ite {c : Prop} [Decidable c] (t u : State) : (if c then t else u).tasks = if c then t.tasks else u.tasks := by
  split <;> rfl

@[simp] theorem State.tasks_foldl {α : Type} (f : State → α → State) (hf : ∀ u a, (f u a).tasks = u.tasks) (xs : List α) (s : State) :
    (xs.foldl f s).tasks = s.tasks :=
  foldl_keeps (fun u => u.tasks = s.tasks) f (fun u a hu => (hf u a).trans hu) xs s rfl

@[simp] theorem State.set_tasks (s : State) (f : Field) (v : Nat) : (s.set f v).tasks = s.tasks := (rfl)
@[simp] theorem State.count_tasks (s : State) (f : Field) (d : Nat) : (s.count f d).tasks = s.tasks := (rfl)
@[simp] theorem State.countSat_tasks (s : State) (f : Field) (d : Nat) : (s.countSat f d).tasks = s.tasks := (rfl)
@[simp] theorem State.touch_tasks (s : State) (i : Nat) : (s.touch i).tasks = s.tasks := (rfl)
@[simp] theorem State.emit_tasks (s : State) (o : Output) : (s.emit o).tasks = s.tasks := (rfl)
@[simp] theorem State.crossPort_tasks (s : State) (f : Func) : (s.crossPort f).tasks = s.tasks := (rfl)
@[simp] theorem State.crossHbm_tasks (s : State) (a : Nat) : (s.crossHbm a).tasks = s.tasks := (rfl)
@[simp] theorem State.writeMem_tasks (s : State) (a : Nat) (bs : List Byte) : (s.writeMem a bs).tasks = s.tasks := (rfl)
@[simp] theorem State.setMoved_tasks (s : State) (n : Nat) (os : List UnitOp) : (s.setMoved n os).tasks = s.tasks := (rfl)
@[simp] theorem State.place_tasks (s : State) (n l : Nat) (o : UnitOp) : (s.place n l o).tasks = s.tasks := (rfl)
@[simp] theorem State.countAborts_tasks (s : State) (p n : Nat) : (s.countAborts p n).tasks = s.tasks := (rfl)
@[simp] theorem State.raise_tasks (s : State) (p i : Nat) : (s.raise p i).tasks = s.tasks := State.tasks_of_endKeeps (endKeeps_raise s p i)
@[simp] theorem State.setBit_tasks (s : State) (f : Field) (i : Nat) (b : Bool) : (s.setBit f i b).tasks = s.tasks := (rfl)
@[simp] theorem State.severity_tasks (s : State) (n : Nat) : (s.severity n).tasks = s.tasks := State.tasks_of_endKeeps (endKeeps_severity s n)
@[simp] theorem State.settleTake_tasks (s : State) : s.settleTake.tasks = s.tasks := by rw [s.settleTake_spec]; rfl
@[simp] theorem State.sendOn_tasks (s : State) (k : Nat) (o : Output) : (s.sendOn k o).tasks = s.tasks := State.tasks_of_endKeeps (endKeeps_sendOn s k o)

@[simp] theorem State.finish_tasks (s : State) (ok : Option Bool) (c : Cmd) (e : Ending) (d : Option Nat) : (s.finish ok c e d).tasks = s.tasks :=
  State.tasks_of_endKeeps (endKeeps_finish s ok c e d)

@[simp] theorem State.violation_tasks (s : State) (m : Nat) (kind : AccessKind) (a tag : Nat) : (s.violation m kind a tag).tasks = s.tasks := by
  cases kind <;> simp [State.violation]

@[simp] theorem State.dmaWrite_tasks (s : State) (m tag a : Nat) (bs : List Byte) : (s.dmaWrite m tag a bs).1.tasks = s.tasks := by
  unfold State.dmaWrite
  refine foldl_keeps (fun r : State × Bool => r.1.tasks = s.tasks) _ (fun r p hr => ?_) _ _ rfl
  split <;> simp [hr]

@[simp] theorem State.zeroOutput_tasks (s : State) (c : Cmd) (st : Nat) (wrote : Bool) : (s.zeroOutput c st wrote).tasks = s.tasks := by
  unfold State.zeroOutput
  repeat' split
  all_goals simp

@[simp] theorem State.settlePkCluster_tasks (s : State) (p : Nat) : (s.settlePkCluster p).tasks = s.tasks := by
  unfold State.settlePkCluster
  simp

@[simp] theorem State.settlePkFreeze_tasks (s : State) (p : Nat) : (s.settlePkFreeze p).tasks = s.tasks := by
  unfold State.settlePkFreeze
  dsimp only
  split <;> simp

@[simp] theorem State.settleCurve_tasks (s : State) : s.settleCurve.tasks = s.tasks := by
  unfold State.settleCurve
  dsimp only
  split <;> rfl

@[simp] theorem State.dropPk_tasks (s : State) (k : Nat) : (s.dropPk k).tasks = s.tasks := by
  unfold State.dropPk
  exact (State.tasks_foldl _ (fun u p => by simp [State.settlePk]) _ _).trans rfl

@[simp] theorem State.dropOps_tasks (s : State) (k : Nat) : (s.dropOps k).tasks = s.tasks := s.dropPk_tasks k

@[simp] theorem State.countEnding_tasks (s : State) (k : Nat) (x : Context) (c : Cmd) (st det : Nat) :
    (s.countEnding k x c st det).tasks = s.tasks := by
  unfold State.countEnding
  dsimp only
  repeat' split
  all_goals simp
  all_goals rfl

@[simp] theorem State.settleSeq_tasks (s : State) (n : Nat) : (s.settleSeq n).tasks = s.tasks := by
  unfold State.settleSeq
  split <;> simp

@[simp] theorem State.settleStale_tasks (s : State) : s.settleStale.tasks = s.tasks := by
  unfold State.settleStale
  split
  · rfl
  · exact (State.raise_tasks _ _ _).trans rfl

theorem State.ctx_of_tasks {t : State} (h : t.tasks = s.tasks) (k : Nat) : t.ctx k = s.ctx k := by
  rw [State.ctx, show t.sq.ctxs = s.sq.ctxs from congrArg Prod.fst h]; rfl

theorem State.seatMoved_staged (s : State) (n fuel : Nat) : (s.seatMoved n fuel).hq.staged = s.hq.staged := by
  induction fuel generalizing s with
  | zero => rfl
  | succ fuel ih =>
    unfold State.seatMoved
    dsimp only
    split
    · rfl
    · split
      · rfl
      · rw [ih]
        split
        · split <;> rfl
        · rfl

/-- An ended command leaves the staging buffer as it is, -/
theorem State.endCommand_staged (s : State) (k st det len : Nat) (ok : Option Bool) : (s.endCommand k st det len ok).hq.staged = s.hq.staged := by
  unfold State.endCommand
  dsimp only
  split
  · rfl
  next c _ =>
    have ended : ∀ u : State, u.tasks = s.tasks → (u.setCtx k {}).hq.staged = s.hq.staged := fun u h => congrArg Prod.snd h
    have keeps : ∀ (u : State) e d, (((((u.seatMoved (clusterOf k) 4).finish ok c e d).settleStale).settleSeq (clusterOf k)).touch (clusterOf k)).hq.staged =
        u.hq.staged := fun u e d => by
      have same : (((((u.seatMoved (clusterOf k) 4).finish ok c e d).settleStale).settleSeq (clusterOf k)).touch (clusterOf k)).tasks =
          (u.seatMoved (clusterOf k) 4).tasks := by simp
      exact (congrArg Prod.snd same).trans (u.seatMoved_staged _ _)
    rw [keeps]
    refine ended _ ?_
    split <;> simp

/-- and the command of every other context. -/
theorem State.endCommand_ctx_cmd_ne {j k : Nat} (st det len : Nat) (ok : Option Bool) (h : k ≠ j) :
    ((s.endCommand k st det len ok).ctx j).cmd = (s.ctx j).cmd := by
  unfold State.endCommand
  dsimp only
  split
  · rfl
  next c _ =>
    rw [State.touch_ctx, State.settleSeq_ctx, State.settleStale_ctx, State.finish_ctx, State.seatMoved_ctx_cmd, State.ctx_setCtx_ne _ _ _ _ h]
    refine congrArg Context.cmd (State.ctx_of_tasks ?_ j)
    split <;> simp

/-! ## An abort's own record -/

/-- What an abort of partition `p` keeps: whether it is busy, its count and its queue pair; and the held completions. -/
def State.aborting (s : State) (p : Nat) : Bool × Nat × Nat × List Held :=
  ((s.part p).abortBusy, (s.part p).abortCount, (s.part p).abortQueue, s.hq.held)

@[simp] theorem State.aborting_ite {c : Prop} [Decidable c] (t u : State) (p : Nat) :
    (if c then t else u).aborting p = if c then t.aborting p else u.aborting p := by
  split <;> rfl

theorem State.updPart_aborting (s : State) (p q : Nat) (f : Part → Part)
    (hf : ∀ x, (f x).abortBusy = x.abortBusy ∧ (f x).abortCount = x.abortCount ∧ (f x).abortQueue = x.abortQueue) :
    (s.updPart q f).aborting p = s.aborting p := by
  obtain ⟨busy, count, queue⟩ := hf (s.part p)
  by_cases h : q = p
  · subst h
    simp only [State.aborting, State.part_updPart_same, busy, count, queue]
    rfl
  · rw [State.aborting, State.part_updPart_ne _ _ _ _ h]; rfl

@[simp] theorem State.set_aborting (s : State) (f : Field) (v p : Nat) : (s.set f v).aborting p = s.aborting p := (rfl)
@[simp] theorem State.countSat_aborting (s : State) (f : Field) (d p : Nat) : (s.countSat f d).aborting p = s.aborting p := (rfl)
@[simp] theorem State.emit_aborting (s : State) (o : Output) (p : Nat) : (s.emit o).aborting p = s.aborting p := (rfl)
@[simp] theorem State.setBit_aborting (s : State) (f : Field) (i : Nat) (b : Bool) (p : Nat) : (s.setBit f i b).aborting p = s.aborting p := (rfl)
@[simp] theorem State.crossPort_aborting (s : State) (f : Func) (p : Nat) : (s.crossPort f).aborting p = s.aborting p := (rfl)
@[simp] theorem State.updQp_aborting (s : State) (a b : Nat) (f : QueuePair → QueuePair) (p : Nat) : (s.updQp a b f).aborting p = s.aborting p := (rfl)

@[simp] theorem State.msixSend_aborting (s : State) (f : Func) (v p : Nat) : (s.msixSend f v).aborting p = s.aborting p := by
  unfold State.msixSend
  repeat' split
  all_goals rfl

@[simp] theorem State.raise_aborting (s : State) (a i p : Nat) : (s.raise a i).aborting p = s.aborting p := by simp [State.raise]

@[simp] theorem State.severity_aborting (s : State) (n p : Nat) : (s.severity n).aborting p = s.aborting p := by
  unfold State.severity
  split <;> rfl

@[simp] theorem State.partEvent_aborting (s : State) (a i p : Nat) : (s.partEvent a i).aborting p = s.aborting p := by
  have sent : ∀ (xs : List (Option Func)) (v : Nat) (u : State),
      (xs.foldl (fun s w => match w with | some f => s.msixSend f v | none => s) u).aborting p = u.aborting p := fun xs v u =>
    foldl_keeps (fun t => t.aborting p = u.aborting p) _ (fun t w ht => by split <;> simp [ht]) xs u rfl
  have noted := s.updPart_aborting p a (fun x => { x with pevt := putBit x.pevt i true }) fun _ => ⟨rfl, rfl, rfl⟩
  unfold State.partEvent
  dsimp only
  rw [State.msixSend_aborting, State.msixSend_aborting]
  split
  · exact (sent _ _ _).trans noted
  · exact noted

@[simp] theorem State.haltQp_aborting (s : State) (a b e p : Nat) : (s.haltQp a b e).aborting p = s.aborting p := by
  simp [State.haltQp]

@[simp] theorem State.coalesce_aborting (s : State) (a b p : Nat) : (s.coalesce a b).aborting p = s.aborting p := by
  unfold State.coalesce
  dsimp only
  repeat' split
  all_goals simp

@[simp] theorem State.settleQp_aborting (s : State) (a b p : Nat) : (s.settleQp a b).aborting p = s.aborting p := by simp [State.settleQp]

@[simp] theorem State.reportAer_aborting (s : State) (f : Option Func) (b p : Nat) : (s.reportAer f b).aborting p = s.aborting p := by
  cases f <;> rfl

@[simp] theorem State.sample_aborting (s : State) (kind i bin : Nat) (v : Int) (n p : Nat) : (s.sample kind i bin v n).aborting p = s.aborting p := by
  unfold State.sample
  dsimp only
  repeat' split
  · rfl
  · exact State.raise_aborting _ _ _ _
  · rfl

@[simp] theorem State.failCompletion_aborting (s : State) (c : Cmd) (p : Nat) : (s.failCompletion c).aborting p = s.aborting p := by
  unfold State.failCompletion
  dsimp only
  split <;> simp [State.reportWrite]

@[simp] theorem State.sampleLatency_aborting (s : State) (a ns p : Nat) : (s.sampleLatency a ns).aborting p = s.aborting p := by
  unfold State.sampleLatency
  dsimp only
  split <;> simp

@[simp] theorem State.writeCompletion_aborting (s : State) (ok : Option Bool) (c : Cmd) (e : Ending) (p : Nat) :
    (s.writeCompletion ok c e).aborting p = s.aborting p := by
  have drawn : (s.writeOutcome ok).2.aborting p = s.aborting p := by cases ok <;> rfl
  unfold State.writeCompletion
  dsimp only
  rw [State.settleQp_aborting]
  split
  · simp [State.discardCompletion, drawn]
  · simp [State.discardCompletion, drawn]
  · simp [drawn]
  · split
    · rw [State.coalesce_aborting, State.updQp_aborting]
      split <;> simp [drawn]
    · rw [State.updQp_aborting]
      split <;> simp [drawn]

/-! ## ABORT_GO (R56) -/

/-- A command an abort matches: of the pair, with the tag. -/
def abortHit (p q tag : Nat) (c : Cmd) : Bool := c.ofQp p q && c.desc.hostTag == tag

/-- A matched command as it is marked. -/
def abortMark (hit : Cmd → Bool) (c : Cmd) : Cmd := if hit c then { c with marked := true } else c

@[simp] theorem abortHit_mark (p q tag : Nat) (c : Cmd) : abortHit p q tag (abortMark (abortHit p q tag) c) = abortHit p q tag c := by
  unfold abortMark
  split <;> rfl

theorem abortMark_mark (p q tag : Nat) (c : Cmd) :
    abortMark (abortHit p q tag) (abortMark (abortHit p q tag) c) = abortMark (abortHit p q tag) c := by
  cases h : abortHit p q tag c with
  | false => simp [abortMark, h]
  | true =>
    have marked : abortMark (abortHit p q tag) c = { c with marked := true } := if_pos h
    have again : abortHit p q tag { c with marked := true } = true := h
    rw [marked, abortMark, if_pos again]

theorem abortMark_other {hit : Cmd → Bool} {c : Cmd} (h : hit c = false) : abortMark hit c = c := by simp [abortMark, h]

theorem abortHit_ofQp {p q tag : Nat} {c : Cmd} (h : c.ofQp p q = false) : abortHit p q tag c = false := by simp [abortHit, h]

/-- A partition's abort record as an abort of pair `q` begins. -/
def Part.abortOpens (q : Nat) (x : Part) : Part := { x with abortQueue := q, abortBusy := true, abortResult := 0, abortCount := 0 }

/-- The staging buffer replaced. -/
def State.restage (s : State) (l : List Cmd) : State := { s with hq.staged := l }

/-- The state as an abort of pair `q` of partition `p` begins: its record anew, and every match marked but those in contexts. -/
def State.abortBegun (s : State) (p q : Nat) (hit : Cmd → Bool) : State :=
  let t := s.updPart p (Part.abortOpens q)
  { t with hq := { t.hq with
      staged := t.hq.staged.map (abortMark hit)
      fwdOut := t.hq.fwdOut.map fun x => { x with cmd := abortMark hit x.cmd }
      held := t.hq.held.map fun x => { x with cmd := abortMark hit x.cmd } } }

/-- What is sent to the peers that serve matches. -/
def State.abortForwards (s : State) (hit : Cmd → Bool) : State :=
  (s.hq.fwdOut.filter fun x => hit x.cmd).foldl (fun s x => s.sendOn x.link (.forwardAbort x.link x.tag)) s

/-- The contexts that serve matches. -/
def State.abortRuns (s : State) (hit : Cmd → Bool) : List (Nat × Context) :=
  s.running.filter fun e => match e.2.cmd with | some c => hit c | none => false

/-- The commands of listed contexts marked where they match. -/
def State.markRuns (s : State) (hit : Cmd → Bool) (run : List (Nat × Context)) : State :=
  run.foldl (fun s e => s.updCtx e.1 fun x => { x with cmd := x.cmd.map (abortMark hit) }) s

/-- Listed staged commands taken and ended with ABORTED, DETAIL 1. -/
def State.endGone (s : State) (mark : Cmd → Cmd) (gone : List Cmd) : State :=
  gone.foldl (fun s c => ({ s with hq.staged := s.hq.staged.erase (mark c) }).endStaged (mark c) stAborted 1) s

/-- The commands of listed contexts ended with ABORTED, DETAIL 1. -/
def State.endRuns (s : State) (run : List (Nat × Context)) : State := run.foldl (fun s e => s.endAt e.1 stAborted 1) s

variable {fn : Func} {q : Fin 64} {p : Nat}

theorem execAbortGo_aborts (up : s.responds pgHQE = true) (own : s.partOf fn = some p) (free : (s.part p).abortBusy = false) :
    let hit := abortHit p q (s.part p).abortTag
    let b := s.abortBegun p q hit
    let f := b.abortForwards hit
    exec (.abortGo fn q) s = .next
      ((((f.markRuns hit (f.abortRuns hit)).endGone (abortMark hit) (b.hq.staged.filter hit)).endRuns (f.abortRuns hit)).settleAbort p) := by
  intro hit b f
  change execAbortGo fn q s = _
  rw [execAbortGo, if_neg (by simp [up]), own]
  dsimp only
  rw [if_neg (by simp [free])]
  rfl

theorem execAbortGo_ignored
    (h : s.responds pgHQE = false ∨ s.partOf fn = none ∨ (∃ p, s.partOf fn = some p ∧ (s.part p).abortBusy = true)) :
    exec (.abortGo fn q) s = .next s := by
  change execAbortGo fn q s = _
  unfold execAbortGo
  rcases h with down | none | ⟨p, own, busy⟩
  · simp [down]
  · simp [none]
  · simp [own, busy]

/-! ## No match is left -/

theorem State.abortForwards_tasks (s : State) (hit : Cmd → Bool) : (s.abortForwards hit).tasks = s.tasks := by simp [State.abortForwards]

theorem State.markRuns_staged (s : State) (hit : Cmd → Bool) (run : List (Nat × Context)) : (s.markRuns hit run).hq.staged = s.hq.staged := by
  unfold State.markRuns
  refine foldl_keeps (fun u => u.hq.staged = s.hq.staged) _ ?_ run s rfl
  exact fun _ _ hu => hu

theorem State.endRuns_staged (s : State) (run : List (Nat × Context)) : (s.endRuns run).hq.staged = s.hq.staged := by
  unfold State.endRuns
  exact foldl_keeps (fun u => u.hq.staged = s.hq.staged) _ (fun _ _ hu => (State.endCommand_staged ..).trans hu) run s rfl

/-- A staged match that is ended leaves the buffer, and no command a context serves changes. -/
theorem State.endGone_tasks (s : State) (mark : Cmd → Cmd) (gone : List Cmd) :
    (s.endGone mark gone).sq.ctxs = s.sq.ctxs ∧ (s.endGone mark gone).hq.staged = s.hq.staged.diff (gone.map mark) := by
  induction gone generalizing s with
  | nil => exact ⟨rfl, rfl⟩
  | cons c gone ih =>
    have first : (({ s with hq.staged := s.hq.staged.erase (mark c) } : State).endStaged (mark c) stAborted 1).tasks =
        (s.sq.ctxs, s.hq.staged.erase (mark c)) := State.finish_tasks ..
    obtain ⟨ctxs, staged⟩ := ih (({ s with hq.staged := s.hq.staged.erase (mark c) } : State).endStaged (mark c) stAborted 1)
    refine ⟨ctxs.trans (congrArg Prod.fst first), staged.trans ?_⟩
    rw [List.map_cons, List.diff_cons]
    exact congrArg (fun l : List Cmd => l.diff (gone.map mark)) (congrArg Prod.snd first)

/-- What is left of a list once the elements that pass have been taken out one by one. -/
theorem mem_diff_filter {l : List Cmd} {hit : Cmd → Bool} {c : Cmd} (h : c ∈ l.diff (l.filter hit)) : hit c = false := by
  by_contra on
  have on : hit c = true := by simpa using on
  have count : List.count c (l.diff (l.filter hit)) = 0 := by rw [List.count_diff, List.count_filter on, Nat.sub_self]
  exact List.count_eq_zero.mp count h

/-- A context whose command ends serves none, and no context takes one over. -/
theorem State.endRuns_ctx (run : List (Nat × Context)) (s : State) (k : Nat) :
    (k ∈ run.map Prod.fst → ((s.endRuns run).ctx k).cmd = none) ∧
    ∀ c, ((s.endRuns run).ctx k).cmd = some c → (s.ctx k).cmd = some c := by
  have step : ∀ (u : State) (e : Nat × Context) c, ((u.endAt e.1 stAborted 1).ctx k).cmd = some c → (u.ctx k).cmd = some c := fun u e c h => by
    by_cases own : e.1 = k
    · subst own
      have none : ((u.endAt e.1 stAborted 1).ctx e.1).cmd = none := u.endCommand_frees _ _ _
      rw [none] at h; cases h
    · rwa [State.endAt, State.endCommand_ctx_cmd_ne _ _ _ _ own] at h
  induction run generalizing s with
  | nil => exact ⟨fun h => absurd h (by simp), fun _ h => h⟩
  | cons e run ih =>
    obtain ⟨ends, keeps⟩ := ih (s.endAt e.1 stAborted 1)
    refine ⟨fun h => ?_, fun c h => step s e c (keeps c h)⟩
    rcases List.mem_cons.mp h with rfl | later
    · cases left : ((State.endRuns (s.endAt e.1 stAborted 1) run).ctx e.1).cmd with
      | none => exact left
      | some c =>
        have still := keeps c left
        rw [show ((s.endAt e.1 stAborted 1).ctx e.1).cmd = none from s.endCommand_frees _ _ _] at still
        cases still
    · exact ends later

/-- Marking leaves what matches where it was. -/
theorem State.markRuns_ctx {tag : Nat} (run : List (Nat × Context)) (s : State) (k : Nat) {c : Cmd}
    (h : ((s.markRuns (abortHit p q tag) run).ctx k).cmd = some c) :
    ∃ d, (s.ctx k).cmd = some d ∧ abortHit p q tag d = abortHit p q tag c := by
  induction run generalizing s with
  | nil => exact ⟨c, h, rfl⟩
  | cons e run ih =>
    obtain ⟨d, at_, same⟩ := ih _ h
    by_cases own : e.1 = k
    · subst own
      simp only [State.ctx_updCtx_same, Option.map_eq_some_iff] at at_
      obtain ⟨d', at', rfl⟩ := at_
      exact ⟨d', at', by rw [← same, abortHit_mark]⟩
    · rw [State.ctx_updCtx_ne _ _ _ _ own] at at_
      exact ⟨d, at_, same⟩

theorem State.mem_abortRuns {hit : Cmd → Bool} {k : Nat} {c : Cmd} (h : (s.ctx k).cmd = some c) (on : hit c = true) :
    k ∈ (s.abortRuns hit).map Prod.fst := by
  have listed : (k, s.ctx k) ∈ s.sq.ctxs := Sparse.mem_of_get_ne (fun none => by
    rw [show s.ctx k = {} from none] at h; cases h)
  refine List.mem_map.mpr ⟨(k, s.ctx k), List.mem_filter.mpr ⟨List.mem_filter.mpr ⟨listed, by simp [h]⟩, ?_⟩, rfl⟩
  simp [h, on]

/-! ## What an abort reports -/

theorem map_abortMark_other {l : List Cmd} {hit : Cmd → Bool} (h : ∀ c ∈ l, hit c = false) : l.map (abortMark hit) = l :=
  (List.map_congr_left fun c hc => abortMark_other (h c hc)).trans l.map_id'

theorem State.settleAbort_tasks (s : State) (p : Nat) : (s.settleAbort p).tasks = s.tasks := by
  unfold State.settleAbort
  split <;> rfl

/-- Where no forwarded and no held command matches, an abort begins with its record and its marks on the staged ones alone. -/
theorem State.abortBegun_staged {hit : Cmd → Bool} (q : Nat) (fwd : ∀ x ∈ s.hq.fwdOut, hit x.cmd = false) (held : ∀ x ∈ s.hq.held, hit x.cmd = false) :
    s.abortBegun p q hit = (s.updPart p (Part.abortOpens q)).restage (s.hq.staged.map (abortMark hit)) := by
  have fwd' : (s.hq.fwdOut.map fun x => { x with cmd := abortMark hit x.cmd }) = s.hq.fwdOut :=
    (List.map_congr_left fun x hx => by rw [abortMark_other (fwd x hx)]).trans s.hq.fwdOut.map_id'
  have held' : (s.hq.held.map fun x => { x with cmd := abortMark hit x.cmd }) = s.hq.held :=
    (List.map_congr_left fun x hx => by rw [abortMark_other (held x hx)]).trans s.hq.held.map_id'
  rw [State.abortBegun, show (s.updPart p (Part.abortOpens q)).hq = s.hq from rfl, fwd', held']
  rfl

theorem State.abortForwards_none {hit : Cmd → Bool} (h : ∀ x ∈ s.hq.fwdOut, hit x.cmd = false) : s.abortForwards hit = s := by
  rw [State.abortForwards, List.filter_eq_nil_iff.mpr fun x hx => by simp [h x hx]]
  rfl

theorem State.abortRuns_none {hit : Cmd → Bool} (h : ∀ e ∈ s.sq.ctxs, ∀ c, e.2.cmd = some c → hit c = false) : s.abortRuns hit = [] := by
  refine List.filter_eq_nil_iff.mpr fun e he => ?_
  cases serves : e.2.cmd with
  | none => simp
  | some c => simp [h e (List.mem_filter.mp he).1 c serves]

/-- Where no forwarded command and no context matches, an abort ends staged matches alone. -/
theorem State.abort_stagedOnly {hit : Cmd → Bool} (mark : Cmd → Cmd) (gone : List Cmd) (fwd : ∀ x ∈ s.hq.fwdOut, hit x.cmd = false)
    (ctx : ∀ e ∈ s.sq.ctxs, ∀ c, e.2.cmd = some c → hit c = false) :
    (((s.abortForwards hit).markRuns hit ((s.abortForwards hit).abortRuns hit)).endGone mark gone).endRuns ((s.abortForwards hit).abortRuns hit) =
      s.endGone mark gone := by
  rw [State.abortForwards_none fwd, State.abortRuns_none ctx]
  rfl

theorem State.settleAbort_last (busy : (s.part p).abortBusy = true) (left : s.marksLeft p = 0) :
    s.settleAbort p = s.updPart p fun x =>
      { x with abortBusy := false, abortResult := if x.abortCount = 0 then 2 else if x.abortCount = 1 then 1 else 3 } := if_pos ⟨busy, left⟩

theorem State.settleAbort_over (free : (s.part p).abortBusy = false) : s.settleAbort p = s := if_neg (by simp [free])

/-- A staged command that an abort matched, and that is the last one marked, ends the abort with one command aborted. -/
theorem State.endStaged_last {c : Cmd} (own : c.ofPart p = true) (marked : c.marked = true) (busy : (s.part p).abortBusy = true)
    (count : (s.part p).abortCount = 0) (left : s.marksLeft p = 0) :
    let t := s.endStaged c stAborted 1
    t.hq.staged = s.hq.staged ∧ (t.part p).abortResult = 1 ∧ (t.part p).abortBusy = false ∧ (t.part p).abortCount = 1 ∧
      (t.part p).abortQueue = (s.part p).abortQueue := by
  obtain ⟨rfl, peer⟩ : c.part = p ∧ c.peer = none := by simpa [Cmd.ofPart] using own
  intro t
  have completes : t = (s.writeCompletion none c { status := stAborted, detail := 1 } |> fun u =>
      if c.fetched.isNone then u else u.updPart c.part fun x => { x with winDone := x.winDone + 1 }).abortDone c { status := stAborted, detail := 1 } := by
    simp only [t, State.endStaged, State.finish, Option.filter_none, State.answer, peer]
    rfl
  have keeps : endKeeps s (s.writeCompletion none c { status := stAborted, detail := 1 }) := endKeeps_writeCompletion ..
  have aborts := s.writeCompletion_aborting none c { status := stAborted, detail := 1 } c.part
  generalize s.writeCompletion none c { status := stAborted, detail := 1 } = u at completes keeps aborts
  have counted : ∃ v, t = v.abortDone c { status := stAborted, detail := 1 } ∧ endKeeps s v ∧ v.aborting c.part = s.aborting c.part := by
    refine ⟨_, completes, ?_, ?_⟩
    · dsimp only; split
      · exact keeps
      · exact endKeeps_trans keeps (endKeeps_updPart _ _ _)
    · dsimp only; split
      · exact aborts
      · exact (u.updPart_aborting c.part c.part _ (by exact fun x => ⟨rfl, rfl, rfl⟩)).trans aborts
  obtain ⟨v, ends, keeps, aborts⟩ := counted
  obtain ⟨sq, -, -, -, -, -, -, -, -, -, -, staged, fwd⟩ := (endKeeps_iff s v).mp keeps
  obtain ⟨busy', count', queue', held'⟩ : (v.part c.part).abortBusy = (s.part c.part).abortBusy ∧ (v.part c.part).abortCount = (s.part c.part).abortCount ∧
      (v.part c.part).abortQueue = (s.part c.part).abortQueue ∧ v.hq.held = s.hq.held := by
    simpa only [State.aborting, Prod.mk.injEq] using aborts
  have noneLeft : (v.updPart c.part fun x => { x with abortCount := min 255 (x.abortCount + 1) }).marksLeft c.part = 0 := by
    rw [← left]
    show v.marksLeft c.part = _
    simp only [State.marksLeft, State.running, sq, staged, fwd, held']
  rw [ends, State.abortDone, if_pos ⟨marked, rfl, rfl⟩,
    State.settleAbort_last (by rw [State.part_updPart_same]; exact busy'.trans busy) noneLeft]
  simp only [State.part_updPart_same, count', count, queue']
  exact ⟨staged, by decide, trivial, by decide, trivial⟩

/-! ## ABORT_GO's statement -/

/-- Settles O16: an abort ends what it matched in the staging buffer and in the contexts, and the last matched command gives its result. -/
theorem abortTakesEveryMatch : Obligations.AbortTakesEveryMatch := by
  unfold Obligations.AbortTakesEveryMatch
  refine ⟨fun fn q p s up own free => ⟨_, execAbortGo_aborts up own free, ?_⟩, fun fn q p s up own free left noStaged noCtx noFwd noHeld => ?_,
    fun fn q p c s up own free left staged of tag noCtx noFwd noHeld => ?_, fun fn q s h => execAbortGo_ignored h⟩
  · generalize hits : abortHit p q (s.part p).abortTag = hit
    have misses : ∀ c : Cmd, hit c = false → ¬(c.ofQp p q = true ∧ c.desc.hostTag = (s.part p).abortTag) := fun c => by
      subst hits; simp [abortHit]
    generalize begun : s.abortBegun p q hit = b
    have marked : (b.hq.staged.filter hit).map (abortMark hit) = b.hq.staged.filter hit := by
      refine (List.map_congr_left fun c hc => ?_).trans (List.map_id' _)
      have once : b.hq.staged = s.hq.staged.map (abortMark hit) := by rw [← begun]; rfl
      obtain ⟨d, -, rfl⟩ := List.mem_map.mp (once ▸ (List.mem_filter.mp hc).1)
      subst hits; exact abortMark_mark ..
    have sent := b.abortForwards_tasks hit
    generalize b.abortForwards hit = f at sent
    have marks := f.markRuns_staged hit (f.abortRuns hit)
    obtain ⟨ctxs, staged⟩ := (f.markRuns hit (f.abortRuns hit)).endGone_tasks (abortMark hit) (b.hq.staged.filter hit)
    have noMatch := fun k c => State.markRuns_ctx (s := f) (k := k) (c := c) (p := p) (q := q) (tag := (s.part p).abortTag) (f.abortRuns hit)
    rw [hits] at noMatch
    have kept : ∀ k, (((f.markRuns hit (f.abortRuns hit)).endGone (abortMark hit) (b.hq.staged.filter hit)).ctx k) =
        (f.markRuns hit (f.abortRuns hit)).ctx k := fun k => by rw [State.ctx, ctxs]; rfl
    rw [marked, marks, show f.hq.staged = b.hq.staged from congrArg Prod.snd sent] at staged
    generalize (f.markRuns hit (f.abortRuns hit)).endGone (abortMark hit) (b.hq.staged.filter hit) = u at staged kept
    have settled := (u.endRuns (f.abortRuns hit)).settleAbort_tasks p
    refine ⟨fun c hc => misses c ?_, fun k c hc => misses c ?_⟩
    · rw [show (State.settleAbort _ p).hq.staged = _ from congrArg Prod.snd settled] at hc
      change c ∈ (u.endRuns (f.abortRuns hit)).hq.staged at hc
      rw [State.endRuns_staged, staged] at hc
      exact mem_diff_filter hc
    · rw [State.ctx_of_tasks settled] at hc
      obtain ⟨ends, keeps⟩ := State.endRuns_ctx (f.abortRuns hit) u k
      obtain ⟨d, serves, same⟩ := noMatch k c (kept k ▸ keeps c hc)
      by_contra on
      have listed := State.mem_abortRuns serves (same.trans (by simpa using on))
      rw [ends listed] at hc; cases hc
  · have noHit : ∀ c : Cmd, c.ofQp p q = false → abortHit p q (s.part p).abortTag c = false := fun c => abortHit_ofQp
    refine ⟨_, execAbortGo_aborts up own free, ?_⟩
    generalize abortHit p q (s.part p).abortTag = hit at noHit
    rw [s.abortBegun_staged (p := p) q (fun x hx => noHit _ (noFwd x hx)) (fun x hx => noHit _ (noHeld x hx)),
      map_abortMark_other fun c hc => noHit c (noStaged c hc)]
    have gone : ((s.updPart p (Part.abortOpens q)).restage s.hq.staged).hq.staged.filter hit = [] :=
      List.filter_eq_nil_iff.mpr fun c hc => by simp [noHit c (noStaged c hc)]
    rw [gone, State.abort_stagedOnly (s := (s.updPart p (Part.abortOpens q)).restage s.hq.staged) _ _ (fun x hx => noHit _ (noFwd x hx))
        (fun e he c hc => noHit c (noCtx e he c hc)), State.endGone, List.foldl_nil,
      show (s.updPart p (Part.abortOpens q)).restage s.hq.staged = s.updPart p (Part.abortOpens q) from rfl,
      State.settleAbort_last (s := s.updPart p (Part.abortOpens q)) (by rw [State.part_updPart_same]; rfl) left]
    simp only [State.part_updPart_same]
    exact ⟨rfl, trivial, rfl, rfl, rfl⟩
  · have noHit : ∀ c : Cmd, c.ofQp p q = false → abortHit p q (s.part p).abortTag c = false := fun c => abortHit_ofQp
    have onHit : abortHit p q (s.part p).abortTag c = true := by simp [abortHit, of, tag]
    have onAgain : abortHit p q (s.part p).abortTag { c with marked := true } = true := onHit
    refine ⟨_, execAbortGo_aborts up own free, ?_⟩
    generalize abortHit p q (s.part p).abortTag = hit at noHit onHit onAgain
    have mark : abortMark hit c = { c with marked := true } := if_pos onHit
    have again : abortMark hit { c with marked := true } = { c with marked := true } := if_pos onAgain
    rw [s.abortBegun_staged (p := p) q (fun x hx => noHit _ (noFwd x hx)) (fun x hx => noHit _ (noHeld x hx)), staged, List.map_singleton, mark]
    have gone : ((s.updPart p (Part.abortOpens q)).restage [{ c with marked := true }]).hq.staged.filter hit = [{ c with marked := true }] :=
      List.filter_cons_of_pos onAgain
    rw [gone, State.abort_stagedOnly (s := (s.updPart p (Part.abortOpens q)).restage [{ c with marked := true }]) _ _ (fun x hx => noHit _ (noFwd x hx))
        (fun e he c hc => noHit c (noCtx e he c hc)), State.endGone, List.foldl_cons,
      List.foldl_nil, again]
    have taken : { (s.updPart p (Part.abortOpens q)).restage [{ c with marked := true }] with
        hq.staged := ((s.updPart p (Part.abortOpens q)).restage [{ c with marked := true }]).hq.staged.erase { c with marked := true } } =
        (s.updPart p (Part.abortOpens q)).restage [] :=
      congrArg (s.updPart p (Part.abortOpens q)).restage (List.erase_cons_head _ _)
    rw [taken]
    have noneMarked : ((s.updPart p (Part.abortOpens q)).restage []).marksLeft p = 0 :=
      Nat.le_zero.mp (left ▸ Nat.add_le_add_right (Nat.add_le_add_right (Nat.add_le_add_right (Nat.zero_le _) _) _) _)
    have record : ((s.updPart p (Part.abortOpens q)).restage []).part p = (s.part p).abortOpens q := State.part_updPart_same ..
    obtain ⟨none, result, free', count, queue⟩ := State.endStaged_last (s := (s.updPart p (Part.abortOpens q)).restage []) (p := p)
      (c := { c with marked := true }) (by simp [Cmd.ofQp] at of; exact of.1) rfl (record ▸ rfl) (record ▸ rfl) noneMarked
    rw [State.settleAbort_over free']
    exact ⟨none, result, free', count, queue.trans (record ▸ rfl)⟩
end Sys2Proof.Machine
end

section
/-! SUPPORT. Input chunks, DMA errors and the coalescing time (R48, R59, R64). -/
namespace Sys2Proof.Machine

variable {s : State} {c : Ctx} {cmd : Cmd}

/-! ## Input chunks -/

/-- Why an input chunk does not arrive. -/
def State.chunkHeld (s : State) (c : Ctx) (cmd : Cmd) : Prop :=
  let x := s.ctx (ctxKey c)
  cmd.desc.inInline = true ∨ x.input.length < 4096 ∨ cmd.desc.inLen ≤ x.input.length ∨ (x.ip + 8192 ≤ x.input.length ∧ x.image.code ≠ []) ∨
    s.xbarHeld c.cc = true ∨ s.windowWaits cmd x.input.length (min 4096 (cmd.desc.inLen - x.input.length)) = true

theorem execInputChunkRead_idle (data : List Byte) (free : (s.ctx (ctxKey c)).cmd = none) : exec (.inputChunkRead c data) s = .next s := by
  change execInputChunkRead c data s = _
  simp [execInputChunkRead, free]

theorem execInputChunkRead_held (data : List Byte) (at_ : (s.ctx (ctxKey c)).cmd = some cmd) (held : s.chunkHeld c cmd) :
    exec (.inputChunkRead c data) s = .next s := by
  change execInputChunkRead c data s = _
  rw [execInputChunkRead]
  dsimp only
  rw [at_]
  exact if_pos (by simpa [State.chunkHeld] using held)

/-- A chunk of a context that none of these holds up: its bytes join the input, or a window that cannot be read ends the command. -/
theorem execInputChunkRead_arrives (data : List Byte) (at_ : (s.ctx (ctxKey c)).cmd = some cmd) (go : ¬ s.chunkHeld c cmd) :
    let x := s.ctx (ctxKey c)
    let n := min 4096 (cmd.desc.inLen - x.input.length)
    let takes := fun (t : State) (bs : List Byte) =>
      (t.setCtx (ctxKey c) { x with input := x.input ++ fitBytes n bs, wait := if x.wait = .chunk then .none else x.wait }).pump (ctxKey c) pumpFuel
    exec (.inputChunkRead c data) s =
      if cmd.windowIn then
        match s.windowInput cmd x.input.length n with
        | none => .next (s.endAt (ctxKey c) stAborted 2)
        | some b => .next (takes b.2 b.1)
      else .next (takes s data) := by
  intro x n takes
  change execInputChunkRead c data s = _
  rw [execInputChunkRead]
  dsimp only
  split
  next free => rw [at_] at free; cases free
  next d own =>
    obtain rfl : cmd = d := Option.some.inj (at_.symm.trans own)
    refine (if_neg fun h => go ?_).trans rfl
    simpa [State.chunkHeld] using h

theorem State.pump_idle {k fuel : Nat} (h : (s.ctx k).run = none) : s.pump k fuel = s := by
  cases fuel with
  | zero => rfl
  | succ fuel => simp [State.pump, h]

/-! ## The coalescing time -/

/-- What an expired COAL_TIME leaves of its pair (R59). -/
def QueuePair.signalled (x : QueuePair) : QueuePair := { x with unsignalled := 0, coalDue := none }

theorem State.signalled_qpFunc (s : State) (p q : Nat) : (s.updQp p q QueuePair.signalled).qpFunc p q = s.qpFunc p q := by
  simp only [State.qpFunc, State.namedFunc, State.qp_updQp_same]
  rfl

theorem execCoalTimeExpiry_due {part : Fin 1024} {q : Fin 64} {due : Nat} {f : Func} (armed : (s.qp part q).coalDue = some due) (late : due ≤ s.quartz)
    (some_ : (s.qp part q).unsignalled ≠ 0) (own : s.qpFunc part q = some f) :
    exec (.coalTimeExpiry part q) s = .next ((s.updQp part q QueuePair.signalled).msixSend f (s.qp part q).vector) := by
  change execCoalTimeExpiry part q s = _
  rw [execCoalTimeExpiry]
  dsimp only
  rw [armed]
  dsimp only
  rw [if_neg (by omega)]
  change (match (s.updQp part q QueuePair.signalled).qpFunc part q with | some f => _ | none => _) = _
  rw [s.signalled_qpFunc, own]
  rfl

theorem execCoalTimeExpiry_early {part : Fin 1024} {q : Fin 64} (early : ∀ due, (s.qp part q).coalDue = some due → s.quartz < due) :
    exec (.coalTimeExpiry part q) s = .next s := by
  change execCoalTimeExpiry part q s = _
  rw [execCoalTimeExpiry]
  dsimp only
  split
  · rfl
  next due armed => exact if_pos (.inl (early due armed))

/-- A message to a vector that is not masked is sent, -/
theorem State.msixSend_unmasked (f : Func) (v : Nat) (h : s.msixMasked (funcCode f) v = false) : s.msixSend f v = s.emit (.msix f v) := by
  simp [State.msixSend, h]

/-- and one to a masked vector left pending. -/
theorem State.msixSend_masked (f : Func) (v : Nat) (h : s.msixMasked (funcCode f) v = true) :
    (s.msixSend f v).out = s.out ∧ (funcCode f, v) ∈ (s.msixSend f v).hq.msixPend := by
  rw [State.msixSend, if_pos h]
  split
  next pend => exact ⟨rfl, by simpa using pend⟩
  · exact ⟨rfl, by simp⟩

/-- It changes nothing else. -/
theorem State.msixSend_only (s : State) (f : Func) (v : Nat) :
    s.msixSend f v = { s with hq := { s.hq with msixPend := (s.msixSend f v).hq.msixPend }, out := (s.msixSend f v).out } := by
  have only := (s.msixSend_onlyFields f v).2.2
  rwa [State.msixSend_regs] at only

/-! ## Their statement -/

/-- Settles O15: case by case of what a chunk, a DMA error and an expiry find. -/
theorem chunksErrorsAndCoalescing : Obligations.ChunksErrorsAndCoalescing := by
  unfold Obligations.ChunksErrorsAndCoalescing
  refine ⟨fun c data cmd s at_ host from_ some_ ahead => ?_, fun k s h => s.pump_idle h, fun c data s held => ?_,
    fun c rest e s granted host some_ window peer => ?_, fun c cmd e s at_ peer => ⟨fun host window => ?_, fun host window => ?_⟩,
    fun c rest k e s link picked host some_ window => ?_, fun k tag x s found host some_ window => ?_,
    fun part q due f s armed late some_ own => ?_, fun part q s early => execCoalTimeExpiry_early early⟩
  · intro x n bar wait takes
    have go : ¬ s.chunkHeld c cmd := by
      simp only [State.chunkHeld, host, bar, not_or]
      simp only [not_lt, not_le, from_, some_]
      refine ⟨by decide, trivial, trivial, fun ⟨far, code⟩ => ?_, by decide, by rw [wait]; decide⟩
      rcases ahead with near | empty
      · omega
      · exact code empty
    have arrives := execInputChunkRead_arrives data at_ go
    refine ⟨fun window => ?_, fun r window read => ?_, fun window fails => ?_⟩
    · rw [arrives, window]; rfl
    · rw [arrives, window, if_pos rfl, read]
    · rw [arrives, window, if_pos rfl, fails]
  · cases at_ : (s.ctx (ctxKey c)).cmd with
    | none => exact execInputChunkRead_idle data at_
    | some cmd => exact execInputChunkRead_held data at_ (held cmd at_)
  · show execDataDmaError (.staged e) s = _
    simp [execDataDmaError, granted, host, some_, window, peer]
    rfl
  · show execDataDmaError (.input c e) s = _
    simp [execDataDmaError, at_, host, window, peer, State.funcOf]
  · show execDataDmaError (.output c) s = _
    simp [execDataDmaError, at_, host, window, peer, State.funcOf]
  · show execDataDmaError (.forwardInput e) s = _
    simp [execDataDmaError, link, picked, host, some_, window]
    rfl
  · show execDataDmaError (.forwardOutput k tag) s = _
    simp [execDataDmaError, found, host, some_, window]
    rfl
  · refine ⟨_, execCoalTimeExpiry_due armed late some_ own, ?_⟩
    have only := (s.updQp part q QueuePair.signalled).msixSend_only f (s.qp part q).vector
    refine ⟨?_, fun p' q' ne => ?_, fun plain => ?_, fun masked => State.msixSend_masked f _ masked, ?_⟩
    · rw [only]; exact State.qp_updQp_same ..
    · rw [only]; exact State.qp_updQp_ne _ _ _ _ _ _ (Ne.symm ne)
    · rw [State.msixSend_unmasked (s := s.updQp part q QueuePair.signalled) f _ plain]; exact ⟨rfl, rfl⟩
    · rw [only]; rfl

end Sys2Proof.Machine
end

section
/-! SUPPORT. STORE (R42, R65): a result in its place among those of its context, and where its bytes go. -/
namespace Sys2Proof.Machine

variable {s : State} {c : Ctx} {w : Insn} {x : Context} {k : Nat}

/-! ## A retired instruction whose context is written again -/

theorem retires_setCtx {n : Nat} {y z : Context} {u : State} (h : retires k n y s u) : retires k n z s (u.setCtx k z.step) := by
  obtain ⟨-, issued, retired, others, kept, only⟩ := h
  refine ⟨State.ctx_setCtx_same .., issued, retired, fun j hj => (State.ctx_setCtx_ne _ _ _ _ (Ne.symm hj)).trans (others j hj), kept, ?_⟩
  rw [only]; rfl

theorem retires_updCtx {n : Nat} {y z : Context} {u : State} {f : Context → Context} (h : retires k n y s u) (hf : f y.step = z.step) :
    retires k n z s (u.updCtx k f) := by
  rw [State.updCtx, h.1, ← Context.step, hf]
  exact retires_setCtx h

theorem retires_branches {pc : Nat} {y : Context} {u : State} {f : Context → Context} (h : retires k 1 y s u)
    (hf : f y.step = { y with pc := pc, retired := y.retired + 1 }) : branches k pc y s (u.updCtx k f) := by
  obtain ⟨own, issued, retired, others, kept, only⟩ := h
  refine ⟨by rw [State.ctx_updCtx_same, own]; exact hf, issued, retired, fun j hj => (State.ctx_updCtx_ne _ _ _ _ (Ne.symm hj)).trans (others j hj), kept, ?_⟩
  rw [only]; rfl

/-! ## A result performed -/

/-- A result without output writes RESULT and registers alone. -/
theorem State.perform_quiet {e : Effect} (none_ : e.output = []) (auth : e.authFail = false) (at_ : (s.ctx k).cmd.isSome = true) :
    s.perform k e = s.updCtx k fun x => { e.regs.foldl (fun x r => x.land e.num r) x with
      result := e.result.foldl (fun r p => overlay p.1 p.2 r) (e.regs.foldl (fun x r => x.land e.num r) x).result } := by
  have busy : (s.ctx k).cmd.isNone = false := by cases h : (s.ctx k).cmd <;> simp_all
  simp only [State.perform, none_, List.foldl_nil, busy, auth, if_neg Bool.false_ne_true]

/-- A result that is one string of output bytes goes out; its context, if it still serves its command, stands as that left it. -/
theorem State.perform_output (off pc num : Nat) (bs : List Byte) :
    s.perform k { output := [(off, bs)], pc, num } =
      if ((s.outputAt k pc off bs).ctx k).cmd.isNone then s.outputAt k pc off bs else (s.outputAt k pc off bs).updCtx k id := by
  simp only [State.perform, List.foldl_cons, List.foldl_nil]
  rfl

theorem sameContexts_updCtx_id (s : State) (k : Nat) : sameContexts s (s.updCtx k id) := by
  refine ⟨fun j => ?_, rfl⟩
  by_cases h : k = j
  · subst h; exact State.ctx_updCtx_same ..
  · exact State.ctx_updCtx_ne _ _ _ _ h

theorem Context.vr_take_ne (x : Context) (i n : Nat) : ((x.vr i).take (n + 1)).isEmpty = false := by
  have long : (x.vr i).length = 16 := fitBytes_length ..
  cases h : x.vr i with
  | nil => rw [h] at long; cases long
  | cons b bs => rfl

/-! ## Where output bytes go -/

section
variable {cmd : Cmd} {off pc : Nat} {bs : List Byte}

theorem State.outputAt_inline (at_ : (s.ctx k).cmd = some cmd) (some_ : bs.isEmpty = false) (inl : cmd.desc.outInline = true) :
    s.outputAt k pc off bs = if 16 ≤ off then s else s.setCtx k { s.ctx k with result := overlay off bs (s.ctx k).result } := by
  simp only [State.outputAt, at_, some_, inl, if_true, if_neg Bool.false_ne_true]

theorem State.outputAt_nothing (at_ : (s.ctx k).cmd = some cmd) (inl : cmd.desc.outInline = false) (none_ : bs.take (cmd.desc.outLen - off) = []) :
    s.outputAt k pc off bs = s := by
  simp only [State.outputAt, at_, inl, none_, if_neg Bool.false_ne_true, List.isEmpty_nil, if_true, ite_self]

theorem State.outputAt_area (at_ : (s.ctx k).cmd = some cmd) (some_ : bs.isEmpty = false) (inl : cmd.desc.outInline = false)
    (kept : bs.take (cmd.desc.outLen - off) ≠ []) :
    s.outputAt k pc off bs =
      if isWindow cmd.desc.outAddr ∧ cmd.peer.isNone then
        if s.windowFits cmd.part cmd.desc.outAddr cmd.desc.outLen = false then (s.updCtx k fun x => { x with pc }).endAt k stAborted 3
        else
          let r := (s.updCtx k fun x => { x with wrote := true }).dmaWrite (s.dmaMpu cmd) cmd.part (s.windowAddr cmd.part cmd.desc.outAddr + off)
            (bs.take (cmd.desc.outLen - off))
          if r.2 then (r.1.updCtx k fun x => { x with pc }).endAt k stAborted 2 else r.1
      else
        match cmd.peer, s.qpFunc cmd.part cmd.qp with
        | some (link, tag), _ => (s.updCtx k fun x => { x with wrote := true }).sendOn link (.peerOutput link tag off (bs.take (cmd.desc.outLen - off)))
        | none, some f => ((s.updCtx k fun x => { x with wrote := true }).crossPort f).emit (.hostWrite f (cmd.desc.outAddr + off) (bs.take (cmd.desc.outLen - off)))
        | none, none => s.updCtx k fun x => { x with wrote := true } := by
  have kept' : (bs.take (cmd.desc.outLen - off)).isEmpty = false := by simpa using kept
  simp only [State.outputAt, at_, some_, inl, kept', if_neg Bool.false_ne_true]
  simp only [Bool.not_eq_true']
  rfl

end

/-- What says where output goes reads no context and no register. -/
theorem State.retire_part (s : State) (k n p : Nat) (x : Context) : (s.retire k n x).part p = s.part p := rfl

theorem State.retire_windowFits (s : State) (k n p a l : Nat) (x : Context) : (s.retire k n x).windowFits p a l = s.windowFits p a l := by
  rw [State.windowFits, State.retire_part, State.windowFits]

theorem State.retire_windowAddr (s : State) (k n p a : Nat) (x : Context) : (s.retire k n x).windowAddr p a = s.windowAddr p a := by
  rw [State.windowAddr, State.retire_part, State.windowAddr]

theorem State.retire_qpFunc (s : State) (k n p q : Nat) (x : Context) : (s.retire k n x).qpFunc p q = s.qpFunc p q := by
  simp only [State.qpFunc, State.namedFunc, State.retire_part]
  rfl

theorem State.retire_dmaMpu (s : State) (k n : Nat) (cmd : Cmd) (x : Context) : (s.retire k n x).dmaMpu cmd = s.dmaMpu cmd := by
  rw [State.dmaMpu, State.retire_qpFunc, State.dmaMpu]

/-! ## STRES and STOUT -/

theorem State.inOrder_behind {e : Effect} (behind : (s.ctx k).issued ≠ (s.ctx k).released) :
    s.inOrder k e = s.setCtx k { s.ctx k with issued := (s.ctx k).issued + 1, finished := (s.ctx k).finished ++ [((s.ctx k).issued, e)] } := if_neg behind

theorem State.inOrder_turn {e : Effect} (turn : (s.ctx k).issued = (s.ctx k).released) : s.inOrder k e = s.perform k e := if_pos turn

theorem State.retire_ctx (s : State) (k n : Nat) (x : Context) : (s.retire k n x).ctx k = x.step := State.ctx_setCtx_same ..

/-- A result behind others of its context waits for its turn. -/
theorem State.issue_inOrder_behind {cls op : Nat} {run : Context → Result} {e : Effect} (h : s.readyCtx (ctxKey c) cls op w = some x)
    (hr : run x = .next ((s.retire (ctxKey c) 1 x).inOrder (ctxKey c) e)) (behind : x.issued ≠ x.released) :
    ∃ t, s.issue c cls op w run = .next t ∧
      retires (ctxKey c) 1 { x with issued := x.issued + 1, finished := x.finished ++ [(x.issued, e)] } s t := by
  rw [State.inOrder_behind (by rw [State.retire_ctx]; exact behind), State.retire_ctx] at hr
  refine ⟨_, s.issue_ready h hr (.inr ?_), retires_setCtx (s.retire_retires _ _ _)⟩
  rw [State.ctx_setCtx_same]
  exact (s.readyCtx_runs h : x.cmd.isSome = true)

section
variable {cmd : Cmd}

/-- STOUT whose turn has come, where its output leaves the command to go on. -/
theorem execStout_goes (h : s.readyCtx (ctxKey c) 0x1 0x1 w = some x) (turn : x.issued = x.released)
    (on : (((s.retire (ctxKey c) 1 x).outputAt (ctxKey c) x.pc (x.offset w (immBits w 0 24) w.b) ((x.vr w.a).take (modBits w 0 4 + 1))).ctx (ctxKey c)).cmd.isSome = true) :
    exec (.stout c w) s =
      .next (((s.retire (ctxKey c) 1 x).outputAt (ctxKey c) x.pc (x.offset w (immBits w 0 24) w.b) ((x.vr w.a).take (modBits w 0 4 + 1))).updCtx (ctxKey c) id) := by
  change execStout c w s = _
  refine s.issue_ready h ?_ (.inr ?_)
  · dsimp only
    rw [State.inOrder_turn (by rw [State.retire_ctx]; exact turn), State.perform_output, if_neg (by rw [← Option.not_isSome, on]; decide)]
  · rw [State.ctx_updCtx_same]; exact on

/-- STOUT whose turn has come, where its output ends the command: not before the earlier operations have completed. -/
theorem execStout_ends (h : s.readyCtx (ctxKey c) 0x1 0x1 w = some x) (turn : x.issued = x.released)
    (off : (((s.retire (ctxKey c) 1 x).outputAt (ctxKey c) x.pc (x.offset w (immBits w 0 24) w.b) ((x.vr w.a).take (modBits w 0 4 + 1))).ctx (ctxKey c)).cmd = none) :
    exec (.stout c w) s = .next (whenSettled s (ctxKey c)
      ((s.retire (ctxKey c) 1 x).outputAt (ctxKey c) x.pc (x.offset w (immBits w 0 24) w.b) ((x.vr w.a).take (modBits w 0 4 + 1)))) := by
  change execStout c w s = _
  have body : (s.retire (ctxKey c) 1 x).inOrder (ctxKey c)
      { output := [(x.offset w (immBits w 0 24) w.b, (x.vr w.a).take (modBits w 0 4 + 1))], pc := x.pc, num := x.retired } =
      (s.retire (ctxKey c) 1 x).outputAt (ctxKey c) x.pc (x.offset w (immBits w 0 24) w.b) ((x.vr w.a).take (modBits w 0 4 + 1)) := by
    rw [State.inOrder_turn (by rw [State.retire_ctx]; exact turn), State.perform_output, if_pos (by rw [off]; rfl)]
  unfold whenSettled
  split
  next settled => exact s.issue_ready h (congrArg _ body) (.inl settled)
  next early => exact s.issue_early h (congrArg _ body) (by simpa using early) (by rw [off]; rfl)

/-- The output bytes of STOUT that lie below OUT_LEN. -/
def stoutKept (cmd : Cmd) (w : Insn) (x : Context) : List Byte := ((x.vr w.a).take (modBits w 0 4 + 1)).take (cmd.desc.outLen - x.offset w (immBits w 0 24) w.b)

/-- STOUT to the output area, before what follows it. -/
theorem stout_area {k : Nat} (serves : x.cmd = some cmd) (area : cmd.desc.outInline = false) (some_ : stoutKept cmd w x ≠ []) :
    let off := x.offset w (immBits w 0 24) w.b
    let u := (s.retire k 1 x).updCtx k fun x => { x with wrote := true }
    (s.retire k 1 x).outputAt k x.pc off ((x.vr w.a).take (modBits w 0 4 + 1)) =
      if isWindow cmd.desc.outAddr ∧ cmd.peer.isNone then
        if s.windowFits cmd.part cmd.desc.outAddr cmd.desc.outLen = false then
          ((s.retire k 1 x).updCtx k fun y => { y with pc := x.pc }).endAt k stAborted 3
        else
          let r := u.dmaWrite (s.dmaMpu cmd) cmd.part (s.windowAddr cmd.part cmd.desc.outAddr + off) (stoutKept cmd w x)
          if r.2 then (r.1.updCtx k fun y => { y with pc := x.pc }).endAt k stAborted 2 else r.1
      else
        match cmd.peer, s.qpFunc cmd.part cmd.qp with
        | some (link, tag), _ => u.sendOn link (.peerOutput link tag off (stoutKept cmd w x))
        | none, some f => (u.crossPort f).emit (.hostWrite f (cmd.desc.outAddr + off) (stoutKept cmd w x))
        | none, none => u := by
  have out := (s.retire k 1 x).outputAt_area (off := x.offset w (immBits w 0 24) w.b) (pc := x.pc) (by rw [State.retire_ctx]; exact serves)
    (x.vr_take_ne _ _) area some_
  rw [State.retire_windowFits, State.retire_windowAddr, State.retire_qpFunc, State.retire_dmaMpu] at out
  exact out

/-- STOUT of a command whose output goes to the host or to a peer. -/
theorem execStout_sends (h : s.readyCtx (ctxKey c) 0x1 0x1 w = some x) (turn : x.issued = x.released) (serves : x.cmd = some cmd)
    (area : cmd.desc.outInline = false) (there : isWindow cmd.desc.outAddr = false ∨ cmd.peer ≠ none) (some_ : stoutKept cmd w x ≠ []) :
    let u := (s.retire (ctxKey c) 1 x).updCtx (ctxKey c) fun x => { x with wrote := true }
    let off := x.offset w (immBits w 0 24) w.b
    ∃ t, exec (.stout c w) s = .next t ∧ sameContexts (match cmd.peer, s.qpFunc cmd.part cmd.qp with
      | some (link, tag), _ => u.sendOn link (.peerOutput link tag off (stoutKept cmd w x))
      | none, some f => (u.crossPort f).emit (.hostWrite f (cmd.desc.outAddr + off) (stoutKept cmd w x))
      | none, none => u) t := by
  intro u off
  have out := stout_area (s := s) (k := ctxKey c) serves area some_
  dsimp only at out
  rw [if_neg (by rcases there with host | fwd <;> simp_all)] at out
  refine ⟨_, execStout_goes h turn ?_, Eq.mp (congrArg (fun u => sameContexts u _) out) (sameContexts_updCtx_id _ _)⟩
  have same : ((s.retire (ctxKey c) 1 x).outputAt (ctxKey c) x.pc off ((x.vr w.a).take (modBits w 0 4 + 1))).tasks = u.tasks := by
    rw [out]
    split <;> simp [u]
  rw [State.ctx_of_tasks same, State.ctx_updCtx_same, State.retire_ctx]
  exact congrArg Option.isSome serves

/-- STOUT past the end of its work window. -/
theorem execStout_past (h : s.readyCtx (ctxKey c) 0x1 0x1 w = some x) (turn : x.issued = x.released) (serves : x.cmd = some cmd)
    (area : cmd.desc.outInline = false) (window : isWindow cmd.desc.outAddr = true) (peer : cmd.peer = none) (some_ : stoutKept cmd w x ≠ [])
    (past : s.windowFits cmd.part cmd.desc.outAddr cmd.desc.outLen = false) :
    exec (.stout c w) s = .next (whenSettled s (ctxKey c)
      (((s.retire (ctxKey c) 1 x).updCtx (ctxKey c) fun y => { y with pc := x.pc }).endAt (ctxKey c) stAborted 3)) := by
  have out := stout_area (s := s) (k := ctxKey c) serves area some_
  dsimp only at out
  rw [if_pos ⟨window, by simp [peer]⟩, if_pos past] at out
  rw [← out]
  refine execStout_ends h turn ?_
  rw [out]
  exact State.endCommand_ctx_cmd _ _ _ _ _ (by rw [State.ctx_updCtx_same, State.retire_ctx]; exact congrArg Option.isSome serves)

/-- STOUT within its work window. -/
theorem execStout_window (h : s.readyCtx (ctxKey c) 0x1 0x1 w = some x) (turn : x.issued = x.released) (serves : x.cmd = some cmd)
    (area : cmd.desc.outInline = false) (window : isWindow cmd.desc.outAddr = true) (peer : cmd.peer = none) (some_ : stoutKept cmd w x ≠ [])
    (fits : s.windowFits cmd.part cmd.desc.outAddr cmd.desc.outLen = true)
    {r : State × Bool} (written : ((s.retire (ctxKey c) 1 x).updCtx (ctxKey c) fun x => { x with wrote := true }).dmaWrite (s.dmaMpu cmd) cmd.part
      (s.windowAddr cmd.part cmd.desc.outAddr + x.offset w (immBits w 0 24) w.b) (stoutKept cmd w x) = r) :
    (r.2 = false → ∃ t, exec (.stout c w) s = .next t ∧ sameContexts r.1 t) ∧
    (r.2 = true → exec (.stout c w) s =
      .next (whenSettled s (ctxKey c) ((r.1.updCtx (ctxKey c) fun y => { y with pc := x.pc }).endAt (ctxKey c) stAborted 2))) := by
  have out := stout_area (s := s) (k := ctxKey c) serves area some_
  dsimp only at out
  rw [if_pos ⟨window, by simp [peer]⟩, if_neg (by rw [fits]; decide), written] at out
  have wrote : (r.1.ctx (ctxKey c)).cmd.isSome = true := by
    rw [← written, State.ctx_of_tasks (State.dmaWrite_tasks ..), State.ctx_updCtx_same, State.retire_ctx]
    exact congrArg Option.isSome serves
  refine ⟨fun clean => ?_, fun poisoned => ?_⟩
  · rw [clean, if_neg Bool.false_ne_true] at out
    exact ⟨_, execStout_goes h turn (by rw [out]; exact wrote), Eq.mp (congrArg (fun u => sameContexts u _) out) (sameContexts_updCtx_id _ _)⟩
  · rw [poisoned, if_pos rfl] at out
    rw [← out]
    refine execStout_ends h turn ?_
    rw [out]
    exact State.endCommand_ctx_cmd _ _ _ _ _ (by rw [State.ctx_updCtx_same]; exact wrote)

/-! ## Their statement -/

/-- Settles O18: STRES, and STOUT by where its bytes go. -/
theorem storesReachResultOrTheOutputArea : Obligations.StoresReachResultOrTheOutputArea := by
  intro c w x cmd s k off bs kept serves
  have more : bs.isEmpty = false := x.vr_take_ne _ _
  have at_ : ((s.retire k 1 x).ctx k).cmd = some cmd := by rw [State.retire_ctx]; exact serves
  have left := s.retire_retires k 1 x
  refine ⟨fun h => ⟨fun turn => ?_, fun behind => State.issue_inOrder_behind h rfl behind⟩, fun h behind => State.issue_inOrder_behind h rfl behind,
    fun h turn inl => ?_, fun h turn area none_ => ?_, fun h turn area there some_ => ?_, fun h turn area window peer some_ => ⟨fun past => ?_, fun fits => ?_⟩⟩
  · have quiet : (s.retire k 1 x).inOrder k { result := [(immBits w 0 4, (x.vr w.a).take (immBits w 4 4 + 1))], pc := x.pc, num := x.retired } =
        (s.retire k 1 x).updCtx k fun y => { y with result := overlay (immBits w 0 4) ((x.vr w.a).take (immBits w 4 4 + 1)) y.result } := by
      rw [State.inOrder_turn (by rw [State.retire_ctx]; exact turn), State.perform_quiet rfl rfl (by rw [at_]; rfl)]
      rfl
    refine ⟨_, s.issue_ready h (congrArg _ quiet) (.inr ?_), retires_updCtx left rfl⟩
    rw [State.ctx_updCtx_same]
    exact (congrArg Option.isSome at_).trans rfl
  · have out := (s.retire k 1 x).outputAt_inline (off := off) (pc := x.pc) at_ more inl
    have done : retires k 1 { x with result := if off < 16 then overlay off bs x.result else x.result } s ((s.retire k 1 x).outputAt k x.pc off bs) := by
      rw [out, State.retire_ctx]
      by_cases past : 16 ≤ off
      · rw [if_pos past, if_neg (by omega)]; exact left
      · rw [if_neg past, if_pos (by omega)]; exact retires_setCtx (u := s.retire k 1 x) left
    exact ⟨_, execStout_goes h turn (by rw [done.1]; exact congrArg Option.isSome serves), retires_updCtx done rfl⟩
  · have out := (s.retire k 1 x).outputAt_nothing (off := off) (pc := x.pc) (bs := bs) at_ area none_
    have go := execStout_goes h turn (by rw [out, at_]; rfl)
    rw [out] at go
    exact ⟨_, go, retires_updCtx left rfl⟩
  · exact ⟨_, retires_updCtx (f := fun x => { x with wrote := true }) left rfl, execStout_sends h turn serves area there some_⟩
  · exact ⟨_, retires_branches (f := fun y => { y with pc := x.pc }) left rfl, execStout_past h turn serves area window peer some_ past⟩
  · exact ⟨_, retires_updCtx (f := fun x => { x with wrote := true }) left rfl, execStout_window h turn serves area window peer some_ fits rfl⟩
end

end Sys2Proof.Machine
end

section
/-! SUPPORT. Issue to the lanes (R65, R72, R91, R93): what placing an operation and pumping a stream leave alone; CIPH. -/
namespace Sys2Proof.Machine

variable {s t u : State} {k : Nat}

theorem clusterOf_ctxKey (c : Ctx) : clusterOf (ctxKey c) = c.cc.val := by
  have := c.ix.isLt
  unfold clusterOf ctxKey
  omega

/-! ## A lane that is open -/

/-- The lane with the least work is one of those allowed. -/
theorem State.leastWork_ok {n l : Nat} {ok : Nat → Bool} (h : s.leastWork n ok = some l) : ok l = true := by
  have step : ∀ (ls : List Nat) (b : Option Nat), (∀ m, b = some m → ok m = true) →
      ls.foldl (fun best l => if ok l then
        match best with
        | none => some l
        | some b => if (s.lane n l).work < (s.lane n b).work then some l else best
        else best) b = some l → ok l = true := by
    intro ls
    induction ls with
    | nil => exact fun b hb h => hb l h
    | cons m ls ih =>
      refine fun b hb => ih _ fun m' hm' => ?_
      dsimp only at hm'
      split at hm'
      next on =>
        split at hm'
        · cases hm'; exact on
        · split at hm'
          · cases hm'; exact on
          · exact hb _ hm'
      · exact hb _ hm'
  exact step _ none (fun _ h => nomatch h) h

theorem State.pickLane_open {n l : Nat} {chained : Option Nat} (h : s.pickLane n chained = some l) : s.laneOpen n l = true := by
  unfold State.pickLane at h
  split at h
  · split at h
    next on => cases h; exact on
    · cases h
  · exact State.leastWork_ok h

theorem State.laneOpen_wait {n l : Nat} (h : s.laneOpen n l = true) : (s.lane n l).wait = none := by
  simp only [State.laneOpen, Bool.and_eq_true, Option.isNone_iff_eq_none] at h
  exact h.1.2

/-! ## An operation placed -/

theorem State.lane_place_same (n l : Nat) (o : UnitOp) :
    (s.place n l o).lane n l = if (s.lane n l).exec.isNone then (s.lane n l).begin o s.quartz else (s.lane n l).queue o :=
  State.lane_updLane_same ..

theorem State.lane_place_ne {n l n' l' : Nat} (o : UnitOp) (h : laneKey n' l' ≠ laneKey n l) : (s.place n l o).lane n' l' = s.lane n' l' := by
  simp [State.place, State.lane, State.updLane, Sparse.get_upd_ne _ _ _ (Ne.symm h)]

theorem State.lane_place_key {n l n' l' : Nat} (o : UnitOp) (h : laneKey n' l' = laneKey n l) : (s.place n l o).lane n' l' = (s.place n l o).lane n l := by
  rw [State.lane, h]; rfl

/-- What stands in a lane after an operation is placed in an open one: what stood there, and the operation. -/
theorem State.place_stands {n l : Nat} (op : s.laneOpen n l = true) (o : UnitOp) (n' l' : Nat) (q : UnitOp) :
    (((s.lane n' l').exec = some q → ((s.place n l o).lane n' l').exec = some q) ∧
      ((s.lane n' l').wait = some q → ((s.place n l o).lane n' l').wait = some q)) ∧
    (((s.place n l o).lane n' l').exec = some q ∨ ((s.place n l o).lane n' l').wait = some q →
      ((s.lane n' l').exec = some q ∨ (s.lane n' l').wait = some q) ∨ q = o) := by
  by_cases key : laneKey n' l' = laneKey n l
  · have here : s.lane n' l' = s.lane n l := by rw [State.lane, key]; rfl
    rw [State.lane_place_key o key, State.lane_place_same, here]
    have free := State.laneOpen_wait op
    have one : some o = some q ↔ q = o := by rw [Option.some_inj, eq_comm]
    cases busy : (s.lane n l).exec with
    | none => simp [Lane.begin, free, one]
    | some r => simp [Lane.queue, busy, free, one]
  · rw [State.lane_place_ne o key]
    exact ⟨⟨id, id⟩, .inl⟩

/-! ## A stream pumped (R91-R93) -/

/-- What pumping the stream of context `k` leaves: the context but the fields a stream moves on, every other context, whatever stands in a lane; and what
it adds to the lanes is the context's, numbered on. -/
structure Pumped (k : Nat) (s t : State) : Prop where
  own : t.ctx k = { s.ctx k with run := (t.ctx k).run, home := (t.ctx k).home, issued := (t.ctx k).issued, stream := (t.ctx k).stream,
                                 ip := (t.ctx k).ip, op := (t.ctx k).op }
  others : ∀ j, j ≠ k → t.ctx j = s.ctx j
  rest : t = { s with sq := { s.sq with ctxs := t.sq.ctxs }, ci := { s.ci with lanes := t.ci.lanes } }
  issued : (s.ctx k).issued ≤ (t.ctx k).issued
  stand : ∀ n l o, ((s.lane n l).exec = some o → (t.lane n l).exec = some o) ∧ ((s.lane n l).wait = some o → (t.lane n l).wait = some o)
  added : ∀ n l o, (t.lane n l).exec = some o ∨ (t.lane n l).wait = some o →
    ((s.lane n l).exec = some o ∨ (s.lane n l).wait = some o) ∨
    (o.owner = some k ∧ ∀ i, o.place = some i → (s.ctx k).issued ≤ i ∧ i < (t.ctx k).issued)

theorem Pumped.refl (k : Nat) (s : State) : Pumped k s s :=
  ⟨rfl, fun _ _ => rfl, rfl, le_rfl, fun _ _ _ => ⟨id, id⟩, fun _ _ _ => .inl⟩

theorem Pumped.trans (h : Pumped k s t) (g : Pumped k t u) : Pumped k s u where
  own := by rw [g.own, h.own]
  others j hj := (g.others j hj).trans (h.others j hj)
  rest := by rw [g.rest, h.rest]
  issued := h.issued.trans g.issued
  stand n l o := ⟨fun e => (g.stand n l o).1 ((h.stand n l o).1 e), fun e => (g.stand n l o).2 ((h.stand n l o).2 e)⟩
  added n l o here := by
    rcases g.added n l o here with there | ⟨own, range⟩
    · rcases h.added n l o there with before | ⟨own, range⟩
      · exact .inl before
      · exact .inr ⟨own, fun i hi => ⟨(range i hi).1, (range i hi).2.trans_le g.issued⟩⟩
    · exact .inr ⟨own, fun i hi => ⟨h.issued.trans (range i hi).1, (range i hi).2⟩⟩

/-- An operation of context `k` placed in an open lane, its number the next if it has one. -/
theorem Pumped.place {n l : Nat} {o : UnitOp} {y : Context} (op : s.laneOpen n l = true) (own : o.owner = some k)
    (same : y = { s.ctx k with run := y.run, home := y.home, issued := y.issued, stream := y.stream, ip := y.ip, op := y.op })
    (on : (s.ctx k).issued ≤ y.issued) (range : ∀ i, o.place = some i → (s.ctx k).issued ≤ i ∧ i < y.issued) :
    Pumped k s ((s.place n l o).setCtx k y) where
  own := by rw [State.ctx_setCtx_same]; exact same
  others j hj := State.ctx_setCtx_ne _ _ _ _ (Ne.symm hj)
  rest := rfl
  issued := by rw [State.ctx_setCtx_same]; exact on
  stand n' l' q := (State.place_stands op o n' l' q).1
  added n' l' q here := by
    rcases (State.place_stands op o n' l' q).2 here with before | rfl
    · exact .inl before
    · exact .inr ⟨own, by rw [State.ctx_setCtx_same]; exact range⟩

/-- Where nothing orphans a key of its context, pumping keeps what `Pumped` says. -/
theorem State.pump_pumped (k fuel : Nat) (s : State) (h : s.orphanField (s.ctx k) = none) : Pumped k s (s.pump k fuel) := by
  induction fuel generalizing s with
  | zero => exact Pumped.refl k s
  | succ fuel ih =>
    rw [State.pump]
    dsimp only
    split
    · exact Pumped.refl k s
    next r run =>
      rw [h]
      dsimp only
      split
      · exact Pumped.refl k s
      · split
        · exact Pumped.refl k s
        next l picked =>
          refine Pumped.trans (Pumped.place (State.pickLane_open picked) rfl rfl ?_ ?_) (ih _ ?_)
          · dsimp only; split <;> omega
          · intro i hi
            dsimp only at hi ⊢
            split at hi
            next out => cases hi; rw [if_pos out]; omega
            · cases hi
          · rw [State.ctx_setCtx_same]; exact h

/-- A stream over a key that a fence has orphaned ends its command. -/
theorem State.pump_orphaned {fuel f : Nat} {r : StreamRun} (run : (s.ctx k).run = some r) (orphan : s.orphanField (s.ctx k) = some f) :
    s.pump k (fuel + 1) = (s.updCtx k fun x => { x with pc := r.pc }).endCommand k stKeyOrphaned f := by
  rw [State.pump, run]
  dsimp only
  rw [orphan]

/-! ## Results in their order (R65, R93) -/

theorem State.releaseNext_none {fuel : Nat} (h : ∀ f ∈ (s.ctx k).finished, f.1 ≠ (s.ctx k).released) : s.releaseNext k fuel = s := by
  cases fuel with
  | zero => rfl
  | succ fuel =>
    have none_ : (s.ctx k).finished.find? (·.1 == (s.ctx k).released) = none := List.find?_eq_none.mpr fun f hf => by simpa using h f hf
    simp only [State.releaseNext, none_]

/-- A result whose turn has not come waits. -/
theorem State.release_waits {i : Nat} (e : Effect) (none_ : ∀ f ∈ (s.ctx k).finished, f.1 ≠ (s.ctx k).released) (early : i ≠ (s.ctx k).released) :
    s.release k (some i) e = s.setCtx k { s.ctx k with finished := (s.ctx k).finished ++ [(i, e)] } := by
  refine State.releaseNext_none fun f hf => ?_
  rw [State.ctx_updCtx_same] at hf ⊢
  rcases List.mem_append.mp hf with old | new
  · exact none_ f old
  · rw [List.mem_singleton.mp new]; exact early

/-- A context with the register values of a result, each unless a later instruction writes it. -/
def Context.lands (x : Context) (num : Nat) (rs : List (Nat × List Byte)) : Context := rs.foldl (fun x r => x.land num r) x

theorem Context.lands_order (x : Context) (rs : List (Nat × List Byte)) (num : Nat) :
    (x.lands num rs).finished = x.finished ∧ (x.lands num rs).released = x.released := by
  refine foldl_keeps (fun y : Context => y.finished = x.finished ∧ y.released = x.released) _ (fun y r h => ?_) rs x ⟨rfl, rfl⟩
  unfold Context.land
  split
  · exact h
  · exact h

/-- A result that only writes registers, where the next has not finished, is the last one released. -/
theorem State.releaseNext_alone {y : Context} {e : Effect} {fuel : Nat} (at_ : s.ctx k = y) (quiet : e.output = []) (res : e.result = [])
    (auth : e.authFail = false) (serves : y.cmd.isSome = true) (next : ∀ f ∈ y.finished, f.1 ≠ y.released) :
    ((s.perform k e).releaseNext k fuel).ctx k = y.lands e.num e.regs := by
  have own : (s.perform k e).ctx k = y.lands e.num e.regs := by
    rw [State.perform_quiet quiet auth (at_ ▸ serves), res, State.ctx_updCtx_same, at_]
    rfl
  obtain ⟨finished, released⟩ := y.lands_order e.regs e.num
  rw [State.releaseNext_none (by rw [own, finished, released]; exact next), own]

/-- One whose turn has come, where the next has not finished, is performed alone. -/
theorem State.release_turn {i : Nat} {e : Effect} (none_ : ∀ f ∈ (s.ctx k).finished, f.1 ≠ (s.ctx k).released) (turn : i = (s.ctx k).released)
    (next : ∀ f ∈ (s.ctx k).finished, f.1 ≠ i + 1) (quiet : e.output = []) (res : e.result = []) (auth : e.authFail = false)
    (serves : (s.ctx k).cmd ≠ none) :
    (s.release k (some i) e).ctx k = ({ s.ctx k with released := i + 1 } : Context).lands e.num e.regs := by
  subst turn
  have found : ((s.ctx k).finished ++ [((s.ctx k).released, e)]).find? (·.1 == (s.ctx k).released) = some ((s.ctx k).released, e) := by
    rw [List.find?_append, List.find?_eq_none.mpr fun f hf => by simpa using none_ f hf]
    simp
  have rest : ((s.ctx k).finished ++ [((s.ctx k).released, e)]).filter (·.1 ≠ (s.ctx k).released) = (s.ctx k).finished := by
    rw [List.filter_append, List.filter_eq_self.mpr fun f hf => by simpa using none_ f hf]
    simp
  have busy : (s.ctx k).cmd.isSome = true := Option.isSome_iff_ne_none.mpr serves
  rw [State.release, State.releaseNext, State.ctx_updCtx_same]
  dsimp only
  rw [found]
  dsimp only
  rw [rest]
  refine State.releaseNext_alone ?_ quiet res auth busy next
  rw [State.ctx_setCtx_same]

/-- Settles O22: pumping keeps what stands in the lanes and adds the context's operations; results are released by their numbers. -/
theorem streamPartsLeaveInOrder : Obligations.StreamPartsLeaveInOrder := by
  refine ⟨fun k fuel f r s run orphan => State.pump_orphaned run orphan, fun k fuel s h => ?_, fun k i e s none_ => ⟨State.release_waits e none_, ?_⟩,
    fun k e s => ⟨fun turn => State.inOrder_turn turn, fun behind => State.inOrder_behind behind⟩⟩
  · intro t
    obtain ⟨own, others, rest, issued, stand, added⟩ := s.pump_pumped k fuel h
    exact ⟨own, others, rest, issued, fun idle => State.pump_idle idle, stand, added⟩
  · intro turn next quiet res auth serves
    rw [State.release_turn none_ turn next quiet res auth serves]
    simp only [Context.lands, Context.land, Context.mayWrite, decide_eq_true_eq]

end Sys2Proof.Machine
end

section
/-! SUPPORT. CIPH (R72, R92, R93): one block, or the next part of a stream. -/
namespace Sys2Proof.Machine

variable {s : State} {c : Ctx} {w : Insn} {x : Context}

/-! ## A key slot used -/

theorem State.withSlot_empty {k n i : Nat} {f : KeySlot → Result} (h : x.slot i = none) :
    s.withSlot k n x i f = .next (s.failAt k n stKeyUsageDenied 3) := by simp only [State.withSlot, h]

theorem State.withSlot_loaded {k n i : Nat} {f : KeySlot → Result} {y : KeySlot} (h : x.slot i = some y) : s.withSlot k n x i f = f y := by
  simp only [State.withSlot, h]

/-- An instruction under an empty slot. -/
theorem State.issue_withSlot_empty {cls op n i : Nat} {run : Context → Result} {f : KeySlot → Result} (h : s.readyCtx (ctxKey c) cls op w = some x)
    (hr : run x = s.withSlot (ctxKey c) n x i f) (empty : x.slot i = none) :
    s.issue c cls op w run = .next (whenSettled s (ctxKey c) (s.failAt (ctxKey c) n stKeyUsageDenied 3)) :=
  s.issue_fails h (hr.trans (State.withSlot_empty empty))

theorem State.noUnit_detail (s : State) (c : Ctx) (n u : Nat) :
    s.noUnit (ctxKey c) n u = s.failAt (ctxKey c) n stFaultDetected (unitDetail c.cc (Sparse.get u s.ci.lastOut c.cc)) := by
  rw [State.noUnit, clusterOf_ctxKey]

/-! ## CIPH 0x0 -/

/-- The operation of a block CIPH. -/
def ciphOp (s : State) (c : Ctx) (w : Insn) (x : Context) (y : KeySlot) : UnitOp :=
  { owner := some (ctxKey c), pc := x.pc, num := x.retired, slot := w.ka, key := s.wires c.cc y, blocks := 1,
    job := .lane { word := laneWord (immBits w 0 16), block := true,
                   bytes := (if modBit w 0 then xorBytes (x.vr w.a) (x.vr w.b) else x.vr w.a).take (blkLen (laneWord (immBits w 0 16)).cipher), dest := w.d } }

theorem execCiphBlock_body (valid : (laneWord (immBits w 0 16)).valid true (modBit w 1) (modBit w 2) = true) :
    exec (.ciphBlock c w) s = s.issue c 0x3 0x0 w fun x => s.withSlot (ctxKey c) 1 x w.ka fun y =>
      if !(laneWord (immBits w 0 16)).fits y.key then .next (s.failAt (ctxKey c) 1 stKeyUsageDenied y.field)
      else if (s.lanesUp c.cc).isEmpty then .next (s.noUnit (ctxKey c) 1 0)
      else match s.pickLane c.cc none with
        | none => .next s
        | some lane => .next ((s.retire (ctxKey c) 1 (x.claim [w.d.val])).place c.cc lane (ciphOp s c w x y)) := by
  change execCiphBlock c w s = _
  simp only [execCiphBlock, valid, Bool.not_true, if_neg Bool.false_ne_true]
  rfl

/-- What a retired instruction whose operation is placed in a lane leaves. -/
theorem State.retire_place (s : State) {k n m lane : Nat} (z : Context) (o : UnitOp) :
    let t := (s.retire k n z).place m lane o
    t.ctx k = z.step ∧ (∀ j, j ≠ k → t.ctx j = s.ctx j) ∧
    t.lane m lane = (if (s.lane m lane).exec.isNone then (s.lane m lane).begin o s.quartz else (s.lane m lane).queue o) ∧
    (∀ n l', laneKey n l' ≠ laneKey m lane → t.lane n l' = s.lane n l') ∧
    t = { s with regs := t.regs, sq := { s.sq with ctxs := t.sq.ctxs }, ci := { s.ci with lanes := t.ci.lanes } } :=
  ⟨s.retire_ctx k n z, fun _ hj => State.ctx_setCtx_ne _ _ _ _ (Ne.symm hj), State.lane_place_same .., fun _ _ ne => State.lane_place_ne o ne, rfl⟩

/-- Settles O20: a block CIPH by the word, the slot, the key and the lanes it finds. -/
theorem ciphBlockIssuesOneBlock : Obligations.CiphBlockIssuesOneBlock := by
  intro c w x s k l h
  refine ⟨fun invalid => ?_, fun valid => ⟨fun empty => ?_, fun y slot unfit => ?_, fun y slot fits down => ?_, fun y lane slot fits up pick => ?_⟩⟩
  · change execCiphBlock c w s = _
    refine State.issue_refuses h ?_
    simp [l] at invalid
    simp [invalid]
  · rw [execCiphBlock_body valid]
    exact State.issue_withSlot_empty h rfl empty
  · rw [execCiphBlock_body valid]
    refine State.issue_fails h ?_
    rw [State.withSlot_loaded slot, unfit]
    rfl
  · rw [execCiphBlock_body valid, ← State.noUnit_detail]
    refine State.issue_fails h ?_
    rw [State.withSlot_loaded slot, fits, down]
    rfl
  · rw [execCiphBlock_body valid]
    obtain ⟨own, others, here, there, only⟩ := s.retire_place (k := k) (n := 1) (m := c.cc) (lane := lane) (x.claim [w.d.val]) (ciphOp s c w x y)
    refine ⟨_, s.issue_ready h (t := (s.retire k 1 (x.claim [w.d.val])).place c.cc lane (ciphOp s c w x y)) ?_ (.inr ?_), own, others, here, there, only⟩
    · rw [State.withSlot_loaded slot, fits, pick]
      simp [up, k]
    · rw [own]; exact (s.readyCtx_runs h : x.cmd.isSome = true)

/-! ## CIPH 0x1 -/

/-- What a ready context has: no stream under way, no key orphaned, and where its instruction uses the crossbars, none frozen. -/
theorem State.readyCtx_free {k cls op : Nat} (h : s.readyCtx k cls op w = some x) :
    x.run = none ∧ s.orphanField x = none ∧ ((⟨cls, op, w⟩ : Code).usesXbar = true → s.xbarHeld (clusterOf k) = false) := by
  obtain ⟨own, -, can, -⟩ := s.readyCtx_spec h
  simp only [State.canIssue, Bool.and_eq_true, ← own] at can
  obtain ⟨⟨⟨⟨⟨⟨⟨⟨-, run⟩, -⟩, -⟩, orphan⟩, -⟩, bar⟩, -⟩, -⟩ := can
  refine ⟨by simpa using run, by simpa using orphan, fun uses => ?_⟩
  rw [uses] at bar
  simpa using bar

/-- The registers a retirement counts in are no others. -/
theorem State.retire_get (s : State) (k n : Nat) (y : Context) {f : Field} (hf : f.lsb % 32 ≠ 0) : (s.retire k n y).get f = s.get f := by
  refine (s.retire_retires k n y).2.2.2.2.1 f fun g hg => ?_
  simp only [List.mem_cons, List.not_mem_nil, or_false] at hg
  rcases hg with rfl | rfl <;> simp only [Field.key, R.SEQ_ISSUE_CNT, R.SEQ_RETIRE_CNT] <;> omega

theorem State.retire_laneOpen (s : State) (k n m l : Nat) (y : Context) : (s.retire k n y).laneOpen m l = s.laneOpen m l := by
  have hold : (s.retire k n y).bit (R.CC_LANE_HOLD m) l = s.bit (R.CC_LANE_HOLD m) l := by
    rw [State.bit, State.retire_get _ _ _ _ (show 4 % 32 ≠ 0 by decide), State.bit]
  rw [State.laneOpen, hold]
  rfl

theorem State.retire_pickLane (s : State) (k n m : Nat) (y : Context) (home : Option Nat) : (s.retire k n y).pickLane m home = s.pickLane m home := by
  have same : (s.retire k n y).laneOpen m = s.laneOpen m := funext fun l => s.retire_laneOpen k n m l y
  unfold State.pickLane
  rw [same]
  rfl

theorem State.retire_xbarHeld (s : State) (k n m : Nat) (y : Context) : (s.retire k n y).xbarHeld m = s.xbarHeld m := by
  rw [State.xbarHeld, State.bit, State.retire_get _ _ _ _ (by decide)]
  rfl

section
variable {y : KeySlot}

/-- The stream instruction as it goes to the lanes. -/
def ciphRun (s : State) (c : Ctx) (w : Insn) (x : Context) (y : KeySlot) : StreamRun :=
  { word := laneWord (immBits w 0 16), aad := modBit w 1, noOut := modBit w 2, slot := w.ka, key := s.wires c.cc y, left := x.sr w.a, dest := w.d,
    expected := x.vr w.d, pc := x.pc, num := x.retired, record := x.stream.getD (Stream.fresh (laneWord (immBits w 0 16)) w.ka (x.vr w.b)) }

/-- Its context as it retires. -/
def ciphContext (s : State) (c : Ctx) (w : Insn) (x : Context) (y : KeySlot) : Context :=
  { x.claim (if ({ word := laneWord (immBits w 0 16), dest := w.d : LaneJob }).writesD then [w.d.val] else []) with
    run := some (ciphRun s c w x y), home := if x.stream.isSome then x.home else none }

/-- A stream instruction whose key fits. -/
def ciphPart (s : State) (c : Ctx) (w : Insn) (x : Context) (y : KeySlot) : Result :=
  match streamCheck (laneWord (immBits w 0 16)) x.stream.isSome (ciphRun s c w x y).record w.ka (modBit w 1) x.ip (x.sr w.a) with
  | some det => .next (s.failAt (ctxKey c) (2 + (x.sr w.a + 31) / 32) stFormatError det)
  | none =>
    if x.sr w.a = 0 ∧ ¬ (laneWord (immBits w 0 16)).final then
      .next (s.retire (ctxKey c) (2 + (x.sr w.a + 31) / 32) { x with stream := some (ciphRun s c w x y).record })
    else if (s.lanesUp c.cc).isEmpty then .next (s.noUnit (ctxKey c) (2 + (x.sr w.a + 31) / 32) 0)
    else .next ((s.retire (ctxKey c) (2 + (x.sr w.a + 31) / 32) (ciphContext s c w x y)).pump (ctxKey c) pumpFuel)

theorem ciphPart_fails {det : Nat}
    (fails : streamCheck (laneWord (immBits w 0 16)) x.stream.isSome (ciphRun s c w x y).record w.ka (modBit w 1) x.ip (x.sr w.a) = some det) :
    ciphPart s c w x y = .next (s.failAt (ctxKey c) (2 + (x.sr w.a + 31) / 32) stFormatError det) := by
  rw [ciphPart, fails]

section
variable (passes : streamCheck (laneWord (immBits w 0 16)) x.stream.isSome (ciphRun s c w x y).record w.ka (modBit w 1) x.ip (x.sr w.a) = none)
include passes

theorem ciphPart_opens (none_ : x.sr w.a = 0) (more : (laneWord (immBits w 0 16)).final = false) :
    ciphPart s c w x y = .next (s.retire (ctxKey c) 2 { x with stream := some (ciphRun s c w x y).record }) := by
  rw [ciphPart, passes]
  dsimp only
  rw [if_pos ⟨none_, by simp [more]⟩, none_]

theorem ciphPart_down (some_ : x.sr w.a ≠ 0 ∨ (laneWord (immBits w 0 16)).final = true) (down : s.lanesUp c.cc = []) :
    ciphPart s c w x y = .next (s.noUnit (ctxKey c) (2 + (x.sr w.a + 31) / 32) 0) := by
  rw [ciphPart, passes]
  dsimp only
  rw [if_neg (by rcases some_ with h | h <;> simp [h]), down]
  rfl

theorem ciphPart_goes (some_ : x.sr w.a ≠ 0 ∨ (laneWord (immBits w 0 16)).final = true) (up : s.lanesUp c.cc ≠ []) :
    ciphPart s c w x y = .next ((s.retire (ctxKey c) (2 + (x.sr w.a + 31) / 32) (ciphContext s c w x y)).pump (ctxKey c) pumpFuel) := by
  rw [ciphPart, passes]
  dsimp only
  rw [if_neg (by rcases some_ with h | h <;> simp [h]), if_neg (by simpa using up)]

end

/-- The next operation of the stream `r` of context `x`, in context `k`. -/
def streamOp (k : Nat) (x : Context) (r : StreamRun) : UnitOp :=
  { owner := some k, pc := r.pc, num := r.num, slot := r.slot, key := r.key, job := .lane (r.job x.op (x.inBytes x.ip r.next)),
    blocks := ((r.job x.op (x.inBytes x.ip r.next)).part plainPath r.key.clear).blocks, chained := r.word.chained,
    place := if r.word.hasOutput then some x.issued else none }

/-- The context once the last operation of its stream instruction has left for lane `l`. -/
def Context.streamed (x : Context) (r : StreamRun) (l : Nat) : Context :=
  let q := (r.job x.op (x.inBytes x.ip r.next)).part plainPath r.key.clear
  { x with run := none, home := if r.word.chained then some l else x.home, issued := if r.word.hasOutput then x.issued + 1 else x.issued,
           stream := if r.word.final then none else some q.record, ip := (x.ip + r.next) % 2 ^ 24,
           op := if r.noOut then x.op else (x.op + q.out.length) % 2 ^ 24 }

/-- The last operation of a stream instruction leaves alone. -/
theorem State.pump_last {k fuel l : Nat} {x : Context} {r : StreamRun} (at_ : s.ctx k = x) (run : x.run = some r) (orphan : s.orphanField x = none)
    (room : s.lanesOut k < 4) (input : x.has (x.ip + r.next) = true) (bar : s.xbarHeld (clusterOf k) = false) (ends : r.ends = true)
    (pick : s.pickLane (clusterOf k) (if r.word.chained then x.home.filter fun l => (s.lane (clusterOf k) l).svc.inService else none) = some l) :
    s.pump k (fuel + 1) = (s.place (clusterOf k) l (streamOp k x r)).setCtx k (x.streamed r l) := by
  have hold : ¬ (4 ≤ s.lanesOut k ∨ (!x.has (x.ip + r.next)) = true ∨ s.xbarHeld (clusterOf k) = true) := by
    rw [input, bar]; simp; omega
  rw [State.pump, at_]
  dsimp only
  rw [run]
  dsimp only
  rw [orphan]
  dsimp only
  rw [if_neg hold, pick]
  dsimp only
  rw [State.pump_idle (by rw [State.ctx_setCtx_same, ends]; rfl), ends]
  simp only [if_true, true_and]
  rfl

/-- The claim of its register and its retirement leave what the operation of a stream instruction reads. -/
theorem streamOp_ciphContext (next : (ciphRun s c w x y).next = x.sr w.a) :
    streamOp (ctxKey c) (ciphContext s c w x y).step (ciphRun s c w x y) =
      { owner := some (ctxKey c), pc := x.pc, num := x.retired, slot := w.ka, key := s.wires c.cc y,
        job := .lane ((ciphRun s c w x y).job x.op (x.inBytes x.ip (x.sr w.a))),
        blocks := (((ciphRun s c w x y).job x.op (x.inBytes x.ip (x.sr w.a))).part plainPath (s.wires c.cc y).clear).blocks,
        chained := (laneWord (immBits w 0 16)).chained, place := if (laneWord (immBits w 0 16)).hasOutput then some x.issued else none } := by
  have bytes : (ciphContext s c w x y).step.inBytes (ciphContext s c w x y).step.ip (x.sr w.a) = x.inBytes x.ip (x.sr w.a) := rfl
  have op : (ciphContext s c w x y).step.op = x.op := rfl
  rw [streamOp, next, bytes, op]
  rfl

theorem streamed_ciphContext {lane : Nat} (next : (ciphRun s c w x y).next = x.sr w.a) :
    let q := ((ciphRun s c w x y).job x.op (x.inBytes x.ip (x.sr w.a))).part plainPath (s.wires c.cc y).clear
    (ciphContext s c w x y).step.streamed (ciphRun s c w x y) lane = 
      { x.claim (if ({ word := laneWord (immBits w 0 16), dest := w.d : LaneJob }).writesD then [w.d.val] else []) with
        pc := (x.pc + 1) % 256, retired := x.retired + 1, run := none,
        home := if (laneWord (immBits w 0 16)).chained then some lane else if x.stream.isSome then x.home else none,
        issued := if (laneWord (immBits w 0 16)).hasOutput then x.issued + 1 else x.issued,
        stream := if (laneWord (immBits w 0 16)).final then none else some q.record,
        ip := (x.ip + x.sr w.a) % 2 ^ 24, op := if modBit w 2 then x.op else (x.op + q.out.length) % 2 ^ 24 } := by
  have bytes : (ciphContext s c w x y).step.inBytes (ciphContext s c w x y).step.ip (x.sr w.a) = x.inBytes x.ip (x.sr w.a) := rfl
  have op : (ciphContext s c w x y).step.op = x.op := rfl
  rw [Context.streamed, next, bytes, op]
  rfl

theorem execCiphStream_body (valid : (laneWord (immBits w 0 16)).valid false (modBit w 1) (modBit w 2) = true) (reg : w.a.val ≤ 7) :
    exec (.ciphStream c w) s = s.issue c 0x3 0x1 w fun x => s.withSlot (ctxKey c) (2 + (x.sr w.a + 31) / 32) x w.ka fun y =>
      if !(laneWord (immBits w 0 16)).fits y.key then .next (s.failAt (ctxKey c) (2 + (x.sr w.a + 31) / 32) stKeyUsageDenied y.field)
      else ciphPart s c w x y := by
  change execCiphStream c w s = _
  have guard : ¬ ((!(laneWord (immBits w 0 16)).valid false (modBit w 1) (modBit w 2)) = true ∨ w.a.val > 7) := by
    rw [valid]; simp; omega
  simp only [execCiphStream, if_neg guard]
  rfl

end

/-- Settles O21: a stream CIPH by the word, the slot, the key, the checks of Table 5.5 and the lanes it finds. -/
theorem ciphStreamTakesOnePart : Obligations.CiphStreamTakesOnePart := by
  intro c w x s k l cnt slots r h
  refine ⟨fun invalid => ?_, fun valid reg => ⟨fun empty => ?_, fun y slot unfit => ?_, fun y slot fits => ⟨fun det fails => ?_, fun passes =>
    ⟨fun none_ more => ?_, fun some_ down => ?_, fun some_ up => ?_⟩⟩⟩⟩
  · change execCiphStream c w s = _
    refine State.issue_refuses h ?_
    rw [if_pos (by simpa [l] using invalid)]
  · rw [execCiphStream_body valid reg]
    exact State.issue_withSlot_empty h rfl empty
  · rw [execCiphStream_body valid reg]
    refine State.issue_fails h ?_
    rw [State.withSlot_loaded slot, unfit]
    rfl
  all_goals
    rw [execCiphStream_body valid reg]
    have part : (s.withSlot (ctxKey c) (2 + (x.sr w.a + 31) / 32) x w.ka fun y =>
        if !(laneWord (immBits w 0 16)).fits y.key then .next (s.failAt (ctxKey c) (2 + (x.sr w.a + 31) / 32) stKeyUsageDenied y.field)
        else ciphPart s c w x y) = ciphPart s c w x y := by
      rw [State.withSlot_loaded slot, fits]; rfl
  · exact State.issue_fails h (part.trans (ciphPart_fails fails))
  · exact State.issue_retires h (part.trans (ciphPart_opens passes none_ more)) rfl
  · rw [← State.noUnit_detail]
    exact State.issue_fails h (part.trans (ciphPart_down passes some_ down))
  · intro run z home
    obtain ⟨idle, orphan, bar⟩ := s.readyCtx_free h
    have at_ := s.retire_ctx k slots (ciphContext s c w x y)
    have pumped := (s.retire k slots (ciphContext s c w x y)).pump_pumped k pumpFuel (by rw [at_]; exact orphan)
    have go : exec (.ciphStream c w) s = .next ((s.retire k slots (ciphContext s c w x y)).pump k pumpFuel) := by
      rw [execCiphStream_body valid reg]
      refine s.issue_ready h (part.trans (ciphPart_goes passes some_ up)) (.inr ?_)
      rw [pumped.own, at_]
      exact (s.readyCtx_runs h : x.cmd.isSome = true)
    rw [← execCiphStream_body valid reg]
    refine ⟨⟨_, s.retire_retires k slots (ciphContext s c w x y), go⟩, fun lane ends input room pick => ?_⟩
    have next : (ciphRun s c w x y).next = x.sr w.a := by
      have last : (ciphRun s c w x y).ends = true := ends
      simp only [StreamRun.ends, Bool.and_eq_true, beq_iff_eq] at last
      exact last.1
    have last := (s.retire k slots (ciphContext s c w x y)).pump_last (fuel := 4) (l := lane) (r := ciphRun s c w x y) at_ rfl orphan room
      (by rw [next]; exact input) (by rw [State.retire_xbarHeld]; exact bar rfl) ends (by rw [State.retire_pickLane, clusterOf_ctxKey]; exact pick)
    refine ⟨_, go, ?_⟩
    rw [show pumpFuel = 4 + 1 from rfl, last, clusterOf_ctxKey, streamOp_ciphContext next, streamed_ciphContext next, ← idle]
    exact ⟨State.ctx_setCtx_same .., fun j hj => (State.ctx_setCtx_ne _ _ _ _ (Ne.symm hj)).trans (State.ctx_setCtx_ne _ _ _ _ (Ne.symm hj)),
      State.lane_place_same .., fun n l' ne => State.lane_place_ne _ ne, rfl⟩

end Sys2Proof.Machine
end

section
/-! SUPPORT. HASH (R73, R152, R153): the key it takes, and the message queued. -/
namespace Sys2Proof.Machine

variable {s : State} {c : Ctx} {w : Insn} {x : Context} {h : HashWord} {y : KeySlot}

/-! ## The key of a hash instruction -/

section
variable {n : Nat} {use : Masked → Result}

theorem State.hashKey_empty (keyed : h.keyed = true) (empty : x.slot w.ka = none) :
    s.hashKey (ctxKey c) n x h w use = .next (s.failAt (ctxKey c) n stKeyUsageDenied 3) := by
  rw [State.hashKey, if_pos keyed, State.withSlot_empty empty]

theorem State.hashKey_unfit (keyed : h.keyed = true) (slot : x.slot w.ka = some y) (unfit : hashKeyFits y.key = false) :
    s.hashKey (ctxKey c) n x h w use = .next (s.failAt (ctxKey c) n stKeyUsageDenied y.field) := by
  rw [State.hashKey, if_pos keyed, State.withSlot_loaded slot, unfit]
  rfl

/-- With its key found, or none asked for, the instruction goes on where the unit is in service. -/
theorem State.hashKey_fits (fits : h.keyed = true → x.slot w.ka = some y ∧ hashKeyFits y.key = true) :
    s.hashKey (ctxKey c) n x h w use =
      if (s.hashUnit c.cc).svc.inService then use (if h.keyed then s.wires c.cc y else {})
      else .next (s.failAt (ctxKey c) n stFaultDetected (unitDetail c.cc (Sparse.get 4 s.ci.lastOut c.cc))) := by
  rw [← State.noUnit_detail, State.hashKey, clusterOf_ctxKey]
  cases keyed : h.keyed with
  | false => cases (s.hashUnit c.cc).svc.inService <;> rfl
  | true =>
    obtain ⟨slot, ok⟩ := fits keyed
    rw [State.withSlot_loaded slot, ok]
    cases (s.hashUnit c.cc).svc.inService <;> rfl

end

/-! ## The two instructions as one -/

/-- The message bytes a hash instruction takes. -/
def hashCount (op : Nat) (w : Insn) (x : Context) : Nat := if op = 0 then x.sr w.a else immBits w 16 8 + 1

/-- A hash instruction with its key: its message, from the input or from V registers, is queued. -/
def hashUse (s : State) (c : Ctx) (op : Nat) (w : Insn) (x : Context) (h : HashWord) (key : Masked) : Result :=
  if op = 0 then
    s.gather (ctxKey c) x (hashCount op w x) fun m z => .next (s.hashQueue (ctxKey c) (2 + (hashCount op w x + 63) / 64) z h w key m)
  else .next (s.hashQueue (ctxKey c) (2 + (hashCount op w x + 63) / 64) x h w key ((x.vRange w.a 16).take (hashCount op w x)))

/-- A hash instruction whose word is a hash operation word and whose message lies within the input takes its key and goes on. -/
theorem exec_hash {i : Instr} {op : Nat} (is : (i = .hashStream c w ∧ op = 0) ∨ (i = .hashRegisters c w ∧ op = 1))
    (word : hashWord (immBits w 0 16) = some h) (within : op = 0 → w.a.val ≤ 7 ∧ x.startIp + hashCount op w x ≤ 2 ^ 24) :
    ∃ run, exec i s = s.issue c 0x4 op w run ∧
      run x = s.hashKey (ctxKey c) (2 + (hashCount op w x + 63) / 64) x h w (hashUse s c op w x h) := by
  rcases is with ⟨rfl, rfl⟩ | ⟨rfl, rfl⟩
  · obtain ⟨reg, short⟩ := within rfl
    refine ⟨_, rfl, ?_⟩
    dsimp only
    rw [word]
    dsimp only
    rw [if_neg (by omega), if_neg (by simpa [hashCount] using short)]
    rfl
  · refine ⟨_, rfl, ?_⟩
    dsimp only
    rw [word]
    rfl

/-- The operation a hash instruction queues. -/
def hashOp (c : Ctx) (w : Insn) (x : Context) (h : HashWord) (key : Masked) (m : List Byte) : UnitOp :=
  { owner := some (ctxKey c), pc := x.pc, num := x.retired, slot := w.ka, key, blocks := h.blocks m.length,
    job := .hash { word := h, cust := x.vr w.b, bytes := m, dest := w.d } }

/-- What a queued message leaves. -/
theorem State.hashQueue_spec (s : State) (c : Ctx) (n : Nat) (z : Context) (h : HashWord) (w : Insn) (key : Masked) (m : List Byte) :
    let t := s.hashQueue (ctxKey c) n z h w key m
    t.ctx (ctxKey c) = (z.claim ((List.range ((h.outLen + 15) / 16)).map (w.d.val + ·))).step ∧ (∀ j, j ≠ ctxKey c → t.ctx j = s.ctx j) ∧
    (t.hashUnit c.cc).queue = (s.hashUnit c.cc).queue ++ [hashOp c w z h key m] ∧ (t.hashUnit c.cc).svc = (s.hashUnit c.cc).svc ∧
    t = { s with regs := t.regs, sq := { s.sq with ctxs := t.sq.ctxs }, ci := { s.ci with hash := t.ci.hash } } := by
  rw [State.hashQueue, clusterOf_ctxKey]
  refine ⟨State.retire_ctx .., fun j hj => State.ctx_setCtx_ne _ _ _ _ (Ne.symm hj), ?_, ?_, rfl⟩ <;> rw [State.hashUnit_updHash_same] <;> rfl

theorem State.gather_waits {k n : Nat} {use : List Byte → Context → Result} (early : x.has (x.ip + (n - x.gathered.length)) = false) :
    s.gather k x n use = .next (s.setCtx k { x with
      gathered := x.gathered ++ x.inBytes x.ip (x.input.length - x.ip), ip := x.ip + (x.input.length - x.ip), wait := .chunk }) := by
  rw [State.gather, early]; rfl

theorem State.gather_has {k n : Nat} {use : List Byte → Context → Result} (there : x.has (x.ip + (n - x.gathered.length)) = true) :
    s.gather k x n use = use (x.gathered ++ x.inBytes x.ip (n - x.gathered.length))
      { x with ip := (x.ip + (n - x.gathered.length)) % 2 ^ 24, gathered := [] } := by
  rw [State.gather, there]; rfl

theorem hashUse_waits {key : Masked} (early : x.has (x.ip + (x.sr w.a - x.gathered.length)) = false) :
    hashUse s c 0 w x h key = .next (s.setCtx (ctxKey c) { x with
      gathered := x.gathered ++ x.inBytes x.ip (x.input.length - x.ip), ip := x.ip + (x.input.length - x.ip), wait := .chunk }) :=
  (if_pos rfl).trans (State.gather_waits early)

theorem hashUse_queues {op : Nat} {key : Masked} (there : op = 0 → x.has (x.ip + (hashCount op w x - x.gathered.length)) = true) :
    hashUse s c op w x h key = .next (s.hashQueue (ctxKey c) (2 + (hashCount op w x + 63) / 64)
      (if op = 0 then { x with ip := (x.ip + (hashCount op w x - x.gathered.length)) % 2 ^ 24, gathered := [] } else x) h w key
      (if op = 0 then x.gathered ++ x.inBytes x.ip (hashCount op w x - x.gathered.length) else (x.vRange w.a 16).take (hashCount op w x))) := by
  by_cases stream : op = 0
  · rw [hashUse, if_pos stream, if_pos stream, if_pos stream, State.gather_has (there stream)]
  · rw [hashUse, if_neg stream, if_neg stream, if_neg stream]

/-- Settles O23: a HASH by its word, its key and its unit, and by the input that is there. -/
theorem hashInstructionsQueueTheDigest : Obligations.HashInstructionsQueueTheDigest := by
  refine ⟨fun c w x s => ⟨fun h bad => ?_, fun h bad => ?_, fun hw h word reg long => ?_⟩, ?_⟩
  · change execHashStream c w s = _
    refine State.issue_refuses h ?_
    dsimp only
    split
    · rfl
    next hw word => rw [if_pos (bad.resolve_left (by simp [word]))]
  · change execHashRegisters c w s = _
    refine State.issue_refuses h ?_
    dsimp only
    rw [bad]
  · change execHashStream c w s = _
    refine State.issue_fails h ?_
    dsimp only
    rw [word]
    dsimp only
    rw [if_neg (by omega), if_pos long]
  · intro i op c w x h s k cnt slots is ready word within
    obtain ⟨run, exec_, body⟩ := exec_hash (s := s) (x := x) is word within
    rw [exec_]
    refine ⟨fun keyed empty => ?_, fun y keyed slot unfit => ?_, fun y fits => ⟨fun down => ?_, fun up => ?_⟩⟩
    · exact State.issue_fails ready (body.trans (State.hashKey_empty keyed empty))
    · exact State.issue_fails ready (body.trans (State.hashKey_unfit keyed slot unfit))
    · exact State.issue_fails ready (body.trans ((State.hashKey_fits fits).trans (if_neg (by rw [down]; decide))))
    · have go := body.trans ((State.hashKey_fits fits).trans (if_pos up))
      refine ⟨fun stream early => ?_, fun there => ?_⟩
      · refine s.issue_ready ready (go.trans ?_) (.inr ?_)
        · subst stream
          exact hashUse_waits early
        · rw [State.ctx_setCtx_same]; exact (s.readyCtx_runs ready : x.cmd.isSome = true)
      · intro m z dests
        obtain ⟨own, others, queue, svc, only⟩ := s.hashQueue_spec c slots z h w (if h.keyed then s.wires c.cc y else {}) m
        have serves : z.cmd = x.cmd := by dsimp only [z]; split <;> rfl
        refine ⟨_, s.issue_ready ready (go.trans (hashUse_queues there)) (.inr ?_), ?_, others, ?_, svc, only⟩
        · exact (congrArg (fun y : Context => y.cmd.isSome) own).trans ((congrArg Option.isSome serves).trans (s.readyCtx_runs ready))
        · refine own.trans ?_
          dsimp only [z]; split <;> rfl
        · refine queue.trans ?_
          dsimp only [z]; split <;> rfl

end Sys2Proof.Machine
end

section
/-! SUPPORT. Lane and hash operations that end (R127, R140, R143, R146, R153, R154). -/
namespace Sys2Proof.Machine

variable {s t u : State} {k : Nat}

/-! ## A twin mismatch noted (R146, R148) -/

/-- A state apart from what noting a mismatch writes besides the mismatches themselves: registers, messages, Agate and Obsidian's inputs. -/
def State.offNotes (s : State) : State :=
  { s with regs := [], out := [], ag := {}, hq := { s.hq with msixPend := [] }, ob := { s.ob with conds := 0 }, ci := { s.ci with faults := [] } }

theorem State.raise_offNotes (s : State) (p i : Nat) : (s.raise p i).offNotes = s.offNotes := by
  rw [(s.raise_onlyFields p i).2.2]; rfl

theorem State.severity_offNotes (s : State) (n : Nat) : (s.severity n).offNotes = s.offNotes := by
  rw [(s.severity_spec n).2]; rfl

theorem State.raiseInput_offNotes (s : State) (i : Nat) : (s.raiseInput i).offNotes = s.offNotes := by
  have noted : (if i % 32 = 14 ∨ i = 15 then s.severity 4 else s).offNotes = s.offNotes := by
    split
    · exact s.severity_offNotes 4
    · rfl
  unfold State.raiseInput
  dsimp only
  generalize (if i % 32 = 14 ∨ i = 15 then s.severity 4 else s) = u at noted
  split
  · exact Eq.trans rfl noted
  · exact noted

/-- A mismatch counted, among those of the longest window. -/
def State.faultNoted (s : State) : State :=
  { s.countSat R.CC0_FAULT_TOTAL with ci.faults := (s.ci.faults ++ [s.quartz]).filter fun t => s.quartz < t + 60000000000 }

theorem State.mismatch_eq (s : State) : s.mismatch =
    if max 1 (s.faultNoted.get R.CC0_FAULT_LIMIT) ≤ s.faultNoted.recentFaults then
      ((s.faultNoted.countSat R.CC0_LOGIC_RAISED).raise (pgCC 0) 5).raiseInput (logicCond 2)
    else s.faultNoted := rfl

theorem State.mismatch_offNotes (s : State) : s.mismatch.offNotes = s.offNotes := by
  rw [State.mismatch_eq]
  split
  · rw [State.raiseInput_offNotes, State.raise_offNotes]; rfl
  · rfl

/-- The fields that noting a mismatch writes. -/
def mismatchFields : List Field := [R.CC0_FAULT_TOTAL, R.CC0_LOGIC_RAISED, R.BLK_INT_RAW (pgCC 0), R.AGT_OPEN_SEV]

theorem State.raiseInput_spares {fs : List Field} (i : Nat) (off : apart fs R.AGT_OPEN_SEV) : spares fs s (s.raiseInput i) := by
  have noted : spares fs s (if i % 32 = 14 ∨ i = 15 then s.severity 4 else s) := .andIf .refl (spares.severity .refl off)
  unfold State.raiseInput
  dsimp only
  generalize (if i % 32 = 14 ∨ i = 15 then s.severity 4 else s) = u at noted
  split
  · exact noted.update rfl
  · exact noted

theorem State.mismatch_spares {fs : List Field} (off : ∀ f ∈ mismatchFields, apart fs f) : spares fs s s.mismatch := by
  obtain ⟨total, raised, raw, sev⟩ : apart fs R.CC0_FAULT_TOTAL ∧ apart fs R.CC0_LOGIC_RAISED ∧ apart fs (R.BLK_INT_RAW (pgCC 0)) ∧ apart fs R.AGT_OPEN_SEV :=
    ⟨off _ (by simp [mismatchFields]), off _ (by simp [mismatchFields]), off _ (by simp [mismatchFields]), off _ (by simp [mismatchFields])⟩
  have counted : spares fs s s.faultNoted := (spares.set .refl total).update rfl
  rw [State.mismatch_eq]
  refine spares.ite ?_ counted
  exact ((counted.set raised).raise raw).trans (State.raiseInput_spares _ sev)

/-- A raised bit of any page stays raised through another. -/
theorem State.raise_still {p q i j : Nat} (hj : j < 32) (h : s.bit (R.BLK_INT_RAW p) j = true) : (s.raise q i).bit (R.BLK_INT_RAW p) j = true := by
  by_cases same : q = p
  · subst same
    rw [s.raise_raised q i j hj, h]; rfl
  · have key : (R.BLK_INT_RAW q).key ≠ (R.BLK_INT_RAW p).key := by simp only [Field.key, R.BLK_INT_RAW]; omega
    rw [State.bit, s.raise_get_ne _ _ _ key]; exact h

theorem State.mismatch_still {p j : Nat} (hj : j < 32) (h : s.bit (R.BLK_INT_RAW p) j = true) : s.mismatch.bit (R.BLK_INT_RAW p) j = true := by
  have off : ∀ f ∈ [R.CC0_FAULT_TOTAL, R.CC0_LOGIC_RAISED, R.AGT_OPEN_SEV], apart [R.BLK_INT_RAW p] f := by
    intro f hf g hg
    simp only [List.mem_cons, List.not_mem_nil, or_false] at hf hg
    subst hg
    rcases hf with rfl | rfl | rfl <;> simp only [Field.key, R.CC0_FAULT_TOTAL, R.CC0_LOGIC_RAISED, R.AGT_OPEN_SEV, R.BLK_INT_RAW] <;> omega
  have counted : spares [R.BLK_INT_RAW p] s s.faultNoted := (spares.set .refl (off _ (by simp))).update rfl
  rw [State.mismatch_eq]
  split
  · have raised : spares [R.BLK_INT_RAW p] s (s.faultNoted.countSat R.CC0_LOGIC_RAISED) := counted.set (off _ (by simp))
    rw [(State.raiseInput_spares (fs := [R.BLK_INT_RAW p]) _ (off _ (by simp))).bit (by simp)]
    exact State.raise_still hj ((raised.bit (by simp) j).trans h)
  · exact (counted.bit (by simp) j).trans h

/-! ## A mismatch in a unit of a cluster (R98, R146) -/

/-- The service state of a unit after it is changed. -/
theorem State.unitSvc_updSvc (s : State) (n u : Nat) (f : Service → Service) : (s.updSvc n u f).unitSvc n u = f (s.unitSvc n u) := by
  unfold State.updSvc State.unitSvc
  split
  · rw [State.lane_updLane_same]
  · split
    · rw [State.hashUnit_updHash_same]
    · rw [State.fmtUnit_updFmt_same]

theorem State.updSvc_only (s : State) (n u : Nat) (f : Service → Service) :
    s.updSvc n u f = { s with ci := { s.ci with lanes := (s.updSvc n u f).ci.lanes, hash := (s.updSvc n u f).ci.hash, fmt := (s.updSvc n u f).ci.fmt } } := by
  unfold State.updSvc
  split
  · rfl
  · split <;> rfl

/-- The last-fault record of a mismatch in unit `u`, and the page's bit 0. -/
theorem State.unitFault_record {n u c : Nat} (hu : u < 6) :
    let v := s.unitFault n u c false
    v.get (R.CC_LAST_FAULT_UNIT n) = u ∧ v.get (R.CC_LAST_FAULT_KAT n) = 0 ∧ v.get (R.CC_LAST_FAULT_CTX n) = c % 64 ∧
      v.bit (R.BLK_INT_RAW (pgCC n)) 0 = true ∧ v.offNotes = s.offNotes := by
  have base : ∃ b : State, b.offNotes = s.offNotes ∧ s.unitFault n u c false =
      ((((b.set (R.CC_LAST_FAULT_UNIT n) u).set (R.CC_LAST_FAULT_KAT n) 0).set (R.CC_LAST_FAULT_CTX n) c).raise (pgCC n) 0).mismatch := by
    refine ⟨_, ?_, rfl⟩
    split
    · dsimp only
      split <;> rfl
    · split <;> rfl
  obtain ⟨b, off, fault⟩ := base
  intro v
  generalize hw : ((b.set (R.CC_LAST_FAULT_UNIT n) u).set (R.CC_LAST_FAULT_KAT n) 0).set (R.CC_LAST_FAULT_CTX n) c = w at fault
  have keys : (R.CC_LAST_FAULT_UNIT n).key ≠ (R.CC_LAST_FAULT_KAT n).key ∧ (R.CC_LAST_FAULT_UNIT n).key ≠ (R.CC_LAST_FAULT_CTX n).key ∧
      (R.CC_LAST_FAULT_KAT n).key ≠ (R.CC_LAST_FAULT_CTX n).key := by
    simp only [Field.key, R.CC_LAST_FAULT_UNIT, R.CC_LAST_FAULT_KAT, R.CC_LAST_FAULT_CTX]; omega
  have record : spares [R.CC_LAST_FAULT_UNIT n, R.CC_LAST_FAULT_KAT n, R.CC_LAST_FAULT_CTX n] w v := by
    have off : ∀ f ∈ R.BLK_INT_RAW (pgCC n) :: mismatchFields, apart [R.CC_LAST_FAULT_UNIT n, R.CC_LAST_FAULT_KAT n, R.CC_LAST_FAULT_CTX n] f := by
      intro f hf g hg
      simp only [mismatchFields, List.mem_cons, List.not_mem_nil, or_false] at hf hg
      rcases hf with rfl | rfl | rfl | rfl | rfl <;> rcases hg with rfl | rfl | rfl <;>
        simp only [Field.key, R.BLK_INT_RAW, R.CC0_FAULT_TOTAL, R.CC0_LOGIC_RAISED, R.AGT_OPEN_SEV, R.CC_LAST_FAULT_UNIT, R.CC_LAST_FAULT_KAT,
          R.CC_LAST_FAULT_CTX, pgCC] <;> omega
    dsimp only [v]
    rw [fault]
    exact (spares.raise .refl (off _ (by simp))).trans (State.mismatch_spares fun f hf => off f (List.mem_cons_of_mem _ hf))
  refine ⟨?_, ?_, ?_, ?_, ?_⟩
  · rw [record _ (by simp), ← hw, State.get_set_ne _ _ _ _ keys.2.1.symm, State.get_set_ne _ _ _ _ keys.1.symm, State.get_set_same]
    exact Nat.mod_eq_of_lt (by simp only [R.CC_LAST_FAULT_UNIT]; omega)
  · rw [record _ (by simp), ← hw, State.get_set_ne _ _ _ _ keys.2.2.symm, State.get_set_same]; rfl
  · rw [record _ (by simp), ← hw, State.get_set_same]; rfl
  · dsimp only [v]; rw [fault]
    exact State.mismatch_still (by decide) (State.raise_bit _ _ (by decide))
  · dsimp only [v]; rw [fault, State.mismatch_offNotes, State.raise_offNotes, ← hw]
    exact off

/-- What a mismatch in a working unit leaves before its command ends. -/
theorem State.twinFault_spec (s : State) {n u : Nat} (hu : u < 6) (k : Nat) :
    ∃ v : State, v.get (R.CC_LAST_FAULT_UNIT n) = u ∧ v.get (R.CC_LAST_FAULT_KAT n) = 0 ∧ v.get (R.CC_LAST_FAULT_CTX n) = k % 64 ∧
      v.bit (R.BLK_INT_RAW (pgCC n)) 0 = true ∧ (v.unitSvc n u).katBusy = true ∧ v.sq = s.sq ∧ v.hq.qps = s.hq.qps ∧ v.ge = s.ge ∧
      s.twinFault n u (some k) = v.endCommand k stFaultDetected (unitDetail n u) := by
  obtain ⟨unit, kat, ctx, raw, off⟩ := s.unitFault_record (n := n) (c := k % 64) hu
  generalize fault : s.unitFault n u (k % 64) false = w at unit kat ctx raw off
  have only := w.updSvc_only n u fun v => { v with katBusy := true }
  have svc := w.unitSvc_updSvc n u fun v => { v with katBusy := true }
  have ends : s.twinFault n u (some k) = (w.updSvc n u fun v => { v with katBusy := true }).endCommand k stFaultDetected (unitDetail n u) := by
    rw [← fault]; rfl
  generalize w.updSvc n u (fun v => { v with katBusy := true }) = v at only svc ends
  have regs : v.regs = w.regs := by rw [only]
  have get : ∀ f, v.get f = w.get f := fun f => by rw [State.get, regs]; rfl
  have sq : w.sq = s.sq := by have := congrArg State.sq off; exact this
  have qps : w.hq.qps = s.hq.qps := by have := congrArg (fun x : State => x.hq.qps) off; exact this
  have ge : w.ge = s.ge := by have := congrArg State.ge off; exact this
  refine ⟨v, (get _).trans unit, (get _).trans kat, (get _).trans (by rw [ctx]; exact Nat.mod_mod ..), (by rw [State.bit, get]; exact raw),
    by rw [svc], ?_, ?_, ?_, ends⟩
  · rw [only]; exact sq
  · rw [only]; exact qps
  · rw [only]; exact ge

/-! ## A result released (R143) -/

/-- What performing a result does, by what its output leaves of its command. -/
theorem State.perform_ended {e : Effect} (h : ((e.output.foldl (fun s o => s.outputAt k e.pc o.1 o.2) s).ctx k).cmd = none) :
    s.perform k e = e.output.foldl (fun s o => s.outputAt k e.pc o.1 o.2) s := by
  simp only [State.perform, h, Option.isNone_none, if_true]

theorem State.perform_authFail {e : Effect} (h : ((e.output.foldl (fun s o => s.outputAt k e.pc o.1 o.2) s).ctx k).cmd ≠ none) (auth : e.authFail = true) :
    s.perform k e = ((e.output.foldl (fun s o => s.outputAt k e.pc o.1 o.2) s).updCtx k fun x => { x with pc := e.pc }).endCommand k stAuthFail 0 := by
  have busy := Option.isNone_eq_false_iff.mpr (Option.isSome_iff_ne_none.mpr h)
  simp only [State.perform, busy, auth, if_true, if_neg Bool.false_ne_true]

theorem State.perform_writes {e : Effect} (h : ((e.output.foldl (fun s o => s.outputAt k e.pc o.1 o.2) s).ctx k).cmd ≠ none) (auth : e.authFail = false) :
    s.perform k e = (e.output.foldl (fun s o => s.outputAt k e.pc o.1 o.2) s).updCtx k fun x => { x.lands e.num e.regs with
      result := e.result.foldl (fun r p => overlay p.1 p.2 r) (x.lands e.num e.regs).result } := by
  have busy := Option.isNone_eq_false_iff.mpr (Option.isSome_iff_ne_none.mpr h)
  simp only [State.perform, busy, auth, if_neg Bool.false_ne_true]
  rfl

theorem Context.lands_eq (x : Context) (num : Nat) (rs : List (Nat × List Byte)) :
    x.lands num rs = rs.foldl (fun x r => if Sparse.get 0 x.writes r.1 ≤ num then x.putV r.1 r.2 else x) x := by
  simp only [Context.lands, Context.land, Context.mayWrite, decide_eq_true_eq]

/-! ## A lane operation that ends (R127, R140) -/

section
variable {n : Fin 16} {l : Fin 4} {o : UnitOp} {j : LaneJob} {ok : Bool}

/-- The dummy rounds of the executing operation counted. -/
def State.roundsCounted (s : State) (n l : Nat) (r : PartOut) : State :=
  s.addDummies n (r.ciphered - (s.lane n l).begun.length) (s.laneDummies n l r.ciphered)

/-- A lane operation whose results agree, counted, before its result is released. -/
def State.laneDone (s : State) (n l : Nat) (r : PartOut) (o : UnitOp) : State :=
  ((s.roundsCounted n l r).updLane n l fun x => { x.advance s.quartz with sinceReseed := x.sinceReseed + o.blocks }).count (R.CC_LANE_BLOCKS n l) o.blocks

/-- One whose results differ, discarded, before its unit's test starts. -/
def State.laneDropped (s : State) (n l : Nat) (r : PartOut) (o : UnitOp) : State :=
  let t := (s.roundsCounted n l r).updLane n l fun x => { x.advance s.quartz with
    exec := none, bufExec := none, wait := x.wait, bufWait := x.wait.map (·.key), busyFrom := none }
  match o.owner with | some k => t.updCtx k fun x => { x with pc := o.pc } | none => t

theorem execLaneOpComplete_eq (at_ : (s.lane n l).exec = some o) (job : o.job = .lane j) (go : (s.lane n l).stalled = false)
    (quiet : (s.lane n l).svc.katBusy = false) (lock : s.relocks n = false) :
    exec (.laneOpComplete n l ok) s =
      if (s.runLane n l j ok).2 then
        .next (((match o.owner with
          | some k => (s.laneDone n l (s.runLane n l j ok).1 o).release k o.place { j.effect (s.runLane n l j ok).1 with pc := o.pc, num := o.num }
          | none => s.laneDone n l (s.runLane n l j ok).1 o).settleSeed n l).pumpAll n)
      else .next (((s.laneDropped n l (s.runLane n l j ok).1 o).twinFault n l o.owner).pumpAll n) := by
  change execLaneOpComplete n l ok s = _
  rw [execLaneOpComplete]
  dsimp only
  rw [at_]
  dsimp only
  rw [job]
  dsimp only
  rw [go, quiet, lock, if_neg (by decide)]
  cases (s.runLane n l j ok).2 <;> rfl

theorem execLaneOpComplete_held
    (h : (s.lane n l).exec = none ∨ (s.lane n l).stalled = true ∨ (s.lane n l).svc.katBusy = true ∨ s.relocks n = true) :
    exec (.laneOpComplete n l ok) s = .next s := by
  change execLaneOpComplete n l ok s = _
  rw [execLaneOpComplete]
  dsimp only
  split
  · rfl
  next o at_ =>
    split
    · rfl
    · exact if_pos (h.resolve_left (by simp [at_]))

/-- The key of a lane's counter and of the dummy rounds' lie apart. -/
theorem laneBlocks_key_ne (n : Nat) (l : Fin 4) : (R.CC_LANE_BLOCKS n l).key ≠ (R.CC_DUMMY_CNT n).key := by
  have := l.isLt
  simp only [Field.key, R.CC_LANE_BLOCKS, R.CC_DUMMY_CNT]; omega

theorem State.lane_updLane_ne {n l n' l' : Nat} (f : Lane → Lane) (h : laneKey n' l' ≠ laneKey n l) : (s.updLane n l f).lane n' l' = s.lane n' l' := by
  simp [State.lane, State.updLane, Sparse.get_upd_ne _ _ _ (Ne.symm h)]

theorem State.laneDone_spec (s : State) (n : Nat) (l : Fin 4) (r : PartOut) (o : UnitOp) :
    let u := s.laneDone n l r o
    u.get (R.CC_DUMMY_CNT n) = (s.get (R.CC_DUMMY_CNT n) + s.laneDummies n l r.ciphered) % 2 ^ 32 ∧
    u.get (R.CC_LANE_BLOCKS n l) = (s.get (R.CC_LANE_BLOCKS n l) + o.blocks) % 2 ^ 32 ∧
    u.lane n l = { (s.lane n l).advance s.quartz with sinceReseed := (s.lane n l).sinceReseed + o.blocks } ∧
    (∀ n' l', laneKey n' l' ≠ laneKey n l → u.lane n' l' = s.lane n' l') ∧ keeps [R.CC_LANE_BLOCKS n l, R.CC_DUMMY_CNT n] s u ∧
    u = { s with regs := u.regs, ci := { s.ci with lanes := u.ci.lanes, rounds := u.ci.rounds } } := by
  have key := laneBlocks_key_ne n l
  have dummies := keeps_set s (R.CC_DUMMY_CNT n) (s.get (R.CC_DUMMY_CNT n) + s.laneDummies n l r.ciphered)
  generalize hv : (s.roundsCounted n l r).updLane n l (fun x => { x.advance s.quartz with sinceReseed := x.sinceReseed + o.blocks }) = v
  have get : ∀ f, v.get f = (s.set (R.CC_DUMMY_CNT n) (s.get (R.CC_DUMMY_CNT n) + s.laneDummies n l r.ciphered)).get f := fun f => by rw [← hv]; rfl
  have done : s.laneDone n l r o = v.count (R.CC_LANE_BLOCKS n l) o.blocks := by rw [← hv]; rfl
  intro u
  dsimp only [u]
  rw [done]
  refine ⟨?_, ?_, ?_, fun n' l' ne => ?_, fun f off => ?_, ?_⟩
  · rw [State.get_count_ne _ _ _ _ key, get, State.get_set_same]; rfl
  · rw [State.count, State.get_set_same, get, State.get_set_ne _ _ _ _ key.symm]; rfl
  · rw [← hv]; exact State.lane_updLane_same ..
  · rw [← hv]; exact State.lane_updLane_ne _ ne
  · rw [State.get_count_ne _ _ _ _ (off _ (by simp)), get, State.get_set_ne _ _ _ _ (off _ (by simp))]
  · rw [← hv]; rfl

theorem State.laneDropped_spec (s : State) (n : Nat) (l : Fin 4) (r : PartOut) (o : UnitOp) :
    let u := s.laneDropped n l r o
    u.get (R.CC_DUMMY_CNT n) = (s.get (R.CC_DUMMY_CNT n) + s.laneDummies n l r.ciphered) % 2 ^ 32 ∧
    (u.lane n l).exec = none ∧ (u.lane n l).bufExec = none ∧ (u.lane n l).wait = (s.lane n l).wait ∧
    (∀ n' l', laneKey n' l' ≠ laneKey n l → u.lane n' l' = s.lane n' l') ∧ keeps [R.CC_DUMMY_CNT n] s u ∧
    (∀ k, u.ctx k = if o.owner = some k then { s.ctx k with pc := o.pc } else s.ctx k) ∧
    u = { s with regs := u.regs, sq := { s.sq with ctxs := u.sq.ctxs }, ci := { s.ci with lanes := u.ci.lanes, rounds := u.ci.rounds } } := by
  have dummies := keeps_set s (R.CC_DUMMY_CNT n) (s.get (R.CC_DUMMY_CNT n) + s.laneDummies n l r.ciphered)
  generalize hv : (s.roundsCounted n l r).updLane n l (fun x => { x.advance s.quartz with
    exec := none, bufExec := none, wait := x.wait, bufWait := x.wait.map (·.key), busyFrom := none }) = v
  have regs : v.regs = (s.set (R.CC_DUMMY_CNT n) (s.get (R.CC_DUMMY_CNT n) + s.laneDummies n l r.ciphered)).regs := by rw [← hv]; rfl
  have here : v.lane n l = { (s.lane n l).advance s.quartz with
      exec := none, bufExec := none, wait := (s.lane n l).wait, bufWait := (s.lane n l).wait.map (·.key), busyFrom := none } := by
    rw [← hv]; exact State.lane_updLane_same ..
  have there : ∀ n' l', laneKey n' l' ≠ laneKey n l → v.lane n' l' = s.lane n' l' := fun n' l' ne => by rw [← hv]; exact State.lane_updLane_ne _ ne
  have ctx : ∀ i, v.ctx i = s.ctx i := fun i => by rw [← hv]; rfl
  have only : v = { s with regs := v.regs, ci := { s.ci with lanes := v.ci.lanes, rounds := v.ci.rounds } } := by rw [← hv]; rfl
  have done : s.laneDropped n l r o = match o.owner with | some k => v.updCtx k fun x => { x with pc := o.pc } | none => v := by rw [← hv]; rfl
  have get : ∀ f, (s.laneDropped n l r o).get f = (s.set (R.CC_DUMMY_CNT n) (s.get (R.CC_DUMMY_CNT n) + s.laneDummies n l r.ciphered)).get f := fun f => by
    rw [done, State.get, State.get, ← regs]; split <;> rfl
  have lanes : (s.laneDropped n l r o).ci = v.ci := by rw [done]; split <;> rfl
  have lane : ∀ n' l', (s.laneDropped n l r o).lane n' l' = v.lane n' l' := fun n' l' => by rw [State.lane, lanes]; rfl
  intro u
  dsimp only [u]
  refine ⟨by rw [get, State.get_set_same]; rfl, by rw [lane, here], by rw [lane, here], by rw [lane, here], fun n' l' ne => (lane ..).trans (there n' l' ne),
    fun f off => (get f).trans (dummies f off), fun i => ?_, ?_⟩
  · rw [done]
    split
    next k own =>
      by_cases same : k = i
      · subst same
        rw [own, if_pos rfl, State.ctx_updCtx_same, ctx]
      · rw [own, if_neg (by simpa using same), State.ctx_updCtx_ne _ _ _ _ same, ctx]
    next own => rw [own, if_neg (by simp), ctx]
  · rw [done]
    split
    · rw [only]; rfl
    · rw [only]

end

/-! ## A hash operation that ends (R153, R154) -/

section
variable {n : Fin 16} {o : UnitOp} {os : List UnitOp} {j : HashJob} {ok : Bool}

/-- Something that upset a datapath shows in its result. -/
theorem upset_ne (bs : List Byte) : (bs != upset false bs) = true := by
  cases bs with
  | nil => rfl
  | cons b bs =>
    have flipped : ∀ b : Byte, b ≠ b ^^^ 1 := by decide
    simpa [upset] using flipped b

/-- A hash operation taken off its queue, its blocks counted. -/
def State.hashDone (s : State) (n : Nat) (os : List UnitOp) (o : UnitOp) : State :=
  (s.updHash n fun u => { u with queue := os }).count (R.CC_HASH_BLOCKS n) o.blocks

theorem execHashOpComplete_eq (at_ : (s.hashUnit n).queue = o :: os) (job : o.job = .hash j) (quiet : (s.hashUnit n).svc.katBusy = false)
    (lock : s.relocks n = false) (own : o.owner = some k) :
    exec (.hashOpComplete n ok) s =
      if ok then .next ((s.hashDone n os o).release k none { j.effect (j.digest o.key.clear) with pc := o.pc, num := o.num })
      else .next (((s.hashDone n os o).updCtx k fun x => { x with pc := o.pc }).twinFault n 4 (some k)) := by
  change execHashOpComplete n ok s = _
  rw [execHashOpComplete, at_]
  dsimp only
  rw [job]
  dsimp only
  rw [quiet, lock, if_neg (by decide), own]
  cases ok with
  | true => rw [show ∀ bs : List Byte, upset true bs = bs from fun _ => rfl, if_neg (by simp)]; rfl
  | false => rw [if_pos (upset_ne _)]; rfl

theorem execHashOpComplete_held (h : (s.hashUnit n).queue = [] ∨ (s.hashUnit n).svc.katBusy = true ∨ s.relocks n = true) :
    exec (.hashOpComplete n ok) s = .next s := by
  change execHashOpComplete n ok s = _
  rw [execHashOpComplete]
  split
  · rfl
  next o os at_ =>
    split
    · rfl
    · exact if_pos (h.resolve_left (by simp [at_]))

end

/-- Settles O24: lane and hash operations by whether their twin results agree, and a released result by what it does to its context. -/
theorem unitOperationsReleaseOrFault : Obligations.UnitOperationsReleaseOrFault := by
  refine ⟨fun n l o j ok s at_ job go quiet lock => ?_, fun n l ok s h => execLaneOpComplete_held h, fun k e s => ?_,
    fun n u k s => s.twinFault_spec u.isLt k, fun n o os j k s at_ job quiet lock own => ⟨fun serves => ?_, ?_⟩, fun n ok s h => execHashOpComplete_held h⟩
  · intro r counted
    have ends := execLaneOpComplete_eq (ok := ok) at_ job go quiet lock
    refine ⟨fun agree => ?_, fun differ => ?_⟩
    · obtain ⟨dummies, blocks, here, there, kept, only⟩ := s.laneDone_spec n l r.1 o
      exact ⟨_, dummies, blocks, here, there, kept, only, ends.trans (if_pos agree)⟩
    · obtain ⟨dummies, none_, buf, wait, there, kept, ctx, only⟩ := s.laneDropped_spec n l r.1 o
      exact ⟨_, dummies, none_, buf, wait, there, kept, ctx, only, ends.trans (if_neg (by rw [differ]; decide))⟩
  · intro u
    refine ⟨fun gone => State.perform_ended gone, fun on auth => State.perform_authFail on auth, fun on auth => ?_⟩
    intro y
    refine (State.perform_writes on auth).trans ?_
    rw [State.updCtx, Context.lands_eq]
  · have writes : (s.hashDone n os o).release k none { j.effect (j.digest o.key.clear) with pc := o.pc, num := o.num } =
        (s.hashDone n os o).updCtx k fun x => x.lands o.num (j.effect (j.digest o.key.clear)).regs := State.perform_writes serves rfl
    refine ⟨_, (execHashOpComplete_eq at_ job quiet lock own).trans (congrArg Host.Outcome.next writes), ?_, fun i hi => ?_, ?_, ?_, ?_, ?_, rfl⟩
    · rw [State.ctx_updCtx_same, Context.lands_eq, HashJob.effect, List.foldl_map]
      rfl
    · exact State.ctx_updCtx_ne _ _ _ _ (Ne.symm hi)
    · exact congrArg HashUnit.queue (State.hashUnit_updHash_same ..)
    · exact (congrArg HashUnit.svc (State.hashUnit_updHash_same (s := s) n fun u => { u with queue := os })).trans rfl
    · exact (State.get_set_same ..).trans rfl
    · exact (keeps_set _ (R.CC_HASH_BLOCKS n) _ : keeps [R.CC_HASH_BLOCKS n] (s.updHash n fun u => { u with queue := os }) (s.hashDone n os o))
  · exact execHashOpComplete_eq at_ job quiet lock own

end Sys2Proof.Machine
end

section
/-! SUPPORT. What ended commands and issued stream operations leave of the module: the registers of most pages, the units' service and what no command owns (R63, R98-R103). -/
namespace Sys2Proof.Machine

variable {s : State}

/-! ## The view -/

/-- Does a field stand in a page no command's end writes: none of a public-key cluster, an MPU, Agate, a link, the sequencers or the host queue engine, nor
PK_INSERVICE? -/
def offEnd (f : Field) : Bool :=
  let p := f.key / 32 / 0x1000
  p < 0x71 && !(0x20 ≤ p && p < 0x30) && !(0x50 ≤ p && p < 0x60) && f.key != R.GBL_PK_INSERVICE.key

/-- A lane without the operations it holds. -/
def Lane.unit (x : Lane) : Lane := { x with exec := none, wait := none, bufExec := none, bufWait := none, busyFrom := none, begun := [] }

/-- The state without what a command's end may write. -/
def State.offEnds (s : State) : State :=
  { s with
    regs := [], parts := [], hq := {}, sq := {}, ci := { s.ci with lanes := [], hash := [], moved := [] }
    ge := { s.ge with fences := [] }, pk := {}, pw := { s.pw with gated := [], activeAt := [] }
    pr := { s.pr with takeAt := none, heldSync := false }, hb := { s.hb with mem := [], poison := [] }
    gt := { s.gt with verifying := [] }, ag := {}, ln := {}, jr := { s.jr with queue := [] }, frees := 0, out := [] }

/-- The registers no command's end writes. -/
def State.offRegs (s : State) (f : Field) : Nat := if offEnd f then s.get f else 0

/-- What no command's end writes, with the registers and the units as they serve. -/
def State.endView (s : State) : State × (Field → Nat) × (Nat → Nat → Lane) × (Nat → Service) :=
  (s.offEnds, s.offRegs, fun n l => (s.lane n l).unit, fun n => (s.hashUnit n).svc)

section
variable {t : State} (h : t.endView = s.endView)
include h

theorem State.offEnds_of_endView : t.offEnds = s.offEnds := congrArg Prod.fst h

theorem State.get_of_endView {f : Field} (off : offEnd f = true) : t.get f = s.get f := by
  have : t.offRegs f = s.offRegs f := congrFun (congrArg (·.2.1) h) f
  simpa [State.offRegs, off] using this

theorem State.bit_of_endView {f : Field} (off : offEnd f = true) (i : Nat) : t.bit f i = s.bit f i := by
  rw [State.bit, State.get_of_endView h off]; rfl

theorem State.lane_of_endView (n l : Nat) : (t.lane n l).unit = (s.lane n l).unit := congrFun (congrFun (congrArg (·.2.2.1) h) n) l

theorem State.unitSvc_of_endView (n u : Nat) : t.unitSvc n u = s.unitSvc n u := by
  unfold State.unitSvc
  have hash : (t.hashUnit n).svc = (s.hashUnit n).svc := congrFun (congrArg (·.2.2.2) h) n
  have lane := congrArg Lane.svc (State.lane_of_endView h n u)
  have fmt : t.fmtUnit n = s.fmtUnit n := by
    have := congrArg (fun v : State => v.fmtUnit n) (State.offEnds_of_endView h)
    exact this
  split
  · exact lane
  · split
    · exact hash
    · exact fmt

end

@[simp] theorem State.endView_ite {c : Prop} [Decidable c] (t u : State) : (if c then t else u).endView = if c then t.endView else u.endView := by
  split <;> rfl

@[simp] theorem State.endView_foldl {α : Type} (f : State → α → State) (hf : ∀ u a, (f u a).endView = u.endView) (xs : List α) (s : State) :
    (xs.foldl f s).endView = s.endView :=
  foldl_keeps (fun u => u.endView = s.endView) f (fun u a hu => (hf u a).trans hu) xs s rfl

/-! ## Registers -/

@[simp] theorem State.set_endView (s : State) {f : Field} (v : Nat) (h : offEnd f = false) : (s.set f v).endView = s.endView := by
  have regs : (s.set f v).offRegs = s.offRegs := funext fun g => by
    unfold State.offRegs
    split
    next hg => exact s.get_set_ne f g v fun same => by simp [offEnd, same] at h hg; omega
    · rfl
  show ((s.set f v).offEnds, _, _, _) = _
  rw [regs]; rfl

theorem offEnd_page {f : Field} (h : 0x71 * 0x1000 ≤ f.addr) : offEnd f = false := by
  simp only [offEnd, Field.key]
  have : ¬ (32 * f.addr + f.lsb) / 32 / 0x1000 < 0x71 := by omega
  simp [this]

/-- The pages no command's end writes. -/
def offEndPage (p : Nat) : Bool := p < 0x71 && !(0x20 ≤ p && p < 0x30) && !(0x50 ≤ p && p < 0x60)

theorem offEnd_at {f : Field} {p : Nat} (lsb : f.lsb < 32) (at_ : f.addr / 0x1000 = p) : offEnd f = (offEndPage p && f.key != R.GBL_PK_INSERVICE.key) := by
  have : f.key / 32 = f.addr := by rw [Field.key]; omega
  simp only [offEnd, offEndPage, this, at_]

theorem offEnd_apart {f : Field} {p : Nat} (lsb : f.lsb < 32) (at_ : f.addr / 0x1000 = p) (h : offEndPage p = false) : offEnd f = false := by
  rw [offEnd_at lsb at_, h]; rfl

theorem offEnd_raw {p : Nat} (h : offEndPage p = false) : offEnd (R.BLK_INT_RAW p) = false :=
  offEnd_apart (by simp [R.BLK_INT_RAW]) (by simp only [R.BLK_INT_RAW]; omega) h

theorem offEndPage_mpu {m : Nat} (h : m < 16) : offEndPage (0x50 + m) = false := by simp [offEndPage]; omega
theorem offEndPage_pk {p : Nat} (h : p < 8) : offEndPage (0x20 + p) = false := by simp [offEndPage]; omega
theorem offEndPage_high {p : Nat} (h : 0x71 ≤ p) : offEndPage p = false := by simp [offEndPage]; omega

/-! ## The basic operations -/

@[simp] theorem State.emit_endView (s : State) (o : Output) : (s.emit o).endView = s.endView := (rfl)
@[simp] theorem State.updPart_endView (s : State) (p : Nat) (f : Part → Part) : (s.updPart p f).endView = s.endView := (rfl)
@[simp] theorem State.updQp_endView (s : State) (p q : Nat) (f : QueuePair → QueuePair) : (s.updQp p q f).endView = s.endView := (rfl)
@[simp] theorem State.setCtx_endView (s : State) (k : Nat) (x : Context) : (s.setCtx k x).endView = s.endView := (rfl)
@[simp] theorem State.updCtx_endView (s : State) (k : Nat) (f : Context → Context) : (s.updCtx k f).endView = s.endView := (rfl)
@[simp] theorem State.touch_endView (s : State) (i : Nat) : (s.touch i).endView = s.endView := (rfl)
@[simp] theorem State.cross_endView (s : State) (i : Nat) : (s.cross i).endView = s.endView := (rfl)
@[simp] theorem State.crossPort_endView (s : State) (f : Func) : (s.crossPort f).endView = s.endView := (rfl)
@[simp] theorem State.crossHbm_endView (s : State) (a : Nat) : (s.crossHbm a).endView = s.endView := by
  unfold State.crossHbm
  simp
@[simp] theorem State.writeMem_endView (s : State) (a : Nat) (bs : List Byte) : (s.writeMem a bs).endView = s.endView := (rfl)
@[simp] theorem State.setMoved_endView (s : State) (n : Nat) (os : List UnitOp) : (s.setMoved n os).endView = s.endView := (rfl)
@[simp] theorem State.updLink_endView (s : State) (k : Nat) (f : Link → Link) : (s.updLink k f).endView = s.endView := (rfl)
@[simp] theorem State.settleTake_endView (s : State) : s.settleTake.endView = s.endView := by
  unfold State.settleTake
  split <;> rfl

@[simp] theorem State.count_endView (s : State) {f : Field} (d : Nat) (h : offEnd f = false) : (s.count f d).endView = s.endView := s.set_endView _ h
@[simp] theorem State.countSat_endView (s : State) {f : Field} (d : Nat) (h : offEnd f = false) : (s.countSat f d).endView = s.endView := s.set_endView _ h
@[simp] theorem State.setBit_endView (s : State) {f : Field} (i : Nat) (b : Bool) (h : offEnd f = false) : (s.setBit f i b).endView = s.endView :=
  s.set_endView _ h

@[simp] theorem State.msixSend_endView (s : State) (f : Func) (v : Nat) : (s.msixSend f v).endView = s.endView := by
  unfold State.msixSend
  repeat' split
  all_goals rfl

@[simp] theorem State.raise_endView (s : State) {p : Nat} (i : Nat) (h : offEndPage p = false) : (s.raise p i).endView = s.endView := by
  unfold State.raise
  simp [offEnd_raw h]

theorem offEnd_openSev : offEnd R.AGT_OPEN_SEV = false := by decide

@[simp] theorem State.severity_endView (s : State) (n : Nat) : (s.severity n).endView = s.endView := by
  unfold State.severity
  split
  · rfl
  · exact s.set_endView _ offEnd_openSev

@[simp] theorem State.violation_endView (s : State) {m : Nat} (kind : AccessKind) (a tag : Nat) (h : m < 16) :
    (s.violation m kind a tag).endView = s.endView := by
  have off : ∀ o l w r, o < 0x1000 → l < 32 → offEnd ⟨0x50000 + o + 0x1000 * m, l, w, .ro, r⟩ = false := fun o l w r ho hl =>
    offEnd_apart hl (by show (0x50000 + o + 0x1000 * m) / 0x1000 = 0x50 + m; omega) (offEndPage_mpu h)
  have raw : offEndPage (pgMPU m) = false := offEndPage_mpu h
  have f1 := off 0x104 0 32 0 (by decide) (by decide)
  have f2 := off 0x108 0 32 0 (by decide) (by decide)
  have f3 := off 0x10C 0 32 0 (by decide) (by decide)
  have f4 := off 0x110 0 32 0 (by decide) (by decide)
  have f5 := off 0x114 0 8 0 (by decide) (by decide)
  have f6 := off 0x114 16 10 0 (by decide) (by decide)
  have f7 := off 0x118 0 32 0 (by decide) (by decide)
  have f8 := off 0x11C 0 8 0 (by decide) (by decide)
  cases kind <;>
    simp [State.violation, raw, R.MPU_VIOL_RD_CNT, R.MPU_VIOL_WR_CNT, R.MPU_VIOL_X_CNT, R.MPU_LAST_RD_ADDR_LO, R.MPU_LAST_RD_ADDR_HI, R.MPU_LAST_RD_TAG,
      R.MPU_LAST_WR_ADDR_LO, R.MPU_LAST_WR_ADDR_HI, f1, f2, f3, f4, f5, f6, f7, f8]

/-! ## The end of a command -/

theorem State.dmaMpu_lt (s : State) (c : Cmd) : s.dmaMpu c < 16 := by
  unfold State.dmaMpu
  split
  next f _ =>
    have port : funcPort f < 2 := by cases f <;> exact Fin.isLt _
    omega
  · decide

@[simp] theorem State.dmaWrite_endView (s : State) {m : Nat} (tag a : Nat) (bs : List Byte) (h : m < 16) :
    (s.dmaWrite m tag a bs).1.endView = s.endView := by
  unfold State.dmaWrite
  refine foldl_keeps (fun r : State × Bool => r.1.endView = s.endView) _ (fun r p hr => ?_) _ _ rfl
  split <;> simp [hr, h]

@[simp] theorem State.zeroOutput_endView (s : State) (c : Cmd) (st : Nat) (wrote : Bool) : (s.zeroOutput c st wrote).endView = s.endView := by
  unfold State.zeroOutput
  repeat' split
  all_goals simp [State.dmaMpu_lt]

theorem offEnd_pk {p o l w r : Nat} (hp : p < 8) (ho : o < 0x1000) (hl : l < 32) : offEnd ⟨0x20000 + o + 0x1000 * p, l, w, .ro, r⟩ = false :=
  offEnd_apart hl (by show (0x20000 + o + 0x1000 * p) / 0x1000 = 0x20 + p; omega) (offEndPage_pk hp)

theorem offEnd_pkInservice : offEnd R.GBL_PK_INSERVICE = false := by decide

@[simp] theorem State.settlePkCluster_endView (s : State) (p : Nat) : (s.settlePkCluster p).endView = s.endView := by
  unfold State.settlePkCluster
  simp [offEnd_pkInservice]

@[simp] theorem State.settlePkFreeze_endView (s : State) {p : Nat} (h : p < 8) : (s.settlePkFreeze p).endView = s.endView := by
  unfold State.settlePkFreeze
  have : offEndPage (pgPK p) = false := offEndPage_pk h
  dsimp only
  split <;> simp [this]

@[simp] theorem State.settleCurve_endView (s : State) : s.settleCurve.endView = s.endView := by
  unfold State.settleCurve State.showCurves
  have entry : offEnd R.PK0_STALE_ENTRY = false := by decide
  have busy : offEnd R.PK0_STALE_BUSY = false := by decide
  dsimp only
  split
  · rfl
  · rw [State.set_endView _ _ busy, State.set_endView _ _ entry]; rfl

theorem State.endView_foldl_mem {α : Type} {f : State → α → State} {xs : List α} (hf : ∀ u, ∀ a ∈ xs, (f u a).endView = u.endView) (s : State) :
    (xs.foldl f s).endView = s.endView := by
  induction xs generalizing s with
  | nil => rfl
  | cons a xs ih => exact (ih (fun u b hb => hf u b (List.mem_cons_of_mem _ hb)) _).trans (hf s a List.mem_cons_self)

@[simp] theorem State.countAborts_endView (s : State) {p : Nat} (n : Nat) (h : p < 8) : (s.countAborts p n).endView = s.endView :=
  s.set_endView _ (offEnd_pk h (o := 0x148) (by decide) (by decide))

@[simp] theorem State.dropPk_endView (s : State) (k : Nat) : (s.dropPk k).endView = s.endView := by
  unfold State.dropPk
  refine (State.endView_foldl_mem (fun u p hp => ?_) _).trans rfl
  have h : p < 8 := List.mem_range.mp (List.mem_filter.mp hp).1
  simp [State.settlePk, h]

/-! ## The units -/

theorem State.updLane_endView (s : State) (n l : Nat) {f : Lane → Lane} (hf : ∀ x, (f x).unit = x.unit) : (s.updLane n l f).endView = s.endView := by
  have same : (fun a b => ((s.updLane n l f).lane a b).unit) = fun a b => (s.lane a b).unit := funext fun a => funext fun b => by
    by_cases h : laneKey n l = laneKey a b
    · simp only [State.lane, State.updLane, ← h, Sparse.get_upd_same, hf]
    · simp only [State.lane, State.updLane, Sparse.get_upd_ne _ _ _ h]
  show (_, _, (fun a b => ((s.updLane n l f).lane a b).unit), _) = _
  rw [same]; rfl

theorem State.updHash_endView (s : State) (n : Nat) {f : HashUnit → HashUnit} (hf : ∀ x, (f x).svc = x.svc) : (s.updHash n f).endView = s.endView := by
  have same : (fun a => ((s.updHash n f).hashUnit a).svc) = fun a => (s.hashUnit a).svc := funext fun a => by
    by_cases h : n = a
    · subst h
      simp only [State.hashUnit, State.updHash, Sparse.get_upd_same, hf]
    · simp only [State.hashUnit, State.updHash, Sparse.get_upd_ne _ _ _ h]
  show (_, _, _, fun a => ((s.updHash n f).hashUnit a).svc) = _
  rw [same]; rfl

@[simp] theorem State.place_endView (s : State) (n l : Nat) (o : UnitOp) : (s.place n l o).endView = s.endView :=
  s.updLane_endView n l fun x => by split <;> rfl

@[simp] theorem State.seatMoved_endView (s : State) (n fuel : Nat) : (s.seatMoved n fuel).endView = s.endView := by
  induction fuel generalizing s with
  | zero => rfl
  | succ fuel ih =>
    unfold State.seatMoved
    dsimp only
    split
    · rfl
    · split
      · rfl
      · rw [ih]
        split
        · split <;> simp
        · simp

@[simp] theorem State.dropOps_endView (s : State) (k : Nat) : (s.dropOps k).endView = s.endView := by
  have lanes : (fun n l => ((s.dropOps k).lane n l).unit) = fun n l => (s.lane n l).unit := funext fun n => funext fun l => by
    simp only [State.dropOps, State.lane]
    rw [Sparse.get_mapVals _ _ _ _ rfl]; rfl
  have hash : (fun n => ((s.dropOps k).hashUnit n).svc) = fun n => (s.hashUnit n).svc := funext fun n => by
    simp only [State.dropOps, State.hashUnit]
    rw [Sparse.get_mapVals _ _ _ _ rfl]
    split <;> rfl
  have drop := s.dropPk_endView k
  have rest : (s.dropOps k).offEnds = s.offEnds := by
    have := congrArg (fun v : State => { v with ci := { v.ci with lanes := [], hash := [], moved := [] } }) (State.offEnds_of_endView drop)
    exact this
  have regs : (s.dropOps k).offRegs = s.offRegs := congrArg (·.2.1) drop
  show ((s.dropOps k).offEnds, (s.dropOps k).offRegs, _, _) = (s.offEnds, s.offRegs, _, _)
  rw [lanes, hash, rest, regs]

/-! ## Completions -/

theorem offEnd_seq {n o l w r : Nat} {a : Access} (ho : 0xA1000 ≤ o) : offEnd ⟨o + 0x1000 * n, l, w, a, r⟩ = false :=
  offEnd_page (by show 0x71 * 0x1000 ≤ o + 0x1000 * n; omega)

@[simp] theorem offEndPage_seq (n : Nat) : offEndPage (pgSEQ n) = false := offEndPage_high (by unfold pgSEQ; omega)

@[simp] theorem State.countEnding_endView (s : State) (k : Nat) (x : Context) (c : Cmd) (st det : Nat) :
    (s.countEnding k x c st det).endView = s.endView := by
  have done : offEnd (R.SEQ_DONE_CNT (clusterOf k)) = false := offEnd_seq (by decide)
  have pc : offEnd (R.SEQ_LAST_PC (clusterOf k)) = false := offEnd_seq (by decide)
  have cls : offEnd (R.SEQ_LAST_CLASS (clusterOf k)) = false := offEnd_seq (by decide)
  have status : offEnd (R.SEQ_LAST_STATUS (clusterOf k)) = false := offEnd_seq (by decide)
  have ctx : offEnd (R.SEQ_LAST_CTX (clusterOf k)) = false := offEnd_seq (by decide)
  have prog : offEnd (R.SEQ_LAST_PROGRAM (clusterOf k)) = false := offEnd_seq (by decide)
  have mabort : offEnd (R.SEQ_MABORT_CNT (clusterOf k)) = false := offEnd_seq (by decide)
  have fault : offEnd (R.SEQ_FAULT_CNT (clusterOf k)) = false := offEnd_seq (by decide)
  have drawn : ∀ u : State, { u with frees := u.frees + 1 }.endView = u.endView := fun _ => rfl
  unfold State.countEnding
  dsimp only
  repeat' split
  all_goals simp only [State.set_endView, State.count_endView, State.countSat_endView, State.raise_endView, offEndPage_seq, done, pc, cls, status, ctx, prog,
    mabort, fault, drawn]

@[simp] theorem State.settleSeq_endView (s : State) (n : Nat) : (s.settleSeq n).endView = s.endView := by
  unfold State.settleSeq
  split <;> simp

@[simp] theorem State.settleStale_endView (s : State) : s.settleStale.endView = s.endView := by
  have slot : offEnd R.SEQ0_STALE_SLOT = false := by decide
  have busy : offEnd R.SEQ0_STALE_BUSY = false := by decide
  unfold State.settleStale State.showStale
  split
  · rfl
  · simp [slot, busy]; rfl

@[simp] theorem State.partEvent_endView (s : State) (a i : Nat) : (s.partEvent a i).endView = s.endView := by
  unfold State.partEvent
  dsimp only
  rw [State.msixSend_endView, State.msixSend_endView]
  split
  · refine (State.endView_foldl _ (fun u w => ?_) _ _).trans (by simp)
    split <;> simp
  · simp

@[simp] theorem State.haltQp_endView (s : State) (a b e : Nat) : (s.haltQp a b e).endView = s.endView := by
  have hqe : offEndPage pgHQE = false := by decide
  simp [State.haltQp, hqe]

@[simp] theorem State.coalesce_endView (s : State) (a b : Nat) : (s.coalesce a b).endView = s.endView := by
  unfold State.coalesce
  dsimp only
  repeat' split
  all_goals simp

@[simp] theorem State.settleQp_endView (s : State) (a b : Nat) : (s.settleQp a b).endView = s.endView := by simp [State.settleQp]

@[simp] theorem State.reportAer_endView (s : State) (f : Option Func) (b : Nat) : (s.reportAer f b).endView = s.endView := by
  cases f <;> rfl

@[simp] theorem State.sample_endView (s : State) (kind i bin : Nat) (v : Int) (n : Nat) : (s.sample kind i bin v n).endView = s.endView := by
  have agt : offEndPage pgAGT = false := by decide
  unfold State.sample
  dsimp only
  repeat' split
  · rfl
  · exact (State.raise_endView _ _ agt).trans rfl
  · rfl

@[simp] theorem State.failCompletion_endView (s : State) (c : Cmd) : (s.failCompletion c).endView = s.endView := by
  unfold State.failCompletion
  dsimp only
  split <;> simp [State.reportWrite]

@[simp] theorem State.sampleLatency_endView (s : State) (a ns : Nat) : (s.sampleLatency a ns).endView = s.endView := by
  unfold State.sampleLatency
  dsimp only
  split <;> simp

@[simp] theorem State.discardCompletion_endView (s : State) : s.discardCompletion.endView = s.endView := by
  have hqe : offEndPage pgHQE = false := by decide
  have cnt : offEnd R.HQE_DISCARD_CNT = false := by decide
  simp [State.discardCompletion, hqe, cnt]

@[simp] theorem State.writeCompletion_endView (s : State) (ok : Option Bool) (c : Cmd) (e : Ending) : (s.writeCompletion ok c e).endView = s.endView := by
  have drawn : (s.writeOutcome ok).2.endView = s.endView := by cases ok <;> rfl
  unfold State.writeCompletion
  dsimp only
  rw [State.settleQp_endView]
  split
  · simp [drawn]
  · simp [drawn]
  · simp [drawn]
  · split
    · rw [State.coalesce_endView, State.updQp_endView]
      split <;> simp [drawn]
    · rw [State.updQp_endView]
      split <;> simp [drawn]

@[simp] theorem State.sendFlit_endView (s : State) (k type vc : Nat) (last : Bool) (p : List Byte) : (s.sendFlit k type vc last p).endView = s.endView := by
  have cnt : offEnd (R.FVL_TX_FLITS k) = false := offEnd_page (by simp only [R.FVL_TX_FLITS]; omega)
  unfold State.sendFlit
  dsimp only
  rw [State.emit_endView]
  split <;> simp [cnt]

@[simp] theorem State.sendOn_endView (s : State) (k : Nat) (o : Output) : (s.sendOn k o).endView = s.endView := by
  unfold State.sendOn
  dsimp only
  split
  · rw [State.emit_endView]
    exact (State.endView_foldl _ (fun u p => by simp) _ _).trans (by simp)
  · rfl

@[simp] theorem State.settleAbort_endView (s : State) (p : Nat) : (s.settleAbort p).endView = s.endView := by simp [State.settleAbort]

@[simp] theorem State.abortDone_endView (s : State) (c : Cmd) (e : Ending) : (s.abortDone c e).endView = s.endView := by simp [State.abortDone]

@[simp] theorem State.answer_endView (s : State) (ok : Option Bool) (c : Cmd) (e : Ending) : (s.answer ok c e).endView = s.endView := by
  unfold State.answer
  split
  · simp
  · unfold State.complete
    dsimp only
    simp

@[simp] theorem State.finish_endView (s : State) (ok : Option Bool) (c : Cmd) (e : Ending) (d : Option Nat) : (s.finish ok c e d).endView = s.endView := by
  unfold State.finish
  split
  · rfl
  · simp

@[simp] theorem State.endCommand_endView (s : State) (k st det len : Nat) (ok : Option Bool) : (s.endCommand k st det len ok).endView = s.endView := by
  unfold State.endCommand
  dsimp only
  split
  · rfl
  · simp

/-- Pumped stream operations leave what no command's end writes. -/
@[simp] theorem State.pump_endView (s : State) (k fuel : Nat) : (s.pump k fuel).endView = s.endView := by
  induction fuel generalizing s with
  | zero => rfl
  | succ fuel ih =>
    unfold State.pump
    dsimp only
    split
    · rfl
    · split
      · simp
      · split
        · rfl
        · split
          · rfl
          · rw [ih]; simp

@[simp] theorem State.pumpAll_endView (s : State) (n : Nat) : (s.pumpAll n).endView = s.endView := by
  unfold State.pumpAll
  simp

end Sys2Proof.Machine
end

section
/-! SUPPORT. Known-answer tests, reseeds and resets of a cipher cluster's units (R138, R147, R150, R151, R155). -/
namespace Sys2Proof.Machine

variable {s t : State} {n u : Nat}

/-! ## The service of a unit -/

theorem State.settleCluster_work (s : State) (n : Nat) : UnitWork s (s.settleCluster n) := UnitWork.settleCluster .refl

theorem State.unitSvc_of_ci (h : t.ci = s.ci) (n u : Nat) : t.unitSvc n u = s.unitSvc n u := by
  simp only [State.unitSvc, State.lane, State.hashUnit, State.fmtUnit, h]

theorem State.settleCluster_spares {fs : List Field} (s : State) (n : Nat) (bit : apart fs R.GBL_CC_INSERVICE) (sev : apart fs R.AGT_OPEN_SEV) :
    spares fs s (s.settleCluster n) := by
  unfold State.settleCluster
  exact .settleTake (.setBit (.ite (.severity .refl sev) .refl) bit)

/-- A state apart from what judging a cluster's service writes: registers, Agate and the watch of the takeover conditions. -/
def State.offService (s : State) : State := { s with regs := [], ag := {}, pr := {} }

theorem State.settleCluster_offService (s : State) (n : Nat) : (s.settleCluster n).offService = s.offService := by
  unfold State.settleCluster
  rw [State.settleTake_spec]
  dsimp only
  split
  · refine Eq.trans (b := (s.severity 3).offService) rfl ?_
    rw [(s.severity_spec 3).2]; rfl
  · rfl

/-- A unit is in service once its test has passed, Flint is ready and a lane's generator seeded. -/
theorem State.settleUnit_svc (s : State) (n u : Nat) : (s.settleUnit n u).unitSvc n u =
    { s.unitSvc n u with inService := (s.unitSvc n u).passed && ((s.unitSvc n u).inService || s.get R.FLT_READY == 1) &&
        (decide (4 ≤ u) || (s.lane n u).seeded) } := by
  unfold State.settleUnit
  dsimp only
  rw [State.unitSvc_of_ci (State.settleCluster_work _ n).ci, State.unitSvc_updSvc]

theorem State.updSvc_regs (s : State) (n u : Nat) (f : Service → Service) : (s.updSvc n u f).regs = s.regs := by rw [s.updSvc_only]

theorem State.settleUnit_spares {fs : List Field} (s : State) (n u : Nat) (bit : apart fs R.GBL_CC_INSERVICE) (sev : apart fs R.AGT_OPEN_SEV) :
    spares fs s (s.settleUnit n u) := by
  unfold State.settleUnit
  exact .trans (.update .refl (State.updSvc_regs ..)) (State.settleCluster_spares _ _ bit sev)

/-! ## What a test runs (R150) -/

@[simp] theorem katVector_length (i n : Nat) : (katVector i n).length = n := by simp [katVector]

/-- Every sound datapath gives the known answers. -/
theorem katAnswers_known {p : Path} (h : p.sound) (first : Nat) : katAnswers p.cipher first = katKnown := by
  have eq : ∀ c dec i j m (b : List Byte), (c = 1 ∨ m = 16 ∨ m = 24 ∨ m = 32) →
      p.cipher c dec (katVector j m) i b = (if dec then blkDec else blkEnc) c (katVector j m) b := fun c dec i j m b hm =>
    p.cipher_eq h c dec _ i b (by simpa [longEnough] using hm)
  have ctr : (fun j => p.cipher 0 false (katVector 16 16) (first + 8 + j)) = fun _ => blkEnc 0 (katVector 16 16) :=
    funext fun j => funext fun b => eq _ _ _ _ _ b (by simp)
  unfold katKnown katAnswers
  rw [ctr]
  simp only [List.zipIdx_cons, List.zipIdx_nil, List.flatMap_cons, List.flatMap_nil]
  rw [eq _ _ _ _ 16 _ (by simp), eq _ _ _ _ 16 _ (by simp), eq _ _ _ _ 24 _ (by simp), eq _ _ _ _ 24 _ (by simp), eq _ _ _ _ 32 _ (by simp),
    eq _ _ _ _ 32 _ (by simp), eq 1 _ _ _ _ _ (by simp), eq 1 _ _ _ _ _ (by simp)]
  rfl

theorem katLane_known {p : Path} (h : p.sound) (sets : Nat) : katLane p sets = (List.range sets).flatMap fun _ => katKnown := by
  unfold katLane
  congr 1
  exact funext fun i => katAnswers_known h _

theorem upset_eq (ok : Bool) (v : List Byte) : (upset ok v == v) = ok := by
  cases ok
  · have := upset_ne v
    simp only [bne_iff_ne, ne_eq] at this
    exact beq_eq_false_iff_ne.mpr fun h => this h.symm
  · exact beq_self_eq_true v

/-- A test passes just where nothing upset an answer. -/
theorem State.katRun_pass (s : State) (n u : Nat) (pass twinOk : Bool) : (s.katRun n u pass twinOk).1 = (pass && twinOk) := by
  unfold State.katRun
  split
  · dsimp only
    rw [katLane_known (s.workPath_sound false), katLane_known (s.workPath_sound true), upset_eq, agree_upset]
  · dsimp only
    rw [show ∀ v : List Byte, (v == upset twinOk v) = twinOk from fun v => by rw [BEq.comm, upset_eq]]

theorem forcedDifferenceSeen_true : forcedDifferenceSeen = true := by
  rw [forcedDifferenceSeen, agree_upset]; rfl

/-- A test counts its work and changes no unit. -/
theorem State.katRun_ci (s : State) (n u : Nat) (pass twinOk : Bool) (a b : Nat) : (s.katRun n u pass twinOk).2.unitSvc a b = s.unitSvc a b ∧
    (s.katRun n u pass twinOk).2.lane a b = s.lane a b := by
  unfold State.katRun
  split
  · exact ⟨rfl, rfl⟩
  · dsimp only
    split <;> exact ⟨rfl, rfl⟩

theorem State.katRun_spares {fs : List Field} (s : State) (n u : Nat) (pass twinOk : Bool) (dummies : apart fs (R.CC_DUMMY_CNT n))
    (blocks : apart fs (R.CC_HASH_BLOCKS n)) : spares fs s (s.katRun n u pass twinOk).2 := by
  unfold State.katRun
  split
  · exact .update (.set (.update .refl rfl) dummies) rfl
  · dsimp only
    exact .ite (.set .refl blocks) .refl

/-! ## The end of a test (R147, R150) -/

/-- A unit's service as its test ends. -/
def Service.tested (ok : Bool) (v : Service) : Service := { v with katWanted := false, katBusy := false, katFail := !ok, passed := ok }

/-- The state as a test ends, its service judged. -/
def State.katJudged (s : State) (n u : Nat) (ok : Bool) : State := (s.updSvc n u (Service.tested ok)).settleUnit n u

theorem State.katJudged_svc (s : State) (n u : Nat) (ok : Bool) : (s.katJudged n u ok).unitSvc n u =
    { (s.unitSvc n u).tested ok with inService := ok && ((s.unitSvc n u).inService || s.get R.FLT_READY == 1) &&
        (decide (4 ≤ u) || (s.lane n u).seeded) } := by
  have ready : (s.updSvc n u (Service.tested ok)).get R.FLT_READY = s.get R.FLT_READY := by rw [State.get, State.updSvc_regs]; rfl
  have seeded : u < 4 → ((s.updSvc n u (Service.tested ok)).lane n u).seeded = (s.lane n u).seeded := fun h => by
    rw [State.updSvc, if_pos h, State.lane_updLane_same]
  rw [State.katJudged, State.settleUnit_svc, State.unitSvc_updSvc, ready]
  by_cases h : 4 ≤ u
  · simp [h, Service.tested]
  · simp [seeded (by omega), Service.tested]

theorem State.katJudged_spares {fs : List Field} (s : State) (n u : Nat) (ok : Bool) (bit : apart fs R.GBL_CC_INSERVICE) (sev : apart fs R.AGT_OPEN_SEV) :
    spares fs s (s.katJudged n u ok) := .trans (.update .refl (State.updSvc_regs ..)) (State.settleUnit_spares _ _ _ bit sev)

theorem intRaw_apart {p : Nat} {f : Field} (h : f.key ≠ (R.BLK_INT_RAW p).key) : apart [R.BLK_INT_RAW p] f := by simpa [apart] using h

theorem offEnd_ccRaw (n : Fin 16) : offEnd (R.BLK_INT_RAW (pgCC n)) = true := by revert n; decide

/-- A lane whose test has passed and which holds no executing operation starts the one that waits. -/
def State.katFreed (s : State) (n u : Nat) : State :=
  if u < 4 then s.updLane n u fun x => if x.exec.isNone then x.advance s.quartz else x else s

theorem State.katFreed_svc (s : State) (n u : Nat) : (s.katFreed n u).unitSvc n u = s.unitSvc n u := by
  unfold State.katFreed State.unitSvc
  split
  · rw [State.lane_updLane_same]
    split <;> rfl
  · rfl

theorem State.katFreed_regs (s : State) (n u : Nat) : (s.katFreed n u).regs = s.regs := by
  unfold State.katFreed
  split <;> rfl

/-- A test that is due. -/
def State.katDue (s : State) (n u : Nat) : Prop := (s.unitSvc n u).katBusy = true ∨ ((s.unitSvc n u).katWanted = true ∧ s.unitIdle n u = true)

/-- The state as a requested test starts. -/
def State.katNoted (s : State) (n u : Nat) : State := if (s.unitSvc n u).katWanted then s.raise (pgCC n) 4 else s

theorem execKatComplete_passes {n : Fin 16} {u : Fin 6} (due : s.katDue n u) (free : s.relocks n = false) :
    exec (.katComplete n u true true) s = .next (((((s.katNoted n u).katRun n u true true).2.katJudged n u true).katFreed n u).pumpAll n) := by
  have go : ¬(¬((s.unitSvc n u).katBusy = true ∨ ((s.unitSvc n u).katWanted = true ∧ s.unitIdle n u = true)) ∨ s.relocks n = true) := by
    rw [free]; exact fun h => h.elim (fun h => h due) (by simp)
  show execKatComplete n u true true s = _
  unfold execKatComplete
  rw [if_neg go]
  dsimp only
  rw [State.katRun_pass, forcedDifferenceSeen_true]
  simp only [Bool.and_self, if_true, and_true]
  rfl

theorem katPasses {n : Fin 16} {u : Fin 6} (due : s.katDue n u) (free : s.relocks n = false) :
    ∃ t, exec (.katComplete n u true true) s = .next t ∧ (t.unitSvc n u).passed = true ∧ (t.unitSvc n u).katBusy = false ∧
      (t.unitSvc n u).katWanted = false ∧ (t.unitSvc n u).katFail = false ∧
      (t.unitSvc n u).inService = (((s.unitSvc n u).inService || s.get R.FLT_READY == 1) && (decide (4 ≤ u.val) || (s.lane n u).seeded)) ∧
      ((s.unitSvc n u).katWanted = true → t.bit (R.BLK_INT_RAW (pgCC n)) 4 = true) := by
  have run : ∃ r : State, r = ((s.katNoted n u).katRun n u true true).2 ∧ r.unitSvc n u = s.unitSvc n u ∧ r.lane n u = s.lane n u ∧
      spares [R.FLT_READY] s r ∧ ((s.unitSvc n u).katWanted = true → r.bit (R.BLK_INT_RAW (pgCC n)) 4 = true) := by
    have ci : (s.katNoted n u).ci = s.ci := by 
      unfold State.katNoted
      split
      · obtain ⟨-, -, ci, -⟩ := (endKeeps_iff _ _).mp (endKeeps_raise s (pgCC n) 4)
        exact ci
      · rfl
    have work := (s.katNoted n u).katRun_ci n u true true n u
    refine ⟨_, rfl, work.1.trans (State.unitSvc_of_ci ci _ _), work.2.trans (by simp only [State.lane, ci]), ?_, fun wanted => ?_⟩
    · refine .trans (.andIf .refl (.raise .refl ?_)) (State.katRun_spares _ _ _ _ _ ?_ ?_)
      all_goals clear * -; revert n; decide
    · have raised : (s.katNoted n u).bit (R.BLK_INT_RAW (pgCC n)) 4 = true := by
        rw [State.katNoted, if_pos wanted]; exact State.raise_bit _ _ (by decide)
      have still : spares [R.BLK_INT_RAW (pgCC n)] (s.katNoted n u) ((s.katNoted n u).katRun n u true true).2 :=
        State.katRun_spares _ _ _ _ _ (intRaw_apart (by simp only [Field.key, R.BLK_INT_RAW, R.CC_DUMMY_CNT, pgCC]; omega))
          (intRaw_apart (by simp only [Field.key, R.BLK_INT_RAW, R.CC_HASH_BLOCKS, pgCC]; omega))
      rw [still.bit (by simp), raised]
  obtain ⟨r, hr, svc, lane, ready, raised⟩ := run
  have view : (((r.katJudged n u true).katFreed n u).pumpAll n).endView = ((r.katJudged n u true).katFreed n u).endView := State.pumpAll_endView _ _
  have service := (State.unitSvc_of_endView view n u).trans ((State.katFreed_svc _ n u).trans (State.katJudged_svc r n u true))
  rw [svc, lane, ready _ (by simp)] at service
  refine ⟨_, execKatComplete_passes due free, ?_⟩
  rw [← hr, service]
  refine ⟨rfl, rfl, rfl, rfl, rfl, fun wanted => ?_⟩
  have still : spares [R.BLK_INT_RAW (pgCC n)] r ((r.katJudged n u true).katFreed n u) :=
    .update (State.katJudged_spares _ _ _ _ (intRaw_apart (by simp only [Field.key, R.BLK_INT_RAW, R.GBL_CC_INSERVICE, pgCC]; omega))
      (intRaw_apart (by simp only [Field.key, R.BLK_INT_RAW, R.AGT_OPEN_SEV, pgCC]; omega))) (State.katFreed_regs ..)
  rw [State.bit_of_endView view (offEnd_ccRaw n), still.bit (by simp), raised wanted]

/-! ## A failed test (R147) -/

@[simp] theorem State.moveWaiting_endView (s : State) (n l : Nat) : (s.moveWaiting n l).endView = s.endView := by
  have taken : (s.updLane n l fun x => { x with wait := none, bufWait := none }).endView = s.endView := s.updLane_endView n l fun _ => rfl
  unfold State.moveWaiting
  dsimp only
  split
  · refine (State.endView_foldl _ (fun u o => ?_) _ _).trans (by simp [taken])
    split <;> simp
  · simp [taken]

@[simp] theorem State.endQueued_endView (s : State) (n : Nat) : (s.endQueued n).endView = s.endView := by
  unfold State.endQueued
  refine (State.endView_foldl _ (fun u o => ?_) _ _).trans (s.updHash_endView n fun _ => rfl)
  split <;> simp

/-- What a failed test of unit `u` leaves behind: the unit named, the notices, and its waiting work moved or ended. -/
def State.katDropped (s : State) (n u : Nat) : State :=
  let s := (({ s with ci.lastOut := Sparse.set 0 s.ci.lastOut n u } : State).raise (pgCC n) 1).severity 3
  if u < 4 then (s.updLane n u fun x => { x with seeded := false }).moveWaiting n u else if u = 4 then s.endQueued n else s

theorem State.katDropped_svc (s : State) (n u : Nat) : (s.katDropped n u).unitSvc n u = s.unitSvc n u := by
  unfold State.katDropped
  dsimp only
  generalize hw : (({ s with ci.lastOut := Sparse.set 0 s.ci.lastOut n u } : State).raise (pgCC n) 1).severity 3 = w
  have ci : w.ci = { s.ci with lastOut := Sparse.set 0 s.ci.lastOut n u } := by
    rw [← hw]
    obtain ⟨-, -, ci, -⟩ := (endKeeps_iff _ _).mp (endKeeps_severity (({ s with ci.lastOut := Sparse.set 0 s.ci.lastOut n u } : State).raise (pgCC n) 1) 3)
    obtain ⟨-, -, ci', -⟩ := (endKeeps_iff _ _).mp (endKeeps_raise ({ s with ci.lastOut := Sparse.set 0 s.ci.lastOut n u } : State) (pgCC n) 1)
    rw [ci, ci']
  have svc : w.unitSvc n u = s.unitSvc n u := by simp only [State.unitSvc, State.lane, State.hashUnit, State.fmtUnit, ci]
  split
  next lane =>
    rw [State.unitSvc_of_endView (State.moveWaiting_endView _ _ _), ← svc, State.unitSvc, State.unitSvc, if_pos lane, if_pos lane, State.lane_updLane_same]
  · split
    · rw [State.unitSvc_of_endView (State.endQueued_endView _ _), svc]
    · exact svc

theorem State.katDropped_raised (s : State) (n : Fin 16) (u : Nat) : (s.katDropped n u).bit (R.BLK_INT_RAW (pgCC n)) 1 = true := by
  unfold State.katDropped
  dsimp only
  generalize hw : (({ s with ci.lastOut := Sparse.set 0 s.ci.lastOut n u } : State).raise (pgCC n) 1).severity 3 = w
  have raised : w.bit (R.BLK_INT_RAW (pgCC n)) 1 = true := by
    have apart : apart [R.BLK_INT_RAW (pgCC n)] R.AGT_OPEN_SEV :=
      intRaw_apart (by simp only [Field.key, R.BLK_INT_RAW, R.AGT_OPEN_SEV, pgCC]; omega)
    rw [← hw, (spares.severity (n := 3) spares.refl apart).bit (by simp), State.raise_bit _ _ (by decide)]
  split
  · rw [State.bit_of_endView (State.moveWaiting_endView _ _ _) (offEnd_ccRaw n)]; exact raised
  · split
    · rw [State.bit_of_endView (State.endQueued_endView _ _) (offEnd_ccRaw n)]; exact raised
    · exact raised

theorem execKatComplete_fails {n : Fin 16} {u : Fin 6} {pass twinOk : Bool} (due : s.katDue n u) (free : s.relocks n = false)
    (fails : pass = false ∨ twinOk = false) : ∃ r : State, exec (.katComplete n u pass twinOk) s =
      .next (if 4 ≤ u.val ∨ ((r.katJudged n u false).katDropped n u).lanesUp n = [] then ((r.katJudged n u false).katDropped n u).raise (pgCC n) 2
        else (r.katJudged n u false).katDropped n u) := by
  have go : ¬(¬((s.unitSvc n u).katBusy = true ∨ ((s.unitSvc n u).katWanted = true ∧ s.unitIdle n u = true)) ∨ s.relocks n = true) := by
    rw [free]; exact fun h => h.elim (fun h => h due) (by simp)
  have out : (pass && twinOk) = false := by rcases fails with rfl | rfl <;> simp
  show ∃ r : State, execKatComplete n u pass twinOk s = _
  unfold execKatComplete
  rw [if_neg go]
  dsimp only
  rw [State.katRun_pass, out]
  simp only [Bool.false_and, Bool.false_eq_true, if_false, and_false, List.isEmpty_iff]
  exact ⟨_, rfl⟩

theorem katFails {n : Fin 16} {u : Fin 6} {pass twinOk : Bool} (due : s.katDue n u) (free : s.relocks n = false) (fails : pass = false ∨ twinOk = false) :
    ∃ t, exec (.katComplete n u pass twinOk) s = .next t ∧ (t.unitSvc n u).inService = false ∧ (t.unitSvc n u).katFail = true ∧
      (t.unitSvc n u).katBusy = false ∧ t.bit (R.BLK_INT_RAW (pgCC n)) 1 = true ∧ (4 ≤ u.val → t.bit (R.BLK_INT_RAW (pgCC n)) 2 = true) := by
  obtain ⟨r, ends⟩ := execKatComplete_fails due free fails
  refine ⟨_, ends, ?_⟩
  have svc := ((r.katJudged n u false).katDropped_svc n u).trans (r.katJudged_svc n u false)
  have raised := (r.katJudged n u false).katDropped_raised n u
  generalize (r.katJudged n u false).katDropped n u = w at svc raised
  split
  · obtain ⟨-, -, ci, -⟩ := (endKeeps_iff _ _).mp (endKeeps_raise w (pgCC n) 2)
    rw [State.unitSvc_of_ci ci, svc]
    exact ⟨rfl, rfl, rfl, State.raise_still (by decide) raised, fun _ => State.raise_bit _ _ (by decide)⟩
  next few =>
    rw [svc]
    exact ⟨rfl, rfl, rfl, raised, fun h => absurd (.inl h) few⟩

/-! ## Requests of a test (R155) -/

/-- A test requested. -/
def Service.asked (v : Service) : Service := { v with katWanted := true }

/-- The request of the test of lane `l` where a mask names it. -/
def State.askLane (n : Nat) (lanes : BitVec 4) (s : State) (l : Nat) : State := if lanes.getLsbD l then s.updSvc n l Service.asked else s

theorem laneKey_ne {n l m : Nat} (h : l ≠ m) : laneKey n l ≠ laneKey n m := by simp only [laneKey]; omega

theorem State.lane_askLane_ne {l m : Nat} (lanes : BitVec 4) (s : State) (hm : m < 4) (h : l ≠ m) : (s.askLane n lanes m).lane n l = s.lane n l := by
  unfold State.askLane State.updSvc
  split
  · exact State.lane_updLane_ne _ (laneKey_ne h)
  · rfl

theorem State.lane_askLane_same {l : Nat} (lanes : BitVec 4) (s : State) (hl : l < 4) :
    (s.askLane n lanes l).lane n l = if lanes.getLsbD l then { s.lane n l with svc := { (s.lane n l).svc with katWanted := true } } else s.lane n l := by
  unfold State.askLane State.updSvc
  split
  · exact State.lane_updLane_same ..
  · rfl

theorem State.lane_askLanes (s : State) (lanes : BitVec 4) {l : Nat} (hl : l < 4) : ((List.range 4).foldl (State.askLane n lanes) s).lane n l =
    if lanes.getLsbD l then { s.lane n l with svc := { (s.lane n l).svc with katWanted := true } } else s.lane n l := by
  rw [show List.range 4 = [0, 1, 2, 3] from rfl]
  simp only [List.foldl_cons, List.foldl_nil]
  match l, hl with
  | 0, _ => rw [State.lane_askLane_ne, State.lane_askLane_ne, State.lane_askLane_ne, State.lane_askLane_same] <;> decide
  | 1, _ => rw [State.lane_askLane_ne, State.lane_askLane_ne, State.lane_askLane_same, State.lane_askLane_ne] <;> decide
  | 2, _ => rw [State.lane_askLane_ne, State.lane_askLane_same, State.lane_askLane_ne, State.lane_askLane_ne] <;> decide
  | 3, _ => rw [State.lane_askLane_same, State.lane_askLane_ne, State.lane_askLane_ne, State.lane_askLane_ne] <;> decide

/-- A state apart from its lanes. -/
def State.offLanes (s : State) : State := { s with ci.lanes := [] }

theorem State.askLane_offLanes (lanes : BitVec 4) (s : State) {m : Nat} (hm : m < 4) : (s.askLane n lanes m).offLanes = s.offLanes := by
  unfold State.askLane State.updSvc
  split
  · rfl
  · rfl

theorem State.askLanes_only (s : State) (lanes : BitVec 4) : (List.range 4).foldl (State.askLane n lanes) s =
    { s with ci := { s.ci with lanes := ((List.range 4).foldl (State.askLane n lanes) s).ci.lanes } } := by
  have off : ((List.range 4).foldl (State.askLane n lanes) s).offLanes = s.offLanes := by
    rw [show List.range 4 = [0, 1, 2, 3] from rfl]
    simp only [List.foldl_cons, List.foldl_nil]
    rw [State.askLane_offLanes, State.askLane_offLanes, State.askLane_offLanes, State.askLane_offLanes] <;> decide
  generalize (List.range 4).foldl (State.askLane n lanes) s = t at off
  exact (show t = { t.offLanes with ci := { t.offLanes.ci with lanes := t.ci.lanes } } from rfl).trans (by rw [off]; rfl)

theorem islandOf_pgCC (n : Fin 16) : islandOf (pgCC n) = n.val := by revert n; decide

theorem katAsked (n : Fin 16) (lanes : BitVec 4) (h : reachable s (pgCC n)) :
    (∃ t, exec (.katGoLane n lanes) s = .next t ∧
      (∀ l : Fin 4, t.lane n l = if lanes.getLsbD l then { s.lane n l with svc := { (s.lane n l).svc with katWanted := true } } else s.lane n l) ∧
      t = { s.cross n with ci := { s.ci with lanes := t.ci.lanes } }) ∧
    (∃ t, exec (.katGoHash n) s = .next t ∧ (t.hashUnit n).svc = { (s.hashUnit n).svc with katWanted := true } ∧
      (t.hashUnit n).queue = (s.hashUnit n).queue ∧ t = { s.cross n with ci := { s.ci with hash := t.ci.hash } }) ∧
    (∃ t, exec (.katGoFmt n) s = .next t ∧ t.fmtUnit n = { s.fmtUnit n with katWanted := true } ∧
      t = { s.cross n with ci := { s.ci with fmt := t.ci.fmt } }) := by
  have acts := fun (i : Instr) act => (State.crossing_reachable (s := s) i act h).trans (by rw [islandOf_pgCC])
  have up : ¬((!s.responds (pgCC n)) = true) := by simp [h.1]
  have lane : exec (.katGoLane n lanes) s = .next ((List.range 4).foldl (State.askLane n lanes) (s.cross n)) :=
    (if_neg up : execKatGoLane n lanes s = _).trans (acts _ _)
  have hash : exec (.katGoHash n) s = .next ((s.cross n).updHash n fun u => { u with svc := u.svc.asked }) :=
    (if_neg up : execKatGoHash n s = _).trans (acts _ _)
  have fmt : exec (.katGoFmt n) s = .next ((s.cross n).updFmt n Service.asked) := (if_neg up : execKatGoFmt n s = _).trans (acts _ _)
  refine ⟨⟨_, lane, fun l => (State.lane_askLanes _ lanes l.isLt).trans rfl, State.askLanes_only _ lanes⟩, ⟨_, hash, ?_, ?_, rfl⟩, ⟨_, fmt, ?_, rfl⟩⟩
  · rw [State.hashUnit_updHash_same]; rfl
  · rw [State.hashUnit_updHash_same]; rfl
  · rw [State.fmtUnit_updFmt_same]; rfl

theorem katIgnored (n : Fin 16) (lanes : BitVec 4) (h : s.responds (pgCC n) = false) :
    exec (.katGoLane n lanes) s = .next s ∧ exec (.katGoHash n) s = .next s ∧ exec (.katGoFmt n) s = .next s := by
  have down : (!s.responds (pgCC n)) = true := by simp [h]
  exact ⟨(if_pos down : execKatGoLane n lanes s = _), (if_pos down : execKatGoHash n s = _), (if_pos down : execKatGoFmt n s = _)⟩

/-! ## Reseeds (R138) -/

/-- A lane's generator with a fresh seed. -/
def Lane.seededWith (seed : List Byte) (now : Nat) (x : Lane) : Lane :=
  { x with seed := seed, seeded := true, stalled := false, sinceReseed := 0, busyNs := 0, busyFrom := x.busyFrom.map fun _ => now }

/-- The state as a lane takes its seed, before its service is judged. -/
def State.seedTaken (s : State) (n l : Nat) : State :=
  ((s.setQueue n ((s.queue n).drop 32)).updLane n l (Lane.seededWith ((s.queue n).take 32) s.quartz)).count (R.CC_RESEED_CNT n)

theorem State.reseed_eq (s : State) (n l : Nat) : s.reseed n l = (s.seedTaken n l).settleUnit n l := rfl

theorem State.settleUnit_lane (s : State) {n l : Nat} (hl : l < 4) : ∃ v, (s.settleUnit n l).lane n l = { s.lane n l with svc := v } := by
  unfold State.settleUnit State.updSvc
  dsimp only
  rw [if_pos hl]
  simp only [State.lane, (State.settleCluster_work _ n).ci]
  exact ⟨_, State.lane_updLane_same ..⟩

theorem State.settleUnit_queue (s : State) (n u m : Nat) : (s.settleUnit n u).queue m = s.queue m := by
  have settled := fun w : State => congrArg (fun w : State => w.queue m) (w.settleCluster_offService n)
  unfold State.settleUnit
  refine (settled _).trans ?_
  show (s.updSvc n u _).queue m = _
  rw [s.updSvc_only]; rfl

theorem laneReseeds {n : Fin 16} {l : Fin 4} (due : s.reseedDue (s.lane n l) = true) (full : 32 ≤ s.queueFill n) :
    ∃ t, exec (.laneReseed n l) s = .next t ∧ t.queue n = (s.queue n).drop 32 ∧ (t.lane n l).seed = (s.queue n).take 32 ∧
      (t.lane n l).seeded = true ∧ (t.lane n l).stalled = false ∧ (t.lane n l).sinceReseed = 0 ∧
      t.get (R.CC_RESEED_CNT n) = (s.get (R.CC_RESEED_CNT n) + 1) % 2 ^ 16 := by
  have acts : exec (.laneReseed n l) s = .next ((s.reseed n l).pumpAll n) := by
    show execLaneReseed n l s = _
    rw [execLaneReseed, if_neg (by simp [due]), if_pos full]
  have view := State.pumpAll_endView (s.reseed n l) n
  have off : offEnd (R.CC_RESEED_CNT n) = true := by clear * -; revert n; decide
  have taken : (s.seedTaken n l).lane n l = (s.lane n l).seededWith ((s.queue n).take 32) s.quartz := State.lane_updLane_same ..
  obtain ⟨v, lane⟩ := (s.seedTaken n l).settleUnit_lane (n := n) l.isLt
  rw [taken, ← s.reseed_eq n l] at lane
  have unit := (State.lane_of_endView view n l).trans (congrArg Lane.unit lane)
  refine ⟨_, acts, ?_, ?_, ?_, ?_, ?_, ?_⟩
  · have := congrArg (fun w : State => w.queue n) (State.offEnds_of_endView view)
    refine (show _ = (s.reseed n l).queue n from this).trans ?_
    rw [State.reseed_eq, State.settleUnit_queue]
    exact State.queue_setQueue_same ..
  · have := congrArg Lane.seed unit; exact this
  · have := congrArg Lane.seeded unit; exact this
  · have := congrArg Lane.stalled unit; exact this
  · have := congrArg Lane.sinceReseed unit; exact this
  · rw [State.get_of_endView view off, State.reseed_eq, State.settleUnit_spares (fs := [R.CC_RESEED_CNT n]) _ _ _ ?_ ?_ _ (by simp)]
    · exact State.get_set_same ..
    · clear * -; revert n; decide
    · clear * -; revert n; decide

theorem laneWaits {n : Fin 16} {l : Fin 4} (short : s.queueFill n < 32) (serves : (s.lane n l).sinceReseed < 65536 ∨ (s.lane n l).stalled = true) :
    exec (.laneReseed n l) s = .next s := by
  show execLaneReseed n l s = _
  unfold execLaneReseed
  split
  · rfl
  · rw [if_neg (by omega), State.settleSeed]
    exact congrArg Host.Outcome.next (if_pos serves)

theorem laneStalls {n : Fin 16} {l : Fin 4} (due : s.reseedDue (s.lane n l) = true) (short : s.queueFill n < 32)
    (served : 65536 ≤ (s.lane n l).sinceReseed) (runs : (s.lane n l).stalled = false) :
    ∃ t, exec (.laneReseed n l) s = .next t ∧ t.lane n l = { s.lane n l with stalled := true } ∧ t.bit (R.BLK_INT_RAW (pgCC n)) 3 = true ∧
      t.get (R.CC_RESEED_STALL n) = satAdd 16 (s.get (R.CC_RESEED_STALL n)) 1 % 2 ^ 16 := by
  have acts : exec (.laneReseed n l) s =
      .next (((s.updLane n l fun x => { x with stalled := true }).countSat (R.CC_RESEED_STALL n)).raise (pgCC n) 3) := by
    show execLaneReseed n l s = _
    rw [execLaneReseed, if_neg (by simp [due]), if_neg (by omega), State.settleSeed]
    rw [if_neg (by simp [runs]; omega), if_neg (by omega)]
  refine ⟨_, acts, ?_, State.raise_bit _ _ (by decide), ?_⟩
  · obtain ⟨-, -, ci, -⟩ := (endKeeps_iff _ _).mp (endKeeps_raise ((s.updLane n l fun x => { x with stalled := true }).countSat (R.CC_RESEED_STALL n)) (pgCC n) 3)
    rw [State.lane, ci]
    exact State.lane_updLane_same ..
  · rw [spares.raise (fs := [R.CC_RESEED_STALL n]) .refl ?_ _ (by simp)]
    · exact State.get_set_same ..
    · clear * -; revert n; decide

theorem laneKeeps {n : Fin 16} {l : Fin 4} (fresh : s.reseedDue (s.lane n l) = false) : exec (.laneReseed n l) s = .next s :=
  (if_pos (by simp [fresh]) : execLaneReseed n l s = _)

/-! ## The cluster reset (R151) -/

/-- A page reset reads its fields' reset values. -/
theorem State.get_resetPage {f : Field} {p : Nat} (h : f.addr / 0x1000 = p) (lsb : f.lsb < 32) : (s.resetPage p).get f = f.reset % 2 ^ f.width := by
  have gone : ∀ m : Sparse Nat, Sparse.get f.reset (m.filter fun e => !inPage p e.1) f.key = f.reset := by
    have here : inPage p f.key = true := by
      have : f.key / 32 = f.addr := by rw [Field.key]; omega
      simp [inPage, this, h]
    intro m
    induction m with
    | nil => rfl
    | cons e m ih =>
      rw [List.filter_cons]
      split
      next kept => rw [Sparse.get, if_neg (fun same => by simp [same, here] at kept), ih]
      · exact ih
  exact congrArg (· % 2 ^ f.width) (gone s.regs)

theorem State.lane_clearUnits (s : State) (n : Nat) {l : Nat} (hl : l < 4) : (s.clearUnits n).lane n l = { svc := { katBusy := true } } := by
  have step : ∀ (t : State) (m : Nat), t.lane n l = { svc := { katBusy := true } } ∨ laneKey n m = laneKey n l →
      (t.updLane n m fun _ => { svc := { katBusy := true } }).lane n l = { svc := { katBusy := true } } := fun t m h =>
    Sparse.get_upd_const (fun x : Lane => x = { svc := { katBusy := true } }) { svc := { katBusy := true } } t.ci.lanes rfl h
  exact foldl_makes (fun t : State => t.lane n l = { svc := { katBusy := true } }) _ (fun t m ht => step t m (.inl ht)) (List.mem_range.mpr hl)
    (fun t => step t l (.inr rfl)) s

/-- A state apart from its cipher units' lanes, and with all else it holds: what a reset of the lanes leaves. -/
theorem State.clearUnits_eq (s : State) (n : Nat) : ∃ w : State, w.offLanes = s.offLanes ∧
    s.clearUnits n = (((w.updHash n fun _ => { svc := { katBusy := true } }).updFmt n fun _ => { katBusy := true }).setMoved n []) :=
  ⟨(List.range 4).foldl (fun s l => s.updLane n l fun _ => { svc := { katBusy := true } }) s, by
    refine foldl_keeps (fun u : State => u.offLanes = s.offLanes) _ (fun u l h => ?_) (List.range 4) s rfl
    exact h, by unfold State.clearUnits; rfl⟩

/-- What a cluster's units are after a reset. -/
theorem State.resetUnits_spec (s : State) (n : Nat) :
    (∀ l < 4, (s.resetUnits n).lane n l = { svc := { katBusy := true } }) ∧ (s.resetUnits n).hashUnit n = { svc := { katBusy := true } } ∧
      (s.resetUnits n).fmtUnit n = { katBusy := true } ∧ (s.resetUnits n).movedOps n = [] ∧ (s.resetUnits n).ci.faults = s.ci.faults ∧
      (s.resetUnits n).fl = s.fl ∧ (s.resetUnits n).sq = s.sq := by
  have ci : (s.resetUnits n).ci = (s.clearUnits n).ci := (UnitWork.resetUnits s).ci
  have off : (s.resetUnits n).offService = (s.clearUnits n).offService := State.settleCluster_offService _ n
  have fl : (s.resetUnits n).fl = (s.clearUnits n).fl := by have := congrArg State.fl off; exact this
  have sq : (s.resetUnits n).sq = (s.clearUnits n).sq := by have := congrArg State.sq off; exact this
  have lanes : ∀ l < 4, (s.resetUnits n).lane n l = { svc := { katBusy := true } } := fun l hl => by
    rw [State.lane, ci]; exact s.lane_clearUnits n hl
  obtain ⟨w, same, clear⟩ := s.clearUnits_eq n
  refine ⟨lanes, ?_, ?_, ?_, ?_, ?_, ?_⟩
  · rw [State.hashUnit, ci, clear]
    simp only [State.setMoved, State.updFmt, State.updHash, Sparse.get_upd_same]
  · rw [State.fmtUnit, ci, clear]
    simp only [State.setMoved, State.updFmt, State.updHash, Sparse.get_upd_same]
  · rw [State.movedOps, ci, clear]
    simp only [State.setMoved, Sparse.get_set_same]
  · rw [ci, clear]
    have := congrArg (fun u : State => u.ci.faults) same
    exact this
  · rw [fl, clear]
    have := congrArg State.fl same
    exact this
  · rw [sq, clear]
    have := congrArg State.sq same
    exact this

theorem State.resetUnits_spares {fs : List Field} (s : State) (n : Nat) (bit : apart fs R.GBL_CC_INSERVICE) (sev : apart fs R.AGT_OPEN_SEV) :
    spares fs s (s.resetUnits n) := .trans (.update .refl (s.clearUnits_frame n).2) (State.settleCluster_spares _ _ bit sev)

/-- A cluster without a lane in service is out of service. -/
theorem State.settleCluster_out (h : s.lanesUp n = []) (hn : n < 16) : (s.settleCluster n).bit R.GBL_CC_INSERVICE n = false := by
  unfold State.settleCluster
  rw [h]
  simp only [List.isEmpty_nil, Bool.not_true, Bool.and_false, Bool.false_and]
  rw [State.bit, State.settleTake_get, ← State.bit, State.bit_setBit _ _ _ _ _ hn, if_pos rfl]

theorem State.resetUnits_out (s : State) {n : Nat} (hn : n < 16) : (s.resetUnits n).bit R.GBL_CC_INSERVICE n = false := by
  refine State.settleCluster_out (s := s.clearUnits n) ?_ hn
  rw [State.lanesUp, List.filter_eq_nil_iff]
  intro l hl
  rw [s.lane_clearUnits n (List.mem_range.mp hl)]
  simp

theorem State.dropInstance_spec (s : State) (n : Nat) : (s.dropInstance n).queue n = [] ∧ (s.dropInstance n).drbg n = {} ∧
    (s.dropInstance n).regs = s.regs ∧ (s.dropInstance n).ci = s.ci ∧ (s.dropInstance n).sq = s.sq := by
  have drop : ∀ t : State, (t.dropSeed n).queue n = t.queue n ∧ (t.dropSeed n).drbg n = t.drbg n ∧ (t.dropSeed n).regs = t.regs ∧
      (t.dropSeed n).ci = t.ci ∧ (t.dropSeed n).sq = t.sq := fun t => by
    unfold State.dropSeed
    split <;> exact ⟨rfl, rfl, rfl, rfl, rfl⟩
  obtain ⟨queue, drbg, regs, ci, sq⟩ := drop { s.setQueue n [] with fl.drbgs := Sparse.set {} s.fl.drbgs n {} }
  refine ⟨queue.trans ?_, drbg.trans ?_, regs, ci, sq⟩
  · simp only [State.queue, State.setQueue, Sparse.get_set_same]
  · simp only [State.drbg, Sparse.get_set_same]

/-- The state as a cluster's registers and programs are gone. -/
def State.clusterCleared (s : State) (n : Nat) : State :=
  let s := s.resetPage (pgCC n)
  let s : State := if n = 0 then { s with ci.faults := [] } else s
  s.setResidents n []

/-- The state a cluster reset leaves. -/
def State.clusterReset (s : State) (n : Nat) : State := (((s.clusterCleared n).dropInstance n).resetUnits n).raise pgRST 2

theorem State.clusterCleared_spec (s : State) (n : Nat) : (s.clusterCleared n).regs = (s.resetPage (pgCC n)).regs ∧
    (s.clusterCleared n).residents n = [] ∧ (n = 0 → (s.clusterCleared n).ci.faults = []) := by
  unfold State.clusterCleared
  refine ⟨?_, ?_, fun h => ?_⟩
  · dsimp only
    split <;> rfl
  · simp only [State.residents, State.setResidents, Sparse.get_set_same]
  · dsimp only
    rw [if_pos h]; rfl

theorem State.clusterReset_spec (s : State) (n : Fin 16) :
    let t := s.clusterReset n
    (∀ u < 6, (t.unitSvc n u).inService = false ∧ (t.unitSvc n u).katBusy = true) ∧ (∀ l < 4, (t.lane n l).exec = none ∧ (t.lane n l).wait = none) ∧
      (t.hashUnit n).queue = [] ∧ t.movedOps n = [] ∧ t.queue n = [] ∧ t.drbg n = {} ∧ (n.val = 0 → t.ci.faults = []) ∧
      (∀ f : Field, f.addr / 0x1000 = pgCC n → f.lsb < 32 → t.get f = f.reset % 2 ^ f.width) ∧
      t.bit R.GBL_CC_INSERVICE n = false ∧ t.residents n = [] ∧ t.bit (R.BLK_INT_RAW pgRST) 2 = true := by
  intro t
  obtain ⟨regs, residents, faults⟩ := s.clusterCleared_spec n
  obtain ⟨queue, drbg, regs', ci', sq'⟩ := (s.clusterCleared n).dropInstance_spec n
  have out := State.resetUnits_out ((s.clusterCleared n).dropInstance n) n.isLt
  have spare := fun fs => State.resetUnits_spares (fs := fs) ((s.clusterCleared n).dropInstance n) n
  obtain ⟨lanes, hash, fmt, moved, faults', fl, sq⟩ := State.resetUnits_spec ((s.clusterCleared n).dropInstance n) n
  have ht : t = (((s.clusterCleared n).dropInstance n).resetUnits n).raise pgRST 2 := rfl
  generalize ((s.clusterCleared n).dropInstance n).resetUnits n = z at *
  have ci : t.ci = z.ci := by
    rw [ht]
    obtain ⟨-, -, ci, -⟩ := (endKeeps_iff _ _).mp (endKeeps_raise z pgRST 2)
    exact ci
  have fl' : t.fl = z.fl := by have := congrArg State.fl (State.raise_offNotes z pgRST 2); rw [ht]; exact this
  have lane : ∀ l < 4, t.lane n l = { svc := { katBusy := true } } := fun l hl => by rw [← lanes l hl]; simp only [State.lane, ci]
  have hashed : t.hashUnit n = { svc := { katBusy := true } } := by rw [← hash]; simp only [State.hashUnit, ci]
  have formatted : t.fmtUnit n = { katBusy := true } := by rw [← fmt]; simp only [State.fmtUnit, ci]
  refine ⟨fun u hu => ?_, fun l hl => ?_, ?_, ?_, ?_, ?_, fun h => ?_, fun f hf lsb => ?_, ?_, ?_, ?_⟩
  · unfold State.unitSvc
    split
    next h => rw [lane u h]; exact ⟨rfl, rfl⟩
    · split
      · rw [hashed]; exact ⟨rfl, rfl⟩
      · rw [formatted]; exact ⟨rfl, rfl⟩
  · rw [lane l hl]; exact ⟨rfl, rfl⟩
  · rw [hashed]
  · rw [← moved]; simp only [State.movedOps, ci]
  · rw [← queue]; simp only [State.queue, fl', fl]
  · rw [← drbg]; simp only [State.drbg, fl', fl]
  · rw [ci, faults', ci', faults h]
  · have at_ : f.key / 32 / 0x1000 = pgCC n := by
      have : f.key / 32 = f.addr := by rw [Field.key]; omega
      rw [this, hf]
    have off : ∀ g : Field, g.key / 32 / 0x1000 ≠ pgCC n → apart [f] g := fun g hg => by
      have : g.key ≠ f.key := fun same => hg (by rw [same, at_])
      simpa [apart] using this
    rw [ht, spares.raise (fs := [f]) .refl (off _ (by clear * -; revert n; decide)) f (by simp),
      spare [f] (off _ (by clear * -; revert n; decide)) (off _ (by clear * -; revert n; decide)) f (by simp)]
    rw [State.get, regs', regs]
    exact State.get_resetPage hf lsb
  · rw [ht, State.bit, State.raise_get_ne _ _ _ _ (by decide)]; exact out
  · have : t.sq = z.sq := by have := congrArg State.sq (State.raise_offNotes z pgRST 2); rw [ht]; exact this
    rw [State.residents, this, sq, sq']; exact residents
  · rw [ht]; exact State.raise_bit _ _ (by decide)

/-- What a reset request does where it acts. -/
def State.ccResetAct (n : Fin 16) (viaRst : Bool) (s : State) : State :=
  if (s.busyIn n).isEmpty then s.clusterReset n else s.resetIgnored viaRst

theorem execCcReset_crosses {n : Fin 16} {viaRst : Bool} (up : s.responds (if viaRst then pgRST else pgCC n) = true) (on : s.islandOn (pgCC n) = true) :
    exec (.ccReset n viaRst) s = if s.relocks n then .next { s with pw := { s.pw with crossings := s.pw.crossings ++ [.ccReset n viaRst] } }
      else .next (if s.busyIn n = [] then (s.cross n).clusterReset n else (s.cross n).resetIgnored viaRst) := by
  have acts : exec (.ccReset n viaRst) s = s.crossing (pgCC n) (.ccReset n viaRst) (State.ccResetAct n viaRst) := by
    show execCcReset n viaRst s = _
    unfold execCcReset
    rw [if_neg (by rw [up]; decide), if_neg (by rw [on]; decide)]; rfl
  have busy : (s.cross n).busyIn n = s.busyIn n := rfl
  rw [acts, State.crossing, islandOf_pgCC, State.ccResetAct, busy]
  simp only [List.isEmpty_iff]

theorem ccResets (n : Fin 16) (viaRst : Bool) (s : State) (up : s.responds (if viaRst then pgRST else pgCC n) = true) :
    (s.busyIn n = [] → s.islandOn (pgCC n) = true → s.relocks n = false → exec (.ccReset n viaRst) s = .next ((s.cross n).clusterReset n)) ∧
    (s.islandOn (pgCC n) = false → exec (.ccReset n viaRst) s = .next (if viaRst then s.raise pgRST 3 else s)) ∧
    (s.busyIn n ≠ [] → s.islandOn (pgCC n) = true → s.relocks n = false →
      exec (.ccReset n viaRst) s = .next (if viaRst then (s.cross n).raise pgRST 3 else s.cross n)) ∧
    (s.islandOn (pgCC n) = true → s.relocks n = true →
      exec (.ccReset n viaRst) s = .next { s with pw := { s.pw with crossings := s.pw.crossings ++ [.ccReset n viaRst] } }) := by
  refine ⟨fun empty on free => ?_, fun off => ?_, fun busy on free => ?_, fun on relocks => ?_⟩
  · rw [execCcReset_crosses up on, free, if_neg Bool.false_ne_true, if_pos empty]
  · show execCcReset n viaRst s = _
    unfold execCcReset
    rw [if_neg (by rw [up]; decide), if_pos (by rw [off]; rfl)]; rfl
  · rw [execCcReset_crosses up on, free, if_neg Bool.false_ne_true, if_neg busy]; rfl
  · rw [execCcReset_crosses up on, if_pos relocks]

/-- Settles O25: a test passes just where no bit of its answers was upset, since every sound datapath gives the known answers; what follows it, a reseed
and a reset leave the units as the clauses say, for no command that ends with them writes a unit's service or the cluster's page. -/
theorem cipherClusterTestsAndResets : Obligations.CipherClusterTestsAndResets := by
  refine ⟨fun n lanes s h => katAsked n lanes h, fun n lanes s h => katIgnored n lanes h, fun n u s due free => ⟨katPasses due free, fun _ _ => katFails due free⟩,
    fun n l s due => ⟨laneReseeds due, laneWaits, laneStalls due⟩, fun n l s => laneKeeps, fun n viaRst s up => ?_, fun n viaRst s down => ?_⟩
  · obtain ⟨acts, off, busy, relocks⟩ := ccResets n viaRst s up
    exact ⟨fun empty on free => ⟨_, acts empty on free, State.clusterReset_spec _ n⟩, off, busy, relocks⟩
  · exact (if_pos (by rw [down]; rfl) : execCcReset n viaRst s = _)

end Sys2Proof.Machine
end

section
/-! SUPPORT. Record instructions: what a record written leaves of the key table, and WRITEREC, LOADREC, READREC, DESTROY and ATTEST issued (R201-R216). -/
namespace Sys2Proof.Machine

variable {s u : State} {c : Ctx} {w : Insn} {x : Context}

/-! ## A line written (R199, R343, R366) -/

theorem Sparse.get_filter_kept {α : Type} {d : α} {p : Nat × α → Bool} {m : Sparse α} {k : Nat} (h : p (k, Sparse.get d m k) = true) :
    Sparse.get d (m.filter p) k = Sparse.get d m k := by
  induction m with
  | nil => rfl
  | cons e m ih =>
    obtain ⟨j, v⟩ := e
    rw [List.filter_cons]
    by_cases same : j = k
    · subst same
      simp only [Sparse.get, if_pos] at h ⊢
      rw [if_pos h]
      simp [Sparse.get]
    · simp only [Sparse.get, if_neg same] at h ⊢
      split
      · rw [Sparse.get, if_neg same, ih h]
      · exact ih h

/-- The lines taken by a record's extension do not touch the lines apart from them. -/
theorem placeExtension_ne {k j n : Nat} (lines : Sparse KeyLine) (h : ∀ i < n, k + i + 1 ≠ j) :
    Sparse.get {} ((List.range n).foldl (fun m i => Sparse.set {} m (k + i + 1) { extOf := some k }) lines) j = Sparse.get ({} : KeyLine) lines j := by
  induction n with
  | zero => rfl
  | succ n ih =>
    rw [List.range_succ, List.foldl_append, List.foldl_cons, List.foldl_nil, Sparse.get_set_ne _ _ _ _ (h n (by omega))]
    exact ih fun i hi => h i (by omega)

theorem placeLine_same (lines : Sparse KeyLine) (k : Nat) (l : KeyLine) : Sparse.get {} (placeLine lines k l) k = l := by
  unfold placeLine
  dsimp only
  rw [placeExtension_ne _ fun i _ => by omega, Sparse.get_set_same]

theorem placeLine_ne {lines : Sparse KeyLine} {j k : Nat} {r : KeyRecord} {g : Nat} (ne : j ≠ k) (own : (Sparse.get ({} : KeyLine) lines j).extOf ≠ some k)
    (apart : j < k ∨ k + recordLines r.key.material.length ≤ j) :
    Sparse.get {} (placeLine lines k { gen := g, live := true, record := some r }) j = Sparse.get ({} : KeyLine) lines j := by
  unfold placeLine
  dsimp only [KeyLine.liveRecord]
  rw [if_pos rfl]
  dsimp only
  rw [placeExtension_ne _ fun i hi => by omega, Sparse.get_set_ne _ _ _ _ ne.symm, Sparse.get_filter_kept (by simpa using own)]

theorem State.sendDelta_keeps (s : State) (d : Delta) : endKeeps s (s.sendDelta d).1 := by
  have told : ∀ (t : State) link (o : Nat → Output), endKeeps t (t.tellOn link o) := fun t link o => by
    cases link with
    | none => rfl
    | some k => exact endKeeps_sendOn t k _
  unfold State.sendDelta State.sendDeltaOn
  split
  · exact endKeeps_trans rfl (told _ _ _)
  · rfl

theorem State.tellTree_keeps (s : State) (o : Nat → Output) : endKeeps s (s.tellTree o) := by
  unfold State.tellTree
  refine foldl_keeps (fun t => endKeeps s t) _ ?_ _ s (endKeeps_refl s)
  exact fun t j h => endKeeps_trans h (endKeeps_sendOn t j _)

theorem State.replicate_keeps (s : State) (k : Nat) (l : KeyLine) : endKeeps s (s.replicate k l) := by
  unfold State.replicate
  split
  · dsimp only
    split
    · exact endKeeps_trans rfl (State.tellTree_keeps _ _)
    · rfl
  · rfl

/-- A line written changes the key table's lines, and nothing else of what an ending keeps. -/
theorem State.writeLine_keeps (s : State) (k : Nat) (l : KeyLine) : endKeeps { s with ge.lines := placeLine s.ge.lines k l } (s.writeLine k l).1 :=
  endKeeps_trans (State.sendDelta_keeps _ _) (State.replicate_keeps _ _ _)

theorem State.writeLine_line_same (s : State) (k : Nat) (l : KeyLine) : (s.writeLine k l).1.line k = l := by
  obtain ⟨-, ge, -⟩ := (endKeeps_iff _ _).mp (s.writeLine_keeps k l)
  rw [State.line, ge]
  exact placeLine_same s.ge.lines k l

/-! ## A record written (R203, R204) -/

theorem State.refuseWriterec_level {p h attr : Nat} {y : KeySlot} {parent : Option KeySlot} {level : Option Nat}
    (ok : s.refuseWriterec p h y parent level attr = none) : level.isSome = true := by
  cases level with
  | some l => rfl
  | none =>
    exfalso
    simp only [State.refuseWriterec, Option.isNone_none, or_true, true_or, if_true] at ok
    revert ok
    repeat' split
    all_goals simp

/-- The record a key becomes at a handle, under a parent or the scope's root. -/
def State.recordFor (s : State) (p h : Nat) (y : KeySlot) (parent : Option KeySlot) (direct5 : Bool) : KeyRecord :=
  { key := { y.key with level := (recordLevel y.key.origin direct5 (parent.map (·.key.level))).getD 3, attr := putBit y.key.attr 3 true,
                        created := s.quartz, epoch := if handleScope h = 1 then (s.part p).epoch else 0 }
    parent := match parent with | some z => (z.line.map lineHandle).getD noHandle | none => noHandle
    parentGen := match parent with
      | some z => (z.line.map fun l => (s.line l).gen).getD 0
      | none => (s.scopeRoot p (handleScope h)).gen
    owner := p, tepoch := s.writeEpoch p }

/-- The line it stands in. -/
def State.lineFor (s : State) (p h : Nat) (y : KeySlot) (parent : Option KeySlot) (direct5 : Bool) : KeyLine :=
  { gen := max 1 (s.line (lineKey p h)).gen, live := true, record := some (s.recordFor p h y parent direct5) }

theorem State.placeRecord_ok {p h : Nat} {y : KeySlot} {parent : Option KeySlot} {five : Bool} {bs : List Byte} {d : Option Nat}
    (ok : s.placeRecord p h y parent five = .ok (bs, u, d)) :
    (recordLevel y.key.origin five (parent.map (·.key.level))).isSome = true ∧ u = (s.writeLine (lineKey p h) (s.lineFor p h y parent five)).1 ∧
      bs = u.lineBytes (lineKey p h) (s.lineFor p h y parent five) := by
  unfold State.placeRecord at ok
  dsimp only at ok
  split at ok
  · cases ok
  next passes =>
    simp only [Except.ok.injEq, Prod.mk.injEq] at ok
    obtain ⟨bytes, state, -⟩ := ok
    exact ⟨State.refuseWriterec_level passes, state.symm, by rw [← bytes, ← state]; rfl⟩

/-- Does a record name the parent it was written under, with its GEN: a slot's record, or the scope's root? -/
def State.hangsUnder (s : State) (p h : Nat) (r : KeyRecord) (parent : Option KeySlot) : Prop :=
  match parent with
  | some z => ∀ l, z.line = some l → r.parent = lineHandle l ∧ r.parentGen = (s.line l).gen
  | none => r.parent = noHandle ∧ r.parentGen = (s.scopeRoot p (handleScope h)).gen

theorem State.placeRecord_spec {p h : Nat} {y : KeySlot} {parent : Option KeySlot} {five : Bool} {bs : List Byte} {d : Option Nat}
    (ok : s.placeRecord p h y parent five = .ok (bs, u, d)) : let k := lineKey p h
    (∃ r, u.line k = { gen := max 1 (s.line k).gen, live := true, record := some r } ∧ r.owner = p ∧ r.tepoch = s.writeEpoch p ∧
      bs = u.lineBytes k (u.line k) ∧
      r.key.material = y.key.material ∧ r.key.cls = y.key.cls ∧ r.key.usage = y.key.usage ∧ r.key.created = s.quartz ∧ bitOf r.key.attr 3 = true ∧
      recordLevel y.key.origin five (parent.map (·.key.level)) = some r.key.level ∧
      s.hangsUnder p h r parent) ∧
    (∀ j, j ≠ k → (s.line j).extOf ≠ some k → (j < k ∨ k + recordLines y.key.material.length ≤ j) → u.line j = s.line j) ∧
    u.sq = s.sq ∧ u.ci = s.ci ∧ u.hb = s.hb := by
  intro k
  obtain ⟨level, state, bytes⟩ := State.placeRecord_ok ok
  have line : u.line k = s.lineFor p h y parent five := by rw [state]; exact State.writeLine_line_same _ _ _
  obtain ⟨sq, ge, ci, -, hb, -⟩ := (endKeeps_iff _ _).mp (s.writeLine_keeps k (s.lineFor p h y parent five))
  rw [← state] at sq ge ci hb
  refine ⟨⟨s.recordFor p h y parent five, line, rfl, rfl, by rw [line]; exact bytes, rfl, rfl, rfl, rfl, ?_, ?_, ?_⟩, fun j ne own apart => ?_, sq, ci, hb⟩
  · show bitOf (putBit y.key.attr 3 true) 3 = true
    rw [bitOf_testBit, testBit_putBit]; rfl
  · obtain ⟨l, hl⟩ := Option.isSome_iff_exists.mp level
    show _ = some ((recordLevel y.key.origin five (parent.map (·.key.level))).getD 3)
    rw [hl]; rfl
  · cases parent with
    | none => exact ⟨rfl, rfl⟩
    | some z =>
      intro l hl
      simp only [State.recordFor, hl]
      exact ⟨rfl, rfl⟩
  · rw [State.line, ge]
    exact placeLine_ne ne own apart

/-! ## What an instruction that may end its command leaves -/

/-- An instruction that ends its command on a state it has changed beside its context does so once the context's earlier operations have completed. -/
theorem State.issue_failsOn {cls op n st det : Nat} {run : Context → Result} (h : s.readyCtx (ctxKey c) cls op w = some x)
    (hr : run x = .next (u.failAt (ctxKey c) n st det)) (same : u.ctx (ctxKey c) = s.ctx (ctxKey c)) :
    s.issue c cls op w run = .next (whenSettled s (ctxKey c) (u.failAt (ctxKey c) n st det)) := by
  unfold whenSettled
  split
  next settled => exact s.issue_ready h hr (.inl settled)
  next early =>
    have own : (u.ctx (ctxKey c)).cmd.isSome = true := same ▸ (s.readyCtx_spec h).1 ▸ s.readyCtx_runs h
    exact s.issue_early h hr (by simpa using early) (by rw [u.failAt_ctx_cmd _ _ _ own]; rfl)

/-- An instruction whose output may end its command takes place unless it would end it while operations of its context are outstanding. -/
theorem State.issue_outcome {cls op : Nat} {run : Context → Result} {t : State} (h : s.readyCtx (ctxKey c) cls op w = some x) (hr : run x = .next t) :
    ((t.ctx (ctxKey c)).cmd ≠ none ∨ s.settled (ctxKey c) = true → s.issue c cls op w run = .next t) ∧
      ((t.ctx (ctxKey c)).cmd = none → s.settled (ctxKey c) = false → s.issue c cls op w run = .next s) :=
  ⟨fun goes => s.issue_ready h hr (goes.symm.imp_right Option.isSome_iff_ne_none.mpr),
    fun ends early => s.issue_early h hr early (by rw [ends]; rfl)⟩

/-- An instruction that changes nothing now. -/
theorem State.issue_holds {cls op : Nat} {run : Context → Result} (h : s.readyCtx (ctxKey c) cls op w = some x) (hr : run x = .next s) :
    s.issue c cls op w run = .next s := s.issue_ready h hr (.inr ((s.readyCtx_spec h).1 ▸ s.readyCtx_runs h))

/-- An instruction that leaves its context waiting. -/
theorem State.issue_setCtx {cls op : Nat} {run : Context → Result} {y : Context} (h : s.readyCtx (ctxKey c) cls op w = some x)
    (hr : run x = .next (u.setCtx (ctxKey c) y)) (cmd : y.cmd = x.cmd) : s.issue c cls op w run = .next (u.setCtx (ctxKey c) y) :=
  s.issue_ready h hr (.inr (by rw [State.ctx_setCtx_same, cmd]; exact s.readyCtx_runs h))

/-! ## WRITEREC -/

theorem State.openEpoch_ctx (s : State) (p k : Nat) : (s.openEpoch p).ctx k = s.ctx k := by
  unfold State.openEpoch
  split
  · split
    · exact (endKeeps_ctx (endKeeps_raise _ _ _) k).trans rfl
    · rfl
  · rfl

/-- What WRITEREC does with its key and its parent. -/
def writeRecord (s : State) (c : Ctx) (w : Insn) (x : Context) (y : KeySlot) (parent : Option KeySlot) : Result :=
  match (s.openEpoch x.part).placeRecord x.part (x.sr w.a) y parent (modBit w 5) with
  | .error r => .next ((s.openEpoch x.part).failAt (ctxKey c) 4 r.1 r.2)
  | .ok (bs, v, d) => .next ((v.retire (ctxKey c) 4 { x with op := (x.op + bs.length) % 2 ^ 24, delta := d <|> x.delta }).inOrder (ctxKey c)
      { output := [(x.op, bs)], pc := x.pc, num := x.retired })

theorem execWriterec_body : execWriterec c w s = s.issue c 0x2 0x5 w fun x =>
    if w.a.val > 7 then .refused .reservedEncoding
    else s.withSlot (ctxKey c) 4 x w.ka fun y =>
      if modBit w 4 then writeRecord s c w x y none else s.withSlot (ctxKey c) 4 x w.kd fun z => writeRecord s c w x y (some z) := rfl

theorem writerecWrites {y : KeySlot} {parent : Option KeySlot} (h : s.readyCtx (ctxKey c) 0x2 0x5 w = some x) (reg : w.a.val ≤ 7)
    (slot : x.slot w.ka = some y) (par : (modBit w 4 = true ∧ parent = none) ∨ (modBit w 4 = false ∧ parent.isSome = true ∧ x.slot w.kd = parent)) :
    (∀ bs v d, (s.openEpoch x.part).placeRecord x.part (x.sr w.a) y parent (modBit w 5) = .ok (bs, v, d) →
      let t := (v.retire (ctxKey c) 4 { x with op := (x.op + bs.length) % 2 ^ 24, delta := d <|> x.delta }).inOrder (ctxKey c)
        { output := [(x.op, bs)], pc := x.pc, num := x.retired }
      ((t.ctx (ctxKey c)).cmd ≠ none ∨ s.settled (ctxKey c) = true → exec (.writerec c w) s = .next t) ∧
      ((t.ctx (ctxKey c)).cmd = none → s.settled (ctxKey c) = false → exec (.writerec c w) s = .next s)) ∧
    (∀ e, (s.openEpoch x.part).placeRecord x.part (x.sr w.a) y parent (modBit w 5) = .error e →
      exec (.writerec c w) s = .next (whenSettled s (ctxKey c) ((s.openEpoch x.part).failAt (ctxKey c) 4 e.1 e.2))) := by
  have body : (if w.a.val > 7 then .refused .reservedEncoding
      else s.withSlot (ctxKey c) 4 x w.ka fun y =>
        if modBit w 4 then writeRecord s c w x y none else s.withSlot (ctxKey c) 4 x w.kd fun z => writeRecord s c w x y (some z)) =
      writeRecord s c w x y parent := by
    rw [if_neg (by omega), State.withSlot_loaded slot]
    rcases par with ⟨root, rfl⟩ | ⟨child, some_, slot'⟩
    · rw [if_pos root]
    · obtain ⟨z, rfl⟩ := Option.isSome_iff_exists.mp some_
      rw [if_neg (by rw [child]; decide), State.withSlot_loaded slot']
  have acts : exec (.writerec c w) s = _ := execWriterec_body
  rw [acts]
  refine ⟨fun bs v d ok => State.issue_outcome h (body.trans ?_), fun e err => State.issue_failsOn h (body.trans ?_) (s.openEpoch_ctx _ _)⟩
  · rw [writeRecord, ok]
  · rw [writeRecord, err]

theorem writerecRefused (h : s.readyCtx (ctxKey c) 0x2 0x5 w = some x) :
    (7 < w.a.val → exec (.writerec c w) s = .refused .reservedEncoding) ∧
    (w.a.val ≤ 7 → x.slot w.ka = none ∨ (modBit w 4 = false ∧ x.slot w.kd = none) →
      exec (.writerec c w) s = .next (whenSettled s (ctxKey c) (s.failAt (ctxKey c) 4 stKeyUsageDenied 3))) := by
  have acts : exec (.writerec c w) s = _ := execWriterec_body
  rw [acts]
  refine ⟨fun out => State.issue_refuses h (if_pos out), fun reg empty => State.issue_fails h ?_⟩
  rw [if_neg (by omega)]
  cases slot : x.slot w.ka with
  | none => exact State.withSlot_empty slot
  | some y =>
    obtain ⟨child, none_⟩ := empty.resolve_left (by rw [slot]; exact Option.some_ne_none y)
    rw [State.withSlot_loaded slot, if_neg (by rw [child]; decide)]
    exact State.withSlot_empty none_

/-! ## LOADREC -/

/-- What LOADREC does with the record's lines. -/
def loadRecordOf (s : State) (c : Ctx) (w : Insn) (bs : List Byte) (x : Context) : Result :=
  match s.loadRecord x.part (x.sr w.a) bs with
  | .error st => .next (s.failAt (ctxKey c) 4 st 0)
  | .ok (code, s, d) => .next (s.retire (ctxKey c) 4 { (x.setS w.d code) with delta := d <|> x.delta })

theorem execLoadrec_body : execLoadrec c w s = s.issue c 0x2 0x7 w fun x =>
    if w.a.val > 7 ∨ w.d.val > 7 then .refused .reservedEncoding
    else if !x.has (x.startIp + 128) then .next (s.needChunk (ctxKey c) x)
    else s.gather (ctxKey c) x (128 * max 1 (leNat (x.inBytes (x.startIp + 6) 1))) (loadRecordOf s c w) := rfl

theorem loadrecLoads (h : s.readyCtx (ctxKey c) 0x2 0x7 w = some x) :
    let k := ctxKey c
    let n := max 1 (leNat (x.inBytes (x.startIp + 6) 1))
    let left := 128 * n - x.gathered.length
    (7 < w.a.val ∨ 7 < w.d.val → exec (.loadrec c w) s = .refused .reservedEncoding) ∧
    (w.a.val ≤ 7 → w.d.val ≤ 7 →
      (x.has (x.startIp + 128) = false → exec (.loadrec c w) s = .next (s.setCtx k { x with wait := .chunk })) ∧
      (x.has (x.startIp + 128) = true →
        (x.has (x.ip + left) = false → ∃ t, exec (.loadrec c w) s = .next t ∧ t = s.setCtx k (t.ctx k) ∧ t.ctx k =
          { x with gathered := x.gathered ++ x.inBytes x.ip (x.input.length - x.ip), ip := x.ip + (x.input.length - x.ip), wait := .chunk }) ∧
        (x.has (x.ip + left) = true →
          (∀ st, s.loadRecord x.part (x.sr w.a) (x.gathered ++ x.inBytes x.ip left) = .error st → exec (.loadrec c w) s = .next (whenSettled s k (s.failAt k 4 st 0))) ∧
          (∀ code u d, s.loadRecord x.part (x.sr w.a) (x.gathered ++ x.inBytes x.ip left) = .ok (code, u, d) →
            ∃ t, exec (.loadrec c w) s = .next t ∧
              retires k 4 { x with sreg := x.sreg.set w.d (BitVec.ofNat 32 code), ip := (x.ip + left) % 2 ^ 24, gathered := [],
                                   delta := d <|> x.delta } u t)))) := by
  intro k n left
  have acts : exec (.loadrec c w) s = _ := execLoadrec_body
  rw [acts]
  refine ⟨fun out => State.issue_refuses h (if_pos out), fun a d => ⟨fun short => State.issue_waits h ?_, fun head => ⟨fun early => ?_, fun there => ?_⟩⟩⟩
  · rw [if_neg (by omega), if_pos (by rw [short]; rfl)]
  · refine ⟨_, State.issue_setCtx (u := s) h ?_ ?_, ?_, State.ctx_setCtx_same ..⟩
    · rw [if_neg (by omega), if_neg (by rw [head]; decide)]
      exact State.gather_waits early
    · rfl
    · rw [State.ctx_setCtx_same]
  · have body : (if w.a.val > 7 ∨ w.d.val > 7 then .refused .reservedEncoding
        else if !x.has (x.startIp + 128) then .next (s.needChunk (ctxKey c) x)
        else s.gather (ctxKey c) x (128 * n) (loadRecordOf s c w)) =
        loadRecordOf s c w (x.gathered ++ x.inBytes x.ip left) { x with ip := (x.ip + left) % 2 ^ 24, gathered := [] } := by
      rw [if_neg (by omega), if_neg (by rw [head]; decide)]
      exact State.gather_has there
    refine ⟨fun st err => State.issue_fails h (body.trans ?_), fun code u d ok => ?_⟩
    · unfold loadRecordOf
      have err' : s.loadRecord (Context.part { x with ip := (x.ip + left) % 2 ^ 24, gathered := [] })
        (Context.sr { x with ip := (x.ip + left) % 2 ^ 24, gathered := [] } w.a) (x.gathered ++ x.inBytes x.ip left) = .error st := err
      rw [err']
    · have ok' : s.loadRecord (Context.part { x with ip := (x.ip + left) % 2 ^ 24, gathered := [] })
        (Context.sr { x with ip := (x.ip + left) % 2 ^ 24, gathered := [] } w.a) (x.gathered ++ x.inBytes x.ip left) = .ok (code, u, d) := ok
      refine ⟨_, s.issue_ready h (t := u.retire k 4
        { x with sreg := x.sreg.set w.d (BitVec.ofNat 32 code), ip := (x.ip + left) % 2 ^ 24, gathered := [], delta := d <|> x.delta }) (body.trans ?_)
        (.inr ?_), u.retire_retires _ _ _⟩
      · unfold loadRecordOf
        rw [ok']; rfl
      · rw [State.retire_ctx]; exact (s.readyCtx_runs h : x.cmd.isSome = true)

/-! ## READREC and DESTROY -/

section
variable {field : Nat} {run : Context → Result}

theorem State.geodeFill_goes (walk : s.geodeWalk c.cc x.part (x.desc.keyField field) = .ok true)
    (good : s.recordFails (lineKey x.part (x.desc.keyField field)) = false) :
    s.geodeFill (ctxKey c) field x run = run { x with filled := false } := by
  rw [State.geodeFill, clusterOf_ctxKey, walk]
  simp [good]

theorem State.geodeFill_waits (walk : s.geodeWalk c.cc x.part (x.desc.keyField field) = .ok false) :
    s.geodeFill (ctxKey c) field x run = .next (s.setCtx (ctxKey c) { x with wait := .keyFill, since := s.quartz }) := by
  rw [State.geodeFill, clusterOf_ctxKey, walk]

theorem State.geodeFill_ends {st : Nat} (walk : s.geodeWalk c.cc x.part (x.desc.keyField field) = .error st) :
    s.geodeFill (ctxKey c) field x run = .next (s.failAt (ctxKey c) 4 st field) := by
  rw [State.geodeFill, clusterOf_ctxKey, walk]

theorem State.geodeFill_bad (walk : s.geodeWalk c.cc x.part (x.desc.keyField field) = .ok true)
    (bad : s.recordFails (lineKey x.part (x.desc.keyField field)) = true) :
    s.geodeFill (ctxKey c) field x run =
      .next ((s.lineFailed c.cc (lineKey x.part (x.desc.keyField field))).failAt (ctxKey c) 4 stKeyNotFound field) := by
  rw [State.geodeFill, clusterOf_ctxKey, walk]
  simp [bad]

theorem State.lineFailed_ctx (s : State) (n k j : Nat) : (s.lineFailed n k).ctx j = s.ctx j :=
  (endKeeps_ctx (endKeeps_trans (endKeeps_raise _ _ _) (endKeeps_raise _ _ _)) j).trans rfl

/-- A Geode operation that is not refused, whose chain is not in the slice or whose lines fail. -/
theorem State.issue_geodeFill {op : Nat} {f : Context → Result} (h : s.readyCtx (ctxKey c) 0x2 op w = some x)
    (hf : f x = s.geodeFill (ctxKey c) field x run) :
    (s.geodeWalk c.cc x.part (x.desc.keyField field) = .ok false →
      s.issue c 0x2 op w f = .next (s.setCtx (ctxKey c) { x with wait := .keyFill, since := s.quartz })) ∧
    (∀ st, s.geodeWalk c.cc x.part (x.desc.keyField field) = .error st →
      s.issue c 0x2 op w f = .next (whenSettled s (ctxKey c) (s.failAt (ctxKey c) 4 st field))) ∧
    (s.geodeWalk c.cc x.part (x.desc.keyField field) = .ok true → s.recordFails (lineKey x.part (x.desc.keyField field)) = true →
      s.issue c 0x2 op w f =
        .next (whenSettled s (ctxKey c) ((s.lineFailed c.cc (lineKey x.part (x.desc.keyField field))).failAt (ctxKey c) 4 stKeyNotFound field))) :=
  ⟨fun walk => State.issue_setCtx h (hf.trans (State.geodeFill_waits walk)) rfl, fun _ walk => State.issue_fails h (hf.trans (State.geodeFill_ends walk)),
    fun walk bad => State.issue_failsOn h (hf.trans (State.geodeFill_bad walk bad)) (State.lineFailed_ctx _ _ _ _)⟩

end

/-- What READREC does with the record's lines. -/
def sendLines (s : State) (c : Ctx) (bs : List Byte) (x : Context) : Result :=
  .next ((s.retire (ctxKey c) 4 { x with op := (x.op + bs.length) % 2 ^ 24 }).inOrder (ctxKey c)
    { output := [(x.op, bs)], pc := x.pc, num := x.retired })

/-- What DESTROY does once its record is checked. -/
def awaitFence (s : State) (c : Ctx) (x : Context) : Result :=
  .next (s.setCtx (ctxKey c) { x with keys := List.replicate 4 none, stream := none, wait := .fence, since := s.quartz })

/-- READREC's body. -/
def readRecordBody (s : State) (c : Ctx) (w : Insn) (x : Context) : Result :=
  match s.recordLinesOf x.part (x.desc.keyField (immBits w 0 2)) with
  | .error st => .next (s.failAt (ctxKey c) 4 st (immBits w 0 2))
  | .ok bs => s.geodeFill (ctxKey c) (immBits w 0 2) x (sendLines s c bs)

/-- DESTROY's body. -/
def destroyBody (s : State) (c : Ctx) (w : Insn) (x : Context) : Result :=
  match s.refuseDestroy x.part (x.desc.keyField (immBits w 0 2)) with
  | some st => .next (s.failAt (ctxKey c) 4 st (immBits w 0 2))
  | none => s.geodeFill (ctxKey c) (immBits w 0 2) x (awaitFence s c)

theorem execReadrec_body : exec (.readrec c w) s = s.issue c 0x2 0x8 w (readRecordBody s c w) := rfl
theorem execDestroy_body : exec (.destroy c w) s = s.issue c 0x2 0x6 w (destroyBody s c w) := rfl

theorem readRecordBody_lines {bs : List Byte} (lines : s.recordLinesOf x.part (x.desc.keyField (immBits w 0 2)) = .ok bs) :
    readRecordBody s c w x = s.geodeFill (ctxKey c) (immBits w 0 2) x (sendLines s c bs) := by rw [readRecordBody, lines]

theorem destroyBody_accepts (passes : s.refuseDestroy x.part (x.desc.keyField (immBits w 0 2)) = none) :
    destroyBody s c w x = s.geodeFill (ctxKey c) (immBits w 0 2) x (awaitFence s c) := by rw [destroyBody, passes]

/-! ## ATTEST -/

/-- The two signatures of a statement handed off to clusters `p` and `q`. -/
def attested (s : State) (c : Ctx) (w : Insn) (x : Context) (line : Nat) (y : KeySlot) (p q : Nat) : State :=
  let k := ctxKey c
  let source := s.statement x line y.key (x.vRange w.a 2)
  let bs := (s.queue c.cc).take 256
  let ec : PkOp := { owner := some k, part := x.part, word := { oper := 0x02 }, source, rand := bs.take 192, attest := 1,
                     key := some { ktype := .priv, cls := 4, sel := 1 }, crvCommits := s.pk.crvCommits }
  let pq : PkOp := { owner := some k, part := x.part, word := { oper := 0x29 }, source, rand := bs.drop 192, attest := 2,
                     key := some { ktype := .priv, cls := 7, sel := 1 }, crvCommits := s.pk.crvCommits }
  ((((s.setQueue c.cc ((s.queue c.cc).drop 256)).count (R.SEQ_ISSUE_CNT c.cc) 4).setCtx k { x with wait := .pkx, sigs := [] }).enqueuePk p ec).enqueuePk q pq

/-- ATTEST's work on an attestable key. -/
def attestTo (s : State) (c : Ctx) (w : Insn) (x : Context) (line : Nat) (y : KeySlot) : Result :=
  match s.handTo false [] with
  | .error none => .next s
  | .error (some det) => .next (s.failAt (ctxKey c) 4 stFaultDetected det)
  | .ok p =>
    if s.pkFull p false ∨ s.pkFull ((s.pickPk true [p]).getD p) true then .next s
    else if s.queueFill c.cc < 256 then .next (s.setCtx (ctxKey c) { x with wait := .random, since := s.quartz })
    else .next (attested s c w x line y p ((s.pickPk true [p]).getD p))

theorem execAttest_body : exec (.attest c w) s = s.issue c 0x2 0x9 w fun x => s.withSlot (ctxKey c) 4 x w.ka fun y =>
    match y.line with
    | none => .next (s.failAt (ctxKey c) 4 stKeyUsageDenied y.field)
    | some line =>
      if y.key.origin ≠ 0 ∨ y.key.exportable ∨ s.lcState = 6 then .next (s.failAt (ctxKey c) 4 stKeyUsageDenied y.field)
      else attestTo s c w x line y := rfl

theorem pkKey_ne (p q : Nat) : 2 * p + b2n false ≠ 2 * q + b2n true := by simp only [b2n]; simp; omega

theorem State.pkQueue_setPkQueue_other {p q : Nat} {a b : Bool} {l : List PkOp} (h : 2 * p + b2n a ≠ 2 * q + b2n b) :
    (s.setPkQueue p a l).pkQueue q b = s.pkQueue q b := by
  rw [State.pkQueue, State.setPkQueue, Sparse.get_set_ne _ _ _ _ h]; rfl

theorem State.enqueuePk_two (u : State) (p q : Nat) {a b : PkOp} (ha : a.word.isLattice = false) (hb : b.word.isLattice = true) :
    ((u.enqueuePk p a).enqueuePk q b).pkQueue p false = u.pkQueue p false ++ [a] ∧
      ((u.enqueuePk p a).enqueuePk q b).pkQueue q true = u.pkQueue q true ++ [b] := by
  simp only [State.enqueuePk, ha, hb]
  refine ⟨?_, ?_⟩
  · rw [State.pkQueue_setPkQueue_other (pkKey_ne p q).symm, State.pkQueue_setPkQueue_same]
  · rw [State.pkQueue_setPkQueue_same, State.pkQueue_setPkQueue_other (pkKey_ne p q)]

theorem attested_spec (line : Nat) (y : KeySlot) (p q : Nat) :
    let k := ctxKey c
    let t := attested s c w x line y p q
    t.ctx k = { x with wait := .pkx, sigs := [] } ∧ (∀ j, j ≠ k → t.ctx j = s.ctx j) ∧
      (∃ o, t.pkQueue p false = s.pkQueue p false ++ [o] ∧ o.attest = 1 ∧ o.owner = some k ∧
        o.source = s.statement x line y.key (x.vRange w.a 2) ∧ o.rand = (s.queue c.cc).take 192) ∧
      (∃ o, t.pkQueue q true = s.pkQueue q true ++ [o] ∧ o.attest = 2 ∧ o.owner = some k ∧
        o.source = s.statement x line y.key (x.vRange w.a 2) ∧ o.rand = ((s.queue c.cc).drop 192).take 64) ∧
      t.queue c.cc = (s.queue c.cc).drop 256 ∧ (∀ l, t.line l = s.line l) := by
  intro k t
  have queues := State.enqueuePk_two
    (((s.setQueue c.cc ((s.queue c.cc).drop 256)).count (R.SEQ_ISSUE_CNT c.cc) 4).setCtx k { x with wait := .pkx, sigs := [] }) p q
    (a := { owner := some k, part := x.part, word := { oper := 0x02 }, source := s.statement x line y.key (x.vRange w.a 2),
            rand := ((s.queue c.cc).take 256).take 192, attest := 1, key := some { ktype := .priv, cls := 4, sel := 1 }, crvCommits := s.pk.crvCommits })
    (b := { owner := some k, part := x.part, word := { oper := 0x29 }, source := s.statement x line y.key (x.vRange w.a 2),
            rand := ((s.queue c.cc).take 256).drop 192, attest := 2, key := some { ktype := .priv, cls := 7, sel := 1 }, crvCommits := s.pk.crvCommits })
    rfl rfl
  refine ⟨State.ctx_setCtx_same .., fun j hj => State.ctx_setCtx_ne _ _ _ _ (Ne.symm hj), ⟨_, queues.1, rfl, rfl, rfl, ?_⟩,
    ⟨_, queues.2, rfl, rfl, rfl, ?_⟩, State.queue_setQueue_same .., fun _ => rfl⟩
  · rw [List.take_take]; rfl
  · rw [List.drop_take]

theorem attestChecks (h : s.readyCtx (ctxKey c) 0x2 0x9 w = some x) :
    (x.slot w.ka = none → exec (.attest c w) s = .next (whenSettled s (ctxKey c) (s.failAt (ctxKey c) 4 stKeyUsageDenied 3))) ∧
    (∀ y, x.slot w.ka = some y → y.line = none ∨ y.key.origin ≠ 0 ∨ y.key.exportable = true ∨ s.lcState = 6 →
      exec (.attest c w) s = .next (whenSettled s (ctxKey c) (s.failAt (ctxKey c) 4 stKeyUsageDenied y.field))) := by
  have acts : exec (.attest c w) s = _ := execAttest_body
  rw [acts]
  refine ⟨fun empty => State.issue_withSlot_empty h rfl empty, fun y slot bad => State.issue_fails h ((State.withSlot_loaded slot).trans ?_)⟩
  cases line : y.line with
  | none => rfl
  | some l => exact if_pos (bad.resolve_left (by rw [line]; exact Option.some_ne_none l))

theorem attestHandsOff {y : KeySlot} {line : Nat} (h : s.readyCtx (ctxKey c) 0x2 0x9 w = some x) (slot : x.slot w.ka = some y) (at_ : y.line = some line)
    (origin : y.key.origin = 0) (kept : y.key.exportable = false) (state : s.lcState ≠ 6) : let k := ctxKey c
    (∀ det, s.handTo false [] = .error (some det) → exec (.attest c w) s = .next (whenSettled s k (s.failAt k 4 stFaultDetected det))) ∧
    (s.handTo false [] = .error none → exec (.attest c w) s = .next s) ∧
    (∀ p, s.handTo false [] = .ok p → let q := (s.pickPk true [p]).getD p
      (s.pkFull p false = true ∨ s.pkFull q true = true → exec (.attest c w) s = .next s) ∧
      (s.pkFull p false = false → s.pkFull q true = false → s.queueFill c.cc < 256 →
        exec (.attest c w) s = .next (s.setCtx k { x with wait := .random, since := s.quartz })) ∧
      (s.pkFull p false = false → s.pkFull q true = false → 256 ≤ s.queueFill c.cc → exec (.attest c w) s = .next (attested s c w x line y p q))) := by
  intro k
  have body : (s.withSlot k 4 x w.ka fun y =>
      match y.line with
      | none => .next (s.failAt k 4 stKeyUsageDenied y.field)
      | some line =>
        if y.key.origin ≠ 0 ∨ y.key.exportable ∨ s.lcState = 6 then .next (s.failAt k 4 stKeyUsageDenied y.field)
        else attestTo s c w x line y) = attestTo s c w x line y := by
    rw [State.withSlot_loaded slot, at_]
    exact if_neg (by simp [origin, kept, state])
  have acts : exec (.attest c w) s = _ := execAttest_body
  rw [acts]
  refine ⟨fun det out => State.issue_fails h (body.trans ?_), fun out => State.issue_holds h (body.trans ?_), fun p out => ?_⟩
  · rw [attestTo, out]
  · rw [attestTo, out]
  · intro q
    have here : attestTo s c w x line y = if s.pkFull p false ∨ s.pkFull q true then .next s
        else if s.queueFill c.cc < 256 then .next (s.setCtx k { x with wait := .random, since := s.quartz })
        else .next (attested s c w x line y p q) := by rw [attestTo, out]
    refine ⟨fun full => State.issue_holds h (body.trans (here.trans (if_pos full))), fun a b short => State.issue_setCtx h (body.trans (here.trans ?_)) rfl,
      fun a b long => s.issue_ready h (body.trans (here.trans ?_)) (.inr ?_)⟩
    · rw [if_neg (by simp [a, b]), if_pos short]
    · rw [if_neg (by simp [a, b]), if_neg (by omega)]
    · rw [(attested_spec line y p q).1]; exact (s.readyCtx_runs h : x.cmd.isSome = true)

/-- Settles O28: each record instruction through its body's branches, and a record written through what a written line leaves of the table. -/
theorem recordInstructions : Obligations.RecordInstructions := by
  refine ⟨⟨?_, ?_, ?_, ?_, ?_, ?_, ?_, ?_⟩, ?_⟩
  · intro c w x y parent s k u h reg slot par
    exact writerecWrites h reg slot par
  · intro c w x s k h
    exact writerecRefused h
  · intro c w x s k n left h
    exact loadrecLoads h
  · intro c w x s k a h
    rw [execReadrec_body]
    exact ⟨fun bs lines walk good => State.issue_outcome h ((readRecordBody_lines lines).trans (State.geodeFill_goes walk good)),
      fun st err => State.issue_fails h (by rw [readRecordBody, err])⟩
  · intro c w x s k a h passes walk good
    rw [execDestroy_body]
    exact ⟨_, State.issue_setCtx (u := s) h ((destroyBody_accepts passes).trans (State.geodeFill_goes walk good)) rfl, State.ctx_setCtx_same ..,
      fun j hj => State.ctx_setCtx_ne _ _ _ _ (Ne.symm hj), rfl⟩
  · intro c w x st s k h fails
    rw [execDestroy_body]
    exact State.issue_fails h (by rw [destroyBody, fails])
  · intro i op c w x s k a which h
    rcases which with ⟨rfl, rfl, bs, lines⟩ | ⟨rfl, rfl, passes⟩
    · rw [execReadrec_body]
      exact State.issue_geodeFill h (readRecordBody_lines lines)
    · rw [execDestroy_body]
      exact State.issue_geodeFill h (destroyBody_accepts passes)
  · intro c w x s k h
    obtain ⟨empty, denied⟩ := attestChecks h
    refine ⟨empty, denied, fun y line slot at_ origin kept state => ?_⟩
    obtain ⟨down, none_, goes⟩ := attestHandsOff h slot at_ origin kept state
    refine ⟨down, none_, fun p out => ?_⟩
    intro q
    obtain ⟨full, short, hands⟩ := goes p out
    exact ⟨full, short, fun a b long => ⟨_, hands a b long, attested_spec line y p q⟩⟩
  · intro p h y parent five bs u d s ok
    have placed := State.placeRecord_spec ok
    cases parent <;> exact placed

end Sys2Proof.Machine
end

section
/-! SUPPORT. The key slot instructions: a resident chain moved to the front of its slice, FETCH, RELEASE, KCV and EXTRACT (R70, R71, R208). -/
namespace Sys2Proof.Machine

variable {s u : State} {c : Ctx} {w : Insn} {x : Context}

/-! ## A resident chain -/

/-- `t` differs from `s` in the order of one slice alone, and what was resident there is. -/
structure Reordered (n : Nat) (s t : State) : Prop where
  only : t = { s with ge := { s.ge with slices := t.ge.slices } }
  others : ∀ m, m ≠ n → t.cacheOf m = s.cacheOf m
  resident : ∀ k, s.residentAt n k = true → t.residentAt n k = true

theorem Reordered.refl (n : Nat) (s : State) : Reordered n s s := ⟨rfl, fun _ _ => rfl, fun _ h => h⟩

theorem Reordered.trans {n : Nat} {s t u : State} (h : Reordered n s t) (k : Reordered n t u) : Reordered n s u where
  only := by rw [k.only, h.only]
  others m hm := (k.others m hm).trans (h.others m hm)
  resident j hj := k.resident j (h.resident j hj)

/-- An entry moved to the end of its slice. -/
theorem Reordered.move {n k : Nat} {e : CacheEntry} (line : e.line = k) (gen : e.gen = (s.line k).gen) :
    Reordered n s (s.setCache n ((s.cacheOf n).filter (·.line ≠ k) ++ [e])) where
  only := rfl
  others m hm := by rw [State.cacheOf, State.setCache, Sparse.get_set_ne _ _ _ _ (Ne.symm hm)]; rfl
  resident j hj := by
    rw [State.residentAt, State.cacheOf_setCache_same]
    obtain ⟨d, hd, same⟩ := List.any_eq_true.mp hj
    simp only [Bool.and_eq_true, beq_iff_eq] at same
    have lines : (s.setCache n ((s.cacheOf n).filter (·.line ≠ k) ++ [e])).line j = s.line j := rfl
    rw [lines]
    by_cases h : j = k
    · subst h
      exact List.any_eq_true.mpr ⟨e, by simp, by simp [line, gen]⟩
    · exact List.any_eq_true.mpr ⟨d, by simp [hd, same.1, h], by simp [same]⟩

/-- What the fill of a chain does with one of its records. -/
def State.fillStep (n p : Nat) (chain : List Nat) (s : State) (k : Nat) : Option State :=
  if s.residentAt n k then
    match (s.cacheOf n).find? (fun e => e.line == k && e.gen == (s.line k).gen) with
    | some e => some (s.setCache n ((s.cacheOf n).filter (·.line ≠ k) ++ [e]))
    | none => some s
  else s.fillEntry n p k chain

theorem State.fillChain_eq (n p : Nat) (chain : List Nat) : s.fillChain n p chain = chain.reverse.foldlM (State.fillStep n p chain) s := rfl

theorem State.fillStep_resident {n p k : Nat} {chain : List Nat} (h : s.residentAt n k = true) :
    ∃ t, s.fillStep n p chain k = some t ∧ Reordered n s t := by
  unfold State.fillStep
  rw [if_pos h]
  split
  next e found =>
    have same := List.find?_some found
    simp only [Bool.and_eq_true, beq_iff_eq] at same
    exact ⟨_, rfl, .move same.1 same.2⟩
  · exact ⟨s, rfl, .refl n s⟩

theorem fillSteps_resident {n p : Nat} {chain : List Nat} (ks : List Nat) (s : State) (all : ∀ k ∈ ks, s.residentAt n k = true) :
    ∃ t, ks.foldlM (State.fillStep n p chain) s = some t ∧ Reordered n s t := by
  induction ks generalizing s with
  | nil => exact ⟨s, rfl, .refl n s⟩
  | cons k ks ih =>
    obtain ⟨t, moved, re⟩ := State.fillStep_resident (p := p) (chain := chain) (all k List.mem_cons_self)
    obtain ⟨v, filled, re'⟩ := ih t fun j hj => re.resident j (all j (List.mem_cons_of_mem _ hj))
    exact ⟨v, by rw [List.foldlM_cons, moved]; exact filled, re.trans re'⟩

/-- A chain that is resident is moved and no more. -/
theorem State.fillChain_resident {n p : Nat} {chain : List Nat} (h : s.missing n chain = []) :
    ∃ t, s.fillChain n p chain = some t ∧ Reordered n s t := by
  rw [State.fillChain_eq]
  refine fillSteps_resident _ s fun k hk => ?_
  have := List.filter_eq_nil_iff.mp h k (List.mem_reverse.mp hk)
  simpa using this

/-! ## FETCH (R70) -/

/-- A context that waits for a fill, its slot emptied. -/
def fetchWaits (c : Ctx) (w : Insn) (x : Context) (s : State) : State :=
  s.setCtx (ctxKey c) { x.bindSlot w.kd none with wait := .keyFill, since := s.quartz }

/-- What FETCH does in a state whose epochs are open. -/
def fetchIn (c : Ctx) (w : Insn) (x : Context) (s : State) : Result :=
  let n := c.cc.val
  let p := x.part
  let h := x.desc.keyField (immBits w 0 2)
  if s.mayName p h ∧ !s.ge.ready then
    .next (fetchWaits c w x (if s.residentAt n (lineKey p h) ∨ !(s.line (lineKey p h)).live then s else s.count (R.KCS_MISS n)))
  else match s.judgeFetch p h (modBits w 0 4) (immBits w 16 14) with
    | .error st =>
      if x.filled ∨ !(s.line (lineKey p h)).live ∨ !s.mayName p h ∨ s.residentAt n (lineKey p h) then
        .next (s.failAt (ctxKey c) 4 st (immBits w 0 2))
      else .next (fetchWaits c w x (s.count (R.KCS_MISS n)))
    | .ok (r, chain) =>
      if (s.missing n chain).isEmpty then
        let s := if x.filled then s else s.count (R.KCS_HIT n)
        let s := (s.fillChain n p chain).getD s
        let y : KeySlot := { key := r.key, mask := immBits w 16 14, field := immBits w 0 2, line := some (lineKey p h), stamp := chain }
        .next (s.retire (ctxKey c) 4 { (x.bindSlot w.kd (some y)) with filled := false })
      else .next (fetchWaits c w x (s.count (R.KCS_MISS n)))

theorem execFetch_body : exec (.fetch c w) s = s.issue c 0x2 0x0 w fun x => fetchIn c w x (s.openEpoch x.part) := rfl


theorem fetchIn_early {h : Nat} (at_ : x.desc.keyField (immBits w 0 2) = h) (early : s.mayName x.part h = true) (unready : s.ge.ready = false) :
    fetchIn c w x s = .next (fetchWaits c w x
      (if s.residentAt c.cc (lineKey x.part h) = true ∨ (s.line (lineKey x.part h)).live = false then s else s.count (R.KCS_MISS c.cc))) := by
  unfold fetchIn
  dsimp only
  rw [at_, if_pos (by simp [early, unready])]
  simp only [Bool.not_eq_true']

section
variable {h : Nat} (at_ : x.desc.keyField (immBits w 0 2) = h) (goes : s.ge.ready = true ∨ s.mayName x.part h = false)
include at_ goes

theorem fetchIn_judged : ¬(s.mayName x.part (x.desc.keyField (immBits w 0 2)) ∧ !s.ge.ready) := by
  rw [at_]; rcases goes with h | h <;> simp [h]

theorem fetchIn_fails {st : Nat} (judged : s.judgeFetch x.part h (modBits w 0 4) (immBits w 16 14) = .error st)
    (now : x.filled = true ∨ (s.line (lineKey x.part h)).live = false ∨ s.mayName x.part h = false ∨ s.residentAt c.cc (lineKey x.part h) = true) :
    fetchIn c w x s = .next (s.failAt (ctxKey c) 4 st (immBits w 0 2)) := by
  unfold fetchIn
  dsimp only
  rw [if_neg (fetchIn_judged at_ goes), at_, judged]
  exact if_pos (by simpa using now)

theorem fetchIn_misses {st : Nat} (judged : s.judgeFetch x.part h (modBits w 0 4) (immBits w 16 14) = .error st) (filled : x.filled = false)
    (live : (s.line (lineKey x.part h)).live = true) (named : s.mayName x.part h = true) (away : s.residentAt c.cc (lineKey x.part h) = false) :
    fetchIn c w x s = .next (fetchWaits c w x (s.count (R.KCS_MISS c.cc))) := by
  unfold fetchIn
  dsimp only
  rw [if_neg (fetchIn_judged at_ goes), at_, judged]
  exact if_neg (by simp [filled, live, named, away])

theorem fetchIn_away {r : KeyRecord} {chain : List Nat} (judged : s.judgeFetch x.part h (modBits w 0 4) (immBits w 16 14) = .ok (r, chain))
    (away : s.missing c.cc chain ≠ []) : fetchIn c w x s = .next (fetchWaits c w x (s.count (R.KCS_MISS c.cc))) := by
  unfold fetchIn
  dsimp only
  rw [if_neg (fetchIn_judged at_ goes), at_, judged]
  exact if_neg (by simpa using away)

theorem fetchIn_hits {r : KeyRecord} {chain : List Nat} (judged : s.judgeFetch x.part h (modBits w 0 4) (immBits w 16 14) = .ok (r, chain))
    (here : s.missing c.cc chain = []) : ∃ t, Reordered c.cc (if x.filled then s else s.count (R.KCS_HIT c.cc)) t ∧
      fetchIn c w x s = .next (t.retire (ctxKey c) 4 { x with
        keys := x.keys.set w.kd (some { key := r.key, mask := immBits w 16 14, field := immBits w 0 2, line := some (lineKey x.part h), stamp := chain })
        stream := x.stream.filter (fun z => z.slot ≠ w.kd), filled := false }) := by
  have still : (if x.filled then s else s.count (R.KCS_HIT c.cc)).missing c.cc chain = [] := by split <;> exact here
  obtain ⟨t, filled, re⟩ := State.fillChain_resident (p := x.part) still
  refine ⟨t, re, ?_⟩
  unfold fetchIn
  dsimp only
  rw [if_neg (fetchIn_judged at_ goes), at_, judged]
  dsimp only
  rw [if_pos (by simp [here]), filled]
  rfl

end

theorem State.openEpoch_keeps (s : State) (p : Nat) : endKeeps s (s.openEpoch p) := by
  unfold State.openEpoch
  split
  · split
    · exact endKeeps_trans rfl (endKeeps_raise _ _ _)
    · rfl
  · rfl

theorem State.openEpoch_ready (s : State) (p : Nat) : (s.openEpoch p).ge.ready = s.ge.ready := by
  obtain ⟨-, ge, -⟩ := (endKeeps_iff _ _).mp (s.openEpoch_keeps p)
  rw [ge]

/-- A hit counted, where it is one. -/
def countHit (n : Nat) (filled : Bool) (s : State) : State := if filled then s else s.count (R.KCS_HIT n)

theorem countHit_spec (n : Nat) (filled : Bool) (s : State) : keeps [R.KCS_HIT n] s (countHit n filled s) ∧
    (countHit n filled s).get (R.KCS_HIT n) = (s.get (R.KCS_HIT n) + if filled then 0 else 1) % 2 ^ 32 ∧
    countHit n filled s = { s with regs := (countHit n filled s).regs } := by
  cases filled
  · exact ⟨keeps_set s _ _, State.get_set_same .., rfl⟩
  · exact ⟨keeps_refl s _, (Nat.mod_eq_of_lt (Nat.mod_lt _ (Nat.two_pow_pos 32))).symm, rfl⟩

theorem fetchHits {r : KeyRecord} {chain : List Nat} (h : s.readyCtx (ctxKey c) 0x2 0x0 w = some x) (hu : s.openEpoch x.part = u)
    (ready : s.ge.ready = true) (judged : u.judgeFetch x.part (x.desc.keyField (immBits w 0 2)) (modBits w 0 4) (immBits w 16 14) = .ok (r, chain))
    (here : u.missing c.cc chain = []) :
    ∃ t, exec (.fetch c w) s = .next t ∧
      t.ctx (ctxKey c) = { x with
        keys := x.keys.set w.kd (some { key := r.key, mask := immBits w 16 14, field := immBits w 0 2,
                                        line := some (lineKey x.part (x.desc.keyField (immBits w 0 2))), stamp := chain })
        stream := x.stream.filter (fun z => z.slot ≠ w.kd), filled := false, pc := (x.pc + 1) % 256, retired := x.retired + 1 } ∧
      (∀ j, j ≠ ctxKey c → t.ctx j = u.ctx j) ∧ (∀ n, n ≠ c.cc.val → t.cacheOf n = u.cacheOf n) ∧
      keeps [R.KCS_HIT c.cc, R.SEQ_ISSUE_CNT c.cc, R.SEQ_RETIRE_CNT c.cc] u t ∧
      t.get (R.KCS_HIT c.cc) = (u.get (R.KCS_HIT c.cc) + if x.filled then 0 else 1) % 2 ^ 32 ∧
      t = { u with regs := t.regs, sq := { u.sq with ctxs := t.sq.ctxs }, ge := { u.ge with slices := t.ge.slices } } := by
  have same := s.openEpoch_ctx x.part (ctxKey c)
  have ready' := s.openEpoch_ready x.part
  rw [hu] at same ready'
  obtain ⟨v, re, hits⟩ := fetchIn_hits (c := c) (w := w) rfl (.inl (ready'.trans ready)) judged here
  have acts := execFetch_body (s := s) (c := c) (w := w)
  obtain ⟨counted, hit, count⟩ := countHit_spec c.cc x.filled u
  have re : Reordered c.cc (countHit c.cc x.filled u) v := re
  generalize countHit c.cc x.filled u = a at counted hit count re
  generalize hy : ({ x with
    keys := x.keys.set w.kd (some { key := r.key, mask := immBits w 16 14, field := immBits w 0 2,
                                    line := some (lineKey x.part (x.desc.keyField (immBits w 0 2))), stamp := chain })
    stream := x.stream.filter (fun z => z.slot ≠ w.kd), filled := false } : Context) = y at hits
  obtain ⟨own, -, -, others, kept, only⟩ := v.retire_retires (ctxKey c) 4 y
  have ctxs : ∀ j, v.ctx j = u.ctx j := fun j => by rw [re.only, count]; rfl
  have regs : ∀ f, v.get f = a.get f := fun f => by rw [re.only]; rfl
  have run : y.cmd = x.cmd := by rw [← hy]
  generalize hz : v.retire (ctxKey c) 4 y = z at own others kept only hits
  have caches : z.ge = v.ge := by rw [only]
  refine ⟨z, ?_, ?_, fun j hj => (others j hj).trans (ctxs j), fun n hn => ?_, ?_, ?_, ?_⟩
  · rw [acts]
    refine s.issue_ready h (by rw [hu]; exact hits) (.inr ?_)
    rw [own]; exact (congrArg Option.isSome run).trans (s.readyCtx_runs h)
  · rw [own, ← hy]
  · rw [State.cacheOf, caches]
    exact (re.others n hn).trans (by rw [count]; rfl)
  · intro f hf
    rw [kept f fun g hg => hf g (by rw [clusterOf_ctxKey] at hg; simp only [List.mem_cons, List.not_mem_nil, or_false] at hg ⊢; exact .inr hg), regs,
      counted f fun g hg => hf g (by simp only [List.mem_cons, List.not_mem_nil, or_false] at hg ⊢; exact .inl hg)]
  · rw [kept _ ?_, regs, hit]
    rw [clusterOf_ctxKey]
    clear * -
    generalize c.cc = n
    revert n
    decide
  · rw [only, re.only, count]

/-! ## RELEASE, KCV and EXTRACT -/

theorem Context.setVRange_cmd (x : Context) (d n : Nat) (bs : List Byte) : (x.setVRange d n bs).cmd = x.cmd := by
  unfold Context.setVRange
  refine foldl_keeps (fun y : Context => y.cmd = x.cmd) _ ?_ _ x rfl
  exact fun _ _ h => h

theorem extractGives {y : KeySlot} (h : s.readyCtx (ctxKey c) 0x2 0xA w = some x) (slot : x.slot w.ka = some y) (open_ : y.key.exportable = true)
    (long : immBits w 0 13 + 16 * (immBits w 16 3 + 1) ≤ y.key.material.length) :
    ∃ t, exec (.keyExtract c w) s = .next t ∧
      retires (ctxKey c) 4 (x.setVRange w.d (immBits w 16 3 + 1) (y.key.material.drop (immBits w 0 13))) s t := by
  show ∃ t, execKeyExtract c w s = .next t ∧ _
  refine State.issue_retires h ?_ (x.setVRange_cmd _ _ _)
  rw [State.withSlot_loaded slot]
  dsimp only
  rw [if_neg (by omega), if_neg (by simp [open_])]

theorem extractDenied {y : KeySlot} (h : s.readyCtx (ctxKey c) 0x2 0xA w = some x) (slot : x.slot w.ka = some y) (closed : y.key.exportable = false)
    (long : immBits w 0 13 + 16 * (immBits w 16 3 + 1) ≤ y.key.material.length) :
    exec (.keyExtract c w) s = .next (whenSettled s (ctxKey c) (s.failAt (ctxKey c) 4 stKeyUsageDenied y.field)) := by
  refine State.issue_fails h ?_
  rw [State.withSlot_loaded slot]
  dsimp only
  rw [if_neg (by omega), if_pos (by simp [closed])]

theorem extractShort {y : KeySlot} (h : s.readyCtx (ctxKey c) 0x2 0xA w = some x) (slot : x.slot w.ka = some y)
    (short : y.key.material.length < immBits w 0 13 + 16 * (immBits w 16 3 + 1)) :
    exec (.keyExtract c w) s = .next (whenSettled s (ctxKey c) (s.failAt (ctxKey c) 4 stFormatError 0xC074)) := by
  refine State.issue_fails h ?_
  rw [State.withSlot_loaded slot]
  exact if_pos short

theorem deriveEmpty {twin : Option (Fin 6)} (h : s.readyCtx (ctxKey c) 0x6 0x0 w = some x) (empty : x.slot w.ka = none)
    (some_ : (s.derEntry x (immBits w 0 7)).kind ≠ 0) (key : (s.derEntry x (immBits w 0 7)).kind ≠ 7) :
    exec (.deriveKey c w twin) s = .next (whenSettled s (ctxKey c)
      (s.failAt (ctxKey c) (4 + 2 * (s.derEntry x (immBits w 0 7)).template.length) stKeyUsageDenied 3)) := by
  refine State.issue_fails h ?_
  dsimp only
  rw [if_neg (by simp [some_, key])]
  exact State.withSlot_empty empty

/-- Settles O26: a FETCH by the branches of its judgement, the other slot instructions by theirs. -/
theorem keySlotInstructions : Obligations.KeySlotInstructions := by
  refine ⟨?_, ?_, ?_, ?_, ?_, ?_, ?_, ?_, ?_, ?_⟩
  · intro c w x r chain s k field h u ready geReady judged here
    exact fetchHits ready rfl geReady judged here
  · intro c w x st s k field h u ready goes judged
    have goes' : u.ge.ready = true ∨ u.mayName x.part h = false := goes.imp_left (s.openEpoch_ready x.part).trans
    exact ⟨fun now => State.issue_failsOn ready (fetchIn_fails rfl goes' judged now) (s.openEpoch_ctx ..),
      fun filled live named away => State.issue_setCtx ready (fetchIn_misses rfl goes' judged filled live named away) rfl⟩
  · intro c w x s k u line ready unready named
    have early := fetchIn_early (c := c) (s := u) rfl named ((s.openEpoch_ready x.part).trans unready)
    have quartz : (if u.residentAt c.cc line = true ∨ (u.line line).live = false then u else u.count (R.KCS_MISS c.cc)).quartz = u.quartz := by
      split <;> rfl
    refine (State.issue_setCtx ready early rfl : exec (.fetch c w) s = _).trans ?_
    rw [quartz]
  · intro c w x r chain s k u ready geReady judged away
    exact State.issue_setCtx ready (fetchIn_away rfl (.inl ((s.openEpoch_ready x.part).trans geReady)) judged away) rfl
  · intro c w x s k ready
    exact State.issue_retires ready rfl rfl
  · intro c w x y s k ready slot
    exact State.issue_retires ready (State.withSlot_loaded slot) rfl
  · intro c w x y s k ready slot open_ long
    exact extractGives ready slot open_ long
  · intro c w x y s k ready slot closed long
    exact extractDenied ready slot closed long
  · intro c w x y s k ready slot short
    exact extractShort ready slot short
  · intro c w x s k empty
    refine ⟨fun ready => State.issue_withSlot_empty ready rfl empty, fun ready => State.issue_withSlot_empty ready rfl empty, fun ready valid => ?_,
      fun twin ready some_ key => deriveEmpty ready empty some_ key⟩
    rw [execCiphBlock_body valid]
    exact State.issue_withSlot_empty ready rfl empty

end Sys2Proof.Machine
end

section
/-! SUPPORT. Ephemeral keys placed: the mask a slice lays over them, GENERATE and MAKE (R203, R204, R206, R207). -/
namespace Sys2Proof.Machine

variable {s : State} {c : Ctx} {w : Insn} {x : Context}

/-! ## Placing -/

theorem xorBytes_xorBytes {a b : List Byte} (h : b.length = a.length) : xorBytes (xorBytes a b) b = a := by
  unfold xorBytes
  induction a generalizing b with
  | nil => rfl
  | cons v a ih =>
    cases b with
    | nil => cases h
    | cons m b =>
      simp only [List.zipWith_cons_cons]
      rw [ih (by simpa using h), BitVec.xor_assoc, BitVec.xor_self, BitVec.xor_zero]

/-- What a slice holds of masked bytes stands for them. -/
theorem State.maskIn_clear (s : State) (n : Nat) (bs : List Byte) : (s.maskIn n bs).1.clear = bs :=
  xorBytes_xorBytes (by simp)

theorem State.maskIn_state (s : State) (n : Nat) (bs : List Byte) : (s.maskIn n bs).2 = { s with ge.masks := s.ge.masks + 1 } := rfl

theorem State.makeRoom_there {n p need fuel : Nat} (h : s.entriesUsed n + need ≤ 4096) : s.makeRoom n p need [] (fuel + 1) = some s := by
  rw [State.makeRoom, if_pos h]

section
variable {k slots kd : Nat} {y : KeySlot} {x' : Context}

/-- The state an ephemeral key placed in slot `kd` leaves. -/
def State.ephemeralPlaced (s : State) (k slots : Nat) (x : Context) (kd : Nat) (y : KeySlot) (x' : Context) : State :=
  let v := s.setCtx k (x.setSlot kd none)
  ((v.maskIn (clusterOf k) y.key.material).2).retire k slots (x'.setSlot kd (some { y with held := (v.maskIn (clusterOf k) y.key.material).1 }))

theorem State.placeEphemeral_fits (quota : (s.setCtx k (x.setSlot kd none)).ephUsed x.part + keyEntries y.key.material.length ≤ (s.part x.part).ephQuota)
    (room : (s.setCtx k (x.setSlot kd none)).entriesUsed (clusterOf k) + keyEntries y.key.material.length ≤ 4096) :
    s.placeEphemeral k slots x kd y x' = .next (s.ephemeralPlaced k slots x kd y x') := by
  rw [State.placeEphemeral]
  dsimp only
  rw [if_neg (by omega), show (4096 : Nat) = 4095 + 1 from rfl, State.makeRoom_there room]
  rfl

theorem State.ephemeralPlaced_spec : ∃ held : Masked, held.clear = y.key.material ∧
    (s.ephemeralPlaced k slots x kd y x').ctx k = (x'.setSlot kd (some { y with held })).step ∧
    (∀ j, j ≠ k → (s.ephemeralPlaced k slots x kd y x').ctx j = s.ctx j) ∧ (s.ephemeralPlaced k slots x kd y x').fl = s.fl ∧
    s.ephemeralPlaced k slots x kd y x' = { s with
      regs := (s.ephemeralPlaced k slots x kd y x').regs, sq := { s.sq with ctxs := (s.ephemeralPlaced k slots x kd y x').sq.ctxs }
      ge := { s.ge with masks := s.ge.masks + 1 } } := by
  refine ⟨_, State.maskIn_clear (s.setCtx k (x.setSlot kd none)) (clusterOf k) y.key.material, State.retire_ctx .., fun j hj => ?_, rfl, rfl⟩
  exact (State.ctx_setCtx_ne _ _ _ _ (Ne.symm hj)).trans (State.ctx_setCtx_ne _ _ _ _ (Ne.symm hj))

theorem State.placeEphemeral_full (quota : (s.setCtx k (x.setSlot kd none)).ephUsed x.part + keyEntries y.key.material.length ≤ (s.part x.part).ephQuota)
    (room : (s.setCtx k (x.setSlot kd none)).makeRoom (clusterOf k) x.part (keyEntries y.key.material.length) [] 4096 = none) :
    s.placeEphemeral k slots x kd y x' = .next s := by
  rw [State.placeEphemeral]
  dsimp only
  rw [if_neg (by omega), room]

end

/-! ## GENERATE -/

/-- The key GENERATE makes of random bytes. -/
def generated (w : Insn) (x : Context) (m : List Byte) : Key :=
  let key : Key := { ktype := .secret, cls := modBits w 0 4, sel := bitsOf (x.sr w.a) 16 6, level := 6, usage := bitsOf (x.sr w.a) 0 14,
                     attr := withOrigin (bitsOf (x.sr w.b) 0 14) 0, material := m }
  { key with kcv := key.checkValue }

/-- GENERATE's body. -/
def generateBody (s : State) (c : Ctx) (w : Insn) (x : Context) : Result :=
  let k := ctxKey c
  let mlen := bitsOf (x.sr w.b) 16 13
  if w.a.val > 7 ∨ w.b.val > 7 ∨ modBits w 0 4 < 1 ∨ 3 < modBits w 0 4 then .refused .reservedEncoding
  else if (s.setCtx k (x.setSlot w.kd none)).ephUsed x.part + keyEntries mlen > (s.part x.part).ephQuota then
    .next ((s.raise pgGEO 4).failAt k 4 stQuotaExceeded 2)
  else if !s.materialFits (modBits w 0 4) .secret (bitsOf (x.sr w.a) 16 6) mlen then .next (s.failAt k 4 stFormatError 0xC074)
  else if s.queueFill c.cc < mlen then .next (s.setCtx k { x with wait := .random, since := s.quartz })
  else (s.setQueue c.cc ((s.queue c.cc).drop mlen)).placeEphemeral k 4 x w.kd { key := generated w x ((s.queue c.cc).take mlen) } x

theorem execGenerate_body : exec (.generate c w) s = s.issue c 0x2 0x3 w (generateBody s c w) := rfl

theorem generateMakes (h : s.readyCtx (ctxKey c) 0x2 0x3 w = some x) : let k := ctxKey c
    let cls := modBits w 0 4
    let sel := bitsOf (x.sr w.a) 16 6
    let mlen := bitsOf (x.sr w.b) 16 13
    let s0 := s.setCtx k (x.setSlot w.kd none)
    (7 < w.a.val ∨ 7 < w.b.val ∨ cls < 1 ∨ 3 < cls → exec (.generate c w) s = .refused .reservedEncoding) ∧
    (w.a.val ≤ 7 → w.b.val ≤ 7 → 1 ≤ cls → cls ≤ 3 →
      ((s.part x.part).ephQuota < s0.ephUsed x.part + keyEntries mlen →
        exec (.generate c w) s = .next (whenSettled s k ((s.raise pgGEO 4).failAt k 4 stQuotaExceeded 2))) ∧
      (s0.ephUsed x.part + keyEntries mlen ≤ (s.part x.part).ephQuota →
        (s.materialFits cls .secret sel mlen = false → exec (.generate c w) s = .next (whenSettled s k (s.failAt k 4 stFormatError 0xC074))) ∧
        (s.materialFits cls .secret sel mlen = true →
          (s.queueFill c.cc < mlen → exec (.generate c w) s = .next (s.setCtx k { x with wait := .random, since := s.quartz })) ∧
          (mlen ≤ s.queueFill c.cc → s0.entriesUsed c.cc + keyEntries mlen ≤ 4096 →
            exec (.generate c w) s = .next ((s.setQueue c.cc ((s.queue c.cc).drop mlen)).ephemeralPlaced k 4 x w.kd
              { key := generated w x ((s.queue c.cc).take mlen) } x))))) := by
  intro k cls sel mlen s0
  rw [execGenerate_body]
  refine ⟨fun out => State.issue_refuses h (if_pos out), fun a b low high => ⟨fun over_ => ?_, fun quota => ⟨fun unfit => ?_, fun fits => ⟨fun short => ?_, fun full room => ?_⟩⟩⟩⟩
  · refine State.issue_failsOn h ?_ (endKeeps_ctx (endKeeps_raise _ _ _) _)
    unfold generateBody
    dsimp only
    rw [if_neg (by omega), if_pos over_]
  · refine State.issue_fails h ?_
    unfold generateBody
    dsimp only
    rw [if_neg (by omega), if_neg (Nat.not_lt.mpr quota), if_pos (by simpa using unfit)]
  · refine State.issue_setCtx (u := s) h ?_ rfl
    unfold generateBody
    dsimp only
    rw [if_neg (by omega), if_neg (Nat.not_lt.mpr quota), if_neg (by simpa using fits), if_pos short]
  · have long : (generated w x ((s.queue c.cc).take mlen)).material.length = mlen := by
      show ((s.queue c.cc).take mlen).length = mlen
      rw [List.length_take]
      exact Nat.min_eq_left full
    have body : generateBody s c w x = .next ((s.setQueue c.cc ((s.queue c.cc).drop mlen)).ephemeralPlaced k 4 x w.kd
        { key := generated w x ((s.queue c.cc).take mlen) } x) := by
      unfold generateBody
      dsimp only
      rw [if_neg (by omega), if_neg (Nat.not_lt.mpr quota), if_neg (by simpa using fits), if_neg (Nat.not_lt.mpr full)]
      refine State.placeEphemeral_fits ?_ ?_
      · rw [long]; exact quota
      · rw [long, clusterOf_ctxKey]; exact room
    refine s.issue_ready h body (.inr ?_)
    obtain ⟨held, -, own, -⟩ := State.ephemeralPlaced_spec (s := s.setQueue c.cc ((s.queue c.cc).drop mlen)) (k := k) (slots := 4) (x := x) (kd := w.kd)
      (y := { key := generated w x ((s.queue c.cc).take mlen) }) (x' := x)
    rw [own]; exact (s.readyCtx_runs h : x.cmd.isSome = true)

/-! ## MAKE -/

/-- The slot MAKE builds in. -/
def makeOld (w : Insn) (x : Context) : KeySlot := ((x.keys.getD w.kd none).filter (·.building)).getD { building := true }

/-- The material it has built. -/
def makeBuilt (w : Insn) (x : Context) : List Byte :=
  overlay (immBits w 0 13) (x.vRange w.d (immBits w 16 3 + 1))
    (fitBytes (max (makeOld w x).key.material.length (immBits w 0 13 + 16 * (immBits w 16 3 + 1))) (makeOld w x).key.material)

/-- The length the key is to have, or may have at most. -/
def makeLen (w : Insn) (x : Context) : Nat := if bitOf w.imm.toNat 31 then bitsOf (x.sr w.b) 16 13 else 4896

theorem makeBuilt_length (w : Insn) (x : Context) :
    (makeBuilt w x).length = max (makeOld w x).key.material.length (immBits w 0 13 + 16 * (immBits w 16 3 + 1)) := by
  simp only [makeBuilt, overlay, List.length_append, List.length_take, List.length_drop, fitBytes_length]
  omega

/-- The key a final MAKE makes of its material. -/
def made (w : Insn) (x : Context) (m : List Byte) : Key :=
  let key : Key := { ktype := ktypeOf (modBits w 4 4), cls := modBits w 0 4, sel := bitsOf (x.sr w.a) 16 6, level := 6, usage := bitsOf (x.sr w.a) 0 14,
                     attr := withOrigin (bitsOf (x.sr w.b) 0 14) 1, material := m }
  { key with kcv := key.checkValue }

/-- A key still being built. -/
def makeMore (w : Insn) (x : Context) : KeySlot :=
  { makeOld w x with building := true, key := { (makeOld w x).key with material := makeBuilt w x } }

/-- MAKE's body. -/
def makeBody (s : State) (c : Ctx) (w : Insn) (x : Context) : Result :=
  let k := ctxKey c
  if bitOf w.imm.toNat 31 ∧ (w.a.val > 7 ∨ w.b.val > 7) then .refused .reservedEncoding
  else if (s.setCtx k (x.setSlot w.kd none)).ephUsed x.part + keyEntries (min (makeLen w x) (makeBuilt w x).length) > (s.part x.part).ephQuota then
    .next ((s.raise pgGEO 4).failAt k 4 stQuotaExceeded 2)
  else if immBits w 0 13 + 16 * (immBits w 16 3 + 1) > makeLen w x then .next (s.failAt k 4 stFormatError 0xC074)
  else if ¬ bitOf w.imm.toNat 31 then s.placeEphemeral k 4 x w.kd (makeMore w x) x
  else if ¬ (1 ≤ modBits w 4 4 ∧ modBits w 4 4 ≤ 3) ∨ (makeOld w x).key.material.length > makeLen w x ∨ (makeBuilt w x).length < makeLen w x ∨
      !s.materialFits (modBits w 0 4) (ktypeOf (modBits w 4 4)) (bitsOf (x.sr w.a) 16 6) (makeLen w x) then .next (s.failAt k 4 stFormatError 0xC074)
  else s.placeEphemeral k 4 x w.kd { key := made w x ((makeBuilt w x).take (makeLen w x)) } x

theorem execMake_body : exec (.make c w) s = s.issue c 0x2 0x4 w (makeBody s c w) := rfl

section
variable (fields : bitOf w.imm.toNat 31 = false ∨ (w.a.val ≤ 7 ∧ w.b.val ≤ 7))
include fields

theorem makeBody_over (over_ : (s.part x.part).ephQuota <
    (s.setCtx (ctxKey c) (x.setSlot w.kd none)).ephUsed x.part + keyEntries (min (makeLen w x) (makeBuilt w x).length)) :
    makeBody s c w x = .next ((s.raise pgGEO 4).failAt (ctxKey c) 4 stQuotaExceeded 2) := by
  rw [makeBody, if_neg (by rcases fields with h | h <;> simp [h]), if_pos over_]

variable (quota : (s.setCtx (ctxKey c) (x.setSlot w.kd none)).ephUsed x.part + keyEntries (min (makeLen w x) (makeBuilt w x).length) ≤ (s.part x.part).ephQuota)
include quota

theorem makeBody_long (long : makeLen w x < immBits w 0 13 + 16 * (immBits w 16 3 + 1)) :
    makeBody s c w x = .next (s.failAt (ctxKey c) 4 stFormatError 0xC074) := by
  rw [makeBody, if_neg (by rcases fields with h | h <;> simp [h]), if_neg (Nat.not_lt.mpr quota), if_pos long]

variable (short : immBits w 0 13 + 16 * (immBits w 16 3 + 1) ≤ makeLen w x)
include short

theorem makeBody_unfit (final : bitOf w.imm.toNat 31 = true)
    (unfit : (makeBuilt w x).length ≠ makeLen w x ∨ modBits w 4 4 < 1 ∨ 3 < modBits w 4 4 ∨
      s.materialFits (modBits w 0 4) (ktypeOf (modBits w 4 4)) (bitsOf (x.sr w.a) 16 6) (makeLen w x) = false) :
    makeBody s c w x = .next (s.failAt (ctxKey c) 4 stFormatError 0xC074) := by
  have bad : ¬ (1 ≤ modBits w 4 4 ∧ modBits w 4 4 ≤ 3) ∨ (makeOld w x).key.material.length > makeLen w x ∨ (makeBuilt w x).length < makeLen w x ∨
      (!s.materialFits (modBits w 0 4) (ktypeOf (modBits w 4 4)) (bitsOf (x.sr w.a) 16 6) (makeLen w x)) = true := by
    have len := makeBuilt_length w x
    rcases unfit with ne | low | high | unfit
    · omega
    · exact .inl (by omega)
    · exact .inl (by omega)
    · exact .inr (.inr (.inr (by simpa using unfit)))
  rw [makeBody, if_neg (by rcases fields with h | h <;> simp [h]), if_neg (Nat.not_lt.mpr quota), if_neg (Nat.not_lt.mpr short), if_neg (by simp [final]),
    if_pos bad]

variable (room : (s.setCtx (ctxKey c) (x.setSlot w.kd none)).entriesUsed c.cc + keyEntries (min (makeLen w x) (makeBuilt w x).length) ≤ 4096)
include room

omit fields in
theorem makeBody_more (more : bitOf w.imm.toNat 31 = false) (old : (makeOld w x).key.material.length ≤ 4896) :
    makeBody s c w x = .next (s.ephemeralPlaced (ctxKey c) 4 x w.kd (makeMore w x) x) := by
  have len := makeBuilt_length w x
  have most : makeLen w x = 4896 := by rw [makeLen, more]; rfl
  have all : min (makeLen w x) (makeBuilt w x).length = (makeMore w x).key.material.length := by
    show _ = (makeBuilt w x).length
    omega
  rw [all] at quota room
  rw [makeBody, if_neg (by simp [more]), if_neg (by rw [all]; exact Nat.not_lt.mpr quota), if_neg (Nat.not_lt.mpr short), if_pos (by simp [more]),
    State.placeEphemeral_fits quota (by rw [clusterOf_ctxKey]; exact room)]

theorem makeBody_final (final : bitOf w.imm.toNat 31 = true) (whole : (makeBuilt w x).length = makeLen w x) (low : 1 ≤ modBits w 4 4) (high : modBits w 4 4 ≤ 3)
    (fits : s.materialFits (modBits w 0 4) (ktypeOf (modBits w 4 4)) (bitsOf (x.sr w.a) 16 6) (makeLen w x) = true) :
    makeBody s c w x = .next (s.ephemeralPlaced (ctxKey c) 4 x w.kd { key := made w x (makeBuilt w x) } x) := by
  have len := makeBuilt_length w x
  have all : min (makeLen w x) (makeBuilt w x).length = (made w x (makeBuilt w x)).material.length := by
    show _ = (makeBuilt w x).length
    omega
  rw [all] at quota room
  have good : ¬(¬ (1 ≤ modBits w 4 4 ∧ modBits w 4 4 ≤ 3) ∨ (makeOld w x).key.material.length > makeLen w x ∨ (makeBuilt w x).length < makeLen w x ∨
      (!s.materialFits (modBits w 0 4) (ktypeOf (modBits w 4 4)) (bitsOf (x.sr w.a) 16 6) (makeLen w x)) = true) := by
    rw [fits]
    simp only [Bool.not_true, Bool.false_eq_true, or_false]
    omega
  rw [makeBody, if_neg (by rcases fields with h | h <;> simp [h]), if_neg (by rw [all]; exact Nat.not_lt.mpr quota), if_neg (Nat.not_lt.mpr short),
    if_neg (by simp [final]), if_neg good, List.take_of_length_le (Nat.le_of_eq whole),
    State.placeEphemeral_fits quota (by rw [clusterOf_ctxKey]; exact room)]

end

/-- An instruction that places an ephemeral key. -/
theorem State.issue_placed {cls op : Nat} {run : Context → Result} {y : KeySlot} {v : State} (h : s.readyCtx (ctxKey c) cls op w = some x)
    (hr : run x = .next (v.ephemeralPlaced (ctxKey c) 4 x w.kd y x)) :
    s.issue c cls op w run = .next (v.ephemeralPlaced (ctxKey c) 4 x w.kd y x) := by
  refine s.issue_ready h hr (.inr ?_)
  obtain ⟨held, -, own, -⟩ := State.ephemeralPlaced_spec (s := v) (k := ctxKey c) (slots := 4) (x := x) (kd := w.kd) (y := y) (x' := x)
  rw [own]; exact (s.readyCtx_runs h : x.cmd.isSome = true)

/-- Settles O27: GENERATE and MAKE by their checks in order, and a key placed through the mask its slice lays over it. -/
theorem ephemeralKeysArePlaced : Obligations.EphemeralKeysArePlaced := by
  refine ⟨?_, ?_, ?_⟩
  · intro c w x s k cls sel mlen s0 h
    obtain ⟨reserved, goes⟩ := generateMakes h
    refine ⟨reserved, fun a b low high => ?_⟩
    obtain ⟨over_, within⟩ := goes a b low high
    refine ⟨over_, fun quota => ⟨(within quota).1, fun fits => ⟨((within quota).2 fits).1, fun full room => ?_⟩⟩⟩
    have acts := ((within quota).2 fits).2 full room
    obtain ⟨held, clear, own, others, fl, only⟩ := State.ephemeralPlaced_spec (s := s.setQueue c.cc ((s.queue c.cc).drop mlen)) (k := k) (slots := 4) (x := x)
      (kd := w.kd) (y := { key := generated w x ((s.queue c.cc).take mlen) }) (x' := x)
    refine ⟨_, held, acts, ⟨clear, own⟩, others, ?_, fun n hn => ?_, ?_⟩
    · rw [State.queue, fl]
      exact State.queue_setQueue_same ..
    · rw [State.queue, fl]
      exact Sparse.get_set_ne _ _ _ _ (Ne.symm hn)
    · rw [fl]
      exact only
  · intro c w x s k off n final old built mlen need s0 cls type sel h
    rw [execMake_body]
    refine ⟨fun last out => State.issue_refuses h (if_pos ⟨last, out⟩), fun fields => ⟨fun over_ => ?_, fun quota => ⟨fun long => ?_, fun short room => ⟨?_, ?_⟩, ?_⟩⟩⟩
    · exact State.issue_failsOn h (makeBody_over fields over_) (endKeeps_ctx (endKeeps_raise _ _ _) _)
    · exact State.issue_fails h (makeBody_long fields quota long)
    · intro more len
      have acts := State.issue_placed h (makeBody_more quota short room more len)
      obtain ⟨held, clear, own, others, fl, only⟩ := State.ephemeralPlaced_spec (s := s) (k := k) (slots := 4) (x := x) (kd := w.kd) (y := makeMore w x) (x' := x)
      exact ⟨_, held, acts, clear, own, others, only⟩
    · intro last whole low high fits
      have acts := State.issue_placed h (makeBody_final fields quota short room last whole low high fits)
      obtain ⟨held, clear, own, others, fl, only⟩ := State.ephemeralPlaced_spec (s := s) (k := k) (slots := 4) (x := x) (kd := w.kd)
        (y := { key := made w x (makeBuilt w x) }) (x' := x)
      exact ⟨_, held, acts, ⟨clear, own⟩, others, only⟩
    · intro last short unfit
      exact State.issue_fails h (makeBody_unfit fields quota short last unfit)
  · intro k slots need x x' kd y s hneed quota room
    subst hneed
    exact State.placeEphemeral_full quota room

end Sys2Proof.Machine
end

section
/-! SUPPORT. FMT instructions: the entry applied in its format unit, and what each outcome leaves (R74, R98). -/
namespace Sys2Proof.Machine

variable {s u : State} {c : Ctx} {w : Insn} {x : Context}

/-- An instruction that ends its command, however it does, does so once the earlier operations of its context have completed. -/
theorem State.issue_ends {cls op : Nat} {run : Context → Result} (h : s.readyCtx (ctxKey c) cls op w = some x) (hr : run x = .next u)
    (ends : (u.ctx (ctxKey c)).cmd = none) : s.issue c cls op w run = .next (whenSettled s (ctxKey c) u) := by
  unfold whenSettled
  split
  next settled => exact s.issue_ready h hr (.inl settled)
  next early => exact s.issue_early h hr (by simpa using early) (by rw [ends]; rfl)

/-- A twin mismatch ends the command it served. -/
theorem State.twinFault_ends {n v k : Nat} (hv : v < 6) (run : (s.ctx k).cmd.isSome = true) : ((s.twinFault n v (some k)).ctx k).cmd = none := by
  obtain ⟨t, -, -, -, -, -, sq, -, -, ends⟩ := s.twinFault_spec (n := n) hv k
  rw [ends]
  exact State.endCommand_ctx_cmd _ _ _ _ _ (by rw [State.ctx, sq]; exact run)

theorem State.issue_twinFault {cls op n v : Nat} {run : Context → Result} (h : s.readyCtx (ctxKey c) cls op w = some x) (hv : v < 6)
    (hr : run x = .next (u.twinFault n v (some (ctxKey c)))) (same : u.ctx (ctxKey c) = s.ctx (ctxKey c)) :
    s.issue c cls op w run = .next (whenSettled s (ctxKey c) (u.twinFault n v (some (ctxKey c)))) :=
  State.issue_ends h hr (State.twinFault_ends hv (same ▸ (s.readyCtx_spec h).1 ▸ s.readyCtx_runs h))

/-- The context a format operation that succeeds leaves. -/
def fmtDone (w : Insn) (x : Context) (d : Option (List Byte)) (len : Option Nat) : Context :=
  let x := { x with fe := false }
  let x := match d with | some v => x.setV w.d v | none => x
  match len with | some v => x.setS (immBits w 12 3) v | none => x

/-- What a format operation has given. -/
def fmtOutcome (s : State) (c : Ctx) (w : Insn) (x : Context) (slots : Nat) (r : Except Nat (Option (List Byte) × Option Nat)) : Result :=
  match r with
  | .error code =>
    if modBit w 0 then .next (s.retire (ctxKey c) slots { x with fe := true })
    else .next (s.failAt (ctxKey c) slots stFormatError (0x8000 + 0x100 * immBits w 0 6 + code))
  | .ok (d, len) => .next (s.retire (ctxKey c) slots (fmtDone w x d len))

/-- An FMT instruction's body, under its entry. -/
def fmtBody (s : State) (c : Ctx) (op : Nat) (w : Insn) (twinOk : Bool) (e : FmtEntry) (x : Context) : Result :=
  if e.kind = 0 then .next (s.failAt (ctxKey c) 1 stAborted 4)
  else if !(s.fmtUnit c.cc).inService then .next (s.noUnit (ctxKey c) (e.slots op) 5)
  else if op = 4 ∧ e.folds ∧ ¬ x.has (x.chunkBase + 4096) then .next (s.needChunk (ctxKey c) x)
  else if !twinOk then .next ((s.countIssue (ctxKey c) (e.slots op)).twinFault c.cc 5 (some (ctxKey c)))
  else fmtOutcome s c w x (e.slots op)
    (e.apply op (x.sr (immBits w 8 3)) (x.sr (immBits w 12 3)) (x.vr w.a) (x.vr w.b) (x.bufBytes (x.desc.param % 4096) 10))

theorem format_body (s : State) (c : Ctx) (op : Nat) (w : Insn) (twinOk : Bool) :
    s.format c op w twinOk = s.issue c 0x5 op w fun x => fmtBody s c op w twinOk (s.fmtEntry x (immBits w 0 6)) x := rfl

theorem fmtInstr_exec {i : Instr} {op : Nat} {twinOk : Bool} (h : fmtInstr i = some (op, c, w, twinOk)) : exec i s = s.format c op w twinOk := by
  cases i <;> cases h <;> rfl

section
variable {op : Nat} {twinOk : Bool} {e : FmtEntry} (filled : e.kind ≠ 0)
include filled

theorem fmtBody_down (down : (s.fmtUnit c.cc).inService = false) :
    fmtBody s c op w twinOk e x = .next (s.failAt (ctxKey c) (e.slots op) stFaultDetected (unitDetail c.cc (Sparse.get 5 s.ci.lastOut c.cc))) := by
  rw [fmtBody, if_neg filled, if_pos (by rw [down]; rfl), State.noUnit_detail]

variable (up : (s.fmtUnit c.cc).inService = true)
include up

theorem fmtBody_waits (fold : op = 4) (folds : e.folds = true) (early : x.has (x.chunkBase + 4096) = false) :
    fmtBody s c op w twinOk e x = .next (s.needChunk (ctxKey c) x) := by
  rw [fmtBody, if_neg filled, if_neg (by rw [up]; decide), if_pos ⟨fold, folds, by rw [early]; decide⟩]

variable (there : op ≠ 4 ∨ e.folds = false ∨ x.has (x.chunkBase + 4096) = true)
include there

omit filled up in
theorem fmtBody_there : ¬(op = 4 ∧ e.folds = true ∧ ¬ x.has (x.chunkBase + 4096) = true) := by
  rintro ⟨fold, folds, early⟩
  rcases there with h | h | h
  · exact h fold
  · rw [h] at folds; cases folds
  · exact early h

theorem fmtBody_faults (h : twinOk = false) :
    fmtBody s c op w twinOk e x = .next ((s.countIssue (ctxKey c) (e.slots op)).twinFault c.cc 5 (some (ctxKey c))) := by
  rw [fmtBody, if_neg filled, if_neg (by rw [up]; decide), if_neg (fmtBody_there there), if_pos (by rw [h]; rfl)]

theorem fmtBody_applies (h : twinOk = true) : fmtBody s c op w twinOk e x = fmtOutcome s c w x (e.slots op)
    (e.apply op (x.sr (immBits w 8 3)) (x.sr (immBits w 12 3)) (x.vr w.a) (x.vr w.b) (x.bufBytes (x.desc.param % 4096) 10)) := by
  rw [fmtBody, if_neg filled, if_neg (by rw [up]; decide), if_neg (fmtBody_there there), if_neg (by rw [h]; decide)]

end

theorem State.countIssue_keeps (s : State) (c : Ctx) (n : Nat) :
    keeps [R.SEQ_ISSUE_CNT c.cc, R.SEQ_RETIRE_CNT c.cc] s (s.countIssue (ctxKey c) n) ∧
      s.countIssue (ctxKey c) n = { s with regs := (s.countIssue (ctxKey c) n).regs } := by
  refine ⟨fun f hf => ?_, rfl⟩
  rw [State.countIssue, clusterOf_ctxKey, State.get_count_ne _ _ _ _ (hf _ (by simp)), State.get_count_ne _ _ _ _ (hf _ (by simp))]

theorem fmtDone_eq (w : Insn) (x : Context) (d : Option (List Byte)) (len : Option Nat) : fmtDone w x d len =
    { (match d with | some v => x.setV w.d v | none => x) with
      fe := false, sreg := (match len with | some n => x.sreg.set (immBits w 12 3) (BitVec.ofNat 32 n) | none => x.sreg) } := by
  cases d <;> cases len <;> rfl

/-- Settles O29: an FMT instruction by the checks of its body in order, and its entry's outcome. -/
theorem formatInstructionsApplyTheEntry : Obligations.FormatInstructionsApplyTheEntry := by
  intro i op c w twinOk x s hi k e r h
  rw [fmtInstr_exec hi, format_body]
  refine ⟨fun empty => State.issue_fails h (if_pos empty), fun filled down => State.issue_fails h (fmtBody_down filled down),
    fun filled up => ⟨fun fold folds early => State.issue_waits h (fmtBody_waits filled up fold folds early), fun there => ⟨fun bad => ?_, fun good => ⟨?_, ?_, ?_⟩⟩⟩⟩
  · obtain ⟨kept, only⟩ := s.countIssue_keeps c (e.slots op)
    exact ⟨_, kept, only, State.issue_twinFault h (by decide) (fmtBody_faults filled up there bad) rfl⟩
  · intro d len hr
    obtain ⟨t, ran, ret⟩ := State.issue_retires (run := fun x => fmtBody s c op w twinOk (s.fmtEntry x (immBits w 0 6)) x)
      (y := fmtDone w x d len) h ((fmtBody_applies filled up there good).trans (congrArg (fmtOutcome s c w x (e.slots op)) hr))
      (by rw [fmtDone_eq]; cases d <;> rfl)
    refine ⟨t, ran, ?_⟩
    rw [fmtDone_eq] at ret
    cases d <;> cases len <;> exact ret
  · intro code hr soft
    refine State.issue_retires h ((fmtBody_applies filled up there good).trans ?_) rfl
    exact (congrArg (fmtOutcome s c w x (e.slots op)) hr).trans (if_pos soft)
  · intro code hr hard
    refine State.issue_fails h ((fmtBody_applies filled up there good).trans ?_)
    exact (congrArg (fmtOutcome s c w x (e.slots op)) hr).trans (if_neg (by rw [hard]; decide))

end Sys2Proof.Machine
end

section
/-! SUPPORT. DERIVE and RAND: the derivation in the twins of its units, what its work leaves, and the value placed (R75, R78, R81, R98, R127, R154). -/
namespace Sys2Proof.Machine

variable {s u v t : State} {c : Ctx} {w : Insn} {x : Context} {y : KeySlot} {e : DerEntry} {n : Nat}

/-! ## The derivation in its twins -/

/-- Does a block cipher of the entry take the key: TDES, or AES under a key as long as AES knows? -/
def DerEntry.ciphered (e : DerEntry) (key : List Byte) : Prop := e.kind = 3 ∨ e.blocks = 0 ∨ longEnough e.cipher key

theorem withC0_length (key : List Byte) : (withC0 key).length = key.length := by simp [withC0]

theorem DerEntry.slices_nil (h : e.nblk = 0) (data : List Nat) : e.slices data = [] := by simp [DerEntry.slices, h]

theorem DerEntry.nblk_zero (h : e.blocks = 0) (kind : e.kind = 1 ∨ e.kind = 2 ∨ e.kind = 7) : e.nblk = 0 := by
  unfold DerEntry.blocks at h
  rcases kind with k | k | k <;> rw [k] at h
  · exact h
  · rcases Nat.mul_eq_zero.1 h with h | h
    · exact h
    · cases (Nat.add_eq_zero_iff.1 h).1
  · exact h

/-- Every sound datapath gives the bytes of Table 4.5. -/
theorem DerEntry.bytesIn_eq {p : Path} (h : p.sound) (key a b : List Byte) (hk : e.ciphered key) :
    e.bytesIn p key a b = e.bytesBy (fun k _ => blkEnc e.cipher k) (fun k _ => desEncrypt k) key a b := by
  have des : p.des = fun k _ => desEncrypt k := funext fun k => funext fun i => funext fun d => p.des_eq h k i d
  have blk : ∀ k : List Byte, k.length = key.length → longEnough e.cipher key → p.cipher e.cipher false k = fun _ => blkEnc e.cipher k :=
    fun k len long => funext fun i => funext fun d => p.cipher_eq h e.cipher false k i d (by unfold longEnough at *; rwa [len])
  have ciphers (kind : e.kind = 1 ∨ e.kind = 2 ∨ e.kind = 7) : e.nblk = 0 ∨ longEnough e.cipher key := by
    rcases hk with three | zero | long
    · omega
    · exact .inl (e.nblk_zero zero kind)
    · exact .inr long
  have single : e.kind = 1 ∨ e.kind = 7 → (e.slices (e.data a b)).mapIdx (fun i d => p.cipher e.cipher false (if i = 1 ∧ bitOf e.flags 3 then withC0 key else key) i d) =
      (e.slices (e.data a b)).mapIdx fun i d => blkEnc e.cipher (if i = 1 ∧ bitOf e.flags 3 then withC0 key else key) d := by
    intro kind
    rcases ciphers (by omega) with none_ | long
    · rw [e.slices_nil none_]; rfl
    · congr 1
      refine funext fun i => funext fun d => ?_
      rw [blk _ (by split <;> simp only [withC0_length]) long]
  unfold DerEntry.bytesIn DerEntry.bytesBy
  dsimp only
  split
  next kind => rw [single (.inl kind)]
  next kind => rw [single (.inr kind)]
  next kind =>
    rcases ciphers (.inr (.inl kind)) with none_ | long
    · rw [e.slices_nil none_]; rfl
    · rw [blk key rfl long]
  all_goals simp only [des]

theorem bne_upset (d : List Byte) (ok : Bool) : (d != upset ok d) = !ok := by
  have := upset_eq ok d
  rw [bne, BEq.comm, this]

/-- The twins agree on the output of Table 4.5, unless something upset a unit the derivation runs in. -/
theorem State.deriveTwins_eq (s : State) (n : Nat) (e : DerEntry) (twin : Option (Fin 6)) (key : Masked) (a b : List Byte) (hk : e.ciphered key.clear) :
    s.deriveTwins n e (twin.map (·.val)) key a b =
      match twin with
      | some u => if s.derivesIn n e u then .error u.val else .ok (e.output key.clear a b)
      | none => .ok (e.output key.clear a b) := by
  have bytes := fun (p : Path) hp => e.bytesIn_eq (p := p) hp key.clear a b hk
  have run := fun ok => s.twinRun_eq key ok (fun p k => e.bytesIn p k a b) _ bytes
  unfold State.deriveTwins State.derivesIn DerEntry.output
  dsimp only
  rw [bne_upset, bytes _ (s.workPath_sound false), bytes _ (s.workPath_sound true), bne_upset]
  by_cases hash : e.kind = 3
  · rw [if_pos hash]
    rcases twin with - | t
    · simp
    · by_cases five : t.val = 5 <;> by_cases four : t.val = 4 <;> simp_all
  · rw [if_neg hash]
    simp only [run]
    generalize e.blocks = blocks
    rcases twin with - | t
    · rcases blocks with - | blocks <;> rcases s.freeLane n with - | l <;> simp
    · by_cases five : t.val = 5
      · simp [five]
      · rcases blocks with - | blocks <;> rcases s.freeLane n with - | l <;> simp [hash, five]
        simp only [eq_comm (a := l)]
        split
        next same => rw [same]
        next => rfl

/-! ## What the work of a derivation leaves -/

theorem State.leastWork_lt {l : Nat} {ok : Nat → Bool} (h : s.leastWork n ok = some l) : l < 4 := by
  have step : ∀ (ls : List Nat) (b : Option Nat), (∀ m ∈ ls, m < 4) → (∀ m, b = some m → m < 4) → ∀ l,
      ls.foldl (fun best l => if ok l then
        match best with
        | none => some l
        | some b => if (s.lane n l).work < (s.lane n b).work then some l else best
        else best) b = some l → l < 4 := by
    intro ls
    induction ls with
    | nil => exact fun b _ hb => hb
    | cons m ls ih =>
      intro b hm hb
      refine ih _ (fun m' h => hm m' (List.mem_cons_of_mem _ h)) fun m' h => ?_
      have here := hm m List.mem_cons_self
      dsimp only at h
      repeat' split at h
      all_goals first | exact hb _ h | (cases h; exact here)
  exact step _ none (fun m h => List.mem_range.1 h) (fun _ h => nomatch h) l h

/-- The work of a derivation whose twins differ: its counters and draws. -/
theorem State.countDerive_faulted (s : State) (c : Ctx) (e : DerEntry) :
    keeps [R.CC_DUMMY_CNT c.cc, R.CC_HASH_BLOCKS c.cc] s (s.countDerive c.cc e false) ∧
      s.countDerive c.cc e false = { s with
        regs := (s.countDerive c.cc e false).regs, ci := { s.ci with rounds := (s.countDerive c.cc e false).ci.rounds } } := by
  have hashed : ∀ f : Field, (R.CC_HASH_BLOCKS c.cc).key ≠ f.key → (s.count (R.CC_HASH_BLOCKS c.cc) e.hashBlocks).get f = s.get f := fun f hf =>
    State.get_count_ne _ _ _ _ hf
  unfold State.countDerive
  dsimp only
  split <;> split <;> refine ⟨fun f hf => ?_, rfl⟩
  · exact hashed f (hf (R.CC_HASH_BLOCKS c.cc) (by simp))
  · rfl
  · exact hashed f (hf (R.CC_HASH_BLOCKS c.cc) (by simp))
  · rfl
  · exact (State.get_count_ne _ (R.CC_DUMMY_CNT c.cc) f _ (hf _ (by simp))).trans (hashed f (hf (R.CC_HASH_BLOCKS c.cc) (by simp)))
  · exact State.get_count_ne _ (R.CC_DUMMY_CNT c.cc) f _ (hf _ (by simp))

/-- The work of a derivation whose twins agree: its counters and draws, and what a lane's seed has served. -/
theorem State.countDerive_done (s : State) (c : Ctx) (e : DerEntry) : s.countDerive c.cc e = { s with
    regs := (s.countDerive c.cc e).regs
    ci := { s.ci with lanes := (s.countDerive c.cc e).ci.lanes, rounds := (s.countDerive c.cc e).ci.rounds } } := by
  unfold State.countDerive
  dsimp only
  split <;> split <;> rfl

/-- A state apart from what a reseed writes: registers, Agate, the watch of the takeover conditions, the clusters' units, their random queues and what
an interrupt sends. -/
def State.offReseed (s : State) : State := { s.offService with ci := {}, fl := {}, out := [], hq := {} }

theorem State.settleCluster_offReseed (s : State) (n : Nat) : (s.settleCluster n).offReseed = s.offReseed := by
  unfold State.offReseed
  rw [s.settleCluster_offService n]

theorem State.settleUnit_offReseed (s : State) (n u : Nat) : (s.settleUnit n u).offReseed = s.offReseed := by
  unfold State.settleUnit
  dsimp only
  rw [State.settleCluster_offReseed, State.updSvc_only]
  rfl

theorem State.settleSeeds_offReseed (s : State) (n : Nat) : (s.settleSeeds n).offReseed = s.offReseed := by
  unfold State.settleSeeds
  refine foldl_keeps (fun v : State => v.offReseed = s.offReseed) _ ?_ _ s rfl
  intro v l h
  rw [← h]
  unfold State.settleSeed
  dsimp only
  split
  · rfl
  · split
    · rw [State.reseed_eq, State.settleUnit_offReseed]; rfl
    · rw [(State.raise_onlyFields _ _ _).2.2]; rfl

/-! ## DERIVE -/

/-- What a DERIVE does with its value. -/
abbrev Putter := State → Nat → Nat → Context → KeySlot → DerEntry → List Byte → Result

/-- A derivation that has its key and its units. -/
def deriveRun (s : State) (c : Ctx) (w : Insn) (twin : Option (Fin 6)) (put : Putter) (x : Context) (e : DerEntry) (y : KeySlot) : Result :=
  let slots := 4 + 2 * e.template.length
  match s.deriveTwins c.cc e (twin.map (·.val)) (s.wires c.cc y) (x.vr w.a) (x.vr w.b) with
  | .error u => .next (((if u = 5 then s else s.countDerive c.cc e false).countIssue (ctxKey c) slots).twinFault c.cc u (some (ctxKey c)))
  | .ok v => put ((s.countDerive c.cc e).settleSeeds c.cc) (ctxKey c) slots x y e v

/-- A DERIVE under the key of its slot. -/
def deriveUnder (s : State) (c : Ctx) (w : Insn) (twin : Option (Fin 6)) (put : Putter) (x : Context) (e : DerEntry) (y : KeySlot) : Result :=
  let slots := 4 + 2 * e.template.length
  if !e.fits y.key then .next (s.failAt (ctxKey c) slots stKeyUsageDenied y.field)
  else match s.deriveBlocked c.cc e with
    | some u => .next (s.noUnit (ctxKey c) slots u)
    | none => deriveRun s c w twin put x e y

/-- A DERIVE instruction's body, under its entry. -/
def deriveBody (s : State) (c : Ctx) (op : Nat) (w : Insn) (twin : Option (Fin 6)) (put : Putter) (e : DerEntry) (x : Context) : Result :=
  if e.kind = 0 ∨ (decide (op = 0) == decide (e.kind = 7)) then .next (s.failAt (ctxKey c) 1 stAborted 4)
  else s.withSlot (ctxKey c) (4 + 2 * e.template.length) x w.ka (deriveUnder s c w twin put x e)

theorem derive_body (s : State) (c : Ctx) (op : Nat) (w : Insn) (twin : Option (Fin 6)) (put : Putter) :
    s.derive c op w twin put = s.issue c 0x6 op w fun x => deriveBody s c op w twin put (s.derEntry x (immBits w 0 7)) x := rfl

/-- The key DERIVE 0x0 makes. -/
def derived (e : DerEntry) (y : KeySlot) (m : List Byte) : Key :=
  let key : Key := { ktype := .secret, cls := e.outClass, level := 6, usage := e.usage, attr := 36 + 128 * bitsOf y.key.attr 7 7,
                     epoch := y.key.epoch, material := m }
  { key with kcv := key.checkValue }

/-- A derived key placed. -/
def putKey (w : Insn) : Putter := fun s k slots x y e v =>
  s.placeEphemeral k slots x w.kd { key := derived e y v, mask := e.usage, field := y.field, stamp := y.stamp } x

/-- A derived value written. -/
def putData (w : Insn) : Putter := fun s k slots x _ _ v => .next (s.retire k slots (x.setV w.d v))

theorem deriveKey_exec (twin : Option (Fin 6)) : exec (.deriveKey c w twin) s = s.derive c 0 w twin (putKey w) := rfl
theorem deriveData_exec (twin : Option (Fin 6)) : exec (.deriveData c w twin) s = s.derive c 1 w twin (putData w) := rfl

section
variable {op : Nat} {twin : Option (Fin 6)} {put : Putter}

theorem deriveBody_other (h : e.kind = 0 ∨ (op = 0 ∧ e.kind = 7) ∨ (op = 1 ∧ e.kind ≠ 7)) :
    deriveBody s c op w twin put e x = .next (s.failAt (ctxKey c) 1 stAborted 4) := by
  refine if_pos ?_
  rcases h with h | ⟨h, k⟩ | ⟨h, k⟩
  · exact .inl h
  · exact .inr (by simp [h, k])
  · exact .inr (by simp [h, k])

theorem deriveBody_own (filled : e.kind ≠ 0) (own : (op = 0 ∧ e.kind ≠ 7) ∨ (op = 1 ∧ e.kind = 7)) :
    deriveBody s c op w twin put e x = s.withSlot (ctxKey c) (4 + 2 * e.template.length) x w.ka (deriveUnder s c w twin put x e) := by
  refine if_neg ?_
  rcases own with ⟨h, k⟩ | ⟨h, k⟩ <;> simp [filled, h, k]

theorem deriveUnder_unfit (unfit : e.fits y.key = false) :
    deriveUnder s c w twin put x e y = .next (s.failAt (ctxKey c) (4 + 2 * e.template.length) stKeyUsageDenied y.field) :=
  if_pos (by rw [unfit]; rfl)

theorem deriveUnder_down {u : Nat} (fits : e.fits y.key = true) (down : s.deriveBlocked c.cc e = some u) :
    deriveUnder s c w twin put x e y =
      .next (s.failAt (ctxKey c) (4 + 2 * e.template.length) stFaultDetected (unitDetail c.cc (Sparse.get u s.ci.lastOut c.cc))) := by
  unfold deriveUnder
  dsimp only
  rw [if_neg (by rw [fits]; decide), down, ← State.noUnit_detail]

theorem deriveUnder_runs (fits : e.fits y.key = true) (up : s.deriveBlocked c.cc e = none) :
    deriveUnder s c w twin put x e y = deriveRun s c w twin put x e y := by
  unfold deriveUnder
  dsimp only
  rw [if_neg (by rw [fits]; decide), up]

end

theorem State.deriveTwins_unit {n u : Nat} {twin : Option Nat} {key : Masked} {a b : List Byte} (h : s.deriveTwins n e twin key a b = .error u) : u < 6 := by
  unfold State.deriveTwins at h
  dsimp only at h
  split at h
  · cases h; decide
  · split at h
    · split at h
      · cases h; decide
      · cases h
    · split at h
      · cases h
      · cases h
      next lane _ =>
        split at h
        · cases h
        · cases h
          exact Nat.lt_of_lt_of_le (State.leastWork_lt lane) (by decide)

/-- What is in the contexts, the key store and the partitions is all that placing a key looks at. -/
theorem State.ephUsed_of_sq (h : t.sq = s.sq) (k p : Nat) (z : Context) : (t.setCtx k z).ephUsed p = (s.setCtx k z).ephUsed p := by
  simp only [State.ephUsed, State.running, State.setCtx, h]

theorem State.entriesUsed_of_sq (h : t.sq = s.sq) (g : t.ge = s.ge) (k n : Nat) (z : Context) : (t.setCtx k z).entriesUsed n = (s.setCtx k z).entriesUsed n := by
  simp only [State.entriesUsed, State.cacheOf, State.ephIn, State.heldIn, State.busyIn, State.running, State.setCtx, h, g]

theorem State.sq_of_offReseed (h : t.offReseed = s.offReseed) : t.sq = s.sq := by
  have := congrArg (fun w : State => w.sq) h
  exact this
theorem State.ge_of_offReseed (h : t.offReseed = s.offReseed) : t.ge = s.ge := by
  have := congrArg (fun w : State => w.ge) h
  exact this
theorem State.parts_of_offReseed (h : t.offReseed = s.offReseed) : t.parts = s.parts := by
  have := congrArg (fun w : State => w.parts) h
  exact this

/-- What the work of a derivation leaves to the key or value it gives. -/
theorem State.derived_rest (s : State) (c : Ctx) (e : DerEntry) : ((s.countDerive c.cc e).settleSeeds c.cc).offReseed = s.offReseed := by
  rw [State.settleSeeds_offReseed, s.countDerive_done c e]
  rfl

theorem DerEntry.ciphered_of_carries (fits : e.fits y.key = true) (wires : carries s n y) (h : e.blocks = 0 ∨ y.key.cls = 1 ∨ y.key.cls = 2) :
    e.ciphered y.key.material := by
  have cls : y.key.cls = e.parentClass := by
    simp only [DerEntry.fits, Bool.and_eq_true, beq_iff_eq] at fits
    exact fits.1.1.1
  rcases h with zero | des | aes
  · exact .inr (.inl zero)
  · exact .inr (.inr (.inl (by rw [DerEntry.cipher, if_pos (cls ▸ des)])))
  · exact .inr (.inr (.inr (wires.2 aes)))

/-- The state a derivation whose twins differ has counted its work in. -/
theorem State.derive_counted (s : State) (c : Ctx) (e : DerEntry) (u slots : Nat) :
    let v := (if u = 5 then s else s.countDerive c.cc e false).countIssue (ctxKey c) slots
    keeps [R.SEQ_ISSUE_CNT c.cc, R.SEQ_RETIRE_CNT c.cc, R.CC_DUMMY_CNT c.cc, R.CC_HASH_BLOCKS c.cc] s v ∧
      v = { s with regs := v.regs, ci := { s.ci with rounds := v.ci.rounds } } := by
  intro v
  obtain ⟨kept, only⟩ := s.countDerive_faulted c e
  have issue := fun u : State => u.countIssue_keeps c slots
  by_cases five : u = 5
  · have at_ : v = s.countIssue (ctxKey c) slots := by simp only [v, if_pos five]
    rw [at_]
    exact ⟨keeps_mono (issue s).1 (by simp), rfl⟩
  · have at_ : v = (s.countDerive c.cc e false).countIssue (ctxKey c) slots := by simp only [v, if_neg five]
    rw [at_]
    refine ⟨keeps_mono (keeps_trans kept (issue _).1) (by simp), ?_⟩
    rw [(issue _).2]
    generalize s.countDerive c.cc e false = v at only
    generalize (v.countIssue (ctxKey c) slots).regs = r
    rw [only]

theorem State.placeEphemeral_over {k slots kd : Nat} {x' : Context}
    (quota : (s.part x.part).ephQuota < (s.setCtx k (x.setSlot kd none)).ephUsed x.part + keyEntries y.key.material.length) :
    s.placeEphemeral k slots x kd y x' = .next ((s.raise pgGEO 4).failAt k slots stQuotaExceeded 2) := if_pos quota

section
variable {cls op slots : Nat} {run : Context → Result} {m : List Byte} (rest : u.offReseed = s.offReseed) (h : s.readyCtx (ctxKey c) cls op w = some x)
include rest h

/-- A derived key placed, after the work that gave it. -/
theorem State.issue_putKey (hr : run x = putKey w u (ctxKey c) slots x y e m)
    (quota : (s.setCtx (ctxKey c) (x.setSlot w.kd none)).ephUsed x.part + keyEntries m.length ≤ (s.part x.part).ephQuota)
    (room : (s.setCtx (ctxKey c) (x.setSlot w.kd none)).entriesUsed c.cc + keyEntries m.length ≤ 4096) :
    ∃ t, ∃ held : Masked, s.issue c cls op w run = .next t ∧ held.clear = m ∧
      t.ctx (ctxKey c) = { x with
        keys := x.keys.set w.kd (some { key := derived e y m, held, mask := e.usage, field := y.field, stamp := y.stamp })
        pc := (x.pc + 1) % 256, retired := x.retired + 1 } ∧
      (∀ j, j ≠ ctxKey c → t.ctx j = s.ctx j) ∧
      t = { u with regs := t.regs, sq := { u.sq with ctxs := t.sq.ctxs }, ge := { u.ge with masks := s.ge.masks + 1 } } := by
  have sq := State.sq_of_offReseed rest
  have ge := State.ge_of_offReseed rest
  have placed := State.placeEphemeral_fits (s := u) (k := ctxKey c) (slots := slots) (x := x) (kd := w.kd) (x' := x)
    (y := { key := derived e y m, mask := e.usage, field := y.field, stamp := y.stamp })
    (by rw [State.ephUsed_of_sq sq, State.part, State.parts_of_offReseed rest]; exact quota)
    (by rw [State.entriesUsed_of_sq sq ge, clusterOf_ctxKey]; exact room)
  obtain ⟨held, clear, own, others, -, only⟩ := State.ephemeralPlaced_spec (s := u) (k := ctxKey c) (slots := slots) (x := x) (kd := w.kd) (x' := x)
    (y := { key := derived e y m, mask := e.usage, field := y.field, stamp := y.stamp })
  refine ⟨_, held, s.issue_ready h (hr.trans placed) (.inr ?_), clear, own, fun j hj => ?_, ?_⟩
  · rw [own]; exact (s.readyCtx_runs h : x.cmd.isSome = true)
  · rw [others j hj, State.ctx, sq, State.ctx]
  · rw [← ge]; exact only

theorem State.issue_putKey_over (hr : run x = putKey w u (ctxKey c) slots x y e m)
    (quota : (s.part x.part).ephQuota < (s.setCtx (ctxKey c) (x.setSlot w.kd none)).ephUsed x.part + keyEntries m.length) :
    s.issue c cls op w run = .next (whenSettled s (ctxKey c) ((u.raise pgGEO 4).failAt (ctxKey c) slots stQuotaExceeded 2)) := by
  have sq := State.sq_of_offReseed rest
  refine State.issue_failsOn h (hr.trans (State.placeEphemeral_over ?_)) ((endKeeps_ctx (endKeeps_raise _ _ _) _).trans ?_)
  · rw [State.ephUsed_of_sq sq, State.part, State.parts_of_offReseed rest]; exact quota
  · rw [State.ctx, sq, State.ctx]

omit rest in
theorem State.issue_putData (hr : run x = putData w u (ctxKey c) slots x y e m) :
    ∃ t, s.issue c cls op w run = .next t ∧ retires (ctxKey c) slots (x.setV w.d m) u t :=
  ⟨_, s.issue_ready h hr (.inr (by rw [State.retire_ctx]; exact (s.readyCtx_runs h : x.cmd.isSome = true))), u.retire_retires _ _ _⟩

end

/-- Settles O30: DERIVE by its entry, key and units, the twins of the derivation, and the key or value placed; RAND by the bytes queued. -/
theorem deriveAndRandWriteTheirValues : Obligations.DeriveAndRandWriteTheirValues := by
  refine ⟨?_, ?_⟩
  · intro i op c w twin x s k e slots s0 hi h
    obtain ⟨put, key, data, acts⟩ : ∃ put : Putter, (op = 0 → put = putKey w) ∧ (op = 1 → put = putData w) ∧ exec i s = s.derive c op w twin put := by
      rcases hi with ⟨rfl, rfl⟩ | ⟨rfl, rfl⟩
      · exact ⟨putKey w, fun _ => rfl, (by decide : ¬ 0 = 1).elim, deriveKey_exec twin⟩
      · exact ⟨putData w, (by decide : ¬ 1 = 0).elim, fun _ => rfl, deriveData_exec twin⟩
    have under (filled : e.kind ≠ 0) (own : (op = 0 ∧ e.kind ≠ 7) ∨ (op = 1 ∧ e.kind = 7)) {y : KeySlot} (slot : x.slot w.ka = some y) :
        deriveBody s c op w twin put (s.derEntry x (immBits w 0 7)) x = deriveUnder s c w twin put x e y :=
      (deriveBody_own filled own).trans (State.withSlot_loaded slot)
    rw [acts, derive_body]
    refine ⟨fun other => State.issue_fails h (deriveBody_other other), fun filled own => ⟨fun empty => ?_, fun y slot unfit => ?_, fun y slot fits =>
      ⟨fun u down => ?_, fun up wires ciphers => ?_, fun up u bad => ?_, fun up m good => ?_⟩⟩⟩
    · exact State.issue_withSlot_empty h (deriveBody_own filled own) empty
    · exact State.issue_fails h ((under filled own slot).trans (deriveUnder_unfit unfit))
    · exact State.issue_fails h ((under filled own slot).trans (deriveUnder_down fits down))
    · rw [State.deriveTwins_eq _ _ _ _ _ _ _ (wires.1.symm ▸ DerEntry.ciphered_of_carries fits wires ciphers), wires.1]
        <;> cases twin <;> rfl
    · obtain ⟨kept, only⟩ := s.derive_counted c e u slots
      refine ⟨_, kept, only, State.issue_twinFault h (State.deriveTwins_unit bad) ?_ ?_⟩
      · rw [under filled own slot, deriveUnder_runs fits up, deriveRun, bad]
      · rw [only]; rfl
    · refine ⟨_, s.countDerive_done c e, ?_⟩
      intro u
      have rest := s.derived_rest c e
      have body : deriveBody s c op w twin put (s.derEntry x (immBits w 0 7)) x = put u k slots x y e m := by
        rw [under filled own slot, deriveUnder_runs fits up, deriveRun, good]
      refine ⟨fun zero quota room => ?_, fun zero quota => ?_, fun one => ?_⟩
      · exact State.issue_putKey rest h (body.trans (by rw [key zero])) quota room
      · exact State.issue_putKey_over rest h (body.trans (by rw [key zero])) quota
      · exact State.issue_putData (e := e) (y := y) h (body.trans (by rw [data one]))
  · intro c w x s k b h
    change ∃ t, s.issue c 0xA 0x0 w _ = _ ∧ _
    by_cases short : s.queueFill c.cc < b
    · refine ⟨_, State.issue_setCtx (u := s) h (if_pos short) rfl, fun j hj => State.ctx_setCtx_ne _ _ _ _ (Ne.symm hj), ?_⟩
      rw [if_pos short]
      exact ⟨State.ctx_setCtx_same .., rfl⟩
    · have cut : (s.queue c.cc).take (min b 16) = ((s.queue c.cc).take b).take 16 := by rw [List.take_take, Nat.min_comm]
      have go : exec (.rand c w) s = .next ((s.takeQueue c.cc b).2.retire k 1 (x.setV w.d ((s.takeQueue c.cc b).1.take 16))) :=
        s.issue_ready h (if_neg short) (.inr (by rw [State.retire_ctx]; exact (s.readyCtx_runs h : x.cmd.isSome = true)))
      obtain ⟨own, -, -, others, -, only⟩ := (s.takeQueue c.cc b).2.retire_retires k 1 (x.setV w.d ((s.takeQueue c.cc b).1.take 16))
      refine ⟨_, go, others, ?_⟩
      rw [if_neg short, cut]
      generalize (s.takeQueue c.cc b).2.retire k 1 (x.setV w.d ((s.takeQueue c.cc b).1.take 16)) = t at own only
      have fl : t.fl = (s.setQueue c.cc ((s.queue c.cc).drop b)).fl := by rw [only]; rfl
      refine ⟨own, ?_, fun n hn => ?_, ?_⟩
      · rw [State.queue, fl]; exact State.queue_setQueue_same ..
      · rw [State.queue, fl]; exact Sparse.get_set_ne _ _ _ _ (Ne.symm hn)
      · rw [fl]; exact only

end Sys2Proof.Machine
end

section
/-! SUPPORT. How a command ends: DONE, what its end leaves of the contexts, and its completion (R24, R45, R47, R63, R79, R80). -/
namespace Sys2Proof.Machine

variable {s t u : State} {c : Ctx} {w : Insn} {x : Context}

/-! ## DONE (R79) -/

theorem State.readyCtx_done {k : Nat} (h : s.readyCtx k 0xB 0x0 w = some x) : s.settled k = true := by
  obtain ⟨-, -, can, -⟩ := s.readyCtx_spec h
  simp only [State.canIssue, Bool.and_eq_true] at can
  simpa using can.2

/-- DONE's body. -/
def doneBody (s : State) (c : Ctx) (w : Insn) (ok : Bool) (x : Context) : Result :=
  if doneAllowed w.imm.toNat then
    let u := (s.countIssue (ctxKey c) 2).setCtx (ctxKey c) { x with retired := x.retired + 1 }
    match u.dueEnding (u.ctx (ctxKey c)) with
    | some e => .next (u.endCommand (ctxKey c) e.1 e.2 0 ok)
    | none => .next (u.endCommand (ctxKey c) (immBits w 0 8) (immBits w 16 16) (immBits w 8 5) ok)
  else .refused .reservedEncoding

theorem execDone_body (ok : Bool) : exec (.done c w ok) s = s.issue c 0xB 0x0 w (doneBody s c w ok) := rfl

/-- Past the budget, that ending comes first. -/
theorem doneBody_ends (ok : Bool) (allowed : doneAllowed w.imm.toNat = true) (orphan : s.orphanField x = none) :
    let u := (s.countIssue (ctxKey c) 2).setCtx (ctxKey c) { x with retired := x.retired + 1 }
    doneBody s c w ok x = .next (if s.budget ≤ x.retired + 1 then u.endCommand (ctxKey c) stAborted 4 0 ok
      else u.endCommand (ctxKey c) (immBits w 0 8) (immBits w 16 16) (immBits w 8 5) ok) := by
  intro u
  have due : u.dueEnding (u.ctx (ctxKey c)) = if s.budget ≤ x.retired + 1 then some (stAborted, 4) else none := by
    have own : u.ctx (ctxKey c) = { x with retired := x.retired + 1 } := State.ctx_setCtx_same ..
    have free : u.orphanField { x with retired := x.retired + 1 } = none := orphan
    have budget : u.budget = s.budget := by
      have kept := (s.countIssue_keeps c 2).1 R.SEQ0_BUDGET (by
        have : (R.SEQ_ISSUE_CNT c.cc).key ≠ R.SEQ0_BUDGET.key ∧ (R.SEQ_RETIRE_CNT c.cc).key ≠ R.SEQ0_BUDGET.key := by
          generalize c.cc = n; revert n; decide
        simpa using this)
      exact congrArg (max 256) kept
    rw [own, State.dueEnding, free, budget]
  rw [doneBody, if_pos allowed]
  dsimp only
  rw [show (s.countIssue (ctxKey c) 2).setCtx (ctxKey c) { x with retired := x.retired + 1 } = u from rfl, due]
  by_cases over_ : s.budget ≤ x.retired + 1
  · rw [if_pos over_, if_pos over_]
  · rw [if_neg over_, if_neg over_]

/-! ## The contexts -/

/-- Taking a moved operation changes no context but in the lane its chained stream stays on. -/
theorem State.seatMoved_ctx (s : State) (n fuel j : Nat) : (s.seatMoved n fuel).ctx j = { s.ctx j with home := ((s.seatMoved n fuel).ctx j).home } := by
  induction fuel generalizing s with
  | zero => rfl
  | succ fuel ih =>
    unfold State.seatMoved
    dsimp only
    split
    · rfl
    · split
      · rfl
      next l _ =>
        rw [ih]
        split
        next k _ =>
          split
          · by_cases same : k = j
            · subst same; rw [State.ctx_updCtx_same]; rfl
            · rw [State.ctx_updCtx_ne _ _ _ _ same]; rfl
          · rfl
        · rfl

/-- The first moved operation of a cluster seated in a lane. -/
def State.seated (s : State) (n l : Nat) (o : UnitOp) (os : List UnitOp) : State :=
  let t := (s.setMoved n os).place n l o
  match o.owner with
  | some k => if o.chained then t.updCtx k fun x => { x with home := some l } else t
  | none => t

theorem State.seated_movedOps (s : State) (n l : Nat) (o : UnitOp) (os : List UnitOp) : (s.seated n l o os).movedOps n = os := by
  have moved : ((s.setMoved n os).place n l o).movedOps n = os := by
    simp only [State.movedOps, State.place, State.updLane, State.setMoved, Sparse.get_set_same]
  unfold State.seated
  dsimp only
  split
  · split
    · exact moved
    · exact moved
  · exact moved

theorem State.seated_ctx (s : State) {n l j : Nat} {o : UnitOp} (os : List UnitOp) (h : o.owner ≠ some j) : (s.seated n l o os).ctx j = s.ctx j := by
  unfold State.seated
  dsimp only
  split
  next k own =>
    split
    · exact State.ctx_updCtx_ne _ _ _ _ fun same => h (same ▸ own)
    · rfl
  · rfl

/-- Only an operation's owner may find its lane changed. -/
theorem State.seatMoved_ctx_other (s : State) (n fuel j : Nat) (h : ∀ o ∈ s.movedOps n, o.owner ≠ some j) : (s.seatMoved n fuel).ctx j = s.ctx j := by
  induction fuel generalizing s with
  | zero => rfl
  | succ fuel ih =>
    unfold State.seatMoved
    dsimp only
    split
    · rfl
    next o os ops =>
      rw [ops] at h
      have mine : o.owner ≠ some j := h o List.mem_cons_self
      split
      · rfl
      next l _ =>
        refine (ih (s.seated n l o os) ?_).trans (s.seated_ctx os mine)
        rw [State.seated_movedOps]
        exact fun p hp => h p (List.mem_cons_of_mem _ hp)

theorem State.dropOps_movedOps (s : State) (k n : Nat) : (s.dropOps k).movedOps n = (s.movedOps n).filter fun o => o.owner ≠ some k :=
  Sparse.get_mapVals [] (fun (_ : Nat) (os : List UnitOp) => os.filter fun o => decide (o.owner ≠ some k)) s.ci.moved n rfl

@[simp] theorem State.raise_ci (s : State) (p i : Nat) : (s.raise p i).ci = s.ci := by rw [(s.raise_onlyFields p i).2.2]

@[simp] theorem State.violation_ci (s : State) (m : Nat) (kind : AccessKind) (a tag : Nat) : (s.violation m kind a tag).ci = s.ci := by
  cases kind <;> simp [State.violation]

@[simp] theorem State.dmaWrite_ci (s : State) (m tag a : Nat) (bs : List Byte) : (s.dmaWrite m tag a bs).1.ci = s.ci := by
  unfold State.dmaWrite
  refine foldl_keeps (fun r : State × Bool => r.1.ci = s.ci) _ (fun r p hr => ?_) _ _ rfl
  split
  · exact hr
  · exact (State.violation_ci ..).trans hr

theorem State.zeroOutput_ci (s : State) (c : Cmd) (st : Nat) (wrote : Bool) : (s.zeroOutput c st wrote).ci = s.ci := by
  unfold State.zeroOutput
  repeat' split
  · rfl
  · exact State.dmaWrite_ci ..
  all_goals rfl

theorem State.countEnding_ci (s : State) (k : Nat) (x : Context) (c : Cmd) (st det : Nat) : (s.countEnding k x c st det).ci = s.ci := by
  unfold State.countEnding
  dsimp only
  repeat' split
  all_goals simp

/-- What a command's end leaves of the contexts. -/
theorem State.endCommand_ctx {k st det len : Nat} {ok : Option Bool} (run : (s.ctx k).cmd ≠ none) :
    (s.endCommand k st det len ok).ctx k = {} ∧
    (∀ j, j ≠ k → (s.endCommand k st det len ok).ctx j = { s.ctx j with home := ((s.endCommand k st det len ok).ctx j).home }) ∧
    (s.movedOps (clusterOf k) = [] → ∀ j, j ≠ k → (s.endCommand k st det len ok).ctx j = s.ctx j) := by
  obtain ⟨c, hc⟩ := Option.ne_none_iff_exists'.1 run
  have at_ : ∃ u : State, u.tasks = s.tasks ∧ u.movedOps (clusterOf k) = (s.movedOps (clusterOf k)).filter (fun o => o.owner ≠ some k) ∧
      ∀ j, (s.endCommand k st det len ok).ctx j = ((u.setCtx k {}).seatMoved (clusterOf k) 4).ctx j := by
    refine ⟨((if refusing st then s.zeroOutput c st (s.ctx k).wrote else s).dropOps k).countEnding k (s.ctx k) c st det, ?_, ?_, fun j => ?_⟩
    · split <;> simp
    · rw [State.movedOps, State.countEnding_ci, ← State.movedOps, State.dropOps_movedOps]
      split
      · rw [State.movedOps, State.zeroOutput_ci]; rfl
      · rfl
    · unfold State.endCommand
      simp only [hc]
      rw [State.touch_ctx, State.settleSeq_ctx, State.settleStale_ctx, State.finish_ctx]
  obtain ⟨u, tasks, moved, ctx⟩ := at_
  have other : ∀ j, j ≠ k → (u.setCtx k {}).ctx j = s.ctx j := fun j hj =>
    (State.ctx_setCtx_ne _ _ _ _ (Ne.symm hj)).trans (State.ctx_of_tasks tasks j)
  refine ⟨?_, fun j hj => ?_, fun none_ j hj => ?_⟩
  · rw [ctx, State.seatMoved_ctx_other, State.ctx_setCtx_same]
    intro o ho
    have ho : o ∈ u.movedOps (clusterOf k) := ho
    rw [moved] at ho
    simpa using (List.mem_filter.1 ho).2
  · rw [ctx, State.seatMoved_ctx, other j hj]
  · rw [ctx, State.seatMoved_ctx_other, other j hj]
    intro o ho
    have ho : o ∈ u.movedOps (clusterOf k) := ho
    rw [moved, none_] at ho
    cases ho

/-! ## What goes out -/

@[simp] theorem State.severity_out (s : State) (n : Nat) : (s.severity n).out = s.out := by rw [(s.severity_spec n).2]
@[simp] theorem State.settleTake_out (s : State) : s.settleTake.out = s.out := by rw [s.settleTake_spec]

/-- Only MSI-X messages went out. -/
structure Sends (s t : State) : Prop where
  msix : sentMsix s t

namespace Sends

theorem refl : Sends s s := ⟨sentMsix_refl s⟩
theorem trans (h : Sends s t) (k : Sends t u) : Sends s u := ⟨sentMsix_trans h.msix k.msix⟩
theorem update (h : Sends s t) (out : u.out = t.out) : Sends s u := h.trans ⟨sentMsix_of_out out⟩
theorem updQp {p q : Nat} {f : QueuePair → QueuePair} (h : Sends s t) : Sends s (t.updQp p q f) := h.update rfl
theorem raise {p i : Nat} (h : Sends s t) : Sends s (t.raise p i) := h.trans ⟨(t.raise_onlyFields p i).2.1⟩
theorem severity {n : Nat} (h : Sends s t) : Sends s (t.severity n) := h.update (t.severity_out n)
theorem ite {p : Prop} [Decidable p] (h : Sends s t) (k : Sends s u) : Sends s (if p then t else u) := by split <;> assumption

theorem coalesce {p q : Nat} (h : Sends s t) : Sends s (t.coalesce p q) := by
  unfold State.coalesce
  dsimp only
  split
  · split
    · exact (h.update rfl).trans ⟨(State.msixSend_onlyFields _ _ _).2.1⟩
    · exact h.update rfl
  · exact h.update rfl

theorem sampleLatency {p ns : Nat} (h : Sends s t) : Sends s (t.sampleLatency p ns) := by
  have sample : Sends s (t.sample 0 p (logBin ns) ns) := by
    unfold State.sample
    exact .ite h (.ite (.raise (h.update rfl)) (h.update rfl))
  unfold State.sampleLatency
  exact .ite sample.severity sample

theorem settleQp {p q : Nat} (h : Sends s t) : Sends s (t.settleQp p q) := by
  unfold State.settleQp
  exact .ite (h.update rfl) h

theorem settleStale (h : Sends s t) : Sends s t.settleStale := by
  unfold State.settleStale
  exact .ite h (.raise (h.update rfl))

theorem settleSeq {n : Nat} (h : Sends s t) : Sends s (t.settleSeq n) := .ite h.raise h

theorem settleAbort {p : Nat} (h : Sends s t) : Sends s (t.settleAbort p) := .ite (h.update rfl) h

theorem abortDone {c : Cmd} {e : Ending} (h : Sends s t) : Sends s (t.abortDone c e) := .settleAbort (.ite (h.update rfl) h)

end Sends

/-! ## What precedes the completion -/

/-- Between two states only MSI-X messages went out, and the queue pairs, the partitions and Quartz stand. -/
structure Quiet (s t : State) : Prop where
  qps : t.hq.qps = s.hq.qps
  parts : t.parts = s.parts
  quartz : t.quartz = s.quartz
  sent : Sends s t

namespace Quiet

theorem refl : Quiet s s := ⟨rfl, rfl, rfl, .refl⟩

theorem trans (h : Quiet s t) (k : Quiet t u) : Quiet s u :=
  ⟨k.qps.trans h.qps, k.parts.trans h.parts, k.quartz.trans h.quartz, h.sent.trans k.sent⟩

theorem update (h : Quiet s t) (qps : u.hq.qps = t.hq.qps) (parts : u.parts = t.parts) (quartz : u.quartz = t.quartz) (out : u.out = t.out) : Quiet s u :=
  h.trans ⟨qps, parts, quartz, Sends.refl.update out⟩

theorem raise {p i : Nat} (h : Quiet s t) : Quiet s (t.raise p i) := by
  obtain ⟨-, sent, only⟩ := t.raise_onlyFields p i
  refine h.trans ⟨?_, ?_, ?_, ⟨sent⟩⟩ <;> rw [only]

theorem severity {n : Nat} (h : Quiet s t) : Quiet s (t.severity n) := by
  refine h.update ?_ ?_ ?_ (t.severity_out n) <;> rw [(t.severity_spec n).2]

theorem settleTake (h : Quiet s t) : Quiet s t.settleTake := by
  refine h.update ?_ ?_ ?_ t.settleTake_out <;> rw [t.settleTake_spec]

theorem ite {p : Prop} [Decidable p] (h : Quiet s t) (k : Quiet s u) : Quiet s (if p then t else u) := by split <;> assumption
theorem andIf {p : Prop} [Decidable p] (h : Quiet s t) (k : Quiet t u) : Quiet s (if p then u else t) := (h.trans k).ite h

theorem settlePkCluster {p : Nat} (h : Quiet s t) : Quiet s (t.settlePkCluster p) := by
  unfold State.settlePkCluster
  exact .settleTake (.update (.andIf h (.severity .refl)) rfl rfl rfl rfl)

theorem settlePk {p : Nat} (h : Quiet s t) : Quiet s (t.settlePk p) := by
  have frozen : Quiet s (t.settlePkFreeze p) := .settlePkCluster (.andIf h (.raise .refl))
  unfold State.settlePk State.settleCurve State.showCurves
  exact .ite frozen (frozen.update rfl rfl rfl rfl)

theorem dropOps {k : Nat} (h : Quiet s t) : Quiet s (t.dropOps k) := by
  have dropped : Quiet s (t.dropPk k) := by
    unfold State.dropPk
    refine foldl_keeps (Quiet s) _ ?_ _ _ ?_
    · exact fun u p hu => .settlePk (hu.update rfl rfl rfl rfl)
    · exact h.update rfl rfl rfl rfl
  exact dropped.update rfl rfl rfl rfl

/-- A status that refuses nothing is counted alone. -/
theorem countEnding {k st det : Nat} {x : Context} {c : Cmd} (h : Quiet s t) (goes : refusing st = false) : Quiet s (t.countEnding k x c st det) := by
  unfold State.countEnding
  simp only [goes]
  exact h.update rfl rfl rfl rfl

theorem seatMoved {n fuel : Nat} (h : Quiet s t) : Quiet s (t.seatMoved n fuel) := by
  induction fuel generalizing t with
  | zero => exact h
  | succ fuel ih =>
    unfold State.seatMoved
    dsimp only
    split
    · exact h
    · split
      · exact h
      · apply ih
        split
        · exact .ite (h.update rfl rfl rfl rfl) (h.update rfl rfl rfl rfl)
        · exact h.update rfl rfl rfl rfl

theorem qp (h : Quiet s t) (p q : Nat) : t.qp p q = s.qp p q := by rw [State.qp, h.qps]; rfl

theorem qpFunc (h : Quiet s t) (p q : Nat) : t.qpFunc p q = s.qpFunc p q := by
  simp only [State.qpFunc, State.namedFunc, h.qp, State.part, h.parts]

end Quiet

/-! ## The completion -/

/-- The completion of a command of an ACTIVE pair, where the host takes its write. -/
theorem State.writeCompletion_active {c : Cmd} {f : Func} (e : Ending) (active : (s.qp c.part c.qp).qstate = .active) (func : s.qpFunc c.part c.qp = some f) :
    Sends (s.emit (.completion f ((s.qp c.part c.qp).cqBase + 32 * (s.qp c.part c.qp).cqTail)
      (completionEntry c.desc (s.timed e) (s.qp c.part c.qp).phase (s.qp c.part c.qp).sqHead))) (s.writeCompletion (some true) c e) := by
  unfold State.writeCompletion
  dsimp only [State.writeOutcome]
  rw [func, active]
  dsimp only
  refine .settleQp (.ite (.coalesce ?_) ?_)
  all_goals
    refine .updQp ?_
    split
    · exact .sampleLatency (Sends.refl.update rfl)
    · exact Sends.refl.update rfl

/-- An ending under its command, without a delta to wait for. -/
theorem State.finish_active {c : Cmd} {f : Func} (e : Ending) (home : c.peer = none) (goes : refusing e.status = false)
    (active : (s.qp c.part c.qp).qstate = .active) (func : s.qpFunc c.part c.qp = some f) :
    Sends (s.emit (.completion f ((s.qp c.part c.qp).cqBase + 32 * (s.qp c.part c.qp).cqTail)
      (completionEntry c.desc (s.timed e) (s.qp c.part c.qp).phase (s.qp c.part c.qp).sqHead))) (s.finish (some true) c e none) := by
  have calm : ¬(e.status = stFaultDetected ∨ e.status = stRngFailed) := by
    rintro (h | h) <;> rw [h] at goes <;> cases goes
  have written := s.writeCompletion_active e active func
  show Sends _ (s.answer (some true) c e)
  rw [State.answer, home]
  dsimp only
  rw [State.complete, if_neg calm]
  exact .abortDone (.ite written (written.update rfl))

/-- The completion of a command of an ACTIVE pair goes out with the pair as it stood. -/
theorem State.endCommand_completion {k st det len : Nat} {c : Cmd} {f : Func} (run : (s.ctx k).cmd = some c) (home : c.peer = none)
    (delta : (s.ctx k).delta = none) (active : (s.qp c.part c.qp).qstate = .active) (func : s.qpFunc c.part c.qp = some f) (goes : refusing st = false) :
    ∃ u, Quiet s u ∧ Sends (u.emit (.completion f ((s.qp c.part c.qp).cqBase + 32 * (s.qp c.part c.qp).cqTail)
      (completionEntry c.desc
        { status := st, detail := det, resultLen := len, result := (s.ctx k).result, cluster := clusterOf k,
          serviceNs := s.quartz - c.fetched.getD (s.ctx k).started }
        (s.qp c.part c.qp).phase (s.qp c.part c.qp).sqHead))) (s.endCommand k st det len (some true)) := by
  have quiet : Quiet s ((((s.dropOps k).countEnding k (s.ctx k) c st det).setCtx k {}).seatMoved (clusterOf k) 4) :=
    .seatMoved (.update (.countEnding (.dropOps .refl) goes) rfl rfl rfl rfl)
  have ends : s.endCommand k st det len (some true) =
      (((((((s.dropOps k).countEnding k (s.ctx k) c st det).setCtx k {}).seatMoved (clusterOf k) 4).finish (some true) c
        { status := st, detail := det, resultLen := len, result := (s.ctx k).result, cluster := clusterOf k,
          since := some (c.fetched.getD (s.ctx k).started) } none).settleStale).settleSeq (clusterOf k)).touch (clusterOf k) := by
    unfold State.endCommand
    simp only [run, goes, delta]
    rfl
  rw [ends]
  generalize (((s.dropOps k).countEnding k (s.ctx k) c st det).setCtx k {}).seatMoved (clusterOf k) 4 = u at quiet
  refine ⟨u, quiet, .update (.settleSeq (.settleStale ?_)) rfl⟩
  have done := u.finish_active (c := c) (f := f) { status := st, detail := det, resultLen := len, result := (s.ctx k).result, cluster := clusterOf k, since := some (c.fetched.getD (s.ctx k).started) }
    home goes (by rw [quiet.qp]; exact active) (by rw [quiet.qpFunc]; exact func)
  rw [quiet.qp, State.timed] at done
  rw [← quiet.quartz]
  exact done

/-! ## The completion entry (Table 2.7) -/

theorem completionEntry_length (d : Descriptor) (e : Ending) (ph : Bool) (q : Nat) : (completionEntry d e ph q).length = 32 := by
  simp [completionEntry, leBytes_length, fitBytes_length]

/-- A status that refuses carries no result. -/
theorem completionEntry_refusing (d : Descriptor) (e : Ending) (ph : Bool) (q : Nat) (h : refusing e.status = true) :
    (completionEntry d e ph q).drop 16 = zeros 16 ∧ leNat (slice 5 1 (completionEntry d e ph q)) = b2n ph + 64 * b2n d.v1 := by
  have entry : completionEntry d e ph q =
      (leBytes 4 d.hostTag ++ leBytes 1 e.status) ++ leBytes 1 (b2n ph + 64 * b2n d.v1) ++
        (leBytes 1 e.cluster ++ [0] ++ leBytes 4 (min e.serviceNs 0xFFFFFFFF) ++ leBytes 2 q ++ leBytes 2 e.detail) ++ zeros 16 := by
    simp [completionEntry, h, fitBytes, zeros]
  rw [entry]
  refine ⟨?_, ?_⟩
  · exact List.drop_left' (by simp [leBytes_length])
  · have flags : b2n ph + 64 * b2n d.v1 < 256 := by cases ph <;> cases d.v1 <;> decide
    rw [slice, List.append_assoc, List.append_assoc, List.drop_left' (by simp [leBytes_length]), fitBytes, List.append_assoc,
      List.take_left' (by simp [leBytes_length]), leNat_leBytes]
    exact Nat.mod_eq_of_lt flags

/-- Settles O31: DONE by its STATUS and the budget, what an end leaves of the contexts, and the completion. -/
theorem commandsEndWithTheirCompletion : Obligations.CommandsEndWithTheirCompletion := by
  refine ⟨?_, fun k st det len ok s run => State.endCommand_ctx run, ?_, fun d e ph q => ⟨completionEntry_length d e ph q, completionEntry_refusing d e ph q⟩⟩
  · intro c w x ok s k h
    rw [execDone_body]
    refine ⟨fun refused => State.issue_refuses h (if_neg (by rw [refused]; decide)), fun allowed => ?_⟩
    obtain ⟨-, orphan, -⟩ := s.readyCtx_free h
    obtain ⟨own, issue, retire, only⟩ := s.countIssue_setCtx k 2 { x with retired := x.retired + 1 }
    rw [clusterOf_ctxKey] at issue retire
    exact ⟨_, only, own, issue, retire, s.issue_ready h (doneBody_ends ok allowed orphan) (.inl (s.readyCtx_done h))⟩
  · intro k st det len c f s run home delta active func goes
    obtain ⟨u, quiet, sent⟩ := s.endCommand_completion (det := det) (len := len) run home delta active func goes
    obtain ⟨ns, first, before⟩ := quiet.sent.msix
    obtain ⟨ms, last, after⟩ := sent.msix
    refine ⟨ns, ms, ?_, fun m hm => (List.mem_append.1 hm).elim (before m) (after m)⟩
    rw [last]
    simp only [State.emit, first]

end Sys2Proof.Machine
end

section
/-! SUPPORT. PKX: its source, its key, the checks of Table 6.4 and the hand-off (R77, R94, R159, R162). -/
namespace Sys2Proof.Machine

variable {s : State} {c : Ctx} {w : Insn} {x x1 : Context} {y : KeySlot}

/-! ## The body -/

/-- The curve of an operation. -/
def pkCurve (s : State) (v : PkWord) (key : Option Key) : Option Curve := if v.isEc then curveOf (pkSel v key) (s.curveEntry (pkSel v key)) else none

/-- The operation a PKX hands off. -/
def pkxOp (s : State) (c : Ctx) (v : PkWord) (x : Context) (key : Option Key) (wires : Masked) (src : List Byte) : PkOp :=
  { owner := some (ctxKey c), part := x.part, word := v, key := key.map fun y => { y with material := [] }, wires, source := src,
    rand := (s.queue c.cc).take (pkRandom v key (pkCurve s v key) src), entry := s.curveEntry (pkSel v key), crvCommits := s.pk.crvCommits }

/-- The state a hand-off to cluster `p` leaves. -/
def State.handedOff (s : State) (c : Ctx) (v : PkWord) (x : Context) (key : Option Key) (wires : Masked) (src : List Byte) (p : Nat) : State :=
  (((s.setQueue c.cc ((s.queue c.cc).drop (pkRandom v key (pkCurve s v key) src))).count (R.SEQ_ISSUE_CNT c.cc) 2).setCtx (ctxKey c)
    { x with wait := .pkx }).enqueuePk p (pkxOp s c v x key wires src)

/-- An operation whose source has passed, by the clusters and the random queue. -/
def pkHand (s : State) (c : Ctx) (v : PkWord) (x : Context) (key : Option Key) (wires : Masked) (src : List Byte) : Result :=
  match s.handTo v.isLattice [] with
  | .error none => .next s
  | .error (some det) => .next (s.failAt (ctxKey c) 2 stFaultDetected det)
  | .ok p =>
    if s.pkFull p v.isLattice then .next s
    else if s.queueFill c.cc < pkRandom v key (pkCurve s v key) src then .next (s.updCtx (ctxKey c) fun y => { y with wait := .random, since := s.quartz })
    else .next (s.handedOff c v x key wires src p)

/-- A PKX that has its key, by the checks of Table 6.4. -/
def pkGo (s : State) (c : Ctx) (w : Insn) (v : PkWord) (bytes : List Byte) (x : Context) (key : Option Key) (wires : Masked) : Result :=
  match pkCheck v key (pkCurve s v key) w bytes with
  | .error det => .next (s.failAt (ctxKey c) 2 stFormatError det)
  | .ok src => pkHand s c v x key wires src

/-- A PKX that has its source, by its key. -/
def pkUse (s : State) (c : Ctx) (w : Insn) (v : PkWord) (bytes : List Byte) (x : Context) : Result :=
  if v.usesKey then
    s.withSlot (ctxKey c) 2 x w.ka fun y =>
      if s.pkFits v y.key then pkGo s c w v bytes x (some y.key) (s.wires c.cc y) else .next (s.failAt (ctxKey c) 2 stKeyUsageDenied y.field)
  else pkGo s c w v bytes x none {}

/-- A PKX's body. -/
def pkxBody (s : State) (c : Ctx) (w : Insn) (x : Context) : Result := s.pkSource (ctxKey c) x w (pkUse s c w (x.pkWord w))

theorem pkx_body (oper : Nat) : s.pkx c oper w = if immBits w 0 6 ≠ oper then .next s else if pkxReserved w then .refused .reservedEncoding
    else s.issue c 0x9 0x0 w (pkxBody s c w) := rfl

theorem pkxInstr_exec {i : Instr} {oper : Nat} (h : pkxInstr i = some (oper, c, w)) : exec i s = s.pkx c oper w := by
  cases i <;> cases h <;> rfl

/-! ## Its source -/

/-- The source bytes of a PKX that are there. -/
def pkBytes (w : Insn) (x : Context) : List Byte :=
  if modBit w 0 then x.gathered ++ x.inBytes x.ip (x.sr w.b - x.gathered.length) else x.vRange w.a (immBits w 16 4 + 1)

/-- The context with its source taken. -/
def pkTaken (w : Insn) (x : Context) : Context :=
  if modBit w 0 then { x with ip := (x.ip + (x.sr w.b - x.gathered.length)) % 2 ^ 24, gathered := [] } else x

theorem pkTaken_slot (w : Insn) (x : Context) (i : Nat) : (pkTaken w x).slot i = x.slot i := by unfold pkTaken; split <;> rfl
theorem pkTaken_part (w : Insn) (x : Context) : (pkTaken w x).part = x.part := by unfold pkTaken; split <;> rfl
theorem pkTaken_cmd (w : Insn) (x : Context) : (pkTaken w x).cmd = x.cmd := by unfold pkTaken; split <;> rfl

theorem pkxBody_waits (stream : modBit w 0 = true) (early : x.has (x.ip + (x.sr w.b - x.gathered.length)) = false) :
    pkxBody s c w x = .next (s.setCtx (ctxKey c) { x with
      gathered := x.gathered ++ x.inBytes x.ip (x.input.length - x.ip), ip := x.ip + (x.input.length - x.ip), wait := .chunk }) :=
  (if_pos stream).trans (State.gather_waits early)

theorem pkxBody_there (there : modBit w 0 = false ∨ x.has (x.ip + (x.sr w.b - x.gathered.length)) = true) :
    pkxBody s c w x = pkUse s c w (x.pkWord w) (pkBytes w x) (pkTaken w x) := by
  unfold pkxBody State.pkSource pkBytes pkTaken
  by_cases stream : modBit w 0 = true
  · rw [if_pos stream, if_pos stream, if_pos stream, State.gather_has (there.resolve_left (by rw [stream]; decide))]
  · rw [if_neg stream, if_neg stream, if_neg stream]

/-! ## Its key -/

section
variable {v : PkWord} {bytes : List Byte}

theorem pkUse_empty (keyed : v.usesKey = true) (empty : x.slot w.ka = none) :
    pkUse s c w v bytes x = .next (s.failAt (ctxKey c) 2 stKeyUsageDenied 3) := (if_pos keyed).trans (State.withSlot_empty empty)

theorem pkUse_unfit (keyed : v.usesKey = true) (slot : x.slot w.ka = some y) (unfit : s.pkFits v y.key = false) :
    pkUse s c w v bytes x = .next (s.failAt (ctxKey c) 2 stKeyUsageDenied y.field) :=
  (if_pos keyed).trans ((State.withSlot_loaded slot).trans (if_neg (by rw [unfit]; decide)))

theorem pkUse_fits {y : Option KeySlot} (fits : if v.usesKey then x.slot w.ka = y ∧ (y.any fun z => s.pkFits v z.key) = true else y = none) :
    pkUse s c w v bytes x = pkGo s c w v bytes x (y.map (·.key)) ((y.map (s.wires c.cc)).getD {}) := by
  by_cases keyed : v.usesKey = true
  · rw [if_pos keyed] at fits
    obtain ⟨slot, fit⟩ := fits
    cases y with
    | none => cases fit
    | some y => exact (if_pos keyed).trans ((State.withSlot_loaded slot).trans (if_pos fit))
  · rw [if_neg keyed] at fits
    subst fits
    exact if_neg keyed

/-! ## Its checks (Table 6.4) -/

variable {key : Option Key} {crv : Option Curve} {src : List Byte}

theorem pkCheck_lengths (h : v.lengthsKnown = false) : pkCheck v key crv w bytes = .error 0xE003 := if_pos (by rw [h]; rfl)

theorem pkCheck_source (h : v.lengthsKnown = true) (bad : pkTake v key crv (modBit w 0) bytes = none) : pkCheck v key crv w bytes = .error 0xE001 := by
  rw [pkCheck, if_neg (by rw [h]; decide), bad]

variable (known : v.lengthsKnown = true) (taken : pkTake v key crv (modBit w 0) bytes = some src)
include known taken

theorem pkCheck_room (full : ¬(modBit w 1 = true ∨ pkResultLen v key crv src ≤ 16 * (immBits w 20 4 + 1))) :
    pkCheck v key crv w bytes = .error 0xE002 := by
  rw [pkCheck, if_neg (by rw [known]; decide), taken]
  exact if_pos ⟨fun h => full (.inl h), Nat.not_le.1 fun h => full (.inr h)⟩

variable (room : modBit w 1 = true ∨ pkResultLen v key crv src ≤ 16 * (immBits w 20 4 + 1))
include room

theorem pkCheck_fits : pkCheck v key crv w bytes = if !v.encodingOk then .error 0xE003 else if rsaMalformed v src then .error 0xE004 else .ok src := by
  rw [pkCheck, if_neg (by rw [known]; decide), taken]
  exact if_neg fun h => room.elim h.1 fun fit => absurd h.2 (Nat.not_lt.2 fit)

end

/-! ## Its hand-off -/

section
variable {v : PkWord} {key : Option Key} {wires : Masked} {src : List Byte} {p : Nat}

theorem State.handedOff_spec (s : State) (c : Ctx) (v : PkWord) (x : Context) (key : Option Key) (wires : Masked) (src : List Byte) (p : Nat) :
    let t := s.handedOff c v x key wires src p
    let b := pkRandom v key (pkCurve s v key) src
    t.ctx (ctxKey c) = { x with wait := .pkx } ∧ (∀ j, j ≠ ctxKey c → t.ctx j = s.ctx j) ∧
      t.pkQueue p v.isLattice = s.pkQueue p v.isLattice ++ [pkxOp s c v x key wires src] ∧
      (∀ q l, 2 * q + b2n l ≠ 2 * p + b2n v.isLattice → t.pkQueue q l = s.pkQueue q l) ∧
      t.queue c.cc = (s.queue c.cc).drop b ∧ (∀ n, n ≠ c.cc.val → t.queue n = s.queue n) ∧
      t.get (R.SEQ_ISSUE_CNT c.cc) = (s.get (R.SEQ_ISSUE_CNT c.cc) + 2) % 2 ^ 32 ∧ keeps [R.SEQ_ISSUE_CNT c.cc] s t ∧
      t = { s with regs := t.regs, sq := { s.sq with ctxs := t.sq.ctxs }, fl := { s.fl with queues := t.fl.queues },
                   pk := { s.pk with queues := t.pk.queues } } := by
  intro t b
  refine ⟨State.ctx_setCtx_same .., fun j hj => State.ctx_setCtx_ne _ _ _ _ (Ne.symm hj), State.pkQueue_setPkQueue_same ..,
    fun q l ne => State.pkQueue_setPkQueue_other (Ne.symm ne), State.queue_setQueue_same .., fun n hn => Sparse.get_set_ne _ _ _ _ (Ne.symm hn), ?_,
    fun f hf => ?_, rfl⟩
  · exact State.get_set_same _ (R.SEQ_ISSUE_CNT c.cc) _
  · exact State.get_count_ne _ _ _ _ (hf _ (by simp))

end

section
variable {v : PkWord} {bytes src : List Byte} {key : Option Key} {wires : Masked} {p : Nat}

theorem pkGo_fails {det : Nat} (h : pkCheck v key (pkCurve s v key) w bytes = .error det) :
    pkGo s c w v bytes x key wires = .next (s.failAt (ctxKey c) 2 stFormatError det) := by rw [pkGo, h]

theorem pkGo_hands (h : pkCheck v key (pkCurve s v key) w bytes = .ok src) : pkGo s c w v bytes x key wires = pkHand s c v x key wires src := by
  rw [pkGo, h]

theorem pkHand_closed (h : s.handTo v.isLattice [] = .error none) : pkHand s c v x key wires src = .next s := by rw [pkHand, h]

theorem pkHand_down {det : Nat} (h : s.handTo v.isLattice [] = .error (some det)) :
    pkHand s c v x key wires src = .next (s.failAt (ctxKey c) 2 stFaultDetected det) := by rw [pkHand, h]

variable (to_ : s.handTo v.isLattice [] = .ok p)
include to_

theorem pkHand_full (full : s.pkFull p v.isLattice = true) : pkHand s c v x key wires src = .next s := by
  rw [pkHand, to_]
  exact if_pos full

variable (room : s.pkFull p v.isLattice = false)
include room

theorem pkHand_short (short : s.queueFill c.cc < pkRandom v key (pkCurve s v key) src) :
    pkHand s c v x key wires src = .next (s.updCtx (ctxKey c) fun y => { y with wait := .random, since := s.quartz }) := by
  rw [pkHand, to_]
  exact (if_neg (by rw [room]; decide)).trans (if_pos short)

theorem pkHand_hands (full : pkRandom v key (pkCurve s v key) src ≤ s.queueFill c.cc) :
    pkHand s c v x key wires src = .next (s.handedOff c v x key wires src p) := by
  rw [pkHand, to_]
  exact (if_neg (by rw [room]; decide)).trans (if_neg (Nat.not_lt.2 full))

end

/-- Settles O33: a PKX by its word, its source, its key, the checks of Table 6.4, the clusters and the random queue. -/
theorem pkxHandsItsOperationOff : Obligations.PkxHandsItsOperationOff := by
  intro i oper c w x s hi same k v left bytes x1
  rw [pkxInstr_exec hi, pkx_body, if_neg (by simpa using same)]
  refine ⟨fun reserved => if_pos reserved, fun word h => ?_⟩
  rw [if_neg (by rw [word]; decide)]
  refine ⟨fun stream early => State.issue_setCtx (u := s) h (pkxBody_waits stream early) rfl, fun there => ?_⟩
  have body := pkxBody_there (s := s) (c := c) there
  have slot := pkTaken_slot w x
  refine ⟨fun keyed empty => ?_, fun y keyed loaded unfit => ?_, ?_⟩
  · exact State.issue_fails h (body.trans (pkUse_empty keyed ((slot _).trans empty)))
  · exact State.issue_fails h (body.trans (pkUse_unfit keyed ((slot _).trans loaded) unfit))
  intro y fits key entry crv
  have checks : pkxBody s c w x = pkGo s c w v (pkBytes w x) (pkTaken w x) key ((y.map (s.wires c.cc)).getD {}) :=
    body.trans (pkUse_fits (by rw [slot]; exact fits))
  have failed {det : Nat} (bad : pkCheck v key crv w bytes = .error det) :
      s.issue c 0x9 0x0 w (pkxBody s c w) = .next (whenSettled s k (s.failAt k 2 stFormatError det)) :=
    State.issue_fails h (checks.trans (pkGo_fails bad))
  refine ⟨fun unknown => failed (pkCheck_lengths unknown), fun known bad => failed (pkCheck_source known bad), ?_⟩
  intro src known taken room
  refine ⟨fun full => failed (pkCheck_room known taken full), fun fit bad => failed ?_, fun fit good bad => failed ?_, fun fit good formed => ?_⟩
  · rw [pkCheck_fits known taken fit, bad]; rfl
  · rw [pkCheck_fits known taken fit, good, bad]; rfl
  have hands := checks.trans (pkGo_hands (src := src) (by
    show pkCheck v key crv w bytes = _
    rw [pkCheck_fits known taken fit, good, formed]; rfl))
  refine ⟨fun closed => State.issue_holds h (hands.trans (pkHand_closed closed)), fun det down => State.issue_fails h (hands.trans (pkHand_down down)), ?_⟩
  intro p to_ b
  refine ⟨fun full => State.issue_holds h (hands.trans (pkHand_full to_ full)), fun open_ short => ?_, fun open_ enough => ?_⟩
  · refine State.issue_setCtx (u := s) h ((hands.trans (pkHand_short to_ open_ short)).trans ?_) rfl
    rw [(s.readyCtx_spec h).1]; rfl
  · obtain ⟨own, others, queued, rest, drawn, drawnRest, issued, kept, only⟩ :=
      s.handedOff_spec c v (pkTaken w x) key ((y.map (s.wires c.cc)).getD {}) src p
    refine ⟨_, s.issue_ready h (hands.trans (pkHand_hands to_ open_ enough)) (.inr ?_), own, others, ?_, rest, drawn, drawnRest, issued, kept, only⟩
    · rw [own]
      exact (congrArg Option.isSome (pkTaken_cmd w x)).trans (s.readyCtx_runs h)
    · rw [queued, pkxOp, pkTaken_part]; rfl

end Sys2Proof.Machine
end

section
/-! SUPPORT. The key store's own work: fills, fences, the sweeper and re-masking (R208-R214, R284). -/
namespace Sys2Proof.Machine

variable {s t u : State} {c : Ctx} {i : Code} {x : Context}

/-! ## Fills (R208, R209) -/

section
variable {macBad : Option Nat} {chain : List Nat} {ending : WalkEnd}

/-- A KEY_FILL of a context that waits for one. -/
def fillBody (c : Ctx) (i : Code) (macBad : Option Nat) (s : State) : Result :=
  let k := ctxKey c
  let n := c.cc.val
  let x := s.ctx k
  let w := s.walk x.part 8 (x.desc.keyField (immBits i.w 0 2))
  match s.badOf macBad (s.missing n w.1) with
  | some bad => .next ((s.lineFailed n bad).failAt k 4 stKeyNotFound (immBits i.w 0 2))
  | none =>
    match w.2 with
    | .rooted =>
      match s.fillChain n x.part w.1 with
      | some s =>
        let s := s.keepMax (R.KCS_FILL_MAX_NS n) (s.quartz - x.since)
        .next (s.setCtx k { x with wait := .none, filled := true })
      | none =>
        if x.wait = .cacheEntry then .next s
        else .next (((s.countSat (R.KCS_FILL_WAIT n)).raise (pgKCS n) 2).setCtx k { x with wait := .cacheEntry })
    | _ => .next (s.setCtx k { x with wait := .none, filled := true })

theorem execKeyFill_body (run : (s.ctx (ctxKey c)).cmd ≠ none) (here : (s.ctx (ctxKey c)).here = some i) (cls : i.cls = 2) (op : i.op = 0 ∨ i.op = 6 ∨ i.op = 8)
    (ready : s.ge.ready = true) (waits : (s.ctx (ctxKey c)).wait = .keyFill ∨ (s.ctx (ctxKey c)).wait = .cacheEntry) :
    exec (.keyFill c macBad) s = if s.xbarHeld c.cc then .next s else fillBody c i macBad s := by
  change execKeyFill c macBad s = _
  unfold execKeyFill
  dsimp only
  split
  next cmd j _ there =>
    cases there.symm.trans here
    by_cases held : s.xbarHeld c.cc = true
    · rw [if_pos held, if_pos (.inr (.inl held))]
    · rw [if_neg held, if_neg]
      · rfl
      · rintro (h | h | h | h | h)
        · exact h ready
        · exact held h
        · exact waits.elim h.1 h.2
        · exact h cls
        · rcases op with op | op | op <;> rw [op] at h <;> exact absurd h (by decide)
  next none_ =>
    obtain ⟨cmd, hc⟩ := Option.ne_none_iff_exists'.1 run
    exact absurd here (none_ cmd i hc)

/-- What a bad record of a fill leaves before its command ends. -/
theorem State.lineFailed_spec (s : State) (n : Fin 16) (b : Nat) : let t := s.lineFailed n b
    t.line b = {} ∧ t.bit (R.BLK_INT_RAW (pgKCS n)) 0 = true ∧ t.bit (R.BLK_INT_RAW pgGEO) 5 = true ∧ t.sq = s.sq := by
  intro t
  have keeps : endKeeps { s with ge.lines := placeLine s.ge.lines b {} } t := endKeeps_trans (endKeeps_raise _ _ _) (endKeeps_raise _ _ _)
  obtain ⟨sq, ge, -⟩ := (endKeeps_iff _ _).mp keeps
  refine ⟨?_, ?_, State.raise_bit _ pgGEO (by decide), sq⟩
  · rw [State.line, ge]
    exact placeLine_same s.ge.lines b {}
  · refine Eq.trans ?_ (({ s with ge.lines := placeLine s.ge.lines b {} } : State).raise_bit (pgKCS n) (i := 0) (by decide))
    exact congrArg (bitOf · 0) (State.raise_get_ne _ _ _ _ (by clear * -; revert n; decide))

section
variable (at_ : (s.walk (s.ctx (ctxKey c)).part 8 ((s.ctx (ctxKey c)).desc.keyField (immBits i.w 0 2))) = (chain, ending))
include at_

theorem fillBody_bad {b : Nat} (bad : s.badOf macBad (s.missing c.cc chain) = some b) :
    fillBody c i macBad s = .next ((s.lineFailed c.cc b).failAt (ctxKey c) 4 stKeyNotFound (immBits i.w 0 2)) := by
  unfold fillBody
  dsimp only
  rw [at_, bad]

variable (good : s.badOf macBad (s.missing c.cc chain) = none)
include good

theorem fillBody_unrooted (loose : ending ≠ .rooted) :
    fillBody c i macBad s = .next (s.setCtx (ctxKey c) { s.ctx (ctxKey c) with wait := .none, filled := true }) := by
  unfold fillBody
  dsimp only
  rw [at_]
  dsimp only
  rw [good]
  cases ending
  case rooted => exact absurd rfl loose
  all_goals rfl

variable (rooted : ending = .rooted)
include rooted

theorem fillBody_filled (fill : s.fillChain c.cc (s.ctx (ctxKey c)).part chain = some u) :
    fillBody c i macBad s = .next ((u.keepMax (R.KCS_FILL_MAX_NS c.cc) (u.quartz - (s.ctx (ctxKey c)).since)).setCtx (ctxKey c)
      { s.ctx (ctxKey c) with wait := .none, filled := true }) := by
  subst rooted
  unfold fillBody
  dsimp only
  rw [at_]
  dsimp only
  rw [good, fill]

theorem fillBody_full (full : s.fillChain c.cc (s.ctx (ctxKey c)).part chain = none) :
    fillBody c i macBad s = if (s.ctx (ctxKey c)).wait = .cacheEntry then .next s
      else .next (((s.countSat (R.KCS_FILL_WAIT c.cc)).raise (pgKCS c.cc) 2).setCtx (ctxKey c) { s.ctx (ctxKey c) with wait := .cacheEntry }) := by
  subst rooted
  unfold fillBody
  dsimp only
  rw [at_]
  dsimp only
  rw [good, full]

end

end

theorem keyFills (macBad : Option Nat) (run : (s.ctx (ctxKey c)).cmd ≠ none) (here : (s.ctx (ctxKey c)).here = some i) (cls : i.cls = 2)
    (op : i.op = 0 ∨ i.op = 6 ∨ i.op = 8) (ready : s.ge.ready = true)
    (waits : (s.ctx (ctxKey c)).wait = .keyFill ∨ (s.ctx (ctxKey c)).wait = .cacheEntry) :
    let k := ctxKey c
    let x := s.ctx k
    let q := s.walk x.part 8 (x.desc.keyField (immBits i.w 0 2))
    let bad := s.badOf macBad (s.missing c.cc q.1)
    (s.xbarHeld c.cc = true → exec (.keyFill c macBad) s = .next s) ∧
    (s.xbarHeld c.cc = false → (∀ b, bad = some b → ∃ t : State, exec (.keyFill c macBad) s = .next (t.failAt k 4 stKeyNotFound (immBits i.w 0 2)) ∧ t.line b = {} ∧
      t.bit (R.BLK_INT_RAW (pgKCS c.cc)) 0 = true ∧ t.bit (R.BLK_INT_RAW pgGEO) 5 = true ∧ t.sq = s.sq) ∧
    (bad = none → q.2 ≠ .rooted → exec (.keyFill c macBad) s = .next (s.setCtx k { x with wait := .none, filled := true })) ∧
    (∀ u, bad = none → q.2 = .rooted → s.fillChain c.cc x.part q.1 = some u → ∃ t, exec (.keyFill c macBad) s = .next t ∧
      t.ctx k = { x with wait := .none, filled := true } ∧ t.ge = u.ge ∧ (∀ j, j ≠ k → t.ctx j = u.ctx j)) ∧
    (bad = none → q.2 = .rooted → s.fillChain c.cc x.part q.1 = none → ∃ t, exec (.keyFill c macBad) s = .next t ∧
      t.ctx k = { x with wait := .cacheEntry } ∧ t.ge = s.ge ∧ (∀ j, j ≠ k → t.ctx j = s.ctx j))) := by
  intro k x q bad
  have body := execKeyFill_body (macBad := macBad) run here cls op ready waits
  refine ⟨fun held => body.trans (if_pos held), fun free => ?_⟩
  rw [body, if_neg (by rw [free]; decide)]
  refine ⟨fun b hb => ⟨_, fillBody_bad rfl hb, s.lineFailed_spec c.cc b⟩, fun good loose => fillBody_unrooted rfl good loose, fun u good rooted fill => ?_,
    fun good rooted full => ?_⟩
  · exact ⟨_, fillBody_filled rfl good rooted fill, State.ctx_setCtx_same .., rfl, fun j hj => State.ctx_setCtx_ne _ _ _ _ (Ne.symm hj)⟩
  · rw [fillBody_full rfl good rooted full]
    by_cases again : (s.ctx (ctxKey c)).wait = .cacheEntry
    · refine ⟨s, if_pos again, ?_, rfl, fun _ _ => rfl⟩
      show x = { x with wait := .cacheEntry }
      rw [← show x.wait = .cacheEntry from again]
    · obtain ⟨sq, ge, -⟩ := (endKeeps_iff _ _).mp (endKeeps_raise (s.countSat (R.KCS_FILL_WAIT c.cc)) (pgKCS c.cc) 2)
      refine ⟨_, if_neg again, State.ctx_setCtx_same .., ge, fun j hj => (State.ctx_setCtx_ne _ _ _ _ (Ne.symm hj)).trans ?_⟩
      rw [State.ctx, sq]; rfl

/-! ## Fences raised (R211) -/

theorem Sparse.get_map_vals {α : Type} (d : α) (g : Nat → α → α) (m : Sparse α) (k : Nat) (h : g k d = d) :
    Sparse.get d (m.map fun e => (e.1, g e.1 e.2)) k = g k (Sparse.get d m k) := by
  induction m with
  | nil => exact h.symm
  | cons e m ih =>
    obtain ⟨j, v⟩ := e
    simp only [List.map_cons, Sparse.get]
    split
    next same => rw [same]
    next => exact ih

/-- A key slot under a new fence. -/
def fenceMark (key : Nat) (y : KeySlot) : KeySlot := if y.line = none ∧ y.stamp.contains key = true then { y with fenced := true } else y

theorem State.markFence_cacheOf (s : State) (key n : Nat) :
    (s.markFence key).cacheOf n = (s.cacheOf n).map fun e => if s.leadsTo n key 8 e then { e with fenced := true } else e :=
  Sparse.get_map_vals [] (fun n (es : List CacheEntry) => es.map fun d => if s.leadsTo n key 8 d then { d with fenced := true } else d) s.ge.slices n rfl

theorem State.markFence_ctx (s : State) (key j : Nat) :
    (s.markFence key).ctx j = { s.ctx j with keys := (s.ctx j).keys.map (·.map (fenceMark key)) } := by
  have marks : (fun y : KeySlot => if y.line.isNone ∧ y.stamp.contains key then { y with fenced := true } else y) = fenceMark key :=
    funext fun y => by unfold fenceMark; cases y.line <;> simp
  unfold State.markFence
  rw [marks]
  exact Sparse.get_mapVals {} (fun _ (x : Context) => { x with keys := x.keys.map (·.map (fenceMark key)) }) s.sq.ctxs j rfl

/-- The state a fence of context `k` on a line leaves as it is raised. -/
def State.fenceRaised (s : State) (k key : Nat) : State :=
  let t := s.markFence key
  let t : State := { t with ge.fences := t.ge.fences ++ [{ line := key, ctx := some k, raised := t.quartz }] }
  t.keepMax R.GEO_FENCE_PEAK t.ge.fences.length

theorem State.fenceRaised_spec (s : State) (k key : Nat) : let t := s.fenceRaised k key
    t.ge.fences = s.ge.fences ++ [{ line := key, ctx := some k, raised := s.quartz }] ∧ t.fenced key = true ∧ t.ge.lines = s.ge.lines ∧
      keeps [R.GEO_FENCE_PEAK] s t ∧ (∀ n, t.cacheOf n = (s.cacheOf n).map fun e => if s.leadsTo n key 8 e then { e with fenced := true } else e) ∧
      (∀ j, t.ctx j = { s.ctx j with keys := (s.ctx j).keys.map (·.map (fenceMark key)) }) := by
  intro t
  have fences : t.ge.fences = s.ge.fences ++ [{ line := key, ctx := some k, raised := s.quartz }] := rfl
  refine ⟨fences, ?_, rfl, fun f hf => State.get_keepMax_ne _ R.GEO_FENCE_PEAK f _ (hf _ (by simp)), s.markFence_cacheOf key, s.markFence_ctx key⟩
  rw [State.fenced, fences]
  simp

section
variable {field : Nat} (run : (s.ctx (ctxKey c)).cmd ≠ none) (at_ : (s.ctx (ctxKey c)).destroys = some field) (waits : (s.ctx (ctxKey c)).wait = .fence)
  (first : ∀ f ∈ s.ge.fences, f.ctx ≠ some (ctxKey c))
include run at_ waits first

theorem execFenceRaise_body : exec (.fenceRaise c) s =
    let x := s.ctx (ctxKey c)
    let key := lineKey x.part (x.desc.keyField field)
    if s.fenced key = true ∨ 16 ≤ s.ge.fences.length then .next s
    else match s.refuseDestroy x.part (x.desc.keyField field) with
      | some st => .next (s.failDestroy (ctxKey c) st field)
      | none => .next (s.fenceRaised (ctxKey c) key) := by
  change execFenceRaise c s = _
  unfold execFenceRaise
  dsimp only
  split
  next cmd f _ there =>
    cases there.symm.trans at_
    have none_ : ¬ (s.ge.fences.any fun f => f.ctx == some (ctxKey c)) = true := by simpa using first
    simp only [waits, none_, ge_iff_le, ne_eq, not_true_eq_false, Bool.false_eq_true, false_or]
    rfl
  next none_ =>
    obtain ⟨cmd, hc⟩ := Option.ne_none_iff_exists'.1 run
    exact absurd at_ (none_ cmd field hc)

theorem fenceRaises : let k := ctxKey c
    let x := s.ctx k
    let key := lineKey x.part (x.desc.keyField field)
    (s.fenced key = true ∨ 16 ≤ s.ge.fences.length → exec (.fenceRaise c) s = .next s) ∧
    (s.fenced key = false → s.ge.fences.length < 16 →
      (∀ st, s.refuseDestroy x.part (x.desc.keyField field) = some st →
        exec (.fenceRaise c) s = .next (if x.image.code = [] then s.endCommand k st field else s.failAt k 4 st field)) ∧
      (s.refuseDestroy x.part (x.desc.keyField field) = none → exec (.fenceRaise c) s = .next (s.fenceRaised k key))) := by
  intro k x key
  rw [execFenceRaise_body run at_ waits first]
  refine ⟨fun held => if_pos held, fun open_ room => ?_⟩
  have goes : ¬(s.fenced key = true ∨ 16 ≤ s.ge.fences.length) := by rw [open_]; simp; omega
  refine ⟨fun st refused => ?_, fun passes => ?_⟩
  · refine (if_neg goes).trans ?_
    rw [refused]
    dsimp only
    rw [State.failDestroy]
    simp only [List.isEmpty_iff]
    rfl
  · refine (if_neg goes).trans ?_
    rw [passes]

end

/-! ## Fences completed (R212) -/

/-- A slice without what leads to a fenced line. -/
def State.purgeSlice (line : Nat) (s : State) (n : Nat) : State :=
  let goes := s.leadsTo n line 8
  let es := s.cacheOf n
  let gone := es.filter goes
  if gone.isEmpty then s
  else (s.setCache n (es.filter fun e => !goes e)).count (R.KCS_INVAL n) ((gone.map (·.entries)).sum)

/-- What `purgeSlice` leaves alone. -/
theorem State.purgeSlice_rest (line : Nat) (s : State) (n : Nat) :
    s.purgeSlice line n = { s with regs := (s.purgeSlice line n).regs, ge := { s.ge with slices := (s.purgeSlice line n).ge.slices } } := by
  unfold State.purgeSlice
  dsimp only
  split <;> rfl

theorem State.purgeSlice_ne {m n : Nat} (line : Nat) (s : State) (h : n ≠ m) : (s.purgeSlice line n).cacheOf m = s.cacheOf m := by
  unfold State.purgeSlice
  dsimp only
  split
  · rfl
  · exact Sparse.get_set_ne _ _ _ _ h

theorem State.purgeSlice_same (line : Nat) (s : State) (n : Nat) :
    (s.purgeSlice line n).cacheOf n = (s.cacheOf n).filter fun e => !s.leadsTo n line 8 e := by
  unfold State.purgeSlice
  dsimp only
  split
  next none_ =>
    refine (List.filter_eq_self.2 fun e he => ?_).symm
    simp only [List.isEmpty_iff, List.filter_eq_nil_iff] at none_
    simpa using none_ e he
  · exact Sparse.get_set_same ..

theorem State.leadsTo_of_cache {n : Nat} (h : t.cacheOf n = s.cacheOf n) (line fuel : Nat) (e : CacheEntry) : t.leadsTo n line fuel e = s.leadsTo n line fuel e := by
  induction fuel generalizing e with
  | zero => rfl
  | succ fuel ih => simp only [State.leadsTo, h, funext ih]

/-- Every slice without what leads to a fenced line. -/
def State.purge (s : State) (line : Nat) : State := (List.range 16).foldl (fun s n => s.purgeSlice line n) s

theorem State.purge_rest (s : State) (line : Nat) : ∃ rs sl, s.purge line = { s with regs := rs, ge := { s.ge with slices := sl } } := by
  unfold State.purge
  refine foldl_keeps (fun t => ∃ rs sl, t = { s with regs := rs, ge := { s.ge with slices := sl } }) _ ?_ _ s ⟨_, _, rfl⟩
  rintro t n ⟨rs, sl, rfl⟩
  exact ⟨_, _, State.purgeSlice_rest line _ n⟩

theorem State.purge_cacheOf (s : State) (line : Nat) {n : Nat} (hn : n < 16) :
    (s.purge line).cacheOf n = (s.cacheOf n).filter fun e => !s.leadsTo n line 8 e := by
  have fold : ∀ (ns : List Nat) (t : State), ns.Nodup → (ns.foldl (State.purgeSlice line) t).cacheOf n =
      if n ∈ ns then (t.cacheOf n).filter fun e => !t.leadsTo n line 8 e else t.cacheOf n := by
    intro ns
    induction ns with
    | nil => exact fun t _ => rfl
    | cons m ns ih =>
      intro t nodup
      obtain ⟨fresh, rest⟩ := List.nodup_cons.1 nodup
      rw [List.foldl_cons, ih _ rest]
      by_cases same : m = n
      · subst same
        rw [if_neg fresh, if_pos List.mem_cons_self, State.purgeSlice_same]
      · have there : (t.purgeSlice line m).cacheOf n = t.cacheOf n := t.purgeSlice_ne line same
        simp only [there, State.leadsTo_of_cache there, List.mem_cons, Ne.symm same, false_or]
  unfold State.purge
  rw [fold _ _ List.nodup_range, if_pos (List.mem_range.2 hn)]

/-- The line a completed fence leaves. -/
def State.fenceLine (s : State) (f : Fence) : KeyLine := { s.tombstone f.line with gen := f.gen.getD (s.tombstone f.line).gen }

/-- The fenced line written: what the standby sent goes as it is, any other through the table's own write. -/
def State.fenceWritten (s : State) (f : Fence) (l : KeyLine) : State × Option Nat :=
  if f.gen.isSome then ({ s with ge.lines := placeLine s.ge.lines f.line l }).sendDelta (.line f.line l) else s.writeLine f.line l

/-- A completed fence, its list entry gone and its time counted. -/
def State.fenceEnded (s : State) (i : Nat) (f : Fence) (t : State) : State :=
  let t : State := { t with ge.fences := s.ge.fences.eraseIdx i }
  let ns := t.quartz - f.raised
  let t := t.count R.GEO_FENCE_CNT
  (t.set R.GEO_FENCE_LAST_NS (min ns 65535)).keepMax R.GEO_FENCE_MAX_NS ns

/-- The state a completed fence leaves, before its DESTROY goes on. -/
def State.fenceDone (s : State) (i : Nat) (f : Fence) : State :=
  (s.purge f.line).fenceEnded i f ((s.purge f.line).fenceWritten f (s.fenceLine f)).1

/-- The DESTROY of a completed fence goes on; `d` is the delta the tombstone produced. -/
def fenceGoesOn (f : Fence) (l : KeyLine) (t : State) (d : Option Nat) : Result :=
  match f.ctx with
  | none => .next t
  | some k =>
    let x := t.ctx k
    let bs := t.lineBytes f.line l
    let x' := { x with wait := .none, op := (x.op + bs.length) % 2 ^ 24, delta := d <|> x.delta }
    if x.image.code.isEmpty then
      .next (((t.setCtx k x').output k 0 bs).endCommand k stOK 0 (if x.desc.outInline then min 16 bs.length else 0))
    else .next ((t.retire k 4 x').inOrder k { output := [(x.op, bs)], pc := x.pc, num := x.retired })

theorem execFenceComplete_body {i : Fin 16} {f : Fence} (at_ : s.ge.fences[i.val]? = some f) : exec (.fenceComplete i) s =
    if s.running.any fun e => e.2.holds f.line then .next s
    else fenceGoesOn f (s.fenceLine f) (s.fenceDone i f) ((s.purge f.line).fenceWritten f (s.fenceLine f)).2 := by
  change execFenceComplete i s = _
  unfold State.fenceDone
  unfold execFenceComplete State.purge State.purgeSlice
  rw [at_]
  dsimp only
  generalize List.foldl _ s (List.range 16) = u
  rfl

theorem State.fenceWritten_keeps (s : State) (f : Fence) (l : KeyLine) :
    endKeeps { s with ge.lines := placeLine s.ge.lines f.line l } (s.fenceWritten f l).1 := by
  unfold State.fenceWritten
  split
  · exact State.sendDelta_keeps _ _
  · exact State.writeLine_keeps _ _ _

theorem State.fenceDone_spec (s : State) (i : Nat) (f : Fence) : let t := s.fenceDone i f
    t.line f.line = s.fenceLine f ∧ t.ge.fences = s.ge.fences.eraseIdx i ∧ t.sq = s.sq ∧
      ∀ n < 16, t.cacheOf n = (s.cacheOf n).filter fun e => !s.leadsTo n f.line 8 e := by
  intro t
  obtain ⟨rs, sl, purged⟩ := s.purge_rest f.line
  obtain ⟨sq, ge, -⟩ := (endKeeps_iff _ _).mp ((s.purge f.line).fenceWritten_keeps f (s.fenceLine f))
  have ended : ∀ u v : State, (u.fenceEnded i f v).ge = { v.ge with fences := u.ge.fences.eraseIdx i } ∧ (u.fenceEnded i f v).sq = v.sq :=
    fun u v => ⟨rfl, rfl⟩
  have tge := (ended (s.purge f.line) ((s.purge f.line).fenceWritten f (s.fenceLine f)).1).1
  have tsq := (ended (s.purge f.line) ((s.purge f.line).fenceWritten f (s.fenceLine f)).1).2
  have slices := fun n (hn : n < 16) => s.purge_cacheOf f.line hn
  change t.ge = _ at tge
  change t.sq = _ at tsq
  rw [ge] at tge
  rw [sq] at tsq
  generalize s.purge f.line = u at tge tsq purged slices
  refine ⟨?_, ?_, ?_, fun n hn => ?_⟩
  · rw [State.line, tge]
    exact placeLine_same ..
  · rw [tge, purged]
  · rw [tsq, purged]
  · rw [State.cacheOf, tge]
    exact slices n hn

theorem fenceCompletes {i : Fin 16} {f : Fence} (at_ : s.ge.fences[i.val]? = some f) :
    ((∃ e ∈ s.running, e.2.holds f.line = true) → exec (.fenceComplete i) s = .next s) ∧
    ((∀ e ∈ s.running, e.2.holds f.line = false) →
      ∃ t : State, (t.line f.line).gen = f.gen.getD (((s.line f.line).gen + 1) % 2 ^ 24) ∧ (t.line f.line).live = false ∧
        (∀ r, (t.line f.line).record = some r → r.key.material = []) ∧ t.ge.fences = s.ge.fences.eraseIdx i ∧
        (∀ n < 16, ∀ e ∈ t.cacheOf n, e.line ≠ f.line ∧ e ∈ s.cacheOf n ∧ s.leadsTo n f.line 8 e = false) ∧ t.sq = s.sq ∧
        (f.ctx = none → exec (.fenceComplete i) s = .next t) ∧
        (∀ k, f.ctx = some k → let x := s.ctx k
          let bs := t.lineBytes f.line (t.line f.line)
          ∃ d, let x' := { x with wait := .none, op := (x.op + bs.length) % 2 ^ 24, delta := d <|> x.delta }
            exec (.fenceComplete i) s = .next (if x.image.code = [] then
              ((t.setCtx k x').output k 0 bs).endCommand k 0 0 (if x.desc.outInline then min 16 bs.length else 0)
              else (t.retire k 4 x').inOrder k { output := [(x.op, bs)], pc := x.pc, num := x.retired }))) := by
  have body := execFenceComplete_body at_
  refine ⟨fun held => body.trans (if_pos (List.any_eq_true.2 held)), fun free => ?_⟩
  obtain ⟨line, fences, sq, slices⟩ := s.fenceDone_spec i f
  have go := body.trans (if_neg (by simpa using free))
  have ctx : ∀ k, (s.fenceDone i f).ctx k = s.ctx k := fun k => by rw [State.ctx, sq]; rfl
  generalize s.fenceDone i f = t at line fences sq slices go ctx
  generalize ((s.purge f.line).fenceWritten f (s.fenceLine f)).2 = d at go
  refine ⟨t, ?_, ?_, fun r hr => ?_, fences, fun n hn e he => ?_, sq, fun own => ?_, fun k own => ?_⟩
  · rw [line]; rfl
  · rw [line]; rfl
  · rw [line, State.fenceLine, State.tombstone] at hr
    obtain ⟨old, -, made⟩ := Option.map_eq_some_iff.1 hr
    rw [← made]
  · rw [slices n hn] at he
    obtain ⟨there, away⟩ := List.mem_filter.1 he
    have away : s.leadsTo n f.line 8 e = false := by simpa using away
    refine ⟨fun same => ?_, there, away⟩
    rw [State.leadsTo, same] at away
    simp at away
  · rw [go, fenceGoesOn, own]
  · intro x bs
    refine ⟨d, ?_⟩
    rw [go, fenceGoesOn, own]
    dsimp only
    rw [ctx, ← line]
    by_cases native : (s.ctx k).image.code = []
    · rw [if_pos (List.isEmpty_iff.2 native), if_pos native]
      rfl
    · rw [if_neg (mt List.isEmpty_iff.1 native), if_neg native]

end Sys2Proof.Machine
end

section
/-! SUPPORT. The key store's own work: late fences, the sweeper and re-masking (R210, R212, R214, R284). -/
namespace Sys2Proof.Machine

variable {s t u : State}

theorem fenceOvertimes {i : Fin 16} {f : Fence} (at_ : s.ge.fences[i.val]? = some f) :
    (f.late = false → f.raised + 4000 < s.quartz →
      exec (.fenceOvertime i) s = .next ({ s with ge := { s.ge with fences := s.ge.fences.set i { f with late := true } } }.raise pgGEO 0)) ∧
    (f.late = true ∨ s.quartz ≤ f.raised + 4000 → exec (.fenceOvertime i) s = .next s) := by
  change (_ → _ → execFenceOvertime i s = _) ∧ (_ → execFenceOvertime i s = _)
  unfold execFenceOvertime
  rw [at_]
  dsimp only
  refine ⟨fun early due => if_neg ?_, fun h => if_pos h.symm⟩
  rw [early]
  simp only [Bool.false_eq_true, or_false]
  omega

/-! ## The sweeper (R214) -/

theorem State.violation_onlyFields (s : State) (m : Nat) (kind : AccessKind) (a tag : Nat) : (s.violation m kind a tag).ge = s.ge ∧
    (s.violation m kind a tag).sq = s.sq ∧ (s.violation m kind a tag).parts = s.parts := by
  cases kind <;> unfold State.violation <;> dsimp only <;> rw [(State.raise_onlyFields _ _ _).2.2] <;> exact ⟨rfl, rfl, rfl⟩

/-- What a check of the module's own access leaves of the key tables, the contexts and the partitions. -/
theorem State.mpuCheck_spec (s : State) (m : Nat) (kind : AccessKind) (a n tag : Nat) : let r := (s.mpuCheck m kind a n tag).2
    r.ge = s.ge ∧ r.sq = s.sq ∧ r.parts = s.parts := by
  intro r
  refine foldl_keeps (fun t : State => t.ge = s.ge ∧ t.sq = s.sq ∧ t.parts = s.parts) _ ?_ _ s ⟨rfl, rfl, rfl⟩
  rintro t p ⟨ge, sq, parts⟩
  split
  · exact ⟨ge, sq, parts⟩
  · obtain ⟨vge, vsq, vparts⟩ := t.violation_onlyFields m kind p.1 tag
    exact ⟨vge.trans ge, vsq.trans sq, vparts.trans parts⟩

/-- A walk reads the lines, the fences and the partitions. -/
theorem State.walk_of (lines : t.ge.lines = s.ge.lines) (fences : t.ge.fences = s.ge.fences) (parts : t.parts = s.parts) (p fuel h : Nat) :
    t.walk p fuel h = s.walk p fuel h := by
  have line : ∀ k, t.line k = s.line k := fun k => by rw [State.line, lines, State.line]
  have fenced : ∀ k, t.fenced k = s.fenced k := fun k => by rw [State.fenced, fences, State.fenced]
  have root : ∀ q n, t.scopeRoot q n = s.scopeRoot q n := fun q n => by simp only [State.scopeRoot, State.part, parts]
  induction fuel generalizing h with
  | zero => rfl
  | succ fuel ih => simp only [State.walk, line, fenced, root, ih]

/-- The sweeper at a line whose MPU answer is `ok`. -/
def State.sweepAt (s : State) (k : Nat) (l : KeyLine) (ok : Bool) : State :=
  if ok ∧ l.live ∧ !s.fenced k ∧ (s.walk (linePart k) 8 (lineHandle k)).2 = .orphaned then (s.writeLine k (s.tombstone k)).1.countSat R.GEO_SWEEP_RECLAIM
  else s

theorem sweeperAt {k : Nat} {l : KeyLine} (on : s.get R.GEO_SWEEP_EN ≠ 0) (next : s.ge.lines.find? (fun e => s.ge.swept < e.1 + 1) = some (k, l)) :
    ∃ t : State, exec .sweeperStep s = .next (t.sweepAt k l ((pieces (128 * s.tablePlace k) 128).all fun p => s.piecePermitted 13 .read p.1 0)) ∧
      t.ge = { s.ge with swept := k + 1 } ∧ t.sq = s.sq ∧ t.parts = s.parts := by
  obtain ⟨ge, sq, parts⟩ := State.mpuCheck_spec { s with ge.swept := k + 1 } 13 .read (128 * s.tablePlace k) 128 0
  refine ⟨(State.mpuCheck { s with ge.swept := k + 1 } 13 .read (128 * s.tablePlace k) 128 0).2.set R.GEO_SWEEP_LINE (handleIndex (lineHandle k)), ?_, ge, sq, parts⟩
  change execSweeperStep s = _
  unfold execSweeperStep
  rw [if_neg on, next]
  exact (apply_ite Host.Outcome.next _ _ _).symm

theorem sweeperReclaims {k : Nat} {l : KeyLine} (on : s.get R.GEO_SWEEP_EN ≠ 0)
    (next : s.ge.lines.find? (fun e => s.ge.swept < e.1 + 1) = some (k, l)) :
    ∃ t, exec .sweeperStep s = .next t ∧ t.ge.swept = k + 1 ∧
      (if ((pieces (128 * s.tablePlace k) 128).all fun p => s.piecePermitted 13 .read p.1 0) = true ∧
          l.live = true ∧ s.fenced k = false ∧ (s.walk (linePart k) 8 (lineHandle k)).2 = .orphaned
       then (t.line k).live = false ∧ (t.line k).gen = ((s.line k).gen + 1) % 2 ^ 24 else t.ge.lines = s.ge.lines) ∧ t.sq = s.sq := by
  obtain ⟨u, acts, ge, sq, parts⟩ := sweeperAt on next
  generalize ((pieces (128 * s.tablePlace k) 128).all fun p => s.piecePermitted 13 .read p.1 0) = ok at acts ⊢
  have fenced : u.fenced k = s.fenced k := by rw [State.fenced, ge, State.fenced]
  have walk : u.walk (linePart k) 8 (lineHandle k) = s.walk (linePart k) 8 (lineHandle k) := State.walk_of (by rw [ge]) (by rw [ge]) parts ..
  have line : u.line k = s.line k := by rw [State.line, ge, State.line]
  refine ⟨_, acts, ?_⟩
  by_cases goes : ok = true ∧ l.live = true ∧ s.fenced k = false ∧ (s.walk (linePart k) 8 (lineHandle k)).2 = .orphaned
  · obtain ⟨may, live, free, orphan⟩ := goes
    rw [if_pos ⟨may, live, free, orphan⟩]
    have swept : u.sweepAt k l ok = (u.writeLine k (u.tombstone k)).1.countSat R.GEO_SWEEP_RECLAIM :=
      if_pos ⟨may, live, by rw [fenced, free]; rfl, by rw [walk]; exact orphan⟩
    obtain ⟨wsq, wge, -⟩ := (endKeeps_iff _ _).mp (u.writeLine_keeps k (u.tombstone k))
    have written : ((u.writeLine k (u.tombstone k)).1.countSat R.GEO_SWEEP_RECLAIM).line k = u.tombstone k := u.writeLine_line_same k _
    rw [swept, written]
    refine ⟨?_, ⟨rfl, ?_⟩, ?_⟩
    · exact (congrArg Geode.swept wge).trans (by rw [ge])
    · rw [State.tombstone, line]
    · exact wsq.trans sq
  · rw [if_neg goes]
    have stays : u.sweepAt k l ok = u := if_neg (by rw [fenced, walk]; simpa using goes)
    rw [stays]
    exact ⟨by rw [ge], by rw [ge], sq⟩

theorem sweeperPass : (s.get R.GEO_SWEEP_EN = 0 → exec .sweeperStep s = .next s) ∧
    (s.get R.GEO_SWEEP_EN ≠ 0 → s.ge.lines.find? (fun e => s.ge.swept < e.1 + 1) = none → ∃ t, exec .sweeperStep s = .next t ∧ t.ge.swept = 0 ∧
      t.get R.GEO_SWEEP_LINE = 0 ∧ t.get R.GEO_SWEEP_PASS = (s.get R.GEO_SWEEP_PASS + 1) % 2 ^ R.GEO_SWEEP_PASS.width ∧
      t.bit (R.BLK_INT_RAW pgGEO) 1 = true ∧ t.ge.lines = s.ge.lines) := by
  refine ⟨fun off => if_pos off, fun on last => ?_⟩
  have acts : exec .sweeperStep s = .next (((({ s with ge.swept := 0 } : State).set R.GEO_SWEEP_LINE 0).count R.GEO_SWEEP_PASS).raise pgGEO 1) := by
    change execSweeperStep s = _
    unfold execSweeperStep
    rw [if_neg on, last]
  obtain ⟨-, ge, -⟩ := (endKeeps_iff _ _).mp (endKeeps_raise ((({ s with ge.swept := 0 } : State).set R.GEO_SWEEP_LINE 0).count R.GEO_SWEEP_PASS) pgGEO 1)
  refine ⟨_, acts, (congrArg Geode.swept ge).trans rfl, ?_, ?_, State.raise_bit _ pgGEO (by decide), (congrArg Geode.lines ge).trans rfl⟩
  · rw [State.raise_get_ne _ _ _ _ (by decide), State.get_count_ne _ _ _ _ (by decide), State.get_set_same]
    exact Nat.zero_mod _
  · rw [State.raise_get_ne _ _ _ _ (by decide)]
    refine (State.get_set_same _ _ _).trans ?_
    rw [State.get_set_ne _ _ _ _ (by decide)]
    rfl

/-! ## Re-masking (R210, R284) -/

theorem xorBytes_cancel {a b : List Byte} (h : a.length ≤ b.length) : xorBytes (xorBytes a b) b = a := by
  unfold xorBytes
  induction a generalizing b with
  | nil => rfl
  | cons v a ih =>
    cases b with
    | nil => cases h
    | cons m b =>
      simp only [List.zipWith_cons_cons]
      rw [ih (by simpa using h), BitVec.xor_assoc, BitVec.xor_self, BitVec.xor_zero]

/-- What two wires stand for under a mask as long as theirs. -/
theorem Masked.clear_remasked (v : Masked) {mask : List Byte} (h : mask.length = v.mask.length) :
    ({ value := xorBytes (xorBytes v.value v.mask) mask, mask } : Masked).clear = v.clear := by
  refine xorBytes_cancel ?_
  rw [h, xorBytes, List.length_zipWith]
  exact Nat.min_le_right _ _

theorem State.remask_clear (s : State) (n : Nat) (v : Masked) : (s.remask n v).1.clear = v.clear := v.clear_remasked (by simp)

theorem State.remask_ctx (s : State) (n : Nat) (v : Masked) (j : Nat) : (s.remask n v).2.ctx j = s.ctx j := rfl

theorem mmkRemasks : let due := s.ob.maskTime + (if s.ob.onMain then 200000000 else 20000000000)
    (s.ob.osc < due → exec .mmkRemask s = .next s) ∧
    (due ≤ s.ob.osc → ∃ v : Masked, v.clear = s.ob.wires.clear ∧
      exec .mmkRemask s = .next { s with ob := { s.ob with wires := v, masks := s.ob.masks + 1, maskTime := s.ob.osc } }) := by
  intro due
  refine ⟨fun early => if_pos early, fun late => ⟨s.ob.remask.wires, s.ob.wires.clear_remasked (by simp), ?_⟩⟩
  exact (if_neg (Nat.not_lt.2 late)).trans rfl

/-- What re-masking a slice changes neither in its entries' pass nor in its slots'. -/
def State.offMasks (s : State) : Sparse KeyLine × Sparse (List Byte) × Sparse Nat × Flint × Nat :=
  (s.ge.lines, s.ge.maskSeeds, s.ge.maskTimes, s.fl, s.quartz)

theorem State.remaskEntry_rest (s : State) (n : Nat) (e : CacheEntry) :
    (s.remaskEntry n e).offMasks = s.offMasks ∧ (s.remaskEntry n e).sq = s.sq := ⟨rfl, rfl⟩

theorem State.remaskEntry_cacheOf (s : State) (n : Nat) (e : CacheEntry) : (s.remaskEntry n e).cacheOf n =
    (s.cacheOf n).map fun d => if d.line = e.line then { d with material := (s.remask n e.material).1 } else d :=
  State.cacheOf_setCache_same ..

/-- The entries of `es` re-masked in turn: each entry of the slice keeps what its own stood for. -/
theorem remaskEntries (n : Nat) (es : List CacheEntry) (nodup : (es.map (·.line)).Nodup) (s : State) {i : Nat} {d : CacheEntry} (at_ : (s.cacheOf n)[i]? = some d) :
    ∃ v : Masked, ((es.foldl (fun s e => s.remaskEntry n e) s).cacheOf n)[i]? = some { d with material := v } ∧
      (∀ e ∈ es, e.line = d.line → v.clear = e.material.clear) ∧ (d.line ∉ es.map (·.line) → v = d.material) := by
  induction es generalizing s d with
  | nil => exact ⟨d.material, at_, fun e he => absurd he List.not_mem_nil, fun _ => rfl⟩
  | cons e es ih =>
    obtain ⟨fresh, rest⟩ := List.nodup_cons.1 nodup
    have there : ((s.remaskEntry n e).cacheOf n)[i]? = some (if d.line = e.line then { d with material := (s.remask n e.material).1 } else d) := by
      rw [State.remaskEntry_cacheOf, List.getElem?_map, at_]; rfl
    obtain ⟨v, entry, mine, other⟩ := ih rest (s.remaskEntry n e) there
    by_cases same : d.line = e.line
    · simp only [if_pos same] at entry mine other
      have kept := other (by rw [same]; exact fresh)
      refine ⟨v, entry, fun f hf line => ?_, fun out => absurd (by rw [same]; exact List.mem_cons_self) out⟩
      rcases List.mem_cons.1 hf with rfl | hf
      · rw [kept]; exact s.remask_clear n _
      · exact mine f hf line
    · simp only [if_neg same] at entry mine other
      refine ⟨v, entry, fun f hf line => ?_, fun out => other fun h => out (List.mem_cons_of_mem _ h)⟩
      rcases List.mem_cons.1 hf with rfl | hf
      · exact absurd line.symm same
      · exact mine f hf line

theorem remaskEntries_rest (n : Nat) (es : List CacheEntry) (s : State) :
    (es.foldl (fun s e => s.remaskEntry n e) s).offMasks = s.offMasks ∧ (es.foldl (fun s e => s.remaskEntry n e) s).sq = s.sq :=
  foldl_keeps (fun t : State => t.offMasks = s.offMasks ∧ t.sq = s.sq) _ (fun t e h => ⟨(t.remaskEntry_rest n e).1.trans h.1, h.2⟩) es s ⟨rfl, rfl⟩

/-- The slots of every context stand for what they stood for, and nothing else of a context or a slice differs. -/
structure SlotsRemasked (s t : State) : Prop where
  rest : t.offMasks = s.offMasks
  slices : t.ge.slices = s.ge.slices
  ctx : ∀ j, t.ctx j = { s.ctx j with keys := (t.ctx j).keys }
  keys : ∀ (j i : Nat) (y : KeySlot), (s.ctx j).keys.getD i none = some y →
    ∃ v : Masked, (t.ctx j).keys.getD i none = some { y with held := v } ∧ v.clear = y.held.clear

theorem SlotsRemasked.refl : SlotsRemasked s s := ⟨rfl, rfl, fun _ => rfl, fun _ _ y h => ⟨y.held, h, rfl⟩⟩

theorem SlotsRemasked.trans (h : SlotsRemasked s t) (k : SlotsRemasked t u) : SlotsRemasked s u where
  rest := k.rest.trans h.rest
  slices := k.slices.trans h.slices
  ctx j := by rw [k.ctx j, h.ctx j]
  keys j i y hy := by
    obtain ⟨v, slot, clear⟩ := h.keys j i y hy
    obtain ⟨v', slot', clear'⟩ := k.keys j i _ slot
    exact ⟨v', slot', clear'.trans clear⟩

theorem State.remaskSlot_remasked (s : State) (n k i : Nat) : SlotsRemasked s (s.remaskSlot n k i) := by
  unfold State.remaskSlot
  split
  · exact .refl
  next y own =>
    have own : (s.ctx k).keys.getD i none = some y := (Option.filter_eq_some_iff.1 own).1
    refine ⟨rfl, rfl, fun j => ?_, fun j l z hz => ?_⟩
    · by_cases same : k = j
      · subst same; rw [State.ctx_updCtx_same]; rfl
      · rw [State.ctx_updCtx_ne _ _ _ _ same]; rfl
    · by_cases same : k = j
      · subst same
        rw [State.ctx_updCtx_same]
        by_cases slot : i = l
        · subst slot
          cases own.symm.trans hz
          refine ⟨(s.remask n y.held).1, ?_, s.remask_clear n _⟩
          have inside : i < (s.ctx k).keys.length := by
            by_contra out
            rw [List.getD_eq_default _ _ (Nat.not_lt.1 out)] at own
            cases own
          simp [List.getD_eq_getElem?_getD, State.remask_ctx, inside]
        · refine ⟨z.held, ?_, rfl⟩
          simpa [List.getD_eq_getElem?_getD, State.remask_ctx, List.getElem?_set_ne slot] using hz
      · rw [State.ctx_updCtx_ne _ _ _ _ same]
        exact ⟨z.held, hz, rfl⟩

/-- A slice's mask generator takes its seed where there is one, and notes the time. -/
def State.remaskSeeded (s : State) (n : Nat) (fed : Bool) : State :=
  let r := if fed then s.takeQueue n 32 else (Sparse.get [] s.ge.maskSeeds n, s)
  { r.2 with ge.maskSeeds := Sparse.set [] r.2.ge.maskSeeds n r.1, ge.maskTimes := Sparse.set 0 r.2.ge.maskTimes n r.2.quartz }

/-- The slots of a cluster's contexts re-masked. -/
def State.remaskSlots (s : State) (n : Nat) : State :=
  (s.busyIn n).foldl (fun s e => (List.range 4).foldl (fun s i => s.remaskSlot n e.1 i) s) s

theorem State.remaskSlots_remasked (s : State) (n : Nat) : SlotsRemasked s (s.remaskSlots n) :=
  foldl_keeps (SlotsRemasked s) _
    (fun t e h => foldl_keeps (SlotsRemasked s) _ (fun u i h => h.trans (u.remaskSlot_remasked n e.1 i)) (List.range 4) t h) (s.busyIn n) s .refl

/-- The entries and the slots of a slice re-masked. -/
def State.remasked (s : State) (n : Nat) : State := State.remaskSlots ((s.cacheOf n).foldl (fun s e => s.remaskEntry n e) s) n

theorem execRemaskPeriod_body (n : Fin 16) (seeded : Bool) (due : Sparse.get 0 s.ge.maskTimes n + 1000000 * s.remaskMs ≤ s.quartz) (ready : s.fl.everReady = true) :
    let fed := seeded && decide (32 ≤ s.queueFill n)
    let t := ((s.remaskSeeded n fed).remasked n).count (R.KCS_REMASK_PASS n)
    exec (.remaskPeriod n seeded) s = .next (if fed then t else t.raise (pgKCS n) 1) := by
  intro fed t
  change execRemaskPeriod n seeded s = _
  unfold execRemaskPeriod
  rw [if_neg (by rw [ready]; simp; omega)]
  rfl

theorem State.remaskSeeded_spec (s : State) (n : Nat) (fed : Bool) : let t := s.remaskSeeded n fed
    Sparse.get [] t.ge.maskSeeds n = (if fed then (s.queue n).take 32 else Sparse.get [] s.ge.maskSeeds n) ∧
      t.queue n = (if fed then (s.queue n).drop 32 else s.queue n) ∧ Sparse.get 0 t.ge.maskTimes n = s.quartz ∧ t.ge.lines = s.ge.lines ∧
      t.ge.slices = s.ge.slices ∧ t.sq = s.sq := by
  intro t
  cases fed
  · exact ⟨Sparse.get_set_same .., rfl, Sparse.get_set_same .., rfl, rfl, rfl⟩
  · exact ⟨Sparse.get_set_same .., State.queue_setQueue_same .., Sparse.get_set_same .., rfl, rfl, rfl⟩

theorem remaskPeriods (n : Fin 16) (seeded : Bool) : let fed := seeded = true ∧ 32 ≤ s.queueFill n
    (s.quartz < Sparse.get 0 s.ge.maskTimes n + 1000000 * s.remaskMs ∨ s.fl.everReady = false → exec (.remaskPeriod n seeded) s = .next s) ∧
    (Sparse.get 0 s.ge.maskTimes n + 1000000 * s.remaskMs ≤ s.quartz → s.fl.everReady = true →
      ∃ t, exec (.remaskPeriod n seeded) s = .next t ∧ t.ge.lines = s.ge.lines ∧
        (((s.cacheOf n).map (·.line)).Nodup → ∀ (i : Nat) (e : CacheEntry), (s.cacheOf n)[i]? = some e →
          ∃ v : Masked, (t.cacheOf n)[i]? = some { e with material := v } ∧ v.clear = e.material.clear) ∧
        (∀ j, t.ctx j = { s.ctx j with keys := (t.ctx j).keys }) ∧
        (∀ (j i : Nat) (y : KeySlot), (s.ctx j).keys.getD i none = some y →
          ∃ v : Masked, (t.ctx j).keys.getD i none = some { y with held := v } ∧ v.clear = y.held.clear) ∧
        Sparse.get [] t.ge.maskSeeds n = (if fed then (s.queue n).take 32 else Sparse.get [] s.ge.maskSeeds n) ∧
        t.queue n = (if fed then (s.queue n).drop 32 else s.queue n) ∧ Sparse.get 0 t.ge.maskTimes n = s.quartz ∧
        (¬ fed → t.bit (R.BLK_INT_RAW (pgKCS n)) 1 = true)) := by
  intro fed
  refine ⟨fun idle => if_pos (by simpa using idle), fun due ready => ?_⟩
  refine ⟨_, execRemaskPeriod_body n seeded due ready, ?_⟩
  have same : (seeded && decide (32 ≤ s.queueFill n)) = decide fed := by simp [fed]
  rw [same]
  obtain ⟨seeds, queue, times, lines, slices, sq⟩ := s.remaskSeeded_spec n (decide fed)
  generalize s.remaskSeeded n (decide fed) = u at seeds queue times lines slices sq ⊢
  have cache : u.cacheOf n = s.cacheOf n := by rw [State.cacheOf, slices, State.cacheOf]
  have entries := fun (nodup : ((s.cacheOf n).map (·.line)).Nodup) i e (at_ : (s.cacheOf n)[i]? = some e) =>
    remaskEntries n (s.cacheOf n) nodup u (by rw [cache]; exact at_)
  obtain ⟨rest, esq⟩ := remaskEntries_rest n (s.cacheOf n) u
  have remasked : u.remasked n = State.remaskSlots ((s.cacheOf n).foldl (fun s e => s.remaskEntry n e) u) n := by rw [State.remasked, cache]
  rw [remasked]
  generalize (s.cacheOf n).foldl (fun s e => s.remaskEntry n e) u = v at entries rest esq
  obtain ⟨srest, sslices, sctx, skeys⟩ := v.remaskSlots_remasked n
  generalize v.remaskSlots n = w at srest sslices sctx skeys
  have off := srest.trans rest
  have wctx : ∀ j, v.ctx j = s.ctx j := fun j => by rw [State.ctx, esq, sq, State.ctx]
  have late : ¬fed → (if decide fed = true then w.count (R.KCS_REMASK_PASS n) else (w.count (R.KCS_REMASK_PASS n)).raise (pgKCS n) 1).bit
      (R.BLK_INT_RAW (pgKCS n)) 1 = true := fun starved => by
    rw [if_neg (by simpa using starved)]
    exact State.raise_bit _ (pgKCS n) (by decide)
  have ends : ∃ t : State, t = (if decide fed = true then w.count (R.KCS_REMASK_PASS n) else (w.count (R.KCS_REMASK_PASS n)).raise (pgKCS n) 1) ∧
      t.ge = w.ge ∧ t.sq = w.sq ∧ t.fl = w.fl := by
    refine ⟨_, rfl, ?_⟩
    split
    · exact ⟨rfl, rfl, rfl⟩
    · rw [(State.raise_onlyFields _ _ _).2.2]; exact ⟨rfl, rfl, rfl⟩
  obtain ⟨t, is, tge, tsq, tfl⟩ := ends
  rw [← is] at late ⊢
  simp only [State.offMasks, Prod.mk.injEq] at off
  obtain ⟨olines, oseeds, otimes, ofl, -⟩ := off
  have tctx : ∀ j, t.ctx j = w.ctx j := fun j => by rw [State.ctx, tsq, State.ctx]
  refine ⟨by rw [tge, olines, lines], fun nodup i e at_ => ?_, fun j => ?_, fun j i y slot => ?_, ?_, ?_, by rw [tge, otimes, times], late⟩
  · obtain ⟨m, entry, mine, -⟩ := entries nodup i e at_
    refine ⟨m, ?_, mine e (List.mem_of_getElem? at_) rfl⟩
    rw [State.cacheOf, tge, sslices]
    exact entry
  · rw [tctx, sctx, wctx]
  · rw [tctx]
    exact skeys j i y (by rw [wctx]; exact slot)
  · rw [tge, oseeds, seeds]; simp only [decide_eq_true_eq]
  · rw [State.queue, tfl, ofl, ← State.queue, queue]; simp only [decide_eq_true_eq]

/-- Settles O35: fills, fences, the sweeper and re-masking, each by what decides it. -/
theorem keyStoreWorksOnItsOwn : Obligations.KeyStoreWorksOnItsOwn := by
  refine ⟨?_, ?_, fun i f s at_ => fenceCompletes at_, fun i f s at_ => fenceOvertimes at_, fun k l s on next => sweeperReclaims on next,
    fun s => sweeperPass, fun n seeded s => remaskPeriods n seeded, fun s => mmkRemasks⟩
  · intro c i macBad s k x q bad run here cls op ready waits
    exact keyFills macBad run here cls op ready waits
  · intro c field s k x key mark run at_ waits first
    obtain ⟨held, open_⟩ := fenceRaises run at_ waits first
    refine ⟨held, fun free room => ?_⟩
    obtain ⟨refused, passes⟩ := open_ free room
    exact ⟨refused, fun passed => ⟨_, passes passed, s.fenceRaised_spec k key⟩⟩

end Sys2Proof.Machine
end

section
/-! SUPPORT. Flint: cells that fail and return, seeds collected, instances instantiated, discarded and drawn from (R221-R237). -/
namespace Sys2Proof.Machine

variable {s t u : State} {n : Nat}

/-! ## Cells and instances after a write -/

theorem State.cell_updCell_ne (s : State) {c d : Nat} (f : Cell → Cell) (h : c ≠ d) : (s.updCell c f).cell d = s.cell d := Sparse.get_upd_ne _ _ _ h

theorem State.drbg_updDrbg_ne (s : State) {n m : Nat} (f : Drbg → Drbg) (h : n ≠ m) : (s.updDrbg n f).drbg m = s.drbg m := Sparse.get_upd_ne _ _ _ h

theorem State.cell_of_fl (h : t.fl.cells = s.fl.cells) (c : Nat) : t.cell c = s.cell c := by rw [State.cell, h, State.cell]
theorem State.drbg_of_fl (h : t.fl.drbgs = s.fl.drbgs) (n : Nat) : t.drbg n = s.drbg n := by rw [State.drbg, h, State.drbg]
theorem State.queue_of_fl (h : t.fl.queues = s.fl.queues) (n : Nat) : t.queue n = s.queue n := by rw [State.queue, h, State.queue]

theorem State.dropSeed_rest (s : State) (n : Nat) :
    s.dropSeed n = { s with fl := { s.fl with seed := (s.dropSeed n).fl.seed, seedFor := (s.dropSeed n).fl.seedFor, seedFrom := (s.dropSeed n).fl.seedFrom } } := by
  unfold State.dropSeed
  split <;> rfl

/-! ## Discards (R231) -/

@[simp] theorem State.endAt_endView (s : State) (k st det : Nat) (ok : Option Bool) : (s.endAt k st det ok).endView = s.endView := by simp [State.endAt]

theorem State.fl_of_endView (h : t.endView = s.endView) : t.fl = s.fl := by
  have := congrArg State.fl (State.offEnds_of_endView h)
  exact this

theorem State.quartz_of_endView (h : t.endView = s.endView) : t.quartz = s.quartz := by
  have := congrArg State.quartz (State.offEnds_of_endView h)
  exact this

/-- The counters a discard moves. -/
def discardFields : List Field := [R.FLT_FAILED_CNT, R.FLT_DISCARD_CNT]

/-- The instances of `ns` are discarded; no cell, nor any other register a command's end leaves alone, differs. -/
structure Discarded (ns : List Nat) (s t : State) : Prop where
  cells : t.fl.cells = s.fl.cells
  quartz : t.quartz = s.quartz
  regs : ∀ f, offEnd f = true → (∀ g ∈ discardFields, g.key ≠ f.key) → t.get f = s.get f
  gone : ∀ n ∈ ns, (t.drbg n).ready = false ∧ t.queue n = []
  stays : ∀ n, (s.drbg n).ready = false ∧ s.queue n = [] → (t.drbg n).ready = false ∧ t.queue n = []

theorem Discarded.refl : Discarded [] s s := ⟨rfl, rfl, fun _ _ _ => rfl, fun _ hn => absurd hn List.not_mem_nil, fun _ h => h⟩

theorem Discarded.trans {ns ms : List Nat} (h : Discarded ns s t) (k : Discarded ms t u) : Discarded (ns ++ ms) s u where
  cells := k.cells.trans h.cells
  quartz := k.quartz.trans h.quartz
  regs f off out := (k.regs f off out).trans (h.regs f off out)
  gone n hn := (List.mem_append.1 hn).elim (fun hn => k.stays n (h.gone n hn)) (k.gone n)
  stays n hn := k.stays n (h.stays n hn)

/-- A draw that waits on a discarded instance ends with RNG_FAILED. -/
theorem Discarded.draw (k : Nat) : Discarded [] s ((s.countSat R.FLT_FAILED_CNT).endAt k stRngFailed 0) := by
  have view := (s.countSat R.FLT_FAILED_CNT).endAt_endView k stRngFailed 0 none
  have fl : ((s.countSat R.FLT_FAILED_CNT).endAt k stRngFailed 0).fl = s.fl := (State.fl_of_endView view).trans rfl
  refine ⟨by rw [fl], (State.quartz_of_endView view).trans rfl, fun f off out => ?_, fun _ hn => absurd hn List.not_mem_nil, fun n h => ?_⟩
  · rw [State.get_of_endView view off]
    exact State.get_countSat_ne _ _ _ _ (out _ (by simp [discardFields]))
  · rw [State.drbg, State.queue, fl]; exact h

theorem State.dropSeed_drbg (s : State) (n m : Nat) : (s.dropSeed n).drbg m = s.drbg m := State.drbg_of_fl (by rw [s.dropSeed_rest n]) m
theorem State.dropSeed_queue (s : State) (n m : Nat) : (s.dropSeed n).queue m = s.queue m := State.queue_of_fl (by rw [s.dropSeed_rest n]) m
theorem State.dropSeed_get (s : State) (n : Nat) (f : Field) : (s.dropSeed n).get f = s.get f := by rw [s.dropSeed_rest n]; rfl

/-- The queue and the internal state of an instance gone. -/
theorem State.cleared_gone (s : State) (n : Nat) (f : Drbg → Drbg) (down : ∀ d, (f d).ready = false) (m : Nat) (h : m = n ∨ (s.drbg m).ready = false ∧ s.queue m = []) :
    (((s.updDrbg n f).setQueue n []).drbg m).ready = false ∧ ((s.updDrbg n f).setQueue n []).queue m = [] := by
  have drbg : ((s.updDrbg n f).setQueue n []).drbg m = (s.updDrbg n f).drbg m := State.drbg_of_fl rfl m
  rw [drbg]
  by_cases same : n = m
  · subst same
    exact ⟨by rw [State.drbg_updDrbg_same]; exact down _, State.queue_setQueue_same ..⟩
  · obtain ⟨off, empty⟩ := h.resolve_left fun e => same e.symm
    exact ⟨by rw [State.drbg_updDrbg_ne _ _ same]; exact off, (Sparse.get_set_ne [] [] s.fl.queues [] same).trans empty⟩

theorem Discarded.one (s : State) (n : Nat) : Discarded [n] s (s.discardQueue n) := by
  have cleared : Discarded [n] s ((((s.updDrbg n fun d => { d with ready := false, cells := 0, reseeding := false, requests := 0, core := {} }).setQueue n []).dropSeed n).countSat
      R.FLT_DISCARD_CNT) := by
    have gone := s.cleared_gone n (fun d => { d with ready := false, cells := 0, reseeding := false, requests := 0, core := {} }) fun _ => rfl
    generalize mid : (s.updDrbg n fun d => { d with ready := false, cells := 0, reseeding := false, requests := 0, core := {} }).setQueue n [] = v at gone
    have counted : ∀ m, (((v.dropSeed n).countSat R.FLT_DISCARD_CNT).drbg m) = v.drbg m ∧ ((v.dropSeed n).countSat R.FLT_DISCARD_CNT).queue m = v.queue m := fun m =>
      ⟨(State.drbg_of_fl rfl m).trans (v.dropSeed_drbg n m), (State.queue_of_fl rfl m).trans (v.dropSeed_queue n m)⟩
    have kept : ((v.dropSeed n).countSat R.FLT_DISCARD_CNT).fl.cells = s.fl.cells ∧ ((v.dropSeed n).countSat R.FLT_DISCARD_CNT).quartz = s.quartz := by
      rw [v.dropSeed_rest n, ← mid]
      exact ⟨rfl, rfl⟩
    refine ⟨kept.1, kept.2, fun f _ out => ?_, fun m hm => ?_, fun m h => ?_⟩
    · rw [State.get_countSat_ne _ _ _ _ (out R.FLT_DISCARD_CNT (by simp [discardFields])), State.dropSeed_get, ← mid]
      rfl
    · rw [(counted m).1, (counted m).2]
      exact gone m (.inl (List.mem_singleton.1 hm))
    · rw [(counted m).1, (counted m).2]
      exact gone m (.inr h)
  unfold State.discardQueue
  dsimp only
  generalize (s.drawsOf n ++ s.unitDraws n ++ s.stalledDraws n).eraseDups = draws
  exact foldl_keeps (Discarded [n] s) _ (fun t k h => by simpa using h.trans (Discarded.draw k)) draws _ cleared

theorem Discarded.fold (ns : List Nat) (s : State) : Discarded ns s (ns.foldl (fun s n => s.discardQueue n) s) := by
  induction ns generalizing s with
  | nil => exact .refl
  | cons n ns ih => exact (Discarded.one s n).trans (ih _)

/-- The instances hit are discarded. -/
theorem State.discardAll_spec (s : State) (hit : Nat → Bool) :
    let t := s.discardAll hit
    t.fl.cells = s.fl.cells ∧ t.quartz = s.quartz ∧
      (∀ f, offEnd f = true → (∀ g ∈ R.BLK_INT_RAW pgFLT :: discardFields, g.key ≠ f.key) → t.get f = s.get f) ∧
      (∀ j < 32, s.bit (R.BLK_INT_RAW pgFLT) j = true → t.bit (R.BLK_INT_RAW pgFLT) j = true) ∧
      (∀ n < 16, hit n = true → s.ccPowered n = true → (t.drbg n).ready = false ∧ t.queue n = []) := by
  intro t
  have many := Discarded.fold ((List.range 16).filter fun n => hit n && s.ccPowered n) s
  have mem : ∀ n < 16, hit n = true → s.ccPowered n = true → n ∈ (List.range 16).filter fun n => hit n && s.ccPowered n := fun n hn h p =>
    List.mem_filter.2 ⟨List.mem_range.2 hn, by simp [h, p]⟩
  have is : t = if ((List.range 16).filter fun n => hit n && s.ccPowered n).isEmpty then s
    else (((List.range 16).filter fun n => hit n && s.ccPowered n).foldl (fun s n => s.discardQueue n) s).raise pgFLT 2 := rfl
  generalize ((List.range 16).filter fun n => hit n && s.ccPowered n) = ns at many mem is
  by_cases none_ : ns.isEmpty = true
  · rw [if_pos none_] at is
    rw [List.isEmpty_iff] at none_
    rw [is]
    exact ⟨rfl, rfl, fun _ _ _ => rfl, fun _ _ h => h, fun n hn h p => absurd (mem n hn h p) (by rw [none_]; exact List.not_mem_nil)⟩
  · rw [if_neg none_] at is
    generalize ns.foldl (fun s n => s.discardQueue n) s = v at many is
    obtain ⟨-, -, only⟩ := v.raise_onlyFields pgFLT 2
    have fl : t.fl = v.fl := by rw [is, only]
    have quartz : t.quartz = v.quartz := by rw [is, only]
    refine ⟨by rw [fl]; exact many.cells, quartz.trans many.quartz, fun f off out => ?_, fun j hj set => ?_, fun n hn h p => ?_⟩
    · rw [is, State.raise_get_ne _ _ _ _ (out _ (by simp))]
      exact many.regs f off fun g hg => out g (List.mem_cons_of_mem _ hg)
    · rw [is, v.raise_raised pgFLT 2 j hj, Bool.or_eq_true]
      refine .inl ?_
      rw [State.bit, many.regs _ (by decide) (by decide)]
      exact set
    · rw [State.drbg_of_fl (s := v) (t := t) (by rw [fl]), State.queue_of_fl (s := v) (t := t) (by rw [fl])]
      exact many.gone n (mem n hn h p)

/-! ## A failure counted (R233) -/

/-- The fields that counting a failure writes. -/
def failureFields : List Field := [R.BLK_INT_RAW pgFLT, R.FLT_ENV_RNG_CNT, R.AGT_OPEN_SEV]

theorem State.raiseInput_fl (s : State) (i : Nat) : (s.raiseInput i).fl = s.fl := show (s.raiseInput i).offNotes.fl = s.offNotes.fl from by rw [s.raiseInput_offNotes]
theorem State.raiseInput_quartz (s : State) (i : Nat) : (s.raiseInput i).quartz = s.quartz := show (s.raiseInput i).offNotes.quartz = s.offNotes.quartz from by rw [s.raiseInput_offNotes]
theorem State.raise_fl (s : State) (p i : Nat) : (s.raise p i).fl = s.fl := show (s.raise p i).offNotes.fl = s.offNotes.fl from by rw [s.raise_offNotes]
theorem State.raise_quartz (s : State) (p i : Nat) : (s.raise p i).quartz = s.quartz := show (s.raise p i).offNotes.quartz = s.offNotes.quartz from by rw [s.raise_offNotes]

/-- What counting a health failure leaves and raises. -/
structure FailureCounted (s t : State) : Prop where
  fl : t.fl = { s.fl with failures := t.fl.failures }
  quartz : t.quartz = s.quartz
  spared : ∀ fs, (∀ g ∈ failureFields, apart fs g) → spares fs s t
  raw : ∀ j < 32, s.bit (R.BLK_INT_RAW pgFLT) j = true ∨ j = 1 → t.bit (R.BLK_INT_RAW pgFLT) j = true

theorem State.countFailure_spec (s : State) : FailureCounted s s.countFailure := by
  have noted : ∀ ts, FailureCounted s (({ s with fl := { s.fl with failures := ts } } : State).raise pgFLT 1) := fun ts => by
    generalize mid : ({ s with fl := { s.fl with failures := ts } } : State) = v
    have regs : v.regs = s.regs := by rw [← mid]
    refine ⟨by rw [v.raise_fl, ← mid], by rw [v.raise_quartz, ← mid], fun fs off => ?_, fun j hj set => ?_⟩
    · exact .raise (.update .refl regs) (off _ (by simp [failureFields]))
    · rw [v.raise_raised pgFLT 1 j hj]
      refine set.elim (fun h => ?_) fun h => by simp [h]
      rw [State.bit, State.get, regs, Bool.or_eq_true]
      exact .inl h
  unfold State.countFailure
  dsimp only
  generalize (s.fl.failures ++ [s.quartz]).filter (fun t => s.quartz ≤ t + 1000000000) = recent
  have first := noted recent
  split
  · generalize ({ s with fl := { s.fl with failures := recent } } : State).raise pgFLT 1 = v at first
    have fl : (((v.countSat R.FLT_ENV_RNG_CNT).raise pgFLT 3).raiseInput 15).fl = v.fl := by rw [State.raiseInput_fl, State.raise_fl]; rfl
    refine ⟨by rw [fl]; exact first.fl, by rw [State.raiseInput_quartz, State.raise_quartz]; exact first.quartz, fun fs off => ?_, fun j hj set => ?_⟩
    · have counted : spares fs s ((v.countSat R.FLT_ENV_RNG_CNT).raise pgFLT 3) :=
        .raise (.set (first.spared fs off) (off _ (by simp [failureFields]))) (off _ (by simp [failureFields]))
      exact counted.trans (State.raiseInput_spares _ (off _ (by simp [failureFields])))
    · have counted : spares [R.BLK_INT_RAW pgFLT] v (v.countSat R.FLT_ENV_RNG_CNT) := .set .refl (by simp [apart]; decide)
      have still : ((v.countSat R.FLT_ENV_RNG_CNT).raise pgFLT 3).bit (R.BLK_INT_RAW pgFLT) j = true :=
        State.raise_still hj ((counted.bit (by simp) j).trans (first.raw j hj set))
      exact ((State.raiseInput_spares (fs := [R.BLK_INT_RAW pgFLT]) _ (by simp [apart]; decide)).bit (by simp) j).trans still
  · exact first

/-! ## A cell that fails (R223, R231, R232) -/

/-- A failure of cell `c` noted in its counter, the last-failure record and Agate. -/
def State.failNoted (s : State) (c test : Nat) : State :=
  let s := s.countSat (if test = 0 then R.FLT_RCT_FAIL c else R.FLT_APT_FAIL c)
  let s := s.lastFailure c test false
  if s.healthy = 8 ∧ s.get R.FLT_READY = 1 then s.severity 2 else s

/-- A cell that failed, trimmed and tested anew. -/
def Cell.restarted (now : Nat) (x : Cell) : Cell := { x.leave with start := true, restarts := 0, due := now + 110240 }

/-- Cell `c` out of the rotation, Flint not ready where `few` are left. -/
def State.cellOut (s : State) (c : Nat) (few : Bool) : State :=
  let t := s.updCell c (Cell.restarted s.quartz)
  if few then (t.set R.FLT_READY 0).raise pgFLT 4 else t

theorem State.failCell_eq (s : State) (c test : Nat) : ∃ few, s.failCell c test =
    (((s.failNoted c test).cellOut c few).discardAll fun n => few || (s.failNoted c test).affected c n).countFailure := ⟨_, rfl⟩

/-- The last-failure record after a failure of a cell. -/
theorem State.lastFailure_record (s : State) (c : Fin 8) (test : Nat) (start : Bool) :
    let t := s.lastFailure c test start
    t.get R.FLT_LAST_CELL = c ∧ t.get R.FLT_LAST_TEST = test % 2 ∧ t.get R.FLT_LAST_START = b2n start ∧ t.get R.PWR_CC_OFF = s.get R.PWR_CC_OFF ∧
      t.fl = s.fl ∧ t.quartz = s.quartz := by
  intro t
  have bool : b2n start % 2 = b2n start := by cases start <;> rfl
  refine ⟨?_, ?_, ?_, ?_, rfl, rfl⟩
  · show State.get (State.set (State.set (State.set _ _ _) _ _) _ _) _ = _
    rw [State.get_set_ne _ _ _ _ (by decide), State.get_set_ne _ _ _ _ (by decide), State.get_set_ne _ _ _ _ (by decide), State.get_set_same]
    exact Nat.mod_eq_of_lt c.2
  · show State.get (State.set (State.set (State.set _ _ _) _ _) _ _) _ = _
    rw [State.get_set_ne _ _ _ _ (by decide), State.get_set_ne _ _ _ _ (by decide), State.get_set_same]; rfl
  · show State.get (State.set (State.set (State.set _ _ _) _ _) _ _) _ = _
    rw [State.get_set_ne _ _ _ _ (by decide), State.get_set_same]; exact bool
  · show State.get (State.set (State.set (State.set (State.set _ _ _) _ _) _ _) _ _) _ = _
    simp only [State.get_set_ne _ _ _ _ (show R.FLT_LAST_CORE.key ≠ R.PWR_CC_OFF.key by decide),
      State.get_set_ne _ _ _ _ (show R.FLT_LAST_START.key ≠ R.PWR_CC_OFF.key by decide),
      State.get_set_ne _ _ _ _ (show R.FLT_LAST_TEST.key ≠ R.PWR_CC_OFF.key by decide),
      State.get_set_ne _ _ _ _ (show R.FLT_LAST_CELL.key ≠ R.PWR_CC_OFF.key by decide)]

theorem failCnt_key (c : Fin 8) (b : Prop) [Decidable b] {f : Field} (h : f.key < 32 * 0x60120) : (if b then R.FLT_RCT_FAIL c else R.FLT_APT_FAIL c).key ≠ f.key := by
  split <;> simp only [Field.key, R.FLT_RCT_FAIL, R.FLT_APT_FAIL] at * <;> omega

theorem State.failNoted_spec (s : State) (c : Fin 8) (test : Nat) :
    let t := s.failNoted c test
    t.get R.FLT_LAST_CELL = c ∧ t.get R.FLT_LAST_TEST = test % 2 ∧ (∀ n, t.ccPowered n = s.ccPowered n) ∧ t.fl = s.fl ∧ t.quartz = s.quartz := by
  intro t
  obtain ⟨cell, kind, -, power, fl, quartz⟩ := (s.countSat (if test = 0 then R.FLT_RCT_FAIL c else R.FLT_APT_FAIL c)).lastFailure_record c test false
  rw [State.get_countSat_ne _ _ _ _ (failCnt_key c _ (by decide))] at power
  have is : t = if ((s.countSat (if test = 0 then R.FLT_RCT_FAIL c else R.FLT_APT_FAIL c)).lastFailure c test false).healthy = 8 ∧
      ((s.countSat (if test = 0 then R.FLT_RCT_FAIL c else R.FLT_APT_FAIL c)).lastFailure c test false).get R.FLT_READY = 1 then
    ((s.countSat (if test = 0 then R.FLT_RCT_FAIL c else R.FLT_APT_FAIL c)).lastFailure c test false).severity 2
    else (s.countSat (if test = 0 then R.FLT_RCT_FAIL c else R.FLT_APT_FAIL c)).lastFailure c test false := rfl
  generalize (s.countSat (if test = 0 then R.FLT_RCT_FAIL c else R.FLT_APT_FAIL c)).lastFailure c test false = v at *
  have noted : spares [R.FLT_LAST_CELL, R.FLT_LAST_TEST, R.PWR_CC_OFF] v t := by
    rw [is]
    exact .andIf .refl (.severity .refl (by simp [apart]; decide))
  have fl' : t.fl = v.fl ∧ t.quartz = v.quartz := by
    rw [is]
    split
    · rw [(v.severity_spec 2).2]; exact ⟨rfl, rfl⟩
    · exact ⟨rfl, rfl⟩
  refine ⟨(noted _ (by simp)).trans cell, (noted _ (by simp)).trans kind, fun n => ?_, fl'.1.trans fl, fl'.2.trans quartz⟩
  rw [State.ccPowered, State.bit, noted _ (by simp), power]; rfl

theorem State.cellOut_spec (s : State) (c : Nat) (few : Bool) :
    let t := s.cellOut c few
    t.cell c = (s.cell c).restarted s.quartz ∧ t.fl.drbgs = s.fl.drbgs ∧ t.quartz = s.quartz ∧ spares [R.FLT_LAST_CELL, R.FLT_LAST_TEST, R.PWR_CC_OFF] s t := by
  intro t
  have cell := s.cell_updCell_same c (Cell.restarted s.quartz)
  cases few
  · exact ⟨cell, rfl, rfl, .refl⟩
  · have fl : t.fl = (s.updCell c (Cell.restarted s.quartz)).fl := State.raise_fl ..
    refine ⟨(State.cell_of_fl (by rw [fl]) c).trans cell, by rw [fl]; rfl, State.raise_quartz .., ?_⟩
    exact .raise (.set (.update .refl rfl) (by simp [apart]; decide)) (by simp [apart]; decide)

/-- A cell in the rotation fails: clauses of both tests. -/
theorem State.failCell_spec (s : State) (c : Fin 8) (test : Nat) :
    let t := s.failCell c test
    t.cell c = (s.cell c).restarted s.quartz ∧ t.bit (R.BLK_INT_RAW pgFLT) 1 = true ∧ t.get R.FLT_LAST_CELL = c ∧ t.get R.FLT_LAST_TEST = test % 2 ∧
      ∀ n, bitOf (s.drbg n).cells c = true → n < 16 → s.ccPowered n = true → (t.drbg n).ready = false ∧ t.queue n = [] := by
  intro t
  obtain ⟨few, eq⟩ := s.failCell_eq c test
  obtain ⟨cell, kind, power, fl, quartz⟩ := s.failNoted_spec c test
  have hit : ∀ n, bitOf (s.drbg n).cells c = true → (few || (s.failNoted c test).affected c n) = true := fun n took => by
    rw [State.affected, State.drbg_of_fl (s := s) (by rw [fl]), took]; simp
  obtain ⟨out, drbgs, now, regs⟩ := (s.failNoted c test).cellOut_spec c few
  have gone := ((s.failNoted c test).cellOut c few).discardAll_spec fun n => few || (s.failNoted c test).affected c n
  have is : t = _ := eq
  generalize (fun n => few || (s.failNoted c test).affected c n) = hits at *
  generalize s.failNoted c test = v at *
  generalize v.cellOut c few = w at *
  obtain ⟨cells, same, kept, -, gone⟩ := gone
  have counted := (w.discardAll hits).countFailure_spec
  rw [← is] at counted
  generalize w.discardAll hits = y at *
  have flT := counted.fl
  have last : spares [R.FLT_LAST_CELL, R.FLT_LAST_TEST] y t := counted.spared _ (by simp [failureFields, apart]; decide)
  refine ⟨?_, counted.raw 1 (by decide) (.inr rfl), ?_, ?_, fun n took hn on => ?_⟩
  · rw [State.cell_of_fl (s := w) (by rw [flT]; exact cells), out, State.cell_of_fl (s := s) (by rw [fl]), quartz]
  · rw [last _ (by simp), kept _ (by decide) (by decide), regs _ (by simp), cell]
  · rw [last _ (by simp), kept _ (by decide) (by decide), regs _ (by simp), kind]
  · have on' : w.ccPowered n = true := by rw [State.ccPowered, State.bit, regs _ (by simp), ← on, ← power n]; rfl
    rw [State.drbg_of_fl (s := y) (by rw [flT]), State.queue_of_fl (s := y) (by rw [flT])]
    exact gone n hn (hit n took) on'

/-! ## Bits collected (R223, R224) -/

/-- Released bits were taken: nothing but the cells' next bits, the rotation and the seed differs. -/
structure Collected (s t : State) : Prop where
  cell : ∀ c, (t.cell c).window = (s.cell c).window ∧ (t.cell c).limit = (s.cell c).limit ∧ (t.cell c).ok = (s.cell c).ok
  grows : t.fl.seedFor = s.fl.seedFor → s.fl.seed <+: t.fl.seed
  fits : s.fl.seed.length ≤ 427 → t.fl.seed.length ≤ 427
  only : t = { s with fl := { s.fl with cells := t.fl.cells, turn := t.fl.turn, seedFor := t.fl.seedFor, seed := t.fl.seed, seedFrom := t.fl.seedFrom } }

theorem Collected.refl : Collected s s := ⟨fun _ => ⟨rfl, rfl, rfl⟩, fun _ => List.prefix_rfl, id, rfl⟩

theorem State.collectBits_seedFor (fuel : Nat) (s : State) : (State.collectBits fuel s).fl.seedFor = s.fl.seedFor := by
  induction fuel generalizing s with
  | zero => rfl
  | succ fuel ih =>
    rw [State.collectBits]
    split
    · rfl
    · dsimp only
      split
      · rfl
      · exact ih _

/-- One released bit of cell `c` taken. -/
def State.takeBit (s : State) (c : Nat) : State :=
  let t := s.updCell c fun x => { x with next := x.next + 1 }
  { t with
    fl.seed := s.fl.seed ++ [Config.cellBit c (s.cell c).next], fl.turn := (c + 1) % 8, fl.seedFrom := if bitOf s.fl.seedFrom c then s.fl.seedFrom else
      s.fl.seedFrom + 2 ^ c }

theorem State.takeBit_cell (s : State) (c d : Nat) :
    ((s.takeBit c).cell d).window = (s.cell d).window ∧ ((s.takeBit c).cell d).limit = (s.cell d).limit ∧ ((s.takeBit c).cell d).ok = (s.cell d).ok := by
  have is : (s.takeBit c).cell d = (s.updCell c fun x => { x with next := x.next + 1 }).cell d := State.cell_of_fl rfl d
  rw [is]
  by_cases same : c = d
  · subst same
    rw [State.cell_updCell_same]; exact ⟨rfl, rfl, rfl⟩
  · rw [State.cell_updCell_ne _ _ same]; exact ⟨rfl, rfl, rfl⟩

theorem State.collectBits_collected (fuel : Nat) (s : State) : Collected s (State.collectBits fuel s) := by
  induction fuel generalizing s with
  | zero => exact .refl
  | succ fuel ih =>
    rw [State.collectBits]
    split
    · exact .refl
    next c _ =>
      dsimp only
      split
      · exact .refl
      next room =>
        have rest := ih (s.takeBit c)
        have seedFor : (State.collectBits fuel (s.takeBit c)).fl.seedFor = s.fl.seedFor := State.collectBits_seedFor ..
        show Collected s (State.collectBits fuel (s.takeBit c))
        refine ⟨fun d => ?_, fun _ => ?_, fun _ => rest.fits ?_, ?_⟩
        · obtain ⟨window, limit, ok⟩ := rest.cell d
          obtain ⟨window', limit', ok'⟩ := s.takeBit_cell c d
          exact ⟨window.trans window', limit.trans limit', ok.trans ok'⟩
        · exact (List.prefix_append _ _).trans (rest.grows (State.collectBits_seedFor ..))
        · have len : (s.takeBit c).fl.seed.length = s.fl.seed.length + 1 := List.length_append ..
          omega
        · have only := rest.only
          generalize State.collectBits fuel (s.takeBit c) = w at *
          rw [only]; rfl

theorem State.collect_collected (s : State) : Collected s s.collect := by
  unfold State.collect
  split
  · exact .refl
  next n _ =>
    by_cases mine : s.fl.seedFor = some n
    · rw [if_pos mine]
      exact State.collectBits_collected 427 s
    · rw [if_neg mine]
      have rest := State.collectBits_collected 427 ({ s with fl := { s.fl with seedFor := some n, seed := [], seedFrom := 0 } } : State)
      have seedFor := State.collectBits_seedFor 427 ({ s with fl := { s.fl with seedFor := some n, seed := [], seedFrom := 0 } } : State)
      generalize State.collectBits 427 ({ s with fl := { s.fl with seedFor := some n, seed := [], seedFrom := 0 } } : State) = w at *
      exact ⟨rest.cell, fun h => absurd (h.symm.trans seedFor) mine, fun _ => rest.fits (Nat.zero_le _), by rw [rest.only]⟩

theorem aptWindowCloses (cell : Fin 8) (count : Nat) (ok : (s.cell cell).ok = true) (below : count < s.get R.FLT_APT_CUTOFF) :
    ∃ t, exec (.aptWindowClose cell count) s = .next t ∧
      (t.cell cell).window = (s.cell cell).window + 1 ∧ (t.cell cell).limit = 1024 * ((s.cell cell).window + 1) ∧ (t.cell cell).ok = true ∧
      (t.fl.seedFor = s.fl.seedFor → s.fl.seed <+: t.fl.seed) ∧ (s.fl.seed.length ≤ 427 → t.fl.seed.length ≤ 427) ∧
      t = { s with fl := { s.fl with cells := t.fl.cells, turn := t.fl.turn, seedFor := t.fl.seedFor, seed := t.fl.seed, seedFrom := t.fl.seedFrom } } := by
  have run : exec (.aptWindowClose cell count) s =
      .next (s.updCell cell fun x => { x with window := x.window + 1, limit := 1024 * (x.window + 1) }).collect := by
    show execAptWindowClose cell count s = _
    rw [execAptWindowClose, if_neg (by simp [ok]), if_neg (by omega)]
  obtain ⟨same, grows, fits, only⟩ := (s.updCell cell fun x => { x with window := x.window + 1, limit := 1024 * (x.window + 1) }).collect_collected
  obtain ⟨window, limit, ok'⟩ := same cell
  rw [State.cell_updCell_same] at window limit ok'
  refine ⟨_, run, window, limit, ok'.trans ok, grows, fits, ?_⟩
  generalize (s.updCell cell fun x => { x with window := x.window + 1, limit := 1024 * (x.window + 1) }).collect = w at *
  rw [only]; rfl

theorem execAptWindowClose_fails (cell : Fin 8) (count : Nat) (ok : (s.cell cell).ok = true) (high : s.get R.FLT_APT_CUTOFF ≤ count) :
    exec (.aptWindowClose cell count) s = .next (s.failCell cell 1) := by
  show execAptWindowClose cell count s = _
  rw [execAptWindowClose, if_neg (by simp [ok]), if_pos high]

theorem aptWindowFails (cell : Fin 8) (count : Nat) (ok : (s.cell cell).ok = true) (high : s.get R.FLT_APT_CUTOFF ≤ count) :
    ∃ t, exec (.aptWindowClose cell count) s = .next t ∧ (t.cell cell).ok = false ∧ (t.cell cell).start = true ∧
      (t.cell cell).due = s.quartz + 110240 ∧ (t.cell cell).next = (t.cell cell).limit ∧ t.bit (R.BLK_INT_RAW pgFLT) 1 = true ∧
      t.get R.FLT_LAST_CELL = cell.val ∧ t.get R.FLT_LAST_TEST = 1 ∧
      (∀ n, bitOf (s.drbg n).cells cell = true → n < 16 → s.ccPowered n = true → (t.drbg n).ready = false ∧ t.queue n = []) := by
  obtain ⟨out, raw, last, test, gone⟩ := s.failCell_spec cell 1
  exact ⟨_, execAptWindowClose_fails cell count ok high, by rw [out]; rfl, by rw [out]; rfl, by rw [out]; rfl, by rw [out]; rfl, raw, last, test, gone⟩

theorem repetitionFails (cell : Fin 8) (ok : (s.cell cell).ok = true) :
    ∃ t, exec (.repetitionCountFail cell) s = .next t ∧ (t.cell cell).ok = false ∧ (t.cell cell).start = true ∧
      t.get R.FLT_LAST_TEST = 0 ∧ t.bit (R.BLK_INT_RAW pgFLT) 1 = true := by
  obtain ⟨out, raw, -, test, -⟩ := s.failCell_spec cell 0
  exact ⟨_, if_pos ok, by rw [out]; rfl, by rw [out]; rfl, test, raw⟩

/-! ## Flint becomes ready (R228) -/

/-- Judging the units leaves Flint, its status and its interrupts. -/
structure FlintStays (s t : State) : Prop where
  fl : t.fl = s.fl
  regs : spares [R.FLT_READY, R.BLK_INT_RAW pgFLT] s t

theorem FlintStays.trans (h : FlintStays s t) (k : FlintStays t u) : FlintStays s u := ⟨k.fl.trans h.fl, h.regs.trans k.regs⟩

theorem FlintStays.foldl {α : Type} (f : State → α → State) (hf : ∀ v a, FlintStays v (f v a)) (xs : List α) (s : State) : FlintStays s (xs.foldl f s) :=
  foldl_keeps (FlintStays s) f (fun v a h => h.trans (hf v a)) xs s ⟨rfl, .refl⟩

theorem State.settleCluster_fl (s : State) (n : Nat) : (s.settleCluster n).fl = s.fl :=
  show (s.settleCluster n).offService.fl = s.offService.fl from by rw [s.settleCluster_offService n]

theorem State.settleUnit_flint (s : State) (n u : Nat) : FlintStays s (s.settleUnit n u) where
  fl := by
    unfold State.settleUnit
    rw [State.settleCluster_fl, State.updSvc_only]
  regs := s.settleUnit_spares n u (by simp [apart]; decide) (by simp [apart]; decide)

theorem State.settlePkCluster_flint (s : State) (p : Nat) : FlintStays s (s.settlePkCluster p) := by
  unfold State.settlePkCluster
  dsimp only
  generalize (s.pkUnitsUp p && !(s.get (R.BLK_FREEZE (pgPK p)) == 1 && s.pkDrained p)) = up
  refine ⟨?_, .settleTake (.setBit (.ite (.severity .refl (by simp [apart]; decide)) .refl) (by simp [apart]; decide))⟩
  rw [State.settleTake_spec]
  dsimp only
  split
  · show (s.severity 3).fl = s.fl
    rw [(s.severity_spec 3).2]
  · rfl

theorem State.settlePkUnit_flint (s : State) (p u : Nat) : FlintStays s (s.settlePkUnit p u) := by
  unfold State.settlePkUnit
  exact .trans (t := s.updPk p u _) ⟨rfl, .update .refl rfl⟩ (State.settlePkCluster_flint _ p)

theorem State.settleAllUnits_flint (s : State) : FlintStays s s.settleAllUnits := by
  unfold State.settleAllUnits
  exact (FlintStays.foldl _ (fun v n => .foldl _ (fun v u => v.settleUnit_flint n u) _ v) _ s).trans
    (.foldl _ (fun v p => .foldl _ (fun v u => v.settlePkUnit_flint p u) _ v) _ _)

/-- Flint may become ready. -/
def State.readyDue (s : State) : Prop := s.get R.FLT_READY = 0 ∧ 4 ≤ s.healthy ∧
  (List.range 16).all (fun n => !s.ccPowered n || (s.drbg n).ready || (s.drbg n).katFail) = true

theorem State.readyDue_iff (s : State) : s.readyDue ↔ s.get R.FLT_READY = 0 ∧ 4 ≤ s.healthy ∧
    ∀ n < 16, s.ccPowered n = true → (s.drbg n).ready = true ∨ (s.drbg n).katFail = true := by
  unfold State.readyDue
  simp only [List.all_eq_true, List.mem_range, Bool.or_eq_true, Bool.not_eq_true']
  refine and_congr_right fun _ => and_congr_right fun _ => forall_congr' fun n => forall_congr' fun _ => ?_
  cases s.ccPowered n <;> simp

theorem State.settleReady_not (h : ¬ s.readyDue) : s.settleReady = s := if_neg h

theorem State.settleReady_due (h : s.readyDue) :
    s.settleReady.get R.FLT_READY = 1 ∧ s.settleReady.fl.drbgs = s.fl.drbgs ∧
      ∀ j < 32, s.bit (R.BLK_INT_RAW pgFLT) j = true ∨ j = 0 → s.settleReady.bit (R.BLK_INT_RAW pgFLT) j = true := by
  unfold State.readyDue at h
  unfold State.settleReady
  rw [if_pos h]
  dsimp only
  have up : ((s.set R.FLT_READY 1).raise pgFLT 0).fl = s.fl ∧ ((s.set R.FLT_READY 1).raise pgFLT 0).get R.FLT_READY = 1 ∧
      ∀ j < 32, s.bit (R.BLK_INT_RAW pgFLT) j = true ∨ j = 0 → ((s.set R.FLT_READY 1).raise pgFLT 0).bit (R.BLK_INT_RAW pgFLT) j = true := by
    refine ⟨State.raise_fl .., ?_, fun j hj set => ?_⟩
    · rw [State.raise_get_ne _ _ _ _ (by decide), State.get_set_same]; rfl
    · rw [State.raise_raised _ _ _ j hj, State.bit, State.get_set_ne _ _ _ _ (by decide), Bool.or_eq_true]
      exact set.imp_right fun h => by simp [h]
  generalize (s.set R.FLT_READY 1).raise pgFLT 0 = v at up
  have told : FlintStays v (if v.healthy < 8 then v.severity 2 else v) := by
    split
    · exact ⟨by rw [(v.severity_spec 2).2], .severity .refl (by simp [apart]; decide)⟩
    · exact ⟨rfl, .refl⟩
  generalize (if v.healthy < 8 then v.severity 2 else v) = w at told
  have timed : (if w.fl.everReady then w else
      ({ w.set R.FLT_READY_US (min 65535 ((w.quartz - w.fl.powered) / 1000)) with fl.everReady := true } : State)).fl.drbgs = w.fl.drbgs ∧
      spares [R.FLT_READY, R.BLK_INT_RAW pgFLT] w (if w.fl.everReady then w else
      ({ w.set R.FLT_READY_US (min 65535 ((w.quartz - w.fl.powered) / 1000)) with fl.everReady := true } : State)) := by
    split
    · exact ⟨rfl, .refl⟩
    · exact ⟨rfl, .update (.set .refl (by simp [apart]; decide)) rfl⟩
  generalize (if w.fl.everReady then w else
      ({ w.set R.FLT_READY_US (min 65535 ((w.quartz - w.fl.powered) / 1000)) with fl.everReady := true } : State)) = x at timed
  have all := (told.regs.trans timed.2).trans x.settleAllUnits_flint.regs
  refine ⟨(all _ (by simp)).trans up.2.1, ?_, fun j hj set => (all.bit (by simp) j).trans (up.2.2 j hj set)⟩
  rw [x.settleAllUnits_flint.fl, timed.1, told.fl, up.1]

theorem State.settleReady_drbg (s : State) (n : Nat) : s.settleReady.drbg n = s.drbg n := by
  by_cases h : s.readyDue
  · exact State.drbg_of_fl (State.settleReady_due h).2.1 n
  · rw [State.settleReady_not h]

theorem State.settleReady_raw {j : Nat} (hj : j < 32) (set : s.bit (R.BLK_INT_RAW pgFLT) j = true) : s.settleReady.bit (R.BLK_INT_RAW pgFLT) j = true := by
  by_cases h : s.readyDue
  · exact (State.settleReady_due h).2.2 j hj (.inl set)
  · rw [State.settleReady_not h]; exact set

/-! ## Restart tests (R228, R229, R232) -/

section
variable {cell : Fin 8} {count : Nat} {repeated : Bool}

theorem restartTest_idle (h : (s.cell cell).start = false ∨ (s.cell cell).ok = true ∨ (s.cell cell).off = true ∨ s.quartz < (s.cell cell).due) :
    exec (.cellRestartTest cell count repeated) s = .next s := if_pos (by simpa using h)

variable (start : (s.cell cell).start = true) (out : (s.cell cell).ok = false) (on : (s.cell cell).off = false) (due : (s.cell cell).due ≤ s.quartz)
include start out on due

theorem restartTest_passes (run : repeated = false) (below : count < s.get R.FLT_APT_CUTOFF) :
    exec (.cellRestartTest cell count repeated) s =
      .next (s.updCell cell fun x => { x.leave with ok := true, start := false, fresh := false, restarts := 0 }).settleReady := by
  show execCellRestartTest cell count repeated s = _
  unfold execCellRestartTest
  rw [if_neg (by simp [start, out, on]; omega), if_pos ⟨run, below⟩]

/-- The state as a failed restart test is counted. -/
def State.restartCounted (s : State) (c : Nat) (repeated : Bool) : State :=
  let s := s.updCell c Cell.leave
  ((s.countSat (if repeated then R.FLT_RCT_FAIL c else R.FLT_APT_FAIL c)).lastFailure c (if repeated then 0 else 1) true).countFailure

omit start out on due in
theorem State.restartCounted_spec (s : State) (c : Fin 8) (repeated : Bool) :
    (s.restartCounted c repeated).cell c = (s.cell c).leave ∧ (s.restartCounted c repeated).quartz = s.quartz ∧
      (s.restartCounted c repeated).get R.FLT_LAST_START = 1 := by
  obtain ⟨-, -, start, -, fl, quartz⟩ := ((s.updCell c Cell.leave).countSat (if repeated then R.FLT_RCT_FAIL c else R.FLT_APT_FAIL c)).lastFailure_record c
    (if repeated then 0 else 1) true
  unfold State.restartCounted
  dsimp only
  generalize ((s.updCell c Cell.leave).countSat (if repeated then R.FLT_RCT_FAIL c else R.FLT_APT_FAIL c)).lastFailure c (if repeated then 0 else 1) true = v at *
  have counted := v.countFailure_spec
  refine ⟨?_, counted.quartz.trans quartz, ?_⟩
  · rw [State.cell_of_fl (s := s.updCell c Cell.leave) (by rw [counted.fl, fl]; rfl), State.cell_updCell_same]
  · exact (counted.spared [R.FLT_LAST_START] (by simp [failureFields, apart]; decide) _ (by simp)).trans start

theorem restartTest_fails (bad : repeated = true ∨ s.get R.FLT_APT_CUTOFF ≤ count) :
    let n := if (s.cell cell).fresh then 0 else (s.cell cell).restarts + 1
    let v := s.restartCounted cell repeated
    exec (.cellRestartTest cell count repeated) s =
      if 2 ≤ n then .next ((v.updCell cell fun x => { x with start := false, off := true, restarts := n }).raise pgFLT 5)
      else .next (v.updCell cell fun x => { x with start := true, fresh := false, restarts := n, due := v.quartz + 110240 }) := by
  intro n v
  have bad' : ¬(repeated = false ∧ count < s.get R.FLT_APT_CUTOFF) := fun ⟨a, b⟩ => bad.elim (fun h => by simp [h] at a) (fun h => by omega)
  show execCellRestartTest cell count repeated s = _
  unfold execCellRestartTest
  rw [if_neg (by simp [start, out, on]; omega), if_neg bad']
  rfl

theorem restartFails (bad : repeated = true ∨ s.get R.FLT_APT_CUTOFF ≤ count) :
    ∃ t, exec (.cellRestartTest cell count repeated) s = .next t ∧ (t.cell cell).ok = false ∧ t.get R.FLT_LAST_START = 1 ∧
      ((s.cell cell).fresh = false → 1 ≤ (s.cell cell).restarts → (t.cell cell).off = true ∧ t.bit (R.BLK_INT_RAW pgFLT) 5 = true) ∧
      ((s.cell cell).fresh = true ∨ (s.cell cell).restarts = 0 →
        (t.cell cell).off = false ∧ (t.cell cell).start = true ∧ (t.cell cell).due = s.quartz + 110240) := by
  have run := restartTest_fails start out on due bad
  obtain ⟨left, quartz, last⟩ := s.restartCounted_spec cell repeated
  dsimp only at run
  generalize s.restartCounted cell repeated = v at *
  by_cases twice : 2 ≤ if (s.cell cell).fresh then 0 else (s.cell cell).restarts + 1
  · rw [if_pos twice] at run
    have stale : (s.cell cell).fresh = false ∧ 1 ≤ (s.cell cell).restarts := by
      split at twice
      · omega
      next h => exact ⟨by simpa using h, by omega⟩
    generalize (if (s.cell cell).fresh then 0 else (s.cell cell).restarts + 1) = n at run
    have is := v.cell_updCell_same cell fun x => { x with start := false, off := true, restarts := n }
    rw [left] at is
    refine ⟨_, run, ?_, ?_, fun _ _ => ⟨?_, State.raise_bit _ _ (by decide)⟩, fun h => ?_⟩
    · rw [State.cell_of_fl (congrArg Flint.cells (State.raise_fl ..)), is]; rfl
    · rw [State.raise_get_ne _ _ _ _ (by decide)]; exact last
    · rw [State.cell_of_fl (congrArg Flint.cells (State.raise_fl ..)), is]
    · exact absurd h (by simp [stale.1]; omega)
  · rw [if_neg twice] at run
    have first : ¬((s.cell cell).fresh = false ∧ 1 ≤ (s.cell cell).restarts) := fun ⟨a, b⟩ => twice (by rw [a]; simp; exact b)
    generalize (if (s.cell cell).fresh then 0 else (s.cell cell).restarts + 1) = n at run
    have is := v.cell_updCell_same cell fun x => { x with start := true, fresh := false, restarts := n, due := v.quartz + 110240 }
    rw [left] at is
    refine ⟨_, run, by rw [is]; rfl, last, fun a b => absurd ⟨a, b⟩ first, fun _ => ⟨by rw [is]; exact on, by rw [is], by rw [is, quartz]⟩⟩

end

/-! ## Instances (R224-R227, R231) -/

/-- A twin mismatch in the core of an instance. -/
theorem State.failCore_spec (s : State) (n : Fin 16) (on : s.ccPowered n = true) :
    let t := s.failCore n
    (t.drbg n).ready = false ∧ t.queue n = [] ∧ t.get R.FLT_LAST_CORE = 1 ∧ t.get R.FLT_LAST_INST = n := by
  intro t
  have noted : ∃ w : State, w = (s.set R.FLT_LAST_CORE 1).set R.FLT_LAST_INST n ∧ w.get R.FLT_LAST_CORE = 1 ∧ w.get R.FLT_LAST_INST = n ∧
      w.ccPowered n = true := by
    refine ⟨_, rfl, ?_, ?_, ?_⟩
    · rw [State.get_set_ne _ _ _ _ (by decide), State.get_set_same]; rfl
    · rw [State.get_set_same]; exact Nat.mod_eq_of_lt n.2
    · rw [State.ccPowered, State.bit, State.get_set_ne _ _ _ _ (by decide), State.get_set_ne _ _ _ _ (by decide)]; exact on
  obtain ⟨w, is, core, inst, up⟩ := noted
  have eq : t = (w.discardAll fun m => m == n.val).countFailure := by rw [is]; rfl
  obtain ⟨-, -, kept, -, gone⟩ := w.discardAll_spec fun m => m == n.val
  have counted := (w.discardAll fun m => m == n.val).countFailure_spec
  rw [← eq] at counted
  generalize (w.discardAll fun m => m == n.val) = y at *
  have last : spares [R.FLT_LAST_CORE, R.FLT_LAST_INST] y t := counted.spared _ (by simp [failureFields, apart]; decide)
  have fl := counted.fl
  rw [State.drbg_of_fl (s := y) (by rw [fl]), State.queue_of_fl (s := y) (by rw [fl]), last _ (by simp), last _ (by simp), kept _ (by decide) (by decide),
    kept _ (by decide) (by decide)]
  exact ⟨(gone n n.2 (by simp) up).1, (gone n n.2 (by simp) up).2, core, inst⟩

/-- The cluster whose instance is seeded has power. -/
theorem State.seedTarget_powered {n : Nat} (h : s.seedTarget = some n) : s.ccPowered n = true := by
  unfold State.seedTarget at h
  dsimp only at h
  split at h
  · cases h
  · split at h
    next m found =>
      cases h
      have := List.find?_some found
      simp only [Bool.and_eq_true] at this
      exact this.1.1
    · have := List.find?_some h
      simp only [Bool.and_eq_true] at this
      exact this.1.1

section
variable {n : Fin 16} {katOk twinOk : Bool}

theorem instantiate_waits (h : s.collect.seedTarget ≠ some n.val ∨ s.collect.fl.seed.length < 427) :
    exec (.drbgInstantiate n ⟨katOk, twinOk⟩) s = .next s.collect := if_pos h

variable (turn : s.collect.seedTarget = some n.val) (full : 427 ≤ s.collect.fl.seed.length)
include turn full

theorem instantiate_judged : exec (.drbgInstantiate n ⟨katOk, twinOk⟩) s =
    if !(s.drbg n).katOk && !katOk then
      .next ((((s.collect.dropSeed n).updDrbg n fun d => { d with katFail := true }).raise pgFLT 6).settleReady)
    else if !twinOk then .next ((s.collect.dropSeed n).failCore n)
    else .next ((s.collect.dropSeed n).updDrbg n fun d =>
      { d with ready := true, katOk := true, cells := s.collect.fl.seedFrom, reseeding := false, requests := 0, nextReseed := s.collect.nextReseed n,
               core := (if d.ready then d.core else {}).seed (seedBytes s.collect.fl.seed) }).settleReady := by
  show execDrbgInstantiate n ⟨katOk, twinOk⟩ s = _
  unfold execDrbgInstantiate
  dsimp only
  rw [if_neg (by simp [turn]; omega)]

omit turn full in
theorem State.collect_drbg (s : State) (n m : Nat) : (s.collect.dropSeed n).drbg m = s.drbg m := by
  rw [State.dropSeed_drbg]
  exact State.drbg_of_fl (by rw [s.collect_collected.only]) m

theorem instantiate_seeds (tested : (s.drbg n).katOk = true ∨ katOk = true) (sound : twinOk = true) :
    ∃ t, exec (.drbgInstantiate n ⟨katOk, twinOk⟩) s = .next t ∧
      t.drbg n = { ready := true, katOk := true, katFail := (s.drbg n).katFail, cells := s.collect.fl.seedFrom, reseeding := false, requests := 0,
                   nextReseed := s.nextReseed n,
                   core := (if (s.drbg n).ready then (s.drbg n).core else {}).seed (seedBytes s.collect.fl.seed) } := by
  have run := instantiate_judged turn full (katOk := katOk) (twinOk := twinOk)
  rw [if_neg (by rcases tested with h | h <;> simp [h]), if_neg (by simp [sound])] at run
  have same := s.collect_drbg n n
  have period : s.collect.nextReseed n = s.nextReseed n := by rw [s.collect_collected.only]; rfl
  rw [period] at run
  refine ⟨_, run, ?_⟩
  rw [State.settleReady_drbg, State.drbg_updDrbg_same, same]

theorem instantiate_untested (never : (s.drbg n).katOk = false) (bad : katOk = false) :
    ∃ t, exec (.drbgInstantiate n ⟨katOk, twinOk⟩) s = .next t ∧ (t.drbg n).katFail = true ∧
        (t.drbg n).ready = (s.drbg n).ready ∧ t.bit (R.BLK_INT_RAW pgFLT) 6 = true := by
  have run := instantiate_judged turn full (katOk := katOk) (twinOk := twinOk)
  rw [if_pos (by simp [never, bad])] at run
  refine ⟨_, run, ?_, ?_, State.settleReady_raw (by decide) (State.raise_bit _ _ (by decide))⟩
  all_goals rw [State.settleReady_drbg, State.drbg_of_fl (congrArg Flint.drbgs (State.raise_fl ..)), State.drbg_updDrbg_same]
  rw [s.collect_drbg]

theorem instantiate_mismatch (tested : (s.drbg n).katOk = true ∨ katOk = true) (bad : twinOk = false) :
    ∃ t, exec (.drbgInstantiate n ⟨katOk, twinOk⟩) s = .next t ∧ (t.drbg n).ready = false ∧
        t.queue n = [] ∧ t.get R.FLT_LAST_CORE = 1 ∧ t.get R.FLT_LAST_INST = n.val := by
  have run := instantiate_judged turn full (katOk := katOk) (twinOk := twinOk)
  rw [if_neg (by rcases tested with h | h <;> simp [h]), if_pos (by simp [bad])] at run
  have on : (s.collect.dropSeed n).ccPowered n = true := by
    rw [State.ccPowered, State.bit, State.dropSeed_get]; exact State.seedTarget_powered turn
  exact ⟨_, run, (s.collect.dropSeed n).failCore_spec n on⟩

end

theorem aesEncrypt_length (key block : List Byte) (h : 4 ≤ key.length) : (aesEncrypt key block).length = 16 := by
  obtain ⟨count, each⟩ := aesKeys_lengths key h
  have last : ((aesKeys key).getLastD []).length = 16 := by
    rw [List.getLastD_eq_getLast?, List.getLast?_eq_some_getLast (by intro e; simp [e] at count)]
    exact each _ (List.getLast_mem _)
  unfold aesEncrypt
  rw [xorBytes_length, pick_length, last]
  rfl

theorem DrbgState.blocks_length (d : DrbgState) (n : Nat) (h : 4 ≤ d.key.length) : (d.blocks n).length = 16 * n := by
  unfold DrbgState.blocks
  rw [List.length_flatMap, List.map_congr_left fun i _ => aesEncrypt_length d.key _ h]
  simp [Nat.mul_comm]

section
variable {n : Fin 16}

theorem generate_idle {twinOk : Bool} (h : (s.drbg n).ready = false ∨ 49152 ≤ s.queueFill n ∨ s.relocks n = true ∨ s.xbarHeld n = true) :
    exec (.drbgGenerate n twinOk) s = .next s := if_pos (by simpa using h)

theorem State.serveDraws_only (s : State) (n : Nat) : s.serveDraws n = { s with sq := { s.sq with ctxs := (s.serveDraws n).sq.ctxs } } := by
  unfold State.serveDraws
  generalize s.drawsOf n = ks
  induction ks generalizing s with
  | nil => rfl
  | cons k ks ih =>
    rw [List.foldl_cons, ih]
    rfl

theorem State.serveDraws_wait {k : Nat} (h : k ∈ s.drawsOf n) : ((s.serveDraws n).ctx k).wait = .none := by
  refine foldl_makes (fun v : State => (v.ctx k).wait = .none) _ (fun v j hv => ?_) h (fun v => ?_) s
  · by_cases same : j = k
    · subst same; rw [State.ctx_updCtx_same]
    · rw [State.ctx_updCtx_ne _ _ _ _ same]; exact hv
  · rw [State.ctx_updCtx_same]

variable (up : (s.drbg n).ready = true) (room : s.queueFill n < 49152) (still : s.relocks n = false) (free : s.xbarHeld n = false)
include up room still free

theorem generate_fills : ∃ t, exec (.drbgGenerate n true) s = .next t ∧ t.queue n = s.queue n ++ ((s.drbg n).core.generate 256).1 ∧
    ((s.drbg n).core.key.length = 32 → t.queueFill n = s.queueFill n + 4096) ∧
    t.drbg n = { s.drbg n with requests := (s.drbg n).requests + 1, core := ((s.drbg n).core.generate 256).2 } ∧
    (∀ k ∈ s.drawsOf n, (t.ctx k).wait = .none) ∧ t = { s with sq := { s.sq with ctxs := t.sq.ctxs }, fl := t.fl } := by
  have run : exec (.drbgGenerate n true) s = .next (((s.setQueue n (s.queue n ++ ((s.drbg n).core.generate 256).1)).updDrbg n fun d =>
      { d with requests := d.requests + 1, core := ((s.drbg n).core.generate 256).2 }).serveDraws n) := by
    show execDrbgGenerate n true s = _
    unfold execDrbgGenerate
    rw [if_neg (by simp [up, still, free]; omega)]
    rfl
  have long : (s.drbg n).core.key.length = 32 → ((s.drbg n).core.generate 256).1.length = 4096 := fun h =>
    DrbgState.blocks_length _ 256 (by omega)
  generalize (s.drbg n).core.generate 256 = r at *
  have only := ((s.setQueue n (s.queue n ++ r.1)).updDrbg n fun d => { d with requests := d.requests + 1, core := r.2 }).serveDraws_only n
  have served : ∀ k ∈ s.drawsOf n,
      ((((s.setQueue n (s.queue n ++ r.1)).updDrbg n fun d => { d with requests := d.requests + 1, core := r.2 }).serveDraws n).ctx k).wait = .none :=
    fun k hk => State.serveDraws_wait hk
  have drbg := (s.setQueue n (s.queue n ++ r.1)).drbg_updDrbg_same n fun d => { d with requests := d.requests + 1, core := r.2 }
  have queue : ((s.setQueue n (s.queue n ++ r.1)).updDrbg n fun d => { d with requests := d.requests + 1, core := r.2 }).queue n = s.queue n ++ r.1 :=
    s.queue_setQueue_same n _
  generalize mid : ((s.setQueue n (s.queue n ++ r.1)).updDrbg n fun d => { d with requests := d.requests + 1, core := r.2 }) = v at *
  have fl : (v.serveDraws n).fl = v.fl := by rw [only]
  have frame : v = { s with fl := v.fl } := by rw [← mid]; rfl
  have queue' : (v.serveDraws n).queue n = s.queue n ++ r.1 := (State.queue_of_fl (by rw [fl]) n).trans queue
  refine ⟨_, run, queue', fun h => ?_, (State.drbg_of_fl (by rw [fl]) n).trans drbg, served, ?_⟩
  · rw [State.queueFill, queue', List.length_append, long h]; rfl
  · rw [only, frame]

theorem generate_mismatch (on : s.ccPowered n = true) : ∃ t, exec (.drbgGenerate n false) s = .next t ∧ (t.drbg n).ready = false ∧ t.queue n = [] ∧
    t.get R.FLT_LAST_CORE = 1 ∧ t.get R.FLT_LAST_INST = n.val := by
  have run : exec (.drbgGenerate n false) s = .next (s.failCore n) := by
    show execDrbgGenerate n false s = _
    unfold execDrbgGenerate
    rw [if_neg (by simp [up, still, free]; omega)]
    rfl
  exact ⟨_, run, s.failCore_spec n on⟩

end

theorem reseed_begins {n : Fin 16} (due : (s.drbg n).ready = true ∧ (s.drbg n).reseeding = false ∧
    ((s.drbg n).nextReseed ≤ s.quartz ∨ 2 ^ 20 ≤ (s.drbg n).requests)) :
    ∃ t, exec (.drbgReseed n) s = .next t ∧ t.drbg n = { s.drbg n with reseeding := true } ∧ t = { s with fl := { s.fl with drbgs := t.fl.drbgs } } := by
  have run : exec (.drbgReseed n) s = .next (s.updDrbg n fun d => { d with reseeding := true }) := if_pos (by simpa using due)
  exact ⟨_, run, State.drbg_updDrbg_same .., rfl⟩

/-! ## Draws that wait too long (R230) -/

theorem notReadyTimeout_ends {c : Ctx} {since : Nat} (waits : s.drawSince (ctxKey c) = some since) (down : (s.drbg c.cc).ready = false)
    (late : since + 10000000 ≤ s.quartz) :
    exec (.rngNotReadyTimeout c) s = .next ((s.countSat R.FLT_NOTREADY_CNT).endAt (ctxKey c) stRngNotReady 0) := by
  show execRngNotReadyTimeout c s = _
  unfold execRngNotReadyTimeout
  simp only [waits, down, late]
  rfl

theorem notReadyTimeout_idle {c : Ctx} (h : s.drawSince (ctxKey c) = none ∨ (s.drbg c.cc).ready = true) :
    exec (.rngNotReadyTimeout c) s = .next s := by
  show execRngNotReadyTimeout c s = _
  unfold execRngNotReadyTimeout
  rcases h with h | h
  · rw [h]
  · split
    · rfl
    · rw [if_neg (by simp [h])]

theorem State.drawSince_random {k : Nat} (runs : (s.ctx k).cmd ≠ none) (waits : (s.ctx k).wait = .random) : s.drawSince k = some (s.ctx k).since := by
  unfold State.drawSince
  dsimp only
  rw [if_neg (by simpa using runs), if_pos waits]

/-- Settles O36: each event of Flint by its own lemma; a failure discards every instance hit whatever ends with it, and becoming ready or counting a
failure leaves cells, instances and queues. -/
theorem flintFeedsTheQueues : Obligations.FlintFeedsTheQueues := by
  unfold Obligations.FlintFeedsTheQueues
  refine ⟨fun cell count s ok high => aptWindowFails cell count ok high,
    fun cell count s => ⟨fun out => if_pos (by simp [out]), fun ok below => aptWindowCloses cell count ok below⟩,
    fun cell s => ⟨fun ok => repetitionFails cell ok, fun out => if_neg (by simp [out])⟩,
    fun cell count repeated s => ?_, fun s => ?_, fun n katOk twinOk s => ?_, fun n s => ?_, fun n twinOk s => ?_, fun c s => ?_, fun s => ?_⟩
  · refine ⟨restartTest_idle, fun start out on due => ⟨fun run below => ?_, fun bad => restartFails start out on due bad⟩⟩
    exact ⟨_, restartTest_passes start out on due run below, _, rfl, State.cell_updCell_same .., rfl⟩
  · intro ready
    refine ⟨fun h => ?_, fun h => State.settleReady_not fun due => h (s.readyDue_iff.1 due)⟩
    obtain ⟨up, drbgs, raw⟩ := State.settleReady_due (s.readyDue_iff.2 h)
    exact ⟨up, raw 0 (by decide) (.inr rfl), drbgs⟩
  · intro u
    exact ⟨instantiate_waits, fun turn full => ⟨instantiate_seeds turn full, instantiate_untested turn full, instantiate_mismatch turn full⟩⟩
  · intro due
    exact ⟨reseed_begins, fun h => if_neg (by simpa [due] using h)⟩
  · refine ⟨generate_idle, fun up room still free => ⟨fun sound => ?_, fun bad on => ?_⟩⟩
    · subst sound; exact generate_fills up room still free
    · subst bad; exact generate_mismatch up room still free on
  · exact ⟨fun since => notReadyTimeout_ends, notReadyTimeout_idle, State.drawSince_random⟩
  · intro due
    refine ⟨fun ready now => ?_, fun h => if_pos ?_⟩
    · exact if_neg (by simpa [ready, due, imp_iff_not_or] using now)
    · simpa [due] using h

end Sys2Proof.Machine
end

section
/-! SUPPORT. The scheduler: thread slots, ready and delay lists, the tick, HOLD and core restarts (R404-R408, R413). -/
namespace Sys2Proof.Machine

variable {s t was : State} {n u v c : Nat}

/-! ## Threads and lists after a write -/

theorem State.thread_updThread_ne (s : State) (f : Thread → Thread) (h : n ≠ u) : (s.updThread n f).thread u = s.thread u :=
  Sparse.get_upd_ne _ _ _ h

theorem State.thread_of_sc (h : t.sc = s.sc) (u : Nat) : t.thread u = s.thread u := by rw [State.thread, h, State.thread]
theorem State.readyList_of_sc (h : t.sc = s.sc) (c p : Nat) : t.readyList c p = s.readyList c p := by rw [State.readyList, h, State.readyList]

theorem State.readyList_unlist (s : State) (n c p : Nat) : (s.unlist n).readyList c p = (s.readyList c p).filter (· ≠ n) :=
  Sparse.get_mapVals [] _ _ _ rfl

theorem State.delayed_unlist (s : State) (n d : Nat) : Sparse.get [] (s.unlist n).sc.delayed d = (Sparse.get [] s.sc.delayed d).filter (· ≠ n) :=
  Sparse.get_mapVals [] _ _ _ rfl

theorem State.not_ready_unlist (s : State) (n c p : Nat) : n ∉ (s.unlist n).readyList c p := by simp [State.readyList_unlist]
theorem State.not_delayed_unlist (s : State) (n d : Nat) : n ∉ Sparse.get [] (s.unlist n).sc.delayed d := by simp [State.delayed_unlist]

/-- A list that a slot joins at its tail. -/
def State.joinReady (s : State) (n key : Nat) : State := { s with sc.ready := Sparse.upd [] s.sc.ready key (· ++ [n]) }

theorem State.readyList_joinReady (s : State) (n c p : Nat) : (s.joinReady n (readyKey c p)).readyList c p = s.readyList c p ++ [n] := by
  show Sparse.get [] (Sparse.upd [] s.sc.ready (readyKey c p) (· ++ [n])) (readyKey c p) = _
  rw [Sparse.get_upd_same]; rfl

theorem onlyFields_sc {fs : List Field} (h : onlyFields fs s t) : t.sc = s.sc := by rw [h.2.2]

theorem State.settleSched_only (s was : State) : onlyFields [R.BLK_INT_RAW pgSCHED] s (s.settleSched was) := by
  unfold State.settleSched
  dsimp only
  have first : onlyFields [R.BLK_INT_RAW pgSCHED] s (if was.stranded = 0 ∧ s.stranded ≠ 0 then s.raise pgSCHED 1 else s) := by
    split
    · exact s.raise_onlyFields ..
    · exact onlyFields_refl ..
  generalize (if was.stranded = 0 ∧ s.stranded ≠ 0 then s.raise pgSCHED 1 else s) = v at first
  split
  · exact onlyFields_mono (onlyFields_trans first (v.raise_onlyFields pgSCHED 2)) (by simp)
  · exact first

theorem State.settleSched_sc (s was : State) : (s.settleSched was).sc = s.sc := onlyFields_sc (s.settleSched_only was)

theorem State.settleSched_get {f : Field} (h : (R.BLK_INT_RAW pgSCHED).key ≠ f.key) : (s.settleSched was).get f = s.get f :=
  (s.settleSched_only was).1 f (by simpa using h)

theorem State.settleSched_mem {o : Output} (h : o ∈ s.out) : o ∈ (s.settleSched was).out := by
  obtain ⟨ms, out, -⟩ := (s.settleSched_only was).2.1
  rw [out]
  exact List.mem_append_left _ h

/-! ## The core a slot goes to (R405) -/

/-- The better of the best core so far and the next, by load. -/
def State.better (s : State) (u : Nat) (best : Option Nat) (c : Nat) : Option Nat :=
  match best with
  | none => some c
  | some b =>
    let n := s.coreLoad c (s.thread u).prio
    let m := s.coreLoad b (s.thread u).prio
    if n < m ∨ (n = m ∧ c = (s.thread u).core) then some c else best

theorem State.placeOn_eq (s : State) (u : Nat) : s.placeOn u = ((s.candidates u).foldl (s.better u) none).getD (s.thread u).core := rfl

theorem State.better_some (s : State) (u b c : Nat) : ∃ d, s.better u (some b) c = some d ∧ (d = b ∨ d = c) ∧
    s.coreLoad d (s.thread u).prio ≤ s.coreLoad b (s.thread u).prio ∧ s.coreLoad d (s.thread u).prio ≤ s.coreLoad c (s.thread u).prio := by
  unfold State.better
  dsimp only
  split
  next h => exact ⟨c, rfl, .inr rfl, by rcases h with h | h <;> omega, le_rfl⟩
  next h => exact ⟨b, rfl, .inl rfl, le_rfl, by omega⟩

theorem State.better_foldl (s : State) (u b : Nat) (cs : List Nat) : ∃ d, cs.foldl (s.better u) (some b) = some d ∧ (d = b ∨ d ∈ cs) ∧
    s.coreLoad d (s.thread u).prio ≤ s.coreLoad b (s.thread u).prio ∧ ∀ c ∈ cs, s.coreLoad d (s.thread u).prio ≤ s.coreLoad c (s.thread u).prio := by
  induction cs generalizing b with
  | nil => exact ⟨b, rfl, .inl rfl, le_rfl, by simp⟩
  | cons c cs ih =>
    obtain ⟨e, step, mem, low, low'⟩ := s.better_some u b c
    obtain ⟨d, rest, mem', least, all⟩ := ih e
    refine ⟨d, by rw [List.foldl_cons, step, rest], ?_, least.trans low, ?_⟩
    · rcases mem' with rfl | h
      · exact mem.imp_right fun h => by simp [h]
      · exact .inr (List.mem_cons_of_mem _ h)
    · intro x hx
      rcases List.mem_cons.1 hx with rfl | hx
      · exact least.trans low'
      · exact all x hx

theorem State.placeOn_least (h : s.candidates u ≠ []) : s.placeOn u ∈ s.candidates u ∧
    ∀ d ∈ s.candidates u, s.coreLoad (s.placeOn u) (s.thread u).prio ≤ s.coreLoad d (s.thread u).prio := by
  rw [State.placeOn_eq]
  generalize s.candidates u = cs at h
  cases cs with
  | nil => exact absurd rfl h
  | cons c cs =>
    obtain ⟨d, fold, mem, least, all⟩ := s.better_foldl u c cs
    rw [List.foldl_cons, show s.better u none c = some c from rfl, fold]
    refine ⟨by simpa using mem, fun x hx => ?_⟩
    rcases List.mem_cons.1 hx with rfl | hx
    · exact least
    · exact all x hx

/-! ## A slot made READY (R405) -/

/-- The core slot `n` goes to. -/
def State.seat (s : State) (n : Nat) : Nat := ((s.unlist n).updThread n fun x => { x with st := .blocked }).placeOn n

/-- A slot listed on the core it goes to. -/
def State.listed (s : State) (n since : Nat) : State :=
  (((s.unlist n).updThread n fun x => { x with st := .blocked }).updThread n fun x =>
    { x with st := .ready, list := s.seat n, readyAt := since }).joinReady n (readyKey (s.seat n) (s.thread n).prio)

theorem State.enlist_eq (s : State) (n since : Nat) : s.enlist n since = s.listed n since ∨ s.enlist n since = (s.listed n since).emit (.preempt (s.seat n)) := by
  have prio : (((s.unlist n).updThread n fun x => { x with st := .blocked }).thread n).prio = (s.thread n).prio := by
    rw [State.thread_updThread_same]; rfl
  unfold State.enlist State.listed State.seat
  dsimp only
  rw [prio]
  split
  · exact .inr rfl
  · exact .inl rfl

theorem State.enlist_sc (s : State) (n since : Nat) : (s.enlist n since).sc = (s.listed n since).sc := by
  rcases s.enlist_eq n since with h | h
  · rw [h]
  · rw [h]; rfl

theorem State.listed_regs (s : State) (n since : Nat) : (s.listed n since).regs = s.regs := by
  unfold State.listed
  generalize s.seat n = c
  exact rfl

theorem State.enlist_regs (s : State) (n since : Nat) : (s.enlist n since).regs = s.regs := by
  rcases s.enlist_eq n since with h | h
  · rw [h, State.listed_regs]
  · rw [h, ← s.listed_regs n since]; rfl

theorem State.enlist_get (s : State) (n since : Nat) (f : Field) : (s.enlist n since).get f = s.get f := by rw [State.get, State.enlist_regs, State.get]

theorem State.enlist_thread_ne (s : State) (since : Nat) (h : u ≠ n) : (s.enlist n since).thread u = s.thread u := by
  have is : (s.listed n since).thread u = (((s.unlist n).updThread n fun x => { x with st := .blocked }).updThread n fun x =>
    { x with st := .ready, list := s.seat n, readyAt := since }).thread u := rfl
  rw [State.thread_of_sc (s.enlist_sc n since), is, State.thread_updThread_ne _ _ h.symm, State.thread_updThread_ne _ _ h.symm, State.unlist_thread]

theorem State.enlist_list (s : State) (n since : Nat) :
    (s.enlist n since).readyList (s.seat n) (s.thread n).prio = (s.readyList (s.seat n) (s.thread n).prio).filter (· ≠ n) ++ [n] := by
  rw [State.readyList_of_sc (s.enlist_sc n since)]
  refine (State.readyList_joinReady ..).trans ?_
  rw [← State.readyList_unlist]; rfl

theorem State.enlist_not_delayed (s : State) (n since d : Nat) : n ∉ Sparse.get [] (s.enlist n since).sc.delayed d := by
  rw [State.enlist_sc]; exact s.not_delayed_unlist n d

theorem State.enlist_tick (s : State) (n since : Nat) : (s.enlist n since).sc.ticks = s.sc.ticks ∧ (s.enlist n since).sc.tickDue = s.sc.tickDue := by
  rw [State.enlist_sc]; exact ⟨rfl, rfl⟩

theorem State.candidates_of {aff : (t.thread u).aff = (s.thread u).aff} (hold : t.get R.SCHED_HOLD = s.get R.SCHED_HOLD) : t.candidates u = s.candidates u := by
  simp only [State.candidates, aff, State.held, State.bit, hold]

theorem State.candidates_enlist (s : State) (n since u : Nat) : (s.enlist n since).candidates u = s.candidates u := by
  refine State.candidates_of (aff := ?_) (s.enlist_get n since _)
  by_cases h : u = n
  · subst h; rw [State.enlist_thread_same]
  · rw [State.enlist_thread_ne _ _ h]

/-- The core of a slot with candidates is one of them. -/
theorem State.seat_mem (h : s.candidates n ≠ []) : s.seat n ∈ s.candidates n := by
  have same : ((s.unlist n).updThread n fun x => { x with st := .blocked }).candidates n = s.candidates n :=
    State.candidates_of (aff := by rw [State.thread_updThread_same]; rfl) rfl
  rw [← same] at h ⊢
  exact (State.placeOn_least h).1

/-! ## Operations (Table 17.1) -/

theorem State.schedOp_runs {allowed : TState → Bool} (h : allowed (s.thread n).st = true) (run : State → State) :
    s.schedOp n allowed run = .next ((run s).settleSched s) := if_pos h

theorem State.schedOp_refuses {allowed : TState → Bool} (h : allowed (s.thread n).st = false) (run : State → State) :
    s.schedOp n allowed run = .next s.refuseOp := if_neg (by simp [h])

theorem State.refuseOp_spec (s : State) : s.refuseOp.get R.SCHED_OP_REFUSED = satAdd 16 (s.get R.SCHED_OP_REFUSED) 1 ∧ raised pgSCHED [0] s s.refuseOp ∧
    onlyFields [R.SCHED_OP_REFUSED, R.BLK_INT_RAW pgSCHED] s s.refuseOp := by
  have counted : onlyFields [R.SCHED_OP_REFUSED] s (s.countSat R.SCHED_OP_REFUSED) := onlyFields_set ..
  refine ⟨?_, fun j hj => ?_, onlyFields_trans counted (State.raise_onlyFields ..)⟩
  · rw [State.refuseOp, State.raise_get_ne _ _ _ _ (by decide), State.countSat, State.get_set_same]
    exact Nat.mod_eq_of_lt (by simp only [satAdd, R.SCHED_OP_REFUSED]; omega)
  · rw [State.refuseOp, State.raise_raised _ _ _ j hj, State.bit, State.get_countSat_ne _ _ _ _ (by decide)]; rfl

section
variable (up : s.responds pgSCHED = true)
include up

theorem execCreate_op (slot : Fin 512) : exec (.create slot) s = s.schedOp slot (· == .free) fun s => s.updThread slot fun _ =>
    { st := .blocked, prio := s.get R.SCHED_CFG_PRIO, aff := s.get R.SCHED_CFG_AFF, tag := s.get R.SCHED_CFG_TAG } := if_neg (by simp [up])

theorem execReady_op (slot : Fin 512) : exec (.ready slot) s =
    s.schedOp slot (fun st => st == .blocked || st == .delayed || st == .running) fun s => s.makeReady slot := if_neg (by simp [up])

/-- A slot made to wait some ticks. -/
def State.delayThread (slot ticks : Nat) (s : State) : State :=
  let s := s.updThread slot fun x => { x with st := .delayed, wake := s.sc.ticks + ticks }
  let c := (s.thread slot).core
  { s with sc.delayed := Sparse.upd [] s.sc.delayed c (delayInsert (fun u => (s.thread u).wake) slot) }

theorem execDelay_op (slot : Fin 512) (ticks : Fin 1048576) : exec (.delay slot ticks) s =
    s.schedOp slot (fun st => ticks.val ≠ 0 && (st == .running || st == .blocked)) (State.delayThread slot ticks) := if_neg (by simp [up])

theorem execBlock_op (slot : Fin 512) : exec (.block slot) s =
    s.schedOp slot (fun st => st == .running || st == .ready || st == .delayed) fun s =>
      (s.unlist slot).updThread slot fun x => { x with st := .blocked } := if_neg (by simp [up])

theorem execFree_op (slot : Fin 512) : exec (.free slot) s = s.schedOp slot (· != .free) fun s => s.freeThread slot := if_neg (by simp [up])

/-- The highest priority a slot may be given: its applet's. -/
def State.prioFloor (s : State) (n : Nat) : Nat :=
  match (s.thread n).applet with
  | some a => ((s.sc.applets.find? (·.1 == a)).map (·.2.prioMin)).getD 0
  | none => 0

/-- A slot given a priority, a READY one joining its new list. -/
def State.givePrio (x : Thread) (n prio : Nat) (s : State) : State :=
  let s := s.updThread n fun x => { x with prio := prio }
  if x.st = .ready then (s.unlist n).joinReady n (readyKey x.list prio) else s

theorem execSetprio_op (slot : Fin 512) (prio : Fin 32) : exec (.setprio slot prio) s =
    s.schedOp slot (fun st => st != .free && s.prioFloor slot ≤ prio.val) (State.givePrio (s.thread slot) slot prio) := if_neg (by simp [up])

theorem create_makes (slot : Fin 512) (free : (s.thread slot).st = .free) :
    ∃ t, exec (.create slot) s = .next t ∧ (∀ u, u ≠ slot.val → t.thread u = s.thread u) ∧
      t.thread slot = { st := .blocked, prio := s.get R.SCHED_CFG_PRIO, aff := s.get R.SCHED_CFG_AFF, tag := s.get R.SCHED_CFG_TAG } := by
  refine ⟨_, (execCreate_op up slot).trans (State.schedOp_runs (by simp [free]) _), fun u hu => ?_, ?_⟩
  · rw [State.thread_of_sc (State.settleSched_sc ..), State.thread_updThread_ne _ _ hu.symm]
  · rw [State.thread_of_sc (State.settleSched_sc ..), State.thread_updThread_same]

theorem ops_refused (slot : Fin 512) (ticks : Fin 1048576) (prio : Fin 32) :
    ((s.thread slot).st ≠ .free → exec (.create slot) s = .next s.refuseOp) ∧
    ((s.thread slot).st = .free → exec (.ready slot) s = .next s.refuseOp ∧ exec (.delay slot ticks) s = .next s.refuseOp ∧
      exec (.block slot) s = .next s.refuseOp ∧ exec (.free slot) s = .next s.refuseOp ∧ exec (.setprio slot prio) s = .next s.refuseOp) ∧
    ((s.thread slot).st = .ready → exec (.ready slot) s = .next s.refuseOp ∧ exec (.delay slot ticks) s = .next s.refuseOp) ∧
    ((s.thread slot).st = .blocked → exec (.block slot) s = .next s.refuseOp) ∧
    ((s.thread slot).st = .delayed → exec (.delay slot ticks) s = .next s.refuseOp) ∧ exec (.delay slot 0) s = .next s.refuseOp := by
  rw [execCreate_op up, execReady_op up, execDelay_op up, execBlock_op up, execFree_op up, execSetprio_op up, execDelay_op up]
  refine ⟨fun h => State.schedOp_refuses (by simpa using h) _, fun h => ⟨?_, ?_, ?_, ?_, ?_⟩, fun h => ⟨?_, ?_⟩, fun h => ?_, fun h => ?_,
    State.schedOp_refuses (by simp) _⟩
  all_goals exact State.schedOp_refuses (by rw [h]; simp) _

theorem ready_lists (slot : Fin 512) (h : (s.thread slot).st = .blocked ∨ (s.thread slot).st = .delayed ∨ (s.thread slot).st = .running) :
    ∃ t, exec (.ready slot) s = .next t ∧ t.thread slot = { s.thread slot with st := .ready, list := s.seat slot, readyAt := s.quartz } ∧
      (∀ u, u ≠ slot.val → t.thread u = s.thread u) ∧
      t.readyList (s.seat slot) (s.thread slot).prio = (s.readyList (s.seat slot) (s.thread slot).prio).filter (· ≠ slot.val) ++ [slot.val] ∧
      ∀ d, slot.val ∉ Sparse.get [] t.sc.delayed d := by
  have run := (execReady_op up slot).trans (State.schedOp_runs (by rcases h with h | h | h <;> simp [h]) _)
  have sc : ((s.makeReady slot).settleSched s).sc = (s.enlist slot s.quartz).sc := State.settleSched_sc ..
  refine ⟨_, run, ?_, fun u hu => ?_, ?_, fun d => ?_⟩
  · rw [State.thread_of_sc sc, State.enlist_thread_same]; rfl
  · rw [State.thread_of_sc sc, State.enlist_thread_ne _ _ hu]
  · rw [State.readyList_of_sc sc, State.enlist_list]
  · rw [sc]; exact s.enlist_not_delayed _ _ d

omit up in
theorem mem_delayInsert (wake : Nat → Nat) (n : Nat) (us : List Nat) : n ∈ delayInsert wake n us := by
  induction us with
  | nil => exact List.mem_singleton_self _
  | cons u us ih =>
    rw [delayInsert]
    split
    · exact List.mem_cons_self ..
    · exact List.mem_cons_of_mem _ ih

theorem delay_lists (slot : Fin 512) (ticks : Fin 1048576) (some_ : ticks.val ≠ 0) (h : (s.thread slot).st = .running ∨ (s.thread slot).st = .blocked) :
    ∃ t, exec (.delay slot ticks) s = .next t ∧ t.thread slot = { s.thread slot with st := .delayed, wake := s.sc.ticks + ticks } ∧
      slot.val ∈ Sparse.get [] t.sc.delayed (s.thread slot).core ∧ ∀ u, u ≠ slot.val → t.thread u = s.thread u := by
  have run := (execDelay_op up slot ticks).trans (State.schedOp_runs (by rcases h with h | h <;> simp [h, some_]) _)
  have sc : ((State.delayThread slot ticks s).settleSched s).sc = (State.delayThread slot ticks s).sc := State.settleSched_sc ..
  have thread : ∀ u, (State.delayThread slot ticks s).thread u = (s.updThread slot fun x => { x with st := .delayed, wake := s.sc.ticks + ticks }).thread u :=
    fun _ => rfl
  refine ⟨_, run, ?_, ?_, fun u hu => ?_⟩
  · rw [State.thread_of_sc sc, thread, State.thread_updThread_same]
  · have core : ((s.updThread slot fun x => { x with st := .delayed, wake := s.sc.ticks + ticks }).thread slot).core = (s.thread slot).core := by
      rw [State.thread_updThread_same]
    rw [sc, State.delayThread]
    dsimp only
    rw [core, Sparse.get_upd_same]
    exact mem_delayInsert ..
  · rw [State.thread_of_sc sc, thread, State.thread_updThread_ne _ _ hu.symm]

omit up in
/-- A slot taken off its lists and written. -/
theorem unlisted_spec (f : Thread → Thread) (was : State) :
    let t := ((s.unlist n).updThread n f).settleSched was
    t.thread n = f (s.thread n) ∧ (∀ u, u ≠ n → t.thread u = s.thread u) ∧ (∀ c p, n ∉ t.readyList c p) ∧ ∀ d, n ∉ Sparse.get [] t.sc.delayed d := by
  intro t
  have sc : t.sc = ((s.unlist n).updThread n f).sc := State.settleSched_sc ..
  refine ⟨?_, fun u hu => ?_, fun c p => ?_, fun d => ?_⟩
  · rw [State.thread_of_sc sc, State.thread_updThread_same]; rfl
  · rw [State.thread_of_sc sc, State.thread_updThread_ne _ _ hu.symm]; rfl
  · rw [State.readyList_of_sc sc]; exact s.not_ready_unlist n c p
  · rw [sc]; exact s.not_delayed_unlist n d

theorem setprio_gives (slot : Fin 512) (prio : Fin 32) (busy : (s.thread slot).st ≠ .free) (own : (s.thread slot).applet = none) :
    ∃ t, exec (.setprio slot prio) s = .next t ∧ t.thread slot = { s.thread slot with prio := prio } ∧ (∀ u, u ≠ slot.val → t.thread u = s.thread u) ∧
      ((s.thread slot).st = .ready →
        t.readyList (s.thread slot).list prio = (s.readyList (s.thread slot).list prio).filter (· ≠ slot.val) ++ [slot.val]) := by
  have floor : s.prioFloor slot = 0 := by rw [State.prioFloor, own]
  have run := (execSetprio_op up slot prio).trans (State.schedOp_runs (by simp [busy, floor]) _)
  have sc : ((State.givePrio (s.thread slot) slot prio s).settleSched s).sc = (State.givePrio (s.thread slot) slot prio s).sc := State.settleSched_sc ..
  have threads : (State.givePrio (s.thread slot) slot prio s).sc.threads = (s.updThread slot fun x => { x with prio := prio }).sc.threads := by
    unfold State.givePrio
    dsimp only
    split <;> rfl
  have thread : ∀ u, (State.givePrio (s.thread slot) slot prio s).thread u = (s.updThread slot fun x => { x with prio := prio }).thread u := fun u => by
    rw [State.thread, threads, State.thread]
  refine ⟨_, run, ?_, fun u hu => ?_, fun ready => ?_⟩
  · rw [State.thread_of_sc sc, thread, State.thread_updThread_same]
  · rw [State.thread_of_sc sc, thread, State.thread_updThread_ne _ _ hu.symm]
  · rw [State.readyList_of_sc sc, State.givePrio, if_pos ready, State.readyList_joinReady, State.readyList_unlist]
    rfl

theorem setprio_refused (slot : Fin 512) (prio : Fin 32) {a : Nat} {y : Applet} (own : (s.thread slot).applet = some a)
    (is : s.sc.applets.find? (·.1 == a) = some (a, y)) (high : prio.val < y.prioMin) : exec (.setprio slot prio) s = .next s.refuseOp := by
  have floor : s.prioFloor slot = y.prioMin := by rw [State.prioFloor, own]; simp only [is]; rfl
  exact (execSetprio_op up slot prio).trans (State.schedOp_refuses (by simp [floor]; intro _; omega) _)

end

/-! ## NEXT (R406) -/

theorem State.sample_sc (s : State) (kind index bin : Nat) (v : Int) (m : Nat) : (s.sample kind index bin v m).sc = s.sc := by
  unfold State.sample
  dsimp only
  split
  · rfl
  · split
    · rw [onlyFields_sc (State.raise_onlyFields ..)]
    · rfl

theorem State.sample_get (s : State) (kind index bin : Nat) (v : Int) (m : Nat) {f : Field} (h : (R.BLK_INT_RAW pgAGT).key ≠ f.key) :
    (s.sample kind index bin v m).get f = s.get f := by
  unfold State.sample
  dsimp only
  split
  · rfl
  · split
    · rw [State.raise_get_ne _ _ _ _ h]; rfl
    · rfl

theorem head_flatMap_none {α : Type} (f : Nat → List α) (ps : List Nat) (h : ∀ p ∈ ps, f p = []) : (ps.flatMap f).head? = none := by
  rw [List.head?_eq_none_iff, List.flatMap_eq_nil_iff]; exact h

/-- The first of the lists that is not empty. -/
theorem head_flatMap_some {α : Type} (f : Nat → List α) {p k : Nat} {x : α} {xs : List α} (hp : p < k) (before : ∀ q < p, f q = []) (is : f p = x :: xs) :
    ((List.range k).flatMap f).head? = some x := by
  obtain ⟨m, rfl⟩ := Nat.exists_eq_add_of_lt hp
  rw [Nat.add_assoc, List.range_add, List.flatMap_append, List.flatMap_eq_nil_iff.2 fun q hq => before q (List.mem_range.1 hq), List.nil_append,
    List.range_succ_eq_map]
  simp [is]

section
variable {core : Fin 8} (up : s.responds pgSCHED = true)
include up

/-- The state as a core reads NEXT. -/
def State.coreSeen (s : State) (c : Nat) : State := s.setBit R.SCHED_CORE_UP c true

theorem nextRead_none (empty : ∀ p < 32, s.readyList core p = []) :
    ∃ t, exec (.nextRead core) s = .next t ∧ t.out = s.out ++ [.next core none] ∧ t.sc = s.sc := by
  have head : ((List.range 32).flatMap fun p => (s.coreSeen core).readyList core p).head? = none :=
    head_flatMap_none _ _ fun p hp => empty p (List.mem_range.1 hp)
  refine ⟨(s.coreSeen core).emit (.next core none), ?_, rfl, rfl⟩
  show execNextRead core s = _
  unfold execNextRead
  rw [if_neg (by simp [up])]
  show (match ((List.range 32).flatMap fun p => (s.coreSeen core).readyList core p).head? with | none => _ | some t => _) = _
  rw [head]
  rfl

/-- The state as slot `u` begins to run on a core. -/
def State.taken (s : State) (u c : Nat) : State :=
  let t := (s.unlist u).updThread u fun x => { x with st := .running, core := c }
  { t with sc := { t.sc with tags := Sparse.set 0 t.sc.tags c (t.thread u).tag } }

theorem nextRead_runs {p u : Nat} {us : List Nat} (hp : p < 32) (before : ∀ q < p, s.readyList core q = []) (first : s.readyList core p = u :: us) :
    ∃ wait, exec (.nextRead core) s = .next (((((s.coreSeen core).taken u core).sample 2 core (logBin wait) wait).emit (.next core (some u))).settleSched
      (s.coreSeen core)) := by
  have head : ((List.range 32).flatMap fun p => (s.coreSeen core).readyList core p).head? = some u :=
    head_flatMap_some (fun p => (s.coreSeen core).readyList core p) hp before first
  refine ⟨(s.coreSeen core).quartz - ((s.coreSeen core).thread u).readyAt, ?_⟩
  show execNextRead core s = _
  unfold execNextRead
  rw [if_neg (by simp [up])]
  show (match ((List.range 32).flatMap fun p => (s.coreSeen core).readyList core p).head? with | none => _ | some t => _) = _
  rw [head]
  rfl

theorem nextRead_spec {p u : Nat} {us : List Nat} (hp : p < 32) (before : ∀ q < p, s.readyList core q = []) (first : s.readyList core p = u :: us) :
    ∃ t, exec (.nextRead core) s = .next t ∧ t.thread u = { s.thread u with st := .running, core := core } ∧ .next core (some u) ∈ t.out ∧
      t.bit R.SCHED_CORE_UP core = true ∧ (∀ v, v ≠ u → t.thread v = s.thread v) ∧ t.readyList core p = us.filter (· ≠ u) := by
  obtain ⟨wait, run⟩ := nextRead_runs up hp before first
  have sc := (((s.coreSeen core).taken u core).sample 2 core (logBin wait) wait).emit (.next core (some u)) |>.settleSched_sc (s.coreSeen core)
  have sc : _ = ((s.coreSeen core).taken u core).sc := sc.trans (State.sample_sc ..)
  have bit : (((((s.coreSeen core).taken u core).sample 2 core (logBin wait) wait).emit (.next core (some u))).settleSched (s.coreSeen core)).get
      R.SCHED_CORE_UP = (s.coreSeen core).get R.SCHED_CORE_UP := by
    rw [State.settleSched_get (by decide)]
    exact State.sample_get _ _ _ _ _ _ (by decide)
  have thread : ∀ v, ((s.coreSeen core).taken u core).thread v = ((s.unlist u).updThread u fun x => { x with st := .running, core := core }).thread v := fun _ => rfl
  refine ⟨_, run, ?_, State.settleSched_mem (List.mem_append_right _ (List.mem_singleton_self _)), ?_, fun v hv => ?_, ?_⟩
  · rw [State.thread_of_sc sc, thread, State.thread_updThread_same]; rfl
  · rw [State.bit, bit, ← State.bit, State.coreSeen, State.bit_setBit _ _ _ _ _ core.2, if_pos rfl]
  · rw [State.thread_of_sc sc, thread, State.thread_updThread_ne _ _ hv.symm]; rfl
  · rw [State.readyList_of_sc sc]
    refine (State.readyList_unlist (s.coreSeen core) u core p).trans ?_
    rw [show (s.coreSeen core).readyList core p = s.readyList core p from rfl, first]
    simp

end

/-! ## The tick (R407, R408) -/

/-- A slot made READY, of several, stays so. -/
theorem State.enlists_ready (since : State → Nat → Nat) (us : List Nat) (s : State) (h : u ∈ us ∨ (s.thread u).st = .ready) :
    ((us.foldl (fun s n => s.enlist n (since s n)) s).thread u).st = .ready := by
  induction us generalizing s with
  | nil => exact h.resolve_left List.not_mem_nil
  | cons n us ih =>
    refine ih _ ?_
    by_cases same : u = n
    · subst same
      exact .inr (by rw [State.enlist_thread_same])
    · rw [State.enlist_thread_ne _ _ same]
      exact h.imp_left fun h => (List.mem_cons.1 h).resolve_left same

/-- Slots made READY change no other slot, no register and no count of ticks. -/
theorem State.enlists_rest (since : State → Nat → Nat) (us : List Nat) (s : State) :
    let t := us.foldl (fun s n => s.enlist n (since s n)) s
    (∀ u, u ∉ us → t.thread u = s.thread u) ∧ (∀ f, t.get f = s.get f) ∧ t.sc.ticks = s.sc.ticks ∧ t.sc.tickDue = s.sc.tickDue := by
  induction us generalizing s with
  | nil => exact ⟨fun _ _ => rfl, fun _ => rfl, rfl, rfl⟩
  | cons n us ih =>
    obtain ⟨thread, get, ticks, due⟩ := ih (s.enlist n (since s n))
    obtain ⟨ticks', due'⟩ := s.enlist_tick n (since s n)
    refine ⟨fun u hu => ?_, fun f => (get f).trans (s.enlist_get ..), ticks.trans ticks', due.trans due'⟩
    rw [List.mem_cons, not_or] at hu
    exact (thread u hu.2).trans (State.enlist_thread_ne _ _ hu.1)

/-- The state with the ticks that are due counted. -/
def State.ticked (s : State) : State :=
  let s := s.fire 4
  let n := (s.quartz - s.sc.tickDue) / s.tickNs + 1
  { s with sc.ticks := s.sc.ticks + n, sc.tickDue := s.sc.tickDue + n * s.tickNs }

/-- The slots whose wake tick is reached. -/
def State.wakers (s : State) : List Nat :=
  (List.range 8).flatMap fun c => (Sparse.get [] s.sc.delayed c).filter fun t => (s.thread t).wake ≤ s.sc.ticks

theorem State.mem_wakers : u ∈ s.wakers ↔ ∃ c < 8, u ∈ Sparse.get [] s.sc.delayed c ∧ (s.thread u).wake ≤ s.sc.ticks := by
  simp only [State.wakers, List.mem_flatMap, List.mem_range, List.mem_filter, decide_eq_true_eq]

theorem schedTick_ticks (unit : s.hasUnit 4 = true) (due : s.sc.tickDue ≤ s.quartz) (on : s.bit R.PWR_DOMAIN_ON_HI 0 = true) :
    exec .schedTick s = .next (((inWakeOrder (fun t => (s.ticked.thread t).wake) s.ticked.wakers).foldl (fun s t => s.enlist t s.quartz) s.ticked).settleSched
      s) := if_neg (by simp [unit, on]; omega)

theorem schedTick_spec (unit : s.hasUnit 4 = true) (due : s.sc.tickDue ≤ s.quartz) (on : s.bit R.PWR_DOMAIN_ON_HI 0 = true) :
    ∃ t, exec .schedTick s = .next t ∧ s.quartz < t.sc.tickDue ∧ t.sc.ticks = s.sc.ticks + (s.quartz - s.sc.tickDue) / s.tickNs + 1 ∧
      t.get (R.QTZ_FIRED (s.get (R.QTZ_UNIT 4))) = 1 ∧
      (∀ c < 8, ∀ u ∈ Sparse.get [] s.sc.delayed c, (s.thread u).wake ≤ t.sc.ticks → (t.thread u).st = .ready) ∧
      (∀ u, (∀ c < 8, u ∉ Sparse.get [] s.sc.delayed c) → t.thread u = s.thread u) := by
  have run := schedTick_ticks unit due on
  have low : s.get (R.QTZ_UNIT 4) < 16 := Nat.mod_lt _ (by decide)
  have period : (s.fire 4).tickNs = s.tickNs := by
    have : (s.fire 4).get R.SCHED_TICK_US = s.get R.SCHED_TICK_US :=
      State.get_set_ne _ _ _ _ (by simp only [Field.key, R.QTZ_FIRED, R.SCHED_TICK_US]; omega)
    simp only [State.tickNs, this]
  have counted : s.ticked.sc = { s.sc with
      ticks := s.sc.ticks + ((s.quartz - s.sc.tickDue) / s.tickNs + 1)
      tickDue := s.sc.tickDue + ((s.quartz - s.sc.tickDue) / s.tickNs + 1) * s.tickNs } := by rw [← period]; rfl
  have fired : s.ticked.get (R.QTZ_FIRED (s.get (R.QTZ_UNIT 4))) = 1 := s.get_set_same (R.QTZ_FIRED (s.get (R.QTZ_UNIT 4))) 1
  have thread : ∀ u, s.ticked.thread u = s.thread u := fun u => by rw [State.thread, counted, State.thread]
  have wakers : ∀ u, u ∈ s.ticked.wakers ↔ ∃ c < 8, u ∈ Sparse.get [] s.sc.delayed c ∧ (s.thread u).wake ≤ s.ticked.sc.ticks := fun u => by
    rw [State.mem_wakers, thread, counted]
  generalize s.ticked = v at *
  have order : ∀ u, u ∈ inWakeOrder (fun t => (v.thread t).wake) v.wakers ↔ u ∈ v.wakers := fun u => mem_inWakeOrder _ _ _
  generalize inWakeOrder (fun t => (v.thread t).wake) v.wakers = us at run order
  have ready := fun u => State.enlists_ready (u := u) (fun s _ => s.quartz) us v
  obtain ⟨rest, get, ticks, tickDue⟩ := State.enlists_rest (fun s _ => s.quartz) us v
  generalize us.foldl (fun s t => s.enlist t s.quartz) v = w at *
  have sc := w.settleSched_sc s
  refine ⟨_, run, ?_, ?_, ?_, fun c hc u hu wake => ?_, fun u none_ => ?_⟩
  · rw [sc, tickDue, counted]
    have pos : 0 < s.tickNs := by unfold State.tickNs; omega
    have := Nat.lt_div_mul_add (a := s.quartz - s.sc.tickDue) pos
    simp only [Nat.add_mul, Nat.one_mul]
    omega
  · rw [sc, ticks, counted]; rfl
  · rw [State.settleSched_get (by simp only [Field.key, R.QTZ_FIRED, R.BLK_INT_RAW, pgSCHED]; omega), get, fired]
  · rw [sc, ticks] at wake
    rw [State.thread_of_sc sc]
    exact ready u (.inl ((order u).2 ((wakers u).2 ⟨c, hc, hu, wake⟩)))
  · rw [State.thread_of_sc sc, rest u fun h => ?_, thread]
    obtain ⟨c, hc, hu, -⟩ := (wakers u).1 ((order u).1 h)
    exact none_ c hc hu

/-! ## HOLD and CORE_RESET (R413) -/

/-- A READY slot of a newly held core moves where it can. -/
def State.moveAway (s : State) (n : Nat) : State := if (s.candidates n).isEmpty then s else s.enlist n (s.thread n).readyAt

theorem State.moveAway_spec (s : State) (n u : Nat) : (s.moveAway n).candidates u = s.candidates u ∧ ((s.moveAway n).thread u).core = (s.thread u).core ∧
    ((s.moveAway n).thread u).readyAt = (s.thread u).readyAt ∧ (s.moveAway n).get R.SCHED_HOLD = s.get R.SCHED_HOLD ∧
    (s.candidates u ≠ [] → u = n ∨ (s.thread u).list ∈ s.candidates u → ((s.moveAway n).thread u).list ∈ s.candidates u) := by
  unfold State.moveAway
  split
  next stuck => exact ⟨rfl, rfl, rfl, rfl, fun ne h => h.resolve_left fun e => ne (by simpa [e] using stuck)⟩
  · have same := s.candidates_enlist n (s.thread n).readyAt u
    by_cases h : u = n
    · subst h
      have seat : s.candidates u ≠ [] → s.seat u ∈ s.candidates u := State.seat_mem
      rw [State.enlist_thread_same]
      exact ⟨same, rfl, rfl, s.enlist_get .., fun ne _ => seat ne⟩
    · rw [State.enlist_thread_ne _ _ h]
      exact ⟨same, rfl, rfl, s.enlist_get .., fun _ at_ => at_.resolve_left h⟩

theorem State.movedAway_spec (us : List Nat) (s : State) (u : Nat) :
    let t := us.foldl State.moveAway s
    t.candidates u = s.candidates u ∧ (t.thread u).core = (s.thread u).core ∧ (t.thread u).readyAt = (s.thread u).readyAt ∧
      t.get R.SCHED_HOLD = s.get R.SCHED_HOLD ∧
      (s.candidates u ≠ [] → u ∈ us ∨ (s.thread u).list ∈ s.candidates u → (t.thread u).list ∈ s.candidates u) := by
  induction us generalizing s with
  | nil => exact ⟨rfl, rfl, rfl, rfl, fun _ h => h.resolve_left List.not_mem_nil⟩
  | cons n us ih =>
    obtain ⟨cands, core, since, hold, list⟩ := s.moveAway_spec n u
    obtain ⟨cands', core', since', hold', list'⟩ := ih (s.moveAway n)
    refine ⟨cands'.trans cands, core'.trans core, since'.trans since, hold'.trans hold, fun ne h => ?_⟩
    rw [cands] at list'
    refine list' ne ?_
    rcases h with h | h
    · exact (List.mem_cons.1 h).symm.imp_right fun e => list ne (.inl e)
    · exact .inr (list ne (.inr h))

/-- The READY slots of the cores a HOLD newly holds. -/
def State.displaced (s was : State) : List Nat :=
  ((List.range 8).filter fun c => s.held c && !was.held c).flatMap fun c => (List.range 32).flatMap fun p => s.readyList c p

section
variable (up : s.responds pgSCHED = true)
include up

theorem hold_spec {v : BitVec 8} (some_ : v ≠ 0xFF#8) : ∃ t, exec (.hold v) s = .next t ∧ t.get R.SCHED_HOLD = v.toNat ∧
    ∀ c < 8, s.held c = false → v.getLsbD c = true → ∀ p < 32, ∀ u ∈ s.readyList c p, t.candidates u ≠ [] →
      (t.thread u).list ∈ t.candidates u ∧ (t.thread u).core = (s.thread u).core ∧ (t.thread u).readyAt = (s.thread u).readyAt := by
  have run : exec (.hold v) s =
      .next ((((s.set R.SCHED_HOLD v.toNat).displaced s).foldl State.moveAway (s.set R.SCHED_HOLD v.toNat)).settleSched s) := by
    show execHold v s = _
    unfold execHold
    rw [if_neg (by simp [up]), if_neg some_]
    rfl
  have held : (s.set R.SCHED_HOLD v.toNat).get R.SCHED_HOLD = v.toNat := by
    rw [State.get_set_same]; exact Nat.mod_eq_of_lt v.isLt
  have moves : ∀ c < 8, s.held c = false → v.getLsbD c = true → ∀ p < 32, ∀ u ∈ s.readyList c p, u ∈ (s.set R.SCHED_HOLD v.toNat).displaced s := by
    intro c hc off on p hp u hu
    refine List.mem_flatMap.2 ⟨c, List.mem_filter.2 ⟨List.mem_range.2 hc, ?_⟩, List.mem_flatMap.2 ⟨p, List.mem_range.2 hp, hu⟩⟩
    have now : (s.set R.SCHED_HOLD v.toNat).held c = true := by
      rw [State.held, State.bit, held, bitOf_testBit, ← on]; rfl
    rw [now, off]; rfl
  generalize hus : (s.set R.SCHED_HOLD v.toNat).displaced s = us at *
  have spec := fun u => State.movedAway_spec us (s.set R.SCHED_HOLD v.toNat) u
  generalize us.foldl State.moveAway (s.set R.SCHED_HOLD v.toNat) = w at *
  have hold := State.settleSched_get (s := w) (was := s) (f := R.SCHED_HOLD) (by decide)
  have thread := State.thread_of_sc (w.settleSched_sc s)
  refine ⟨_, run, (hold.trans (spec 0).2.2.2.1).trans held, fun c hc off on p hp u hu ne => ?_⟩
  obtain ⟨cands, core, since, -, list⟩ := spec u
  rw [State.candidates_of (aff := by rw [thread]) hold, cands] at ne ⊢
  rw [thread, core, since]
  exact ⟨list ne (.inl (moves c hc off on p hp u hu)), rfl, rfl⟩

/-- A core restarted where it is named and held idle. -/
def State.restartCore (v : BitVec 8) (s : State) (c : Nat) : State :=
  if v.getLsbD c && s.heldIdle c then
    { (s.setBit R.SCHED_CORE_UP c false).setBit R.SCHED_CORE_FW c (s.get R.SCHED_FW_SEL == 1) with sc.tags := Sparse.set 0 s.sc.tags c 0 }
  else s

omit up in
theorem State.heldIdle_of (threads : t.sc.threads = s.sc.threads) (hold : t.get R.SCHED_HOLD = s.get R.SCHED_HOLD) (c : Nat) : t.heldIdle c = s.heldIdle c := by
  simp only [State.heldIdle, State.held, State.bit, hold, threads]

omit up in
theorem State.restartCore_spec (v : BitVec 8) (s : State) {d : Nat} (hd : d < 8) (c : Nat) :
    let t := s.restartCore v d
    t.heldIdle c = s.heldIdle c ∧ t.get R.SCHED_FW_SEL = s.get R.SCHED_FW_SEL ∧
      (c < 8 → t.bit R.SCHED_CORE_UP c = (if c = d ∧ (v.getLsbD c && s.heldIdle c) = true then false else s.bit R.SCHED_CORE_UP c) ∧
        t.bit R.SCHED_CORE_FW c = (if c = d ∧ (v.getLsbD c && s.heldIdle c) = true then s.get R.SCHED_FW_SEL == 1 else s.bit R.SCHED_CORE_FW c)) := by
  unfold State.restartCore
  split
  next h =>
    generalize hx : ((s.setBit R.SCHED_CORE_UP d false).setBit R.SCHED_CORE_FW d (s.get R.SCHED_FW_SEL == 1)) = x
    have other : ∀ f : Field, R.SCHED_CORE_FW.key ≠ f.key → R.SCHED_CORE_UP.key ≠ f.key → x.get f = s.get f := fun f a b => by
      rw [← hx, State.get_setBit_ne _ _ _ _ _ a, State.get_setBit_ne _ _ _ _ _ b]
    refine ⟨State.heldIdle_of (by rw [← hx]; rfl) (other _ (by decide) (by decide)) c, other _ (by decide) (by decide), fun hc => ⟨?_, ?_⟩⟩
    · show x.bit R.SCHED_CORE_UP c = _
      rw [← hx, State.bit, State.get_setBit_ne _ _ _ _ _ (by decide), ← State.bit, State.bit_setBit _ _ _ _ _ hc]
      by_cases e : c = d
      · subst e; rw [if_pos rfl, if_pos ⟨rfl, h⟩]
      · rw [if_neg e, if_neg (fun k => e k.1)]
    · show x.bit R.SCHED_CORE_FW c = _
      rw [← hx, State.bit_setBit _ _ _ _ _ hc]
      by_cases e : c = d
      · subst e; rw [if_pos rfl, if_pos ⟨rfl, h⟩]
      · rw [if_neg e, if_neg (fun k => e k.1), State.bit, State.get_setBit_ne _ _ _ _ _ (by decide), State.bit]
  next h =>
    have no : ¬(c = d ∧ (v.getLsbD c && s.heldIdle c) = true) := fun ⟨e, k⟩ => h (e ▸ k)
    exact ⟨rfl, rfl, fun _ => by rw [if_neg no, if_neg no]; exact ⟨rfl, rfl⟩⟩

omit up in
/-- The cores up to `m` are restarted. -/
theorem State.restartCores_spec (v : BitVec 8) (s : State) {m : Nat} (hm : m ≤ 8) (c : Nat) :
    let t := (List.range m).foldl (State.restartCore v) s
    t.heldIdle c = s.heldIdle c ∧ t.get R.SCHED_FW_SEL = s.get R.SCHED_FW_SEL ∧
      (c < 8 → t.bit R.SCHED_CORE_UP c = (if c < m ∧ (v.getLsbD c && s.heldIdle c) = true then false else s.bit R.SCHED_CORE_UP c) ∧
        t.bit R.SCHED_CORE_FW c = (if c < m ∧ (v.getLsbD c && s.heldIdle c) = true then s.get R.SCHED_FW_SEL == 1 else s.bit R.SCHED_CORE_FW c)) := by
  induction m with
  | zero => exact ⟨rfl, rfl, fun _ => ⟨(if_neg (by simp)).symm, (if_neg (by simp)).symm⟩⟩
  | succ m ih =>
    obtain ⟨idle, sel, rest⟩ := ih (by omega)
    rw [List.range_succ, List.foldl_append]
    generalize (List.range m).foldl (State.restartCore v) s = w at *
    obtain ⟨idle', sel', step⟩ := w.restartCore_spec v (d := m) (by omega) c
    refine ⟨idle'.trans idle, sel'.trans sel, fun hc => ?_⟩
    obtain ⟨upBit, fw⟩ := rest hc
    obtain ⟨upBit', fw'⟩ := step hc
    refine ⟨upBit'.trans ?_, fw'.trans ?_⟩
    · rw [idle, upBit]
      by_cases named : (v.getLsbD c && s.heldIdle c) = true
      · by_cases e : c = m
        · simp [e]
        · simp [named, e, show c < m + 1 ↔ c < m by omega]
      · simp [named]
    · rw [idle, sel, fw]
      by_cases named : (v.getLsbD c && s.heldIdle c) = true
      · by_cases e : c = m
        · simp [e]
        · simp [named, e, show c < m + 1 ↔ c < m by omega]
      · simp [named]

theorem coreReset_spec (v : BitVec 8) : ∃ t, exec (.coreReset v) s = .next t ∧ ∀ c < 8, let r := v.getLsbD c && s.heldIdle c
    t.bit R.SCHED_CORE_UP c = (s.bit R.SCHED_CORE_UP c && !r) ∧
    t.bit R.SCHED_CORE_FW c = (if r then s.get R.SCHED_FW_SEL == 1 else s.bit R.SCHED_CORE_FW c) := by
  have run : exec (.coreReset v) s = .next ((List.range 8).foldl (State.restartCore v) s) := by
    show execCoreReset v s = _
    unfold execCoreReset
    rw [if_neg (by simp [up])]
    rfl
  refine ⟨_, run, fun c hc => ?_⟩
  obtain ⟨upBit, fw⟩ := (s.restartCores_spec v le_rfl c).2.2 hc
  intro r
  rw [upBit, fw]
  show (if c < 8 ∧ r = true then _ else _) = _ ∧ (if c < 8 ∧ r = true then _ else _) = _
  cases r <;> simp [hc]

end

/-- Settles O50: every operation by the state Table 17.1 allows it from; a slot's own writes and lists from the lemmas of `enlist`, several slots at once
by induction on their list. -/
theorem schedulerRunsItsThreads : Obligations.SchedulerRunsItsThreads := by
  unfold Obligations.SchedulerRunsItsThreads
  refine ⟨fun slot s => create_makes (slot := slot), fun slot ticks prio s up => ops_refused up slot ticks prio, State.refuseOp_spec,
    fun slot s up from_ => ready_lists up slot from_, fun u s => ⟨fun none_ => ?_, State.placeOn_least⟩,
    fun slot ticks s up some_ from_ => delay_lists up slot ticks some_ from_, fun slot s up from_ => ?_, fun slot s up busy => ?_,
    fun slot prio s up busy own => setprio_gives up slot prio busy own, fun slot prio a y s up own is high => setprio_refused up slot prio own is high,
    fun core s up empty => nextRead_none up empty, fun core p u us s up hp before first => nextRead_spec up hp before first,
    fun s unit due on => schedTick_spec unit due on, fun v s up => ⟨fun all => ?_, hold_spec up⟩, fun v s up => coreReset_spec up v, fun s h => ?_,
    fun slot ticks prio core v s down => ?_⟩
  · rw [State.placeOn_eq, none_]; rfl
  · exact ⟨_, (execBlock_op up slot).trans (State.schedOp_runs (by rcases from_ with h | h | h <;> simp [h]) _), unlisted_spec _ s⟩
  · exact ⟨_, (execFree_op up slot).trans (State.schedOp_runs (by simpa using busy) _), unlisted_spec _ s⟩
  · show execHold v s = _
    rw [execHold, if_neg (by simp [up]), if_pos all]
  · exact if_pos (by rcases h with h | h | h <;> simp [h])
  · have off : (!s.responds pgSCHED) = true := by simp [down]
    exact ⟨if_pos off, if_pos off, if_pos off, if_pos off, if_pos off, if_pos off, if_pos off, if_pos off, if_pos off⟩

end Sys2Proof.Machine
end

section
/-! SUPPORT. Compare units and Agate's windows (R409-R412, R436-R442). -/
namespace Sys2Proof.Machine

variable {s t : State} {u : Nat}

/-! ## Claims of units (R411) -/

/-- The feature that claims unit `u`. -/
def State.claimant (s : State) (u : Nat) : Option Nat := (List.range 16).find? fun f => s.get (R.QTZ_EN f) == 1 && s.get (R.QTZ_UNIT f) == u

/-- OWNER and HELD of unit `u` by its claimant. -/
def State.settleUnitOf (s : State) (u : Nat) : State :=
  match s.claimant u with
  | some f => (s.set (R.QTZ_OWNER u) f).set (R.QTZ_HELD u) 1
  | none => (s.set (R.QTZ_OWNER u) 0).set (R.QTZ_HELD u) 0

theorem State.settleUnitOf_get (s : State) (u : Nat) {f : Field} (owner : (R.QTZ_OWNER u).key ≠ f.key) (held : (R.QTZ_HELD u).key ≠ f.key) :
    (s.settleUnitOf u).get f = s.get f := by
  unfold State.settleUnitOf
  split <;> rw [State.get_set_ne _ _ _ _ held, State.get_set_ne _ _ _ _ owner]

/-- A state without its registers. -/
def State.offRegisters (s : State) : State := { s with regs := [] }

theorem rest_of_offRegisters (h : t.offRegisters = s.offRegisters) : t.out = s.out ∧ t.ge = s.ge :=
  ⟨show t.offRegisters.out = s.offRegisters.out from by rw [h], show t.offRegisters.ge = s.offRegisters.ge from by rw [h]⟩

theorem State.settleUnitOf_only (s : State) (u : Nat) : (s.settleUnitOf u).offRegisters = s.offRegisters := by
  unfold State.settleUnitOf
  split <;> rfl

theorem claim_key (f u : Nat) (hf : f < 16) (hu : u < 16) : (R.QTZ_OWNER u).key ≠ (R.QTZ_EN f).key ∧ (R.QTZ_HELD u).key ≠ (R.QTZ_EN f).key ∧
    (R.QTZ_OWNER u).key ≠ (R.QTZ_UNIT f).key ∧ (R.QTZ_HELD u).key ≠ (R.QTZ_UNIT f).key := by
  simp only [Field.key, R.QTZ_OWNER, R.QTZ_HELD, R.QTZ_EN, R.QTZ_UNIT]; omega

theorem find_congr {α : Type} {p q : α → Bool} {xs : List α} (h : ∀ x ∈ xs, p x = q x) : xs.find? p = xs.find? q := by
  induction xs with
  | nil => rfl
  | cons x xs ih => rw [List.find?_cons, List.find?_cons, h x (by simp), ih fun y hy => h y (by simp [hy])]

theorem State.settleUnitOf_claimant (s : State) {u : Nat} (hu : u < 16) (w : Nat) : (s.settleUnitOf u).claimant w = s.claimant w := by
  refine find_congr fun f hf => ?_
  obtain ⟨a, b, c, d⟩ := claim_key f u (List.mem_range.1 hf) hu
  rw [State.settleUnitOf_get _ _ a b, State.settleUnitOf_get _ _ c d]

/-- The units up to `m` are settled. -/
theorem State.settleUnits_upto (s : State) {m : Nat} (hm : m ≤ 16) :
    let t := (List.range m).foldl State.settleUnitOf s
    (∀ w, t.claimant w = s.claimant w) ∧ t.offRegisters = s.offRegisters ∧
      (∀ f : Field, (∀ u < 16, (R.QTZ_OWNER u).key ≠ f.key ∧ (R.QTZ_HELD u).key ≠ f.key) → t.get f = s.get f) ∧
      ∀ u < m, ∀ f < 16, s.claimant u = some f → t.get (R.QTZ_OWNER u) = f ∧ t.get (R.QTZ_HELD u) = 1 := by
  induction m with
  | zero => exact ⟨fun _ => rfl, rfl, fun _ _ => rfl, fun u hu => absurd hu (Nat.not_lt_zero u)⟩
  | succ m ih =>
    obtain ⟨claim, only, off, owned⟩ := ih (by omega)
    rw [List.range_succ, List.foldl_append]
    generalize (List.range m).foldl State.settleUnitOf s = v at *
    show (∀ w, (v.settleUnitOf m).claimant w = _) ∧ (v.settleUnitOf m).offRegisters = _ ∧ (∀ f : Field, _ → (v.settleUnitOf m).get f = _) ∧ _
    refine ⟨fun w => (v.settleUnitOf_claimant (by omega) w).trans (claim w), (v.settleUnitOf_only m).trans only, fun f hf => ?_, fun u hu f hf is => ?_⟩
    · rw [v.settleUnitOf_get m (hf m (by omega)).1 (hf m (by omega)).2, off f hf]
    · by_cases e : u = m
      · subst e
        show (v.settleUnitOf u).get _ = _ ∧ (v.settleUnitOf u).get _ = _
        rw [← claim] at is
        unfold State.settleUnitOf
        rw [is]
        dsimp only
        rw [State.get_set_ne _ _ _ _ (by simp only [Field.key, R.QTZ_HELD, R.QTZ_OWNER]; omega), State.get_set_same, State.get_set_same]
        exact ⟨Nat.mod_eq_of_lt hf, rfl⟩
      · have apart : (R.QTZ_OWNER m).key ≠ (R.QTZ_OWNER u).key ∧ (R.QTZ_HELD m).key ≠ (R.QTZ_OWNER u).key ∧ (R.QTZ_OWNER m).key ≠ (R.QTZ_HELD u).key ∧
            (R.QTZ_HELD m).key ≠ (R.QTZ_HELD u).key := by simp only [Field.key, R.QTZ_HELD, R.QTZ_OWNER]; omega
        show (v.settleUnitOf m).get _ = _ ∧ (v.settleUnitOf m).get _ = _
        rw [v.settleUnitOf_get m apart.1 apart.2.1, v.settleUnitOf_get m apart.2.2.1 apart.2.2.2]
        exact owned u (by omega) f hf is

theorem State.settleUnits_eq (s : State) : s.settleUnits = (List.range 16).foldl State.settleUnitOf s := rfl

theorem find_unique {α : Type} {p : α → Bool} {xs : List α} {x : α} (mem : x ∈ xs) (is : p x = true) (only : ∀ y ∈ xs, p y = true → y = x) :
    xs.find? p = some x := by
  cases found : xs.find? p with
  | none => exact absurd is (List.find?_eq_none.1 found x mem)
  | some y => rw [only y (List.mem_of_find?_eq_some found) (List.find?_some found)]

/-- A unit claimed by one feature alone. -/
theorem State.claimant_of {f : Nat} (hf : f < 16) (on : s.get (R.QTZ_EN f) = 1) (unit : s.get (R.QTZ_UNIT f) = u)
    (alone : ∀ g < 16, g ≠ f → s.get (R.QTZ_EN g) = 1 → s.get (R.QTZ_UNIT g) ≠ u) : s.claimant u = some f := by
  refine find_unique (List.mem_range.2 hf) (by simp [on, unit]) fun g hg is => ?_
  simp only [Bool.and_eq_true, beq_iff_eq] at is
  exact by_contra fun e => alone g (List.mem_range.1 hg) e is.1 is.2

/-- A feature's register written. -/
def State.claimWritten (s : State) (f v : Nat) : State :=
  ((s.set (R.QTZ_UNIT f) v).set (R.QTZ_EN f) (v / 16)).set (R.QTZ_HT_TB f) (v / 32)

/-- AGT_WIN, written without EN, makes Agate's next record LONG. -/
def State.claimNoted (s : State) (f v : Nat) : State :=
  if f = 5 ∧ ¬ bitOf v 4 then { s.claimWritten f v with ag.longWin := true } else s.claimWritten f v

theorem State.claimNoted_regs (s : State) (f v : Nat) : (s.claimNoted f v).regs = (s.claimWritten f v).regs := by
  unfold State.claimNoted
  split <;> rfl

theorem State.claimNoted_get (s : State) {f v : Nat} (hf : f < 16) :
    (s.claimNoted f v).get (R.QTZ_UNIT f) = v % 16 ∧ (s.claimNoted f v).get (R.QTZ_EN f) = v / 16 % 2 ∧ (s.claimNoted f v).get (R.QTZ_HT_TB f) = v / 32 % 2 ∧
    (∀ g < 16, g ≠ f → (s.claimNoted f v).get (R.QTZ_EN g) = s.get (R.QTZ_EN g) ∧ (s.claimNoted f v).get (R.QTZ_UNIT g) = s.get (R.QTZ_UNIT g)) ∧
    (s.claimNoted f v).get (R.BLK_INT_RAW pgQTZ) = s.get (R.BLK_INT_RAW pgQTZ) ∧ (s.claimNoted f v).out = s.out ∧ (s.claimNoted f v).ge = s.ge := by
  have reg : ∀ r, (s.claimNoted f v).get r = (s.claimWritten f v).get r := fun r => by rw [State.get, State.claimNoted_regs, State.get]
  have rest : (s.claimNoted f v).out = s.out ∧ (s.claimNoted f v).ge = s.ge := by
    unfold State.claimNoted
    split <;> exact ⟨rfl, rfl⟩
  have off : ∀ r : Field, (R.QTZ_UNIT f).key ≠ r.key → (R.QTZ_EN f).key ≠ r.key → (R.QTZ_HT_TB f).key ≠ r.key →
      (s.claimWritten f v).get r = s.get r := fun r a b c => by
    rw [State.claimWritten, State.get_set_ne _ _ _ _ c, State.get_set_ne _ _ _ _ b, State.get_set_ne _ _ _ _ a]
  simp only [reg]
  refine ⟨?_, ?_, State.get_set_same .., fun g hg ne => ⟨off _ ?_ ?_ ?_, off _ ?_ ?_ ?_⟩, off _ ?_ ?_ ?_, rest⟩
  · rw [State.claimWritten, State.get_set_ne _ _ _ _ (by simp only [Field.key, R.QTZ_HT_TB, R.QTZ_UNIT]; omega),
      State.get_set_ne _ _ _ _ (by simp only [Field.key, R.QTZ_EN, R.QTZ_UNIT]; omega), State.get_set_same]; rfl
  · rw [State.claimWritten, State.get_set_ne _ _ _ _ (by simp only [Field.key, R.QTZ_HT_TB, R.QTZ_EN]; omega), State.get_set_same]; rfl
  all_goals simp only [Field.key, R.QTZ_HT_TB, R.QTZ_EN, R.QTZ_UNIT, R.BLK_INT_RAW, pgQTZ]; omega

/-- The other feature that claims the unit of `f`. -/
def State.rival (s : State) (f : Nat) : Option Nat :=
  (List.range 16).find? fun g => g != f && s.get (R.QTZ_EN g) == 1 && s.get (R.QTZ_UNIT g) == s.get (R.QTZ_UNIT f)

/-- What a claim does after its register is written. -/
def State.claimJudged (s : State) (f : Nat) (held : Option Nat) : State :=
  if s.get (R.QTZ_EN f) = 0 then s
  else match s.rival f with
    | none => s
    | some g => if outranks featureClass f g then s.loseUnit g f (some (s.get (R.QTZ_UNIT g))) else s.loseUnit f g held

section
variable {f : Fin 16} {v : Word} (up : s.responds pgQTZ = true)
include up

theorem featureClaim_eq : ∃ held, exec (.featureClaim f v) s = .next ((s.claimNoted f v.toNat).claimJudged f held).settleUnits := by
  refine ⟨if s.get (R.QTZ_EN f) = 1 then some (s.get (R.QTZ_UNIT f)) else none, ?_⟩
  show execFeatureClaim f v s = _
  unfold execFeatureClaim
  rw [if_neg (by simp [up])]
  rfl

omit up in
theorem State.settleUnits_spec (s : State) : s.settleUnits.offRegisters = s.offRegisters ∧
    (∀ f : Field, (∀ u < 16, (R.QTZ_OWNER u).key ≠ f.key ∧ (R.QTZ_HELD u).key ≠ f.key) → s.settleUnits.get f = s.get f) ∧
    ∀ u < 16, ∀ f < 16, s.claimant u = some f → s.settleUnits.get (R.QTZ_OWNER u) = f ∧ s.settleUnits.get (R.QTZ_HELD u) = 1 := by
  obtain ⟨-, only, off, owned⟩ := s.settleUnits_upto (m := 16) le_rfl
  rw [State.settleUnits_eq]
  exact ⟨only, off, owned⟩

omit up in
/-- The registers of features lie apart from the units'. -/
theorem feature_apart (f : Nat) (hf : f < 16) (u : Nat) (hu : u < 16) :
    ((R.QTZ_OWNER u).key ≠ (R.QTZ_UNIT f).key ∧ (R.QTZ_HELD u).key ≠ (R.QTZ_UNIT f).key) ∧
    ((R.QTZ_OWNER u).key ≠ (R.QTZ_EN f).key ∧ (R.QTZ_HELD u).key ≠ (R.QTZ_EN f).key) ∧
    ((R.QTZ_OWNER u).key ≠ (R.QTZ_HT_TB f).key ∧ (R.QTZ_HELD u).key ≠ (R.QTZ_HT_TB f).key) := by
  simp only [Field.key, R.QTZ_OWNER, R.QTZ_HELD, R.QTZ_EN, R.QTZ_UNIT, R.QTZ_HT_TB]; omega

omit up in
theorem claimed_bits {v : Word} (h : v.getLsbD 4 = b) : v.toNat / 16 % 2 = b2n b := by
  rw [← h, BitVec.getLsbD, Nat.testBit_eq_decide_div_mod_eq]
  by_cases e : v.toNat / 16 % 2 = 1
  · simp [e, b2n]
  · simp [show v.toNat / 16 % 2 = 0 by omega, b2n]

/-- A claim without a rival. -/
theorem featureClaim_alone (on : v.getLsbD 4 = true)
    (alone : ∀ g : Fin 16, g ≠ f → s.get (R.QTZ_EN g) = 1 → s.get (R.QTZ_UNIT g) ≠ v.toNat % 16) :
    ∃ t, exec (.featureClaim f v) s = .next t ∧ t.get (R.QTZ_UNIT f) = v.toNat % 16 ∧ t.get (R.QTZ_EN f) = 1 ∧ t.get (R.QTZ_OWNER (v.toNat % 16)) = f.val ∧
      t.get (R.QTZ_HELD (v.toNat % 16)) = 1 ∧ t.get (R.QTZ_HT_TB f) = bitsOf v.toNat 5 1 ∧ t.out = s.out := by
  obtain ⟨held, run⟩ := featureClaim_eq up (f := f) (v := v)
  obtain ⟨unit, en, tb, rest, -, out, -⟩ := s.claimNoted_get (v := v.toNat) f.2
  rw [claimed_bits on] at en
  have alone' : ∀ g < 16, g ≠ f.val → (s.claimNoted f v.toNat).get (R.QTZ_EN g) = 1 → (s.claimNoted f v.toNat).get (R.QTZ_UNIT g) ≠ v.toNat % 16 := by
    intro g hg ne on'
    rw [(rest g hg ne).2]
    rw [(rest g hg ne).1] at on'
    exact alone ⟨g, hg⟩ (fun e => ne (congrArg Fin.val e)) on'
  generalize s.claimNoted f v.toNat = w at *
  have rival : w.rival f = none := List.find?_eq_none.2 fun g hg => by
    by_cases e : g = f.val
    · simp [e]
    · have := alone' g (List.mem_range.1 hg) e
      simp only [unit, Bool.and_eq_true, beq_iff_eq]
      exact fun h => this h.1.2 h.2
  have judged : w.claimJudged f held = w := by
    unfold State.claimJudged
    rw [if_neg (by rw [en]; decide), rival]
  rw [judged] at run
  have claim := State.claimant_of f.2 en unit alone'
  obtain ⟨only, off, owned⟩ := w.settleUnits_spec
  obtain ⟨owner, holds⟩ := owned _ (Nat.mod_lt _ (by decide)) _ f.2 claim
  refine ⟨_, run, ?_, ?_, owner, holds, ?_, (rest_of_offRegisters only).1.trans out⟩
  · rw [off _ fun u hu => (feature_apart f f.2 u hu).1, unit]
  · rw [off _ fun u hu => (feature_apart f f.2 u hu).2.1, en]; rfl
  · rw [off _ fun u hu => (feature_apart f f.2 u hu).2.2, tb]; rfl

/-- A feature lets its unit go. -/
theorem featureClaim_released (off_ : v.getLsbD 4 = false) :
    ∃ t, exec (.featureClaim f v) s = .next t ∧ t.get (R.QTZ_UNIT f) = v.toNat % 16 ∧ t.get (R.QTZ_EN f) = 0 ∧ t.ge = s.ge := by
  obtain ⟨held, run⟩ := featureClaim_eq up (f := f) (v := v)
  obtain ⟨unit, en, -, -, -, -, ge⟩ := s.claimNoted_get (v := v.toNat) f.2
  rw [claimed_bits off_] at en
  generalize s.claimNoted f v.toNat = w at *
  have judged : w.claimJudged f held = w := if_pos en
  rw [judged] at run
  obtain ⟨only, off, -⟩ := w.settleUnits_spec
  refine ⟨_, run, ?_, ?_, (rest_of_offRegisters only).2.trans ge⟩
  · rw [off _ fun u hu => (feature_apart f f.2 u hu).1, unit]
  · rw [off _ fun u hu => (feature_apart f f.2 u hu).2.1, en]; rfl

omit up in
/-- What a feature that loses its unit leaves. -/
theorem State.loseUnit_spec (s : State) {l w : Nat} (hl : l < 16) (hw : w < 16) (held : Option Nat) :
    let t := s.loseUnit l w held
    t.get (R.QTZ_EN l) = 0 ∧ t.get R.QTZ_LOSER = l ∧ t.get R.QTZ_WINNER = w ∧ raised pgQTZ [1] s t ∧
      (∀ g < 16, t.get (R.QTZ_UNIT g) = s.get (R.QTZ_UNIT g)) ∧ ∀ g < 16, g ≠ l → t.get (R.QTZ_EN g) = s.get (R.QTZ_EN g) := by
  have first : ∃ v : State, v = (((s.set (R.QTZ_EN l) 0).set R.QTZ_LOSER l).set R.QTZ_WINNER w).raise pgQTZ 1 ∧
      v.get (R.QTZ_EN l) = 0 ∧ v.get R.QTZ_LOSER = l ∧ v.get R.QTZ_WINNER = w ∧ raised pgQTZ [1] s v ∧
      (∀ g < 16, v.get (R.QTZ_UNIT g) = s.get (R.QTZ_UNIT g)) ∧ ∀ g < 16, g ≠ l → v.get (R.QTZ_EN g) = s.get (R.QTZ_EN g) := by
    have off : ∀ r : Field, (R.BLK_INT_RAW pgQTZ).key ≠ r.key → (R.QTZ_EN l).key ≠ r.key → R.QTZ_LOSER.key ≠ r.key → R.QTZ_WINNER.key ≠ r.key →
        ((((s.set (R.QTZ_EN l) 0).set R.QTZ_LOSER l).set R.QTZ_WINNER w).raise pgQTZ 1).get r = s.get r := fun r a b c d => by
      rw [State.raise_get_ne _ _ _ _ a, State.get_set_ne _ _ _ _ d, State.get_set_ne _ _ _ _ c, State.get_set_ne _ _ _ _ b]
    refine ⟨_, rfl, ?_, ?_, ?_, fun j hj => ?_, fun g hg => off _ ?_ ?_ ?_ ?_, fun g hg ne => off _ ?_ ?_ ?_ ?_⟩
    · rw [State.raise_get_ne _ _ _ _ (by simp only [Field.key, R.BLK_INT_RAW, R.QTZ_EN, pgQTZ]; omega),
        State.get_set_ne _ _ _ _ (by simp only [Field.key, R.QTZ_WINNER, R.QTZ_EN]; omega),
        State.get_set_ne _ _ _ _ (by simp only [Field.key, R.QTZ_LOSER, R.QTZ_EN]; omega), State.get_set_same]; rfl
    · rw [State.raise_get_ne _ _ _ _ (by decide), State.get_set_ne _ _ _ _ (by decide), State.get_set_same]; exact Nat.mod_eq_of_lt hl
    · rw [State.raise_get_ne _ _ _ _ (by decide), State.get_set_same]; exact Nat.mod_eq_of_lt hw
    · rw [State.raise_raised _ _ _ j hj, State.bit, State.get_set_ne _ _ _ _ (by decide), State.get_set_ne _ _ _ _ (by decide),
        State.get_set_ne _ _ _ _ (by simp only [Field.key, R.BLK_INT_RAW, R.QTZ_EN, pgQTZ]; omega)]; rfl
    all_goals simp only [Field.key, R.BLK_INT_RAW, R.QTZ_EN, R.QTZ_UNIT, R.QTZ_LOSER, R.QTZ_WINNER, pgQTZ]; omega
  obtain ⟨v, is, facts⟩ := first
  intro t
  have regs : ∀ r : Field, r.key < 0x80000 * 32 → t.get r = v.get r := by
    intro r low
    have key : (R.BLK_INT_RAW pgSCHED).key ≠ r.key := by simp only [Field.key, R.BLK_INT_RAW, pgSCHED] at low ⊢; omega
    show (State.loseUnit s l w held).get r = _
    unfold State.loseUnit
    rw [← is]
    dsimp only
    have sched : ∀ x : State, x.regs = v.regs → (if l = 4 then x.raise pgSCHED 3 else x).get r = v.get r := fun x hx => by
      split
      · rw [State.raise_get_ne _ _ _ _ key, State.get, hx, State.get]
      · rw [State.get, hx, State.get]
    generalize hx : ({ v with qz.armed := if 8 ≤ l then v.qz.armed.filter (some · ≠ held) else v.qz.armed } : State) = x
    have same := sched x (by rw [← hx])
    split
    · exact same
    · exact same
  have low : ∀ g < 16, (R.QTZ_EN g).key < 0x80000 * 32 ∧ (R.QTZ_UNIT g).key < 0x80000 * 32 := fun g hg => by
    simp only [Field.key, R.QTZ_EN, R.QTZ_UNIT]; omega
  obtain ⟨en, loser, winner, raw, units, ens⟩ := facts
  refine ⟨(regs _ (low l hl).1).trans en, (regs _ (by decide)).trans loser, (regs _ (by decide)).trans winner, fun j hj => ?_,
    fun g hg => (regs _ (low g hg).2).trans (units g hg), fun g hg ne => (regs _ (low g hg).1).trans (ens g hg ne)⟩
  rw [State.bit, regs _ (by decide)]
  exact raw j hj

end

section
variable {f g : Fin 16} {v : Word} (up : s.responds pgQTZ = true)
include up

/-- Two features claim a unit: the one of the higher class has it. -/
theorem featureClaim_contested (on : v.getLsbD 4 = true) (ne : g ≠ f) (en : s.get (R.QTZ_EN g) = 1) (same : s.get (R.QTZ_UNIT g) = v.toNat % 16)
    (alone : ∀ h : Fin 16, h ≠ f → h ≠ g → s.get (R.QTZ_EN h) = 1 → s.get (R.QTZ_UNIT h) ≠ v.toNat % 16) :
    let win := if outranks featureClass f g then f else g
    let lose := if outranks featureClass f g then g else f
    ∃ t, exec (.featureClaim f v) s = .next t ∧ t.get (R.QTZ_EN win) = 1 ∧ t.get (R.QTZ_EN lose) = 0 ∧ t.get R.QTZ_WINNER = win.val ∧
      t.get R.QTZ_LOSER = lose.val ∧ t.get (R.QTZ_OWNER (v.toNat % 16)) = win.val ∧ raised pgQTZ [1] s t := by
  intro win lose
  have neV : g.val ≠ f.val := fun e => ne (Fin.ext e)
  obtain ⟨held, run⟩ := featureClaim_eq up (f := f) (v := v)
  obtain ⟨unitF, enF, -, rest, raw, -⟩ := s.claimNoted_get (v := v.toNat) f.2
  rw [claimed_bits on] at enF
  obtain ⟨enG, unitG⟩ := rest g g.2 neV
  rw [en] at enG
  rw [same] at unitG
  have alone' : ∀ h < 16, h ≠ f.val → h ≠ g.val → (s.claimNoted f v.toNat).get (R.QTZ_EN h) = 1 → (s.claimNoted f v.toNat).get (R.QTZ_UNIT h) ≠ v.toNat % 16 := by
    intro h hh nf ng
    obtain ⟨a, b⟩ := rest h hh nf
    rw [a, b]
    exact alone ⟨h, hh⟩ (fun e => nf (congrArg Fin.val e)) fun e => ng (congrArg Fin.val e)
  have raw' : ∀ j, (s.claimNoted f v.toNat).bit (R.BLK_INT_RAW pgQTZ) j = s.bit (R.BLK_INT_RAW pgQTZ) j := fun j => by rw [State.bit, raw]; rfl
  generalize s.claimNoted f v.toNat = w at *
  have rival : w.rival f = some g.val := by
    refine find_unique (List.mem_range.2 g.2) (by simp [neV, enG, unitG, unitF]) fun h hh is => ?_
    simp only [Bool.and_eq_true, beq_iff_eq, bne_iff_ne, unitF] at is
    exact by_contra fun e => alone' h (List.mem_range.1 hh) is.1.1 e is.1.2 is.2
  have judged : ∃ lost, w.claimJudged f held = w.loseUnit lose win lost := by
    refine ⟨if outranks featureClass f g then some (w.get (R.QTZ_UNIT g)) else held, ?_⟩
    unfold State.claimJudged
    rw [if_neg (by rw [enF]; decide), rival]
    dsimp only
    simp only [win, lose]
    split <;> rfl
  have pair : (win = f ∧ lose = g) ∨ (win = g ∧ lose = f) := by
    simp only [win, lose]
    split
    · exact .inl ⟨rfl, rfl⟩
    · exact .inr ⟨rfl, rfl⟩
  have wins : w.get (R.QTZ_EN win) = 1 ∧ w.get (R.QTZ_UNIT win) = v.toNat % 16 ∧ win.val ≠ lose.val ∧ ∀ h < 16, h ≠ win.val → h ≠ lose.val →
      w.get (R.QTZ_EN h) = 1 → w.get (R.QTZ_UNIT h) ≠ v.toNat % 16 := by
    rcases pair with ⟨a, b⟩ | ⟨a, b⟩
    · rw [a, b]; exact ⟨enF, unitF, neV.symm, alone'⟩
    · rw [a, b]; exact ⟨enG, unitG, neV, fun h hh x y => alone' h hh y x⟩
  obtain ⟨enW, unitW, apart, others⟩ := wins
  obtain ⟨lost, judged⟩ := judged
  rw [judged] at run
  obtain ⟨en0, loser, winner, raise, units, ens⟩ := w.loseUnit_spec lose.2 win.2 lost
  generalize w.loseUnit lose win lost = x at *
  have claim : x.claimant (v.toNat % 16) = some win.val :=
    State.claimant_of win.2 ((ens _ win.2 apart).trans enW) ((units _ win.2).trans unitW) fun h hh nw hen => by
      by_cases e : h = lose.val
      · rw [e, en0] at hen; cases hen
      · rw [units h hh]
        rw [ens h hh e] at hen
        exact others h hh nw e hen
  obtain ⟨-, off, owned⟩ := x.settleUnits_spec
  obtain ⟨owner, -⟩ := owned _ (Nat.mod_lt _ (by decide)) _ win.2 claim
  have far : ∀ u < 16, ∀ r : Field, r.key < 32 * 0x220C → (R.QTZ_OWNER u).key ≠ r.key ∧ (R.QTZ_HELD u).key ≠ r.key := by
    intro u hu r
    simp only [Field.key, R.QTZ_OWNER, R.QTZ_HELD]; omega
  refine ⟨_, run, ?_, ?_, ?_, ?_, owner, fun j hj => ?_⟩
  · rw [off _ fun u hu => (feature_apart win win.2 u hu).2.1, ens _ win.2 apart, enW]
  · rw [off _ fun u hu => (feature_apart lose lose.2 u hu).2.1, en0]
  · rw [off _ fun u hu => far u hu _ (by decide), winner]
  · rw [off _ fun u hu => far u hu _ (by decide), loser]
  · rw [State.bit, off _ fun u hu => far u hu _ (by decide), ← State.bit, raise j hj, raw']

end

/-! ## Compare units (R410, R412) -/

section
variable {u : Fin 16} {f now : Nat} (held : s.get (R.QTZ_HELD u) = 1) (host : 8 ≤ s.get (R.QTZ_OWNER u)) (armed : u.val ∈ s.qz.armed)
  (reached : s.compareOf u ≤ if s.get (R.QTZ_HT_TB (s.get (R.QTZ_OWNER u))) = 1 then s.domainTime else s.quartz)
  (rested : Sparse.get 0 s.qz.rest u ≤ s.quartz)

/-- The state as a host timer's unit fires. -/
def State.unitFired (s : State) (u : Nat) : State :=
  let s := (s.set (R.QTZ_FIRED u) 1).raise pgQTZ 0
  { s with qz.rest := Sparse.set 0 s.qz.rest u (s.quartz + 5) }

theorem State.raise_qz (s : State) (p i : Nat) : (s.raise p i).qz = s.qz ∧ (s.raise p i).quartz = s.quartz := by
  rw [(s.raise_onlyFields p i).2.2]; exact ⟨rfl, rfl⟩

include held host armed reached rested in
theorem compareFire_eq : exec (.compareFire u) s =
    if (s.unitFired u).get (R.QTZ_PERIOD u) = 0 then .next { s.unitFired u with qz.armed := (s.unitFired u).qz.armed.filter (· ≠ u.val) }
    else .next (((s.unitFired u).set (R.QTZ_CMP_LO u) ((s.unitFired u).compareOf u + (s.unitFired u).get (R.QTZ_PERIOD u))).set (R.QTZ_CMP_HI u)
      (((s.unitFired u).compareOf u + (s.unitFired u).get (R.QTZ_PERIOD u)) / 2 ^ 32)) := by
  show execCompareFire u s = _
  unfold execCompareFire
  rw [if_neg]
  · rfl
  · simp [held, armed]
    exact ⟨host, reached, rested⟩

theorem compareFire_rests (late : s.quartz < Sparse.get 0 s.qz.rest u) : exec (.compareFire u) s = .next s := if_pos (by simp [late])

theorem State.unitFired_spec (s : State) (u : Fin 16) :
    let t := s.unitFired u
    t.get (R.QTZ_FIRED u) = 1 ∧ raised pgQTZ [0] s t ∧ t.get (R.QTZ_PERIOD u) = s.get (R.QTZ_PERIOD u) ∧ t.compareOf u = s.compareOf u ∧
      t.quartz = s.quartz ∧ t.qz = { s.qz with rest := Sparse.set 0 s.qz.rest u (s.quartz + 5) } := by
  intro t
  have regs : ∀ r, t.get r = ((s.set (R.QTZ_FIRED u) 1).raise pgQTZ 0).get r := fun _ => rfl
  have off : ∀ r : Field, (R.BLK_INT_RAW pgQTZ).key ≠ r.key → (R.QTZ_FIRED u).key ≠ r.key → t.get r = s.get r := fun r a b => by
    rw [regs, State.raise_get_ne _ _ _ _ a, State.get_set_ne _ _ _ _ b]
  refine ⟨?_, fun j hj => ?_, off _ ?_ ?_, ?_, (State.raise_qz ..).2, ?_⟩
  · rw [regs, State.raise_get_ne _ _ _ _ (by simp only [Field.key, R.BLK_INT_RAW, R.QTZ_FIRED, pgQTZ]; omega), State.get_set_same]; rfl
  · rw [State.bit, regs, ← State.bit, State.raise_raised _ _ _ j hj, State.bit,
      State.get_set_ne _ _ _ _ (by simp only [Field.key, R.BLK_INT_RAW, R.QTZ_FIRED, pgQTZ]; omega)]; rfl
  · simp only [Field.key, R.BLK_INT_RAW, R.QTZ_PERIOD, pgQTZ]; omega
  · simp only [Field.key, R.QTZ_FIRED, R.QTZ_PERIOD]; omega
  · rw [State.compareOf, State.compareOf, off, off]
    all_goals simp only [Field.key, R.BLK_INT_RAW, R.QTZ_FIRED, R.QTZ_CMP_LO, R.QTZ_CMP_HI, pgQTZ]; omega
  · obtain ⟨a, b⟩ := (s.set (R.QTZ_FIRED u) 1).raise_qz pgQTZ 0
    show { ((s.set (R.QTZ_FIRED u) 1).raise pgQTZ 0).qz with
      rest := Sparse.set 0 ((s.set (R.QTZ_FIRED u) 1).raise pgQTZ 0).qz.rest u (((s.set (R.QTZ_FIRED u) 1).raise pgQTZ 0).quartz + 5) } = _
    rw [a, b]; rfl

include held host armed reached rested in
theorem compareFire_spec : ∃ t, exec (.compareFire u) s = .next t ∧ t.get (R.QTZ_FIRED u) = 1 ∧ raised pgQTZ [0] s t ∧ exec (.compareFire u) t = .next t ∧
    (s.get (R.QTZ_PERIOD u) = 0 → u.val ∉ t.qz.armed ∧ t.compareOf u = s.compareOf u) ∧
    (s.get (R.QTZ_PERIOD u) ≠ 0 → t.qz.armed = s.qz.armed ∧ t.compareOf u = (s.compareOf u + s.get (R.QTZ_PERIOD u)) % 2 ^ 64) := by
  have run := compareFire_eq held host armed reached rested
  obtain ⟨fired, raise, period, compare, quartz, qz⟩ := s.unitFired_spec u
  generalize s.unitFired u = w at *
  have rest : w.quartz < Sparse.get 0 w.qz.rest u := by rw [qz, quartz, Sparse.get_set_same]; omega
  rw [period, compare] at run
  by_cases once : s.get (R.QTZ_PERIOD u) = 0
  · rw [if_pos once] at run
    refine ⟨_, run, fired, raise, compareFire_rests rest, fun _ => ⟨by simp, compare⟩, fun h => absurd once h⟩
  · rw [if_neg once] at run
    generalize s.compareOf u + s.get (R.QTZ_PERIOD u) = c at *
    have off : ∀ r : Field, (R.QTZ_CMP_LO u).key ≠ r.key → (R.QTZ_CMP_HI u).key ≠ r.key →
        ((w.set (R.QTZ_CMP_LO u) c).set (R.QTZ_CMP_HI u) (c / 2 ^ 32)).get r = w.get r := fun r a b => by
      rw [State.get_set_ne _ _ _ _ b, State.get_set_ne _ _ _ _ a]
    refine ⟨_, run, ?_, fun j hj => ?_, compareFire_rests rest, fun h => absurd h once, fun _ => ⟨show w.qz.armed = _ by rw [qz], ?_⟩⟩
    · rw [off, fired]
      all_goals simp only [Field.key, R.QTZ_FIRED, R.QTZ_CMP_LO, R.QTZ_CMP_HI]; omega
    · rw [State.bit, off, ← State.bit, raise j hj]
      all_goals simp only [Field.key, R.BLK_INT_RAW, R.QTZ_CMP_LO, R.QTZ_CMP_HI, pgQTZ]; omega
    · rw [State.compareOf, State.get_set_same, State.get_set_ne _ _ _ _ (by simp only [Field.key, R.QTZ_CMP_LO, R.QTZ_CMP_HI]; omega), State.get_set_same]
      simp only [R.QTZ_CMP_LO, R.QTZ_CMP_HI]
      omega

end

/-! ## Agate's windows (R436-R442) -/

theorem State.recordBody_length (s : State) (rnum : Nat) (short : Bool) : (s.recordBody rnum short).length = 62 := by
  have res : ∀ (f : Nat → Nat) (h : Hist), (List.flatMap (fun n => leBytes 2 (f n)) (h.list 4)).length = 8 := fun f h => by
    simp [Hist.list, List.length_flatMap, leBytes_length, Function.comp_def]
  unfold State.recordBody
  simp only [List.length_append, leBytes_length, intBytes, res, List.length_cons, List.length_nil, zeros, List.length_replicate]

theorem State.recordBody_number (s : State) (rnum : Nat) (short : Bool) (more : List Byte) : (s.recordBody rnum short ++ more).take 4 = leBytes 4 rnum := by
  unfold State.recordBody
  simp only [List.append_assoc]
  exact List.take_left' (leBytes_length 4 rnum)

/-- A sample or the residency writes the page's interrupts alone, among registers, and neither the ring nor the times of the window. -/
structure Sampled (s t : State) : Prop where
  regs : ∀ f : Field, (R.BLK_INT_RAW pgAGT).key ≠ f.key → t.get f = s.get f
  ring : t.ag.ring = s.ag.ring
  quartz : t.quartz = s.quartz

theorem State.raise_ag (s : State) (p i : Nat) : (s.raise p i).ag = s.ag := by rw [(s.raise_onlyFields p i).2.2]

theorem State.accrueLevel_sampled (s : State) : Sampled s s.accrueLevel := by
  unfold State.accrueLevel
  dsimp only
  split
  · exact ⟨fun _ _ => rfl, rfl, rfl⟩
  · generalize (s.quartz / 1000000 - s.ag.residency / 1000000) = ms
    generalize hv : ({ s with ag := { s.ag with residency := s.quartz } } : State) = v
    have base : v.ag.ring = s.ag.ring ∧ v.quartz = s.quartz ∧ v.regs = s.regs := by rw [← hv]; exact ⟨rfl, rfl, rfl⟩
    refine ⟨fun f h => (State.sample_get _ _ _ _ _ _ h).trans (by rw [State.get, base.2.2, State.get]), ?_, ?_⟩
    all_goals
      unfold State.sample
      dsimp only
      split
    · exact base.1
    · split
      · rw [State.raise_ag]; exact base.1
      · exact base.1
    · exact base.2.1
    · split
      · rw [(State.raise_qz ..).2]; exact base.2.1
      · exact base.2.1

/-- A window's record to its slot of the ring, or discarded. -/
def State.keepRecord (s : State) (sev : Nat) (r : List Byte) : State :=
  match s.ringSlot sev with
  | none => (s.countSat R.AGT_DROPPED).raise pgAGT 2
  | some i => let s : State := { s with ag.ring := Sparse.set [] s.ag.ring i r }
              (s.set R.AGT_NEWEST_SLOT i).set R.AGT_COUNT s.ag.ring.length

/-- The fields a record of the ring writes. -/
def ringFields : List Field := [R.AGT_DROPPED, R.BLK_INT_RAW pgAGT, R.AGT_NEWEST_SLOT, R.AGT_COUNT]

theorem State.keepRecord_spec (s : State) (sev : Nat) (r : List Byte) :
    let t := s.keepRecord sev r
    keeps ringFields s t ∧ t.ag = { s.ag with ring := t.ag.ring } ∧ t.quartz = s.quartz ∧
      ((∃ i < 4096, Sparse.get [] s.ag.ring i = []) → ∃ i < 4096, Sparse.get [] s.ag.ring i = [] ∧ Sparse.get [] t.ag.ring i = r ∧
        t.get R.AGT_NEWEST_SLOT = i ∧ ∀ j, j ≠ i → Sparse.get [] t.ag.ring j = Sparse.get [] s.ag.ring j) := by
  intro t
  have is : t = s.keepRecord sev r := rfl
  unfold State.keepRecord at is
  generalize slot : s.ringSlot sev = found at is
  have empty : (∃ i < 4096, Sparse.get [] s.ag.ring i = []) → ∃ i < 4096, found = some i ∧ Sparse.get [] s.ag.ring i = [] := by
    rintro ⟨i, hi, none_⟩
    rw [← slot]
    unfold State.ringSlot
    cases first : (List.range 4096).find? fun i => (Sparse.get [] s.ag.ring i).isEmpty with
    | none => simpa [none_] using List.find?_eq_none.1 first i (List.mem_range.2 hi)
    | some k => exact ⟨k, List.mem_range.1 (List.mem_of_find?_eq_some first), rfl, by simpa using List.find?_some first⟩
  cases found with
  | none =>
    dsimp only at is
    refine ⟨fun f h => ?_, by rw [is, State.raise_ag]; rfl, by rw [is, (State.raise_qz ..).2]; rfl, fun h => ?_⟩
    · rw [is, State.raise_get_ne _ _ _ _ (h _ (by simp [ringFields])), State.get_countSat_ne _ _ _ _ (h _ (by simp [ringFields]))]
    · obtain ⟨i, -, e, -⟩ := empty h
      cases e
  | some k =>
    dsimp only at is
    refine ⟨fun f h => ?_, by rw [is]; rfl, by rw [is]; rfl, fun h => ?_⟩
    · rw [is, State.get_set_ne _ _ _ _ (h _ (by simp [ringFields])), State.get_set_ne _ _ _ _ (h _ (by simp [ringFields]))]; rfl
    · obtain ⟨i, hi, e, none_⟩ := empty h
      cases e
      refine ⟨k, hi, none_, ?_, ?_, fun j hj => ?_⟩
      · rw [is]; exact Sparse.get_set_same ..
      · rw [is, State.get_set_ne _ _ _ _ (by decide), State.get_set_same]; exact Nat.mod_eq_of_lt hi
      · rw [is]; exact Sparse.get_set_ne _ _ _ _ hj.symm

/-- The state as the sets of a closing window are published. -/
def State.published (s : State) : State := { s.set R.AGT_LAST_RNUM (s.get R.AGT_LAST_RNUM + 1) with ag.pub := s.ag.live }

/-- The record of a closing window. -/
def State.windowRecord (s : State) (short : Bool) : List Byte :=
  let body := s.recordBody (s.get R.AGT_LAST_RNUM + 1) short
  body ++ leBytes 2 (crc16 body)

theorem State.closeWindow_eq (s : State) (short : Bool) : s.closeWindow short =
    let v := s.accrueLevel
    let x := (((v.published.keepRecord (v.get R.AGT_OPEN_SEV) (v.windowRecord short)).count (R.BLK_SEQ pgAGT) 2).raise pgAGT 0)
    { (if x.get R.AGT_SEV_INT ≤ v.get R.AGT_OPEN_SEV then x.raise pgAGT 1 else x) with ag.open_ := false } := by
  unfold State.closeWindow
  generalize s.accrueLevel = v
  unfold State.keepRecord State.windowRecord State.published
  dsimp only
    <;> generalize State.ringSlot _ _ = slot
    <;> cases slot <;> rfl

theorem State.windowRecord_length (s : State) (short : Bool) : (s.windowRecord short).length = 64 := by
  simp only [State.windowRecord, List.length_append, State.recordBody_length, leBytes_length]

/-- What closing a window leaves. -/
theorem State.closeWindow_spec (s : State) :
    let t := s.closeWindow false
    t.quartz = s.quartz ∧ t.ag.pub = t.ag.live ∧ t.get R.AGT_LAST_RNUM = (s.get R.AGT_LAST_RNUM + 1) % 2 ^ 32 ∧ t.bit (R.BLK_INT_RAW pgAGT) 0 = true ∧
      (∀ f : Field, (∀ g ∈ R.AGT_LAST_RNUM :: R.BLK_SEQ pgAGT :: ringFields, g.key ≠ f.key) → t.get f = s.get f) ∧
      ((∃ i < 4096, Sparse.get [] s.ag.ring i = []) → ∃ i r, i < 4096 ∧ Sparse.get [] s.ag.ring i = [] ∧ Sparse.get [] t.ag.ring i = r ∧ r.length = 64 ∧
        r.take 4 = leBytes 4 (s.get R.AGT_LAST_RNUM + 1) ∧ t.get R.AGT_NEWEST_SLOT = i ∧ ∀ j, j ≠ i → Sparse.get [] t.ag.ring j = Sparse.get [] s.ag.ring j) := by
  intro t
  have is : t = s.closeWindow false := rfl
  rw [State.closeWindow_eq] at is
  dsimp only at is
  have seen := s.accrueLevel_sampled
  have len := s.accrueLevel.windowRecord_length false
  have number : (s.accrueLevel.windowRecord false).take 4 = leBytes 4 (s.accrueLevel.get R.AGT_LAST_RNUM + 1) := State.recordBody_number ..
  generalize s.accrueLevel.windowRecord false = r at *
  generalize s.accrueLevel = v at *
  have rnum := seen.regs R.AGT_LAST_RNUM (by decide)
  rw [rnum] at number
  have pub : v.published.quartz = v.quartz ∧ v.published.ag = { v.ag with pub := v.ag.live } ∧
      v.published.get R.AGT_LAST_RNUM = (v.get R.AGT_LAST_RNUM + 1) % 2 ^ 32 ∧
      ∀ f : Field, R.AGT_LAST_RNUM.key ≠ f.key → v.published.get f = v.get f := ⟨rfl, rfl, v.get_set_same .., fun f h => v.get_set_ne _ _ _ h⟩
  obtain ⟨kept, ag, quartz, put⟩ := v.published.keepRecord_spec (v.get R.AGT_OPEN_SEV) r
  generalize v.published.keepRecord (v.get R.AGT_OPEN_SEV) r = w at *
  generalize v.published = p at *
  obtain ⟨pubQuartz, pubAg, pubRnum, pubOff⟩ := pub
  have x : ∃ x : State, x = (w.count (R.BLK_SEQ pgAGT) 2).raise pgAGT 0 ∧ x.ag = w.ag ∧ x.quartz = w.quartz ∧ x.bit (R.BLK_INT_RAW pgAGT) 0 = true ∧
      ∀ f : Field, (R.BLK_SEQ pgAGT).key ≠ f.key → (R.BLK_INT_RAW pgAGT).key ≠ f.key → x.get f = w.get f :=
    ⟨_, rfl, (State.raise_ag ..).trans rfl, (State.raise_qz ..).2.trans rfl, State.raise_bit _ _ (by decide), fun f a b => by
      rw [State.raise_get_ne _ _ _ _ b, State.get_count_ne _ _ _ _ a]⟩
  obtain ⟨x, isX, xAg, xQuartz, xBit, xOff⟩ := x
  rw [← isX] at is
  have y : ∃ y : State, y = (if x.get R.AGT_SEV_INT ≤ v.get R.AGT_OPEN_SEV then x.raise pgAGT 1 else x) ∧ y.ag = x.ag ∧ y.quartz = x.quartz ∧
      y.bit (R.BLK_INT_RAW pgAGT) 0 = true ∧ ∀ f : Field, (R.BLK_INT_RAW pgAGT).key ≠ f.key → y.get f = x.get f := by
    refine ⟨_, rfl, ?_⟩
    split
    · exact ⟨State.raise_ag .., (State.raise_qz ..).2, State.raise_still (by decide) xBit, fun f h => State.raise_get_ne _ _ _ _ h⟩
    · exact ⟨rfl, rfl, xBit, fun _ _ => rfl⟩
  obtain ⟨y, isY, yAg, yQuartz, yBit, yOff⟩ := y
  rw [← isY] at is
  have tAg : t.ag = { w.ag with open_ := false } := by rw [is, ← xAg, ← yAg]
  have reg : ∀ f : Field, (R.BLK_SEQ pgAGT).key ≠ f.key → (R.BLK_INT_RAW pgAGT).key ≠ f.key → t.get f = w.get f := fun f a b => by
    rw [is]
    exact (yOff f b).trans (xOff f a b)
  refine ⟨?_, ?_, ?_, by rw [is]; exact yBit, fun f h => ?_, fun h => ?_⟩
  · rw [is]
    exact yQuartz.trans (xQuartz.trans (quartz.trans (pubQuartz.trans seen.quartz)))
  · rw [tAg, ag, pubAg]
  · rw [reg _ (by decide) (by decide), kept _ (by decide), pubRnum, rnum]
  · rw [reg f (h _ (by simp)) (h _ (by simp [ringFields])), kept f fun g hg => h g (by simp [hg]), pubOff f (h _ (by simp)),
      seen.regs f (h _ (by simp [ringFields]))]
  · have ring : p.ag.ring = s.ag.ring := by rw [pubAg]; exact seen.ring
    rw [ring] at put
    obtain ⟨i, hi, none_, at_, newest, others⟩ := put h
    refine ⟨i, r, hi, none_, by rw [tAg]; exact at_, len, number, ?_, fun j hj => by rw [tAg]; exact others j hj⟩
    rw [reg _ (by decide) (by decide), newest]

theorem windowClose_spec (is : s.ag.open_ = true) (due : s.ag.due ≤ s.quartz) (unit : s.hasUnit 5 = true) (on : s.get (R.BLK_ENABLE pgAGT) = 1) :
    ∃ t, exec .agateWindowClose s = .next t ∧ t.ag.open_ = true ∧ t.ag.start = s.quartz ∧ t.ag.due = s.quartz + s.windowNs ∧ t.ag.win = [] ∧
      t.ag.pub = t.ag.live ∧ t.ag.partialWin = false ∧ t.get R.AGT_OPEN_SEV = 0 ∧ t.get R.AGT_LAST_RNUM = (s.get R.AGT_LAST_RNUM + 1) % 2 ^ 32 ∧
      t.get (R.QTZ_FIRED (s.get (R.QTZ_UNIT 5))) = 1 ∧ t.bit (R.BLK_INT_RAW pgAGT) 0 = true ∧
      ((∃ i < 4096, Sparse.get [] s.ag.ring i = []) → ∃ i r, i < 4096 ∧ Sparse.get [] s.ag.ring i = [] ∧ Sparse.get [] t.ag.ring i = r ∧ r.length = 64 ∧
        r.take 4 = leBytes 4 (s.get R.AGT_LAST_RNUM + 1) ∧ t.get R.AGT_NEWEST_SLOT = i ∧
        ∀ j, j ≠ i → Sparse.get [] t.ag.ring j = Sparse.get [] s.ag.ring j) := by
  have run : exec .agateWindowClose s = .next ((s.fire 5).closeWindow false).openWindow := if_pos ⟨is, due, unit, on⟩
  obtain ⟨quartz, pub, rnum, raw, off, put⟩ := (s.fire 5).closeWindow_spec
  have low : s.get (R.QTZ_UNIT 5) < 16 := Nat.mod_lt _ (by decide)
  have firedOff : ∀ f : Field, 32 * 0x3000 ≤ f.key → (s.fire 5).get f = s.get f := fun f h =>
    s.get_set_ne _ _ _ (by simp only [Field.key, R.QTZ_FIRED] at h ⊢; omega)
  have fired : (s.fire 5).get (R.QTZ_FIRED (s.get (R.QTZ_UNIT 5))) = 1 := s.get_set_same (R.QTZ_FIRED (s.get (R.QTZ_UNIT 5))) 1
  have same : (s.fire 5).quartz = s.quartz ∧ (s.fire 5).ag = s.ag := ⟨rfl, rfl⟩
  rw [firedOff _ (by decide)] at rnum
  rw [firedOff R.AGT_LAST_RNUM (by decide), same.2] at put
  generalize s.fire 5 = z at *
  have window : (z.closeWindow false).windowNs = s.windowNs := by
    rw [State.windowNs, State.windowNs, off _ (by decide), firedOff _ (by decide)]
  generalize z.closeWindow false = w at *
  have set0 : ∀ f : Field, R.AGT_OPEN_SEV.key ≠ f.key → w.openWindow.get f = w.get f := fun f h => w.get_set_ne R.AGT_OPEN_SEV _ 0 h
  have now : w.quartz = s.quartz := quartz.trans same.1
  refine ⟨_, run, rfl, now, ?_, rfl, pub, rfl, w.get_set_same R.AGT_OPEN_SEV 0, ?_, ?_, ?_, fun h => ?_⟩
  · rw [← now, ← window]; rfl
  · rw [set0 _ (by decide), rnum]
  · rw [set0, off, fired]
    · intro g hg
      have : 32 * 0x3000 ≤ g.key := by revert g; decide
      simp only [Field.key, R.QTZ_FIRED] at this ⊢; omega
    · simp only [Field.key, R.AGT_OPEN_SEV, R.QTZ_FIRED]; omega
  · rw [State.bit, set0 _ (by decide)]; exact raw
  · obtain ⟨i, r, hi, none_, at_, len, number, newest, others⟩ := put h
    exact ⟨i, r, hi, none_, at_, len, number, (set0 _ (by decide)).trans newest, others⟩

/-- Settles O51: a claim by the units' settling over the features that claim them, a compare by its own registers, a window's close step by step. -/
theorem unitsFireAndWindowsClose : Obligations.UnitsFireAndWindowsClose := by
  unfold Obligations.UnitsFireAndWindowsClose
  refine ⟨fun f v s up on alone => featureClaim_alone up on alone, fun f v s up off => featureClaim_released up off,
    fun f g v s up on ne en same alone => featureClaim_contested up on ne en same alone, fun u s => ?_,
    fun s is due unit on => windowClose_spec is due unit on, fun s is late due => ?_, fun s up => if_neg (by simp [up]), fun u s h => ?_, fun s h => ?_,
    fun s h => ?_, fun s down => if_pos (by simp [down]), fun f v s down => if_pos (by simp [down])⟩
  · intro f now held host armed reached rested
    exact compareFire_spec held host armed reached rested
  · exact ⟨_, if_pos ⟨is, by simp [late], due⟩, State.raise_ag .., fun j hj => State.raise_raised _ _ _ j hj⟩
  · exact if_pos (by rcases h with h | h | h <;> simp [h])
  · exact if_neg (by rcases h with h | h | h | h <;> simp [h])
  · exact if_neg (by rcases h with h | h <;> simp [h])

end Sys2Proof.Machine
end

section
/-! SUPPORT. The life cycle: registers a wipe spares, transitions, test tokens and the debug paths (R305-R319). -/
namespace Sys2Proof.Machine

variable {s t u : State}

/-! ## Registers that links going down, and every command's end, spare -/

/-- Does a field stand in a page that neither a command's end nor a link, a role lost or a root lost writes? -/
def lowField (f : Field) : Bool := offEnd f && f.key / 32 / 0x1000 != 0x61 && f.key / 32 / 0x1000 != 0x70

/-- The low fields of `t` hold what those of `s` hold. -/
def keepsLow (s t : State) : Prop := ∀ f, lowField f = true → t.get f = s.get f

namespace keepsLow

theorem refl : keepsLow s s := fun _ _ => rfl
theorem trans (h : keepsLow s t) (k : keepsLow t u) : keepsLow s u := fun f hf => (k f hf).trans (h f hf)
theorem update (h : keepsLow s t) (same : u.regs = t.regs) : keepsLow s u := fun f hf => by rw [State.get, same]; exact h f hf
theorem ite {c : Prop} [Decidable c] (h : keepsLow s t) (k : keepsLow s u) : keepsLow s (if c then t else u) := by split <;> assumption
theorem andIf {c : Prop} [Decidable c] (h : keepsLow s t) (k : keepsLow t u) : keepsLow s (if c then u else t) := (h.trans k).ite h

theorem of_endView (h : t.endView = s.endView) : keepsLow s t := fun f hf => by
  simp only [lowField, Bool.and_eq_true] at hf
  exact State.get_of_endView h hf.1.1

theorem foldl {α : Type} {f : State → α → State} {xs : List α} (h : keepsLow s t) (hf : ∀ u a, a ∈ xs → keepsLow u (f u a)) : keepsLow s (xs.foldl f t) := by
  induction xs generalizing t with
  | nil => exact h
  | cons x xs ih => exact ih (h.trans (hf _ x (by simp))) fun u a ha => hf u a (by simp [ha])

theorem set {f : Field} {v : Nat} (h : keepsLow s t) (high : lowField f = false) : keepsLow s (t.set f v) := fun g hg => by
  rw [State.get_set_ne]
  · exact h g hg
  · intro same
    have offs : offEnd f = offEnd g := by simp only [offEnd, same]
    have : lowField f = lowField g := by simp only [lowField, offs, same]
    rw [high, hg] at this
    exact absurd this (by decide)

theorem raise {p i : Nat} (h : keepsLow s t) (high : lowField (R.BLK_INT_RAW p) = false) : keepsLow s (t.raise p i) := fun g hg => by
  rw [State.raise_get_ne]
  · exact h g hg
  · intro same
    have offs : offEnd (R.BLK_INT_RAW p) = offEnd g := by simp only [offEnd, same]
    have : lowField (R.BLK_INT_RAW p) = lowField g := by simp only [lowField, offs, same]
    rw [high, hg] at this
    exact absurd this (by decide)

end keepsLow

theorem lowField_high {f : Field} (h : 0x71 * 0x1000 ≤ f.addr) : lowField f = false := by rw [lowField, offEnd_page h]; rfl

theorem State.releaseHeld_low (s : State) (hit : Held → Bool) : keepsLow s (s.releaseHeld hit) := by
  unfold State.releaseHeld
  exact .foldl (.update .refl rfl) fun u a _ => .of_endView (u.answer_endView ..)

theorem State.linkDown_low (s : State) (k cause : Nat) : keepsLow s (s.linkDown k cause) := by
  unfold State.linkDown
  dsimp only
  have fvl : ∀ f : Field, 0x71 * 0x1000 ≤ f.addr → lowField f = false := fun _ => lowField_high
  have raw : lowField (R.BLK_INT_RAW (pgFVL k)) = false := fvl _ (by simp only [R.BLK_INT_RAW, pgFVL]; omega)
  have down : keepsLow s ((((s.set (R.FVL_STATE k) 0).set (R.FVL_DOWN_CAUSE k) cause).set (R.FVL_PEER_READY k) 0).updLink k fun l =>
      { refusals := l.refusals }) := by
    refine keepsLow.update (t := ((s.set (R.FVL_STATE k) 0).set (R.FVL_DOWN_CAUSE k) cause).set (R.FVL_PEER_READY k) 0) (.set (.set (.set .refl ?_) ?_) ?_) rfl
    all_goals exact fvl _ (by simp only [R.FVL_STATE, R.FVL_DOWN_CAUSE, R.FVL_PEER_READY]; omega)
  generalize ((((s.set (R.FVL_STATE k) 0).set (R.FVL_DOWN_CAUSE k) cause).set (R.FVL_PEER_READY k) 0).updLink k fun l => { refusals := l.refusals }) = a at *
  have counted : keepsLow s (if s.linkOpen k then ((a.countSat (R.FVL_RETRAINS k)).raise (pgFVL k) 1).severity 2 else a) := by
    refine .andIf down (.trans (.raise (.set .refl (fvl _ ?_)) raw) (.of_endView (State.severity_endView ..)))
    simp only [R.FVL_RETRAINS]; omega
  generalize (if s.linkOpen k then ((a.countSat (R.FVL_RETRAINS k)).raise (pgFVL k) 1).severity 2 else a) = b at *
  have wrapped : keepsLow s (if s.linkUp k then b.wrapRing k else b) := by
    refine .andIf counted ?_
    unfold State.wrapRing
    refine .andIf .refl (.raise (.set .refl (fvl _ ?_)) raw)
    simp only [R.FVL_WRAPPED]; omega
  generalize (if s.linkUp k then b.wrapRing k else b) = c at *
  have synced : keepsLow c c.outOfSync := by
    unfold State.outOfSync
    exact keepsLow.trans (.raise (.set .refl (by decide)) (by decide)) (State.releaseHeld_low _ _)
  have dropped : ∀ d : State, keepsLow d (d.dropForwarded k) := fun d => by
    unfold State.dropForwarded
    exact .foldl (.update .refl rfl) fun u x _ => .of_endView (u.finish_endView ..)
  have settled : ∀ d : State, keepsLow d d.settleTree := fun d => .andIf .refl (.update (.raise (.set .refl (by decide)) (by decide)) rfl)
  exact keepsLow.trans (.andIf (.andIf wrapped synced) (dropped _)) (settled _)

theorem State.allLinksDown_low (s : State) : keepsLow s s.allLinksDown := by
  unfold State.allLinksDown
  exact .foldl .refl fun u k _ => u.linkDown_low k 5

theorem State.endAllCommands_low (s : State) : keepsLow s s.endAllCommands := by
  have ended : ∀ (cs : List Cmd) (es : List (Nat × Context)) (v : State),
      keepsLow v (es.foldl (fun s e => s.endCommand e.1 stAborted 4) (cs.foldl (fun s c => s.endStaged c stAborted 4) v)) := fun cs es v =>
    .foldl (.foldl .refl fun u c _ => .of_endView (u.finish_endView ..)) fun u e _ => .of_endView (u.endCommand_endView ..)
  have start : keepsLow s { s with hq := { s.hq with staged := [], fwdOut := [] } } := keepsLow.update (t := s) .refl rfl
  exact (start.trans (ended _ _ _)).trans (State.releaseHeld_low _ _)

theorem State.loseRoots_low (s : State) : keepsLow s s.loseRoots :=
  keepsLow.update (t := (s.set R.FVL0_ENROLLED 0).count (R.BLK_SEQ pgOBS) 2) (.set (.set .refl (by decide)) (by decide)) rfl

theorem State.zeroWork_low (s : State) : keepsLow s s.zeroWork := by
  have ended := s.endAllCommands_low
  have settled : ∀ (held : Nat → Nat) (v : State), keepsLow v ((List.range 8).foldl (fun s p => (s.countAborts p (held p)).settlePk p) v) := fun held v =>
    .foldl .refl fun u p hp => .of_endView (by simp [State.settlePk, List.mem_range.1 hp])
  unfold State.zeroWork
  generalize s.endAllCommands = x at *
  dsimp only
  refine .trans ?_ (State.allLinksDown_low _)
  refine .trans ?_ (State.loseRoots_low _)
  refine .trans ?_ (settled _ _)
  exact keepsLow.update (t := x) ended rfl

theorem State.failAppend_low (s : State) : keepsLow s s.failAppend := by
  unfold State.failAppend
  split
  · exact .refl
  next a as _ =>
    have raised : keepsLow s ({ s with jr := { s.jr with queue := as, record := [] } }.raise pgSD 6) :=
      .raise (keepsLow.update (t := s) .refl rfl) (by decide)
    dsimp only
    generalize ({ s with jr := { s.jr with queue := as, record := [] } } : State).raise pgSD 6 = v at *
    split
    · exact raised.trans (.of_endView (State.endCommand_endView ..))
    · exact raised

theorem State.closeJournal_low (s : State) : keepsLow s s.closeJournal :=
  .set (.foldl .refl fun u _ _ => u.failAppend_low) (by decide)

theorem State.loseMmk_low (s : State) : keepsLow s s.loseMmk := by
  have closed : keepsLow s (s.closeJournal.count (R.BLK_SEQ pgOBS) 2) := .set s.closeJournal_low (by decide)
  unfold State.loseMmk
  generalize s.closeJournal.count (R.BLK_SEQ pgOBS) 2 = v at *
  exact keepsLow.update (t := v) closed rfl

theorem State.placeMmk_low (s : State) (k : List Byte) : keepsLow s (s.placeMmk k) :=
  .set (keepsLow.update (t := s) .refl rfl) (by decide)

theorem State.lcWipe_low (s : State) (target : Nat) : keepsLow s (s.lcWipe target) := by
  have work : keepsLow s s.workWipe := s.zeroWork_low
  unfold State.lcWipe
  split
  · generalize s.workWipe = v at *
    exact keepsLow.update (t := v) work rfl
  · have lost := work.trans (State.loseMmk_low _)
    generalize s.workWipe.loseMmk = v at *
    exact keepsLow.update (t := ({ v with randoms := v.randoms + 32 } : State).placeMmk _) ((keepsLow.update (t := v) lost rfl).trans (State.placeMmk_low _ _)) rfl
  · have lost := work.trans (State.loseMmk_low _)
    generalize s.workWipe.loseMmk = v at *
    exact keepsLow.update (t := v) lost rfl
  · exact .refl

/-- The wipe of a transition past MISSION, or to it, clears the key table. -/
theorem State.lcWipe_lines (s : State) {target : Nat} (h : 4 = target ∨ 6 ≤ target) (top : target ≤ 7) (l : Nat) : (s.lcWipe target).line l = {} := by
  have wiped : s.workWipe.wiped := by rw [State.workWipe]; exact s.zeroWork_spec.1
  have lost : ∀ l, s.workWipe.loseMmk.line l = {} := by
    have still : ∀ v : State, v.wiped → v.loseMmk.wiped := fun v w => v.loseMmk_steady.wiped w
    obtain ⟨-, lines, -⟩ := still _ wiped
    exact lines
  obtain ⟨-, work, -⟩ := wiped
  have cases' : target = 4 ∨ target = 6 ∨ target = 7 := by omega
  rcases cases' with rfl | rfl | rfl
  · have ge : (s.lcWipe 4).ge = s.workWipe.ge := by
      unfold State.lcWipe
      generalize s.workWipe = v
      rfl
    rw [State.line, ge]; exact work l
  · have ge : (s.lcWipe 6).ge = s.workWipe.loseMmk.ge := by
      unfold State.lcWipe
      generalize s.workWipe.loseMmk = v
      rfl
    rw [State.line, ge]; exact lost l
  · have ge : (s.lcWipe 7).ge = s.workWipe.loseMmk.ge := by
      unfold State.lcWipe
      generalize s.workWipe.loseMmk = v
      rfl
    rw [State.line, ge]; exact lost l

/-! ## Commands (R311-R313, R315) -/

theorem word_of_fuses (h : t.fuses = s.fuses) : t.lc.word = s.lc.word := congrArg Prod.fst h

/-- The token registers zeroed. -/
theorem State.zeroTokens_spec (s : State) {m : Nat} (hm : m ≤ 8) :
    let t := (List.range m).foldl (fun s i => s.set (R.LCS_TOKEN i) 0) s
    (∀ i < m, t.get (R.LCS_TOKEN i) = 0) ∧ (∀ f : Field, (∀ i < 8, (R.LCS_TOKEN i).key ≠ f.key) → t.get f = s.get f) ∧ t.offRegisters = s.offRegisters := by
  induction m with
  | zero => exact ⟨fun i hi => absurd hi (Nat.not_lt_zero i), fun _ _ => rfl, rfl⟩
  | succ m ih =>
    obtain ⟨zero, off, rest⟩ := ih (by omega)
    rw [List.range_succ, List.foldl_append]
    generalize (List.range m).foldl (fun s i => s.set (R.LCS_TOKEN i) 0) s = v at *
    refine ⟨fun i hi => ?_, fun f hf => (v.get_set_ne _ _ _ (hf m (by omega))).trans (off f hf), rest⟩
    by_cases e : i = m
    · subst e
      exact v.get_set_same (R.LCS_TOKEN i) 0
    · exact (v.get_set_ne _ _ _ (by simp only [Field.key, R.LCS_TOKEN]; omega)).trans (zero i (by omega))

/-- The result of a GO. -/
theorem State.lcResult_spec (s : State) (code : Nat) :
    let t := s.lcResult code
    t.get R.LCS_CMD_RESULT = code % 8 ∧ (∀ i < 8, t.get (R.LCS_TOKEN i) = 0) ∧ (code ≠ 2 → t.bit (R.BLK_INT_RAW pgLCS) 1 = true) ∧ t.lc = s.lc ∧
      t.parts = s.parts := by
  have tokens : ∃ v : State, v = (List.range 8).foldl (fun s i => s.set (R.LCS_TOKEN i) 0) (s.set R.LCS_CMD_RESULT code) ∧
      v.get R.LCS_CMD_RESULT = code % 8 ∧ (∀ i < 8, v.get (R.LCS_TOKEN i) = 0) ∧ v.lc = s.lc ∧ v.parts = s.parts := by
    obtain ⟨zero, off, rest⟩ := (s.set R.LCS_CMD_RESULT code).zeroTokens_spec (m := 8) le_rfl
    refine ⟨_, rfl, ?_, zero, ?_⟩
    · rw [off R.LCS_CMD_RESULT (by decide), State.get_set_same]; rfl
    · generalize (List.range 8).foldl (fun s i => s.set (R.LCS_TOKEN i) 0) (s.set R.LCS_CMD_RESULT code) = w at *
      exact ⟨show w.offRegisters.lc = s.offRegisters.lc from by rw [rest]; rfl, show w.offRegisters.parts = s.offRegisters.parts from by rw [rest]; rfl⟩
  obtain ⟨v, is, result, zero, lc, parts⟩ := tokens
  have eq : s.lcResult code = if code = 2 then v else v.raise pgLCS 1 := by rw [is]; rfl
  intro t
  have is' : t = if code = 2 then v else v.raise pgLCS 1 := eq
  split at is'
  next two => rw [is']; exact ⟨result, zero, fun h => absurd two h, lc, parts⟩
  next other =>
    have only := (v.raise_onlyFields pgLCS 1).2.2
    have off : ∀ f : Field, (R.BLK_INT_RAW pgLCS).key ≠ f.key → t.get f = v.get f := fun f h => by rw [is', State.raise_get_ne _ _ _ _ h]
    refine ⟨(off _ (by decide)).trans result, fun i hi => ?_, fun _ => ?_, ?_, ?_⟩
    · rw [off _ (by simp only [Field.key, R.LCS_TOKEN, R.BLK_INT_RAW, pgLCS]; omega), zero i hi]
    · rw [is']; exact State.raise_bit _ _ (by decide)
    · rw [is', only]; exact lc
    · rw [is', only]; exact parts

/-- The registers of a GO written. -/
def State.goWritten (s : State) (target idx : Nat) : State := (s.set R.LCS_TARGET target).set R.LCS_TEST_IDX idx

section
variable {target idx : Fin 16} (up : s.responds pgLCS = true)
include up

omit up in
theorem responds_free {p : Nat} (up : s.responds p = true) : s.inReset = false := by
  simp only [State.responds, Bool.and_eq_true, Bool.not_eq_true'] at up
  exact up.1.1

theorem lcsGo_refused (other : target ≠ 3) {code : Nat} (bad : (s.goWritten target idx).lcRefusal true target (s.goWritten target idx).lcToken = some code) :
    exec (.lcsGo target idx) s = .next ((s.goWritten target idx).lcResult code) := by
  show execLcsGo target idx s = _
  unfold execLcsGo
  rw [if_neg (by simp [up]), if_neg (by simp [responds_free up])]
  show (if target = 3 then _ else match (s.goWritten target idx).lcRefusal true target (s.goWritten target idx).lcToken with | some code => _ | none => _) = _
  rw [if_neg other, bad]
  rfl

theorem lcsGo_starts (other : target ≠ 3) (good : (s.goWritten target idx).lcRefusal true target (s.goWritten target idx).lcToken = none) :
    exec (.lcsGo target idx) s = .next (((s.goWritten target idx).lcResult 2).startTransition target) := by
  show execLcsGo target idx s = _
  unfold execLcsGo
  rw [if_neg (by simp [up]), if_neg (by simp [responds_free up])]
  show (if target = 3 then _ else match (s.goWritten target idx).lcRefusal true target (s.goWritten target idx).lcToken with | some code => _ | none => _) = _
  rw [if_neg other, good]
  rfl

theorem lcsGo_test : exec (.lcsGo 3 idx) s = exec (.testOpenEntry idx) s := by
  show execLcsGo 3 idx s = execTestOpenEntry idx s
  unfold execLcsGo execTestOpenEntry
  rw [if_neg (by simp [up]), if_neg (by simp [responds_free up]), if_pos (by simp), if_neg (by simp [responds_free up])]
  rfl

end

theorem State.startTransition_spec (s : State) (target : Nat) :
    let t := s.startTransition target
    t.lc.target = some target ∧ t.lc.word = s.lc.word ∧ t.get R.LCS_BUSY = 1 ∧ t.get R.LCS_CMD_RESULT = s.get R.LCS_CMD_RESULT ∧
      (4 = target ∨ 6 ≤ target → target ≤ 7 → ∀ l, t.line l = {}) := by
  have word : (s.lcWipe target).lc.word = s.lc.word := word_of_fuses (s.lcWipe_fuses target)
  have low := s.lcWipe_low target R.LCS_CMD_RESULT (by decide)
  have lines := s.lcWipe_lines (target := target)
  unfold State.startTransition
  generalize s.lcWipe target = v at *
  exact ⟨rfl, word, v.get_set_same R.LCS_BUSY 1, (v.get_set_ne R.LCS_BUSY R.LCS_CMD_RESULT 1 (by decide)).trans low, lines⟩

/-! ## Test tokens (R315) -/

/-- TARGET and TEST_IDX are no part of what judges a test token. -/
theorem State.testRefusal_goWritten (s : State) (a b idx : Nat) :
    (s.goWritten a b).testRefusal idx (s.goWritten a b).lcToken = s.testRefusal idx s.lcToken := by
  have off : ∀ i, (s.goWritten a b).get (R.LCS_TOKEN i) = s.get (R.LCS_TOKEN i) := fun i => by
    rw [State.goWritten, State.get_set_ne _ _ _ _ (by simp only [Field.key, R.LCS_TEST_IDX, R.LCS_TOKEN]; omega),
      State.get_set_ne _ _ _ _ (by simp only [Field.key, R.LCS_TARGET, R.LCS_TOKEN]; omega)]
  have token : (s.goWritten a b).lcToken = s.lcToken := by simp only [State.lcToken, off]
  rw [token]
  rfl

section
variable {idx : Fin 16} (free : s.inReset = false)
include free

theorem testOpenEntry_refused {code : Nat} (bad : s.testRefusal idx s.lcToken = some code) :
    exec (.testOpenEntry idx) s = .next ((s.goWritten 3 idx).lcResult code) := by
  show execTestOpenEntry idx s = _
  unfold execTestOpenEntry
  rw [if_neg (by simp [free])]
  show Host.Outcome.next ((s.goWritten 3 idx).enterTestOpen idx) = _
  unfold State.enterTestOpen
  rw [State.testRefusal_goWritten, bad]

/-- TEST_OPEN entered: the token burned, the work wiped. -/
def State.testOpened (s : State) (idx : Nat) : State :=
  let s := s.workWipe.lcResult 2
  ({ s with lc.burned := putBit s.lc.burned idx true, lc.testOpen := true }.raise pgLCS 2).setDomain 44 true

theorem testOpenEntry_opens (good : s.testRefusal idx s.lcToken = none) :
    exec (.testOpenEntry idx) s = .next ((s.goWritten 3 idx).testOpened idx) := by
  show execTestOpenEntry idx s = _
  unfold execTestOpenEntry
  rw [if_neg (by simp [free])]
  show Host.Outcome.next ((s.goWritten 3 idx).enterTestOpen idx) = _
  unfold State.enterTestOpen
  rw [State.testRefusal_goWritten, good]
  rfl

end

theorem bitOf_putBit_same (v i : Nat) : bitOf (putBit v i true) i = true := by rw [bitOf_testBit, testBit_putBit, if_pos rfl]

theorem State.lcResult_ge (s : State) (code : Nat) : (s.lcResult code).ge = s.ge := by
  have tokens := ((s.set R.LCS_CMD_RESULT code).zeroTokens_spec (m := 8) le_rfl).2.2
  unfold State.lcResult
  generalize (List.range 8).foldl (fun s i => s.set (R.LCS_TOKEN i) 0) (s.set R.LCS_CMD_RESULT code) = w at *
  have ge : w.ge = s.ge := show w.offRegisters.ge = s.offRegisters.ge from by rw [tokens]; rfl
  dsimp only
  split
  · exact ge
  · rw [(w.raise_onlyFields pgLCS 1).2.2]; exact ge

theorem State.testOpened_spec (s : State) (idx : Nat) :
    let t := s.testOpened idx
    t.lc.testOpen = true ∧ bitOf t.lc.burned idx = true ∧ t.lc.word = s.lc.word ∧ t.bit (R.BLK_INT_RAW pgLCS) 2 = true ∧ ∀ l, t.line l = {} := by
  have word : s.workWipe.lc.word = s.lc.word := word_of_fuses s.workWipe_fuses
  have wiped : s.workWipe.wiped := by rw [State.workWipe]; exact s.zeroWork_spec.1
  obtain ⟨-, lines, -⟩ := wiped
  unfold State.testOpened
  generalize s.workWipe = v at *
  obtain ⟨-, -, -, lc, -⟩ := v.lcResult_spec 2
  have ge := v.lcResult_ge 2
  dsimp only
  generalize v.lcResult 2 = w at *
  have only := (({ w with lc := { w.lc with burned := putBit w.lc.burned idx true, testOpen := true } } : State).raise_onlyFields pgLCS 2).2.2
  have raw := State.raise_bit ({ w with lc := { w.lc with burned := putBit w.lc.burned idx true, testOpen := true } } : State) pgLCS (i := 2) (by decide)
  generalize ({ w with lc := { w.lc with burned := putBit w.lc.burned idx true, testOpen := true } } : State).raise pgLCS 2 = x at *
  have lcX : x.lc = { w.lc with burned := putBit w.lc.burned idx true, testOpen := true } := by rw [only]
  have geX : x.ge = v.ge := by rw [only]; exact ge
  refine ⟨show x.lc.testOpen = true by rw [lcX], show bitOf x.lc.burned idx = true by rw [lcX]; exact bitOf_putBit_same _ _,
    show x.lc.word = _ by rw [lcX, lc]; exact word, ?_, fun l => ?_⟩
  · have far : (x.setDomain 44 true).get (R.BLK_INT_RAW pgLCS) = x.get (R.BLK_INT_RAW pgLCS) := x.get_setBit_ne R.PWR_DOMAIN_ON_HI _ 12 true (by decide)
    rw [State.bit, far]; exact raw
  · show Sparse.get {} x.ge.lines l = _
    rw [geX]; exact lines l

/-! ## Transitions complete (R307, R312) -/

/-- The fuses of a codeword on the path below `target`, blown, make the codeword of `target`. -/
theorem blow_codeword {target w : Nat} (known : target ∈ [2, 4, 5, 6, 7]) (code : w = lcCodeword (lcDecode w)) (below : lcDecode w < target) :
    blow w (fusesTo target w) = lcCodeword target := by
  have from_ : lcDecode w ∈ [1, 2, 4, 5, 6, 7, 15] := by
    unfold lcDecode
    cases found : [1, 2, 4, 5, 6, 7].find? fun c => lcCodeword c == w with
    | none => simp
    | some c =>
      have := List.mem_of_find?_eq_some found
      simp only [Option.getD_some, List.mem_cons, List.not_mem_nil, or_false] at this ⊢
      tauto
  generalize lcDecode w = d at *
  subst code
  revert below
  simp only [List.mem_cons, List.not_mem_nil, or_false] at known from_
  rcases known with rfl | rfl | rfl | rfl | rfl <;> rcases from_ with rfl | rfl | rfl | rfl | rfl | rfl | rfl <;> decide +kernel

/-- The word a transition leaves, and the reset it ends in. -/
theorem transitionComplete_spec {target : Nat} (runs : s.lc.target = some target)
    (now : s.get R.GATE_STATE ≠ 5 ∨ s.gt.set.any Change.isLifeCycle = false) :
    ∃ t, exec .lcsTransitionComplete s = .next t ∧ t.lc.target = none ∧ t.lc.word = blow s.lc.word (fusesTo target s.lc.word) ∧
      t.lc.burned = s.lc.burned ∧ t.bt.cause = 4 ∧ t.mode = .boot := by
  have run : exec .lcsTransitionComplete s =
      .next (({ s with lc := { s.lc with word := blow s.lc.word (fusesTo target s.lc.word), target := none } } : State).resetModule 4) := by
    show execLcsTransitionComplete s = _
    unfold execLcsTransitionComplete
    rw [runs]
    exact if_neg fun ⟨a, b⟩ => now.elim (fun h => h a) fun h => by simp [h] at b
  refine ⟨_, run, ?_⟩
  generalize hu : ({ s with lc := { s.lc with word := blow s.lc.word (fusesTo target s.lc.word), target := none } } : State) = u
  have lc : u.lc = { s.lc with word := blow s.lc.word (fusesTo target s.lc.word), target := none } := by rw [← hu]
  have fused : u.fusedWord = blow s.lc.word (fusesTo target s.lc.word) := by rw [State.fusedWord, lc]
  obtain ⟨b, ⟨cause, -⟩, started⟩ := (u.moduleReset 4).startBoot_spec
  have lcT : (u.resetModule 4).lc = { word := u.fusedWord, burned := u.lc.burned, devKeys := u.lc.devKeys } := started.lc
  refine ⟨by rw [lcT], by rw [lcT, fused], by rw [lcT, lc], ?_, started.mode⟩
  rw [State.resetModule, started.bt]
  exact cause

/-! ## Debug authorisation (R316-R319) -/

theorem nonceExpire_spec (held : s.lc.nonce ≠ []) (due : s.lc.nonceDue ≤ s.quartz) (unit : s.hasUnit 1 = true) :
    ∃ t, exec .dbgNonceExpire s = .next t ∧ t.lc.nonce = [] ∧ t.bit (R.BLK_INT_RAW pgLCS) 5 = true ∧ t.lc.word = s.lc.word := by
  have run : exec .dbgNonceExpire s = .next ((({ s with lc := { s.lc with nonce := [] } } : State).raise pgLCS 5).fire 1) :=
    if_neg (by simp [held, unit]; omega)
  have only := (({ s with lc := { s.lc with nonce := [] } } : State).raise_onlyFields pgLCS 5).2.2
  have raw := State.raise_bit ({ s with lc := { s.lc with nonce := [] } } : State) pgLCS (i := 5) (by decide)
  generalize ({ s with lc := { s.lc with nonce := [] } } : State).raise pgLCS 5 = x at *
  have low : x.get (R.QTZ_UNIT 1) < 16 := Nat.mod_lt _ (by decide)
  have lc : (x.fire 1).lc = { s.lc with nonce := [] } := by
    show x.lc = _
    rw [only]
  refine ⟨_, run, by rw [lc], ?_, by rw [lc]⟩
  have far : (x.fire 1).get (R.BLK_INT_RAW pgLCS) = x.get (R.BLK_INT_RAW pgLCS) :=
    x.get_set_ne _ _ _ (by simp only [Field.key, R.QTZ_FIRED, R.BLK_INT_RAW, pgLCS]; omega)
  rw [State.bit, far]; exact raw

/-- The granted paths open beside those that are open. -/
def State.debugOpened (s : State) (g : Nat) : State :=
  let s := ((s.set R.LCS_DBG_OPEN 1).set R.LCS_DBG_GRANT (s.get R.LCS_DBG_GRANT ||| g)).raise pgLCS 3
  { s with lc.opening := none }.setDomain 44 true

theorem execDebugOpen_eq : exec .debugOpen s = match s.lc.opening with
    | none => .next s
    | some g => if s.ob.latch < 3 ∨ bitOf s.ob.conds 18 = true then .next s else .next (s.debugOpened g) := rfl

theorem debugOpen_idle (h : s.ob.latch < 3 ∨ s.lc.opening = none ∨ bitOf s.ob.conds 18 = true) : exec .debugOpen s = .next s := by
  rw [execDebugOpen_eq]
  split
  · rfl
  next g is => exact if_pos (by rcases h with h | h | h <;> simp_all)

theorem State.debugOpened_spec (s : State) (g : Nat) :
    let t := s.debugOpened g
    t.get R.LCS_DBG_OPEN = 1 ∧ t.get R.LCS_DBG_GRANT = (s.get R.LCS_DBG_GRANT ||| g) % 2 ^ R.LCS_DBG_GRANT.width ∧ t.lc.opening = none ∧
      t.bit (R.BLK_INT_RAW pgLCS) 3 = true ∧ t.bit R.PWR_DOMAIN_ON_HI 12 = true := by
  have written : ∃ v : State, v = (s.set R.LCS_DBG_OPEN 1).set R.LCS_DBG_GRANT (s.get R.LCS_DBG_GRANT ||| g) ∧ v.get R.LCS_DBG_OPEN = 1 ∧
      v.get R.LCS_DBG_GRANT = (s.get R.LCS_DBG_GRANT ||| g) % 2 ^ R.LCS_DBG_GRANT.width :=
    ⟨_, rfl, by rw [State.get_set_ne _ _ _ _ (by decide), State.get_set_same]; rfl, State.get_set_same ..⟩
  obtain ⟨v, is, open_, grant⟩ := written
  unfold State.debugOpened
  rw [← is]
  dsimp only
  have raw := v.raise_bit pgLCS (i := 3) (by decide)
  have off : ∀ f : Field, (R.BLK_INT_RAW pgLCS).key ≠ f.key → (v.raise pgLCS 3).get f = v.get f := fun f h => State.raise_get_ne _ _ _ _ h
  generalize v.raise pgLCS 3 = w at *
  generalize hx : ({ w with lc := { w.lc with opening := none } } : State) = x
  have regs : ∀ f, x.get f = w.get f := fun f => by rw [← hx]; rfl
  have far : ∀ f : Field, R.PWR_DOMAIN_ON_HI.key ≠ f.key → (x.setDomain 44 true).get f = x.get f := fun f h => x.get_setBit_ne R.PWR_DOMAIN_ON_HI f 12 true h
  refine ⟨?_, ?_, ?_, ?_, x.bit_setBit R.PWR_DOMAIN_ON_HI 12 12 true (by decide)⟩
  · rw [far _ (by decide), regs, off _ (by decide), open_]
  · rw [far _ (by decide), regs, off _ (by decide), grant]
  · show x.lc.opening = none
    rw [← hx]
  · rw [State.bit, far _ (by decide), regs]; exact raw

/-- The codes that refuse a test token. -/
theorem State.testRefusal_code {idx code : Nat} {token : List Byte} (h : s.testRefusal idx token = some code) : code ∈ [1, 3, 4, 7] := by
  unfold State.testRefusal at h
  split at h
  · cases h; simp
  · split at h
    · split at h <;> cases h <;> simp
    · split at h
      · cases h; simp
      · split at h
        · cases h; simp
        · split at h <;> cases h
          simp

/-- Settles O42: a refusal by the result it writes, a start by its wipe, a completion by the reset it ends in. -/
theorem lifeCycleCommands : Obligations.LifeCycleCommands := by
  unfold Obligations.LifeCycleCommands
  refine ⟨fun target idx s up other => ?_, fun target idx s up other => ?_, fun idx s free good => ?_, fun target s runs now => ?_,
    fun s held due unit => nonceExpire_spec held due unit, fun g s is high clear => ?_, fun s _ low => debugOpen_idle (.inl low),
    fun target idx s down => if_pos (by simp [down]), fun idx code s free bad => ?_, fun idx s up => lcsGo_test up, fun s h => ?_, fun s h => ?_,
    fun s h => debugOpen_idle (.inr h)⟩
  · intro u code bad
    obtain ⟨result, zero, raw, lc, parts⟩ := u.lcResult_spec code
    exact ⟨_, lcsGo_refused up other bad, result, zero, raw, lc, parts⟩
  · intro u good
    obtain ⟨result, -, -, lc, -⟩ := u.lcResult_spec 2
    obtain ⟨goal, word, busy, kept, lines⟩ := (u.lcResult 2).startTransition_spec target
    exact ⟨_, lcsGo_starts up other good, goal, word.trans (congrArg LifeCycle.word lc), busy, kept.trans result, lines⟩
  · obtain ⟨opens, burned, word, raw, lines⟩ := (s.goWritten 3 idx).testOpened_spec idx
    exact ⟨_, testOpenEntry_opens free good, opens, burned, word, raw, lines⟩
  · obtain ⟨t, run, done, word, burned, cause, mode⟩ := transitionComplete_spec runs now
    refine ⟨t, run, done, fun i set => ?_, fun known code below => ?_, burned, cause, mode⟩
    · rw [word]; exact blow_kept _ set
    · rw [word]; exact blow_codeword known code below
  · have run : exec .debugOpen s = .next (s.debugOpened g) := by
      rw [execDebugOpen_eq, is]
      exact if_neg (by simp [clear]; omega)
    obtain ⟨opens, grant, done, raw, domain⟩ := s.debugOpened_spec g
    exact ⟨_, run, opens, grant, done, raw, domain⟩
  · obtain ⟨result, zero, raw, lc, -⟩ := (s.goWritten 3 idx).lcResult_spec code
    have known := State.testRefusal_code bad
    simp only [List.mem_cons, List.not_mem_nil, or_false] at known
    exact ⟨_, testOpenEntry_refused free bad, result.trans (Nat.mod_eq_of_lt (by omega)), zero, lc, raw (by omega)⟩
  · show execLcsTransitionComplete s = _
    unfold execLcsTransitionComplete
    split
    · rfl
    next is => exact if_pos (h.resolve_left (by simp [is]))
  · exact if_pos (by rcases h with h | h | h <;> simp [h])

end Sys2Proof.Machine
end

section
/-! SUPPORT. The credit arbiters: grants, window boundaries, transfers, FREEZE and STARVE (R251-R254). -/
namespace Sys2Proof.Machine

variable {s t : State} {u r : Nat} {p : Placement}

theorem State.arb_updArb (s : State) (u : Nat) (f : Arbiter → Arbiter) : (s.updArb u f).arb u = f (s.arb u) := Sparse.get_upd_same _ _ _ _

/-- The state with other arbiters. -/
def State.withArbs (s : State) (m : Sparse Arbiter) : State := { s with arbs := m }

/-- The same but for the arbiters. -/
def arbsOnly (s t : State) : Prop := t = s.withArbs t.arbs

namespace arbsOnly
theorem refl (s : State) : arbsOnly s s := rfl
theorem trans {v : State} (h : arbsOnly s t) (k : arbsOnly t v) : arbsOnly s v := by
  unfold arbsOnly at *
  rw [k, h]; rfl
theorem updArb {f : Arbiter → Arbiter} (h : arbsOnly s t) : arbsOnly s (t.updArb u f) := h.trans (t := t) rfl
theorem noteWaits {new : List Nat} (h : arbsOnly s t) : arbsOnly s (t.noteWaits u p new) := h.updArb
theorem requesters (h : arbsOnly s t) (p : Placement) : t.requesters p = s.requesters p := by
  rw [h]; cases p <;> rfl
theorem arbWeight (h : arbsOnly s t) (p : Placement) (r : Nat) : t.arbWeight p r = s.arbWeight p r := by
  rw [h]; cases p <;> rfl
theorem quartz (h : arbsOnly s t) : t.quartz = s.quartz := by rw [h]; rfl
theorem arbFrozen (h : arbsOnly s t) (p : Placement) : t.arbFrozen p = s.arbFrozen p := by
  rw [h]; cases p <;> rfl
theorem regs (h : arbsOnly s t) : t.regs = s.regs := by rw [h]; rfl
theorem get (h : arbsOnly s t) (f : Field) : t.get f = s.get f := by rw [h]; rfl
theorem bit (h : arbsOnly s t) (f : Field) (i : Nat) : t.bit f i = s.bit f i := by rw [h]; rfl
theorem waited (h : arbsOnly s t) (p : Placement) (w : Nat) : t.waited p w = s.waited p w := by
  rw [h]; cases p <;> rfl
end arbsOnly

/-! ## Who waits -/

/-- Noting who waits changes nothing else of the arbiter. -/
theorem State.noteWaits_arb (s : State) (u : Nat) (p : Placement) (new : List Nat) :
    ∃ ws, (s.noteWaits u p new).arb u = { s.arb u with waiting := ws } ∧ ∀ w ∈ ws, w ∈ (s.arb u).waiting ∨ w.since = s.quartz := by
  refine ⟨_, s.arb_updArb u _, fun w hw => ?_⟩
  rcases List.mem_append.mp hw with kept | added
  · exact .inl (List.mem_filter.mp kept).1
  · obtain ⟨r, -, rfl⟩ := List.mem_map.mp added
    exact .inr rfl

/-! ## Replenishing -/

/-- The counters of an arbiter after a replenishment: a requester's weight less its debt. -/
theorem credits_replenished (f : Nat → Int) {xs : List Nat} (h : r ∈ xs) (m : Sparse Int) :
    Sparse.get 0 (xs.foldl (fun m r => Sparse.set 0 m r (f r)) m) r = f r := by
  refine foldl_makes (fun m : Sparse Int => Sparse.get 0 m r = f r) _ (fun m x hm => ?_) h (fun _ => Sparse.get_set_same _ _ _ _) m
  by_cases e : x = r
  · exact e ▸ Sparse.get_set_same _ _ _ _
  · exact (Sparse.get_set_ne _ _ _ _ e).trans hm

theorem State.replenish_arbsOnly (s : State) (u : Nat) (p : Placement) : arbsOnly s (s.replenish u p) := (arbsOnly.refl s).updArb

theorem State.replenish_credits (s : State) (u : Nat) (h : r ∈ s.requesters p) :
    Sparse.get 0 ((s.replenish u p).arb u).credits r = (s.arbWeight p r : Int) + min (Sparse.get 0 (s.arb u).credits r) 0 := by
  unfold State.replenish
  rw [State.arb_updArb]
  exact credits_replenished (fun r => (s.arbWeight p r : Int) + min (Sparse.get 0 (s.arb u).credits r) 0) h []

theorem State.replenish_arb (s : State) (u : Nat) (p : Placement) :
    (s.replenish u p).arb u = { s.arb u with credits := ((s.replenish u p).arb u).credits } := by
  unfold State.replenish
  rw [State.arb_updArb]

/-- A requester weighs at least 1. -/
theorem State.arbWeight_pos (h : r ∈ s.requesters p) : 0 < s.arbWeight p r := by
  cases p with
  | fetch port => exact Nat.lt_of_lt_of_le Nat.one_pos (Nat.le_max_left _ _)
  | dispatch => exact Nat.lt_of_lt_of_le Nat.one_pos (Nat.le_max_left _ _)
  | crossbar n port =>
    simp only [State.arbWeight]
    split <;> omega
  | hbm c =>
    have small : r < 10 := List.mem_range.mp h
    simp only [State.arbWeight, small, if_true]
    omega

/-- Replenishing keeps all but the credits, and, with a fuel past every waiting requester's debt, leaves one that may be granted. -/
theorem State.replenishFor_spec (fuel : Nat) : ∀ s : State, (∀ w ∈ (s.arb u).waiting, w.req ∈ s.requesters p ∧ 0 < Sparse.get 0 (s.arb u).credits w.req + fuel) →
    arbsOnly s (s.replenishFor u p fuel) ∧ ((s.replenishFor u p fuel).arb u = { s.arb u with credits := ((s.replenishFor u p fuel).arb u).credits }) ∧
    ((s.arb u).waiting ≠ [] → ∃ w ∈ (s.arb u).waiting, 0 < Sparse.get 0 ((s.replenishFor u p fuel).arb u).credits w.req) := by
  induction fuel with
  | zero =>
    intro s h
    refine ⟨.refl s, rfl, fun some => ?_⟩
    obtain ⟨w, hw⟩ := List.exists_mem_of_ne_nil _ some
    exact ⟨w, hw, by simpa [State.replenishFor] using (h w hw).2⟩
  | succ fuel ih =>
    intro s h
    rw [State.replenishFor]
    split
    · next stands =>
      refine ⟨.refl s, rfl, fun _ => ?_⟩
      obtain ⟨w, hw, pos⟩ := List.any_eq_true.mp stands
      exact ⟨w, hw, of_decide_eq_true pos⟩
    · have same : ((s.replenish u p).arb u).waiting = (s.arb u).waiting := by rw [s.replenish_arb u p]
      obtain ⟨only, arb, made⟩ := ih (s.replenish u p) fun w hw => by
        obtain ⟨req, debt⟩ := h w (same ▸ hw)
        refine ⟨by rw [(s.replenish_arbsOnly u p).requesters]; exact req, ?_⟩
        have weight := State.arbWeight_pos req
        rw [s.replenish_credits u req]
        omega
      rw [same] at made
      refine ⟨(s.replenish_arbsOnly u p).trans only, ?_, made⟩
      rw [arb, s.replenish_arb u p]

/-! ## The winner -/

/-- What the winner of the waiting requesters is: one of positive credit and of none less than another, or none where no credit is positive. -/
def leads (credit : Nat → Int) (ws : List Waiting) : Option Nat → Prop
  | none => ∀ w ∈ ws, credit w.req ≤ 0
  | some r => (∃ w ∈ ws, w.req = r) ∧ 0 < credit r ∧ ∀ w ∈ ws, credit w.req ≤ credit r

theorem leads_foldl {credit : Nat → Int} {f : Option Nat → Waiting → Option Nat} (step : ∀ ws b w, leads credit ws b → leads credit (ws ++ [w]) (f b w))
    (xs : List Waiting) : ∀ ws b, leads credit ws b → leads credit (ws ++ xs) (xs.foldl f b) := by
  induction xs with
  | nil => intro ws b h; simpa using h
  | cons x xs ih =>
    intro ws b h
    simpa using ih _ _ (step ws b x h)

theorem leads_keep {credit : Nat → Int} {ws : List Waiting} {w : Waiting} (h : leads credit ws (some r)) (less : credit w.req ≤ credit r) :
    leads credit (ws ++ [w]) (some r) := by
  obtain ⟨⟨v, hv, e⟩, pos, best⟩ := h
  refine ⟨⟨v, List.mem_append_left _ hv, e⟩, pos, fun x hx => ?_⟩
  rcases List.mem_append.mp hx with old | new
  · exact best x old
  · exact List.mem_singleton.mp new ▸ less

theorem leads_take {credit : Nat → Int} {ws : List Waiting} {w : Waiting} (pos : 0 < credit w.req) (best : ∀ x ∈ ws, credit x.req ≤ credit w.req) :
    leads credit (ws ++ [w]) (some w.req) := by
  refine ⟨⟨w, by simp, rfl⟩, pos, fun x hx => ?_⟩
  rcases List.mem_append.mp hx with old | new
  · exact best x old
  · exact (List.mem_singleton.mp new ▸ le_rfl)

theorem leads_skip {credit : Nat → Int} {ws : List Waiting} {w : Waiting} {b : Option Nat} (h : leads credit ws b) (none : credit w.req ≤ 0) :
    leads credit (ws ++ [w]) b := by
  cases b with
  | some r => exact leads_keep h (none.trans (le_of_lt h.2.1))
  | none =>
    intro x hx
    rcases List.mem_append.mp hx with old | new
    · exact h x old
    · exact List.mem_singleton.mp new ▸ none

theorem Arbiter.winner_leads (a : Arbiter) : leads (Sparse.get 0 a.credits) a.waiting a.winner := by
  refine leads_foldl (ws := []) (fun ws b w h => ?_) a.waiting none (by simp [leads])
  dsimp only
  split
  · next le => exact leads_skip h le
  · next pos =>
    have pos := not_le.mp pos
    cases b with
    | none => exact leads_take pos fun x hx => (h x hx).trans (le_of_lt pos)
    | some b =>
      dsimp only
      split_ifs with better
      · refine leads_take pos fun x hx => (h.2.2 x hx).trans ?_
        rcases better with lt | ⟨e, -⟩
        · exact le_of_lt lt
        · exact e.ge
      · exact leads_keep h (not_lt.mp fun lt => better (.inl lt))

theorem Arbiter.winner_some {a : Arbiter} {w : Waiting} (hw : w ∈ a.waiting) (pos : 0 < Sparse.get 0 a.credits w.req) :
    ∃ r, a.winner = some r ∧ (∃ w ∈ a.waiting, w.req = r) ∧ 0 < Sparse.get 0 a.credits r ∧
      ∀ w ∈ a.waiting, Sparse.get 0 a.credits w.req ≤ Sparse.get 0 a.credits r := by
  have h := a.winner_leads
  cases e : a.winner with
  | none => rw [e] at h; exact absurd (h w hw) (not_le.mpr pos)
  | some r => rw [e] at h; exact ⟨r, rfl, h⟩

/-! ## A grant (R251) -/

/-- The debt past which every waiting requester's credit is positive. -/
theorem foldl_max_le (xs : List Nat) {x : Nat} (h : x ∈ xs) : x ≤ xs.foldl max 0 := by
  rw [List.foldl_eq_foldr]
  exact List.le_max_of_le h le_rfl

theorem execArbGrant_waits {requests : List Nat} {beats : Nat} (at_ : placement u = some p)
    (h : s.arbFrozen p = true ∨ (s.arb u).owner ≠ none ∨ ((s.noteWaits u p requests).arb u).waiting = []) :
    exec (.arbGrant u requests beats) s = .next (s.noteWaits u p requests) := by
  obtain ⟨ws, arb, -⟩ := s.noteWaits_arb u p requests
  have only : arbsOnly s (s.noteWaits u p requests) := (arbsOnly.refl s).noteWaits
  show execArbGrant u requests beats s = _
  unfold execArbGrant
  rw [at_]
  refine if_pos ?_
  rw [only.arbFrozen]
  refine h.imp_right (.imp (fun busy => ?_) fun none => by simp [none])
  rw [arb]
  exact Option.isSome_iff_ne_none.mpr busy

/-- What the transfer granted to a requester costs. -/
def State.grantCost (s : State) (p : Placement) (r beats : Nat) : Nat :=
  match p with
  | .fetch port => ((s.nextQp port r).map (s.burst r)).getD 1
  | .dispatch => 1
  | _ => max 1 (min beats 4)

theorem arbsOnly.grantCost (h : arbsOnly s t) (p : Placement) (r beats : Nat) : t.grantCost p r beats = s.grantCost p r beats := by
  rw [h]; cases p <;> rfl

/-- How long a requester has waited at an arbiter. -/
def State.grantWait (s : State) (u : Nat) (p : Placement) (r : Nat) : Nat :=
  match (s.arb u).waiting.find? (·.req == r) with
  | some w => s.waited p w.since
  | none => 0

/-- The arbiter with a requester granted. -/
def Arbiter.granted (a : Arbiter) (r cost wait : Nat) : Arbiter :=
  { a with owner := some r, spent := false, burst := cost, last := some r,
           credits := Sparse.set 0 a.credits r (Sparse.get 0 a.credits r - cost),
           waiting := a.waiting.filter (·.req ≠ r),
           waitMax := Sparse.upd 0 a.waitMax r fun m => min (max m wait) 0xFFFFFFFF }

theorem execArbGrant_grants {requests : List Nat} {beats debt : Nat} (at_ : placement u = some p) (free : s.arbFrozen p = false) (idle : (s.arb u).owner = none)
    (some_ : ((s.noteWaits u p requests).arb u).waiting ≠ [])
    (owed : debt = (((s.noteWaits u p requests).arb u).waiting.map fun w => (- Sparse.get 0 ((s.noteWaits u p requests).arb u).credits w.req).toNat).foldl max 0)
    (won : (((s.noteWaits u p requests).replenishFor u p (debt + 2)).arb u).winner = some r)
    (only : arbsOnly s ((s.noteWaits u p requests).replenishFor u p (debt + 2))) :
    ∃ wait, exec (.arbGrant u requests beats) s =
      .next ((((s.noteWaits u p requests).replenishFor u p (debt + 2)).updArb u fun a => a.granted r (s.grantCost p r beats) wait).noteWaits u p []) := by
  obtain ⟨ws, arb, -⟩ := s.noteWaits_arb u p requests
  have noted : arbsOnly s (s.noteWaits u p requests) := (arbsOnly.refl s).noteWaits
  show ∃ wait, execArbGrant u requests beats s = _
  unfold execArbGrant
  rw [at_]
  dsimp only
  rw [if_neg (by rw [noted.arbFrozen, free, arb, idle]; simpa [arb] using some_), ← owed, won]
  rw [← only.grantCost p r beats]
  generalize (s.noteWaits u p requests).replenishFor u p (debt + 2) = v
  refine ⟨v.grantWait u p r,
    congrArg Host.Outcome.next (congrArg (fun v : State => v.noteWaits u p []) (congrArg _ (funext fun a => ?_)))⟩
  cases p with
  | fetch port =>
    unfold State.grantCost
    dsimp only
    generalize v.nextQp port r = q
    cases q <;> rfl
  | dispatch => rfl
  | crossbar n m => rfl
  | hbm c => rfl

/-- A grant goes to a waiting requester of most credit, and charges it. -/
theorem execArbGrant_serves {requests : List Nat} (beats : Nat) (at_ : placement u = some p) (free : s.arbFrozen p = false) (idle : (s.arb u).owner = none)
    (some_ : ((s.noteWaits u p requests).arb u).waiting ≠ []) (known : ∀ w ∈ ((s.noteWaits u p requests).arb u).waiting, w.req ∈ s.requesters p) :
    ∃ n t r, let a := ((s.noteWaits u p requests).replenishFor u p n).arb u
      exec (.arbGrant u requests beats) s = .next t ∧ (t.arb u).owner = some r ∧ (t.arb u).last = some r ∧
      (∃ w ∈ a.waiting, w.req = r) ∧ 0 < Sparse.get 0 a.credits r ∧ (∀ w ∈ a.waiting, Sparse.get 0 a.credits w.req ≤ Sparse.get 0 a.credits r) ∧
      Sparse.get 0 (t.arb u).credits r = Sparse.get 0 a.credits r - s.grantCost p r beats ∧ (t.arb u).burst = s.grantCost p r beats ∧
      (t.arb u).spent = false ∧ (∀ w ∈ (t.arb u).waiting, w.req = r → w.since = s.quartz) ∧ t = { s with arbs := t.arbs } := by
  have noted : arbsOnly s (s.noteWaits u p requests) := (arbsOnly.refl s).noteWaits
  obtain ⟨debt, owed⟩ : ∃ debt, debt =
      (((s.noteWaits u p requests).arb u).waiting.map fun w => (- Sparse.get 0 ((s.noteWaits u p requests).arb u).credits w.req).toNat).foldl max 0 := ⟨_, rfl⟩
  obtain ⟨fed, kept, made⟩ := State.replenishFor_spec (u := u) (p := p) (debt + 2) (s.noteWaits u p requests) fun w hw => by
    refine ⟨by rw [noted.requesters]; exact known w hw, ?_⟩
    have bound := foldl_max_le _ (List.mem_map_of_mem (f := fun w : Waiting => (- Sparse.get 0 ((s.noteWaits u p requests).arb u).credits w.req).toNat) hw)
    rw [← owed] at bound
    omega
  have only := noted.trans fed
  have same := congrArg Arbiter.waiting kept
  obtain ⟨w, hw, pos⟩ := made some_
  obtain ⟨r, won, waits, pos, best⟩ := Arbiter.winner_some (a := ((s.noteWaits u p requests).replenishFor u p (debt + 2)).arb u) (same ▸ hw) pos
  obtain ⟨wait, run⟩ := execArbGrant_grants (beats := beats) at_ free idle some_ owed won only
  refine ⟨debt + 2, _, r, run, ?_⟩
  clear run made won owed
  generalize (s.noteWaits u p requests).replenishFor u p (debt + 2) = v at *
  obtain ⟨ws, arb, since⟩ := (v.updArb u fun a => a.granted r (s.grantCost p r beats) wait).noteWaits_arb u p []
  rw [State.arb_updArb] at arb since
  have end_ : arbsOnly s ((v.updArb u fun a => a.granted r (s.grantCost p r beats) wait).noteWaits u p []) := only.updArb.noteWaits
  refine ⟨by rw [arb]; rfl, by rw [arb]; rfl, waits, pos, best, ?_, by rw [arb]; rfl, by rw [arb]; rfl, fun w hw e => ?_, end_⟩
  · rw [arb]
    exact Sparse.get_set_same _ _ _ _
  · rw [arb] at hw
    rcases since w hw with old | new
    · simp [Arbiter.granted, e] at old
    · exact new.trans (only.updArb (u := u) (f := fun a => a.granted r (s.grantCost p r beats) wait)).quartz

/-! ## A window boundary (R251, R51) -/

theorem execArbWindowBoundary_early (at_ : placement u = some p) (early : s.quartz < (s.arb u).nextWin) :
    exec (.arbWindowBoundary u) s = .next s := by
  show execArbWindowBoundary u s = _
  unfold execArbWindowBoundary
  rw [at_]
  exact if_pos early

@[simp] theorem State.raise_arbs (s : State) (p i : Nat) : (s.raise p i).arbs = s.arbs := by rw [(s.raise_onlyFields p i).2.2]

@[simp] theorem State.sample_arbs (s : State) (kind index bin : Nat) (v : Int) (n : Nat) : (s.sample kind index bin v n).arbs = s.arbs := by
  unfold State.sample
  split
  · rfl
  · dsimp only
    split
    · simp
    · rfl

/-- A read after every listed value was changed, whatever the change makes of the default. -/
theorem Sparse.get_mapVals_or {α : Type} [DecidableEq α] (d : α) (f : Nat → α → α) (m : Sparse α) (k : Nat) :
    Sparse.get d (Sparse.mapVals d f m) k = f k (Sparse.get d m k) ∨ Sparse.get d (Sparse.mapVals d f m) k = d ∧ Sparse.get d m k = d := by
  induction m with
  | nil => exact .inr ⟨rfl, rfl⟩
  | cons e m ih =>
    obtain ⟨j, v⟩ := e
    by_cases hj : j = k
    · subst hj
      by_cases hd : f j v = d
      · exact .inl (by simp [Sparse.mapVals, hd, Sparse.get, Sparse.get_erase_same])
      · exact .inl (by simp [Sparse.mapVals, hd, Sparse.get])
    · by_cases hd : f j v = d
      · simpa [Sparse.mapVals, hd, Sparse.get, hj, Sparse.get_erase_ne _ _ hj] using ih
      · simpa [Sparse.mapVals, hd, Sparse.get, hj] using ih

/-- The windows of the partitions closed: the arbiters and Quartz time are as they were, and each partition's window starts anew. -/
theorem State.closeWindows_spec (s : State) :
    s.closeWindows.arbs = s.arbs ∧ ∀ q, (s.closeWindows.part q).lastWinDone = (s.part q).winDone ∧ (s.closeWindows.part q).winDone = 0 ∧
      (s.closeWindows.part q).busyInWin = false := by
  obtain ⟨arbs, parts⟩ := foldl_keeps (fun t : State => t.arbs = s.arbs ∧ t.parts = s.parts) _
    (fun t e h => ⟨(t.sample_arbs 1 e.1 (depthBin (t.backlog e.1)) (t.backlog e.1) 1).trans h.1, (t.sample_parts 1 e.1 _ _ 1).trans h.2⟩)
    s.parts s ⟨rfl, rfl⟩
  refine ⟨arbs, fun q => ?_⟩
  unfold State.closeWindows State.part
  dsimp only
  rw [parts]
  rcases Sparse.get_mapVals_or ({} : Part) (fun _ x => { x with lastWinDone := x.winDone, winDone := 0, quietWin := !x.busyInWin, busyInWin := false })
    s.parts q with listed | ⟨missing, none⟩
  · rw [listed]; exact ⟨rfl, rfl, rfl⟩
  · rw [missing, none]; exact ⟨rfl, rfl, rfl⟩

/-- The state as a boundary leaves it, before the partitions' windows close. -/
def State.boundary (s : State) (u : Nat) (p : Placement) : State :=
  let due := (s.arb u).nextWin
  let period := max 1 (s.arbWindow p * 1000 / s.arbMHz p)
  ((s.noteWaits u p []).replenish u p).updArb u fun a => { a with nextWin := due + period * ((s.quartz - due) / period + 1) }

theorem execArbWindowBoundary_due (at_ : placement u = some p) (due : (s.arb u).nextWin ≤ s.quartz) :
    exec (.arbWindowBoundary u) s = .next (if u = 0 then (s.boundary u p).closeWindows else s.boundary u p) := by
  show execArbWindowBoundary u s = _
  unfold execArbWindowBoundary
  rw [at_]
  exact if_neg (not_lt.mpr due)

theorem State.boundary_arbsOnly (s : State) (u : Nat) (p : Placement) : arbsOnly s (s.boundary u p) :=
  (((arbsOnly.refl s).noteWaits).trans (State.replenish_arbsOnly _ u p)).updArb

/-- The next boundary lies past the present. -/
theorem next_window {due now period : Nat} (h : due ≤ now) (pos : 0 < period) : now < due + period * ((now - due) / period + 1) := by
  have := Nat.lt_mul_div_succ (now - due) pos
  omega

theorem State.boundary_arb (s : State) (u : Nat) (p : Placement) (due : (s.arb u).nextWin ≤ s.quartz) :
    s.quartz < ((s.boundary u p).arb u).nextWin ∧ ((s.boundary u p).arb u).owner = (s.arb u).owner ∧
    ∀ r ∈ s.requesters p, Sparse.get 0 ((s.boundary u p).arb u).credits r = (s.arbWeight p r : Int) + min (Sparse.get 0 (s.arb u).credits r) 0 := by
  obtain ⟨ws, noted, -⟩ := s.noteWaits_arb u p []
  have only : arbsOnly s (s.noteWaits u p []) := (arbsOnly.refl s).noteWaits
  unfold State.boundary
  dsimp only
  rw [State.arb_updArb]
  refine ⟨next_window due (by omega), ?_, fun r hr => ?_⟩
  · show (((s.noteWaits u p []).replenish u p).arb u).owner = _
    rw [State.replenish_arb, noted]
  · refine ((s.noteWaits u p []).replenish_credits u (by rw [only.requesters]; exact hr)).trans ?_
    rw [only.arbWeight, noted]

/-! ## The end of a transfer (R252, R253) -/

theorem execArbTransferEnd_stands (at_ : placement u = some p) (h : (s.arb u).owner = none ∨ s.grantStands u p = true) :
    exec (.arbTransferEnd u) s = .next s := by
  show execArbTransferEnd u s = _
  unfold execArbTransferEnd
  rw [at_]
  exact if_pos (h.imp_left fun none => by rw [none]; rfl)

@[simp] theorem State.raise_arbDrained (s : State) (i : Nat) (p : Placement) : (s.raise pgARB i).arbDrained p = s.arbDrained p := by
  have frozen : (s.raise pgARB i).arbFrozen p = s.arbFrozen p := by
    cases p with
    | fetch port => exact congrArg (bitOf · port) (s.raise_get_ne _ _ _ (by decide))
    | dispatch => rfl
    | crossbar n m => exact congrArg (bitOf · n) (s.raise_get_ne _ _ _ (by decide))
    | hbm c => exact congrArg (bitOf · (c % 32)) (s.raise_get_ne _ _ _ (by split <;> decide))
  have arb : (s.raise pgARB i).arb = s.arb := funext fun v => by rw [State.arb, State.raise_arbs]; rfl
  rw [State.arbDrained, frozen, arb]; rfl

theorem execArbTransferEnd_frees (at_ : placement u = some p) (busy : (s.arb u).owner ≠ none) (used : s.grantStands u p = false) :
    ∃ t, exec (.arbTransferEnd u) s = .next t ∧ (t.arb u).owner = none ∧ (t.arb u).credits = (s.arb u).credits ∧
      t.bit (R.BLK_INT_RAW pgARB) 3 = (s.bit (R.BLK_INT_RAW pgARB) 3 || t.arbDrained p) := by
  obtain ⟨v, ev⟩ : ∃ v, v = (s.updArb u fun a => { a with owner := none, spent := false }).noteWaits u p [] := ⟨_, rfl⟩
  have run : exec (.arbTransferEnd u) s = .next (if v.arbDrained p then v.raise pgARB 3 else v) := by
    show execArbTransferEnd u s = _
    unfold execArbTransferEnd
    rw [at_, ev]
    exact if_neg (by simp [Option.isNone_iff_eq_none, busy, used])
  have only : arbsOnly s v := ev ▸ (arbsOnly.refl s).updArb.noteWaits
  obtain ⟨ws, arb, -⟩ := (s.updArb u fun a => { a with owner := none, spent := false }).noteWaits_arb u p []
  rw [← ev, State.arb_updArb] at arb
  refine ⟨_, run, ?_⟩
  by_cases drained : v.arbDrained p = true
  · rw [if_pos drained]
    have arbs : (v.raise pgARB 3).arb u = v.arb u := by rw [State.arb, State.raise_arbs]; rfl
    have still : (v.raise pgARB 3).arbDrained p = true := by rw [v.raise_arbDrained]; exact drained
    rw [arbs, arb]
    refine ⟨rfl, rfl, ?_⟩
    rw [State.raise_bit _ _ (by decide), still, Bool.or_true]
  · rw [if_neg drained, arb]
    refine ⟨rfl, rfl, ?_⟩
    rw [only.bit, Bool.eq_false_iff.mpr drained, Bool.or_false]

/-! ## FREEZE (R253) -/

/-- Writing FREEZE changes the registers written, then the page's interrupt bits. -/
theorem onlyFields_raiseIf {fs : List Field} {c : Prop} [Decidable c] (i : Nat) (h : onlyFields fs s t) :
    onlyFields (fs ++ [R.BLK_INT_RAW pgARB]) s (if c then t.raise pgARB i else t) := by
  split
  · exact onlyFields_mono (onlyFields_trans h (t.raise_onlyFields pgARB i)) (by simp)
  · exact onlyFields_mono h fun f hf => List.mem_append_left _ hf

theorem execArbFreeze_channels {reg : Fin 3} (value : Word) (on : s.responds pgARB = true) (stack : reg.val ≠ 0) :
    ∃ t, exec (.arbFreeze reg value) s = .next t ∧
      t.get (if reg.val = 1 then R.ARB_FREEZE_HBM0 else R.ARB_FREEZE_HBM1) = value.toNat ∧
      onlyFields [if reg.val = 1 then R.ARB_FREEZE_HBM0 else R.ARB_FREEZE_HBM1, R.BLK_INT_RAW pgARB] s t := by
  obtain ⟨f, ef⟩ : ∃ f, f = if reg.val = 1 then R.ARB_FREEZE_HBM0 else R.ARB_FREEZE_HBM1 := ⟨_, rfl⟩
  have wide : f.width = 32 := by rw [ef]; split <;> rfl
  have off : (R.BLK_INT_RAW pgARB).key ≠ f.key := by rw [ef]; split <;> decide
  have run : exec (.arbFreeze reg value) s = .next (if (freezePlaces reg.val).any fun p => (s.set f value.toNat).arbDrained p &&
      !((freezePlaces reg.val).filter s.arbDrained).contains p then (s.set f value.toNat).raise pgARB 3 else s.set f value.toNat) := by
    refine (if_neg (by simp [on])).trans (congrArg Host.Outcome.next ?_)
    unfold State.freezeArbs
    dsimp only
    rw [if_neg stack, if_neg stack, ← ef]
  refine ⟨_, run, ?_, ef ▸ onlyFields_raiseIf 3 (onlyFields_set s f value.toNat)⟩
  have small : value.toNat % 2 ^ f.width = value.toNat := by rw [wide]; exact Nat.mod_eq_of_lt value.isLt
  rw [← ef]
  split
  · rw [State.raise_get_ne _ _ _ _ off, State.get_set_same, small]
  · rw [State.get_set_same, small]

theorem execArbFreeze_fetch {reg : Fin 3} (value : Word) (on : s.responds pgARB = true) (fetch : reg.val = 0) :
    ∃ v : State, v.get R.ARB_FREEZE_FETCH = value.toNat % 2 ^ R.ARB_FREEZE_FETCH.width ∧
      v.get R.ARB_FREEZE_XBAR = value.toNat / 65536 ∧ onlyFields [R.ARB_FREEZE_FETCH, R.ARB_FREEZE_XBAR] s v ∧
      ∃ t, exec (.arbFreeze reg value) s = .next t ∧
        onlyFields [R.BLK_INT_RAW pgARB] ((List.range 16).foldl (fun s n => if s.xbarHeld n then s else s.pumpAll n) v) t := by
  have small : value.toNat / 65536 % 2 ^ R.ARB_FREEZE_XBAR.width = value.toNat / 65536 := Nat.mod_eq_of_lt (by
    have := value.isLt
    show value.toNat / 65536 < 2 ^ 16
    omega)
  refine ⟨(s.set R.ARB_FREEZE_FETCH value.toNat).set R.ARB_FREEZE_XBAR (value.toNat / 65536), ?_, ?_, ?_, ?_⟩
  · rw [State.get_set_ne _ _ _ _ (by decide), State.get_set_same]
  · rw [State.get_set_same, small]
  · exact onlyFields_trans (onlyFields_set s _ _) (onlyFields_set _ _ _)
  · generalize ev : (s.set R.ARB_FREEZE_FETCH value.toNat).set R.ARB_FREEZE_XBAR (value.toNat / 65536) = v
    refine ⟨s.freezeArbs reg.val value.toNat, ?_, ?_⟩
    · show execArbFreeze reg value s = _
      unfold execArbFreeze
      rw [if_neg (by simp [on])]
    · unfold State.freezeArbs
      dsimp only
      rw [if_pos fetch, if_pos fetch, ev]
      exact onlyFields_raiseIf 3 (onlyFields_refl _ [])

theorem execArbFreeze_off {reg : Fin 3} (value : Word) (off : s.responds pgARB = false) : exec (.arbFreeze reg value) s = .next s :=
  if_pos (by simp [off])

/-! ## STARVE (R254) -/

/-- The threshold of a placement's waits. -/
def State.starveLimit (s : State) (p : Placement) : Nat :=
  match p with
  | .fetch _ => s.get R.ARB_STARVE_FETCH
  | _ => s.get R.ARB_STARVE_LOW

/-- The arbiter with a requester's wait marked as starved. -/
def Arbiter.starve (a : Arbiter) (r wait : Nat) : Arbiter :=
  { a with waiting := a.waiting.map fun v => if v.req = r then { v with starved := true } else v,
           waitMax := Sparse.upd 0 a.waitMax r fun m => min (max m wait) 0xFFFFFFFF }

/-- A starvation told: the placement's interrupt bit and the count. -/
def State.tellStarve (s : State) (p : Placement) : State := ((s.raise pgARB (p.code.1 - 1)).countSat R.ARB_STARVE_CNT).severity 1

/-- A starvation captured, unless one stands. -/
def State.captureStarve (s : State) (p : Placement) (r : Nat) : State :=
  if s.get R.ARB_CAPT_PLACE = 0 then ((s.set R.ARB_CAPT_PLACE p.code.1).set R.ARB_CAPT_UNIT p.code.2).set R.ARB_CAPT_REQ r else s

theorem execStarve_within {w : Waiting} (at_ : placement u = some p) (place : p ≠ .dispatch) (found : ((s.noteWaits u p []).arb u).waiting.find? (·.req == r) = some w)
    (h : w.starved = true ∨ s.arbFrozen p = true ∨ s.waited p w.since ≤ s.starveLimit p) : exec (.starve u r) s = .next (s.noteWaits u p []) := by
  have only : arbsOnly s (s.noteWaits u p []) := (arbsOnly.refl s).noteWaits
  rw [← only.arbFrozen, ← only.waited] at h
  show execStarve u r s = _
  unfold execStarve
  rw [at_]
  cases p with
  | dispatch => exact absurd rfl place
  | fetch port =>
    dsimp only
    rw [found]
    exact if_pos (or_left_comm.mp h)
  | crossbar n m =>
    dsimp only
    rw [found]
    exact if_pos (or_left_comm.mp h)
  | hbm c =>
    dsimp only
    rw [found]
    exact if_pos (or_left_comm.mp h)

theorem execStarve_past {w : Waiting} (at_ : placement u = some p) (place : p ≠ .dispatch) (found : ((s.noteWaits u p []).arb u).waiting.find? (·.req == r) = some w)
    (fresh : w.starved = false) (free : s.arbFrozen p = false) (past : s.starveLimit p < s.waited p w.since) :
    exec (.starve u r) s = .next (((((s.noteWaits u p []).updArb u fun a => a.starve r (s.waited p w.since)).tellStarve p)).captureStarve p r) := by
  have only : arbsOnly s (s.noteWaits u p []) := (arbsOnly.refl s).noteWaits
  have on : ¬(s.arbFrozen p = true ∨ w.starved = true ∨ s.waited p w.since ≤ s.starveLimit p) := by
    simp [fresh, free, past]
  rw [← only.arbFrozen, ← only.waited] at on
  rw [← only.waited]
  have kept : ∀ t : State, (if t.get R.ARB_CAPT_PLACE = 0 then
      Host.Outcome.next (((t.set R.ARB_CAPT_PLACE p.code.1).set R.ARB_CAPT_UNIT p.code.2).set R.ARB_CAPT_REQ r) else .next t : Result) =
      .next (t.captureStarve p r) := fun t => by
    unfold State.captureStarve
    split <;> rfl
  rw [← kept]
  show execStarve u r s = _
  unfold execStarve
  rw [at_]
  cases p with
  | dispatch => exact absurd rfl place
  | fetch port =>
    dsimp only
    rw [found]
    exact if_neg on
  | crossbar n m =>
    dsimp only
    rw [found]
    exact if_neg on
  | hbm c =>
    dsimp only
    rw [found]
    exact if_neg on

/-- The code of a placement other than dispatch fits its capture fields. -/
theorem placement_code (at_ : placement u = some p) (place : p ≠ .dispatch) : 0 < p.code.1 ∧ p.code.1 < 4 ∧ p.code.2 < 64 := by
  unfold placement at at_
  split at at_
  · next h =>
    cases at_
    simp only [Placement.code]
    omega
  · split at at_
    · cases at_
      exact absurd rfl place
    · split at at_
      · next h =>
        cases at_
        simp only [Placement.code]
        omega
      · split at at_
        · next h =>
          cases at_
          simp only [Placement.code]
          omega
        · cases at_

theorem State.tellStarve_spec (s : State) (p : Placement) : (s.tellStarve p).arbs = s.arbs ∧
    (∀ {f : Field}, (R.BLK_INT_RAW pgARB).key ≠ f.key → R.ARB_STARVE_CNT.key ≠ f.key → R.AGT_OPEN_SEV.key ≠ f.key → (s.tellStarve p).get f = s.get f) ∧
    (p.code.1 - 1 < 32 → (s.tellStarve p).bit (R.BLK_INT_RAW pgARB) (p.code.1 - 1) = true) := by
  have kept := fun t : State => (t.severity_spec 1).1
  refine ⟨?_, fun raw cnt sev => ?_, fun small => ?_⟩
  · unfold State.tellStarve
    rw [(State.severity_spec _ 1).2]
    exact s.raise_arbs pgARB (p.code.1 - 1)
  · exact ((kept _ _ (by simpa using sev)).trans (State.get_countSat_ne _ _ _ _ cnt)).trans (s.raise_get_ne _ _ _ raw)
  · refine (congrArg (bitOf · (p.code.1 - 1)) ((kept _ _ (by decide)).trans (State.get_countSat_ne _ _ _ _ (by decide)))).trans ?_
    exact s.raise_bit pgARB small

theorem State.captureStarve_arbs (s : State) (p : Placement) (r : Nat) : (s.captureStarve p r).arbs = s.arbs := by
  unfold State.captureStarve
  split <;> rfl

theorem State.captureStarve_raw (s : State) (p : Placement) (r i : Nat) : (s.captureStarve p r).bit (R.BLK_INT_RAW pgARB) i = s.bit (R.BLK_INT_RAW pgARB) i := by
  unfold State.captureStarve
  split
  · refine congrArg (bitOf · i) ?_
    rw [State.get_set_ne _ _ _ _ (by decide), State.get_set_ne _ _ _ _ (by decide), State.get_set_ne _ _ _ _ (by decide)]
  · rfl

theorem State.captureStarve_first (s : State) (r : Nat) (none : s.get R.ARB_CAPT_PLACE = 0) (at_ : placement u = some p) (place : p ≠ .dispatch) :
    (s.captureStarve p r).get R.ARB_CAPT_PLACE = p.code.1 ∧ (s.captureStarve p r).get R.ARB_CAPT_UNIT = p.code.2 ∧
    (s.captureStarve p r).get R.ARB_CAPT_REQ = r % 2 ^ R.ARB_CAPT_REQ.width := by
  obtain ⟨-, code, unit⟩ := placement_code at_ place
  unfold State.captureStarve
  rw [if_pos none]
  refine ⟨?_, ?_, State.get_set_same _ _ _⟩
  · rw [State.get_set_ne _ _ _ _ (by decide), State.get_set_ne _ _ _ _ (by decide), State.get_set_same]
    exact Nat.mod_eq_of_lt code
  · rw [State.get_set_ne _ _ _ _ (by decide), State.get_set_same]
    exact Nat.mod_eq_of_lt unit

theorem execStarve_tells {w : Waiting} (at_ : placement u = some p) (place : p ≠ .dispatch) (found : ((s.noteWaits u p []).arb u).waiting.find? (·.req == r) = some w)
    (fresh : w.starved = false) (free : s.arbFrozen p = false) (past : s.starveLimit p < s.waited p w.since) :
    ∃ t, exec (.starve u r) s = .next t ∧ t.bit (R.BLK_INT_RAW pgARB) (p.code.1 - 1) = true ∧ (t.arb u).credits = (s.arb u).credits ∧
      (∀ v ∈ (t.arb u).waiting, v.req = r → v.starved = true) ∧
      (s.get R.ARB_CAPT_PLACE = 0 → t.get R.ARB_CAPT_PLACE = p.code.1 ∧ t.get R.ARB_CAPT_UNIT = p.code.2 ∧
        t.get R.ARB_CAPT_REQ = r % 2 ^ R.ARB_CAPT_REQ.width) ∧
      (s.get R.ARB_CAPT_PLACE ≠ 0 → t.get R.ARB_CAPT_REQ = s.get R.ARB_CAPT_REQ) := by
  obtain ⟨-, code, -⟩ := placement_code at_ place
  have run := execStarve_past at_ place found fresh free past
  obtain ⟨ws, noted, -⟩ := s.noteWaits_arb u p []
  obtain ⟨m, em⟩ : ∃ m, m = (s.noteWaits u p []).updArb u fun a => a.starve r (s.waited p w.since) := ⟨_, rfl⟩
  have only : arbsOnly s m := em ▸ (arbsOnly.refl s).noteWaits.updArb
  have marked : m.arb u = Arbiter.starve { s.arb u with waiting := ws } r (s.waited p w.since) := by
    rw [em, State.arb_updArb, noted]
  rw [← em] at run
  obtain ⟨arbs, fields, raised⟩ := m.tellStarve_spec p
  have place_ : (m.tellStarve p).get R.ARB_CAPT_PLACE = s.get R.ARB_CAPT_PLACE :=
    (fields (f := R.ARB_CAPT_PLACE) (by decide) (by decide) (by decide)).trans (only.get _)
  have arb : ((m.tellStarve p).captureStarve p r).arb u = Arbiter.starve { s.arb u with waiting := ws } r (s.waited p w.since) := by
    rw [← marked, State.arb, State.captureStarve_arbs, arbs]; rfl
  refine ⟨_, run, (State.captureStarve_raw ..).trans (raised (by omega)), by rw [arb]; rfl, fun v hv req => ?_, fun none => ?_, fun stands => ?_⟩
  · rw [arb] at hv
    obtain ⟨x, -, rfl⟩ := List.mem_map.mp hv
    split
    · rfl
    · next ne => simp only [ne, if_false] at req
  · exact State.captureStarve_first _ r (place_.trans none) at_ place
  · rw [State.captureStarve, if_neg (by rw [place_]; exact stands), fields (by decide) (by decide) (by decide)]
    exact only.get _

/-- The cost of a grant as the credits count it. -/
theorem State.grantCost_int (s : State) (p : Placement) (r beats : Nat) : (s.grantCost p r beats : Int) =
    match p with
    | .fetch port => (((s.nextQp port r).map (s.burst r)).getD 1 : Int)
    | .dispatch => 1
    | _ => max 1 (min beats 4) := by
  cases p <;> simp [State.grantCost]

/-- Settles O38: each command of the arbiters is its equation, with the lemmas of what noting, replenishing and the capture keep. -/
theorem arbitersGrantByCredit : Obligations.ArbitersGrantByCredit := by
  unfold Obligations.ArbitersGrantByCredit
  refine ⟨fun u p requests beats s at_ => ⟨execArbGrant_waits at_, fun free idle some_ known => ?_⟩,
    fun u p s at_ => ⟨execArbWindowBoundary_early at_, fun due => ?_⟩, fun u p s at_ => ⟨execArbTransferEnd_stands at_, execArbTransferEnd_frees at_⟩,
    fun reg value s => ⟨execArbFreeze_channels value, execArbFreeze_fetch value, execArbFreeze_off value⟩,
    fun u r p w s at_ place found => ⟨fun h => execStarve_within at_ place found ?_, fun fresh free past => execStarve_tells at_ place found fresh free ?_⟩,
    fun r s => rfl⟩
  · obtain ⟨n, t, r, run, owner, last, waits, pos, best, credits, burst, rest⟩ := execArbGrant_serves beats at_ free idle some_ known
    have cost := s.grantCost_int p r beats
    exact ⟨n, t, r, run, owner, last, waits, pos, best, credits.trans (congrArg _ cost), (congrArg _ burst).trans cost, rest⟩
  · obtain ⟨next, owner, credits⟩ := s.boundary_arb u p due
    refine ⟨_, execArbWindowBoundary_due at_ due, ?_⟩
    have only := s.boundary_arbsOnly u p
    by_cases first : u = 0
    · rw [if_pos first]
      obtain ⟨arbs, parts⟩ := (s.boundary u p).closeWindows_spec
      have arb : (s.boundary u p).closeWindows.arb u = (s.boundary u p).arb u := by rw [State.arb, arbs]; rfl
      have same : ∀ q, (s.boundary u p).part q = s.part q := fun q => rfl
      rw [arb]
      exact ⟨next, owner, credits, fun later => absurd first later, fun _ q => by rw [← same]; exact parts q⟩
    · rw [if_neg first]
      exact ⟨next, owner, credits, fun _ => only, fun zero => absurd zero first⟩
  · exact h
  · exact past

end Sys2Proof.Machine
end

section
/-! SUPPORT. The power controller: level changes, the thermal cap, clock gating and cluster power (R19, R321-R328, R333). -/
namespace Sys2Proof.Machine

variable {s t u : State}

/-! ## The effective level -/

theorem State.settleLevel_same (h : s.get R.PWR_EFF_PL = s.levelInForce) : s.settleLevel = s := if_pos h

theorem State.levelInForce_lt (s : State) : s.levelInForce < 4 := by
  unfold State.levelInForce
  split
  · decide
  · exact Nat.lt_of_le_of_lt (Nat.min_le_left _ _) (Nat.mod_lt _ (by decide))

theorem State.settleLevel_in_force (s : State) : s.settleLevel.get R.PWR_EFF_PL = s.settleLevel.levelInForce := by
  have fits : s.settleLevel.get R.PWR_EFF_PL < 4 := Nat.mod_lt _ (by decide)
  have := s.settleLevel_eff
  rwa [show 2 ^ R.PWR_EFF_PL.width = 4 from rfl, Nat.mod_eq_of_lt fits, Nat.mod_eq_of_lt s.settleLevel.levelInForce_lt] at this

/-- What settling the level leaves of the power controller: all but the failed target. -/
theorem State.settleLevel_pw (s : State) : ∃ failed, s.settleLevel.pw = { s.pw with failed := failed } := by
  unfold State.settleLevel
  dsimp only
  split
  · exact ⟨_, rfl⟩
  · exact ⟨_, rfl⟩

/-! ## A relock -/

/-- The locks of the islands 0 to 23 are written, and no other field. -/
theorem State.lockIslands_keeps (s : State) (b : Bool) : keeps [R.GBL_ISLAND_LOCK] s (s.lockIslands b) :=
  keeps_foldl s (fun u _ => keeps_set u R.GBL_ISLAND_LOCK _) _

theorem State.lockIslands_regs (s : State) (b : Bool) : s.lockIslands b = { s with regs := (s.lockIslands b).regs } :=
  foldl_keeps (fun t : State => t = { s with regs := t.regs }) _ (fun t i h => by rw [h]; rfl) _ s rfl

theorem State.lockIslands_lost (s : State) {i : Nat} (hi : i < 24) : (s.lockIslands false).bit R.GBL_ISLAND_LOCK i = false := by
  refine foldl_makes (fun t : State => t.bit R.GBL_ISLAND_LOCK i = false) _ (fun t j h => ?_) (List.mem_range.mpr hi) (fun t => ?_) s
  all_goals
    dsimp only
    rw [Bool.false_and, State.bit_setBit _ _ _ _ _ (show i < 31 by omega)]
  · split
    · rfl
    · exact h
  · rw [if_pos rfl]

/-- A number whose low bits are clear is 0 below them. -/
theorem mod_two_pow_of_clear {x n : Nat} (h : ∀ i < n, x.testBit i = false) : x % 2 ^ n = 0 := by
  refine Nat.eq_of_testBit_eq fun i => ?_
  rw [Nat.testBit_mod_two_pow, Nat.zero_testBit]
  by_cases hi : i < n
  · rw [h i hi, Bool.and_false]
  · simp [hi]

theorem State.beginRelock_spec (s : State) (step : Nat) (fits : step < 8) : (s.beginRelock step).get R.PWR_STEP = step ∧
    (s.beginRelock step).get R.GBL_ISLAND_LOCK % 2 ^ 24 = 0 ∧ (s.beginRelock step).pw = { s.pw with relocking := true } ∧
    (s.beginRelock step).out = s.out := by
  unfold State.beginRelock
  refine ⟨?_, ?_, ?_, ?_⟩
  · refine ((s.set R.PWR_STEP step).lockIslands_keeps false _ (by simp; decide)).trans ?_
    exact (s.get_set_same R.PWR_STEP step).trans (Nat.mod_eq_of_lt fits)
  · refine mod_two_pow_of_clear fun i hi => ?_
    rw [← bitOf_testBit]
    exact (s.set R.PWR_STEP step).lockIslands_lost hi
  · rw [State.lockIslands_regs]; rfl
  · rw [State.lockIslands_regs]; rfl

theorem State.sample_pw (s : State) (kind index bin : Nat) (v : Int) (n : Nat) : (s.sample kind index bin v n).pw = s.pw := by
  unfold State.sample
  split
  · rfl
  · dsimp only
    split
    · exact State.raise_pw _ _ _
    · rfl

theorem State.accrueLevel_pw (s : State) : s.accrueLevel.pw = s.pw := by
  unfold State.accrueLevel
  dsimp only
  split
  · rfl
  · exact State.sample_pw ..

theorem State.runLevel_spec (s : State) (level : Nat) : (s.runLevel level).get R.PWR_CUR_PL = level % 4 ∧
    (s.runLevel level).pw = { s.pw with relocking := false } := by
  unfold State.runLevel
  refine ⟨?_, ?_⟩
  · refine ((s.accrueLevel.set R.PWR_CUR_PL level).lockIslands_keeps true _ (by simp; decide)).trans ?_
    exact s.accrueLevel.get_set_same R.PWR_CUR_PL level
  · rw [State.lockIslands_regs]
    exact congrArg (fun p : Power => { p with relocking := false }) s.accrueLevel_pw

/-! ## The end of a change and of a wake -/

theorem State.settleWake_cases (s : State) : s.settleWake = s ∨
    s.settleWake = (({ (((s.set R.PWR_SLEEP 0).set R.PWR_WAKE_LAST_US (min 65535 ((s.quartz - s.pw.wokeAt) / 1000))).raise pgPWR 3) with
      pw := { s.pw with phase := .awake, s3 := false }, pr.kept := none } : State).startWatchdog).settleTake := by
  unfold State.settleWake
  split
  · refine .inr ?_
    have pw := ((s.set R.PWR_SLEEP 0).set R.PWR_WAKE_LAST_US (min 65535 ((s.quartz - s.pw.wokeAt) / 1000))).raise_pw pgPWR 3
    dsimp only
    rw [pw]; rfl
  · exact .inl rfl

/-- The end of a wake writes the wake's fields and a page's interrupt, and the phase. -/
theorem State.settleWake_get (s : State) {f : Field} (sleep : R.PWR_SLEEP.key ≠ f.key) (us : R.PWR_WAKE_LAST_US.key ≠ f.key)
    (raw : (R.BLK_INT_RAW pgPWR).key ≠ f.key) : s.settleWake.get f = s.get f := by
  rcases s.settleWake_cases with same | woken
  · rw [same]
  · rw [woken, State.settleTake_get]
    refine (State.raise_get_ne _ _ _ _ raw).trans ?_
    rw [State.get_set_ne _ _ _ _ us, State.get_set_ne _ _ _ _ sleep]

theorem State.settleWake_raw (s : State) {i : Nat} (hi : i < 32) (h : s.bit (R.BLK_INT_RAW pgPWR) i = true) :
    s.settleWake.bit (R.BLK_INT_RAW pgPWR) i = true := by
  rcases s.settleWake_cases with same | woken
  · rw [same, h]
  · rw [woken, State.bit, State.settleTake_get]
    refine (State.raise_raised _ pgPWR 3 i hi).trans ?_
    rw [State.bit, State.get_set_ne _ _ _ _ (by decide), State.get_set_ne _ _ _ _ (by decide), ← State.bit, h, Bool.true_or]

theorem State.settleWake_pw (s : State) : ∃ phase s3, s.settleWake.pw = { s.pw with phase := phase, s3 := s3 } := by
  rcases s.settleWake_cases with same | woken
  · exact ⟨_, _, by rw [same]⟩
  · exact ⟨_, _, by rw [woken, State.settleTake_pw]; rfl⟩

/-- A change that ends: counted and told, and no change runs. -/
theorem State.endChange_spec (s : State) : s.endChange.get R.PWR_STEP = 0 ∧ s.endChange.bit (R.BLK_INT_RAW pgPWR) 0 = true ∧
    s.endChange.get R.PWR_CHANGES = (s.get R.PWR_CHANGES + 1) % 2 ^ R.PWR_CHANGES.width ∧ s.endChange.get R.PWR_CUR_PL = s.get R.PWR_CUR_PL ∧
    s.endChange.pw.relocking = s.pw.relocking := by
  unfold State.endChange
  dsimp only
  generalize ((s.quartz - s.pw.began) / 1000) = us
  have told : ((s.set R.PWR_STEP 0).count R.PWR_CHANGES).get R.PWR_CHANGES = (s.get R.PWR_CHANGES + 1) % 2 ^ R.PWR_CHANGES.width := by
    rw [State.count, State.get_set_same, State.get_set_ne _ _ _ _ (by decide)]
  have step : ((s.set R.PWR_STEP 0).count R.PWR_CHANGES).get R.PWR_STEP = 0 := by
    rw [State.get_count_ne _ _ _ _ (by decide)]
    exact s.get_set_same R.PWR_STEP 0
  have level : ((s.set R.PWR_STEP 0).count R.PWR_CHANGES).get R.PWR_CUR_PL = s.get R.PWR_CUR_PL := by
    rw [State.get_count_ne _ _ _ _ (by decide), State.get_set_ne _ _ _ _ (by decide)]
  have pw : ((s.set R.PWR_STEP 0).count R.PWR_CHANGES).pw = s.pw := rfl
  generalize (s.set R.PWR_STEP 0).count R.PWR_CHANGES = v at *
  have raised := v.raise_bit pgPWR (i := 0) (by decide)
  have off : ∀ {f : Field}, (R.BLK_INT_RAW pgPWR).key ≠ f.key → (v.raise pgPWR 0).get f = v.get f := v.raise_get_ne _ _ _
  have pw' := v.raise_pw pgPWR 0
  generalize v.raise pgPWR 0 = w at *
  have timed : ∀ {f : Field}, R.PWR_CHG_LAST_US.key ≠ f.key → R.PWR_CHG_MAX_US.key ≠ f.key →
      ({ (w.set R.PWR_CHG_LAST_US (min us 65535)).keepMax R.PWR_CHG_MAX_US us with pw := { w.pw with undoRelock := false } } : State).get f = w.get f :=
    fun a b => (State.get_keepMax_ne _ _ _ _ b).trans (w.get_set_ne _ _ _ a)
  refine ⟨?_, ?_, ?_, ?_, ?_⟩
  · rw [State.settleWake_get _ (by decide) (by decide) (by decide)]
    exact (timed (by decide) (by decide)).trans ((off (by decide)).trans step)
  · refine State.settleWake_raw _ (by decide) ?_
    exact (congrArg (bitOf · 0) (timed (by decide) (by decide))).trans raised
  · rw [State.settleWake_get _ (by decide) (by decide) (by decide)]
    exact (timed (by decide) (by decide)).trans ((off (by decide)).trans told)
  · rw [State.settleWake_get _ (by decide) (by decide) (by decide)]
    exact (timed (by decide) (by decide)).trans ((off (by decide)).trans level)
  · obtain ⟨ph, s3, woken⟩ := State.settleWake_pw ({ (w.set R.PWR_CHG_LAST_US (min us 65535)).keepMax R.PWR_CHG_MAX_US us with
      pw := { w.pw with undoRelock := false } } : State)
    refine (congrArg Power.relocking woken).trans ?_
    show w.pw.relocking = s.pw.relocking
    rw [pw', pw]

/-! ## Level changes (R321-R323) -/

theorem execPlCapWrite_spec (cap : Fin 4) (on : s.responds pgPWR = true) :
    ∃ t, exec (.plCapWrite cap) s = .next t ∧ t.get R.PWR_PL_CAP = cap.val ∧ t.get R.PWR_EFF_PL = t.levelInForce ∧
      keeps [R.PWR_PL_CAP, R.PWR_EFF_PL] s t := by
  have level := (s.set R.PWR_PL_CAP cap).settleLevel_keeps
  refine ⟨_, if_neg (by simp [on]), ?_, State.settleLevel_in_force _, keeps_trans (keeps_set s R.PWR_PL_CAP cap) level⟩
  refine (level R.PWR_PL_CAP (by decide)).trans ?_
  exact (s.get_set_same R.PWR_PL_CAP cap).trans (Nat.mod_eq_of_lt cap.isLt)

/-- The state as a change to the level in force begins. -/
def State.changeBegun (s : State) : State :=
  { s with pw := { s.pw with target := s.levelInForce, old := s.get R.PWR_CUR_PL, began := s.quartz, undoRelock := false } }

theorem execLevelChangeStart_begins (idle : s.get R.PWR_STEP = 0) (settled : s.get R.PWR_EFF_PL = s.levelInForce)
    (ne : s.levelInForce ≠ s.get R.PWR_CUR_PL) (sound : s.get R.PWR_PL_FAIL = 0) :
    exec .levelChangeStart s = if s.get R.PWR_CUR_PL < s.levelInForce then .next ((s.changeBegun.set R.PWR_STEP 1).requestLevel s.levelInForce)
      else .next (s.changeBegun.beginRelock 3) := by
  show execLevelChangeStart s = _
  unfold execLevelChangeStart
  dsimp only
  rw [State.settleLevel_same settled, settled, if_neg (by simp [idle, ne, State.levelFailed, sound])]
  rfl

theorem execLevelChangeStart_raises (idle : s.get R.PWR_STEP = 0) (settled : s.get R.PWR_EFF_PL = s.levelInForce)
    (lower : s.get R.PWR_CUR_PL < s.levelInForce) (sound : s.get R.PWR_PL_FAIL = 0) :
    ∃ t, exec .levelChangeStart s = .next t ∧ t.get R.PWR_STEP = 1 ∧ t.get R.PWR_VREQ_PL = s.levelInForce ∧ t.get R.PWR_CUR_PL = s.get R.PWR_CUR_PL ∧
      t.pw.target = s.levelInForce ∧ t.out = s.out ++ [.avsRequest (s.get R.PWR_AVS_RAIL) s.levelInForce] := by
  have rail : (s.changeBegun.set R.PWR_STEP 1).get R.PWR_AVS_RAIL = s.get R.PWR_AVS_RAIL := State.get_set_ne _ _ _ _ (by decide)
  refine ⟨_, (execLevelChangeStart_begins idle settled (ne_of_gt lower) sound).trans (if_pos lower), ?_, ?_, ?_, rfl, ?_⟩
  · exact (State.get_set_ne _ _ _ _ (by decide)).trans (State.get_set_same _ _ _)
  · exact (State.get_set_same _ _ _).trans (Nat.mod_eq_of_lt s.levelInForce_lt)
  · exact (State.get_set_ne _ _ _ _ (by decide)).trans (State.get_set_ne _ _ _ _ (by decide))
  · exact congrArg (fun r => s.out ++ [Output.avsRequest r s.levelInForce]) rail

theorem execLevelChangeStart_lowers (idle : s.get R.PWR_STEP = 0) (settled : s.get R.PWR_EFF_PL = s.levelInForce)
    (higher : s.levelInForce < s.get R.PWR_CUR_PL) (sound : s.get R.PWR_PL_FAIL = 0) :
    ∃ t, exec .levelChangeStart s = .next t ∧ t.get R.PWR_STEP = 3 ∧ t.pw.relocking = true ∧ t.get R.GBL_ISLAND_LOCK % 2 ^ 24 = 0 ∧ t.out = s.out := by
  obtain ⟨step, lock, pw, out⟩ := s.changeBegun.beginRelock_spec 3 (by decide)
  exact ⟨_, (execLevelChangeStart_begins idle settled (ne_of_lt higher) sound).trans (if_neg (not_lt.mpr (le_of_lt higher))), step, by rw [pw], lock, out⟩

theorem execLevelChangeStart_stays (settled : s.get R.PWR_EFF_PL = s.levelInForce) (same : s.get R.PWR_CUR_PL = s.levelInForce) :
    exec .levelChangeStart s = .next s := by
  show execLevelChangeStart s = _
  unfold execLevelChangeStart
  dsimp only
  rw [State.settleLevel_same settled]
  exact if_pos (.inr (.inl (settled.trans same.symm)))

/-- The regulator's report taken while no island relocks. -/
theorem execAvsAck_runs (status : BitVec 16) (locked : s.pw.relocking = false) : exec (.avsAck status true) s =
    match s.get R.PWR_STEP with
    | 1 => .next ((s.set R.PWR_AVS_LAST status.toNat).beginRelock 2)
    | 4 => .next (s.set R.PWR_AVS_LAST status.toNat).endChange
    | 5 => if s.pw.undoRelock then .next ((s.set R.PWR_AVS_LAST status.toNat).beginRelock 5) else .next (s.set R.PWR_AVS_LAST status.toNat).endChange
    | _ => .next (s.set R.PWR_AVS_LAST status.toNat) := by
  have step : (s.set R.PWR_AVS_LAST status.toNat).get R.PWR_STEP = s.get R.PWR_STEP := State.get_set_ne _ _ _ _ (by decide)
  rw [← step]
  refine (if_neg ?_).trans rfl
  simp [State.set, locked]

theorem execAvsAck_relocks (status : BitVec 16) (step : s.get R.PWR_STEP = 1) (locked : s.pw.relocking = false) :
    ∃ t, exec (.avsAck status true) s = .next t ∧ t.get R.PWR_STEP = 2 ∧ t.pw.relocking = true ∧ t.get R.PWR_AVS_LAST = status.toNat := by
  obtain ⟨relock, -, pw, -⟩ := (s.set R.PWR_AVS_LAST status.toNat).beginRelock_spec 2 (by decide)
  refine ⟨(s.set R.PWR_AVS_LAST status.toNat).beginRelock 2, by simp only [execAvsAck_runs status locked, step], relock, by rw [pw], ?_⟩
  refine ((s.set R.PWR_AVS_LAST status.toNat).beginRelock_keeps 2 _ (by decide)).trans ?_
  exact (State.get_set_same _ _ _).trans (Nat.mod_eq_of_lt status.isLt)

theorem execAvsAck_ends (status : BitVec 16) (step : s.get R.PWR_STEP = 4) (locked : s.pw.relocking = false) :
    ∃ t, exec (.avsAck status true) s = .next t ∧ t.get R.PWR_STEP = 0 ∧ t.bit (R.BLK_INT_RAW pgPWR) 0 = true ∧
      t.get R.PWR_CHANGES = (s.get R.PWR_CHANGES + 1) % 2 ^ R.PWR_CHANGES.width := by
  obtain ⟨idle, raised, changes, -, -⟩ := (s.set R.PWR_AVS_LAST status.toNat).endChange_spec
  rw [State.get_set_ne _ _ _ _ (by decide)] at changes
  exact ⟨_, by simp only [execAvsAck_runs status locked, step], idle, raised, changes⟩

/-- What waited for the relock is nothing: the islands only run. -/
theorem State.arrivals_none (h : s.pw.crossings = []) : s.arrivals = s := by
  unfold State.arrivals
  rw [h]
  show ({ s with pw := { s.pw with crossings := [] } } : State) = s
  rw [← h]

theorem State.runLevel_arrivals (level : Nat) (h : s.pw.crossings = []) : (s.runLevel level).arrivals = s.runLevel level :=
  State.arrivals_none (by rw [(s.runLevel_spec level).2]; exact h)

/-- The end of a relock by the step of the change. -/
theorem execRelockDone_runs (relocks : s.pw.relocking = true) : exec .relockDone s =
    match s.get R.PWR_STEP with
    | 2 => .next (s.runLevel s.pw.target).arrivals.endChange
    | 3 => .next (((s.runLevel s.pw.target).arrivals.set R.PWR_STEP 4).requestLevel s.pw.target)
    | 5 => .next (s.runLevel s.pw.old).arrivals.endChange
    | _ => .next s := (if_neg (by simp [relocks])).trans rfl

theorem State.runLevel_endChange (s : State) (level : Nat) : (s.runLevel level).endChange.get R.PWR_STEP = 0 ∧
    (s.runLevel level).endChange.get R.PWR_CUR_PL = level % 4 ∧ (s.runLevel level).endChange.pw.relocking = false := by
  obtain ⟨run, pw⟩ := s.runLevel_spec level
  obtain ⟨step, -, -, level', relocking⟩ := (s.runLevel level).endChange_spec
  exact ⟨step, level'.trans run, relocking.trans (by rw [pw])⟩

theorem execRelockDone_raised (relocks : s.pw.relocking = true) (step : s.get R.PWR_STEP = 2) (none : s.pw.crossings = []) :
    ∃ t, exec .relockDone s = .next t ∧ t.get R.PWR_STEP = 0 ∧ t.get R.PWR_CUR_PL = s.pw.target % 4 ∧ t.pw.relocking = false :=
  ⟨_, by simp only [execRelockDone_runs relocks, step, State.runLevel_arrivals _ none], s.runLevel_endChange s.pw.target⟩

theorem execRelockDone_restored (relocks : s.pw.relocking = true) (step : s.get R.PWR_STEP = 5) (none : s.pw.crossings = []) :
    ∃ t, exec .relockDone s = .next t ∧ t.get R.PWR_STEP = 0 ∧ t.get R.PWR_CUR_PL = s.pw.old % 4 ∧ t.pw.relocking = false :=
  ⟨_, by simp only [execRelockDone_runs relocks, step, State.runLevel_arrivals _ none], s.runLevel_endChange s.pw.old⟩

theorem execRelockDone_lowered (relocks : s.pw.relocking = true) (step : s.get R.PWR_STEP = 3) (none : s.pw.crossings = []) :
    ∃ t, exec .relockDone s = .next t ∧ t.get R.PWR_STEP = 4 ∧ t.get R.PWR_CUR_PL = s.pw.target % 4 ∧ t.get R.PWR_VREQ_PL = s.pw.target % 4 ∧
      t.pw.relocking = false := by
  obtain ⟨run, pw⟩ := s.runLevel_spec s.pw.target
  have done : exec .relockDone s = .next (((s.runLevel s.pw.target).set R.PWR_STEP 4).requestLevel s.pw.target) := by
    simp only [execRelockDone_runs relocks, step, State.runLevel_arrivals _ none]
  refine ⟨_, done, ?_⟩
  clear done
  generalize s.runLevel s.pw.target = v at *
  refine ⟨?_, ?_, State.get_set_same _ _ _, ?_⟩
  · exact (State.get_set_ne _ _ _ _ (by decide)).trans (State.get_set_same _ _ _)
  · exact (State.get_set_ne _ _ _ _ (by decide)).trans ((State.get_set_ne _ _ _ _ (by decide)).trans run)
  · exact congrArg Power.relocking pw

/-- A change that the regulator does not acknowledge told, with the failed target. -/
def State.failChange (s : State) (undo : Bool) : State := { s with pw := { s.pw with failed := some s.pw.target, undoRelock := undo } }

/-- The interrupt, the count and the severity of a change that failed. -/
def State.tellFail (s : State) : State := (((s.set R.PWR_PL_FAIL 1).raise pgPWR 1).countSat R.PWR_FAILS).severity 2

theorem State.tellFail_spec (s : State) : s.tellFail.get R.PWR_PL_FAIL = 1 ∧ s.tellFail.bit (R.BLK_INT_RAW pgPWR) 1 = true ∧ s.tellFail.pw = s.pw := by
  have told : ∀ {f : Field}, R.AGT_OPEN_SEV.key ≠ f.key → R.PWR_FAILS.key ≠ f.key →
      s.tellFail.get f = ((s.set R.PWR_PL_FAIL 1).raise pgPWR 1).get f := fun sev fails =>
    ((State.severity_spec _ 2).1 _ (by simpa using sev)).trans (State.get_countSat_ne _ _ _ _ fails)
  refine ⟨?_, ?_, ?_⟩
  · rw [told (by decide) (by decide), State.raise_get_ne _ _ _ _ (by decide)]
    exact s.get_set_same R.PWR_PL_FAIL 1
  · exact (congrArg (bitOf · 1) (told (by decide) (by decide))).trans (State.raise_bit _ pgPWR (by decide))
  · unfold State.tellFail
    rw [(State.severity_spec _ 2).2]
    exact State.raise_pw _ _ _

theorem execAvsTimeout_late (waits : s.get R.PWR_STEP = 1 ∨ s.get R.PWR_STEP = 4) (late : s.pw.sent + 500000 ≤ s.quartz) :
    exec .avsTimeout s = .next (((s.tellFail.failChange (s.get R.PWR_STEP == 4)).set R.PWR_STEP 5).requestLevel s.tellFail.pw.old).settleWake := by
  refine if_neg ?_
  rintro (⟨ne1, ne4⟩ | early)
  · exact waits.elim ne1 ne4
  · exact absurd late (not_le.mpr early)

theorem execAvsTimeout_abandons (waits : s.get R.PWR_STEP = 1 ∨ s.get R.PWR_STEP = 4) (late : s.pw.sent + 500000 ≤ s.quartz) :
    ∃ t, exec .avsTimeout s = .next t ∧ t.get R.PWR_STEP = 5 ∧ t.get R.PWR_PL_FAIL = 1 ∧ t.get R.PWR_VREQ_PL = s.pw.old % 4 ∧
      t.pw.failed = some s.pw.target ∧ t.bit (R.BLK_INT_RAW pgPWR) 1 = true := by
  have run := execAvsTimeout_late waits late
  obtain ⟨fail, raised, pw⟩ := s.tellFail_spec
  rw [pw] at run
  refine ⟨_, run, ?_⟩
  clear run
  generalize s.tellFail = v at *
  generalize (s.get R.PWR_STEP == 4) = undo
  refine ⟨?_, ?_, ?_, ?_, State.settleWake_raw _ (by decide) ?_⟩
  · rw [State.settleWake_get _ (by decide) (by decide) (by decide)]
    exact (State.get_set_ne _ _ _ _ (by decide)).trans (State.get_set_same _ _ _)
  · rw [State.settleWake_get _ (by decide) (by decide) (by decide)]
    exact (State.get_set_ne _ _ _ _ (by decide)).trans ((State.get_set_ne _ _ _ _ (by decide)).trans fail)
  · rw [State.settleWake_get _ (by decide) (by decide) (by decide)]
    exact State.get_set_same _ _ _
  · obtain ⟨ph, s3, woken⟩ := State.settleWake_pw (((v.failChange undo).set R.PWR_STEP 5).requestLevel s.pw.old)
    refine (congrArg Power.failed woken).trans ?_
    exact congrArg (fun p : Power => some p.target) pw
  · refine (congrArg (bitOf · 1) ?_).trans raised
    exact (State.get_set_ne _ _ _ _ (by decide)).trans (State.get_set_ne _ _ _ _ (by decide))

theorem execAvsRetry_repeats (step : s.get R.PWR_STEP = 5) (locked : s.pw.relocking = false) (late : s.pw.sent + 10000000 ≤ s.quartz) :
    ∃ t, exec .avsRetry s = .next t ∧ t.get R.PWR_VREQ_PL = s.pw.old % 4 ∧ t.get R.PWR_STEP = 5 ∧ t.pw.sent = s.quartz ∧
      t.out = s.out ++ [.avsRequest (s.get R.PWR_AVS_RAIL) s.pw.old] := by
  refine ⟨_, if_neg (by simp [step, locked, late]), State.get_set_same _ _ _, ?_, rfl, rfl⟩
  exact (State.get_set_ne _ _ _ _ (by decide)).trans step

theorem execPlFailClear_spec (on : s.responds pgPWR = true) :
    ∃ t, exec .plFailClear s = .next t ∧ t.get R.PWR_PL_FAIL = 0 ∧ t.pw.failed = none ∧ onlyFields [R.PWR_PL_FAIL] s { t with pw := s.pw } :=
  ⟨_, if_neg (by simp [on]), (State.get_set_same _ _ _).trans (Nat.zero_mod _), rfl, onlyFields_set s R.PWR_PL_FAIL 0⟩

/-! ## The thermal cap (R325) -/

theorem State.setThermCap_spec (s : State) {cap : Nat} (fits : cap < 4) : (s.setThermCap cap).get R.PWR_THERM_CAP = cap ∧ (s.setThermCap cap).pw = s.pw := by
  unfold State.setThermCap
  split
  · next same => exact ⟨same, rfl⟩
  · refine ⟨?_, ?_⟩
    · refine ((State.severity_spec _ 2).1 _ (by decide)).trans ((State.raise_get_ne _ _ _ _ (by decide)).trans ?_)
      exact (State.get_set_same _ _ _).trans (Nat.mod_eq_of_lt fits)
    · rw [(State.severity_spec _ 2).2]
      exact State.raise_pw _ _ _

/-- The highest reading taken and sampled. -/
def State.thermalTaken (s : State) (b : BitVec 8) (mv : Nat) : State :=
  let s := s.set R.PWR_TJ b.toNat
  let peak := BitVec.ofNat 8 (s.get R.PWR_TJ_PEAK)
  let s := if s.pw.nextSample = 0 ∨ signed8 peak < signed8 b then s.set R.PWR_TJ_PEAK b.toNat else s
  (s.sample 3 0 (linearBin (signed8 b) (-40) 5) (signed8 b)).sample 3 1 (linearBin mv 560 10) mv

/-- The times of the thermal cap as a reading leaves them. -/
def State.thermalTimed (s : State) (b : BitVec 8) : State :=
  let hi : Int := s.get R.PWR_THERM_HI
  let low : Int := hi - s.get R.PWR_THERM_HYS
  { s with pw.nextSample := s.quartz + 100000,
           pw.hot := if hi ≤ signed8 b then some (s.pw.hot.getD (s.quartz, 0)) else none,
           pw.cool := if signed8 b < low then some (s.pw.cool.getD s.quartz) else none }

theorem execThermalSample_takes (b : BitVec 8) (mv : Nat) (up : s.inReset = false) (awake : s.pw.phase ≠ .asleep) (due : s.pw.nextSample ≤ s.quartz) :
    exec (.thermalSample [b] mv) s = .next (if 105 ≤ signed8 b ∧ ((s.thermalTaken b mv).thermalTimed b).get R.PWR_THERM_CAP ≠ 0 then
      (((s.thermalTaken b mv).thermalTimed b).setThermCap 0).urgentPl0 else (s.thermalTaken b mv).thermalTimed b) :=
  if_neg (by simp [up, awake, due])

theorem State.thermalTaken_spec (s : State) (b : BitVec 8) (mv : Nat) : (s.thermalTaken b mv).get R.PWR_TJ = b.toNat ∧
    (s.thermalTaken b mv).quartz = s.quartz ∧ (s.thermalTaken b mv).get R.PWR_THERM_HI = s.get R.PWR_THERM_HI ∧
    (s.thermalTaken b mv).get R.PWR_THERM_CAP = s.get R.PWR_THERM_CAP := by
  have peak : ∀ {c : Prop} [Decidable c] {f : Field}, R.PWR_TJ_PEAK.key ≠ f.key →
      (if c then (s.set R.PWR_TJ b.toNat).set R.PWR_TJ_PEAK b.toNat else s.set R.PWR_TJ b.toNat).get f = (s.set R.PWR_TJ b.toNat).get f := by
    intro c _ f h
    split
    · exact State.get_set_ne _ _ _ _ h
    · rfl
  have quartz : ∀ (t : State) (kind index bin : Nat) (v : Int), (t.sample kind index bin v).quartz = t.quartz := fun t kind index bin v => by
    unfold State.sample
    split
    · rfl
    · dsimp only
      split
      · exact State.raise_quartz _ _ _
      · rfl
  unfold State.thermalTaken
  dsimp only
  refine ⟨?_, ?_, ?_, ?_⟩
  · rw [State.sample_get _ _ _ _ _ _ (by decide), State.sample_get _ _ _ _ _ _ (by decide), peak (by decide), State.get_set_same]
    exact Nat.mod_eq_of_lt b.isLt
  · rw [quartz, quartz]
    split <;> rfl
  · rw [State.sample_get _ _ _ _ _ _ (by decide), State.sample_get _ _ _ _ _ _ (by decide), peak (by decide), State.get_set_ne _ _ _ _ (by decide)]
  · rw [State.sample_get _ _ _ _ _ _ (by decide), State.sample_get _ _ _ _ _ _ (by decide), peak (by decide), State.get_set_ne _ _ _ _ (by decide)]

theorem execThermalSample_mild (b : BitVec 8) (mv : Nat) (up : s.inReset = false) (awake : s.pw.phase ≠ .asleep) (due : s.pw.nextSample ≤ s.quartz)
    (mild : b.toInt < 105) :
    ∃ t, exec (.thermalSample [b] mv) s = .next t ∧ t.get R.PWR_TJ = b.toNat ∧ t.pw.nextSample = s.quartz + 100000 ∧
      (t.pw.hot.isSome ↔ (s.get R.PWR_THERM_HI : Int) ≤ b.toInt) ∧ t.get R.PWR_THERM_CAP = s.get R.PWR_THERM_CAP := by
  obtain ⟨tj, quartz, hi, cap⟩ := s.thermalTaken_spec b mv
  have run := (execThermalSample_takes b mv up awake due).trans (congrArg Host.Outcome.next (if_neg fun h => absurd h.1 (not_le.mpr mild)))
  refine ⟨_, run, ?_⟩
  clear run
  generalize s.thermalTaken b mv = v at *
  refine ⟨tj, ?_, ?_, cap⟩
  · rw [← quartz]; rfl
  · rw [← hi]
    unfold State.thermalTimed
    dsimp only
    split
    · next hot => exact iff_of_true rfl hot
    · next mild => exact iff_of_false (by simp) mild

theorem execThermalSample_severe (b : BitVec 8) (mv : Nat) (up : s.inReset = false) (awake : s.pw.phase ≠ .asleep) (due : s.pw.nextSample ≤ s.quartz)
    (severe : 105 ≤ b.toInt) : ∃ t, exec (.thermalSample [b] mv) s = .next t ∧ t.get R.PWR_THERM_CAP = 0 := by
  refine ⟨_, execThermalSample_takes b mv up awake due, ?_⟩
  generalize (s.thermalTaken b mv).thermalTimed b = v
  split
  · refine (State.urgentPl0_keeps _ _ (by decide)).trans ((State.settleLevel_keeps _ _ (by decide)).trans ?_)
    exact (v.setThermCap_spec (by decide)).1
  · next cold => exact not_not.mp fun ne => cold ⟨severe, ne⟩

/-- A cap moved and the level settled. -/
theorem State.setThermCap_settled (s : State) {cap : Nat} (fits : cap < 4) : (s.setThermCap cap).settleLevel.get R.PWR_THERM_CAP = cap ∧
    (s.setThermCap cap).settleLevel.pw.hot = s.pw.hot ∧ (s.setThermCap cap).settleLevel.pw.cool = s.pw.cool := by
  obtain ⟨moved, pw⟩ := s.setThermCap_spec fits
  obtain ⟨failed, settled⟩ := (s.setThermCap cap).settleLevel_pw
  exact ⟨((State.settleLevel_keeps _ _ (by decide)).trans moved), by rw [settled, pw], by rw [settled, pw]⟩

theorem State.get_thermCap_lt (s : State) : s.get R.PWR_THERM_CAP < 4 := Nat.mod_lt _ (by decide)

theorem execThermalCapFall_falls {since falls : Nat} (hot : s.pw.hot = some (since, falls)) (awake : s.pw.phase ≠ .asleep)
    (due : since + 1000000 + 10000000 * falls ≤ s.quartz) :
    ∃ t, exec .thermalCapFall s = .next t ∧ t.get R.PWR_THERM_CAP = s.get R.PWR_THERM_CAP - 1 ∧ t.pw.hot = some (since, falls + 1) ∧
      t.get R.PWR_EFF_PL = t.levelInForce := by
  have run : exec .thermalCapFall s = .next (({ s with pw := { s.pw with hot := some (since, falls + 1) } } : State).setThermCap
      (s.get R.PWR_THERM_CAP - 1)).settleLevel := by
    show execThermalCapFall s = _
    unfold execThermalCapFall
    rw [hot]
    exact if_neg (by simp [awake, due])
  have small := s.get_thermCap_lt
  obtain ⟨cap, told, -⟩ := State.setThermCap_settled ({ s with pw := { s.pw with hot := some (since, falls + 1) } } : State)
    (cap := s.get R.PWR_THERM_CAP - 1) (by omega)
  exact ⟨_, run, cap, told, State.settleLevel_in_force _⟩

theorem execThermalCapRise_rises {since : Nat} (cool : s.pw.cool = some since) (awake : s.pw.phase ≠ .asleep) (due : since + 100000000 ≤ s.quartz) :
    ∃ t, exec .thermalCapRise s = .next t ∧ t.get R.PWR_THERM_CAP = min 3 (s.get R.PWR_THERM_CAP + 1) ∧ t.pw.cool = some s.quartz := by
  have run : exec .thermalCapRise s = .next (({ s with pw := { s.pw with cool := some s.quartz } } : State).setThermCap
      (min 3 (s.get R.PWR_THERM_CAP + 1))).settleLevel := by
    show execThermalCapRise s = _
    unfold execThermalCapRise
    rw [cool]
    exact if_neg (by simp [awake, due])
  obtain ⟨cap, -, told⟩ := State.setThermCap_settled ({ s with pw := { s.pw with cool := some s.quartz } } : State)
    (cap := min 3 (s.get R.PWR_THERM_CAP + 1)) (by omega)
  exact ⟨_, run, cap, told⟩

/-! ## Clock gating (R19, R327) -/

theorem execIdleGate_busy (i : Fin 31) (busy : s.islandBusy i = true) : exec (.idleGate i) s = .next s :=
  if_pos (.inr (by simp [State.longIdle, busy]))

theorem execIdleGate_early (i : Fin 31)
    (early : (s.quartz - Sparse.get 0 s.pw.activeAt i) * s.islandMHz i < max 16 (s.get R.PWR_IDLE_GATE) * 1000) : exec (.idleGate i) s = .next s :=
  if_pos (.inr (by simp only [State.longIdle, not_le.mpr early, decide_false, Bool.and_false]))

theorem execIdleGate_gates (i : Fin 31) (idle : s.islandBusy i = false)
    (long : max 16 (s.get R.PWR_IDLE_GATE) * 1000 ≤ (s.quartz - Sparse.get 0 s.pw.activeAt i) * s.islandMHz i) :
    ∃ t, exec (.idleGate i) s = .next t ∧ i.val ∈ t.pw.gated ∧ t = { s with pw := { s.pw with gated := t.pw.gated } } := by
  have due : s.longIdle i = true := by
    unfold State.longIdle
    rw [idle, decide_eq_true long]; rfl
  by_cases gated : i.val ∈ s.pw.gated
  · exact ⟨s, if_pos (.inl (List.contains_iff_mem.mpr gated)), gated, rfl⟩
  · exact ⟨_, if_neg (by simp [gated, due]), List.mem_append_right _ (List.mem_singleton_self _), rfl⟩

theorem execIslandUngate_spec (i : Fin 31) (s : State) : ∃ t, exec (.islandUngate i) s = .next t ∧ i.val ∉ t.pw.gated ∧
    Sparse.get 0 t.pw.activeAt i = s.quartz ∧ t = { s with pw := { s.pw with gated := t.pw.gated, activeAt := t.pw.activeAt } } :=
  ⟨s.cross i, rfl, by simp [State.cross, State.touch], Sparse.get_set_same _ _ _ _, rfl⟩

/-! ## Cluster power (R328) -/

/-- The power controller's fields and the locks. -/
def powerFields : List Field := [R.PWR_CC_OFF, R.PWR_PK_OFF, R.PWR_DOMAIN_ON_LO, R.GBL_ISLAND_LOCK]

/-- What judging units leaves: the power fields, the programs, the random queues, and a cluster whose hash unit is without power as out of service. -/
structure Judged (s t : State) : Prop where
  fields : spares powerFields s t
  sq : t.sq = s.sq
  queues : t.fl.queues = s.fl.queues
  hash : ∀ i, s.hashUnit i = {} → t.hashUnit i = {}
  out : ∀ i < 16, s.hashUnit i = {} → s.bit R.GBL_CC_INSERVICE i = false → t.bit R.GBL_CC_INSERVICE i = false

namespace Judged

theorem refl : Judged s s := ⟨.refl, rfl, rfl, fun _ h => h, fun _ _ _ h => h⟩

theorem trans (h : Judged s t) (k : Judged t u) : Judged s u :=
  ⟨h.fields.trans k.fields, k.sq.trans h.sq, k.queues.trans h.queues, fun i e => k.hash i (h.hash i e), fun i hi e o => k.out i hi (h.hash i e) (h.out i hi e o)⟩

theorem foldl {α : Type} {f : State → α → State} (hf : ∀ v a, Judged v (f v a)) (xs : List α) (s : State) : Judged s (xs.foldl f s) :=
  foldl_keeps (Judged s) f (fun v a h => h.trans (hf v a)) xs s refl

/-- A change of registers other than the power fields and the service bits, of Flint but for its queues, and of Agate and the pair. -/
theorem update (fields : spares (R.GBL_CC_INSERVICE :: powerFields) s t) (sq : t.sq = s.sq) (queues : t.fl.queues = s.fl.queues) (ci : t.ci = s.ci) : Judged s t :=
  ⟨fields.mono fun f hf => by simp [hf], sq, queues, fun i h => by rw [State.hashUnit, ci]; exact h, fun i _ _ o => (fields.bit (by simp) i).trans o⟩

end Judged

/-- A cluster whose hash unit is out of service is out of service. -/
theorem State.settleCluster_hash_out (s : State) (n : Nat) {i : Nat} (hi : i < 16) (none : s.hashUnit i = {}) (out : s.bit R.GBL_CC_INSERVICE i = false) :
    (s.settleCluster n).bit R.GBL_CC_INSERVICE i = false := by
  have told : ∀ c : Bool, (if c then s.severity 3 else s).bit R.GBL_CC_INSERVICE i = false := fun c => by
    cases c
    · exact out
    · exact (congrArg (bitOf · i) ((s.severity_spec 3).1 _ (by decide))).trans out
  unfold State.settleCluster
  dsimp only
  rw [State.bit, State.settleTake_get, ← State.bit, State.bit_setBit _ _ _ _ _ hi]
  split
  · next same => simp [← same, none]
  · exact told _

theorem State.settleCluster_judged (s : State) (n : Nat) : Judged s (s.settleCluster n) := by
  have ci : (s.settleCluster n).ci = s.ci := (s.settleCluster_work n).ci
  have off := s.settleCluster_offService n
  exact ⟨s.settleCluster_spares n (by decide) (by decide), show (s.settleCluster n).offService.sq = s.offService.sq by rw [off],
    by rw [s.settleCluster_fl], fun i h => by rw [State.hashUnit, ci]; exact h, fun i hi => s.settleCluster_hash_out n hi⟩

/-- Judging a hash unit without power leaves it so. -/
theorem State.updSvc_hash (s : State) (n u : Nat) {f : Service → Service} (none : s.unitSvc n u = {} → f {} = {}) {i : Nat} (h : s.hashUnit i = {}) :
    (s.updSvc n u f).hashUnit i = {} := by
  unfold State.updSvc
  unfold State.unitSvc at none
  split
  · exact h
  · next lane =>
    split
    · next hash =>
      rw [if_neg lane, if_pos hash] at none
      by_cases same : n = i
      · subst same
        have e : (s.updHash n fun x => { x with svc := f x.svc }).hashUnit n = { s.hashUnit n with svc := f (s.hashUnit n).svc } := by
          simp [State.hashUnit, State.updHash]
        rw [h] at none e
        rw [e, none rfl]
      · rw [State.hashUnit, State.updHash, Sparse.get_upd_ne _ _ _ same]
        exact h
    · exact h

theorem State.settleUnit_judged (s : State) (n u : Nat) : Judged s (s.settleUnit n u) := by
  unfold State.settleUnit
  dsimp only
  refine .trans (t := s.updSvc n u _) ?_ (State.settleCluster_judged _ n)
  have only := s.updSvc_only n u fun v => { v with inService := (s.unitSvc n u).passed && ((s.unitSvc n u).inService || s.get R.FLT_READY == 1) &&
    (decide (4 ≤ u) || (s.lane n u).seeded) }
  refine ⟨.update .refl (by rw [only]), by rw [only], by rw [only], fun i h => State.updSvc_hash s n u (fun none => ?_) h, fun i _ _ out => ?_⟩
  · rw [none]; rfl
  · rw [State.bit, State.get, only]; exact out

theorem State.settlePkCluster_spares {fs : List Field} (s : State) (p : Nat) (bit : apart fs R.GBL_PK_INSERVICE) (sev : apart fs R.AGT_OPEN_SEV) :
    spares fs s (s.settlePkCluster p) := by
  unfold State.settlePkCluster
  exact .settleTake (.setBit (.ite (.severity .refl sev) .refl) bit)

theorem State.settlePkUnit_judged (s : State) (p u : Nat) : Judged s (s.settlePkUnit p u) := by
  unfold State.settlePkUnit
  dsimp only
  generalize ((s.pkUnit p u).svc.passed && ((s.pkUnit p u).svc.inService || s.get R.FLT_READY == 1)) = ok
  have work : UnitWork (s.updPk p u fun x => { x with svc := { x.svc with inService := ok } })
      ((s.updPk p u fun x => { x with svc := { x.svc with inService := ok } }).settlePkCluster p) := .settlePkCluster .refl
  have fl := ((s.updPk p u fun x => { x with svc := { x.svc with inService := ok } }).settlePkCluster_flint p).fl
  have sq : ((s.updPk p u fun x => { x with svc := { x.svc with inService := ok } }).settlePkCluster p).offUnits.sq = s.offUnits.sq := by rw [work.off]; rfl
  exact .update (.trans (.update .refl rfl) (State.settlePkCluster_spares _ p (by decide) (by decide))) sq (by rw [fl]; rfl) (by rw [work.ci]; rfl)

theorem State.settleAllUnits_judged (s : State) : Judged s s.settleAllUnits := by
  unfold State.settleAllUnits
  exact (Judged.foldl (fun v n => .foldl (fun v u => v.settleUnit_judged n u) _ v) _ s).trans
    (.foldl (fun v p => .foldl (fun v u => v.settlePkUnit_judged p u) _ v) _ _)

theorem State.settleReady_judged (s : State) : Judged s s.settleReady := by
  unfold State.settleReady
  split
  · dsimp only
    refine .trans (t := (s.set R.FLT_READY 1).raise pgFLT 0) (.update (.raise (.set .refl (by decide)) (by decide)) ?_ ?_ ?_) ?_
    · rw [((s.set R.FLT_READY 1).raise_onlyFields pgFLT 0).2.2]; rfl
    · rw [State.raise_fl]; rfl
    · rw [State.raise_ci]; rfl
    generalize (s.set R.FLT_READY 1).raise pgFLT 0 = v
    refine .trans (t := if v.healthy < 8 then v.severity 2 else v) ?_ ?_
    · split
      · have only := (v.severity_spec 2).2
        exact .update (.severity .refl (by decide)) (by rw [only]) (by rw [only]) (by rw [only])
      · exact .refl
    generalize (if v.healthy < 8 then v.severity 2 else v) = w
    refine .trans ?_ (State.settleAllUnits_judged _)
    split
    · exact .refl
    · exact .update (.update (.set .refl (by decide)) rfl) rfl rfl rfl
  · exact .refl

/-- What a cluster without power has left: its fields of the power controller are spared, and its lock is lost. -/
theorem State.powerOffCluster_spec (s : State) {i : Nat} (hi : i < 24) :
    spares [R.PWR_CC_OFF, R.PWR_PK_OFF, R.PWR_DOMAIN_ON_LO] s (s.powerOffCluster i) ∧ (s.powerOffCluster i).bit R.GBL_ISLAND_LOCK i = false ∧
    (i < 16 → (s.powerOffCluster i).hashUnit i = {} ∧ (s.powerOffCluster i).bit R.GBL_CC_INSERVICE i = false ∧
      (s.powerOffCluster i).residents i = [] ∧ (s.powerOffCluster i).queue i = []) := by
  have lost : ∀ t : State, (t.setBit R.GBL_ISLAND_LOCK i false).bit R.GBL_ISLAND_LOCK i = false := fun t => by
    rw [State.bit_setBit _ _ _ _ _ (show i < 31 by omega), if_pos rfl]
  unfold State.powerOffCluster
  split
  · dsimp only
    generalize lanes : (List.range 4).foldl (fun s l => s.updLane i l fun _ => {}) s = v
    have regs : v.regs = s.regs := by
      rw [← lanes]
      exact foldl_keeps (fun t : State => t.regs = s.regs) (fun t l => t.updLane i l fun _ => {}) (fun t l h => h) _ s rfl
    obtain ⟨w, ew⟩ : ∃ w, w = (v.updHash i fun _ => {}).updFmt i fun _ => {} := ⟨_, rfl⟩
    have hash : w.hashUnit i = {} := by simp [ew, State.hashUnit, State.updHash, State.updFmt]
    have ci := (w.settleCluster_work i).ci
    obtain ⟨queue, -, dropRegs, dropCi, -⟩ := (w.settleCluster i).dropInstance_spec i
    rw [← ew]
    generalize ex : (w.settleCluster i).dropInstance i = x at *
    refine ⟨?_, lost _, fun hi => ⟨?_, ?_, by simp [State.residents, State.setResidents, State.setBit, State.set], queue⟩⟩
    · refine .setBit (.update (t := x) ?_ rfl) (by decide)
      refine .update (t := w.settleCluster i) (.trans (t := w) ?_ (w.settleCluster_spares i (by decide) (by decide))) dropRegs
      exact .update .refl (by rw [ew]; exact regs)
    · show Sparse.get {} x.ci.hash i = {}
      rw [dropCi, ci]
      exact hash
    · have out : (w.settleCluster i).bit R.GBL_CC_INSERVICE i = false := by
        unfold State.settleCluster
        dsimp only
        rw [State.bit, State.settleTake_get, ← State.bit, State.bit_setBit _ _ _ _ _ hi, if_pos rfl, hash]
        rfl
      rw [State.bit, State.setBit, State.get_set_ne _ _ _ _ (by decide)]
      refine Eq.trans ?_ out
      exact congrArg (fun r : Sparse Nat => bitOf (Sparse.get R.GBL_CC_INSERVICE.reset r R.GBL_CC_INSERVICE.key % 2 ^ R.GBL_CC_INSERVICE.width) i) dropRegs
  · next pk =>
    dsimp only
    refine ⟨?_, lost _, fun cc => absurd cc pk⟩
    have regs : ((List.range 9).foldl (fun s u => s.updPk (i - 16) u fun _ => {}) s).regs = s.regs :=
      foldl_keeps (fun t : State => t.regs = s.regs) (fun t u => t.updPk (i - 16) u fun _ => {}) (fun t l h => h) _ s rfl
    exact .setBit (.trans (.update .refl regs) (State.settlePkCluster_spares _ _ (by decide) (by decide))) (by decide)

theorem State.setClusterOff_off (s : State) {i : Nat} (hi : i < 24) (off : Bool) : (s.setClusterOff i off).clusterOff i = off := by
  unfold State.clusterOff State.setClusterOff
  split
  · next cc => rw [State.bit_setBit _ _ _ _ _ cc, if_pos rfl]
  · rw [State.bit_setBit _ _ _ _ _ (show i - 16 < 8 by omega), if_pos rfl]

theorem clusterOff_of_spares (h : spares [R.PWR_CC_OFF, R.PWR_PK_OFF] s t) (i : Nat) : t.clusterOff i = s.clusterOff i := by
  unfold State.clusterOff
  rw [h.bit (by simp), h.bit (by simp)]

theorem domainOn_of_spares (h : spares [R.PWR_DOMAIN_ON_LO] s t) {i : Nat} (hi : i < 32) : t.domainOn i = s.domainOn i := by
  unfold State.domainOn
  rw [if_pos hi, if_pos hi, h.bit (by simp)]

theorem State.setDomain_on (s : State) {i : Nat} (hi : i < 32) (on : Bool) : (s.setDomain i on).domainOn i = on := by
  unfold State.domainOn State.setDomain
  rw [if_pos hi, if_pos hi, State.bit_setBit _ _ _ _ _ hi, if_pos rfl]

theorem State.setDomain_low (s : State) {i : Nat} (hi : i < 32) (on : Bool) : s.setDomain i on = s.setBit R.PWR_DOMAIN_ON_LO i on := if_pos hi

theorem execClusterPowerOff_stays (i : Fin 24) (h : s.inS0 = false ∨ s.clusterDrained i = false ∨ s.clusterOff i = true) :
    exec (.clusterPowerOff i) s = .next s := by
  show execClusterPowerOff i s = _
  unfold execClusterPowerOff
  split
  · rfl
  · next up =>
    refine if_neg fun ⟨drained, on⟩ => ?_
    rcases h with asleep | full | off
    · exact up (.inr (by simp [asleep]))
    · simp [full] at drained
    · exact on off

theorem execClusterPowerOff_acts (i : Fin 24) (on : s.responds pgPWR = true) (awake : s.inS0 = true) (drained : s.clusterDrained i = true)
    (power : s.clusterOff i = false) :
    ∃ t, exec (.clusterPowerOff i) s = .next t ∧ t.clusterOff i = true ∧ t.domainOn i = false ∧ t.bit R.GBL_ISLAND_LOCK i = false ∧
      (i.val < 16 → t.bit R.GBL_CC_INSERVICE i = false ∧ t.residents i = [] ∧ t.queueFill i = 0) := by
  have small : i.val < 32 := by omega
  have run : exec (.clusterPowerOff i) s = .next (((s.setClusterOff i true).powerOffCluster i).setDomain i false).settleReady := by
    show execClusterPowerOff i s = _
    unfold execClusterPowerOff
    rw [if_neg (by simp [on, awake]), if_pos ⟨drained, by simp [power]⟩]
  refine ⟨_, run, ?_⟩
  clear run
  have off := s.setClusterOff_off i.isLt true
  generalize s.setClusterOff i true = v at *
  obtain ⟨fields, lock, cluster⟩ := v.powerOffCluster_spec i.isLt
  generalize v.powerOffCluster i = w at *
  have dark := w.setDomain_on small false
  have set := w.setDomain_low small false
  have judged := (w.setDomain i false).settleReady_judged
  refine ⟨?_, ?_, ?_, fun cc => ?_⟩
  · rw [clusterOff_of_spares (judged.fields.mono (by simp [powerFields])), set,
      clusterOff_of_spares (.setBit (fields.mono (by simp)) (by decide)), off]
  · rw [domainOn_of_spares (judged.fields.mono (by simp [powerFields])) small, dark]
  · rw [judged.fields.bit (by simp [powerFields]), set, State.bit, State.setBit, State.get_set_ne _ _ _ _ (by decide)]
    exact lock
  · obtain ⟨hash, out, residents, queue⟩ := cluster cc
    rw [set] at judged ⊢
    have kept : (w.setBit R.PWR_DOMAIN_ON_LO i false).bit R.GBL_CC_INSERVICE i = false := by
      rw [State.bit, State.setBit, State.get_set_ne _ _ _ _ (by decide)]
      exact out
    refine ⟨judged.out i cc hash kept, ?_, ?_⟩
    · rw [State.residents, judged.sq]
      exact residents
    · rw [State.queueFill, State.queue, judged.queues]
      exact congrArg List.length queue

theorem execClusterPowerOn_stays (i : Fin 24) (h : s.inS0 = false ∨ s.clusterOff i = false) : exec (.clusterPowerOn i) s = .next s := by
  show execClusterPowerOn i s = _
  unfold execClusterPowerOn
  split
  · rfl
  · next up =>
    refine if_neg fun off => ?_
    rcases h with asleep | on
    · exact up (.inr (by simp [asleep]))
    · simp [on] at off

theorem State.resetPkUnits_spares {fs : List Field} (s : State) (p : Nat) (bit : apart fs R.GBL_PK_INSERVICE) (sev : apart fs R.AGT_OPEN_SEV) :
    spares fs s (s.resetPkUnits p) := by
  have regs : ((List.range 9).foldl (fun s u => s.updPk p u fun _ => { svc := { katBusy := true } }) s).regs = s.regs :=
    foldl_keeps (fun t : State => t.regs = s.regs) (fun t u => t.updPk p u fun _ => { svc := { katBusy := true } }) (fun t l h => h) _ s rfl
  exact .trans (.update .refl regs) (State.settlePkCluster_spares _ p bit sev)

theorem State.powerOnCluster_spares (s : State) (i : Nat) : spares [R.PWR_CC_OFF, R.PWR_PK_OFF, R.PWR_DOMAIN_ON_LO] s (s.powerOnCluster i) := by
  unfold State.powerOnCluster
  refine .trans (t := s.setBit R.GBL_ISLAND_LOCK i true) (.setBit .refl (by decide)) ?_
  dsimp only
  split
  · exact State.resetUnits_spares _ _ (by decide) (by decide)
  · exact State.resetPkUnits_spares _ _ (by decide) (by decide)

theorem execClusterPowerOn_acts (i : Fin 24) (on : s.responds pgPWR = true) (awake : s.inS0 = true) (off : s.clusterOff i = true) :
    ∃ t, exec (.clusterPowerOn i) s = .next t ∧ t.clusterOff i = false ∧ t.domainOn i = true ∧
      (i.val < 16 → ∀ u < 6, (t.unitSvc i u).katBusy = true) := by
  have small : i.val < 32 := by omega
  have run : exec (.clusterPowerOn i) s = .next (((s.setClusterOff i false).setDomain i true).powerOnCluster i) := by
    show execClusterPowerOn i s = _
    unfold execClusterPowerOn
    rw [if_neg (by simp [on, awake]), if_pos off]
  refine ⟨_, run, ?_⟩
  clear run
  have powered := s.setClusterOff_off i.isLt false
  generalize s.setClusterOff i false = v at *
  have fields := (v.setDomain i true).powerOnCluster_spares i
  refine ⟨?_, ?_, fun cc u hu => ?_⟩
  · rw [clusterOff_of_spares (fields.mono (by simp)), v.setDomain_low small, clusterOff_of_spares (.setBit .refl (by decide)), powered]
  · rw [domainOn_of_spares (fields.mono (by simp)) small, v.setDomain_on small]
  · unfold State.powerOnCluster
    rw [if_pos cc]
    exact State.resetUnits_testing _ (.inr ⟨rfl, hu⟩)

/-- A held pad released, where its domain is on. -/
theorem execRelSd_off (off : s.domainOn 41 = false) : exec .relSd s = .next s := by
  show execRelSd s = _
  unfold execRelSd
  split
  · rfl
  · exact if_neg (by simp [off])

theorem execRelCard_off (off : s.domainOn 42 = false) : exec .relCard s = .next s := by
  show execRelCard s = _
  unfold execRelCard
  split
  · rfl
  · exact if_neg (by simp [off])

/-- Settles O43: each command of the power controller by its equation, with what locking, judging and ending a wake keep. -/
theorem levelsAndDomainsFollowTheirRequests : Obligations.LevelsAndDomainsFollowTheirRequests := by
  unfold Obligations.LevelsAndDomainsFollowTheirRequests
  refine ⟨fun cap s on => execPlCapWrite_spec cap on, fun s => execLevelChangeStart_raises, fun s => execLevelChangeStart_lowers,
    fun status s => execAvsAck_relocks status, fun status s => execAvsAck_ends status, fun s => execRelockDone_raised, fun s => execRelockDone_lowered,
    fun s => execAvsTimeout_abandons, fun s => execAvsRetry_repeats, fun s => execPlFailClear_spec, fun b mv s => execThermalSample_mild b mv,
    fun b mv s => execThermalSample_severe b mv, fun since falls s => execThermalCapFall_falls, fun since s => execThermalCapRise_rises,
    fun s => execRelockDone_restored, fun c cs s waits => ⟨?_, fun relocks step => ?_⟩, fun s locked => if_pos (by simp [locked]),
    fun s _ => execLevelChangeStart_stays, fun i s => execIdleGate_busy i, fun i s => execIdleGate_gates i, fun i s => execIdleGate_early i,
    fun i s => execIslandUngate_spec i s, fun i s => execClusterPowerOff_acts i, fun i s => execClusterPowerOff_stays i, fun i s => execClusterPowerOn_acts i,
    fun s on power => ?_, fun s on power => ?_, fun i s => execClusterPowerOn_stays i, fun s => execRelSd_off, fun s => execRelCard_off⟩
  · rw [State.arrivals, waits, List.foldl_cons]
  · simp only [execRelockDone_runs relocks, step]
  · exact (if_neg (by simp [on])).trans (if_pos power)
  · exact (if_neg (by simp [on])).trans (if_pos power)

end Sys2Proof.Machine
end

section
/-! SUPPORT. The pair: what a change of mode, a change set discarded, a partition frozen and every command ended keep of its roles (R336-R350). -/
namespace Sys2Proof.Machine

/-- The pair's state without the watch of the takeover conditions and the deltas not acknowledged. -/
def State.side (s : State) : Pair := { s.pr with takeAt := none, heldSync := false, unacked := [] }

/-- The pair's registers that its roles turn on, and the gate's state. -/
def sideFields : List Field :=
  [R.PAIR_ROLE, R.PAIR_SYNC, R.PAIR_PAIR_EN, R.PAIR_CLAIM_CONFLICT, R.PAIR_CMD_RESULT, R.PAIR_REPORT_LOST, R.PAIR_SEL_CONFLICT, R.PAIR_PARTNER_RPT,
   R.PAIR_ST_FAIL_CNT, R.BLK_INT_RAW pgPAIR, R.GATE_STATE]

/-- `t` has the pair's roles and the gate's change as `s`; deltas are sent in the active role alone. -/
structure SideKept (s t : State) : Prop where
  pr : t.side = s.side
  unacked : s.get R.PAIR_ROLE ≠ 1 → t.pr.unacked = s.pr.unacked
  fields : spares sideFields s t
  set : t.gt.set = s.gt.set

namespace SideKept
variable {s t u : State}

theorem refl : SideKept s s := ⟨rfl, fun _ => rfl, .refl, rfl⟩

theorem trans (h : SideKept s t) (k : SideKept t u) : SideKept s u :=
  ⟨k.pr.trans h.pr, fun role => (k.unacked (by rw [h.fields _ (by simp [sideFields])]; exact role)).trans (h.unacked role), h.fields.trans k.fields,
    k.set.trans h.set⟩

theorem ite {c : Prop} [Decidable c] (h : SideKept s t) (k : SideKept s u) : SideKept s (if c then t else u) := by split <;> assumption
theorem andIf {c : Prop} [Decidable c] (h : SideKept s t) (k : SideKept t u) : SideKept s (if c then u else t) := (h.trans k).ite h

theorem foldl {α : Type} {f : State → α → State} {xs : List α} (h : SideKept s t) (hf : ∀ u a, SideKept u (f u a)) : SideKept s (xs.foldl f t) :=
  foldl_keeps (SideKept s) f (fun u a hu => hu.trans (hf u a)) xs t h

theorem step (fields : spares sideFields s t) (pr : t.pr = s.pr) (set : t.gt.set = s.gt.set) : SideKept s t :=
  ⟨by rw [State.side, pr]; rfl, fun _ => by rw [pr], fields, set⟩

theorem of_endView (h : t.endView = s.endView) : SideKept s t := by
  have offs := State.offEnds_of_endView h
  have pr : { t.pr with takeAt := none, heldSync := false } = { s.pr with takeAt := none, heldSync := false } := congrArg State.pr offs
  have gt : { t.gt with verifying := [] } = { s.gt with verifying := [] } := congrArg State.gt offs
  refine ⟨congrArg (fun p : Pair => { p with unacked := [] }) pr, fun _ => ?_, fun f hf => State.get_of_endView h ?_, ?_⟩
  · have := congrArg Pair.unacked pr
    exact this
  · revert f
    decide
  · have := congrArg Gate.set gt
    exact this

end SideKept

/-- `t` has the roles of `s`, what is staged and held, and every output. -/
structure Calm (s t : State) : Prop where
  side : SideKept s t
  staged : t.hq.staged = s.hq.staged
  held : t.hq.held = s.hq.held
  out : ∀ o ∈ s.out, o ∈ t.out

namespace Calm
variable {s t u : State}

theorem refl : Calm s s := ⟨.refl, rfl, rfl, fun _ h => h⟩
theorem trans (h : Calm s t) (k : Calm t u) : Calm s u :=
  ⟨h.side.trans k.side, k.staged.trans h.staged, k.held.trans h.held, fun o ho => k.out o (h.out o ho)⟩
theorem ite {c : Prop} [Decidable c] (h : Calm s t) (k : Calm s u) : Calm s (if c then t else u) := by split <;> assumption
theorem andIf {c : Prop} [Decidable c] (h : Calm s t) (k : Calm t u) : Calm s (if c then u else t) := (h.trans k).ite h
theorem foldl {α : Type} {f : State → α → State} {xs : List α} (h : Calm s t) (hf : ∀ u a, Calm u (f u a)) : Calm s (xs.foldl f t) :=
  foldl_keeps (Calm s) f (fun u a hu => hu.trans (hf u a)) xs t h

theorem update (h : Calm s t) (regs : u.regs = t.regs) (pr : u.pr = t.pr) (set : u.gt.set = t.gt.set) (staged : u.hq.staged = t.hq.staged)
    (held : u.hq.held = t.hq.held) (out : u.out = t.out) : Calm s u :=
  h.trans ⟨.step (.update .refl regs) pr set, staged, held, fun _ ho => out ▸ ho⟩

theorem set {f : Field} {v : Nat} (h : Calm s t) (off : apart sideFields f) : Calm s (t.set f v) :=
  h.trans ⟨.step (.set .refl off) rfl rfl, rfl, rfl, fun _ h => h⟩

theorem msix {fs : List Field} (h : onlyFields fs s t) (off : ∀ f ∈ fs, apart sideFields f) : Calm s t := by
  obtain ⟨fields, ⟨ms, out, -⟩, only⟩ := h
  refine ⟨.step (.of_keeps .refl fields off) (by rw [only]) (by rw [only]), by rw [only], by rw [only], fun o ho => ?_⟩
  rw [out]
  exact List.mem_append_left _ ho

theorem raise {p i : Nat} (h : Calm s t) (off : apart sideFields (R.BLK_INT_RAW p)) : Calm s (t.raise p i) :=
  h.trans (.msix (t.raise_onlyFields p i) (by simpa using off))

theorem severity {n : Nat} (h : Calm s t) : Calm s (t.severity n) := by
  have only := (t.severity_spec n).2
  exact h.trans ⟨.step (.severity .refl (by decide)) (by rw [only]) (by rw [only]), by rw [only], by rw [only], fun o ho => by rw [only]; exact ho⟩

theorem settleTake (h : Calm s t) : Calm s t.settleTake := by
  have spec := t.settleTake_spec
  refine h.trans ⟨⟨?_, fun _ => ?_, .settleTake .refl, ?_⟩, ?_, ?_, fun o ho => ?_⟩
  all_goals rw [spec]
  · rfl
  · exact ho

theorem updPart {p : Nat} {f : Part → Part} (h : Calm s t) : Calm s (t.updPart p f) := h.update rfl rfl rfl rfl rfl rfl
theorem updQp {p q : Nat} {f : QueuePair → QueuePair} (h : Calm s t) : Calm s (t.updQp p q f) := h.update rfl rfl rfl rfl rfl rfl

theorem partEvent {p i : Nat} (h : Calm s t) : Calm s (t.partEvent p i) := h.updPart.trans (.msix (t.partEvent_spec p i) fun _ none => nomatch none)

theorem haltQp {p q e : Nat} (h : Calm s t) : Calm s (t.haltQp p q e) := by
  unfold State.haltQp
  exact .partEvent (.severity (.andIf h.updQp (.raise .refl (by decide))))

theorem serveDoorbells {p q : Nat} (h : Calm s t) : Calm s (t.serveDoorbells p q) := by
  unfold State.serveDoorbells
  exact .ite h (.ite (.haltQp h.updQp) (.ite (.haltQp h.updQp) (.ite (.haltQp h.updQp) h.updQp)))

theorem emit {o : Output} (h : Calm s t) : Calm s (t.emit o) :=
  h.trans ⟨.step (.update .refl rfl) rfl rfl, rfl, rfl, fun _ ho => List.mem_append_left _ ho⟩

end Calm

/-! ## Links and messages -/

/-- The link pages lie beyond the pair's and the gate's. -/
theorem sideFields_apart {f : Field} (h : 0x71000 ≤ f.addr) : apart sideFields f := apart_beyond 0x71000 (by decide) h

namespace Calm
variable {s t u : State}

theorem sendFlit {k type vc : Nat} {last : Bool} {bs : List Byte} (h : Calm s t) : Calm s (t.sendFlit k type vc last bs) := by
  have count : apart sideFields (R.FVL_TX_FLITS k) := sideFields_apart (by simp only [R.FVL_TX_FLITS]; omega)
  have link : ∀ f, Calm s (t.updLink k f) := fun f => h.update rfl rfl rfl rfl rfl rfl
  unfold State.sendFlit
  exact .emit (.ite (link _) ((link _).set count))

theorem sendOn {k : Nat} {o : Output} (h : Calm s t) : Calm s (t.sendOn k o) := by
  unfold State.sendOn
  exact .ite (.emit (.foldl (h.update rfl rfl rfl rfl rfl rfl) fun _ _ => .sendFlit .refl)) h

theorem tellOn {l : Option Nat} {o : Nat → Output} (h : Calm s t) : Calm s (t.tellOn l o) := by
  unfold State.tellOn
  split
  · exact h.sendOn
  · exact h

theorem linkRaw {k : Nat} : apart sideFields (R.BLK_INT_RAW (pgFVL k)) := sideFields_apart (by simp only [R.BLK_INT_RAW, pgFVL]; omega)

theorem wrapRing {k : Nat} (h : Calm s t) : Calm s (t.wrapRing k) :=
  .ite (.raise (h.set (f := R.FVL_WRAPPED k) (sideFields_apart (by simp only [R.FVL_WRAPPED]; omega))) linkRaw) h

theorem settleTree (h : Calm s t) : Calm s t.settleTree :=
  .ite (.update (.raise (h.set (f := R.FVL0_DT_LOCKED) (v := 0) (by decide)) (p := pgFVL 0) (i := 8) linkRaw) rfl rfl rfl rfl rfl rfl) h

theorem settleLink {k : Nat} (h : Calm s t) : Calm s (t.settleLink k) := by
  have state : apart sideFields (R.FVL_STATE k) := sideFields_apart (by simp only [R.FVL_STATE]; omega)
  have wrapped : apart sideFields (R.FVL_WRAPPED k) := sideFields_apart (by simp only [R.FVL_WRAPPED]; omega)
  have told : ∀ v : State, Calm v (v.tellHolds k) := fun v => .ite (.sendOn .refl) .refl
  have asked : ∀ v : State, Calm v (v.askCatchup k) := fun v => .sendOn (.update (t := v) .refl rfl rfl rfl rfl rfl rfl)
  unfold State.settleLink
  refine .ite (.ite (.settleTree (.wrapRing ?_)) ?_) h <;>
    exact .andIf (.andIf (.andIf (h.set state) (.trans (.raise .refl linkRaw) (told _))) (asked _)) (.raise (.set .refl wrapped) linkRaw)

/-- A change of mode keeps the roles. -/
theorem enterMode {m : Mode} (h : Calm s t) : Calm s (t.enterMode m) := by
  refine h.trans ?_
  unfold State.enterMode
  refine .ite .refl (.foldl ?_ fun _ _ => .settleLink .refl)
  exact .andIf (.raise (.update (t := t) .refl rfl rfl rfl rfl rfl rfl) (by decide)) (.foldl .refl fun _ _ => .serveDoorbells .refl)

end Calm

/-- A delta for the standby, which is sent in the active role alone. -/
theorem Calm.sendDeltaOn {s t : State} {l : Option Nat} {d : Delta} (h : Calm s t) : Calm s (t.sendDeltaOn l d).1 := by
  unfold State.sendDeltaOn
  split
  · next active =>
    dsimp only
    generalize t.get R.PAIR_DSEQ_LO + 2 ^ 32 * t.get R.PAIR_DSEQ_HI + 1 = q
    have numbered : spares sideFields t (((t.set R.PAIR_DSEQ_LO q).set R.PAIR_DSEQ_HI (q / 2 ^ 32)).countSat R.PAIR_LAG) :=
      .set (.set (.set .refl (by decide)) (by decide)) (by decide)
    refine h.trans (.tellOn ⟨⟨rfl, fun passive => absurd active passive, numbered.update rfl, rfl⟩, rfl, rfl, fun _ ho => ho⟩)
  · exact h

theorem Calm.tellStandby {s t : State} {d : Delta} (h : Calm s t) : Calm s (t.tellStandby d) := h.sendDeltaOn

/-! ## Partitions frozen and thawed, and a change set discarded -/

namespace Calm
variable {s t u : State}

theorem thawPart {p : Nat} (h : Calm s t) : Calm s (t.thawPart p) := by
  unfold State.thawPart
  exact .foldl (.tellStandby (.partEvent h.updPart)) fun _ _ => .serveDoorbells (.updQp .refl)

theorem thawFrozen (h : Calm s t) : Calm s t.thawFrozen := by
  unfold State.thawFrozen
  exact .foldl (h.update rfl rfl rfl rfl rfl rfl) fun _ _ => .ite (.thawPart .refl) .refl

/-- The card pages and the pins lie apart from the pair's and the gate's. -/
theorem cardFields_apart {f : Field} (h : 0x90000 ≤ f.addr) : apart sideFields f := sideFields_apart (Nat.le_trans (by decide) h)

theorem deactivateCard {p : Nat} (h : Calm s t) : Calm s (t.deactivateCard p) := by
  unfold State.deactivateCard
  refine .update (t := (((t.set (R.CARD_CLASS p) 0).set (R.CARD_PROTO_T1 p) 0).set (R.CARD_CLK_STOPPED p) 0).set (R.CARD_CLK_MHZ p) 0)
    (.set (.set (.set (.set h ?_) ?_) ?_) ?_) rfl rfl rfl rfl rfl rfl
  all_goals exact cardFields_apart (by simp only [R.CARD_CLASS, R.CARD_PROTO_T1, R.CARD_CLK_STOPPED, R.CARD_CLK_MHZ]; omega)

theorem setPin {f : Nat} {b : Bool} (h : Calm s t) : Calm s (t.setPin f b) := .ite (h.set (by decide)) h

theorem endCardApproval {r : Nat} (h : Calm s t) : Calm s (t.endCardApproval r) := by
  unfold State.endCardApproval
  dsimp only
  have pinned := (Calm.set (Calm.set h (f := R.CARD_APPROVE_BUSY) (v := 0) (by decide)) (f := R.CARD_APPROVE_RESULT) (v := r) (by decide)).setPin (f := 4) (b := false)
  generalize ((t.set R.CARD_APPROVE_BUSY 0).set R.CARD_APPROVE_RESULT r).setPin 4 false = v at *
  exact .deactivateCard (.raise (pinned.update (u := { v with cd := { stops := v.cd.stops } }) rfl rfl rfl rfl rfl rfl) (by decide))

theorem dropCardApproval (h : Calm s t) : Calm s t.dropCardApproval := h.ite h.endCardApproval

end Calm

/-- The gate as its change set is dropped: IDLE, no change. -/
def State.gateIdle (s : State) : State := { s.set R.GATE_STATE 0 with gt.set := [] }

theorem State.closeGate_calm (s : State) : Calm s.gateIdle s.closeGate := by
  unfold State.closeGate
  refine .dropCardApproval ⟨⟨rfl, fun _ => rfl, ?_, rfl⟩, rfl, rfl, fun _ h => h⟩
  have cleared : spares sideFields (s.set R.GATE_STATE 0) ((((((s.set R.GATE_STATE 0).set R.GATE_CLASS 0).set R.GATE_SCOPE_PART 0).set R.GATE_SCOPE_MOD 0).set
      R.GATE_ENTRIES 0).set R.GATE_APPR1_OID 0 |>.set R.GATE_APPR1_ROLE 0) :=
    .set (.set (.set (.set (.set (.set .refl (by decide)) (by decide)) (by decide)) (by decide)) (by decide)) (by decide)
  exact fun f hf => cleared f hf

theorem State.discardChange_calm (s : State) : Calm (if s.get R.GATE_STATE = 5 then s else s.gateIdle) s.discardChange := by
  unfold State.discardChange
  split
  · exact .refl
  · exact s.closeGate_calm.thawFrozen

/-- Commands that end keep the roles. -/
theorem State.freezePart_side (s : State) (p : Nat) : SideKept s (s.freezePart p) := by
  have event : Calm s (((s.updPart p fun x => { x with pstate := .frozen, freezing := true }).partEvent p 1).tellStandby (.pstate p .frozen)) :=
    .tellStandby (.partEvent (.updPart .refl))
  unfold State.freezePart
  dsimp only
  generalize ((s.updPart p fun x => { x with pstate := .frozen, freezing := true }).partEvent p 1).tellStandby (.pstate p .frozen) = v at *
  refine .foldl (.foldl (event.side.trans (.step (.update .refl rfl) rfl rfl)) fun u c => .of_endView (u.finish_endView ..)) fun u e =>
    .of_endView (u.endCommand_endView ..)

theorem State.releaseHeld_side (s : State) (hit : Held → Bool) : SideKept s (s.releaseHeld hit) := by
  unfold State.releaseHeld
  exact .foldl (.step (.update .refl rfl) rfl rfl) fun u a => .of_endView (u.answer_endView ..)

theorem State.endAllCommands_side (s : State) : SideKept s s.endAllCommands := by
  have ended : ∀ (cs : List Cmd) (es : List (Nat × Context)) (v : State),
      SideKept v (es.foldl (fun s e => s.endCommand e.1 stAborted 4) (cs.foldl (fun s c => s.endStaged c stAborted 4) v)) := fun cs es v =>
    .foldl (.foldl .refl fun u c => .of_endView (u.finish_endView ..)) fun u e => .of_endView (u.endCommand_endView ..)
  have start : SideKept s { s with hq := { s.hq with staged := [], fwdOut := [] } } := .step (.update .refl rfl) rfl rfl
  exact (start.trans (ended _ _ _)).trans (State.releaseHeld_side _ _)

theorem State.dropFences_cmd (s : State) (k : Nat) : (s.dropFences.ctx k).cmd = (s.ctx k).cmd := by
  unfold State.ctx State.dropFences
  dsimp only
  rcases Sparse.get_mapVals_or ({} : Context) (fun _ x => { x with keys := x.keys.map (·.map fun y : KeySlot => { y with fenced := false }) }) s.sq.ctxs k with
    listed | ⟨missing, none⟩
  · rw [listed]
  · rw [missing, none]

theorem State.dropFences_calm (s : State) : Calm s s.dropFences := ⟨.step (.update .refl rfl) rfl rfl, rfl, rfl, fun _ h => h⟩

/-! ## Commands that end with the role -/

theorem State.answer_held (s : State) (ok : Option Bool) (c : Cmd) (e : Ending) : (s.answer ok c e).hq.held = s.hq.held := by
  unfold State.answer
  split
  · exact (Calm.sendOn .refl).held
  · have written : ∀ u : State, (u.writeCompletion ok c e).hq.held = u.hq.held := fun u =>
      congrArg (·.2.2.2) (u.writeCompletion_aborting ok c e 0)
    have done : ∀ u : State, (u.abortDone c e).hq.held = u.hq.held := fun u => by
      unfold State.abortDone State.settleAbort
      dsimp only
      split <;> split <;> rfl
    have told : ∀ {p : Prop} [Decidable p], (if p then s.severity 3 else s).hq.held = s.hq.held := by
      intro p _
      split
      · exact (Calm.severity .refl).held
      · rfl
    unfold State.complete
    dsimp only
    rw [done]
    split
    · rw [written, told]
    · exact (written _).trans told

/-- Once every command has ended nothing is staged or held. -/
theorem State.endAllCommands_queues (s : State) : s.endAllCommands.hq.staged = [] ∧ s.endAllCommands.hq.held = [] := by
  have ended : ∀ (cs : List Cmd) (es : List (Nat × Context)) (v : State), v.hq.staged = [] →
      (es.foldl (fun s e => s.endCommand e.1 stAborted 4) (cs.foldl (fun s c => s.endStaged c stAborted 4) v)).hq.staged = [] := fun cs es v none =>
    foldl_keeps (fun u : State => u.hq.staged = []) _ (fun u e h => (u.endCommand_staged ..).trans h) es _
      (foldl_keeps (fun u : State => u.hq.staged = []) _ (fun u c h => (congrArg Prod.snd (u.finish_tasks ..)).trans h) cs v none)
  have released : ∀ v : State, v.hq.staged = [] → (v.releaseHeld fun _ => true).hq.staged = [] ∧ (v.releaseHeld fun _ => true).hq.held = [] := fun v none => by
    unfold State.releaseHeld
    refine foldl_keeps (fun u : State => u.hq.staged = [] ∧ u.hq.held = []) _ (fun u a h => ⟨?_, (u.answer_held ..).trans h.2⟩) _ _ ⟨none, by simp⟩
    exact (congrArg Prod.snd (State.tasks_of_endKeeps (endKeeps_answer ..))).trans h.1
  exact released _ (ended _ _ _ rfl)

/-! ## The active role given up (R340) -/

/-- The registers and outputs of a role given up, before its commands end. -/
def State.roleLost (s : State) : State :=
  ((((((s.countSat R.PAIR_DEMOTE_CNT).raise pgPAIR 4).severity 3).set R.PAIR_ROLE 2).set R.PAIR_SYNC 0).set R.PAIR_LAG 0 |>.set R.PAIR_RESYNC_LEFT 0).dropRole

/-- The commands and fences gone with the role. -/
def State.roleEnded (s : State) : State := s.roleLost.endAllCommands.dropFences.discardChange

theorem State.demote_eq (s : State) : s.demote = if s.roleEnded.mode = .responded then s.roleEnded else s.roleEnded.enterMode .shadow := rfl

theorem State.dropRole_get (s : State) (f : Field) : s.dropRole.get f = s.get f := rfl

theorem State.roleLost_spec (s : State) : s.roleLost.get R.PAIR_ROLE = 2 ∧ s.roleLost.pr = s.dropRole.pr ∧ s.roleLost.mode = s.mode ∧
    s.roleLost.get R.PAIR_CLAIM_CONFLICT = s.get R.PAIR_CLAIM_CONFLICT ∧
    (∀ i < 32, s.bit (R.BLK_INT_RAW pgPAIR) i = true → s.roleLost.bit (R.BLK_INT_RAW pgPAIR) i = true) := by
  unfold State.roleLost
  have told : Calm ((s.countSat R.PAIR_DEMOTE_CNT).raise pgPAIR 4) (((s.countSat R.PAIR_DEMOTE_CNT).raise pgPAIR 4).severity 3) := .severity .refl
  have counted : Steady s (s.countSat R.PAIR_DEMOTE_CNT) := .countSat .refl
  have mode : (((s.countSat R.PAIR_DEMOTE_CNT).raise pgPAIR 4).severity 3).mode = s.mode := counted.raise.severity.mode
  have pr : (((s.countSat R.PAIR_DEMOTE_CNT).raise pgPAIR 4).severity 3).pr = s.pr := by
    rw [(State.severity_spec _ 3).2]
    exact State.raise_pr _ _ _
  have conflict : ((s.countSat R.PAIR_DEMOTE_CNT).raise pgPAIR 4).get R.PAIR_CLAIM_CONFLICT = s.get R.PAIR_CLAIM_CONFLICT := by
    rw [State.raise_get_ne _ _ _ _ (by decide), State.get_countSat_ne _ _ _ _ (by decide)]
  have raw : ∀ i < 32, s.bit (R.BLK_INT_RAW pgPAIR) i = true → ((s.countSat R.PAIR_DEMOTE_CNT).raise pgPAIR 4).bit (R.BLK_INT_RAW pgPAIR) i = true := fun i hi h => by
    rw [State.raise_raised _ pgPAIR 4 i hi, State.bit, State.get_countSat_ne _ _ _ _ (by decide), ← State.bit, h, Bool.true_or]
  generalize (s.countSat R.PAIR_DEMOTE_CNT).raise pgPAIR 4 = u at *
  generalize u.severity 3 = v at *
  have set : ∀ {f : Field}, R.PAIR_ROLE.key ≠ f.key → R.PAIR_SYNC.key ≠ f.key → R.PAIR_LAG.key ≠ f.key → R.PAIR_RESYNC_LEFT.key ≠ f.key →
      ((((v.set R.PAIR_ROLE 2).set R.PAIR_SYNC 0).set R.PAIR_LAG 0).set R.PAIR_RESYNC_LEFT 0).get f = v.get f := fun a b c d => by
    rw [State.get_set_ne _ _ _ _ d, State.get_set_ne _ _ _ _ c, State.get_set_ne _ _ _ _ b, State.get_set_ne _ _ _ _ a]
  refine ⟨?_, ?_, mode, ?_, fun i hi h => ?_⟩
  · rw [State.dropRole_get, State.get_set_ne _ _ _ _ (by decide), State.get_set_ne _ _ _ _ (by decide), State.get_set_ne _ _ _ _ (by decide)]
    exact (v.get_set_same R.PAIR_ROLE 2).trans rfl
  · unfold State.dropRole
    dsimp only
    rw [show ((((v.set R.PAIR_ROLE 2).set R.PAIR_SYNC 0).set R.PAIR_LAG 0).set R.PAIR_RESYNC_LEFT 0).pr = v.pr from rfl, pr]
  · rw [State.dropRole_get]
    exact (set (by decide) (by decide) (by decide) (by decide)).trans ((told.side.fields _ (by simp [sideFields])).trans conflict)
  · rw [State.bit, State.dropRole_get]
    refine (congrArg (bitOf · i) (set (by decide) (by decide) (by decide) (by decide))).trans ?_
    exact (congrArg (bitOf · i) (told.side.fields _ (by simp [sideFields]))).trans (raw i hi h)

/-- What a change set discarded leaves of the roles: all of them. -/
structure RolesStay (s t : State) : Prop where
  pr : t.side = s.side
  unacked : s.get R.PAIR_ROLE ≠ 1 → t.pr.unacked = s.pr.unacked
  fields : spares [R.PAIR_ROLE, R.PAIR_SYNC, R.PAIR_PAIR_EN, R.PAIR_CLAIM_CONFLICT, R.PAIR_CMD_RESULT, R.BLK_INT_RAW pgPAIR] s t

theorem RolesStay.trans {s t u : State} (h : RolesStay s t) (k : RolesStay t u) : RolesStay s u :=
  ⟨k.pr.trans h.pr, fun role => (k.unacked (by rw [h.fields _ (by simp)]; exact role)).trans (h.unacked role), h.fields.trans k.fields⟩

theorem SideKept.roles {s t : State} (h : SideKept s t) : RolesStay s t :=
  ⟨h.pr, h.unacked, h.fields.mono (by simp [sideFields])⟩

/-- A change set discarded. -/
theorem State.discardChange_spec (s : State) : RolesStay s s.discardChange ∧ s.discardChange.hq.staged = s.hq.staged ∧ s.discardChange.hq.held = s.hq.held ∧
    (s.get R.GATE_STATE ≠ 5 → s.discardChange.get R.GATE_STATE = 0 ∧ s.discardChange.gt.set = []) := by
  have calm := s.discardChange_calm
  by_cases done : s.get R.GATE_STATE = 5
  · rw [if_pos done] at calm
    exact ⟨calm.side.roles, calm.staged, calm.held, fun other => absurd done other⟩
  · rw [if_neg done] at calm
    have idle : RolesStay s s.gateIdle := ⟨rfl, fun _ => rfl, .update (t := s.set R.GATE_STATE 0) (.set .refl (by decide)) rfl⟩
    refine ⟨idle.trans calm.side.roles, calm.staged, calm.held, fun _ => ⟨?_, calm.side.set⟩⟩
    exact (calm.side.fields _ (by simp [sideFields])).trans ((s.get_set_same R.GATE_STATE 0).trans (Nat.zero_mod _))

theorem State.roleEnded_spec (s : State) : RolesStay s.roleLost s.roleEnded ∧ s.roleEnded.hq.staged = [] ∧ s.roleEnded.hq.held = [] ∧
    (∀ k, (s.roleEnded.ctx k).cmd = none) ∧ s.roleEnded.mode = s.mode := by
  have side := s.roleLost.endAllCommands_side
  obtain ⟨staged, held⟩ := s.roleLost.endAllCommands_queues
  have free := s.roleLost.endAllCommands_free
  have mode : s.roleLost.endAllCommands.mode = s.mode := (Steady.endAllCommands Steady.refl).mode.trans s.roleLost_spec.2.2.1
  unfold State.roleEnded
  generalize s.roleLost.endAllCommands = v at *
  have fences := v.dropFences_calm
  have idle : ∀ k, (v.dropFences.ctx k).cmd = none := fun k => by
    rw [v.dropFences_cmd]
    exact free k
  have mode' : v.dropFences.mode = v.mode := rfl
  generalize v.dropFences = w at *
  obtain ⟨roles, staged', held', -⟩ := w.discardChange_spec
  have steady : Steady w w.discardChange := .discardChange .refl
  exact ⟨(side.roles.trans fences.side.roles).trans roles, staged'.trans (fences.staged.trans staged), held'.trans (fences.held.trans held),
    fun k => steady.idle k (idle k), steady.mode.trans (mode'.trans mode)⟩

/-- What giving the active role up leaves. -/
theorem State.demote_spec (s : State) : RolesStay s.roleLost s.demote ∧ s.demote.hq.staged = [] ∧ s.demote.hq.held = [] ∧
    (∀ k, (s.demote.ctx k).cmd = none) ∧ (s.mode ≠ .responded → s.demote.mode = .shadow) := by
  obtain ⟨roles, staged, held, free, mode⟩ := s.roleEnded_spec
  rw [State.demote_eq, mode]
  generalize s.roleEnded = v at *
  split
  · next responded => exact ⟨roles, staged, held, free, fun other => absurd responded other⟩
  · have calm : Calm v (v.enterMode .shadow) := .enterMode .refl
    refine ⟨roles.trans calm.side.roles, calm.staged.trans staged, calm.held.trans held, fun k => ?_, fun _ => v.enterMode_mode _⟩
    exact (Steady.enterMode (s := { v with mode := .shadow }) .refl).idle k (free k)

theorem State.demote_side (s : State) : s.demote.side = s.dropRole.side := by
  rw [s.demote_spec.1.pr, State.side, s.roleLost_spec.2.1]; rfl

/-- The pair's state from what of it the roles keep. -/
theorem State.pr_of_side {t : State} {p : Pair} (h : t.side = p) :
    t.pr = { p with takeAt := t.pr.takeAt, heldSync := t.pr.heldSync, unacked := t.pr.unacked } := by
  rw [← h]; rfl

theorem State.demote_role (s : State) : s.demote.get R.PAIR_ROLE = 2 := (s.demote_spec.1.fields _ (by simp)).trans s.roleLost_spec.1

theorem healthOut_low {s : State} (kept : s.pr.kept = none) (low : s.pr.healthLow = true) : s.healthOut = false := by
  rw [State.healthOut, kept, low]
  simp

theorem execDemote_gives_up {s : State} (active : s.get R.PAIR_ROLE = 1) (unfit : s.fit = false) (mode : s.mode ≠ .maintenance) (kept : s.pr.kept = none) :
    ∃ t, exec .demote s = .next t ∧ t.get R.PAIR_ROLE = 2 ∧ t.pr.claimOut = false ∧ t.pr.unacked = [] ∧ t.hq.staged = [] ∧ t.hq.held = [] ∧
      (∀ k, (t.ctx k).cmd = none) ∧ (s.mode ≠ .responded → t.mode = .shadow) := by
  obtain ⟨roles, staged, held, free, shadow⟩ := s.demote_spec
  obtain ⟨role, pr, -⟩ := s.roleLost_spec
  refine ⟨s.demote, if_pos ⟨active, by simp [unfit], mode, kept⟩, s.demote_role, ?_, ?_, staged, held, free, shadow⟩
  · rw [State.pr_of_side s.demote_side]; rfl
  · rw [roles.unacked (by rw [role]; decide), pr]; rfl

theorem execDemote_stays {s : State} (h : s.fit = true ∨ s.mode = .maintenance) : exec .demote s = .next s :=
  if_neg fun ⟨_, unfit, mode, _⟩ => h.elim unfit mode

/-! ## Claims (R338, R339) -/

/-- The module active, before what its mode and a takeover do. -/
def State.activated (s : State) : State := { s.set R.PAIR_ROLE 1 with pr.waiting := false }

theorem State.becomeActive_claims {s : State} (h : s.pr.taking = none) : s.becomeActive = s.activated.enterMode s.activated.servingMode := by
  unfold State.becomeActive
  dsimp only
  split
  · rfl
  · next t e => exact nomatch h.symm.trans e

/-- The takeover's record gone. -/
def State.takeoverOver (s : State) : State := { s with pr.taking := none, pr.handed := false }

/-- The partitions that drain frozen, as a takeover ends. -/
def State.drainsFrozen (s : State) : State := (s.parts.filter fun e => e.2.pstate == .draining).foldl (fun s e => s.freezePart e.1) s

/-- The standby's SYNC and the times of a takeover that is done. -/
def State.takeoverTold (s : State) (handed : Bool) (t : Nat) : State :=
  let s := ((s.countSat R.PAIR_TAKEOVER_CNT).set R.PAIR_SYNC (if handed then 2 else 0)).raise pgPAIR 0
  s.set R.PAIR_TAKEOVER_US (min 65535 ((s.quartz - t) / 1000))

/-- A takeover's last steps: the roles are those the change set's end leaves, with the takeover told. -/
theorem State.becomeActive_takes {s : State} {t : Nat} (h : s.pr.taking = some t) :
    ∃ v, SideKept s.activated.discardChange.takeoverOver v ∧ s.becomeActive = v.takeoverTold s.pr.handed t := by
  have frozen : ∀ u : State, SideKept u u.drainsFrozen := fun u => .foldl .refl fun v e => v.freezePart_side e.1
  have told : ∀ (u : State) (m : Mode), SideKept u ((u.enterMode m).severity 3) := fun u m => (Calm.severity (.enterMode .refl)).side
  refine ⟨_, (frozen _).trans (told _ (if s.activated.discardChange.takeoverOver.drainsFrozen.partnerByte 9 = 1 then .bare else .service)), ?_⟩
  unfold State.becomeActive
  dsimp only
  split
  · next e => exact nomatch e.symm.trans h
  · next u e =>
    cases (e.symm.trans h : some u = some t)
    rfl

theorem State.takeoverTold_spec (s : State) (handed : Bool) (t : Nat) : (s.takeoverTold handed t).get R.PAIR_SYNC = (if handed then 2 else 0) ∧
    (s.takeoverTold handed t).bit (R.BLK_INT_RAW pgPAIR) 0 = true ∧ (s.takeoverTold handed t).pr = s.pr ∧ (s.takeoverTold handed t).gt = s.gt ∧
    (∀ f ∈ [R.PAIR_ROLE, R.GATE_STATE], (s.takeoverTold handed t).get f = s.get f) := by
  have sync : ((s.countSat R.PAIR_TAKEOVER_CNT).set R.PAIR_SYNC (if handed then 2 else 0)).get R.PAIR_SYNC = (if handed then 2 else 0) :=
    State.get_set_fits _ (by split <;> decide)
  have others : ∀ f ∈ [R.PAIR_ROLE, R.GATE_STATE], ((s.countSat R.PAIR_TAKEOVER_CNT).set R.PAIR_SYNC (if handed then 2 else 0)).get f = s.get f :=
    spares.set (spares.set .refl (by decide)) (by decide)
  have pr : ((s.countSat R.PAIR_TAKEOVER_CNT).set R.PAIR_SYNC (if handed then 2 else 0)).pr = s.pr := rfl
  have gt : ((s.countSat R.PAIR_TAKEOVER_CNT).set R.PAIR_SYNC (if handed then 2 else 0)).gt = s.gt := rfl
  unfold State.takeoverTold
  dsimp only
  generalize (s.countSat R.PAIR_TAKEOVER_CNT).set R.PAIR_SYNC (if handed then 2 else 0) = v at *
  refine ⟨?_, ?_, ?_, ?_, fun f hf => ?_⟩
  · rw [State.get_set_ne _ _ _ _ (by decide), State.raise_get_ne _ _ _ _ (by decide), sync]
  · rw [State.bit, State.get_set_ne _ _ _ _ (by decide)]
    exact v.raise_bit pgPAIR (by decide)
  · exact (v.raise_pr pgPAIR 0).trans pr
  · refine Eq.trans ?_ gt
    show (v.raise pgPAIR 0).gt = v.gt
    rw [(v.raise_onlyFields pgPAIR 0).2.2]
  · refine .trans ?_ (others f hf)
    exact spares.set (spares.raise .refl (by decide)) (by decide) f hf

/-- What becoming active leaves of the roles. -/
theorem State.becomeActive_spec (s : State) : s.becomeActive.get R.PAIR_ROLE = 1 ∧ s.becomeActive.pr.taking = none ∧
    s.becomeActive.pr.claimOut = s.pr.claimOut ∧ s.becomeActive.pr.waiting = false := by
  have role : s.activated.get R.PAIR_ROLE = 1 := (s.get_set_same R.PAIR_ROLE 1).trans rfl
  cases h : s.pr.taking with
  | none =>
    rw [State.becomeActive_claims h]
    have calm : Calm s.activated (s.activated.enterMode s.activated.servingMode) := .enterMode .refl
    have pr := State.pr_of_side calm.side.pr
    generalize s.activated.enterMode s.activated.servingMode = v at *
    refine ⟨(calm.side.fields _ (by simp [sideFields])).trans role, ?_, ?_, ?_⟩
    all_goals rw [pr]
    · exact h
    · rfl
    · rfl
  | some t =>
    obtain ⟨v, side, run⟩ := State.becomeActive_takes h
    have dropped := s.activated.discardChange_spec.1
    obtain ⟨-, -, pr', -, fields⟩ := v.takeoverTold_spec s.pr.handed t
    rw [run]
    generalize v.takeoverTold s.pr.handed t = w at *
    have before := State.pr_of_side dropped.pr
    have after := State.pr_of_side side.pr
    have roles : s.activated.discardChange.takeoverOver.get R.PAIR_ROLE = 1 := (dropped.fields _ (by simp)).trans role
    generalize s.activated.discardChange = u at *
    refine ⟨(fields _ (by simp)).trans ((side.fields _ (by simp [sideFields])).trans roles), ?_, ?_, ?_⟩
    · rw [pr', after]; rfl
    · rw [pr', after]
      show u.pr.claimOut = s.pr.claimOut
      rw [before]; rfl
    · rw [pr', after]
      show u.pr.waiting = false
      rw [before]; rfl

theorem State.activated_servingMode (s : State) : s.activated.servingMode = s.servingMode := by
  have enrolled : s.activated.enrolled = s.enrolled := congrArg (· == 1) (s.get_set_ne R.PAIR_ROLE R.FVL0_ENROLLED 1 (by decide))
  unfold State.servingMode
  rw [enrolled]
  rfl

/-- The claim withdrawn. -/
theorem State.withdraw_claim (s : State) : s.withdraw.pr.claimOut = false := by
  have calm : Calm s.claimWithdrawn s.withdraw := Calm.settleTake (Calm.enterMode .refl)
  rw [State.pr_of_side calm.side.pr]; rfl

section
variable {s : State} (claims : s.get R.PAIR_ROLE = 3) (due : s.pr.claimAt + 2000 ≤ s.quartz)
include claims due

theorem execClaimTie_free (free : s.pr.claimIn = false) : exec .claimTie s = .next s.becomeActive := by
  show execClaimTie s = _
  unfold execClaimTie
  rw [if_neg (by simp [claims, due]), if_pos (by simp [free])]

theorem execClaimTie_ties (tie : s.pr.claimIn = true) : exec .claimTie s = if s.isMarkA then .next { s with pr := { s.pr with waiting := true } } else .next s.withdraw := by
  show execClaimTie s = _
  unfold execClaimTie
  rw [if_neg (by simp [claims, due]), if_neg (by simp [tie])]

theorem execClaimTie_tie (tie : s.pr.claimIn = true) : ∃ t, exec .claimTie s = .next t ∧
    (if s.isMarkA then t = { s with pr := { s.pr with waiting := true } } else t.get R.PAIR_ROLE = 2 ∧ t.pr.claimOut = false ∧ t.mode = .shadow) := by
  by_cases mark : s.isMarkA = true
  · exact ⟨_, (execClaimTie_ties claims due tie).trans (if_pos mark), by rw [if_pos mark]⟩
  · obtain ⟨mode, role, -⟩ := s.withdraw_spec
    refine ⟨_, (execClaimTie_ties claims due tie).trans (if_neg mark), ?_⟩
    rw [if_neg mark]
    exact ⟨role, s.withdraw_claim, mode⟩

theorem execClaimTie_active (free : s.pr.claimIn = false) : ∃ t, exec .claimTie s = .next t ∧ t.get R.PAIR_ROLE = 1 ∧ t.pr.taking = none ∧
    (s.pr.taking = none → t.mode = s.servingMode) ∧ t.pr.claimOut = s.pr.claimOut := by
  obtain ⟨role, taking, claim, -⟩ := s.becomeActive_spec
  refine ⟨_, execClaimTie_free claims due free, role, taking, fun none => ?_, claim⟩
  rw [State.becomeActive_claims none, State.enterMode_mode, s.activated_servingMode]

theorem execClaimTie_takes {t0 : Nat} (taking : s.pr.taking = some t0) (free : s.pr.claimIn = false) :
    ∃ t, exec .claimTie s = .next t ∧ t.get R.PAIR_SYNC = (if s.pr.handed then 2 else 0) ∧ t.pr.handed = false ∧
      (s.get R.GATE_STATE ≠ 5 → t.get R.GATE_STATE = 0 ∧ t.gt.set = []) ∧ t.bit (R.BLK_INT_RAW pgPAIR) 0 = true := by
  obtain ⟨v, side, run⟩ := State.becomeActive_takes taking
  obtain ⟨-, -, -, dropped⟩ := s.activated.discardChange_spec
  obtain ⟨sync, raised, pr, gt, fields⟩ := v.takeoverTold_spec s.pr.handed t0
  refine ⟨_, (execClaimTie_free claims due free).trans (congrArg _ run), sync, ?_, fun open_ => ?_, raised⟩
  · rw [pr, State.pr_of_side side.pr]; rfl
  · have state : s.activated.get R.GATE_STATE = s.get R.GATE_STATE := s.get_set_ne R.PAIR_ROLE R.GATE_STATE 1 (by decide)
    obtain ⟨idle, none⟩ := dropped (by rw [state]; exact open_)
    refine ⟨(fields _ (by simp)).trans ((side.fields _ (by simp [sideFields])).trans idle), ?_⟩
    rw [gt, side.set]
    exact none

end

theorem execStuckClaim_tells {s : State} (waits : s.pr.waiting = true) (claim : s.pr.claimIn = true) (due : s.pr.claimAt + 102000 ≤ s.quartz)
    (first : s.pr.stuck = false) : ∃ t, exec .stuckClaim s = .next t ∧ t.get R.PAIR_STUCK_CLAIM = 1 ∧ raised pgPAIR [6] s t ∧ t.pr = { s.pr with stuck := true } ∧
      onlyFields [R.PAIR_STUCK_CLAIM, R.BLK_INT_RAW pgPAIR] s { t with pr := s.pr } := by
  have stuck : (s.set R.PAIR_STUCK_CLAIM 1).get R.PAIR_STUCK_CLAIM = 1 := (s.get_set_same R.PAIR_STUCK_CLAIM 1).trans rfl
  have only := onlyFields_set s R.PAIR_STUCK_CLAIM 1
  have off : ∀ i, (s.set R.PAIR_STUCK_CLAIM 1).bit (R.BLK_INT_RAW pgPAIR) i = s.bit (R.BLK_INT_RAW pgPAIR) i := fun i =>
    congrArg (bitOf · i) (s.get_set_ne _ _ _ (by decide))
  have pr : (s.set R.PAIR_STUCK_CLAIM 1).pr = s.pr := rfl
  refine ⟨_, if_pos ⟨waits, claim, due, first⟩, ?_⟩
  generalize s.set R.PAIR_STUCK_CLAIM 1 = v at *
  have told := v.raise_raised pgPAIR 6
  have other := v.raise_get_ne pgPAIR 6 R.PAIR_STUCK_CLAIM (by decide)
  have sent := onlyFields_trans only (v.raise_onlyFields pgPAIR 6)
  have pr' := (v.raise_pr pgPAIR 6).trans pr
  generalize v.raise pgPAIR 6 = w at *
  refine ⟨other.trans stuck, fun j hj => (told j hj).trans (by rw [off]), congrArg (fun p : Pair => { p with stuck := true }) pr', ?_⟩
  rw [← pr']
  exact sent

/-- A conflict told. -/
def State.conflictTold (s : State) : State := { (s.set R.PAIR_CLAIM_CONFLICT 1).raise pgPAIR 6 with pr.told := true }

theorem State.conflictTold_spec (s : State) : s.conflictTold.get R.PAIR_CLAIM_CONFLICT = 1 ∧ s.conflictTold.bit (R.BLK_INT_RAW pgPAIR) 6 = true ∧
    s.conflictTold.get R.PAIR_ROLE = s.get R.PAIR_ROLE ∧ s.conflictTold.pr = { s.pr with told := true } := by
  have told : (s.set R.PAIR_CLAIM_CONFLICT 1).get R.PAIR_CLAIM_CONFLICT = 1 := (s.get_set_same R.PAIR_CLAIM_CONFLICT 1).trans rfl
  have role : (s.set R.PAIR_CLAIM_CONFLICT 1).get R.PAIR_ROLE = s.get R.PAIR_ROLE := s.get_set_ne _ _ _ (by decide)
  have pr : (s.set R.PAIR_CLAIM_CONFLICT 1).pr = s.pr := rfl
  unfold State.conflictTold
  generalize s.set R.PAIR_CLAIM_CONFLICT 1 = v at *
  refine ⟨(v.raise_get_ne pgPAIR 6 R.PAIR_CLAIM_CONFLICT (by decide)).trans told, v.raise_bit pgPAIR (by decide),
    (v.raise_get_ne pgPAIR 6 R.PAIR_ROLE (by decide)).trans role, ?_⟩
  exact congrArg (fun p : Pair => { p with told := true }) ((v.raise_pr pgPAIR 6).trans pr)

theorem execClaimConflict_acts {s : State} {t0 : Nat} (since : s.pr.conflictAt = some t0) (active : s.get R.PAIR_ROLE = 1) (claim : s.pr.claimIn = true)
    (due : t0 + 2000 ≤ s.quartz) (acts : s.pr.told = false ∨ (s.isMarkA = false ∧ s.mode ≠ .maintenance)) :
    exec .claimConflict s = .next (if s.isMarkA || s.mode == .maintenance then s.conflictTold
      else ({ s.conflictTold.demote with pr := { s.conflictTold.demote.pr with healthLow := true } } : State).settleTake) := by
  show execClaimConflict s = _
  unfold execClaimConflict State.conflictTold
  rw [since]
  dsimp only
  rw [if_neg]
  rintro (passive | none | early | ⟨told, stays⟩)
  · exact passive active
  · simp [claim] at none
  · exact absurd due (not_le.mpr early)
  · rcases acts with fresh | ⟨mark, mode⟩
    · simp [fresh] at told
    · simp [mark, mode] at stays

theorem execClaimConflict_spec {s : State} {t0 : Nat} (since : s.pr.conflictAt = some t0) (active : s.get R.PAIR_ROLE = 1) (claim : s.pr.claimIn = true)
    (due : t0 + 2000 ≤ s.quartz) (acts : s.pr.told = false ∨ (s.isMarkA = false ∧ s.mode ≠ .maintenance)) :
    ∃ t, exec .claimConflict s = .next t ∧ t.get R.PAIR_CLAIM_CONFLICT = 1 ∧ t.bit (R.BLK_INT_RAW pgPAIR) 6 = true ∧
      (s.isMarkA = true ∨ s.mode = .maintenance → t.get R.PAIR_ROLE = 1) ∧
      (s.isMarkA = false → s.mode ≠ .maintenance → t.get R.PAIR_ROLE = 2 ∧ t.pr.claimOut = false ∧ (s.pr.kept = none → t.healthOut = false)) := by
  obtain ⟨conflict, raised, role, pr⟩ := s.conflictTold_spec
  refine ⟨_, execClaimConflict_acts since active claim due acts, ?_⟩
  by_cases stays : (s.isMarkA || s.mode == .maintenance) = true
  · rw [if_pos stays]
    refine ⟨conflict, raised, fun _ => role.trans active, fun mark mode => ?_⟩
    simp [mark, mode] at stays
  · rw [if_neg stays]
    generalize s.conflictTold = v at *
    obtain ⟨-, -, -, conflict', raw⟩ := v.roleLost_spec
    have fields := v.demote_spec.1.fields
    have demoted := v.demote_role
    have side := State.pr_of_side v.demote_side
    generalize v.demote = w at *
    have settled := ({ w with pr := { w.pr with healthLow := true } } : State).settleTake_spec
    have get : ∀ f, (({ w with pr := { w.pr with healthLow := true } } : State).settleTake).get f = w.get f := fun f => State.settleTake_get _ f
    have out : (({ w with pr := { w.pr with healthLow := true } } : State).settleTake).pr.claimOut = false ∧
        (({ w with pr := { w.pr with healthLow := true } } : State).settleTake).pr.kept = s.pr.kept ∧
        (({ w with pr := { w.pr with healthLow := true } } : State).settleTake).pr.healthLow = true := by
      rw [settled]
      refine ⟨?_, ?_, rfl⟩
      · show w.pr.claimOut = false
        rw [side]; rfl
      · show w.pr.kept = s.pr.kept
        rw [side]
        show v.pr.kept = s.pr.kept
        rw [pr]
    obtain ⟨out, kept, low⟩ := out
    refine ⟨(get _).trans ((fields _ (by simp)).trans (conflict'.trans conflict)), ?_, fun stay => ?_, fun _ _ => ⟨(get _).trans demoted, out, fun none => ?_⟩⟩
    · rw [State.bit, get, ← State.bit, fields.bit (by simp)]
      exact raw 6 (by decide) raised
    · exact absurd (by simpa using stay) stays
    · exact healthOut_low (kept.trans none) low

/-! ## Health and the interlock's inputs (R340, R345) -/

theorem execHostloss_loses {s : State} {t0 : Nat} (down : s.pr.hostDown = some t0) (enabled : s.get R.PAIR_HOSTLOSS_EN ≠ 0) (due : t0 + 1000000 ≤ s.quartz) :
    ∃ t, exec .hostloss s = .next t ∧ t.pr.hostLost = true ∧ (s.pr.kept = none → t.healthOut = false) ∧ t.regs = s.regs := by
  have run : exec .hostloss s = .next ({ s with pr := { s.pr with hostLost := true } } : State).settleTake := by
    show execHostloss s = _
    unfold execHostloss
    rw [down]
    exact if_neg (by simp [enabled, due])
  refine ⟨_, run, ?_⟩
  have one : s.get R.PAIR_HOSTLOSS_EN = 1 := by
    have : s.get R.PAIR_HOSTLOSS_EN < 2 := Nat.mod_lt _ (by decide)
    omega
  rw [State.settleTake_spec]
  refine ⟨rfl, fun none => ?_, rfl⟩
  have lost : ∀ v : State, v.pr.hostLost = true → v.get R.PAIR_HOSTLOSS_EN = 1 → v.pr.kept = .none → v.healthOut = false := fun v lost en kept => by
    rw [State.healthOut, kept, State.fit, lost, en]
    simp
  exact lost _ rfl one none

/-- The interlock's inputs at their new levels. -/
def State.inputsTaken (s : State) (claimIn healthIn : Bool) : State :=
  let conflict := if claimIn ∧ s.get R.PAIR_ROLE = 1 then some (s.pr.conflictAt.getD s.quartz) else none
  { s with pr := { s.pr with claimIn, healthIn, conflictAt := conflict, told := s.pr.told && conflict.isSome,
                             healthLow := s.pr.healthLow && !claimIn && !s.pr.claimIn } }

theorem execInterlockInputChange_eq (c h : Bool) (s : State) : exec (.interlockInputChange c h) s =
    if s.pr.waiting = true ∧ ¬c = true then .next (s.inputsTaken c h).becomeActive else .next (s.inputsTaken c h).settleTake := rfl

theorem execInterlockInputChange_settles (c h : Bool) {s : State} (stays : s.pr.waiting = false ∨ c = true) :
    ∃ t, exec (.interlockInputChange c h) s = .next t ∧ t.pr.claimIn = c ∧ t.pr.healthIn = h ∧ t.regs = s.regs ∧ t.mode = s.mode := by
  refine ⟨_, (execInterlockInputChange_eq c h s).trans (if_neg fun ⟨waits, gone⟩ => stays.elim (by simp [waits]) gone), ?_⟩
  rw [State.settleTake_spec]
  exact ⟨rfl, rfl, rfl, rfl⟩

theorem execInterlockInputChange_activates (h : Bool) {s : State} (waits : s.pr.waiting = true) :
    ∃ t, exec (.interlockInputChange false h) s = .next t ∧ t.get R.PAIR_ROLE = 1 ∧ t.pr.waiting = false := by
  obtain ⟨role, -, -, waiting⟩ := (s.inputsTaken false h).becomeActive_spec
  exact ⟨_, (execInterlockInputChange_eq false h s).trans (if_pos ⟨waits, by decide⟩), role, waiting⟩

/-! ## Takeover and handover (R345-R347) -/

/-- A takeover started: the claim stands. -/
theorem State.startTakeover_spec (s : State) : s.startTakeover.get R.PAIR_ROLE = 3 ∧ s.startTakeover.pr.claimOut = true ∧
    s.startTakeover.pr.claimAt = s.quartz ∧ s.startTakeover.pr.taking = some s.quartz ∧ keeps [R.PAIR_ROLE] s s.startTakeover :=
  ⟨(s.get_set_same R.PAIR_ROLE 3).trans rfl, rfl, rfl, rfl, keeps_set s R.PAIR_ROLE 3⟩

section
variable {s : State} {t0 : Nat} (since : s.pr.takeAt = some t0) (may : s.mayTake = true) (standby : s.get R.PAIR_ROLE = 2) (due : t0 + 200000 ≤ s.quartz)
include since may standby due

theorem execTakeover_due : exec .takeover s = if s.syncAllows then .next s.startTakeover else if s.pr.heldSync then .next s
    else .next (({ s with pr := { s.pr with heldSync := true } } : State).raise pgPAIR 5) := by
  show execTakeover s = _
  unfold execTakeover
  rw [since]
  dsimp only
  rw [if_neg (by simp [may, standby, due])]

theorem execTakeover_starts (sync : s.syncAllows = true) : ∃ t, exec .takeover s = .next t ∧ t.get R.PAIR_ROLE = 3 ∧ t.pr.claimOut = true ∧
    t.pr.claimAt = s.quartz ∧ t.pr.taking = some s.quartz ∧ keeps [R.PAIR_ROLE] s t :=
  ⟨_, (execTakeover_due since may standby due).trans (if_pos sync), s.startTakeover_spec⟩

theorem execTakeover_holds (sync : s.syncAllows = false) (fresh : s.pr.heldSync = false) :
    ∃ t, exec .takeover s = .next t ∧ t.pr.heldSync = true ∧ raised pgPAIR [5] s t ∧ t.get R.PAIR_ROLE = 2 := by
  refine ⟨_, (execTakeover_due since may standby due).trans ((if_neg (by simp [sync])).trans (if_neg (by simp [fresh]))), ?_, ?_, ?_⟩
  · rw [State.raise_pr]
  · exact ({ s with pr := { s.pr with heldSync := true } } : State).raise_raised pgPAIR 5
  · exact (State.raise_get_ne _ _ _ _ (by decide)).trans standby

end

theorem execTakeover_stays {s : State} (h : s.pr.takeAt = none ∨ s.mayTake = false) : exec .takeover s = .next s := by
  show execTakeover s = _
  unfold execTakeover
  split
  · rfl
  · next t0 e =>
    refine if_pos (.inl ?_)
    rcases h with none | may
    · exact nomatch none.symm.trans e
    · simp [may]

theorem execTake_spec {s : State} (on : s.responds pgPAIR = true) : ∃ t, exec .take s = .next t ∧
    (if s.pr.heldSync = true ∧ s.mayTake = true ∧ s.get R.PAIR_ROLE = 2
      then t.get R.PAIR_CMD_RESULT = 1 ∧ t.get R.PAIR_ROLE = 3 ∧ t.pr.claimOut = true else t.get R.PAIR_CMD_RESULT = 2 ∧ t.pr = s.pr) := by
  have run : exec .take s = if s.pr.heldSync = true ∧ s.mayTake = true ∧ s.get R.PAIR_ROLE = 2 then .next (s.set R.PAIR_CMD_RESULT 1).startTakeover
      else .next (s.set R.PAIR_CMD_RESULT 2) := by
    show execTake s = _
    unfold execTake
    rw [if_neg (by simp [on])]
  by_cases held : s.pr.heldSync = true ∧ s.mayTake = true ∧ s.get R.PAIR_ROLE = 2
  · obtain ⟨role, claim, -⟩ := (s.set R.PAIR_CMD_RESULT 1).startTakeover_spec
    refine ⟨_, run.trans (if_pos held), ?_⟩
    rw [if_pos held]
    refine ⟨?_, role, claim⟩
    exact ((s.set R.PAIR_CMD_RESULT 1).get_set_ne R.PAIR_ROLE R.PAIR_CMD_RESULT 3 (by decide)).trans ((s.get_set_same R.PAIR_CMD_RESULT 1).trans rfl)
  · refine ⟨_, run.trans (if_neg held), ?_⟩
    rw [if_neg held]
    exact ⟨(s.get_set_same R.PAIR_CMD_RESULT 2).trans rfl, rfl⟩

theorem execRelinquish_spec {s : State} (on : s.responds pgPAIR = true) : ∃ t, exec .relinquish s = .next t ∧
    (if s.get R.PAIR_ROLE = 1 ∧ s.partnerByte 9 = 4 ∧ s.partnerByte 14 = 2 ∧ s.get R.PAIR_SYNC = 2 ∧ s.pr.healthIn = true
     then t.get R.PAIR_CMD_RESULT = 1 ∧ t.pr.relinquishing = true ∧ t.fetchStopped = true else t.get R.PAIR_CMD_RESULT = 2 ∧ t.pr = s.pr) ∧
    keeps [R.PAIR_CMD_RESULT] s t := by
  have run : exec .relinquish s = if s.get R.PAIR_ROLE = 1 ∧ s.partnerByte 9 = 4 ∧ s.partnerByte 14 = 2 ∧ s.get R.PAIR_SYNC = 2 ∧ s.pr.healthIn = true then
      .next { s.set R.PAIR_CMD_RESULT 1 with pr := { s.pr with relinquishing := true } } else .next (s.set R.PAIR_CMD_RESULT 2) := by
    show execRelinquish s = _
    unfold execRelinquish
    rw [if_neg (by simp [on])]
    rfl
  by_cases may : s.get R.PAIR_ROLE = 1 ∧ s.partnerByte 9 = 4 ∧ s.partnerByte 14 = 2 ∧ s.get R.PAIR_SYNC = 2 ∧ s.pr.healthIn = true
  · refine ⟨_, run.trans (if_pos may), ?_, keeps_set s R.PAIR_CMD_RESULT 1⟩
    rw [if_pos may]
    refine ⟨(s.get_set_same R.PAIR_CMD_RESULT 1).trans rfl, rfl, ?_⟩
    simp [State.fetchStopped]
  · refine ⟨_, run.trans (if_neg may), ?_, keeps_set s R.PAIR_CMD_RESULT 2⟩
    rw [if_neg may]
    exact ⟨(s.get_set_same R.PAIR_CMD_RESULT 2).trans rfl, rfl⟩

/-- The active role handed over: outputs low. -/
def State.handedOver (s : State) : State :=
  { s.set R.PAIR_ROLE 2 with pr := { s.pr with relinquishing := false, claimOut := false, healthLow := true, conflictAt := none, told := false } }

theorem State.tellPartner_out {s : State} {k : Nat} (o : Nat → Output) (link : s.pairLink = some k) : o k ∈ (s.tellPartner o).out := by
  have up : s.linkUp k = true := List.find?_some link
  unfold State.tellPartner State.tellOn State.sendOn
  rw [link]
  dsimp only
  rw [if_pos (by simp [up])]
  exact List.mem_append_right _ (List.mem_singleton_self _)

theorem execRelinquishDrained_hands {s : State} (begun : s.pr.relinquishing = true) (mode : s.mode ≠ .maintenance) (staged : s.hq.staged = [])
    (idle : s.running = []) (fwd : s.hq.fwdOut = []) (held : s.hq.held = []) :
    ∃ t, exec .relinquishDrained s = .next t ∧ t.get R.PAIR_ROLE = 2 ∧ t.pr.claimOut = false ∧ (s.pr.kept = none → t.healthOut = false) ∧ t.mode = .shadow ∧
      (∀ k, s.pairLink = some k → .handover k ∈ t.out) ∧ t.pr.relinquishing = false ∧ t.get R.PAIR_SYNC = s.get R.PAIR_SYNC := by
  have run : exec .relinquishDrained s = .next ((s.tellPartner fun k => .handover k).handedOver.enterMode .shadow) :=
    if_pos ⟨begun, mode, by simp [staged], by simp [idle], by simp [fwd], by simp [held]⟩
  have told : Calm s (s.tellPartner fun k => .handover k) := .tellOn .refl
  have sent := fun k (link : s.pairLink = some k) => State.tellPartner_out (fun k => .handover k) link
  refine ⟨_, run, ?_⟩
  clear run
  generalize (s.tellPartner fun k => .handover k) = v at *
  have role : v.handedOver.get R.PAIR_ROLE = 2 := (v.get_set_same R.PAIR_ROLE 2).trans rfl
  have sync : v.handedOver.get R.PAIR_SYNC = v.get R.PAIR_SYNC := v.get_set_ne R.PAIR_ROLE R.PAIR_SYNC 2 (by decide)
  have entered : Calm v.handedOver (v.handedOver.enterMode .shadow) := .enterMode .refl
  have shadow := v.handedOver.enterMode_mode .shadow
  have pr := State.pr_of_side entered.side.pr
  have before := State.pr_of_side told.side.pr
  generalize v.handedOver.enterMode .shadow = t at *
  have kept : t.pr.kept = s.pr.kept := by
    rw [pr]
    show v.pr.kept = s.pr.kept
    rw [before]; rfl
  refine ⟨(entered.side.fields _ (by simp [sideFields])).trans role, by rw [pr]; rfl, fun none => healthOut_low (kept.trans none) (by rw [pr]; rfl), shadow,
    fun k link => entered.out _ (sent k link), by rw [pr]; rfl, ?_⟩
  exact (entered.side.fields _ (by simp [sideFields])).trans (sync.trans (told.side.fields _ (by simp [sideFields])))

theorem execRelinquishDrained_stays {s : State} (mode : s.mode = .maintenance) : exec .relinquishDrained s = .next s :=
  if_neg fun ⟨_, other, _⟩ => other mode

theorem execHandover_takes {s : State} (standby : s.get R.PAIR_ROLE = 2) (mode : s.mode = .shadow) (healthy : s.healthOut = true) :
    ∃ t, exec .handover s = .next t ∧ t.get R.PAIR_ROLE = 3 ∧ t.pr.claimOut = true ∧ t.pr.taking = some s.quartz ∧ t.pr.handed = true :=
  ⟨_, if_pos ⟨standby, mode, healthy⟩, s.startTakeover_spec.1, rfl, rfl, rfl⟩

/-- Settles O45: each command of the interlock by its equation, with what entering a mode, discarding a change and ending every command keep. -/
theorem pairRolesFollowTheInterlock : Obligations.PairRolesFollowTheInterlock := by
  unfold Obligations.PairRolesFollowTheInterlock
  refine ⟨fun s => execClaimTie_active, fun s => execClaimTie_tie, fun s => execStuckClaim_tells, fun t0 s => execClaimConflict_spec,
    fun s => execDemote_gives_up, fun s _ fit => execDemote_stays (.inl fit), fun t0 s => execHostloss_loses, fun c h s => execInterlockInputChange_settles c h,
    fun h s => execInterlockInputChange_activates h, fun t0 s => execTakeover_starts, fun t0 s => execTakeover_holds, fun s => execTake_spec,
    fun s => execRelinquish_spec, fun s => execRelinquishDrained_hands, fun s => execHandover_takes,
    fun t0 s claims taking due free => execClaimTie_takes claims due taking free, fun s h => if_pos h, fun s h => if_neg ?_,
    fun s mode => ⟨execDemote_stays (.inr mode), execRelinquishDrained_stays mode⟩, fun s => execTakeover_stays, fun s off => ⟨if_pos ?_, if_pos ?_⟩⟩
  · rintro ⟨waits, claim, -, first⟩
    rcases h with h | h | h
    · simp [h] at waits
    · simp [h] at claim
    · simp [h] at first
  · simp [off]
  · simp [off]

end Sys2Proof.Machine
end

section
/-! SUPPORT. The pair's reports, self-tests and deltas (R341-R344, R348): what a message to the partner sends, and what a resynchronisation keeps. -/
namespace Sys2Proof.Machine

/-! ## A message to the partner (R352) -/

/-- Flits of link `k` alone are sent. -/
def flitsOf (k : Nat) (s t : State) : Prop := ∃ fs : List (List Byte), t.out = s.out ++ fs.map (Output.flit k)

theorem flitsOf_refl (k : Nat) (s : State) : flitsOf k s s := ⟨[], by simp⟩

theorem flitsOf_sendFlit {k type vc : Nat} {last : Bool} {bs : List Byte} {s t : State} (h : flitsOf k s t) : flitsOf k s (t.sendFlit k type vc last bs) := by
  obtain ⟨fs, out⟩ := h
  have sent : ∃ f, (t.sendFlit k type vc last bs).out = t.out ++ [.flit k f] := by
    unfold State.sendFlit
    dsimp only
    split <;> exact ⟨_, rfl⟩
  obtain ⟨f, sent⟩ := sent
  exact ⟨fs ++ [f], by rw [sent, out]; simp⟩

theorem State.sendOn_told {s : State} {k : Nat} (o : Nat → Output) (up : s.linkUp k = true) : told (some k) o s (s.sendOn k (o k)) := by
  unfold State.sendOn
  dsimp only
  rw [if_pos (by simp [up])]
  obtain ⟨fs, out⟩ := foldl_keeps (flitsOf k s) (fun t (p : List Byte × Nat) => t.sendFlit k (messageKind (o k)).1 (messageKind (o k)).2 (p.2 + 1 ==
    (if (chunks 242 (messageBytes (o k) k (s.link k).txCount)).isEmpty = true then [[]] else chunks 242 (messageBytes (o k) k (s.link k).txCount)).length) p.1)
    (fun t p h => flitsOf_sendFlit h) (if (chunks 242 (messageBytes (o k) k (s.link k).txCount)).isEmpty = true then [[]]
      else chunks 242 (messageBytes (o k) k (s.link k).txCount)).zipIdx (s.cross 28) ⟨[], by simp [State.cross, State.touch]⟩
  exact ⟨fs, congrArg (· ++ [o k]) out⟩

theorem State.tellPartner_told (s : State) (o : Nat → Output) : told s.pairLink o s (s.tellPartner o) := by
  unfold State.tellPartner State.tellOn
  cases link : s.pairLink with
  | none => rfl
  | some k => exact State.sendOn_told o (List.find?_some link)

/-- A link's STATE where nothing writes it. -/
theorem State.pairLink_of_spares {s t : State} (h : spares [R.FVL_STATE 0, R.FVL_STATE 1] s t) : t.pairLink = s.pairLink := by
  have zero := h (R.FVL_STATE 0) (by simp)
  have one := h (R.FVL_STATE 1) (by simp)
  simp only [State.pairLink, State.linkUp, List.find?_cons, List.find?_nil, zero, one]

theorem told_of_out {l : Option Nat} {o : Nat → Output} {s s' t : State} (h : told l o s t) (out : s.out = s'.out) : told l o s' t := by
  cases l with
  | none => exact Eq.trans h out
  | some k =>
    obtain ⟨fs, sent⟩ := h
    exact ⟨fs, by rw [sent, out]⟩

/-- A message to the partner from a state with the partner links and the outputs of another. -/
theorem State.tellPartner_tells {s t : State} (o : Nat → Output) (links : spares [R.FVL_STATE 0, R.FVL_STATE 1] s t) (out : t.out = s.out) :
    told s.pairLink o s (t.tellPartner o) := by
  have sent := told_of_out (t.tellPartner_told o) out
  rwa [State.pairLink_of_spares links] at sent

/-- The pair page's registers lie apart from the partner links' states. -/
theorem linkStates_apart {f : Field} (h : f.key < 32 * 0x71100) : apart [R.FVL_STATE 0, R.FVL_STATE 1] f := by
  intro g hg
  simp only [List.mem_cons, List.not_mem_nil, or_false] at hg
  rcases hg with rfl | rfl <;> simp only [R.FVL_STATE, Field.key] at * <;> omega

theorem spares_of_endView {fs : List Field} {s t : State} (h : t.endView = s.endView) (off : ∀ f ∈ fs, offEnd f = true) : spares fs s t :=
  fun f hf => State.get_of_endView h (off f hf)

/-! ## Health reports (R341) -/

theorem State.fire_links (s : State) (n : Nat) : spares [R.FVL_STATE 0, R.FVL_STATE 1] s (s.fire n) := by
  have unit : s.get (R.QTZ_UNIT n) < 2 ^ 4 := Nat.mod_lt _ (Nat.two_pow_pos 4)
  refine .set .refl (linkStates_apart ?_)
  simp only [R.QTZ_FIRED, Field.key]
  omega

theorem State.healthReport_spec (s : State) : s.healthReport.length = 32 ∧ s.healthReport.take 8 = leBytes 8 Config.serial.toNat := by
  refine ⟨?_, ?_⟩
  · exact fitBytes_length 32 _
  · simp [State.healthReport, fitBytes, leBytes_length, List.take_append]

theorem execHealthReportSend_sends {s : State} (paired : s.get R.PAIR_PAIR_EN ≠ 0) (up : s.booting = false) (unit : s.hasUnit 2 = true)
    (due : s.pr.nextReport ≤ s.quartz) :
    ∃ t r, exec .healthReportSend s = .next t ∧ told s.pairLink (fun k => .healthReport k r) s t ∧ r.length = 32 ∧ t.pr.nextReport = s.quartz + 1000000 ∧
      r.take 8 = leBytes 8 Config.serial.toNat := by
  have run : exec .healthReportSend s =
      .next (({ s.fire 2 with pr := { s.pr with nextReport := s.quartz + 1000000 } } : State).tellPartner fun k => .healthReport k s.healthReport) := by
    exact if_neg (by simp [paired, up, unit, due])
  have links := s.fire_links 2
  have out : (s.fire 2).out = s.out := rfl
  refine ⟨_, s.healthReport, run, ?_, s.healthReport_spec.1, ?_, s.healthReport_spec.2⟩
  · exact State.tellPartner_tells _ (.update (t := s.fire 2) links rfl) out
  · generalize s.fire 2 = v at *
    have calm : Calm _ (({ v with pr := { s.pr with nextReport := s.quartz + 1000000 } } : State).tellPartner fun k => .healthReport k s.healthReport) :=
      .tellOn .refl
    rw [State.pr_of_side calm.side.pr]; rfl

theorem execReportLost_tells {s : State} (paired : s.get R.PAIR_PAIR_EN = 1) (up : s.booting = false) (fresh : s.get R.PAIR_REPORT_LOST = 0)
    (due : s.pr.lastReport + 3000000 ≤ s.quartz) : ∃ t, exec .reportLost s = .next t ∧ t.get R.PAIR_REPORT_LOST = 1 ∧ raised pgPAIR [3] s t ∧
      onlyFields [R.PAIR_REPORT_LOST, R.BLK_INT_RAW pgPAIR] s t := by
  have lost : (s.set R.PAIR_REPORT_LOST 1).get R.PAIR_REPORT_LOST = 1 := (s.get_set_same R.PAIR_REPORT_LOST 1).trans rfl
  have only := onlyFields_set s R.PAIR_REPORT_LOST 1
  have off : ∀ i, (s.set R.PAIR_REPORT_LOST 1).bit (R.BLK_INT_RAW pgPAIR) i = s.bit (R.BLK_INT_RAW pgPAIR) i := fun i =>
    congrArg (bitOf · i) (s.get_set_ne _ _ _ (by decide))
  refine ⟨_, if_pos ⟨paired, up, fresh, due⟩, ?_⟩
  generalize s.set R.PAIR_REPORT_LOST 1 = v at *
  exact ⟨(v.raise_get_ne pgPAIR 3 R.PAIR_REPORT_LOST (by decide)).trans lost, fun j hj => (v.raise_raised pgPAIR 3 j hj).trans (by rw [off]),
    onlyFields_trans only (v.raise_onlyFields pgPAIR 3)⟩

/-! ## A resynchronisation (R348) -/

/-- `t` has what `s` keeps of the partner's report, and the pair's registers. -/
structure Reported (s t : State) : Prop where
  partner : t.pr.partner = s.pr.partner
  lastReport : t.pr.lastReport = s.pr.lastReport
  fields : spares sideFields s t

theorem SideKept.reported {s t : State} (h : SideKept s t) : Reported s t := by
  have pr := State.pr_of_side h.pr
  exact ⟨by rw [pr]; rfl, by rw [pr]; rfl, h.fields⟩

theorem Reported.trans {s t u : State} (h : Reported s t) (k : Reported t u) : Reported s u :=
  ⟨k.partner.trans h.partner, k.lastReport.trans h.lastReport, h.fields.trans k.fields⟩

/-- The delta number, and what LAG and RESYNC_LEFT do not touch. -/
theorem State.settleLag_spares {fs : List Field} (s : State) (lag : apart fs R.PAIR_LAG) (left : apart fs R.PAIR_RESYNC_LEFT) : spares fs s s.settleLag :=
  .set (.set .refl lag) left

theorem State.settleLag_reported (s : State) : Reported s s.settleLag := ⟨rfl, rfl, s.settleLag_spares (by decide) (by decide)⟩

/-- `t` has what sending deltas keeps of `s`. -/
structure DeltaSent (s t : State) : Prop where
  reported : Reported s t
  ge : t.ge = s.ge
  parts : t.parts = s.parts
  held : t.hq.held = s.hq.held

namespace DeltaSent
variable {s t u : State}

theorem refl : DeltaSent s s := ⟨SideKept.refl.reported, rfl, rfl, rfl⟩
theorem trans (h : DeltaSent s t) (k : DeltaSent t u) : DeltaSent s u :=
  ⟨h.reported.trans k.reported, k.ge.trans h.ge, k.parts.trans h.parts, k.held.trans h.held⟩
theorem foldl {α : Type} {f : State → α → State} {xs : List α} (h : DeltaSent s t) (hf : ∀ u a, DeltaSent u (f u a)) : DeltaSent s (xs.foldl f t) :=
  foldl_keeps (DeltaSent s) f (fun u a hu => hu.trans (hf u a)) xs t h

theorem tellOn {l : Option Nat} {o : Nat → Output} (h : DeltaSent s t) : DeltaSent s (t.tellOn l o) := by
  refine h.trans ⟨(Calm.tellOn .refl).side.reported, ?_, ?_, (Calm.tellOn .refl).held⟩
  all_goals unfold State.tellOn; split
  · exact ((endKeeps_iff _ _).mp (endKeeps_sendOn ..)).2.1
  · rfl
  · exact State.sendOn_parts ..
  · rfl

theorem sendDeltaOn {l : Option Nat} {d : Delta} (h : DeltaSent s t) : DeltaSent s (t.sendDeltaOn l d).1 := by
  have side := (Calm.sendDeltaOn (l := l) (d := d) (.refl (s := t))).side.reported
  have held := (Calm.sendDeltaOn (l := l) (d := d) (.refl (s := t))).held
  have rest : (t.sendDeltaOn l d).1.ge = t.ge ∧ (t.sendDeltaOn l d).1.parts = t.parts := by
    clear side held
    unfold State.sendDeltaOn
    split
    · dsimp only
      exact ⟨(DeltaSent.tellOn .refl).ge.trans rfl, (DeltaSent.tellOn .refl).parts.trans rfl⟩
    · exact ⟨rfl, rfl⟩
  exact h.trans ⟨side, rest.1, rest.2, held⟩

end DeltaSent

/-- Held completions released. -/
theorem State.releaseHeld_held (s : State) (hit : Held → Bool) : (s.releaseHeld hit).hq.held = s.hq.held.filter fun h => !hit h := by
  unfold State.releaseHeld
  exact foldl_keeps (fun u : State => u.hq.held = s.hq.held.filter fun h => !hit h) _ (fun u a h => (u.answer_held ..).trans h) _ _ rfl

theorem State.releaseHeld_ge (s : State) (hit : Held → Bool) : (s.releaseHeld hit).ge = s.ge := by
  unfold State.releaseHeld
  exact foldl_keeps (fun u : State => u.ge = s.ge) _ (fun u a h => ((endKeeps_iff _ _).mp (endKeeps_answer ..)).2.1.trans h) _ _ rfl

/-- Nothing to release: nothing changes. -/
theorem State.releaseHeld_none {s : State} {hit : Held → Bool} (none : ∀ h ∈ s.hq.held, hit h = false) : s.releaseHeld hit = s := by
  have gone : s.hq.held.filter hit = [] := List.filter_eq_nil_iff.mpr fun h hh => by simp [none h hh]
  have stay : (s.hq.held.filter fun h => !hit h) = s.hq.held := List.filter_eq_self.mpr fun h hh => by simp [none h hh]
  unfold State.releaseHeld
  rw [gone, stay]
  rfl

/-- A resynchronisation opened: SYNC says so, nothing waits. -/
def State.resyncOpened (s : State) : State := (s.set R.PAIR_SYNC 1).releaseHeld fun _ => true

/-- The committed state and the partitions' state sent. -/
def State.resyncTold (s : State) : State :=
  (s.resyncOpened.resyncDelta (.committed s.resyncOpened.committedNow)).sendParts.resyncDelta (.resync (s.ge.lines.filter fun e => e.2.record.isSome).length)

/-- The number of the delta last sent. -/
def State.resyncMarked (s : State) : State :=
  { s with pr := { s.pr with resyncFrom := s.get R.PAIR_DSEQ_LO + 2 ^ 32 * s.get R.PAIR_DSEQ_HI } }

/-- The lines sent. -/
def State.resyncLines (s : State) (lines : Sparse KeyLine) : State :=
  lines.zipIdx.foldl (fun s e => (s.sendDeltaOn (s.lineLink e.2) (.line e.1.1 e.1.2)).1) s

/-- The last number of a resynchronisation noted, and its lag. -/
def State.resyncClosed (s : State) : State :=
  ({ s with pr := { s.pr with resyncTo := s.get R.PAIR_DSEQ_LO + 2 ^ 32 * s.get R.PAIR_DSEQ_HI } } : State).settleLag

theorem State.startResync_eq (s : State) :
    s.startResync = (s.resyncTold.resyncMarked.resyncLines (s.ge.lines.filter fun e => e.2.record.isSome)).resyncClosed := rfl

theorem State.resyncOpened_spec (s : State) : s.resyncOpened.get R.PAIR_SYNC = 1 ∧ Reported s { s.resyncOpened with regs := s.regs } ∧
    spares [R.PAIR_REPORT_LOST, R.PAIR_SEL_CONFLICT, R.PAIR_PARTNER_RPT, R.PAIR_CMD_RESULT] s s.resyncOpened ∧ s.resyncOpened.ge = s.ge ∧
    s.resyncOpened.hq.held = [] ∧ (s.hq.held = [] → s.resyncOpened.parts = s.parts) := by
  have side := ((s.set R.PAIR_SYNC 1).releaseHeld_side fun _ => true).reported
  have ge := (s.set R.PAIR_SYNC 1).releaseHeld_ge fun _ => true
  have held := (s.set R.PAIR_SYNC 1).releaseHeld_held fun _ => true
  have sync : (s.set R.PAIR_SYNC 1).get R.PAIR_SYNC = 1 := (s.get_set_same R.PAIR_SYNC 1).trans rfl
  have others : spares [R.PAIR_REPORT_LOST, R.PAIR_SEL_CONFLICT, R.PAIR_PARTNER_RPT, R.PAIR_CMD_RESULT] s (s.set R.PAIR_SYNC 1) := .set .refl (by decide)
  refine ⟨(side.fields _ (by simp [sideFields])).trans sync, ⟨side.partner, side.lastReport, .update .refl rfl⟩,
    others.trans (side.fields.mono (by simp [sideFields])), ge, held.trans (by simp), fun none => ?_⟩
  unfold State.resyncOpened
  rw [State.releaseHeld_none fun h hh => by exact absurd (none ▸ hh : h ∈ ([] : List Held)) (List.not_mem_nil)]
  rfl

theorem State.resyncTold_sent (s : State) : DeltaSent s.resyncOpened s.resyncTold := by
  unfold State.resyncTold State.sendParts State.resyncDelta
  exact .sendDeltaOn (.foldl (.sendDeltaOn .refl) fun u e => .sendDeltaOn (.sendDeltaOn (.sendDeltaOn .refl)))

theorem State.resyncLines_sent (s : State) (lines : Sparse KeyLine) : DeltaSent s (s.resyncLines lines) := .foldl .refl fun _ _ => .sendDeltaOn .refl

theorem State.resyncMarked_sent (s : State) : DeltaSent s s.resyncMarked := ⟨⟨rfl, rfl, .update .refl rfl⟩, rfl, rfl, rfl⟩

theorem State.resyncClosed_spec (s : State) : DeltaSent s s.resyncClosed ∧ s.resyncClosed.pr.resyncTo = s.resyncClosed.dseq := by
  unfold State.resyncClosed
  obtain ⟨v, ev⟩ : ∃ v : State, v = { s with pr := { s.pr with resyncTo := s.get R.PAIR_DSEQ_LO + 2 ^ 32 * s.get R.PAIR_DSEQ_HI } } := ⟨_, rfl⟩
  have number : spares [R.PAIR_DSEQ_LO, R.PAIR_DSEQ_HI] v v.settleLag := v.settleLag_spares (by decide) (by decide)
  have upTo : v.pr.resyncTo = v.dseq := by rw [ev]; rfl
  have before : DeltaSent s v := by rw [ev]; exact ⟨⟨rfl, rfl, .update .refl rfl⟩, rfl, rfl, rfl⟩
  rw [← ev]
  refine ⟨before.trans ⟨v.settleLag_reported, rfl, rfl, rfl⟩, ?_⟩
  rw [State.dseq, number _ (by simp), number _ (by simp)]
  exact upTo

theorem State.startResync_spec (s : State) : s.startResync.get R.PAIR_SYNC = 1 ∧ s.startResync.pr.resyncTo = s.startResync.dseq ∧
    s.startResync.pr.partner = s.pr.partner ∧ s.startResync.pr.lastReport = s.pr.lastReport ∧
    spares [R.PAIR_REPORT_LOST, R.PAIR_SEL_CONFLICT, R.PAIR_PARTNER_RPT, R.PAIR_CMD_RESULT] s s.startResync ∧ s.startResync.ge = s.ge ∧
    s.startResync.hq.held = [] ∧ (s.hq.held = [] → s.startResync.parts = s.parts) := by
  obtain ⟨sync, kept, fields, ge, held, parts⟩ := s.resyncOpened_spec
  have sent := (s.resyncTold_sent.trans (State.resyncMarked_sent _)).trans (State.resyncLines_sent _ (s.ge.lines.filter fun e => e.2.record.isSome))
  rw [State.startResync_eq]
  generalize s.resyncTold.resyncMarked.resyncLines (s.ge.lines.filter fun e => e.2.record.isSome) = v at *
  obtain ⟨closed, upTo⟩ := v.resyncClosed_spec
  have all := sent.trans closed
  exact ⟨(all.reported.fields _ (by simp [sideFields])).trans sync, upTo, all.reported.partner.trans kept.partner, all.reported.lastReport.trans kept.lastReport,
    fields.trans (all.reported.fields.mono (by simp [sideFields])), all.ge.trans ge, all.held.trans held, fun none => all.parts.trans (parts none)⟩

theorem numAt_lt (bs : List Byte) (off n : Nat) : numAt bs off n < 256 ^ n := by
  have fits := leNat_lt (slice off n bs)
  rwa [show (slice off n bs).length = n from fitBytes_length ..] at fits

/-! ## The partner's report taken (R341, R344, R348) -/

/-- The partner's report kept, its marks compared. -/
def State.reportTaken (s : State) (r : List Byte) : State :=
  let s := { (s.set R.PAIR_PARTNER_RPT (numAt r 8 4)).set R.PAIR_REPORT_LOST 0 with pr.partner := r, pr.lastReport := s.quartz }
  s.set R.PAIR_SEL_CONFLICT (b2n (bitOf (numAt r 8 1) 2 == Config.markB))

theorem State.reportTaken_spec (s : State) (r : List Byte) : (s.reportTaken r).pr.partner = r ∧ (s.reportTaken r).pr.lastReport = s.quartz ∧
    (s.reportTaken r).get R.PAIR_REPORT_LOST = 0 ∧ (s.reportTaken r).get R.PAIR_PARTNER_RPT = numAt r 8 4 ∧
    (s.reportTaken r).get R.PAIR_SEL_CONFLICT = b2n (bitOf (numAt r 8 1) 2 == Config.markB) ∧
    spares [R.PAIR_ROLE, R.PAIR_SYNC] s (s.reportTaken r) := by
  refine ⟨rfl, rfl, ?_, ?_, ?_, ?_⟩
  · refine (State.get_set_ne _ _ _ _ (by decide)).trans ?_
    exact ((s.set R.PAIR_PARTNER_RPT (numAt r 8 4)).get_set_same R.PAIR_REPORT_LOST 0).trans rfl
  · refine (State.get_set_ne _ _ _ _ (by decide)).trans ?_
    refine ((s.set R.PAIR_PARTNER_RPT (numAt r 8 4)).get_set_ne R.PAIR_REPORT_LOST R.PAIR_PARTNER_RPT 0 (by decide)).trans ?_
    exact s.get_set_fits (numAt_lt r 8 4)
  · exact State.get_set_fits _ (by cases (bitOf (numAt r 8 1) 2 == Config.markB) <;> decide)
  · exact .set (.update (t := (s.set R.PAIR_PARTNER_RPT (numAt r 8 4)).set R.PAIR_REPORT_LOST 0) (.set (.set .refl (by decide)) (by decide)) rfl) (by decide)

theorem State.adoptSync_spec (s : State) (v : Nat) : (s.adoptSync v).pr.partner = s.pr.partner ∧ (s.adoptSync v).pr.lastReport = s.pr.lastReport ∧
    spares [R.PAIR_REPORT_LOST, R.PAIR_SEL_CONFLICT, R.PAIR_PARTNER_RPT] s (s.adoptSync v) ∧
    (s.get R.PAIR_ROLE = 2 → (s.adoptSync v).get R.PAIR_SYNC = if s.get R.PAIR_SYNC = 0 then 0 else v % 2 ^ R.PAIR_SYNC.width) := by
  unfold State.adoptSync
  split
  · next stays =>
    refine ⟨rfl, rfl, .refl, fun standby => ?_⟩
    rcases stays with other | none | same
    · exact absurd standby other
    · rw [if_pos none, none]
    · split
      · assumption
      · rw [← same]
        exact (Nat.mod_eq_of_lt (Nat.mod_lt _ (by decide))).symm
  · next moves =>
    have told : ∀ u : State, spares [R.PAIR_REPORT_LOST, R.PAIR_SEL_CONFLICT, R.PAIR_PARTNER_RPT, R.PAIR_SYNC] u
        (if v = 2 then u.raise pgPAIR 1 else if v = 3 then u.raise pgPAIR 2 else u) ∧
        (if v = 2 then u.raise pgPAIR 1 else if v = 3 then u.raise pgPAIR 2 else u).pr = u.pr := fun u => by
      refine ⟨.ite (.raise .refl (by decide)) (.ite (.raise .refl (by decide)) .refl), ?_⟩
      split_ifs
      · exact u.raise_pr _ _
      · exact u.raise_pr _ _
      · rfl
    have restart : ∀ (u : State) (was : Bool), (u.resettleTake was).regs = u.regs ∧ (u.resettleTake was).pr.partner = u.pr.partner ∧
        (u.resettleTake was).pr.lastReport = u.pr.lastReport := fun u was => by
      unfold State.resettleTake
      rw [State.settleTake_spec]
      split <;> exact ⟨rfl, rfl, rfl⟩
    have sync : (s.set R.PAIR_SYNC v).get R.PAIR_SYNC = v % 2 ^ R.PAIR_SYNC.width := s.get_set_same R.PAIR_SYNC v
    have others : spares [R.PAIR_REPORT_LOST, R.PAIR_SEL_CONFLICT, R.PAIR_PARTNER_RPT] s (s.set R.PAIR_SYNC v) := .set .refl (by decide)
    have pr : (s.set R.PAIR_SYNC v).pr = s.pr := rfl
    dsimp only
    generalize s.set R.PAIR_SYNC v = u at *
    obtain ⟨fields, pr'⟩ := told u
    generalize (if v = 2 then u.raise pgPAIR 1 else if v = 3 then u.raise pgPAIR 2 else u) = w at *
    obtain ⟨regs, partner, last⟩ := restart w s.syncAllows
    generalize w.resettleTake s.syncAllows = x at *
    have same : spares [R.PAIR_REPORT_LOST, R.PAIR_SEL_CONFLICT, R.PAIR_PARTNER_RPT, R.PAIR_SYNC] u x := fields.update regs
    refine ⟨partner.trans (by rw [pr', pr]), last.trans (by rw [pr', pr]), others.trans (same.mono (by simp)), fun _ => ?_⟩
    rw [if_neg fun none => moves (.inr (.inl none))]
    exact (same _ (by simp)).trans sync

theorem State.withdraw_reported (s : State) : s.withdraw.pr.partner = s.pr.partner ∧ s.withdraw.pr.lastReport = s.pr.lastReport ∧
    spares [R.PAIR_SYNC, R.PAIR_REPORT_LOST, R.PAIR_SEL_CONFLICT, R.PAIR_PARTNER_RPT] s s.withdraw := by
  have calm : Calm s.claimWithdrawn s.withdraw := Calm.settleTake (Calm.enterMode .refl)
  have kept := calm.side.reported
  have start : spares [R.PAIR_SYNC, R.PAIR_REPORT_LOST, R.PAIR_SEL_CONFLICT, R.PAIR_PARTNER_RPT] s s.claimWithdrawn :=
    .update (t := s.set R.PAIR_ROLE 2) (.set .refl (by decide)) rfl
  exact ⟨kept.partner, kept.lastReport, start.trans (kept.fields.mono (by simp [sideFields]))⟩

/-- What a report does once it is kept. -/
def State.reportActs (s : State) (r : List Byte) : State :=
  let unsynced := numAt r 8 1 % 4 == 2 && numAt r 14 1 == 0 && s.get R.PAIR_ROLE == 1 && s.get R.PAIR_SYNC != 1
  let yields : Bool := s.get R.PAIR_ROLE == 3 && s.pr.waiting && s.pr.claimIn && !s.isMarkA
  if yields then s.withdraw else if numAt r 8 1 % 4 = 1 then s.adoptSync (numAt r 14 1) else if unsynced then s.startResync else s

theorem State.reportActs_keeps (s : State) (r : List Byte) : (s.reportActs r).pr.partner = s.pr.partner ∧
    (s.reportActs r).pr.lastReport = s.pr.lastReport ∧ spares [R.PAIR_REPORT_LOST, R.PAIR_SEL_CONFLICT, R.PAIR_PARTNER_RPT] s (s.reportActs r) := by
  unfold State.reportActs
  dsimp only
  split_ifs
  · obtain ⟨partner, last, fields⟩ := s.withdraw_reported
    exact ⟨partner, last, fields.mono (by simp)⟩
  · obtain ⟨partner, last, fields, -⟩ := s.adoptSync_spec (numAt r 14 1)
    exact ⟨partner, last, fields⟩
  · obtain ⟨-, -, partner, last, fields, -⟩ := s.startResync_spec
    exact ⟨partner, last, fields.mono (by simp)⟩
  · exact ⟨rfl, rfl, .refl⟩

theorem State.reportActs_sync (s : State) (r : List Byte) :
    (numAt r 8 1 % 4 = 1 → s.get R.PAIR_ROLE = 2 →
      (s.reportActs r).get R.PAIR_SYNC = if s.get R.PAIR_SYNC = 0 then 0 else numAt r 14 1 % 2 ^ R.PAIR_SYNC.width) ∧
    (numAt r 8 1 % 4 = 2 → numAt r 14 1 = 0 → s.get R.PAIR_ROLE = 1 → (s.reportActs r).get R.PAIR_SYNC = 1) ∧
    (numAt r 8 1 % 4 ≠ 1 → numAt r 8 1 % 4 ≠ 2 → (s.reportActs r).get R.PAIR_SYNC = s.get R.PAIR_SYNC) := by
  unfold State.reportActs
  dsimp only
  refine ⟨fun active standby => ?_, fun other none active => ?_, fun other unlike => ?_⟩
  · rw [if_neg (by simp [standby]), if_pos active]
    exact (s.adoptSync_spec _).2.2.2 standby
  · rw [if_neg (by simp [active]), if_neg (by omega)]
    by_cases sync : s.get R.PAIR_SYNC = 1
    · rw [if_neg (by simp [sync])]
      exact sync
    · rw [if_pos (by simp [other, none, active, sync])]
      exact s.startResync_spec.1
  · rw [if_neg other]
    split_ifs
    · exact s.withdraw_reported.2.2 _ (by simp)
    · next unsynced => simp [unlike] at unsynced
    · rfl

section
variable {s : State} {r : List Byte} (paired : s.get R.PAIR_PAIR_EN ≠ 0) (own : numAt (fitBytes 32 r) 0 8 = s.partnerSerial)
include paired own

theorem execHealthReportReceive_takes : exec (.healthReportReceive r) s = .next ((s.reportTaken (fitBytes 32 r)).reportActs (fitBytes 32 r)) := by
  show execHealthReportReceive r s = _
  unfold execHealthReportReceive
  dsimp only
  rw [if_neg (by simp [paired, own])]
  rfl

theorem execHealthReportReceive_keeps : ∃ t, exec (.healthReportReceive r) s = .next t ∧ t.pr.partner = fitBytes 32 r ∧ t.pr.lastReport = s.quartz ∧
    t.get R.PAIR_REPORT_LOST = 0 ∧ t.get R.PAIR_PARTNER_RPT = numAt (fitBytes 32 r) 8 4 ∧
    t.get R.PAIR_SEL_CONFLICT = b2n (bitOf (numAt (fitBytes 32 r) 8 1) 2 == Config.markB) := by
  obtain ⟨partner, last, lost, report, conflict, -⟩ := s.reportTaken_spec (fitBytes 32 r)
  obtain ⟨partner', last', fields⟩ := (s.reportTaken (fitBytes 32 r)).reportActs_keeps (fitBytes 32 r)
  exact ⟨_, execHealthReportReceive_takes paired own, partner'.trans partner, last'.trans last, (fields _ (by simp)).trans lost,
    (fields _ (by simp)).trans report, (fields _ (by simp)).trans conflict⟩

theorem execHealthReportReceive_sync : ∃ t, exec (.healthReportReceive r) s = .next t ∧
    (numAt (fitBytes 32 r) 8 1 % 4 = 1 → s.get R.PAIR_ROLE = 2 →
      t.get R.PAIR_SYNC = if s.get R.PAIR_SYNC = 0 then 0 else numAt (fitBytes 32 r) 14 1 % 2 ^ R.PAIR_SYNC.width) ∧
    (numAt (fitBytes 32 r) 8 1 % 4 = 2 → numAt (fitBytes 32 r) 14 1 = 0 → s.get R.PAIR_ROLE = 1 → t.get R.PAIR_SYNC = 1) ∧
    (numAt (fitBytes 32 r) 8 1 % 4 ≠ 1 → numAt (fitBytes 32 r) 8 1 % 4 ≠ 2 → t.get R.PAIR_SYNC = s.get R.PAIR_SYNC) := by
  obtain ⟨-, -, -, -, -, same⟩ := s.reportTaken_spec (fitBytes 32 r)
  have acts := (s.reportTaken (fitBytes 32 r)).reportActs_sync (fitBytes 32 r)
  rw [same R.PAIR_ROLE (by simp), same R.PAIR_SYNC (by simp)] at acts
  exact ⟨_, execHealthReportReceive_takes paired own, acts⟩

end

/-! ## Self-tests of the standby (R342) -/

theorem execKatComplete_failing {n : Fin 16} {u : Fin 6} {s : State} (due : s.katDue n u) (free : s.relocks n = false) :
    ∃ t : State, t = (((s.katNoted n u).katRun n u false true).2.katJudged n u false).katDropped n u ∧ exec (.katComplete n u false true) s =
      .next (if 4 ≤ u.val ∨ t.lanesUp n = [] then t.raise (pgCC n) 2 else t) := by
  have go : ¬(¬((s.unitSvc n u).katBusy = true ∨ ((s.unitSvc n u).katWanted = true ∧ s.unitIdle n u = true)) ∨ s.relocks n = true) := by
    rw [free]; exact fun h => h.elim (fun h => h due) (by simp)
  refine ⟨_, rfl, ?_⟩
  show execKatComplete n u false true s = _
  unfold execKatComplete
  rw [if_neg go]
  dsimp only
  rw [State.katRun_pass]
  simp only [Bool.false_and, Bool.false_eq_true, if_false, and_false, List.isEmpty_iff]
  rfl

/-- The count of failed self-tests. -/
abbrev failures : List Field := [R.PAIR_ST_FAIL_CNT]

theorem ccFields_apart (n : Fin 16) : apart failures (R.BLK_INT_RAW (pgCC n)) ∧ apart failures (R.CC_DUMMY_CNT n) ∧ apart failures (R.CC_HASH_BLOCKS n) := by
  revert n; decide

theorem State.katRun_failures (s : State) (n : Fin 16) (u : Nat) (pass twinOk : Bool) : spares failures s ((s.katNoted n u).katRun n u pass twinOk).2 := by
  obtain ⟨raw, dummies, blocks⟩ := ccFields_apart n
  exact .trans (.andIf .refl (.raise .refl raw)) (State.katRun_spares _ _ _ _ _ dummies blocks)

theorem State.katDropped_failures (s : State) (n : Fin 16) (u : Nat) : spares failures s (s.katDropped n u) := by
  obtain ⟨raw, -, -⟩ := ccFields_apart n
  unfold State.katDropped
  dsimp only
  have noted : spares failures s ((({ s with ci := { s.ci with lastOut := Sparse.set 0 s.ci.lastOut n u } } : State).raise (pgCC n) 1).severity 3) :=
    .severity (.raise (.update .refl rfl) raw) (by decide)
  generalize ((({ s with ci := { s.ci with lastOut := Sparse.set 0 s.ci.lastOut n u } } : State).raise (pgCC n) 1).severity 3) = v at *
  have unseeded : spares failures v (v.updLane n u fun x => { x with seeded := false }) := .update .refl rfl
  have moved := unseeded.trans (spares_of_endView (State.moveWaiting_endView _ n u) (by decide))
  refine .ite (noted.trans moved) (.ite ?_ noted)
  exact noted.trans (spares_of_endView (State.endQueued_endView ..) (by decide))

/-- A test of a cluster's unit leaves the failures counted. -/
theorem execKatComplete_failures (n : Fin 16) (u : Fin 6) (pass : Bool) {s : State} (due : s.katDue n u) :
    ∃ t, exec (.katComplete n u pass true) s = .next t ∧ spares failures s t := by
  cases free : s.relocks n with
  | true => exact ⟨s, if_pos (.inr free), .refl⟩
  | false =>
    have ran := s.katRun_failures n u pass true
    cases pass with
    | true =>
      refine ⟨_, execKatComplete_passes due free, ?_⟩
      generalize ((s.katNoted n u).katRun n u true true).2 = v at *
      have judged := v.katJudged_spares (fs := failures) n u true (by decide) (by decide)
      have freed : spares failures v ((v.katJudged n u true).katFreed n u) := .update judged (State.katFreed_regs ..)
      exact (ran.trans freed).trans (spares_of_endView (State.pumpAll_endView ..) (by decide))
    | false =>
      obtain ⟨t, eq, run⟩ := execKatComplete_failing due free
      refine ⟨_, run, ?_⟩
      clear run
      generalize ((s.katNoted n u).katRun n u false true).2 = v at *
      have dropped := (v.katJudged_spares (fs := failures) n u false (by decide) (by decide)).trans ((v.katJudged n u false).katDropped_failures n u)
      rw [← eq] at dropped
      exact .andIf (ran.trans dropped) (.raise .refl (ccFields_apart n).1)

theorem State.movePk_endView (s : State) {p : Nat} (h : p < 8) : (s.movePk p).endView = s.endView := by
  unfold State.movePk
  split
  · refine (State.settlePkFreeze_endView _ h).trans (State.endView_foldl _ (fun u lattice => State.endView_foldl _ (fun v o => ?_) _ _) _ _)
    split
    · split
      · rfl
      · rfl
    · rfl
  · dsimp only
    exact (State.settleCurve_endView _).trans (State.endView_foldl _ (fun u k => State.endCommand_endView ..) _ _)

/-- A test of a public-key cluster's unit writes nothing of the pair's. -/
theorem execPkKatComplete_endView (p : Fin 8) (u : Fin 9) (pass : Bool) (s : State) :
    ∃ t, exec (.pkKatComplete p u pass true) s = .next t ∧ t.endView = s.endView := by
  have raise : ∀ (v : State) (i : Nat), (v.raise (pgPK p) i).endView = v.endView := fun v i => v.raise_endView i (offEndPage_pk p.isLt)
  have settled : ∀ v : State, (v.settlePkUnit p u).endView = v.endView := fun v => (State.settlePkCluster_endView _ p).trans rfl
  have noted : ∀ c : Bool, (if c = true then s.raise (pgPK p) 3 else s).endView = s.endView := fun c => by
    cases c
    · rfl
    · exact raise s 3
  show ∃ t, execPkKatComplete p u pass true s = _ ∧ _
  unfold execPkKatComplete
  dsimp only
  split
  · exact ⟨s, rfl, rfl⟩
  · simp only [if_true]
    have noted := noted (s.pkUnit p u).svc.katWanted
    generalize (if (s.pkUnit p u).svc.katWanted = true then s.raise (pgPK p) 3 else s) = v at *
    have judged := settled (v.updPk p u fun x => { x with svc := { x.svc with katWanted := false, katBusy := false, katFail := !(pass && true), passed := pass && true } })
    generalize (v.updPk p u fun x => { x with svc := { x.svc with katWanted := false, katBusy := false, katFail := !(pass && true), passed := pass && true } }).settlePkUnit p u
      = w at *
    have judged : w.endView = s.endView := judged.trans noted
    have told := (State.severity_endView (w.raise (pgPK p) 1) 3).trans ((raise w 1).trans judged)
    generalize (w.raise (pgPK p) 1).severity 3 = x at *
    have gone := ((State.movePk_endView (({ x with pk := { x.pk with lastOut := some (pkDetail p u) } } : State).raise (pgPK p) 2) p.isLt).trans (raise _ 2)).trans told
    split_ifs
    · exact ⟨_, rfl, judged⟩
    · exact ⟨_, rfl, gone⟩
    · exact ⟨_, rfl, told⟩

theorem State.selfTest_failures (s : State) (i : Nat) (pass : Bool) : spares failures s (s.selfTest i pass) := by
  have lane : ∀ (n : Fin 16) (u : Fin 6), spares failures s
      (Result.stateOr (execKatComplete n u pass true (s.updSvc n u fun v => { v with katBusy := true })) (s.updSvc n u fun v => { v with katBusy := true })) :=
    fun n u => by
      have begun : spares failures s (s.updSvc n u fun v => { v with katBusy := true }) := .update .refl (State.updSvc_regs ..)
      obtain ⟨t, run, kept⟩ := execKatComplete_failures n u pass (s := s.updSvc n u fun v => { v with katBusy := true })
        (.inl (by rw [State.unitSvc_updSvc]))
      rw [show execKatComplete n u pass true (s.updSvc n u fun v => { v with katBusy := true }) = _ from run]
      exact begun.trans kept
  have pk : ∀ (p : Fin 8) (u : Fin 9) (v : State), spares failures s v → spares failures s (Result.stateOr (execPkKatComplete p u pass true v) v) :=
    fun p u v begun => by
      obtain ⟨t, run, kept⟩ := execPkKatComplete_endView p u pass v
      rw [show execPkKatComplete p u pass true v = _ from run]
      exact begun.trans (spares_of_endView kept (by decide))
  unfold State.selfTest
  dsimp only
  split
  · next cluster =>
    have number : ∀ {c u : Nat} (_ : c < 16) (_ : u < 6), (Fin.ofNat 16 c).val = c ∧ (Fin.ofNat 6 u).val = u := fun hc hu =>
      ⟨Nat.mod_eq_of_lt hc, Nat.mod_eq_of_lt hu⟩
    obtain ⟨c, ec⟩ : ∃ c, c = if i < 64 then i / 4 else (i - 64) % 16 := ⟨_, rfl⟩
    obtain ⟨u, eu⟩ : ∃ u, u = if i < 64 then i % 4 else if i < 80 then 4 else 5 := ⟨_, rfl⟩
    rw [← ec, ← eu]
    have cluster : c < 16 := by rw [ec]; split <;> omega
    have unit : u < 6 := by rw [eu]; split_ifs <;> omega
    obtain ⟨hc, hu⟩ := number cluster unit
    have tested := lane (Fin.ofNat 16 c) (Fin.ofNat 6 u)
    rwa [hc, hu] at tested
  · exact pk _ _ _ (.update .refl rfl)

theorem execSelfTestStep_tests (result : Fin 4) {s : State} (shadow : s.mode = .shadow) (due : s.pr.nextTest ≤ s.quartz) :
    ∃ t, exec (.selfTestStep result) s = .next t ∧ t.pr.lastTest = result.val ∧ t.pr.testUnit = (s.pr.testUnit + 1) % 168 ∧
      t.pr.nextTest = s.quartz + s.testNs ∧
      t.get R.PAIR_ST_FAIL_CNT = satAdd R.PAIR_ST_FAIL_CNT.width (s.get R.PAIR_ST_FAIL_CNT) (if result.val = 0 then 0 else 1) := by
  have kept := s.selfTest_failures s.pr.testUnit (result.val != 1) R.PAIR_ST_FAIL_CNT (by simp)
  obtain ⟨v, ev⟩ : ∃ v : State, v = { s.selfTest s.pr.testUnit (result.val != 1) with
    pr := { (s.selfTest s.pr.testUnit (result.val != 1)).pr with nextTest := s.quartz + s.testNs, testUnit := (s.pr.testUnit + 1) % 168, lastTest := result } } :=
    ⟨_, rfl⟩
  have run : exec (.selfTestStep result) s = .next (if result.val = 0 then v else v.countSat R.PAIR_ST_FAIL_CNT) := by
    rw [ev]
    exact if_neg (by simp [shadow, due])
  have count : v.get R.PAIR_ST_FAIL_CNT = s.get R.PAIR_ST_FAIL_CNT := by rw [ev]; exact kept
  have last : v.pr.lastTest = result.val ∧ v.pr.testUnit = (s.pr.testUnit + 1) % 168 ∧ v.pr.nextTest = s.quartz + s.testNs := by
    rw [ev]; exact ⟨rfl, rfl, rfl⟩
  clear ev
  obtain ⟨last, unit, next⟩ := last
  refine ⟨_, run, ?_⟩
  by_cases pass : result.val = 0
  · rw [if_pos pass, if_pos pass, count]
    exact ⟨last, unit, next, (Nat.min_eq_left (Nat.le_pred_of_lt (Nat.mod_lt _ (Nat.two_pow_pos _)))).symm⟩
  · rw [if_neg pass, if_neg pass]
    refine ⟨last, unit, next, ?_⟩
    rw [← count]
    exact State.get_set_fits v (Nat.lt_of_le_of_lt (Nat.min_le_right _ _) (Nat.sub_one_lt (Nat.two_pow_pos _).ne'))

/-! ## Deltas applied by the standby (R343, R348) -/

theorem State.loadRegs_ge (s : State) (f : Flash) (fields : List Field) : (s.loadRegs f fields).ge = s.ge := by
  unfold State.loadRegs
  exact foldl_keeps (fun u : State => u.ge = s.ge) (fun u x => u.set x (Sparse.get x.reset f.regs x.key)) (fun u x h => h) fields s rfl

theorem State.loadEntries_ge (s : State) (f : Flash) : (s.loadEntries f).ge = s.ge := by
  have restored := foldl_keeps (fun u : State => u.ge = s.ge) (fun u p => u.updPart p fun x => x.restore (Sparse.get {} f.parts p)) (fun u x h => h)
    (s.parts.map (·.1) ++ f.parts.map (·.1)).eraseDups s rfl
  exact restored

theorem State.restoreCurve_ge (s : State) (i : Nat) (bs : List Byte) : (s.restoreCurve i bs).ge = s.ge := by
  unfold State.restoreCurve
  split
  · rfl
  · generalize Sparse.set 0 s.pk.lastCheck i 13 = checks
    exact ((endKeeps_iff _ _).mp (endKeeps_raise _ (pgPK 0) 5)).2.1

theorem State.loadImages_ge (s : State) (f : Flash) : (s.loadImages f).ge = s.ge := by
  unfold State.loadImages State.loadTables
  exact foldl_keeps (fun u : State => u.ge = s.ge) _ (fun u x h => (u.restoreCurve_ge ..).trans h) _ _ rfl

theorem State.resettleTake_keeps (s : State) (was : Bool) : (∀ g, (s.resettleTake was).get g = s.get g) ∧ (s.resettleTake was).ge = s.ge := by
  unfold State.resettleTake
  rw [State.settleTake_spec]
  split <;> exact ⟨fun _ => rfl, rfl⟩

/-- A committed state taken: SYNC is RESYNCING, and no key is touched. -/
theorem State.committedTaken_spec (s : State) (f : Flash) : (s.takeDelta (.committed f)).get R.PAIR_SYNC = 1 ∧ (s.takeDelta (.committed f)).ge = s.ge := by
  have ge : (((s.loadRegs f (guardedFields.filter fun x => !ownField x)).loadEntries f).loadImages f).ge = s.ge :=
    (State.loadImages_ge ..).trans ((State.loadEntries_ge ..).trans (State.loadRegs_ge ..))
  unfold State.takeDelta
  dsimp only
  generalize ((s.loadRegs f (guardedFields.filter fun x => !ownField x)).loadEntries f).loadImages f = t at *
  have sync : (t.set R.PAIR_SYNC 1).get R.PAIR_SYNC = 1 := (t.get_set_same R.PAIR_SYNC 1).trans rfl
  obtain ⟨get, keys⟩ := State.resettleTake_keeps { t.set R.PAIR_SYNC 1 with gt := { t.gt with flash := t.committed f.seq f.done } } s.syncAllows
  exact ⟨(get _).trans sync, keys.trans ge⟩

/-- A delta taken is numbered. -/
def State.deltaNumbered (s : State) (q : Nat) : State := (s.set R.PAIR_DSEQ_LO q).set R.PAIR_DSEQ_HI (q / 2 ^ 32)

theorem State.deltaNumbered_dseq (s : State) {q : Nat} (h : q < 2 ^ 64) : (s.deltaNumbered q).dseq = q := by
  have low : (s.deltaNumbered q).get R.PAIR_DSEQ_LO = q % 2 ^ 32 :=
    (State.get_set_ne _ R.PAIR_DSEQ_HI R.PAIR_DSEQ_LO _ (by decide)).trans (s.get_set_same R.PAIR_DSEQ_LO q)
  have high : (s.deltaNumbered q).get R.PAIR_DSEQ_HI = q / 2 ^ 32 % 2 ^ 32 := (s.set R.PAIR_DSEQ_LO q).get_set_same R.PAIR_DSEQ_HI (q / 2 ^ 32)
  rw [State.dseq, low, high]
  omega

theorem State.tellPartner_sent (s : State) (o : Nat → Output) : DeltaSent s (s.tellPartner o) := .tellOn .refl

theorem State.tellPartner_endView (s : State) (o : Nat → Output) : (s.tellPartner o).endView = s.endView := by
  unfold State.tellPartner State.tellOn
  split
  · exact State.sendOn_endView ..
  · rfl

theorem State.tellPartner_dseq (s : State) (o : Nat → Output) : (s.tellPartner o).dseq = s.dseq := by
  have view := s.tellPartner_endView o
  rw [State.dseq, State.get_of_endView view (by decide), State.get_of_endView view (by decide)]
  rfl

/-- A delta the standby takes: applied, numbered and acknowledged. -/
theorem execDeltaApply_takes {q : Nat} {d : Delta} {s : State} (standby : s.get R.PAIR_ROLE = 2) (up : s.inReset = false)
    (follows : q = s.dseq + 1 ∨ ∃ f, d = .committed f) (fits : q < 2 ^ 64) :
    ∃ t, exec (.deltaApply q d) s = .next t ∧ t.dseq = q ∧ DeltaSent (s.takeDelta d) { t with regs := (s.takeDelta d).regs } ∧
      t.get R.PAIR_SYNC = (s.takeDelta d).get R.PAIR_SYNC ∧
      (spares [R.FVL_STATE 0, R.FVL_STATE 1] s (s.takeDelta d) → (s.takeDelta d).out = s.out → told s.pairLink (fun k => .deltaAck k q) s t) := by
  have run : exec (.deltaApply q d) s = .next (((s.takeDelta d).deltaNumbered q).tellPartner fun k => .deltaAck k q) := by
    show execDeltaApply q d s = _
    unfold execDeltaApply
    dsimp only
    rw [if_neg]
    · rfl
    · rintro (other | reset | ⟨gap, late⟩)
      · exact other standby
      · simp [up] at reset
      · rcases follows with next | ⟨f, rfl⟩
        · exact gap next
        · exact late rfl
  refine ⟨_, run, ?_⟩
  clear run
  generalize s.takeDelta d = v
  have dseq := v.deltaNumbered_dseq fits
  have sync : spares sideFields v (v.deltaNumbered q) := .set (.set .refl (by decide)) (by decide)
  have links : spares [R.FVL_STATE 0, R.FVL_STATE 1] v (v.deltaNumbered q) := .set (.set .refl (linkStates_apart (by decide))) (linkStates_apart (by decide))
  have same : v.deltaNumbered q = { v with regs := (v.deltaNumbered q).regs } := rfl
  have out : (v.deltaNumbered q).out = v.out := rfl
  generalize v.deltaNumbered q = w at *
  have sent := w.tellPartner_sent fun k => .deltaAck k q
  have number := w.tellPartner_dseq fun k => .deltaAck k q
  refine ⟨number.trans dseq, ?_, (sent.reported.fields _ (by simp [sideFields])).trans (sync _ (by simp [sideFields])), fun kept quiet => ?_⟩
  · rw [same] at sent
    rw [same]
    exact ⟨⟨sent.reported.partner, sent.reported.lastReport, .update .refl rfl⟩, sent.ge, sent.parts, sent.held⟩
  · exact State.tellPartner_tells _ (kept.trans links) (out.trans quiet)

section
variable {q : Nat} {s : State} (standby : s.get R.PAIR_ROLE = 2) (up : s.inReset = false)
include standby up

theorem execDeltaApply_rolls (p t2 : Nat) (prev : Bool) (next : q = s.dseq + 1) (fits : q < 2 ^ 64) :
    ∃ t, exec (.deltaApply q (.roll p t2 prev)) s = .next t ∧ t.dseq = q ∧ told s.pairLink (fun k => .deltaAck k q) s t ∧
      t.part p = { s.part p with tepoch := t2, prevOk := prev } ∧ (∀ j, j ≠ p → t.part j = s.part j) ∧ t.ge = s.ge := by
  obtain ⟨t, run, dseq, sent, -, told⟩ := execDeltaApply_takes (d := .roll p t2 prev) standby up (.inl next) fits
  have parts : t.parts = (s.updPart p fun x => { x with tepoch := t2, prevOk := prev }).parts := sent.parts
  refine ⟨t, run, dseq, told (.update .refl rfl) rfl, ?_, fun j hj => ?_, sent.ge⟩
  · rw [State.part, parts]
    exact Sparse.get_upd_same ({} : Part) s.parts p fun x => { x with tepoch := t2, prevOk := prev }
  · rw [State.part, parts]
    exact Sparse.get_upd_ne ({} : Part) s.parts (fun x => { x with tepoch := t2, prevOk := prev }) hj.symm

theorem execDeltaApply_places (k : Nat) (l : KeyLine) (next : q = s.dseq + 1) (fits : q < 2 ^ 64) :
    ∃ t, exec (.deltaApply q (.line k l)) s = .next t ∧ t.dseq = q ∧ t.line k = l ∧ t.parts = s.parts := by
  obtain ⟨t, run, dseq, sent, -⟩ := execDeltaApply_takes (d := .line k l) standby up (.inl next) fits
  have ge : t.ge = (s.takeDelta (.line k l)).ge := sent.ge
  refine ⟨t, run, dseq, ?_, sent.parts⟩
  rw [State.line, ge]
  exact placeLine_same _ _ _

theorem execDeltaApply_commits (f : Flash) (fits : q < 2 ^ 64) :
    ∃ t, exec (.deltaApply q (.committed f)) s = .next t ∧ t.dseq = q ∧ t.get R.PAIR_SYNC = 1 ∧ t.ge = s.ge := by
  obtain ⟨t, run, dseq, sent, sync, -⟩ := execDeltaApply_takes (d := .committed f) standby up (.inr ⟨f, rfl⟩) fits
  have ge : t.ge = (s.takeDelta (.committed f)).ge := sent.ge
  exact ⟨t, run, dseq, sync.trans (s.committedTaken_spec f).1, ge.trans (s.committedTaken_spec f).2⟩

end

/-! ## Acknowledgements (R344) -/

/-- The deltas the standby has applied are not waited for any more. -/
def State.acked (s : State) (q : Nat) : State := ({ s with pr := { s.pr with unacked := s.pr.unacked.filter fun u => q < u.1 } } : State).settleLag

theorem execDeltaAck_eq (q : Nat) (s : State) : exec (.deltaAck q) s =
    if ((s.acked q).releaseHeld fun h => h.dseq ≤ q).get R.PAIR_ROLE = 1 ∧ ((s.acked q).releaseHeld fun h => h.dseq ≤ q).get R.PAIR_SYNC = 1 ∧
      ((s.acked q).releaseHeld fun h => h.dseq ≤ q).pr.unacked.isEmpty = true then
      .next ((((s.acked q).releaseHeld fun h => h.dseq ≤ q).set R.PAIR_SYNC 2).raise pgPAIR 1)
    else .next ((s.acked q).releaseHeld fun h => h.dseq ≤ q) := rfl

theorem State.acked_spec (s : State) (q : Nat) : (s.acked q).pr.unacked = s.pr.unacked.filter (fun u => q < u.1) ∧ (s.acked q).hq = s.hq ∧
    spares [R.PAIR_ROLE, R.PAIR_SYNC] s (s.acked q) := by
  have fields : spares [R.PAIR_ROLE, R.PAIR_SYNC] s (s.acked q) := .trans (.update .refl rfl) (State.settleLag_spares _ (by decide) (by decide))
  exact ⟨rfl, rfl, fields⟩

theorem State.synced_spec (s : State) : ((s.set R.PAIR_SYNC 2).raise pgPAIR 1).get R.PAIR_SYNC = 2 ∧
    ((s.set R.PAIR_SYNC 2).raise pgPAIR 1).bit (R.BLK_INT_RAW pgPAIR) 1 = true ∧ onlyFields [R.PAIR_SYNC, R.BLK_INT_RAW pgPAIR] s
      ((s.set R.PAIR_SYNC 2).raise pgPAIR 1) :=
  ⟨(State.raise_get_ne _ _ _ _ (by decide)).trans ((s.get_set_same R.PAIR_SYNC 2).trans rfl), State.raise_bit _ _ (by decide),
    onlyFields_trans (onlyFields_set s R.PAIR_SYNC 2) (State.raise_onlyFields _ pgPAIR 1)⟩

theorem execDeltaAck_acks (q : Nat) {s : State} (later : ∀ h ∈ s.hq.held, q < h.dseq) :
    ∃ t, exec (.deltaAck q) s = .next t ∧ t.pr.unacked = s.pr.unacked.filter (fun u => q < u.1) ∧ t.hq = { s.hq with msixPend := t.hq.msixPend } ∧
      (s.get R.PAIR_ROLE = 1 → s.get R.PAIR_SYNC = 1 → t.pr.unacked = [] → t.get R.PAIR_SYNC = 2 ∧ t.bit (R.BLK_INT_RAW pgPAIR) 1 = true) := by
  obtain ⟨unacked, hq, same⟩ := s.acked_spec q
  have run := execDeltaAck_eq q s
  have none : (s.acked q).releaseHeld (fun h => h.dseq ≤ q) = s.acked q := State.releaseHeld_none fun h hh => by
    rw [hq] at hh
    exact decide_eq_false (Nat.not_le.mpr (later h hh))
  rw [none, same _ (by simp), same _ (by simp)] at run
  generalize s.acked q = v at *
  by_cases done : s.get R.PAIR_ROLE = 1 ∧ s.get R.PAIR_SYNC = 1 ∧ v.pr.unacked.isEmpty = true
  · obtain ⟨sync, raised, only⟩ := v.synced_spec
    obtain ⟨-, -, only⟩ := only
    refine ⟨_, run.trans (if_pos done), ?_, ?_, fun _ _ _ => ⟨sync, raised⟩⟩
    · rw [only]; exact unacked
    · rw [only, ← hq]
  · refine ⟨_, run.trans (if_neg done), unacked, by rw [hq], fun active resyncs empty => ?_⟩
    exact absurd ⟨active, resyncs, by simp [empty]⟩ done

theorem execDeltaAck_releases (q : Nat) (s : State) : ∃ t, exec (.deltaAck q) s = .next t ∧ ∀ h ∈ t.hq.held, q < h.dseq := by
  have run := execDeltaAck_eq q s
  have held := (s.acked q).releaseHeld_held fun h => h.dseq ≤ q
  generalize (s.acked q).releaseHeld (fun h => h.dseq ≤ q) = v at *
  have later : ∀ h ∈ v.hq.held, q < h.dseq := fun h hh => by
    rw [held] at hh
    simpa using (List.mem_filter.mp hh).2
  split at run
  · refine ⟨_, run, ?_⟩
    rw [v.synced_spec.2.2.2.2]
    exact later
  · exact ⟨_, run, later⟩

theorem execSyncTimeout_ends {s : State} (active : s.get R.PAIR_ROLE = 1) (synced : s.get R.PAIR_SYNC = 2) (late : ∃ u ∈ s.pr.unacked, u.2 + 50000 ≤ s.quartz) :
    ∃ t, exec .syncTimeout s = .next t ∧ t.get R.PAIR_SYNC = 3 ∧ t.bit (R.BLK_INT_RAW pgPAIR) 2 = true ∧ t.hq.held = [] := by
  obtain ⟨u, hu, late⟩ := late
  have run : exec .syncTimeout s = .next s.outOfSync := if_pos ⟨active, synced, List.any_eq_true.mpr ⟨u, hu, by simpa using late⟩⟩
  refine ⟨_, run, ?_⟩
  unfold State.outOfSync
  have sync : ((s.set R.PAIR_SYNC 3).raise pgPAIR 2).get R.PAIR_SYNC = 3 :=
    (State.raise_get_ne _ _ _ _ (by decide)).trans ((s.get_set_same R.PAIR_SYNC 3).trans rfl)
  have raised : ((s.set R.PAIR_SYNC 3).raise pgPAIR 2).bit (R.BLK_INT_RAW pgPAIR) 2 = true := State.raise_bit _ _ (by decide)
  generalize (s.set R.PAIR_SYNC 3).raise pgPAIR 2 = v at *
  have fields := (v.releaseHeld_side fun _ => true).fields
  exact ⟨(fields _ (by simp [sideFields])).trans sync, (fields.bit (f := R.BLK_INT_RAW pgPAIR) (by simp [sideFields]) 2).trans raised, (v.releaseHeld_held _).trans (by simp)⟩

/-! ## RESYNC (R348) -/

theorem State.sendFlit_keeps (s : State) (k type vc : Nat) (last : Bool) (bs : List Byte) : keeps [R.FVL_TX_FLITS k] s (s.sendFlit k type vc last bs) := by
  unfold State.sendFlit
  dsimp only
  split
  · exact fun _ _ => rfl
  · exact fun f hf => State.get_set_ne _ (R.FVL_TX_FLITS k) f _ (hf _ (by simp))

theorem State.sendOn_keeps (s : State) (k : Nat) (o : Output) : keeps [R.FVL_TX_FLITS k] s (s.sendOn k o) := by
  unfold State.sendOn
  dsimp only
  split
  · have sent := fun (f : List Byte × Nat → Bool) xs => keeps_foldl (s.cross 28) (fs := [R.FVL_TX_FLITS k])
      (f := fun u (p : List Byte × Nat) => u.sendFlit k (messageKind o).1 (messageKind o).2 (f p) p.1) (fun u p => u.sendFlit_keeps _ _ _ _ _) xs
    exact sent (fun p => p.2 + 1 == _) _
  · exact fun _ _ => rfl

theorem State.tellPartner_keeps (s : State) (o : Nat → Output) : keeps ((List.range 8).map R.FVL_TX_FLITS) s (s.tellPartner o) := by
  unfold State.tellPartner State.tellOn
  split
  · next k link =>
    have partner : k ∈ [0, 1] := List.mem_of_find?_eq_some link
    have listed : ∀ g ∈ [R.FVL_TX_FLITS k], g ∈ (List.range 8).map R.FVL_TX_FLITS := by
      simp only [List.mem_cons, List.not_mem_nil, or_false] at partner
      simp only [List.mem_singleton, forall_eq, List.mem_map, List.mem_range]
      exact ⟨k, by omega, rfl⟩
    exact fun f hf => s.sendOn_keeps k (o k) f fun g hg => hf g (listed g hg)
  · exact fun _ _ => rfl

section
variable {s : State} (on : s.responds pgPAIR = true)
include on

theorem execResync_eq : exec .resync s = if (s.set R.PAIR_CMD_RESULT 1).get R.PAIR_ROLE = 1 then .next (s.set R.PAIR_CMD_RESULT 1).startResync
    else if (s.set R.PAIR_CMD_RESULT 1).get R.PAIR_ROLE = 2 then .next ((s.set R.PAIR_CMD_RESULT 1).tellPartner fun k => .resyncRequest k)
    else .next ((s.set R.PAIR_CMD_RESULT 1).set R.PAIR_CMD_RESULT 2) := by
  show execResync s = _
  unfold execResync
  rw [if_neg (by simp [on])]

theorem execResync_asks (standby : s.get R.PAIR_ROLE = 2) : ∃ t, exec .resync s = .next t ∧ told s.pairLink (fun k => .resyncRequest k) s t ∧
    t.get R.PAIR_CMD_RESULT = 1 ∧ keeps (R.PAIR_CMD_RESULT :: (List.range 8).map R.FVL_TX_FLITS) s t := by
  have run := execResync_eq on
  have role : (s.set R.PAIR_CMD_RESULT 1).get R.PAIR_ROLE = s.get R.PAIR_ROLE := s.get_set_ne R.PAIR_CMD_RESULT R.PAIR_ROLE 1 (by decide)
  rw [role, if_neg (by rw [standby]; decide), if_pos standby] at run
  have result : (s.set R.PAIR_CMD_RESULT 1).get R.PAIR_CMD_RESULT = 1 := (s.get_set_same R.PAIR_CMD_RESULT 1).trans rfl
  have links : spares [R.FVL_STATE 0, R.FVL_STATE 1] s (s.set R.PAIR_CMD_RESULT 1) := .set .refl (linkStates_apart (by decide))
  refine ⟨_, run, State.tellPartner_tells _ links rfl, ?_, ?_⟩
  · exact ((State.tellPartner_sent _ _).reported.fields _ (by simp [sideFields])).trans result
  · exact keeps_mono (keeps_trans (keeps_set s R.PAIR_CMD_RESULT 1) (State.tellPartner_keeps _ _)) (by simp)

theorem execResync_starts (active : s.get R.PAIR_ROLE = 1) : ∃ t, exec .resync s = .next t ∧ t.get R.PAIR_SYNC = 1 ∧ t.get R.PAIR_CMD_RESULT = 1 ∧
    t.pr.resyncTo = t.dseq ∧ t.hq.held = [] ∧ t.ge = s.ge ∧ (s.hq.held = [] → t.parts = s.parts) := by
  have run := execResync_eq on
  have role : (s.set R.PAIR_CMD_RESULT 1).get R.PAIR_ROLE = s.get R.PAIR_ROLE := s.get_set_ne R.PAIR_CMD_RESULT R.PAIR_ROLE 1 (by decide)
  rw [role, if_pos active] at run
  have result : (s.set R.PAIR_CMD_RESULT 1).get R.PAIR_CMD_RESULT = 1 := (s.get_set_same R.PAIR_CMD_RESULT 1).trans rfl
  obtain ⟨sync, upTo, -, -, fields, ge, held, parts⟩ := (s.set R.PAIR_CMD_RESULT 1).startResync_spec
  exact ⟨_, run, sync, (fields _ (by simp)).trans result, upTo, held, ge, parts⟩

theorem execResync_refused (unlike : s.get R.PAIR_ROLE ≠ 1) (other : s.get R.PAIR_ROLE ≠ 2) :
    ∃ t, exec .resync s = .next t ∧ t.get R.PAIR_CMD_RESULT = 2 ∧ onlyFields [R.PAIR_CMD_RESULT] s t := by
  have run := execResync_eq on
  have role : (s.set R.PAIR_CMD_RESULT 1).get R.PAIR_ROLE = s.get R.PAIR_ROLE := s.get_set_ne R.PAIR_CMD_RESULT R.PAIR_ROLE 1 (by decide)
  rw [role, if_neg unlike, if_neg other] at run
  refine ⟨_, run, (State.get_set_same _ _ _).trans rfl, ?_⟩
  exact onlyFields_mono (onlyFields_trans (onlyFields_set s R.PAIR_CMD_RESULT 1) (onlyFields_set (s.set R.PAIR_CMD_RESULT 1) R.PAIR_CMD_RESULT 2)) (by simp)

end

/-- Settles O46: each command of the pair's traffic by its equation, with what a message, a resynchronisation and a self-test keep. -/
theorem pairReportsAndDeltas : Obligations.PairReportsAndDeltas := by
  unfold Obligations.PairReportsAndDeltas
  refine ⟨fun s => execHealthReportSend_sends, fun r s => execHealthReportReceive_keeps, fun r s => execHealthReportReceive_sync, fun r s h => if_pos h,
    fun s => execReportLost_tells, fun result s => execSelfTestStep_tests result,
    fun q p t2 prev s standby up next fits => execDeltaApply_rolls standby up p t2 prev next fits,
    fun q k l s standby up next fits => execDeltaApply_places standby up k l next fits, fun q s => execDeltaAck_acks q, execDeltaAck_releases,
    fun s => execSyncTimeout_ends, fun s => execResync_asks, fun s => execResync_starts, fun s => execResync_refused, fun q d s h => if_pos ?_,
    fun f q s standby up fits => execDeltaApply_commits standby up f fits, fun s other => if_pos (.inl other)⟩
  rcases h with other | reset
  · exact .inl other
  · exact .inr (.inl reset)

end Sys2Proof.Machine
end

section
/-! SUPPORT. Sleep: what an entry leaves alone and what it loses, and what a wake begins (R330-R334). -/
namespace Sys2Proof.Machine

variable {s t u : State}

/-! ## Registers an answer spares -/

/-- The registers a completion writes. -/
def answerFields : List Field := [R.BLK_INT_RAW pgHQE, R.HQE_DISCARD_CNT, R.BLK_INT_RAW pgAGT, R.AGT_OPEN_SEV]

namespace spares
variable {fs : List Field}

theorem partEvent {p i : Nat} (h : spares fs s t) : spares fs s (t.partEvent p i) :=
  (h.update (u := t.updPart p fun x => { x with pevt := putBit x.pevt i true }) rfl).of_keeps (t.partEvent_spec p i).1 fun _ none => nomatch none

theorem coalesce {p q : Nat} (h : spares fs s t) : spares fs s (t.coalesce p q) := by
  unfold State.coalesce
  dsimp only
  refine .ite ?_ (h.update rfl)
  split
  · exact (h.update (u := t.updQp p q _) rfl).of_keeps (State.msixSend_onlyFields _ _ _).1 fun _ none => nomatch none
  · exact h.update rfl

section
variable (off : ∀ f ∈ answerFields, apart fs f)
include off

theorem halts {p q e : Nat} (h : spares fs s t) : spares fs s (t.haltQp p q e) := by
  unfold State.haltQp
  exact .partEvent (.severity (.andIf (h.update rfl) (.raise .refl (off _ (by simp [answerFields])))) (off _ (by simp [answerFields])))

theorem sample {kind i bin n : Nat} {v : Int} (h : spares fs s t) : spares fs s (t.sample kind i bin v n) :=
  h.trans fun f hf => State.sample_get _ _ _ _ _ _ (off _ (by simp [answerFields]) f hf)

theorem sampleLatency {p ns : Nat} (h : spares fs s t) : spares fs s (t.sampleLatency p ns) := by
  unfold State.sampleLatency
  exact .andIf (h.sample off) (.severity .refl (off _ (by simp [answerFields])))

theorem writeCompletion {ok : Option Bool} {c : Cmd} {e : Ending} (h : spares fs s t) : spares fs s (t.writeCompletion ok c e) := by
  have drawn : spares fs s (t.writeOutcome ok).2 := by
    cases ok
    · exact h.update rfl
    · exact h
  unfold State.writeCompletion
  dsimp only
  generalize (t.writeOutcome ok).2 = v at *
  have settled : ∀ w : State, spares fs s w → spares fs s (w.settleQp c.part c.qp) := fun w hw => hw.update (by rw [(w.settleQp_spec _ _).2])
  have discarded : spares fs s v.discardCompletion :=
    .severity (.raise (.set drawn (off _ (by simp [answerFields]))) (off _ (by simp [answerFields]))) (off _ (by simp [answerFields]))
  refine settled _ ?_
  split
  · exact discarded
  · exact discarded
  · unfold State.failCompletion State.reportWrite State.reportAer
    dsimp only
    refine .andIf ?_ (.halts off .refl)
    split
    · exact drawn.update rfl
    · exact drawn
  · next f _ _ _ =>
    have sent : ∀ o, spares fs s ((v.crossPort f).emit o) := fun o => drawn.update rfl
    split
    · refine .coalesce ?_
      split
      · exact .update (t := State.sampleLatency _ _ _) (.sampleLatency off (sent _)) rfl
      · exact drawn.update rfl
    · split
      · exact .update (t := State.sampleLatency _ _ _) (.sampleLatency off (sent _)) rfl
      · exact drawn.update rfl

theorem complete {ok : Option Bool} {c : Cmd} {e : Ending} (h : spares fs s t) : spares fs s (t.complete ok c e) := by
  have ended : ∀ v : State, (v.abortDone c e).regs = v.regs := fun v => by
    unfold State.abortDone State.settleAbort
    dsimp only
    split <;> split <;> rfl
  have told : spares fs s (if e.status = stFaultDetected ∨ e.status = stRngFailed then t.severity 3 else t) :=
    .andIf h (.severity .refl (off _ (by simp [answerFields])))
  unfold State.complete
  dsimp only
  generalize (if e.status = stFaultDetected ∨ e.status = stRngFailed then t.severity 3 else t) = v at *
  refine .update (t := if c.fetched.isNone = true then v.writeCompletion ok c e else (v.writeCompletion ok c e).updPart c.part fun x => { x with winDone := x.winDone + 1 })
    ?_ (ended _)
  exact .ite (told.writeCompletion off) (.update (t := v.writeCompletion ok c e) (told.writeCompletion off) rfl)

theorem answer {ok : Option Bool} {c : Cmd} {e : Ending} (flits : ∀ k, apart fs (R.FVL_TX_FLITS k)) (h : spares fs s t) :
    spares fs s (t.answer ok c e) := by
  unfold State.answer
  split
  · exact h.of_keeps (t.sendOn_keeps _ _) (by simpa using flits _)
  · exact h.complete off

end

end spares

/-! ## What an entry into sleep leaves alone -/

/-- PAIR_EN, and the states of the links. -/
def dozeFields : List Field := R.PAIR_PAIR_EN :: (List.range 8).map R.FVL_STATE

theorem linkState_dozes {k : Nat} (h : k < 8) : R.FVL_STATE k ∈ dozeFields :=
  List.mem_cons_of_mem _ (List.mem_map_of_mem (List.mem_range.mpr h))

/-- A field whose word is at another place of its page lies apart. -/
theorem dozeFields_apart {f : Field} (h : f.key ≠ R.PAIR_PAIR_EN.key ∧ ∀ k < 8, f.key ≠ (R.FVL_STATE k).key) : apart dozeFields f := by
  intro g hg
  rcases List.mem_cons.mp hg with rfl | link
  · exact h.1
  · obtain ⟨k, hk, rfl⟩ := List.mem_map.mp link
    exact h.2 k (List.mem_range.mp hk)

theorem linkPage_apart {f : Field} (high : 0x71000 ≤ f.addr) (other : ∀ k, f.key ≠ (R.FVL_STATE k).key) : apart dozeFields f :=
  dozeFields_apart ⟨by simp only [Field.key, R.PAIR_PAIR_EN]; omega, fun k _ => other k⟩

theorem rawDoze_apart (p : Nat) : apart dozeFields (R.BLK_INT_RAW p) :=
  dozeFields_apart ⟨by simp only [Field.key, R.PAIR_PAIR_EN, R.BLK_INT_RAW]; omega, fun k _ => by simp only [Field.key, R.FVL_STATE, R.BLK_INT_RAW]; omega⟩

theorem flitsDoze_apart (k : Nat) : apart dozeFields (R.FVL_TX_FLITS k) :=
  linkPage_apart (by simp only [R.FVL_TX_FLITS]; omega) fun j => by simp only [Field.key, R.FVL_TX_FLITS, R.FVL_STATE]; omega

theorem answerDoze_apart : ∀ f ∈ answerFields, apart dozeFields f := by decide

/-- `t` has of `s` what an entry into S2 keeps: the MMK, the keys and the memories, the claim, the kept health, the commands, the links. -/
structure Dozes (s t : State) : Prop where
  ob : t.ob = s.ob
  ge : t.ge = s.ge
  hb : t.hb = s.hb
  sram : t.sc.sram = s.sc.sram
  claim : t.pr.claimOut = s.pr.claimOut
  kept : t.pr.kept = s.pr.kept
  ctxs : t.sq.ctxs = s.sq.ctxs
  staged : t.hq.staged = s.hq.staged
  fwd : t.hq.fwdOut = s.hq.fwdOut
  fields : spares dozeFields s t

namespace Dozes

theorem refl : Dozes s s := ⟨rfl, rfl, rfl, rfl, rfl, rfl, rfl, rfl, rfl, .refl⟩

theorem trans (h : Dozes s t) (k : Dozes t u) : Dozes s u :=
  ⟨k.ob.trans h.ob, k.ge.trans h.ge, k.hb.trans h.hb, k.sram.trans h.sram, k.claim.trans h.claim, k.kept.trans h.kept, k.ctxs.trans h.ctxs,
    k.staged.trans h.staged, k.fwd.trans h.fwd, h.fields.trans k.fields⟩

theorem ite {c : Prop} [Decidable c] (h : Dozes s t) (k : Dozes s u) : Dozes s (if c then t else u) := by split <;> assumption
theorem andIf {c : Prop} [Decidable c] (h : Dozes s t) (k : Dozes t u) : Dozes s (if c then u else t) := (h.trans k).ite h

theorem foldl {α : Type} {f : State → α → State} {xs : List α} (h : Dozes s t) (hf : ∀ u a, Dozes u (f u a)) : Dozes s (xs.foldl f t) :=
  foldl_keeps (Dozes s) f (fun u a hu => hu.trans (hf u a)) xs t h

theorem set {f : Field} {v : Nat} (h : Dozes s t) (off : apart dozeFields f) : Dozes s (t.set f v) :=
  h.trans ⟨rfl, rfl, rfl, rfl, rfl, rfl, rfl, rfl, rfl, .set .refl off⟩

theorem setBit {f : Field} {i : Nat} {b : Bool} (h : Dozes s t) (off : apart dozeFields f) : Dozes s (t.setBit f i b) := h.set off

theorem only {fs : List Field} (h : Dozes s t) (k : onlyFields fs t u) (off : ∀ f ∈ fs, apart dozeFields f) : Dozes s u := by
  obtain ⟨fields, -, only⟩ := k
  refine h.trans ⟨?_, ?_, ?_, ?_, ?_, ?_, ?_, ?_, ?_, .of_keeps .refl fields off⟩ <;> rw [only]

theorem raise {p i : Nat} (h : Dozes s t) : Dozes s (t.raise p i) := h.only (t.raise_onlyFields p i) (by simpa using rawDoze_apart p)

theorem severity {n : Nat} (h : Dozes s t) : Dozes s (t.severity n) := by
  have only := (t.severity_spec n).2
  refine h.trans ⟨?_, ?_, ?_, ?_, ?_, ?_, ?_, ?_, ?_, .severity .refl (by decide)⟩ <;> rw [only]

theorem settleTake (h : Dozes s t) : Dozes s t.settleTake := by
  have spec := t.settleTake_spec
  refine h.trans ⟨?_, ?_, ?_, ?_, ?_, ?_, ?_, ?_, ?_, .settleTake .refl⟩ <;> rw [spec]

theorem updPart {p : Nat} {f : Part → Part} (h : Dozes s t) : Dozes s (t.updPart p f) :=
  h.trans ⟨rfl, rfl, rfl, rfl, rfl, rfl, rfl, rfl, rfl, .update .refl rfl⟩

theorem updQp {p q : Nat} {f : QueuePair → QueuePair} (h : Dozes s t) : Dozes s (t.updQp p q f) :=
  h.trans ⟨rfl, rfl, rfl, rfl, rfl, rfl, rfl, rfl, rfl, .update .refl rfl⟩

theorem partEvent {p i : Nat} (h : Dozes s t) : Dozes s (t.partEvent p i) := h.updPart.only (t.partEvent_spec p i) fun _ none => nomatch none

/-- What keeps all that an ending's bookkeeping keeps. -/
theorem of_end (h : endKeeps s t) (view : t.endView = s.endView) (fields : spares dozeFields s t) : Dozes s t := by
  obtain ⟨sq, ge, -, -, hb, -, ob, -, -, -, -, staged, fwd⟩ := (endKeeps_iff s t).mp h
  have offs := State.offEnds_of_endView view
  have pr : { t.pr with takeAt := none, heldSync := false } = { s.pr with takeAt := none, heldSync := false } := congrArg State.pr offs
  have sc : t.offEnds.sc = s.offEnds.sc := congrArg State.sc offs
  have sc : t.sc = s.sc := sc
  have claim := congrArg Pair.claimOut pr
  have kept := congrArg Pair.kept pr
  exact ⟨ob, ge, hb, by rw [sc], claim, kept, by rw [sq], staged, fwd, fields⟩

theorem answer {ok : Option Bool} {c : Cmd} {e : Ending} (h : Dozes s t) : Dozes s (t.answer ok c e) :=
  h.trans (.of_end (endKeeps_answer ..) (t.answer_endView ..) (.answer answerDoze_apart flitsDoze_apart .refl))

theorem releaseHeld {hit : Held → Bool} (h : Dozes s t) : Dozes s (t.releaseHeld hit) := by
  unfold State.releaseHeld
  exact .foldl (h.trans ⟨rfl, rfl, rfl, rfl, rfl, rfl, rfl, rfl, rfl, .update .refl rfl⟩) fun _ _ => .answer .refl

/-! ## Links going down -/

theorem outOfSync (h : Dozes s t) : Dozes s t.outOfSync := .releaseHeld (.raise (h.set (by decide)))

theorem wrapRing {k : Nat} (h : Dozes s t) : Dozes s (t.wrapRing k) := by
  refine .ite (.raise (h.set ?_)) h
  exact linkPage_apart (by simp only [R.FVL_WRAPPED]; omega) fun j => by simp only [Field.key, R.FVL_WRAPPED, R.FVL_STATE]; omega

theorem settleTree (h : Dozes s t) : Dozes s t.settleTree := by
  unfold State.settleTree
  have told : Dozes s ((t.set R.FVL0_DT_LOCKED 0).raise (pgFVL 0) 8) := .raise (h.set (by decide))
  generalize (t.set R.FVL0_DT_LOCKED 0).raise (pgFVL 0) 8 = v at *
  exact .ite (told.trans ⟨rfl, rfl, rfl, rfl, rfl, rfl, rfl, rfl, rfl, .update .refl rfl⟩) h

theorem dropForwarded {k : Nat} (h : Dozes s t) (none : s.hq.fwdOut = []) : Dozes s (t.dropForwarded k) := by
  have empty : t.hq.fwdOut = [] := h.fwd.trans none
  have same : t.dropForwarded k = t := by
    unfold State.dropForwarded
    rw [empty]
    show ({ t with hq := { t.hq with fwdOut := [] } } : State) = t
    rw [← empty]
  rw [same]
  exact h

end Dozes

/-- A link going down: nothing but it falls. -/
theorem State.linkDown_dozes (s : State) (k cause : Nat) (none : s.hq.fwdOut = []) : Dozes (s.set (R.FVL_STATE k) 0) (s.linkDown k cause) := by
  unfold State.linkDown
  dsimp only
  have none : (s.set (R.FVL_STATE k) 0).hq.fwdOut = [] := none
  have down : Dozes (s.set (R.FVL_STATE k) 0) ((((s.set (R.FVL_STATE k) 0).set (R.FVL_DOWN_CAUSE k) cause).set (R.FVL_PEER_READY k) 0).updLink k fun l =>
      { refusals := l.refusals }) := by
    refine Dozes.trans (t := ((s.set (R.FVL_STATE k) 0).set (R.FVL_DOWN_CAUSE k) cause).set (R.FVL_PEER_READY k) 0) (.set (.set .refl ?_) ?_) ⟨rfl, rfl, rfl, rfl, rfl, rfl, rfl, rfl, rfl, .update .refl rfl⟩
    all_goals refine linkPage_apart (by simp only [R.FVL_DOWN_CAUSE, R.FVL_PEER_READY]; omega) fun j => ?_
    all_goals simp only [Field.key, R.FVL_DOWN_CAUSE, R.FVL_PEER_READY, R.FVL_STATE]; omega
  generalize s.set (R.FVL_STATE k) 0 = o at *
  generalize (((o.set (R.FVL_DOWN_CAUSE k) cause).set (R.FVL_PEER_READY k) 0).updLink k fun l => { refusals := l.refusals }) = a at *
  have counted : Dozes o (if s.linkOpen k then ((a.countSat (R.FVL_RETRAINS k)).raise (pgFVL k) 1).severity 2 else a) := by
    refine .andIf down (.severity (.raise (.set .refl ?_)))
    exact linkPage_apart (by simp only [R.FVL_RETRAINS]; omega) fun j => by simp only [Field.key, R.FVL_RETRAINS, R.FVL_STATE]; omega
  generalize (if s.linkOpen k then ((a.countSat (R.FVL_RETRAINS k)).raise (pgFVL k) 1).severity 2 else a) = b at *
  have wrapped : Dozes o (if s.linkUp k then b.wrapRing k else b) := .andIf counted (.wrapRing .refl)
  generalize (if s.linkUp k then b.wrapRing k else b) = c at *
  have synced : Dozes o (if s.linkOpen k ∧ isPartnerLink k ∧ ¬ c.linkOpen (1 - k) ∧ c.get R.PAIR_ROLE = 1 ∧ (c.get R.PAIR_SYNC = 1 ∨ c.get R.PAIR_SYNC = 2)
      then c.outOfSync else c) := .andIf wrapped (.outOfSync .refl)
  exact .settleTree (.ite (synced.dropForwarded none) synced)

/-- What every link going down leaves alone, the links' states apart. -/
theorem State.linksDown_dozes (s : State) (none : s.hq.fwdOut = []) (ks : List Nat) :
    Dozes { s with regs := (ks.foldl (fun s k => s.linkDown k 5) s).regs } (ks.foldl (fun s k => s.linkDown k 5) s) ∧
      (ks.foldl (fun s k => s.linkDown k 5) s).get R.PAIR_PAIR_EN = s.get R.PAIR_PAIR_EN ∧
      ∀ k < 8, k ∈ ks ∨ s.get (R.FVL_STATE k) = 0 → (ks.foldl (fun s k => s.linkDown k 5) s).get (R.FVL_STATE k) = 0 := by
  induction ks generalizing s with
  | nil => exact ⟨.refl, rfl, fun k _ h => h.resolve_left (by simp)⟩
  | cons j ks ih =>
    have down := s.linkDown_dozes j 5 none
    obtain ⟨rest, pair, links⟩ := ih (s.linkDown j 5) (down.fwd.trans none)
    have start : ∀ k < 8, k = j ∨ s.get (R.FVL_STATE k) = 0 → (s.linkDown j 5).get (R.FVL_STATE k) = 0 := fun k hk h => by
      refine (down.fields _ (linkState_dozes hk)).trans ?_
      by_cases same : k = j
      · rw [same]
        exact (s.get_set_same (R.FVL_STATE j) 0).trans (Nat.zero_mod _)
      · refine (s.get_set_ne _ _ _ ?_).trans (h.resolve_left same)
        simp only [Field.key, R.FVL_STATE]; omega
    refine ⟨?_, pair.trans ((down.fields _ (by simp [dozeFields])).trans (s.get_set_ne _ _ _ ?_)), fun k hk h => links k hk ?_⟩
    · exact ⟨rest.ob.trans down.ob, rest.ge.trans down.ge, rest.hb.trans down.hb, rest.sram.trans down.sram, rest.claim.trans down.claim,
        rest.kept.trans down.kept, rest.ctxs.trans down.ctxs, rest.staged.trans down.staged, rest.fwd.trans down.fwd, .update .refl rfl⟩
    · simp only [Field.key, R.FVL_STATE, R.PAIR_PAIR_EN]; omega
    · rcases h with listed | zero
      · rcases List.mem_cons.mp listed with same | later
        · exact .inr (start k hk (.inl same))
        · exact .inl later
      · exact .inr (start k hk (.inr zero))

/-! ## The clusters, the cards and Agate's window -/

namespace Dozes

theorem closeWindow {short : Bool} (h : Dozes s t) : Dozes s (t.closeWindow short) := by
  have agate : ∀ {a b : State}, b = { a with regs := b.regs, ag := b.ag } → spares dozeFields a b → Dozes a b := fun only fields => by
    refine ⟨?_, ?_, ?_, ?_, ?_, ?_, ?_, ?_, ?_, fields⟩ <;> rw [only]
  have level : Dozes t t.accrueLevel := by
    unfold State.accrueLevel State.sample
    dsimp only
    split
    · exact agate rfl (.update .refl rfl)
    · split
      · exact agate rfl (.update .refl rfl)
      · split
        · exact .raise (agate rfl (.update .refl rfl))
        · exact agate rfl (.update .refl rfl)
  have kept : ∀ (v : State) (sev : Nat) (r : List Byte), Dozes v (v.keepRecord sev r) := fun v sev r => by
    unfold State.keepRecord
    split
    · exact .raise (.set .refl (by decide))
    · next i _ =>
      have stored : Dozes v { v with ag := { v.ag with ring := Sparse.set [] v.ag.ring i r } } := agate rfl (.update .refl rfl)
      exact .set (.set stored (by decide)) (by decide)
  have numbered : ∀ v : State, Dozes v v.published := fun v => agate rfl (.update (t := v.set R.AGT_LAST_RNUM (v.get R.AGT_LAST_RNUM + 1)) (.set .refl (by decide)) rfl)
  rw [State.closeWindow_eq]
  dsimp only
  refine h.trans (level.trans ?_)
  generalize t.accrueLevel = v
  have told : Dozes v (((v.published.keepRecord (v.get R.AGT_OPEN_SEV) (v.windowRecord short)).count (R.BLK_SEQ pgAGT) 2).raise pgAGT 0) :=
    .raise (.set ((numbered v).trans (kept _ _ _)) (by decide))
  generalize ((v.published.keepRecord (v.get R.AGT_OPEN_SEV) (v.windowRecord short)).count (R.BLK_SEQ pgAGT) 2).raise pgAGT 0 = w at *
  have noted : Dozes v (if w.get R.AGT_SEV_INT ≤ v.get R.AGT_OPEN_SEV then w.raise pgAGT 1 else w) := told.andIf (.raise .refl)
  generalize (if w.get R.AGT_SEV_INT ≤ v.get R.AGT_OPEN_SEV then w.raise pgAGT 1 else w) = x at *
  exact noted.trans (agate rfl (.update .refl rfl))

theorem powerOffCluster (h : Dozes s t) (i : Nat) : Dozes s (t.powerOffCluster i) := by
  have units : ∀ {a b : State}, b.regs = a.regs → b.ob = a.ob → b.ge = a.ge → b.hb = a.hb → b.sc = a.sc → b.pr = a.pr → b.sq.ctxs = a.sq.ctxs → b.hq = a.hq →
      Dozes a b := fun regs ob ge hb sc pr ctxs hq => by
    refine ⟨ob, ge, hb, ?_, ?_, ?_, ctxs, ?_, ?_, .update .refl regs⟩
    · rw [sc]
    · rw [pr]
    · rw [pr]
    · rw [hq]
    · rw [hq]
  have settled : ∀ (v : State) (n : Nat), Dozes v (v.settleCluster n) := fun v n => by
    unfold State.settleCluster
    exact .settleTake (.setBit (.ite (.severity .refl) .refl) (by decide))
  have settledPk : ∀ (v : State) (n : Nat), Dozes v (v.settlePkCluster n) := fun v n => by
    unfold State.settlePkCluster
    exact .settleTake (.setBit (.ite (.severity .refl) .refl) (by decide))
  have dropped : ∀ (v : State) (n : Nat), Dozes v (v.dropInstance n) := fun v n => by
    unfold State.dropInstance State.dropSeed
    split <;> exact units rfl rfl rfl rfl rfl rfl rfl rfl
  refine h.trans ?_
  unfold State.powerOffCluster
  split
  · have lanes : Dozes t ((List.range 4).foldl (fun s l => s.updLane i l fun _ => {}) t) := .foldl .refl fun _ _ => units rfl rfl rfl rfl rfl rfl rfl rfl
    dsimp only
    generalize (List.range 4).foldl (fun s l => s.updLane i l fun _ => {}) t = v at *
    have empty : Dozes v ((v.updHash i fun _ => {}).updFmt i fun _ => {}) := units rfl rfl rfl rfl rfl rfl rfl rfl
    generalize (v.updHash i fun _ => {}).updFmt i (fun _ => {}) = w at *
    have off := ((lanes.trans empty).trans (settled w i)).trans (dropped _ i)
    generalize (w.settleCluster i).dropInstance i = x at *
    have residents : Dozes x (x.setResidents i []) := units rfl rfl rfl rfl rfl rfl rfl rfl
    exact .setBit (off.trans residents) (by decide)
  · have units : Dozes t ((List.range 9).foldl (fun s u => s.updPk (i - 16) u fun _ => {}) t) := .foldl .refl fun _ _ => units rfl rfl rfl rfl rfl rfl rfl rfl
    exact .setBit (units.trans (settledPk _ _)) (by decide)

theorem setPin {f : Nat} {b : Bool} (h : Dozes s t) : Dozes s (t.setPin f b) := .ite (h.set (by decide)) h

theorem deactivateCard {p : Nat} (h : Dozes s t) : Dozes s (t.deactivateCard p) := by
  unfold State.deactivateCard
  have reset : Dozes t ((((t.set (R.CARD_CLASS p) 0).set (R.CARD_PROTO_T1 p) 0).set (R.CARD_CLK_STOPPED p) 0).set (R.CARD_CLK_MHZ p) 0) := by
    refine .set (.set (.set (.set .refl ?_) ?_) ?_) ?_
    all_goals exact apart_beyond 0x90000 (by decide) (by simp only [R.CARD_CLASS, R.CARD_PROTO_T1, R.CARD_CLK_STOPPED, R.CARD_CLK_MHZ]; omega)
  refine h.trans (reset.trans ⟨rfl, rfl, rfl, rfl, rfl, rfl, rfl, rfl, rfl, .update .refl rfl⟩)

theorem endCardApproval {r : Nat} (h : Dozes s t) : Dozes s (t.endCardApproval r) := by
  unfold State.endCardApproval
  dsimp only
  have pinned := (Dozes.set (Dozes.set h (f := R.CARD_APPROVE_BUSY) (v := 0) (by decide)) (f := R.CARD_APPROVE_RESULT) (v := r) (by decide)).setPin (f := 4) (b := false)
  generalize ((t.set R.CARD_APPROVE_BUSY 0).set R.CARD_APPROVE_RESULT r).setPin 4 false = v at *
  have cleared : Dozes s ({ v with cd := { stops := v.cd.stops } } : State) := pinned.trans ⟨rfl, rfl, rfl, rfl, rfl, rfl, rfl, rfl, rfl, .update .refl rfl⟩
  exact .deactivateCard (.raise cleared)

theorem deactivateCards (h : Dozes s t) : Dozes s t.deactivateCards := by
  unfold State.deactivateCards State.dropCardApproval
  exact .deactivateCard (.deactivateCard (h.ite h.endCardApproval))

end Dozes

/-! ## The ports lost (R57) -/

/-- The queue pairs of lost functions marked. -/
def State.pairsLost (s : State) (ks : List Nat) : State :=
  ks.foldl (fun s k => ((s.updQp (k / 64) (k % 64) fun x => { x with qstate := .linkLost, reading := 0 }).severity 2).partEvent (k / 64) 0) s

/-- Queue pairs lost while no command is left. -/
structure Unplugged (s t : State) : Prop where
  dozes : Dozes s t
  view : t.endView = s.endView

theorem Unplugged.refl : Unplugged s s := ⟨.refl, rfl⟩
theorem Unplugged.trans (h : Unplugged s t) (k : Unplugged t u) : Unplugged s u := ⟨h.dozes.trans k.dozes, k.view.trans h.view⟩

theorem Unplugged.foldl {α : Type} {f : State → α → State} {xs : List α} (h : Unplugged s t) (hf : ∀ u a, Unplugged u (f u a)) : Unplugged s (xs.foldl f t) :=
  foldl_keeps (Unplugged s) f (fun u a hu => hu.trans (hf u a)) xs t h

theorem State.complete_unplugged (s : State) (ok : Option Bool) (c : Cmd) (e : Ending) : Unplugged s (s.complete ok c e) := by
  have written : s.complete ok c e = s.answer ok { c with peer := none } e := rfl
  rw [written]
  exact ⟨.answer .refl, s.answer_endView ..⟩

theorem State.pairsLost_unplugged (s : State) (ks : List Nat) : Unplugged s (s.pairsLost ks) := by
  unfold State.pairsLost
  exact .foldl .refl fun u k => ⟨.partEvent (.severity (.updQp .refl)), by simp⟩

theorem State.loseQps_unplugged {s : State} (f : Func → Bool) (staged : s.hq.staged = []) (fwd : s.hq.fwdOut = []) (idle : s.running = []) :
    Unplugged s (s.loseQps f) := by
  have lost := s.pairsLost_unplugged (s.lostQps f)
  unfold State.loseQps
  dsimp only
  rw [show (s.lostQps f).foldl (fun s k => ((s.updQp (k / 64) (k % 64) fun x => { x with qstate := .linkLost, reading := 0 }).severity 2).partEvent (k / 64) 0) s =
    s.pairsLost (s.lostQps f) from rfl]
  generalize s.pairsLost (s.lostQps f) = v at *
  rw [lost.dozes.staged.trans staged, lost.dozes.fwd.trans fwd]
  generalize v.hq.held.filter (·.cmd.among (s.lostQps f)) = gone
  generalize v.hq.held.filter (fun x => !x.cmd.among (s.lostQps f)) = left
  simp only [List.filter_nil, List.map_nil, List.append_nil, List.foldl_nil]
  have trimmed : Unplugged v { v with hq := { v.hq with staged := [], fwdOut := [], held := left } } :=
    ⟨⟨rfl, rfl, rfl, rfl, rfl, rfl, rfl, (lost.dozes.staged.trans staged).symm, (lost.dozes.fwd.trans fwd).symm, .update .refl rfl⟩, rfl⟩
  have ended := trimmed.foldl (xs := gone) fun u x => u.complete_unplugged x.ok x.cmd x.ending
  have all := lost.trans ended
  generalize gone.foldl (fun s x => s.complete x.ok x.cmd x.ending) ({ v with hq := { v.hq with staged := [], fwdOut := [], held := left } } : State) = w at *
  have none : w.running = [] := by rw [State.running, all.dozes.ctxs]; exact idle
  rw [none]
  exact all

theorem State.portDown_unplugged {s : State} (port : Fin 2) (staged : s.hq.staged = []) (fwd : s.hq.fwdOut = []) (idle : s.running = []) :
    Unplugged s (s.portDown port) := by
  unfold State.portDown
  split
  · exact .refl
  · dsimp only
    have down : Unplugged s (((s.set (portUp port) 0).set (portGen port) 0).set (portWidth port) 0) := by
      have off : ∀ port : Fin 2, offEnd (portUp port) = false ∧ offEnd (portGen port) = false ∧ offEnd (portWidth port) = false ∧
          apart dozeFields (portUp port) ∧ apart dozeFields (portGen port) ∧ apart dozeFields (portWidth port) := by decide
      obtain ⟨up, gen, width, up', gen', width'⟩ := off port
      exact ⟨.set (.set (.set .refl up') gen') width', by rw [State.set_endView _ _ width, State.set_endView _ _ gen, State.set_endView _ _ up]⟩
    generalize ((s.set (portUp port) 0).set (portGen port) 0).set (portWidth port) 0 = v at *
    have told : Unplugged v (v.raise pgHQE (if port = 0 then 1 else 2)) := ⟨.raise .refl, State.raise_endView _ _ (by decide)⟩
    have seen := down.trans told
    generalize v.raise pgHQE (if port = 0 then 1 else 2) = w at *
    refine seen.trans (State.loseQps_unplugged _ (seen.dozes.staged.trans staged) (seen.dozes.fwd.trans fwd) ?_)
    rw [State.running, seen.dozes.ctxs]; exact idle

theorem State.running_of_dozes (h : Dozes s t) (idle : s.running = []) : t.running = [] := by rw [State.running, h.ctxs]; exact idle

/-! ## What sleep loses (R331, R333, R359) -/

/-- Flint without its instances, Agate without its sets and window. -/
def State.setsLost (s : State) : State :=
  { s with
    fl := { everReady := s.fl.everReady, failures := s.fl.failures,
            cells := Sparse.mapVals {} (fun _ x => { x.leave with start := false, restarts := 0, fresh := true }) s.fl.cells }
    ag := { s.ag with live := [], win := [], open_ := false } }

/-- The pads held. -/
def State.padsHeld (s : State) : State := { s.set R.FLT_READY 0 with pw := { s.pw with heldSd := true, heldCard := true, gated := [], activeAt := [] } }

/-- The clusters without power, Agate's window closed. -/
def State.clustersLost (s : State) : State :=
  let s := (List.range 24).foldl (fun s i => s.powerOffCluster i) s
  if s.ag.open_ then s.closeWindow true else s

theorem State.loseSleep_eq (s : State) : s.loseSleep = s.allLinksDown.clustersLost.setsLost.padsHeld := by
  unfold State.loseSleep State.clustersLost
  dsimp only
  generalize (List.range 24).foldl (fun s i => s.powerOffCluster i) s.allLinksDown = v
  generalize (if v.ag.open_ = true then v.closeWindow true else v) = w
  rfl

/-- The module with its links down, Flint at rest and its pads held. -/
structure Asleep (s t : State) : Prop where
  rest : Dozes { s with regs := t.regs } t
  pair : t.get R.PAIR_PAIR_EN = s.get R.PAIR_PAIR_EN
  links : ∀ k < 8, t.get (R.FVL_STATE k) = 0
  flint : t.get R.FLT_READY = 0
  queues : t.fl.queues = []
  sd : t.pw.heldSd = true
  card : t.pw.heldCard = true

/-- Whatever dozes on stays asleep where Flint and the pads stand. -/
theorem Asleep.onward (h : Asleep s t) (k : Dozes t u) (flint : u.get R.FLT_READY = t.get R.FLT_READY) (fl : u.fl = t.fl)
    (sd : u.pw.heldSd = t.pw.heldSd) (card : u.pw.heldCard = t.pw.heldCard) : Asleep s u where
  rest := ⟨k.ob.trans h.rest.ob, k.ge.trans h.rest.ge, k.hb.trans h.rest.hb, k.sram.trans h.rest.sram, k.claim.trans h.rest.claim,
    k.kept.trans h.rest.kept, k.ctxs.trans h.rest.ctxs, k.staged.trans h.rest.staged, k.fwd.trans h.rest.fwd, .update .refl rfl⟩
  pair := (k.fields _ (List.mem_cons_self ..)).trans h.pair
  links j hj := (k.fields _ (linkState_dozes hj)).trans (h.links j hj)
  flint := flint.trans h.flint
  queues := by rw [fl]; exact h.queues
  sd := sd.trans h.sd
  card := card.trans h.card

theorem State.loseSleep_asleep (s : State) (none : s.hq.fwdOut = []) : Asleep s s.loseSleep := by
  obtain ⟨rest, pair, links⟩ := s.linksDown_dozes none (List.range 8)
  rw [State.loseSleep_eq]
  rw [show (List.range 8).foldl (fun s k => s.linkDown k 5) s = s.allLinksDown from rfl] at rest pair links
  generalize s.allLinksDown = v at *
  have clusters : Dozes v v.clustersLost := by
    unfold State.clustersLost
    have off : Dozes v ((List.range 24).foldl (fun s i => s.powerOffCluster i) v) := .foldl .refl fun _ i => Dozes.refl.powerOffCluster i
    generalize (List.range 24).foldl (fun s i => s.powerOffCluster i) v = w at *
    exact off.andIf (.closeWindow .refl)
  generalize v.clustersLost = w at *
  have still : Dozes w w.setsLost.padsHeld :=
    ⟨rfl, rfl, rfl, rfl, rfl, rfl, rfl, rfl, rfl, .update (t := w.setsLost.set R.FLT_READY 0) (.set (.update (t := w) .refl rfl) (by decide)) rfl⟩
  have all := clusters.trans still
  refine ⟨⟨all.ob.trans rest.ob, all.ge.trans rest.ge, all.hb.trans rest.hb, all.sram.trans rest.sram, all.claim.trans rest.claim,
    all.kept.trans rest.kept, all.ctxs.trans rest.ctxs, all.staged.trans rest.staged, all.fwd.trans rest.fwd, .update .refl rfl⟩,
    (all.fields _ (List.mem_cons_self ..)).trans pair, fun k hk => (all.fields _ (linkState_dozes hk)).trans (links k hk (.inl (List.mem_range.mpr hk))),
    ?_, rfl, rfl, rfl⟩
  exact (w.setsLost.get_set_same R.FLT_READY 0).trans (Nat.zero_mod _)

/-! ## Registers alone -/

/-- The registers an entry's last steps spare. -/
def sleepFields : List Field := R.FLT_READY :: R.RST_BLK_READY :: dozeFields

/-- Nothing but registers differs, and the listed ones hold. -/
structure Registers (fs : List Field) (s t : State) : Prop where
  only : t = { s with regs := t.regs }
  fields : spares fs s t

namespace Registers
variable {fs : List Field}

theorem refl : Registers fs s s := ⟨rfl, .refl⟩
theorem trans (h : Registers fs s t) (k : Registers fs t u) : Registers fs s u :=
  ⟨k.only.trans (by rw [h.only]), h.fields.trans k.fields⟩
theorem set {f : Field} {v : Nat} (h : Registers fs s t) (off : apart fs f) : Registers fs s (t.set f v) := h.trans ⟨rfl, .set .refl off⟩
theorem setBit {f : Field} {i : Nat} {b : Bool} (h : Registers fs s t) (off : apart fs f) : Registers fs s (t.setBit f i b) := h.set off
theorem ite {c : Prop} [Decidable c] (h : Registers fs s t) (k : Registers fs s u) : Registers fs s (if c then t else u) := by split <;> assumption

theorem foldl {α : Type} {f : State → α → State} {xs : List α} (h : Registers fs s t) (hf : ∀ u, ∀ a ∈ xs, Registers fs u (f u a)) :
    Registers fs s (xs.foldl f t) := by
  induction xs generalizing t with
  | nil => exact h
  | cons a xs ih => exact ih (h.trans (hf t a (by simp))) fun u b hb => hf u b (by simp [hb])

theorem domainsOff {ds : List Nat} (h : Registers fs s t) (low : apart fs R.PWR_DOMAIN_ON_LO) (high : apart fs R.PWR_DOMAIN_ON_HI) :
    Registers fs s (t.domainsOff ds) := h.foldl fun _ _ _ => .ite (.setBit .refl low) (.setBit .refl high)

theorem lockFixed {is : List Nat} {b : Bool} (h : Registers fs s t) (lock : apart fs R.GBL_ISLAND_LOCK) : Registers fs s (t.lockFixed is b) :=
  h.foldl fun _ _ _ => .setBit .refl lock

end Registers

theorem Asleep.registers (h : Asleep s t) (k : Registers (R.FLT_READY :: dozeFields) t u) : Asleep s u := by
  have only := k.only
  refine h.onward ⟨?_, ?_, ?_, ?_, ?_, ?_, ?_, ?_, ?_, k.fields.mono fun f hf => List.mem_cons_of_mem _ hf⟩ (k.fields _ (List.mem_cons_self ..)) ?_ ?_ ?_
  all_goals rw [only]

theorem State.enterS2_registers (s : State) : Registers (R.FLT_READY :: dozeFields) s s.enterS2 := by
  unfold State.enterS2
  have ports : ∀ n < 2, apart (R.FLT_READY :: dozeFields) (R.HBM_PHY_READY n) ∧ apart (R.FLT_READY :: dozeFields) (R.HBM_SELF_REFRESH n) := by decide
  refine .lockFixed (.domainsOff (.set (.foldl .refl fun u n hn => ?_) (by decide)) (by decide) (by decide)) (by decide)
  obtain ⟨ready, refresh⟩ := ports n (List.mem_range.mp hn)
  exact .set (.set .refl ready) refresh

/-- The stacks, the keys and the shared SRAM lost. -/
def State.memoriesLost (s : State) : State :=
  { s with
    hb := {}
    sq := { s.sq with progs := [], fmtTab := [], derTab := [], fmtPrev := [], derPrev := [] }
    pk.curves := []
    ge := { masks := s.ge.masks }
    sc.sram := []
    dm.lost := s.enrolled }

/-- The ports down, every queue pair lost, the stacks not ready. -/
def State.portsLost (s : State) : State :=
  (List.range 2).foldl (fun s n => ((s.set (R.HBM_PHY_READY n) 0).set (R.HBM_PROT_READY n) 0).set (R.HBM_WORK_READY n) 0)
    (((s.portDown 0).portDown 1).loseQps fun _ => true)

theorem State.enterS3_registers (s : State) : Registers (R.FLT_READY :: dozeFields) s.portsLost.memoriesLost s.enterS3 := by
  have off : s.enterS3 = ((s.portsLost.memoriesLost.count R.PWR_S3_CNT).domainsOff (s2Off ++ s3Off)).lockFixed (s2Islands ++ s3Islands) false := by
    unfold State.enterS3 State.portsLost
    dsimp only
    generalize ((s.portDown 0).portDown 1).loseQps (fun _ => true) = v
    generalize (List.range 2).foldl (fun s n => ((s.set (R.HBM_PHY_READY n) 0).set (R.HBM_PROT_READY n) 0).set (R.HBM_WORK_READY n) 0) v = w
    rfl
  rw [off]
  exact .lockFixed (.domainsOff (.set .refl (by decide)) (by decide) (by decide)) (by decide)

theorem State.portsLost_asleep {s t : State} (h : Asleep s t) (staged : t.hq.staged = []) (fwd : t.hq.fwdOut = []) (idle : t.running = []) :
    Asleep s t.portsLost := by
  have one := State.portDown_unplugged 0 staged fwd idle
  have two := one.trans (State.portDown_unplugged 1 (one.dozes.staged.trans staged) (one.dozes.fwd.trans fwd) (State.running_of_dozes one.dozes idle))
  have three := two.trans (State.loseQps_unplugged (fun _ => true) (two.dozes.staged.trans staged) (two.dozes.fwd.trans fwd)
    (State.running_of_dozes two.dozes idle))
  unfold State.portsLost
  generalize ((t.portDown 0).portDown 1).loseQps (fun _ => true) = u at *
  have offs := State.offEnds_of_endView three.view
  have fl : u.offEnds.fl = t.offEnds.fl := congrArg State.fl offs
  have pw : u.offEnds.pw = t.offEnds.pw := congrArg State.pw offs
  have sd := congrArg Power.heldSd pw
  have card := congrArg Power.heldCard pw
  have lost : Asleep s u := h.onward three.dozes (State.get_of_endView three.view (by decide)) fl sd card
  have ready : ∀ n < 2, apart (R.FLT_READY :: dozeFields) (R.HBM_PHY_READY n) ∧ apart (R.FLT_READY :: dozeFields) (R.HBM_PROT_READY n) ∧
      apart (R.FLT_READY :: dozeFields) (R.HBM_WORK_READY n) := by decide
  refine lost.registers (.foldl .refl fun v n hn => ?_)
  obtain ⟨phy, prot, work⟩ := ready n (List.mem_range.mp hn)
  exact .set (.set (.set .refl phy) prot) work

/-! ## The entry (R330, R336) -/

/-- The kept health noted, the cards and the journal let go. -/
def State.drowsy (s : State) : State :=
  let t : State := { s with pr := { s.pr with kept := some s.healthOut } }
  let t := if s.pw.s3 then t.deactivateCards else t
  let t := { t with jr := { rpmb := t.jr.rpmb } }
  ((t.set R.SD_PRESENT 0).set R.SD_MODE 0).set R.SD_JSTATE 0

/-- BLK_READY as sleep leaves it. -/
def State.blocksOff (s : State) (bs : List Nat) : State :=
  (s.set R.RST_BLK_READY (bs.foldl (fun r b => putBit r b false) (s.get R.RST_BLK_READY))).set R.PWR_SLEEP 0

/-- The module asleep, its sentinel stopped. -/
def State.slept (s : State) : State := { s with pw := { s.pw with phase := .asleep }, bt := { s.bt with wdogDue := none } }

section
variable (entering : s.pw.phase = .entering) (staged : s.hq.staged = []) (idle : s.running = []) (fwd : s.hq.fwdOut = []) (step : s.get R.PWR_STEP = 0)
  (level : s.levelSettled = true)
include entering staged idle fwd step level

theorem execSleepEntry_eq : exec .sleepEntry s = .next (((if s.pw.s3 then s.drowsy.loseSleep.enterS3 else s.drowsy.loseSleep.enterS2).blocksOff
    (if s.pw.s3 then s3Blocks else s2Blocks)).slept) := by
  show execSleepEntry s = _
  unfold execSleepEntry
  rw [if_neg (by simp [entering, staged, idle, fwd, step, level])]
  rfl

end

theorem bitOf_putBits (bs : List Nat) (r : Nat) {b : Nat} (hb : b ∈ bs) : bitOf (bs.foldl (fun r b => putBit r b false) r) b = false :=
  foldl_makes (fun r => bitOf r b = false) (fun r b => putBit r b false) (fun r j h => by
    rw [bitOf_testBit] at *
    rw [testBit_putBit]
    split <;> simp_all) hb (fun r => by rw [bitOf_testBit, testBit_putBit]; simp) r

theorem State.drowsy_dozes (s : State) : Dozes { s with pr := { s.pr with kept := some s.healthOut } } s.drowsy := by
  unfold State.drowsy
  dsimp only
  generalize ({ s with pr := { s.pr with kept := some s.healthOut } } : State) = v
  have cards : Dozes v (if s.pw.s3 = true then v.deactivateCards else v) := .andIf .refl (.deactivateCards .refl)
  generalize (if s.pw.s3 = true then v.deactivateCards else v) = w at *
  have journal : Dozes w { w with jr := { rpmb := w.jr.rpmb } } := ⟨rfl, rfl, rfl, rfl, rfl, rfl, rfl, rfl, rfl, .update .refl rfl⟩
  exact .set (.set (.set (cards.trans journal) (by decide)) (by decide)) (by decide)

/-- What either sleep state keeps and loses. -/
structure Lulled (s t : State) : Prop where
  ob : t.ob = s.ob
  claim : t.pr.claimOut = s.pr.claimOut
  kept : t.pr.kept = s.pr.kept
  pair : t.get R.PAIR_PAIR_EN = s.get R.PAIR_PAIR_EN
  links : ∀ k < 8, t.get (R.FVL_STATE k) = 0
  flint : t.get R.FLT_READY = 0
  queues : t.fl.queues = []
  sd : t.pw.heldSd = true
  card : t.pw.heldCard = true

theorem Asleep.lulled (h : Asleep s t) : Lulled s t :=
  ⟨h.rest.ob, h.rest.claim, h.rest.kept, h.pair, h.links, h.flint, h.queues, h.sd, h.card⟩

theorem Lulled.registers (h : Lulled s t) (k : Registers (R.FLT_READY :: dozeFields) t u) : Lulled s u := by
  refine ⟨?_, ?_, ?_, (k.fields _ (by simp [dozeFields])).trans h.pair,
    fun j hj => (k.fields _ (List.mem_cons_of_mem _ (linkState_dozes hj))).trans (h.links j hj), (k.fields _ (List.mem_cons_self ..)).trans h.flint, ?_, ?_, ?_⟩
  all_goals rw [k.only]
  · exact h.ob
  · exact h.claim
  · exact h.kept
  · exact h.queues
  · exact h.sd
  · exact h.card

theorem State.memoriesLost_lulled (h : Lulled s t) : Lulled s t.memoriesLost :=
  ⟨h.ob, h.claim, h.kept, h.pair, h.links, h.flint, h.queues, h.sd, h.card⟩

theorem State.blocksOff_registers (s : State) (bs : List Nat) : Registers (R.FLT_READY :: dozeFields) s (s.blocksOff bs) :=
  .set (.set .refl (by decide)) (by decide)

theorem State.blocksOff_ready (s : State) {bs : List Nat} {b : Nat} (hb : b ∈ bs) : (s.blocksOff bs).bit R.RST_BLK_READY b = false := by
  have ready : (s.blocksOff bs).get R.RST_BLK_READY = bs.foldl (fun r b => putBit r b false) (s.get R.RST_BLK_READY) % 2 ^ R.RST_BLK_READY.width :=
    (State.get_set_ne _ _ _ _ (by decide)).trans (s.get_set_same ..)
  rw [State.bit, ready, bitOf_testBit, Nat.testBit_mod_two_pow, ← bitOf_testBit, bitOf_putBits bs _ hb, Bool.and_false]

theorem State.blocksOff_sleep (s : State) (bs : List Nat) : (s.blocksOff bs).get R.PWR_SLEEP = 0 := (State.get_set_same _ R.PWR_SLEEP 0).trans (Nat.zero_mod _)

/-- What the module asleep shows. -/
theorem State.slept_spec {u : State} (h : Lulled s.drowsy u) {bs : List Nat} (blocks : ∀ b ∈ s2Blocks, b ∈ bs) :
    ((u.blocksOff bs).slept).pw.phase = .asleep ∧ ((u.blocksOff bs).slept).get R.PWR_SLEEP = 0 ∧ ((u.blocksOff bs).slept).get R.FLT_READY = 0 ∧
    (∀ k < 8, ((u.blocksOff bs).slept).linkOpen k = false) ∧ (∀ n < 16, ((u.blocksOff bs).slept).queueFill n = 0) ∧
    ((u.blocksOff bs).slept).pw.heldSd = true ∧ ((u.blocksOff bs).slept).pw.heldCard = true ∧
    (∀ b ∈ s2Blocks, ((u.blocksOff bs).slept).bit R.RST_BLK_READY b = false) ∧ ((u.blocksOff bs).slept).healthOut = s.healthOut ∧
    ((u.blocksOff bs).slept).pr.claimOut = s.pr.claimOut ∧ ((u.blocksOff bs).slept).ob.mmk = s.ob.mmk := by
  have lulled := h.registers (u.blocksOff_registers bs)
  have sleep := u.blocksOff_sleep bs
  have ready : ∀ b ∈ s2Blocks, (u.blocksOff bs).bit R.RST_BLK_READY b = false := fun b hb => u.blocksOff_ready (blocks b hb)
  generalize u.blocksOff bs = v at *
  have drowsy := s.drowsy_dozes
  have pair : s.drowsy.get R.PAIR_PAIR_EN = s.get R.PAIR_PAIR_EN := drowsy.fields _ (by simp [dozeFields])
  have kept : s.drowsy.pr.kept = some s.healthOut := drowsy.kept
  have claim : s.drowsy.pr.claimOut = s.pr.claimOut := drowsy.claim
  have ob : s.drowsy.ob = s.ob := drowsy.ob
  generalize s.drowsy = d at *
  refine ⟨rfl, sleep, lulled.flint, fun k hk => ?_, fun n _ => ?_, lulled.sd, lulled.card, ready, ?_, lulled.claim.trans claim, by
    show v.ob.mmk = _; rw [lulled.ob, ob]⟩
  · show v.linkOpen k = false
    rw [State.linkOpen, lulled.links k hk]
    rfl
  · show v.queueFill n = 0
    rw [State.queueFill, State.queue, lulled.queues]
    rfl
  · show (v.get R.PAIR_PAIR_EN == 1 && v.pr.kept.getD _) = s.healthOut
    rw [lulled.pair, pair, lulled.kept, kept, Option.getD_some, State.healthOut]
    cases (s.get R.PAIR_PAIR_EN == 1) <;> rfl

section
variable (entering : s.pw.phase = .entering) (staged : s.hq.staged = []) (idle : s.running = []) (fwd : s.hq.fwdOut = []) (step : s.get R.PWR_STEP = 0)
  (level : s.levelSettled = true)
include entering staged idle fwd step level

theorem execSleepEntry_sleeps : ∃ t, exec .sleepEntry s = .next t ∧ t.pw.phase = .asleep ∧ t.get R.PWR_SLEEP = 0 ∧ t.get R.FLT_READY = 0 ∧
    (∀ k < 8, t.linkOpen k = false) ∧ (∀ n < 16, t.queueFill n = 0) ∧ t.pw.heldSd = true ∧ t.pw.heldCard = true ∧
    (∀ b ∈ s2Blocks, t.bit R.RST_BLK_READY b = false) ∧ t.healthOut = s.healthOut ∧ t.pr.claimOut = s.pr.claimOut ∧ t.ob.mmk = s.ob.mmk ∧
    (s.pw.s3 = false → t.ge = s.ge ∧ t.hb.mem = s.hb.mem ∧ t.sc.sram = s.sc.sram) ∧
    (s.pw.s3 = true → t.ge.lines = [] ∧ t.hb.mem = [] ∧ t.hb.keys = [] ∧ t.sc.sram = []) := by
  have run := execSleepEntry_eq entering staged idle fwd step level
  have drowsy := s.drowsy_dozes
  have asleep := s.drowsy.loseSleep_asleep (drowsy.fwd.trans fwd)
  have staged' := asleep.rest.staged.trans (drowsy.staged.trans staged)
  have fwd' := asleep.rest.fwd.trans (drowsy.fwd.trans fwd)
  have idle' : s.drowsy.loseSleep.running = [] := by
    rw [State.running, asleep.rest.ctxs]
    show s.drowsy.sq.ctxs.filter _ = []
    rw [drowsy.ctxs]
    exact idle
  cases s3 : s.pw.s3 with
  | false =>
    rw [s3] at run
    refine ⟨_, run, ?_⟩
    clear run
    show _ ∧ _
    have two := asleep.registers (State.enterS2_registers _)
    simp only [Bool.false_eq_true, if_false]
    generalize s.drowsy.loseSleep.enterS2 = v at *
    obtain ⟨phase, sleep, flint, links, queues, sd, card, ready, health, claim, mmk⟩ := State.slept_spec two.lulled fun b hb => hb
    have ge : ((v.blocksOff s2Blocks).slept).ge = s.ge := two.rest.ge.trans drowsy.ge
    have hb : ((v.blocksOff s2Blocks).slept).hb = s.hb := two.rest.hb.trans drowsy.hb
    have sram : ((v.blocksOff s2Blocks).slept).sc.sram = s.sc.sram := two.rest.sram.trans drowsy.sram
    exact ⟨phase, sleep, flint, links, queues, sd, card, ready, health, claim, mmk, fun _ => ⟨ge, by rw [hb], sram⟩, fun h => by simp at h⟩
  | true =>
    rw [s3] at run
    refine ⟨_, run, ?_⟩
    clear run
    show _ ∧ _
    have lost := State.memoriesLost_lulled (State.portsLost_asleep asleep staged' fwd' idle').lulled
    have three := lost.registers (State.enterS3_registers _)
    have gone := (State.enterS3_registers s.drowsy.loseSleep).only
    simp only [if_true]
    have memories : s.drowsy.loseSleep.enterS3.ge.lines = [] ∧ s.drowsy.loseSleep.enterS3.hb.mem = [] ∧ s.drowsy.loseSleep.enterS3.hb.keys = [] ∧
        s.drowsy.loseSleep.enterS3.sc.sram = [] := by
      rw [gone]
      exact ⟨rfl, rfl, rfl, rfl⟩
    generalize s.drowsy.loseSleep.enterS3 = v at *
    obtain ⟨phase, sleep, flint, links, queues, sd, card, ready, health, claim, mmk⟩ := State.slept_spec three (bs := s3Blocks) (by decide)
    exact ⟨phase, sleep, flint, links, queues, sd, card, ready, health, claim, mmk, fun h => by simp at h, fun _ => memories⟩

end

/-! ## Wakes (R332, R334) -/

/-- What tells of a wake. -/
def wakeTold : List Field := [R.PWR_SLEEP, R.PWR_LAST_WAKE, R.PWR_WAKE_LINK, R.PWR_FROM_S3, R.BLK_INT_RAW pgPWR]

/-- `t` wakes as `s` does. -/
structure Wakes (s t : State) : Prop where
  phase : t.pw.phase = s.pw.phase
  wokeAt : t.pw.wokeAt = s.pw.wokeAt
  fields : spares wakeTold s t

namespace Wakes

theorem refl : Wakes s s := ⟨rfl, rfl, .refl⟩
theorem trans (h : Wakes s t) (k : Wakes t u) : Wakes s u := ⟨k.phase.trans h.phase, k.wokeAt.trans h.wokeAt, h.fields.trans k.fields⟩
theorem ite {c : Prop} [Decidable c] (h : Wakes s t) (k : Wakes s u) : Wakes s (if c then t else u) := by split <;> assumption
theorem andIf {c : Prop} [Decidable c] (h : Wakes s t) (k : Wakes t u) : Wakes s (if c then u else t) := (h.trans k).ite h
theorem foldl {α : Type} {f : State → α → State} {xs : List α} (h : Wakes s t) (hf : ∀ u a, Wakes u (f u a)) : Wakes s (xs.foldl f t) :=
  foldl_keeps (Wakes s) f (fun u a hu => hu.trans (hf u a)) xs t h

theorem update (h : Wakes s t) (pw : u.pw = t.pw) (regs : u.regs = t.regs) : Wakes s u :=
  h.trans ⟨by rw [pw], by rw [pw], .update .refl regs⟩

theorem set {f : Field} {v : Nat} (h : Wakes s t) (off : apart wakeTold f) : Wakes s (t.set f v) := h.trans ⟨rfl, rfl, .set .refl off⟩
theorem setBit {f : Field} {i : Nat} {b : Bool} (h : Wakes s t) (off : apart wakeTold f) : Wakes s (t.setBit f i b) := h.set off

theorem severity {n : Nat} (h : Wakes s t) : Wakes s (t.severity n) := by
  have only := (t.severity_spec n).2
  refine h.trans ⟨?_, ?_, .severity .refl (by decide)⟩ <;> rw [only]

theorem settleTake (h : Wakes s t) : Wakes s t.settleTake := by
  have spec := t.settleTake_spec
  refine h.trans ⟨?_, ?_, .settleTake .refl⟩ <;> rw [spec]

theorem settleLevel (h : Wakes s t) : Wakes s t.settleLevel := by
  obtain ⟨failed, pw⟩ := t.settleLevel_pw
  refine h.trans ⟨?_, ?_, .of_keeps .refl t.settleLevel_keeps (by decide)⟩ <;> rw [pw]

theorem urgentPl0 (h : Wakes s t) : Wakes s t.urgentPl0 := by
  have level := Wakes.settleLevel (.refl (s := t))
  have fields := State.urgentPl0_keeps t
  refine h.trans (level.trans ?_)
  have pw : t.urgentPl0.pw.phase = t.settleLevel.pw.phase ∧ t.urgentPl0.pw.wokeAt = t.settleLevel.pw.wokeAt := by
    unfold State.urgentPl0
    dsimp only
    split
    · exact ⟨rfl, rfl⟩
    · have relock := (t.settleLevel.beginRelock_spec 3 (by decide)).2.2.1
      have phase := congrArg Power.phase relock
      have woke := congrArg Power.wokeAt relock
      exact ⟨phase, woke⟩
  exact ⟨pw.1, pw.2, .of_keeps .refl fields (by decide)⟩

theorem applyT1 (h : Wakes s t) : Wakes s t.applyT1 := by
  unfold State.applyT1
  exact .ite (.settleTake (.ite (h.set (by decide)) (.urgentPl0 (h.set (by decide))))) h

theorem powerOnCluster (h : Wakes s t) (i : Nat) : Wakes s (t.powerOnCluster i) := by
  have cluster : ∀ (v : State) (n : Nat), Wakes v (v.settleCluster n) := fun v n => by
    unfold State.settleCluster
    exact .settleTake (.setBit (.ite (.severity .refl) .refl) (by decide))
  have clusterPk : ∀ (v : State) (n : Nat), Wakes v (v.settlePkCluster n) := fun v n => by
    unfold State.settlePkCluster
    exact .settleTake (.setBit (.ite (.severity .refl) .refl) (by decide))
  have locked : Wakes s (t.setBit R.GBL_ISLAND_LOCK i true) := h.setBit (by decide)
  unfold State.powerOnCluster
  dsimp only
  generalize t.setBit R.GBL_ISLAND_LOCK i true = v at *
  refine locked.trans (.ite ?_ ?_)
  · have lanes : Wakes v ((List.range 4).foldl (fun s l => s.updLane i l fun _ => { svc := { katBusy := true } }) v) := .foldl .refl fun _ _ => .update .refl rfl rfl
    unfold State.resetUnits
    dsimp only
    generalize (List.range 4).foldl (fun s l => s.updLane i l fun _ => { svc := { katBusy := true } }) v = w at *
    have units : Wakes w (((w.updHash i fun _ => { svc := { katBusy := true } }).updFmt i fun _ => { katBusy := true }).setMoved i []) := .update .refl rfl rfl
    exact lanes.trans (units.trans (cluster _ _))
  · unfold State.resetPkUnits
    have units : Wakes v ((List.range 9).foldl (fun s u => s.updPk (i - 16) u fun _ => { svc := { katBusy := true } }) v) := .foldl .refl fun _ _ => .update .refl rfl rfl
    exact units.trans (clusterPk _ _)

end Wakes

/-- The wake's registers told. -/
def State.wakeNoted (s : State) (event link : Nat) : State :=
  let t := ((s.set R.PWR_SLEEP 6).set R.PWR_LAST_WAKE event).set R.PWR_WAKE_LINK link
  { t.set R.PWR_FROM_S3 (b2n s.pw.s3) with pw := { s.pw with phase := .waking, wokeAt := s.quartz }, fl := { s.fl with powered := s.quartz } }

/-- The domains, islands, clusters and cells on. -/
def State.powered (s : State) : State :=
  let s := s.domainsOn.lockFixed (s2Islands ++ s3Islands) true
  (((List.range 24).filter fun i => !s.clusterOff i).foldl (fun s i => s.powerOnCluster i) s).startCells

theorem State.beginWake_eq (s : State) (event link : Nat) : s.beginWake event link = (((s.wakeNoted event link).powered.raise pgPWR 5).settleLevel).applyT1 := rfl

theorem State.powered_wakes (s : State) : Wakes s s.powered := by
  have domains : Wakes s s.domainsOn := by
    unfold State.domainsOn
    exact .foldl .refl fun u d => .ite (.setBit .refl (by decide)) (.setBit .refl (by decide))
  have locks : ∀ v : State, Wakes v (v.lockFixed (s2Islands ++ s3Islands) true) := fun v => .foldl .refl fun _ _ => .setBit .refl (by decide)
  unfold State.powered
  dsimp only
  generalize s.domainsOn = v at *
  have locked := domains.trans (locks v)
  generalize v.lockFixed (s2Islands ++ s3Islands) true = w at *
  have clusters : Wakes w (((List.range 24).filter fun i => !w.clusterOff i).foldl (fun s i => s.powerOnCluster i) w) :=
    .foldl .refl fun _ i => Wakes.refl.powerOnCluster i
  generalize ((List.range 24).filter fun i => !w.clusterOff i).foldl (fun s i => s.powerOnCluster i) w = x at *
  have cells : Wakes x x.startCells := .foldl .refl fun _ _ => .update .refl rfl rfl
  exact locked.trans (clusters.trans cells)

theorem State.beginWake_spec (s : State) {event link : Nat} (he : event < 8) (hl : link < 8) :
    (s.beginWake event link).pw.phase = .waking ∧ (s.beginWake event link).get R.PWR_SLEEP = 6 ∧ (s.beginWake event link).get R.PWR_LAST_WAKE = event ∧
    (s.beginWake event link).get R.PWR_WAKE_LINK = link ∧ (s.beginWake event link).get R.PWR_FROM_S3 = b2n s.pw.s3 ∧
    (s.beginWake event link).bit (R.BLK_INT_RAW pgPWR) 5 = true ∧ (s.beginWake event link).pw.wokeAt = s.quartz := by
  have noted : (s.wakeNoted event link).get R.PWR_SLEEP = 6 ∧ (s.wakeNoted event link).get R.PWR_LAST_WAKE = event ∧
      (s.wakeNoted event link).get R.PWR_WAKE_LINK = link ∧ (s.wakeNoted event link).get R.PWR_FROM_S3 = b2n s.pw.s3 ∧
      (s.wakeNoted event link).pw.phase = .waking ∧ (s.wakeNoted event link).pw.wokeAt = s.quartz := by
    have put : ∀ {f g : Field} {v : State} {n : Nat}, g.key ≠ f.key → (v.set g n).get f = v.get f := fun h => State.get_set_ne _ _ _ _ h
    refine ⟨?_, ?_, ?_, ?_, rfl, rfl⟩
    · exact (put (by decide)).trans ((put (by decide)).trans ((put (by decide)).trans (State.get_set_fits _ (by decide))))
    · exact (put (by decide)).trans ((put (by decide)).trans (State.get_set_fits _ he))
    · exact (put (by decide)).trans (State.get_set_fits _ hl)
    · exact State.get_set_fits _ (by cases s.pw.s3 <;> decide)
  rw [State.beginWake_eq]
  have powered := (s.wakeNoted event link).powered_wakes
  obtain ⟨sleep, last, waker, from3, phase, woke⟩ := noted
  generalize s.wakeNoted event link = v at *
  generalize v.powered = w at *
  have told : w.pw = (w.raise pgPWR 5).pw ∧ ∀ f ∈ wakeTold, f ≠ R.BLK_INT_RAW pgPWR → (w.raise pgPWR 5).get f = w.get f := by
    refine ⟨(State.raise_pw _ _ _).symm, fun f hf other => ?_⟩
    refine w.raise_get_ne pgPWR 5 f ?_
    revert f
    decide
  have raised : (w.raise pgPWR 5).bit (R.BLK_INT_RAW pgPWR) 5 = true := State.raise_bit _ _ (by decide)
  generalize w.raise pgPWR 5 = x at *
  obtain ⟨pw, fields⟩ := told
  have after : Wakes x x.settleLevel.applyT1 := .applyT1 (.settleLevel .refl)
  generalize x.settleLevel.applyT1 = y at *
  have all : ∀ f ∈ wakeTold, f ≠ R.BLK_INT_RAW pgPWR → y.get f = v.get f := fun f hf other =>
    (after.fields f hf).trans ((fields f hf other).trans (powered.fields f hf))
  refine ⟨after.phase.trans ((by rw [pw] : x.pw.phase = w.pw.phase).trans (powered.phase.trans phase)), ?_, ?_, ?_, ?_, ?_,
    after.wokeAt.trans ((by rw [pw] : x.pw.wokeAt = w.pw.wokeAt).trans (powered.wokeAt.trans woke))⟩
  · exact (all _ (by simp [wakeTold]) (by decide)).trans sleep
  · exact (all _ (by simp [wakeTold]) (by decide)).trans last
  · exact (all _ (by simp [wakeTold]) (by decide)).trans waker
  · exact (all _ (by simp [wakeTold]) (by decide)).trans from3
  · exact (after.fields.bit (by simp [wakeTold]) 5).trans raised

/-! ## The wake events -/

theorem execWakeTlp_wakes (port : Fin 2) (asleep : s.pw.phase = .asleep) (s2 : s.pw.s3 = false) :
    ∃ t, exec (.wakeTlp port) s = .next t ∧ t.pw.phase = .waking ∧ t.get R.PWR_SLEEP = 6 ∧ t.get R.PWR_LAST_WAKE = 1 + port.val ∧
      t.bit (R.BLK_INT_RAW pgPWR) 5 = true ∧ t.pw.wokeAt = s.quartz := by
  have run : exec (.wakeTlp port) s = .next (s.beginWake (1 + port) 0) := by
    show execWakeTlp port s = _
    unfold execWakeTlp
    rw [asleep, s2]
    rfl
  obtain ⟨phase, sleep, last, -, -, raised, woke⟩ := s.beginWake_spec (event := 1 + port) (link := 0) (by omega) (by decide)
  exact ⟨_, run, phase, sleep, last, raised, woke⟩

theorem execWakeTlp_stays (port : Fin 2) (asleep : s.pw.phase = .asleep) (s3 : s.pw.s3 = true) : exec (.wakeTlp port) s = .next s := by
  show execWakeTlp port s = _
  unfold execWakeTlp
  rw [asleep, s3]
  rfl

theorem execWake_aborts (port : Fin 2) (k : Fin 8) (entering : s.pw.phase = .entering) : ∃ t, exec (.wakeTlp port) s = .next t ∧
    exec (.wakePattern k) s = .next t ∧ t.pw.phase = .awake ∧ t.get R.PWR_SLEEP = 0 ∧ raised pgPWR [4] s t ∧ t.hq.staged = s.hq.staged := by
  obtain ⟨phase, sleep, -, told, -, -, only⟩ := s.abortSleep_spec entering
  refine ⟨s.abortSleep, ?_, ?_, phase, sleep, told, by rw [only]⟩
  · show execWakeTlp port s = _
    unfold execWakeTlp
    rw [entering]
  · show execWakePattern k s = _
    unfold execWakePattern
    rw [entering]

theorem execWakePattern_wakes (k : Fin 8) (asleep : s.pw.phase = .asleep) : ∃ t, exec (.wakePattern k) s = .next t ∧ t.pw.phase = .waking ∧
    t.get R.PWR_LAST_WAKE = 3 ∧ t.get R.PWR_WAKE_LINK = k.val := by
  have run : exec (.wakePattern k) s = .next (s.beginWake 3 k) := by
    show execWakePattern k s = _
    unfold execWakePattern
    rw [asleep]
  obtain ⟨phase, -, last, link, -⟩ := s.beginWake_spec (event := 3) (link := k) (by decide) k.isLt
  exact ⟨_, run, phase, last, link⟩

theorem execWakeSmbus_wakes (asleep : s.pw.phase = .asleep) (s3 : s.pw.s3 = true) : ∃ t, exec .wakeSmbus s = .next t ∧ t.pw.phase = .waking ∧
    t.get R.PWR_LAST_WAKE = 4 ∧ t.get R.PWR_FROM_S3 = 1 := by
  obtain ⟨phase, -, last, -, from3, -⟩ := s.beginWake_spec (event := 4) (link := 0) (by decide) (by decide)
  exact ⟨_, if_pos ⟨asleep, s3⟩, phase, last, from3.trans (by rw [s3]; rfl)⟩

theorem execWake_stays (port : Fin 2) (k : Fin 8) (up : s.pw.phase = .awake ∨ s.pw.phase = .waking) :
    exec (.wakeTlp port) s = .next s ∧ exec (.wakePattern k) s = .next s := by
  refine ⟨?_, ?_⟩
  · show execWakeTlp port s = _
    unfold execWakeTlp
    rcases up with up | up <;> rw [up]
  · show execWakePattern k s = _
    unfold execWakePattern
    rcases up with up | up <;> rw [up]

/-- Settles O44: an entry's losses with what each of them leaves alone, and a wake by its steps. -/
theorem sleepIsEnteredAndLeft : Obligations.SleepIsEnteredAndLeft := by
  unfold Obligations.SleepIsEnteredAndLeft
  refine ⟨fun s => execSleepEntry_sleeps, fun port s => execWakeTlp_wakes port, fun port s => execWakeTlp_stays port, fun port k s => execWake_aborts port k,
    fun k s => execWakePattern_wakes k, fun s => execWakeSmbus_wakes, fun s h => if_pos ?_, fun s h => if_neg ?_, fun port k s => execWake_stays port k⟩
  · rcases h with h | h | h | h | h | h <;> simp [h]
  · rintro ⟨asleep, s3⟩
    rcases h with other | s2
    · exact other asleep
    · simp [s3] at s2

end Sys2Proof.Machine
end

section
/-! SUPPORT. The card ports: an approval at a port the module does not have (R416-R421). -/
namespace Sys2Proof.Machine

/-- An approval waits for its PIN at a third port, whose words would lie on those of the approval itself. -/
def thirdPort : State := { State.reset with cd := { step := .keypad, port := 2 } }

/-- A third port's CLK_STOPPED has the word of APPROVE_RESULT. -/
theorem thirdPort_overlaps : (R.CARD_CLK_STOPPED 2).key = R.CARD_APPROVE_RESULT.key := by decide

/-- The timeout of its PIN deactivates that port and leaves RESULT 0. -/
theorem execApproveTimeout_thirdPort : ∃ t, exec .approveTimeout thirdPort = .next t ∧ t.get R.CARD_APPROVE_RESULT = 0 :=
  ⟨thirdPort.endCardApproval 6, show execApproveTimeout thirdPort = _ from if_pos ⟨rfl, Nat.le_refl 0⟩, by decide +kernel⟩

/-- Refutes O52: of an approval at port 2, which the states of the model can hold, a PIN timeout reports RESULT 0, since the port's CLK_STOPPED, cleared as the
card is deactivated, has the word of APPROVE_RESULT. -/
theorem not_cardsApproveStepByStep : ¬ Obligations.CardsApproveStepByStep := by
  unfold Obligations.CardsApproveStepByStep
  rintro ⟨-, -, -, -, -, -, -, -, -, timeout, -⟩
  obtain ⟨t, run, six, -⟩ := timeout thirdPort rfl (Nat.le_refl 0)
  obtain ⟨u, run', zero⟩ := execApproveTimeout_thirdPort
  cases run.symm.trans run'
  exact absurd (six.symm.trans zero) (by decide)

end Sys2Proof.Machine
end

section
/-! SUPPORT. What ended commands leave of the sealed journal and of the medium (R63, R426). -/
namespace Sys2Proof.Machine

variable {s t u : State}

/-! ## What an answered command leaves of the journal -/

theorem State.severity_jr (s : State) (n : Nat) : (s.severity n).jr = s.jr := by rw [(s.severity_spec n).2]

theorem State.raise_jr (s : State) (p i : Nat) : (s.raise p i).jr = s.jr := by rw [(s.raise_onlyFields p i).2.2]

theorem State.haltQp_jr (s : State) (p q e : Nat) : (s.haltQp p q e).jr = s.jr := by
  unfold State.haltQp
  dsimp only
  have told : ∀ v : State, (v.partEvent p 0).jr = v.jr := fun v => by rw [(v.partEvent_spec p 0).2.2]; rfl
  rw [told, State.severity_jr]
  split
  · exact State.raise_jr _ _ _
  · rfl

theorem State.coalesce_jr (s : State) (p q : Nat) : (s.coalesce p q).jr = s.jr := by
  unfold State.coalesce
  dsimp only
  split
  · split
    · rw [State.msixSend_only]; rfl
    · rfl
  · rfl

theorem State.sampleLatency_jr (s : State) (p ns : Nat) : (s.sampleLatency p ns).jr = s.jr := by
  have sampled : ∀ i bin v n, (s.sample 0 i bin v n).jr = s.jr := fun i bin v n => by
    unfold State.sample
    dsimp only
    split
    · rfl
    · split
      · exact State.raise_jr _ _ _
      · rfl
  unfold State.sampleLatency
  dsimp only
  split
  · rw [State.severity_jr]; exact sampled ..
  · exact sampled ..

theorem State.writeCompletion_jr (s : State) (ok : Option Bool) (c : Cmd) (e : Ending) : (s.writeCompletion ok c e).jr = s.jr := by
  have drawn : (s.writeOutcome ok).2.jr = s.jr := by cases ok <;> rfl
  have settled : ∀ v : State, (v.settleQp c.part c.qp).jr = v.jr := fun v => by rw [(v.settleQp_spec _ _).2]
  unfold State.writeCompletion
  dsimp only
  generalize (s.writeOutcome ok).2 = v at *
  have discarded : v.discardCompletion.jr = s.jr := by
    unfold State.discardCompletion
    rw [State.severity_jr, State.raise_jr]; exact drawn
  rw [settled]
  split
  · exact discarded
  · exact discarded
  · unfold State.failCompletion State.reportWrite State.reportAer
    dsimp only
    have reported : ∀ w : State, w.jr = s.jr → (if (w.qp c.part c.qp).qstate = .active then w.haltQp c.part c.qp 4 else w).jr = s.jr := fun w hw => by
      split
      · exact (w.haltQp_jr _ _ _).trans hw
      · exact hw
    refine reported _ ?_
    split <;> exact drawn
  · split
    · rw [State.coalesce_jr, State.updQp_jr]
      split
      · rw [State.sampleLatency_jr]; exact drawn
      · exact drawn
    · rw [State.updQp_jr]
      split
      · rw [State.sampleLatency_jr]; exact drawn
      · exact drawn

theorem State.sendFlit_jr (s : State) (k type vc : Nat) (last : Bool) (p : List Byte) : (s.sendFlit k type vc last p).jr = s.jr := by
  unfold State.sendFlit
  dsimp only
  split <;> rfl

theorem State.sendOn_jr (s : State) (k : Nat) (o : Output) : (s.sendOn k o).jr = s.jr := by
  unfold State.sendOn
  dsimp only
  split
  · rw [State.emit_jr]
    exact foldl_keeps (fun u : State => u.jr = s.jr) _ (fun u p hu => (State.sendFlit_jr ..).trans hu) _ _ rfl
  · rfl

theorem State.answer_jr (s : State) (ok : Option Bool) (c : Cmd) (e : Ending) : (s.answer ok c e).jr = s.jr := by
  have told : (if e.status = stFaultDetected ∨ e.status = stRngFailed then s.severity 3 else s).jr = s.jr := by
    split
    · exact State.severity_jr _ _
    · rfl
  unfold State.answer
  split
  · exact State.sendOn_jr _ _ _
  · unfold State.complete
    dsimp only
    generalize (if e.status = stFaultDetected ∨ e.status = stRngFailed then s.severity 3 else s) = v at *
    have ended : ∀ w : State, (w.abortDone c e).jr = w.jr := fun w => by
      unfold State.abortDone State.settleAbort
      dsimp only
      split <;> split <;> rfl
    rw [ended]
    split
    · rw [State.writeCompletion_jr, told]
    · exact (State.writeCompletion_jr _ _ _ _).trans told

/-! ## What an ended command leaves of the medium -/

/-- The fields that tell how the medium's journal counts and what its port reports. -/
def mediaFields : List Field := [R.SD_EMMC, R.BLK_INT_RAW pgSD]

/-- A field of another page, or of another word of the SD port's page, lies apart. -/
theorem mediaFields_apart {f : Field} (emmc : f.key ≠ R.SD_EMMC.key) (raw : f.key ≠ (R.BLK_INT_RAW pgSD).key) : apart mediaFields f := by
  intro g hg
  rcases List.mem_cons.mp hg with rfl | rest
  · exact emmc
  · rw [List.mem_singleton.mp rest]; exact raw

/-- What lies beyond the SD port's page lies apart. -/
theorem mediaFields_beyond {f : Field} (h : 0x92000 ≤ f.addr) : apart mediaFields f := apart_beyond 0x92000 (by decide) h

theorem mediaFields_before {f : Field} (h : f.key < 32 * 0x91000) : apart mediaFields f :=
  mediaFields_apart (fun e => absurd (e ▸ h) (by decide)) (fun e => absurd (e ▸ h) (by decide))

theorem answerMedia_apart : ∀ f ∈ answerFields, apart mediaFields f := by decide

theorem flitsMedia_apart (k : Nat) : apart mediaFields (R.FVL_TX_FLITS k) :=
  mediaFields_apart (by simp only [Field.key, R.FVL_TX_FLITS, R.SD_EMMC]; omega) (by simp only [Field.key, R.FVL_TX_FLITS, R.BLK_INT_RAW]; omega)

/-- `t` has of `s` the journal, its queue with it, Obsidian's state and the fields of the medium. -/
structure MediumKept (s t : State) : Prop where
  regs : spares mediaFields s t
  jr : t.jr = s.jr
  ob : t.ob = s.ob

namespace MediumKept

theorem refl : MediumKept s s := ⟨.refl, rfl, rfl⟩

theorem trans (h : MediumKept s t) (k : MediumKept t u) : MediumKept s u := ⟨h.regs.trans k.regs, k.jr.trans h.jr, k.ob.trans h.ob⟩

theorem ite {c : Prop} [Decidable c] (h : MediumKept s t) (k : MediumKept s u) : MediumKept s (if c then t else u) := by split <;> assumption
theorem andIf {c : Prop} [Decidable c] (h : MediumKept s t) (k : MediumKept t u) : MediumKept s (if c then u else t) := (h.trans k).ite h

theorem foldl {α : Type} {f : State → α → State} {xs : List α} (h : MediumKept s t) (hf : ∀ v a, a ∈ xs → MediumKept v (f v a)) :
    MediumKept s (xs.foldl f t) :=
  ⟨.foldl h.regs fun v a ha => (hf v a ha).regs, (List.foldlRecOn xs f (motive := fun v => v.jr = s.jr) h.jr fun v hv a ha => (hf v a ha).jr.trans hv),
    List.foldlRecOn xs f (motive := fun v => v.ob = s.ob) h.ob fun v hv a ha => (hf v a ha).ob.trans hv⟩

theorem set {f : Field} {v : Nat} (h : MediumKept s t) (off : apart mediaFields f) : MediumKept s (t.set f v) := ⟨h.regs.set off, h.jr, h.ob⟩

theorem raise {p i : Nat} (h : MediumKept s t) (off : apart mediaFields (R.BLK_INT_RAW p)) : MediumKept s (t.raise p i) :=
  ⟨h.regs.raise off, (t.raise_jr p i).trans h.jr, by rw [(t.raise_onlyFields p i).2.2]; exact h.ob⟩

theorem severity {n : Nat} (h : MediumKept s t) : MediumKept s (t.severity n) :=
  ⟨h.regs.severity (by decide), (t.severity_jr n).trans h.jr, by rw [(t.severity_spec n).2]; exact h.ob⟩

theorem settleTake (h : MediumKept s t) : MediumKept s t.settleTake :=
  ⟨h.regs.settleTake, by rw [t.settleTake_spec]; exact h.jr, by rw [t.settleTake_spec]; exact h.ob⟩

theorem answer {ok : Option Bool} {c : Cmd} {e : Ending} (h : MediumKept s t) : MediumKept s (t.answer ok c e) := by
  obtain ⟨-, -, -, -, -, -, ob, -⟩ := (endKeeps_iff t (t.answer ok c e)).mp (endKeeps_answer ..)
  exact ⟨h.regs.answer answerMedia_apart flitsMedia_apart, (t.answer_jr ok c e).trans h.jr, ob.trans h.ob⟩

theorem finish {ok : Option Bool} {c : Cmd} {e : Ending} {d : Option Nat} (h : MediumKept s t) : MediumKept s (t.finish ok c e d) := by
  unfold State.finish
  split
  · exact ⟨h.regs.update rfl, h.jr, h.ob⟩
  · exact h.answer

theorem settlePk {p : Nat} (h : MediumKept s t) (hp : p < 8) : MediumKept s (t.settlePk p) := by
  have page : apart mediaFields (R.BLK_INT_RAW (pgPK p)) := mediaFields_before (by simp only [Field.key, R.BLK_INT_RAW, pgPK]; omega)
  have frozen : MediumKept t (t.settlePkFreeze p) := by
    unfold State.settlePkFreeze State.settlePkCluster
    dsimp only
    have told : MediumKept t (if t.get (R.BLK_FREEZE (pgPK p)) = 1 ∧ t.pkDrained p then t.raise (pgPK p) 4 else t) := .andIf .refl (.raise .refl page)
    generalize (if t.get (R.BLK_FREEZE (pgPK p)) = 1 ∧ t.pkDrained p then t.raise (pgPK p) 4 else t) = v at *
    exact .settleTake (.set (.andIf told (.severity .refl)) (by decide))
  refine h.trans (frozen.trans ?_)
  generalize h : t.settlePkFreeze p = v
  have settled : t.settlePk p = v.settleCurve := by rw [State.settlePk, h]
  rw [settled]
  unfold State.settleCurve State.showCurves
  exact .ite .refl (.set (.set ⟨.update .refl rfl, rfl, rfl⟩ (by decide)) (by decide))

theorem dropPk {k : Nat} (h : MediumKept s t) : MediumKept s (t.dropPk k) := by
  unfold State.dropPk
  dsimp only
  refine .foldl ⟨h.regs.update rfl, h.jr, h.ob⟩ fun v p hp => ?_
  have low : p < 8 := List.mem_range.mp (List.mem_of_mem_filter hp)
  exact .settlePk (.set .refl (mediaFields_before (by simp only [Field.key, R.PK_ABORT_CNT]; omega))) low

theorem dmaWrite {m tag a : Nat} {bs : List Byte} (h : MediumKept s t) (hm : m < 16) : MediumKept s (t.dmaWrite m tag a bs).1 := by
  unfold State.dmaWrite
  refine foldl_keeps (fun r : State × Bool => MediumKept s r.1) _ (fun r p hr => ?_) _ _ h
  have near : ∀ f : Field, f.key < 32 * 0x91000 → apart mediaFields f := fun f => mediaFields_before
  split
  · exact ⟨hr.regs.update rfl, hr.jr, hr.ob⟩
  · refine .raise (.set (.set (.set hr ?_) ?_) ?_) ?_
    all_goals
      refine near _ ?_
      simp only [Field.key, R.BLK_INT_RAW, R.MPU_VIOL_WR_CNT, R.MPU_LAST_WR_ADDR_LO, R.MPU_LAST_WR_ADDR_HI, pgMPU]; omega

theorem zeroOutput {c : Cmd} {st : Nat} {wrote : Bool} (h : MediumKept s t) : MediumKept s (t.zeroOutput c st wrote) := by
  have port : t.dmaMpu c < 16 := by
    unfold State.dmaMpu
    split
    · next f _ =>
      have : funcPort f < 8 := by cases f <;> exact Fin.is_lt _ |>.trans_le (by decide)
      omega
    · omega
  unfold State.zeroOutput
  refine .ite h (.ite (.ite (h.dmaWrite port) h) ?_)
  split
  · exact ⟨h.regs.update rfl, h.jr, h.ob⟩
  · exact h

/-- A free value taken. -/
theorem draws {n : Nat} (h : MediumKept s t) : MediumKept s { t with frees := n } := ⟨h.regs.update rfl, h.jr, h.ob⟩

theorem countEnding {k st det : Nat} {x : Context} {c : Cmd} (h : MediumKept s t) : MediumKept s (t.countEnding k x c st det) := by
  unfold State.countEnding
  dsimp only
  have off : ∀ {f : Field}, 0xA1000 ≤ f.addr → apart mediaFields f := fun far => mediaFields_beyond (by omega)
  have counted : MediumKept s (t.count (R.SEQ_DONE_CNT (clusterOf k))) := .set h (off (by simp only [R.SEQ_DONE_CNT]; omega))
  generalize t.count (R.SEQ_DONE_CNT (clusterOf k)) = v at *
  refine .ite ?_ counted
  have known : ∀ a b : Nat, MediumKept s ((v.set (R.SEQ_LAST_PC (clusterOf k)) a).set (R.SEQ_LAST_CLASS (clusterOf k)) b) := fun a b =>
    .set (.set counted (off (by simp only [R.SEQ_LAST_PC]; omega))) (off (by simp only [R.SEQ_LAST_CLASS]; omega))
  have noted : ∀ {w : State} (a b d : Nat), MediumKept s w → MediumKept s (((w.set (R.SEQ_LAST_STATUS (clusterOf k)) a).set (R.SEQ_LAST_CTX (clusterOf k)) b).set
      (R.SEQ_LAST_PROGRAM (clusterOf k)) d) := fun a b d hw =>
    .set (.set (.set hw (off (by simp only [R.SEQ_LAST_STATUS]; omega))) (off (by simp only [R.SEQ_LAST_CTX]; omega))) (off (by simp only [R.SEQ_LAST_PROGRAM]; omega))
  refine .ite (.raise (.set (noted _ _ _ (.ite (known _ _) (.draws (known _ _)))) (off ?_)) (off ?_)) (.ite (.set (noted _ _ _ (.ite (known _ _) (.draws (known _ _)))) (off ?_)) (noted _ _ _ (.ite (known _ _) (.draws (known _ _))))) <;>
    simp only [R.SEQ_MABORT_CNT, R.BLK_INT_RAW, R.SEQ_FAULT_CNT, pgSEQ] <;> omega

theorem seatMoved {n fuel : Nat} (h : MediumKept s t) : MediumKept s (t.seatMoved n fuel) := by
  induction fuel generalizing t with
  | zero => exact h
  | succ fuel ih =>
    unfold State.seatMoved
    split
    · exact h
    · dsimp only
      split
      · exact h
      · apply ih
        split
        · exact .ite ⟨h.regs.update rfl, h.jr, h.ob⟩ ⟨h.regs.update rfl, h.jr, h.ob⟩
        · exact ⟨h.regs.update rfl, h.jr, h.ob⟩

theorem settleStale (h : MediumKept s t) : MediumKept s t.settleStale := by
  unfold State.settleStale State.showStale
  refine .ite h (.raise ?_ (by decide))
  dsimp only
  exact .set (.set ⟨h.regs.update rfl, h.jr, h.ob⟩ (by decide)) (by decide)

theorem settleSeq {n : Nat} (h : MediumKept s t) : MediumKept s (t.settleSeq n) :=
  .ite (h.raise (mediaFields_beyond (by simp only [R.BLK_INT_RAW, pgSEQ]; omega))) h

end MediumKept

end Sys2Proof.Machine
end

section
/-! SUPPORT. The sealed journal as appends end, the medium that comes and goes, and the service pins; O53 (R418, R422-R430). -/
namespace Sys2Proof.Machine

variable {s t u : State}

/-! ## Commands and appends that end -/

theorem dropAppends_absent {k : Nat} {q : List Append} (none : ∀ b ∈ q, b.owner ≠ some k) : dropAppends k q = q := by
  cases q with
  | nil => rfl
  | cons a as =>
    show _ :: _ = _
    rw [if_neg (none a (by simp)), List.filter_eq_self.mpr fun b hb => by simpa using none b (by simp [hb])]

/-- A command's end takes from the journal the appends of its context, and nothing else (R426). -/
theorem State.endCommand_medium (s : State) (k st det len : Nat) (ok : Option Bool) :
    ∃ q, ((∀ b ∈ s.jr.queue, b.owner ≠ some k) → q = s.jr.queue) ∧
      MediumKept { s with jr := { s.jr with queue := q } } (s.endCommand k st det len ok) := by
  unfold State.endCommand
  dsimp only
  split
  · exact ⟨s.jr.queue, fun _ => rfl, .refl⟩
  · next c _ =>
    have zeroed : MediumKept s (if refusing st then s.zeroOutput c st (s.ctx k).wrote else s) := .ite (.zeroOutput .refl) .refl
    generalize (if refusing st then s.zeroOutput c st (s.ctx k).wrote else s) = v at *
    refine ⟨dropAppends k s.jr.queue, fun none => dropAppends_absent none, ?_⟩
    have dropped : MediumKept { s with jr := { s.jr with queue := dropAppends k s.jr.queue } } (v.dropOps k) := by
      have pk := zeroed.dropPk (k := k)
      unfold State.dropOps
      dsimp only
      refine ⟨?_, ?_, pk.ob⟩
      · exact .trans (t := s) (.update .refl rfl) (.update (t := v.dropPk k) pk.regs rfl)
      · show ({ (v.dropPk k).jr with queue := dropAppends k v.jr.queue } : Journal) = _
        rw [pk.jr, zeroed.jr]
    have counted := dropped.countEnding (k := k) (st := st) (det := det) (x := s.ctx k) (c := c)
    generalize (v.dropOps k).countEnding k (s.ctx k) c st det = w at *
    have freed : MediumKept { s with jr := { s.jr with queue := dropAppends k s.jr.queue } } (w.setCtx k {}) := counted.trans ⟨.update .refl rfl, rfl, rfl⟩
    have done := freed.seatMoved (n := clusterOf k) (fuel := 4)
    generalize (w.setCtx k {}).seatMoved (clusterOf k) 4 = x at *
    refine .trans (.settleSeq (.settleStale done.finish)) ⟨.update .refl rfl, rfl, rfl⟩

/-- An append that fails leaves the queue, tells INT_RAW bit 6 and counts nothing (R426, R429). -/
theorem State.failAppend_spec {a : Append} {as : List Append} (front : s.jr.queue = a :: as) :
    s.failAppend.ob = s.ob ∧ s.failAppend.get R.SD_EMMC = s.get R.SD_EMMC ∧ s.failAppend.bit (R.BLK_INT_RAW pgSD) 6 = true ∧
      ∃ q, ((∀ b ∈ as, a.owner ≠ none → b.owner ≠ a.owner) → q = as) ∧ s.failAppend.jr = { s.jr with queue := q, record := [] } := by
  have told := State.raise_get_ne { s with jr := { s.jr with queue := as, record := [] } } pgSD 6 R.SD_EMMC (by decide)
  have bit := State.raise_bit { s with jr := { s.jr with queue := as, record := [] } } pgSD (i := 6) (by decide)
  have jr := State.raise_jr { s with jr := { s.jr with queue := as, record := [] } } pgSD 6
  have ob : (State.raise { s with jr := { s.jr with queue := as, record := [] } } pgSD 6).ob = s.ob := by rw [(State.raise_onlyFields _ _ _).2.2]
  unfold State.failAppend
  rw [front]
  dsimp only
  generalize State.raise { s with jr := { s.jr with queue := as, record := [] } } pgSD 6 = v at *
  split
  · next k owner =>
    obtain ⟨q, same, regs, ended, keptOb⟩ := v.endCommand_medium k stFormatError 0xC0F2 0 none
    rw [jr] at same ended
    refine ⟨keptOb.trans ob, (regs _ (by simp [mediaFields])).trans told, ?_, q, fun apart => same fun b hb e => apart b hb (by simp [owner]) (e.trans owner.symm), ended⟩
    rw [regs.bit (by simp [mediaFields])]
    exact bit
  · exact ⟨ob, told, bit, as, fun _ => rfl, jr⟩

theorem State.startAppend_ctx (s : State) (k : Nat) : s.startAppend.ctx k = s.ctx k := by
  unfold State.startAppend
  split
  · split <;> rfl
  · rfl

theorem State.startAppend_spec (s : State) : s.startAppend.regs = s.regs ∧ s.startAppend.ob = s.ob ∧
    s.startAppend.jr.queue = s.jr.queue ∧ s.startAppend.jr.rpmb = s.jr.rpmb := by
  unfold State.startAppend
  split
  · split <;> exact ⟨rfl, rfl, rfl, rfl⟩
  · exact ⟨rfl, rfl, rfl, rfl⟩

/-! ## A medium comes, its block is checked (R422-R428) -/

theorem State.setPin_get (s : State) (f : Nat) (b : Bool) {g : Field} (off : R.PAD_PIN_LEVEL.key ≠ g.key) : (s.setPin f b).get g = s.get g := by
  unfold State.setPin
  split
  · exact s.get_setBit_ne _ _ _ _ off
  · rfl

theorem State.setPin_frame (s : State) (f : Nat) (b : Bool) : (s.setPin f b).ob = s.ob ∧ (s.setPin f b).jr = s.jr ∧ (s.setPin f b).out = s.out ∧ (s.setPin f b).cd = s.cd := by
  unfold State.setPin
  split <;> exact ⟨rfl, rfl, rfl, rfl⟩

/-- Once the MMK is there a block is a valid record C + 1, rolled forward, or the journal stays as it is (R427). -/
theorem State.checkJournal_judges {mmk : List Byte} (block : List Byte) (key : s.ob.mmk = some mmk) :
    (validRecord mmk block = true → numAt block 12 8 = s.ob.journal + 1 →
      (s.checkJournal block).ob.journal = s.ob.journal + 1 ∧ (s.checkJournal block).get R.SD_JSTATE = 2) ∧
    (validRecord mmk block = false ∨ numAt block 12 8 ≠ s.ob.journal + 1 →
      (s.checkJournal block).ob = s.ob ∧ (s.checkJournal block).get R.SD_JSTATE = 1) := by
  have kept : ∀ (f : Field) (i v : Nat), (((s.countSat f).raise pgSD i).set R.SD_JSTATE v).ob = s.ob := fun f i v => by
    show ((s.countSat f).raise pgSD i).ob = s.ob
    rw [(State.raise_onlyFields _ _ _).2.2]; rfl
  unfold State.checkJournal
  rw [key]
  dsimp only
  constructor
  · intro valid next
    rw [if_neg (by simp [valid, next]), if_pos next]
    exact ⟨next, State.get_set_same ((s.countSat R.SD_ROLLFWD_CNT).raise pgSD 3) R.SD_JSTATE 2⟩
  · intro other
    split
    · exact ⟨kept _ _ _, State.get_set_same _ _ _⟩
    · next ahead =>
      have stale : ¬ numAt block 12 8 = s.ob.journal + 1 := by
        rcases other with bad | old
        · simp [bad] at ahead
        · exact old
      rw [if_neg stale]
      exact ⟨kept _ _ _, State.get_set_same _ _ _⟩

theorem State.checkJournal_get (s : State) (block : List Byte) {g : Field} (apart : ∀ f ∈ [R.SD_TORN_CNT, R.SD_ROLLFWD_CNT, R.SD_REPLAY_CNT, R.SD_JSTATE], f.key ≠ g.key)
    (raw : (R.BLK_INT_RAW pgSD).key ≠ g.key) : (s.checkJournal block).get g = s.get g := by
  have kept : ∀ (f : Field) (i v : Nat), f.key ≠ g.key → (((s.countSat f).raise pgSD i).set R.SD_JSTATE v).get g = s.get g := fun f i v hf => by
    rw [State.get_set_ne _ _ _ _ (apart _ (by simp)), State.raise_get_ne _ _ _ _ raw, State.get_countSat_ne _ _ _ _ hf]
  unfold State.checkJournal
  split
  · rfl
  · dsimp only
    split
    · exact kept R.SD_TORN_CNT 5 1 (apart _ (by simp))
    · split
      · exact kept R.SD_ROLLFWD_CNT 3 2 (apart _ (by simp))
      · exact kept R.SD_REPLAY_CNT 4 1 (apart _ (by simp))

theorem State.checkJournal_raw (s : State) (block : List Byte) {j : Nat} (hj : j < 32) (was : s.bit (R.BLK_INT_RAW pgSD) j = true) :
    (s.checkJournal block).bit (R.BLK_INT_RAW pgSD) j = true := by
  have kept : ∀ (f : Field) (i v : Nat), f.key ≠ (R.BLK_INT_RAW pgSD).key → (((s.countSat f).raise pgSD i).set R.SD_JSTATE v).bit (R.BLK_INT_RAW pgSD) j = true := fun f i v hf => by
    have same : ((s.countSat f).raise pgSD i).bit (R.BLK_INT_RAW pgSD) j = true := by
      rw [State.raise_raised _ _ _ _ hj, State.bit, State.get_countSat_ne _ _ _ _ hf]
      simp [show bitOf (s.get (R.BLK_INT_RAW pgSD)) j = true from was]
    rw [State.bit, State.get_set_ne _ _ _ _ (by decide)]
    exact same
  unfold State.checkJournal
  split
  · exact was
  · dsimp only
    split
    · exact kept R.SD_TORN_CNT 5 1 (by decide)
    · split
      · exact kept R.SD_ROLLFWD_CNT 3 2 (by decide)
      · exact kept R.SD_REPLAY_CNT 4 1 (by decide)

/-- The state with a medium detected, before its journal is looked at (R422, R423). -/
def State.detected (s : State) (m : Medium) : State :=
  let best := bestMode m (s.get R.SD_MAXMODE)
  let s := ((s.set R.SD_PRESENT 1).set R.SD_EMMC (b2n m.emmc)).set R.SD_MODE best.1
  let s := ((s.set R.SD_WIDTH (if m.emmc then m.width else 1)).countSat R.SD_TUNE_FAIL_CNT best.2).raise pgSD 0
  let s := if best.2 = 0 then s else s.raise pgSD 2
  if m.emmc then s else s.setPin 9 false

theorem State.detected_spec (s : State) (m : Medium) :
    (s.detected m).get R.SD_PRESENT = 1 ∧ (s.detected m).get R.SD_EMMC = b2n m.emmc ∧
    (s.detected m).get R.SD_MODE = (bestMode m (s.get R.SD_MAXMODE)).1 % 8 ∧ (s.detected m).get R.SD_WIDTH = (if m.emmc then m.width.val else 1) ∧
    (s.detected m).bit (R.BLK_INT_RAW pgSD) 0 = true ∧ (s.detected m).ob = s.ob ∧ (s.detected m).jr = s.jr ∧
    (s.detected m).get R.RST_BOOT_STAGE = s.get R.RST_BOOT_STAGE ∧ (s.detected m).get R.SD_JSTATE = s.get R.SD_JSTATE := by
  obtain ⟨best, chosen⟩ : ∃ b, b = bestMode m (s.get R.SD_MAXMODE) := ⟨_, rfl⟩
  obtain ⟨w, width⟩ : ∃ w : Nat, w = if m.emmc then m.width.val else 1 := ⟨_, rfl⟩
  obtain ⟨v, brought⟩ : ∃ v, v = ((((s.set R.SD_PRESENT 1).set R.SD_EMMC (b2n m.emmc)).set R.SD_MODE best.1).set R.SD_WIDTH w).countSat R.SD_TUNE_FAIL_CNT best.2 := ⟨_, rfl⟩
  have told : (if best.2 = 0 then v.raise pgSD 0 else (v.raise pgSD 0).raise pgSD 2).bit (R.BLK_INT_RAW pgSD) 0 = true ∧
      (if best.2 = 0 then v.raise pgSD 0 else (v.raise pgSD 0).raise pgSD 2).ob = s.ob ∧
      (if best.2 = 0 then v.raise pgSD 0 else (v.raise pgSD 0).raise pgSD 2).jr = s.jr ∧
      keeps [R.BLK_INT_RAW pgSD] v (if best.2 = 0 then v.raise pgSD 0 else (v.raise pgSD 0).raise pgSD 2) := by
    have first : (v.raise pgSD 0).bit (R.BLK_INT_RAW pgSD) 0 = true := v.raise_bit _ (by decide)
    have ob : ∀ (x : State) i, (x.raise pgSD i).ob = x.ob := fun x i => by rw [(x.raise_onlyFields _ _).2.2]
    split
    · exact ⟨first, by rw [ob, brought]; rfl, by rw [State.raise_jr, brought]; rfl, (v.raise_onlyFields _ _).1⟩
    · refine ⟨?_, by rw [ob, ob, brought]; rfl, by rw [State.raise_jr, State.raise_jr, brought]; rfl,
        keeps_mono (keeps_trans (v.raise_onlyFields _ 0).1 (State.raise_onlyFields _ _ _).1) (by simp)⟩
      rw [State.raise_raised _ _ _ _ (by decide), first]; rfl
  obtain ⟨bit, ob, jr, fields⟩ := told
  have whole : s.detected m = if m.emmc then (if best.2 = 0 then v.raise pgSD 0 else (v.raise pgSD 0).raise pgSD 2) else
      (if best.2 = 0 then v.raise pgSD 0 else (v.raise pgSD 0).raise pgSD 2).setPin 9 false := by
    rw [brought, chosen, width]
    unfold State.detected
    split <;> rfl
  rw [whole]
  generalize (if best.2 = 0 then v.raise pgSD 0 else (v.raise pgSD 0).raise pgSD 2) = x at *
  have through : ∀ g, R.PAD_PIN_LEVEL.key ≠ g.key → (if m.emmc then x else x.setPin 9 false).get g = x.get g := fun g hg => by
    split
    · rfl
    · exact x.setPin_get _ _ hg
  have seen : ∀ g, R.PAD_PIN_LEVEL.key ≠ g.key → (R.BLK_INT_RAW pgSD).key ≠ g.key → (if m.emmc then x else x.setPin 9 false).get g = v.get g := fun g pin raw =>
    (through g pin).trans (fields g (by simpa using raw))
  obtain ⟨pinOb, pinJr, -⟩ := x.setPin_frame 9 false
  refine ⟨?_, ?_, ?_, ?_, ?_, ?_, ?_, ?_, ?_⟩
  · rw [seen _ (by decide) (by decide), brought, State.get_countSat_ne _ _ _ _ (by decide), State.get_set_ne _ _ _ _ (by decide),
      State.get_set_ne _ _ _ _ (by decide), State.get_set_ne _ _ _ _ (by decide)]
    exact State.get_set_same _ _ _
  · rw [seen _ (by decide) (by decide), brought, State.get_countSat_ne _ _ _ _ (by decide), State.get_set_ne _ _ _ _ (by decide),
      State.get_set_ne _ _ _ _ (by decide)]
    exact State.get_set_fits _ (by cases m.emmc <;> decide)
  · rw [seen _ (by decide) (by decide), brought, State.get_countSat_ne _ _ _ _ (by decide), State.get_set_ne _ _ _ _ (by decide), chosen]
    exact State.get_set_same _ _ _
  · rw [seen _ (by decide) (by decide), brought, State.get_countSat_ne _ _ _ _ (by decide), width]
    refine State.get_set_fits _ ?_
    have := m.width.isLt
    show _ < 4
    split <;> omega
  · rw [State.bit, through _ (by decide)]; exact bit
  · split
    · exact ob
    · exact pinOb.trans ob
  · split
    · exact jr
    · exact pinJr.trans jr
  · rw [seen _ (by decide) (by decide), brought, State.get_countSat_ne _ _ _ _ (by decide), State.get_set_ne _ _ _ _ (by decide),
      State.get_set_ne _ _ _ _ (by decide), State.get_set_ne _ _ _ _ (by decide), State.get_set_ne _ _ _ _ (by decide)]
  · rw [seen _ (by decide) (by decide), brought, State.get_countSat_ne _ _ _ _ (by decide), State.get_set_ne _ _ _ _ (by decide),
      State.get_set_ne _ _ _ _ (by decide), State.get_set_ne _ _ _ _ (by decide), State.get_set_ne _ _ _ _ (by decide)]

theorem execSdInsert_eq (m : Medium) (s : State) (up : s.inReset = false) (absent : s.get R.SD_PRESENT = 0) (on : s.domainOn 41 = true)
    (free : s.pw.heldSd = false) (feature : m.emmc = true ∨ s.get (R.PAD_EN 9) = 1) :
    exec (.sdInsert m) s =
      (if (s.detected m).ob.mmk.isNone then .next (s.detected m)
      else if m.emmc then
        let t := if m.rpmbKey.isNone then (s.detected m).emit (.rpmbKey (rpmbAuthKey ((s.detected m).ob.mmk.getD []))) else s.detected m
        .next ({ t with jr.rpmb := m.rpmb }.set R.SD_JSTATE (if m.rpmbKey = some false then 3 else 1))
      else if (s.detected m).get R.RST_BOOT_STAGE = 6 then .next ((s.detected m).checkJournal m.block)
      else .next { s.detected m with jr.found := some m.block }) := by
  show execSdInsert m s = _
  unfold execSdInsert
  rw [if_neg ?_]
  · rfl
  · rcases feature with e | e <;> simp [up, absent, on, free, e]

/-! ## Appends that complete or fail (R424, R426, R429) -/

theorem State.failAppend_count {a : Append} {as : List Append} (front : s.jr.queue = a :: as) : s.failAppend.journalCount = s.journalCount := by
  obtain ⟨ob, emmc, -, q, -, jr⟩ := State.failAppend_spec front
  unfold State.journalCount
  rw [ob, emmc, jr]

theorem State.startAppend_count (s : State) : s.startAppend.journalCount = s.journalCount := by
  obtain ⟨regs, ob, -, rpmb⟩ := s.startAppend_spec
  unfold State.journalCount State.get
  rw [ob, regs, rpmb]

/-- The first append fails and the next one starts. -/
theorem State.failAppend_next {a : Append} {as : List Append} (front : s.jr.queue = a :: as) (single : ∀ b ∈ as, a.owner ≠ none → b.owner ≠ a.owner) :
    s.failAppend.startAppend.jr.queue = as ∧ s.failAppend.startAppend.journalCount = s.journalCount ∧
      s.failAppend.startAppend.bit (R.BLK_INT_RAW pgSD) 6 = true := by
  obtain ⟨-, -, bit, q, same, jr⟩ := State.failAppend_spec front
  obtain ⟨regs, -, queue, -⟩ := s.failAppend.startAppend_spec
  refine ⟨by rw [queue, jr]; exact same single, (State.startAppend_count _).trans (State.failAppend_count front), ?_⟩
  rw [State.bit, State.get, regs]
  exact bit

/-- Every append of the queue fails: C stays (R426). -/
theorem State.closeJournal_spec (s : State) : s.closeJournal.ob = s.ob ∧ s.closeJournal.get R.SD_EMMC = s.get R.SD_EMMC ∧ s.closeJournal.jr.rpmb = s.jr.rpmb := by
  unfold State.closeJournal
  rw [State.get_set_ne _ _ _ _ (by decide)]
  refine foldl_keeps (fun t : State => t.ob = s.ob ∧ t.get R.SD_EMMC = s.get R.SD_EMMC ∧ t.jr.rpmb = s.jr.rpmb) _ (fun t a h => ?_) _ _ ⟨rfl, rfl, rfl⟩
  obtain ⟨ob, emmc, rpmb⟩ := h
  match front : t.jr.queue with
  | [] =>
    have same : t.failAppend = t := by unfold State.failAppend; rw [front]
    rw [same]
    exact ⟨ob, emmc, rpmb⟩
  | b :: bs =>
    obtain ⟨keptOb, keptEmmc, -, q, -, jr⟩ := State.failAppend_spec front
    exact ⟨keptOb.trans ob, keptEmmc.trans emmc, by rw [jr]; exact rpmb⟩

/-- The state whose first append has been read back as written: C counts it (R426). -/
def State.appended (s : State) (as : List Append) : State :=
  let s := s.setJournalCount (s.journalCount + 1)
  { s with jr := { s.jr with queue := as, record := [] } }

theorem State.appended_count (s : State) (as : List Append) : (s.appended as).journalCount = (s.journalCount + 1) % 2 ^ 64 := by
  unfold State.appended State.setJournalCount
  dsimp only
  split
  · next emmc => exact if_pos emmc
  · next card => exact if_neg card

theorem State.appended_queue (s : State) (as : List Append) : (s.appended as).jr.queue = as := rfl

theorem State.appended_sq (s : State) (as : List Append) : (s.appended as).sq = s.sq := by
  unfold State.appended State.setJournalCount
  dsimp only
  split <;> rfl

/-- An ended command leaves C where it is. -/
theorem State.endCommand_count (s : State) (k st det len : Nat) (ok : Option Bool) : (s.endCommand k st det len ok).journalCount = s.journalCount := by
  obtain ⟨q, -, regs, jr, ob⟩ := s.endCommand_medium k st det len ok
  unfold State.journalCount
  rw [regs R.SD_EMMC (by simp [mediaFields]), jr, ob]
  rfl

theorem execSdBusyEnd_advances {a : Append} {as : List Append} {block : List Byte} {ok : Bool} (front : s.jr.queue = a :: as)
    (single : ∀ b ∈ as, a.owner ≠ none → b.owner ≠ a.owner) (writing : s.jr.record ≠ []) (same : fitBytes s.jr.record.length block = s.jr.record) :
    ∃ t, exec (.sdBusyEnd block ok) s = .next t ∧ t.jr.queue = as ∧ t.journalCount = (s.journalCount + 1) % 2 ^ 64 ∧
      ∀ k, a.owner = some k → (s.ctx k).cmd ≠ none → t.ctx k = {} := by
  have run : exec (.sdBusyEnd block ok) s = .next (match a.owner with
      | some k => ((s.appended as).updCtx k fun x => { x with result := fitBytes 16 (leBytes 8 (s.journalCount + 1)) }).endCommand k stOK 0 8 ok
      | none => s.appended as).startAppend := by
    show execSdBusyEnd block ok s = _
    unfold execSdBusyEnd
    rw [front]
    dsimp only
    rw [if_neg (by simpa using writing), if_neg (by simp [same])]
    rfl
  refine ⟨_, run, ?_⟩
  clear run
  have count := s.appended_count as
  have queue := s.appended_queue as
  have sq := s.appended_sq as
  generalize s.appended as = v at *
  match owner : a.owner with
  | none =>
    dsimp only
    exact ⟨v.startAppend_spec.2.2.1.trans queue, v.startAppend_count.trans count, fun k h => nomatch h⟩
  | some k =>
    dsimp only
    obtain ⟨w, carried⟩ : ∃ w, w = v.updCtx k fun x => { x with result := fitBytes 16 (leBytes 8 (s.journalCount + 1)) } := ⟨_, rfl⟩
    rw [← carried]
    have wq : w.jr.queue = as := by rw [carried]; exact queue
    have wcount : w.journalCount = v.journalCount := by rw [carried]; rfl
    obtain ⟨q, absent, -, jr, -⟩ := w.endCommand_medium k stOK 0 8 ok
    have stays := (w.endCommand_count k stOK 0 8 ok).trans wcount
    have freed : (s.ctx k).cmd ≠ none → (w.endCommand k stOK 0 8 ok).ctx k = {} := fun runs => by
      refine (State.endCommand_ctx ?_).1
      rw [carried, State.ctx_updCtx_same]
      show (v.ctx k).cmd ≠ none
      rwa [State.ctx, sq]
    generalize w.endCommand k stOK 0 8 ok = x at *
    refine ⟨x.startAppend_spec.2.2.1.trans ?_, (x.startAppend_count.trans stays).trans count, fun j hj runs => ?_⟩
    · rw [jr]
      exact (absent fun b hb e => single b (wq ▸ hb) (by simp [owner]) (e.trans owner.symm)).trans wq
    · obtain rfl : k = j := Option.some.inj hj
      rw [State.startAppend_ctx]
      exact freed runs

/-! ## Service pins (R430) -/

/-- What a port's deactivation writes (R418). -/
def deactivatedFields (n : Nat) : List Field := [R.CARD_CLASS n, R.CARD_PROTO_T1 n, R.CARD_CLK_STOPPED n, R.CARD_CLK_MHZ n]

/-- What the end of a port's approval writes (R420, R421). -/
def endedFields (n : Nat) : List Field :=
  R.CARD_APPROVE_BUSY :: R.CARD_APPROVE_RESULT :: R.PAD_PIN_LEVEL :: R.BLK_INT_RAW pgCARD :: deactivatedFields n

theorem State.deactivateCard_keeps (s : State) (n : Nat) : keeps (deactivatedFields n) s (s.deactivateCard n) := fun f off => by
  show ((((s.set (R.CARD_CLASS n) 0).set (R.CARD_PROTO_T1 n) 0).set (R.CARD_CLK_STOPPED n) 0).set (R.CARD_CLK_MHZ n) 0).get f = _
  rw [State.get_set_ne _ _ _ _ (off _ (by simp [deactivatedFields])), State.get_set_ne _ _ _ _ (off _ (by simp [deactivatedFields])),
    State.get_set_ne _ _ _ _ (off _ (by simp [deactivatedFields])), State.get_set_ne _ _ _ _ (off _ (by simp [deactivatedFields]))]

theorem State.dropCardApproval_keeps (s : State) {n : Nat} (port : s.cd.port = n) : keeps (endedFields n) s s.dropCardApproval := by
  unfold State.dropCardApproval
  split
  · exact keeps_refl _ _
  · intro f off
    unfold State.endCardApproval
    dsimp only
    have cd : (((s.set R.CARD_APPROVE_BUSY 0).set R.CARD_APPROVE_RESULT 5).setPin 4 false).cd = s.cd := (State.setPin_frame _ _ _).2.2.2
    rw [cd, port]
    rw [State.deactivateCard_keeps _ _ f fun g hg => off g (by simp only [endedFields, List.mem_cons, hg, or_true]), State.raise_get_ne _ _ _ _ (off _ (by simp [endedFields]))]
    show (((s.set R.CARD_APPROVE_BUSY 0).set R.CARD_APPROVE_RESULT 5).setPin 4 false).get f = _
    rw [State.setPin_get _ _ _ (off _ (by simp [endedFields])), State.get_set_ne _ _ _ _ (off _ (by simp [endedFields])),
      State.get_set_ne _ _ _ _ (off _ (by simp [endedFields]))]

/-- A card that has gone reads absent, and nothing is written but its port's fields and the approval's. -/
theorem State.setPresence_gone (s : State) (n : Nat) :
    (s.setPresence n false).get (R.CARD_PRESENT n) = 0 ∧ keeps (R.CARD_PRESENT n :: endedFields n) s (s.setPresence n false) := by
  have apart : ∀ g ∈ endedFields n, g.key ≠ (R.CARD_PRESENT n).key := by
    simp only [endedFields, deactivatedFields, List.mem_cons, List.not_mem_nil, or_false, forall_eq_or_imp, forall_eq, Field.key, R.CARD_APPROVE_BUSY, R.CARD_APPROVE_RESULT,
      R.PAD_PIN_LEVEL, R.BLK_INT_RAW, pgCARD, R.CARD_CLASS, R.CARD_PROTO_T1, R.CARD_CLK_STOPPED, R.CARD_CLK_MHZ, R.CARD_PRESENT]
    omega
  unfold State.setPresence
  split
  · next same => exact ⟨same, keeps_refl _ _⟩
  · dsimp only
    rw [if_neg (c := false = true) (by decide), if_neg (c := false = true) (by decide)]
    have noted : keeps (R.CARD_PRESENT n :: endedFields n) s ((s.set (R.CARD_PRESENT n) (b2n false)).raise pgCARD 1) := fun f off => by
      rw [State.raise_get_ne _ _ _ _ (off _ (by simp [endedFields])), State.get_set_ne _ _ _ _ (off _ (by simp))]
    have zero : ((s.set (R.CARD_PRESENT n) (b2n false)).raise pgCARD 1).get (R.CARD_PRESENT n) = 0 := by
      rw [State.raise_get_ne _ _ _ _ (by simp only [Field.key, R.BLK_INT_RAW, R.CARD_PRESENT, pgCARD]; omega)]
      exact State.get_set_same _ _ _
    generalize (s.set (R.CARD_PRESENT n) (b2n false)).raise pgCARD 1 = v at *
    have dropped : keeps (endedFields n) v ((if v.cd.port = n then v.dropCardApproval else v).deactivateCard n) := by
      refine keeps_mono (keeps_trans (t := if v.cd.port = n then v.dropCardApproval else v) (fs := endedFields n) ?_ (State.deactivateCard_keeps _ n)) ?_
      · split
        · next port => exact v.dropCardApproval_keeps port
        · exact keeps_refl _ _
      · intro f hf
        rcases List.mem_append.mp hf with h | h
        · exact h
        · simp only [endedFields, List.mem_cons, h, or_true]
    exact ⟨(dropped _ apart).trans zero, keeps_mono (keeps_trans noted dropped) (by simp +contextual)⟩

/-- A card whose presence feature is off counts as absent (R418). -/
def State.absentCard (s : State) (n : Nat) : State := if s.get (R.PAD_EN n) = 0 then s.setPresence n false else s

theorem State.absentCard_keeps (s : State) (n : Nat) : keeps (R.CARD_PRESENT n :: endedFields n) s (s.absentCard n) := by
  unfold State.absentCard
  split
  · exact (s.setPresence_gone n).2
  · exact keeps_refl _ _

theorem State.absentCard_gone (s : State) (n : Nat) (off : s.get (R.PAD_EN n) = 0) : (s.absentCard n).get (R.CARD_PRESENT n) = 0 := by
  rw [State.absentCard, if_pos off]
  exact (s.setPresence_gone n).1

/-- The fields a claim may write in the card ports and the pads' levels. -/
def absentFields : List Field := (R.CARD_PRESENT 0 :: endedFields 0) ++ (R.CARD_PRESENT 1 :: endedFields 1)

/-- The state once a feature's PIN and EN are written. -/
def State.claimed (s : State) (f : Fin 13) (v : Word) : State := (s.set (R.PAD_PIN f) v.toNat).set (R.PAD_EN f) (v.toNat / 16)

/-- The feature that holds the pin another claims. -/
def State.padRival (s : State) (f : Nat) : Option Nat :=
  (List.range 13).find? fun g => g != f && s.get (R.PAD_EN g) == 1 && s.get (R.PAD_PIN g) == s.get (R.PAD_PIN f)

/-- The claim judged: on a pin two features claim, the higher class holds it. -/
def State.contended (s : State) (f : Nat) : State :=
  if s.get (R.PAD_EN f) = 0 then s
  else match s.padRival f with
    | none => s
    | some g => if outranks pinClass f g then s.losePin g f else s.losePin f g

theorem execPinClaim_eq (f : Fin 13) (v : Word) (s : State) (responds : s.responds pgPAD = true) :
    exec (.pinClaim f v) s = .next ((((s.claimed f v).contended f).absentCard 0).absentCard 1) := by
  show execPinClaim f v s = _
  unfold execPinClaim
  rw [if_neg (by simp [responds])]
  rfl

theorem State.absentCards_get (s : State) {g : Field} (off : ∀ f ∈ absentFields, f.key ≠ g.key) : ((s.absentCard 0).absentCard 1).get g = s.get g :=
  keeps_trans (s.absentCard_keeps 0) (State.absentCard_keeps _ 1) g off

/-- The pads' own fields are none of the card ports'. -/
theorem padField_apart {g : Field} (h : g.key < 32 * 0x4144) : ∀ f ∈ absentFields, f.key ≠ g.key := by
  intro f hf e
  have : ∀ f ∈ absentFields, 32 * 0x4144 ≤ f.key := by decide
  have := this f hf
  omega

theorem pinKey_lt (f : Fin 13) : (R.PAD_PIN f).key < 32 * 0x4144 := by simp only [Field.key, R.PAD_PIN]; omega
theorem enKey_lt (f : Fin 13) : (R.PAD_EN f).key < 32 * 0x4144 := by simp only [Field.key, R.PAD_EN]; omega

theorem State.claimed_spec (s : State) (f : Fin 13) (v : Word) :
    (s.claimed f v).get (R.PAD_PIN f) = v.toNat % 16 ∧ (s.claimed f v).get (R.PAD_EN f) = (if v.getLsbD 4 then 1 else 0) ∧
      ∀ g : Fin 13, g.val ≠ f.val → (s.claimed f v).get (R.PAD_EN g) = s.get (R.PAD_EN g) ∧ (s.claimed f v).get (R.PAD_PIN g) = s.get (R.PAD_PIN g) := by
  unfold State.claimed
  refine ⟨?_, ?_, fun g other => ⟨?_, ?_⟩⟩
  · rw [State.get_set_ne _ _ _ _ (by simp only [Field.key, R.PAD_PIN, R.PAD_EN]; omega)]
    exact State.get_set_same _ _ _
  · refine (State.get_set_same _ _ _).trans ?_
    show v.toNat / 16 % 2 = _
    rw [BitVec.getLsbD, Nat.testBit_eq_decide_div_mod_eq]
    show _ = if decide (v.toNat / 16 % 2 = 1) = true then 1 else 0
    split <;> simp_all
  all_goals
    rw [State.get_set_ne _ _ _ _ (by simp only [Field.key, R.PAD_PIN, R.PAD_EN]; omega),
      State.get_set_ne _ _ _ _ (by simp only [Field.key, R.PAD_PIN, R.PAD_EN]; omega)]

theorem State.losePin_spec (s : State) (f w : Fin 13) :
    (s.losePin f w).get (R.PAD_EN f) = 0 ∧ (s.losePin f w).get R.PAD_LOSER = f ∧ (s.losePin f w).get R.PAD_WINNER = w ∧
      (s.losePin f w).bit (R.BLK_INT_RAW pgPAD) 0 = true ∧ ∀ g : Fin 13, g.val ≠ f.val → (s.losePin f w).get (R.PAD_EN g) = s.get (R.PAD_EN g) := by
  unfold State.losePin
  have past : ∀ g : Field, (R.BLK_INT_RAW pgPAD).key ≠ g.key → ∀ x : State, (x.raise pgPAD 0).get g = x.get g := fun g hg x => x.raise_get_ne _ _ _ hg
  refine ⟨?_, ?_, ?_, State.raise_bit _ _ (by decide), fun g other => ?_⟩
  · rw [past _ (by simp only [Field.key, R.PAD_EN, R.BLK_INT_RAW, pgPAD]; omega), State.get_set_ne _ _ _ _ (by simp only [Field.key, R.PAD_EN, R.PAD_WINNER]; omega),
      State.get_set_ne _ _ _ _ (by simp only [Field.key, R.PAD_EN, R.PAD_LOSER]; omega)]
    exact State.get_set_same _ _ _
  · rw [past _ (by decide), State.get_set_ne _ _ _ _ (by decide)]
    exact State.get_set_fits _ (Nat.lt_trans f.isLt (by decide))
  · rw [past _ (by decide)]
    exact State.get_set_fits _ (Nat.lt_trans w.isLt (by decide))
  · rw [past _ (by simp only [Field.key, R.PAD_EN, R.BLK_INT_RAW, pgPAD]; omega), State.get_set_ne _ _ _ _ (by simp only [Field.key, R.PAD_EN, R.PAD_WINNER]; omega),
      State.get_set_ne _ _ _ _ (by simp only [Field.key, R.PAD_EN, R.PAD_LOSER]; omega), State.get_set_ne _ _ _ _ (by simp only [Field.key, R.PAD_EN]; omega)]

/-- An enabled feature without a rival on its pin keeps it. -/
theorem State.contended_alone {f : Fin 13} (alone : ∀ g : Fin 13, g ≠ f → s.get (R.PAD_EN g) = 1 → s.get (R.PAD_PIN g) ≠ s.get (R.PAD_PIN f)) :
    s.contended f = s := by
  unfold State.contended
  split
  · rfl
  · have none : s.padRival f = none := List.find?_eq_none.2 fun g hg hit => by
      simp only [Bool.and_eq_true, bne_iff_ne, beq_iff_eq] at hit
      obtain ⟨⟨other, on⟩, pin⟩ := hit
      exact alone ⟨g, List.mem_range.1 hg⟩ (fun e => other (congrArg Fin.val e)) on pin
    rw [none]

/-- Of two features on a pin the lower class loses it. -/
theorem State.contended_rivals {f g : Fin 13} (on : s.get (R.PAD_EN f) ≠ 0) (other : g ≠ f) (enabled : s.get (R.PAD_EN g) = 1)
    (pin : s.get (R.PAD_PIN g) = s.get (R.PAD_PIN f))
    (only : ∀ h : Fin 13, h ≠ f → h ≠ g → s.get (R.PAD_EN h) = 1 → s.get (R.PAD_PIN h) ≠ s.get (R.PAD_PIN f)) :
    s.contended f = if outranks pinClass f g then s.losePin g f else s.losePin f g := by
  unfold State.contended
  rw [if_neg on]
  have found : s.padRival f = some g.val := by
    refine find_unique (List.mem_range.2 g.isLt) ?_ fun h hh hit => ?_
    · simp only [Bool.and_eq_true, bne_iff_ne, beq_iff_eq]
      exact ⟨⟨fun e => other (Fin.ext e), enabled⟩, pin⟩
    · simp only [Bool.and_eq_true, bne_iff_ne, beq_iff_eq] at hit
      obtain ⟨⟨apart, hon⟩, hpin⟩ := hit
      by_contra ne
      exact only ⟨h, List.mem_range.1 hh⟩ (fun e => apart (congrArg Fin.val e)) (fun e => ne (congrArg Fin.val e)) hon hpin
  rw [found]

section
variable {f g : Fin 13} {v : Word} (responds : s.responds pgPAD = true)
include responds

theorem execPinClaim_alone (on : v.getLsbD 4 = true) (alone : ∀ g : Fin 13, g ≠ f → s.get (R.PAD_EN g) = 1 → s.get (R.PAD_PIN g) ≠ v.toNat % 16) :
    ∃ t, exec (.pinClaim f v) s = .next t ∧ t.get (R.PAD_PIN f) = v.toNat % 16 ∧ t.get (R.PAD_EN f) = 1 ∧
      ∀ g : Fin 13, g ≠ f → t.get (R.PAD_EN g) = s.get (R.PAD_EN g) := by
  obtain ⟨pin, en, others⟩ := s.claimed_spec f v
  have same : (s.claimed f v).contended f = s.claimed f v := State.contended_alone fun g other enabled => by
    have := others g fun e => other (Fin.ext e)
    rw [pin, this.2]
    exact alone g other (this.1.symm.trans enabled)
  refine ⟨_, execPinClaim_eq f v s responds, ?_, ?_, fun g other => ?_⟩ <;> rw [same, State.absentCards_get]
  · exact pin
  · exact padField_apart (pinKey_lt f)
  · rw [en, if_pos on]
  · exact padField_apart (enKey_lt f)
  · exact (others g fun e => other (Fin.ext e)).1
  · exact padField_apart (enKey_lt g)

theorem execPinClaim_contended (on : v.getLsbD 4 = true) (other : g ≠ f) (enabled : s.get (R.PAD_EN g) = 1) (pin : s.get (R.PAD_PIN g) = v.toNat % 16)
    (only : ∀ h : Fin 13, h ≠ f → h ≠ g → s.get (R.PAD_EN h) = 1 → s.get (R.PAD_PIN h) ≠ v.toNat % 16) :
    let win := if outranks pinClass f g then f else g
    let lose := if outranks pinClass f g then g else f
    ∃ t, exec (.pinClaim f v) s = .next t ∧ t.get (R.PAD_EN win) = 1 ∧ t.get (R.PAD_EN lose) = 0 ∧ t.get R.PAD_WINNER = win.val ∧
      t.get R.PAD_LOSER = lose.val ∧ t.bit (R.BLK_INT_RAW pgPAD) 0 = true := by
  obtain ⟨fpin, en, others⟩ := s.claimed_spec f v
  have en : (s.claimed f v).get (R.PAD_EN f) = 1 := by rw [en, if_pos on]
  have gOther := others g fun e => other (Fin.ext e)
  have judged : (s.claimed f v).contended f =
      if outranks pinClass f g then (s.claimed f v).losePin g f else (s.claimed f v).losePin f g := by
    refine State.contended_rivals (by rw [en]; decide) other (gOther.1.trans enabled) (by rw [gOther.2, fpin, pin]) fun h hf hg hon => ?_
    have := others h fun e => hf (Fin.ext e)
    rw [fpin, this.2]
    exact only h hf hg (this.1.symm.trans hon)
  have told : ∀ w l : Fin 13, w ≠ l → (s.claimed f v).get (R.PAD_EN w) = 1 →
      ((((s.claimed f v).losePin l w).absentCard 0).absentCard 1).get (R.PAD_EN w) = 1 ∧
      ((((s.claimed f v).losePin l w).absentCard 0).absentCard 1).get (R.PAD_EN l) = 0 ∧
      ((((s.claimed f v).losePin l w).absentCard 0).absentCard 1).get R.PAD_WINNER = w.val ∧
      ((((s.claimed f v).losePin l w).absentCard 0).absentCard 1).get R.PAD_LOSER = l.val ∧
      ((((s.claimed f v).losePin l w).absentCard 0).absentCard 1).bit (R.BLK_INT_RAW pgPAD) 0 = true := fun w l ne won => by
    obtain ⟨lost, loser, winner, bit, rest⟩ := (s.claimed f v).losePin_spec l w
    refine ⟨?_, ?_, ?_, ?_, ?_⟩
    · rw [State.absentCards_get _ (padField_apart (enKey_lt w)), rest w fun e => ne (Fin.ext e)]; exact won
    · rw [State.absentCards_get _ (padField_apart (enKey_lt l))]; exact lost
    · rw [State.absentCards_get _ (padField_apart (by decide))]; exact winner
    · rw [State.absentCards_get _ (padField_apart (by decide))]; exact loser
    · rw [State.bit, State.absentCards_get _ (padField_apart (by decide))]; exact bit
  have run := execPinClaim_eq f v s responds
  rw [judged] at run
  intro win lose
  refine ⟨_, run, ?_⟩
  by_cases higher : outranks pinClass f g = true
  · simp only [win, lose, if_pos higher]
    exact told f g other.symm en
  · simp only [win, lose, if_neg higher]
    exact told g f other (gOther.1.trans enabled)

theorem execPinClaim_disabled (off : v.getLsbD 4 = false) :
    ∃ t, exec (.pinClaim f v) s = .next t ∧ t.get (R.PAD_EN f) = 0 ∧ t.get (R.PAD_PIN f) = v.toNat % 16 ∧ (f.val < 2 → t.get (R.CARD_PRESENT f) = 0) := by
  obtain ⟨pin, en, -⟩ := s.claimed_spec f v
  have en : (s.claimed f v).get (R.PAD_EN f) = 0 := by rw [en, off]; rfl
  have same : (s.claimed f v).contended f = s.claimed f v := if_pos en
  have run := execPinClaim_eq f v s responds
  rw [same] at run
  refine ⟨_, run, ?_, ?_, fun low => ?_⟩
  · rw [State.absentCards_get _ (padField_apart (enKey_lt f))]; exact en
  · rw [State.absentCards_get _ (padField_apart (pinKey_lt f))]; exact pin
  · match f, low with
    | 0, _ =>
      refine (State.absentCard_keeps _ 1 _ (by decide)).trans ?_
      exact State.absentCard_gone _ 0 en
    | 1, _ =>
      refine State.absentCard_gone _ 1 ?_
      exact (State.absentCard_keeps _ 0 _ (by decide)).trans en

end

/-! ## The medium leaves; the statement -/

/-- A medium that goes takes its appends and its state with it, C stays (R426). -/
theorem execSdRemove_spec (s : State) (there : s.get R.SD_PRESENT = 1) :
    ∃ t, exec .sdRemove s = .next t ∧ t.get R.SD_PRESENT = 0 ∧ t.get R.SD_MODE = 0 ∧ t.get R.SD_JSTATE = 0 ∧ t.jr.queue = [] ∧
      t.journalCount = s.journalCount ∧ t.bit (R.BLK_INT_RAW pgSD) 1 = true := by
  have run : exec .sdRemove s = .next (({ (((s.closeJournal.set R.SD_PRESENT 0).set R.SD_MODE 0).set R.SD_WIDTH 0) with
      jr := { rpmb := s.closeJournal.jr.rpmb } } : State).setPin 9 true |>.raise pgSD 1) := by
    show execSdRemove s = _
    unfold execSdRemove
    rw [if_neg (by simp [there])]
    rfl
  refine ⟨_, run, ?_⟩
  clear run
  obtain ⟨ob, emmc, rpmb⟩ := s.closeJournal_spec
  have closed : s.closeJournal.get R.SD_JSTATE = 0 := State.get_set_same _ _ _
  generalize s.closeJournal = v at *
  obtain ⟨w, gone⟩ : ∃ w : State, w = { ((v.set R.SD_PRESENT 0).set R.SD_MODE 0).set R.SD_WIDTH 0 with jr := { rpmb := v.jr.rpmb } } := ⟨_, rfl⟩
  rw [← gone]
  have get : ∀ g : Field, R.PAD_PIN_LEVEL.key ≠ g.key → (R.BLK_INT_RAW pgSD).key ≠ g.key →
      ((w.setPin 9 true).raise pgSD 1).get g = (((v.set R.SD_PRESENT 0).set R.SD_MODE 0).set R.SD_WIDTH 0).get g := fun g pin raw => by
    rw [State.raise_get_ne _ _ _ _ raw, State.setPin_get _ _ _ pin, gone]
    rfl
  have jr : ((w.setPin 9 true).raise pgSD 1).jr = { rpmb := s.jr.rpmb } := by
    rw [State.raise_jr, (w.setPin_frame 9 true).2.1, gone, ← rpmb]
  have keptOb : ((w.setPin 9 true).raise pgSD 1).ob = s.ob := by
    rw [(State.raise_onlyFields _ _ _).2.2]
    show (w.setPin 9 true).ob = _
    rw [(w.setPin_frame 9 true).1, gone]
    exact ob
  refine ⟨?_, ?_, ?_, by rw [jr], ?_, State.raise_bit _ _ (by decide)⟩
  · rw [get _ (by decide) (by decide), State.get_set_ne _ _ _ _ (by decide), State.get_set_ne _ _ _ _ (by decide)]
    exact State.get_set_same _ _ _
  · rw [get _ (by decide) (by decide), State.get_set_ne _ _ _ _ (by decide)]
    exact State.get_set_same _ _ _
  · rw [get _ (by decide) (by decide), State.get_set_ne _ _ _ _ (by decide), State.get_set_ne _ _ _ _ (by decide), State.get_set_ne _ _ _ _ (by decide)]
    exact closed
  · unfold State.journalCount
    rw [jr, keptOb, get _ (by decide) (by decide), State.get_set_ne _ _ _ _ (by decide), State.get_set_ne _ _ _ _ (by decide),
      State.get_set_ne _ _ _ _ (by decide), emmc]

/-- What a medium that comes is found to be, where the MMK is there (R422-R428). -/
theorem execSdInsert_spec (m : Medium) (s : State) (up : s.inReset = false) (absent : s.get R.SD_PRESENT = 0) (on : s.domainOn 41 = true)
    (free : s.pw.heldSd = false) (feature : m.emmc = true ∨ s.get (R.PAD_EN 9) = 1) (keyed : s.ob.mmk.isSome = true) :
    ∃ t, exec (.sdInsert m) s = .next t ∧ t.get R.SD_PRESENT = 1 ∧ t.get R.SD_EMMC = b2n m.emmc ∧ t.get R.SD_MODE = (bestMode m (s.get R.SD_MAXMODE)).1 % 8 ∧
      t.get R.SD_WIDTH = (if m.emmc then m.width.val else 1) ∧ t.bit (R.BLK_INT_RAW pgSD) 0 = true ∧
      (m.emmc = true → t.get R.SD_JSTATE = (if m.rpmbKey = some false then 3 else 1) ∧ t.jr.rpmb = m.rpmb) ∧
      (∀ mmk, m.emmc = true → m.rpmbKey = none → s.ob.mmk = some mmk → .rpmbKey (rpmbAuthKey mmk) ∈ t.out) ∧
      (m.emmc = false → s.get R.RST_BOOT_STAGE = 6 → t.get R.SD_JSTATE = 1 ∨ t.get R.SD_JSTATE = 2) ∧
      (m.emmc = false → s.get R.RST_BOOT_STAGE ≠ 6 → t.jr.found = some m.block) := by
  have run := execSdInsert_eq m s up absent on free feature
  obtain ⟨present, emmc, mode, width, bit, ob, -, stage, -⟩ := s.detected_spec m
  generalize s.detected m = v at *
  rw [if_neg (by rw [ob]; simpa [Option.isSome_iff_ne_none] using keyed)] at run
  by_cases device : m.emmc = true
  · rw [if_pos device] at run
    dsimp only at run
    obtain ⟨w, given⟩ : ∃ w, w = if m.rpmbKey.isNone then v.emit (.rpmbKey (rpmbAuthKey (v.ob.mmk.getD []))) else v := ⟨_, rfl⟩
    have same : w.regs = v.regs := by rw [given]; split <;> rfl
    rw [← given] at run
    refine ⟨_, run, ?_, ?_, ?_, ?_, ?_, fun _ => ⟨?_, rfl⟩, fun mmk _ unkeyed known => ?_, fun card => ?_, fun card => ?_⟩
    · rw [State.get_set_ne _ _ _ _ (by decide)]; exact (congrArg (fun r => ({ v with regs := r } : State).get R.SD_PRESENT) same).trans present
    · rw [State.get_set_ne _ _ _ _ (by decide)]; exact (congrArg (fun r => ({ v with regs := r } : State).get R.SD_EMMC) same).trans emmc
    · rw [State.get_set_ne _ _ _ _ (by decide)]; exact (congrArg (fun r => ({ v with regs := r } : State).get R.SD_MODE) same).trans mode
    · rw [State.get_set_ne _ _ _ _ (by decide)]; exact (congrArg (fun r => ({ v with regs := r } : State).get R.SD_WIDTH) same).trans width
    · rw [State.bit, State.get_set_ne _ _ _ _ (by decide)]; exact (congrArg (fun r => ({ v with regs := r } : State).bit (R.BLK_INT_RAW pgSD) 0) same).trans bit
    · exact State.get_set_fits _ (by split <;> decide)
    · show _ ∈ w.out
      rw [given, unkeyed, ob, known]
      exact List.mem_append_right _ (List.mem_singleton.mpr rfl)
    · rw [device] at card; exact nomatch card
    · rw [device] at card; exact nomatch card
  · rw [if_neg device] at run
    by_cases done : v.get R.RST_BOOT_STAGE = 6
    · rw [if_pos done] at run
      obtain ⟨mmk, key⟩ := Option.isSome_iff_exists.1 (ob ▸ keyed : v.ob.mmk.isSome = true)
      have judged := v.checkJournal_judges m.block key
      refine ⟨_, run, ?_, ?_, ?_, ?_, ?_, fun h => absurd h device, fun _ h => absurd h device, fun _ _ => ?_, fun _ early => absurd (stage ▸ done) early⟩
      · rw [State.checkJournal_get _ _ (by decide) (by decide)]; exact present
      · rw [State.checkJournal_get _ _ (by decide) (by decide)]; exact emmc
      · rw [State.checkJournal_get _ _ (by decide) (by decide)]; exact mode
      · rw [State.checkJournal_get _ _ (by decide) (by decide)]; exact width
      · exact v.checkJournal_raw m.block (by decide) bit
      · by_cases next : validRecord mmk m.block = true ∧ numAt m.block 12 8 = v.ob.journal + 1
        · exact .inr (judged.1 next.1 next.2).2
        · refine .inl (judged.2 ?_).2
          rw [not_and_or] at next
          exact next.imp Bool.eq_false_iff.2 id
    · rw [if_neg done] at run
      exact ⟨_, run, present, emmc, mode, width, bit, fun h => absurd h device, fun _ h => absurd h device, fun _ late => absurd (stage.trans late) done, fun _ _ => rfl⟩

/-- Settles O53: a medium is brought up and its block checked, appends complete and fail in their order, and of two features on a pin the higher class holds it. -/
theorem mediumJournalAndPinsBehave : Obligations.MediumJournalAndPinsBehave := by
  unfold Obligations.MediumJournalAndPinsBehave
  refine ⟨execSdInsert_spec, fun mmk block s key => State.checkJournal_judges block key, execSdRemove_spec, fun a as block ok s front single writing same =>
    execSdBusyEnd_advances front single writing same, ?_, ?_, fun f v s => execPinClaim_alone, fun f g v s => execPinClaim_contended,
    fun f v s => execPinClaim_disabled, fun f v s off => if_pos (by simp [off]), ?_, ?_, fun s absent => if_pos absent, ?_, ?_⟩
  case refine_1 =>
    intro a as block ok s front single writing other
    refine ⟨_, ?_, State.failAppend_next front single⟩
    show execSdBusyEnd block ok s = _
    unfold execSdBusyEnd
    rw [front]
    dsimp only
    rw [if_neg (by simpa using writing), if_pos other]
  case refine_2 =>
    intro a as s front single writing late
    refine ⟨_, ?_, State.failAppend_next front single⟩
    exact if_neg (by simpa [writing] using late)
  case refine_3 =>
    intro m s up absent on free feature lost
    have run := execSdInsert_eq m s up absent on free feature
    obtain ⟨present, -, -, -, -, ob, jr, -, jstate⟩ := s.detected_spec m
    rw [if_pos (by rw [ob, lost]; rfl)] at run
    exact ⟨_, run, present, jstate, ob, jr⟩
  case refine_4 =>
    intro m s stays
    refine if_pos ?_
    rcases stays with h | h | h | h <;> simp [h]
  case refine_5 =>
    intro block ok s idle
    show execSdBusyEnd block ok s = _
    unfold execSdBusyEnd
    split
    · rfl
    · next a as front => exact if_pos (by rcases idle with h | h <;> simp_all)
  case refine_6 => exact fun s h => if_pos (by simpa using h)

end Sys2Proof.Machine
end

section
/-! SUPPORT. The HBM controllers: initialisation, temperature and row repair (R245, R249, R250). -/
namespace Sys2Proof.Machine

variable {s : State}

/-! ## Registers of a controller -/

theorem raised_of_get {t : State} {p : Nat} (same : t.get (R.BLK_INT_RAW p) = s.get (R.BLK_INT_RAW p)) : raised p [] s t := fun j _ => by
  rw [State.bit, same, State.bit]; simp

theorem hbmStack_lt (a : Nat) : hbmStack a < 2 := by unfold hbmStack hbmChannel; omega

/-- The place that serves an address lies in one of the two stacks. -/
theorem State.holder_stack_lt (s : State) (a : Nat) : (s.holder a).stack < 2 := by
  unfold State.holder
  split
  · show 1 - hbmStack a < 2
    omega
  · exact hbmStack_lt a

/-- A pseudo-channel belongs to its stack. -/
theorem Place.channel_stack (x : Place) : x.channel / 32 = x.stack := by unfold Place.channel; omega

/-! ## Initialisation (R250) -/

theorem Sparse.get_filter {α : Type} (d : α) (m : Sparse α) (keep : Nat → Bool) (k : Nat) :
    Sparse.get d (m.filter fun e => keep e.1) k = if keep k then Sparse.get d m k else d := by
  induction m with
  | nil => simp
  | cons e m ih =>
    obtain ⟨j, v⟩ := e
    by_cases at_ : j = k
    · subst at_
      by_cases kept : keep j
      · simp [kept, Sparse.get]
      · simpa [List.filter_cons, kept] using ih
    · by_cases kept : keep j
      · rw [List.filter_cons, if_pos kept]
        simpa [Sparse.get, at_] using ih
      · rw [List.filter_cons, if_neg kept, ih]
        simp [Sparse.get, at_]

/-- Lines of zeros leave zeros and no poison between two addresses of a stack, and nothing else. -/
theorem State.zeroLines_spec (s : State) (k lo hi : Nat) :
    (∀ a, (s.zeroLines k lo hi).memByte a = if lo ≤ a ∧ a < hi ∧ hbmStack a = k then 0 else s.memByte a) ∧
    (∀ l, l ∈ (s.zeroLines k lo hi).hb.poison ↔ l ∈ s.hb.poison ∧ ¬ (lo ≤ 64 * l ∧ 64 * l < hi ∧ hbmStack (64 * l) = k)) ∧
    (s.zeroLines k lo hi).regs = s.regs := by
  refine ⟨fun a => ?_, fun l => ?_, rfl⟩
  · refine (Sparse.get_filter 0 s.hb.mem (fun a => !(decide (lo ≤ a ∧ a < hi) && hbmStack a == k)) a).trans ?_
    by_cases hit : lo ≤ a ∧ a < hi ∧ hbmStack a = k
    · rw [if_pos hit, if_neg (by simp [hit.1, hit.2.1, hit.2.2])]
    · rw [if_neg hit, if_pos ?_]
      · rfl
      · simp only [Bool.not_eq_true', Bool.and_eq_false_iff, decide_eq_false_iff_not, beq_eq_false_iff_ne]
        by_contra h
        simp only [not_or, not_not] at h
        exact hit ⟨h.1.1, h.1.2, h.2⟩
  · show l ∈ s.hb.poison.filter _ ↔ _
    rw [List.mem_filter]
    refine and_congr Iff.rfl ?_
    simp only [Bool.not_eq_true', ← Bool.not_eq_true, Bool.and_eq_true, decide_eq_true_eq, beq_iff_eq, and_assoc]

theorem execProtReady_spec {k : Fin 2} (keys : Sparse.get [] s.hb.keys k ≠ []) (early : s.get (R.HBM_PROT_READY k) ≠ 1) :
    ∃ t, exec (.protReady k) s = .next t ∧ t.get (R.HBM_PROT_READY k) = 1 ∧ keeps [R.HBM_PROT_READY k] s t ∧
      (∀ a, t.memByte a = if a < workBase ∧ hbmStack a = k then 0 else s.memByte a) ∧
      (∀ l, l ∈ t.hb.poison ↔ l ∈ s.hb.poison ∧ ¬ (64 * l < workBase ∧ hbmStack (64 * l) = k)) := by
  obtain ⟨mem, poison, regs⟩ := s.zeroLines_spec k 0 workBase
  refine ⟨_, if_neg (by simp [keys, early]), State.get_set_same _ _ _, fun f off => ?_, fun a => ?_, fun l => ?_⟩
  · rw [State.get_set_ne _ _ _ _ (off _ (by simp)), State.get, regs]; rfl
  · exact (mem a).trans (by simp)
  · exact (poison l).trans (by simp)

theorem execWorkReady_spec {k : Fin 2} (prot : s.get (R.HBM_PROT_READY k) ≠ 0) (early : s.get (R.HBM_WORK_READY k) ≠ 1) :
    ∃ t, exec (.workReady k) s = .next t ∧ t.get (R.HBM_WORK_READY k) = 1 ∧ keeps [R.HBM_WORK_READY k] s t ∧
      (∀ a, t.memByte a = if workBase ≤ a ∧ a < hbmEnd ∧ hbmStack a = k then 0 else s.memByte a) ∧
      (∀ l, l ∈ t.hb.poison ↔ l ∈ s.hb.poison ∧ ¬ (workBase ≤ 64 * l ∧ 64 * l < hbmEnd ∧ hbmStack (64 * l) = k)) := by
  obtain ⟨mem, poison, regs⟩ := s.zeroLines_spec k workBase hbmEnd
  refine ⟨_, if_neg (by simp [prot, early]), State.get_set_same _ _ _, fun f off => ?_, mem, poison⟩
  rw [State.get_set_ne _ _ _ _ (off _ (by simp)), State.get, regs]; rfl

/-- `n` random bytes drawn for the keys of place `k`. -/
def State.keyed (s : State) (k n : Nat) : State := { (s.draw n).2 with hb := { (s.draw n).2.hb with keys := Sparse.set [] (s.draw n).2.hb.keys k (s.draw n).1 } }

theorem State.keyed_spec (s : State) (k n : Nat) :
    (Sparse.get [] (s.keyed k n).hb.keys k).length = n ∧ (∀ j, k ≠ j → Sparse.get [] (s.keyed k n).hb.keys j = Sparse.get [] s.hb.keys j) ∧
      s.keyed k n = { s with hb := { s.hb with keys := (s.keyed k n).hb.keys }, randoms := (s.keyed k n).randoms } := by
  refine ⟨?_, fun j other => Sparse.get_set_ne _ _ _ _ other, rfl⟩
  show (Sparse.get [] (Sparse.set [] s.hb.keys k (s.draw n).1) k).length = n
  rw [Sparse.get_set_same]
  simp [State.draw]

/-- A controller draws its key pair, and the first one the MAC key with it. -/
theorem execHbmKeyDraw_spec {k : Fin 2} (ready : s.get R.FLT_READY ≠ 0) (phy : s.get (R.HBM_PHY_READY k) ≠ 0) (early : s.get (R.HBM_PROT_READY k) ≠ 1)
    (none : Sparse.get [] s.hb.keys k = []) :
    ∃ t, exec (.hbmKeyDraw k) s = .next t ∧ (Sparse.get [] t.hb.keys k).length = 64 ∧ Sparse.get [] t.hb.keys 2 ≠ [] ∧
      t = { s with hb := { s.hb with keys := t.hb.keys }, randoms := t.randoms } := by
  have run : exec (.hbmKeyDraw k) s =
      if Sparse.get [] (s.keyed k 64).hb.keys 2 = [] then .next ((s.keyed k 64).keyed 2 32) else .next (s.keyed k 64) :=
    if_neg (by simp [ready, phy, early, none])
  obtain ⟨pair, -, first⟩ := s.keyed_spec k 64
  obtain ⟨mac, others, second⟩ := (s.keyed k 64).keyed_spec 2 32
  split at run
  · refine ⟨_, run, ?_, fun empty => ?_, ?_⟩
    · rw [others k (by omega)]; exact pair
    · rw [empty] at mac; exact absurd mac (by decide)
    · rw [second, first]
  · next some => exact ⟨_, run, pair, some, first⟩

theorem execHbmInit_spec {k : Fin 2} (cold : s.get (R.HBM_PHY_READY k) ≠ 1) (awake : s.pw.phase ≠ .asleep) (up : s.inReset = false) :
    ∃ t, exec (.hbmInit k) s = .next t ∧ t.get (R.HBM_PHY_READY k) = 1 ∧ onlyFields [R.HBM_PHY_READY k, R.HBM_SELF_REFRESH k] s t := by
  refine ⟨_, if_neg (by simp [cold, awake, up]), State.get_set_same _ _ _, ?_⟩
  exact onlyFields_mono (onlyFields_trans (onlyFields_set s _ _) (onlyFields_set _ _ _)) (by simp)

/-! ## Temperature and row repair (R245, R249) -/

theorem execHbmTempHigh_spec (k : Fin 2) (temp : BitVec 8) (s : State) :
    ∃ t, exec (.hbmTempHigh k temp) s = .next t ∧ t.get (R.HBM_TEMP k) = temp.toNat ∧
      raised (pgHBM k) (if s.get (R.HBM_TEMP k) ≤ 85 ∧ 85 < temp.toNat then [7] else []) s t ∧ onlyFields [R.HBM_TEMP k, R.BLK_INT_RAW (pgHBM k)] s t := by
  have other : (R.HBM_TEMP k).key ≠ (R.BLK_INT_RAW (pgHBM k)).key := by simp only [Field.key, R.HBM_TEMP, R.BLK_INT_RAW, pgHBM]; omega
  have held : (s.set (R.HBM_TEMP k) temp.toNat).get (R.HBM_TEMP k) = temp.toNat := State.get_set_fits _ temp.isLt
  have quiet : raised (pgHBM k) [] s (s.set (R.HBM_TEMP k) temp.toNat) := raised_of_get (State.get_set_ne _ _ _ _ other)
  have only := onlyFields_set s (R.HBM_TEMP k) temp.toNat
  refine ⟨_, rfl, ?_⟩
  generalize s.set (R.HBM_TEMP k) temp.toNat = v at *
  split
  · refine ⟨(v.raise_get_ne _ _ _ other.symm).trans held, raised_trans quiet (v.raise_raised _ _), ?_⟩
    exact onlyFields_mono (onlyFields_trans only (v.raise_onlyFields _ _)) (by simp)
  · exact ⟨held, quiet, onlyFields_mono only (by simp)⟩

theorem execPprGo_spec {k : Fin 2} {target : BitVec 28} (responds : s.responds (pgHBM k) = true) (free : s.repairing = false) (boot : s.mode ≠ .boot)
    (responded : s.mode ≠ .responded) (main : s.ob.onMain = true) :
    ∃ t : State, exec (.pprGo k target) s = .next { t with hb := { s.hb with repair := some (32 * k.val + target.toNat % 32) } } ∧
      t.get (R.HBM_PPR_TARGET k) = target.toNat ∧ t.get (R.HBM_PPR_STATE k) = 1 ∧ onlyFields [R.HBM_PPR_TARGET k, R.HBM_PPR_STATE k] s t := by
  refine ⟨(s.set (R.HBM_PPR_TARGET k) target.toNat).set (R.HBM_PPR_STATE k) 1, ?_, ?_, State.get_set_same _ _ _, ?_⟩
  · show execPprGo k target s = _
    unfold execPprGo
    rw [if_neg (by simp [responds]), if_neg (by simp [free, boot, responded, main])]
    rfl
  · rw [State.get_set_ne _ _ _ _ (by simp only [Field.key, R.HBM_PPR_TARGET, R.HBM_PPR_STATE]; omega)]
    exact State.get_set_fits _ target.isLt
  · exact onlyFields_trans (onlyFields_set s _ _) (onlyFields_set _ _ _)

/-- A step of a repair that passes or fails. -/
theorem State.pprStep_spec (s : State) (k v : Nat) (ok : Bool) (fits : v < 8) :
    (if ok then s.set (R.HBM_PPR_STATE k) v else s.pprFail k).get (R.HBM_PPR_STATE k) = (if ok then v else 6) ∧
      raised (pgHBM k) (if ok then [] else [6]) s (if ok then s.set (R.HBM_PPR_STATE k) v else s.pprFail k) := by
  have other : ∀ n, (R.HBM_PPR_STATE n).key ≠ (R.BLK_INT_RAW (pgHBM n)).key := fun n => by simp only [Field.key, R.HBM_PPR_STATE, R.BLK_INT_RAW, pgHBM]; omega
  have quiet : ∀ n, raised (pgHBM k) [] s (s.set (R.HBM_PPR_STATE k) n) := fun n => raised_of_get (State.get_set_ne _ _ _ _ (other k))
  cases ok
  · refine ⟨?_, raised_trans (quiet 6) (State.raise_raised _ (pgHBM k) 6)⟩
    show ((s.set (R.HBM_PPR_STATE k) 6).raise (pgHBM k) 6).get _ = 6
    rw [State.raise_get_ne _ _ _ _ (other k).symm]
    exact State.get_set_same _ _ _
  · exact ⟨State.get_set_fits _ fits, quiet v⟩

theorem execMigrateBack_spec {k : Fin 2} {c : Nat} (back : s.repairAt k 4 = some c) :
    ∃ t, exec (.migrateBack k) s = .next t ∧ t.get (R.HBM_PPR_STATE k) = 5 ∧ c ∉ t.hb.redirect ∧ t.hb.repair = none ∧ raised (pgHBM k) [5] s t := by
  have other : (R.HBM_PPR_STATE k).key ≠ (R.BLK_INT_RAW (pgHBM k)).key := by simp only [Field.key, R.HBM_PPR_STATE, R.BLK_INT_RAW, pgHBM]; omega
  obtain ⟨v, returned⟩ : ∃ v : State, v = { s with hb := { s.hb with redirect := s.hb.redirect.filter (· ≠ c), repair := none } } := ⟨_, rfl⟩
  have run : exec (.migrateBack k) s = .next ((v.set (R.HBM_PPR_STATE k) 5).raise (pgHBM k) 5) := by
    show execMigrateBack k s = _
    unfold execMigrateBack
    rw [back, returned]
  refine ⟨_, run, ?_, ?_, ?_, ?_⟩
  · rw [State.raise_get_ne _ _ _ _ other.symm]
    exact State.get_set_same _ _ _
  · rw [State.raise_hb, State.set_hb, returned]
    simp
  · rw [State.raise_hb, State.set_hb, returned]
  · refine raised_trans (as := []) (raised_of_get ?_) (State.raise_raised _ (pgHBM k) 5)
    rw [State.get_set_ne _ _ _ _ other, returned]
    rfl

end Sys2Proof.Machine
end

section
/-! SUPPORT. What the errors of the HBM controllers note, and reads with their checks (R241-R248). -/
namespace Sys2Proof.Machine

variable {s : State}

/-! ## Errors (R241, R244, R246, R248) -/

theorem State.hb_of_offNotes {t : State} (h : t.offNotes = s.offNotes) : t.hb = s.hb := (congrArg State.hb h : t.offNotes.hb = s.offNotes.hb)
theorem State.sq_of_offNotes {t : State} (h : t.offNotes = s.offNotes) : t.sq = s.sq := (congrArg State.sq h : t.offNotes.sq = s.offNotes.sq)

theorem State.set_offNotes (s : State) (f : Field) (v : Nat) : (s.set f v).offNotes = s.offNotes := rfl

/-- A field written leaves the interrupts of the pages it is not in. -/
theorem State.set_still {f : Field} {v p j : Nat} (other : f.key ≠ (R.BLK_INT_RAW p).key) (h : s.bit (R.BLK_INT_RAW p) j = true) :
    (s.set f v).bit (R.BLK_INT_RAW p) j = true := by
  rw [State.bit, State.get_set_ne _ _ _ _ other]; exact h

theorem State.severity_still {n p j : Nat} (h : s.bit (R.BLK_INT_RAW p) j = true) : (s.severity n).bit (R.BLK_INT_RAW p) j = true := by
  have other : R.AGT_OPEN_SEV.key ≠ (R.BLK_INT_RAW p).key := by simp only [Field.key, R.AGT_OPEN_SEV, R.BLK_INT_RAW]; omega
  rw [State.bit, (s.severity_spec n).1 _ (by simpa using other)]; exact h

/-- The fields that tell a controller's last error. -/
def errorFields (k : Nat) : List Field := [R.HBM_LAST_ERR_TYPE k, R.HBM_CE_CNT k]

theorem errorFields_apart {k : Nat} (hk : k < 2) {f : Field} (h : ∀ j < 2, f.key ≠ (R.HBM_LAST_ERR_TYPE j).key ∧ f.key ≠ (R.HBM_CE_CNT j).key) :
    apart (errorFields k) f := by
  obtain ⟨type, count⟩ := h k hk
  intro g hg
  simp only [errorFields, List.mem_cons, List.not_mem_nil, or_false] at hg
  rcases hg with rfl | rfl
  · exact type
  · exact count

theorem errorSeverity_apart {k : Nat} (hk : k < 2) : apart (errorFields k) R.AGT_OPEN_SEV :=
  errorFields_apart hk (by decide)

theorem errorRaw_apart {k p : Nat} (hk : k < 2) : apart (errorFields k) (R.BLK_INT_RAW p) :=
  errorFields_apart hk fun j hj => by simp only [Field.key, R.BLK_INT_RAW, R.HBM_LAST_ERR_TYPE, R.HBM_CE_CNT]; omega

/-- A row recorded as a candidate: INT_RAW bit 4 of its stack, and nothing of the HBM. -/
theorem State.rowCandidate_spec (s : State) (pc bank row : Nat) :
    (s.rowCandidate pc bank row).offNotes = s.offNotes ∧ (s.rowCandidate pc bank row).bit (R.BLK_INT_RAW (pgHBM (pc / 32))) 4 = true ∧
    (∀ p j, j < 32 → s.bit (R.BLK_INT_RAW p) j = true → (s.rowCandidate pc bank row).bit (R.BLK_INT_RAW p) j = true) ∧
    ∀ k < 2, spares (errorFields k) s (s.rowCandidate pc bank row) := by
  unfold State.rowCandidate
  have away : ∀ {f : Field} (p : Nat), f.addr % 0x1000 = 0x134 → f.lsb < 32 → f.key ≠ (R.BLK_INT_RAW p).key := fun p place low => by
    simp only [Field.key, R.BLK_INT_RAW]; omega
  have in_ : ∀ k, (R.HBM_CAND_PC k).addr % 0x1000 = 0x134 ∧ (R.HBM_CAND_BANK k).addr % 0x1000 = 0x134 ∧ (R.HBM_CAND_ROW k).addr % 0x1000 = 0x134 := fun k => by
    simp only [R.HBM_CAND_PC, R.HBM_CAND_BANK, R.HBM_CAND_ROW]; omega
  obtain ⟨pcAt, bankAt, rowAt⟩ := in_ (pc / 32)
  refine ⟨?_, ?_, fun p j hj stood => ?_, fun k hk => ?_⟩
  · rw [State.severity_offNotes, State.raise_offNotes]; rfl
  · exact State.severity_still (State.raise_bit _ _ (by decide))
  · exact State.severity_still (State.raise_still hj (State.set_still (away p rowAt (by decide : 11 < 32)) (State.set_still (away p bankAt (by decide : 5 < 32))
      (State.set_still (away p pcAt (by decide : 0 < 32)) stood))))
  · have off : ∀ {f : Field}, f.addr % 0x1000 = 0x134 → f.lsb < 32 → apart (errorFields k) f := fun place low => errorFields_apart hk fun j hj => by
      simp only [Field.key, R.HBM_LAST_ERR_TYPE, R.HBM_CE_CNT]; omega
    exact .severity (.raise (.set (.set (.set .refl (off pcAt (by decide : 0 < 32))) (off bankAt (by decide : 5 < 32))) (off rowAt (by decide : 11 < 32)))
      (errorRaw_apart hk)) (errorSeverity_apart hk)

theorem State.lastErr_spec (s : State) (a type : Nat) (small : type < 4) :
    (s.lastErr a type).offNotes = s.offNotes ∧ (s.lastErr a type).get (R.HBM_LAST_ERR_TYPE (s.holder a).stack) = type ∧
      keeps [R.HBM_LAST_ERR_LINE (s.holder a).stack, R.HBM_LAST_ERR_TYPE (s.holder a).stack] s (s.lastErr a type) :=
  ⟨rfl, State.get_set_fits _ small, keeps_trans (keeps_set s _ _) (keeps_set _ _ _)⟩

theorem State.lastErr_still {a type p j : Nat} (h : s.bit (R.BLK_INT_RAW p) j = true) : (s.lastErr a type).bit (R.BLK_INT_RAW p) j = true :=
  State.set_still (by simp only [Field.key, R.HBM_LAST_ERR_TYPE, R.BLK_INT_RAW]; omega)
    (State.set_still (by simp only [Field.key, R.HBM_LAST_ERR_LINE, R.BLK_INT_RAW]; omega) h)

theorem State.poisonLine_fresh {l : Nat} (fresh : l ∉ s.hb.poison) : s.poisonLine l = { s with hb := { s.hb with poison := s.hb.poison ++ [l] } } :=
  if_neg (by simpa using fresh)

theorem State.poisonLine_spec (s : State) (l : Nat) : l ∈ (s.poisonLine l).hb.poison ∧ s.poisonLine l = { s with hb := { s.hb with poison := (s.poisonLine l).hb.poison } } := by
  unfold State.poisonLine
  split
  · next there => exact ⟨by simpa using there, rfl⟩
  · exact ⟨List.mem_append_right _ (List.mem_singleton.mpr rfl), rfl⟩

/-- A corrected error is counted, and the row's errors with it (R246, R248). -/
theorem State.correctedError_spec (s : State) (a bank row : Nat) : let t := s.correctedError a bank row
    let k := (s.holder a).stack
    t.get (R.HBM_LAST_ERR_TYPE k) = 0 ∧ t.get (R.HBM_CE_CNT k) = satAdd (R.HBM_CE_CNT k).width (s.get (R.HBM_CE_CNT k)) 1 % 2 ^ (R.HBM_CE_CNT k).width ∧
      t.hb = { s.hb with rowErrors := t.hb.rowErrors, rowsMet := t.hb.rowsMet } ∧ t.sq = s.sq := by
  intro t k
  have hk : k < 2 := s.holder_stack_lt a
  obtain ⟨v, counted⟩ : ∃ v, v = (s.countSat (R.HBM_CE_CNT k)).lastErr a 0 := ⟨_, rfl⟩
  have type : v.get (R.HBM_LAST_ERR_TYPE k) = 0 := by rw [counted]; exact (State.lastErr_spec _ a 0 (by decide)).2.1
  have count : v.get (R.HBM_CE_CNT k) = satAdd (R.HBM_CE_CNT k).width (s.get (R.HBM_CE_CNT k)) 1 % 2 ^ (R.HBM_CE_CNT k).width := by
    rw [counted]
    refine ((State.lastErr_spec _ a 0 (by decide)).2.2 _ ?_).trans (State.get_set_same _ _ _)
    intro g hg
    simp only [List.mem_cons, List.not_mem_nil, or_false] at hg
    rcases hg with rfl | rfl <;> simp only [Field.key, R.HBM_LAST_ERR_LINE, R.HBM_LAST_ERR_TYPE, R.HBM_CE_CNT] <;> omega
  have hb : v.hb = s.hb := by rw [counted]; rfl
  have sq : v.sq = s.sq := by rw [counted]; rfl
  obtain ⟨w, noted⟩ : ∃ w : State, w = { v with hb := { v.hb with rowErrors := Sparse.set 0 v.hb.rowErrors (rowKey (s.holder a).channel bank row) (Sparse.get 0 v.hb.rowErrors (rowKey (s.holder a).channel bank row) + 1) } } := ⟨_, rfl⟩
  have whole : t = (if max 1 (w.get (R.HBM_ROW_CE_LIMIT k)) ≤ Sparse.get 0 v.hb.rowErrors (rowKey (s.holder a).channel bank row) + 1 ∧
        ¬ w.hb.rowsMet.contains (rowKey (s.holder a).channel bank row) then
      { w with hb := { w.hb with rowsMet := rowKey (s.holder a).channel bank row :: w.hb.rowsMet } }.rowCandidate (s.holder a).channel bank row else w) := by
    rw [noted, counted]; rfl
  clear_value t
  rw [whole]
  have wType : w.get (R.HBM_LAST_ERR_TYPE k) = 0 := by rw [noted]; exact type
  have wCount := (show w.get (R.HBM_CE_CNT k) = v.get (R.HBM_CE_CNT k) by rw [noted]; rfl).trans count
  have wHb : w.hb = { s.hb with rowErrors := w.hb.rowErrors } := by rw [noted, ← hb]
  have wSq : w.sq = s.sq := by rw [noted]; exact sq
  split
  · obtain ⟨offs, -, -, fields⟩ := State.rowCandidate_spec { w with hb := { w.hb with rowsMet := rowKey (s.holder a).channel bank row :: w.hb.rowsMet } } (s.holder a).channel bank row
    have fields := fields k hk
    refine ⟨(fields _ (by simp [errorFields])).trans wType, (fields _ (by simp [errorFields])).trans wCount, ?_, (State.sq_of_offNotes offs).trans wSq⟩
    rw [State.hb_of_offNotes offs]
    rw [wHb]
  · exact ⟨wType, wCount, by rw [wHb], wSq⟩

/-- An uncorrectable error poisons the line, and its row is a candidate (R246, R248). -/
theorem State.uncorrectableError_spec (s : State) (a bank row : Nat) : let t := s.uncorrectableError a bank row
    let k := (s.holder a).stack
    t.hb = (s.poisonLine (a / 64)).hb ∧ t.sq = s.sq ∧ t.get (R.HBM_LAST_ERR_TYPE k) = 1 ∧ t.bit (R.BLK_INT_RAW (pgHBM k)) 0 = true ∧
      t.bit (R.BLK_INT_RAW (pgHBM k)) 4 = true := by
  intro t k
  have hk : k < 2 := s.holder_stack_lt a
  obtain ⟨v, told⟩ : ∃ v, v = (((s.countSat (R.HBM_UE_CNT k)).lastErr a 1).raise (pgHBM k) 0).severity 3 := ⟨_, rfl⟩
  have offs : v.offNotes = s.offNotes := by rw [told, State.severity_offNotes, State.raise_offNotes]; rfl
  have bit : v.bit (R.BLK_INT_RAW (pgHBM k)) 0 = true := by rw [told]; exact State.severity_still (State.raise_bit _ _ (by decide))
  have type : v.get (R.HBM_LAST_ERR_TYPE k) = 1 := by
    have later : spares (errorFields k) ((s.countSat (R.HBM_UE_CNT k)).lastErr a 1) v := by
      rw [told]; exact .severity (.raise .refl (errorRaw_apart hk)) (errorSeverity_apart hk)
    exact (later _ (by simp [errorFields])).trans (State.lastErr_spec _ a 1 (by decide)).2.1
  have whole : t = (v.poisonLine (a / 64)).rowCandidate (s.holder a).channel bank row := by rw [told]; rfl
  clear_value t
  rw [whole]
  have poisoned := (v.poisonLine_spec (a / 64)).2
  have same : (v.poisonLine (a / 64)).hb = (s.poisonLine (a / 64)).hb := by
    have hb := State.hb_of_offNotes offs
    unfold State.poisonLine
    rw [hb]
    split
    · exact hb
    · rfl
  obtain ⟨rowOffs, four, still, fields⟩ := (v.poisonLine (a / 64)).rowCandidate_spec (s.holder a).channel bank row
  have regs : ∀ f, (v.poisonLine (a / 64)).get f = v.get f := fun f => by rw [poisoned]; rfl
  rw [Place.channel_stack] at four
  refine ⟨(State.hb_of_offNotes rowOffs).trans same, ?_, ?_, still _ 0 (by decide) ?_, four⟩
  · rw [State.sq_of_offNotes rowOffs, poisoned]
    exact (State.sq_of_offNotes offs : v.sq = s.sq)
  · rw [fields k hk _ (by simp [errorFields]), regs]; exact type
  · rw [State.bit, regs]; exact bit

/-- A MAC failure is counted and told (R244). -/
theorem State.macFailure_spec (s : State) (a : Nat) : let t := s.macFailure a
    let k := (s.holder a).stack
    t.hb = s.hb ∧ t.sq = s.sq ∧ t.get (R.HBM_LAST_ERR_TYPE k) = 2 ∧ t.bit (R.BLK_INT_RAW (pgHBM k)) 1 = true := by
  intro t k
  have hk : k < 2 := s.holder_stack_lt a
  obtain ⟨v, told⟩ : ∃ v, v = ((s.countSat (R.HBM_MAC_FAIL_CNT k)).lastErr a 2).raise (pgHBM k) 1 := ⟨_, rfl⟩
  have whole : t = (v.severity 3).raiseInput (logicCond 3) := by rw [told]; rfl
  have offs : t.offNotes = s.offNotes := by rw [whole, State.raiseInput_offNotes, State.severity_offNotes, told, State.raise_offNotes]; rfl
  have later : spares (errorFields k) ((s.countSat (R.HBM_MAC_FAIL_CNT k)).lastErr a 2) t := by
    rw [whole]
    refine .trans (t := v.severity 3) ?_ (State.raiseInput_spares _ (errorSeverity_apart hk))
    rw [told]
    exact .severity (.raise .refl (errorRaw_apart hk)) (errorSeverity_apart hk)
  refine ⟨State.hb_of_offNotes offs, State.sq_of_offNotes offs, (later _ (by simp [errorFields])).trans (State.lastErr_spec _ a 2 (by decide)).2.1, ?_⟩
  have other : apart [R.BLK_INT_RAW (pgHBM k)] R.AGT_OPEN_SEV := fun g hg => by
    rw [List.mem_singleton.mp hg]
    simp only [Field.key, R.AGT_OPEN_SEV, R.BLK_INT_RAW, pgHBM]; omega
  rw [whole, (State.raiseInput_spares (fs := [R.BLK_INT_RAW (pgHBM k)]) _ other).bit (by simp)]
  refine State.severity_still ?_
  rw [told]
  exact State.raise_bit _ _ (by decide)

/-- A twin mismatch of an encryption engine leaves the HBM as it is, and its interrupt stands (R241). -/
theorem State.xtsMismatch_spec (s : State) (a : Nat) : (s.xtsMismatch a).offNotes = s.offNotes ∧
    (s.xtsMismatch a).bit (R.BLK_INT_RAW (pgHBM (s.holder a).stack)) 2 = true := by
  unfold State.xtsMismatch
  dsimp only
  refine ⟨?_, State.mismatch_still (by decide) (State.raise_bit _ _ (by decide))⟩
  rw [State.mismatch_offNotes, State.raise_offNotes]
  rfl

/-- The engine's twins differ twice. -/
theorem State.xtsMismatches_spec (s : State) (a : Nat) {twins : Nat} (twice : 2 ≤ twins) :
    ((List.range (min twins 2)).foldl (fun s _ => s.xtsMismatch a) s).offNotes = s.offNotes ∧
    ((List.range (min twins 2)).foldl (fun s _ => s.xtsMismatch a) s).bit (R.BLK_INT_RAW (pgHBM (s.holder a).stack)) 2 = true := by
  rw [Nat.min_eq_right twice]
  show ((s.xtsMismatch a).xtsMismatch a).offNotes = _ ∧ ((s.xtsMismatch a).xtsMismatch a).bit _ 2 = true
  obtain ⟨first, -⟩ := s.xtsMismatch_spec a
  obtain ⟨second, bit⟩ := (s.xtsMismatch a).xtsMismatch_spec a
  have place : (s.xtsMismatch a).holder a = s.holder a := by rw [State.holder, State.hb_of_offNotes first]; rfl
  rw [place] at bit
  exact ⟨second.trans first, bit⟩

/-! ## Reads (R241-R246) -/

/-- The state a read of the line at `a` is checked in: its island ungated, a protected line's MAC looked up. -/
def State.looked (s : State) (a victim : Nat) : State := if hbmProtected a then (s.crossHbm a).macLookup a victim else s.crossHbm a

theorem State.looked_spec (s : State) (a victim : Nat) : (s.looked a victim).hb = { s.hb with macs := (s.looked a victim).hb.macs } ∧
    (s.looked a victim).sq = s.sq ∧ ∀ k, (s.looked a victim).get (R.HBM_CE_CNT k) = s.get (R.HBM_CE_CNT k) := by
  have apart : ∀ j k, (R.HBM_MACC_HIT j).key ≠ (R.HBM_CE_CNT k).key ∧ (R.HBM_MACC_MISS j).key ≠ (R.HBM_CE_CNT k).key := fun j k => by
    simp only [Field.key, R.HBM_MACC_HIT, R.HBM_MACC_MISS, R.HBM_CE_CNT]; omega
  unfold State.looked State.macLookup
  split
  · dsimp only
    split
    · exact ⟨rfl, rfl, fun k => State.get_count_ne _ _ _ _ (apart _ k).1⟩
    · exact ⟨rfl, rfl, fun k => State.get_count_ne (s.crossHbm a) _ _ _ (apart _ k).2⟩
  · exact ⟨rfl, rfl, fun _ => rfl⟩

theorem State.looked_holder (s : State) (a victim b : Nat) : (s.looked a victim).holder b = s.holder b := by
  rw [State.holder, (s.looked_spec a victim).1]; rfl

section
variable {t : State}

/-- What a controller decrypts follows from its keys. -/
theorem State.linePlain_of_keys {k : Nat} (h : s.lineKeys k = t.lineKeys k) (l : Nat) (c : List Byte) : s.linePlain k l c = t.linePlain k l c := by
  delta State.linePlain
  generalize e : s.lineKeys k = ks
  rw [e] at h
  rw [← h]

theorem State.lineCipher_of_keys {k : Nat} (h : s.lineKeys k = t.lineKeys k) (l : Nat) (c : List Byte) : s.lineCipher k l c = t.lineCipher k l c := by
  delta State.lineCipher
  generalize e : s.lineKeys k = ks
  rw [e] at h
  rw [← h]

theorem State.lineMac_of_keys (h : Sparse.get [] s.hb.keys 2 = Sparse.get [] t.hb.keys 2) (l : Nat) (c : List Byte) : s.lineMac l c = t.lineMac l c := by
  delta State.lineMac
  generalize e : Sparse.get [] s.hb.keys 2 = ks
  rw [e] at h
  rw [← h]

end

/-- What a requester is answered changes no line. -/
theorem State.answered_readLine (s : State) (bs : Option (List Byte)) (l : Nat) : (s.answered bs).readLine l = s.readLine l := by
  have holder : ∀ b, (s.answered bs).holder b = s.holder b := fun _ => rfl
  have store : (s.answered bs).hb.keys = s.hb.keys := rfl
  have keys : ∀ k, (s.answered bs).lineKeys k = s.lineKeys k := fun _ => rfl
  have plain : ∀ k m c, (s.answered bs).linePlain k m c = s.linePlain k m c := fun k m c => State.linePlain_of_keys (keys k) m c
  have cipher : ∀ k m c, (s.answered bs).lineCipher k m c = s.lineCipher k m c := fun k m c => State.lineCipher_of_keys (keys k) m c
  have mac : ∀ m c, (s.answered bs).lineMac m c = s.lineMac m c := fun m c => State.lineMac_of_keys (congrArg (Sparse.get [] · 2) store) m c
  have place : ∀ k, (s.answered bs).tableLine k = s.tableLine k := fun _ => rfl
  have line : ∀ k, (s.answered bs).line k = s.line k := fun _ => rfl
  have bytes : ∀ k (x : KeyLine), (s.answered bs).lineBytes k x = s.lineBytes k x := fun k x => by
    delta State.lineBytes
    cases x.record with
    | none => rfl
    | some r => rfl
  have table : ∀ k, (s.answered bs).tableBytes k = s.tableBytes k := fun k => by
    unfold State.tableBytes
    rw [place]
    generalize s.tableLine k = found
    cases found with
    | none => rfl
    | some base => dsimp only; rw [line, line, bytes]
  have slot : ∀ k, (s.answered bs).slotBytes k = s.slotBytes k := fun _ => rfl
  have entry : ∀ b, (s.answered bs).tableEntryLine b = s.tableEntryLine b := fun _ => rfl
  have part : ∀ k, (s.answered bs).partBytes k = s.partBytes k := fun _ => rfl
  have mem : ∀ b n, (s.answered bs).readMem b n = s.readMem b n := fun _ _ => rfl
  have clear : ∀ k, (s.answered bs).clearLine k = s.clearLine k := fun k => by
    simp only [State.clearLine, table, slot, entry, part, mem]
  simp only [State.readLine, State.plainLine, State.cipherLine, holder, plain, cipher, mac, clear]

section
variable {a : Fin 0xBA0000000} {use : HbmUse} {bank row twins victim : Nat} {found : LineCheck}

theorem execHbmReadComplete_eq (ready : s.hbmWaits a = false) (may : hbmProtected a = false ∨ mayProtected use = true)
    (granted : (s.useCheck .read a use).1 = true) : exec (.hbmReadComplete a use bank row found twins victim) s =
      if ((s.looked a victim).checkLine a bank row found twins).2 then (((s.looked a victim).checkLine a bank row found twins).1.answered none).integrityError a use
      else .next (((s.looked a victim).checkLine a bank row found twins).1.answered (some (((s.looked a victim).checkLine a bank row found twins).1.readLine (a.val / 64)))) := by
  show execHbmReadComplete a use bank row found twins victim s = _
  unfold execHbmReadComplete
  rw [if_neg (by simp [ready]), if_neg (by rcases may with h | h <;> simp [h])]
  dsimp only
  rw [if_neg (by simp [granted])]
  rfl

/-- A line that is poisoned, or has no keys, gives no data whatever its check finds. -/
theorem State.checkLine_lost {b : Nat} (lost : b / 64 ∈ s.hb.poison ∨ s.keysOf b = []) : s.checkLine b bank row found 0 = (s, true) := by
  unfold State.checkLine
  exact if_pos (by rcases lost with h | h <;> simp [h])

theorem State.checkLine_found {b : Nat} (kept : ¬ (b / 64 ∈ s.hb.poison ∨ s.keysOf b = [])) : s.checkLine b bank row found 0 =
    match found with
    | .clean => (s, false)
    | .corrected => (s.correctedError b bank row, false)
    | .uncorrectable => (s.uncorrectableError b bank row, true)
    | .macFail => if hbmProtected b then (s.macFailure b, true) else (s, false) := by
  unfold State.checkLine
  refine (if_neg ?_).trans rfl
  intro h
  refine kept (h.imp (by simp) (by simp))

theorem State.checkLine_twins {b : Nat} (kept : ¬ (b / 64 ∈ s.hb.poison ∨ s.keysOf b = [])) (twice : 2 ≤ twins) : ∃ v : State,
    s.checkLine b bank row found twins = (v, true) ∧ v.hb = { s.hb with poison := s.hb.poison ++ [b / 64] } ∧ v.sq = s.sq ∧
      v.bit (R.BLK_INT_RAW (pgHBM (s.holder b).stack)) 2 = true := by
  obtain ⟨offs, bit⟩ := s.xtsMismatches_spec b twice
  unfold State.checkLine
  dsimp only
  generalize (List.range (min twins 2)).foldl (fun s _ => s.xtsMismatch b) s = v at *
  have hb := State.hb_of_offNotes offs
  have keys : v.keysOf b = s.keysOf b := by rw [State.keysOf, State.holder, hb]; rfl
  have fresh : ¬ (v.hb.poison.contains (b / 64) = true ∨ (v.keysOf b).isEmpty = true) := by
    rw [hb, keys]
    intro h
    exact kept (h.imp (by simp) (by simp))
  rw [if_neg fresh, if_pos twice, State.poisonLine_fresh (by rw [hb]; exact fun h => kept (.inl h))]
  exact ⟨_, rfl, by rw [hb], (State.sq_of_offNotes offs : v.sq = s.sq), bit⟩

/-- A read that is granted: what its checks find decides its answer. -/
theorem execHbmReadComplete_granted (ready : s.hbmWaits a = false) (may : hbmProtected a = false ∨ mayProtected use = true)
    (granted : (s.useCheck .read a use).1 = true) :
    let k := (s.holder a).stack
    let e := Instr.hbmReadComplete a use bank row found twins victim
    let u := if hbmProtected a then (s.crossHbm a).macLookup a victim else s.crossHbm a
    let lost := a.val / 64 ∈ s.hb.poison ∨ s.keysOf a = []
    (twins = 0 → lost → exec e s = (u.answered none).integrityError a use) ∧
      (twins = 0 → ¬ lost → found = .clean ∨ (found = .macFail ∧ hbmProtected a = false) → exec e s = .next (u.answered (some (u.readLine (a.val / 64))))) ∧
      (twins = 0 → ¬ lost → found = .corrected → ∃ t, exec e s = .next t ∧ t.get (R.HBM_LAST_ERR_TYPE k) = 0 ∧
        t.get (R.HBM_CE_CNT k) = satAdd (R.HBM_CE_CNT k).width (s.get (R.HBM_CE_CNT k)) 1 % 2 ^ (R.HBM_CE_CNT k).width ∧
        t.hb = { u.hb with rowErrors := t.hb.rowErrors, rowsMet := t.hb.rowsMet, answer := some (t.readLine (a.val / 64)) } ∧ t.sq = s.sq) ∧
      (twins = 0 → ¬ lost → found = .uncorrectable → ∃ v : State, exec e s = v.integrityError a use ∧ v.hb.poison = s.hb.poison ++ [a.val / 64] ∧
        v.hb.answer = none ∧ v.hb.mem = s.hb.mem ∧ v.get (R.HBM_LAST_ERR_TYPE k) = 1 ∧ v.bit (R.BLK_INT_RAW (pgHBM k)) 0 = true ∧
        v.bit (R.BLK_INT_RAW (pgHBM k)) 4 = true ∧ v.sq = s.sq) ∧
      (twins = 0 → ¬ lost → found = .macFail → hbmProtected a = true → ∃ v : State, exec e s = v.integrityError a use ∧ v.hb = { u.hb with answer := none } ∧
        v.get (R.HBM_LAST_ERR_TYPE k) = 2 ∧ v.bit (R.BLK_INT_RAW (pgHBM k)) 1 = true ∧ v.sq = s.sq) ∧
      (2 ≤ twins → ¬ lost → ∃ v : State, exec e s = v.integrityError a use ∧ v.hb.poison = s.hb.poison ++ [a.val / 64] ∧ v.hb.mem = s.hb.mem ∧
        v.hb.answer = none ∧
        v.bit (R.BLK_INT_RAW (pgHBM k)) 2 = true ∧ v.sq = s.sq) := by
  intro k e u lost
  have run := execHbmReadComplete_eq (bank := bank) (row := row) (twins := twins) (victim := victim) (found := found) ready may granted
  obtain ⟨hb, sq, count⟩ := s.looked_spec a victim
  have holder := s.looked_holder a victim a
  have same : u = s.looked a victim := rfl
  clear_value u
  subst same
  generalize s.looked a victim = u at *
  have poison : u.hb.poison = s.hb.poison := by rw [hb]
  have keys : u.keysOf a = s.keysOf a := by rw [State.keysOf, holder, hb]; rfl
  have lostIn : lost ↔ (a.val / 64 ∈ u.hb.poison ∨ u.keysOf a = []) := by rw [poison, keys]
  refine ⟨fun none gone => ?_, fun none kept clean => ?_, fun none kept corrected => ?_, fun none kept bad => ?_, fun none kept mac prot => ?_, fun twice kept => ?_⟩
  · subst none
    rw [State.checkLine_lost (lostIn.1 gone)] at run
    dsimp only at run
    rw [if_pos rfl] at run
    exact run
  · subst none
    rw [State.checkLine_found (fun h => kept (lostIn.2 h))] at run
    rcases clean with rfl | ⟨rfl, open_⟩
    · dsimp only at run
      rw [if_neg (by decide)] at run
      exact run
    · dsimp only at run
      rw [if_neg (c := hbmProtected a = true) (by simp [open_])] at run
      dsimp only at run
      rw [if_neg (by decide)] at run
      exact run
  · subst none corrected
    rw [State.checkLine_found (fun h => kept (lostIn.2 h))] at run
    dsimp only at run
    rw [if_neg (by decide)] at run
    obtain ⟨type, cnt, errors, contexts⟩ := u.correctedError_spec a bank row
    rw [holder] at type cnt
    rw [count] at cnt
    generalize u.correctedError a bank row = v at *
    refine ⟨_, run, type, cnt, ?_, contexts.trans sq⟩
    show ({ v.hb with answer := some (v.readLine (a.val / 64)) } : Hbm) = { u.hb with
      rowErrors := v.hb.rowErrors, rowsMet := v.hb.rowsMet, answer := some ((v.answered (some (v.readLine (a.val / 64)))).readLine (a.val / 64)) }
    rw [v.answered_readLine, errors]
  · subst none bad
    rw [State.checkLine_found (fun h => kept (lostIn.2 h))] at run
    dsimp only at run
    rw [if_pos rfl] at run
    obtain ⟨errors, contexts, type, zero, four⟩ := u.uncorrectableError_spec a bank row
    rw [holder] at type zero four
    have fresh : u.poisonLine (a.val / 64) = { u with hb := { u.hb with poison := u.hb.poison ++ [a.val / 64] } } :=
      State.poisonLine_fresh fun h => kept (lostIn.2 (.inl h))
    rw [fresh] at errors
    generalize u.uncorrectableError a bank row = v at *
    refine ⟨_, run, ?_, rfl, ?_, type, zero, four, contexts.trans sq⟩
    · show v.hb.poison = _
      rw [errors, ← poison]
    · show v.hb.mem = _
      rw [errors, hb]
  · subst none mac
    rw [State.checkLine_found (fun h => kept (lostIn.2 h))] at run
    dsimp only at run
    rw [if_pos prot] at run
    dsimp only at run
    rw [if_pos rfl] at run
    obtain ⟨errors, contexts, type, one⟩ := u.macFailure_spec a
    rw [holder] at type one
    generalize u.macFailure a = v at *
    refine ⟨_, run, ?_, type, one, contexts.trans sq⟩
    show ({ v.hb with answer := Option.none } : Hbm) = _
    rw [errors]
  · obtain ⟨v, checked, errors, contexts, two⟩ := State.checkLine_twins (bank := bank) (row := row) (found := found) (fun h => kept (lostIn.2 h)) twice
    rw [holder] at two
    rw [checked] at run
    dsimp only at run
    rw [if_pos rfl] at run
    refine ⟨_, run, ?_, ?_, rfl, two, contexts.trans sq⟩
    · show v.hb.poison = _
      rw [errors, ← poison]
    · show v.hb.mem = _
      rw [errors, hb]

end

end Sys2Proof.Machine
end

section
/-! SUPPORT. HBM writes, integrity errors, scrubbing and the copy of a repair; O37 (R241-R249). -/
namespace Sys2Proof.Machine

variable {s : State}

/-! ## Writes (R241, R242, R246) -/

theorem zipIdx_eq_range (bs : List Byte) : bs.zipIdx = (List.range bs.length).map fun i => (bs.getD i 0, i) := by
  refine List.ext_getElem (by simp) fun i h _ => ?_
  have low : i < bs.length := by simpa using h
  simp [List.getD, List.getElem?_eq_getElem low]

/-- A line that a byte of an access lies in is one of the lines it touches. -/
theorem mem_linesOf {a n i : Nat} (h : i < n) : (a + i) / 64 ∈ linesOf a n := by
  unfold linesOf
  rw [if_neg (by omega), List.mem_map]
  refine ⟨(a + i) / 64 - a / 64, List.mem_range.2 ?_, ?_⟩
  · have : (a + i) / 64 ≤ (a + n - 1) / 64 := Nat.div_le_div_right (by omega)
    omega
  · have : a / 64 ≤ (a + i) / 64 := Nat.div_le_div_right (by omega)
    omega

/-- A write that no poisoned line refuses stores its bytes and no others. -/
theorem State.memByte_writeMem {a : Nat} {bs : List Byte} (clear : s.writeFails a bs.length = false) (b : Nat) :
    (s.writeMem a bs).memByte b = if a ≤ b ∧ b < a + bs.length then bs.getD (b - a) 0 else s.memByte b := by
  refine Eq.trans ?_ (Sparse.get_writes bs s.hb.mem a bs.length b)
  unfold State.writeMem State.memByte
  dsimp only
  rw [zipIdx_eq_range, List.foldl_map]
  refine congrArg (Sparse.get 0 · b) (List.foldl_ext _ _ _ fun m i hi => if_neg fun blocked => ?_)
  have touched := mem_linesOf (a := a) (List.mem_range.1 hi)
  simp only [Bool.and_eq_true, List.contains_iff_mem, Bool.not_eq_true', decide_eq_false_iff_not] at blocked
  obtain ⟨poisoned, part⟩ := blocked
  have fails : s.writeFails a bs.length = true := by
    unfold State.writeFails
    refine List.any_eq_true.2 ⟨_, touched, ?_⟩
    simp only [Bool.and_eq_true, List.contains_iff_mem, Bool.not_eq_true', Bool.and_eq_false_iff, decide_eq_false_iff_not]
    exact ⟨poisoned, not_and_or.1 part⟩
  rw [clear] at fails
  exact nomatch fails

/-- A write heals the poisoned lines it covers whole. -/
theorem State.mem_poison_written (s : State) (a : Nat) (bs : List Byte) (l : Nat) :
    (l ∈ (s.writeMem a bs).hb.poison ↔ l ∈ s.hb.poison ∧ ¬ (a ≤ 64 * l ∧ 64 * l + 64 ≤ a + bs.length)) ∧
    (l ∈ (s.wholeLines a bs.length).hb.poison ↔ l ∈ s.hb.poison ∧ ¬ (a ≤ 64 * l ∧ 64 * l + 64 ≤ a + bs.length)) := by
  constructor <;>
    exact List.mem_filter.trans (and_congr Iff.rfl (by simp; omega))

section
variable {a : Fin 0xBA0000000} {use : HbmUse} {data : List Byte} {twins : Nat}

theorem execHbmWrite_eq (ready : s.hbmWaits a = false) (may : hbmProtected a = false ∨ mayProtected use = true)
    (granted : (s.useCheck .write a use).1 = true) : exec (.hbmWrite a use data twins) s =
      (let v := (List.range (min twins 2)).foldl (fun s _ => s.xtsMismatch a) (s.crossHbm a)
      let bs := data.take (64 - a % 64)
      if 2 ≤ twins then (v.poisonLine (a.val / 64)).integrityError a use
      else if v.writeFails a bs.length then v.integrityError a use
      else if hbmRegion a = .work ∨ hbmRegion a = .firmware then .next (v.writeMem a bs)
      else .next (v.wholeLines a bs.length)) := by
  show execHbmWrite a use data twins s = _
  unfold execHbmWrite
  dsimp only
  rw [if_neg (by rcases may with h | h <;> simp [ready, h]), if_neg (by simp [granted])]

/-- A write that is granted stores its bytes, or gives the integrity error (R246). -/
theorem execHbmWrite_granted (ready : s.hbmWaits a = false) (may : hbmProtected a = false ∨ mayProtected use = true)
    (granted : (s.useCheck .write a use).1 = true) :
    let bs := data.take (64 - a % 64)
    let e := Instr.hbmWrite a use data twins
    let u := s.crossHbm a
    (twins = 0 → s.writeFails a bs.length = true → exec e s = u.integrityError a use) ∧
      (twins = 0 → s.writeFails a bs.length = false → ∃ t, exec e s = .next t ∧
        t = { u with hb := { s.hb with mem := t.hb.mem, poison := t.hb.poison } } ∧
        (∀ b, t.memByte b = if (hbmRegion a = .work ∨ hbmRegion a = .firmware) ∧ a.val ≤ b ∧ b < a.val + bs.length then data.getD (b - a.val) 0
          else s.memByte b) ∧
        (∀ l, l ∈ t.hb.poison ↔ l ∈ s.hb.poison ∧ ¬ (a.val ≤ 64 * l ∧ 64 * l + 64 ≤ a.val + bs.length))) ∧
      (2 ≤ twins → ∃ v : State, exec e s = v.integrityError a use ∧ a.val / 64 ∈ v.hb.poison ∧ v.hb.mem = s.hb.mem ∧
        v.bit (R.BLK_INT_RAW (pgHBM (s.holder a).stack)) 2 = true ∧ v.sq = s.sq) := by
  intro bs e u
  have run := execHbmWrite_eq (data := data) (twins := twins) ready may granted
  refine ⟨fun none fails => ?_, fun none clear => ?_, fun twice => ?_⟩
  · subst none
    refine run.trans ?_
    dsimp only
    rw [if_neg (by decide)]
    exact if_pos fails
  · subst none
    have taken : ∀ i < bs.length, bs.getD i 0 = data.getD i 0 := fun i hi => by
      have low : i < 64 - a % 64 := Nat.lt_of_lt_of_le hi (List.length_take_le _ _)
      simp only [List.getD, bs, List.getElem?_take, if_pos low]
    have written : exec e s = if hbmRegion a = .work ∨ hbmRegion a = .firmware then .next (u.writeMem a bs) else .next (u.wholeLines a bs.length) := by
      refine run.trans ?_
      dsimp only
      rw [if_neg (by decide)]
      exact if_neg (Bool.eq_false_iff.1 (show u.writeFails a bs.length = false from clear))
    have clear : u.writeFails a bs.length = false := clear
    split at written
    · next stored =>
      refine ⟨_, written, rfl, fun b => ?_, fun l => (u.mem_poison_written a bs l).1⟩
      rw [State.memByte_writeMem clear]
      by_cases in_ : a.val ≤ b ∧ b < a.val + bs.length
      · rw [if_pos in_, if_pos ⟨stored, in_⟩, taken _ (by omega)]
      · rw [if_neg in_, if_neg fun h => in_ h.2]
        rfl
    · next kept =>
      refine ⟨_, written, rfl, fun b => ?_, fun l => (u.mem_poison_written a bs l).2⟩
      rw [if_neg fun h => kept h.1]
      rfl
  · obtain ⟨offs, bit⟩ := u.xtsMismatches_spec a twice
    dsimp only at run
    rw [if_pos twice] at run
    have place : u.holder a = s.holder a := rfl
    rw [place] at bit
    have hb : u.hb = s.hb := rfl
    have sq : u.sq = s.sq := rfl
    generalize (List.range (min twins 2)).foldl (fun s _ => s.xtsMismatch a) (s.crossHbm a) = v at *
    obtain ⟨there, rest⟩ := v.poisonLine_spec (a.val / 64)
    refine ⟨_, run, there, ?_, ?_, ?_⟩
    · rw [rest]
      show v.hb.mem = _
      rw [State.hb_of_offNotes offs, hb]
    · rw [rest]
      exact bit
    · rw [rest]
      exact (State.sq_of_offNotes offs : v.sq = u.sq).trans sq

end

/-! ## What an integrity error does (Table 9.2) -/

theorem State.integrityError_spec (a : Nat) (c : Ctx) (s : State) : let k := ctxKey c
    s.integrityError a (.hqe c) = .next (if (s.ctx k).cmd.isSome then s.endCommand k stAborted 2 else s) ∧
    s.integrityError a (.program c) = .next (if (s.ctx k).cmd.isSome ∧ (s.ctx k).wait = .cacheFill
      then (s.raise (pgSEQ c.cc) 1).endCommand k stAborted 4 else s) ∧
    (∀ d rest, s.granted = some (d, rest) → s.integrityError a .hqeStaged = .next ((s.takeStaged rest).endStaged d stAborted 2)) ∧
    (∀ line, s.tableLine (a / 128) = some line → let key := (s.line line).extOf.getD line
      let f := s.tableField (s.ctx k) key
      let v := s.lineFailed c.cc key
      ((s.ctx k).usesTable = true → s.integrityError a (.geode c) =
        .next (if (s.ctx k).image.code = [] then v.endAt k stKeyNotFound f else v.failAt k 4 stKeyNotFound f)) ∧
      ((s.ctx k).usesTable = false → s.integrityError a (.geode c) = .next s)) ∧
    s.integrityError a .tableCopy = .next ((s.loadTables s.userRegion).wholeLines (a / 64 * 64) 64) ∧
    s.integrityError a .partTable = .next (s.wholeLines (a / 64 * 64) 64) ∧
    (∀ use, use = .scrubber ∨ use = .sweeper → s.integrityError a use = .next (s.poisonLine (a / 64))) ∧
    (∀ use, use = .core ∨ use = .replication ∨ use = .cardDma → s.integrityError a use = .next s) := by
  intro k
  refine ⟨?_, ?_, fun d rest granted => ?_, fun line found => ?_, rfl, rfl, ?_, ?_⟩
  · exact (apply_ite Host.Outcome.next _ _ _).symm
  · exact (apply_ite Host.Outcome.next _ _ _).symm
  · unfold State.integrityError
    dsimp only
    rw [granted]
  · unfold State.integrityError
    dsimp only
    rw [found]
    dsimp only
    refine ⟨fun uses => ?_, fun free => if_neg (by simp [k] at free ⊢; exact free)⟩
    rw [if_pos uses]
    by_cases shipped : (s.ctx k).image.code = []
    · rw [if_pos shipped, if_pos (by simpa using shipped)]
    · rw [if_neg shipped, if_neg (by simpa using shipped)]
  · rintro use (rfl | rfl) <;> rfl
  · rintro use (rfl | rfl | rfl) <;> rfl

/-! ## Scrubbing (R247) -/

/-- A read the scrubber's MPU denies is noted in its own page. -/
theorem State.violation_scrub (s : State) (a tag : Nat) (k : Fin 2) : (s.violation 12 .read a tag).hb = s.hb ∧
    (s.violation 12 .read a tag).get (R.HBM_SCRUB_LINE k) = s.get (R.HBM_SCRUB_LINE k) := by
  refine ⟨s.violation_hb 12 a tag .read, ?_⟩
  have other : ∀ f : Field, f.addr / 0x1000 = 0x5C → f.lsb < 32 → f.key ≠ (R.HBM_SCRUB_LINE k).key := fun f page low => by
    simp only [Field.key, R.HBM_SCRUB_LINE]; omega
  unfold State.violation
  dsimp only
  rw [State.raise_get_ne _ _ _ _ (other _ (by decide) (by decide)), State.get_set_ne _ _ _ _ (other _ (by decide) (by decide)),
    State.get_set_ne _ _ _ _ (other _ (by decide) (by decide)), State.get_set_ne _ _ _ _ (other _ (by decide) (by decide)),
    State.get_countSat_ne _ _ _ _ (other _ (by decide) (by decide))]

theorem State.useCheck_scrub (s : State) (a : Nat) (k : Fin 2) : (s.useCheck .read a .scrubber).2.hb = s.hb ∧
    (s.useCheck .read a .scrubber).2.get (R.HBM_SCRUB_LINE k) = s.get (R.HBM_SCRUB_LINE k) := by
  refine foldl_keeps (fun t : State => t.hb = s.hb ∧ t.get (R.HBM_SCRUB_LINE k) = s.get (R.HBM_SCRUB_LINE k)) _ (fun t p h => ?_) (pieces a 1) s ⟨rfl, rfl⟩
  split
  · exact h
  · obtain ⟨hb, line⟩ := t.violation_scrub p.1 0 k
    exact ⟨hb.trans h.1, line.trans h.2⟩

/-- The scrubber moved on a line, or to the first at the end of a pass. -/
def State.scrubbed (s : State) (k line : Nat) : State :=
  if stackLines ≤ line + 1 then ((s.set (R.HBM_SCRUB_LINE k) 0).count (R.HBM_SCRUB_PASS k)).raise (pgHBM k) 3 else s.set (R.HBM_SCRUB_LINE k) (line + 1)

theorem State.scrubbed_spec (s : State) (k line : Nat) : (s.scrubbed k line).hb = s.hb ∧ (s.scrubbed k line).arbs = s.arbs ∧
    (s.scrubbed k line).get (R.HBM_SCRUB_LINE k) = if stackLines ≤ line + 1 then 0 else line + 1 := by
  unfold State.scrubbed
  split
  · refine ⟨State.raise_hb _ _ _, by rw [(State.raise_onlyFields _ _ _).2.2]; rfl, ?_⟩
    rw [State.raise_get_ne _ _ _ _ (by simp only [Field.key, R.BLK_INT_RAW, R.HBM_SCRUB_LINE, pgHBM]; omega),
      State.get_count_ne _ _ _ _ (by simp only [Field.key, R.HBM_SCRUB_PASS, R.HBM_SCRUB_LINE]; omega)]
    exact State.get_set_same _ _ _
  · next more =>
    refine ⟨rfl, rfl, State.get_set_fits _ (Nat.lt_trans (Nat.lt_of_not_le more) ?_)⟩
    show stackLines < 2 ^ 29
    decide

theorem execScrubStep_spec (k : Fin 2) (bank row : Nat) (s : State) (on : s.get (R.HBM_SCRUB_EN k) ≠ 0) (phy : s.get (R.HBM_PHY_READY k) ≠ 0)
    (prot : s.get (R.HBM_PROT_READY k) ≠ 0) (work : s.get (R.HBM_WORK_READY k) ≠ 0) :
    let pc := (s.holder (stackAddr k (s.get (R.HBM_SCRUB_LINE k)))).channel
    (s.channelFrozen pc = false → s.grantOf (256 + pc) ≠ some 7 → exec (.scrubStep k bank row .clean 0) s = .next s) ∧
    (s.channelFrozen pc = true ∨ s.grantOf (256 + pc) = some 7 →
      s.hb.poison = [] → Sparse.get [] s.hb.keys 0 ≠ [] → Sparse.get [] s.hb.keys 1 ≠ [] →
      ∃ t, exec (.scrubStep k bank row .clean 0) s = .next t ∧ t.hb = s.hb ∧ (s.channelFrozen pc = false → (t.arb (256 + pc)).spent = true) ∧
        t.get (R.HBM_SCRUB_LINE k) = (if stackLines ≤ s.get (R.HBM_SCRUB_LINE k) + 1 then 0 else s.get (R.HBM_SCRUB_LINE k) + 1)) := by
  intro pc
  have enabled : ¬ (s.get (R.HBM_SCRUB_EN k) = 0 ∨ s.get (R.HBM_PHY_READY k) = 0 ∨ s.get (R.HBM_PROT_READY k) = 0 ∨ s.get (R.HBM_WORK_READY k) = 0) := by
    simp [on, phy, prot, work]
  obtain ⟨a, place⟩ : ∃ a, a = stackAddr k (s.get (R.HBM_SCRUB_LINE k)) := ⟨_, rfl⟩
  have unit : pc = (s.holder a).channel := by rw [place]
  clear_value pc
  constructor
  · intro free other
    show execScrubStep k bank row .clean 0 s = _
    unfold execScrubStep
    rw [if_neg enabled]
    dsimp only
    rw [← place, ← unit]
    exact if_pos (by simp [free, other])
  · intro may clean zero one
    obtain ⟨v, read⟩ : ∃ v, v = ((s.useCheck .read a .scrubber).2.spend (256 + pc)).crossHbm a := ⟨_, rfl⟩
    obtain ⟨hb, line⟩ := s.useCheck_scrub a k
    have vHb : v.hb = s.hb := by rw [read]; exact hb
    have vLine : v.get (R.HBM_SCRUB_LINE k) = s.get (R.HBM_SCRUB_LINE k) := by rw [read]; exact line
    have spent : (v.arb (256 + pc)).spent = true := by
      rw [read]
      show (((s.useCheck .read a .scrubber).2.updArb (256 + pc) fun x => { x with spent := true }).arb (256 + pc)).spent = true
      rw [State.arb_updArb]
    have kept : ¬ (a / 64 ∈ v.hb.poison ∨ v.keysOf a = []) := by
      rw [vHb, clean, State.keysOf, vHb]
      have low := v.holder_stack_lt a
      generalize (v.holder a).stack = j at *
      match j, low with
      | 0, _ => simp [zero]
      | 1, _ => simp [one]
    have checked : v.checkLine a bank row .clean 0 = (v, false) := State.checkLine_found kept
    have run : exec (.scrubStep k bank row .clean 0) s =
        .next ((if s.channelFrozen pc then s else v).scrubbed k (s.get (R.HBM_SCRUB_LINE k))) := by
      show execScrubStep k bank row .clean 0 s = _
      unfold execScrubStep
      rw [if_neg enabled]
      dsimp only
      rw [← place, ← unit, if_neg (by rcases may with h | h <;> simp [h]), ← read]
      have zeroTwins : (if hbmProtected a then 0 else 0) = 0 := ite_self 0
      rw [zeroTwins, checked]
      dsimp only
      rw [if_neg (c := false = true) (by decide), ite_self]
      exact (apply_ite Host.Outcome.next _ _ _).symm
    obtain ⟨tHb, tArbs, tLine⟩ := (if s.channelFrozen pc then s else v).scrubbed_spec k (s.get (R.HBM_SCRUB_LINE k))
    refine ⟨_, run, tHb.trans ?_, fun free => ?_, tLine⟩
    · split
      · rfl
      · exact vHb
    · rw [State.arb, tArbs, free]
      exact spent

/-! ## A copy out to the reserve (R246, R249) -/

/-- The channel's accesses go to the reserve, and PROGRAM starts. -/
def State.migrated (s : State) (k c : Nat) : State :=
  { s with hb := { s.hb with redirect := c :: s.hb.redirect.filter (· ≠ c) } }.set (R.HBM_PPR_STATE k) 2

theorem execMigrateOut_spec (k : Fin 2) (c : Nat) (s : State) (out : s.repairAt k 1 = some c) :
    (∃ t, exec (.migrateOut k none) s = .next t ∧ t.get (R.HBM_PPR_STATE k) = 2 ∧ c ∈ t.hb.redirect ∧ t.hb.mem = s.hb.mem) ∧
    (∀ l, hbmChannel (64 * l) = c → ∃ t, exec (.migrateOut k (some l)) s = .next t ∧ t.get (R.HBM_PPR_STATE k) = 2 ∧ c ∈ t.hb.redirect ∧
      t.hb.mem = s.hb.mem ∧ l ∈ t.hb.poison ∧ t.bit (R.BLK_INT_RAW (pgHBM (s.holder (64 * l)).stack)) 0 = true ∧
      t.bit (R.BLK_INT_RAW (pgHBM (s.holder (64 * l)).stack)) 4 = true) := by
  have held : ∀ v : State, (v.migrated k c).get (R.HBM_PPR_STATE k) = 2 := fun v => State.get_set_same _ _ _
  have redirected : ∀ v : State, c ∈ (v.migrated k c).hb.redirect := fun v => List.mem_cons_self
  refine ⟨⟨s.migrated k c, ?_, held s, redirected s, rfl⟩, fun l channel => ?_⟩
  · show execMigrateOut k none s = _
    unfold execMigrateOut
    rw [out]
    rfl
  · obtain ⟨hb, -, -, zero, four⟩ := s.uncorrectableError_spec (64 * l) (Config.hbmBank l).toNat (Config.hbmRow l).toNat
    have run : exec (.migrateOut k (some l)) s =
        .next ((s.uncorrectableError (64 * l) (Config.hbmBank l).toNat (Config.hbmRow l).toNat).migrated k c) := by
      show execMigrateOut k (some l) s = _
      unfold execMigrateOut
      rw [out]
      dsimp only
      rw [Option.filter_some_pos (by simp [channel])]
      rfl
    generalize s.uncorrectableError (64 * l) (Config.hbmBank l).toNat (Config.hbmRow l).toNat = v at *
    have line : 64 * l / 64 = l := by omega
    rw [line] at hb
    obtain ⟨there, rest⟩ := s.poisonLine_spec l
    have still : ∀ p j, v.bit (R.BLK_INT_RAW p) j = true → (v.migrated k c).bit (R.BLK_INT_RAW p) j = true := fun p j h =>
      State.set_still (by simp only [Field.key, R.HBM_PPR_STATE, R.BLK_INT_RAW]; omega) h
    refine ⟨_, run, held v, redirected v, ?_, ?_, still _ _ zero, still _ _ four⟩
    · show v.hb.mem = _
      rw [hb, rest]
    · show l ∈ v.hb.poison
      rw [hb]; exact there

/-- Settles O37: the stacks come up, every access is checked before it is served, the scrubber moves on and a repair runs through its states. -/
theorem hbmControllersCheckAndRepair : Obligations.HbmControllersCheckAndRepair := by
  unfold Obligations.HbmControllersCheckAndRepair
  refine ⟨fun k s => execHbmInit_spec, fun k s => execHbmKeyDraw_spec, fun k s => execProtReady_spec, fun k s => execWorkReady_spec, ?_,
    State.integrityError_spec, ?_, execScrubStep_spec, execHbmTempHigh_spec, fun k target s => execPprGo_spec, ?_, execMigrateOut_spec, ?_, ?_, ?_,
    fun k c s => execMigrateBack_spec⟩
  case refine_1 =>
    intro a use bank row found twins victim s k e u lost
    refine ⟨fun waits => if_pos waits, fun ready prot mayNot => ?_, fun ready may denied => ?_, fun ready may granted => execHbmReadComplete_granted ready may granted⟩
    · show execHbmReadComplete a use bank row found twins victim s = _
      unfold execHbmReadComplete
      rw [if_neg (by simp [ready]), if_pos (by simp [prot, mayNot])]
    · show execHbmReadComplete a use bank row found twins victim s = _
      unfold execHbmReadComplete
      rw [if_neg (by simp [ready]), if_neg (by rcases may with h | h <;> simp [h])]
      exact if_pos (by simp [denied])
  case refine_2 =>
    intro a use data twins s bs e u
    refine ⟨fun waits => if_pos ?_, fun ready may denied => ?_, fun ready may granted => execHbmWrite_granted ready may granted⟩
    · rcases waits with h | ⟨h, k⟩
      · exact .inl h
      · exact .inr ⟨h, by simp [k]⟩
    · show execHbmWrite a use data twins s = _
      unfold execHbmWrite
      dsimp only
      rw [if_neg (by rcases may with h | h <;> simp [ready, h])]
      exact if_pos (by simp [denied])
  case refine_3 =>
    intro k poisoned s none
    show execMigrateOut k poisoned s = _
    unfold execMigrateOut
    rw [none]
  case refine_4 =>
    intro k ok s at_
    refine ⟨_, if_neg (by simp [at_]), ?_⟩
    exact s.pprStep_spec k 3 ok (by decide)
  case refine_5 =>
    intro k ok s at_
    refine ⟨_, if_neg (by simp [at_]), ?_⟩
    exact s.pprStep_spec k 4 ok (by decide)
  case refine_6 =>
    intro k s none
    show execMigrateBack k s = _
    unfold execMigrateBack
    rw [none]

end Sys2Proof.Machine
end

section
/-! SUPPORT. What messages and ended commands leave of a partition's state, and partitions frozen, thawed and drained (R54, R101, R259-R261). -/
namespace Sys2Proof.Machine

variable {s t u : State}

/-! ## Messages of a link -/

theorem State.sendFlit_only (s : State) (k type vc : Nat) (last : Bool) (p : List Byte) :
    s.sendFlit k type vc last p = { s with regs := (s.sendFlit k type vc last p).regs, ln := (s.sendFlit k type vc last p).ln, out := (s.sendFlit k type vc last p).out } := by
  unfold State.sendFlit
  dsimp only
  split <;> rfl

theorem State.sendOn_only (s : State) (k : Nat) (o : Output) :
    s.sendOn k o = { s with regs := (s.sendOn k o).regs, ln := (s.sendOn k o).ln, pw := (s.sendOn k o).pw, out := (s.sendOn k o).out } := by
  unfold State.sendOn
  dsimp only
  split
  · have sent : ∀ (f : List Byte × Nat → Bool) (xs : List (List Byte × Nat)) (v : State),
        xs.foldl (fun s p => s.sendFlit k (messageKind o).1 (messageKind o).2 (f p) p.1) v =
          { v with regs := (xs.foldl (fun s p => s.sendFlit k (messageKind o).1 (messageKind o).2 (f p) p.1) v).regs,
                   ln := (xs.foldl (fun s p => s.sendFlit k (messageKind o).1 (messageKind o).2 (f p) p.1) v).ln,
                   out := (xs.foldl (fun s p => s.sendFlit k (messageKind o).1 (messageKind o).2 (f p) p.1) v).out } := fun f xs v =>
      foldl_keeps (fun u : State => u = { v with regs := u.regs, ln := u.ln, out := u.out }) _ (fun u p hu => by
        have one := u.sendFlit_only k (messageKind o).1 (messageKind o).2 (f p) p.1
        generalize u.sendFlit k (messageKind o).1 (messageKind o).2 (f p) p.1 = w at *
        rw [one, hu]) xs v rfl
    have all := fun f xs => sent f xs (s.cross 28)
    generalize messageKind o = kind at *
    have one := all (fun p => p.2 + 1 == (if (chunks 242 (messageBytes o k (s.link k).txCount)).isEmpty then [[]] else chunks 242 (messageBytes o k (s.link k).txCount)).length)
      (if (chunks 242 (messageBytes o k (s.link k).txCount)).isEmpty then [[]] else chunks 242 (messageBytes o k (s.link k).txCount)).zipIdx
    generalize List.foldl _ (s.cross 28) _ = w at *
    rw [one]
    rfl
  · rfl

theorem State.tellOn_only (s : State) (l : Option Nat) (o : Nat → Output) :
    s.tellOn l o = { s with regs := (s.tellOn l o).regs, ln := (s.tellOn l o).ln, pw := (s.tellOn l o).pw, out := (s.tellOn l o).out } := by
  unfold State.tellOn
  split
  · exact State.sendOn_only ..
  · rfl

/-- The registers in which the gate shows a partition command. -/
def commandFields : List Field := [R.GATE_CMD_RESULT, R.GATE_CMD_BUSY, R.GATE_PART_SEL]

/-- A delta to the standby leaves the partitions, the queue pairs, the contexts and the gate. -/
theorem State.tellStandby_spec (s : State) (d : Delta) : (s.tellStandby d).parts = s.parts ∧ (s.tellStandby d).hq = s.hq ∧ (s.tellStandby d).sq = s.sq ∧
    (s.tellStandby d).gt = s.gt ∧ spares commandFields s (s.tellStandby d) := by
  have told : ∀ (v : State) (l : Option Nat) (o : Nat → Output), spares commandFields v (v.tellOn l o) := fun v l o => by
    unfold State.tellOn
    split
    · refine .of_keeps .refl (State.sendOn_keeps _ _ _) fun f hf g hg => ?_
      rw [List.mem_singleton.mp hf]
      simp only [commandFields, List.mem_cons, List.not_mem_nil, or_false] at hg
      rcases hg with rfl | rfl | rfl <;> simp only [Field.key, R.FVL_TX_FLITS, R.GATE_CMD_RESULT, R.GATE_CMD_BUSY, R.GATE_PART_SEL] <;> omega
    · exact .refl
  unfold State.tellStandby State.sendDelta State.sendDeltaOn
  split
  · dsimp only
    have numbered : spares commandFields s (((s.set R.PAIR_DSEQ_LO (s.get R.PAIR_DSEQ_LO + 2 ^ 32 * s.get R.PAIR_DSEQ_HI + 1)).set R.PAIR_DSEQ_HI
        ((s.get R.PAIR_DSEQ_LO + 2 ^ 32 * s.get R.PAIR_DSEQ_HI + 1) / 2 ^ 32)).countSat R.PAIR_LAG) := .set (.set (.set .refl (by decide)) (by decide)) (by decide)
    have rest : ((s.set R.PAIR_DSEQ_LO (s.get R.PAIR_DSEQ_LO + 2 ^ 32 * s.get R.PAIR_DSEQ_HI + 1)).set R.PAIR_DSEQ_HI
        ((s.get R.PAIR_DSEQ_LO + 2 ^ 32 * s.get R.PAIR_DSEQ_HI + 1) / 2 ^ 32)).countSat R.PAIR_LAG =
        { s with regs := (((s.set R.PAIR_DSEQ_LO (s.get R.PAIR_DSEQ_LO + 2 ^ 32 * s.get R.PAIR_DSEQ_HI + 1)).set R.PAIR_DSEQ_HI
        ((s.get R.PAIR_DSEQ_LO + 2 ^ 32 * s.get R.PAIR_DSEQ_HI + 1) / 2 ^ 32)).countSat R.PAIR_LAG).regs } := rfl
    generalize ((s.set R.PAIR_DSEQ_LO (s.get R.PAIR_DSEQ_LO + 2 ^ 32 * s.get R.PAIR_DSEQ_HI + 1)).set R.PAIR_DSEQ_HI
      ((s.get R.PAIR_DSEQ_LO + 2 ^ 32 * s.get R.PAIR_DSEQ_HI + 1) / 2 ^ 32)).countSat R.PAIR_LAG = v at *
    obtain ⟨w, waits⟩ : ∃ w : State, w = { v with pr := { v.pr with unacked := v.pr.unacked ++ [(s.get R.PAIR_DSEQ_LO + 2 ^ 32 * s.get R.PAIR_DSEQ_HI + 1, v.quartz)] } } := ⟨_, rfl⟩
    rw [← waits]
    have regs : spares commandFields s w := by rw [waits]; exact numbered.update rfl
    have one := fun l o => w.tellOn_only l o
    refine ⟨?_, ?_, ?_, ?_, regs.trans (told _ _ _)⟩ <;> rw [one, waits, rest]
  · exact ⟨rfl, rfl, rfl, rfl, .refl⟩

/-! ## A partition's state while commands end -/

/-- What the units let go of, the output area's zeroing and the sequencer's counts leave the partitions alone. -/
theorem State.settlePk_parts (s : State) (p : Nat) : (s.settlePk p).parts = s.parts := by
  have taken : ∀ v : State, v.settleTake.parts = v.parts := fun v => by rw [v.settleTake_spec]
  have curves : ∀ v : State, v.settleCurve.parts = v.parts := fun v => by
    unfold State.settleCurve State.showCurves
    dsimp only
    split <;> rfl
  have clusters : ∀ v : State, (v.settlePkCluster p).parts = v.parts := fun v => by
    unfold State.settlePkCluster
    dsimp only
    rw [taken, State.setBit_parts]
    split
    · exact State.severity_parts _ _
    · rfl
  unfold State.settlePk State.settlePkFreeze
  dsimp only
  rw [curves, clusters]
  split
  · exact State.raise_parts _ _ _
  · rfl

theorem State.dropOps_parts (s : State) (k : Nat) : (s.dropOps k).parts = s.parts := by
  show (s.dropPk k).parts = s.parts
  unfold State.dropPk
  dsimp only
  refine foldl_keeps (fun u : State => u.parts = s.parts) _ (fun u p hu => ?_) _ _ rfl
  rw [State.settlePk_parts, State.countAborts, State.set_parts]
  exact hu

theorem State.zeroOutput_parts (s : State) (c : Cmd) (st : Nat) (wrote : Bool) : (s.zeroOutput c st wrote).parts = s.parts := by
  have written : ∀ m tag a bs, (s.dmaWrite m tag a bs).1.parts = s.parts := fun m tag a bs => by
    unfold State.dmaWrite
    refine foldl_keeps (fun r : State × Bool => r.1.parts = s.parts) _ (fun r p hr => ?_) _ _ rfl
    split
    · exact hr
    · exact (State.violation_onlyFields _ _ _ _ _).2.2.trans hr
  unfold State.zeroOutput
  split
  · rfl
  · split
    · split
      · exact written ..
      · rfl
    · split <;> rfl

theorem State.countEnding_parts (s : State) (k : Nat) (x : Context) (c : Cmd) (st det : Nat) : (s.countEnding k x c st det).parts = s.parts := by
  unfold State.countEnding
  dsimp only
  split
  · split
    · rw [State.raise_parts]
      dsimp only [State.countSat_parts, State.set_parts]
      split <;> rfl
    · split
      · dsimp only [State.countSat_parts, State.set_parts]
        split <;> rfl
      · dsimp only [State.set_parts]
        split <;> rfl
  · rfl

theorem State.seatMoved_parts (s : State) (n fuel : Nat) : (s.seatMoved n fuel).parts = s.parts := by
  induction fuel generalizing s with
  | zero => rfl
  | succ fuel ih =>
    unfold State.seatMoved
    split
    · rfl
    · dsimp only
      split
      · rfl
      · rw [ih]
        split
        · split <;> rfl
        · rfl

theorem State.settleStale_parts (s : State) : s.settleStale.parts = s.parts := by
  unfold State.settleStale State.showStale
  split
  · rfl
  · exact State.raise_parts _ _ _

/-- Partition `p` stands in `t` as in `s`: its state holds, and its events stay noted. -/
structure Stands (p : Nat) (s t : State) : Prop where
  pstate : (t.part p).pstate = (s.part p).pstate
  freezing : (t.part p).freezing = (s.part p).freezing
  events : ∀ i, bitOf (s.part p).pevt i = true → bitOf (t.part p).pevt i = true

namespace Stands
variable {p : Nat}

theorem refl : Stands p s s := ⟨rfl, rfl, fun _ h => h⟩

theorem trans (h : Stands p s t) (k : Stands p t u) : Stands p s u :=
  ⟨k.pstate.trans h.pstate, k.freezing.trans h.freezing, fun i hi => k.events i (h.events i hi)⟩

theorem of_parts (h : Stands p s t) (same : u.parts = t.parts) : Stands p s u := by
  have part : u.part p = t.part p := by rw [State.part, same, State.part]
  exact h.trans ⟨by rw [part], by rw [part], by rw [part]; exact fun _ h => h⟩

theorem ite {c : Prop} [Decidable c] (h : Stands p s t) (k : Stands p s u) : Stands p s (if c then t else u) := by split <;> assumption
theorem andIf {c : Prop} [Decidable c] (h : Stands p s t) (k : Stands p t u) : Stands p s (if c then u else t) := (h.trans k).ite h

theorem foldl {α : Type} {f : State → α → State} {xs : List α} (h : Stands p s t) (hf : ∀ v a, Stands p v (f v a)) : Stands p s (xs.foldl f t) :=
  foldl_keeps (Stands p s) f (fun v a hv => hv.trans (hf v a)) xs t h

/-- A change of a partition that leaves its state and keeps its events. -/
theorem updPart {q : Nat} {f : Part → Part} (h : Stands p s t) (pstate : ∀ x, (f x).pstate = x.pstate) (freezing : ∀ x, (f x).freezing = x.freezing)
    (events : ∀ x i, bitOf x.pevt i = true → bitOf (f x).pevt i = true) : Stands p s (t.updPart q f) := by
  refine h.trans ?_
  by_cases same : q = p
  · subst same
    refine ⟨?_, ?_, ?_⟩ <;> rw [State.part_updPart_same]
    · exact pstate _
    · exact freezing _
    · exact events _
  · refine ⟨?_, ?_, ?_⟩ <;> rw [State.part_updPart_ne _ _ _ _ same]
    exact fun _ h => h

theorem noted {q : Nat} {f : Part → Part} (h : Stands p s t) (same : ∀ x, (f x).pstate = x.pstate ∧ (f x).freezing = x.freezing ∧ (f x).pevt = x.pevt) :
    Stands p s (t.updPart q f) :=
  h.updPart (fun x => (same x).1) (fun x => (same x).2.1) fun x i hi => by rw [(same x).2.2]; exact hi

theorem partEvent {q i : Nat} (h : Stands p s t) : Stands p s (t.partEvent q i) := by
  refine .of_parts (t := t.updPart q fun x => { x with pevt := putBit x.pevt i true }) (h.updPart (fun _ => rfl) (fun _ => rfl) fun x j hj => ?_) ?_
  · rw [bitOf_testBit] at hj ⊢
    rw [testBit_putBit]
    split
    · rfl
    · exact hj
  · rw [(t.partEvent_spec q i).2.2]

theorem haltQp {a b e : Nat} (h : Stands p s t) : Stands p s (t.haltQp a b e) := by
  unfold State.haltQp
  dsimp only
  refine .partEvent (h.of_parts ?_)
  rw [State.severity_parts]
  split
  · exact State.raise_parts _ _ _
  · rfl

theorem writeCompletion {ok : Option Bool} {c : Cmd} {e : Ending} (h : Stands p s t) : Stands p s (t.writeCompletion ok c e) := by
  have drawn : Stands p s (t.writeOutcome ok).2 := h.of_parts (State.writeOutcome_parts _ _)
  unfold State.writeCompletion
  dsimp only
  generalize (t.writeOutcome ok).2 = v at *
  refine .of_parts ?_ (State.settleQp_parts _ _ _)
  split
  · exact drawn.of_parts v.discardCompletion_parts
  · exact drawn.of_parts v.discardCompletion_parts
  · unfold State.failCompletion
    dsimp only
    exact .andIf (drawn.of_parts (State.reportWrite_parts _ _)) (.haltQp .refl)
  · split
    · refine .of_parts ?_ (State.coalesce_parts _ _ _)
      refine .of_parts (t := v) drawn ?_
      split <;> simp [State.crossPort]
    · refine .of_parts (t := v) drawn ?_
      split <;> simp [State.crossPort]

theorem abortDone {c : Cmd} {e : Ending} (h : Stands p s t) : Stands p s (t.abortDone c e) := by
  unfold State.abortDone State.settleAbort
  dsimp only
  have counted : Stands p s (if c.marked = true ∧ e.status = stAborted ∧ e.detail = 1 then
      t.updPart c.part fun x => { x with abortCount := min 255 (x.abortCount + 1) } else t) := .andIf h (.noted .refl fun _ => ⟨rfl, rfl, rfl⟩)
  generalize (if c.marked = true ∧ e.status = stAborted ∧ e.detail = 1 then
      t.updPart c.part fun x => { x with abortCount := min 255 (x.abortCount + 1) } else t) = v at *
  exact .andIf counted (.noted .refl fun _ => ⟨rfl, rfl, rfl⟩)

theorem answer {ok : Option Bool} {c : Cmd} {e : Ending} (h : Stands p s t) : Stands p s (t.answer ok c e) := by
  unfold State.answer
  split
  · exact h.of_parts (State.sendOn_parts _ _ _)
  · unfold State.complete
    dsimp only
    refine .abortDone (.ite (.writeCompletion ?_) (.noted (.writeCompletion ?_) fun _ => ⟨rfl, rfl, rfl⟩)) <;>
      exact .andIf h (.of_parts .refl (State.severity_parts _ _))

theorem finish {ok : Option Bool} {c : Cmd} {e : Ending} {d : Option Nat} (h : Stands p s t) : Stands p s (t.finish ok c e d) := by
  unfold State.finish
  split
  · exact h.of_parts rfl
  · exact h.answer

theorem endCommand {k st det len : Nat} {ok : Option Bool} (h : Stands p s t) : Stands p s (t.endCommand k st det len ok) := by
  unfold State.endCommand
  dsimp only
  split
  · exact h
  · next c _ =>
    have zeroed : (if refusing st then t.zeroOutput c st (t.ctx k).wrote else t).parts = t.parts := by
      split
      · exact State.zeroOutput_parts ..
      · rfl
    generalize (if refusing st then t.zeroOutput c st (t.ctx k).wrote else t) = v at *
    have counted : ((v.dropOps k).countEnding k (t.ctx k) c st det).parts = t.parts := (State.countEnding_parts ..).trans ((State.dropOps_parts ..).trans zeroed)
    generalize (v.dropOps k).countEnding k (t.ctx k) c st det = w at *
    have seated : ((w.setCtx k {}).seatMoved (clusterOf k) 4).parts = t.parts := (State.seatMoved_parts ..).trans counted
    generalize (w.setCtx k {}).seatMoved (clusterOf k) 4 = x at *
    have settled : ∀ y : State, ((y.settleStale.settleSeq (clusterOf k)).touch (clusterOf k)).parts = y.parts := fun y => by
      show (y.settleStale.settleSeq (clusterOf k)).parts = y.parts
      unfold State.settleSeq
      split
      · rw [State.raise_parts, State.settleStale_parts]
      · exact State.settleStale_parts y
    exact .of_parts (.finish (h.of_parts seated)) (settled _)

end Stands

end Sys2Proof.Machine
end

section
/-! SUPPORT. Partitions under FREEZE: what the commands of the gate read and leave, and the ends of a frozen partition's commands (R54, R101, R260). -/
namespace Sys2Proof.Machine

variable {s t : State}

/-! ## Partitions frozen (R54, R101) -/

/-- A partition under FREEZE, its events and its standby told, before its commands end. -/
def State.freezeTold (s : State) (p : Nat) : State :=
  ((s.updPart p fun x => { x with pstate := .frozen, freezing := true }).partEvent p 1).tellStandby (.pstate p .frozen)

/-- The commands of a partition taken from the queues, its ACTIVE queue pairs FROZEN. -/
def State.freezeTaken (s : State) (p : Nat) : State :=
  { s with
    hq := { s.hq with
      staged := s.hq.staged.filter (·.part != p)
      fwdOut := s.hq.fwdOut.filter (·.cmd.part != p)
      qps := Sparse.mapVals {} (fun k x => if k / 64 = p ∧ x.qstate = .active then { x with qstate := .frozen } else x) s.hq.qps } }

theorem State.freezePart_eq (s : State) (p : Nat) : s.freezePart p =
    (((s.freezeTold p).hq.staged.filter (·.part == p) ++ (((s.freezeTold p).hq.fwdOut.map (·.cmd)).filter (·.part == p))).foldl
      (fun s c => s.endStaged c stPartitionFrozen 0) ((s.freezeTold p).freezeTaken p)
      |> fun v => (v.running.filter fun e => e.2.part == p).foldl (fun s e => s.endCommand e.1 stPartitionFrozen 0) v) := rfl

theorem State.freezeTold_spec (s : State) (p : Nat) : ((s.freezeTold p).part p).pstate = .frozen ∧ ((s.freezeTold p).part p).freezing = true ∧
    bitOf ((s.freezeTold p).part p).pevt 1 = true ∧ (s.freezeTold p).sq = s.sq ∧ (s.freezeTold p).gt = s.gt ∧ spares commandFields s (s.freezeTold p) := by
  obtain ⟨w, taken⟩ : ∃ w, w = s.updPart p fun x => { x with pstate := .frozen, freezing := true } := ⟨_, rfl⟩
  obtain ⟨regs, -, rest⟩ := w.partEvent_spec p 1
  have whole : s.freezeTold p = (w.partEvent p 1).tellStandby (.pstate p .frozen) := by rw [taken]; rfl
  obtain ⟨parts, -, sq, gt, fields⟩ := (w.partEvent p 1).tellStandby_spec (.pstate p .frozen)
  rw [whole]
  have part : ((w.partEvent p 1).tellStandby (.pstate p .frozen)).part p = { w.part p with pevt := putBit (w.part p).pevt 1 true } := by
    rw [State.part, parts, rest]
    exact State.part_updPart_same w p fun x => { x with pevt := putBit x.pevt 1 true }
  have wPart : w.part p = { s.part p with pstate := .frozen, freezing := true } := by rw [taken]; exact s.part_updPart_same p _
  rw [part]
  refine ⟨by rw [wPart], by rw [wPart], ?_, ?_, ?_, ?_⟩
  · rw [bitOf_testBit, testBit_putBit]; rfl
  · rw [sq, rest, taken]; rfl
  · rw [gt, rest, taken]; rfl
  · refine .trans ?_ fields
    intro f _
    rw [regs f fun g hg => nomatch hg]
    show w.get f = s.get f
    rw [taken]
    rfl

/-- A context none of whose listed keys is its own serves on. -/
theorem State.endCommands_others (es : List (Nat × Context)) (st det : Nat) {k : Nat} (other : k ∉ es.map Prod.fst) :
    ((es.foldl (fun s e => s.endCommand e.1 st det) s).ctx k).cmd = (s.ctx k).cmd := by
  induction es generalizing s with
  | nil => rfl
  | cons e es ih =>
    simp only [List.map_cons, List.mem_cons, not_or] at other
    exact (ih other.2).trans (State.endCommand_ctx_cmd_ne st det 0 none (Ne.symm other.1))

theorem State.running_of_busy {k : Nat} (busy : (s.ctx k).cmd ≠ none) : (k, s.ctx k) ∈ s.running :=
  List.mem_filter.2 ⟨Sparse.mem_of_get_ne fun e => busy (by rw [State.ctx, e]), Option.isSome_iff_ne_none.2 busy⟩

/-- What the ends of a frozen partition's commands leave: its state, the commands of the others, the gate's command. -/
theorem State.freezePart_spec (s : State) (p : Nat) : let t := s.freezePart p
    (t.part p).pstate = .frozen ∧ (t.part p).freezing = true ∧ bitOf (t.part p).pevt 1 = true ∧ (∀ c ∈ t.hq.staged, c.part ≠ p) ∧
      (∀ k c, (t.ctx k).cmd = some c → c.part ≠ p) ∧ t.gt.cmdPart = s.gt.cmdPart ∧ spares commandFields s t := by
  intro t
  have whole : t = _ := s.freezePart_eq p
  clear_value t
  subst whole
  obtain ⟨pstate, freezing, event, sq, gt, fields⟩ := s.freezeTold_spec p
  generalize s.freezeTold p = v at *
  have start : Stands p v (v.freezeTaken p) := .of_parts .refl rfl
  have staged : ∀ c ∈ (v.freezeTaken p).hq.staged, c.part ≠ p := fun c hc => by
    have := (List.mem_filter.1 hc).2
    simpa using this
  have takenSq : (v.freezeTaken p).gt = v.gt ∧ (v.freezeTaken p).regs = v.regs := ⟨rfl, rfl⟩
  generalize v.hq.staged.filter (·.part == p) ++ (v.hq.fwdOut.map (·.cmd)).filter (·.part == p) = gone
  generalize v.freezeTaken p = w at *
  have ended : Stands p w (gone.foldl (fun s c => s.endStaged c stPartitionFrozen 0) w) := .foldl .refl fun u c => .finish .refl
  have endedStaged : (gone.foldl (fun s c => s.endStaged c stPartitionFrozen 0) w).hq.staged = w.hq.staged :=
    foldl_keeps (fun u : State => u.hq.staged = w.hq.staged) _ (fun u c h => (congrArg Prod.snd (u.finish_tasks ..)).trans h) _ _ rfl
  have endedView : (gone.foldl (fun s c => s.endStaged c stPartitionFrozen 0) w).endView = w.endView :=
    foldl_keeps (fun u : State => u.endView = w.endView) _ (fun u c h => (u.finish_endView ..).trans h) _ _ rfl
  dsimp only
  generalize gone.foldl (fun s c => s.endStaged c stPartitionFrozen 0) w = x at *
  have finished : Stands p x ((x.running.filter fun e => e.2.part == p).foldl (fun s e => s.endCommand e.1 stPartitionFrozen 0) x) :=
    .foldl .refl fun u e => .endCommand .refl
  have finalStaged : ((x.running.filter fun e => e.2.part == p).foldl (fun s e => s.endCommand e.1 stPartitionFrozen 0) x).hq.staged = x.hq.staged :=
    foldl_keeps (fun u : State => u.hq.staged = x.hq.staged) _ (fun u e h => (u.endCommand_staged ..).trans h) _ _ rfl
  have finalView : ((x.running.filter fun e => e.2.part == p).foldl (fun s e => s.endCommand e.1 stPartitionFrozen 0) x).endView = x.endView :=
    foldl_keeps (fun u : State => u.endView = x.endView) _ (fun u e h => (u.endCommand_endView ..).trans h) _ _ rfl
  have gone : ∀ k c, (((x.running.filter fun e => e.2.part == p).foldl (fun s e => s.endCommand e.1 stPartitionFrozen 0) x).ctx k).cmd = some c → c.part ≠ p := by
    intro k c serves own
    by_cases listed : k ∈ (x.running.filter fun e => e.2.part == p).map Prod.fst
    · have := x.endCommands_free (x.running.filter fun e => e.2.part == p) stPartitionFrozen 0 k (.inr listed)
      rw [serves] at this
      exact nomatch this
    · rw [State.endCommands_others _ _ _ listed] at serves
      have busy : (x.ctx k).cmd ≠ none := by rw [serves]; exact nofun
      refine listed (List.mem_map.2 ⟨(k, x.ctx k), List.mem_filter.2 ⟨State.running_of_busy busy, ?_⟩, rfl⟩)
      simp [Context.part, serves, own]
  generalize (x.running.filter fun e => e.2.part == p).foldl (fun s e => s.endCommand e.1 stPartitionFrozen 0) x = y at *
  have all := start.trans (ended.trans finished)
  have view := finalView.trans endedView
  have gtKept : ({ y.gt with verifying := [] } : Gate) = { w.gt with verifying := [] } := by
    have := congrArg State.gt (State.offEnds_of_endView view)
    exact this
  refine ⟨all.pstate.trans pstate, all.freezing.trans freezing, all.events 1 event, ?_, gone, ?_, ?_⟩
  · rw [finalStaged, endedStaged]; exact staged
  · have := congrArg Gate.cmdPart gtKept
    exact this.trans (by rw [takenSq.1, gt])
  · refine .trans fields fun f hf => ?_
    have off : offEnd f = true := by revert f; decide
    rw [State.get_of_endView view off, State.get, takenSq.2]
    rfl

end Sys2Proof.Machine
end

section
/-! SUPPORT. How a shipped program runs: its parts as they go on, and the end of its command where nothing waits at its last boundary (R80, R103). -/
namespace Sys2Proof.Machine

variable {s t u : State}

/-! ## Parts that go on, and parts that stop -/

/-- A part of a program goes on, with an answer and the state it leaves. -/
def Runs {α : Type} (m : Run α) (s : State) (a : α) (t : State) : Prop := ExceptT.run m s = (.ok a, t)

/-- A part of a program stops it, in a state. -/
def Stops {α : Type} (m : Run α) (s : State) (e : Stop) (t : State) : Prop := ExceptT.run m s = (.error e, t)

section
variable {α β : Type} {m : Run α} {f : α → Run β} {a : α} {b : β} {e : Stop}

theorem Runs.pure : Runs (Pure.pure a) s a s := rfl

theorem Runs.bind (h : Runs m s a t) (k : Runs (f a) t b u) : Runs (m >>= f) s b u := by
  show (ExceptT.run m >>= fun x => ExceptT.bindCont f x) s = _
  show (match ExceptT.run m s with | (x, v) => ExceptT.bindCont f x v) = _
  rw [show ExceptT.run m s = _ from h]
  exact k

theorem Stops.bind (h : Stops m s e t) : Stops (m >>= f) s e t := by
  show (match ExceptT.run m s with | (x, v) => ExceptT.bindCont f x v) = _
  rw [show ExceptT.run m s = _ from h]
  rfl

theorem Runs.bindStops (h : Runs m s a t) (k : Stops (f a) t e u) : Stops (m >>= f) s e u := by
  show (match ExceptT.run m s with | (x, v) => ExceptT.bindCont f x v) = _
  rw [show ExceptT.run m s = _ from h]
  exact k

theorem Runs.act (g : State → State) : Runs (act g) s () (g s) := rfl

theorem Runs.get : Runs MonadState.get s s s := rfl

theorem Runs.set (v : State) : Runs (MonadStateOf.set v) s ⟨⟩ v := rfl

theorem Runs.need {p : Bool} (h : p = true) (detail : Nat) : Runs (need p detail) s () s := by rw [Machine.need, if_pos h]; exact .pure

theorem Stops.need {p : Bool} (h : p = false) (detail : Nat) : Stops (Machine.need p detail) s (.done stFormatError detail) s := by
  rw [Machine.need, h]; rfl

theorem Runs.mustMatch {p : Bool} (h : p = true) : Runs (mustMatch p) s () s := by rw [Machine.mustMatch, if_pos h]; exact .pure

theorem Stops.mustMatch {p : Bool} (h : p = false) : Stops (Machine.mustMatch p) s (.done stAuthFail 0) s := by rw [Machine.mustMatch, h]; rfl

theorem Stops.stop (status detail : Nat) : Stops (Machine.stop status detail : Run α) s (.fail status detail) s := rfl

end

/-! ## The end of a command where nothing waits at its last boundary -/

/-- No fence has stood for 3 µs, and the budget takes any count of instructions. -/
def State.unhurried (s : State) (k : Nat) : Prop := (∀ f ∈ s.ge.fences, s.quartz < f.raised + 3000) ∧ (s.ctx k).retired + 2 ^ 16 ≤ s.budget

theorem State.orphanField_none (young : ∀ f ∈ s.ge.fences, s.quartz < f.raised + 3000) (x : Context) : s.orphanField x = none := by
  have none_ : (x.keys.filterMap id).find? (fun y => s.ge.fences.any fun f => y.stamp.contains f.line && f.raised + 3000 ≤ s.quartz) = none := by
    refine List.find?_eq_none.2 fun y _ hit => ?_
    obtain ⟨f, listed, late⟩ := List.any_eq_true.1 hit
    have := young f listed
    simp only [Bool.and_eq_true, decide_eq_true_eq] at late
    omega
  rw [State.orphanField, none_]
  rfl

/-- A count of instructions that its command has not used the budget up with. -/
theorem State.programWork_lt {k : Nat} (unlisted : listing (s.ctx k) = []) : (s.programWork k none).2 < 2 ^ 16 := by
  rw [State.programWork, unlisted]
  exact Nat.mod_lt _ (by decide)

theorem State.countProgram_ctx (s : State) (k : Nat) (work : Option (Nat × Nat)) :
    (s.countProgram k work).ctx k = { s.ctx k with retired := (s.ctx k).retired + (s.programWork k work).2 } := by
  let w := s.programWork k work
  let u := (s.count (R.SEQ_ISSUE_CNT (clusterOf k)) w.1).count (R.SEQ_RETIRE_CNT (clusterOf k)) w.2
  exact State.ctx_updCtx_same u k fun x => { x with retired := x.retired + w.2 }

theorem State.countProgram_budget (s : State) (k : Nat) (work : Option (Nat × Nat)) : (s.countProgram k work).budget = s.budget := by
  have kept : (s.countProgram k work).get R.SEQ0_BUDGET = s.get R.SEQ0_BUDGET := by
    refine (State.get_count_ne _ _ _ _ ?_).trans (State.get_count_ne _ _ _ _ ?_) <;>
    · simp only [Field.key, R.SEQ0_BUDGET, R.SEQ_ISSUE_CNT, R.SEQ_RETIRE_CNT]
      omega
  rw [State.budget, kept]
  rfl

theorem State.dueEnding_counted {k : Nat} (calm : s.unhurried k) (unlisted : listing (s.ctx k) = []) :
    (s.countProgram k none).dueEnding ((s.countProgram k none).ctx k) = none := by
  obtain ⟨young, room⟩ := calm
  rw [State.dueEnding, State.orphanField_none (s := s.countProgram k none) young]
  dsimp only
  have := State.programWork_lt unlisted
  rw [if_neg]
  rw [s.countProgram_budget, s.countProgram_ctx]
  dsimp only
  omega

/-! ## A program from its command to its end -/

section
variable {c : Ctx} {slot : Nat} {run : ProgramRun}

/-- What a ready program runs as: its body, then its settling. -/
theorem State.programThen_ready {body : Prog → Run Next} (ready : programReady s c slot run) :
    s.programThen c slot run body = s.settleRun c run (ExceptT.run (body (progOf s c run)) s) := by
  obtain ⟨serves, wait, slot_, has, -, -, -, -, -, -, -, -, locks, xbar, young, -⟩ := ready
  have starts : ¬((s.ctx (ctxKey c)).cmd.isNone ∨ ¬(s.ctx (ctxKey c)).wait.retries ∨ s.relocks c.cc ∨ s.xbarHeld c.cc ∨
      runSlot (s.ctx (ctxKey c)).desc.program ≠ slot ∨ (s.orphanField (s.ctx (ctxKey c))).isSome) := by
    rw [State.orphanField_none young, wait, locks, xbar]
    rintro (idle | busy | held | held | other | orphan)
    · exact serves (Option.isNone_iff_eq_none.1 idle)
    · exact busy rfl
    · cases held
    · cases held
    · exact other slot_
    · cases orphan
  unfold State.programThen
  dsimp only
  rw [if_neg starts, if_neg (by rw [has]; exact nofun)]
  rfl

/-- A program's answer, at the settling. -/
theorem Runs.ends {m : Run Done} {d : Done} (h : Runs m s d t) : Runs (m >>= fun d => Pure.pure (Next.ends d)) s (Next.ends d) t := h.bind Runs.pure

theorem Stops.ends {m : Run Done} {e : Stop} (h : Stops m s e t) : Stops (m >>= fun d => Pure.pure (Next.ends d)) s e t := h.bind

variable {body : Prog → Run Done}

/-- A ready program that runs through ends its command so. -/
theorem State.program_ends {d : Done} (ready : programReady s c slot run) (runs : Runs (body (progOf s c run)) s d t) (calm : t.unhurried (ctxKey c))
    (unlisted : listing (t.ctx (ctxKey c)) = []) :
    s.program c slot run body = .next (((((t.updCtx (ctxKey c) fun x => { x with wait := .none }).countProgram (ctxKey c) none).endCommand (ctxKey c)
      d.status 0 d.len run.wrOk)).settleSeeds c.cc) := by
  rw [State.program, State.programThen_ready ready, show ExceptT.run (body (progOf s c run) >>= fun d => pure (Next.ends d)) s = _ from runs.ends]
  have same : (t.updCtx (ctxKey c) fun x => { x with wait := .none }).ctx (ctxKey c) = { t.ctx (ctxKey c) with wait := .none } := State.ctx_updCtx_same ..
  have due := State.dueEnding_counted (s := t.updCtx (ctxKey c) fun x => { x with wait := .none }) (k := ctxKey c)
    ⟨calm.1, by rw [same]; exact calm.2⟩ (by rw [same]; exact unlisted)
  show (.next ((State.endProgram _ (ctxKey c) d run.wrOk).settleSeeds c.cc) : Result) = _
  rw [State.endProgram, due]

/-- A ready program that a DONE of its own ends. -/
theorem State.program_done {st det : Nat} (ready : programReady s c slot run) (stops : Stops (body (progOf s c run)) s (.done st det) t)
    (calm : t.unhurried (ctxKey c)) (unlisted : listing (t.ctx (ctxKey c)) = []) :
    s.program c slot run body = .next (((((t.updCtx (ctxKey c) fun x => { x with wait := .none }).countProgram (ctxKey c) none).endCommand (ctxKey c)
      st det 0 run.wrOk)).settleSeeds c.cc) := by
  rw [State.program, State.programThen_ready ready, show ExceptT.run (body (progOf s c run) >>= fun d => pure (Next.ends d)) s = _ from stops.ends]
  have same : (t.updCtx (ctxKey c) fun x => { x with wait := .none }).ctx (ctxKey c) = { t.ctx (ctxKey c) with wait := .none } := State.ctx_updCtx_same ..
  have due := State.dueEnding_counted (s := t.updCtx (ctxKey c) fun x => { x with wait := .none }) (k := ctxKey c)
    ⟨calm.1, by rw [same]; exact calm.2⟩ (by rw [same]; exact unlisted)
  show (.next ((State.endDone _ (ctxKey c) st det run.wrOk).settleSeeds c.cc) : Result) = _
  rw [State.endDone, due]
  rfl

end

end Sys2Proof.Machine
end

section
/-! SUPPORT. What the end of a program's command tells the host: one completion, and messages of interrupts (R40, R58). -/
namespace Sys2Proof.Machine

variable {s t u : State}

/-! ## What is sent but for messages of interrupts -/

/-- Is something sent other than an MSI-X message? -/
def Output.told : Output → Bool
  | .msix .. => false
  | _ => true

/-- What a state has sent, but for the MSI-X messages. -/
def State.said (s : State) : List Output := s.out.filter Output.told

theorem said_of_sentMsix (h : sentMsix s t) : t.said = s.said := by
  obtain ⟨ms, out, only⟩ := h
  have quiet : ms.filter Output.told = [] := List.filter_eq_nil_iff.2 fun m hm => by
    obtain ⟨f, v, rfl⟩ := only m hm
    exact nofun
  rw [State.said, out, List.filter_append, quiet, List.append_nil]
  rfl

theorem Sends.said (h : Sends s t) : t.said = s.said := said_of_sentMsix h.msix

theorem State.said_emit (s : State) {o : Output} (h : o.told = true) : (s.emit o).said = s.said ++ [o] := by
  show (s.out ++ [o]).filter Output.told = _
  rw [List.filter_append, List.filter_cons_of_pos h, List.filter_nil]
  rfl

/-! ## The completion of a command, whatever its status -/

theorem Quiet.counted {k st det : Nat} {x : Context} {c : Cmd} (h : Quiet s t) : Quiet s (t.countEnding k x c st det) := by
  unfold State.countEnding
  dsimp only
  split
  · split
    · exact .raise (h.update (by split <;> rfl) (by split <;> rfl) (by split <;> rfl) (by split <;> rfl))
    · split
      · exact h.update (by split <;> rfl) (by split <;> rfl) (by split <;> rfl) (by split <;> rfl)
      · exact h.update (by split <;> rfl) (by split <;> rfl) (by split <;> rfl) (by split <;> rfl)
  · exact h.update rfl rfl rfl rfl

/-- A status at which no twin and no generator is reported. -/
def plainStatus (st : Nat) : Prop := st ≠ stFaultDetected ∧ st ≠ stRngFailed

theorem State.finish_said {c : Cmd} {f : Func} (e : Ending) (home : c.peer = none) (plain : plainStatus e.status)
    (active : (s.qp c.part c.qp).qstate = .active) (func : s.qpFunc c.part c.qp = some f) :
    Sends (s.emit (.completion f ((s.qp c.part c.qp).cqBase + 32 * (s.qp c.part c.qp).cqTail)
      (completionEntry c.desc (s.timed e) (s.qp c.part c.qp).phase (s.qp c.part c.qp).sqHead))) (s.finish (some true) c e none) := by
  have calm : ¬(e.status = stFaultDetected ∨ e.status = stRngFailed) := fun h => h.elim plain.1 plain.2
  have written := s.writeCompletion_active e active func
  show Sends _ (s.answer (some true) c e)
  rw [State.answer, home]
  dsimp only
  rw [State.complete, if_neg calm]
  exact .abortDone (.ite written (written.update rfl))

/-- The end of a command with an inline output says its completion and nothing else. -/
theorem State.endCommand_said {k st det len : Nat} {c : Cmd} {f : Func} (run : (s.ctx k).cmd = some c) (home : c.peer = none)
    (delta : (s.ctx k).delta = none) (active : (s.qp c.part c.qp).qstate = .active) (func : s.qpFunc c.part c.qp = some f) (plain : plainStatus st)
    (unwritten : refusing st = true → s.zeroOutput c st (s.ctx k).wrote = s) :
    ∃ ns, (s.endCommand k st det len (some true)).said = s.said ++ [.completion f ((s.qp c.part c.qp).cqBase + 32 * (s.qp c.part c.qp).cqTail)
      (completionEntry c.desc
        { status := st, detail := det, resultLen := len, result := (s.ctx k).result, cluster := clusterOf k, serviceNs := ns }
        (s.qp c.part c.qp).phase (s.qp c.part c.qp).sqHead)] := by
  have quiet : Quiet s ((((s.dropOps k).countEnding k (s.ctx k) c st det).setCtx k {}).seatMoved (clusterOf k) 4) :=
    .seatMoved (.update (.counted (.dropOps .refl)) rfl rfl rfl rfl)
  have zeroed : (if refusing st then s.zeroOutput c st (s.ctx k).wrote else s) = s := by
    split
    next refuses => exact unwritten refuses
    next => rfl
  have ends : s.endCommand k st det len (some true) =
      (((((((s.dropOps k).countEnding k (s.ctx k) c st det).setCtx k {}).seatMoved (clusterOf k) 4).finish (some true) c
        { status := st, detail := det, resultLen := len, result := (s.ctx k).result, cluster := clusterOf k,
          since := some (c.fetched.getD (s.ctx k).started) } none).settleStale).settleSeq (clusterOf k)).touch (clusterOf k) := by
    unfold State.endCommand
    simp only [run, zeroed, delta]
  rw [ends]
  generalize (((s.dropOps k).countEnding k (s.ctx k) c st det).setCtx k {}).seatMoved (clusterOf k) 4 = u at quiet
  have done := u.finish_said (c := c) (f := f) { status := st, detail := det, resultLen := len, result := (s.ctx k).result, cluster := clusterOf k, since := some (c.fetched.getD (s.ctx k).started) }
    home plain (by rw [quiet.qp]; exact active) (by rw [quiet.qpFunc]; exact func)
  rw [quiet.qp, State.timed] at done
  have all : Sends _ (((u.finish (some true) c { status := st, detail := det, resultLen := len, result := (s.ctx k).result, cluster := clusterOf k, since := some (c.fetched.getD (s.ctx k).started) } none).settleStale.settleSeq (clusterOf k)).touch (clusterOf k)) :=
    .update (.settleSeq (.settleStale done)) rfl
  exact ⟨_, by rw [all.said, State.said_emit _ rfl, quiet.sent.said]⟩

/-! ## The end of a program -/

theorem State.reseed_said (s : State) (n l : Nat) : (s.reseed n l).said = s.said := by
  have settled : ((s.reseed n l).out) = s.out :=
    calc (s.reseed n l).out = ((s.seedTaken n l).settleUnit n l).offService.out := by rw [State.reseed_eq]; rfl
      _ = s.out := by unfold State.settleUnit; dsimp only; rw [State.settleCluster_offService]; unfold State.updSvc; split_ifs <;> rfl
  rw [State.said, settled]
  rfl

theorem State.settleSeeds_said (s : State) (n : Nat) : (s.settleSeeds n).said = s.said := by
  refine foldl_keeps (fun u : State => u.said = s.said) _ (fun u l h => ?_) _ _ rfl
  rw [← h]
  unfold State.settleSeed
  dsimp only
  split
  · rfl
  · split
    · exact u.reseed_said n l
    · exact Sends.said (.raise (Sends.refl.update rfl))

/-- What an ended program's command says, of a pair that is ACTIVE and a command whose output nothing zeroes. -/
theorem State.programEnd_said {k st det len n : Nat} {work : Option (Nat × Nat)} {c : Cmd} {f : Func} (run : (s.ctx k).cmd = some c) (home : c.peer = none)
    (delta : (s.ctx k).delta = none) (active : (s.qp c.part c.qp).qstate = .active) (func : s.qpFunc c.part c.qp = some f) (plain : plainStatus st)
    (inline_ : c.desc.outInline = true ∨ refusing st = false) :
    ∃ ns, (((s.countProgram k work).endCommand k st det len (some true)).settleSeeds n).said = s.said ++
      [.completion f ((s.qp c.part c.qp).cqBase + 32 * (s.qp c.part c.qp).cqTail)
        (completionEntry c.desc
          { status := st, detail := det, resultLen := len, result := (s.ctx k).result, cluster := clusterOf k, serviceNs := ns }
          (s.qp c.part c.qp).phase (s.qp c.part c.qp).sqHead)] := by
  have ctx := s.countProgram_ctx k work
  have unwritten : refusing st = true → (s.countProgram k work).zeroOutput c st ((s.countProgram k work).ctx k).wrote = s.countProgram k work := by
    intro refuses
    unfold State.zeroOutput
    rcases inline_ with inline_ | goes
    · exact if_pos (.inr (.inl inline_))
    · exact absurd (refuses.symm.trans goes) nofun
  obtain ⟨ns, said⟩ := State.endCommand_said (s := s.countProgram k work) (det := det) (len := len) (by rw [ctx]; exact run) home (by rw [ctx]; exact delta)
    (show ((s.countProgram k work).qp c.part c.qp).qstate = .active from active) (show (s.countProgram k work).qpFunc c.part c.qp = some f from func) plain unwritten
  refine ⟨ns, ?_⟩
  rw [State.settleSeeds_said, said, ctx]
  rfl

end Sys2Proof.Machine
end

section
/-! SUPPORT. The parts of a program that use a lane: one operation of a lane, a block, a retail MAC and a derivation, over any state that has a lane free (R75, R127). -/
namespace Sys2Proof.Machine

variable {s t : State} {e : Prog}

/-- A part of a program goes on with the answer it computes. -/
theorem Runs.of_ok {α : Type} [DecidableEq α] {m : Run α} {a : α}
    (h : (match (ExceptT.run m s).1 with | .ok b => decide (b = a) | .error _ => false) = true) : Runs m s a (ExceptT.run m s).2 := by
  unfold Runs
  generalize ExceptT.run m s = r at h
  obtain ⟨b | b, t⟩ := r
  · cases h
  · rw [of_decide_eq_true h]

/-- The units a program of a cluster uses stand ready: its lanes, its hash unit and its format unit. -/
structure UnitsReady (s : State) (n l : Nat) : Prop where
  lanes : s.lanesUp n ≠ []
  free : s.freeLane n = some l
  serve : ∀ u ∈ [4, 5], (s.unitSvc n u).inService = true ∧ (s.unitSvc n u).katWanted = false ∧ (s.unitSvc n u).katBusy = false

theorem UnitsReady.useLanes {l : Nat} (h : UnitsReady s e.cluster l) : Runs (e.useUnit 0) s () s := by
  have some_ : (s.lanesUp e.cluster).isEmpty = false := by
    cases up : s.lanesUp e.cluster with
    | nil => exact absurd up h.lanes
    | cons _ _ => rfl
  unfold Prog.useUnit
  refine .bind .get ?_
  dsimp only
  rw [if_pos (by decide), some_, h.free]
  rfl

theorem UnitsReady.useUnit {l u : Nat} (h : UnitsReady s e.cluster l) (hu : u ∈ [4, 5]) : Runs (e.useUnit u) s () s := by
  obtain ⟨serves, unwanted, idle⟩ := h.serve u hu
  have high : ¬u < 4 := by
    simp only [List.mem_cons, List.not_mem_nil, or_false] at hu
    omega
  unfold Prog.useUnit
  refine .bind .get ?_
  dsimp only
  rw [if_neg high, serves, unwanted, idle]
  rfl

/-- Nothing upsets a unit in a run without a twin fault. -/
theorem Prog.sound_of_none (h : e.run.twin = none) (u : Nat) : e.sound u = true := by rw [Prog.sound, h]; rfl

/-- Lane work answers what it gives in every sound datapath. -/
theorem Runs.lanes {l b : Nat} {key : Masked} {f : Path → List Byte → List Byte} {v : List Byte} (ready : UnitsReady s e.cluster l)
    (calm : e.run.twin = none) (value : ∀ p : Path, p.sound → f p key.clear = v) : Runs (e.lanes key b f) s v (s.countBlocks e.cluster l b true) := by
  unfold Prog.lanes
  refine .bind ready.useLanes (.bind .get ?_)
  dsimp only
  rw [ready.free]
  dsimp only
  rw [s.twinRun_eq key _ f v value, Prog.sound_of_none calm]
  rfl

/-- One block under a key slot. -/
theorem Runs.crypt {l : Nat} {y : KeySlot} {decrypt : Bool} {b : List Byte} (ready : UnitsReady s e.cluster l) (calm : e.run.twin = none)
    (long : longEnough (b2n (y.key.cls == 1)) (s.wires e.cluster y).clear) :
    Runs (e.crypt y decrypt b) s ((if decrypt then blkDec else blkEnc) (b2n (y.key.cls == 1)) (s.wires e.cluster y).clear b)
      (s.countBlocks e.cluster l 1 true) :=
  .bind (.bind .get .pure) (.lanes ready calm fun p sound => p.cipher_eq sound _ decrypt _ 0 b long)

/-- The retail MAC under a key slot. -/
theorem Runs.retailOf {l method : Nat} {y : KeySlot} {m : List Byte} (ready : UnitsReady s e.cluster l) (calm : e.run.twin = none) :
    Runs (e.retailOf y method m) s (rmac (s.wires e.cluster y).clear (isoPad method 8 true m))
      (s.countBlocks e.cluster l ((isoPad method 8 true m).length / 8) true) := by
  refine .bind (.bind .get .pure) (.lanes ready calm fun p sound => ?_)
  have des : p.des (tdesPart (s.wires e.cluster y).clear 0) = fun _ => desEncrypt (tdesPart (s.wires e.cluster y).clear 0) :=
    funext fun i => funext fun d => p.des_eq sound _ i d
  have tdes : p.cipher 1 false (s.wires e.cluster y).clear = fun _ => tdesEncrypt (s.wires e.cluster y).clear :=
    funext fun i => funext fun d => (p.cipher_eq sound 1 false _ i d (.inl rfl)).trans rfl
  rw [des, tdes]
  rfl

/-- The key a derivation gives of a parent. -/
def DerEntry.derived (d : DerEntry) (y : KeySlot) (v : List Byte) : KeySlot :=
  let attr := 2 * 2 + 2 ^ 5 + 2 ^ 7 * bitsOf y.key.attr 7 7
  let key : Key := { ktype := .secret, cls := d.outClass, level := 6, usage := d.usage, attr, epoch := y.key.epoch, material := v }
  { key := { key with kcv := key.checkValue }, mask := d.usage, field := y.field, stamp := y.stamp }

/-- A derivation places the output of its entry, under what the wires of its parent carry, and answers a slot that no entry of a slice holds. -/
theorem Runs.derive {i l slot : Nat} {y : KeySlot} {a b : List Byte} {d : DerEntry} (entry : s.derEntry e.x i = d) (ready : UnitsReady s e.cluster l)
    (calm : e.run.twin = none) (fits : d.fits y.key = true) (hash : d.kind ≠ 3) (long : d.ciphered (s.wires e.cluster y).clear)
    (placed : Runs (e.place slot (d.derived y (d.output (s.wires e.cluster y).clear a b))) (s.countDerive e.cluster d) () t) :
    Runs (e.derive i y slot a b) s (d.derived y (d.output (s.wires e.cluster y).clear a b)) t := by
  unfold Prog.derive
  refine .bind .get ?_
  dsimp only
  rw [entry, fits]
  rw [if_neg (by decide)]
  refine .bind (ready.useUnit (by decide)) ?_
  rw [if_neg hash]
  have told := State.deriveTwins_eq s e.cluster d none (s.wires e.cluster y) a b long
  rw [calm]
  split
  · refine .bind ready.useLanes (.bind .get ?_)
    rw [told]
    exact .bind (.set _) (.bind placed .pure)
  · refine .bind .get ?_
    rw [told]
    exact .bind (.set _) (.bind placed .pure)

/-! ## The status an ended program says -/

/-- The STATUS byte of a completion (Table 2.7). -/
def Output.status : Output → Byte
  | .completion _ _ bs => bs.getD 4 0
  | _ => 0

/-- The STATUS of what the module said last. -/
def State.lastStatus (s : State) : Option Byte := s.said.getLast?.map Output.status

/-- Context `k` runs a command of an ACTIVE pair of this module, with an inline output, that waits for no acknowledgement. -/
structure Inline (s : State) (k : Nat) (c : Cmd) (f : Func) : Prop where
  cmd : (s.ctx k).cmd = some c
  home : c.peer = none
  delta : (s.ctx k).delta = none
  active : (s.qp c.part c.qp).qstate = .active
  fn : (s.qp c.part c.qp).fn = some f
  inline_ : c.desc.outInline = true

theorem Inline.updCtx {k : Nat} {c : Cmd} {f : Func} {g : Context → Context} (h : Inline s k c f) (cmd : (g (s.ctx k)).cmd = (s.ctx k).cmd)
    (delta : (g (s.ctx k)).delta = (s.ctx k).delta) : Inline (s.updCtx k g) k c f := by
  have same := State.ctx_updCtx_same s k g
  exact { h with cmd := by rw [same, cmd, h.cmd], delta := by rw [same, delta, h.delta], active := h.active, fn := h.fn }

theorem Inline.goesOn {k : Nat} {c : Cmd} {f : Func} (h : Inline s k c f) : Inline (s.updCtx k fun x => { x with wait := .none }) k c f := h.updCtx rfl rfl

theorem Inline.duringRun {v : State} {k : Nat} {c : Cmd} {f : Func} (h : Inline s k c f) (run : Sys2Proof.duringRun k s v) : Inline v k c f := by
  obtain ⟨cmd, -, delta, -, -, -, hq, -, -⟩ := run
  have qp : v.qp c.part c.qp = s.qp c.part c.qp := by rw [State.qp, hq]; rfl
  exact { h with cmd := cmd.trans h.cmd, delta := delta.trans h.delta, active := by rw [qp, h.active], fn := by rw [qp, h.fn] }

theorem Inline.status {k st det len n : Nat} {work : Option (Nat × Nat)} {c : Cmd} {f : Func} (h : Inline s k c f) (plain : plainStatus st) :
    (((s.countProgram k work).endCommand k st det len (some true)).settleSeeds n).lastStatus = some (BitVec.ofNat 8 st) := by
  have func : s.qpFunc c.part c.qp = some f := by rw [State.qpFunc, h.fn]
  obtain ⟨ns, said⟩ := State.programEnd_said (work := work) (det := det) (len := len) (n := n) h.cmd h.home h.delta h.active func plain (.inl h.inline_)
  rw [State.lastStatus, said, List.getLast?_concat]
  simp [Output.status, completionEntry, leBytes]

/-- Two accounts of one command's end say one status. -/
theorem Inline.agree {v : State} {k st st' det det' len len' n : Nat} {work work' : Option (Nat × Nat)} {c c' : Cmd} {f f' : Func} {r : Result} (h : Inline v k c f)
    (h' : Inline t k c' f') (plain : plainStatus st) (plain' : plainStatus st')
    (ends : r = .next (((v.countProgram k work).endCommand k st det len (some true)).settleSeeds n))
    (ends' : r = .next (((t.countProgram k work').endCommand k st' det' len' (some true)).settleSeeds n)) : BitVec.ofNat 8 st = BitVec.ofNat 8 st' := by
  have told := h.status (det := det) (len := len) (n := n) (work := work) plain
  rw [Host.Outcome.next.inj (ends.symm.trans ends'), h'.status plain'] at told
  exact (Option.some.inj told).symm

end Sys2Proof.Machine
end

section
/-! SUPPORT. Three commands on a bench, for O54, O55 and O56: a derived key runs under no key. DERIVE answers the slot it placed without the masked material the slice holds for it, so
that lane work under that answer takes an empty key. -/
namespace Sys2Proof.Machine

/-! ## A module with one command to run -/

/-- A two-key TDES key that any program may use. -/
def benchKey : Key :=
  { cls := 1, usage := 2 ^ 14 - 1, attr := 1 + 2 ^ 5 + 2 ^ 8 * 63, material := (List.range 16).map fun i => BitVec.ofNat 8 (17 * i + 3) }

def benchRecord : KeyRecord := { key := benchKey }

/-- A context of a PF's command in context 0 of cluster 0, its input received. -/
def benchContext (d : Descriptor) (input : List Byte) : Context := { cmd := some { desc := d, fetched := some 0 }, input }

/-- A module whose context 0 runs a command of queue pair 0 of partition 0 under the record of handle 0: its units serve, its lanes draw no dummy round, and its
slice holds the record. -/
def bench (d : Descriptor) (input : List Byte) : State :=
  { State.reset.set R.CC0_DMEAN 0 with
    parts := [(0, { quotaPart := 16, ephQuota := 16 })]
    sq := { ctxs := [(0, benchContext d input)] }
    hq := { qps := [(0, { qstate := .active, fn := some (.pf 0), cqSize := 7, sqSize := 7 })] }
    ci := { lanes := [(0, { svc := { inService := true } })], hash := [(0, { svc := { inService := true } })], fmt := [(0, { inService := true })] }
    ge := { lines := [(0, { live := true, record := some benchRecord })],
            slices := [(0, [{ line := 0, gen := 0, entries := 1, material := { value := benchKey.material, mask := zeros 16 } }])], ready := true } }

/-- The context of the bench. -/
def benchCtx : Ctx := { cc := 0, ix := 0 }

/-- The program of the bench. -/
def benchProg (d : Descriptor) (input : List Byte) : Prog := { k := 0, x := benchContext d input, run := {} }

/-! ## An ARQC under no key -/

def arqcDescriptor : Descriptor := { outInline := true, program := 0x1A0, key0 := 0, inLen := 24 }

/-- The retail MAC of no bytes under no key. -/
def emptyArqc : List Byte := [140, 166, 77, 233, 193, 177, 35, 167]

def arqcInput : List Byte := zeros 10 ++ emptyArqc ++ zeros 6
def arqcBench : State := bench arqcDescriptor arqcInput
def arqcProg : Prog := benchProg arqcDescriptor arqcInput

/-- Slot 0 once KEY0 is fetched for derivation. -/
def arqcSlot : KeySlot := { key := benchKey, mask := useDerive, field := 0, line := some 0, stamp := [0] }

/-- The module as its program comes to instruction 8, with KEY0 fetched. -/
def arqcFetched : State :=
  (ExceptT.run (arqcProg.at' 8) (ExceptT.run (arqcProg.cipherKey 0 0 useDerive 0) (ExceptT.run (arqcProg.at' 7) arqcBench).2).2).2

/-- The ICC master key's output, and the slot the derivation answers. -/
def arqcIcc : KeySlot := (shippedDer 0x19).derived arqcSlot ((shippedDer 0x19).output benchKey.material (zeros 16) [])

def arqcIccPlaced : State := (ExceptT.run (arqcProg.place 1 arqcIcc) (arqcFetched.countDerive 0 (shippedDer 0x19))).2

/-- The module at instruction 9. -/
def arqcNinth : State := (ExceptT.run (arqcProg.at' 9) arqcIccPlaced).2

/-- The session key: the output of its entry under no key. -/
def arqcSession : KeySlot := (shippedDer 0x21).derived arqcIcc ((shippedDer 0x21).output [] (fitBytes 16 (arqcProg.input 8 13)) [])

def arqcSessionPlaced : State := (ExceptT.run (arqcProg.place 2 arqcSession) (arqcNinth.countDerive 0 (shippedDer 0x21))).2

/-- The module at instruction 10. -/
def arqcTenth : State := (ExceptT.run (arqcProg.at' 10) arqcSessionPlaced).2

/-- The module as its program ends. -/
def arqcEnd : State := (ExceptT.run (arqcProg.at' 16) (arqcTenth.countBlocks 0 0 1 true)).2

/-- Is the cryptogram that of the session key of KEY0? -/
def arqcRight : Bool :=
  (mac benchKey.cls 1 (sessionOf benchKey (arqcProg.input 0 8) (arqcProg.input 8 13)) (arqcProg.input 24 (arqcProg.byte 20))).take 8 == arqcProg.input 10 8

/-- What the model evaluates to on the bench: no entry of the slice carries the derived keys, so their wires are empty. -/
structure ArqcBench : Prop where
  prog : progOf arqcBench benchCtx {} = arqcProg
  ready : programReady arqcBench benchCtx 0x1A0 {}
  room : roomForKeys arqcBench benchCtx
  key : cipherKeyReady arqcBench benchCtx 0 0 useDerive benchRecord
  runs : Inline arqcBench 0 { desc := arqcDescriptor, fetched := some 0 } (.pf 0)
  fetch : Runs (arqcProg.cipherKey 0 0 useDerive 0) (ExceptT.run (arqcProg.at' 7) arqcBench).2 arqcSlot
    (ExceptT.run (arqcProg.cipherKey 0 0 useDerive 0) (ExceptT.run (arqcProg.at' 7) arqcBench).2).2
  fetched : UnitsReady arqcFetched arqcProg.cluster 0
  fetchedWires : (arqcFetched.wires arqcProg.cluster arqcSlot).clear = benchKey.material
  iccFits : (shippedDer 0x19).fits arqcSlot.key = true
  icc : Runs (arqcProg.place 1 arqcIcc) (arqcFetched.countDerive 0 (shippedDer 0x19)) () arqcIccPlaced
  ninth : UnitsReady arqcNinth arqcProg.cluster 0
  ninthWires : (arqcNinth.wires arqcProg.cluster arqcIcc).clear = []
  sessionFits : (shippedDer 0x21).fits arqcIcc.key = true
  session : Runs (arqcProg.place 2 arqcSession) (arqcNinth.countDerive 0 (shippedDer 0x21)) () arqcSessionPlaced
  tenth : UnitsReady arqcTenth arqcProg.cluster 0
  tenthWires : (arqcTenth.wires arqcProg.cluster arqcSession).clear = []
  accepts : ((rmac [] (isoPad 1 8 true [])).take 8 == arqcProg.input 10 8) = true
  ends : Inline arqcEnd 0 { desc := arqcDescriptor, fetched := some 0 } (.pf 0)
  calm : arqcEnd.unhurried 0
  unlisted : listing (arqcEnd.ctx 0) = []
  wrong : arqcRight = false

/-! ## A card verification value -/

def cvvDescriptor : Descriptor := { outInline := true, program := 0x180, key0 := 0, inLen := 17 }

/-- A PAN of 16 digits, an expiry, a service code and the value of its card under the bench's key. -/
def cvvInput : List Byte := [16, 0x41, 0x42, 0x43, 0x44, 0x45, 0x46, 0x47, 0x48, 0xFF, 0xFF, 0x25, 0x12, 0x10, 0x1F, 0x73, 0x6F]

def cvvPan : List Nat := [4, 1, 4, 2, 4, 3, 4, 4, 4, 5, 4, 6, 4, 7, 4, 8]
def cvvBench : State := bench cvvDescriptor cvvInput
def cvvProg : Prog := benchProg cvvDescriptor cvvInput

/-- Slot 0 once KEY0 is fetched for verification. -/
def cvvSlot : KeySlot := { key := benchKey, mask := useMacVerify, field := 0, line := some 0, stamp := [0] }

def cvvFetched : State := (ExceptT.run (cvvProg.cipherKey 0 1 useMacVerify 0) cvvBench).2

/-! ## The halves of the key, as derived keys -/

def cvvLeft : KeySlot := (shippedDer 0x28).derived cvvSlot ((shippedDer 0x28).output benchKey.material [] [])
def cvvLeftPlaced : State := (ExceptT.run (cvvProg.place 1 cvvLeft) (cvvFetched.countDerive 0 (shippedDer 0x28))).2
def cvvRight : KeySlot := (shippedDer 0x29).derived cvvSlot ((shippedDer 0x29).output benchKey.material [] [])
def cvvRightPlaced : State := (ExceptT.run (cvvProg.place 2 cvvRight) (cvvLeftPlaced.countDerive 0 (shippedDer 0x29))).2

/-- The module after so many blocks of the value. -/
def cvvAfter : Nat → State
  | 0 => cvvRightPlaced
  | n + 1 => (cvvAfter n).countBlocks 0 0 1 true

def cvvData : List Byte := packNibbles (cvvPan ++ [2, 5, 1, 2] ++ [1, 0, 1] ++ List.replicate (32 - (cvvPan ++ [2, 5, 1, 2] ++ [1, 0, 1]).length) 0)

/-- The block the program decimalises: the CVV method under no key. -/
def cvvKeyless : List Byte := tdesEncrypt [] (tdesDecrypt [] (tdesEncrypt [] (xorBytes (tdesEncrypt [] (cvvData.take 8)) (cvvData.drop 8))))

def cvvKeylessDigits : List Nat := (match decimalised 17 cvvKeyless with | .ok ds => ds | .error _ => [])

/-- The module as its program ends. -/
def cvvEnd : State := (ExceptT.run (cvvProg.digitsOf 17 cvvKeyless) (cvvAfter 4)).2

/-- The digits of the CVV method under the bench's key. -/
def cvvRightDigits : List Nat := [7, 3, 6, 1, 0, 7, 7, 5, 0, 1, 3, 3, 3, 4, 1, 3]

/-- What the model evaluates to on the bench: no entry of the slice carries the halves of the key, so their wires are empty. -/
structure CvvBench : Prop where
  prog : progOf cvvBench benchCtx {} = cvvProg
  ready : programReady cvvBench benchCtx 0x180 {}
  runs : Inline cvvBench 0 { desc := cvvDescriptor, fetched := some 0 } (.pf 0)
  room : roomForKeys cvvBench benchCtx
  key : cipherKeyReady cvvBench benchCtx 0 1 useMacVerify benchRecord
  panField : panDigits (progOf cvvBench benchCtx {}) 0 = some cvvPan
  whole : 17 ≤ (progOf cvvBench benchCtx {}).inLen
  method : decimalised 17 (cvvBlock benchRecord.key.material (cvvPan ++ [2, 5, 1, 2] ++ [1, 0, 1])) = .ok cvvRightDigits
  pan : decimalField (cvvProg.byte 0) (cvvProg.input 1 10) = some cvvPan
  panLong : 12 ≤ cvvProg.byte 0 ∧ cvvProg.byte 0 ≤ 19
  expiry : decimalField 4 (cvvProg.input 11 2) = some [2, 5, 1, 2]
  service : decimalField 3 (cvvProg.input 13 2) = some [1, 0, 1]
  value : decimalField 3 (cvvProg.input 15 2) = some [7, 3, 6]
  fetch : Runs (cvvProg.cipherKey 0 1 useMacVerify 0) cvvBench cvvSlot cvvFetched
  fetched : UnitsReady cvvFetched cvvProg.cluster 0
  fetchedWires : (cvvFetched.wires cvvProg.cluster cvvSlot).clear = benchKey.material
  leftFits : (shippedDer 0x28).fits cvvSlot.key = true
  left : Runs (cvvProg.place 1 cvvLeft) (cvvFetched.countDerive 0 (shippedDer 0x28)) () cvvLeftPlaced
  leftPlaced : UnitsReady cvvLeftPlaced cvvProg.cluster 0
  leftPlacedWires : (cvvLeftPlaced.wires cvvProg.cluster cvvSlot).clear = benchKey.material
  rightFits : (shippedDer 0x29).fits cvvSlot.key = true
  right : Runs (cvvProg.place 2 cvvRight) (cvvLeftPlaced.countDerive 0 (shippedDer 0x29)) () cvvRightPlaced
  lanes : ∀ n < 5, (cvvAfter n).lanesUp 0 ≠ []
  free : ∀ n < 5, (cvvAfter n).freeLane 0 = some 0
  serve : ∀ n < 5, ∀ u ∈ [4, 5], ((cvvAfter n).unitSvc 0 u).inService = true ∧ ((cvvAfter n).unitSvc 0 u).katWanted = false ∧ ((cvvAfter n).unitSvc 0 u).katBusy = false
  leftWires : ∀ n < 4, ((cvvAfter n).wires 0 cvvLeft).clear = []
  rightWires : ∀ n < 4, ((cvvAfter n).wires 0 cvvRight).clear = []
  digits : Runs (cvvProg.digitsOf 17 cvvKeyless) (cvvAfter 4) cvvKeylessDigits cvvEnd
  refuses : (cvvKeylessDigits.take 3 == [7, 3, 6]) = false
  ends : Inline cvvEnd 0 { desc := cvvDescriptor, fetched := some 0 } (.pf 0)
  calm : cvvEnd.unhurried 0
  unlisted : listing (cvvEnd.ctx 0) = []

/-! ## A key block -/

def blockDescriptor : Descriptor := { outInline := true, program := 0x106, key0 := 0, key1 := 0, inLen := 72, outLen := 200, param := 0x42 }

/-- A version A block of a two-key TDES key under the bench's key. -/
def blockInput : List Byte := "A0072P0TE00E0000179F75BD537448E6DF050310ED2CE016D73EAFAF2AA12C67C9C63756".toList.map chr

/-- The key of the block. -/
def blockKey : Key :=
  { cls := 1, level := 6, usage := 2 ^ 6, attr := 2 + 2 ^ 5 + 1, kcv := [173, 23, 167], material := (List.range 16).map fun i => BitVec.ofNat 8 (i + 1) }

/-- The bench with random bytes to pad a block with. -/
def blockBench : State := { bench blockDescriptor blockInput with fl := { queues := [(0, zeros 8)] } }

def blockProg : Prog := benchProg blockDescriptor blockInput

def kbpkSlot : KeySlot := { key := benchKey, mask := useUnwrap, field := 0, line := some 0, stamp := [0] }
def wrapSlot : KeySlot := { key := benchKey, mask := useWrap, field := 1, line := some 0, stamp := [0] }

def kbpkFetched : State := (ExceptT.run (blockProg.cipherKey 0 0 useUnwrap 0) blockBench).2
def wrapFetched : State := (ExceptT.run (blockProg.cipherKey 1 0 useWrap 1) kbpkFetched).2

/-! ## The keys of the block -/

def encSlot : KeySlot := (shippedDer 0x38).derived kbpkSlot ((shippedDer 0x38).output benchKey.material [] [])
def encPlaced : State := (ExceptT.run (blockProg.place 2 encSlot) (wrapFetched.countDerive 0 (shippedDer 0x38))).2
def authSlot : KeySlot := (shippedDer 0x39).derived kbpkSlot ((shippedDer 0x39).output benchKey.material [] [])
def authPlaced : State := (ExceptT.run (blockProg.place 3 authSlot) (encPlaced.countDerive 0 (shippedDer 0x39))).2

/-- What the MAC of a version A block covers, padded. -/
def blockCovered : List Byte := isoPad 1 8 true ((readBlock blockInput).header ++ (readBlock blockInput).cipher)

/-- The MAC the program computes. -/
def keylessMac : List Byte := (cbcEncBy (fun _ => tdesEncrypt []) 8 (zeros 8) blockCovered).2.take 4

/-- The module as its program ends. -/
def blockEnd : State := authPlaced.countBlocks 0 0 (blockCovered.length / 8) true

/-- What the model evaluates to on the bench: no entry of the slice carries the authentication key, so its wires are empty. -/
structure BlockBench : Prop where
  prog : progOf blockBench benchCtx {} = blockProg
  ready : programReady blockBench benchCtx 0x106 {}
  runs : Inline blockBench 0 { desc := blockDescriptor, fetched := some 0 } (.pf 0)
  input : blockProg.input 0 (min blockProg.inLen 4097) = blockInput
  version : blockInput.getD 0 0 = chr 'A'
  class_ : ¬ (kbpkSlot.key.cls ≠ versionClass (chr 'A'))
  param : (blockProg.paramOnly 0x1FFFF && (BitVec.ofNat 8 (blockProg.param 0 8) == chr 'B' || BitVec.ofNat 8 (blockProg.param 0 8) == chr 'D')) = true
  headerRead : headerOk blockProg.inLen blockInput = true
  letters : [chr 'A', chr 'B', chr 'C', chr 'D'].contains (blockInput.getD 0 0) = true
  asked : BitVec.ofNat 8 ((progOf blockBench benchCtx {}).param 0 8) = chr 'B' ∨ BitVec.ofNat 8 ((progOf blockBench benchCtx {}).param 0 8) = chr 'D'
  known : ((progOf blockBench benchCtx {}).input 0 (min (progOf blockBench benchCtx {}).inLen 4097)).getD 0 0 ∈ [chr 'A', chr 'B', chr 'C', chr 'D']
  letter : ¬ (chr 'A' = chr 'B' ∨ chr 'A' = chr 'D')
  paramOnly : (progOf blockBench benchCtx {}).paramOnly 0x1FFFF = true
  header : headerOk (progOf blockBench benchCtx {}).inLen ((progOf blockBench benchCtx {}).input 0 (min (progOf blockBench benchCtx {}).inLen 4097)) = true
  unwrapKey : cipherKeyReady blockBench benchCtx 0 0 useUnwrap benchRecord
  wrapKey : cipherKeyReady blockBench benchCtx 1 0 useWrap benchRecord
  room : roomForKeys blockBench benchCtx
  gives : blockGives blockBench benchKey ((progOf blockBench benchCtx {}).input 0 (min (progOf blockBench benchCtx {}).inLen 4097)) blockKey false
  entry : (shippedDer (blockEntry (((progOf blockBench benchCtx {}).input 0 (min (progOf blockBench benchCtx {}).inLen 4097)).getD 0 0) benchKey.material.length)).fits
    benchKey = true
  usage : usageFor blockKey.usage = some ([chr 'P', chr '0'], chr 'B')
  strong : (progOf blockBench benchCtx {}).strong benchKey blockKey = true
  fits : blockFits blockBench benchCtx (BitVec.ofNat 8 ((progOf blockBench benchCtx {}).param 0 8)) blockKey.material.length
  kbpk : Runs (blockProg.cipherKey 0 0 useUnwrap 0) blockBench kbpkSlot kbpkFetched
  wrap : Runs (blockProg.cipherKey 1 0 useWrap 1) kbpkFetched wrapSlot wrapFetched
  fetched : UnitsReady wrapFetched blockProg.cluster 0
  fetchedWires : (wrapFetched.wires blockProg.cluster kbpkSlot).clear = benchKey.material
  encFits : (shippedDer 0x38).fits kbpkSlot.key = true
  enc : Runs (blockProg.place 2 encSlot) (wrapFetched.countDerive 0 (shippedDer 0x38)) () encPlaced
  encReady : UnitsReady encPlaced blockProg.cluster 0
  encWires : (encPlaced.wires blockProg.cluster kbpkSlot).clear = benchKey.material
  authFits : (shippedDer 0x39).fits kbpkSlot.key = true
  auth : Runs (blockProg.place 3 authSlot) (encPlaced.countDerive 0 (shippedDer 0x39)) () authPlaced
  authReady : UnitsReady authPlaced blockProg.cluster 0
  authWires : (authPlaced.wires blockProg.cluster authSlot).clear = []
  refuses : ((readBlock blockInput).hex && keylessMac == (readBlock blockInput).mac) = false
  ends : Inline blockEnd 0 { desc := blockDescriptor, fetched := some 0 } (.pf 0)
  calm : blockEnd.unhurried 0
  unlisted : listing (blockEnd.ctx 0) = []

/-- What the kernel evaluates on the bench, once for the three commands. -/
theorem benches : ArqcBench ∧ CvvBench ∧ BlockBench := by
  refine ⟨?arqc, ?cvv, ?block⟩
  case arqc =>
    exact {
      prog := by decide +kernel
      ready := by decide +kernel
      room := by decide +kernel
      key := by decide +kernel
      runs := by constructor <;> decide +kernel
      fetch := Runs.of_ok (by decide +kernel)
      fetched := by constructor <;> decide +kernel
      fetchedWires := by decide +kernel
      iccFits := by decide +kernel
      icc := Runs.of_ok (by decide +kernel)
      ninth := by constructor <;> decide +kernel
      ninthWires := by decide +kernel
      sessionFits := by decide +kernel
      session := Runs.of_ok (by decide +kernel)
      tenth := by constructor <;> decide +kernel
      tenthWires := by decide +kernel
      accepts := by decide +kernel
      ends := by constructor <;> decide +kernel
      calm := by constructor <;> decide +kernel
      unlisted := by decide +kernel
      wrong := by decide +kernel }
  case cvv =>
    exact {
      prog := by decide +kernel
      ready := by decide +kernel
      runs := by constructor <;> decide +kernel
      room := by decide +kernel
      key := by decide +kernel
      panField := by decide +kernel
      whole := by decide +kernel
      method := by decide +kernel
      pan := by decide +kernel
      panLong := by decide +kernel
      expiry := by decide +kernel
      service := by decide +kernel
      value := by decide +kernel
      fetch := Runs.of_ok (by decide +kernel)
      fetched := by constructor <;> decide +kernel
      fetchedWires := by decide +kernel
      leftFits := by decide +kernel
      left := Runs.of_ok (by decide +kernel)
      leftPlaced := by constructor <;> decide +kernel
      leftPlacedWires := by decide +kernel
      rightFits := by decide +kernel
      right := Runs.of_ok (by decide +kernel)
      lanes := by decide +kernel
      free := by decide +kernel
      serve := by decide +kernel
      leftWires := by decide +kernel
      rightWires := by decide +kernel
      digits := Runs.of_ok (by decide +kernel)
      refuses := by decide +kernel
      ends := by constructor <;> decide +kernel
      calm := by constructor <;> decide +kernel
      unlisted := by decide +kernel }
  case block =>
    exact {
      prog := by decide +kernel
      ready := by decide +kernel
      runs := by constructor <;> decide +kernel
      input := by decide +kernel
      version := by decide +kernel
      class_ := by decide +kernel
      param := by decide +kernel
      headerRead := by decide +kernel
      letters := by decide +kernel
      asked := by decide +kernel
      known := by decide +kernel
      letter := by decide +kernel
      paramOnly := by decide +kernel
      header := by decide +kernel
      unwrapKey := by decide +kernel
      wrapKey := by decide +kernel
      room := by decide +kernel
      gives := by decide +kernel
      entry := by decide +kernel
      usage := by decide +kernel
      strong := by decide +kernel
      fits := by decide +kernel
      kbpk := Runs.of_ok (by decide +kernel)
      wrap := Runs.of_ok (by decide +kernel)
      fetched := by constructor <;> decide +kernel
      fetchedWires := by decide +kernel
      encFits := by decide +kernel
      enc := Runs.of_ok (by decide +kernel)
      encReady := by constructor <;> decide +kernel
      encWires := by decide +kernel
      authFits := by decide +kernel
      auth := Runs.of_ok (by decide +kernel)
      authReady := by constructor <;> decide +kernel
      authWires := by decide +kernel
      refuses := by decide +kernel
      ends := by constructor <;> decide +kernel
      calm := by constructor <;> decide +kernel
      unlisted := by decide +kernel }

theorem arqc : ArqcBench := benches.1
theorem cvv : CvvBench := benches.2.1
theorem block : BlockBench := benches.2.2

end Sys2Proof.Machine
end

section
/-! PROOF. O55 and O54: an ARQC of the empty key verifies under any issuer key, and a card verification value that is right is refused. -/
namespace Sys2Proof.Machine

theorem arqc_icc : Runs (arqcProg.derive 0x19 arqcSlot 1 (zeros 16) []) arqcFetched arqcIcc arqcIccPlaced := by
  have := Runs.derive (e := arqcProg) (s := arqcFetched) (i := 0x19) (slot := 1) (y := arqcSlot) (a := zeros 16) (b := []) (d := shippedDer 0x19) (t := arqcIccPlaced)
    rfl arqc.fetched rfl arqc.iccFits (by decide) (.inr (.inr (.inl (by decide)))) (by
      rw [arqc.fetchedWires]
      exact arqc.icc)
  rwa [arqc.fetchedWires] at this

theorem arqc_session : Runs (arqcProg.derive 0x21 arqcIcc 2 (fitBytes 16 (arqcProg.input 8 13)) []) arqcNinth arqcSession arqcSessionPlaced := by
  have := Runs.derive (e := arqcProg) (s := arqcNinth) (i := 0x21) (slot := 2) (y := arqcIcc) (a := fitBytes 16 (arqcProg.input 8 13)) (b := []) (d := shippedDer 0x21)
    (t := arqcSessionPlaced) rfl arqc.ninth rfl arqc.sessionFits (by decide) (.inr (.inr (.inl (by decide)))) (by
      rw [arqc.ninthWires]
      exact arqc.session)
  rwa [arqc.ninthWires] at this

theorem arqc_sessionKey : Runs (arqcProg.sessionKey 0) arqcBench arqcSession arqcSessionPlaced :=
  .bind (.act _) (.bind arqc.fetch (.bind (.act _) (.bind arqc_icc (.bind (.act _) arqc_session))))

theorem arqc_mac : Runs (arqcProg.retailOf arqcSession 1 []) arqcTenth (rmac [] (isoPad 1 8 true [])) (arqcTenth.countBlocks 0 0 1 true) := by
  have mac := Runs.retailOf (method := 1) (y := arqcSession) (m := []) arqc.tenth rfl
  rwa [arqc.tenthWires] at mac

theorem arqc_verifies : Runs (arqcProg.arqc arqcSession 24 (arqcProg.byte 20)) arqcSessionPlaced () arqcEnd :=
  .bind (.act _) (.bind arqc_mac (.bind (.act _) (.mustMatch arqc.accepts)))

/-- The body of program 0x1A0. -/
def arqcBody (e : Prog) : Run Done := do
  let sk ← e.sessionKey 0
  e.arqc sk 24 (e.byte 20)
  pure {}

theorem exec_arqcVerify (c : Ctx) (run : ProgramRun) (s : State) : exec (.arqcVerify c run) s = s.program c 0x1A0 run arqcBody := rfl

theorem arqc_runs : Runs (arqcBody (progOf arqcBench benchCtx {})) arqcBench {} arqcEnd :=
  arqc.prog ▸ .bind arqc_sessionKey (.bind arqc_verifies .pure)

/-- Refutes O55: program 0x1A0 accepts the cryptogram that no key gives, whatever the issuer key. -/
theorem not_emvDuKptAndTokenProgramsAnswer : ¬ Obligations.EmvDuKptAndTokenProgramsAnswer := by
  unfold Obligations.EmvDuKptAndTokenProgramsAnswer
  rintro ⟨emv, -⟩
  obtain ⟨verify, -⟩ := emv benchCtx {} benchRecord arqcBench arqc.room
  have told : compares (.arqcVerify benchCtx {}) arqcBench benchCtx {} arqcRight := verify arqc.ready arqc.key
  rw [arqc.wrong] at told
  obtain ⟨v, work, during, ends⟩ := told
  have real := State.program_ends arqc.ready arqc_runs arqc.calm arqc.unlisted
  have finished := arqc.ends.goesOn
  have agree := (arqc.runs.duringRun during).agree finished ⟨by decide, by decide⟩ ⟨by decide, by decide⟩ ends ((exec_arqcVerify _ _ _).trans real)
  exact absurd agree (by decide)

theorem cvv_left : Runs (cvvProg.derive 0x28 cvvSlot 1 [] []) cvvFetched cvvLeft cvvLeftPlaced := by
  have := Runs.derive (e := cvvProg) (s := cvvFetched) (i := 0x28) (slot := 1) (y := cvvSlot) (a := []) (b := []) (d := shippedDer 0x28) (t := cvvLeftPlaced)
    rfl cvv.fetched rfl cvv.leftFits (by decide) (.inr (.inl (by decide))) (by
      rw [cvv.fetchedWires]
      exact cvv.left)
  rwa [cvv.fetchedWires] at this

theorem cvv_right : Runs (cvvProg.derive 0x29 cvvSlot 2 [] []) cvvLeftPlaced cvvRight cvvRightPlaced := by
  have := Runs.derive (e := cvvProg) (s := cvvLeftPlaced) (i := 0x29) (slot := 2) (y := cvvSlot) (a := []) (b := []) (d := shippedDer 0x29) (t := cvvRightPlaced)
    rfl cvv.leftPlaced rfl cvv.rightFits (by decide) (.inr (.inl (by decide))) (by
      rw [cvv.leftPlacedWires]
      exact cvv.right)
  rwa [cvv.leftPlacedWires] at this

/-! ## Four blocks under no key -/

theorem cvvAfter_ready (n : Nat) (few : n < 5) : UnitsReady (cvvAfter n) cvvProg.cluster 0 := ⟨cvv.lanes n few, cvv.free n few, cvv.serve n few⟩

/-- One block under either half, whatever its key. -/
theorem cvv_block {y : KeySlot} (half : y = cvvLeft ∨ y = cvvRight) (decrypt : Bool) (b : List Byte) {n : Nat} (few : n < 4) :
    Runs (cvvProg.crypt y decrypt b) (cvvAfter n) ((if decrypt then tdesDecrypt else tdesEncrypt) [] b) (cvvAfter (n + 1)) := by
  have cipher : b2n (y.key.cls == 1) = 1 := by rcases half with rfl | rfl <;> rfl
  have wires : ((cvvAfter n).wires cvvProg.cluster y).clear = [] := by
    rcases half with rfl | rfl
    · exact cvv.leftWires n few
    · exact cvv.rightWires n few
  have := Runs.crypt (decrypt := decrypt) (b := b) (y := y) (cvvAfter_ready n (by omega)) rfl (.inl cipher)
  rw [cipher, wires] at this
  cases decrypt
  · exact this
  · exact this

/-! ## The program -/

theorem Runs.pan {s : State} {e : Prog} {off : Nat} {ds : List Nat} (digits : decimalField (e.byte off) (e.input (off + 1) 10) = some ds)
    (count : 12 ≤ e.byte off ∧ e.byte off ≤ 19) : Runs (e.pan off) s ds s := by
  unfold Prog.pan
  dsimp only
  rw [digits]
  dsimp only
  rw [if_pos count]
  exact .pure

theorem Runs.decimal {s : State} {e : Prog} {off n bytes : Nat} {ds : List Nat} (digits : decimalField n (e.input off bytes) = some ds) :
    Runs (e.decimal off n bytes) s ds s := by
  unfold Prog.decimal
  rw [digits]
  exact .pure

theorem cvv_runs : Runs (cvvProg.cvv true) cvvBench (cvvKeylessDigits.take 3, [7, 3, 6]) cvvEnd := by
  unfold Prog.cvv
  refine .bind (.pan (ds := cvvPan) cvv.pan cvv.panLong) ?_
  refine .bind (.need (by decide) _) (.bind (.need (by decide) _) ?_)
  refine .bind (.decimal (ds := [2, 5, 1, 2]) cvv.expiry) (.bind (.decimal (ds := [1, 0, 1]) cvv.service) ?_)
  rw [if_pos rfl, if_pos rfl]
  refine .bind (.decimal (ds := [7, 3, 6]) cvv.value) ?_
  refine .bind cvv.fetch (.bind cvv_left (.bind cvv_right ?_))
  refine .bind (cvv_block (.inl rfl) false _ (n := 0) (by decide)) (.bind (cvv_block (.inl rfl) false _ (n := 1) (by decide)) ?_)
  refine .bind (cvv_block (.inr rfl) true _ (n := 2) (by decide)) (.bind (cvv_block (.inl rfl) false _ (n := 3) (by decide)) ?_)
  have digits := cvv.digits
  unfold cvvKeyless cvvData at digits
  simp only [Bool.false_eq_true, if_false, if_true]
  exact .bind digits .pure

/-- The body of program 0x180. -/
def cvvBody (e : Prog) : Run Done := do
  let v ← e.cvv true
  mustMatch (v.1 == v.2)
  pure {}

theorem exec_cvvVerify (c : Ctx) (run : ProgramRun) (s : State) : exec (.cvvVerify c run) s = s.program c 0x180 run cvvBody := rfl

theorem cvvBody_stops {s t : State} {e : Prog} {v w : List Nat} (runs : Runs (e.cvv true) s (v, w) t) (wrong : (v == w) = false) :
    Stops (cvvBody e) s (.done stAuthFail 0) t := runs.bindStops (.bind (.mustMatch wrong))

theorem cvv_stops : Stops (cvvBody (progOf cvvBench benchCtx {})) cvvBench (.done stAuthFail 0) cvvEnd := by
  rw [cvv.prog]
  exact cvvBody_stops cvv_runs cvv.refuses

/-- Refutes O54: program 0x180 refuses a card verification value that is right under its key. -/
theorem not_paymentProgramsAnswerTheirMethods : ¬ Obligations.PaymentProgramsAnswerTheirMethods := by
  unfold Obligations.PaymentProgramsAnswerTheirMethods
  rintro ⟨-, -, -, -, -, -, -, -, values⟩
  obtain ⟨verify, -⟩ := values benchCtx {} benchRecord cvvPan [2, 5, 1, 2] [1, 0, 1] [7, 3, 6] cvvRightDigits cvvBench cvv.panField (cvv.prog ▸ cvv.expiry) (cvv.prog ▸ cvv.service) rfl cvv.room
    cvv.method
  have told : compares (.cvvVerify benchCtx {}) cvvBench benchCtx {} true := verify cvv.ready cvv.whole (cvv.prog ▸ cvv.value) cvv.key
  obtain ⟨v, work, during, ends⟩ := told
  have real := State.program_done cvv.ready cvv_stops cvv.calm cvv.unlisted
  have finished := cvv.ends.goesOn
  have agree := (cvv.runs.duringRun during).agree finished ⟨by decide, by decide⟩ ⟨by decide, by decide⟩ ends ((exec_cvvVerify _ _ _).trans real)
  exact absurd agree (by decide)

end Sys2Proof.Machine
end

section
/-! PROOF. O56: the encryption and the authentication key of a key block are derived keys: a block whose MAC is right is refused. -/
namespace Sys2Proof.Machine

/-- An inline output changes RESULT alone. -/
theorem Inline.output {s : State} {k : Nat} {c : Cmd} {f : Func} (h : Inline s k c f) (off : Nat) (bs : List Byte) : Inline (s.output k off bs) k c f := by
  unfold State.output
  cases bs with
  | nil =>
    have same : s.outputAt k (s.ctx k).pc off [] = s := by
      simp only [State.outputAt, h.cmd, List.isEmpty_nil, if_true]
    rwa [same]
  | cons b bs =>
    rw [State.outputAt_inline h.cmd rfl h.inline_]
    split
    · exact h
    · exact h.updCtx (g := fun _ => { s.ctx k with result := overlay off (b :: bs) (s.ctx k).result }) rfl rfl

theorem enc_derived : Runs (blockProg.derive 0x38 kbpkSlot 2 [] []) wrapFetched encSlot encPlaced := by
  have := Runs.derive (e := blockProg) (s := wrapFetched) (i := 0x38) (slot := 2) (y := kbpkSlot) (a := []) (b := []) (d := shippedDer 0x38) (t := encPlaced)
    rfl block.fetched rfl block.encFits (by decide) (.inr (.inl (by decide))) (by
      rw [block.fetchedWires]
      exact block.enc)
  rwa [block.fetchedWires] at this

theorem auth_derived : Runs (blockProg.derive 0x39 kbpkSlot 3 [] []) encPlaced authSlot authPlaced := by
  have := Runs.derive (e := blockProg) (s := encPlaced) (i := 0x39) (slot := 3) (y := kbpkSlot) (a := []) (b := []) (d := shippedDer 0x39) (t := authPlaced)
    rfl block.encReady rfl block.authFits (by decide) (.inr (.inl (by decide))) (by
      rw [block.encWires]
      exact block.auth)
  rwa [block.encWires] at this

theorem block_keys : Runs (blockProg.blockKeys kbpkSlot (chr 'A')) wrapFetched (encSlot, authSlot) authPlaced :=
  .bind enc_derived (.bind auth_derived .pure)

/-! ## The MAC under no key -/

theorem block_mac : Runs (blockProg.blockMac (chr 'A') authSlot (readBlock blockInput).header [] (readBlock blockInput).cipher) authPlaced keylessMac blockEnd := by
  unfold Prog.blockMac
  rw [if_neg (by decide)]
  refine .bind (.bind .get .pure) (.bind (.lanes (v := (cbcEncBy (fun _ => tdesEncrypt []) 8 (zeros 8) blockCovered).2) block.authReady rfl fun p sound => ?_) .pure)
  rw [block.authWires]
  have tdes : p.cipher 1 false [] = fun _ => tdesEncrypt [] :=
    funext fun i => funext fun d => (p.cipher_eq sound 1 false _ i d (.inl rfl)).trans rfl
  rw [tdes]
  rfl

theorem block_refused : Stops (blockProg.readKey kbpkSlot blockInput) wrapFetched (.done stAuthFail 0) blockEnd := by
  unfold Prog.readKey
  dsimp only
  rw [block.version, if_neg block.class_]
  refine Runs.bindStops block_keys ?_
  rw [if_neg block.letter]
  exact Runs.bindStops .pure (Runs.bindStops block_mac (.bind (.mustMatch block.refuses)))

/-- The body of program 0x106. -/
def translateBody (e : Prog) : Run Done := do
  let cs := e.input 0 (min e.inLen 4097)
  let v ← e.exportParam
  e.blockChecks cs
  let y ← e.cipherKey 0 0 useUnwrap 0
  let z ← e.cipherKey 1 0 useWrap 1
  let r ← e.readKey y cs
  e.sendKey z v r.1 (if r.2 then 0x81 else 0)

theorem exec_keyBlockTranslate (c : Ctx) (run : ProgramRun) (s : State) : exec (.keyBlockTranslate c run) s = s.program c 0x106 run translateBody := rfl

theorem translate_stops : Stops (translateBody (progOf blockBench benchCtx {})) blockBench (.done stAuthFail 0) blockEnd := by
  rw [block.prog]
  unfold translateBody Prog.exportParam Prog.blockChecks
  dsimp only
  rw [block.input]
  exact Runs.bindStops (.bind (.need block.param _) .pure) <| Runs.bindStops (.bind (.need block.headerRead _) (.need block.letters _)) <|
    Runs.bindStops block.kbpk <| Runs.bindStops block.wrap <| .bind block_refused

/-- Refutes O56: program 0x106 refuses a version A block whose MAC is right under its KBPK. -/
theorem not_keyBlockAndWrapperProgramsAnswer : ¬ Obligations.KeyBlockAndWrapperProgramsAnswer := by
  unfold Obligations.KeyBlockAndWrapperProgramsAnswer
  rintro ⟨-, -, translate, -⟩
  obtain ⟨v, work, during, ends⟩ := translate benchCtx {} benchRecord benchRecord blockKey false [chr 'P', chr '0'] (chr 'B') blockBench block.ready block.paramOnly
    block.asked block.header block.known block.unwrapKey block.wrapKey block.room block.gives block.entry block.usage rfl rfl block.strong block.fits
  have real := State.program_done block.ready translate_stops block.calm block.unlisted
  have finished := block.ends.goesOn
  have agree := ((block.runs.duringRun during).output 0 _).agree finished ⟨by decide, by decide⟩ ⟨by decide, by decide⟩ ends
    ((exec_keyBlockTranslate _ _ _).trans real)
  exact absurd agree (by decide)

end Sys2Proof.Machine
end

section
/-! SUPPORT. Partitions frozen, thawed and drained on the gate's command (R259-R261). -/
namespace Sys2Proof.Machine

variable {s t u : State}

/-! ## The registers of a command -/

theorem State.get_partCmdResult (s : State) (p : Nat) (ok : Bool) (hp : p < 1024) : (s.partCmdResult p ok).get R.GATE_CMD_RESULT = (if ok then 1 else 2) ∧
    (s.partCmdResult p ok).get R.GATE_PART_SEL = p ∧ onlyFields [R.GATE_PART_SEL, R.GATE_CMD_RESULT] s (s.partCmdResult p ok) := by
  unfold State.partCmdResult
  refine ⟨State.get_set_fits _ (by cases ok <;> decide), ?_, onlyFields_mono (onlyFields_trans (onlyFields_set ..) (onlyFields_set ..)) (by simp)⟩
  rw [State.get_set_ne _ _ _ _ (by decide)]
  exact s.get_set_fits hp

/-- An accepted command that goes on: its result, its partition and CMD_BUSY shown. -/
def State.commandTaken (s : State) (p : Nat) : State := { (s.partCmdResult p true).set R.GATE_CMD_BUSY 1 with gt := { s.gt with cmdPart := some p } }

theorem State.commandTaken_spec (s : State) (p : Nat) (hp : p < 1024) : (s.commandTaken p).get R.GATE_CMD_RESULT = 1 ∧ (s.commandTaken p).get R.GATE_CMD_BUSY = 1 ∧
    (s.commandTaken p).get R.GATE_PART_SEL = p ∧ (s.commandTaken p).gt.cmdPart = some p := by
  obtain ⟨result, sel, -⟩ := s.get_partCmdResult p true hp
  have regs : ∀ f, (s.commandTaken p).get f = ((s.partCmdResult p true).set R.GATE_CMD_BUSY 1).get f := fun _ => rfl
  refine ⟨?_, ?_, ?_, rfl⟩
  · rw [regs, State.get_set_ne _ _ _ _ (by decide)]; exact result
  · rw [regs]; exact State.get_set_fits _ (by decide)
  · rw [regs, State.get_set_ne _ _ _ _ (by decide)]; exact sel

/-! ## FREEZE -/

theorem State.partFrozen (p : Fin 1024) (s : State) (responds : s.responds pgGATE = true) (may : s.partCmdOk p = true)
    (state : (s.part p).pstate = .active ∨ (s.part p).pstate = .draining) : exec (.partCmdFreeze p) s = .next ((s.commandTaken p).freezePart p) := by
  show execPartCmdFreeze p s = _
  unfold execPartCmdFreeze
  rw [responds, may]
  rcases state with state | state <;> rw [state] <;> rfl

/-! ## THAW -/

/-- A frozen pair of a thawed partition fetches on: what it recorded is served. -/
def State.pairThawed (s : State) (p q : Nat) : State := (s.updQp p q fun x => { x with qstate := .active }).serveDoorbells p q

/-- A thawed partition, its events and its standby told, before its pairs fetch on. -/
def State.thawTold (s : State) (p : Nat) : State :=
  ((s.updPart p fun x => { x with pstate := .active, gateFroze := false }).partEvent p 2).tellStandby (.pstate p .active)

theorem State.thawPart_eq (s : State) (p : Nat) : s.thawPart p =
    (((s.thawTold p).hq.qps.filter fun e => e.1 / 64 == p && e.2.qstate == .frozen).map (·.1 % 64)).foldl (fun s q => s.pairThawed p q) (s.thawTold p) := rfl

/-- What serving a pair's doorbells changes: that pair, and what a halt changes. -/
structure Serves (p q : Nat) (s t : State) : Prop where
  stands : Stands p s t
  sq : t.sq = s.sq
  view : t.endView = s.endView
  others : ∀ r, r ≠ q → t.qp p r = s.qp p r

theorem Serves.updQp {p q : Nat} (s : State) (f : QueuePair → QueuePair) : Serves p q s (s.updQp p q f) :=
  ⟨.of_parts .refl rfl, rfl, rfl, fun r ne => State.qp_updQp_ne _ _ _ _ _ _ (by unfold qpKey; omega)⟩

theorem Serves.haltQp {p q : Nat} (s : State) (e : Nat) : Serves p q s (s.haltQp p q e) :=
  ⟨.haltQp .refl, ((endKeeps_iff _ _).1 (endKeeps_haltQp s p q e)).1, by simp, fun r ne => (s.haltQp_halts p q e).2.1 p r (by unfold qpKey; omega)⟩

theorem Serves.trans {p q : Nat} (h : Serves p q s t) (k : Serves p q t u) : Serves p q s u :=
  ⟨h.stands.trans k.stands, k.sq.trans h.sq, k.view.trans h.view, fun r ne => (k.others r ne).trans (h.others r ne)⟩

theorem State.pairThawed_spec (s : State) (p q : Nat) : Serves p q s (s.pairThawed p q) ∧ ((s.pairThawed p q).qp p q).qstate ≠ .frozen := by
  have woken : ((s.updQp p q fun x => { x with qstate := .active }).qp p q).qstate = .active := by rw [State.qp_updQp_same]
  have halts : ∀ v e, Serves p q s v → Serves p q s (v.haltQp p q e) ∧ ((v.haltQp p q e).qp p q).qstate ≠ .frozen := fun v e hv =>
    ⟨hv.trans (.haltQp v e), by rw [(v.haltQp_halts p q e).1]; exact nofun⟩
  have served : ∀ (v : State) (a b c : Prop) [Decidable a] [Decidable b] [Decidable c], Serves p q s v → (v.qp p q).qstate = .active →
      Serves p q s (if a then v.haltQp p q 3 else if b then v.haltQp p q 1 else if c then v.haltQp p q 2 else v) ∧
        ((if a then v.haltQp p q 3 else if b then v.haltQp p q 1 else if c then v.haltQp p q 2 else v).qp p q).qstate ≠ .frozen := by
    intro v a b c _ _ _ hv active
    split
    · exact halts v 3 hv
    · split
      · exact halts v 1 hv
      · split
        · exact halts v 2 hv
        · exact ⟨hv, by rw [active]; exact nofun⟩
  unfold State.pairThawed State.serveDoorbells
  dsimp only
  rw [if_neg (by rw [woken]; exact nofun)]
  refine served _ _ _ _ ((Serves.updQp s _).trans (.updQp _ _)) ?_
  rw [State.qp_updQp_same]
  exact woken

/-- The pairs of a partition that fetch on: none of them stands FROZEN, and what its commands hold is untouched. -/
theorem State.pairsThawed_spec (p : Nat) (qs : List Nat) (s : State) : let t := qs.foldl (fun s q => s.pairThawed p q) s
    Stands p s t ∧ t.sq = s.sq ∧ t.endView = s.endView ∧ ∀ r, (t.qp p r).qstate = .frozen → (s.qp p r).qstate = .frozen ∧ r ∉ qs := by
  induction qs generalizing s with
  | nil => exact ⟨.refl, rfl, rfl, fun r h => ⟨h, nofun⟩⟩
  | cons q qs ih =>
    obtain ⟨⟨stands, sq, view, others⟩, woken⟩ := s.pairThawed_spec p q
    obtain ⟨stands', sq', view', frozen⟩ := ih (s.pairThawed p q)
    refine ⟨stands.trans stands', sq'.trans sq, view'.trans view, fun r h => ?_⟩
    obtain ⟨was, absent⟩ := frozen r h
    by_cases same : r = q
    · exact absurd (same ▸ was) woken
    · rw [others r same] at was
      exact ⟨was, by simp [same, absent]⟩

theorem State.thawTold_spec (s : State) (p : Nat) : ((s.thawTold p).part p).pstate = .active ∧ bitOf ((s.thawTold p).part p).pevt 2 = true ∧
    (s.thawTold p).sq = s.sq ∧ spares commandFields s (s.thawTold p) := by
  obtain ⟨w, taken⟩ : ∃ w, w = s.updPart p fun x => { x with pstate := .active, gateFroze := false } := ⟨_, rfl⟩
  obtain ⟨regs, -, rest⟩ := w.partEvent_spec p 2
  have whole : s.thawTold p = (w.partEvent p 2).tellStandby (.pstate p .active) := by rw [taken]; rfl
  obtain ⟨parts, -, sq, -, fields⟩ := (w.partEvent p 2).tellStandby_spec (.pstate p .active)
  rw [whole]
  have part : ((w.partEvent p 2).tellStandby (.pstate p .active)).part p = { w.part p with pevt := putBit (w.part p).pevt 2 true } := by
    rw [State.part, parts, rest]
    exact State.part_updPart_same w p fun x => { x with pevt := putBit x.pevt 2 true }
  have wPart : w.part p = { s.part p with pstate := .active, gateFroze := false } := by rw [taken]; exact s.part_updPart_same p _
  rw [part]
  refine ⟨by rw [wPart], ?_, ?_, ?_⟩
  · rw [bitOf_testBit, testBit_putBit]; rfl
  · rw [sq, rest, taken]; rfl
  · refine .trans ?_ fields
    intro f _
    rw [regs f fun g hg => nomatch hg]
    show w.get f = s.get f
    rw [taken]
    rfl

theorem State.thawPart_spec (s : State) (p : Nat) : let t := s.thawPart p
    (t.part p).pstate = .active ∧ bitOf (t.part p).pevt 2 = true ∧ (∀ q < 64, (t.qp p q).qstate ≠ .frozen) ∧ t.sq = s.sq ∧ spares commandFields s t := by
  intro t
  have whole : t = _ := s.thawPart_eq p
  clear_value t
  subst whole
  obtain ⟨pstate, event, sq, fields⟩ := s.thawTold_spec p
  generalize s.thawTold p = v at *
  obtain ⟨stands, sq', view, frozen⟩ := State.pairsThawed_spec p ((v.hq.qps.filter fun e => e.1 / 64 == p && e.2.qstate == .frozen).map (·.1 % 64)) v
  refine ⟨stands.pstate.trans pstate, stands.events 2 event, fun q hq stays => ?_, sq'.trans sq, fields.trans fun f hf => ?_⟩
  · obtain ⟨was, absent⟩ := frozen q stays
    have listed : (qpKey p q, v.qp p q) ∈ v.hq.qps := Sparse.mem_of_get_ne fun e => by
      rw [State.qp, e] at was
      exact nomatch was
    refine absent (List.mem_map.2 ⟨_, List.mem_filter.2 ⟨listed, ?_⟩, ?_⟩)
    · have : qpKey p q / 64 = p := by unfold qpKey; omega
      simp [this, was]
    · show qpKey p q % 64 = q
      unfold qpKey
      omega
  · exact State.get_of_endView view (by revert f; decide)

theorem State.partThawed (p : Fin 1024) (s : State) (responds : s.responds pgGATE = true) (may : s.partCmdOk p = true) (state : (s.part p).pstate = .frozen) :
    exec (.partCmdThaw p) s = .next ((s.partCmdResult p true).thawPart p) := by
  show execPartCmdThaw p s = _
  unfold execPartCmdThaw
  rw [responds, may, state]
  rfl

/-! ## DRAIN -/

theorem State.partDrained (p : Fin 1024) (s : State) (responds : s.responds pgGATE = true) (may : s.partCmdOk p = true) (state : (s.part p).pstate = .active) :
    exec (.partCmdDrain p) s = .next (((s.commandTaken p).updPart p fun x => { x with pstate := .draining }).tellStandby (.pstate p .draining)) := by
  show execPartCmdDrain p s = _
  unfold execPartCmdDrain
  rw [responds, may, state]
  rfl

/-! ## Commands ignored, and commands done -/

/-- An ignored command shows CMD_RESULT 2 and its partition, and nothing else. -/
theorem State.partIgnored (p : Fin 1024) (s : State) (responds : s.responds pgGATE = true) :
    (s.partCmdOk p = false ∨ (s.part p).pstate = .off → exec (.partCmdFreeze p) s = .next (s.partCmdResult p false)) ∧
    (s.partCmdOk p = true → (s.part p).pstate = .frozen → exec (.partCmdFreeze p) s = .next (s.partCmdResult p true)) ∧
    (s.partCmdOk p = false ∨ (s.part p).pstate ≠ .frozen → exec (.partCmdThaw p) s = .next (s.partCmdResult p false)) ∧
    (s.partCmdOk p = false ∨ (s.part p).pstate ≠ .active → exec (.partCmdDrain p) s = .next (s.partCmdResult p false)) := by
  have freeze : exec (.partCmdFreeze p) s = execPartCmdFreeze p s := rfl
  have thaw : exec (.partCmdThaw p) s = execPartCmdThaw p s := rfl
  have drain : exec (.partCmdDrain p) s = execPartCmdDrain p s := rfl
  rw [freeze, thaw, drain]
  unfold execPartCmdFreeze execPartCmdThaw execPartCmdDrain
  rw [responds]
  cases s.partCmdOk p <;> cases (s.part p).pstate <;> simp

/-- A command done: where PART_CMD asked for it, CMD_BUSY clears and the gate's interrupt bit 7 stands. -/
theorem State.commandDone_spec (s : State) (p : Nat) : (s.commandDone p).parts = s.parts ∧ (s.commandDone p).hq.qps = s.hq.qps ∧
    (s.gt.cmdPart = some p → (s.commandDone p).get R.GATE_CMD_BUSY = 0 ∧ (s.commandDone p).gt.cmdPart = none ∧
      (s.commandDone p).bit (R.BLK_INT_RAW pgGATE) 7 = true) := by
  unfold State.commandDone
  split
  · obtain ⟨-, -, only⟩ := State.raise_onlyFields (({ s with gt := { s.gt with cmdPart := none } } : State).set R.GATE_CMD_BUSY 0) pgGATE 7
    refine ⟨by rw [only]; rfl, by rw [only]; rfl, fun _ => ⟨?_, by rw [only]; rfl, State.raise_bit _ _ (by decide)⟩⟩
    rw [State.raise_get_ne _ _ _ _ (by decide)]
    exact State.get_set_fits _ (by decide)
  · next other => exact ⟨rfl, rfl, fun is => absurd is other⟩

end Sys2Proof.Machine
end

section
/-! SUPPORT. Accesses through the memory protection units: their pieces, what a denied one notes and what a permitted one reads or writes (R265-R269). -/
namespace Sys2Proof.Machine

variable {s t u : State}

/-! ## Pieces (R268) -/

/-- A piece is what one line holds of its access. -/
theorem mem_pieces {a n : Nat} {p : Nat × Nat} (h : p ∈ pieces a n) : ∃ l, p.1 = max a (64 * l) ∧ p.1 + p.2 = min (64 * l + 64) (a + n) := by
  obtain ⟨i, hi, rfl⟩ := List.mem_map.1 h
  have low := List.mem_range.1 hi
  refine ⟨a / 64 + i, ?_⟩
  dsimp only
  split <;> omega

/-- Each byte of an access lies in a piece of it. -/
theorem piece_of_byte {a n i : Nat} (h : i < n) : ∃ p ∈ pieces a n, p.1 ≤ a + i ∧ a + i < p.1 + p.2 := by
  refine ⟨_, List.mem_map.2 ⟨(a + i) / 64 - a / 64, List.mem_range.2 (by omega), rfl⟩, ?_⟩
  dsimp only
  split <;> omega

/-- The byte of an access's data that a piece brings to an address. -/
theorem piece_byte {a n b : Nat} {p : Nat × Nat} {data : List Byte} (h : p ∈ pieces a n) (low : p.1 ≤ b) (high : b < p.1 + p.2) :
    (slice (p.1 - a) p.2 data).getD (b - p.1) 0 = data.getD (b - a) 0 := by
  obtain ⟨l, start, -⟩ := mem_pieces h
  have inside : b - p.1 < p.2 := by omega
  have sum : p.1 - a + (b - p.1) = b - a := by omega
  unfold slice fitBytes
  simp only [List.getD_eq_getElem?_getD, List.getElem?_take_of_lt inside]
  by_cases short : b - p.1 < (data.drop (p.1 - a)).length
  · rw [List.getElem?_append_left short, List.getElem?_drop, sum]
  · have beyond : data[b - a]? = none := List.getElem?_eq_none (by rw [List.length_drop] at short; omega)
    rw [List.getElem?_append_right (by omega), beyond, zeros, List.getElem?_replicate]
    split <;> rfl

theorem slice_length (a n : Nat) (bs : List Byte) : (slice a n bs).length = n := by simp [slice, fitBytes, zeros]

/-- A piece of a write that no poisoned line refuses is refused by none. -/
theorem piece_writable {a n : Nat} {p : Nat × Nat} (h : p ∈ pieces a n) (clear : s.writeFails a n = false) (healed : ∀ l ∈ t.hb.poison, l ∈ s.hb.poison) :
    t.writeFails p.1 p.2 = false := by
  obtain ⟨l, start, stop_⟩ := mem_pieces h
  refine Bool.eq_false_iff.2 fun fails => ?_
  obtain ⟨m, touched, poisoned⟩ := List.any_eq_true.1 fails
  simp only [Bool.and_eq_true, List.contains_iff_mem, Bool.not_eq_true', Bool.and_eq_false_iff, decide_eq_false_iff_not] at poisoned
  unfold linesOf at touched
  by_cases none_ : p.2 = 0
  · rw [if_pos none_] at touched
    exact nomatch touched
  rw [if_neg none_] at touched
  obtain ⟨j, hj, rfl⟩ := List.mem_map.1 touched
  have few := List.mem_range.1 hj
  have line : p.1 / 64 + j = l := by omega
  rw [line] at poisoned
  have whole : a ≤ 64 * l ∧ 64 * l + 64 ≤ a + n := by
    by_contra part
    refine Bool.eq_false_iff.1 clear (List.any_eq_true.2 ⟨l, ?_, ?_⟩)
    · rw [show l = (a + (p.1 - a)) / 64 by omega]
      exact mem_linesOf (by omega)
    · simp only [Bool.and_eq_true, List.contains_iff_mem, Bool.not_eq_true', Bool.and_eq_false_iff, decide_eq_false_iff_not]
      exact ⟨healed l poisoned.1, not_and_or.1 part⟩
  omega

/-! ## What notices leave -/

/-- The memories stand: the shared SRAM and the HBM's bytes. -/
structure MemoryKept (s t : State) : Prop where
  sram : t.sc.sram = s.sc.sram
  mem : t.hb.mem = s.hb.mem

namespace MemoryKept

theorem refl : MemoryKept s s := ⟨rfl, rfl⟩
theorem trans (h : MemoryKept s t) (k : MemoryKept t u) : MemoryKept s u := ⟨k.sram.trans h.sram, k.mem.trans h.mem⟩
theorem update (h : MemoryKept s t) (sram : u.sc.sram = t.sc.sram) (mem : u.hb.mem = t.hb.mem) : MemoryKept s u := h.trans ⟨sram, mem⟩
theorem set {f : Field} {v : Nat} (h : MemoryKept s t) : MemoryKept s (t.set f v) := h.update rfl rfl
theorem ite {c : Prop} [Decidable c] (h : MemoryKept s t) (k : MemoryKept s u) : MemoryKept s (if c then t else u) := by split <;> assumption
theorem andIf {c : Prop} [Decidable c] (h : MemoryKept s t) (k : MemoryKept t u) : MemoryKept s (if c then u else t) := (h.trans k).ite h

theorem foldl {α : Type} {f : State → α → State} {xs : List α} (h : MemoryKept s t) (hf : ∀ v a, MemoryKept v (f v a)) : MemoryKept s (xs.foldl f t) :=
  foldl_keeps (MemoryKept s) f (fun v a hv => hv.trans (hf v a)) xs t h

theorem only {fs : List Field} (h : MemoryKept s t) (k : onlyFields fs t u) : MemoryKept s u := by
  refine h.update ?_ ?_ <;> rw [k.2.2]

theorem raise {p i : Nat} (h : MemoryKept s t) : MemoryKept s (t.raise p i) := h.only (t.raise_onlyFields p i)
theorem msixSend {f : Func} {v : Nat} (h : MemoryKept s t) : MemoryKept s (t.msixSend f v) := h.only (State.msixSend_onlyFields t f v)

theorem severity {n : Nat} (h : MemoryKept s t) : MemoryKept s (t.severity n) := by
  refine h.update ?_ ?_ <;> rw [(t.severity_spec n).2]

theorem of_end (h : endKeeps s t) (view : t.endView = s.endView) : MemoryKept s t := by
  obtain ⟨-, -, -, -, hb, -⟩ := (endKeeps_iff s t).mp h
  have sc : t.offEnds.sc = s.offEnds.sc := congrArg State.sc (State.offEnds_of_endView view)
  exact ⟨congrArg Sched.sram sc, by rw [hb]⟩

theorem answer {ok : Option Bool} {c : Cmd} {e : Ending} (h : MemoryKept s t) : MemoryKept s (t.answer ok c e) :=
  h.trans (.of_end (endKeeps_answer ..) (t.answer_endView ..))

theorem finish {ok : Option Bool} {c : Cmd} {e : Ending} {d : Option Nat} (h : MemoryKept s t) : MemoryKept s (t.finish ok c e d) := by
  unfold State.finish
  split
  · exact h.update rfl rfl
  · exact h.answer

theorem releaseHeld {hit : Held → Bool} (h : MemoryKept s t) : MemoryKept s (t.releaseHeld hit) := by
  unfold State.releaseHeld
  exact .foldl (h.update rfl rfl) fun _ _ => .answer .refl

theorem settleTree (h : MemoryKept s t) : MemoryKept s t.settleTree := by
  unfold State.settleTree
  have told : MemoryKept s ((t.set R.FVL0_DT_LOCKED 0).raise (pgFVL 0) 8) := .raise h.set
  generalize (t.set R.FVL0_DT_LOCKED 0).raise (pgFVL 0) 8 = v at *
  exact .ite (told.update rfl rfl) h

/-- A link going down touches no memory. -/
theorem linkDown {k cause : Nat} (h : MemoryKept s t) : MemoryKept s (t.linkDown k cause) := by
  refine h.trans ?_
  unfold State.linkDown
  dsimp only
  have down : MemoryKept t ((((t.set (R.FVL_STATE k) 0).set (R.FVL_DOWN_CAUSE k) cause).set (R.FVL_PEER_READY k) 0).updLink k fun l => { refusals := l.refusals }) := ⟨rfl, rfl⟩
  generalize (((t.set (R.FVL_STATE k) 0).set (R.FVL_DOWN_CAUSE k) cause).set (R.FVL_PEER_READY k) 0).updLink k (fun l => { refusals := l.refusals }) = a at *
  have counted : MemoryKept t (if t.linkOpen k then ((a.countSat (R.FVL_RETRAINS k)).raise (pgFVL k) 1).severity 2 else a) := .andIf down (.severity (.raise (.set .refl)))
  generalize (if t.linkOpen k then ((a.countSat (R.FVL_RETRAINS k)).raise (pgFVL k) 1).severity 2 else a) = b at *
  have wrapped : MemoryKept t (if t.linkUp k then b.wrapRing k else b) := .andIf counted (.ite (.raise (.set .refl)) .refl)
  generalize (if t.linkUp k then b.wrapRing k else b) = c at *
  have synced : MemoryKept t (if t.linkOpen k ∧ isPartnerLink k ∧ ¬ c.linkOpen (1 - k) ∧ c.get R.PAIR_ROLE = 1 ∧ (c.get R.PAIR_SYNC = 1 ∨ c.get R.PAIR_SYNC = 2)
      then c.outOfSync else c) := .andIf wrapped (.releaseHeld (.raise (.set .refl)))
  generalize (if t.linkOpen k ∧ isPartnerLink k ∧ ¬ c.linkOpen (1 - k) ∧ c.get R.PAIR_ROLE = 1 ∧ (c.get R.PAIR_SYNC = 1 ∨ c.get R.PAIR_SYNC = 2)
      then c.outOfSync else c) = d at *
  exact .settleTree (.andIf synced (.foldl (.update .refl rfl rfl) fun _ _ => .finish .refl))

theorem violation {m a tag : Nat} {kind : AccessKind} (h : MemoryKept s t) : MemoryKept s (t.violation m kind a tag) := by
  refine h.trans ?_
  cases kind <;> exact .raise (.update .refl rfl rfl)

/-! ## Registers written -/

theorem writeField {locked : Bool} {f : Field} {v : Nat} (h : MemoryKept s t) : MemoryKept s (t.writeField locked f v) := by
  unfold State.writeField
  dsimp only
  split
  case h_4 => exact .ite h h.set
  all_goals first | exact h.set | exact h

theorem freezeArbs {reg v : Nat} (high : reg ≠ 0) (h : MemoryKept s t) : MemoryKept s (t.freezeArbs reg v) := by
  unfold State.freezeArbs
  dsimp only
  rw [if_neg high, if_neg high]
  exact .andIf h.set (.raise .refl)

theorem writeCommon {p off v : Nat} (h : MemoryKept s t) : MemoryKept s (t.writeCommon p off v) := by
  have sampled : ∀ w : State, MemoryKept w w.accrueLevel := fun w => by
    unfold State.accrueLevel State.sample
    dsimp only
    exact .ite (.update .refl rfl rfl) (.ite (.update .refl rfl rfl) (.ite (.raise (.update .refl rfl rfl)) (.update .refl rfl rfl)))
  have enabled : MemoryKept s (t.writeEnable p v) := by
    unfold State.writeEnable
    dsimp only
    refine .ite (.ite h.set (.linkDown h.set)) (.ite (.ite h ?_) h)
    have := h.trans (sampled t)
    generalize t.accrueLevel = w at *
    exact this.update rfl rfl
  unfold State.writeCommon
  split
  · unfold State.writeFreeze
    split
    · exact enabled.set.freezeArbs (by omega)
    · exact enabled
  · unfold State.writeIntRaw
    dsimp only
    exact .ite (.set (.set (.set h.writeField))) h.writeField
  · unfold State.writeIntEn
    dsimp only
    exact .ite h (.ite (.msixSend (.msixSend h.set)) h.set)
  · exact h

theorem writeQp {p q i v : Nat} (h : MemoryKept s t) : MemoryKept s (t.writeQp p q i v) := by
  unfold State.writeQp
  exact .ite h (h.update rfl rfl)

theorem updPart {p : Nat} {f : Part → Part} (h : MemoryKept s t) : MemoryKept s (t.updPart p f) := h.update rfl rfl

theorem writeBlock {a v : Nat} (h : MemoryKept s t) : MemoryKept s (t.writeBlock a v) := by
  have armed : ∀ (w : State) (u : Nat), MemoryKept s w → MemoryKept s (if a % 16 < 8 ∧ ¬ w.qz.armed.contains u then { w with qz.armed := w.qz.armed ++ [u] } else w) :=
    fun w u hw => .ite (hw.update rfl rfl) hw
  have cause : MemoryKept s { t with bt := { t.bt with cause := t.bt.cause &&& compl 4 v } } := h.update rfl rfl
  unfold State.writeBlock
  dsimp only
  refine .ite cause (.ite h.updPart (.ite h.writeQp (.ite h.set ?_)))
  generalize compareUnit a = unit
  generalize Page.ofAddr a = page
  split
  · exact h
  · split
    · exact .ite h (armed _ _ (h.foldl fun _ _ => .writeField .refl))
    · exact h.foldl fun _ _ => .writeField .refl

theorem writePf {a v : Nat} (h : MemoryKept s t) : MemoryKept s (t.writePf a v) := by
  unfold State.writePf
  exact .ite h (.ite h.writeCommon (.ite h.writeBlock h))

end MemoryKept

end Sys2Proof.Machine
end

section
/-! PROOF. O39: PART_CMD moves partitions between their states; the memory protection units deny and count accesses. -/
namespace Sys2Proof.Machine

variable {s t u : State}

/-! ## Writes through a memory protection unit -/

theorem MemoryKept.bytes (h : MemoryKept s t) (b : Nat) : t.sramByte b = s.sramByte b ∧ t.memByte b = s.memByte b := by
  rw [State.sramByte, State.memByte, h.sram, h.mem]
  exact ⟨rfl, rfl⟩

/-- A write changes no byte outside its own. -/
theorem State.busWrite_outside (s : State) (m a : Nat) (bs : List Byte) {b : Nat} (outside : b < a ∨ a + bs.length ≤ b) :
    (s.busWrite m a bs).sramByte b = s.sramByte b ∧ (s.busWrite m a bs).memByte b = s.memByte b := by
  have misses : ¬(a ≤ b ∧ b < a + bs.length) := by omega
  unfold State.busWrite
  split
  · split
    · exact ⟨rfl, rfl⟩
    · next takes =>
      have clear : (s.crossHbm a).writeFails a bs.length = false := Bool.eq_false_iff.2 fun fails => takes (.inr fails)
      split
      · exact ⟨rfl, (State.memByte_writeMem clear b).trans (if_neg misses)⟩
      · exact ⟨rfl, rfl⟩
  · split
    · exact ⟨(s.sramByte_writeSram a bs b).trans (if_neg misses), rfl⟩
    · split
      · exact MemoryKept.bytes (.foldl .refl fun _ _ => .ite (.writePf .refl) .refl) b
      · exact ⟨rfl, rfl⟩

theorem State.busWrite_sram {m a b : Nat} {bs : List Byte} (sram : inSram a = true) :
    (s.busWrite m a bs).sramByte b = if a ≤ b ∧ b < a + bs.length then bs.getD (b - a) 0 else s.sramByte b := by
  have high : ¬a < hbmEnd := by
    unfold inSram at sram
    simp only [Bool.and_eq_true, decide_eq_true_eq] at sram
    unfold hbmEnd
    omega
  unfold State.busWrite
  rw [if_neg high, if_pos sram]
  exact s.sramByte_writeSram a bs b

theorem State.busWrite_work {m a : Nat} {bs : List Byte} (low : a < hbmEnd) (work : hbmRegion a = .work) (clear : s.writeFails a bs.length = false) :
    s.busWrite m a bs = (s.crossHbm a).writeMem a bs := by
  have unprotected : hbmProtected a = false := by
    by_contra protected_
    have low : a < 0x802000000 := by simpa [hbmProtected] using protected_
    unfold hbmRegion workBase at work
    repeat' split at work
    all_goals exact nomatch work
  unfold State.busWrite
  rw [if_pos low, unprotected, clear, if_neg (by simp), if_pos (.inl work)]

/-! ### The pieces of a write -/

section
variable (m : Nat) (a n : Nat) (data : List Byte)

/-- A piece of a write arrives at its target. -/
def State.pieceWritten (s : State) (p : Nat × Nat) : State := s.busWrite m p.1 (slice (p.1 - a) p.2 data)

/-- Permitted pieces written. -/
def State.piecesWritten (ok : Nat × Nat → Bool) (ps : List (Nat × Nat)) (s : State) : State :=
  ps.foldl (fun s p => if ok p then s.pieceWritten m a data p else s) s

theorem State.piecesWritten_outside {ok : Nat × Nat → Bool} {ps : List (Nat × Nat)} {b : Nat} (outside : ∀ p ∈ ps, ok p = true → b < p.1 ∨ p.1 + p.2 ≤ b) (s : State) :
    (State.piecesWritten m a data ok ps s).sramByte b = s.sramByte b ∧ (State.piecesWritten m a data ok ps s).memByte b = s.memByte b := by
  induction ps generalizing s with
  | nil => exact ⟨rfl, rfl⟩
  | cons p ps ih =>
    have rest := ih (fun q hq => outside q (List.mem_cons_of_mem _ hq)) (if ok p then s.pieceWritten m a data p else s)
    have first : (if ok p then s.pieceWritten m a data p else s).sramByte b = s.sramByte b ∧ (if ok p then s.pieceWritten m a data p else s).memByte b = s.memByte b := by
      split
      · next may => exact s.busWrite_outside m p.1 _ (by rw [slice_length]; exact outside p List.mem_cons_self may)
      · exact ⟨rfl, rfl⟩
    exact ⟨rest.1.trans first.1, rest.2.trans first.2⟩

theorem State.piecesWritten_cons {ok : Nat × Nat → Bool} {p : Nat × Nat} (ps : List (Nat × Nat)) (may : ok p = true) (s : State) :
    State.piecesWritten m a data ok (p :: ps) s = State.piecesWritten m a data ok ps (s.pieceWritten m a data p) := by
  rw [State.piecesWritten, List.foldl_cons, if_pos may]
  rfl

variable {a n}

/-- Pieces that all reach the shared SRAM store the access's data. -/
theorem State.piecesWritten_sram {ok : Nat × Nat → Bool} {ps : List (Nat × Nat)} {b : Nat} (sub : ∀ p ∈ ps, p ∈ pieces a n) (all : ∀ p ∈ ps, ok p = true ∧ inSram p.1 = true)
    (s : State) (holds : (∃ p ∈ ps, p.1 ≤ b ∧ b < p.1 + p.2) ∨ s.sramByte b = data.getD (b - a) 0) :
    (State.piecesWritten m a data ok ps s).sramByte b = data.getD (b - a) 0 := by
  induction ps generalizing s with
  | nil => exact holds.resolve_left fun ⟨p, hp, _⟩ => nomatch hp
  | cons p ps ih =>
    obtain ⟨may, sram⟩ := all p List.mem_cons_self
    rw [State.piecesWritten_cons m a data ps may]
    refine ih (fun q hq => sub q (List.mem_cons_of_mem _ hq)) (fun q hq => all q (List.mem_cons_of_mem _ hq)) _ ?_
    rw [State.pieceWritten, State.busWrite_sram sram, slice_length]
    by_cases covers : p.1 ≤ b ∧ b < p.1 + p.2
    · rw [if_pos covers]
      exact .inr (piece_byte (sub p List.mem_cons_self) covers.1 covers.2)
    · rw [if_neg covers]
      refine holds.imp_left fun ⟨q, hq, at_⟩ => ?_
      rcases List.mem_cons.1 hq with rfl | hq
      · exact absurd at_ covers
      · exact ⟨q, hq, at_⟩

/-- Pieces that all reach the work region store the access's data, where no poisoned line refuses it. -/
theorem State.piecesWritten_work {ok : Nat × Nat → Bool} {ps : List (Nat × Nat)} {b : Nat} (sub : ∀ p ∈ ps, p ∈ pieces a n)
    (all : ∀ p ∈ ps, ok p = true ∧ p.1 < hbmEnd ∧ hbmRegion p.1 = .work) (clear : u.writeFails a n = false) (s : State) (healed : ∀ l ∈ s.hb.poison, l ∈ u.hb.poison)
    (holds : (∃ p ∈ ps, p.1 ≤ b ∧ b < p.1 + p.2) ∨ s.memByte b = data.getD (b - a) 0) :
    (State.piecesWritten m a data ok ps s).memByte b = data.getD (b - a) 0 := by
  induction ps generalizing s with
  | nil => exact holds.resolve_left fun ⟨p, hp, _⟩ => nomatch hp
  | cons p ps ih =>
    obtain ⟨may, low, work⟩ := all p List.mem_cons_self
    have takes : s.writeFails p.1 (slice (p.1 - a) p.2 data).length = false := by
      rw [slice_length]
      exact piece_writable (sub p List.mem_cons_self) clear healed
    have written : s.pieceWritten m a data p = (s.crossHbm p.1).writeMem p.1 (slice (p.1 - a) p.2 data) := State.busWrite_work low work takes
    rw [State.piecesWritten_cons m a data ps may]
    refine ih (fun q hq => sub q (List.mem_cons_of_mem _ hq)) (fun q hq => all q (List.mem_cons_of_mem _ hq)) _ (fun l hl => ?_) ?_
    · rw [written] at hl
      exact healed l ((State.mem_poison_written (s.crossHbm p.1) p.1 _ l).1.1 hl).1
    · rw [written, State.memByte_writeMem (s := s.crossHbm p.1) takes, slice_length]
      by_cases covers : p.1 ≤ b ∧ b < p.1 + p.2
      · rw [if_pos covers]
        exact .inr (piece_byte (sub p List.mem_cons_self) covers.1 covers.2)
      · rw [if_neg covers]
        refine holds.imp_left fun ⟨q, hq, at_⟩ => ?_
        rcases List.mem_cons.1 hq with rfl | hq
        · exact absurd at_ covers
        · exact ⟨q, hq, at_⟩

end

/-! ## Denied pieces -/

/-- The state with the denied pieces of an access noted. -/
def State.deniedNoted (s : State) (m : Nat) (kind : AccessKind) (tag : Nat) (ok : Nat × Nat → Bool) (ps : List (Nat × Nat)) : State :=
  ps.foldl (fun s' p => if ok p then s' else s'.violation m kind p.1 tag) s

theorem State.deniedNoted_kept (s : State) (m : Nat) (kind : AccessKind) (tag : Nat) (ok : Nat × Nat → Bool) (ps : List (Nat × Nat)) :
    MemoryKept s (s.deniedNoted m kind tag ok ps) := .foldl .refl fun _ _ => .ite .refl (.violation .refl)

theorem State.deniedNoted_none {m tag : Nat} {kind : AccessKind} {ok : Nat × Nat → Bool} {ps : List (Nat × Nat)} (all : ∀ p ∈ ps, ok p = true) :
    s.deniedNoted m kind tag ok ps = s := by
  induction ps with
  | nil => rfl
  | cons p ps ih =>
    show (if ok p then s else s.violation m kind p.1 tag).deniedNoted m kind tag ok ps = s
    rw [if_pos (all p List.mem_cons_self)]
    exact ih fun q hq => all q (List.mem_cons_of_mem _ hq)

/-- The registers a denied read shows itself in. -/
def deniedFields (m : Nat) : List Field :=
  [R.MPU_VIOL_RD_CNT m, R.MPU_LAST_RD_ADDR_LO m, R.MPU_LAST_RD_ADDR_HI m, R.MPU_LAST_RD_TAG m, R.MPU_VIOL_X_CNT m, R.BLK_INT_RAW (pgMPU m)]

/-- A denied read or fetch is counted, and shows its address and its tag. -/
theorem State.violation_read {m a tag : Nat} {kind : AccessKind} (reads : kind ≠ .write) : onlyFields (deniedFields m) s (s.violation m kind a tag) ∧
    (s.violation m kind a tag).get (R.MPU_VIOL_RD_CNT m) = satAdd 32 (s.get (R.MPU_VIOL_RD_CNT m)) 1 % 2 ^ 32 := by
  have shown : onlyFields (deniedFields m) s ((((s.countSat (R.MPU_VIOL_RD_CNT m)).set (R.MPU_LAST_RD_ADDR_LO m) a).set (R.MPU_LAST_RD_ADDR_HI m) (a / 2 ^ 32)).set
      (R.MPU_LAST_RD_TAG m) tag) :=
    onlyFields_mono (onlyFields_trans (onlyFields_trans (onlyFields_trans (onlyFields_set ..) (onlyFields_set ..)) (onlyFields_set ..)) (onlyFields_set ..)) (by simp [deniedFields])
  have counted : ((((s.countSat (R.MPU_VIOL_RD_CNT m)).set (R.MPU_LAST_RD_ADDR_LO m) a).set (R.MPU_LAST_RD_ADDR_HI m) (a / 2 ^ 32)).set
      (R.MPU_LAST_RD_TAG m) tag).get (R.MPU_VIOL_RD_CNT m) = satAdd 32 (s.get (R.MPU_VIOL_RD_CNT m)) 1 % 2 ^ 32 := by
    rw [State.get_set_ne, State.get_set_ne, State.get_set_ne]
    · exact State.get_set_same ..
    all_goals simp only [Field.key, R.MPU_VIOL_RD_CNT, R.MPU_LAST_RD_TAG, R.MPU_LAST_RD_ADDR_HI, R.MPU_LAST_RD_ADDR_LO]; omega
  have raw : (R.BLK_INT_RAW (pgMPU m)).key ≠ (R.MPU_VIOL_RD_CNT m).key := by
    simp only [Field.key, R.BLK_INT_RAW, pgMPU, R.MPU_VIOL_RD_CNT]
    omega
  have x : (R.MPU_VIOL_X_CNT m).key ≠ (R.MPU_VIOL_RD_CNT m).key := by
    simp only [Field.key, R.MPU_VIOL_X_CNT, R.MPU_VIOL_RD_CNT]
    omega
  cases kind with
  | write => exact absurd rfl reads
  | read =>
    exact ⟨onlyFields_mono (onlyFields_trans shown (State.raise_onlyFields ..)) (by simp [deniedFields]), (State.raise_get_ne _ _ _ _ raw).trans counted⟩
  | fetch =>
    exact ⟨onlyFields_mono (onlyFields_trans (onlyFields_trans shown (onlyFields_set ..)) (State.raise_onlyFields ..)) (by simp [deniedFields]),
      (State.raise_get_ne _ _ _ _ raw).trans ((State.get_countSat_ne _ _ _ _ x).trans counted)⟩

/-- Each denied piece of a read counts, up to what the counter holds. -/
theorem State.deniedNoted_reads {m tag : Nat} {kind : AccessKind} (reads : kind ≠ .write) (ok : Nat × Nat → Bool) (ps : List (Nat × Nat)) (s : State) :
    onlyFields (deniedFields m) s (s.deniedNoted m kind tag ok ps) ∧
    (s.get (R.MPU_VIOL_RD_CNT m) < 2 ^ 32 → (s.deniedNoted m kind tag ok ps).get (R.MPU_VIOL_RD_CNT m) =
      min (s.get (R.MPU_VIOL_RD_CNT m) + (ps.filter fun p => !ok p).length) (2 ^ 32 - 1)) := by
  induction ps generalizing s with
  | nil => exact ⟨onlyFields_refl .., fun fits => by rw [State.deniedNoted, List.foldl_nil, List.filter_nil, List.length_nil]; omega⟩
  | cons p ps ih =>
    cases may : ok p with
    | true =>
      have same : s.deniedNoted m kind tag ok (p :: ps) = s.deniedNoted m kind tag ok ps := by simp [State.deniedNoted, may]
      rw [same, List.filter_cons_of_neg (by simp [may])]
      exact ih s
    | false =>
      have same : s.deniedNoted m kind tag ok (p :: ps) = (s.violation m kind p.1 tag).deniedNoted m kind tag ok ps := by simp [State.deniedNoted, may]
      obtain ⟨only, counted⟩ := s.violation_read (m := m) (a := p.1) (tag := tag) reads
      obtain ⟨rest, count⟩ := ih (s.violation m kind p.1 tag)
      rw [same, List.filter_cons_of_pos (by simp [may]), List.length_cons]
      refine ⟨onlyFields_mono (onlyFields_trans only rest) (by simp), fun fits => ?_⟩
      have value : (s.violation m kind p.1 tag).get (R.MPU_VIOL_RD_CNT m) = min (s.get (R.MPU_VIOL_RD_CNT m) + 1) (2 ^ 32 - 1) := by
        rw [counted]
        unfold satAdd
        exact Nat.mod_eq_of_lt (by omega)
      rw [count (by omega), value]
      omega

/-- Permitted pieces of a read cross into the island of their stack. -/
theorem State.crossings_spec (ok : Nat × Nat → Bool) (ps : List (Nat × Nat)) (s : State) :
    let t := ps.foldl (fun s' p => if ok p && decide (p.1 < hbmEnd) then s'.crossHbm p.1 else s') s
    t.sc = s.sc ∧ t.hb = s.hb ∧ t.regs = s.regs ∧ t.out = s.out ∧ t.frees = s.frees := by
  refine foldl_keeps (fun t : State => t.sc = s.sc ∧ t.hb = s.hb ∧ t.regs = s.regs ∧ t.out = s.out ∧ t.frees = s.frees) _ (fun t p h => ?_) _ _ ⟨rfl, rfl, rfl, rfl, rfl⟩
  split
  · exact h
  · exact h

/-! ## The access (R265-R269) -/

section
variable (m : Fin 16) (kind : AccessKind) (addr : Fin 0x10000000000) (len : Nat) (tag : Fin 1024) (data : List Byte) (s : State)

/-- Is a piece of an access permitted? -/
def State.mpuGrants (p : Nat × Nat) : Bool := s.piecePermitted m kind p.1 (s.masterTag m tag)

theorem execMpuAccess_none (none_ : 14 ≤ m.val ∨ (kind = .fetch ∧ 8 ≤ m.val)) : exec (.mpuAccess m kind addr len tag data) s = .next s := by
  show execMpuAccess m kind addr len tag data s = _
  unfold execMpuAccess
  rw [if_pos none_]

theorem execMpuAccess_waits (waits : ∃ p ∈ pieces addr len, s.piecePermitted m kind p.1 (s.masterTag m tag) = true ∧ p.1 < hbmEnd ∧ s.hbmWaits p.1 = true) :
    exec (.mpuAccess m kind addr len tag data) s = .next s := by
  obtain ⟨p, piece, may, low, stuck⟩ := waits
  show execMpuAccess m kind addr len tag data s = _
  unfold execMpuAccess
  split
  · rfl
  · dsimp only
    rw [if_pos]
    exact List.any_eq_true.2 ⟨p, piece, by rw [may, stuck, decide_eq_true low]; rfl⟩

variable {m kind addr len tag data s}

theorem execMpuAccess_goes (some_ : ¬(14 ≤ m.val ∨ (kind = .fetch ∧ 8 ≤ m.val)))
    (open_ : ∀ p ∈ pieces addr len, s.piecePermitted m kind p.1 (s.masterTag m tag) = true → p.1 < hbmEnd → s.hbmWaits p.1 = false) :
    exec (.mpuAccess m kind addr len tag data) s =
      (let ok := s.mpuGrants m kind tag
      let noted := s.deniedNoted m kind (s.masterTag m tag) ok (pieces addr len)
      match kind with
      | .write => .next (State.piecesWritten m addr data ok (pieces addr len) noted)
      | .read | .fetch =>
        let crossed := (pieces addr len).foldl (fun s' p => if ok p && decide (p.1 < hbmEnd) then s'.crossHbm p.1 else s') noted
        .next { crossed.emit (.busRead m addr ((pieces addr len).map fun p => if ok p then s.busRead m p.1 p.2 else some (zeros p.2))) with
          frees := s.frees + 1 }) := by
  show execMpuAccess m kind addr len tag data s = _
  have still : ¬((pieces addr len).any fun p => s.piecePermitted m kind p.1 (s.masterTag m tag) && decide (p.1 < hbmEnd) && s.hbmWaits p.1) = true := by
    intro stuck
    obtain ⟨p, piece, stuck⟩ := List.any_eq_true.1 stuck
    simp only [Bool.and_eq_true, decide_eq_true_eq] at stuck
    obtain ⟨⟨may, low⟩, waits⟩ := stuck
    rw [open_ p piece may low] at waits
    exact nomatch waits
  unfold execMpuAccess
  rw [if_neg some_]
  dsimp only
  rw [if_neg still]
  cases kind <;> rfl

/-- What a read of permitted and denied pieces does. -/
theorem execMpuAccess_reads (reads : (kind = .read ∧ m.val < 14) ∨ (kind = .fetch ∧ m.val < 8))
    (open_ : ∀ p ∈ pieces addr len, s.piecePermitted m kind p.1 (s.masterTag m tag) = true → p.1 < hbmEnd → s.hbmWaits p.1 = false) :
    ∃ t u, exec (.mpuAccess m kind addr len tag data) s = .next t ∧ t.sc.sram = s.sc.sram ∧ t.hb = s.hb ∧ t.frees = s.frees + 1 ∧
      t.out = u.out ++ [.busRead m addr ((pieces addr len).map fun p =>
        if s.piecePermitted m kind p.1 (s.masterTag m tag) then s.busRead m p.1 p.2 else some (zeros p.2))] ∧ sentMsix s u ∧
      (t.get (R.MPU_VIOL_RD_CNT m) % 2 ^ 32 = min (s.get (R.MPU_VIOL_RD_CNT m) % 2 ^ 32 +
        ((pieces addr len).filter fun p => !s.piecePermitted m kind p.1 (s.masterTag m tag)).length) (2 ^ 32 - 1) ∨
        2 ^ 32 ≤ s.get (R.MPU_VIOL_RD_CNT m)) := by
  have some_ : ¬(14 ≤ m.val ∨ (kind = .fetch ∧ 8 ≤ m.val)) := by
    rcases reads with ⟨rfl, low⟩ | ⟨rfl, low⟩
    · rintro (high | ⟨k, -⟩)
      · omega
      · exact nomatch k
    · omega
  have notWrite : kind ≠ .write := by rcases reads with ⟨rfl, -⟩ | ⟨rfl, -⟩ <;> exact nofun
  have goes := execMpuAccess_goes (data := data) some_ open_
  dsimp only at goes
  obtain ⟨only, count⟩ := State.deniedNoted_reads (m := m) (tag := s.masterTag m tag) notWrite (s.mpuGrants m kind tag) (pieces addr len) s
  obtain ⟨sc, hb, regs, out, -⟩ := State.crossings_spec (s.mpuGrants m kind tag) (pieces addr len) (s.deniedNoted m kind (s.masterTag m tag) (s.mpuGrants m kind tag) (pieces addr len))
  generalize s.deniedNoted m kind (s.masterTag m tag) (s.mpuGrants m kind tag) (pieces addr len) = v at *
  generalize (pieces addr len).foldl (fun s' p => if s.mpuGrants m kind tag p && decide (p.1 < hbmEnd) then s'.crossHbm p.1 else s') v = w at *
  refine ⟨{ w.emit (.busRead m addr ((pieces addr len).map fun p => if s.mpuGrants m kind tag p then s.busRead m p.1 p.2 else some (zeros p.2))) with
    frees := s.frees + 1 }, v, ?_, ?_, ?_, rfl, ?_, only.2.1, ?_⟩
  · rw [goes]
    cases kind with
    | write => exact absurd rfl notWrite
    | read => rfl
    | fetch => rfl
  · show w.sc.sram = _
    rw [sc, only.2.2]
  · show w.hb = _
    rw [hb, only.2.2]
  · show w.out ++ _ = _
    rw [out]
    rfl
  · by_cases fits : s.get (R.MPU_VIOL_RD_CNT m) < 2 ^ 32
    · have value : w.get (R.MPU_VIOL_RD_CNT m) = v.get (R.MPU_VIOL_RD_CNT m) := by rw [State.get, regs]; rfl
      left
      show w.get (R.MPU_VIOL_RD_CNT m) % 2 ^ 32 = _
      rw [value, count fits, Nat.mod_eq_of_lt fits]
      exact Nat.mod_eq_of_lt (by omega)
    · exact .inr (Nat.le_of_not_lt fits)

/-- What a write of permitted and denied pieces stores. -/
theorem execMpuAccess_writes (low : m.val < 14) (open_ : ∀ p ∈ pieces addr len, s.piecePermitted m .write p.1 (s.masterTag m tag) = true → p.1 < hbmEnd → s.hbmWaits p.1 = false) :
    let ok := fun p : Nat × Nat => s.piecePermitted m .write p.1 (s.masterTag m tag) = true
    ∃ t, exec (.mpuAccess m .write addr len tag data) s = .next t ∧
      (∀ a, (∀ p ∈ pieces addr len, ok p → a < p.1 ∨ p.1 + p.2 ≤ a) → t.sramByte a = s.sramByte a ∧ t.memByte a = s.memByte a) ∧
      ((∀ p ∈ pieces addr len, ok p ∧ inSram p.1 = true) → ∀ i < len, t.sramByte (addr.val + i) = data.getD i 0) ∧
      ((∀ p ∈ pieces addr len, ok p ∧ p.1 < hbmEnd ∧ hbmRegion p.1 = .work) → s.writeFails addr len = false →
        ∀ i < len, t.memByte (addr.val + i) = data.getD i 0) := by
  refine ⟨_, execMpuAccess_goes (by rintro (high | ⟨k, -⟩) <;> [omega; exact nomatch k]) open_, fun a outside => ?_, fun all i hi => ?_, fun all clear i hi => ?_⟩
  · have noted := (s.deniedNoted_kept m .write (s.masterTag m tag) (s.mpuGrants m .write tag) (pieces addr len)).bytes a
    have written := State.piecesWritten_outside m addr data (ok := s.mpuGrants m .write tag) outside
      (s.deniedNoted m .write (s.masterTag m tag) (s.mpuGrants m .write tag) (pieces addr len))
    exact ⟨written.1.trans noted.1, written.2.trans noted.2⟩
  · rw [State.deniedNoted_none (ok := s.mpuGrants m .write tag) fun p hp => (all p hp).1]
    obtain ⟨p, piece, covers⟩ := piece_of_byte (a := addr) hi
    have := State.piecesWritten_sram m data (ok := s.mpuGrants m .write tag) (b := addr.val + i) (fun p hp => hp) all s (.inl ⟨p, piece, covers⟩)
    rwa [Nat.add_sub_cancel_left] at this
  · rw [State.deniedNoted_none (ok := s.mpuGrants m .write tag) fun p hp => (all p hp).1]
    obtain ⟨p, piece, covers⟩ := piece_of_byte (a := addr) hi
    have := State.piecesWritten_work m data (ok := s.mpuGrants m .write tag) (b := addr.val + i) (fun p hp => hp) all clear s (fun l hl => hl) (.inl ⟨p, piece, covers⟩)
    rwa [Nat.add_sub_cancel_left] at this

end

/-! ## The target of a read -/

theorem State.busRead_eq (m a n : Nat) (s : State) :
    (a < hbmEnd → hbmProtected a = true → mayProtected (busUse m) = false → s.busRead m a n = some (zeros n)) ∧
    (a < hbmEnd → hbmProtected a = false ∨ mayProtected (busUse m) = true → s.busRead m a n =
      if s.readFails a n then none else some (slice (a % 64) n (s.readLine (a / 64)))) ∧
    (inSram a = true → s.busRead m a n = some ((List.range n).map fun i => s.sramByte (a + i))) := by
  unfold State.busRead
  refine ⟨fun low shut may => ?_, fun low may => ?_, fun sram => ?_⟩
  · rw [if_pos low, shut, may, if_pos (by simp)]
  · rw [if_pos low, if_neg]
    rintro ⟨shut, denied⟩
    rcases may with may | may
    · rw [shut] at may
      exact nomatch may
    · rw [may] at denied
      exact nomatch denied
  · have high : ¬a < hbmEnd := by
      have := sram
      unfold inSram at this
      simp only [Bool.and_eq_true, decide_eq_true_eq] at this
      unfold hbmEnd
      omega
    rw [if_neg high, if_pos sram]

/-! ## Commit drains (R271) -/

theorem mpuCommitDrain_ends {m : Fin 16} (busy : s.get (R.MPU_COMMIT_BUSY m) ≠ 0) :
    ∃ t, exec (.mpuCommitDrain m) s = .next t ∧ t.get (R.MPU_COMMIT_BUSY m) = 0 ∧ raised (pgMPU m) [3] s t ∧
      keeps [R.MPU_COMMIT_BUSY m, R.BLK_INT_RAW (pgMPU m), R.MPU_DRAIN_MAX_NS m] s t := by
  have run : exec (.mpuCommitDrain m) s = execMpuCommitDrain m s := rfl
  unfold execMpuCommitDrain at run
  rw [if_neg busy] at run
  refine ⟨_, run, ?_, ?_, ?_⟩
  · show State.get (State.keepMax ((s.set (R.MPU_COMMIT_BUSY m) 0).raise (pgMPU m) 3) _ _) _ = 0
    rw [State.get_keepMax_ne, State.raise_get_ne]
    · exact State.get_set_fits _ (by simp [R.MPU_COMMIT_BUSY])
    all_goals simp only [Field.key, R.MPU_COMMIT_BUSY, R.MPU_DRAIN_MAX_NS, R.BLK_INT_RAW, pgMPU]; omega
  · intro j hj
    have kept : (((s.set (R.MPU_COMMIT_BUSY m) 0).raise (pgMPU m) 3).keepMax (R.MPU_DRAIN_MAX_NS m) (s.quartz - Sparse.get 0 s.gt.mpuCut m)).get (R.BLK_INT_RAW (pgMPU m)) =
        ((s.set (R.MPU_COMMIT_BUSY m) 0).raise (pgMPU m) 3).get (R.BLK_INT_RAW (pgMPU m)) :=
      State.get_keepMax_ne _ _ _ _ (by simp only [Field.key, R.MPU_DRAIN_MAX_NS, R.BLK_INT_RAW, pgMPU]; omega)
    have before : (s.set (R.MPU_COMMIT_BUSY m) 0).get (R.BLK_INT_RAW (pgMPU m)) = s.get (R.BLK_INT_RAW (pgMPU m)) :=
      State.get_set_ne _ _ _ _ (by simp only [Field.key, R.MPU_COMMIT_BUSY, R.BLK_INT_RAW, pgMPU]; omega)
    show bitOf (State.get (State.keepMax _ _ _) _) j = _
    rw [kept]
    have raised_ := (s.set (R.MPU_COMMIT_BUSY m) 0).raise_raised (pgMPU m) 3 j hj
    rw [State.bit, State.bit, before] at raised_
    exact raised_
  · have all := keeps_trans (keeps_trans (keeps_set s (R.MPU_COMMIT_BUSY m) 0) ((s.set (R.MPU_COMMIT_BUSY m) 0).raise_onlyFields (pgMPU m) 3).1)
      (keeps_set ((s.set (R.MPU_COMMIT_BUSY m) 0).raise (pgMPU m) 3) (R.MPU_DRAIN_MAX_NS m) (max (((s.set (R.MPU_COMMIT_BUSY m) 0).raise (pgMPU m) 3).get (R.MPU_DRAIN_MAX_NS m))
        (min (s.quartz - Sparse.get 0 s.gt.mpuCut m) (2 ^ (R.MPU_DRAIN_MAX_NS m).width - 1))))
    exact all

theorem mpuDrainOvertime_shown {m : Fin 16} (busy : s.get (R.MPU_COMMIT_BUSY m) ≠ 0) (first : m.val ∉ s.gt.mpuOver) (late : Sparse.get 0 s.gt.mpuCut m + 2000 < s.quartz) :
    ∃ t, exec (.mpuDrainOvertime m) s = .next t ∧ t.gt.mpuOver = s.gt.mpuOver ++ [m.val] ∧ raised (pgMPU m) [4] s t ∧
      t.get (R.MPU_COMMIT_BUSY m) = s.get (R.MPU_COMMIT_BUSY m) := by
  have run : exec (.mpuDrainOvertime m) s = execMpuDrainOvertime m s := rfl
  have over_ : ¬(s.get (R.MPU_COMMIT_BUSY m) = 0 ∨ s.gt.mpuOver.contains m.val = true ∨ s.quartz ≤ Sparse.get 0 s.gt.mpuCut m + 2000) := by
    rintro (idle | shown | early)
    · exact busy idle
    · exact first (List.contains_iff_mem.1 shown)
    · omega
  unfold execMpuDrainOvertime at run
  rw [if_neg over_] at run
  refine ⟨_, run, ?_, State.raise_raised _ _ _, ?_⟩
  · rw [(State.raise_onlyFields _ _ _).2.2]
  · exact State.raise_get_ne _ _ _ _ (by simp only [Field.key, R.MPU_COMMIT_BUSY, R.BLK_INT_RAW, pgMPU]; omega)

/-- Settles O39: a command of the gate by the partition's state, what ends it by the partition's quiet; an access by its pieces, each denied or at its target. -/
theorem partitionCommandsAndAccessChecks : Obligations.PartitionCommandsAndAccessChecks := by
  unfold Obligations.PartitionCommandsAndAccessChecks
  refine ⟨fun p s responds may state => ?_, fun p s responds may state => ?_, fun p s responds may state => ?_, fun p s responds => ?_, fun p s silent => ?_,
    fun p s => ⟨fun idle => ?_, fun idle => ?_⟩, fun p s freezing quiet => ?_, fun p s draining empty quiet => ?_,
    fun m kind addr len tag data s none_ => execMpuAccess_none m kind addr len tag data s none_,
    fun m kind addr len tag data s waits => execMpuAccess_waits m kind addr len tag data s waits, fun m a n s => State.busRead_eq m a n s,
    fun m kind addr len tag data s reads open_ => execMpuAccess_reads reads open_, fun m addr len tag data s low => ?_,
    fun m s busy => mpuCommitDrain_ends busy, fun m s => ⟨fun idle => ?_, fun idle => ?_⟩, fun m s busy first late => mpuDrainOvertime_shown busy first late⟩
  · obtain ⟨result, busy, sel, cmd⟩ := s.commandTaken_spec p p.isLt
    obtain ⟨pstate, freezing, event, staged, running, gt, fields⟩ := (s.commandTaken p).freezePart_spec p
    refine ⟨_, s.partFrozen p responds may state, pstate, freezing, ?_, ?_, ?_, event, gt.trans cmd, staged, running⟩
    · exact (fields _ (by decide)).trans result
    · exact (fields _ (by decide)).trans busy
    · exact (fields _ (by decide)).trans sel
  · obtain ⟨pstate, event, pairs, sq, fields⟩ := (s.partCmdResult p true).thawPart_spec p
    exact ⟨_, s.partThawed p responds may state, pstate, (fields _ (by decide)).trans (s.get_partCmdResult p true p.isLt).1, event, pairs, sq⟩
  · obtain ⟨result, busy, -, -⟩ := s.commandTaken_spec p p.isLt
    obtain ⟨parts, hq, sq, -, fields⟩ := ((s.commandTaken p).updPart p fun x => { x with pstate := .draining }).tellStandby_spec (.pstate p .draining)
    refine ⟨_, s.partDrained p responds may state, ?_, (fields _ (by decide)).trans busy, (fields _ (by decide)).trans result, hq, sq⟩
    rw [State.part, parts]
    exact congrArg Part.pstate ((s.commandTaken p).part_updPart_same p fun x => { x with pstate := .draining })
  · obtain ⟨refused, shown, only⟩ := s.get_partCmdResult p false p.isLt
    obtain ⟨accepted, shown', only'⟩ := s.get_partCmdResult p true p.isLt
    exact ⟨_, _, refused, only, shown, accepted, only', shown', s.partIgnored p responds⟩
  · refine ⟨?_, ?_, ?_⟩
    · show execPartCmdFreeze p s = _; unfold execPartCmdFreeze; rw [silent]; rfl
    · show execPartCmdThaw p s = _; unfold execPartCmdThaw; rw [silent]; rfl
    · show execPartCmdDrain p s = _; unfold execPartCmdDrain; rw [silent]; rfl
  · show execFreezeComplete p s = _
    unfold execFreezeComplete
    rw [if_neg]
    rintro ⟨freezes, quiet⟩
    rcases idle with idle | idle
    · rw [idle] at freezes; exact nomatch freezes
    · rw [idle] at quiet; exact nomatch quiet
  · show execDrainComplete p s = _
    unfold execDrainComplete
    rw [if_neg]
    rintro ⟨drains, empty, quiet⟩
    rcases idle with idle | idle | idle
    · exact idle drains
    · exact idle empty
    · rw [idle] at quiet; exact nomatch quiet
  · have run : exec (.freezeComplete p) s = execFreezeComplete p s := rfl
    unfold execFreezeComplete at run
    rw [if_pos ⟨freezing, quiet⟩] at run
    obtain ⟨parts, qps, done⟩ := (s.updPart p fun x => { x with freezing := false }).commandDone_spec p
    refine ⟨_, run, ?_, done, qps⟩
    rw [State.part, parts]
    exact s.part_updPart_same p _
  · have run : exec (.drainComplete p) s = execDrainComplete p s := rfl
    unfold execDrainComplete at run
    rw [if_pos ⟨draining, empty, quiet⟩] at run
    obtain ⟨parts, -, -⟩ := ((s.freezePart p).updPart p fun x => { x with freezing := false }).commandDone_spec p
    have part : ((((s.freezePart p).updPart p fun x => { x with freezing := false }).commandDone p).part p) = { (s.freezePart p).part p with freezing := false } := by
      rw [State.part, parts]
      exact (s.freezePart p).part_updPart_same p _
    refine ⟨_, run, ?_, ?_⟩
    · rw [part]; exact (s.freezePart_spec p).1
    · rw [part]
  · intro ok open_
    obtain ⟨t, run, outside, sram, work⟩ := execMpuAccess_writes (data := data) low open_
    exact ⟨t, run, outside, fun all _ => sram all, fun all clear _ => work all clear⟩
  · show execMpuCommitDrain m s = _
    unfold execMpuCommitDrain
    rw [if_pos idle]
  · show execMpuDrainOvertime m s = _
    unfold execMpuDrainOvertime
    rw [if_pos]
    rcases idle with idle | shown | early
    · exact .inl idle
    · exact .inr (.inl (List.contains_iff_mem.2 shown))
    · exact .inr (.inr early)

end Sys2Proof.Machine
end

section
/-! SUPPORT. The links: what traffic and ended commands leave of a link's session and of its registers, and what a link going down leaves (R352-R359). -/
namespace Sys2Proof.Machine

variable {s t u : State}

/-! ## What an ended command leaves of the links -/

theorem State.raise_ln (s : State) (p i : Nat) : (s.raise p i).ln = s.ln := by rw [(s.raise_onlyFields p i).2.2]
theorem State.severity_ln (s : State) (n : Nat) : (s.severity n).ln = s.ln := by rw [(s.severity_spec n).2]

theorem State.haltQp_ln (s : State) (p q e : Nat) : (s.haltQp p q e).ln = s.ln := by
  unfold State.haltQp
  dsimp only
  have told : ∀ v : State, (v.partEvent p 0).ln = v.ln := fun v => by rw [(v.partEvent_spec p 0).2.2]; rfl
  rw [told, State.severity_ln]
  split
  · exact State.raise_ln _ _ _
  · rfl

theorem State.coalesce_ln (s : State) (p q : Nat) : (s.coalesce p q).ln = s.ln := by
  unfold State.coalesce
  dsimp only
  split
  · split
    · rw [State.msixSend_only]; rfl
    · rfl
  · rfl

theorem State.sampleLatency_ln (s : State) (p ns : Nat) : (s.sampleLatency p ns).ln = s.ln := by
  have sampled : ∀ i bin v n, (s.sample 0 i bin v n).ln = s.ln := fun i bin v n => by
    unfold State.sample
    dsimp only
    split
    · rfl
    · split
      · exact State.raise_ln _ _ _
      · rfl
  unfold State.sampleLatency
  dsimp only
  split
  · exact (State.severity_ln _ _).trans (sampled ..)
  · exact sampled ..

theorem State.writeCompletion_ln (s : State) (ok : Option Bool) (c : Cmd) (e : Ending) : (s.writeCompletion ok c e).ln = s.ln := by
  have drawn : (s.writeOutcome ok).2.ln = s.ln := by cases ok <;> rfl
  have settled : ∀ v : State, (v.settleQp c.part c.qp).ln = v.ln := fun v => by rw [(v.settleQp_spec _ _).2]
  unfold State.writeCompletion
  dsimp only
  generalize (s.writeOutcome ok).2 = v at *
  have discarded : v.discardCompletion.ln = s.ln := by
    unfold State.discardCompletion
    rw [State.severity_ln, State.raise_ln]; exact drawn
  have sampled : ∀ w : State, w.ln = s.ln → (match c.fetched with | some t => w.sampleLatency c.part (v.quartz - t) | none => w).ln = s.ln := fun w hw => by
    split
    · exact (State.sampleLatency_ln _ _ _).trans hw
    · exact hw
  have reported : ∀ w : State, w.ln = s.ln → (if (w.qp c.part c.qp).qstate = .active then w.haltQp c.part c.qp 4 else w).ln = s.ln := fun w hw => by
    split
    · exact (w.haltQp_ln _ _ _).trans hw
    · exact hw
  rw [settled]
  split
  · exact discarded
  · exact discarded
  · unfold State.failCompletion State.reportWrite State.reportAer
    dsimp only
    refine reported _ ?_
    split <;> exact drawn
  · split
    · rw [State.coalesce_ln, State.updQp_ln]
      exact sampled _ drawn
    · rw [State.updQp_ln]
      exact sampled _ drawn

theorem State.complete_ln (s : State) (ok : Option Bool) (c : Cmd) (e : Ending) : (s.complete ok c e).ln = s.ln := by
  have told : (if e.status = stFaultDetected ∨ e.status = stRngFailed then s.severity 3 else s).ln = s.ln := by
    split
    · exact State.severity_ln _ _
    · rfl
  have ended : ∀ w : State, (w.abortDone c e).ln = w.ln := fun w => by
    unfold State.abortDone State.settleAbort
    dsimp only
    split <;> split <;> rfl
  unfold State.complete
  dsimp only
  generalize (if e.status = stFaultDetected ∨ e.status = stRngFailed then s.severity 3 else s) = v at *
  rw [ended]
  split
  · exact (State.writeCompletion_ln _ _ _ _).trans told
  · exact (State.writeCompletion_ln _ _ _ _).trans told

/-! ## A link that stands -/

/-- The registers that tell how a link stands. -/
def linkFields (k : Nat) : List Field :=
  [R.FVL_STATE k, R.FVL_DOWN_CAUSE k, R.FVL_PEER_READY k, R.FVL_WRAPPED k, R.FVL_TAG_FAIL k, R.FVL_RETRAINS k, R.FVL_RX_FLITS k,
    R.BLK_ENABLE (pgFVL k)]

/-- What a session has received, and what it receives under. -/
def Link.heard (l : Link) : Link := { l with txKey := [], txCount := 0, lastSent := 0, replay := [] }

/-- `t` has link `k` of `s`: its registers, the interrupts it has raised, what it has received, and where it is closed its whole session. -/
structure LinkStands (k : Nat) (s t : State) : Prop where
  fields : spares (linkFields k) s t
  raw : ∀ i < 32, s.bit (R.BLK_INT_RAW (pgFVL k)) i = true → t.bit (R.BLK_INT_RAW (pgFVL k)) i = true
  heard : (t.link k).heard = (s.link k).heard
  shut : s.linkOpen k = false → t.link k = s.link k

theorem linkFields_state {k : Nat} (h : spares (linkFields k) s t) : t.get (R.FVL_STATE k) = s.get (R.FVL_STATE k) := h _ (by simp [linkFields])
theorem linkFields_open {k : Nat} (h : spares (linkFields k) s t) : t.linkOpen k = s.linkOpen k := by simp only [State.linkOpen, linkFields_state h]
theorem linkFields_up {k : Nat} (h : spares (linkFields k) s t) : t.linkUp k = s.linkUp k := by simp only [State.linkUp, linkFields_state h]

/-- A field off the words of a link's page that tell how it stands. -/
theorem linkFields_apart {k : Nat} {f : Field} (lsb : f.lsb < 32) (h : f.addr ≠ 0x71100 + 0x1000 * k ∧ f.addr ≠ 0x71118 + 0x1000 * k ∧ f.addr ≠ 0x71120 + 0x1000 * k ∧
    f.addr ≠ 0x71008 + 0x1000 * k) :
    apart (linkFields k) f := by
  obtain ⟨state, fails, flits, enable⟩ := h
  intro g hg
  simp only [linkFields, List.mem_cons, List.not_mem_nil, or_false] at hg
  rcases hg with rfl | rfl | rfl | rfl | rfl | rfl | rfl | rfl <;>
    simp only [Field.key, R.FVL_STATE, R.FVL_DOWN_CAUSE, R.FVL_PEER_READY, R.FVL_WRAPPED, R.FVL_TAG_FAIL, R.FVL_RETRAINS, R.FVL_RX_FLITS, R.BLK_ENABLE, pgFVL] <;>
    omega

theorem linkFields_raw (k p : Nat) : apart (linkFields k) (R.BLK_INT_RAW p) :=
  linkFields_apart (by simp [R.BLK_INT_RAW]) (by simp only [R.BLK_INT_RAW]; omega)

theorem linkFields_flits (k j : Nat) : apart (linkFields k) (R.FVL_TX_FLITS j) :=
  linkFields_apart (by simp [R.FVL_TX_FLITS]) (by simp only [R.FVL_TX_FLITS]; omega)

/-- The registers that tell how a link stands, and what it has raised. -/
def linkView (k : Nat) : List Field := R.BLK_INT_RAW (pgFVL k) :: linkFields k

theorem State.link_updLink_ne (s : State) {j k : Nat} (f : Link → Link) (h : j ≠ k) : (s.updLink j f).link k = s.link k := by
  simp [State.link, State.updLink, Sparse.get_upd_ne _ _ _ h]

theorem State.sendFlit_link_ne (s : State) {j k : Nat} (type vc : Nat) (last : Bool) (bs : List Byte) (h : j ≠ k) :
    (s.sendFlit j type vc last bs).link k = s.link k := by
  unfold State.sendFlit
  dsimp only
  split <;> exact State.link_updLink_ne _ _ h

theorem linkView_apart {k : Nat} {f : Field} (raw : f.key ≠ (R.BLK_INT_RAW (pgFVL k)).key) (h : apart (linkFields k) f) : apart (linkView k) f := by
  intro g hg
  rcases List.mem_cons.mp hg with rfl | listed
  · exact raw
  · exact h g listed

theorem answerLink_apart {k : Nat} (hk : k < 8) : ∀ f ∈ answerFields, apart (linkView k) f := by
  intro f hf
  simp only [answerFields, List.mem_cons, List.not_mem_nil, or_false] at hf
  have low : f.addr < 0x71000 ∨ 0x79000 ≤ f.addr := by rcases hf with rfl | rfl | rfl | rfl <;> decide
  have lsb : f.lsb < 32 := by rcases hf with rfl | rfl | rfl | rfl <;> decide
  refine linkView_apart ?_ (linkFields_apart lsb ?_)
  · simp only [Field.key, R.BLK_INT_RAW, pgFVL]; omega
  · omega

theorem flitsLink_apart (k j : Nat) : apart (linkView k) (R.FVL_TX_FLITS j) :=
  linkView_apart (by simp only [Field.key, R.BLK_INT_RAW, R.FVL_TX_FLITS, pgFVL]; omega) (linkFields_flits k j)

namespace LinkStands
variable {k : Nat}

theorem refl : LinkStands k s s := ⟨.refl, fun _ _ h => h, rfl, fun _ => rfl⟩
theorem trans (h : LinkStands k s t) (g : LinkStands k t u) : LinkStands k s u :=
  ⟨h.fields.trans g.fields, fun i hi raised => g.raw i hi (h.raw i hi raised), g.heard.trans h.heard,
    fun shut => (g.shut ((linkFields_open h.fields).trans shut)).trans (h.shut shut)⟩
theorem ite {c : Prop} [Decidable c] (h : LinkStands k s t) (g : LinkStands k s u) : LinkStands k s (if c then t else u) := by split <;> assumption
theorem andIf {c : Prop} [Decidable c] (h : LinkStands k s t) (g : LinkStands k t u) : LinkStands k s (if c then u else t) := (h.trans g).ite h
theorem foldl {α : Type} {f : State → α → State} {xs : List α} (h : LinkStands k s t) (hf : ∀ v a, LinkStands k v (f v a)) : LinkStands k s (xs.foldl f t) :=
  foldl_keeps (LinkStands k s) f (fun v a hv => hv.trans (hf v a)) xs t h

/-- What writes none of the link's registers and no link. -/
theorem of_view (h : spares (linkView k) s t) (ln : t.ln = s.ln) : LinkStands k s t := by
  have link : t.link k = s.link k := by rw [State.link, ln]; rfl
  refine ⟨h.mono fun f hf => List.mem_cons_of_mem _ hf, fun i _ raised => ?_, by rw [link], fun _ => link⟩
  rw [h.bit (List.mem_cons_self ..) i]; exact raised

theorem update (h : LinkStands k s t) (regs : u.regs = t.regs) (ln : u.ln = t.ln) : LinkStands k s u := h.trans (.of_view (.update .refl regs) ln)

theorem set {f : Field} {v : Nat} (h : LinkStands k s t) (off : apart (linkView k) f) : LinkStands k s (t.set f v) := h.trans (.of_view (.set .refl off) rfl)

theorem raise {p i : Nat} (h : LinkStands k s t) : LinkStands k s (t.raise p i) := by
  have link : (t.raise p i).link k = t.link k := by rw [State.link, State.raise_ln]; rfl
  exact h.trans ⟨.raise .refl (linkFields_raw k p), fun j hj raised => State.raise_still hj raised, by rw [link], fun _ => link⟩

theorem severity {n : Nat} (hk : k < 8) (h : LinkStands k s t) : LinkStands k s (t.severity n) :=
  h.trans (.of_view (.severity .refl (answerLink_apart hk _ (by simp [answerFields]))) (t.severity_ln n))

/-- A flit sent on a link leaves another's session, and of its own what it has received. -/
theorem sendFlit {j type vc : Nat} {last : Bool} {bs : List Byte} (h : LinkStands k s t) (opened : t.linkOpen j = true) :
    LinkStands k s (t.sendFlit j type vc last bs) := by
  refine h.trans ?_
  have view : spares (linkView k) t (t.sendFlit j type vc last bs) := .of_keeps .refl (t.sendFlit_keeps j type vc last bs) (by simpa using flitsLink_apart k j)
  have link : (t.sendFlit j type vc last bs).link k = if k = j then (t.sendFlit j type vc last bs).link j else t.link k := by
    split
    next same => rw [same]
    next other => exact t.sendFlit_link_ne _ _ _ _ (Ne.symm other)
  have own : ((t.sendFlit j type vc last bs).link j).heard = (t.link j).heard := by
    have ratcheted : (t.link j).ratchetTx.heard = (t.link j).heard := by unfold Link.ratchetTx; split <;> rfl
    have sent : (t.sendFlit j type vc last bs).link j = { (t.link j).ratchetTx with
        txCount := ((t.sendFlit j type vc last bs).link j).txCount, lastSent := ((t.sendFlit j type vc last bs).link j).lastSent,
        replay := ((t.sendFlit j type vc last bs).link j).replay } := by
      unfold State.sendFlit
      dsimp only
      split <;> simp [State.link, State.updLink]
    rw [← ratcheted, sent]; rfl
  refine ⟨view.mono fun f hf => List.mem_cons_of_mem _ hf, fun i _ raised => ?_, ?_, fun shut => ?_⟩
  · rw [view.bit (List.mem_cons_self ..) i]; exact raised
  · rw [link]
    split
    next same => rw [own, same]
    next => rfl
  · rw [link, if_neg]
    rintro rfl
    rw [opened] at shut
    exact nomatch shut

theorem sendOn {j : Nat} {o : Output} (h : LinkStands k s t) : LinkStands k s (t.sendOn j o) := by
  refine h.trans ?_
  unfold State.sendOn
  dsimp only
  split
  · next carries =>
    have opened : t.linkOpen j = true := by
      simp only [Bool.or_eq_true, Bool.and_eq_true] at carries
      rcases carries with up | ⟨opened, -⟩
      · simp only [State.linkUp] at up
        simp [State.linkOpen, up]
      · exact opened
    refine update (t := List.foldl _ _ _) ?_ rfl rfl
    have sent : ∀ (v : State) (type vc : Nat) (last : Bool) (bs : List Byte), LinkStands k t v ∧ v.linkOpen j = true →
        LinkStands k t (v.sendFlit j type vc last bs) ∧ (v.sendFlit j type vc last bs).linkOpen j = true := fun v type vc last bs hv =>
      ⟨hv.1.sendFlit hv.2, (linkFields_open (.of_keeps .refl (v.sendFlit_keeps j type vc last bs) (by simpa using linkFields_flits j j))).trans hv.2⟩
    exact (foldl_keeps (fun v : State => LinkStands k t v ∧ v.linkOpen j = true) _ (fun v p hv => sent v _ _ _ _ hv) _ (t.cross 28)
      ⟨update .refl rfl rfl, opened⟩).1
  · exact .refl

theorem answer {ok : Option Bool} {c : Cmd} {e : Ending} (hk : k < 8) (h : LinkStands k s t) : LinkStands k s (t.answer ok c e) := by
  refine h.trans ?_
  unfold State.answer
  split
  · exact .sendOn .refl
  · exact .of_view (.complete (answerLink_apart hk) .refl) (t.complete_ln ok c e)

theorem finish {ok : Option Bool} {c : Cmd} {e : Ending} {d : Option Nat} (hk : k < 8) (h : LinkStands k s t) : LinkStands k s (t.finish ok c e d) := by
  unfold State.finish
  split
  · exact h.update rfl rfl
  · exact h.answer hk

theorem releaseHeld {hit : Held → Bool} (hk : k < 8) (h : LinkStands k s t) : LinkStands k s (t.releaseHeld hit) := by
  unfold State.releaseHeld
  exact .foldl (h.update rfl rfl) fun _ _ => .answer hk .refl

theorem outOfSync (hk : k < 8) (h : LinkStands k s t) : LinkStands k s t.outOfSync :=
  .releaseHeld hk (.raise (h.set (linkView_apart (by simp only [Field.key, R.PAIR_SYNC, R.BLK_INT_RAW, pgFVL]; omega)
    (linkFields_apart (by simp [R.PAIR_SYNC]) (by simp only [R.PAIR_SYNC]; omega)))))

theorem dropForwarded {j : Nat} (hk : k < 8) (h : LinkStands k s t) : LinkStands k s (t.dropForwarded j) := by
  unfold State.dropForwarded
  exact .foldl (h.update rfl rfl) fun _ _ => .finish hk .refl

theorem settleTree (h : LinkStands k s t) : LinkStands k s t.settleTree := by
  unfold State.settleTree
  have told : LinkStands k s ((t.set R.FVL0_DT_LOCKED 0).raise (pgFVL 0) 8) :=
    .raise (h.set (linkView_apart (by simp only [Field.key, R.FVL0_DT_LOCKED, R.BLK_INT_RAW, pgFVL]; omega)
      (linkFields_apart (by simp [R.FVL0_DT_LOCKED]) (by simp only [R.FVL0_DT_LOCKED]; omega))))
  generalize (t.set R.FVL0_DT_LOCKED 0).raise (pgFVL 0) 8 = v at *
  exact .ite (told.update rfl rfl) h

theorem tellHolds {j : Nat} (h : LinkStands k s t) : LinkStands k s (t.tellHolds j) := .ite h.sendOn h
theorem askCatchup {j : Nat} (h : LinkStands k s t) : LinkStands k s (t.askCatchup j) := .sendOn (h.update rfl rfl)

end LinkStands

/-! ## A link that goes down (R359, R374) -/

/-- The closed session's registers as a link falls, before what the fall counts. -/
def State.closeLink (s : State) (k cause : Nat) : State :=
  (((s.set (R.FVL_STATE k) 0).set (R.FVL_DOWN_CAUSE k) cause).set (R.FVL_PEER_READY k) 0).updLink k fun l => { refusals := l.refusals }

theorem State.closeLink_get_ne (s : State) (k cause : Nat) {f : Field}
    (h : (R.FVL_STATE k).key ≠ f.key ∧ (R.FVL_DOWN_CAUSE k).key ≠ f.key ∧ (R.FVL_PEER_READY k).key ≠ f.key) : (s.closeLink k cause).get f = s.get f := by
  obtain ⟨state, cause', ready⟩ := h
  unfold State.closeLink
  rw [State.updLink_get, State.get_set_ne _ _ _ _ ready, State.get_set_ne _ _ _ _ cause', State.get_set_ne _ _ _ _ state]

theorem State.closeLink_fields (s : State) (k cause : Nat) : (s.closeLink k cause).get (R.FVL_STATE k) = 0 ∧
    (s.closeLink k cause).get (R.FVL_DOWN_CAUSE k) = cause % 8 ∧ (s.closeLink k cause).get (R.FVL_PEER_READY k) = 0 := by
  unfold State.closeLink
  simp only [State.updLink_get]
  refine ⟨?_, ?_, State.get_set_same ..⟩
  · rw [State.get_set_ne, State.get_set_ne, State.get_set_same]
    · rfl
    all_goals simp only [Field.key, R.FVL_STATE, R.FVL_DOWN_CAUSE, R.FVL_PEER_READY]; omega
  · rw [State.get_set_ne, State.get_set_same]
    · rfl
    · simp only [Field.key, R.FVL_DOWN_CAUSE, R.FVL_PEER_READY]; omega

/-- A session lost is counted and raised. -/
def State.countLost (s : State) (k : Nat) : State := ((s.countSat (R.FVL_RETRAINS k)).raise (pgFVL k) 1).severity 2

theorem State.countLost_get_ne (s : State) {k : Nat} (hk : k < 8) {f : Field} (listed : f ∈ linkFields k) (h : (R.FVL_RETRAINS k).key ≠ f.key) :
    (s.countLost k).get f = s.get f := by
  have view : f ∈ linkView k := List.mem_cons_of_mem _ listed
  unfold State.countLost
  have severe : spares (linkView k) ((s.countSat (R.FVL_RETRAINS k)).raise (pgFVL k) 1) (((s.countSat (R.FVL_RETRAINS k)).raise (pgFVL k) 1).severity 2) :=
    .severity .refl (answerLink_apart hk R.AGT_OPEN_SEV (by simp [answerFields]))
  rw [severe _ view, State.raise_get_ne _ _ _ _ (linkFields_raw k _ _ listed), State.get_countSat_ne _ _ _ _ h]

theorem State.countLost_link (s : State) (k j : Nat) : (s.countLost k).link j = s.link j := by
  unfold State.countLost
  rw [State.link, State.severity_ln, State.raise_ln]; rfl

theorem State.countLost_counts (s : State) {k : Nat} (hk : k < 8) : (s.countLost k).bit (R.BLK_INT_RAW (pgFVL k)) 1 = true ∧
    (s.countLost k).get (R.FVL_RETRAINS k) = satAdd 16 (s.get (R.FVL_RETRAINS k)) 1 ∧
    ∀ i < 32, s.bit (R.BLK_INT_RAW (pgFVL k)) i = true → (s.countLost k).bit (R.BLK_INT_RAW (pgFVL k)) i = true := by
  have listed : R.FVL_RETRAINS k ∈ linkFields k := by simp [linkFields]
  have severe : spares (linkView k) ((s.countSat (R.FVL_RETRAINS k)).raise (pgFVL k) 1) (s.countLost k) :=
    .severity .refl (answerLink_apart hk R.AGT_OPEN_SEV (by simp [answerFields]))
  refine ⟨?_, ?_, fun i hi raised => ?_⟩
  · rw [severe.bit (List.mem_cons_self ..)]
    exact State.raise_bit _ _ (by decide)
  · rw [severe _ (List.mem_cons_of_mem _ listed), State.raise_get_ne _ _ _ _ (linkFields_raw k _ _ listed)]
    exact State.get_set_fits _ (Nat.lt_of_le_of_lt (Nat.min_le_right ..) (Nat.sub_lt (Nat.two_pow_pos _) Nat.one_pos))
  · exact State.severity_still (State.raise_still hi (State.set_still (Ne.symm (linkFields_raw k _ _ listed)) raised))

theorem State.wrapRing_get_ne (s : State) (k : Nat) {f : Field} (listed : f ∈ linkFields k) (h : (R.FVL_WRAPPED k).key ≠ f.key) :
    (s.wrapRing k).get f = s.get f := by
  unfold State.wrapRing
  split
  · rw [State.raise_get_ne _ _ _ _ (linkFields_raw k _ _ listed), State.get_set_ne _ _ _ _ h]
  · rfl

theorem State.wrapRing_still (s : State) (k : Nat) {i : Nat} (hi : i < 32) (raised : s.bit (R.BLK_INT_RAW (pgFVL k)) i = true) :
    (s.wrapRing k).bit (R.BLK_INT_RAW (pgFVL k)) i = true := by
  have listed : R.FVL_WRAPPED k ∈ linkFields k := by simp [linkFields]
  unfold State.wrapRing
  split
  · exact State.raise_still hi (State.set_still (Ne.symm (linkFields_raw k _ _ listed)) raised)
  · exact raised

theorem State.wrapRing_ln (s : State) (k : Nat) : (s.wrapRing k).ln = s.ln := by
  unfold State.wrapRing
  split
  · exact State.raise_ln _ _ _
  · rfl

theorem State.wrapRing_wraps (s : State) {k : Nat} (ring : isRingLink k = true) : (s.wrapRing k).get (R.FVL_WRAPPED k) = 1 := by
  have listed : R.FVL_WRAPPED k ∈ linkFields k := by simp [linkFields]
  unfold State.wrapRing
  split
  · rw [State.raise_get_ne _ _ _ _ (linkFields_raw k _ _ listed), State.get_set_same]; rfl
  next already =>
    have bit : s.get (R.FVL_WRAPPED k) < 2 ^ 1 := Nat.mod_lt _ (Nat.two_pow_pos _)
    have set : s.get (R.FVL_WRAPPED k) ≠ 0 := fun zero => already ⟨ring, zero⟩
    omega

/-- A link's registers and session as it falls, with what the fall of an open one counts. -/
def State.fallen (s : State) (k cause : Nat) : State := if s.linkOpen k then (s.closeLink k cause).countLost k else s.closeLink k cause

/-- After its own registers and session, a link that goes down leaves itself as it stands. -/
theorem State.linkDown_stands (s : State) {k : Nat} (hk : k < 8) (cause : Nat) :
    LinkStands k (if s.linkUp k then (s.fallen k cause).wrapRing k else s.fallen k cause) (s.linkDown k cause) := by
  unfold State.linkDown
  dsimp only
  have base : s.fallen k cause = if s.linkOpen k then (((((s.set (R.FVL_STATE k) 0).set (R.FVL_DOWN_CAUSE k) cause).set (R.FVL_PEER_READY k) 0).updLink k fun l =>
    { refusals := l.refusals }).countSat (R.FVL_RETRAINS k) |>.raise (pgFVL k) 1).severity 2 else
      (((s.set (R.FVL_STATE k) 0).set (R.FVL_DOWN_CAUSE k) cause).set (R.FVL_PEER_READY k) 0).updLink k fun l => { refusals := l.refusals } := rfl
  rw [← base]
  generalize (if s.linkUp k then (s.fallen k cause).wrapRing k else s.fallen k cause) = c
  have synced : LinkStands k c (if s.linkOpen k ∧ isPartnerLink k ∧ ¬ c.linkOpen (1 - k) ∧ c.get R.PAIR_ROLE = 1 ∧ (c.get R.PAIR_SYNC = 1 ∨ c.get R.PAIR_SYNC = 2)
      then c.outOfSync else c) := .andIf .refl (.outOfSync hk .refl)
  exact .settleTree (.andIf synced (.dropForwarded hk .refl))

/-- What a link that goes down leaves of it. -/
structure LinkFallen (k cause : Nat) (s t : State) : Prop where
  state : t.get (R.FVL_STATE k) = 0
  cause : t.get (R.FVL_DOWN_CAUSE k) = cause % 8
  ready : t.get (R.FVL_PEER_READY k) = 0
  session : t.link k = { refusals := (s.link k).refusals }
  fails : t.get (R.FVL_TAG_FAIL k) = s.get (R.FVL_TAG_FAIL k)
  enable : t.get (R.BLK_ENABLE (pgFVL k)) = s.get (R.BLK_ENABLE (pgFVL k))
  raw : ∀ i < 32, s.bit (R.BLK_INT_RAW (pgFVL k)) i = true → t.bit (R.BLK_INT_RAW (pgFVL k)) i = true
  lost : s.linkOpen k = true → t.bit (R.BLK_INT_RAW (pgFVL k)) 1 = true ∧ t.get (R.FVL_RETRAINS k) = satAdd 16 (s.get (R.FVL_RETRAINS k)) 1

/-- What leaves a fallen link standing leaves it fallen. -/
theorem LinkFallen.stands {k cause : Nat} (h : LinkFallen k cause s t) (g : LinkStands k t u) : LinkFallen k cause s u := by
  have field : ∀ f ∈ linkFields k, u.get f = t.get f := g.fields
  have shut : t.linkOpen k = false := by simp [State.linkOpen, h.state]
  refine ⟨(field _ (by simp [linkFields])).trans h.state, (field _ (by simp [linkFields])).trans h.cause, (field _ (by simp [linkFields])).trans h.ready,
    (g.shut shut).trans h.session, (field _ (by simp [linkFields])).trans h.fails, (field _ (by simp [linkFields])).trans h.enable, fun i hi raised => g.raw i hi (h.raw i hi raised), fun opened => ?_⟩
  obtain ⟨raised, counted⟩ := h.lost opened
  exact ⟨g.raw 1 (by decide) raised, (field _ (by simp [linkFields])).trans counted⟩

theorem LinkFallen.wrapRing {k cause : Nat} (h : LinkFallen k cause s t) : LinkFallen k cause s (t.wrapRing k) := by
  have field : ∀ f ∈ linkFields k, (R.FVL_WRAPPED k).key ≠ f.key → (t.wrapRing k).get f = t.get f := fun f hf => t.wrapRing_get_ne k hf
  have session : (t.wrapRing k).link k = t.link k := by rw [State.link, t.wrapRing_ln]; rfl
  refine ⟨(field _ (by simp [linkFields]) ?_).trans h.state, (field _ (by simp [linkFields]) ?_).trans h.cause, (field _ (by simp [linkFields]) ?_).trans h.ready,
    session.trans h.session, (field _ (by simp [linkFields]) ?_).trans h.fails,
    (field _ (by simp [linkFields]) ?_).trans h.enable, fun i hi raised => t.wrapRing_still k hi (h.raw i hi raised), fun opened => ?_⟩
  case refine_6 =>
    obtain ⟨raised, counted⟩ := h.lost opened
    refine ⟨t.wrapRing_still k (by decide) raised, (field _ (by simp [linkFields]) ?_).trans counted⟩
    simp only [Field.key, R.FVL_WRAPPED, R.FVL_RETRAINS]; omega
  all_goals simp only [Field.key, R.FVL_WRAPPED, R.FVL_STATE, R.FVL_DOWN_CAUSE, R.FVL_PEER_READY, R.FVL_TAG_FAIL, R.BLK_ENABLE, pgFVL]; omega

theorem State.fallen_spec (s : State) {k : Nat} (hk : k < 8) (cause : Nat) : LinkFallen k cause s (s.fallen k cause) := by
  obtain ⟨state, why, ready⟩ := s.closeLink_fields k cause
  have session : (s.closeLink k cause).link k = { refusals := (s.link k).refusals } := State.link_updLink_same ..
  have fails : (s.closeLink k cause).get (R.FVL_TAG_FAIL k) = s.get (R.FVL_TAG_FAIL k) := by
    refine State.closeLink_get_ne _ _ _ ?_
    simp only [Field.key, R.FVL_STATE, R.FVL_DOWN_CAUSE, R.FVL_PEER_READY, R.FVL_TAG_FAIL]; omega
  have enable : (s.closeLink k cause).get (R.BLK_ENABLE (pgFVL k)) = s.get (R.BLK_ENABLE (pgFVL k)) := by
    refine State.closeLink_get_ne _ _ _ ?_
    simp only [Field.key, R.FVL_STATE, R.FVL_DOWN_CAUSE, R.FVL_PEER_READY, R.BLK_ENABLE, pgFVL]; omega
  have retrains : (s.closeLink k cause).get (R.FVL_RETRAINS k) = s.get (R.FVL_RETRAINS k) := by
    refine State.closeLink_get_ne _ _ _ ?_
    simp only [Field.key, R.FVL_STATE, R.FVL_DOWN_CAUSE, R.FVL_PEER_READY, R.FVL_RETRAINS]; omega
  have raw : ∀ i < 32, s.bit (R.BLK_INT_RAW (pgFVL k)) i = true → (s.closeLink k cause).bit (R.BLK_INT_RAW (pgFVL k)) i = true := fun i _ raised => by
    rw [State.bit, State.closeLink_get_ne]
    · exact raised
    · simp only [Field.key, R.FVL_STATE, R.FVL_DOWN_CAUSE, R.FVL_PEER_READY, R.BLK_INT_RAW, pgFVL]; omega
  unfold State.fallen
  split
  · have field := fun {f : Field} => (s.closeLink k cause).countLost_get_ne (f := f) hk
    obtain ⟨raised, counted, still⟩ := (s.closeLink k cause).countLost_counts hk
    refine ⟨(field (by simp [linkFields]) ?_).trans state, (field (by simp [linkFields]) ?_).trans why, (field (by simp [linkFields]) ?_).trans ready,
      (State.countLost_link ..).trans session, (field (by simp [linkFields]) ?_).trans fails,
      (field (by simp [linkFields]) ?_).trans enable, fun i hi set => still i hi (raw i hi set),
      fun _ => ⟨raised, by rw [counted, retrains]⟩⟩
    all_goals simp only [Field.key, R.FVL_RETRAINS, R.FVL_STATE, R.FVL_DOWN_CAUSE, R.FVL_PEER_READY, R.FVL_TAG_FAIL, R.BLK_ENABLE, pgFVL]; omega
  next closed => exact ⟨state, why, ready, session, fails, enable, raw, fun opened => absurd opened closed⟩

/-- A link goes down: its registers and session say so. -/
theorem State.linkDown_spec (s : State) {k : Nat} (hk : k < 8) (cause : Nat) : LinkFallen k cause s (s.linkDown k cause) := by
  refine LinkFallen.stands ?_ (s.linkDown_stands hk cause)
  split
  · exact (s.fallen_spec hk cause).wrapRing
  · exact s.fallen_spec hk cause

/-- A ring link that was UP is wrapped as it goes down (R374). -/
theorem State.linkDown_wraps (s : State) {k : Nat} (hk : k < 8) (cause : Nat) (up : s.linkUp k = true) (ring : isRingLink k = true) :
    (s.linkDown k cause).get (R.FVL_WRAPPED k) = 1 := by
  rw [(s.linkDown_stands hk cause).fields _ (by simp [linkFields]), if_pos up, State.wrapRing_wraps _ ring]

/-! ## A link's STATE as its two ends stand (Table 15.3) -/

/-- `t` has of link `k` of `s` what it tells of its two ends, and what it has received. -/
structure LinkTold (k : Nat) (s t : State) : Prop where
  fields : spares [R.FVL_STATE k, R.FVL_PEER_READY k, R.FVL_RX_FLITS k] s t
  heard : (t.link k).heard = (s.link k).heard

namespace LinkTold
variable {k : Nat}

theorem refl : LinkTold k s s := ⟨.refl, rfl⟩
theorem trans (h : LinkTold k s t) (g : LinkTold k t u) : LinkTold k s u := ⟨h.fields.trans g.fields, g.heard.trans h.heard⟩
theorem ite {c : Prop} [Decidable c] (h : LinkTold k s t) (g : LinkTold k s u) : LinkTold k s (if c then t else u) := by split <;> assumption
theorem andIf {c : Prop} [Decidable c] (h : LinkTold k s t) (g : LinkTold k t u) : LinkTold k s (if c then u else t) := (h.trans g).ite h
theorem of_stands (h : LinkStands k s t) : LinkTold k s t :=
  ⟨h.fields.mono fun f hf => by simp only [List.mem_cons, List.not_mem_nil, or_false] at hf; rcases hf with rfl | rfl | rfl <;> simp [linkFields], h.heard⟩

/-- WRAPPED written and its interrupt raised. -/
theorem wraps {v i : Nat} (h : LinkTold k s t) : LinkTold k s ((t.set (R.FVL_WRAPPED k) v).raise (pgFVL k) i) := by
  refine h.trans (.trans ⟨.set .refl ?_, rfl⟩ (.of_stands (.raise .refl)))
  intro g hg
  simp only [List.mem_cons, List.not_mem_nil, or_false] at hg
  rcases hg with rfl | rfl | rfl <;> simp only [Field.key, R.FVL_WRAPPED, R.FVL_STATE, R.FVL_PEER_READY, R.FVL_RX_FLITS] <;> omega

end LinkTold

/-- An open link's STATE follows what both ends say; of what it has received nothing changes. -/
theorem State.settleLink_spec (s : State) {k : Nat} (opened : s.linkOpen k = true) :
    LinkTold k (s.set (R.FVL_STATE k) (if s.linkReady = true ∧ s.get (R.FVL_PEER_READY k) = 1 then 4 else 3)) (s.settleLink k) := by
  have state : s.get (R.FVL_STATE k) = 3 ∨ s.get (R.FVL_STATE k) = 4 := by simpa [State.linkOpen] using opened
  have told : ∀ v : State, LinkTold k v ((v.raise (pgFVL k) 0).tellHolds k) := fun v => .of_stands (.tellHolds (.raise .refl))
  have asked : ∀ v : State, LinkTold k v (v.askCatchup k) := fun v => .of_stands (.askCatchup .refl)
  have wrapped : ∀ v : State, LinkTold k v (v.wrapRing k) := fun v => .ite (.wraps .refl) .refl
  have settled : ∀ v : State, LinkTold k v v.settleTree := fun v => .of_stands (.settleTree .refl)
  have both : (s.linkReady && s.get (R.FVL_PEER_READY k) == 1) = decide (s.linkReady = true ∧ s.get (R.FVL_PEER_READY k) = 1) := by
    rw [Bool.eq_iff_iff]; simp
  unfold State.settleLink
  dsimp only
  rw [if_pos state, both]
  simp only [decide_eq_true_eq]
  refine .ite (.trans ?_ ((wrapped _).trans (settled _))) ?_ <;>
    exact .andIf (.andIf (.andIf .refl (told _)) (asked _)) (.wraps .refl)

end Sys2Proof.Machine
end

section
/-! SUPPORT. Flits sealed and read, and what a peer's message makes a member send (R355-R357, R361, R368, R372). -/
namespace Sys2Proof.Machine

variable {s t u : State}

/-! ## Flits (Table 15.2) -/

/-- Counter mode over 242 bytes gives 242. -/
theorem ctrMode_payload_length {key ctr bs : List Byte} {w : Nat} (hk : 4 ≤ key.length) (h : bs.length = 242) : (ctrMode key ctr w bs).length = 242 := by
  have block : ∀ b ∈ chunks 16 bs, b.length ≤ 16 := fun b hb => by
    obtain ⟨i, -, rfl⟩ := List.mem_map.1 hb
    simp only [List.length_take]; omega
  have lengths : ((chunks 16 bs).mapIdx fun i b => xorBytes b (aesEncrypt key (ctrAdd w i ctr))).map List.length = (chunks 16 bs).map List.length := by
    refine List.ext_getElem (by simp) fun i hi _ => ?_
    simp only [List.getElem_map, List.getElem_mapIdx, xorBytes_length, aesEncrypt_length _ _ hk]
    exact Nat.min_eq_left (block _ (List.getElem_mem _))
  have parts : (chunks 16 bs).map List.length = (List.range 16).map fun i => min 16 (242 - 16 * i) := by
    unfold chunks
    rw [List.map_map, h]
    refine List.map_congr_left fun i _ => ?_
    simp [h]
  unfold ctrMode ctrModeBy
  rw [List.length_flatten, lengths, parts]
  decide

theorem flitHdr_length (type vc : Nat) (last : Bool) : (flitHdr type vc last).length = 2 := leBytes_length ..

theorem flitCrypt_length {key salt payload : List Byte} {n : Nat} (hk : 4 ≤ key.length) : (flitCrypt key salt n payload).length = 242 :=
  ctrMode_payload_length hk (fitBytes_length ..)

theorem beBytes_length (n v : Nat) : (beBytes n v).length = n := by rw [beBytes, List.length_reverse, leBytes_length]

theorem ghash_length (h acc bs : List Byte) (start : acc.length = 16) : (ghash h acc bs).length = 16 :=
  List.foldlRecOn (chunks 16 bs) _ (motive := fun a : List Byte => a.length = 16) start fun _ _ _ _ => beBytes_length ..

theorem flitTag_length {key salt hdr payload : List Byte} {n : Nat} (hk : 4 ≤ key.length) : (flitTag key salt n hdr payload).length = 12 := by
  unfold flitTag
  simp [xorBytes_length, ghash_length, aesEncrypt_length _ _ hk, zeros]

theorem slice_append_exact {as bs cs : List Byte} {a n : Nat} (ha : as.length = a) (hb : bs.length = n) : slice a n (as ++ (bs ++ cs)) = bs := by
  unfold slice fitBytes
  rw [← ha, List.drop_left, List.append_assoc, ← hb, List.take_left]

/-- A sealed flit is 256 bytes, reads as what it was sealed with, and carries its tag (R355-R357). -/
theorem sealFlit_reads {key : List Byte} (salt payload : List Byte) (n type : Nat) (hk : key.length = 32) (ht : type < 16) :
    (sealFlit key salt n (flitHdr type 0 true) payload).length = 256 ∧ flitType (sealFlit key salt n (flitHdr type 0 true) payload) = type ∧
      flitOk key salt n (sealFlit key salt n (flitHdr type 0 true) payload) = true := by
  have four : 4 ≤ key.length := by omega
  have hdr := flitHdr_length type 0 true
  have crypt := flitCrypt_length (salt := salt) (payload := payload) (n := n) four
  have tag := flitTag_length (salt := salt) (n := n) (hdr := flitHdr type 0 true) (payload := flitCrypt key salt n payload) four
  have kind : leNat (flitHdr type 0 true) = type % 16 + 64 := by
    rw [flitHdr, leNat_leBytes]
    simp only [b2n, if_true]
    omega
  unfold sealFlit
  dsimp only
  generalize flitHdr type 0 true = h at *
  generalize flitCrypt key salt n payload = c at *
  generalize tagged : flitTag key salt n h c = g at *
  refine ⟨by simp [hdr, crypt, tag], ?_, ?_⟩
  · rw [flitType, numAt, List.append_assoc]
    have read : slice 0 2 (h ++ (c ++ g)) = h := slice_append_exact (as := []) rfl hdr
    rw [read, kind]
    omega
  · unfold flitOk
    have body : slice 2 242 (h ++ c ++ g) = c := by rw [List.append_assoc]; exact slice_append_exact hdr crypt
    have sealed_ : slice 244 12 (h ++ c ++ g) = g := by
      have read : slice 244 12 (h ++ c ++ (g ++ [])) = g := slice_append_exact (by simp [hdr, crypt]) tag
      rwa [List.append_nil] at read
    have head : (h ++ c ++ g).take 2 = h := by rw [List.append_assoc, ← hdr, List.take_left]
    rw [body, sealed_, head, tagged]
    exact beq_self_eq_true _

/-! ## Messages sent -/

/-- What `s` has sent stands in `t`, with link `k` UP where it was. -/
structure Talks (k : Nat) (s t : State) : Prop where
  up : s.linkUp k = true → t.linkUp k = true
  out : ∀ o ∈ s.out, o ∈ t.out

namespace Talks
variable {k : Nat}

theorem refl : Talks k s s := ⟨id, fun _ h => h⟩
theorem trans (h : Talks k s t) (g : Talks k t u) : Talks k s u := ⟨fun up => g.up (h.up up), fun o ho => g.out o (h.out o ho)⟩
theorem foldl {α : Type} {f : State → α → State} {xs : List α} (h : Talks k s t) (hf : ∀ v a, Talks k v (f v a)) : Talks k s (xs.foldl f t) :=
  foldl_keeps (Talks k s) f (fun v a hv => hv.trans (hf v a)) xs t h

/-- What sends nothing and leaves the link's STATE. -/
theorem quiet (state : t.get (R.FVL_STATE k) = s.get (R.FVL_STATE k)) (out : t.out = s.out) : Talks k s t :=
  ⟨fun up => by rw [State.linkUp, state]; exact up, fun o ho => by rw [out]; exact ho⟩

theorem sendFlit {j type vc : Nat} {last : Bool} {bs : List Byte} (h : Talks k s t) : Talks k s (t.sendFlit j type vc last bs) := by
  refine h.trans ⟨fun up => ?_, fun o ho => ?_⟩
  · rw [State.linkUp, t.sendFlit_keeps j type vc last bs _ (by simpa using linkFields_flits k j _ (by simp [linkFields]))]
    exact up
  · unfold State.sendFlit
    dsimp only
    split <;> exact List.mem_append_left _ ho

theorem sendOn {j : Nat} {o : Output} (h : Talks k s t) : Talks k s (t.sendOn j o) := by
  refine h.trans ?_
  unfold State.sendOn
  dsimp only
  split
  · have sent : ∀ (v : State), Talks k t v → Talks k t (v.emit o) := fun v hv => hv.trans ⟨id, fun _ ho => List.mem_append_left _ ho⟩
    exact sent _ (.foldl (quiet rfl rfl) fun _ _ => .sendFlit .refl)
  · exact .refl

end Talks

/-- A message on a link that is UP goes out. -/
theorem State.sendOn_says {k : Nat} (o : Output) (up : s.linkUp k = true) : o ∈ (s.sendOn k o).out := by
  unfold State.sendOn
  dsimp only
  rw [if_pos (by simp [up])]
  exact List.mem_append_right _ (List.mem_singleton_self o)

/-- Of messages sent one after another on a link that is UP, each goes out. -/
theorem foldl_sendOn_says {α : Type} {k : Nat} (f : α → Output) {xs : List α} {x : α} (hx : x ∈ xs) (up : s.linkUp k = true) :
    f x ∈ (xs.foldl (fun s x => s.sendOn k (f x)) s).out := by
  induction xs generalizing s with
  | nil => exact nomatch hx
  | cons y ys ih =>
    have sent : Talks k s (s.sendOn k (f y)) := .sendOn .refl
    rcases List.mem_cons.mp hx with rfl | later
    · have rest : Talks k (s.sendOn k (f x)) (ys.foldl (fun s x => s.sendOn k (f x)) (s.sendOn k (f x))) := .foldl .refl fun _ _ => .sendOn .refl
      exact rest.out _ (s.sendOn_says _ up)
    · exact ih later (sent.up up)

theorem talks_sends {α : Type} {k : Nat} (f : α → Output) (xs : List α) (s : State) : Talks k s (xs.foldl (fun s x => s.sendOn k (f x)) s) :=
  .foldl .refl fun _ _ => .sendOn .refl

end Sys2Proof.Machine
end

section
/-! SUPPORT. The instructions of the links: training, handshakes, flits and what they carry, silence, ratchets and resets (R354-R359, R378, R379). -/
namespace Sys2Proof.Machine

variable {s t u : State}

/-! ## Training and handshakes (R354, R358) -/

theorem execLinkTrained_hello {k : Fin 8} (low : s.get (R.FVL_STATE k) ≤ 1) (on : s.get (R.BLK_ENABLE (pgFVL k)) = 1) (power : s.domainOn (28 + k.val / 2) = true)
    (run : s.inReset = false) :
    let scalar := (List.range 64).map fun i => Config.randByte (s.randoms + i)
    let nonce := (List.range 32).map fun i => Config.randByte (s.randoms + 64 + i)
    ∃ t, exec (.linkTrained k) s = .next t ∧ t.get (R.FVL_STATE k) = 2 ∧ t.link k = { s.link k with ephemeral := scalar, nonce } ∧
      (∀ j, j ≠ k.val → t.link j = s.link j) ∧
      t.out = s.out ++ [.hello k (curveP384.encode false (curveP384.mul (curveP384.scalar scalar) (some curveP384.g))) (Config.linkEncaps k nonce)
        Config.serial.toNat (s.get R.FVL0_MEMBER_NO) nonce] ∧ keeps [R.FVL_STATE k] s t ∧
      t = { s with regs := t.regs, ln := t.ln, out := t.out, randoms := s.randoms + 96 } := by
  intro scalar nonce
  let v : State := ({ s with randoms := s.randoms + 96 }.set (R.FVL_STATE k) 2).updLink k fun l => { l with ephemeral := scalar, nonce }
  have field : ∀ f, v.get f = (s.set (R.FVL_STATE k) 2).get f := fun _ => rfl
  have number : v.get R.FVL0_MEMBER_NO = s.get R.FVL0_MEMBER_NO := by
    rw [field, State.get_set_ne]
    simp only [Field.key, R.FVL_STATE, R.FVL0_MEMBER_NO]; omega
  refine ⟨v.emit (.hello k (ephemeralPoint scalar) (Config.linkEncaps k nonce) Config.serial.toNat (v.get R.FVL0_MEMBER_NO) nonce), ?_,
    (field _).trans (State.get_set_same ..), State.link_updLink_same .., fun j other => State.link_updLink_ne _ _ (Ne.symm other), ?_,
    fun f hf => (field f).trans (keeps_set s _ 2 f hf), rfl⟩
  · show execLinkTrained k s = _
    unfold execLinkTrained
    rw [if_pos ⟨low, on, power, by simp [run]⟩]
    rfl
  · rw [number]; rfl

/-- This end's proof goes out; random bytes are drawn. -/
theorem State.sendProof_eq (s : State) (k : Nat) (h : Hello) : ∃ ecdsa mldsa, s.sendProof k h =
    ({ s with randoms := s.randoms + 96 }).emit (.proof k ecdsa mldsa (if isPartnerLink k || !s.enrolled then [] else cmac 0 s.dm.secret (s.transcript k h))) :=
  ⟨_, _, rfl⟩

/-- The registers an opened session writes. -/
def State.nameLink (s : State) (k : Nat) (h : Hello) : State :=
  ((((s.set (R.FVL_PEER_SN_LO k) h.peer.toNat).set (R.FVL_PEER_SN_HI k) (h.peer.toNat / 2 ^ 32)).set (R.FVL_PEER_MEMBER k) h.member).set (R.FVL_STATE k) 3).set
    (R.FVL_DOWN_CAUSE k) 0

theorem State.nameLink_fields (s : State) (k : Nat) (h : Hello) :
    (s.nameLink k h).get (R.FVL_STATE k) = 3 ∧ (s.nameLink k h).get (R.FVL_DOWN_CAUSE k) = 0 ∧ (s.nameLink k h).get (R.FVL_PEER_SN_LO k) = h.peer.toNat % 2 ^ 32 ∧
      (s.nameLink k h).get (R.FVL_PEER_SN_HI k) = h.peer.toNat / 2 ^ 32 ∧ (s.nameLink k h).get (R.FVL_PEER_MEMBER k) = h.member.val ∧
      onlyFields [R.FVL_STATE k, R.FVL_DOWN_CAUSE k, R.FVL_PEER_SN_LO k, R.FVL_PEER_SN_HI k, R.FVL_PEER_MEMBER k] s (s.nameLink k h) := by
  have wide : h.peer.toNat / 2 ^ 32 < 2 ^ 32 := by have := h.peer.isLt; omega
  unfold State.nameLink
  refine ⟨?_, State.get_set_same .., ?_, ?_, ?_, ?_⟩
  · rw [State.get_set_ne, State.get_set_same]
    · rfl
    · simp only [Field.key, R.FVL_STATE, R.FVL_DOWN_CAUSE]; omega
  · rw [State.get_set_ne, State.get_set_ne, State.get_set_ne, State.get_set_ne, State.get_set_same]
    · rfl
    all_goals simp only [Field.key, R.FVL_STATE, R.FVL_DOWN_CAUSE, R.FVL_PEER_SN_LO, R.FVL_PEER_SN_HI, R.FVL_PEER_MEMBER]; omega
  · rw [State.get_set_ne, State.get_set_ne, State.get_set_ne, State.get_set_fits _ wide]
    all_goals simp only [Field.key, R.FVL_STATE, R.FVL_DOWN_CAUSE, R.FVL_PEER_SN_HI, R.FVL_PEER_MEMBER]; omega
  · rw [State.get_set_ne, State.get_set_ne, State.get_set_fits _ h.member.isLt]
    all_goals simp only [Field.key, R.FVL_STATE, R.FVL_DOWN_CAUSE, R.FVL_PEER_MEMBER]; omega
  · refine onlyFields_mono (onlyFields_trans (onlyFields_trans (onlyFields_trans (onlyFields_trans (onlyFields_set _ _ _) (onlyFields_set _ _ _)) (onlyFields_set _ _ _))
      (onlyFields_set _ _ _)) (onlyFields_set _ _ _)) fun f hf => ?_
    simp only [List.mem_append, List.mem_cons, List.not_mem_nil, or_false] at hf ⊢
    tauto

theorem execHandshake_opens {k : Fin 8} {h : Hello} (waits : s.get (R.FVL_STATE k) = 2) (ok : s.authorises k h = true) :
    ∃ t, exec (.handshake k h) s = .next t ∧ t.get (R.FVL_STATE k) = 3 ∧ t.get (R.FVL_DOWN_CAUSE k) = 0 ∧
      t.get (R.FVL_PEER_SN_LO k) = h.peer.toNat % 2 ^ 32 ∧ t.get (R.FVL_PEER_SN_HI k) = h.peer.toNat / 2 ^ 32 ∧
      t.get (R.FVL_PEER_MEMBER k) = h.member.val ∧ (t.link k).txCount = 0 ∧ (t.link k).rxCount = 0 ∧ (t.link k).lastFlit = s.quartz ∧
      (t.link k).txKey = linkSecret 0 h.shared (if isPartnerLink k then [] else s.dm.secret) ∧
      (t.link k).rxKey = linkSecret 1 h.shared (if isPartnerLink k then [] else s.dm.secret) ∧
      (t.link k).txSalt = (linkSecret 2 h.shared (if isPartnerLink k then [] else s.dm.secret)).take 4 ∧
      (t.link k).rxSalt = (linkSecret 3 h.shared (if isPartnerLink k then [] else s.dm.secret)).take 4 ∧ (∀ j, j ≠ k.val → t.link j = s.link j) ∧
      (∃ ecdsa mldsa, t.out = s.out ++ [.proof k ecdsa mldsa (if isPartnerLink k || !s.enrolled then [] else cmac 0 s.dm.secret (s.transcript k h))]) ∧
      onlyFields [R.FVL_STATE k, R.FVL_DOWN_CAUSE k, R.FVL_PEER_SN_LO k, R.FVL_PEER_SN_HI k, R.FVL_PEER_MEMBER k] s
        { t with ln := s.ln, out := s.out, randoms := s.randoms } := by
  obtain ⟨ecdsa, mldsa, proved⟩ := s.sendProof_eq k h
  have allowed : (s.sendProof k h).authorises k h = true := by rw [proved]; exact ok
  let v := (s.sendProof k h).updLink k fun l =>
    { txKey := linkSecret 0 h.shared (if isPartnerLink k then [] else s.dm.secret), rxKey := linkSecret 1 h.shared (if isPartnerLink k then [] else s.dm.secret),
      txSalt := (linkSecret 2 h.shared (if isPartnerLink k then [] else s.dm.secret)).take 4,
      rxSalt := (linkSecret 3 h.shared (if isPartnerLink k then [] else s.dm.secret)).take 4, lastFlit := s.quartz, lastSent := s.quartz, refusals := l.refusals }
  have link : (v.nameLink k h).link k = v.link k := rfl
  have own : v.link k = _ := State.link_updLink_same ..
  obtain ⟨state, cause, low, high, member, only⟩ := v.nameLink_fields k h
  refine ⟨v.nameLink k h, ?_, state, cause, low, high, member, ?_, ?_, ?_, ?_, ?_, ?_, ?_, fun j other => ?_, ⟨ecdsa, mldsa, ?_⟩, ?_⟩
  · show execHandshake k h s = _
    unfold execHandshake
    dsimp only
    rw [if_neg (by simp [waits]), if_pos allowed]
    rfl
  iterate 7 rw [link, own]
  · have others : v.link j = (s.sendProof k h).link j := State.link_updLink_ne _ _ (Ne.symm other)
    exact others.trans (by rw [proved]; rfl)
  · have out : (v.nameLink k h).out = (s.sendProof k h).out := rfl
    rw [out, proved]; rfl
  · obtain ⟨fields, -, -⟩ := only
    have regs : v.regs = s.regs := rfl
    refine ⟨fun f hf => (fields f hf).trans ?_, sentMsix_of_out rfl, rfl⟩
    rw [State.get, regs, ← State.get]

theorem execHandshake_refuses {k : Fin 8} {h : Hello} (waits : s.get (R.FVL_STATE k) = 2) (ok : s.authorises k h = false) :
    let recent := ((s.link k).refusals ++ [s.quartz]).filter fun t => s.quartz < t + 10000000000
    ∃ t, exec (.handshake k h) s = .next t ∧ t.get (R.FVL_STATE k) = (if 3 ≤ recent.length then 5 else 0) ∧ t.get (R.FVL_DOWN_CAUSE k) = 4 ∧
      (t.link k).refusals = recent ∧ raised (pgFVL k) [3] s t ∧ (∃ ecdsa mldsa proof, .proof k ecdsa mldsa proof ∈ t.out) ∧
      onlyFields [R.FVL_STATE k, R.FVL_DOWN_CAUSE k, R.BLK_INT_RAW (pgFVL k)] s { t with ln := s.ln, out := s.out, randoms := s.randoms } := by
  intro recent
  obtain ⟨ecdsa, mldsa, proved⟩ := s.sendProof_eq k h
  have refused : (s.sendProof k h).authorises k h = false := by rw [proved]; exact ok
  let v := (s.sendProof k h).updLink k fun l => { l with refusals := recent }
  have listed : R.FVL_STATE k ∈ linkFields k ∧ R.FVL_DOWN_CAUSE k ∈ linkFields k := by simp [linkFields]
  obtain ⟨state, cause⟩ := listed
  have rest : onlyFields [R.BLK_INT_RAW (pgFVL k), R.FVL_STATE k, R.FVL_DOWN_CAUSE k] v
      (((v.raise (pgFVL k) 3).set (R.FVL_STATE k) (if 3 ≤ recent.length then 5 else 0)).set (R.FVL_DOWN_CAUSE k) 4) :=
    onlyFields_trans (onlyFields_trans (State.raise_onlyFields v _ _) (onlyFields_set _ _ _)) (onlyFields_set _ _ _)
  refine ⟨((v.raise (pgFVL k) 3).set (R.FVL_STATE k) (if 3 ≤ recent.length then 5 else 0)).set (R.FVL_DOWN_CAUSE k) 4, ?_, ?_, State.get_set_same .., ?_, ?_, ?_, ?_⟩
  · show execHandshake k h s = _
    unfold execHandshake
    dsimp only
    rw [if_neg (by simp [waits]), if_neg (by simp [refused])]
    rfl
  · rw [State.get_set_ne _ _ _ _ (by simp only [Field.key, R.FVL_STATE, R.FVL_DOWN_CAUSE]; omega), State.get_set_same]
    split <;> rfl
  · have link : (((v.raise (pgFVL k) 3).set (R.FVL_STATE k) (if 3 ≤ recent.length then 5 else 0)).set (R.FVL_DOWN_CAUSE k) 4).link k = v.link k := by
      rw [State.link, State.set_ln, State.set_ln, State.raise_ln]; rfl
    rw [link]
    exact congrArg Link.refusals (State.link_updLink_same ..)
  · intro j hj
    have raw : (((v.raise (pgFVL k) 3).set (R.FVL_STATE k) (if 3 ≤ recent.length then 5 else 0)).set (R.FVL_DOWN_CAUSE k) 4).get (R.BLK_INT_RAW (pgFVL k)) =
        (v.raise (pgFVL k) 3).get (R.BLK_INT_RAW (pgFVL k)) := by
      rw [State.get_set_ne _ _ _ _ (Ne.symm (linkFields_raw k _ _ cause)), State.get_set_ne _ _ _ _ (Ne.symm (linkFields_raw k _ _ state))]
    rw [State.bit, raw, ← State.bit]
    exact v.raise_raised (pgFVL k) 3 j hj
  · refine ⟨ecdsa, mldsa, if isPartnerLink k || !s.enrolled then [] else cmac 0 s.dm.secret (s.transcript k h), ?_⟩
    obtain ⟨-, ⟨ms, out, -⟩, -⟩ := rest
    have sent : v.out = s.out ++ [.proof k ecdsa mldsa (if isPartnerLink k || !s.enrolled then [] else cmac 0 s.dm.secret (s.transcript k h))] := by
      show (s.sendProof k h).out = _
      rw [proved]; rfl
    rw [out, sent]
    exact List.mem_append_left _ (List.mem_append_right _ (List.mem_singleton_self _))
  · obtain ⟨fields, -, only⟩ := rest
    have regs : v.regs = s.regs := rfl
    refine ⟨fun f hf => (fields f fun g hg => hf g ?_).trans ?_, sentMsix_of_out rfl, ?_⟩
    · simp only [List.mem_cons, List.not_mem_nil, or_false] at hg ⊢
      tauto
    · rw [State.get, regs, ← State.get]
    · have base : v = { s with randoms := v.randoms, out := v.out, ln := v.ln } := rfl
      rw [only]
      generalize v = w at *
      rw [base]

end Sys2Proof.Machine
end

section
/-! SUPPORT. Flits received and sent, and what a peer's message does (R355-R357, R361, R368, R372, R377). -/
namespace Sys2Proof.Machine

variable {s t u : State}

/-! ## Flits received (R355-R357) -/

/-- What every flit does first: the key ratchets where its counter is used up, corrected bits are counted, and what the peer asks for is sent again. -/
def State.flitIn (s : State) (k : Nat) (f : Flit) : State := ((s.updLink k Link.ratchetRx).countSat (R.FVL_FEC_CORR k) f.corrected).resend k f.resend

theorem State.resend_eq (s : State) (k n : Nat) :
    s.resend k n = { s.countSat (R.FVL_REPLAYS k) (min n (s.link k).replay.length) with
      out := s.out ++ ((s.link k).replay.drop ((s.link k).replay.length - n)).map (fun bs => .flit k bs) } := by
  unfold State.resend
  dsimp only
  have sent : ∀ (xs : List (List Byte)) (v : State), xs.foldl (fun s bs => s.emit (.flit k bs)) v = { v with out := v.out ++ xs.map fun bs => .flit k bs } := by
    intro xs
    induction xs with
    | nil => intro v; simp
    | cons x xs ih => intro v; rw [List.foldl_cons, ih]; simp [State.emit]
  rw [sent]; rfl

theorem State.flitIn_eq (s : State) (k : Nat) (f : Flit) :
    (s.flitIn k f).get (R.FVL_REPLAYS k) = satAdd 32 (s.get (R.FVL_REPLAYS k)) (min f.resend (s.link k).replay.length) ∧
      (s.flitIn k f).out = s.out ++ ((s.link k).replay.drop ((s.link k).replay.length - f.resend)).map (fun bs => .flit k bs) ∧
      keeps [R.FVL_REPLAYS k, R.FVL_FEC_CORR k] s (s.flitIn k f) ∧
      s.flitIn k f = { s.updLink k Link.ratchetRx with regs := (s.flitIn k f).regs, out := (s.flitIn k f).out } := by
  have same : (((s.updLink k Link.ratchetRx).countSat (R.FVL_FEC_CORR k) f.corrected).link k).replay = (s.link k).replay := by
    have link : ((s.updLink k Link.ratchetRx).countSat (R.FVL_FEC_CORR k) f.corrected).link k = (s.link k).ratchetRx := State.link_updLink_same ..
    rw [link]
    unfold Link.ratchetRx
    split <;> rfl
  have apart : (R.FVL_FEC_CORR k).key ≠ (R.FVL_REPLAYS k).key := by simp only [Field.key, R.FVL_FEC_CORR, R.FVL_REPLAYS]; omega
  unfold State.flitIn
  rw [State.resend_eq, same]
  generalize (s.link k).replay = old
  refine ⟨?_, rfl, ?_, rfl⟩
  · have counted : ((s.updLink k Link.ratchetRx).countSat (R.FVL_FEC_CORR k) f.corrected).get (R.FVL_REPLAYS k) = s.get (R.FVL_REPLAYS k) :=
      State.get_countSat_ne _ _ _ _ apart
    show (((s.updLink k Link.ratchetRx).countSat (R.FVL_FEC_CORR k) f.corrected).countSat (R.FVL_REPLAYS k) (min f.resend old.length)).get (R.FVL_REPLAYS k) = _
    rw [State.countSat, counted]
    exact State.get_set_fits _ (Nat.lt_of_le_of_lt (Nat.min_le_right ..) (Nat.sub_lt (Nat.two_pow_pos _) Nat.one_pos))
  · refine fun g hg => (State.get_set_ne _ (R.FVL_REPLAYS k) g _ (hg _ (by simp))).trans ?_
    exact State.get_set_ne _ (R.FVL_FEC_CORR k) g _ (hg _ (by simp))

theorem State.flitIn_link (s : State) (k : Nat) (f : Flit) : (s.flitIn k f).link k = (s.link k).ratchetRx := by
  obtain ⟨-, -, -, eq⟩ := s.flitIn_eq k f
  rw [eq]
  exact State.link_updLink_same ..

theorem State.flitIn_stands (s : State) (k : Nat) (f : Flit) {g : Field} (listed : g ∈ linkView k) : (s.flitIn k f).get g = s.get g := by
  obtain ⟨-, -, kept, -⟩ := s.flitIn_eq k f
  refine kept g fun r hr => ?_
  have apart_ : apart (linkView k) r := by
    simp only [List.mem_cons, List.not_mem_nil, or_false] at hr
    refine linkView_apart ?_ (linkFields_apart ?_ ?_) <;> rcases hr with rfl | rfl <;>
      simp only [Field.key, R.FVL_REPLAYS, R.FVL_FEC_CORR, R.BLK_INT_RAW, pgFVL] <;> omega
  exact apart_ g listed

/-- What a flit that fails its tag notes. -/
def State.tagFailed (s : State) (k : Nat) (recent : List Nat) : State :=
  ((s.updLink k fun l => { l with tagFails := recent }).countSat (R.FVL_TAG_FAIL k)).raise (pgFVL k) 2

/-- The state a good flit leaves before the link's STATE follows. -/
def State.delivered (s : State) (k : Nat) (f : Flit) : State :=
  let bs := fitBytes 256 f.bytes
  let s := s.updLink k fun l =>
    ({ l with rxCount := l.rxCount + 1, lastFlit := s.quartz, capacity := f.capacity.getD l.capacity }).deliver bs (flitCrypt l.rxKey l.rxSalt l.rxCount (slice 2 242 bs))
  let s := if flitType bs = 0 then s else s.count (R.FVL_RX_FLITS k)
  s.set (R.FVL_PEER_READY k) (b2n (flitType bs != 1))

theorem execFlitReceive_eq {k : Fin 8} {f : Flit} (opened : s.linkOpen k = true) (now : f.brings.any s.mustWait = false) :
    exec (.flitReceive k f) s =
      if !f.fecOk then .next (s.flitIn k f)
      else if !flitOk (s.link k).ratchetRx.rxKey (s.link k).ratchetRx.rxSalt (s.link k).ratchetRx.rxCount (fitBytes 256 f.bytes) then
        let recent := ((s.link k).ratchetRx.tagFails ++ [s.quartz]).filter fun t => s.quartz < t + 1000000
        .next (if 4 ≤ recent.length then ((s.flitIn k f).tagFailed k recent).linkDown k 2 else (s.flitIn k f).tagFailed k recent)
      else .next (match f.brings with
        | some m => if flitEnd (fitBytes 256 f.bytes) ∧ flitType (fitBytes 256 f.bytes) = peerType m then (((s.flitIn k f).delivered k f).settleLink k).hear k m
            else ((s.flitIn k f).delivered k f).settleLink k
        | none => ((s.flitIn k f).delivered k f).settleLink k) := by
  have link : (s.updLink k Link.ratchetRx).link k = (s.link k).ratchetRx := State.link_updLink_same ..
  have rx : (s.flitIn k f).link k = (s.link k).ratchetRx := s.flitIn_link k f
  have time : (s.flitIn k f).quartz = s.quartz := by rw [(s.flitIn_eq k f).2.2.2]; rfl
  show execFlitReceive k f s = _
  unfold execFlitReceive
  dsimp only
  have folded : ((s.updLink k Link.ratchetRx).countSat (R.FVL_FEC_CORR k) f.corrected).resend k f.resend = s.flitIn k f := rfl
  rw [if_neg (by simp [opened, now]), link, folded]
  generalize s.flitIn k f = p at *
  rw [rx, time]
  generalize (s.link k).ratchetRx = l at *
  unfold State.tagFailed State.delivered
  dsimp only
  rw [time] <;> cases f.brings <;> rfl

section
variable {k : Fin 8} {f : Flit} (opened : s.linkOpen k = true)
include opened

theorem execFlitReceive_fec (now : f.brings.any s.mustWait = false) (bad : f.fecOk = false) :
    ∃ t, exec (.flitReceive k f) s = .next t ∧ t.get (R.FVL_REPLAYS k) = satAdd 32 (s.get (R.FVL_REPLAYS k)) (min f.resend (s.link k).replay.length) ∧
      t.out = s.out ++ ((s.link k).replay.drop ((s.link k).replay.length - f.resend)).map (fun bs => .flit k.val bs) ∧
      keeps [R.FVL_REPLAYS k, R.FVL_FEC_CORR k] s t ∧ t = { s.updLink k Link.ratchetRx with regs := t.regs, out := t.out } := by
  refine ⟨s.flitIn k f, ?_, s.flitIn_eq k f⟩
  rw [execFlitReceive_eq opened now, if_pos (by simp [bad])]

theorem execFlitReceive_tag (now : f.brings.any s.mustWait = false) (fec : f.fecOk = true)
    (bad : flitOk (s.link k).ratchetRx.rxKey (s.link k).ratchetRx.rxSalt (s.link k).ratchetRx.rxCount (fitBytes 256 f.bytes) = false) :
    let l := (s.link k).ratchetRx
    let recent := (l.tagFails ++ [s.quartz]).filter fun t => s.quartz < t + 1000000
    ∃ t, exec (.flitReceive k f) s = .next t ∧ t.bit (R.BLK_INT_RAW (pgFVL k)) 2 = true ∧
      t.get (R.FVL_TAG_FAIL k) = satAdd 16 (s.get (R.FVL_TAG_FAIL k)) 1 ∧
      (recent.length < 4 → t.get (R.FVL_STATE k) = s.get (R.FVL_STATE k) ∧ (t.link k).rxCount = l.rxCount) ∧
      (4 ≤ recent.length → t.get (R.FVL_STATE k) = 0 ∧ t.get (R.FVL_DOWN_CAUSE k) = 2) := by
  intro l recent
  have stands := fun {g : Field} => s.flitIn_stands k f (g := g)
  have link : (s.flitIn k f).link k = l := s.flitIn_link k f
  have fails : R.FVL_TAG_FAIL k ∈ linkFields k := by simp [linkFields]
  have noted : ((s.flitIn k f).tagFailed k recent).bit (R.BLK_INT_RAW (pgFVL k)) 2 = true ∧
      ((s.flitIn k f).tagFailed k recent).get (R.FVL_TAG_FAIL k) = satAdd 16 (s.get (R.FVL_TAG_FAIL k)) 1 ∧
      ((s.flitIn k f).tagFailed k recent).get (R.FVL_STATE k) = s.get (R.FVL_STATE k) ∧ (((s.flitIn k f).tagFailed k recent).link k).rxCount = l.rxCount := by
    refine ⟨State.raise_bit _ _ (by decide), ?_, ?_, ?_⟩
    · unfold State.tagFailed
      rw [State.raise_get_ne _ _ _ _ (linkFields_raw k _ _ fails), State.countSat, State.updLink_get, stands (List.mem_cons_of_mem _ fails)]
      exact State.get_set_fits _ (Nat.lt_of_le_of_lt (Nat.min_le_right ..) (Nat.sub_lt (Nat.two_pow_pos _) Nat.one_pos))
    · unfold State.tagFailed
      rw [State.raise_get_ne _ _ _ _ (linkFields_raw k _ _ (by simp [linkFields])), State.get_countSat_ne, State.updLink_get, stands (by simp [linkView, linkFields])]
      simp only [Field.key, R.FVL_TAG_FAIL, R.FVL_STATE]; omega
    · have own : ((s.flitIn k f).tagFailed k recent).link k = { (s.flitIn k f).link k with tagFails := recent } := by
        unfold State.tagFailed
        rw [State.link, State.raise_ln]
        exact State.link_updLink_same ..
      rw [own, link]
  obtain ⟨raised, counted, state, count⟩ := noted
  have run := execFlitReceive_eq opened now
  rw [if_neg (by simp [fec]), if_pos (by simp [bad])] at run
  refine ⟨_, run, ?_⟩
  split
  next many =>
    obtain ⟨down, cause, -, -, kept, -, still, -⟩ := ((s.flitIn k f).tagFailed k recent).linkDown_spec k.isLt 2
    exact ⟨still 2 (by decide) raised, kept.trans counted, fun few => absurd many (Nat.not_le.2 few), fun _ => ⟨down, cause⟩⟩
  next few => exact ⟨raised, counted, fun _ => ⟨state, count⟩, fun many => absurd many few⟩

end

theorem Link.heard_fields {a b : Link} (h : a.heard = b.heard) :
    a.rxCount = b.rxCount ∧ a.lastFlit = b.lastFlit ∧ a.parts = b.parts ∧ a.messages = b.messages := by
  simp only [Link.heard, Link.mk.injEq] at h
  tauto

/-- A delivered payload joins the message of its VC, which END completes; nothing else of the session changes. -/
theorem Link.deliver_spec (l : Link) (bs payload : List Byte) :
    (l.deliver bs payload).rxCount = l.rxCount ∧ (l.deliver bs payload).lastFlit = l.lastFlit ∧
    (2 ≤ flitType bs → flitType bs < 8 →
      if flitEnd bs = true then Sparse.get [] (l.deliver bs payload).messages (flitVc bs) = Sparse.get [] l.parts (flitVc bs) ++ payload ∧
        Sparse.get [] (l.deliver bs payload).parts (flitVc bs) = []
      else Sparse.get [] (l.deliver bs payload).parts (flitVc bs) = Sparse.get [] l.parts (flitVc bs) ++ payload ∧ (l.deliver bs payload).messages = l.messages) ∧
    (flitType bs < 2 → (l.deliver bs payload).parts = l.parts ∧ (l.deliver bs payload).messages = l.messages) := by
  unfold Link.deliver
  split
  next none_ => exact ⟨rfl, rfl, fun low high => absurd none_ (by omega), fun _ => ⟨rfl, rfl⟩⟩
  next some_ =>
    dsimp only
    split
    next ends => exact ⟨rfl, rfl, fun _ _ => ⟨Sparse.get_set_same .., by simp⟩, fun low => absurd (.inl low) some_⟩
    next goes => exact ⟨rfl, rfl, fun _ _ => ⟨Sparse.get_set_same .., rfl⟩, fun low => absurd (.inl low) some_⟩

theorem State.delivered_spec (s : State) (k : Nat) (f : Flit) :
    (s.delivered k f).link k = ({ s.link k with rxCount := (s.link k).rxCount + 1, lastFlit := s.quartz, capacity := f.capacity.getD (s.link k).capacity } : Link).deliver
      (fitBytes 256 f.bytes) (flitCrypt (s.link k).rxKey (s.link k).rxSalt (s.link k).rxCount (slice 2 242 (fitBytes 256 f.bytes))) ∧
    (s.delivered k f).get (R.FVL_STATE k) = s.get (R.FVL_STATE k) ∧
    (s.delivered k f).get (R.FVL_PEER_READY k) = (if flitType (fitBytes 256 f.bytes) = 1 then 0 else 1) ∧
    (s.delivered k f).get (R.FVL_RX_FLITS k) =
      (if flitType (fitBytes 256 f.bytes) = 0 then s.get (R.FVL_RX_FLITS k) else (s.get (R.FVL_RX_FLITS k) + 1) % 2 ^ 32) ∧
    (s.delivered k f).linkReady = s.linkReady := by
  have ready : (R.FVL_PEER_READY k).key ≠ (R.FVL_STATE k).key ∧ (R.FVL_PEER_READY k).key ≠ (R.FVL_RX_FLITS k).key ∧
      (R.FVL_RX_FLITS k).key ≠ (R.FVL_STATE k).key := by
    simp only [Field.key, R.FVL_PEER_READY, R.FVL_STATE, R.FVL_RX_FLITS]; omega
  obtain ⟨state, flits, apart_⟩ := ready
  unfold State.delivered
  dsimp only
  refine ⟨?_, ?_, ?_, ?_, ?_⟩
  · split <;> exact State.link_updLink_same ..
  · rw [State.get_set_ne _ _ _ _ state]
    split
    · rfl
    · exact State.get_count_ne _ _ _ _ apart_
  · rw [State.get_set_same]
    by_cases one : flitType (fitBytes 256 f.bytes) = 1
    · rw [if_pos one, one]; rfl
    · rw [if_neg one, bne_iff_ne.2 one]; rfl
  · rw [State.get_set_ne _ _ _ _ flits]
    split
    · rfl
    · exact State.get_set_same ..
  · split <;> rfl

section
variable {k : Fin 8} {f : Flit} (opened : s.linkOpen k = true) (fec : f.fecOk = true)
  (sealed_ : flitOk (s.link k).ratchetRx.rxKey (s.link k).ratchetRx.rxSalt (s.link k).ratchetRx.rxCount (fitBytes 256 f.bytes) = true)
include opened fec sealed_

/-- A good flit that brings no message. -/
theorem execFlitReceive_none (none_ : f.brings = none) : exec (.flitReceive k f) s = .next (((s.flitIn k f).delivered k f).settleLink k) := by
  rw [execFlitReceive_eq opened (by rw [none_]; rfl), if_neg (by simp [fec]), if_neg (by simp [sealed_]), none_]

theorem execFlitReceive_good (none_ : f.brings = none) :
    let l := (s.link k).ratchetRx; let bs := fitBytes 256 f.bytes
    ∃ t, exec (.flitReceive k f) s = .next t ∧ (t.link k).rxCount = l.rxCount + 1 ∧ (t.link k).lastFlit = s.quartz ∧
      (2 ≤ flitType bs → flitType bs < 8 →
        let got := Sparse.get [] l.parts (flitVc bs) ++ flitCrypt l.rxKey l.rxSalt l.rxCount (slice 2 242 bs)
        if flitEnd bs = true then Sparse.get [] (t.link k).messages (flitVc bs) = got ∧ Sparse.get [] (t.link k).parts (flitVc bs) = []
        else Sparse.get [] (t.link k).parts (flitVc bs) = got ∧ (t.link k).messages = l.messages) ∧
      (flitType bs < 2 → (t.link k).parts = l.parts ∧ (t.link k).messages = l.messages) ∧
      t.get (R.FVL_PEER_READY k) = (if flitType bs = 1 then 0 else 1) ∧ t.get (R.FVL_STATE k) = (if s.linkReady = true ∧ flitType bs ≠ 1 then 4 else 3) ∧
      t.get (R.FVL_RX_FLITS k) = (if flitType bs = 0 then s.get (R.FVL_RX_FLITS k) else (s.get (R.FVL_RX_FLITS k) + 1) % 2 ^ 32) := by
  intro l bs
  have stands : ∀ g ∈ linkFields k, (s.flitIn k f).get g = s.get g := fun g hg => s.flitIn_stands k f (List.mem_cons_of_mem _ hg)
  have own : (s.flitIn k f).link k = l := s.flitIn_link k f
  have only := (s.flitIn_eq k f).2.2.2
  have time : (s.flitIn k f).quartz = s.quartz := by rw [only]; rfl
  have mode : (s.flitIn k f).linkReady = s.linkReady := by rw [only]; rfl
  refine ⟨_, execFlitReceive_none opened fec sealed_ none_, ?_⟩
  generalize s.flitIn k f = p at *
  obtain ⟨link, state, ready, flits, local_⟩ := p.delivered_spec k f
  have open_ : (p.delivered k f).linkOpen k = true := by rw [State.linkOpen, state, stands _ (by simp [linkFields])]; exact opened
  obtain ⟨fields, heard⟩ := (p.delivered k f).settleLink_spec open_
  have same : ((p.delivered k f).set (R.FVL_STATE k) (if (p.delivered k f).linkReady = true ∧ (p.delivered k f).get (R.FVL_PEER_READY k) = 1 then 4 else 3)).link k =
      (p.delivered k f).link k := rfl
  rw [same, link, own, time] at heard
  obtain ⟨count, last, carries, quiet⟩ := Link.deliver_spec { l with rxCount := l.rxCount + 1, lastFlit := s.quartz, capacity := f.capacity.getD l.capacity } bs
    (flitCrypt l.rxKey l.rxSalt l.rxCount (slice 2 242 bs))
  obtain ⟨counted, timed, parts, messages⟩ := Link.heard_fields heard
  refine ⟨counted.trans count, timed.trans last, ?_, ?_, ?_, ?_, ?_⟩
  · rw [parts, messages]; exact carries
  · rw [parts, messages]; exact quiet
  · rw [fields _ (by simp), State.get_set_ne, ready]
    simp only [Field.key, R.FVL_STATE, R.FVL_PEER_READY]; omega
  · rw [fields _ (by simp), State.get_set_same, local_, mode, ready]
    by_cases up : s.linkReady = true ∧ flitType bs ≠ 1
    · rw [if_pos up, if_pos ⟨up.1, if_neg up.2⟩]; rfl
    · have closed : ¬ (s.linkReady = true ∧ (if flitType (fitBytes 256 f.bytes) = 1 then 0 else 1) = 1) := fun both =>
        up ⟨both.1, fun one => by rw [if_pos one] at both; exact absurd both.2 (by decide)⟩
      rw [if_neg up, if_neg closed]; rfl
  · rw [fields _ (by simp), State.get_set_ne, flits, stands _ (by simp [linkFields])]
    simp only [Field.key, R.FVL_STATE, R.FVL_RX_FLITS]; omega

end

end Sys2Proof.Machine
end

section
/-! PROOF. The obligation of the links' instructions (R352-R359, R374, R378, R379). -/
namespace Sys2Proof.Machine

variable {s t u : State}

/-! ## What a peer's message does (R361, R368, R372, R377) -/

theorem isTreeLink_of_lt {k : Nat} (h : k < 6) : isTreeLink k = true := decide_eq_true h

/-- What tells a neighbour a partition's schedule (R372). -/
def scheduleMissing (k : Nat) (e : Nat × Part) : Output :=
  if e.2.epCancelled then .cancel k e.1 e.2.epSeq
  else match e.2.epPending with
    | some (ts, tov) => .schedule k e.1 e.2.epSeq ((e.2.epoch + 1) % 2 ^ 32) ts tov
    | none => .schedule k e.1 e.2.epSeq e.2.epoch e.2.epTs e.2.epTov

theorem State.hear_holds {k : Nat} (origins : List (Fin 4096 × Nat)) (schedules : List (Fin 1024 × Nat)) (enrolled : s.enrolled = true) (tree : k < 6)
    (up : s.linkUp k = true) : let t := s.hear k (.holds origins schedules)
    (∀ m ∈ s.dm.originated, heldBy origins (s.get R.FVL0_MEMBER_NO) < m.1 → .replication k m.1 m.2.1 m.2.2 ∈ t.out) ∧
    (∀ e ∈ s.parts, heldBy schedules e.1 < e.2.epSeq → e.2.epCancelled = true → .cancel k e.1 e.2.epSeq ∈ t.out) ∧
    (∀ e ∈ s.parts, ∀ ts tov, heldBy schedules e.1 < e.2.epSeq → e.2.epCancelled = false → e.2.epPending = some (ts, tov) →
      .schedule k e.1 e.2.epSeq ((e.2.epoch + 1) % 2 ^ 32) ts tov ∈ t.out) := by
  intro t
  have heard : t = s.resendMissing k origins schedules := if_pos ⟨enrolled, isTreeLink_of_lt tree, up⟩
  obtain ⟨v, sent⟩ : ∃ v, v = (s.dm.originated.filter fun m => heldBy origins (s.get R.FVL0_MEMBER_NO) < m.1).foldl
    (fun s m => s.sendOn k (.replication k m.1 m.2.1 m.2.2)) s := ⟨_, rfl⟩
  have talks : Talks k s v := by rw [sent]; exact talks_sends (fun m : Nat × Nat × KeyLine => .replication k m.1 m.2.1 m.2.2) _ s
  have parts : v.parts = s.parts := by
    rw [sent]
    exact foldl_keeps (fun u : State => u.parts = s.parts) _ (fun u m hu => (u.sendOn_parts _ _).trans hu) _ s rfl
  have then_ : t = (s.parts.filter fun e => heldBy schedules e.1 < e.2.epSeq).foldl (fun s e => s.sendOn k (scheduleMissing k e)) v := by
    rw [heard, State.resendMissing, ← sent, parts]
    rfl
  have rest : Talks k v t := by rw [then_]; exact talks_sends _ _ v
  have goes : ∀ e ∈ s.parts, heldBy schedules e.1 < e.2.epSeq → scheduleMissing k e ∈ t.out := fun e he above => by
    rw [then_]
    exact foldl_sendOn_says (scheduleMissing k) (List.mem_filter.2 ⟨he, decide_eq_true above⟩) (talks.up up)
  refine ⟨fun m hm above => rest.out _ ?_, fun e he above gone => ?_, fun e he ts tov above stands pending => ?_⟩
  · rw [sent]
    exact foldl_sendOn_says (fun m : Nat × Nat × KeyLine => .replication k m.1 m.2.1 m.2.2) (List.mem_filter.2 ⟨hm, decide_eq_true above⟩) up
  · have := goes e he above
    rwa [scheduleMissing, if_pos gone] at this
  · have := goes e he above
    rwa [scheduleMissing, if_neg (by simp [stands]), pending] at this

/-- An epoch that opens on time keeps the domain's secret and time and the key table. -/
theorem State.openEpoch_talks (s : State) (k p : Nat) :
    Talks k s (s.openEpoch p) ∧ (s.openEpoch p).dm = s.dm ∧ (s.openEpoch p).quartz = s.quartz ∧ (s.openEpoch p).ge = s.ge := by
  have raised : ∀ v : State, Talks k v (v.raise (pgFVL 0) 9) ∧ (v.raise (pgFVL 0) 9).dm = v.dm ∧ (v.raise (pgFVL 0) 9).quartz = v.quartz ∧
      (v.raise (pgFVL 0) 9).ge = v.ge := fun v => by
    obtain ⟨-, ⟨ms, out, -⟩, only⟩ := v.raise_onlyFields (pgFVL 0) 9
    refine ⟨⟨fun up => ?_, fun o ho => ?_⟩, ?_, ?_, ?_⟩
    · rw [State.linkUp, v.raise_get_ne _ _ _ (linkFields_raw k _ _ (by simp [linkFields]))]; exact up
    · rw [out]; exact List.mem_append_left _ ho
    all_goals rw [only]
  unfold State.openEpoch
  split
  next ts tov _ =>
    split
    · obtain ⟨talks, kept⟩ := raised (s.updPart p fun x => { x with epoch := (x.epoch + 1) % 2 ^ 32, epTs := ts, epTov := tov, epPending := none, overlap := true })
      exact ⟨⟨talks.up, talks.out⟩, kept⟩
    · exact ⟨.refl, rfl, rfl, rfl⟩
  · exact ⟨.refl, rfl, rfl, rfl⟩

theorem State.openEpochs_talks (s : State) (k : Nat) (ps : List Nat) : Talks k s (ps.foldl (fun s p => s.openEpoch p) s) ∧
    (ps.foldl (fun s p => s.openEpoch p) s).dm = s.dm ∧ (ps.foldl (fun s p => s.openEpoch p) s).quartz = s.quartz ∧ (ps.foldl (fun s p => s.openEpoch p) s).ge = s.ge :=
  foldl_keeps (fun t : State => Talks k s t ∧ t.dm = s.dm ∧ t.quartz = s.quartz ∧ t.ge = s.ge) _ (fun u p hu => by
    obtain ⟨talks, dm, time, ge⟩ := hu
    obtain ⟨talks', dm', time', ge'⟩ := u.openEpoch_talks k p
    exact ⟨talks.trans talks', dm'.trans dm, time'.trans time, ge'.trans ge⟩) ps s ⟨.refl, rfl, rfl, rfl⟩

/-- A catch-up sends each replicated record of the partitions, then its end (R361). -/
theorem State.sendCatchup_sends (s : State) {k : Nat} (parts : List Nat) (up : s.linkUp k = true) :
    Talks k s (s.sendCatchup k parts) ∧ .catchupDone k ∈ (s.sendCatchup k parts).out ∧
      ∀ e ∈ s.ge.lines, parts.contains (linePart e.1) = true → isReplicated (lineHandle e.1) e.2 = true → .catchupRecord k e.1 e.2 ∈ (s.sendCatchup k parts).out := by
  unfold State.sendCatchup
  dsimp only
  have rows := talks_sends (k := k) (fun e : Nat × KeyLine => .catchupRecord k e.1 e.2) (s.ge.lines.filter fun e => parts.contains (linePart e.1) && isReplicated (lineHandle e.1) e.2) s
  have last : Talks k (List.foldl (fun s e => s.sendOn k (.catchupRecord k e.1 e.2)) s
      (s.ge.lines.filter fun e => parts.contains (linePart e.1) && isReplicated (lineHandle e.1) e.2)) _ := .sendOn (j := k) (o := .catchupDone k) .refl
  refine ⟨rows.trans last, State.sendOn_says _ (rows.up up), fun e he listed replicated => last.out _ ?_⟩
  exact foldl_sendOn_says (fun e : Nat × KeyLine => .catchupRecord k e.1 e.2) (List.mem_filter.2 ⟨he, by rw [listed, replicated]; rfl⟩) up

theorem State.clearJoin_spec (s : State) : s.clearJoin.get R.FVL0_JOIN_SN_LO = 0 ∧ s.clearJoin.get R.FVL0_JOIN_SN_HI = 0 ∧ s.clearJoin.out = s.out := by
  refine ⟨?_, ?_, rfl⟩
  · have low : s.clearJoin.get R.FVL0_JOIN_SN_LO = ((s.set R.FVL0_JOIN_SN_LO 0).set R.FVL0_JOIN_SN_HI 0).get R.FVL0_JOIN_SN_LO := rfl
    rw [low, State.get_set_ne _ _ _ _ (by decide), State.get_set_same]; rfl
  · have high : s.clearJoin.get R.FVL0_JOIN_SN_HI = ((s.set R.FVL0_JOIN_SN_LO 0).set R.FVL0_JOIN_SN_HI 0).get R.FVL0_JOIN_SN_HI := rfl
    rw [high, State.get_set_same]; rfl

theorem State.hear_joins {k : Nat} (parts : List (Fin 1024)) : let t := s.hear k (.joins parts)
    (s.admitsPeer k = false → t = s) ∧
    (s.admitsPeer k = true → t.get R.FVL0_JOIN_SN_LO = 0 ∧ t.get R.FVL0_JOIN_SN_HI = 0 ∧
      (∃ epochs, .sponsor k s.dm.secret s.dm.id s.domainTime epochs ∈ t.out) ∧ .catchupDone k ∈ t.out ∧
      ∀ e ∈ s.ge.lines, (parts.map (·.val)).contains (linePart e.1) = true → isReplicated (lineHandle e.1) e.2 = true → .catchupRecord k e.1 e.2 ∈ t.out) := by
  refine ⟨fun stays => if_neg (by simp [stays]), fun admits => ?_⟩
  have joined : s.hear k (.joins parts) = s.admitJoiner k (parts.map (·.val)) := if_pos admits
  have up : s.linkUp k = true := by
    simp only [State.admitsPeer, Bool.and_eq_true] at admits
    obtain ⟨⟨⟨⟨⟨-, up⟩, -⟩, -⟩, -⟩, -⟩ := admits
    exact up
  rw [joined]
  unfold State.admitJoiner
  dsimp only
  obtain ⟨talks, dm, time, ge⟩ := s.openEpochs_talks k (s.created.map (·.1))
  generalize (s.created.map (·.1)).foldl (fun s p => s.openEpoch p) s = v at *
  generalize (v.created.map fun e => (e.1, e.2.epoch, e.2.epSeq, e.2.epPending)) = epochs
  have sponsored : Talks k v (v.sendOn k (.sponsor k v.dm.secret v.dm.id v.domainTime epochs)) := .sendOn .refl
  have told := v.sendOn_says (.sponsor k v.dm.secret v.dm.id v.domainTime epochs) (talks.up up)
  have lines : (v.sendOn k (.sponsor k v.dm.secret v.dm.id v.domainTime epochs)).ge = s.ge := by rw [v.sendOn_only]; exact ge
  rw [State.domainTime, time, dm] at *
  generalize v.sendOn k (.sponsor k s.dm.secret s.dm.id ((s.quartz : Int) + s.dm.offset).toNat epochs) = w at *
  obtain ⟨caught, done, records⟩ := w.sendCatchup_sends (parts.map (·.val)) (sponsored.up (talks.up up))
  obtain ⟨low, high, out⟩ := (w.sendCatchup k (parts.map (·.val))).clearJoin_spec
  rw [lines] at records
  refine ⟨low, high, ⟨epochs, ?_⟩, ?_, fun e he listed replicated => ?_⟩
  · rw [out]; exact caught.out _ told
  · rw [out]; exact done
  · rw [out]; exact records e he listed replicated

theorem State.hear_aborts {k : Nat} (tag : Nat) (forward : k = 6 ∨ k = 7)
    (none_ : s.running.all (fun e => !(e.2.cmd.any fun c => c.peer == some (k, tag))) = true) :
    (s.hear k (.aborts tag)).hq.staged = s.hq.staged.filter fun c => !(c.peer == some (k, tag)) := by
  have heard : s.hear k (.aborts tag) = s.abortForwarded k tag := if_pos (by rcases forward with rfl | rfl <;> rfl)
  rw [heard]
  unfold State.abortForwarded
  dsimp only
  obtain ⟨v, start⟩ : ∃ v, v = ({ s with hq.staged := s.hq.staged.filter fun c => !(c.peer == some (k, tag)) } : State) := ⟨_, rfl⟩
  rw [← start]
  have ended : endKeeps v ((s.hq.staged.filter fun c => c.peer == some (k, tag)).foldl (fun s c => s.endStaged c stAborted 1) v) :=
    foldl_keeps (endKeeps v) _ (fun u c hu => endKeeps_trans hu (endKeeps_finish u _ _ _ _)) _ v (endKeeps_refl v)
  generalize (s.hq.staged.filter fun c => c.peer == some (k, tag)).foldl (fun s c => s.endStaged c stAborted 1) v = w at *
  obtain ⟨sq, -, -, -, -, -, -, -, -, -, -, staged, -⟩ := (endKeeps_iff v w).mp ended
  have idle : (w.running.filter fun e => e.2.cmd.any fun c => c.peer == some (k, tag)) = [] := by
    have running : w.running = s.running := by rw [State.running, sq, start]; rfl
    rw [running, List.filter_eq_nil_iff]
    intro e he hit
    have := List.all_eq_true.1 none_ e he
    rw [hit] at this
    exact nomatch this
  rw [idle]
  exact staged.trans (by rw [start])

/-! ## Idle flits, silence, ratchets and resets -/

/-- A flit leaves sealed under its direction's key and counter, and enters the replay buffer (R356). -/
theorem State.sendFlit_sent (s : State) (k type vc : Nat) (last : Bool) (payload : List Byte) : let l := (s.link k).ratchetTx
    let bs := sealFlit l.txKey l.txSalt l.txCount (flitHdr type vc last) payload
    (s.sendFlit k type vc last payload).out = s.out ++ [.flit k bs] ∧
      (s.sendFlit k type vc last payload).link k = { l with txCount := l.txCount + 1, lastSent := s.quartz, replay := (l.replay ++ [bs]).drop ((l.replay ++ [bs]).length - 64) } := by
  unfold State.sendFlit
  dsimp only
  split <;> exact ⟨rfl, State.link_updLink_same ..⟩

theorem execIdleFlitSend_sends {k : Fin 8} (opened : s.linkOpen k = true) (due : (s.link k).ratchetTx.lastSent + 1000 ≤ s.quartz) :
    let l := (s.link k).ratchetTx
    let bs := sealFlit l.txKey l.txSalt l.txCount (flitHdr (if s.linkReady then 0 else 1) 0 true) (Config.idlePayload k l.txCount)
    ∃ t, exec (.idleFlitSend k) s = .next t ∧ t.out = s.out ++ [.flit k bs] ∧
      t.link k = { l with txCount := l.txCount + 1, lastSent := s.quartz, replay := (l.replay ++ [bs]).drop (l.replay.length + 1 - 64) } ∧
      (s.linkReady = false → t.get (R.FVL_TX_FLITS k) = (s.get (R.FVL_TX_FLITS k) + 1) % 2 ^ 32) ∧ keeps [R.FVL_TX_FLITS k] s t := by
  intro l bs
  have last : (s.link k).ratchetTx.lastSent = (s.link k).lastSent := by unfold Link.ratchetTx; split <;> rfl
  rw [last] at due
  refine ⟨s.sendFlit k (if s.linkReady then 0 else 1) 0 true (Config.idlePayload k l.txCount), ?_, ?_, ?_, fun waits => ?_, s.sendFlit_keeps _ _ _ _ _⟩
  · show execIdleFlitSend k s = _
    unfold execIdleFlitSend
    rw [if_neg (by simp [opened, due])]
  · exact (s.sendFlit_sent k _ 0 true _).1
  · rw [(s.sendFlit_sent k _ 0 true _).2, List.length_append, List.length_singleton]
  · unfold State.sendFlit
    rw [waits, if_neg (by decide)]
    exact State.get_set_same ..

theorem execIdleFlitSend_waits {k : Fin 8} (h : s.linkOpen k = false ∨ s.quartz < (s.link k).lastSent + 1000) : exec (.idleFlitSend k) s = .next s :=
  if_pos (h.imp (fun closed => by rw [closed]; rfl) id)

theorem execLinkSilence_falls {k : Fin 8} (opened : s.linkOpen k = true) (silent : (s.link k).lastFlit + 10000 ≤ s.quartz) :
    ∃ t, exec (.linkSilence k) s = .next t ∧ t.get (R.FVL_STATE k) = 0 ∧ t.get (R.FVL_DOWN_CAUSE k) = 1 ∧ t.get (R.FVL_PEER_READY k) = 0 ∧
      (t.link k).txKey = [] ∧ (t.link k).rxKey = [] ∧ t.bit (R.BLK_INT_RAW (pgFVL k)) 1 = true ∧
      t.get (R.FVL_RETRAINS k) = satAdd 16 (s.get (R.FVL_RETRAINS k)) 1 ∧
      (s.linkUp k = true → k.val = 2 ∨ k.val = 3 → t.get (R.FVL_WRAPPED k) = 1) := by
  obtain ⟨state, cause, ready, session, -, -, -, lost⟩ := s.linkDown_spec k.isLt 1
  obtain ⟨raised, counted⟩ := lost opened
  refine ⟨s.linkDown k 1, if_pos ⟨opened, silent⟩, state, cause, ready, by rw [session], by rw [session], raised, counted, fun up ring => ?_⟩
  exact s.linkDown_wraps k.isLt 1 up (by simpa [isRingLink] using ring)

theorem execKeyRatchet_ratchets {k : Fin 8} (opened : s.linkOpen k = true) :
    (2 ^ 36 ≤ (s.link k).txCount → exec (.keyRatchet k true) s =
      .next (s.updLink k fun l => { l with txKey := kdfCmac l.txKey [0x46, 0x52, 0x4B] [], txCount := 0 })) ∧
    (2 ^ 36 ≤ (s.link k).rxCount → exec (.keyRatchet k false) s =
      .next (s.updLink k fun l => { l with rxKey := kdfCmac l.rxKey [0x46, 0x52, 0x4B] [], rxCount := 0 })) := by
  have only : ∀ f g : Link → Link, f (s.link k) = g (s.link k) → s.updLink k f = s.updLink k g := fun f g same => by
    unfold State.updLink Sparse.upd
    rw [State.link] at same
    rw [same]
  refine ⟨fun many => ?_, fun many => ?_⟩
  · show execKeyRatchet k true s = _
    unfold execKeyRatchet
    dsimp only
    rw [if_neg (by simpa [opened] using many)]
    exact congrArg _ (only _ _ (if_pos many))
  · show execKeyRatchet k false s = _
    unfold execKeyRatchet
    dsimp only
    rw [if_neg (by simpa [opened] using many)]
    exact congrArg _ (only _ _ (if_pos many))

theorem execFvlSoftReset_resets {k : Fin 8} (on : s.responds (pgFVL k) = true) :
    ∃ t, exec (.fvlSoftReset k) s = .next t ∧
      t.get (R.FVL_STATE k) = (if s.get (R.BLK_ENABLE (pgFVL k)) = 1 ∧ s.domainOn (28 + k.val / 2) = true then 1 else 0) ∧ t.get (R.FVL_DOWN_CAUSE k) = 5 ∧
      (t.link k).txKey = [] ∧ (t.link k).rxKey = [] := by
  obtain ⟨state, cause, -, session, -, enable, -, -⟩ := s.linkDown_spec k.isLt 5
  have power : (s.linkDown k 5).domainOn (28 + k.val / 2) = s.domainOn (28 + k.val / 2) := by
    have low := s.linkDown_low k 5
    simp only [State.domainOn, State.bit, low R.PWR_DOMAIN_ON_LO (by decide), low R.PWR_DOMAIN_ON_HI (by decide)]
  have run : exec (.fvlSoftReset k) s = .next (if (s.linkDown k 5).get (R.BLK_ENABLE (pgFVL k)) = 1 ∧ (s.linkDown k 5).domainOn (28 + k / 2) = true then
      (s.linkDown k 5).set (R.FVL_STATE k) 1 else s.linkDown k 5) := if_neg (by simp [on])
  rw [enable, power] at run
  refine ⟨_, run, ?_⟩
  split
  · refine ⟨State.get_set_same .., ?_, ?_, ?_⟩
    · rw [State.get_set_ne, cause]
      simp only [Field.key, R.FVL_STATE, R.FVL_DOWN_CAUSE]; omega
    · exact congrArg Link.txKey session
    · exact congrArg Link.rxKey session
  · exact ⟨state, cause, by rw [session], by rw [session]⟩

/-- Settles O47: training, handshakes, flits, messages, silence, ratchets and resets, each by the rule of its instruction. -/
theorem linksOpenCarryAndFall : Obligations.LinksOpenCarryAndFall := by
  unfold Obligations.LinksOpenCarryAndFall
  refine ⟨fun k s => execLinkTrained_hello, fun k h s => execHandshake_opens, fun k h s => execHandshake_refuses, ?good, ?tag, ?fec, ?still, ?brings, ?closes,
    fun k origins schedules s enrolled tree up => s.hear_holds origins schedules enrolled tree up, fun k parts s => s.hear_joins parts,
    fun k tag s => s.hear_aborts tag, ?resync, fun k s => execIdleFlitSend_sends, fun k s => execIdleFlitSend_waits,
    fun key salt payload n type hk ht => sealFlit_reads salt payload n type hk ht, fun k s => execLinkSilence_falls, fun k s => execKeyRatchet_ratchets, ?bits,
    fun k h s other => if_pos other, ?trained, ?closed, ?absent⟩
  case good => exact fun k f s none_ opened fec sealed_ => execFlitReceive_good opened fec sealed_ none_
  case tag => exact fun k f s now opened fec bad => execFlitReceive_tag opened now fec bad
  case fec => exact fun k f s now opened bad => execFlitReceive_fec opened now bad
  case still => exact fun k f s h => if_pos (h.imp (fun shut => by rw [shut]; rfl) id)
  case brings =>
    intro k f m s u l bs brings now opened fec sealed_ ends kind plain
    have alone := execFlitReceive_none (f := { f with brings := none }) opened fec sealed_ rfl
    have left_ : ((s.flitIn k f).delivered k f).settleLink k = u := Host.Outcome.next.inj (alone.symm.trans plain)
    rw [execFlitReceive_eq opened (by rw [brings]; exact now), if_neg (by simp [fec]), if_neg (by rw [sealed_]; decide), brings, left_]
    exact congrArg _ (if_pos ⟨ends, kind⟩)
  case closes =>
    intro k s
    have fallen := s.linkDown_spec k.isLt 3
    exact ⟨fallen.state, fallen.cause⟩
  case resync => exact fun k s partner active => if_pos ⟨decide_eq_true partner, active⟩
  case bits =>
    intro k s on
    refine ⟨fun failed => ⟨_, (if_neg (by simp [on])).trans (if_pos failed), State.get_set_same .., ?_, ?_⟩, fun down => (if_neg (by simp [on])).trans (if_pos down),
      execFvlSoftReset_resets on⟩
    · exact congrArg Link.refusals (State.link_updLink_same s k fun l => { l with refusals := [] })
    · exact ⟨keeps_set s _ 1, sentMsix_of_out rfl, rfl⟩
  case trained => exact fun k s h => if_neg fun ⟨low, _, _, run⟩ => h.elim (fun high => absurd low (Nat.not_le.2 high)) run
  case closed =>
    intro k s shut
    refine ⟨if_neg fun both => ?_, fun sends => if_pos (.inl (by rw [shut]; rfl))⟩
    rw [shut] at both
    exact nomatch both.1
  case absent =>
    intro k s off
    exact ⟨if_pos (by rw [off]; rfl), if_pos (by rw [off]; rfl), if_pos (by rw [off]; rfl)⟩

end Sys2Proof.Machine
end

section
/-! SUPPORT. Domain time and the end of a catch-up: the grandmaster, its disciplines, PPS edges and holdover (R361-R365, R368). -/
namespace Sys2Proof.Machine

variable {s t u : State}

/-! ## The grandmaster (R363) -/

theorem foldl_min_spec (xs : List Nat) (a : Nat) : (xs.foldl min a = a ∨ xs.foldl min a ∈ xs) ∧ xs.foldl min a ≤ a ∧ ∀ x ∈ xs, xs.foldl min a ≤ x := by
  induction xs generalizing a with
  | nil => exact ⟨.inl rfl, Nat.le_refl a, fun _ h => nomatch h⟩
  | cons y ys ih =>
    obtain ⟨found, low, each⟩ := ih (min a y)
    rw [List.foldl_cons]
    refine ⟨?_, by omega, fun x hx => ?_⟩
    · rcases found with start | later
      · rcases Nat.le_total a y with le | le
        · exact .inl (start.trans (Nat.min_eq_left le))
        · exact .inr (by rw [start, Nat.min_eq_right le]; exact List.mem_cons_self ..)
      · exact .inr (List.mem_cons_of_mem _ later)
    · rcases List.mem_cons.mp hx with rfl | later
      · omega
      · exact each x later

/-- The lowest of some member numbers is one of them. -/
theorem foldl_min_mem {xs : List Nat} (some_ : xs ≠ []) (small : ∀ x ∈ xs, x < 4096) : xs.foldl min 4095 ∈ xs := by
  obtain ⟨start | found, -, each⟩ := foldl_min_spec xs 4095
  · obtain ⟨x, hx⟩ := List.exists_mem_of_ne_nil xs some_
    have le := each x hx
    have := small x hx
    have same : xs.foldl min 4095 = x := by omega
    rwa [same]
  · exact found

theorem grandmaster_spec {members : List (Nat × Bool)} {own : Nat} {locked : Bool} (small : own < 4096) (each : ∀ m ∈ members, m.1 < 4096) :
    let g := grandmaster members own locked
    ((locked = true ∨ ∃ m ∈ members, m.2 = true) →
      (g, true) ∈ (own, locked) :: members ∧ ∀ m ∈ (own, locked) :: members, m.2 = true → g ≤ m.1) ∧
    (locked = false → (∀ m ∈ members, m.2 = false) → (∃ b, (g, b) ∈ (own, locked) :: members) ∧ ∀ m ∈ (own, locked) :: members, g ≤ m.1) := by
  have low : ∀ m ∈ (own, locked) :: members, m.1 < 4096 := List.forall_mem_cons.2 ⟨small, each⟩
  unfold grandmaster
  dsimp only
  generalize all : (own, locked) :: members = xs at *
  refine ⟨fun some_ => ?_, fun none_ noneOf => ?_⟩
  · have any : xs.any (·.2) = true := by
      rw [List.any_eq_true, ← all]
      rcases some_ with rfl | ⟨m, hm, on⟩
      · exact ⟨_, List.mem_cons_self .., rfl⟩
      · exact ⟨m, List.mem_cons_of_mem _ hm, on⟩
    rw [if_pos any]
    have best : ((xs.filter (·.2)).map (·.1)) ≠ [] := by
      obtain ⟨m, hm, on⟩ := List.any_eq_true.1 any
      exact List.ne_nil_of_mem (List.mem_map.2 ⟨m, List.mem_filter.2 ⟨hm, on⟩, rfl⟩)
    obtain ⟨m, hm, first⟩ := List.mem_map.1 (foldl_min_mem best fun x hx => by
      obtain ⟨m, hm, rfl⟩ := List.mem_map.1 hx
      exact low m (List.mem_of_mem_filter hm))
    obtain ⟨listed, on⟩ := List.mem_filter.1 hm
    refine ⟨?_, fun n hn on' => (foldl_min_spec _ _).2.2 _ (List.mem_map.2 ⟨n, List.mem_filter.2 ⟨hn, on'⟩, rfl⟩)⟩
    rw [← first, ← on]
    exact listed
  · have any : ¬ (xs.any (·.2) = true) := by
      rw [List.any_eq_true, ← all]
      rintro ⟨m, hm, on⟩
      rcases List.mem_cons.mp hm with rfl | later
      · rw [none_] at on; exact nomatch on
      · rw [noneOf m later] at on; exact nomatch on
    rw [if_neg any]
    obtain ⟨m, hm, first⟩ := List.mem_map.1 (foldl_min_mem (xs := xs.map (·.1)) (by rw [← all]; exact List.cons_ne_nil _ _) fun x hx => by
      obtain ⟨m, hm, rfl⟩ := List.mem_map.1 hx
      exact low m hm)
    refine ⟨⟨m.2, ?_⟩, fun n hn => (foldl_min_spec _ _).2.2 _ (List.mem_map.2 ⟨n, hn, rfl⟩)⟩
    rw [← first]
    exact hm

/-! ## Disciplines (R363) -/

/-- GM and DT_LOCKED brought to new values: those and FVL0's interrupts alone change. -/
theorem State.setTime_spec (s : State) (gm locked : Bool) : (s.setTime gm locked).get R.FVL0_GM = b2n gm ∧ (s.setTime gm locked).get R.FVL0_DT_LOCKED = b2n locked ∧
    onlyFields [R.FVL0_GM, R.BLK_INT_RAW (pgFVL 0), R.FVL0_DT_LOCKED] s (s.setTime gm locked) := by
  have one : ∀ (b : Bool) (f : Field), f.width = 1 → b2n b < 2 ^ f.width := fun b f w => by rw [w]; cases b <;> decide
  have brought : ∀ (v : State) (f : Field) (b : Bool) (i : Nat), f.width = 1 → (R.BLK_INT_RAW (pgFVL 0)).key ≠ f.key → 
      (if v.get f = b2n b then v else (v.set f (b2n b)).raise (pgFVL 0) i).get f = b2n b ∧
      onlyFields [f, R.BLK_INT_RAW (pgFVL 0)] v (if v.get f = b2n b then v else (v.set f (b2n b)).raise (pgFVL 0) i) := fun v f b i w other => by
    split
    next same => exact ⟨same, onlyFields_refl _ _⟩
    next => exact ⟨(State.raise_get_ne _ _ _ _ other).trans (State.get_set_fits _ (one b f w)), onlyFields_trans (onlyFields_set _ _ _) (State.raise_onlyFields _ _ _)⟩
  unfold State.setTime
  dsimp only
  obtain ⟨gmSet, gmOnly⟩ := brought s R.FVL0_GM gm 11 rfl (by decide)
  generalize (if s.get R.FVL0_GM = b2n gm then s else (s.set R.FVL0_GM (b2n gm)).raise (pgFVL 0) 11) = v at *
  obtain ⟨lockSet, lockOnly⟩ := brought v R.FVL0_DT_LOCKED locked 8 rfl (by decide)
  refine ⟨?_, lockSet, onlyFields_mono (onlyFields_trans gmOnly lockOnly) fun f hf => ?_⟩
  · rw [lockOnly.1 _ (by decide)]; exact gmSet
  · simp only [List.mem_append, List.mem_cons, List.not_mem_nil, or_false] at hf ⊢
    tauto

/-- DT_DEPTH and DT_ERR written and DT_STALE cleared. -/
def State.noteDiscipline (s : State) (depth err : Nat) : State := ((s.set R.FVL0_DT_DEPTH depth).set R.FVL0_DT_ERR_NS err).set R.FVL0_DT_STALE 0

theorem State.noteDiscipline_spec (s : State) {depth err : Nat} (deep : depth < 2 ^ 8) (far : err < 2 ^ 16) :
    (s.noteDiscipline depth err).get R.FVL0_DT_DEPTH = depth ∧ (s.noteDiscipline depth err).get R.FVL0_DT_ERR_NS = err ∧
    (s.noteDiscipline depth err).get R.FVL0_DT_STALE = 0 ∧ keeps [R.FVL0_DT_DEPTH, R.FVL0_DT_ERR_NS, R.FVL0_DT_STALE] s (s.noteDiscipline depth err) := by
  unfold State.noteDiscipline
  refine ⟨?_, ?_, (State.get_set_same ..).trans rfl, keeps_trans (keeps_trans (keeps_set _ _ _) (keeps_set _ _ _)) (keeps_set _ _ _)⟩
  · rw [State.get_set_ne _ _ _ _ (by decide), State.get_set_ne _ _ _ _ (by decide)]
    exact State.get_set_fits _ deep
  · rw [State.get_set_ne _ _ _ _ (by decide)]
    exact State.get_set_fits _ far

section
variable {k : Fin 8} {delay : BitVec 24} {members : List (Fin 4096 × Bool)} {parent : Option Nat} {depth : BitVec 8}

/-- A module that takes part in a delay exchange. -/
theorem execDelayExchange_eq (enrolled : s.enrolled = true) (tree : k.val < 6) (up : s.linkUp k = true) :
    let v := s.set (R.FVL_DELAY k) delay.toNat
    exec (.delayExchange k delay members parent depth) s =
      if grandmaster (members.map fun m => (m.1.val, m.2)) (v.get R.FVL0_MEMBER_NO) (v.get R.FVL0_PPS_LOCKED == 1) = v.get R.FVL0_MEMBER_NO then
        .next { (v.setTime true true).noteDiscipline 0 0 with dm := { (v.setTime true true).dm with lostAt := none, parent := none, disciplined := (v.setTime true true).quartz } }
      else match parent with
        | none => .next (v.setTime false (v.get R.FVL0_GM == 0 && v.get R.FVL0_DT_LOCKED == 1))
        | some time =>
          let most : Int := ((v.quartz - v.dm.disciplined) * 50 / 1000000 : Nat)
          let diff : Int := (time : Int) - v.domainTime
          let w := v.setTime false true
          .next { w.noteDiscipline depth.toNat ((7 * depth.toNat + 9) / 10) with
            dm := { w.dm with offset := w.dm.offset + max (-most) (min most diff), lostAt := none, parent := some k.val, disciplined := w.quartz } } := by
  show execDelayExchange k delay members parent depth s = _
  unfold execDelayExchange
  rw [if_neg (by simp [enrolled, isTreeLink, tree, up])]
  cases parent <;> rfl

theorem execDelayExchange_spec (enrolled : s.enrolled = true) (tree : k.val < 6) (up : s.linkUp k = true) :
    let own := s.get R.FVL0_MEMBER_NO
    let gm := grandmaster (members.map fun m => (m.1.val, m.2)) own (s.get R.FVL0_PPS_LOCKED == 1)
    ∃ t, exec (.delayExchange k delay members parent depth) s = .next t ∧ t.get (R.FVL_DELAY k) = delay.toNat ∧
      (gm = own → t.get R.FVL0_GM = 1 ∧ t.get R.FVL0_DT_LOCKED = 1 ∧ t.dm.lostAt = none ∧ t.get R.FVL0_DT_STALE = 0 ∧
        t.dm.offset = s.dm.offset ∧ t.get R.FVL0_DT_DEPTH = 0 ∧ t.get R.FVL0_DT_ERR_NS = 0) ∧
      (gm ≠ own → t.get R.FVL0_GM = 0 ∧
        (parent = none → t.dm = s.dm ∧ t.get R.FVL0_DT_LOCKED = (if s.get R.FVL0_GM = 0 ∧ s.get R.FVL0_DT_LOCKED = 1 then 1 else 0)) ∧
        (∀ pt, parent = some pt → t.get R.FVL0_DT_LOCKED = 1 ∧ t.dm.lostAt = none ∧ t.get R.FVL0_DT_STALE = 0 ∧ t.dm.parent = some k.val ∧
          t.get R.FVL0_DT_DEPTH = depth.toNat ∧ t.get R.FVL0_DT_ERR_NS = (7 * depth.toNat + 9) / 10 ∧
          (t.dm.offset - s.dm.offset).natAbs ≤ (s.quartz - s.dm.disciplined) * 50 / 1000000 ∧
          (((pt : Int) - s.domainTime).natAbs ≤ (s.quartz - s.dm.disciplined) * 50 / 1000000 →
            t.dm.offset = s.dm.offset + ((pt : Int) - s.domainTime)))) := by
  intro own gm
  have run := execDelayExchange_eq (delay := delay) (members := members) (parent := parent) (depth := depth) enrolled tree up
  have delayed : (s.set (R.FVL_DELAY k) delay.toNat).get (R.FVL_DELAY k) = delay.toNat := State.get_set_fits _ delay.isLt
  have other : ∀ f : Field, f.lsb < 32 → f.addr = 0x71200 ∨ f.addr = 0x71204 ∨ f.addr = 0x71210 ∨ f.addr = 0x71010 → (R.FVL_DELAY k).key ≠ f.key := fun f lsb at_ => by
    simp only [Field.key, R.FVL_DELAY]; omega
  have same : ∀ f : Field, f.lsb < 32 → f.addr = 0x71200 ∨ f.addr = 0x71204 ∨ f.addr = 0x71210 ∨ f.addr = 0x71010 →
      (s.set (R.FVL_DELAY k) delay.toNat).get f = s.get f := fun f lsb at_ => State.get_set_ne _ _ _ _ (other f lsb at_)
  have dm : (s.set (R.FVL_DELAY k) delay.toNat).dm = s.dm := rfl
  have quartz : (s.set (R.FVL_DELAY k) delay.toNat).quartz = s.quartz := rfl
  have time : (s.set (R.FVL_DELAY k) delay.toNat).domainTime = s.domainTime := rfl
  have notGm := same R.FVL0_GM (by decide) (by decide)
  have notLocked := same R.FVL0_DT_LOCKED (by decide) (by decide)
  dsimp only at run
  rw [same R.FVL0_MEMBER_NO (by decide) (by decide), same R.FVL0_PPS_LOCKED (by decide) (by decide)] at run
  generalize s.set (R.FVL_DELAY k) delay.toNat = v at *
  have kept : ∀ {fs : List Field} {t u : State}, keeps fs t u → (∀ f ∈ fs, f.lsb < 32 ∧ (f.addr = 0x71200 ∨ f.addr = 0x71204 ∨ f.addr = 0x71210 ∨ f.addr = 0x71010)) →
      u.get (R.FVL_DELAY k) = t.get (R.FVL_DELAY k) := fun h near => h _ fun f hf => (other f (near f hf).1 (near f hf).2).symm
  by_cases master : gm = own
  · rw [if_pos master] at run
    obtain ⟨gmSet, lockSet, only⟩ := v.setTime_spec true true
    obtain ⟨depthSet, errSet, staleSet, rest⟩ := (v.setTime true true).noteDiscipline_spec (depth := 0) (err := 0) (by decide) (by decide)
    have offset : (v.setTime true true).dm.offset = s.dm.offset := by rw [only.2.2]; exact congrArg _ dm
    refine ⟨_, run, ?_, fun _ => ⟨?_, ?_, rfl, staleSet, offset, depthSet, errSet⟩, fun not => absurd master not⟩
    · exact (kept rest (by decide)).trans ((kept only.1 (by decide)).trans delayed)
    · exact (rest _ (by decide)).trans gmSet
    · exact (rest _ (by decide)).trans lockSet
  · rw [if_neg master] at run
    cases parent with
    | none =>
      obtain ⟨gmSet, lockSet, only⟩ := v.setTime_spec false (v.get R.FVL0_GM == 0 && v.get R.FVL0_DT_LOCKED == 1)
      refine ⟨_, run, (kept only.1 (by decide)).trans delayed, fun is => absurd is master, fun _ => ⟨gmSet, fun _ => ⟨by rw [only.2.2]; exact dm, ?_⟩, fun _ h => nomatch h⟩⟩
      rw [lockSet, notGm, notLocked]
      by_cases holds : s.get R.FVL0_GM = 0 ∧ s.get R.FVL0_DT_LOCKED = 1
      · rw [if_pos holds, holds.1, holds.2]; rfl
      · rw [if_neg holds]
        have off : (s.get R.FVL0_GM == 0 && s.get R.FVL0_DT_LOCKED == 1) = false := by
          rw [Bool.eq_false_iff]
          simpa using holds
        rw [off]; rfl
    | some pt =>
      obtain ⟨gmSet, lockSet, only⟩ := v.setTime_spec false true
      have deep := depth.isLt
      obtain ⟨depthSet, errSet, staleSet, rest⟩ := (v.setTime false true).noteDiscipline_spec (depth := depth.toNat) (err := (7 * depth.toNat + 9) / 10) deep (by omega)
      have offset : (v.setTime false true).dm.offset = s.dm.offset := by rw [only.2.2]; exact congrArg _ dm
      dsimp only at run
      rw [offset, dm, quartz, time] at run
      refine ⟨_, run, ?_, fun is => absurd is master, fun _ => ⟨?_, fun h => (nomatch h), fun pt' same' => ?_⟩⟩
      · exact (kept rest (by decide)).trans ((kept only.1 (by decide)).trans delayed)
      · exact (rest _ (by decide)).trans gmSet
      · cases same'
        refine ⟨(rest _ (by decide)).trans lockSet, rfl, staleSet, rfl, depthSet, errSet, ?_, fun near => ?_⟩
        · dsimp only
          omega
        · dsimp only
          omega

end

end Sys2Proof.Machine
end

section
/-! SUPPORT. Messages along the time tree, and epochs scheduled, cancelled and opened (R364, R365, R368, R370-R372). -/
namespace Sys2Proof.Machine

variable {s t u : State}

/-! ## Messages along the time tree (R363, R366) -/

/-- What `s` has sent stands in `t`, and each link's STATE. -/
structure Speaks (s t : State) : Prop where
  states : ∀ k, t.get (R.FVL_STATE k) = s.get (R.FVL_STATE k)
  out : ∀ o ∈ s.out, o ∈ t.out

namespace Speaks

theorem refl : Speaks s s := ⟨fun _ => rfl, fun _ h => h⟩
theorem trans (h : Speaks s t) (g : Speaks t u) : Speaks s u := ⟨fun k => (g.states k).trans (h.states k), fun o ho => g.out o (h.out o ho)⟩
theorem quiet (states : ∀ k, t.get (R.FVL_STATE k) = s.get (R.FVL_STATE k)) (out : t.out = s.out) : Speaks s t := ⟨states, fun o ho => by rw [out]; exact ho⟩
theorem linkUp (h : Speaks s t) (k : Nat) : t.linkUp k = s.linkUp k := by rw [State.linkUp, h.states]; rfl
theorem treeLinks (h : Speaks s t) : t.treeLinks = s.treeLinks := by simp only [State.treeLinks, h.linkUp]

theorem foldl {α : Type} {f : State → α → State} {xs : List α} (h : Speaks s t) (hf : ∀ v a, Speaks v (f v a)) : Speaks s (xs.foldl f t) :=
  foldl_keeps (Speaks s) f (fun v a hv => hv.trans (hf v a)) xs t h

theorem raise {p i : Nat} (h : Speaks s t) : Speaks s (t.raise p i) := by
  obtain ⟨-, ⟨ms, out, -⟩, -⟩ := t.raise_onlyFields p i
  refine h.trans ⟨fun k => t.raise_get_ne _ _ _ (linkFields_raw k _ _ (by simp [linkFields])), fun o ho => ?_⟩
  rw [out]
  exact List.mem_append_left _ ho

theorem sendOn {j : Nat} {o : Output} (h : Speaks s t) : Speaks s (t.sendOn j o) := by
  refine h.trans ⟨fun k => ?_, (Talks.sendOn (k := j) .refl).out⟩
  exact t.sendOn_keeps j o _ (by simpa using linkFields_flits k j _ (by simp [linkFields]))

end Speaks

/-- Messages on links that are UP, one to each: each goes out. -/
theorem foldl_sendOn_each (o : Nat → Output) {js : List Nat} (up : ∀ j ∈ js, s.linkUp j = true) :
    Speaks s (js.foldl (fun s j => s.sendOn j (o j)) s) ∧ ∀ j ∈ js, o j ∈ (js.foldl (fun s j => s.sendOn j (o j)) s).out := by
  induction js generalizing s with
  | nil => exact ⟨.refl, fun _ h => nomatch h⟩
  | cons i js ih =>
    have sent : Speaks s (s.sendOn i (o i)) := .sendOn .refl
    obtain ⟨rest, each⟩ := ih (s := s.sendOn i (o i)) fun j hj => (sent.linkUp j).trans (up j (List.mem_cons_of_mem _ hj))
    refine ⟨sent.trans rest, fun j hj => ?_⟩
    rcases List.mem_cons.mp hj with rfl | later
    · exact rest.out _ (s.sendOn_says _ (up j (List.mem_cons_self ..)))
    · exact each j later

theorem treeLinks_up {j : Nat} (h : j ∈ s.treeLinks) : s.linkUp j = true ∧ j < 6 := by
  obtain ⟨low, carries⟩ := List.mem_filter.1 h
  simp only [Bool.and_eq_true] at carries
  exact ⟨carries.1, List.mem_range.1 low⟩

/-- Messages on links of the tree change what messages change. -/
theorem foldl_sendOn_only (o : Nat → Output) (js : List Nat) (s : State) : js.foldl (fun s j => s.sendOn j (o j)) s =
    { s with regs := (js.foldl (fun s j => s.sendOn j (o j)) s).regs, ln := (js.foldl (fun s j => s.sendOn j (o j)) s).ln,
             pw := (js.foldl (fun s j => s.sendOn j (o j)) s).pw, out := (js.foldl (fun s j => s.sendOn j (o j)) s).out } :=
  foldl_keeps (fun u : State => u = { s with regs := u.regs, ln := u.ln, pw := u.pw, out := u.out }) _ (fun u j hu => by
    have one := u.sendOn_only j (o j)
    generalize u.sendOn j (o j) = w at *
    rw [one, hu]) js s rfl

theorem foldl_sendOn_keeps (o : Nat → Output) {js : List Nat} (low : ∀ j ∈ js, j < 8) (s : State) :
    keeps ((List.range 8).map R.FVL_TX_FLITS) s (js.foldl (fun s j => s.sendOn j (o j)) s) :=
  List.foldlRecOn js _ (motive := fun u : State => keeps ((List.range 8).map R.FVL_TX_FLITS) s u) (keeps_refl s _) fun u hu j hj f hf =>
    (u.sendOn_keeps j (o j) f fun g hg => hf g (by
      rw [List.mem_singleton.1 hg]
      exact List.mem_map.2 ⟨j, List.mem_range.2 (low j hj), rfl⟩)).trans (hu f hf)

theorem State.tellTree_spec (s : State) (o : Nat → Output) : Speaks s (s.tellTree o) ∧ (∀ j ∈ s.treeLinks, o j ∈ (s.tellTree o).out) ∧
    keeps ((List.range 8).map R.FVL_TX_FLITS) s (s.tellTree o) ∧
    s.tellTree o = { s with regs := (s.tellTree o).regs, ln := (s.tellTree o).ln, pw := (s.tellTree o).pw, out := (s.tellTree o).out } := by
  obtain ⟨speaks, each⟩ := foldl_sendOn_each (s := s) o (js := s.treeLinks) fun j hj => (treeLinks_up hj).1
  exact ⟨speaks, each, foldl_sendOn_keeps o (fun j hj => by have := (treeLinks_up hj).2; omega) s, foldl_sendOn_only o _ s⟩

/-- Interrupts of a page stand through messages along the tree. -/
theorem flits_apart_raw (p : Nat) : ∀ g ∈ (List.range 8).map R.FVL_TX_FLITS, g.key ≠ (R.BLK_INT_RAW p).key := by
  intro g hg
  obtain ⟨j, -, rfl⟩ := List.mem_map.1 hg
  simp only [Field.key, R.FVL_TX_FLITS, R.BLK_INT_RAW]; omega

theorem State.tellTree_raw (s : State) (o : Nat → Output) (p i : Nat) : (s.tellTree o).bit (R.BLK_INT_RAW p) i = s.bit (R.BLK_INT_RAW p) i := by
  rw [State.bit, (s.tellTree_spec o).2.2.1 _ (flits_apart_raw p)]; rfl

theorem State.tellTree_part (s : State) (o : Nat → Output) (p : Nat) : (s.tellTree o).part p = s.part p := by rw [(s.tellTree_spec o).2.2.2]; rfl

/-! ## PPS, holdover and catch-up (R364, R365, R368) -/

theorem execPpsEdge_spec (enrolled : s.enrolled = true) (pin : s.get (R.PAD_EN 8) = 1) :
    let e : Int := (s.domainTime % 1000000000 : Nat) - (s.get R.FVL0_PPS_OFFSET : Int)
    let d : Int := if 500000000 < e then e - 1000000000 else if e < -500000000 then e + 1000000000 else e
    ∃ t, exec .ppsEdge s = .next t ∧
      (if d.natAbs ≤ 1000000 then
        t.get R.FVL0_PPS_LOCKED = 1 ∧ t.get R.FVL0_PPS_BAD = 0 ∧ t.dm.ppsMissed = 0 ∧
        t.dm.offset = (if s.get R.FVL0_GM = 1 then s.dm.offset - d else s.dm.offset)
       else t.get R.FVL0_PPS_BAD = 1 ∧ t.dm.offset = s.dm.offset ∧ raised (pgFVL 0) [14] s t ∧ t.dm.ppsMissed = s.dm.ppsMissed + 1 ∧
        t.get R.FVL0_PPS_LOCKED = (if 2 ≤ s.dm.ppsMissed then 0 else s.get R.FVL0_PPS_LOCKED)) := by
  intro e d
  have missed : ∀ (v : State) (n : Nat), ({ v with dm.ppsMissed := n } : State).get R.FVL0_GM = v.get R.FVL0_GM := fun _ _ => rfl
  have run : exec .ppsEdge s = execPpsEdge s := rfl
  unfold execPpsEdge at run
  rw [if_neg (by simp [enrolled, pin])] at run
  dsimp only at run
  by_cases near : d.natAbs ≤ 1000000
  · rw [if_pos near] at run
    have gm : ((s.set R.FVL0_PPS_LOCKED 1).set R.FVL0_PPS_BAD 0).get R.FVL0_GM = s.get R.FVL0_GM :=
      (State.get_set_ne _ _ _ _ (by decide)).trans (State.get_set_ne _ _ _ _ (by decide))
    have locked : ((s.set R.FVL0_PPS_LOCKED 1).set R.FVL0_PPS_BAD 0).get R.FVL0_PPS_LOCKED = 1 :=
      (State.get_set_ne _ _ _ _ (by decide)).trans (State.get_set_same ..)
    have good : ((s.set R.FVL0_PPS_LOCKED 1).set R.FVL0_PPS_BAD 0).get R.FVL0_PPS_BAD = 0 := State.get_set_same ..
    have dm : ((s.set R.FVL0_PPS_LOCKED 1).set R.FVL0_PPS_BAD 0).dm = s.dm := rfl
    generalize (s.set R.FVL0_PPS_LOCKED 1).set R.FVL0_PPS_BAD 0 = v at *
    rw [missed, gm] at run
    refine ⟨_, run, ?_⟩
    rw [if_pos near]
    split
    · exact ⟨locked, good, rfl, by rw [← dm]⟩
    · exact ⟨locked, good, rfl, by rw [← dm]⟩
  · rw [if_neg near] at run
    obtain ⟨-, -, only⟩ := (s.set R.FVL0_PPS_BAD 1).raise_onlyFields (pgFVL 0) 14
    have bad : ((s.set R.FVL0_PPS_BAD 1).raise (pgFVL 0) 14).get R.FVL0_PPS_BAD = 1 := (State.raise_get_ne _ _ _ _ (by decide)).trans (State.get_set_same ..)
    have locked : ((s.set R.FVL0_PPS_BAD 1).raise (pgFVL 0) 14).get R.FVL0_PPS_LOCKED = s.get R.FVL0_PPS_LOCKED :=
      (State.raise_get_ne _ _ _ _ (by decide)).trans (State.get_set_ne _ _ _ _ (by decide))
    have dm : ((s.set R.FVL0_PPS_BAD 1).raise (pgFVL 0) 14).dm = s.dm := by rw [only]; rfl
    have told : raised (pgFVL 0) [14] s ((s.set R.FVL0_PPS_BAD 1).raise (pgFVL 0) 14) := fun j hj => by
      rw [State.raise_raised _ _ _ j hj, State.bit, State.get_set_ne _ _ _ _ (by decide)]; rfl
    generalize (s.set R.FVL0_PPS_BAD 1).raise (pgFVL 0) 14 = v at *
    rw [dm] at run
    refine ⟨_, run, ?_⟩
    rw [if_neg near]
    by_cases third : 2 ≤ s.dm.ppsMissed
    · rw [if_pos (by omega), if_pos third]
      refine ⟨(State.get_set_ne _ _ _ _ (by decide)).trans bad, rfl, fun j hj => ?_, rfl, State.get_set_same ..⟩
      rw [State.bit, State.get_set_ne _ _ _ _ (by decide)]
      exact told j hj
    · rw [if_neg (by omega), if_neg third]
      exact ⟨bad, rfl, told, rfl, locked⟩

theorem execEnrolmentCatchupDone_spec (busy : s.dm.catchup = true) :
    ∃ t, exec .enrolmentCatchupDone s = .next t ∧ t.get R.FVL0_REPL_GAP = 0 ∧ t.dm = { s.dm with catchup := false } ∧ raised (pgFVL 0) [13] s t ∧
      keeps [R.FVL0_REPL_GAP, R.BLK_INT_RAW (pgFVL 0)] s t := by
  obtain ⟨v, gap⟩ : ∃ v, v = ({ s.set R.FVL0_REPL_GAP 0 with dm.catchup := false } : State) := ⟨_, rfl⟩
  have field : ∀ f, v.get f = (s.set R.FVL0_REPL_GAP 0).get f := fun f => by rw [gap]; rfl
  obtain ⟨kept, -, only⟩ := v.raise_onlyFields (pgFVL 0) 13
  refine ⟨v.raise (pgFVL 0) 13, ?_, ?_, ?_, fun j hj => ?_, fun f hf => ?_⟩
  · rw [gap]; exact if_pos busy
  · rw [State.raise_get_ne _ _ _ _ (by decide), field]; exact State.get_set_same ..
  · rw [only, gap]; rfl
  · rw [State.raise_raised _ _ _ j hj, State.bit, field, State.get_set_ne _ _ _ _ (by decide)]; rfl
  · rw [kept f fun g hg => hf g (by simp_all), field, State.get_set_ne _ _ _ _ (hf _ (by simp))]

theorem execDtStale_spec {t0 : Nat} (lost : s.dm.lostAt = some t0) (far : 1000 < s.dtErr) : exec .dtStale s = .next (s.set R.FVL0_DT_STALE 1) :=
  if_pos ⟨by rw [lost]; rfl, far⟩

theorem execDtStale_waits (h : s.dm.lostAt = none ∨ s.dtErr ≤ 1000) : exec .dtStale s = .next s :=
  if_neg fun both => h.elim (fun none_ => by rw [none_] at both; exact nomatch both.1) fun near => absurd both.2 (Nat.not_lt.2 near)

end Sys2Proof.Machine
end

section
/-! SUPPORT. Epochs scheduled, cancelled and opened along the time tree (R370-R372). -/
namespace Sys2Proof.Machine

variable {s t u : State} {p : Nat}

/-! ## What schedules leave alone -/

/-- Of the partitions only `p` may differ; domain time, the links and what was sent stand. -/
structure EpochMoves (p : Nat) (s t : State) : Prop where
  speaks : Speaks s t
  others : ∀ j, j ≠ p → t.part j = s.part j
  time : t.domainTime = s.domainTime

namespace EpochMoves

theorem refl : EpochMoves p s s := ⟨.refl, fun _ _ => rfl, rfl⟩

theorem trans (h : EpochMoves p s t) (g : EpochMoves p t u) : EpochMoves p s u :=
  ⟨h.speaks.trans g.speaks, fun j hj => (g.others j hj).trans (h.others j hj), g.time.trans h.time⟩

theorem updPart (h : EpochMoves p s t) {f : Part → Part} : EpochMoves p s (t.updPart p f) :=
  h.trans ⟨.quiet (fun _ => rfl) rfl, fun _ hj => State.part_updPart_ne _ _ _ _ (Ne.symm hj), rfl⟩

theorem raise (h : EpochMoves p s t) {q i : Nat} : EpochMoves p s (t.raise q i) := by
  obtain ⟨-, -, only⟩ := t.raise_onlyFields q i
  exact h.trans ⟨.raise .refl, fun j _ => by rw [only]; rfl, by rw [only]; rfl⟩

theorem tellTree (h : EpochMoves p s t) {o : Nat → Output} : EpochMoves p s (t.tellTree o) := by
  obtain ⟨speaks, -, -, only⟩ := t.tellTree_spec o
  exact h.trans ⟨speaks, fun j _ => by rw [only]; rfl, by rw [only]; rfl⟩

end EpochMoves

/-! ## An epoch opens at its Ts (R370) -/

/-- A partition whose pending epoch opens. -/
def Part.opened (x : Part) (ts tov : Nat) : Part :=
  { x with epoch := (x.epoch + 1) % 2 ^ 32, epTs := ts, epTov := tov, epPending := none, overlap := true }

theorem State.openEpoch_none (h : (s.part p).epPending = none) : s.openEpoch p = s := by unfold State.openEpoch; rw [h]

theorem State.openEpoch_early {ts tov : Nat} (h : (s.part p).epPending = some (ts, tov)) (early : s.domainTime < ts) : s.openEpoch p = s := by
  unfold State.openEpoch
  rw [h]
  exact if_neg (Nat.not_le.2 early)

theorem State.openEpoch_due {ts tov : Nat} (h : (s.part p).epPending = some (ts, tov)) (due : ts ≤ s.domainTime) :
    s.openEpoch p = (s.updPart p fun x => x.opened ts tov).raise (pgFVL 0) 9 := by
  unfold State.openEpoch
  rw [h]
  exact if_pos due

/-- The epoch stands as it is: nothing is pending, or its Ts is still to come. -/
def State.EpochRests (s : State) (p : Nat) : Prop := ∀ ts tov, (s.part p).epPending = some (ts, tov) → s.domainTime < ts

theorem State.EpochRests.opens (h : s.EpochRests p) : s.openEpoch p = s := by
  cases pending : (s.part p).epPending with
  | none => exact State.openEpoch_none pending
  | some e => exact State.openEpoch_early (ts := e.1) (tov := e.2) pending (h e.1 e.2 pending)

/-- The two ways: the epoch rests, or it opens. -/
theorem State.openEpoch_ways (s : State) (p : Nat) : s.EpochRests p ∨ ∃ ts tov, (s.part p).epPending = some (ts, tov) ∧ ts ≤ s.domainTime := by
  cases pending : (s.part p).epPending with
  | none => exact .inl fun ts tov h => by rw [pending] at h; exact nomatch h
  | some e =>
    by_cases due : e.1 ≤ s.domainTime
    · exact .inr ⟨e.1, e.2, rfl, due⟩
    · exact .inl fun ts tov h => by rw [pending] at h; cases h; exact Nat.not_le.1 due

theorem State.openEpoch_due_part {ts tov : Nat} (h : (s.part p).epPending = some (ts, tov)) (due : ts ≤ s.domainTime) :
    (s.openEpoch p).part p = (s.part p).opened ts tov := by
  rw [State.openEpoch_due h due, State.part, State.raise_parts]
  exact State.part_updPart_same ..

theorem State.openEpoch_moves (s : State) (p : Nat) : EpochMoves p s (s.openEpoch p) := by
  rcases s.openEpoch_ways p with rests | ⟨ts, tov, pending, due⟩
  · rw [rests.opens]; exact .refl
  · rw [State.openEpoch_due pending due]; exact .raise (.updPart .refl)

theorem State.openEpoch_rests (s : State) (p : Nat) : (s.openEpoch p).EpochRests p := by
  rcases s.openEpoch_ways p with rests | ⟨ts, tov, pending, due⟩
  · rw [rests.opens]; exact rests
  · intro ts' tov' again
    rw [State.openEpoch_due_part pending due] at again
    exact nomatch again

theorem State.openEpoch_seq (s : State) (p : Nat) : ((s.openEpoch p).part p).epSeq = (s.part p).epSeq := by
  rcases s.openEpoch_ways p with rests | ⟨ts, tov, pending, due⟩
  · rw [rests.opens]
  · rw [State.openEpoch_due_part pending due]; rfl

theorem State.openEpoch_raised {ts tov : Nat} (h : (s.part p).epPending = some (ts, tov)) (due : ts ≤ s.domainTime) : raised (pgFVL 0) [9] s (s.openEpoch p) := by
  rw [State.openEpoch_due h due]
  exact State.raise_raised _ _ _

/-! ## Two messages along the tree (R371) -/

/-- A message passed on along the tree, then its answer: both go out on every link of it. -/
theorem tellTwice (moves : EpochMoves p s u) (o q : Nat → Output) :
    EpochMoves p s ((u.tellTree o).tellTree q) ∧ ∀ j ∈ s.treeLinks, q j ∈ ((u.tellTree o).tellTree q).out ∧ o j ∈ ((u.tellTree o).tellTree q).out := by
  have first : EpochMoves p s (u.tellTree o) := moves.tellTree
  refine ⟨first.tellTree, fun j hj => ⟨?_, ?_⟩⟩
  · exact ((u.tellTree o).tellTree_spec q).2.1 j (by rw [first.speaks.treeLinks]; exact hj)
  · exact ((u.tellTree o).tellTree_spec q).1.out _ ((u.tellTree_spec o).2.1 j (by rw [moves.speaks.treeLinks]; exact hj))

theorem raised_tellTree {bits : List Nat} {q : Nat} (h : raised q bits s u) (o : Nat → Output) : raised q bits s (u.tellTree o) := fun j hj => by
  rw [u.tellTree_raw o]; exact h j hj

/-! ## Schedules (R371) -/

/-- The entry of a partition after a schedule with a higher sequence. -/
def Part.scheduled (x : Part) (seq epoch ts tov : Nat) : Part :=
  if epoch ≤ x.epoch then { x with epSeq := seq, epCancelled := false }
  else { x with epSeq := seq, epCancelled := false, epoch := epoch - 1, epPending := some (ts, min tov 60000000000) }

theorem execScheduleReceive_new {part : Fin 1024} {seq : Nat} (epoch ts tov : Nat) (new : (s.part part).epSeq < seq) :
    exec (.scheduleReceive part seq epoch ts tov) s = .next (((((s.openEpoch part).updPart part fun x => x.scheduled seq epoch ts tov).openEpoch part).tellTree
      fun j => .schedule j part seq epoch ts tov).tellTree fun j => .scheduleAck j part seq false) :=
  if_neg (by rw [s.openEpoch_seq]; omega)

theorem execScheduleReceive_spec {part : Fin 1024} {seq : Nat} (epoch ts tov : Nat) (new : (s.part part).epSeq < seq) :
    let x := (s.openEpoch part).part part
    ∃ t, exec (.scheduleReceive part seq epoch ts tov) s = .next t ∧ (∀ j, j ≠ part.val → t.part j = s.part j) ∧
      (∀ j ∈ s.treeLinks, .scheduleAck j part seq false ∈ t.out ∧ .schedule j part seq epoch ts tov ∈ t.out) ∧
      (s.domainTime < ts → x.epoch < epoch →
        t.part part = { x with epSeq := seq, epCancelled := false, epoch := epoch - 1, epPending := some (ts, min tov 60000000000) }) ∧
      (ts ≤ s.domainTime → x.epoch < epoch → (t.part part).epoch = epoch % 2 ^ 32 ∧ (t.part part).epPending = none ∧ (t.part part).overlap = true) ∧
      (epoch ≤ x.epoch → t.part part = { x with epSeq := seq, epCancelled := false }) := by
  intro x
  have first := s.openEpoch_moves part
  have rests := s.openEpoch_rests part
  obtain ⟨w, placed⟩ : ∃ w, w = (s.openEpoch part).updPart part fun x => x.scheduled seq epoch ts tov := ⟨_, rfl⟩
  have entry : w.part part = x.scheduled seq epoch ts tov := by rw [placed]; exact State.part_updPart_same ..
  have moves : EpochMoves part s w := by rw [placed]; exact first.updPart
  obtain ⟨moved, sent⟩ := tellTwice (moves.trans (w.openEpoch_moves part)) (fun j => .schedule j part seq epoch ts tov) fun j => .scheduleAck j part seq false
  refine ⟨_, execScheduleReceive_new epoch ts tov new, ?_, ?_, fun early later => ?_, fun due later => ?_, fun old => ?_⟩
  · rw [← placed]; exact moved.others
  · rw [← placed]; exact sent
  all_goals rw [← placed, State.tellTree_part, State.tellTree_part]
  · rw [Part.scheduled, if_neg (by omega)] at entry
    rw [State.openEpoch_early (by rw [entry]) (by rw [moves.time]; exact early), entry]
  · rw [Part.scheduled, if_neg (by omega)] at entry
    rw [State.openEpoch_due_part (ts := ts) (by rw [entry]) (by rw [moves.time]; exact due), entry]
    exact ⟨show (epoch - 1 + 1) % 2 ^ 32 = _ by rw [Nat.sub_add_cancel (by omega)], rfl, rfl⟩
  · rw [Part.scheduled, if_pos old] at entry
    have still : w.EpochRests part := fun ts tov pending => by
      rw [moves.time, ← first.time]
      exact rests ts tov (by rw [entry] at pending; exact pending)
    rw [still.opens, entry]

theorem execScheduleReceive_old {part : Fin 1024} {seq : Nat} (epoch ts tov : Nat) (old : seq ≤ (s.part part).epSeq) :
    exec (.scheduleReceive part seq epoch ts tov) s = .next ((s.openEpoch part).tellTree fun j => .scheduleAck j part seq false) :=
  if_pos (by rw [s.openEpoch_seq]; exact old)

theorem execCancelReceive_old {part : Fin 1024} {seq : Nat} (old : seq ≤ (s.part part).epSeq) :
    exec (.cancelReceive part seq) s = .next (s.tellTree fun j => .scheduleAck j part seq false) := if_pos old

/-! ## Cancellations (R372) -/

/-- Did this member hold the schedule that a cancellation of `seq` takes back? -/
def Part.holds (x : Part) (seq : Nat) : Bool := decide (x.epSeq ≠ 0 ∧ x.epSeq + 1 = seq ∧ x.epCancelled = false)

/-- The partition's entry as a cancellation leaves it. -/
def Part.cancelled (x : Part) (seq : Nat) : Part := { x with epSeq := seq, epCancelled := true }

/-- A cancellation that is new here: `v` is the state with the cancellation noted and what was due opened. -/
theorem execCancelReceive_new {part : Fin 1024} {seq : Nat} {v : State} (new : (s.part part).epSeq < seq)
    (hv : v = (s.updPart part fun x => x.cancelled seq).openEpoch part) :
    let late : Bool := (s.part part).holds seq && (v.part part).epPending.isNone
    let w := v.updPart part fun x => { x with epPending := none }
    exec (.cancelReceive part seq) s =
      .next (((if late then w.raise (pgFVL 0) 15 else w).tellTree fun j => .cancel j part seq).tellTree fun j => .scheduleAck j part seq late) := by
  have same : ((s.part part).epSeq != 0 && (s.part part).epSeq + 1 == seq && !(s.part part).epCancelled) = (s.part part).holds seq := by
    rw [Part.holds, Bool.eq_iff_iff]
    simp [and_assoc]
  rw [hv]
  have run : exec (.cancelReceive part seq) s = execCancelReceive part seq s := rfl
  rw [run]
  unfold execCancelReceive
  dsimp only
  rw [if_neg (by omega), same]
  rfl

/-- What a new cancellation does, `late` telling whether the epoch it takes back is open. -/
theorem execCancelReceive_spec {part : Fin 1024} {seq : Nat} {v : State} {late : Bool} (new : (s.part part).epSeq < seq)
    (hv : v = (s.updPart part fun x => x.cancelled seq).openEpoch part) (hl : late = ((s.part part).holds seq && (v.part part).epPending.isNone)) :
    ∃ t, exec (.cancelReceive part seq) s = .next t ∧ (∀ j ∈ s.treeLinks, .scheduleAck j part seq late ∈ t.out ∧ .cancel j part seq ∈ t.out) ∧
      raised (pgFVL 0) (if late then [15] else []) v t ∧ t.part part = { v.part part with epPending := none } ∧
      (late = false → keeps ((List.range 8).map R.FVL_TX_FLITS) v t) := by
  have run := execCancelReceive_new new hv
  dsimp only at run
  rw [← hl] at run
  have moves : EpochMoves part s v := by rw [hv]; exact (EpochMoves.refl.updPart).trans (State.openEpoch_moves _ _)
  obtain ⟨w, hw⟩ : ∃ w, w = v.updPart part fun x => { x with epPending := none } := ⟨_, rfl⟩
  have entry : w.part part = { v.part part with epPending := none } := by rw [hw]; exact State.part_updPart_same ..
  have away : EpochMoves part s w := by rw [hw]; exact moves.updPart
  rw [← hw] at run
  obtain ⟨m, hm⟩ : ∃ m, m = if late then w.raise (pgFVL 0) 15 else w := ⟨_, rfl⟩
  rw [← hm] at run
  have told : EpochMoves part s m ∧ raised (pgFVL 0) (if late then [15] else []) v m ∧ m.part part = w.part part ∧ (late = false → m = w) := by
    cases late with
    | true =>
      rw [hm]
      refine ⟨away.raise, ?_, ?_, fun h => nomatch h⟩
      · have bits := w.raise_raised (pgFVL 0) 15
        rw [hw] at bits ⊢
        exact bits
      · show (w.raise (pgFVL 0) 15).part part = _
        rw [State.part, State.raise_parts]; rfl
    | false =>
      rw [hm]
      refine ⟨away, fun j _ => ?_, rfl, fun _ => rfl⟩
      show w.bit _ j = _
      rw [hw]
      simp only [Bool.false_eq_true, if_false, List.contains_nil, Bool.or_false]
      rfl
  obtain ⟨moved, bits, same, quiet⟩ := told
  obtain ⟨-, sent⟩ := tellTwice moved (fun j => .cancel j part seq) fun j => .scheduleAck j part seq late
  refine ⟨_, run, sent, raised_tellTree (raised_tellTree bits _) _, ?_, fun still => ?_⟩
  · rw [State.tellTree_part, State.tellTree_part, same, entry]
  · have first := (m.tellTree_spec fun j => .cancel j part seq).2.2.1
    have second := ((m.tellTree fun j => .cancel j part seq).tellTree_spec fun j => .scheduleAck j part seq late).2.2.1
    have both := keeps_trans first second
    rw [quiet still] at both ⊢
    rw [hw] at both ⊢
    exact keeps_mono both (by simp)

theorem cancel_after {part : Fin 1024} {seq ts tov : Nat} (new : (s.part part).epSeq < seq) (pending : (s.part part).epPending = some (ts, tov))
    (due : ts ≤ s.domainTime) :
    let held : Bool := decide ((s.part part).epSeq ≠ 0 ∧ (s.part part).epSeq + 1 = seq ∧ (s.part part).epCancelled = false)
    ∃ t, exec (.cancelReceive part seq) s = .next t ∧ (∀ j ∈ s.treeLinks, .scheduleAck j part seq held ∈ t.out ∧ .cancel j part seq ∈ t.out) ∧
      raised (pgFVL 0) (if held then [9, 15] else [9]) s t ∧
      t.part part = { s.part part with epSeq := seq, epCancelled := true, epoch := ((s.part part).epoch + 1) % 2 ^ 32, epTs := ts, epTov := tov, epPending := none,
                                       overlap := true } := by
  intro held
  obtain ⟨c, hc⟩ : ∃ c, c = s.updPart part fun x => x.cancelled seq := ⟨_, rfl⟩
  have entry : c.part part = (s.part part).cancelled seq := by rw [hc]; exact State.part_updPart_same ..
  have waits : (c.part part).epPending = some (ts, tov) := by rw [entry]; exact pending
  have now : ts ≤ c.domainTime := by rw [hc]; exact due
  have opened := State.openEpoch_due_part waits now
  have nine : raised (pgFVL 0) [9] s (c.openEpoch part) := by
    have bits := State.openEpoch_raised waits now
    intro j hj
    rw [bits j hj, hc]; rfl
  obtain ⟨t, run, sent, bits, last, -⟩ := execCancelReceive_spec (late := held) new (by rw [← hc]) (by rw [opened]; exact (Bool.and_true _).symm)
  refine ⟨t, run, sent, ?_, ?_⟩
  · have all := raised_trans nine bits
    cases hh : held <;> rw [hh] at all <;> exact all
  · rw [last, opened, entry]; rfl

theorem cancel_before {part : Fin 1024} {seq ts tov : Nat} (new : (s.part part).epSeq < seq) (pending : (s.part part).epPending = some (ts, tov))
    (early : s.domainTime < ts) :
    ∃ t, exec (.cancelReceive part seq) s = .next t ∧ t.part part = { s.part part with epSeq := seq, epCancelled := true, epPending := none } ∧
      (∀ j ∈ s.treeLinks, .scheduleAck j part seq false ∈ t.out ∧ .cancel j part seq ∈ t.out) ∧
      keeps ((List.range 8).map R.FVL_TX_FLITS) s t := by
  obtain ⟨c, hc⟩ : ∃ c, c = s.updPart part fun x => x.cancelled seq := ⟨_, rfl⟩
  have entry : c.part part = (s.part part).cancelled seq := by rw [hc]; exact State.part_updPart_same ..
  have waits : (c.part part).epPending = some (ts, tov) := by rw [entry]; exact pending
  have rests : c.openEpoch part = c := State.openEpoch_early waits (by rw [hc]; exact early)
  obtain ⟨t, run, sent, -, last, kept⟩ := execCancelReceive_spec (v := c) (late := false) new (by rw [← hc, rests]) (by rw [waits]; exact (Bool.and_false _).symm)
  refine ⟨t, run, by rw [last, entry]; rfl, sent, fun f hf => ?_⟩
  rw [kept rfl f hf, hc]; rfl

theorem cancel_unheld {part : Fin 1024} {seq : Nat} (new : (s.part part).epSeq < seq) (pending : (s.part part).epPending = none) :
    let held : Bool := decide ((s.part part).epSeq ≠ 0 ∧ (s.part part).epSeq + 1 = seq ∧ (s.part part).epCancelled = false)
    ∃ t, exec (.cancelReceive part seq) s = .next t ∧ t.part part = { s.part part with epSeq := seq, epCancelled := true } ∧
      raised (pgFVL 0) (if held then [15] else []) s t ∧ ∀ j ∈ s.treeLinks, .scheduleAck j part seq held ∈ t.out ∧ .cancel j part seq ∈ t.out := by
  intro held
  obtain ⟨c, hc⟩ : ∃ c, c = s.updPart part fun x => x.cancelled seq := ⟨_, rfl⟩
  have entry : c.part part = (s.part part).cancelled seq := by rw [hc]; exact State.part_updPart_same ..
  have waits : (c.part part).epPending = none := by rw [entry]; exact pending
  have rests : c.openEpoch part = c := State.openEpoch_none waits
  obtain ⟨t, run, sent, bits, last, -⟩ := execCancelReceive_spec (v := c) (late := held) new (by rw [← hc, rests]) (by rw [waits]; exact (Bool.and_true _).symm)
  refine ⟨t, run, ?_, ?_, sent⟩
  · rw [last, entry, Part.cancelled, ← pending]
  · rw [hc] at bits; exact bits

/-! ## Epoch boundaries (R370) -/

/-- The unit that fires is noted, and interrupts stand. -/
theorem fire_raw (s : State) (n q i : Nat) (apart : q = pgFVL 0) : (s.fire n).bit (R.BLK_INT_RAW q) i = s.bit (R.BLK_INT_RAW q) i := by
  have unit : s.get (R.QTZ_UNIT n) < 2 ^ 4 := Nat.mod_lt _ (Nat.two_pow_pos 4)
  rw [State.bit, State.fire, State.get_set_ne]
  · rfl
  · rw [apart]
    simp only [Field.key, R.QTZ_FIRED, R.BLK_INT_RAW, pgFVL]
    omega

theorem epoch_opens {part : Fin 1024} {ts tov : Nat} (unit : s.hasUnit 3 = true) (pending : (s.part part).epPending = some (ts, tov)) (due : ts ≤ s.domainTime) :
    ∃ t, exec (.epochBoundary part) s = .next t ∧ raised (pgFVL 0) [9] s t ∧ t.get (R.QTZ_FIRED (s.get (R.QTZ_UNIT 3))) = 1 ∧
      t.part part = { s.part part with epoch := ((s.part part).epoch + 1) % 2 ^ 32, epTs := ts, epTov := tov, epPending := none, overlap := true } := by
  have opened := State.openEpoch_due_part pending due
  have moved : s.openEpoch part ≠ s := fun same => by
    rw [same] at opened
    rw [opened] at pending
    exact nomatch pending
  have same : (s.openEpoch part).get (R.QTZ_UNIT 3) = s.get (R.QTZ_UNIT 3) := by
    rw [State.openEpoch_due pending due, State.raise_get_ne _ _ _ _ (by decide)]; rfl
  have run : exec (.epochBoundary part) s = .next ((s.openEpoch part).fire 3) := by
    show execEpochBoundary part s = _
    unfold execEpochBoundary
    rw [unit]
    exact if_pos moved
  refine ⟨_, run, fun j hj => ?_, ?_, opened⟩
  · rw [fire_raw _ _ _ _ rfl]; exact State.openEpoch_raised pending due j hj
  · rw [State.fire, same, State.get_set_same]; rfl

theorem overlap_ends {part : Fin 1024} (unit : s.hasUnit 3 = true) (pending : (s.part part).epPending = none) (running : (s.part part).overlap = true)
    (due : (s.part part).epTs + (s.part part).epTov ≤ s.domainTime) :
    ∃ t, exec (.epochBoundary part) s = .next t ∧ raised (pgFVL 0) [10] s t ∧ t.part part = { s.part part with overlap := false } := by
  have rests : s.openEpoch part = s := State.openEpoch_none pending
  obtain ⟨w, hw⟩ : ∃ w, w = s.updPart part fun x => { x with overlap := false } := ⟨_, rfl⟩
  have entry : w.part part = { s.part part with overlap := false } := by rw [hw]; exact State.part_updPart_same ..
  have run : exec (.epochBoundary part) s = .next ((w.raise (pgFVL 0) 10).fire 3) := by
    show execEpochBoundary part s = _
    unfold execEpochBoundary
    rw [unit, rests, hw, Bool.not_true]
    dsimp only
    rw [if_neg Bool.false_ne_true, if_neg fun moved => moved rfl, if_pos ⟨running, due⟩]
  refine ⟨_, run, fun j hj => ?_, ?_⟩
  · rw [fire_raw _ _ _ _ rfl, State.raise_raised _ _ _ j hj, hw]; rfl
  · show (w.raise (pgFVL 0) 10).part part = _
    rw [State.part, State.raise_parts]
    exact entry

theorem execEpochBoundary_waits {part : Fin 1024} (unit : s.hasUnit 3 = false) : exec (.epochBoundary part) s = .next s := if_pos (by rw [unit]; rfl)

end Sys2Proof.Machine
end

section
/-! SUPPORT. Replicated records passed on and applied (R366, R368, R369). -/
namespace Sys2Proof.Machine

variable {s t u : State}

/-! ## What applying a record leaves alone -/

/-- The registers that count replication. -/
def replFields : List Field := [R.FVL0_REPL_GAP, R.FVL0_REPL_RX, R.FVL0_REPL_DISCARD]

theorem replFields_flits (j : Nat) : apart replFields (R.FVL_TX_FLITS j) := by
  intro g hg
  simp only [replFields, List.mem_cons, List.not_mem_nil, or_false] at hg
  rcases hg with rfl | rfl | rfl <;>
    simp only [Field.key, R.FVL0_REPL_GAP, R.FVL0_REPL_RX, R.FVL0_REPL_DISCARD, R.FVL_TX_FLITS] <;> omega

/-- The key domain's own state, the counts of replication and what was sent stand. -/
structure DomainStands (s t : State) : Prop where
  fields : spares replFields s t
  dm : t.dm = s.dm
  out : ∀ o ∈ s.out, o ∈ t.out

namespace DomainStands

theorem refl : DomainStands s s := ⟨.refl, rfl, fun _ h => h⟩
theorem trans (h : DomainStands s t) (g : DomainStands t u) : DomainStands s u := ⟨h.fields.trans g.fields, g.dm.trans h.dm, fun o ho => g.out o (h.out o ho)⟩
theorem update (h : DomainStands s t) (regs : u.regs = t.regs) (dm : u.dm = t.dm) (out : u.out = t.out) : DomainStands s u :=
  h.trans ⟨.update .refl regs, dm, fun o ho => by rw [out]; exact ho⟩
theorem set {f : Field} {v : Nat} (h : DomainStands s t) (off : apart replFields f) : DomainStands s (t.set f v) := ⟨h.fields.set off, h.dm, h.out⟩

theorem foldl {α : Type} {f : State → α → State} {xs : List α} (h : DomainStands s t) (hf : ∀ v a, DomainStands v (f v a)) : DomainStands s (xs.foldl f t) :=
  foldl_keeps (DomainStands s) f (fun v a hv => hv.trans (hf v a)) xs t h

theorem raise {p i : Nat} (h : DomainStands s t) (off : apart replFields (R.BLK_INT_RAW p)) : DomainStands s (t.raise p i) := by
  obtain ⟨-, ⟨ms, out, -⟩, only⟩ := t.raise_onlyFields p i
  exact h.trans ⟨.raise .refl off, by rw [only], fun o ho => by rw [out]; exact List.mem_append_left _ ho⟩

theorem sendOn {j : Nat} {o : Output} (h : DomainStands s t) : DomainStands s (t.sendOn j o) :=
  h.trans ⟨.of_keeps .refl (t.sendOn_keeps j o) (by simpa using replFields_flits j), by rw [t.sendOn_only], (Speaks.sendOn .refl).out⟩

theorem sendDelta {d : Delta} (h : DomainStands s t) : DomainStands s (t.sendDelta d).1 := by
  refine h.trans ?_
  unfold State.sendDelta State.sendDeltaOn
  split
  · dsimp only
    unfold State.tellOn
    have noted : ∀ v : State, v = (((t.set R.PAIR_DSEQ_LO (t.get R.PAIR_DSEQ_LO + 2 ^ 32 * t.get R.PAIR_DSEQ_HI + 1)).set R.PAIR_DSEQ_HI
        ((t.get R.PAIR_DSEQ_LO + 2 ^ 32 * t.get R.PAIR_DSEQ_HI + 1) / 2 ^ 32)).countSat R.PAIR_LAG) → DomainStands t v := fun v hv => by
      rw [hv]
      exact ((DomainStands.refl.set (by decide)).set (by decide)).set (by decide)
    split
    · exact .sendOn ((noted _ rfl).update rfl rfl rfl)
    · exact (noted _ rfl).update rfl rfl rfl
  · exact .refl

/-- A denied piece of the replication DMA is noted in its MPU's page. -/
theorem mpuCheck {a n tag : Nat} (h : DomainStands s t) : DomainStands s (t.mpuCheck 11 .write a n tag).2 := by
  refine h.trans (.foldl .refl fun v p => ?_)
  split
  · exact .refl
  · unfold State.violation
    exact .raise (.set (.set (.set .refl (by decide)) (by decide)) (by decide)) (by decide)

theorem applyReplica {p h' : Nat} {l : KeyLine} (h : DomainStands s t) : DomainStands s (t.applyReplica p h' l) := by
  refine h.trans ?_
  unfold State.applyReplica
  dsimp only
  generalize hm : State.mpuCheck t 11 .write _ _ p = m
  have checked : DomainStands t m.2 := by rw [← hm]; exact .mpuCheck .refl
  split
  · exact checked
  · split
    · exact .set (f := R.GEO_FENCE_PEAK) (checked.update rfl rfl rfl) (by decide)
    · exact .sendDelta (checked.update rfl rfl rfl)

end DomainStands

/-! ## A gap, and the record taken (R366, R368) -/

/-- A gap is told and the catch-up asked for; the links, the partitions and the key table stand. -/
theorem State.replGap_spec (s : State) (k : Nat) : Speaks s (s.replGap k) ∧ (s.replGap k).parts = s.parts ∧ (s.replGap k).ge = s.ge ∧
    (s.replGap k).dm = { s.dm with catchup := true, lost := false } ∧ (s.replGap k).get R.FVL0_REPL_GAP = 1 ∧
    spares [R.FVL0_REPL_RX, R.FVL0_REPL_DISCARD] s (s.replGap k) := by
  obtain ⟨j, hj⟩ : ∃ j, j = (s.dm.parent.filter fun j => s.linkUp j).getD k := ⟨_, rfl⟩
  obtain ⟨w, hw⟩ : ∃ w, w = (s.set R.FVL0_REPL_GAP 1).raise (pgFVL 0) 12 := ⟨_, rfl⟩
  obtain ⟨v, hv⟩ : ∃ v, v = ({ w with dm.catchup := true, dm.lost := false } : State) := ⟨_, rfl⟩
  obtain ⟨o, ho⟩ : ∃ o, o = Output.catchupRequest j (w.created.map fun e => e.1) := ⟨_, rfl⟩
  have asked : s.replGap k = v.sendOn j o := by rw [ho, hv, hw, hj]; rfl
  have set_ : Speaks s (s.set R.FVL0_REPL_GAP 1) :=
    .quiet (fun i => State.get_set_ne _ _ _ _ (by simp only [Field.key, R.FVL0_REPL_GAP, R.FVL_STATE]; omega)) rfl
  have raised_ : Speaks s w := by rw [hw]; exact .raise set_
  have held : Speaks s v := by rw [hv]; exact raised_.trans (.quiet (fun _ => rfl) rfl)
  have field : ∀ f, v.get f = w.get f := fun f => by rw [hv]; rfl
  have gap : v.get R.FVL0_REPL_GAP = 1 := by
    rw [field, hw, State.raise_get_ne _ _ _ _ (by decide), State.get_set_same]; rfl
  have counts : spares [R.FVL0_REPL_RX, R.FVL0_REPL_DISCARD] s v := by
    rw [hv, hw]
    exact .update (.raise (.set .refl (by decide)) (by decide)) rfl
  have only := v.sendOn_only j o
  have page : v.parts = s.parts ∧ v.ge = s.ge ∧ v.dm = { s.dm with catchup := true, lost := false } := by
    rw [hv, hw, ((s.set R.FVL0_REPL_GAP 1).raise_onlyFields (pgFVL 0) 12).2.2]
    exact ⟨rfl, rfl, rfl⟩
  obtain ⟨parts, ge, dm⟩ := page
  have off := replFields_flits j
  have kept := v.sendOn_keeps j o
  refine ⟨?_, ?_, ?_, ?_, ?_, ?_⟩ <;> rw [asked]
  · exact held.trans (.sendOn .refl)
  · rw [only]; exact parts
  · rw [only]; exact ge
  · rw [only]; exact dm
  · exact ((DomainStands.sendOn .refl).fields _ (by simp [replFields])).trans gap
  · exact .of_keeps counts kept fun g hg f hf => by
      rw [List.mem_singleton.1 hg]
      exact off f (List.mem_cons_of_mem _ hf)

theorem State.get_discard (s : State) : (s.countSat R.FVL0_REPL_DISCARD).get R.FVL0_REPL_DISCARD = satAdd 32 (s.get R.FVL0_REPL_DISCARD) 1 :=
  (State.get_set_same ..).trans (Nat.mod_eq_of_lt (by simp only [satAdd, R.FVL0_REPL_DISCARD]; omega))

theorem State.takeReplica_spec (s : State) (p h : Nat) (l : KeyLine) : let t := s.takeReplica p h l
    t.dm = s.dm ∧ (∀ o ∈ s.out, o ∈ t.out) ∧ t.get R.FVL0_REPL_GAP = s.get R.FVL0_REPL_GAP ∧
    ((s.part p).created = false → t.ge = s.ge ∧ t.get R.FVL0_REPL_DISCARD = satAdd 32 (s.get R.FVL0_REPL_DISCARD) 1) ∧
    ((s.part p).created = true → t.get R.FVL0_REPL_RX = (s.get R.FVL0_REPL_RX + 1) % 2 ^ 32) := by
  intro t
  cases here : (s.part p).created with
  | false =>
    have run : t = s.countSat R.FVL0_REPL_DISCARD := if_neg (by rw [here]; exact Bool.false_ne_true)
    rw [run]
    exact ⟨rfl, fun _ h => h, State.get_countSat_ne _ _ _ _ (by decide), fun _ => ⟨rfl, s.get_discard⟩, fun h => nomatch h⟩
  | true =>
    have run : t = (s.applyReplica p h l).count R.FVL0_REPL_RX := if_pos here
    have stands : DomainStands s (s.applyReplica p h l) := .applyReplica .refl
    rw [run]
    refine ⟨stands.dm, stands.out, ?_, fun h => (nomatch h), fun _ => ?_⟩
    · rw [State.get_count_ne _ _ _ _ (by decide)]; exact stands.fields _ (by simp [replFields])
    · rw [State.count, State.get_set_same, stands.fields _ (by simp [replFields])]; rfl

/-! ## REPL_MESSAGE -/

/-- The record is told to the tree's other links and taken. -/
def State.passReplica (s : State) (k : Fin 8) (origin : Fin 4096) (seq p h : Nat) (l : KeyLine) : State :=
  ((s.treeLinks.filter (· != k.val)).foldl (fun s j => s.sendOn j (.forwardRepl j origin seq (lineKey p h) l)) s).takeReplica p h l

theorem State.passReplica_spec (s : State) (k : Fin 8) (origin : Fin 4096) (seq p h : Nat) (l : KeyLine) : let t := s.passReplica k origin seq p h l
    t.dm = s.dm ∧ (∀ j ∈ s.treeLinks, j ≠ k.val → .forwardRepl j origin seq (lineKey p h) l ∈ t.out) ∧ t.get R.FVL0_REPL_GAP = s.get R.FVL0_REPL_GAP ∧
    ((s.part p).created = false → t.ge = s.ge ∧ t.get R.FVL0_REPL_DISCARD = satAdd 32 (s.get R.FVL0_REPL_DISCARD) 1) ∧
    ((s.part p).created = true → t.get R.FVL0_REPL_RX = (s.get R.FVL0_REPL_RX + 1) % 2 ^ 32) := by
  intro t
  obtain ⟨speaks, each⟩ := foldl_sendOn_each (s := s) (fun j => .forwardRepl j origin seq (lineKey p h) l) (js := s.treeLinks.filter (· != k.val))
    fun j hj => (treeLinks_up (List.mem_filter.1 hj).1).1
  have only := foldl_sendOn_only (fun j => .forwardRepl j origin seq (lineKey p h) l) (s.treeLinks.filter (· != k.val)) s
  have stands : DomainStands s ((s.treeLinks.filter (· != k.val)).foldl (fun s j => s.sendOn j (.forwardRepl j origin seq (lineKey p h) l)) s) :=
    .foldl .refl fun _ _ => .sendOn .refl
  obtain ⟨v, hv⟩ : ∃ v, v = (s.treeLinks.filter (· != k.val)).foldl (fun s j => s.sendOn j (.forwardRepl j origin seq (lineKey p h) l)) s := ⟨_, rfl⟩
  have run : t = v.takeReplica p h l := by rw [hv]; rfl
  rw [← hv] at each only stands
  have part : v.part p = s.part p := by rw [only]; rfl
  have ge : v.ge = s.ge := by rw [only]
  obtain ⟨dm, out, gap, absent, present⟩ := v.takeReplica_spec p h l
  rw [part, ge, stands.fields _ (by simp [replFields])] at absent
  rw [part, stands.fields _ (by simp [replFields])] at present
  rw [run]
  refine ⟨dm.trans stands.dm, fun j hj other => out _ (each j (List.mem_filter.2 ⟨hj, bne_iff_ne.2 other⟩)), ?_, absent, present⟩
  rw [gap]; exact stands.fields _ (by simp [replFields])

variable {k : Fin 8} {origin : Fin 4096} {seq : Nat} {part : Fin 1024} {handle : Word} {line : KeyLine}

theorem execReplMessage_waits (h : s.enrolled = false ∨ 6 ≤ k.val ∨ s.linkUp k = false ∨ seq ≤ Sparse.get 0 s.dm.seen origin ∨ handleScope handle.toNat ≠ 1 ∨
    origin.val = s.get R.FVL0_MEMBER_NO) : exec (.replMessage k origin seq part handle line) s = .next s := by
  refine if_pos ?_
  rcases h with off | beyond | down | known | scope | own
  · simp [off]
  · simp [isTreeLink, Nat.not_lt.2 beyond]
  · simp [down]
  · simp [known]
  · simp [isReplicated, scope]
  · simp [own]

theorem execReplMessage_passes {r : KeyRecord} (enrolled : s.enrolled = true) (tree : k.val < 6) (up : s.linkUp k = true)
    (other : origin.val ≠ s.get R.FVL0_MEMBER_NO) (new : Sparse.get 0 s.dm.seen origin < seq) (scope : handleScope handle.toNat = 1)
    (record : line.record = some r) (marked : bitOf r.key.attr 6 = true) (idle : (s.line (lineKey part handle.toNat)).live = false) :
    let gap := Sparse.get 0 s.dm.seen origin ≠ 0 ∧ Sparse.get 0 s.dm.seen origin + 1 < seq
    let u := if gap then s.replGap k else s
    exec (.replMessage k origin seq part handle line) s =
      .next (({ u with dm.seen := Sparse.set 0 u.dm.seen origin seq } : State).passReplica k origin seq part handle.toNat line) := by
  have run : exec (.replMessage k origin seq part handle line) s = execReplMessage k origin seq part handle line s := rfl
  rw [run]
  unfold execReplMessage
  dsimp only
  rw [if_neg, if_neg]
  · rfl
  · simp [State.fenceWaits, idle]
  · simp only [not_or]
    refine ⟨by simp [enrolled], ?_, by simp [up], by omega, other, ?_⟩
    · simp [isTreeLink, tree]
    · simp [isReplicated, scope, record, marked]

theorem execReplMessage_spec {r : KeyRecord} (enrolled : s.enrolled = true) (tree : k.val < 6) (up : s.linkUp k = true)
    (other : origin.val ≠ s.get R.FVL0_MEMBER_NO) (new : Sparse.get 0 s.dm.seen origin < seq) (scope : handleScope handle.toNat = 1)
    (record : line.record = some r) (marked : bitOf r.key.attr 6 = true) (idle : (s.line (lineKey part handle.toNat)).live = false) :
    ∃ t, exec (.replMessage k origin seq part handle line) s = .next t ∧ Sparse.get 0 t.dm.seen origin = seq ∧
      (∀ j ∈ s.treeLinks, j ≠ k.val → .forwardRepl j origin seq (lineKey part handle.toNat) line ∈ t.out) ∧
      (Sparse.get 0 s.dm.seen origin ≠ 0 → Sparse.get 0 s.dm.seen origin + 1 < seq → t.get R.FVL0_REPL_GAP = 1 ∧ t.dm.catchup = true) ∧
      ((s.part part).created = false → t.ge = s.ge ∧ t.get R.FVL0_REPL_DISCARD = satAdd 32 (s.get R.FVL0_REPL_DISCARD) 1) ∧
      ((s.part part).created = true → t.get R.FVL0_REPL_RX = (s.get R.FVL0_REPL_RX + 1) % 2 ^ 32) := by
  have run := execReplMessage_passes enrolled tree up other new scope record marked idle
  dsimp only at run
  have told : ∃ u, u = (if Sparse.get 0 s.dm.seen origin ≠ 0 ∧ Sparse.get 0 s.dm.seen origin + 1 < seq then s.replGap k else s) ∧ u.treeLinks = s.treeLinks ∧
      u.parts = s.parts ∧ u.ge = s.ge ∧ spares [R.FVL0_REPL_RX, R.FVL0_REPL_DISCARD] s u ∧
      (Sparse.get 0 s.dm.seen origin ≠ 0 → Sparse.get 0 s.dm.seen origin + 1 < seq → u.get R.FVL0_REPL_GAP = 1 ∧ u.dm.catchup = true) := by
    refine ⟨_, rfl, ?_⟩
    split
    next gap =>
      obtain ⟨speaks, parts, ge, dm, told, counts⟩ := s.replGap_spec k
      exact ⟨speaks.treeLinks, parts, ge, counts, fun _ _ => ⟨told, by rw [dm]⟩⟩
    next none_ => exact ⟨rfl, rfl, rfl, .refl, fun first later => absurd ⟨first, later⟩ none_⟩
  obtain ⟨u, hu, links, parts, ge, counts, gap⟩ := told
  rw [← hu] at run
  obtain ⟨w, hw⟩ : ∃ w, w = ({ u with dm.seen := Sparse.set 0 u.dm.seen origin seq } : State) := ⟨_, rfl⟩
  rw [← hw] at run
  have field : ∀ f, w.get f = u.get f := fun f => by rw [hw]; rfl
  have trees : w.treeLinks = s.treeLinks := by rw [← links, hw]; rfl
  have entry : w.part part = s.part part := by rw [hw, State.part, State.part]; exact congrArg (Sparse.get {} · _) parts
  have table : w.ge = s.ge := by rw [hw]; exact ge
  have domain : w.dm = { u.dm with seen := Sparse.set 0 u.dm.seen origin seq } := by rw [hw]
  obtain ⟨dm, sent, told, absent, present⟩ := w.passReplica_spec k origin seq part handle.toNat line
  rw [trees] at sent
  rw [entry, table, field, counts _ (by simp)] at absent
  rw [entry, field, counts _ (by simp)] at present
  refine ⟨_, run, ?_, sent, fun first later => ⟨?_, ?_⟩, absent, present⟩
  · rw [dm, domain]; exact Sparse.get_set_same ..
  · rw [told, field]; exact (gap first later).1
  · rw [dm, domain]; exact (gap first later).2

end Sys2Proof.Machine
end

section
/-! SUPPORT. Forwarded work: a command sent to a peer, a peer's command taken, and its answer (R376, R377). -/
namespace Sys2Proof.Machine

variable {s t u : State}

/-! ## FORWARD_SEND (R376) -/

theorem State.forwardLink_is {k : Nat} (h : s.forwardLink = some k) : k = 6 ∨ k = 7 := by
  obtain ⟨room, hr⟩ : ∃ room : Nat → Nat, room = fun k => if s.linkUp k then (s.link k).capacity else 0 := ⟨_, rfl⟩
  have run : s.forwardLink = if room 6 = 0 ∧ room 7 = 0 then none else if room 6 < room 7 then some 7 else some 6 := by rw [hr]; rfl
  rw [run] at h
  by_cases none_ : room 6 = 0 ∧ room 7 = 0
  · rw [if_pos none_] at h; exact nomatch h
  · rw [if_neg none_] at h
    by_cases more : room 6 < room 7
    · rw [if_pos more] at h; exact .inr (Option.some.inj h).symm
    · rw [if_neg more] at h; exact .inl (Option.some.inj h).symm

/-- A forwarded command leaves where its link is UP, and nowhere otherwise. -/
theorem State.sendOn_forwards (s : State) (k tag p : Nat) (d : Descriptor) (bs : List Byte) :
    told (if s.linkUp k then some k else none) (fun k => .forward k tag p d bs) s (s.sendOn k (.forward k tag p d bs)) := by
  by_cases up : s.linkUp k = true
  · rw [if_pos up]
    exact State.sendOn_told (fun k => .forward k tag p d bs) up
  · rw [if_neg up]
    have still : s.sendOn k (.forward k tag p d bs) = s := if_neg (by simp [up, messageKind])
    exact congrArg State.out still

/-- The peer's advertised room stands through a message sent. -/
theorem State.sendOn_capacity (s : State) (k : Nat) (o : Output) : ((s.sendOn k o).link k).capacity = (s.link k).capacity := by
  have heard := congrArg Link.capacity (LinkStands.sendOn (k := k) (j := k) (o := o) (.refl (s := s))).heard
  exact heard

section
variable {input : List Byte} {k : Nat} {c : Cmd} {rest : List Cmd}

theorem execForwardSend_idle (h : s.forwardLink = none ∨ s.pickForward [] s.hq.staged = none) : exec (.forwardSend input) s = .next s := by
  change execForwardSend input s = _
  unfold execForwardSend
  rcases h with none_ | none_
  · rw [none_]
  · rw [none_]
    cases s.forwardLink <;> rfl

variable (link : s.forwardLink = some k) (pick : s.pickForward [] s.hq.staged = some (c, rest))
include link pick

theorem execForwardSend_waits (waits : s.windowWaits c 0 c.desc.inLen = true) : exec (.forwardSend input) s = .next s := by
  change execForwardSend input s = _
  unfold execForwardSend
  rw [link, pick]
  exact if_pos waits

theorem execForwardSend_refuses (ready : s.windowWaits c 0 c.desc.inLen = false) (window : c.windowIn = true) (fails : s.windowInput c 0 c.desc.inLen = none) :
    exec (.forwardSend input) s = .next ({ s with hq := { s.hq with staged := rest } }.endStaged c stAborted 2) := by
  change execForwardSend input s = _
  unfold execForwardSend
  rw [link, pick]
  dsimp only
  rw [if_neg (by rw [ready]; exact Bool.false_ne_true), if_pos window, fails]

theorem execForwardSend_sends {sent : List Byte} (ready : s.windowWaits c 0 c.desc.inLen = false)
    (reads : (if c.windowIn then s.windowInput c 0 c.desc.inLen else some (fitBytes c.desc.inLen input, s)) = some (sent, u)) :
    ∃ t, exec (.forwardSend input) s = .next t ∧
      t.hq = { u.hq with staged := rest, fwdOut := u.hq.fwdOut ++ [{ cmd := c, link := k, tag := u.dm.nextTag }] } ∧
      t.get R.FVL0_FWD_OUT = (u.get R.FVL0_FWD_OUT + 1) % 2 ^ 32 ∧ (t.link k).capacity = (u.link k).capacity - 1 ∧ t.dm.nextTag = u.dm.nextTag + 1 ∧
      told (if u.linkUp k then some k else none) (fun k => .forward k u.dm.nextTag c.part c.desc (if c.desc.inInline then [] else sent)) u t := by
  have run : exec (.forwardSend input) s = execForwardSend input s := rfl
  unfold execForwardSend at run
  rw [link, pick] at run
  dsimp only at run
  rw [if_neg (by rw [ready]; exact Bool.false_ne_true), reads] at run
  dsimp only at run
  obtain ⟨w, hw⟩ : ∃ w, w = ({ u with
      hq := { u.hq with staged := rest, fwdOut := u.hq.fwdOut ++ [{ cmd := c, link := k, tag := u.dm.nextTag }] }
      dm := { u.dm with nextTag := u.dm.nextTag + 1 } } : State) := ⟨_, rfl⟩
  obtain ⟨v, hv⟩ : ∃ v, v = (w.count R.FVL0_FWD_OUT).updLink k fun l => { l with capacity := l.capacity - 1 } := ⟨_, rfl⟩
  rw [← hw, ← hv] at run
  have field : ∀ f, w.get f = u.get f := fun f => by rw [hw]; rfl
  have noted : ∀ f, v.get f = (w.count R.FVL0_FWD_OUT).get f := fun f => by rw [hv]; rfl
  have count : v.get R.FVL0_FWD_OUT = (u.get R.FVL0_FWD_OUT + 1) % 2 ^ 32 := by rw [noted, State.count, State.get_set_same, field]; rfl
  have room : (v.link k).capacity = (u.link k).capacity - 1 := by
    rw [hv, State.link_updLink_same, hw]; rfl
  have out : v.out = u.out := by rw [hv, hw]; rfl
  have up : v.linkUp k = u.linkUp k := by
    rw [State.linkUp, noted, State.get_count_ne, field]
    · rfl
    · simp only [Field.key, R.FVL0_FWD_OUT, R.FVL_STATE]; omega
  obtain ⟨o, ho⟩ : ∃ o, o = Output.forward k u.dm.nextTag c.part c.desc (if c.desc.inInline then [] else sent) := ⟨_, rfl⟩
  have only := v.sendOn_only k o
  refine ⟨_, run, ?_, ?_, ?_, ?_, ?_⟩
  · rw [← ho, only, hv, hw]; rfl
  · rw [v.sendOn_keeps k _ R.FVL0_FWD_OUT fun g hg => ?_]
    · exact count
    · rw [List.mem_singleton.1 hg]
      simp only [Field.key, R.FVL0_FWD_OUT, R.FVL_TX_FLITS]
      omega
  · rw [State.sendOn_capacity]; exact room
  · rw [← ho, only, hv, hw]; rfl
  · have all := v.sendOn_forwards k u.dm.nextTag c.part c.desc (if c.desc.inInline then [] else sent)
    rw [up] at all
    exact told_of_out all out

end

/-! ## FORWARD_REQUEST (R376) -/

section
variable {k : Fin 8} {tag : Nat} {part : Fin 1024} {desc : List Byte}

theorem execForwardRequest_waits (h : k.val < 6 ∨ s.linkUp k = false ∨ s.stagingRoom = 0) : exec (.forwardRequest k tag part desc) s = .next s := by
  refine if_pos ?_
  rcases h with low | down | full
  · exact .inl (by simp only [isForwardLink, Bool.not_eq_true', Bool.or_eq_false_iff, beq_eq_false_iff_ne]; omega)
  · exact .inr (.inl (by rw [down]; rfl))
  · exact .inr (.inr full)

theorem execForwardRequest_takes (forward : k.val = 6 ∨ k.val = 7) (up : s.linkUp k = true) (room : 0 < s.stagingRoom)
    (passes : (s.count R.FVL0_FWD_IN).refuseDescriptor part (badV2 (fitBytes 64 desc)) (readV2 (fitBytes 64 desc)) = none) (active : (s.part part).pstate = .active) :
    exec (.forwardRequest k tag part desc) s =
      .next ((s.count R.FVL0_FWD_IN).stageCmd { part, desc := readV2 (fitBytes 64 desc), peer := some (k.val, tag), fetched := some s.quartz }) := by
  change execForwardRequest k tag part desc s = _
  unfold execForwardRequest
  dsimp only
  rw [if_neg]
  · rw [passes]
    exact if_neg fun other => other active
  · simp only [not_or]
    refine ⟨?_, by simp [up], by omega⟩
    rcases forward with h | h <;> simp [isForwardLink, h]

theorem execForwardRequest_spec (forward : k.val = 6 ∨ k.val = 7) (up : s.linkUp k = true) (room : 0 < s.stagingRoom)
    (passes : (s.count R.FVL0_FWD_IN).refuseDescriptor part (badV2 (fitBytes 64 desc)) (readV2 (fitBytes 64 desc)) = none) (active : (s.part part).pstate = .active) :
    let c : Cmd := { part, desc := readV2 (fitBytes 64 desc), peer := some (k.val, tag), fetched := some s.quartz }
    ∃ t, exec (.forwardRequest k tag part desc) s = .next t ∧ t.hq = { s.hq with staged := s.hq.staged ++ [c], msixPend := t.hq.msixPend } ∧
      t.get R.FVL0_FWD_IN = (s.get R.FVL0_FWD_IN + 1) % 2 ^ 32 ∧ sentMsix s t ∧ keeps [R.FVL0_FWD_IN, R.BLK_INT_RAW pgHQE] s t ∧
      (s.hq.staged.length < 65535 → t.out = s.out ∧ keeps [R.FVL0_FWD_IN] s t) := by
  intro c
  refine ⟨_, execForwardRequest_takes forward up room passes active, ?_⟩
  obtain ⟨v, hv⟩ : ∃ v, v = s.count R.FVL0_FWD_IN := ⟨_, rfl⟩
  have hq : v.hq = s.hq := by rw [hv]; rfl
  have out : v.out = s.out := by rw [hv]; rfl
  have counted : keeps [R.FVL0_FWD_IN] s v := by rw [hv]; exact keeps_set s _ _
  have count : v.get R.FVL0_FWD_IN = (s.get R.FVL0_FWD_IN + 1) % 2 ^ 32 := by rw [hv]; exact State.get_set_same ..
  rw [← hv]
  change (v.stageCmd c).hq = _ ∧ _
  obtain ⟨staged, -, few, many⟩ := v.stageCmd_spec c
  rw [hq] at staged few many
  by_cases low : s.hq.staged.length < 65535
  · have only := few (by omega)
    have regs : ∀ f, (v.stageCmd c).get f = v.get f := fun f => by rw [only]; rfl
    have sent : (v.stageCmd c).out = s.out := by rw [only]; exact out
    have kept : keeps [R.FVL0_FWD_IN] s (v.stageCmd c) := fun f hf => (regs f).trans (counted f hf)
    have queue : (v.stageCmd c).hq = { s.hq with staged := (v.stageCmd c).hq.staged } := by
      rw [congrArg State.hq only]
    refine ⟨?_, (regs _).trans count, ⟨[], by rw [sent, List.append_nil], fun _ h => nomatch h⟩, keeps_mono kept (by simp), fun _ => ⟨sent, kept⟩⟩
    rw [queue, staged]
  · obtain ⟨-, kept, sent, only⟩ := many (by omega)
    have queue := congrArg State.hq only
    refine ⟨?_, (kept _ (by decide)).trans count, ?_, ?_, fun less => absurd less low⟩
    · dsimp only at queue
      rw [queue, staged]
    · obtain ⟨ms, e, all⟩ := sent
      exact ⟨ms, e.trans (congrArg (· ++ ms) out), all⟩
    · intro f hf
      exact (kept f fun g hg => hf g (List.mem_cons_of_mem _ hg)).trans (counted f fun g hg => hf g (List.mem_cons.2 (.inl (List.mem_singleton.1 hg))))

end

/-! ## FORWARD_RESPONSE (R376, R377) -/

/-- What is forwarded and what is staged stand. -/
def Queued (s t : State) : Prop := t.hq.fwdOut = s.hq.fwdOut ∧ t.hq.staged = s.hq.staged

namespace Queued

theorem refl : Queued s s := ⟨rfl, rfl⟩

theorem trans (h : Queued s t) (g : Queued t u) : Queued s u := ⟨g.1.trans h.1, g.2.trans h.2⟩

theorem violation {m : Nat} {kind : AccessKind} {a tag : Nat} : Queued s (s.violation m kind a tag) := by
  cases kind <;> unfold State.violation <;> dsimp only <;> rw [(State.raise_onlyFields _ _ _).2.2] <;> exact ⟨rfl, rfl⟩

theorem dmaWrite {m tag a : Nat} {bs : List Byte} : Queued s (s.dmaWrite m tag a bs).1 := by
  unfold State.dmaWrite
  refine foldl_keeps (fun r : State × Bool => Queued s r.1) _ (fun r p hr => ?_) _ _ refl
  split
  · exact hr
  · exact hr.trans .violation

theorem zeroOutput {c : Cmd} {status : Nat} {wrote : Bool} : Queued s (s.zeroOutput c status wrote) := by
  unfold State.zeroOutput
  split
  · exact refl
  · split
    · split
      · exact dmaWrite
      · exact refl
    · split
      · exact ⟨rfl, rfl⟩
      · exact refl

end Queued

section
variable {c : Cmd} {output : List Byte}

theorem forwardOutput_past (window : c.desc.windowOut = true) (past : s.windowFits c.part c.desc.outAddr c.desc.outLen = false) :
    s.forwardOutput c output = (s, some 3) := by
  unfold State.forwardOutput
  rw [if_pos window, if_pos (by rw [past]; rfl)]

theorem forwardOutput_window (window : c.desc.windowOut = true) (fits : s.windowFits c.part c.desc.outAddr c.desc.outLen = true) :
    let r := s.dmaWrite (s.dmaMpu c) c.part (s.windowAddr c.part c.desc.outAddr) (output.take c.desc.outLen)
    s.forwardOutput c output = (r.1, if r.2 then some 2 else none) := by
  unfold State.forwardOutput
  dsimp only
  rw [if_pos window, if_neg (by rw [fits]; exact Bool.false_ne_true)]

theorem forwardOutput_host {f : Func} (host : c.desc.windowOut = false) (own : s.qpFunc c.part c.qp = some f) :
    s.forwardOutput c output = ((s.crossPort f).emit (.hostWrite f c.desc.outAddr (output.take c.desc.outLen)), none) := by
  unfold State.forwardOutput
  rw [if_neg (by rw [host]; exact Bool.false_ne_true), own]

theorem forwardOutput_unowned (host : c.desc.windowOut = false) (own : s.qpFunc c.part c.qp = none) : s.forwardOutput c output = (s, none) := by
  unfold State.forwardOutput
  rw [if_neg (by rw [host]; exact Bool.false_ne_true), own]

theorem forwardOutput_accepted (host : c.desc.windowOut = false) : (s.forwardOutput c output).2 = none := by
  cases own : s.qpFunc c.part c.qp with
  | none => rw [forwardOutput_unowned host own]
  | some f => rw [forwardOutput_host host own]

theorem crossPort_queued (f : Func) (o : Output) : Queued s ((s.crossPort f).emit o) := ⟨rfl, rfl⟩

theorem forwardOutput_host_queued (host : c.desc.windowOut = false) : Queued s (s.forwardOutput c output).1 := by
  cases own : s.qpFunc c.part c.qp with
  | none => rw [forwardOutput_unowned host own]; exact ⟨rfl, rfl⟩
  | some f => rw [forwardOutput_host host own]; exact crossPort_queued ..

theorem forwardOutput_window_queued (window : c.desc.windowOut = true) : Queued s (s.forwardOutput c output).1 := by
  cases fits : s.windowFits c.part c.desc.outAddr c.desc.outLen with
  | false => rw [forwardOutput_past window fits]; exact ⟨rfl, rfl⟩
  | true =>
    have kept : Queued s (s.dmaWrite (s.dmaMpu c) c.part (s.windowAddr c.part c.desc.outAddr) (output.take c.desc.outLen)).1 := .dmaWrite
    rw [forwardOutput_window window fits]
    generalize s.dmaWrite (s.dmaMpu c) c.part (s.windowAddr c.part c.desc.outAddr) (output.take c.desc.outLen) = r at *
    obtain ⟨w, failed⟩ := r
    exact kept

theorem forwardOutput_queued : Queued s (s.forwardOutput c output).1 := by
  cases window : c.desc.windowOut with
  | false => exact forwardOutput_host_queued window
  | true => exact forwardOutput_window_queued window

end

/-- The ending a peer's answer gives. -/
def endingOf (a : PeerEnd) : Ending :=
  { status := a.status, detail := a.detail.toNat, resultLen := a.resultLen, result := a.result, cluster := a.cluster, serviceNs := a.serviceNs + a.linkNs }

/-- An ending that an output refused with a DETAIL turns into ABORTED. -/
def Ending.refusedWith (e : Ending) : Option Nat → Ending
  | some det => { e with status := stAborted, detail := det }
  | none => e

/-- The state in which a peer's answer ends its command: what the output left, zeroed where the ending refuses. -/
def State.responded (r : State × Option Nat) (c : Cmd) (e : Ending) (wrote : Bool) : State := if refusing (e.refusedWith r.2).status then r.1.zeroOutput c (e.refusedWith r.2).status wrote else r.1

theorem responded_queued {r : State × Option Nat} {c : Cmd} {e : Ending} {wrote : Bool} : Queued r.1 (State.responded r c e wrote) := by
  unfold State.responded
  split
  · exact .zeroOutput
  · exact .refl

section
variable {k : Fin 8} {tag : Nat} {a : PeerEnd} {output : List Byte} {ok : Bool} {x : FwdCmd}

/-- The state without the forwarded command. -/
def State.dropForward (s : State) (k : Fin 8) (tag : Nat) : State :=
  { s with hq := { s.hq with fwdOut := s.hq.fwdOut.filter fun y => !(y.link == k.val && y.tag == tag) } }

theorem execForwardResponse_unknown (h : (s.hq.fwdOut.find? fun x => x.link == k.val && x.tag == tag) = none ∨ writtenStatus a = false) :
    exec (.forwardResponse k tag a output ok) s = .next s := by
  have run : exec (.forwardResponse k tag a output ok) s = execForwardResponse k tag a output ok s := rfl
  rw [run]
  unfold execForwardResponse
  have none_ : ((s.hq.fwdOut.find? fun x => x.link == k.val && x.tag == tag).filter fun _ => writtenStatus a) = none := by
    rcases h with unknown | odd
    · rw [unknown]; rfl
    · rw [odd]; cases s.hq.fwdOut.find? fun x => x.link == k.val && x.tag == tag <;> rfl
  rw [none_]

theorem ranNothing_written (h : ranNothing a = true) : writtenStatus a = true := by
  simp only [ranNothing, Bool.or_eq_true, List.contains_iff_mem, List.mem_cons, List.not_mem_nil, or_false, Bool.and_eq_true, beq_iff_eq] at h
  have low : a.status.val < 0x14 := by
    rcases h with (h | h | h | h | h) | ⟨h, -⟩ <;> rw [h] <;> decide
  simp [writtenStatus, low]

theorem execForwardResponse_reruns (find : (s.hq.fwdOut.find? fun x => x.link == k.val && x.tag == tag) = some x) (fresh : x.cmd.marked = false)
    (none_ : ranNothing a = true) : ∃ t, exec (.forwardResponse k tag a output ok) s = .next t ∧ t.hq.staged = { x.cmd with rerun := true } :: s.hq.staged ∧
      t.hq.fwdOut = s.hq.fwdOut.filter (fun y => !(y.link == k.val && y.tag == tag)) ∧
      t.get R.FVL0_FWD_RERUN = satAdd 32 (s.get R.FVL0_FWD_RERUN) 1 ∧ t.out = s.out := by
  have run : exec (.forwardResponse k tag a output ok) s = execForwardResponse k tag a output ok s := rfl
  unfold execForwardResponse at run
  rw [find, Option.filter_some, ranNothing_written none_] at run
  dsimp only at run
  rw [if_pos rfl] at run
  dsimp only at run
  rw [if_pos ⟨none_, by rw [fresh]; exact Bool.false_ne_true⟩] at run
  refine ⟨_, run, rfl, rfl, ?_, rfl⟩
  refine (State.get_set_same ..).trans (Nat.mod_eq_of_lt ?_)
  simp only [satAdd, R.FVL0_FWD_RERUN]
  omega

theorem execForwardResponse_ends (find : (s.hq.fwdOut.find? fun x => x.link == k.val && x.tag == tag) = some x) (known : writtenStatus a = true)
    (ran : ranNothing a = false ∨ x.cmd.marked = true) :
    let r := if x.cmd.desc.outInline ∨ output.isEmpty ∨ refusing a.status then (s.dropForward k tag, none) else (s.dropForward k tag).forwardOutput x.cmd output
    exec (.forwardResponse k tag a output ok) s = .next ((State.responded r x.cmd (endingOf a) !output.isEmpty).finish ok x.cmd ((endingOf a).refusedWith r.2)) := by
  intro r
  have run : exec (.forwardResponse k tag a output ok) s = execForwardResponse k tag a output ok s := rfl
  unfold execForwardResponse at run
  rw [find, Option.filter_some, known] at run
  dsimp only at run
  rw [if_pos rfl] at run
  dsimp only at run
  rw [if_neg (by rcases ran with h | h <;> simp [h])] at run
  have same : r = if x.cmd.desc.outInline ∨ output.isEmpty ∨ refusing a.status then (s.dropForward k tag, none) else (s.dropForward k tag).forwardOutput x.cmd output := rfl
  obtain ⟨v, det⟩ := r
  unfold State.dropForward at same
  rw [← same] at run
  cases det <;> exact run

end

end Sys2Proof.Machine
end

section
/-! PROOF. Domain time, epochs, replication and forwarded work (O48). -/
namespace Sys2Proof.Machine

variable {s t u : State}

theorem execForwardResponse_spec {k : Fin 8} {tag : Nat} {a : PeerEnd} {output : List Byte} {ok : Bool} {x : FwdCmd}
    (find : (s.hq.fwdOut.find? fun x => x.link == k.val && x.tag == tag) = some x) (known : writtenStatus a = true)
    (ran : ranNothing a = false ∨ x.cmd.marked = true) :
    let v := s.dropForward k tag
    let written : Bool := !x.cmd.desc.outInline && !output.isEmpty && !refusing a.status
    ∃ u : State, u.hq.fwdOut = v.hq.fwdOut ∧ u.hq.staged = s.hq.staged ∧
      (written = false → exec (.forwardResponse k tag a output ok) s = .next (u.finish ok x.cmd (endingOf a))) ∧
      (written = true → x.cmd.desc.windowOut = false → exec (.forwardResponse k tag a output ok) s = .next (u.finish ok x.cmd (endingOf a)) ∧
        ∀ f, s.qpFunc x.cmd.part x.cmd.qp = some f → .hostWrite f x.cmd.desc.outAddr (output.take x.cmd.desc.outLen) ∈ u.out) ∧
      (written = true → x.cmd.desc.windowOut = true →
        (s.windowFits x.cmd.part x.cmd.desc.outAddr x.cmd.desc.outLen = false →
          exec (.forwardResponse k tag a output ok) s = .next (u.finish ok x.cmd { endingOf a with status := stAborted, detail := 3 })) ∧
        (s.windowFits x.cmd.part x.cmd.desc.outAddr x.cmd.desc.outLen = true →
          let bad := (v.dmaWrite (v.dmaMpu x.cmd) x.cmd.part (v.windowAddr x.cmd.part x.cmd.desc.outAddr) (output.take x.cmd.desc.outLen)).2
          exec (.forwardResponse k tag a output ok) s =
            .next (u.finish ok x.cmd (if bad then { endingOf a with status := stAborted, detail := 2 } else endingOf a)))) := by
  intro v written
  have run := execForwardResponse_ends (output := output) (ok := ok) find known ran
  dsimp only at run
  by_cases writes : written = true
  · have plain : ¬ (x.cmd.desc.outInline = true ∨ output.isEmpty = true ∨ refusing a.status = true) := by
      simp only [written, Bool.and_eq_true, Bool.not_eq_true'] at writes
      simp [writes]
    have status : refusing (endingOf a).status = false := by
      simp only [written, Bool.and_eq_true, Bool.not_eq_true'] at writes
      exact writes.2
    rw [if_neg plain] at run
    obtain ⟨fwd, staged⟩ := forwardOutput_queued (s := v) (c := x.cmd) (output := output)
    obtain ⟨fwd', staged'⟩ := responded_queued (r := v.forwardOutput x.cmd output) (c := x.cmd) (e := endingOf a) (wrote := !output.isEmpty)
    refine ⟨_, fwd'.trans fwd, staged'.trans staged, fun no => absurd writes (by rw [no]; exact Bool.false_ne_true), fun _ host => ?_, fun _ window => ⟨fun past => ?_, fun fits => ?_⟩⟩
    · have accepted := forwardOutput_accepted (s := v) (c := x.cmd) (output := output) host
      refine ⟨run.trans ?_, fun f own => ?_⟩
      · rw [accepted]; rfl
      · have still : State.responded (v.forwardOutput x.cmd output) x.cmd (endingOf a) (!output.isEmpty) = (v.forwardOutput x.cmd output).1 := by
          unfold State.responded
          rw [accepted, if_neg (by rw [show refusing ((endingOf a).refusedWith none).status = false from status]; exact Bool.false_ne_true)]
        rw [still, forwardOutput_host (s := v) host own]
        exact List.mem_append_right _ (List.mem_singleton.2 rfl)
    · refine run.trans ?_
      have refused := congrArg Prod.snd (forwardOutput_past (s := v) (c := x.cmd) (output := output) window past)
      rw [refused]; rfl
    · refine run.trans ?_
      have wrote := congrArg Prod.snd (forwardOutput_window (s := v) (c := x.cmd) (output := output) window fits)
      generalize v.forwardOutput x.cmd output = r at *
      rw [wrote]
      dsimp only
      split <;> rfl
  · have plain : x.cmd.desc.outInline = true ∨ output.isEmpty = true ∨ refusing a.status = true := by
      simp only [written, Bool.and_eq_true, Bool.not_eq_true', not_and_or, Bool.not_eq_false] at writes
      tauto
    rw [if_pos plain] at run
    obtain ⟨fwd, staged⟩ := responded_queued (r := (v, none)) (c := x.cmd) (e := endingOf a) (wrote := !output.isEmpty)
    exact ⟨_, fwd, staged, fun _ => run, fun yes => absurd yes writes, fun yes => absurd yes writes⟩

theorem execDelayExchange_waits {k : Fin 8} {delay : BitVec 24} {members : List (Fin 4096 × Bool)} {parent : Option Nat} {depth : BitVec 8}
    (h : s.enrolled = false ∨ 6 ≤ k.val ∨ s.linkUp k = false) : exec (.delayExchange k delay members parent depth) s = .next s := by
  refine if_pos ?_
  rcases h with off | beyond | down
  · simp [off]
  · simp [isTreeLink, Nat.not_lt.2 beyond]
  · simp [down]

theorem execPpsEdge_waits (h : s.enrolled = false ∨ s.get (R.PAD_EN 8) = 0) : exec .ppsEdge s = .next s := by
  refine if_pos ?_
  rcases h with off | pin
  · simp [off]
  · simp [pin]

/-- Settles O48: each command by its own rule; messages along the tree go out on each of its links, which stand through what is sent before. -/
theorem domainKeepsTimeEpochsAndForwards : Obligations.DomainKeepsTimeEpochsAndForwards := by
  unfold Obligations.DomainKeepsTimeEpochsAndForwards
  refine ⟨fun k delay members parent depth s => ?_, fun members own locked small others => grandmaster_spec small others, fun s => execPpsEdge_spec,
    fun s => execPpsEdge_waits, fun t0 s => execDtStale_spec, fun s => execEnrolmentCatchupDone_spec,
    fun part seq epoch ts tov s => execScheduleReceive_spec epoch ts tov, fun part seq epoch ts tov s old => ⟨execScheduleReceive_old epoch ts tov old, execCancelReceive_old old⟩,
    fun o s => ?_, fun part seq ts tov s => cancel_after, fun part seq ts tov s => cancel_before, fun part seq s => cancel_unheld,
    fun part ts tov s => epoch_opens, fun part s => overlap_ends, fun k origin seq part handle line r s => execReplMessage_spec,
    fun input k c rest s link pick => ⟨execForwardSend_waits link pick, execForwardSend_refuses link pick, fun sent u => execForwardSend_sends link pick⟩,
    fun k tag part desc s => execForwardRequest_spec, fun k tag a output ok x s => execForwardResponse_reruns, fun k tag a output ok x s => execForwardResponse_spec,
    fun k tag a output ok s => execForwardResponse_unknown, fun input s => execForwardSend_idle, fun k tag part desc s => execForwardRequest_waits,
    fun k origin seq part handle line s => execReplMessage_waits, fun k delay members parent depth s => execDelayExchange_waits,
    fun part s => execEpochBoundary_waits, fun s => execDtStale_waits, fun s idle => if_neg (by rw [idle]; exact Bool.false_ne_true)⟩
  · exact execDelayExchange_spec
  · obtain ⟨-, each, kept, only⟩ := s.tellTree_spec o
    exact ⟨each, kept, by rw [only], by rw [only], by rw [only]⟩

end Sys2Proof.Machine
end

section
/-! SUPPORT. A program's context as it comes to its last boundary, and how its command ends there (R80, R103). -/
namespace Sys2Proof.Machine

variable {s t u : State} {k : Nat}

/-! ## Writes twice at one key -/

theorem Sparse.insert_insert {α : Type} (m : Sparse α) (k : Nat) (v w : α) : Sparse.insert (Sparse.insert m k v) k w = Sparse.insert m k w := by
  induction m with
  | nil => simp [Sparse.insert]
  | cons e m ih =>
    obtain ⟨j, x⟩ := e
    by_cases low : k < j
    · simp [Sparse.insert, low]
    · by_cases same : j = k
      · simp [Sparse.insert, same]
      · simp [Sparse.insert, low, same, ih]

theorem Sparse.upd_upd {α : Type} [DecidableEq α] {d : α} {m : Sparse α} {f g : α → α} (first : f (Sparse.get d m k) ≠ d) (then_ : g (f (Sparse.get d m k)) ≠ d) :
    Sparse.upd d (Sparse.upd d m k f) k g = Sparse.upd d m k fun x => g (f x) := by
  rw [Sparse.upd, Sparse.get_upd_same]
  simp only [Sparse.upd, Sparse.set, first, then_, if_false, Sparse.insert_insert]

theorem Sparse.erase_unlisted {α : Type} {m : Sparse α} (h : ∀ e ∈ m, e.1 ≠ k) : Sparse.erase m k = m := by
  induction m with
  | nil => rfl
  | cons e m ih =>
    rw [Sparse.erase, if_neg (h e List.mem_cons_self), ih fun x hx => h x (List.mem_cons_of_mem _ hx)]

theorem Sparse.erase_erased {α : Type} (m : Sparse α) (k : Nat) : ∀ e ∈ Sparse.erase m k, e.1 ≠ k := by
  induction m with
  | nil => exact nofun
  | cons e m ih =>
    rw [Sparse.erase]
    split
    next => exact ih
    next other => exact fun x hx => (List.mem_cons.1 hx).elim (fun e => e ▸ other) (ih x)

theorem Sparse.mem_erase {α : Type} {m : Sparse α} {j : Nat} {e : Nat × α} (h : e ∈ Sparse.erase m j) : e ∈ m := by
  induction m with
  | nil => exact h
  | cons x m ih =>
    rw [Sparse.erase] at h
    split at h
    · exact List.mem_cons_of_mem _ (ih h)
    · exact (List.mem_cons.1 h).elim (fun same => same ▸ List.mem_cons_self) fun later => List.mem_cons_of_mem _ (ih later)

theorem Sparse.mem_insert {α : Type} {m : Sparse α} {j : Nat} {v : α} {e : Nat × α} (h : e ∈ Sparse.insert m j v) : e = (j, v) ∨ e ∈ m := by
  induction m with
  | nil => exact .inl (List.mem_singleton.1 h)
  | cons x m ih =>
    rw [Sparse.insert] at h
    split at h
    · exact (List.mem_cons.1 h).imp_right id
    · split at h
      · exact (List.mem_cons.1 h).imp_right (List.mem_cons_of_mem _)
      · rcases List.mem_cons.1 h with same | later
        · exact .inr (same ▸ List.mem_cons_self)
        · exact (ih later).imp_right (List.mem_cons_of_mem _)

/-- A write elsewhere lists nothing at `k`. -/
theorem Sparse.upd_unlisted {α : Type} [DecidableEq α] {d : α} {m : Sparse α} {j : Nat} {f : α → α} (h : ∀ e ∈ m, e.1 ≠ k) (other : j ≠ k) :
    ∀ e ∈ Sparse.upd d m j f, e.1 ≠ k := by
  intro e he
  unfold Sparse.upd Sparse.set at he
  split at he
  · exact h e (Sparse.mem_erase he)
  · exact (Sparse.mem_insert he).elim (fun same => same ▸ other) (h e)

/-! ## The budget through a command's end -/

/-- The budget's register is of no word that another field's lowest bit opens, nor of another address. -/
theorem budget_apart {f : Field} (h : f.key ≠ R.SEQ0_BUDGET.key) : apart [R.SEQ0_BUDGET] f := fun g hg => by
  rw [List.mem_singleton.1 hg]; exact h

theorem budget_before {f : Field} (h : f.key < 32 * 0xA1200) : apart [R.SEQ0_BUDGET] f := budget_apart fun e => absurd (e ▸ h) (by decide)

theorem budget_beyond {f : Field} (h : 0xA1201 ≤ f.addr) : apart [R.SEQ0_BUDGET] f := budget_apart fun e => by
  have : f.key = 32 * 0xA1200 := e
  simp only [Field.key] at this
  omega

/-- A cluster's counters stand before the budget in its page, and other pages follow. -/
theorem budget_seq {f : Field} {n : Nat} (h : 0xA110C + 0x1000 * n ≤ f.addr ∧ f.addr < 0xA1140 + 0x1000 * n) (low : f.lsb < 32) : apart [R.SEQ0_BUDGET] f :=
  budget_apart fun e => by
    have : f.key = 32 * 0xA1200 := e
    simp only [Field.key] at this
    omega

/-- Denied pieces are noted in the pages of the MPUs, and change no budget. -/
theorem State.violation_frame (s : State) {m : Nat} (kind : AccessKind) (a tag : Nat) (h : m < 16) : (s.violation m kind a tag).get R.SEQ0_BUDGET = s.get R.SEQ0_BUDGET ∧
    (s.violation m kind a tag).quartz = s.quartz := by
  have off : ∀ f : Field, f.addr < 0x60200 → f.lsb < 32 → f.key ≠ R.SEQ0_BUDGET.key := fun f low lsb => by
    simp only [Field.key, R.SEQ0_BUDGET]; omega
  cases kind <;> unfold State.violation <;> dsimp only <;> refine ⟨?_, by rw [(State.raise_onlyFields _ _ _).2.2]; rfl⟩ <;>
    rw [State.raise_get_ne _ _ _ _ (off _ (by simp only [R.BLK_INT_RAW, pgMPU]; omega) (by simp [R.BLK_INT_RAW]))]
  all_goals simp only [State.countSat]
  all_goals
    repeat rw [State.get_set_ne _ _ _ _ (off _ (by simp only [R.MPU_VIOL_RD_CNT, R.MPU_VIOL_WR_CNT, R.MPU_VIOL_X_CNT, R.MPU_LAST_RD_ADDR_LO, R.MPU_LAST_RD_ADDR_HI,
      R.MPU_LAST_RD_TAG, R.MPU_LAST_WR_ADDR_LO, R.MPU_LAST_WR_ADDR_HI]; omega) (by simp [R.MPU_VIOL_RD_CNT, R.MPU_VIOL_WR_CNT, R.MPU_VIOL_X_CNT, R.MPU_LAST_RD_ADDR_LO,
      R.MPU_LAST_RD_ADDR_HI, R.MPU_LAST_RD_TAG, R.MPU_LAST_WR_ADDR_LO, R.MPU_LAST_WR_ADDR_HI]))]

/-- A write to the work region leaves the fences, the time and the budget. -/
theorem State.dmaWrite_frame (s : State) {m : Nat} (tag a : Nat) (bs : List Byte) (h : m < 16) : let t := (s.dmaWrite m tag a bs).1
    t.ge = s.ge ∧ t.quartz = s.quartz ∧ t.get R.SEQ0_BUDGET = s.get R.SEQ0_BUDGET := by
  intro t
  refine foldl_keeps (fun r : State × Bool => r.1.ge = s.ge ∧ r.1.quartz = s.quartz ∧ r.1.get R.SEQ0_BUDGET = s.get R.SEQ0_BUDGET) _ (fun r p hr => ?_) _ _ ⟨rfl, rfl, rfl⟩
  split
  · exact hr
  · obtain ⟨ge, quartz, budget⟩ := hr
    obtain ⟨budget', quartz'⟩ := r.1.violation_frame (m := m) .write p.1 tag h
    exact ⟨(r.1.violation_onlyFields ..).1.trans ge, quartz'.trans quartz, budget'.trans budget⟩

/-- `t` has the budget's register of `s`. -/
abbrev BudgetKept (s t : State) : Prop := spares [R.SEQ0_BUDGET] s t

namespace BudgetKept

theorem settlePk {p : Nat} (h : BudgetKept s t) (hp : p < 8) : BudgetKept s (t.settlePk p) := by
  have page : apart [R.SEQ0_BUDGET] (R.BLK_INT_RAW (pgPK p)) := budget_before (by simp only [Field.key, R.BLK_INT_RAW, pgPK]; omega)
  have frozen : BudgetKept t (t.settlePkFreeze p) := by
    unfold State.settlePkFreeze State.settlePkCluster
    dsimp only
    have told : BudgetKept t (if t.get (R.BLK_FREEZE (pgPK p)) = 1 ∧ t.pkDrained p then t.raise (pgPK p) 4 else t) := .andIf .refl (.raise .refl page)
    generalize (if t.get (R.BLK_FREEZE (pgPK p)) = 1 ∧ t.pkDrained p then t.raise (pgPK p) 4 else t) = v at *
    exact .settleTake (.set (.andIf told (.severity .refl (by decide))) (by decide))
  refine spares.trans h (spares.trans frozen ?_)
  generalize h : t.settlePkFreeze p = v
  have settled : t.settlePk p = v.settleCurve := by rw [State.settlePk, h]
  rw [settled]
  unfold State.settleCurve State.showCurves
  exact .ite .refl (.set (.set (.update .refl rfl) (by decide)) (by decide))

theorem dropPk (h : BudgetKept s t) : BudgetKept s (t.dropPk k) := by
  unfold State.dropPk
  dsimp only
  refine .foldl (.update h rfl) fun v p hp => ?_
  have low : p < 8 := List.mem_range.mp (List.mem_of_mem_filter hp)
  exact BudgetKept.settlePk (.set .refl (budget_before (by simp only [Field.key, R.PK_ABORT_CNT]; omega))) low

theorem zeroOutput {c : Cmd} {st : Nat} {wrote : Bool} (h : BudgetKept s t) : BudgetKept s (t.zeroOutput c st wrote) := by
  unfold State.zeroOutput
  refine .ite h (.ite (.ite (spares.trans h fun f hf => ?_) h) ?_)
  · rw [List.mem_singleton.1 hf]
    exact (t.dmaWrite_frame c.part _ _ (t.dmaMpu_lt c)).2.2
  · split
    · exact .update h rfl
    · exact h

theorem countEnding {st det : Nat} {x : Context} {c : Cmd} (h : BudgetKept s t) : BudgetKept s (t.countEnding k x c st det) := by
  unfold State.countEnding
  dsimp only
  have off : ∀ {f : Field} {n : Nat}, 0xA110C + 0x1000 * n ≤ f.addr ∧ f.addr < 0xA1140 + 0x1000 * n → f.lsb < 32 → apart [R.SEQ0_BUDGET] f := budget_seq
  have counted : BudgetKept s (t.count (R.SEQ_DONE_CNT (clusterOf k))) := .set h (off (n := clusterOf k) (by simp only [R.SEQ_DONE_CNT]; omega) (by simp [R.SEQ_DONE_CNT]))
  generalize t.count (R.SEQ_DONE_CNT (clusterOf k)) = v at *
  refine .ite ?_ counted
  have known : ∀ a b : Nat, BudgetKept s ((v.set (R.SEQ_LAST_PC (clusterOf k)) a).set (R.SEQ_LAST_CLASS (clusterOf k)) b) := fun a b =>
    .set (.set counted (off (n := clusterOf k) (by simp only [R.SEQ_LAST_PC]; omega) (by simp [R.SEQ_LAST_PC])))
      (off (n := clusterOf k) (by simp only [R.SEQ_LAST_CLASS]; omega) (by simp [R.SEQ_LAST_CLASS]))
  have noted : ∀ {w : State} (a b d : Nat), BudgetKept s w → BudgetKept s (((w.set (R.SEQ_LAST_STATUS (clusterOf k)) a).set (R.SEQ_LAST_CTX (clusterOf k)) b).set
      (R.SEQ_LAST_PROGRAM (clusterOf k)) d) := fun a b d hw =>
    .set (.set (.set hw (off (n := clusterOf k) (by simp only [R.SEQ_LAST_STATUS]; omega) (by simp [R.SEQ_LAST_STATUS])))
      (off (n := clusterOf k) (by simp only [R.SEQ_LAST_CTX]; omega) (by simp [R.SEQ_LAST_CTX])))
      (off (n := clusterOf k) (by simp only [R.SEQ_LAST_PROGRAM]; omega) (by simp [R.SEQ_LAST_PROGRAM]))
  have told : ∀ {w : State} (st : Nat), BudgetKept s w → BudgetKept s (((w.set (R.SEQ_LAST_STATUS (clusterOf k)) st).set (R.SEQ_LAST_CTX (clusterOf k)) (k % 64)).set
      (R.SEQ_LAST_PROGRAM (clusterOf k)) c.desc.program) := fun st hw => noted _ _ _ hw
  refine .ite (.raise (.set (told _ ?_) ?_) ?_) (.ite (.set (told _ ?_) ?_) (told _ ?_))
  · exact .ite (known _ _) (.update (known _ _) rfl)
  · exact off (n := clusterOf k) (by simp only [R.SEQ_MABORT_CNT]; omega) (by simp [R.SEQ_MABORT_CNT])
  · exact budget_apart (by simp only [Field.key, R.BLK_INT_RAW, pgSEQ, R.SEQ0_BUDGET]; omega)
  · exact .ite (known _ _) (.update (known _ _) rfl)
  · exact off (n := clusterOf k) (by simp only [R.SEQ_FAULT_CNT]; omega) (by simp [R.SEQ_FAULT_CNT])
  · exact .ite (known _ _) (.update (known _ _) rfl)

theorem seatMoved {n fuel : Nat} (h : BudgetKept s t) : BudgetKept s (t.seatMoved n fuel) := by
  induction fuel generalizing t with
  | zero => exact h
  | succ fuel ih =>
    unfold State.seatMoved
    split
    · exact h
    · dsimp only
      split
      · exact h
      · apply ih
        split
        · exact .ite (.update h rfl) (.update h rfl)
        · exact .update h rfl

theorem settleStale (h : BudgetKept s t) : BudgetKept s t.settleStale := by
  unfold State.settleStale State.showStale
  refine .ite h (.raise ?_ (by decide))
  dsimp only
  exact .set (.set (.update h rfl) (by decide)) (by decide)

theorem settleSeq {n : Nat} (h : BudgetKept s t) : BudgetKept s (t.settleSeq n) :=
  .ite (.raise h (budget_apart (by simp only [Field.key, R.BLK_INT_RAW, pgSEQ, R.SEQ0_BUDGET]; omega))) h

theorem answerFields_apart : ∀ f ∈ answerFields, apart [R.SEQ0_BUDGET] f := by decide

theorem finish {ok : Option Bool} {c : Cmd} {e : Ending} {d : Option Nat} (h : BudgetKept s t) : BudgetKept s (t.finish ok c e d) := by
  unfold State.finish
  split
  · exact .update h rfl
  · exact .answer answerFields_apart (fun k => budget_apart (by simp only [Field.key, R.FVL_TX_FLITS, R.SEQ0_BUDGET]; omega)) h

theorem endCommand {st det len : Nat} {ok : Option Bool} (h : BudgetKept s t) : BudgetKept s (t.endCommand k st det len ok) := by
  unfold State.endCommand
  dsimp only
  split
  · exact h
  · next c _ =>
      have open_ : BudgetKept s (if refusing st then t.zeroOutput c st (t.ctx k).wrote else t) := .ite (zeroOutput h) h
      generalize (if refusing st then t.zeroOutput c st (t.ctx k).wrote else t) = v at open_ ⊢
      have dropped : BudgetKept s (v.dropOps k) := (dropPk open_).update rfl
      generalize v.dropOps k = w at dropped ⊢
      have counted : BudgetKept s (w.countEnding k (t.ctx k) c st det) := countEnding dropped
      generalize w.countEnding k (t.ctx k) c st det = u at counted ⊢
      have freed : BudgetKept s (u.setCtx k {}) := counted.update rfl
      exact spares.update (settleSeq (settleStale (finish (seatMoved freed)))) rfl

theorem budget (h : BudgetKept s t) : t.budget = s.budget := by rw [State.budget, h R.SEQ0_BUDGET (by simp)]; rfl

end BudgetKept

/-! ## A context that a command's end has freed -/

/-- Nothing is listed for context `k`. -/
def State.unseated (s : State) (k : Nat) : Prop := ∀ e ∈ s.sq.ctxs, e.1 ≠ k

theorem State.unseated_ctx (h : s.unseated k) : s.ctx k = {} := by
  by_contra other
  exact h _ (Sparse.mem_of_get_ne other) rfl

theorem State.seatMoved_unseated (n fuel : Nat) (free : s.unseated k) (h : ∀ o ∈ s.movedOps n, o.owner ≠ some k) : (s.seatMoved n fuel).unseated k := by
  induction fuel generalizing s with
  | zero => exact free
  | succ fuel ih =>
    unfold State.seatMoved
    dsimp only
    split
    · exact free
    next o os ops =>
      rw [ops] at h
      have mine : o.owner ≠ some k := h o List.mem_cons_self
      split
      · exact free
      next l _ =>
        refine ih (s := s.seated n l o os) ?_ ?_
        · unfold State.seated
          dsimp only
          split
          next j own =>
            split
            · exact Sparse.upd_unlisted (f := fun x => { x with home := some l }) free fun same => mine (same ▸ own)
            · exact free
          · exact free
        · rw [State.seated_movedOps]
          exact fun p hp => h p (List.mem_cons_of_mem _ hp)

theorem State.settleStale_ctxs (s : State) : s.settleStale.sq.ctxs = s.sq.ctxs := by
  unfold State.settleStale State.showStale
  dsimp only
  split
  · rfl
  · rw [(State.raise_onlyFields _ _ _).2.2]; rfl

theorem State.settleSeq_ctxs (s : State) (n : Nat) : (s.settleSeq n).sq.ctxs = s.sq.ctxs := by
  unfold State.settleSeq
  split
  · rw [(State.raise_onlyFields _ _ _).2.2]
  · rfl

/-- A command's end leaves nothing of its context. -/
theorem State.endCommand_unseated {st det len : Nat} {ok : Option Bool} (run : (s.ctx k).cmd ≠ none) : (s.endCommand k st det len ok).unseated k := by
  obtain ⟨c, hc⟩ := Option.ne_none_iff_exists'.1 run
  have at_ : ∃ u : State, u.movedOps (clusterOf k) = (s.movedOps (clusterOf k)).filter (fun o => o.owner ≠ some k) ∧
      (s.endCommand k st det len ok).sq.ctxs = ((u.setCtx k {}).seatMoved (clusterOf k) 4).sq.ctxs := by
    refine ⟨((if refusing st then s.zeroOutput c st (s.ctx k).wrote else s).dropOps k).countEnding k (s.ctx k) c st det, ?_, ?_⟩
    · rw [State.movedOps, State.countEnding_ci, ← State.movedOps, State.dropOps_movedOps]
      split
      · rw [State.movedOps, State.zeroOutput_ci]; rfl
      · rfl
    · unfold State.endCommand
      simp only [hc]
      show Seqs.ctxs (State.sq (State.settleSeq _ _)) = _
      rw [State.settleSeq_ctxs, State.settleStale_ctxs, ((endKeeps_iff _ _).mp (endKeeps_finish ..)).1]
  obtain ⟨u, moved, sq⟩ := at_
  have freed : (u.setCtx k {}).unseated k := by
    intro e he
    have he : e ∈ Sparse.set {} u.sq.ctxs k {} := he
    rw [Sparse.set, if_pos rfl] at he
    exact Sparse.erase_erased _ _ e he
  unfold State.unseated
  rw [sq]
  refine State.seatMoved_unseated _ _ freed fun o ho => ?_
  have ho : o ∈ u.movedOps (clusterOf k) := ho
  rw [moved] at ho
  simpa using (List.mem_filter.1 ho).2

theorem State.endCommand_idle {st det len : Nat} {ok : Option Bool} (idle : (s.ctx k).cmd = none) : s.endCommand k st det len ok = s := by
  unfold State.endCommand
  dsimp only
  rw [idle]

/-! ## Writes twice at one context -/

theorem State.updCtx_updCtx {f g : Context → Context} (serves : (f (s.ctx k)).cmd ≠ none) (still : (g (f (s.ctx k))).cmd ≠ none) :
    (s.updCtx k f).updCtx k g = s.updCtx k fun x => g (f x) := by
  have twice : Sparse.upd {} (Sparse.upd {} s.sq.ctxs k f) k g = Sparse.upd {} s.sq.ctxs k fun x => g (f x) :=
    Sparse.upd_upd (fun e => serves (congrArg Context.cmd e)) fun e => still (congrArg Context.cmd e)
  exact congrArg (fun cs => ({ s with sq := { s.sq with ctxs := cs } } : State)) twice

theorem Context.waitNone_of {x : Context} (h : x.wait = .none) : { x with wait := .none } = x := by
  cases x
  cases h
  rfl

/-- The sequencer's work counted. -/
def State.countWork (s : State) (k : Nat) (w : Nat × Nat) : State :=
  { ((s.count (R.SEQ_ISSUE_CNT (clusterOf k)) w.1).count (R.SEQ_RETIRE_CNT (clusterOf k)) w.2).updCtx k (fun x => { x with retired := x.retired + w.2 }) with
    frees := s.frees + 1 }

theorem State.countWork_going (w : Nat × Nat) (serves : (s.ctx k).cmd ≠ none) (wait : (s.ctx k).wait = .none) :
    (s.updCtx k fun x => { x with wait := .none }).countWork k w = s.countWork k w := by
  let u := (s.count (R.SEQ_ISSUE_CNT (clusterOf k)) w.1).count (R.SEQ_RETIRE_CNT (clusterOf k)) w.2
  have ctx : u.ctx k = s.ctx k := rfl
  have moved : (((s.updCtx k fun x => { x with wait := .none }).count (R.SEQ_ISSUE_CNT (clusterOf k)) w.1).count (R.SEQ_RETIRE_CNT (clusterOf k)) w.2).updCtx k
      (fun x => { x with retired := x.retired + w.2 }) = u.updCtx k fun x => { x with retired := x.retired + w.2 } := by
    show (u.updCtx k fun x => { x with wait := .none }).updCtx k _ = _
    rw [State.updCtx_updCtx (by rw [ctx]; exact serves) (by rw [ctx]; exact serves)]
    simp only [State.updCtx, ctx]
    rw [wait]
  unfold State.countWork
  rw [moved]
  rfl

/-! ## Poised for its end -/

/-- Context `k` goes on with its command, which nothing ends at its last boundary; or its command has ended and nothing is left of it. -/
inductive Poised (k : Nat) (s : State) : Prop
  | runs (serves : (s.ctx k).cmd ≠ none) (wait : (s.ctx k).wait = .none) (calm : s.unhurried k) (unlisted : listing (s.ctx k) = [])
  | ended (free : s.unseated k) (room : 2 ^ 16 ≤ s.budget)

theorem State.unhurried_of (calm : s.unhurried k) (fences : t.ge.fences = s.ge.fences) (quartz : t.quartz = s.quartz) (retired : (t.ctx k).retired = (s.ctx k).retired)
    (budget : t.budget = s.budget) : t.unhurried k := by
  obtain ⟨young, room⟩ := calm
  exact ⟨by rw [fences, quartz]; exact young, by rw [retired, budget]; exact room⟩

namespace Poised

theorem of_ready {c : Ctx} {slot : Nat} {run : ProgramRun} (ready : programReady s c slot run) (plain : slot ≠ 0x140 ∧ slot ≠ 0x1A2) : Poised (ctxKey c) s := by
  obtain ⟨serves, wait, slot_, -, -, -, -, -, -, -, -, -, -, -, young, room⟩ := ready
  refine .runs serves wait ⟨young, room⟩ ?_
  have slot_ : runSlot (s.ctx (ctxKey c)).desc.program = slot := slot_
  unfold listing
  dsimp only
  rw [slot_, if_neg plain.1, if_neg plain.2]

/-- What leaves the context, the fences, the time and the budget leaves it poised. -/
theorem keeps (h : Poised k s) (ctxs : t.sq = s.sq) (fences : t.ge.fences = s.ge.fences) (quartz : t.quartz = s.quartz) (budget : t.budget = s.budget) : Poised k t := by
  have ctx : t.ctx k = s.ctx k := by rw [State.ctx, ctxs]; rfl
  cases h with
  | runs serves wait calm unlisted =>
    exact .runs (by rw [ctx]; exact serves) (by rw [ctx]; exact wait) (State.unhurried_of calm fences quartz (by rw [ctx]) budget) (by rw [ctx]; exact unlisted)
  | ended free room => exact .ended (by unfold State.unseated; rw [ctxs]; exact free) (by rw [budget]; exact room)

/-- Its context goes on with nothing to wait for, as it stood. -/
theorem counts (h : Poised k s) : (s.updCtx k fun x => { x with wait := .none }).countProgram k none = s.countProgram k none := by
  cases h with
  | ended free room =>
    have same : s.updCtx k (fun x => { x with wait := .none }) = s := by
      have kept : Sparse.upd {} s.sq.ctxs k (fun x : Context => { x with wait := .none }) = s.sq.ctxs := by
        have empty : Sparse.get {} s.sq.ctxs k = ({} : Context) := State.unseated_ctx free
        rw [Sparse.upd, empty, Sparse.set, if_pos rfl]
        exact Sparse.erase_unlisted free
      show { s with sq := { s.sq with ctxs := Sparse.upd {} s.sq.ctxs k fun x : Context => { x with wait := .none } } } = s
      rw [kept]
    rw [same]
  | runs serves wait calm unlisted =>
    have ctx : (s.updCtx k fun x => { x with wait := .none }).ctx k = s.ctx k := by
      rw [State.ctx_updCtx_same]
      exact Context.waitNone_of wait
    have work : (s.updCtx k fun x => { x with wait := .none }).programWork k none = s.programWork k none := by
      unfold State.programWork
      rw [ctx]
      rfl
    show (s.updCtx k fun x => { x with wait := .none }).countWork k ((s.updCtx k fun x => { x with wait := .none }).programWork k none) = s.countWork k (s.programWork k none)
    rw [work, State.countWork_going _ serves wait]

/-- At its last boundary nothing comes first. -/
theorem due (h : Poised k s) : (s.countProgram k none).dueEnding ((s.countProgram k none).ctx k) = none := by
  cases h with
  | runs _ _ calm unlisted => exact State.dueEnding_counted calm unlisted
  | ended free room =>
    have unlisted : listing (s.ctx k) = [] := by rw [State.unseated_ctx free]; decide
    have work := State.programWork_lt unlisted
    unfold State.dueEnding
    rw [State.countProgram_ctx, s.countProgram_budget, State.unseated_ctx free]
    exact if_neg (show ¬s.budget ≤ 0 + (s.programWork k none).2 by omega)

theorem endProgram (h : Poised k s) (d : Done) (ok : Bool) :
    (s.countProgram k none).endProgram k d ok = (s.countProgram k none).endCommand k d.status 0 d.len ok := by
  unfold State.endProgram
  rw [h.due]

theorem endDone (h : Poised k s) (st det : Nat) (ok : Option Bool) :
    (s.countProgram k none).endDone k st det ok = (s.countProgram k none).endCommand k st det 0 ok := by
  unfold State.endDone
  rw [h.due]
  rfl

theorem endAt (h : Poised k s) (st det : Nat) (ok : Option Bool) :
    (s.countProgram k none).endAt k st det ok = (s.countProgram k none).endCommand k st det 0 ok := by
  unfold State.endAt State.firstEnding
  dsimp only
  split
  · rfl
  · rw [h.due]; rfl

end Poised

/-! ## A program's end, from its context's poise -/

section
variable {c : Ctx} {slot : Nat} {run : ProgramRun} {body : Prog → Run Done} {then_ : Prog → Run Next}

/-- How a program that ends its command settles. -/
theorem State.settleRun_ends {d : Done} (h : Poised (ctxKey c) t) :
    s.settleRun c run (.ok (.ends d), t) = .next (((t.countProgram (ctxKey c) none).endCommand (ctxKey c) d.status 0 d.len run.wrOk).settleSeeds c.cc) := by
  unfold State.settleRun
  dsimp only
  rw [h.counts, h.endProgram]

theorem State.program_answers {d : Done} (ready : programReady s c slot run) (runs : Runs (body (progOf s c run)) s d t) (h : Poised (ctxKey c) t) :
    s.program c slot run body = .next (((t.countProgram (ctxKey c) none).endCommand (ctxKey c) d.status 0 d.len run.wrOk).settleSeeds c.cc) := by
  rw [State.program, State.programThen_ready ready, show ExceptT.run (body (progOf s c run) >>= fun d => pure (Next.ends d)) s = _ from runs.ends]
  exact State.settleRun_ends h

/-- A program that a DONE of its own ends. -/
theorem State.program_malformed {st det : Nat} (ready : programReady s c slot run) (stops : Stops (body (progOf s c run)) s (.done st det) t) (h : Poised (ctxKey c) t) :
    s.program c slot run body = .next (((t.countProgram (ctxKey c) none).endCommand (ctxKey c) st det 0 run.wrOk).settleSeeds c.cc) := by
  rw [State.program, State.programThen_ready ready, show ExceptT.run (body (progOf s c run) >>= fun d => pure (Next.ends d)) s = _ from stops.ends]
  unfold State.settleRun
  dsimp only
  rw [h.counts, h.endDone]

/-- A program that an instruction of its own ends. -/
theorem State.program_fails {st det : Nat} (ready : programReady s c slot run) (stops : Stops (body (progOf s c run)) s (.fail st det) t) (h : Poised (ctxKey c) t) :
    s.program c slot run body = .next (((t.countProgram (ctxKey c) none).endCommand (ctxKey c) st det 0 run.wrOk).settleSeeds c.cc) := by
  rw [State.program, State.programThen_ready ready, show ExceptT.run (body (progOf s c run) >>= fun d => pure (Next.ends d)) s = _ from stops.ends]
  unfold State.settleRun
  dsimp only
  rw [h.counts, h.endAt]

theorem State.programThen_answers {d : Done} (ready : programReady s c slot run) (runs : Runs (then_ (progOf s c run)) s (.ends d) t) (h : Poised (ctxKey c) t) :
    s.programThen c slot run then_ = .next (((t.countProgram (ctxKey c) none).endCommand (ctxKey c) d.status 0 d.len run.wrOk).settleSeeds c.cc) := by
  rw [State.programThen_ready ready, show ExceptT.run (then_ (progOf s c run)) s = _ from runs]
  exact State.settleRun_ends h

theorem State.programThen_malformed {st det : Nat} (ready : programReady s c slot run) (stops : Stops (then_ (progOf s c run)) s (.done st det) t)
    (h : Poised (ctxKey c) t) :
    s.programThen c slot run then_ = .next (((t.countProgram (ctxKey c) none).endCommand (ctxKey c) st det 0 run.wrOk).settleSeeds c.cc) := by
  rw [State.programThen_ready ready, show ExceptT.run (then_ (progOf s c run)) s = _ from stops]
  unfold State.settleRun
  dsimp only
  rw [h.counts, h.endDone]

theorem State.programThen_fails {st det : Nat} (ready : programReady s c slot run) (stops : Stops (then_ (progOf s c run)) s (.fail st det) t)
    (h : Poised (ctxKey c) t) :
    s.programThen c slot run then_ = .next (((t.countProgram (ctxKey c) none).endCommand (ctxKey c) st det 0 run.wrOk).settleSeeds c.cc) := by
  rw [State.programThen_ready ready, show ExceptT.run (then_ (progOf s c run)) s = _ from stops]
  unfold State.settleRun
  dsimp only
  rw [h.counts, h.endAt]

/-- A program whose command ends, and then something follows. -/
theorem State.programThen_follows {d : Done} {f : State → State} (ready : programReady s c slot run) (runs : Runs (then_ (progOf s c run)) s (.follows d f) t)
    (h : Poised (ctxKey c) t) :
    s.programThen c slot run then_ = .next (f ((t.countProgram (ctxKey c) none).endCommand (ctxKey c) d.status 0 d.len run.wrOk)) := by
  rw [State.programThen_ready ready, show ExceptT.run (then_ (progOf s c run)) s = _ from runs]
  unfold State.settleRun
  dsimp only
  rw [h.counts, h.endProgram, h.due]
  rfl

/-- A program whose context then waits. -/
theorem State.programThen_waits {w : Wait} (ready : programReady s c slot run) (runs : Runs (then_ (progOf s c run)) s (.waits w) t) (h : Poised (ctxKey c) t) :
    s.programThen c slot run then_ = .next ((t.countProgram (ctxKey c) none).updCtx (ctxKey c) fun x => { x with wait := w, since := t.quartz }) := by
  rw [State.programThen_ready ready, show ExceptT.run (then_ (progOf s c run)) s = _ from runs]
  unfold State.settleRun
  dsimp only
  rw [h.counts]
  rfl

end

end Sys2Proof.Machine
end

section
/-! SUPPORT. A program's output and its random bytes, at its context's poise (R65, R78). -/
namespace Sys2Proof.Machine

variable {s t u : State} {k : Nat}

/-! ## The output of a program -/

namespace Poised

/-- A context that still runs its command, with nothing that a boundary looks at changed, is poised. -/
theorem of_same (serves : (s.ctx k).cmd ≠ none) (wait : (s.ctx k).wait = .none) (calm : s.unhurried k) (unlisted : listing (s.ctx k) = [])
    (cmd : (t.ctx k).cmd = (s.ctx k).cmd) (wait' : (t.ctx k).wait = (s.ctx k).wait) (retired : (t.ctx k).retired = (s.ctx k).retired)
    (listed : listing (t.ctx k) = listing (s.ctx k)) (fences : t.ge.fences = s.ge.fences) (quartz : t.quartz = s.quartz) (budget : t.budget = s.budget) : Poised k t :=
  .runs (by rw [cmd]; exact serves) (wait'.trans wait) (State.unhurried_of calm fences quartz retired budget) (listed.trans unlisted)

end Poised

/-- What ends the command leaves it poised. -/
theorem Poised.of_end {st det : Nat} {ok : Option Bool} (run : (s.ctx k).cmd ≠ none) (room : 2 ^ 16 ≤ s.budget) : Poised k (s.endAt k st det ok) :=
  .ended (State.endCommand_unseated run) (by rw [State.endAt, BudgetKept.budget (.endCommand .refl)]; exact room)

/-- A program's output leaves its context poised: it goes on, or an output area that refuses has ended its command. -/
theorem Poised.output (h : Poised k s) (off : Nat) (bs : List Byte) : Poised k (s.output k off bs) := by
  cases at_ : (s.ctx k).cmd with
  | none =>
    have same : s.output k off bs = s := by unfold State.output State.outputAt; dsimp only; rw [at_]
    rw [same]; exact h
  | some c =>
    cases h with
    | ended free _ => rw [State.unseated_ctx free] at at_; exact nomatch at_
    | runs serves wait calm unlisted =>
      unfold State.output
      generalize (s.ctx k).pc = pc
      cases some_ : bs.isEmpty with
      | true =>
        have same : s.outputAt k pc off bs = s := by unfold State.outputAt; dsimp only; rw [at_]; exact if_pos some_
        rw [same]; exact .runs serves wait calm unlisted
      | false =>
        have keep : ∀ {v : State}, (v.ctx k).cmd = (s.ctx k).cmd → (v.ctx k).wait = (s.ctx k).wait → (v.ctx k).retired = (s.ctx k).retired →
            listing (v.ctx k) = listing (s.ctx k) → v.ge.fences = s.ge.fences → v.quartz = s.quartz → v.budget = s.budget → Poised k v :=
          fun cmd wait' retired listed fences quartz budget => .of_same serves wait calm unlisted cmd wait' retired listed fences quartz budget
        cases inl : c.desc.outInline with
        | true =>
          rw [State.outputAt_inline at_ some_ inl]
          split
          · exact .runs serves wait calm unlisted
          · refine keep ?_ ?_ ?_ ?_ rfl rfl rfl <;> rw [State.ctx_setCtx_same] <;> rfl
        | false =>
          by_cases kept : bs.take (c.desc.outLen - off) = []
          · rw [State.outputAt_nothing at_ inl kept]; exact .runs serves wait calm unlisted
          · rw [State.outputAt_area at_ some_ inl kept]
            obtain ⟨w, hw⟩ : ∃ w, w = s.updCtx k fun x => { x with wrote := true } := ⟨_, rfl⟩
            have ctx : w.ctx k = { s.ctx k with wrote := true } := by rw [hw]; exact State.ctx_updCtx_same ..
            have frame : w.ge = s.ge ∧ w.quartz = s.quartz ∧ w.regs = s.regs := by rw [hw]; exact ⟨rfl, rfl, rfl⟩
            have wrote : ∀ {v : State}, v.ctx k = w.ctx k → v.ge = w.ge → v.quartz = w.quartz → v.get R.SEQ0_BUDGET = w.get R.SEQ0_BUDGET → Poised k v :=
              fun same ge quartz budget => by
                have fits : w.get R.SEQ0_BUDGET = s.get R.SEQ0_BUDGET := by rw [State.get, frame.2.2]; rfl
                rw [ctx] at same
                refine keep ?_ ?_ ?_ ?_ (by rw [ge, frame.1]) (quartz.trans frame.2.1) (by rw [State.budget, budget, fits]; rfl) <;> rw [same] <;> rfl
            have ends : ∀ {v : State} (st det : Nat), v.ctx k = s.ctx k ∨ v.ctx k = w.ctx k → v.get R.SEQ0_BUDGET = s.get R.SEQ0_BUDGET →
                Poised k ((v.updCtx k fun x => { x with pc }).endAt k st det) := fun {v} st det same fits => by
              refine .of_end ?_ (by
                have : (v.updCtx k fun x => { x with pc }).budget = s.budget := by rw [State.budget, State.budget, ← fits]; rfl
                rw [this]
                exact Nat.le_trans (Nat.le_add_left _ _) calm.2)
              rw [State.ctx_updCtx_same]
              rcases same with same | same
              · rw [same]; exact serves
              · rw [same, ctx]; exact serves
            rw [← hw]
            split
            · split
              · exact ends _ _ (.inl rfl) rfl
              · obtain ⟨ge, quartz, budget⟩ := w.dmaWrite_frame c.part (s.windowAddr c.part c.desc.outAddr + off) (bs.take (c.desc.outLen - off)) (s.dmaMpu_lt c)
                have same : (w.dmaWrite (s.dmaMpu c) c.part (s.windowAddr c.part c.desc.outAddr + off) (bs.take (c.desc.outLen - off))).1.ctx k = w.ctx k :=
                  State.ctx_of_tasks (State.dmaWrite_tasks ..) k
                dsimp only
                generalize w.dmaWrite (s.dmaMpu c) c.part (s.windowAddr c.part c.desc.outAddr + off) (bs.take (c.desc.outLen - off)) = r at *
                split
                · exact ends _ _ (.inr same) (budget.trans (by rw [State.get, frame.2.2]; rfl))
                · exact wrote same ge quartz budget
            · split
              next _ link tag _ =>
                have only := w.sendOn_only link (.peerOutput link tag off (bs.take (c.desc.outLen - off)))
                have budget := w.sendOn_keeps link (.peerOutput link tag off (bs.take (c.desc.outLen - off))) R.SEQ0_BUDGET fun g hg => by
                  rw [List.mem_singleton.1 hg]
                  simp only [Field.key, R.SEQ0_BUDGET, R.FVL_TX_FLITS]
                  omega
                exact wrote (by rw [only]; rfl) (by rw [only]) (by rw [only]) budget
              next f _ _ => exact wrote rfl rfl rfl rfl
              next => exact wrote rfl rfl rfl rfl

theorem Runs.reply (e : Prog) (bs : List Byte) (status : Nat) : Runs (e.reply bs status) s { status, len := if e.x.desc.outInline then min 16 bs.length else 0 } (s.output e.k 0 bs) :=
  .bind (.act _) .pure

theorem Runs.random {e : Prog} {n : Nat} (full : n ≤ s.queueFill e.cluster) : Runs (e.random n) s ((s.queue e.cluster).take n)
    (s.setQueue e.cluster ((s.queue e.cluster).drop n)) := by
  unfold Prog.random
  refine .bind .get ?_
  dsimp only
  rw [if_neg (by omega)]
  exact .bind (.set _) .pure

theorem progOf_cluster (s : State) (c : Ctx) (run : ProgramRun) : (progOf s c run).cluster = c.cc := clusterOf_ctxKey c

end Sys2Proof.Machine
end

section
/-! SUPPORT. What leaves a program's context poised, and the programs that stage a change at the gate (R125, R180, R311, R395, R402). -/
namespace Sys2Proof.Machine

variable {s t u : State} {k : Nat}

/-! ## What leaves a context poised -/

namespace Poised

/-- What changes neither contexts, fences, time nor registers. -/
theorem update (h : Poised k s) (sq : t.sq = s.sq) (ge : t.ge.fences = s.ge.fences) (quartz : t.quartz = s.quartz) (regs : t.regs = s.regs) : Poised k t :=
  h.keeps sq ge quartz (by rw [State.budget, State.get, regs]; rfl)

theorem set {f : Field} {v : Nat} (h : Poised k s) (off : f.key ≠ R.SEQ0_BUDGET.key) : Poised k (s.set f v) :=
  h.keeps rfl rfl rfl (by rw [State.budget, State.get_set_ne _ _ _ _ off]; rfl)

theorem raise {p i : Nat} (h : Poised k s) (off : (R.BLK_INT_RAW p).key ≠ R.SEQ0_BUDGET.key) : Poised k (s.raise p i) := by
  have only := (s.raise_onlyFields p i).2.2
  exact h.keeps (by rw [only]) (by rw [only]) (by rw [only]) (by rw [State.budget, State.raise_get_ne _ _ _ _ off]; rfl)

theorem ite {c : Prop} [Decidable c] (h : Poised k s) (g : Poised k t) : Poised k (if c then s else t) := by split <;> assumption

theorem sendOn {j : Nat} {o : Output} (h : Poised k s) : Poised k (s.sendOn j o) := by
  have only := s.sendOn_only j o
  refine h.keeps (by rw [only]) (by rw [only]) (by rw [only]) ?_
  rw [State.budget, s.sendOn_keeps j o R.SEQ0_BUDGET fun g hg => ?_]
  · rfl
  · rw [List.mem_singleton.1 hg]
    simp only [Field.key, R.SEQ0_BUDGET, R.FVL_TX_FLITS]
    omega

theorem foldl {α : Type} {f : State → α → State} {xs : List α} (h : Poised k s) (hf : ∀ v a, Poised k v → Poised k (f v a)) : Poised k (xs.foldl f s) :=
  foldl_keeps (Poised k) f (fun v a hv => hf v a hv) xs s h

theorem tellTree {o : Nat → Output} (h : Poised k s) : Poised k (s.tellTree o) := h.foldl fun _ _ hv => hv.sendOn

theorem tellOn {l : Option Nat} {o : Nat → Output} (h : Poised k s) : Poised k (s.tellOn l o) := by
  unfold State.tellOn
  split
  · exact h.sendOn
  · exact h

theorem tellStandby {d : Delta} (h : Poised k s) : Poised k (s.tellStandby d) := by
  unfold State.tellStandby State.sendDelta State.sendDeltaOn
  split
  · dsimp only
    exact .tellOn (.update (.set (.set (.set h (by decide)) (by decide)) (by decide)) rfl rfl rfl rfl)
  · exact h

theorem openEpoch {p : Nat} (h : Poised k s) : Poised k (s.openEpoch p) := by
  unfold State.openEpoch
  split
  · exact .ite (.raise (h.update rfl rfl rfl rfl) (by decide)) h
  · exact h

theorem setPin {n : Nat} {level : Bool} (h : Poised k s) : Poised k (s.setPin n level) := .ite (.set h (by decide)) h

/-- The card ports' fields stand at no lowest bit 0, so none is the budget's. -/
theorem deactivateCard {p : Nat} (h : Poised k s) : Poised k (s.deactivateCard p) := by
  have off : ∀ f : Field, f.lsb < 32 → f.lsb ≠ 0 → f.key ≠ R.SEQ0_BUDGET.key := fun f fits low => by simp only [Field.key, R.SEQ0_BUDGET]; omega
  have class_ := off (R.CARD_CLASS p) (by simp [R.CARD_CLASS]) (by simp [R.CARD_CLASS])
  have proto := off (R.CARD_PROTO_T1 p) (by simp [R.CARD_PROTO_T1]) (by simp [R.CARD_PROTO_T1])
  have stopped := off (R.CARD_CLK_STOPPED p) (by simp [R.CARD_CLK_STOPPED]) (by simp [R.CARD_CLK_STOPPED])
  have clock := off (R.CARD_CLK_MHZ p) (by simp [R.CARD_CLK_MHZ]) (by simp [R.CARD_CLK_MHZ])
  exact .update (s := (((s.set (R.CARD_CLASS p) 0).set (R.CARD_PROTO_T1 p) 0).set (R.CARD_CLK_STOPPED p) 0).set (R.CARD_CLK_MHZ p) 0)
    ((((h.set class_).set proto).set stopped).set clock) rfl rfl rfl rfl

theorem dropCardApproval (h : Poised k s) : Poised k s.dropCardApproval := by
  unfold State.dropCardApproval
  refine .ite h ?_
  unfold State.endCardApproval
  have pinned : Poised k (((s.set R.CARD_APPROVE_BUSY 0).set R.CARD_APPROVE_RESULT 5).setPin 4 false) := .setPin (.set (.set h (by decide)) (by decide))
  exact .deactivateCard (.raise (.update pinned rfl rfl rfl rfl) (by decide))

theorem voidSeal (h : Poised k s) : Poised k s.voidSeal := by
  have opened : Poised k (((s.set R.GATE_STATE 1).set R.GATE_APPR1_OID 0).set R.GATE_APPR1_ROLE 0) := ((h.set (by decide)).set (by decide)).set (by decide)
  unfold State.voidSeal
  refine Poised.dropCardApproval ?_
  exact opened.update rfl rfl rfl rfl

/-- A change handed to the gate, taken or rejected. -/
theorem stage (h : Poised k s) (c : Change) : Poised k (s.stage c).1 := by
  unfold State.stage
  split
  · exact h
  · split
    · unfold State.putChange
      dsimp only
      refine .update (.set (.ite ?_ (.ite h ?_)) (by decide)) rfl rfl rfl rfl
      · exact .set (.set (.set (.set h (by decide)) (by decide)) (by decide)) (by decide)
      · have voided : Poised k ((s.countSat R.GATE_VOIDED_CNT).raise pgGATE 5) := .raise (.set h (by decide)) (by decide)
        exact voided.voidSeal
    · exact .raise (.set h (by decide)) (by decide)

theorem refuseApproval {det : Nat} (h : Poised k s) : Poised k (s.refuseApproval det) := .raise (.set (.set h (by decide)) (by decide)) (by decide)

end Poised

/-! ## A staged change (R125) -/

/-- A program that runs to a change hands it to the gate: its command ends with it, or with the refusal of the gate. -/
def stagesChange (c : Ctx) (run : ProgramRun) (s v : State) (i : Instr) (x : Change) : Prop :=
  let k := ctxKey c
  ((v.stage x).2 = true → exec i s = .next ((((v.stage x).1.countProgram k none).endCommand k 0 0 0 run.wrOk).settleSeeds c.cc)) ∧
  ((v.stage x).2 = false → exec i s = .next ((((v.stage x).1.countProgram k none).endCommand k stFormatError 0xC061 0 run.wrOk).settleSeeds c.cc))

theorem Runs.stage {e : Prog} {x : Change} (taken : (s.stage x).2 = true) : Runs (e.stage x) s {} (s.stage x).1 :=
  .bind .get (.bind (.set _) (.bind (.need taken _) .pure))

theorem Stops.stage {e : Prog} {x : Change} (rejected : (s.stage x).2 = false) : Stops (e.stage x) s (.done stFormatError 0xC061) (s.stage x).1 :=
  Runs.get.bindStops ((Runs.set _).bindStops (Stops.need rejected _).bind)

/-- A part that goes on to a staged change, in its two ways. -/
def RunsToStage (m : Run Done) (s v : State) (x : Change) : Prop :=
  ((v.stage x).2 = true → Runs m s {} (v.stage x).1) ∧ ((v.stage x).2 = false → Stops m s (.done stFormatError 0xC061) (v.stage x).1)

namespace RunsToStage

theorem stage {e : Prog} {x : Change} : RunsToStage (e.stage x) s s x := ⟨.stage, .stage⟩

theorem after {α : Type} {m : Run α} {a : α} {f : α → Run Done} {v : State} {x : Change} (h : Runs m s a t) (rest : RunsToStage (f a) t v x) : RunsToStage (m >>= f) s v x :=
  ⟨fun taken => h.bind (rest.1 taken), fun rejected => h.bindStops (rest.2 rejected)⟩

theorem stages {c : Ctx} {run : ProgramRun} {slot : Nat} {body : Prog → Run Done} {i : Instr} {v : State} {x : Change} (ready : programReady s c slot run)
    (program : exec i s = s.program c slot run body) (h : Poised (ctxKey c) v) (rest : RunsToStage (body (progOf s c run)) s v x) : stagesChange c run s v i x := by
  refine ⟨fun taken => ?_, fun rejected => ?_⟩
  · rw [program]; exact State.program_answers (d := {}) ready (rest.1 taken) (h.stage x)
  · rw [program]; exact State.program_malformed (st := stFormatError) (det := 0xC061) ready (rest.2 rejected) (h.stage x)

end RunsToStage

/-- An object whose bytes pass is staged. -/
theorem RunsToStage.object {e : Prog} {bits first : Nat} {fits : List Byte → Bool} {table : ImageTable} {check : List Byte → Option Nat}
    (inside : first ≤ e.param 0 bits) (only : e.paramOnly (2 ^ bits - 1) = true)
    (good : e.allInput = [] ∨ fits e.allInput = true ∧ check e.allInput = none) :
    RunsToStage (e.stageObject bits first fits table check) s s (.image table (e.param 0 bits) e.allInput) := by
  refine .after (.need (decide_eq_true inside) _) (.after (.need only _) (.after (.need ?_ _) ?_))
  · rcases good with empty | ⟨fit, -⟩
    · rw [empty]; rfl
    · rw [fit, Bool.or_true]
  · have passes : (if e.allInput.isEmpty then none else check e.allInput) = none := by
      rcases good with empty | ⟨-, pass⟩
      · rw [empty]; rfl
      · rw [pass, ite_self]
    rw [passes]
    exact .stage

section
variable {c : Ctx} {run : ProgramRun}

theorem programImage_stages (ready : programReady s c 0x10 run) (inside : 1024 ≤ (progOf s c run).param 0 12) (only : (progOf s c run).paramOnly 0xFFF = true)
    (good : (progOf s c run).allInput = [] ∨ (256 ≤ (progOf s c run).allInput.length ∧ (progOf s c run).allInput.length = imageLength (progOf s c run).allInput ∧
      (readImage ((progOf s c run).param 0 12) (progOf s c run).allInput).isSome = true)) :
    stagesChange c run s s (.stageProgramImage c run) (.image .program ((progOf s c run).param 0 12) (progOf s c run).allInput) := by
  have program : exec (.stageProgramImage c run) s = execStageProgramImage c run s := rfl
  unfold execStageProgramImage at program
  have poised : Poised (ctxKey c) s := .of_ready ready (by decide)
  refine RunsToStage.stages ready program poised ?_
  refine .object inside only (good.imp_right fun ⟨long, whole, read⟩ => ⟨?_, if_pos read⟩)
  simp only [Bool.and_eq_true, decide_eq_true_eq, beq_iff_eq]
  exact ⟨long, whole⟩

theorem formatEntry_stages (ready : programReady s c 0x11 run) (inside : 32 ≤ (progOf s c run).param 0 6) (only : (progOf s c run).paramOnly 0x3F = true)
    (good : (progOf s c run).allInput = [] ∨ (progOf s c run).allInput.length = 64 ∧ fmtCheck (progOf s c run).allInput = none) :
    stagesChange c run s s (.stageFormatEntry c run) (.image .format ((progOf s c run).param 0 6) (progOf s c run).allInput) := by
  have program : exec (.stageFormatEntry c run) s = execStageFormatEntry c run s := rfl
  unfold execStageFormatEntry at program
  have poised : Poised (ctxKey c) s := .of_ready ready (by decide)
  refine RunsToStage.stages ready program poised ?_
  refine .object inside only (good.imp_right fun ⟨long, pass⟩ => ⟨?_, ?_⟩)
  · exact beq_iff_eq.2 long
  · rw [pass]; rfl

theorem derivationEntry_stages (ready : programReady s c 0x12 run) (inside : 64 ≤ (progOf s c run).param 0 7) (only : (progOf s c run).paramOnly 0x7F = true)
    (good : (progOf s c run).allInput = [] ∨ (progOf s c run).allInput.length = 128 ∧ derCheck (progOf s c run).allInput = none) :
    stagesChange c run s s (.stageDerivationEntry c run) (.image .derivation ((progOf s c run).param 0 7) (progOf s c run).allInput) := by
  have program : exec (.stageDerivationEntry c run) s = execStageDerivationEntry c run s := rfl
  unfold execStageDerivationEntry at program
  have poised : Poised (ctxKey c) s := .of_ready ready (by decide)
  refine RunsToStage.stages ready program poised ?_
  refine .object inside only (good.imp_right fun ⟨long, pass⟩ => ⟨?_, ?_⟩)
  · exact beq_iff_eq.2 long
  · rw [pass]; rfl

/-- An empty curve entry. -/
theorem curveEntry_empties (ready : programReady s c 0x13 run) (inside : 16 ≤ (progOf s c run).param 0 6) (only : (progOf s c run).paramOnly 0x3F = true)
    (empty : (progOf s c run).allInput = []) : stagesChange c run s s (.stageCurveEntry c run) (.image .curve ((progOf s c run).param 0 6) []) := by
  have program : exec (.stageCurveEntry c run) s = execStageCurveEntry c run s := rfl
  unfold execStageCurveEntry at program
  have poised : Poised (ctxKey c) s := .of_ready ready (by decide)
  refine RunsToStage.stages ready program poised ?_
  refine .after (.need (decide_eq_true inside) _) (.after (.need only _) ?_)
  dsimp only
  rw [empty]
  exact .after (.need rfl _) (.after .pure .stage)

variable {p m : Nat}

/-- The checks of a curve entry run on an idle engine (R180). -/
theorem Runs.checkCurve {e : Prog} {bs : List Byte} (calm : e.run.pkTwin = none) (cluster : (List.range 8).find? (fun p => s.bit R.GBL_PK_INSERVICE p) = some p)
    (engine : (List.range 8).find? (fun u => s.pkOpen p u && (s.pkUnit p u).ops.isEmpty) = some m) :
    Runs (e.checkCurve bs) s (curveCheck bs (s.draw (72 * 144)).1) (s.draw (72 * 144)).2 := by
  unfold Prog.checkCurve
  refine .bind .get ?_
  dsimp only
  rw [cluster]
  dsimp only
  rw [engine]
  dsimp only
  rw [calm]
  exact .bind (.set _) .pure

theorem curveEntry_stages (ready : programReady s c 0x13 run) (inside : 16 ≤ (progOf s c run).param 0 6) (only : (progOf s c run).paramOnly 0x3F = true)
    (long : (progOf s c run).allInput.length = 512) (cluster : (List.range 8).find? (fun p => s.bit R.GBL_PK_INSERVICE p) = some p)
    (engine : (List.range 8).find? (fun u => s.pkOpen p u && (s.pkUnit p u).ops.isEmpty) = some m)
    (pass : curveCheck (progOf s c run).allInput (s.draw (72 * 144)).1 = none) :
    stagesChange c run s (s.draw (72 * 144)).2 (.stageCurveEntry c run) (.image .curve ((progOf s c run).param 0 6) (progOf s c run).allInput) := by
  have calm : run.pkTwin = none := ready.2.2.2.2.2.1
  have some_ : (progOf s c run).allInput.isEmpty = false := by
    cases input : (progOf s c run).allInput with
    | nil => rw [input] at long; exact absurd long (by decide)
    | cons _ _ => rfl
  have program : exec (.stageCurveEntry c run) s = execStageCurveEntry c run s := rfl
  unfold execStageCurveEntry at program
  have poised : Poised (ctxKey c) s := .of_ready ready (by decide)
  refine RunsToStage.stages ready program (poised.update rfl rfl rfl rfl) ?_
  refine .after (.need (decide_eq_true inside) _) (.after (.need only _) (.after (.need (by rw [long, Bool.or_eq_true]; exact .inr rfl) _) ?_))
  rw [some_, if_neg Bool.false_ne_true]
  refine .after (.checkCurve calm cluster engine) ?_
  rw [pass]
  exact .stage

theorem curveEntry_rejects {n : Nat} (ready : programReady s c 0x13 run) (inside : 16 ≤ (progOf s c run).param 0 6) (only : (progOf s c run).paramOnly 0x3F = true)
    (long : (progOf s c run).allInput.length = 512) (cluster : (List.range 8).find? (fun p => s.bit R.GBL_PK_INSERVICE p) = some p)
    (engine : (List.range 8).find? (fun u => s.pkOpen p u && (s.pkUnit p u).ops.isEmpty) = some m)
    (bad : curveCheck (progOf s c run).allInput (s.draw (72 * 144)).1 = some n) :
    ∃ v : State, Sparse.get 0 v.pk.lastCheck ((progOf s c run).param 0 6) = n ∧ v.gt = s.gt ∧
      exec (.stageCurveEntry c run) s = .next (((v.countProgram (ctxKey c) none).endCommand (ctxKey c) stCurveRejected n 0 run.wrOk).settleSeeds c.cc) := by
  have calm : run.pkTwin = none := ready.2.2.2.2.2.1
  have some_ : (progOf s c run).allInput.isEmpty = false := by
    cases input : (progOf s c run).allInput with
    | nil => rw [input] at long; exact absurd long (by decide)
    | cons _ _ => rfl
  obtain ⟨v, hv⟩ : ∃ v, v = ({ (s.draw (72 * 144)).2 with
    pk.lastCheck := Sparse.set 0 (s.draw (72 * 144)).2.pk.lastCheck ((progOf s c run).param 0 6) n } : State) := ⟨_, rfl⟩
  have program : exec (.stageCurveEntry c run) s = execStageCurveEntry c run s := rfl
  unfold execStageCurveEntry at program
  have poised : Poised (ctxKey c) s := .of_ready ready (by decide)
  have poisedThen : Poised (ctxKey c) v := by rw [hv]; exact poised.update rfl rfl rfl rfl
  refine ⟨v, by rw [hv]; exact Sparse.get_set_same .., by rw [hv]; rfl, program.trans (State.program_fails ready ?_ poisedThen)⟩
  refine (Runs.need (decide_eq_true inside) _).bindStops ((Runs.need only _).bindStops ((Runs.need (by rw [long, Bool.or_eq_true]; exact .inr rfl) _).bindStops ?_))
  rw [some_, if_neg Bool.false_ne_true]
  refine (Runs.checkCurve calm cluster engine).bindStops ?_
  rw [bad]
  refine (Runs.act _).bindStops ?_
  rw [hv]
  exact .stop _ _

theorem serviceApplet_stages (ready : programReady s c 0x1E run) (only : (progOf s c run).paramOnly 7 = true)
    (good : (progOf s c run).allInput = [] ∨ ∃ h, readApplet (progOf s c run).allInput = some h ∧ h.aslot = (progOf s c run).param 0 3 ∧ (s.part h.tag).created = true) :
    stagesChange c run s s (.stageServiceApplet c run) (.image .applet ((progOf s c run).param 0 3) (progOf s c run).allInput) := by
  have program : exec (.stageServiceApplet c run) s = execStageServiceApplet c run s := rfl
  unfold execStageServiceApplet at program
  have poised : Poised (ctxKey c) s := .of_ready ready (by decide)
  refine RunsToStage.stages ready program poised (.after (.need only _) (.after .get ?_))
  dsimp only
  rcases good with empty | ⟨h, read, slot, made⟩
  · rw [empty]; exact .after (.need rfl _) .stage
  · rw [read]
    dsimp only
    rw [slot, made]
    exact .after (.need (by simp) _) .stage

theorem lifeCycleCommand_stages (ready : programReady s c 0x16 run) (long : (progOf s c run).inLen = 36) (zero : (progOf s c run).zero 1 3 = true)
    (legal : s.lcRefusal false ((progOf s c run).byte 0) ((progOf s c run).input 4 32) = none) :
    stagesChange c run s s (.stageLifeCycleCommand c run) (.lifeCycle ((progOf s c run).byte 0) ((progOf s c run).input 4 32)) := by
  have program : exec (.stageLifeCycleCommand c run) s = execStageLifeCycleCommand c run s := rfl
  unfold execStageLifeCycleCommand at program
  have poised : Poised (ctxKey c) s := .of_ready ready (by decide)
  refine RunsToStage.stages ready program poised (.after (.need (beq_iff_eq.2 long) _) (.after (.need zero _) (.after .get ?_)))
  dsimp only
  rw [legal]
  exact .stage

theorem reProvision_stages (ready : programReady s c 0x1C run) (only : (progOf s c run).paramOnly 1 = true) (latched : s.ob.latch = 3) (idle : s.get R.GATE_STATE = 0)
    (paired : (progOf s c run).param 0 1 = 1 → s.get R.PAIR_PAIR_EN = 1 ∧ s.partnerByte 8 % 4 = 1 ∧ s.pr.healthIn = true) :
    stagesChange c run s s (.reProvision c run) (.reProvision ((progOf s c run).param 0 1 == 1)) := by
  have program : exec (.reProvision c run) s = execReProvision c run s := rfl
  unfold execReProvision at program
  have poised : Poised (ctxKey c) s := .of_ready ready (by decide)
  refine RunsToStage.stages ready program poised (.after (.need only _) (.after .get (.after (.need (by rw [latched]; rfl) _)
    (.after (.need ?_ _) (.after (.need (by rw [idle]; rfl) _) .stage)))))
  cases one : (progOf s c run).param 0 1 == 1 with
  | false => rfl
  | true =>
    obtain ⟨en, active, well⟩ := paired (beq_iff_eq.1 one)
    rw [en, active, well]
    rfl

end

end Sys2Proof.Machine
end

section
/-! SUPPORT. Approvals, the change record, debug, sleep, epochs and the journal as programs (R274, R275, R317, R318, R329, R371, R372, R427). -/
namespace Sys2Proof.Machine

variable {s t u : State} {c : Ctx} {run : ProgramRun}

theorem Stops.malformed {α : Type} (det : Nat) : Stops (Machine.malformed det : Run α) s (.done stFormatError det) s := rfl

/-- What changes neither contexts, lines, partitions, queue pairs, memory nor what is sent is nothing to a run. -/
theorem duringRun_of {k : Nat} {v : State} (sq : v.sq = s.sq) (lines : v.ge.lines = s.ge.lines) (parts : v.parts = s.parts) (hq : v.hq = s.hq) (hb : v.hb = s.hb)
    (out : v.out = s.out) : duringRun k s v := by
  have ctx : ∀ j, v.ctx j = s.ctx j := fun j => by rw [State.ctx, sq]; rfl
  exact ⟨by rw [ctx], by rw [ctx], by rw [ctx], fun j _ => ctx j, lines, parts, hq, hb, out⟩

/-! ## A program that waits -/

theorem State.countProgram_ctx_ne (s : State) {k j : Nat} (work : Option (Nat × Nat)) (h : j ≠ k) : (s.countProgram k work).ctx j = s.ctx j := by
  let u := (s.count (R.SEQ_ISSUE_CNT (clusterOf k)) (s.programWork k work).1).count (R.SEQ_RETIRE_CNT (clusterOf k)) (s.programWork k work).2
  exact State.ctx_updCtx_ne (s := u) k j (fun x => { x with retired := x.retired + (s.programWork k work).2 }) (Ne.symm h)

/-- The context of a program that waits, and the others. -/
theorem State.waiting_ctx (v : State) (k : Nat) (w : Wait) : let t := (v.countProgram k none).updCtx k fun x => { x with wait := w, since := v.quartz }
    t.ctx k = { v.ctx k with wait := w, since := v.quartz, retired := (t.ctx k).retired } ∧ ∀ j, j ≠ k → t.ctx j = v.ctx j := by
  refine ⟨?_, fun j hj => ?_⟩
  · rw [State.ctx_updCtx_same, State.countProgram_ctx]
  · rw [State.ctx_updCtx_ne _ _ _ _ (Ne.symm hj), State.countProgram_ctx_ne _ _ hj]

/-! ## Approvals (R274, R275) -/

section
variable (ready : programReady s c 0x14 run) (long : 56 ≤ (progOf s c run).inLen)
include ready long

theorem approveChange_verifies (named : s.approvalNames ((progOf s c run).input 0 56) = true)
    (keyed : s.approvalKeyed ((progOf s c run).input 0 56) ((progOf s c run).input 56 ((progOf s c run).inLen - 56)) = true) :
    let k := ctxKey c
    let msg := (progOf s c run).input 0 56
    let rest := (progOf s c run).input 56 ((progOf s c run).inLen - 56)
    let n := (approvalLens (((s.approver msg).map (·.ktype)).getD 1)).1
    ∃ t, exec (.approveChange c run) s = .next t ∧
      t.ctx k = { s.ctx k with wait := .pkx, since := s.quartz, retired := (t.ctx k).retired } ∧ (∀ j, j ≠ k → t.ctx j = s.ctx j) ∧
      t.gt = { s.gt with verifying := s.gt.verifying ++ [{ ctx := k, msg, key := rest.take n, sig := rest.drop n }] } := by
  intro k msg rest n
  have poised : Poised (ctxKey c) s := .of_ready ready (by decide)
  obtain ⟨v, hv⟩ : ∃ v, v = ({ s with gt.verifying := s.gt.verifying ++ [{ ctx := k, msg, key := rest.take n, sig := rest.drop n }] } : State) := ⟨_, rfl⟩
  have program : exec (.approveChange c run) s = execApproveChange c run s := rfl
  unfold execApproveChange at program
  refine ⟨_, program.trans (State.programThen_waits (w := .pkx) (t := v) ready ?_ (by rw [hv]; exact poised.update rfl rfl rfl rfl)), ?_⟩
  · refine .bind (.need (decide_eq_true long) _) (.bind .get ?_)
    dsimp only
    rw [named, keyed]
    rw [if_neg (by simp), if_neg (by simp), hv]
    exact .bind (.act _) .pure
  · obtain ⟨own, others⟩ := v.waiting_ctx (ctxKey c) .pkx
    refine ⟨?_, ?_, ?_⟩
    · rw [own, hv]; rfl
    · intro j hj; rw [others j hj, hv]; rfl
    · rw [hv]; rfl

/-- An approval that fails check 1 is refused with 0xC080. -/
theorem approveChange_unnamed (unnamed : s.approvalNames ((progOf s c run).input 0 56) = false) : exec (.approveChange c run) s =
    .next ((((s.refuseApproval 0xC080).countProgram (ctxKey c) none).endCommand (ctxKey c) stFormatError 0xC080 0 run.wrOk).settleSeeds c.cc) := by
  have poised : Poised (ctxKey c) s := .of_ready ready (by decide)
  have program : exec (.approveChange c run) s = execApproveChange c run s := rfl
  unfold execApproveChange at program
  refine program.trans (State.programThen_malformed ready ?_ poised.refuseApproval)
  refine (Runs.need (decide_eq_true long) _).bindStops (Runs.get.bindStops ?_)
  dsimp only
  rw [unnamed, if_pos (by rfl)]
  exact ((Runs.act _).bindStops (.malformed _)).bind

/-- An approval that fails check 2 is refused with 0xC082. -/
theorem approveChange_unkeyed (named : s.approvalNames ((progOf s c run).input 0 56) = true)
    (unkeyed : s.approvalKeyed ((progOf s c run).input 0 56) ((progOf s c run).input 56 ((progOf s c run).inLen - 56)) = false) : exec (.approveChange c run) s =
    .next ((((s.refuseApproval 0xC082).countProgram (ctxKey c) none).endCommand (ctxKey c) stFormatError 0xC082 0 run.wrOk).settleSeeds c.cc) := by
  have poised : Poised (ctxKey c) s := .of_ready ready (by decide)
  have program : exec (.approveChange c run) s = execApproveChange c run s := rfl
  unfold execApproveChange at program
  refine program.trans (State.programThen_malformed ready ?_ poised.refuseApproval)
  refine (Runs.need (decide_eq_true long) _).bindStops (Runs.get.bindStops ?_)
  dsimp only
  rw [named, unkeyed, if_neg (by simp), if_pos (by rfl)]
  exact ((Runs.act _).bindStops (.malformed _)).bind

end

/-! ## The change record (R274) -/

theorem readChangeRecord_answers (ready : programReady s c 0x15 run) (sealed_ : 2 ≤ s.get R.GATE_STATE) (room : s.changeRecords.length ≤ (progOf s c run).x.desc.outLen) :
    answers (.readChangeRecord c run) s c run s.changeRecords := by
  have poised : Poised (ctxKey c) s := .of_ready ready (by decide)
  have program : exec (.readChangeRecord c run) s = execReadChangeRecord c run s := rfl
  unfold execReadChangeRecord at program
  refine ⟨s, none, duringRun_of rfl rfl rfl rfl rfl rfl, program.trans (State.program_answers
    (d := { status := 0, len := if (progOf s c run).x.desc.outInline then min 16 s.changeRecords.length else 0 }) ready ?_ (poised.output 0 s.changeRecords))⟩
  exact .bind .get (.bind (.need (decide_eq_true sealed_) _) (.bind (.need (decide_eq_true room) _) (.reply _ _ _)))

/-! ## The debug challenge and its response (R317, R318) -/

theorem Runs.fielded {e : Prog} (state : s.lcState = 4 ∨ s.lcState = 5) : Runs e.fielded s () s := by
  refine .bind .get (.need ?_ _)
  rw [Bool.or_eq_true, beq_iff_eq, beq_iff_eq]
  exact state

theorem Runs.debugCheck {p : Bool} (holds : p = true) (det : Nat) : Runs (debugCheck p det) s () s := by rw [Machine.debugCheck, if_pos holds]; exact .pure

theorem Stops.debugCheck {p : Bool} (fails : p = false) (det : Nat) : Stops (Machine.debugCheck p det) s (.done stFormatError det) (s.refuseDebug det) := by
  rw [Machine.debugCheck, fails, if_neg Bool.false_ne_true]
  exact (Runs.act _).bindStops (.malformed _)

theorem debugChallenge_answers (ready : programReady s c 0x17 run) (state : s.lcState = 4 ∨ s.lcState = 5) (room : 56 ≤ (progOf s c run).x.desc.outLen)
    (full : 32 ≤ s.queueFill c.cc) :
    let bs := [0x4B, 0x4C, 0x44, 0x43] ++ leBytes 8 Config.serial.toNat ++ leBytes 1 s.lcState ++ zeros 3 ++ drawn s c 32 ++ leBytes 4 s.ob.rwgen ++ leBytes 4 s.bt.fwVersion
    ∃ v : State, duringRun (ctxKey c) s v ∧ v.lc = { s.lc with nonce := drawn s c 32, nonceDue := s.quartz + s.challengeNs } ∧ exec (.debugChallenge c run) s =
      .next ((((v.output (ctxKey c) 0 bs).countProgram (ctxKey c) none).endCommand (ctxKey c) 0 0
        (if (progOf s c run).x.desc.outInline then min 16 bs.length else 0) run.wrOk).settleSeeds c.cc) := by
  intro bs
  obtain ⟨u, hu⟩ : ∃ u, u = s.setQueue c.cc ((s.queue c.cc).drop 32) := ⟨_, rfl⟩
  obtain ⟨v, hv⟩ : ∃ v, v = ({ u with lc.nonce := drawn s c 32, lc.nonceDue := u.quartz + u.challengeNs } : State) := ⟨_, rfl⟩
  have poised : Poised (ctxKey c) s := .of_ready ready (by decide)
  have poisedThen : Poised (ctxKey c) v := by rw [hv, hu]; exact poised.update rfl rfl rfl rfl
  have program : exec (.debugChallenge c run) s = execDebugChallenge c run s := rfl
  unfold execDebugChallenge at program
  have draws : Runs ((progOf s c run).random 32) s (drawn s c 32) u := by
    have fill : 32 ≤ s.queueFill (progOf s c run).cluster := by rw [progOf_cluster]; exact full
    have := Runs.random fill
    rw [progOf_cluster] at this
    rw [hu]
    exact this
  have same : [0x4B, 0x4C, 0x44, 0x43] ++ leBytes 8 Config.serial.toNat ++ leBytes 1 v.lcState ++ zeros 3 ++ drawn s c 32 ++ leBytes 4 u.ob.rwgen ++
      leBytes 4 u.bt.fwVersion = bs := by rw [hv, hu]; rfl
  refine ⟨v, by rw [hv, hu]; exact duringRun_of rfl rfl rfl rfl rfl rfl, by rw [hv, hu]; rfl, program.trans (State.program_answers
    (d := { status := 0, len := if (progOf s c run).x.desc.outInline then min 16 bs.length else 0 }) ready ?_ (poisedThen.output 0 bs))⟩
  refine .bind (.fielded state) (.bind (.need (decide_eq_true room) _) (.bind draws (.bind (.act _) (.bind .get ?_))))
  dsimp only
  rw [← hv, same]
  exact .reply _ _ _

section
variable (ready : programReady s c 0x18 run) (state : s.lcState = 4 ∨ s.lcState = 5) (long : (progOf s c run).inLen = 5502) (asked : s.lc.nonce ≠ [])
include ready state long asked

theorem debugResponse_opens
    (names : ((progOf s c run).input 0 48).take 44 = [0x4B, 0x4C, 0x44, 0x52] ++ leBytes 8 Config.serial.toNat ++ s.lc.nonce)
    (ecKey : sha3_256 ((progOf s c run).input 48 97) = Config.serviceDigest 0) (pqKey : sha3_256 ((progOf s c run).input 145 1952) = Config.serviceDigest 1)
    (ecSigned : approvalVerifies 1 ((progOf s c run).input 48 97) ((progOf s c run).input 2097 96) ((progOf s c run).input 0 48) = true)
    (pqSigned : approvalVerifies 2 ((progOf s c run).input 145 1952) ((progOf s c run).input 2193 3309) ((progOf s c run).input 0 48) = true)
    (some_ : (progOf s c run).num 44 2 ≠ 0) (small : (progOf s c run).num 44 2 < 4) (zero : (progOf s c run).zero 46 2 = true) (still : s.lc.target = none) :
    exec (.debugResponse c run) s = .next (State.raiseInput
      { (({ s with lc.nonce := [] } : State).countProgram (ctxKey c) none).endCommand (ctxKey c) 0x84 0 0 run.wrOk with lc.opening := some ((progOf s c run).num 44 2) } 18) := by
  have poised : Poised (ctxKey c) s := .of_ready ready (by decide)
  obtain ⟨v, hv⟩ : ∃ v, v = ({ s with lc.nonce := [] } : State) := ⟨_, rfl⟩
  have poisedThen : Poised (ctxKey c) v := by rw [hv]; exact poised.update rfl rfl rfl rfl
  have program : exec (.debugResponse c run) s = execDebugResponse c run s := rfl
  unfold execDebugResponse at program
  rw [← hv]
  obtain ⟨grant, hg⟩ : ∃ g, g = (progOf s c run).num 44 2 := ⟨_, rfl⟩
  rw [← hg] at some_ small ⊢
  refine program.trans (State.programThen_follows (d := { status := 0x84 })
    (f := fun s => { s with lc.opening := some grant }.raiseInput 18) ready ?_ poisedThen)
  refine .bind (.fielded state) (.bind (.need (beq_iff_eq.2 long) _) (.bind .get ?_))
  dsimp only
  refine .bind (.debugCheck (by simpa using asked) _) (.bind (.act _) ?_)
  rw [← hv]
  refine .bind (.debugCheck (decide_eq_true names) _) (.bind (.debugCheck (decide_eq_true ⟨ecKey, pqKey⟩) _) ?_)
  rw [ecSigned, pqSigned, if_neg (by simp)]
  rw [← hg]
  refine .bind (.debugCheck (by simp [some_, small, zero]) _) (.bind (.debugCheck (by rw [still]; rfl) _) .pure)

theorem debugResponse_refuses
    (other : ((progOf s c run).input 0 48).take 44 ≠ [0x4B, 0x4C, 0x44, 0x52] ++ leBytes 8 Config.serial.toNat ++ s.lc.nonce) :
    exec (.debugResponse c run) s = .next ((((({ s with lc.nonce := [] } : State).refuseDebug 0xC0A1).countProgram (ctxKey c) none).endCommand (ctxKey c)
      stFormatError 0xC0A1 0 run.wrOk).settleSeeds c.cc) := by
  have poised : Poised (ctxKey c) s := .of_ready ready (by decide)
  obtain ⟨v, hv⟩ : ∃ v, v = ({ s with lc.nonce := [] } : State) := ⟨_, rfl⟩
  have poisedThen : Poised (ctxKey c) v := by rw [hv]; exact poised.update rfl rfl rfl rfl
  have refused : Poised (ctxKey c) (v.refuseDebug 0xC0A1) := .raise (.set (.set poisedThen (by decide)) (by decide)) (by decide)
  have program : exec (.debugResponse c run) s = execDebugResponse c run s := rfl
  unfold execDebugResponse at program
  rw [← hv]
  refine program.trans (State.programThen_malformed ready ?_ refused)
  refine (Runs.fielded state).bindStops ((Runs.need (beq_iff_eq.2 long) _).bindStops (Runs.get.bindStops ?_))
  dsimp only
  refine (Runs.debugCheck (by simpa using asked) _).bindStops ((Runs.act _).bindStops ?_)
  rw [← hv]
  exact (Stops.debugCheck (decide_eq_false other) _).bind

end

/-! ## Sleep (R329) -/

theorem sleepProgram_begins {s3 : Bool} (ready : programReady s c 0x19 run) (only : (progOf s c run).paramOnly 3 = true)
    (names : (progOf s c run).param 0 2 = if s3 then 3 else 2) (served : ∀ p ∈ s.created, p.1 = 0 ∨ s.backlog p.1 = 0)
    (quiet : s.otherWork ((progOf s c run).x.cmd.bind fun d => if d.peer.isNone then some (qpKey d.part d.qp) else none) = false)
    (idle : s.pkHeld = false) (free : s.sleepBarred = false) (awake : s.ob.latch ≠ 1) :
    s.sleepProgram c run s3 = .next (((s.countProgram (ctxKey c) none).endCommand (ctxKey c) 0 0 0 run.wrOk).beginSleep s3) := by
  have poised : Poised (ctxKey c) s := .of_ready ready (by decide)
  have done : (s.created.any fun p => p.1 != 0 && s.backlog p.1 != 0) = false := by
    rw [List.any_eq_false]
    intro p hp
    rcases served p hp with h | h <;> simp [h]
  refine State.programThen_follows (d := {}) (f := fun s => s.beginSleep s3) ready ?_ poised
  have known : ((progOf s c run).param 0 2 == 2 || (progOf s c run).param 0 2 == 3) = true := by rw [names]; cases s3 <;> rfl
  have same : ¬(((progOf s c run).param 0 2 == 3) ≠ s3) := by rw [names]; cases s3 <;> decide
  refine .bind (.need (by rw [only, known]; rfl) _) ?_
  rw [if_neg same]
  refine .bind .get (.bind (.need ?_ _) (.bind (.need (by rw [free]; rfl) _) (.bind (.need (by simpa using awake) _) .pure)))
  rw [done, quiet, idle]
  rfl

/-! ## Epoch schedules (R371, R372) -/

section
variable (ready : programReady s c 0x1B run) (only : (progOf s c run).paramOnly 0x800003FF = true)
include ready only

theorem scheduleEpoch_schedules (names : (progOf s c run).param 31 1 = 0) (none_ : (s.part ((progOf s c run).param 0 10)).epPending = none)
    (ahead : s.domainTime + 1000000000 ≤ leNat ((progOf s c run).x.desc.paramExt.take 8)) (brief : leNat (slice 8 4 (progOf s c run).x.desc.paramExt) ≤ 60000)
    (past : (s.part ((progOf s c run).param 0 10)).epTs + (s.part ((progOf s c run).param 0 10)).epTov ≤ leNat ((progOf s c run).x.desc.paramExt.take 8)) :
    let p := (progOf s c run).param 0 10
    let x := s.part p
    let ts := leNat ((progOf s c run).x.desc.paramExt.take 8)
    let tov := leNat (slice 8 4 (progOf s c run).x.desc.paramExt)
    ∃ v : State, v.part p = { x with epSeq := (x.epSeq + 1) % 2 ^ 32, epCancelled := false, epPending := some (ts, 1000000 * tov) } ∧ (∀ j, j ≠ p → v.part j = s.part j) ∧
      (∀ l ∈ s.treeLinks, .schedule l p ((x.epSeq + 1) % 2 ^ 32) ((x.epoch + 1) % 2 ^ 32) ts (1000000 * tov) ∈ v.out) ∧ (∀ j, v.ctx j = s.ctx j) ∧
      exec (.scheduleEpoch c run) s = .next (((v.countProgram (ctxKey c) none).endCommand (ctxKey c) 0 0 0 run.wrOk).settleSeeds c.cc) := by
  intro p x ts tov
  have poised : Poised (ctxKey c) s := .of_ready ready (by decide)
  obtain ⟨u, hu⟩ : ∃ u, u = s.updPart p fun x => { x with epSeq := ((s.part p).epSeq + 1) % 2 ^ 32, epCancelled := false, epPending := some (ts, 1000000 * tov) } := ⟨_, rfl⟩
  obtain ⟨v, hv⟩ : ∃ v, v = u.tellTree fun k => .schedule k p ((x.epSeq + 1) % 2 ^ 32) ((x.epoch + 1) % 2 ^ 32) ts (1000000 * tov) := ⟨_, rfl⟩
  have poisedThen : Poised (ctxKey c) v := by rw [hv]; refine .tellTree ?_; rw [hu]; exact poised.update rfl rfl rfl rfl
  obtain ⟨-, told, -, rest⟩ := u.tellTree_spec fun k => .schedule k p ((x.epSeq + 1) % 2 ^ 32) ((x.epoch + 1) % 2 ^ 32) ts (1000000 * tov)
  rw [← hv] at told rest
  have links : u.treeLinks = s.treeLinks := by rw [hu]; rfl
  have program : exec (.scheduleEpoch c run) s = execScheduleEpoch c run s := rfl
  unfold execScheduleEpoch State.epochProgram at program
  refine ⟨v, ?_, fun j hj => ?_, links ▸ told, fun j => ?_, program.trans (State.program_answers (d := {}) ready ?_ poisedThen)⟩
  · rw [hv, State.tellTree_part, hu, State.part_updPart_same]
  · rw [hv, State.tellTree_part, hu, State.part_updPart_ne _ _ _ _ (Ne.symm hj)]
  · rw [rest, hu]; rfl
  · refine .bind (.need only _) ?_
    rw [names, if_neg (by decide)]
    refine .bind (.act _) ?_
    rw [State.openEpoch_none none_]
    refine .bind .get ?_
    dsimp only
    refine .bind (.need (by rw [none_, decide_eq_true ahead]; rfl) _) (.bind (.need (by rw [decide_eq_true brief, decide_eq_true past]; rfl) _) ?_)
    rw [hv, hu]
    exact .bind (.act _) .pure

variable {late : Bool} {ts tov : Nat}

theorem cancelEpoch_cancels (names : (progOf s c run).param 31 1 = 1) (pending : (s.part ((progOf s c run).param 0 10)).epPending = some (ts, tov))
    (ahead : s.domainTime + 500000000 ≤ ts) :
    let p := (progOf s c run).param 0 10
    let x := s.part p
    ∃ v : State, v.part p = { x with epSeq := (x.epSeq + 1) % 2 ^ 32, epCancelled := true, epPending := none } ∧ (∀ j, j ≠ p → v.part j = s.part j) ∧
      (∀ l ∈ s.treeLinks, .cancel l p ((x.epSeq + 1) % 2 ^ 32) ∈ v.out) ∧ (∀ j, v.ctx j = s.ctx j) ∧
      exec (.cancelEpoch c run late) s =
        .next (((v.countProgram (ctxKey c) none).endCommand (ctxKey c) (if late then 0x86 else 0) 0 0 run.wrOk).settleSeeds c.cc) := by
  intro p x
  have poised : Poised (ctxKey c) s := .of_ready ready (by decide)
  obtain ⟨u, hu⟩ : ∃ u, u = s.updPart p fun x => { x with epSeq := ((s.part p).epSeq + 1) % 2 ^ 32, epCancelled := true, epPending := none } := ⟨_, rfl⟩
  obtain ⟨v, hv⟩ : ∃ v, v = u.tellTree fun k => .cancel k p ((x.epSeq + 1) % 2 ^ 32) := ⟨_, rfl⟩
  have poisedThen : Poised (ctxKey c) v := by rw [hv]; refine .tellTree ?_; rw [hu]; exact poised.update rfl rfl rfl rfl
  obtain ⟨-, told, -, rest⟩ := u.tellTree_spec fun k => .cancel k p ((x.epSeq + 1) % 2 ^ 32)
  rw [← hv] at told rest
  have links : u.treeLinks = s.treeLinks := by rw [hu]; rfl
  have program : exec (.cancelEpoch c run late) s = execCancelEpoch c run late s := rfl
  unfold execCancelEpoch State.epochProgram at program
  refine ⟨v, ?_, fun j hj => ?_, links ▸ told, fun j => ?_, program.trans (State.program_answers (d := { status := if late then 0x86 else stOK }) ready ?_ poisedThen)⟩
  · rw [hv, State.tellTree_part, hu, State.part_updPart_same]
  · rw [hv, State.tellTree_part, hu, State.part_updPart_ne _ _ _ _ (Ne.symm hj)]
  · rw [rest, hu]; rfl
  · refine .bind (.need only _) ?_
    rw [names, if_neg (by decide)]
    refine .bind (.act _) ?_
    rw [State.openEpoch_early pending (by omega)]
    refine .bind .get ?_
    dsimp only
    rw [pending]
    refine .bind (.need (decide_eq_true ahead) _) ?_
    rw [hv, hu]
    exact .bind (.act _) .pure

theorem cancelEpoch_late (names : (progOf s c run).param 31 1 = 1) (pending : (s.part ((progOf s c run).param 0 10)).epPending = some (ts, tov))
    (before : s.domainTime < ts) (near : ts < s.domainTime + 500000000) : exec (.cancelEpoch c run late) s =
      .next (((s.countProgram (ctxKey c) none).endCommand (ctxKey c) stFormatError 0xC0C6 0 run.wrOk).settleSeeds c.cc) := by
  have poised : Poised (ctxKey c) s := .of_ready ready (by decide)
  have program : exec (.cancelEpoch c run late) s = execCancelEpoch c run late s := rfl
  unfold execCancelEpoch State.epochProgram at program
  refine program.trans (State.program_malformed ready ?_ poised)
  refine (Runs.need only _).bindStops ?_
  rw [names, if_neg (by decide)]
  refine (Runs.act _).bindStops ?_
  rw [State.openEpoch_early pending before]
  refine Runs.get.bindStops ?_
  dsimp only
  rw [pending]
  exact (Stops.need (decide_eq_false (by omega)) _).bind

end

end Sys2Proof.Machine
end

section
/-! SUPPORT. Firmware restored in chunks, and the journal's records, as programs (R396, R426, R427). -/
namespace Sys2Proof.Machine

variable {s t u : State} {c : Ctx} {run : ProgramRun}

/-! ## A chunk of a firmware image (R396) -/

theorem Runs.goes {α β : Type} {m : Run α} {f : α → Run β} {a : α} (h : Runs m s a t) : ExceptT.run (m >>= f) s = ExceptT.run (f a) t := by
  show (match ExceptT.run m s with | (x, v) => ExceptT.bindCont f x v) = _
  rw [show ExceptT.run m s = _ from h]
  rfl

/-- A check that only some commands meet, where it holds. -/
theorem Runs.onlyIf {β : Type} {p : Prop} [Decidable p] {m : Run Unit} {f : Unit → Run β} (h : p → Runs m s () s) :
    ExceptT.run (if p then m >>= f else f ()) s = ExceptT.run (f ()) s := by
  split
  · next hp => exact (h hp).goes
  · rfl

/-- The chunk is in slot B's transfer, which it begins at 0 and otherwise carries on. -/
def State.chunkTaken (s : State) (e : Prog) : State :=
  let u : State := if 4096 * e.param 0 13 = 0 then { s with bt := { s.bt with transfer := some 0, chunks := [], slotB := none } } else s
  { u with bt := { u.bt with transfer := some (4096 * e.param 0 13 + e.inLen), chunks := u.bt.chunks ++ e.allInput } }

theorem State.chunkTaken_bt (s : State) (e : Prog) : s.chunkTaken e = { s with bt := (s.chunkTaken e).bt } ∧
    (s.chunkTaken e).bt.transfer = some (4096 * e.param 0 13 + e.inLen) ∧
    (s.chunkTaken e).bt.chunks = (if 4096 * e.param 0 13 = 0 then [] else s.bt.chunks) ++ e.input 0 e.inLen ∧ (s.chunkTaken e).bt.slotA = s.bt.slotA := by
  unfold State.chunkTaken
  split <;> exact ⟨rfl, rfl, rfl, rfl⟩

/-- What follows a chunk that its transfer takes: the final one completes the image. -/
def Prog.restoreTail (e : Prog) (t4 : Bool) (keys : Nat) : Run Next := do
  if !(e.param 31 1 == 1) then return .ends {}
  let image := (← get).bt.chunks
  act fun s => { s with bt := { s.bt with transfer := none, chunks := [], slotB := Config.firmware image } }
  if (Config.firmware image).isNone then stop stAuthFail 0
  if t4 then
    act fun s => s.reInitialise
    let d ← e.reply (devicePublics (keys + 1))
    pure (.follows d fun s => s.resetModule 5)
  else
    act fun s => { s with bt := { s.bt with slotA := s.bt.slotB } }
    pure (.follows {} fun s => s.resetModule 5)

/-- A chunk's program may run: the module is one to restore, and the chunk has its place and length. -/
structure ChunkFits (s : State) (e : Prog) : Prop where
  restores : s.ob.latch = 4 ∨ s.get R.RST_BOOT_ERR = 1
  only : e.paramOnly 0x80001FFF = true
  least : 4096 ≤ e.inLen
  most : e.inLen ≤ 2 ^ 23
  inside : 4096 * e.param 0 13 + e.inLen ≤ 2 ^ 25
  whole : e.param 31 1 = 1 ∨ e.inLen % 4096 = 0
  room : e.param 31 1 = 1 → s.ob.latch = 4 → 2049 ≤ e.x.desc.outLen

/-- A chunk in its place comes to its tail; one in no place breaks the transfer. -/
theorem restoreFirmwareChunk_runs (fits : ChunkFits s (progOf s c run)) : ∃ body : Prog → Run Next,
    exec (.restoreFirmwareChunk c run) s = s.programThen c 0x1D run body ∧
    ((4096 * (progOf s c run).param 0 13 = 0 ∨ s.bt.transfer = some (4096 * (progOf s c run).param 0 13)) → ∀ r,
      ExceptT.run ((progOf s c run).restoreTail (s.ob.latch == 4) s.lc.devKeys) (s.chunkTaken (progOf s c run)) = r → ExceptT.run (body (progOf s c run)) s = r) ∧
    (4096 * (progOf s c run).param 0 13 ≠ 0 → s.bt.transfer ≠ some (4096 * (progOf s c run).param 0 13) →
      Stops (body (progOf s c run)) s (.done stFormatError 0xC0D3) { s with bt := { s.bt with transfer := none, chunks := [] } }) := by
  obtain ⟨restores, only, least, most, inside, whole, room⟩ := fits
  have may : ¬((!(s.ob.latch == 4)) = true ∧ s.get R.RST_BOOT_ERR ≠ 1) := by
    rintro ⟨latch, err⟩
    rcases restores with h | h
    · rw [h] at latch; cases latch
    · exact err h
  have sized : (decide (4096 ≤ (progOf s c run).inLen ∧ (progOf s c run).inLen ≤ 2 ^ 23 ∧ 4096 * (progOf s c run).param 0 13 + (progOf s c run).inLen ≤ 2 ^ 25) &&
      ((progOf s c run).param 31 1 == 1 || (progOf s c run).inLen % 4096 == 0)) = true := by
    rw [Bool.and_eq_true, Bool.or_eq_true, beq_iff_eq, beq_iff_eq]
    exact ⟨decide_eq_true ⟨least, most, inside⟩, whole⟩
  have roomy : ((progOf s c run).param 31 1 == 1 && s.ob.latch == 4) = true → Runs ((progOf s c run).room 2049) s () s := fun both => by
    rw [Bool.and_eq_true, beq_iff_eq, beq_iff_eq] at both
    exact .need (decide_eq_true (room both.1 both.2)) _
  have program : exec (.restoreFirmwareChunk c run) s = execRestoreFirmwareChunk c run s := rfl
  unfold execRestoreFirmwareChunk at program
  refine ⟨_, program, fun carries r tail => ?_, fun later other => ?_⟩
  · rw [← tail]
    refine Runs.get.goes.trans ?_
    dsimp only
    rw [if_neg may]
    refine (Runs.need only _).goes.trans ?_
    refine (Runs.need sized _).goes.trans ?_
    refine (Runs.onlyIf roomy).trans ?_
    by_cases first : 4096 * (progOf s c run).param 0 13 = 0
    · rw [if_pos first]
      refine (Runs.act _).goes.trans ((Runs.act _).goes.trans ?_)
      unfold State.chunkTaken
      rw [if_pos first]
      rfl
    · rw [if_neg first, if_neg (not_not.2 (carries.resolve_left first))]
      refine (Runs.act _).goes.trans ?_
      unfold State.chunkTaken
      rw [if_neg first]
      rfl
  · refine Runs.get.goes.trans ?_
    dsimp only
    rw [if_neg may]
    refine (Runs.need only _).goes.trans ((Runs.need sized _).goes.trans ((Runs.onlyIf roomy).trans ?_))
    rw [if_neg later, if_pos other]
    exact Stops.bind ((Runs.act _).bindStops (.malformed _))

/-- What the re-initialisation of a T4 module leaves. -/
theorem State.reInitialise_spec (s : State) : s.reInitialise.bt.slotA = s.bt.slotB ∧ s.reInitialise.ob.latch = 0 ∧ s.reInitialise.ob.mmk = some (s.draw 32).1 ∧
    s.reInitialise.ob.rwgen = (s.ob.rwgen + 1) % 2 ^ 32 ∧ s.reInitialise.gt.flash = {} ∧ s.reInitialise.lc.devKeys = s.lc.devKeys + 1 ∧
    s.reInitialise.sq = s.sq ∧ s.reInitialise.ge = s.ge ∧ s.reInitialise.quartz = s.quartz ∧ s.reInitialise.regs = s.regs := by
  unfold State.reInitialise
  dsimp only
  have drew : (s.draw 32).2 = { s with randoms := s.randoms + 32 } := rfl
  rw [drew]
  generalize (s.draw 32).1 = r
  exact ⟨rfl, rfl, rfl, rfl, rfl, rfl, rfl, rfl, rfl, rfl⟩

section
variable (ready : programReady s c 0x1D run) (fits : ChunkFits s (progOf s c run))
include ready fits

theorem restoreFirmwareChunk_breaks (later : 4096 * (progOf s c run).param 0 13 ≠ 0) (other : s.bt.transfer ≠ some (4096 * (progOf s c run).param 0 13)) :
    ∃ v : State, v.bt.transfer = none ∧ v.bt.chunks = [] ∧ v = { s with bt := v.bt } ∧
      exec (.restoreFirmwareChunk c run) s = .next (((v.countProgram (ctxKey c) none).endCommand (ctxKey c) stFormatError 0xC0D3 0 run.wrOk).settleSeeds c.cc) := by
  have poised : Poised (ctxKey c) s := .of_ready ready (by decide)
  obtain ⟨body, program, -, breaks⟩ := restoreFirmwareChunk_runs fits
  obtain ⟨v, hv⟩ : ∃ v, v = ({ s with bt := { s.bt with transfer := none, chunks := [] } } : State) := ⟨_, rfl⟩
  have stops := breaks later other
  rw [← hv] at stops
  have poisedThen : Poised (ctxKey c) v := by rw [hv]; exact poised.update rfl rfl rfl rfl
  exact ⟨v, by rw [hv], by rw [hv], by rw [hv], program.trans (State.programThen_malformed ready stops poisedThen)⟩

variable (carries : 4096 * (progOf s c run).param 0 13 = 0 ∨ s.bt.transfer = some (4096 * (progOf s c run).param 0 13))
include carries

theorem restoreFirmwareChunk_keeps (more : ¬(progOf s c run).param 31 1 = 1) :
    ∃ v : State, v.bt.transfer = some (4096 * (progOf s c run).param 0 13 + (progOf s c run).inLen) ∧
      v.bt.chunks = (if 4096 * (progOf s c run).param 0 13 = 0 then [] else s.bt.chunks) ++ (progOf s c run).input 0 (progOf s c run).inLen ∧
      v.bt.slotA = s.bt.slotA ∧ v = { s with bt := v.bt } ∧
      exec (.restoreFirmwareChunk c run) s = .next (((v.countProgram (ctxKey c) none).endCommand (ctxKey c) 0 0 0 run.wrOk).settleSeeds c.cc) := by
  have poised : Poised (ctxKey c) s := .of_ready ready (by decide)
  obtain ⟨body, program, goes, -⟩ := restoreFirmwareChunk_runs fits
  obtain ⟨bt, transfer, chunks, slotA⟩ := s.chunkTaken_bt (progOf s c run)
  obtain ⟨v, hv⟩ : ∃ v, v = s.chunkTaken (progOf s c run) := ⟨_, rfl⟩
  have goes := goes carries
  rw [← hv] at bt transfer chunks slotA goes
  have poisedThen : Poised (ctxKey c) v := by rw [bt]; exact poised.update rfl rfl rfl rfl
  have tail : Runs ((progOf s c run).restoreTail (s.ob.latch == 4) s.lc.devKeys) v (.ends {}) v := by
    unfold Prog.restoreTail
    rw [if_pos (by simpa using more)]
    exact .pure
  exact ⟨v, transfer, chunks, slotA, bt, program.trans (State.programThen_answers (d := {}) ready (goes _ tail) poisedThen)⟩

variable (last : (progOf s c run).param 31 1 = 1)
include last

theorem restoreFirmwareChunk_rejects
    (bad : Config.firmware ((if 4096 * (progOf s c run).param 0 13 = 0 then [] else s.bt.chunks) ++ (progOf s c run).input 0 (progOf s c run).inLen) = none) :
    ∃ v : State, v.bt.transfer = none ∧ v.bt.slotA = s.bt.slotA ∧ v = { s with bt := v.bt } ∧
      exec (.restoreFirmwareChunk c run) s = .next (((v.countProgram (ctxKey c) none).endCommand (ctxKey c) stAuthFail 0 0 run.wrOk).settleSeeds c.cc) := by
  have poised : Poised (ctxKey c) s := .of_ready ready (by decide)
  obtain ⟨body, program, goes, -⟩ := restoreFirmwareChunk_runs fits
  obtain ⟨bt, -, chunks, slotA⟩ := s.chunkTaken_bt (progOf s c run)
  obtain ⟨u, hu⟩ : ∃ u, u = s.chunkTaken (progOf s c run) := ⟨_, rfl⟩
  have goes := goes carries
  rw [← hu] at bt chunks slotA goes
  rw [← chunks] at bad
  obtain ⟨v, hv⟩ : ∃ v, v = ({ u with bt := { u.bt with transfer := none, chunks := [], slotB := Config.firmware u.bt.chunks } } : State) := ⟨_, rfl⟩
  have poisedThen : Poised (ctxKey c) v := by rw [hv]; exact poised.update (by rw [bt]) (by rw [bt]) (by rw [bt]) (by rw [bt])
  have tail : Stops ((progOf s c run).restoreTail (s.ob.latch == 4) s.lc.devKeys) u (.fail stAuthFail 0) v := by
    unfold Prog.restoreTail
    rw [if_neg (by simp [last])]
    refine Runs.get.bindStops ((Runs.act _).bindStops ?_)
    rw [← hv, if_pos (by rw [bad]; rfl)]
    exact (Stops.stop _ _).bind
  exact ⟨v, by rw [hv], by rw [hv]; exact slotA, by rw [hv, bt], program.trans (State.programThen_fails ready (goes _ tail) poisedThen)⟩

variable (authentic : (Config.firmware ((if 4096 * (progOf s c run).param 0 13 = 0 then [] else s.bt.chunks) ++
  (progOf s c run).input 0 (progOf s c run).inLen)).isSome = true)
include authentic

theorem restoreFirmwareChunk_restores (plain : s.ob.latch ≠ 4) :
    ∃ v : State, v.bt.transfer = none ∧
      v.bt.slotA = Config.firmware ((if 4096 * (progOf s c run).param 0 13 = 0 then [] else s.bt.chunks) ++ (progOf s c run).input 0 (progOf s c run).inLen) ∧
      v = { s with bt := v.bt } ∧
      exec (.restoreFirmwareChunk c run) s = .next (((v.countProgram (ctxKey c) none).endCommand (ctxKey c) 0 0 0 run.wrOk).resetModule 5) := by
  have poised : Poised (ctxKey c) s := .of_ready ready (by decide)
  obtain ⟨body, program, goes, -⟩ := restoreFirmwareChunk_runs fits
  obtain ⟨bt, -, chunks, -⟩ := s.chunkTaken_bt (progOf s c run)
  obtain ⟨u, hu⟩ : ∃ u, u = s.chunkTaken (progOf s c run) := ⟨_, rfl⟩
  have goes := goes carries
  rw [← hu] at bt chunks goes
  rw [← chunks] at authentic ⊢
  obtain ⟨v, hv⟩ : ∃ v, v = ({ u with bt := { u.bt with transfer := none, chunks := [], slotB := Config.firmware u.bt.chunks, slotA := Config.firmware u.bt.chunks } } : State) :=
    ⟨_, rfl⟩
  have poisedThen : Poised (ctxKey c) v := by rw [hv]; exact poised.update (by rw [bt]) (by rw [bt]) (by rw [bt]) (by rw [bt])
  have tail : Runs ((progOf s c run).restoreTail (s.ob.latch == 4) s.lc.devKeys) u (.follows {} fun s => s.resetModule 5) v := by
    unfold Prog.restoreTail
    rw [if_neg (by simp [last])]
    refine Runs.get.bind ((Runs.act _).bind ?_)
    rw [if_neg (by rw [Option.isNone_iff_eq_none]; intro none_; rw [none_] at authentic; cases authentic), if_neg (by simpa using plain), hv]
    exact (Runs.act _).bind .pure
  exact ⟨v, by rw [hv], by rw [hv], by rw [hv, bt], program.trans (State.programThen_follows (d := {}) (f := fun s => s.resetModule 5) ready (goes _ tail) poisedThen)⟩

theorem restoreFirmwareChunk_reInitialises {bs : List Byte} (keys : devicePublics (s.lc.devKeys + 1) = bs) (latched : s.ob.latch = 4) :
    ∃ v : State, v.bt.slotA = Config.firmware ((if 4096 * (progOf s c run).param 0 13 = 0 then [] else s.bt.chunks) ++
        (progOf s c run).input 0 (progOf s c run).inLen) ∧ v.ob.latch = 0 ∧
      v.ob.mmk = some (s.draw 32).1 ∧ v.ob.rwgen = (s.ob.rwgen + 1) % 2 ^ 32 ∧ v.gt.flash = {} ∧ v.lc.devKeys = s.lc.devKeys + 1 ∧
      exec (.restoreFirmwareChunk c run) s = .next ((((v.output (ctxKey c) 0 bs).countProgram (ctxKey c) none).endCommand (ctxKey c) 0 0
        (if (progOf s c run).x.desc.outInline then min 16 bs.length else 0) run.wrOk).resetModule 5) := by
  have poised : Poised (ctxKey c) s := .of_ready ready (by decide)
  obtain ⟨body, program, goes, -⟩ := restoreFirmwareChunk_runs fits
  obtain ⟨bt, -, chunks, -⟩ := s.chunkTaken_bt (progOf s c run)
  obtain ⟨u, hu⟩ : ∃ u, u = s.chunkTaken (progOf s c run) := ⟨_, rfl⟩
  have goes := goes carries
  rw [← hu] at bt chunks goes
  rw [← chunks] at authentic ⊢
  obtain ⟨w, hw⟩ : ∃ w, w = ({ u with bt := { u.bt with transfer := none, chunks := [], slotB := Config.firmware u.bt.chunks } } : State) := ⟨_, rfl⟩
  have only : w = { s with bt := w.bt } := by rw [hw, bt]
  obtain ⟨slotA, latch, mmk, rwgen, flash, devKeys, sq, ge, quartz, regs⟩ := w.reInitialise_spec
  have poisedThen : Poised (ctxKey c) w.reInitialise := poised.update (sq.trans (by rw [only])) (by rw [ge, only]) (quartz.trans (by rw [only])) (regs.trans (by rw [only]))
  have tail : Runs ((progOf s c run).restoreTail (s.ob.latch == 4) s.lc.devKeys) u
      (.follows { status := 0, len := if (progOf s c run).x.desc.outInline then min 16 bs.length else 0 } fun s => s.resetModule 5)
      (w.reInitialise.output (ctxKey c) 0 bs) := by
    unfold Prog.restoreTail
    rw [if_neg (by simp [last])]
    refine Runs.get.bind ((Runs.act _).bind ?_)
    rw [if_neg (by rw [Option.isNone_iff_eq_none]; intro none_; rw [none_] at authentic; cases authentic), if_pos (by rw [latched]; rfl), ← hw, keys]
    exact (Runs.act _).bind ((Runs.reply _ _ _).bind .pure)
  refine ⟨w.reInitialise, slotA.trans (by rw [hw]), latch, mmk.trans (by rw [only]; rfl), rwgen.trans (by rw [only]), flash, devKeys.trans (by rw [only]), ?_⟩
  exact program.trans (State.programThen_follows (d := { status := 0, len := if (progOf s c run).x.desc.outInline then min 16 bs.length else 0 })
    (f := fun s => s.resetModule 5) ready (goes _ tail) (poisedThen.output 0 bs))

end

/-! ## The journal (R425-R427) -/

section
variable {block mmk : List Byte} (ready : programReady s c 0x1F run) (only : (progOf s c run).paramOnly 1 = true) (medium : s.get R.SD_PRESENT = 1)
  (served : s.journalReady = true) (root : s.ob.mmk = some mmk)
include ready only medium served root

theorem journalAppend_waits (names : (progOf s c run).param 0 2 = 0) (short : (progOf s c run).inLen ≤ 216) :
    ∃ t, exec (.journalAppend c run) s = .next t ∧
      t.ctx (ctxKey c) = { s.ctx (ctxKey c) with wait := .journal, since := s.quartz, retired := (t.ctx (ctxKey c)).retired } ∧ (∀ j, j ≠ ctxKey c → t.ctx j = s.ctx j) ∧
      t.jr.queue = s.jr.queue ++ [{ owner := some (ctxKey c), type := 3, payload := (progOf s c run).input 0 (progOf s c run).inLen }] ∧
      (s.jr.queue = [] → s.jr.record = [] →
        t.jr.record = s.journalBlock (journalRecord mmk (s.journalCount + 1) 3 ((progOf s c run).input 0 (progOf s c run).inLen)) ∧
        t.out = s.out ++ [.journalWrite (s.journalPlace (s.journalCount + 1)) t.jr.record]) := by
  have poised : Poised (ctxKey c) s := .of_ready ready (by decide)
  generalize bytes : (progOf s c run).input 0 (progOf s c run).inLen = bs
  obtain ⟨u, hu⟩ : ∃ u, u = ({ s with jr.queue := s.jr.queue ++ [{ owner := some (ctxKey c), type := 3, payload := bs }] } : State) := ⟨_, rfl⟩
  obtain ⟨v, hv⟩ : ∃ v, v = u.startAppend := ⟨_, rfl⟩
  have only_ : v = { u with jr := v.jr, out := v.out } := by
    rw [hv]; unfold State.startAppend
    split
    · dsimp only; split <;> rfl
    · rfl
  have poisedThen : Poised (ctxKey c) v := by rw [only_, hu]; exact poised.update rfl rfl rfl rfl
  have program : exec (.journalAppend c run) s = execJournalAppend c run s := rfl
  unfold execJournalAppend State.journalProgram at program
  obtain ⟨own, others⟩ := v.waiting_ctx (ctxKey c) .journal
  refine ⟨_, program.trans (State.programThen_waits (w := .journal) (t := v) ready ?_ poisedThen), ?_, fun j hj => ?_, ?_, fun none_ idle => ?_⟩
  · refine .bind (.need only _) ?_
    rw [names, if_neg (by decide)]
    refine .bind .get (.bind (.need (by rw [medium, served]; rfl) _) (.bind (.need (decide_eq_true short) _) ?_))
    rw [hv, hu, ← bytes]
    exact .bind (.act _) .pure
  · rw [own, only_, hu]; rfl
  · rw [others j hj, only_, hu]; rfl
  · show v.jr.queue = _
    rw [hv, u.startAppend_spec.2.2.1, hu]
  · have head : u.jr.queue = [{ owner := some (ctxKey c), type := 3, payload := bs }] := by rw [hu]; show s.jr.queue ++ _ = _; rw [none_]; rfl
    have key : u.ob.mmk = some mmk := by rw [hu]; exact root
    have still : u.jr.record = [] := by rw [hu]; exact idle
    have starts : v = { u.emit (.journalWrite (u.journalPlace (u.journalCount + 1)) (u.journalBlock (journalRecord mmk (u.journalCount + 1) 3 bs))) with
        jr.record := u.journalBlock (journalRecord mmk (u.journalCount + 1) 3 bs), jr.since := u.quartz } := by
      rw [hv]; unfold State.startAppend
      rw [head, key, still]
      rfl
    show v.jr.record = _ ∧ v.out = s.out ++ [.journalWrite _ v.jr.record]
    rw [starts, hu]
    exact ⟨rfl, rfl⟩

theorem journalRead_answers (names : (progOf s c run).param 0 2 = 1) (long : 8 ≤ (progOf s c run).inLen) (room : 256 ≤ (progOf s c run).x.desc.outLen)
    (kept : s.journalCount < (progOf s c run).num 0 8 + s.journalBlocks) (written : (progOf s c run).num 0 8 ≤ s.journalCount)
    (asked : numAt block 12 8 = (progOf s c run).num 0 8) (valid : validRecord mmk (block.take 256) = true) :
    answers (.journalRead c run block) s c run (block.take 256) := by
  have poised : Poised (ctxKey c) s := .of_ready ready (by decide)
  have program : exec (.journalRead c run block) s = execJournalRead c run block s := rfl
  unfold execJournalRead State.journalProgram at program
  refine ⟨s, none, duringRun_of rfl rfl rfl rfl rfl rfl, program.trans (State.programThen_answers
    (d := { status := 0, len := if (progOf s c run).x.desc.outInline then min 16 (block.take 256).length else 0 }) ready ?_ (poised.output 0 (block.take 256)))⟩
  refine .bind (.need only _) ?_
  rw [names, if_neg (by decide)]
  refine .bind .get (.bind (.need (by rw [medium, served]; rfl) _) (.bind (.need (decide_eq_true long) _) (.bind (.need (decide_eq_true room) _) (.bind .get ?_))))
  dsimp only
  rw [root]
  dsimp only
  rw [valid]
  exact .bind (.need (by simpa using ⟨kept, written, asked⟩) _) (.bind (.reply _ _ _) .pure)

end

end Sys2Proof.Machine
end

section
/-! SUPPORT. What stands of a member of its key domain while links, deltas and commands go on (R360, R362, R365). -/
namespace Sys2Proof.Machine

variable {s t u : State}

/-! ## The domain's state as a command is answered -/

theorem State.raise_dm (s : State) (p i : Nat) : (s.raise p i).dm = s.dm := by rw [(s.raise_onlyFields p i).2.2]
theorem State.severity_dm (s : State) (n : Nat) : (s.severity n).dm = s.dm := by rw [(s.severity_spec n).2]
theorem State.sendOn_dm (s : State) (k : Nat) (o : Output) : (s.sendOn k o).dm = s.dm := by rw [s.sendOn_only]

theorem State.haltQp_dm (s : State) (p q e : Nat) : (s.haltQp p q e).dm = s.dm := by
  unfold State.haltQp
  dsimp only
  have told : ∀ v : State, (v.partEvent p 0).dm = v.dm := fun v => by rw [(v.partEvent_spec p 0).2.2]; rfl
  rw [told, State.severity_dm]
  split
  · exact State.raise_dm _ _ _
  · rfl

theorem State.coalesce_dm (s : State) (p q : Nat) : (s.coalesce p q).dm = s.dm := by
  unfold State.coalesce
  dsimp only
  split
  · split
    · rw [State.msixSend_only]; rfl
    · rfl
  · rfl

theorem State.sampleLatency_dm (s : State) (p ns : Nat) : (s.sampleLatency p ns).dm = s.dm := by
  have sampled : ∀ i bin v n, (s.sample 0 i bin v n).dm = s.dm := fun i bin v n => by
    unfold State.sample
    dsimp only
    split
    · rfl
    · split
      · exact State.raise_dm _ _ _
      · rfl
  unfold State.sampleLatency
  dsimp only
  split
  · rw [State.severity_dm]; exact sampled ..
  · exact sampled ..

theorem State.writeCompletion_dm (s : State) (ok : Option Bool) (c : Cmd) (e : Ending) : (s.writeCompletion ok c e).dm = s.dm := by
  have drawn : (s.writeOutcome ok).2.dm = s.dm := by cases ok <;> rfl
  have settled : ∀ v : State, (v.settleQp c.part c.qp).dm = v.dm := fun v => by rw [(v.settleQp_spec _ _).2]
  unfold State.writeCompletion
  dsimp only
  generalize (s.writeOutcome ok).2 = v at *
  have discarded : v.discardCompletion.dm = s.dm := by
    unfold State.discardCompletion
    rw [State.severity_dm, State.raise_dm]; exact drawn
  have sampled : ∀ {w : State} (p ns : Nat), w.dm = s.dm → (w.sampleLatency p ns).dm = s.dm := fun p ns hw => (State.sampleLatency_dm _ _ _).trans hw
  rw [settled]
  split
  · exact discarded
  · exact discarded
  · unfold State.failCompletion State.reportWrite State.reportAer
    dsimp only
    have reported : ∀ w : State, w.dm = s.dm → (if (w.qp c.part c.qp).qstate = .active then w.haltQp c.part c.qp 4 else w).dm = s.dm := fun w hw => by
      split
      · exact (w.haltQp_dm _ _ _).trans hw
      · exact hw
    refine reported _ ?_
    split <;> exact drawn
  · split
    · rw [State.coalesce_dm, State.updQp_dm]
      split
      · exact sampled _ _ drawn
      · exact drawn
    · rw [State.updQp_dm]
      split
      · exact sampled _ _ drawn
      · exact drawn

theorem State.answer_dm (s : State) (ok : Option Bool) (c : Cmd) (e : Ending) : (s.answer ok c e).dm = s.dm := by
  have told : (if e.status = stFaultDetected ∨ e.status = stRngFailed then s.severity 3 else s).dm = s.dm := by
    split
    · exact State.severity_dm _ _
    · rfl
  unfold State.answer
  split
  · exact State.sendOn_dm _ _ _
  · unfold State.complete
    dsimp only
    generalize (if e.status = stFaultDetected ∨ e.status = stRngFailed then s.severity 3 else s) = v at *
    have ended : ∀ w : State, (w.abortDone c e).dm = w.dm := fun w => by
      unfold State.abortDone State.settleAbort
      dsimp only
      split <;> split <;> rfl
    rw [ended]
    split
    · rw [State.writeCompletion_dm, told]
    · exact (State.writeCompletion_dm _ _ _ _).trans told

/-! ## What stands of a member -/

/-- ENROLLED, GM and DT_LOCKED, the budget, and the links' states. -/
def memberFields : List Field := [R.FVL0_ENROLLED, R.FVL0_GM, R.FVL0_DT_LOCKED, R.SEQ0_BUDGET] ++ (List.range 8).map R.FVL_STATE

/-- A field whose word, or whose place in its word, is another lies apart. -/
theorem memberFields_apart {f : Field} (own : f.key ≠ R.FVL0_ENROLLED.key ∧ f.key ≠ R.FVL0_GM.key ∧ f.key ≠ R.FVL0_DT_LOCKED.key ∧ f.key ≠ R.SEQ0_BUDGET.key)
    (links : ∀ k < 8, f.key ≠ (R.FVL_STATE k).key) : apart memberFields f := by
  obtain ⟨enrolled, gm, locked, budget⟩ := own
  intro g hg
  rcases List.mem_append.1 hg with own | link
  · simp only [List.mem_cons, List.not_mem_nil, or_false] at own
    rcases own with rfl | rfl | rfl | rfl <;> assumption
  · obtain ⟨k, hk, rfl⟩ := List.mem_map.1 link
    exact links k (List.mem_range.1 hk)

theorem memberFields_raw (p : Nat) : apart memberFields (R.BLK_INT_RAW p) :=
  memberFields_apart (by simp only [Field.key, R.BLK_INT_RAW, R.FVL0_ENROLLED, R.FVL0_GM, R.FVL0_DT_LOCKED, R.SEQ0_BUDGET]; omega)
    fun k _ => by simp only [Field.key, R.BLK_INT_RAW, R.FVL_STATE]; omega

theorem memberFields_flits (j : Nat) : apart memberFields (R.FVL_TX_FLITS j) :=
  memberFields_apart (by simp only [Field.key, R.FVL_TX_FLITS, R.FVL0_ENROLLED, R.FVL0_GM, R.FVL0_DT_LOCKED, R.SEQ0_BUDGET]; omega)
    fun k _ => by simp only [Field.key, R.FVL_TX_FLITS, R.FVL_STATE]; omega

theorem memberFields_answer : ∀ f ∈ answerFields, apart memberFields f := by decide

/-- A link's fields beside its STATE lie apart. -/
theorem memberFields_link {k : Nat} {f : Field} (h : f = R.FVL_WRAPPED k ∨ f = R.FVL_PEER_READY k ∨ f = R.FVL_DOWN_CAUSE k ∨ f = R.FVL_RETRAINS k) : apart memberFields f := by
  rcases h with rfl | rfl | rfl | rfl <;>
  exact memberFields_apart
    (by simp only [Field.key, R.FVL_WRAPPED, R.FVL_PEER_READY, R.FVL_DOWN_CAUSE, R.FVL_RETRAINS, R.FVL0_ENROLLED, R.FVL0_GM, R.FVL0_DT_LOCKED, R.SEQ0_BUDGET]; omega)
    fun j _ => by simp only [Field.key, R.FVL_WRAPPED, R.FVL_PEER_READY, R.FVL_DOWN_CAUSE, R.FVL_RETRAINS, R.FVL_STATE]; omega

/-- `t` has of `s` the contexts, the key store and the time, the membership and its clock; what is no member, or the grandmaster, keeps DT_LOCKED; and what is DOWN stays
DOWN. -/
structure MemberStands (s t : State) : Prop where
  sq : t.sq = s.sq
  ge : t.ge = s.ge
  quartz : t.quartz = s.quartz
  secret : t.dm.secret = s.dm.secret
  id : t.dm.id = s.dm.id
  offset : t.dm.offset = s.dm.offset
  fields : spares [R.FVL0_ENROLLED, R.FVL0_GM, R.SEQ0_BUDGET] s t
  locked : s.enrolled = false ∨ s.get R.FVL0_GM = 1 → t.get R.FVL0_DT_LOCKED = s.get R.FVL0_DT_LOCKED
  down : ∀ k < 8, s.get (R.FVL_STATE k) = 0 → t.get (R.FVL_STATE k) = 0

namespace MemberStands

theorem enrolled (h : MemberStands s t) : t.enrolled = s.enrolled := by rw [State.enrolled, h.fields R.FVL0_ENROLLED (by simp)]; rfl
theorem gm (h : MemberStands s t) : t.get R.FVL0_GM = s.get R.FVL0_GM := h.fields _ (by simp)
theorem budget (h : MemberStands s t) : t.budget = s.budget := by rw [State.budget, h.fields R.SEQ0_BUDGET (by simp)]; rfl
theorem ctx (h : MemberStands s t) (k : Nat) : t.ctx k = s.ctx k := by rw [State.ctx, h.sq]; rfl
theorem domainTime (h : MemberStands s t) : t.domainTime = s.domainTime := by rw [State.domainTime, h.quartz, h.offset]; rfl
theorem domainRoot (h : MemberStands s t) (p : Nat) : t.domainRoot p = s.domainRoot p := by rw [State.domainRoot, h.secret, h.id]; rfl

theorem refl : MemberStands s s := ⟨rfl, rfl, rfl, rfl, rfl, rfl, .refl, fun _ => rfl, fun _ _ h => h⟩

theorem trans (h : MemberStands s t) (g : MemberStands t u) : MemberStands s u :=
  ⟨g.sq.trans h.sq, g.ge.trans h.ge, g.quartz.trans h.quartz, g.secret.trans h.secret, g.id.trans h.id, g.offset.trans h.offset, h.fields.trans g.fields,
    fun c => (g.locked (by rw [h.enrolled, h.gm]; exact c)).trans (h.locked c), fun k hk shut => g.down k hk (h.down k hk shut)⟩

theorem ite {c : Prop} [Decidable c] (h : MemberStands s t) (g : MemberStands s u) : MemberStands s (if c then t else u) := by split <;> assumption
theorem andIf {c : Prop} [Decidable c] (h : MemberStands s t) (g : MemberStands t u) : MemberStands s (if c then u else t) := (h.trans g).ite h

theorem foldl {α : Type} {f : State → α → State} {xs : List α} (h : MemberStands s t) (hf : ∀ v a, a ∈ xs → MemberStands v (f v a)) : MemberStands s (xs.foldl f t) :=
  List.foldlRecOn xs f (motive := fun v => MemberStands s v) h fun v hv a ha => hv.trans (hf v a ha)

/-- What leaves these fields, the contexts, the key store, the time and the membership. -/
theorem step (h : MemberStands s t) (fields : spares memberFields t u) (sq : u.sq = t.sq) (ge : u.ge = t.ge) (quartz : u.quartz = t.quartz) (secret : u.dm.secret = t.dm.secret)
    (id : u.dm.id = t.dm.id) (offset : u.dm.offset = t.dm.offset) : MemberStands s u :=
  h.trans ⟨sq, ge, quartz, secret, id, offset, fields.mono (by simp [memberFields]), fun _ => fields _ (by simp [memberFields]),
    fun k hk shut => (fields _ (by simp only [memberFields, List.mem_append, List.mem_map, List.mem_range]; exact .inr ⟨k, hk, rfl⟩)).trans shut⟩

theorem update (h : MemberStands s t) (regs : u.regs = t.regs) (sq : u.sq = t.sq) (ge : u.ge = t.ge) (quartz : u.quartz = t.quartz) (secret : u.dm.secret = t.dm.secret)
    (id : u.dm.id = t.dm.id) (offset : u.dm.offset = t.dm.offset) : MemberStands s u := h.step (.update .refl regs) sq ge quartz secret id offset

theorem set {f : Field} {v : Nat} (h : MemberStands s t) (off : apart memberFields f) : MemberStands s (t.set f v) := h.step (.set .refl off) rfl rfl rfl rfl rfl rfl

theorem raise {p i : Nat} (h : MemberStands s t) : MemberStands s (t.raise p i) := by
  have only := (t.raise_onlyFields p i).2.2
  exact h.step (.raise .refl (memberFields_raw p)) (by rw [only]) (by rw [only]) (by rw [only]) (by rw [only]) (by rw [only]) (by rw [only])

theorem severity {n : Nat} (h : MemberStands s t) : MemberStands s (t.severity n) := by
  have only := (t.severity_spec n).2
  exact h.step (.severity .refl (by decide)) (by rw [only]) (by rw [only]) (by rw [only]) (by rw [only]) (by rw [only]) (by rw [only])

theorem sendOn {k : Nat} {o : Output} (h : MemberStands s t) : MemberStands s (t.sendOn k o) := by
  have only := t.sendOn_only k o
  exact h.step (.of_keeps .refl (t.sendOn_keeps k o) (by simpa using memberFields_flits k)) (by rw [only]) (by rw [only]) (by rw [only]) (by rw [only]) (by rw [only]) (by rw [only])

theorem tellOn {l : Option Nat} {o : Nat → Output} (h : MemberStands s t) : MemberStands s (t.tellOn l o) := by
  unfold State.tellOn
  split
  · exact h.sendOn
  · exact h

theorem tellStandby {d : Delta} (h : MemberStands s t) : MemberStands s (t.tellStandby d) := by
  unfold State.tellStandby State.sendDelta State.sendDeltaOn
  split
  · dsimp only
    have noted : MemberStands s (((t.set R.PAIR_DSEQ_LO (t.get R.PAIR_DSEQ_LO + 2 ^ 32 * t.get R.PAIR_DSEQ_HI + 1)).set R.PAIR_DSEQ_HI
        ((t.get R.PAIR_DSEQ_LO + 2 ^ 32 * t.get R.PAIR_DSEQ_HI + 1) / 2 ^ 32)).countSat R.PAIR_LAG) := .set (.set (.set h (by decide)) (by decide)) (by decide)
    exact .tellOn (noted.update rfl rfl rfl rfl rfl rfl rfl)
  · exact h

theorem answer {ok : Option Bool} {c : Cmd} {e : Ending} (h : MemberStands s t) : MemberStands s (t.answer ok c e) := by
  obtain ⟨sq, ge, -, -, -, -, -, -, -, quartz, -⟩ := (endKeeps_iff t (t.answer ok c e)).mp (endKeeps_answer ..)
  have dm := t.answer_dm ok c e
  exact h.step (.answer memberFields_answer memberFields_flits .refl) sq ge quartz (by rw [dm]) (by rw [dm]) (by rw [dm])

theorem finish {ok : Option Bool} {c : Cmd} {e : Ending} {d : Option Nat} (h : MemberStands s t) : MemberStands s (t.finish ok c e d) := by
  unfold State.finish
  split
  · exact h.update rfl rfl rfl rfl rfl rfl rfl
  · exact h.answer

theorem wrapRing {k : Nat} (h : MemberStands s t) : MemberStands s (t.wrapRing k) := .ite (.raise (.set h (memberFields_link (.inl rfl)))) h

/-- Only a member that is no grandmaster loses the time (R365). -/
theorem settleTree (h : MemberStands s t) : MemberStands s t.settleTree := by
  refine h.trans ?_
  unfold State.settleTree
  split
  · next lost =>
    obtain ⟨member, other, -, -⟩ := lost
    have cleared : MemberStands t (t.set R.FVL0_DT_LOCKED 0) := by
      have off : ∀ f : Field, f.key ≠ R.FVL0_DT_LOCKED.key → (t.set R.FVL0_DT_LOCKED 0).get f = t.get f := fun f ne => State.get_set_ne _ _ _ _ fun e => ne e.symm
      refine ⟨rfl, rfl, rfl, rfl, rfl, rfl, fun f hf => off f ?_, fun c => ?_, fun k _ shut => (off _ ?_).trans shut⟩
      · simp only [List.mem_cons, List.not_mem_nil, or_false] at hf
        rcases hf with rfl | rfl | rfl <;> decide
      · rcases c with none_ | gm
        · rw [member] at none_; cases none_
        · omega
      · simp only [Field.key, R.FVL_STATE, R.FVL0_DT_LOCKED]; omega
    exact cleared.raise.update rfl rfl rfl rfl rfl rfl rfl
  · exact .refl

theorem tellHolds {k : Nat} (h : MemberStands s t) : MemberStands s (t.tellHolds k) := .ite h.sendOn h

theorem askCatchup {k : Nat} (h : MemberStands s t) : MemberStands s (t.askCatchup k) := .sendOn (h.update rfl rfl rfl rfl rfl rfl rfl)

/-- A link's STATE written 0, or written where the link is not DOWN. -/
theorem setState {k v : Nat} (h : MemberStands s t) (stays : v = 0 ∨ t.get (R.FVL_STATE k) ≠ 0) : MemberStands s (t.set (R.FVL_STATE k) v) := by
  have off : ∀ f : Field, f.key ≠ (R.FVL_STATE k).key → (t.set (R.FVL_STATE k) v).get f = t.get f := fun f ne => State.get_set_ne _ _ _ _ fun e => ne e.symm
  refine h.trans ⟨rfl, rfl, rfl, rfl, rfl, rfl, fun f hf => off f ?_, fun _ => off _ ?_, fun j hj shut => ?_⟩
  · simp only [List.mem_cons, List.not_mem_nil, or_false] at hf
    rcases hf with rfl | rfl | rfl <;> simp only [Field.key, R.FVL_STATE, R.FVL0_ENROLLED, R.FVL0_GM, R.SEQ0_BUDGET] <;> omega
  · simp only [Field.key, R.FVL_STATE, R.FVL0_DT_LOCKED]; omega
  · by_cases same : j = k
    · subst same
      rcases stays with rfl | held
      · rw [State.get_set_same]; rfl
      · exact absurd shut held
    · rw [off _ (by simp only [Field.key, R.FVL_STATE]; omega)]; exact shut

theorem settleLink {k : Nat} (h : MemberStands s t) : MemberStands s (t.settleLink k) := by
  refine h.trans ?_
  unfold State.settleLink
  dsimp only
  split
  · next held =>
    have open_ : t.get (R.FVL_STATE k) ≠ 0 := by rcases held with h | h <;> omega
    have put : ∀ v, MemberStands t (t.set (R.FVL_STATE k) v) := fun v => .setState .refl (.inr open_)
    refine .ite (.settleTree (.wrapRing ?_)) ?_ <;>
      exact .andIf (.andIf (.andIf (put _) (.tellHolds (.raise .refl))) (.askCatchup .refl)) (.raise (.set .refl (memberFields_link (.inl rfl))))
  · exact .refl

theorem outOfSync (h : MemberStands s t) : MemberStands s t.outOfSync := by
  unfold State.outOfSync State.releaseHeld
  have told : MemberStands s ((t.set R.PAIR_SYNC 3).raise pgPAIR 2) := .raise (.set h (by decide))
  exact .foldl (told.update rfl rfl rfl rfl rfl rfl rfl) fun _ _ _ => .answer .refl

theorem dropForwarded {k : Nat} (h : MemberStands s t) : MemberStands s (t.dropForwarded k) := by
  unfold State.dropForwarded
  exact .foldl (h.update rfl rfl rfl rfl rfl rfl rfl) fun _ _ _ => .finish .refl

theorem linkDown {k cause : Nat} (h : MemberStands s t) : MemberStands s (t.linkDown k cause) := by
  unfold State.linkDown
  dsimp only
  have shut : MemberStands s (((t.set (R.FVL_STATE k) 0).set (R.FVL_DOWN_CAUSE k) cause).set (R.FVL_PEER_READY k) 0) :=
    .set (.set (.setState h (.inl rfl)) (memberFields_link (.inr (.inr (.inl rfl))))) (memberFields_link (.inr (.inl rfl)))
  have closed := shut.update (u := (((t.set (R.FVL_STATE k) 0).set (R.FVL_DOWN_CAUSE k) cause).set (R.FVL_PEER_READY k) 0).updLink k fun l => { refusals := l.refusals })
    rfl rfl rfl rfl rfl rfl rfl
  exact .settleTree (.andIf (.andIf (.andIf (.andIf closed (.severity (.raise (.set .refl (memberFields_link (.inr (.inr (.inr rfl))))))))
    (.wrapRing .refl)) (.outOfSync .refl)) (.dropForwarded .refl))

/-- A change of mode out of BOOT's reach (R387). -/
theorem enterMode {m : Mode} (h : MemberStands s t) (up : t.mode ≠ .boot) : MemberStands s (t.enterMode m) := by
  unfold State.enterMode
  refine .ite h ?_
  have booted : (t.mode == .boot) = false := beq_eq_false_iff_ne.2 up
  dsimp only
  rw [booted, if_neg Bool.false_ne_true]
  exact .foldl (.raise (h.update (u := { t with mode := m }) rfl rfl rfl rfl rfl rfl rfl)) fun _ _ _ => .settleLink .refl

theorem modeAfterEnrolment (h : MemberStands s t) : MemberStands s t.modeAfterEnrolment := by
  unfold State.modeAfterEnrolment
  split
  case h_1 m | h_2 m => exact h.enterMode (by rw [m]; decide)
  all_goals exact h

end MemberStands

end Sys2Proof.Machine
end

section
/-! SUPPORT. A module becomes a member of a key domain, or leaves it (R189, R360-R362). -/
namespace Sys2Proof.Machine

variable {s t u : State} {c : Ctx} {run : ProgramRun}

/-! ## The domain roots of the partitions (R189) -/

/-- A partition's domain root drawn or derived, kept and sent to the standby. -/
def State.setDomainRoot (root : State → Nat → Root × State) (s : State) (p : Nat) : State :=
  let r := root s p
  let s := (r.2.updPart p fun x => { x with droot := r.1 }).keepEntry p
  let x := s.part p
  s.tellStandby (.roots p x.proot x.droot x.mroot)

theorem State.setDomainRoots_eq (s : State) (root : State → Nat → Root × State) :
    s.setDomainRoots root = (s.created.map (·.1)).foldl (State.setDomainRoot root) s := rfl

/-- A source of roots changes no partition, and nothing of the membership. -/
def Roots (root : State → Nat → Root × State) : Prop := ∀ v p, MemberStands v (root v p).2 ∧ (root v p).2.parts = v.parts ∧ (root v p).2.mode = v.mode

section
variable {root : State → Nat → Root × State} (source : Roots root)
include source

theorem State.setDomainRoot_spec (s : State) (p : Nat) : MemberStands s (s.setDomainRoot root p) ∧ (s.setDomainRoot root p).mode = s.mode ∧
    ((s.setDomainRoot root p).part p).droot = (root s p).1 ∧ ∀ j, j ≠ p → ((s.setDomainRoot root p).part j).droot = (s.part j).droot := by
  obtain ⟨stands, parts, mode⟩ := source s p
  unfold State.setDomainRoot
  generalize root s p = r at *
  dsimp only
  obtain ⟨w, hw⟩ : ∃ w, w = (r.2.updPart p fun x => { x with droot := r.1 }).keepEntry p := ⟨_, rfl⟩
  have kept : MemberStands s w := by rw [hw]; exact stands.update rfl rfl rfl rfl rfl rfl rfl
  have put : w.parts = (r.2.updPart p fun x => { x with droot := r.1 }).parts := by rw [hw]; rfl
  rw [← hw]
  generalize (Delta.roots p (w.part p).proot (w.part p).droot (w.part p).mroot) = d
  have same : ∀ j, (w.tellStandby d).part j = (r.2.updPart p fun x => { x with droot := r.1 }).part j := fun j => by
    rw [State.part, State.part, (w.tellStandby_spec d).1, put]
  refine ⟨kept.tellStandby, ?_, ?_, fun j hj => ?_⟩
  · rw [(Steady.refl.tellStandby (t := w) (d := d)).mode, hw]; exact mode
  · rw [same, State.part_updPart_same]
  · rw [same, State.part_updPart_ne _ _ _ _ (Ne.symm hj), State.part, State.part, parts]

theorem State.setDomainRoots_stands (s : State) (ps : List Nat) : MemberStands s (ps.foldl (State.setDomainRoot root) s) ∧
    (ps.foldl (State.setDomainRoot root) s).mode = s.mode ∧ ∀ j ∉ ps, ((ps.foldl (State.setDomainRoot root) s).part j).droot = (s.part j).droot := by
  induction ps generalizing s with
  | nil => exact ⟨.refl, rfl, fun _ _ => rfl⟩
  | cons p ps ih =>
    obtain ⟨stands, mode, -, others⟩ := s.setDomainRoot_spec source p
    obtain ⟨stands', mode', others'⟩ := ih (s.setDomainRoot root p)
    exact ⟨stands.trans stands', mode'.trans mode, fun j hj => (others' j fun h => hj (List.mem_cons_of_mem _ h)).trans (others j fun h => hj (h ▸ List.mem_cons_self))⟩

/-- Where each partition's root is a value of the membership alone, all of them have theirs. -/
theorem State.setDomainRoots_all {value : Nat → Root} (s : State) (gives : ∀ v p, MemberStands s v → (root v p).1 = value p) (ps : List Nat) :
    ∀ p, p ∈ ps ∨ (s.part p).droot = value p → ((ps.foldl (State.setDomainRoot root) s).part p).droot = value p := by
  suffices all : ∀ (ps : List Nat) (v : State), MemberStands s v → ∀ p, p ∈ ps ∨ (v.part p).droot = value p → ((ps.foldl (State.setDomainRoot root) v).part p).droot = value p from
    all ps s .refl
  intro ps
  induction ps with
  | nil => exact fun v _ p hp => hp.resolve_left (by simp)
  | cons q ps ih =>
    intro v hv p hp
    obtain ⟨stands, -, own, others⟩ := v.setDomainRoot_spec source q
    refine ih _ (hv.trans stands) p ?_
    by_cases same : p = q
    · subst same; exact .inr (own.trans (gives v p hv))
    · rw [others p same]
      exact hp.imp_left fun h => (List.mem_cons.1 h).resolve_left same

/-- Where each root is the next generation of its partition's, each has gone on by one. -/
theorem State.setDomainRoots_next (gives : ∀ v p, (root v p).1.gen = ((v.part p).droot.gen + 1) % 2 ^ 24) (s : State) {ps : List Nat} (distinct : ps.Nodup) :
    ∀ p ∈ ps, ((ps.foldl (State.setDomainRoot root) s).part p).droot.gen = ((s.part p).droot.gen + 1) % 2 ^ 24 := by
  induction ps generalizing s with
  | nil => exact fun p hp => nomatch hp
  | cons q ps ih =>
    obtain ⟨fresh, rest⟩ := List.nodup_cons.1 distinct
    obtain ⟨-, -, own, others⟩ := s.setDomainRoot_spec source q
    intro p hp
    rcases List.mem_cons.1 hp with rfl | later
    · obtain ⟨-, -, stays⟩ := State.setDomainRoots_stands source (s.setDomainRoot root p) ps
      exact (congrArg Root.gen (stays p fresh)).trans ((congrArg Root.gen own).trans (gives s p))
    · refine (ih (s.setDomainRoot root q) rest p later).trans ?_
      rw [others p fun h => fresh (h ▸ later)]

end

/-! ## What enrolment leaves (R360, R362) -/

/-- `v` is `s` as a member: secret, DOMAIN_ID and time, and every domain root the domain's. -/
structure Enrols (s v : State) (secret : List Byte) (id time : Nat) : Prop where
  sq : v.sq = s.sq
  ge : v.ge = s.ge
  quartz : v.quartz = s.quartz
  budget : v.budget = s.budget
  enrolled : v.enrolled = true
  secret_ : v.dm.secret = secret
  id_ : v.dm.id = id
  time_ : v.domainTime = time
  roots : ∀ x ∈ s.created, (v.part x.1).droot = { gen := 1, key := some (v.domainRoot x.1) }

namespace Enrols
variable {secret : List Byte} {id time : Nat}

theorem stands (h : Enrols s t secret id time) (g : MemberStands t u) (roots : rootsIn u.parts = rootsIn t.parts) : Enrols s u secret id time := by
  have root : ∀ p, (u.part p).droot = (t.part p).droot := fun p => congrArg (fun r => r.2.1) (congrFun roots p)
  exact ⟨g.sq.trans h.sq, g.ge.trans h.ge, g.quartz.trans h.quartz, g.budget.trans h.budget, g.enrolled.trans h.enrolled, g.secret.trans h.secret_, g.id.trans h.id_,
    g.domainTime.trans h.time_, fun x hx => by rw [root, g.domainRoot]; exact h.roots x hx⟩

theorem poised {k : Nat} (h : Enrols s t secret id time) (p : Poised k s) : Poised k t := p.keeps h.sq (by rw [h.ge]) h.quartz h.budget

theorem ctx (h : Enrols s t secret id time) (j : Nat) : t.ctx j = s.ctx j := by rw [State.ctx, h.sq]; rfl

end Enrols

theorem State.enrol_spec (s : State) (secret : List Byte) (id time : Nat) : Enrols s (s.enrol secret id time) secret id time ∧ (s.enrol secret id time).mode = s.mode := by
  obtain ⟨w, hw⟩ : ∃ w, w = ((({ s with dm.secret := secret, dm.wrapGen := s.ob.rwgen, dm.id := id, dm.offset := (time : Int) - (s.quartz : Int), dm.disciplined := s.quartz } :
      State).set R.FVL0_ENROLLED 1).set R.FVL0_DOMAIN_ID_LO id).set R.FVL0_DOMAIN_ID_HI (id / 2 ^ 32) := ⟨_, rfl⟩
  have source : Roots fun s p => ({ gen := 1, key := some (s.domainRoot p) }, s) := fun v p => ⟨.refl, rfl, rfl⟩
  have made : s.enrol secret id time = (w.created.map (·.1)).foldl (State.setDomainRoot fun s p => ({ gen := 1, key := some (s.domainRoot p) }, s)) w := by
    rw [hw]; rfl
  have created : w.created = s.created := by rw [hw]; rfl
  obtain ⟨stands, mode, -⟩ := w.setDomainRoots_stands source (w.created.map (·.1))
  have roots := State.setDomainRoots_all source w (value := fun p => { gen := 1, key := some (w.domainRoot p) })
    (fun v p hv => by rw [hv.domainRoot]) (w.created.map (·.1))
  rw [← made] at stands mode roots
  have flag : w.get R.FVL0_ENROLLED = 1 := by
    rw [hw, State.get_set_ne _ _ _ _ (by decide), State.get_set_ne _ _ _ _ (by decide), State.get_set_same]; rfl
  have budget : w.budget = s.budget := by
    rw [hw, State.budget, State.get_set_ne _ _ _ _ (by decide), State.get_set_ne _ _ _ _ (by decide), State.get_set_ne _ _ _ _ (by decide)]; rfl
  have clock : w.domainTime = time := by
    have moved : w.domainTime = ((s.quartz : Int) + ((time : Int) - (s.quartz : Int))).toNat := by rw [hw]; rfl
    rw [moved]; omega
  refine ⟨⟨stands.sq.trans (by rw [hw]; rfl), stands.ge.trans (by rw [hw]; rfl), stands.quartz.trans (by rw [hw]; rfl), stands.budget.trans budget, ?_,
    stands.secret.trans (by rw [hw]; rfl), stands.id.trans (by rw [hw]; rfl), stands.domainTime.trans clock, fun x hx => ?_⟩, mode.trans (by rw [hw]; rfl)⟩
  · rw [stands.enrolled, State.enrolled, flag]; rfl
  · rw [stands.domainRoot]
    exact roots x.1 (.inl (List.mem_map.2 ⟨x, created ▸ hx, rfl⟩))

/-! ## The mode that follows (Table 16.3) -/

/-- What writes of fields, interrupts, messages, a catch-up asked for and a lost grandmaster keep, a link that settles keeps. -/
theorem State.settleLink_holds {P : State → Prop} {k : Nat} (set : ∀ v f n, P v → P (v.set f n)) (raise : ∀ v p i, P v → P (v.raise p i)) (sendOn : ∀ v o, P v → P (v.sendOn k o))
    (asks : ∀ v, P v → P { v with dm.catchup := true, dm.lost := false }) (loses : ∀ v n, P v → P { v with dm.lostAt := some n }) (h : P s) : P (s.settleLink k) := by
  have chosen : ∀ {c : Prop} [Decidable c] {v w : State}, P v → P w → P (if c then v else w) := fun hv hw => by split <;> assumption
  have told : ∀ v, P v → P (v.tellHolds k) := fun v hv => chosen (sendOn _ _ hv) hv
  have asked : ∀ v, P v → P (v.askCatchup k) := fun v hv => sendOn _ _ (asks _ hv)
  have wrapped : ∀ v, P v → P (v.wrapRing k) := fun v hv => chosen (raise _ _ _ (set _ _ _ hv)) hv
  have settled : ∀ v, P v → P v.settleTree := fun v hv => chosen (loses _ _ (raise _ _ _ (set _ _ _ hv))) hv
  have up : ∀ v, P v → P ((v.raise (pgFVL k) 0).tellHolds k) := fun v hv => told _ (raise _ _ _ hv)
  have cleared : ∀ v, P v → P ((v.set (R.FVL_WRAPPED k) 0).raise (pgFVL k) 4) := fun v hv => raise _ _ _ (set _ _ _ hv)
  have stated : ∀ n, P (s.set (R.FVL_STATE k) n) := fun n => set _ _ _ h
  unfold State.settleLink
  dsimp only
  refine chosen (chosen (settled _ (wrapped _ ?_)) ?_) h <;>
    exact chosen (cleared _ (chosen (asked _ (chosen (up _ (stated _)) (stated _))) (chosen (up _ (stated _)) (stated _))))
      (chosen (asked _ (chosen (up _ (stated _)) (stated _))) (chosen (up _ (stated _)) (stated _)))

theorem State.settleLink_parts (s : State) (k : Nat) : (s.settleLink k).parts = s.parts :=
  State.settleLink_holds (P := fun v => v.parts = s.parts) (fun _ _ _ hv => hv) (fun _ _ _ hv => (State.raise_parts _ _ _).trans hv)
    (fun v o hv => by rw [v.sendOn_only]; exact hv) (fun _ hv => hv) (fun _ _ hv => hv) rfl

theorem State.settleLink_catchup {k : Nat} (h : s.dm.catchup = true) : (s.settleLink k).dm.catchup = true :=
  State.settleLink_holds (P := fun v => v.dm.catchup = true) (fun _ _ _ hv => hv) (fun _ _ _ hv => by rw [State.raise_dm]; exact hv)
    (fun v o hv => by rw [State.sendOn_dm]; exact hv) (fun _ _ => rfl) (fun _ _ hv => hv) h

theorem State.enterMode_spec (s : State) {m : Mode} (up : s.mode ≠ .boot) : (s.enterMode m).mode = m ∧ (s.enterMode m).parts = s.parts ∧
    (s.dm.catchup = true → (s.enterMode m).dm.catchup = true) := by
  refine ⟨(Steady.refl (s := { s with mode := m }).enterMode (t := s)).mode, ?_⟩
  have booted : (s.mode == .boot) = false := beq_eq_false_iff_ne.2 up
  unfold State.enterMode
  dsimp only
  rw [booted, if_neg Bool.false_ne_true]
  split
  · exact ⟨rfl, id⟩
  · exact ⟨foldl_keeps (fun v : State => v.parts = s.parts) _ (fun v k hv => (v.settleLink_parts k).trans hv) _ _ (State.raise_parts _ _ _),
      fun caught => foldl_keeps (fun v : State => v.dm.catchup = true) _ (fun v k hv => v.settleLink_catchup hv) _ _ (by rw [State.raise_dm]; exact caught)⟩

theorem State.modeAfterEnrolment_spec (s : State) : s.modeAfterEnrolment.parts = s.parts ∧ (s.mode = .bare → s.modeAfterEnrolment.mode = s.servingMode) ∧
    (s.dm.catchup = true → s.modeAfterEnrolment.dm.catchup = true) := by
  unfold State.modeAfterEnrolment
  split
  case h_1 m | h_2 m => 
    obtain ⟨mode, parts, caught⟩ := s.enterMode_spec (m := s.servingMode) (by rw [m]; decide)
    exact ⟨parts, fun _ => mode, caught⟩
  case h_3 m | h_4 m | h_5 m | h_6 m => exact ⟨rfl, fun bare => absurd (m.symm.trans bare) (by decide), id⟩

end Sys2Proof.Machine
end

section
/-! SUPPORT. The domain's programs: create, join and leave (R360-R362). -/
namespace Sys2Proof.Machine

variable {s t u : State} {c : Ctx} {run : ProgramRun}

/-! ## A domain program from its command to its end -/

section
variable {op : Nat} {body : Prog → Run Unit} (ready : programReady s c 0x1A run) (only : (progOf s c run).paramOnly 3 = true) (names : (progOf s c run).param 0 2 = op)
  (known : op ≠ 3)
include ready only names known

theorem State.domainProgram_ends (runs : Runs (body (progOf s c run)) s () t) (poised : Poised (ctxKey c) t.modeAfterEnrolment) :
    s.domainProgram c run op body = .next (((t.modeAfterEnrolment.countProgram (ctxKey c) none).endCommand (ctxKey c) 0 0 0 run.wrOk).settleSeeds c.cc) := by
  refine State.program_answers (d := {}) ready ?_ poised
  refine .bind (.need (by rw [only, names]; simpa using known) _) ?_
  rw [names, if_neg (not_not.2 rfl)]
  exact .bind runs (.bind (.act _) .pure)

theorem State.domainProgram_malformed {det : Nat} (stops : Stops (body (progOf s c run)) s (.done stFormatError det) t) (poised : Poised (ctxKey c) t) :
    s.domainProgram c run op body = .next (((t.countProgram (ctxKey c) none).endCommand (ctxKey c) stFormatError det 0 run.wrOk).settleSeeds c.cc) := by
  refine State.program_malformed ready ?_ poised
  refine (Runs.need (by rw [only, names]; simpa using known) _).bindStops ?_
  rw [names, if_neg (not_not.2 rfl)]
  exact stops.bind

end

/-! ## Create (R360, R363) -/

theorem State.setTime_stands (s : State) (gm locked : Bool) : (s.setTime gm locked).parts = s.parts ∧ (s.setTime gm locked).mode = s.mode ∧
    ∀ f : Field, f.key ≠ R.FVL0_GM.key → f.key ≠ R.FVL0_DT_LOCKED.key → f.key ≠ (R.BLK_INT_RAW (pgFVL 0)).key → (s.setTime gm locked).get f = s.get f := by
  obtain ⟨-, -, keep, -, only⟩ := s.setTime_spec gm locked
  refine ⟨by rw [only], by rw [only], fun f gm locked raw => keep f ?_⟩
  intro g hg
  simp only [List.mem_cons, List.not_mem_nil, or_false] at hg
  rcases hg with rfl | rfl | rfl <;> exact Ne.symm ‹_›

section
variable {secret : List Byte} {id time : Nat}

/-- The only member of a domain is its grandmaster. -/
theorem Enrols.setTime (h : Enrols s t secret id time) (gm locked : Bool) : Enrols s (t.setTime gm locked) secret id time := by
  obtain ⟨parts, -, others⟩ := t.setTime_stands gm locked
  have only := (t.setTime_spec gm locked).2.2.2.2
  have flag : (t.setTime gm locked).get R.FVL0_ENROLLED = t.get R.FVL0_ENROLLED := others _ (by decide) (by decide) (by decide)
  have budget : (t.setTime gm locked).budget = t.budget := by rw [State.budget, others _ (by decide) (by decide) (by decide)]; rfl
  have clock : (t.setTime gm locked).domainTime = t.domainTime := by rw [only]; rfl
  have root : ∀ p, (t.setTime gm locked).domainRoot p = t.domainRoot p := fun p => by rw [only]; rfl
  refine ⟨Eq.trans (by rw [only]) h.sq, Eq.trans (by rw [only]) h.ge, Eq.trans (by rw [only]) h.quartz, budget.trans h.budget, ?_, Eq.trans (by rw [only]) h.secret_,
    Eq.trans (by rw [only]) h.id_, clock.trans h.time_, fun x hx => ?_⟩
  · rw [State.enrolled, flag]; exact h.enrolled
  · rw [State.part, parts, root]; exact h.roots x hx

theorem Enrols.modeAfterEnrolment (h : Enrols s t secret id time) : Enrols s t.modeAfterEnrolment secret id time :=
  h.stands MemberStands.refl.modeAfterEnrolment (by rw [t.modeAfterEnrolment_spec.1])

end

theorem domainCreate_enrols (ready : programReady s c 0x1A run) (only : (progOf s c run).paramOnly 3 = true) (names : (progOf s c run).param 0 2 = 0)
    (alone : s.enrolled = false) (full : 40 ≤ s.queueFill c.cc) :
    let start := leNat ((progOf s c run).x.desc.paramExt.take 8)
    ∃ v : State, Enrols s v (drawn s c 32) (leNat ((drawn s c 40).drop 32)) (if start = 0 then s.quartz else start) ∧ v.get R.FVL0_GM = 1 ∧ v.get R.FVL0_DT_LOCKED = 1 ∧
      (s.mode = .bare → v.mode = .service) ∧
      exec (.domainCreate c run) s = .next (((v.countProgram (ctxKey c) none).endCommand (ctxKey c) 0 0 0 run.wrOk).settleSeeds c.cc) := by
  intro start
  have poised : Poised (ctxKey c) s := .of_ready ready (by decide)
  obtain ⟨a, ha⟩ : ∃ a, a = s.setQueue c.cc ((s.queue c.cc).drop 32) := ⟨_, rfl⟩
  obtain ⟨b, hb⟩ : ∃ b, b = a.setQueue c.cc ((a.queue c.cc).drop 8) := ⟨_, rfl⟩
  have rest : a.queue c.cc = (s.queue c.cc).drop 32 := by rw [ha]; exact Sparse.get_set_same ..
  have draws : Runs ((progOf s c run).random 32) s (drawn s c 32) a := by
    have fill : 32 ≤ s.queueFill (progOf s c run).cluster := by rw [progOf_cluster]; omega
    have := Runs.random fill
    rw [progOf_cluster] at this
    rw [ha]; exact this
  have more : Runs ((progOf s c run).random 8) a ((drawn s c 40).drop 32) b := by
    have fill : 8 ≤ a.queueFill (progOf s c run).cluster := by
      rw [progOf_cluster, State.queueFill, rest, List.length_drop]
      have := full
      rw [State.queueFill] at this
      omega
    have := Runs.random fill
    rw [progOf_cluster, rest] at this
    have taken : (drawn s c 40).drop 32 = ((s.queue c.cc).drop 32).take 8 := List.drop_take
    rw [hb, taken, rest]; exact this
  have frame : b = { s with fl := b.fl } := by rw [hb, ha]; rfl
  obtain ⟨enrolled, mode⟩ := b.enrol_spec (drawn s c 32) (leNat ((drawn s c 40).drop 32)) (if start = 0 then b.quartz else start)
  generalize hw : b.enrol (drawn s c 32) (leNat ((drawn s c 40).drop 32)) (if start = 0 then b.quartz else start) = w at enrolled mode
  have member := (enrolled.setTime true true).modeAfterEnrolment
  obtain ⟨gm, locked, -⟩ := w.setTime_spec true true
  obtain ⟨-, kept, -⟩ := w.setTime_stands true true
  generalize hx : w.setTime true true = x at member gm locked kept
  have stands : MemberStands x x.modeAfterEnrolment := MemberStands.refl.modeAfterEnrolment
  have member : Enrols s x.modeAfterEnrolment (drawn s c 32) (leNat ((drawn s c 40).drop 32)) (if start = 0 then s.quartz else start) := by
    rw [frame] at member
    exact ⟨member.sq, member.ge, member.quartz, member.budget, member.enrolled, member.secret_, member.id_, member.time_, member.roots⟩
  have program : exec (.domainCreate c run) s = execDomainCreate c run s := rfl
  unfold execDomainCreate at program
  refine ⟨x.modeAfterEnrolment, member, stands.gm.trans gm, (stands.locked (.inr gm)).trans locked, fun bare => ?_,
    program.trans (State.domainProgram_ends ready only names (by decide) ?_ (member.poised poised))⟩
  · have still : x.mode = .bare := kept.trans (mode.trans ((by rw [frame] : b.mode = s.mode).trans bare))
    have serving : x.servingMode = .service := by
      have flag : x.enrolled = true := by rw [← stands.enrolled]; exact member.enrolled
      unfold State.servingMode
      rw [flag, if_neg (by simp)]
    rw [x.modeAfterEnrolment_spec.2.1 still, serving]
  · refine .bind .get ?_
    dsimp only
    refine .bind (.need (by rw [alone]; rfl) _) (.bind draws (.bind more ?_))
    rw [← hx, ← hw]
    exact .act _

/-! ## Join (R361) -/

/-- The epoch state a sponsor gives for a partition. -/
def State.takeEpoch (s : State) (x : Fin 1024 × Nat × Nat × Option (Nat × Nat)) : State :=
  (s.updPart x.1 fun y => { y with epoch := x.2.1 % 2 ^ 32, epSeq := x.2.2.1 % 2 ^ 32, epPending := x.2.2.2 }).openEpoch x.1

theorem State.openEpoch_stands (s : State) (p : Nat) : MemberStands s (s.openEpoch p) ∧ rootsIn (s.openEpoch p).parts = rootsIn s.parts := by
  unfold State.openEpoch
  split
  · split
    · refine ⟨.raise (.update .refl rfl rfl rfl rfl rfl rfl rfl), ?_⟩
      rw [State.raise_parts]
      exact s.updPart_roots p fun _ => rfl
    · exact ⟨.refl, rfl⟩
  · exact ⟨.refl, rfl⟩

theorem State.takeEpochs_dm (s : State) (xs : List (Fin 1024 × Nat × Nat × Option (Nat × Nat))) : (xs.foldl State.takeEpoch s).dm = s.dm :=
  foldl_keeps (fun v : State => v.dm = s.dm) _ (fun v x hv => by
    unfold State.takeEpoch State.openEpoch
    split
    · split
      · rw [State.raise_dm]; exact hv
      · exact hv
    · exact hv) _ _ rfl

theorem State.takeEpochs_stands (s : State) (xs : List (Fin 1024 × Nat × Nat × Option (Nat × Nat))) :
    MemberStands s (xs.foldl State.takeEpoch s) ∧ rootsIn (xs.foldl State.takeEpoch s).parts = rootsIn s.parts := by
  refine foldl_keeps (fun v => MemberStands s v ∧ rootsIn v.parts = rootsIn s.parts) _ (fun v x hv => ?_) _ _ ⟨.refl, rfl⟩
  obtain ⟨stands, roots⟩ := hv
  obtain ⟨u, hu⟩ : ∃ u, u = v.updPart x.1 fun y => { y with epoch := x.2.1 % 2 ^ 32, epSeq := x.2.2.1 % 2 ^ 32, epPending := x.2.2.2 } := ⟨_, rfl⟩
  have given : v.takeEpoch x = u.openEpoch x.1 := by rw [hu]; rfl
  have put : MemberStands v u ∧ rootsIn u.parts = rootsIn v.parts := by
    rw [hu]
    exact ⟨.update .refl rfl rfl rfl rfl rfl rfl rfl, State.updPart_roots _ _ fun _ => rfl⟩
  obtain ⟨opens, same⟩ := u.openEpoch_stands x.1
  rw [given]
  exact ⟨(stands.trans put.1).trans opens, same.trans (put.2.trans roots)⟩

section
variable (ready : programReady s c 0x1A run) (only : (progOf s c run).paramOnly 3 = true) (names : (progOf s c run).param 0 2 = 1) (alone : s.enrolled = false)
include ready only names alone

theorem domainJoin_enrols (g : Sponsorship) (sponsor : s.sponsorSerial ≠ 0) (link : s.sponsorLink ≠ none) :
    ∃ v : State, Enrols s v (fitBytes 32 g.secret) g.id.toNat g.time ∧ v.dm.catchup = true ∧
      (∀ p n q, g.epochs = [(p, n, q, none)] → (v.part p).epoch = n % 2 ^ 32 ∧ (v.part p).epSeq = q % 2 ^ 32) ∧
      exec (.domainJoin c run (some g)) s = .next (((v.countProgram (ctxKey c) none).endCommand (ctxKey c) 0 0 0 run.wrOk).settleSeeds c.cc) := by
  have poised : Poised (ctxKey c) s := .of_ready ready (by decide)
  obtain ⟨a, ha⟩ : ∃ a, a = s.tellOn s.sponsorLink fun k => .joinRequest k (s.created.map (·.1)) := ⟨_, rfl⟩
  have asked : MemberStands s a := by rw [ha]; exact MemberStands.refl.tellOn
  have parts : a.parts = s.parts := by
    rw [ha]; unfold State.tellOn
    split
    · rw [State.sendOn_only]
    · rfl
  obtain ⟨enrolled, -⟩ := a.enrol_spec (fitBytes 32 g.secret) g.id.toNat g.time
  obtain ⟨b, hb⟩ : ∃ b, b = ({ a.enrol (fitBytes 32 g.secret) g.id.toNat g.time with dm.catchup := true } : State) := ⟨_, rfl⟩
  have caught : b.dm.catchup = true := by rw [hb]
  have enrolled : Enrols s b (fitBytes 32 g.secret) g.id.toNat g.time := by
    have later := enrolled.stands (u := b) (by rw [hb]; exact .update .refl rfl rfl rfl rfl rfl rfl rfl) (by rw [hb])
    refine ⟨later.sq.trans asked.sq, later.ge.trans asked.ge, later.quartz.trans asked.quartz, later.budget.trans asked.budget, later.enrolled, later.secret_, later.id_, later.time_,
      fun x hx => later.roots x ?_⟩
    rw [State.created, parts]; exact hx
  obtain ⟨w, hw⟩ : ∃ w, w = g.epochs.foldl State.takeEpoch b := ⟨_, rfl⟩
  obtain ⟨stands, roots⟩ := b.takeEpochs_stands g.epochs
  rw [← hw] at stands roots
  have program : exec (.domainJoin c run (some g)) s = execDomainJoin c run (some g) s := rfl
  unfold execDomainJoin at program
  have member := (enrolled.stands stands roots).modeAfterEnrolment
  refine ⟨w.modeAfterEnrolment, member, ?_, fun p n q one => ?_, program.trans (State.domainProgram_ends ready only names (by decide) ?_ (member.poised poised))⟩
  · refine w.modeAfterEnrolment_spec.2.2 ?_
    rw [hw, State.takeEpochs_dm]
    exact caught
  · rw [State.part, w.modeAfterEnrolment_spec.1, hw, one]
    have taken : [(p, n, q, none)].foldl State.takeEpoch b = b.updPart p fun y => { y with epoch := n % 2 ^ 32, epSeq := q % 2 ^ 32, epPending := none } :=
      State.openEpoch_none (by rw [State.part_updPart_same])
    rw [taken]
    have own := b.part_updPart_same p fun y => { y with epoch := n % 2 ^ 32, epSeq := q % 2 ^ 32, epPending := none }
    rw [State.part] at own
    rw [own]
    exact ⟨rfl, rfl⟩
  · obtain ⟨l, hl⟩ := Option.ne_none_iff_exists'.1 link
    refine .bind .get ?_
    dsimp only
    refine .bind (.need (by rw [alone]; rfl) _) (.bind (.need (by rw [hl]; simpa using sponsor) _) (.bind (.act _) ?_))
    rw [← ha, hw, hb]
    exact .act _

theorem domainJoin_refused :
    let v : State := match s.sponsorLink with
      | some l => if s.sponsorSerial = 0 then s else s.sendOn l (.joinRequest l (s.created.map (·.1)))
      | none => s
    exec (.domainJoin c run none) s = .next (((v.countProgram (ctxKey c) none).endCommand (ctxKey c) stFormatError 0xC0C2 0 run.wrOk).settleSeeds c.cc) := by
  intro v
  have poised : Poised (ctxKey c) s := .of_ready ready (by decide)
  have program : exec (.domainJoin c run none) s = execDomainJoin c run none s := rfl
  unfold execDomainJoin at program
  have unknown : (s.sponsorSerial != 0 && s.sponsorLink.isSome) = false → v = s → exec (.domainJoin c run none) s =
      .next (((v.countProgram (ctxKey c) none).endCommand (ctxKey c) stFormatError 0xC0C2 0 run.wrOk).settleSeeds c.cc) := fun none_ same => by
    rw [same]
    refine program.trans (State.domainProgram_malformed ready only names (by decide) ?_ poised)
    refine Runs.get.bindStops ?_
    dsimp only
    exact (Runs.need (by rw [alone]; rfl) _).bindStops (Stops.need none_ _).bind
  cases hl : s.sponsorLink with
  | none => exact unknown (by rw [hl]; simp) (by simp only [v, hl])
  | some l =>
    by_cases zero : s.sponsorSerial = 0
    · exact unknown (by rw [zero]; rfl) (by simp only [v, hl, if_pos zero])
    · have sent : v = s.sendOn l (.joinRequest l (s.created.map (·.1))) := by simp only [v, hl, if_neg zero]
      rw [sent]
      refine program.trans (State.domainProgram_malformed ready only names (by decide) ?_ poised.sendOn)
      refine Runs.get.bindStops ?_
      dsimp only
      refine (Runs.need (by rw [alone]; rfl) _).bindStops ((Runs.need (by rw [hl]; simpa using zero) _).bindStops ((Runs.act _).bindStops ?_))
      rw [hl]
      exact .malformed _

end

/-! ## Leave (R362) -/

/-- Every one of these links is DOWN after they have gone DOWN one by one. -/
theorem State.linksDown_spec (ks : List Nat) (s : State) {cause : Nat} (links : ∀ k ∈ ks, k < 8) : MemberStands s (ks.foldl (fun s k => s.linkDown k cause) s) ∧
    rootsIn (ks.foldl (fun s k => s.linkDown k cause) s).parts = rootsIn s.parts ∧ ∀ k ∈ ks, (ks.foldl (fun s k => s.linkDown k cause) s).get (R.FVL_STATE k) = 0 := by
  induction ks generalizing s with
  | nil => exact ⟨.refl, rfl, fun k hk => nomatch hk⟩
  | cons k ks ih =>
    have here : k < 8 := links k List.mem_cons_self
    obtain ⟨stands, roots, down⟩ := ih (s.linkDown k cause) fun j hj => links j (List.mem_cons_of_mem _ hj)
    have steady : Steady s (s.linkDown k cause) := Steady.refl.linkDown
    obtain ⟨-, -, -, -, -, -, -, same⟩ := (s.standing_iff _).mp steady.stands
    refine ⟨MemberStands.refl.linkDown.trans stands, roots.trans same, fun j hj => ?_⟩
    rcases List.mem_cons.1 hj with rfl | later
    · exact stands.down j here (s.linkDown_spec here cause).state
    · exact down j later

/-- What is no member any more, before its roots are drawn anew: its scope 1 lines are virgin. -/
def State.membershipDropped (s : State) : State :=
  let s : State := { s with dm := { s.dm with secret := [], wrapGen := 0, id := 0, catchup := false, parent := none, lostAt := none } }
  let s := (s.setTime false false).set R.FVL0_DT_DEPTH 0
  (((s.set R.FVL0_ENROLLED 0).set R.FVL0_DOMAIN_ID_LO 0).set R.FVL0_DOMAIN_ID_HI 0).dropScope1

theorem State.membershipDropped_spec (s : State) : s.membershipDropped.enrolled = false ∧ s.membershipDropped.dm.secret = [] ∧ s.membershipDropped.dm.id = 0 ∧
    s.membershipDropped.get R.FVL0_GM = 0 ∧ s.membershipDropped.get R.FVL0_DT_LOCKED = 0 ∧ s.membershipDropped.sq = s.sq ∧
    s.membershipDropped.ge.fences = s.ge.fences ∧ s.membershipDropped.ge.lines = s.ge.lines.filter (fun e => handleScope (lineHandle e.1) != 1) ∧
    s.membershipDropped.quartz = s.quartz ∧ s.membershipDropped.budget = s.budget ∧ s.membershipDropped.parts = s.parts := by
  obtain ⟨u, hu⟩ : ∃ u, u = ({ s with dm := { s.dm with secret := [], wrapGen := 0, id := 0, catchup := false, parent := none, lostAt := none } } : State) := ⟨_, rfl⟩
  obtain ⟨gm, locked, -, -, only⟩ := u.setTime_spec false false
  obtain ⟨parts, -, others⟩ := u.setTime_stands false false
  have made : s.membershipDropped = (((((u.setTime false false).set R.FVL0_DT_DEPTH 0).set R.FVL0_ENROLLED 0).set R.FVL0_DOMAIN_ID_LO 0).set R.FVL0_DOMAIN_ID_HI 0).dropScope1 := by
    rw [hu]; rfl
  generalize u.setTime false false = w at *
  have field : ∀ f : Field, f.key ≠ R.FVL0_DT_DEPTH.key → f.key ≠ R.FVL0_ENROLLED.key → f.key ≠ R.FVL0_DOMAIN_ID_LO.key → f.key ≠ R.FVL0_DOMAIN_ID_HI.key →
      s.membershipDropped.get f = w.get f := fun f depth flag low high => by
    rw [made]
    show ((((w.set R.FVL0_DT_DEPTH 0).set R.FVL0_ENROLLED 0).set R.FVL0_DOMAIN_ID_LO 0).set R.FVL0_DOMAIN_ID_HI 0).get f = _
    rw [State.get_set_ne _ _ _ _ high.symm, State.get_set_ne _ _ _ _ low.symm, State.get_set_ne _ _ _ _ flag.symm, State.get_set_ne _ _ _ _ depth.symm]
  have flag : s.membershipDropped.get R.FVL0_ENROLLED = 0 := by
    rw [made]
    show ((((w.set R.FVL0_DT_DEPTH 0).set R.FVL0_ENROLLED 0).set R.FVL0_DOMAIN_ID_LO 0).set R.FVL0_DOMAIN_ID_HI 0).get R.FVL0_ENROLLED = _
    rw [State.get_set_ne _ _ _ _ (by decide), State.get_set_ne _ _ _ _ (by decide), State.get_set_same]; rfl
  have budget : s.membershipDropped.budget = s.budget := by
    rw [State.budget, field _ (by decide) (by decide) (by decide) (by decide), others _ (by decide) (by decide) (by decide), hu]; rfl
  refine ⟨by rw [State.enrolled, flag]; rfl, ?_, ?_, (field _ (by decide) (by decide) (by decide) (by decide)).trans gm,
    (field _ (by decide) (by decide) (by decide) (by decide)).trans locked, ?_, ?_, ?_, ?_, budget, ?_⟩
  all_goals rw [made]
  · show w.dm.secret = _; rw [only, hu]
  · show w.dm.id = _; rw [only, hu]
  · show w.sq = _; rw [only, hu]
  · show w.ge.fences = _; rw [only, hu]
  · show w.ge.lines.filter (fun e => handleScope (lineHandle e.1) != 1) = _; rw [only, hu]
  · show w.quartz = _; rw [only, hu]
  · show w.parts = _; rw [parts, hu]

/-- A handle of scope 1 has no line left. -/
theorem scope1_virgin {lines : Sparse KeyLine} (dropped : s.ge.lines = lines.filter fun e => handleScope (lineHandle e.1) != 1) {h : Nat} (scope : handleScope h = 1) (p : Nat) :
    s.line (lineKey p h) = {} := by
  by_contra live
  have listed := Sparse.mem_of_get_ne live
  rw [dropped] at listed
  have kept := (List.mem_filter.1 listed).2
  have small : h < 2 ^ 32 := by simp only [handleScope] at scope; omega
  have handle : lineHandle (lineKey p h) = h := by simp only [lineHandle, lineKey]; omega
  rw [handle, scope] at kept
  exact absurd kept (by decide)

theorem domainLeave_leaves (ready : programReady s c 0x1A run) (only : (progOf s c run).paramOnly 3 = true) (names : (progOf s c run).param 0 2 = 2)
    (member : s.enrolled = true) (frozen : ∀ p ∈ s.tenants, (s.part p).pstate = .frozen) :
    ∃ v : State, (∀ j, v.ctx j = s.ctx j) ∧
      exec (.domainLeave c run) s = .next (((v.countProgram (ctxKey c) none).endCommand (ctxKey c) 0 0 0 run.wrOk).settleSeeds c.cc) ∧
      v.enrolled = false ∧ v.dm.secret = [] ∧ v.dm.id = 0 ∧ v.get R.FVL0_GM = 0 ∧ v.get R.FVL0_DT_LOCKED = 0 ∧ (∀ h p, handleScope h = 1 → v.line (lineKey p h) = {}) ∧
      (∀ j, 2 ≤ j → j < 8 → v.get (R.FVL_STATE j) = 0) ∧
      ((s.created.map (·.1)).Nodup → ∀ x ∈ s.created, (v.part x.1).droot.gen = ((s.part x.1).droot.gen + 1) % 2 ^ 24) := by
  have poised : Poised (ctxKey c) s := .of_ready ready (by decide)
  obtain ⟨flag, secret, id, gm, locked, sq, fences, lines, quartz, budget, parts⟩ := s.membershipDropped_spec
  obtain ⟨a, ha⟩ : ∃ a, a = s.membershipDropped := ⟨_, rfl⟩
  rw [← ha] at flag secret id gm locked sq fences lines quartz budget parts
  obtain ⟨root, hroot⟩ : ∃ root : State → Nat → Root × State, root = fun s p =>
    ({ gen := ((s.part p).droot.gen + 1) % 2 ^ 24, key := some (s.draw 32).1 }, (s.draw 32).2) := ⟨_, rfl⟩
  have source : Roots root := fun v p => by rw [hroot]; exact ⟨.update .refl rfl rfl rfl rfl rfl rfl rfl, rfl, rfl⟩
  obtain ⟨b, hb⟩ : ∃ b, b = (s.created.map (·.1)).foldl (State.setDomainRoot root) a := ⟨_, rfl⟩
  obtain ⟨rooted, -, -⟩ := a.setDomainRoots_stands source (s.created.map (·.1))
  have next := fun distinct => State.setDomainRoots_next source (fun v p => by rw [hroot]) a (ps := s.created.map (·.1)) distinct
  rw [← hb] at rooted next
  obtain ⟨d, hd⟩ : ∃ d, d = [2, 3, 4, 5, 6, 7].foldl (fun s k => s.linkDown k 5) b := ⟨_, rfl⟩
  obtain ⟨fell, roots, down⟩ := State.linksDown_spec [2, 3, 4, 5, 6, 7] b (cause := 5) (by decide)
  rw [← hd] at fell roots down
  have follows : MemberStands d d.modeAfterEnrolment := MemberStands.refl.modeAfterEnrolment
  have all := (rooted.trans fell).trans follows
  have program : exec (.domainLeave c run) s = execDomainLeave c run s := rfl
  unfold execDomainLeave at program
  have poisedThen : Poised (ctxKey c) d.modeAfterEnrolment := poised.keeps (all.sq.trans sq) (by rw [all.ge]; exact fences) (all.quartz.trans quartz) (all.budget.trans budget)
  refine ⟨d.modeAfterEnrolment, fun j => by rw [State.ctx, all.sq, sq]; rfl, program.trans (State.domainProgram_ends ready only names (by decide) ?_ poisedThen),
    all.enrolled.trans flag, all.secret.trans secret, all.id.trans id, all.gm.trans gm, (all.locked (.inl flag)).trans locked,
    fun h p scope => scope1_virgin (by rw [all.ge]; exact lines) scope p, fun j low high => follows.down j high (down j ?_), fun distinct x hx => ?_⟩
  · refine .bind .get ?_
    dsimp only
    refine .bind (.need member _) (.bind (.need (List.all_eq_true.2 fun p hp => by rw [frozen p hp]; rfl) _) ?_)
    have created : s.created = a.created := by rw [State.created, State.created, parts]
    rw [hd, hb, hroot, ha, created, ha]
    exact .act _
  · simp only [List.mem_cons, List.not_mem_nil, or_false]; omega
  · have same : (d.modeAfterEnrolment.part x.1).droot = (b.part x.1).droot := by
      rw [State.part, d.modeAfterEnrolment_spec.1]
      exact congrArg (fun r => r.2.1) (congrFun roots x.1)
    rw [same, next distinct x.1 (List.mem_map.2 ⟨x, hx, rfl⟩), State.part, State.part, parts]

end Sys2Proof.Machine
end

section
/-! PROOF. Administration programs 0x010 to 0x01F serve (R125, R180, R274, R317, R329, R360-R362, R371, R396, R402, R427). -/
namespace Sys2Proof.Machine

/-- Settles O58: each program, run part by part, comes to its last boundary with its context poised for its end. -/
theorem administrationProgramsServe : Obligations.AdministrationProgramsServe := by
  unfold Obligations.AdministrationProgramsServe
  refine ⟨?staging, ?approval, ?record, ?challenge, ?response, ?sleep, ?domain, ?epoch, ?firmware, ?journal⟩
  case staging =>
    intro c run s e k bs ends stages
    refine ⟨fun ready inside only good => ?_, fun ready inside only good => ?_, fun ready inside only good => ?_, fun ready inside only => ⟨fun empty => ?_, fun long p u cluster engine => ?_⟩,
      fun ready only good => ?_, fun ready long zero legal => ?_, fun ready only latched idle paired => ?_⟩
    · exact programImage_stages ready inside only good
    · exact formatEntry_stages ready inside only good
    · exact derivationEntry_stages ready inside only good
    · exact curveEntry_empties ready inside only empty
    · exact ⟨fun pass taken => (curveEntry_stages ready inside only long cluster engine pass).1 taken, fun n bad => curveEntry_rejects ready inside only long cluster engine bad⟩
    · exact serviceApplet_stages ready only good
    · exact lifeCycleCommand_stages ready long zero legal
    · exact reProvision_stages ready only latched idle paired
  case approval =>
    intro c run s e k msg rest n ready long
    exact ⟨fun named keyed => approveChange_verifies ready long named keyed, fun unnamed => approveChange_unnamed ready long unnamed,
      fun named unkeyed => approveChange_unkeyed ready long named unkeyed⟩
  case record =>
    intro c run s e ready sealed_ room
    exact readChangeRecord_answers ready sealed_ room
  case challenge =>
    intro c run s e k bs ready state room full
    exact debugChallenge_answers ready state room full
  case response =>
    intro c run s e k msg grant v ready state long asked
    exact ⟨fun names ecKey pqKey ecSigned pqSigned some_ small zero still =>
      debugResponse_opens ready state long asked names ecKey pqKey ecSigned pqSigned some_ small zero still,
      fun other => debugResponse_refuses ready state long asked other⟩
  case sleep =>
    intro c run s3 s e k own ready only names served quiet idle free awake
    have begins := sleepProgram_begins (s3 := s3) ready only names served quiet idle free awake
    cases s3 <;> exact begins
  case domain =>
    intro c run s e k start ends ready only
    refine ⟨fun names alone full => ?_, fun g names alone sponsor link => ?_, fun names alone => domainJoin_refused ready only names alone, fun names member frozen => ?_⟩
    · obtain ⟨v, enrols, gm, locked, mode, run⟩ := domainCreate_enrols ready only names alone full
      exact ⟨v, ⟨enrols.ctx, run⟩, enrols.enrolled, enrols.secret_, enrols.id_, enrols.time_, gm, locked, mode, enrols.roots⟩
    · obtain ⟨v, enrols, caught, epochs, run⟩ := domainJoin_enrols ready only names alone g sponsor link
      exact ⟨v, ⟨enrols.ctx, run⟩, enrols.enrolled, enrols.secret_, enrols.id_, enrols.time_, caught, enrols.roots, epochs⟩
    · obtain ⟨v, ctx, run, rest⟩ := domainLeave_leaves ready only names member frozen
      exact ⟨v, ⟨ctx, run⟩, rest⟩
  case epoch =>
    intro c run late s e k p x ts tov ready only
    exact ⟨fun names none_ ahead brief past => scheduleEpoch_schedules ready only names none_ ahead brief past,
      fun t d names pending ahead => cancelEpoch_cancels ready only names pending ahead,
      fun t d names pending before near => cancelEpoch_late ready only names pending before near⟩
  case firmware =>
    intro c run s e k at_ last image ready restores only least most inside whole room
    have fits : ChunkFits s (progOf s c run) := ⟨restores, only, least, most, inside, whole, room⟩
    refine ⟨fun carries => ⟨fun more => restoreFirmwareChunk_keeps ready fits carries more, fun final bad => restoreFirmwareChunk_rejects ready fits carries final bad,
      fun final authentic plain => restoreFirmwareChunk_restores ready fits carries final authentic plain,
      fun final authentic latched => restoreFirmwareChunk_reInitialises ready fits carries final authentic rfl latched⟩,
      fun later other => restoreFirmwareChunk_breaks ready fits later other⟩
  case journal =>
    intro c run block mmk s e k num ready only medium served root
    exact ⟨fun names short => journalAppend_waits ready only medium served root names short,
      fun names long room kept written asked valid => journalRead_answers ready only medium served root names long room kept written asked valid⟩

end Sys2Proof.Machine
end
